-- ==== Sys2Proof/Word.lean ====
section
/-!
DEFINITION. Words, lane masks and the sparse maps in which the model holds registers and memory.

A sparse map is a list of (key, value) pairs in one canonical form: keys strictly rising, no value equal to what an
unlisted key reads as. Equal maps are equal lists, so states can be compared and written out.
-/

namespace Sys2Proof

abbrev Byte := BitVec 8
abbrev W16 := BitVec 16
abbrev W32 := BitVec 32
abbrev W64 := BitVec 64
/-- One bit per lane of a group (R58). -/
abbrev LaneMask := BitVec 32

abbrev SReg := Fin 64
abbrev VReg := Fin 128
abbrev CReg := Fin 8

/-- Bits [hi:lo] of a number (R2). -/
def fld (w hi lo : Nat) : Nat := w / 2 ^ lo % 2 ^ (hi + 1 - lo)

/-- A sparse map from numbers, in canonical form: see `SMap.wf`. -/
abbrev SMap (α : Type) := List (Nat × α)

namespace SMap

variable {α : Type}

/-- The value at `k`; `d` is what an unlisted key reads as. -/
def get (d : α) : SMap α → Nat → α
  | [], _ => d
  | (j, v) :: m, k => if k = j then v else get d m k

/-- Remove the entry at `k`. -/
def erase : SMap α → Nat → SMap α
  | [], _ => []
  | (j, v) :: m, k => if k = j then m else (j, v) :: erase m k

/-- List `v` at `k`, keeping the keys rising. -/
def insert : SMap α → Nat → α → SMap α
  | [], k, v => [(k, v)]
  | (j, w) :: m, k, v =>
    if k < j then (k, v) :: (j, w) :: m else if k = j then (k, v) :: m else (j, w) :: insert m k v

/-- Write `v` at `k`; writing what an unlisted key reads as removes the entry. -/
def set [DecidableEq α] (d : α) (m : SMap α) (k : Nat) (v : α) : SMap α :=
  if v = d then erase m k else insert m k v

/-- Keys strictly rising, all at least `lo`, and no listed value equal to `d`. -/
def wfFrom [DecidableEq α] (d : α) : Nat → SMap α → Bool
  | _, [] => true
  | lo, (k, v) :: m => decide (lo ≤ k) && decide (v ≠ d) && wfFrom d (k + 1) m

/-- The canonical form. -/
def wf [DecidableEq α] (d : α) (m : SMap α) : Bool := wfFrom d 0 m

end SMap

end Sys2Proof
end

