-- ==== Sys2Proof/Syntax.lean ====
section
/-!
DEFINITION. The instruction set as syntax: one constructor of `Instr` for each row of spec/opcode_table.json, the 216
instruction words and the 106 events. The operands of an event stand in `Event`, which the agenda holds. Field names are the table's. The chain bit of a word is not part of `Instr`: it
belongs to the issue unit (R180), see `Word1`.
-/

namespace Sys2Proof

/-- The second operand of VR and VC words (R182). -/
inductive BSel where
  | vreg (n : VReg)
  | sreg (n : SReg)
  | imm (i : BitVec 5)
  | lit
  deriving DecidableEq, Repr

/-- The access widths of MV words (R181, R246). -/
inductive Width where
  | x8 | x16 | x32 | x64
  deriving DecidableEq, Repr

/-- Cache hints (R246); code 3 is reserved. -/
inductive Hint where
  | normal | nt | keep
  deriving DecidableEq, Repr

/-- Rounding modes (R115). -/
inductive RMode where
  | rne | rz | ru | rd
  deriving DecidableEq, Repr

/-- Scopes (R128); code 7 is reserved. -/
inductive Scope where
  | thr | grp | team | clu | die | dev | sys
  deriving DecidableEq, Repr

/-- Orders of atomics and ring operations (R136). -/
inductive Ord where
  | rlx | acq | rel | acqrel
  deriving DecidableEq, Repr

/-- Orders of fence (R254); code 0 is reserved. -/
inductive FOrd where
  | acq | rel | acqrel
  deriving DecidableEq, Repr

/-- Atomic operations (R251). -/
inductive AOp where
  | add32 | minS | maxS | minZ | maxZ | and | or | xor | xchg32 | cas32 | addF32 | add64 | xchg64 | cas64
  deriving DecidableEq, Repr

/-- Operations of vmred (R252). -/
inductive RedOp where
  | add32 | minS | maxS | minZ | maxZ | and | or | xor | addF32 | add64
  deriving DecidableEq, Repr

/-- Operations of sg.mod (R319). -/
inductive ModOp where
  | add32 | minS | maxS | minZ | maxZ | and | or | xor | xchg32 | cas32 | addF32
  deriving DecidableEq, Repr

/-- Relations of vcmp (R222). -/
inductive ICmp where
  | eq | ne | ltS | leS | gtS | geS | ltZ | leZ | gtZ | geZ | tst
  deriving DecidableEq, Repr

/-- Relations of vfcmp and vdcmp (R240). -/
inductive FCmp where
  | eq | ne | lt | le | gt | ge | ord | uno
  deriving DecidableEq, Repr

/-- Conditions of sg.arm (R322). -/
inductive ArmCmp where
  | geZ | geS | eq | ne | leZ | leS
  deriving DecidableEq, Repr

/-- Reductions of vfold (R228). -/
inductive FoldOp where
  | addZ | addS | minS | maxS | minZ | maxZ | and | or | xor | addF32
  deriving DecidableEq, Repr

/-- Reductions of vscan (R229). -/
inductive ScanOp where
  | add | minS | maxS | minZ | maxZ | and | or | xor
  deriving DecidableEq, Repr

/-- Widths of sext (R197). -/
inductive ExtW where
  | z32 | s32 | x64
  deriving DecidableEq, Repr

/-- Widths of vins (R198). -/
inductive InsW where
  | lo | hi | x64
  deriving DecidableEq, Repr

/-- Value types of vcvt (R241). -/
inductive CvtT where
  | f64 | f32 | f16 | bf16 | f8m | f8e | s32 | z32 | s16 | z16 | s8 | z8 | s4 | z4
  deriving DecidableEq, Repr

/-- Field widths of vpack and vunpk (R244). -/
inductive PackW where
  | n4 | n8 | n16
  deriving DecidableEq, Repr

/-- Operand formats of the matrix engine (R103). -/
inductive Fmt where
  | f64 | f32 | f16 | bf16 | f8m | f8e | s16 | s8 | z8 | s4 | z4 | q8 | q4 | d8 | d6 | m4
  deriving DecidableEq, Repr

/-- Tile kinds (R285). -/
inductive TKind where
  | f32 | s32 | f64 | part
  deriving DecidableEq, Repr

/-- State codes of vbank and pbank (R259). -/
inductive BankCode where
  | full | retain | off
  deriving DecidableEq, Repr

/-- A structure shared through the rota (R10, R14). -/
inductive Struct where
  | router (core : Nat)
  | link (src dst : Nat)
  | slice (die m : Nat)
  | dram (die ch : Nat)
  | copyEngine (core : Nat)
  | hostLink
  | colalm (port : Nat)
  deriving DecidableEq, Repr

/-- What a peer's request over a Colalm port asks (R413). -/
inductive Inbound where
  | read
  | write (bytes : List Byte)
  | atomic (op : AOp) (v nv : W64)
  deriving DecidableEq, Repr

/-- Instruction words and events, in the order of the opcode table. -/
inductive Instr where
  /-- NOP (R179). The all-zero word; it does nothing and takes no turn where R42 says so. -/
  | nop
  /-- SADD (R190). Scalar wrapping add of two scalar registers. -/
  | sadd (d : SReg) (a : SReg) (b : SReg)
  /-- SSUB (R190). Scalar wrapping subtract. -/
  | ssub (d : SReg) (a : SReg) (b : SReg)
  /-- SMUL (R190). Scalar wrapping multiply. -/
  | smul (d : SReg) (a : SReg) (b : SReg)
  /-- SMULH_S (R190). High 64 bits of the signed product. -/
  | smulhS (d : SReg) (a : SReg) (b : SReg)
  /-- SMULH_Z (R190). High 64 bits of the unsigned product. -/
  | smulhZ (d : SReg) (a : SReg) (b : SReg)
  /-- SAND (R190). Scalar bitwise and. -/
  | sand (d : SReg) (a : SReg) (b : SReg)
  /-- SOR (R190). Scalar bitwise or. -/
  | sor (d : SReg) (a : SReg) (b : SReg)
  /-- SXOR (R190). Scalar bitwise exclusive or. -/
  | sxor (d : SReg) (a : SReg) (b : SReg)
  /-- SSHL (R190). Scalar shift left by b[5:0]. -/
  | sshl (d : SReg) (a : SReg) (b : SReg)
  /-- SSHR_Z (R190). Scalar logical shift right. -/
  | sshrZ (d : SReg) (a : SReg) (b : SReg)
  /-- SSHR_S (R190). Scalar arithmetic shift right. -/
  | sshrS (d : SReg) (a : SReg) (b : SReg)
  /-- SMIN_S (R190). Signed scalar minimum. -/
  | sminS (d : SReg) (a : SReg) (b : SReg)
  /-- SMAX_S (R190). Signed scalar maximum. -/
  | smaxS (d : SReg) (a : SReg) (b : SReg)
  /-- SMIN_Z (R190). Unsigned scalar minimum. -/
  | sminZ (d : SReg) (a : SReg) (b : SReg)
  /-- SMAX_Z (R190). Unsigned scalar maximum. -/
  | smaxZ (d : SReg) (a : SReg) (b : SReg)
  /-- SSLT_S (R190). Sets 1 when a is less than b, signed. -/
  | ssltS (d : SReg) (a : SReg) (b : SReg)
  /-- SSLT_Z (R190). Sets 1 when a is less than b, unsigned. -/
  | ssltZ (d : SReg) (a : SReg) (b : SReg)
  /-- SSEQ (R190). Sets 1 when a equals b. -/
  | sseq (d : SReg) (a : SReg) (b : SReg)
  /-- SADDI (R192). Scalar add of a sign-extended 12-bit immediate. -/
  | saddi (d : SReg) (a : SReg) (i : BitVec 12)
  /-- SANDI (R192). Scalar and with an immediate. -/
  | sandi (d : SReg) (a : SReg) (i : BitVec 12)
  /-- SORI (R192). Scalar or with an immediate. -/
  | sori (d : SReg) (a : SReg) (i : BitVec 12)
  /-- SXORI (R192). Scalar exclusive or with an immediate. -/
  | sxori (d : SReg) (a : SReg) (i : BitVec 12)
  /-- SSHLI (R193). Scalar shift left by an immediate count. -/
  | sshli (d : SReg) (a : SReg) (n : Fin 64)
  /-- SSHRI_Z (R193). Scalar logical shift right by an immediate. -/
  | sshriZ (d : SReg) (a : SReg) (n : Fin 64)
  /-- SSHRI_S (R193). Scalar arithmetic shift right by an immediate. -/
  | sshriS (d : SReg) (a : SReg) (n : Fin 64)
  /-- SLIT (R194). Loads a sign-extended 18-bit immediate into a scalar. -/
  | slit (d : SReg) (i : BitVec 18)
  /-- SLITW_Z (R195). Loads the zero-extended packet literal. -/
  | slitwZ (d : SReg)
  /-- SLITW_S (R195). Loads the sign-extended packet literal. -/
  | slitwS (d : SReg)
  /-- SLITW_LO (R195). Replaces the low 32 bits with the literal. -/
  | slitwLo (d : SReg)
  /-- SLITW_HI (R195). Replaces the high 32 bits with the literal. -/
  | slitwHi (d : SReg)
  /-- SGETSR (R199). Reads a special register into a scalar in the issue cycle. -/
  | sgetsr (d : SReg) (n : Fin 4096)
  /-- SSETSR (R200). Writes a scalar into the RW fields of a special register. -/
  | ssetsr (a : SReg) (n : Fin 4096)
  /-- SSETSR_SET (R200). Ors a scalar into a special register. -/
  | ssetsrSet (a : SReg) (n : Fin 4096)
  /-- SSETSR_CLR (R200). Clears the bits of a scalar in a special register. -/
  | ssetsrClr (a : SReg) (n : Fin 4096)
  /-- SCMP_EQ (R196). Sets every bit of cd when the scalars are equal. -/
  | scmpEq (d : CReg) (a : SReg) (b : SReg)
  /-- SCMP_NE (R196). Sets every bit of cd when the scalars differ. -/
  | scmpNe (d : CReg) (a : SReg) (b : SReg)
  /-- SCMP_LT_S (R196). Signed less-than scalar compare into a condition register. -/
  | scmpLtS (d : CReg) (a : SReg) (b : SReg)
  /-- SCMP_LE_S (R196). Signed less-or-equal scalar compare. -/
  | scmpLeS (d : CReg) (a : SReg) (b : SReg)
  /-- SCMP_LT_Z (R196). Unsigned less-than scalar compare. -/
  | scmpLtZ (d : CReg) (a : SReg) (b : SReg)
  /-- SCMP_LE_Z (R196). Unsigned less-or-equal scalar compare. -/
  | scmpLeZ (d : CReg) (a : SReg) (b : SReg)
  /-- SEXT (R197). Copies a named lane of a vector register into a scalar. -/
  | sext (d : SReg) (a : VReg) (w : ExtW) (l : Fin 32)
  /-- SEXT_FIRST (R197). Copies the lowest active lane into a scalar. -/
  | sextFirst (d : SReg) (a : VReg) (w : ExtW)
  /-- SEXT_LAST (R197). Copies the highest active lane into a scalar. -/
  | sextLast (d : SReg) (a : VReg) (w : ExtW)
  /-- VINS (R198). Writes a scalar value into one named lane. -/
  | vins (d : VReg) (a : SReg) (w : InsW) (l : Fin 32)
  /-- VINS_ALL (R198). Writes a scalar value into every active lane. -/
  | vinsAll (d : VReg) (a : SReg) (w : InsW)
  /-- VADD (R214). Wrapping 32-bit vector add. -/
  | vadd (d : VReg) (a : VReg) (b : BSel)
  /-- VADD_SAT_S (R214). Signed saturating vector add. -/
  | vaddSatS (d : VReg) (a : VReg) (b : BSel)
  /-- VADD_SAT_Z (R214). Unsigned saturating vector add. -/
  | vaddSatZ (d : VReg) (a : VReg) (b : BSel)
  /-- VSUB (R214). Wrapping vector subtract. -/
  | vsub (d : VReg) (a : VReg) (b : BSel)
  /-- VSUB_SAT_S (R214). Signed saturating vector subtract. -/
  | vsubSatS (d : VReg) (a : VReg) (b : BSel)
  /-- VSUB_SAT_Z (R214). Unsigned saturating vector subtract. -/
  | vsubSatZ (d : VReg) (a : VReg) (b : BSel)
  /-- VMUL (R215). Wrapping 32-bit vector multiply. -/
  | vmul (d : VReg) (a : VReg) (b : BSel)
  /-- VMULH_S (R215). High half of the signed vector product. -/
  | vmulhS (d : VReg) (a : VReg) (b : BSel)
  /-- VMULH_Z (R215). High half of the unsigned vector product. -/
  | vmulhZ (d : VReg) (a : VReg) (b : BSel)
  /-- VMIN_S (R217). Signed vector minimum. -/
  | vminS (d : VReg) (a : VReg) (b : BSel)
  /-- VMIN_Z (R217). Unsigned vector minimum. -/
  | vminZ (d : VReg) (a : VReg) (b : BSel)
  /-- VMAX_S (R217). Signed vector maximum. -/
  | vmaxS (d : VReg) (a : VReg) (b : BSel)
  /-- VMAX_Z (R217). Unsigned vector maximum. -/
  | vmaxZ (d : VReg) (a : VReg) (b : BSel)
  /-- VAND (R218). Vector bitwise and. -/
  | vand (d : VReg) (a : VReg) (b : BSel)
  /-- VOR (R218). Vector bitwise or. -/
  | vor (d : VReg) (a : VReg) (b : BSel)
  /-- VXOR (R218). Vector bitwise exclusive or. -/
  | vxor (d : VReg) (a : VReg) (b : BSel)
  /-- VANDN (R218). Vector and with the complement of b. -/
  | vandn (d : VReg) (a : VReg) (b : BSel)
  /-- VSHL (R218). Vector shift left by B[4:0]. -/
  | vshl (d : VReg) (a : VReg) (b : BSel)
  /-- VSHR_Z (R218). Vector logical shift right. -/
  | vshrZ (d : VReg) (a : VReg) (b : BSel)
  /-- VSHR_S (R218). Vector arithmetic shift right. -/
  | vshrS (d : VReg) (a : VReg) (b : BSel)
  /-- VROT (R218). Vector rotate left. -/
  | vrot (d : VReg) (a : VReg) (b : BSel)
  /-- VLUT3 (R219). Applies the literal's 8-entry truth table bit by bit to vd, va and b. -/
  | vlut3 (d : VReg) (a : VReg) (b : BSel)
  /-- VPOPC (R220). Counts the one bits of each lane. -/
  | vpopc (d : VReg) (a : VReg)
  /-- VCLZ (R220). Counts leading zeros of each lane. -/
  | vclz (d : VReg) (a : VReg)
  /-- VCTZ (R220). Counts trailing zeros of each lane. -/
  | vctz (d : VReg) (a : VReg)
  /-- VBREV (R220). Reverses the bits of each lane. -/
  | vbrev (d : VReg) (a : VReg)
  /-- VBFX_Z (R221). Extracts a bit field, zero-extended. -/
  | vbfxZ (d : VReg) (a : VReg) (b : BSel)
  /-- VBFX_S (R221). Extracts a bit field, sign-extended. -/
  | vbfxS (d : VReg) (a : VReg) (b : BSel)
  /-- VBFI (R221). Inserts low bits of va as a field of vd. -/
  | vbfi (d : VReg) (a : VReg) (b : BSel)
  /-- VADDI (R216). Vector add of a sign-extended 10-bit immediate. -/
  | vaddi (d : VReg) (a : VReg) (i : BitVec 10)
  /-- VCMP (R222). Integer compare of each active lane into a condition register. -/
  | vcmp (c : CReg) (a : VReg) (b : BSel) (p : ICmp)
  /-- VSEL (R223). Selects va or vb in each active lane by a condition bit. -/
  | vsel (d : VReg) (a : VReg) (b : VReg) (c : CReg)
  /-- VMOV (R224). Copies a vector register. -/
  | vmov (d : VReg) (a : VReg)
  /-- VMOV_X64 (R224). Copies a vector register pair. -/
  | vmovX64 (d : VReg) (a : VReg)
  /-- VLIT (R224). Loads a sign-extended 15-bit constant into each active lane. -/
  | vlit (d : VReg) (i : BitVec 15)
  /-- VLANEID (R224). Writes each lane's physical lane number. -/
  | vlaneid (d : VReg)
  /-- VBALLOT (R226). Writes the mask of active lanes whose condition bit is set. -/
  | vballot (d : VReg) (c : CReg)
  /-- VMRANK (R226). Counts set mask bits below each lane. -/
  | vmrank (d : VReg) (c : CReg)
  /-- VMRANK_INC (R226). Counts set mask bits at or below each lane. -/
  | vmrankInc (d : VReg) (c : CReg)
  /-- VSHFL_IDX (R227). Reads the lane named by B[4:0]. -/
  | vshflIdx (d : VReg) (a : VReg) (b : BSel)
  /-- VSHFL_UP (R227). Reads the lane B below, or keeps its own. -/
  | vshflUp (d : VReg) (a : VReg) (b : BSel)
  /-- VSHFL_DOWN (R227). Reads the lane B above, or keeps its own. -/
  | vshflDown (d : VReg) (a : VReg) (b : BSel)
  /-- VSHFL_XOR (R227). Reads the lane L XOR B. -/
  | vshflXor (d : VReg) (a : VReg) (b : BSel)
  /-- VFOLD (R228). Reduces the active lanes to one scalar. -/
  | vfold (d : SReg) (a : VReg) (o : FoldOp)
  /-- VSCAN (R229). Writes a running reduction in ascending lane order. -/
  | vscan (d : VReg) (a : VReg) (x : Bool) (o : ScanOp)
  /-- VREGRP (R230). Arrives at a team regroup point that compacts live lanes into fewer groups. -/
  | vregrp (f : VReg) (n : Fin 16) (c : CReg) (p : Fin 256)
  /-- VFADD (R234). F32 add under the rounding field. -/
  | vfadd (d : VReg) (a : VReg) (b : BSel) (r : RMode)
  /-- VFSUB (R234). F32 subtract. -/
  | vfsub (d : VReg) (a : VReg) (b : BSel) (r : RMode)
  /-- VFMUL (R234). F32 multiply. -/
  | vfmul (d : VReg) (a : VReg) (b : BSel) (r : RMode)
  /-- VFMA (R234). F32 fused multiply-add with vd as addend. -/
  | vfma (d : VReg) (a : VReg) (b : BSel) (r : RMode)
  /-- VFNMA (R234). F32 fused vd minus product. -/
  | vfnma (d : VReg) (a : VReg) (b : BSel) (r : RMode)
  /-- VFDIV (R234). F32 divide. -/
  | vfdiv (d : VReg) (a : VReg) (b : BSel) (r : RMode)
  /-- VFMIN (R238). F32 minimum, NaN if either is NaN. -/
  | vfmin (d : VReg) (a : VReg) (b : BSel)
  /-- VFMAX (R238). F32 maximum, NaN if either is NaN. -/
  | vfmax (d : VReg) (a : VReg) (b : BSel)
  /-- VFMINN (R238). F32 minimum ignoring one NaN. -/
  | vfminn (d : VReg) (a : VReg) (b : BSel)
  /-- VFMAXN (R238). F32 maximum ignoring one NaN. -/
  | vfmaxn (d : VReg) (a : VReg) (b : BSel)
  /-- VFCMP (R240). F32 compare into a condition register. -/
  | vfcmp (c : CReg) (a : VReg) (b : BSel) (p : FCmp)
  /-- VFSQRT (R237). F32 square root rounded once RNE. -/
  | vfsqrt (d : VReg) (a : VReg)
  /-- VFRCP (R237). F32 reciprocal. -/
  | vfrcp (d : VReg) (a : VReg)
  /-- VFRSQ (R237). F32 reciprocal square root. -/
  | vfrsq (d : VReg) (a : VReg)
  /-- VFEX2 (R237). F32 power of two. -/
  | vfex2 (d : VReg) (a : VReg)
  /-- VFLG2 (R237). F32 base-two logarithm. -/
  | vflg2 (d : VReg) (a : VReg)
  /-- VFABS (R239). Clears the sign bit. -/
  | vfabs (d : VReg) (a : VReg)
  /-- VFNEG (R239). Flips the sign bit. -/
  | vfneg (d : VReg) (a : VReg)
  /-- VFCPSGN (R239). Copies the sign of b onto va. -/
  | vfcpsgn (d : VReg) (a : VReg) (b : BSel)
  /-- VDADD (R235). F64 add RNE. -/
  | vdadd (d : VReg) (a : VReg) (b : BSel)
  /-- VDSUB (R235). F64 subtract RNE. -/
  | vdsub (d : VReg) (a : VReg) (b : BSel)
  /-- VDMUL (R235). F64 multiply RNE. -/
  | vdmul (d : VReg) (a : VReg) (b : BSel)
  /-- VDFMA (R235). F64 fused multiply-add RNE. -/
  | vdfma (d : VReg) (a : VReg) (b : BSel)
  /-- VDDIV (R235). F64 divide under the rounding field. -/
  | vddiv (d : VReg) (a : VReg) (b : BSel) (r : RMode)
  /-- VDCMP (R240). F64 compare into a condition register. -/
  | vdcmp (c : CReg) (a : VReg) (b : BSel) (p : FCmp)
  /-- VDSQRT (R237). F64 square root rounded once RNE. -/
  | vdsqrt (d : VReg) (a : VReg)
  /-- VHADD (R236). Packed F16 or BF16 add. -/
  | vhadd (d : VReg) (a : VReg) (b : BSel) (f : Bool)
  /-- VHMUL (R236). Packed F16 or BF16 multiply. -/
  | vhmul (d : VReg) (a : VReg) (b : BSel) (f : Bool)
  /-- VHFMA (R236). Packed F16 or BF16 fused multiply-add. -/
  | vhfma (d : VReg) (a : VReg) (b : BSel) (f : Bool)
  /-- VCVT (R242). Converts each active lane from one type to another, rounding once. -/
  | vcvt (d : VReg) (a : VReg) (f : CvtT) (t : CvtT) (r : RMode)
  /-- VQUANT_D8 (R243). Quantises F32 to dyad8 codes. -/
  | vquantD8 (d : VReg) (a : VReg) (b : BSel)
  /-- VQUANT_D6 (R243). Quantises F32 to dyad6 codes. -/
  | vquantD6 (d : VReg) (a : VReg) (b : BSel)
  /-- VQUANT_M4 (R243). Quantises F32 to monad4 codes. -/
  | vquantM4 (d : VReg) (a : VReg) (b : BSel)
  /-- VQUANT_S8 (R243). Quantises F32 to S8 codes. -/
  | vquantS8 (d : VReg) (a : VReg) (b : BSel)
  /-- VPACK (R244). Packs narrow fields of n registers into one lane word. -/
  | vpack (d : VReg) (a : VReg) (w : PackW)
  /-- VUNPK_Z (R244). Unpacks narrow fields zero-extended into n registers. -/
  | vunpkZ (d : VReg) (a : VReg) (w : PackW)
  /-- VUNPK_S (R244). Unpacks narrow fields sign-extended into n registers. -/
  | vunpkS (d : VReg) (a : VReg) (w : PackW)
  /-- SG_BOARD (R320). Asks that a ring slot board with a home address and payload. -/
  | sgBoard (d : SReg) (a : SReg)
  /-- SG_ALIGHT (R321). Asks that an aboard slot alight and write its payload home. -/
  | sgAlight (d : SReg) (a : SReg)
  /-- SG_CAP (R321). Captures a slot's header and payload at its passage. -/
  | sgCap (d : SReg) (a : SReg) (r : Bool)
  /-- SG_MOD (R321). Modifies one payload word of an aboard slot at a passage. -/
  | sgMod (d : SReg) (a : SReg) (o : ModOp) (w : Fin 8) (r : Ord)
  /-- SG_ARM (R322). Registers an arm tying a payload-word condition to a barrier object. -/
  | sgArm (d : SReg) (a : SReg) (o : ArmCmp) (w : Fin 8)
  /-- SG_REV (R321). Probes a slot's state and seam count at its next passage. -/
  | sgRev (d : SReg) (a : SReg)
  /-- SG_REV_OFS (R321). Writes the seat's ring offset rho. -/
  | sgRevOfs (d : SReg)
  /-- BR (R203). Unconditional branch of the issuing split. -/
  | br (o : BitVec 19)
  /-- BR_ANY (R203). Branch when any active lane has its condition bit set. -/
  | brAny (c : CReg) (o : BitVec 19)
  /-- BR_ALL (R203). Branch when every active lane has its condition bit set. -/
  | brAll (c : CReg) (o : BitVec 19)
  /-- BR_NONE (R203). Branch when no active lane has its condition bit set. -/
  | brNone (c : CReg) (o : BitVec 19)
  /-- CALL (R205). Writes the link value to s63 and branches. -/
  | call (o : BitVec 19)
  /-- JMP (R206). Jumps to the packet and slot in a scalar, optionally writing a link. -/
  | jmp (d : SReg) (a : SReg)
  /-- BRX (R207). Divergent branch that may split the issuing split by per-lane targets. -/
  | brx (b : SReg) (a : VReg)
  /-- VIF (R209). Raises nesting counters of lanes whose condition fails. -/
  | vif (c : CReg)
  /-- VELSE (R209). Inverts the innermost mask level. -/
  | velse
  /-- VEND (R209). Lowers nesting counters by one level. -/
  | vend
  /-- VKILL (R209). Retires active lanes whose condition bit is set. -/
  | vkill (c : CReg)
  /-- VBRK (R209). Sets active lanes whose condition holds to nest m. -/
  | vbrk (c : CReg) (m : Fin 256)
  /-- EXIT (R50). Retires the active lanes; the group ends when all lanes are retired. -/
  | exit
  /-- TRAP (R211). Raises SoftwareTrap when the split has an active lane. -/
  | trap (x : BitVec 16)
  /-- BRK (R211). Raises Breakpoint when enabled and a lane is active. -/
  | brk (x : BitVec 16)
  /-- VLD_Z (R247). Vector global load, zero-extended. -/
  | vldZ (d : VReg) (b : SReg) (o : VReg) (w : Width) (h : Hint)
  /-- VLD_S (R247). Vector global load, sign-extended. -/
  | vldS (d : VReg) (b : SReg) (o : VReg) (w : Width) (h : Hint)
  /-- VST (R247). Vector global store. -/
  | vst (d : VReg) (b : SReg) (o : VReg) (w : Width) (h : Hint)
  /-- SLD (R249). Scalar 64-bit global load, or a touch with sd = s0. -/
  | sld (d : SReg) (b : SReg) (o : BitVec 12)
  /-- SLW (R249). Scalar 32-bit zero-extended global load, or a touch with sd = s0. -/
  | slw (d : SReg) (b : SReg) (o : BitVec 12)
  /-- SST (R249). Scalar 64-bit global store. -/
  | sst (d : SReg) (b : SReg) (o : BitVec 12)
  /-- SSW (R249). Scalar 32-bit global store. -/
  | ssw (d : SReg) (b : SReg) (o : BitVec 12)
  /-- VLDS (R247). Vector scratchpad load. -/
  | vlds (d : VReg) (b : SReg) (o : VReg) (w : Width)
  /-- VSTS (R247). Vector scratchpad store. -/
  | vsts (d : VReg) (b : SReg) (o : VReg) (w : Width)
  /-- VLDA (R247). Vector ABUF load. -/
  | vlda (d : VReg) (b : SReg) (o : VReg) (w : Width)
  /-- VSTA (R247). Vector ABUF store. -/
  | vsta (d : VReg) (b : SReg) (o : VReg) (w : Width)
  /-- VLDX (R247). Vector XBUF load of tile bytes. -/
  | vldx (d : VReg) (b : SReg) (o : VReg) (w : Bool)
  /-- VATOM (R252). Per-lane global atomic read-modify-write returning the old value. -/
  | vatom (d : VReg) (a : VReg) (p : AOp) (s : Scope) (r : Ord)
  /-- VMRED (R252). Per-lane non-returning global reduction. -/
  | vmred (d : VReg) (a : VReg) (p : RedOp) (s : Scope) (r : Ord)
  /-- SATOM (R253). Scalar global atomic at device scope. -/
  | satom (d : SReg) (a : SReg) (b : SReg) (p : AOp) (r : Ord)
  /-- VATOMS (R252). Per-lane scratchpad atomic. -/
  | vatoms (d : VReg) (a : VReg) (p : AOp) (s : Scope) (r : Ord)
  /-- FENCE (R254). Acquire, release or acqrel fence at a scope, optionally naming UO. -/
  | fence (u : Bool) (r : FOrd) (s : Scope)
  /-- BAR_INIT (R256). Initialises a barrier object with an EXPECT count. -/
  | barInit (b : SReg) (e : SReg)
  /-- BAR_EXPECT (R256). Adds a byte count to PEND. -/
  | barExpect (b : SReg) (e : SReg)
  /-- BAR_ARRIVE (R256). Arrival on a barrier, relaxed or release. -/
  | barArrive (b : SReg) (p : Scope) (o : Bool)
  /-- BAR_ARRIVE_EXP (R256). Expect and arrival in one update. -/
  | barArriveExp (b : SReg) (e : SReg) (p : Scope) (o : Bool)
  /-- BAR_WAIT (R256). Blocks the split until a barrier phase completes. -/
  | barWait (b : SReg) (e : SReg) (p : Scope) (o : Bool)
  /-- BAR_TEST (R256). Reports whether a barrier phase has completed. -/
  | barTest (b : SReg) (e : SReg) (p : Scope) (o : Bool)
  /-- BAR_PHASE (R256). Reads a barrier's PHASE into a scalar. -/
  | barPhase (b : SReg) (e : SReg)
  /-- WAITC (R258). Blocks the split until outstanding counts fall to the limits. -/
  | waitc (l : Fin 16) (s : Fin 16) (y : Fin 16) (t : Fin 16)
  /-- VBANK (R259). Sets the named register banks Full, Retain or Off. -/
  | vbank (m : BitVec 16) (s : BankCode)
  /-- PBANK (R260). Sets a range of team scratchpad banks to a state. -/
  | pbank (f : Fin 128) (n : Fin 128) (s : BankCode)
  /-- EACQ (R261). Acquires the extended register block, blocking if unavailable. -/
  | eacq
  /-- EACQ_TRY (R261). Tries to acquire the extended block without blocking. -/
  | eacqTry (c : CReg)
  /-- EREL (R261). Returns the extended block to the pool. -/
  | erel
  /-- CP_G2S (R268). Queues a copy from global memory to scratchpad. -/
  | cpG2s (d : SReg) (q : Fin 6)
  /-- CP_S2G (R268). Queues a copy from scratchpad to global memory. -/
  | cpS2g (d : SReg) (q : Fin 6)
  /-- CP_G2A (R268). Queues a copy from global memory to ABUF. -/
  | cpG2a (d : SReg) (q : Fin 6)
  /-- CP_G2W (R268). Queues a copy from global memory to WBUF. -/
  | cpG2w (d : SReg) (q : Fin 6)
  /-- CP_X2G (R268). Queues a drain copy from XBUF tiles to global memory. -/
  | cpX2g (d : SReg) (q : Fin 6)
  /-- CP_G2G (R268). Queues a global-to-global forward copy. -/
  | cpG2g (d : SReg) (q : Fin 6)
  /-- CP_CIRC (R95). Queues a fill of the next circular buffer slot. -/
  | cpCirc (d : SReg) (q : Fin 6)
  /-- GTH (R99). Queues a gather of indexed rows into scratchpad or ABUF. -/
  | gth (d : SReg) (q : Fin 6)
  /-- QFENCE (R273). Places an ordering mark between commands on the named queues. -/
  | qfence (m : BitVec 8)
  /-- CB_WAIT (R274). Reads NEXT and waits for that fill's phase, then acquires. -/
  | cbWait (d : SReg) (a : SReg)
  /-- CB_FREE (R274). Release arrival on the freed barrier of a circular buffer. -/
  | cbFree (a : SReg)
  /-- LAUNCH (R276). Places a child grid record, parking the team when the quota is full. -/
  | launch (d : SReg)
  /-- LAUNCH_TRY (R276). Places a child grid record if the quota has room and reports success. -/
  | launchTry (d : SReg) (c : CReg)
  /-- JOIN (R278). Awaits child grids with a given tag. -/
  | join (a : SReg)
  /-- JOIN_ALL (R278). Awaits all grids launched by the team. -/
  | joinAll
  /-- JOIN_DOOR (R278). Charged wait on the host doorbell count. -/
  | joinDoor (a : SReg)
  /-- AMSG (R279). Sends an active message that starts a handler team on another core of the seat. -/
  | amsg (d : SReg)
  /-- XCFG (R298). Queues configuration of an accumulator tile. -/
  | xcfg (p : VReg) (n : TKind) (x : Bool)
  /-- XLDS (R299). Queues a load of a pair's shadow plane from WBUF. -/
  | xlds (p : VReg) (r : Fin 4) (f : Fmt)
  /-- XSWP (R300). Queues a swap of active and shadow planes. -/
  | xswp (r : Fin 4)
  /-- XMM (R302). Issues one quarter-pass per taking-part quarter accumulating into a tile. -/
  | xmm (p : VReg) (r : Fin 4) (f : Fmt) (a : Bool) (i : Bool)
  /-- XBMM (R303). Issues block-format quarter-passes writing partial planes. -/
  | xbmm (p : VReg) (r : Fin 4) (f : Fmt) (i : Bool)
  /-- XSCAC (R304). Queues application of block scales from partial planes to an F32 tile. -/
  | xscac (p : VReg) (a : Bool)
  /-- XDRN (R305). Queues a checksum-verifying drain that closes the named tiles. -/
  | xdrn (p : VReg)
  /-- XREL (R305). Queues release of the named tiles. -/
  | xrel (p : VReg) (x : Bool)
  /-- ERET (R343). Replays the log, restores nesting and splits and returns to user level. -/
  | eret
  /-- MFSYS (R344). Reads any special register at supervisor level. -/
  | mfsys (d : SReg) (n : Fin 4096)
  /-- MTSYS (R344). Writes the RW fields of a special register at supervisor level. -/
  | mtsys (a : SReg) (n : Fin 4096)
  /-- TLBINV_VA (R345). Drops translations of one page on the seat's cores. -/
  | tlbinvVa (a : SReg)
  /-- TLBINV_ASID (R345). Drops every translation of an address space. -/
  | tlbinvAsid (a : SReg)
  /-- TLBINV_ALL (R345). Drops every translation of the seat. -/
  | tlbinvAll
  /-- SEATCTL_EVACK (R346). Acknowledges event log entries. -/
  | seatctlEvack (a : SReg)
  /-- SEATCTL_KILL (R346). Ends a team of the current grid as halt does. -/
  | seatctlKill (a : SReg)
  /-- SEATCTL_YIELD (R346). Ends the seat's quantum at the next frame boundary. -/
  | seatctlYield (a : SReg)
  /-- HALT (R347). Ends the trapping team with a reason. -/
  | halt (a : SReg)
  /-- DEFERRED_TRAP (R338). A trap from already-issued work is taken at the group's next issue unit. -/
  | deferredTrap
  /-- RESET_RELEASE (R416). ROM checks the firmware signature and self-test runs to Ready or Safe. -/
  | resetRelease
  /-- FRAME_BOUNDARY (R11). Every 2,048 core cycles a new frame begins in every structure. -/
  | frameBoundary
  /-- SEATING (R15). A seat is seated at its frame on every core of its set, with %oclk set to 0 and caches empty. -/
  | seating
  /-- LEASE_BEGIN (R19). At the first leased frame the lent positions become the borrower's. -/
  | leaseBegin
  /-- LEASE_END (R375). After its last frame the lease clears itself. -/
  | leaseEnd
  /-- POSITION_START (R14). At the first cycle of a position a shared structure starts the waiting request it may serve. -/
  | positionStart
  /-- DRAM_REFRESH (R18). Refresh claims vacant DRAM channel positions as retention needs. -/
  | dramRefresh
  /-- LOAD_REPLY (R54). A global load's reply arrives and writes its destination. -/
  | loadReply
  /-- STORE_PERFORM (R422). A global store is performed at its home slice or DRAM channel. -/
  | storePerform
  /-- STORE_ACKNOWLEDGE (R422). A store's acknowledgement reaches the core and STORES falls. -/
  | storeAcknowledge
  /-- LINE_RECALL (R422). The slice recalls a line owned by an L1 part before a store. -/
  | lineRecall
  /-- ATOMIC_PERFORM (R140). An atomic lane performs in L1 with ownership or at the home slice. -/
  | atomicPerform
  /-- SCRATCHPAD_ROW_SERVE (R85). A scratchpad access serves one row per cycle and completes. -/
  | scratchpadRowServe
  /-- BUFFER_PORT_CYCLE (R87). A WBUF, ABUF or XBUF port cycle serves one party of one seat. -/
  | bufferPortCycle
  /-- BANK_WAKE_END (R68). A register or scratchpad bank finishes waking to its target state. -/
  | bankWakeEnd
  /-- EACQ_GRANT (R67). Freed banks are granted to waiting eacq instructions in order. -/
  | eacqGrant
  /-- RELEASE_APPLY (R423). A held release arrival, cb.free or release write takes effect once covered writes are performed. -/
  | releaseApply
  /-- WAIT_RESUME (R91). Waiters on a completed phase resume the cycle after the completing change. -/
  | waitResume
  /-- WAITC_RESUME (R258). A waitc resumes when the counts meet its limits. -/
  | waitcResume
  /-- COPY_COMMAND_START (R263). A queued copy or gather command reaches the head of its queue and starts. -/
  | copyCommandStart
  /-- CIRC_SLOT_READY (R95). A waiting circular-buffer fill proceeds once the slot's freed and previous filled phases complete. -/
  | circSlotReady
  /-- COPY_PIECE_START (R269). The copy engine starts one piece in a copy-engine position of the seat. -/
  | copyPieceStart
  /-- PIECE_LAND (R268). A piece's write lands and credits the barrier. -/
  | pieceLand
  /-- HELD_PIECE_RELEASE (R272). A piece held by the operands-consumed rule proceeds once earlier matrix reads are done. -/
  | heldPieceRelease
  /-- COPY_COMMAND_COMPLETE (R263). A copy or gather command completes and COPIES falls. -/
  | copyCommandComplete
  /-- XLDS_COMPLETE (R290). A shadow-plane load completes 8 cycles after its last port cycle. -/
  | xldsComplete
  /-- XSWP_COMPLETE (R290). A plane swap completes after earlier loads to its pair. -/
  | xswpComplete
  /-- ROW_INJECT (R291). A row of a pass injects at cadence in the seat's matrix positions, fusing quarter-passes. -/
  | rowInject
  /-- PASS_COMPLETE (R293). A pass completes, compares checksums and lands its results. -/
  | passComplete
  /-- XCFG_COMPLETE (R292). Tile configuration lands, zeroing data and status. -/
  | xcfgComplete
  /-- XREL_COMPLETE (R292). Tile release lands and the tile reads zero. -/
  | xrelComplete
  /-- XDRN_COMPLETE (R295). A drain completes after verifying checksums. -/
  | xdrnComplete
  /-- XSCAC_COMPLETE (R304). Scaled partial planes land in the destination tile. -/
  | xscacComplete
  /-- RING_PASSAGE (R312). A slot passes a station: seam step, one pending operation, then arms. -/
  | ringPassage
  /-- RING_RESULT_WRITE (R314). A ring word's result or status is written to its scalars. -/
  | ringResultWrite
  /-- ALIGHT_WRITE_PERFORMED (R313). An alighting slot's home write is performed and the slot becomes EMPTY. -/
  | alightWritePerformed
  /-- CHARGED_WAIT_DUE (R22). A charged wait reaches t0 + C and the operation completes if the outside party is done. -/
  | chargedWaitDue
  /-- LATE_WAIT_FREEZE (R23). At the boundary after a late due point the seat completes or stops and freezes %oclk. -/
  | lateWaitFreeze
  /-- FREEZE_RESUME (R23). When the outside party finishes, the seat resumes at the next frame boundary. -/
  | freezeResume
  /-- QUANTUM_END (R378). A function's quantum ends and a whole-seat switch begins. -/
  | quantumEnd
  /-- SWITCH_COMPLETE (R24). The incoming function is seated with %oclk advanced by 131,072. -/
  | switchComplete
  /-- TEAM_CARVING (R51). The head pending team enters Carving when its resources are free. -/
  | teamCarving
  /-- TEAM_RELEASE (R41). Carving ends and all groups of the team are released. -/
  | teamRelease
  /-- VICTIM_CHOICE (R52). A team with an expired quantum is chosen to drain for a pending head. -/
  | victimChoice
  /-- DRAIN_COMPLETE (R51). A draining team's in-flight work completes and saving begins. -/
  | drainComplete
  /-- SAVE_COMPLETE (R78). A team's save completes after 12,288 cycles and it goes Pending or Parked. -/
  | saveComplete
  /-- PARK_WAKE (R51). A parked team becomes Pending when its awaited children end or pool space opens. -/
  | parkWake
  /-- GROUP_END (R50). A group whose lanes are all retired returns its resources once its operations complete. -/
  | groupEnd
  /-- TEAM_END (R50). A team ends when all groups and their operations are done, withdrawing its arms. -/
  | teamEnd
  /-- GRID_END (R278). A grid ends when all its teams end, freeing its record and releasing joins. -/
  | gridEnd
  /-- REGROUP_COMPLETE (R57). The last group arrives and lanes are moved into surviving groups. -/
  | regroupComplete
  /-- TLB_WALK_COMPLETE (R353). A table walk finishes, filling the TLB or ending in a fault. -/
  | tlbWalkComplete
  /-- TLBINV_COMPLETE (R357). An invalidation completes once older walks and accesses are done. -/
  | tlbinvComplete
  /-- FAULT_SERVICE (R358). Firmware services a translation fault: staged page, migration wait, or forward to the driver. -/
  | faultService
  /-- LOG_REPLAY (R340). A resolved operand-log entry replays its remaining lanes. -/
  | logReplay
  /-- PAGE_MIGRATION (R362). Firmware moves an eligible page through MIGR, invalidate, copy and remap. -/
  | pageMigration
  /-- HEAT_SWEEP (R361). Every 4 ms the sweeper lowers each non-zero heat by one. -/
  | heatSweep
  /-- LOAD_BALANCE (R390). Every 4,096 cycles cores move unstarted teams to shallower neighbours. -/
  | loadBalance
  /-- AMSG_ACCEPT (R279). An active message is accepted and its handler team queued on the target core. -/
  | amsgAccept
  /-- DOORBELL_WRITE (R380). A host doorbell write sets a queue's TAIL and starts or halts it. -/
  | doorbellWrite
  /-- DOORCNT_WRITE (R381). A write at offset 0x800 adds to the function's doorbell count. -/
  | doorcntWrite
  /-- QUEUE_NOP (R382). Host queue command that does nothing. -/
  | queueNop
  /-- QUEUE_LAUNCH (R383). Host queue command that prepares and places a grid, completing when it ends. -/
  | queueLaunch
  /-- INDIRECT (R384). Host queue command that runs COUNT commands from a buffer. -/
  | indirect
  /-- SIGNAL (R383). Host queue command storing VALUE at ADDR as a system-scope release. -/
  | signal
  /-- WAIT (R383). Host queue command that holds the queue until a value reaches VALUE. -/
  | wait
  /-- WAIT_REREAD (R383). At each frame boundary firmware rereads a WAIT's value. -/
  | waitReread
  /-- LAUNCH_DELIVERY (R387). A prepared launch is delivered to the seat's pool at the next frame boundary. -/
  | launchDelivery
  /-- COMPLETION_WRITE (R386). Firmware writes a completion entry when the queue has room and signals MSI-X. -/
  | completionWrite
  /-- CQDONE_REREAD (R386). Every 1 ms firmware rereads CQDONE for held completions. -/
  | cqdoneReread
  /-- ADMIT (R373). Mailbox command that checks and admits a placement record. -/
  | admitSeat
  /-- EVICT (R374). Mailbox command that ends a seat when idle, or forcibly. -/
  | evict
  /-- SEAT_EVICTION (R374). The evicted seat ends at the first qualifying frame boundary. -/
  | seatEviction
  /-- LEASE (R375). Mailbox command that installs a lease between two seats. -/
  | lease
  /-- QTABLE (R377). Mailbox command replacing a seat's quantum table. -/
  | qtable
  /-- QREG (R380). Mailbox command registering a submission queue descriptor. -/
  | qreg
  /-- RUNMODE (R391). Mailbox command setting or clearing a region's run-mode record. -/
  | runmode
  /-- PREEMPT (R392). Mailbox command asking that a region's teams be taken off their cores by a deadline. -/
  | preempt
  /-- PREEMPT_DELIVERY (R393). At a frame boundary each resident team is drained, discarded or saved. -/
  | preemptDelivery
  /-- RESUME (R392). Mailbox command letting a pre-empted region's teams carve again. -/
  | resume
  /-- POWERCAP (R420). Mailbox command setting the power cap and degrade. -/
  | powercap
  /-- STATUS (R417). Mailbox command returning DEVSTAT and measurements. -/
  | status
  /-- SEATFLOOR (R420). Mailbox command setting a seat's floor step and guaranteed power. -/
  | seatfloor
  /-- PAGEDONE (R358). Mailbox command reporting a forwarded page fault done or refused. -/
  | pagedone
  /-- UNFENCE (R415). Mailbox command testing a fenced matrix engine or slot. -/
  | unfence
  /-- FENCE_LIFT (R415). A passed unfence test lifts the fence at the next frame boundary. -/
  | fenceLift
  /-- LINKOPEN (R413). Mailbox command writing a Colalm inbound window entry. -/
  | linkopen
  /-- UNDEFINED_COMMAND (R376). An unlisted command code, or one sent while not Ready, is answered NotReady. -/
  | undefinedCommand
  /-- REGISTER_WRITE (R410). A host write to a mapped register with no row of its own, such as MBIN or the DONE clear. -/
  | registerWrite
  /-- POWER_EVALUATION (R419). Every 1 ms the power core decides to lower or raise the clock step. -/
  | powerEvaluation
  /-- CLOCK_STEP_CHANGE (R419). The clock step changes by one at a frame boundary. -/
  | clockStepChange
  /-- QUANTUM_COMMIT (R397). When every live group stands at its quantum end, buffered effects are applied in group-id order. -/
  | quantumCommit
  /-- HOST_BAR_REQUEST (R409). A host request through a BAR is served in fill-seat positions. -/
  | hostBarRequest
  /-- ATS_INVALIDATION_REQUEST (R366). A host invalidation drops translations and completes when safe. -/
  | atsInvalidationRequest
  /-- ATS_COMPLETION (R365). A translation completion from the host is cached or starts a page request. -/
  | atsCompletion
  /-- PRI_RESPONSE (R365). A page request response leads to a new translation or an unresolvable fault. -/
  | priResponse
  /-- LINK_RETRAIN (R407). The host link retrains on a rate or width change; host accesses wait. -/
  | linkRetrain
  /-- SPDM_REQUEST (R418). The security core answers an SPDM request with signed measurements. -/
  | spdmRequest
  /-- MCTP_STATUS (R417). An MCTP over I3C STATUS request is answered. -/
  | mctpStatus
  /-- COLALM_INBOUND_REQUEST (R413). A peer's request over a Colalm port is accepted through a window or refused. -/
  | colalmInboundRequest
  /-- COLALM_TRAINING (R411). A Colalm port trains Up or is left Down. -/
  | colalmTraining
  /-- DRAM_READ_RETRY (R403). An uncorrectable DRAM read repeats in the seat's next channel position. -/
  | dramReadRetry
  /-- MESH_FLIT_RETRY (R403). A flit failing CRC is resent in the seat's next link position. -/
  | meshFlitRetry
  /-- ILLEGAL_INSTRUCTION (R186). An issue unit holding a word with a reserved major, reserved sub-operation, reserved field or selector, illegal chain, or a packet with an unnamed non-zero W3, raises IllegalInstruction when selected. -/
  | illegalInstruction
  /-- CONFIGURATION_REQUEST (R417). A host PCI Express configuration-space request is served, including enabling virtual functions and MSI-X vectors, and it stays available in Safe. -/
  | configurationRequest
  deriving DecidableEq, Repr

/-- An event with its operands: what the agenda holds, one constructor for each event row of the table. -/
inductive Event where
  | deferredTrap (team : Nat) (gid : Nat)
  | resetRelease (failStep : Nat) (failUnit : Nat)
  | frameBoundary
  | seating (seat : Nat)
  | leaseBegin (seat : Nat)
  | leaseEnd (seat : Nat)
  | positionStart (st : Struct)
  | dramRefresh (die : Nat) (ch : Nat)
  | loadReply (req : Nat)
  | storePerform (req : Nat)
  | storeAcknowledge (req : Nat)
  | lineRecall (req : Nat)
  | atomicPerform (req : Nat)
  | scratchpadRowServe (op : Nat) (k : Nat)
  | bufferPortCycle (op : Nat) (k : Nat)
  | bankWakeEnd (team : Nat) (gid : Option Nat) (bank : Nat)
  | eacqGrant (core : Nat) (seat : Nat)
  | releaseApply (op : Nat)
  | waitResume (team : Nat)
  | waitcResume (team : Nat) (gid : Nat)
  | copyCommandStart (op : Nat)
  | circSlotReady (op : Nat)
  | copyPieceStart (core : Nat) (seat : Nat)
  | pieceLand (op : Nat)
  | heldPieceRelease (op : Nat)
  | copyCommandComplete (op : Nat)
  | xldsComplete (op : Nat)
  | xswpComplete (op : Nat)
  | rowInject (core : Nat) (seat : Nat)
  | passComplete (core : Nat) (pass : Nat) (mismatch : Nat)
  | xcfgComplete (op : Nat)
  | xrelComplete (op : Nat)
  | xdrnComplete (op : Nat)
  | xscacComplete (op : Nat)
  | ringPassage (slot : Nat) (core : Nat) (parity : Nat)
  | ringResultWrite (op : Nat)
  | alightWritePerformed (slot : Nat)
  | chargedWaitDue (seat : Nat) (wait : Nat)
  | lateWaitFreeze (seat : Nat) (wait : Nat)
  | freezeResume (seat : Nat)
  | quantumEnd (seat : Nat)
  | switchComplete (seat : Nat)
  | teamCarving (core : Nat) (seat : Nat)
  | teamRelease (team : Nat)
  | victimChoice (core : Nat) (seat : Nat)
  | drainComplete (team : Nat)
  | saveComplete (team : Nat)
  | parkWake (team : Nat)
  | groupEnd (team : Nat) (gid : Nat)
  | teamEnd (team : Nat)
  | gridEnd (grid : Nat)
  | regroupComplete (team : Nat)
  | tlbWalkComplete (walk : Nat)
  | tlbinvComplete (op : Nat)
  | faultService (fault : Nat)
  | logReplay (op : Nat)
  | pageMigration (asid : Nat) (va : Nat) (frame : Nat)
  | heatSweep
  | loadBalance (seat : Nat)
  | amsgAccept (op : Nat)
  | doorbellWrite (vf : Nat) (q : Nat) (tail : W32)
  | doorcntWrite (vf : Nat) (v : W32)
  | queueNop (vf : Nat) (q : Nat)
  | queueLaunch (vf : Nat) (q : Nat)
  | indirect (vf : Nat) (q : Nat)
  | signal (vf : Nat) (q : Nat)
  | wait (vf : Nat) (q : Nat)
  | waitReread (vf : Nat) (q : Nat)
  | launchDelivery (grid : Nat)
  | completionWrite (rcb : Nat)
  | cqdoneReread
  | admitSeat (seat : Nat) (rec : Nat)
  | evict (seat : Nat) (force : Bool)
  | seatEviction (seat : Nat)
  | lease (lender : Nat) (w2 : W64) (lmap : W64) (first : W64) (count : W64)
  | qtable (seat : Nat) (addr : Nat)
  | qreg (vf : Nat) (q : Nat) (addr : Nat)
  | runmode (rcb : Nat) (rec : W64) (clear : Bool)
  | preempt (rcb : Nat) (deadline : W64)
  | preemptDelivery (rcb : Nat) (deadline : W64)
  | resume (rcb : Nat)
  | powercap (watts : Nat) (degrade : Bool)
  | status
  | seatfloor (seat : Nat) (m : Nat) (g : Nat)
  | pagedone (asid : Nat) (page : W64) (refused : Bool)
  | unfence (core : Nat) (isSlot : Bool) (slot : Nat) (pass : Bool)
  | fenceLift (core : Nat) (isSlot : Bool) (slot : Nat)
  | linkopen (port : Nat) (entry : Nat) (base : Nat) (len : Nat) (rd : Bool) (wr : Bool)
  | undefinedCommand (cmd : Nat)
  | registerWrite (off : Nat) (v : W64)
  | powerEvaluation (watts : Nat) (bands : List Nat)
  | clockStepChange (up : Bool)
  | quantumCommit (grid : Nat) (mismatch : List (Nat × Nat))
  | hostBarRequest (vf : Nat) (bar : Nat) (off : Nat) (write : Option (List Byte)) (len : Nat)
  | atsInvalidationRequest (vf : Nat) (pasid : Nat) (va : Nat) (size : Nat)
  | atsCompletion (vf : Nat) (pasid : Nat) (va : Nat) (pa : Nat) (size : Nat) (rd : Bool) (wr : Bool)
  | priResponse (vf : Nat) (pasid : Nat) (va : Nat) (success : Bool)
  | linkRetrain (width : Nat) (rate : Nat)
  | spdmRequest (index : Nat) (nonce : Nat)
  | mctpStatus
  | colalmInboundRequest (port : Nat) (addr : Nat) (len : Nat) (kind : Inbound)
  | colalmTraining (port : Nat) (up : Bool) (peer : Nat)
  | dramReadRetry (req : Nat) (lasting : Bool)
  | meshFlitRetry (req : Nat) (lasting : Bool)
  | illegalInstruction (slot : Nat) (word : W32) (cause : Nat)
  | configurationRequest (vf : Nat) (numVFs : Nat) (vectors : Nat)
  deriving DecidableEq, Repr

/-- The row of the table an event belongs to. -/
def Event.row : Event → Instr
  | .deferredTrap _ _ => .deferredTrap
  | .resetRelease _ _ => .resetRelease
  | .frameBoundary => .frameBoundary
  | .seating _ => .seating
  | .leaseBegin _ => .leaseBegin
  | .leaseEnd _ => .leaseEnd
  | .positionStart _ => .positionStart
  | .dramRefresh _ _ => .dramRefresh
  | .loadReply _ => .loadReply
  | .storePerform _ => .storePerform
  | .storeAcknowledge _ => .storeAcknowledge
  | .lineRecall _ => .lineRecall
  | .atomicPerform _ => .atomicPerform
  | .scratchpadRowServe _ _ => .scratchpadRowServe
  | .bufferPortCycle _ _ => .bufferPortCycle
  | .bankWakeEnd _ _ _ => .bankWakeEnd
  | .eacqGrant _ _ => .eacqGrant
  | .releaseApply _ => .releaseApply
  | .waitResume _ => .waitResume
  | .waitcResume _ _ => .waitcResume
  | .copyCommandStart _ => .copyCommandStart
  | .circSlotReady _ => .circSlotReady
  | .copyPieceStart _ _ => .copyPieceStart
  | .pieceLand _ => .pieceLand
  | .heldPieceRelease _ => .heldPieceRelease
  | .copyCommandComplete _ => .copyCommandComplete
  | .xldsComplete _ => .xldsComplete
  | .xswpComplete _ => .xswpComplete
  | .rowInject _ _ => .rowInject
  | .passComplete _ _ _ => .passComplete
  | .xcfgComplete _ => .xcfgComplete
  | .xrelComplete _ => .xrelComplete
  | .xdrnComplete _ => .xdrnComplete
  | .xscacComplete _ => .xscacComplete
  | .ringPassage _ _ _ => .ringPassage
  | .ringResultWrite _ => .ringResultWrite
  | .alightWritePerformed _ => .alightWritePerformed
  | .chargedWaitDue _ _ => .chargedWaitDue
  | .lateWaitFreeze _ _ => .lateWaitFreeze
  | .freezeResume _ => .freezeResume
  | .quantumEnd _ => .quantumEnd
  | .switchComplete _ => .switchComplete
  | .teamCarving _ _ => .teamCarving
  | .teamRelease _ => .teamRelease
  | .victimChoice _ _ => .victimChoice
  | .drainComplete _ => .drainComplete
  | .saveComplete _ => .saveComplete
  | .parkWake _ => .parkWake
  | .groupEnd _ _ => .groupEnd
  | .teamEnd _ => .teamEnd
  | .gridEnd _ => .gridEnd
  | .regroupComplete _ => .regroupComplete
  | .tlbWalkComplete _ => .tlbWalkComplete
  | .tlbinvComplete _ => .tlbinvComplete
  | .faultService _ => .faultService
  | .logReplay _ => .logReplay
  | .pageMigration _ _ _ => .pageMigration
  | .heatSweep => .heatSweep
  | .loadBalance _ => .loadBalance
  | .amsgAccept _ => .amsgAccept
  | .doorbellWrite _ _ _ => .doorbellWrite
  | .doorcntWrite _ _ => .doorcntWrite
  | .queueNop _ _ => .queueNop
  | .queueLaunch _ _ => .queueLaunch
  | .indirect _ _ => .indirect
  | .signal _ _ => .signal
  | .wait _ _ => .wait
  | .waitReread _ _ => .waitReread
  | .launchDelivery _ => .launchDelivery
  | .completionWrite _ => .completionWrite
  | .cqdoneReread => .cqdoneReread
  | .admitSeat _ _ => .admitSeat
  | .evict _ _ => .evict
  | .seatEviction _ => .seatEviction
  | .lease _ _ _ _ _ => .lease
  | .qtable _ _ => .qtable
  | .qreg _ _ _ => .qreg
  | .runmode _ _ _ => .runmode
  | .preempt _ _ => .preempt
  | .preemptDelivery _ _ => .preemptDelivery
  | .resume _ => .resume
  | .powercap _ _ => .powercap
  | .status => .status
  | .seatfloor _ _ _ => .seatfloor
  | .pagedone _ _ _ => .pagedone
  | .unfence _ _ _ _ => .unfence
  | .fenceLift _ _ _ => .fenceLift
  | .linkopen _ _ _ _ _ _ => .linkopen
  | .undefinedCommand _ => .undefinedCommand
  | .registerWrite _ _ => .registerWrite
  | .powerEvaluation _ _ => .powerEvaluation
  | .clockStepChange _ => .clockStepChange
  | .quantumCommit _ _ => .quantumCommit
  | .hostBarRequest _ _ _ _ _ => .hostBarRequest
  | .atsInvalidationRequest _ _ _ _ => .atsInvalidationRequest
  | .atsCompletion _ _ _ _ _ _ _ => .atsCompletion
  | .priResponse _ _ _ _ => .priResponse
  | .linkRetrain _ _ => .linkRetrain
  | .spdmRequest _ _ => .spdmRequest
  | .mctpStatus => .mctpStatus
  | .colalmInboundRequest _ _ _ _ => .colalmInboundRequest
  | .colalmTraining _ _ _ => .colalmTraining
  | .dramReadRetry _ _ => .dramReadRetry
  | .meshFlitRetry _ _ => .meshFlitRetry
  | .illegalInstruction _ _ _ => .illegalInstruction
  | .configurationRequest _ _ _ => .configurationRequest

/-- An instruction word: its chain bit (R179) and its instruction. -/
structure Word1 where
  chain : Bool
  instr : Instr
  deriving DecidableEq, Repr

end Sys2Proof
end

