-- ==== Sys2Proof/WellFormed.lean ====
section
/-!
DEFINITION. What a legal instruction word keeps beyond the ranges of its fields: no c7 as a destination (R59, cause 4),
register fields inside their limits (R185, cause 9), and the field rules of vbrk, vcvt and qfence (R209, R242,
R273).
-/

namespace Sys2Proof

/-- 64-bit operations of R251. -/
def AOp.is64 : AOp → Bool
  | .add64 | .xchg64 | .cas64 => true
  | _ => false

/-- Compare-and-swap operations of R251. -/
def AOp.isCas : AOp → Bool
  | .cas32 | .cas64 => true
  | _ => false

/-- Registers an atomic reads above vd (R252). -/
def AOp.extra : AOp → Nat
  | .cas32 => 1
  | .cas64 => 3
  | .add64 | .xchg64 => 1
  | _ => 0

/-- The atomic operation of a vmred (R252). -/
def RedOp.op : RedOp → AOp
  | .add32 => .add32 | .minS => .minS | .maxS => .maxS | .minZ => .minZ | .maxZ => .maxZ
  | .and => .and | .or => .or | .xor => .xor | .addF32 => .addF32 | .add64 => .add64

/-- The atomic operation of an sg.mod (R319). -/
def ModOp.op : ModOp → AOp
  | .add32 => .add32 | .minS => .minS | .maxS => .maxS | .minZ => .minZ | .maxZ => .maxZ
  | .and => .and | .or => .or | .xor => .xor | .xchg32 => .xchg32 | .cas32 => .cas32 | .addF32 => .addF32

/-- The integer types of R241 (codes 6 to 13). -/
def CvtT.isInt : CvtT → Bool
  | .f64 | .f32 | .f16 | .bf16 | .f8m | .f8e => false
  | _ => true

/-- Fields of a vpack or vunpk (R244). -/
def PackW.count : PackW → Nat
  | .n4 => 8 | .n8 => 4 | .n16 => 2

/-- A vector register named by a 64-bit b-selector is even (R182, R232). A scalar named there may be odd: R185 says that a 64-bit scalar operand
is even, and the scalar words of the spec's own programs name odd ones (DEDUCED, log 136). -/
def BSel.even : BSel → Bool
  | .vreg n => n.val % 2 == 0
  | _ => true

namespace Instr

/-- No c7 as a destination (R59, R185). -/
def noC7 : Instr → Bool
  | .scmpEq d _ _ => decide (d ≠ 7)
  | .scmpNe d _ _ => decide (d ≠ 7)
  | .scmpLtS d _ _ => decide (d ≠ 7)
  | .scmpLeS d _ _ => decide (d ≠ 7)
  | .scmpLtZ d _ _ => decide (d ≠ 7)
  | .scmpLeZ d _ _ => decide (d ≠ 7)
  | .vcmp c _ _ _ => decide (c ≠ 7)
  | .vregrp _ _ c _ => decide (c ≠ 7)
  | .vfcmp c _ _ _ => decide (c ≠ 7)
  | .vdcmp c _ _ _ => decide (c ≠ 7)
  | .eacqTry c => decide (c ≠ 7)
  | .launchTry _ c => decide (c ≠ 7)
  | _ => true

/-- Register fields inside their limits (R185). -/
def limits : Instr → Bool
  | .sext _ a w _ => decide (w = .x64 → a.val % 2 = 0)
  | .sextFirst _ a w => decide (w = .x64 → a.val % 2 = 0)
  | .sextLast _ a w => decide (w = .x64 → a.val % 2 = 0)
  | .vins d _ w _ => decide (w = .x64 → d.val % 2 = 0)
  | .vinsAll d _ w => decide (w = .x64 → d.val % 2 = 0)
  | .vmovX64 d a => decide (d.val % 2 = 0 ∧ a.val % 2 = 0)
  | .vregrp f n _ _ => decide (f.val + n.val ≤ 127)
  | .vdadd d a b => decide (d.val % 2 = 0 ∧ a.val % 2 = 0 ∧ b.even = true)
  | .vdsub d a b => decide (d.val % 2 = 0 ∧ a.val % 2 = 0 ∧ b.even = true)
  | .vdmul d a b => decide (d.val % 2 = 0 ∧ a.val % 2 = 0 ∧ b.even = true)
  | .vdfma d a b => decide (d.val % 2 = 0 ∧ a.val % 2 = 0 ∧ b.even = true)
  | .vddiv d a b _ => decide (d.val % 2 = 0 ∧ a.val % 2 = 0 ∧ b.even = true)
  | .vdcmp _ a b _ => decide (a.val % 2 = 0 ∧ b.even = true)
  | .vdsqrt d a => decide (d.val % 2 = 0 ∧ a.val % 2 = 0)
  | .vcvt d a f t _ => decide ((f = .f64 → a.val % 2 = 0) ∧ (t = .f64 → d.val % 2 = 0))
  | .vpack _ a w => decide (a.val + w.count ≤ 128)
  | .vunpkZ d _ w => decide (d.val + w.count ≤ 128)
  | .vunpkS d _ w => decide (d.val + w.count ≤ 128)
  | .sgBoard d _ => decide (d.val ≤ 59)
  | .sgCap d _ _ => decide (d.val ≤ 59)
  | .sgArm d _ _ _ => decide (d.val ≤ 62)
  | .vldZ d _ _ w _ => decide (w = .x64 → d.val % 2 = 0)
  | .vldS d _ _ w _ => decide (w = .x64 → d.val % 2 = 0)
  | .vst d _ _ w _ => decide (w = .x64 → d.val % 2 = 0)
  | .vlds d _ _ w => decide (w = .x64 → d.val % 2 = 0)
  | .vsts d _ _ w => decide (w = .x64 → d.val % 2 = 0)
  | .vlda d _ _ w => decide (w = .x64 → d.val % 2 = 0)
  | .vsta d _ _ w => decide (w = .x64 → d.val % 2 = 0)
  | .vldx d _ _ w => decide (w = true → d.val % 2 = 0)
  | .vatom d a p _ _ => decide (a.val % 2 = 0 ∧ (p.is64 = true → d.val % 2 = 0) ∧ d.val + p.extra ≤ 127)
  | .vmred d a p _ _ => decide (a.val % 2 = 0 ∧ (p.op.is64 = true → d.val % 2 = 0))
  | .vatoms d _ p _ _ => decide ((p.is64 = true → d.val % 2 = 0) ∧ d.val + p.extra ≤ 127)
  | .cpG2s d _ => decide (d.val ≤ 60)
  | .cpS2g d _ => decide (d.val ≤ 60)
  | .cpG2a d _ => decide (d.val ≤ 60)
  | .cpG2w d _ => decide (d.val ≤ 60)
  | .cpX2g d _ => decide (d.val ≤ 60)
  | .cpG2g d _ => decide (d.val ≤ 60)
  | .cpCirc d _ => decide (d.val ≤ 60)
  | .gth d _ => decide (d.val ≤ 60)
  | .launch d => decide (d.val ≤ 60)
  | .launchTry d _ => decide (d.val ≤ 60)
  | .amsg d => decide (d.val ≤ 60)
  | _ => true

/-- The field rules of vbrk, vcvt and qfence (R209, R242, R273). -/
def fields : Instr → Bool
  | .vbrk _ m => decide (1 ≤ m.val ∧ m.val ≤ 254)
  | .vcvt _ _ f t _ => decide (f ≠ t ∧ ¬(f.isInt = true ∧ t.isInt = true))
  | .qfence m => decide (m ≠ 0)
  | _ => true

/-- A well-formed instruction: one that its encoding can hold and no rule of R185 refuses. -/
def wellFormed (i : Instr) : Bool := i.noC7 && i.limits && i.fields

end Instr

end Sys2Proof
end

