-- ==== Sys2Proof/Machine/Float.lean ====
section
/-!
DEFINITION. Numbers: exact values, the formats of R103-R111, rounding once (R115-R117), the special functions (R118),
conversions (R119), weight codes (R109-R112, R120), and the chunk arithmetic of the matrix engine (R122-R125).

An arithmetic result is formed exactly as a `Val` and narrowed once, at the end.
-/

namespace Sys2Proof.Machine

open Sys2Proof

/-- An exact value: NaN, a signed infinity, or (-1)^neg × m × 2^e (zero keeps its sign). -/
inductive Val where
  | nan
  | inf (neg : Bool)
  | fin (neg : Bool) (m : Nat) (e : Int)
  deriving DecidableEq, Repr

/-- A binary format: exponent bits, fraction bits. The bias is 2^(eb-1) - 1. -/
structure Fp where
  eb : Nat
  mb : Nat
  deriving DecidableEq, Repr

def fp64 : Fp := { eb := 11, mb := 52 }
def fp32 : Fp := { eb := 8, mb := 23 }
def fp16 : Fp := { eb := 5, mb := 10 }
def fpB16 : Fp := { eb := 8, mb := 7 }
/-- F8E (R107). -/
def fp8e : Fp := { eb := 5, mb := 2 }

def Fp.bias (f : Fp) : Int := 2 ^ (f.eb - 1) - 1
/-- Exponent of the least normal magnitude. -/
def Fp.emin (f : Fp) : Int := 1 - f.bias
/-- All ones in the exponent field. -/
def Fp.top (f : Fp) : Nat := 2 ^ f.eb - 1
/-- The canonical NaN (R105). -/
def Fp.nan (f : Fp) : Nat := f.top * 2 ^ f.mb + 2 ^ (f.mb - 1)

/-- The value of a code (R105, R107). -/
def Fp.value (f : Fp) (x : Nat) : Val :=
  let neg := decide (x / 2 ^ (f.eb + f.mb) % 2 = 1)
  let e := x / 2 ^ f.mb % 2 ^ f.eb
  let m := x % 2 ^ f.mb
  if e = f.top then (if m = 0 then .inf neg else .nan)
  else if e = 0 then .fin neg m (f.emin - f.mb)
  else .fin neg (2 ^ f.mb + m) (e - f.bias - f.mb)

/-- Number of bits of a natural number. -/
def bitLen (m : Nat) : Nat := if m = 0 then 0 else Nat.log2 m + 1

/-- Round away from the truncated value? `half`: the part cut off compared with half a unit. -/
def roundsUp (mode : RMode) (neg : Bool) (odd : Bool) (rest : Nat) (unit : Nat) (sticky : Bool) : Bool :=
  match mode with
  | .rne => decide (2 * rest > unit) || (decide (2 * rest = unit) && (sticky || odd))
  | .rz => false
  | .ru => !neg && (decide (rest ≠ 0) || sticky)
  | .rd => neg && (decide (rest ≠ 0) || sticky)

/-- m × 2^e, and a little more when `sticky`, as a whole number of units 2^q, rounded once. -/
def roundAt (mode : RMode) (neg : Bool) (m : Nat) (e q : Int) (sticky : Bool) : Nat :=
  if q ≤ e then m * 2 ^ (e - q).toNat
  else
    let sh := (q - e).toNat
    let cut := m / 2 ^ sh
    if roundsUp mode neg (cut % 2 == 1) (m % 2 ^ sh) (2 ^ sh) sticky then cut + 1 else cut

/-- Exponent of the last place of m × 2^e in a format of `mb` fraction bits and least exponent `emin`. -/
def lastPlace (mb : Nat) (emin : Int) (m : Nat) (e : Int) : Int := max (e + bitLen m - 1 - mb) (emin - mb)

/-- The code of (-1)^neg × m × 2^e (and a little more when `sticky`) rounded once (R115, R116). -/
def Fp.roundFin (f : Fp) (mode : RMode) (neg : Bool) (m : Nat) (e : Int) (sticky : Bool := false) : Nat :=
  let sign := if neg then 2 ^ (f.eb + f.mb) else 0
  if m = 0 then sign
  else
    let q := lastPlace f.mb f.emin m e
    -- far below the least place only the direction matters
    let (m, e) := if e + bitLen m < q - 2 then (1, q - 2) else (m, e)
    let n := roundAt mode neg m e q sticky
    let (n, q) := if n = 2 ^ (f.mb + 1) then (2 ^ f.mb, q + 1) else (n, q)
    if n < 2 ^ f.mb then sign + n
    else
      let ef := q + f.mb + f.bias
      if ef < f.top then sign + ef.toNat * 2 ^ f.mb + (n - 2 ^ f.mb)
      else
        let toInf := match mode with
          | .rne => true
          | .rz => false
          | .ru => !neg
          | .rd => neg
        if toInf then sign + f.top * 2 ^ f.mb else sign + f.top * 2 ^ f.mb - 1

/-- An exact value rounded once to a format (R116, R117). -/
def Fp.round (f : Fp) (mode : RMode) : Val → Nat
  | .nan => f.nan
  | .inf neg => (if neg then 2 ^ (f.eb + f.mb) else 0) + f.top * 2 ^ f.mb
  | .fin neg m e => f.roundFin mode neg m e

/-! ### Exact arithmetic -/

def Val.isNaN : Val → Bool
  | .nan => true
  | _ => false
def Val.isInf : Val → Bool
  | .inf _ => true
  | _ => false
/-- NaN or infinity. -/
def Val.special : Val → Bool
  | .fin _ _ _ => false
  | _ => true
def Val.isZero : Val → Bool
  | .fin _ m _ => m == 0
  | _ => false
def Val.neg? : Val → Bool
  | .nan => false
  | .inf n => n
  | .fin n _ _ => n
def Val.negate : Val → Val
  | .nan => .nan
  | .inf n => .inf !n
  | .fin n m e => .fin (!n) m e

/-- A finite value as a signed number of units 2^q, for q at or below its exponent. -/
def units (neg : Bool) (m : Nat) (e q : Int) : Int :=
  let v : Int := (m * 2 ^ (e - q).toNat : Nat)
  if neg then -v else v

/-- A signed number of units 2^q as a value; a zero takes the sign `zneg`. -/
def ofUnits (v q : Int) (zneg : Bool) : Val :=
  if v = 0 then .fin zneg 0 0 else .fin (decide (v < 0)) v.natAbs q

/-- x + y, exact. A zero sum of unlike signs is -0 only toward minus infinity (R116). -/
def Val.add (mode : RMode) : Val → Val → Val
  | .nan, _ => .nan
  | _, .nan => .nan
  | .inf a, .inf b => if a = b then .inf a else .nan
  | .inf a, _ => .inf a
  | _, .inf b => .inf b
  | .fin a m e, .fin b n f =>
    let q := min e f
    ofUnits (units a m e q + units b n f q) q (if a = b then a else mode == .rd)

def Val.sub (mode : RMode) (x y : Val) : Val := Val.add mode x y.negate

/-- x × y, exact; infinity times zero is NaN. -/
def Val.mul : Val → Val → Val
  | .nan, _ => .nan
  | _, .nan => .nan
  | .inf a, .inf b => .inf (a != b)
  | .inf a, .fin b n _ => if n = 0 then .nan else .inf (a != b)
  | .fin a m _, .inf b => if m = 0 then .nan else .inf (a != b)
  | .fin a m e, .fin b n f => .fin (a != b) (m * n) (e + f)

/-- x / y rounded once to a format (R234, R235). -/
def Fp.div (f : Fp) (mode : RMode) : Val → Val → Nat
  | .nan, _ => f.nan
  | _, .nan => f.nan
  | .inf _, .inf _ => f.nan
  | .inf a, .fin b _ _ => f.round mode (.inf (a != b))
  | .fin a _ _, .inf b => f.round mode (.fin (a != b) 0 0)
  | .fin a m e, .fin b n g =>
    if n = 0 then (if m = 0 then f.nan else f.round mode (.inf (a != b)))
    else
      let k := 128 + bitLen n - min (128 + bitLen n) (bitLen m)
      let t := m * 2 ^ k
      f.roundFin mode (a != b) (t / n) (e - g - k) (decide (t % n ≠ 0))

/-- Less, over values that are no NaN; -0 counts as less than +0 when `signed` (R238). -/
def Val.less (signed : Bool) : Val → Val → Bool
  | .nan, _ => false
  | _, .nan => false
  | .inf a, .inf b => a && !b
  | .inf a, .fin _ _ _ => a
  | .fin _ _ _, .inf b => !b
  | .fin a m e, .fin b n f =>
    if m = 0 ∧ n = 0 then signed && a && !b
    else
      let q := min e f
      decide (units a m e q < units b n f q)

/-- Equal in value; -0 equals +0, NaN equals nothing (R240). -/
def Val.same (x y : Val) : Bool := !x.isNaN && !y.isNaN && !(x.less false y) && !(y.less false x)

/-! ### Square root, reciprocal, powers and logarithms of two (R118) -/

/-- ⌊√n⌋ for n below 4^(i+1), found bit by bit from bit `i`. -/
def sqrtFrom (n : Nat) : Nat → Nat → Nat
  | 0, r => if (r + 1) * (r + 1) ≤ n then r + 1 else r
  | i + 1, r => sqrtFrom n i (if (r + 2 ^ (i + 1)) * (r + 2 ^ (i + 1)) ≤ n then r + 2 ^ (i + 1) else r)

/-- ⌊√n⌋. -/
def isqrt (n : Nat) : Nat := sqrtFrom n (bitLen n / 2) 0

/-- m × 2^e as a square's mantissa: an even exponent and at least `b` bits. -/
def evenScale (m : Nat) (e : Int) (b : Nat) : Nat × Int :=
  let k := b + 1 - min b (bitLen m)
  let k := if (e - k) % 2 = 0 then k else k + 1
  (m * 2 ^ k, e - k)

/-- √x rounded once (R118). -/
def Fp.sqrt (f : Fp) : Val → Nat
  | .nan => f.nan
  | .inf neg => if neg then f.nan else f.round .rne (.inf false)
  | .fin neg m e =>
    if m = 0 then f.round .rne (.fin neg 0 0)
    else if neg then f.nan
    else
      let (n, q) := evenScale m e 128
      let r := isqrt n
      f.roundFin .rne false r (q / 2) (decide (r * r ≠ n))

/-- 1/√x rounded once (R118): √(1/x) from a quotient of 256 bits and more. -/
def rsqrt32 : Val → Nat
  | .nan => fp32.nan
  | .inf neg => if neg then fp32.nan else 0
  | .fin neg m e =>
    if m = 0 then fp32.round .rne (.inf neg)
    else if neg then fp32.nan
    else
      -- x = m × 2^e with e made even; 1/√x = √(2^(2k)/m) × 2^(-k - e/2)
      let (m, e) := if e % 2 = 0 then (m, e) else (2 * m, e - 1)
      let k := 128 + bitLen m
      let t := 2 ^ (2 * k) / m
      let r := isqrt t
      fp32.roundFin .rne false r (-(e / 2) - k) (decide (r * r * m ≠ 2 ^ (2 * k)))

/-- Precision, in bits, of the approximations of 2^x and log2 x (log 10). -/
def fine : Nat := 160

/-- 2^(fine) × 2^(f/2^j), truncated: one square root of 2 for each bit of the fraction, the highest first. -/
def pow2Frac (f : Nat) : Nat → Nat → Nat → Nat
  | 0, _, acc => acc
  | j + 1, root, acc =>
    let root := isqrt (root * 2 ^ fine)
    pow2Frac f j root (if f / 2 ^ j % 2 = 1 then acc * root / 2 ^ fine else acc)

/-- 2^x rounded once to F32 (R118). -/
def exp2F32 : Val → Nat
  | .nan => fp32.nan
  | .inf neg => if neg then 0 else fp32.round .rne (.inf false)
  | .fin neg m e =>
    if m = 0 then fp32.round .rne (.fin false 1 0)
    else if (8 : Int) < e + bitLen m then (if neg then 0 else fp32.round .rne (.inf false))
    else if e + bitLen m < -26 then fp32.round .rne (.fin false 1 0)
    else if 0 ≤ e then fp32.round .rne (.fin false 1 (units neg m e 0))
    else
      let j := (-e).toNat
      let v : Int := if neg then -(m : Int) else m
      let whole := v / 2 ^ j
      let frac := (v % 2 ^ j).toNat
      if frac = 0 then fp32.round .rne (.fin false 1 whole)
      else fp32.roundFin .rne false (pow2Frac frac j (2 * 2 ^ fine) (2 ^ fine)) (whole - fine) true

/-- The next `n` bits of log2 y for y in [1, 2), y scaled by 2^280: square, and note whether 2 is reached. -/
def log2Bits : Nat → Nat → Nat → Nat
  | 0, _, acc => acc
  | n + 1, y, acc =>
    let y := y * y / 2 ^ 280
    if 2 ^ 281 ≤ y then log2Bits n (y / 2) (2 * acc + 1) else log2Bits n y (2 * acc)

/-- log2 x rounded once to F32 (R118). -/
def log2F32 : Val → Nat
  | .nan => fp32.nan
  | .inf neg => if neg then fp32.nan else fp32.round .rne (.inf false)
  | .fin neg m e =>
    if m = 0 then fp32.round .rne (.inf true)
    else if neg then fp32.nan
    else
      let k := bitLen m - 1
      let whole : Int := e + k
      if m = 2 ^ k then fp32.round .rne (ofUnits whole 0 false)
      else
        let n : Int := whole * 2 ^ 110 + log2Bits 110 (m * 2 ^ 280 / 2 ^ k) 0
        if 0 ≤ n then fp32.roundFin .rne false n.natAbs (-110) true
        else fp32.roundFin .rne true (n.natAbs - 1) (-110) true

/-- 1/x rounded once to F32 (R118). -/
def rcpF32 (x : Val) : Nat := fp32.div .rne (.fin false 1 0) x

/-! ### Conversions (R119, R241) -/

/-- A two's complement number of `n` bits. -/
def signedOf (n x : Nat) : Int := if x % 2 ^ n < 2 ^ (n - 1) then (x % 2 ^ n : Nat) else (x % 2 ^ n : Nat) - (2 ^ n : Nat)

/-- An exact integer. -/
def Val.ofInt (v : Int) : Val := ofUnits v 0 false

/-- The value of an F8M code (R106). -/
def f8mValue (x : Nat) : Val :=
  let x := x % 256
  if x = 0x80 then .nan
  else
    let neg := decide (128 ≤ x)
    let e := x / 8 % 16
    if e = 0 then .fin neg (x % 8) (-10) else .fin neg (8 + x % 8) (e - 11)

/-- An exact value rounded once to F8M (R119): 240 at most, and one zero. -/
def f8mRound (mode : RMode) : Val → Nat
  | .nan => 0x80
  | .inf neg => if neg then 0xFF else 0x7F
  | .fin neg m e =>
    if m = 0 then 0
    else
      let q := lastPlace 3 (-7) m e
      let (m, e) := if e + bitLen m < q - 2 then (1, q - 2) else (m, e)
      let n := roundAt mode neg m e q false
      let (n, q) := if n = 16 then (8, q + 1) else (n, q)
      let code := if n < 8 then n else if q + 11 < 16 then (q + 11).toNat * 8 + (n - 8) else 0x7F
      if code = 0 then 0 else code + bit neg
where
  /-- the sign bit -/
  bit (neg : Bool) : Nat := if neg then 128 else 0

/-- An exact value rounded to an integer under a mode. -/
def roundInt (mode : RMode) (neg : Bool) (m : Nat) (e : Int) : Int :=
  let (m, e) := if e + bitLen m < -2 ∧ m ≠ 0 then (1, -3) else (m, e)
  let n : Int := roundAt mode neg m e 0 false
  if neg then -n else n

/-- Clamp to a range. -/
def clampInt (lo hi v : Int) : Int := max lo (min hi v)

/-- An exact value to an integer type of range lo..hi (R119). -/
def toIntIn (lo hi : Int) (mode : RMode) : Val → Int
  | .nan => 0
  | .inf neg => if neg then lo else hi
  | .fin neg m e =>
    -- beyond 2^40 every range is left
    if (40 : Int) < e + bitLen m ∧ m ≠ 0 then (if neg then lo else hi) else clampInt lo hi (roundInt mode neg m e)

/-- The exact value of a lane's source field (R241); F64 takes the whole pair. -/
def cvtRead (t : CvtT) (x : W64) : Val :=
  let n := x.toNat
  match t with
  | .f64 => fp64.value n
  | .f32 => fp32.value (n % 2 ^ 32)
  | .f16 => fp16.value (n % 2 ^ 16)
  | .bf16 => fpB16.value (n % 2 ^ 16)
  | .f8m => f8mValue (n % 256)
  | .f8e => fp8e.value (n % 256)
  | .s32 => .ofInt (signedOf 32 n)
  | .z32 => .ofInt (n % 2 ^ 32 : Nat)
  | .s16 => .ofInt (signedOf 16 n)
  | .z16 => .ofInt (n % 2 ^ 16 : Nat)
  | .s8 => .ofInt (signedOf 8 n)
  | .z8 => .ofInt (n % 256 : Nat)
  | .s4 => .ofInt (signedOf 4 n)
  | .z4 => .ofInt (n % 16 : Nat)

/-- A value rounded once to a type and written as R241 states: a lane word, or a pair for F64. -/
def cvtWrite (t : CvtT) (mode : RMode) (v : Val) : W64 :=
  let int (lo hi : Int) : W64 := (BitVec.ofInt 32 (toIntIn lo hi mode v)).zeroExtend 64
  match t with
  | .f64 => BitVec.ofNat 64 (fp64.round mode v)
  | .f32 => BitVec.ofNat 64 (fp32.round mode v)
  | .f16 => BitVec.ofNat 64 (fp16.round mode v)
  | .bf16 => BitVec.ofNat 64 (fpB16.round mode v)
  | .f8m => BitVec.ofNat 64 (f8mRound mode v)
  | .f8e => BitVec.ofNat 64 (fp8e.round mode v)
  | .s32 => int (-2 ^ 31) (2 ^ 31 - 1)
  | .z32 => int 0 (2 ^ 32 - 1)
  | .s16 => int (-2 ^ 15) (2 ^ 15 - 1)
  | .z16 => int 0 (2 ^ 16 - 1)
  | .s8 => int (-128) 127
  | .z8 => int 0 255
  | .s4 => int (-8) 7
  | .z4 => int 0 15

/-! ### Dyads and monads (R109-R112) -/

/-- One signed power of two in units of 2^-8: sign 1 is negative, c = 7 is no term. -/
def dyadTerm (s c : Nat) : Int := if c = 7 then 0 else if s = 1 then -(2 ^ (8 - c) : Nat) else (2 ^ (8 - c) : Nat)

/-- The value of a dyad8 code in units of 2^-8. -/
def dyad8 (x : Nat) : Int := dyadTerm (fld x 7 7) (fld x 6 4) + dyadTerm (fld x 3 3) (fld x 2 0)
/-- The value of a dyad6 code in units of 2^-8. -/
def dyad6 (x : Nat) : Int :=
  let c := fld x 4 2
  if c = 7 then 0
  else
    let t : Int := (2 ^ (8 - c - 1 - fld x 0 0) : Nat)
    dyadTerm (fld x 5 5) c + if fld x 1 1 = 1 then -t else t
/-- The value of a monad4 code in units of 2^-8. -/
def monad4 (x : Nat) : Int := dyadTerm (fld x 3 3) (fld x 2 0)

/-- Targets of vquant (R120). -/
inductive QTarget where
  | d8 | d6 | m4 | s8
  deriving DecidableEq, Repr

/-- Every value of a set with its canonical code, the canonical code of a value first (R112). -/
def QTarget.codes : QTarget → List (Int × Nat)
  | .d8 =>
    let ones := (List.range 2).flatMap fun s => (List.range 7).map fun c => s * 128 + c * 16 + 7
    let same := (List.range 2).flatMap fun s => (List.range 7).flatMap fun c => (List.range 7).map fun d =>
      s * 136 + c * 16 + max c d
    let diff := (List.range 2).flatMap fun s => (List.range 7).flatMap fun c => (List.range 7).map fun d =>
      s * 128 + c * 16 + (1 - s) * 8 + max c d
    (0x77 :: ones ++ same ++ diff).map fun x => (dyad8 x, x)
  | .d6 =>
    let both (k : Nat → Nat) := (List.range 2).flatMap fun s => (List.range 7).flatMap fun c => (List.range 2).map fun g =>
      s * 32 + c * 4 + k s * 2 + g
    (0x1C :: both (fun s => s) ++ both (fun s => 1 - s)).map fun x => (dyad6 x, x)
  | .m4 => (0x7 :: (List.range 2).flatMap fun s => (List.range 7).map fun c => s * 8 + c).map fun x => (monad4 x, x)
  | .s8 => []

/-- The nearest of the listed values to v units of 2^q (q at most -8), the smaller magnitude on a tie: its code. -/
def nearestCode (v q : Int) (l : List (Int × Nat)) : Nat :=
  let scale : Int := (2 ^ ((-8) - q).toNat : Nat)
  (l.foldl (fun (best : Option (Int × Int × Nat)) p =>
    let d := (v - p.1 * scale).natAbs
    match best with
    | none => some (d, p.1.natAbs, p.2)
    | some b => if (d : Int) < b.1 ∨ ((d : Int) = b.1 ∧ (p.1.natAbs : Int) < b.2.1) then some (d, p.1.natAbs, p.2) else best)
    none).elim 0 fun b => b.2.2

/-- Quant(x, k, target) (R120). -/
def quant (x : Val) (k : Int) (t : QTarget) : Nat :=
  match t, x with
  | .s8, .fin neg m e => (BitVec.ofInt 8 (toIntIn (-128) 127 .rne (.fin neg m (e - k)))).toNat
  | .s8, y => (BitVec.ofInt 8 (toIntIn (-128) 127 .rne y)).toNat
  | t, .nan => nearestCode 0 (-8) t.codes
  | t, .inf neg => nearestCode (if neg then -1024 else 1024) (-8) t.codes
  | t, .fin neg m e =>
    let e := e - k
    if (4 : Int) < e + bitLen m ∧ m ≠ 0 then nearestCode (if neg then -1024 else 1024) (-8) t.codes
    else
      let q := min e (-8)
      nearestCode (units neg m e q) q t.codes

/-! ### Sums and products of the matrix engine (R122-R125) -/

/-- ChunkSum over exact values (R122, R228): order has no effect. -/
def chunkSum (l : List Val) : Val :=
  if l.any Val.isNaN || (l.any (· == .inf false) && l.any (· == .inf true)) then .nan
  else if l.any (· == .inf false) then .inf false
  else if l.any (· == .inf true) then .inf true
  else
    let q := l.foldl (fun q x => match x with
      | .fin _ _ e => min q e
      | _ => q) 0
    let v := l.foldl (fun v x => match x with
      | .fin n m e => v + units n m e q
      | _ => v) 0
    ofUnits v q (!l.isEmpty && l.all fun x => x.isZero && x.neg?)

/-- F32 add of two bit patterns under RNE (R122, R251). -/
def addF32 (x y : W32) : W32 :=
  BitVec.ofNat 32 (fp32.round .rne ((fp32.value x.toNat).add .rne (fp32.value y.toNat)))

/-- One step of R122 in a format: acc + Round(chunk), rounded. -/
def Fp.accumulate (f : Fp) (acc : Nat) (products : List Val) : Nat :=
  f.round .rne ((f.value acc).add .rne (f.value (f.round .rne (chunkSum products))))

/-- ScaleAdd of R125. -/
def scaleAdd (acc partial_ : W32) (kA kB : Byte) : W32 :=
  if kA = 0x80 ∨ kB = 0x80 then 0x7FC00000
  else
    let p : Val := match fp32.value partial_.toNat with
      | .fin n m e => .fin n m (e + kA.toInt + kB.toInt)
      | y => y
    BitVec.ofNat 32 (fp32.round .rne ((fp32.value acc.toNat).add .rne p))

/-! ### The lane words (R234-R240) -/

/-- F32, F64 and packed values of a bit pattern. -/
def val32 (x : W32) : Val := fp32.value x.toNat
def val64 (x : W64) : Val := fp64.value x.toNat
def rnd32 (m : RMode) (v : Val) : W32 := BitVec.ofNat 32 (fp32.round m v)
def rnd64 (m : RMode) (v : Val) : W64 := BitVec.ofNat 64 (fp64.round m v)

/-- The lesser (`big = false`) or greater of two F32 patterns, NaN if either is NaN (R238). -/
def minMax32 (big : Bool) (x y : W32) : W32 :=
  let a := val32 x
  let b := val32 y
  if a.isNaN || b.isNaN then 0x7FC00000
  else if big then (if a.less true b then y else x) else (if b.less true a then y else x)

/-- As `minMax32`, but one NaN gives the other operand (R238). -/
def minMaxN32 (big : Bool) (x y : W32) : W32 :=
  if (val32 x).isNaN && !(val32 y).isNaN then y
  else if !(val32 x).isNaN && (val32 y).isNaN then x
  else minMax32 big x y

/-- A packed word by halves: `f` on the low and on the high half (R236). -/
def halves (f : Nat → Nat → Nat → Nat) (x y z : W32) : W32 :=
  let h (w : W32) (k : Nat) : Nat := w.toNat / 2 ^ (16 * k) % 2 ^ 16
  BitVec.ofNat 32 (f (h x 1) (h y 1) (h z 1) * 2 ^ 16 + f (h x 0) (h y 0) (h z 0))

/-- The packed format of var[1] (R236): 0 F16, 1 BF16. -/
def packedFp (bf : Bool) : Fp := if bf then fpB16 else fp16

/-- An integer -16..15 as a code of a format, exact (R182). -/
def Fp.ofSmall (f : Fp) (i : BitVec 5) : Nat := f.round .rne (.ofInt i.toInt)

end Sys2Proof.Machine
end

