-- ==== Sys2Proof/Machine/Flags.lean ====
section
/-!
DEFINITION. Comparisons and saturations: the relations behind every condition bit (R196, R222, R240, R322), and the integer
operations of R214-R221, R228, R229 and R251, each over exact integers narrowed at the end.
-/

namespace Sys2Proof.Machine

open Sys2Proof

/-- Clamp to a signed 32-bit value (R5). -/
def satS32 (v : Int) : W32 := BitVec.ofInt 32 (clampInt (-2 ^ 31) (2 ^ 31 - 1) v)
/-- Clamp to an unsigned 32-bit value (R5). -/
def satZ32 (v : Int) : W32 := BitVec.ofInt 32 (clampInt 0 (2 ^ 32 - 1) v)

/-- vcmp (R222). -/
def icmpHolds (p : ICmp) (a b : W32) : Bool :=
  match p with
  | .eq => a == b
  | .ne => a != b
  | .ltS => a.slt b
  | .leS => a.sle b
  | .gtS => b.slt a
  | .geS => b.sle a
  | .ltZ => a.ult b
  | .leZ => a.ule b
  | .gtZ => b.ult a
  | .geZ => b.ule a
  | .tst => a &&& b != 0

/-- vfcmp and vdcmp over exact values (R240). -/
def fcmpHolds (p : FCmp) (x y : Val) : Bool :=
  let ord := !x.isNaN && !y.isNaN
  match p with
  | .eq => x.same y
  | .ne => !(x.same y)
  | .lt => x.less false y
  | .le => ord && !(y.less false x)
  | .gt => y.less false x
  | .ge => ord && !(x.less false y)
  | .ord => ord
  | .uno => !ord

/-- sg.arm: word against threshold (R322). -/
def armHolds (p : ArmCmp) (word x : W32) : Bool :=
  match p with
  | .geZ => x.ule word
  | .geS => x.sle word
  | .eq => word == x
  | .ne => word != x
  | .leZ => word.ule x
  | .leS => word.sle x

/-- The smaller or larger of two values under an order. -/
def pick {n : Nat} (less : BitVec n → BitVec n → Bool) (a b : BitVec n) : BitVec n := if less b a then b else a

/-- New(op, x, v, nv) of R251 on 32 bits; cas compares with `v`. -/
def aopNew32 (op : AOp) (x v nv : W32) : W32 :=
  match op with
  | .add32 | .add64 => x + v
  | .minS => pick BitVec.slt x v
  | .maxS => pick (fun a b => b.slt a) x v
  | .minZ => pick BitVec.ult x v
  | .maxZ => pick (fun a b => b.ult a) x v
  | .and => x &&& v
  | .or => x ||| v
  | .xor => x ^^^ v
  | .xchg32 | .xchg64 => v
  | .cas32 | .cas64 => if x = v then nv else x
  | .addF32 => addF32 x v

/-- New(op, x, v, nv) of R251 at the op's width. -/
def aopNew (op : AOp) (x v nv : W64) : W64 :=
  match op with
  | .add64 => x + v
  | .xchg64 => v
  | .cas64 => if x = v then nv else x
  | _ => (aopNew32 op (x.truncate 32) (v.truncate 32) (nv.truncate 32)).zeroExtend 64

/-- Bytes of an atomic (R251). -/
def aopBytes (op : AOp) : Nat := if op.is64 then 8 else 4
/-- Operations whose old value satom sign-extends (R253). -/
def aopSigned (op : AOp) : Bool := op == .minS || op == .maxS

/-- Number of one bits below bit `n` of a number. -/
def countOnes (x : Nat) : Nat → Nat
  | 0 => 0
  | n + 1 => countOnes x n + x / 2 ^ n % 2

/-- vpopc (R220). -/
def popc (x : W32) : W32 := BitVec.ofNat 32 (countOnes x.toNat 32)
/-- vclz (R220). -/
def clz (x : W32) : W32 := BitVec.ofNat 32 (32 - bitLen x.toNat)
/-- vctz (R220): the ones below the lowest one bit of x are those of x - 1 that x lacks. -/
def ctz (x : W32) : W32 := if x = 0 then 32 else popc ((x - 1) &&& ~~~x)
/-- vbrev (R220). -/
def brev (x : W32) : W32 :=
  (List.range 32).foldl (fun y i => if x.getLsbD i then y ||| (1#32 <<< (31 - i)) else y) 0

/-- vlut3 (R219): bit i of the result is entry 4 d[i] + 2 a[i] + b[i] of the table. -/
def lut3 (table : W32) (d a b : W32) : W32 :=
  let at_ (k : Nat) : W32 := if table.getLsbD k then
      (if k / 4 % 2 = 1 then d else ~~~d) &&& (if k / 2 % 2 = 1 then a else ~~~a) &&& (if k % 2 = 1 then b else ~~~b)
    else 0
  at_ 0 ||| at_ 1 ||| at_ 2 ||| at_ 3 ||| at_ 4 ||| at_ 5 ||| at_ 6 ||| at_ 7

/-- Position and width of a field (R221). -/
def fieldPos (b : W32) : Nat := fld b.toNat 4 0
def fieldWidth (b : W32) : Nat := min (fld b.toNat 13 8) (32 - fieldPos b)
/-- vbfx.z (R221). -/
def bfxZ (a b : W32) : W32 := BitVec.ofNat 32 (a.toNat / 2 ^ fieldPos b % 2 ^ fieldWidth b)
/-- vbfx.s (R221). -/
def bfxS (a b : W32) : W32 := if fieldWidth b = 0 then 0 else BitVec.ofInt 32 (signedOf (fieldWidth b) (a.toNat / 2 ^ fieldPos b))
/-- vbfi (R221). -/
def bfi (d a b : W32) : W32 :=
  let mask : W32 := BitVec.ofNat 32 ((2 ^ fieldWidth b - 1) * 2 ^ fieldPos b)
  (d &&& ~~~mask) ||| ((a <<< fieldPos b) &&& mask)

/-- The reduction of vfold with its value over no lane (R228). -/
def foldRun (o : FoldOp) (l : List W32) : W64 :=
  let ext (x : W32) : W64 := x.signExtend 64
  match o with
  | .addZ => BitVec.ofNat 64 ((l.map BitVec.toNat).sum)
  | .addS => BitVec.ofInt 64 ((l.map BitVec.toInt).sum)
  | .minS => ext (l.foldl (pick BitVec.slt) 0x7FFFFFFF)
  | .maxS => ext (l.foldl (pick fun a b => b.slt a) 0x80000000)
  | .minZ => (l.foldl (pick BitVec.ult) 0xFFFFFFFF).zeroExtend 64
  | .maxZ => (l.foldl (pick fun a b => b.ult a) 0).zeroExtend 64
  | .and => (l.foldl (· &&& ·) 0xFFFFFFFF).zeroExtend 64
  | .or => (l.foldl (· ||| ·) 0).zeroExtend 64
  | .xor => (l.foldl (· ^^^ ·) 0).zeroExtend 64
  | .addF32 => if l = [] then 0 else (rnd32 .rne (chunkSum (l.map val32))).zeroExtend 64

/-- The running reduction of vscan; the list is empty only under .ex (R229). -/
def scanRun (o : ScanOp) (l : List W32) : W32 :=
  match o with
  | .add => l.foldl (· + ·) 0
  | .minS => l.foldl (pick BitVec.slt) 0x7FFFFFFF
  | .maxS => l.foldl (pick fun a b => b.slt a) 0x80000000
  | .minZ => l.foldl (pick BitVec.ult) 0xFFFFFFFF
  | .maxZ => l.foldl (pick fun a b => b.ult a) 0
  | .and => l.foldl (· &&& ·) 0xFFFFFFFF
  | .or => l.foldl (· ||| ·) 0
  | .xor => l.foldl (· ^^^ ·) 0

end Sys2Proof.Machine
end

