-- ==== Sys2Proof/Decode.lean ====
section
/-!
DEFINITION. The decoder of instruction words and packets (R176-R187), total on any bits, answering the lowest cause code
of R186 for an illegal word; and after it the encoder, written from the same formats.
-/

namespace Sys2Proof

/-- Codes of `Width`. -/
def Width.code : Width → Nat
  | .x8 => 0
  | .x16 => 1
  | .x32 => 2
  | .x64 => 3
/-- The name a code stands for. -/
def Width.ofCode : Nat → Option Width
  | 0 => some .x8
  | 1 => some .x16
  | 2 => some .x32
  | 3 => some .x64
  | _ => none

/-- Codes of `Hint`. -/
def Hint.code : Hint → Nat
  | .normal => 0
  | .nt => 1
  | .keep => 2
/-- The name a code stands for. -/
def Hint.ofCode : Nat → Option Hint
  | 0 => some .normal
  | 1 => some .nt
  | 2 => some .keep
  | _ => none

/-- Codes of `RMode`. -/
def RMode.code : RMode → Nat
  | .rne => 0
  | .rz => 1
  | .ru => 2
  | .rd => 3
/-- The name a code stands for. -/
def RMode.ofCode : Nat → Option RMode
  | 0 => some .rne
  | 1 => some .rz
  | 2 => some .ru
  | 3 => some .rd
  | _ => none

/-- Codes of `Scope`. -/
def Scope.code : Scope → Nat
  | .thr => 0
  | .grp => 1
  | .team => 2
  | .clu => 3
  | .die => 4
  | .dev => 5
  | .sys => 6
/-- The name a code stands for. -/
def Scope.ofCode : Nat → Option Scope
  | 0 => some .thr
  | 1 => some .grp
  | 2 => some .team
  | 3 => some .clu
  | 4 => some .die
  | 5 => some .dev
  | 6 => some .sys
  | _ => none

/-- Codes of `Ord`. -/
def Ord.code : Ord → Nat
  | .rlx => 0
  | .acq => 1
  | .rel => 2
  | .acqrel => 3
/-- The name a code stands for. -/
def Ord.ofCode : Nat → Option Ord
  | 0 => some .rlx
  | 1 => some .acq
  | 2 => some .rel
  | 3 => some .acqrel
  | _ => none

/-- Codes of `FOrd`. -/
def FOrd.code : FOrd → Nat
  | .acq => 1
  | .rel => 2
  | .acqrel => 3
/-- The name a code stands for. -/
def FOrd.ofCode : Nat → Option FOrd
  | 1 => some .acq
  | 2 => some .rel
  | 3 => some .acqrel
  | _ => none

/-- Codes of `AOp`. -/
def AOp.code : AOp → Nat
  | .add32 => 0
  | .minS => 1
  | .maxS => 2
  | .minZ => 3
  | .maxZ => 4
  | .and => 5
  | .or => 6
  | .xor => 7
  | .xchg32 => 8
  | .cas32 => 9
  | .addF32 => 10
  | .add64 => 11
  | .xchg64 => 12
  | .cas64 => 13
/-- The name a code stands for. -/
def AOp.ofCode : Nat → Option AOp
  | 0 => some .add32
  | 1 => some .minS
  | 2 => some .maxS
  | 3 => some .minZ
  | 4 => some .maxZ
  | 5 => some .and
  | 6 => some .or
  | 7 => some .xor
  | 8 => some .xchg32
  | 9 => some .cas32
  | 10 => some .addF32
  | 11 => some .add64
  | 12 => some .xchg64
  | 13 => some .cas64
  | _ => none

/-- Codes of `RedOp`. -/
def RedOp.code : RedOp → Nat
  | .add32 => 0
  | .minS => 1
  | .maxS => 2
  | .minZ => 3
  | .maxZ => 4
  | .and => 5
  | .or => 6
  | .xor => 7
  | .addF32 => 10
  | .add64 => 11
/-- The name a code stands for. -/
def RedOp.ofCode : Nat → Option RedOp
  | 0 => some .add32
  | 1 => some .minS
  | 2 => some .maxS
  | 3 => some .minZ
  | 4 => some .maxZ
  | 5 => some .and
  | 6 => some .or
  | 7 => some .xor
  | 10 => some .addF32
  | 11 => some .add64
  | _ => none

/-- Codes of `ModOp`. -/
def ModOp.code : ModOp → Nat
  | .add32 => 0
  | .minS => 1
  | .maxS => 2
  | .minZ => 3
  | .maxZ => 4
  | .and => 5
  | .or => 6
  | .xor => 7
  | .xchg32 => 8
  | .cas32 => 9
  | .addF32 => 10
/-- The name a code stands for. -/
def ModOp.ofCode : Nat → Option ModOp
  | 0 => some .add32
  | 1 => some .minS
  | 2 => some .maxS
  | 3 => some .minZ
  | 4 => some .maxZ
  | 5 => some .and
  | 6 => some .or
  | 7 => some .xor
  | 8 => some .xchg32
  | 9 => some .cas32
  | 10 => some .addF32
  | _ => none

/-- Codes of `ICmp`. -/
def ICmp.code : ICmp → Nat
  | .eq => 0
  | .ne => 1
  | .ltS => 2
  | .leS => 3
  | .gtS => 4
  | .geS => 5
  | .ltZ => 6
  | .leZ => 7
  | .gtZ => 8
  | .geZ => 9
  | .tst => 10
/-- The name a code stands for. -/
def ICmp.ofCode : Nat → Option ICmp
  | 0 => some .eq
  | 1 => some .ne
  | 2 => some .ltS
  | 3 => some .leS
  | 4 => some .gtS
  | 5 => some .geS
  | 6 => some .ltZ
  | 7 => some .leZ
  | 8 => some .gtZ
  | 9 => some .geZ
  | 10 => some .tst
  | _ => none

/-- Codes of `FCmp`. -/
def FCmp.code : FCmp → Nat
  | .eq => 0
  | .ne => 1
  | .lt => 2
  | .le => 3
  | .gt => 4
  | .ge => 5
  | .ord => 6
  | .uno => 7
/-- The name a code stands for. -/
def FCmp.ofCode : Nat → Option FCmp
  | 0 => some .eq
  | 1 => some .ne
  | 2 => some .lt
  | 3 => some .le
  | 4 => some .gt
  | 5 => some .ge
  | 6 => some .ord
  | 7 => some .uno
  | _ => none

/-- Codes of `ArmCmp`. -/
def ArmCmp.code : ArmCmp → Nat
  | .geZ => 0
  | .geS => 1
  | .eq => 2
  | .ne => 3
  | .leZ => 4
  | .leS => 5
/-- The name a code stands for. -/
def ArmCmp.ofCode : Nat → Option ArmCmp
  | 0 => some .geZ
  | 1 => some .geS
  | 2 => some .eq
  | 3 => some .ne
  | 4 => some .leZ
  | 5 => some .leS
  | _ => none

/-- Codes of `FoldOp`. -/
def FoldOp.code : FoldOp → Nat
  | .addZ => 0
  | .addS => 1
  | .minS => 2
  | .maxS => 3
  | .minZ => 4
  | .maxZ => 5
  | .and => 6
  | .or => 7
  | .xor => 8
  | .addF32 => 9
/-- The name a code stands for. -/
def FoldOp.ofCode : Nat → Option FoldOp
  | 0 => some .addZ
  | 1 => some .addS
  | 2 => some .minS
  | 3 => some .maxS
  | 4 => some .minZ
  | 5 => some .maxZ
  | 6 => some .and
  | 7 => some .or
  | 8 => some .xor
  | 9 => some .addF32
  | _ => none

/-- Codes of `ScanOp`. -/
def ScanOp.code : ScanOp → Nat
  | .add => 0
  | .minS => 2
  | .maxS => 3
  | .minZ => 4
  | .maxZ => 5
  | .and => 6
  | .or => 7
  | .xor => 8
/-- The name a code stands for. -/
def ScanOp.ofCode : Nat → Option ScanOp
  | 0 => some .add
  | 2 => some .minS
  | 3 => some .maxS
  | 4 => some .minZ
  | 5 => some .maxZ
  | 6 => some .and
  | 7 => some .or
  | 8 => some .xor
  | _ => none

/-- Codes of `ExtW`. -/
def ExtW.code : ExtW → Nat
  | .z32 => 0
  | .s32 => 1
  | .x64 => 2
/-- The name a code stands for. -/
def ExtW.ofCode : Nat → Option ExtW
  | 0 => some .z32
  | 1 => some .s32
  | 2 => some .x64
  | _ => none

/-- Codes of `InsW`. -/
def InsW.code : InsW → Nat
  | .lo => 0
  | .hi => 1
  | .x64 => 2
/-- The name a code stands for. -/
def InsW.ofCode : Nat → Option InsW
  | 0 => some .lo
  | 1 => some .hi
  | 2 => some .x64
  | _ => none

/-- Codes of `CvtT`. -/
def CvtT.code : CvtT → Nat
  | .f64 => 0
  | .f32 => 1
  | .f16 => 2
  | .bf16 => 3
  | .f8m => 4
  | .f8e => 5
  | .s32 => 6
  | .z32 => 7
  | .s16 => 8
  | .z16 => 9
  | .s8 => 10
  | .z8 => 11
  | .s4 => 12
  | .z4 => 13
/-- The name a code stands for. -/
def CvtT.ofCode : Nat → Option CvtT
  | 0 => some .f64
  | 1 => some .f32
  | 2 => some .f16
  | 3 => some .bf16
  | 4 => some .f8m
  | 5 => some .f8e
  | 6 => some .s32
  | 7 => some .z32
  | 8 => some .s16
  | 9 => some .z16
  | 10 => some .s8
  | 11 => some .z8
  | 12 => some .s4
  | 13 => some .z4
  | _ => none

/-- Codes of `PackW`. -/
def PackW.code : PackW → Nat
  | .n4 => 0
  | .n8 => 1
  | .n16 => 2
/-- The name a code stands for. -/
def PackW.ofCode : Nat → Option PackW
  | 0 => some .n4
  | 1 => some .n8
  | 2 => some .n16
  | _ => none

/-- Codes of `Fmt`. -/
def Fmt.code : Fmt → Nat
  | .f64 => 0
  | .f32 => 1
  | .f16 => 2
  | .bf16 => 3
  | .f8m => 4
  | .f8e => 5
  | .s16 => 6
  | .s8 => 7
  | .z8 => 8
  | .s4 => 9
  | .z4 => 10
  | .q8 => 11
  | .q4 => 12
  | .d8 => 13
  | .d6 => 14
  | .m4 => 15
/-- The name a code stands for. -/
def Fmt.ofCode : Nat → Option Fmt
  | 0 => some .f64
  | 1 => some .f32
  | 2 => some .f16
  | 3 => some .bf16
  | 4 => some .f8m
  | 5 => some .f8e
  | 6 => some .s16
  | 7 => some .s8
  | 8 => some .z8
  | 9 => some .s4
  | 10 => some .z4
  | 11 => some .q8
  | 12 => some .q4
  | 13 => some .d8
  | 14 => some .d6
  | 15 => some .m4
  | _ => none

/-- Codes of `TKind`. -/
def TKind.code : TKind → Nat
  | .f32 => 0
  | .s32 => 1
  | .f64 => 2
  | .part => 3
/-- The name a code stands for. -/
def TKind.ofCode : Nat → Option TKind
  | 0 => some .f32
  | 1 => some .s32
  | 2 => some .f64
  | 3 => some .part
  | _ => none

/-- Codes of `BankCode`. -/
def BankCode.code : BankCode → Nat
  | .full => 0
  | .retain => 1
  | .off => 2
/-- The name a code stands for. -/
def BankCode.ofCode : Nat → Option BankCode
  | 0 => some .full
  | 1 => some .retain
  | 2 => some .off
  | _ => none

/-- The 8-bit code of a b-selector (R182). -/
def BSel.code : BSel → Nat
  | .vreg n => n.val
  | .sreg n => 128 + n.val
  | .imm i => 192 + i.toNat
  | .lit => 224

/-- The b-selector an 8-bit code stands for; none for a reserved value. -/
def BSel.ofCode (x : Nat) : Option BSel :=
  if x < 128 then some (.vreg (Fin.ofNat 128 x))
  else if x < 192 then some (.sreg (Fin.ofNat 64 x))
  else if x < 224 then some (.imm (BitVec.ofNat 5 x))
  else if x = 224 then some .lit
  else none

/-- The queue field of cp and gth: 0 to 5 (R265, R271). -/
def queueOf (x : Nat) : Option (Fin 6) := if x < 6 then some (Fin.ofNat 6 x) else none

/-- Go on with a field's name, or report cause `c` where its code has none. -/
def need {α : Type} (o : Option α) (c : Nat) (k : α → Except Nat Instr) : Except Nat Instr :=
  match o with
  | none => .error c
  | some x => k x

/-- Report cause `c` where `p` holds. -/
def when (p : Prop) [Decidable p] (c : Nat) (k : Except Nat Instr) : Except Nat Instr :=
  if p then .error c else k

/-- The register limits of R185, the last rule to be judged. -/
def legal (i : Instr) : Except Nat Instr := if i.limits then .ok i else .error 9

/-- Reserved majors (R184). -/
def reservedMajor (m : Nat) : Bool :=
  m == 0x0E || m == 0x0F || m == 0x33 || (0x4C ≤ m && m ≤ 0x4F) || (0x5C ≤ m && m ≤ 0x5F)
    || (0x6B ≤ m && m ≤ 0x6F) || m == 0x77

/-- Words of major 0x00 (nop). -/
def dec00 (w : Nat) : Except Nat Instr :=
  if fld w 23 0 ≠ 0 then .error 3 else if fld w 31 31 ≠ 0 then .error 7 else .ok .nop

/-- Words of major 0x01 (sadd, ssub, smul, smulh_s, smulh_z, sand, sor, sxor, sshl, sshr_z, sshr_s, smin_s, smax_s, smin_z, smax_z, sslt_s, sslt_z, sseq). -/
def dec01 (w : Nat) : Except Nat Instr :=
  match fld w 5 0 with
  | 0 =>
    .ok (.sadd (Fin.ofNat 64 (fld w 23 18)) (Fin.ofNat 64 (fld w 17 12)) (Fin.ofNat 64 (fld w 11 6)))
  | 1 =>
    .ok (.ssub (Fin.ofNat 64 (fld w 23 18)) (Fin.ofNat 64 (fld w 17 12)) (Fin.ofNat 64 (fld w 11 6)))
  | 2 =>
    .ok (.smul (Fin.ofNat 64 (fld w 23 18)) (Fin.ofNat 64 (fld w 17 12)) (Fin.ofNat 64 (fld w 11 6)))
  | 3 =>
    .ok (.smulhS (Fin.ofNat 64 (fld w 23 18)) (Fin.ofNat 64 (fld w 17 12)) (Fin.ofNat 64 (fld w 11 6)))
  | 4 =>
    .ok (.smulhZ (Fin.ofNat 64 (fld w 23 18)) (Fin.ofNat 64 (fld w 17 12)) (Fin.ofNat 64 (fld w 11 6)))
  | 5 =>
    .ok (.sand (Fin.ofNat 64 (fld w 23 18)) (Fin.ofNat 64 (fld w 17 12)) (Fin.ofNat 64 (fld w 11 6)))
  | 6 =>
    .ok (.sor (Fin.ofNat 64 (fld w 23 18)) (Fin.ofNat 64 (fld w 17 12)) (Fin.ofNat 64 (fld w 11 6)))
  | 7 =>
    .ok (.sxor (Fin.ofNat 64 (fld w 23 18)) (Fin.ofNat 64 (fld w 17 12)) (Fin.ofNat 64 (fld w 11 6)))
  | 8 =>
    .ok (.sshl (Fin.ofNat 64 (fld w 23 18)) (Fin.ofNat 64 (fld w 17 12)) (Fin.ofNat 64 (fld w 11 6)))
  | 9 =>
    .ok (.sshrZ (Fin.ofNat 64 (fld w 23 18)) (Fin.ofNat 64 (fld w 17 12)) (Fin.ofNat 64 (fld w 11 6)))
  | 10 =>
    .ok (.sshrS (Fin.ofNat 64 (fld w 23 18)) (Fin.ofNat 64 (fld w 17 12)) (Fin.ofNat 64 (fld w 11 6)))
  | 11 =>
    .ok (.sminS (Fin.ofNat 64 (fld w 23 18)) (Fin.ofNat 64 (fld w 17 12)) (Fin.ofNat 64 (fld w 11 6)))
  | 12 =>
    .ok (.smaxS (Fin.ofNat 64 (fld w 23 18)) (Fin.ofNat 64 (fld w 17 12)) (Fin.ofNat 64 (fld w 11 6)))
  | 13 =>
    .ok (.sminZ (Fin.ofNat 64 (fld w 23 18)) (Fin.ofNat 64 (fld w 17 12)) (Fin.ofNat 64 (fld w 11 6)))
  | 14 =>
    .ok (.smaxZ (Fin.ofNat 64 (fld w 23 18)) (Fin.ofNat 64 (fld w 17 12)) (Fin.ofNat 64 (fld w 11 6)))
  | 15 =>
    .ok (.ssltS (Fin.ofNat 64 (fld w 23 18)) (Fin.ofNat 64 (fld w 17 12)) (Fin.ofNat 64 (fld w 11 6)))
  | 16 =>
    .ok (.ssltZ (Fin.ofNat 64 (fld w 23 18)) (Fin.ofNat 64 (fld w 17 12)) (Fin.ofNat 64 (fld w 11 6)))
  | 17 =>
    .ok (.sseq (Fin.ofNat 64 (fld w 23 18)) (Fin.ofNat 64 (fld w 17 12)) (Fin.ofNat 64 (fld w 11 6)))
  | _ => .error 2

/-- Words of major 0x02 (saddi). -/
def dec02 (w : Nat) : Except Nat Instr :=
  .ok (.saddi (Fin.ofNat 64 (fld w 23 18)) (Fin.ofNat 64 (fld w 17 12)) (BitVec.ofNat 12 (fld w 11 0)))

/-- Words of major 0x03 (sandi). -/
def dec03 (w : Nat) : Except Nat Instr :=
  .ok (.sandi (Fin.ofNat 64 (fld w 23 18)) (Fin.ofNat 64 (fld w 17 12)) (BitVec.ofNat 12 (fld w 11 0)))

/-- Words of major 0x04 (sori). -/
def dec04 (w : Nat) : Except Nat Instr :=
  .ok (.sori (Fin.ofNat 64 (fld w 23 18)) (Fin.ofNat 64 (fld w 17 12)) (BitVec.ofNat 12 (fld w 11 0)))

/-- Words of major 0x05 (sxori). -/
def dec05 (w : Nat) : Except Nat Instr :=
  .ok (.sxori (Fin.ofNat 64 (fld w 23 18)) (Fin.ofNat 64 (fld w 17 12)) (BitVec.ofNat 12 (fld w 11 0)))

/-- Words of major 0x06 (sshli, sshri_z, sshri_s). -/
def dec06 (w : Nat) : Except Nat Instr :=
  match fld w 7 6 with
  | 0 =>
    when (fld w 11 8 ≠ 0) 3 <|
    .ok (.sshli (Fin.ofNat 64 (fld w 23 18)) (Fin.ofNat 64 (fld w 17 12)) (Fin.ofNat 64 (fld w 5 0)))
  | 1 =>
    when (fld w 11 8 ≠ 0) 3 <|
    .ok (.sshriZ (Fin.ofNat 64 (fld w 23 18)) (Fin.ofNat 64 (fld w 17 12)) (Fin.ofNat 64 (fld w 5 0)))
  | 2 =>
    when (fld w 11 8 ≠ 0) 3 <|
    .ok (.sshriS (Fin.ofNat 64 (fld w 23 18)) (Fin.ofNat 64 (fld w 17 12)) (Fin.ofNat 64 (fld w 5 0)))
  | _ => .error 2

/-- Words of major 0x07 (slit). -/
def dec07 (w : Nat) : Except Nat Instr :=
  .ok (.slit (Fin.ofNat 64 (fld w 23 18)) (BitVec.ofNat 18 (fld w 17 0)))

/-- Words of major 0x08 (slitw_z, slitw_s, slitw_lo, slitw_hi). -/
def dec08 (w : Nat) : Except Nat Instr :=
  match fld w 1 0 with
  | 0 =>
    when (fld w 17 2 ≠ 0) 3 <|
    .ok (.slitwZ (Fin.ofNat 64 (fld w 23 18)))
  | 1 =>
    when (fld w 17 2 ≠ 0) 3 <|
    .ok (.slitwS (Fin.ofNat 64 (fld w 23 18)))
  | 2 =>
    when (fld w 17 2 ≠ 0) 3 <|
    .ok (.slitwLo (Fin.ofNat 64 (fld w 23 18)))
  | _ =>
    when (fld w 17 2 ≠ 0) 3 <|
    .ok (.slitwHi (Fin.ofNat 64 (fld w 23 18)))

/-- Words of major 0x09 (sgetsr). -/
def dec09 (w : Nat) : Except Nat Instr :=
  match fld w 5 0 with
  | 0 =>
    .ok (.sgetsr (Fin.ofNat 64 (fld w 23 18)) (Fin.ofNat 4096 (fld w 17 6)))
  | _ => .error 2

/-- Words of major 0x0A (ssetsr, ssetsr_set, ssetsr_clr). -/
def dec0A (w : Nat) : Except Nat Instr :=
  match fld w 5 0 with
  | 0 =>
    .ok (.ssetsr (Fin.ofNat 64 (fld w 23 18)) (Fin.ofNat 4096 (fld w 17 6)))
  | 1 =>
    .ok (.ssetsrSet (Fin.ofNat 64 (fld w 23 18)) (Fin.ofNat 4096 (fld w 17 6)))
  | 2 =>
    .ok (.ssetsrClr (Fin.ofNat 64 (fld w 23 18)) (Fin.ofNat 4096 (fld w 17 6)))
  | _ => .error 2

/-- Words of major 0x0B (scmp_eq, scmp_ne, scmp_lt_s, scmp_le_s, scmp_lt_z, scmp_le_z). -/
def dec0B (w : Nat) : Except Nat Instr :=
  match fld w 5 0 with
  | 0 =>
    when (8 ≤ fld w 23 18) 3 <|
    when (fld w 23 18 = 7) 4 <|
    .ok (.scmpEq (Fin.ofNat 8 (fld w 23 18)) (Fin.ofNat 64 (fld w 17 12)) (Fin.ofNat 64 (fld w 11 6)))
  | 1 =>
    when (8 ≤ fld w 23 18) 3 <|
    when (fld w 23 18 = 7) 4 <|
    .ok (.scmpNe (Fin.ofNat 8 (fld w 23 18)) (Fin.ofNat 64 (fld w 17 12)) (Fin.ofNat 64 (fld w 11 6)))
  | 2 =>
    when (8 ≤ fld w 23 18) 3 <|
    when (fld w 23 18 = 7) 4 <|
    .ok (.scmpLtS (Fin.ofNat 8 (fld w 23 18)) (Fin.ofNat 64 (fld w 17 12)) (Fin.ofNat 64 (fld w 11 6)))
  | 3 =>
    when (8 ≤ fld w 23 18) 3 <|
    when (fld w 23 18 = 7) 4 <|
    .ok (.scmpLeS (Fin.ofNat 8 (fld w 23 18)) (Fin.ofNat 64 (fld w 17 12)) (Fin.ofNat 64 (fld w 11 6)))
  | 4 =>
    when (8 ≤ fld w 23 18) 3 <|
    when (fld w 23 18 = 7) 4 <|
    .ok (.scmpLtZ (Fin.ofNat 8 (fld w 23 18)) (Fin.ofNat 64 (fld w 17 12)) (Fin.ofNat 64 (fld w 11 6)))
  | 5 =>
    when (8 ≤ fld w 23 18) 3 <|
    when (fld w 23 18 = 7) 4 <|
    .ok (.scmpLeZ (Fin.ofNat 8 (fld w 23 18)) (Fin.ofNat 64 (fld w 17 12)) (Fin.ofNat 64 (fld w 11 6)))
  | _ => .error 2

/-- Words of major 0x0C (sext, sext_first, sext_last). -/
def dec0C (w : Nat) : Except Nat Instr :=
  match fld w 9 8 with
  | 0 =>
    need (ExtW.ofCode (fld w 7 6)) 2 fun w1 =>
    when (fld w 5 5 ≠ 0) 3 <|
    when (fld w 17 17 ≠ 0) 3 <|
    legal (.sext (Fin.ofNat 64 (fld w 23 18)) (Fin.ofNat 128 (fld w 16 10)) w1 (Fin.ofNat 32 (fld w 4 0)))
  | 1 =>
    need (ExtW.ofCode (fld w 7 6)) 2 fun w1 =>
    when (fld w 5 0 ≠ 0) 3 <|
    when (fld w 17 17 ≠ 0) 3 <|
    legal (.sextFirst (Fin.ofNat 64 (fld w 23 18)) (Fin.ofNat 128 (fld w 16 10)) w1)
  | 2 =>
    need (ExtW.ofCode (fld w 7 6)) 2 fun w1 =>
    when (fld w 5 0 ≠ 0) 3 <|
    when (fld w 17 17 ≠ 0) 3 <|
    legal (.sextLast (Fin.ofNat 64 (fld w 23 18)) (Fin.ofNat 128 (fld w 16 10)) w1)
  | _ => .error 2

/-- Words of major 0x0D (vins, vins_all). -/
def dec0D (w : Nat) : Except Nat Instr :=
  match fld w 9 8 with
  | 0 =>
    need (InsW.ofCode (fld w 7 6)) 2 fun w1 =>
    when (fld w 5 5 ≠ 0) 3 <|
    when (fld w 10 10 ≠ 0) 3 <|
    legal (.vins (Fin.ofNat 128 (fld w 23 17)) (Fin.ofNat 64 (fld w 16 11)) w1 (Fin.ofNat 32 (fld w 4 0)))
  | 1 =>
    need (InsW.ofCode (fld w 7 6)) 2 fun w1 =>
    when (fld w 5 0 ≠ 0) 3 <|
    when (fld w 10 10 ≠ 0) 3 <|
    legal (.vinsAll (Fin.ofNat 128 (fld w 23 17)) (Fin.ofNat 64 (fld w 16 11)) w1)
  | _ => .error 2

/-- Words of major 0x10 (vadd, vadd_sat_s, vadd_sat_z). -/
def dec10 (w : Nat) : Except Nat Instr :=
  match fld w 1 0 with
  | 0 =>
    need (BSel.ofCode (fld w 9 2)) 5 fun b1 =>
    .ok (.vadd (Fin.ofNat 128 (fld w 23 17)) (Fin.ofNat 128 (fld w 16 10)) b1)
  | 1 =>
    need (BSel.ofCode (fld w 9 2)) 5 fun b1 =>
    .ok (.vaddSatS (Fin.ofNat 128 (fld w 23 17)) (Fin.ofNat 128 (fld w 16 10)) b1)
  | 2 =>
    need (BSel.ofCode (fld w 9 2)) 5 fun b1 =>
    .ok (.vaddSatZ (Fin.ofNat 128 (fld w 23 17)) (Fin.ofNat 128 (fld w 16 10)) b1)
  | _ => .error 2

/-- Words of major 0x11 (vsub, vsub_sat_s, vsub_sat_z). -/
def dec11 (w : Nat) : Except Nat Instr :=
  match fld w 1 0 with
  | 0 =>
    need (BSel.ofCode (fld w 9 2)) 5 fun b1 =>
    .ok (.vsub (Fin.ofNat 128 (fld w 23 17)) (Fin.ofNat 128 (fld w 16 10)) b1)
  | 1 =>
    need (BSel.ofCode (fld w 9 2)) 5 fun b1 =>
    .ok (.vsubSatS (Fin.ofNat 128 (fld w 23 17)) (Fin.ofNat 128 (fld w 16 10)) b1)
  | 2 =>
    need (BSel.ofCode (fld w 9 2)) 5 fun b1 =>
    .ok (.vsubSatZ (Fin.ofNat 128 (fld w 23 17)) (Fin.ofNat 128 (fld w 16 10)) b1)
  | _ => .error 2

/-- Words of major 0x12 (vmul, vmulh_s, vmulh_z). -/
def dec12 (w : Nat) : Except Nat Instr :=
  match fld w 1 0 with
  | 0 =>
    need (BSel.ofCode (fld w 9 2)) 5 fun b1 =>
    .ok (.vmul (Fin.ofNat 128 (fld w 23 17)) (Fin.ofNat 128 (fld w 16 10)) b1)
  | 1 =>
    need (BSel.ofCode (fld w 9 2)) 5 fun b1 =>
    .ok (.vmulhS (Fin.ofNat 128 (fld w 23 17)) (Fin.ofNat 128 (fld w 16 10)) b1)
  | 2 =>
    need (BSel.ofCode (fld w 9 2)) 5 fun b1 =>
    .ok (.vmulhZ (Fin.ofNat 128 (fld w 23 17)) (Fin.ofNat 128 (fld w 16 10)) b1)
  | _ => .error 2

/-- Words of major 0x13 (vmin_s, vmin_z). -/
def dec13 (w : Nat) : Except Nat Instr :=
  match fld w 1 0 with
  | 0 =>
    need (BSel.ofCode (fld w 9 2)) 5 fun b1 =>
    .ok (.vminS (Fin.ofNat 128 (fld w 23 17)) (Fin.ofNat 128 (fld w 16 10)) b1)
  | 1 =>
    need (BSel.ofCode (fld w 9 2)) 5 fun b1 =>
    .ok (.vminZ (Fin.ofNat 128 (fld w 23 17)) (Fin.ofNat 128 (fld w 16 10)) b1)
  | _ => .error 2

/-- Words of major 0x14 (vmax_s, vmax_z). -/
def dec14 (w : Nat) : Except Nat Instr :=
  match fld w 1 0 with
  | 0 =>
    need (BSel.ofCode (fld w 9 2)) 5 fun b1 =>
    .ok (.vmaxS (Fin.ofNat 128 (fld w 23 17)) (Fin.ofNat 128 (fld w 16 10)) b1)
  | 1 =>
    need (BSel.ofCode (fld w 9 2)) 5 fun b1 =>
    .ok (.vmaxZ (Fin.ofNat 128 (fld w 23 17)) (Fin.ofNat 128 (fld w 16 10)) b1)
  | _ => .error 2

/-- Words of major 0x15 (vand, vor, vxor, vandn). -/
def dec15 (w : Nat) : Except Nat Instr :=
  match fld w 1 0 with
  | 0 =>
    need (BSel.ofCode (fld w 9 2)) 5 fun b1 =>
    .ok (.vand (Fin.ofNat 128 (fld w 23 17)) (Fin.ofNat 128 (fld w 16 10)) b1)
  | 1 =>
    need (BSel.ofCode (fld w 9 2)) 5 fun b1 =>
    .ok (.vor (Fin.ofNat 128 (fld w 23 17)) (Fin.ofNat 128 (fld w 16 10)) b1)
  | 2 =>
    need (BSel.ofCode (fld w 9 2)) 5 fun b1 =>
    .ok (.vxor (Fin.ofNat 128 (fld w 23 17)) (Fin.ofNat 128 (fld w 16 10)) b1)
  | _ =>
    need (BSel.ofCode (fld w 9 2)) 5 fun b1 =>
    .ok (.vandn (Fin.ofNat 128 (fld w 23 17)) (Fin.ofNat 128 (fld w 16 10)) b1)

/-- Words of major 0x16 (vshl, vshr_z, vshr_s, vrot). -/
def dec16 (w : Nat) : Except Nat Instr :=
  match fld w 1 0 with
  | 0 =>
    need (BSel.ofCode (fld w 9 2)) 5 fun b1 =>
    .ok (.vshl (Fin.ofNat 128 (fld w 23 17)) (Fin.ofNat 128 (fld w 16 10)) b1)
  | 1 =>
    need (BSel.ofCode (fld w 9 2)) 5 fun b1 =>
    .ok (.vshrZ (Fin.ofNat 128 (fld w 23 17)) (Fin.ofNat 128 (fld w 16 10)) b1)
  | 2 =>
    need (BSel.ofCode (fld w 9 2)) 5 fun b1 =>
    .ok (.vshrS (Fin.ofNat 128 (fld w 23 17)) (Fin.ofNat 128 (fld w 16 10)) b1)
  | _ =>
    need (BSel.ofCode (fld w 9 2)) 5 fun b1 =>
    .ok (.vrot (Fin.ofNat 128 (fld w 23 17)) (Fin.ofNat 128 (fld w 16 10)) b1)

/-- Words of major 0x17 (vlut3). -/
def dec17 (w : Nat) : Except Nat Instr :=
  match fld w 1 0 with
  | 0 =>
    need (BSel.ofCode (fld w 9 2)) 5 fun b1 =>
    .ok (.vlut3 (Fin.ofNat 128 (fld w 23 17)) (Fin.ofNat 128 (fld w 16 10)) b1)
  | _ => .error 2

/-- Words of major 0x18 (vpopc, vclz, vctz, vbrev). -/
def dec18 (w : Nat) : Except Nat Instr :=
  match fld w 1 0 with
  | 0 =>
    when (fld w 9 2 ≠ 0) 3 <|
    .ok (.vpopc (Fin.ofNat 128 (fld w 23 17)) (Fin.ofNat 128 (fld w 16 10)))
  | 1 =>
    when (fld w 9 2 ≠ 0) 3 <|
    .ok (.vclz (Fin.ofNat 128 (fld w 23 17)) (Fin.ofNat 128 (fld w 16 10)))
  | 2 =>
    when (fld w 9 2 ≠ 0) 3 <|
    .ok (.vctz (Fin.ofNat 128 (fld w 23 17)) (Fin.ofNat 128 (fld w 16 10)))
  | _ =>
    when (fld w 9 2 ≠ 0) 3 <|
    .ok (.vbrev (Fin.ofNat 128 (fld w 23 17)) (Fin.ofNat 128 (fld w 16 10)))

/-- Words of major 0x19 (vbfx_z). -/
def dec19 (w : Nat) : Except Nat Instr :=
  match fld w 1 0 with
  | 0 =>
    need (BSel.ofCode (fld w 9 2)) 5 fun b1 =>
    .ok (.vbfxZ (Fin.ofNat 128 (fld w 23 17)) (Fin.ofNat 128 (fld w 16 10)) b1)
  | _ => .error 2

/-- Words of major 0x1A (vbfx_s). -/
def dec1A (w : Nat) : Except Nat Instr :=
  match fld w 1 0 with
  | 0 =>
    need (BSel.ofCode (fld w 9 2)) 5 fun b1 =>
    .ok (.vbfxS (Fin.ofNat 128 (fld w 23 17)) (Fin.ofNat 128 (fld w 16 10)) b1)
  | _ => .error 2

/-- Words of major 0x1B (vbfi). -/
def dec1B (w : Nat) : Except Nat Instr :=
  match fld w 1 0 with
  | 0 =>
    need (BSel.ofCode (fld w 9 2)) 5 fun b1 =>
    .ok (.vbfi (Fin.ofNat 128 (fld w 23 17)) (Fin.ofNat 128 (fld w 16 10)) b1)
  | _ => .error 2

/-- Words of major 0x1C (vaddi). -/
def dec1C (w : Nat) : Except Nat Instr :=
  .ok (.vaddi (Fin.ofNat 128 (fld w 23 17)) (Fin.ofNat 128 (fld w 16 10)) (BitVec.ofNat 10 (fld w 9 0)))

/-- Words of major 0x1D (vcmp). -/
def dec1D (w : Nat) : Except Nat Instr :=
  match fld w 1 0 with
  | 0 =>
    need (ICmp.ofCode (fld w 5 2)) 2 fun p1 =>
    when (fld w 23 21 = 7) 4 <|
    need (BSel.ofCode (fld w 13 6)) 5 fun b1 =>
    .ok (.vcmp (Fin.ofNat 8 (fld w 23 21)) (Fin.ofNat 128 (fld w 20 14)) b1 p1)
  | _ => .error 2

/-- Words of major 0x1E (vsel). -/
def dec1E (w : Nat) : Except Nat Instr :=
  .ok (.vsel (Fin.ofNat 128 (fld w 23 17)) (Fin.ofNat 128 (fld w 16 10)) (Fin.ofNat 128 (fld w 9 3)) (Fin.ofNat 8 (fld w 2 0)))

/-- Words of major 0x1F (vmov, vmov_x64, vlit, vlaneid). -/
def dec1F (w : Nat) : Except Nat Instr :=
  match fld w 9 8 with
  | 0 =>
    match fld w 0 0 with
    | 0 => when (fld w 7 1 ≠ 0) 3 <|
      .ok (.vmov (Fin.ofNat 128 (fld w 23 17)) (Fin.ofNat 128 (fld w 16 10)))
    | _ => when (fld w 7 1 ≠ 0) 3 <|
      legal (.vmovX64 (Fin.ofNat 128 (fld w 23 17)) (Fin.ofNat 128 (fld w 16 10)))
  | 1 =>
    .ok (.vlit (Fin.ofNat 128 (fld w 23 17)) (BitVec.ofNat 15 (fld w 16 10 * 256 + fld w 7 0)))
  | 2 =>
    when (fld w 7 0 ≠ 0) 3 <|
    when (fld w 16 10 ≠ 0) 3 <|
    .ok (.vlaneid (Fin.ofNat 128 (fld w 23 17)))
  | _ => .error 2

/-- Words of major 0x20 (vfadd). -/
def dec20 (w : Nat) : Except Nat Instr :=
  need (RMode.ofCode (fld w 1 0)) 2 fun r1 =>
  need (BSel.ofCode (fld w 9 2)) 5 fun b1 =>
  .ok (.vfadd (Fin.ofNat 128 (fld w 23 17)) (Fin.ofNat 128 (fld w 16 10)) b1 r1)

/-- Words of major 0x21 (vfsub). -/
def dec21 (w : Nat) : Except Nat Instr :=
  need (RMode.ofCode (fld w 1 0)) 2 fun r1 =>
  need (BSel.ofCode (fld w 9 2)) 5 fun b1 =>
  .ok (.vfsub (Fin.ofNat 128 (fld w 23 17)) (Fin.ofNat 128 (fld w 16 10)) b1 r1)

/-- Words of major 0x22 (vfmul). -/
def dec22 (w : Nat) : Except Nat Instr :=
  need (RMode.ofCode (fld w 1 0)) 2 fun r1 =>
  need (BSel.ofCode (fld w 9 2)) 5 fun b1 =>
  .ok (.vfmul (Fin.ofNat 128 (fld w 23 17)) (Fin.ofNat 128 (fld w 16 10)) b1 r1)

/-- Words of major 0x23 (vfma). -/
def dec23 (w : Nat) : Except Nat Instr :=
  need (RMode.ofCode (fld w 1 0)) 2 fun r1 =>
  need (BSel.ofCode (fld w 9 2)) 5 fun b1 =>
  .ok (.vfma (Fin.ofNat 128 (fld w 23 17)) (Fin.ofNat 128 (fld w 16 10)) b1 r1)

/-- Words of major 0x24 (vfnma). -/
def dec24 (w : Nat) : Except Nat Instr :=
  need (RMode.ofCode (fld w 1 0)) 2 fun r1 =>
  need (BSel.ofCode (fld w 9 2)) 5 fun b1 =>
  .ok (.vfnma (Fin.ofNat 128 (fld w 23 17)) (Fin.ofNat 128 (fld w 16 10)) b1 r1)

/-- Words of major 0x25 (vfmin, vfmax, vfminn, vfmaxn). -/
def dec25 (w : Nat) : Except Nat Instr :=
  match fld w 1 0 with
  | 0 =>
    need (BSel.ofCode (fld w 9 2)) 5 fun b1 =>
    .ok (.vfmin (Fin.ofNat 128 (fld w 23 17)) (Fin.ofNat 128 (fld w 16 10)) b1)
  | 1 =>
    need (BSel.ofCode (fld w 9 2)) 5 fun b1 =>
    .ok (.vfmax (Fin.ofNat 128 (fld w 23 17)) (Fin.ofNat 128 (fld w 16 10)) b1)
  | 2 =>
    need (BSel.ofCode (fld w 9 2)) 5 fun b1 =>
    .ok (.vfminn (Fin.ofNat 128 (fld w 23 17)) (Fin.ofNat 128 (fld w 16 10)) b1)
  | _ =>
    need (BSel.ofCode (fld w 9 2)) 5 fun b1 =>
    .ok (.vfmaxn (Fin.ofNat 128 (fld w 23 17)) (Fin.ofNat 128 (fld w 16 10)) b1)

/-- Words of major 0x26 (vfcmp). -/
def dec26 (w : Nat) : Except Nat Instr :=
  match fld w 1 0 with
  | 0 =>
    need (FCmp.ofCode (fld w 5 2)) 2 fun p1 =>
    when (fld w 23 21 = 7) 4 <|
    need (BSel.ofCode (fld w 13 6)) 5 fun b1 =>
    .ok (.vfcmp (Fin.ofNat 8 (fld w 23 21)) (Fin.ofNat 128 (fld w 20 14)) b1 p1)
  | _ => .error 2

/-- Words of major 0x27 (vfdiv). -/
def dec27 (w : Nat) : Except Nat Instr :=
  need (RMode.ofCode (fld w 1 0)) 2 fun r1 =>
  need (BSel.ofCode (fld w 9 2)) 5 fun b1 =>
  .ok (.vfdiv (Fin.ofNat 128 (fld w 23 17)) (Fin.ofNat 128 (fld w 16 10)) b1 r1)

/-- Words of major 0x28 (vfsqrt, vfrcp, vfrsq, vfex2, vflg2). -/
def dec28 (w : Nat) : Except Nat Instr :=
  match fld w 2 0 with
  | 0 =>
    when (fld w 9 3 ≠ 0) 3 <|
    .ok (.vfsqrt (Fin.ofNat 128 (fld w 23 17)) (Fin.ofNat 128 (fld w 16 10)))
  | 1 =>
    when (fld w 9 3 ≠ 0) 3 <|
    .ok (.vfrcp (Fin.ofNat 128 (fld w 23 17)) (Fin.ofNat 128 (fld w 16 10)))
  | 2 =>
    when (fld w 9 3 ≠ 0) 3 <|
    .ok (.vfrsq (Fin.ofNat 128 (fld w 23 17)) (Fin.ofNat 128 (fld w 16 10)))
  | 3 =>
    when (fld w 9 3 ≠ 0) 3 <|
    .ok (.vfex2 (Fin.ofNat 128 (fld w 23 17)) (Fin.ofNat 128 (fld w 16 10)))
  | 4 =>
    when (fld w 9 3 ≠ 0) 3 <|
    .ok (.vflg2 (Fin.ofNat 128 (fld w 23 17)) (Fin.ofNat 128 (fld w 16 10)))
  | _ => .error 2

/-- Words of major 0x29 (vfabs, vfneg, vfcpsgn). -/
def dec29 (w : Nat) : Except Nat Instr :=
  match fld w 1 0 with
  | 0 =>
    when (fld w 9 2 ≠ 0) 3 <|
    .ok (.vfabs (Fin.ofNat 128 (fld w 23 17)) (Fin.ofNat 128 (fld w 16 10)))
  | 1 =>
    when (fld w 9 2 ≠ 0) 3 <|
    .ok (.vfneg (Fin.ofNat 128 (fld w 23 17)) (Fin.ofNat 128 (fld w 16 10)))
  | 2 =>
    need (BSel.ofCode (fld w 9 2)) 5 fun b1 =>
    .ok (.vfcpsgn (Fin.ofNat 128 (fld w 23 17)) (Fin.ofNat 128 (fld w 16 10)) b1)
  | _ => .error 2

/-- Words of major 0x2A (vdadd, vdsub, vdmul, vdfma). -/
def dec2A (w : Nat) : Except Nat Instr :=
  match fld w 1 0 with
  | 0 =>
    need (BSel.ofCode (fld w 9 2)) 5 fun b1 =>
    legal (.vdadd (Fin.ofNat 128 (fld w 23 17)) (Fin.ofNat 128 (fld w 16 10)) b1)
  | 1 =>
    need (BSel.ofCode (fld w 9 2)) 5 fun b1 =>
    legal (.vdsub (Fin.ofNat 128 (fld w 23 17)) (Fin.ofNat 128 (fld w 16 10)) b1)
  | 2 =>
    need (BSel.ofCode (fld w 9 2)) 5 fun b1 =>
    legal (.vdmul (Fin.ofNat 128 (fld w 23 17)) (Fin.ofNat 128 (fld w 16 10)) b1)
  | _ =>
    need (BSel.ofCode (fld w 9 2)) 5 fun b1 =>
    legal (.vdfma (Fin.ofNat 128 (fld w 23 17)) (Fin.ofNat 128 (fld w 16 10)) b1)

/-- Words of major 0x2B (vddiv). -/
def dec2B (w : Nat) : Except Nat Instr :=
  need (RMode.ofCode (fld w 1 0)) 2 fun r1 =>
  need (BSel.ofCode (fld w 9 2)) 5 fun b1 =>
  legal (.vddiv (Fin.ofNat 128 (fld w 23 17)) (Fin.ofNat 128 (fld w 16 10)) b1 r1)

/-- Words of major 0x2C (vdcmp). -/
def dec2C (w : Nat) : Except Nat Instr :=
  match fld w 1 0 with
  | 0 =>
    need (FCmp.ofCode (fld w 5 2)) 2 fun p1 =>
    when (fld w 23 21 = 7) 4 <|
    need (BSel.ofCode (fld w 13 6)) 5 fun b1 =>
    legal (.vdcmp (Fin.ofNat 8 (fld w 23 21)) (Fin.ofNat 128 (fld w 20 14)) b1 p1)
  | _ => .error 2

/-- Words of major 0x2D (vdsqrt). -/
def dec2D (w : Nat) : Except Nat Instr :=
  match fld w 2 0 with
  | 0 =>
    when (fld w 9 3 ≠ 0) 3 <|
    legal (.vdsqrt (Fin.ofNat 128 (fld w 23 17)) (Fin.ofNat 128 (fld w 16 10)))
  | _ => .error 2

/-- Words of major 0x2E (vhadd, vhmul). -/
def dec2E (w : Nat) : Except Nat Instr :=
  match fld w 0 0 with
  | 0 =>
    need (BSel.ofCode (fld w 9 2)) 5 fun b1 =>
    .ok (.vhadd (Fin.ofNat 128 (fld w 23 17)) (Fin.ofNat 128 (fld w 16 10)) b1 (fld w 1 1 == 1))
  | _ =>
    need (BSel.ofCode (fld w 9 2)) 5 fun b1 =>
    .ok (.vhmul (Fin.ofNat 128 (fld w 23 17)) (Fin.ofNat 128 (fld w 16 10)) b1 (fld w 1 1 == 1))

/-- Words of major 0x2F (vhfma). -/
def dec2F (w : Nat) : Except Nat Instr :=
  match fld w 0 0 with
  | 0 =>
    need (BSel.ofCode (fld w 9 2)) 5 fun b1 =>
    .ok (.vhfma (Fin.ofNat 128 (fld w 23 17)) (Fin.ofNat 128 (fld w 16 10)) b1 (fld w 1 1 == 1))
  | _ => .error 2

/-- Words of major 0x30 (vcvt). -/
def dec30 (w : Nat) : Except Nat Instr :=
  need (CvtT.ofCode (fld w 9 6)) 2 fun f1 =>
  need (CvtT.ofCode (fld w 5 2)) 2 fun t1 =>
  need (RMode.ofCode (fld w 1 0)) 2 fun r1 =>
  when (f1 = t1 ∨ (f1.isInt = true ∧ t1.isInt = true)) 2 <|
  legal (.vcvt (Fin.ofNat 128 (fld w 23 17)) (Fin.ofNat 128 (fld w 16 10)) f1 t1 r1)

/-- Words of major 0x31 (vquant_d8, vquant_d6, vquant_m4, vquant_s8). -/
def dec31 (w : Nat) : Except Nat Instr :=
  match fld w 1 0 with
  | 0 =>
    need (BSel.ofCode (fld w 9 2)) 5 fun b1 =>
    .ok (.vquantD8 (Fin.ofNat 128 (fld w 23 17)) (Fin.ofNat 128 (fld w 16 10)) b1)
  | 1 =>
    need (BSel.ofCode (fld w 9 2)) 5 fun b1 =>
    .ok (.vquantD6 (Fin.ofNat 128 (fld w 23 17)) (Fin.ofNat 128 (fld w 16 10)) b1)
  | 2 =>
    need (BSel.ofCode (fld w 9 2)) 5 fun b1 =>
    .ok (.vquantM4 (Fin.ofNat 128 (fld w 23 17)) (Fin.ofNat 128 (fld w 16 10)) b1)
  | _ =>
    need (BSel.ofCode (fld w 9 2)) 5 fun b1 =>
    .ok (.vquantS8 (Fin.ofNat 128 (fld w 23 17)) (Fin.ofNat 128 (fld w 16 10)) b1)

/-- Words of major 0x32 (vpack, vunpk_z, vunpk_s). -/
def dec32 (w : Nat) : Except Nat Instr :=
  match fld w 9 9 with
  | 0 =>
    need (PackW.ofCode (fld w 8 7)) 2 fun w1 =>
    when (fld w 6 0 ≠ 0) 3 <|
    legal (.vpack (Fin.ofNat 128 (fld w 23 17)) (Fin.ofNat 128 (fld w 16 10)) w1)
  | _ =>
    match fld w 6 6 with
    | 0 => need (PackW.ofCode (fld w 8 7)) 2 fun w1 =>
      when (fld w 5 0 ≠ 0) 3 <|
      legal (.vunpkZ (Fin.ofNat 128 (fld w 23 17)) (Fin.ofNat 128 (fld w 16 10)) w1)
    | _ => need (PackW.ofCode (fld w 8 7)) 2 fun w1 =>
      when (fld w 5 0 ≠ 0) 3 <|
      legal (.vunpkS (Fin.ofNat 128 (fld w 23 17)) (Fin.ofNat 128 (fld w 16 10)) w1)

/-- Words of major 0x34 (vballot). -/
def dec34 (w : Nat) : Except Nat Instr :=
  when (fld w 16 3 ≠ 0) 3 <|
  .ok (.vballot (Fin.ofNat 128 (fld w 23 17)) (Fin.ofNat 8 (fld w 2 0)))

/-- Words of major 0x35 (vmrank, vmrank_inc). -/
def dec35 (w : Nat) : Except Nat Instr :=
  match fld w 3 3 with
  | 0 =>
    when (fld w 16 4 ≠ 0) 3 <|
    .ok (.vmrank (Fin.ofNat 128 (fld w 23 17)) (Fin.ofNat 8 (fld w 2 0)))
  | _ =>
    when (fld w 16 4 ≠ 0) 3 <|
    .ok (.vmrankInc (Fin.ofNat 128 (fld w 23 17)) (Fin.ofNat 8 (fld w 2 0)))

/-- Words of major 0x36 (vshfl_idx, vshfl_up, vshfl_down, vshfl_xor). -/
def dec36 (w : Nat) : Except Nat Instr :=
  match fld w 1 0 with
  | 0 =>
    need (BSel.ofCode (fld w 9 2)) 5 fun b1 =>
    .ok (.vshflIdx (Fin.ofNat 128 (fld w 23 17)) (Fin.ofNat 128 (fld w 16 10)) b1)
  | 1 =>
    need (BSel.ofCode (fld w 9 2)) 5 fun b1 =>
    .ok (.vshflUp (Fin.ofNat 128 (fld w 23 17)) (Fin.ofNat 128 (fld w 16 10)) b1)
  | 2 =>
    need (BSel.ofCode (fld w 9 2)) 5 fun b1 =>
    .ok (.vshflDown (Fin.ofNat 128 (fld w 23 17)) (Fin.ofNat 128 (fld w 16 10)) b1)
  | _ =>
    need (BSel.ofCode (fld w 9 2)) 5 fun b1 =>
    .ok (.vshflXor (Fin.ofNat 128 (fld w 23 17)) (Fin.ofNat 128 (fld w 16 10)) b1)

/-- Words of major 0x37 (vfold). -/
def dec37 (w : Nat) : Except Nat Instr :=
  need (FoldOp.ofCode (fld w 3 0)) 2 fun o1 =>
  when (fld w 9 4 ≠ 0) 3 <|
  when (fld w 17 17 ≠ 0) 3 <|
  .ok (.vfold (Fin.ofNat 64 (fld w 23 18)) (Fin.ofNat 128 (fld w 16 10)) o1)

/-- Words of major 0x38 (vscan). -/
def dec38 (w : Nat) : Except Nat Instr :=
  need (ScanOp.ofCode (fld w 3 0)) 2 fun o1 =>
  when (fld w 9 5 ≠ 0) 3 <|
  .ok (.vscan (Fin.ofNat 128 (fld w 23 17)) (Fin.ofNat 128 (fld w 16 10)) (fld w 4 4 == 1) o1)

/-- Words of major 0x39 (vregrp). -/
def dec39 (w : Nat) : Except Nat Instr :=
  when (fld w 9 8 ≠ 0) 3 <|
  when (fld w 12 10 = 7) 4 <|
  legal (.vregrp (Fin.ofNat 128 (fld w 23 17)) (Fin.ofNat 16 (fld w 16 13)) (Fin.ofNat 8 (fld w 12 10)) (Fin.ofNat 256 (fld w 7 0)))

/-- Words of major 0x3A (sg_board). -/
def dec3A (w : Nat) : Except Nat Instr :=
  match fld w 11 8 with
  | 0 =>
    when (fld w 7 0 ≠ 0) 3 <|
    legal (.sgBoard (Fin.ofNat 64 (fld w 23 18)) (Fin.ofNat 64 (fld w 17 12)))
  | _ => .error 2

/-- Words of major 0x3B (sg_alight). -/
def dec3B (w : Nat) : Except Nat Instr :=
  match fld w 11 8 with
  | 0 =>
    when (fld w 7 0 ≠ 0) 3 <|
    .ok (.sgAlight (Fin.ofNat 64 (fld w 23 18)) (Fin.ofNat 64 (fld w 17 12)))
  | _ => .error 2

/-- Words of major 0x3C (sg_cap). -/
def dec3C (w : Nat) : Except Nat Instr :=
  match fld w 11 8 with
  | 0 =>
    when (fld w 2 0 ≠ 0) 3 <|
    when (fld w 7 4 ≠ 0) 3 <|
    legal (.sgCap (Fin.ofNat 64 (fld w 23 18)) (Fin.ofNat 64 (fld w 17 12)) (fld w 3 3 == 1))
  | _ => .error 2

/-- Words of major 0x3D (sg_mod). -/
def dec3D (w : Nat) : Except Nat Instr :=
  need (ModOp.ofCode (fld w 11 8)) 2 fun o1 =>
  need (Ord.ofCode (fld w 4 3)) 2 fun r1 =>
  when (fld w 2 0 ≠ 0) 3 <|
  .ok (.sgMod (Fin.ofNat 64 (fld w 23 18)) (Fin.ofNat 64 (fld w 17 12)) o1 (Fin.ofNat 8 (fld w 7 5)) r1)

/-- Words of major 0x3E (sg_arm). -/
def dec3E (w : Nat) : Except Nat Instr :=
  need (ArmCmp.ofCode (fld w 11 8)) 2 fun o1 =>
  when (fld w 4 0 ≠ 0) 3 <|
  legal (.sgArm (Fin.ofNat 64 (fld w 23 18)) (Fin.ofNat 64 (fld w 17 12)) o1 (Fin.ofNat 8 (fld w 7 5)))

/-- Words of major 0x3F (sg_rev, sg_rev_ofs). -/
def dec3F (w : Nat) : Except Nat Instr :=
  match fld w 11 8 with
  | 0 =>
    when (fld w 7 0 ≠ 0) 3 <|
    .ok (.sgRev (Fin.ofNat 64 (fld w 23 18)) (Fin.ofNat 64 (fld w 17 12)))
  | 1 =>
    when (fld w 7 0 ≠ 0) 3 <|
    when (fld w 17 12 ≠ 0) 3 <|
    .ok (.sgRevOfs (Fin.ofNat 64 (fld w 23 18)))
  | _ => .error 2

/-- Words of major 0x40 (br, br_any, br_all, br_none). -/
def dec40 (w : Nat) : Except Nat Instr :=
  match fld w 20 19 with
  | 0 =>
    when (fld w 23 21 ≠ 0) 3 <|
    .ok (.br (BitVec.ofNat 19 (fld w 18 0)))
  | 1 =>
    .ok (.brAny (Fin.ofNat 8 (fld w 23 21)) (BitVec.ofNat 19 (fld w 18 0)))
  | 2 =>
    .ok (.brAll (Fin.ofNat 8 (fld w 23 21)) (BitVec.ofNat 19 (fld w 18 0)))
  | _ =>
    .ok (.brNone (Fin.ofNat 8 (fld w 23 21)) (BitVec.ofNat 19 (fld w 18 0)))

/-- Words of major 0x41 (call). -/
def dec41 (w : Nat) : Except Nat Instr :=
  match fld w 20 19 with
  | 0 =>
    when (fld w 23 21 ≠ 0) 3 <|
    .ok (.call (BitVec.ofNat 19 (fld w 18 0)))
  | _ => .error 2

/-- Words of major 0x42 (jmp). -/
def dec42 (w : Nat) : Except Nat Instr :=
  match fld w 5 0 with
  | 0 =>
    when (fld w 11 6 ≠ 0) 3 <|
    .ok (.jmp (Fin.ofNat 64 (fld w 23 18)) (Fin.ofNat 64 (fld w 17 12)))
  | _ => .error 2

/-- Words of major 0x43 (brx). -/
def dec43 (w : Nat) : Except Nat Instr :=
  when (fld w 9 0 ≠ 0) 3 <|
  when (fld w 17 17 ≠ 0) 3 <|
  .ok (.brx (Fin.ofNat 64 (fld w 23 18)) (Fin.ofNat 128 (fld w 16 10)))

/-- Words of major 0x44 (vif). -/
def dec44 (w : Nat) : Except Nat Instr :=
  when (fld w 20 0 ≠ 0) 3 <|
  .ok (.vif (Fin.ofNat 8 (fld w 23 21)))

/-- Words of major 0x45 (velse). -/
def dec45 (w : Nat) : Except Nat Instr :=
  when (fld w 23 0 ≠ 0) 3 <|
  .ok (.velse)

/-- Words of major 0x46 (vend). -/
def dec46 (w : Nat) : Except Nat Instr :=
  when (fld w 23 0 ≠ 0) 3 <|
  .ok (.vend)

/-- Words of major 0x47 (vkill). -/
def dec47 (w : Nat) : Except Nat Instr :=
  when (fld w 20 0 ≠ 0) 3 <|
  .ok (.vkill (Fin.ofNat 8 (fld w 23 21)))

/-- Words of major 0x48 (vbrk). -/
def dec48 (w : Nat) : Except Nat Instr :=
  when (fld w 12 0 ≠ 0) 3 <|
  when (fld w 20 13 = 0 ∨ fld w 20 13 = 255) 3 <|
  .ok (.vbrk (Fin.ofNat 8 (fld w 23 21)) (Fin.ofNat 256 (fld w 20 13)))

/-- Words of major 0x49 (exit). -/
def dec49 (w : Nat) : Except Nat Instr :=
  when (fld w 23 0 ≠ 0) 3 <|
  .ok (.exit)

/-- Words of major 0x4A (trap). -/
def dec4A (w : Nat) : Except Nat Instr :=
  when (fld w 23 16 ≠ 0) 3 <|
  .ok (.trap (BitVec.ofNat 16 (fld w 15 0)))

/-- Words of major 0x4B (brk). -/
def dec4B (w : Nat) : Except Nat Instr :=
  when (fld w 23 16 ≠ 0) 3 <|
  .ok (.brk (BitVec.ofNat 16 (fld w 15 0)))

/-- Words of major 0x50 (vld_z). -/
def dec50 (w : Nat) : Except Nat Instr :=
  need (Width.ofCode (fld w 3 2)) 2 fun w1 =>
  need (Hint.ofCode (fld w 1 0)) 3 fun h1 =>
  legal (.vldZ (Fin.ofNat 128 (fld w 23 17)) (Fin.ofNat 64 (fld w 16 11)) (Fin.ofNat 128 (fld w 10 4)) w1 h1)

/-- Words of major 0x51 (vld_s). -/
def dec51 (w : Nat) : Except Nat Instr :=
  need (Width.ofCode (fld w 3 2)) 2 fun w1 =>
  need (Hint.ofCode (fld w 1 0)) 3 fun h1 =>
  legal (.vldS (Fin.ofNat 128 (fld w 23 17)) (Fin.ofNat 64 (fld w 16 11)) (Fin.ofNat 128 (fld w 10 4)) w1 h1)

/-- Words of major 0x52 (vst). -/
def dec52 (w : Nat) : Except Nat Instr :=
  need (Width.ofCode (fld w 3 2)) 2 fun w1 =>
  need (Hint.ofCode (fld w 1 0)) 3 fun h1 =>
  legal (.vst (Fin.ofNat 128 (fld w 23 17)) (Fin.ofNat 64 (fld w 16 11)) (Fin.ofNat 128 (fld w 10 4)) w1 h1)

/-- Words of major 0x53 (sld). -/
def dec53 (w : Nat) : Except Nat Instr :=
  .ok (.sld (Fin.ofNat 64 (fld w 23 18)) (Fin.ofNat 64 (fld w 17 12)) (BitVec.ofNat 12 (fld w 11 0)))

/-- Words of major 0x54 (slw). -/
def dec54 (w : Nat) : Except Nat Instr :=
  .ok (.slw (Fin.ofNat 64 (fld w 23 18)) (Fin.ofNat 64 (fld w 17 12)) (BitVec.ofNat 12 (fld w 11 0)))

/-- Words of major 0x55 (sst). -/
def dec55 (w : Nat) : Except Nat Instr :=
  .ok (.sst (Fin.ofNat 64 (fld w 23 18)) (Fin.ofNat 64 (fld w 17 12)) (BitVec.ofNat 12 (fld w 11 0)))

/-- Words of major 0x56 (ssw). -/
def dec56 (w : Nat) : Except Nat Instr :=
  .ok (.ssw (Fin.ofNat 64 (fld w 23 18)) (Fin.ofNat 64 (fld w 17 12)) (BitVec.ofNat 12 (fld w 11 0)))

/-- Words of major 0x57 (vlds). -/
def dec57 (w : Nat) : Except Nat Instr :=
  need (Width.ofCode (fld w 3 2)) 2 fun w1 =>
  when (fld w 1 0 ≠ 0) 3 <|
  legal (.vlds (Fin.ofNat 128 (fld w 23 17)) (Fin.ofNat 64 (fld w 16 11)) (Fin.ofNat 128 (fld w 10 4)) w1)

/-- Words of major 0x58 (vsts). -/
def dec58 (w : Nat) : Except Nat Instr :=
  need (Width.ofCode (fld w 3 2)) 2 fun w1 =>
  when (fld w 1 0 ≠ 0) 3 <|
  legal (.vsts (Fin.ofNat 128 (fld w 23 17)) (Fin.ofNat 64 (fld w 16 11)) (Fin.ofNat 128 (fld w 10 4)) w1)

/-- Words of major 0x59 (vlda). -/
def dec59 (w : Nat) : Except Nat Instr :=
  need (Width.ofCode (fld w 3 2)) 2 fun w1 =>
  when (fld w 1 0 ≠ 0) 3 <|
  legal (.vlda (Fin.ofNat 128 (fld w 23 17)) (Fin.ofNat 64 (fld w 16 11)) (Fin.ofNat 128 (fld w 10 4)) w1)

/-- Words of major 0x5A (vsta). -/
def dec5A (w : Nat) : Except Nat Instr :=
  need (Width.ofCode (fld w 3 2)) 2 fun w1 =>
  when (fld w 1 0 ≠ 0) 3 <|
  legal (.vsta (Fin.ofNat 128 (fld w 23 17)) (Fin.ofNat 64 (fld w 16 11)) (Fin.ofNat 128 (fld w 10 4)) w1)

/-- Words of major 0x5B (vldx). -/
def dec5B (w : Nat) : Except Nat Instr :=
  match fld w 3 3 with
  | 1 =>
    when (fld w 1 0 ≠ 0) 3 <|
    legal (.vldx (Fin.ofNat 128 (fld w 23 17)) (Fin.ofNat 64 (fld w 16 11)) (Fin.ofNat 128 (fld w 10 4)) (fld w 2 2 == 1))
  | _ => .error 2

/-- Words of major 0x60 (vatom). -/
def dec60 (w : Nat) : Except Nat Instr :=
  need (AOp.ofCode (fld w 9 6)) 2 fun p1 =>
  need (Ord.ofCode (fld w 2 1)) 2 fun r1 =>
  when (fld w 0 0 ≠ 0) 3 <|
  need (Scope.ofCode (fld w 5 3)) 6 fun s1 =>
  legal (.vatom (Fin.ofNat 128 (fld w 23 17)) (Fin.ofNat 128 (fld w 16 10)) p1 s1 r1)

/-- Words of major 0x61 (vmred). -/
def dec61 (w : Nat) : Except Nat Instr :=
  need (RedOp.ofCode (fld w 9 6)) 2 fun p1 =>
  need (Ord.ofCode (fld w 2 1)) 2 fun r1 =>
  when (fld w 0 0 ≠ 0) 3 <|
  need (Scope.ofCode (fld w 5 3)) 6 fun s1 =>
  legal (.vmred (Fin.ofNat 128 (fld w 23 17)) (Fin.ofNat 128 (fld w 16 10)) p1 s1 r1)

/-- Words of major 0x62 (satom). -/
def dec62 (w : Nat) : Except Nat Instr :=
  need (AOp.ofCode (fld w 5 2)) 2 fun p1 =>
  need (Ord.ofCode (fld w 1 0)) 2 fun r1 =>
  .ok (.satom (Fin.ofNat 64 (fld w 23 18)) (Fin.ofNat 64 (fld w 17 12)) (Fin.ofNat 64 (fld w 11 6)) p1 r1)

/-- Words of major 0x63 (vatoms). -/
def dec63 (w : Nat) : Except Nat Instr :=
  need (AOp.ofCode (fld w 9 6)) 2 fun p1 =>
  need (Ord.ofCode (fld w 2 1)) 2 fun r1 =>
  when (fld w 0 0 ≠ 0) 3 <|
  need (Scope.ofCode (fld w 5 3)) 6 fun s1 =>
  legal (.vatoms (Fin.ofNat 128 (fld w 23 17)) (Fin.ofNat 128 (fld w 16 10)) p1 s1 r1)

/-- Words of major 0x64 (fence). -/
def dec64 (w : Nat) : Except Nat Instr :=
  need (FOrd.ofCode (fld w 7 6)) 2 fun r1 =>
  when (fld w 2 0 ≠ 0) 3 <|
  when (fld w 23 9 ≠ 0) 3 <|
  need (Scope.ofCode (fld w 5 3)) 6 fun s1 =>
  .ok (.fence (fld w 8 8 == 1) r1 s1)

/-- Words of major 0x65 (bar_init, bar_expect, bar_arrive, bar_arrive_exp, bar_wait, bar_test, bar_phase). -/
def dec65 (w : Nat) : Except Nat Instr :=
  match fld w 7 4 with
  | 0 =>
    when (fld w 3 0 ≠ 0) 3 <|
    when (fld w 11 8 ≠ 0) 3 <|
    .ok (.barInit (Fin.ofNat 64 (fld w 23 18)) (Fin.ofNat 64 (fld w 17 12)))
  | 1 =>
    when (fld w 3 0 ≠ 0) 3 <|
    when (fld w 11 8 ≠ 0) 3 <|
    .ok (.barExpect (Fin.ofNat 64 (fld w 23 18)) (Fin.ofNat 64 (fld w 17 12)))
  | 2 =>
    when (fld w 3 0 ≠ 0) 3 <|
    when (fld w 17 12 ≠ 0) 3 <|
    need (Scope.ofCode (fld w 11 9)) 6 fun p1 =>
    .ok (.barArrive (Fin.ofNat 64 (fld w 23 18)) p1 (fld w 8 8 == 1))
  | 3 =>
    when (fld w 3 0 ≠ 0) 3 <|
    need (Scope.ofCode (fld w 11 9)) 6 fun p1 =>
    .ok (.barArriveExp (Fin.ofNat 64 (fld w 23 18)) (Fin.ofNat 64 (fld w 17 12)) p1 (fld w 8 8 == 1))
  | 4 =>
    when (fld w 3 0 ≠ 0) 3 <|
    need (Scope.ofCode (fld w 11 9)) 6 fun p1 =>
    .ok (.barWait (Fin.ofNat 64 (fld w 23 18)) (Fin.ofNat 64 (fld w 17 12)) p1 (fld w 8 8 == 1))
  | 5 =>
    when (fld w 3 0 ≠ 0) 3 <|
    need (Scope.ofCode (fld w 11 9)) 6 fun p1 =>
    .ok (.barTest (Fin.ofNat 64 (fld w 23 18)) (Fin.ofNat 64 (fld w 17 12)) p1 (fld w 8 8 == 1))
  | 6 =>
    when (fld w 3 0 ≠ 0) 3 <|
    when (fld w 11 8 ≠ 0) 3 <|
    .ok (.barPhase (Fin.ofNat 64 (fld w 23 18)) (Fin.ofNat 64 (fld w 17 12)))
  | _ => .error 2

/-- Words of major 0x66 (waitc). -/
def dec66 (w : Nat) : Except Nat Instr :=
  when (fld w 23 16 ≠ 0) 3 <|
  .ok (.waitc (Fin.ofNat 16 (fld w 15 12)) (Fin.ofNat 16 (fld w 11 8)) (Fin.ofNat 16 (fld w 7 4)) (Fin.ofNat 16 (fld w 3 0)))

/-- Words of major 0x67 (vbank). -/
def dec67 (w : Nat) : Except Nat Instr :=
  need (BankCode.ofCode (fld w 1 0)) 2 fun s1 =>
  when (fld w 7 2 ≠ 0) 3 <|
  .ok (.vbank (BitVec.ofNat 16 (fld w 23 8)) s1)

/-- Words of major 0x68 (pbank). -/
def dec68 (w : Nat) : Except Nat Instr :=
  need (BankCode.ofCode (fld w 1 0)) 2 fun s1 =>
  when (fld w 9 2 ≠ 0) 3 <|
  .ok (.pbank (Fin.ofNat 128 (fld w 23 17)) (Fin.ofNat 128 (fld w 16 10)) s1)

/-- Words of major 0x69 (eacq, eacq_try). -/
def dec69 (w : Nat) : Except Nat Instr :=
  match fld w 0 0 with
  | 0 =>
    when (fld w 23 1 ≠ 0) 3 <|
    .ok (.eacq)
  | _ =>
    when (fld w 20 1 ≠ 0) 3 <|
    when (fld w 23 21 = 7) 4 <|
    .ok (.eacqTry (Fin.ofNat 8 (fld w 23 21)))

/-- Words of major 0x6A (erel). -/
def dec6A (w : Nat) : Except Nat Instr :=
  when (fld w 23 0 ≠ 0) 3 <|
  .ok (.erel)

/-- Words of major 0x70 (cp_g2s, cp_s2g, cp_g2a, cp_g2w, cp_x2g, cp_g2g, cp_circ). -/
def dec70 (w : Nat) : Except Nat Instr :=
  match fld w 14 10 with
  | 0 =>
    need (queueOf (fld w 17 15)) 2 fun q1 =>
    when (fld w 9 0 ≠ 0) 3 <|
    legal (.cpG2s (Fin.ofNat 64 (fld w 23 18)) q1)
  | 1 =>
    need (queueOf (fld w 17 15)) 2 fun q1 =>
    when (fld w 9 0 ≠ 0) 3 <|
    legal (.cpS2g (Fin.ofNat 64 (fld w 23 18)) q1)
  | 2 =>
    need (queueOf (fld w 17 15)) 2 fun q1 =>
    when (fld w 9 0 ≠ 0) 3 <|
    legal (.cpG2a (Fin.ofNat 64 (fld w 23 18)) q1)
  | 3 =>
    need (queueOf (fld w 17 15)) 2 fun q1 =>
    when (fld w 9 0 ≠ 0) 3 <|
    legal (.cpG2w (Fin.ofNat 64 (fld w 23 18)) q1)
  | 4 =>
    need (queueOf (fld w 17 15)) 2 fun q1 =>
    when (fld w 9 0 ≠ 0) 3 <|
    legal (.cpX2g (Fin.ofNat 64 (fld w 23 18)) q1)
  | 5 =>
    need (queueOf (fld w 17 15)) 2 fun q1 =>
    when (fld w 9 0 ≠ 0) 3 <|
    legal (.cpG2g (Fin.ofNat 64 (fld w 23 18)) q1)
  | 6 =>
    need (queueOf (fld w 17 15)) 2 fun q1 =>
    when (fld w 9 0 ≠ 0) 3 <|
    legal (.cpCirc (Fin.ofNat 64 (fld w 23 18)) q1)
  | _ => .error 2

/-- Words of major 0x71 (gth). -/
def dec71 (w : Nat) : Except Nat Instr :=
  match fld w 14 10 with
  | 0 =>
    need (queueOf (fld w 17 15)) 2 fun q1 =>
    when (fld w 9 0 ≠ 0) 3 <|
    legal (.gth (Fin.ofNat 64 (fld w 23 18)) q1)
  | _ => .error 2

/-- Words of major 0x72 (qfence). -/
def dec72 (w : Nat) : Except Nat Instr :=
  when (fld w 23 8 ≠ 0) 3 <|
  when (fld w 7 0 = 0) 3 <|
  .ok (.qfence (BitVec.ofNat 8 (fld w 7 0)))

/-- Words of major 0x73 (cb_wait, cb_free). -/
def dec73 (w : Nat) : Except Nat Instr :=
  match fld w 5 0 with
  | 0 =>
    when (fld w 11 6 ≠ 0) 3 <|
    .ok (.cbWait (Fin.ofNat 64 (fld w 23 18)) (Fin.ofNat 64 (fld w 17 12)))
  | 1 =>
    when (fld w 11 6 ≠ 0) 3 <|
    when (fld w 23 18 ≠ 0) 3 <|
    .ok (.cbFree (Fin.ofNat 64 (fld w 17 12)))
  | _ => .error 2

/-- Words of major 0x74 (launch, launch_try). -/
def dec74 (w : Nat) : Except Nat Instr :=
  match fld w 14 14 with
  | 0 =>
    when (fld w 13 0 ≠ 0) 3 <|
    when (fld w 17 15 ≠ 0) 3 <|
    legal (.launch (Fin.ofNat 64 (fld w 23 18)))
  | _ =>
    when (fld w 9 0 ≠ 0) 3 <|
    when (fld w 13 13 ≠ 0) 3 <|
    when (fld w 17 15 ≠ 0) 3 <|
    when (fld w 12 10 = 7) 4 <|
    legal (.launchTry (Fin.ofNat 64 (fld w 23 18)) (Fin.ofNat 8 (fld w 12 10)))

/-- Words of major 0x75 (join, join_all, join_door). -/
def dec75 (w : Nat) : Except Nat Instr :=
  match fld w 5 0 with
  | 0 =>
    when (fld w 11 6 ≠ 0) 3 <|
    when (fld w 23 18 ≠ 0) 3 <|
    .ok (.join (Fin.ofNat 64 (fld w 17 12)))
  | 1 =>
    when (fld w 23 6 ≠ 0) 3 <|
    .ok (.joinAll)
  | 2 =>
    when (fld w 11 6 ≠ 0) 3 <|
    when (fld w 23 18 ≠ 0) 3 <|
    .ok (.joinDoor (Fin.ofNat 64 (fld w 17 12)))
  | _ => .error 2

/-- Words of major 0x76 (amsg). -/
def dec76 (w : Nat) : Except Nat Instr :=
  when (fld w 17 0 ≠ 0) 3 <|
  legal (.amsg (Fin.ofNat 64 (fld w 23 18)))

/-- Words of major 0x78 (xcfg). -/
def dec78 (w : Nat) : Except Nat Instr :=
  match fld w 14 12 with
  | 0 =>
    need (TKind.ofCode (fld w 11 10)) 2 fun n1 =>
    when (fld w 9 1 ≠ 0) 3 <|
    when (fld w 16 15 ≠ 0) 3 <|
    .ok (.xcfg (Fin.ofNat 128 (fld w 23 17)) n1 (fld w 0 0 == 1))
  | _ => .error 2

/-- Words of major 0x79 (xlds). -/
def dec79 (w : Nat) : Except Nat Instr :=
  match fld w 14 14 with
  | 0 =>
    need (Fmt.ofCode (fld w 13 10)) 2 fun f1 =>
    when (fld w 9 0 ≠ 0) 3 <|
    .ok (.xlds (Fin.ofNat 128 (fld w 23 17)) (Fin.ofNat 4 (fld w 16 15)) f1)
  | _ => .error 2

/-- Words of major 0x7A (xswp). -/
def dec7A (w : Nat) : Except Nat Instr :=
  match fld w 14 10 with
  | 0 =>
    when (fld w 9 0 ≠ 0) 3 <|
    when (fld w 23 17 ≠ 0) 3 <|
    .ok (.xswp (Fin.ofNat 4 (fld w 16 15)))
  | _ => .error 2

/-- Words of major 0x7B (xmm). -/
def dec7B (w : Nat) : Except Nat Instr :=
  match fld w 14 14 with
  | 0 =>
    need (Fmt.ofCode (fld w 13 10)) 2 fun f1 =>
    when (fld w 7 0 ≠ 0) 3 <|
    .ok (.xmm (Fin.ofNat 128 (fld w 23 17)) (Fin.ofNat 4 (fld w 16 15)) f1 (fld w 9 9 == 1) (fld w 8 8 == 1))
  | _ => .error 2

/-- Words of major 0x7C (xbmm). -/
def dec7C (w : Nat) : Except Nat Instr :=
  match fld w 14 14 with
  | 0 =>
    need (Fmt.ofCode (fld w 13 10)) 2 fun f1 =>
    when (fld w 7 0 ≠ 0) 3 <|
    when (fld w 9 9 ≠ 0) 3 <|
    .ok (.xbmm (Fin.ofNat 128 (fld w 23 17)) (Fin.ofNat 4 (fld w 16 15)) f1 (fld w 8 8 == 1))
  | _ => .error 2

/-- Words of major 0x7D (xscac). -/
def dec7D (w : Nat) : Except Nat Instr :=
  match fld w 14 10 with
  | 0 =>
    when (fld w 8 0 ≠ 0) 3 <|
    when (fld w 16 15 ≠ 0) 3 <|
    .ok (.xscac (Fin.ofNat 128 (fld w 23 17)) (fld w 9 9 == 1))
  | _ => .error 2

/-- Words of major 0x7E (xdrn, xrel). -/
def dec7E (w : Nat) : Except Nat Instr :=
  match fld w 14 10 with
  | 0 =>
    when (fld w 9 0 ≠ 0) 3 <|
    when (fld w 16 15 ≠ 0) 3 <|
    .ok (.xdrn (Fin.ofNat 128 (fld w 23 17)))
  | 1 =>
    when (fld w 9 1 ≠ 0) 3 <|
    when (fld w 16 15 ≠ 0) 3 <|
    .ok (.xrel (Fin.ofNat 128 (fld w 23 17)) (fld w 0 0 == 1))
  | _ => .error 2

/-- Words of major 0x7F (eret, mfsys, mtsys, tlbinv_va, tlbinv_asid, tlbinv_all, seatctl_evack, seatctl_kill, seatctl_yield, halt). -/
def dec7F (w : Nat) : Except Nat Instr :=
  match fld w 5 0 with
  | 0 =>
    when (fld w 23 6 ≠ 0) 3 <|
    .ok (.eret)
  | 1 =>
    .ok (.mfsys (Fin.ofNat 64 (fld w 23 18)) (Fin.ofNat 4096 (fld w 17 6)))
  | 2 =>
    .ok (.mtsys (Fin.ofNat 64 (fld w 23 18)) (Fin.ofNat 4096 (fld w 17 6)))
  | 3 =>
    when (fld w 17 6 ≠ 0) 3 <|
    .ok (.tlbinvVa (Fin.ofNat 64 (fld w 23 18)))
  | 4 =>
    when (fld w 17 6 ≠ 0) 3 <|
    .ok (.tlbinvAsid (Fin.ofNat 64 (fld w 23 18)))
  | 5 =>
    when (fld w 23 6 ≠ 0) 3 <|
    .ok (.tlbinvAll)
  | 6 =>
    match fld w 17 6 with
    | 0 => .ok (.seatctlEvack (Fin.ofNat 64 (fld w 23 18)))
    | 1 => .ok (.seatctlKill (Fin.ofNat 64 (fld w 23 18)))
    | 2 => .ok (.seatctlYield (Fin.ofNat 64 (fld w 23 18)))
    | _ => .error 3
  | 7 =>
    when (fld w 17 6 ≠ 0) 3 <|
    .ok (.halt (Fin.ofNat 64 (fld w 23 18)))
  | _ => .error 2

/-- The instruction of a word, whatever its chain bit; an illegal word gives the lowest cause of R186 it breaks. -/
def decodeBody (w : Nat) : Except Nat Instr :=
  match fld w 30 24 with
  | 0x00 => dec00 w
  | 0x01 => dec01 w
  | 0x02 => dec02 w
  | 0x03 => dec03 w
  | 0x04 => dec04 w
  | 0x05 => dec05 w
  | 0x06 => dec06 w
  | 0x07 => dec07 w
  | 0x08 => dec08 w
  | 0x09 => dec09 w
  | 0x0A => dec0A w
  | 0x0B => dec0B w
  | 0x0C => dec0C w
  | 0x0D => dec0D w
  | 0x10 => dec10 w
  | 0x11 => dec11 w
  | 0x12 => dec12 w
  | 0x13 => dec13 w
  | 0x14 => dec14 w
  | 0x15 => dec15 w
  | 0x16 => dec16 w
  | 0x17 => dec17 w
  | 0x18 => dec18 w
  | 0x19 => dec19 w
  | 0x1A => dec1A w
  | 0x1B => dec1B w
  | 0x1C => dec1C w
  | 0x1D => dec1D w
  | 0x1E => dec1E w
  | 0x1F => dec1F w
  | 0x20 => dec20 w
  | 0x21 => dec21 w
  | 0x22 => dec22 w
  | 0x23 => dec23 w
  | 0x24 => dec24 w
  | 0x25 => dec25 w
  | 0x26 => dec26 w
  | 0x27 => dec27 w
  | 0x28 => dec28 w
  | 0x29 => dec29 w
  | 0x2A => dec2A w
  | 0x2B => dec2B w
  | 0x2C => dec2C w
  | 0x2D => dec2D w
  | 0x2E => dec2E w
  | 0x2F => dec2F w
  | 0x30 => dec30 w
  | 0x31 => dec31 w
  | 0x32 => dec32 w
  | 0x34 => dec34 w
  | 0x35 => dec35 w
  | 0x36 => dec36 w
  | 0x37 => dec37 w
  | 0x38 => dec38 w
  | 0x39 => dec39 w
  | 0x3A => dec3A w
  | 0x3B => dec3B w
  | 0x3C => dec3C w
  | 0x3D => dec3D w
  | 0x3E => dec3E w
  | 0x3F => dec3F w
  | 0x40 => dec40 w
  | 0x41 => dec41 w
  | 0x42 => dec42 w
  | 0x43 => dec43 w
  | 0x44 => dec44 w
  | 0x45 => dec45 w
  | 0x46 => dec46 w
  | 0x47 => dec47 w
  | 0x48 => dec48 w
  | 0x49 => dec49 w
  | 0x4A => dec4A w
  | 0x4B => dec4B w
  | 0x50 => dec50 w
  | 0x51 => dec51 w
  | 0x52 => dec52 w
  | 0x53 => dec53 w
  | 0x54 => dec54 w
  | 0x55 => dec55 w
  | 0x56 => dec56 w
  | 0x57 => dec57 w
  | 0x58 => dec58 w
  | 0x59 => dec59 w
  | 0x5A => dec5A w
  | 0x5B => dec5B w
  | 0x60 => dec60 w
  | 0x61 => dec61 w
  | 0x62 => dec62 w
  | 0x63 => dec63 w
  | 0x64 => dec64 w
  | 0x65 => dec65 w
  | 0x66 => dec66 w
  | 0x67 => dec67 w
  | 0x68 => dec68 w
  | 0x69 => dec69 w
  | 0x6A => dec6A w
  | 0x70 => dec70 w
  | 0x71 => dec71 w
  | 0x72 => dec72 w
  | 0x73 => dec73 w
  | 0x74 => dec74 w
  | 0x75 => dec75 w
  | 0x76 => dec76 w
  | 0x78 => dec78 w
  | 0x79 => dec79 w
  | 0x7A => dec7A w
  | 0x7B => dec7B w
  | 0x7C => dec7C w
  | 0x7D => dec7D w
  | 0x7E => dec7E w
  | 0x7F => dec7F w
  | _ => .error 1

/-- The word's chain bit and instruction (R179). -/
def decodeWord (w : Nat) : Except Nat Word1 :=
  match decodeBody w with
  | .error c => .error c
  | .ok i => .ok ⟨fld w 31 31 == 1, i⟩

/-- Four bytes, lowest address first, as a number (R2). -/
def wordOfBytes : List Byte → Nat
  | [] => 0
  | b :: bs => b.toNat + 256 * wordOfBytes bs

/-- The instruction read from four bytes in memory order; none where the word is illegal. -/
def decodeBytes (bs : List Byte) : Option Instr :=
  match decodeWord (wordOfBytes (bs.take 4)) with
  | .error _ => none
  | .ok x => some x.instr

/-- The bytes of a number, lowest first (R2). -/
def bytesOf : Nat → Nat → List Byte
  | 0, _ => []
  | n + 1, w => BitVec.ofNat 8 w :: bytesOf n (w / 256)

/-- What the decoder reads from an instruction whose bits are `w`, bit 0 the least significant bit of its first word. A
row is one word of 32 bits; it is laid out as the four bytes the packet holds and given to the decoder. -/
def decodeTableWord (_nbits w : Nat) : Option Instr := decodeBytes (bytesOf 4 w)

/-- A Boolean as a bit. -/
def bit (b : Bool) : Nat := if b then 1 else 0

/-- The body and major of an instruction word; events have no encoding. -/
def encodeBody : Instr → Option Nat
  | .nop => some (0x00000000)
  | .sadd d a b => some (0x01000000 + d.val * 262144 + a.val * 4096 + b.val * 64)
  | .ssub d a b => some (0x01000001 + d.val * 262144 + a.val * 4096 + b.val * 64)
  | .smul d a b => some (0x01000002 + d.val * 262144 + a.val * 4096 + b.val * 64)
  | .smulhS d a b => some (0x01000003 + d.val * 262144 + a.val * 4096 + b.val * 64)
  | .smulhZ d a b => some (0x01000004 + d.val * 262144 + a.val * 4096 + b.val * 64)
  | .sand d a b => some (0x01000005 + d.val * 262144 + a.val * 4096 + b.val * 64)
  | .sor d a b => some (0x01000006 + d.val * 262144 + a.val * 4096 + b.val * 64)
  | .sxor d a b => some (0x01000007 + d.val * 262144 + a.val * 4096 + b.val * 64)
  | .sshl d a b => some (0x01000008 + d.val * 262144 + a.val * 4096 + b.val * 64)
  | .sshrZ d a b => some (0x01000009 + d.val * 262144 + a.val * 4096 + b.val * 64)
  | .sshrS d a b => some (0x0100000A + d.val * 262144 + a.val * 4096 + b.val * 64)
  | .sminS d a b => some (0x0100000B + d.val * 262144 + a.val * 4096 + b.val * 64)
  | .smaxS d a b => some (0x0100000C + d.val * 262144 + a.val * 4096 + b.val * 64)
  | .sminZ d a b => some (0x0100000D + d.val * 262144 + a.val * 4096 + b.val * 64)
  | .smaxZ d a b => some (0x0100000E + d.val * 262144 + a.val * 4096 + b.val * 64)
  | .ssltS d a b => some (0x0100000F + d.val * 262144 + a.val * 4096 + b.val * 64)
  | .ssltZ d a b => some (0x01000010 + d.val * 262144 + a.val * 4096 + b.val * 64)
  | .sseq d a b => some (0x01000011 + d.val * 262144 + a.val * 4096 + b.val * 64)
  | .saddi d a i => some (0x02000000 + d.val * 262144 + a.val * 4096 + i.toNat)
  | .sandi d a i => some (0x03000000 + d.val * 262144 + a.val * 4096 + i.toNat)
  | .sori d a i => some (0x04000000 + d.val * 262144 + a.val * 4096 + i.toNat)
  | .sxori d a i => some (0x05000000 + d.val * 262144 + a.val * 4096 + i.toNat)
  | .sshli d a n => some (0x06000000 + d.val * 262144 + a.val * 4096 + n.val)
  | .sshriZ d a n => some (0x06000040 + d.val * 262144 + a.val * 4096 + n.val)
  | .sshriS d a n => some (0x06000080 + d.val * 262144 + a.val * 4096 + n.val)
  | .slit d i => some (0x07000000 + d.val * 262144 + i.toNat)
  | .slitwZ d => some (0x08000000 + d.val * 262144)
  | .slitwS d => some (0x08000001 + d.val * 262144)
  | .slitwLo d => some (0x08000002 + d.val * 262144)
  | .slitwHi d => some (0x08000003 + d.val * 262144)
  | .sgetsr d n => some (0x09000000 + d.val * 262144 + n.val * 64)
  | .ssetsr a n => some (0x0A000000 + a.val * 262144 + n.val * 64)
  | .ssetsrSet a n => some (0x0A000001 + a.val * 262144 + n.val * 64)
  | .ssetsrClr a n => some (0x0A000002 + a.val * 262144 + n.val * 64)
  | .scmpEq d a b => some (0x0B000000 + d.val * 262144 + a.val * 4096 + b.val * 64)
  | .scmpNe d a b => some (0x0B000001 + d.val * 262144 + a.val * 4096 + b.val * 64)
  | .scmpLtS d a b => some (0x0B000002 + d.val * 262144 + a.val * 4096 + b.val * 64)
  | .scmpLeS d a b => some (0x0B000003 + d.val * 262144 + a.val * 4096 + b.val * 64)
  | .scmpLtZ d a b => some (0x0B000004 + d.val * 262144 + a.val * 4096 + b.val * 64)
  | .scmpLeZ d a b => some (0x0B000005 + d.val * 262144 + a.val * 4096 + b.val * 64)
  | .sext d a w l => some (0x0C000000 + d.val * 262144 + a.val * 1024 + w.code * 64 + l.val)
  | .sextFirst d a w => some (0x0C000100 + d.val * 262144 + a.val * 1024 + w.code * 64)
  | .sextLast d a w => some (0x0C000200 + d.val * 262144 + a.val * 1024 + w.code * 64)
  | .vins d a w l => some (0x0D000000 + d.val * 131072 + a.val * 2048 + w.code * 64 + l.val)
  | .vinsAll d a w => some (0x0D000100 + d.val * 131072 + a.val * 2048 + w.code * 64)
  | .vadd d a b => some (0x10000000 + d.val * 131072 + a.val * 1024 + b.code * 4)
  | .vaddSatS d a b => some (0x10000001 + d.val * 131072 + a.val * 1024 + b.code * 4)
  | .vaddSatZ d a b => some (0x10000002 + d.val * 131072 + a.val * 1024 + b.code * 4)
  | .vsub d a b => some (0x11000000 + d.val * 131072 + a.val * 1024 + b.code * 4)
  | .vsubSatS d a b => some (0x11000001 + d.val * 131072 + a.val * 1024 + b.code * 4)
  | .vsubSatZ d a b => some (0x11000002 + d.val * 131072 + a.val * 1024 + b.code * 4)
  | .vmul d a b => some (0x12000000 + d.val * 131072 + a.val * 1024 + b.code * 4)
  | .vmulhS d a b => some (0x12000001 + d.val * 131072 + a.val * 1024 + b.code * 4)
  | .vmulhZ d a b => some (0x12000002 + d.val * 131072 + a.val * 1024 + b.code * 4)
  | .vminS d a b => some (0x13000000 + d.val * 131072 + a.val * 1024 + b.code * 4)
  | .vminZ d a b => some (0x13000001 + d.val * 131072 + a.val * 1024 + b.code * 4)
  | .vmaxS d a b => some (0x14000000 + d.val * 131072 + a.val * 1024 + b.code * 4)
  | .vmaxZ d a b => some (0x14000001 + d.val * 131072 + a.val * 1024 + b.code * 4)
  | .vand d a b => some (0x15000000 + d.val * 131072 + a.val * 1024 + b.code * 4)
  | .vor d a b => some (0x15000001 + d.val * 131072 + a.val * 1024 + b.code * 4)
  | .vxor d a b => some (0x15000002 + d.val * 131072 + a.val * 1024 + b.code * 4)
  | .vandn d a b => some (0x15000003 + d.val * 131072 + a.val * 1024 + b.code * 4)
  | .vshl d a b => some (0x16000000 + d.val * 131072 + a.val * 1024 + b.code * 4)
  | .vshrZ d a b => some (0x16000001 + d.val * 131072 + a.val * 1024 + b.code * 4)
  | .vshrS d a b => some (0x16000002 + d.val * 131072 + a.val * 1024 + b.code * 4)
  | .vrot d a b => some (0x16000003 + d.val * 131072 + a.val * 1024 + b.code * 4)
  | .vlut3 d a b => some (0x17000000 + d.val * 131072 + a.val * 1024 + b.code * 4)
  | .vpopc d a => some (0x18000000 + d.val * 131072 + a.val * 1024)
  | .vclz d a => some (0x18000001 + d.val * 131072 + a.val * 1024)
  | .vctz d a => some (0x18000002 + d.val * 131072 + a.val * 1024)
  | .vbrev d a => some (0x18000003 + d.val * 131072 + a.val * 1024)
  | .vbfxZ d a b => some (0x19000000 + d.val * 131072 + a.val * 1024 + b.code * 4)
  | .vbfxS d a b => some (0x1A000000 + d.val * 131072 + a.val * 1024 + b.code * 4)
  | .vbfi d a b => some (0x1B000000 + d.val * 131072 + a.val * 1024 + b.code * 4)
  | .vaddi d a i => some (0x1C000000 + d.val * 131072 + a.val * 1024 + i.toNat)
  | .vcmp c a b p => some (0x1D000000 + c.val * 2097152 + a.val * 16384 + b.code * 64 + p.code * 4)
  | .vsel d a b c => some (0x1E000000 + d.val * 131072 + a.val * 1024 + b.val * 8 + c.val)
  | .vmov d a => some (0x1F000000 + d.val * 131072 + a.val * 1024)
  | .vmovX64 d a => some (0x1F000001 + d.val * 131072 + a.val * 1024)
  | .vlit d i => some (0x1F000100 + d.val * 131072 + i.toNat / 256 * 1024 + i.toNat % 256)
  | .vlaneid d => some (0x1F000200 + d.val * 131072)
  | .vballot d c => some (0x34000000 + d.val * 131072 + c.val)
  | .vmrank d c => some (0x35000000 + d.val * 131072 + c.val)
  | .vmrankInc d c => some (0x35000008 + d.val * 131072 + c.val)
  | .vshflIdx d a b => some (0x36000000 + d.val * 131072 + a.val * 1024 + b.code * 4)
  | .vshflUp d a b => some (0x36000001 + d.val * 131072 + a.val * 1024 + b.code * 4)
  | .vshflDown d a b => some (0x36000002 + d.val * 131072 + a.val * 1024 + b.code * 4)
  | .vshflXor d a b => some (0x36000003 + d.val * 131072 + a.val * 1024 + b.code * 4)
  | .vfold d a o => some (0x37000000 + d.val * 262144 + a.val * 1024 + o.code)
  | .vscan d a x o => some (0x38000000 + d.val * 131072 + a.val * 1024 + bit x * 16 + o.code)
  | .vregrp f n c p => some (0x39000000 + f.val * 131072 + n.val * 8192 + c.val * 1024 + p.val)
  | .vfadd d a b r => some (0x20000000 + d.val * 131072 + a.val * 1024 + b.code * 4 + r.code)
  | .vfsub d a b r => some (0x21000000 + d.val * 131072 + a.val * 1024 + b.code * 4 + r.code)
  | .vfmul d a b r => some (0x22000000 + d.val * 131072 + a.val * 1024 + b.code * 4 + r.code)
  | .vfma d a b r => some (0x23000000 + d.val * 131072 + a.val * 1024 + b.code * 4 + r.code)
  | .vfnma d a b r => some (0x24000000 + d.val * 131072 + a.val * 1024 + b.code * 4 + r.code)
  | .vfdiv d a b r => some (0x27000000 + d.val * 131072 + a.val * 1024 + b.code * 4 + r.code)
  | .vfmin d a b => some (0x25000000 + d.val * 131072 + a.val * 1024 + b.code * 4)
  | .vfmax d a b => some (0x25000001 + d.val * 131072 + a.val * 1024 + b.code * 4)
  | .vfminn d a b => some (0x25000002 + d.val * 131072 + a.val * 1024 + b.code * 4)
  | .vfmaxn d a b => some (0x25000003 + d.val * 131072 + a.val * 1024 + b.code * 4)
  | .vfcmp c a b p => some (0x26000000 + c.val * 2097152 + a.val * 16384 + b.code * 64 + p.code * 4)
  | .vfsqrt d a => some (0x28000000 + d.val * 131072 + a.val * 1024)
  | .vfrcp d a => some (0x28000001 + d.val * 131072 + a.val * 1024)
  | .vfrsq d a => some (0x28000002 + d.val * 131072 + a.val * 1024)
  | .vfex2 d a => some (0x28000003 + d.val * 131072 + a.val * 1024)
  | .vflg2 d a => some (0x28000004 + d.val * 131072 + a.val * 1024)
  | .vfabs d a => some (0x29000000 + d.val * 131072 + a.val * 1024)
  | .vfneg d a => some (0x29000001 + d.val * 131072 + a.val * 1024)
  | .vfcpsgn d a b => some (0x29000002 + d.val * 131072 + a.val * 1024 + b.code * 4)
  | .vdadd d a b => some (0x2A000000 + d.val * 131072 + a.val * 1024 + b.code * 4)
  | .vdsub d a b => some (0x2A000001 + d.val * 131072 + a.val * 1024 + b.code * 4)
  | .vdmul d a b => some (0x2A000002 + d.val * 131072 + a.val * 1024 + b.code * 4)
  | .vdfma d a b => some (0x2A000003 + d.val * 131072 + a.val * 1024 + b.code * 4)
  | .vddiv d a b r => some (0x2B000000 + d.val * 131072 + a.val * 1024 + b.code * 4 + r.code)
  | .vdcmp c a b p => some (0x2C000000 + c.val * 2097152 + a.val * 16384 + b.code * 64 + p.code * 4)
  | .vdsqrt d a => some (0x2D000000 + d.val * 131072 + a.val * 1024)
  | .vhadd d a b f => some (0x2E000000 + d.val * 131072 + a.val * 1024 + b.code * 4 + bit f * 2)
  | .vhmul d a b f => some (0x2E000001 + d.val * 131072 + a.val * 1024 + b.code * 4 + bit f * 2)
  | .vhfma d a b f => some (0x2F000000 + d.val * 131072 + a.val * 1024 + b.code * 4 + bit f * 2)
  | .vcvt d a f t r => some (0x30000000 + d.val * 131072 + a.val * 1024 + f.code * 64 + t.code * 4 + r.code)
  | .vquantD8 d a b => some (0x31000000 + d.val * 131072 + a.val * 1024 + b.code * 4)
  | .vquantD6 d a b => some (0x31000001 + d.val * 131072 + a.val * 1024 + b.code * 4)
  | .vquantM4 d a b => some (0x31000002 + d.val * 131072 + a.val * 1024 + b.code * 4)
  | .vquantS8 d a b => some (0x31000003 + d.val * 131072 + a.val * 1024 + b.code * 4)
  | .vpack d a w => some (0x32000000 + d.val * 131072 + a.val * 1024 + w.code * 128)
  | .vunpkZ d a w => some (0x32000200 + d.val * 131072 + a.val * 1024 + w.code * 128)
  | .vunpkS d a w => some (0x32000240 + d.val * 131072 + a.val * 1024 + w.code * 128)
  | .sgBoard d a => some (0x3A000000 + d.val * 262144 + a.val * 4096)
  | .sgAlight d a => some (0x3B000000 + d.val * 262144 + a.val * 4096)
  | .sgCap d a r => some (0x3C000000 + d.val * 262144 + a.val * 4096 + bit r * 8)
  | .sgMod d a o w r => some (0x3D000000 + d.val * 262144 + a.val * 4096 + o.code * 256 + w.val * 32 + r.code * 8)
  | .sgArm d a o w => some (0x3E000000 + d.val * 262144 + a.val * 4096 + o.code * 256 + w.val * 32)
  | .sgRev d a => some (0x3F000000 + d.val * 262144 + a.val * 4096)
  | .sgRevOfs d => some (0x3F000100 + d.val * 262144)
  | .br o => some (0x40000000 + o.toNat)
  | .brAny c o => some (0x40080000 + c.val * 2097152 + o.toNat)
  | .brAll c o => some (0x40100000 + c.val * 2097152 + o.toNat)
  | .brNone c o => some (0x40180000 + c.val * 2097152 + o.toNat)
  | .call o => some (0x41000000 + o.toNat)
  | .jmp d a => some (0x42000000 + d.val * 262144 + a.val * 4096)
  | .brx b a => some (0x43000000 + b.val * 262144 + a.val * 1024)
  | .vif c => some (0x44000000 + c.val * 2097152)
  | .velse => some (0x45000000)
  | .vend => some (0x46000000)
  | .vkill c => some (0x47000000 + c.val * 2097152)
  | .vbrk c m => some (0x48000000 + c.val * 2097152 + m.val * 8192)
  | .exit => some (0x49000000)
  | .trap x => some (0x4A000000 + x.toNat)
  | .brk x => some (0x4B000000 + x.toNat)
  | .vldZ d b o w h => some (0x50000000 + d.val * 131072 + b.val * 2048 + o.val * 16 + w.code * 4 + h.code)
  | .vldS d b o w h => some (0x51000000 + d.val * 131072 + b.val * 2048 + o.val * 16 + w.code * 4 + h.code)
  | .vst d b o w h => some (0x52000000 + d.val * 131072 + b.val * 2048 + o.val * 16 + w.code * 4 + h.code)
  | .sld d b o => some (0x53000000 + d.val * 262144 + b.val * 4096 + o.toNat)
  | .slw d b o => some (0x54000000 + d.val * 262144 + b.val * 4096 + o.toNat)
  | .sst d b o => some (0x55000000 + d.val * 262144 + b.val * 4096 + o.toNat)
  | .ssw d b o => some (0x56000000 + d.val * 262144 + b.val * 4096 + o.toNat)
  | .vlds d b o w => some (0x57000000 + d.val * 131072 + b.val * 2048 + o.val * 16 + w.code * 4)
  | .vsts d b o w => some (0x58000000 + d.val * 131072 + b.val * 2048 + o.val * 16 + w.code * 4)
  | .vlda d b o w => some (0x59000000 + d.val * 131072 + b.val * 2048 + o.val * 16 + w.code * 4)
  | .vsta d b o w => some (0x5A000000 + d.val * 131072 + b.val * 2048 + o.val * 16 + w.code * 4)
  | .vldx d b o w => some (0x5B000008 + d.val * 131072 + b.val * 2048 + o.val * 16 + bit w * 4)
  | .vatom d a p s r => some (0x60000000 + d.val * 131072 + a.val * 1024 + p.code * 64 + s.code * 8 + r.code * 2)
  | .vmred d a p s r => some (0x61000000 + d.val * 131072 + a.val * 1024 + p.code * 64 + s.code * 8 + r.code * 2)
  | .satom d a b p r => some (0x62000000 + d.val * 262144 + a.val * 4096 + b.val * 64 + p.code * 4 + r.code)
  | .vatoms d a p s r => some (0x63000000 + d.val * 131072 + a.val * 1024 + p.code * 64 + s.code * 8 + r.code * 2)
  | .fence u r s => some (0x64000000 + bit u * 256 + r.code * 64 + s.code * 8)
  | .barInit b e => some (0x65000000 + b.val * 262144 + e.val * 4096)
  | .barExpect b e => some (0x65000010 + b.val * 262144 + e.val * 4096)
  | .barArrive b p o => some (0x65000020 + b.val * 262144 + p.code * 512 + bit o * 256)
  | .barArriveExp b e p o => some (0x65000030 + b.val * 262144 + e.val * 4096 + p.code * 512 + bit o * 256)
  | .barWait b e p o => some (0x65000040 + b.val * 262144 + e.val * 4096 + p.code * 512 + bit o * 256)
  | .barTest b e p o => some (0x65000050 + b.val * 262144 + e.val * 4096 + p.code * 512 + bit o * 256)
  | .barPhase b e => some (0x65000060 + b.val * 262144 + e.val * 4096)
  | .waitc l s y t => some (0x66000000 + l.val * 4096 + s.val * 256 + y.val * 16 + t.val)
  | .vbank m s => some (0x67000000 + m.toNat * 256 + s.code)
  | .pbank f n s => some (0x68000000 + f.val * 131072 + n.val * 1024 + s.code)
  | .eacq => some (0x69000000)
  | .eacqTry c => some (0x69000001 + c.val * 2097152)
  | .erel => some (0x6A000000)
  | .cpG2s d q => some (0x70000000 + d.val * 262144 + q.val * 32768)
  | .cpS2g d q => some (0x70000400 + d.val * 262144 + q.val * 32768)
  | .cpG2a d q => some (0x70000800 + d.val * 262144 + q.val * 32768)
  | .cpG2w d q => some (0x70000C00 + d.val * 262144 + q.val * 32768)
  | .cpX2g d q => some (0x70001000 + d.val * 262144 + q.val * 32768)
  | .cpG2g d q => some (0x70001400 + d.val * 262144 + q.val * 32768)
  | .cpCirc d q => some (0x70001800 + d.val * 262144 + q.val * 32768)
  | .gth d q => some (0x71000000 + d.val * 262144 + q.val * 32768)
  | .qfence m => some (0x72000000 + m.toNat)
  | .cbWait d a => some (0x73000000 + d.val * 262144 + a.val * 4096)
  | .cbFree a => some (0x73000001 + a.val * 4096)
  | .launch d => some (0x74000000 + d.val * 262144)
  | .launchTry d c => some (0x74004000 + d.val * 262144 + c.val * 1024)
  | .join a => some (0x75000000 + a.val * 4096)
  | .joinAll => some (0x75000001)
  | .joinDoor a => some (0x75000002 + a.val * 4096)
  | .amsg d => some (0x76000000 + d.val * 262144)
  | .xcfg p n x => some (0x78000000 + p.val * 131072 + n.code * 1024 + bit x)
  | .xlds p r f => some (0x79000000 + p.val * 131072 + r.val * 32768 + f.code * 1024)
  | .xswp r => some (0x7A000000 + r.val * 32768)
  | .xmm p r f a i => some (0x7B000000 + p.val * 131072 + r.val * 32768 + f.code * 1024 + bit a * 512 + bit i * 256)
  | .xbmm p r f i => some (0x7C000000 + p.val * 131072 + r.val * 32768 + f.code * 1024 + bit i * 256)
  | .xscac p a => some (0x7D000000 + p.val * 131072 + bit a * 512)
  | .xdrn p => some (0x7E000000 + p.val * 131072)
  | .xrel p x => some (0x7E000400 + p.val * 131072 + bit x)
  | .eret => some (0x7F000000)
  | .mfsys d n => some (0x7F000001 + d.val * 262144 + n.val * 64)
  | .mtsys a n => some (0x7F000002 + a.val * 262144 + n.val * 64)
  | .tlbinvVa a => some (0x7F000003 + a.val * 262144)
  | .tlbinvAsid a => some (0x7F000004 + a.val * 262144)
  | .tlbinvAll => some (0x7F000005)
  | .seatctlEvack a => some (0x7F000006 + a.val * 262144)
  | .seatctlKill a => some (0x7F000046 + a.val * 262144)
  | .seatctlYield a => some (0x7F000086 + a.val * 262144)
  | .halt a => some (0x7F000007 + a.val * 262144)
  | _ => none

/-- The 32-bit word of an instruction with its chain bit. -/
def encode (x : Word1) : Option Nat :=
  match encodeBody x.instr with
  | none => none
  | some b => some (bit x.chain * 2147483648 + b)

end Sys2Proof
end

