-- ==== Sys2Proof/Config.lean ====
section
/-!
DEFINITION. What the device fixes (the figures of R1, R10, R21, R51 ...) and the free values: opaque constants without a
body, where the spec leaves a value open (notes/assumptions says where each is used).
-/

namespace Sys2Proof.Machine

/-- A role of a kernel (R39, R168). -/
structure Role where
  groups : Nat
  allot : Nat
  entry : W64
  deriving DecidableEq, Repr

/-- A kernel descriptor as a launch reads it (R168). -/
structure Kernel where
  roles : List Role := []
  detect : Bool := false
  scratch : Nat := 0
  abuf : Nat := 0
  wbuf : Nat := 0
  xbuf : Nat := 0
  /-- (parameter word, size or parameter word of the size, rw) -/
  extents : List (Nat × (Nat ⊕ Nat) × Bool) := []
  isolated : Bool := false
  deriving DecidableEq, Repr

end Sys2Proof.Machine

namespace Sys2Proof.Config

/-- Core cycles of a frame (R11). -/
def frame : Nat := 2048
/-- Cycles of one revolution of the ring (R307). -/
def revolution : Nat := 288
/-- Slots of the ring (R306). -/
def slots : Nat := 576
/-- Bytes of DRAM of one die (R348). -/
def dieBytes : Nat := 192 * 2 ^ 30
/-- Bytes of device DRAM; an address at or above it is no device address (R348). -/
def deviceBytes : Nat := 768 * 2 ^ 30
/-- Bytes of a scratchpad bank (R73). -/
def bankBytes : Nat := 8192
/-- The charges of R21. -/
def chargeFault : Nat := 16384
def chargeDoor : Nat := 2048
def chargeHost : Nat := 4096
def chargeAbsence : Nat := 131072
/-- Cycles of carving, and of a restore or save (R51). -/
def carveCycles : Nat := 64
def saveCycles : Nat := 12288
/-- The quantum of a resident team (R52). -/
def quantum : Nat := 2 ^ 20
/-- Trap entry and return (R333, R343). -/
def trapCycles : Nat := 24

/-- FREE VALUE (log 5): core cycles firmware takes for the n-th of its tasks; the spec leaves it open (R387, R406, R414). -/
opaque firmwareDelay : Nat → Nat
/-- FREE VALUE (log 6): the measurements of indices 1 to 3 of R418 as numbers below 2^512, of the ROM, the firmware image and the fuses of
this device; index 0: the image that step 1 of bring-up refused (R417). -/
opaque measurement : Nat → Nat
/-- FREE VALUE (log 6): the digest of bytes, SHA3-512, which the spec names and does not define (R418). -/
opaque digest : List Byte → Nat
/-- FREE VALUE (log 3): the base of the address-space table that the driver sets (R349). -/
opaque spaceBase : Nat
/-- FREE VALUE (log 6): the signature of R418 over a report and a nonce. -/
opaque signature : Nat → Nat → Nat
/-- FREE VALUE (log 6): word k of a STATUS reply, of 2 to 7, made of the four measurements of R418; the spec does not say how six words carry
them (R417). -/
opaque statusWord : List Nat → Nat → BitVec 64
/-- FREE VALUE (log 7): whether the n-th test of R415 passes. -/
opaque testPasses : Nat → Bool
/-- FREE VALUE (log 7): whether a peer accepts the n-th request sent to it (R413). -/
opaque peerAccepts : Nat → Bool
/-- FREE VALUE (log 7): a byte of a doorbell page whose reading R380 does not state. -/
opaque freeByte : Nat → Byte
/-- FREE VALUE (log 64): what a lane of the n-th read lost at a fenced link takes (R403). -/
opaque freeWord : Nat → BitVec 64
/-- FREE VALUE (log 114): the code of the status CommonsFull (R363). -/
opaque commonsFull : Nat

/-- FREE VALUES (log 12): the bytes a kernel descriptor takes, and what they declare; none where a field breaks R168. The spec
lists what a descriptor holds and leaves its layout to the assembler. -/
opaque kernelBytes : Nat
opaque kernelOf : List Byte → Option Machine.Kernel

end Sys2Proof.Config
end

