-- ==== Sys2Proof/Machine/State.lean ====
section
/-!
DEFINITION. The state of the device as plain data, the reasons a step can stop, and the state after reset. Field by field
the rule of spec/ that names it; INVENTORY.md lists every field with its reset value.
-/

namespace Sys2Proof.Machine

open Sys2Proof

/-- A byte memory: (address, byte) pairs in canonical form; an unlisted address reads as zero (log 1). -/
abbrev Memory := List Host.Cell

/-- The form of a memory: addresses strictly rising, no listed zero. -/
abbrev Memory.wf (m : Memory) : Bool := SMap.wf 0#8 m

/-- A physical place: device DRAM (R348), host memory (R364), or a Colalm peer's memory (R412). -/
inductive Phys where
  | dev (a : Nat)
  | host (a : Nat)
  | peer (port a : Nat)
  deriving DecidableEq, Repr

/-- The memories as they stood at some cycle: device, host, peers. -/
structure Store where
  dev : Memory := []
  host : Memory := []
  peer : Memory := []
  deriving DecidableEq, Repr

/-- Code as a team or a handler reads it (R178): the memories at the release, restore or trap entry, and for a page that did not
translate then, by page number, at its first use (log 15). -/
structure Code where
  at_ : Store := {}
  late : List (Nat × Store) := []
  deriving DecidableEq, Repr

/-- Trap kinds with the codes of R332. -/
inductive TrapKind where
  | illegalInstruction | registerUncorrectable | registerParity | deadRead | environmentRead | nestOverflow
  | tileFormat | tileLive | ringNotOwned | ringOpForbidden | misaligned | accessFault | translationFault
  | memoryUncorrectable | matrixLasting | softwareTrap | breakpoint
  deriving DecidableEq, Repr

/-- A trap to be taken: kind, cause (R186), lane, done mask, log index, and the word and position it names (R335-R337). -/
structure TrapReq where
  kind : TrapKind
  cause : Nat := 0
  lane : Nat := 0
  done : LaneMask := 0
  logIndex : Nat := 7
  word : W32 := 0
  pkt : W64 := 0
  slot : Nat := 0
  /-- age of the originating word, for deferred traps (R338), and whether it issued at supervisor level (R339) -/
  age : Nat := 0
  sup : Bool := false
  deriving DecidableEq, Repr

/-- Supply state of a bank (R65, R68). -/
inductive BankState where
  | absent | off | retain | full
  deriving DecidableEq, Repr

/-- A wake in progress: it reaches `target` at cycle `due` (R68), and `later` is the state the bank then takes (R71). -/
structure Wake where
  bank : Nat
  target : BankState
  due : Nat
  later : Option BankState := none
  deriving DecidableEq, Repr

/-- User or supervisor (R330). -/
inductive Level where
  | user | supervisor
  deriving DecidableEq, Repr

/-- Why a split is blocked (R44). -/
inductive Block where
  | free
  | waitc (loads stores copies tiles : Nat)
  | barWait (off : Nat) (phase : W32) (acq : Bool)
  | eacq (since : Nat)
  | join (tag : Option Nat) (before : Nat)
  | door (wait : Nat)
  | launch
  | brx
  /-- it waits at a regroup point, and goes on at this packet (R57) -/
  | regroup (next : W64)
  deriving DecidableEq, Repr

/-- A split: its lanes and the place of its next word (R36, R176). -/
structure Split where
  idx : Nat
  lanes : LaneMask
  pkt : W64
  slot : Nat
  block : Block := .free
  /-- earliest cycle of the split's next issue after a transfer of control (R54) -/
  notBefore : Nat := 0
  /-- issue age of the waitc it waits in (R423) -/
  age : Nat := 0
  /-- the packet whose charged read from host memory has ended (R21, R364) -/
  fetched : Option W64 := none
  deriving DecidableEq, Repr

/-- The registers a unit reads before it writes: scalars, vectors (key 32·n + lane for lane of vn), conditions, nesting
counters (R58). Unlisted: zero, which is their value at release (R41). -/
structure Regs where
  s : SMap W64 := []
  v : SMap W32 := []
  c : SMap LaneMask := []
  nest : SMap Byte := []
  deriving DecidableEq, Repr

/-- The trap registers of a group (R334-R337). -/
structure TrapRegs where
  tpc : W64 := 0
  tword : W64 := 0
  tkind : W64 := 0
  tdone : W64 := 0
  tlog : W64 := 0
  nestsave : SMap W64 := []
  tret : W64 := 0
  ksc : SMap W64 := []
  deriving DecidableEq, Repr

/-- Outstanding counts behind %qcnt (R63). -/
structure Counts where
  loads : Nat := 0
  stores : Nat := 0
  copies : Nat := 0
  tiles : Nat := 0
  deriving DecidableEq, Repr

/-- Scoreboard: cycle at which a register is available (key of `Key`), and registers pending on an operation (R44). -/
structure Board where
  avail : SMap Nat := []
  busy : List (Nat × Nat) := []
  deriving DecidableEq, Repr

/-- A fence of the group that still holds later words (R254, R423). -/
structure FenceRec where
  age : Nat
  acq : Bool
  rel : Bool
  full : Bool
  uo : Bool
  scope : Scope
  /-- lanes whose next write is still to come (R137) -/
  lanes : LaneMask
  deriving DecidableEq, Repr

/-- A group (R36, R41, R58-R71, R333, R396). -/
structure Group where
  gid : Nat
  role : Nat := 0
  regs : Regs := {}
  allot : Nat := 64
  splits : List Split := []
  banks : SMap BankState := []
  wakes : List Wake := []
  hasExt : Bool := false
  /-- base and extended banks taken from each subarray of the seat's share (R75) -/
  baseHeld : SMap Nat := []
  extHeld : SMap Nat := []
  level : Level := .user
  /-- user splits kept while a handler runs (R333) -/
  kept : List Split := []
  /-- index of the split that trapped -/
  trapSplit : Nat := 0
  /-- lanes whose counter was 255 at trap entry (R343) -/
  retired : LaneMask := 0
  trap : TrapRegs := {}
  /-- handler code as it stood at the trap (R178) -/
  handlerCode : Option Code := none
  brkctl : W64 := 1
  iret : W64 := 0
  counts : Counts := {}
  board : Board := {}
  /-- earliest cycle of the next issue of the group after a trap or eret (R333, R343) -/
  notBefore : Nat := 0
  deferred : List TrapReq := []
  fences : List FenceRec := []
  /-- uncorrectable errors of a register's lanes (R76, R79): vector n has key n, scalar n 128 + n, condition n 192 + n, the nesting
  counters 200 -/
  poison : SMap LaneMask := []
  /-- parity errors in detection-only mode (R77), and single-bit errors not yet corrected (R76), by the same keys -/
  parity : SMap LaneMask := []
  flips : SMap LaneMask := []
  /-- age of the group's latest release fence, release atomic or waitc that orders commands (R144, R423) -/
  lastRel : Nat := 0
  /-- queues that accept no command until eret (R270) -/
  stopped : List Nat := []
  /-- marks of qfence: queues and age (R147) -/
  marks : List (List Nat × Nat) := []
  /-- first cycle at which a serial matrix operation may begin (R289) -/
  q6next : Nat := 0
  /-- cycle at which the value of the latest acquire bar.test returns (R262, R423) -/
  tested : Nat := 0
  ended : Bool := false
  returned : Bool := false
  /-- portable mode: quantum number, standing at its end, buffered operations (R396-R398) -/
  quantum : Nat := 0
  standing : Bool := false
  /-- it stands at the beginning of its quantum, of which its team, draining, has run nothing (R397, R398) -/
  paused : Bool := false
  effects : List Nat := []
  deriving DecidableEq, Repr

/-- Life of a team (R51). -/
inductive TeamState where
  | pending | carving | resident | draining | saving | parked | ended
  deriving DecidableEq, Repr

/-- A tile of an XBUF share (R285, R286, R288). -/
structure Tile where
  id : Nat
  kind : TKind
  off : Nat
  rows : Nat
  cols : Nat
  planes : Nat
  /-- 1 Clear, 2 Open, 3 Closed; a Free tile is not listed -/
  state : Nat := 1
  passes : Nat := 0
  ovf : Bool := false
  /-- hidden checksums (R295): sums of the rows, then of the columns, of each data plane -/
  sums : List W32 := []
  deriving DecidableEq, Repr

/-- A record of a team's extent table (R359), with a declared range's bounds. -/
structure Extent where
  vbase : Nat
  pbase : Nat
  len : Nat
  ord : Nat
  com : Bool
  w : Bool
  r : Bool
  deriving DecidableEq, Repr

/-- A declared range (R170). -/
structure Declared where
  base : Nat
  len : Nat
  rw : Bool
  deriving DecidableEq, Repr

/-- Effective run mode of a grid (R391). -/
structure RunMode where
  est : Nat := 0
  qlog : Nat := 0
  twin : Bool := false
  port : Bool := false
  rst : Bool := false
  deriving DecidableEq, Repr

/-- Effective region values fixed for a grid's life (R369). -/
structure Region where
  rcb : Nat := 0
  asid : Nat := 0
  vf : Nat := 0
  handler : Option W64 := none
  cqRcb : Nat := 0
  cqBase : Nat := 0
  cqLog : Nat := 0
  gridRcb : Nat := 0
  maxGrids : Nat := 0
  prio : Nat := 0
  env : Bool := false
  kgrid : Bool := false
  /-- the region and its ancestors (R367) -/
  chain : List Nat := []
  deriving DecidableEq, Repr

/-- Who waits for a grid's end (R276, R383). -/
inductive Launcher where
  | host (vf q : Nat) (cq : Bool) (idx : Nat)
  | device (team : Nat) (gid : Nat)
  | message
  deriving DecidableEq, Repr

/-- A grid record of the pending pool (R276, R389). -/
structure Grid where
  id : Nat
  number : W32 := 0
  seat : Nat
  region : Region
  mode : RunMode := {}
  kernel : Kernel
  params : List W64
  gx : Nat
  gy : Nat
  gz : Nat
  shape : Option (Nat × Nat × Nat) := none
  tag : Nat := 0
  launcher : Launcher
  /-- issue age of the launching word, for join (R278) -/
  age : Nat := 0
  teamsLeft : Nat := 0
  placed : Bool := false
  ready : Bool := false
  /-- its region failed R369 when a device launched it -/
  badRegion : Bool := false
  /-- delivered at a frame boundary (R387); until it is placed it waits in place for room (R383) -/
  delivered : Bool := false
  /-- cycle at which preparation ended (R387) -/
  prepared : Nat := 0
  extents : List Extent := []
  declared : List Declared := []
  /-- the memories as they stood after the last commit of a portable grid (R398) -/
  image : Store := {}
  deriving DecidableEq, Repr

/-- A regroup point in progress (R56, R230). -/
structure Regroup where
  point : Nat
  first : Nat
  count : Nat
  cond : Nat
  deriving DecidableEq, Repr

/-- An arm registered at a station (R316, R322). -/
structure Arm where
  id : Nat
  seat : Nat
  core : Nat
  slot : Nat
  w : Nat
  cmp : ArmCmp
  x : W32
  team : Nat
  gid : Nat
  off : Nat
  word : W32
  pkt : W64
  pslot : Nat
  /-- first cycle in which it is evaluated; cycle in which a delivery that wakes a bank lands (R74, R316) -/
  from_ : Nat
  due : Option Nat := none
  deriving DecidableEq, Repr

/-- The record of a group in its team's save area (R78): the header, the scalar registers, and the banks that are Full or Retain with their
marks of poison. -/
structure SavedGroup where
  gid : Nat
  map : SMap BankState
  splits : List Split
  nest : SMap Byte
  conds : SMap LaneMask
  scalars : SMap W64
  regs : SMap W32
  poison : SMap LaneMask
  deriving DecidableEq, Repr

/-- A team's save area (R78): the records of its groups, the scratchpad banks with their marks of poison, the three buffers, and the tiles
with their hidden checksums. -/
structure SaveRecord where
  groups : List SavedGroup
  scratch : Memory
  sbanks : SMap BankState
  spoison : List Nat
  abuf : Memory
  wbuf : Memory
  xbuf : Memory
  tiles : List Tile
  deriving DecidableEq, Repr

/-- A team (R36-R41, R51, R81). -/
structure Team where
  id : Nat := 0
  grid : Nat := 0
  seat : Nat := 0
  core : Nat := 0
  vf : Nat := 0
  x : Nat := 0
  y : Nat := 0
  z : Nat := 0
  /-- linear index in the grid (R37) -/
  index : Nat := 0
  rank : Nat := 0
  /-- linear index of its cluster in the grid, and the cluster's (x, y, z) -/
  cluster : Option Nat := none
  cx : Nat := 0
  cy : Nat := 0
  cz : Nat := 0
  gridNumber : W32 := 0
  /-- global rank along the curve in portable mode (R400) -/
  curve : Nat := 0
  region : Region := {}
  mode : RunMode := {}
  kernel : Kernel := {}
  params : List W64 := []
  state : TeamState := .pending
  /-- residency number (R45) and the cycle of the last entry to Resident (R52) -/
  residency : Nat := 0
  since : Nat := 0
  everResident : Bool := false
  /-- place in its seat's pending queue on its core: lower first (R51) -/
  queued : Nat := 0
  /-- not a victim until it ends (R393) -/
  noVictim : Bool := false
  parkAfter : Bool := false
  discard : Bool := false
  /-- halt reason once the team is ending (R347) -/
  halting : Option Nat := none
  scratch : Memory := []
  sbanks : SMap BankState := []
  swakes : List Wake := []
  nscratch : Nat := 0
  /-- 64-byte stretches of the scratchpad share with an uncorrectable error (R78), and with a single-bit error (R76) -/
  spoison : List Nat := []
  sflips : List Nat := []
  abuf : Memory := []
  wbuf : Memory := []
  xbuf : Memory := []
  /-- cycle of the last landing in XBUF, and the bytes before what landed in it (R287) -/
  xbufWas : Option (Nat × Memory) := none
  nabuf : Nat := 0
  nwbuf : Nat := 0
  nxbuf : Nat := 0
  /-- tiles as issue sees them (R282), and as landed operations left them (R286, R287) -/
  tiles : List Tile := []
  tilesIn : List Tile := []
  /-- code as it stood at release (R178) -/
  code : Code := {}
  extents : List Extent := []
  declared : List Declared := []
  groups : List Group := []
  regroup : Option Regroup := none
  /-- payload of an active message (R279) -/
  message : Option (W64 × W64 × W64) := none
  /-- arms withdrawn while the team is saved (R317) -/
  arms : List Arm := []
  /-- the primary this team is the twin of (R401), and the groups as the quantum found them (R402) -/
  twin : Option Nat := none
  record : List Group := []
  recTiles : List Tile := []
  /-- %oclk at which the quantum's rerun began (R402) -/
  rerun : Option Nat := none
  /-- its save area while it is saved (R78) -/
  save : Option SaveRecord := none
  deriving DecidableEq, Repr

/-- Which space a local access names (R80). -/
inductive Space where
  | global | scratch | abuf | wbuf | xbuf
  deriving DecidableEq, Repr

/-- The destination of a load or of an atomic's old value. -/
inductive Dest where
  | none
  | vec (d : Nat) (pair : Bool)
  | scal (d : Nat)
  deriving DecidableEq, Repr

/-- A cp or gth command (R263-R271). Rows are (source, destination) offsets computed at each step. -/
structure Copy where
  kind : Nat
  queue : Nat
  src : Nat
  dst : Nat
  rows : Nat
  rowSz : Nat
  sstride : Nat
  dstride : Nat
  bar : Option Nat := none
  /-- descriptor of a circular buffer, and its fill number once started (R95) -/
  circ : Option Nat := none
  fill : Nat := 0
  /-- index width of a gth in bytes, 0 for cp; address of its index list -/
  idxW : Nat := 0
  idxAddr : Nat := 0
  /-- spaces of source and destination -/
  from_ : Space := .global
  to_ : Space := .global
  row : Nat := 0
  off : Nat := 0
  /-- index read for the current row of a gth -/
  index : Option Nat := none
  piece : Nat := 0
  /-- %oclk at which the piece's access at hand began (R21, R356) -/
  t0 : Nat := 0
  data : List Byte := []
  inFlight : Bool := false
  circReady : Bool := false
  /-- its slot was found free; the barrier object and the phase of it that the fill waits for (R95) -/
  slotFree : Bool := false
  gate : Option (Nat × Nat) := none
  /-- what the piece does next: 0 read port, 1 data arrives, 2 write, 3 credit -/
  phase : Nat := 0
  /-- held by the operands-consumed rule (R272) -/
  heldBy : Bool := false
  /-- firmware has mapped the page of its piece, which starts again when the charged wait ends (R270) -/
  again : Bool := false
  deriving DecidableEq, Repr

/-- A plane descriptor (R282) with the load that sets it. -/
structure PlaneDesc where
  fmt : Fmt
  kl : Nat
  nl : Nat
  ver : Nat
  deriving DecidableEq, Repr

/-- One quarter-pass of an xmm or xbmm (R301). -/
structure Quarter where
  q : Nat
  aoff : Nat
  apitch : Nat
  tile : Nat
  r0 : Nat
  c0 : Nat
  p0 : Nat
  deriving DecidableEq, Repr

/-- A queue-6 operation (R289-R305). -/
inductive Mx where
  | xcfg (t : Nat) (kind : TKind) (off rows cols planes : Nat)
  /-- `phys`: the physical plane it writes (R290); `old`: the descriptor its own takes the place of (R294) -/
  | xlds (pair : Nat) (phys : Bool) (fmt : Fmt) (woff pitch kl nl : Nat) (old : Option PlaneDesc)
  | xswp (pair : Nat)
  /-- `phys`, `ver`: the physical plane it reads and the load that filled it -/
  | pass (block : Bool) (pair gen : Nat) (phys : Bool) (ver : Nat) (fmt : Fmt) (acc inj : Bool) (qs : List Quarter)
  | xscac (src dst p0 n : Nat) (acc : Bool)
  | xdrn (mask : Nat)
  | xrel (mask : Nat)
  deriving DecidableEq, Repr

/-- A ring operation waiting at a station (R312-R322). -/
inductive RingKind where
  | board (home : Nat) (pa : Phys) (payload : List W32)
  | alight
  | cap (acq : Bool)
  | mod (op : ModOp) (w : Nat) (v nv : W32)
  | probe
  /-- an arm of portable mode, until the commit registers it (R397) -/
  | arm (cmp : ArmCmp) (w : Nat) (x : W32) (off : Nat)
  deriving DecidableEq, Repr

/-- A change of a barrier object (R256, R274), or a test of it, as it is buffered or held. -/
inductive BarUpd where
  | init (expect : Nat)
  | expect (bytes : W32)
  /-- bytes to expect in the same update; descriptor of a cb.free -/
  | arrive (bytes : W32) (circ : Option Nat)
  | test (phase : W32)
  | phase
  deriving DecidableEq, Repr

/-- What an operation in flight is. -/
inductive OpKind where
  | load (sp : Space) (n : Nat) (signed : Bool)
  | store (sp : Space) (n : Nat)
  | atomic (sp : Space) (op : AOp) (signed : Bool)
  | touch
  /-- a release arrival or cb.free held by R133, R423, or a barrier word buffered by R397 -/
  | bar (off : Nat) (u : BarUpd)
  | pbank (first n : Nat) (state : BankCode)
  | copy (c : Copy)
  | matrix (m : Mx)
  | ring (slot : Nat) (k : RingKind)
  /-- the reads of a launch's descriptor and parameters, with the grid record it placed -/
  | launchRead (grid : Nat) (try_ : Bool) (cd : Nat)
  | amsg (core handler : Nat) (p0 p1 p2 : W64)
  | tlbinv (asid : Option Nat) (page : Option Nat)
  deriving DecidableEq, Repr

/-- Which %qcnt field an operation counts in (R63, R245). -/
inductive CountKind where
  | none | loads | stores | copies | tiles
  deriving DecidableEq, Repr

/-- A TLB entry (R355): the page and the leaf it was filled from. -/
structure TlbEntry where
  core : Nat
  asid : Nat
  vbase : Nat
  size : Nat
  leaf : W64
  leafAddr : Nat
  /-- accesses translated through it (R354) -/
  uses : Nat := 0
  stamp : Nat
  deriving DecidableEq, Repr

/-- An operation in flight: a word that has issued and not completed. -/
structure Op where
  /-- issue order, device-wide -/
  id : Nat
  seat : Nat
  core : Nat
  team : Nat
  gid : Nat
  split : Nat := 0
  word : W32 := 0
  pkt : W64 := 0
  slot : Nat := 0
  kind : OpKind
  count : CountKind := .none
  dest : Dest := .none
  scope : Scope := .dev
  acq : Bool := false
  rel : Bool := false
  /-- %oclk and device cycle of issue -/
  t0 : Nat := 0
  issued : Nat := 0
  active : LaneMask := 0
  addr : SMap Nat := []
  x : SMap W64 := []
  y : SMap W64 := []
  result : SMap W64 := []
  /-- lanes performed, waiting for a walk, logged, refused (R141, R248) -/
  done : LaneMask := 0
  walking : LaneMask := 0
  logged : LaneMask := 0
  refused : LaneMask := 0
  /-- lanes that read an uncorrectable line (R403) -/
  uncorr : LaneMask := 0
  /-- lanes that a translation fault has stopped, whether or not they have replayed since (R404) -/
  faulted : LaneMask := 0
  /-- lanes whose translation firmware or the host has found unresolvable (R331, R365) -/
  unres : LaneMask := 0
  /-- registers, by scoreboard key, that a word in a higher slot of the unit has written since (R188) -/
  lost : SMap LaneMask := []
  /-- this operation holds an operand log entry (R340) -/
  inLog : Bool := false
  logIdx : Nat := 0
  /-- its place in log order; it is resolved and waits for its turn to replay (R142, R340) -/
  logSeq : Nat := 0
  owed : Bool := false
  /-- issued while the log held an entry (R142) -/
  underLog : Bool := false
  /-- atomic lanes performed that the contention predictor has still to take in lane order: bit 0 in L1, bit 1 the case that counts
  up (R102) -/
  trained : List (Nat × Nat) := []
  /-- it needs an entry while four are held (R248) -/
  noEntry : Bool := false
  /-- requests of its lanes still in the network -/
  pending : Nat := 0
  /-- quarter-passes taken into a pass, and landed -/
  taken : Nat := 0
  landed : Nat := 0
  /-- the tiles a matrix operation names, as they stood by issue when its word was checked (R282, R292) -/
  geo : List Tile := []
  trapSent : Bool := false
  started : Bool := false
  begun : Bool := false
  held : Bool := false
  /-- earliest cycle the ring station may apply it; cycle of application -/
  from_ : Nat := 0
  applied : Option Nat := none
  status : W64 := 0
  payload : List W32 := []
  header : W64 := 0
  /-- a launch: parts of its kernel descriptor read so far, by lane (R276) -/
  desc : List (Nat × List Byte) := []
  /-- positions of qfence marks: queues whose commands before this age must complete first (R147) -/
  after : List (Nat × Nat) := []
  /-- group writes older than this perform before the command's first piece (R423) -/
  orderAge : Nat := 0
  /-- buffered until the commit (R397) -/
  buffered : Bool := false
  /-- the host pages of a buffered operation's lanes have been charged (R364, R397); the addresses of its pieces' accesses to host or peer
  memory that have been, and whether they write (R412) -/
  away : Bool := false
  paid : List (Nat × Bool) := []
  /-- what the walks of a buffered operation's commit have found: each page with its leaf, 0 where there is none, and as `stamp` the address
  walked (R353, R397) -/
  pages : List TlbEntry := []
  /-- issued at supervisor level (R352) -/
  sup : Bool := false
  /-- the threads of a scalar word, which is in the program order of every lane of its split (R129); 0: each lane's own -/
  threads : LaneMask := 0
  /-- the deferred trap that ends or suspends the operation (R338) -/
  bad : Option TrapKind := none
  deriving DecidableEq, Repr

/-- One request of a global access in the network (R54, R55, R422). -/
inductive ReqKind where
  | load | store | atomic | walk | recall | alight | heat | message
  /-- a line of an access from outside (R408, R413) -/
  | visit
  deriving DecidableEq, Repr

/-- Where a request stands: the structures it still has to be served at, each with the cycles of travel to it, and the
cycles after the last one until it is back (R54, R422, R424). -/
structure Req where
  id : Nat
  /-- owning operation; the walk of a `walk`; the slot of an `alight`; the store of a `recall`; the access of a `visit` -/
  owner : Nat
  /-- place in issue order (R14): the word it comes from; a raise of heat follows what has issued -/
  age : Nat := 0
  seat : Nat
  core : Nat
  kind : ReqKind
  /-- the line's place (R55), or the place of an 8-byte table entry -/
  place : Phys
  va : Nat := 0
  lanes : LaneMask := 0
  hops : List (Struct × Nat) := []
  /-- cycle at which it reaches the head structure's arbiter; before it is sent, the cycle it may be sent from (R55) -/
  arrive : Nat := 0
  tail : Nat := 0
  /-- in the network; a request that R130, R142 or R422 holds is not yet sent -/
  sent : Bool := false
  performed : Bool := false
  hint : Hint := .normal
  com : Bool := false
  /-- ordering kind of its page (R130): 0 UO, 1 RC, 2 SO, 3 TSO -/
  ord : Nat := 1
  /-- performed in L1 (R102, R140), and whether ownership came from another L1 -/
  inL1 : Bool := false
  /-- a Colalm peer has refused it (R413) -/
  refused : Bool := false
  /-- the walk whose leaf its place comes from; 0: an extent or a TLB entry (R357) -/
  walk : Nat := 0
  /-- errors it meets where it waits (R403): 1 the position that serves it next fails, 2 the repeat fails too, 3 both have failed -/
  fails : Nat := 0
  /-- the cycle of the position that failed; the seat's next one is the repeat's (R403) -/
  failed : Option Nat := none
  deriving DecidableEq, Repr

/-- The page is of kind SO or TSO (R130). -/
def Req.strong (r : Req) : Bool := decide (2 ≤ r.ord)

/-- A line of a cache part: L1 of a core or the seat's ways of a slice (R425). Tags only; memory holds the bytes. -/
structure Line where
  /-- core number for L1, slice number 64·die + m for L2 -/
  at_ : Nat
  line : Nat
  owned : Bool := false
  nt : Bool := false
  keep : Bool := false
  stamp : Nat
  /-- core of the last atomic at the slice (R102) -/
  lastCore : Option Nat := none
  deriving DecidableEq, Repr

/-- An entry of the contention predictor (R102). -/
structure Pred where
  core : Nat
  idx : Nat
  tag : Nat
  count : Nat
  deriving DecidableEq, Repr

/-- Who met a translation or its fault (R248, R270, R178, R321). -/
inductive FaultOwner where
  | op (id : Nat)
  | piece (id : Nat)
  | fetch (team gid split : Nat)
  | alight (slot : Nat)
  /-- the extent build of a grid (R360) -/
  | build (grid : Nat)
  /-- firmware's work on a submission queue (R382) -/
  | queue (vf q : Nat)
  deriving DecidableEq, Repr

/-- A table walk in flight (R353, R356) with the parties and lanes that joined it. -/
structure Walk where
  id : Nat
  seat : Nat
  core : Nat
  asid : Nat
  va : Nat
  write : Bool
  /-- issue order of the access that missed (R14) -/
  age : Nat := 0
  level : Nat := 4
  table : Nat
  entry : W64 := 0
  waiters : List (FaultOwner × LaneMask) := []
  started : Bool := false
  /-- addresses invalidated after it began, each range with its length: a fill that meets one is discarded (R357) -/
  drops : List (Nat × Nat) := []
  /-- waiting for the host's translation of an ATS page (R365); its page request: 0 none, 1 outstanding, 2 waiting for room -/
  ats : Bool := false
  pri : Nat := 0
  deriving DecidableEq, Repr

/-- A translation fault in firmware's hands (R358, R404). -/
structure FaultRec where
  id : Nat
  seat : Nat
  asid : Nat
  va : Nat
  write : Bool
  fetch : Bool := false
  owner : FaultOwner
  region : Region := {}
  forwarded : Bool := false
  /-- it waits for one of its function's 256 forwarded faults to complete (R358) -/
  waiting : Bool := false
  /-- the function that was seated when it was met -/
  vf : Nat := 0
  deriving DecidableEq, Repr

/-- A charged wait (R21-R23). -/
structure Charged where
  id : Nat
  /-- function that waits -/
  vf : Nat := 0
  event : Nat
  core : Nat
  t0 : Nat
  due : Nat
  owner : FaultOwner
  detail : W64 := 0
  /-- device cycle at which the outside party finishes -/
  doneAt : Option Nat := none
  late : Bool := false
  /-- the outside party found the translation unresolvable (R331) -/
  unresolvable : Bool := false
  door : Option W32 := none
  deriving DecidableEq, Repr

/-- A core record of a placement record (R371). -/
structure CoreRec where
  cmap : W64
  core : Nat
  gslot : Nat
  spb : Nat
  abu : Nat
  wbu : Nat
  xbu : Nat
  suba : Nat
  pairs : Nat
  l1u : Nat
  tlbu : Nat
  grant : Bool
  deriving DecidableEq, Repr

/-- A placement record (R370). -/
structure Placement where
  dmap : W64 := 0
  evlog : Nat := 0
  amtab : Nat := 0
  qtab : Nat := 0
  frame : Nat := 0
  poolq : Nat := 0
  l2w : Nat := 0
  cad : Nat := 0
  inj : Bool := false
  /-- the bytes of the record, which index 4 of R418 measures -/
  raw : List Byte := []
  cores : List CoreRec := []
  deriving DecidableEq, Repr

/-- A lease record (R372). -/
structure LeaseRec where
  v : Bool := false
  lend : Bool := false
  peer : Nat := 0
  lmap : W64 := 0
  first : Nat := 0
  count : Nat := 0
  deriving DecidableEq, Repr

/-- An entry of a quantum table (R377). -/
structure QuantumEntry where
  rcb : Nat
  quantum : Nat
  vf : Nat
  deriving DecidableEq, Repr

/-- A slot of the ring (R311). State: 0 EMPTY, 1 ABOARD, 2 ALIGHTING, 3 FENCED. -/
structure RingSlot where
  state : Nat := 0
  home : W64 := 0
  place : Phys := .dev 0
  payload : List W32 := List.replicate 8 0
  /-- operation whose board has claimed the slot in this revolution, with its home and payload -/
  board : Option (Nat × W64 × Phys × List W32) := none
  /-- operation whose alight has claimed it -/
  alight : Option Nat := none
  /-- the alight whose home write is under way, with its team and group -/
  writing : Option (Nat × Nat × Nat) := none
  deriving DecidableEq, Repr

/-- What a seat keeps of each of its functions (R308, R317, R378). -/
structure FnRec where
  vf : Nat
  /-- it has been seated -/
  seen : Bool := false
  /-- %oclk when it last left, or none before its first seating -/
  oclk : Option Nat := none
  slots : List (Nat × RingSlot) := []
  arms : List Arm := []
  grids : W32 := 0
  deriving DecidableEq, Repr

/-- What load balancing sampled of a core at the start of a cycle: its depth, and the teams that may be moved, in queue order
(R390). -/
structure CoreSample where
  core : Nat
  depth : Nat
  teams : List Nat
  deriving DecidableEq, Repr

/-- A seated or admitted owner (R8, R15, R370). -/
structure Seat where
  num : Nat
  pl : Placement := {}
  seated : Bool := false
  /-- %oclk = g - base while running (R15) -/
  base : Nat := 0
  /-- %oclk while stopped (R23) -/
  frozen : Option Nat := none
  switching : Bool := false
  vf : Nat := 0
  /-- the function a switch brings in (R378) -/
  nextVf : Nat := 0
  /-- %oclk at the latest seating of the function (R378) -/
  seatedAt : Nat := 0
  yield_ : Bool := false
  lease : LeaseRec := {}
  qtab : List QuantumEntry := []
  nextQtab : Option (List QuantumEntry) := none
  fns : List FnRec := []
  evHead : W32 := 0
  evTail : W32 := 0
  /-- per core: teams made resident so far, last issued key, last served copy key (R45, R269) -/
  residency : SMap Nat := []
  lastKey : List (Nat × (Nat × Nat × Nat)) := []
  lastCopy : List (Nat × (Nat × Nat × Nat)) := []
  /-- per core: first cycles in which pipes V and W are free (R43) -/
  pipes : List (Nat × (Nat × Nat)) := []
  waits : List Charged := []
  l1 : List Line := []
  l2 : List Line := []
  tlb : List TlbEntry := []
  pred : List Pred := []
  /-- eviction asked for, with FORCE (R374) -/
  evict : Option Bool := none
  floor : Option (Nat × Nat) := none
  /-- load balancing has sampled in this cycle, and its moves are to come (R390) -/
  sample : Option (List CoreSample) := none
  deriving DecidableEq, Repr

/-- A plane of weights (R281, R299): the load that filled it, and its columns' bytes. -/
structure Plane where
  ver : Nat
  fmt : Fmt
  kl : Nat
  nl : Nat
  cols : List (List Byte)
  deriving DecidableEq, Repr

/-- A plane pair bound to a seat, kept per function (R281): descriptors, generation and the physical plane that is active,
by issue (R282); and the planes loaded. -/
structure PlanePair where
  seat : Nat
  vf : Nat
  core : Nat
  pair : Nat
  active : Option PlaneDesc := none
  shadow : Option PlaneDesc := none
  gen : Nat := 0
  phys : Bool := false
  planes : List Plane := []
  deriving DecidableEq, Repr

/-- What passes must share to fuse (R291). -/
structure RowKey where
  pair : Nat
  gen : Nat
  fmt : Fmt
  block : Bool
  deriving DecidableEq, Repr

/-- A pass in the array (R291, R293). -/
structure Pass where
  id : Nat
  core : Nat
  seat : Nat
  key : RowKey
  ver : Nat
  inj : Bool
  /-- quarter-passes with the operation each belongs to -/
  quarters : List (Nat × Quarter)
  /-- an operation without quarter-passes, which completes with this record (R297) -/
  only : Option Nat := none
  /-- A rows injected so far -/
  rows : List (List Byte) := []
  firstRow : Nat := 0
  lastRow : Nat := 0
  /-- the pass is a rerun, of a comparison that differed at this cycle, by injection or not -/
  retry : Option Nat := none
  notBefore : Nat := 0
  deriving DecidableEq, Repr

/-- A host submission queue as firmware holds it (R380-R384). -/
structure Queue where
  vf : Nat
  q : Nat
  addr : Nat
  /-- open INDIRECT buffers: address, count, next index -/
  stack : List (Nat × Nat × Nat) := []
  /-- a WAIT in progress: physical address and value -/
  wait : Option (Nat × W64) := none
  /-- a page of the command at hand that firmware found unresolvable -/
  failed : Option Nat := none
  /-- the command at hand waits for fault service (R382) -/
  blocked : Bool := false
  /-- grids of this queue that have not ended -/
  live : List Nat := []
  /-- what the host answered for the ATS pages of the command at hand: page and host address (R365) -/
  ats : List (Nat × Nat) := []
  deriving DecidableEq, Repr

/-- A completion not yet written (R385, R386). -/
structure Completion where
  rcb : Nat
  cqBase : Nat
  cqLog : Nat
  vf : Nat
  queue : Nat
  status : Nat
  info : W64
  deriving DecidableEq, Repr

/-- PF BAR 0 registers (R410). -/
structure HostRegs where
  mbin : List W64 := List.replicate 8 0
  mbout : List W64 := List.replicate 8 0
  seq : Nat := 0
  done : Bool := false
  busy : Bool := false
  /-- DEVSTAT -/
  dstate : Nat := 0
  failCode : Nat := 0
  failUnit : Nat := 0
  /-- LINKSTAT: state, peer -/
  links : List (Nat × Nat) := List.replicate 8 (0, 0)
  deriving DecidableEq, Repr

/-- An inbound window of a Colalm port (R413). -/
structure Window where
  port : Nat
  entry : Nat
  base : Nat
  len : Nat
  rd : Bool
  wr : Bool
  deriving DecidableEq, Repr

/-- An access from outside that takes fill-seat positions (R408, R409, R413): the places of its bytes, those read so far, and the lines that
are still to be served. -/
structure Visit where
  id : Nat
  kind : Inbound
  places : List Phys
  got : List (Nat × Byte) := []
  left : Nat
  deriving DecidableEq, Repr

/-- A message of 64 bytes to a management core, and the frame in which it was sent (R410, R414). -/
structure Mail where
  core : Nat
  words : List W64
  frame : Nat
  deriving DecidableEq, Repr

/-- A power command that has been answered Ok (R420): a cap with degrade in force or not, or a seat's floor m and G. -/
inductive PowerCmd where
  | cap (watts : Nat) (degrade : Bool)
  | floor (seat m g : Nat)
  deriving DecidableEq, Repr

/-- The power controller (R419-R421). -/
structure Power where
  step : Nat := 0
  cap : Nat := 2800
  degrade : Bool := false
  /-- the second condition of R419 held at the latest evaluation -/
  may : Bool := false
  bands : List Nat := List.replicate 4 0
  /-- commands that take effect at the next evaluation, in the order of their replies -/
  pending : List PowerCmd := []
  deriving DecidableEq, Repr

/-- The host link and PCI Express configuration the model keeps (R407, R408, R417). -/
structure Link where
  width : Nat := 16
  rate : Nat := 128
  /-- the link is in Flit Mode; the cycle at which the retraining at hand ends; Advanced Error Reporting's record of the completions
  that failed and Access Control Services' controls, by function (R407) -/
  flit : Bool := true
  retrain : Nat := 0
  aer : SMap W32 := []
  acs : SMap W32 := []
  numVFs : Nat := 0
  vectors : SMap Nat := []
  /-- signals and messages sent to the host: MSI-X (function, vector) -/
  msix : List (Nat × Nat) := []
  /-- attestation and STATUS answers: index, nonce, value -/
  reports : List (Nat × Nat × Nat) := []
  /-- answers of served requests: bytes, or none for an abort -/
  answers : List (Option (List Byte)) := []
  /-- page requests and translation requests sent: function, PASID, address (R365) -/
  pri : List (Nat × Nat × Nat) := []
  ats : List (Nat × Nat × Nat) := []
  /-- invalidation requests whose completion is not yet sent: function, PASID, address, size, and the identifier when they came -/
  inval : List (Nat × Nat × Nat × Nat × Nat) := []
  deriving DecidableEq, Repr

/-- The issuing split in focus: its team (without the group), its group, and the packet at hand. Between steps it is
empty (`live = false`) and the team stands in `State.teams`. -/
structure Focus where
  live : Bool := false
  team : Team := {}
  group : Group := { gid := 0 }
  split : Nat := 0
  /-- packet of the unit, slot of the word at hand, first slot of the unit, and the place after the unit -/
  pkt : W64 := 0
  slot : Nat := 0
  unitSlot : Nat := 0
  nextPkt : W64 := 0
  nextSlot : Nat := 0
  word : W32 := 0
  lit : W32 := 0
  /-- issue age of the word at hand -/
  age : Nat := 0
  /-- the group as the unit found it, when the unit holds several words (R188, R232) -/
  src : Option Group := none
  /-- the trap the word at hand has taken -/
  trap : Option TrapReq := none
  deriving DecidableEq, Repr

/-- Why the machine stops. -/
inductive Fault where
  /-- Raised by every instruction word when the state holds no issuing split (`Focus.live = false`): such a word has no
  group to act on. Safe: no run reaches it, since step puts a split in focus before it executes a word. -/
  | noIssuingSplit
  /-- Raised by every event row when the event at hand (`State.ev`) is not of that row: there is no such event to act on.
  Safe: no run reaches it, since step puts the event in hand before it executes its row. -/
  | noEventAtHand
  deriving DecidableEq, Repr

/-- Why an instruction has no meaning here. -/
inductive Refusal where
  /-- Raised by exec for an instruction whose meaning is not written. Safe. -/
  | notModelled (mnemonic : String)
  deriving DecidableEq, Repr

/-- The device. -/
structure State where
  /-- device cycle, counted from the first cycle of frame 0 (R11) -/
  g : Nat
  /-- events to come, each with its cycle: those the device has scheduled and those the outside will cause -/
  agenda : List (Nat × Event)
  /-- the event at hand: the one an event row of the table acts on -/
  ev : Option Event
  /-- cores that have issued in this cycle (R45) -/
  issued : List Nat
  /-- operations that have ended in this cycle, and arms delivered in it, by core and seat (R263, R314) -/
  freed : List Op
  freedArms : List (Nat × Nat)
  cur : Focus
  mem : Memory
  hostMem : Memory
  peerMem : Memory
  teams : List Team
  grids : List Grid
  ops : List Op
  reqs : List Req
  walks : List Walk
  faults : List FaultRec
  seats : List Seat
  slots : List (Nat × RingSlot)
  arms : List Arm
  pairs : List PlanePair
  passes : List Pass
  /-- cores whose matrix engine is fenced (R294); links that are fenced (R403) -/
  fencedMx : List Nat
  fencedLinks : List Nat
  /-- last row injection per (core, seat): its cycle and key (R291) -/
  lastRow : List ((Nat × Nat) × (Nat × RowKey))
  /-- ports and positions taken: core or structure, port or use (0 claimed, 2 spent), cycle (R14, R18, R87) -/
  ports : List (Nat × Nat × Nat)
  /-- corrected-error count of each core (R76) -/
  corrected : SMap Nat
  /-- frames not to be reused once unmapped (R403) -/
  badFrames : List Nat
  queues : List Queue
  completions : List Completion
  /-- completions written per queue (R385) -/
  cqSeq : SMap Nat
  /-- doorbell counts per function (R381) -/
  doors : SMap W32
  /-- run-mode records per region (R391); regions held by PREEMPT (R392) -/
  runModes : List (Nat × W64)
  preempted : List Nat
  host : HostRegs
  /-- messages in the mailboxes of the management cores, in their order of arrival, and messages whose sender waits for a mailbox (R414) -/
  mail : List Mail
  mailWait : List Mail
  /-- accesses from outside on their way (R408, R413) -/
  visits : List Visit
  windows : List Window
  power : Power
  link : Link
  /-- base of the address-space table (R349) -/
  asBase : Nat
  /-- identifiers: next operation, request, team, grid, walk, fault, wait, pass -/
  nextOp : Nat
  nextId : Nat
  /-- next index of a free value (log 5) -/
  draws : Nat
  deriving DecidableEq, Repr

/-- The device right after reset: nothing seated, nothing running, DEVSTAT Reset, all links down. -/
def State.reset : State where
  g := 0
  agenda := []
  ev := none
  issued := []
  freed := []
  freedArms := []
  cur := {}
  mem := []
  hostMem := []
  peerMem := []
  teams := []
  grids := []
  ops := []
  reqs := []
  walks := []
  faults := []
  seats := []
  slots := []
  arms := []
  pairs := []
  passes := []
  fencedMx := []
  fencedLinks := []
  lastRow := []
  ports := []
  corrected := []
  badFrames := []
  queues := []
  completions := []
  cqSeq := []
  doors := []
  runModes := []
  preempted := []
  host := {}
  mail := []
  mailWait := []
  visits := []
  windows := []
  power := {}
  link := {}
  asBase := 0
  nextOp := 0
  nextId := 0
  draws := 0

end Sys2Proof.Machine
end

