-- ==== Sys2Proof/Machine/Ops.lean ====
section
/-!
DEFINITION. Named operations over the state: registers of the group in focus, byte memories, seats and their clock, the
agenda, the event log, operations in flight, and TAKING A TRAP and RETURNING from one (R333-R343), written once.
-/

namespace Sys2Proof.Machine

open Sys2Proof

/-! ### Bits and lanes -/

/-- Sign-extend to 64 bits (R5). -/
def sext64 {n : Nat} (x : BitVec n) : W64 := x.signExtend 64
/-- Zero-extend to 64 bits (R5). -/
def zext64 {n : Nat} (x : BitVec n) : W64 := x.zeroExtend 64
/-- `Concat(hi, lo)` of two words (R5). -/
def pair64 (hi lo : W32) : W64 := hi ++ lo
/-- Bits [31:0] and [63:32]. -/
def lo32 (x : W64) : W32 := x.truncate 32
def hi32 (x : W64) : W32 := (x >>> 32).truncate 32

/-- The lanes of a group, lowest first. -/
def allLanes : List Nat := List.range 32
/-- The lowest lane of a mask. -/
def lowestLane (m : LaneMask) : Nat := (allLanes.find? fun L => m.getLsbD L).getD 0

/-- The mask of the lanes that satisfy `p`. -/
def maskOf (p : Nat → Bool) : LaneMask :=
  allLanes.foldl (fun m L => if p L then m ||| (1#32 <<< L) else m) 0

/-- The lanes of a mask, lowest first. -/
def lanesOf (m : LaneMask) : List Nat := allLanes.filter fun L => m.getLsbD L

/-- All ones when `b`, else zero: the value scmp, eacq.try and launch.try write (R196). -/
def allBits (b : Bool) : LaneMask := if b then BitVec.allOnes 32 else 0

/-- The code of a trap kind (R332). -/
def trapCode : TrapKind → Nat
  | .illegalInstruction => 1 | .registerUncorrectable => 2 | .registerParity => 3 | .deadRead => 4
  | .environmentRead => 5 | .nestOverflow => 6 | .tileFormat => 7 | .tileLive => 8 | .ringNotOwned => 9
  | .ringOpForbidden => 10 | .misaligned => 11 | .accessFault => 12 | .translationFault => 13
  | .memoryUncorrectable => 14 | .matrixLasting => 15 | .softwareTrap => 16 | .breakpoint => 17

/-- An IllegalInstruction with its cause (R186). -/
def illegal (cause : Nat) : TrapReq := { kind := .illegalInstruction, cause := cause }
/-- A trap that concerns no lane. -/
def trapOf (k : TrapKind) : TrapReq := { kind := k }
/-- A trap of a lane (R7). -/
def laneTrap (k : TrapKind) (L : Nat) : TrapReq := { kind := k, lane := L }

/-- The trap reported among several: the lowest kind code, then the lowest cause, then the lowest lane (R7, R187, R332). -/
def firstTrap : List TrapReq → Option TrapReq
  | [] => none
  | t :: ts =>
    match firstTrap ts with
    | none => some t
    | some u =>
      if trapCode u.kind < trapCode t.kind ∨ (trapCode u.kind = trapCode t.kind
          ∧ (u.cause < t.cause ∨ (u.cause = t.cause ∧ u.lane < t.lane))) then some u
      else some t
/-- As `firstTrap`, with one trap at hand. -/
def worstTrap (t : TrapReq) (ts : List TrapReq) : TrapReq := (firstTrap (t :: ts)).getD t

/-- Insert into a list in order, before its equals. -/
def insertBy {α : Type} (before : α → α → Bool) (a : α) : List α → List α
  | [] => [a]
  | b :: bs => if before b a then b :: insertBy before a bs else a :: b :: bs
/-- Sort a list; equals keep their order. -/
def sortBy {α : Type} (before : α → α → Bool) (l : List α) : List α := l.foldr (insertBy before) []

/-! ### Registers (R58, R59) -/

/-- S[n]: s0 reads zero. -/
def Regs.getS (r : Regs) (n : Nat) : W64 := if n = 0 then 0 else SMap.get 0 r.s n
/-- V[n][L]. -/
def Regs.getV (r : Regs) (n L : Nat) : W32 := SMap.get 0 r.v (32 * n + L)
/-- C[n]: c7 reads all ones. -/
def Regs.getC (r : Regs) (n : Nat) : LaneMask := if n = 7 then BitVec.allOnes 32 else SMap.get 0 r.c n
/-- Nest[L]. -/
def Regs.getN (r : Regs) (L : Nat) : Byte := SMap.get 0 r.nest L
/-- S[n] := v; a write to s0 is discarded. -/
def Regs.setS (r : Regs) (n : Nat) (v : W64) : Regs := if n = 0 then r else { r with s := SMap.set 0 r.s n v }
/-- V[n][L] := v. -/
def Regs.setV (r : Regs) (n L : Nat) (v : W32) : Regs := { r with v := SMap.set 0 r.v (32 * n + L) v }
/-- C[n] := v; c7 is no register that can be written. -/
def Regs.setC (r : Regs) (n : Nat) (v : LaneMask) : Regs := if n = 7 then r else { r with c := SMap.set 0 r.c n v }
/-- Nest[L] := v. -/
def Regs.setN (r : Regs) (L : Nat) (v : Byte) : Regs := { r with nest := SMap.set 0 r.nest L v }

/-- V[n][L] := f L for the lanes listed. -/
def Regs.setVs (r : Regs) (n : Nat) (lanes : List Nat) (f : Nat → W32) : Regs :=
  lanes.foldl (fun r L => r.setV n L (f L)) r

/-- The group the word at hand reads: as the unit found it (R188). -/
def State.srcG (s : State) : Group := s.cur.src.getD s.cur.group
/-- The registers the word at hand reads. -/
def State.src (s : State) : Regs := s.srcG.regs

def State.rS (s : State) (n : Nat) : W64 := s.src.getS n
def State.rV (s : State) (n L : Nat) : W32 := s.src.getV n L
/-- VP[n][L] (R5). -/
def State.rP (s : State) (n L : Nat) : W64 := pair64 (s.src.getV (n + 1) L) (s.src.getV n L)
def State.rC (s : State) (n : Nat) : LaneMask := s.src.getC n
def State.rN (s : State) (L : Nat) : Byte := s.src.getN L

/-- Change the group in focus. -/
def State.onGroup (s : State) (f : Group → Group) : State := { s with cur := { s.cur with group := f s.cur.group } }
/-- Change the team in focus. -/
def State.onTeam (s : State) (f : Team → Team) : State := { s with cur := { s.cur with team := f s.cur.team } }
/-- Change the registers of the group in focus. -/
def State.onRegs (s : State) (f : Regs → Regs) : State := s.onGroup fun g => { g with regs := f g.regs }

/-- Keys of the error marks: scalars, conditions and the nesting counters (R58, R76); vector n has key n. -/
def markS (n : Nat) : Nat := 128 + n
def markC (n : Nat) : Nat := 192 + n
def markN : Nat := 200
/-- Marks of one key, kept in the lanes of a mask. -/
def keepMarks (m : SMap LaneMask) (k : Nat) (keep : LaneMask) : SMap LaneMask := SMap.set 0 m k (SMap.get 0 m k &&& keep)
/-- What is written loses its error marks (R77, R79). -/
def Group.unmark (g : Group) (k : Nat) (lanes : LaneMask) : Group :=
  { g with
    poison := keepMarks g.poison k (~~~lanes)
    parity := keepMarks g.parity k (~~~lanes)
    flips := keepMarks g.flips k (~~~lanes) }

/-- S[n] := v; a write to s0 is discarded. -/
def Group.wS (g : Group) (n : Nat) (v : W64) : Group :=
  if n = 0 then g else { g.unmark (markS n) (BitVec.allOnes 32) with regs := g.regs.setS n v }
/-- C[n] := v; c7 is no register that can be written. -/
def Group.wC (g : Group) (n : Nat) (v : LaneMask) : Group :=
  if n = 7 then g else { g.unmark (markC n) (BitVec.allOnes 32) with regs := g.regs.setC n v }
/-- Nest[L] := v. -/
def Group.wN (g : Group) (L : Nat) (v : Byte) : Group := { g.unmark markN (1#32 <<< L) with regs := g.regs.setN L v }
/-- V[n][L] := f L for the lanes listed. -/
def Group.wVs (g : Group) (n : Nat) (lanes : List Nat) (f : Nat → W32) : Group :=
  { g.unmark n (maskOf fun L => lanes.contains L) with regs := g.regs.setVs n lanes f }

def State.wS (s : State) (n : Nat) (v : W64) : State := s.onGroup fun g => g.wS n v
def State.wC (s : State) (n : Nat) (v : LaneMask) : State := s.onGroup fun g => g.wC n v
def State.wN (s : State) (L : Nat) (v : Byte) : State := s.onGroup fun g => g.wN L v
/-- VP[n][L] := f L for the lanes listed. -/
def Group.wPs (g : Group) (n : Nat) (lanes : List Nat) (f : Nat → W64) : Group :=
  (g.wVs n lanes fun L => lo32 (f L)).wVs (n + 1) lanes fun L => hi32 (f L)
def State.wVs (s : State) (n : Nat) (lanes : List Nat) (f : Nat → W32) : State := s.onGroup fun g => g.wVs n lanes f
def State.wPs (s : State) (n : Nat) (lanes : List Nat) (f : Nat → W64) : State := s.onGroup fun g => g.wPs n lanes f

/-- The split with index `i`. -/
def findSplit (i : Nat) (l : List Split) : Option Split := l.find? fun p => p.idx == i
/-- Change the split with index `i`. -/
def mapSplit (i : Nat) (f : Split → Split) (l : List Split) : List Split :=
  l.map fun p => if p.idx = i then f p else p

/-- Lanes of the issuing split, as the unit found it. -/
def State.lanes (s : State) : LaneMask :=
  match findSplit s.cur.split s.srcG.splits with
  | some p => p.lanes
  | none => 0

/-- Active(L) (R5, R49): the counter is 0 and the lane belongs to the issuing split. -/
def State.isActive (s : State) (L : Nat) : Bool := s.lanes.getLsbD L && decide (s.rN L = 0)
/-- The active lanes, lowest first. -/
def State.active (s : State) : List Nat := allLanes.filter s.isActive
/-- The mask of the active lanes. -/
def State.activeMask (s : State) : LaneMask := maskOf s.isActive
/-- Some lane is active. -/
def State.anyActive (s : State) : Bool := allLanes.any s.isActive

/-- The issuing split. -/
def State.onSplit (s : State) (f : Split → Split) : State :=
  s.onGroup fun g => { g with splits := mapSplit s.cur.split f g.splits }
/-- Move the issuing split to a packet and slot (R204). -/
def State.goto (s : State) (pkt : W64) (slot : Nat) : State :=
  s.onSplit fun p => { p with pkt := pkt, slot := slot, fetched := if pkt = p.pkt then p.fetched else none }
/-- A transfer of control (R204): the split's next issue is 3 cycles on (R54). -/
def State.branch (s : State) (pkt : W64) (slot : Nat) : State :=
  s.onSplit fun p => { p with pkt := pkt, slot := slot, notBefore := s.g + 3, fetched := none }
/-- Block the issuing split (R44). -/
def State.block (s : State) (b : Block) : State := s.onSplit fun p => { p with block := b }
/-- Leave the split at the unit at hand, to execute it again. -/
def State.stay (s : State) : State := s.goto s.cur.pkt s.cur.unitSlot

/-- Change the splits of a group, those it keeps while its handler runs among them (R333). -/
def Group.onSplits (g : Group) (f : Split → Split) : Group := { g with splits := g.splits.map f, kept := g.kept.map f }
/-- The splits of a group, those kept among them. -/
def Group.allSplits (g : Group) : List Split := g.splits ++ g.kept
/-- A blocked split goes on from the cycle after `cycle`. -/
def Split.resume (p : Split) (cycle : Nat) : Split := { p with block := .free, notBefore := max p.notBefore (cycle + 1) }

/-- Lanes of a group at nest 255 (R49). -/
def Group.retiredMask (g : Group) : LaneMask := maskOf fun L => g.regs.getN L == 255

/-- An address is canonical (R83): the exact sum fits 64 bits and bits [63:57] each equal bit 56. -/
def canonical (a : Int) : Bool := (0 ≤ a && a < 2 ^ 56) || (2 ^ 64 - 2 ^ 56 ≤ a && a < 2 ^ 64)

/-! ### Byte memories -/

/-- The byte at an address; an unlisted byte reads as zero (log 1). -/
def Memory.get (m : Memory) (a : Nat) : Byte := SMap.get 0 m a
/-- Write one byte, keeping the canonical form. -/
def Memory.put (m : Memory) (a : Nat) (b : Byte) : Memory := SMap.set 0 m a b
/-- `n` bytes from address `a`, lowest address first. -/
def Memory.bytes (m : Memory) (a n : Nat) : List Byte := (List.range n).map fun k => Memory.get m (a + k)
/-- Write bytes from address `a` upward. -/
def Memory.putBytes (m : Memory) (a : Nat) : List Byte → Memory
  | [] => m
  | b :: bs => Memory.putBytes (Memory.put m a b) (a + 1) bs
/-- `n` bytes as a little-endian number (R2). -/
def Memory.read (m : Memory) (a n : Nat) : Nat := wordOfBytes (Memory.bytes m a n)
/-- Write a number as `n` little-endian bytes (R2). -/
def Memory.write (m : Memory) (a n v : Nat) : Memory := Memory.putBytes m a (bytesOf n v)
def Memory.read32 (m : Memory) (a : Nat) : W32 := BitVec.ofNat 32 (Memory.read m a 4)
def Memory.read64 (m : Memory) (a : Nat) : W64 := BitVec.ofNat 64 (Memory.read m a 8)

/-- Bytes at a physical place. A peer's memory is keyed port · 2^45 + address (R412). -/
def State.readAt (s : State) (p : Phys) (n : Nat) : Nat :=
  match p with
  | .dev a => Memory.read s.mem a n
  | .host a => Memory.read s.hostMem a n
  | .peer q a => Memory.read s.peerMem (q * 2 ^ 45 + a) n
/-- Write bytes at a physical place. -/
def State.writeAt (s : State) (p : Phys) (bs : List Byte) : State :=
  match p with
  | .dev a => { s with mem := Memory.putBytes s.mem a bs }
  | .host a => { s with hostMem := Memory.putBytes s.hostMem a bs }
  | .peer q a => { s with peerMem := Memory.putBytes s.peerMem (q * 2 ^ 45 + a) bs }
/-- The memories as they stand. -/
def State.store (s : State) : Store := { dev := s.mem, host := s.hostMem, peer := s.peerMem }
/-- Bytes at a physical place of memories kept. -/
def Store.bytes (m : Store) (p : Phys) (n : Nat) : List Byte :=
  match p with
  | .dev a => Memory.bytes m.dev a n
  | .host a => Memory.bytes m.host a n
  | .peer q a => Memory.bytes m.peer (q * 2 ^ 45 + a) n
/-- The place `k` bytes on. -/
def Phys.add : Phys → Nat → Phys
  | .dev a, k => .dev (a + k)
  | .host a, k => .host (a + k)
  | .peer p a, k => .peer p (a + k)
/-- The address inside its memory. -/
def Phys.addr : Phys → Nat
  | .dev a => a
  | .host a => a
  | .peer _ a => a
/-- The 128-byte line of a place. -/
def Phys.line : Phys → Phys
  | .dev a => .dev (a / 128 * 128)
  | .host a => .host (a / 128 * 128)
  | .peer p a => .peer p (a / 128 * 128)
/-- A place in a peer's memory (R412). -/
def Phys.isPeer : Phys → Bool
  | .peer _ _ => true
  | _ => false
/-- A place in device DRAM. -/
def Phys.isDev : Phys → Bool
  | .dev _ => true
  | _ => false
/-- The place is in host memory. -/
def Phys.isHost : Phys → Bool
  | .host _ => true
  | _ => false

/-! ### The agenda -/

/-- Schedule an event for cycle `c`. -/
def State.at (s : State) (c : Nat) (e : Event) : State := { s with agenda := s.agenda ++ [(c, e)] }
/-- Schedule an event for this cycle. -/
def State.now (s : State) (e : Event) : State := s.at s.g e
/-- A fresh identifier. -/
def State.fresh (s : State) : Nat × State := (s.nextId, { s with nextId := s.nextId + 1 })
/-- A free number of cycles firmware takes (log 5). -/
def State.draw (s : State) : Nat × State := (Config.firmwareDelay s.draws, { s with draws := s.draws + 1 })

/-- Splits all of whose lanes are retired end (R48). When all 32 lanes of the group are retired the group ends (R50): its
resources return in the cycle after its last operation, and it stops counting at a regroup point (R231). -/
def State.retire (s : State) : State :=
  let g := s.cur.group
  let gone := g.retiredMask
  let s := s.onGroup fun g => { g with
    splits := g.splits.filter fun p => p.lanes &&& ~~~gone != 0
    ended := g.ended || gone == BitVec.allOnes 32 }
  if gone = BitVec.allOnes 32 then
    (s.at (s.g + 1) (.groupEnd s.cur.team.id g.gid)).now (.regroupComplete s.cur.team.id)
  else s

/-! ### Teams and groups out of focus -/

def State.findTeam (s : State) (id : Nat) : Option Team := s.teams.find? fun t => t.id == id
def State.mapTeam (s : State) (id : Nat) (f : Team → Team) : State :=
  { s with teams := s.teams.map fun t => if t.id = id then f t else t }
def Team.findGroup (t : Team) (gid : Nat) : Option Group := t.groups.find? fun g => g.gid == gid
def Team.mapGroup (t : Team) (gid : Nat) (f : Group → Group) : Team :=
  { t with groups := t.groups.map fun g => if g.gid = gid then f g else g }
def State.findGroup (s : State) (id gid : Nat) : Option Group :=
  match s.findTeam id with
  | some t => t.findGroup gid
  | none => none
def State.mapGroup (s : State) (id gid : Nat) (f : Group → Group) : State := s.mapTeam id fun t => t.mapGroup gid f

/-- Put a split of a team into focus; its group leaves the team's list while it is there. -/
def State.focus (s : State) (t : Team) (g : Group) (sp : Nat) : State :=
  { s with
    teams := s.teams.filter fun u => u.id != t.id
    cur := { live := true, team := { t with groups := t.groups.filter fun h => h.gid != g.gid }, group := g, split := sp } }

/-- Insert a group into a team's list in order of its id. -/
def insertGroup (g : Group) : List Group → List Group
  | [] => [g]
  | h :: hs => if g.gid < h.gid then g :: h :: hs else h :: insertGroup g hs
/-- Insert a team in order of its identifier. -/
def insertTeam (t : Team) : List Team → List Team
  | [] => [t]
  | u :: us => if t.id < u.id then t :: u :: us else u :: insertTeam t us

/-- Put the team in focus back. -/
def State.unfocus (s : State) : State :=
  if s.cur.live then
    { s with
      teams := insertTeam { s.cur.team with groups := insertGroup s.cur.group s.cur.team.groups } s.teams
      cur := {} }
  else s

/-! ### Seats and their clock -/

def State.findSeat (s : State) (n : Nat) : Option Seat := s.seats.find? fun x => x.num == n
def State.mapSeat (s : State) (n : Nat) (f : Seat → Seat) : State :=
  { s with seats := s.seats.map fun x => if x.num = n then f x else x }

/-- %oclk of a seat (R15, R23, R29). -/
def Seat.oclk (x : Seat) (g : Nat) : Nat :=
  let left := if x.switching then (x.fns.find? fun f => f.vf == x.vf).bind (·.oclk) else none
  x.frozen.getD (left.getD (g - x.base))
def State.oclk (s : State) (n : Nat) : Nat :=
  match s.findSeat n with
  | some x => x.oclk s.g
  | none => 0
/-- The ring offset ρ (R308). -/
def Seat.rho (x : Seat) (g : Nat) : Nat := (g + Config.revolution * g - x.oclk g) % Config.revolution
def Seat.core? (x : Seat) (c : Nat) : Option CoreRec := x.pl.cores.find? fun r => r.core == c
/-- The seat may issue: seated, not stopped, not switching (R15, R23, R24). -/
def Seat.running (x : Seat) : Bool := x.seated && x.frozen.isNone && !x.switching
/-- Device rota entries the seat uses in a frame: its own without those lent, plus those borrowed (R19, R32). -/
def Seat.rotaMap (x : Seat) (frame : Nat) : W64 :=
  if x.lease.v && decide (x.lease.first ≤ frame) && decide (frame < x.lease.first + x.lease.count) then
    if x.lease.lend then x.pl.dmap &&& ~~~x.lease.lmap else x.pl.dmap ||| x.lease.lmap
  else x.pl.dmap

/-! ### The event log (R341) -/

/-- The 256 bits of an event-log entry. -/
def eventEntry (oclk : Nat) (detail : W64) (added : Nat) (seq : W32) (rho core : Nat) (lost inj freeze : Bool) (ev : Nat) :
    List Byte :=
  bytesOf 8 (ev % 256 + bit freeze * 2 ^ 8 + bit inj * 2 ^ 9 + bit lost * 2 ^ 10 + core % 256 * 2 ^ 40 + rho % 512 * 2 ^ 48)
    ++ bytesOf 4 seq.toNat ++ bytesOf 4 (added % 2 ^ 32) ++ bytesOf 8 detail.toNat ++ bytesOf 8 (oclk % 2 ^ 64)

/-- Write an entry of a seat's log at entry HEAD mod 1,024; a full log overwrites its oldest entry and marks LOST. TAIL moves by
seatctl.evack alone (R337). -/
def State.logEvent (s : State) (seat ev core : Nat) (oclk : Nat) (detail : W64) (added : Nat := 0) (freeze inj : Bool := false) :
    State :=
  match s.findSeat seat with
  | none => s
  | some x =>
    let lost := decide (1024 ≤ (x.evHead - x.evTail).toNat)
    let e := eventEntry oclk detail added x.evHead (x.rho s.g) core lost inj freeze ev
    let s := { s with mem := Memory.putBytes s.mem (x.pl.evlog + 32 * (x.evHead.toNat % 1024)) e }
    s.mapSeat seat fun x => { x with evHead := x.evHead + 1 }

/-- Queue a completion for firmware to write (R385). Behind one of its queue that is held it is held too, and CQDONE is not read for it (R386). -/
def State.complete (s : State) (r : Region) (q status : Nat) (info : W64) : State :=
  let held := s.completions.any fun c => c.rcb == r.cqRcb
  let s := { s with completions := s.completions ++ [({ rcb := r.cqRcb, cqBase := r.cqBase, cqLog := r.cqLog, vf := r.vf, queue := q, status := status, info := info } : Completion)] }
  if held then s else s.now (.completionWrite r.cqRcb)

/-! ### Operations in flight -/

def State.findOp (s : State) (id : Nat) : Option Op := s.ops.find? fun o => o.id == id
def State.mapOp (s : State) (id : Nat) (f : Op → Op) : State :=
  { s with ops := s.ops.map fun o => if o.id = id then f o else o }

/-- Lanes of a register, by its scoreboard key, that no word in a higher slot of the operation's unit has written (R188). -/
def Op.keeps (o : Op) (k : Nat) : LaneMask := ~~~SMap.get (0 : LaneMask) o.lost k
/-- An operation's result lands in a scalar. -/
def Group.landS (g : Group) (o : Op) (n : Nat) (v : W64) : Group := if o.keeps n = 0 then g else g.wS n v
/-- An operation's result lands in a condition register. -/
def Group.landC (g : Group) (o : Op) (n : Nat) (v : LaneMask) : Group :=
  g.wC n ((g.regs.getC n &&& ~~~o.keeps (64 + n)) ||| (v &&& o.keeps (64 + n)))
/-- An operation's result lands in the lanes of a vector register. -/
def Group.landV (g : Group) (o : Op) (n : Nat) (f : Nat → W32) : Group := g.wVs n (lanesOf (o.active &&& o.keeps (128 + n))) f

/-- Change one count by a function (R63). -/
def Counts.map (c : Counts) (k : CountKind) (f : Nat → Nat) : Counts :=
  match k with
  | .none => c
  | .loads => { c with loads := f c.loads }
  | .stores => { c with stores := f c.stores }
  | .copies => { c with copies := f c.copies }
  | .tiles => { c with tiles := f c.tiles }

/-- Change a group wherever it stands, in focus or not. -/
def State.anyGroup (s : State) (id gid : Nat) (f : Group → Group) : State :=
  if s.cur.live && s.cur.team.id == id then
    if s.cur.group.gid = gid then s.onGroup f else s.onTeam fun t => t.mapGroup gid f
  else s.mapGroup id gid f
/-- Change a team wherever it stands. -/
def State.anyTeam (s : State) (id : Nat) (f : Team → Team) : State :=
  if s.cur.live && s.cur.team.id == id then s.onTeam f else s.mapTeam id f
/-- A team wherever it stands (without the group in focus). -/
def State.getTeam (s : State) (id : Nat) : Option Team :=
  if s.cur.live && s.cur.team.id == id then some s.cur.team else s.findTeam id

/-- Place an operation of the word at hand in flight; the word's count rises (R245). Answers its identifier. -/
def State.launchOp (s : State) (o : Op) : State :=
  let c := s.cur
  let o := { o with
    id := s.nextOp, seat := c.team.seat, core := c.team.core, team := c.team.id, gid := c.group.gid, split := c.split
    word := c.word, pkt := c.pkt, slot := c.slot, t0 := s.oclk c.team.seat, issued := s.g
    sup := s.srcG.level == .supervisor
    underLog := s.ops.any fun p => p.team == c.team.id && p.gid == c.group.gid && p.inLog }
  let s := { s with ops := s.ops ++ [o], nextOp := s.nextOp + 1 }
  s.onGroup fun g => { g with counts := g.counts.map o.count (· + 1) }

/-- Ask whether a portable grid's commit may take place (R397). -/
def State.pokeCommit (s : State) (grid : Nat) : State :=
  if s.agenda.any fun e => match e.2 with
      | .quantumCommit g _ => g == grid && decide (e.1 ≤ s.g)
      | _ => false then s
  else s.now (.quantumCommit grid [])

/-- An operation is over: it leaves the list, its count falls, its registers are no longer pending, and waits on the
counts and on the group's end are looked at again. -/
def State.finishOp (s : State) (id : Nat) : State :=
  match s.findOp id with
  | none => s
  | some o =>
    let s := { s with ops := s.ops.filter fun p => p.id != id, freed := o :: s.freed }
    let s := s.anyGroup o.team o.gid fun g =>
      { g with
        counts := g.counts.map o.count (· - 1)
        board := { g.board with busy := g.board.busy.filter fun b => b.2 != id } }
    let s := if (s.getTeam o.team).any fun (t : Team) => t.regroup.isSome then s.now (.regroupComplete o.team) else s
    let s := match s.getTeam o.team with
      | some t => if t.mode.port then s.pokeCommit t.grid else s
      | none => s
    ((s.now (.waitcResume o.team o.gid)).at (s.g + 1) (.groupEnd o.team o.gid)).now (.drainComplete o.team)

/-- Lanes of an operation whose requests are in the network and have not performed. -/
def State.inFlight (s : State) (id : Nat) : LaneMask :=
  (s.reqs.filter fun r => r.owner == id && !r.performed && (r.kind == .load || r.kind == .store || r.kind == .atomic)).foldl (fun m r => m ||| r.lanes) 0

/-- Operand log entries a group holds (R340). -/
def State.logCount (s : State) (team gid : Nat) : Nat :=
  (s.ops.filter fun o => o.team == team && o.gid == gid && o.inLog).length

/-- The lowest free entry number of a group's operand log. -/
def State.freeLog (s : State) (team gid : Nat) : Option Nat :=
  (List.range 4).find? fun k => !(s.ops.any fun o => o.team == team && o.gid == gid && o.inLog && o.logIdx == k)

/-! ### Taking a trap and returning from one (R330-R343) -/

/-- A place in code as %tpc and %tret hold it (R335). -/
def placeBits (pkt : W64) (slot : Nat) : W64 := (pkt &&& ~~~15#64) ||| BitVec.ofNat 64 slot

/-- %tkind (R336). -/
def kindBits (t : TrapReq) (defer : Bool) : W64 :=
  BitVec.ofNat 64 (trapCode t.kind + t.cause % 16 * 256 + t.lane % 32 * 65536 + bit defer * 16777216)

/-- The counters of quarter `q` as %nestq and %tnestsave hold them (R61). -/
def nestBits (r : Regs) (q : Nat) : W64 :=
  BitVec.ofNat 64 (wordOfBytes ((List.range 8).map fun j => r.getN (8 * q + j)))

/-- Trap entry of a group (R333): what the trap registers hold, the counters saved and cleared, one supervisor split of
all lanes at the handler. `ret` is the place eret resumes at. -/
def Group.enterTrap (g : Group) (t : TrapReq) (defer : Bool) (retPkt : W64) (retSlot : Nat) (logCount : Nat) (split : Nat)
    (handler : W64) (mem : Store) (cycle : Nat) : Group :=
  { g with
    trap := { g.trap with
      tpc := placeBits t.pkt t.slot
      tword := zext64 t.word
      tkind := kindBits t defer
      tdone := zext64 t.done
      tlog := BitVec.ofNat 64 (t.logIndex % 8 + logCount % 8 * 16)
      nestsave := [0, 1, 2, 3].foldl (fun m q => SMap.set 0 m q (nestBits g.regs q)) []
      tret := placeBits retPkt retSlot }
    retired := maskOf fun L => g.regs.getN L == 255
    regs := { g.regs with nest := [] }
    poison := keepMarks g.poison markN 0
    parity := keepMarks g.parity markN 0
    flips := keepMarks g.flips markN 0
    kept := g.splits
    trapSplit := split
    splits := [{ idx := 0, lanes := BitVec.allOnes 32, pkt := handler &&& ~~~15#64, slot := 0 }]
    level := .supervisor
    handlerCode := some { at_ := mem }
    notBefore := cycle + Config.trapCycles }

/-- End a team as halt does (R347): no group issues again, EVENT 32 is written, and the team ends once its outstanding
work is complete. -/
def State.haltTeam (s : State) (team reason : Nat) (detail : W64) : State :=
  match s.getTeam team with
  | none => s
  | some t =>
    if t.halting.isSome then s
    else
      let s := s.anyTeam team fun t => { t with halting := some reason }
      let s := s.logEvent t.seat 32 t.core (s.oclk t.seat) detail
      (s.now (.drainComplete team)).now (.teamEnd team)

/-- A trap that no handler takes (R331): the team, or with KGRID the whole grid, ends; the record and the completion. -/
def State.unhandled (s : State) (t : TrapReq) : State :=
  let tm := s.cur.team
  let detail : W64 := BitVec.ofNat 64 (0xFFFB + trapCode t.kind * 65536)
  let s := s.haltTeam tm.id 0xFFFB detail
  let s := if tm.region.kgrid then
      (s.teams.filter fun u => u.grid == tm.grid).foldl (fun s u => s.haltTeam u.id 0xFFFB detail) s
    else s
  s.complete tm.region 0 8 detail

/-- SoftwareTrap and Breakpoint: their %tret names the next unit, and the unit's other words take effect first (R211). -/
def TrapReq.after (t : TrapReq) : Bool := t.kind == .softwareTrap || t.kind == .breakpoint

/-- TAKE A TRAP of the group in focus. At user level with a handler the group enters it; with none the team ends (R331); a
trap raised at supervisor level, a deferred one of a word that issued there among them, ends the team, and its kind and place go
to the event log (R339, log 11). -/
def State.takeTrap (s : State) (t : TrapReq) (defer : Bool) : State :=
  let c := s.cur
  match if t.sup then .supervisor else c.group.level, c.team.region.handler with
  | .user, some h =>
    let ret : W64 × Nat := if t.after then (c.nextPkt, c.nextSlot) else (c.pkt, c.unitSlot)
    s.onGroup fun g => g.enterTrap t defer ret.1 ret.2 (s.logCount c.team.id g.gid) c.split h s.store s.g
  | .user, none => s.unhandled t
  | .supervisor, _ =>
    let s := s.haltTeam c.team.id 0xFFFF (BitVec.ofNat 64 (0xFFFF + trapCode t.kind * 65536))
    s.logEvent c.team.seat 32 c.team.core (s.oclk c.team.seat) (placeBits t.pkt t.slot)

/-- A trap of the word at hand: it names the word, its packet and its slot. -/
def State.trapWord (s : State) (t : TrapReq) : State :=
  let t := { t with word := s.cur.word, pkt := s.cur.pkt, slot := s.cur.slot }
  let s := { s with cur := { s.cur with trap := some t } }
  s.takeTrap t false

/-- Order deferred traps by the age of the originating word (R338). -/
def insertTrap (t : TrapReq) : List TrapReq → List TrapReq
  | [] => [t]
  | u :: us => if t.age < u.age then t :: u :: us else u :: insertTrap t us

/-- Lanes of an operation that a deferred trap of a kind concerns (R7). -/
def Op.lanesBad (o : Op) : TrapKind → LaneMask
  | .translationFault => o.unres
  | .memoryUncorrectable => o.uncorr
  | _ => o.refused
/-- The deferred trap a group takes next: the oldest; while its handler runs, the oldest of the handler's own words (R338, R339). -/
def Group.owed (g : Group) : Option TrapReq :=
  match g.level with
  | .user => g.deferred.head?
  | .supervisor => g.deferred.find? fun t => t.sup
/-- Raise a deferred trap of an operation's word, in its lowest lane (R7, R338); the reads of a launch are no lane's. A team that drains or
ends no longer waits for the operation. -/
def State.defer (s : State) (o : Op) (k : TrapKind) : State :=
  let idx := if o.inLog then o.logIdx else 7
  let launch : Bool := match o.kind with
    | .launchRead _ _ _ => true
    | _ => false
  let m := o.lanesBad k
  let t : TrapReq := { kind := k, lane := if launch || m = 0 then 0 else lowestLane m, done := if launch then 0 else o.done, logIndex := idx, word := o.word, pkt := o.pkt, slot := o.slot, age := o.id, sup := o.sup }
  (s.anyGroup o.team o.gid fun g => { g with deferred := insertTrap t g.deferred }).now (.drainComplete o.team)

/-- RETURN FROM A TRAP (R343): the counters come back from %tnestsave (a lane that was retired stays retired), and lose their error
marks as any register written does (R77, R79); the user splits come back, and the split that trapped continues at %tret. -/
def Group.leaveTrap (g : Group) (cycle : Nat) : Group :=
  let nest := allLanes.foldl (fun (r : Regs) L =>
    let q := SMap.get (0 : W64) g.trap.nestsave (L / 8)
    let n : Byte := (q >>> (8 * (L % 8))).truncate 8
    r.setN L (if g.retired.getLsbD L then 255 else n)) { g.regs with nest := [] }
  { g.unmark markN (BitVec.allOnes 32) with
    regs := nest
    splits := mapSplit g.trapSplit
      (fun p => { p with pkt := g.trap.tret &&& ~~~15#64, slot := (g.trap.tret &&& 3#64).toNat }) g.kept
    kept := []
    level := .user
    handlerCode := none
    retired := 0
    stopped := []
    notBefore := cycle + Config.trapCycles }

end Sys2Proof.Machine
end

