-- ==== Sys2Proof/Machine/Operands.lean ====
section
/-!
DEFINITION. Operand forms: the b-selector (R182), the registers each word reads and writes, the register checks and bank
wakes every word makes (R38, R65, R68, R76, R77), and the frame in which every word's meaning runs.
-/

namespace Sys2Proof.Machine

open Sys2Proof

/-! ### The second operand (R182) -/

/-- B of an integer word in lane `L`. -/
def State.b32 (s : State) (b : BSel) (L : Nat) : W32 :=
  match b with
  | .vreg n => s.rV n L
  | .sreg n => lo32 (s.rS n)
  | .imm i => i.signExtend 32
  | .lit => s.cur.lit
/-- B of an F32 word in lane `L` (R232). -/
def State.bF32 (s : State) (b : BSel) (L : Nat) : W32 :=
  match b with
  | .imm i => BitVec.ofNat 32 (fp32.ofSmall i)
  | b => s.b32 b L
/-- B of an F64 word in lane `L` (R182, R232). -/
def State.bF64 (s : State) (b : BSel) (L : Nat) : W64 :=
  match b with
  | .vreg n => s.rP n L
  | .sreg n => s.rS n
  | .imm i => BitVec.ofNat 64 (fp64.ofSmall i)
  | .lit => rnd64 .rne (val32 s.cur.lit)
/-- B of a packed word in lane `L`: an immediate stands in both halves. -/
def State.bHalf (s : State) (f : Fp) (b : BSel) (L : Nat) : W32 :=
  match b with
  | .imm i => BitVec.ofNat 32 (f.ofSmall i * 65537)
  | b => s.b32 b L

/-! ### Registers of a word -/

/-- The registers a word names: scalars, conditions and vectors read (r) and written (w). -/
structure Use where
  rs : List Nat := []
  ws : List Nat := []
  rc : List Nat := []
  wc : List Nat := []
  rv : List Nat := []
  wv : List Nat := []
  deriving DecidableEq, Repr

/-- `k` registers from `n`. -/
def block (n k : Nat) : List Nat := (List.range k).map (n + ·)
/-- A register, or a pair. -/
def regs (n : Nat) (two : Bool) : List Nat := if two then [n, n + 1] else [n]
/-- Vector registers of a b-selector. -/
def vecsOf (b : BSel) (two : Bool) : List Nat :=
  match b with
  | .vreg n => regs n two
  | _ => []
/-- Scalar registers of a b-selector. -/
def scalsOf (b : BSel) : List Nat :=
  match b with
  | .sreg n => [n]
  | _ => []

/-- The registers each word reads and writes; events use none. -/
def uses : Instr → Use
  | .nop => {}
  | .sadd d a b => { ws := [d.val], rs := [a.val, b.val] }
  | .ssub d a b => { ws := [d.val], rs := [a.val, b.val] }
  | .smul d a b => { ws := [d.val], rs := [a.val, b.val] }
  | .smulhS d a b => { ws := [d.val], rs := [a.val, b.val] }
  | .smulhZ d a b => { ws := [d.val], rs := [a.val, b.val] }
  | .sand d a b => { ws := [d.val], rs := [a.val, b.val] }
  | .sor d a b => { ws := [d.val], rs := [a.val, b.val] }
  | .sxor d a b => { ws := [d.val], rs := [a.val, b.val] }
  | .sshl d a b => { ws := [d.val], rs := [a.val, b.val] }
  | .sshrZ d a b => { ws := [d.val], rs := [a.val, b.val] }
  | .sshrS d a b => { ws := [d.val], rs := [a.val, b.val] }
  | .sminS d a b => { ws := [d.val], rs := [a.val, b.val] }
  | .smaxS d a b => { ws := [d.val], rs := [a.val, b.val] }
  | .sminZ d a b => { ws := [d.val], rs := [a.val, b.val] }
  | .smaxZ d a b => { ws := [d.val], rs := [a.val, b.val] }
  | .ssltS d a b => { ws := [d.val], rs := [a.val, b.val] }
  | .ssltZ d a b => { ws := [d.val], rs := [a.val, b.val] }
  | .sseq d a b => { ws := [d.val], rs := [a.val, b.val] }
  | .saddi d a _ => { ws := [d.val], rs := [a.val] }
  | .sandi d a _ => { ws := [d.val], rs := [a.val] }
  | .sori d a _ => { ws := [d.val], rs := [a.val] }
  | .sxori d a _ => { ws := [d.val], rs := [a.val] }
  | .sshli d a _ => { ws := [d.val], rs := [a.val] }
  | .sshriZ d a _ => { ws := [d.val], rs := [a.val] }
  | .sshriS d a _ => { ws := [d.val], rs := [a.val] }
  | .slit d _ => { ws := [d.val] }
  | .slitwZ d => { ws := [d.val] }
  | .slitwS d => { ws := [d.val] }
  | .slitwLo d => { ws := [d.val], rs := [d.val] }
  | .slitwHi d => { ws := [d.val], rs := [d.val] }
  | .sgetsr d _ => { ws := [d.val] }
  | .ssetsr a _ => { rs := [a.val] }
  | .ssetsrSet a _ => { rs := [a.val] }
  | .ssetsrClr a _ => { rs := [a.val] }
  | .scmpEq d a b => { wc := [d.val], rs := [a.val, b.val] }
  | .scmpNe d a b => { wc := [d.val], rs := [a.val, b.val] }
  | .scmpLtS d a b => { wc := [d.val], rs := [a.val, b.val] }
  | .scmpLeS d a b => { wc := [d.val], rs := [a.val, b.val] }
  | .scmpLtZ d a b => { wc := [d.val], rs := [a.val, b.val] }
  | .scmpLeZ d a b => { wc := [d.val], rs := [a.val, b.val] }
  | .sext d a w _ => { ws := [d.val], rv := regs a.val (w == .x64) }
  | .sextFirst d a w => { ws := [d.val], rv := regs a.val (w == .x64) }
  | .sextLast d a w => { ws := [d.val], rv := regs a.val (w == .x64) }
  | .vins d a w _ => { wv := regs d.val (w == .x64), rs := [a.val] }
  | .vinsAll d a w => { wv := regs d.val (w == .x64), rs := [a.val] }
  | .vadd d a b => { wv := [d.val], rv := a.val :: vecsOf b false, rs := scalsOf b }
  | .vaddSatS d a b => { wv := [d.val], rv := a.val :: vecsOf b false, rs := scalsOf b }
  | .vaddSatZ d a b => { wv := [d.val], rv := a.val :: vecsOf b false, rs := scalsOf b }
  | .vsub d a b => { wv := [d.val], rv := a.val :: vecsOf b false, rs := scalsOf b }
  | .vsubSatS d a b => { wv := [d.val], rv := a.val :: vecsOf b false, rs := scalsOf b }
  | .vsubSatZ d a b => { wv := [d.val], rv := a.val :: vecsOf b false, rs := scalsOf b }
  | .vmul d a b => { wv := [d.val], rv := a.val :: vecsOf b false, rs := scalsOf b }
  | .vmulhS d a b => { wv := [d.val], rv := a.val :: vecsOf b false, rs := scalsOf b }
  | .vmulhZ d a b => { wv := [d.val], rv := a.val :: vecsOf b false, rs := scalsOf b }
  | .vminS d a b => { wv := [d.val], rv := a.val :: vecsOf b false, rs := scalsOf b }
  | .vminZ d a b => { wv := [d.val], rv := a.val :: vecsOf b false, rs := scalsOf b }
  | .vmaxS d a b => { wv := [d.val], rv := a.val :: vecsOf b false, rs := scalsOf b }
  | .vmaxZ d a b => { wv := [d.val], rv := a.val :: vecsOf b false, rs := scalsOf b }
  | .vand d a b => { wv := [d.val], rv := a.val :: vecsOf b false, rs := scalsOf b }
  | .vor d a b => { wv := [d.val], rv := a.val :: vecsOf b false, rs := scalsOf b }
  | .vxor d a b => { wv := [d.val], rv := a.val :: vecsOf b false, rs := scalsOf b }
  | .vandn d a b => { wv := [d.val], rv := a.val :: vecsOf b false, rs := scalsOf b }
  | .vshl d a b => { wv := [d.val], rv := a.val :: vecsOf b false, rs := scalsOf b }
  | .vshrZ d a b => { wv := [d.val], rv := a.val :: vecsOf b false, rs := scalsOf b }
  | .vshrS d a b => { wv := [d.val], rv := a.val :: vecsOf b false, rs := scalsOf b }
  | .vrot d a b => { wv := [d.val], rv := a.val :: vecsOf b false, rs := scalsOf b }
  | .vlut3 d a b => { wv := [d.val], rv := d.val :: a.val :: vecsOf b false, rs := scalsOf b }
  | .vpopc d a => { wv := [d.val], rv := [a.val] }
  | .vclz d a => { wv := [d.val], rv := [a.val] }
  | .vctz d a => { wv := [d.val], rv := [a.val] }
  | .vbrev d a => { wv := [d.val], rv := [a.val] }
  | .vbfxZ d a b => { wv := [d.val], rv := a.val :: vecsOf b false, rs := scalsOf b }
  | .vbfxS d a b => { wv := [d.val], rv := a.val :: vecsOf b false, rs := scalsOf b }
  | .vbfi d a b => { wv := [d.val], rv := d.val :: a.val :: vecsOf b false, rs := scalsOf b }
  | .vaddi d a _ => { wv := [d.val], rv := [a.val] }
  | .vcmp c a b _ => { wc := [c.val], rv := a.val :: vecsOf b false, rs := scalsOf b }
  | .vsel d a b c => { wv := [d.val], rv := [a.val, b.val], rc := [c.val] }
  | .vmov d a => { wv := [d.val], rv := [a.val] }
  | .vmovX64 d a => { wv := regs d.val true, rv := regs a.val true }
  | .vlit d _ => { wv := [d.val] }
  | .vlaneid d => { wv := [d.val] }
  | .vballot d c => { wv := [d.val], rc := [c.val] }
  | .vmrank d c => { wv := [d.val], rc := [c.val] }
  | .vmrankInc d c => { wv := [d.val], rc := [c.val] }
  | .vshflIdx d a b => { wv := [d.val], rv := a.val :: vecsOf b false, rs := scalsOf b }
  | .vshflUp d a b => { wv := [d.val], rv := a.val :: vecsOf b false, rs := scalsOf b }
  | .vshflDown d a b => { wv := [d.val], rv := a.val :: vecsOf b false, rs := scalsOf b }
  | .vshflXor d a b => { wv := [d.val], rv := a.val :: vecsOf b false, rs := scalsOf b }
  | .vfold d a _ => { ws := [d.val], rv := [a.val] }
  | .vscan d a _ _ => { wv := [d.val], rv := [a.val] }
  | .vregrp f n c _ => { rv := block f.val (n.val + 1), wc := [c.val] }
  | .vfadd d a b _ => { wv := [d.val], rv := a.val :: vecsOf b false, rs := scalsOf b }
  | .vfsub d a b _ => { wv := [d.val], rv := a.val :: vecsOf b false, rs := scalsOf b }
  | .vfmul d a b _ => { wv := [d.val], rv := a.val :: vecsOf b false, rs := scalsOf b }
  | .vfma d a b _ => { wv := [d.val], rv := d.val :: a.val :: vecsOf b false, rs := scalsOf b }
  | .vfnma d a b _ => { wv := [d.val], rv := d.val :: a.val :: vecsOf b false, rs := scalsOf b }
  | .vfdiv d a b _ => { wv := [d.val], rv := a.val :: vecsOf b false, rs := scalsOf b }
  | .vfmin d a b => { wv := [d.val], rv := a.val :: vecsOf b false, rs := scalsOf b }
  | .vfmax d a b => { wv := [d.val], rv := a.val :: vecsOf b false, rs := scalsOf b }
  | .vfminn d a b => { wv := [d.val], rv := a.val :: vecsOf b false, rs := scalsOf b }
  | .vfmaxn d a b => { wv := [d.val], rv := a.val :: vecsOf b false, rs := scalsOf b }
  | .vfcmp c a b _ => { wc := [c.val], rv := a.val :: vecsOf b false, rs := scalsOf b }
  | .vfsqrt d a => { wv := [d.val], rv := [a.val] }
  | .vfrcp d a => { wv := [d.val], rv := [a.val] }
  | .vfrsq d a => { wv := [d.val], rv := [a.val] }
  | .vfex2 d a => { wv := [d.val], rv := [a.val] }
  | .vflg2 d a => { wv := [d.val], rv := [a.val] }
  | .vfabs d a => { wv := [d.val], rv := [a.val] }
  | .vfneg d a => { wv := [d.val], rv := [a.val] }
  | .vfcpsgn d a b => { wv := [d.val], rv := a.val :: vecsOf b false, rs := scalsOf b }
  | .vdadd d a b => { wv := regs d.val true, rv := regs a.val true ++ vecsOf b true, rs := scalsOf b }
  | .vdsub d a b => { wv := regs d.val true, rv := regs a.val true ++ vecsOf b true, rs := scalsOf b }
  | .vdmul d a b => { wv := regs d.val true, rv := regs a.val true ++ vecsOf b true, rs := scalsOf b }
  | .vdfma d a b => { wv := regs d.val true, rv := regs d.val true ++ regs a.val true ++ vecsOf b true, rs := scalsOf b }
  | .vddiv d a b _ => { wv := regs d.val true, rv := regs a.val true ++ vecsOf b true, rs := scalsOf b }
  | .vdcmp c a b _ => { wc := [c.val], rv := regs a.val true ++ vecsOf b true, rs := scalsOf b }
  | .vdsqrt d a => { wv := regs d.val true, rv := regs a.val true }
  | .vhadd d a b _ => { wv := [d.val], rv := a.val :: vecsOf b false, rs := scalsOf b }
  | .vhmul d a b _ => { wv := [d.val], rv := a.val :: vecsOf b false, rs := scalsOf b }
  | .vhfma d a b _ => { wv := [d.val], rv := d.val :: a.val :: vecsOf b false, rs := scalsOf b }
  | .vcvt d a f t _ => { wv := regs d.val (t == .f64), rv := regs a.val (f == .f64) }
  | .vquantD8 d a b => { wv := [d.val], rv := a.val :: vecsOf b false, rs := scalsOf b }
  | .vquantD6 d a b => { wv := [d.val], rv := a.val :: vecsOf b false, rs := scalsOf b }
  | .vquantM4 d a b => { wv := [d.val], rv := a.val :: vecsOf b false, rs := scalsOf b }
  | .vquantS8 d a b => { wv := [d.val], rv := a.val :: vecsOf b false, rs := scalsOf b }
  | .vpack d a w => { wv := [d.val], rv := block a.val w.count }
  | .vunpkZ d a w => { wv := block d.val w.count, rv := [a.val] }
  | .vunpkS d a w => { wv := block d.val w.count, rv := [a.val] }
  | .sgBoard d a => { ws := [d.val], rs := a.val :: block d.val 5 }
  | .sgAlight d a => { ws := [d.val], rs := [a.val] }
  | .sgCap d a _ => { ws := block d.val 5, rs := [a.val] }
  | .sgMod d a _ _ _ => { ws := [d.val], rs := [a.val, d.val] }
  | .sgArm d a _ _ => { rs := [a.val, d.val, d.val + 1] }
  | .sgRev d a => { ws := [d.val], rs := [a.val] }
  | .sgRevOfs d => { ws := [d.val] }
  | .br _ => {}
  | .brAny c _ => { rc := [c.val] }
  | .brAll c _ => { rc := [c.val] }
  | .brNone c _ => { rc := [c.val] }
  | .call _ => { ws := [63] }
  | .jmp d a => { ws := [d.val], rs := [a.val] }
  | .brx b a => { rs := [b.val], rv := [a.val] }
  | .vif c => { rc := [c.val] }
  | .velse => {}
  | .vend => {}
  | .vkill c => { rc := [c.val] }
  | .vbrk c _ => { rc := [c.val] }
  | .exit => {}
  | .trap _ => {}
  | .brk _ => {}
  | .vldZ d b o w _ => { wv := regs d.val (w == .x64), rs := [b.val], rv := [o.val] }
  | .vldS d b o w _ => { wv := regs d.val (w == .x64), rs := [b.val], rv := [o.val] }
  | .vst d b o w _ => { rs := [b.val], rv := o.val :: regs d.val (w == .x64) }
  | .sld d b _ => { ws := [d.val], rs := [b.val] }
  | .slw d b _ => { ws := [d.val], rs := [b.val] }
  | .sst d b _ => { rs := [b.val, d.val] }
  | .ssw d b _ => { rs := [b.val, d.val] }
  | .vlds d b o w => { wv := regs d.val (w == .x64), rs := [b.val], rv := [o.val] }
  | .vsts d b o w => { rs := [b.val], rv := o.val :: regs d.val (w == .x64) }
  | .vlda d b o w => { wv := regs d.val (w == .x64), rs := [b.val], rv := [o.val] }
  | .vsta d b o w => { rs := [b.val], rv := o.val :: regs d.val (w == .x64) }
  | .vldx d b o w => { wv := regs d.val w, rs := [b.val], rv := [o.val] }
  | .vatom d a p _ _ => { wv := regs d.val p.is64, rv := regs a.val true ++ block d.val (p.extra + 1) }
  | .vmred d a p _ _ => { rv := regs a.val true ++ block d.val (p.op.extra + 1) }
  | .satom d a b p _ => { ws := [d.val], rs := a.val :: b.val :: (if p.isCas then [d.val] else []) }
  | .vatoms d a p _ _ => { wv := regs d.val p.is64, rv := a.val :: block d.val (p.extra + 1) }
  | .fence _ _ _ => {}
  | .barInit b e => { rs := [b.val, e] }
  | .barExpect b e => { rs := [b.val, e] }
  | .barArrive b _ _ => { rs := [b.val] }
  | .barArriveExp b e _ _ => { rs := [b.val, e] }
  | .barWait b e _ _ => { rs := [b.val, e] }
  | .barTest b e _ _ => { rs := [b.val, e], ws := [e] }
  | .barPhase b e => { rs := [b.val], ws := [e] }
  | .waitc _ _ _ _ => {}
  | .vbank _ _ => {}
  | .pbank _ _ _ => {}
  | .eacq => {}
  | .eacqTry c => { wc := [c.val] }
  | .erel => {}
  | .cpG2s d _ => { rs := block d.val 4 }
  | .cpS2g d _ => { rs := block d.val 4 }
  | .cpG2a d _ => { rs := block d.val 4 }
  | .cpG2w d _ => { rs := block d.val 4 }
  | .cpX2g d _ => { rs := block d.val 4 }
  | .cpG2g d _ => { rs := block d.val 4 }
  | .cpCirc d _ => { rs := block d.val 4 }
  | .gth d _ => { rs := block d.val 4 }
  | .qfence _ => {}
  | .cbWait d a => { ws := [d.val], rs := [a.val] }
  | .cbFree a => { rs := [a.val] }
  | .launch d => { rs := block d.val 4 }
  | .launchTry d c => { rs := block d.val 4, wc := [c.val] }
  | .join a => { rs := [a.val] }
  | .joinAll => {}
  | .joinDoor a => { rs := [a.val] }
  | .amsg d => { rs := block d.val 4 }
  | .xcfg p _ _ => { rv := [p.val] }
  | .xlds p _ _ => { rv := [p.val] }
  | .xswp _ => {}
  | .xmm p _ _ _ _ => { rv := [p.val] }
  | .xbmm p _ _ _ => { rv := [p.val] }
  | .xscac p _ => { rv := [p.val] }
  | .xdrn p => { rv := [p.val] }
  | .xrel p _ => { rv := [p.val] }
  | .eret => {}
  | .mfsys d _ => { ws := [d.val] }
  | .mtsys a _ => { rs := [a.val] }
  | .tlbinvVa a => { rs := [a.val] }
  | .tlbinvAsid a => { rs := [a.val] }
  | .tlbinvAll => {}
  | .seatctlEvack a => { rs := [a.val] }
  | .seatctlKill a => { rs := [a.val] }
  | .seatctlYield a => { rs := [a.val] }
  | .halt a => { rs := [a.val] }
  | _ => {}

/-! ### Checks and wakes -/

/-- The bank of a vector register (R65). -/
def bankOf (n : Nat) : Nat := n / 8
/-- The state of a bank of a group (R65, R68). -/
def Group.bank (g : Group) (b : Nat) : BankState := SMap.get .absent g.banks b
/-- The wake of a bank, if one is in progress. -/
def Group.waking (g : Group) (b : Nat) : Option Wake := g.wakes.find? fun w => w.bank == b
/-- Zero a bank (R68). -/
def Group.zeroBank (g : Group) (b : Nat) : Group :=
  { g with
    regs := { g.regs with v := g.regs.v.filter fun p => p.1 / 256 != b }
    poison := g.poison.filter fun p => p.1 / 8 != b
    parity := g.parity.filter fun p => p.1 / 8 != b
    flips := g.flips.filter fun p => p.1 / 8 != b }
/-- Start a wake of a bank at cycle `cycle` toward a state (R68). -/
def Group.startWake (g : Group) (b : Nat) (target : BankState) (cycle : Nat) : Group :=
  match g.bank b with
  | .retain => { g with wakes := g.wakes ++ [{ bank := b, target := target, due := cycle + 16 }] }
  | .off => { g.zeroBank b with wakes := g.wakes ++ [{ bank := b, target := target, due := cycle + 48 }] }
  | _ => g
/-- A wake in progress leads to Full, at its own end: a write has touched the bank (R68, log 102). -/
def raiseWake (b : Nat) (l : List Wake) : List Wake := l.map fun w => if w.bank = b then { w with target := .full, later := none } else w

/-- A write of a register of the bank: a Retain or Off bank starts to wake to Full, with the event of its end (R68). -/
def State.wakeBank (s : State) (b : Nat) : State :=
  let g := s.cur.group
  if (g.waking b).isSome then s.onGroup fun g => { g with wakes := raiseWake b g.wakes }
  else match g.bank b with
    | .retain =>
      (s.onGroup fun g => g.startWake b .full s.g).at (s.g + 16) (.bankWakeEnd s.cur.team.id (some g.gid) b)
    | .off => (s.onGroup fun g => g.startWake b .full s.g).at (s.g + 48) (.bankWakeEnd s.cur.team.id (some g.gid) b)
    | _ => s
/-- Wakes for the banks of the registers written. -/
def State.wakeFor (s : State) (l : List Nat) : State := l.foldl (fun s n => s.wakeBank (bankOf n)) s

/-- The lanes whose values a word takes (R76): all 32 for vregrp, the named lane for sext, lanes 0-7 for a matrix group
word, else the active lanes. -/
def lanesTaken (i : Instr) (s : State) : LaneMask :=
  match i with
  | .vregrp _ _ _ _ => BitVec.allOnes 32
  | .sext _ _ _ l => 1#32 <<< l.val
  | .xcfg _ _ _ | .xlds _ _ _ | .xscac _ _ | .xdrn _ | .xrel _ _ => 0xFF
  | _ => s.activeMask

/-- A trap for the first register read whose marks meet the lanes taken. -/
def markTrap (k : TrapKind) (marks : SMap LaneMask) (lanes : LaneMask) (rv : List Nat) : List TrapReq :=
  (rv.filter fun n => SMap.get 0 marks n &&& lanes != 0).map fun n => laneTrap k (lowestLane (SMap.get 0 marks n &&& lanes))

/-- The traps of a word's vector registers: an absent bank (R65), a mark (R76, R77, R79), an Off bank read (R68). -/
def regTraps (i : Instr) (s : State) : List TrapReq :=
  let u := uses i
  let g := s.srcG
  (if (u.rv ++ u.wv).any fun n => g.bank (bankOf n) == .absent then [illegal 10] else [])
    ++ markTrap .registerUncorrectable g.poison (lanesTaken i s) u.rv
    ++ markTrap .registerParity g.parity (lanesTaken i s) u.rv
    ++ (if u.rv.any fun n => g.bank (bankOf n) == .off && (g.waking (bankOf n)).isNone then [trapOf .deadRead] else [])

/-- The frame of every word's meaning: a split must be in focus; the word's register checks and its own checks (`body` in
error) raise the worst trap and nothing else happens (R7); else the written banks wake and the body's effect stands. -/
def runWord (i : Instr) (s : State) (body : State → Except TrapReq State) : Host.Outcome State Fault Refusal :=
  if s.cur.live then
    match regTraps i s, body (s.wakeFor (uses i).wv) with
    | [], .ok t => .next t
    | t :: ts, .ok _ => .next (s.trapWord (worstTrap t ts))
    | ts, .error e => .next (s.trapWord (worstTrap e ts))
  else .fault .noIssuingSplit

/-- A word that has no check of its own. -/
def runPure (i : Instr) (s : State) (f : State → State) : Host.Outcome State Fault Refusal :=
  runWord i s fun s => .ok (f s)

/-- The frame of every event's meaning: the event must be at hand. -/
def runEvent (s : State) (f : Event → Option State) : Host.Outcome State Fault Refusal :=
  match s.ev with
  | none => .fault .noEventAtHand
  | some e =>
    match f e with
    | some t => .next t
    | none => .fault .noEventAtHand

/-- Write a vector register in every active lane. -/
def State.setLanes (s : State) (d : Nat) (f : Nat → W32) : State := s.wVs d s.active f
/-- Write a pair in every active lane. -/
def State.setPairs (s : State) (d : Nat) (f : Nat → W64) : State := s.wPs d s.active f
/-- Write the bits of the active lanes of a condition register (R222). -/
def State.setConds (s : State) (c : Nat) (f : Nat → Bool) : State :=
  s.wC c ((s.cur.group.regs.getC c &&& ~~~s.activeMask) ||| maskOf fun L => s.isActive L && f L)

/-- Fail with the worst of several traps, if any. -/
def check (l : List TrapReq) : Except TrapReq Unit :=
  match firstTrap l with
  | none => .ok ()
  | some t => .error t

end Sys2Proof.Machine
end

