-- ==== Sys2Proof/Machine/Scalar.lean ====
section
/-!
DEFINITION. Scalar words: the ALU, immediates, literals, compares, and the words between lanes and scalars (R190-R198).
-/

namespace Sys2Proof.Machine

open Sys2Proof

abbrev Out := Host.Outcome State Fault Refusal

/-- The shape of a scalar ALU word: S[d] := f a b (R190). -/
def scalar2 (i : Instr) (d a b : SReg) (f : W64 → W64 → W64) (s : State) : Out :=
  runPure i s fun s => s.wS d (f (s.rS a) (s.rS b))
/-- The shape of a scalar word of one source (R192, R193). -/
def scalar1 (i : Instr) (d a : SReg) (f : W64 → W64) (s : State) : Out :=
  runPure i s fun s => s.wS d (f (s.rS a))
/-- The shape of a scalar compare: every bit of C[d] (R196). -/
def scalarCmp (i : Instr) (d : CReg) (a b : SReg) (f : W64 → W64 → Bool) (s : State) : Out :=
  runPure i s fun s => s.wC d (allBits (f (s.rS a) (s.rS b)))

/-- One or zero (R190). -/
def flag64 (b : Bool) : W64 := if b then 1 else 0
/-- A shift count (R191). -/
def count64 (b : W64) : Nat := b.toNat % 64

/-- sadd: Wrap64(a + b) (R190). -/
def execSadd (d a b : SReg) (s : State) : Out := scalar2 (.sadd d a b) d a b (fun a b => a + b) s
/-- ssub: Wrap64(a - b) (R190). -/
def execSsub (d a b : SReg) (s : State) : Out := scalar2 (.ssub d a b) d a b (fun a b => a - b) s
/-- smul: Wrap64(a × b) (R190). -/
def execSmul (d a b : SReg) (s : State) : Out := scalar2 (.smul d a b) d a b (fun a b => a * b) s
/-- smulhS: the high half of the signed product (R190). -/
def execSmulhS (d a b : SReg) (s : State) : Out := scalar2 (.smulhS d a b) d a b (fun a b => BitVec.ofInt 64 (a.toInt * b.toInt / 2 ^ 64)) s
/-- smulhZ: the high half of the unsigned product (R190). -/
def execSmulhZ (d a b : SReg) (s : State) : Out := scalar2 (.smulhZ d a b) d a b (fun a b => BitVec.ofNat 64 (a.toNat * b.toNat / 2 ^ 64)) s
/-- sand: a AND b (R190). -/
def execSand (d a b : SReg) (s : State) : Out := scalar2 (.sand d a b) d a b (fun a b => a &&& b) s
/-- sor: a OR b (R190). -/
def execSor (d a b : SReg) (s : State) : Out := scalar2 (.sor d a b) d a b (fun a b => a ||| b) s
/-- sxor: a XOR b (R190). -/
def execSxor (d a b : SReg) (s : State) : Out := scalar2 (.sxor d a b) d a b (fun a b => a ^^^ b) s
/-- sshl: a × 2^n (R190). -/
def execSshl (d a b : SReg) (s : State) : Out := scalar2 (.sshl d a b) d a b (fun a b => a <<< count64 b) s
/-- sshrZ: ⌊a.z / 2^n⌋ (R190). -/
def execSshrZ (d a b : SReg) (s : State) : Out := scalar2 (.sshrZ d a b) d a b (fun a b => a >>> count64 b) s
/-- sshrS: ⌊a.s / 2^n⌋ (R190). -/
def execSshrS (d a b : SReg) (s : State) : Out := scalar2 (.sshrS d a b) d a b (fun a b => a.sshiftRight (count64 b)) s
/-- sminS: the smaller, signed (R190). -/
def execSminS (d a b : SReg) (s : State) : Out := scalar2 (.sminS d a b) d a b (fun a b => pick BitVec.slt a b) s
/-- smaxS: the larger, signed (R190). -/
def execSmaxS (d a b : SReg) (s : State) : Out := scalar2 (.smaxS d a b) d a b (fun a b => pick (fun x y => y.slt x) a b) s
/-- sminZ: the smaller, unsigned (R190). -/
def execSminZ (d a b : SReg) (s : State) : Out := scalar2 (.sminZ d a b) d a b (fun a b => pick BitVec.ult a b) s
/-- smaxZ: the larger, unsigned (R190). -/
def execSmaxZ (d a b : SReg) (s : State) : Out := scalar2 (.smaxZ d a b) d a b (fun a b => pick (fun x y => y.ult x) a b) s
/-- ssltS: 1 when a.s < b.s (R190). -/
def execSsltS (d a b : SReg) (s : State) : Out := scalar2 (.ssltS d a b) d a b (fun a b => flag64 (a.slt b)) s
/-- ssltZ: 1 when a.z < b.z (R190). -/
def execSsltZ (d a b : SReg) (s : State) : Out := scalar2 (.ssltZ d a b) d a b (fun a b => flag64 (a.ult b)) s
/-- sseq: 1 when a = b (R190). -/
def execSseq (d a b : SReg) (s : State) : Out := scalar2 (.sseq d a b) d a b (fun a b => flag64 (a == b)) s

/-- saddi (R192). -/
def execSaddi (d a : SReg) (i : BitVec 12) (s : State) : Out := scalar1 (.saddi d a i) d a (fun a => a + sext64 i) s
/-- sandi (R192). -/
def execSandi (d a : SReg) (i : BitVec 12) (s : State) : Out := scalar1 (.sandi d a i) d a (fun a => a &&& sext64 i) s
/-- sori (R192). -/
def execSori (d a : SReg) (i : BitVec 12) (s : State) : Out := scalar1 (.sori d a i) d a (fun a => a ||| sext64 i) s
/-- sxori (R192). -/
def execSxori (d a : SReg) (i : BitVec 12) (s : State) : Out := scalar1 (.sxori d a i) d a (fun a => a ^^^ sext64 i) s
/-- sshli (R193). -/
def execSshli (d a : SReg) (n : Fin 64) (s : State) : Out := scalar1 (.sshli d a n) d a (fun a => a <<< n.val) s
/-- sshriZ (R193). -/
def execSshriZ (d a : SReg) (n : Fin 64) (s : State) : Out := scalar1 (.sshriZ d a n) d a (fun a => a >>> n.val) s
/-- sshriS (R193). -/
def execSshriS (d a : SReg) (n : Fin 64) (s : State) : Out := scalar1 (.sshriS d a n) d a (fun a => a.sshiftRight n.val) s

/-- slit (R194). -/
def execSlit (d : SReg) (i : BitVec 18) (s : State) : Out := runPure (.slit d i) s fun s => s.wS d (sext64 i)
/-- slitw.z (R195). -/
def execSlitwZ (d : SReg) (s : State) : Out := runPure (.slitwZ d) s fun s => s.wS d (zext64 s.cur.lit)
/-- slitw.s (R195). -/
def execSlitwS (d : SReg) (s : State) : Out := runPure (.slitwS d) s fun s => s.wS d (sext64 s.cur.lit)
/-- slitw.lo (R195). -/
def execSlitwLo (d : SReg) (s : State) : Out :=
  runPure (.slitwLo d) s fun s => s.wS d (pair64 (hi32 (s.rS d)) s.cur.lit)
/-- slitw.hi (R195). -/
def execSlitwHi (d : SReg) (s : State) : Out :=
  runPure (.slitwHi d) s fun s => s.wS d (pair64 s.cur.lit (lo32 (s.rS d)))

/-- scmpEq (R196). -/
def execScmpEq (d : CReg) (a b : SReg) (s : State) : Out := scalarCmp (.scmpEq d a b) d a b (fun a b => a == b) s
/-- scmpNe (R196). -/
def execScmpNe (d : CReg) (a b : SReg) (s : State) : Out := scalarCmp (.scmpNe d a b) d a b (fun a b => a != b) s
/-- scmpLtS (R196). -/
def execScmpLtS (d : CReg) (a b : SReg) (s : State) : Out := scalarCmp (.scmpLtS d a b) d a b (fun a b => a.slt b) s
/-- scmpLeS (R196). -/
def execScmpLeS (d : CReg) (a b : SReg) (s : State) : Out := scalarCmp (.scmpLeS d a b) d a b (fun a b => a.sle b) s
/-- scmpLtZ (R196). -/
def execScmpLtZ (d : CReg) (a b : SReg) (s : State) : Out := scalarCmp (.scmpLtZ d a b) d a b (fun a b => a.ult b) s
/-- scmpLeZ (R196). -/
def execScmpLeZ (d : CReg) (a b : SReg) (s : State) : Out := scalarCmp (.scmpLeZ d a b) d a b (fun a b => a.ule b) s

/-- A lane of va as sext widens it (R197). -/
def laneValue (a : VReg) (w : ExtW) (L : Nat) (s : State) : W64 :=
  match w with
  | .z32 => zext64 (s.rV a L)
  | .s32 => sext64 (s.rV a L)
  | .x64 => s.rP a L
/-- sext of a named lane, whatever its state (R197). -/
def execSext (d : SReg) (a : VReg) (w : ExtW) (l : Fin 32) (s : State) : Out :=
  runPure (.sext d a w l) s fun s => s.wS d (laneValue a w l s)
/-- sext.first: the lowest active lane, or 0 (R197). -/
def execSextFirst (d : SReg) (a : VReg) (w : ExtW) (s : State) : Out :=
  runPure (.sextFirst d a w) s fun s => s.wS d ((s.active.head?).elim 0 fun L => laneValue a w L s)
/-- sext.last: the highest active lane, or 0 (R197). -/
def execSextLast (d : SReg) (a : VReg) (w : ExtW) (s : State) : Out :=
  runPure (.sextLast d a w) s fun s => s.wS d ((s.active.getLast?).elim 0 fun L => laneValue a w L s)

/-- Write a scalar into the lanes listed (R198). -/
def insLanes (d : VReg) (a : SReg) (w : InsW) (lanes : List Nat) (s : State) : State :=
  match w with
  | .lo => s.wVs d lanes fun _ => lo32 (s.rS a)
  | .hi => s.wVs d lanes fun _ => hi32 (s.rS a)
  | .x64 => s.wPs d lanes fun _ => s.rS a
/-- vins of a named lane; a lane that is not active keeps its value (R198). -/
def execVins (d : VReg) (a : SReg) (w : InsW) (l : Fin 32) (s : State) : Out :=
  runPure (.vins d a w l) s fun s => insLanes d a w (s.active.filter (· == l.val)) s
/-- vins.all (R198). -/
def execVinsAll (d : VReg) (a : SReg) (w : InsW) (s : State) : Out :=
  runPure (.vinsAll d a w) s fun s => insLanes d a w s.active s

/-- nop does nothing (R179); the step moves on past its slot. -/
def execNop (s : State) : Out := runPure .nop s fun s => s

end Sys2Proof.Machine
end

