-- ==== Sys2Proof/Machine/Vector.lean ====
section
/-!
DEFINITION. Vector integer and lane words (R214-R229), but for the team collective vregrp.
-/

namespace Sys2Proof.Machine

open Sys2Proof

/-- The shape of a VR word: V[d][L] := f a B in each active lane (R212). -/
def vector2 (i : Instr) (d a : VReg) (b : BSel) (f : W32 → W32 → W32) (s : State) : Out :=
  runPure i s fun s => s.setLanes d fun L => f (s.rV a L) (s.b32 b L)
/-- The shape of a VR word that also reads the old vd (R219, R221). -/
def vector3 (i : Instr) (d a : VReg) (b : BSel) (f : W32 → W32 → W32 → W32) (s : State) : Out :=
  runPure i s fun s => s.setLanes d fun L => f (s.rV d L) (s.rV a L) (s.b32 b L)
/-- The shape of a unary word. -/
def vector1 (i : Instr) (d a : VReg) (f : W32 → W32) (s : State) : Out :=
  runPure i s fun s => s.setLanes d fun L => f (s.rV a L)
/-- A shift count (R218). -/
def count32 (b : W32) : Nat := b.toNat % 32

/-- vadd (R214). -/
def execVadd (d a : VReg) (b : BSel) (s : State) : Out := vector2 (.vadd d a b) d a b (fun a b => a + b) s
/-- vaddSatS (R214). -/
def execVaddSatS (d a : VReg) (b : BSel) (s : State) : Out := vector2 (.vaddSatS d a b) d a b (fun a b => satS32 (a.toInt + b.toInt)) s
/-- vaddSatZ (R214). -/
def execVaddSatZ (d a : VReg) (b : BSel) (s : State) : Out := vector2 (.vaddSatZ d a b) d a b (fun a b => satZ32 (a.toNat + b.toNat)) s
/-- vsub (R214). -/
def execVsub (d a : VReg) (b : BSel) (s : State) : Out := vector2 (.vsub d a b) d a b (fun a b => a - b) s
/-- vsubSatS (R214). -/
def execVsubSatS (d a : VReg) (b : BSel) (s : State) : Out := vector2 (.vsubSatS d a b) d a b (fun a b => satS32 (a.toInt - b.toInt)) s
/-- vsubSatZ (R214). -/
def execVsubSatZ (d a : VReg) (b : BSel) (s : State) : Out := vector2 (.vsubSatZ d a b) d a b (fun a b => satZ32 ((a.toNat : Int) - b.toNat)) s
/-- vmul (R215). -/
def execVmul (d a : VReg) (b : BSel) (s : State) : Out := vector2 (.vmul d a b) d a b (fun a b => a * b) s
/-- vmulhS (R215). -/
def execVmulhS (d a : VReg) (b : BSel) (s : State) : Out := vector2 (.vmulhS d a b) d a b (fun a b => BitVec.ofInt 32 (a.toInt * b.toInt / 2 ^ 32)) s
/-- vmulhZ (R215). -/
def execVmulhZ (d a : VReg) (b : BSel) (s : State) : Out := vector2 (.vmulhZ d a b) d a b (fun a b => BitVec.ofNat 32 (a.toNat * b.toNat / 2 ^ 32)) s
/-- vminS (R217). -/
def execVminS (d a : VReg) (b : BSel) (s : State) : Out := vector2 (.vminS d a b) d a b (fun a b => pick BitVec.slt a b) s
/-- vminZ (R217). -/
def execVminZ (d a : VReg) (b : BSel) (s : State) : Out := vector2 (.vminZ d a b) d a b (fun a b => pick BitVec.ult a b) s
/-- vmaxS (R217). -/
def execVmaxS (d a : VReg) (b : BSel) (s : State) : Out := vector2 (.vmaxS d a b) d a b (fun a b => pick (fun x y => y.slt x) a b) s
/-- vmaxZ (R217). -/
def execVmaxZ (d a : VReg) (b : BSel) (s : State) : Out := vector2 (.vmaxZ d a b) d a b (fun a b => pick (fun x y => y.ult x) a b) s
/-- vand (R218). -/
def execVand (d a : VReg) (b : BSel) (s : State) : Out := vector2 (.vand d a b) d a b (fun a b => a &&& b) s
/-- vor (R218). -/
def execVor (d a : VReg) (b : BSel) (s : State) : Out := vector2 (.vor d a b) d a b (fun a b => a ||| b) s
/-- vxor (R218). -/
def execVxor (d a : VReg) (b : BSel) (s : State) : Out := vector2 (.vxor d a b) d a b (fun a b => a ^^^ b) s
/-- vandn (R218). -/
def execVandn (d a : VReg) (b : BSel) (s : State) : Out := vector2 (.vandn d a b) d a b (fun a b => a &&& ~~~b) s
/-- vshl (R218). -/
def execVshl (d a : VReg) (b : BSel) (s : State) : Out := vector2 (.vshl d a b) d a b (fun a b => a <<< count32 b) s
/-- vshrZ (R218). -/
def execVshrZ (d a : VReg) (b : BSel) (s : State) : Out := vector2 (.vshrZ d a b) d a b (fun a b => a >>> count32 b) s
/-- vshrS (R218). -/
def execVshrS (d a : VReg) (b : BSel) (s : State) : Out := vector2 (.vshrS d a b) d a b (fun a b => a.sshiftRight (count32 b)) s
/-- vrot (R218). -/
def execVrot (d a : VReg) (b : BSel) (s : State) : Out := vector2 (.vrot d a b) d a b (fun a b => a.rotateLeft (count32 b)) s
/-- vlut3: the table is the literal (R219). -/
def execVlut3 (d a : VReg) (b : BSel) (s : State) : Out := vector3 (.vlut3 d a b) d a b (lut3 s.cur.lit) s
/-- vpopc (R220). -/
def execVpopc (d a : VReg) (s : State) : Out := vector1 (.vpopc d a) d a popc s
/-- vclz (R220). -/
def execVclz (d a : VReg) (s : State) : Out := vector1 (.vclz d a) d a clz s
/-- vctz (R220). -/
def execVctz (d a : VReg) (s : State) : Out := vector1 (.vctz d a) d a ctz s
/-- vbrev (R220). -/
def execVbrev (d a : VReg) (s : State) : Out := vector1 (.vbrev d a) d a brev s
/-- vbfx.z (R221). -/
def execVbfxZ (d a : VReg) (b : BSel) (s : State) : Out := vector2 (.vbfxZ d a b) d a b bfxZ s
/-- vbfx.s (R221). -/
def execVbfxS (d a : VReg) (b : BSel) (s : State) : Out := vector2 (.vbfxS d a b) d a b bfxS s
/-- vbfi (R221). -/
def execVbfi (d a : VReg) (b : BSel) (s : State) : Out := vector3 (.vbfi d a b) d a b bfi s
/-- vaddi (R216). -/
def execVaddi (d a : VReg) (i : BitVec 10) (s : State) : Out := vector1 (.vaddi d a i) d a (fun a => a + i.signExtend 32) s
/-- vcmp: the bits of the active lanes (R222). -/
def execVcmp (c : CReg) (a : VReg) (b : BSel) (p : ICmp) (s : State) : Out :=
  runPure (.vcmp c a b p) s fun s => s.setConds c fun L => icmpHolds p (s.rV a L) (s.b32 b L)
/-- vsel (R223). -/
def execVsel (d a b : VReg) (c : CReg) (s : State) : Out :=
  runPure (.vsel d a b c) s fun s => s.setLanes d fun L => if (s.rC c).getLsbD L then s.rV a L else s.rV b L
/-- vmov (R224). -/
def execVmov (d a : VReg) (s : State) : Out := vector1 (.vmov d a) d a id s
/-- vmov.x64 (R224). -/
def execVmovX64 (d a : VReg) (s : State) : Out := runPure (.vmovX64 d a) s fun s => s.setPairs d fun L => s.rP a L
/-- vlit (R224). -/
def execVlit (d : VReg) (i : BitVec 15) (s : State) : Out := runPure (.vlit d i) s fun s => s.setLanes d fun _ => i.signExtend 32
/-- vlaneid (R224). -/
def execVlaneid (d : VReg) (s : State) : Out := runPure (.vlaneid d) s fun s => s.setLanes d fun L => BitVec.ofNat 32 L

/-- The mask M of R226: active lanes whose condition bit is set. -/
def State.condMask (s : State) (c : Nat) : LaneMask := maskOf fun L => s.isActive L && (s.rC c).getLsbD L
/-- vballot (R226). -/
def execVballot (d : VReg) (c : CReg) (s : State) : Out := runPure (.vballot d c) s fun s => s.setLanes d fun _ => s.condMask c
/-- vmrank (R226). -/
def execVmrank (d : VReg) (c : CReg) (s : State) : Out :=
  runPure (.vmrank d c) s fun s => s.setLanes d fun L => BitVec.ofNat 32 (countOnes (s.condMask c).toNat L)
/-- vmrank.inc (R226). -/
def execVmrankInc (d : VReg) (c : CReg) (s : State) : Out :=
  runPure (.vmrankInc d c) s fun s => s.setLanes d fun L => BitVec.ofNat 32 (countOnes (s.condMask c).toNat (L + 1))

/-- The shape of a vshfl: lane L reads lane `src L B` of va, whatever that lane's state (R225, R227). -/
def shuffle (i : Instr) (d a : VReg) (b : BSel) (src : Nat → Nat → Nat) (s : State) : Out :=
  runPure i s fun s => s.setLanes d fun L => s.rV a (src L (s.b32 b L).toNat)
/-- vshfl.idx (R227). -/
def execVshflIdx (d a : VReg) (b : BSel) (s : State) : Out := shuffle (.vshflIdx d a b) d a b (fun _ B => B % 32) s
/-- vshfl.up (R227). -/
def execVshflUp (d a : VReg) (b : BSel) (s : State) : Out :=
  shuffle (.vshflUp d a b) d a b (fun L B => if B ≤ L then L - B else L) s
/-- vshfl.down (R227). -/
def execVshflDown (d a : VReg) (b : BSel) (s : State) : Out :=
  shuffle (.vshflDown d a b) d a b (fun L B => if L + B ≤ 31 then L + B else L) s
/-- vshfl.xor (R227). -/
def execVshflXor (d a : VReg) (b : BSel) (s : State) : Out := shuffle (.vshflXor d a b) d a b (fun L B => L ^^^ (B % 32)) s

/-- vfold (R228). -/
def execVfold (d : SReg) (a : VReg) (o : FoldOp) (s : State) : Out :=
  runPure (.vfold d a o) s fun s => s.wS d (foldRun o (s.active.map (s.rV a)))
/-- vscan (R229). -/
def execVscan (d a : VReg) (x : Bool) (o : ScanOp) (s : State) : Out :=
  runPure (.vscan d a x o) s fun s => s.setLanes d fun L =>
    scanRun o ((s.active.filter fun j => decide (j < L) || (!x && j == L)).map (s.rV a))

end Sys2Proof.Machine
end

