-- ==== Sys2Proof/Machine/VFloat.lean ====
section
/-!
DEFINITION. Vector float, conversion and packing words (R234-R244).
-/

namespace Sys2Proof.Machine

open Sys2Proof

/-- The shape of an F32 word: x, y, z are V[a], B and the old V[d] (R234). -/
def float3 (i : Instr) (d a : VReg) (b : BSel) (f : W32 → W32 → W32 → W32) (s : State) : Out :=
  runPure i s fun s => s.setLanes d fun L => f (s.rV a L) (s.bF32 b L) (s.rV d L)
/-- The shape of an F64 word (R235). -/
def double3 (i : Instr) (d a : VReg) (b : BSel) (f : W64 → W64 → W64 → W64) (s : State) : Out :=
  runPure i s fun s => s.setPairs d fun L => f (s.rP a L) (s.bF64 b L) (s.rP d L)
/-- The shape of a packed word (R236). -/
def packed3 (i : Instr) (d a : VReg) (b : BSel) (bf : Bool) (f : Val → Val → Val → Val) (s : State) : Out :=
  let fp := packedFp bf
  runPure i s fun s => s.setLanes d fun L =>
    halves (fun x y z => fp.round .rne (f (fp.value x) (fp.value y) (fp.value z))) (s.rV a L) (s.bHalf fp b L) (s.rV d L)
/-- The shape of a special function (R237). -/
def special1 (i : Instr) (d a : VReg) (f : Val → Nat) (s : State) : Out :=
  runPure i s fun s => s.setLanes d fun L => BitVec.ofNat 32 (f (val32 (s.rV a L)))

/-- vfadd (R234). -/
def execVfadd (d a : VReg) (b : BSel) (r : RMode) (s : State) : Out := float3 (.vfadd d a b r) d a b (fun x y _ => rnd32 r ((val32 x).add r (val32 y))) s
/-- vfsub (R234). -/
def execVfsub (d a : VReg) (b : BSel) (r : RMode) (s : State) : Out := float3 (.vfsub d a b r) d a b (fun x y _ => rnd32 r ((val32 x).sub r (val32 y))) s
/-- vfmul (R234). -/
def execVfmul (d a : VReg) (b : BSel) (r : RMode) (s : State) : Out := float3 (.vfmul d a b r) d a b (fun x y _ => rnd32 r ((val32 x).mul (val32 y))) s
/-- vfma: one rounding (R234). -/
def execVfma (d a : VReg) (b : BSel) (r : RMode) (s : State) : Out := float3 (.vfma d a b r) d a b (fun x y z => rnd32 r (((val32 x).mul (val32 y)).add r (val32 z))) s
/-- vfnma: one rounding (R234). -/
def execVfnma (d a : VReg) (b : BSel) (r : RMode) (s : State) : Out := float3 (.vfnma d a b r) d a b (fun x y z => rnd32 r ((val32 z).sub r ((val32 x).mul (val32 y)))) s
/-- vfdiv (R234). -/
def execVfdiv (d a : VReg) (b : BSel) (r : RMode) (s : State) : Out :=
  float3 (.vfdiv d a b r) d a b (fun x y _ => BitVec.ofNat 32 (fp32.div r (val32 x) (val32 y))) s
/-- vfmin (R238). -/
def execVfmin (d a : VReg) (b : BSel) (s : State) : Out := float3 (.vfmin d a b) d a b (fun x y _ => minMax32 false x y) s
/-- vfmax (R238). -/
def execVfmax (d a : VReg) (b : BSel) (s : State) : Out := float3 (.vfmax d a b) d a b (fun x y _ => minMax32 true x y) s
/-- vfminn (R238). -/
def execVfminn (d a : VReg) (b : BSel) (s : State) : Out := float3 (.vfminn d a b) d a b (fun x y _ => minMaxN32 false x y) s
/-- vfmaxn (R238). -/
def execVfmaxn (d a : VReg) (b : BSel) (s : State) : Out := float3 (.vfmaxn d a b) d a b (fun x y _ => minMaxN32 true x y) s
/-- vfcmp (R240). -/
def execVfcmp (c : CReg) (a : VReg) (b : BSel) (p : FCmp) (s : State) : Out :=
  runPure (.vfcmp c a b p) s fun s => s.setConds c fun L => fcmpHolds p (val32 (s.rV a L)) (val32 (s.bF32 b L))
/-- vfsqrt (R118, R237). -/
def execVfsqrt (d a : VReg) (s : State) : Out := special1 (.vfsqrt d a) d a fp32.sqrt s
/-- vfrcp (R118, R237). -/
def execVfrcp (d a : VReg) (s : State) : Out := special1 (.vfrcp d a) d a rcpF32 s
/-- vfrsq (R118, R237). -/
def execVfrsq (d a : VReg) (s : State) : Out := special1 (.vfrsq d a) d a rsqrt32 s
/-- vfex2 (R118, R237). -/
def execVfex2 (d a : VReg) (s : State) : Out := special1 (.vfex2 d a) d a exp2F32 s
/-- vflg2 (R118, R237). -/
def execVflg2 (d a : VReg) (s : State) : Out := special1 (.vflg2 d a) d a log2F32 s
/-- vfabs clears the sign bit (R239). -/
def execVfabs (d a : VReg) (s : State) : Out :=
  runPure (.vfabs d a) s fun s => s.setLanes d fun L => s.rV a L &&& 0x7FFFFFFF#32
/-- vfneg flips the sign bit (R239). -/
def execVfneg (d a : VReg) (s : State) : Out :=
  runPure (.vfneg d a) s fun s => s.setLanes d fun L => s.rV a L ^^^ 0x80000000#32
/-- vfcpsgn takes the sign of B (R239). -/
def execVfcpsgn (d a : VReg) (b : BSel) (s : State) : Out :=
  float3 (.vfcpsgn d a b) d a b (fun x y _ => (y &&& 0x80000000#32) ||| (x &&& 0x7FFFFFFF#32)) s
/-- vdadd (R235). -/
def execVdadd (d a : VReg) (b : BSel) (s : State) : Out := double3 (.vdadd d a b) d a b (fun x y _ => rnd64 .rne ((val64 x).add .rne (val64 y))) s
/-- vdsub (R235). -/
def execVdsub (d a : VReg) (b : BSel) (s : State) : Out := double3 (.vdsub d a b) d a b (fun x y _ => rnd64 .rne ((val64 x).sub .rne (val64 y))) s
/-- vdmul (R235). -/
def execVdmul (d a : VReg) (b : BSel) (s : State) : Out := double3 (.vdmul d a b) d a b (fun x y _ => rnd64 .rne ((val64 x).mul (val64 y))) s
/-- vdfma: one rounding (R235). -/
def execVdfma (d a : VReg) (b : BSel) (s : State) : Out :=
  double3 (.vdfma d a b) d a b (fun x y z => rnd64 .rne (((val64 x).mul (val64 y)).add .rne (val64 z))) s
/-- vddiv (R235). -/
def execVddiv (d a : VReg) (b : BSel) (r : RMode) (s : State) : Out :=
  double3 (.vddiv d a b r) d a b (fun x y _ => BitVec.ofNat 64 (fp64.div r (val64 x) (val64 y))) s
/-- vdcmp (R240). -/
def execVdcmp (c : CReg) (a : VReg) (b : BSel) (p : FCmp) (s : State) : Out :=
  runPure (.vdcmp c a b p) s fun s => s.setConds c fun L => fcmpHolds p (val64 (s.rP a L)) (val64 (s.bF64 b L))
/-- vdsqrt (R118, R237). -/
def execVdsqrt (d a : VReg) (s : State) : Out :=
  runPure (.vdsqrt d a) s fun s => s.setPairs d fun L => BitVec.ofNat 64 (fp64.sqrt (val64 (s.rP a L)))
/-- vhadd (R236). -/
def execVhadd (d a : VReg) (b : BSel) (f : Bool) (s : State) : Out :=
  packed3 (.vhadd d a b f) d a b f (fun x y _ => x.add .rne y) s
/-- vhmul (R236). -/
def execVhmul (d a : VReg) (b : BSel) (f : Bool) (s : State) : Out :=
  packed3 (.vhmul d a b f) d a b f (fun x y _ => x.mul y) s
/-- vhfma: one rounding (R236). -/
def execVhfma (d a : VReg) (b : BSel) (f : Bool) (s : State) : Out :=
  packed3 (.vhfma d a b f) d a b f (fun x y z => (x.mul y).add .rne z) s

/-- vcvt: read as the source type, round once to the destination type (R241, R242). -/
def execVcvt (d a : VReg) (f t : CvtT) (r : RMode) (s : State) : Out :=
  runPure (.vcvt d a f t r) s fun s =>
    let v (L : Nat) : W64 := cvtWrite t r (cvtRead f (if f = .f64 then s.rP a L else zext64 (s.rV a L)))
    if t = .f64 then s.setPairs d v else s.setLanes d fun L => lo32 (v L)

/-- The shape of a vquant: the exponent is B clamped to -127..127 (R243). -/
def quantise (i : Instr) (d a : VReg) (b : BSel) (t : QTarget) (s : State) : Out :=
  runPure i s fun s => s.setLanes d fun L =>
    BitVec.ofNat 32 (quant (val32 (s.rV a L)) (clampInt (-127) 127 (s.b32 b L).toInt) t)
/-- vquantD8 (R120, R243). -/
def execVquantD8 (d a : VReg) (b : BSel) (s : State) : Out := quantise (.vquantD8 d a b) d a b .d8 s
/-- vquantD6 (R120, R243). -/
def execVquantD6 (d a : VReg) (b : BSel) (s : State) : Out := quantise (.vquantD6 d a b) d a b .d6 s
/-- vquantM4 (R120, R243). -/
def execVquantM4 (d a : VReg) (b : BSel) (s : State) : Out := quantise (.vquantM4 d a b) d a b .m4 s
/-- vquantS8 (R120, R243). -/
def execVquantS8 (d a : VReg) (b : BSel) (s : State) : Out := quantise (.vquantS8 d a b) d a b .s8 s

/-- Bits of a field (R244). -/
def packBits (w : PackW) : Nat := 32 / w.count
/-- vpack (R244). -/
def execVpack (d a : VReg) (w : PackW) (s : State) : Out :=
  runPure (.vpack d a w) s fun s => s.setLanes d fun L =>
    BitVec.ofNat 32 ((List.range w.count).foldl
      (fun x i => x + (s.rV (a.val + i) L).toNat % 2 ^ packBits w * 2 ^ (packBits w * i)) 0)
/-- The shape of a vunpk: field i goes to V[d+i] (R244). -/
def unpack (i : Instr) (d a : VReg) (w : PackW) (ext : Nat → W32) (s : State) : Out :=
  runPure i s fun s => (List.range w.count).foldl
    (fun t k => t.setLanes (d.val + k) fun L => ext ((s.rV a L).toNat / 2 ^ (packBits w * k) % 2 ^ packBits w)) s
/-- vunpk.z (R244). -/
def execVunpkZ (d a : VReg) (w : PackW) (s : State) : Out := unpack (.vunpkZ d a w) d a w (BitVec.ofNat 32) s
/-- vunpk.s (R244). -/
def execVunpkS (d a : VReg) (w : PackW) (s : State) : Out :=
  unpack (.vunpkS d a w) d a w (fun x => BitVec.ofInt 32 (signedOf (packBits w) x)) s

end Sys2Proof.Machine
end

