-- ==== Sys2Proof/Machine/Control.lean ====
section
/-!
DEFINITION. Control words: branches, call, jmp, brx, the mask words, exit, trap and brk (R203-R211, R47-R50).
-/

namespace Sys2Proof.Machine

open Sys2Proof

/-- The target of a BR word (R181): P + 16 × offset, exact. -/
def brTarget (s : State) (o : BitVec 19) : Int := (s.cur.pkt.toNat : Int) + 16 * o.toInt

/-- A branch taken when `p` holds over the active lanes; a target that is not canonical traps, taken or not (R181, R203). -/
def branchIf (i : Instr) (o : BitVec 19) (p : State → Bool) (s : State) : Out :=
  runWord i s fun s =>
    if canonical (brTarget s o) then .ok (if p s then s.branch (BitVec.ofInt 64 (brTarget s o)) 0 else s) else .error (trapOf .accessFault)

/-- br (R203). -/
def execBr (o : BitVec 19) (s : State) : Out := branchIf (.br o) o (fun _ => true) s
/-- br.any (R203). -/
def execBrAny (c : CReg) (o : BitVec 19) (s : State) : Out := branchIf (.brAny c o) o (fun s => s.condMask c != 0) s
/-- br.all (R203). -/
def execBrAll (c : CReg) (o : BitVec 19) (s : State) : Out :=
  branchIf (.brAll c o) o (fun s => s.condMask c == s.activeMask) s
/-- br.none (R203). -/
def execBrNone (c : CReg) (o : BitVec 19) (s : State) : Out := branchIf (.brNone c o) o (fun s => s.condMask c == 0) s

/-- The link value: the place after the unit (R205). -/
def State.link_ (s : State) : W64 := placeBits s.cur.nextPkt s.cur.nextSlot

/-- call (R205). -/
def execCall (o : BitVec 19) (s : State) : Out :=
  runWord (.call o) s fun s =>
    if canonical (brTarget s o) then .ok ((s.wS 63 s.link_).branch (BitVec.ofInt 64 (brTarget s o)) 0)
    else .error (trapOf .accessFault)

/-- jmp: the target is read before the link is written (R206). -/
def execJmp (d a : SReg) (s : State) : Out :=
  runWord (.jmp d a) s fun s =>
    let t := s.rS a
    if fld t.toNat 3 2 ≠ 0 ∨ fld t.toNat 1 0 = 3 then .error (trapOf .misaligned)
    else if canonical t.toNat then .ok ((s.wS d s.link_).branch (t &&& ~~~15#64) (fld t.toNat 1 0))
    else .error (trapOf .accessFault)

/-- The target of lane `L` in a brx (R207). -/
def brxTarget (s : State) (b : SReg) (a : VReg) (L : Nat) : Int := ((s.rS b).toNat : Int) + 16 * (s.rV a L).toInt

/-- Targets with the lanes that hold them, ordered by their lowest lane (R47). -/
def brxTargets (f : Nat → Int) (lanes : List Nat) : List (Int × LaneMask) :=
  lanes.foldl (fun l L =>
    if l.any fun p => p.1 == f L then l.map fun p => if p.1 = f L then (p.1, p.2 ||| (1#32 <<< L)) else p
    else l ++ [(f L, 1#32 <<< L)]) []

/-- Split indices of the group that are free, lowest first (R36, R47). -/
def Group.freeSplits (g : Group) : List Nat := (List.range 4).filter fun k => !(g.splits.any fun p => p.idx == k)

/-- Insert a split in order of its index. -/
def insertSplit (p : Split) : List Split → List Split
  | [] => [p]
  | q :: qs => if p.idx < q.idx then p :: q :: qs else q :: insertSplit p qs

/-- New splits at targets, with the lowest free indices in target order (R47). -/
def State.newSplits (s : State) (l : List ((Int × LaneMask) × Nat)) : State :=
  l.foldl (fun s p => s.onGroup fun g =>
    { g with splits := insertSplit { idx := p.2, lanes := p.1.2, pkt := BitVec.ofInt 64 p.1.1, slot := 0, notBefore := s.g + 3 } g.splits }) s

/-- Take lanes out of the issuing split. -/
def State.dropLanes (s : State) (m : LaneMask) : State := s.onSplit fun p => { p with lanes := p.lanes &&& ~~~m }

/-- The outcome of a brx over its targets (R47). A split that stays executes the brx again, and with it the words that stand after
it in its unit (log 104); it has sent lanes away, so that its next issue too is 3 cycles on (R54). A word before it in its unit that
blocked the split keeps it blocked (R44, R180). -/
def brxSplit (s : State) (l : List (Int × LaneMask)) : State :=
  let free := s.cur.group.freeSplits
  let all := l.foldl (fun m p => m ||| p.2) 0
  match l with
  | [] => s
  | [t] => s.branch (BitVec.ofInt 64 t.1) 0
  | t :: ts =>
    if l.length ≤ free.length + 1 then
      ((s.dropLanes (all &&& ~~~t.2)).branch (BitVec.ofInt 64 t.1) 0).newSplits (ts.zip free)
    else if free = [] then (s.goto s.cur.pkt s.cur.slot).onSplit fun p => if p.block = .free then { p with block := .brx } else p
    else
      let go := l.take free.length
      ((s.dropLanes (go.foldl (fun m p => m ||| p.2) 0)).branch s.cur.pkt s.cur.slot).newSplits (go.zip free)

/-- brx (R207, R208). -/
def execBrx (b : SReg) (a : VReg) (s : State) : Out :=
  runWord (.brx b a) s fun s =>
    match check ((if fld (s.rS b).toNat 3 0 ≠ 0 then [trapOf .misaligned] else [])
        ++ (s.active.filter fun L => !(canonical (brxTarget s b a L))).map (laneTrap .accessFault)) with
    | .error t => .error t
    | .ok _ => .ok (brxSplit s (brxTargets (brxTarget s b a) s.active))

/-! ### Masks and exit (R49, R50, R209) -/

/-- The lanes of the issuing split. -/
def State.splitLanes (s : State) : List Nat := lanesOf s.lanes

/-- Change the counters of the split's lanes; `f` is given the lane and its counter. -/
def State.mapNest (s : State) (f : Nat → Nat → Nat) : State :=
  s.splitLanes.foldl (fun t L => t.wN L (BitVec.ofNat 8 (f L (s.rN L).toNat))) s

/-- vif (R49). -/
def execVif (c : CReg) (s : State) : Out :=
  runWord (.vif c) s fun s =>
    match check ((s.splitLanes.filter fun L => s.rN L == 254).map (laneTrap .nestOverflow)) with
    | .error t => .error t
    | .ok _ => .ok (s.mapNest fun L n => if n = 255 then 255 else if n = 0 ∧ (s.rC c).getLsbD L then 0 else n + 1)
/-- velse (R49). -/
def execVelse (s : State) : Out :=
  runPure .velse s fun s => s.mapNest fun _ n => if n = 0 then 1 else if n = 1 then 0 else n
/-- vend (R49). -/
def execVend (s : State) : Out := runPure .vend s fun s => s.mapNest fun _ n => if n = 0 ∨ n = 255 then n else n - 1
/-- vkill (R49, R50). -/
def execVkill (c : CReg) (s : State) : Out :=
  runPure (.vkill c) s fun s => (s.mapNest fun L n => if n = 0 ∧ (s.rC c).getLsbD L then 255 else n).retire
/-- vbrk (R49). -/
def execVbrk (c : CReg) (m : Fin 256) (s : State) : Out :=
  runPure (.vbrk c m) s fun s => s.mapNest fun L n => if n = 0 ∧ (s.rC c).getLsbD L then m.val else n
/-- exit: the active lanes retire and the split goes on at the next packet (R50). -/
def execExit (s : State) : Out :=
  runPure .exit s fun s => ((s.mapNest fun _ n => if n = 0 then 255 else n).goto (s.cur.pkt + 16) 0).retire

/-- trap (R211). -/
def execTrap (x : BitVec 16) (s : State) : Out :=
  runWord (.trap x) s fun s => if s.anyActive then .error (trapOf .softwareTrap) else .ok s
/-- brk (R201, R211). -/
def execBrk (x : BitVec 16) (s : State) : Out :=
  runWord (.brk x) s fun s =>
    if s.anyActive && s.srcG.brkctl.getLsbD 0 then .error (trapOf .breakpoint) else .ok s

end Sys2Proof.Machine
end

