-- ==== Sys2Proof/Machine/Special.lean ====
section
/-!
DEFINITION. Special registers and the words that read and write them (R28-R34, R60-R64, R199-R202, R309, R334-R337, R344),
and the system words of major 0x7F (R342-R347). Ordered after the control words, whose retirement check eret uses.
-/

namespace Sys2Proof.Machine

open Sys2Proof

/-! ### Contents -/

/-- The seat of the issuing team, or an empty seat where there is none. -/
def State.seat (s : State) : Seat := (s.findSeat s.cur.team.seat).getD { num := s.cur.team.seat }

/-- %lease (R34). -/
def leaseBits (x : Seat) (frame : Nat) : W64 :=
  let l := x.lease
  if l.v then
    let npos := countOnes l.lmap.toNat 64 - 1
    let start := min 0xFFFF (l.first - frame)
    let remain := if frame < l.first then l.count else l.first + l.count - frame
    BitVec.ofNat 64 (2 ^ 63 + bit l.lend * 2 ^ 62 + l.peer % 16 * 2 ^ 58 + npos % 64 * 2 ^ 48 + start * 2 ^ 32 + remain % 2 ^ 32)
  else 0

/-- %team and %cluster (R62). -/
def indexBits (x y z rank : Nat) : W64 := BitVec.ofNat 64 (x % 65536 + y % 65536 * 2 ^ 16 + z % 65536 * 2 ^ 32 + rank % 8 * 2 ^ 48)

/-- %qcnt: each field saturates (R63). -/
def countBits (c : Counts) : W64 :=
  let f (n : Nat) := min n 0xFFFF
  BitVec.ofNat 64 (f c.loads + f c.stores * 2 ^ 16 + f c.copies * 2 ^ 32 + f c.tiles * 2 ^ 48)

/-- p(c): the first stage of a core's station (R306). -/
def stage (c : Nat) : Nat := 144 * (c / 64) + 2 * (c % 64)
/-- h(i, c) of R307. -/
def passPhase (i c : Nat) : Nat := (i + stage c + 1) / 2
/-- The count of passages of slot `i` at core `c` at or before %oclk `t` (R309, R321). -/
def seamCount (i c rho t : Nat) : Nat :=
  let a := (passPhase i c + 2 * Config.revolution - rho) % Config.revolution
  (t + Config.revolution - a) / Config.revolution % 2 ^ 32

/-- Numbers of the registers that sgetsr names (R28, R60, R201). -/
def userReg (n : Nat) : Bool := (1 ≤ n && n ≤ 7) || (0x10 ≤ n && n ≤ 0x1C) || (0x20 ≤ n && n ≤ 0x22) || n == 0x40
/-- Supervisor-only registers (R334). -/
def supReg (n : Nat) : Bool := 0x100 ≤ n && n ≤ 0x10E
/-- Registers only an environment-visible region reads (R64). -/
def envReg (n : Nat) : Bool := 0x20 ≤ n && n ≤ 0x22

/-- The value of a special register in this cycle (R60-R64, R335-R337). -/
def sysValue (s : State) (n : Nat) : W64 :=
  let t := s.cur.team
  let g := s.srcG
  let x := s.seat
  let clk := x.oclk s.g
  match n with
  | 0x001 => BitVec.ofNat 64 clk
  | 0x002 => BitVec.ofNat 64 (t.seat % 16 + bit (t.seat == 15) * 256)
  | 0x003 => BitVec.ofNat 64 (t.vf % 64)
  | 0x004 => x.rotaMap (s.g / Config.frame)
  | 0x005 => match x.core? t.core with
    | some r => if r.grant then BitVec.allOnes 64 else r.cmap
    | none => 0
  | 0x006 => BitVec.ofNat 64 (clk % 2048 + clk % 64 * 2 ^ 16)
  | 0x007 => leaseBits x (s.g / Config.frame)
  | 0x010 => BitVec.ofNat 64 ((s.active.head?).getD 32)
  | 0x011 => BitVec.ofNat 64 (g.gid % 16)
  | 0x012 => indexBits t.x t.y t.z 0
  | 0x013 => if t.cluster.isSome then indexBits t.cx t.cy t.cz t.rank else 0
  | 0x014 => nestBits g.regs 0
  | 0x015 => nestBits g.regs 1
  | 0x016 => nestBits g.regs 2
  | 0x017 => nestBits g.regs 3
  | 0x018 => zext64 t.gridNumber
  | 0x019 => BitVec.ofNat 64 (t.core % 256)
  | 0x01A => g.iret
  | 0x01B => countBits g.counts
  | 0x01C => BitVec.ofNat 64 (seamCount 0 t.core (x.rho s.g) clk)
  | 0x020 => BitVec.ofNat 64 (s.power.step % 16)
  | 0x021 => BitVec.ofNat 64 ((s.power.bands[t.core / 64]?).getD 0 % 8)
  | 0x022 => BitVec.ofNat 64 ((if s.power.may then 15 - s.power.step else 0) % 16)
  | 0x040 => g.brkctl
  | 0x100 => g.trap.tpc
  | 0x101 => g.trap.tword
  | 0x102 => g.trap.tkind
  | 0x103 => g.trap.tdone
  | 0x104 => g.trap.tlog
  | 0x105 => SMap.get 0 g.trap.nestsave 0
  | 0x106 => SMap.get 0 g.trap.nestsave 1
  | 0x107 => SMap.get 0 g.trap.nestsave 2
  | 0x108 => SMap.get 0 g.trap.nestsave 3
  | 0x109 => g.trap.tret
  | 0x10A => SMap.get 0 g.trap.ksc 0
  | 0x10B => SMap.get 0 g.trap.ksc 1
  | 0x10C => SMap.get 0 g.trap.ksc 2
  | 0x10D => SMap.get 0 g.trap.ksc 3
  | 0x10E => pair64 x.evHead x.evTail
  | _ => 0

/-- The traps of a read of register `n` (R60, R64, R187, R202, R334). -/
def readTraps (s : State) (n : Nat) : List TrapReq :=
  if supReg n then (if s.srcG.level = .user then [illegal 12] else [])
  else if !(userReg n) then [illegal 11]
  else if envReg n && !s.cur.team.region.env then [trapOf .environmentRead]
  else []

/-- Read a special register into a scalar. -/
def readSys (i : Instr) (d : SReg) (n : Fin 4096) (s : State) : Out :=
  runWord i s fun s =>
    match check (readTraps s n) with
    | .error t => .error t
    | .ok _ => .ok (s.wS d (sysValue s n))

/-- sgetsr (R199). -/
def execSgetsr (d : SReg) (n : Fin 4096) (s : State) : Out := readSys (.sgetsr d n) d n s

/-- Write the RW fields of a special register (R201, R335, R337). -/
def sysWrite (s : State) (n : Nat) (v : W64) : State :=
  let trap (f : TrapRegs → TrapRegs) : State := s.onGroup fun g => { g with trap := f g.trap }
  if n = 0x40 then s.onGroup fun g => { g with brkctl := v &&& 1 }
  else if n = 0x109 then (if fld v.toNat 1 0 = 3 then s else trap fun r => { r with tret := v &&& ~~~12#64 })
  else if 0x105 ≤ n ∧ n ≤ 0x108 then trap fun r => { r with nestsave := SMap.set 0 r.nestsave (n - 0x105) v }
  else if 0x10A ≤ n ∧ n ≤ 0x10D then trap fun r => { r with ksc := SMap.set 0 r.ksc (n - 0x10A) v }
  else s

/-- ssetsr reaches %brkctl alone; at user level a supervisor register gives cause 12 (R200, R202, R334). -/
def setSys (i : Instr) (a : SReg) (n : Fin 4096) (f : W64 → W64 → W64) (s : State) : Out :=
  runWord i s fun s =>
    if supReg n && s.srcG.level = .user then .error (illegal 12)
    else if n.val = 0x40 then .ok (sysWrite s n (f (sysValue s n) (s.rS a)))
    else .error (illegal 11)

/-- ssetsr (R200). -/
def execSsetsr (a : SReg) (n : Fin 4096) (s : State) : Out := setSys (.ssetsr a n) a n (fun _ v => v) s
/-- ssetsr.set (R200). -/
def execSsetsrSet (a : SReg) (n : Fin 4096) (s : State) : Out := setSys (.ssetsrSet a n) a n (fun r v => r ||| v) s
/-- ssetsr.clr (R200). -/
def execSsetsrClr (a : SReg) (n : Fin 4096) (s : State) : Out := setSys (.ssetsrClr a n) a n (fun r v => r &&& ~~~v) s

/-! ### The supervisor words -/

/-- The frame of a word of major 0x7F: cause 12 at user level (R342). -/
def runSup (i : Instr) (s : State) (body : State → Except TrapReq State) : Out :=
  runWord i s fun s => if s.srcG.level = .user then .error (illegal 12) else body s

/-- mfsys (R344). -/
def execMfsys (d : SReg) (n : Fin 4096) (s : State) : Out :=
  runSup (.mfsys d n) s fun s =>
    match check (readTraps s n) with
    | .error t => .error t
    | .ok _ => .ok (s.wS d (sysValue s n))

/-- Registers with an RW field (R344). -/
def sysWritable (n : Nat) : Bool := n == 0x40 || (0x105 ≤ n && n ≤ 0x10D)

/-- mtsys (R344). -/
def execMtsys (a : SReg) (n : Fin 4096) (s : State) : Out :=
  runSup (.mtsys a n) s fun s => if sysWritable n then .ok (sysWrite s n (s.rS a)) else .error (illegal 11)

/-- Entries of the operand log whose trap has been taken, and a refused alight, are tried again (R340, R321): the lanes that are neither
performed nor on their way. One whose own trap is still pending stays as it is. -/
def State.replayLog (s : State) : State :=
  let mine := s.ops.filter fun o => o.team == s.cur.team.id && o.gid == s.cur.group.gid && o.trapSent
    && !(s.cur.group.deferred.any fun t => t.age == o.id)
  mine.foldl (fun (s : State) (o : Op) => (s.mapOp o.id fun o => { o with
      trapSent := false, refused := 0, bad := none, logged := o.active &&& ~~~o.done &&& ~~~o.walking &&& ~~~(s.inFlight o.id), t0 := s.oclk o.seat }).now
    (.logReplay o.id)) s

/-- eret (R343): replay, then the user splits as they were; lanes retired by the handler end under R48 and R50. A group that trapped
in the unit of its vregrp stands at its regroup point again (R231). -/
def execEret (s : State) : Out :=
  runSup .eret s fun s =>
    let s := (s.replayLog.onGroup fun g => g.leaveTrap s.g).retire
    .ok (if s.cur.team.regroup.isSome then s.now (.regroupComplete s.cur.team.id) else s)

/-- A tlbinv in flight, counted in STORES until it completes (R345, R357). -/
def startTlbinv (s : State) (asid page : Option Nat) : State :=
  let s := s.launchOp { id := 0, seat := 0, core := 0, team := 0, gid := 0, kind := .tlbinv asid page, count := .stores }
  s.now (.tlbinvComplete (s.nextOp - 1))

/-- tlbinv.va (R345). -/
def execTlbinvVa (a : SReg) (s : State) : Out :=
  runSup (.tlbinvVa a) s fun s => .ok (startTlbinv s (some s.cur.team.region.asid) (some ((s.rS a).toNat % 2 ^ 57)))
/-- tlbinv.asid: a space of another region raises AccessFault (R345). -/
def execTlbinvAsid (a : SReg) (s : State) : Out :=
  runSup (.tlbinvAsid a) s fun s =>
    let n := fld (s.rS a).toNat 9 0
    if n = s.cur.team.region.asid then .ok (startTlbinv s (some n) none) else .error (trapOf .accessFault)
/-- tlbinv.all (R345). -/
def execTlbinvAll (s : State) : Out := runSup .tlbinvAll s fun s => .ok (startTlbinv s none none)

/-- seatctl.evack: TAIL moves on by at most the entries held (R346). -/
def execSeatctlEvack (a : SReg) (s : State) : Out :=
  runSup (.seatctlEvack a) s fun s =>
    let n : W32 := BitVec.ofNat 32 (fld (s.rS a).toNat 10 0)
    .ok (s.mapSeat s.cur.team.seat fun x => { x with evTail := x.evTail + pick BitVec.ult n (x.evHead - x.evTail) })

/-- halt and kill: DETAIL is S[a][15:0] (R346, R347). -/
def haltDetail (v : W64) : W64 := v &&& 0xFFFF#64

/-- seatctl.kill (R346): the team of a linear index of the current grid; none alive raises AccessFault. -/
def execSeatctlKill (a : SReg) (s : State) : Out :=
  runSup (.seatctlKill a) s fun s =>
    let n := (lo32 (s.rS a)).toNat
    let reason := (haltDetail (s.rS a)).toNat
    if n = s.cur.team.index then .ok (s.haltTeam s.cur.team.id reason (haltDetail (s.rS a)))
    else match s.teams.find? fun t => t.grid == s.cur.team.grid && t.index == n && t.state != .ended && t.halting.isNone with
      | some t => .ok (s.haltTeam t.id reason (haltDetail (s.rS a)))
      | none => .error (trapOf .accessFault)

/-- seatctl.yield: the quantum ends at the next frame boundary (R346). -/
def execSeatctlYield (a : SReg) (s : State) : Out :=
  runSup (.seatctlYield a) s fun s => .ok (s.mapSeat s.cur.team.seat fun x => { x with yield_ := true })

/-- halt (R347). -/
def execHalt (a : SReg) (s : State) : Out :=
  runSup (.halt a) s fun s => .ok (s.haltTeam s.cur.team.id (haltDetail (s.rS a)).toNat (haltDetail (s.rS a)))

end Sys2Proof.Machine
end

