-- ==== Sys2Proof/Machine/Translate.lean ====
section
/-!
DEFINITION. Translation: the tables (R348-R352), declared extents (R100, R359), the TLB (R355), and the mesh (R424).
-/

namespace Sys2Proof.Machine

open Sys2Proof

/-! ### Table entries (R350, R351) -/

def leafBit (w : W64) (k : Nat) : Bool := w.getLsbD k
/-- PA of an entry, bits [51:12] in place. -/
def entryPA (w : W64) : Nat := fld w.toNat 51 12 * 4096
/-- Ordering kind of a leaf (R130): 0 UO, 1 RC, 2 SO, 3 TSO. -/
def leafOrd (w : W64) : Nat := fld w.toNat 7 6
/-- Bits of the page offset at a level (R351). -/
def levelBits (level : Nat) : Nat := 12 + 9 * level
/-- The index of an address at a level (R348). -/
def levelIndex (va level : Nat) : Nat := va / 2 ^ levelBits level % 512

/-- A valid entry that R351 (or R412) calls malformed. -/
def malformed (level : Nat) (w : W64) : Bool :=
  let n := w.toNat
  let pa := entryPA w
  let leaf := leafBit w 1
  let host := leafBit w 54
  let ats := leafBit w 55
  (fld n 57 56 != 0 || fld n 53 52 != 0 || fld n 11 9 != 0)
    || (if leaf then
          decide (3 ≤ level) || decide (pa % 2 ^ levelBits level ≠ 0)
            || (ats && (!host || pa != 0)) || (leafBit w 3 && !leafBit w 2)
            || (if host then !ats && fld n 51 48 == 15 && fld n 44 40 != 0 else decide (Config.deviceBytes ≤ pa))
        else
          level == 0 || fld n 63 58 != 0 || host || ats || fld n 8 2 != 0 || decide (Config.deviceBytes ≤ pa))

/-- The place a leaf maps an address to: device DRAM, host memory (R364) or a Colalm peer (R412). -/
def leafPlace (level : Nat) (w : W64) (va : Nat) : Phys :=
  let off := va % 2 ^ levelBits level
  if leafBit w 54 then
    if fld w.toNat 51 48 = 15 then .peer (fld w.toNat 47 45) (fld w.toNat 39 12 * 4096 + off) else .host (entryPA w + off)
  else .dev (entryPA w + off)

/-- What a walk finds. -/
inductive Found where
  | leaf (level : Nat) (w : W64) (at_ : Nat)
  /-- V = 0, or a leaf being moved -/
  | absent (level : Nat) (w : W64) (at_ : Nat)
  | bad (at_ : Nat)
  /-- a pointer: the next table -/
  | table (pa : Nat)
  deriving DecidableEq, Repr

/-- How a walk acts on an entry (R351, R352). -/
def judge (level : Nat) (w : W64) (at_ : Nat) : Found :=
  if !leafBit w 0 then .absent level w at_
  else if malformed level w then .bad at_
  else if leafBit w 1 then (if leafBit w 63 then .absent level w at_ else .leaf level w at_)
  else .table (entryPA w)

/-- A walk of the tables in a memory from a level down (R348). -/
def walkFrom (m : Memory) (va : Nat) : Nat → Nat → Found
  | 0, table =>
    let a := table + 8 * levelIndex va 0
    judge 0 (Memory.read64 m a) a
  | level + 1, table =>
    let a := table + 8 * levelIndex va (level + 1)
    match judge (level + 1) (Memory.read64 m a) a with
    | .table pa => walkFrom m va level pa
    | f => f

/-- The record of an address space (R349) and its root table. What a non-zero reserved field of the record does no rule states: the
model reads no such field (log 3). -/
def rootOf (s : State) (m : Memory) (asid : Nat) : Nat := fld (Memory.read m (s.asBase + 16 * asid) 8) 51 12 * 4096
/-- A whole walk of an address space as a memory holds it. -/
def walkIn (s : State) (m : Memory) (asid va : Nat) : Found := walkFrom m va 4 (rootOf s m asid)
/-- A whole walk of an address space now. -/
def State.walkNow (s : State) (asid va : Nat) : Found := walkIn s s.mem asid va

/-- The host PASID an address space is bound to; none when PV is 0 (R349). -/
def State.pasidOf (s : State) (asid : Nat) : Option Nat :=
  let w := Memory.read s.mem (s.asBase + 16 * asid) 16
  if fld w 84 84 = 1 then some (fld w 83 64) else none

/-- An access outside a walk meets a malformed entry: the event log records the entry's address (R351). -/
def State.logBad (s : State) (t : Team) (va : Nat) : State :=
  match s.walkNow t.region.asid va with
  | .bad a => if canonical va then s.logEvent t.seat 1 t.core (s.oclk t.seat) (BitVec.ofNat 64 a) else s
  | _ => s

/-- A staged page (R406): level 0, V = 0, LEAF = 1, MIGR = 0, PA not 0. -/
def staged (level : Nat) (w : W64) : Bool := level == 0 && !leafBit w 0 && leafBit w 1 && !leafBit w 63 && entryPA w != 0

/-! ### Permission and the page of a lane -/

/-- What an access asks of its page (R352). -/
inductive Want where
  | read | write | both | fetch
  deriving DecidableEq, Repr

/-- The check of R352. -/
def permits (w : W64) (level : Level) (want : Want) : Bool :=
  !(leafBit w 5 && level == .user) && (match want with
    | .read => leafBit w 2
    | .write => leafBit w 3
    | .both => leafBit w 2 && leafBit w 3
    | .fetch => leafBit w 4 && !leafBit w 55)

/-- A translated lane: its place, its ordering kind and its commons flag. -/
structure Page where
  place : Phys
  ord : Nat
  com : Bool
  deriving DecidableEq, Repr

/-- The answer for a lane at issue (R353). -/
inductive Look where
  | ok (p : Page)
  | refused
  | miss
  deriving DecidableEq, Repr

/-- The declared ranges of a team that hold a byte address (R359). -/
def declaredAt (t : Team) (va : Nat) : List Declared := t.declared.filter fun d => d.base ≤ va && va < d.base + d.len
/-- The extent record of a byte address (R359). -/
def extentAt (t : Team) (va : Nat) : Option Extent := t.extents.find? fun e => e.vbase ≤ va && va < e.vbase + e.len

/-- Translation through the team's extents, with the permission of its record and of its ranges (R100, R352, R359); none when the
address lies in no declared range. -/
def lookExtent (t : Team) (va : Nat) (want : Want) : Option Look :=
  match declaredAt t va, extentAt t va with
  | [], _ => none
  | _, none => none
  | ds, some e =>
    if (e.r || want == .write) && (want == .read || ds.any (·.rw)) then
      some (.ok { place := .dev (e.pbase + (va - e.vbase)), ord := e.ord, com := e.com })
    else some .refused

/-- The TLB entry of a core that holds an address (R355). -/
def Seat.tlbAt (x : Seat) (core asid va : Nat) : Option TlbEntry :=
  x.tlb.find? fun e => e.core == core && e.asid == asid && e.vbase ≤ va && va < e.vbase + e.size

/-- The level of a page of a size (R351). -/
def sizeLevel (size : Nat) : Nat := if size = 4096 then 0 else if size = 2 ^ 21 then 1 else 2

/-- The place a TLB entry maps an address to; an ATS entry holds what the host answered (R365). -/
def entryPlace (e : TlbEntry) (va : Nat) : Phys :=
  if leafBit e.leaf 55 then .host (entryPA e.leaf + va % e.size) else leafPlace (sizeLevel e.size) e.leaf va

/-- Translate a lane of a team: extents, then the core's TLB (R353). An ATS entry holds the rights the host gave: an access it does not
give asks again, from the table on (R365). -/
def State.look (s : State) (t : Team) (lv : Level) (va : Nat) (want : Want) : Look :=
  match lookExtent t va want with
  | some l => l
  | none =>
    match s.findSeat t.seat with
    | none => .miss
    | some x =>
      match x.tlbAt t.core t.region.asid va with
      | none => .miss
      | some e =>
        if permits e.leaf lv want then
          .ok { place := entryPlace e va, ord := leafOrd e.leaf, com := leafBit e.leaf 8 }
        else if leafBit e.leaf 55 && want != .fetch then .miss
        else .refused

/-! ### The mesh (R424) -/

/-- Hops between two positions of a die. -/
def hopsBetween (a b : Nat) : Nat :=
  let d (x y : Nat) := max x y - min x y
  d (a % 8) (b % 8) + d (a / 8) (b / 8)
/-- The die of a device address (R348). -/
def dieOf (a : Nat) : Nat := a / Config.dieBytes
/-- The line of its die. -/
def lineOf (a : Nat) : Nat := a % Config.dieBytes / 128
/-- The home slice of an address: die and slice number. -/
def homeSlice (a : Nat) : Nat × Nat := (dieOf a, lineOf a % 64)
/-- The DRAM channel of an address. -/
def homeChannel (a : Nat) : Nat := lineOf a / 64 % 48
/-- The position of the crossing router of die d toward die e. -/
def crossing (d e : Nat) : Nat := if e = (d + 1) % 4 then 0 else if e = (d + 2) % 4 then 7 else 63

/-- The way from a position of a die to a position of a die: links on the way with the travel to each, and the travel
after the last (R54, R424). -/
def way (d p e q : Nat) : List (Struct × Nat) × Nat :=
  if d = e then ([], 2 * hopsBetween p q)
  else ([(.link d e, 2 * hopsBetween p (crossing d e) + 2)], 22 + 2 * hopsBetween (crossing e d) q)

/-- Add travel before the first structure of a list, or before what follows an empty one. -/
def lead (k : Nat) (l : List (Struct × Nat)) (t : Nat) (rest : List (Struct × Nat)) : List (Struct × Nat) :=
  match l with
  | [] =>
    match rest with
    | [] => []
    | (st, n) :: more => (st, n + t + k) :: more
  | (st, n) :: more => (st, n + k) :: more ++ (match rest with
    | [] => []
    | (st, n) :: r => (st, n + t) :: r)

/-- The whole way of a request to device address `a` from a core and of its reply: router, links, slice, channel, router,
links; and the cycles after the last until the reply is back. -/
def route (core a : Nat) : List (Struct × Nat) × Nat :=
  let d := core / 64
  let m := core % 64
  let (e, q) := homeSlice a
  let out := way d m e q
  let back := way e q d m
  let tail := back.2 + 6
  let atHome : List (Struct × Nat) := [(.slice e q, 0), (.dram e (homeChannel a), 14), (.router (64 * e + q), 0)]
  ((.router core, 6) :: lead 0 out.1 out.2 atHome ++ back.1, tail)

end Sys2Proof.Machine
end

