-- ==== Sys2Proof/Machine/Network.lean ====
section
/-!
DEFINITION. The network: positions of the shared structures (R10-R20), requests on their way (R54, R55, R422, R424), the
caches' tags (R84, R425), the contention predictor (R102), the order in which accesses perform (R129, R130, R422, R423), and
charged waits (R21-R23).
-/

namespace Sys2Proof.Machine

open Sys2Proof

/-! ### Positions -/

/-- The position length of a structure (R10, R411). -/
def structLen : Struct → Nat
  | .router _ => 1
  | .link _ _ => 1
  | .slice _ _ => 2
  | .dram _ _ => 16
  | .copyEngine _ => 4
  | .hostLink => 32
  | .colalm _ => 32

/-- The seat a device rota position belongs to in a frame, leases counted (R10, R19). -/
def State.rotaOwner (s : State) (pos frame : Nat) : Option Nat :=
  (s.seats.find? fun x => x.seated && (x.rotaMap frame).getLsbD (pos % 64)).map (·.num)

/-- The first cycle at or after `a` that begins a position the seat may use (R14, R17, R18, R20). -/
def State.nextUse (s : State) (seat len a : Nat) : Option Nat :=
  let p := (a + len - 1) / len
  if seat = 15 then some (p * len)
  else match s.findSeat seat with
    | none => none
    | some x =>
      ((List.range 64).find? fun k => (x.rotaMap ((p + k) * len / Config.frame)).getLsbD ((p + k) % 64)).map
        fun k => (p + k) * len

/-- Schedule an event unless the agenda holds it already. -/
def State.once (s : State) (c : Nat) (e : Event) : State := if s.agenda.contains (c, e) then s else s.at c e

/-- The operation a request belongs to. -/
def State.reqOp (s : State) (r : Req) : Option Op :=
  match r.kind with
  | .load | .store | .atomic => s.findOp r.owner
  | _ => none
def State.findReq (s : State) (id : Nat) : Option Req := s.reqs.find? fun r => r.id == id
def State.mapReq (s : State) (id : Nat) (f : Req → Req) : State :=
  { s with reqs := s.reqs.map fun r => if r.id = id then f r else r }
def State.dropReq (s : State) (id : Nat) : State := { s with reqs := s.reqs.filter fun r => r.id != id }

/-- The structure a request waits at. -/
def Req.head (r : Req) : Option Struct := (r.hops.head?).map (·.1)

/-- Schedule the first position at which a request may be served where it stands. -/
def State.schedule (s : State) (r : Req) : State :=
  match r.head with
  | none => s
  | some st =>
    match s.nextUse r.seat (structLen st) (max r.arrive s.g) with
    | some c => s.once c (.positionStart st)
    | none => s

/-- Schedule every waiting request again (after a change of the rota's owners). -/
def State.scheduleAll (s : State) : State := (s.reqs.filter (·.sent)).foldl (fun s r => s.schedule r) s

/-- The first passage of a slot at a core's station at or after a cycle (R307). -/
def nextPassage (slot core c : Nat) : Nat := c + (passPhase slot core + 2 * Config.revolution - c % Config.revolution) % Config.revolution
/-- Schedule a slot's next passage of a station. -/
def State.pokeRing (s : State) (slot core c : Nat) : State := s.once (nextPassage slot core c) (.ringPassage slot core 0)
/-- Ask the copy engine of a core to serve the seat at its next position from cycle `c` (R269). -/
def State.pokeEngine (s : State) (seat core c : Nat) : State :=
  match s.nextUse seat 4 c with
  | some c => s.once c (.copyPieceStart core seat)
  | none => s

/-- A request comes before another (R14): lower source core, then earlier in issue order; of one word, its own requests before
the reads of its walks, each kind in the order of their making (R55, log 45). -/
def Req.before (q r : Req) : Bool :=
  let walk (r : Req) : Nat := bit (r.kind == .walk)
  decide (q.core < r.core ∨ (q.core = r.core ∧ (q.age < r.age ∨ (q.age = r.age ∧ (walk q < walk r ∨ (walk q = walk r ∧ q.id < r.id))))))
/-- The request that goes first among several (R14). -/
def firstReq : List Req → Option Req
  | [] => none
  | r :: rs =>
    match firstReq rs with
    | none => some r
    | some q => if q.before r then some q else some r

/-! ### Cache tags (R425) -/

/-- The device line number of a place. -/
def Phys.lineNo (p : Phys) : Nat := p.addr / 128

/-- Sets of a seat's part of a core's L1. -/
def Seat.l1Sets (x : Seat) (core : Nat) : Nat :=
  match x.core? core with
  | some r => 32 * r.l1u
  | none => 0
/-- The line is in the seat's part of a core's L1. -/
def Seat.inL1 (x : Seat) (core line : Nat) : Bool := x.l1.any fun l => l.at_ == core && l.line == line
/-- The core whose L1 part owns the line. -/
def Seat.l1Owner (x : Seat) (line : Nat) : Option Nat := (x.l1.find? fun l => l.line == line && l.owned).map (·.at_)
/-- The line of fewer uses among two: a .nt line first, the one placed last of them; then the older stamp. -/
def lruBefore (a b : Line) : Bool :=
  if a.nt && b.nt then b.stamp < a.stamp else if a.nt then true else if b.nt then false else a.stamp < b.stamp
/-- The least recently used of a list of lines. -/
def lruLine : List Line → Option Line
  | [] => none
  | l :: ls =>
    match lruLine ls with
    | none => some l
    | some m => if lruBefore m l then some m else some l
/-- The line a fill replaces in a set of `ways` ways: none while there is room; .keep lines last (R425). -/
def victim (ways : Nat) (inSet : List Line) : Option Line :=
  if inSet.length < ways then none
  else match lruLine (inSet.filter fun l => !l.keep) with
    | some l => some l
    | none => lruLine inSet
/-- Put a line into a part of `ways` ways a set; nothing when there is none. A line that is held stays as it is, with the ownership
it gains, and is the most recently used. -/
def fillLine (ways : Nat) (inSet : Line → Bool) (l : Line) (ls : List Line) : List Line :=
  let here (m : Line) : Bool := m.at_ == l.at_ && m.line == l.line
  if ls.any here then ls.map fun m => if here m then { m with stamp := l.stamp, nt := false, owned := m.owned || l.owned } else m
  else if ways = 0 then ls
  else match victim ways (ls.filter inSet) with
    | none => ls ++ [l]
    | some v => (ls.filter fun m => m != v) ++ [l]
/-- Fill a line into a core's L1 part. -/
def Seat.fillL1 (x : Seat) (l : Line) : Seat :=
  let n := x.l1Sets l.at_
  if n = 0 then x
  else { x with l1 := fillLine 4 (fun m => m.at_ == l.at_ && m.line % n == l.line % n) l x.l1 }
/-- A hit makes the line most recently used. -/
def touchLine (at_ line stamp : Nat) (ls : List Line) : List Line :=
  ls.map fun l => if l.at_ = at_ ∧ l.line = line then { l with stamp := stamp, nt := false } else l

/-- The number of a slice: 64 · die + position. -/
def sliceNo (a : Nat) : Nat := 64 * (homeSlice a).1 + (homeSlice a).2
/-- The set of a line in its home slice. -/
def l2Set (line : Nat) : Nat := lineOf (128 * line) / 64 % 1024
/-- The line is in the seat's L2 ways. -/
def Seat.inL2 (x : Seat) (line : Nat) : Bool := x.l2.any fun l => l.line == line
/-- Fill a line into the seat's ways of its home slice. -/
def Seat.fillL2 (x : Seat) (l : Line) : Seat :=
  { x with l2 := fillLine x.pl.l2w (fun m => m.at_ == l.at_ && l2Set m.line == l2Set l.line) l x.l2 }

/-! ### The contention predictor (R102) -/

/-- Index and tag of an address. -/
def predIdx (va : Nat) : Nat := va / 128 % 64
def predTag (va : Nat) : Nat := va % 2 ^ 57 / 8192
def Seat.predAt (x : Seat) (core va : Nat) : Option Pred := x.pred.find? fun p => p.core == core && p.idx == predIdx va
/-- The predictor sends the lane to the home slice. -/
def Seat.predHome (x : Seat) (core va : Nat) : Bool :=
  match x.predAt core va with
  | some p => p.tag == predTag va && decide (2 ≤ p.count)
  | none => false
/-- The entry after a lane performs, in L1 or at the home slice. `up`: in L1, ownership came from another L1 of the seat; at the
slice, its record does not name this core. -/
def Seat.predUpdate (x : Seat) (core va : Nat) (inL1 up : Bool) : Seat :=
  let fresh := if inL1 && !up then 0 else 2
  let n := match x.predAt core va with
    | some p => if p.tag = predTag va then (if up then min 3 (p.count + 1) else p.count - 1) else fresh
    | none => fresh
  { x with pred := (x.pred.filter fun p => !(p.core == core && p.idx == predIdx va))
      ++ [{ core := core, idx := predIdx va, tag := predTag va, count := n }] }

/-! ### Bytes as a portable group sees them (R398) -/

/-- The place of an address now, through extents, the TLB of the team's core and the tables; none where it does not translate, and on an
ATS page that no entry holds, whose place the host alone knows (R365). -/
def State.placeNow (s : State) (t : Team) (va : Nat) : Option Phys :=
  match lookExtent t va .read with
  | some (.ok p) => some p.place
  | some _ => none
  | none =>
    match (s.findSeat t.seat).bind fun x => x.tlbAt t.core t.region.asid va with
    | some e => some (entryPlace e va)
    | none =>
      match s.walkNow t.region.asid va with
      | .leaf level w _ => if leafBit w 55 then none else some (leafPlace level w va)
      | _ => none

/-- `n` bytes of a team's space as they stand now, a byte that does not translate reading as zero. -/
def State.bytesNow (s : State) (t : Team) (a n : Nat) : List Byte :=
  (List.range n).map fun k => match s.placeNow t (a + k) with
    | some p => BitVec.ofNat 8 (s.readAt p 1)
    | none => 0
/-- The fields of a kernel descriptor keep the limits of R38, R39, R168 and R169. -/
def Kernel.legal (k : Kernel) : Bool :=
  (k.roles.length == 1 || k.roles.length == 2) && (k.roles.all fun r => r.groups != 0 && [16, 32, 48, 64].contains r.allot)
    && decide (k.roles.foldl (fun n r => n + r.groups) 0 ≤ 16) && decide (k.scratch ≤ 128) && decide (k.abuf ≤ 256) && decide (k.wbuf ≤ 128)
    && decide (k.xbuf ≤ 128) && decide (k.extents.length ≤ 16) && k.extents.all fun e => decide (e.1 < 8) && match e.2.1 with
      | .inl n => decide (1 ≤ n ∧ n ≤ 2 ^ 57)
      | .inr w => decide (w < 8)
/-- The kernel that a descriptor's bytes declare; none where a field breaks R168 (log 12). -/
def kernelIn (bs : List Byte) : Option Kernel := (Config.kernelOf bs).filter Kernel.legal
/-- The first bytes of the pages of a kernel descriptor after its first one, 23 of them at most (R275). -/
def descriptorPages (a : Nat) : List Nat :=
  ((List.range 23).map fun k => (a / 4096 + 1 + k) * 4096).filter fun p => decide (p < a + Config.kernelBytes)

/-- The width in bytes of a lane's access. -/
def opWidth : OpKind → Nat
  | .launchRead _ _ _ => 8
  | .load _ n _ => n
  | .store _ n => n
  | .atomic _ op _ => aopBytes op
  | _ => 0

/-- The byte a buffered store of a list puts at a place, if one does: the newest op, the highest lane. -/
def storeByte (key : Op → Nat → Option Phys) (sp : Space) (p : Phys) : List Op → Option Byte
  | [] => none
  | o :: os =>
    match storeByte key sp p os with
    | some b => some b
    | none =>
      match o.kind with
      | .store sp' n =>
        if sp' = sp then
          ((List.range 32).reverse.findSome? fun L =>
            if o.active.getLsbD L then
              match key o L with
              | some q => (List.range n).findSome? fun k =>
                  if q.add k = p then some (BitVec.ofNat 8 ((SMap.get 0 o.x L).toNat / 256 ^ k)) else none
              | none => none
            else none)
        else none
      | _ => none

/-- Buffered operations of a group older than an identifier, in program order (R129, R397). -/
def State.buffered (s : State) (team gid id : Nat) : List Op :=
  s.ops.filter fun o => o.team == team && o.gid == gid && o.buffered && decide (o.id < id)

/-- The memories as a load of a team finds them: in portable mode as they stood after the last commit of its grid (R398). -/
def State.viewOf (s : State) (t : Team) : Store :=
  if t.mode.port then ((s.grids.find? fun g => g.id == t.grid).map (·.image)).getD s.store else s.store
/-- `n` bytes at a global place as an operation of a group reads them: in portable mode those of the last commit, with the group's older
buffered stores laid over them (R129, R398). -/
def State.readOver (s : State) (team gid id : Nat) (p : Phys) (n : Nat) : Nat :=
  match s.getTeam team with
  | none => s.readAt p n
  | some t =>
    if !t.mode.port then s.readAt p n
    else
      let os := s.buffered team gid id
      wordOfBytes (((s.viewOf t).bytes p n).zipIdx.map fun q =>
        (storeByte (fun o L => s.placeNow t (SMap.get 0 o.addr L)) .global (p.add q.2) os).getD q.1)

/-! ### Charged waits (R21-R23, R404) -/

/-- The first frame boundary at or after a cycle. -/
def nextFrame (g : Nat) : Nat := (g + Config.frame - 1) / Config.frame * Config.frame

/-- Begin a charged wait; its due point is t0 + C. -/
def State.charge (s : State) (seat : Nat) (w : Charged) (c : Nat) : Nat × State :=
  let (id, s) := s.fresh
  let due := w.t0 + c
  let s := s.mapSeat seat fun x => { x with waits := x.waits ++ [{ w with id := id, vf := x.vf, due := due }] }
  (id, s.at (s.g + (due - s.oclk seat)) (.chargedWaitDue seat id))

def Seat.findWait (x : Seat) (id : Nat) : Option Charged := x.waits.find? fun w => w.id == id
/-- The outside party of a wait finishes at device cycle `c`. -/
def State.waitDone (s : State) (seat id c : Nat) : State :=
  s.mapSeat seat fun x => { x with waits := x.waits.map fun w => if w.id = id ∧ w.doneAt = none then { w with doneAt := some c } else w }
/-- The charged waits of an owner. -/
def State.waitsOf (s : State) (seat : Nat) (ow : FaultOwner) : List Charged :=
  match s.findSeat seat with
  | some x => x.waits.filter fun w => w.owner == ow
  | none => []

/-- The charged waits of the home write of a slot, of the function that is seated: one that is away may have waits on a slot of the same
number (R317). -/
def State.homeWaits (s : State) (seat i : Nat) : List Charged :=
  match s.findSeat seat with
  | some x => x.waits.filter fun w => w.owner == .alight i && w.vf == x.vf
  | none => []

/-! ### Completion of operations -/

/-- Writes wait for these: every older write of the group that has not performed (R423). -/
def Op.isWrite (o : Op) : Bool :=
  match o.kind with
  | .store _ _ => true
  | .atomic _ _ _ => true
  | .ring _ (.mod _ _ _ _) => true
  | .ring _ .alight => true
  | _ => false
/-- The write is performed. -/
def Op.wrote (o : Op) : Bool :=
  match o.kind with
  | .ring _ (.mod _ _ _ _) => o.applied.isSome
  | .ring _ .alight => o.landed == 1
  | _ => o.done == o.active
/-- An older write of the group is still to perform. -/
def State.writesBefore (s : State) (team gid id : Nat) : Bool :=
  s.ops.any fun o => o.team == team && o.gid == gid && decide (o.id < id) && o.isWrite && !o.wrote

/-- Bytes of a local space that an operation touches: start and length, with the space. -/
def Op.localBytes (o : Op) : Space × List (Nat × Nat) :=
  let lanes (n : Nat) : List (Nat × Nat) := (lanesOf (o.active &&& ~~~o.done)).map fun L => (SMap.get 0 o.addr L, n)
  match o.kind with
  | .load sp n _ => (sp, lanes n)
  | .store sp n => (sp, lanes n)
  | .atomic sp op _ => (sp, lanes (aopBytes op))
  | .bar off _ => (.scratch, [(off, 16)])
  | _ => (.global, [])
/-- An older operation of the group that a hold of R423 keeps back touches the operation's bytes in a local space (R135). -/
def State.heldBehind (s : State) (o : Op) : Bool :=
  let mine := o.localBytes
  mine.1 != .global && s.ops.any fun p => p.team == o.team && p.gid == o.gid && decide (p.id < o.id) && p.held
    && p.localBytes.1 == mine.1 && p.localBytes.2.any fun a => mine.2.any fun b => decide (a.1 < b.1 + b.2 ∧ b.1 < a.1 + a.2)
/-- The operation is a copy or gather that waits for older writes of its group (R423). -/
def Op.awaitsWrites (o : Op) : Bool :=
  o.started && o.orderAge != 0 && match o.kind with
    | .copy c => !c.inFlight
    | _ => false
/-- Held releases of a group, and commands ordered after its writes, are looked at again (R423). -/
def State.wakeReleases (s : State) (team gid : Nat) : State :=
  let mine := s.ops.filter fun o => o.team == team && o.gid == gid
  let s := (mine.filter fun o => o.held).foldl (fun s o => s.once s.g (.releaseApply o.id)) s
  (mine.filter Op.awaitsWrites).foldl (fun s o => s.pokeEngine o.seat o.core (s.g + 1)) s

/-- Write the destination of a load or of an atomic's old values (R247, R405). -/
def Group.land (g : Group) (o : Op) : Group :=
  match o.dest with
  | .none => g
  | .vec d pair =>
    let g := g.landV o d fun L => lo32 (SMap.get 0 o.result L)
    if pair then g.landV o (d + 1) fun L => hi32 (SMap.get 0 o.result L) else g
  | .scal d => g.landS o d (SMap.get 0 o.result 0)

/-- Operations of a group that wait for an operand log entry take one that is free (R248). -/
def State.assignLogs (s : State) (team gid : Nat) : State :=
  (s.ops.filter fun o => o.team == team && o.gid == gid && o.noEntry).foldl (fun s o =>
    match s.freeLog team gid with
    | some k =>
      let (n, s) := s.fresh
      let s := s.mapOp o.id fun o => { o with inLog := true, logIdx := k, logSeq := n, noEntry := false }
      if o.logged = (0 : LaneMask) then s.once s.g (.logReplay o.id) else s
    | none => s) s

/-- An operation enters its group's operand log, or finds four entries held (R248). The log of a team that has been halted is discarded
(R347). -/
def State.enterLog (s : State) (id : Nat) : State :=
  match s.findOp id with
  | none => s
  | some o =>
    let s := if (s.getTeam o.team).any fun t => t.halting.isSome then s.now (.drainComplete o.team) else s
    if o.inLog then s
    else match s.freeLog o.team o.gid with
      | some k =>
        let (n, s) := s.fresh
        s.mapOp id fun o => { o with inLog := true, logIdx := k, logSeq := n }
      | none => s.mapOp id fun o => { o with noEntry := true }

/-- Log entries that are resolved try their replay, in log order (R142, R340). -/
def State.replayNext (s : State) (team gid : Nat) : State :=
  (s.ops.filter fun o => o.team == team && o.gid == gid && o.owed).foldl (fun s o => s.once s.g (.logReplay o.id)) s

/-- The operation completes: its destination is written and it leaves (R245). -/
def State.landOp (s : State) (id : Nat) : State :=
  match s.findOp id with
  | none => s
  | some o =>
    let s := s.anyGroup o.team o.gid fun g => g.land o
    let s := s.finishOp id
    let s := if o.inLog then (s.assignLogs o.team o.gid).replayNext o.team o.gid else s
    s.wakeReleases o.team o.gid

/-- The predictor takes the lanes of an atomic that have performed, in ascending lane order: a lane waits for the lower lanes that
are still to perform, those in the operand log among them; a lane that is refused never performs (R102). -/
def State.train (s : State) (id seat : Nat) : State :=
  match s.findOp id with
  | none => s
  | some o =>
    let open_ := o.active &&& ~~~o.done &&& ~~~o.refused &&& ~~~o.uncorr
    let ready := sortBy (fun a b => decide (a.1 < b.1)) (o.trained.filter fun q => !((List.range q.1).any fun L => open_.getLsbD L))
    (s.mapSeat seat fun x => ready.foldl (fun x q =>
      x.predUpdate o.core (SMap.get 0 o.addr q.1) (q.2 % 2 == 1) (q.2 / 2 == 1)) x).mapOp id fun o =>
        { o with trained := o.trained.filter fun q => !ready.contains q }

/-- The lanes that a translation fault stopped have all replayed: each is performed, and none whose value is to return is on its way (R404). -/
def State.replayed (s : State) (o : Op) : Bool :=
  o.faulted &&& ~~~o.done == 0
    && (o.dest == .none || !(s.reqs.any fun r => r.owner == o.id && (r.kind == .load || r.kind == .atomic) && r.lanes &&& o.faulted != 0))
/-- The operation of a request or an owner has lanes whose page the host is to translate (R365). -/
def State.asksHost (s : State) (ow : FaultOwner) : Bool := s.walks.any fun w => w.ats && w.waiters.any fun a => a.1 == ow

/-- Look whether an operation is complete, or owes its deferred trap (R248, R340, R404, R405). The outside party of a translation fault
has finished once the lanes it stopped have replayed (R404). -/
def State.checkOp (s : State) (id : Nat) : State :=
  match s.findOp id with
  | none => s
  | some o =>
    let s := if o.trained = [] then s else s.train id o.seat
    if o.held ∨ o.buffered then s
    else
      let ow : FaultOwner := .op id
      let s := if o.bad.isNone && s.replayed o then
          (s.waitsOf o.seat ow).foldl (fun s w => if w.event = 1 then s.waitDone o.seat w.id s.g else s) s
        else s
      if o.walking ≠ 0 then s
      else match o.bad with
        | some k =>
          if o.trapSent then s
          else if o.done ||| o.logged ||| o.refused ||| o.uncorr = o.active ∧ (o.inLog ∨ k = .memoryUncorrectable)
              ∧ (k ≠ .memoryUncorrectable ∨ o.pending = 0) ∧ (k ≠ .translationFault ∨ s.waitsOf o.seat ow = []) then
            if k = .memoryUncorrectable then (s.defer o k).finishOp id
            else ((s.mapOp id fun o => { o with trapSent := true }).defer o k).replayNext o.team o.gid
          else s
        | none =>
          if o.done ≠ o.active ∨ o.pending ≠ 0 then s
          else match s.waitsOf o.seat ow, o.kind with
            | [], .launchRead _ _ _ => s
            | [], .ring i _ =>
              if o.from_ ≠ 0 then s
              else
                let c := max s.g (o.issued + 1)
                let s := (s.mapOp id fun o => { o with from_ := c, inLog := false }).pokeRing i o.core c
                if o.inLog then (s.assignLogs o.team o.gid).replayNext o.team o.gid else s
            | [], _ => s.landOp id
            | ws, _ => ws.foldl (fun s w => if w.event = 1 ∨ w.event = 3 then s.waitDone o.seat w.id s.g else s) s

/-! ### Performing (R129, R139, R140, R422) -/

/-- Sign- or zero-extend a loaded value of `n` bytes to a register. -/
def extendLoad (n : Nat) (signed : Bool) (v : Nat) : W64 :=
  if n = 8 then BitVec.ofNat 64 v
  else if signed then (if n = 1 then zext64 ((BitVec.ofNat 8 v).signExtend 32) else if n = 2 then zext64 ((BitVec.ofNat 16 v).signExtend 32) else BitVec.ofNat 64 v)
  else BitVec.ofNat 64 v

/-- The old value of an atomic as its destination takes it: a scalar .s32 is sign-extended (R253). -/
def oldValue (op : AOp) (signed : Bool) (x : Nat) : W64 :=
  if signed && aopSigned op then sext64 (BitVec.ofNat 32 x) else BitVec.ofNat 64 x

/-- Lanes have performed. -/
def Op.markDone (o : Op) (m : LaneMask) : Op := { o with done := o.done ||| m, logged := o.logged &&& ~~~m }

/-- The place of a lane of a request: a page is at least 4 KiB, so line offsets agree. -/
def laneAt (r : Req) (o : Op) (L : Nat) : Phys := r.place.add (SMap.get 0 o.addr L % 128)

/-- The bytes of a kernel descriptor that a lane of its launch reads: to the end of the lane's page, or of the descriptor. -/
def Op.descriptorPart (o : Op) (L : Nat) : Nat :=
  let a := SMap.get 0 o.addr L
  min (SMap.get 0 o.addr 0 + Config.kernelBytes - a) (4096 - a % 4096)
/-- A launch takes lanes of its descriptor: once all of it is read, its grid has its kernel (R276). -/
def State.readDescriptor (s : State) (o : Op) (r : Req) (gr : Nat) : State :=
  let m := r.lanes &&& ~~~0x1FE#32
  if m = 0 then s
  else
    let parts := (lanesOf m).map fun L => (L, bytesOf (o.descriptorPart L) (s.readAt (laneAt r o L) (o.descriptorPart L)))
    let desc := o.desc ++ parts
    let s := s.mapOp o.id fun o => { o.markDone m with desc := desc }
    if o.active &&& ~~~0x1FE#32 &&& ~~~(o.done ||| m) ≠ 0 then s
    else
      let k := (kernelIn ((sortBy (fun (a b : Nat × List Byte) => decide (a.1 < b.1)) desc).flatMap (·.2))).getD {}
      { s with grids := s.grids.map fun (g : Grid) => if g.id = gr then { g with kernel := k } else g }
/-- A load request performs: the lanes' values are taken now. A piece takes its bytes; a launch its kernel, through lane 0 and the lanes
above 8, and parameter word k through lane k + 1 (R276). -/
def State.doLoad (s : State) (r : Req) : State :=
  match s.findOp r.owner with
  | none => s
  | some o =>
    match o.kind with
    | .copy c =>
      let bs := bytesOf c.piece (s.readOver o.team o.gid o.id (r.place.add (r.va % 128)) c.piece)
      s.mapOp o.id fun o => { o with kind := .copy { c with data := bs } }
    | .load _ n signed =>
      s.mapOp o.id fun o => (lanesOf r.lanes).foldl (fun o L =>
        { o with result := SMap.set 0 o.result L (extendLoad n signed (s.readOver o.team o.gid o.id (laneAt r o L) n)) }) (o.markDone r.lanes)
    | .launchRead gr _ _ =>
      let s := s.readDescriptor o r gr
      s.mapOp o.id fun o => (lanesOf (r.lanes &&& 0x1FE)).foldl (fun o L =>
        { o with result := SMap.set 0 o.result L (BitVec.ofNat 64 (s.readAt (laneAt r o L) 8)) }) (o.markDone (r.lanes &&& 0x1FE))
    | _ => s.mapOp o.id fun o => o.markDone r.lanes

/-- A store performs: copies of the line leave the seat's L1 parts, the line's L2 copy becomes most recent (R422). -/
def State.storeTags (s : State) (r : Req) : State :=
  match r.place with
  | .dev a =>
    let (n, s) := s.fresh
    s.mapSeat r.seat fun x => { x with
      l1 := x.l1.filter fun l => l.line != a / 128
      l2 := touchLine (sliceNo a) (a / 128) n x.l2 }
  | _ => s

/-- A store request performs: lanes in ascending order, so the highest lane's bytes remain (R6, R155). -/
def State.doStore (s : State) (r : Req) : State :=
  match s.findOp r.owner with
  | none => s
  | some o =>
    let s := match o.kind with
      | .store _ n => (lanesOf r.lanes).foldl (fun (s : State) L => s.writeAt (laneAt r o L) (bytesOf n (SMap.get 0 o.x L).toNat)) s
      | .copy c => s.writeAt (r.place.add (r.va % 128)) c.data
      | _ => s
    (s.mapOp o.id fun o => o.markDone r.lanes).storeTags r

/-- An atomic request performs: its lanes are separate read-modify-writes in ascending order (R139, R251). A line that another L1 part
of the seat holds without ownership counts as taken from the home slice (R102, log 106). -/
def State.doAtomic (s : State) (r : Req) : State :=
  match s.findOp r.owner with
  | none => s
  | some o =>
    match o.kind with
    | .atomic _ op signed =>
      let n := aopBytes op
      let s := (lanesOf r.lanes).foldl (fun (s : State) L =>
        let p := laneAt r o L
        let x := s.readAt p n
        let v := aopNew op (BitVec.ofNat 64 x) (SMap.get 0 o.x L) (SMap.get 0 o.y L)
        (State.writeAt s p (bytesOf n v.toNat)).mapOp o.id fun o => { o with result := SMap.set 0 o.result L (oldValue op signed x) }) s
      let s := s.mapOp o.id fun o => o.markDone r.lanes
      match r.place with
      | .dev a =>
        let line := a / 128
        let (k, s) := s.fresh
        match s.findSeat r.seat with
        | none => s
        | some x =>
          let learn (s : State) (code : Nat → Nat) : State :=
            (s.mapOp o.id fun o => { o with trained := o.trained ++ (lanesOf r.lanes).zipIdx.map fun q => (q.1, code q.2) }).train o.id r.seat
          if r.inL1 then
            let other := match x.l1Owner line with
              | some c => c != r.core
              | none => false
            let x := { x with l1 := x.l1.filter fun l => !(l.line == line && l.at_ != r.core) }
            learn (s.mapSeat r.seat fun _ => x.fillL1 { at_ := r.core, line := line, owned := true, stamp := k }) fun _ => 1 + 2 * bit other
          else
            let same := x.l2.any fun l => l.line == line && l.lastCore == some r.core
            let s := s.mapSeat r.seat fun _ => { x with
              l1 := x.l1.filter fun l => l.line != line
              l2 := x.l2.map fun l => if l.line = line then { l with lastCore := some r.core, stamp := k } else l }
            if r.com || r.strong then s else learn s fun k => 2 * bit (!same && k == 0)
      | _ => s
    | _ => s

/-- A raise of a leaf's heat performs (R354): only its field changes. -/
def State.doHeat (s : State) (r : Req) : State :=
  let w := s.mem |> fun m => Memory.read64 m r.va
  let sh := if r.owner = 1 then 60 else 58
  if leafBit w 0 && decide (fld w.toNat (sh + 1) sh < 3) then
    { s with mem := Memory.write s.mem r.va 8 (w.toNat + 2 ^ sh) } |>.storeTags r
  else s.storeTags r

/-- The write home of an alight performs (R151, R321): the payload goes to the home and the slot becomes EMPTY. A write of a function that
has been put away since finds another slot under its number, and sets out again when that function is back (R317). -/
def State.doAlight (s : State) (r : Req) : State :=
  match s.slots.find? fun p => p.1 == r.owner && p.2.writing.any fun w => w.1 == r.age with
  | none => s
  | some (i, sl) =>
    let s := (s.writeAt sl.place (sl.payload.flatMap fun w => bytesOf 4 w.toNat)).mapOp r.age fun o => { o with started := true }
    (s.storeTags r).once s.g (.alightWritePerformed i)

/-- One request performs; the read of a walk takes the entry as it then stands (R353, log 47). -/
def State.performOne (s : State) (r : Req) : State :=
  let s := s.mapReq r.id fun r => { r with performed := true }
  match r.kind with
  | .load => s.doLoad r
  | .store => s.doStore r
  | .atomic => s.doAtomic r
  | .heat => s.doHeat r
  | .alight => s.doAlight r
  | .walk => { s with walks := s.walks.map fun w => if w.id = r.owner then { w with entry := Memory.read64 s.mem r.va } else w }
  | _ => s

/-! ### Sending (R54, R55, R130, R422) -/

/-- The group of a request's operation. -/
def State.reqGroup (s : State) (r : Req) : Option (Nat × Nat) := (s.reqOp r).map fun o => (o.team, o.gid)

/-- The threads that lanes of an operation stand for (R129). -/
def Op.threadsOf (o : Op) (m : LaneMask) : LaneMask := if m = 0 then 0 else if o.threads = 0 then m else o.threads
/-- The lanes of an operation that wait for a walk and whose lines come no later in the request order (R55). -/
def Op.walkingBefore (o : Op) (line : Nat) : LaneMask :=
  maskOf fun L => o.walking.getLsbD L && decide (SMap.get 0 o.addr L / 128 ≤ line)

/-- Two byte ranges meet. -/
def bytesMeet (a b : Nat × Nat) : Bool := decide (a.1 < b.1 + b.2 ∧ b.1 < a.1 + a.2)
/-- The bytes a lane of an operation accesses: address and length. Lane 0 and the lanes above 8 of a launch read its kernel descriptor to
the end (R276). -/
def Op.laneBytes (o : Op) (L : Nat) : Nat × Nat :=
  let a := SMap.get 0 o.addr L
  match o.kind with
  | .launchRead _ _ _ => (a, if L = 0 ∨ 8 < L then SMap.get 0 o.addr 0 + Config.kernelBytes - a else 8)
  | k => (a, opWidth k)
/-- Lanes of two operations are of one thread and access a byte both, by address, or where `line` by their places in one line (R129). -/
def Op.clashes (o p : Op) (line : Bool) (m n : LaneMask) : Bool :=
  (lanesOf m).any fun L => (lanesOf n).any fun M =>
    let a := o.laneBytes L
    let b := p.laneBytes M
    o.threadsOf (1#32 <<< L) &&& p.threadsOf (1#32 <<< M) != 0
      && (bytesMeet a b || (line && bytesMeet (a.1 % 128, a.2) (b.1 % 128, b.2)))
/-- An access of a lane to memory, which R129 orders behind those of its thread; an engine's piece is none (R145). -/
def Req.ofLanes (r : Req) (o : Op) : Bool :=
  (r.kind == .load || r.kind == .store || r.kind == .atomic) && match o.kind with
    | .copy _ => false
    | _ => true
/-- Request `q` is an older access of the group of `r`, to the same line. -/
def State.precedes (s : State) (q r : Req) : Option (Op × Op) :=
  match s.reqOp q, s.reqOp r with
  | some p, some o =>
    if q.place == r.place && decide (q.owner < r.owner) && p.team == o.team && p.gid == o.gid && q.ofLanes p && r.ofLanes o then some (p, o) else none
  | _, _ => none
/-- An older access of a thread to a byte that the request accesses (R129). -/
def State.behind (s : State) (q r : Req) : Bool := (s.precedes q r).any fun a => a.1.clashes a.2 true q.lanes r.lanes
/-- The older accesses that perform before a request does: those of its threads to its bytes that have not performed, those that come
before these in the same way, and so on, oldest first, so that every location's accesses follow program order (R129). `canSend` lets no
request go before one of them that R423 or R142 holds, or that is on a page of another kind, so that what performs here early is held by
no other rule: on an SO or TSO page `orderHeld` keeps the request itself behind them. -/
def State.olderOf (s : State) (r : Req) : List Req :=
  let older := sortBy (fun (a b : Req) => decide (b.owner < a.owner)) (s.reqs.filter fun q => !q.performed && (s.precedes q r).isSome)
  (older.foldl (fun l q => if l.any (s.behind q) then q :: l else l) [r]).dropLast

/-! ### Stopped seats (R23) -/

/-- The seat is stopped by a late wait (R23). -/
def State.isFrozen (s : State) (seat : Nat) : Bool :=
  match s.findSeat seat with
  | some x => x.frozen.isSome
  | none => false
/-- The owner of an operation's charged waits. -/
def Op.waiter (o : Op) : FaultOwner :=
  match o.kind with
  | .copy _ => .piece o.id
  | _ => .op o.id
/-- An operation that a charged wait covers: its replay goes on while its seat is stopped (R404). -/
def State.charged (s : State) (o : Op) : Bool := !(s.waitsOf o.seat o.waiter).isEmpty
/-- A request that moves although its seat is stopped: one of a charged operation, a walk for one, a raise of
heat that follows such a walk, or one to the host or a peer. -/
def State.moves (s : State) (r : Req) : Bool :=
  !r.place.isDev || (match r.kind with
    | .visit => true
    | .walk => match s.walks.find? fun w => w.id == r.owner with
      | some w => w.waiters.any fun a => !(s.waitsOf w.seat a.1).isEmpty
      | none => false
    | .alight => !(s.homeWaits r.seat r.owner).isEmpty
    | .heat => true
    | _ => match s.reqOp r with
      | some o => s.charged o
      | none => false)
/-- A request that waits where it stands, because its seat is stopped. -/
def State.stands (s : State) (r : Req) : Bool := s.isFrozen r.seat && !s.moves r

/-- The request may enter the network. It may not while its operation is held (R423) or its seat stopped (R23); while an older store of
the group to its line is to perform, where it reads (R422); while an older access of its threads to its bytes is itself unsent, is on a
page of another kind, waits for a walk or in the operand log, or reads for a launch (R129, R276); and on an SO or TSO page, while an
earlier access of its threads waits for translation or in the operand log, or, if its word issued while the log held an entry, until
the log holds none but those that this request itself keeps back (R130, R142, R152, R155, log 124). -/
def State.canSend (s : State) (r : Req) : Bool :=
  match s.reqOp r with
  | none => !(s.stands r)
  | some o =>
    let mine (p : Op) : Bool := p.team == o.team && p.gid == o.gid
    let thr := o.threadsOf r.lanes
    let apart (p : Op) : Bool := decide (p.id < o.id) && mine p && (lanesOf (p.walking ||| p.logged)).any fun L =>
      match p.kind, r.kind with
      | .store _ _, .store => p.clashes o false (1#32 <<< L) r.lanes
      | .store _ _, _ => SMap.get 0 p.addr L / 128 == r.va / 128
      | _, _ => p.clashes o false (1#32 <<< L) r.lanes
    let reads (p : Op) : Bool := decide (p.id < o.id) && mine p && r.kind != .load && match p.kind with
      | .launchRead _ _ _ => p.clashes o false (p.active &&& ~~~p.done) r.lanes
      | _ => false
    !o.held && !(s.stands r)
      && !(r.ofLanes o && ((s.reqs.any fun q => !q.performed
              && (((s.precedes q r).isSome && q.kind == .store && r.kind != .store)
                || (s.behind q r && ((!q.sent && q.hops == []) || q.ord != r.ord))))
            || s.ops.any fun p => apart p || reads p))
      && (!r.strong || !(s.ops.any fun p => mine p
            && (if p.id = o.id then p.walkingBefore (r.va / 128) != 0
                else (decide (p.id < o.id) && p.threadsOf (p.walking ||| p.logged) &&& thr != 0)
                  || (o.underLog && p.inLog && (decide (p.id < o.id) || !(s.reqs.any fun q => q.owner == p.id && q.strong && !q.performed))))))

/-- Two accesses of one thread, the earlier first, keep their order on pages of these kinds: all on SO pages; on TSO pages all but a
load after a store, since each load acquires and each store releases there (R130, R152). -/
def keepsOrder (a b : Req) : Bool :=
  a.ord == b.ord && (a.ord == 2 || (a.ord == 3 && !(a.kind == .store && b.kind == .load)))

/-- The request has come to the place where it performs, but an earlier access of one of its threads that it follows has not
performed: it waits there (R130, R152, R155). -/
def State.orderHeld (s : State) (r : Req) : Bool :=
  r.strong && (match r.head with
    | some (.slice _ _) | some .hostLink | some (.colalm _) => true
    | _ => false)
  && match s.reqOp r with
    | none => false
    | some o => s.reqs.any fun q => q.id != r.id && !q.performed && keepsOrder q r && match s.reqOp q with
      | some p => p.team == o.team && p.gid == o.gid
          && (if p.id = o.id then decide (q.va < r.va) else decide (p.id < o.id) && (p.threadsOf q.lanes &&& o.threadsOf r.lanes) != 0)
      | none => false

/-- The way of a request to its line and of its reply. A request to the host or to a peer goes to its link at once: the spec gives no
travel between a core and the host link or a Colalm port, and the model takes none, through no position of the mesh (DESIGN CHOICE,
log 123). -/
def wayOf (core : Nat) (p : Phys) : List (Struct × Nat) × Nat :=
  match p with
  | .dev a => route core a
  | .host _ => ([(.hostLink, 0)], 0)
  | .peer q _ => ([(.colalm q, 0)], 0)

/-- Requests that wait where they perform for an earlier one of their thread ask for a position again, from the next cycle. -/
def State.resumeOrdered (s : State) : State :=
  (s.reqs.filter fun r => r.strong && r.sent && !r.performed && decide (r.arrive ≤ s.g)).foldl (fun s r =>
    s.schedule { r with arrive := s.g + 1 }) s

/-- A request performs, after the older ones that `olderOf` names; the operations of those that perform are looked at (R248, R404), and
held releases too. -/
def State.performNow (s : State) (r : Req) : State :=
  let l := s.olderOf r ++ [r]
  let s := l.foldl (fun s q => if q.performed then s else s.performOne q) s
  let s := (l.filter fun q => (s.reqOp q).any q.ofLanes).foldl (fun s q => s.checkOp q.owner) s
  let s := if r.strong then s.resumeOrdered else s
  match s.reqGroup r with
  | some (t, g) => s.wakeReleases t g
  | none => s

/-- Put a request into the network: an L1 hit performs at once and returns after 22 cycles; an atomic the
predictor keeps in L1 performs at once and returns after 26; anything else sets out for its home (R54, R102, R262). -/
def State.send (s : State) (r : Req) : State :=
  match s.findSeat r.seat with
  | none => s
  | some x =>
    let line := r.place.lineNo
    let cached := r.place.isDev && !r.com && !r.strong
    let s := s.mapReq r.id fun r => { r with sent := true }
    if r.kind = .load && cached && x.inL1 r.core line then
      let (n, s) := s.fresh
      let s := s.mapSeat r.seat fun x => { x with l1 := touchLine r.core line n x.l1 }
      let s := if s.olderOf r = [] then s else s.now (.releaseApply r.owner)
      ((s.mapReq r.id fun r => { r with inL1 := true, hops := [] }).performNow r).at (s.g + 22) (.loadReply r.id)
    else if r.kind = .atomic && cached && !(x.predHome r.core r.va) then
      ((s.mapReq r.id fun r => { r with inL1 := true, hops := [] }).now (.atomicPerform r.id)).at (s.g + 26) (.loadReply r.id)
    else
      let (hops, tail) := wayOf r.core r.place
      match hops with
      | [] => s
      | (_, t) :: _ =>
        let arr := s.g + t
        let s := s.mapReq r.id fun r => { r with hops := hops, tail := tail, arrive := arr }
        s.schedule { r with hops := hops, arrive := arr }

/-- Send the requests of a group that nothing holds any more, those of the oldest word first. -/
def State.releaseHeld (s : State) (team gid : Nat) : State :=
  (sortBy (fun (a b : Req) => decide (a.owner < b.owner)) (s.reqs.filter fun r =>
      !r.sent && r.hops == [] && decide (r.arrive ≤ s.g) && s.reqGroup r == some (team, gid))).foldl (fun s r =>
    if s.canSend r then s.send r else s) s

/-- A request performs; then the held requests of its group are looked at. -/
def State.perform (s : State) (r : Req) : State :=
  let s := s.performNow r
  match s.reqGroup r with
  | some (t, g) => s.releaseHeld t g
  | none => s

/-- Place a request of which `k` cycles from now is the cycle to be sent in: then, or at once, it is sent if nothing holds it (R55). -/
def State.request (s : State) (r : Req) (k : Nat) : State :=
  let (id, s) := s.fresh
  let r := { r with id := id, arrive := if k = 0 then 0 else s.g + k }
  let s := { s with reqs := s.reqs ++ [r] }
  if k ≠ 0 then s.at (s.g + k) (.releaseApply r.owner)
  else if s.canSend r then s.send r else s

/-- Raise a leaf's heat by a request of the seat (R354). -/
def State.raiseHeat (s : State) (seat core leafAddr : Nat) (write : Bool) : State :=
  s.request { id := 0, owner := bit write, age := s.nextOp, seat := seat, core := core, kind := .heat, place := Phys.line (.dev leafAddr), va := leafAddr } 0

/-! ### Serving -/

/-- Change the travel to the next structure. -/
def setTravel (t : Nat) : List (Struct × Nat) → List (Struct × Nat)
  | [] => []
  | (st, _) :: more => (st, t) :: more

/-- The event at the end of a request's way. -/
def arrival (r : Req) : Event :=
  match r.kind with
  | .store => .storeAcknowledge r.id
  | .alight => .storeAcknowledge r.id
  | .heat => .storeAcknowledge r.id
  | .recall => .lineRecall r.id
  | .message => .amsgAccept r.owner
  | _ => .loadReply r.id

/-- A request goes on to the structures that are left. -/
def State.goOn (s : State) (r : Req) (hops : List (Struct × Nat)) : State :=
  match hops with
  | [] => (s.mapReq r.id fun r => { r with hops := [] }).at (s.g + r.tail) (arrival r)
  | (_, t) :: _ =>
    let s := s.mapReq r.id fun r => { r with hops := hops, arrive := s.g + t }
    s.schedule { r with hops := hops, arrive := s.g + t }

/-- The way of a recall from a slice to the core that owns the line, and back (R422). "As a load request and reply do" leaves open at which
routers it waits; the model: the slice's router 6 cycles on, 2h + 6 cycles to the core's router, 2h cycles back (DESIGN CHOICE, log 125). -/
def recallWay (a core : Nat) : List (Struct × Nat) × Nat :=
  let (e, q) := homeSlice a
  let out := way e q (core / 64) (core % 64)
  let back := way (core / 64) (core % 64) e q
  let home : List (Struct × Nat) := [(.router core, 0)]
  ((.router (64 * e + q), 6) :: lead 0 out.1 (out.2 + 6) home ++ back.1, back.2)

/-- A line of an access from outside is served in this cycle: `State.visited` gives it its effect (R408, R409, R413). -/
def State.arriveVisit (s : State) (r : Req) : State := s.mapReq r.id fun r => { r with performed := true, hops := [] }
/-- A line of an access from outside at its home slice: where a seat's ways hold it, it is served there, and no tag or order of them
changes (R409). -/
def State.visitSlice (s : State) (r : Req) (rest : List (Struct × Nat)) : State :=
  if s.seats.any fun x => x.inL2 r.place.lineNo then s.arriveVisit r else s.goOn r rest

/-- A request at its home slice (R54, R262, R422, R425): held there it performs now; else it goes on to the channel. A
store to a line an L1 part owns first recalls the line. -/
def State.atSlice (s : State) (r : Req) (rest : List (Struct × Nat)) : State :=
  match r.place, s.findSeat r.seat with
  | .dev a, some x =>
    let line := a / 128
    let held := r.com || x.inL2 line
    let short := rest.drop 1
    let touch (s : State) : State :=
      let (n, s) := s.fresh
      s.mapSeat r.seat fun x => { x with l2 := touchLine (sliceNo a) line n x.l2 }
    match r.kind with
    | .load => if held then ((touch s).perform r).goOn r (setTravel 18 short) else s.goOn r rest
    | .walk => if held then ((touch s).performOne r).goOn r (setTravel 18 short) else s.goOn r rest
    | .atomic =>
      if held then ((touch s).now (.atomicPerform r.id)).goOn r (setTravel 22 short) else s.goOn r rest
    | _ =>
      match x.l1Owner line with
      | some c =>
        let (id, s) := s.fresh
        let (hops, tail) := recallWay a c
        let q : Req := { id := id, owner := r.id, age := r.age, seat := r.seat, core := c, kind := .recall, place := r.place, hops := hops, arrive := s.g + 6, tail := tail, sent := true }
        let s := s.mapReq r.id fun r => { r with sent := false }
        ({ s with reqs := s.reqs ++ [q] }).schedule q
      | none =>
        if held then (s.now (.storePerform r.id)).goOn r (setTravel 1 short) else s.goOn r rest
  | _, _ => s

/-- A request at its DRAM channel: it performs now; a load, a walk's read and an atomic fill the seat's L2 ways. -/
def State.atDram (s : State) (r : Req) (rest : List (Struct × Nat)) : State :=
  match r.place with
  | .dev a =>
    let fill (s : State) : State :=
      let (n, s) := s.fresh
      s.mapSeat r.seat fun x => x.fillL2 { at_ := sliceNo a, line := a / 128, stamp := n }
    match r.kind with
    | .load => ((fill s).perform r).goOn r (setTravel 44 rest)
    | .walk => ((fill s).performOne r).goOn r (setTravel 44 rest)
    | .atomic => ((fill s).now (.atomicPerform r.id)).goOn r (setTravel 48 rest)
    | _ => (s.now (.storePerform r.id)).goOn r (setTravel 16 rest)
  | _ => s

/-- The first cycle from this one on in which the host link carries anything: it does not while it retrains (R407). -/
def State.linkUp (s : State) : Nat := max s.g s.link.retrain
/-- A Colalm port is fenced: LINKSTAT shows the state FENCED (R403, R410). -/
def State.portFenced (s : State) (p : Nat) : Bool := ((s.host.links[p]?).map (·.1)) == some 3
/-- A request at a link to the host or to a peer: it performs, and it is back after a time the spec leaves open (R21, R412, log 5). A
peer may refuse it (R413); nothing crosses a fenced port, where it is refused too (R403, log 63). -/
def State.atLink (s : State) (r : Req) : State :=
  let taken := match r.place with
    | .peer q _ => Config.peerAccepts s.draws && !(s.portFenced q)
    | _ => true
  let (d, s) := s.draw
  let s := if taken then s.perform r else (s.mapReq r.id fun r => { r with performed := true, refused := true }).resumeOrdered
  s.at (s.g + d) (arrival r)
/-- A request to the host or a peer is back: when none of its operation's is left, and the host is to translate none of its pages, its
charged wait's outside party has finished (R21, R23); a lane that comes to the host later opens the wait again (`chargeOp`). -/
def State.linkDone (s : State) (r : Req) : State :=
  let kin (q : Req) : Bool := q.owner == r.owner && (q.kind == .alight) == (r.kind == .alight)
    && (q.kind == .load || q.kind == .store || q.kind == .atomic || q.kind == .alight)
  let ow : FaultOwner := match s.reqOp r with
    | some o => o.waiter
    | none => .alight r.owner
  if r.place.isDev || s.asksHost ow || s.reqs.any fun q => q.id != r.id && kin q && !q.place.isDev then s
  else ((s.waitsOf r.seat ow).filter fun w => r.kind != .alight || (s.homeWaits r.seat r.owner).contains w).foldl (fun (s : State) (w : Charged) => if w.event = 3 then s.waitDone r.seat w.id s.g else s) s

/-- The request is served by the structure it waits at. -/
def State.serve (s : State) (r : Req) : State :=
  match r.hops with
  | [] => s
  | (st, _) :: rest =>
    match st with
    | .slice _ _ => if r.kind = .visit then s.visitSlice r rest else s.atSlice r rest
    | .dram _ _ => if r.kind = .visit then s.arriveVisit r else s.atDram r rest
    | .hostLink => (s.mapReq r.id fun r => { r with hops := [] }).atLink r
    | .colalm _ => (s.mapReq r.id fun r => { r with hops := [] }).atLink r
    | _ => s.goOn r rest

/-- The key of a structure in `ports`. -/
def structKey : Struct → Nat
  | .dram e c => 1000 + 64 * e + c
  | .link d e => 2000 + 4 * d + e
  | .colalm p => 3000 + p
  | .router r => 4000 + r
  | .slice e q => 5000 + 64 * e + q
  | .copyEngine c => 6000 + c
  | .hostLink => 7000
/-- Refresh, or an update of a table line by firmware, has claimed this vacant position (R18). -/
def State.claimed (s : State) (st : Struct) : Bool := s.ports.contains (structKey st, 0, s.g)
/-- Firmware's update of a table line at an address takes the next vacant position of its slice that has started nothing, ahead of the
fill seat (R18, R361, log 62). -/
def State.claimSlice (s : State) (a : Nat) : State :=
  let p := (s.g + 1) / 2
  let key := structKey (.slice (homeSlice a).1 (homeSlice a).2)
  let free (c : Nat) : Bool := !s.ports.contains (key, 0, c) && !s.ports.contains (key, 2, c)
  match (List.range 4096).find? fun k => (s.rotaOwner (p + k) ((p + k) * 2 / Config.frame)).isNone && free ((p + k) * 2) with
  | some k => { s with ports := (key, 0, (p + k) * 2) :: s.ports }
  | none => s
/-- The position that begins in this cycle has started a request (R14). -/
def State.spent (s : State) (st : Struct) : Bool := s.ports.contains (structKey st, 2, s.g)
def State.spend (s : State) (st : Struct) : State := { s with ports := (structKey st, 2, s.g) :: s.ports }
/-- The number that names a link of a die in DETAIL: 4d + e for a link from die d to die e, 256 + r for the link of router r (log 64). -/
def linkNumber : Struct → Nat
  | .link d e => 4 * d + e
  | .router r => 256 + r
  | _ => 0
/-- An error that the outside put at a request meets the position that serves it (R403): the first time it fails, and takes the seat's next
position of the structure; the second time it fails for good, or it passes and the event log records the cycles that this added.
Whether the request goes on, and the state. -/
def State.throughError (s : State) (r : Req) (st : Struct) : Bool × State :=
  match r.failed, st with
  | none, _ =>
    if r.fails = 0 then (true, s)
    else
      let r' := { r with failed := some s.g, arrive := s.g + structLen st }
      (false, (s.mapReq r.id fun _ => r').schedule r')
  | some a, _ =>
    if r.fails = 2 then
      let e : Event := match st with
        | .dram _ _ => .dramReadRetry r.id true
        | _ => .meshFlitRetry r.id true
      (false, (s.mapReq r.id fun r => { r with fails := 3 }).now e)
    else
      let ev : Nat × Nat := match st with
        | .dram _ _ => (7, r.place.addr)
        | .colalm p => (8, 16 + p)
        | st => (8, linkNumber st)
      let s := s.logEvent r.seat ev.1 r.core (s.oclk r.seat - (s.g - a)) (BitVec.ofNat 64 ev.2) (s.g - a)
      (true, s.mapReq r.id fun r => { r with fails := 0, failed := none })

/-- The first cycle of a position of a structure (R14, R16-R20): the position's seat is served if a request of it waits;
else a request of the fill seat; a request that repeats goes before others of its seat (R403). A position starts one request. Requests
still waiting are scheduled again. An atomic at its home slice is served by the slice's atomic unit in the slice's own position: R262
gives it no further wait (R10, log 107). While the host link retrains it serves nothing (R407). -/
def State.position (s : State) (st : Struct) : State :=
  let len := structLen st
  if s.g % len ≠ 0 then s
  else
    let waiting := s.reqs.filter fun r => r.sent && r.head == some st && decide (r.arrive ≤ s.g) && !s.stands r && !s.orderHeld r
    let own := s.rotaOwner (s.g / len) (s.g / Config.frame)
    let mine := waiting.filter fun r => some r.seat == own
    let fill := if own.isNone && s.claimed st then [] else waiting.filter fun r => r.seat == 15
    let cands := if s.spent st then [] else if mine.isEmpty then fill else mine
    if st = .hostLink ∧ s.g < s.link.retrain then waiting.foldl (fun s r => s.schedule { r with arrive := s.link.retrain }) s
    else match (firstReq (cands.filter fun r => r.failed.isSome)).orElse fun _ => firstReq cands with
    | none => waiting.foldl (fun s r => s.schedule { r with arrive := s.g + 1 }) s
    | some r =>
      let (on, s) := (s.spend st).throughError r st
      let s := if on then s.serve r else s
      (waiting.filter fun q => q.id != r.id).foldl (fun s q => s.schedule { q with arrive := s.g + 1 }) s

end Sys2Proof.Machine
end

