-- ==== Sys2Proof/Machine/Access.lean ====
section
/-!
DEFINITION. Global accesses: translation of lanes, walks and the TLB (R353-R357), translation faults and the operand log
(R248, R340, R358), and the requests of lanes that translate (R55).
-/

namespace Sys2Proof.Machine

open Sys2Proof

/-! ### Walks -/

/-- Walks in flight of a seat on a core. -/
def State.walksOf (s : State) (seat core : Nat) : List Walk := s.walks.filter fun w => w.seat == seat && w.core == core
def State.findWalk (s : State) (id : Nat) : Option Walk := s.walks.find? fun w => w.id == id
def State.mapWalk (s : State) (id : Nat) (f : Walk → Walk) : State :=
  { s with walks := s.walks.map fun w => if w.id = id then f w else w }

/-- The read of the walk's next entry, as a load of the seat (R353). -/
def State.readEntry (s : State) (w : Walk) : State :=
  let a := w.table + 8 * levelIndex w.va w.level
  s.request { id := 0, owner := w.id, age := w.age, seat := w.seat, core := w.core, kind := .walk, place := Phys.line (.dev a), va := a } 0

/-- Start waiting walks of a seat on a core, oldest first, while fewer than 4 are in flight (R356). A walk that has ended and waits for
the host's translation is not in flight. -/
def State.startWalks (s : State) (seat core : Nat) : State :=
  let run := ((s.walksOf seat core).filter fun w => w.started && !w.ats).length
  (((s.walksOf seat core).filter fun w => !w.started).take (4 - run)).foldl (fun s w =>
    (s.mapWalk w.id fun w => { w with started := true }).readEntry w) s

/-- Issue order of the word that met a translation. -/
def FaultOwner.age (ow : FaultOwner) (s : State) : Nat :=
  match ow with
  | .op id => id
  | .piece id => id
  | _ => s.nextOp

/-- A miss joins the walk in flight of its page, or begins one (R356). -/
def State.joinWalk (s : State) (seat core asid va : Nat) (write : Bool) (ow : FaultOwner) (lanes : LaneMask) : State :=
  match (s.walksOf seat core).find? fun w => w.asid == asid && w.va / 4096 == va / 4096 && !w.ats with
  | some w => s.mapWalk w.id fun w => { w with waiters := w.waiters ++ [(ow, lanes)] }
  | none =>
    let (id, s) := s.fresh
    let w : Walk := { id := id, seat := seat, core := core, asid := asid, va := va, write := write, age := ow.age s, table := rootOf s s.mem asid, waiters := [(ow, lanes)] }
    ({ s with walks := s.walks ++ [w] }).startWalks seat core

/-! ### The TLB (R354, R355) -/

/-- Entries a seat's part of a core's TLB holds; the whole of a wholly granted core. -/
def Seat.tlbSize (x : Seat) (core : Nat) : Nat :=
  match x.core? core with
  | some r => if r.grant then 2048 else 64 * r.tlbu
  | none => 0
/-- The least recently used entry. -/
def lruEntry : List TlbEntry → Option TlbEntry
  | [] => none
  | e :: es =>
    match lruEntry es with
    | none => some e
    | some f => if f.stamp < e.stamp then some f else some e
/-- Fill an entry into a core's part. -/
def Seat.fillTlb (x : Seat) (e : TlbEntry) : Seat :=
  let ls := x.tlb.filter fun f => !(f.core == e.core && f.asid == e.asid && f.vbase == e.vbase)
  if x.tlbSize e.core = 0 then { x with tlb := ls }
  else if (ls.filter fun f => f.core == e.core).length < x.tlbSize e.core then { x with tlb := ls ++ [e] }
  else match lruEntry (ls.filter fun f => f.core == e.core) with
    | some v => { x with tlb := (ls.filter fun f => f != v) ++ [e] }
    | none => { x with tlb := ls ++ [e] }

/-- An access through a TLB entry: it is used, and every 256th raises the field of its kind again (R354). -/
def State.countAccess (s : State) (seat core asid va : Nat) (write : Bool) : State :=
  match s.findSeat seat with
  | none => s
  | some x =>
    match x.tlbAt core asid va with
    | none => s
    | some e =>
      let (k, s) := s.fresh
      let f := { e with uses := e.uses + 1, stamp := k }
      let s := s.mapSeat seat fun x => { x with tlb := x.tlb.map fun h => if h = e then f else h }
      if f.uses % 256 = 0 then s.raiseHeat seat core e.leafAddr write else s

/-! ### Lanes -/

/-- What an operation asks of its pages (R352). -/
def wantOf : OpKind → Want
  | .store _ _ => .write
  | .atomic _ _ _ => .both
  | .ring _ _ => .write
  | _ => .read
/-- It is a write for heat and faults. -/
def Want.writes : Want → Bool
  | .read => false
  | .fetch => false
  | _ => true

/-- The hint of the word at hand travels in the operation's word, bits [1:0] (R246). -/
def hintOf (w : W32) : Hint :=
  let m := fld w.toNat 30 24
  if 0x50 ≤ m ∧ m ≤ 0x52 then (if fld w.toNat 1 0 = 1 then .nt else if fld w.toNat 1 0 = 2 then .keep else .normal) else .normal

/-- The request kind of an operation. -/
def reqKindOf : OpKind → ReqKind
  | .store _ _ => .store
  | .atomic _ _ _ => .atomic
  | _ => .load

/-- Insert a number into a rising list. -/
def insertNat (n : Nat) : List Nat → List Nat
  | [] => [n]
  | m :: ms => if n < m then n :: m :: ms else if n = m then m :: ms else m :: insertNat n ms
/-- The distinct numbers of a list, rising. -/
def distinct (l : List Nat) : List Nat := l.foldr insertNat []

/-- Begin the charged wait of an operation for a kind of event (R21, R356); one that stands is open again, since its outside party has
more to do. -/
def State.chargeOp (s : State) (o : Op) (ow : FaultOwner) (event c : Nat) (va : Nat) : State :=
  if (s.waitsOf o.seat ow).any fun w => w.event == event then
    s.mapSeat o.seat fun x => { x with waits := x.waits.map fun w => if w.owner = ow ∧ w.event = event then { w with doneAt := none } else w }
  else (s.charge o.seat { id := 0, event := event, core := o.core, t0 := o.t0, due := 0, owner := ow, detail := BitVec.ofNat 64 va } c).2

/-- Send the requests of an operation's translated lanes: one for each line, in ascending address order, on consecutive
cycles (R55). Lanes in host or peer memory begin a charged wait (R21, R412). An access through a TLB entry counts in it, a walk's
reuse too (R354); `walk`: the walk that translated the lanes; `fills`: the first of them is the access whose fill is its raise (log 61). -/
def State.sendLanes (s : State) (id : Nat) (pages : List (Nat × Page)) (asid : Nat) (tlb : Nat → Bool) (walk : Nat := 0) (fills : Bool := false) :
    State :=
  match s.findOp id with
  | none => s
  | some o =>
    let va (L : Nat) := SMap.get 0 o.addr L
    let mask (l : List (Nat × Page)) : LaneMask := l.foldl (fun m q => m ||| (1#32 <<< q.1)) 0
    let s := s.mapOp id fun o => { o with walking := o.walking &&& ~~~mask pages }
    let count (s : State) (L k : Nat) : State := if tlb L && !(fills && k == 0) then s.countAccess o.seat o.core asid (va L) (wantOf o.kind).writes else s
    match o.kind, pages with
    | .touch, (L, _) :: _ => (count s L 0).mapOp id fun o => o.markDone (mask pages)
    | .ring i (.board h _ w), (L, p) :: _ =>
      (count s L 0).mapOp id fun o => { o.markDone (mask pages) with kind := .ring i (.board h p.place w) }
    | _, _ =>
      (distinct (pages.map fun q => va q.1 / 128)).zipIdx.foldl (fun s lk =>
        let mine := pages.filter fun q => va q.1 / 128 == lk.1
        match mine with
        | [] => s
        | (L, p) :: _ =>
          let s := count s L lk.2
          let s := if p.place.isDev then s else s.chargeOp o (.op id) 3 Config.chargeHost (va L)
          let s := s.mapOp id fun o => { o with pending := o.pending + 1 }
          let plain := p.ord < 2 && !p.com && tlb L
          s.request { id := 0, owner := id, age := id, seat := o.seat, core := o.core, kind := reqKindOf o.kind, place := p.place.line, va := va L, lanes := mask mine, hint := if plain then hintOf o.word else .normal, com := p.com, ord := p.ord, walk := walk } lk.2) s

/-- The deferred trap an operation owes after a further fault: the lower kind code (R7, R332). -/
def Op.worse (o : Op) (k : TrapKind) : TrapKind :=
  match o.bad with
  | some j => if trapCode j < trapCode k then j else k
  | none => k
/-- Lanes are refused: AccessFault is owed once the word's other lanes have performed or are logged (R248). -/
def State.refuse (s : State) (id : Nat) (m : LaneMask) : State :=
  if m = 0 then s
  else
    (s.mapOp id fun o => { o with walking := o.walking &&& ~~~m, refused := o.refused ||| m, bad := some (o.worse .accessFault) }).enterLog id

/-- Nothing but this waits at the memory-service core: no fault that firmware has still to take up, and no move of a page (R406, R362). -/
def State.serviceIdle (s : State) : Bool :=
  s.faults.all (·.forwarded) && !(s.agenda.any fun e => match e.2 with
    | .pageMigration _ _ _ => decide (e.1 ≤ s.g + 1)
    | _ => false)
/-- Record a translation fault; firmware takes it up after a time the spec leaves open, for a staged page within 4,096 cycles when nothing else
waits, once for a page of a seat (R356, R358, R406, log 5). -/
def State.recordFault (s : State) (seat asid va : Nat) (write fetch : Bool) (ow : FaultOwner) : State :=
  let (id, s) := s.fresh
  let known := s.faults.any fun f => f.seat == seat && f.asid == asid && f.va / 4096 == va / 4096
  let r : FaultRec := { id := id, seat := seat, asid := asid, va := va, write := write, fetch := fetch, owner := ow, vf := ((s.findSeat seat).map (·.vf)).getD 0 }
  let idle := s.serviceIdle && match s.walkNow asid va with
    | .absent level w _ => staged level w
    | _ => false
  let s := { s with faults := s.faults ++ [r] }
  if known then s
  else
    let (d, s) := s.draw
    s.at (s.g + if idle then d % 4096 else d) (.faultService id)

/-- Lanes of an operation met a translation fault: they enter the operand log, and the charged wait begins (R248). -/
def State.faultLanes (s : State) (id : Nat) (m : LaneMask) (asid va : Nat) : State :=
  match s.findOp id with
  | none => s
  | some o =>
    let s := s.mapOp id fun o => { o with walking := o.walking &&& ~~~m, logged := o.logged ||| m, faulted := o.faulted ||| m }
    let s := s.enterLog id
    let s := s.chargeOp o (.op id) 1 Config.chargeFault va
    s.recordFault o.seat asid va (wantOf o.kind).writes false (.op id)

/-- Translate lanes of an operation: extents, then the TLB; a miss walks (R353). -/
def State.translate (s : State) (id : Nat) (lanes : LaneMask) : State :=
  match s.findOp id with
  | none => s
  | some o =>
    match s.getTeam o.team with
    | none => s
    | some t =>
      let va (L : Nat) := SMap.get 0 o.addr L
      let lv : Level := if o.sup then .supervisor else .user
      let ext (L : Nat) : Bool := (lookExtent t (va L) .read).isSome
      let look (L : Nat) : Look := s.look t lv (va L) (wantOf o.kind)
      let found := (lanesOf lanes).filterMap fun L => match look L with
        | .ok p => some (L, p)
        | _ => none
      let refused := maskOf fun L => lanes.getLsbD L && look L == .refused
      let miss := (lanesOf lanes).filter fun L => look L == .miss
      let s := s.mapOp id fun o => { o with walking := o.walking ||| maskOf fun L => miss.contains L }
      let s := (s.refuse id refused).sendLanes id found t.region.asid fun L => !ext L
      (distinct (miss.map fun L => va L / 4096)).foldl (fun s pg =>
        let m := maskOf fun L => miss.contains L && va L / 4096 == pg
        s.joinWalk o.seat o.core t.region.asid (va (lowestLane m)) (wantOf o.kind).writes (.op id) m) s

/-- A walk's leaf answers lanes of an operation (R352, R353). -/
def State.answerLanes (s : State) (id : Nat) (m : LaneMask) (asid level : Nat) (w : W64) (walk : Nat) (fills : Bool) : State :=
  match s.findOp id with
  | none => s
  | some o =>
    let lv : Level := if o.sup then .supervisor else .user
    if permits w lv (wantOf o.kind) then
      s.sendLanes id ((lanesOf m).map fun L =>
        (L, { place := leafPlace level w (SMap.get 0 o.addr L), ord := leafOrd w, com := leafBit w 8 })) asid (fun _ => true) walk fills
    else s.refuse id m

/-! ### Launching an access -/

/-- The group runs in portable mode (R396). -/
def Team.portable (t : Team) : Bool := t.mode.port

/-- The next write of a lane after a release fence is a release at the fence's scope (R137); the fence is spent for those
lanes. -/
def Group.spendFence (g : Group) (m : LaneMask) : Group :=
  { g with fences := g.fences.map fun f => if f.rel then { f with lanes := f.lanes &&& ~~~m } else f }
/-- A release fence still waits for the next write of one of the lanes. -/
def Group.fenceHolds (g : Group) (m : LaneMask) : Bool := g.fences.any fun f => f.rel && f.lanes &&& m != 0

/-- Place a memory operation: a write after a release fence, and a release, are held until the older writes of the group
have performed (R423), and in a local space so is an access to the bytes of one that is held (R135); in portable mode writes are
buffered until the commit (R397). A scalar write is the next write of every lane of its split (R129, R137). Answers the operation's
identifier. -/
def State.placeOp (s : State) (o : Op) : Nat × State :=
  let id := s.nextOp
  let t := s.cur.team
  let g := s.cur.group
  let w := o.isWrite
  let m := if o.threads = 0 then o.active else o.threads
  let rel := o.rel || (w && g.fenceHolds m)
  let held := !t.portable && ((rel && s.writesBefore t.id g.gid id) || s.heldBehind { o with id := id, team := t.id, gid := g.gid })
  let s := s.launchOp { o with rel := rel, held := held, buffered := w && t.portable }
  let s := if w then s.onGroup fun g => g.spendFence m else s
  let s := if o.rel then s.onGroup fun g => { g with lastRel := id } else s
  (id, if w && t.portable then s.onGroup fun g => { g with effects := g.effects ++ [id] } else s)

/-- Mark a destination as pending on an operation (R44). Vector register n has key 128 + n. -/
def State.pend (s : State) (id : Nat) (keys : List Nat) : State :=
  s.onGroup fun g => { g with board := { g.board with busy := g.board.busy ++ keys.map fun k => (k, id) } }
/-- Scoreboard keys of a destination. -/
def destKeys : Dest → List Nat
  | .none => []
  | .vec d pair => (regs d pair).map (128 + ·)
  | .scal d => if d = 0 then [] else [d]

/-- Launch a global access of the word at hand. -/
def State.launchGlobal (s : State) (o : Op) : State :=
  let (id, s) := s.placeOp o
  let s := s.pend id (destKeys o.dest)
  match s.findOp id with
  | some o => if o.buffered then s else (s.translate id o.active).checkOp id
  | none => s

end Sys2Proof.Machine
end

