-- ==== Sys2Proof/Machine/Local.lean ====
section
/-!
DEFINITION. The local spaces: scratchpad rows (R85), typed-buffer ports (R87), scratchpad banks (R73), barrier objects
(R89-R92), and the words of a local access as they perform (R135).
-/

namespace Sys2Proof.Machine

open Sys2Proof

/-! ### Shares and memories (R81) -/

/-- The bytes of a team's share of a local space. -/
def shareOf (t : Team) : Space → Nat
  | .global => 0
  | .scratch => t.nscratch * Config.bankBytes
  | .abuf => t.nabuf * 4096
  | .wbuf => t.nwbuf * 4096
  | .xbuf => t.nxbuf * 4096
/-- A local memory of a team. -/
def localMem (t : Team) : Space → Memory
  | .global => []
  | .scratch => t.scratch
  | .abuf => t.abuf
  | .wbuf => t.wbuf
  | .xbuf => t.xbuf
/-- Replace a local memory. -/
def setLocal (t : Team) (sp : Space) (m : Memory) : Team :=
  match sp with
  | .global => t
  | .scratch => { t with scratch := m }
  | .abuf => { t with abuf := m }
  | .wbuf => { t with wbuf := m }
  | .xbuf => { t with xbuf := m }
/-- A write of the byte ranges listed: in the scratchpad it clears the error marks of the 64-byte stretches it touches (R79,
log 103). -/
def Team.clearMarks (t : Team) (sp : Space) (l : List (Nat × Nat)) : Team :=
  if sp = .scratch then
    let clean (k : Nat) : Bool := !(l.any fun q => decide (q.1 / 64 ≤ k ∧ k ≤ (q.1 + q.2 - 1) / 64))
    { t with spoison := t.spoison.filter clean, sflips := t.sflips.filter clean }
  else t
/-- `n` bytes at exact offset `a` lie in the share. -/
def inShare (t : Team) (sp : Space) (a : Int) (n : Nat) : Bool := 0 ≤ a && decide (a + n ≤ shareOf t sp)

/-! ### Barrier objects (R89, R90) -/

/-- The fields of a barrier object. -/
structure Bar where
  phase : Nat
  expect : Nat
  remain : Nat
  pend : Nat
  low : Nat
  deriving DecidableEq, Repr

def readBar (m : Memory) (off : Nat) : Bar :=
  let n := Memory.read m off 16
  { phase := fld n 127 96, expect := fld n 95 80, remain := fld n 79 64, pend := fld n 63 32, low := fld n 31 0 }
def writeBar (m : Memory) (off : Nat) (b : Bar) : Memory :=
  Memory.write m off 16 (b.low + b.pend * 2 ^ 32 + b.remain * 2 ^ 64 + b.expect * 2 ^ 80 + b.phase * 2 ^ 96)
def Bar.valid (b : Bar) : Bool := b.low % 2 == 1
def Bar.armed (b : Bar) : Bool := b.low / 8 % 2 == 1
/-- A change that leaves VALID = 1, REMAIN = 0 and PEND = 0 completes a phase in the same update (R90). -/
def Bar.settle (b : Bar) : Bar :=
  if b.valid && b.remain == 0 && b.pend == 0 then { b with phase := (b.phase + 1) % 2 ^ 32, remain := b.expect } else b
/-- Phase `p` has completed (R91). -/
def Bar.completed (b : Bar) (p : W32) : Bool :=
  let d := (b.phase + 2 ^ 32 - p.toNat) % 2 ^ 32
  1 ≤ d && d ≤ 2 ^ 31
/-- PEND after adding bytes (Wrap32). -/
def Bar.add (b : Bar) (n : Nat) : Bar := { b with pend := (b.pend + n) % 2 ^ 32 }
/-- PEND after crediting bytes (Wrap32). -/
def Bar.credit (b : Bar) (n : Nat) : Bar := { b with pend := (b.pend + 2 ^ 32 - n % 2 ^ 32) % 2 ^ 32 }

/-- The object after a word's change (R256); none for an arrival that finds REMAIN at 0 (R90). -/
def Bar.apply (b : Bar) : BarUpd → Option Bar
  | .init e => some { phase := 0, expect := e, remain := e, pend := 0, low := 1 }
  | .expect n => if n = 0 then some b else some (b.add n.toNat).settle
  | .arrive n _ => if b.remain = 0 then none else some { b.add n.toNat with remain := b.remain - 1 }.settle
  | .test _ => some b
  | .phase => some b

/-- The memory after a barrier word: an arrival that completes a freed phase also raises NEXT of its descriptor (R96). -/
def barMemory (m : Memory) (off : Nat) (u : BarUpd) : Option Memory :=
  let b := readBar m off
  match b.apply u with
  | none => none
  | some c =>
    let m := writeBar m off c
    match u with
    | .arrive _ (some cd) =>
      if c.phase ≠ b.phase then some (Memory.write m (cd + 28) 4 ((Memory.read m (cd + 28) 4 + 1) % 2 ^ 32)) else some m
    | _ => some m

/-- A circular-buffer fill of the team that waits for its slot (R95). -/
def Op.awaitsSlot (o : Op) : Bool :=
  o.started && match o.kind with
    | .copy c => c.circ.isSome && !c.circReady
    | _ => false
/-- Waiters of a team, fills among them, are looked at in the next cycle (R91, R95). -/
def State.barWake (s : State) (team : Nat) : State :=
  (s.ops.filter fun o => o.team == team && o.awaitsSlot).foldl (fun s o => s.once (s.g + 1) (.circSlotReady o.id))
    (s.once (s.g + 1) (.waitResume team))
/-- Apply a barrier word's change to a team's scratchpad now; false for an arrival that finds REMAIN at 0. -/
def State.barApply (s : State) (team off : Nat) (u : BarUpd) : Bool × State :=
  match s.getTeam team with
  | none => (true, s)
  | some t =>
    match barMemory t.scratch off u with
    | none => (false, s)
    | some m => (true, (s.anyTeam team fun t => { t.clearMarks .scratch [(off, 16)] with scratch := m }).barWake team)
/-- An engine's credit of bytes, or its expect (R90, R95, R268). -/
def State.barBytes (s : State) (team off : Nat) (credit : Bool) (n : Nat) (never : Bool := false) : State :=
  (s.anyTeam team fun t =>
    let b := readBar t.scratch off
    let c := if credit then b.credit n else b.add n
    { t.clearMarks .scratch [(off, 16)] with scratch := writeBar t.scratch off (if never then c else c.settle) }).barWake team

/-! ### Lanes of a local access -/

/-- A store's lane writes a local memory. -/
def putLane (n : Nat) (o : Op) (m : Memory) (L : Nat) : Memory :=
  Memory.putBytes m (SMap.get 0 o.addr L) (bytesOf n (SMap.get 0 o.x L).toNat)

/-- A local memory with operations of a group laid over it. -/
def overlayLocal (sp : Space) (m : Memory) : List Op → Memory
  | [] => m
  | o :: os =>
    overlayLocal sp (match o.kind with
      | .store sp' n => if sp' = sp then (lanesOf o.active).foldl (putLane n o) m else m
      | .bar off u => if sp = .scratch then (barMemory m off u).getD m else m
      | _ => m) os
/-- The XBUF bytes that a request served in a cycle sees: those before what lands in it (R287). -/
def Team.xbufSeen (t : Team) (g : Nat) : Memory :=
  match t.xbufWas with
  | some (c, m) => if c = g then m else t.xbuf
  | none => t.xbuf
/-- A local memory as a request served in a cycle sees it. -/
def Team.seen (t : Team) (sp : Space) (g : Nat) : Memory := if sp = .xbuf then t.xbufSeen g else localMem t sp
/-- Operations of a group older than `id` that have still to be applied: buffered (R398), or held (R423). -/
def State.unapplied (s : State) (team gid id : Nat) : List Op :=
  s.ops.filter fun o => o.team == team && o.gid == gid && (o.buffered || o.held) && decide (o.id < id)
/-- A local memory as a barrier word of a group sees it: its group's older effects laid over it, in their order (R129, R135). -/
def State.localView (s : State) (team gid id : Nat) (sp : Space) : Memory :=
  match s.getTeam team with
  | none => []
  | some t => overlayLocal sp (t.seen sp s.g) (s.unapplied team gid id)
/-- As a load of the group sees it: of what is buffered until a commit, the group's stores alone (R398). -/
def State.loadView (s : State) (team gid id : Nat) (sp : Space) : Memory :=
  match s.getTeam team with
  | none => []
  | some t => overlayLocal sp (t.seen sp s.g) ((s.unapplied team gid id).filter fun o => !o.buffered || match o.kind with
    | .store _ _ => true
    | _ => false)

/-- The space of an operation. -/
def spaceOf : OpKind → Space
  | .load sp _ _ => sp
  | .store sp _ => sp
  | .atomic sp _ _ => sp
  | _ => .global

/-- A word wrote the scratchpad: a barrier object may have moved into a phase that something waits for (R91). -/
def State.touchBars (s : State) (team : Nat) (sp : Space) : State := if sp = .scratch then s.barWake team else s
/-- Lanes of a local operation perform, in ascending order. -/
def State.localLanes (s : State) (id : Nat) (m : LaneMask) : State :=
  match s.findOp id with
  | none => s
  | some o =>
    match s.getTeam o.team with
    | none => s
    | some t =>
      let sp := spaceOf o.kind
      let ls := lanesOf (m &&& ~~~o.done)
      let s := s.mapOp id fun o => o.markDone m
      match o.kind with
      | .load _ n signed =>
        let v := s.loadView o.team o.gid id sp
        s.mapOp id fun o => ls.foldl (fun o L =>
          { o with result := SMap.set 0 o.result L (extendLoad n signed (Memory.read v (SMap.get 0 o.addr L) n)) }) o
      | .store _ n => (s.anyTeam o.team fun t =>
        setLocal (t.clearMarks sp (ls.map fun L => (SMap.get 0 o.addr L, n))) sp (ls.foldl (putLane n o) (localMem t sp))).touchBars o.team sp
      | .atomic _ op signed =>
        let n := aopBytes op
        let r := ls.foldl (fun (r : Memory × SMap W64) L =>
          let a := SMap.get 0 o.addr L
          let x := Memory.read r.1 a n
          let v := aopNew op (BitVec.ofNat 64 x) (SMap.get 0 o.x L) (SMap.get 0 o.y L)
          (Memory.write r.1 a n v.toNat, SMap.set 0 r.2 L (oldValue op signed x))) (localMem t sp, o.result)
        ((s.anyTeam o.team fun t => setLocal (t.clearMarks sp (ls.map fun L => (SMap.get 0 o.addr L, n))) sp r.1).touchBars o.team sp).mapOp id fun o => { o with result := r.2 }
      | _ => s

/-- Lanes of a local operation that have still to perform and touch one of the byte ranges. -/
def Op.lanesAt (o : Op) (ranges : List (Nat × Nat)) : LaneMask :=
  maskOf fun L => o.active.getLsbD L && !o.done.getLsbD L && ranges.any (bytesMeet (SMap.get 0 o.addr L, opWidth o.kind))
/-- Of operations, the youngest first: those with lanes that must perform before byte ranges are accessed, because they touch them or the
bytes of such a lane of a younger one. -/
def lanesBefore (ranges : List (Nat × Nat)) : List Op → List (Nat × LaneMask)
  | [] => []
  | p :: ps =>
    let m := p.lanesAt ranges
    if m = 0 then lanesBefore ranges ps
    else lanesBefore (ranges ++ (lanesOf m).map fun L => (SMap.get 0 p.addr L, opWidth p.kind)) ps ++ [(p.id, m)]
/-- Lanes of older local accesses of the group that have not performed and touch a byte range, or come before one that does in the same
way, perform now, the oldest first, so that one location's accesses keep their issue order (R135). What a hold of R423 keeps back stays:
what touches its bytes waits for it. -/
def State.settleLocal (s : State) (team gid id : Nat) (sp : Space) (ranges : List (Nat × Nat)) : State :=
  (lanesBefore ranges (sortBy (fun (a b : Op) => decide (b.id < a.id)) (s.ops.filter fun p =>
      p.team == team && p.gid == gid && decide (p.id < id) && spaceOf p.kind == sp && !p.buffered && !p.held))).foldl (fun s q =>
    s.localLanes q.1 q.2) s

/-- A store of the group that a hold of R423 keeps back writes a byte range that the reader at hand must read after it (R144). -/
def State.heldOver (s : State) (team gid id : Nat) (sp : Space) (ranges : List (Nat × Nat)) : Bool :=
  s.ops.any fun p => p.team == team && p.gid == gid && decide (p.id < id) && p.held && p.isWrite && spaceOf p.kind == sp
    && (lanesOf (p.active &&& ~~~p.done)).any fun L => ranges.any fun q => decide (SMap.get 0 p.addr L < q.1 + q.2 ∧ q.1 < SMap.get 0 p.addr L + opWidth p.kind)
/-- Perform lanes of a local access, the older ones on their bytes first. -/
def State.performLocal (s : State) (o : Op) (m : LaneMask) : State :=
  let n := opWidth o.kind
  let s := s.settleLocal o.team o.gid o.id (spaceOf o.kind) ((lanesOf m).map fun L => (SMap.get 0 o.addr L, n))
  (s.localLanes o.id m).wakeReleases o.team o.gid

/-! ### Scratchpad rows (R85) -/

/-- The rows served in the first cycle, one for each bank: the row of the lowest active lane that touches the bank. Row
number n of the share is row n mod 64 of bank ⌊n/64⌋. -/
def firstRows : List Nat → List Nat
  | [] => []
  | n :: ns => n :: (firstRows ns).filter fun k => k / 64 != n / 64
/-- The rows of each cycle in turn. -/
def rowSteps (rows : List Nat) : List (List Nat) :=
  let f := firstRows rows
  f :: ((distinct rows).filter fun n => !f.contains n).map fun n => [n]
/-- Rows of an operation, lanes ascending. -/
def opRows (o : Op) : List Nat := (lanesOf o.active).map fun L => SMap.get 0 o.addr L / 128
/-- First cycle of service after issue: 9, or 11 for vatoms. -/
def firstServe : OpKind → Nat
  | .atomic _ _ _ => 11
  | _ => 9

/-- Serve step `k` of a scratchpad access; the step after the last completes it. -/
def State.serveRows (s : State) (id k : Nat) : State :=
  match s.findOp id with
  | none => s
  | some o =>
    if o.held then s
    else
      let steps := rowSteps (opRows o)
      match steps[k]? with
      | some rows =>
        (s.performLocal o (maskOf fun L => o.active.getLsbD L && rows.contains (SMap.get 0 o.addr L / 128))).at (s.g + 1)
          (.scratchpadRowServe id (k + 1))
      | none => if k = steps.length then s.landOp id else s

/-! ### Typed-buffer ports (R87) -/

/-- The port of a buffer on a core. -/
def portNo : Space → Nat
  | .abuf => 1
  | .wbuf => 2
  | .xbuf => 3
  | _ => 0
/-- The seat a core's rota names in a cycle (R12). -/
def State.coreSeatAt (s : State) (core c : Nat) : Option Nat :=
  (s.seats.find? fun x => x.seated && match x.core? core with
    | some r => r.grant || r.cmap.getLsbD (c % 64)
    | none => false).map (·.num)
def State.coreSeat (s : State) (core : Nat) : Option Nat := s.coreSeatAt core s.g
/-- The port an operation waits at. -/
def portSpace (o : Op) : Space :=
  match o.kind with
  | .matrix (.xlds ..) => .wbuf
  | k => spaceOf k
/-- A port is taken in a cycle, as a seat sees it: no use by the fill seat is in another seat's way (R26, R87). -/
def State.portTaken (s : State) (core seat : Nat) (sp : Space) (c : Nat) : Bool :=
  s.ports.contains (core, portNo sp, c) || (seat == 15 && s.ports.contains (core, portNo sp + 4, c))
/-- Take a port cycle; the fill seat's uses have keys of their own. -/
def State.takePort (s : State) (core seat : Nat) (sp : Space) (c : Nat) : State :=
  { s with ports := (core, if seat = 15 then portNo sp + 4 else portNo sp, c) :: s.ports }
/-- A party of the seat that the core rota names waits at a buffer port in this cycle (R87). -/
def State.ownerWaits (s : State) (core : Nat) (sp : Space) : Bool :=
  s.agenda.any fun e => decide (e.1 ≤ s.g) && match e.2 with
    | .bufferPortCycle id _ => match s.findOp id with
      | some p => p.core == core && portSpace p == sp && some p.seat == s.coreSeat core
      | none => false
    | .pieceLand id => match s.findOp id with
      | some p => p.core == core && some p.seat == s.coreSeat core && match p.kind with
        | .copy c => (c.phase == 0 && c.from_ == sp) || (c.phase == 2 && c.to_ == sp)
        | _ => false
      | none => false
    | _ => false
/-- The port serves a seat in this cycle: the one the core rota names, or the fill seat when that one has nothing waiting there (R12,
R18, R87). -/
def State.portServes (s : State) (core seat : Nat) (sp : Space) : Bool :=
  !(s.portTaken core seat sp s.g) && (s.coreSeat core == some seat || (seat == 15 && !(s.ownerWaits core sp)))

/-- Port cycles of an access: two for a 64-bit access of 32 lanes, else one. -/
def portCycles (o : Op) : Nat := if opWidth o.kind = 8 ∧ o.active = BitVec.allOnes 32 then 2 else 1

/-- Another word of the seat waits at the port in this cycle and goes first, the older one. -/
def State.portBehind (s : State) (o : Op) : Bool :=
  s.agenda.any fun e => decide (e.1 ≤ s.g) && match e.2 with
    | .bufferPortCycle id _ => match s.findOp id with
      | some p => p.core == o.core && portSpace p == portSpace o && p.seat == o.seat && decide (p.id < o.id)
      | none => false
    | _ => false

/-- Bits of an element (R103). -/
def fmtBits : Fmt → Nat
  | .f64 => 64 | .f32 => 32 | .f16 => 16 | .bf16 => 16 | .f8m => 8 | .f8e => 8 | .s16 => 16 | .s8 => 8 | .z8 => 8
  | .s4 => 4 | .z4 => 4 | .q8 => 8 | .q4 => 4 | .d8 => 8 | .d6 => 6 | .m4 => 4
/-- The class of a format: 0 float, 1 integer, 2 block (R103). -/
def fmtClass : Fmt → Nat
  | .f64 | .f32 | .f16 | .bf16 | .f8m | .f8e => 0
  | .s16 | .s8 | .z8 | .s4 | .z4 => 1
  | _ => 2
/-- Bytes of a block record (R113). -/
def recordBytes (f : Fmt) : Nat := 1 + 4 * fmtBits f
/-- Bytes of `k` elements of a row or column (R284). -/
def rowBytes (f : Fmt) (k : Nat) : Nat := if fmtClass f = 2 then k / 32 * recordBytes f else k * fmtBits f / 8
/-- What an xlds reads in its port cycles, in order: a column, a start and a length, one for each 256-byte unit that a column touches
(R290). -/
def columnUnits (starts : List Nat) (n : Nat) : List (Nat × Nat × Nat) :=
  starts.zipIdx.flatMap fun q => (List.range ((q.1 + n - 1) / 256 - q.1 / 256 + 1)).map fun k =>
    let a := max q.1 ((q.1 / 256 + k) * 256)
    (q.2, a, min (q.1 + n) ((q.1 / 256 + k + 1) * 256) - a)
/-- The units of an xlds. -/
def Mx.units : Mx → List (Nat × Nat × Nat)
  | .xlds _ _ fmt woff pitch kl nl _ => columnUnits ((List.range nl).map fun j => woff + j * pitch) (rowBytes fmt kl)
  | _ => []
/-- Bytes join a column of the plane that an xlds loads, whose version is its identifier (R290, R299). -/
def Plane.join (p : Plane) (j : Nat) (bs : List Byte) : Plane :=
  { p with cols := p.cols.zipIdx.map fun q => if q.2 = j then q.1 ++ bs else q.1 }
/-- The `k`-th port cycle of an xlds reads its unit of WBUF. -/
def State.readColumn (s : State) (o : Op) (m : Mx) (k : Nat) : State :=
  match m.units[k]?, s.getTeam o.team with
  | some (j, a, n), some t =>
    let bs := Memory.bytes t.wbuf a n
    { s with pairs := s.pairs.map fun q => { q with planes := q.planes.map fun p => if p.ver = o.id then p.join j bs else p } }
  | _, _ => s
/-- A port cycle of a vector access, or its completion two cycles after its last one; a port cycle of an xlds, which completes 8 cycles
after its last one (R290). Of a 64-bit access of 32 lanes the lower sixteen move first (log 113). -/
def State.servePort (s : State) (id k : Nat) : State :=
  match s.findOp id with
  | none => s
  | some o =>
    let sp := portSpace o
    let last := match o.kind with
      | .matrix _ => o.taken
      | _ => portCycles o
    if o.held then s
    else if k = last then s.landOp id
    else if !(s.portServes o.core o.seat sp) then s.at (s.g + 1) (.bufferPortCycle id k)
    else if s.portBehind o then s.now (.bufferPortCycle id k)
    else
      let s := s.takePort o.core o.seat sp s.g
      match o.kind with
      | .matrix m =>
        let s := s.readColumn o m k
        if k + 1 = last then s.at (s.g + 8) (.xldsComplete id) else s.at (s.g + 1) (.bufferPortCycle id (k + 1))
      | _ =>
        let m : LaneMask := if last = 1 then o.active else if k = 0 then 0xFFFF else 0xFFFF0000
        (s.performLocal o m).at (s.g + (if k + 1 = last then 2 else 1)) (.bufferPortCycle id (k + 1))

/-! ### Scratchpad banks (R73, R74) -/

/-- The state of a scratchpad bank of a team. -/
def Team.sbank (t : Team) (j : Nat) : BankState := SMap.get .full t.sbanks j
def Team.swaking (t : Team) (j : Nat) : Option Wake := t.swakes.find? fun w => w.bank == j
/-- An Off bank that does not wake. -/
def Team.sdead (t : Team) (j : Nat) : Bool := t.sbank j == .off && (t.swaking j).isNone
/-- Loads of the team that have issued and read a scratchpad bank take their values: what becomes of the bank does not reach them (R70,
R73). -/
def State.takeReads (s : State) (team j : Nat) : State :=
  (s.ops.filter fun o => o.team == team && match o.kind with
    | .load .scratch _ _ => true
    | _ => false).foldl (fun s o =>
    let m := o.lanesAt [(j * Config.bankBytes, Config.bankBytes)]
    if m = 0 then s else s.localLanes o.id m) s
/-- Zero a scratchpad bank. -/
def Team.zeroBank (t : Team) (j : Nat) : Team :=
  { t with
    scratch := t.scratch.filter fun p => p.1 / Config.bankBytes != j
    spoison := t.spoison.filter fun k => k / 128 != j
    sflips := t.sflips.filter fun k => k / 128 != j }
/-- Start the wake of a scratchpad bank toward a state: 24 cycles from Retain, 64 from Off, which also zeroes it. A write to a bank
that wakes raises the wake to Full. -/
def State.wakeScratch (s : State) (team j : Nat) (target : BankState) : State :=
  match s.getTeam team with
  | none => s
  | some t =>
    if (t.swaking j).isSome then (if target = .full then s.anyTeam team fun t => { t with swakes := raiseWake j t.swakes } else s)
    else match t.sbank j with
      | .retain => (s.anyTeam team fun t => { t with swakes := t.swakes ++ [{ bank := j, target := target, due := s.g + 24 }] }).at
          (s.g + 24) (.bankWakeEnd team none j)
      | .off => (s.anyTeam team fun t =>
          { t.zeroBank j with swakes := t.swakes ++ [{ bank := j, target := target, due := s.g + 64 }] }).at
          (s.g + 64) (.bankWakeEnd team none j)
      | _ => s

/-- A bank set to a state while Full, Retain, Off or waking: what it becomes at once, and the wake it starts (R68, R71). -/
def bankTarget : BankCode → BankState
  | .full => .full
  | .retain => .retain
  | .off => .off

/-- pbank on one bank (R73, R71); reads in flight are not affected (R70). -/
def State.setScratch (s : State) (team j : Nat) (c : BankCode) : State :=
  let s := if c = .off then s.takeReads team j else s
  match s.getTeam team with
  | none => s
  | some t =>
    let put (v : BankState) : State := s.anyTeam team fun t => { t with sbanks := SMap.set .full t.sbanks j v }
    match t.swaking j, c with
    | some _, .off => s.anyTeam team fun t => { t.zeroBank j with
        sbanks := SMap.set .full t.sbanks j .off, swakes := t.swakes.filter fun w => w.bank != j }
    | some _, c => s.anyTeam team fun t => { t with
        swakes := t.swakes.map fun w => if w.bank = j then { w with later := some (bankTarget c) } else w }
    | none, .off => s.anyTeam team fun t => { t.zeroBank j with sbanks := SMap.set .full t.sbanks j .off }
    | none, .full => s.wakeScratch team j .full
    | none, .retain => if t.sbank j = .full then put .retain else if t.sbank j = .off then s.wakeScratch team j .retain else s

/-- vbank on one bank of the group in focus (R68, R71). -/
def State.setBank (s : State) (b : Nat) (c : BankCode) : State :=
  let g := s.cur.group
  let put (v : BankState) : State := s.onGroup fun g => { g with banks := SMap.set .absent g.banks b v }
  let wake (target : BankState) (n : Nat) : State :=
    (s.onGroup fun g => g.startWake b target s.g).at (s.g + n) (.bankWakeEnd s.cur.team.id (some g.gid) b)
  match g.bank b, g.waking b, c with
  | .absent, _, _ => s
  | _, some _, .off => s.onGroup fun g => { g.zeroBank b with
      banks := SMap.set .absent g.banks b .off, wakes := g.wakes.filter fun w => w.bank != b }
  | _, some _, c => s.onGroup fun g => { g with
      wakes := g.wakes.map fun w => if w.bank = b then { w with later := some (bankTarget c) } else w }
  | _, none, .off => s.onGroup fun g => { g.zeroBank b with banks := SMap.set .absent g.banks b .off }
  | .retain, none, .full => wake .full 16
  | .off, none, .full => wake .full 48
  | .full, none, .full => s
  | .full, none, .retain => put .retain
  | .retain, none, .retain => s
  | .off, none, .retain => wake .retain 48

/-- A bank finishes waking (R68, R71). -/
def State.endWake (s : State) (team : Nat) (gid : Option Nat) (b : Nat) : State :=
  match gid with
  | some g =>
    match (s.findGroup team g).bind fun h => h.waking b with
    | none => s
    | some w =>
      if w.due = s.g then
        s.mapGroup team g fun h => { h with
          banks := SMap.set .absent h.banks b (w.later.getD w.target), wakes := h.wakes.filter fun v => v.bank != b }
      else s
  | none =>
    match (s.findTeam team).bind fun t => t.swaking b with
    | none => s
    | some w =>
      if w.due = s.g then
        s.mapTeam team fun t => { t with
          sbanks := SMap.set .full t.sbanks b (w.later.getD w.target), swakes := t.swakes.filter fun v => v.bank != b }
      else s

end Sys2Proof.Machine
end

