-- ==== Sys2Proof/Machine/Memory.lean ====
section
/-!
DEFINITION. Memory words: vector and scalar loads and stores, touches and atomics (R245-R253), each over one launch of a
global or a local access.
-/

namespace Sys2Proof.Machine

open Sys2Proof

/-- Bytes of a width. -/
def widthBytes : Width → Nat
  | .x8 => 1
  | .x16 => 2
  | .x32 => 4
  | .x64 => 8

/-- An operation of the word at hand before it is placed. -/
def blankOp (k : OpKind) : Op := { id := 0, seat := 0, core := 0, team := 0, gid := 0, kind := k }

/-- The exact address of a lane: S[b] + SignExt(V[o][L]) (R247). -/
def vecAddr (s : State) (b : SReg) (o : VReg) (L : Nat) : Int := ((s.rS b).toNat : Int) + (s.rV o L).toInt

/-- Misaligned lanes (R82). -/
def alignTraps (s : State) (f : Nat → Int) (n : Nat) : List TrapReq :=
  (s.active.filter fun L => f L % n != 0).map (laneTrap .misaligned)
/-- The issue checks of a global access (R82, R83). -/
def globalTraps (s : State) (f : Nat → Int) (n : Nat) : List TrapReq :=
  alignTraps s f n ++ (s.active.filter fun L => !(canonical (f L))).map (laneTrap .accessFault)
/-- The issue checks of a local access (R81, R82), and for a scratchpad read the Off banks (R73). -/
def localTraps (s : State) (sp : Space) (f : Nat → Int) (n : Nat) (reads : Bool) : List TrapReq :=
  let t := s.cur.team
  alignTraps s f n ++ (s.active.filter fun L => !(inShare t sp (f L) n)).map (laneTrap .accessFault)
    ++ (if reads && sp == .scratch then (s.active.filter fun L => inShare t sp (f L) n && t.sdead ((f L).toNat / Config.bankBytes)).map
          (laneTrap .deadRead) else [])

/-- Keep a value for every active lane. -/
def keepLanes {α : Type} [DecidableEq α] (d : α) (s : State) (f : Nat → α) : SMap α :=
  s.active.foldl (fun m L => SMap.set d m L (f L)) []

/-- Launch a local access of the word at hand; banks written wake (R73), and the first row or port cycle is set (R85, R87). -/
def State.launchLocal (s : State) (o : Op) : State :=
  let (id, s) := s.placeOp o
  let s := s.pend id (destKeys o.dest)
  let sp := spaceOf o.kind
  let s := if o.isWrite && sp == .scratch then
      (distinct ((lanesOf o.active).map fun L => SMap.get 0 o.addr L / Config.bankBytes)).foldl (fun s j => s.wakeScratch s.cur.team.id j .full) s
    else s
  match s.findOp id with
  | none => s
  | some o =>
    if o.buffered || o.held then s
    else if sp = .scratch then s.at (s.g + firstServe o.kind) (.scratchpadRowServe id 0)
    else s.at (s.g + 10) (.bufferPortCycle id 0)

/-- A vector access: checks, then the launch in its space. -/
def vectorAccess (i : Instr) (sp : Space) (n : Nat) (reads : Bool) (f : State → Nat → Int) (mk : State → Op) (s : State) : Out :=
  runWord i s fun s =>
    match check (if sp = .global then globalTraps s (f s) n else localTraps s sp (f s) n reads) with
    | .error t => .error t
    | .ok _ =>
      let o := { mk s with active := s.activeMask, addr := keepLanes 0 s fun L => (f s L).toNat }
      .ok (if sp = .global then s.launchGlobal o else s.launchLocal o)

/-- A vector load (R247). -/
def vectorLoad (i : Instr) (sp : Space) (signed : Bool) (d : VReg) (b : SReg) (o : VReg) (w : Width) (s : State) : Out :=
  vectorAccess i sp (widthBytes w) true (fun s => vecAddr s b o) (fun _ =>
    { blankOp (.load sp (widthBytes w) signed) with count := .loads, dest := .vec d (w == .x64) }) s
/-- A vector store (R247). -/
def vectorStore (i : Instr) (sp : Space) (d : VReg) (b : SReg) (o : VReg) (w : Width) (s : State) : Out :=
  vectorAccess i sp (widthBytes w) false (fun s => vecAddr s b o) (fun s =>
    { blankOp (.store sp (widthBytes w)) with
      count := .stores, x := keepLanes 0 s fun L => if w = .x64 then s.rP d L else zext64 (s.rV d L) }) s

/-- vld.z (R247). -/
def execVldZ (d : VReg) (b : SReg) (o : VReg) (w : Width) (h : Hint) (s : State) : Out :=
  vectorLoad (.vldZ d b o w h) .global false d b o w s
/-- vld.s (R247). -/
def execVldS (d : VReg) (b : SReg) (o : VReg) (w : Width) (h : Hint) (s : State) : Out :=
  vectorLoad (.vldS d b o w h) .global true d b o w s
/-- vst (R247). -/
def execVst (d : VReg) (b : SReg) (o : VReg) (w : Width) (h : Hint) (s : State) : Out :=
  vectorStore (.vst d b o w h) .global d b o w s
/-- vlds (R247). -/
def execVlds (d : VReg) (b : SReg) (o : VReg) (w : Width) (s : State) : Out := vectorLoad (.vlds d b o w) .scratch false d b o w s
/-- vsts (R247). -/
def execVsts (d : VReg) (b : SReg) (o : VReg) (w : Width) (s : State) : Out := vectorStore (.vsts d b o w) .scratch d b o w s
/-- vlda (R247). -/
def execVlda (d : VReg) (b : SReg) (o : VReg) (w : Width) (s : State) : Out := vectorLoad (.vlda d b o w) .abuf false d b o w s
/-- vsta (R247). -/
def execVsta (d : VReg) (b : SReg) (o : VReg) (w : Width) (s : State) : Out := vectorStore (.vsta d b o w) .abuf d b o w s
/-- vldx (R247, R287). -/
def execVldx (d : VReg) (b : SReg) (o : VReg) (w : Bool) (s : State) : Out :=
  vectorLoad (.vldx d b o w) .xbuf false d b o (if w then .x64 else .x32) s

/-! ### Scalar words (R249, R250) -/

/-- The exact address of a scalar access. -/
def scalAddr (s : State) (b : SReg) (e : BitVec 12) : Int := ((s.rS b).toNat : Int) + e.toInt

/-- A scalar access performs once for the group, whatever lanes are active (R245): it stands in lane 0. -/
def scalarAccess (i : Instr) (n : Nat) (a : State → Int) (mk : State → Op) (s : State) : Out :=
  runWord i s fun s =>
    if a s % n ≠ 0 then .error (trapOf .misaligned)
    else if canonical (a s) then .ok (s.launchGlobal { mk s with active := 1, threads := s.lanes, addr := SMap.set 0 [] 0 (a s).toNat })
    else .error (trapOf .accessFault)

/-- A scalar load; with s0 as destination it is a touch (R250). -/
def scalarLoad (i : Instr) (d : SReg) (b : SReg) (e : BitVec 12) (n : Nat) (s : State) : Out :=
  scalarAccess i n (fun s => scalAddr s b e) (fun _ =>
    if d = 0 then { blankOp .touch with count := .loads }
    else { blankOp (.load .global n false) with count := .loads, dest := .scal d }) s
/-- A scalar store. -/
def scalarStore (i : Instr) (d : SReg) (b : SReg) (e : BitVec 12) (n : Nat) (s : State) : Out :=
  scalarAccess i n (fun s => scalAddr s b e) (fun s =>
    { blankOp (.store .global n) with count := .stores, x := SMap.set 0 [] 0 (s.rS d) }) s

/-- sld (R249). -/
def execSld (d b : SReg) (e : BitVec 12) (s : State) : Out := scalarLoad (.sld d b e) d b e 8 s
/-- slw (R249). -/
def execSlw (d b : SReg) (e : BitVec 12) (s : State) : Out := scalarLoad (.slw d b e) d b e 4 s
/-- sst (R249). -/
def execSst (d b : SReg) (e : BitVec 12) (s : State) : Out := scalarStore (.sst d b e) d b e 8 s
/-- ssw (R249). -/
def execSsw (d b : SReg) (e : BitVec 12) (s : State) : Out := scalarStore (.ssw d b e) d b e 4 s

/-! ### Atomics (R251-R253) -/

def ordAcq : Ord → Bool
  | .acq => true
  | .acqrel => true
  | _ => false
def ordRel : Ord → Bool
  | .rel => true
  | .acqrel => true
  | _ => false

/-- The first operand of a lane: v, or cmp of a cas. -/
def atomX (s : State) (d : VReg) (p : AOp) (L : Nat) : W64 := if p.is64 then s.rP d L else zext64 (s.rV d L)
/-- The second operand of a lane: nv of a cas. -/
def atomY (s : State) (d : VReg) (p : AOp) (L : Nat) : W64 :=
  if p.isCas then (if p.is64 then s.rP (d + 2) L else zext64 (s.rV (d + 1) L)) else 0

/-- A vector atomic (R252). -/
def vectorAtomic (i : Instr) (sp : Space) (d : VReg) (p : AOp) (sc : Scope) (r : Ord) (returns : Bool)
    (f : State → Nat → Int) (s : State) : Out :=
  vectorAccess i sp (aopBytes p) true f (fun s =>
    { blankOp (.atomic sp p false) with
      count := if returns then .loads else .stores, dest := if returns then .vec d p.is64 else .none
      scope := sc, acq := returns && ordAcq r, rel := ordRel r
      x := keepLanes 0 s (atomX s d p), y := keepLanes 0 s (atomY s d p) }) s

/-- vatom (R252). -/
def execVatom (d a : VReg) (p : AOp) (sc : Scope) (r : Ord) (s : State) : Out :=
  vectorAtomic (.vatom d a p sc r) .global d p sc r true (fun s L => (s.rP a L).toNat) s
/-- vmred (R252). -/
def execVmred (d a : VReg) (p : RedOp) (sc : Scope) (r : Ord) (s : State) : Out :=
  vectorAtomic (.vmred d a p sc r) .global d p.op sc r false (fun s L => (s.rP a L).toNat) s
/-- vatoms (R252). -/
def execVatoms (d a : VReg) (p : AOp) (sc : Scope) (r : Ord) (s : State) : Out :=
  vectorAtomic (.vatoms d a p sc r) .scratch d p sc r true (fun s L => (s.rV a L).toNat) s
/-- satom (R253). -/
def execSatom (d a b : SReg) (p : AOp) (r : Ord) (s : State) : Out :=
  scalarAccess (.satom d a b p r) (aopBytes p) (fun s => (s.rS a).toNat) (fun s =>
    { blankOp (.atomic .global p true) with
      count := .loads, dest := .scal d, scope := .dev, acq := ordAcq r, rel := ordRel r
      x := SMap.set 0 [] 0 (if p.isCas then s.rS d else s.rS b), y := SMap.set 0 [] 0 (if p.isCas then s.rS b else 0) }) s

end Sys2Proof.Machine
end

