-- ==== Sys2Proof/Machine/Sync.lean ====
section
/-!
DEFINITION. Synchronisation and bank words: fence (R254), barriers (R255-R257), waitc (R258), vbank, pbank (R259, R260), and
the extended block with the register pools behind it (R66, R67, R75, R261).
-/

namespace Sys2Proof.Machine

open Sys2Proof

/-! ### Fence (R137, R254, R423) -/

/-- The fence still holds something: a lane's next write, an older read or write. -/
def fenceLive (s : State) (team gid : Nat) (f : FenceRec) : Bool :=
  s.ops.any fun o => o.team == team && o.gid == gid && decide (o.id < f.age)

/-- A release fence still waits for the next write of some lane, and no later release fence takes its place (R137). -/
def FenceRec.open_ (f : FenceRec) : Bool := f.rel && f.lanes != 0
/-- fence: it issues at once; what it holds is judged when later words are (R254, R423). -/
def execFence (u : Bool) (r : FOrd) (sc : Scope) (s : State) : Out :=
  runPure (.fence u r sc) s fun s =>
    let c := s.cur
    let f : FenceRec := { age := s.nextOp, acq := r != .rel, rel := r != .acq, full := r == .acqrel, uo := u, scope := sc, lanes := BitVec.allOnes 32 }
    let wide := r != .acq && sc != .thr && sc != .grp
    s.onGroup fun g => { g with
      fences := (g.fences.filter fun q => fenceLive s c.team.id c.group.gid q || (!f.rel && q.open_)) ++ [f]
      lastRel := if wide then s.nextOp else g.lastRel }

/-! ### Barriers (R255-R257) -/

/-- The object a scalar names. -/
def barOff (s : State) (b : SReg) : Nat := (s.rS b).toNat
/-- The checks of an object at issue: alignment, bounds, bank, and VALID but for bar.init (R74, R92, R256). -/
def objectTraps (s : State) (off : Nat) (valid : Bool) : List TrapReq :=
  let t := s.cur.team
  let fits := inShare t .scratch off 16
  (if off % 16 ≠ 0 then [trapOf .misaligned] else [])
    ++ (if fits then (if t.sdead (off / Config.bankBytes) then [trapOf .deadRead] else []) else [trapOf .accessFault])
    ++ (if valid && fits && !(readBar (s.localView t.id s.cur.group.gid s.nextOp .scratch) off).valid then [trapOf .accessFault] else [])
/-- The object as it stands: what the group's wait or test of it finds, an arrival of the group that is held among what has still to come
(R91, R133). -/
def State.barNow (s : State) (off : Nat) : Bar := readBar s.cur.team.scratch off
/-- The object as the group's older words leave it. -/
def State.bar (s : State) (off : Nat) : Bar := readBar (s.localView s.cur.team.id s.cur.group.gid s.nextOp .scratch) off
/-- The group's older accesses to byte ranges of the scratchpad perform before the word at hand reads them (R135). -/
def State.settled (s : State) (l : List (Nat × Nat)) : State := s.settleLocal s.cur.team.id s.cur.group.gid s.nextOp .scratch l
/-- A held arrival of the group on the object keeps the word at hand behind it (R135). -/
def State.barBehind (s : State) (off : Nat) (u : BarUpd) : Bool :=
  s.heldBehind { blankOp (.bar off u) with id := s.nextOp, team := s.cur.team.id, gid := s.cur.group.gid }

/-- A barrier change by the word at hand. In portable mode it is buffered (R397). A release arrival waits for the older
writes of the group (R133, R423), and any change for an older one of the group that waits (R135). The others are applied at issue. -/
def State.barWord (s : State) (off : Nat) (u : BarUpd) (rel : Bool) (sc : Scope) : Except TrapReq State :=
  let t := s.cur.team
  let g := s.cur.group
  let o := { blankOp (.bar off u) with rel := rel, scope := sc, active := s.activeMask }
  if t.portable then
    let id := s.nextOp
    .ok ((s.launchOp { o with buffered := true }).onGroup fun g => { g with effects := g.effects ++ [id] })
  else if (rel && s.writesBefore t.id g.gid s.nextOp) || s.barBehind off u then .ok (s.launchOp { o with held := true })
  else
    match s.barApply t.id off u with
    | (true, s) => .ok s
    | (false, _) => .error (trapOf .accessFault)

/-- The frame of a barrier word: the group's older accesses to the object come first (R135). -/
def barrierWord (i : Instr) (b : SReg) (valid : Bool) (f : State → Nat → Except TrapReq State) (s : State) : Out :=
  runWord i s fun s =>
    let s := s.settled [(barOff s b, 16)]
    match check (objectTraps s (barOff s b) valid) with
    | .error t => .error t
    | .ok _ => f s (barOff s b)

/-- bar.init (R256). -/
def execBarInit (b e : SReg) (s : State) : Out :=
  barrierWord (.barInit b e) b false (fun s off =>
    if 65535 < (s.rS e).toNat || (s.bar off).armed then .error (trapOf .accessFault)
    else s.barWord off (.init (s.rS e).toNat) false .team) s
/-- bar.expect (R256). -/
def execBarExpect (b e : SReg) (s : State) : Out :=
  barrierWord (.barExpect b e) b true (fun s off => s.barWord off (.expect (lo32 (s.rS e))) false .team) s
/-- bar.arrive (R256). -/
def execBarArrive (b : SReg) (p : Scope) (o : Bool) (s : State) : Out :=
  barrierWord (.barArrive b p o) b true (fun s off => s.barWord off (.arrive 0 none) o p) s
/-- bar.arrive.exp (R256). -/
def execBarArriveExp (b e : SReg) (p : Scope) (o : Bool) (s : State) : Out :=
  barrierWord (.barArriveExp b e p o) b true (fun s off => s.barWord off (.arrive (lo32 (s.rS e)) none) o p) s
/-- bar.wait (R256, R257). -/
def execBarWait (b e : SReg) (p : Scope) (o : Bool) (s : State) : Out :=
  barrierWord (.barWait b e p o) b true (fun s off =>
    let ph := lo32 (s.rS e)
    .ok (if !s.cur.team.portable && (s.barNow off).completed ph then s else s.block (.barWait off ph o))) s
/-- A bar.test or bar.phase behind a held arrival of its group on the object: it answers once that has been applied (R135). -/
def State.askBar (s : State) (off : Nat) (u : BarUpd) (acq : Bool) (e : SReg) : State :=
  let id := s.nextOp
  (s.launchOp { blankOp (.bar off u) with held := true, acq := acq, dest := .scal e }).pend id (destKeys (.scal e))
/-- bar.test (R256): one that finds the phase complete, with acquire order, is an acquire until its value returns (R134, R262); in
portable mode it answers at the commit (R397). -/
def execBarTest (b e : SReg) (p : Scope) (o : Bool) (s : State) : Out :=
  barrierWord (.barTest b e p o) b true (fun s off =>
    let ph := lo32 (s.rS e)
    if s.cur.team.portable then
      let id := s.nextOp
      let s := s.launchOp { blankOp (.bar off (.test ph)) with buffered := true, dest := .scal e }
      .ok ((s.pend id (destKeys (.scal e))).onGroup fun g => { g with effects := g.effects ++ [id] })
    else if s.barBehind off (.test ph) && !(s.barNow off).completed ph then .ok (s.askBar off (.test ph) o e)
    else
      let won := (s.barNow off).completed ph
      let s := s.wS e (BitVec.ofNat 64 (bit won))
      .ok (if o && won then s.onGroup fun g => { g with tested := s.g + 4 } else s)) s
/-- bar.phase (R256). -/
def execBarPhase (b e : SReg) (s : State) : Out :=
  barrierWord (.barPhase b e) b true (fun s off =>
    .ok (if s.barBehind off .phase then s.askBar off .phase false e else s.wS e (BitVec.ofNat 64 (s.barNow off).phase))) s

/-- Waiters on a team's barrier objects whose phase has completed resume (R91); in portable mode only a commit releases. -/
def Team.resumeWaits (t : Team) (cycle : Nat) : Team :=
  { t with groups := t.groups.map fun g => g.onSplits fun p =>
      match p.block with
      | .barWait off ph _ => if (readBar t.scratch off).completed ph then p.resume cycle else p
      | _ => p }
def State.resumeWaits (s : State) (team : Nat) : State :=
  s.mapTeam team fun t => if t.portable then t else t.resumeWaits s.g

/-! ### waitc (R258) -/

/-- The counts satisfy the limits; 15 is any. -/
def countsHold (c : Counts) (l st cp ti : Nat) : Bool :=
  let ok (n m : Nat) : Bool := m == 15 || decide (n ≤ m)
  ok c.loads l && ok c.stores st && ok c.copies cp && ok c.tiles ti

/-- A waitc of issue age `age` has completed: with no store outstanding it orders later commands after the group's earlier writes
(R144, R423). -/
def Group.storesOver (g : Group) (age : Nat) : Group := if g.counts.stores = 0 then { g with lastRel := max g.lastRel age } else g
/-- waitc any, any, any, any: it completes at once and orders nothing (R258). -/
def waitsNothing (l st cp ti : Nat) : Bool := l == 15 && st == 15 && cp == 15 && ti == 15
/-- waitc (R258). -/
def execWaitc (l st cp ti : Fin 16) (s : State) : Out :=
  runPure (.waitc l st cp ti) s fun s =>
    if waitsNothing l st cp ti then s
    else if !s.cur.team.portable && countsHold s.cur.group.counts l st cp ti then s.onGroup fun g => g.storesOver s.nextOp
    else s.onSplit fun p => { p with block := .waitc l st cp ti, age := s.nextOp }

/-- Splits whose counts now hold resume (R258); in portable mode only a commit resumes them (R397). -/
def Group.resumeCounts (g : Group) (cycle : Nat) : Group :=
  let met (p : Split) : Bool := match p.block with
    | .waitc l st cp ti => countsHold g.counts l st cp ti
    | _ => false
  ((g.allSplits.filter met).foldl (fun (h : Group) p => h.storesOver p.age) g).onSplits fun p => if met p then p.resume cycle else p
/-- The row WAITC_RESUME (R258). -/
def execWaitcResume (s : State) : Out :=
  runEvent s fun
    | .waitcResume team gid => some (if (s.findTeam team).any Team.portable then s
      else s.mapGroup team gid fun g => g.resumeCounts s.g)
    | _ => none

/-! ### Bank words (R259, R260) -/

/-- vbank (R68, R70, R71). -/
def execVbank (m : BitVec 16) (c : BankCode) (s : State) : Out :=
  runPure (.vbank m c) s fun s => ((List.range 16).filter fun b => m.getLsbD b).foldl (fun s b => s.setBank b c) s
/-- pbank (R73, R260). -/
def execPbank (f n : Fin 128) (c : BankCode) (s : State) : Out :=
  runWord (.pbank f n c) s fun s =>
    if s.cur.team.nscratch ≤ f.val + n.val then .error (illegal 10)
    else if s.cur.team.portable then
      let id := s.nextOp
      .ok ((s.launchOp { blankOp (.pbank f (n + 1) c) with buffered := true }).onGroup fun g => { g with effects := g.effects ++ [id] })
    else .ok ((List.range (n.val + 1)).foldl (fun s k => s.setScratch s.cur.team.id (f.val + k) c) s)

/-! ### Register subarrays and the extended block (R66, R67, R75) -/

/-- The teams of a seat's seated function on a core, the one in focus among them. -/
def State.teamsOn (s : State) (seat core : Nat) : List Team :=
  ((if s.cur.live then [{ s.cur.team with groups := insertGroup s.cur.group s.cur.team.groups }] else []) ++ s.teams).filter
    fun t => t.seat == seat && t.core == core && (s.findSeat seat).any fun (x : Seat) => x.vf == t.vf
/-- Banks of a group taken from a subarray. -/
def Group.held (g : Group) (i : Nat) : Nat := SMap.get 0 g.baseHeld i + SMap.get 0 g.extHeld i
/-- A subarray: banks in use and the mode it is set to (true: detection only), none while undetermined. -/
def State.subarray (s : State) (seat core i : Nat) : Nat × Option Bool :=
  let ts := (s.teamsOn seat core).filter fun t => t.groups.any fun g => g.held i != 0
  ((s.teamsOn seat core).foldl (fun n t => t.groups.foldl (fun n g => n + g.held i) n) 0, (ts.head?).map fun t => t.kernel.detect)
/-- Banks of a subarray in a mode (R75). -/
def subarrayBanks (detect : Bool) : Nat := if detect then 75 else 64
/-- Take `n` banks from subarrays in order, `free` giving what each can give. -/
def takeFrom (free : Nat → Nat) : List Nat → Nat → SMap Nat → Nat × SMap Nat
  | [], n, m => (n, m)
  | i :: is, n, m => let k := min n (free i); takeFrom free is (n - k) (SMap.set 0 m i (SMap.get 0 m i + k))
/-- Take `n` banks of a mode: subarrays already in the mode first, then undetermined ones, lowest first (R75). -/
def State.takeBanks (s : State) (seat core : Nat) (detect : Bool) (n : Nat) : Option (SMap Nat) :=
  match (s.findSeat seat).bind fun x => x.core? core with
  | none => none
  | some r =>
    let subs := (List.range r.suba).map fun i => (i, s.subarray seat core i)
    let mine := (subs.filter fun q => q.2.2 == some detect).map (·.1)
    let blank := (subs.filter fun q => q.2.2 == none).map (·.1)
    let free (i : Nat) := subarrayBanks detect - (s.subarray seat core i).1
    match takeFrom free (mine ++ blank) n [] with
    | (0, m) => some m
    | _ => none

/-- Groups of the seat on the core that wait for the extended block of a mode, in the order they blocked (R67). One of a saved
team, or of a group in its handler, keeps its place (log 105). -/
def State.eacqWaiters (s : State) (seat core : Nat) (detect : Bool) : List (Nat × Nat × Nat × Nat) :=
  let l := ((s.teamsOn seat core).filter fun t => t.kernel.detect == detect).flatMap fun t => t.groups.flatMap fun g =>
    g.allSplits.filterMap fun p => match p.block with
      | .eacq since => some (since, t.residency, g.gid, t.id)
      | _ => none
  sortBy (fun a b => decide (a.1 < b.1 ∨ (a.1 = b.1 ∧ (a.2.1 < b.2.1 ∨ (a.2.1 = b.2.1 ∧ a.2.2.1 < b.2.2.1))))) l

/-- The group takes the extended block: banks 8-15 Full and zeroed (R66). -/
def Group.takeExt (g : Group) (m : SMap Nat) : Group :=
  let g := [8, 9, 10, 11, 12, 13, 14, 15].foldl (fun (g : Group) b => { g.zeroBank b with banks := SMap.set .absent g.banks b .full }) g
  { g with hasExt := true, extHeld := m }
/-- The group returns the extended block: the banks are absent (R66). -/
def Group.dropExt (g : Group) : Group :=
  let g := [8, 9, 10, 11, 12, 13, 14, 15].foldl (fun (g : Group) b =>
    { g.zeroBank b with banks := SMap.set .absent g.banks b .absent, wakes := g.wakes.filter fun w => w.bank != b }) g
  { g with hasExt := false, extHeld := [] }

/-- An acquisition at issue: none where it must wait (R66). -/
def State.tryExt (s : State) : Option State :=
  let t := s.cur.team
  if s.cur.group.hasExt then some s
  else if (s.eacqWaiters t.seat t.core t.kernel.detect).isEmpty then
    match s.takeBanks t.seat t.core t.kernel.detect 8 with
    | some m => some (s.onGroup fun g => g.takeExt m)
    | none => none
  else none

/-- eacq (R66, R261). -/
def execEacq (s : State) : Out :=
  runPure .eacq s fun s =>
    match s.tryExt with
    | some s => s
    | none => s.block (.eacq s.g)
/-- eacq.try (R66, R261). -/
def execEacqTry (c : CReg) (s : State) : Out :=
  runPure (.eacqTry c) s fun s =>
    match s.tryExt with
    | some s => s.wC c (allBits true)
    | none => s.wC c (allBits false)
/-- erel (R66, R261): the banks freed go to waiting eacq words, then to a team that waits to be carved (R51, R67). -/
def execErel (s : State) : Out :=
  runPure .erel s fun s =>
    let t := s.cur.team
    if s.cur.group.hasExt then
      ((s.onGroup Group.dropExt).once (s.g + 1) (.eacqGrant t.core t.seat)).once (s.g + 1) (.teamCarving t.core t.seat)
    else s

/-- Grant the block to waiters of a mode in order, until one cannot be served (R67); every split of the group that waits goes on. -/
def State.grantExt (s : State) (seat core : Nat) (detect : Bool) : List (Nat × Nat × Nat × Nat) → State
  | [] => s
  | (_, _, gid, team) :: ws =>
    let free (g : Group) : Group := g.onSplits fun p => match p.block with
      | .eacq _ => p.resume s.g
      | _ => p
    if (s.findGroup team gid).any fun g => g.hasExt then (s.mapGroup team gid free).grantExt seat core detect ws
    else match s.takeBanks seat core detect 8 with
    | none => s
    | some m => (s.mapGroup team gid fun g => free (g.takeExt m)).grantExt seat core detect ws
/-- Waiters of both modes on a core are served; those that satisfy `p` (R67). -/
def State.grantWaiters (s : State) (seat core : Nat) (p : Team → Bool) : State :=
  let sel (s : State) (l : List (Nat × Nat × Nat × Nat)) : List (Nat × Nat × Nat × Nat) := l.filter fun w => (s.findTeam w.2.2.2).any p
  let s := s.grantExt seat core false (sel s (s.eacqWaiters seat core false))
  s.grantExt seat core true (sel s (s.eacqWaiters seat core true))
/-- The row EACQ_GRANT (R67); a portable waiter is looked at by its grid's commit (R397). -/
def execEacqGrant (s : State) : Out :=
  runEvent s fun
    | .eacqGrant core seat => some (s.grantWaiters seat core fun t => !t.portable)
    | _ => none

end Sys2Proof.Machine
end

