-- ==== Sys2Proof/Machine/Tiles.lean ====
section
/-!
DEFINITION. What the matrix engine computes: operand elements (R103-R114, R283, R284), tiles and their status records
(R285-R288, R295), plane loads (R299), and the landings of xcfg, xmm, xbmm, xscac, xdrn and xrel (R298-R305).
-/

namespace Sys2Proof.Machine

open Sys2Proof

/-! ### Operand formats -/

/-- The alignment of offsets and pitches (R284). -/
def fmtAlign : Fmt → Nat
  | .f64 => 8
  | .f32 => 4
  | .f16 | .bf16 | .s16 => 2
  | _ => 1
/-- The value of an element from its bits (R103-R111). -/
def elemValue (f : Fmt) (x : Nat) : Val :=
  let dyad (v : Int) : Val := .fin (decide (v < 0)) v.natAbs (-8)
  match f with
  | .f64 => fp64.value x
  | .f32 => fp32.value x
  | .f16 => fp16.value x
  | .bf16 => fpB16.value x
  | .f8m => f8mValue x
  | .f8e => fp8e.value x
  | .s16 => .ofInt (signedOf 16 x)
  | .s8 | .q8 => .ofInt (signedOf 8 x)
  | .z8 => .ofInt x
  | .s4 | .q4 => .ofInt (signedOf 4 x)
  | .z4 => .ofInt x
  | .d8 => dyad (dyad8 x)
  | .d6 => dyad (dyad6 x)
  | .m4 => dyad (monad4 x)
/-- Bits of element `e` of a row given as one little-endian number (R104, R113). -/
def elemBits (f : Fmt) (row e : Nat) : Nat :=
  let at_ := if fmtClass f = 2 then e / 32 * (8 * recordBytes f) + 8 + e % 32 * fmtBits f else e * fmtBits f
  row / 2 ^ at_ % 2 ^ fmtBits f
/-- The scale byte of record `k` of a row (R113). -/
def scaleByte (f : Fmt) (row k : Nat) : Byte := BitVec.ofNat 8 (row / 2 ^ (k * (8 * recordBytes f)))
/-- The 32 values of chunk `k` of a row. -/
def chunkVals (f : Fmt) (row k : Nat) : List Val := (List.range 32).map fun e => elemValue f (elemBits f row (32 * k + e))
/-- The exact products of chunk `k` of a row and a column. -/
def products (fa fb : Fmt) (a b k : Nat) : List Val := List.zipWith Val.mul (chunkVals fa a k) (chunkVals fb b k)

/-- Greatest depth and width of a pair of formats (R283). -/
def pairLimit (a b : Fmt) : Nat × Nat :=
  let narrowB : Bool := [Fmt.s4, .z4, .q4, .d8, .d6, .m4].contains b
  let narrowA : Bool := [Fmt.s8, .z8, .s4, .z4, .q4, .d6, .m4].contains a
  let w := max (fmtBits a) (fmtBits b)
  if narrowB && narrowA then (256, 128)
  else if w ≤ 8 then (128, 128)
  else if w = 16 then (64, 128)
  else if w = 32 then (32, 64)
  else (32, 16)

/-- The tile kind a pair accumulates into, if R121 accepts the pair. -/
def pairKind (a b : Fmt) : Option TKind :=
  match fmtClass a, fmtClass b with
  | 0, 0 => if a = .f64 ∧ b = .f64 then some .f64 else if a = .f64 ∨ b = .f64 then none else some .f32
  | 1, 1 => some .s32
  | 2, 2 => some .part
  | _, _ => none

/-! ### Tiles (R285, R286) -/

def kindCode : TKind → Nat
  | .f32 => 0
  | .s32 => 1
  | .f64 => 2
  | .part => 3
/-- Bytes of an accumulator element. -/
def elemBytes : TKind → Nat
  | .f64 => 8
  | _ => 4
/-- Bytes of one plane of a .part tile. -/
def Tile.planeBytes (t : Tile) : Nat := 4 * t.rows * t.cols + 256
/-- Data bytes of a tile. -/
def Tile.dataBytes (t : Tile) : Nat :=
  if t.kind = .part then t.planes * t.planeBytes else elemBytes t.kind * t.rows * t.cols
/-- All bytes of a tile, its status record among them. -/
def Tile.bytes (t : Tile) : Nat := t.dataBytes + 16
/-- The offset of element (i, j) of plane p. -/
def Tile.elem (t : Tile) (p i j : Nat) : Nat :=
  if t.kind = .part then t.off + p * t.planeBytes + 4 * (i * t.cols + j) else t.off + elemBytes t.kind * (i * t.cols + j)
/-- The offsets of the scale bytes kA[i] and kB[j] of plane p. -/
def Tile.scaleA (t : Tile) (p i : Nat) : Nat := t.off + p * t.planeBytes + 4 * t.rows * t.cols + i
def Tile.scaleB (t : Tile) (p j : Nat) : Nat := t.off + p * t.planeBytes + 4 * t.rows * t.cols + 128 + j
/-- The tile holds a byte of [lo, lo + n). -/
def Tile.meets (t : Tile) (lo n : Nat) : Bool := decide (lo < t.off + t.bytes ∧ t.off < lo + n)

/-- The words of an element, for the checksums. -/
def elemSum (t : Tile) (m : Memory) (p i j : Nat) : W32 :=
  let a := t.elem p i j
  if t.kind = .f64 then Memory.read32 m a + Memory.read32 m (a + 4) else Memory.read32 m a
/-- The hidden checksums over the bytes as they stand (R295). -/
def tileSums (t : Tile) (m : Memory) : List W32 :=
  (List.range (if t.kind = .part then t.planes else 1)).flatMap fun p =>
    ((List.range t.rows).map fun i => (List.range t.cols).foldl (fun s j => s + elemSum t m p i j) 0)
      ++ ((List.range t.cols).map fun j => (List.range t.rows).foldl (fun s i => s + elemSum t m p i j) 0)
/-- The status record (R286). -/
def Tile.status (t : Tile) : Nat :=
  bit t.ovf + kindCode t.kind * 2 + (t.state - 1) % 4 * 8 + t.rows * 2 ^ 64 + t.cols * 2 ^ 72
    + (if t.kind = .part then t.planes else 0) * 2 ^ 80 + t.passes % 2 ^ 32 * 2 ^ 96
/-- Zero a tile's bytes. -/
def zeroTile (t : Tile) (m : Memory) : Memory := m.filter fun c => !(decide (t.off ≤ c.1 ∧ c.1 < t.off + t.bytes))
/-- Change a landed tile and its bytes; the checksums and the status record follow (R286, R295). -/
def Team.landTile (t : Team) (id : Nat) (f : Tile → Memory → Tile × Memory) : Team :=
  match t.tilesIn.find? fun x => x.id == id with
  | none => t
  | some x =>
    let (y, m) := f x t.xbuf
    let y := { y with sums := tileSums y m }
    { t with
      xbuf := Memory.write m (y.off + y.dataBytes) 16 y.status
      tilesIn := t.tilesIn.map fun z => if z.id = id then y else z }

/-- A tile has the place and shape of another. -/
def Tile.same (x y : Tile) : Bool := x.kind == y.kind && x.off == y.off && x.rows == y.rows && x.cols == y.cols && x.planes == y.planes
/-- Something lands in XBUF in a cycle; what is served in the cycle sees the bytes from before (R287). -/
def Team.landing (t : Team) (g : Nat) (f : Team → Team) : Team := { f t with xbufWas := some (g, t.xbufSeen g) }

/-! ### Landings -/

/-- An integer of an exact value. -/
def valInt : Val → Int
  | .fin n m e => units n m e 0
  | _ => 0
/-- Accumulate a row and a column of depth 32·n into an element: the new bits, and overflow (R122, R123). -/
def accumulate (kind : TKind) (fa fb : Fmt) (a b n : Nat) (x : Nat) : Nat × Bool :=
  (List.range n).foldl (fun (r : Nat × Bool) k =>
    let ps := products fa fb a b k
    match kind with
    | .s32 =>
      let v := signedOf 32 r.1 + (ps.map valInt).foldl (· + ·) 0
      ((BitVec.ofInt 32 v).toNat, r.2 || decide (v < -2 ^ 31 ∨ 2 ^ 31 ≤ v))
    | .f64 => (fp64.accumulate r.1 ps, r.2)
    | _ => (fp32.accumulate r.1 ps, r.2)) (x, false)

/-- Rows 0-7 paired with columns 0..n-1. -/
def cells (n : Nat) : List (Nat × Nat) := (List.range 8).flatMap fun i => (List.range n).map fun j => (i, j)

/-- One quarter-pass of an xmm lands (R302). `rows`: the eight A rows as they were read. -/
def landXmm (pl : Plane) (fmt : Fmt) (acc : Bool) (q : Quarter) (rows : List (List Byte)) (t : Team) : Team :=
  let row (i : Nat) : Nat := wordOfBytes (rows[i]?.getD [])
  let col (j : Nat) : Nat := wordOfBytes (pl.cols[j]?.getD [])
  t.landTile q.tile fun x m =>
    let (m, o) := (cells pl.nl).foldl (fun (r : Memory × Bool) ij =>
      let a := x.elem 0 (q.r0 + ij.1) (q.c0 + ij.2)
      let n := elemBytes x.kind
      let v := accumulate x.kind fmt pl.fmt (row ij.1) (col ij.2) (pl.kl / 32) (if acc then Memory.read r.1 a n else 0)
      (Memory.write r.1 a n v.1, r.2 || v.2)) (m, false)
    ({ x with state := 2, passes := x.passes + 1, ovf := x.ovf || o }, m)

/-- A product of plain numbers: block elements have no -0, and neither has a product of them that is zero (R108, R122, R124, log 112). -/
def Val.plain : Val → Val
  | .fin n m e => .fin (n && m != 0) m e
  | v => v
/-- One quarter-pass of an xbmm lands (R303). -/
def landXbmm (pl : Plane) (fmt : Fmt) (q : Quarter) (rows : List (List Byte)) (t : Team) : Team :=
  let row (i : Nat) : Nat := wordOfBytes (rows[i]?.getD [])
  let col (j : Nat) : Nat := wordOfBytes (pl.cols[j]?.getD [])
  t.landTile q.tile fun x m =>
    let m := (List.range (pl.kl / 32)).foldl (fun m k =>
      let p := q.p0 + k
      (cells pl.nl).foldl (fun m ij =>
        let a := row ij.1
        let b := col ij.2
        let kA := scaleByte fmt a k
        let kB := scaleByte pl.fmt b k
        let v := if kA = 0x80 ∨ kB = 0x80 then 0x7FC00000 else fp32.round .rne (chunkSum ((products fmt pl.fmt a b k).map Val.plain))
        let m := Memory.write m (x.elem p (q.r0 + ij.1) (q.c0 + ij.2)) 4 v
        let m := Memory.put m (x.scaleA p (q.r0 + ij.1)) kA
        Memory.put m (x.scaleB p (q.c0 + ij.2)) kB) m) m
    ({ x with state := 2, passes := x.passes + 1 }, m)

/-- xscac lands (R304); `y`: the source as it stood by issue. -/
def landXscac (y : Tile) (dst p0 n : Nat) (acc : Bool) (t : Team) : Team :=
    t.landTile dst fun x m =>
      let m := (List.range n).foldl (fun m k =>
        let p := p0 + k
        ((List.range x.rows).flatMap fun i => (List.range x.cols).map fun j => (i, j)).foldl (fun m ij =>
          let d := x.elem 0 ij.1 ij.2
          let old : W32 := if !acc && k == 0 then 0 else Memory.read32 m d
          let v := scaleAdd old (Memory.read32 m (y.elem p ij.1 ij.2)) (Memory.get m (y.scaleA p ij.1)) (Memory.get m (y.scaleB p ij.2))
          Memory.write m d 4 v.toNat) m) m
      ({ x with state := 2, passes := x.passes + n }, m)

/-- xcfg lands: bytes the tile no longer covers read zero, its data is zero, its status is reset (R286-R288). -/
def landXcfg (x : Tile) (t : Team) : Team :=
  let m := match t.tilesIn.find? fun (y : Tile) => y.id == x.id with
    | some y => zeroTile y t.xbuf
    | none => t.xbuf
  let t := { t with xbuf := zeroTile x m, tilesIn := (t.tilesIn.filter fun (y : Tile) => y.id != x.id) ++ [x] }
  t.landTile x.id fun x m => ({ x with state := 1, passes := 0, ovf := false }, m)

/-- xrel lands: every byte of the tiles reads zero (R288, R305). -/
def landXrel (mask : Nat) (t : Team) : Team :=
  let gone := t.tilesIn.filter fun (y : Tile) => mask / 2 ^ y.id % 2 == 1
  { t with
    xbuf := gone.foldl (fun m y => zeroTile y m) t.xbuf
    tilesIn := t.tilesIn.filter fun (y : Tile) => mask / 2 ^ y.id % 2 != 1 }

/-- A tile a drain names whose checksums differ from its bytes (R295). -/
def drainBad (mask : Nat) (t : Team) : Bool :=
  t.tilesIn.any fun (y : Tile) => mask / 2 ^ y.id % 2 == 1 && y.sums != tileSums y t.xbuf
/-- xdrn lands: the tiles whose checksums hold move to Closed (R295, R305). -/
def landXdrn (mask : Nat) (t : Team) : Team :=
  (List.range 16).foldl (fun (t : Team) id =>
    if mask / 2 ^ id % 2 = 1 ∧ !(drainBad (2 ^ id) t) then t.landTile id fun x m => ({ x with state := 3 }, m) else t) t

/-- The plane an xlds loads when all its bytes are read at once: column j from WOFF + j·WPITCH (R299). -/
def loadPlane (ver : Nat) (fmt : Fmt) (woff pitch kl nl : Nat) (t : Team) : Plane :=
  { ver := ver, fmt := fmt, kl := kl, nl := nl, cols := (List.range nl).map fun j => Memory.bytes t.wbuf (woff + j * pitch) (rowBytes fmt kl) }
/-- The A rows of a quarter-pass (R301). -/
def quarterRow (fmt : Fmt) (kl : Nat) (q : Quarter) (i : Nat) (t : Team) : List Byte :=
  Memory.bytes t.abuf (q.aoff + i * q.apitch) (rowBytes fmt kl)

end Sys2Proof.Machine
end

