-- ==== Sys2Proof/Machine/Matrix.lean ====
section
/-!
DEFINITION. The matrix words and the engine that runs them: plane pairs (R281, R282), tile states at issue (R288), queue 6
(R289-R292), injection and fusion (R291), comparison, retry and fence (R293, R294).
-/

namespace Sys2Proof.Machine

open Sys2Proof

/-! ### Plane pairs -/

/-- The pair belongs to a record. -/
def PlanePair.named (p : PlanePair) (seat vf core pair : Nat) : Bool := p.seat == seat && p.vf == vf && p.core == core && p.pair == pair
/-- A pair of a function of a seat on a core; empty planes where nothing is recorded. -/
def State.pair (s : State) (seat vf core n : Nat) : PlanePair :=
  (s.pairs.find? fun p => p.named seat vf core n).getD { seat := seat, vf := vf, core := core, pair := n }
/-- Replace a pair. -/
def State.setPair (s : State) (p : PlanePair) : State :=
  { s with pairs := (s.pairs.filter fun q => !(q.named p.seat p.vf p.core p.pair)) ++ [p] }
/-- The pair is bound to the seat on the core (R281). -/
def Seat.bound (x : Seat) (core n : Nat) : Bool :=
  match x.core? core with
  | some r => r.grant || r.pairs / 2 ^ n % 2 == 1
  | none => false

/-! ### The queues (R147, R263, R289) -/

/-- The queue an operation stands in. -/
def opQueue (o : Op) : Option Nat :=
  match o.kind with
  | .copy c => some c.queue
  | .matrix _ => some 6
  | _ => none
/-- The operations of a queue of a group that have not completed, oldest first. -/
def State.queueOf (s : State) (team gid q : Nat) : List Op :=
  s.ops.filter fun o => o.team == team && o.gid == gid && opQueue o == some q && !o.buffered
/-- What earlier marks of qfence make a new command of queue `q` wait for (R147). -/
def Group.afterMarks (g : Group) (q : Nat) : List (Nat × Nat) :=
  (g.marks.filter fun m => m.1.contains q).flatMap fun m => m.1.map fun p => (p, m.2)
/-- Every command a mark names has completed. -/
def State.marksMet (s : State) (o : Op) : Bool :=
  o.after.all fun m => !(s.ops.any fun p => p.team == o.team && p.gid == o.gid && opQueue p == some m.1 && decide (p.id < m.2))
/-- Commands of a group are looked at in the next cycle: the heads of its copy queues, and queue 6. -/
def State.wakeQueues (s : State) (o : Op) : State :=
  let s := (s.ops.filter fun p => p.team == o.team && p.gid == o.gid && !p.started && !p.buffered && match p.kind with
    | .copy _ => true
    | _ => false).foldl (fun s p => s.once (s.g + 1) (.copyCommandStart p.id)) s
  s.once (s.g + 1) (.rowInject o.core o.seat)

/-! ### Beginning (R289, R290, R292) -/

/-- The function of an operation's team is seated: the queued matrix operations of an absent one stay queued (R379). -/
def State.present (s : State) (o : Op) : Bool :=
  match s.findSeat o.seat, s.getTeam o.team with
  | some x, some t => x.vf == t.vf && !x.switching
  | _, _ => true
/-- The matrix operations of a seat on a core, in issue order. -/
def State.mxOps (s : State) (seat core : Nat) : List (Op × Mx) :=
  s.ops.filterMap fun o => match o.kind with
    | .matrix m => if o.seat = seat ∧ o.core = core ∧ !o.buffered ∧ (o.begun ∨ s.present o) then some (o, m) else none
    | _ => none
/-- A serial operation (R289). -/
def Mx.serial : Mx → Bool
  | .xcfg _ _ _ _ _ _ => true
  | .xscac _ _ _ _ _ => true
  | .xdrn _ => true
  | .xrel _ => true
  | _ => false
/-- The teams of two operations belong to one function. -/
def State.sameFn (s : State) (o p : Op) : Bool := (s.getTeam p.team).map (·.vf) == (s.getTeam o.team).map (·.vf)
/-- Rows of a pass. -/
def Pass.total (p : Pass) : Nat := 8 * p.quarters.length
/-- Every quarter-pass of a pass operation has injected its last row. -/
def State.injected (s : State) (o : Op) (qs : List Quarter) : Bool :=
  o.taken == qs.length && !(s.passes.any fun p => (p.quarters.any fun q => q.1 == o.id) && decide (p.rows.length < p.total))
/-- An xlds may begin: earlier passes of the plane have injected, earlier loads of the pair are complete (R290). -/
def State.planeFree (s : State) (o : Op) (pair : Nat) (phys : Bool) : Bool :=
  !((s.mxOps o.seat o.core).any fun p => decide (p.1.id < o.id) && s.sameFn o p.1 && match p.2 with
    | .xlds n _ _ _ _ _ _ _ => n == pair
    | .pass _ n _ ph _ _ _ _ qs => n == pair && ph == phys && !(s.injected p.1 qs)
    | _ => false)
/-- An earlier xlds of the pair is in flight. -/
def State.loading (s : State) (o : Op) (pair : Nat) : Bool :=
  (s.mxOps o.seat o.core).any fun p => decide (p.1.id < o.id) && s.sameFn o p.1 && match p.2 with
    | .xlds n _ _ _ _ _ _ _ => n == pair
    | _ => false
/-- The operation may begin in this cycle. -/
def State.mayBegin (s : State) (o : Op) (m : Mx) : Bool :=
  let before := (s.queueOf o.team o.gid 6).filter fun p => decide (p.id < o.id)
  let next := match s.getTeam o.team with
    | some t => if s.cur.live && s.cur.team.id == o.team && s.cur.group.gid == o.gid then s.cur.group.q6next
        else (t.findGroup o.gid).elim 0 (·.q6next)
    | none => 0
  s.marksMet o && (if m.serial then before.isEmpty && decide (next ≤ s.g)
    else before.all fun p => p.begun && match p.kind with
      | .matrix q => !q.serial
      | _ => true)
    && match m with
      | .xlds n ph _ _ _ _ _ _ => s.planeFree o n ph
      | _ => true

/-- Set the completion of a begun swap when no load of its pair is before it (R290). -/
def State.startSwap (s : State) (o : Op) (pair : Nat) : State :=
  if o.begun && !o.started && !(s.loading o pair) then
    (s.mapOp o.id fun o => { o with started := true }).at (s.g + 1) (.xswpComplete o.id)
  else s

/-- An operation begins (R289-R292). -/
def State.beginMx (s : State) (o : Op) (m : Mx) : State :=
  let s := s.mapOp o.id fun o => { o with begun := true, from_ := s.g }
  match m with
  | .xlds pair _ fmt _ _ kl nl _ =>
    let vf := ((s.getTeam o.team).map (·.vf)).getD 0
    let p := s.pair o.seat vf o.core pair
    let s := s.setPair { p with planes := p.planes ++ [{ ver := o.id, fmt := fmt, kl := kl, nl := nl, cols := (List.range nl).map fun _ => [] }] }
    (s.mapOp o.id fun o => { o with taken := m.units.length }).now (.bufferPortCycle o.id 0)
  | .xswp p => s.startSwap { o with begun := true } p
  | .pass block pair gen _ ver fmt _ inj qs =>
    if qs.isEmpty then
      let (id, s) := s.fresh
      let p : Pass := { id := id, core := o.core, seat := o.seat, key := { pair := pair, gen := gen, fmt := fmt, block := block }, ver := ver, inj := inj, quarters := [], only := some o.id }
      { s with passes := s.passes ++ [p] }.at (s.g + 1) (.passComplete o.core id 0)
    else s.once (max s.g (o.issued + 4)) (.rowInject o.core o.seat)
  | .xcfg _ _ _ _ _ _ => s.at (s.g + 8) (.xcfgComplete o.id)
  | .xrel _ => s.at (s.g + 8) (.xrelComplete o.id)
  | .xdrn _ => s.at (s.g + 8 + (o.geo.foldl (fun n y => n + y.dataBytes) 0 + 255) / 256) (.xdrnComplete o.id)
  | .xscac _ _ _ n _ =>
    let rn := (o.geo.head?).elim 0 fun y => y.rows * y.cols
    s.at (s.g + 24 + n * ((rn + 63) / 64)) (.xscacComplete o.id)

/-- Begin what may begin on a core for a seat, in issue order. -/
def State.mxPoke (s : State) (seat core : Nat) : State :=
  (s.mxOps seat core).foldl (fun s q =>
    match s.findOp q.1.id with
    | none => s
    | some o =>
      if o.begun then (match q.2 with
        | .xswp p => s.startSwap o p
        | _ => s)
      else if s.mayBegin o q.2 then s.beginMx o q.2 else s) s

/-- Copy pieces of a team that the operands-consumed rule holds are looked at again (R272). -/
def State.freeHeld (s : State) (team : Nat) : State :=
  (s.ops.filter fun p => p.team == team && match p.kind with
    | .copy c => c.heldBy
    | _ => false).foldl (fun (s : State) (p : Op) => s.once s.g (.heldPieceRelease p.id)) s
/-- A matrix operation completes: TILES falls, later operations begin, pieces it held go on (R272, R289). -/
def State.finishMx (s : State) (id : Nat) : State :=
  match s.findOp id with
  | none => s
  | some o =>
    let s := (s.finishOp id).anyGroup o.team o.gid fun g => { g with q6next := s.g + 1 }
    (((s.freeHeld o.team).mxPoke o.seat o.core).wakeQueues o).once s.g (.rowInject o.core o.seat)

/-! ### Injection (R291) -/

/-- The core is granted wholly to the seat. -/
def State.granted (s : State) (seat core : Nat) : Bool :=
  match (s.findSeat seat).bind fun x => x.core? core with
  | some r => r.grant
  | none => false
/-- A swap of the pair that the operation's function issued before it has not completed (R290). -/
def State.swapBefore (s : State) (o : Op) (pair : Nat) : Bool :=
  s.ops.any fun p => p.seat == o.seat && p.core == o.core && decide (p.id < o.id) && !p.buffered && s.sameFn o p && match p.kind with
    | .matrix (.xswp n) => n == pair
    | _ => false
/-- Rows of a seat waited on the core at a cycle, the first of a matrix position (R16): quarter-passes at the injector then and not
injected since, or a row injected since. -/
def State.mxWaited (s : State) (seat core c : Nat) : Bool :=
  (s.lastRow.any fun r => r.1 == (core, seat) && decide (c ≤ r.2.1))
    || (s.passes.any fun p => p.seat == seat && p.core == core && decide (p.rows.length < p.total) && (p.rows != [] || decide (p.notBefore ≤ c)))
    || (s.mxOps seat core).any fun q => match q.2 with
      | .pass _ pair _ _ _ _ _ _ qs => q.1.begun && decide (q.1.from_ ≤ c) && decide (q.1.issued + 4 ≤ c) && decide (q.1.taken < qs.length) && !(s.swapBefore q.1 pair)
      | _ => false
/-- A cycle in which a row of the seat may inject: any on a granted core; else one of a matrix position the seat may use whose core
rota entry names it. The fill seat takes a position at whose first cycle its owner has no row, and a port cycle in which the owner has
nothing waiting; of a later cycle that is not known yet, so that it looks again in each (R16, R18, R87, R291). -/
def State.mxSlot (s : State) (seat core c : Nat) : Bool :=
  let own := s.rotaOwner (c / 8) (c / Config.frame)
  let row := s.coreSeatAt core c
  s.granted seat core || (if seat = 15 then
      c != s.g || (own == some 15 || own.all fun n => !(s.mxWaited n core (min s.g (c / 8 * 8)))) && (row == some 15 || s.portServes core 15 .abuf)
    else own == some seat && row == some seat)
/-- The first such cycle from `c`. -/
def State.nextSlot (s : State) (seat core c : Nat) : Nat :=
  c + ((List.range 2048).find? fun k => s.mxSlot seat core (c + k)).getD 2048
/-- The cadence of a seat (R291). -/
def State.cadence (s : State) (seat : Nat) : Nat :=
  match s.findSeat seat with
  | some x => x.pl.cad + 1
  | none => 1

/-- Quarter-passes not yet taken into a pass, in issue order: operation, key, version, injection, quarter. -/
def State.quarterPasses (s : State) (seat core : Nat) : List (Op × RowKey × Nat × Bool × Quarter) :=
  (s.mxOps seat core).flatMap fun q => match q.2 with
    | .pass block pair gen _ ver fmt _ inj qs =>
      (qs.drop q.1.taken).map fun k => (q.1, { pair := pair, gen := gen, fmt := fmt, block := block }, ver, inj, k)
    | _ => []
/-- A quarter-pass waits at the injector: from the fourth cycle after its issue, begun, its pair's earlier swaps complete
(R290). -/
def State.waitsInject (s : State) (o : Op) (pair : Nat) : Bool :=
  o.begun && decide (o.issued + 4 ≤ s.g) && !(s.swapBefore o pair)
/-- Quarter-passes that join the first in one pass: up to four, until one does not match or does not wait (R291). -/
def joinPass (key : RowKey) (waits : Op → Bool) : Nat → List (Op × RowKey × Nat × Bool × Quarter) → List (Op × RowKey × Nat × Bool × Quarter)
  | 0, _ => []
  | _, [] => []
  | n + 1, q :: qs => if q.2.1 = key ∧ waits q.1 then q :: joinPass key waits n qs else []
/-- Drop quarter-passes until one waits; the groups of those dropped, whose later ones wait behind them, since a queue's results land
in its order (R289). -/
def dropUntil (waits : Op → Bool) (behind : List (Nat × Nat)) :
    List (Op × RowKey × Nat × Bool × Quarter) → List (Nat × Nat) × List (Op × RowKey × Nat × Bool × Quarter)
  | [] => (behind, [])
  | q :: qs =>
    if waits q.1 && !(behind.contains (q.1.team, q.1.gid)) then (behind, q :: qs) else dropUntil waits ((q.1.team, q.1.gid) :: behind) qs

/-- The pass whose row is next: one under way, a rerun, or a new one of waiting quarter-passes. -/
def State.nextPass (s : State) (seat core : Nat) : Option (Pass × State) :=
  let ps := s.passes.filter fun p => p.seat == seat && p.core == core && p.only.isNone && decide (p.rows.length < p.total)
  match (ps.find? fun p => p.rows != []), ps with
  | some p, _ => some (p, s)
  | none, p :: _ => some (p, s)
  | none, [] =>
    let waits (o : Op) : Bool := match o.kind with
      | .matrix (.pass _ pair _ _ _ _ _ _ _) => s.waitsInject o pair
      | _ => false
    match dropUntil waits [] (s.quarterPasses seat core) with
    | (_, []) => none
    | (behind, q :: qs) =>
      let all := q :: joinPass q.2.1 (fun o => waits o && !(behind.contains (o.team, o.gid))) 3 qs
      let (id, s) := s.fresh
      let p : Pass := { id := id, core := core, seat := seat, key := q.2.1, ver := q.2.2.1, inj := all.any fun k => k.2.2.2.1, quarters := all.map fun k => (k.1.id, k.2.2.2.2) }
      some (p, s)

/-- The plane of a version. -/
def State.planeOf (s : State) (p : Pass) : Option Plane :=
  (s.pairs.find? fun r => r.seat == p.seat && r.core == p.core && r.pair == p.key.pair && r.planes.any fun x => x.ver == p.ver).bind
    fun r => r.planes.find? fun x => x.ver == p.ver

/-- Inject a row of a seat on a core when R291 lets one inject now, after the stores of its group that precede it (R144); else set the cycle in which it may be tried again. -/
def State.inject (s : State) (core seat : Nat) : State :=
  let s := s.mxPoke seat core
  if s.fencedMx.contains core then s
  else match s.nextPass seat core with
    | none => s
    | some (p, s1) =>
      let c := s.cadence seat
      let last := (s.lastRow.find? fun r => r.1 == (core, seat)).map (·.2)
      let first := p.rows == []
      let due := match last with
        | some (g, k) => if first && k != p.key then max (g + c) (g + 8) else g + c
        | none => 0
      let at_ := s.nextSlot seat core (max (max s.g due) (if first then p.notBefore else 0))
      if s.g < at_ then s.once at_ (.rowInject core seat)
      else
        let k := p.rows.length
        match p.quarters[k / 8]? with
        | none => s
        | some (oid, q) =>
          match s1.findOp oid, s1.planeOf p with
          | some o, some pl =>
            let bytes := [(q.aoff + k % 8 * q.apitch, rowBytes p.key.fmt pl.kl)]
            if s.portTaken core seat .abuf s.g || s.heldOver o.team o.gid o.id .abuf bytes then s.once (s.g + 1) (.rowInject core seat)
            else
            let s1 := s1.settleLocal o.team o.gid o.id .abuf bytes
            let row := match s1.getTeam o.team with
              | some t => quarterRow p.key.fmt pl.kl q (k % 8) t
              | none => []
            let p' := { p with rows := p.rows ++ [row], firstRow := if first then s.g else p.firstRow, lastRow := s.g }
            let s2 := { s1 with
              passes := if s1.passes.any fun r => r.id == p.id then s1.passes.map fun r => if r.id = p.id then p' else r else s1.passes ++ [p']
              lastRow := (s1.lastRow.filter fun r => r.1 != (core, seat)) ++ [((core, seat), (s.g, p.key))] }
            let s2 := if first && p.retry.isNone then
                p.quarters.foldl (fun (s : State) (q : Nat × Quarter) => s.mapOp q.1 fun o => { o with taken := o.taken + 1 }) s2
              else s2
            let s2 := s2.takePort core seat .abuf s.g
            let s2 := if p'.rows.length = p'.total then (s2.at (s.g + c + 136) (.passComplete core p.id 0)).mxPoke seat core else s2
            s2.once (s.g + c) (.rowInject core seat)
          | _, _ => s

/-! ### Completion (R293, R294) -/

/-- The landed tile of an id has the place and shape that the operation's word was checked against. Where an xcfg that another group issued
stands between, results for the one shape do not land on the other; that xcfg discards them, or discarded their tile (R288, log 129). -/
def Team.stands (t : Team) (geo : List Tile) (id : Nat) : Bool :=
  (t.tilesIn.find? fun x => x.id == id).any fun x => geo.any fun y => y.id == id && y.same x
/-- The quarter-passes of a pass land, in order (R302, R303). -/
def State.landPass (s : State) (p : Pass) : State :=
  match s.planeOf p with
  | none => s
  | some pl =>
    p.quarters.zipIdx.foldl (fun s qk =>
      let (oid, q) := qk.1
      match s.findOp oid with
      | none => s
      | some o =>
        match o.kind with
        | .matrix (.pass block _ _ _ _ fmt acc _ qs) =>
          let rows := (p.rows.drop (8 * qk.2)).take 8
          let s := s.anyTeam o.team fun t => t.landing s.g fun t =>
            if !(t.stands o.geo q.tile) then t else if block then landXbmm pl fmt q rows t else landXmm pl fmt acc q rows t
          let s := s.mapOp oid fun o => { o with landed := o.landed + 1 }
          if o.landed + 1 = qs.length then s.finishMx oid else s.freeHeld o.team
        | _ => s) s

/-- A removed xlds or xswp leaves the pair's descriptors as though it had not issued (R282, R294). -/
def State.undoPlane (s : State) (o : Op) : State :=
  match o.kind, s.getTeam o.team with
  | .matrix (.xlds n _ _ _ _ _ _ old), some t => s.setPair { s.pair o.seat t.vf o.core n with shadow := old }
  | .matrix (.xswp n), some t =>
    let p := s.pair o.seat t.vf o.core n
    s.setPair { p with active := p.shadow, shadow := p.active, gen := p.gen + 1, phys := !p.phys }
  | _, _ => s
/-- A lasting fault fences the engine (R294): what is removed has no effect, on descriptors and tile states by issue either. What a
portable group has buffered is removed with the rest. -/
def State.fenceMx (s : State) (core : Nat) : State :=
  let dead := s.ops.filter fun o => o.core == core && match o.kind with
    | .matrix _ => true
    | _ => false
  let firsts := dead.foldl (fun (l : List Op) o => if l.any fun p => p.team == o.team && p.gid == o.gid then l else l ++ [o]) []
  let s := dead.reverse.foldl (fun s o => s.undoPlane o) s
  let s := { s with
    fencedMx := insertNat core s.fencedMx, passes := s.passes.filter fun p => p.core != core
    teams := s.teams.map fun (t : Team) => if t.core = core then { t with tiles := t.tilesIn } else t }
  let s := if s.cur.live && s.cur.team.core == core then s.onTeam fun t => { t with tiles := t.tilesIn } else s
  let s := dead.foldl (fun s o => (s.finishOp o.id).anyGroup o.team o.gid fun g => { g with effects := g.effects.filter fun k => k != o.id }) s
  let s := firsts.foldl (fun s o => s.defer o .matrixLasting) s
  dead.foldl (fun s o => (s.freeHeld o.team).wakeQueues o) s

/-- A pass completes: it lands, or its comparison differs and it is retried, or a rerun differs and the engine is fenced. -/
def State.completePass (s : State) (core id : Nat) (mismatch : Bool) : State :=
  match s.passes.find? fun p => p.id == id && p.core == core with
  | none => s
  | some p =>
    let gone (s : State) : State := { s with passes := s.passes.filter fun r => r.id != id }
    match p.only with
    | some o => (gone s).finishMx o
    | none =>
      if p.rows.length ≠ p.total ∨ s.g ≠ p.lastRow + s.cadence p.seat + 136 then s
      else
        let differs := mismatch || (p.inj && p.retry.isNone)
        match differs, p.retry with
        | false, none => (gone (s.landPass p)).once s.g (.rowInject core p.seat)
        | false, some t0 =>
          let s := s.logEvent p.seat 5 core (s.oclk p.seat - (s.g - t0)) 0 (s.g - t0) false p.inj
          (gone (s.landPass p)).once s.g (.rowInject core p.seat)
        | true, some _ => (s.logEvent p.seat 33 core (s.oclk p.seat) (BitVec.ofNat 64 core)).fenceMx core
        | true, none =>
          let back := s.passes.filter fun r => r.seat == p.seat && r.core == core && r.only.isNone && r.rows != [] && decide (p.firstRow < r.firstRow)
          let s := back.foldl (fun (s : State) (r : Pass) => r.quarters.foldl (fun (s : State) (q : Nat × Quarter) =>
            s.mapOp q.1 fun o => { o with taken := o.taken - 1 }) s) s
          let s := { s with passes := (s.passes.filter fun (r : Pass) => !(back.any fun q => q.id == r.id)).map fun (r : Pass) =>
            if r.id = id then { r with rows := [], retry := some s.g, notBefore := s.g + 8 } else r }
          s.once (s.g + 8) (.rowInject core p.seat)

/-- xlds completes: the plane is loaded, each unit in its port cycle; versions nothing names any more are dropped (R290, R299). -/
def State.endXlds (s : State) (id : Nat) : State :=
  match s.findOp id with
  | none => s
  | some o =>
    match o.kind, s.getTeam o.team with
    | .matrix (.xlds pair _ _ _ _ _ _ _), some t =>
      let p := s.pair o.seat t.vf o.core pair
      let used (v : Nat) : Bool := (p.active.any fun d => d.ver == v) || (p.shadow.any fun d => d.ver == v)
        || s.ops.any fun q => q.id != id && match q.kind with
          | .matrix (.pass _ _ _ _ ver _ _ _ _) => ver == v
          | .matrix (.xlds _ _ _ _ _ _ _ old) => old.any fun d => d.ver == v
          | _ => false
      (s.setPair { p with planes := p.planes.filter fun x => x.ver == id || used x.ver }).finishMx id
    | _, _ => s

/-- The rows of the table for the engine's events. -/
def execRowInject (s : State) : Out :=
  runEvent s fun
    | .rowInject core seat => some (s.inject core seat)
    | _ => none
/-- PASS_COMPLETE (R293). -/
def execPassComplete (s : State) : Out :=
  runEvent s fun
    | .passComplete core id mismatch => some (s.completePass core id (mismatch != 0))
    | _ => none
/-- XLDS_COMPLETE (R290). -/
def execXldsComplete (s : State) : Out :=
  runEvent s fun
    | .xldsComplete id => some (s.endXlds id)
    | _ => none
/-- XSWP_COMPLETE (R290). -/
def execXswpComplete (s : State) : Out :=
  runEvent s fun
    | .xswpComplete id => some (s.finishMx id)
    | _ => none
/-- What a serial operation lands; `geo`: the tiles it names as they stood by issue. -/
def Mx.land (m : Mx) (geo : List Tile) (t : Team) : Team :=
  match m with
  | .xcfg id kind off rows cols planes => landXcfg { id := id, kind := kind, off := off, rows := rows, cols := cols, planes := planes } t
  | .xrel mask => landXrel mask t
  | .xdrn mask => landXdrn mask t
  | .xscac src dst p0 n acc => match geo.find? fun y => y.id == src with
    | some y => if t.stands geo dst then landXscac y dst p0 n acc t else t
    | none => t
  | _ => t
/-- A serial operation completes; a drain whose checksums differ raises MatrixLasting (R292, R295). -/
def State.endSerial (s : State) (id : Nat) : State :=
  match s.findOp id with
  | none => s
  | some o =>
    match o.kind, s.getTeam o.team with
    | .matrix m, some t =>
      let s := match m with
        | .xdrn mask => if drainBad mask t then s.defer o .matrixLasting else s
        | _ => s
      (s.anyTeam o.team fun t => t.landing s.g (m.land o.geo)).finishMx id
    | _, _ => s
/-- XCFG_COMPLETE (R292). -/
def execXcfgComplete (s : State) : Out :=
  runEvent s fun
    | .xcfgComplete id => some (s.endSerial id)
    | _ => none
/-- XREL_COMPLETE (R292). -/
def execXrelComplete (s : State) : Out :=
  runEvent s fun
    | .xrelComplete id => some (s.endSerial id)
    | _ => none
/-- XDRN_COMPLETE (R295). -/
def execXdrnComplete (s : State) : Out :=
  runEvent s fun
    | .xdrnComplete id => some (s.endSerial id)
    | _ => none
/-- XSCAC_COMPLETE (R304). -/
def execXscacComplete (s : State) : Out :=
  runEvent s fun
    | .xscacComplete id => some (s.endSerial id)
    | _ => none

/-! ### The words (R296-R305) -/

/-- Parameter word k of a group word: lane k of vp (R297). -/
def par (s : State) (p : VReg) (k : Nat) : Nat := (s.rV p k).toNat
/-- Quarters that take part: those with an active lane (R297). -/
def quartersIn (s : State) : List Nat := (List.range 4).filter fun q => (List.range 8).any fun j => s.isActive (8 * q + j)
/-- A tile of the team by issue. -/
def Team.tile (t : Team) (id : Nat) : Option Tile := t.tiles.find? fun y => y.id == id
/-- Change a tile's state by issue (R288). -/
def Team.tileState (t : Team) (id st : Nat) : Team := { t with tiles := t.tiles.map fun y => if y.id = id then { y with state := st } else y }

/-- The tiles a matrix operation names, as they stand by issue. -/
def Mx.names (m : Mx) (t : Team) : List Tile :=
  match m with
  | .pass _ _ _ _ _ _ _ _ qs => qs.filterMap fun q => t.tile q.tile
  | .xscac src dst _ _ _ => [src, dst].filterMap t.tile
  | .xdrn mask => t.tiles.filter fun y => mask / 2 ^ y.id % 2 == 1
  | _ => []
/-- Place a matrix operation of the word at hand in queue 6 (R289); in portable mode it is buffered (R397). -/
def State.queueMx (s : State) (m : Mx) : State :=
  let t := s.cur.team
  let id := s.nextOp
  let s := s.launchOp { blankOp (.matrix m) with count := .tiles, active := s.activeMask, geo := m.names t, after := s.cur.group.afterMarks 6, buffered := t.portable }
  if t.portable then s.onGroup fun g => { g with effects := g.effects ++ [id] } else s.mxPoke t.seat t.core

/-- The frame of a matrix word: the engine's fence, the pair's binding, then the word's own checks (R281, R294). -/
def matrixWord (i : Instr) (pair : Option Nat) (inj : Bool) (f : State → List TrapReq × State) (s : State) : Out :=
  runWord i s fun s =>
    let x := s.seat
    let c := s.cur.team.core
    let (own, t) := f s
    match check ((if s.fencedMx.contains c then [trapOf .matrixLasting] else [])
        ++ (match pair with
          | some n => if x.bound c n then [] else [trapOf .accessFault]
          | none => [])
        ++ (if inj && !x.pl.inj then [trapOf .accessFault] else []) ++ own) with
    | .error e => .error e
    | .ok _ => .ok t

/-- A trap when a condition fails. -/
def need (ok : Bool) (k : TrapKind) : List TrapReq := if ok then [] else [trapOf k]

/-- xcfg (R298, R288). -/
def execXcfg (p : VReg) (k : TKind) (discard : Bool) (s : State) : Out :=
  matrixWord (.xcfg p k discard) none false (fun s =>
    let t := s.cur.team
    let y : Tile := { id := par s p 0, kind := k, off := par s p 1, rows := par s p 2, cols := par s p 3, planes := par s p 4 }
    let shape := decide (y.id < 16 ∧ 8 ≤ y.rows ∧ y.rows ≤ 128 ∧ y.rows % 8 = 0 ∧ 1 ≤ y.cols ∧ y.cols ≤ 128)
      && (if k = .part then decide (1 ≤ y.planes ∧ y.planes ≤ 8) else y.planes == 0)
    let apart := !(t.tiles.any fun z => z.id != y.id && z.meets y.off y.bytes)
    let live := match t.tile y.id with
      | some z => !discard && decide (2 ≤ z.state)
      | none => false
    (need (shape && apart) .tileFormat ++ need (!live) .tileLive ++ need (y.off % 256 == 0) .misaligned
      ++ need (inShare t .xbuf y.off y.bytes) .accessFault,
     (s.onTeam fun t => { t with tiles := (t.tiles.filter fun z => z.id != y.id) ++ [y] }).queueMx
       (.xcfg y.id k y.off y.rows y.cols y.planes))) s

/-- xlds (R299). -/
def execXlds (p : VReg) (r : Fin 4) (f : Fmt) (s : State) : Out :=
  matrixWord (.xlds p r f) (some r) false (fun s =>
    let t := s.cur.team
    let woff := par s p 0
    let pitch := par s p 1
    let kl := par s p 2
    let nl := par s p 3
    let pr := s.pair t.seat t.vf t.core r
    let ver := s.nextOp
    (need (decide (32 ≤ kl ∧ kl ≤ 256 ∧ kl % 32 = 0 ∧ 1 ≤ nl ∧ nl ≤ 128)) .tileFormat
      ++ need (woff % fmtAlign f == 0 && pitch % fmtAlign f == 0) .misaligned
      ++ need ((List.range (min nl 128)).all fun j => inShare t .wbuf ((woff + j * pitch : Nat) : Int) (rowBytes f kl)) .accessFault,
     (s.setPair { pr with shadow := some { fmt := f, kl := kl, nl := nl, ver := ver } }).queueMx
       (.xlds r (!pr.phys) f woff pitch kl nl pr.shadow))) s

/-- xswp (R300). -/
def execXswp (r : Fin 4) (s : State) : Out :=
  matrixWord (.xswp r) (some r) false (fun s =>
    let t := s.cur.team
    let pr := s.pair t.seat t.vf t.core r
    ([], (s.setPair { pr with active := pr.shadow, shadow := pr.active, gen := pr.gen + 1, phys := !pr.phys }).queueMx (.xswp r))) s

/-- The quarter-pass of quarter q (R301). -/
def quarterOf (s : State) (p : VReg) (q : Nat) : Quarter :=
  let w := par s p (8 * q + 2)
  { q := q, aoff := par s p (8 * q), apitch := par s p (8 * q + 1), tile := fld w 3 0, r0 := fld w 15 8, c0 := fld w 23 16, p0 := fld w 31 24 }
/-- The checks of one quarter-pass against the active plane (R283, R284, R288, R301). -/
def quarterTraps (s : State) (p : VReg) (block : Bool) (f : Fmt) (d : PlaneDesc) (q : Nat) : List TrapReq :=
  let t := s.cur.team
  let k := quarterOf s p q
  let kind := pairKind f d.fmt
  let fits := match t.tile k.tile with
    | none => false
    | some y => some y.kind == kind && decide (k.r0 % 8 = 0 ∧ k.r0 + 8 ≤ y.rows ∧ k.c0 + d.nl ≤ y.cols)
        && (if block then decide (k.p0 + d.kl / 32 ≤ y.planes) else k.p0 == 0)
  need (fld (par s p (8 * q + 2)) 7 4 == 0 && kind.isSome && (fmtClass f == 2) == block && fits) .tileFormat
    ++ need (k.aoff % fmtAlign f == 0 && k.apitch % fmtAlign f == 0) .misaligned
    ++ need ((List.range 8).all fun i => inShare t .abuf ((k.aoff + i * k.apitch : Nat) : Int) (rowBytes f d.kl)) .accessFault

/-- xmm and xbmm (R301-R303). -/
def passWord (i : Instr) (block : Bool) (p : VReg) (r : Nat) (f : Fmt) (acc inj : Bool) (s : State) : Out :=
  matrixWord i (some r) inj (fun s =>
    let t := s.cur.team
    let pr := s.pair t.seat t.vf t.core r
    let qs := quartersIn s
    match pr.active with
    | none => ([trapOf .tileFormat], s)
    | some d =>
      let ks := qs.map (quarterOf s p)
      let lim := pairLimit f d.fmt
      (need ((pairKind f d.fmt).isSome && (fmtClass f == 2) == block && decide (d.kl ≤ lim.1 ∧ d.nl ≤ lim.2)) .tileFormat ++ qs.flatMap (quarterTraps s p block f d),
       (s.onTeam fun t => ks.foldl (fun t k => t.tileState k.tile 2) t).queueMx
         (.pass block r pr.gen pr.phys d.ver f acc inj ks))) s
/-- xmm (R302). -/
def execXmm (p : VReg) (r : Fin 4) (f : Fmt) (a j : Bool) (s : State) : Out := passWord (.xmm p r f a j) false p r f a j s
/-- xbmm (R303). -/
def execXbmm (p : VReg) (r : Fin 4) (f : Fmt) (j : Bool) (s : State) : Out := passWord (.xbmm p r f j) true p r f false j s

/-- xscac (R304). -/
def execXscac (p : VReg) (a : Bool) (s : State) : Out :=
  matrixWord (.xscac p a) none false (fun s =>
    let t := s.cur.team
    let w := par s p 0
    let n := fld w 14 12 + 1
    let ok := match t.tile (fld w 3 0), t.tile (fld w 7 4) with
      | some y, some z => y.kind == .part && z.kind == .f32 && y.rows == z.rows && y.cols == z.cols && decide (fld w 11 8 + n ≤ y.planes)
      | _, _ => false
    (need (fld w 31 15 == 0 && ok) .tileFormat,
     (s.onTeam fun t => t.tileState (fld w 7 4) 2).queueMx (.xscac (fld w 3 0) (fld w 7 4) (fld w 11 8) n a))) s

/-- Tiles of a mask. -/
def tilesOf (mask : Nat) : List Nat := (List.range 16).filter fun k => mask / 2 ^ k % 2 == 1
/-- xdrn (R305). -/
def execXdrn (p : VReg) (s : State) : Out :=
  matrixWord (.xdrn p) none false (fun s =>
    let t := s.cur.team
    let w := par s p 0
    (need (decide (w < 65536) && (tilesOf w).all fun k => (t.tile k).isSome) .tileFormat,
     (s.onTeam fun t => (tilesOf w).foldl (fun t k => t.tileState k 3) t).queueMx (.xdrn w))) s
/-- xrel (R305, R288). -/
def execXrel (p : VReg) (discard : Bool) (s : State) : Out :=
  matrixWord (.xrel p discard) none false (fun s =>
    let t := s.cur.team
    let w := par s p 0
    let open_ := (tilesOf w).any fun k => match t.tile k with
      | some y => y.state == 2
      | none => false
    (need (decide (w < 65536)) .tileFormat ++ need (discard || !open_) .tileLive,
     (s.onTeam fun t => { t with tiles := t.tiles.filter fun y => w / 2 ^ y.id % 2 != 1 }).queueMx (.xrel w))) s

end Sys2Proof.Machine
end

