-- ==== Sys2Proof/Machine/Engines.lean ====
section
/-!
DEFINITION. The copy and gather engines: queues (R143-R147, R263), cp (R264-R270), gth (R98, R99, R271), circular buffers
(R93-R97, R274), the operands-consumed rule (R272) and qfence (R273).
-/

namespace Sys2Proof.Machine

open Sys2Proof

/-- Change a copy command. -/
def State.mapCopy (s : State) (id : Nat) (f : Copy → Copy) : State :=
  s.mapOp id fun o => { o with kind := match o.kind with
    | .copy c => .copy (f c)
    | k => k }

/-! ### Pieces (R268) -/

/-- Bytes from a position to the next boundary that ends a piece: 128 of a global address, 256 of a local offset. -/
def pieceRoom (sp : Space) (a : Nat) : Nat := if sp = .global then 128 - a % 128 else 256 - a % 256

/-- What a command does next. -/
inductive Piece where
  /-- read the index of the current row (R99) -/
  | index (va n : Nat)
  /-- write zeros: the index was all ones (R99) -/
  | zero (dst n : Nat)
  | move (src dst n : Nat)
  /-- a source address that is not canonical (R99) -/
  | bad
  deriving DecidableEq, Repr

/-- The next piece of a command. -/
def Copy.next (c : Copy) : Piece :=
  if c.idxW ≠ 0 then
    let dst := c.dst + c.row * c.rowSz + c.off
    let left := min (c.rowSz - c.off) (pieceRoom c.to_ dst)
    match c.index with
    | none =>
      let a := c.idxAddr + c.row * c.idxW
      if canonical a then .index a c.idxW else .bad
    | some x =>
      if x = 2 ^ (8 * c.idxW) - 1 then .zero dst left
      else
        let a := c.src + x * c.sstride
        if canonical a && canonical ((a + c.rowSz - 1 : Nat) : Int) then .move (a + c.off) dst (min left (pieceRoom .global (a + c.off))) else .bad
  else
    let a := c.src + c.row * c.sstride + c.off
    let b := c.dst + c.row * c.dstride + c.off
    .move a b (min (c.rowSz - c.off) (min (pieceRoom c.from_ a) (pieceRoom c.to_ b)))

/-- The command after a piece of `n` bytes. -/
def Copy.advance (c : Copy) (n : Nat) : Copy :=
  let c := { c with inFlight := false, data := [], phase := 0, heldBy := false }
  if c.off + n = c.rowSz then { c with row := c.row + 1, off := 0, index := none } else { c with off := c.off + n }

/-- Bytes a piece credits to the barrier: its own for a cp; for a gth the row's, with the row's last piece (R99, R268). -/
def Copy.creditOf (c : Copy) (n : Nat) : Nat := if c.idxW = 0 then n else if c.off + n = c.rowSz then c.rowSz else 0

/-! ### Which piece starts (R269) -/

/-- A global write of the group, older than the operation's order age, has not performed (R144, R423). -/
def State.ordersPending (s : State) (o : Op) : Bool :=
  s.ops.any fun p => p.team == o.team && p.gid == o.gid && decide (p.id < o.orderAge) && p.isWrite && !p.wrote && match p.kind with
    | .store sp _ => sp == .global
    | .atomic sp _ _ => sp == .global
    | .ring _ .alight => true
    | _ => false
/-- The seat runs the team's function on its cores now (R23, R24, R379). -/
def State.runs (s : State) (t : Team) : Bool :=
  match s.findSeat t.seat with
  | some x => x.running && x.vf == t.vf
  | none => false
/-- The command may start a piece. -/
def State.pieceReady (s : State) (o : Op) : Bool :=
  o.started && !o.buffered && (match o.kind with
    | .copy c => !c.inFlight && (c.circ.isNone || c.circReady)
    | _ => false) && !(s.ordersPending o) && match s.getTeam o.team with
    | some t => s.runs t
    | none => false
/-- The key of the rotation: residency, group, queue. -/
def State.copyKey (s : State) (o : Op) : Nat × Nat × Nat :=
  ((s.getTeam o.team).elim 0 (·.residency), o.gid, (opQueue o).getD 0)
/-- Order of keys. -/
def keyBefore (a b : Nat × Nat × Nat) : Bool :=
  decide (a.1 < b.1 ∨ (a.1 = b.1 ∧ (a.2.1 < b.2.1 ∨ (a.2.1 = b.2.1 ∧ a.2.2 < b.2.2))))
/-- Started commands of a seat on a core that may start a piece, in key order. -/
def State.pieceCands (s : State) (core seat : Nat) : List Op :=
  sortBy (fun a b => keyBefore (s.copyKey a) (s.copyKey b)) (s.ops.filter fun o => o.core == core && o.seat == seat && s.pieceReady o)

/-! ### Removal (R270) -/

/-- A command stops at its piece: it and those behind it in its queue leave, and its trap is delivered (R270); its charged waits end at
their due point, and are recorded (R22, R25, R412). -/
def State.stopCopy (s : State) (id : Nat) (k : TrapKind) : State :=
  match s.findOp id with
  | none => s
  | some o =>
    let q := (opQueue o).getD 0
    let dead := (s.queueOf o.team o.gid q).filter fun p => decide (o.id ≤ p.id)
    let s := s.defer o k
    let s : State := { s with
      reqs := s.reqs.filter fun r => !(dead.any fun p => p.id == r.owner && (r.kind == .load || r.kind == .store))
      walks := s.walks.map fun w => { w with waiters := w.waiters.filter fun a => !(dead.any fun p => a.1 == .piece p.id) } }
    let s := (s.waitsOf o.seat (.piece id)).foldl (fun (s : State) (w : Charged) => s.waitDone o.seat w.id s.g) s
    let s := dead.foldl (fun (s : State) (p : Op) => s.finishOp p.id) s
    (s.anyGroup o.team o.gid fun g => { g with stopped := insertNat q g.stopped }).wakeQueues o

/-! ### Ports and banks (R74, R86, R87) -/

/-- The first cycle in which an engine may use scratchpad bytes, their banks woken (R73, R74). -/
def State.gateBanks (s : State) (team : Nat) (sp : Space) (a n : Nat) : Nat × State :=
  if sp ≠ .scratch then (s.g, s)
  else
    (distinct [a / Config.bankBytes, (a + n - 1) / Config.bankBytes]).foldl (fun (r : Nat × State) j =>
      let s := r.2.wakeScratch team j .full
      match (s.getTeam team).bind fun t => t.swaking j with
      | some w => (max r.1 w.due, s)
      | none => (r.1, s)) (s.g, s)
/-- The number of an engine port: the buffer's, or the bank's own (R86). -/
def enginePort (team : Nat) (sp : Space) (a : Nat) : Nat := if sp = .scratch then 128 * team + a / Config.bankBytes else portNo sp
/-- The key in `ports` of a row that a bank's engine port serves. -/
def engineRow (team a : Nat) : Nat := 16 + 64 * (128 * team + a / Config.bankBytes) + a % Config.bankBytes / 128
/-- A scratchpad bank's engine port serves one row in a cycle: this one may be served now (R86). -/
def State.rowOpen (s : State) (core team a : Nat) : Bool :=
  !(s.ports.any fun p => p.1 == core && p.2.2 == s.g && decide (16 ≤ p.2.1) && (p.2.1 - 16) / 64 == (engineRow team a - 16) / 64
    && p.2.1 != engineRow team a)
/-- The bank's engine port serves the row in this cycle. -/
def State.takeRow (s : State) (core team a : Nat) : State := { s with ports := (core, engineRow team a, s.g) :: s.ports }
/-- The engine may take a port in this cycle (R86, R87). -/
def State.enginePortOpen (s : State) (o : Op) (sp : Space) (a : Nat) : Bool :=
  if sp = .scratch then s.rowOpen o.core o.team a else s.portServes o.core o.seat sp
/-- Take it. A piece of two rows of one bank takes the port once: "one engine-port row" (R269; DESIGN CHOICE, log 126). -/
def State.takeEnginePort (s : State) (o : Op) (sp : Space) (a : Nat) : State :=
  if sp = .scratch then s.takeRow o.core o.team a else s.takePort o.core o.seat sp s.g

/-! ### The operands-consumed rule (R272, R293) -/

/-- Byte ranges of ABUF a quarter-pass reads, one for each row. -/
def quarterRange (fmt : Fmt) (kl : Nat) (q : Quarter) : List (Nat × Nat) :=
  (List.range 8).map fun i => (q.aoff + i * q.apitch, rowBytes fmt kl)
/-- The depth of the plane that an xlds loads; a plane's version is its xlds' identifier. -/
def Op.depth (o : Op) : Option Nat :=
  match o.kind with
  | .matrix (.xlds _ _ _ _ _ kl _ _) => some kl
  | _ => none
/-- A matrix operation of the team, issued before the command, still has to read a byte of [a, a + n). -/
def State.readsBefore (s : State) (o : Op) (sp : Space) (a n : Nat) : Bool :=
  let meets (l : List (Nat × Nat)) : Bool := l.any fun r => decide (r.1 < a + n ∧ a < r.1 + r.2)
  s.ops.any fun p => p.team == o.team && decide (p.id < o.id) && !p.buffered && match p.kind with
    | .matrix (.pass _ pair _ _ ver fmt _ _ qs) =>
      let kl := match s.pairs.find? fun r => r.seat == p.seat && r.core == p.core && r.pair == pair && r.planes.any fun x => x.ver == ver with
        | some r => (r.planes.find? fun x => x.ver == ver).elim 256 (·.kl)
        | none => ((s.findOp ver).bind Op.depth).getD 256
      sp == .abuf && meets ((qs.drop p.landed).flatMap (quarterRange fmt kl))
    | .matrix (.xlds _ _ fmt woff pitch kl nl _) => sp == .wbuf && meets ((List.range nl).map fun j => (woff + j * pitch, rowBytes fmt kl))
    | _ => false

/-! ### Pieces on their way -/

/-- A command completes: COPIES falls, later commands are looked at (R263). -/
def State.endCopy (s : State) (id : Nat) : State :=
  match s.findOp id with
  | none => s
  | some o => (s.finishOp id).wakeQueues o
/-- The piece is over: the command goes on to its next one, or completes. -/
def State.nextPiece (s : State) (o : Op) (c : Copy) (n : Nat) : State :=
  let c' := c.advance n
  let s := s.mapCopy o.id fun _ => c'
  if c'.row = c'.rows then s.now (.copyCommandComplete o.id) else s.pokeEngine o.seat o.core (s.g + 1)

/-- Credit a piece that has landed, once the object's bank is awake, at the bank's engine port (R74, R86, R90, R268). `mine`: the port that
the piece has taken in this cycle. -/
def State.creditPiece (s : State) (o : Op) (c : Copy) (mine : Option (Space × Nat) := none) : State :=
  let n := c.creditOf c.piece
  match c.bar with
  | none => s.nextPiece o c c.piece
  | some off =>
    if n = 0 then s.nextPiece o c c.piece
    else
      let (due, s) := s.gateBanks o.team .scratch off 16
      let own := mine == some (.scratch, enginePort o.team .scratch off)
      if s.g < due then (s.mapCopy o.id fun c => { c with phase := 3 }).at due (.pieceLand o.id)
      else if !own && !(s.enginePortOpen o .scratch off) then (s.mapCopy o.id fun c => { c with phase := 3 }).at (s.g + 1) (.pieceLand o.id)
      else ((if own then s else s.takeEnginePort o .scratch off).barBytes o.team off true n).nextPiece o c c.piece
/-- The port for a piece's credit, another than the one its bytes take, is taken in this cycle: the piece lands, and is credited, in the
first cycle in which both are open (R86, R269). -/
def State.creditWaits (s : State) (o : Op) (c : Copy) (port : Space × Nat) : Bool :=
  c.bar.any fun off => c.creditOf c.piece != 0 && (.scratch, enginePort o.team .scratch off) != port && !(s.enginePortOpen o .scratch off)

/-- A write of bytes into a local space; a byte outside the share is not written. -/
def putLocal (sp : Space) (a : Nat) (bs : List Byte) (t : Team) : Team :=
  if inShare t sp a bs.length then setLocal (t.clearMarks sp [(a, bs.length)]) sp (Memory.putBytes (localMem t sp) a bs) else t

/-- Begin a charged wait of a piece, from the start of its access at hand (R21, R270, R356). -/
def State.chargePiece (s : State) (o : Op) (event c va : Nat) : State :=
  if (s.waitsOf o.seat (.piece o.id)).any fun w => w.event == event then s
  else
    let t0 := match (s.findOp o.id).map (·.kind) with
      | some (.copy c) => c.t0
      | _ => o.t0
    (s.charge o.seat { id := 0, event := event, core := o.core, t0 := t0, due := 0, owner := .piece o.id, detail := BitVec.ofNat 64 va } c).2
/-- A kind of copy whose pieces may touch Colalm pages (R412): cp.g2s, s2g, g2a, g2w and g2g. -/
def Copy.mayLeave (c : Copy) : Bool := [0, 1, 2, 3, 5].contains c.kind
/-- The request of a translated piece (R269). A Colalm page in the piece of another kind than R412 lists refuses it (log 127). -/
def State.sendPiece (s : State) (o : Op) (va : Nat) (write : Bool) (p : Page) (asid : Nat) (tlb : Bool) (walk : Nat := 0) : State :=
  let s := if tlb then s.countAccess o.seat o.core asid va write else s
  let leaves := match o.kind with
    | .copy c => c.mayLeave
    | _ => true
  if p.place.isPeer && !leaves then s.stopCopy o.id .accessFault
  else
    let s := if p.place.isDev then s else s.chargePiece o 3 Config.chargeHost va
    s.request { id := 0, owner := o.id, age := o.id, seat := o.seat, core := o.core, kind := if write then .store else .load, place := p.place.line, va := va, com := p.com, ord := p.ord, walk := walk } 0
/-- The global side of a piece: an access begins; its translation, then its request (R269, R270). -/
def State.globalPiece (s : State) (o : Op) (va : Nat) (write : Bool) : State :=
  let s := s.mapCopy o.id fun c => { c with t0 := s.oclk o.seat }
  match s.getTeam o.team with
  | none => s
  | some t =>
    match s.look t (if o.sup then .supervisor else .user) va (if write then .write else .read) with
    | .ok p => s.sendPiece o va write p t.region.asid (lookExtent t va .read).isNone
    | .refused => s.stopCopy o.id .accessFault
    | .miss => s.joinWalk o.seat o.core t.region.asid va write (.piece o.id) 0

/-- The addresses of the piece under way: source, destination. -/
def Copy.ends (c : Copy) : Nat × Nat :=
  match c.next with
  | .index a _ => (a, 0)
  | .zero d _ => (0, d)
  | .move a d _ => (a, d)
  | .bad => (0, 0)

/-- The piece's bytes are there: an index is kept; other bytes go to their destination. -/
def State.pieceArrived (s : State) (o : Op) (c : Copy) : State :=
  match c.next with
  | .index _ _ =>
    (s.mapCopy o.id fun c => { c with index := some (wordOfBytes c.data), inFlight := false, data := [], phase := 0 }).pokeEngine o.seat o.core (s.g + 1)
  | _ =>
    if c.to_ = .global then (s.mapCopy o.id fun c => { c with phase := 3 }).globalPiece o c.ends.2 true
    else ((s.mapOp o.id fun o => { o with from_ := s.g }).mapCopy o.id fun c => { c with phase := 2 }).at (s.g + 2) (.pieceLand o.id)

/-- A local write of the piece, when its banks, the operands-consumed rule and the port let it (R74, R87, R269, R272). -/
def State.writePiece (s : State) (o : Op) (c : Copy) : State :=
  let a := c.ends.2
  if s.readsBefore o c.to_ a c.piece then s.mapCopy o.id fun c => { c with heldBy := true }
  else
    let (due, s) := s.gateBanks o.team c.to_ a c.piece
    if s.g < due then s.at due (.pieceLand o.id)
    else
      let port := (c.to_, enginePort o.team c.to_ a)
      if !(s.enginePortOpen o c.to_ a) || s.creditWaits o c port then s.at (s.g + 1) (.pieceLand o.id)
      else (((s.takeEnginePort o c.to_ a).anyTeam o.team (putLocal c.to_ a c.data)).touchBars o.team c.to_).creditPiece o c (some port)

/-- A local read of the piece; its bytes are there 12 cycles later (R269). -/
def State.readPiece (s : State) (o : Op) (c : Copy) : State :=
  let a := c.ends.1
  let (due, s) := s.gateBanks o.team c.from_ a c.piece
  if s.g < due then s.at due (.pieceLand o.id)
  else if !(s.enginePortOpen o c.from_ a) || s.heldOver o.team o.gid o.id c.from_ [(a, c.piece)] then s.at (s.g + 1) (.pieceLand o.id)
  else
    let s := (s.takeEnginePort o c.from_ a).settleLocal o.team o.gid o.id c.from_ [(a, c.piece)]
    let bs := match s.getTeam o.team with
      | some t => Memory.bytes (t.seen c.from_ s.g) a c.piece
      | none => []
    (s.mapCopy o.id fun c => { c with data := bs, phase := 1 }).at (s.g + 12) (.pieceLand o.id)

/-- What a piece does in this cycle, by its phase. -/
def State.pieceStep (s : State) (id : Nat) : State :=
  match s.findOp id with
  | none => s
  | some o =>
    match o.kind with
    | .copy c =>
      if !c.inFlight then s
      else match c.phase with
        | 0 => s.readPiece o c
        | 1 => s.pieceArrived o c
        | 2 => s.writePiece o c
        | _ => s.creditPiece o c
    | _ => s

/-- A global piece has been read or performed: it goes on now, or when its charged waits end (R22, R270). -/
def State.pieceDone (s : State) (id : Nat) (phase : Nat) : State :=
  match s.findOp id with
  | none => s
  | some o =>
    let s := s.mapCopy id fun c => { c with phase := phase }
    match s.waitsOf o.seat (.piece id) with
    | [] => s.pieceStep id
    | ws => ws.foldl (fun s w => if w.event = 1 then s.waitDone o.seat w.id s.g else s) s

/-- Start the next piece of a command. -/
def State.startPiece (s : State) (o : Op) (c : Copy) : State :=
  let begin_ (n phase : Nat) (data : List Byte) : State :=
    (s.mapOp o.id fun o => { o with t0 := s.oclk o.seat }).mapCopy o.id fun c => { c with inFlight := true, piece := n, phase := phase, data := data }
  let go (s : State) (f : Op → State) : State :=
    match s.findOp o.id with
    | some o => f o
    | none => s
  match c.next with
  | .bad => s.stopCopy o.id .accessFault
  | .zero _ n =>
    let s := begin_ n 1 (List.replicate n 0)
    s.pieceStep o.id
  | .index a n =>
    let s := begin_ n 1 []
    go s fun o => s.globalPiece o a false
  | .move a _ n =>
    if c.from_ = .global then
      let s := begin_ n 1 []
      go s fun o => s.globalPiece o a false
    else
      let s := begin_ n 0 []
      s.pieceStep o.id

/-- COPY_PIECE_START (R269): in a copy-engine position of the seat, or for the fill seat in one its owner leaves, the next
command in rotation starts a piece. A position starts one (R14, R16). -/
def State.copyPosition (s : State) (core seat : Nat) : State :=
  let own := s.rotaOwner (s.g / 4) (s.g / Config.frame)
  let cands := s.pieceCands core seat
  let left := seat == 15 && own.all fun n => (s.pieceCands core n).isEmpty
  if cands.isEmpty then s
  else if s.g % 4 ≠ 0 ∨ s.spent (.copyEngine core) ∨ !(own == some seat || left) then s.pokeEngine seat core (s.g + 1)
  else match s.findSeat seat with
    | none => s
    | some x =>
      let last := (x.lastCopy.find? fun r => r.1 == core).map (·.2)
      let later := cands.filter fun o => match last with
        | some k => keyBefore k (s.copyKey o)
        | none => true
      match later ++ cands with
      | [] => s
      | o :: _ =>
        let s := (s.spend (.copyEngine core)).mapSeat seat fun x => { x with lastCopy := (x.lastCopy.filter fun r => r.1 != core) ++ [(core, s.copyKey o)] }
        let s := match o.kind with
          | .copy c => s.startPiece o c
          | _ => s
        if cands.length ≤ 1 then s else s.pokeEngine seat core (s.g + 1)

/-! ### Circular buffers (R93-R97) -/

/-- A circular buffer descriptor. -/
structure Circ where
  next : Nat
  put : Nat
  freed : Nat
  filled : Nat
  base : Nat
  nslot : Nat
  slotSz : Nat
  low : Nat
  deriving DecidableEq, Repr

def readCirc (m : Memory) (a : Nat) : Circ :=
  let n := Memory.read m a 32
  { next := fld n 255 224, put := fld n 223 192, freed := fld n 191 160, filled := fld n 159 128, base := fld n 127 96
    nslot := fld n 95 80, slotSz := fld n 79 64, low := fld n 63 0 }
/-- The space of the slot array. -/
def Circ.space (c : Circ) : Space := if c.low % 2 = 1 then .abuf else .scratch
/-- Bytes of a slot. -/
def Circ.slotBytes (c : Circ) : Nat := c.slotSz * 16

/-- The wait of a fill for the fill before it, with the FILLED found now (R95). -/
def fillGate (d : Circ) (n : Nat) : Option (Nat × Nat) := if n = 0 then none else some (d.filled, n - 1)
/-- The first wait of fill `n`, with the NSLOT and FREED found now: for its slot where `n` is at least NSLOT, else for the fill before (R95). -/
def slotGate (d : Circ) (n : Nat) : Bool × Option (Nat × Nat) :=
  if d.nslot ≤ n then (false, some (d.freed, n - d.nslot)) else (true, fillGate d n)
/-- An engine's access to scratchpad bytes takes place in this cycle, or is to be tried again in the cycle answered (R74, R86). -/
def State.engineRowNow (s : State) (o : Op) (a n : Nat) : Option Nat × State :=
  let (due, s) := s.gateBanks o.team .scratch a n
  if s.g < due then (some due, s)
  else if !(s.enginePortOpen o .scratch a) then (some (s.g + 1), s)
  else (none, s.takeEnginePort o .scratch a)
/-- A fill whose waits are over expects its bytes, through the engine port of the object's bank, and begins; its fields are those found at
this step (R86, R95). -/
def State.beginFill (s : State) (o : Op) (c : Copy) (d : Circ) : State :=
  match s.engineRowNow o d.filled 16 with
  | (some k, s) => s.once k (.circSlotReady o.id)
  | (none, s) =>
    let s := s.mapCopy o.id fun c => { c with circReady := true, bar := some d.filled, to_ := d.space, dst := d.base + c.fill % d.nslot * d.slotBytes }
    (s.barBytes o.team d.filled false c.rowSz).pokeEngine o.seat o.core s.g
/-- A started fill looks at the wait it is in: for its slot, then for the fill before it; each with the object and the phase that it found
when the wait began (R91, R95). -/
def State.circReadyNow (s : State) (id : Nat) : State :=
  match s.findOp id with
  | none => s
  | some o =>
    match o.kind, s.getTeam o.team with
    | .copy c, some t =>
      match c.circ with
      | some cd =>
        let d := readCirc t.scratch cd
        let done (g : Option (Nat × Nat)) : Bool := g.all fun q => (readBar t.scratch q.1).completed (BitVec.ofNat 32 q.2)
        if !o.awaitsSlot || !(done c.gate) then s
        else if c.slotFree then s.beginFill o c d
        else
          let s := s.mapCopy id fun c => { c with slotFree := true, gate := fillGate d c.fill }
          if done (fillGate d c.fill) then s.beginFill o c d else s
      | none => s
    | _, _ => s

/-- COPY_COMMAND_START (R263): at the head of its queue, every mark before it met (R147). The read-modify-write of PUT and the expect of a
gth wait for the engine port of their bank (R86, R95, R271). -/
def State.startCopy (s : State) (id : Nat) : State :=
  match s.findOp id with
  | none => s
  | some o =>
    let head := ((s.queueOf o.team o.gid ((opQueue o).getD 8)).head?).map (·.id)
    if o.started || o.buffered || head != some id || !(s.marksMet o) then s
    else
      match o.kind, s.getTeam o.team with
      | .copy c, some t =>
        let begun (s : State) : State := s.mapOp id fun o => { o with started := true }
        match c.circ, c.bar with
        | some cd, _ =>
          match s.engineRowNow o cd 32 with
          | (some k, s) => s.once k (.copyCommandStart id)
          | (none, s) =>
            let d := readCirc t.scratch cd
            let s := s.anyTeam o.team fun t => { t.clearMarks .scratch [(cd + 24, 4)] with scratch := Memory.write t.scratch (cd + 24) 4 ((d.put + 1) % 2 ^ 32) }
            let g := slotGate d d.put
            ((((begun s).touchBars o.team .scratch).mapCopy id fun c => { c with fill := d.put, slotFree := g.1, gate := g.2 })).circReadyNow id
        | none, some off =>
          if c.idxW = 0 then (begun s).pokeEngine o.seat o.core s.g
          else match s.engineRowNow o off 16 with
            | (some k, s) => s.once k (.copyCommandStart id)
            | (none, s) => ((begun s).barBytes o.team off false (c.rows * c.rowSz)).pokeEngine o.seat o.core s.g
        | none, none => (begun s).pokeEngine o.seat o.core s.g
      | _, _ => s

/-! ### The rows of the table -/

/-- COPY_COMMAND_START (R263). -/
def execCopyCommandStart (s : State) : Out :=
  runEvent s fun
    | .copyCommandStart id => some (s.startCopy id)
    | _ => none
/-- CIRC_SLOT_READY (R95). -/
def execCircSlotReady (s : State) : Out :=
  runEvent s fun
    | .circSlotReady id => some (s.circReadyNow id)
    | _ => none
/-- COPY_PIECE_START (R269). -/
def execCopyPieceStart (s : State) : Out :=
  runEvent s fun
    | .copyPieceStart core seat => some (s.copyPosition core seat)
    | _ => none
/-- PIECE_LAND (R268). -/
def execPieceLand (s : State) : Out :=
  runEvent s fun
    | .pieceLand id => some (s.pieceStep id)
    | _ => none
/-- HELD_PIECE_RELEASE (R272): the piece tries its write again. -/
def execHeldPieceRelease (s : State) : Out :=
  runEvent s fun
    | .heldPieceRelease id => match s.findOp id with
      | none => some s
      | some o => match o.kind with
        | .copy c => some (if c.heldBy then (s.mapCopy id fun c => { c with heldBy := false }).at (max s.g (o.from_ + 2)) (.pieceLand id) else s)
        | _ => some s
    | _ => none
/-- COPY_COMMAND_COMPLETE (R263). -/
def execCopyCommandComplete (s : State) : Out :=
  runEvent s fun
    | .copyCommandComplete id => some (s.endCopy id)
    | _ => none

/-! ### Checks at issue (R264-R267, R99, R94) -/

/-- The literal of a cp or gth (R264). -/
def litTraps (l : W32) (gather : Bool) : List TrapReq :=
  let n := l.toNat
  let v := l.getLsbD 31
  let e := l.getLsbD 30
  if fld n 29 20 ≠ 0 ∨ (e ∧ (!v ∨ gather)) ∨ (!v ∧ fld n 19 0 ≠ 0) then [illegal 3] else []
/-- The barrier object a literal names, and its checks. -/
def litBar (l : W32) : Option Nat := if l.getLsbD 31 then some (fld l.toNat 19 0) else none
def litBarTraps (s : State) : List TrapReq :=
  match litBar s.cur.lit with
  | some off => objectTraps s off true
  | none => []

/-- The spaces of a kind (R265). -/
def copySpaces : Nat → Space × Space
  | 0 => (.global, .scratch)
  | 1 => (.scratch, .global)
  | 2 => (.global, .abuf)
  | 3 => (.global, .wbuf)
  | 4 => (.xbuf, .global)
  | _ => (.global, .global)

/-- A kind of cp over the scalars at `d`: its command. -/
def copyOf (s : State) (d : SReg) (kind queue : Nat) : Copy :=
  let w (k : Nat) : Nat := (s.rS (d.val + k)).toNat
  let sp := copySpaces kind
  { kind := kind, queue := queue, src := w 0, dst := w 1, rows := fld (w 2) 63 48, rowSz := fld (w 2) 23 0, sstride := fld (w 3) 31 0
    dstride := fld (w 3) 63 32, bar := litBar s.cur.lit, from_ := sp.1, to_ := sp.2 }

/-- Offsets of a side's rows. -/
def rowStarts (base stride rows : Nat) : List Nat := (List.range rows).map fun r => base + r * stride
/-- The checks of one side: rows of a local space in the share, global rows canonical (R267). -/
def sideTraps (s : State) (sp : Space) (base stride rows size : Nat) : List TrapReq :=
  if sp = .global then
    need ((rowStarts base stride rows).all fun a => canonical a && canonical ((a + size - 1 : Nat) : Int)) .accessFault
  else need ((rowStarts base stride rows).all fun a => inShare s.cur.team sp a size) .accessFault
/-- Scratchpad bytes touch an Off bank (R74). -/
def touchesOff (t : Team) (a n : Nat) : Bool :=
  (List.range ((a + n - 1) / Config.bankBytes - a / Config.bankBytes + 1)).any fun k => t.sdead (a / Config.bankBytes + k)
/-- A drain of XBUF bytes [a, a + n): TileFormat when one lies in no tile, TileLive when one lies in an Open tile (R288, R305). -/
def drainTraps (t : Team) (a n : Nat) : List TrapReq :=
  need ((List.range n).all fun k => t.tiles.any fun (y : Tile) => y.meets (a + k) 1) .tileFormat
    ++ need (!(t.tiles.any fun (y : Tile) => y.state == 2 && y.meets a n)) .tileLive

/-- The checks of a cp of kinds 0-5 (R264-R267). -/
def copyTraps (s : State) (d : SReg) (c : Copy) : List TrapReq :=
  let ranged := decide (1 ≤ c.rows ∧ 4 ≤ c.rowSz ∧ c.rowSz ≤ 16777212 ∧ c.rows * c.rowSz ≤ 2 ^ 31 - 4)
  litTraps s.cur.lit false
    ++ (if fld (s.rS (d.val + 2)).toNat 47 24 ≠ 0 then [illegal 3] else [])
    ++ litBarTraps s
    ++ need ([c.src, c.dst, c.sstride, c.dstride, c.rowSz].all fun n => n % 4 == 0) .misaligned
    ++ need ranged .accessFault
    ++ (if ranged then sideTraps s c.from_ c.src c.sstride c.rows c.rowSz ++ sideTraps s c.to_ c.dst c.dstride c.rows c.rowSz else [])
    ++ (if ranged ∧ c.from_ = .scratch then need (!((rowStarts c.src c.sstride c.rows).any fun a => touchesOff s.cur.team a c.rowSz)) .deadRead else [])
    ++ (if ranged ∧ c.from_ = .xbuf then (rowStarts c.src c.sstride c.rows).flatMap fun a => drainTraps s.cur.team a c.rowSz else [])

/-- Reserved fields of the scalars of a cp.circ and of a gth are not zero (R266, R271). -/
def circReserved (s : State) (d : SReg) : Bool := fld (s.rS (d.val + 2)).toNat 63 32 != 0 || s.rS (d.val + 3) != 0
def gthReserved (s : State) (d : SReg) : Bool := fld (s.rS (d.val + 3)).toNat 63 34 != 0

/-- Place a command of the word at hand in its queue (R263); in portable mode it is buffered (R397). `expect`: bytes the
engine expects at the word's issue. -/
def State.queueCopy (s : State) (c : Copy) (expect : Nat) : State :=
  let t := s.cur.team
  let id := s.nextOp
  let s := s.launchOp { blankOp (.copy c) with
    count := .copies, active := s.activeMask, after := s.cur.group.afterMarks c.queue, orderAge := s.cur.group.lastRel, buffered := t.portable, from_ := expect }
  if t.portable then s.onGroup fun g => { g with effects := g.effects ++ [id] }
  else
    let s := match c.bar with
      | some off => if expect = 0 then s else s.barBytes t.id off false expect true
      | none => s
    s.at (s.g + 1) (.copyCommandStart id)

/-- What a copy word does: its checks, then its command. -/
def copyCommand (f : State → List TrapReq × Copy × Nat) (s : State) : Except TrapReq State :=
  match check (f s).1 with
  | .error t => .error t
  | .ok _ => .ok (s.queueCopy (f s).2.1 (f s).2.2)
/-- The frame of a copy word. -/
def copyWord (i : Instr) (f : State → List TrapReq × Copy × Nat) (s : State) : Out := runWord i s (copyCommand f)
/-- cp of kinds 0-5 (R265-R268). -/
def cpWord (i : Instr) (kind : Nat) (d : SReg) (q : Fin 6) (s : State) : Out :=
  copyWord i (fun s =>
    let c := copyOf s d kind q
    (copyTraps s d c, c, if s.cur.lit.getLsbD 30 then c.rows * c.rowSz else 0)) s

/-- cp.g2s (R268). -/
def execCpG2s (d : SReg) (q : Fin 6) (s : State) : Out := cpWord (.cpG2s d q) 0 d q s
/-- cp.s2g (R268). -/
def execCpS2g (d : SReg) (q : Fin 6) (s : State) : Out := cpWord (.cpS2g d q) 1 d q s
/-- cp.g2a (R268). -/
def execCpG2a (d : SReg) (q : Fin 6) (s : State) : Out := cpWord (.cpG2a d q) 2 d q s
/-- cp.g2w (R268). -/
def execCpG2w (d : SReg) (q : Fin 6) (s : State) : Out := cpWord (.cpG2w d q) 3 d q s
/-- cp.x2g (R268, R305). -/
def execCpX2g (d : SReg) (q : Fin 6) (s : State) : Out := cpWord (.cpX2g d q) 4 d q s
/-- cp.g2g (R268). -/
def execCpG2g (d : SReg) (q : Fin 6) (s : State) : Out := cpWord (.cpG2g d q) 5 d q s

/-- The descriptor a word names, as its group sees the scratchpad. -/
def State.circAt (s : State) (a : Nat) : Circ := readCirc (s.localView s.cur.team.id s.cur.group.gid s.nextOp .scratch) a
/-- The checks of a circular buffer word (R74, R93, R94); `bars`: the objects it names. -/
def circTraps (s : State) (a : Nat) (bars : Circ → List Nat) : List TrapReq :=
  let t := s.cur.team
  need (a % 32 == 0) .misaligned
    ++ (if inShare t .scratch a 32 then
      let d := s.circAt a
      let bytes := d.slotBytes
      need (d.low / 2 == 0 && decide (2 ≤ d.nslot ∧ d.nslot ≤ 1024 ∧ 1 ≤ d.slotSz) && d.base % 16 == 0
          && inShare t d.space d.base (d.nslot * bytes) && d.filled % 16 == 0 && d.freed % 16 == 0
          && inShare t .scratch d.filled 16 && inShare t .scratch d.freed 16) .accessFault
        ++ need (!(touchesOff t a 32)) .deadRead
        ++ (bars d).flatMap fun (off : Nat) => if inShare t .scratch off 16 && off % 16 == 0 then objectTraps s off true else []
    else [trapOf .accessFault])

/-- The group's older accesses to a descriptor and to its barrier objects come before the word at hand reads them (R135). -/
def State.circSettled (s : State) (cd : Nat) : State :=
  let s := s.settled [(cd, 32)]
  let c := s.circAt cd
  s.settled [(c.filled, 16), (c.freed, 16)]
/-- cp.circ (R95, R266). -/
def execCpCirc (d : SReg) (q : Fin 6) (s : State) : Out :=
  runWord (.cpCirc d q) s fun s => copyCommand (fun s =>
    let w (k : Nat) : Nat := (s.rS (d.val + k)).toNat
    let n := fld (w 2) 31 0
    let c : Copy := { kind := 6, queue := q, src := w 0, dst := 0, rows := 1, rowSz := n, sstride := 0, dstride := 0, circ := some (w 1), from_ := .global, to_ := .scratch }
    ((if s.cur.lit ≠ 0 ∨ circReserved s d then [illegal 3] else [])
      ++ circTraps s (w 1) (fun d => [d.filled, d.freed])
      ++ need (w 0 % 4 == 0) .misaligned
      ++ need (canonical (w 0) && canonical ((w 0 + n - 1 : Nat) : Int)) .accessFault
      ++ need (decide (1 ≤ n ∧ n ≤ (s.circAt (w 1)).slotBytes)) .accessFault, c, 0)) (s.circSettled (s.rS (d.val + 1)).toNat)

/-- gth (R98, R99, R271). -/
def execGth (d : SReg) (q : Fin 6) (s : State) : Out :=
  copyWord (.gth d q) (fun s =>
    let w (k : Nat) : Nat := (s.rS (d.val + k)).toNat
    let iw := if fld (w 3) 33 33 = 1 then 8 else 4
    let sp : Space := if fld (w 3) 32 32 = 1 then .abuf else .scratch
    let c : Copy := { kind := 7, queue := q, src := w 1, dst := fld (w 3) 31 0, rows := fld (w 2) 63 48, rowSz := fld (w 2) 47 32, sstride := fld (w 2) 31 0, dstride := 0, bar := litBar s.cur.lit, idxW := iw, idxAddr := w 0, from_ := .global, to_ := sp }
    let sized := decide (4 ≤ c.rowSz ∧ c.rowSz ≤ 65532)
    (litTraps s.cur.lit true
      ++ (if gthReserved s d then [illegal 3] else [])
      ++ litBarTraps s
      ++ need (decide (1 ≤ c.rows) && sized && inShare s.cur.team sp c.dst (c.rows * c.rowSz)) .accessFault
      ++ need (w 0 % iw == 0 && c.src % 4 == 0 && c.sstride % 4 == 0 && c.dst % 4 == 0 && (!sized || c.rowSz % 4 == 0)) .misaligned,
     c, 0)) s

/-- qfence: the mark stands between commands before and after it (R147, R273). -/
def execQfence (m : BitVec 8) (s : State) : Out :=
  runPure (.qfence m) s fun s =>
    let mark := ((List.range 8).filter fun q => m.getLsbD q, s.nextOp)
    s.onGroup fun g => { g with
      marks := (g.marks.filter fun k => s.ops.any fun o => o.team == s.cur.team.id && o.gid == g.gid && decide (o.id < k.2)
        && (match opQueue o with
          | some q => k.1.contains q
          | none => false)) ++ [mark] }

/-- cb.wait: NEXT is read, and the split waits for that fill's phase and acquires (R96, R274). -/
def execCbWait (d a : SReg) (s : State) : Out :=
  runWord (.cbWait d a) s fun s =>
    let cd := (s.rS a).toNat
    let s := s.circSettled cd
    match check (circTraps s cd fun d => [d.filled]) with
    | .error t => .error t
    | .ok _ =>
      let c := s.circAt cd
      let k : W32 := BitVec.ofNat 32 c.next
      let s := s.wS d (zext64 k)
      .ok (if !s.cur.team.portable && (s.barNow c.filled).completed k then s else s.block (.barWait c.filled k true))
/-- cb.free: a release arrival at team scope on FREED (R96, R274). -/
def execCbFree (a : SReg) (s : State) : Out :=
  runWord (.cbFree a) s fun s =>
    let cd := (s.rS a).toNat
    let s := s.circSettled cd
    match check (circTraps s cd fun d => [d.freed]) with
    | .error t => .error t
    | .ok _ => s.barWord (s.circAt cd).freed (.arrive 0 (some cd)) true .team

end Sys2Proof.Machine
end

