-- ==== Sys2Proof/Machine/Ring.lean ====
section
/-!
DEFINITION. The ring (R306-R323): slots and their states, passages, arms, the home write of an alight, and the ring words.
-/

namespace Sys2Proof.Machine

open Sys2Proof

/-! ### Slots (R310, R311) -/

/-- A slot; one not listed is EMPTY. -/
def State.slot (s : State) (i : Nat) : RingSlot := SMap.get {} s.slots i
def State.setSlot (s : State) (i : Nat) (v : RingSlot) : State := { s with slots := SMap.set {} s.slots i v }
/-- The seat a slot belongs to: the one its entry names, leases apart (R310). -/
def State.slotSeat (s : State) (i : Nat) : Option Nat := (s.seats.find? fun x => x.seated && x.pl.dmap.getLsbD (i % 64)).map (·.num)
/-- The header (R311). -/
def RingSlot.header (r : RingSlot) : W64 := BitVec.ofNat 64 (r.state % 4 * 2 ^ 62) ||| (if r.state = 1 ∨ r.state = 2 then r.home &&& 0x01FFFFFFFFFFFFFF#64 else 0)
/-- The canonical address of a 57-bit home. -/
def homeVa (h : W64) : Nat := (((h.truncate 57 : BitVec 57).signExtend 64 : W64)).toNat

/-! ### Operations at a station (R312-R314) -/

/-- The ring operation of an op: its slot and kind. -/
def ringOf (o : Op) : Option (Nat × RingKind) :=
  match o.kind with
  | .ring i k => some (i, k)
  | _ => none
/-- The function of an operation's team is the one seated, or the one that a switch takes away (R317: its operations end within it). -/
def State.seatedHere (s : State) (o : Op) : Bool :=
  match s.findSeat o.seat, s.getTeam o.team with
  | some x, some t => x.vf == t.vf
  | _, _ => true
/-- The oldest operation pending at a station for a slot. -/
def State.pendingRing (s : State) (i core : Nat) : Option Op :=
  s.ops.find? fun o => o.core == core && (ringOf o).any (fun r => r.1 == i) && !o.buffered && o.from_ != 0 && decide (o.from_ ≤ s.g) && o.applied.isNone && s.seatedHere o
/-- When a board's or an alight's status is written: 2 cycles after the slot's first passage at the station at or after the
seam step that closes its revolution (R314). -/
def statusCycle (i core g : Nat) : Nat := nextPassage i core (nextPassage i 0 (g + 1)) + 2

/-- Replace a payload word. -/
def setWord (l : List W32) (k : Nat) (v : W32) : List W32 := l.zipIdx.map fun q => if q.2 = k then v else q.1
/-- The new slot and the old word of a modify on an ABOARD slot (R313, R319). -/
def RingSlot.modify (r : RingSlot) (op : ModOp) (w : Nat) (v nv : W32) : RingSlot × W32 :=
  let old := (r.payload[w]?).getD 0
  ({ r with payload := setWord r.payload w (aopNew32 op.op old v nv) }, old)

/-- Apply the oldest operation at a passage (R313). -/
def State.applyRing (s : State) (o : Op) (i : Nat) (k : RingKind) : State :=
  let r := s.slot i
  let rho := match s.findSeat o.seat with
    | some x => x.rho s.g
    | none => 0
  let note (s : State) (f : Op → Op) : State := s.mapOp o.id fun o => f { o with applied := some s.g }
  let soon (s : State) : State := s.at (s.g + 2) (.ringResultWrite o.id)
  let later (s : State) : State := s.at (statusCycle i o.core s.g) (.ringResultWrite o.id)
  match k with
  | .board home pa w =>
    let won := r.state == 0 && r.board.isNone
    later (note (if won then (s.setSlot i { r with board := some (o.id, BitVec.ofNat 64 home, pa, w) }).pokeRing i 0 (s.g + 1) else s) id)
  | .alight =>
    let won := r.state == 1 && r.alight.isNone
    later (note (if won then (s.setSlot i { r with alight := some o.id }).pokeRing i 0 (s.g + 1) else s)
      fun o => if won then o else { o with landed := 1 })
  | .cap _ => soon (note s fun o => { o with header := r.header, payload := r.payload })
  | .mod op w v nv =>
    if r.state = 1 then
      let q := r.modify op w v nv
      soon (note (s.setSlot i q.1) fun o => { o with status := pair64 1 q.2 })
    else soon (note s id)
  | .arm _ _ _ _ => s
  | .probe => soon (note s fun o => { o with status := BitVec.ofNat 64 (r.state % 4 * 2 ^ 62 + seamCount i 0 rho (s.oclk o.seat)) })

/-! ### The home write of an alight (R151, R321) -/

/-- The home write sets out: as a store entering the mesh at the seam station. -/
def State.sendHome (s : State) (i : Nat) (o : Op) (va : Nat) (p : Page) : State :=
  let s := s.setSlot i { s.slot i with place := p.place }
  let s := if p.place.isDev || (s.homeWaits o.seat i).any fun (w : Charged) => w.event == 3 then s
    else (s.charge o.seat { id := 0, event := 3, core := o.core, t0 := s.oclk o.seat, due := 0, owner := .alight i, detail := BitVec.ofNat 64 va } Config.chargeHost).2
  s.request { id := 0, owner := i, age := o.id, seat := o.seat, core := 0, kind := .alight, place := p.place.line, va := va, com := p.com, ord := p.ord } 0
/-- A home write that cannot be made: the slot stays ALIGHTING, the alight's word raises its trap, and the waits of the write are over
(R22, R321). -/
def State.refuseHome (s : State) (i : Nat) (k : TrapKind) : State :=
  match ((s.slot i).writing).bind fun (w : Nat × Nat × Nat) => s.findOp w.1 with
  | none => s
  | some o =>
    let s := (s.homeWaits o.seat i).foldl (fun (s : State) (w : Charged) => s.waitDone o.seat w.id s.g) s
    (s.mapOp o.id fun o => { o with trapSent := true, bad := some k }).defer o k
/-- Translate the home and send its write. A refusal keeps the slot ALIGHTING and raises AccessFault (R321). -/
def State.homeWrite (s : State) (i : Nat) : State :=
  match (s.slot i).writing with
  | none => s
  | some (id, team, _) =>
    match s.findOp id, s.getTeam team with
    | some o, some t =>
      let va := homeVa (s.slot i).home
      match s.look t (if o.sup then .supervisor else .user) va .write with
      | .ok p => ((if (lookExtent t va .write).isSome then s else s.countAccess o.seat o.core t.region.asid va true)).sendHome i o va p
      | .refused => s.refuseHome i .accessFault
      | .miss => s.joinWalk o.seat o.core t.region.asid va true (.alight i) 0
    | _, _ => s

/-- The seam step of a slot (R312): the claims of the revolution that ended take effect. -/
def State.seamStep (s : State) (i : Nat) : State :=
  let r := s.slot i
  match r.board with
  | some (id, home, pa, w) =>
    (s.setSlot i { r with state := 1, home := home, place := pa, payload := w, board := none }).mapOp id fun o => { o with status := 1 }
  | none =>
    match r.alight with
    | some id =>
      match s.findOp id with
      | none => s.setSlot i { r with alight := none }
      | some o =>
        ((s.setSlot i { r with state := 2, alight := none, writing := some (id, o.team, o.gid) }).mapOp id fun o => { o with status := 1 }).homeWrite i
    | none => s

/-- ALIGHT_WRITE_PERFORMED (R313): the slot is EMPTY; the alight leaves STORES in the cycle of the performance, as R151 and R314 say, and not
with an acknowledgement as the stores of R422 (log 130). -/
def State.alightDone (s : State) (i : Nat) : State :=
  let r := s.slot i
  match r.writing with
  | none => s
  | some (id, team, gid) =>
    let seat := ((s.findOp id).map fun (o : Op) => o.seat).getD 0
    if s.homeWaits seat i ≠ [] then
      (s.homeWaits seat i).foldl (fun (s : State) (w : Charged) => if w.event = 1 then s.waitDone seat w.id s.g else s) s
    else
    let s := s.setSlot i (if r.state = 2 then { board := r.board } else { r with writing := none })
    let s := (s.mapOp id fun o => { o with landed := 1 }).anyGroup team gid fun g => { g with counts := g.counts.map .stores (· - 1) }
    let s := s.mapOp id fun o => { o with count := .none }
    let s := match s.findOp id with
      | some o => if o.begun then s.finishOp id else s
      | none => s
    ((s.wakeReleases team gid).releaseHeld team gid).now (.waitcResume team gid)

/-- RING_RESULT_WRITE (R314): the result or status goes to its scalars, and with s0 it is discarded; the operation leaves, but for a winning alight
whose home write is still to be performed. -/
def State.ringResult (s : State) (id : Nat) : State :=
  match s.findOp id with
  | none => s
  | some o =>
    match o.kind, o.dest with
    | .ring _ k, .scal d =>
      let put (s : State) (l : List W64) : State := if d = 0 then s else
        s.anyGroup o.team o.gid fun g => l.zipIdx.foldl (fun g p => g.landS o (d + p.2) p.1) g
      let w (n : Nat) : W32 := (o.payload[n]?).getD 0
      match k with
      | .cap _ =>
        (put s [pair64 (w 1) (w 0), pair64 (w 3) (w 2), pair64 (w 5) (w 4), pair64 (w 7) (w 6), o.header]).finishOp id
      | .alight =>
        let s := put s [o.status]
        if o.landed = 1 then s.finishOp id
        else (s.mapOp id fun o => { o with begun := true }).anyGroup o.team o.gid fun g =>
          { g with board := { g.board with busy := g.board.busy.filter fun b => b.2 != id } }
      | _ => (put s [o.status]).finishOp id
    | _, _ => s

/-! ### Arms (R316) -/

/-- An arm's delivery as one update of its object (R316). -/
def Bar.deliver (b : Bar) : Bar :=
  let low := if b.armed then b.low - 8 else b.low
  if b.remain = 0 then { b with low := low } else { b with low := low, remain := b.remain - 1 }.settle
/-- The arm's trap goes to its group, or to the lowest group of the team that has not ended. -/
def armGroup (t : Team) (a : Arm) : Nat :=
  let live := t.groups.filter fun g => !g.ended
  if live.any fun g => g.gid == a.gid then a.gid else (live.head?).elim a.gid (·.gid)
/-- The delivery lands: the arm is removed. -/
def State.landArm (s : State) (a : Arm) : State :=
  let s := { s with arms := s.arms.filter fun (b : Arm) => b.id != a.id, freedArms := (a.core, a.seat) :: s.freedArms }
  match s.getTeam a.team with
  | none => s
  | some t =>
    let b := readBar t.scratch a.off
    let s := (s.anyTeam a.team fun t => { t.clearMarks .scratch [(a.off, 16)] with scratch := writeBar t.scratch a.off b.deliver }).barWake a.team
    if b.remain = 0 then
      let tr : TrapReq := { kind := .accessFault, word := a.word, pkt := a.pkt, slot := a.pslot, age := a.id }
      s.anyGroup a.team (armGroup t a) fun g => { g with deferred := insertTrap tr g.deferred }
    else s
/-- An arm's delivery is to land at a cycle. -/
def State.dueArm (s : State) (a : Arm) (c : Nat) : State :=
  { s with arms := s.arms.map fun (b : Arm) => if b.id = a.id then { b with due := some c } else b }.at c (.bankWakeEnd a.team none (a.off / Config.bankBytes))
/-- Deliver an arm whose condition holds: in a bank that is not awake the delivery lands when the wake ends (R74), and it takes the bank's
engine port, which serves objects of one row in one cycle (R86). -/
def State.deliverArm (s : State) (a : Arm) : State :=
  let (due, s) := s.gateBanks a.team .scratch a.off 16
  if s.g < due then s.dueArm a due
  else if !(s.rowOpen a.core a.team a.off) then s.dueArm a (s.g + 1)
  else (s.takeRow a.core a.team a.off).landArm a
/-- An arm of a portable team: it is evaluated in commits only (R397). -/
def State.portableArm (s : State) (a : Arm) : Bool := (s.getTeam a.team).any Team.portable
/-- Evaluate the arms of a station on a slot, in order of registration. -/
def State.evalArms (s : State) (i core : Nat) : State :=
  let r := s.slot i
  if r.state = 1 then
    (s.arms.filter fun a => a.slot == i && a.core == core && decide (a.from_ ≤ s.g) && a.due.isNone && !(s.portableArm a) && armHolds a.cmp ((r.payload[a.w]?).getD 0) a.x).foldl
      (fun s a => s.deliverArm a) s
  else s
/-- Deliveries of a team that land in this cycle. -/
def State.landDue (s : State) (team : Nat) : State :=
  (s.arms.filter fun a => a.team == team && a.due.any fun c => decide (c ≤ s.g)).foldl (fun s a => s.deliverArm a) s

/-- Deliveries on their way, of arms that come back to their station, are looked at in this cycle. -/
def State.nowDue (s : State) (l : List Arm) : State :=
  (l.filter fun (a : Arm) => a.due.isSome).foldl (fun (s : State) a => s.now (.bankWakeEnd a.team none (a.off / Config.bankBytes))) s
/-- The row BANK_WAKE_END (R68): at the end of a scratchpad bank's wake the team's deliveries that are due land (R74, R316). -/
def execBankWakeEnd (s : State) : Out :=
  runEvent s fun
    | .bankWakeEnd team gid b => some (match gid with
      | some _ => s.endWake team gid b
      | none => (s.endWake team none b).landDue team)
    | _ => none
/-- WAIT_RESUME (R91): waiters whose phase has completed by the cycle before resume; it goes before what changes an object in
its cycle. -/
def execWaitResume (s : State) : Out :=
  runEvent s fun
    | .waitResume team => some (s.resumeWaits team)
    | _ => none

/-! ### Passages (R312, R317, R318) -/

/-- The station has something to do at the slot's next passage. -/
def State.ringBusy (s : State) (i core : Nat) : Bool :=
  (s.ops.any fun o => o.core == core && (ringOf o).any (fun r => r.1 == i) && !o.buffered && o.from_ != 0 && o.applied.isNone)
    || (s.arms.any fun a => a.slot == i && a.core == core && a.due.isNone && !(s.portableArm a))
    || (core == 0 && ((s.slot i).board.isSome || (s.slot i).alight.isSome))

/-- A lasting parity error: the slot is FENCED, its pending operations are removed, and each group that had one raises
MemoryUncorrectable (R318). A board that is not at its station yet (R320) is not pending there, and fails when it comes (R313). -/
def State.fenceSlot (s : State) (i : Nat) : State :=
  let dead := s.ops.filter fun o => (ringOf o).any (fun r => r.1 == i) && !o.buffered && o.from_ != 0 && o.applied.isNone
  let firsts := dead.foldl (fun (l : List Op) o => if l.any fun p => p.team == o.team && p.gid == o.gid then l else l ++ [o]) []
  let s := firsts.foldl (fun s o => s.defer o .memoryUncorrectable) s
  let s := dead.foldl (fun s o => s.finishOp o.id) s
  let s := match (s.slot i).alight with
    | some id => s.mapOp id fun o => { o with landed := 1 }
    | none => s
  let s := s.setSlot i { s.slot i with state := 3, board := none, alight := none }
  match s.slotSeat i with
  | some n => s.logEvent n 33 0 (s.oclk n) (BitVec.ofNat 64 i)
  | none => s

/-- One passage. `parity`: 0 none, 1 a transient error, 2 a lasting one. -/
def State.passage (s : State) (i core parity : Nat) : State :=
  if s.g % Config.revolution ≠ passPhase i core % Config.revolution then s
  else if parity = 0 ∧ s.agenda.any (fun e => e.1 == s.g && (e.2 == .ringPassage i core 1 || e.2 == .ringPassage i core 2)) then s
  else
    let s := if parity = 0 then s else { s with agenda := s.agenda.filter fun e => !(e.1 == s.g && e.2 == .ringPassage i core 0) }
    let s :=
      if parity = 2 then s.fenceSlot i
      else
        let s := if core = 0 then s.seamStep i else s
        if parity = 1 then
          match s.slotSeat i with
          | some n => s.logEvent n 6 core (s.oclk n) (BitVec.ofNat 64 i) Config.revolution
          | none => s
        else if (s.slotSeat i).any fun n => s.isFrozen n then s
        else
          let s := match s.pendingRing i core with
            | none => s
            | some o =>
              match ringOf o with
              | none => s
              | some (_, k) => if o.rel && s.writesBefore o.team o.gid o.id then s else (s.applyRing o i k).wakeReleases o.team o.gid
          s.evalArms i core
    if s.ringBusy i core then s.pokeRing i core (s.g + 1) else s

/-- RING_PASSAGE (R312). -/
def execRingPassage (s : State) : Out :=
  runEvent s fun
    | .ringPassage i core parity => some (s.passage i core parity)
    | _ => none
/-- RING_RESULT_WRITE (R314). -/
def execRingResultWrite (s : State) : Out :=
  runEvent s fun
    | .ringResultWrite id => some (s.ringResult id)
    | _ => none
/-- ALIGHT_WRITE_PERFORMED (R313). -/
def execAlightWritePerformed (s : State) : Out :=
  runEvent s fun
    | .alightWritePerformed i => some (s.alightDone i)
    | _ => none

/-! ### The words (R319-R323) -/

/-- The checks of a slot index: bounds, owner, fence (R310, R318, R319). -/
def slotTraps (s : State) (n : Nat) : List TrapReq :=
  if 576 ≤ n then [trapOf .accessFault]
  else (if s.seat.pl.dmap.getLsbD (n % 64) then [] else [trapOf .ringNotOwned]) ++ (if (s.slot n).state = 3 then [trapOf .memoryUncorrectable] else [])

/-- Place a ring operation of the word at hand: it reaches the station in the next cycle (R314); in portable mode it waits for
the commit (R397). A board is translated first (R320). -/
def State.queueRing (s : State) (o : Op) (i : Nat) (board : Bool) (keys : List Nat) : State :=
  let t := s.cur.team
  let id := s.nextOp
  let s := (s.launchOp { o with buffered := t.portable, active := 1, done := if board then 0 else 1, from_ := if board || t.portable then 0 else s.g + 1 }).pend id keys
  let s := if o.rel then s.onGroup fun g => { g with lastRel := id } else s
  let s := if o.isWrite then s.onGroup fun g => g.spendFence s.lanes else s
  if t.portable then s.onGroup fun g => { g with effects := g.effects ++ [id] }
  else if board then (s.translate id 1).checkOp id
  else s.pokeRing i t.core (s.g + 1)

/-- The frame of a ring word. -/
def ringWord (i : Instr) (a : SReg) (more : State → List TrapReq) (f : State → Nat → State) (s : State) : Out :=
  runWord i s fun s =>
    let n := (s.rS a).toNat
    match check (slotTraps s n ++ more s) with
    | .error t => .error t
    | .ok _ => .ok (f s n)
/-- The release order of a ring write; the next write after a release fence of a lane of the split is a release (R129, R137). -/
def State.ringRel (s : State) (rel : Bool) : Bool := rel || s.cur.group.fenceHolds s.lanes

/-- Payload word k of a board: half of a scalar of the block (R320). -/
def boardPayload (s : State) (d : SReg) : List W32 :=
  (List.range 8).map fun k => if k % 2 = 0 then lo32 (s.rS (d.val + 1 + k / 2)) else hi32 (s.rS (d.val + 1 + k / 2))

/-- sg.board (R320). -/
def execSgBoard (d a : SReg) (s : State) : Out :=
  ringWord (.sgBoard d a) a
    (fun s =>
      let h := (s.rS d).toNat
      need (h % 32 == 0) .misaligned ++ need (canonical h && !((s.placeNow s.cur.team h).any Phys.isPeer)) .accessFault)
    (fun s n =>
      let h := (s.rS d).toNat
      s.queueRing { blankOp (.ring n (.board h (.dev 0) (boardPayload s d))) with
        count := .loads, dest := .scal d, addr := SMap.set 0 [] 0 h } n true (destKeys (.scal d))) s
/-- sg.alight: a ring operation of order rel (R319, R321). -/
def execSgAlight (d a : SReg) (s : State) : Out :=
  ringWord (.sgAlight d a) a (fun _ => [])
    (fun s n => s.queueRing { blankOp (.ring n .alight) with count := .stores, dest := .scal d, rel := true } n false (destKeys (.scal d))) s
/-- sg.cap (R321). -/
def execSgCap (d a : SReg) (acq : Bool) (s : State) : Out :=
  ringWord (.sgCap d a acq) a (fun _ => [])
    (fun s n => s.queueRing { blankOp (.ring n (.cap acq)) with count := .loads, dest := .scal d, acq := acq } n false
      ((block d.val 5).filter fun k => k != 0)) s
/-- sg.mod (R321, R323). -/
def execSgMod (d a : SReg) (p : ModOp) (w : Fin 8) (r : Ord) (s : State) : Out :=
  ringWord (.sgMod d a p w r) a
    (fun s => need (!(s.cur.team.portable && (p == .xchg32 || p == .cas32 || p == .addF32))) .ringOpForbidden)
    (fun s n => s.queueRing { blankOp (.ring n (.mod p w (lo32 (s.rS d)) (hi32 (s.rS d)))) with
      count := .loads, dest := .scal d, acq := ordAcq r, rel := s.ringRel (ordRel r) } n false (destKeys (.scal d))) s
/-- sg.rev (R321). -/
def execSgRev (d a : SReg) (s : State) : Out :=
  ringWord (.sgRev d a) a (fun _ => [])
    (fun s n => s.queueRing { blankOp (.ring n .probe) with count := .loads, dest := .scal d } n false (destKeys (.scal d))) s
/-- sg.rev.ofs (R321). -/
def execSgRevOfs (d : SReg) (s : State) : Out :=
  runPure (.sgRevOfs d) s fun s => s.wS d (BitVec.ofNat 64 (s.seat.rho s.g))

/-- An arm of a word: the object's ARMED becomes 1 in an update that completes no phase, and the arm is registered at the
station in the next cycle (R316, R322). -/
def State.addArm (s : State) (o : Op) (i : Nat) (p : ArmCmp) (w : Nat) (x : W32) (off : Nat) : State :=
  let s := (s.settleLocal o.team o.gid o.id .scratch [(off, 16)]).anyTeam o.team fun t =>
    let b := readBar t.scratch off
    { t.clearMarks .scratch [(off, 16)] with scratch := writeBar t.scratch off (if b.armed then b else { b with low := b.low + 8 }) }
  let a : Arm := { id := o.id, seat := o.seat, core := o.core, slot := i, w := w, cmp := p, x := x, team := o.team, gid := o.gid, off := off, word := o.word, pkt := o.pkt, pslot := o.slot, from_ := s.g + 1 }
  ({ s with arms := s.arms ++ [a] }).pokeRing i o.core (s.g + 1)
/-- Reserved fields of the scalars of an sg.arm are not zero (R322). -/
def armReserved (s : State) (d : SReg) : Bool := fld (s.rS d).toNat 63 20 != 0 || fld (s.rS (d.val + 1)).toNat 63 32 != 0
/-- sg.arm (R322). -/
def execSgArm (d a : SReg) (p : ArmCmp) (w : Fin 8) (s : State) : Out :=
  ringWord (.sgArm d a p w) a
    (fun s =>
      let off := fld (s.rS d).toNat 19 0
      (if armReserved s d then [illegal 3] else [])
        ++ objectTraps s off true ++ need (!(s.bar off).armed) .accessFault)
    (fun s n =>
      let c := s.cur
      let off := fld (s.rS d).toNat 19 0
      let x := lo32 (s.rS (d.val + 1))
      if c.team.portable then s.queueRing (blankOp (.ring n (.arm p w x off))) n false []
      else
        let o : Op := { blankOp .touch with id := s.nextOp, seat := c.team.seat, core := c.team.core, team := c.team.id, gid := c.group.gid, word := c.word, pkt := c.pkt, slot := c.slot }
        ({ s with nextOp := s.nextOp + 1 }).addArm o n p w x off) s

end Sys2Proof.Machine
end

