-- ==== Sys2Proof/Machine/Teams.lean ====
section
/-!
DEFINITION. Teams: their life from Pending to Ended (R36-R41, R51-R53, R75, R78, R79, R326), grids and their placement
(R37, R277, R328, R388, R389, R400), and the ends of groups, teams and grids (R50, R278).
-/

namespace Sys2Proof.Machine

open Sys2Proof

/-! ### What a team takes of its core -/

/-- States in which a team holds its resources. -/
def Team.holds (t : Team) : Bool :=
  match t.state with
  | .carving | .resident | .draining | .saving => true
  | _ => false
/-- Group slots of a team: those of its groups that have not been returned; of its kernel while it has none. -/
def Team.slotCount (t : Team) : Nat :=
  if t.groups = [] then t.kernel.roles.foldl (fun n r => n + r.groups) 0 else (t.groups.filter fun (g : Group) => !g.returned).length
/-- What the teams of a seat on a core hold of a resource. -/
def State.inUse (s : State) (seat core : Nat) (f : Team → Nat) : Nat :=
  ((s.teamsOn seat core).filter Team.holds).foldl (fun n t => n + f t) 0
/-- A team's needs other than register banks fit the seat's share (R40, R81). -/
def State.roomFor (s : State) (t : Team) (r : CoreRec) : Bool :=
  let fits (f : Team → Nat) (all : Nat) : Bool := decide (s.inUse t.seat t.core f + f t ≤ all)
  fits Team.slotCount r.gslot && fits (·.nscratch) r.spb && fits (·.nabuf) r.abu && fits (·.nwbuf) r.wbu && fits (·.nxbuf) r.xbu

/-- A group as it is released (R41): its id, role, allotment and entry. A descriptor whose entry is no multiple of 16 breaks no rule of
R168; its group enters at the packet that holds it (DESIGN CHOICE, log 135). -/
def freshGroup (gid role allot : Nat) (entry : W64) (scalars : List (Nat × W64)) : Group :=
  { gid := gid, role := role, allot := allot
    regs := scalars.foldl (fun r q => r.setS q.1 q.2) {}
    splits := [{ idx := 0, lanes := BitVec.allOnes 32, pkt := entry &&& ~~~15#64, slot := 0 }]
    banks := (List.range (allot / 8)).foldl (fun m b => SMap.set .absent m b .full) [] }
/-- The scalars a team's groups start with: parameter words, or a message's payload (R41, R279). -/
def Team.scalars (t : Team) : List (Nat × W64) :=
  match t.message with
  | some (a, b, c) => [(1, a), (2, b), (3, c)]
  | none => (List.range 8).map fun k => (k + 1, (t.params[k]?).getD 0)
/-- The groups of the roles, producers first (R39). -/
def roleGroups (scalars : List (Nat × W64)) : List Role → Nat → Nat → List Group
  | [], _, _ => []
  | r :: rs, role, gid =>
    (List.range r.groups).map (fun k => freshGroup (gid + k) role r.allot r.entry scalars) ++ roleGroups scalars rs (role + 1) (gid + r.groups)
/-- The groups of a team at release (R38, R39, R41). -/
def Team.newGroups (t : Team) : List Group := roleGroups t.scalars t.kernel.roles 0 0

/-- Take register banks for groups one after another; none where one cannot be served (R75, R79). An extended block granted while the
team was saved is held already, and does not move. -/
def State.takeAll (s : State) (t : Team) : List Group → Option State
  | [] => some s
  | g :: gs =>
    if g.ended then s.takeAll t gs
    else match s.takeBanks t.seat t.core t.kernel.detect (g.allot / 8) with
      | none => none
      | some m =>
        let s := s.mapGroup t.id g.gid fun g => { g with baseHeld := m }
        if g.hasExt && g.extHeld == [] then
          match s.takeBanks t.seat t.core t.kernel.detect 8 with
          | none => none
          | some e => (s.mapGroup t.id g.gid fun g => { g with extHeld := e }).takeAll t gs
        else s.takeAll t gs

/-- Ask that a pending queue be looked at in a cycle. -/
def State.pokeCarve (s : State) (seat core c : Nat) : State := s.once c (.teamCarving core seat)
/-- The team whose place in the queue is lowest. -/
def firstQueued : List Team → Option Team
  | [] => none
  | t :: ts =>
    match firstQueued ts with
    | none => some t
    | some u => if u.queued < t.queued then some u else some t
/-- A PREEMPT holds the team until its region is resumed (R392). -/
def State.heldBack (s : State) (t : Team) : Bool := t.region.chain.any fun r => s.preempted.contains r
/-- The head of a seat's pending queue on a core; teams that a PREEMPT holds are passed over (R51, R392). -/
def State.pendingHead (s : State) (seat core : Nat) : Option Team :=
  firstQueued ((s.teamsOn seat core).filter fun t => t.state == .pending && !s.heldBack t)

/-- %oclk at which a resident team's quantum expires (R52). -/
def Team.expiry (t : Team) : Nat := t.since + Config.quantum
/-- Teams that change state as one unit: those of a cluster (R51). -/
def Team.mates (t u : Team) : Bool := u.id == t.id || (t.cluster.isSome && u.grid == t.grid && u.cluster == t.cluster && u.halting.isNone)
/-- The unit of a team, the team among it (R51). -/
def State.unitOf (s : State) (t : Team) : List Team := s.teams.filter t.mates
/-- Resident teams that may be victims (R52, R393); a cluster only as a whole. -/
def State.mayVictim (s : State) (seat core : Nat) : List Team :=
  (s.teamsOn seat core).filter fun t => t.state == .resident && t.halting.isNone && (t :: s.unitOf t).all fun u => !u.noVictim
/-- Look for a victim when the next quantum expires (R52). -/
def State.pokeVictim (s : State) (seat core : Nat) : State :=
  (s.mayVictim seat core).foldl (fun s t => s.once (max s.g (s.g + t.expiry - s.oclk seat)) (.victimChoice core seat)) s

/-- The carving of a pending team with its resources taken, if they are free (R51, R75). -/
def State.tryCarve (s : State) (t : Team) : Option State :=
  match (s.findSeat t.seat).bind fun x => x.core? t.core with
  | none => none
  | some r =>
    if s.roomFor t r then
      let gs := if t.groups = [] then t.newGroups else t.groups
      let s := s.mapTeam t.id fun t => { t with groups := gs }
      (s.takeAll t gs).map fun s =>
        let n := if t.everResident then Config.saveCycles else Config.carveCycles
        (s.mapTeam t.id fun t => { t with state := .carving, since := s.g }).at (s.g + n) (.teamRelease t.id)
    else none
/-- The carving of every team of a unit, if all can be carved (R51). -/
def State.tryCarveAll (s : State) : List Team → Option State
  | [] => some s
  | t :: ts => (s.tryCarve t).bind fun s => s.tryCarveAll ts
/-- Victims are looked for on the cores of those teams of a unit that do not fit there (R52). -/
def State.pokeUnfit (s : State) (us : List Team) : State :=
  (us.filter fun u => (s.tryCarve u).isNone).foldl (fun s u => s.pokeVictim u.seat u.core) s
/-- TEAM_CARVING (R51): at most one team of a seat on a core in a cycle. A cluster is carved when each of its teams is at the head of
its queue and fits. -/
def State.carve (s : State) (core seat : Nat) : State :=
  match s.findSeat seat, s.pendingHead seat core with
  | some x, some t =>
    let us := s.unitOf t
    let busy (u : Team) : Bool := (s.teamsOn seat u.core).any fun v => v.state == .carving && v.since == s.g
    if !x.running then s
    else if us.any busy then s.pokeCarve seat core (s.g + 1)
    else if !(us.all fun u => (s.pendingHead seat u.core).any fun h => h.id == u.id) then s.pokeUnfit [t]
    else match s.tryCarveAll us with
      | some s => us.foldl (fun s u => if (s.pendingHead seat u.core).isSome then s.pokeCarve seat u.core (s.g + 1) else s) s
      | none => s.pokeUnfit us
  | _, _ => s

/-! ### Release and restore (R41, R79, R395) -/

/-- Teams that are released together: a cluster's, a twin and its primary (R41, R401). -/
def Team.together (t u : Team) : Bool :=
  u.grid == t.grid && ((u.index == t.index && u.grid != 0 && (u.twin.isSome || t.twin.isSome)) || (t.cluster.isSome && u.cluster == t.cluster) || u.id == t.id)
/-- Grids launched by a team that it awaits under a tag, before an age (R278). -/
def State.awaited (s : State) (team : Nat) (tag : Option Nat) (before : Nat) : List Grid :=
  s.grids.filter fun (g : Grid) => (match g.launcher with
    | .device n _ => n == team
    | _ => false) && (tag.isNone || tag == some g.tag) && decide (g.age < before)
/-- Splits blocked in join go on when nothing is awaited any more; splits blocked in launch issue it again (R276, R278). -/
def State.unblockJoins (s : State) (t : Team) : Team :=
  { t with groups := t.groups.map fun (g : Group) => g.onSplits fun (p : Split) =>
      match p.block with
      | .join tag before => if (s.awaited t.id tag before).isEmpty then { p with block := .free } else p
      | .launch => if t.portable then p else { p with block := .free }
      | _ => p }
/-- A restored portable team runs its quantum now; a group whose splits all wait stands at once (R396, R398). -/
def Team.unstand (t : Team) : Team :=
  { t with groups := t.groups.map fun (g : Group) => { g with
      standing := t.portable && !g.splits.isEmpty && g.splits.all fun (p : Split) => p.block != .free, paused := false } }
/-- Tiles whose bytes differ from their checksums after a restore (R79, R395). -/
def Team.badTiles (t : Team) : List Nat := (t.tilesIn.filter fun (y : Tile) => y.sums != tileSums y t.xbuf).map (·.id)
/-- MatrixLasting at the team's first group, naming the tile (R395). -/
def tileTrap (k : Nat) (t : Team) : Team :=
  match (t.groups.filter fun (g : Group) => !g.ended).head? with
  | none => t
  | some h => t.mapGroup h.gid fun g => { g with deferred := insertTrap { kind := .matrixLasting, word := BitVec.ofNat 32 k } g.deferred }

/-- A group with what its record holds (R79): check bits are made anew, and the marks of poison come back. -/
def Group.restored (r : SaveRecord) (g : Group) : Group :=
  match r.groups.find? fun (q : SavedGroup) => q.gid == g.gid with
  | some q => { g with
      regs := { s := q.scalars, v := q.regs, c := q.conds, nest := q.nest }, banks := q.map, poison := q.poison, parity := [], flips := [] }
  | none => g
/-- A team with what its save area holds (R79), which is then free. Its splits and its tiles by issue are those it left with, since nothing of
it issues while it is saved. -/
def Team.restored (t : Team) : Team :=
  match t.save with
  | some r => { t with
      save := none, groups := t.groups.map (Group.restored r), scratch := r.scratch, sbanks := r.sbanks, spoison := r.spoison, sflips := []
      abuf := r.abuf, wbuf := r.wbuf, xbuf := r.xbuf, tilesIn := r.tiles }
  | none => t
/-- What a restore checks of a team: its tiles (R79, R395). -/
def State.checkTiles (s : State) (team : Nat) : State := s.mapTeam team fun t => t.badTiles.foldl (fun t k => tileTrap k t) t
/-- The team becomes Resident (R41, R45, R51, R52): it may now be a victim for a head that does not fit, and a regroup point whose
groups have all arrived completes (R231). -/
def State.release (s : State) (t : Team) : State :=
  match s.findSeat t.seat with
  | none => s
  | some x =>
    let n := SMap.get 0 x.residency t.core
    let s := s.mapSeat t.seat fun x => { x with residency := SMap.set 0 x.residency t.core (n + 1) }
    let s := s.mapTeam t.id fun t =>
      let t := t.restored
      let u := { t with state := .resident, residency := n, since := s.oclk t.seat, everResident := true, code := { at_ := s.store }, record := if t.everResident then t.record else if t.mode.twin then t.groups else [], recTiles := if t.everResident then t.recTiles else t.tiles }
      if t.everResident then (s.unblockJoins u).unstand else u
    let s := s.checkTiles t.id
    t.arms.foldl (fun (s : State) (a : Arm) =>
      { s with arms := s.arms ++ [{ a with from_ := s.g }] }.pokeRing a.slot a.core s.g) ((s.nowDue t.arms).mapTeam t.id fun t => { t with arms := [] })
    |> fun s => if (s.pendingHead t.seat t.core).isSome then s.pokeVictim t.seat t.core else s
    |> fun s => if t.regroup.isSome then s.now (.regroupComplete t.id) else s
    |> fun s => (s.now (.parkWake t.id)).now (.waitResume t.id)
/-- TEAM_RELEASE (R41, R51): when every team released with it has been carved. -/
def State.endCarving (s : State) (id : Nat) : State :=
  match s.findTeam id with
  | none => s
  | some t =>
    if t.state ≠ .carving then s
    else if !s.runs t then s
    else
      let us := if t.everResident then s.unitOf t else s.teams.filter t.together
      let n := if t.everResident then Config.saveCycles else Config.carveCycles
      if us.all fun u => u.state == .carving && decide (u.since + n ≤ s.g) then us.foldl (fun s u => s.release u) s else s

/-! ### Draining, saving, parking (R51, R52, R78) -/

/-- The teams of a team's unit, in focus or not (R51). -/
def State.unitIds (s : State) (team : Nat) : List Nat :=
  match s.getTeam team with
  | some t => team :: ((s.teams.filter fun u => u.id != team && t.mates u).map (·.id))
  | none => [team]
/-- A team leaves the core's issue and drains, and with it the other teams of its cluster (R51). -/
def State.drain (s : State) (team : Nat) (park : Bool) : State :=
  (s.unitIds team).foldl (fun s k =>
    (s.anyTeam k fun t => if t.state = .resident then { t with state := .draining, parkAfter := park } else t).now (.drainComplete k)) s
/-- VICTIM_CHOICE (R52): while the head does not fit, the expired team whose residency began earliest drains. -/
def State.chooseVictim (s : State) (core seat : Nat) : State :=
  match s.pendingHead seat core with
  | none => s
  | some h =>
    if (s.tryCarve h).isSome then s.pokeCarve seat core s.g
    else
      let clk := s.oclk seat
      let l := sortBy (fun a b => decide (a.since < b.since ∨ (a.since = b.since ∧ a.index < b.index)))
        ((s.mayVictim seat core).filter fun t => decide (t.expiry ≤ clk))
      match l with
      | [] => s.pokeVictim seat core
      | t :: _ =>
        let s := s.drain t.id false
        if l.length ≤ 1 then s else s.once (s.g + 1) (.victimChoice core seat)

/-- The operations of a team that its drain waits for; an operation that waits for a handler's eret goes with the save. -/
def State.busyOps (s : State) (team : Nat) : List Op := s.ops.filter fun (o : Op) => o.team == team && !o.trapSent
/-- Every live group of a portable team stands with nothing buffered (R398). -/
def Team.committed (t : Team) : Bool := !t.portable || t.groups.all fun (g : Group) => g.ended || (g.standing && g.effects == [])
/-- The last end of a wake in progress. -/
def Team.wakeEnd (t : Team) : Nat :=
  (t.swakes ++ t.groups.flatMap (·.wakes)).foldl (fun n w => max n w.due) 0
/-- A count of single-bit errors: lanes of vector registers and counters, one for a scalar or a condition (R76). -/
def flipCount (m : SMap LaneMask) : Nat := m.foldl (fun n q => n + (if q.1 < 128 ∨ q.1 = markN then (lanesOf q.2).length else 1)) 0
/-- A group as its save reads it: a lane that a read would refuse is poisoned, in either mode; a single-bit error is corrected
(R76-R79). -/
def Group.saved (g : Group) : Group :=
  { g with poison := g.parity.foldl (fun m q => SMap.set 0 m q.1 (SMap.get 0 m q.1 ||| q.2)) g.poison, parity := [], flips := [] }
/-- The record of a group in the save area (R78): Off and absent banks take no space in it. -/
def Group.saveRecord (g : Group) : SavedGroup :=
  let live (b : Nat) : Bool := match SMap.get .absent g.banks b with
    | .full | .retain => true
    | _ => false
  { gid := g.gid, map := g.banks, splits := g.allSplits, nest := g.regs.nest, conds := g.regs.c, scalars := g.regs.s
    regs := g.regs.v.filter fun q => live (q.1 / 256), poison := g.poison }
/-- A team's save area (R78). -/
def Team.saveRecord (t : Team) : SaveRecord :=
  { groups := t.groups.map Group.saveRecord, scratch := t.scratch, sbanks := t.sbanks, spoison := t.spoison, abuf := t.abuf, wbuf := t.wbuf
    xbuf := t.xbuf, tiles := t.tilesIn }
/-- What a save leaves of a team (R78), and the count of what it corrects (R76). -/
def State.saveImage (s : State) (t : Team) : State :=
  let n := t.groups.foldl (fun n (g : Group) => n + flipCount g.flips) t.sflips.length
  { s with corrected := SMap.set 0 s.corrected t.core (SMap.get 0 s.corrected t.core + n) }.mapTeam t.id fun t =>
    let u := { t with sflips := [], groups := t.groups.map Group.saved }
    { u with save := some u.saveRecord }
/-- The save of a team begins; its arms are withdrawn (R51, R78, R317). -/
def State.beginSave (s : State) (t : Team) : State :=
  let mine := s.arms.filter fun (a : Arm) => a.team == t.id
  let s := { s with
    arms := s.arms.filter fun (a : Arm) => a.team != t.id, freedArms := s.freedArms ++ mine.map fun _ => (t.core, t.seat) }.saveImage t
  (s.mapTeam t.id fun t => { t with state := .saving, arms := mine }).at (s.g + Config.saveCycles) (.saveComplete t.id)
/-- A draining unit whose work is complete on every core begins its save (R51, R78). -/
def State.trySave (s : State) (t : Team) : State :=
  let us := s.unitOf t
  let e := us.foldl (fun n u => max n u.wakeEnd) 0
  if !(us.all fun u => u.state == .draining && (s.busyOps u.id).isEmpty && u.committed) then s
  else if s.g < e then s.once e (.drainComplete t.id)
  else us.foldl (fun s u => s.beginSave u) s

/-- A team goes to the tail of its seat's pending queue on its core. -/
def State.enqueue (s : State) (id : Nat) : State :=
  let (n, s) := s.fresh
  match s.findTeam id with
  | none => s
  | some t => (s.mapTeam id fun t => { t with state := .pending, queued := n }).pokeCarve t.seat t.core s.g
/-- What a team holds returns to its seat's share: waiting eacq and the pending queue are looked at (R67, R51). -/
def State.pokeShare (s : State) (seat core : Nat) : State := (s.once (s.g + 1) (.eacqGrant core seat)).pokeCarve seat core s.g
/-- Return a team's register banks. -/
def Team.dropBanks (t : Team) : Team := { t with groups := t.groups.map fun (g : Group) => { g with baseHeld := [], extHeld := [] } }
/-- SAVE_COMPLETE (R51, R78). -/
def State.endSave (s : State) (id : Nat) : State :=
  match s.findTeam id with
  | none => s
  | some t =>
    if t.state ≠ .saving then s
    else
      let s := s.mapTeam id Team.dropBanks
      let s := if t.parkAfter then (s.mapTeam id fun t => { t with state := .parked, parkAfter := false }).now (.parkWake id) else s.enqueue id
      s.pokeShare t.seat t.core

/-! ### Regions (R367-R369) -/

/-- A field of a 64-byte record in device memory: bits [hi:lo] of the record at `a`. -/
def State.rec64 (s : State) (a hi lo : Nat) : Nat := fld (Memory.read s.mem a 64) hi lo
/-- The chain of a region up to its root, at most 8 records without a repeat. -/
def chainFrom (s : State) : Nat → Nat → List Nat → Option (List Nat)
  | 0, _, _ => none
  | n + 1, a, l =>
    if l.contains a then none
    else
      let p := s.rec64 a 511 448
      if p = 0 then some (l ++ [a]) else chainFrom s n p (l ++ [a])
/-- The reserved bits of an RCB are zero. -/
def rcbReserved (s : State) (a : Nat) : Bool := s.rec64 a 279 272 == 0 && s.rec64 a 269 262 == 0 && s.rec64 a 223 0 == 0
/-- The first record of a chain that overrides a field (bit 256 + k). -/
def overrider (s : State) (chain : List Nat) (k : Nat) : Nat :=
  (chain.find? fun a => s.rec64 a (256 + k) (256 + k) == 1).getD ((chain.getLast?).getD 0)
/-- The chain passes R369's checks for a seat: records, levels, address spaces, the root's override bits. Without a seat no ISO bit can
contradict one. -/
def chainLegal (s : State) (chain : List Nat) (seat : Option Nat) : Bool :=
  (chain.all fun a =>
    let r := Memory.read s.mem (s.asBase + 16 * s.rec64 a 295 286) 16
    rcbReserved s a && fld r 0 0 == 1 && seat.all fun n => fld r 1 1 == bit (decide (n ≠ 15)))
    && (match chain.getLast? with
      | some root => s.rec64 root 261 256 == 63
      | none => false)
/-- The effective region of an RCB for a seat (R369); none where it fails R369. -/
def State.regionOf (s : State) (rcb seat : Nat) : Option Region :=
  (chainFrom s 8 rcb []).bind fun chain =>
    if chainLegal s chain (some seat) then
      let at_ (k : Nat) : Nat := overrider s chain k
      let h := s.rec64 (at_ 0) 447 384
      some { rcb := rcb, asid := s.rec64 rcb 295 286, vf := s.rec64 rcb 285 280, handler := if h = 0 then none else some (BitVec.ofNat 64 h)
             cqRcb := at_ 1, cqBase := s.rec64 (at_ 1) 383 320, cqLog := s.rec64 (at_ 1) 319 316, gridRcb := at_ 2, maxGrids := s.rec64 (at_ 2) 315 300
             prio := s.rec64 (at_ 3) 299 296, env := s.rec64 (at_ 4) 270 270 == 1, kgrid := s.rec64 (at_ 5) 271 271 == 1, chain := chain }
    else none
/-- The region of a team's launch, with the values its chain gives now (R369, R276). -/
def State.launchRegion (s : State) (t : Team) : Region := (s.regionOf t.region.rcb t.seat).getD t.region

/-! ### Room in the pending pool (R276, R389) -/

/-- Delivered LAUNCHes that wait in place are looked at again: a record of the pool may be free (R383). -/
def State.pokeWaiting (s : State) : State :=
  (s.grids.filter fun (g : Grid) => g.delivered && !g.placed).foldl (fun (s : State) (g : Grid) => s.now (.launchDelivery g.id)) s
/-- Room for one more grid record of a seat and region (R276, R389). -/
def State.poolRoom (s : State) (seat : Nat) (r : Region) : Bool :=
  let held : List Grid := s.grids.filter fun (g : Grid) => g.placed && g.seat == seat
  (match s.findSeat seat with
    | some x => decide (held.length < x.pl.poolq)
    | none => false)
    && (r.maxGrids == 0 || decide ((s.grids.filter fun (g : Grid) => g.placed && g.region.gridRcb == r.gridRcb).length < r.maxGrids))
/-- Whether what a parked team waits for has come (R51, R276, R278). -/
def State.parkDone (s : State) (t : Team) : Bool :=
  t.groups.all fun (g : Group) => g.allSplits.all fun (p : Split) => match p.block with
    | .join tag before => (s.awaited t.id tag before).isEmpty
    | .launch => s.poolRoom t.seat (s.launchRegion t)
    | _ => true
/-- PARK_WAKE (R51): a cluster leaves when each of its teams may. A team that a PREEMPT met while it was carved is dealt with now that it is resident (R393). -/
def State.wakeParked (s : State) (id : Nat) : State :=
  match s.findTeam id with
  | none => s
  | some t =>
    if t.state == .resident && t.parkAfter then s.drain id true
    else if t.state == .resident && t.discard then s.now (.teamEnd id)
    else
      let us := s.unitOf t
      if t.state == .parked && !s.heldBack t && us.all fun u => u.state == .parked && s.parkDone u then us.foldl (fun s u => s.enqueue u.id) s
      else s

/-! ### Ends (R50, R278, R347) -/

/-- A team that restarts: as it was before its first release (R394). -/
def Team.restart (t : Team) : Team :=
  { t with
    groups := [], everResident := false, discard := false, scratch := [], sbanks := [], swakes := [], abuf := [], wbuf := []
    xbuf := [], xbufWas := none, spoison := [], sflips := [], tiles := [], tilesIn := [], code := {}, regroup := none, arms := []
    noVictim := false, parkAfter := false, save := none }
/-- Withdraw a team's arms: each frees its table entry from the next cycle (R314, R317). -/
def State.withdrawArms (s : State) (id : Nat) : State :=
  { s with
    arms := s.arms.filter fun (a : Arm) => a.team != id
    freedArms := s.freedArms ++ (s.arms.filter fun (a : Arm) => a.team == id).map fun a => (a.core, a.seat) }
/-- A team ends: its record, its twin's and its arms go, its resources return, its grid counts one team less (R50). -/
def State.endTeam (s : State) (t : Team) : State :=
  let s := s.withdrawArms t.id
  let twins := s.teams.filter fun (u : Team) => u.twin == some t.id
  let s := { s with teams := s.teams.filter fun (u : Team) => u.id != t.id && u.twin != some t.id }
  let s := { s with grids := s.grids.map fun (g : Grid) => if g.id = t.grid then { g with teamsLeft := g.teamsLeft - 1 } else g }
  let s := (t :: twins).foldl (fun s u => s.pokeShare u.seat u.core) s
  let s := if t.portable then s.pokeCommit t.grid else s
  if (s.grids.any fun (g : Grid) => g.id == t.grid && g.teamsLeft == 0) then s.now (.gridEnd t.grid) else s
/-- An entry of the operand log is discarded (R340, R347): the lanes on their way complete, and the others are not performed. The reads of a
launch place no grid then. -/
def State.dropEntry (s : State) (o : Op) : State :=
  let fly := o.walking ||| s.inFlight o.id
  let launch : Option Nat := match o.kind with
    | .launchRead n _ _ => some n
    | _ => none
  let s := s.mapSeat o.seat fun x => { x with waits := x.waits.filter fun (w : Charged) => w.owner != FaultOwner.op o.id || w.event != 1 }
  let s := { s with faults := s.faults.filter fun (f : FaultRec) => f.owner != FaultOwner.op o.id }
  if launch.isNone && (fly != 0 || o.pending != 0) then
    s.mapOp o.id fun o => { o with
      active := o.done ||| fly, logged := 0, refused := 0, unres := 0, faulted := 0, bad := none, inLog := false, noEntry := false, owed := false, trapSent := false }
  else
    { s with
      ops := s.ops.filter fun (p : Op) => p.id != o.id
      reqs := s.reqs.filter fun (r : Req) => !(launch.isSome && r.owner == o.id && r.kind == .load)
      grids := s.grids.filter fun (g : Grid) => launch != some g.id }
/-- A halted team drops its operand log (R340, R347). A discarded one completes what it began (R394), but for an entry that waits for its
handler, which issues nothing more. -/
def State.dropLog (s : State) (id : Nat) (halted : Bool) : State :=
  let dead := s.ops.filter fun (o : Op) => o.team == id
    && (if halted then o.inLog || o.noEntry || o.logged != 0 || o.trapSent else o.trapSent && o.pending == 0 && o.walking == 0)
  let s := dead.foldl (fun (s : State) (o : Op) => s.dropEntry o) s
  let s := dead.foldl (fun (s : State) (o : Op) => s.releaseHeld o.team o.gid) s
  if dead = [] then s else s.pokeWaiting
/-- TEAM_END (R50, R51, R347, R394): all groups have ended and their operations are complete, those of a cluster in all its teams; or
the team was stopped and its operations are complete; the teams of a discarded cluster restart together. A portable team that ended itself waits for the commit (R397). -/
def State.tryEnd (s : State) (id : Nat) : State :=
  match s.findTeam id with
  | none => s
  | some t =>
    if t.discard && t.state == .carving then s
    else if t.halting.isSome || t.discard then
      let s := s.dropLog id t.halting.isSome
      if t.halting.isSome && t.portable then s.pokeCommit t.grid
      else if s.ops.any fun (o : Op) => o.team == id then s
      else if t.halting.isSome then s.endTeam t
      else
        let us := s.unitOf t
        if us.all fun u => u.discard && !(s.ops.any fun (o : Op) => o.team == u.id) then
          us.foldl (fun s u => (((s.withdrawArms u.id).mapTeam u.id Team.restart).enqueue u.id).pokeShare u.seat u.core) s
        else s
    else
      let us := s.unitOf t
      if !t.portable && us.all fun u => u.twin.isNone && u.groups != [] && u.groups.all (·.returned) then us.foldl (fun s u => s.endTeam u) s
      else s
/-- GROUP_END (R50): resources return in the cycle after the group's last operation. -/
def State.tryEndGroup (s : State) (id gid : Nat) : State :=
  match s.findTeam id with
  | none => s
  | some t =>
    match t.findGroup gid with
    | none => s
    | some g =>
      if g.ended && !g.returned && !(s.ops.any fun (o : Op) => o.team == id && o.gid == gid) then
        let s := s.mapGroup id gid fun g => { g with returned := true, baseHeld := [], extHeld := [], hasExt := false }
        (s.pokeShare t.seat t.core).now (.teamEnd id)
      else s

/-- DRAIN_COMPLETE (R51): saving begins; a stopped team ends instead. -/
def State.drained (s : State) (id : Nat) : State :=
  match s.findTeam id with
  | none => s
  | some t =>
    if t.halting.isSome || t.discard then s.tryEnd id
    else if t.state = .draining then s.trySave t
    else s

/-! ### Grids (R37, R276, R277, R328, R388, R400) -/

/-- Cores of a seat's core set, ascending. -/
def Seat.coreList (x : Seat) : List Nat := x.pl.cores.map (·.core)
/-- The core `k` places after `c0` in the set, wrapping (R277). -/
def coreAfter (l : List Nat) (c0 k : Nat) : Nat := (l[((l.idxOf c0) + k) % max 1 l.length]?).getD c0

/-- The curve index of R400; `n` bits are walked from the highest. -/
def curveIndex (n : Nat) : Nat → Nat → Nat → Nat → Nat
  | 0, _, _, d => d
  | k + 1, x, y, d =>
    let s := 2 ^ k
    let rx := x / s % 2
    let ry := y / s % 2
    let d := d + s * s * (if rx = 0 then ry else if ry = 0 then 3 else 2)
    let (x, y) := if ry = 0 then (if rx = 1 then (n - 1 - y, n - 1 - x) else (y, x)) else (x, y)
    curveIndex n k x y d
/-- log2 of the smallest power of two at least `a` and `b`. -/
def curveBits (a b : Nat) : Nat := ((List.range 17).find? fun k => decide (a ≤ 2 ^ k ∧ b ≤ 2 ^ k)).getD 16
/-- The curve rank of grid point (x, y, z) (R400). -/
def curveRank (gx gy x y z : Nat) : Nat :=
  let k := curveBits gx gy
  let me := curveIndex (2 ^ k) k x y 0
  z * gx * gy + ((List.range gx).flatMap fun a => (List.range gy).filter fun b => decide (curveIndex (2 ^ k) k a b 0 < me)).length

/-- Where a grid's teams go. -/
inductive Spread where
  /-- host launches: the i-th core of the set (R328, R388) -/
  | host
  /-- device launches: from the launching core (R277) -/
  | device (core : Nat)
  deriving DecidableEq, Repr

/-- The position of team `i` in its grid: grid point, rank in its cluster, index within the cluster. -/
structure TeamPos where
  pt : Nat × Nat × Nat
  rank : Nat
  inner : Nat × Nat × Nat
  point : Nat
  deriving DecidableEq, Repr

def teamPos (g : Grid) (i : Nat) : TeamPos :=
  let size := match g.shape with
    | some (a, b, c) => a * b * c
    | none => 1
  let p := i / size
  let r := i % size
  let pt := (p % g.gx, p / g.gx % g.gy, p / (g.gx * g.gy))
  match g.shape with
  | some (a, b, _) => { pt := pt, rank := r, inner := (r % a, r / a % b, r / (a * b)), point := p }
  | none => { pt := pt, rank := 0, inner := pt, point := p }

/-- Teams of a grid. -/
def Grid.size (g : Grid) : Nat := g.gx * g.gy * g.gz * (match g.shape with
  | some (a, b, c) => a * b * c
  | none => 1)
/-- Teams of a cluster; 1 without clusters. -/
def Grid.clusterSize (g : Grid) : Nat := match g.shape with
  | some (a, b, c) => a * b * c
  | none => 1

/-- The team of linear index `i`. In portable mode the cluster of rank r begins at the (r mod m)-th core and takes consecutive ones (R400). -/
def gridTeam (x : Seat) (g : Grid) (spread : Spread) (i : Nat) : Team :=
  let p := teamPos g i
  let l := x.coreList
  let rank := curveRank g.gx g.gy p.pt.1 p.pt.2.1 p.pt.2.2
  let core := if g.mode.port then coreAfter l ((l.head?).getD 0) (rank + p.rank)
    else match spread with
      | .host => coreAfter l ((l.head?).getD 0) i
      | .device c => coreAfter l c i
  { grid := g.id, seat := g.seat, core := core, vf := g.region.vf, x := p.inner.1, y := p.inner.2.1, z := p.inner.2.2, index := i, rank := p.rank
    cluster := if g.shape.isSome then some p.point else none, cx := p.pt.1, cy := p.pt.2.1, cz := p.pt.2.2, gridNumber := g.number
    curve := 8 * rank + p.rank, region := g.region, mode := g.mode, kernel := g.kernel, params := g.params
    nscratch := g.kernel.scratch, nabuf := g.kernel.abuf, nwbuf := g.kernel.wbuf, nxbuf := g.kernel.xbuf, extents := g.extents, declared := g.declared }

/-- Put a new team into its pending queue. -/
def State.addTeam (s : State) (t : Team) : State :=
  let (id, s) := s.fresh
  ({ s with teams := insertTeam { t with id := id } s.teams }).enqueue id
/-- All teams of a grid join their pending queues, in index order; a TWIN grid's twins on the next core (R401). What the loads of a portable
grid's first quantum find is the memory as it stands then (R398, log 137). -/
def State.startGrid (s : State) (id : Nat) (spread : Spread) : State :=
  match s.grids.find? fun (g : Grid) => g.id == id with
  | none => s
  | some g =>
    match s.findSeat g.seat with
    | none => s
    | some x =>
      let s := { s with grids := s.grids.map fun (h : Grid) => if h.id = id then { h with teamsLeft := g.size, ready := true, image := if g.mode.port then s.store else {} } else h }
      (List.range g.size).foldl (fun s i =>
        let t := gridTeam x g spread i
        let me := s.nextId
        let s := s.addTeam t
        if g.mode.twin then s.addTeam { t with core := coreAfter x.coreList t.core 1, twin := some me } else s) s

/-- Count a grid record of the seated function: its number (R60). -/
def State.countGrid (s : State) (seat vf : Nat) : W32 × State :=
  match (s.findSeat seat).bind fun x => x.fns.find? fun (f : FnRec) => f.vf == vf with
  | none => (0, s.mapSeat seat fun x => { x with fns := x.fns ++ [{ vf := vf, grids := 1 }] })
  | some f => (f.grids, s.mapSeat seat fun x => { x with fns := x.fns.map fun (f : FnRec) => if f.vf = vf then { f with grids := f.grids + 1 } else f })

/-- The grid's record is freed: a parent that joins, teams parked for pool room are looked at (R51, R276, R278). -/
def State.dropGrid (s : State) (id : Nat) : State :=
  match s.grids.find? fun (g : Grid) => g.id == id with
  | none => s
  | some g =>
    let s := { s with grids := s.grids.filter fun (h : Grid) => h.id != id }.pokeWaiting
    (s.teams.filter fun (t : Team) => t.state == .parked && t.seat == g.seat).foldl (fun s t => s.once s.g (.parkWake t.id)) s

/-! ### The rows of the table -/

/-- TEAM_CARVING (R51). -/
def execTeamCarving (s : State) : Out :=
  runEvent s fun
    | .teamCarving core seat => some (s.carve core seat)
    | _ => none
/-- TEAM_RELEASE (R41). -/
def execTeamRelease (s : State) : Out :=
  runEvent s fun
    | .teamRelease id => some (s.endCarving id)
    | _ => none
/-- VICTIM_CHOICE (R52). -/
def execVictimChoice (s : State) : Out :=
  runEvent s fun
    | .victimChoice core seat => some (s.chooseVictim core seat)
    | _ => none
/-- DRAIN_COMPLETE (R51). -/
def execDrainComplete (s : State) : Out :=
  runEvent s fun
    | .drainComplete id => some (s.drained id)
    | _ => none
/-- SAVE_COMPLETE (R78). -/
def execSaveComplete (s : State) : Out :=
  runEvent s fun
    | .saveComplete id => some (s.endSave id)
    | _ => none
/-- PARK_WAKE (R51). -/
def execParkWake (s : State) : Out :=
  runEvent s fun
    | .parkWake id => some (s.wakeParked id)
    | _ => none
/-- GROUP_END (R50). -/
def execGroupEnd (s : State) : Out :=
  runEvent s fun
    | .groupEnd id gid => some (s.tryEndGroup id gid)
    | _ => none
/-- TEAM_END (R50). -/
def execTeamEnd (s : State) : Out :=
  runEvent s fun
    | .teamEnd id => some (s.tryEnd id)
    | _ => none

end Sys2Proof.Machine
end

