-- ==== Sys2Proof/Machine/Launch.lean ====
section
/-!
DEFINITION. Extent tables (R359, R360), launches from the device (R275-R277), joins (R278), active messages (R279) and
regrouping (R56, R57, R230, R231).
-/

namespace Sys2Proof.Machine

open Sys2Proof

/-! ### Building an extent table (R359, R360) -/

/-- What a build gives. -/
inductive Built where
  | ok (records : List Extent)
  /-- refused with a completion status -/
  | refused (status : Nat)
  /-- a page is absent -/
  | fault (va : Nat) (write : Bool)
  deriving DecidableEq, Repr

/-- The declared ranges of a kernel over its parameter words (R170). -/
def declaredOf (k : Kernel) (params : List W64) : List Declared :=
  let q (n : Nat) : Nat := ((params[n]?).getD 0).toNat
  k.extents.map fun e => { base := q e.1, rw := e.2.2, len := match e.2.1 with
    | .inl n => n
    | .inr w => q w }
/-- The number of the last page of a range that is not empty. -/
def Declared.lastPage (d : Declared) : Nat := (d.base + d.len - 1) / 4096
/-- Every byte of a range is canonical and the range does not pass its half (R360). -/
def Declared.canonicalAll (d : Declared) : Bool :=
  d.len == 0 || (canonical d.base && canonical ((d.base + d.len - 1 : Nat) : Int) && (decide (d.base < 2 ^ 63) == decide (d.base + d.len - 1 < 2 ^ 63)))
/-- The pages of a range, widened to page boundaries. -/
def Declared.pages (d : Declared) : List Nat :=
  if d.len = 0 then [] else (List.range (d.lastPage - d.base / 4096 + 1)).map (d.base / 4096 + ·)
/-- A range covers part of a page. -/
def Declared.covers (d : Declared) (p : Nat) : Bool := d.len != 0 && decide (d.base / 4096 ≤ p) && decide (p ≤ d.lastPage)

/-- The record of one page, or why the build stops (R359, R360). -/
def State.buildPage (s : State) (asid : Nat) (ds : List Declared) (p : Nat) : Built :=
  let rw := (ds.filter fun (d : Declared) => d.covers p).any (·.rw)
  match s.walkNow asid (4096 * p) with
  | .leaf level w _ =>
    if leafBit w 54 then .refused 3
    else if rw && !leafBit w 3 then .refused 4
    else .ok [{ vbase := 4096 * p, pbase := (leafPlace level w (4096 * p)).addr, len := 4096, ord := leafOrd w, com := leafBit w 8, w := rw, r := leafBit w 2 }]
  | .absent _ _ _ => .fault (4096 * p) rw
  | _ => .refused 12
/-- Join a page's record to the runs so far; pages that differ in R keep records of their own (R359, log 109). -/
def joinRun (es : List Extent) (e : Extent) : List Extent :=
  match es.getLast? with
  | some f =>
    if f.vbase + f.len = e.vbase ∧ f.pbase + f.len = e.pbase ∧ f.ord = e.ord ∧ f.com = e.com ∧ f.w = e.w ∧ f.r = e.r then
      es.dropLast ++ [{ f with len := f.len + e.len }]
    else es ++ [e]
  | none => [e]
/-- The records of pages in ascending order. -/
def State.buildPages (s : State) (asid : Nat) (ds : List Declared) : List Nat → List Extent → Built
  | [], es => if 64 < es.length then .refused 5 else .ok es
  | p :: ps, es =>
    match s.buildPage asid ds p with
    | .ok [e] => s.buildPages asid ds ps (joinRun es e)
    | b => b
/-- The extent table of a grid (R359, R360). -/
def State.buildExtents (s : State) (asid : Nat) (ds : List Declared) : Built :=
  if ds.all Declared.canonicalAll then s.buildPages asid ds (distinct (ds.flatMap Declared.pages)) [] else .refused 11

/-! ### Regions (R367-R369) -/

/-- The seat a function belongs to: the one whose quantum table names it (R377). -/
def State.seatOfVf (s : State) (vf : Nat) : Option Seat := s.seats.find? fun (x : Seat) => x.qtab.any fun (e : QuantumEntry) => e.vf == vf
/-- The RCB passes R369's checks, for its function's seat where that is admitted (R376). -/
def State.regionSound (s : State) (rcb : Nat) : Bool :=
  (chainFrom s 8 rcb []).any fun chain => chainLegal s chain ((s.seatOfVf (s.rec64 rcb 285 280)).map fun (x : Seat) => x.num)
/-- The effective run mode of a region: the record of the nearest region of its chain that has one (R391). -/
def State.modeOf (s : State) (chain : List Nat) : RunMode :=
  match (chain.findSome? fun a => (s.runModes.find? fun r => r.1 == a).map (·.2)) with
  | some w => { est := fld w.toNat 63 32, qlog := fld w.toNat 24 20, twin := w.getLsbD 2, port := w.getLsbD 1, rst := w.getLsbD 0 }
  | none => {}

/-! ### Grid records (R275, R276, R328) -/

/-- gx, gy, gz and the cluster shape of an EXT word (R275). -/
def extOf (w : W64) : Nat × Nat × Nat × Option (Nat × Nat × Nat) :=
  let n := w.toNat
  (fld n 15 0, fld n 31 16, fld n 47 32, if fld n 57 57 = 1 then some (fld n 50 48 + 1, fld n 53 51 + 1, fld n 56 54 + 1) else none)
/-- Members of a cluster. -/
def shapeSize : Option (Nat × Nat × Nat) → Nat
  | some (a, b, c) => a * b * c
  | none => 1
/-- Reserved bits of an EXT word and of the word after it are zero. -/
def extReserved (w3 w4 : W64) : Bool :=
  fld w3.toNat 63 58 == 0 && (fld w3.toNat 57 57 == 1 || fld w3.toNat 56 48 == 0) && fld w4.toNat 63 16 == 0
/-- No extent is 0 and the cluster product is at most 8. -/
def extLegal (w : W64) : Bool :=
  let e := extOf w
  e.1 != 0 && e.2.1 != 0 && e.2.2.1 != 0 && decide (shapeSize e.2.2.2 ≤ 8)

/-- The checks of a launch at issue (R275). -/
def launchTraps (s : State) (d : SReg) : List TrapReq :=
  let w (k : Nat) : W64 := s.rS (d.val + k)
  (if extReserved (w 2) (w 3) then [] else [illegal 3])
    ++ need ((w 0).toNat % 64 == 0 && (w 1).toNat % 8 == 0) .misaligned
    ++ need (extLegal (w 2) && canonical (w 0).toNat && canonical (((w 0).toNat + Config.kernelBytes - 1 : Nat) : Int) && canonical (w 1).toNat && canonical (((w 1).toNat + 63 : Nat) : Int)) .accessFault

/-- Eight words as sixteen. -/
def halves32 (bs : List Byte) : List W32 := (List.range 16).map fun k => BitVec.ofNat 32 (wordOfBytes ((bs.drop (4 * k)).take 4))
/-- Parameter words of sixteen halves. -/
def wordsOf (l : List W32) : List W64 := (List.range 8).map fun k => pair64 ((l[2 * k + 1]?).getD 0) ((l[2 * k]?).getD 0)
/-- The parameter words of a launch: as its reads took them, in portable mode as the commit found them for the group (R276, R397, R398). -/
def Op.params (o : Op) : List W64 := if o.payload = [] then (List.range 8).map fun k => SMap.get 0 o.result (k + 1) else wordsOf o.payload
/-- The lanes of a launch's reads (R275): lane 0 the descriptor, lanes 1-8 the parameter words, lanes from 9 on the descriptor's
further pages. -/
def launchAddrs (kd pa : Nat) : SMap Nat :=
  (((descriptorPages kd).zipIdx 9).map fun q => (q.2, q.1)).foldl (fun m q => SMap.set 0 m q.1 q.2)
    ((List.range 8).foldl (fun m k => SMap.set 0 m (k + 1) (pa + 8 * k)) (SMap.set 0 [] 0 kd))
def launchLanes (kd : Nat) : LaneMask := maskOf fun L => decide (L < 9 + (descriptorPages kd).length)

/-- Place the record of a launching team's child (R276): its kernel and parameters follow when they have been read. A region that fails
R369 now has its launch refused then. -/
def State.placeRecord (s : State) (t : Team) (gid : Nat) (ext w4 : W64) (age : Nat) : Nat × State :=
  let (id, s) := s.fresh
  let (n, s) := s.countGrid t.seat t.vf
  let e := extOf ext
  let g : Grid := { id := id, number := n, seat := t.seat, region := s.launchRegion t, badRegion := (s.regionOf t.region.rcb t.seat).isNone, mode := t.mode, kernel := {}, params := [], gx := e.1, gy := e.2.1, gz := e.2.2.1, shape := e.2.2.2, tag := fld w4.toNat 15 0, launcher := .device t.id gid, age := age, placed := true }
  (id, { s with grids := s.grids ++ [g] })

/-- launch and launch.try (R276). Its reads translate at once, and set out when every older write of the group has performed (R423). In portable
mode the record waits for the commit (R397). -/
def State.launchWord (s : State) (d : SReg) (try_ : Bool) (cd : Nat) : State :=
  let t := s.cur.team
  let gid := s.cur.group.gid
  let w (k : Nat) : W64 := s.rS (d.val + k)
  let o : Op := { blankOp (.launchRead 0 try_ cd) with
    count := .loads, rel := true, threads := s.lanes, active := launchLanes (w 0).toNat, addr := launchAddrs (w 0).toNat (w 1).toNat, x := SMap.set 0 (SMap.set 0 [] 0 (w 2)) 1 (w 3) }
  let id := s.nextOp
  if t.portable then
    let o := { o with buffered := true }
    let s := (s.launchOp o).onGroup fun g => { g with effects := g.effects ++ [id] }
    if try_ then s.pend id [64 + cd] else s
  else if s.poolRoom t.seat (s.launchRegion t) then
    let (g, s) := s.placeRecord t gid (w 2) (w 3) id
    let (id, s) := s.placeOp { o with kind := .launchRead g try_ cd }
    let s := if try_ then s.pend id [64 + cd] else s
    (s.translate id o.active).checkOp id
  else if try_ then s.wC cd 0
  else ((s.goto s.cur.pkt s.cur.slot).block .launch).drain t.id true

/-- launch (R275, R276). -/
def execLaunch (d : SReg) (s : State) : Out :=
  runWord (.launch d) s fun s =>
    match check (launchTraps s d) with
    | .error t => .error t
    | .ok _ => .ok (s.launchWord d false 0)
/-- launch.try (R275, R276). -/
def execLaunchTry (d : SReg) (c : CReg) (s : State) : Out :=
  runWord (.launchTry d c) s fun s =>
    match check (launchTraps s d) with
    | .error t => .error t
    | .ok _ => .ok (s.launchWord d true c)

/-! ### The end of a launch's reads -/

/-- A completion for the launching region, of a build or a launch that was refused (R360). -/
def State.refuseGrid (s : State) (g : Grid) (status : Nat) : State :=
  (s.complete g.region (match g.launcher with
    | .host _ q _ _ => q
    | _ => 0) status (BitVec.ofNat 64 g.tag)).dropGrid g.id
/-- The launch's record is complete: launch.try answers, and the operation leaves. -/
def State.endLaunch (s : State) (o : Op) (try_ : Bool) (cd : Nat) : State :=
  let s := if try_ then s.anyGroup o.team o.gid fun g => g.landC o cd (allBits true) else s
  s.landOp o.id

/-- A launch whose reads have completed (R275, R276, R328, R360): into a region that fails R369 it is refused; a broken descriptor raises
AccessFault; else the table is built, and the child's teams are queued, or the grid is refused. Pages that firmware has to bring are one charged wait from the
launch's issue on (R21); the build goes on as each comes, and its outcome waits for that wait. -/
def State.settleLaunch (s : State) (id : Nat) : State :=
  match s.findOp id with
  | some o =>
    match o.kind, s.getTeam o.team with
    | .launchRead gr try_ cd, some _ =>
      if o.pending ≠ 0 ∨ o.walking ≠ 0 ∨ o.held ∨ o.buffered ∨ o.bad.isSome ∨ o.done ≠ o.active ∨ s.waitsOf o.seat (.op id) ≠ [] then s
      else
        match s.grids.find? fun (g : Grid) => g.id == gr, s.findSeat o.seat with
        | some g, some x =>
          let k := g.kernel
          if g.badRegion then (s.refuseGrid g 9).endLaunch o try_ cd
          else if !k.legal || (k.isolated && g.seat == 15) then ((s.dropGrid gr).defer o .accessFault).finishOp id
          else if x.coreList.length < shapeSize g.shape then (s.refuseGrid g 6).endLaunch o try_ cd
          else
            let ds := declaredOf k o.params
            let after (f : State → State) : State := match s.waitsOf o.seat (.build gr) with
              | [] => f s
              | ws => ws.foldl (fun (s : State) (w : Charged) => s.waitDone o.seat w.id s.g) s
            match s.buildExtents g.region.asid ds with
            | .ok es => after fun s =>
              let s := { s with grids := s.grids.map fun (h : Grid) => if h.id = gr then { h with params := o.params, extents := es, declared := ds } else h }
              (s.startGrid gr (.device o.core)).endLaunch o try_ cd
            | .refused st => after fun s => (s.refuseGrid g st).endLaunch o try_ cd
            | .fault va wr =>
              if s.faults.any fun (f : FaultRec) => f.owner == .build gr then s
              else
                let s := if o.landed = 1 then s else (s.chargeOp o (.build gr) 1 Config.chargeFault va).mapOp id fun o => { o with landed := 1 }
                s.recordFault o.seat g.region.asid va wr false (.build gr)
        | _, _ => s.finishOp id
    | _, _ => s
  | none => s
/-- The launch that builds a grid (R360). -/
def State.builder (s : State) (gr : Nat) : Option Op := s.ops.find? fun (o : Op) => match o.kind with
  | .launchRead n _ _ => n == gr
  | _ => false
/-- The build of a device's grid met a fault firmware cannot resolve (R360). -/
def State.refuseBuild (s : State) (id : Nat) : State :=
  match s.findOp id with
  | some o =>
    match o.kind with
    | .launchRead gr try_ cd =>
      match s.grids.find? fun (g : Grid) => g.id == gr with
      | some g => (s.refuseGrid g 12).endLaunch o try_ cd
      | none => s.finishOp id
    | _ => s
  | none => s

/-! ### Joins (R278) -/

/-- The split waits until nothing it awaits is left. -/
def joinWord (i : Instr) (tag : State → Option Nat) (s : State) : Out :=
  runPure i s fun s =>
    let t := s.cur.team
    if !t.portable && (s.awaited t.id (tag s) s.nextOp).isEmpty then s
    else
      let s := s.block (.join (tag s) s.nextOp)
      if t.portable then s else s.drain t.id true
/-- join (R278). -/
def execJoin (a : SReg) (s : State) : Out := joinWord (.join a) (fun s => some (fld (s.rS a).toNat 15 0)) s
/-- join.all (R278). -/
def execJoinAll (s : State) : Out := joinWord .joinAll (fun _ => none) s

/-- The doorbell count has reached a target (R278). -/
def doorReached (count target : W32) : Bool := decide ((count - target).toNat < 2 ^ 31)
/-- join.door: a charged wait on the seated function's count (R278, R381). -/
def execJoinDoor (a : SReg) (s : State) : Out :=
  runPure (.joinDoor a) s fun s =>
    let t := s.cur.team
    let x := lo32 (s.rS a)
    let w : Charged := { id := 0, event := 2, core := t.core, t0 := s.oclk t.seat, due := 0, owner := .fetch t.id s.cur.group.gid s.cur.split, door := some x, doneAt := if doorReached (SMap.get 0 s.doors t.vf) x then some s.g else none }
    let (id, s) := s.charge t.seat w Config.chargeDoor
    s.block (.door id)

/-! ### Active messages (R279) -/

/-- The address of a handler's kernel descriptor (R382). -/
def State.handlerAddr (s : State) (seat k : Nat) : Nat :=
  match s.findSeat seat with
  | some x => (Memory.read64 s.mem (x.pl.amtab + 8 * k)).toNat
  | none => 0
/-- Send a message that nothing holds: it crosses the mesh in positions of its seat, 8 + 2h cycles without waits (R54, R279). -/
def State.sendMessage (s : State) (id : Nat) : State :=
  match s.findOp id with
  | some o =>
    match o.kind with
    | .amsg core _ _ _ _ =>
      let w := way (o.core / 64) (o.core % 64) (core / 64) (core % 64)
      let (n, s) := s.fresh
      let r : Req := { id := n, owner := id, age := id, seat := o.seat, core := o.core, kind := .message, place := .dev 0, hops := lead 0 [(.router o.core, 6)] 0 w.1, arrive := s.g + 6, tail := w.2 + 2, sent := true }
      ({ s with reqs := s.reqs ++ [r] }.mapOp id fun o => { o with started := true }).schedule r
    | _ => s
  | none => s
/-- Messages a core's incoming queue of a seat holds, those on their way among them (R279). The spec does not say when a message leaves the
queue; in the model it stays until its handler team leaves Pending for the first time (DESIGN CHOICE, log 133). -/
def State.incoming (s : State) (seat core : Nat) : Nat :=
  (s.teams.filter fun (t : Team) => t.seat == seat && t.core == core && t.message.isSome && t.state == .pending && !t.everResident).length
    + (s.ops.filter fun (o : Op) => o.seat == seat && !o.buffered && match o.kind with
      | .amsg c _ _ _ _ => c == core
      | _ => false).length

/-- Reserved fields of the scalars of an amsg are not zero (R279). -/
def amsgReserved (s : State) (d : SReg) : Bool := fld (s.rS d).toNat 63 8 != 0 || fld (s.rS (d.val + 1)).toNat 63 6 != 0
/-- amsg (R279): a release of the group's writes; in portable mode it waits for the commit (R397). -/
def execAmsg (d : SReg) (s : State) : Out :=
  runWord (.amsg d) s fun s =>
    let t := s.cur.team
    let w (k : Nat) : W64 := s.rS (d.val + k)
    let core := fld (w 0).toNat 7 0
    let k := fld (w 1).toNat 5 0
    let inSet := match s.findSeat t.seat with
      | some x => (x.core? core).isSome
      | none => false
    match check ((if amsgReserved s d then [illegal 3] else [])
        ++ need (inSet && s.handlerAddr t.seat k != 0) .accessFault) with
    | .error e => .error e
    | .ok _ =>
      let o : Op := { blankOp (.amsg core k (w 2) (w 3) (BitVec.ofNat 64 (t.core + 256 * s.cur.group.gid))) with count := .stores, rel := true, active := 0 }
      let id := s.nextOp
      if t.portable then .ok ((s.launchOp { o with buffered := true }).onGroup fun g => { g with effects := g.effects ++ [id] })
      else
        let (id, s) := s.placeOp o
        match s.findOp id with
        | some o => .ok (if o.held then s else s.sendMessage id)
        | none => .ok s

/-- The handler team joins the pending queue of the target core: one group, of the first role where the handler's kernel has two, and no
declared ranges (R279, log 110, log 111). -/
def State.acceptMessage (s : State) (id : Nat) : State :=
  match s.findOp id with
  | some o =>
    match o.kind, s.getTeam o.team with
    | .amsg core k a b c, some t =>
      let s' := s.finishOp id
      match kernelIn (s.bytesNow t (s.handlerAddr o.seat k) Config.kernelBytes) with
      | none => s'
      | some kn =>
        let one := (kn.roles.take 1).map fun (r : Role) => { r with groups := 1 }
        let (gid, s) := s'.fresh
        s.addTeam { grid := gid, seat := o.seat, core := core, vf := t.vf, gridNumber := t.gridNumber, region := t.region, kernel := { kn with roles := one }, nscratch := kn.scratch, nabuf := kn.abuf, nwbuf := kn.wbuf, nxbuf := kn.xbuf, message := some (a, b, c), mode := { t.mode with port := false, twin := false } }
    | _, _ => s
  | none => s
/-- The row AMSG_ACCEPT (R279). -/
def execAmsgAccept (s : State) : Out :=
  runEvent s fun
    | .amsgAccept id => some (State.acceptMessage { s with reqs := s.reqs.filter fun (r : Req) => !(r.kind == ReqKind.message && r.owner == id) } id)
    | _ => none

/-! ### Regrouping (R56, R57, R230, R231) -/

/-- A vregrp of a group that a regroup point refuses: a lane nested, or another point, range or condition in progress (R56). -/
def regroupClash (s : State) (me : Regroup) : Bool :=
  (allLanes.any fun L => decide (1 ≤ (s.rN L).toNat ∧ (s.rN L).toNat ≤ 254))
    || (s.cur.team.regroup.isSome && s.cur.team.regroup != some me)
/-- vregrp: the group arrives at the point and blocks (R56, R231). -/
def execVregrp (f : VReg) (n : Fin 16) (c : CReg) (p : Fin 256) (s : State) : Out :=
  runWord (.vregrp f n c p) s fun s =>
    let me : Regroup := { point := p, first := f, count := n.val + 1, cond := c }
    if regroupClash s me then .error (illegal 13)
    else .ok ((((s.onTeam fun t => { t with regroup := some me }).goto (s.cur.pkt + 16) 0).block (.regroup (s.cur.pkt + 16))).now (.regroupComplete s.cur.team.id))

/-- The split waits at a regroup point. -/
def Split.atPoint (p : Split) : Bool :=
  match p.block with
  | .regroup _ => true
  | _ => false
/-- The packet at which it goes on: the one after its vregrp's, whatever transfer the unit made (R57, log 108). -/
def Split.afterPoint (p : Split) : W64 :=
  match p.block with
  | .regroup n => n
  | _ => p.pkt
/-- The group has arrived. -/
def Group.atPoint (g : Group) : Bool := g.splits != [] && g.splits.all Split.atPoint
/-- Last cycle in which a write of a range register of a group lands; none while an operation still has to write one. -/
def Group.writesEnd (g : Group) (first count : Nat) : Option Nat :=
  let mine (k : Nat) : Bool := decide (128 + first ≤ k ∧ k < 128 + first + count)
  if g.board.busy.any fun b => mine b.1 then none
  else some ((g.board.avail.filter fun a => mine a.1).foldl (fun n a => max n a.2) 0)
/-- Active lanes of groups, in order of (%gid, %lane). -/
def movers (gs : List Group) : List (Group × Nat) := gs.flatMap fun (g : Group) => (allLanes.filter fun L => g.regs.getN L == 0).map fun L => (g, L)
/-- A survivor after the move (R57): lane `L` takes the lane that `src` names. Its split may issue from the cycle after the completion;
the range and the condition are there after the latency of R54 (log 83). The condition is written last, over what a word in a higher slot
of the unit wrote (log 108). -/
def Group.regrouped (g : Group) (r : Regroup) (src : List (Group × Nat)) (cycle : Nat) : Group :=
  let ready := cycle + 24 + 4 * r.count
  let awake (n : Nat) : Nat := max ready (((g.waking (bankOf n)).map (·.due)).getD 0)
  let old := g.regs
  let regs := (List.range r.count).foldl (fun (rs : Regs) k => allLanes.foldl (fun (rs : Regs) L =>
    rs.setV (r.first + k) L (match src[L]? with
      | some (h, M) => h.regs.getV (r.first + k) M
      | none => 0)) rs) old
  let regs := allLanes.foldl (fun (rs : Regs) L => rs.setN L (if L < src.length then 0 else 255)) regs
  let cond := maskOf fun L => match src[L]? with
    | some (h, M) => !(h.gid == g.gid && M == L)
    | none => false
  let clear (m : SMap LaneMask) : SMap LaneMask := m.filter fun q => !(decide (r.first ≤ q.1 ∧ q.1 < r.first + r.count))
  { g with
    regs := regs, poison := clear g.poison, parity := clear g.parity, flips := clear g.flips
    board := { g.board with avail := (List.range r.count).foldl (fun a k => SMap.set 0 a (128 + r.first + k) (awake (r.first + k))) (SMap.set 0 g.board.avail (64 + r.cond) ready) }
    splits := (g.splits.take 1).map fun (p : Split) => { idx := p.idx, lanes := maskOf fun L => L < src.length, pkt := p.afterPoint, slot := 0, notBefore := cycle + 1 } : Group }.wC r.cond cond
/-- A group that the move leaves without lanes ends (R50, R57). -/
def Group.emptied (g : Group) : Group :=
  { g with splits := [], ended := true, regs := allLanes.foldl (fun (r : Regs) L => r.setN L 255) g.regs }

/-- A survivor's bank of the range that is not Full wakes (R68, R231). -/
def State.wakeRange (s : State) (team : Nat) (g : Group) (r : Regroup) : State :=
  (distinct ((List.range r.count).map fun k => bankOf (r.first + k))).foldl (fun (s : State) b =>
    let wake (n : Nat) : State := (s.mapGroup team g.gid fun h => h.startWake b .full s.g).at (s.g + n) (.bankWakeEnd team (some g.gid) b)
    match g.bank b, g.waking b with
    | .off, none => wake 48
    | .retain, none => wake 16
    | _, _ => s) s

/-- REGROUP_COMPLETE (R57, R231): all live groups have arrived and every write in flight to the range has landed. -/
def State.tryRegroup (s : State) (id : Nat) : State :=
  match s.findTeam id with
  | none => s
  | some t =>
    let live := t.groups.filter fun (g : Group) => !g.ended
    match t.regroup with
    | none => s
    | some r =>
      if live = [] then s.mapTeam id fun t => { t with regroup := none }
      else if !(live.all Group.atPoint) || t.state ≠ .resident && t.state ≠ .draining then s
      else if live.any fun (g : Group) => (g.writesEnd r.first r.count).isNone then s
      else
        let c := live.foldl (fun n (g : Group) => max n ((g.writesEnd r.first r.count).getD 0)) 0
        if s.g < c then s.once c (.regroupComplete id)
        else
          let all := movers live
          let keep := (all.length + 31) / 32
          let s := (live.take keep).foldl (fun (s : State) (g : Group) => s.wakeRange id g r) s
          let s := s.mapTeam id fun t => { t with
            regroup := none
            groups := t.groups.map fun (g : Group) => if g.ended then g else
              let k := live.findIdx fun (h : Group) => h.gid == g.gid
              if k < keep then g.regrouped r ((all.drop (32 * k)).take 32) s.g else g.emptied }
          (live.drop keep).foldl (fun (s : State) (g : Group) => s.at (s.g + 1) (.groupEnd id g.gid)) s
/-- The row REGROUP_COMPLETE (R57). -/
def execRegroupComplete (s : State) : Out :=
  runEvent s fun
    | .regroupComplete id => some (s.tryRegroup id)
    | _ => none

end Sys2Proof.Machine
end

