-- ==== Sys2Proof/Machine/Replies.lean ====
section
/-!
DEFINITION. What comes back: replies and acknowledgements (R54, R422), the end of walks (R353-R357), ATS (R365), fault service
(R358, R404-R406), charged waits, stops and resumption (R21-R23), the positions' own errors (R18, R403), held releases (R423)
and deferred traps (R338).
-/

namespace Sys2Proof.Machine

open Sys2Proof

/-! ### Replies (R54, R422) -/

/-- What an operation is. -/
def State.opKind (s : State) (id : Nat) : Option OpKind := (s.findOp id).map fun (o : Op) => o.kind
/-- An operation whose requests are looked at again: it completes, owes its trap, or settles its launch. -/
def State.settleOp (s : State) (id : Nat) : State :=
  match s.findOp id with
  | none => s
  | some o => ((s.checkOp id).settleLaunch id).releaseHeld o.team o.gid

/-- A request leaves, and its operation has one less on the way. -/
def State.retireReq (s : State) (r : Req) : State :=
  ((s.dropReq r.id).mapOp r.owner fun o => { o with pending := o.pending - 1 }).settleOp r.owner

/-- The end of a walk's read, of the entry that it took where it performed: the next entry is read, or the walk ends 4 cycles on (R353). -/
def State.walkReply (s : State) (r : Req) : State :=
  let s := s.dropReq r.id
  match s.findWalk r.owner with
  | none => s
  | some w =>
    match judge w.level w.entry r.va with
    | .table pa =>
      let w' := { w with level := w.level - 1, table := pa }
      (s.mapWalk w.id fun _ => w').readEntry w'
    | _ => s.at (s.g + 4) (.tlbWalkComplete w.id)

/-- A request that its peer refused is back: AccessFault at the sender (R413). -/
def State.refusedReply (s : State) (r : Req) : State :=
  match s.opKind r.owner with
  | some (.copy _) => (s.dropReq r.id).stopCopy r.owner .accessFault
  | _ => (s.refuse r.owner r.lanes).retireReq r

/-- LOAD_REPLY (R54, R262): the line enters L1 unless its page keeps it out (R101, R130, R425), and the access completes when its
last request does (R55). -/
def State.reply (s : State) (id : Nat) : State :=
  match s.findReq id with
  | none => s
  | some r =>
    let s := s.linkDone r
    if r.refused then s.refusedReply r
    else match r.kind with
    | .walk => s.walkReply r
    | .load =>
      let s := if r.place.isDev && !r.com && !r.strong && !r.inL1 then
          let (n, s) := s.fresh
          s.mapSeat r.seat fun x => x.fillL1 { at_ := r.core, line := r.place.lineNo, nt := r.hint == .nt, keep := r.hint == .keep, stamp := n }
        else s
      match s.opKind r.owner with
      | some (.copy _) => (s.dropReq id).pieceDone r.owner 1
      | _ => s.retireReq r
    | .atomic => s.retireReq r
    | _ => s.dropReq id
/-- STORE_ACKNOWLEDGE (R422). -/
def State.acknowledge (s : State) (id : Nat) : State :=
  match s.findReq id with
  | none => s
  | some r =>
    let s := s.linkDone r
    if r.refused then s.refusedReply r
    else match r.kind, s.opKind r.owner with
    | .store, some (.copy _) => s.dropReq id
    | .store, _ => s.retireReq r
    | _, _ => s.dropReq id
/-- A store performs (R422); the piece of a copy is then over. -/
def State.storePerformed (s : State) (id : Nat) : State :=
  match s.findReq id with
  | none => s
  | some r =>
    if r.performed then s
    else
      let s := s.perform r
      match r.kind, s.opKind r.owner with
      | .store, some (.copy _) => s.pieceDone r.owner 3
      | _, _ => s
/-- An atomic performs (R140); a request of a vmred is then over (R262). -/
def State.atomicPerformed (s : State) (id : Nat) : State :=
  match s.findReq id with
  | none => s
  | some r =>
    if r.performed then s
    else
      let s := s.perform r
      if (s.findOp r.owner).any fun (o : Op) => o.dest == .none then s.retireReq r else s
/-- LINE_RECALL (R422): the line has left the L1 part that owned it; the store takes the next position of its slice. -/
def State.recalled (s : State) (id : Nat) : State :=
  match s.findReq id with
  | none => s
  | some q =>
    let s := (s.dropReq id).mapSeat q.seat fun x => { x with l1 := x.l1.filter fun l => !(l.owned && l.line == q.place.lineNo) }
    match s.findReq q.owner with
    | none => s
    | some r => (s.mapReq r.id fun r => { r with sent := true, arrive := s.g }).schedule { r with arrive := s.g }

/-- LOAD_REPLY (R54). -/
def execLoadReply (s : State) : Out :=
  runEvent s fun
    | .loadReply id => some (s.reply id)
    | _ => none
/-- STORE_PERFORM (R422). -/
def execStorePerform (s : State) : Out :=
  runEvent s fun
    | .storePerform id => some (s.storePerformed id)
    | _ => none
/-- STORE_ACKNOWLEDGE (R422). -/
def execStoreAcknowledge (s : State) : Out :=
  runEvent s fun
    | .storeAcknowledge id => some (s.acknowledge id)
    | _ => none
/-- LINE_RECALL (R422). -/
def execLineRecall (s : State) : Out :=
  runEvent s fun
    | .lineRecall id => some (s.recalled id)
    | _ => none
/-- ATOMIC_PERFORM (R140). -/
def execAtomicPerform (s : State) : Out :=
  runEvent s fun
    | .atomicPerform id => some (s.atomicPerformed id)
    | _ => none
/-- SCRATCHPAD_ROW_SERVE (R85). -/
def execScratchpadRowServe (s : State) : Out :=
  runEvent s fun
    | .scratchpadRowServe id k => some (s.serveRows id k)
    | _ => none
/-- BUFFER_PORT_CYCLE (R87). -/
def execBufferPortCycle (s : State) : Out :=
  runEvent s fun
    | .bufferPortCycle id k => some (s.servePort id k)
    | _ => none

/-! ### Held operations (R423) -/

/-- The requests of an operation that have waited to be sent are sent from now on, on consecutive cycles (R55, R423). -/
def State.sendHeld (s : State) (id : Nat) : State :=
  ((s.reqs.filter fun (r : Req) => r.owner == id && !r.sent && r.hops == [] && (s.reqOp r).isSome).zipIdx).foldl (fun (s : State) (q : Req × Nat) =>
    let c := max q.1.arrive (s.g + q.2)
    let s := s.mapReq q.1.id fun r => { r with arrive := c }
    if c ≤ s.g then s else s.at c (.releaseApply id)) s
/-- RELEASE_APPLY: an operation that was held takes effect once every older write of its group has performed; of one that is not held,
requests that wait to be sent are looked at (R55). -/
def State.applyHeld (s : State) (id : Nat) : State :=
  match s.findOp id with
  | none => s
  | some o =>
    if !o.held then s.settleOp id
    else if (o.rel && s.writesBefore o.team o.gid id) || s.heldBehind o then s
    else
      let s := s.mapOp id fun o => { o with held := false }
      match o.kind with
      | .bar off u =>
        let s := s.settleLocal o.team o.gid id .scratch [(off, 16)]
        let s := match u, o.dest, s.getTeam o.team with
          | .test ph, .scal d, some t => s.anyGroup o.team o.gid fun g => g.landS o d (BitVec.ofNat 64 (bit ((readBar t.scratch off).completed ph)))
          | .phase, .scal d, some t => s.anyGroup o.team o.gid fun g => g.landS o d (BitVec.ofNat 64 (readBar t.scratch off).phase)
          | _, _, _ => s
        match s.barApply o.team off u with
        | (true, s) => (s.finishOp id).wakeReleases o.team o.gid
        | (false, s) => ((s.defer o .accessFault).finishOp id).wakeReleases o.team o.gid
      | .store sp _ | .atomic sp _ _ =>
        if sp = .global then (s.sendHeld id).settleOp id
        else if sp = .scratch then s.at (max s.g (o.issued + firstServe o.kind)) (.scratchpadRowServe id 0)
        else s.at (max s.g (o.issued + 10)) (.bufferPortCycle id 0)
      | .launchRead _ _ _ => (s.sendHeld id).settleOp id
      | .amsg _ _ _ _ _ => s.sendMessage id
      | _ => s
/-- RELEASE_APPLY (R423). -/
def execReleaseApply (s : State) : Out :=
  runEvent s fun
    | .releaseApply id => some (s.applyHeld id)
    | _ => none

/-! ### The end of a walk (R353-R357) -/

/-- The global address of a piece, and whether it is written. -/
def Copy.globalEnd (c : Copy) : Nat × Bool := if c.phase = 3 && c.to_ == .global then (c.ends.2, true) else (c.ends.1, false)
/-- The function seated on a seat. -/
def State.seatVf (s : State) (seat : Nat) : Nat :=
  match s.findSeat seat with
  | some x => x.vf
  | none => 0
/-- A charged wait of an alight's home write. -/
def State.chargeAlight (s : State) (i : Nat) (event c : Nat) (va : Nat) : State :=
  match ((s.slot i).writing).bind fun (w : Nat × Nat × Nat) => s.findOp w.1 with
  | none => s
  | some o =>
    if (s.homeWaits o.seat i).any fun (w : Charged) => w.event == event then s
    else (s.charge o.seat { id := 0, event := event, core := o.core, t0 := o.t0, due := 0, owner := .alight i, detail := BitVec.ofNat 64 va } c).2

/-- What a party of a walk asks of its page (R352). -/
def State.partyWant (s : State) (a : FaultOwner × LaneMask) : Want :=
  match a.1 with
  | .op id => ((s.findOp id).map fun (o : Op) => wantOf o.kind).getD .read
  | .piece id =>
    match s.opKind id with
    | some (.copy c) => if c.globalEnd.2 then .write else .read
    | _ => .read
  | .alight _ => .write
  | .queue _ _ => if s.walks.any fun (w : Walk) => w.write && w.waiters.any fun b => b.1 == a.1 then .write else .read
  | _ => .read
/-- The operation a party of a walk belongs to. -/
def State.partyOp (s : State) (a : FaultOwner × LaneMask) : Option Op :=
  match a.1 with
  | .op id | .piece id => s.findOp id
  | .alight i => ((s.slot i).writing).bind fun (q : Nat × Nat × Nat) => s.findOp q.1
  | _ => none
/-- A party of a walk is firmware's work on a submission queue (R382). -/
def FaultOwner.queue? : FaultOwner → Option (Nat × Nat)
  | .queue vf q => some (vf, q)
  | _ => none
/-- The leaf gives a party what it asks (R352); firmware's work on a queue is at supervisor level (log 87). -/
def State.partyMay (s : State) (leaf : W64) (a : FaultOwner × LaneMask) : Bool :=
  permits leaf (if a.1.queue?.isSome || (s.partyOp a).any fun (o : Op) => o.sup then .supervisor else .user) (s.partyWant a)
/-- The function whose access walks: the queue's, or that of its first party's team. -/
def State.walkVf (s : State) (w : Walk) : Nat :=
  match w.waiters.findSome? fun a => a.1.queue? with
  | some q => q.1
  | none => (((w.waiters.findSome? s.partyOp).bind fun (o : Op) => s.getTeam o.team).map fun (t : Team) => t.vf).getD (s.seatVf w.seat)

/-- A fault of a buffered operation is over: its wait's outside party has finished, and the commit is tried again (R397). -/
def State.bufferedOver (s : State) (o : Op) : State :=
  let ow : FaultOwner := match o.kind with
    | .copy _ => .piece o.id
    | _ => .op o.id
  let s := s.mapOp o.id fun o => { o with logged := 0, inLog := false, walking := 0 }
  let s := (s.waitsOf o.seat ow).foldl (fun (s : State) (w : Charged) => s.waitDone o.seat w.id s.g) s
  match s.getTeam o.team with
  | some t => s.pokeCommit t.grid
  | none => s
/-- A walk that a commit asked for has its answer: the operation keeps it until the commit is tried again (R353, R397). -/
def State.bufferedPage (s : State) (w : Walk) (o : Op) (vbase size : Nat) (leaf : W64) : State :=
  (s.mapOp o.id fun o => { o with pages := { core := w.core, asid := w.asid, vbase := vbase, size := size, leaf := leaf, leafAddr := 0, stamp := w.va } :: o.pages }).bufferedOver o
/-- An address of a page that a walk finds has been invalidated since the walk began (R357). -/
def Walk.meets (w : Walk) (vbase size : Nat) : Bool := w.drops.any (bytesMeet (vbase % 2 ^ 57, size))
/-- A party of a walk takes its leaf (R352); `place`: where the leaf maps an address; `fills`: its access is the one whose fill raises heat
(R354, log 61). -/
def State.takeLeaf (s : State) (w : Walk) (place : Nat → Phys) (leaf : W64) (level size : Nat) (a : FaultOwner × LaneMask) (fills : Bool) : State :=
  let page (va : Nat) : Page := { place := place va, ord := leafOrd leaf, com := leafBit leaf 8 }
  match (s.partyOp a).filter fun (o : Op) => o.buffered with
  | some o => if w.meets (w.va / size * size) size then s.bufferedOver o else s.bufferedPage w o (w.va / size * size) size leaf
  | none =>
  match a.1 with
  | .op id =>
    if leafBit leaf 55 then
      match s.findOp id with
      | some o => (s.sendLanes id ((lanesOf a.2).map fun L => (L, page (SMap.get 0 o.addr L))) w.asid (fun _ => true) w.id fills).settleOp id
      | none => s
    else (s.answerLanes id a.2 w.asid level leaf w.id fills).settleOp id
  | .piece id =>
    match s.findOp id with
    | some o =>
      match o.kind with
      | .copy c =>
        let e := c.globalEnd
        if permits leaf (if o.sup then .supervisor else .user) (if e.2 then .write else .read) then s.sendPiece o e.1 e.2 (page e.1) w.asid (!fills) w.id
        else s.stopCopy id .accessFault
      | _ => s
    | none => s
  | .alight i =>
    match ((s.slot i).writing).bind fun (q : Nat × Nat × Nat) => s.findOp q.1 with
    | some o =>
      if permits leaf (if o.sup then .supervisor else .user) .write then (if fills then s else s.countAccess o.seat o.core w.asid (homeVa (s.slot i).home) true).sendHome i o (homeVa (s.slot i).home) (page (homeVa (s.slot i).home))
      else s.refuseHome i .accessFault
    | none => s
  | .queue vf q =>
    let page := w.va / 4096 * 4096
    let got := if w.meets page 4096 then [] else [(page, (place page).addr)]
    ({ s with queues := s.queues.map fun (k : Queue) => if k.vf = vf ∧ k.q = q then { k with blocked := false, ats := got ++ k.ats } else k }).now (.queueNop vf q)
  | _ => s

/-- A party of a walk meets a translation fault: it waits for firmware (R248, R270, R321). -/
def State.takeFault (s : State) (w : Walk) (a : FaultOwner × LaneMask) : State :=
  match a.1 with
  | .op id =>
    match s.findOp id with
    | some o => (s.faultLanes id a.2 w.asid (SMap.get 0 o.addr (lowestLane a.2))).settleOp id
    | none => s
  | .piece id =>
    match s.findOp id with
    | some o => (s.chargePiece o 1 Config.chargeFault w.va).recordFault w.seat w.asid w.va w.write false a.1
    | none => s
  | .alight i => (s.chargeAlight i 1 Config.chargeFault w.va).recordFault w.seat w.asid w.va true false a.1
  | _ => s
/-- A party of a walk meets a malformed entry: AccessFault (R351), for a buffered operation in the commit. -/
def State.takeBad (s : State) (w : Walk) (a : FaultOwner × LaneMask) : State :=
  match (s.partyOp a).filter fun (o : Op) => o.buffered with
  | some o => s.bufferedPage w o (w.va / 4096 * 4096) 4096 0
  | none =>
  match a.1 with
  | .op id => (s.refuse id a.2).settleOp id
  | .piece id => s.stopCopy id .accessFault
  | .alight i => s.refuseHome i .accessFault
  | _ => s
/-- A party waits for an answer of the host: a charged host access, or after a refusal a translation fault (R365). -/
def State.chargeParty (s : State) (w : Walk) (event c : Nat) (a : FaultOwner × LaneMask) : State :=
  match a.1 with
  | .op id =>
    match s.findOp id with
    | some o => (if event = 1 then s.mapOp id fun o => { o with faulted := o.faulted ||| a.2 } else s).chargeOp o a.1 event c w.va
    | none => s
  | .piece id =>
    match s.findOp id with
    | some o => s.chargePiece o event c w.va
    | none => s
  | .alight i => s.chargeAlight i event c w.va
  | _ => s

/-- The walk leaves, and the next one that waits starts (R356). -/
def State.dropWalk (s : State) (w : Walk) : State :=
  ({ s with walks := s.walks.filter fun (v : Walk) => v.id != w.id }).startWalks w.seat w.core
/-- Fill the TLB from a walk, and heat rises where the seat's part of it holds entries (R354, R355), unless an invalidation of the page came
after the walk began (R357). Firmware's own translation for a queue fills nothing (R382). -/
def State.fillFrom (s : State) (w : Walk) (leaf : W64) (vbase size : Nat) (at_ : Nat) : State :=
  let (n, s) := s.fresh
  let e : TlbEntry := { core := w.core, asid := w.asid, vbase := vbase, size := size, leaf := leaf, leafAddr := at_, stamp := n }
  let part := ((s.findSeat w.seat).map fun (x : Seat) => x.tlbSize w.core).getD 0
  if w.meets vbase size || part = 0 || w.waiters.all fun a => a.1.queue?.isSome then s
  else (s.mapSeat w.seat fun x => x.fillTlb e).raiseHeat w.seat w.core at_ w.write
/-- Ask the host for a walk's translation, with the PASID of its address space (R364, R365). -/
def State.askAts (s : State) (w : Walk) : State :=
  { s with link := { s.link with ats := s.link.ats ++ [(s.walkVf w, (s.pasidOf w.asid).getD 0, w.va)] } }.mapWalk w.id fun w => { w with ats := true, pri := 0 }
/-- A walk meets a malformed entry: AccessFault on each party, with the entry's address in the event log (R351). -/
def State.badEntry (s : State) (w : Walk) (at_ : Nat) : State :=
  let s := (s.dropWalk w).logEvent w.seat 1 w.core (s.oclk w.seat) (BitVec.ofNat 64 at_)
  w.waiters.foldl (fun s p => s.takeBad w p) s

/-- TLB_WALK_COMPLETE (R353). -/
def State.endWalk (s : State) (id : Nat) : State :=
  match s.findWalk id with
  | none => s
  | some w =>
    let at_ := w.table + 8 * levelIndex w.va w.level
    match judge w.level w.entry at_ with
    | .leaf level leaf a =>
      if leafBit leaf 55 then
        if (s.pasidOf w.asid).isNone then s.badEntry w at_
        else
          let (asks, no) := w.waiters.partition (s.partyMay leaf)
          let s := if asks = [] then s.dropWalk w
            else ((asks.foldl (fun s p => s.chargeParty w 3 Config.chargeHost p) s).mapWalk id fun w => { w with waiters := asks }).askAts w
          no.foldl (fun s p => s.takeBad w p) (if asks = [] then s else s.startWalks w.seat w.core)
      else
        let size := 2 ^ levelBits level
        let s := (s.dropWalk w).fillFrom w leaf (w.va / size * size) size a
        w.waiters.zipIdx.foldl (fun s p => s.takeLeaf w (leafPlace level leaf) leaf level size p.1 (p.2 == 0)) s
    | .absent _ _ _ => w.waiters.foldl (fun s p => s.takeFault w p) (s.dropWalk w)
    | _ => s.badEntry w at_
/-- TLB_WALK_COMPLETE (R353). -/
def execTlbWalkComplete (s : State) : Out :=
  runEvent s fun
    | .tlbWalkComplete id => some (s.endWalk id)
    | _ => none

/-- The page of a walk's leaf, as far as the walk has found it. -/
def Walk.leafSize (w : Walk) : Nat := 2 ^ levelBits w.level
/-- An invalidation of addresses [lo, lo + n) of an address space reaches the walks under way (R357). -/
def Walk.drop (lo n : Nat) (w : Walk) : Walk := if w.started then { w with drops := (lo, n) :: w.drops } else w
/-- TLBINV_COMPLETE (R345, R357): the translations go at once, and walks under way keep what was named; the word completes when the walks
and accesses that began before it are done. -/
def State.invalidate (s : State) (seat : Nat) (asid page : Option Nat) : State :=
  let space (a : Nat) : Bool := asid.isNone || asid == some a
  let hits (a va size : Nat) : Bool := space a && match page with
    | some p => decide (va ≤ p ∧ p < va + size)
    | none => true
  let range : Nat × Nat := match page with
    | some p => (p, 1)
    | none => (0, 2 ^ 57)
  let s := s.mapSeat seat fun x => { x with tlb := x.tlb.filter fun (e : TlbEntry) => !(hits e.asid (e.vbase % 2 ^ 57) e.size) }
  { s with
    ops := s.ops.map fun (o : Op) => if o.seat = seat then { o with pages := o.pages.filter fun (e : TlbEntry) => !(hits e.asid (e.vbase % 2 ^ 57) e.size) } else o
    walks := s.walks.map fun (w : Walk) => if w.seat = seat ∧ space w.asid then w.drop range.1 range.2 else w }
/-- Walks and accesses of a seat that were there before identifier `n` are done, and the accesses that such a walk translated too. A walk
that awaits the host's translation of a page that was invalidated is not, until its page request has stopped it (R357, R365). -/
def State.settledBefore (s : State) (seat n : Nat) : Bool :=
  !(s.walks.any fun (w : Walk) => w.seat == seat && decide (w.id < n) && w.started
      && (!w.ats || (w.meets (w.va / w.leafSize * w.leafSize) w.leafSize && w.pri == 0)))
    && !(s.reqs.any fun (r : Req) => r.seat == seat && (decide (r.id < n) || decide (0 < r.walk ∧ r.walk < n)) && !r.performed
      && (r.kind == .load || r.kind == .store || r.kind == .atomic || r.kind == .alight))
def State.stepTlbinv (s : State) (id : Nat) : State :=
  match s.findOp id with
  | none => s
  | some o =>
    match o.kind with
    | .tlbinv asid page =>
      let s := if o.started then s else (s.invalidate o.seat asid page).mapOp id fun o => { o with started := true, landed := s.nextId }
      let n := if o.started then o.landed else s.nextId
      if s.settledBefore o.seat n then s.finishOp id else s.at (s.g + 1) (.tlbinvComplete id)
    | _ => s
/-- TLBINV_COMPLETE (R357). -/
def execTlbinvComplete (s : State) : Out :=
  runEvent s fun
    | .tlbinvComplete id => some (s.stepTlbinv id)
    | _ => none

/-! ### Fault service (R358, R404-R406) -/

/-- The outside party of an owner's waits has found the translation of an address, for lanes of a word those listed, unresolvable: the trap
comes when the wait ends (R331). -/
def State.unresolved (s : State) (seat : Nat) (ow : FaultOwner) (m : LaneMask) (va : Nat) : State :=
  let mark (s : State) (ow : FaultOwner) : State := s.mapSeat seat fun x => { x with waits := x.waits.map fun (w : Charged) =>
    if w.owner = ow then { w with unresolvable := true, doneAt := some (w.doneAt.getD s.g) } else w }
  match ow with
  | .op id => ((mark s ow).mapOp id fun o => { o with bad := some (o.worse .translationFault), unres := o.unres ||| m }).settleOp id
  | .queue vf q =>
    ({ s with queues := s.queues.map fun (k : Queue) => if k.vf = vf ∧ k.q = q then { k with blocked := false, failed := some va } else k }).now (.queueNop vf q)
  | _ => mark s ow
/-- The logged lanes of an owner's word on a page. -/
def State.lanesOn (s : State) (ow : FaultOwner) (va : Nat) : LaneMask :=
  match ow with
  | .op id => ((s.findOp id).map fun (o : Op) => maskOf fun L => o.logged.getLsbD L && SMap.get 0 o.addr L / 4096 == va / 4096).getD 0
  | _ => 0

/-- A party goes on after its page is resolved: its replay, its piece, its fetch (R404). -/
def State.resumeFault (s : State) (f : FaultRec) : State :=
  match f.owner with
  | .op id => s.now (.logReplay id)
  | .piece id =>
    match s.findOp id with
    | some o =>
      match o.kind with
      | .copy _ =>
        if o.buffered then s.bufferedOver o
        else (s.waitsOf f.seat f.owner).foldl (fun (s : State) (w : Charged) => if w.event = 1 then s.waitDone f.seat w.id s.g else s)
          (s.mapCopy id fun c => { c with again := true })
      | _ => s
    | none => s
  | .fetch _ _ _ => (s.waitsOf f.seat f.owner).foldl (fun (s : State) (w : Charged) => s.waitDone f.seat w.id s.g) s
  | .alight i => if f.vf = s.seatVf f.seat then s.homeWrite i else s
  | .build gr => ((s.builder gr).map fun (o : Op) => s.settleLaunch o.id).getD s
  | .queue vf q => ({ s with queues := s.queues.map fun (k : Queue) => if k.vf = vf ∧ k.q = q then { k with blocked := false } else k }).now (.queueNop vf q)
/-- Two faults of one page of a seat: serviced once (R356). -/
def FaultRec.samePage (f r : FaultRec) : Bool := f.seat == r.seat && f.asid == r.asid && f.va / 4096 == r.va / 4096
/-- The region of a fault's party. -/
def State.faultRegion (s : State) (f : FaultRec) : Region :=
  let ofTeam (id : Nat) : Region := ((s.getTeam id).map (·.region)).getD f.region
  match f.owner with
  | .op id | .piece id => match s.findOp id with
    | some o => ofTeam o.team
    | none => f.region
  | .fetch t _ _ => ofTeam t
  | .alight i => match (s.slot i).writing with
    | some (_, t, _) => ofTeam t
    | none => f.region
  | .build gr => ((s.grids.find? fun (g : Grid) => g.id == gr).map (·.region)).getD f.region
  | .queue _ _ => f.region
/-- The first fault that waits for room takes its turn, when a forwarded one has completed (R358). -/
def State.nextFault (s : State) (f : FaultRec) : State :=
  if !f.forwarded then s
  else match s.faults.find? fun (r : FaultRec) => r.waiting && (s.faultRegion r).vf == (s.faultRegion f).vf with
    | some r => { s with faults := s.faults.map fun (k : FaultRec) => if k.id = r.id then { k with waiting := false } else k }.now (.faultService r.id)
    | none => s
/-- The faults of a page leave firmware's hands. -/
def State.dropFaults (s : State) (f : FaultRec) : State :=
  let l := s.faults.filter f.samePage
  l.foldl (fun (s : State) (r : FaultRec) => s.nextFault r) { s with faults := s.faults.filter fun (r : FaultRec) => !(f.samePage r) }
/-- A page is resolved: each party of it goes on. -/
def State.resolvePage (s : State) (f : FaultRec) : State :=
  (s.faults.filter f.samePage).foldl (fun (s : State) (r : FaultRec) => s.resumeFault r) (s.dropFaults f)
/-- A page is unresolvable. -/
def State.refusePage (s : State) (f : FaultRec) : State :=
  ((s.faults.filter f.samePage).foldl (fun (s : State) (r : FaultRec) => s.unresolved r.seat r.owner (s.lanesOn r.owner r.va) r.va) s).dropFaults f

/-- The leaves with V = 1 of a table and of those below it, each with its level, one that is being moved among them. -/
def leavesOf (m : Memory) : Nat → Nat → List (Nat × Nat)
  | 0, table => ((List.range 512).map fun k => (0, table + 8 * k)).filter fun a => leafBit (Memory.read64 m a.2) 0 && leafBit (Memory.read64 m a.2) 1
  | level + 1, table => (List.range 512).flatMap fun k =>
    let a := table + 8 * k
    match judge (level + 1) (Memory.read64 m a) a with
    | .table pa => leavesOf m level pa
    | .leaf _ _ b => [(level + 1, b)]
    | .absent _ w b => if leafBit w 0 then [(level + 1, b)] else []
    | _ => []
/-- The leaves of the live address spaces, each once (R349). -/
def State.liveLeaves (s : State) : List (Nat × Nat) :=
  let spaces := (List.range 1024).filter fun a => fld (Memory.read s.mem (s.asBase + 16 * a) 8) 0 0 == 1
  (spaces.flatMap fun a => leavesOf s.mem 4 (rootOf s s.mem a)).eraseDups
/-- The commons pages of device memory that are mapped: level and frame, each once; a malformed leaf maps nothing (R351). -/
def State.commonsPages (s : State) : List (Nat × Nat) :=
  ((s.liveLeaves.filter fun a =>
    let w := Memory.read64 s.mem a.2
    leafBit w 8 && !leafBit w 54 && !(malformed a.1 w)).map fun a => (a.1, entryPA (Memory.read64 s.mem a.2))).eraseDups
/-- Lines of pages that one slice is the home of: of a page of 2 MiB or 1 GiB, one in 64 for each slice of its die (R348, R424). -/
def linesAt (pages : List (Nat × Nat)) (slice : Nat × Nat) : Nat :=
  pages.foldl (fun n f => n + if f.1 = 0 then ((List.range 32).filter fun k => homeSlice (f.2 + 128 * k) == slice).length
    else if dieOf f.2 = slice.1 then 2 ^ levelBits f.1 / 8192 else 0) 0
/-- The lines of a commons page of a level would exceed the partition of a home slice: 1,024 lines (R363). -/
def State.commonsOver (s : State) (level : Nat) (w : W64) : Bool :=
  let pages := (s.commonsPages.filter fun p => p != (level, entryPA w)) ++ [(level, entryPA w)]
  leafBit w 8 && !leafBit w 54 && (List.range 64).any fun k => decide (1024 < linesAt pages (homeSlice (entryPA w + 128 * k)))
/-- A staged page made valid: the check of R351 as though V were 1, and of the commons partition (R363), then the write in a vacant
position of its slice (R18, R361, R406); none where a check fails. -/
def State.makeValid (s : State) (w : W64) (at_ : Nat) : Option State :=
  let w' := w ||| 1#64
  if malformed 0 w' || s.commonsOver 0 w' then none else some ({ s with mem := Memory.write s.mem at_ 8 w'.toNat }.claimSlice at_)

/-- INFO of a page request (R358). -/
def pageInfo (f : FaultRec) : W64 := BitVec.ofNat 64 (f.va / 4096 % 2 ^ 45 + f.asid % 1024 * 2 ^ 45 + bit f.write * 2 ^ 55)
/-- Firmware takes up a fault (R358). A leaf with MIGR = 1, whatever its V, is held until its move completes (R358, R406): it is tried again later; where the function has 256 forwarded faults, the fault
waits in order. -/
def State.serviceFault (s : State) (f : FaultRec) : State :=
  let again (s : State) : State :=
    let (d, s) := s.draw
    s.at (s.g + 1 + d) (.faultService f.id)
  match s.walkNow f.asid f.va with
  | .leaf _ _ _ => s.resolvePage f
  | .absent level w at_ =>
    if staged level w then
      match s.makeValid w at_ with
      | some s => s.resolvePage f
      | none => s.refusePage f
    else if leafBit w 1 && leafBit w 63 then again s
    else if f.forwarded then s
    else
      let r := s.faultRegion f
      let kin (k : FaultRec) : Bool := (s.faultRegion k).vf == r.vf
      let n := (s.faults.filter fun (k : FaultRec) => k.forwarded && kin k).length
      if 256 ≤ n || s.faults.any fun (k : FaultRec) => k.waiting && k.id != f.id && decide (k.id < f.id) && kin k then
        { s with faults := s.faults.map fun (k : FaultRec) => if k.id = f.id then { k with waiting := true } else k }
      else
        let s := { s with faults := s.faults.map fun (k : FaultRec) => if k.id = f.id then { k with forwarded := true } else k }
        s.complete r 0 14 (pageInfo f)
  | _ => s.refusePage f
/-- FAULT_SERVICE (R358). A record whose party has gone leaves its turn to the next one. -/
def execFaultService (s : State) : Out :=
  runEvent s fun
    | .faultService id =>
      match s.faults.find? (fun (f : FaultRec) => f.id == id), s.faults.find? (fun (f : FaultRec) => !f.forwarded) with
      | some f, _ => some (s.serviceFault f)
      | none, some f => some (s.serviceFault f)
      | none, none => some s
    | _ => none
/-- The page that answers a forwarded fault is a commons page, staged or already valid, whose lines exceed the partition of a home slice
(R363). -/
def State.commonsRefused (s : State) (f : FaultRec) : Bool :=
  match s.walkNow f.asid f.va with
  | .absent level w _ => staged level w && s.commonsOver level (w ||| 1#64)
  | .leaf level w _ => s.commonsOver level w
  | _ => false
/-- What PAGEDONE does to a forwarded fault (R358): refused, or firmware walks again. -/
def State.pageAnswered (s : State) (f : FaultRec) (refused : Bool) : State :=
  if refused || s.commonsRefused f then s.refusePage f
  else match s.walkNow f.asid f.va with
    | .leaf _ _ _ => s.resolvePage f
    | .absent level w at_ =>
      if staged level w then
        match s.makeValid w at_ with
        | some s => s.resolvePage f
        | none => s.refusePage f
      else s.refusePage f
    | _ => s.refusePage f

/-- LOG_REPLAY (R142, R340, R405): the logged lanes translate again, once no earlier entry of the log waits for its replay; an entry
without lanes left is looked at. -/
def State.replay (s : State) (id : Nat) : State :=
  match s.findOp id with
  | none => s
  | some o =>
    match o.kind with
    | .ring i .alight =>
      if o.logged = 0 then s.homeWrite i else (s.mapOp id fun o => { o with logged := 0 }).homeWrite i
    | _ =>
      let earlier : Bool := s.ops.any fun (p : Op) => p.team == o.team && p.gid == o.gid && p.inLog && decide (p.logSeq < o.logSeq) && p.logged != 0 && !p.trapSent
      if o.buffered then s.bufferedOver o
      else if o.logged = 0 then (s.mapOp id fun o => { o with owed := false }).settleOp id
      else if o.inLog && earlier then s.mapOp id fun o => { o with owed := true }
      else
        let s := s.mapOp id fun o => { o with logged := 0, walking := o.walking ||| o.logged, owed := false }
        ((s.translate id o.logged).settleOp id).replayNext o.team o.gid
/-- LOG_REPLAY (R340). -/
def execLogReplay (s : State) : Out :=
  runEvent s fun
    | .logReplay id => some (s.replay id)
    | _ => none

/-! ### ATS and PRI (R365, R366) -/

/-- Walks of a function and PASID for a page that await the host's translation, or its answer to their page request. -/
def State.atsWalks (s : State) (vf pasid va : Nat) (pri : Bool) : List Walk :=
  s.walks.filter fun (w : Walk) => w.ats && s.walkVf w == vf && s.pasidOf w.asid == some pasid && w.va / 4096 == va / 4096 && (w.pri == 1) == pri && w.pri != 2
/-- The page's leaf as the host's answer makes it: its address, and its rights narrowed. -/
def atsLeaf (leaf : W64) (pa : Nat) (rd wr : Bool) : W64 :=
  let keep (k : Nat) (b : Bool) (w : W64) : W64 := if b then w else w &&& ~~~(1#64 <<< k)
  keep 2 rd (keep 3 wr leaf) ||| BitVec.ofNat 64 (pa / 4096 % 2 ^ 40 * 4096)
/-- Send a walk's page request while its function has fewer than 256 outstanding; else it waits for room (R365). -/
def State.sendPri (s : State) (w : Walk) : State :=
  let vf := s.walkVf w
  let n := (s.walks.filter fun (v : Walk) => v.pri == 1 && s.walkVf v == vf).length
  if 256 ≤ n then s.mapWalk w.id fun w => { w with pri := 2 }
  else { s with link := { s.link with pri := s.link.pri ++ [(vf, (s.pasidOf w.asid).getD 0, w.va)] } }.mapWalk w.id fun w => { w with pri := 1 }
/-- Page requests of a function that wait for room are sent, oldest first (R365). -/
def State.nextPages (s : State) (vf : Nat) : State :=
  match s.walks.find? fun (w : Walk) => w.pri == 2 && s.walkVf w == vf with
  | some w => s.sendPri w
  | none => s
/-- The host has answered a translation request with a refusal: that access to the host is over (R21, R365). -/
def State.askedHost (s : State) (seat : Nat) (ow : FaultOwner) : State :=
  (s.waitsOf seat ow).foldl (fun (s : State) (w : Charged) => if w.event = 3 then s.waitDone seat w.id s.g else s) s
/-- ATS_COMPLETION (R365): the parties that the answer allows go on; the others make a page request, charged as a translation fault. -/
def State.atsAnswer (s : State) (vf pasid va pa size : Nat) (rd wr : Bool) : State :=
  (s.atsWalks vf pasid va false).foldl (fun (s : State) (w : Walk) =>
    let leaf := atsLeaf w.entry pa rd wr
    let base := w.va / size * size
    let (may, no) := w.waiters.partition (s.partyMay leaf)
    let s := if no = [] then s.dropWalk w
      else (no.foldl (fun s p => (s.askedHost w.seat p.1).chargeParty w 1 Config.chargeFault p) (s.mapWalk w.id fun w => { w with waiters := no })).sendPri w
    let s := if may = [] then s else s.fillFrom w leaf base size (w.table + 8 * levelIndex w.va w.level)
    may.zipIdx.foldl (fun s p => s.takeLeaf w (fun v => .host (pa + v % size)) leaf 0 size p.1 (p.2 == 0)) s) s
/-- ATS_COMPLETION (R365). -/
def execAtsCompletion (s : State) : Out :=
  runEvent s fun
    | .atsCompletion vf pasid va pa size rd wr => some (if size = 0 then s else s.atsAnswer vf pasid va pa size rd wr)
    | _ => none
/-- A party of an ATS walk whose page request failed (R365). -/
def State.failParty (s : State) (w : Walk) (a : FaultOwner × LaneMask) : State :=
  match a.1 with
  | .op id =>
    let s := s.mapOp id fun o => { o with walking := o.walking &&& ~~~a.2, logged := o.logged ||| a.2 }
    (s.enterLog id).unresolved w.seat a.1 a.2 w.va
  | _ => s.unresolved w.seat a.1 0 w.va
/-- The parties of a walk walk again, from the root; firmware takes a queue's command up again. -/
def State.walkAgain (s : State) (w : Walk) : State :=
  w.waiters.foldl (fun s p => match p.1.queue? with
    | some (vf, q) => ({ s with queues := s.queues.map fun (k : Queue) => if k.vf = vf ∧ k.q = q then { k with blocked := false } else k }).now (.queueNop vf q)
    | none => s.joinWalk w.seat w.core w.asid w.va (s.partyWant p).writes p.1 p.2) (s.dropWalk w)
/-- PRI_RESPONSE (R365): after Success the translation is asked for again, from the table on where the page was invalidated meanwhile
(R357). -/
def State.priAnswer (s : State) (vf pasid va : Nat) (success : Bool) : State :=
  (s.atsWalks vf pasid va true).foldl (fun (s : State) (w : Walk) =>
    (if !success then w.waiters.foldl (fun s p => s.failParty w p) (s.dropWalk w)
      else if w.meets (w.va / w.leafSize * w.leafSize) w.leafSize then s.walkAgain w else s.askAts w).nextPages vf) s
/-- PRI_RESPONSE (R365). -/
def execPriResponse (s : State) : Out :=
  runEvent s fun
    | .priResponse vf pasid va ok => some (s.priAnswer vf pasid va ok)
    | _ => none

/-! ### Charged waits (R21-R23) -/

/-- The split that waits at a charged wait goes on, one that its group keeps while its handler runs too (R333); a packet read from the
host is there (R364); an unresolvable fetch raises TranslationFault at the packet (R178), in a handler's code one of the handler (R339). -/
def State.wakeSplit (s : State) (w : Charged) (team gid : Nat) : State :=
  s.mapGroup team gid fun g =>
    let mine (p : Split) : Bool := p.block == (Block.door w.id)
    let h := g.onSplits fun p => if mine p then
      { p with block := .free, notBefore := max p.notBefore s.g, fetched := if w.event = 3 then some p.pkt else p.fetched } else p
    match w.unresolvable, g.allSplits.find? mine with
    | true, some p =>
      let t : TrapReq := { kind := .translationFault, pkt := p.pkt, slot := p.slot, age := s.nextOp, sup := g.level == .supervisor && g.splits.any mine }
      { h with deferred := insertTrap t h.deferred }
    | _, _ => h
/-- A charged wait ends: its event is written, and what waited completes (R22, R23, R25). A home write that was refused has not been
performed, and the slot keeps its payload (R321). -/
def State.endWait (s : State) (seat : Nat) (w : Charged) (late : Bool) : State :=
  let s := s.mapSeat seat fun x => { x with waits := x.waits.filter fun (v : Charged) => v.id != w.id }
  let now := s.oclk seat
  let s := s.logEvent seat w.event w.core w.t0 w.detail (now - w.t0) late
  let waits := match w.owner with
    | .op id => s.findOp id
    | .piece id => s.findOp id
    | _ => none
  if waits.any fun (o : Op) => o.buffered then
    match waits.bind fun (o : Op) => (s.getTeam o.team).map fun t => (o.id, t.grid) with
    | some (id, gr) => (if w.unresolvable then s.mapOp id fun o => { o with bad := some .translationFault } else s).pokeCommit gr
    | none => s
  else match w.owner with
  | .op id => s.settleOp id
  | .build gr =>
    match s.builder gr with
    | some o => if w.unresolvable then s.refuseBuild o.id else s.settleLaunch o.id
    | none => s
  | .piece id =>
    if w.unresolvable then s.stopCopy id .translationFault
    else if s.waitsOf seat w.owner = [] then
      match s.findOp id with
      | some o =>
        match o.kind with
        | .copy c =>
          if c.again then (s.mapCopy id fun c => { c with again := false }).globalPiece o c.globalEnd.1 c.globalEnd.2
          else s.now (.pieceLand id)
        | _ => s
      | none => s
    else s
  | .fetch team gid _ => s.wakeSplit w team gid
  | .alight i =>
    if w.unresolvable then s.refuseHome i .translationFault
    else
      let written := (((s.slot i).writing).bind fun (q : Nat × Nat × Nat) => s.findOp q.1).any fun (o : Op) => o.started
      if s.homeWaits seat i = [] && written then s.now (.alightWritePerformed i) else s
  | _ => s

/-- The wait's outside party has finished. -/
def Charged.over (w : Charged) (g : Nat) : Bool := w.doneAt.any fun c => decide (c ≤ g)
/-- CHARGED_WAIT_DUE (R22): the operation completes, or the wait is late and is looked at again at the next boundary. A wait of
an absent function stands until it is seated. -/
def State.dueWait (s : State) (seat id : Nat) : State :=
  match s.findSeat seat with
  | none => s
  | some x =>
    match x.findWait id with
    | none => s
    | some w =>
      let now := x.oclk s.g
      if w.vf ≠ x.vf ∨ x.switching then s
      else if now < w.due then s.at (s.g + (w.due - now)) (.chargedWaitDue seat id)
      else if w.over s.g && !w.late then s.endWait seat w false
      else
        (s.mapSeat seat fun x => { x with waits := x.waits.map fun (v : Charged) => if v.id = id then { v with late := true } else v }).at
          (nextFrame s.g) (.lateWaitFreeze seat id)
/-- CHARGED_WAIT_DUE (R22). -/
def execChargedWaitDue (s : State) : Out :=
  runEvent s fun
    | .chargedWaitDue seat id => some (s.dueWait seat id)
    | _ => none
/-- LATE_WAIT_FREEZE (R23): at the boundary the operation completes, or the seat stops on every core. -/
def State.lateWait (s : State) (seat id : Nat) : State :=
  match s.findSeat seat with
  | none => s
  | some x =>
    match x.findWait id with
    | none => s
    | some w =>
      if w.vf ≠ x.vf ∨ x.switching ∨ s.g % Config.frame ≠ 0 then s
      else if w.over s.g && x.frozen.isNone then s.endWait seat w true
      else s.mapSeat seat fun x => { x with frozen := some (x.oclk s.g) }
/-- LATE_WAIT_FREEZE (R23). -/
def execLateWaitFreeze (s : State) : Out :=
  runEvent s fun
    | .lateWaitFreeze seat id => some (s.lateWait seat id)
    | _ => none

/-- The late waits of a stopped seat are all over. -/
def Seat.mayResume (x : Seat) (g : Nat) : Bool :=
  x.frozen.isSome && (x.waits.filter fun (w : Charged) => w.late && w.vf == x.vf).all fun (w : Charged) => w.over g

/-- The seat an event belongs to, if a stop of the seat holds it (R23); what moves for a charged operation is not held. -/
def State.eventSeat (s : State) (e : Event) : Option Nat :=
  let ofOp (id : Nat) : Option Nat := (s.findOp id).map fun (o : Op) => o.seat
  let ofTeam (id : Nat) : Option Nat := (s.findTeam id).map fun (t : Team) => t.seat
  match e with
  | .loadReply r | .storePerform r | .storeAcknowledge r | .lineRecall r | .atomicPerform r =>
    match s.findReq r with
    | some q => if s.moves q then none else some q.seat
    | none => none
  | .tlbWalkComplete w =>
    match s.findWalk w with
    | some w => if w.waiters.any fun (a : FaultOwner × LaneMask) => !(s.waitsOf w.seat a.1).isEmpty then none else some w.seat
    | none => none
  | .releaseApply o => (s.findOp o).bind fun (p : Op) => if s.charged p then none else some p.seat
  | .scratchpadRowServe o _ | .bufferPortCycle o _ | .copyCommandStart o | .circSlotReady o | .pieceLand o
  | .heldPieceRelease o | .copyCommandComplete o | .xldsComplete o | .xswpComplete o | .xcfgComplete o | .xrelComplete o
  | .xdrnComplete o | .xscacComplete o | .ringResultWrite o | .tlbinvComplete o | .amsgAccept o => ofOp o
  | .bankWakeEnd t _ _ | .waitResume t | .waitcResume t _ | .teamRelease t | .drainComplete t | .saveComplete t | .parkWake t
  | .groupEnd t _ | .teamEnd t | .regroupComplete t => ofTeam t
  | .eacqGrant _ n | .copyPieceStart _ n | .rowInject _ n | .teamCarving _ n | .victimChoice _ n | .loadBalance n | .chargedWaitDue n _ => some n
  | .passComplete _ p _ => (s.passes.find? fun (r : Pass) => r.id == p).map (·.seat)
  | _ => none
/-- The event waits, because its seat is stopped. -/
def State.holdsEvent (s : State) (e : Event) : Bool :=
  match s.eventSeat e with
  | some n => s.isFrozen n
  | none => false

/-- A wake later by `d` cycles. -/
def Wake.later_ (d : Nat) (w : Wake) : Wake := { w with due := w.due + d }
/-- A group's cycles later by `d`. -/
def Group.shift (d : Nat) (g : Group) : Group :=
  { g with
    wakes := g.wakes.map (Wake.later_ d), notBefore := g.notBefore + d, q6next := g.q6next + d, tested := g.tested + d
    splits := g.splits.map fun (p : Split) => { p with notBefore := p.notBefore + d }
    kept := g.kept.map fun (p : Split) => { p with notBefore := p.notBefore + d }
    board := { g.board with avail := g.board.avail.map fun a => (a.1, a.2 + d) } }
/-- A team's cycles later by `d`; the cycle it began to carve among them. -/
def Team.shift (d : Nat) (t : Team) : Team :=
  { t with groups := t.groups.map (Group.shift d), swakes := t.swakes.map (Wake.later_ d), since := if t.state = .carving then t.since + d else t.since }
/-- The cycle of an event of a seat that stopped `d` cycles ago and resumes now. A board's or an alight's status follows a passage of its
slot: one that had not come before the stop is the first from the resumption on, or from the seam step on, which takes place in a
stop too (R314, R317). -/
def State.shiftedTo (s : State) (d : Nat) (e : Nat × Event) : Nat :=
  let passage (i core : Nat) : Nat := if e.1 < s.g - d + 2 then e.1 + d else nextPassage i core (max (e.1 - 2) s.g) + 2
  match e.2 with
  | .ringResultWrite id => match (s.findOp id).map fun (o : Op) => (o.core, o.kind) with
    | some (core, .ring i (.board _ _ _)) => passage i core
    | some (core, .ring i .alight) => passage i core
    | _ => e.1 + d
  | _ => e.1 + d
/-- Everything a stopped seat had under way goes on `d` cycles later (R23). -/
def State.shiftSeat (s : State) (n d : Nat) : State :=
  { s with
    agenda := s.agenda.map fun e => if s.eventSeat e.2 = some n then (s.shiftedTo d e, e.2) else e
    teams := s.teams.map fun (t : Team) => if t.seat = n then t.shift d else t
    ops := s.ops.map fun (o : Op) => if o.seat = n then { o with issued := o.issued + d, from_ := match o.kind with
      | .matrix _ => o.from_ + d
      | _ => o.from_ } else o
    reqs := s.reqs.map fun (r : Req) => if r.seat = n && !s.moves r then { r with arrive := if r.arrive = 0 then 0 else r.arrive + d, failed := r.failed.map (· + d) } else r
    arms := s.arms.map fun (a : Arm) => if a.seat = n then { a with due := a.due.map (· + d) } else a
    passes := s.passes.map fun (p : Pass) => if p.seat = n then { p with firstRow := p.firstRow + d, lastRow := p.lastRow + d, notBefore := p.notBefore + d, retry := p.retry.map (· + d) } else p
    lastRow := s.lastRow.map fun r => if r.1.2 = n then (r.1, (r.2.1 + d, r.2.2)) else r }
/-- FREEZE_RESUME (R23): the seat resumes at the boundary with %oclk where it stopped, and its late waits complete. -/
def State.thaw (s : State) (seat : Nat) : State :=
  match s.findSeat seat with
  | none => s
  | some x =>
    match x.frozen with
    | none => s
    | some tb =>
      if s.g % Config.frame ≠ 0 ∨ !(x.mayResume s.g) then s
      else
        let d := s.g - (tb + x.base)
        let s := s.shiftSeat seat d
        let s := s.mapSeat seat fun x => { x with frozen := none, base := x.base + d, pipes := x.pipes.map fun p => (p.1, (p.2.1 + d, p.2.2 + d)) }
        let late := x.waits.filter fun (w : Charged) => w.late && w.vf == x.vf
        let s := late.foldl (fun (s : State) (w : Charged) => s.endWait seat w true) s
        let held := s.reqs.filter fun (r : Req) => r.seat == seat && !r.sent && r.hops == [] && decide (r.arrive ≤ s.g) && (s.reqOp r).isSome
        held.foldl (fun (s : State) (r : Req) => s.once s.g (.releaseApply r.owner)) s.scheduleAll
/-- FREEZE_RESUME (R23). -/
def execFreezeResume (s : State) : Out :=
  runEvent s fun
    | .freezeResume seat => some (s.thaw seat)
    | _ => none

/-! ### Errors on the way (R18, R403) -/

/-- DRAM_REFRESH (R18): refresh claims the channel's position that begins now, if it is vacant. -/
def execDramRefresh (s : State) : Out :=
  runEvent s fun
    | .dramRefresh die ch =>
      some (if s.g % 16 = 0 && (s.rotaOwner (s.g / 16) (s.g / Config.frame)).isNone then
        { s with ports := (structKey (.dram die ch), 0, s.g) :: s.ports } else s)
    | _ => none

/-- Lanes or a piece that read an uncorrectable line: MemoryUncorrectable, deferred (R270, R403). -/
def State.uncorrectable (s : State) (ow : FaultOwner) (lanes : LaneMask) : State :=
  match ow with
  | .op id => (s.mapOp id fun o => { o with walking := o.walking &&& ~~~lanes, uncorr := o.uncorr ||| lanes, bad := some (o.worse .memoryUncorrectable) }).settleOp id
  | .piece id => s.stopCopy id .memoryUncorrectable
  | .alight i => s.refuseHome i .memoryUncorrectable
  | _ => s
/-- The outside puts an error at a request that waits at a structure (R403): the position that serves it next fails, and `lasting`, its
repeat in the seat's next position of the structure too (`throughError`). -/
def State.spoil (s : State) (r : Req) (lasting : Bool) : State :=
  s.mapReq r.id fun r => if r.fails = 0 then { r with fails := if lasting then 2 else 1 } else r
/-- A read that waits at a channel finds an uncorrectable error (R403); when the repeat has failed too, its readers trap and the frame is
not used again. -/
def State.dramRetry (s : State) (id : Nat) (lasting : Bool) : State :=
  match s.findReq id with
  | none => s
  | some r =>
    match r.head, r.kind == .load || r.kind == .walk || r.kind == .atomic with
    | some (.dram _ _), true =>
      if r.fails ≠ 3 then s.spoil r lasting
      else
        let s := s.logEvent r.seat 33 r.core (s.oclk r.seat) (BitVec.ofNat 64 r.place.addr)
        let s := { s with badFrames := insertNat (r.place.addr / 4096) s.badFrames }
        match r.kind with
        | .walk =>
          let s := s.dropReq id
          match s.findWalk r.owner with
          | some w => w.waiters.foldl (fun s p => s.uncorrectable p.1 p.2) (s.dropWalk w)
          | none => s
        | _ =>
          match s.findOp r.owner with
          | some o =>
            match o.kind with
            | .copy _ => (s.dropReq id).uncorrectable (.piece o.id) 0
            | _ => (((s.dropReq id).resumeOrdered).mapOp o.id fun o => { o with pending := o.pending - 1 }).uncorrectable (.op o.id) r.lanes
          | none => s.dropReq id
    | _, _ => s
/-- DRAM_READ_RETRY (R403). -/
def execDramReadRetry (s : State) : Out :=
  runEvent s fun
    | .dramReadRetry id lasting => some (s.dramRetry id lasting)
    | _ => none

/-- A request that cannot cross a fenced link leaves unperformed; what its lanes read is a free value (log 64). -/
def State.abandon (s : State) (r : Req) : State :=
  match r.kind with
  | .load | .store | .atomic =>
    match s.opKind r.owner with
    | some (.copy _) => (s.dropReq r.id).stopCopy r.owner .memoryUncorrectable
    | _ =>
      ({ s with draws := s.draws + 32 }.mapOp r.owner fun o => { o with
        done := o.done ||| r.lanes, result := (lanesOf r.lanes).foldl (fun m L => SMap.set 0 m L (Sys2Proof.Config.freeWord (s.draws + L))) o.result }).retireReq r
  | .walk =>
    match s.findWalk r.owner with
    | some w => w.waiters.foldl (fun s p => s.takeBad w p) ((s.dropReq r.id).dropWalk w)
    | none => s.dropReq r.id
  | .message => (s.dropReq r.id).finishOp r.owner
  | _ => s.dropReq r.id
/-- A link of a die is fenced (R403). -/
def State.fencedStruct (s : State) (st : Struct) : Bool := s.fencedLinks.contains (linkNumber st)
/-- A link of die `d`, within it or to another die, fails for good (R403): it is fenced, and the teams of its die end. -/
def State.fenceLink (s : State) (st : Struct) (d : Nat) : State :=
  let detail : W64 := BitVec.ofNat 64 (linkNumber st)
  let s := { s with fencedLinks := insertNat (linkNumber st) s.fencedLinks }
  let s := (s.seats.filter fun (x : Seat) => x.seated).foldl (fun (s : State) (x : Seat) => s.logEvent x.num 33 (64 * d) (s.oclk x.num) detail) s
  let s := (s.teams.filter fun (t : Team) => t.core / 64 == d).foldl (fun (s : State) (t : Team) => s.haltTeam t.id 0xFFFC (0xFFFC#64)) s
  (s.reqs.filter fun (q : Req) => q.head == some st).foldl (fun (s : State) (q : Req) => s.abandon q) s
/-- A Colalm port fails for good (R403): it is fenced, and the requests that wait at it are refused. -/
def State.fencePort (s : State) (p : Nat) : State :=
  let s := { s with host := { s.host with links := s.host.links.set p (3, ((s.host.links[p]?).getD (0, 0)).2) } }
  let s := (s.seats.filter fun (x : Seat) => x.seated).foldl (fun (s : State) (x : Seat) =>
    s.logEvent x.num 33 0 (s.oclk x.num) (BitVec.ofNat 64 (16 + p))) s
  (s.reqs.filter fun (q : Req) => q.head == some (.colalm p)).foldl (fun (s : State) (q : Req) => s.refusedReply q) s
/-- A flit that fails its check at a link (R403): it is sent again in the seat's next position of the link; when that has failed
too, the link is fenced. -/
def State.meshRetry (s : State) (id : Nat) (lasting : Bool) : State :=
  match s.findReq id with
  | none => s
  | some r =>
    let meet (f : State) : State := if r.fails = 3 then f else s.spoil r lasting
    match r.head with
    | some (.link d e) => meet (s.fenceLink (.link d e) d)
    | some (.router c) => meet (s.fenceLink (.router c) (c / 64))
    | some (.colalm p) => meet (s.fencePort p)
    | _ => s
/-- MESH_FLIT_RETRY (R403). -/
def execMeshFlitRetry (s : State) : Out :=
  runEvent s fun
    | .meshFlitRetry id lasting => some (s.meshRetry id lasting)
    | _ => none

/-! ### Traps taken at issue (R186, R338) -/

/-- DEFERRED_TRAP (R338, R339): the deferred trap that is owed is taken, with the lanes of its word that have performed by then, in
the cycle its next unit would be selected; step has the split that would have issued in focus. Without one in focus the group's
first split stands for it. -/
def execDeferredTrap (s : State) : Out :=
  runEvent s fun
    | .deferredTrap team gid =>
      let go (s : State) : State :=
        match s.cur.group.owed with
        | none => s
        | some t =>
          let done := (((s.findOp t.age).filter fun (o : Op) => o.trapSent).map fun (o : Op) => o.done).getD t.done
          (s.onGroup fun g => { g with deferred := g.deferred.erase t }).takeTrap { t with done := done } true
      if s.cur.live then some (go s)
      else
        match s.findTeam team, s.findGroup team gid with
        | some t, some g =>
          match g.splits with
          | p :: _ =>
            let s := s.focus t g p.idx
            some (go { s with cur := { s.cur with pkt := p.pkt, slot := p.slot, unitSlot := p.slot, nextPkt := p.pkt, nextSlot := p.slot } }).unfocus
          | [] => some s
        | _, _ => some s
    | _ => none
/-- ILLEGAL_INSTRUCTION (R186): a word of the unit in focus breaks its encoding, its chain or its packet. -/
def execIllegalInstruction (s : State) : Out :=
  runEvent s fun
    | .illegalInstruction slot word cause =>
      if s.cur.live then
        some ({ s with cur := { s.cur with slot := slot, word := word } }.trapWord (illegal cause))
      else some s
    | _ => none

end Sys2Proof.Machine
end

