-- ==== Sys2Proof/Machine/Seats.lean ====
section
/-!
DEFINITION. The mailbox's replies (R376, R410), admission, seating, leases and eviction (R8-R19,
R370-R375), functions sharing a seat (R24, R377-R379), load balancing (R390) and pre-emption (R392-R395).
-/

namespace Sys2Proof.Machine

open Sys2Proof

/-! ### Mailbox replies (R376, R410) -/

/-- Write a reply: MBOUT, SEQ and DONE, and BUSY ends. The scheduling core has taken the message out of its mailbox, and the first sender that
waits for one puts its message there (R410, R414). -/
def State.answer (s : State) (ws : List W64) : State :=
  { s with
    mail := (s.mail.filter fun (m : Mail) => m.core != 1) ++ (s.mail.filter fun (m : Mail) => m.core == 1).drop 1 ++ ((s.mailWait.filter fun (m : Mail) => m.core == 1).take 1)
    mailWait := (s.mailWait.filter fun (m : Mail) => m.core != 1) ++ (s.mailWait.filter fun (m : Mail) => m.core == 1).drop 1
    host := { s.host with mbout := (List.range 8).map fun k => (ws[k]?).getD 0, seq := (s.host.seq + 1) % 256, done := true, busy := false } }
/-- Reply with a status alone. -/
def State.status (s : State) (n : Nat) : State := s.answer [BitVec.ofNat 64 n]
/-- A command other than STATUS: NotReady unless the device is Ready (R410). -/
def State.command (s : State) (f : State → State) : State := if s.host.dstate = 3 then f s else s.status 13
/-- The frame in which the message in hand arrived. -/
def State.mailFrame (s : State) : Nat := ((s.mail.find? fun (m : Mail) => m.core == 1).map (·.frame)).getD (s.g / Config.frame)

/-! ### Admission (R370-R374) -/

/-- A core record (R371). -/
def State.coreRecAt (s : State) (a : Nat) : CoreRec :=
  let w := Memory.read s.mem a 32
  { cmap := BitVec.ofNat 64 (fld w 255 192), core := fld w 191 184, gslot := fld w 183 176, spb := fld w 175 168, abu := fld w 167 159
    wbu := fld w 158 151, xbu := fld w 150 143, suba := fld w 142 139, pairs := fld w 138 135, l1u := fld w 134 130, tlbu := fld w 129 124
    grant := fld w 123 123 == 1 }
/-- Core numbers of a core set. -/
def cset (w : Nat) : List Nat := (List.range 256).filter fun c => fld w c c == 1
/-- The placement record at an address. -/
def State.placementAt (s : State) (a : Nat) : Placement :=
  let h := Memory.read s.mem a 128
  { dmap := BitVec.ofNat 64 (fld h 767 704), evlog := fld h 703 640, amtab := fld h 639 576, qtab := fld h 575 512, frame := fld h 511 448
    poolq := fld h 383 371, l2w := fld h 370 366, cad := fld h 365 362, inj := fld h 361 361 == 1
    cores := (List.range (cset (fld h 1023 768)).length).map fun k => s.coreRecAt (a + 160 + 32 * k)
    raw := Memory.bytes s.mem a (160 + 32 * (cset (fld h 1023 768)).length) }
/-- A core record is in range and follows R373. -/
def CoreRec.legal (c : CoreRec) : Bool :=
  decide (c.gslot ≤ 32 ∧ c.spb ≤ 128 ∧ c.abu ≤ 256 ∧ c.wbu ≤ 128 ∧ c.xbu ≤ 128 ∧ c.suba ≤ 8 ∧ c.l1u ≤ 16 ∧ c.tlbu ≤ 32)
    && (!c.grant || c.cmap == BitVec.allOnes 64)
/-- A quantum table in memory; none where it breaks R377. -/
def State.quantumTable (s : State) (a : Nat) : Option (List QuantumEntry) :=
  let ws := (List.range 16).map fun k => Memory.read s.mem (a + 16 * k) 16
  let used := ws.filter fun w => fld w 6 6 == 1
  let es := used.map fun w => ({ rcb := fld w 127 64, quantum := fld w 63 24, vf := fld w 5 0 } : QuantumEntry)
  if used.isEmpty || !(ws.all fun w => fld w 23 7 == 0) || !(es.all fun e => e.quantum % 2048 == 0 && decide (131072 ≤ e.quantum))
      || (es.map (·.vf)).eraseDups.length != es.length then none
  else some es
/-- The record breaks its own rules: header, lease record and core records (R370-R373, BadRecord). -/
def State.badRecord (s : State) (seat a : Nat) : Bool :=
  let h := Memory.read s.mem a 128
  let l := Memory.read s.mem (a + 128) 32
  let p := s.placementAt a
  let n := p.cores.length
  a % 64 != 0 || fld h 447 384 != 0 || fld h 360 360 != 0 || fld h 355 0 != 0 || fld h 359 356 != seat || p.evlog % 32768 != 0
    || !(decide (1 ≤ p.poolq ∧ p.poolq ≤ 4096))
    || p.cores.map (·.core) != cset (fld h 1023 768) || !(p.cores.all CoreRec.legal)
    || !((List.range n).all fun k => fld (Memory.read s.mem (a + 160 + 32 * k) 32) 122 0 == 0)
    || fld l 0 0 != 0 || fld l 1 1 != 0 || fld l 3 3 != 0 || fld l 95 8 != 0 || (s.quantumTable p.qtab).isNone
/-- Popcount of a map. -/
def popcount64 (w : W64) : Nat := countOnes w.toNat 64
/-- The device rota entries that seats hold. -/
def State.entriesHeld (s : State) : W64 := s.seats.foldl (fun m (x : Seat) => m ||| x.pl.dmap) 0
/-- Two placements meet on the rota or on a core (RotaConflict). -/
def rotaConflict (p q : Placement) : Bool :=
  p.dmap &&& q.dmap != 0 || p.cores.any fun (c : CoreRec) => q.cores.any fun (d : CoreRec) => c.core == d.core && (c.grant || d.grant || c.cmap &&& d.cmap != 0)
/-- Shares of a core over the seats (ShareOverflow). -/
def overflows (ps : List Placement) : Bool :=
  let on (c : Nat) : List CoreRec := ps.flatMap fun (p : Placement) => p.cores.filter fun (r : CoreRec) => r.core == c
  let sum (l : List CoreRec) (f : CoreRec → Nat) : Nat := l.foldl (fun n r => n + f r) 0
  decide (31 < ps.foldl (fun n p => n + p.l2w) 0) || decide (4096 < ps.foldl (fun n p => n + p.poolq) 0)
    || (ps.flatMap fun (p : Placement) => p.cores.map (·.core)).eraseDups.any fun c =>
      let l := on c
      decide (32 < sum l (·.gslot) ∨ 8 < sum l (·.suba) ∨ 128 < sum l (·.spb) ∨ 256 < sum l (·.abu) ∨ 128 < sum l (·.wbu) ∨ 128 < sum l (·.xbu)
          ∨ 16 < sum l (·.l1u) ∨ 32 < sum l (·.tlbu))
        || (List.range 4).any fun k => decide (1 < (l.filter fun (r : CoreRec) => fld r.pairs k k == 1).length)
/-- The status of an admission: the first refusal of R373. -/
def State.admission (s : State) (seat a : Nat) : Nat :=
  let p := s.placementAt a
  if s.badRecord seat a then 1
  else if (s.findSeat seat).isSome then 7
  else if p.frame < s.mailFrame + 16 then 5
  else if (s.seats.any fun (x : Seat) => rotaConflict p x.pl) || (p.cores.any fun (c : CoreRec) => !c.grant && c.cmap == 0) then 2
  else if 64 < popcount64 (s.entriesHeld ||| p.dmap) + 2 then 4
  else if overflows (p :: s.seats.map (·.pl)) then 3
  else 0
/-- Insert a seat in order of its number. -/
def insertSeat (x : Seat) : List Seat → List Seat
  | [] => [x]
  | y :: ys => if x.num < y.num then x :: y :: ys else y :: insertSeat x ys
/-- ADMIT (R373, R374). -/
def State.admitNow (s : State) (seat a : Nat) : State :=
  match s.admission seat a, s.quantumTable (s.placementAt a).qtab with
  | 0, some es =>
    let p := s.placementAt a
    let x : Seat := { num := seat, pl := p, qtab := es }
    (({ s with seats := insertSeat x s.seats }).at (p.frame * Config.frame) (.seating seat)).status 0
  | n, _ => s.status n
/-- ADMIT (R373). -/
def execAdmitSeat (s : State) : Out :=
  runEvent s fun
    | .admitSeat seat a => some (s.command fun s => s.admitNow seat a)
    | _ => none

/-! ### Seating and switching (R15, R24, R324, R325, R377-R379) -/

/-- The slots a seat owns. -/
def Seat.ownsSlot (x : Seat) (i : Nat) : Bool := x.pl.dmap.getLsbD (i % 64)
/-- What a function finds emptied at its seating (R324, R379). -/
def Seat.emptied (x : Seat) : Seat := { x with l1 := [], l2 := [], tlb := [], pred := [] }
/-- Everything of a seated function that may go on is looked at. -/
def State.pokeSeat (s : State) (n : Nat) : State :=
  match s.findSeat n with
  | none => s
  | some x =>
    let s := x.coreList.foldl (fun (s : State) c => ((s.pokeCarve n c s.g).pokeEngine n c s.g).once s.g (.rowInject c n)) s
    let mine := s.teams.filter fun (t : Team) => t.seat == n && t.vf == x.vf
    let s := mine.foldl (fun (s : State) (t : Team) => match t.state with
      | .carving => s.once (max s.g (t.since + (if t.everResident then Config.saveCycles else Config.carveCycles))) (.teamRelease t.id)
      | .parked => s.once s.g (.parkWake t.id)
      | _ => s) s
    let s := (s.ops.filter fun (o : Op) => o.seat == n && (ringOf o).isSome && o.from_ != 0 && o.applied.isNone).foldl (fun (s : State) (o : Op) =>
      match ringOf o with
      | some (i, _) => s.pokeRing i o.core s.g
      | none => s) s
    let s := (s.arms.filter fun (a : Arm) => a.seat == n).foldl (fun (s : State) (a : Arm) => s.pokeRing a.slot a.core s.g) s
    (x.waits.filter fun (w : Charged) => w.vf == x.vf).foldl (fun (s : State) (w : Charged) => s.once s.g (.chargedWaitDue n w.id)) s
/-- The seated function's waits for its doorbell count that the count has reached have their answer (R278, R381). -/
def Seat.answerDoors (x : Seat) (n : W32) (g : Nat) : Seat :=
  { x with waits := x.waits.map fun (w : Charged) => match w.door with
    | some t => if w.doneAt = none && w.vf == x.vf && doorReached n t then { w with doneAt := some g } else w
    | none => w }
/-- A function is seated with %oclk at `v` (R24, R378): its quantum, its balancing, and its doorbell count at its first seating. The search
of R45 begins anew at the lowest key (log 131). Balancing compares at every multiple of 4,096 of %oclk, this cycle's own among them
(R390). -/
def State.seatFunction (s : State) (n vf v : Nat) : State :=
  match s.findSeat n with
  | none => s
  | some x =>
    let first := !(x.fns.any fun (f : FnRec) => f.vf == vf && f.seen)
    let s := if first then { s with doors := SMap.set 0 s.doors vf 0 } else s
    let s := s.mapSeat n fun x => { x.emptied with
      seated := true, switching := false, vf := vf, base := s.g - v, seatedAt := v, lastKey := [], sample := none
      fns := if x.fns.any fun (f : FnRec) => f.vf == vf then x.fns.map fun (f : FnRec) => if f.vf = vf then { f with seen := true } else f
        else x.fns ++ [{ vf := vf, seen := true }] }
    let s := s.mapSeat n fun x => x.answerDoors (SMap.get 0 s.doors vf) s.g
    let q := ((x.qtab.find? fun (e : QuantumEntry) => e.vf == vf).map (·.quantum)).getD 0
    let s := if 2 ≤ x.qtab.length then s.once (s.g + q) (.quantumEnd n) else s
    (s.once (s.g + (4096 - v % 4096) % 4096) (.loadBalance n)).pokeSeat n
/-- SEATING (R15, R324, R325): %oclk 0 on every core, caches and slots empty, launches prepared before it delivered. -/
def State.seatNow (s : State) (n : Nat) : State :=
  match s.findSeat n with
  | none => s
  | some x =>
    if x.seated ∨ s.g ≠ x.pl.frame * Config.frame then s
    else match x.qtab with
      | [] => s
      | e :: _ =>
        let s := { s with
          slots := s.slots.filter fun p => !(x.ownsSlot p.1) || p.2.state == 3
          pairs := s.pairs.filter fun (p : PlanePair) => p.seat != n }
        let s := s.seatFunction n e.vf 0
        (s.grids.filter fun (g : Grid) => g.seat == n && g.ready && !g.placed && decide (g.prepared < s.g)).foldl
          (fun (s : State) (g : Grid) => s.once s.g (.launchDelivery g.id)) s.scheduleAll
/-- SEATING (R15). -/
def execSeating (s : State) : Out :=
  runEvent s fun
    | .seating n => some (s.seatNow n)
    | _ => none

/-- The entry after function `vf` in circular order whose function has a team; the current one when none has (R378). -/
def State.nextFunction (s : State) (x : Seat) (tab : List QuantumEntry) : Nat :=
  let k := tab.findIdx fun (e : QuantumEntry) => e.vf == x.vf
  let order := if k < tab.length then tab.drop (k + 1) ++ tab.take (k + 1) else tab
  match order.find? fun (e : QuantumEntry) => s.teams.any fun (t : Team) => t.seat == x.num && t.vf == e.vf && t.state != .ended with
  | some e => e.vf
  | none => if k < tab.length then x.vf else ((tab.head?).map (·.vf)).getD x.vf
/-- QUANTUM_END (R378, R379): the outgoing function stops issuing; the incoming one follows 2^17 cycles on. -/
def State.endQuantum (s : State) (n : Nat) : State :=
  match s.findSeat n with
  | none => s
  | some x =>
    if !x.seated || x.switching || decide (x.qtab.length < 2) then s
    else if x.frozen.isSome then s.once (nextFrame (s.g + 1)) (.quantumEnd n)
    else
      let q := ((x.qtab.find? fun (e : QuantumEntry) => e.vf == x.vf).map (·.quantum)).getD 0
      let now := x.oclk s.g
      if !x.yield_ && decide (now < x.seatedAt + q) then s.once (s.g + (x.seatedAt + q - now)) (.quantumEnd n)
      else
        let tab := x.nextQtab.getD x.qtab
        let s := s.mapSeat n fun x => { x with
          switching := true, yield_ := false, qtab := tab, nextQtab := none, nextVf := s.nextFunction x tab
          fns := x.fns.map fun (f : FnRec) => if f.vf = x.vf then { f with oclk := some now } else f }
        s.at (s.g + Config.chargeAbsence) (.switchComplete n)
/-- QUANTUM_END (R378). -/
def execQuantumEnd (s : State) : Out :=
  runEvent s fun
    | .quantumEnd n => some (s.endQuantum n)
    | _ => none

/-- The resident teams of a seat's function. -/
def State.residents (s : State) (seat vf : Nat) : List Team := s.teams.filter fun (t : Team) => t.seat == seat && t.vf == vf && t.state == .resident
/-- Resident teams, slots and arms of a seat put away with its outgoing function (R78, R317, R379); a walk of it fills no TLB any more. -/
def State.putAway (s : State) (x : Seat) : State :=
  let mine := s.slots.filter fun p => x.ownsSlot p.1 && p.2.state != 3
  let ids := (s.teams.filter fun (t : Team) => t.seat == x.num && t.vf == x.vf).map (·.id)
  let arms := s.arms.filter fun (a : Arm) => ids.contains a.team
  let s := { s with
    slots := s.slots.filter fun p => !(x.ownsSlot p.1 && p.2.state != 3)
    arms := s.arms.filter fun (a : Arm) => !(ids.contains a.team)
    freedArms := s.freedArms ++ arms.map fun (a : Arm) => (a.core, a.seat)
    ops := s.ops.map fun (o : Op) => if o.seat = x.num then { o with pages := [] } else o
    walks := s.walks.map fun (w : Walk) => if w.seat = x.num then { w with
      drops := (0, 2 ^ 57) :: w.drops
      waiters := w.waiters.filter fun p => !(mine.any fun m => p.1 == FaultOwner.alight m.1) } else w }
  let s := (s.residents x.num x.vf).foldl (fun (s : State) t => s.saveImage t) s
  s.mapSeat x.num fun x => { x with fns := x.fns.map fun (f : FnRec) => if f.vf = x.vf then { f with slots := mine, arms := arms } else f }
/-- Resident teams, slots and arms of the incoming function restored (R79, R317, R379); their code is as it stands at this restore (R178). -/
def State.bringBack (s : State) (n vf : Nat) : State :=
  match (s.findSeat n).bind fun x => x.fns.find? fun (f : FnRec) => f.vf == vf with
  | none => s
  | some f =>
    let s := f.slots.foldl (fun (s : State) p => if (s.slot p.1).state = 3 then s else s.setSlot p.1 p.2) s
    let s := { s with arms := s.arms ++ f.arms.map fun (a : Arm) => { a with from_ := s.g } }
    let s := s.nowDue f.arms
    let s := (s.residents n vf).foldl (fun (s : State) t => s.mapTeam t.id fun t => { t with code := { at_ := s.store }, save := none }) s
    (s.residents n vf).foldl (fun (s : State) t => s.checkTiles t.id) s
/-- The home write of an alighting slot that nothing carries out any more sets out again: its page was resolved while the function was
away (R317, R358). -/
def State.retryHome (s : State) (vf : Nat) (i : Nat) : State :=
  let busy : Bool := (s.reqs.any fun (r : Req) => r.kind == ReqKind.alight && r.owner == i && ((s.slot i).writing).any fun w => w.1 == r.age) || (s.walks.any fun (w : Walk) => w.waiters.any fun p => p.1 == FaultOwner.alight i)
    || (s.faults.any fun (f : FaultRec) => f.owner == FaultOwner.alight i && f.vf == vf)
  if (s.slot i).state = 2 && !busy then s.homeWrite i else s
/-- SWITCH_COMPLETE (R24, R379): the incoming function with its own %oclk, 131,072 on from where it stopped. -/
def State.endSwitch (s : State) (n : Nat) : State :=
  match s.findSeat n with
  | none => s
  | some x =>
    if !x.switching then s
    else
      let s := (s.putAway x).bringBack n x.nextVf
      let fn := x.fns.find? fun (f : FnRec) => f.vf == x.nextVf
      let slots := ((fn.map fun (f : FnRec) => f.slots).getD []).map (·.1)
      match fn.bind (·.oclk) with
      | none => s.seatFunction n x.nextVf 0
      | some v =>
        let s := s.seatFunction n x.nextVf (v + Config.chargeAbsence)
        let s := slots.foldl (fun (s : State) i => s.retryHome x.nextVf i) s
        s.logEvent n 4 ((x.coreList.head?).getD 0) v 0 Config.chargeAbsence
/-- SWITCH_COMPLETE (R24). -/
def execSwitchComplete (s : State) : Out :=
  runEvent s fun
    | .switchComplete n => some (s.endSwitch n)
    | _ => none

/-- QTABLE (R376, R377): the new table acts from the next quantum end. -/
def execQtable (s : State) : Out :=
  runEvent s fun
    | .qtable n a => some (s.command fun s => match s.quantumTable a, s.findSeat n with
      | none, _ => s.status 1
      | _, none => s.status 8
      | some es, some _ => (s.mapSeat n fun x => { x with nextQtab := some es }).status 0)
    | _ => none

/-! ### Leases (R19, R375) -/

/-- A seat is party to a lease, current or pending. -/
def State.leased (s : State) (n : Nat) : Bool :=
  match s.findSeat n with
  | some x => x.lease.v
  | none => false
/-- The status of a LEASE command (R375). -/
def State.leaseStatus (s : State) (lender : Nat) (w2 lmap : W64) (first count : Nat) : Nat :=
  let b := fld w2.toNat 3 0
  if count = 0 ∨ 2 ^ 32 ≤ count ∨ lmap = 0 ∨ fld w2.toNat 63 4 ≠ 0 then 1
  else if (match s.findSeat lender with
      | some x => lmap &&& ~~~x.pl.dmap != 0
      | none => false) || lender == 15 || b == 15 || lender == b || s.leased lender || s.leased b then 2
  else if first < s.mailFrame + 2 then 6
  else if (s.findSeat lender).isNone || (s.findSeat b).isNone then 8
  else 0
/-- LEASE (R375). -/
def State.leaseNow (s : State) (lender : Nat) (w2 lmap first count : W64) : State :=
  let n := s.leaseStatus lender w2 lmap first.toNat count.toNat
  let b := fld w2.toNat 3 0
  if n ≠ 0 then s.status n
  else
    let r (lend : Bool) (peer : Nat) : LeaseRec := { v := true, lend := lend, peer := peer, lmap := lmap, first := first.toNat, count := count.toNat }
    let s := (s.mapSeat lender fun x => { x with lease := r true b }).mapSeat b fun x => { x with lease := r false lender }
    ((s.at (first.toNat * Config.frame) (.leaseBegin lender)).at ((first.toNat + count.toNat) * Config.frame) (.leaseEnd lender)).status 0
/-- LEASE (R375). -/
def execLease (s : State) : Out :=
  runEvent s fun
    | .lease lender w2 lmap first count => some (s.command fun s => s.leaseNow lender w2 lmap first count)
    | _ => none
/-- The positions of two seats have changed hands: what waits for one is placed again. -/
def State.pokeLease (s : State) (a b : Nat) : State :=
  (s.seats.filter fun (x : Seat) => x.num == a || x.num == b).foldl (fun (s : State) (x : Seat) =>
    x.coreList.foldl (fun (s : State) c => (s.pokeEngine x.num c s.g).once s.g (.rowInject c x.num)) s) s.scheduleAll
/-- LEASE_BEGIN (R19): the lent positions are the borrower's from this frame (`Seat.rotaMap`). -/
def execLeaseBegin (s : State) : Out :=
  runEvent s fun
    | .leaseBegin n => some (match s.findSeat n with
      | some x => s.pokeLease n x.lease.peer
      | none => s)
    | _ => none
/-- LEASE_END (R375): both records clear themselves. -/
def execLeaseEnd (s : State) : Out :=
  runEvent s fun
    | .leaseEnd n =>
      match s.findSeat n with
      | some x =>
        if x.lease.v && decide (x.lease.first + x.lease.count ≤ s.g / Config.frame) then
          some (((s.mapSeat n fun x => { x with lease := {} }).mapSeat x.lease.peer fun x => { x with lease := {} }).pokeLease n x.lease.peer)
        else some s
      | none => some s
    | _ => none

/-! ### Eviction (R374) -/

/-- EVICT (R374). -/
def execEvict (s : State) : Out :=
  runEvent s fun
    | .evict n force => some (s.command fun s =>
      if s.leased n then s.status 7
      else match s.findSeat n with
        | none => s.status 8
        | some _ => (s.mapSeat n fun x => { x with evict := some force }).status 0)
    | _ => none
/-- The seat is idle: no team, no slot aboard (R374). -/
def State.seatIdle (s : State) (x : Seat) : Bool :=
  !(s.teams.any fun (t : Team) => t.seat == x.num) && !(s.slots.any fun p => x.ownsSlot p.1 && p.2.state == 1)
    && !(x.fns.any fun (f : FnRec) => f.slots.any fun p => p.2.state == 1)
/-- The seat leaves. -/
def State.dropSeat (s : State) (x : Seat) : State :=
  { s with
    seats := s.seats.filter fun (y : Seat) => y.num != x.num
    reqs := s.reqs.filter fun (r : Req) => r.seat != x.num
    walks := s.walks.filter fun (w : Walk) => w.seat != x.num
    faults := s.faults.filter fun (f : FaultRec) => f.seat != x.num
    pairs := s.pairs.filter fun (p : PlanePair) => p.seat != x.num
    power := { s.power with pending := s.power.pending.filter fun c => match c with
      | .floor n _ _ => n != x.num
      | .cap _ _ => true }
    slots := s.slots.filter fun p => !(x.ownsSlot p.1) || p.2.state == 3 }
/-- SEAT_EVICTION (R374): with FORCE the teams end and the slots aboard empty; the idle seat ends. -/
def State.evictNow (s : State) (n : Nat) : State :=
  match s.findSeat n with
  | none => s
  | some x =>
    match x.evict with
    | none => s
    | some force =>
      let s := if force then
          let s := (s.teams.filter fun (t : Team) => t.seat == n).foldl (fun (s : State) (t : Team) => s.haltTeam t.id 0xFFFE (0xFFFE#64)) s
          let s := { s with slots := s.slots.filter fun p => !(x.ownsSlot p.1 && p.2.state == 1) }
          s.mapSeat n fun x => { x with fns := x.fns.map fun (f : FnRec) => { f with slots := f.slots.filter fun p => p.2.state != 1 } }
        else s
      match s.findSeat n with
      | some x => if s.seatIdle x then s.dropSeat x else s
      | none => s
/-- SEAT_EVICTION (R374). -/
def execSeatEviction (s : State) : Out :=
  runEvent s fun
    | .seatEviction n => some (s.evictNow n)
    | _ => none

/-! ### Load balancing (R390) -/

/-- Two cores stand side by side on a die. -/
def neighbours (a b : Nat) : Bool := a / 64 == b / 64 && hopsBetween (a % 64) (b % 64) == 1
/-- Pending teams of a core that have never been Resident and belong to no cluster, in queue order. -/
def State.unstarted (s : State) (n core : Nat) : List Team :=
  sortBy (fun (a b : Team) => decide (a.queued < b.queued)) ((s.teamsOn n core).filter fun (t : Team) =>
    t.state == .pending && !t.everResident && t.cluster.isNone)
/-- What is sampled of a core: no portable team may be moved. -/
def State.sampleOf (s : State) (n core : Nat) : CoreSample :=
  { core := core, depth := (s.unstarted n core).length, teams := ((s.unstarted n core).filter fun (t : Team) => !t.mode.port).map (·.id) }
/-- The moves from one core of depth `d`, given the sampled depths: pairs of a team and its new core, in landing order. -/
def movesFrom (depth : Nat → Nat) (d : Nat) : List Nat → List Nat → List (Nat × Nat)
  | [], _ => []
  | c :: cs, ts =>
    let k := if d > depth c + 4 then min ((d - depth c) / 2) ts.length else 0
    ((ts.drop (ts.length - k)).map fun t => (t, c)) ++ movesFrom depth d cs (ts.take (ts.length - k))
/-- The moves of a cycle, for what was sampled; a team that has entered Carving meanwhile is not moved. -/
def State.movesOf (s : State) (n : Nat) (l : List CoreSample) : List (Nat × Nat) :=
  let depth (c : Nat) : Nat := ((l.find? fun (p : CoreSample) => p.core == c).map (·.depth)).getD 0
  l.flatMap fun (p : CoreSample) => movesFrom depth p.depth ((l.map (·.core)).filter fun c => neighbours p.core c)
    (p.teams.filter fun id => (s.unstarted n p.core).any fun (t : Team) => t.id == id)
/-- A team goes to the tail of another core's pending queue, which is looked at from the next cycle on (log 120), and so is the queue that
it leaves: its head may be another one now. -/
def State.moveTeam (s : State) (n : Nat) (m : Nat × Nat) : State :=
  let (k, s) := s.fresh
  let s := match s.findTeam m.1 with
    | some t => s.pokeCarve n t.core (s.g + 1)
    | none => s
  (s.mapTeam m.1 fun t => { t with core := m.2, queued := k }).pokeCarve n m.2 (s.g + 1)
/-- LOAD_BALANCE (R390): at the start of the cycle each core's depth is sampled; the moves follow when the queues' heads have been
carved. -/
def State.balance (s : State) (n : Nat) : State :=
  match s.findSeat n with
  | none => s
  | some x =>
    if !x.running || x.oclk s.g % 4096 != 0 then s
    else match x.sample with
      | none => (s.mapSeat n fun x => { x with sample := some (x.coreList.map fun c => s.sampleOf n c) }).once s.g (.loadBalance n)
      | some l =>
        let s := (s.mapSeat n fun x => { x with sample := none }).once (s.g + 4096) (.loadBalance n)
        (s.movesOf n l).foldl (fun (s : State) m => s.moveTeam n m) s
/-- LOAD_BALANCE (R390). -/
def execLoadBalance (s : State) : Out :=
  runEvent s fun
    | .loadBalance n => some (s.balance n)
    | _ => none

/-! ### Run modes and pre-emption (R391-R395) -/

/-- RUNMODE (R391). -/
def execRunmode (s : State) : Out :=
  runEvent s fun
    | .runmode rcb w clear => some (s.command fun s =>
      let q := fld w.toNat 24 20
      if !clear && (fld w.toNat 31 25 != 0 || fld w.toNat 19 3 != 0 || (if w.getLsbD 1 then !(decide (8 ≤ q ∧ q ≤ 16)) else q != 0 || w.getLsbD 2)) then s.status 1
      else if !(s.regionSound rcb) then s.status 8
      else
        let l := s.runModes.filter fun r => r.1 != rcb
        ({ s with runModes := if clear then l else l ++ [(rcb, w)] }).status 0)
    | _ => none

/-- PREEMPT (R392): the request is delivered to the region's seat at the next frame boundary. -/
def execPreempt (s : State) : Out :=
  runEvent s fun
    | .preempt rcb t => some (s.command fun s =>
      if t.toNat = 0 ∨ 2 ^ 32 ≤ t.toNat ∨ !(s.regionSound rcb) then s.status 8
      else s.at (nextFrame (s.g + 1)) (.preemptDelivery rcb t))
    | _ => none
/-- RESUME (R392). -/
def execResume (s : State) : Out :=
  runEvent s fun
    | .resume rcb => some (s.command fun s =>
      if !(s.regionSound rcb) then s.status 8
      else
        let s := { s with preempted := s.preempted.filter fun r => r != rcb }
        (s.seats.foldl (fun (s : State) (x : Seat) => s.pokeSeat x.num) s).status 0)
    | _ => none

/-- I: the largest %iret of a team's groups. -/
def Team.retired (t : Team) : Nat := t.groups.foldl (fun n (g : Group) => max n g.iret.toNat) 0
/-- L: the bytes of a team's live register banks, its scratchpad banks and its buffer shares (R393). -/
def Team.liveBytes (t : Team) : Nat :=
  (t.groups.foldl (fun n (g : Group) => n + 1024 * (g.banks.filter fun b => b.2 == .full || b.2 == .retain).length) 0)
    + Config.bankBytes * t.nscratch + 4096 * (t.nabuf + t.nwbuf + t.nxbuf)
/-- What PREEMPT does with a team (R393). -/
inductive Dealt where
  | drain | discard | save
  deriving DecidableEq, Repr
/-- Rm; none when unbounded. -/
def Team.remaining (t : Team) : Option Nat := if t.retired < t.mode.est then some (t.mode.est - t.retired) else none
/-- The second row of R393. -/
def Team.mayDiscard (t : Team) : Bool := t.mode.rst && !t.mode.port && decide (4 * t.retired ≤ 12288 + (t.liveBytes + 255) / 256)
/-- The first row of R393 that applies. -/
def Team.dealt (t : Team) (limit : Nat) : Dealt :=
  if t.remaining.any fun r => decide (4 * r ≤ limit) then .drain
  else if t.mayDiscard then .discard
  else .save
/-- What is done with a team, and with the teams that change state with it (R51): a cluster is drained where each of its teams would be, else
discarded where each of them may be, else saved (DESIGN CHOICE, log 132). -/
def State.unitDealt (s : State) (t : Team) (limit : Nat) : Dealt :=
  match s.unitOf t with
  | [] => t.dealt limit
  | us => if us.all fun u => u.dealt limit == .drain then .drain else if us.all Team.mayDiscard then .discard else if us.length = 1 then t.dealt limit else .save
/-- An operation that a discard removes: a command that has not begun (R394). -/
def Op.unbegun (o : Op) : Bool :=
  match o.kind with
  | .copy _ => !o.started
  | .matrix _ => !o.begun
  | _ => false
/-- Deal with one team (R394, R395); one that is being carved is dealt with at its release. Plane pairs stand as though an xlds or xswp that is
removed had not issued. -/
def State.deal (s : State) (t : Team) (d : Dealt) : State :=
  let now := t.state == .resident
  match d with
  | .drain => s.mapTeam t.id fun t => { t with noVictim := true }
  | .discard =>
    let s := s.mapTeam t.id fun t => { t with discard := true }
    let dead := s.ops.filter fun (o : Op) => o.team == t.id && o.unbegun
    let s := dead.reverse.foldl (fun (s : State) (o : Op) => s.undoPlane o) s
    let s := dead.foldl (fun (s : State) (o : Op) => s.finishOp o.id) (s.withdrawArms t.id)
    if now then s.now (.teamEnd t.id) else s
  | .save => if now then s.drain t.id true else s.mapTeam t.id fun t => { t with parkAfter := true }
/-- The delivery of a PREEMPT to the region's seat (R392, R393): a twin is no team of its own, and goes the way of its primary (R401). The
queues whose head is held from now on are looked at again. -/
def State.preemptNow (s : State) (rcb limit : Nat) : State :=
  let hit (t : Team) : Bool := t.region.chain.contains rcb && (t.state == .resident || t.state == .carving)
  let s := { s with preempted := insertNat rcb s.preempted }
  let s := match s.seatOfVf (s.rec64 rcb 285 280) with
    | some x => x.coreList.foldl (fun (s : State) c => s.pokeCarve x.num c s.g) (s.logEvent x.num 2 ((x.coreList.head?).getD 0) (s.oclk x.num) (BitVec.ofNat 64 rcb))
    | none => s
  let l := (s.teams.filter fun (t : Team) => hit t && t.twin.isNone).map fun (t : Team) => (t, s.unitDealt t limit)
  let count (d : Dealt) : Nat := (l.filter fun p => p.2 == d).length
  let meets := l.all fun p => match p.2 with
    | .drain => p.1.remaining.any fun r => decide (4 * r ≤ limit)
    | _ => decide (12288 ≤ limit)
  let s := l.foldl (fun (s : State) p =>
    (s.teams.filter fun (u : Team) => u.id == p.1.id || (hit u && u.twin == some p.1.id)).foldl (fun (s : State) u => s.deal u p.2) s) s
  s.answer [0, BitVec.ofNat 64 (count .drain), BitVec.ofNat 64 (count .discard), BitVec.ofNat 64 (count .save), BitVec.ofNat 64 (bit meets)]
/-- PREEMPT_DELIVERY (R387, R392): at a frame boundary; a seat that is stopped or switching is met at a later one. -/
def State.deliverPreempt (s : State) (rcb : Nat) (limit : W64) : State :=
  match s.seatOfVf (s.rec64 rcb 285 280) with
  | some x => if x.running then s.preemptNow rcb limit.toNat else s.at (nextFrame (s.g + 1)) (.preemptDelivery rcb limit)
  | none => s.preemptNow rcb limit.toNat
/-- PREEMPT_DELIVERY (R393). -/
def execPreemptDelivery (s : State) : Out :=
  runEvent s fun
    | .preemptDelivery rcb t => some (s.deliverPreempt rcb t)
    | _ => none

/-! ### Frame boundaries (R11) -/

/-- FRAME_BOUNDARY: what waits for a boundary is looked at: late waits and stopped seats (R23), evictions (R374), a yield
(R346), and the waits of host queues (R383). -/
def State.boundary (s : State) : State :=
  if s.g % Config.frame ≠ 0 then s
  else
    let s := s.seats.foldl (fun (s : State) (x : Seat) =>
      let s := if x.mayResume s.g then s.once s.g (.freezeResume x.num) else s
      let s := if x.evict.isSome then s.once s.g (.seatEviction x.num) else s
      if x.yield_ then s.once s.g (.quantumEnd x.num) else s) s
    (s.queues.filter fun (q : Queue) => q.wait.isSome).foldl (fun (s : State) (q : Queue) => s.once s.g (.waitReread q.vf q.q)) s
/-- FRAME_BOUNDARY (R11). -/
def execFrameBoundary (s : State) : Out :=
  runEvent s fun
    | .frameBoundary => some s.boundary
    | _ => none

end Sys2Proof.Machine
end

