-- ==== Sys2Proof/Machine/Queues.lean ====
section
/-!
DEFINITION. Host submission queues (R380-R384), launches from the host (R387-R389), completions (R385, R386), doorbells (R381),
and the end of a grid (R278, R383).
-/

namespace Sys2Proof.Machine

open Sys2Proof

/-! ### Queue descriptors (R380) -/

def State.findQueue (s : State) (vf q : Nat) : Option Queue := s.queues.find? fun (k : Queue) => k.vf == vf && k.q == q
def State.mapQueue (s : State) (vf q : Nat) (f : Queue → Queue) : State :=
  { s with queues := s.queues.map fun (k : Queue) => if k.vf = vf ∧ k.q = q then f k else k }
/-- Fields of a queue's descriptor, as device memory holds it. -/
def State.qBase (s : State) (k : Queue) : Nat := s.rec64 k.addr 511 448
def State.qRcb (s : State) (k : Queue) : Nat := s.rec64 k.addr 447 384
def State.qHead (s : State) (k : Queue) : W32 := Memory.read32 s.mem (k.addr + 44)
def State.qTail (s : State) (k : Queue) : W32 := Memory.read32 s.mem (k.addr + 40)
def State.qLog (s : State) (k : Queue) : Nat := s.rec64 k.addr 319 315
def State.qState (s : State) (k : Queue) : Nat := s.rec64 k.addr 314 313
def State.setHead (s : State) (k : Queue) (h : W32) : State := { s with mem := Memory.write s.mem (k.addr + 44) 4 h.toNat }
/-- Write STATE and HSTAT, the bits about them kept. -/
def State.setQState (s : State) (k : Queue) (st hstat : Nat) : State :=
  let w := Memory.read s.mem (k.addr + 32) 8
  let v := fld w 48 0 + hstat % 256 * 2 ^ 49 + st % 4 * 2 ^ 57 + fld w 63 59 * 2 ^ 59
  { s with mem := Memory.write s.mem (k.addr + 32) 8 v }

/-- The seat and the effective region of a queue's grids (R367, R368). -/
def State.qRegion (s : State) (k : Queue) : Option (Seat × Region) :=
  (s.seatOfVf k.vf).bind fun x => (s.regionOf (s.qRcb k) x.num).map fun r => (x, r)
/-- The region that a queue's completions name: its own; where R369 makes that no region, what its RCB itself says of a completion
queue (log 88). -/
def State.qOwner (s : State) (k : Queue) : Region :=
  match s.qRegion k with
  | some (_, r) => { r with vf := k.vf }
  | none => { rcb := s.qRcb k, cqRcb := s.qRcb k, cqBase := s.rec64 (s.qRcb k) 383 320, cqLog := s.rec64 (s.qRcb k) 319 316, vf := k.vf }
/-- A completion of a queue. -/
def State.qComplete (s : State) (k : Queue) (status : Nat) (info : W64) : State := s.complete (s.qOwner k) k.q status info
/-- A halt (R384): HEAD names the ring command, STATE and HSTAT say why, a completion is written. -/
def State.haltQueue (s : State) (k : Queue) (status : Nat) : State :=
  ((s.setQState k 2 status).mapQueue k.vf k.q fun k => { k with stack := [], wait := none, blocked := false, failed := none, ats := [] }).qComplete k status 0
/-- TAIL is too far from HEAD (R380). -/
def State.badTail (s : State) (k : Queue) : Bool := decide (2 ^ s.qLog k < (s.qTail k - s.qHead k).toNat)

/-! ### Commands (R382) -/

/-- The address of the next command of a queue: in the open buffer, or in the ring. -/
def State.qCommand (s : State) (k : Queue) : Option Nat :=
  match k.stack with
  | (a, n, i) :: _ => if i < n then some (a + 64 * i) else none
  | [] => if s.qHead k = s.qTail k then none else some (s.qBase k + 64 * ((s.qHead k).toNat % 2 ^ s.qLog k))
/-- Word `k` of a command. -/
def State.qWord (s : State) (a k : Nat) : W64 := Memory.read64 s.mem (a + 8 * k)
/-- OP of a command; none with a reserved bit set (R382). -/
def State.qOp (s : State) (a : Nat) : Option Nat :=
  let w := s.qWord a 0
  let zero (l : List Nat) : Bool := l.all fun k => s.qWord a k == 0
  if fld w.toNat 63 10 ≠ 0 ∨ !(zero [5, 6, 7]) then none
  else match fld w.toNat 7 0 with
    | 0 => if zero [1, 2, 3, 4] then some 0 else none
    | 1 => some 1
    | 2 => if zero [3, 4] then some 2 else none
    | 3 => if zero [3, 4] then some 3 else none
    | 4 => if zero [3, 4] then some 4 else none
    | _ => none
/-- CQ and SER of a command. -/
def State.qCq (s : State) (a : Nat) : Bool := (s.qWord a 0).getLsbD 8
def State.qSer (s : State) (a : Nat) : Bool := (s.qWord a 0).getLsbD 9

/-- A launch of the queue found no room at its delivery, and waits in place (R383). -/
def State.inPlace (s : State) (k : Queue) : Bool :=
  s.grids.any fun (g : Grid) => !g.placed && k.live.contains g.id && decide (nextFrame (g.prepared + 1) ≤ s.g)
/-- The queue may start its next command now (R382-R386). -/
def State.mayServe (s : State) (k : Queue) : Bool :=
  s.qState k == 1 && !k.blocked && k.wait.isNone && !(s.inPlace k)
    && decide ((s.completions.filter fun (c : Completion) => c.rcb == (s.qOwner k).cqRcb).length < 256)
    && match s.qCommand k with
      | none => false
      | some a => match s.qOp a with
        | some 3 => k.live.isEmpty
        | some 1 => !(s.qSer a) || k.live.isEmpty
        | _ => true
/-- Firmware has a queue's command in hand. -/
def queueEvent : Event → Bool
  | .queueNop _ _ => true
  | .queueLaunch _ _ => true
  | .indirect _ _ => true
  | .signal _ _ => true
  | .wait _ _ => true
  | _ => false
/-- Order in which firmware takes queues: descending PRIO, then function, then number (R380). -/
def State.queueBefore (s : State) (a b : Queue) : Bool :=
  let prio (k : Queue) : Nat := match s.qRegion k with
    | some (_, r) => r.prio
    | none => 0
  decide (prio a > prio b ∨ (prio a = prio b ∧ (a.vf < b.vf ∨ (a.vf = b.vf ∧ a.q < b.q))))
/-- The row of a queue's next command. -/
def State.queueRow (s : State) (k : Queue) : Event :=
  match (s.qCommand k).bind s.qOp with
  | some 1 => .queueLaunch k.vf k.q
  | some 2 => .indirect k.vf k.q
  | some 3 => .signal k.vf k.q
  | some 4 => .wait k.vf k.q
  | _ => .queueNop k.vf k.q
/-- Firmware, when it has no command in hand, takes the next one, after a time the spec leaves open (log 5). -/
def State.pokeQueues (s : State) : State :=
  if s.agenda.any fun e => queueEvent e.2 then s
  else match sortBy (s.queueBefore) (s.queues.filter s.mayServe) with
    | [] => s
    | k :: _ =>
      let (d, s) := s.draw
      s.at (s.g + d) (s.queueRow k)

/-- The command at hand is over: the next index, and the buffers that end with it (R383, R384). -/
def State.advanceFrom (s : State) (vf q : Nat) : Nat → State
  | 0 => s
  | n + 1 =>
    match s.findQueue vf q with
    | none => s
    | some k =>
      match k.stack with
      | [] => s.setHead k (s.qHead k + 1)
      | (a, m, i) :: rest =>
        if i + 1 < m then s.mapQueue vf q fun k => { k with stack := (a, m, i + 1) :: rest }
        else
          let s := s.mapQueue vf q fun k => { k with stack := rest }
          let s := match s.findQueue vf q with
            | some k => match s.qCommand k with
              | some c => if s.qCq c then s.qComplete k 0 0 else s
              | none => s
            | none => s
          s.advanceFrom vf q n
/-- The command at hand is over, and firmware takes the next one. -/
def State.nextCommand (s : State) (k : Queue) : State :=
  let s := (s.mapQueue k.vf k.q fun k => { k with failed := none, blocked := false, ats := [] }).advanceFrom k.vf k.q 6
  match s.findQueue k.vf k.q with
  | some k => (if s.qState k = 1 ∧ k.stack = [] ∧ s.qHead k = s.qTail k then s.setQState k 0 0 else s).pokeQueues
  | none => s.pokeQueues
/-- It completes at once: with CQ set a completion is written. -/
def State.doneCommand (s : State) (k : Queue) (a : Nat) (info : W64) : State :=
  (if s.qCq a then s.qComplete k 0 info else s).nextCommand k

/-- The frame of a queue row: the queue's next command must be of that row and ready; else firmware looks again. -/
def queueRun (s : State) (vf q : Nat) (op : Option Nat) (f : Queue → Nat → State) : State :=
  match s.findQueue vf q with
  | none => s.pokeQueues
  | some k =>
    match s.qCommand k with
    | some a => if s.mayServe k ∧ s.qOp a = op then f k a else s.pokeQueues
    | none => s.pokeQueues

/-- QUEUE_NOP (R382); a command whose OP or reserved bits break R382 halts the queue here. -/
def execQueueNop (s : State) : Out :=
  runEvent s fun
    | .queueNop vf q => some (match (s.findQueue vf q).bind fun k => (s.qCommand k).map fun a => (k, s.qOp a) with
      | some (k, none) => if s.mayServe k then (s.haltQueue k 1).pokeQueues else s.pokeQueues
      | _ => queueRun s vf q (some 0) fun k a => s.doneCommand k a 0)
    | _ => none

/-! ### Addresses of commands (R382) -/

/-- A virtual address of a queue's space: its place, a page to be serviced, an ATS page whose place the host is to tell, or
unresolvable. -/
inductive Reach where
  | at_ (p : Phys)
  | wait (va : Nat)
  | ask (va : Nat)
  | never
  deriving DecidableEq, Repr
def State.reach (s : State) (k : Queue) (asid va : Nat) (want : Want) : Reach :=
  let failed := k.failed.any fun f => f / 4096 == va / 4096
  match s.walkNow asid va with
  | .leaf level w _ =>
    if !(permits w .supervisor want) then .never
    else if !leafBit w 55 then .at_ (leafPlace level w va)
    else if (s.pasidOf asid).isNone || failed then .never
    else match k.ats.find? fun a => a.1 == va / 4096 * 4096 with
      | some a => .at_ (.host (a.2 + va % 4096))
      | none => .ask va
  | .absent _ _ _ => if failed then .never else .wait va
  | _ => .never
/-- The queue waits while the host translates an ATS page, without charging a seat (R364, R365, R382): a walk of the queue's own. -/
def State.awaitHost (s : State) (k : Queue) (x : Seat) (asid va : Nat) (write : Bool) : State :=
  match s.walkNow asid va with
  | .leaf level w at_ =>
    let (id, s) := s.fresh
    let wk : Walk := { id := id, seat := x.num, core := (x.coreList.head?).getD 0, asid := asid, va := va, write := write, level := level, table := at_ - 8 * levelIndex va level, entry := w, waiters := [(.queue k.vf k.q, 0)], started := true }
    let s := s.mapQueue k.vf k.q fun k => { k with blocked := true }
    (({ s with walks := s.walks ++ [wk] } : State).askAts wk).pokeQueues
  | _ => s
/-- The queue waits for fault service (R382). -/
def State.awaitPage (s : State) (k : Queue) (x : Seat) (r : Region) (va : Nat) (write : Bool) : State :=
  let s := (s.mapQueue k.vf k.q fun k => { k with blocked := true }).recordFault x.num r.asid va write false (.queue k.vf k.q)
  ({ s with faults := s.faults.map fun (f : FaultRec) => if f.owner = FaultOwner.queue k.vf k.q then { f with region := r } else f }).pokeQueues
/-- Bytes of a queue's space, or what their reading waits for. -/
def State.reachBytes (s : State) (k : Queue) (asid : Nat) : Nat → Nat → List Byte → List Byte ⊕ Reach
  | 0, _, l => .inl l.reverse
  | n + 1, a, l =>
    match s.reach k asid a .read with
    | .at_ p => s.reachBytes k asid n (a + 1) (BitVec.ofNat 8 (s.readAt p 1) :: l)
    | r => .inr r

/-- SIGNAL (R383): after every earlier command, VALUE at ADDR. -/
def execSignal (s : State) : Out :=
  runEvent s fun
    | .signal vf q => some (queueRun s vf q (some 3) fun k a =>
      let va := (s.qWord a 1).toNat
      match s.qRegion k with
      | none => (s.haltQueue k 1).pokeQueues
      | some (x, r) =>
        if va % 8 ≠ 0 ∨ !(canonical va) then (s.haltQueue k 1).pokeQueues
        else match s.reach k r.asid va .write with
          | .at_ p => (s.writeAt p (bytesOf 8 (s.qWord a 2).toNat)).doneCommand k a 0
          | .wait va => s.awaitPage k x r va true
          | .ask va => s.awaitHost k x r.asid va true
          | .never => (s.haltQueue k 1).pokeQueues)
    | _ => none

/-- The value of a WAIT has reached its bound. -/
def State.waitHolds (s : State) (p : Phys) (v : W64) : Bool := decide (v.toNat ≤ s.readAt p 8)
/-- WAIT (R383): the first read. -/
def execWait (s : State) : Out :=
  runEvent s fun
    | .wait vf q => some (queueRun s vf q (some 4) fun k a =>
      let va := (s.qWord a 1).toNat
      match s.qRegion k with
      | none => (s.haltQueue k 1).pokeQueues
      | some (x, r) =>
        if va % 8 ≠ 0 ∨ !(canonical va) then (s.haltQueue k 1).pokeQueues
        else match s.reach k r.asid va .read with
          | .at_ p =>
            if s.waitHolds p (s.qWord a 2) then s.doneCommand k a 0
            else (s.mapQueue vf q fun k => { k with wait := some (va, s.qWord a 2) }).pokeQueues
          | .wait va => s.awaitPage k x r va false
          | .ask va => s.awaitHost k x r.asid va false
          | .never => (s.haltQueue k 1).pokeQueues)
    | _ => none
/-- WAIT_REREAD (R383): the read at a frame boundary; one that meets a fault is made again after its service (R382). -/
def execWaitReread (s : State) : Out :=
  runEvent s fun
    | .waitReread vf q => some (match s.findQueue vf q with
      | none => s
      | some k =>
        match k.wait, s.qRegion k, s.qCommand k with
        | some (va, v), some (x, r), some a =>
          match s.reach k r.asid va .read with
          | .at_ p => if s.waitHolds p v then (s.mapQueue vf q fun k => { k with wait := none }).doneCommand k a 0 else s
          | .wait va => (s.mapQueue vf q fun k => { k with wait := none }).awaitPage k x r va false
          | .ask va => (s.mapQueue vf q fun k => { k with wait := none }).awaitHost k x r.asid va false
          | .never => (s.haltQueue k 1).pokeQueues
        | _, _, _ => s)
    | _ => none

/-- Two ranges of bytes meet. -/
def rangesMeet (a n b m : Nat) : Bool := decide (a < b + m ∧ b < a + n)
/-- INDIRECT (R382-R384). -/
def execIndirect (s : State) : Out :=
  runEvent s fun
    | .indirect vf q => some (queueRun s vf q (some 2) fun k a =>
      let b := (s.qWord a 1).toNat
      let n := (s.qWord a 2).toNat
      if b % 64 ≠ 0 ∨ n = 0 ∨ 65535 < n then (s.haltQueue k 1).pokeQueues
      else if 4 ≤ k.stack.length ∨ rangesMeet b (64 * n) (s.qBase k) (64 * 2 ^ s.qLog k) ∨ k.stack.any (fun e => rangesMeet b (64 * n) e.1 (64 * e.2.1)) then
        (s.haltQueue k 2).pokeQueues
      else (s.mapQueue vf q fun k => { k with stack := (b, n, 0) :: k.stack }).pokeQueues)
    | _ => none

/-! ### LAUNCH (R383, R387-R389) -/

/-- A LAUNCH is refused: a completion whatever CQ holds, and the queue goes on (R383). -/
def State.refuseLaunch (s : State) (k : Queue) (status : Nat) (tag : W64) : State := (s.qComplete k status tag).nextCommand k
/-- The preparation of a LAUNCH (R387): the checks of R383, the extent tables (R360); then its delivery is set for the first
frame boundary strictly after this cycle. -/
def State.prepare (s : State) (k : Queue) (a : Nat) : State :=
  let w (n : Nat) : W64 := s.qWord a n
  let tag := w 4 &&& 0xFFFF#64
  match s.qRegion k with
  | none => s.refuseLaunch k 9 tag
  | some (x, r) =>
    let mode := s.modeOf r.chain
    let kd := (w 1).toNat
    let pa := (w 2).toNat
    if mode.twin && decide (x.coreList.length ≤ 1) then s.refuseLaunch k 9 tag
    else if kd % 64 ≠ 0 ∨ pa % 8 ≠ 0 ∨ !(extReserved (w 3) (w 4)) ∨ !(extLegal (w 3)) then s.refuseLaunch k 13 tag
    else match s.reachBytes k r.asid Config.kernelBytes kd [], s.reachBytes k r.asid 64 pa [] with
      | .inr (.wait va), _ => s.awaitPage k x r va false
      | .inr (.ask va), _ => s.awaitHost k x r.asid va false
      | .inr _, _ => s.refuseLaunch k 13 tag
      | _, .inr (.wait va) => s.awaitPage k x r va false
      | _, .inr (.ask va) => s.awaitHost k x r.asid va false
      | _, .inr _ => s.refuseLaunch k 13 tag
      | .inl kb, .inl pb =>
        let e := extOf (w 3)
        match kernelIn kb with
        | none => s.refuseLaunch k 13 tag
        | some kn =>
          if kn.isolated && x.num == 15 then s.refuseLaunch k 7 tag
          else if x.coreList.length < shapeSize e.2.2.2 then s.refuseLaunch k 6 tag
          else
            let params := wordsOf (halves32 pb)
            let ds := declaredOf kn params
            match s.buildExtents r.asid ds with
            | .refused st => s.refuseLaunch k st tag
            | .fault va wr => if k.failed.any (fun f => f / 4096 == va / 4096) then s.refuseLaunch k 12 tag else s.awaitPage k x r va wr
            | .ok es =>
              let (id, s) := s.fresh
              let g : Grid := { id := id, seat := x.num, region := { r with vf := k.vf }, mode := mode, kernel := kn, params := params, gx := e.1, gy := e.2.1, gz := e.2.2.1, shape := e.2.2.2, tag := tag.toNat, launcher := .host k.vf k.q (s.qCq a) id, ready := true, prepared := s.g, extents := es, declared := ds }
              let s := { s with grids := s.grids ++ [g] }
              let s := s.mapQueue k.vf k.q fun k => { k with live := k.live ++ [id] }
              (if x.seated then s.at (nextFrame (s.g + 1)) (.launchDelivery id) else s).nextCommand k
/-- QUEUE_LAUNCH (R383). -/
def execQueueLaunch (s : State) : Out :=
  runEvent s fun
    | .queueLaunch vf q => some (queueRun s vf q (some 1) fun k a => s.prepare k a)
    | _ => none

/-- A delivered LAUNCH whose seat has come back with fewer cores than its clusters or its twins need is refused (R328, R391). -/
def State.refuseDelivered (s : State) (g : Grid) (status : Nat) : State :=
  let s := s.refuseGrid g status
  match g.launcher with
  | .host vf q _ _ => (s.mapQueue vf q fun k => { k with live := k.live.filter fun i => i != g.id }).pokeQueues
  | _ => s
/-- A delivered LAUNCH is placed, and its teams are queued; one without room, or behind one of its queue without room, waits
in place (R383, R389, log 46). -/
def State.placeLaunch (s : State) (g : Grid) : State :=
  let sameQueue (vf q : Nat) (h : Grid) : Bool := match h.launcher with
    | .host vf' q' _ _ => vf == vf' && q == q'
    | _ => false
  let behind : Bool := match g.launcher with
    | .host vf q _ _ => s.grids.any fun (h : Grid) => !h.placed && decide (h.id < g.id) && sameQueue vf q h
    | _ => false
  let cores : Nat := ((s.findSeat g.seat).map fun (x : Seat) => x.coreList.length).getD 0
  if cores < shapeSize g.shape then s.refuseDelivered g 6
  else if g.mode.twin && decide (cores ≤ 1) then s.refuseDelivered g 9
  else if behind || !(s.poolRoom g.seat g.region) then s
  else
    let (n, s) := s.countGrid g.seat g.region.vf
    let s := { s with grids := s.grids.map fun (h : Grid) => if h.id = g.id then { h with placed := true, number := n } else h }
    ((s.startGrid g.id .host).pokeQueues).pokeWaiting
/-- LAUNCH_DELIVERY (R387): at a frame boundary the prepared LAUNCH comes to the pool, which the event log records; there it is
placed, or waits in place. A seat that is stopped or that switches takes it as any other (log 121). -/
def State.deliver (s : State) (id : Nat) : State :=
  match s.grids.find? fun (g : Grid) => g.id == id with
  | none => s
  | some g =>
    match s.findSeat g.seat with
    | none => s
    | some x =>
      if g.placed ∨ !g.ready then s
      else if !x.seated ∨ (!g.delivered ∧ s.g % Config.frame ≠ 0) then s.at (nextFrame (s.g + 1)) (.launchDelivery id)
      else if g.delivered then s.placeLaunch g
      else
        let s := { s with grids := s.grids.map fun (h : Grid) => if h.id = id then { h with delivered := true } else h }
        (s.logEvent g.seat 2 ((x.coreList.head?).getD 0) (s.oclk g.seat) 0).placeLaunch g
/-- LAUNCH_DELIVERY (R387). -/
def execLaunchDelivery (s : State) : Out :=
  runEvent s fun
    | .launchDelivery id => some (s.deliver id)
    | _ => none

/-- GRID_END (R278, R383): the record is freed, its completion is written, and what awaits it is looked at. -/
def State.endGrid (s : State) (id : Nat) : State :=
  match s.grids.find? fun (g : Grid) => g.id == id with
  | none => s
  | some g =>
    if g.teamsLeft ≠ 0 ∨ !g.placed then s
    else
      let s := s.dropGrid id
      match g.launcher with
      | .host vf q cq _ =>
        let s := if cq then s.complete g.region q 0 (BitVec.ofNat 64 g.tag) else s
        (s.mapQueue vf q fun k => { k with live := k.live.filter fun i => i != id }).pokeQueues
      | .device team _ =>
        match s.findTeam team with
        | some t => if t.mode.port then s.pokeCommit t.grid else s
        | none => s
      | .message => s
/-- GRID_END (R278). -/
def execGridEnd (s : State) : Out :=
  runEvent s fun
    | .gridEnd id =>
      some (((s.endGrid id).pokeQueues).pokeWaiting)
    | _ => none

/-! ### Doorbells (R380, R381, R386) -/

/-- Held completions of a function are looked at again. -/
def State.pokeCompletions (s : State) (p : Completion → Bool) : State :=
  (s.completions.filter p).foldl (fun (s : State) (c : Completion) => s.once s.g (.completionWrite c.rcb)) s
/-- The queue's state is Running: the check of TAIL, then service (R380). -/
def State.startQueue (s : State) (k : Queue) : State := (if s.badTail k then s.haltQueue k 10 else s).pokeQueues
/-- DOORBELL_WRITE (R380). -/
def State.ring (s : State) (vf q : Nat) (tail : W32) : State :=
  let s := s.pokeCompletions fun c => c.vf == vf
  match s.findQueue vf q with
  | none => s
  | some k =>
    let s := { s with mem := Memory.write s.mem (k.addr + 40) 4 tail.toNat }
    if s.qState k = 2 then s
    else if s.qHead k = tail then s
    else (s.setQState k 1 0).startQueue k
/-- DOORBELL_WRITE (R380). -/
def execDoorbellWrite (s : State) : Out :=
  runEvent s fun
    | .doorbellWrite vf q tail => some (s.ring vf q tail)
    | _ => none
/-- DOORCNT_WRITE (R381): the count grows; waits of the seated function that it satisfies have their answer (R278). -/
def State.addDoor (s : State) (vf : Nat) (v : W32) : State :=
  let n := SMap.get 0 s.doors vf + v
  let s := { s with doors := SMap.set 0 s.doors vf n }
  { s with seats := s.seats.map fun (x : Seat) => if x.vf = vf then x.answerDoors n s.g else x }
/-- DOORCNT_WRITE (R381). -/
def execDoorcntWrite (s : State) : Out :=
  runEvent s fun
    | .doorcntWrite vf v => some (s.addDoor vf v)
    | _ => none

/-! ### Completions (R385, R386) -/

/-- The 32 bytes of an entry. -/
def Completion.bytes (c : Completion) (seq : Nat) : List Byte :=
  bytesOf 8 (seq / 2 ^ (c.cqLog + 4) % 2 + c.queue % 64 * 2 ^ 10 + c.status % 256 * 2 ^ 16 + seq % 2 ^ 32 * 2 ^ 32)
    ++ bytesOf 8 c.info.toNat ++ List.replicate 16 0
/-- COMPLETION_WRITE: the oldest completion of a region's queue is written while the queue has room; else it is held. -/
def State.writeCompletion (s : State) (rcb : Nat) : State :=
  match s.completions.find? fun (c : Completion) => c.rcb == rcb with
  | none => s
  | some c =>
    let seq := SMap.get 0 s.cqSeq rcb
    let done := (Memory.read32 s.mem (rcb + 28)).toNat
    if (seq + 2 ^ 32 - done) % 2 ^ 32 < 2 ^ (c.cqLog + 4) then
      let s := { s with
        mem := Memory.putBytes s.mem (c.cqBase + 32 * (seq % 2 ^ (c.cqLog + 4))) (c.bytes seq)
        cqSeq := SMap.set 0 s.cqSeq rcb ((seq + 1) % 2 ^ 32)
        completions := s.completions.erase c }
      let n := SMap.get 0 s.link.vectors c.vf
      let s := if n = 0 then s else { s with link := { s.link with msix := s.link.msix ++ [(c.vf, c.queue % n)] } }
      (if s.completions.any fun (d : Completion) => d.rcb == rcb then s.once s.g (.completionWrite rcb) else s).pokeQueues
    else
      let (d, s) := s.draw
      if s.agenda.any fun e => e.2 == .cqdoneReread then s else s.at (s.g + 1 + d) .cqdoneReread
/-- COMPLETION_WRITE (R386). -/
def execCompletionWrite (s : State) : Out :=
  runEvent s fun
    | .completionWrite rcb => some (s.writeCompletion rcb)
    | _ => none
/-- CQDONE_REREAD (R386). -/
def execCqdoneReread (s : State) : Out :=
  runEvent s fun
    | .cqdoneReread => some (s.pokeCompletions fun _ => true)
    | _ => none

/-- QREG (R376, R380). -/
def execQreg (s : State) : Out :=
  runEvent s fun
    | .qreg vf q a => some (s.command fun s =>
      if a % 64 ≠ 0 ∨ s.rec64 a 511 448 % 4096 ≠ 0 ∨ !(decide (4 ≤ s.rec64 a 319 315 ∧ s.rec64 a 319 315 ≤ 16)) ∨ s.rec64 a 304 0 ≠ 0 then s.status 1
      else if 63 < q ∨ 63 < vf then s.status 8
      else
        let k : Queue := { vf := vf, q := q, addr := a }
        let s := { s with
          queues := (s.queues.filter fun (k : Queue) => !(k.vf == vf && k.q == q)) ++ [k]
          mem := Memory.write s.mem (a + 40) 4 0 }
        s.status 0)
    | _ => none

/-- PAGEDONE (R358, R376). DESIGN CHOICE (log 114): the mapping request that CommonsFull reaches (R363) is this command, when the page
it reports is a staged commons page; the status has no code in the spec. -/
def execPagedone (s : State) : Out :=
  runEvent s fun
    | .pagedone asid page refused => some (s.command fun s =>
      match s.faults.find? fun (f : FaultRec) => f.forwarded && f.asid == asid && f.va / 4096 == page.toNat / 4096 with
      | none => s.status 8
      | some f =>
        let code := if !refused && s.commonsRefused f then Config.commonsFull else 0
        (s.pageAnswered f refused).pokeQueues.status code)
    | _ => none

end Sys2Proof.Machine
end

