-- ==== Sys2Proof/Machine/Device.lean ====
section
/-!
DEFINITION. The device seen from outside: bring-up (R416, R417), the mailbox and its registers (R410), host requests (R408, R409),
invalidations (R366), the links (R407, R411-R413), attestation (R418), power (R419-R421), the lifting of fences (R415), and the
work of the memory core on pages (R361, R362).
-/

namespace Sys2Proof.Machine

open Sys2Proof

/-! ### Bring-up (R416) -/

/-- A phase of bring-up: Reset, Boot, SelfTest, then Ready or Safe. `step` 0 or 7: every test passes. The base of the address-space table that
the driver sets through the mailbox (R349), for which R376 has no command, stands once the device is Ready (log 3). -/
def State.bringUp (s : State) (step unit : Nat) : State :=
  let fails := decide (1 ≤ step ∧ step ≤ 6)
  let safe (s : State) : State := { s with host := { s.host with dstate := 4, failCode := step, failUnit := if step = 1 then 0 else unit % 256 } }
  let (d, t) := s.draw
  match s.host.dstate with
  | 0 => { t with host := { t.host with dstate := 1 } }.at (s.g + 1 + d) (.resetRelease step unit)
  | 1 => if step = 1 then safe s else { t with host := { t.host with dstate := 2 } }.at (s.g + 1 + d) (.resetRelease step unit)
  | 2 => if fails then safe s else { s with host := { s.host with dstate := 3 }, asBase := Config.spaceBase }
  | _ => s
/-- RESET_RELEASE (R416). -/
def execResetRelease (s : State) : Out :=
  runEvent s fun
    | .resetRelease step unit => some (s.bringUp step unit)
    | _ => none

/-! ### The mailbox (R376, R410) -/

/-- The command a message holds. -/
def State.commandOf (s : State) (m : List W64) : Event :=
  let w (k : Nat) : W64 := (m[k]?).getD 0
  let b (k hi lo : Nat) : Nat := fld (w k).toNat hi lo
  match b 0 7 0 with
  | 1 => .admitSeat (b 0 11 8) (w 1).toNat
  | 2 => .evict (b 0 11 8) ((w 0).getLsbD 12)
  | 3 => .lease (b 0 11 8) (w 2) (w 3) (w 4) (w 5)
  | 4 => .qtable (b 0 11 8) (w 1).toNat
  | 5 => .qreg (b 1 7 0) (b 1 15 8) (w 2).toNat
  | 6 => .runmode (w 1).toNat (w 2) ((w 3).getLsbD 0)
  | 7 => .preempt (w 1).toNat (w 2)
  | 8 => .resume (w 1).toNat
  | 9 => .powercap (b 1 15 0) ((w 1).getLsbD 16)
  | 10 => .status
  | 11 => .seatfloor (b 1 3 0) (b 1 7 4) (b 1 31 16)
  | 12 => .pagedone (b 1 9 0) (w 2) ((w 3).getLsbD 0)
  | 13 => .unfence (b 1 7 0) ((w 1).getLsbD 8) (b 2 9 0) (Config.testPasses s.draws)
  | 14 => .linkopen (b 1 2 0) (b 1 13 8) (w 2).toNat (w 3).toNat ((w 4).getLsbD 0) ((w 4).getLsbD 1)
  | n => .undefinedCommand n
/-- A message goes to a management core: into a mailbox of it, of which it has 16, or its sender waits (R414). -/
def State.sendMail (s : State) (m : Mail) : State :=
  if (s.mail.filter fun (q : Mail) => q.core == m.core).length < 16 then { s with mail := s.mail ++ [m] } else { s with mailWait := s.mailWait ++ [m] }
/-- GO: the message is copied and sent, unless one is in flight (R410). ADMIT and LEASE, which act from a frame on, are handled by the end
of the frame after the one they arrive in (R19, R373, R375, log 5). -/
def State.goMail (s : State) : State :=
  if s.host.busy then s
  else
    let e := s.commandOf s.host.mbin
    let (d, s) := s.draw
    let left := 2 * Config.frame - s.g % Config.frame - 1
    let d := match e with
      | .admitSeat _ _ | .lease _ _ _ _ _ => d % left
      | _ => d
    { s.sendMail { core := 1, words := s.host.mbin, frame := s.g / Config.frame } with host := { s.host with busy := true } }.at (s.g + 1 + d) e
/-- A 64-bit write of a register of PF BAR 0 (R410). -/
def State.writeReg (s : State) (off : Nat) (v : W64) : State :=
  if 0x1000 ≤ off ∧ off < 0x1040 then { s with host := { s.host with mbin := s.host.mbin.set ((off - 0x1000) / 8) v } }
  else if off / 8 = 0x1080 / 8 then
    let s := if v.getLsbD 2 then { s with host := { s.host with done := false } } else s
    if v.getLsbD 0 then s.goMail else s
  else s
/-- A 64-bit read of a register of PF BAR 0 (R410). -/
def State.readReg (s : State) (off : Nat) : W64 :=
  if 0x1000 ≤ off ∧ off < 0x1040 then (s.host.mbin[(off - 0x1000) / 8]?).getD 0
  else if 0x1040 ≤ off ∧ off < 0x1080 then (s.host.mbout[(off - 0x1040) / 8]?).getD 0
  else if off / 8 = 0x1080 / 8 then BitVec.ofNat 64 (s.host.seq % 256 * 256 + bit s.host.done * 4 + bit s.host.busy * 2)
  else if off / 8 = 0x1088 / 8 then BitVec.ofNat 64 (s.host.failUnit % 256 * 65536 + s.host.failCode % 256 * 256 + s.host.dstate % 8)
  else if 0x1100 ≤ off ∧ off < 0x1140 then
    let l := (s.host.links[(off - 0x1100) / 8]?).getD (0, 0)
    BitVec.ofNat 64 (l.2 % 256 * 256 + l.1 % 4)
  else 0
/-- A 32-bit write of half a register. -/
def State.writeReg32 (s : State) (off : Nat) (v : W32) : State :=
  let a := off / 8 * 8
  if 0x1000 ≤ off ∧ off < 0x1040 then
    let w := (s.host.mbin[(a - 0x1000) / 8]?).getD 0
    s.writeReg a (if off = a then pair64 (hi32 w) v else pair64 v (lo32 w))
  else if off = a then s.writeReg a (zext64 v)
  else s
/-- REGISTER_WRITE (R410). -/
def execRegisterWrite (s : State) : Out :=
  runEvent s fun
    | .registerWrite off v => some (s.writeReg off v)
    | _ => none
/-- UNDEFINED_COMMAND (R410): NotReady. -/
def execUndefinedCommand (s : State) : Out :=
  runEvent s fun
    | .undefinedCommand _ => some (s.status 13)
    | _ => none
/-- What the security core has measured, indices 1 to 4 (R418): after a failed signature, index 2 is of the image that was refused (R417); index 4
is of the placement records of the seated seats, in seat order. -/
def State.measured (s : State) (i : Nat) : Nat :=
  if i = 4 then Config.digest ((sortBy (fun (a b : Seat) => decide (a.num < b.num)) (s.seats.filter fun (x : Seat) => x.seated)).flatMap fun x => x.pl.raw)
  else Config.measurement (if i = 2 ∧ s.host.dstate = 4 ∧ s.host.failCode = 1 then 0 else i)
/-- The words of a STATUS reply (R417): the status, DEVSTAT, and the measurements in words 2 to 7. -/
def State.statusReply (s : State) : List W64 :=
  [0, s.readReg 0x1088] ++ (List.range 6).map fun k => Config.statusWord ((List.range 4).map fun i => s.measured (i + 1)) (k + 2)
/-- STATUS (R417): in every state. -/
def execStatus (s : State) : Out :=
  runEvent s fun
    | .status => some (s.answer s.statusReply)
    | _ => none

/-! ### Power (R419-R421) -/

/-- A power command acts. -/
def State.applyPower (s : State) (c : PowerCmd) : State :=
  match c with
  | .cap w d => { s with power := { s.power with cap := w, degrade := d } }
  | .floor n m g => s.mapSeat n fun x => { x with floor := if g = 0 then none else some (m, g) }
/-- The state as the commands answered so far leave it at the next evaluation. -/
def State.afterPower (s : State) : State := s.power.pending.foldl (fun (s : State) c => s.applyPower c) { s with power := { s.power with pending := [] } }
/-- Need: 420 and the power the seated seats hold (R420). -/
def State.need (s : State) : Nat := (s.seats.filter fun (x : Seat) => x.seated).foldl (fun n (x : Seat) => n + ((x.floor.map (·.2)).getD 0)) 420
/-- The floor step (R421). -/
def State.floorStep (s : State) : Nat :=
  if s.power.degrade then 0
  else (s.seats.filter fun (x : Seat) => x.seated).foldl (fun n (x : Seat) => max n ((x.floor.map (·.1)).getD 0)) 0
/-- A command is answered Ok and waits for the next evaluation. -/
def State.pendPower (s : State) (c : PowerCmd) : State := { s with power := { s.power with pending := s.power.pending ++ [c] } }.status 0
/-- POWERCAP (R420). -/
def State.powercap (s : State) (watts : Nat) (degrade : Bool) : State :=
  let c := min watts 2800
  if c < 420 then s.status 10
  else if c < s.afterPower.need then (if degrade then s.pendPower (.cap c true) else s.status 11)
  else s.pendPower (.cap c false)
def execPowercap (s : State) : Out :=
  runEvent s fun
    | .powercap w d => some (s.command fun s => s.powercap w d)
    | _ => none
/-- SEATFLOOR (R420). -/
def State.seatfloor (s : State) (n m g : Nat) : State :=
  if (s.findSeat n).isNone then s.status 8
  else
    let t := (s.afterPower).applyPower (.floor n m g)
    if t.power.cap < t.need ∧ !t.power.degrade then s.status 12 else s.pendPower (.floor n m g)
def execSeatfloor (s : State) : Out :=
  runEvent s fun
    | .seatfloor n m g => some (s.command fun s => s.seatfloor n m g)
    | _ => none
/-- POWER_EVALUATION (R419): the commands answered act, then the decision; a change of step is set for the next boundary. -/
def State.evaluatePower (s : State) (watts : Nat) (bands : List Nat) : State :=
  let s := s.afterPower
  let s := { s with power := { s.power with bands := bands, may := false } }
  if (bands.any fun b => b == 7) ∨ s.power.cap < watts then
    if s.floorStep < s.power.step then s.at (nextFrame (s.g + 1)) (.clockStepChange false) else s
  else if 100 * watts < 95 * s.power.cap ∧ (bands.all fun b => decide (b ≤ 5)) ∧ s.power.step < 15 then
    { s with power := { s.power with may := true } }.at (nextFrame (s.g + 1)) (.clockStepChange true)
  else s
def execPowerEvaluation (s : State) : Out :=
  runEvent s fun
    | .powerEvaluation w l => some (s.evaluatePower w l)
    | _ => none
/-- CLOCK_STEP_CHANGE (R419, R421): one step at a boundary; a seat whose floor the step falls below is told. -/
def State.changeStep (s : State) (up : Bool) : State :=
  if s.g % Config.frame ≠ 0 then s
  else if up then (if s.power.step < 15 then { s with power := { s.power with step := s.power.step + 1 } } else s)
  else if s.power.step = 0 then s
  else
    let n := s.power.step - 1
    let s := { s with power := { s.power with step := n } }
    (s.seats.filter fun (x : Seat) => x.seated && (x.floor.any fun f => f.1 == n + 1)).foldl (fun (s : State) (x : Seat) =>
      s.logEvent x.num 35 ((x.coreList.head?).getD 0) (s.oclk x.num) (BitVec.ofNat 64 n)) s
def execClockStepChange (s : State) : Out :=
  runEvent s fun
    | .clockStepChange up => some (s.changeStep up)
    | _ => none

/-! ### Fences (R415) -/

/-- The part is fenced: a matrix engine, or a slot. -/
def State.isFenced (s : State) (core : Nat) (isSlot : Bool) (slot : Nat) : Bool :=
  if isSlot then (s.slot slot).state == 3 else s.fencedMx.contains core
/-- UNFENCE (R415): the tests; a part that passes is freed at the next boundary. -/
def execUnfence (s : State) : Out :=
  runEvent s fun
    | .unfence core isSlot slot pass => some (s.command fun s =>
      if !(s.isFenced core isSlot slot) then s.status 8
      else if !pass then s.status 9
      else s.at (nextFrame (s.g + 1)) (.fenceLift core isSlot slot))
    | _ => none
/-- The seats a part serves. -/
def State.servedBy (s : State) (core : Nat) (isSlot : Bool) (slot : Nat) : List Nat :=
  (s.seats.filter fun (x : Seat) => if isSlot then x.ownsSlot slot else (x.core? core).isSome).map (·.num)
/-- FENCE_LIFT (R415). -/
def State.liftFence (s : State) (core : Nat) (isSlot : Bool) (slot : Nat) : State :=
  if s.g % Config.frame ≠ 0 ∨ !(s.isFenced core isSlot slot) then s
  else
    let s := if isSlot then s.setSlot slot {} else { s with fencedMx := s.fencedMx.filter fun c => c != core }
    let l := s.servedBy core isSlot slot
    let s := l.foldl (fun (s : State) n => (s.logEvent n 34 core (s.oclk n) (BitVec.ofNat 64 (if isSlot then 0x10000 + slot else core))).once s.g (.rowInject core n)) s
    s.status 0
def execFenceLift (s : State) : Out :=
  runEvent s fun
    | .fenceLift core isSlot slot => some (s.liftFence core isSlot slot)
    | _ => none

/-! ### Host requests (R408, R409) -/

/-- The answer of a request: bytes, or none where it completes as unsupported or aborted. -/
def State.reportAnswer (s : State) (a : Option (List Byte)) : State := { s with link := { s.link with answers := s.link.answers ++ [a] } }
/-- A request of a function fails, and Advanced Error Reporting records it (R407); the bits of the record are PCI Express's: 20 an unsupported
request, 15 a completer abort (PRESUMED, log 138). -/
def State.reportError (s : State) (vf k : Nat) : State :=
  { s with link := { s.link with aer := SMap.set 0 s.link.aer vf (SMap.get 0 s.link.aer vf ||| 1#32 <<< k) } }.reportAnswer none
/-- Aligned 32-bit pieces of a write. -/
def wordsAt (off : Nat) : List Byte → List (Nat × W32)
  | b0 :: b1 :: b2 :: b3 :: bs => (off, BitVec.ofNat 32 (wordOfBytes [b0, b1, b2, b3])) :: wordsAt (off + 4) bs
  | _ => []
/-- A 32-bit write in a function's doorbell page (R380, R381). -/
def State.pageWrite (s : State) (vf off : Nat) (v : W32) : State :=
  if off < 0x200 ∧ off % 8 = 0 then s.ring vf (off / 8) v
  else if off = 0x800 then s.addDoor vf v
  else s
/-- A byte of a function's doorbell page (R381); the spec does not say how bytes 0x000-0x1FF read (log 7). -/
def State.pageByte (s : State) (vf off : Nat) : Byte :=
  if off < 0x200 then Config.freeByte s.draws
  else if 0x800 ≤ off ∧ off < 0x804 then ((bytesOf 4 (SMap.get 0 s.doors vf).toNat)[off - 0x800]?).getD 0
  else 0
/-- A byte of PF BAR 0. -/
def State.bar0Byte (s : State) (off : Nat) : Byte :=
  if off < 0x1000 then s.pageByte 0 off else ((bytesOf 8 (s.readReg (off / 8 * 8)).toNat)[off % 8]?).getD 0
/-- A write in PF BAR 0: 64-bit registers whole, else in 32-bit pieces. -/
def State.bar0Write (s : State) (off : Nat) (bs : List Byte) : State :=
  if 0x1000 ≤ off ∧ off % 8 = 0 ∧ bs.length = 8 then s.writeReg off (BitVec.ofNat 64 (wordOfBytes bs))
  else if off % 4 ≠ 0 then s
  else (wordsAt off bs).foldl (fun (s : State) p => if p.1 < 0x1000 then s.pageWrite 0 p.1 p.2 else s.writeReg32 p.1 p.2) s
/-- What a host write leaves of a queue's descriptor: TAIL and HSTAT are read-only, HEAD while not Halted, and STATE takes only
01 while Halted, which starts the queue (R380). -/
def State.guardQueue (old : State) (s : State) (k : Queue) : State :=
  let st := old.qState k
  let starts := st == 2 && s.qState k == 1
  let s := { s with mem := Memory.write s.mem (k.addr + 40) 4 (old.qTail k).toNat }
  let s := if st = 2 then s else s.setHead k (old.qHead k)
  let s := s.setQState k (if starts then 1 else st) (if starts then 0 else old.rec64 k.addr 312 305)
  if starts then s.startQueue k else s
/-- A host write of device memory: bytes anywhere, queue descriptors as `guardQueue` says. -/
def State.hostWrite (s : State) (a : Nat) (bs : List Byte) : State :=
  let t := { s with mem := Memory.putBytes s.mem a bs }
  (s.queues.filter fun (k : Queue) => decide (a < k.addr + 64 ∧ k.addr < a + bs.length)).foldl (fun (t : State) k => State.guardQueue s t k) t
/-- The address space of the root region of a function (R367, R408). -/
def State.rootAsid (s : State) (vf : Nat) : Option (Seat × Nat) :=
  (s.seatOfVf vf).bind fun x => (x.qtab.find? fun (e : QuantumEntry) => e.vf == vf).map fun e => (x, s.rec64 e.rcb 295 286)
/-- The bytes of an access from outside that lie in a line: those at its places `k` on, in order. -/
def Visit.inLine (v : Visit) (line : Nat) : List (Nat × Nat) :=
  v.places.zipIdx.filterMap fun q => match q.1 with
    | .dev a => if a / 128 = line then some (q.2, a) else none
    | _ => none
/-- A line of an access from outside is served: a read takes its bytes, a write puts them, an atomic is performed with the last of its lines
(R409, R413); with the last line a read or an atomic is answered. -/
def State.visited (s : State) (r : Req) : State :=
  let s := s.dropReq r.id
  match s.visits.find? fun (v : Visit) => v.id == r.owner with
  | none => s
  | some v =>
    let here := v.inLine r.place.lineNo
    let got := v.got ++ here.map fun q => (q.1, BitVec.ofNat 8 (Memory.read s.mem q.2 1))
    let last := decide (v.left ≤ 1)
    let all := if last then s.visits.filter fun (u : Visit) => u.id != v.id
      else s.visits.map fun (u : Visit) => if u.id = v.id then { u with got := got, left := u.left - 1 } else u
    let s : State := { s with visits := all }
    match v.kind, here, v.places with
    | .read, _, _ => if last then s.reportAnswer (some ((sortBy (fun (a b : Nat × Byte) => decide (a.1 < b.1)) got).map (·.2))) else s
    | .write bs, (k, a) :: _, _ => s.hostWrite a ((bs.drop k).take here.length)
    | .atomic op w nw, _, .dev a :: _ =>
      if last then
        let x := Memory.read s.mem a (aopBytes op)
        (s.hostWrite a (bytesOf (aopBytes op) (aopNew op (BitVec.ofNat 64 x) w nw).toNat)).reportAnswer (some (bytesOf (aopBytes op) x))
      else s
    | _, _, _ => s
/-- POSITION_START (R14); at a fenced link nothing crosses (R403). A line of an access from outside that the position serves has its
effect at once. -/
def execPositionStart (s : State) : Out :=
  runEvent s fun
    | .positionStart st =>
      some (if s.fencedStruct st then (s.reqs.filter fun (q : Req) => q.head == some st).foldl (fun (s : State) (q : Req) => s.abandon q) s
        else
          let s := s.position st
          (s.reqs.filter fun (q : Req) => q.kind == .visit && q.performed).foldl (fun (s : State) (q : Req) => s.visited q) s)
    | _ => none
/-- The way of a line of an access from outside: the positions of its home slice and of its channel. The spec places the host link and the
Colalm ports at no router, and gives the access no travel to the slice; the model takes none (DESIGN CHOICE, log 123). -/
def visitWay (a : Nat) : List (Struct × Nat) := [(.slice (homeSlice a).1 (homeSlice a).2, 0), (.dram (homeSlice a).1 (homeChannel a), 14)]
/-- The places of the bytes of a VF BAR 2 request; none where one takes a translation fault. -/
def State.barPlaces (s : State) (asid : Nat) (want : Want) : Nat → Nat → Option (List Phys)
  | 0, _ => some []
  | n + 1, va =>
    match s.walkNow asid va with
    | .leaf level w _ => if permits w .supervisor want && !leafBit w 55 then (s.barPlaces asid want n (va + 1)).map fun l => leafPlace level w va :: l else none
    | _ => none
/-- Write a byte at each place. -/
def State.writePlaces (s : State) (l : List (Phys × Byte)) : State := l.foldl (fun (s : State) p => s.writeAt p.1 [p.2]) s
/-- An access from outside to bytes at these places (R408, R409, R413). Bytes in device memory take fill-seat positions, in a request for each
line; among requests of the fill seat it goes after those of every core (R14, R18, log 123). Bytes of a page in host memory are the host's
own and are reached at once. -/
def State.visit (s : State) (kind : Inbound) (places : List Phys) : State :=
  let away := places.zipIdx.filter fun p => !p.1.isDev
  let got := away.map fun p => (p.2, BitVec.ofNat 8 (s.readAt p.1 1))
  let lines := ((places.filter Phys.isDev).map Phys.lineNo).eraseDups
  let s := match kind with
    | .write bs => s.writePlaces (away.map fun p => (p.1, (bs[p.2]?).getD 0))
    | _ => s
  match lines, kind with
  | [], .write _ => s
  | [], _ => s.reportAnswer (some (got.map (·.2)))
  | _, _ =>
    let (id, s) := s.fresh
    let s : State := { s with visits := s.visits ++ [{ id := id, kind := kind, places := places, got := got, left := lines.length }] }
    lines.foldl (fun (s : State) l =>
      let (q, s) := s.fresh
      let r : Req := { id := q, owner := id, age := s.nextOp, seat := 15, core := 256, kind := .visit, place := .dev (128 * l), hops := visitWay (128 * l), arrive := s.g, sent := true }
      ({ s with reqs := s.reqs ++ [r] } : State).schedule r) s
/-- A VF BAR 2 request (R408). -/
def State.vfRequest (s : State) (vf off : Nat) (write : Option (List Byte)) (len : Nat) : State :=
  match s.rootAsid vf with
  | none => s.reportAnswer none
  | some (x, asid) =>
    match s.barPlaces asid (if write.isSome then .write else .read) (match write with
      | some bs => bs.length
      | none => len) off with
    | none => (s.logEvent x.num 33 ((x.coreList.head?).getD 0) (s.oclk x.num) (BitVec.ofNat 64 off)).reportError vf 15
    | some l => s.visit (match write with
      | some bs => .write bs
      | none => .read) l
/-- HOST_BAR_REQUEST (R408, R409): no tag, translation or order of a seat changes. -/
def State.barRequest (s : State) (vf bar off : Nat) (write : Option (List Byte)) (len : Nat) : State :=
  let n := match write with
    | some bs => bs.length
    | none => len
  let limit := match vf, bar with
    | 0, 0 => 2 * 2 ^ 20
    | 0, 2 => Config.deviceBytes
    | _, 0 => 4096
    | _, 2 => 64 * 2 ^ 30
    | _, _ => 0
  if limit < off + n ∨ s.link.numVFs < vf then s.reportError vf 20
  else match vf, bar, write with
    | 0, 0, some bs => s.bar0Write off bs
    | 0, 0, none => { s with draws := s.draws + 1 }.reportAnswer (some ((List.range n).map fun k => s.bar0Byte (off + k)))
    | 0, _, some bs => s.visit (.write bs) ((List.range n).map fun k => .dev (off + k))
    | 0, _, none => s.visit .read ((List.range n).map fun k => .dev (off + k))
    | _, 0, some bs => if off % 4 ≠ 0 then s else (wordsAt off bs).foldl (fun (s : State) p => s.pageWrite vf p.1 p.2) s
    | _, 0, none => { s with draws := s.draws + 1 }.reportAnswer (some ((List.range n).map fun k => s.pageByte vf (off + k)))
    | _, _, w => s.vfRequest vf off w n
def execHostBarRequest (s : State) : Out :=
  runEvent s fun
    | .hostBarRequest vf bar off w n => some (s.barRequest vf bar off w n)
    | _ => none

/-- The address space is one that a function uses on its seat, and it is bound to a PASID (R349, R366): a translation of it is cached
there, a walk of it is under way, or a team of the function uses it. -/
def State.boundTo (s : State) (x : Seat) (vf pasid asid : Nat) : Bool :=
  s.pasidOf asid == some pasid && ((x.vf == vf && x.tlb.any fun (e : TlbEntry) => e.asid == asid)
    || (s.walks.any fun (w : Walk) => w.seat == x.num && w.asid == asid && s.walkVf w == vf)
    || s.teams.any fun (t : Team) => t.seat == x.num && t.vf == vf && t.region.asid == asid)
/-- The named ATS translations of a function go from every core of its seat (R366), and from its queues' commands; a seat's TLB parts hold
those of the function seated on it alone (R379). -/
def State.dropAts (s : State) (seat vf pasid va size : Nat) : State :=
  let here (a : Nat) : Bool := s.pasidOf a == some pasid
  let hits (v n : Nat) : Bool := bytesMeet (v % 2 ^ 57, n) (va, size)
  let s := s.mapSeat seat fun x => if x.vf = vf then
      { x with tlb := x.tlb.filter fun (e : TlbEntry) => !(leafBit e.leaf 55 && here e.asid && hits e.vbase e.size) } else x
  { s with
    ops := s.ops.map fun (o : Op) => if o.seat = seat ∧ (s.getTeam o.team).any (fun t => t.vf == vf) then
        { o with pages := o.pages.filter fun (e : TlbEntry) => !(leafBit e.leaf 55 && here e.asid && hits e.vbase e.size) } else o
    walks := s.walks.map fun (w : Walk) => if w.seat = seat ∧ here w.asid ∧ s.walkVf w = vf then w.drop va size else w
    queues := s.queues.map fun (k : Queue) => if k.vf = vf then { k with ats := k.ats.filter fun a => !(hits a.1 4096) } else k }
/-- ATS_INVALIDATION_REQUEST (R366): the completion goes out once every walk and access that was there before is done. -/
def State.atsInvalidate (s : State) (vf pasid va size : Nat) : State :=
  match s.seatOfVf vf with
  | some x =>
    let mine (e : Nat × Nat × Nat × Nat × Nat) : Bool := e.1 == vf && e.2.1 == pasid && e.2.2.1 == va && e.2.2.2.1 == size
    match s.link.inval.find? mine with
    | none =>
      if !((List.range 1024).any fun a => s.boundTo x vf pasid a) then s.reportAnswer (some []) else
      let s := s.dropAts x.num vf pasid va size
      { s with link := { s.link with inval := s.link.inval ++ [(vf, pasid, va, size, s.nextId)] } }.now (.atsInvalidationRequest vf pasid va size)
    | some e =>
      if s.settledBefore x.num e.2.2.2.2 then { s with link := { s.link with inval := s.link.inval.filter fun e => !(mine e) } }.reportAnswer (some [])
      else s.at (s.g + 1) (.atsInvalidationRequest vf pasid va size)
  | none => s.reportAnswer (some [])
def execAtsInvalidationRequest (s : State) : Out :=
  runEvent s fun
    | .atsInvalidationRequest vf p va n => some (s.atsInvalidate vf p va n)
    | _ => none

/-! ### Links (R407, R411-R413, R417) -/

/-- The link retrains (R407): device work goes on, and host accesses wait, as charged waits; those on their way finish later by as much. 32 GT/s
is the one rate without Flit Mode. How long it takes is left open (log 5). -/
def State.retrain (s : State) (width rate : Nat) : State :=
  let (d, s) := s.draw
  let s : State := { s with
    link := { s.link with width := width, rate := rate, flit := rate != 32, retrain := s.g + d }
    agenda := s.agenda.map fun e => match e.2 with
      | .loadReply id | .storeAcknowledge id =>
        if (s.findReq id).any fun (r : Req) => r.place.isHost && r.hops == [] then (max e.1 (s.g + d), e.2) else e
      | _ => e }
  s.scheduleAll
/-- LINK_RETRAIN (R407): the new width and rate. -/
def execLinkRetrain (s : State) : Out :=
  runEvent s fun
    | .linkRetrain w r => some (if [16, 8, 4].contains w && [128, 64, 32].contains r then s.retrain w r else s)
    | _ => none
/-- CONFIGURATION_REQUEST (R407, R417): virtual functions enabled by the physical function, and a function's MSI-X vectors. -/
def execConfigurationRequest (s : State) : Out :=
  runEvent s fun
    | .configurationRequest vf n v => some { s with link := { s.link with
        numVFs := if vf = 0 then min n 63 else s.link.numVFs
        vectors := if vf ≤ 63 then SMap.set 0 s.link.vectors vf (min v 64) else s.link.vectors } }
    | _ => none
/-- A measurement report and its signature (R418). -/
def State.report (s : State) (index nonce m : Nat) : State :=
  { s with
    link := { s.link with reports := s.link.reports ++ [(index, nonce, m + 2 ^ 512 * Config.signature m nonce)] } }
/-- SPDM_REQUEST (R418). -/
def execSpdmRequest (s : State) : Out :=
  runEvent s fun
    | .spdmRequest i n => some (if 1 ≤ i ∧ i ≤ 4 then s.report i n (s.measured i) else s)
    | _ => none
/-- MCTP_STATUS (R417): the reply to the same request, over I3C; its eight words as one number, the first lowest. -/
def execMctpStatus (s : State) : Out :=
  runEvent s fun
    | .mctpStatus => some { s with
        link := { s.link with reports := s.link.reports ++ [(0, 0, s.statusReply.foldr (fun (w : W64) n => w.toNat + 2 ^ 64 * n) 0)] } }
    | _ => none
/-- COLALM_TRAINING (R410, R411): LINKSTAT shows Training while the port trains, for a time that the spec leaves open (log 5); then it is Up with
its peer's number, or left Down. -/
def execColalmTraining (s : State) : Out :=
  runEvent s fun
    | .colalmTraining p up peer =>
      let set (s : State) (v : Nat × Nat) : State := { s with host := { s.host with links := s.host.links.set p v } }
      some (if ((s.host.links[p]?).map (·.1)) = some 1 then set s (if up then (2, peer % 256) else (0, 0))
        else
          let (d, s) := s.draw
          (set s (1, 0)).at (s.g + 1 + d) (.colalmTraining p up peer))
    | _ => none
/-- LINKOPEN (R413). -/
def State.linkOpen (s : State) (port entry base len : Nat) (rd wr : Bool) : State :=
  if base % 2 ^ 21 ≠ 0 ∨ len % 2 ^ 21 ≠ 0 ∨ Config.deviceBytes < base + len then s.status 1
  else
    let l := s.windows.filter fun (w : Window) => !(w.port == port && w.entry == entry)
    let e : Window := { port := port, entry := entry, base := base, len := len, rd := rd, wr := wr }
    ({ s with windows := if len = 0 then l else l ++ [e] } : State).status 0
def execLinkopen (s : State) : Out :=
  runEvent s fun
    | .linkopen p j b n rd wr => some (s.command fun s => s.linkOpen p j b n rd wr)
    | _ => none
/-- COLALM_INBOUND_REQUEST (R413): an open window of the port holds every byte and permits the kind, or the request is refused. -/
def State.inbound (s : State) (port a len : Nat) (kind : Inbound) : State :=
  let n := match kind with
    | .read => len
    | .write bs => bs.length
    | .atomic op _ _ => aopBytes op
  let open_ := (s.host.links[port]?).any (fun l => l.1 == 2) && decide (a + n ≤ Config.deviceBytes) && s.windows.any fun (w : Window) =>
    w.port == port && decide (w.base ≤ a ∧ a + n ≤ w.base + w.len) && (match kind with
      | .read => w.rd
      | _ => w.wr)
  if !open_ then s.reportAnswer none else s.visit kind ((List.range n).map fun k => .dev (a + k))
def execColalmInboundRequest (s : State) : Out :=
  runEvent s fun
    | .colalmInboundRequest p a n k => some (s.inbound p a n k)
    | _ => none

/-! ### Pages (R361, R362) -/

/-- A region that uses an address space holds a seat now. -/
def State.spaceSeated (s : State) (asid : Nat) : Bool :=
  s.seats.any fun (x : Seat) => x.seated && !x.switching
    && ((x.qtab.any fun (e : QuantumEntry) => e.vf == x.vf && s.rec64 e.rcb 295 286 == asid)
      || (s.teams.any fun (t : Team) => t.seat == x.num && t.vf == x.vf && t.region.asid == asid)
      || s.grids.any fun (g : Grid) => g.seat == x.num && g.region.vf == x.vf && g.region.asid == asid)
/-- The page may be moved to a frame (R362). -/
def State.mayMove (s : State) (asid : Nat) (level : Nat) (w : W64) (frame : Nat) : Bool :=
  let n := 2 ^ levelBits level
  let pa := entryPA w
  let meets (e : Extent) : Bool := decide (e.pbase < pa + n ∧ pa < e.pbase + e.len)
  !leafBit w 62 && !leafBit w 8 && !leafBit w 54 && frame % n == 0 && decide (frame + n ≤ Config.deviceBytes)
    && !((List.range (n / 4096)).any fun k => s.badFrames.contains (frame / 4096 + k))
    && !((s.teams.flatMap fun (t : Team) => t.extents).any meets) && !((s.grids.flatMap fun (g : Grid) => g.extents).any meets)
    && (fld (Memory.read s.mem (s.asBase + 16 * asid) 8) 1 1 == 0 || !(s.spaceSeated asid))
/-- No access that was translated before the move is still to perform in the old frame, and no walk of the page that may have read the
old leaf is still to end (R357). -/
def State.frameQuiet (s : State) (asid va pa n : Nat) : Bool :=
  !(s.reqs.any fun (r : Req) => !r.performed && r.kind != .recall && r.kind != .walk && match r.place with
    | .dev a => decide (pa ≤ a ∧ a < pa + n)
    | _ => false)
    && !(s.walks.any fun (w : Walk) => w.started && !w.ats && w.asid == asid && w.va % 2 ^ 57 / n == va % 2 ^ 57 / n)
/-- PAGE_MIGRATION (R362): MIGR is set and the page invalidated; when nothing uses the old frame any more, the frame is copied
and the leaf names the new one. -/
def State.migrate (s : State) (asid va frame : Nat) : State :=
  match s.walkNow asid va with
  | .leaf level w a =>
    if s.mayMove asid level w frame then
      let s := { s with mem := Memory.write s.mem a 8 (w ||| (1#64 <<< 63)).toNat }.claimSlice a
      (s.seats.foldl (fun (s : State) (x : Seat) => s.invalidate x.num (some asid) (some (va % 2 ^ 57))) s).now (.pageMigration asid va frame)
    else s
  | .absent level w a =>
    let n := 2 ^ levelBits level
    if leafBit w 0 && leafBit w 63 && frame % n == 0 && decide (frame + n ≤ Config.deviceBytes) then
      if s.frameQuiet asid va (entryPA w) n then
        let m := Memory.putBytes s.mem frame (Memory.bytes s.mem (entryPA w) n)
        { s with mem := Memory.write m a 8 (((w &&& ~~~(1#64 <<< 63)) &&& ~~~0x000FFFFFFFFFF000#64) ||| BitVec.ofNat 64 frame).toNat }.claimSlice a
      else s.at (s.g + 1) (.pageMigration asid va frame)
    else s
  | _ => s
def execPageMigration (s : State) : Out :=
  runEvent s fun
    | .pageMigration asid va frame => some (s.migrate asid va frame)
    | _ => none

/-- Each non-zero heat of a leaf one lower. -/
def coolLeaf (w : W64) : W64 :=
  let n := w.toNat
  let rh := fld n 59 58
  let wh := fld n 61 60
  BitVec.ofNat 64 (fld n 57 0 + (rh - 1) * 2 ^ 58 + (wh - 1) * 2 ^ 60 + fld n 63 62 * 2 ^ 62)
/-- HEAT_SWEEP (R361): each leaf of the live address spaces, once, in vacant positions of its slice. -/
def State.sweep (s : State) : State :=
  let leaves := (s.liveLeaves.map (·.2)).filter fun a => coolLeaf (Memory.read64 s.mem a) != Memory.read64 s.mem a
  leaves.foldl (fun (s : State) a => s.claimSlice a) { s with mem := leaves.foldl (fun m a => Memory.write m a 8 (coolLeaf (Memory.read64 m a)).toNat) s.mem }
def execHeatSweep (s : State) : Out :=
  runEvent s fun
    | .heatSweep => some s.sweep
    | _ => none

end Sys2Proof.Machine
end

