-- ==== Sys2Proof/Machine/Portable.lean ====
section
/-!
DEFINITION. The commit of a quantum in portable mode (R396-R400) and twin execution (R401, R402). A commit is tried on a copy of
the state: where a page it needs is absent, nothing is applied, the fault goes to firmware, and the commit is tried again.
-/

namespace Sys2Proof.Machine

open Sys2Proof

/-- What a commit meets at an address. -/
inductive Verdict where
  | ok (p : Page)
  | refused
  /-- a walk of the seat has still to find it (R353) -/
  | miss
  deriving DecidableEq, Repr

/-- What a commit still needs of a page: a walk, or its charged access to host or peer memory (R353, R364, R412). -/
inductive NeedKind where
  | walk | host
  deriving DecidableEq, Repr
/-- A page a commit needs: the operation, its lanes (none for a piece), the address, whether it writes, and what it needs. -/
structure Need where
  op : Nat
  lanes : LaneMask
  va : Nat
  write : Bool
  kind : NeedKind
  deriving DecidableEq, Repr

/-- A state and the pages it needed. -/
abbrev Trial := State × List Need

/-- The level an operation issued at. -/
def Op.level (o : Op) : Level := if o.sup then .supervisor else .user
/-- Translate an address for a commit: extents and TLB, else what the walks that the commit asked for have found (R352, R353). A translation that
the host gave with fewer rights than are asked is asked for again (R365). A copy of another kind than R412 lists is refused a Colalm page. -/
def State.verdict (s : State) (t : Team) (o : Op) (va : Nat) (want : Want) : Verdict :=
  let ok (p : Page) : Verdict := match o.kind with
    | .copy c => if p.place.isPeer && !c.mayLeave then .refused else .ok p
    | _ => .ok p
  match s.look t o.level va want with
  | .ok p => ok p
  | .refused => .refused
  | .miss =>
    match o.pages.find? fun (e : TlbEntry) => decide (e.vbase ≤ va ∧ va < e.vbase + e.size) with
    | some e =>
      if permits e.leaf o.level want then ok { place := entryPlace e va, ord := leafOrd e.leaf, com := leafBit e.leaf 8 }
      else if leafBit e.leaf 55 then .miss else .refused
    | none => .miss
/-- What an operation needs of a page before it can commit; none where the page is there, its access charged, or refused. -/
def Verdict.need (v : Verdict) (o : Op) (va : Nat) (write : Bool) : Option NeedKind :=
  match v with
  | .miss => some .walk
  | .ok p => if p.place.isDev || o.away || o.paid.contains (va, write) then none else some .host
  | .refused => none
/-- The verdict of a lane. -/
def State.laneVerdict (s : State) (t : Team) (o : Op) (L : Nat) : Verdict := s.verdict t o (SMap.get 0 o.addr L) (wantOf o.kind)
/-- An access of a commit through the TLB counts in its entry; that whose walk filled the entry has raised its heat already (R354, log 61). -/
def State.countCommit (s : State) (t : Team) (o : Op) (vas : List Nat) (write : Bool) : State :=
  match vas with
  | [] => s
  | va :: _ => if (lookExtent t va .read).isSome || o.pages.any (fun (e : TlbEntry) => vas.contains e.stamp) then s
    else s.countAccess o.seat o.core t.region.asid va write

/-! ### Effects of one operation (R397) -/

/-- A lane of a global store or atomic at its place. The spec does not say what a commit does to the tags of the caches or to the predictor; the
model changes neither (DESIGN CHOICE, log 134). -/
def State.commitLane (s : State) (o : Op) (p : Phys) (L : Nat) : State :=
  match o.kind with
  | .store _ n => s.writeAt p (bytesOf n (SMap.get 0 o.x L).toNat)
  | .atomic _ op signed =>
    let n := aopBytes op
    let x := s.readAt p n
    let v := aopNew op (BitVec.ofNat 64 x) (SMap.get 0 o.x L) (SMap.get 0 o.y L)
    (s.writeAt p (bytesOf n v.toNat)).mapOp o.id fun o => { o with result := SMap.set 0 o.result L (oldValue op signed x) }
  | _ => s
/-- A global store or atomic, lanes ascending. -/
def commitGlobal (r : Trial) (t : Team) (o : Op) : Trial :=
  let s := r.1
  let ls := lanesOf (o.active &&& ~~~o.done)
  let with_ (p : Verdict → Bool) : LaneMask := maskOf fun L => ls.contains L && p (s.laneVerdict t o L)
  let missing (k : NeedKind) : LaneMask := with_ fun v => v.need o 0 true == some k
  let ask (k : NeedKind) : List Need := if missing k = 0 then [] else [{ op := o.id, lanes := missing k, va := SMap.get 0 o.addr (lowestLane (missing k)), write := true, kind := k }]
  let asks := ask .host ++ (if o.bad = some .translationFault then [] else ask .walk)
  if asks ≠ [] then (s, r.2 ++ asks.take 1)
  else
    let s := s.mapOp o.id fun o => { o with buffered := false }
    let took := lanesOf (with_ fun v => match v with
      | .ok _ => true
      | _ => false)
    let s := (distinct (took.map fun L => SMap.get 0 o.addr L / 128)).foldl (fun (s : State) line =>
      s.countCommit t o ((took.map fun L => SMap.get 0 o.addr L).filter fun a => a / 128 == line) true) s
    let s := ls.foldl (fun (s : State) L => match s.laneVerdict t o L with
      | .ok p => (s.commitLane o p.place L).mapOp o.id fun o => o.markDone (1#32 <<< L)
      | _ => s) s
    let no := with_ fun v => v == .refused
    ((s.refuse o.id no).checkOp o.id, r.2)
/-- A local store or atomic. -/
def State.commitLocal (s : State) (o : Op) : State :=
  ((s.mapOp o.id fun o => { o with buffered := false }).performLocal o o.active).landOp o.id

/-- The bytes of a side of a piece; none, with what its page is, where it is not there yet. -/
def State.pieceBytes (s : State) (t : Team) (o : Op) (sp : Space) (a n : Nat) : Except Verdict (State × List Byte) :=
  if sp = .global then
    let v := s.verdict t o a .read
    match v, v.need o a false with
    | .ok p, none => .ok (s.countCommit t o [a] false, bytesOf n (s.readAt p.place n))
    | v, _ => .error v
  else .ok (s, Memory.bytes (localMem t sp) a n)
/-- Credit a piece and go on. -/
def State.commitCredit (s : State) (o : Op) (c : Copy) (n : Nat) : State :=
  let k := c.creditOf n
  let s := match c.bar with
    | some off => if k = 0 then s else s.barBytes o.team off true k
    | none => s
  s.mapCopy o.id fun _ => c.advance n
/-- A piece meets a page that is not there: the commit needs it, or the command stops. -/
def copyStop (r : Trial) (o : Op) (va : Nat) (write : Bool) (v : Verdict) : Trial :=
  match v.need o va write with
  | none => (r.1.stopCopy o.id .accessFault, r.2)
  | some k =>
    if o.bad = some .translationFault ∧ k ≠ .host then (r.1.stopCopy o.id .translationFault, r.2)
    else (r.1, r.2 ++ [{ op := o.id, lanes := 0, va := va, write := write, kind := k }])
/-- Write a piece and credit it. -/
def copyPut (r : Trial) (t : Team) (o : Op) (c : Copy) (d n : Nat) (bs : List Byte) : Trial :=
  if c.to_ = .global then
    let v := r.1.verdict t o d .write
    match v, v.need o d true with
    | .ok p, none =>
      (((r.1.countCommit t o [d] true).writeAt p.place bs).commitCredit o c n, r.2)
    | v, _ => copyStop r o d true v
  else ((r.1.anyTeam o.team (putLocal c.to_ d bs)).commitCredit o c n, r.2)
/-- The pieces of a command, one after another. -/
def runCopy : Nat → Nat → Trial → Trial
  | 0, _, r => r
  | k + 1, id, r =>
    match r.1.findOp id with
    | none => r
    | some o =>
      match o.kind, r.1.getTeam o.team with
      | .copy c, some t =>
        if c.rows ≤ c.row then (r.1.endCopy id, r.2)
        else if r.2 ≠ [] then r
        else match c.next with
          | .bad => (r.1.stopCopy id .accessFault, r.2)
          | .index a n =>
            match r.1.pieceBytes t o .global a n with
            | .ok (s, bs) => runCopy k id (s.mapCopy id fun c => { c with index := some (wordOfBytes bs) }, r.2)
            | .error v => copyStop r o a false v
          | .zero d n => runCopy k id (copyPut r t o c d n (List.replicate n 0))
          | .move a d n =>
            match r.1.pieceBytes t o c.from_ a n with
            | .ok (s, bs) => runCopy k id (copyPut (s, r.2) t o c d n bs)
            | .error v => copyStop r o a false v
      | _, _ => r
/-- A copy or gather, started and completed (R397). A circular fill whose slot is not free stays for the next commit, and what is behind it in
its queue with it (R95). -/
def commitCopy (r : Trial) (t : Team) (o : Op) (c : Copy) : Trial :=
  let s := r.1
  let stopped := ((t.findGroup o.gid).map (·.stopped)).getD []
  let run (s : State) (c : Copy) : Trial := runCopy (c.rows * (c.rowSz + 2) + 1) o.id ((s.mapOp o.id fun o => { o with buffered := false, started := true, kind := .copy c }), r.2)
  let behind := (s.buffered o.team o.gid o.id).any fun p => opQueue p == some c.queue
  if stopped.contains c.queue then (s.finishOp o.id, r.2)
  else if behind then r
  else match c.circ with
    | some cd =>
      let d := readCirc t.scratch cd
      let done (g : Option (Nat × Nat)) : Bool := g.all fun q => (readBar t.scratch q.1).completed (BitVec.ofNat 32 q.2)
      if done (slotGate d d.put).2 && done (fillGate d d.put) then
        let s := s.anyTeam o.team fun t => { t.clearMarks .scratch [(cd + 24, 4)] with scratch := Memory.write t.scratch (cd + 24) 4 ((d.put + 1) % 2 ^ 32) }
        let c := { c with fill := d.put, circReady := true, bar := some d.filled, to_ := d.space, dst := d.base + d.put % d.nslot * d.slotBytes }
        run (s.barBytes o.team d.filled false c.rowSz) c
      else r
    | none =>
      let n := if c.idxW = 0 then o.from_ else c.rows * c.rowSz
      run (match c.bar with
        | some off => if n = 0 then s else s.barBytes o.team off false n (c.idxW == 0)
        | none => s) c

/-- The quarter-passes of an operation, one after another (R301-R303). -/
def State.commitPass (s : State) (o : Op) (key : RowKey) (ver : Nat) (qs : List Quarter) : State :=
  qs.foldl (fun (s : State) (q : Quarter) =>
    let p : Pass := { id := 0, core := o.core, seat := o.seat, key := key, ver := ver, inj := false, quarters := [(o.id, q)] }
    match s.planeOf p, s.getTeam o.team with
    | some pl, some t => s.landPass { p with rows := (List.range 8).map fun i => quarterRow key.fmt pl.kl q i t }
    | _, _ => s) s
/-- A queue-6 operation, started and completed (R397). -/
def State.commitMx (s : State) (o : Op) (m : Mx) : State :=
  let s := s.mapOp o.id fun o => { o with buffered := false, begun := true }
  match m with
  | .xlds _ _ _ _ _ _ _ _ => s.endXlds o.id
  | .xswp _ => s.finishMx o.id
  | .pass block pair gen _ ver fmt _ inj qs =>
    let s := if inj && !qs.isEmpty then s.logEvent o.seat 5 o.core (s.oclk o.seat) 0 0 false true else s
    (s.commitPass o { pair := pair, gen := gen, fmt := fmt, block := block } ver qs).finishMx o.id
  | _ => s.endSerial o.id

/-- The arms of portable teams on a slot, evaluated after a ring operation (R397): stations ascending, each in order of
registration. -/
def State.commitArms (s : State) (i : Nat) : State :=
  let r := s.slot i
  if r.state = 1 then
    (sortBy (fun (a b : Arm) => decide (a.core < b.core)) (s.arms.filter fun (a : Arm) =>
      a.slot == i && s.portableArm a && armHolds a.cmp ((r.payload[a.w]?).getD 0) a.x)).foldl (fun (s : State) a => s.landArm a) s
  else s
/-- The home write of an alight in a commit. -/
def commitAlight (r : Trial) (t : Team) (o : Op) (i : Nat) : Trial :=
  let s := r.1
  let q := s.slot i
  let va := homeVa q.home
  let bytes := q.payload.flatMap fun w => bytesOf 4 w.toNat
  let v := s.verdict t o va .write
  match v, v.need o va true with
  | .ok p, none => ((((s.countCommit t o [va] true).writeAt p.place bytes).setSlot i {}).mapOp o.id fun o => { o with status := 1, landed := 1 }, r.2)
  | _, none => (((s.mapOp o.id fun o => { o with trapSent := true, bad := some .accessFault }).setSlot i { q with state := 2, writing := some (o.id, o.team, o.gid) }).defer o .accessFault, r.2)
  | _, some k =>
    if o.bad = some .translationFault ∧ k ≠ .host then (((s.mapOp o.id fun o => { o with trapSent := true }).setSlot i { q with state := 2, writing := some (o.id, o.team, o.gid) }).defer o .translationFault, r.2)
    else (s, r.2 ++ [{ op := o.id, lanes := 1, va := va, write := true, kind := k }])
/-- A ring operation at once (R397). -/
def commitRing (r : Trial) (t : Team) (o : Op) (i : Nat) (k : RingKind) : Trial :=
  let s := r.1
  let q := s.slot i
  let s1 := s.mapOp o.id fun o => { o with buffered := false, done := 1, applied := some s.g }
  let done (s : State) : Trial := (s.commitArms i, r.2)
  if q.state = 3 then ((s1.defer o .memoryUncorrectable).finishOp o.id, r.2)
  else match k with
    | .board home _ w =>
      match s.laneVerdict t o 0, (s.laneVerdict t o 0).need { o with away := true } 0 true with
      | .ok p, _ =>
        let s1 := s1.countCommit t o [home] true
        if q.state = 0 then done ((s1.setSlot i { state := 1, home := BitVec.ofNat 64 home, place := p.place, payload := w }).mapOp o.id fun o => { o with status := 1 })
        else done s1
      | _, some k =>
        if o.bad = some .translationFault then ((s1.defer o .translationFault).finishOp o.id, r.2)
        else (s, r.2 ++ [{ op := o.id, lanes := 1, va := home, write := true, kind := k }])
      | _, none => ((s1.defer o .accessFault).finishOp o.id, r.2)
    | .alight =>
      if q.state = 1 then
        let u := commitAlight (s1, r.2) t o i
        (u.1.commitArms i, u.2)
      else done (s1.mapOp o.id fun o => { o with landed := 1 })
    | .cap _ => done (s1.mapOp o.id fun o => { o with header := q.header, payload := q.payload })
    | .mod op w v nv =>
      if q.state = 1 then
        let u := q.modify op w v nv
        done ((s1.setSlot i u.1).mapOp o.id fun o => { o with status := pair64 1 u.2 })
      else done s1
    | .probe =>
      let rho := ((s.findSeat o.seat).map fun x => x.rho s.g).getD 0
      done (s1.mapOp o.id fun o => { o with status := BitVec.ofNat 64 (q.state % 4 * 2 ^ 62 + seamCount i 0 rho (s.oclk o.seat)) })
    | .arm p w x off => done ((s1.addArm o i p w x off).finishOp o.id)

/-- A launch record (R276, R397): with room it is placed and its reads set out; without, launch.try answers and launch waits. -/
def State.commitLaunch (s : State) (t : Team) (o : Op) (try_ : Bool) (cd : Nat) : State :=
  if s.poolRoom t.seat (s.launchRegion t) then
    let (g, s) := s.placeRecord t o.gid (SMap.get 0 o.x 0) (SMap.get 0 o.x 1) o.id
    (s.mapOp o.id fun o => { o with kind := .launchRead g try_ cd, buffered := false }).translate o.id o.active |>.checkOp o.id
  else if try_ then (s.anyGroup o.team o.gid fun g => g.landC o cd 0).finishOp o.id
  else s

/-- A launch of a commit takes its parameter words before any effect of it, as the group's loads would (R352, R398): what it still needs, or the
state with the words kept. A lane that is refused takes zero, and the launch traps when its reads translate. -/
def State.takeParams (s : State) (t : Team) (o : Op) : Trial :=
  let ls := (List.range 8).map (· + 1)
  let v (L : Nat) : Verdict := s.laneVerdict t o L
  let m (k : NeedKind) : LaneMask := maskOf fun L => ls.contains L && (v L).need o 0 false == some k
  let ask (k : NeedKind) : List Need := if m k = 0 then [] else [{ op := o.id, lanes := m k, va := SMap.get 0 o.addr (lowestLane (m k)), write := false, kind := k }]
  match ask .host ++ (if o.bad = some .translationFault then [] else ask .walk) with
  | n :: _ => (s, [n])
  | [] =>
    let q (L : Nat) : W64 := match v L with
      | .ok p => BitVec.ofNat 64 (s.readOver o.team o.gid o.id p.place 8)
      | _ => 0
    (s.mapOp o.id fun o => { o with payload := ls.flatMap fun L => [lo32 (q L), hi32 (q L)] }, [])
/-- The launches of a commit take their parameter words, one after another. -/
def takeAllParams : List Nat → State → Trial
  | [], s => (s, [])
  | id :: ids, s =>
    match s.findOp id with
    | some o =>
      match o.kind, s.getTeam o.team with
      | .launchRead _ _ _, some t =>
        match s.takeParams t o with
        | (s, []) => takeAllParams ids s
        | r => r
      | _, _ => takeAllParams ids s
    | none => takeAllParams ids s

/-- One buffered operation takes effect. -/
def commitOp (r : Trial) (id : Nat) : Trial :=
  if r.2 ≠ [] then r
  else match r.1.findOp id with
  | none => r
  | some o =>
    match r.1.getTeam o.team with
    | none => r
    | some t =>
      match o.kind with
      | .store sp _ => if sp = .global then commitGlobal r t o else (r.1.commitLocal o, r.2)
      | .atomic sp _ _ => if sp = .global then commitGlobal r t o else (r.1.commitLocal o, r.2)
      | .bar _ (.test _) => r
      | .bar off u =>
        match r.1.barApply o.team off u with
        | (true, s) => (s.finishOp id, r.2)
        | (false, s) => ((s.defer o .accessFault).finishOp id, r.2)
      | .pbank first n c => (((List.range n).foldl (fun (s : State) k => s.setScratch o.team (first + k) c) r.1).finishOp id, r.2)
      | .copy c => commitCopy r t o c
      | .matrix m => (r.1.commitMx o m, r.2)
      | .ring i k => commitRing r t o i k
      | .launchRead _ try_ cd => (r.1.commitLaunch t o try_ cd, r.2)
      | .amsg _ _ _ _ _ => ((r.1.mapOp id fun o => { o with buffered := false }).sendMessage id, r.2)
      | _ => (r.1.finishOp id, r.2)

/-! ### When a commit may take place -/

/-- A split that can go no further before a commit: it waits at a regroup point or in a word that blocks. -/
def Split.stands (p : Split) (parked : Bool) : Bool :=
  match p.block with
  | .regroup _ => true
  | .join _ _ => parked
  | .barWait _ _ _ => parked
  | .waitc _ _ _ _ => parked
  | .eacq _ => parked
  | .launch => parked
  | _ => false
/-- A group stands at its quantum end (R396): it has ended, its quantum has, its team is stopping, or it waits at a regroup
point; a group of a team that is away stands only where all its splits wait. -/
def Team.atEnd (t : Team) (g : Group) : Bool :=
  g.ended || t.halting.isSome
    || (if t.state = .resident ∨ t.state = .draining then (g.standing && !g.paused) || (!g.splits.isEmpty && g.splits.all fun (p : Split) => p.stands false)
      else !g.splits.isEmpty && g.splits.all fun (p : Split) => p.stands true)
/-- The released teams of a portable grid, in curve order (R400). -/
def State.gridTeams (s : State) (grid : Nat) : List Team :=
  sortBy (fun (a b : Team) => decide (a.curve < b.curve)) (s.teams.filter fun (t : Team) => t.grid == grid && t.portable && t.everResident)
/-- Nothing of the quantum is under way: no operation that is not buffered, no charged wait, no page in firmware's hands. -/
def State.quiet (s : State) (ts : List Team) : Bool :=
  (s.ops.filter fun (o : Op) => ts.any fun (t : Team) => t.id == o.team).all fun (o : Op) =>
    (o.buffered || o.trapSent) && o.walking == 0 && !(s.walks.any fun (w : Walk) => w.waiters.any fun a => a.1 == FaultOwner.op o.id || a.1 == FaultOwner.piece o.id) && (s.waitsOf o.seat (.op o.id)).isEmpty && (s.waitsOf o.seat (.piece o.id)).isEmpty
      && (o.trapSent || o.logged == 0 || o.bad == some .translationFault)
/-- Commit k may take place (R397). -/
def State.mayCommit (s : State) (ts : List Team) : Bool :=
  !ts.isEmpty && (ts.all fun (t : Team) => t.groups.all fun (g : Group) => t.atEnd g) && s.quiet ts

/-! ### Twins (R401, R402) -/

/-- What the comparator sees of an effect: kind, addresses, values, lanes and order. -/
def Op.stream (o : Op) : OpKind × SMap Nat × SMap W64 × SMap W64 × LaneMask × Bool × Bool × Scope :=
  let k := match o.kind with
    | .matrix (.pass b p _ _ _ f a i qs) => .matrix (.pass b p 0 false 0 f a i qs)
    | .matrix (.xlds p _ f w pt kl nl _) => .matrix (.xlds p false f w pt kl nl none)
    | k => k
  (k, o.addr, o.x, o.y, o.active, o.acq, o.rel, o.scope)
/-- The effect streams of a group. -/
def State.streamOf (s : State) (g : Group) : List (OpKind × SMap Nat × SMap W64 × SMap W64 × LaneMask × Bool × Bool × Scope) :=
  g.effects.filterMap fun id => (s.findOp id).map Op.stream
/-- The twin of a team. -/
def State.twinOf (s : State) (t : Team) : Option Team := s.teams.find? fun (u : Team) => u.twin == some t.id
/-- The copies of a team differ: by their streams, by a group that has ended in one of them alone (R397), or by an upset the outside reports. -/
def State.differs (s : State) (reported : List (Nat × Nat)) (t : Team) : Bool :=
  match s.twinOf t with
  | none => false
  | some u => (reported.any fun p => p.1 == t.id) || t.groups.map (fun g => (g.ended, s.streamOf g)) != u.groups.map fun g => (g.ended, s.streamOf g)
/-- The buffered effects of a team are dropped; plane pairs stand as though its matrix words had not issued. -/
def State.dropEffects (s : State) (team : Nat) : State :=
  let mine := s.ops.filter fun (o : Op) => o.team == team && o.buffered
  let s := mine.reverse.foldl (fun (s : State) (o : Op) => s.undoPlane o) s
  { s with ops := s.ops.filter fun (o : Op) => !(o.team == team && o.buffered) }
/-- A copy restores its record, its tiles by issue among it, and runs the quantum again (R402). -/
def State.rerunCopy (s : State) (t : Team) : State :=
  (s.dropEffects t.id).mapTeam t.id fun t => { t with groups := t.record, tiles := t.recTiles, rerun := some (s.oclk t.seat) }
/-- The streams of a team differ (R402): the first time the quantum runs once more; the second time the fault is lasting. -/
def State.mismatch (s : State) (t : Team) : State :=
  match s.twinOf t with
  | none => s
  | some u =>
    if t.rerun.isNone then (s.rerunCopy t).rerunCopy u
    else
      let s := (s.dropEffects t.id).dropEffects u.id
      let s := (s.logEvent t.seat 33 t.core (s.oclk t.seat) 0xFFFD).logEvent u.seat 33 u.core (s.oclk u.seat) 0xFFFD
      let s := s.complete t.region 0 8 0xFFFD
      (s.haltTeam t.id 0xFFFD 0xFFFD).haltTeam u.id 0xFFFD 0xFFFD
/-- A rerun that matched is reported by each core, with the cycles it added (R402). -/
def State.reportRerun (s : State) (t : Team) : State :=
  match t.rerun with
  | none => s
  | some c => (s.logEvent t.seat 9 t.core c 0 (s.oclk t.seat - c)).mapTeam t.id fun t => { t with rerun := none }

/-- The twin's registers that a quantum's results write take the primary's values. -/
def Group.takeResults (g p : Group) (dests : List Dest) (conds : List Nat) : Group :=
  let g := dests.foldl (fun (g : Group) d => match d with
    | .none => g
    | .vec d pair => (Machine.regs d pair).foldl (fun (g : Group) n => g.wVs n allLanes fun L => p.regs.getV n L) g
    | .scal d => g.wS d (p.regs.getS d)) g
  conds.foldl (fun (g : Group) c => g.wC c (p.regs.getC c)) g
/-- What a commit left the primary, its twin receives too: local memories and their wakes, tiles, results, traps, stopped queues and the waits that
ended (R402). -/
def Team.mirror (u t : Team) (results : Nat → List Dest × List Nat) : Team :=
  { u with
    scratch := t.scratch, spoison := t.spoison, sflips := t.sflips, abuf := t.abuf, wbuf := t.wbuf, xbuf := t.xbuf, tilesIn := t.tilesIn, sbanks := t.sbanks, swakes := t.swakes
    groups := u.groups.map fun (g : Group) => match t.findGroup g.gid with
      | none => g
      | some p =>
        let r := results g.gid
        let g := g.takeResults p r.1 r.2
        { g with deferred := p.deferred, stopped := p.stopped, splits := g.splits.map fun (k : Split) => match findSplit k.idx p.splits with
          | some q => { k with block := q.block }
          | none => k } }

/-! ### The commit -/

/-- Groups of a grid's primaries in ascending global group id: team and group (R400). -/
def commitOrder (ts : List Team) : List (Nat × Group) :=
  (ts.filter fun (t : Team) => t.twin.isNone).flatMap fun (t : Team) => (sortBy (fun (a b : Group) => decide (a.gid < b.gid)) t.groups).map fun g => (t.id, g)
/-- Results that wait for the whole commit: ring results and bar.test answers (R397). -/
def State.commitResult (s : State) (id : Nat) : State :=
  match s.findOp id with
  | none => s
  | some o =>
    match o.kind, o.dest with
    | .ring _ _, _ => if o.applied.isSome ∧ !o.trapSent then s.ringResult id else s
    | .bar off (.test ph), .scal d =>
      let v := match s.getTeam o.team with
        | some t => (readBar t.scratch off).completed ph
        | none => false
      (s.anyGroup o.team o.gid fun g => g.landS o d (BitVec.ofNat 64 (bit v))).finishOp id
    | _, _ => s
/-- The group's buffered operations that a commit left: a full launch, a fill without a slot. -/
def State.leftOver (s : State) (g : Group) : List Nat := g.effects.filter fun id => (s.findOp id).any fun (o : Op) => o.buffered
/-- Waits of a team's groups are evaluated again (R397). -/
def State.recheckWaits (s : State) (id : Nat) : State :=
  let full (g : Group) (i : Nat) : Bool := (s.leftOver g).any fun k => (s.findOp k).any fun (o : Op) => match o.kind with
    | .launchRead _ _ _ => o.split == i
    | _ => false
  let s := s.mapTeam id fun t => s.unblockJoins (t.resumeWaits s.g)
  s.mapTeam id fun t => { t with groups := t.groups.map fun (g : Group) =>
    (g.resumeCounts s.g).onSplits fun (p : Split) =>
      let b := match p.block with
        | .launch => Block.free
        | k => k
      { p with block := if full g p.idx then .launch else b } }
/-- Quantum k + 1 of a team begins: a group whose splits all still wait stands at once; a failing join parks the team. The groups of a team that
drains have still to run it, once the team is back, and the next commit waits for them (R397, R398). -/
def State.nextQuantum (s : State) (id : Nat) : State :=
  let joins (t : Team) : Bool := t.groups.any fun (g : Group) => g.allSplits.any fun (p : Split) => match p.block with
    | .join _ _ => true
    | _ => false
  let s := s.mapTeam id fun t =>
    let gs := t.groups.map fun (g : Group) =>
      let away := t.state != .resident || joins t
      let waits := !g.splits.isEmpty && g.splits.all fun (p : Split) => p.block != .free && p.stands true
      { g with quantum := g.quantum + 1, effects := s.leftOver g, standing := away || waits, paused := away && !waits }
    { t with groups := gs, record := if t.mode.twin then gs else [], recTiles := t.tiles }
  match s.findTeam id with
  | none => s
  | some t =>
    if t.state = .resident ∧ joins t then s.drain id true
    else if t.state = .draining then s.now (.drainComplete id)
    else s
/-- The pages a commit needs are asked for, on the state as it was: by a walk of the seat, which fills its TLB and which firmware or the host may
have to help (R353-R355, R358, R365), or as a charged access to host or peer memory, each piece's own, which ends after a time the spec
leaves open (R364, R412, log 5). -/
def State.askPage (s : State) (n : Need) : State :=
  match s.findOp n.op with
  | none => s
  | some o =>
    match s.getTeam o.team with
    | none => s
    | some t =>
      let ow : FaultOwner := if n.lanes = 0 then .piece o.id else .op o.id
      match n.kind with
      | .walk => (s.mapOp o.id fun o => { o with walking := n.lanes }).joinWalk o.seat o.core t.region.asid n.va n.write ow n.lanes
      | .host =>
        let (d, s) := s.draw
        let s := (if n.lanes = 0 then s.chargePiece o 3 Config.chargeHost n.va else s.chargeOp o ow 3 Config.chargeHost n.va).mapOp o.id fun o => if n.lanes = 0 then { o with paid := (n.va, n.write) :: o.paid } else { o with away := true }
        (s.waitsOf o.seat ow).foldl (fun (s : State) (w : Charged) => s.waitDone o.seat w.id (s.linkUp + d)) s
/-- Every effect of a quantum, the results, and the start of the next (R397), whose loads find memory as it is left now (R398). -/
def State.applyQuantum (s : State) (ts : List Team) : State :=
  let order := commitOrder ts
  let ids := order.flatMap fun q => q.2.effects
  let r := match takeAllParams ids s with
    | (s, []) => ids.foldl commitOp (s, [])
    | r => r
  match r.2 with
  | n :: _ => s.askPage n
  | [] =>
    let dests (team gid : Nat) : List Dest × List Nat :=
      let l := (order.filter fun q => q.1 == team && q.2.gid == gid).flatMap fun q => q.2.effects.filterMap s.findOp
      (l.flatMap fun (o : Op) => match o.kind, o.dest with
        | .ring _ (.cap _), .scal d => (List.range 5).map fun k => Dest.scal (d + k)
        | _, d => [d], l.filterMap fun (o : Op) => match o.kind with
        | .launchRead _ true cd => some cd
        | _ => none)
    let s := ids.foldl (fun (s : State) id => s.commitResult id) r.1
    let primaries := ts.filter fun (t : Team) => t.twin.isNone
    let s := primaries.foldl (fun (s : State) t => s.recheckWaits t.id) s
    let s := (ts.map fun (t : Team) => (t.seat, t.core)).eraseDups.foldl (fun (s : State) c =>
      s.grantWaiters c.1 c.2 fun t => ts.any fun (u : Team) => u.id == t.id) s
    let s := (ts.filter fun (t : Team) => t.twin.isSome).foldl (fun (s : State) (u : Team) =>
      let mine := s.ops.filter fun (o : Op) => o.team == u.id && o.buffered
      let s := mine.foldl (fun (s : State) (o : Op) => s.finishOp o.id) s
      match u.twin.bind s.findTeam with
      | some t => s.mapTeam u.id fun u => u.mirror t fun gid => dests t.id gid
      | none => s) s
    let s := ts.foldl (fun (s : State) t => (s.reportRerun t).nextQuantum t.id) s
    let s := { s with grids := s.grids.map fun (g : Grid) => if ts.any (fun (t : Team) => t.grid == g.id) then { g with image := s.store } else g }
    let s := (primaries.filterMap fun (t : Team) => s.findTeam t.id).foldl (fun (s : State) (t : Team) =>
      let done (u : Team) : Bool := (u.halting.isSome || u.groups.all fun (g : Group) => g.ended) && !(s.ops.any fun (o : Op) => o.team == u.id)
      if done t && (s.unitOf t).all fun u => u.twin.isSome || done u then s.endTeam t else s) s
    match ts with
    | t :: _ => if (s.gridTeams t.grid).all fun (t : Team) => t.groups.all fun (g : Group) => t.atEnd g then s.at (s.g + 1) (.quantumCommit t.grid []) else s
    | [] => s
/-- QUANTUM_COMMIT (R397, R402). -/
def State.commit (s : State) (grid : Nat) (reported : List (Nat × Nat)) : State :=
  let ts := s.gridTeams grid
  if !(s.mayCommit ts) then s
  else match ts.filter fun (t : Team) => s.differs reported t && t.halting.isNone with
    | [] => s.applyQuantum ts
    | l => l.foldl (fun (s : State) t => s.mismatch t) s
def execQuantumCommit (s : State) : Out :=
  runEvent s fun
    | .quantumCommit grid m => some (s.commit grid m)
    | _ => none

end Sys2Proof.Machine
end

