-- ==== Sys2Proof/Machine/Issue.lean ====
section
/-!
DEFINITION. Issue (R42-R48, R54): fetching a packet (R176-R178), the issue unit and its checks (R177, R179, R180, R186, R187),
readiness (R44, R69, R142, R423), selection (R45), and running a unit. `Step` only calls what stands here; the meanings of the
words come in as the argument `ex`.
-/

namespace Sys2Proof.Machine

open Sys2Proof

/-! ### Fetch (R176, R178) -/

/-- What a fetch finds. -/
inductive Fetch where
  /-- the four words of the packet -/
  | ok (ws : List W32)
  | refused
  | miss
  /-- the packet stands in host or peer memory and its charged read has not ended (R21, R364) -/
  | away
  deriving DecidableEq, Repr

/-- The code of a group: the team's, or its handler's (R178). -/
def codeOf (t : Team) (g : Group) : Code := if g.level = .supervisor then g.handlerCode.getD t.code else t.code
/-- The place of an address when the code was taken, through the tables of that time: a page that was staged, or being moved, counts
as its entry names it. None where it did not translate. -/
def State.codePlace (s : State) (c : Code) (asid va : Nat) : Option Phys :=
  match walkIn s c.at_.dev asid va with
  | .leaf l v _ => some (leafPlace l v va)
  | .absent l v _ => if staged l v || leafBit v 0 then some (leafPlace l v va) else none
  | _ => none
/-- The memories from which a page that did not translate then is read: as they stood at its first use, or as they stand (log 15). -/
def Code.latePage (c : Code) (va : Nat) : Option Store := (c.late.find? fun q => q.1 == va / 4096).map (·.2)
/-- The bytes of a packet as the code stood (R178), through the leaf of now where the page has come since. -/
def State.packetBytes (s : State) (c : Code) (asid va level : Nat) (w : W64) : List Byte :=
  match s.codePlace c asid va with
  | some p => c.at_.bytes p 16
  | none => ((c.latePage va).getD s.store).bytes (leafPlace level w va) 16
/-- The page of a packet that did not translate when the code was taken is kept as it stands at its first use (log 15). -/
def State.keepPage (s : State) (c : Code) (asid va : Nat) : Code :=
  if (s.codePlace c asid va).isNone && (c.latePage va).isNone then { c with late := (va / 4096, s.store) :: c.late } else c
/-- The words of sixteen bytes. -/
def wordsOfPacket (bs : List Byte) : List W32 := (List.range 4).map fun k => BitVec.ofNat 32 (wordOfBytes ((bs.drop (4 * k)).take 4))
/-- Fetch a packet: its translation is checked now (R178); `got`: the packet the split has read from the host. -/
def State.fetch (s : State) (t : Team) (g : Group) (got : Option W64) (pkt : W64) : Fetch :=
  let va := pkt.toNat
  match s.walkNow t.region.asid va with
  | .leaf level w _ =>
    if !(permits w g.level .fetch) then .refused
    else if !(leafPlace level w va).isDev && got != some pkt then .away
    else .ok (wordsOfPacket (s.packetBytes (codeOf t g) t.region.asid va level w))
  | .absent _ _ _ => .miss
  | _ => .refused

/-! ### The words of a packet -/

/-- The major of a word (R179). -/
def majorOf (w : W32) : Nat := fld w.toNat 30 24
/-- The chain bit (R179). -/
def chained (w : W32) : Bool := w.getLsbD 31
/-- The word names the packet literal (R177, R183). -/
def namesLit (w : W32) : Bool :=
  let m := majorOf w
  if [0x08, 0x17, 0x70, 0x71].contains m then true
  else if [0x1D, 0x26, 0x2C].contains m then fld w.toNat 13 6 == 0xE0
  else if [0x10, 0x11, 0x12, 0x13, 0x14, 0x15, 0x16, 0x18, 0x19, 0x1A, 0x1B, 0x20, 0x21, 0x22, 0x23, 0x24, 0x25, 0x27, 0x29, 0x2A, 0x2B,
      0x2E, 0x2F, 0x31, 0x36].contains m then fld w.toNat 9 2 == 0xE0
  else false
/-- Word `k` of a packet. -/
def wordAt (ws : List W32) (k : Nat) : W32 := (ws[k]?).getD 0
/-- W3 is not zero and no word names it (R177). -/
def literalUnnamed (ws : List W32) : Bool := wordAt ws 3 != 0 && !((ws.take 3).any namesLit)
/-- Every word from a slot on is a nop, and none of them takes a turn (R42). -/
def onlyNops (ws : List W32) (slot : Nat) : Bool := ((ws.take 3).drop slot).all fun w => w == 0

/-- The place of a split's next unit: nops that end a packet take no turn (R42). `n` bounds the packets passed in a cycle. -/
def State.skipNops (s : State) (t : Team) (g : Group) (got : Option W64) : Nat → W64 → Nat → W64 × Nat
  | 0, pkt, slot => (pkt, slot)
  | n + 1, pkt, slot =>
    match s.fetch t g got pkt with
    | .ok ws => if onlyNops ws slot && !(literalUnnamed ws) then s.skipNops t g got n (pkt + 16) 0 else (pkt, slot)
    | _ => (pkt, slot)
/-- Packets of nops passed in one cycle at most (log 40). -/
def nopFuel : Nat := 65536

/-! ### Merging (R47, R48) -/

/-- The split takes part in merging: it is not blocked, or only for want of a split index. -/
def Split.mayMerge (p : Split) : Bool := p.block == .free || p.block == .brx
/-- Put a split among those kept, into the first it meets. -/
def meet (p : Split) : List Split → List Split
  | [] => [p]
  | q :: qs =>
    if p.mayMerge && q.mayMerge && q.pkt == p.pkt && q.slot == p.slot then
      { q with lanes := q.lanes ||| p.lanes, notBefore := max q.notBefore p.notBefore, fetched := q.fetched <|> p.fetched } :: qs
    else q :: meet p qs
/-- The splits of a group after merging; one that waits for an index goes on when one is free. -/
def Group.merged (g : Group) : Group :=
  let l := g.splits.foldl (fun l p => meet p l) []
  if l.length < 4 then { g with splits := l.map fun p => if p.block = .brx then { p with block := .free } else p } else { g with splits := l }
/-- Each split that may issue stands at its next unit, and splits that meet there merge. -/
def State.settleGroup (s : State) (t : Team) (g : Group) : Group :=
  ({ g with splits := g.splits.map fun p =>
      if p.mayMerge then
        let q := s.skipNops t g p.fetched nopFuel p.pkt p.slot
        { p with pkt := q.1, slot := q.2, fetched := if q.1 = p.pkt then p.fetched else none }
      else p } : Group).merged

/-! ### The issue unit (R42, R43, R180) -/

/-- The pipes (R43). -/
inductive Pipe where
  | none | s | v | m | x
  deriving DecidableEq, Repr

/-- The pipe of a major (R183); v stands for V or W. -/
def pipeOf (m : Nat) : Pipe :=
  if m = 0 then .none
  else if m ≤ 0x0B then .s
  else if m = 0x0C ∨ m = 0x0D ∨ (0x10 ≤ m ∧ m ≤ 0x32) ∨ (0x34 ≤ m ∧ m ≤ 0x38) then .v
  else if (0x39 ≤ m ∧ m ≤ 0x3F) ∨ (0x50 ≤ m ∧ m ≤ 0x5B) ∨ (0x60 ≤ m ∧ m ≤ 0x6A) ∨ (0x70 ≤ m ∧ m ≤ 0x76) then .m
  else if (0x40 ≤ m ∧ m ≤ 0x4B) ∨ m = 0x7F then .s
  else if 0x78 ≤ m ∧ m ≤ 0x7E then .x
  else .none

/-- A word of a unit: its slot and bits. -/
structure UWord where
  slot : Nat
  word : W32
  deriving DecidableEq, Repr

/-- The words of the unit that begins at a slot; `n` slots are left. -/
def unitWords (ws : List W32) : Nat → Nat → List UWord
  | 0, _ => []
  | n + 1, k =>
    let w := wordAt ws k
    { slot := k, word := w } :: (if chained w then unitWords ws n (k + 1) else [])
/-- The unit at a slot of a packet. -/
def unitAt (ws : List W32) (slot : Nat) : List UWord := unitWords ws (3 - slot) slot

/-- Slots of the words that need a pipe already taken; `v`: vector words so far (R180). -/
def pipeClashes (taken : List Pipe) (v : Nat) : List UWord → List Nat
  | [] => []
  | u :: us =>
    match pipeOf (majorOf u.word) with
    | .none => pipeClashes taken v us
    | .v => (if 2 ≤ v then [u.slot] else []) ++ pipeClashes taken (v + 1) us
    | p => (if taken.contains p then [u.slot] else []) ++ pipeClashes (p :: taken) v us

/-- The instruction of a word. -/
def instrOf (w : W32) : Option Instr :=
  match decodeWord w.toNat with
  | .ok x => some x.instr
  | .error _ => none

/-- The causes among traps. -/
def causes (l : List TrapReq) : List Nat := (l.filter fun t => t.kind == .illegalInstruction).map (·.cause)
/-- The cycle from which a register may be used; none while an operation has still to write it. -/
def Board.ready (b : Board) (k cycle : Nat) : Bool := decide (SMap.get 0 b.avail k ≤ cycle) && !(b.busy.any fun p => p.1 == k)
/-- The causes of a literal that cp and gth refuse (R264). -/
def litCauses (s : State) (w : W32) : List Nat :=
  let kind := fld w.toNat 14 10
  if majorOf w = 0x70 then (if kind = 6 then (if s.cur.lit ≠ 0 then [3] else []) else causes (litTraps s.cur.lit false))
  else if majorOf w = 0x71 then causes (litTraps s.cur.lit true)
  else []
/-- A word whose register values make it illegal, judged once the registers it reads are available: reserved fields of its scalars
(R265, R266, R271, R275, R279, R322). -/
def valueCauses (s : State) (i : Instr) : List Nat :=
  let u := uses i
  let b := s.cur.group.board
  let cp (d : SReg) (kind : Nat) : List Nat := causes (copyTraps s d (copyOf s d kind 0))
  if !((u.rs.filter (· != 0) ++ u.rv.map (128 + ·)).all fun k => b.ready k s.g) then []
  else match i with
    | .cpG2s d _ => cp d 0
    | .cpS2g d _ => cp d 1
    | .cpG2a d _ => cp d 2
    | .cpG2w d _ => cp d 3
    | .cpX2g d _ => cp d 4
    | .cpG2g d _ => cp d 5
    | .cpCirc d _ => if circReserved s d then [3] else []
    | .gth d _ => if gthReserved s d then [3] else []
    | .launch d => causes (launchTraps s d)
    | .launchTry d _ => causes (launchTraps s d)
    | .amsg d => if amsgReserved s d then [3] else []
    | .sgArm d _ _ _ => if armReserved s d then [3] else []
    | _ => []
/-- A word that the state at hand makes illegal: an absent bank (R38, R65), a special register (R202, R334, R342, R344), a bank
beyond the team's (R73), a regroup point that refuses it, whatever registers are pending (R56), its registers' values. The split in focus is the one that issues it. -/
def illegalNow (s : State) (i : Instr) : List Nat :=
  let u := uses i
  (if (u.rv ++ u.wv).any fun n => s.cur.group.bank (bankOf n) == .absent then [10] else [])
    ++ match i with
      | .sgetsr _ n => causes (readTraps s n)
      | .ssetsr _ n | .ssetsrSet _ n | .ssetsrClr _ n =>
        if supReg n && s.cur.group.level = .user then [12] else if n.val = 0x40 then [] else [11]
      | .mfsys _ n => causes (readTraps s n)
      | .mtsys _ n => if sysWritable n then [] else if supReg n && s.cur.group.level = .user then [12] else [11]
      | .pbank f n _ => if s.cur.team.nscratch ≤ f.val + n.val then [10] else []
      | .vregrp f n c p =>
        if s.cur.group.splits.length == 1 && regroupClash s { point := p, first := f, count := n.val + 1, cond := c } then [13] else []
      | i => valueCauses s i

/-- A launch.try whose cd the decoder refuses may also have a reserved field in its descriptor (R187, R275). -/
def launchCauses (s : State) (w : W32) : List Nat :=
  let d := fld w.toNat 23 18
  if majorOf w = 0x74 ∧ d + 3 < 64 ∧ ((block d 4).all fun k => k == 0 || s.cur.group.board.ready k s.g) ∧ !(extReserved (s.rS (d + 2)) (s.rS (d + 3)))
    then [3] else []
/-- The causes a word of the unit gives (R186, R187, R342). -/
def wordCauses (s : State) (u : UWord) : List Nat :=
  (if majorOf u.word = 0x7F ∧ s.cur.group.level = .user then [12] else []) ++ litCauses s u.word
    ++ match decodeWord u.word.toNat with
      | .error c => c :: launchCauses s u.word
      | .ok x => illegalNow s x.instr
/-- The lowest of a list of numbers. -/
def lowest : List Nat → Option Nat
  | [] => none
  | n :: ns => match lowest ns with
    | none => some n
    | some m => some (min n m)
/-- The illegal words of a unit: slot, word and cause, slots rising (R180, R186, R187). -/
def unitIllegal (s : State) (us : List UWord) : List (Nat × W32 × Nat) :=
  us.filterMap fun u =>
    let chain := (if u.slot = 2 ∧ chained u.word then [7] else []) ++ (if (pipeClashes [] 0 us).contains u.slot then [7] else [])
    (lowest (wordCauses s u ++ chain)).map fun c => (u.slot, u.word, c)

/-! ### Readiness (R44) -/

/-- An access word (R423): it reads or writes memory, a local space or the ring, or is an engine command. -/
def accessWord (i : Instr) : Bool :=
  match i with
  | .vldZ _ _ _ _ _ | .vldS _ _ _ _ _ | .vst _ _ _ _ _ | .sld _ _ _ | .slw _ _ _ | .sst _ _ _ | .ssw _ _ _ | .vlds _ _ _ _ | .vsts _ _ _ _
  | .vlda _ _ _ _ | .vsta _ _ _ _ | .vldx _ _ _ _ | .vatom _ _ _ _ _ | .vmred _ _ _ _ _ | .satom _ _ _ _ _ | .vatoms _ _ _ _ _
  | .sgBoard _ _ | .sgAlight _ _ | .sgCap _ _ _ | .sgMod _ _ _ _ _ | .sgArm _ _ _ _ | .sgRev _ _ | .launch _ | .launchTry _ _
  | .cpG2s _ _ | .cpS2g _ _ | .cpG2a _ _ | .cpG2w _ _ | .cpX2g _ _ | .cpG2g _ _ | .cpCirc _ _ | .gth _ _
  | .xcfg _ _ _ | .xlds _ _ _ | .xswp _ | .xmm _ _ _ _ _ | .xbmm _ _ _ _ | .xscac _ _ | .xdrn _ | .xrel _ _ => true
  | _ => false
/-- An access word that reads nothing. -/
def writeOnlyWord (i : Instr) : Bool :=
  match i with
  | .vst _ _ _ _ _ | .sst _ _ _ | .ssw _ _ _ | .vsts _ _ _ _ | .vsta _ _ _ _ | .vmred _ _ _ _ _ | .sgBoard _ _ | .sgAlight _ _ | .sgArm _ _ _ _ => true
  | _ => false
/-- An engine command and its queue (R263, R289). -/
def commandQueue (i : Instr) : Option Nat :=
  match i with
  | .cpG2s _ q | .cpS2g _ q | .cpG2a _ q | .cpG2w _ q | .cpX2g _ q | .cpG2g _ q | .cpCirc _ q | .gth _ q => some q.val
  | .xcfg _ _ _ | .xlds _ _ _ | .xswp _ | .xmm _ _ _ _ _ | .xbmm _ _ _ _ | .xscac _ _ | .xdrn _ | .xrel _ _ => some 6
  | _ => none
/-- A word that R142 and R257 hold while the operand log holds an entry, whatever its addresses. -/
def logHolds (i : Instr) : Bool :=
  (commandQueue i).isSome || match i with
  | .vatom _ _ _ _ r | .satom _ _ _ _ r | .vatoms _ _ _ _ r | .sgMod _ _ _ _ r => r != .rlx
  | .vmred _ _ _ _ r => ordRel r
  | .sgCap _ _ acq => acq
  | .sgAlight _ _ => true
  | .fence _ _ _ => true
  | .barInit _ _ | .barExpect _ _ | .barArrive _ _ _ | .barArriveExp _ _ _ _ | .barWait _ _ _ _ | .barTest _ _ _ _ | .barPhase _ _ => true
  | .cbWait _ _ | .cbFree _ | .launch _ | .launchTry _ _ | .amsg _ | .join _ | .joinAll | .joinDoor _ => true
  | _ => false
/-- The exact global addresses of a word's lanes. -/
def globalAddrs (s : State) (i : Instr) : List Nat :=
  match i with
  | .vldZ _ b o _ _ | .vldS _ b o _ _ | .vst _ b o _ _ => s.active.map fun L => (vecAddr s b o L).toNat
  | .sld _ b e | .slw _ b e | .sst _ b e | .ssw _ b e => [(scalAddr s b e).toNat]
  | .vatom _ a _ _ _ | .vmred _ a _ _ _ => s.active.map fun L => (s.rP a L).toNat
  | .satom _ a _ _ _ => [(s.rS a).toNat]
  | _ => []
/-- The threads of a word that writes: it is their next write (R137). -/
def writeThreads (s : State) (i : Instr) : LaneMask :=
  match i with
  | .vst _ _ _ _ _ | .vsts _ _ _ _ | .vsta _ _ _ _ | .vatom _ _ _ _ _ | .vmred _ _ _ _ _ | .vatoms _ _ _ _ _ => s.activeMask
  | .sst _ _ _ | .ssw _ _ _ | .satom _ _ _ _ _ | .sgMod _ _ _ _ _ => s.lanes
  | _ => 0
/-- The operand log holds the word (R142); a write that a release fence makes a release is one. -/
def heldByLog (s : State) (i : Instr) : Bool :=
  let mine := s.ops.filter fun o => o.team == s.cur.team.id && o.gid == s.cur.group.gid && o.inLog
  !mine.isEmpty && (logHolds i || s.cur.group.fenceHolds (writeThreads s i) || (globalAddrs s i).any fun a => mine.any fun o => (lanesOf o.active).any fun L => SMap.get 0 o.addr L / 4096 == a / 4096)

/-- An operation whose value an acquire fence waits for. -/
def Op.isRead (o : Op) : Bool :=
  match o.kind with
  | .load _ _ _ => true
  | .atomic _ _ _ => o.count == .loads
  | .ring _ (.cap _) => true
  | .ring _ (.mod _ _ _ _) => true
  | .ring _ .probe => true
  | .launchRead _ _ _ => true
  | _ => false
/-- An acquire of the group has not completed (R423). -/
def acquiring (s : State) : Bool :=
  let g := s.cur.group
  (s.ops.any fun o => o.team == s.cur.team.id && o.gid == g.gid && o.acq && !o.buffered) || decide (s.g < g.tested)
    || g.splits.any fun p => match p.block with
      | .barWait _ _ acq => acq
      | .join _ _ => true
      | .door id => s.seat.waits.any fun (w : Charged) => w.id == id && w.door.isSome
      | _ => false
/-- An acquire, an acquire fence or an acqrel fence holds the access word (R137, R423). -/
def heldByAcquire (s : State) (i : Instr) : Bool :=
  let g := s.cur.group
  let mine := s.ops.filter fun o => o.team == s.cur.team.id && o.gid == g.gid
  accessWord i && !s.cur.team.portable && (acquiring s || g.fences.any fun f =>
    (f.acq && mine.any fun o => decide (o.id < f.age) && o.isRead)
      || (f.full && !(writeOnlyWord i) && mine.any fun o => decide (o.id < f.age) && o.isWrite && !o.wrote))

/-- The command's queue is full, stopped, or has had its room only since this cycle (R263, R270, R289). -/
def queueFull (s : State) (i : Instr) : Bool :=
  match commandQueue i with
  | none => false
  | some q =>
    let t := s.cur.team.id
    let g := s.cur.group
    g.stopped.contains q
      || decide (16 ≤ (s.queueOf t g.gid q).length + (s.freed.filter fun o => o.team == t && o.gid == g.gid && opQueue o == some q && !o.buffered).length)
/-- A ring word and its table: arms or operations (R314). -/
def ringTable (i : Instr) : Option Bool :=
  match i with
  | .sgArm _ _ _ _ => some true
  | .sgBoard _ _ | .sgAlight _ _ | .sgCap _ _ _ | .sgMod _ _ _ _ _ | .sgRev _ _ => some false
  | _ => none
/-- The station's table is full (R314). -/
def ringFull (s : State) (i : Instr) : Bool :=
  let c := s.cur.team.core
  let n := s.cur.team.seat
  match ringTable i with
  | none => false
  | some true => decide (32 ≤ (s.arms.filter fun a => a.core == c && a.seat == n).length + (s.freedArms.filter fun p => p == (c, n)).length)
  | some false =>
    let held (o : Op) : Bool := o.core == c && o.seat == n && (ringOf o).isSome && !o.buffered
    decide (32 ≤ (s.ops.filter fun o => held o && (o.applied.isNone || o.applied == some s.g)).length
      + (s.freed.filter fun o => held o && o.applied.isNone).length)

/-- No write is in flight to a bank (R66, R70). -/
def bankQuiet (s : State) (b : Nat) : Bool := (block (128 + 8 * b) 8).all fun k => s.cur.group.board.ready k s.g
/-- Scratchpad banks that engine commands, circular buffers, arms and stores in flight of a team name; a command still counts
in the cycle in which it completes, as at a full queue (R70, R73, R74, R263). -/
def bankNamed (s : State) (j : Nat) : Bool :=
  let t := s.cur.team
  let hits (a n : Nat) : Bool := n != 0 && decide (a / Config.bankBytes ≤ j ∧ j ≤ (a + n - 1) / Config.bankBytes)
  (s.arms.any fun a => a.team == t.id && hits a.off 16)
    || (s.ops ++ s.freed.filter fun (o : Op) => (opQueue o).isSome).any fun (o : Op) => o.team == t.id && match o.kind with
      | .copy c =>
        (c.from_ == .scratch && (List.range c.rows).any fun r => hits (c.src + r * c.sstride) c.rowSz)
          || (c.to_ == .scratch && c.circ.isNone && (if c.idxW = 0 then (List.range c.rows).any fun r => hits (c.dst + r * c.dstride) c.rowSz else hits c.dst (c.rows * c.rowSz)))
          || (c.bar.any fun off => hits off 16)
          || c.circ.any fun cd =>
            let d := readCirc t.scratch cd
            hits cd 32 || hits d.filled 16 || hits d.freed 16 || (d.space == .scratch && hits d.base (d.nslot * d.slotBytes))
      | .store .scratch n => (lanesOf (o.active &&& ~~~o.done)).any fun L => hits (SMap.get 0 o.addr L) n
      | .atomic .scratch op _ => (lanesOf (o.active &&& ~~~o.done)).any fun L => hits (SMap.get 0 o.addr L) (aopBytes op)
      | .bar off u => hits off 16 || match u with
        | .arrive _ (some cd) => hits cd 32
        | _ => false
      | .ring _ (.arm _ _ _ off) => hits off 16
      | _ => false

/-- Scratchpad bytes a word reads as it issues: start and length. -/
def scratchRanges (s : State) (i : Instr) : List (Nat × Nat) :=
  let t := s.cur.team
  let of (a : Int) (n : Nat) : List (Nat × Nat) := if inShare t .scratch a n && n != 0 then [(a.toNat, n)] else []
  let obj (b : SReg) : List (Nat × Nat) := of (s.rS b).toNat 16
  let lit : List (Nat × Nat) := match litBar s.cur.lit with
    | some off => of off 16
    | none => []
  let circ (a : Nat) : List (Nat × Nat) :=
    if inShare t .scratch a 32 then
      let d := s.circAt a
      of a 32 ++ of d.filled 16 ++ of d.freed 16
    else []
  match i with
  | .vlds _ b o w => s.active.flatMap fun L => of (vecAddr s b o L) (widthBytes w)
  | .vatoms _ a p _ _ => s.active.flatMap fun L => of (s.rV a L).toNat (aopBytes p)
  | .barInit b _ | .barExpect b _ | .barArrive b _ _ | .barArriveExp b _ _ _ | .barWait b _ _ _ | .barTest b _ _ _ | .barPhase b _ => obj b
  | .cbWait _ a | .cbFree a => circ (s.rS a).toNat
  | .cpCirc d _ => circ (s.rS (d.val + 1)).toNat
  | .cpG2s _ _ | .cpS2g _ _ | .cpG2a _ _ | .cpG2w _ _ | .cpX2g _ _ | .cpG2g _ _ | .gth _ _ => lit
  | .sgArm d _ _ _ => of (fld (s.rS d).toNat 19 0) 16
  | _ => []
/-- The units of `k` bytes that byte ranges touch. -/
def touched (k : Nat) (l : List (Nat × Nat)) : List Nat := distinct (l.flatMap fun q => block (q.1 / k) ((q.1 + q.2 - 1) / k - q.1 / k + 1))
/-- Scratchpad banks a word reads: a bank that wakes holds it (R69, R73, R256). -/
def scratchReads (s : State) (i : Instr) : List Nat := touched Config.bankBytes (scratchRanges s i)

/-- A word is ready but for its registers, its pipe and the banks it reads. -/
def wordReady (s : State) (i : Instr) : Bool :=
  !(heldByLog s i) && !(heldByAcquire s i) && !(queueFull s i) && !(ringFull s i) && match i with
    | .vbank m c => c == .full || ((List.range 16).filter fun b => m.getLsbD b).all (bankQuiet s)
    | .erel => [8, 9, 10, 11, 12, 13, 14, 15].all (bankQuiet s)
    | .pbank f n c => c == .full || (block f.val (n.val + 1)).all fun j => !(bankNamed s j)
    | .amsg d => decide (s.incoming s.cur.team.seat (fld (s.rS d).toNat 7 0) < 64)
    | .vregrp _ _ _ _ => s.cur.group.splits.length == 1
    | _ => true

/-- The scoreboard keys a word reads and writes: scalar n, condition 64 + n, vector 128 + n; s0 and c7 are never pending. -/
def keysOf (i : Instr) : List Nat :=
  let u := uses i
  ((u.rs ++ u.ws).filter fun n => n != 0) ++ ((u.rc ++ u.wc).filter fun n => n != 7).map (64 + ·) ++ (u.rv ++ u.wv).map (128 + ·)

/-- An F64 word holds its pipe for 2 cycles (R43). -/
def holdsTwo (i : Instr) : Bool :=
  match i with
  | .vdadd _ _ _ | .vdsub _ _ _ | .vdmul _ _ _ | .vdfma _ _ _ | .vddiv _ _ _ _ | .vdcmp _ _ _ _ | .vdsqrt _ _ => true
  | .vcvt _ _ f t _ => f == .f64 || t == .f64
  | _ => false
/-- The first cycles in which pipes V and W of a core are free for the seat. -/
def Seat.pipesOf (x : Seat) (core : Nat) : Nat × Nat := ((x.pipes.find? fun p => p.1 == core).map (·.2)).getD (0, 0)
/-- The vector words of a unit. -/
def vectorWords (us : List UWord) : List UWord := us.filter fun u => pipeOf (majorOf u.word) == .v
/-- Pipes V and W after a unit at a cycle: none where a pipe it needs is not free; W for a first vector word only where it issues alone
(R43). -/
def pipesAfter (vw : Nat × Nat) (us : List UWord) (cycle : Nat) : Option (Nat × Nat) :=
  let hold (u : UWord) : Nat := cycle + (if (instrOf u.word).any holdsTwo then 2 else 1)
  match vectorWords us with
  | [] => some vw
  | [u] =>
    let alone := (us.filter fun v => v.word != 0).length == 1
    if vw.1 ≤ cycle then some (hold u, vw.2) else if alone && decide (vw.2 ≤ cycle) then some (vw.1, hold u) else none
  | u :: v :: _ => if vw.1 ≤ cycle ∧ vw.2 ≤ cycle then some (hold u, hold v) else none

/-- What becomes of a unit that a split has come to. -/
inductive Readiness where
  | wait
  /-- ready but for banks in Retain, whose wakes start: of the group, of the team's scratchpad (R69, R73) -/
  | wake (banks scratch : List Nat)
  | go
  deriving DecidableEq, Repr

/-- Readiness of a legal unit of the split in focus (R44, R69). -/
def unitReadiness (s : State) (us : List UWord) : Readiness :=
  let is := us.filterMap fun u => instrOf u.word
  let g := s.cur.group
  let t := s.cur.team
  if !((is.flatMap keysOf).all fun k => g.board.ready k s.g) then .wait
  else if (pipesAfter (s.seat.pipesOf t.core) us s.g).isNone then .wait
  else if !(is.all (wordReady s)) then .wait
  else
    let banks := distinct ((is.flatMap fun i => (uses i).rv).map bankOf)
    let sb := distinct (is.flatMap (scratchReads s))
    if (banks.any fun b => (g.waking b).isSome) || (sb.any fun j => (t.swaking j).isSome) then .wait
    else
      let vb := banks.filter fun b => g.bank b == .retain
      let rb := sb.filter fun j => t.sbank j == .retain
      if vb.isEmpty && rb.isEmpty then .go else .wake vb rb

/-! ### Selection (R12, R45) -/

/-- The team issues units: it is resident and not stopped; a draining team of a portable grid goes on to its quantum's end
(R51, R347, R394, R398). -/
def Team.mayIssue (t : Team) : Bool :=
  t.halting.isNone && !t.discard && (t.state == .resident || (t.state == .draining && t.portable))
/-- A word of the group that waits for an operand log entry stops the group's issue (R248). -/
def State.logFull (s : State) (team gid : Nat) : Bool :=
  s.ops.any fun o => o.team == team && o.gid == gid && o.noEntry && !o.buffered
/-- The group issues units in this cycle. -/
def State.groupMayIssue (s : State) (t : Team) (g : Group) : Bool :=
  !g.ended && !g.standing && decide (g.notBefore ≤ s.g) && !(s.logFull t.id g.gid)

/-- A candidate: its key and where it stands, with its group after merging. -/
structure Cand where
  key : Nat × Nat × Nat
  team : Team
  group : Group
  split : Split
  deriving DecidableEq, Repr

/-- The splits of a seat on a core that are not blocked, in key order (R45). -/
def State.candidates (s : State) (seat core : Nat) : List Cand :=
  let ts := (s.teamsOn seat core).filter fun t => t.mayIssue
  sortBy (fun a b => keyBefore a.key b.key) (ts.flatMap fun t => (t.groups.filter fun g => s.groupMayIssue t g).flatMap fun g =>
    let g := s.settleGroup t g
    (g.splits.filter fun p => p.block == .free && decide (p.notBefore ≤ s.g)).map fun p =>
      { key := (t.residency, g.gid, p.idx), team := t, group := g, split := p })
/-- The search begins after the key of the seat's last issue on the core (R45). -/
def rotate (last : Option (Nat × Nat × Nat)) (l : List Cand) : List Cand :=
  match last with
  | none => l
  | some k => (l.filter fun c => keyBefore k c.key) ++ l.filter fun c => !(keyBefore k c.key)

/-- What a candidate would do in this cycle. -/
inductive Act where
  | none
  /-- wakes start; the split does not issue -/
  | wake (banks scratch : List Nat)
  /-- the packet's translation faults (R178) -/
  | miss
  /-- the packet is read from the host (R21, R364) -/
  | away
  /-- the fetch is refused (R178) -/
  | refused
  | deferred
  /-- illegal: slot, word, cause (R186) -/
  | illegal (slot : Nat) (word : W32) (cause : Nat)
  | run (us : List UWord)
  deriving DecidableEq, Repr

/-- The place after a unit that ends at a slot (R204). -/
def afterSlot (pkt : W64) (e : Nat) : W64 × Nat := if e < 2 then (pkt, e + 1) else (pkt + 16, 0)
/-- Put a candidate into focus at its unit, with the literal of its packet. -/
def State.focusOn (s : State) (c : Cand) (lit : W32) (last : Nat) : State :=
  let s := s.focus (c.team.mapGroup c.group.gid fun _ => c.group) c.group c.split.idx
  let n := afterSlot c.split.pkt last
  { s with ev := none, cur := { s.cur with
      pkt := c.split.pkt, slot := c.split.slot, unitSlot := c.split.slot, nextPkt := n.1, nextSlot := n.2, lit := lit, age := s.nextOp } }
/-- The code of the group in focus keeps the page at hand (R178). -/
def State.keepCode (s : State) (va : Nat) : State :=
  let asid := s.cur.team.region.asid
  match s.cur.group.level, s.cur.group.handlerCode with
  | .supervisor, some c => s.onGroup fun g => { g with handlerCode := some (s.keepPage c asid va) }
  | _, _ => s.onTeam fun t => { t with code := s.keepPage t.code asid va }
/-- The state as the group in focus would be without its operations whose trap is delivered or to be taken (R338). -/
def State.withoutTrapped (s : State) : State :=
  let dead := s.ops.filter fun o => o.team == s.cur.team.id && o.gid == s.cur.group.gid && o.trapSent
  ({ s with ops := s.ops.filter fun o => !(dead.any fun d => d.id == o.id) } : State).onGroup fun g =>
    { g with board := { g.board with busy := g.board.busy.filter fun b => !(dead.any fun d => d.id == b.2) } }

/-- The state with the candidate in focus, and what it does (R44, R178, R186, R187, R338). The nops of a unit that end its packet
take no turn (R42, R60). -/
def State.consider (s : State) (c : Cand) : State × Act :=
  let owed := c.group.owed.isSome
  match s.fetch c.team c.group c.split.fetched c.split.pkt with
  | .refused => (s.focusOn c 0 c.split.slot, if owed then .deferred else .refused)
  | .miss => (s.focusOn c 0 c.split.slot, if owed then .deferred else .miss)
  | .away => (s.focusOn c 0 c.split.slot, if owed then .deferred else .away)
  | .ok ws =>
    let us := unitAt ws c.split.slot
    let f := (s.focusOn c (wordAt ws 3) ((us.getLast?).elim c.split.slot (·.slot))).keepCode c.split.pkt.toNat
    if literalUnnamed ws then (f, if owed then .deferred else .illegal 0 (wordAt ws 3) 8)
    else match unitIllegal f us with
      | (k, w, n) :: _ => (f, if owed then .deferred else .illegal k w n)
      | [] =>
        if owed then match unitReadiness f.withoutTrapped us with
          | .wait => (f, .none)
          | .wake vb sb => (f, .wake vb sb)
          | .go => (f, .deferred)
        else match unitReadiness f us with
          | .wait => (f, .none)
          | .wake vb sb => (f, .wake vb sb)
          | .go => (f, .run (us.filter fun u => !(onlyNops ws u.slot)))

/-- The first candidate that does something. -/
def State.firstAct (s : State) : List Cand → Option (Cand × State × Act)
  | [] => none
  | c :: cs =>
    match s.consider c with
    | (_, .none) => s.firstAct cs
    | (f, a) => some (c, f, a)
/-- What a seat does on a core in this cycle. -/
def State.seatAct (s : State) (core seat : Nat) : Option (Cand × State × Act) :=
  match s.findSeat seat with
  | none => none
  | some x =>
    if x.running && (x.core? core).isSome then
      s.firstAct (rotate ((x.lastKey.find? fun p => p.1 == core).map (·.2)) (s.candidates seat core))
    else none
/-- The seat that the core's rota names issues; when it has no ready split, or none is named, the fill seat does (R12). -/
def State.coreAct (s : State) (core : Nat) : Option (Cand × State × Act) :=
  match (s.coreSeat core).bind fun n => s.seatAct core n with
  | some a => some a
  | none => if s.coreSeat core = some 15 then none else s.seatAct core 15
/-- The first core, in ascending order, that has something to do and has not issued in this cycle. -/
def State.pick (s : State) : Option (Cand × State × Act) :=
  ((distinct (s.teams.map (·.core))).filter fun c => !(s.issued.contains c)).findSome? s.coreAct

/-! ### After a unit -/

/-- Cycles from issue to the first cycle in which a dependent word may issue (R54, R189, R262, R280, R314, R342); a word whose
destination an operation writes has none. Of sext R189 states 4, where a row of R54 lists it with 1 (log 24). -/
def latency (i : Instr) : Nat :=
  match i with
  | .vmul _ _ _ | .vmulhS _ _ _ | .vmulhZ _ _ _ => 5
  | .vfadd _ _ _ _ | .vfsub _ _ _ _ | .vfmul _ _ _ _ | .vfma _ _ _ _ | .vfnma _ _ _ _ | .vfmin _ _ _ | .vfmax _ _ _ | .vfminn _ _ _ | .vfmaxn _ _ _
  | .vfcmp _ _ _ _ | .vfabs _ _ | .vfneg _ _ | .vfcpsgn _ _ _ | .vhadd _ _ _ _ | .vhmul _ _ _ _ | .vhfma _ _ _ _ | .vcvt _ _ _ _ _
  | .vquantD8 _ _ _ | .vquantD6 _ _ _ | .vquantM4 _ _ _ | .vquantS8 _ _ _ | .vpack _ _ _ | .vunpkZ _ _ _ | .vunpkS _ _ _
  | .vshflIdx _ _ _ | .vshflUp _ _ _ | .vshflDown _ _ _ | .vshflXor _ _ _ => 6
  | .vdadd _ _ _ | .vdsub _ _ _ | .vdmul _ _ _ | .vdfma _ _ _ | .vdcmp _ _ _ _ => 8
  | .vfdiv _ _ _ _ | .vfsqrt _ _ | .vfrcp _ _ | .vfrsq _ _ | .vfex2 _ _ | .vflg2 _ _ => 18
  | .vddiv _ _ _ _ | .vdsqrt _ _ => 34
  | .vfold _ _ _ | .vscan _ _ _ _ => 10
  | .sext _ _ _ _ | .sextFirst _ _ _ | .sextLast _ _ _ | .vins _ _ _ _ | .vinsAll _ _ _ => 4
  | .barTest _ _ _ _ => 4
  | .vadd _ _ _ | .vaddSatS _ _ _ | .vaddSatZ _ _ _ | .vsub _ _ _ | .vsubSatS _ _ _ | .vsubSatZ _ _ _ | .vminS _ _ _ | .vminZ _ _ _ | .vmaxS _ _ _
  | .vmaxZ _ _ _ | .vand _ _ _ | .vor _ _ _ | .vxor _ _ _ | .vandn _ _ _ | .vshl _ _ _ | .vshrZ _ _ _ | .vshrS _ _ _ | .vrot _ _ _ | .vlut3 _ _ _
  | .vpopc _ _ | .vclz _ _ | .vctz _ _ | .vbrev _ _ | .vbfxZ _ _ _ | .vbfxS _ _ _ | .vbfi _ _ _ | .vaddi _ _ _ | .vcmp _ _ _ _ | .vsel _ _ _ _
  | .vmov _ _ | .vmovX64 _ _ | .vlit _ _ | .vlaneid _ | .vballot _ _ | .vmrank _ _ | .vmrankInc _ _ => 4
  | .vldZ _ _ _ _ _ | .vldS _ _ _ _ _ | .sld _ _ _ | .slw _ _ _ | .vlds _ _ _ _ | .vlda _ _ _ _ | .vldx _ _ _ _ | .vatom _ _ _ _ _
  | .satom _ _ _ _ _ | .vatoms _ _ _ _ _ | .sgBoard _ _ | .sgAlight _ _ | .sgCap _ _ _ | .sgMod _ _ _ _ _ | .sgRev _ _ | .launchTry _ _
  | .vregrp _ _ _ _ => 0
  | _ => 1

/-- The scoreboard after a word of the unit at cycle `cycle`: its destinations are available after its latency, and a vector
destination not before its bank is awake (R54, R69). -/
def Group.scored (g : Group) (i : Instr) (cycle : Nat) : Group :=
  let at_ (k c : Nat) (a : SMap Nat) : SMap Nat := if c ≤ SMap.get 0 a k then a else SMap.set 0 a k c
  let n := if latency i = 0 then 0 else cycle + latency i
  let u := uses i
  let a := (u.ws.filter fun k => k != 0).foldl (fun a k => at_ k n a) g.board.avail
  let a := u.wc.foldl (fun a k => at_ (64 + k) n a) a
  let a := u.wv.foldl (fun a k => at_ (128 + k) (max n (((g.waking (bankOf k)).map (·.due)).getD 0)) a) a
  { g with board := { g.board with avail := a.filter fun p => decide (cycle < p.2) } }

/-- A word that ends a quantum of a portable group (R396). -/
def endsQuantum (i : Instr) : Bool :=
  match i with
  | .vatom _ _ _ _ _ | .satom _ _ _ _ _ | .vatoms _ _ _ _ _ | .sgBoard _ _ | .sgAlight _ _ | .sgCap _ _ _ | .sgMod _ _ _ _ _ | .sgArm _ _ _ _
  | .sgRev _ _ | .sgRevOfs _ | .barTest _ _ _ _ | .barWait _ _ _ _ | .cbWait _ _ | .eacq | .join _ | .joinAll | .joinDoor _
  | .launch _ | .launchTry _ _ => true
  | .waitc l st cp ti => !(waitsNothing l st cp ti)
  | _ => false
/-- A portable group after a unit: it stands at its quantum's end, and the commit is looked at where one may be due. -/
def State.quantumEnds (s : State) (is : List Instr) : State :=
  let t := s.cur.team
  if !t.portable then s
  else
    let g := s.cur.group
    let ends := g.ended || decide ((g.quantum + 1) * 2 ^ t.mode.qlog ≤ g.iret.toNat) || is.any endsQuantum
    let s := if ends then s.onGroup fun g => { g with standing := true } else s
    if ends || (g.splits.all Split.atPoint) then s.pokeCommit t.grid else s
/-- The split still stands at a word that it will execute again: a brx without a free index, whatever else of the unit blocked the split,
or a launch. -/
def State.staysBlocked (s : State) (is : List Instr) : Bool :=
  ((findSplit s.cur.split s.cur.group.splits).any fun p => p.block == .brx || p.block == .launch)
    || (s.cur.src.any fun g => g.freeSplits == []) && is.any fun
      | .brx b a => decide (1 < (brxTargets (brxTarget s b a) s.active).length)
      | _ => false
/-- What a unit that took effect leaves behind: %iret, the scoreboard, the quantum (R44, R60, R396). -/
def State.retireUnit (s : State) (is : List Instr) : State :=
  let n := if s.staysBlocked is then is.length - 1 else is.length
  (s.onGroup fun g => is.foldl (fun (g : Group) i => g.scored i s.g) { g with iret := g.iret + BitVec.ofNat 64 n }).quantumEnds is

/-- The candidate's turn is over: the team goes back, the core has issued, the key and the pipes are kept (R43, R45). -/
def State.endTurn (s : State) (c : Cand) (us : List UWord) : State :=
  let core := c.team.core
  let s := { s.unfocus with issued := core :: s.issued }
  s.mapSeat c.team.seat fun x =>
    { x with
      lastKey := (x.lastKey.filter fun p => p.1 != core) ++ [(core, c.key)]
      pipes := (x.pipes.filter fun p => p.1 != core) ++ [(core, (pipesAfter (x.pipesOf core) us s.g).getD (x.pipesOf core))] }

/-- Apply a function to a next state. -/
def onNext (o : Out) (f : State → State) : Out :=
  match o with
  | .next s => .next (f s)
  | o => o

/-- The word at hand of the unit in focus. -/
def State.load (s : State) (u : UWord) : State := { s with cur := { s.cur with slot := u.slot, word := u.word } }
/-- The split goes on behind the unit; a word that transfers control overwrites this (R204). -/
def State.advance (s : State) : State := s.goto s.cur.nextPkt s.cur.nextSlot

/-! ### Error marks (R76, R79) -/

/-- A word reads the nesting counters of its split (log 103): vector words, vector accesses, matrix words, branches and mask words,
vregrp, and the reads of %lane and %nestq0-3. -/
def readsNest (w : W32) (i : Instr) : Bool :=
  let m := majorOf w
  pipeOf m == .v || pipeOf m == .x || [0x39, 0x40, 0x43, 0x50, 0x51, 0x52, 0x57, 0x58, 0x59, 0x5A, 0x5B, 0x60, 0x61, 0x63].contains m
    || (0x44 ≤ m && m ≤ 0x4B) || match i with
      | .sgetsr _ n => n.val == 0x10 || (0x14 ≤ n.val && n.val ≤ 0x17)
      | .mfsys _ n => n.val == 0x10 || (0x14 ≤ n.val && n.val ≤ 0x17)
      | _ => false
/-- What a word takes besides vector registers: the keys of their marks, with lanes. -/
def uniformReads (s : State) (w : W32) (i : Instr) : List (Nat × LaneMask) :=
  let u := uses i
  ((u.rs.filter (· != 0)).map fun n => (markS n, BitVec.allOnes 32)) ++ ((u.rc.filter (· != 7)).map fun n => (markC n, BitVec.allOnes 32))
    ++ if readsNest w i then [(markN, s.lanes)] else []
/-- Scratchpad bytes a word takes, the source of a cp.s2g among them. -/
def scratchTaken (s : State) (i : Instr) : List (Nat × Nat) :=
  scratchRanges s i ++ match i with
    | .cpS2g d _ =>
      let c := copyOf s d 1 0
      if copyTraps s d c = [] then (rowStarts c.src c.sstride c.rows).map fun a => (a, c.rowSz) else []
    | _ => []
/-- The trap of scratchpad bytes a word takes that are marked; of lanes that read for themselves, the lowest (R7, R76). -/
def markedTraps (s : State) (i : Instr) : List TrapReq :=
  let bad (l : List (Nat × Nat)) : Bool := (touched 64 l).any s.cur.team.spoison.contains
  let lane (a : Nat → Int) (n : Nat) : List TrapReq :=
    (s.active.filter fun L => inShare s.cur.team .scratch (a L) n && bad [((a L).toNat, n)]).map (laneTrap .registerUncorrectable)
  match i with
  | .vlds _ b o w => lane (vecAddr s b o) (widthBytes w)
  | .vatoms _ a p _ _ => lane (fun L => ((s.rV a L).toNat : Int)) (aopBytes p)
  | i => if bad (scratchTaken s i) then [trapOf .registerUncorrectable] else []
/-- RegisterUncorrectable for what a word reads besides its vector registers, whose marks its meaning judges (R76, R79). -/
def uncorrectables (s : State) (w : W32) (i : Instr) : List TrapReq :=
  let g := s.srcG
  ((uniformReads s w i).filter fun q => SMap.get 0 g.poison q.1 &&& q.2 != 0).map
      (fun q => laneTrap .registerUncorrectable (if q.1 = markN then lowestLane (SMap.get 0 g.poison q.1 &&& q.2) else 0))
    ++ markedTraps s i
/-- Single-bit errors in what a word reads are corrected, and the core counts them (R76): an error that two words of one unit read is
corrected by each, since both read the group as the unit found it, and counts twice (log 128). -/
def State.correct (s : State) (w : W32) (i : Instr) : State :=
  let g := s.srcG
  let keys := ((uses i).rv.map fun n => (n, lanesTaken i s)) ++ uniformReads s w i
  let hit := (distinct (keys.map (·.1))).filterMap fun k =>
    let m := SMap.get 0 g.flips k &&& (keys.filter fun q => q.1 == k).foldl (fun m q => m ||| q.2) 0
    if m = 0 then none else some (k, m)
  let rows := (touched 64 (scratchTaken s i)).filter s.cur.team.sflips.contains
  let n := hit.foldl (fun n q => n + (if q.1 < 128 ∨ q.1 = markN then (lanesOf q.2).length else 1)) rows.length
  if n = 0 then s
  else
    let s := s.onGroup fun g => { g with flips := hit.foldl (fun m q => keepMarks m q.1 (~~~q.2)) g.flips }
    let s := s.onTeam fun t => { t with sflips := t.sflips.filter fun k => !rows.contains k }
    { s with corrected := SMap.set 0 s.corrected s.cur.team.core (SMap.get 0 s.corrected s.cur.team.core + n) }
/-- A word as its meaning runs it, after the errors in what it reads have been looked at (R76, R79). -/
def checked (ex : Instr → State → Out) (w : W32) (i : Instr) (s : State) : Out :=
  match uncorrectables s w i with
  | [] => ex i (s.correct w i)
  | t :: ts =>
    match ex i s with
    | .next r => .next (s.trapWord (worstTrap t (ts ++ r.cur.trap.toList)))
    | o => o

/-- Lanes in which a word writes a register it names (R188). -/
def writtenLanes (s : State) (i : Instr) : List (Nat × LaneMask) :=
  let u := uses i
  let cond : LaneMask := match i with
    | .vcmp _ _ _ _ => s.activeMask
    | .vfcmp _ _ _ _ => s.activeMask
    | .vdcmp _ _ _ _ => s.activeMask
    | _ => BitVec.allOnes 32
  let vec : LaneMask := match i with
    | .vins _ _ _ l => s.activeMask &&& (1#32 <<< l.val)
    | _ => s.activeMask
  u.ws.map (·, BitVec.allOnes 32) ++ u.wc.map (64 + ·, cond) ++ u.wv.map (128 + ·, vec)
/-- The registers a word writes are no longer written by the operations of earlier words of its unit, those from `a` to before `b`
(R188). -/
def State.overwrite (s : State) (l : List (Nat × LaneMask)) (a b : Nat) : State :=
  { s with ops := s.ops.map fun o => if a ≤ o.id ∧ o.id < b then
      { o with lost := l.foldl (fun m q => SMap.set 0 m q.1 (SMap.get 0 m q.1 ||| q.2)) o.lost } else o }

/-- A unit of several words: each reads the group as the unit found it (R188). A word that traps has no effect; its trap is
kept, and so is a software trap, which waits for the other words (R180, R211). -/
def runWords (ex : Instr → State → Out) : List UWord → State → List TrapReq → Option TrapReq → Out
  | [], s, [], none => .next s
  | [], s, [], some t => .next ({ s with cur := { s.cur with trap := some t } }.takeTrap t false)
  | [], s, b :: bs, _ => .next { s with cur := { s.cur with trap := some (worstTrap b bs) } }
  | u :: us, s, bad, soft =>
    match instrOf u.word with
    | none => runWords ex us s bad soft
    | some i =>
      match checked ex u.word i (s.load u) with
      | .next r =>
        match r.cur.trap with
        | none => runWords ex us (r.overwrite (writtenLanes (s.load u) i) s.cur.age s.nextOp) bad soft
        | some t => if t.after then runWords ex us s bad (some t) else runWords ex us s (bad ++ [t]) soft
      | o => o

/-- A split that a brx of the unit made came from the issuing split, so what a word of the unit blocked that on holds it too: every word
of the unit takes effect before the transfer (R180, R231). -/
def State.spreadBlock (s : State) : State :=
  match findSplit s.cur.split s.cur.group.splits, s.cur.src with
  | some p, some g0 =>
    if p.block == .free || p.block == .brx then s
    else
      let mark (q : Split) : Split := if g0.splits.any (fun r => r.idx == q.idx) then q else { q with block := p.block, age := p.age }
      s.onGroup fun g => { g with splits := g.splits.map mark }
  | _, _ => s
/-- A blocking launch of the unit finds no room: it has not taken effect, nor have the words chained with it (R180, R276, log 82). -/
def launchFull (s : State) (us : List UWord) : Bool :=
  (us.any fun u => match instrOf u.word with
    | some (.launch d) => launchTraps s d == []
    | _ => false) && !s.cur.team.portable && !(s.poolRoom s.cur.team.seat (s.launchRegion s.cur.team))

/-- Run the unit in focus: one word as its meaning says; several words together. A trap leaves everything as the unit found it
(R7, R186). -/
def runUnit (ex : Instr → State → Out) (f : State) (us : List UWord) : Out :=
  let is := us.filterMap fun u => instrOf u.word
  let keep (r : State) : State := match r.cur.trap with
    | none => r.retireUnit is
    | some t => if t.after then r.retireUnit is else r
  match us with
  | [u] =>
    match instrOf u.word with
    | some i => onNext (checked ex u.word i (f.advance.load u)) keep
    | none => .next f
  | us =>
    onNext (runWords ex us { f.advance with cur := { f.advance.cur with src := some f.cur.group } } [] none) fun r =>
      let whole (r : State) : State := if launchFull f us then (f.block .launch).drain f.cur.team.id true else r.spreadBlock.retireUnit is
      match r.cur.trap with
      | none => whole r
      | some t => if t.after then whole r else { f with cur := { f.cur with slot := t.slot, word := t.word, trap := some t } }.takeTrap t false

/-- The charged wait of a fetch, which blocks its split. -/
def State.fetchWait (s : State) (c : Cand) (event n : Nat) (doneAt : Option Nat) : State :=
  let t := c.team
  let w : Charged := { id := 0, event := event, core := t.core, t0 := s.oclk t.seat, due := 0, owner := .fetch t.id c.group.gid c.split.idx, detail := c.split.pkt, doneAt := doneAt }
  let (id, s) := s.charge t.seat w n
  s.block (.door id)
/-- The charged wait of a fetch whose translation faults, and its fault in firmware's hands (R21, R178). -/
def State.chargeFetch (s : State) (c : Cand) : State :=
  let t := c.team
  ((s.fetchWait c 1 Config.chargeFault none).recordFault t.seat t.region.asid c.split.pkt.toNat false true (.fetch t.id c.group.gid c.split.idx)).unfocus
/-- The charged read of a packet from host or peer memory, over after a time the spec leaves open (R21, R364, log 5, log 15). -/
def State.chargeAway (s : State) (c : Cand) : State :=
  let (d, s) := s.draw
  (s.fetchWait c 3 Config.chargeHost (some (s.linkUp + d))).unfocus

/-- Do what the picked candidate does. -/
def act (ex : Instr → State → Out) (c : Cand) (f : State) (a : Act) : Out :=
  match a with
  | .none => .next f.unfocus
  | .wake vb sb =>
    let f := vb.foldl (fun (s : State) b => s.wakeBank b) f
    .next (sb.foldl (fun (s : State) j => s.wakeScratch c.team.id j .full) f).unfocus
  | .miss => .next (f.chargeFetch c)
  | .away => .next (f.chargeAway c)
  | .refused => .next (((f.logBad c.team c.split.pkt.toNat).trapWord (trapOf .accessFault)).endTurn c [])
  | .deferred =>
    onNext (ex .deferredTrap { f with ev := some (.deferredTrap c.team.id c.group.gid) }) fun r => { r with ev := none }.endTurn c []
  | .illegal k w n =>
    let f := if n = 8 then { f with cur := { f.cur with unitSlot := 0 } } else f
    onNext (ex .illegalInstruction { f with ev := some (.illegalInstruction k w n) }) fun r => { r with ev := none }.endTurn c []
  | .run us => onNext (runUnit ex f us) fun r => r.endTurn c us

/-! ### The order of events in a cycle -/

/-- An operation of the fill seat. -/
def State.fillOp (s : State) (id : Nat) : Bool := (s.findOp id).any fun o => o.seat == 15
/-- Events of one cycle take place in the order of their rank: errors on the way before the positions they claim, what performs before
what waits for it; routers and links before the structures they lead to, so that a request reaches its own slice before the position that
begins in that cycle is given away (R14, R16, R18); what completes in the matrix engine, then at a port the matrix engine, copy engines and
vector words, the fill seat's after every other seat's (R18, R87); commits last; load balancing samples at the start and moves at the end (R390, log 41). -/
def State.rank (s : State) : Event → Nat
  | .frameBoundary => 0
  | .leaseBegin _ | .leaseEnd _ | .seating _ => 1
  | .dramRefresh _ _ | .meshFlitRetry _ _ | .dramReadRetry _ _ | .waitResume _ => 2
  | .lineRecall _ | .storePerform _ | .atomicPerform _ => 3
  | .scratchpadRowServe _ _ => 4
  | .positionStart (.router _) | .positionStart (.link _ _) => 5
  | .positionStart _ => 6
  | .loadReply _ | .storeAcknowledge _ | .tlbWalkComplete _ => 7
  | .passComplete _ _ _ | .xcfgComplete _ | .xrelComplete _ | .xscacComplete _ | .xdrnComplete _ | .xldsComplete _ | .xswpComplete _ => 8
  | .rowInject _ n => if n = 15 then 22 else 9
  | .copyCommandComplete _ | .copyCommandStart _ | .circSlotReady _ => 10
  | .copyPieceStart _ n => if n = 15 then 22 else 11
  | .pieceLand id | .heldPieceRelease id => if s.fillOp id then 23 else 12
  | .bufferPortCycle id _ => match (s.findOp id).map portSpace with
    | some .wbuf => if s.fillOp id then 22 else 9
    | _ => if s.fillOp id then 24 else 13
  | .ringPassage _ _ _ | .alightWritePerformed _ | .ringResultWrite _ => 14
  | .bankWakeEnd _ _ _ => 15
  | .releaseApply _ | .logReplay _ => 16
  | .chargedWaitDue _ _ => 17
  | .lateWaitFreeze _ _ => 18
  | .freezeResume _ => 19
  | .waitcResume _ _ => 20
  | .loadBalance n => if (s.findSeat n).any fun x => x.sample.isSome then 25 else 1
  | .quantumCommit _ _ => 30
  | _ => 21

/-- The entry of the agenda that goes next among those due: the least rank, then the order of the list. -/
def firstDue (s : State) : List (Nat × Event) → Option (Nat × Event)
  | [] => none
  | e :: es =>
    if e.1 ≤ s.g ∧ !(s.holdsEvent e.2) then
      match firstDue s es with
      | some f => if s.rank f.2 < s.rank e.2 then some f else some e
      | none => some e
    else firstDue s es
/-- The event that takes place next in this cycle; what belongs to a stopped seat waits (R23). -/
def State.nextDue (s : State) : Option (Nat × Event) := firstDue s s.agenda
/-- The event is at hand and no longer to come. -/
def State.take (s : State) (e : Nat × Event) : State := { s with agenda := s.agenda.erase e, ev := some e.2 }
/-- No event is at hand. -/
def State.clear (s : State) : State := { s with ev := none }
/-- The next cycle begins; each frame begins with its boundary (R11). -/
def State.tick (s : State) : State :=
  let g := s.g + 1
  { s with
    g := g, issued := [], freed := [], freedArms := [], ev := none, ports := s.ports.filter fun p => decide (g ≤ p.2.2)
    agenda := if g % Config.frame = 0 then (g, .frameBoundary) :: s.agenda else s.agenda }

end Sys2Proof.Machine
end

