-- ==== Sys2Proof/Machine/Dispatch.lean ====
section
/-!
DEFINITION. One arm for each constructor of Instr, each a direct call of its meaning.
-/

namespace Sys2Proof.Machine

open Sys2Proof

def exec (i : Instr) (s : State) : Host.Outcome State Fault Refusal :=
  match i with
  | .nop => Sys2Proof.Machine.execNop s
  | .sadd d a b => Sys2Proof.Machine.execSadd d a b s
  | .ssub d a b => Sys2Proof.Machine.execSsub d a b s
  | .smul d a b => Sys2Proof.Machine.execSmul d a b s
  | .smulhS d a b => Sys2Proof.Machine.execSmulhS d a b s
  | .smulhZ d a b => Sys2Proof.Machine.execSmulhZ d a b s
  | .sand d a b => Sys2Proof.Machine.execSand d a b s
  | .sor d a b => Sys2Proof.Machine.execSor d a b s
  | .sxor d a b => Sys2Proof.Machine.execSxor d a b s
  | .sshl d a b => Sys2Proof.Machine.execSshl d a b s
  | .sshrZ d a b => Sys2Proof.Machine.execSshrZ d a b s
  | .sshrS d a b => Sys2Proof.Machine.execSshrS d a b s
  | .sminS d a b => Sys2Proof.Machine.execSminS d a b s
  | .smaxS d a b => Sys2Proof.Machine.execSmaxS d a b s
  | .sminZ d a b => Sys2Proof.Machine.execSminZ d a b s
  | .smaxZ d a b => Sys2Proof.Machine.execSmaxZ d a b s
  | .ssltS d a b => Sys2Proof.Machine.execSsltS d a b s
  | .ssltZ d a b => Sys2Proof.Machine.execSsltZ d a b s
  | .sseq d a b => Sys2Proof.Machine.execSseq d a b s
  | .saddi d a imm => Sys2Proof.Machine.execSaddi d a imm s
  | .sandi d a imm => Sys2Proof.Machine.execSandi d a imm s
  | .sori d a imm => Sys2Proof.Machine.execSori d a imm s
  | .sxori d a imm => Sys2Proof.Machine.execSxori d a imm s
  | .sshli d a n => Sys2Proof.Machine.execSshli d a n s
  | .sshriZ d a n => Sys2Proof.Machine.execSshriZ d a n s
  | .sshriS d a n => Sys2Proof.Machine.execSshriS d a n s
  | .slit d imm => Sys2Proof.Machine.execSlit d imm s
  | .slitwZ d => Sys2Proof.Machine.execSlitwZ d s
  | .slitwS d => Sys2Proof.Machine.execSlitwS d s
  | .slitwLo d => Sys2Proof.Machine.execSlitwLo d s
  | .slitwHi d => Sys2Proof.Machine.execSlitwHi d s
  | .sgetsr d n => Sys2Proof.Machine.execSgetsr d n s
  | .ssetsr a n => Sys2Proof.Machine.execSsetsr a n s
  | .ssetsrSet a n => Sys2Proof.Machine.execSsetsrSet a n s
  | .ssetsrClr a n => Sys2Proof.Machine.execSsetsrClr a n s
  | .scmpEq d a b => Sys2Proof.Machine.execScmpEq d a b s
  | .scmpNe d a b => Sys2Proof.Machine.execScmpNe d a b s
  | .scmpLtS d a b => Sys2Proof.Machine.execScmpLtS d a b s
  | .scmpLeS d a b => Sys2Proof.Machine.execScmpLeS d a b s
  | .scmpLtZ d a b => Sys2Proof.Machine.execScmpLtZ d a b s
  | .scmpLeZ d a b => Sys2Proof.Machine.execScmpLeZ d a b s
  | .sext d a w l => Sys2Proof.Machine.execSext d a w l s
  | .sextFirst d a w => Sys2Proof.Machine.execSextFirst d a w s
  | .sextLast d a w => Sys2Proof.Machine.execSextLast d a w s
  | .vins d a w l => Sys2Proof.Machine.execVins d a w l s
  | .vinsAll d a w => Sys2Proof.Machine.execVinsAll d a w s
  | .vadd d a b => Sys2Proof.Machine.execVadd d a b s
  | .vaddSatS d a b => Sys2Proof.Machine.execVaddSatS d a b s
  | .vaddSatZ d a b => Sys2Proof.Machine.execVaddSatZ d a b s
  | .vsub d a b => Sys2Proof.Machine.execVsub d a b s
  | .vsubSatS d a b => Sys2Proof.Machine.execVsubSatS d a b s
  | .vsubSatZ d a b => Sys2Proof.Machine.execVsubSatZ d a b s
  | .vmul d a b => Sys2Proof.Machine.execVmul d a b s
  | .vmulhS d a b => Sys2Proof.Machine.execVmulhS d a b s
  | .vmulhZ d a b => Sys2Proof.Machine.execVmulhZ d a b s
  | .vminS d a b => Sys2Proof.Machine.execVminS d a b s
  | .vminZ d a b => Sys2Proof.Machine.execVminZ d a b s
  | .vmaxS d a b => Sys2Proof.Machine.execVmaxS d a b s
  | .vmaxZ d a b => Sys2Proof.Machine.execVmaxZ d a b s
  | .vand d a b => Sys2Proof.Machine.execVand d a b s
  | .vor d a b => Sys2Proof.Machine.execVor d a b s
  | .vxor d a b => Sys2Proof.Machine.execVxor d a b s
  | .vandn d a b => Sys2Proof.Machine.execVandn d a b s
  | .vshl d a b => Sys2Proof.Machine.execVshl d a b s
  | .vshrZ d a b => Sys2Proof.Machine.execVshrZ d a b s
  | .vshrS d a b => Sys2Proof.Machine.execVshrS d a b s
  | .vrot d a b => Sys2Proof.Machine.execVrot d a b s
  | .vlut3 d a b => Sys2Proof.Machine.execVlut3 d a b s
  | .vpopc d a => Sys2Proof.Machine.execVpopc d a s
  | .vclz d a => Sys2Proof.Machine.execVclz d a s
  | .vctz d a => Sys2Proof.Machine.execVctz d a s
  | .vbrev d a => Sys2Proof.Machine.execVbrev d a s
  | .vbfxZ d a b => Sys2Proof.Machine.execVbfxZ d a b s
  | .vbfxS d a b => Sys2Proof.Machine.execVbfxS d a b s
  | .vbfi d a b => Sys2Proof.Machine.execVbfi d a b s
  | .vaddi d a imm => Sys2Proof.Machine.execVaddi d a imm s
  | .vcmp c a b p => Sys2Proof.Machine.execVcmp c a b p s
  | .vsel d a b c => Sys2Proof.Machine.execVsel d a b c s
  | .vmov d a => Sys2Proof.Machine.execVmov d a s
  | .vmovX64 d a => Sys2Proof.Machine.execVmovX64 d a s
  | .vlit d imm => Sys2Proof.Machine.execVlit d imm s
  | .vlaneid d => Sys2Proof.Machine.execVlaneid d s
  | .vballot d c => Sys2Proof.Machine.execVballot d c s
  | .vmrank d c => Sys2Proof.Machine.execVmrank d c s
  | .vmrankInc d c => Sys2Proof.Machine.execVmrankInc d c s
  | .vshflIdx d a b => Sys2Proof.Machine.execVshflIdx d a b s
  | .vshflUp d a b => Sys2Proof.Machine.execVshflUp d a b s
  | .vshflDown d a b => Sys2Proof.Machine.execVshflDown d a b s
  | .vshflXor d a b => Sys2Proof.Machine.execVshflXor d a b s
  | .vfold d a o => Sys2Proof.Machine.execVfold d a o s
  | .vscan d a x o => Sys2Proof.Machine.execVscan d a x o s
  | .vregrp f n c p => Sys2Proof.Machine.execVregrp f n c p s
  | .vfadd d a b r => Sys2Proof.Machine.execVfadd d a b r s
  | .vfsub d a b r => Sys2Proof.Machine.execVfsub d a b r s
  | .vfmul d a b r => Sys2Proof.Machine.execVfmul d a b r s
  | .vfma d a b r => Sys2Proof.Machine.execVfma d a b r s
  | .vfnma d a b r => Sys2Proof.Machine.execVfnma d a b r s
  | .vfdiv d a b r => Sys2Proof.Machine.execVfdiv d a b r s
  | .vfmin d a b => Sys2Proof.Machine.execVfmin d a b s
  | .vfmax d a b => Sys2Proof.Machine.execVfmax d a b s
  | .vfminn d a b => Sys2Proof.Machine.execVfminn d a b s
  | .vfmaxn d a b => Sys2Proof.Machine.execVfmaxn d a b s
  | .vfcmp c a b p => Sys2Proof.Machine.execVfcmp c a b p s
  | .vfsqrt d a => Sys2Proof.Machine.execVfsqrt d a s
  | .vfrcp d a => Sys2Proof.Machine.execVfrcp d a s
  | .vfrsq d a => Sys2Proof.Machine.execVfrsq d a s
  | .vfex2 d a => Sys2Proof.Machine.execVfex2 d a s
  | .vflg2 d a => Sys2Proof.Machine.execVflg2 d a s
  | .vfabs d a => Sys2Proof.Machine.execVfabs d a s
  | .vfneg d a => Sys2Proof.Machine.execVfneg d a s
  | .vfcpsgn d a b => Sys2Proof.Machine.execVfcpsgn d a b s
  | .vdadd d a b => Sys2Proof.Machine.execVdadd d a b s
  | .vdsub d a b => Sys2Proof.Machine.execVdsub d a b s
  | .vdmul d a b => Sys2Proof.Machine.execVdmul d a b s
  | .vdfma d a b => Sys2Proof.Machine.execVdfma d a b s
  | .vddiv d a b r => Sys2Proof.Machine.execVddiv d a b r s
  | .vdcmp c a b p => Sys2Proof.Machine.execVdcmp c a b p s
  | .vdsqrt d a => Sys2Proof.Machine.execVdsqrt d a s
  | .vhadd d a b f => Sys2Proof.Machine.execVhadd d a b f s
  | .vhmul d a b f => Sys2Proof.Machine.execVhmul d a b f s
  | .vhfma d a b f => Sys2Proof.Machine.execVhfma d a b f s
  | .vcvt d a f t r => Sys2Proof.Machine.execVcvt d a f t r s
  | .vquantD8 d a b => Sys2Proof.Machine.execVquantD8 d a b s
  | .vquantD6 d a b => Sys2Proof.Machine.execVquantD6 d a b s
  | .vquantM4 d a b => Sys2Proof.Machine.execVquantM4 d a b s
  | .vquantS8 d a b => Sys2Proof.Machine.execVquantS8 d a b s
  | .vpack d a w => Sys2Proof.Machine.execVpack d a w s
  | .vunpkZ d a w => Sys2Proof.Machine.execVunpkZ d a w s
  | .vunpkS d a w => Sys2Proof.Machine.execVunpkS d a w s
  | .sgBoard d a => Sys2Proof.Machine.execSgBoard d a s
  | .sgAlight d a => Sys2Proof.Machine.execSgAlight d a s
  | .sgCap d a r => Sys2Proof.Machine.execSgCap d a r s
  | .sgMod d a o w r => Sys2Proof.Machine.execSgMod d a o w r s
  | .sgArm d a o w => Sys2Proof.Machine.execSgArm d a o w s
  | .sgRev d a => Sys2Proof.Machine.execSgRev d a s
  | .sgRevOfs d => Sys2Proof.Machine.execSgRevOfs d s
  | .br o => Sys2Proof.Machine.execBr o s
  | .brAny c o => Sys2Proof.Machine.execBrAny c o s
  | .brAll c o => Sys2Proof.Machine.execBrAll c o s
  | .brNone c o => Sys2Proof.Machine.execBrNone c o s
  | .call o => Sys2Proof.Machine.execCall o s
  | .jmp d a => Sys2Proof.Machine.execJmp d a s
  | .brx b a => Sys2Proof.Machine.execBrx b a s
  | .vif c => Sys2Proof.Machine.execVif c s
  | .velse => Sys2Proof.Machine.execVelse s
  | .vend => Sys2Proof.Machine.execVend s
  | .vkill c => Sys2Proof.Machine.execVkill c s
  | .vbrk c m => Sys2Proof.Machine.execVbrk c m s
  | .exit => Sys2Proof.Machine.execExit s
  | .trap x => Sys2Proof.Machine.execTrap x s
  | .brk x => Sys2Proof.Machine.execBrk x s
  | .vldZ d b o w h => Sys2Proof.Machine.execVldZ d b o w h s
  | .vldS d b o w h => Sys2Proof.Machine.execVldS d b o w h s
  | .vst d b o w h => Sys2Proof.Machine.execVst d b o w h s
  | .sld d b o => Sys2Proof.Machine.execSld d b o s
  | .slw d b o => Sys2Proof.Machine.execSlw d b o s
  | .sst d b o => Sys2Proof.Machine.execSst d b o s
  | .ssw d b o => Sys2Proof.Machine.execSsw d b o s
  | .vlds d b o w => Sys2Proof.Machine.execVlds d b o w s
  | .vsts d b o w => Sys2Proof.Machine.execVsts d b o w s
  | .vlda d b o w => Sys2Proof.Machine.execVlda d b o w s
  | .vsta d b o w => Sys2Proof.Machine.execVsta d b o w s
  | .vldx d b o w => Sys2Proof.Machine.execVldx d b o w s
  | .vatom d a p sc r => Sys2Proof.Machine.execVatom d a p sc r s
  | .vmred d a p sc r => Sys2Proof.Machine.execVmred d a p sc r s
  | .satom d a b p r => Sys2Proof.Machine.execSatom d a b p r s
  | .vatoms d a p sc r => Sys2Proof.Machine.execVatoms d a p sc r s
  | .fence u r sc => Sys2Proof.Machine.execFence u r sc s
  | .barInit b e => Sys2Proof.Machine.execBarInit b e s
  | .barExpect b e => Sys2Proof.Machine.execBarExpect b e s
  | .barArrive b p o => Sys2Proof.Machine.execBarArrive b p o s
  | .barArriveExp b e p o => Sys2Proof.Machine.execBarArriveExp b e p o s
  | .barWait b e p o => Sys2Proof.Machine.execBarWait b e p o s
  | .barTest b e p o => Sys2Proof.Machine.execBarTest b e p o s
  | .barPhase b e => Sys2Proof.Machine.execBarPhase b e s
  | .waitc l sc y t => Sys2Proof.Machine.execWaitc l sc y t s
  | .vbank m sc => Sys2Proof.Machine.execVbank m sc s
  | .pbank f n sc => Sys2Proof.Machine.execPbank f n sc s
  | .eacq => Sys2Proof.Machine.execEacq s
  | .eacqTry c => Sys2Proof.Machine.execEacqTry c s
  | .erel => Sys2Proof.Machine.execErel s
  | .cpG2s d q => Sys2Proof.Machine.execCpG2s d q s
  | .cpS2g d q => Sys2Proof.Machine.execCpS2g d q s
  | .cpG2a d q => Sys2Proof.Machine.execCpG2a d q s
  | .cpG2w d q => Sys2Proof.Machine.execCpG2w d q s
  | .cpX2g d q => Sys2Proof.Machine.execCpX2g d q s
  | .cpG2g d q => Sys2Proof.Machine.execCpG2g d q s
  | .cpCirc d q => Sys2Proof.Machine.execCpCirc d q s
  | .gth d q => Sys2Proof.Machine.execGth d q s
  | .qfence m => Sys2Proof.Machine.execQfence m s
  | .cbWait d a => Sys2Proof.Machine.execCbWait d a s
  | .cbFree a => Sys2Proof.Machine.execCbFree a s
  | .launch d => Sys2Proof.Machine.execLaunch d s
  | .launchTry d c => Sys2Proof.Machine.execLaunchTry d c s
  | .join a => Sys2Proof.Machine.execJoin a s
  | .joinAll => Sys2Proof.Machine.execJoinAll s
  | .joinDoor a => Sys2Proof.Machine.execJoinDoor a s
  | .amsg d => Sys2Proof.Machine.execAmsg d s
  | .xcfg p n x => Sys2Proof.Machine.execXcfg p n x s
  | .xlds p r f => Sys2Proof.Machine.execXlds p r f s
  | .xswp r => Sys2Proof.Machine.execXswp r s
  | .xmm p r f a imm => Sys2Proof.Machine.execXmm p r f a imm s
  | .xbmm p r f imm => Sys2Proof.Machine.execXbmm p r f imm s
  | .xscac p a => Sys2Proof.Machine.execXscac p a s
  | .xdrn p => Sys2Proof.Machine.execXdrn p s
  | .xrel p x => Sys2Proof.Machine.execXrel p x s
  | .eret => Sys2Proof.Machine.execEret s
  | .mfsys d n => Sys2Proof.Machine.execMfsys d n s
  | .mtsys a n => Sys2Proof.Machine.execMtsys a n s
  | .tlbinvVa a => Sys2Proof.Machine.execTlbinvVa a s
  | .tlbinvAsid a => Sys2Proof.Machine.execTlbinvAsid a s
  | .tlbinvAll => Sys2Proof.Machine.execTlbinvAll s
  | .seatctlEvack a => Sys2Proof.Machine.execSeatctlEvack a s
  | .seatctlKill a => Sys2Proof.Machine.execSeatctlKill a s
  | .seatctlYield a => Sys2Proof.Machine.execSeatctlYield a s
  | .halt a => Sys2Proof.Machine.execHalt a s
  | .deferredTrap => Sys2Proof.Machine.execDeferredTrap s
  | .resetRelease => Sys2Proof.Machine.execResetRelease s
  | .frameBoundary => Sys2Proof.Machine.execFrameBoundary s
  | .seating => Sys2Proof.Machine.execSeating s
  | .leaseBegin => Sys2Proof.Machine.execLeaseBegin s
  | .leaseEnd => Sys2Proof.Machine.execLeaseEnd s
  | .positionStart => Sys2Proof.Machine.execPositionStart s
  | .dramRefresh => Sys2Proof.Machine.execDramRefresh s
  | .loadReply => Sys2Proof.Machine.execLoadReply s
  | .storePerform => Sys2Proof.Machine.execStorePerform s
  | .storeAcknowledge => Sys2Proof.Machine.execStoreAcknowledge s
  | .lineRecall => Sys2Proof.Machine.execLineRecall s
  | .atomicPerform => Sys2Proof.Machine.execAtomicPerform s
  | .scratchpadRowServe => Sys2Proof.Machine.execScratchpadRowServe s
  | .bufferPortCycle => Sys2Proof.Machine.execBufferPortCycle s
  | .bankWakeEnd => Sys2Proof.Machine.execBankWakeEnd s
  | .eacqGrant => Sys2Proof.Machine.execEacqGrant s
  | .releaseApply => Sys2Proof.Machine.execReleaseApply s
  | .waitResume => Sys2Proof.Machine.execWaitResume s
  | .waitcResume => Sys2Proof.Machine.execWaitcResume s
  | .copyCommandStart => Sys2Proof.Machine.execCopyCommandStart s
  | .circSlotReady => Sys2Proof.Machine.execCircSlotReady s
  | .copyPieceStart => Sys2Proof.Machine.execCopyPieceStart s
  | .pieceLand => Sys2Proof.Machine.execPieceLand s
  | .heldPieceRelease => Sys2Proof.Machine.execHeldPieceRelease s
  | .copyCommandComplete => Sys2Proof.Machine.execCopyCommandComplete s
  | .xldsComplete => Sys2Proof.Machine.execXldsComplete s
  | .xswpComplete => Sys2Proof.Machine.execXswpComplete s
  | .rowInject => Sys2Proof.Machine.execRowInject s
  | .passComplete => Sys2Proof.Machine.execPassComplete s
  | .xcfgComplete => Sys2Proof.Machine.execXcfgComplete s
  | .xrelComplete => Sys2Proof.Machine.execXrelComplete s
  | .xdrnComplete => Sys2Proof.Machine.execXdrnComplete s
  | .xscacComplete => Sys2Proof.Machine.execXscacComplete s
  | .ringPassage => Sys2Proof.Machine.execRingPassage s
  | .ringResultWrite => Sys2Proof.Machine.execRingResultWrite s
  | .alightWritePerformed => Sys2Proof.Machine.execAlightWritePerformed s
  | .chargedWaitDue => Sys2Proof.Machine.execChargedWaitDue s
  | .lateWaitFreeze => Sys2Proof.Machine.execLateWaitFreeze s
  | .freezeResume => Sys2Proof.Machine.execFreezeResume s
  | .quantumEnd => Sys2Proof.Machine.execQuantumEnd s
  | .switchComplete => Sys2Proof.Machine.execSwitchComplete s
  | .teamCarving => Sys2Proof.Machine.execTeamCarving s
  | .teamRelease => Sys2Proof.Machine.execTeamRelease s
  | .victimChoice => Sys2Proof.Machine.execVictimChoice s
  | .drainComplete => Sys2Proof.Machine.execDrainComplete s
  | .saveComplete => Sys2Proof.Machine.execSaveComplete s
  | .parkWake => Sys2Proof.Machine.execParkWake s
  | .groupEnd => Sys2Proof.Machine.execGroupEnd s
  | .teamEnd => Sys2Proof.Machine.execTeamEnd s
  | .gridEnd => Sys2Proof.Machine.execGridEnd s
  | .regroupComplete => Sys2Proof.Machine.execRegroupComplete s
  | .tlbWalkComplete => Sys2Proof.Machine.execTlbWalkComplete s
  | .tlbinvComplete => Sys2Proof.Machine.execTlbinvComplete s
  | .faultService => Sys2Proof.Machine.execFaultService s
  | .logReplay => Sys2Proof.Machine.execLogReplay s
  | .pageMigration => Sys2Proof.Machine.execPageMigration s
  | .heatSweep => Sys2Proof.Machine.execHeatSweep s
  | .loadBalance => Sys2Proof.Machine.execLoadBalance s
  | .amsgAccept => Sys2Proof.Machine.execAmsgAccept s
  | .doorbellWrite => Sys2Proof.Machine.execDoorbellWrite s
  | .doorcntWrite => Sys2Proof.Machine.execDoorcntWrite s
  | .queueNop => Sys2Proof.Machine.execQueueNop s
  | .queueLaunch => Sys2Proof.Machine.execQueueLaunch s
  | .indirect => Sys2Proof.Machine.execIndirect s
  | .signal => Sys2Proof.Machine.execSignal s
  | .wait => Sys2Proof.Machine.execWait s
  | .waitReread => Sys2Proof.Machine.execWaitReread s
  | .launchDelivery => Sys2Proof.Machine.execLaunchDelivery s
  | .completionWrite => Sys2Proof.Machine.execCompletionWrite s
  | .cqdoneReread => Sys2Proof.Machine.execCqdoneReread s
  | .admitSeat => Sys2Proof.Machine.execAdmitSeat s
  | .evict => Sys2Proof.Machine.execEvict s
  | .seatEviction => Sys2Proof.Machine.execSeatEviction s
  | .lease => Sys2Proof.Machine.execLease s
  | .qtable => Sys2Proof.Machine.execQtable s
  | .qreg => Sys2Proof.Machine.execQreg s
  | .runmode => Sys2Proof.Machine.execRunmode s
  | .preempt => Sys2Proof.Machine.execPreempt s
  | .preemptDelivery => Sys2Proof.Machine.execPreemptDelivery s
  | .resume => Sys2Proof.Machine.execResume s
  | .powercap => Sys2Proof.Machine.execPowercap s
  | .status => Sys2Proof.Machine.execStatus s
  | .seatfloor => Sys2Proof.Machine.execSeatfloor s
  | .pagedone => Sys2Proof.Machine.execPagedone s
  | .unfence => Sys2Proof.Machine.execUnfence s
  | .fenceLift => Sys2Proof.Machine.execFenceLift s
  | .linkopen => Sys2Proof.Machine.execLinkopen s
  | .undefinedCommand => Sys2Proof.Machine.execUndefinedCommand s
  | .registerWrite => Sys2Proof.Machine.execRegisterWrite s
  | .powerEvaluation => Sys2Proof.Machine.execPowerEvaluation s
  | .clockStepChange => Sys2Proof.Machine.execClockStepChange s
  | .quantumCommit => Sys2Proof.Machine.execQuantumCommit s
  | .hostBarRequest => Sys2Proof.Machine.execHostBarRequest s
  | .atsInvalidationRequest => Sys2Proof.Machine.execAtsInvalidationRequest s
  | .atsCompletion => Sys2Proof.Machine.execAtsCompletion s
  | .priResponse => Sys2Proof.Machine.execPriResponse s
  | .linkRetrain => Sys2Proof.Machine.execLinkRetrain s
  | .spdmRequest => Sys2Proof.Machine.execSpdmRequest s
  | .mctpStatus => Sys2Proof.Machine.execMctpStatus s
  | .colalmInboundRequest => Sys2Proof.Machine.execColalmInboundRequest s
  | .colalmTraining => Sys2Proof.Machine.execColalmTraining s
  | .dramReadRetry => Sys2Proof.Machine.execDramReadRetry s
  | .meshFlitRetry => Sys2Proof.Machine.execMeshFlitRetry s
  | .illegalInstruction => Sys2Proof.Machine.execIllegalInstruction s
  | .configurationRequest => Sys2Proof.Machine.execConfigurationRequest s

end Sys2Proof.Machine
end

