-- ==== Sys2Proof/Machine/Step.lean ====
section
/-!
DEFINITION. One step of the device: the next event due in this cycle, else the next unit a core issues, else the next cycle.
And `withFetchWord`, which puts one instruction where the next step fetches it.
-/

namespace Sys2Proof.Machine

open Sys2Proof

/-- One step. -/
def step (s : State) : Host.Outcome State Fault Refusal :=
  match s.nextDue with
  | some e => onNext (exec e.2.row (s.take e)) State.clear
  | none =>
    match s.pick with
    | some p => act exec p.1 p.2.1 p.2.2
    | none => .next s.tick

/-! ### An instruction where the next step fetches (log 42) -/

/-- Where the packet stands, and the three tables that map the first GiB onto itself. -/
def fetchPacket : Nat := 0x200000
def fetchTables : List (Nat × Nat) := [(0, 0x100000), (0x100000, 0x101001), (0x101000, 0x102001), (0x102000, 0x5F)]
/-- The word of an instruction whose bits are `w` in the first slot; a nop word is followed by another word, since a packet of
nops takes no turn (R42). -/
def fetchMemory (m : Memory) (w : Nat) : Memory :=
  let m := fetchTables.foldl (fun m q => Memory.write m q.1 8 q.2) m
  let m := Memory.write m fetchPacket 4 w
  Memory.write (Memory.write m (fetchPacket + 4) 4 (if w % 2 ^ 32 = 0 then 0x02000000 else 0)) (fetchPacket + 8) 8 0
/-- The seat of the team that fetches: seat 0, with every position, and core 0 wholly. -/
def fetchSeat (g : Nat) : Seat :=
  { num := 0, seated := true, base := g
    pl := { dmap := BitVec.allOnes 64, evlog := 0x300000, poolq := 64, l2w := 16
            cores := [{ cmap := BitVec.allOnes 64, core := 0, gslot := 32, spb := 64, abu := 64, wbu := 64, xbu := 64, suba := 8, pairs := 4, l1u := 16, tlbu := 4, grant := true }] } }
/-- A resident team of one group at the packet; a word of major 0x7F stands in a handler, since it has an effect only there
(R342). -/
def fetchTeam (id g w : Nat) (m : Memory) : Team :=
  { id := id, seat := 0, core := 0, kernel := { roles := [{ groups := 1, allot := 64, entry := BitVec.ofNat 64 fetchPacket }] }
    state := .resident, since := g, everResident := true, code := { at_ := { dev := m } }
    groups := [{ freshGroup 0 0 64 (BitVec.ofNat 64 fetchPacket) [] with
      level := if fld w 30 24 = 0x7F then .supervisor else .user, handlerCode := if fld w 30 24 = 0x7F then some { at_ := { dev := m } } else none }] }
/-- The state with an instruction of `nbits` bits `w` where its next step fetches: a team stands at it, alone on a seat, with
nothing due in this cycle. -/
def State.withFetchWord (s : State) (nbits w : Nat) : State :=
  let m := fetchMemory s.mem (w % 2 ^ nbits)
  { s with
    agenda := [], ev := none, issued := [], cur := {}, mem := m, asBase := 0
    seats := [fetchSeat s.g], teams := [fetchTeam s.nextId s.g w m], nextId := s.nextId + 1 }

end Sys2Proof.Machine
end

