-- ==== Sys2Proof/Laws/Codes.lean ====
section
/-!
SUPPORT. The codes of the encoding's fields: each fits its field, and reading a code back gives what was written (R176-R187).
-/

namespace Sys2Proof.Laws

open Sys2Proof

/-- A Boolean fits one bit. -/
theorem bit_lt (b : Bool) : bit b < 2 := by cases b <;> decide
/-- A bit reads back as its Boolean. -/
@[simp] theorem bit_beq (b : Bool) : (bit b == 1) = b := by cases b <;> rfl
theorem width_code_lt (x : Width) : x.code < 4 := by cases x <;> decide
@[simp] theorem width_ofCode (x : Width) : Width.ofCode x.code = some x := by cases x <;> rfl
theorem hint_code_lt (x : Hint) : x.code < 4 := by cases x <;> decide
@[simp] theorem hint_ofCode (x : Hint) : Hint.ofCode x.code = some x := by cases x <;> rfl
theorem rMode_code_lt (x : RMode) : x.code < 4 := by cases x <;> decide
@[simp] theorem rMode_ofCode (x : RMode) : RMode.ofCode x.code = some x := by cases x <;> rfl
theorem scope_code_lt (x : Scope) : x.code < 8 := by cases x <;> decide
@[simp] theorem scope_ofCode (x : Scope) : Scope.ofCode x.code = some x := by cases x <;> rfl
theorem ord_code_lt (x : Ord) : x.code < 4 := by cases x <;> decide
@[simp] theorem ord_ofCode (x : Ord) : Ord.ofCode x.code = some x := by cases x <;> rfl
theorem fOrd_code_lt (x : FOrd) : x.code < 4 := by cases x <;> decide
@[simp] theorem fOrd_ofCode (x : FOrd) : FOrd.ofCode x.code = some x := by cases x <;> rfl
theorem aOp_code_lt (x : AOp) : x.code < 16 := by cases x <;> decide
@[simp] theorem aOp_ofCode (x : AOp) : AOp.ofCode x.code = some x := by cases x <;> rfl
theorem redOp_code_lt (x : RedOp) : x.code < 16 := by cases x <;> decide
@[simp] theorem redOp_ofCode (x : RedOp) : RedOp.ofCode x.code = some x := by cases x <;> rfl
theorem modOp_code_lt (x : ModOp) : x.code < 16 := by cases x <;> decide
@[simp] theorem modOp_ofCode (x : ModOp) : ModOp.ofCode x.code = some x := by cases x <;> rfl
theorem iCmp_code_lt (x : ICmp) : x.code < 16 := by cases x <;> decide
@[simp] theorem iCmp_ofCode (x : ICmp) : ICmp.ofCode x.code = some x := by cases x <;> rfl
theorem fCmp_code_lt (x : FCmp) : x.code < 8 := by cases x <;> decide
@[simp] theorem fCmp_ofCode (x : FCmp) : FCmp.ofCode x.code = some x := by cases x <;> rfl
theorem armCmp_code_lt (x : ArmCmp) : x.code < 8 := by cases x <;> decide
@[simp] theorem armCmp_ofCode (x : ArmCmp) : ArmCmp.ofCode x.code = some x := by cases x <;> rfl
theorem foldOp_code_lt (x : FoldOp) : x.code < 16 := by cases x <;> decide
@[simp] theorem foldOp_ofCode (x : FoldOp) : FoldOp.ofCode x.code = some x := by cases x <;> rfl
theorem scanOp_code_lt (x : ScanOp) : x.code < 16 := by cases x <;> decide
@[simp] theorem scanOp_ofCode (x : ScanOp) : ScanOp.ofCode x.code = some x := by cases x <;> rfl
theorem extW_code_lt (x : ExtW) : x.code < 4 := by cases x <;> decide
@[simp] theorem extW_ofCode (x : ExtW) : ExtW.ofCode x.code = some x := by cases x <;> rfl
theorem insW_code_lt (x : InsW) : x.code < 4 := by cases x <;> decide
@[simp] theorem insW_ofCode (x : InsW) : InsW.ofCode x.code = some x := by cases x <;> rfl
theorem cvtT_code_lt (x : CvtT) : x.code < 16 := by cases x <;> decide
@[simp] theorem cvtT_ofCode (x : CvtT) : CvtT.ofCode x.code = some x := by cases x <;> rfl
theorem packW_code_lt (x : PackW) : x.code < 4 := by cases x <;> decide
@[simp] theorem packW_ofCode (x : PackW) : PackW.ofCode x.code = some x := by cases x <;> rfl
theorem fmt_code_lt (x : Fmt) : x.code < 16 := by cases x <;> decide
@[simp] theorem fmt_ofCode (x : Fmt) : Fmt.ofCode x.code = some x := by cases x <;> rfl
theorem tKind_code_lt (x : TKind) : x.code < 4 := by cases x <;> decide
@[simp] theorem tKind_ofCode (x : TKind) : TKind.ofCode x.code = some x := by cases x <;> rfl
theorem bankCode_code_lt (x : BankCode) : x.code < 4 := by cases x <;> decide
@[simp] theorem bankCode_ofCode (x : BankCode) : BankCode.ofCode x.code = some x := by cases x <;> rfl
theorem bSel_code_lt (x : BSel) : x.code < 256 := by
  cases x with
  | vreg n => have := n.isLt; simp only [BSel.code]; omega
  | sreg n => have := n.isLt; simp only [BSel.code]; omega
  | imm i => have := i.isLt; simp only [BSel.code]; omega
  | lit => decide
@[simp] theorem bSel_ofCode (x : BSel) : BSel.ofCode x.code = some x := by
  cases x with
  | vreg n => have h := n.isLt; simp [BSel.code, BSel.ofCode, h]
  | sreg n =>
    have h := n.isLt
    simp only [BSel.code, BSel.ofCode, show ¬ 128 + n.val < 128 by omega, show 128 + n.val < 192 by omega, if_true, if_false]
    congr 2; apply Fin.ext; simp only [Fin.ofNat]; omega
  | imm i =>
    have h := i.isLt
    simp only [BSel.code, BSel.ofCode, show ¬ 192 + i.toNat < 128 by omega, show ¬ 192 + i.toNat < 192 by omega,
      show 192 + i.toNat < 224 by omega, if_true, if_false]
    congr 2; apply BitVec.eq_of_toNat_eq; simp only [BitVec.toNat_ofNat]; omega
  | lit => rfl
@[simp] theorem queueOf_val (q : Fin 6) : queueOf q.val = some q := by
  have h := q.isLt; simp [queueOf, h]

end Sys2Proof.Laws
end

