-- ==== Sys2Proof/Laws/PerInstr.lean ====
section
/-!
SUPPORT. Decoding undoes encoding (R176-R187): the round trip of every well-formed instruction word, one lemma for each
constructor. An event has no encoding.
-/

namespace Sys2Proof.Laws

open Sys2Proof

/-- A word given field by field, lowest first: (width, value). -/
def pack : List (Nat × Nat) → Nat
  | [] => 0
  | (w, v) :: l => v + 2 ^ w * pack l
/-- Each value fits its width. -/
def Fits : List (Nat × Nat) → Prop
  | [] => True
  | (w, v) :: l => v < 2 ^ w ∧ Fits l
/-- The place of field `k`. -/
def place : List (Nat × Nat) → Nat → Nat
  | [], _ => 0
  | _, 0 => 0
  | (w, _) :: l, k + 1 => w + place l k

/-- A field of a packed word reads as the value packed there. -/
theorem fld_pack {l : List (Nat × Nat)} {W : Nat} (hW : pack l = W) (hf : Fits l) (k : Nat) {w v hi lo : Nat}
    (hk : l[k]? = some (w, v)) (hp : place l k = lo) (hs : hi + 1 - lo = w) : fld W hi lo = v := by
  subst hW hp hs
  unfold fld
  generalize hs : hi + 1 - place l k = w at hk ⊢
  clear hs
  induction l generalizing k with
  | nil => simp at hk
  | cons a l ih =>
    obtain ⟨x, y⟩ := a
    obtain ⟨hy, hl⟩ := hf
    cases k with
    | zero =>
      simp only [List.getElem?_cons_zero, Option.some.injEq, Prod.mk.injEq] at hk
      obtain ⟨rfl, rfl⟩ := hk
      simp [pack, place, Nat.mod_eq_of_lt hy]
    | succ k =>
      simp only [List.getElem?_cons_succ] at hk
      simp only [pack, place, pow_add]
      rw [← Nat.div_div_eq_div_mul, Nat.add_mul_div_left _ _ (Nat.two_pow_pos x), Nat.div_eq_of_lt hy, Nat.zero_add]
      exact ih hl k hk

theorem wf_noC7 {i : Instr} (h : i.wellFormed = true) : i.noC7 = true := by
  simp only [Instr.wellFormed, Bool.and_eq_true] at h; exact h.1.1
theorem wf_limits {i : Instr} (h : i.wellFormed = true) : i.limits = true := by
  simp only [Instr.wellFormed, Bool.and_eq_true] at h; exact h.1.2
theorem wf_fields {i : Instr} (h : i.wellFormed = true) : i.fields = true := by
  simp only [Instr.wellFormed, Bool.and_eq_true] at h; exact h.2
/-- A body that decodes, with its chain bit, is a word that decodes. -/
theorem word_of (W : Nat) (c : Bool) (i : Instr) (h : decodeBody W = .ok i) (hc : fld W 31 31 = bit c) :
    decodeWord W = .ok ⟨c, i⟩ := by
  simp [decodeWord, h, hc]
theorem body_00 (W : Nat) (h : fld W 30 24 = 0) : decodeBody W = dec00 W := by unfold decodeBody; rw [h]; rfl
theorem body_01 (W : Nat) (h : fld W 30 24 = 1) : decodeBody W = dec01 W := by unfold decodeBody; rw [h]; rfl
theorem body_02 (W : Nat) (h : fld W 30 24 = 2) : decodeBody W = dec02 W := by unfold decodeBody; rw [h]; rfl
theorem body_03 (W : Nat) (h : fld W 30 24 = 3) : decodeBody W = dec03 W := by unfold decodeBody; rw [h]; rfl
theorem body_04 (W : Nat) (h : fld W 30 24 = 4) : decodeBody W = dec04 W := by unfold decodeBody; rw [h]; rfl
theorem body_05 (W : Nat) (h : fld W 30 24 = 5) : decodeBody W = dec05 W := by unfold decodeBody; rw [h]; rfl
theorem body_06 (W : Nat) (h : fld W 30 24 = 6) : decodeBody W = dec06 W := by unfold decodeBody; rw [h]; rfl
theorem body_07 (W : Nat) (h : fld W 30 24 = 7) : decodeBody W = dec07 W := by unfold decodeBody; rw [h]; rfl
theorem body_08 (W : Nat) (h : fld W 30 24 = 8) : decodeBody W = dec08 W := by unfold decodeBody; rw [h]; rfl
theorem body_09 (W : Nat) (h : fld W 30 24 = 9) : decodeBody W = dec09 W := by unfold decodeBody; rw [h]; rfl
theorem body_0A (W : Nat) (h : fld W 30 24 = 10) : decodeBody W = dec0A W := by unfold decodeBody; rw [h]; rfl
theorem body_0B (W : Nat) (h : fld W 30 24 = 11) : decodeBody W = dec0B W := by unfold decodeBody; rw [h]; rfl
theorem body_0C (W : Nat) (h : fld W 30 24 = 12) : decodeBody W = dec0C W := by unfold decodeBody; rw [h]; rfl
theorem body_0D (W : Nat) (h : fld W 30 24 = 13) : decodeBody W = dec0D W := by unfold decodeBody; rw [h]; rfl
theorem body_10 (W : Nat) (h : fld W 30 24 = 16) : decodeBody W = dec10 W := by unfold decodeBody; rw [h]; rfl
theorem body_11 (W : Nat) (h : fld W 30 24 = 17) : decodeBody W = dec11 W := by unfold decodeBody; rw [h]; rfl
theorem body_12 (W : Nat) (h : fld W 30 24 = 18) : decodeBody W = dec12 W := by unfold decodeBody; rw [h]; rfl
theorem body_13 (W : Nat) (h : fld W 30 24 = 19) : decodeBody W = dec13 W := by unfold decodeBody; rw [h]; rfl
theorem body_14 (W : Nat) (h : fld W 30 24 = 20) : decodeBody W = dec14 W := by unfold decodeBody; rw [h]; rfl
theorem body_15 (W : Nat) (h : fld W 30 24 = 21) : decodeBody W = dec15 W := by unfold decodeBody; rw [h]; rfl
theorem body_16 (W : Nat) (h : fld W 30 24 = 22) : decodeBody W = dec16 W := by unfold decodeBody; rw [h]; rfl
theorem body_17 (W : Nat) (h : fld W 30 24 = 23) : decodeBody W = dec17 W := by unfold decodeBody; rw [h]; rfl
theorem body_18 (W : Nat) (h : fld W 30 24 = 24) : decodeBody W = dec18 W := by unfold decodeBody; rw [h]; rfl
theorem body_19 (W : Nat) (h : fld W 30 24 = 25) : decodeBody W = dec19 W := by unfold decodeBody; rw [h]; rfl
theorem body_1A (W : Nat) (h : fld W 30 24 = 26) : decodeBody W = dec1A W := by unfold decodeBody; rw [h]; rfl
theorem body_1B (W : Nat) (h : fld W 30 24 = 27) : decodeBody W = dec1B W := by unfold decodeBody; rw [h]; rfl
theorem body_1C (W : Nat) (h : fld W 30 24 = 28) : decodeBody W = dec1C W := by unfold decodeBody; rw [h]; rfl
theorem body_1D (W : Nat) (h : fld W 30 24 = 29) : decodeBody W = dec1D W := by unfold decodeBody; rw [h]; rfl
theorem body_1E (W : Nat) (h : fld W 30 24 = 30) : decodeBody W = dec1E W := by unfold decodeBody; rw [h]; rfl
theorem body_1F (W : Nat) (h : fld W 30 24 = 31) : decodeBody W = dec1F W := by unfold decodeBody; rw [h]; rfl
theorem body_20 (W : Nat) (h : fld W 30 24 = 32) : decodeBody W = dec20 W := by unfold decodeBody; rw [h]; rfl
theorem body_21 (W : Nat) (h : fld W 30 24 = 33) : decodeBody W = dec21 W := by unfold decodeBody; rw [h]; rfl
theorem body_22 (W : Nat) (h : fld W 30 24 = 34) : decodeBody W = dec22 W := by unfold decodeBody; rw [h]; rfl
theorem body_23 (W : Nat) (h : fld W 30 24 = 35) : decodeBody W = dec23 W := by unfold decodeBody; rw [h]; rfl
theorem body_24 (W : Nat) (h : fld W 30 24 = 36) : decodeBody W = dec24 W := by unfold decodeBody; rw [h]; rfl
theorem body_25 (W : Nat) (h : fld W 30 24 = 37) : decodeBody W = dec25 W := by unfold decodeBody; rw [h]; rfl
theorem body_26 (W : Nat) (h : fld W 30 24 = 38) : decodeBody W = dec26 W := by unfold decodeBody; rw [h]; rfl
theorem body_27 (W : Nat) (h : fld W 30 24 = 39) : decodeBody W = dec27 W := by unfold decodeBody; rw [h]; rfl
theorem body_28 (W : Nat) (h : fld W 30 24 = 40) : decodeBody W = dec28 W := by unfold decodeBody; rw [h]; rfl
theorem body_29 (W : Nat) (h : fld W 30 24 = 41) : decodeBody W = dec29 W := by unfold decodeBody; rw [h]; rfl
theorem body_2A (W : Nat) (h : fld W 30 24 = 42) : decodeBody W = dec2A W := by unfold decodeBody; rw [h]; rfl
theorem body_2B (W : Nat) (h : fld W 30 24 = 43) : decodeBody W = dec2B W := by unfold decodeBody; rw [h]; rfl
theorem body_2C (W : Nat) (h : fld W 30 24 = 44) : decodeBody W = dec2C W := by unfold decodeBody; rw [h]; rfl
theorem body_2D (W : Nat) (h : fld W 30 24 = 45) : decodeBody W = dec2D W := by unfold decodeBody; rw [h]; rfl
theorem body_2E (W : Nat) (h : fld W 30 24 = 46) : decodeBody W = dec2E W := by unfold decodeBody; rw [h]; rfl
theorem body_2F (W : Nat) (h : fld W 30 24 = 47) : decodeBody W = dec2F W := by unfold decodeBody; rw [h]; rfl
theorem body_30 (W : Nat) (h : fld W 30 24 = 48) : decodeBody W = dec30 W := by unfold decodeBody; rw [h]; rfl
theorem body_31 (W : Nat) (h : fld W 30 24 = 49) : decodeBody W = dec31 W := by unfold decodeBody; rw [h]; rfl
theorem body_32 (W : Nat) (h : fld W 30 24 = 50) : decodeBody W = dec32 W := by unfold decodeBody; rw [h]; rfl
theorem body_34 (W : Nat) (h : fld W 30 24 = 52) : decodeBody W = dec34 W := by unfold decodeBody; rw [h]; rfl
theorem body_35 (W : Nat) (h : fld W 30 24 = 53) : decodeBody W = dec35 W := by unfold decodeBody; rw [h]; rfl
theorem body_36 (W : Nat) (h : fld W 30 24 = 54) : decodeBody W = dec36 W := by unfold decodeBody; rw [h]; rfl
theorem body_37 (W : Nat) (h : fld W 30 24 = 55) : decodeBody W = dec37 W := by unfold decodeBody; rw [h]; rfl
theorem body_38 (W : Nat) (h : fld W 30 24 = 56) : decodeBody W = dec38 W := by unfold decodeBody; rw [h]; rfl
theorem body_39 (W : Nat) (h : fld W 30 24 = 57) : decodeBody W = dec39 W := by unfold decodeBody; rw [h]; rfl
theorem body_3A (W : Nat) (h : fld W 30 24 = 58) : decodeBody W = dec3A W := by unfold decodeBody; rw [h]; rfl
theorem body_3B (W : Nat) (h : fld W 30 24 = 59) : decodeBody W = dec3B W := by unfold decodeBody; rw [h]; rfl
theorem body_3C (W : Nat) (h : fld W 30 24 = 60) : decodeBody W = dec3C W := by unfold decodeBody; rw [h]; rfl
theorem body_3D (W : Nat) (h : fld W 30 24 = 61) : decodeBody W = dec3D W := by unfold decodeBody; rw [h]; rfl
theorem body_3E (W : Nat) (h : fld W 30 24 = 62) : decodeBody W = dec3E W := by unfold decodeBody; rw [h]; rfl
theorem body_3F (W : Nat) (h : fld W 30 24 = 63) : decodeBody W = dec3F W := by unfold decodeBody; rw [h]; rfl
theorem body_40 (W : Nat) (h : fld W 30 24 = 64) : decodeBody W = dec40 W := by unfold decodeBody; rw [h]; rfl
theorem body_41 (W : Nat) (h : fld W 30 24 = 65) : decodeBody W = dec41 W := by unfold decodeBody; rw [h]; rfl
theorem body_42 (W : Nat) (h : fld W 30 24 = 66) : decodeBody W = dec42 W := by unfold decodeBody; rw [h]; rfl
theorem body_43 (W : Nat) (h : fld W 30 24 = 67) : decodeBody W = dec43 W := by unfold decodeBody; rw [h]; rfl
theorem body_44 (W : Nat) (h : fld W 30 24 = 68) : decodeBody W = dec44 W := by unfold decodeBody; rw [h]; rfl
theorem body_45 (W : Nat) (h : fld W 30 24 = 69) : decodeBody W = dec45 W := by unfold decodeBody; rw [h]; rfl
theorem body_46 (W : Nat) (h : fld W 30 24 = 70) : decodeBody W = dec46 W := by unfold decodeBody; rw [h]; rfl
theorem body_47 (W : Nat) (h : fld W 30 24 = 71) : decodeBody W = dec47 W := by unfold decodeBody; rw [h]; rfl
theorem body_48 (W : Nat) (h : fld W 30 24 = 72) : decodeBody W = dec48 W := by unfold decodeBody; rw [h]; rfl
theorem body_49 (W : Nat) (h : fld W 30 24 = 73) : decodeBody W = dec49 W := by unfold decodeBody; rw [h]; rfl
theorem body_4A (W : Nat) (h : fld W 30 24 = 74) : decodeBody W = dec4A W := by unfold decodeBody; rw [h]; rfl
theorem body_4B (W : Nat) (h : fld W 30 24 = 75) : decodeBody W = dec4B W := by unfold decodeBody; rw [h]; rfl
theorem body_50 (W : Nat) (h : fld W 30 24 = 80) : decodeBody W = dec50 W := by unfold decodeBody; rw [h]; rfl
theorem body_51 (W : Nat) (h : fld W 30 24 = 81) : decodeBody W = dec51 W := by unfold decodeBody; rw [h]; rfl
theorem body_52 (W : Nat) (h : fld W 30 24 = 82) : decodeBody W = dec52 W := by unfold decodeBody; rw [h]; rfl
theorem body_53 (W : Nat) (h : fld W 30 24 = 83) : decodeBody W = dec53 W := by unfold decodeBody; rw [h]; rfl
theorem body_54 (W : Nat) (h : fld W 30 24 = 84) : decodeBody W = dec54 W := by unfold decodeBody; rw [h]; rfl
theorem body_55 (W : Nat) (h : fld W 30 24 = 85) : decodeBody W = dec55 W := by unfold decodeBody; rw [h]; rfl
theorem body_56 (W : Nat) (h : fld W 30 24 = 86) : decodeBody W = dec56 W := by unfold decodeBody; rw [h]; rfl
theorem body_57 (W : Nat) (h : fld W 30 24 = 87) : decodeBody W = dec57 W := by unfold decodeBody; rw [h]; rfl
theorem body_58 (W : Nat) (h : fld W 30 24 = 88) : decodeBody W = dec58 W := by unfold decodeBody; rw [h]; rfl
theorem body_59 (W : Nat) (h : fld W 30 24 = 89) : decodeBody W = dec59 W := by unfold decodeBody; rw [h]; rfl
theorem body_5A (W : Nat) (h : fld W 30 24 = 90) : decodeBody W = dec5A W := by unfold decodeBody; rw [h]; rfl
theorem body_5B (W : Nat) (h : fld W 30 24 = 91) : decodeBody W = dec5B W := by unfold decodeBody; rw [h]; rfl
theorem body_60 (W : Nat) (h : fld W 30 24 = 96) : decodeBody W = dec60 W := by unfold decodeBody; rw [h]; rfl
theorem body_61 (W : Nat) (h : fld W 30 24 = 97) : decodeBody W = dec61 W := by unfold decodeBody; rw [h]; rfl
theorem body_62 (W : Nat) (h : fld W 30 24 = 98) : decodeBody W = dec62 W := by unfold decodeBody; rw [h]; rfl
theorem body_63 (W : Nat) (h : fld W 30 24 = 99) : decodeBody W = dec63 W := by unfold decodeBody; rw [h]; rfl
theorem body_64 (W : Nat) (h : fld W 30 24 = 100) : decodeBody W = dec64 W := by unfold decodeBody; rw [h]; rfl
theorem body_65 (W : Nat) (h : fld W 30 24 = 101) : decodeBody W = dec65 W := by unfold decodeBody; rw [h]; rfl
theorem body_66 (W : Nat) (h : fld W 30 24 = 102) : decodeBody W = dec66 W := by unfold decodeBody; rw [h]; rfl
theorem body_67 (W : Nat) (h : fld W 30 24 = 103) : decodeBody W = dec67 W := by unfold decodeBody; rw [h]; rfl
theorem body_68 (W : Nat) (h : fld W 30 24 = 104) : decodeBody W = dec68 W := by unfold decodeBody; rw [h]; rfl
theorem body_69 (W : Nat) (h : fld W 30 24 = 105) : decodeBody W = dec69 W := by unfold decodeBody; rw [h]; rfl
theorem body_6A (W : Nat) (h : fld W 30 24 = 106) : decodeBody W = dec6A W := by unfold decodeBody; rw [h]; rfl
theorem body_70 (W : Nat) (h : fld W 30 24 = 112) : decodeBody W = dec70 W := by unfold decodeBody; rw [h]; rfl
theorem body_71 (W : Nat) (h : fld W 30 24 = 113) : decodeBody W = dec71 W := by unfold decodeBody; rw [h]; rfl
theorem body_72 (W : Nat) (h : fld W 30 24 = 114) : decodeBody W = dec72 W := by unfold decodeBody; rw [h]; rfl
theorem body_73 (W : Nat) (h : fld W 30 24 = 115) : decodeBody W = dec73 W := by unfold decodeBody; rw [h]; rfl
theorem body_74 (W : Nat) (h : fld W 30 24 = 116) : decodeBody W = dec74 W := by unfold decodeBody; rw [h]; rfl
theorem body_75 (W : Nat) (h : fld W 30 24 = 117) : decodeBody W = dec75 W := by unfold decodeBody; rw [h]; rfl
theorem body_76 (W : Nat) (h : fld W 30 24 = 118) : decodeBody W = dec76 W := by unfold decodeBody; rw [h]; rfl
theorem body_78 (W : Nat) (h : fld W 30 24 = 120) : decodeBody W = dec78 W := by unfold decodeBody; rw [h]; rfl
theorem body_79 (W : Nat) (h : fld W 30 24 = 121) : decodeBody W = dec79 W := by unfold decodeBody; rw [h]; rfl
theorem body_7A (W : Nat) (h : fld W 30 24 = 122) : decodeBody W = dec7A W := by unfold decodeBody; rw [h]; rfl
theorem body_7B (W : Nat) (h : fld W 30 24 = 123) : decodeBody W = dec7B W := by unfold decodeBody; rw [h]; rfl
theorem body_7C (W : Nat) (h : fld W 30 24 = 124) : decodeBody W = dec7C W := by unfold decodeBody; rw [h]; rfl
theorem body_7D (W : Nat) (h : fld W 30 24 = 125) : decodeBody W = dec7D W := by unfold decodeBody; rw [h]; rfl
theorem body_7E (W : Nat) (h : fld W 30 24 = 126) : decodeBody W = dec7E W := by unfold decodeBody; rw [h]; rfl
theorem body_7F (W : Nat) (h : fld W 30 24 = 127) : decodeBody W = dec7F W := by unfold decodeBody; rw [h]; rfl

/-- The word of a well-formed instruction, with either chain bit (nop has none, R177), decodes to that instruction with that bit. -/
def RoundTrip.Statement (i : Instr) : Prop :=
  i.wellFormed = true → ∀ ch, (i = .nop → ch = false) → ∀ W, encode ⟨ch, i⟩ = some W → decodeWord W = .ok ⟨ch, i⟩

namespace RoundTrip

theorem nop : Statement .nop := by
  intro _ ch hc W he
  have he : bit ch * 2147483648 + (0x00000000) = W := Option.some.inj he
  have hW : pack [(24, 0), (7, 0), (1, bit ch)] = W := by rw [← he]; simp only [pack]; ring
  have hf : Fits [(24, 0), (7, 0), (1, bit ch)] := ⟨by decide, by decide, bit_lt ch, trivial⟩
  have h0 : fld W 30 24 = 0 := fld_pack hW hf 1 rfl rfl rfl
  have h1 : fld W 31 31 = bit ch := fld_pack hW hf 2 rfl rfl rfl
  have h2 : fld W 23 0 = 0 := fld_pack hW hf 0 rfl rfl rfl
  obtain rfl := hc rfl
  exact word_of W false _ ((body_00 W h0).trans (by simp [dec00, h2, h1, bit])) h1
theorem sadd (d : SReg) (a : SReg) (b : SReg) : Statement (.sadd d a b) := by
  intro _ ch _ W he
  have he : bit ch * 2147483648 + (0x01000000 + d.val * 262144 + a.val * 4096 + b.val * 64) = W := Option.some.inj he
  have hW : pack [(6, 0), (6, b.val), (6, a.val), (6, d.val), (7, 1), (1, bit ch)] = W := by rw [← he]; simp only [pack]; ring
  have hf : Fits [(6, 0), (6, b.val), (6, a.val), (6, d.val), (7, 1), (1, bit ch)] := ⟨by decide, b.isLt, a.isLt, d.isLt, by decide, bit_lt ch, trivial⟩
  have h0 : fld W 30 24 = 1 := fld_pack hW hf 4 rfl rfl rfl
  have h1 : fld W 31 31 = bit ch := fld_pack hW hf 5 rfl rfl rfl
  have h2 : fld W 5 0 = 0 := fld_pack hW hf 0 rfl rfl rfl
  have h3 : fld W 23 18 = d.val := fld_pack hW hf 3 rfl rfl rfl
  have h4 : fld W 17 12 = a.val := fld_pack hW hf 2 rfl rfl rfl
  have h5 : fld W 11 6 = b.val := fld_pack hW hf 1 rfl rfl rfl
  exact word_of W ch _ ((body_01 W h0).trans (by simp [dec01, h2, h3, h4, h5])) h1
theorem ssub (d : SReg) (a : SReg) (b : SReg) : Statement (.ssub d a b) := by
  intro _ ch _ W he
  have he : bit ch * 2147483648 + (0x01000001 + d.val * 262144 + a.val * 4096 + b.val * 64) = W := Option.some.inj he
  have hW : pack [(6, 1), (6, b.val), (6, a.val), (6, d.val), (7, 1), (1, bit ch)] = W := by rw [← he]; simp only [pack]; ring
  have hf : Fits [(6, 1), (6, b.val), (6, a.val), (6, d.val), (7, 1), (1, bit ch)] := ⟨by decide, b.isLt, a.isLt, d.isLt, by decide, bit_lt ch, trivial⟩
  have h0 : fld W 30 24 = 1 := fld_pack hW hf 4 rfl rfl rfl
  have h1 : fld W 31 31 = bit ch := fld_pack hW hf 5 rfl rfl rfl
  have h2 : fld W 5 0 = 1 := fld_pack hW hf 0 rfl rfl rfl
  have h3 : fld W 23 18 = d.val := fld_pack hW hf 3 rfl rfl rfl
  have h4 : fld W 17 12 = a.val := fld_pack hW hf 2 rfl rfl rfl
  have h5 : fld W 11 6 = b.val := fld_pack hW hf 1 rfl rfl rfl
  exact word_of W ch _ ((body_01 W h0).trans (by simp [dec01, h2, h3, h4, h5])) h1
theorem smul (d : SReg) (a : SReg) (b : SReg) : Statement (.smul d a b) := by
  intro _ ch _ W he
  have he : bit ch * 2147483648 + (0x01000002 + d.val * 262144 + a.val * 4096 + b.val * 64) = W := Option.some.inj he
  have hW : pack [(6, 2), (6, b.val), (6, a.val), (6, d.val), (7, 1), (1, bit ch)] = W := by rw [← he]; simp only [pack]; ring
  have hf : Fits [(6, 2), (6, b.val), (6, a.val), (6, d.val), (7, 1), (1, bit ch)] := ⟨by decide, b.isLt, a.isLt, d.isLt, by decide, bit_lt ch, trivial⟩
  have h0 : fld W 30 24 = 1 := fld_pack hW hf 4 rfl rfl rfl
  have h1 : fld W 31 31 = bit ch := fld_pack hW hf 5 rfl rfl rfl
  have h2 : fld W 5 0 = 2 := fld_pack hW hf 0 rfl rfl rfl
  have h3 : fld W 23 18 = d.val := fld_pack hW hf 3 rfl rfl rfl
  have h4 : fld W 17 12 = a.val := fld_pack hW hf 2 rfl rfl rfl
  have h5 : fld W 11 6 = b.val := fld_pack hW hf 1 rfl rfl rfl
  exact word_of W ch _ ((body_01 W h0).trans (by simp [dec01, h2, h3, h4, h5])) h1
theorem smulhS (d : SReg) (a : SReg) (b : SReg) : Statement (.smulhS d a b) := by
  intro _ ch _ W he
  have he : bit ch * 2147483648 + (0x01000003 + d.val * 262144 + a.val * 4096 + b.val * 64) = W := Option.some.inj he
  have hW : pack [(6, 3), (6, b.val), (6, a.val), (6, d.val), (7, 1), (1, bit ch)] = W := by rw [← he]; simp only [pack]; ring
  have hf : Fits [(6, 3), (6, b.val), (6, a.val), (6, d.val), (7, 1), (1, bit ch)] := ⟨by decide, b.isLt, a.isLt, d.isLt, by decide, bit_lt ch, trivial⟩
  have h0 : fld W 30 24 = 1 := fld_pack hW hf 4 rfl rfl rfl
  have h1 : fld W 31 31 = bit ch := fld_pack hW hf 5 rfl rfl rfl
  have h2 : fld W 5 0 = 3 := fld_pack hW hf 0 rfl rfl rfl
  have h3 : fld W 23 18 = d.val := fld_pack hW hf 3 rfl rfl rfl
  have h4 : fld W 17 12 = a.val := fld_pack hW hf 2 rfl rfl rfl
  have h5 : fld W 11 6 = b.val := fld_pack hW hf 1 rfl rfl rfl
  exact word_of W ch _ ((body_01 W h0).trans (by simp [dec01, h2, h3, h4, h5])) h1
theorem smulhZ (d : SReg) (a : SReg) (b : SReg) : Statement (.smulhZ d a b) := by
  intro _ ch _ W he
  have he : bit ch * 2147483648 + (0x01000004 + d.val * 262144 + a.val * 4096 + b.val * 64) = W := Option.some.inj he
  have hW : pack [(6, 4), (6, b.val), (6, a.val), (6, d.val), (7, 1), (1, bit ch)] = W := by rw [← he]; simp only [pack]; ring
  have hf : Fits [(6, 4), (6, b.val), (6, a.val), (6, d.val), (7, 1), (1, bit ch)] := ⟨by decide, b.isLt, a.isLt, d.isLt, by decide, bit_lt ch, trivial⟩
  have h0 : fld W 30 24 = 1 := fld_pack hW hf 4 rfl rfl rfl
  have h1 : fld W 31 31 = bit ch := fld_pack hW hf 5 rfl rfl rfl
  have h2 : fld W 5 0 = 4 := fld_pack hW hf 0 rfl rfl rfl
  have h3 : fld W 23 18 = d.val := fld_pack hW hf 3 rfl rfl rfl
  have h4 : fld W 17 12 = a.val := fld_pack hW hf 2 rfl rfl rfl
  have h5 : fld W 11 6 = b.val := fld_pack hW hf 1 rfl rfl rfl
  exact word_of W ch _ ((body_01 W h0).trans (by simp [dec01, h2, h3, h4, h5])) h1
theorem sand (d : SReg) (a : SReg) (b : SReg) : Statement (.sand d a b) := by
  intro _ ch _ W he
  have he : bit ch * 2147483648 + (0x01000005 + d.val * 262144 + a.val * 4096 + b.val * 64) = W := Option.some.inj he
  have hW : pack [(6, 5), (6, b.val), (6, a.val), (6, d.val), (7, 1), (1, bit ch)] = W := by rw [← he]; simp only [pack]; ring
  have hf : Fits [(6, 5), (6, b.val), (6, a.val), (6, d.val), (7, 1), (1, bit ch)] := ⟨by decide, b.isLt, a.isLt, d.isLt, by decide, bit_lt ch, trivial⟩
  have h0 : fld W 30 24 = 1 := fld_pack hW hf 4 rfl rfl rfl
  have h1 : fld W 31 31 = bit ch := fld_pack hW hf 5 rfl rfl rfl
  have h2 : fld W 5 0 = 5 := fld_pack hW hf 0 rfl rfl rfl
  have h3 : fld W 23 18 = d.val := fld_pack hW hf 3 rfl rfl rfl
  have h4 : fld W 17 12 = a.val := fld_pack hW hf 2 rfl rfl rfl
  have h5 : fld W 11 6 = b.val := fld_pack hW hf 1 rfl rfl rfl
  exact word_of W ch _ ((body_01 W h0).trans (by simp [dec01, h2, h3, h4, h5])) h1
theorem sor (d : SReg) (a : SReg) (b : SReg) : Statement (.sor d a b) := by
  intro _ ch _ W he
  have he : bit ch * 2147483648 + (0x01000006 + d.val * 262144 + a.val * 4096 + b.val * 64) = W := Option.some.inj he
  have hW : pack [(6, 6), (6, b.val), (6, a.val), (6, d.val), (7, 1), (1, bit ch)] = W := by rw [← he]; simp only [pack]; ring
  have hf : Fits [(6, 6), (6, b.val), (6, a.val), (6, d.val), (7, 1), (1, bit ch)] := ⟨by decide, b.isLt, a.isLt, d.isLt, by decide, bit_lt ch, trivial⟩
  have h0 : fld W 30 24 = 1 := fld_pack hW hf 4 rfl rfl rfl
  have h1 : fld W 31 31 = bit ch := fld_pack hW hf 5 rfl rfl rfl
  have h2 : fld W 5 0 = 6 := fld_pack hW hf 0 rfl rfl rfl
  have h3 : fld W 23 18 = d.val := fld_pack hW hf 3 rfl rfl rfl
  have h4 : fld W 17 12 = a.val := fld_pack hW hf 2 rfl rfl rfl
  have h5 : fld W 11 6 = b.val := fld_pack hW hf 1 rfl rfl rfl
  exact word_of W ch _ ((body_01 W h0).trans (by simp [dec01, h2, h3, h4, h5])) h1
theorem sxor (d : SReg) (a : SReg) (b : SReg) : Statement (.sxor d a b) := by
  intro _ ch _ W he
  have he : bit ch * 2147483648 + (0x01000007 + d.val * 262144 + a.val * 4096 + b.val * 64) = W := Option.some.inj he
  have hW : pack [(6, 7), (6, b.val), (6, a.val), (6, d.val), (7, 1), (1, bit ch)] = W := by rw [← he]; simp only [pack]; ring
  have hf : Fits [(6, 7), (6, b.val), (6, a.val), (6, d.val), (7, 1), (1, bit ch)] := ⟨by decide, b.isLt, a.isLt, d.isLt, by decide, bit_lt ch, trivial⟩
  have h0 : fld W 30 24 = 1 := fld_pack hW hf 4 rfl rfl rfl
  have h1 : fld W 31 31 = bit ch := fld_pack hW hf 5 rfl rfl rfl
  have h2 : fld W 5 0 = 7 := fld_pack hW hf 0 rfl rfl rfl
  have h3 : fld W 23 18 = d.val := fld_pack hW hf 3 rfl rfl rfl
  have h4 : fld W 17 12 = a.val := fld_pack hW hf 2 rfl rfl rfl
  have h5 : fld W 11 6 = b.val := fld_pack hW hf 1 rfl rfl rfl
  exact word_of W ch _ ((body_01 W h0).trans (by simp [dec01, h2, h3, h4, h5])) h1
theorem sshl (d : SReg) (a : SReg) (b : SReg) : Statement (.sshl d a b) := by
  intro _ ch _ W he
  have he : bit ch * 2147483648 + (0x01000008 + d.val * 262144 + a.val * 4096 + b.val * 64) = W := Option.some.inj he
  have hW : pack [(6, 8), (6, b.val), (6, a.val), (6, d.val), (7, 1), (1, bit ch)] = W := by rw [← he]; simp only [pack]; ring
  have hf : Fits [(6, 8), (6, b.val), (6, a.val), (6, d.val), (7, 1), (1, bit ch)] := ⟨by decide, b.isLt, a.isLt, d.isLt, by decide, bit_lt ch, trivial⟩
  have h0 : fld W 30 24 = 1 := fld_pack hW hf 4 rfl rfl rfl
  have h1 : fld W 31 31 = bit ch := fld_pack hW hf 5 rfl rfl rfl
  have h2 : fld W 5 0 = 8 := fld_pack hW hf 0 rfl rfl rfl
  have h3 : fld W 23 18 = d.val := fld_pack hW hf 3 rfl rfl rfl
  have h4 : fld W 17 12 = a.val := fld_pack hW hf 2 rfl rfl rfl
  have h5 : fld W 11 6 = b.val := fld_pack hW hf 1 rfl rfl rfl
  exact word_of W ch _ ((body_01 W h0).trans (by simp [dec01, h2, h3, h4, h5])) h1
theorem sshrZ (d : SReg) (a : SReg) (b : SReg) : Statement (.sshrZ d a b) := by
  intro _ ch _ W he
  have he : bit ch * 2147483648 + (0x01000009 + d.val * 262144 + a.val * 4096 + b.val * 64) = W := Option.some.inj he
  have hW : pack [(6, 9), (6, b.val), (6, a.val), (6, d.val), (7, 1), (1, bit ch)] = W := by rw [← he]; simp only [pack]; ring
  have hf : Fits [(6, 9), (6, b.val), (6, a.val), (6, d.val), (7, 1), (1, bit ch)] := ⟨by decide, b.isLt, a.isLt, d.isLt, by decide, bit_lt ch, trivial⟩
  have h0 : fld W 30 24 = 1 := fld_pack hW hf 4 rfl rfl rfl
  have h1 : fld W 31 31 = bit ch := fld_pack hW hf 5 rfl rfl rfl
  have h2 : fld W 5 0 = 9 := fld_pack hW hf 0 rfl rfl rfl
  have h3 : fld W 23 18 = d.val := fld_pack hW hf 3 rfl rfl rfl
  have h4 : fld W 17 12 = a.val := fld_pack hW hf 2 rfl rfl rfl
  have h5 : fld W 11 6 = b.val := fld_pack hW hf 1 rfl rfl rfl
  exact word_of W ch _ ((body_01 W h0).trans (by simp [dec01, h2, h3, h4, h5])) h1
theorem sshrS (d : SReg) (a : SReg) (b : SReg) : Statement (.sshrS d a b) := by
  intro _ ch _ W he
  have he : bit ch * 2147483648 + (0x0100000A + d.val * 262144 + a.val * 4096 + b.val * 64) = W := Option.some.inj he
  have hW : pack [(6, 10), (6, b.val), (6, a.val), (6, d.val), (7, 1), (1, bit ch)] = W := by rw [← he]; simp only [pack]; ring
  have hf : Fits [(6, 10), (6, b.val), (6, a.val), (6, d.val), (7, 1), (1, bit ch)] := ⟨by decide, b.isLt, a.isLt, d.isLt, by decide, bit_lt ch, trivial⟩
  have h0 : fld W 30 24 = 1 := fld_pack hW hf 4 rfl rfl rfl
  have h1 : fld W 31 31 = bit ch := fld_pack hW hf 5 rfl rfl rfl
  have h2 : fld W 5 0 = 10 := fld_pack hW hf 0 rfl rfl rfl
  have h3 : fld W 23 18 = d.val := fld_pack hW hf 3 rfl rfl rfl
  have h4 : fld W 17 12 = a.val := fld_pack hW hf 2 rfl rfl rfl
  have h5 : fld W 11 6 = b.val := fld_pack hW hf 1 rfl rfl rfl
  exact word_of W ch _ ((body_01 W h0).trans (by simp [dec01, h2, h3, h4, h5])) h1
theorem sminS (d : SReg) (a : SReg) (b : SReg) : Statement (.sminS d a b) := by
  intro _ ch _ W he
  have he : bit ch * 2147483648 + (0x0100000B + d.val * 262144 + a.val * 4096 + b.val * 64) = W := Option.some.inj he
  have hW : pack [(6, 11), (6, b.val), (6, a.val), (6, d.val), (7, 1), (1, bit ch)] = W := by rw [← he]; simp only [pack]; ring
  have hf : Fits [(6, 11), (6, b.val), (6, a.val), (6, d.val), (7, 1), (1, bit ch)] := ⟨by decide, b.isLt, a.isLt, d.isLt, by decide, bit_lt ch, trivial⟩
  have h0 : fld W 30 24 = 1 := fld_pack hW hf 4 rfl rfl rfl
  have h1 : fld W 31 31 = bit ch := fld_pack hW hf 5 rfl rfl rfl
  have h2 : fld W 5 0 = 11 := fld_pack hW hf 0 rfl rfl rfl
  have h3 : fld W 23 18 = d.val := fld_pack hW hf 3 rfl rfl rfl
  have h4 : fld W 17 12 = a.val := fld_pack hW hf 2 rfl rfl rfl
  have h5 : fld W 11 6 = b.val := fld_pack hW hf 1 rfl rfl rfl
  exact word_of W ch _ ((body_01 W h0).trans (by simp [dec01, h2, h3, h4, h5])) h1
theorem smaxS (d : SReg) (a : SReg) (b : SReg) : Statement (.smaxS d a b) := by
  intro _ ch _ W he
  have he : bit ch * 2147483648 + (0x0100000C + d.val * 262144 + a.val * 4096 + b.val * 64) = W := Option.some.inj he
  have hW : pack [(6, 12), (6, b.val), (6, a.val), (6, d.val), (7, 1), (1, bit ch)] = W := by rw [← he]; simp only [pack]; ring
  have hf : Fits [(6, 12), (6, b.val), (6, a.val), (6, d.val), (7, 1), (1, bit ch)] := ⟨by decide, b.isLt, a.isLt, d.isLt, by decide, bit_lt ch, trivial⟩
  have h0 : fld W 30 24 = 1 := fld_pack hW hf 4 rfl rfl rfl
  have h1 : fld W 31 31 = bit ch := fld_pack hW hf 5 rfl rfl rfl
  have h2 : fld W 5 0 = 12 := fld_pack hW hf 0 rfl rfl rfl
  have h3 : fld W 23 18 = d.val := fld_pack hW hf 3 rfl rfl rfl
  have h4 : fld W 17 12 = a.val := fld_pack hW hf 2 rfl rfl rfl
  have h5 : fld W 11 6 = b.val := fld_pack hW hf 1 rfl rfl rfl
  exact word_of W ch _ ((body_01 W h0).trans (by simp [dec01, h2, h3, h4, h5])) h1
theorem sminZ (d : SReg) (a : SReg) (b : SReg) : Statement (.sminZ d a b) := by
  intro _ ch _ W he
  have he : bit ch * 2147483648 + (0x0100000D + d.val * 262144 + a.val * 4096 + b.val * 64) = W := Option.some.inj he
  have hW : pack [(6, 13), (6, b.val), (6, a.val), (6, d.val), (7, 1), (1, bit ch)] = W := by rw [← he]; simp only [pack]; ring
  have hf : Fits [(6, 13), (6, b.val), (6, a.val), (6, d.val), (7, 1), (1, bit ch)] := ⟨by decide, b.isLt, a.isLt, d.isLt, by decide, bit_lt ch, trivial⟩
  have h0 : fld W 30 24 = 1 := fld_pack hW hf 4 rfl rfl rfl
  have h1 : fld W 31 31 = bit ch := fld_pack hW hf 5 rfl rfl rfl
  have h2 : fld W 5 0 = 13 := fld_pack hW hf 0 rfl rfl rfl
  have h3 : fld W 23 18 = d.val := fld_pack hW hf 3 rfl rfl rfl
  have h4 : fld W 17 12 = a.val := fld_pack hW hf 2 rfl rfl rfl
  have h5 : fld W 11 6 = b.val := fld_pack hW hf 1 rfl rfl rfl
  exact word_of W ch _ ((body_01 W h0).trans (by simp [dec01, h2, h3, h4, h5])) h1
theorem smaxZ (d : SReg) (a : SReg) (b : SReg) : Statement (.smaxZ d a b) := by
  intro _ ch _ W he
  have he : bit ch * 2147483648 + (0x0100000E + d.val * 262144 + a.val * 4096 + b.val * 64) = W := Option.some.inj he
  have hW : pack [(6, 14), (6, b.val), (6, a.val), (6, d.val), (7, 1), (1, bit ch)] = W := by rw [← he]; simp only [pack]; ring
  have hf : Fits [(6, 14), (6, b.val), (6, a.val), (6, d.val), (7, 1), (1, bit ch)] := ⟨by decide, b.isLt, a.isLt, d.isLt, by decide, bit_lt ch, trivial⟩
  have h0 : fld W 30 24 = 1 := fld_pack hW hf 4 rfl rfl rfl
  have h1 : fld W 31 31 = bit ch := fld_pack hW hf 5 rfl rfl rfl
  have h2 : fld W 5 0 = 14 := fld_pack hW hf 0 rfl rfl rfl
  have h3 : fld W 23 18 = d.val := fld_pack hW hf 3 rfl rfl rfl
  have h4 : fld W 17 12 = a.val := fld_pack hW hf 2 rfl rfl rfl
  have h5 : fld W 11 6 = b.val := fld_pack hW hf 1 rfl rfl rfl
  exact word_of W ch _ ((body_01 W h0).trans (by simp [dec01, h2, h3, h4, h5])) h1
theorem ssltS (d : SReg) (a : SReg) (b : SReg) : Statement (.ssltS d a b) := by
  intro _ ch _ W he
  have he : bit ch * 2147483648 + (0x0100000F + d.val * 262144 + a.val * 4096 + b.val * 64) = W := Option.some.inj he
  have hW : pack [(6, 15), (6, b.val), (6, a.val), (6, d.val), (7, 1), (1, bit ch)] = W := by rw [← he]; simp only [pack]; ring
  have hf : Fits [(6, 15), (6, b.val), (6, a.val), (6, d.val), (7, 1), (1, bit ch)] := ⟨by decide, b.isLt, a.isLt, d.isLt, by decide, bit_lt ch, trivial⟩
  have h0 : fld W 30 24 = 1 := fld_pack hW hf 4 rfl rfl rfl
  have h1 : fld W 31 31 = bit ch := fld_pack hW hf 5 rfl rfl rfl
  have h2 : fld W 5 0 = 15 := fld_pack hW hf 0 rfl rfl rfl
  have h3 : fld W 23 18 = d.val := fld_pack hW hf 3 rfl rfl rfl
  have h4 : fld W 17 12 = a.val := fld_pack hW hf 2 rfl rfl rfl
  have h5 : fld W 11 6 = b.val := fld_pack hW hf 1 rfl rfl rfl
  exact word_of W ch _ ((body_01 W h0).trans (by simp [dec01, h2, h3, h4, h5])) h1
theorem ssltZ (d : SReg) (a : SReg) (b : SReg) : Statement (.ssltZ d a b) := by
  intro _ ch _ W he
  have he : bit ch * 2147483648 + (0x01000010 + d.val * 262144 + a.val * 4096 + b.val * 64) = W := Option.some.inj he
  have hW : pack [(6, 16), (6, b.val), (6, a.val), (6, d.val), (7, 1), (1, bit ch)] = W := by rw [← he]; simp only [pack]; ring
  have hf : Fits [(6, 16), (6, b.val), (6, a.val), (6, d.val), (7, 1), (1, bit ch)] := ⟨by decide, b.isLt, a.isLt, d.isLt, by decide, bit_lt ch, trivial⟩
  have h0 : fld W 30 24 = 1 := fld_pack hW hf 4 rfl rfl rfl
  have h1 : fld W 31 31 = bit ch := fld_pack hW hf 5 rfl rfl rfl
  have h2 : fld W 5 0 = 16 := fld_pack hW hf 0 rfl rfl rfl
  have h3 : fld W 23 18 = d.val := fld_pack hW hf 3 rfl rfl rfl
  have h4 : fld W 17 12 = a.val := fld_pack hW hf 2 rfl rfl rfl
  have h5 : fld W 11 6 = b.val := fld_pack hW hf 1 rfl rfl rfl
  exact word_of W ch _ ((body_01 W h0).trans (by simp [dec01, h2, h3, h4, h5])) h1
theorem sseq (d : SReg) (a : SReg) (b : SReg) : Statement (.sseq d a b) := by
  intro _ ch _ W he
  have he : bit ch * 2147483648 + (0x01000011 + d.val * 262144 + a.val * 4096 + b.val * 64) = W := Option.some.inj he
  have hW : pack [(6, 17), (6, b.val), (6, a.val), (6, d.val), (7, 1), (1, bit ch)] = W := by rw [← he]; simp only [pack]; ring
  have hf : Fits [(6, 17), (6, b.val), (6, a.val), (6, d.val), (7, 1), (1, bit ch)] := ⟨by decide, b.isLt, a.isLt, d.isLt, by decide, bit_lt ch, trivial⟩
  have h0 : fld W 30 24 = 1 := fld_pack hW hf 4 rfl rfl rfl
  have h1 : fld W 31 31 = bit ch := fld_pack hW hf 5 rfl rfl rfl
  have h2 : fld W 5 0 = 17 := fld_pack hW hf 0 rfl rfl rfl
  have h3 : fld W 23 18 = d.val := fld_pack hW hf 3 rfl rfl rfl
  have h4 : fld W 17 12 = a.val := fld_pack hW hf 2 rfl rfl rfl
  have h5 : fld W 11 6 = b.val := fld_pack hW hf 1 rfl rfl rfl
  exact word_of W ch _ ((body_01 W h0).trans (by simp [dec01, h2, h3, h4, h5])) h1
theorem saddi (d : SReg) (a : SReg) (i : BitVec 12) : Statement (.saddi d a i) := by
  intro _ ch _ W he
  have he : bit ch * 2147483648 + (0x02000000 + d.val * 262144 + a.val * 4096 + i.toNat) = W := Option.some.inj he
  have hW : pack [(12, i.toNat), (6, a.val), (6, d.val), (7, 2), (1, bit ch)] = W := by rw [← he]; simp only [pack]; ring
  have hf : Fits [(12, i.toNat), (6, a.val), (6, d.val), (7, 2), (1, bit ch)] := ⟨i.isLt, a.isLt, d.isLt, by decide, bit_lt ch, trivial⟩
  have h0 : fld W 30 24 = 2 := fld_pack hW hf 3 rfl rfl rfl
  have h1 : fld W 31 31 = bit ch := fld_pack hW hf 4 rfl rfl rfl
  have h2 : fld W 23 18 = d.val := fld_pack hW hf 2 rfl rfl rfl
  have h3 : fld W 17 12 = a.val := fld_pack hW hf 1 rfl rfl rfl
  have h4 : fld W 11 0 = i.toNat := fld_pack hW hf 0 rfl rfl rfl
  exact word_of W ch _ ((body_02 W h0).trans (by simp [dec02, h2, h3, h4])) h1
theorem sandi (d : SReg) (a : SReg) (i : BitVec 12) : Statement (.sandi d a i) := by
  intro _ ch _ W he
  have he : bit ch * 2147483648 + (0x03000000 + d.val * 262144 + a.val * 4096 + i.toNat) = W := Option.some.inj he
  have hW : pack [(12, i.toNat), (6, a.val), (6, d.val), (7, 3), (1, bit ch)] = W := by rw [← he]; simp only [pack]; ring
  have hf : Fits [(12, i.toNat), (6, a.val), (6, d.val), (7, 3), (1, bit ch)] := ⟨i.isLt, a.isLt, d.isLt, by decide, bit_lt ch, trivial⟩
  have h0 : fld W 30 24 = 3 := fld_pack hW hf 3 rfl rfl rfl
  have h1 : fld W 31 31 = bit ch := fld_pack hW hf 4 rfl rfl rfl
  have h2 : fld W 23 18 = d.val := fld_pack hW hf 2 rfl rfl rfl
  have h3 : fld W 17 12 = a.val := fld_pack hW hf 1 rfl rfl rfl
  have h4 : fld W 11 0 = i.toNat := fld_pack hW hf 0 rfl rfl rfl
  exact word_of W ch _ ((body_03 W h0).trans (by simp [dec03, h2, h3, h4])) h1
theorem sori (d : SReg) (a : SReg) (i : BitVec 12) : Statement (.sori d a i) := by
  intro _ ch _ W he
  have he : bit ch * 2147483648 + (0x04000000 + d.val * 262144 + a.val * 4096 + i.toNat) = W := Option.some.inj he
  have hW : pack [(12, i.toNat), (6, a.val), (6, d.val), (7, 4), (1, bit ch)] = W := by rw [← he]; simp only [pack]; ring
  have hf : Fits [(12, i.toNat), (6, a.val), (6, d.val), (7, 4), (1, bit ch)] := ⟨i.isLt, a.isLt, d.isLt, by decide, bit_lt ch, trivial⟩
  have h0 : fld W 30 24 = 4 := fld_pack hW hf 3 rfl rfl rfl
  have h1 : fld W 31 31 = bit ch := fld_pack hW hf 4 rfl rfl rfl
  have h2 : fld W 23 18 = d.val := fld_pack hW hf 2 rfl rfl rfl
  have h3 : fld W 17 12 = a.val := fld_pack hW hf 1 rfl rfl rfl
  have h4 : fld W 11 0 = i.toNat := fld_pack hW hf 0 rfl rfl rfl
  exact word_of W ch _ ((body_04 W h0).trans (by simp [dec04, h2, h3, h4])) h1
theorem sxori (d : SReg) (a : SReg) (i : BitVec 12) : Statement (.sxori d a i) := by
  intro _ ch _ W he
  have he : bit ch * 2147483648 + (0x05000000 + d.val * 262144 + a.val * 4096 + i.toNat) = W := Option.some.inj he
  have hW : pack [(12, i.toNat), (6, a.val), (6, d.val), (7, 5), (1, bit ch)] = W := by rw [← he]; simp only [pack]; ring
  have hf : Fits [(12, i.toNat), (6, a.val), (6, d.val), (7, 5), (1, bit ch)] := ⟨i.isLt, a.isLt, d.isLt, by decide, bit_lt ch, trivial⟩
  have h0 : fld W 30 24 = 5 := fld_pack hW hf 3 rfl rfl rfl
  have h1 : fld W 31 31 = bit ch := fld_pack hW hf 4 rfl rfl rfl
  have h2 : fld W 23 18 = d.val := fld_pack hW hf 2 rfl rfl rfl
  have h3 : fld W 17 12 = a.val := fld_pack hW hf 1 rfl rfl rfl
  have h4 : fld W 11 0 = i.toNat := fld_pack hW hf 0 rfl rfl rfl
  exact word_of W ch _ ((body_05 W h0).trans (by simp [dec05, h2, h3, h4])) h1
theorem sshli (d : SReg) (a : SReg) (n : Fin 64) : Statement (.sshli d a n) := by
  intro _ ch _ W he
  have he : bit ch * 2147483648 + (0x06000000 + d.val * 262144 + a.val * 4096 + n.val) = W := Option.some.inj he
  have hW : pack [(6, n.val), (2, 0), (4, 0), (6, a.val), (6, d.val), (7, 6), (1, bit ch)] = W := by rw [← he]; simp only [pack]; ring
  have hf : Fits [(6, n.val), (2, 0), (4, 0), (6, a.val), (6, d.val), (7, 6), (1, bit ch)] := ⟨n.isLt, by decide, by decide, a.isLt, d.isLt, by decide, bit_lt ch, trivial⟩
  have h0 : fld W 30 24 = 6 := fld_pack hW hf 5 rfl rfl rfl
  have h1 : fld W 31 31 = bit ch := fld_pack hW hf 6 rfl rfl rfl
  have h2 : fld W 7 6 = 0 := fld_pack hW hf 1 rfl rfl rfl
  have h3 : fld W 11 8 = 0 := fld_pack hW hf 2 rfl rfl rfl
  have h4 : fld W 23 18 = d.val := fld_pack hW hf 4 rfl rfl rfl
  have h5 : fld W 17 12 = a.val := fld_pack hW hf 3 rfl rfl rfl
  have h6 : fld W 5 0 = n.val := fld_pack hW hf 0 rfl rfl rfl
  exact word_of W ch _ ((body_06 W h0).trans (by simp [dec06, h2, h3, h4, h5, h6, when])) h1
theorem sshriZ (d : SReg) (a : SReg) (n : Fin 64) : Statement (.sshriZ d a n) := by
  intro _ ch _ W he
  have he : bit ch * 2147483648 + (0x06000040 + d.val * 262144 + a.val * 4096 + n.val) = W := Option.some.inj he
  have hW : pack [(6, n.val), (2, 1), (4, 0), (6, a.val), (6, d.val), (7, 6), (1, bit ch)] = W := by rw [← he]; simp only [pack]; ring
  have hf : Fits [(6, n.val), (2, 1), (4, 0), (6, a.val), (6, d.val), (7, 6), (1, bit ch)] := ⟨n.isLt, by decide, by decide, a.isLt, d.isLt, by decide, bit_lt ch, trivial⟩
  have h0 : fld W 30 24 = 6 := fld_pack hW hf 5 rfl rfl rfl
  have h1 : fld W 31 31 = bit ch := fld_pack hW hf 6 rfl rfl rfl
  have h2 : fld W 7 6 = 1 := fld_pack hW hf 1 rfl rfl rfl
  have h3 : fld W 11 8 = 0 := fld_pack hW hf 2 rfl rfl rfl
  have h4 : fld W 23 18 = d.val := fld_pack hW hf 4 rfl rfl rfl
  have h5 : fld W 17 12 = a.val := fld_pack hW hf 3 rfl rfl rfl
  have h6 : fld W 5 0 = n.val := fld_pack hW hf 0 rfl rfl rfl
  exact word_of W ch _ ((body_06 W h0).trans (by simp [dec06, h2, h3, h4, h5, h6, when])) h1
theorem sshriS (d : SReg) (a : SReg) (n : Fin 64) : Statement (.sshriS d a n) := by
  intro _ ch _ W he
  have he : bit ch * 2147483648 + (0x06000080 + d.val * 262144 + a.val * 4096 + n.val) = W := Option.some.inj he
  have hW : pack [(6, n.val), (2, 2), (4, 0), (6, a.val), (6, d.val), (7, 6), (1, bit ch)] = W := by rw [← he]; simp only [pack]; ring
  have hf : Fits [(6, n.val), (2, 2), (4, 0), (6, a.val), (6, d.val), (7, 6), (1, bit ch)] := ⟨n.isLt, by decide, by decide, a.isLt, d.isLt, by decide, bit_lt ch, trivial⟩
  have h0 : fld W 30 24 = 6 := fld_pack hW hf 5 rfl rfl rfl
  have h1 : fld W 31 31 = bit ch := fld_pack hW hf 6 rfl rfl rfl
  have h2 : fld W 7 6 = 2 := fld_pack hW hf 1 rfl rfl rfl
  have h3 : fld W 11 8 = 0 := fld_pack hW hf 2 rfl rfl rfl
  have h4 : fld W 23 18 = d.val := fld_pack hW hf 4 rfl rfl rfl
  have h5 : fld W 17 12 = a.val := fld_pack hW hf 3 rfl rfl rfl
  have h6 : fld W 5 0 = n.val := fld_pack hW hf 0 rfl rfl rfl
  exact word_of W ch _ ((body_06 W h0).trans (by simp [dec06, h2, h3, h4, h5, h6, when])) h1
theorem slit (d : SReg) (i : BitVec 18) : Statement (.slit d i) := by
  intro _ ch _ W he
  have he : bit ch * 2147483648 + (0x07000000 + d.val * 262144 + i.toNat) = W := Option.some.inj he
  have hW : pack [(18, i.toNat), (6, d.val), (7, 7), (1, bit ch)] = W := by rw [← he]; simp only [pack]; ring
  have hf : Fits [(18, i.toNat), (6, d.val), (7, 7), (1, bit ch)] := ⟨i.isLt, d.isLt, by decide, bit_lt ch, trivial⟩
  have h0 : fld W 30 24 = 7 := fld_pack hW hf 2 rfl rfl rfl
  have h1 : fld W 31 31 = bit ch := fld_pack hW hf 3 rfl rfl rfl
  have h2 : fld W 23 18 = d.val := fld_pack hW hf 1 rfl rfl rfl
  have h3 : fld W 17 0 = i.toNat := fld_pack hW hf 0 rfl rfl rfl
  exact word_of W ch _ ((body_07 W h0).trans (by simp [dec07, h2, h3])) h1
theorem slitwZ (d : SReg) : Statement (.slitwZ d) := by
  intro _ ch _ W he
  have he : bit ch * 2147483648 + (0x08000000 + d.val * 262144) = W := Option.some.inj he
  have hW : pack [(2, 0), (16, 0), (6, d.val), (7, 8), (1, bit ch)] = W := by rw [← he]; simp only [pack]; ring
  have hf : Fits [(2, 0), (16, 0), (6, d.val), (7, 8), (1, bit ch)] := ⟨by decide, by decide, d.isLt, by decide, bit_lt ch, trivial⟩
  have h0 : fld W 30 24 = 8 := fld_pack hW hf 3 rfl rfl rfl
  have h1 : fld W 31 31 = bit ch := fld_pack hW hf 4 rfl rfl rfl
  have h2 : fld W 1 0 = 0 := fld_pack hW hf 0 rfl rfl rfl
  have h3 : fld W 17 2 = 0 := fld_pack hW hf 1 rfl rfl rfl
  have h4 : fld W 23 18 = d.val := fld_pack hW hf 2 rfl rfl rfl
  exact word_of W ch _ ((body_08 W h0).trans (by simp [dec08, h2, h3, h4, when])) h1
theorem slitwS (d : SReg) : Statement (.slitwS d) := by
  intro _ ch _ W he
  have he : bit ch * 2147483648 + (0x08000001 + d.val * 262144) = W := Option.some.inj he
  have hW : pack [(2, 1), (16, 0), (6, d.val), (7, 8), (1, bit ch)] = W := by rw [← he]; simp only [pack]; ring
  have hf : Fits [(2, 1), (16, 0), (6, d.val), (7, 8), (1, bit ch)] := ⟨by decide, by decide, d.isLt, by decide, bit_lt ch, trivial⟩
  have h0 : fld W 30 24 = 8 := fld_pack hW hf 3 rfl rfl rfl
  have h1 : fld W 31 31 = bit ch := fld_pack hW hf 4 rfl rfl rfl
  have h2 : fld W 1 0 = 1 := fld_pack hW hf 0 rfl rfl rfl
  have h3 : fld W 17 2 = 0 := fld_pack hW hf 1 rfl rfl rfl
  have h4 : fld W 23 18 = d.val := fld_pack hW hf 2 rfl rfl rfl
  exact word_of W ch _ ((body_08 W h0).trans (by simp [dec08, h2, h3, h4, when])) h1
theorem slitwLo (d : SReg) : Statement (.slitwLo d) := by
  intro _ ch _ W he
  have he : bit ch * 2147483648 + (0x08000002 + d.val * 262144) = W := Option.some.inj he
  have hW : pack [(2, 2), (16, 0), (6, d.val), (7, 8), (1, bit ch)] = W := by rw [← he]; simp only [pack]; ring
  have hf : Fits [(2, 2), (16, 0), (6, d.val), (7, 8), (1, bit ch)] := ⟨by decide, by decide, d.isLt, by decide, bit_lt ch, trivial⟩
  have h0 : fld W 30 24 = 8 := fld_pack hW hf 3 rfl rfl rfl
  have h1 : fld W 31 31 = bit ch := fld_pack hW hf 4 rfl rfl rfl
  have h2 : fld W 1 0 = 2 := fld_pack hW hf 0 rfl rfl rfl
  have h3 : fld W 17 2 = 0 := fld_pack hW hf 1 rfl rfl rfl
  have h4 : fld W 23 18 = d.val := fld_pack hW hf 2 rfl rfl rfl
  exact word_of W ch _ ((body_08 W h0).trans (by simp [dec08, h2, h3, h4, when])) h1
theorem slitwHi (d : SReg) : Statement (.slitwHi d) := by
  intro _ ch _ W he
  have he : bit ch * 2147483648 + (0x08000003 + d.val * 262144) = W := Option.some.inj he
  have hW : pack [(2, 3), (16, 0), (6, d.val), (7, 8), (1, bit ch)] = W := by rw [← he]; simp only [pack]; ring
  have hf : Fits [(2, 3), (16, 0), (6, d.val), (7, 8), (1, bit ch)] := ⟨by decide, by decide, d.isLt, by decide, bit_lt ch, trivial⟩
  have h0 : fld W 30 24 = 8 := fld_pack hW hf 3 rfl rfl rfl
  have h1 : fld W 31 31 = bit ch := fld_pack hW hf 4 rfl rfl rfl
  have h2 : fld W 1 0 = 3 := fld_pack hW hf 0 rfl rfl rfl
  have h3 : fld W 17 2 = 0 := fld_pack hW hf 1 rfl rfl rfl
  have h4 : fld W 23 18 = d.val := fld_pack hW hf 2 rfl rfl rfl
  exact word_of W ch _ ((body_08 W h0).trans (by simp [dec08, h2, h3, h4, when])) h1
theorem sgetsr (d : SReg) (n : Fin 4096) : Statement (.sgetsr d n) := by
  intro _ ch _ W he
  have he : bit ch * 2147483648 + (0x09000000 + d.val * 262144 + n.val * 64) = W := Option.some.inj he
  have hW : pack [(6, 0), (12, n.val), (6, d.val), (7, 9), (1, bit ch)] = W := by rw [← he]; simp only [pack]; ring
  have hf : Fits [(6, 0), (12, n.val), (6, d.val), (7, 9), (1, bit ch)] := ⟨by decide, n.isLt, d.isLt, by decide, bit_lt ch, trivial⟩
  have h0 : fld W 30 24 = 9 := fld_pack hW hf 3 rfl rfl rfl
  have h1 : fld W 31 31 = bit ch := fld_pack hW hf 4 rfl rfl rfl
  have h2 : fld W 5 0 = 0 := fld_pack hW hf 0 rfl rfl rfl
  have h3 : fld W 23 18 = d.val := fld_pack hW hf 2 rfl rfl rfl
  have h4 : fld W 17 6 = n.val := fld_pack hW hf 1 rfl rfl rfl
  exact word_of W ch _ ((body_09 W h0).trans (by simp [dec09, h2, h3, h4])) h1
theorem ssetsr (a : SReg) (n : Fin 4096) : Statement (.ssetsr a n) := by
  intro _ ch _ W he
  have he : bit ch * 2147483648 + (0x0A000000 + a.val * 262144 + n.val * 64) = W := Option.some.inj he
  have hW : pack [(6, 0), (12, n.val), (6, a.val), (7, 10), (1, bit ch)] = W := by rw [← he]; simp only [pack]; ring
  have hf : Fits [(6, 0), (12, n.val), (6, a.val), (7, 10), (1, bit ch)] := ⟨by decide, n.isLt, a.isLt, by decide, bit_lt ch, trivial⟩
  have h0 : fld W 30 24 = 10 := fld_pack hW hf 3 rfl rfl rfl
  have h1 : fld W 31 31 = bit ch := fld_pack hW hf 4 rfl rfl rfl
  have h2 : fld W 5 0 = 0 := fld_pack hW hf 0 rfl rfl rfl
  have h3 : fld W 23 18 = a.val := fld_pack hW hf 2 rfl rfl rfl
  have h4 : fld W 17 6 = n.val := fld_pack hW hf 1 rfl rfl rfl
  exact word_of W ch _ ((body_0A W h0).trans (by simp [dec0A, h2, h3, h4])) h1
theorem ssetsrSet (a : SReg) (n : Fin 4096) : Statement (.ssetsrSet a n) := by
  intro _ ch _ W he
  have he : bit ch * 2147483648 + (0x0A000001 + a.val * 262144 + n.val * 64) = W := Option.some.inj he
  have hW : pack [(6, 1), (12, n.val), (6, a.val), (7, 10), (1, bit ch)] = W := by rw [← he]; simp only [pack]; ring
  have hf : Fits [(6, 1), (12, n.val), (6, a.val), (7, 10), (1, bit ch)] := ⟨by decide, n.isLt, a.isLt, by decide, bit_lt ch, trivial⟩
  have h0 : fld W 30 24 = 10 := fld_pack hW hf 3 rfl rfl rfl
  have h1 : fld W 31 31 = bit ch := fld_pack hW hf 4 rfl rfl rfl
  have h2 : fld W 5 0 = 1 := fld_pack hW hf 0 rfl rfl rfl
  have h3 : fld W 23 18 = a.val := fld_pack hW hf 2 rfl rfl rfl
  have h4 : fld W 17 6 = n.val := fld_pack hW hf 1 rfl rfl rfl
  exact word_of W ch _ ((body_0A W h0).trans (by simp [dec0A, h2, h3, h4])) h1
theorem ssetsrClr (a : SReg) (n : Fin 4096) : Statement (.ssetsrClr a n) := by
  intro _ ch _ W he
  have he : bit ch * 2147483648 + (0x0A000002 + a.val * 262144 + n.val * 64) = W := Option.some.inj he
  have hW : pack [(6, 2), (12, n.val), (6, a.val), (7, 10), (1, bit ch)] = W := by rw [← he]; simp only [pack]; ring
  have hf : Fits [(6, 2), (12, n.val), (6, a.val), (7, 10), (1, bit ch)] := ⟨by decide, n.isLt, a.isLt, by decide, bit_lt ch, trivial⟩
  have h0 : fld W 30 24 = 10 := fld_pack hW hf 3 rfl rfl rfl
  have h1 : fld W 31 31 = bit ch := fld_pack hW hf 4 rfl rfl rfl
  have h2 : fld W 5 0 = 2 := fld_pack hW hf 0 rfl rfl rfl
  have h3 : fld W 23 18 = a.val := fld_pack hW hf 2 rfl rfl rfl
  have h4 : fld W 17 6 = n.val := fld_pack hW hf 1 rfl rfl rfl
  exact word_of W ch _ ((body_0A W h0).trans (by simp [dec0A, h2, h3, h4])) h1
theorem scmpEq (d : CReg) (a : SReg) (b : SReg) : Statement (.scmpEq d a b) := by
  intro hw ch _ W he
  have he : bit ch * 2147483648 + (0x0B000000 + d.val * 262144 + a.val * 4096 + b.val * 64) = W := Option.some.inj he
  have _ := bit_lt ch; have _ := d.isLt; have _ := a.isLt; have _ := b.isLt
  have hW : pack [(6, 0), (6, b.val), (6, a.val), (6, d.val), (7, 11), (1, bit ch)] = W := by rw [← he]; simp only [pack]; ring
  have hf : Fits [(6, 0), (6, b.val), (6, a.val), (6, d.val), (7, 11), (1, bit ch)] := ⟨by decide, b.isLt, a.isLt, by omega, by decide, bit_lt ch, trivial⟩
  have h0 : fld W 30 24 = 11 := fld_pack hW hf 4 rfl rfl rfl
  have h1 : fld W 31 31 = bit ch := fld_pack hW hf 5 rfl rfl rfl
  have h2 : fld W 5 0 = 0 := fld_pack hW hf 0 rfl rfl rfl
  have h3 : fld W 23 18 = d.val := fld_pack hW hf 3 rfl rfl rfl
  have h4 : fld W 17 12 = a.val := fld_pack hW hf 2 rfl rfl rfl
  have h5 : fld W 11 6 = b.val := fld_pack hW hf 1 rfl rfl rfl
  have hn : d.val ≠ 7 := fun h => of_decide_eq_true (wf_noC7 hw) (Fin.ext h)
  exact word_of W ch _ ((body_0B W h0).trans (by simp [dec0B, h2, h3, h4, h5, hn, when])) h1
theorem scmpNe (d : CReg) (a : SReg) (b : SReg) : Statement (.scmpNe d a b) := by
  intro hw ch _ W he
  have he : bit ch * 2147483648 + (0x0B000001 + d.val * 262144 + a.val * 4096 + b.val * 64) = W := Option.some.inj he
  have _ := bit_lt ch; have _ := d.isLt; have _ := a.isLt; have _ := b.isLt
  have hW : pack [(6, 1), (6, b.val), (6, a.val), (6, d.val), (7, 11), (1, bit ch)] = W := by rw [← he]; simp only [pack]; ring
  have hf : Fits [(6, 1), (6, b.val), (6, a.val), (6, d.val), (7, 11), (1, bit ch)] := ⟨by decide, b.isLt, a.isLt, by omega, by decide, bit_lt ch, trivial⟩
  have h0 : fld W 30 24 = 11 := fld_pack hW hf 4 rfl rfl rfl
  have h1 : fld W 31 31 = bit ch := fld_pack hW hf 5 rfl rfl rfl
  have h2 : fld W 5 0 = 1 := fld_pack hW hf 0 rfl rfl rfl
  have h3 : fld W 23 18 = d.val := fld_pack hW hf 3 rfl rfl rfl
  have h4 : fld W 17 12 = a.val := fld_pack hW hf 2 rfl rfl rfl
  have h5 : fld W 11 6 = b.val := fld_pack hW hf 1 rfl rfl rfl
  have hn : d.val ≠ 7 := fun h => of_decide_eq_true (wf_noC7 hw) (Fin.ext h)
  exact word_of W ch _ ((body_0B W h0).trans (by simp [dec0B, h2, h3, h4, h5, hn, when])) h1
theorem scmpLtS (d : CReg) (a : SReg) (b : SReg) : Statement (.scmpLtS d a b) := by
  intro hw ch _ W he
  have he : bit ch * 2147483648 + (0x0B000002 + d.val * 262144 + a.val * 4096 + b.val * 64) = W := Option.some.inj he
  have _ := bit_lt ch; have _ := d.isLt; have _ := a.isLt; have _ := b.isLt
  have hW : pack [(6, 2), (6, b.val), (6, a.val), (6, d.val), (7, 11), (1, bit ch)] = W := by rw [← he]; simp only [pack]; ring
  have hf : Fits [(6, 2), (6, b.val), (6, a.val), (6, d.val), (7, 11), (1, bit ch)] := ⟨by decide, b.isLt, a.isLt, by omega, by decide, bit_lt ch, trivial⟩
  have h0 : fld W 30 24 = 11 := fld_pack hW hf 4 rfl rfl rfl
  have h1 : fld W 31 31 = bit ch := fld_pack hW hf 5 rfl rfl rfl
  have h2 : fld W 5 0 = 2 := fld_pack hW hf 0 rfl rfl rfl
  have h3 : fld W 23 18 = d.val := fld_pack hW hf 3 rfl rfl rfl
  have h4 : fld W 17 12 = a.val := fld_pack hW hf 2 rfl rfl rfl
  have h5 : fld W 11 6 = b.val := fld_pack hW hf 1 rfl rfl rfl
  have hn : d.val ≠ 7 := fun h => of_decide_eq_true (wf_noC7 hw) (Fin.ext h)
  exact word_of W ch _ ((body_0B W h0).trans (by simp [dec0B, h2, h3, h4, h5, hn, when])) h1
theorem scmpLeS (d : CReg) (a : SReg) (b : SReg) : Statement (.scmpLeS d a b) := by
  intro hw ch _ W he
  have he : bit ch * 2147483648 + (0x0B000003 + d.val * 262144 + a.val * 4096 + b.val * 64) = W := Option.some.inj he
  have _ := bit_lt ch; have _ := d.isLt; have _ := a.isLt; have _ := b.isLt
  have hW : pack [(6, 3), (6, b.val), (6, a.val), (6, d.val), (7, 11), (1, bit ch)] = W := by rw [← he]; simp only [pack]; ring
  have hf : Fits [(6, 3), (6, b.val), (6, a.val), (6, d.val), (7, 11), (1, bit ch)] := ⟨by decide, b.isLt, a.isLt, by omega, by decide, bit_lt ch, trivial⟩
  have h0 : fld W 30 24 = 11 := fld_pack hW hf 4 rfl rfl rfl
  have h1 : fld W 31 31 = bit ch := fld_pack hW hf 5 rfl rfl rfl
  have h2 : fld W 5 0 = 3 := fld_pack hW hf 0 rfl rfl rfl
  have h3 : fld W 23 18 = d.val := fld_pack hW hf 3 rfl rfl rfl
  have h4 : fld W 17 12 = a.val := fld_pack hW hf 2 rfl rfl rfl
  have h5 : fld W 11 6 = b.val := fld_pack hW hf 1 rfl rfl rfl
  have hn : d.val ≠ 7 := fun h => of_decide_eq_true (wf_noC7 hw) (Fin.ext h)
  exact word_of W ch _ ((body_0B W h0).trans (by simp [dec0B, h2, h3, h4, h5, hn, when])) h1
theorem scmpLtZ (d : CReg) (a : SReg) (b : SReg) : Statement (.scmpLtZ d a b) := by
  intro hw ch _ W he
  have he : bit ch * 2147483648 + (0x0B000004 + d.val * 262144 + a.val * 4096 + b.val * 64) = W := Option.some.inj he
  have _ := bit_lt ch; have _ := d.isLt; have _ := a.isLt; have _ := b.isLt
  have hW : pack [(6, 4), (6, b.val), (6, a.val), (6, d.val), (7, 11), (1, bit ch)] = W := by rw [← he]; simp only [pack]; ring
  have hf : Fits [(6, 4), (6, b.val), (6, a.val), (6, d.val), (7, 11), (1, bit ch)] := ⟨by decide, b.isLt, a.isLt, by omega, by decide, bit_lt ch, trivial⟩
  have h0 : fld W 30 24 = 11 := fld_pack hW hf 4 rfl rfl rfl
  have h1 : fld W 31 31 = bit ch := fld_pack hW hf 5 rfl rfl rfl
  have h2 : fld W 5 0 = 4 := fld_pack hW hf 0 rfl rfl rfl
  have h3 : fld W 23 18 = d.val := fld_pack hW hf 3 rfl rfl rfl
  have h4 : fld W 17 12 = a.val := fld_pack hW hf 2 rfl rfl rfl
  have h5 : fld W 11 6 = b.val := fld_pack hW hf 1 rfl rfl rfl
  have hn : d.val ≠ 7 := fun h => of_decide_eq_true (wf_noC7 hw) (Fin.ext h)
  exact word_of W ch _ ((body_0B W h0).trans (by simp [dec0B, h2, h3, h4, h5, hn, when])) h1
theorem scmpLeZ (d : CReg) (a : SReg) (b : SReg) : Statement (.scmpLeZ d a b) := by
  intro hw ch _ W he
  have he : bit ch * 2147483648 + (0x0B000005 + d.val * 262144 + a.val * 4096 + b.val * 64) = W := Option.some.inj he
  have _ := bit_lt ch; have _ := d.isLt; have _ := a.isLt; have _ := b.isLt
  have hW : pack [(6, 5), (6, b.val), (6, a.val), (6, d.val), (7, 11), (1, bit ch)] = W := by rw [← he]; simp only [pack]; ring
  have hf : Fits [(6, 5), (6, b.val), (6, a.val), (6, d.val), (7, 11), (1, bit ch)] := ⟨by decide, b.isLt, a.isLt, by omega, by decide, bit_lt ch, trivial⟩
  have h0 : fld W 30 24 = 11 := fld_pack hW hf 4 rfl rfl rfl
  have h1 : fld W 31 31 = bit ch := fld_pack hW hf 5 rfl rfl rfl
  have h2 : fld W 5 0 = 5 := fld_pack hW hf 0 rfl rfl rfl
  have h3 : fld W 23 18 = d.val := fld_pack hW hf 3 rfl rfl rfl
  have h4 : fld W 17 12 = a.val := fld_pack hW hf 2 rfl rfl rfl
  have h5 : fld W 11 6 = b.val := fld_pack hW hf 1 rfl rfl rfl
  have hn : d.val ≠ 7 := fun h => of_decide_eq_true (wf_noC7 hw) (Fin.ext h)
  exact word_of W ch _ ((body_0B W h0).trans (by simp [dec0B, h2, h3, h4, h5, hn, when])) h1
theorem sext (d : SReg) (a : VReg) (w : ExtW) (l : Fin 32) : Statement (.sext d a w l) := by
  intro hw ch _ W he
  have he : bit ch * 2147483648 + (0x0C000000 + d.val * 262144 + a.val * 1024 + w.code * 64 + l.val) = W := Option.some.inj he
  have hW : pack [(5, l.val), (1, 0), (2, w.code), (2, 0), (7, a.val), (1, 0), (6, d.val), (7, 12), (1, bit ch)] = W := by rw [← he]; simp only [pack]; ring
  have hf : Fits [(5, l.val), (1, 0), (2, w.code), (2, 0), (7, a.val), (1, 0), (6, d.val), (7, 12), (1, bit ch)] := ⟨l.isLt, by decide, extW_code_lt w, by decide, a.isLt, by decide, d.isLt, by decide, bit_lt ch, trivial⟩
  have h0 : fld W 30 24 = 12 := fld_pack hW hf 7 rfl rfl rfl
  have h1 : fld W 31 31 = bit ch := fld_pack hW hf 8 rfl rfl rfl
  have h2 : fld W 9 8 = 0 := fld_pack hW hf 3 rfl rfl rfl
  have h3 : fld W 7 6 = w.code := fld_pack hW hf 2 rfl rfl rfl
  have h4 : fld W 5 5 = 0 := fld_pack hW hf 1 rfl rfl rfl
  have h5 : fld W 17 17 = 0 := fld_pack hW hf 5 rfl rfl rfl
  have h6 : fld W 23 18 = d.val := fld_pack hW hf 6 rfl rfl rfl
  have h7 : fld W 16 10 = a.val := fld_pack hW hf 4 rfl rfl rfl
  have h8 : fld W 4 0 = l.val := fld_pack hW hf 0 rfl rfl rfl
  have hl := wf_limits hw
  exact word_of W ch _ ((body_0C W h0).trans (by simp [dec0C, h2, h3, h4, h5, h6, h7, h8, legal, hl, need, when])) h1
theorem sextFirst (d : SReg) (a : VReg) (w : ExtW) : Statement (.sextFirst d a w) := by
  intro hw ch _ W he
  have he : bit ch * 2147483648 + (0x0C000100 + d.val * 262144 + a.val * 1024 + w.code * 64) = W := Option.some.inj he
  have hW : pack [(6, 0), (2, w.code), (2, 1), (7, a.val), (1, 0), (6, d.val), (7, 12), (1, bit ch)] = W := by rw [← he]; simp only [pack]; ring
  have hf : Fits [(6, 0), (2, w.code), (2, 1), (7, a.val), (1, 0), (6, d.val), (7, 12), (1, bit ch)] := ⟨by decide, extW_code_lt w, by decide, a.isLt, by decide, d.isLt, by decide, bit_lt ch, trivial⟩
  have h0 : fld W 30 24 = 12 := fld_pack hW hf 6 rfl rfl rfl
  have h1 : fld W 31 31 = bit ch := fld_pack hW hf 7 rfl rfl rfl
  have h2 : fld W 9 8 = 1 := fld_pack hW hf 2 rfl rfl rfl
  have h3 : fld W 7 6 = w.code := fld_pack hW hf 1 rfl rfl rfl
  have h4 : fld W 5 0 = 0 := fld_pack hW hf 0 rfl rfl rfl
  have h5 : fld W 17 17 = 0 := fld_pack hW hf 4 rfl rfl rfl
  have h6 : fld W 23 18 = d.val := fld_pack hW hf 5 rfl rfl rfl
  have h7 : fld W 16 10 = a.val := fld_pack hW hf 3 rfl rfl rfl
  have hl := wf_limits hw
  exact word_of W ch _ ((body_0C W h0).trans (by simp [dec0C, h2, h3, h4, h5, h6, h7, legal, hl, need, when])) h1
theorem sextLast (d : SReg) (a : VReg) (w : ExtW) : Statement (.sextLast d a w) := by
  intro hw ch _ W he
  have he : bit ch * 2147483648 + (0x0C000200 + d.val * 262144 + a.val * 1024 + w.code * 64) = W := Option.some.inj he
  have hW : pack [(6, 0), (2, w.code), (2, 2), (7, a.val), (1, 0), (6, d.val), (7, 12), (1, bit ch)] = W := by rw [← he]; simp only [pack]; ring
  have hf : Fits [(6, 0), (2, w.code), (2, 2), (7, a.val), (1, 0), (6, d.val), (7, 12), (1, bit ch)] := ⟨by decide, extW_code_lt w, by decide, a.isLt, by decide, d.isLt, by decide, bit_lt ch, trivial⟩
  have h0 : fld W 30 24 = 12 := fld_pack hW hf 6 rfl rfl rfl
  have h1 : fld W 31 31 = bit ch := fld_pack hW hf 7 rfl rfl rfl
  have h2 : fld W 9 8 = 2 := fld_pack hW hf 2 rfl rfl rfl
  have h3 : fld W 7 6 = w.code := fld_pack hW hf 1 rfl rfl rfl
  have h4 : fld W 5 0 = 0 := fld_pack hW hf 0 rfl rfl rfl
  have h5 : fld W 17 17 = 0 := fld_pack hW hf 4 rfl rfl rfl
  have h6 : fld W 23 18 = d.val := fld_pack hW hf 5 rfl rfl rfl
  have h7 : fld W 16 10 = a.val := fld_pack hW hf 3 rfl rfl rfl
  have hl := wf_limits hw
  exact word_of W ch _ ((body_0C W h0).trans (by simp [dec0C, h2, h3, h4, h5, h6, h7, legal, hl, need, when])) h1
theorem vins (d : VReg) (a : SReg) (w : InsW) (l : Fin 32) : Statement (.vins d a w l) := by
  intro hw ch _ W he
  have he : bit ch * 2147483648 + (0x0D000000 + d.val * 131072 + a.val * 2048 + w.code * 64 + l.val) = W := Option.some.inj he
  have hW : pack [(5, l.val), (1, 0), (2, w.code), (2, 0), (1, 0), (6, a.val), (7, d.val), (7, 13), (1, bit ch)] = W := by rw [← he]; simp only [pack]; ring
  have hf : Fits [(5, l.val), (1, 0), (2, w.code), (2, 0), (1, 0), (6, a.val), (7, d.val), (7, 13), (1, bit ch)] := ⟨l.isLt, by decide, insW_code_lt w, by decide, by decide, a.isLt, d.isLt, by decide, bit_lt ch, trivial⟩
  have h0 : fld W 30 24 = 13 := fld_pack hW hf 7 rfl rfl rfl
  have h1 : fld W 31 31 = bit ch := fld_pack hW hf 8 rfl rfl rfl
  have h2 : fld W 9 8 = 0 := fld_pack hW hf 3 rfl rfl rfl
  have h3 : fld W 7 6 = w.code := fld_pack hW hf 2 rfl rfl rfl
  have h4 : fld W 5 5 = 0 := fld_pack hW hf 1 rfl rfl rfl
  have h5 : fld W 10 10 = 0 := fld_pack hW hf 4 rfl rfl rfl
  have h6 : fld W 23 17 = d.val := fld_pack hW hf 6 rfl rfl rfl
  have h7 : fld W 16 11 = a.val := fld_pack hW hf 5 rfl rfl rfl
  have h8 : fld W 4 0 = l.val := fld_pack hW hf 0 rfl rfl rfl
  have hl := wf_limits hw
  exact word_of W ch _ ((body_0D W h0).trans (by simp [dec0D, h2, h3, h4, h5, h6, h7, h8, legal, hl, need, when])) h1
theorem vinsAll (d : VReg) (a : SReg) (w : InsW) : Statement (.vinsAll d a w) := by
  intro hw ch _ W he
  have he : bit ch * 2147483648 + (0x0D000100 + d.val * 131072 + a.val * 2048 + w.code * 64) = W := Option.some.inj he
  have hW : pack [(6, 0), (2, w.code), (2, 1), (1, 0), (6, a.val), (7, d.val), (7, 13), (1, bit ch)] = W := by rw [← he]; simp only [pack]; ring
  have hf : Fits [(6, 0), (2, w.code), (2, 1), (1, 0), (6, a.val), (7, d.val), (7, 13), (1, bit ch)] := ⟨by decide, insW_code_lt w, by decide, by decide, a.isLt, d.isLt, by decide, bit_lt ch, trivial⟩
  have h0 : fld W 30 24 = 13 := fld_pack hW hf 6 rfl rfl rfl
  have h1 : fld W 31 31 = bit ch := fld_pack hW hf 7 rfl rfl rfl
  have h2 : fld W 9 8 = 1 := fld_pack hW hf 2 rfl rfl rfl
  have h3 : fld W 7 6 = w.code := fld_pack hW hf 1 rfl rfl rfl
  have h4 : fld W 5 0 = 0 := fld_pack hW hf 0 rfl rfl rfl
  have h5 : fld W 10 10 = 0 := fld_pack hW hf 3 rfl rfl rfl
  have h6 : fld W 23 17 = d.val := fld_pack hW hf 5 rfl rfl rfl
  have h7 : fld W 16 11 = a.val := fld_pack hW hf 4 rfl rfl rfl
  have hl := wf_limits hw
  exact word_of W ch _ ((body_0D W h0).trans (by simp [dec0D, h2, h3, h4, h5, h6, h7, legal, hl, need, when])) h1
theorem vadd (d : VReg) (a : VReg) (b : BSel) : Statement (.vadd d a b) := by
  intro _ ch _ W he
  have he : bit ch * 2147483648 + (0x10000000 + d.val * 131072 + a.val * 1024 + b.code * 4) = W := Option.some.inj he
  have hW : pack [(2, 0), (8, b.code), (7, a.val), (7, d.val), (7, 16), (1, bit ch)] = W := by rw [← he]; simp only [pack]; ring
  have hf : Fits [(2, 0), (8, b.code), (7, a.val), (7, d.val), (7, 16), (1, bit ch)] := ⟨by decide, bSel_code_lt b, a.isLt, d.isLt, by decide, bit_lt ch, trivial⟩
  have h0 : fld W 30 24 = 16 := fld_pack hW hf 4 rfl rfl rfl
  have h1 : fld W 31 31 = bit ch := fld_pack hW hf 5 rfl rfl rfl
  have h2 : fld W 1 0 = 0 := fld_pack hW hf 0 rfl rfl rfl
  have h3 : fld W 9 2 = b.code := fld_pack hW hf 1 rfl rfl rfl
  have h4 : fld W 23 17 = d.val := fld_pack hW hf 3 rfl rfl rfl
  have h5 : fld W 16 10 = a.val := fld_pack hW hf 2 rfl rfl rfl
  exact word_of W ch _ ((body_10 W h0).trans (by simp [dec10, h2, h3, h4, h5, need])) h1
theorem vaddSatS (d : VReg) (a : VReg) (b : BSel) : Statement (.vaddSatS d a b) := by
  intro _ ch _ W he
  have he : bit ch * 2147483648 + (0x10000001 + d.val * 131072 + a.val * 1024 + b.code * 4) = W := Option.some.inj he
  have hW : pack [(2, 1), (8, b.code), (7, a.val), (7, d.val), (7, 16), (1, bit ch)] = W := by rw [← he]; simp only [pack]; ring
  have hf : Fits [(2, 1), (8, b.code), (7, a.val), (7, d.val), (7, 16), (1, bit ch)] := ⟨by decide, bSel_code_lt b, a.isLt, d.isLt, by decide, bit_lt ch, trivial⟩
  have h0 : fld W 30 24 = 16 := fld_pack hW hf 4 rfl rfl rfl
  have h1 : fld W 31 31 = bit ch := fld_pack hW hf 5 rfl rfl rfl
  have h2 : fld W 1 0 = 1 := fld_pack hW hf 0 rfl rfl rfl
  have h3 : fld W 9 2 = b.code := fld_pack hW hf 1 rfl rfl rfl
  have h4 : fld W 23 17 = d.val := fld_pack hW hf 3 rfl rfl rfl
  have h5 : fld W 16 10 = a.val := fld_pack hW hf 2 rfl rfl rfl
  exact word_of W ch _ ((body_10 W h0).trans (by simp [dec10, h2, h3, h4, h5, need])) h1
theorem vaddSatZ (d : VReg) (a : VReg) (b : BSel) : Statement (.vaddSatZ d a b) := by
  intro _ ch _ W he
  have he : bit ch * 2147483648 + (0x10000002 + d.val * 131072 + a.val * 1024 + b.code * 4) = W := Option.some.inj he
  have hW : pack [(2, 2), (8, b.code), (7, a.val), (7, d.val), (7, 16), (1, bit ch)] = W := by rw [← he]; simp only [pack]; ring
  have hf : Fits [(2, 2), (8, b.code), (7, a.val), (7, d.val), (7, 16), (1, bit ch)] := ⟨by decide, bSel_code_lt b, a.isLt, d.isLt, by decide, bit_lt ch, trivial⟩
  have h0 : fld W 30 24 = 16 := fld_pack hW hf 4 rfl rfl rfl
  have h1 : fld W 31 31 = bit ch := fld_pack hW hf 5 rfl rfl rfl
  have h2 : fld W 1 0 = 2 := fld_pack hW hf 0 rfl rfl rfl
  have h3 : fld W 9 2 = b.code := fld_pack hW hf 1 rfl rfl rfl
  have h4 : fld W 23 17 = d.val := fld_pack hW hf 3 rfl rfl rfl
  have h5 : fld W 16 10 = a.val := fld_pack hW hf 2 rfl rfl rfl
  exact word_of W ch _ ((body_10 W h0).trans (by simp [dec10, h2, h3, h4, h5, need])) h1
theorem vsub (d : VReg) (a : VReg) (b : BSel) : Statement (.vsub d a b) := by
  intro _ ch _ W he
  have he : bit ch * 2147483648 + (0x11000000 + d.val * 131072 + a.val * 1024 + b.code * 4) = W := Option.some.inj he
  have hW : pack [(2, 0), (8, b.code), (7, a.val), (7, d.val), (7, 17), (1, bit ch)] = W := by rw [← he]; simp only [pack]; ring
  have hf : Fits [(2, 0), (8, b.code), (7, a.val), (7, d.val), (7, 17), (1, bit ch)] := ⟨by decide, bSel_code_lt b, a.isLt, d.isLt, by decide, bit_lt ch, trivial⟩
  have h0 : fld W 30 24 = 17 := fld_pack hW hf 4 rfl rfl rfl
  have h1 : fld W 31 31 = bit ch := fld_pack hW hf 5 rfl rfl rfl
  have h2 : fld W 1 0 = 0 := fld_pack hW hf 0 rfl rfl rfl
  have h3 : fld W 9 2 = b.code := fld_pack hW hf 1 rfl rfl rfl
  have h4 : fld W 23 17 = d.val := fld_pack hW hf 3 rfl rfl rfl
  have h5 : fld W 16 10 = a.val := fld_pack hW hf 2 rfl rfl rfl
  exact word_of W ch _ ((body_11 W h0).trans (by simp [dec11, h2, h3, h4, h5, need])) h1
theorem vsubSatS (d : VReg) (a : VReg) (b : BSel) : Statement (.vsubSatS d a b) := by
  intro _ ch _ W he
  have he : bit ch * 2147483648 + (0x11000001 + d.val * 131072 + a.val * 1024 + b.code * 4) = W := Option.some.inj he
  have hW : pack [(2, 1), (8, b.code), (7, a.val), (7, d.val), (7, 17), (1, bit ch)] = W := by rw [← he]; simp only [pack]; ring
  have hf : Fits [(2, 1), (8, b.code), (7, a.val), (7, d.val), (7, 17), (1, bit ch)] := ⟨by decide, bSel_code_lt b, a.isLt, d.isLt, by decide, bit_lt ch, trivial⟩
  have h0 : fld W 30 24 = 17 := fld_pack hW hf 4 rfl rfl rfl
  have h1 : fld W 31 31 = bit ch := fld_pack hW hf 5 rfl rfl rfl
  have h2 : fld W 1 0 = 1 := fld_pack hW hf 0 rfl rfl rfl
  have h3 : fld W 9 2 = b.code := fld_pack hW hf 1 rfl rfl rfl
  have h4 : fld W 23 17 = d.val := fld_pack hW hf 3 rfl rfl rfl
  have h5 : fld W 16 10 = a.val := fld_pack hW hf 2 rfl rfl rfl
  exact word_of W ch _ ((body_11 W h0).trans (by simp [dec11, h2, h3, h4, h5, need])) h1
theorem vsubSatZ (d : VReg) (a : VReg) (b : BSel) : Statement (.vsubSatZ d a b) := by
  intro _ ch _ W he
  have he : bit ch * 2147483648 + (0x11000002 + d.val * 131072 + a.val * 1024 + b.code * 4) = W := Option.some.inj he
  have hW : pack [(2, 2), (8, b.code), (7, a.val), (7, d.val), (7, 17), (1, bit ch)] = W := by rw [← he]; simp only [pack]; ring
  have hf : Fits [(2, 2), (8, b.code), (7, a.val), (7, d.val), (7, 17), (1, bit ch)] := ⟨by decide, bSel_code_lt b, a.isLt, d.isLt, by decide, bit_lt ch, trivial⟩
  have h0 : fld W 30 24 = 17 := fld_pack hW hf 4 rfl rfl rfl
  have h1 : fld W 31 31 = bit ch := fld_pack hW hf 5 rfl rfl rfl
  have h2 : fld W 1 0 = 2 := fld_pack hW hf 0 rfl rfl rfl
  have h3 : fld W 9 2 = b.code := fld_pack hW hf 1 rfl rfl rfl
  have h4 : fld W 23 17 = d.val := fld_pack hW hf 3 rfl rfl rfl
  have h5 : fld W 16 10 = a.val := fld_pack hW hf 2 rfl rfl rfl
  exact word_of W ch _ ((body_11 W h0).trans (by simp [dec11, h2, h3, h4, h5, need])) h1
theorem vmul (d : VReg) (a : VReg) (b : BSel) : Statement (.vmul d a b) := by
  intro _ ch _ W he
  have he : bit ch * 2147483648 + (0x12000000 + d.val * 131072 + a.val * 1024 + b.code * 4) = W := Option.some.inj he
  have hW : pack [(2, 0), (8, b.code), (7, a.val), (7, d.val), (7, 18), (1, bit ch)] = W := by rw [← he]; simp only [pack]; ring
  have hf : Fits [(2, 0), (8, b.code), (7, a.val), (7, d.val), (7, 18), (1, bit ch)] := ⟨by decide, bSel_code_lt b, a.isLt, d.isLt, by decide, bit_lt ch, trivial⟩
  have h0 : fld W 30 24 = 18 := fld_pack hW hf 4 rfl rfl rfl
  have h1 : fld W 31 31 = bit ch := fld_pack hW hf 5 rfl rfl rfl
  have h2 : fld W 1 0 = 0 := fld_pack hW hf 0 rfl rfl rfl
  have h3 : fld W 9 2 = b.code := fld_pack hW hf 1 rfl rfl rfl
  have h4 : fld W 23 17 = d.val := fld_pack hW hf 3 rfl rfl rfl
  have h5 : fld W 16 10 = a.val := fld_pack hW hf 2 rfl rfl rfl
  exact word_of W ch _ ((body_12 W h0).trans (by simp [dec12, h2, h3, h4, h5, need])) h1
theorem vmulhS (d : VReg) (a : VReg) (b : BSel) : Statement (.vmulhS d a b) := by
  intro _ ch _ W he
  have he : bit ch * 2147483648 + (0x12000001 + d.val * 131072 + a.val * 1024 + b.code * 4) = W := Option.some.inj he
  have hW : pack [(2, 1), (8, b.code), (7, a.val), (7, d.val), (7, 18), (1, bit ch)] = W := by rw [← he]; simp only [pack]; ring
  have hf : Fits [(2, 1), (8, b.code), (7, a.val), (7, d.val), (7, 18), (1, bit ch)] := ⟨by decide, bSel_code_lt b, a.isLt, d.isLt, by decide, bit_lt ch, trivial⟩
  have h0 : fld W 30 24 = 18 := fld_pack hW hf 4 rfl rfl rfl
  have h1 : fld W 31 31 = bit ch := fld_pack hW hf 5 rfl rfl rfl
  have h2 : fld W 1 0 = 1 := fld_pack hW hf 0 rfl rfl rfl
  have h3 : fld W 9 2 = b.code := fld_pack hW hf 1 rfl rfl rfl
  have h4 : fld W 23 17 = d.val := fld_pack hW hf 3 rfl rfl rfl
  have h5 : fld W 16 10 = a.val := fld_pack hW hf 2 rfl rfl rfl
  exact word_of W ch _ ((body_12 W h0).trans (by simp [dec12, h2, h3, h4, h5, need])) h1
theorem vmulhZ (d : VReg) (a : VReg) (b : BSel) : Statement (.vmulhZ d a b) := by
  intro _ ch _ W he
  have he : bit ch * 2147483648 + (0x12000002 + d.val * 131072 + a.val * 1024 + b.code * 4) = W := Option.some.inj he
  have hW : pack [(2, 2), (8, b.code), (7, a.val), (7, d.val), (7, 18), (1, bit ch)] = W := by rw [← he]; simp only [pack]; ring
  have hf : Fits [(2, 2), (8, b.code), (7, a.val), (7, d.val), (7, 18), (1, bit ch)] := ⟨by decide, bSel_code_lt b, a.isLt, d.isLt, by decide, bit_lt ch, trivial⟩
  have h0 : fld W 30 24 = 18 := fld_pack hW hf 4 rfl rfl rfl
  have h1 : fld W 31 31 = bit ch := fld_pack hW hf 5 rfl rfl rfl
  have h2 : fld W 1 0 = 2 := fld_pack hW hf 0 rfl rfl rfl
  have h3 : fld W 9 2 = b.code := fld_pack hW hf 1 rfl rfl rfl
  have h4 : fld W 23 17 = d.val := fld_pack hW hf 3 rfl rfl rfl
  have h5 : fld W 16 10 = a.val := fld_pack hW hf 2 rfl rfl rfl
  exact word_of W ch _ ((body_12 W h0).trans (by simp [dec12, h2, h3, h4, h5, need])) h1
theorem vminS (d : VReg) (a : VReg) (b : BSel) : Statement (.vminS d a b) := by
  intro _ ch _ W he
  have he : bit ch * 2147483648 + (0x13000000 + d.val * 131072 + a.val * 1024 + b.code * 4) = W := Option.some.inj he
  have hW : pack [(2, 0), (8, b.code), (7, a.val), (7, d.val), (7, 19), (1, bit ch)] = W := by rw [← he]; simp only [pack]; ring
  have hf : Fits [(2, 0), (8, b.code), (7, a.val), (7, d.val), (7, 19), (1, bit ch)] := ⟨by decide, bSel_code_lt b, a.isLt, d.isLt, by decide, bit_lt ch, trivial⟩
  have h0 : fld W 30 24 = 19 := fld_pack hW hf 4 rfl rfl rfl
  have h1 : fld W 31 31 = bit ch := fld_pack hW hf 5 rfl rfl rfl
  have h2 : fld W 1 0 = 0 := fld_pack hW hf 0 rfl rfl rfl
  have h3 : fld W 9 2 = b.code := fld_pack hW hf 1 rfl rfl rfl
  have h4 : fld W 23 17 = d.val := fld_pack hW hf 3 rfl rfl rfl
  have h5 : fld W 16 10 = a.val := fld_pack hW hf 2 rfl rfl rfl
  exact word_of W ch _ ((body_13 W h0).trans (by simp [dec13, h2, h3, h4, h5, need])) h1
theorem vminZ (d : VReg) (a : VReg) (b : BSel) : Statement (.vminZ d a b) := by
  intro _ ch _ W he
  have he : bit ch * 2147483648 + (0x13000001 + d.val * 131072 + a.val * 1024 + b.code * 4) = W := Option.some.inj he
  have hW : pack [(2, 1), (8, b.code), (7, a.val), (7, d.val), (7, 19), (1, bit ch)] = W := by rw [← he]; simp only [pack]; ring
  have hf : Fits [(2, 1), (8, b.code), (7, a.val), (7, d.val), (7, 19), (1, bit ch)] := ⟨by decide, bSel_code_lt b, a.isLt, d.isLt, by decide, bit_lt ch, trivial⟩
  have h0 : fld W 30 24 = 19 := fld_pack hW hf 4 rfl rfl rfl
  have h1 : fld W 31 31 = bit ch := fld_pack hW hf 5 rfl rfl rfl
  have h2 : fld W 1 0 = 1 := fld_pack hW hf 0 rfl rfl rfl
  have h3 : fld W 9 2 = b.code := fld_pack hW hf 1 rfl rfl rfl
  have h4 : fld W 23 17 = d.val := fld_pack hW hf 3 rfl rfl rfl
  have h5 : fld W 16 10 = a.val := fld_pack hW hf 2 rfl rfl rfl
  exact word_of W ch _ ((body_13 W h0).trans (by simp [dec13, h2, h3, h4, h5, need])) h1
theorem vmaxS (d : VReg) (a : VReg) (b : BSel) : Statement (.vmaxS d a b) := by
  intro _ ch _ W he
  have he : bit ch * 2147483648 + (0x14000000 + d.val * 131072 + a.val * 1024 + b.code * 4) = W := Option.some.inj he
  have hW : pack [(2, 0), (8, b.code), (7, a.val), (7, d.val), (7, 20), (1, bit ch)] = W := by rw [← he]; simp only [pack]; ring
  have hf : Fits [(2, 0), (8, b.code), (7, a.val), (7, d.val), (7, 20), (1, bit ch)] := ⟨by decide, bSel_code_lt b, a.isLt, d.isLt, by decide, bit_lt ch, trivial⟩
  have h0 : fld W 30 24 = 20 := fld_pack hW hf 4 rfl rfl rfl
  have h1 : fld W 31 31 = bit ch := fld_pack hW hf 5 rfl rfl rfl
  have h2 : fld W 1 0 = 0 := fld_pack hW hf 0 rfl rfl rfl
  have h3 : fld W 9 2 = b.code := fld_pack hW hf 1 rfl rfl rfl
  have h4 : fld W 23 17 = d.val := fld_pack hW hf 3 rfl rfl rfl
  have h5 : fld W 16 10 = a.val := fld_pack hW hf 2 rfl rfl rfl
  exact word_of W ch _ ((body_14 W h0).trans (by simp [dec14, h2, h3, h4, h5, need])) h1
theorem vmaxZ (d : VReg) (a : VReg) (b : BSel) : Statement (.vmaxZ d a b) := by
  intro _ ch _ W he
  have he : bit ch * 2147483648 + (0x14000001 + d.val * 131072 + a.val * 1024 + b.code * 4) = W := Option.some.inj he
  have hW : pack [(2, 1), (8, b.code), (7, a.val), (7, d.val), (7, 20), (1, bit ch)] = W := by rw [← he]; simp only [pack]; ring
  have hf : Fits [(2, 1), (8, b.code), (7, a.val), (7, d.val), (7, 20), (1, bit ch)] := ⟨by decide, bSel_code_lt b, a.isLt, d.isLt, by decide, bit_lt ch, trivial⟩
  have h0 : fld W 30 24 = 20 := fld_pack hW hf 4 rfl rfl rfl
  have h1 : fld W 31 31 = bit ch := fld_pack hW hf 5 rfl rfl rfl
  have h2 : fld W 1 0 = 1 := fld_pack hW hf 0 rfl rfl rfl
  have h3 : fld W 9 2 = b.code := fld_pack hW hf 1 rfl rfl rfl
  have h4 : fld W 23 17 = d.val := fld_pack hW hf 3 rfl rfl rfl
  have h5 : fld W 16 10 = a.val := fld_pack hW hf 2 rfl rfl rfl
  exact word_of W ch _ ((body_14 W h0).trans (by simp [dec14, h2, h3, h4, h5, need])) h1
theorem vand (d : VReg) (a : VReg) (b : BSel) : Statement (.vand d a b) := by
  intro _ ch _ W he
  have he : bit ch * 2147483648 + (0x15000000 + d.val * 131072 + a.val * 1024 + b.code * 4) = W := Option.some.inj he
  have hW : pack [(2, 0), (8, b.code), (7, a.val), (7, d.val), (7, 21), (1, bit ch)] = W := by rw [← he]; simp only [pack]; ring
  have hf : Fits [(2, 0), (8, b.code), (7, a.val), (7, d.val), (7, 21), (1, bit ch)] := ⟨by decide, bSel_code_lt b, a.isLt, d.isLt, by decide, bit_lt ch, trivial⟩
  have h0 : fld W 30 24 = 21 := fld_pack hW hf 4 rfl rfl rfl
  have h1 : fld W 31 31 = bit ch := fld_pack hW hf 5 rfl rfl rfl
  have h2 : fld W 1 0 = 0 := fld_pack hW hf 0 rfl rfl rfl
  have h3 : fld W 9 2 = b.code := fld_pack hW hf 1 rfl rfl rfl
  have h4 : fld W 23 17 = d.val := fld_pack hW hf 3 rfl rfl rfl
  have h5 : fld W 16 10 = a.val := fld_pack hW hf 2 rfl rfl rfl
  exact word_of W ch _ ((body_15 W h0).trans (by simp [dec15, h2, h3, h4, h5, need])) h1
theorem vor (d : VReg) (a : VReg) (b : BSel) : Statement (.vor d a b) := by
  intro _ ch _ W he
  have he : bit ch * 2147483648 + (0x15000001 + d.val * 131072 + a.val * 1024 + b.code * 4) = W := Option.some.inj he
  have hW : pack [(2, 1), (8, b.code), (7, a.val), (7, d.val), (7, 21), (1, bit ch)] = W := by rw [← he]; simp only [pack]; ring
  have hf : Fits [(2, 1), (8, b.code), (7, a.val), (7, d.val), (7, 21), (1, bit ch)] := ⟨by decide, bSel_code_lt b, a.isLt, d.isLt, by decide, bit_lt ch, trivial⟩
  have h0 : fld W 30 24 = 21 := fld_pack hW hf 4 rfl rfl rfl
  have h1 : fld W 31 31 = bit ch := fld_pack hW hf 5 rfl rfl rfl
  have h2 : fld W 1 0 = 1 := fld_pack hW hf 0 rfl rfl rfl
  have h3 : fld W 9 2 = b.code := fld_pack hW hf 1 rfl rfl rfl
  have h4 : fld W 23 17 = d.val := fld_pack hW hf 3 rfl rfl rfl
  have h5 : fld W 16 10 = a.val := fld_pack hW hf 2 rfl rfl rfl
  exact word_of W ch _ ((body_15 W h0).trans (by simp [dec15, h2, h3, h4, h5, need])) h1
theorem vxor (d : VReg) (a : VReg) (b : BSel) : Statement (.vxor d a b) := by
  intro _ ch _ W he
  have he : bit ch * 2147483648 + (0x15000002 + d.val * 131072 + a.val * 1024 + b.code * 4) = W := Option.some.inj he
  have hW : pack [(2, 2), (8, b.code), (7, a.val), (7, d.val), (7, 21), (1, bit ch)] = W := by rw [← he]; simp only [pack]; ring
  have hf : Fits [(2, 2), (8, b.code), (7, a.val), (7, d.val), (7, 21), (1, bit ch)] := ⟨by decide, bSel_code_lt b, a.isLt, d.isLt, by decide, bit_lt ch, trivial⟩
  have h0 : fld W 30 24 = 21 := fld_pack hW hf 4 rfl rfl rfl
  have h1 : fld W 31 31 = bit ch := fld_pack hW hf 5 rfl rfl rfl
  have h2 : fld W 1 0 = 2 := fld_pack hW hf 0 rfl rfl rfl
  have h3 : fld W 9 2 = b.code := fld_pack hW hf 1 rfl rfl rfl
  have h4 : fld W 23 17 = d.val := fld_pack hW hf 3 rfl rfl rfl
  have h5 : fld W 16 10 = a.val := fld_pack hW hf 2 rfl rfl rfl
  exact word_of W ch _ ((body_15 W h0).trans (by simp [dec15, h2, h3, h4, h5, need])) h1
theorem vandn (d : VReg) (a : VReg) (b : BSel) : Statement (.vandn d a b) := by
  intro _ ch _ W he
  have he : bit ch * 2147483648 + (0x15000003 + d.val * 131072 + a.val * 1024 + b.code * 4) = W := Option.some.inj he
  have hW : pack [(2, 3), (8, b.code), (7, a.val), (7, d.val), (7, 21), (1, bit ch)] = W := by rw [← he]; simp only [pack]; ring
  have hf : Fits [(2, 3), (8, b.code), (7, a.val), (7, d.val), (7, 21), (1, bit ch)] := ⟨by decide, bSel_code_lt b, a.isLt, d.isLt, by decide, bit_lt ch, trivial⟩
  have h0 : fld W 30 24 = 21 := fld_pack hW hf 4 rfl rfl rfl
  have h1 : fld W 31 31 = bit ch := fld_pack hW hf 5 rfl rfl rfl
  have h2 : fld W 1 0 = 3 := fld_pack hW hf 0 rfl rfl rfl
  have h3 : fld W 9 2 = b.code := fld_pack hW hf 1 rfl rfl rfl
  have h4 : fld W 23 17 = d.val := fld_pack hW hf 3 rfl rfl rfl
  have h5 : fld W 16 10 = a.val := fld_pack hW hf 2 rfl rfl rfl
  exact word_of W ch _ ((body_15 W h0).trans (by simp [dec15, h2, h3, h4, h5, need])) h1
theorem vshl (d : VReg) (a : VReg) (b : BSel) : Statement (.vshl d a b) := by
  intro _ ch _ W he
  have he : bit ch * 2147483648 + (0x16000000 + d.val * 131072 + a.val * 1024 + b.code * 4) = W := Option.some.inj he
  have hW : pack [(2, 0), (8, b.code), (7, a.val), (7, d.val), (7, 22), (1, bit ch)] = W := by rw [← he]; simp only [pack]; ring
  have hf : Fits [(2, 0), (8, b.code), (7, a.val), (7, d.val), (7, 22), (1, bit ch)] := ⟨by decide, bSel_code_lt b, a.isLt, d.isLt, by decide, bit_lt ch, trivial⟩
  have h0 : fld W 30 24 = 22 := fld_pack hW hf 4 rfl rfl rfl
  have h1 : fld W 31 31 = bit ch := fld_pack hW hf 5 rfl rfl rfl
  have h2 : fld W 1 0 = 0 := fld_pack hW hf 0 rfl rfl rfl
  have h3 : fld W 9 2 = b.code := fld_pack hW hf 1 rfl rfl rfl
  have h4 : fld W 23 17 = d.val := fld_pack hW hf 3 rfl rfl rfl
  have h5 : fld W 16 10 = a.val := fld_pack hW hf 2 rfl rfl rfl
  exact word_of W ch _ ((body_16 W h0).trans (by simp [dec16, h2, h3, h4, h5, need])) h1
theorem vshrZ (d : VReg) (a : VReg) (b : BSel) : Statement (.vshrZ d a b) := by
  intro _ ch _ W he
  have he : bit ch * 2147483648 + (0x16000001 + d.val * 131072 + a.val * 1024 + b.code * 4) = W := Option.some.inj he
  have hW : pack [(2, 1), (8, b.code), (7, a.val), (7, d.val), (7, 22), (1, bit ch)] = W := by rw [← he]; simp only [pack]; ring
  have hf : Fits [(2, 1), (8, b.code), (7, a.val), (7, d.val), (7, 22), (1, bit ch)] := ⟨by decide, bSel_code_lt b, a.isLt, d.isLt, by decide, bit_lt ch, trivial⟩
  have h0 : fld W 30 24 = 22 := fld_pack hW hf 4 rfl rfl rfl
  have h1 : fld W 31 31 = bit ch := fld_pack hW hf 5 rfl rfl rfl
  have h2 : fld W 1 0 = 1 := fld_pack hW hf 0 rfl rfl rfl
  have h3 : fld W 9 2 = b.code := fld_pack hW hf 1 rfl rfl rfl
  have h4 : fld W 23 17 = d.val := fld_pack hW hf 3 rfl rfl rfl
  have h5 : fld W 16 10 = a.val := fld_pack hW hf 2 rfl rfl rfl
  exact word_of W ch _ ((body_16 W h0).trans (by simp [dec16, h2, h3, h4, h5, need])) h1
theorem vshrS (d : VReg) (a : VReg) (b : BSel) : Statement (.vshrS d a b) := by
  intro _ ch _ W he
  have he : bit ch * 2147483648 + (0x16000002 + d.val * 131072 + a.val * 1024 + b.code * 4) = W := Option.some.inj he
  have hW : pack [(2, 2), (8, b.code), (7, a.val), (7, d.val), (7, 22), (1, bit ch)] = W := by rw [← he]; simp only [pack]; ring
  have hf : Fits [(2, 2), (8, b.code), (7, a.val), (7, d.val), (7, 22), (1, bit ch)] := ⟨by decide, bSel_code_lt b, a.isLt, d.isLt, by decide, bit_lt ch, trivial⟩
  have h0 : fld W 30 24 = 22 := fld_pack hW hf 4 rfl rfl rfl
  have h1 : fld W 31 31 = bit ch := fld_pack hW hf 5 rfl rfl rfl
  have h2 : fld W 1 0 = 2 := fld_pack hW hf 0 rfl rfl rfl
  have h3 : fld W 9 2 = b.code := fld_pack hW hf 1 rfl rfl rfl
  have h4 : fld W 23 17 = d.val := fld_pack hW hf 3 rfl rfl rfl
  have h5 : fld W 16 10 = a.val := fld_pack hW hf 2 rfl rfl rfl
  exact word_of W ch _ ((body_16 W h0).trans (by simp [dec16, h2, h3, h4, h5, need])) h1
theorem vrot (d : VReg) (a : VReg) (b : BSel) : Statement (.vrot d a b) := by
  intro _ ch _ W he
  have he : bit ch * 2147483648 + (0x16000003 + d.val * 131072 + a.val * 1024 + b.code * 4) = W := Option.some.inj he
  have hW : pack [(2, 3), (8, b.code), (7, a.val), (7, d.val), (7, 22), (1, bit ch)] = W := by rw [← he]; simp only [pack]; ring
  have hf : Fits [(2, 3), (8, b.code), (7, a.val), (7, d.val), (7, 22), (1, bit ch)] := ⟨by decide, bSel_code_lt b, a.isLt, d.isLt, by decide, bit_lt ch, trivial⟩
  have h0 : fld W 30 24 = 22 := fld_pack hW hf 4 rfl rfl rfl
  have h1 : fld W 31 31 = bit ch := fld_pack hW hf 5 rfl rfl rfl
  have h2 : fld W 1 0 = 3 := fld_pack hW hf 0 rfl rfl rfl
  have h3 : fld W 9 2 = b.code := fld_pack hW hf 1 rfl rfl rfl
  have h4 : fld W 23 17 = d.val := fld_pack hW hf 3 rfl rfl rfl
  have h5 : fld W 16 10 = a.val := fld_pack hW hf 2 rfl rfl rfl
  exact word_of W ch _ ((body_16 W h0).trans (by simp [dec16, h2, h3, h4, h5, need])) h1
theorem vlut3 (d : VReg) (a : VReg) (b : BSel) : Statement (.vlut3 d a b) := by
  intro _ ch _ W he
  have he : bit ch * 2147483648 + (0x17000000 + d.val * 131072 + a.val * 1024 + b.code * 4) = W := Option.some.inj he
  have hW : pack [(2, 0), (8, b.code), (7, a.val), (7, d.val), (7, 23), (1, bit ch)] = W := by rw [← he]; simp only [pack]; ring
  have hf : Fits [(2, 0), (8, b.code), (7, a.val), (7, d.val), (7, 23), (1, bit ch)] := ⟨by decide, bSel_code_lt b, a.isLt, d.isLt, by decide, bit_lt ch, trivial⟩
  have h0 : fld W 30 24 = 23 := fld_pack hW hf 4 rfl rfl rfl
  have h1 : fld W 31 31 = bit ch := fld_pack hW hf 5 rfl rfl rfl
  have h2 : fld W 1 0 = 0 := fld_pack hW hf 0 rfl rfl rfl
  have h3 : fld W 9 2 = b.code := fld_pack hW hf 1 rfl rfl rfl
  have h4 : fld W 23 17 = d.val := fld_pack hW hf 3 rfl rfl rfl
  have h5 : fld W 16 10 = a.val := fld_pack hW hf 2 rfl rfl rfl
  exact word_of W ch _ ((body_17 W h0).trans (by simp [dec17, h2, h3, h4, h5, need])) h1
theorem vpopc (d : VReg) (a : VReg) : Statement (.vpopc d a) := by
  intro _ ch _ W he
  have he : bit ch * 2147483648 + (0x18000000 + d.val * 131072 + a.val * 1024) = W := Option.some.inj he
  have hW : pack [(2, 0), (8, 0), (7, a.val), (7, d.val), (7, 24), (1, bit ch)] = W := by rw [← he]; simp only [pack]; ring
  have hf : Fits [(2, 0), (8, 0), (7, a.val), (7, d.val), (7, 24), (1, bit ch)] := ⟨by decide, by decide, a.isLt, d.isLt, by decide, bit_lt ch, trivial⟩
  have h0 : fld W 30 24 = 24 := fld_pack hW hf 4 rfl rfl rfl
  have h1 : fld W 31 31 = bit ch := fld_pack hW hf 5 rfl rfl rfl
  have h2 : fld W 1 0 = 0 := fld_pack hW hf 0 rfl rfl rfl
  have h3 : fld W 9 2 = 0 := fld_pack hW hf 1 rfl rfl rfl
  have h4 : fld W 23 17 = d.val := fld_pack hW hf 3 rfl rfl rfl
  have h5 : fld W 16 10 = a.val := fld_pack hW hf 2 rfl rfl rfl
  exact word_of W ch _ ((body_18 W h0).trans (by simp [dec18, h2, h3, h4, h5, when])) h1
theorem vclz (d : VReg) (a : VReg) : Statement (.vclz d a) := by
  intro _ ch _ W he
  have he : bit ch * 2147483648 + (0x18000001 + d.val * 131072 + a.val * 1024) = W := Option.some.inj he
  have hW : pack [(2, 1), (8, 0), (7, a.val), (7, d.val), (7, 24), (1, bit ch)] = W := by rw [← he]; simp only [pack]; ring
  have hf : Fits [(2, 1), (8, 0), (7, a.val), (7, d.val), (7, 24), (1, bit ch)] := ⟨by decide, by decide, a.isLt, d.isLt, by decide, bit_lt ch, trivial⟩
  have h0 : fld W 30 24 = 24 := fld_pack hW hf 4 rfl rfl rfl
  have h1 : fld W 31 31 = bit ch := fld_pack hW hf 5 rfl rfl rfl
  have h2 : fld W 1 0 = 1 := fld_pack hW hf 0 rfl rfl rfl
  have h3 : fld W 9 2 = 0 := fld_pack hW hf 1 rfl rfl rfl
  have h4 : fld W 23 17 = d.val := fld_pack hW hf 3 rfl rfl rfl
  have h5 : fld W 16 10 = a.val := fld_pack hW hf 2 rfl rfl rfl
  exact word_of W ch _ ((body_18 W h0).trans (by simp [dec18, h2, h3, h4, h5, when])) h1
theorem vctz (d : VReg) (a : VReg) : Statement (.vctz d a) := by
  intro _ ch _ W he
  have he : bit ch * 2147483648 + (0x18000002 + d.val * 131072 + a.val * 1024) = W := Option.some.inj he
  have hW : pack [(2, 2), (8, 0), (7, a.val), (7, d.val), (7, 24), (1, bit ch)] = W := by rw [← he]; simp only [pack]; ring
  have hf : Fits [(2, 2), (8, 0), (7, a.val), (7, d.val), (7, 24), (1, bit ch)] := ⟨by decide, by decide, a.isLt, d.isLt, by decide, bit_lt ch, trivial⟩
  have h0 : fld W 30 24 = 24 := fld_pack hW hf 4 rfl rfl rfl
  have h1 : fld W 31 31 = bit ch := fld_pack hW hf 5 rfl rfl rfl
  have h2 : fld W 1 0 = 2 := fld_pack hW hf 0 rfl rfl rfl
  have h3 : fld W 9 2 = 0 := fld_pack hW hf 1 rfl rfl rfl
  have h4 : fld W 23 17 = d.val := fld_pack hW hf 3 rfl rfl rfl
  have h5 : fld W 16 10 = a.val := fld_pack hW hf 2 rfl rfl rfl
  exact word_of W ch _ ((body_18 W h0).trans (by simp [dec18, h2, h3, h4, h5, when])) h1
theorem vbrev (d : VReg) (a : VReg) : Statement (.vbrev d a) := by
  intro _ ch _ W he
  have he : bit ch * 2147483648 + (0x18000003 + d.val * 131072 + a.val * 1024) = W := Option.some.inj he
  have hW : pack [(2, 3), (8, 0), (7, a.val), (7, d.val), (7, 24), (1, bit ch)] = W := by rw [← he]; simp only [pack]; ring
  have hf : Fits [(2, 3), (8, 0), (7, a.val), (7, d.val), (7, 24), (1, bit ch)] := ⟨by decide, by decide, a.isLt, d.isLt, by decide, bit_lt ch, trivial⟩
  have h0 : fld W 30 24 = 24 := fld_pack hW hf 4 rfl rfl rfl
  have h1 : fld W 31 31 = bit ch := fld_pack hW hf 5 rfl rfl rfl
  have h2 : fld W 1 0 = 3 := fld_pack hW hf 0 rfl rfl rfl
  have h3 : fld W 9 2 = 0 := fld_pack hW hf 1 rfl rfl rfl
  have h4 : fld W 23 17 = d.val := fld_pack hW hf 3 rfl rfl rfl
  have h5 : fld W 16 10 = a.val := fld_pack hW hf 2 rfl rfl rfl
  exact word_of W ch _ ((body_18 W h0).trans (by simp [dec18, h2, h3, h4, h5, when])) h1
theorem vbfxZ (d : VReg) (a : VReg) (b : BSel) : Statement (.vbfxZ d a b) := by
  intro _ ch _ W he
  have he : bit ch * 2147483648 + (0x19000000 + d.val * 131072 + a.val * 1024 + b.code * 4) = W := Option.some.inj he
  have hW : pack [(2, 0), (8, b.code), (7, a.val), (7, d.val), (7, 25), (1, bit ch)] = W := by rw [← he]; simp only [pack]; ring
  have hf : Fits [(2, 0), (8, b.code), (7, a.val), (7, d.val), (7, 25), (1, bit ch)] := ⟨by decide, bSel_code_lt b, a.isLt, d.isLt, by decide, bit_lt ch, trivial⟩
  have h0 : fld W 30 24 = 25 := fld_pack hW hf 4 rfl rfl rfl
  have h1 : fld W 31 31 = bit ch := fld_pack hW hf 5 rfl rfl rfl
  have h2 : fld W 1 0 = 0 := fld_pack hW hf 0 rfl rfl rfl
  have h3 : fld W 9 2 = b.code := fld_pack hW hf 1 rfl rfl rfl
  have h4 : fld W 23 17 = d.val := fld_pack hW hf 3 rfl rfl rfl
  have h5 : fld W 16 10 = a.val := fld_pack hW hf 2 rfl rfl rfl
  exact word_of W ch _ ((body_19 W h0).trans (by simp [dec19, h2, h3, h4, h5, need])) h1
theorem vbfxS (d : VReg) (a : VReg) (b : BSel) : Statement (.vbfxS d a b) := by
  intro _ ch _ W he
  have he : bit ch * 2147483648 + (0x1A000000 + d.val * 131072 + a.val * 1024 + b.code * 4) = W := Option.some.inj he
  have hW : pack [(2, 0), (8, b.code), (7, a.val), (7, d.val), (7, 26), (1, bit ch)] = W := by rw [← he]; simp only [pack]; ring
  have hf : Fits [(2, 0), (8, b.code), (7, a.val), (7, d.val), (7, 26), (1, bit ch)] := ⟨by decide, bSel_code_lt b, a.isLt, d.isLt, by decide, bit_lt ch, trivial⟩
  have h0 : fld W 30 24 = 26 := fld_pack hW hf 4 rfl rfl rfl
  have h1 : fld W 31 31 = bit ch := fld_pack hW hf 5 rfl rfl rfl
  have h2 : fld W 1 0 = 0 := fld_pack hW hf 0 rfl rfl rfl
  have h3 : fld W 9 2 = b.code := fld_pack hW hf 1 rfl rfl rfl
  have h4 : fld W 23 17 = d.val := fld_pack hW hf 3 rfl rfl rfl
  have h5 : fld W 16 10 = a.val := fld_pack hW hf 2 rfl rfl rfl
  exact word_of W ch _ ((body_1A W h0).trans (by simp [dec1A, h2, h3, h4, h5, need])) h1
theorem vbfi (d : VReg) (a : VReg) (b : BSel) : Statement (.vbfi d a b) := by
  intro _ ch _ W he
  have he : bit ch * 2147483648 + (0x1B000000 + d.val * 131072 + a.val * 1024 + b.code * 4) = W := Option.some.inj he
  have hW : pack [(2, 0), (8, b.code), (7, a.val), (7, d.val), (7, 27), (1, bit ch)] = W := by rw [← he]; simp only [pack]; ring
  have hf : Fits [(2, 0), (8, b.code), (7, a.val), (7, d.val), (7, 27), (1, bit ch)] := ⟨by decide, bSel_code_lt b, a.isLt, d.isLt, by decide, bit_lt ch, trivial⟩
  have h0 : fld W 30 24 = 27 := fld_pack hW hf 4 rfl rfl rfl
  have h1 : fld W 31 31 = bit ch := fld_pack hW hf 5 rfl rfl rfl
  have h2 : fld W 1 0 = 0 := fld_pack hW hf 0 rfl rfl rfl
  have h3 : fld W 9 2 = b.code := fld_pack hW hf 1 rfl rfl rfl
  have h4 : fld W 23 17 = d.val := fld_pack hW hf 3 rfl rfl rfl
  have h5 : fld W 16 10 = a.val := fld_pack hW hf 2 rfl rfl rfl
  exact word_of W ch _ ((body_1B W h0).trans (by simp [dec1B, h2, h3, h4, h5, need])) h1
theorem vaddi (d : VReg) (a : VReg) (i : BitVec 10) : Statement (.vaddi d a i) := by
  intro _ ch _ W he
  have he : bit ch * 2147483648 + (0x1C000000 + d.val * 131072 + a.val * 1024 + i.toNat) = W := Option.some.inj he
  have hW : pack [(10, i.toNat), (7, a.val), (7, d.val), (7, 28), (1, bit ch)] = W := by rw [← he]; simp only [pack]; ring
  have hf : Fits [(10, i.toNat), (7, a.val), (7, d.val), (7, 28), (1, bit ch)] := ⟨i.isLt, a.isLt, d.isLt, by decide, bit_lt ch, trivial⟩
  have h0 : fld W 30 24 = 28 := fld_pack hW hf 3 rfl rfl rfl
  have h1 : fld W 31 31 = bit ch := fld_pack hW hf 4 rfl rfl rfl
  have h2 : fld W 23 17 = d.val := fld_pack hW hf 2 rfl rfl rfl
  have h3 : fld W 16 10 = a.val := fld_pack hW hf 1 rfl rfl rfl
  have h4 : fld W 9 0 = i.toNat := fld_pack hW hf 0 rfl rfl rfl
  exact word_of W ch _ ((body_1C W h0).trans (by simp [dec1C, h2, h3, h4])) h1
theorem vcmp (c : CReg) (a : VReg) (b : BSel) (p : ICmp) : Statement (.vcmp c a b p) := by
  intro hw ch _ W he
  have he : bit ch * 2147483648 + (0x1D000000 + c.val * 2097152 + a.val * 16384 + b.code * 64 + p.code * 4) = W := Option.some.inj he
  have hW : pack [(2, 0), (4, p.code), (8, b.code), (7, a.val), (3, c.val), (7, 29), (1, bit ch)] = W := by rw [← he]; simp only [pack]; ring
  have hf : Fits [(2, 0), (4, p.code), (8, b.code), (7, a.val), (3, c.val), (7, 29), (1, bit ch)] := ⟨by decide, iCmp_code_lt p, bSel_code_lt b, a.isLt, c.isLt, by decide, bit_lt ch, trivial⟩
  have h0 : fld W 30 24 = 29 := fld_pack hW hf 5 rfl rfl rfl
  have h1 : fld W 31 31 = bit ch := fld_pack hW hf 6 rfl rfl rfl
  have h2 : fld W 1 0 = 0 := fld_pack hW hf 0 rfl rfl rfl
  have h3 : fld W 5 2 = p.code := fld_pack hW hf 1 rfl rfl rfl
  have h4 : fld W 23 21 = c.val := fld_pack hW hf 4 rfl rfl rfl
  have h5 : fld W 13 6 = b.code := fld_pack hW hf 2 rfl rfl rfl
  have h6 : fld W 20 14 = a.val := fld_pack hW hf 3 rfl rfl rfl
  have hn : c.val ≠ 7 := fun h => of_decide_eq_true (wf_noC7 hw) (Fin.ext h)
  exact word_of W ch _ ((body_1D W h0).trans (by simp [dec1D, h2, h3, h4, h5, h6, hn, need, when])) h1
theorem vsel (d : VReg) (a : VReg) (b : VReg) (c : CReg) : Statement (.vsel d a b c) := by
  intro _ ch _ W he
  have he : bit ch * 2147483648 + (0x1E000000 + d.val * 131072 + a.val * 1024 + b.val * 8 + c.val) = W := Option.some.inj he
  have hW : pack [(3, c.val), (7, b.val), (7, a.val), (7, d.val), (7, 30), (1, bit ch)] = W := by rw [← he]; simp only [pack]; ring
  have hf : Fits [(3, c.val), (7, b.val), (7, a.val), (7, d.val), (7, 30), (1, bit ch)] := ⟨c.isLt, b.isLt, a.isLt, d.isLt, by decide, bit_lt ch, trivial⟩
  have h0 : fld W 30 24 = 30 := fld_pack hW hf 4 rfl rfl rfl
  have h1 : fld W 31 31 = bit ch := fld_pack hW hf 5 rfl rfl rfl
  have h2 : fld W 23 17 = d.val := fld_pack hW hf 3 rfl rfl rfl
  have h3 : fld W 16 10 = a.val := fld_pack hW hf 2 rfl rfl rfl
  have h4 : fld W 9 3 = b.val := fld_pack hW hf 1 rfl rfl rfl
  have h5 : fld W 2 0 = c.val := fld_pack hW hf 0 rfl rfl rfl
  exact word_of W ch _ ((body_1E W h0).trans (by simp [dec1E, h2, h3, h4, h5])) h1
theorem vmov (d : VReg) (a : VReg) : Statement (.vmov d a) := by
  intro _ ch _ W he
  have he : bit ch * 2147483648 + (0x1F000000 + d.val * 131072 + a.val * 1024) = W := Option.some.inj he
  have hW : pack [(1, 0), (7, 0), (2, 0), (7, a.val), (7, d.val), (7, 31), (1, bit ch)] = W := by rw [← he]; simp only [pack]; ring
  have hf : Fits [(1, 0), (7, 0), (2, 0), (7, a.val), (7, d.val), (7, 31), (1, bit ch)] := ⟨by decide, by decide, by decide, a.isLt, d.isLt, by decide, bit_lt ch, trivial⟩
  have h0 : fld W 30 24 = 31 := fld_pack hW hf 5 rfl rfl rfl
  have h1 : fld W 31 31 = bit ch := fld_pack hW hf 6 rfl rfl rfl
  have h2 : fld W 9 8 = 0 := fld_pack hW hf 2 rfl rfl rfl
  have h3 : fld W 0 0 = 0 := fld_pack hW hf 0 rfl rfl rfl
  have h4 : fld W 7 1 = 0 := fld_pack hW hf 1 rfl rfl rfl
  have h5 : fld W 23 17 = d.val := fld_pack hW hf 4 rfl rfl rfl
  have h6 : fld W 16 10 = a.val := fld_pack hW hf 3 rfl rfl rfl
  exact word_of W ch _ ((body_1F W h0).trans (by simp [dec1F, h2, h3, h4, h5, h6, when])) h1
theorem vmovX64 (d : VReg) (a : VReg) : Statement (.vmovX64 d a) := by
  intro hw ch _ W he
  have he : bit ch * 2147483648 + (0x1F000001 + d.val * 131072 + a.val * 1024) = W := Option.some.inj he
  have hW : pack [(1, 1), (7, 0), (2, 0), (7, a.val), (7, d.val), (7, 31), (1, bit ch)] = W := by rw [← he]; simp only [pack]; ring
  have hf : Fits [(1, 1), (7, 0), (2, 0), (7, a.val), (7, d.val), (7, 31), (1, bit ch)] := ⟨by decide, by decide, by decide, a.isLt, d.isLt, by decide, bit_lt ch, trivial⟩
  have h0 : fld W 30 24 = 31 := fld_pack hW hf 5 rfl rfl rfl
  have h1 : fld W 31 31 = bit ch := fld_pack hW hf 6 rfl rfl rfl
  have h2 : fld W 9 8 = 0 := fld_pack hW hf 2 rfl rfl rfl
  have h3 : fld W 0 0 = 1 := fld_pack hW hf 0 rfl rfl rfl
  have h4 : fld W 7 1 = 0 := fld_pack hW hf 1 rfl rfl rfl
  have h5 : fld W 23 17 = d.val := fld_pack hW hf 4 rfl rfl rfl
  have h6 : fld W 16 10 = a.val := fld_pack hW hf 3 rfl rfl rfl
  have hl := wf_limits hw
  exact word_of W ch _ ((body_1F W h0).trans (by simp [dec1F, h2, h3, h4, h5, h6, legal, hl, when])) h1
theorem vlit (d : VReg) (i : BitVec 15) : Statement (.vlit d i) := by
  intro _ ch _ W he
  have he : bit ch * 2147483648 + (0x1F000100 + d.val * 131072 + i.toNat / 256 * 1024 + i.toNat % 256) = W := Option.some.inj he
  have _ := bit_lt ch; have _ := d.isLt; have _ := i.isLt
  obtain ⟨q, hq⟩ : ∃ q, i.toNat / 256 = q := ⟨_, rfl⟩
  obtain ⟨r, hr⟩ : ∃ r, i.toNat % 256 = r := ⟨_, rfl⟩
  have hs : i = BitVec.ofNat 15 (q * 256 + r) := BitVec.eq_of_toNat_eq (by rw [BitVec.toNat_ofNat]; omega)
  have _ : q < 128 := by omega
  have _ : r < 256 := by omega
  rw [hq, hr] at he
  clear hq hr
  have hW : pack [(8, r), (2, 1), (7, q), (7, d.val), (7, 31), (1, bit ch)] = W := by rw [← he]; simp only [pack]; ring
  have hf : Fits [(8, r), (2, 1), (7, q), (7, d.val), (7, 31), (1, bit ch)] := ⟨by omega, by decide, by omega, d.isLt, by decide, bit_lt ch, trivial⟩
  have h0 : fld W 30 24 = 31 := fld_pack hW hf 4 rfl rfl rfl
  have h1 : fld W 31 31 = bit ch := fld_pack hW hf 5 rfl rfl rfl
  have h2 : fld W 9 8 = 1 := fld_pack hW hf 1 rfl rfl rfl
  have h3 : fld W 23 17 = d.val := fld_pack hW hf 3 rfl rfl rfl
  have h4 : fld W 16 10 = q := fld_pack hW hf 2 rfl rfl rfl
  have h5 : fld W 7 0 = r := fld_pack hW hf 0 rfl rfl rfl
  exact word_of W ch _ ((body_1F W h0).trans (by simp [dec1F, hs, h2, h3, h4, h5])) h1
theorem vlaneid (d : VReg) : Statement (.vlaneid d) := by
  intro _ ch _ W he
  have he : bit ch * 2147483648 + (0x1F000200 + d.val * 131072) = W := Option.some.inj he
  have hW : pack [(8, 0), (2, 2), (7, 0), (7, d.val), (7, 31), (1, bit ch)] = W := by rw [← he]; simp only [pack]; ring
  have hf : Fits [(8, 0), (2, 2), (7, 0), (7, d.val), (7, 31), (1, bit ch)] := ⟨by decide, by decide, by decide, d.isLt, by decide, bit_lt ch, trivial⟩
  have h0 : fld W 30 24 = 31 := fld_pack hW hf 4 rfl rfl rfl
  have h1 : fld W 31 31 = bit ch := fld_pack hW hf 5 rfl rfl rfl
  have h2 : fld W 9 8 = 2 := fld_pack hW hf 1 rfl rfl rfl
  have h3 : fld W 7 0 = 0 := fld_pack hW hf 0 rfl rfl rfl
  have h4 : fld W 16 10 = 0 := fld_pack hW hf 2 rfl rfl rfl
  have h5 : fld W 23 17 = d.val := fld_pack hW hf 3 rfl rfl rfl
  exact word_of W ch _ ((body_1F W h0).trans (by simp [dec1F, h2, h3, h4, h5, when])) h1
theorem vballot (d : VReg) (c : CReg) : Statement (.vballot d c) := by
  intro _ ch _ W he
  have he : bit ch * 2147483648 + (0x34000000 + d.val * 131072 + c.val) = W := Option.some.inj he
  have hW : pack [(3, c.val), (14, 0), (7, d.val), (7, 52), (1, bit ch)] = W := by rw [← he]; simp only [pack]; ring
  have hf : Fits [(3, c.val), (14, 0), (7, d.val), (7, 52), (1, bit ch)] := ⟨c.isLt, by decide, d.isLt, by decide, bit_lt ch, trivial⟩
  have h0 : fld W 30 24 = 52 := fld_pack hW hf 3 rfl rfl rfl
  have h1 : fld W 31 31 = bit ch := fld_pack hW hf 4 rfl rfl rfl
  have h2 : fld W 16 3 = 0 := fld_pack hW hf 1 rfl rfl rfl
  have h3 : fld W 23 17 = d.val := fld_pack hW hf 2 rfl rfl rfl
  have h4 : fld W 2 0 = c.val := fld_pack hW hf 0 rfl rfl rfl
  exact word_of W ch _ ((body_34 W h0).trans (by simp [dec34, h2, h3, h4, when])) h1
theorem vmrank (d : VReg) (c : CReg) : Statement (.vmrank d c) := by
  intro _ ch _ W he
  have he : bit ch * 2147483648 + (0x35000000 + d.val * 131072 + c.val) = W := Option.some.inj he
  have hW : pack [(3, c.val), (1, 0), (13, 0), (7, d.val), (7, 53), (1, bit ch)] = W := by rw [← he]; simp only [pack]; ring
  have hf : Fits [(3, c.val), (1, 0), (13, 0), (7, d.val), (7, 53), (1, bit ch)] := ⟨c.isLt, by decide, by decide, d.isLt, by decide, bit_lt ch, trivial⟩
  have h0 : fld W 30 24 = 53 := fld_pack hW hf 4 rfl rfl rfl
  have h1 : fld W 31 31 = bit ch := fld_pack hW hf 5 rfl rfl rfl
  have h2 : fld W 3 3 = 0 := fld_pack hW hf 1 rfl rfl rfl
  have h3 : fld W 16 4 = 0 := fld_pack hW hf 2 rfl rfl rfl
  have h4 : fld W 23 17 = d.val := fld_pack hW hf 3 rfl rfl rfl
  have h5 : fld W 2 0 = c.val := fld_pack hW hf 0 rfl rfl rfl
  exact word_of W ch _ ((body_35 W h0).trans (by simp [dec35, h2, h3, h4, h5, when])) h1
theorem vmrankInc (d : VReg) (c : CReg) : Statement (.vmrankInc d c) := by
  intro _ ch _ W he
  have he : bit ch * 2147483648 + (0x35000008 + d.val * 131072 + c.val) = W := Option.some.inj he
  have hW : pack [(3, c.val), (1, 1), (13, 0), (7, d.val), (7, 53), (1, bit ch)] = W := by rw [← he]; simp only [pack]; ring
  have hf : Fits [(3, c.val), (1, 1), (13, 0), (7, d.val), (7, 53), (1, bit ch)] := ⟨c.isLt, by decide, by decide, d.isLt, by decide, bit_lt ch, trivial⟩
  have h0 : fld W 30 24 = 53 := fld_pack hW hf 4 rfl rfl rfl
  have h1 : fld W 31 31 = bit ch := fld_pack hW hf 5 rfl rfl rfl
  have h2 : fld W 3 3 = 1 := fld_pack hW hf 1 rfl rfl rfl
  have h3 : fld W 16 4 = 0 := fld_pack hW hf 2 rfl rfl rfl
  have h4 : fld W 23 17 = d.val := fld_pack hW hf 3 rfl rfl rfl
  have h5 : fld W 2 0 = c.val := fld_pack hW hf 0 rfl rfl rfl
  exact word_of W ch _ ((body_35 W h0).trans (by simp [dec35, h2, h3, h4, h5, when])) h1
theorem vshflIdx (d : VReg) (a : VReg) (b : BSel) : Statement (.vshflIdx d a b) := by
  intro _ ch _ W he
  have he : bit ch * 2147483648 + (0x36000000 + d.val * 131072 + a.val * 1024 + b.code * 4) = W := Option.some.inj he
  have hW : pack [(2, 0), (8, b.code), (7, a.val), (7, d.val), (7, 54), (1, bit ch)] = W := by rw [← he]; simp only [pack]; ring
  have hf : Fits [(2, 0), (8, b.code), (7, a.val), (7, d.val), (7, 54), (1, bit ch)] := ⟨by decide, bSel_code_lt b, a.isLt, d.isLt, by decide, bit_lt ch, trivial⟩
  have h0 : fld W 30 24 = 54 := fld_pack hW hf 4 rfl rfl rfl
  have h1 : fld W 31 31 = bit ch := fld_pack hW hf 5 rfl rfl rfl
  have h2 : fld W 1 0 = 0 := fld_pack hW hf 0 rfl rfl rfl
  have h3 : fld W 9 2 = b.code := fld_pack hW hf 1 rfl rfl rfl
  have h4 : fld W 23 17 = d.val := fld_pack hW hf 3 rfl rfl rfl
  have h5 : fld W 16 10 = a.val := fld_pack hW hf 2 rfl rfl rfl
  exact word_of W ch _ ((body_36 W h0).trans (by simp [dec36, h2, h3, h4, h5, need])) h1
theorem vshflUp (d : VReg) (a : VReg) (b : BSel) : Statement (.vshflUp d a b) := by
  intro _ ch _ W he
  have he : bit ch * 2147483648 + (0x36000001 + d.val * 131072 + a.val * 1024 + b.code * 4) = W := Option.some.inj he
  have hW : pack [(2, 1), (8, b.code), (7, a.val), (7, d.val), (7, 54), (1, bit ch)] = W := by rw [← he]; simp only [pack]; ring
  have hf : Fits [(2, 1), (8, b.code), (7, a.val), (7, d.val), (7, 54), (1, bit ch)] := ⟨by decide, bSel_code_lt b, a.isLt, d.isLt, by decide, bit_lt ch, trivial⟩
  have h0 : fld W 30 24 = 54 := fld_pack hW hf 4 rfl rfl rfl
  have h1 : fld W 31 31 = bit ch := fld_pack hW hf 5 rfl rfl rfl
  have h2 : fld W 1 0 = 1 := fld_pack hW hf 0 rfl rfl rfl
  have h3 : fld W 9 2 = b.code := fld_pack hW hf 1 rfl rfl rfl
  have h4 : fld W 23 17 = d.val := fld_pack hW hf 3 rfl rfl rfl
  have h5 : fld W 16 10 = a.val := fld_pack hW hf 2 rfl rfl rfl
  exact word_of W ch _ ((body_36 W h0).trans (by simp [dec36, h2, h3, h4, h5, need])) h1
theorem vshflDown (d : VReg) (a : VReg) (b : BSel) : Statement (.vshflDown d a b) := by
  intro _ ch _ W he
  have he : bit ch * 2147483648 + (0x36000002 + d.val * 131072 + a.val * 1024 + b.code * 4) = W := Option.some.inj he
  have hW : pack [(2, 2), (8, b.code), (7, a.val), (7, d.val), (7, 54), (1, bit ch)] = W := by rw [← he]; simp only [pack]; ring
  have hf : Fits [(2, 2), (8, b.code), (7, a.val), (7, d.val), (7, 54), (1, bit ch)] := ⟨by decide, bSel_code_lt b, a.isLt, d.isLt, by decide, bit_lt ch, trivial⟩
  have h0 : fld W 30 24 = 54 := fld_pack hW hf 4 rfl rfl rfl
  have h1 : fld W 31 31 = bit ch := fld_pack hW hf 5 rfl rfl rfl
  have h2 : fld W 1 0 = 2 := fld_pack hW hf 0 rfl rfl rfl
  have h3 : fld W 9 2 = b.code := fld_pack hW hf 1 rfl rfl rfl
  have h4 : fld W 23 17 = d.val := fld_pack hW hf 3 rfl rfl rfl
  have h5 : fld W 16 10 = a.val := fld_pack hW hf 2 rfl rfl rfl
  exact word_of W ch _ ((body_36 W h0).trans (by simp [dec36, h2, h3, h4, h5, need])) h1
theorem vshflXor (d : VReg) (a : VReg) (b : BSel) : Statement (.vshflXor d a b) := by
  intro _ ch _ W he
  have he : bit ch * 2147483648 + (0x36000003 + d.val * 131072 + a.val * 1024 + b.code * 4) = W := Option.some.inj he
  have hW : pack [(2, 3), (8, b.code), (7, a.val), (7, d.val), (7, 54), (1, bit ch)] = W := by rw [← he]; simp only [pack]; ring
  have hf : Fits [(2, 3), (8, b.code), (7, a.val), (7, d.val), (7, 54), (1, bit ch)] := ⟨by decide, bSel_code_lt b, a.isLt, d.isLt, by decide, bit_lt ch, trivial⟩
  have h0 : fld W 30 24 = 54 := fld_pack hW hf 4 rfl rfl rfl
  have h1 : fld W 31 31 = bit ch := fld_pack hW hf 5 rfl rfl rfl
  have h2 : fld W 1 0 = 3 := fld_pack hW hf 0 rfl rfl rfl
  have h3 : fld W 9 2 = b.code := fld_pack hW hf 1 rfl rfl rfl
  have h4 : fld W 23 17 = d.val := fld_pack hW hf 3 rfl rfl rfl
  have h5 : fld W 16 10 = a.val := fld_pack hW hf 2 rfl rfl rfl
  exact word_of W ch _ ((body_36 W h0).trans (by simp [dec36, h2, h3, h4, h5, need])) h1
theorem vfold (d : SReg) (a : VReg) (o : FoldOp) : Statement (.vfold d a o) := by
  intro _ ch _ W he
  have he : bit ch * 2147483648 + (0x37000000 + d.val * 262144 + a.val * 1024 + o.code) = W := Option.some.inj he
  have hW : pack [(4, o.code), (6, 0), (7, a.val), (1, 0), (6, d.val), (7, 55), (1, bit ch)] = W := by rw [← he]; simp only [pack]; ring
  have hf : Fits [(4, o.code), (6, 0), (7, a.val), (1, 0), (6, d.val), (7, 55), (1, bit ch)] := ⟨foldOp_code_lt o, by decide, a.isLt, by decide, d.isLt, by decide, bit_lt ch, trivial⟩
  have h0 : fld W 30 24 = 55 := fld_pack hW hf 5 rfl rfl rfl
  have h1 : fld W 31 31 = bit ch := fld_pack hW hf 6 rfl rfl rfl
  have h2 : fld W 3 0 = o.code := fld_pack hW hf 0 rfl rfl rfl
  have h3 : fld W 9 4 = 0 := fld_pack hW hf 1 rfl rfl rfl
  have h4 : fld W 17 17 = 0 := fld_pack hW hf 3 rfl rfl rfl
  have h5 : fld W 23 18 = d.val := fld_pack hW hf 4 rfl rfl rfl
  have h6 : fld W 16 10 = a.val := fld_pack hW hf 2 rfl rfl rfl
  exact word_of W ch _ ((body_37 W h0).trans (by simp [dec37, h2, h3, h4, h5, h6, need, when])) h1
theorem vscan (d : VReg) (a : VReg) (x : Bool) (o : ScanOp) : Statement (.vscan d a x o) := by
  intro _ ch _ W he
  have he : bit ch * 2147483648 + (0x38000000 + d.val * 131072 + a.val * 1024 + bit x * 16 + o.code) = W := Option.some.inj he
  have hW : pack [(4, o.code), (1, bit x), (5, 0), (7, a.val), (7, d.val), (7, 56), (1, bit ch)] = W := by rw [← he]; simp only [pack]; ring
  have hf : Fits [(4, o.code), (1, bit x), (5, 0), (7, a.val), (7, d.val), (7, 56), (1, bit ch)] := ⟨scanOp_code_lt o, bit_lt x, by decide, a.isLt, d.isLt, by decide, bit_lt ch, trivial⟩
  have h0 : fld W 30 24 = 56 := fld_pack hW hf 5 rfl rfl rfl
  have h1 : fld W 31 31 = bit ch := fld_pack hW hf 6 rfl rfl rfl
  have h2 : fld W 3 0 = o.code := fld_pack hW hf 0 rfl rfl rfl
  have h3 : fld W 9 5 = 0 := fld_pack hW hf 2 rfl rfl rfl
  have h4 : fld W 23 17 = d.val := fld_pack hW hf 4 rfl rfl rfl
  have h5 : fld W 16 10 = a.val := fld_pack hW hf 3 rfl rfl rfl
  have h6 : fld W 4 4 = bit x := fld_pack hW hf 1 rfl rfl rfl
  exact word_of W ch _ ((body_38 W h0).trans (by simp [dec38, h2, h3, h4, h5, h6, need, when])) h1
theorem vregrp (f : VReg) (n : Fin 16) (c : CReg) (p : Fin 256) : Statement (.vregrp f n c p) := by
  intro hw ch _ W he
  have he : bit ch * 2147483648 + (0x39000000 + f.val * 131072 + n.val * 8192 + c.val * 1024 + p.val) = W := Option.some.inj he
  have hW : pack [(8, p.val), (2, 0), (3, c.val), (4, n.val), (7, f.val), (7, 57), (1, bit ch)] = W := by rw [← he]; simp only [pack]; ring
  have hf : Fits [(8, p.val), (2, 0), (3, c.val), (4, n.val), (7, f.val), (7, 57), (1, bit ch)] := ⟨p.isLt, by decide, c.isLt, n.isLt, f.isLt, by decide, bit_lt ch, trivial⟩
  have h0 : fld W 30 24 = 57 := fld_pack hW hf 5 rfl rfl rfl
  have h1 : fld W 31 31 = bit ch := fld_pack hW hf 6 rfl rfl rfl
  have h2 : fld W 9 8 = 0 := fld_pack hW hf 1 rfl rfl rfl
  have h3 : fld W 12 10 = c.val := fld_pack hW hf 2 rfl rfl rfl
  have h4 : fld W 23 17 = f.val := fld_pack hW hf 4 rfl rfl rfl
  have h5 : fld W 16 13 = n.val := fld_pack hW hf 3 rfl rfl rfl
  have h6 : fld W 7 0 = p.val := fld_pack hW hf 0 rfl rfl rfl
  have hl := wf_limits hw
  have hn : c.val ≠ 7 := fun h => of_decide_eq_true (wf_noC7 hw) (Fin.ext h)
  exact word_of W ch _ ((body_39 W h0).trans (by simp [dec39, h2, h3, h4, h5, h6, legal, hl, hn, when])) h1
theorem vfadd (d : VReg) (a : VReg) (b : BSel) (r : RMode) : Statement (.vfadd d a b r) := by
  intro _ ch _ W he
  have he : bit ch * 2147483648 + (0x20000000 + d.val * 131072 + a.val * 1024 + b.code * 4 + r.code) = W := Option.some.inj he
  have hW : pack [(2, r.code), (8, b.code), (7, a.val), (7, d.val), (7, 32), (1, bit ch)] = W := by rw [← he]; simp only [pack]; ring
  have hf : Fits [(2, r.code), (8, b.code), (7, a.val), (7, d.val), (7, 32), (1, bit ch)] := ⟨rMode_code_lt r, bSel_code_lt b, a.isLt, d.isLt, by decide, bit_lt ch, trivial⟩
  have h0 : fld W 30 24 = 32 := fld_pack hW hf 4 rfl rfl rfl
  have h1 : fld W 31 31 = bit ch := fld_pack hW hf 5 rfl rfl rfl
  have h2 : fld W 1 0 = r.code := fld_pack hW hf 0 rfl rfl rfl
  have h3 : fld W 9 2 = b.code := fld_pack hW hf 1 rfl rfl rfl
  have h4 : fld W 23 17 = d.val := fld_pack hW hf 3 rfl rfl rfl
  have h5 : fld W 16 10 = a.val := fld_pack hW hf 2 rfl rfl rfl
  exact word_of W ch _ ((body_20 W h0).trans (by simp [dec20, h2, h3, h4, h5, need])) h1
theorem vfsub (d : VReg) (a : VReg) (b : BSel) (r : RMode) : Statement (.vfsub d a b r) := by
  intro _ ch _ W he
  have he : bit ch * 2147483648 + (0x21000000 + d.val * 131072 + a.val * 1024 + b.code * 4 + r.code) = W := Option.some.inj he
  have hW : pack [(2, r.code), (8, b.code), (7, a.val), (7, d.val), (7, 33), (1, bit ch)] = W := by rw [← he]; simp only [pack]; ring
  have hf : Fits [(2, r.code), (8, b.code), (7, a.val), (7, d.val), (7, 33), (1, bit ch)] := ⟨rMode_code_lt r, bSel_code_lt b, a.isLt, d.isLt, by decide, bit_lt ch, trivial⟩
  have h0 : fld W 30 24 = 33 := fld_pack hW hf 4 rfl rfl rfl
  have h1 : fld W 31 31 = bit ch := fld_pack hW hf 5 rfl rfl rfl
  have h2 : fld W 1 0 = r.code := fld_pack hW hf 0 rfl rfl rfl
  have h3 : fld W 9 2 = b.code := fld_pack hW hf 1 rfl rfl rfl
  have h4 : fld W 23 17 = d.val := fld_pack hW hf 3 rfl rfl rfl
  have h5 : fld W 16 10 = a.val := fld_pack hW hf 2 rfl rfl rfl
  exact word_of W ch _ ((body_21 W h0).trans (by simp [dec21, h2, h3, h4, h5, need])) h1
theorem vfmul (d : VReg) (a : VReg) (b : BSel) (r : RMode) : Statement (.vfmul d a b r) := by
  intro _ ch _ W he
  have he : bit ch * 2147483648 + (0x22000000 + d.val * 131072 + a.val * 1024 + b.code * 4 + r.code) = W := Option.some.inj he
  have hW : pack [(2, r.code), (8, b.code), (7, a.val), (7, d.val), (7, 34), (1, bit ch)] = W := by rw [← he]; simp only [pack]; ring
  have hf : Fits [(2, r.code), (8, b.code), (7, a.val), (7, d.val), (7, 34), (1, bit ch)] := ⟨rMode_code_lt r, bSel_code_lt b, a.isLt, d.isLt, by decide, bit_lt ch, trivial⟩
  have h0 : fld W 30 24 = 34 := fld_pack hW hf 4 rfl rfl rfl
  have h1 : fld W 31 31 = bit ch := fld_pack hW hf 5 rfl rfl rfl
  have h2 : fld W 1 0 = r.code := fld_pack hW hf 0 rfl rfl rfl
  have h3 : fld W 9 2 = b.code := fld_pack hW hf 1 rfl rfl rfl
  have h4 : fld W 23 17 = d.val := fld_pack hW hf 3 rfl rfl rfl
  have h5 : fld W 16 10 = a.val := fld_pack hW hf 2 rfl rfl rfl
  exact word_of W ch _ ((body_22 W h0).trans (by simp [dec22, h2, h3, h4, h5, need])) h1
theorem vfma (d : VReg) (a : VReg) (b : BSel) (r : RMode) : Statement (.vfma d a b r) := by
  intro _ ch _ W he
  have he : bit ch * 2147483648 + (0x23000000 + d.val * 131072 + a.val * 1024 + b.code * 4 + r.code) = W := Option.some.inj he
  have hW : pack [(2, r.code), (8, b.code), (7, a.val), (7, d.val), (7, 35), (1, bit ch)] = W := by rw [← he]; simp only [pack]; ring
  have hf : Fits [(2, r.code), (8, b.code), (7, a.val), (7, d.val), (7, 35), (1, bit ch)] := ⟨rMode_code_lt r, bSel_code_lt b, a.isLt, d.isLt, by decide, bit_lt ch, trivial⟩
  have h0 : fld W 30 24 = 35 := fld_pack hW hf 4 rfl rfl rfl
  have h1 : fld W 31 31 = bit ch := fld_pack hW hf 5 rfl rfl rfl
  have h2 : fld W 1 0 = r.code := fld_pack hW hf 0 rfl rfl rfl
  have h3 : fld W 9 2 = b.code := fld_pack hW hf 1 rfl rfl rfl
  have h4 : fld W 23 17 = d.val := fld_pack hW hf 3 rfl rfl rfl
  have h5 : fld W 16 10 = a.val := fld_pack hW hf 2 rfl rfl rfl
  exact word_of W ch _ ((body_23 W h0).trans (by simp [dec23, h2, h3, h4, h5, need])) h1
theorem vfnma (d : VReg) (a : VReg) (b : BSel) (r : RMode) : Statement (.vfnma d a b r) := by
  intro _ ch _ W he
  have he : bit ch * 2147483648 + (0x24000000 + d.val * 131072 + a.val * 1024 + b.code * 4 + r.code) = W := Option.some.inj he
  have hW : pack [(2, r.code), (8, b.code), (7, a.val), (7, d.val), (7, 36), (1, bit ch)] = W := by rw [← he]; simp only [pack]; ring
  have hf : Fits [(2, r.code), (8, b.code), (7, a.val), (7, d.val), (7, 36), (1, bit ch)] := ⟨rMode_code_lt r, bSel_code_lt b, a.isLt, d.isLt, by decide, bit_lt ch, trivial⟩
  have h0 : fld W 30 24 = 36 := fld_pack hW hf 4 rfl rfl rfl
  have h1 : fld W 31 31 = bit ch := fld_pack hW hf 5 rfl rfl rfl
  have h2 : fld W 1 0 = r.code := fld_pack hW hf 0 rfl rfl rfl
  have h3 : fld W 9 2 = b.code := fld_pack hW hf 1 rfl rfl rfl
  have h4 : fld W 23 17 = d.val := fld_pack hW hf 3 rfl rfl rfl
  have h5 : fld W 16 10 = a.val := fld_pack hW hf 2 rfl rfl rfl
  exact word_of W ch _ ((body_24 W h0).trans (by simp [dec24, h2, h3, h4, h5, need])) h1
theorem vfdiv (d : VReg) (a : VReg) (b : BSel) (r : RMode) : Statement (.vfdiv d a b r) := by
  intro _ ch _ W he
  have he : bit ch * 2147483648 + (0x27000000 + d.val * 131072 + a.val * 1024 + b.code * 4 + r.code) = W := Option.some.inj he
  have hW : pack [(2, r.code), (8, b.code), (7, a.val), (7, d.val), (7, 39), (1, bit ch)] = W := by rw [← he]; simp only [pack]; ring
  have hf : Fits [(2, r.code), (8, b.code), (7, a.val), (7, d.val), (7, 39), (1, bit ch)] := ⟨rMode_code_lt r, bSel_code_lt b, a.isLt, d.isLt, by decide, bit_lt ch, trivial⟩
  have h0 : fld W 30 24 = 39 := fld_pack hW hf 4 rfl rfl rfl
  have h1 : fld W 31 31 = bit ch := fld_pack hW hf 5 rfl rfl rfl
  have h2 : fld W 1 0 = r.code := fld_pack hW hf 0 rfl rfl rfl
  have h3 : fld W 9 2 = b.code := fld_pack hW hf 1 rfl rfl rfl
  have h4 : fld W 23 17 = d.val := fld_pack hW hf 3 rfl rfl rfl
  have h5 : fld W 16 10 = a.val := fld_pack hW hf 2 rfl rfl rfl
  exact word_of W ch _ ((body_27 W h0).trans (by simp [dec27, h2, h3, h4, h5, need])) h1
theorem vfmin (d : VReg) (a : VReg) (b : BSel) : Statement (.vfmin d a b) := by
  intro _ ch _ W he
  have he : bit ch * 2147483648 + (0x25000000 + d.val * 131072 + a.val * 1024 + b.code * 4) = W := Option.some.inj he
  have hW : pack [(2, 0), (8, b.code), (7, a.val), (7, d.val), (7, 37), (1, bit ch)] = W := by rw [← he]; simp only [pack]; ring
  have hf : Fits [(2, 0), (8, b.code), (7, a.val), (7, d.val), (7, 37), (1, bit ch)] := ⟨by decide, bSel_code_lt b, a.isLt, d.isLt, by decide, bit_lt ch, trivial⟩
  have h0 : fld W 30 24 = 37 := fld_pack hW hf 4 rfl rfl rfl
  have h1 : fld W 31 31 = bit ch := fld_pack hW hf 5 rfl rfl rfl
  have h2 : fld W 1 0 = 0 := fld_pack hW hf 0 rfl rfl rfl
  have h3 : fld W 9 2 = b.code := fld_pack hW hf 1 rfl rfl rfl
  have h4 : fld W 23 17 = d.val := fld_pack hW hf 3 rfl rfl rfl
  have h5 : fld W 16 10 = a.val := fld_pack hW hf 2 rfl rfl rfl
  exact word_of W ch _ ((body_25 W h0).trans (by simp [dec25, h2, h3, h4, h5, need])) h1
theorem vfmax (d : VReg) (a : VReg) (b : BSel) : Statement (.vfmax d a b) := by
  intro _ ch _ W he
  have he : bit ch * 2147483648 + (0x25000001 + d.val * 131072 + a.val * 1024 + b.code * 4) = W := Option.some.inj he
  have hW : pack [(2, 1), (8, b.code), (7, a.val), (7, d.val), (7, 37), (1, bit ch)] = W := by rw [← he]; simp only [pack]; ring
  have hf : Fits [(2, 1), (8, b.code), (7, a.val), (7, d.val), (7, 37), (1, bit ch)] := ⟨by decide, bSel_code_lt b, a.isLt, d.isLt, by decide, bit_lt ch, trivial⟩
  have h0 : fld W 30 24 = 37 := fld_pack hW hf 4 rfl rfl rfl
  have h1 : fld W 31 31 = bit ch := fld_pack hW hf 5 rfl rfl rfl
  have h2 : fld W 1 0 = 1 := fld_pack hW hf 0 rfl rfl rfl
  have h3 : fld W 9 2 = b.code := fld_pack hW hf 1 rfl rfl rfl
  have h4 : fld W 23 17 = d.val := fld_pack hW hf 3 rfl rfl rfl
  have h5 : fld W 16 10 = a.val := fld_pack hW hf 2 rfl rfl rfl
  exact word_of W ch _ ((body_25 W h0).trans (by simp [dec25, h2, h3, h4, h5, need])) h1
theorem vfminn (d : VReg) (a : VReg) (b : BSel) : Statement (.vfminn d a b) := by
  intro _ ch _ W he
  have he : bit ch * 2147483648 + (0x25000002 + d.val * 131072 + a.val * 1024 + b.code * 4) = W := Option.some.inj he
  have hW : pack [(2, 2), (8, b.code), (7, a.val), (7, d.val), (7, 37), (1, bit ch)] = W := by rw [← he]; simp only [pack]; ring
  have hf : Fits [(2, 2), (8, b.code), (7, a.val), (7, d.val), (7, 37), (1, bit ch)] := ⟨by decide, bSel_code_lt b, a.isLt, d.isLt, by decide, bit_lt ch, trivial⟩
  have h0 : fld W 30 24 = 37 := fld_pack hW hf 4 rfl rfl rfl
  have h1 : fld W 31 31 = bit ch := fld_pack hW hf 5 rfl rfl rfl
  have h2 : fld W 1 0 = 2 := fld_pack hW hf 0 rfl rfl rfl
  have h3 : fld W 9 2 = b.code := fld_pack hW hf 1 rfl rfl rfl
  have h4 : fld W 23 17 = d.val := fld_pack hW hf 3 rfl rfl rfl
  have h5 : fld W 16 10 = a.val := fld_pack hW hf 2 rfl rfl rfl
  exact word_of W ch _ ((body_25 W h0).trans (by simp [dec25, h2, h3, h4, h5, need])) h1
theorem vfmaxn (d : VReg) (a : VReg) (b : BSel) : Statement (.vfmaxn d a b) := by
  intro _ ch _ W he
  have he : bit ch * 2147483648 + (0x25000003 + d.val * 131072 + a.val * 1024 + b.code * 4) = W := Option.some.inj he
  have hW : pack [(2, 3), (8, b.code), (7, a.val), (7, d.val), (7, 37), (1, bit ch)] = W := by rw [← he]; simp only [pack]; ring
  have hf : Fits [(2, 3), (8, b.code), (7, a.val), (7, d.val), (7, 37), (1, bit ch)] := ⟨by decide, bSel_code_lt b, a.isLt, d.isLt, by decide, bit_lt ch, trivial⟩
  have h0 : fld W 30 24 = 37 := fld_pack hW hf 4 rfl rfl rfl
  have h1 : fld W 31 31 = bit ch := fld_pack hW hf 5 rfl rfl rfl
  have h2 : fld W 1 0 = 3 := fld_pack hW hf 0 rfl rfl rfl
  have h3 : fld W 9 2 = b.code := fld_pack hW hf 1 rfl rfl rfl
  have h4 : fld W 23 17 = d.val := fld_pack hW hf 3 rfl rfl rfl
  have h5 : fld W 16 10 = a.val := fld_pack hW hf 2 rfl rfl rfl
  exact word_of W ch _ ((body_25 W h0).trans (by simp [dec25, h2, h3, h4, h5, need])) h1
theorem vfcmp (c : CReg) (a : VReg) (b : BSel) (p : FCmp) : Statement (.vfcmp c a b p) := by
  intro hw ch _ W he
  have he : bit ch * 2147483648 + (0x26000000 + c.val * 2097152 + a.val * 16384 + b.code * 64 + p.code * 4) = W := Option.some.inj he
  have _ := bit_lt ch; have _ := c.isLt; have _ := a.isLt; have _ := bSel_code_lt b; have _ := fCmp_code_lt p
  have hW : pack [(2, 0), (4, p.code), (8, b.code), (7, a.val), (3, c.val), (7, 38), (1, bit ch)] = W := by rw [← he]; simp only [pack]; ring
  have hf : Fits [(2, 0), (4, p.code), (8, b.code), (7, a.val), (3, c.val), (7, 38), (1, bit ch)] := ⟨by decide, by omega, bSel_code_lt b, a.isLt, c.isLt, by decide, bit_lt ch, trivial⟩
  have h0 : fld W 30 24 = 38 := fld_pack hW hf 5 rfl rfl rfl
  have h1 : fld W 31 31 = bit ch := fld_pack hW hf 6 rfl rfl rfl
  have h2 : fld W 1 0 = 0 := fld_pack hW hf 0 rfl rfl rfl
  have h3 : fld W 5 2 = p.code := fld_pack hW hf 1 rfl rfl rfl
  have h4 : fld W 23 21 = c.val := fld_pack hW hf 4 rfl rfl rfl
  have h5 : fld W 13 6 = b.code := fld_pack hW hf 2 rfl rfl rfl
  have h6 : fld W 20 14 = a.val := fld_pack hW hf 3 rfl rfl rfl
  have hn : c.val ≠ 7 := fun h => of_decide_eq_true (wf_noC7 hw) (Fin.ext h)
  exact word_of W ch _ ((body_26 W h0).trans (by simp [dec26, h2, h3, h4, h5, h6, hn, need, when])) h1
theorem vfsqrt (d : VReg) (a : VReg) : Statement (.vfsqrt d a) := by
  intro _ ch _ W he
  have he : bit ch * 2147483648 + (0x28000000 + d.val * 131072 + a.val * 1024) = W := Option.some.inj he
  have hW : pack [(3, 0), (7, 0), (7, a.val), (7, d.val), (7, 40), (1, bit ch)] = W := by rw [← he]; simp only [pack]; ring
  have hf : Fits [(3, 0), (7, 0), (7, a.val), (7, d.val), (7, 40), (1, bit ch)] := ⟨by decide, by decide, a.isLt, d.isLt, by decide, bit_lt ch, trivial⟩
  have h0 : fld W 30 24 = 40 := fld_pack hW hf 4 rfl rfl rfl
  have h1 : fld W 31 31 = bit ch := fld_pack hW hf 5 rfl rfl rfl
  have h2 : fld W 2 0 = 0 := fld_pack hW hf 0 rfl rfl rfl
  have h3 : fld W 9 3 = 0 := fld_pack hW hf 1 rfl rfl rfl
  have h4 : fld W 23 17 = d.val := fld_pack hW hf 3 rfl rfl rfl
  have h5 : fld W 16 10 = a.val := fld_pack hW hf 2 rfl rfl rfl
  exact word_of W ch _ ((body_28 W h0).trans (by simp [dec28, h2, h3, h4, h5, when])) h1
theorem vfrcp (d : VReg) (a : VReg) : Statement (.vfrcp d a) := by
  intro _ ch _ W he
  have he : bit ch * 2147483648 + (0x28000001 + d.val * 131072 + a.val * 1024) = W := Option.some.inj he
  have hW : pack [(3, 1), (7, 0), (7, a.val), (7, d.val), (7, 40), (1, bit ch)] = W := by rw [← he]; simp only [pack]; ring
  have hf : Fits [(3, 1), (7, 0), (7, a.val), (7, d.val), (7, 40), (1, bit ch)] := ⟨by decide, by decide, a.isLt, d.isLt, by decide, bit_lt ch, trivial⟩
  have h0 : fld W 30 24 = 40 := fld_pack hW hf 4 rfl rfl rfl
  have h1 : fld W 31 31 = bit ch := fld_pack hW hf 5 rfl rfl rfl
  have h2 : fld W 2 0 = 1 := fld_pack hW hf 0 rfl rfl rfl
  have h3 : fld W 9 3 = 0 := fld_pack hW hf 1 rfl rfl rfl
  have h4 : fld W 23 17 = d.val := fld_pack hW hf 3 rfl rfl rfl
  have h5 : fld W 16 10 = a.val := fld_pack hW hf 2 rfl rfl rfl
  exact word_of W ch _ ((body_28 W h0).trans (by simp [dec28, h2, h3, h4, h5, when])) h1
theorem vfrsq (d : VReg) (a : VReg) : Statement (.vfrsq d a) := by
  intro _ ch _ W he
  have he : bit ch * 2147483648 + (0x28000002 + d.val * 131072 + a.val * 1024) = W := Option.some.inj he
  have hW : pack [(3, 2), (7, 0), (7, a.val), (7, d.val), (7, 40), (1, bit ch)] = W := by rw [← he]; simp only [pack]; ring
  have hf : Fits [(3, 2), (7, 0), (7, a.val), (7, d.val), (7, 40), (1, bit ch)] := ⟨by decide, by decide, a.isLt, d.isLt, by decide, bit_lt ch, trivial⟩
  have h0 : fld W 30 24 = 40 := fld_pack hW hf 4 rfl rfl rfl
  have h1 : fld W 31 31 = bit ch := fld_pack hW hf 5 rfl rfl rfl
  have h2 : fld W 2 0 = 2 := fld_pack hW hf 0 rfl rfl rfl
  have h3 : fld W 9 3 = 0 := fld_pack hW hf 1 rfl rfl rfl
  have h4 : fld W 23 17 = d.val := fld_pack hW hf 3 rfl rfl rfl
  have h5 : fld W 16 10 = a.val := fld_pack hW hf 2 rfl rfl rfl
  exact word_of W ch _ ((body_28 W h0).trans (by simp [dec28, h2, h3, h4, h5, when])) h1
theorem vfex2 (d : VReg) (a : VReg) : Statement (.vfex2 d a) := by
  intro _ ch _ W he
  have he : bit ch * 2147483648 + (0x28000003 + d.val * 131072 + a.val * 1024) = W := Option.some.inj he
  have hW : pack [(3, 3), (7, 0), (7, a.val), (7, d.val), (7, 40), (1, bit ch)] = W := by rw [← he]; simp only [pack]; ring
  have hf : Fits [(3, 3), (7, 0), (7, a.val), (7, d.val), (7, 40), (1, bit ch)] := ⟨by decide, by decide, a.isLt, d.isLt, by decide, bit_lt ch, trivial⟩
  have h0 : fld W 30 24 = 40 := fld_pack hW hf 4 rfl rfl rfl
  have h1 : fld W 31 31 = bit ch := fld_pack hW hf 5 rfl rfl rfl
  have h2 : fld W 2 0 = 3 := fld_pack hW hf 0 rfl rfl rfl
  have h3 : fld W 9 3 = 0 := fld_pack hW hf 1 rfl rfl rfl
  have h4 : fld W 23 17 = d.val := fld_pack hW hf 3 rfl rfl rfl
  have h5 : fld W 16 10 = a.val := fld_pack hW hf 2 rfl rfl rfl
  exact word_of W ch _ ((body_28 W h0).trans (by simp [dec28, h2, h3, h4, h5, when])) h1
theorem vflg2 (d : VReg) (a : VReg) : Statement (.vflg2 d a) := by
  intro _ ch _ W he
  have he : bit ch * 2147483648 + (0x28000004 + d.val * 131072 + a.val * 1024) = W := Option.some.inj he
  have hW : pack [(3, 4), (7, 0), (7, a.val), (7, d.val), (7, 40), (1, bit ch)] = W := by rw [← he]; simp only [pack]; ring
  have hf : Fits [(3, 4), (7, 0), (7, a.val), (7, d.val), (7, 40), (1, bit ch)] := ⟨by decide, by decide, a.isLt, d.isLt, by decide, bit_lt ch, trivial⟩
  have h0 : fld W 30 24 = 40 := fld_pack hW hf 4 rfl rfl rfl
  have h1 : fld W 31 31 = bit ch := fld_pack hW hf 5 rfl rfl rfl
  have h2 : fld W 2 0 = 4 := fld_pack hW hf 0 rfl rfl rfl
  have h3 : fld W 9 3 = 0 := fld_pack hW hf 1 rfl rfl rfl
  have h4 : fld W 23 17 = d.val := fld_pack hW hf 3 rfl rfl rfl
  have h5 : fld W 16 10 = a.val := fld_pack hW hf 2 rfl rfl rfl
  exact word_of W ch _ ((body_28 W h0).trans (by simp [dec28, h2, h3, h4, h5, when])) h1
theorem vfabs (d : VReg) (a : VReg) : Statement (.vfabs d a) := by
  intro _ ch _ W he
  have he : bit ch * 2147483648 + (0x29000000 + d.val * 131072 + a.val * 1024) = W := Option.some.inj he
  have hW : pack [(2, 0), (8, 0), (7, a.val), (7, d.val), (7, 41), (1, bit ch)] = W := by rw [← he]; simp only [pack]; ring
  have hf : Fits [(2, 0), (8, 0), (7, a.val), (7, d.val), (7, 41), (1, bit ch)] := ⟨by decide, by decide, a.isLt, d.isLt, by decide, bit_lt ch, trivial⟩
  have h0 : fld W 30 24 = 41 := fld_pack hW hf 4 rfl rfl rfl
  have h1 : fld W 31 31 = bit ch := fld_pack hW hf 5 rfl rfl rfl
  have h2 : fld W 1 0 = 0 := fld_pack hW hf 0 rfl rfl rfl
  have h3 : fld W 9 2 = 0 := fld_pack hW hf 1 rfl rfl rfl
  have h4 : fld W 23 17 = d.val := fld_pack hW hf 3 rfl rfl rfl
  have h5 : fld W 16 10 = a.val := fld_pack hW hf 2 rfl rfl rfl
  exact word_of W ch _ ((body_29 W h0).trans (by simp [dec29, h2, h3, h4, h5, when])) h1
theorem vfneg (d : VReg) (a : VReg) : Statement (.vfneg d a) := by
  intro _ ch _ W he
  have he : bit ch * 2147483648 + (0x29000001 + d.val * 131072 + a.val * 1024) = W := Option.some.inj he
  have hW : pack [(2, 1), (8, 0), (7, a.val), (7, d.val), (7, 41), (1, bit ch)] = W := by rw [← he]; simp only [pack]; ring
  have hf : Fits [(2, 1), (8, 0), (7, a.val), (7, d.val), (7, 41), (1, bit ch)] := ⟨by decide, by decide, a.isLt, d.isLt, by decide, bit_lt ch, trivial⟩
  have h0 : fld W 30 24 = 41 := fld_pack hW hf 4 rfl rfl rfl
  have h1 : fld W 31 31 = bit ch := fld_pack hW hf 5 rfl rfl rfl
  have h2 : fld W 1 0 = 1 := fld_pack hW hf 0 rfl rfl rfl
  have h3 : fld W 9 2 = 0 := fld_pack hW hf 1 rfl rfl rfl
  have h4 : fld W 23 17 = d.val := fld_pack hW hf 3 rfl rfl rfl
  have h5 : fld W 16 10 = a.val := fld_pack hW hf 2 rfl rfl rfl
  exact word_of W ch _ ((body_29 W h0).trans (by simp [dec29, h2, h3, h4, h5, when])) h1
theorem vfcpsgn (d : VReg) (a : VReg) (b : BSel) : Statement (.vfcpsgn d a b) := by
  intro _ ch _ W he
  have he : bit ch * 2147483648 + (0x29000002 + d.val * 131072 + a.val * 1024 + b.code * 4) = W := Option.some.inj he
  have hW : pack [(2, 2), (8, b.code), (7, a.val), (7, d.val), (7, 41), (1, bit ch)] = W := by rw [← he]; simp only [pack]; ring
  have hf : Fits [(2, 2), (8, b.code), (7, a.val), (7, d.val), (7, 41), (1, bit ch)] := ⟨by decide, bSel_code_lt b, a.isLt, d.isLt, by decide, bit_lt ch, trivial⟩
  have h0 : fld W 30 24 = 41 := fld_pack hW hf 4 rfl rfl rfl
  have h1 : fld W 31 31 = bit ch := fld_pack hW hf 5 rfl rfl rfl
  have h2 : fld W 1 0 = 2 := fld_pack hW hf 0 rfl rfl rfl
  have h3 : fld W 9 2 = b.code := fld_pack hW hf 1 rfl rfl rfl
  have h4 : fld W 23 17 = d.val := fld_pack hW hf 3 rfl rfl rfl
  have h5 : fld W 16 10 = a.val := fld_pack hW hf 2 rfl rfl rfl
  exact word_of W ch _ ((body_29 W h0).trans (by simp [dec29, h2, h3, h4, h5, need])) h1
theorem vdadd (d : VReg) (a : VReg) (b : BSel) : Statement (.vdadd d a b) := by
  intro hw ch _ W he
  have he : bit ch * 2147483648 + (0x2A000000 + d.val * 131072 + a.val * 1024 + b.code * 4) = W := Option.some.inj he
  have hW : pack [(2, 0), (8, b.code), (7, a.val), (7, d.val), (7, 42), (1, bit ch)] = W := by rw [← he]; simp only [pack]; ring
  have hf : Fits [(2, 0), (8, b.code), (7, a.val), (7, d.val), (7, 42), (1, bit ch)] := ⟨by decide, bSel_code_lt b, a.isLt, d.isLt, by decide, bit_lt ch, trivial⟩
  have h0 : fld W 30 24 = 42 := fld_pack hW hf 4 rfl rfl rfl
  have h1 : fld W 31 31 = bit ch := fld_pack hW hf 5 rfl rfl rfl
  have h2 : fld W 1 0 = 0 := fld_pack hW hf 0 rfl rfl rfl
  have h3 : fld W 9 2 = b.code := fld_pack hW hf 1 rfl rfl rfl
  have h4 : fld W 23 17 = d.val := fld_pack hW hf 3 rfl rfl rfl
  have h5 : fld W 16 10 = a.val := fld_pack hW hf 2 rfl rfl rfl
  have hl := wf_limits hw
  exact word_of W ch _ ((body_2A W h0).trans (by simp [dec2A, h2, h3, h4, h5, legal, hl, need])) h1
theorem vdsub (d : VReg) (a : VReg) (b : BSel) : Statement (.vdsub d a b) := by
  intro hw ch _ W he
  have he : bit ch * 2147483648 + (0x2A000001 + d.val * 131072 + a.val * 1024 + b.code * 4) = W := Option.some.inj he
  have hW : pack [(2, 1), (8, b.code), (7, a.val), (7, d.val), (7, 42), (1, bit ch)] = W := by rw [← he]; simp only [pack]; ring
  have hf : Fits [(2, 1), (8, b.code), (7, a.val), (7, d.val), (7, 42), (1, bit ch)] := ⟨by decide, bSel_code_lt b, a.isLt, d.isLt, by decide, bit_lt ch, trivial⟩
  have h0 : fld W 30 24 = 42 := fld_pack hW hf 4 rfl rfl rfl
  have h1 : fld W 31 31 = bit ch := fld_pack hW hf 5 rfl rfl rfl
  have h2 : fld W 1 0 = 1 := fld_pack hW hf 0 rfl rfl rfl
  have h3 : fld W 9 2 = b.code := fld_pack hW hf 1 rfl rfl rfl
  have h4 : fld W 23 17 = d.val := fld_pack hW hf 3 rfl rfl rfl
  have h5 : fld W 16 10 = a.val := fld_pack hW hf 2 rfl rfl rfl
  have hl := wf_limits hw
  exact word_of W ch _ ((body_2A W h0).trans (by simp [dec2A, h2, h3, h4, h5, legal, hl, need])) h1
theorem vdmul (d : VReg) (a : VReg) (b : BSel) : Statement (.vdmul d a b) := by
  intro hw ch _ W he
  have he : bit ch * 2147483648 + (0x2A000002 + d.val * 131072 + a.val * 1024 + b.code * 4) = W := Option.some.inj he
  have hW : pack [(2, 2), (8, b.code), (7, a.val), (7, d.val), (7, 42), (1, bit ch)] = W := by rw [← he]; simp only [pack]; ring
  have hf : Fits [(2, 2), (8, b.code), (7, a.val), (7, d.val), (7, 42), (1, bit ch)] := ⟨by decide, bSel_code_lt b, a.isLt, d.isLt, by decide, bit_lt ch, trivial⟩
  have h0 : fld W 30 24 = 42 := fld_pack hW hf 4 rfl rfl rfl
  have h1 : fld W 31 31 = bit ch := fld_pack hW hf 5 rfl rfl rfl
  have h2 : fld W 1 0 = 2 := fld_pack hW hf 0 rfl rfl rfl
  have h3 : fld W 9 2 = b.code := fld_pack hW hf 1 rfl rfl rfl
  have h4 : fld W 23 17 = d.val := fld_pack hW hf 3 rfl rfl rfl
  have h5 : fld W 16 10 = a.val := fld_pack hW hf 2 rfl rfl rfl
  have hl := wf_limits hw
  exact word_of W ch _ ((body_2A W h0).trans (by simp [dec2A, h2, h3, h4, h5, legal, hl, need])) h1
theorem vdfma (d : VReg) (a : VReg) (b : BSel) : Statement (.vdfma d a b) := by
  intro hw ch _ W he
  have he : bit ch * 2147483648 + (0x2A000003 + d.val * 131072 + a.val * 1024 + b.code * 4) = W := Option.some.inj he
  have hW : pack [(2, 3), (8, b.code), (7, a.val), (7, d.val), (7, 42), (1, bit ch)] = W := by rw [← he]; simp only [pack]; ring
  have hf : Fits [(2, 3), (8, b.code), (7, a.val), (7, d.val), (7, 42), (1, bit ch)] := ⟨by decide, bSel_code_lt b, a.isLt, d.isLt, by decide, bit_lt ch, trivial⟩
  have h0 : fld W 30 24 = 42 := fld_pack hW hf 4 rfl rfl rfl
  have h1 : fld W 31 31 = bit ch := fld_pack hW hf 5 rfl rfl rfl
  have h2 : fld W 1 0 = 3 := fld_pack hW hf 0 rfl rfl rfl
  have h3 : fld W 9 2 = b.code := fld_pack hW hf 1 rfl rfl rfl
  have h4 : fld W 23 17 = d.val := fld_pack hW hf 3 rfl rfl rfl
  have h5 : fld W 16 10 = a.val := fld_pack hW hf 2 rfl rfl rfl
  have hl := wf_limits hw
  exact word_of W ch _ ((body_2A W h0).trans (by simp [dec2A, h2, h3, h4, h5, legal, hl, need])) h1
theorem vddiv (d : VReg) (a : VReg) (b : BSel) (r : RMode) : Statement (.vddiv d a b r) := by
  intro hw ch _ W he
  have he : bit ch * 2147483648 + (0x2B000000 + d.val * 131072 + a.val * 1024 + b.code * 4 + r.code) = W := Option.some.inj he
  have hW : pack [(2, r.code), (8, b.code), (7, a.val), (7, d.val), (7, 43), (1, bit ch)] = W := by rw [← he]; simp only [pack]; ring
  have hf : Fits [(2, r.code), (8, b.code), (7, a.val), (7, d.val), (7, 43), (1, bit ch)] := ⟨rMode_code_lt r, bSel_code_lt b, a.isLt, d.isLt, by decide, bit_lt ch, trivial⟩
  have h0 : fld W 30 24 = 43 := fld_pack hW hf 4 rfl rfl rfl
  have h1 : fld W 31 31 = bit ch := fld_pack hW hf 5 rfl rfl rfl
  have h2 : fld W 1 0 = r.code := fld_pack hW hf 0 rfl rfl rfl
  have h3 : fld W 9 2 = b.code := fld_pack hW hf 1 rfl rfl rfl
  have h4 : fld W 23 17 = d.val := fld_pack hW hf 3 rfl rfl rfl
  have h5 : fld W 16 10 = a.val := fld_pack hW hf 2 rfl rfl rfl
  have hl := wf_limits hw
  exact word_of W ch _ ((body_2B W h0).trans (by simp [dec2B, h2, h3, h4, h5, legal, hl, need])) h1
theorem vdcmp (c : CReg) (a : VReg) (b : BSel) (p : FCmp) : Statement (.vdcmp c a b p) := by
  intro hw ch _ W he
  have he : bit ch * 2147483648 + (0x2C000000 + c.val * 2097152 + a.val * 16384 + b.code * 64 + p.code * 4) = W := Option.some.inj he
  have _ := bit_lt ch; have _ := c.isLt; have _ := a.isLt; have _ := bSel_code_lt b; have _ := fCmp_code_lt p
  have hW : pack [(2, 0), (4, p.code), (8, b.code), (7, a.val), (3, c.val), (7, 44), (1, bit ch)] = W := by rw [← he]; simp only [pack]; ring
  have hf : Fits [(2, 0), (4, p.code), (8, b.code), (7, a.val), (3, c.val), (7, 44), (1, bit ch)] := ⟨by decide, by omega, bSel_code_lt b, a.isLt, c.isLt, by decide, bit_lt ch, trivial⟩
  have h0 : fld W 30 24 = 44 := fld_pack hW hf 5 rfl rfl rfl
  have h1 : fld W 31 31 = bit ch := fld_pack hW hf 6 rfl rfl rfl
  have h2 : fld W 1 0 = 0 := fld_pack hW hf 0 rfl rfl rfl
  have h3 : fld W 5 2 = p.code := fld_pack hW hf 1 rfl rfl rfl
  have h4 : fld W 23 21 = c.val := fld_pack hW hf 4 rfl rfl rfl
  have h5 : fld W 13 6 = b.code := fld_pack hW hf 2 rfl rfl rfl
  have h6 : fld W 20 14 = a.val := fld_pack hW hf 3 rfl rfl rfl
  have hl := wf_limits hw
  have hn : c.val ≠ 7 := fun h => of_decide_eq_true (wf_noC7 hw) (Fin.ext h)
  exact word_of W ch _ ((body_2C W h0).trans (by simp [dec2C, h2, h3, h4, h5, h6, legal, hl, hn, need, when])) h1
theorem vdsqrt (d : VReg) (a : VReg) : Statement (.vdsqrt d a) := by
  intro hw ch _ W he
  have he : bit ch * 2147483648 + (0x2D000000 + d.val * 131072 + a.val * 1024) = W := Option.some.inj he
  have hW : pack [(3, 0), (7, 0), (7, a.val), (7, d.val), (7, 45), (1, bit ch)] = W := by rw [← he]; simp only [pack]; ring
  have hf : Fits [(3, 0), (7, 0), (7, a.val), (7, d.val), (7, 45), (1, bit ch)] := ⟨by decide, by decide, a.isLt, d.isLt, by decide, bit_lt ch, trivial⟩
  have h0 : fld W 30 24 = 45 := fld_pack hW hf 4 rfl rfl rfl
  have h1 : fld W 31 31 = bit ch := fld_pack hW hf 5 rfl rfl rfl
  have h2 : fld W 2 0 = 0 := fld_pack hW hf 0 rfl rfl rfl
  have h3 : fld W 9 3 = 0 := fld_pack hW hf 1 rfl rfl rfl
  have h4 : fld W 23 17 = d.val := fld_pack hW hf 3 rfl rfl rfl
  have h5 : fld W 16 10 = a.val := fld_pack hW hf 2 rfl rfl rfl
  have hl := wf_limits hw
  exact word_of W ch _ ((body_2D W h0).trans (by simp [dec2D, h2, h3, h4, h5, legal, hl, when])) h1
theorem vhadd (d : VReg) (a : VReg) (b : BSel) (f : Bool) : Statement (.vhadd d a b f) := by
  intro _ ch _ W he
  have he : bit ch * 2147483648 + (0x2E000000 + d.val * 131072 + a.val * 1024 + b.code * 4 + bit f * 2) = W := Option.some.inj he
  have hW : pack [(1, 0), (1, bit f), (8, b.code), (7, a.val), (7, d.val), (7, 46), (1, bit ch)] = W := by rw [← he]; simp only [pack]; ring
  have hf : Fits [(1, 0), (1, bit f), (8, b.code), (7, a.val), (7, d.val), (7, 46), (1, bit ch)] := ⟨by decide, bit_lt f, bSel_code_lt b, a.isLt, d.isLt, by decide, bit_lt ch, trivial⟩
  have h0 : fld W 30 24 = 46 := fld_pack hW hf 5 rfl rfl rfl
  have h1 : fld W 31 31 = bit ch := fld_pack hW hf 6 rfl rfl rfl
  have h2 : fld W 0 0 = 0 := fld_pack hW hf 0 rfl rfl rfl
  have h3 : fld W 9 2 = b.code := fld_pack hW hf 2 rfl rfl rfl
  have h4 : fld W 23 17 = d.val := fld_pack hW hf 4 rfl rfl rfl
  have h5 : fld W 16 10 = a.val := fld_pack hW hf 3 rfl rfl rfl
  have h6 : fld W 1 1 = bit f := fld_pack hW hf 1 rfl rfl rfl
  exact word_of W ch _ ((body_2E W h0).trans (by simp [dec2E, h2, h3, h4, h5, h6, need])) h1
theorem vhmul (d : VReg) (a : VReg) (b : BSel) (f : Bool) : Statement (.vhmul d a b f) := by
  intro _ ch _ W he
  have he : bit ch * 2147483648 + (0x2E000001 + d.val * 131072 + a.val * 1024 + b.code * 4 + bit f * 2) = W := Option.some.inj he
  have hW : pack [(1, 1), (1, bit f), (8, b.code), (7, a.val), (7, d.val), (7, 46), (1, bit ch)] = W := by rw [← he]; simp only [pack]; ring
  have hf : Fits [(1, 1), (1, bit f), (8, b.code), (7, a.val), (7, d.val), (7, 46), (1, bit ch)] := ⟨by decide, bit_lt f, bSel_code_lt b, a.isLt, d.isLt, by decide, bit_lt ch, trivial⟩
  have h0 : fld W 30 24 = 46 := fld_pack hW hf 5 rfl rfl rfl
  have h1 : fld W 31 31 = bit ch := fld_pack hW hf 6 rfl rfl rfl
  have h2 : fld W 0 0 = 1 := fld_pack hW hf 0 rfl rfl rfl
  have h3 : fld W 9 2 = b.code := fld_pack hW hf 2 rfl rfl rfl
  have h4 : fld W 23 17 = d.val := fld_pack hW hf 4 rfl rfl rfl
  have h5 : fld W 16 10 = a.val := fld_pack hW hf 3 rfl rfl rfl
  have h6 : fld W 1 1 = bit f := fld_pack hW hf 1 rfl rfl rfl
  exact word_of W ch _ ((body_2E W h0).trans (by simp [dec2E, h2, h3, h4, h5, h6, need])) h1
theorem vhfma (d : VReg) (a : VReg) (b : BSel) (f : Bool) : Statement (.vhfma d a b f) := by
  intro _ ch _ W he
  have he : bit ch * 2147483648 + (0x2F000000 + d.val * 131072 + a.val * 1024 + b.code * 4 + bit f * 2) = W := Option.some.inj he
  have hW : pack [(1, 0), (1, bit f), (8, b.code), (7, a.val), (7, d.val), (7, 47), (1, bit ch)] = W := by rw [← he]; simp only [pack]; ring
  have hf : Fits [(1, 0), (1, bit f), (8, b.code), (7, a.val), (7, d.val), (7, 47), (1, bit ch)] := ⟨by decide, bit_lt f, bSel_code_lt b, a.isLt, d.isLt, by decide, bit_lt ch, trivial⟩
  have h0 : fld W 30 24 = 47 := fld_pack hW hf 5 rfl rfl rfl
  have h1 : fld W 31 31 = bit ch := fld_pack hW hf 6 rfl rfl rfl
  have h2 : fld W 0 0 = 0 := fld_pack hW hf 0 rfl rfl rfl
  have h3 : fld W 9 2 = b.code := fld_pack hW hf 2 rfl rfl rfl
  have h4 : fld W 23 17 = d.val := fld_pack hW hf 4 rfl rfl rfl
  have h5 : fld W 16 10 = a.val := fld_pack hW hf 3 rfl rfl rfl
  have h6 : fld W 1 1 = bit f := fld_pack hW hf 1 rfl rfl rfl
  exact word_of W ch _ ((body_2F W h0).trans (by simp [dec2F, h2, h3, h4, h5, h6, need])) h1
theorem vcvt (d : VReg) (a : VReg) (f : CvtT) (t : CvtT) (r : RMode) : Statement (.vcvt d a f t r) := by
  intro hw ch _ W he
  have he : bit ch * 2147483648 + (0x30000000 + d.val * 131072 + a.val * 1024 + f.code * 64 + t.code * 4 + r.code) = W := Option.some.inj he
  have hW : pack [(2, r.code), (4, t.code), (4, f.code), (7, a.val), (7, d.val), (7, 48), (1, bit ch)] = W := by rw [← he]; simp only [pack]; ring
  have hf : Fits [(2, r.code), (4, t.code), (4, f.code), (7, a.val), (7, d.val), (7, 48), (1, bit ch)] := ⟨rMode_code_lt r, cvtT_code_lt t, cvtT_code_lt f, a.isLt, d.isLt, by decide, bit_lt ch, trivial⟩
  have h0 : fld W 30 24 = 48 := fld_pack hW hf 5 rfl rfl rfl
  have h1 : fld W 31 31 = bit ch := fld_pack hW hf 6 rfl rfl rfl
  have h2 : fld W 9 6 = f.code := fld_pack hW hf 2 rfl rfl rfl
  have h3 : fld W 5 2 = t.code := fld_pack hW hf 1 rfl rfl rfl
  have h4 : fld W 1 0 = r.code := fld_pack hW hf 0 rfl rfl rfl
  have h5 : fld W 23 17 = d.val := fld_pack hW hf 4 rfl rfl rfl
  have h6 : fld W 16 10 = a.val := fld_pack hW hf 3 rfl rfl rfl
  have hl := wf_limits hw
  have hf : ¬f = t ∧ (f.isInt = true → t.isInt = false) := by
    obtain ⟨hp, hq⟩ : f ≠ t ∧ ¬(f.isInt = true ∧ t.isInt = true) := of_decide_eq_true (wf_fields hw)
    exact ⟨hp, fun h => by simpa [h] using hq⟩
  exact word_of W ch _ ((body_30 W h0).trans (by simpa [dec30, h2, h3, h4, h5, h6, legal, hl, need, when, hf.1] using hf.2)) h1
theorem vquantD8 (d : VReg) (a : VReg) (b : BSel) : Statement (.vquantD8 d a b) := by
  intro _ ch _ W he
  have he : bit ch * 2147483648 + (0x31000000 + d.val * 131072 + a.val * 1024 + b.code * 4) = W := Option.some.inj he
  have hW : pack [(2, 0), (8, b.code), (7, a.val), (7, d.val), (7, 49), (1, bit ch)] = W := by rw [← he]; simp only [pack]; ring
  have hf : Fits [(2, 0), (8, b.code), (7, a.val), (7, d.val), (7, 49), (1, bit ch)] := ⟨by decide, bSel_code_lt b, a.isLt, d.isLt, by decide, bit_lt ch, trivial⟩
  have h0 : fld W 30 24 = 49 := fld_pack hW hf 4 rfl rfl rfl
  have h1 : fld W 31 31 = bit ch := fld_pack hW hf 5 rfl rfl rfl
  have h2 : fld W 1 0 = 0 := fld_pack hW hf 0 rfl rfl rfl
  have h3 : fld W 9 2 = b.code := fld_pack hW hf 1 rfl rfl rfl
  have h4 : fld W 23 17 = d.val := fld_pack hW hf 3 rfl rfl rfl
  have h5 : fld W 16 10 = a.val := fld_pack hW hf 2 rfl rfl rfl
  exact word_of W ch _ ((body_31 W h0).trans (by simp [dec31, h2, h3, h4, h5, need])) h1
theorem vquantD6 (d : VReg) (a : VReg) (b : BSel) : Statement (.vquantD6 d a b) := by
  intro _ ch _ W he
  have he : bit ch * 2147483648 + (0x31000001 + d.val * 131072 + a.val * 1024 + b.code * 4) = W := Option.some.inj he
  have hW : pack [(2, 1), (8, b.code), (7, a.val), (7, d.val), (7, 49), (1, bit ch)] = W := by rw [← he]; simp only [pack]; ring
  have hf : Fits [(2, 1), (8, b.code), (7, a.val), (7, d.val), (7, 49), (1, bit ch)] := ⟨by decide, bSel_code_lt b, a.isLt, d.isLt, by decide, bit_lt ch, trivial⟩
  have h0 : fld W 30 24 = 49 := fld_pack hW hf 4 rfl rfl rfl
  have h1 : fld W 31 31 = bit ch := fld_pack hW hf 5 rfl rfl rfl
  have h2 : fld W 1 0 = 1 := fld_pack hW hf 0 rfl rfl rfl
  have h3 : fld W 9 2 = b.code := fld_pack hW hf 1 rfl rfl rfl
  have h4 : fld W 23 17 = d.val := fld_pack hW hf 3 rfl rfl rfl
  have h5 : fld W 16 10 = a.val := fld_pack hW hf 2 rfl rfl rfl
  exact word_of W ch _ ((body_31 W h0).trans (by simp [dec31, h2, h3, h4, h5, need])) h1
theorem vquantM4 (d : VReg) (a : VReg) (b : BSel) : Statement (.vquantM4 d a b) := by
  intro _ ch _ W he
  have he : bit ch * 2147483648 + (0x31000002 + d.val * 131072 + a.val * 1024 + b.code * 4) = W := Option.some.inj he
  have hW : pack [(2, 2), (8, b.code), (7, a.val), (7, d.val), (7, 49), (1, bit ch)] = W := by rw [← he]; simp only [pack]; ring
  have hf : Fits [(2, 2), (8, b.code), (7, a.val), (7, d.val), (7, 49), (1, bit ch)] := ⟨by decide, bSel_code_lt b, a.isLt, d.isLt, by decide, bit_lt ch, trivial⟩
  have h0 : fld W 30 24 = 49 := fld_pack hW hf 4 rfl rfl rfl
  have h1 : fld W 31 31 = bit ch := fld_pack hW hf 5 rfl rfl rfl
  have h2 : fld W 1 0 = 2 := fld_pack hW hf 0 rfl rfl rfl
  have h3 : fld W 9 2 = b.code := fld_pack hW hf 1 rfl rfl rfl
  have h4 : fld W 23 17 = d.val := fld_pack hW hf 3 rfl rfl rfl
  have h5 : fld W 16 10 = a.val := fld_pack hW hf 2 rfl rfl rfl
  exact word_of W ch _ ((body_31 W h0).trans (by simp [dec31, h2, h3, h4, h5, need])) h1
theorem vquantS8 (d : VReg) (a : VReg) (b : BSel) : Statement (.vquantS8 d a b) := by
  intro _ ch _ W he
  have he : bit ch * 2147483648 + (0x31000003 + d.val * 131072 + a.val * 1024 + b.code * 4) = W := Option.some.inj he
  have hW : pack [(2, 3), (8, b.code), (7, a.val), (7, d.val), (7, 49), (1, bit ch)] = W := by rw [← he]; simp only [pack]; ring
  have hf : Fits [(2, 3), (8, b.code), (7, a.val), (7, d.val), (7, 49), (1, bit ch)] := ⟨by decide, bSel_code_lt b, a.isLt, d.isLt, by decide, bit_lt ch, trivial⟩
  have h0 : fld W 30 24 = 49 := fld_pack hW hf 4 rfl rfl rfl
  have h1 : fld W 31 31 = bit ch := fld_pack hW hf 5 rfl rfl rfl
  have h2 : fld W 1 0 = 3 := fld_pack hW hf 0 rfl rfl rfl
  have h3 : fld W 9 2 = b.code := fld_pack hW hf 1 rfl rfl rfl
  have h4 : fld W 23 17 = d.val := fld_pack hW hf 3 rfl rfl rfl
  have h5 : fld W 16 10 = a.val := fld_pack hW hf 2 rfl rfl rfl
  exact word_of W ch _ ((body_31 W h0).trans (by simp [dec31, h2, h3, h4, h5, need])) h1
theorem vpack (d : VReg) (a : VReg) (w : PackW) : Statement (.vpack d a w) := by
  intro hw ch _ W he
  have he : bit ch * 2147483648 + (0x32000000 + d.val * 131072 + a.val * 1024 + w.code * 128) = W := Option.some.inj he
  have hW : pack [(7, 0), (2, w.code), (1, 0), (7, a.val), (7, d.val), (7, 50), (1, bit ch)] = W := by rw [← he]; simp only [pack]; ring
  have hf : Fits [(7, 0), (2, w.code), (1, 0), (7, a.val), (7, d.val), (7, 50), (1, bit ch)] := ⟨by decide, packW_code_lt w, by decide, a.isLt, d.isLt, by decide, bit_lt ch, trivial⟩
  have h0 : fld W 30 24 = 50 := fld_pack hW hf 5 rfl rfl rfl
  have h1 : fld W 31 31 = bit ch := fld_pack hW hf 6 rfl rfl rfl
  have h2 : fld W 9 9 = 0 := fld_pack hW hf 2 rfl rfl rfl
  have h3 : fld W 8 7 = w.code := fld_pack hW hf 1 rfl rfl rfl
  have h4 : fld W 6 0 = 0 := fld_pack hW hf 0 rfl rfl rfl
  have h5 : fld W 23 17 = d.val := fld_pack hW hf 4 rfl rfl rfl
  have h6 : fld W 16 10 = a.val := fld_pack hW hf 3 rfl rfl rfl
  have hl := wf_limits hw
  exact word_of W ch _ ((body_32 W h0).trans (by simp [dec32, h2, h3, h4, h5, h6, legal, hl, need, when])) h1
theorem vunpkZ (d : VReg) (a : VReg) (w : PackW) : Statement (.vunpkZ d a w) := by
  intro hw ch _ W he
  have he : bit ch * 2147483648 + (0x32000200 + d.val * 131072 + a.val * 1024 + w.code * 128) = W := Option.some.inj he
  have hW : pack [(6, 0), (1, 0), (2, w.code), (1, 1), (7, a.val), (7, d.val), (7, 50), (1, bit ch)] = W := by rw [← he]; simp only [pack]; ring
  have hf : Fits [(6, 0), (1, 0), (2, w.code), (1, 1), (7, a.val), (7, d.val), (7, 50), (1, bit ch)] := ⟨by decide, by decide, packW_code_lt w, by decide, a.isLt, d.isLt, by decide, bit_lt ch, trivial⟩
  have h0 : fld W 30 24 = 50 := fld_pack hW hf 6 rfl rfl rfl
  have h1 : fld W 31 31 = bit ch := fld_pack hW hf 7 rfl rfl rfl
  have h2 : fld W 9 9 = 1 := fld_pack hW hf 3 rfl rfl rfl
  have h3 : fld W 6 6 = 0 := fld_pack hW hf 1 rfl rfl rfl
  have h4 : fld W 8 7 = w.code := fld_pack hW hf 2 rfl rfl rfl
  have h5 : fld W 5 0 = 0 := fld_pack hW hf 0 rfl rfl rfl
  have h6 : fld W 23 17 = d.val := fld_pack hW hf 5 rfl rfl rfl
  have h7 : fld W 16 10 = a.val := fld_pack hW hf 4 rfl rfl rfl
  have hl := wf_limits hw
  exact word_of W ch _ ((body_32 W h0).trans (by simp [dec32, h2, h3, h4, h5, h6, h7, legal, hl, need, when])) h1
theorem vunpkS (d : VReg) (a : VReg) (w : PackW) : Statement (.vunpkS d a w) := by
  intro hw ch _ W he
  have he : bit ch * 2147483648 + (0x32000240 + d.val * 131072 + a.val * 1024 + w.code * 128) = W := Option.some.inj he
  have hW : pack [(6, 0), (1, 1), (2, w.code), (1, 1), (7, a.val), (7, d.val), (7, 50), (1, bit ch)] = W := by rw [← he]; simp only [pack]; ring
  have hf : Fits [(6, 0), (1, 1), (2, w.code), (1, 1), (7, a.val), (7, d.val), (7, 50), (1, bit ch)] := ⟨by decide, by decide, packW_code_lt w, by decide, a.isLt, d.isLt, by decide, bit_lt ch, trivial⟩
  have h0 : fld W 30 24 = 50 := fld_pack hW hf 6 rfl rfl rfl
  have h1 : fld W 31 31 = bit ch := fld_pack hW hf 7 rfl rfl rfl
  have h2 : fld W 9 9 = 1 := fld_pack hW hf 3 rfl rfl rfl
  have h3 : fld W 6 6 = 1 := fld_pack hW hf 1 rfl rfl rfl
  have h4 : fld W 8 7 = w.code := fld_pack hW hf 2 rfl rfl rfl
  have h5 : fld W 5 0 = 0 := fld_pack hW hf 0 rfl rfl rfl
  have h6 : fld W 23 17 = d.val := fld_pack hW hf 5 rfl rfl rfl
  have h7 : fld W 16 10 = a.val := fld_pack hW hf 4 rfl rfl rfl
  have hl := wf_limits hw
  exact word_of W ch _ ((body_32 W h0).trans (by simp [dec32, h2, h3, h4, h5, h6, h7, legal, hl, need, when])) h1
theorem sgBoard (d : SReg) (a : SReg) : Statement (.sgBoard d a) := by
  intro hw ch _ W he
  have he : bit ch * 2147483648 + (0x3A000000 + d.val * 262144 + a.val * 4096) = W := Option.some.inj he
  have hW : pack [(8, 0), (4, 0), (6, a.val), (6, d.val), (7, 58), (1, bit ch)] = W := by rw [← he]; simp only [pack]; ring
  have hf : Fits [(8, 0), (4, 0), (6, a.val), (6, d.val), (7, 58), (1, bit ch)] := ⟨by decide, by decide, a.isLt, d.isLt, by decide, bit_lt ch, trivial⟩
  have h0 : fld W 30 24 = 58 := fld_pack hW hf 4 rfl rfl rfl
  have h1 : fld W 31 31 = bit ch := fld_pack hW hf 5 rfl rfl rfl
  have h2 : fld W 11 8 = 0 := fld_pack hW hf 1 rfl rfl rfl
  have h3 : fld W 7 0 = 0 := fld_pack hW hf 0 rfl rfl rfl
  have h4 : fld W 23 18 = d.val := fld_pack hW hf 3 rfl rfl rfl
  have h5 : fld W 17 12 = a.val := fld_pack hW hf 2 rfl rfl rfl
  have hl := wf_limits hw
  exact word_of W ch _ ((body_3A W h0).trans (by simp [dec3A, h2, h3, h4, h5, legal, hl, when])) h1
theorem sgAlight (d : SReg) (a : SReg) : Statement (.sgAlight d a) := by
  intro _ ch _ W he
  have he : bit ch * 2147483648 + (0x3B000000 + d.val * 262144 + a.val * 4096) = W := Option.some.inj he
  have hW : pack [(8, 0), (4, 0), (6, a.val), (6, d.val), (7, 59), (1, bit ch)] = W := by rw [← he]; simp only [pack]; ring
  have hf : Fits [(8, 0), (4, 0), (6, a.val), (6, d.val), (7, 59), (1, bit ch)] := ⟨by decide, by decide, a.isLt, d.isLt, by decide, bit_lt ch, trivial⟩
  have h0 : fld W 30 24 = 59 := fld_pack hW hf 4 rfl rfl rfl
  have h1 : fld W 31 31 = bit ch := fld_pack hW hf 5 rfl rfl rfl
  have h2 : fld W 11 8 = 0 := fld_pack hW hf 1 rfl rfl rfl
  have h3 : fld W 7 0 = 0 := fld_pack hW hf 0 rfl rfl rfl
  have h4 : fld W 23 18 = d.val := fld_pack hW hf 3 rfl rfl rfl
  have h5 : fld W 17 12 = a.val := fld_pack hW hf 2 rfl rfl rfl
  exact word_of W ch _ ((body_3B W h0).trans (by simp [dec3B, h2, h3, h4, h5, when])) h1
theorem sgCap (d : SReg) (a : SReg) (r : Bool) : Statement (.sgCap d a r) := by
  intro hw ch _ W he
  have he : bit ch * 2147483648 + (0x3C000000 + d.val * 262144 + a.val * 4096 + bit r * 8) = W := Option.some.inj he
  have hW : pack [(3, 0), (1, bit r), (4, 0), (4, 0), (6, a.val), (6, d.val), (7, 60), (1, bit ch)] = W := by rw [← he]; simp only [pack]; ring
  have hf : Fits [(3, 0), (1, bit r), (4, 0), (4, 0), (6, a.val), (6, d.val), (7, 60), (1, bit ch)] := ⟨by decide, bit_lt r, by decide, by decide, a.isLt, d.isLt, by decide, bit_lt ch, trivial⟩
  have h0 : fld W 30 24 = 60 := fld_pack hW hf 6 rfl rfl rfl
  have h1 : fld W 31 31 = bit ch := fld_pack hW hf 7 rfl rfl rfl
  have h2 : fld W 11 8 = 0 := fld_pack hW hf 3 rfl rfl rfl
  have h3 : fld W 2 0 = 0 := fld_pack hW hf 0 rfl rfl rfl
  have h4 : fld W 7 4 = 0 := fld_pack hW hf 2 rfl rfl rfl
  have h5 : fld W 23 18 = d.val := fld_pack hW hf 5 rfl rfl rfl
  have h6 : fld W 17 12 = a.val := fld_pack hW hf 4 rfl rfl rfl
  have h7 : fld W 3 3 = bit r := fld_pack hW hf 1 rfl rfl rfl
  have hl := wf_limits hw
  exact word_of W ch _ ((body_3C W h0).trans (by simp [dec3C, h2, h3, h4, h5, h6, h7, legal, hl, when])) h1
theorem sgMod (d : SReg) (a : SReg) (o : ModOp) (w : Fin 8) (r : Ord) : Statement (.sgMod d a o w r) := by
  intro _ ch _ W he
  have he : bit ch * 2147483648 + (0x3D000000 + d.val * 262144 + a.val * 4096 + o.code * 256 + w.val * 32 + r.code * 8) = W := Option.some.inj he
  have hW : pack [(3, 0), (2, r.code), (3, w.val), (4, o.code), (6, a.val), (6, d.val), (7, 61), (1, bit ch)] = W := by rw [← he]; simp only [pack]; ring
  have hf : Fits [(3, 0), (2, r.code), (3, w.val), (4, o.code), (6, a.val), (6, d.val), (7, 61), (1, bit ch)] := ⟨by decide, ord_code_lt r, w.isLt, modOp_code_lt o, a.isLt, d.isLt, by decide, bit_lt ch, trivial⟩
  have h0 : fld W 30 24 = 61 := fld_pack hW hf 6 rfl rfl rfl
  have h1 : fld W 31 31 = bit ch := fld_pack hW hf 7 rfl rfl rfl
  have h2 : fld W 11 8 = o.code := fld_pack hW hf 3 rfl rfl rfl
  have h3 : fld W 4 3 = r.code := fld_pack hW hf 1 rfl rfl rfl
  have h4 : fld W 2 0 = 0 := fld_pack hW hf 0 rfl rfl rfl
  have h5 : fld W 23 18 = d.val := fld_pack hW hf 5 rfl rfl rfl
  have h6 : fld W 17 12 = a.val := fld_pack hW hf 4 rfl rfl rfl
  have h7 : fld W 7 5 = w.val := fld_pack hW hf 2 rfl rfl rfl
  exact word_of W ch _ ((body_3D W h0).trans (by simp [dec3D, h2, h3, h4, h5, h6, h7, need, when])) h1
theorem sgArm (d : SReg) (a : SReg) (o : ArmCmp) (w : Fin 8) : Statement (.sgArm d a o w) := by
  intro hw ch _ W he
  have he : bit ch * 2147483648 + (0x3E000000 + d.val * 262144 + a.val * 4096 + o.code * 256 + w.val * 32) = W := Option.some.inj he
  have _ := bit_lt ch; have _ := d.isLt; have _ := a.isLt; have _ := armCmp_code_lt o; have _ := w.isLt
  have hW : pack [(5, 0), (3, w.val), (4, o.code), (6, a.val), (6, d.val), (7, 62), (1, bit ch)] = W := by rw [← he]; simp only [pack]; ring
  have hf : Fits [(5, 0), (3, w.val), (4, o.code), (6, a.val), (6, d.val), (7, 62), (1, bit ch)] := ⟨by decide, w.isLt, by omega, a.isLt, d.isLt, by decide, bit_lt ch, trivial⟩
  have h0 : fld W 30 24 = 62 := fld_pack hW hf 5 rfl rfl rfl
  have h1 : fld W 31 31 = bit ch := fld_pack hW hf 6 rfl rfl rfl
  have h2 : fld W 11 8 = o.code := fld_pack hW hf 2 rfl rfl rfl
  have h3 : fld W 4 0 = 0 := fld_pack hW hf 0 rfl rfl rfl
  have h4 : fld W 23 18 = d.val := fld_pack hW hf 4 rfl rfl rfl
  have h5 : fld W 17 12 = a.val := fld_pack hW hf 3 rfl rfl rfl
  have h6 : fld W 7 5 = w.val := fld_pack hW hf 1 rfl rfl rfl
  have hl := wf_limits hw
  exact word_of W ch _ ((body_3E W h0).trans (by simp [dec3E, h2, h3, h4, h5, h6, legal, hl, need, when])) h1
theorem sgRev (d : SReg) (a : SReg) : Statement (.sgRev d a) := by
  intro _ ch _ W he
  have he : bit ch * 2147483648 + (0x3F000000 + d.val * 262144 + a.val * 4096) = W := Option.some.inj he
  have hW : pack [(8, 0), (4, 0), (6, a.val), (6, d.val), (7, 63), (1, bit ch)] = W := by rw [← he]; simp only [pack]; ring
  have hf : Fits [(8, 0), (4, 0), (6, a.val), (6, d.val), (7, 63), (1, bit ch)] := ⟨by decide, by decide, a.isLt, d.isLt, by decide, bit_lt ch, trivial⟩
  have h0 : fld W 30 24 = 63 := fld_pack hW hf 4 rfl rfl rfl
  have h1 : fld W 31 31 = bit ch := fld_pack hW hf 5 rfl rfl rfl
  have h2 : fld W 11 8 = 0 := fld_pack hW hf 1 rfl rfl rfl
  have h3 : fld W 7 0 = 0 := fld_pack hW hf 0 rfl rfl rfl
  have h4 : fld W 23 18 = d.val := fld_pack hW hf 3 rfl rfl rfl
  have h5 : fld W 17 12 = a.val := fld_pack hW hf 2 rfl rfl rfl
  exact word_of W ch _ ((body_3F W h0).trans (by simp [dec3F, h2, h3, h4, h5, when])) h1
theorem sgRevOfs (d : SReg) : Statement (.sgRevOfs d) := by
  intro _ ch _ W he
  have he : bit ch * 2147483648 + (0x3F000100 + d.val * 262144) = W := Option.some.inj he
  have hW : pack [(8, 0), (4, 1), (6, 0), (6, d.val), (7, 63), (1, bit ch)] = W := by rw [← he]; simp only [pack]; ring
  have hf : Fits [(8, 0), (4, 1), (6, 0), (6, d.val), (7, 63), (1, bit ch)] := ⟨by decide, by decide, by decide, d.isLt, by decide, bit_lt ch, trivial⟩
  have h0 : fld W 30 24 = 63 := fld_pack hW hf 4 rfl rfl rfl
  have h1 : fld W 31 31 = bit ch := fld_pack hW hf 5 rfl rfl rfl
  have h2 : fld W 11 8 = 1 := fld_pack hW hf 1 rfl rfl rfl
  have h3 : fld W 7 0 = 0 := fld_pack hW hf 0 rfl rfl rfl
  have h4 : fld W 17 12 = 0 := fld_pack hW hf 2 rfl rfl rfl
  have h5 : fld W 23 18 = d.val := fld_pack hW hf 3 rfl rfl rfl
  exact word_of W ch _ ((body_3F W h0).trans (by simp [dec3F, h2, h3, h4, h5, when])) h1
theorem br (o : BitVec 19) : Statement (.br o) := by
  intro _ ch _ W he
  have he : bit ch * 2147483648 + (0x40000000 + o.toNat) = W := Option.some.inj he
  have hW : pack [(19, o.toNat), (2, 0), (3, 0), (7, 64), (1, bit ch)] = W := by rw [← he]; simp only [pack]; ring
  have hf : Fits [(19, o.toNat), (2, 0), (3, 0), (7, 64), (1, bit ch)] := ⟨o.isLt, by decide, by decide, by decide, bit_lt ch, trivial⟩
  have h0 : fld W 30 24 = 64 := fld_pack hW hf 3 rfl rfl rfl
  have h1 : fld W 31 31 = bit ch := fld_pack hW hf 4 rfl rfl rfl
  have h2 : fld W 20 19 = 0 := fld_pack hW hf 1 rfl rfl rfl
  have h3 : fld W 23 21 = 0 := fld_pack hW hf 2 rfl rfl rfl
  have h4 : fld W 18 0 = o.toNat := fld_pack hW hf 0 rfl rfl rfl
  exact word_of W ch _ ((body_40 W h0).trans (by simp [dec40, h2, h3, h4, when])) h1
theorem brAny (c : CReg) (o : BitVec 19) : Statement (.brAny c o) := by
  intro _ ch _ W he
  have he : bit ch * 2147483648 + (0x40080000 + c.val * 2097152 + o.toNat) = W := Option.some.inj he
  have hW : pack [(19, o.toNat), (2, 1), (3, c.val), (7, 64), (1, bit ch)] = W := by rw [← he]; simp only [pack]; ring
  have hf : Fits [(19, o.toNat), (2, 1), (3, c.val), (7, 64), (1, bit ch)] := ⟨o.isLt, by decide, c.isLt, by decide, bit_lt ch, trivial⟩
  have h0 : fld W 30 24 = 64 := fld_pack hW hf 3 rfl rfl rfl
  have h1 : fld W 31 31 = bit ch := fld_pack hW hf 4 rfl rfl rfl
  have h2 : fld W 20 19 = 1 := fld_pack hW hf 1 rfl rfl rfl
  have h3 : fld W 23 21 = c.val := fld_pack hW hf 2 rfl rfl rfl
  have h4 : fld W 18 0 = o.toNat := fld_pack hW hf 0 rfl rfl rfl
  exact word_of W ch _ ((body_40 W h0).trans (by simp [dec40, h2, h3, h4])) h1
theorem brAll (c : CReg) (o : BitVec 19) : Statement (.brAll c o) := by
  intro _ ch _ W he
  have he : bit ch * 2147483648 + (0x40100000 + c.val * 2097152 + o.toNat) = W := Option.some.inj he
  have hW : pack [(19, o.toNat), (2, 2), (3, c.val), (7, 64), (1, bit ch)] = W := by rw [← he]; simp only [pack]; ring
  have hf : Fits [(19, o.toNat), (2, 2), (3, c.val), (7, 64), (1, bit ch)] := ⟨o.isLt, by decide, c.isLt, by decide, bit_lt ch, trivial⟩
  have h0 : fld W 30 24 = 64 := fld_pack hW hf 3 rfl rfl rfl
  have h1 : fld W 31 31 = bit ch := fld_pack hW hf 4 rfl rfl rfl
  have h2 : fld W 20 19 = 2 := fld_pack hW hf 1 rfl rfl rfl
  have h3 : fld W 23 21 = c.val := fld_pack hW hf 2 rfl rfl rfl
  have h4 : fld W 18 0 = o.toNat := fld_pack hW hf 0 rfl rfl rfl
  exact word_of W ch _ ((body_40 W h0).trans (by simp [dec40, h2, h3, h4])) h1
theorem brNone (c : CReg) (o : BitVec 19) : Statement (.brNone c o) := by
  intro _ ch _ W he
  have he : bit ch * 2147483648 + (0x40180000 + c.val * 2097152 + o.toNat) = W := Option.some.inj he
  have hW : pack [(19, o.toNat), (2, 3), (3, c.val), (7, 64), (1, bit ch)] = W := by rw [← he]; simp only [pack]; ring
  have hf : Fits [(19, o.toNat), (2, 3), (3, c.val), (7, 64), (1, bit ch)] := ⟨o.isLt, by decide, c.isLt, by decide, bit_lt ch, trivial⟩
  have h0 : fld W 30 24 = 64 := fld_pack hW hf 3 rfl rfl rfl
  have h1 : fld W 31 31 = bit ch := fld_pack hW hf 4 rfl rfl rfl
  have h2 : fld W 20 19 = 3 := fld_pack hW hf 1 rfl rfl rfl
  have h3 : fld W 23 21 = c.val := fld_pack hW hf 2 rfl rfl rfl
  have h4 : fld W 18 0 = o.toNat := fld_pack hW hf 0 rfl rfl rfl
  exact word_of W ch _ ((body_40 W h0).trans (by simp [dec40, h2, h3, h4])) h1
theorem call (o : BitVec 19) : Statement (.call o) := by
  intro _ ch _ W he
  have he : bit ch * 2147483648 + (0x41000000 + o.toNat) = W := Option.some.inj he
  have hW : pack [(19, o.toNat), (2, 0), (3, 0), (7, 65), (1, bit ch)] = W := by rw [← he]; simp only [pack]; ring
  have hf : Fits [(19, o.toNat), (2, 0), (3, 0), (7, 65), (1, bit ch)] := ⟨o.isLt, by decide, by decide, by decide, bit_lt ch, trivial⟩
  have h0 : fld W 30 24 = 65 := fld_pack hW hf 3 rfl rfl rfl
  have h1 : fld W 31 31 = bit ch := fld_pack hW hf 4 rfl rfl rfl
  have h2 : fld W 20 19 = 0 := fld_pack hW hf 1 rfl rfl rfl
  have h3 : fld W 23 21 = 0 := fld_pack hW hf 2 rfl rfl rfl
  have h4 : fld W 18 0 = o.toNat := fld_pack hW hf 0 rfl rfl rfl
  exact word_of W ch _ ((body_41 W h0).trans (by simp [dec41, h2, h3, h4, when])) h1
theorem jmp (d : SReg) (a : SReg) : Statement (.jmp d a) := by
  intro _ ch _ W he
  have he : bit ch * 2147483648 + (0x42000000 + d.val * 262144 + a.val * 4096) = W := Option.some.inj he
  have hW : pack [(6, 0), (6, 0), (6, a.val), (6, d.val), (7, 66), (1, bit ch)] = W := by rw [← he]; simp only [pack]; ring
  have hf : Fits [(6, 0), (6, 0), (6, a.val), (6, d.val), (7, 66), (1, bit ch)] := ⟨by decide, by decide, a.isLt, d.isLt, by decide, bit_lt ch, trivial⟩
  have h0 : fld W 30 24 = 66 := fld_pack hW hf 4 rfl rfl rfl
  have h1 : fld W 31 31 = bit ch := fld_pack hW hf 5 rfl rfl rfl
  have h2 : fld W 5 0 = 0 := fld_pack hW hf 0 rfl rfl rfl
  have h3 : fld W 11 6 = 0 := fld_pack hW hf 1 rfl rfl rfl
  have h4 : fld W 23 18 = d.val := fld_pack hW hf 3 rfl rfl rfl
  have h5 : fld W 17 12 = a.val := fld_pack hW hf 2 rfl rfl rfl
  exact word_of W ch _ ((body_42 W h0).trans (by simp [dec42, h2, h3, h4, h5, when])) h1
theorem brx (b : SReg) (a : VReg) : Statement (.brx b a) := by
  intro _ ch _ W he
  have he : bit ch * 2147483648 + (0x43000000 + b.val * 262144 + a.val * 1024) = W := Option.some.inj he
  have hW : pack [(10, 0), (7, a.val), (1, 0), (6, b.val), (7, 67), (1, bit ch)] = W := by rw [← he]; simp only [pack]; ring
  have hf : Fits [(10, 0), (7, a.val), (1, 0), (6, b.val), (7, 67), (1, bit ch)] := ⟨by decide, a.isLt, by decide, b.isLt, by decide, bit_lt ch, trivial⟩
  have h0 : fld W 30 24 = 67 := fld_pack hW hf 4 rfl rfl rfl
  have h1 : fld W 31 31 = bit ch := fld_pack hW hf 5 rfl rfl rfl
  have h2 : fld W 9 0 = 0 := fld_pack hW hf 0 rfl rfl rfl
  have h3 : fld W 17 17 = 0 := fld_pack hW hf 2 rfl rfl rfl
  have h4 : fld W 23 18 = b.val := fld_pack hW hf 3 rfl rfl rfl
  have h5 : fld W 16 10 = a.val := fld_pack hW hf 1 rfl rfl rfl
  exact word_of W ch _ ((body_43 W h0).trans (by simp [dec43, h2, h3, h4, h5, when])) h1
theorem vif (c : CReg) : Statement (.vif c) := by
  intro _ ch _ W he
  have he : bit ch * 2147483648 + (0x44000000 + c.val * 2097152) = W := Option.some.inj he
  have hW : pack [(21, 0), (3, c.val), (7, 68), (1, bit ch)] = W := by rw [← he]; simp only [pack]; ring
  have hf : Fits [(21, 0), (3, c.val), (7, 68), (1, bit ch)] := ⟨by decide, c.isLt, by decide, bit_lt ch, trivial⟩
  have h0 : fld W 30 24 = 68 := fld_pack hW hf 2 rfl rfl rfl
  have h1 : fld W 31 31 = bit ch := fld_pack hW hf 3 rfl rfl rfl
  have h2 : fld W 20 0 = 0 := fld_pack hW hf 0 rfl rfl rfl
  have h3 : fld W 23 21 = c.val := fld_pack hW hf 1 rfl rfl rfl
  exact word_of W ch _ ((body_44 W h0).trans (by simp [dec44, h2, h3, when])) h1
theorem velse : Statement .velse := by
  intro _ ch _ W he
  have he : bit ch * 2147483648 + (0x45000000) = W := Option.some.inj he
  have hW : pack [(24, 0), (7, 69), (1, bit ch)] = W := by rw [← he]; simp only [pack]; ring
  have hf : Fits [(24, 0), (7, 69), (1, bit ch)] := ⟨by decide, by decide, bit_lt ch, trivial⟩
  have h0 : fld W 30 24 = 69 := fld_pack hW hf 1 rfl rfl rfl
  have h1 : fld W 31 31 = bit ch := fld_pack hW hf 2 rfl rfl rfl
  have h2 : fld W 23 0 = 0 := fld_pack hW hf 0 rfl rfl rfl
  exact word_of W ch _ ((body_45 W h0).trans (by simp [dec45, h2, when])) h1
theorem vend : Statement .vend := by
  intro _ ch _ W he
  have he : bit ch * 2147483648 + (0x46000000) = W := Option.some.inj he
  have hW : pack [(24, 0), (7, 70), (1, bit ch)] = W := by rw [← he]; simp only [pack]; ring
  have hf : Fits [(24, 0), (7, 70), (1, bit ch)] := ⟨by decide, by decide, bit_lt ch, trivial⟩
  have h0 : fld W 30 24 = 70 := fld_pack hW hf 1 rfl rfl rfl
  have h1 : fld W 31 31 = bit ch := fld_pack hW hf 2 rfl rfl rfl
  have h2 : fld W 23 0 = 0 := fld_pack hW hf 0 rfl rfl rfl
  exact word_of W ch _ ((body_46 W h0).trans (by simp [dec46, h2, when])) h1
theorem vkill (c : CReg) : Statement (.vkill c) := by
  intro _ ch _ W he
  have he : bit ch * 2147483648 + (0x47000000 + c.val * 2097152) = W := Option.some.inj he
  have hW : pack [(21, 0), (3, c.val), (7, 71), (1, bit ch)] = W := by rw [← he]; simp only [pack]; ring
  have hf : Fits [(21, 0), (3, c.val), (7, 71), (1, bit ch)] := ⟨by decide, c.isLt, by decide, bit_lt ch, trivial⟩
  have h0 : fld W 30 24 = 71 := fld_pack hW hf 2 rfl rfl rfl
  have h1 : fld W 31 31 = bit ch := fld_pack hW hf 3 rfl rfl rfl
  have h2 : fld W 20 0 = 0 := fld_pack hW hf 0 rfl rfl rfl
  have h3 : fld W 23 21 = c.val := fld_pack hW hf 1 rfl rfl rfl
  exact word_of W ch _ ((body_47 W h0).trans (by simp [dec47, h2, h3, when])) h1
theorem vbrk (c : CReg) (m : Fin 256) : Statement (.vbrk c m) := by
  intro hw ch _ W he
  have he : bit ch * 2147483648 + (0x48000000 + c.val * 2097152 + m.val * 8192) = W := Option.some.inj he
  have _ := bit_lt ch; have _ := c.isLt; have _ := m.isLt
  have hW : pack [(13, 0), (8, m.val), (3, c.val), (7, 72), (1, bit ch)] = W := by rw [← he]; simp only [pack]; ring
  have hf : Fits [(13, 0), (8, m.val), (3, c.val), (7, 72), (1, bit ch)] := ⟨by decide, m.isLt, c.isLt, by decide, bit_lt ch, trivial⟩
  have h0 : fld W 30 24 = 72 := fld_pack hW hf 3 rfl rfl rfl
  have h1 : fld W 31 31 = bit ch := fld_pack hW hf 4 rfl rfl rfl
  have h2 : fld W 12 0 = 0 := fld_pack hW hf 0 rfl rfl rfl
  have h3 : fld W 20 13 = m.val := fld_pack hW hf 1 rfl rfl rfl
  have h4 : fld W 23 21 = c.val := fld_pack hW hf 2 rfl rfl rfl
  obtain ⟨hp, hq⟩ : 1 ≤ m.val ∧ m.val ≤ 254 := of_decide_eq_true (wf_fields hw)
  have hm : ¬m = 0 := fun h => by rw [h] at hp; exact absurd hp (by decide)
  have hm2 : ¬m.val = 255 := by omega
  exact word_of W ch _ ((body_48 W h0).trans (by simp [dec48, h2, h3, h4, when, hm, hm2])) h1
theorem exit : Statement .exit := by
  intro _ ch _ W he
  have he : bit ch * 2147483648 + (0x49000000) = W := Option.some.inj he
  have hW : pack [(24, 0), (7, 73), (1, bit ch)] = W := by rw [← he]; simp only [pack]; ring
  have hf : Fits [(24, 0), (7, 73), (1, bit ch)] := ⟨by decide, by decide, bit_lt ch, trivial⟩
  have h0 : fld W 30 24 = 73 := fld_pack hW hf 1 rfl rfl rfl
  have h1 : fld W 31 31 = bit ch := fld_pack hW hf 2 rfl rfl rfl
  have h2 : fld W 23 0 = 0 := fld_pack hW hf 0 rfl rfl rfl
  exact word_of W ch _ ((body_49 W h0).trans (by simp [dec49, h2, when])) h1
theorem trap (x : BitVec 16) : Statement (.trap x) := by
  intro _ ch _ W he
  have he : bit ch * 2147483648 + (0x4A000000 + x.toNat) = W := Option.some.inj he
  have hW : pack [(16, x.toNat), (8, 0), (7, 74), (1, bit ch)] = W := by rw [← he]; simp only [pack]; ring
  have hf : Fits [(16, x.toNat), (8, 0), (7, 74), (1, bit ch)] := ⟨x.isLt, by decide, by decide, bit_lt ch, trivial⟩
  have h0 : fld W 30 24 = 74 := fld_pack hW hf 2 rfl rfl rfl
  have h1 : fld W 31 31 = bit ch := fld_pack hW hf 3 rfl rfl rfl
  have h2 : fld W 23 16 = 0 := fld_pack hW hf 1 rfl rfl rfl
  have h3 : fld W 15 0 = x.toNat := fld_pack hW hf 0 rfl rfl rfl
  exact word_of W ch _ ((body_4A W h0).trans (by simp [dec4A, h2, h3, when])) h1
theorem brk (x : BitVec 16) : Statement (.brk x) := by
  intro _ ch _ W he
  have he : bit ch * 2147483648 + (0x4B000000 + x.toNat) = W := Option.some.inj he
  have hW : pack [(16, x.toNat), (8, 0), (7, 75), (1, bit ch)] = W := by rw [← he]; simp only [pack]; ring
  have hf : Fits [(16, x.toNat), (8, 0), (7, 75), (1, bit ch)] := ⟨x.isLt, by decide, by decide, bit_lt ch, trivial⟩
  have h0 : fld W 30 24 = 75 := fld_pack hW hf 2 rfl rfl rfl
  have h1 : fld W 31 31 = bit ch := fld_pack hW hf 3 rfl rfl rfl
  have h2 : fld W 23 16 = 0 := fld_pack hW hf 1 rfl rfl rfl
  have h3 : fld W 15 0 = x.toNat := fld_pack hW hf 0 rfl rfl rfl
  exact word_of W ch _ ((body_4B W h0).trans (by simp [dec4B, h2, h3, when])) h1
theorem vldZ (d : VReg) (b : SReg) (o : VReg) (w : Width) (h : Hint) : Statement (.vldZ d b o w h) := by
  intro hw ch _ W he
  have he : bit ch * 2147483648 + (0x50000000 + d.val * 131072 + b.val * 2048 + o.val * 16 + w.code * 4 + h.code) = W := Option.some.inj he
  have hW : pack [(2, h.code), (2, w.code), (7, o.val), (6, b.val), (7, d.val), (7, 80), (1, bit ch)] = W := by rw [← he]; simp only [pack]; ring
  have hf : Fits [(2, h.code), (2, w.code), (7, o.val), (6, b.val), (7, d.val), (7, 80), (1, bit ch)] := ⟨hint_code_lt h, width_code_lt w, o.isLt, b.isLt, d.isLt, by decide, bit_lt ch, trivial⟩
  have h0 : fld W 30 24 = 80 := fld_pack hW hf 5 rfl rfl rfl
  have h1 : fld W 31 31 = bit ch := fld_pack hW hf 6 rfl rfl rfl
  have h2 : fld W 3 2 = w.code := fld_pack hW hf 1 rfl rfl rfl
  have h3 : fld W 1 0 = h.code := fld_pack hW hf 0 rfl rfl rfl
  have h4 : fld W 23 17 = d.val := fld_pack hW hf 4 rfl rfl rfl
  have h5 : fld W 16 11 = b.val := fld_pack hW hf 3 rfl rfl rfl
  have h6 : fld W 10 4 = o.val := fld_pack hW hf 2 rfl rfl rfl
  have hl := wf_limits hw
  exact word_of W ch _ ((body_50 W h0).trans (by simp [dec50, h2, h3, h4, h5, h6, legal, hl, need])) h1
theorem vldS (d : VReg) (b : SReg) (o : VReg) (w : Width) (h : Hint) : Statement (.vldS d b o w h) := by
  intro hw ch _ W he
  have he : bit ch * 2147483648 + (0x51000000 + d.val * 131072 + b.val * 2048 + o.val * 16 + w.code * 4 + h.code) = W := Option.some.inj he
  have hW : pack [(2, h.code), (2, w.code), (7, o.val), (6, b.val), (7, d.val), (7, 81), (1, bit ch)] = W := by rw [← he]; simp only [pack]; ring
  have hf : Fits [(2, h.code), (2, w.code), (7, o.val), (6, b.val), (7, d.val), (7, 81), (1, bit ch)] := ⟨hint_code_lt h, width_code_lt w, o.isLt, b.isLt, d.isLt, by decide, bit_lt ch, trivial⟩
  have h0 : fld W 30 24 = 81 := fld_pack hW hf 5 rfl rfl rfl
  have h1 : fld W 31 31 = bit ch := fld_pack hW hf 6 rfl rfl rfl
  have h2 : fld W 3 2 = w.code := fld_pack hW hf 1 rfl rfl rfl
  have h3 : fld W 1 0 = h.code := fld_pack hW hf 0 rfl rfl rfl
  have h4 : fld W 23 17 = d.val := fld_pack hW hf 4 rfl rfl rfl
  have h5 : fld W 16 11 = b.val := fld_pack hW hf 3 rfl rfl rfl
  have h6 : fld W 10 4 = o.val := fld_pack hW hf 2 rfl rfl rfl
  have hl := wf_limits hw
  exact word_of W ch _ ((body_51 W h0).trans (by simp [dec51, h2, h3, h4, h5, h6, legal, hl, need])) h1
theorem vst (d : VReg) (b : SReg) (o : VReg) (w : Width) (h : Hint) : Statement (.vst d b o w h) := by
  intro hw ch _ W he
  have he : bit ch * 2147483648 + (0x52000000 + d.val * 131072 + b.val * 2048 + o.val * 16 + w.code * 4 + h.code) = W := Option.some.inj he
  have hW : pack [(2, h.code), (2, w.code), (7, o.val), (6, b.val), (7, d.val), (7, 82), (1, bit ch)] = W := by rw [← he]; simp only [pack]; ring
  have hf : Fits [(2, h.code), (2, w.code), (7, o.val), (6, b.val), (7, d.val), (7, 82), (1, bit ch)] := ⟨hint_code_lt h, width_code_lt w, o.isLt, b.isLt, d.isLt, by decide, bit_lt ch, trivial⟩
  have h0 : fld W 30 24 = 82 := fld_pack hW hf 5 rfl rfl rfl
  have h1 : fld W 31 31 = bit ch := fld_pack hW hf 6 rfl rfl rfl
  have h2 : fld W 3 2 = w.code := fld_pack hW hf 1 rfl rfl rfl
  have h3 : fld W 1 0 = h.code := fld_pack hW hf 0 rfl rfl rfl
  have h4 : fld W 23 17 = d.val := fld_pack hW hf 4 rfl rfl rfl
  have h5 : fld W 16 11 = b.val := fld_pack hW hf 3 rfl rfl rfl
  have h6 : fld W 10 4 = o.val := fld_pack hW hf 2 rfl rfl rfl
  have hl := wf_limits hw
  exact word_of W ch _ ((body_52 W h0).trans (by simp [dec52, h2, h3, h4, h5, h6, legal, hl, need])) h1
theorem sld (d : SReg) (b : SReg) (o : BitVec 12) : Statement (.sld d b o) := by
  intro _ ch _ W he
  have he : bit ch * 2147483648 + (0x53000000 + d.val * 262144 + b.val * 4096 + o.toNat) = W := Option.some.inj he
  have hW : pack [(12, o.toNat), (6, b.val), (6, d.val), (7, 83), (1, bit ch)] = W := by rw [← he]; simp only [pack]; ring
  have hf : Fits [(12, o.toNat), (6, b.val), (6, d.val), (7, 83), (1, bit ch)] := ⟨o.isLt, b.isLt, d.isLt, by decide, bit_lt ch, trivial⟩
  have h0 : fld W 30 24 = 83 := fld_pack hW hf 3 rfl rfl rfl
  have h1 : fld W 31 31 = bit ch := fld_pack hW hf 4 rfl rfl rfl
  have h2 : fld W 23 18 = d.val := fld_pack hW hf 2 rfl rfl rfl
  have h3 : fld W 17 12 = b.val := fld_pack hW hf 1 rfl rfl rfl
  have h4 : fld W 11 0 = o.toNat := fld_pack hW hf 0 rfl rfl rfl
  exact word_of W ch _ ((body_53 W h0).trans (by simp [dec53, h2, h3, h4])) h1
theorem slw (d : SReg) (b : SReg) (o : BitVec 12) : Statement (.slw d b o) := by
  intro _ ch _ W he
  have he : bit ch * 2147483648 + (0x54000000 + d.val * 262144 + b.val * 4096 + o.toNat) = W := Option.some.inj he
  have hW : pack [(12, o.toNat), (6, b.val), (6, d.val), (7, 84), (1, bit ch)] = W := by rw [← he]; simp only [pack]; ring
  have hf : Fits [(12, o.toNat), (6, b.val), (6, d.val), (7, 84), (1, bit ch)] := ⟨o.isLt, b.isLt, d.isLt, by decide, bit_lt ch, trivial⟩
  have h0 : fld W 30 24 = 84 := fld_pack hW hf 3 rfl rfl rfl
  have h1 : fld W 31 31 = bit ch := fld_pack hW hf 4 rfl rfl rfl
  have h2 : fld W 23 18 = d.val := fld_pack hW hf 2 rfl rfl rfl
  have h3 : fld W 17 12 = b.val := fld_pack hW hf 1 rfl rfl rfl
  have h4 : fld W 11 0 = o.toNat := fld_pack hW hf 0 rfl rfl rfl
  exact word_of W ch _ ((body_54 W h0).trans (by simp [dec54, h2, h3, h4])) h1
theorem sst (d : SReg) (b : SReg) (o : BitVec 12) : Statement (.sst d b o) := by
  intro _ ch _ W he
  have he : bit ch * 2147483648 + (0x55000000 + d.val * 262144 + b.val * 4096 + o.toNat) = W := Option.some.inj he
  have hW : pack [(12, o.toNat), (6, b.val), (6, d.val), (7, 85), (1, bit ch)] = W := by rw [← he]; simp only [pack]; ring
  have hf : Fits [(12, o.toNat), (6, b.val), (6, d.val), (7, 85), (1, bit ch)] := ⟨o.isLt, b.isLt, d.isLt, by decide, bit_lt ch, trivial⟩
  have h0 : fld W 30 24 = 85 := fld_pack hW hf 3 rfl rfl rfl
  have h1 : fld W 31 31 = bit ch := fld_pack hW hf 4 rfl rfl rfl
  have h2 : fld W 23 18 = d.val := fld_pack hW hf 2 rfl rfl rfl
  have h3 : fld W 17 12 = b.val := fld_pack hW hf 1 rfl rfl rfl
  have h4 : fld W 11 0 = o.toNat := fld_pack hW hf 0 rfl rfl rfl
  exact word_of W ch _ ((body_55 W h0).trans (by simp [dec55, h2, h3, h4])) h1
theorem ssw (d : SReg) (b : SReg) (o : BitVec 12) : Statement (.ssw d b o) := by
  intro _ ch _ W he
  have he : bit ch * 2147483648 + (0x56000000 + d.val * 262144 + b.val * 4096 + o.toNat) = W := Option.some.inj he
  have hW : pack [(12, o.toNat), (6, b.val), (6, d.val), (7, 86), (1, bit ch)] = W := by rw [← he]; simp only [pack]; ring
  have hf : Fits [(12, o.toNat), (6, b.val), (6, d.val), (7, 86), (1, bit ch)] := ⟨o.isLt, b.isLt, d.isLt, by decide, bit_lt ch, trivial⟩
  have h0 : fld W 30 24 = 86 := fld_pack hW hf 3 rfl rfl rfl
  have h1 : fld W 31 31 = bit ch := fld_pack hW hf 4 rfl rfl rfl
  have h2 : fld W 23 18 = d.val := fld_pack hW hf 2 rfl rfl rfl
  have h3 : fld W 17 12 = b.val := fld_pack hW hf 1 rfl rfl rfl
  have h4 : fld W 11 0 = o.toNat := fld_pack hW hf 0 rfl rfl rfl
  exact word_of W ch _ ((body_56 W h0).trans (by simp [dec56, h2, h3, h4])) h1
theorem vlds (d : VReg) (b : SReg) (o : VReg) (w : Width) : Statement (.vlds d b o w) := by
  intro hw ch _ W he
  have he : bit ch * 2147483648 + (0x57000000 + d.val * 131072 + b.val * 2048 + o.val * 16 + w.code * 4) = W := Option.some.inj he
  have hW : pack [(2, 0), (2, w.code), (7, o.val), (6, b.val), (7, d.val), (7, 87), (1, bit ch)] = W := by rw [← he]; simp only [pack]; ring
  have hf : Fits [(2, 0), (2, w.code), (7, o.val), (6, b.val), (7, d.val), (7, 87), (1, bit ch)] := ⟨by decide, width_code_lt w, o.isLt, b.isLt, d.isLt, by decide, bit_lt ch, trivial⟩
  have h0 : fld W 30 24 = 87 := fld_pack hW hf 5 rfl rfl rfl
  have h1 : fld W 31 31 = bit ch := fld_pack hW hf 6 rfl rfl rfl
  have h2 : fld W 3 2 = w.code := fld_pack hW hf 1 rfl rfl rfl
  have h3 : fld W 1 0 = 0 := fld_pack hW hf 0 rfl rfl rfl
  have h4 : fld W 23 17 = d.val := fld_pack hW hf 4 rfl rfl rfl
  have h5 : fld W 16 11 = b.val := fld_pack hW hf 3 rfl rfl rfl
  have h6 : fld W 10 4 = o.val := fld_pack hW hf 2 rfl rfl rfl
  have hl := wf_limits hw
  exact word_of W ch _ ((body_57 W h0).trans (by simp [dec57, h2, h3, h4, h5, h6, legal, hl, need, when])) h1
theorem vsts (d : VReg) (b : SReg) (o : VReg) (w : Width) : Statement (.vsts d b o w) := by
  intro hw ch _ W he
  have he : bit ch * 2147483648 + (0x58000000 + d.val * 131072 + b.val * 2048 + o.val * 16 + w.code * 4) = W := Option.some.inj he
  have hW : pack [(2, 0), (2, w.code), (7, o.val), (6, b.val), (7, d.val), (7, 88), (1, bit ch)] = W := by rw [← he]; simp only [pack]; ring
  have hf : Fits [(2, 0), (2, w.code), (7, o.val), (6, b.val), (7, d.val), (7, 88), (1, bit ch)] := ⟨by decide, width_code_lt w, o.isLt, b.isLt, d.isLt, by decide, bit_lt ch, trivial⟩
  have h0 : fld W 30 24 = 88 := fld_pack hW hf 5 rfl rfl rfl
  have h1 : fld W 31 31 = bit ch := fld_pack hW hf 6 rfl rfl rfl
  have h2 : fld W 3 2 = w.code := fld_pack hW hf 1 rfl rfl rfl
  have h3 : fld W 1 0 = 0 := fld_pack hW hf 0 rfl rfl rfl
  have h4 : fld W 23 17 = d.val := fld_pack hW hf 4 rfl rfl rfl
  have h5 : fld W 16 11 = b.val := fld_pack hW hf 3 rfl rfl rfl
  have h6 : fld W 10 4 = o.val := fld_pack hW hf 2 rfl rfl rfl
  have hl := wf_limits hw
  exact word_of W ch _ ((body_58 W h0).trans (by simp [dec58, h2, h3, h4, h5, h6, legal, hl, need, when])) h1
theorem vlda (d : VReg) (b : SReg) (o : VReg) (w : Width) : Statement (.vlda d b o w) := by
  intro hw ch _ W he
  have he : bit ch * 2147483648 + (0x59000000 + d.val * 131072 + b.val * 2048 + o.val * 16 + w.code * 4) = W := Option.some.inj he
  have hW : pack [(2, 0), (2, w.code), (7, o.val), (6, b.val), (7, d.val), (7, 89), (1, bit ch)] = W := by rw [← he]; simp only [pack]; ring
  have hf : Fits [(2, 0), (2, w.code), (7, o.val), (6, b.val), (7, d.val), (7, 89), (1, bit ch)] := ⟨by decide, width_code_lt w, o.isLt, b.isLt, d.isLt, by decide, bit_lt ch, trivial⟩
  have h0 : fld W 30 24 = 89 := fld_pack hW hf 5 rfl rfl rfl
  have h1 : fld W 31 31 = bit ch := fld_pack hW hf 6 rfl rfl rfl
  have h2 : fld W 3 2 = w.code := fld_pack hW hf 1 rfl rfl rfl
  have h3 : fld W 1 0 = 0 := fld_pack hW hf 0 rfl rfl rfl
  have h4 : fld W 23 17 = d.val := fld_pack hW hf 4 rfl rfl rfl
  have h5 : fld W 16 11 = b.val := fld_pack hW hf 3 rfl rfl rfl
  have h6 : fld W 10 4 = o.val := fld_pack hW hf 2 rfl rfl rfl
  have hl := wf_limits hw
  exact word_of W ch _ ((body_59 W h0).trans (by simp [dec59, h2, h3, h4, h5, h6, legal, hl, need, when])) h1
theorem vsta (d : VReg) (b : SReg) (o : VReg) (w : Width) : Statement (.vsta d b o w) := by
  intro hw ch _ W he
  have he : bit ch * 2147483648 + (0x5A000000 + d.val * 131072 + b.val * 2048 + o.val * 16 + w.code * 4) = W := Option.some.inj he
  have hW : pack [(2, 0), (2, w.code), (7, o.val), (6, b.val), (7, d.val), (7, 90), (1, bit ch)] = W := by rw [← he]; simp only [pack]; ring
  have hf : Fits [(2, 0), (2, w.code), (7, o.val), (6, b.val), (7, d.val), (7, 90), (1, bit ch)] := ⟨by decide, width_code_lt w, o.isLt, b.isLt, d.isLt, by decide, bit_lt ch, trivial⟩
  have h0 : fld W 30 24 = 90 := fld_pack hW hf 5 rfl rfl rfl
  have h1 : fld W 31 31 = bit ch := fld_pack hW hf 6 rfl rfl rfl
  have h2 : fld W 3 2 = w.code := fld_pack hW hf 1 rfl rfl rfl
  have h3 : fld W 1 0 = 0 := fld_pack hW hf 0 rfl rfl rfl
  have h4 : fld W 23 17 = d.val := fld_pack hW hf 4 rfl rfl rfl
  have h5 : fld W 16 11 = b.val := fld_pack hW hf 3 rfl rfl rfl
  have h6 : fld W 10 4 = o.val := fld_pack hW hf 2 rfl rfl rfl
  have hl := wf_limits hw
  exact word_of W ch _ ((body_5A W h0).trans (by simp [dec5A, h2, h3, h4, h5, h6, legal, hl, need, when])) h1
theorem vldx (d : VReg) (b : SReg) (o : VReg) (w : Bool) : Statement (.vldx d b o w) := by
  intro hw ch _ W he
  have he : bit ch * 2147483648 + (0x5B000008 + d.val * 131072 + b.val * 2048 + o.val * 16 + bit w * 4) = W := Option.some.inj he
  have hW : pack [(2, 0), (1, bit w), (1, 1), (7, o.val), (6, b.val), (7, d.val), (7, 91), (1, bit ch)] = W := by rw [← he]; simp only [pack]; ring
  have hf : Fits [(2, 0), (1, bit w), (1, 1), (7, o.val), (6, b.val), (7, d.val), (7, 91), (1, bit ch)] := ⟨by decide, bit_lt w, by decide, o.isLt, b.isLt, d.isLt, by decide, bit_lt ch, trivial⟩
  have h0 : fld W 30 24 = 91 := fld_pack hW hf 6 rfl rfl rfl
  have h1 : fld W 31 31 = bit ch := fld_pack hW hf 7 rfl rfl rfl
  have h2 : fld W 3 3 = 1 := fld_pack hW hf 2 rfl rfl rfl
  have h3 : fld W 1 0 = 0 := fld_pack hW hf 0 rfl rfl rfl
  have h4 : fld W 23 17 = d.val := fld_pack hW hf 5 rfl rfl rfl
  have h5 : fld W 16 11 = b.val := fld_pack hW hf 4 rfl rfl rfl
  have h6 : fld W 10 4 = o.val := fld_pack hW hf 3 rfl rfl rfl
  have h7 : fld W 2 2 = bit w := fld_pack hW hf 1 rfl rfl rfl
  have hl := wf_limits hw
  exact word_of W ch _ ((body_5B W h0).trans (by simp [dec5B, h2, h3, h4, h5, h6, h7, legal, hl, when])) h1
theorem vatom (d : VReg) (a : VReg) (p : AOp) (s : Scope) (r : Ord) : Statement (.vatom d a p s r) := by
  intro hw ch _ W he
  have he : bit ch * 2147483648 + (0x60000000 + d.val * 131072 + a.val * 1024 + p.code * 64 + s.code * 8 + r.code * 2) = W := Option.some.inj he
  have hW : pack [(1, 0), (2, r.code), (3, s.code), (4, p.code), (7, a.val), (7, d.val), (7, 96), (1, bit ch)] = W := by rw [← he]; simp only [pack]; ring
  have hf : Fits [(1, 0), (2, r.code), (3, s.code), (4, p.code), (7, a.val), (7, d.val), (7, 96), (1, bit ch)] := ⟨by decide, ord_code_lt r, scope_code_lt s, aOp_code_lt p, a.isLt, d.isLt, by decide, bit_lt ch, trivial⟩
  have h0 : fld W 30 24 = 96 := fld_pack hW hf 6 rfl rfl rfl
  have h1 : fld W 31 31 = bit ch := fld_pack hW hf 7 rfl rfl rfl
  have h2 : fld W 9 6 = p.code := fld_pack hW hf 3 rfl rfl rfl
  have h3 : fld W 2 1 = r.code := fld_pack hW hf 1 rfl rfl rfl
  have h4 : fld W 0 0 = 0 := fld_pack hW hf 0 rfl rfl rfl
  have h5 : fld W 5 3 = s.code := fld_pack hW hf 2 rfl rfl rfl
  have h6 : fld W 23 17 = d.val := fld_pack hW hf 5 rfl rfl rfl
  have h7 : fld W 16 10 = a.val := fld_pack hW hf 4 rfl rfl rfl
  have hl := wf_limits hw
  exact word_of W ch _ ((body_60 W h0).trans (by simp [dec60, h2, h3, h4, h5, h6, h7, legal, hl, need, when])) h1
theorem vmred (d : VReg) (a : VReg) (p : RedOp) (s : Scope) (r : Ord) : Statement (.vmred d a p s r) := by
  intro hw ch _ W he
  have he : bit ch * 2147483648 + (0x61000000 + d.val * 131072 + a.val * 1024 + p.code * 64 + s.code * 8 + r.code * 2) = W := Option.some.inj he
  have hW : pack [(1, 0), (2, r.code), (3, s.code), (4, p.code), (7, a.val), (7, d.val), (7, 97), (1, bit ch)] = W := by rw [← he]; simp only [pack]; ring
  have hf : Fits [(1, 0), (2, r.code), (3, s.code), (4, p.code), (7, a.val), (7, d.val), (7, 97), (1, bit ch)] := ⟨by decide, ord_code_lt r, scope_code_lt s, redOp_code_lt p, a.isLt, d.isLt, by decide, bit_lt ch, trivial⟩
  have h0 : fld W 30 24 = 97 := fld_pack hW hf 6 rfl rfl rfl
  have h1 : fld W 31 31 = bit ch := fld_pack hW hf 7 rfl rfl rfl
  have h2 : fld W 9 6 = p.code := fld_pack hW hf 3 rfl rfl rfl
  have h3 : fld W 2 1 = r.code := fld_pack hW hf 1 rfl rfl rfl
  have h4 : fld W 0 0 = 0 := fld_pack hW hf 0 rfl rfl rfl
  have h5 : fld W 5 3 = s.code := fld_pack hW hf 2 rfl rfl rfl
  have h6 : fld W 23 17 = d.val := fld_pack hW hf 5 rfl rfl rfl
  have h7 : fld W 16 10 = a.val := fld_pack hW hf 4 rfl rfl rfl
  have hl := wf_limits hw
  exact word_of W ch _ ((body_61 W h0).trans (by simp [dec61, h2, h3, h4, h5, h6, h7, legal, hl, need, when])) h1
theorem satom (d : SReg) (a : SReg) (b : SReg) (p : AOp) (r : Ord) : Statement (.satom d a b p r) := by
  intro _ ch _ W he
  have he : bit ch * 2147483648 + (0x62000000 + d.val * 262144 + a.val * 4096 + b.val * 64 + p.code * 4 + r.code) = W := Option.some.inj he
  have hW : pack [(2, r.code), (4, p.code), (6, b.val), (6, a.val), (6, d.val), (7, 98), (1, bit ch)] = W := by rw [← he]; simp only [pack]; ring
  have hf : Fits [(2, r.code), (4, p.code), (6, b.val), (6, a.val), (6, d.val), (7, 98), (1, bit ch)] := ⟨ord_code_lt r, aOp_code_lt p, b.isLt, a.isLt, d.isLt, by decide, bit_lt ch, trivial⟩
  have h0 : fld W 30 24 = 98 := fld_pack hW hf 5 rfl rfl rfl
  have h1 : fld W 31 31 = bit ch := fld_pack hW hf 6 rfl rfl rfl
  have h2 : fld W 5 2 = p.code := fld_pack hW hf 1 rfl rfl rfl
  have h3 : fld W 1 0 = r.code := fld_pack hW hf 0 rfl rfl rfl
  have h4 : fld W 23 18 = d.val := fld_pack hW hf 4 rfl rfl rfl
  have h5 : fld W 17 12 = a.val := fld_pack hW hf 3 rfl rfl rfl
  have h6 : fld W 11 6 = b.val := fld_pack hW hf 2 rfl rfl rfl
  exact word_of W ch _ ((body_62 W h0).trans (by simp [dec62, h2, h3, h4, h5, h6, need])) h1
theorem vatoms (d : VReg) (a : VReg) (p : AOp) (s : Scope) (r : Ord) : Statement (.vatoms d a p s r) := by
  intro hw ch _ W he
  have he : bit ch * 2147483648 + (0x63000000 + d.val * 131072 + a.val * 1024 + p.code * 64 + s.code * 8 + r.code * 2) = W := Option.some.inj he
  have hW : pack [(1, 0), (2, r.code), (3, s.code), (4, p.code), (7, a.val), (7, d.val), (7, 99), (1, bit ch)] = W := by rw [← he]; simp only [pack]; ring
  have hf : Fits [(1, 0), (2, r.code), (3, s.code), (4, p.code), (7, a.val), (7, d.val), (7, 99), (1, bit ch)] := ⟨by decide, ord_code_lt r, scope_code_lt s, aOp_code_lt p, a.isLt, d.isLt, by decide, bit_lt ch, trivial⟩
  have h0 : fld W 30 24 = 99 := fld_pack hW hf 6 rfl rfl rfl
  have h1 : fld W 31 31 = bit ch := fld_pack hW hf 7 rfl rfl rfl
  have h2 : fld W 9 6 = p.code := fld_pack hW hf 3 rfl rfl rfl
  have h3 : fld W 2 1 = r.code := fld_pack hW hf 1 rfl rfl rfl
  have h4 : fld W 0 0 = 0 := fld_pack hW hf 0 rfl rfl rfl
  have h5 : fld W 5 3 = s.code := fld_pack hW hf 2 rfl rfl rfl
  have h6 : fld W 23 17 = d.val := fld_pack hW hf 5 rfl rfl rfl
  have h7 : fld W 16 10 = a.val := fld_pack hW hf 4 rfl rfl rfl
  have hl := wf_limits hw
  exact word_of W ch _ ((body_63 W h0).trans (by simp [dec63, h2, h3, h4, h5, h6, h7, legal, hl, need, when])) h1
theorem fence (u : Bool) (r : FOrd) (s : Scope) : Statement (.fence u r s) := by
  intro _ ch _ W he
  have he : bit ch * 2147483648 + (0x64000000 + bit u * 256 + r.code * 64 + s.code * 8) = W := Option.some.inj he
  have hW : pack [(3, 0), (3, s.code), (2, r.code), (1, bit u), (15, 0), (7, 100), (1, bit ch)] = W := by rw [← he]; simp only [pack]; ring
  have hf : Fits [(3, 0), (3, s.code), (2, r.code), (1, bit u), (15, 0), (7, 100), (1, bit ch)] := ⟨by decide, scope_code_lt s, fOrd_code_lt r, bit_lt u, by decide, by decide, bit_lt ch, trivial⟩
  have h0 : fld W 30 24 = 100 := fld_pack hW hf 5 rfl rfl rfl
  have h1 : fld W 31 31 = bit ch := fld_pack hW hf 6 rfl rfl rfl
  have h2 : fld W 7 6 = r.code := fld_pack hW hf 2 rfl rfl rfl
  have h3 : fld W 2 0 = 0 := fld_pack hW hf 0 rfl rfl rfl
  have h4 : fld W 23 9 = 0 := fld_pack hW hf 4 rfl rfl rfl
  have h5 : fld W 5 3 = s.code := fld_pack hW hf 1 rfl rfl rfl
  have h6 : fld W 8 8 = bit u := fld_pack hW hf 3 rfl rfl rfl
  exact word_of W ch _ ((body_64 W h0).trans (by simp [dec64, h2, h3, h4, h5, h6, need, when])) h1
theorem barInit (b : SReg) (e : SReg) : Statement (.barInit b e) := by
  intro _ ch _ W he
  have he : bit ch * 2147483648 + (0x65000000 + b.val * 262144 + e.val * 4096) = W := Option.some.inj he
  have hW : pack [(4, 0), (4, 0), (4, 0), (6, e.val), (6, b.val), (7, 101), (1, bit ch)] = W := by rw [← he]; simp only [pack]; ring
  have hf : Fits [(4, 0), (4, 0), (4, 0), (6, e.val), (6, b.val), (7, 101), (1, bit ch)] := ⟨by decide, by decide, by decide, e.isLt, b.isLt, by decide, bit_lt ch, trivial⟩
  have h0 : fld W 30 24 = 101 := fld_pack hW hf 5 rfl rfl rfl
  have h1 : fld W 31 31 = bit ch := fld_pack hW hf 6 rfl rfl rfl
  have h2 : fld W 7 4 = 0 := fld_pack hW hf 1 rfl rfl rfl
  have h3 : fld W 3 0 = 0 := fld_pack hW hf 0 rfl rfl rfl
  have h4 : fld W 11 8 = 0 := fld_pack hW hf 2 rfl rfl rfl
  have h5 : fld W 23 18 = b.val := fld_pack hW hf 4 rfl rfl rfl
  have h6 : fld W 17 12 = e.val := fld_pack hW hf 3 rfl rfl rfl
  exact word_of W ch _ ((body_65 W h0).trans (by simp [dec65, h2, h3, h4, h5, h6, when])) h1
theorem barExpect (b : SReg) (e : SReg) : Statement (.barExpect b e) := by
  intro _ ch _ W he
  have he : bit ch * 2147483648 + (0x65000010 + b.val * 262144 + e.val * 4096) = W := Option.some.inj he
  have hW : pack [(4, 0), (4, 1), (4, 0), (6, e.val), (6, b.val), (7, 101), (1, bit ch)] = W := by rw [← he]; simp only [pack]; ring
  have hf : Fits [(4, 0), (4, 1), (4, 0), (6, e.val), (6, b.val), (7, 101), (1, bit ch)] := ⟨by decide, by decide, by decide, e.isLt, b.isLt, by decide, bit_lt ch, trivial⟩
  have h0 : fld W 30 24 = 101 := fld_pack hW hf 5 rfl rfl rfl
  have h1 : fld W 31 31 = bit ch := fld_pack hW hf 6 rfl rfl rfl
  have h2 : fld W 7 4 = 1 := fld_pack hW hf 1 rfl rfl rfl
  have h3 : fld W 3 0 = 0 := fld_pack hW hf 0 rfl rfl rfl
  have h4 : fld W 11 8 = 0 := fld_pack hW hf 2 rfl rfl rfl
  have h5 : fld W 23 18 = b.val := fld_pack hW hf 4 rfl rfl rfl
  have h6 : fld W 17 12 = e.val := fld_pack hW hf 3 rfl rfl rfl
  exact word_of W ch _ ((body_65 W h0).trans (by simp [dec65, h2, h3, h4, h5, h6, when])) h1
theorem barArrive (b : SReg) (p : Scope) (o : Bool) : Statement (.barArrive b p o) := by
  intro _ ch _ W he
  have he : bit ch * 2147483648 + (0x65000020 + b.val * 262144 + p.code * 512 + bit o * 256) = W := Option.some.inj he
  have hW : pack [(4, 0), (4, 2), (1, bit o), (3, p.code), (6, 0), (6, b.val), (7, 101), (1, bit ch)] = W := by rw [← he]; simp only [pack]; ring
  have hf : Fits [(4, 0), (4, 2), (1, bit o), (3, p.code), (6, 0), (6, b.val), (7, 101), (1, bit ch)] := ⟨by decide, by decide, bit_lt o, scope_code_lt p, by decide, b.isLt, by decide, bit_lt ch, trivial⟩
  have h0 : fld W 30 24 = 101 := fld_pack hW hf 6 rfl rfl rfl
  have h1 : fld W 31 31 = bit ch := fld_pack hW hf 7 rfl rfl rfl
  have h2 : fld W 7 4 = 2 := fld_pack hW hf 1 rfl rfl rfl
  have h3 : fld W 3 0 = 0 := fld_pack hW hf 0 rfl rfl rfl
  have h4 : fld W 17 12 = 0 := fld_pack hW hf 4 rfl rfl rfl
  have h5 : fld W 11 9 = p.code := fld_pack hW hf 3 rfl rfl rfl
  have h6 : fld W 23 18 = b.val := fld_pack hW hf 5 rfl rfl rfl
  have h7 : fld W 8 8 = bit o := fld_pack hW hf 2 rfl rfl rfl
  exact word_of W ch _ ((body_65 W h0).trans (by simp [dec65, h2, h3, h4, h5, h6, h7, need, when])) h1
theorem barArriveExp (b : SReg) (e : SReg) (p : Scope) (o : Bool) : Statement (.barArriveExp b e p o) := by
  intro _ ch _ W he
  have he : bit ch * 2147483648 + (0x65000030 + b.val * 262144 + e.val * 4096 + p.code * 512 + bit o * 256) = W := Option.some.inj he
  have hW : pack [(4, 0), (4, 3), (1, bit o), (3, p.code), (6, e.val), (6, b.val), (7, 101), (1, bit ch)] = W := by rw [← he]; simp only [pack]; ring
  have hf : Fits [(4, 0), (4, 3), (1, bit o), (3, p.code), (6, e.val), (6, b.val), (7, 101), (1, bit ch)] := ⟨by decide, by decide, bit_lt o, scope_code_lt p, e.isLt, b.isLt, by decide, bit_lt ch, trivial⟩
  have h0 : fld W 30 24 = 101 := fld_pack hW hf 6 rfl rfl rfl
  have h1 : fld W 31 31 = bit ch := fld_pack hW hf 7 rfl rfl rfl
  have h2 : fld W 7 4 = 3 := fld_pack hW hf 1 rfl rfl rfl
  have h3 : fld W 3 0 = 0 := fld_pack hW hf 0 rfl rfl rfl
  have h4 : fld W 11 9 = p.code := fld_pack hW hf 3 rfl rfl rfl
  have h5 : fld W 23 18 = b.val := fld_pack hW hf 5 rfl rfl rfl
  have h6 : fld W 17 12 = e.val := fld_pack hW hf 4 rfl rfl rfl
  have h7 : fld W 8 8 = bit o := fld_pack hW hf 2 rfl rfl rfl
  exact word_of W ch _ ((body_65 W h0).trans (by simp [dec65, h2, h3, h4, h5, h6, h7, need, when])) h1
theorem barWait (b : SReg) (e : SReg) (p : Scope) (o : Bool) : Statement (.barWait b e p o) := by
  intro _ ch _ W he
  have he : bit ch * 2147483648 + (0x65000040 + b.val * 262144 + e.val * 4096 + p.code * 512 + bit o * 256) = W := Option.some.inj he
  have hW : pack [(4, 0), (4, 4), (1, bit o), (3, p.code), (6, e.val), (6, b.val), (7, 101), (1, bit ch)] = W := by rw [← he]; simp only [pack]; ring
  have hf : Fits [(4, 0), (4, 4), (1, bit o), (3, p.code), (6, e.val), (6, b.val), (7, 101), (1, bit ch)] := ⟨by decide, by decide, bit_lt o, scope_code_lt p, e.isLt, b.isLt, by decide, bit_lt ch, trivial⟩
  have h0 : fld W 30 24 = 101 := fld_pack hW hf 6 rfl rfl rfl
  have h1 : fld W 31 31 = bit ch := fld_pack hW hf 7 rfl rfl rfl
  have h2 : fld W 7 4 = 4 := fld_pack hW hf 1 rfl rfl rfl
  have h3 : fld W 3 0 = 0 := fld_pack hW hf 0 rfl rfl rfl
  have h4 : fld W 11 9 = p.code := fld_pack hW hf 3 rfl rfl rfl
  have h5 : fld W 23 18 = b.val := fld_pack hW hf 5 rfl rfl rfl
  have h6 : fld W 17 12 = e.val := fld_pack hW hf 4 rfl rfl rfl
  have h7 : fld W 8 8 = bit o := fld_pack hW hf 2 rfl rfl rfl
  exact word_of W ch _ ((body_65 W h0).trans (by simp [dec65, h2, h3, h4, h5, h6, h7, need, when])) h1
theorem barTest (b : SReg) (e : SReg) (p : Scope) (o : Bool) : Statement (.barTest b e p o) := by
  intro _ ch _ W he
  have he : bit ch * 2147483648 + (0x65000050 + b.val * 262144 + e.val * 4096 + p.code * 512 + bit o * 256) = W := Option.some.inj he
  have hW : pack [(4, 0), (4, 5), (1, bit o), (3, p.code), (6, e.val), (6, b.val), (7, 101), (1, bit ch)] = W := by rw [← he]; simp only [pack]; ring
  have hf : Fits [(4, 0), (4, 5), (1, bit o), (3, p.code), (6, e.val), (6, b.val), (7, 101), (1, bit ch)] := ⟨by decide, by decide, bit_lt o, scope_code_lt p, e.isLt, b.isLt, by decide, bit_lt ch, trivial⟩
  have h0 : fld W 30 24 = 101 := fld_pack hW hf 6 rfl rfl rfl
  have h1 : fld W 31 31 = bit ch := fld_pack hW hf 7 rfl rfl rfl
  have h2 : fld W 7 4 = 5 := fld_pack hW hf 1 rfl rfl rfl
  have h3 : fld W 3 0 = 0 := fld_pack hW hf 0 rfl rfl rfl
  have h4 : fld W 11 9 = p.code := fld_pack hW hf 3 rfl rfl rfl
  have h5 : fld W 23 18 = b.val := fld_pack hW hf 5 rfl rfl rfl
  have h6 : fld W 17 12 = e.val := fld_pack hW hf 4 rfl rfl rfl
  have h7 : fld W 8 8 = bit o := fld_pack hW hf 2 rfl rfl rfl
  exact word_of W ch _ ((body_65 W h0).trans (by simp [dec65, h2, h3, h4, h5, h6, h7, need, when])) h1
theorem barPhase (b : SReg) (e : SReg) : Statement (.barPhase b e) := by
  intro _ ch _ W he
  have he : bit ch * 2147483648 + (0x65000060 + b.val * 262144 + e.val * 4096) = W := Option.some.inj he
  have hW : pack [(4, 0), (4, 6), (4, 0), (6, e.val), (6, b.val), (7, 101), (1, bit ch)] = W := by rw [← he]; simp only [pack]; ring
  have hf : Fits [(4, 0), (4, 6), (4, 0), (6, e.val), (6, b.val), (7, 101), (1, bit ch)] := ⟨by decide, by decide, by decide, e.isLt, b.isLt, by decide, bit_lt ch, trivial⟩
  have h0 : fld W 30 24 = 101 := fld_pack hW hf 5 rfl rfl rfl
  have h1 : fld W 31 31 = bit ch := fld_pack hW hf 6 rfl rfl rfl
  have h2 : fld W 7 4 = 6 := fld_pack hW hf 1 rfl rfl rfl
  have h3 : fld W 3 0 = 0 := fld_pack hW hf 0 rfl rfl rfl
  have h4 : fld W 11 8 = 0 := fld_pack hW hf 2 rfl rfl rfl
  have h5 : fld W 23 18 = b.val := fld_pack hW hf 4 rfl rfl rfl
  have h6 : fld W 17 12 = e.val := fld_pack hW hf 3 rfl rfl rfl
  exact word_of W ch _ ((body_65 W h0).trans (by simp [dec65, h2, h3, h4, h5, h6, when])) h1
theorem waitc (l : Fin 16) (s : Fin 16) (y : Fin 16) (t : Fin 16) : Statement (.waitc l s y t) := by
  intro _ ch _ W he
  have he : bit ch * 2147483648 + (0x66000000 + l.val * 4096 + s.val * 256 + y.val * 16 + t.val) = W := Option.some.inj he
  have hW : pack [(4, t.val), (4, y.val), (4, s.val), (4, l.val), (8, 0), (7, 102), (1, bit ch)] = W := by rw [← he]; simp only [pack]; ring
  have hf : Fits [(4, t.val), (4, y.val), (4, s.val), (4, l.val), (8, 0), (7, 102), (1, bit ch)] := ⟨t.isLt, y.isLt, s.isLt, l.isLt, by decide, by decide, bit_lt ch, trivial⟩
  have h0 : fld W 30 24 = 102 := fld_pack hW hf 5 rfl rfl rfl
  have h1 : fld W 31 31 = bit ch := fld_pack hW hf 6 rfl rfl rfl
  have h2 : fld W 23 16 = 0 := fld_pack hW hf 4 rfl rfl rfl
  have h3 : fld W 15 12 = l.val := fld_pack hW hf 3 rfl rfl rfl
  have h4 : fld W 11 8 = s.val := fld_pack hW hf 2 rfl rfl rfl
  have h5 : fld W 7 4 = y.val := fld_pack hW hf 1 rfl rfl rfl
  have h6 : fld W 3 0 = t.val := fld_pack hW hf 0 rfl rfl rfl
  exact word_of W ch _ ((body_66 W h0).trans (by simp [dec66, h2, h3, h4, h5, h6, when])) h1
theorem vbank (m : BitVec 16) (s : BankCode) : Statement (.vbank m s) := by
  intro _ ch _ W he
  have he : bit ch * 2147483648 + (0x67000000 + m.toNat * 256 + s.code) = W := Option.some.inj he
  have hW : pack [(2, s.code), (6, 0), (16, m.toNat), (7, 103), (1, bit ch)] = W := by rw [← he]; simp only [pack]; ring
  have hf : Fits [(2, s.code), (6, 0), (16, m.toNat), (7, 103), (1, bit ch)] := ⟨bankCode_code_lt s, by decide, m.isLt, by decide, bit_lt ch, trivial⟩
  have h0 : fld W 30 24 = 103 := fld_pack hW hf 3 rfl rfl rfl
  have h1 : fld W 31 31 = bit ch := fld_pack hW hf 4 rfl rfl rfl
  have h2 : fld W 1 0 = s.code := fld_pack hW hf 0 rfl rfl rfl
  have h3 : fld W 7 2 = 0 := fld_pack hW hf 1 rfl rfl rfl
  have h4 : fld W 23 8 = m.toNat := fld_pack hW hf 2 rfl rfl rfl
  exact word_of W ch _ ((body_67 W h0).trans (by simp [dec67, h2, h3, h4, need, when])) h1
theorem pbank (f : Fin 128) (n : Fin 128) (s : BankCode) : Statement (.pbank f n s) := by
  intro _ ch _ W he
  have he : bit ch * 2147483648 + (0x68000000 + f.val * 131072 + n.val * 1024 + s.code) = W := Option.some.inj he
  have hW : pack [(2, s.code), (8, 0), (7, n.val), (7, f.val), (7, 104), (1, bit ch)] = W := by rw [← he]; simp only [pack]; ring
  have hf : Fits [(2, s.code), (8, 0), (7, n.val), (7, f.val), (7, 104), (1, bit ch)] := ⟨bankCode_code_lt s, by decide, n.isLt, f.isLt, by decide, bit_lt ch, trivial⟩
  have h0 : fld W 30 24 = 104 := fld_pack hW hf 4 rfl rfl rfl
  have h1 : fld W 31 31 = bit ch := fld_pack hW hf 5 rfl rfl rfl
  have h2 : fld W 1 0 = s.code := fld_pack hW hf 0 rfl rfl rfl
  have h3 : fld W 9 2 = 0 := fld_pack hW hf 1 rfl rfl rfl
  have h4 : fld W 23 17 = f.val := fld_pack hW hf 3 rfl rfl rfl
  have h5 : fld W 16 10 = n.val := fld_pack hW hf 2 rfl rfl rfl
  exact word_of W ch _ ((body_68 W h0).trans (by simp [dec68, h2, h3, h4, h5, need, when])) h1
theorem eacq : Statement .eacq := by
  intro _ ch _ W he
  have he : bit ch * 2147483648 + (0x69000000) = W := Option.some.inj he
  have hW : pack [(1, 0), (23, 0), (7, 105), (1, bit ch)] = W := by rw [← he]; simp only [pack]; ring
  have hf : Fits [(1, 0), (23, 0), (7, 105), (1, bit ch)] := ⟨by decide, by decide, by decide, bit_lt ch, trivial⟩
  have h0 : fld W 30 24 = 105 := fld_pack hW hf 2 rfl rfl rfl
  have h1 : fld W 31 31 = bit ch := fld_pack hW hf 3 rfl rfl rfl
  have h2 : fld W 0 0 = 0 := fld_pack hW hf 0 rfl rfl rfl
  have h3 : fld W 23 1 = 0 := fld_pack hW hf 1 rfl rfl rfl
  exact word_of W ch _ ((body_69 W h0).trans (by simp [dec69, h2, h3, when])) h1
theorem eacqTry (c : CReg) : Statement (.eacqTry c) := by
  intro hw ch _ W he
  have he : bit ch * 2147483648 + (0x69000001 + c.val * 2097152) = W := Option.some.inj he
  have hW : pack [(1, 1), (20, 0), (3, c.val), (7, 105), (1, bit ch)] = W := by rw [← he]; simp only [pack]; ring
  have hf : Fits [(1, 1), (20, 0), (3, c.val), (7, 105), (1, bit ch)] := ⟨by decide, by decide, c.isLt, by decide, bit_lt ch, trivial⟩
  have h0 : fld W 30 24 = 105 := fld_pack hW hf 3 rfl rfl rfl
  have h1 : fld W 31 31 = bit ch := fld_pack hW hf 4 rfl rfl rfl
  have h2 : fld W 0 0 = 1 := fld_pack hW hf 0 rfl rfl rfl
  have h3 : fld W 20 1 = 0 := fld_pack hW hf 1 rfl rfl rfl
  have h4 : fld W 23 21 = c.val := fld_pack hW hf 2 rfl rfl rfl
  have hn : c.val ≠ 7 := fun h => of_decide_eq_true (wf_noC7 hw) (Fin.ext h)
  exact word_of W ch _ ((body_69 W h0).trans (by simp [dec69, h2, h3, h4, hn, when])) h1
theorem erel : Statement .erel := by
  intro _ ch _ W he
  have he : bit ch * 2147483648 + (0x6A000000) = W := Option.some.inj he
  have hW : pack [(24, 0), (7, 106), (1, bit ch)] = W := by rw [← he]; simp only [pack]; ring
  have hf : Fits [(24, 0), (7, 106), (1, bit ch)] := ⟨by decide, by decide, bit_lt ch, trivial⟩
  have h0 : fld W 30 24 = 106 := fld_pack hW hf 1 rfl rfl rfl
  have h1 : fld W 31 31 = bit ch := fld_pack hW hf 2 rfl rfl rfl
  have h2 : fld W 23 0 = 0 := fld_pack hW hf 0 rfl rfl rfl
  exact word_of W ch _ ((body_6A W h0).trans (by simp [dec6A, h2, when])) h1
theorem cpG2s (d : SReg) (q : Fin 6) : Statement (.cpG2s d q) := by
  intro hw ch _ W he
  have he : bit ch * 2147483648 + (0x70000000 + d.val * 262144 + q.val * 32768) = W := Option.some.inj he
  have hW : pack [(10, 0), (5, 0), (3, q.val), (6, d.val), (7, 112), (1, bit ch)] = W := by rw [← he]; simp only [pack]; ring
  have hf : Fits [(10, 0), (5, 0), (3, q.val), (6, d.val), (7, 112), (1, bit ch)] := ⟨by decide, by decide, Nat.lt_trans q.isLt (by decide), d.isLt, by decide, bit_lt ch, trivial⟩
  have h0 : fld W 30 24 = 112 := fld_pack hW hf 4 rfl rfl rfl
  have h1 : fld W 31 31 = bit ch := fld_pack hW hf 5 rfl rfl rfl
  have h2 : fld W 14 10 = 0 := fld_pack hW hf 1 rfl rfl rfl
  have h3 : fld W 17 15 = q.val := fld_pack hW hf 2 rfl rfl rfl
  have h4 : fld W 9 0 = 0 := fld_pack hW hf 0 rfl rfl rfl
  have h5 : fld W 23 18 = d.val := fld_pack hW hf 3 rfl rfl rfl
  have hl := wf_limits hw
  exact word_of W ch _ ((body_70 W h0).trans (by simp [dec70, h2, h3, h4, h5, legal, hl, need, when])) h1
theorem cpS2g (d : SReg) (q : Fin 6) : Statement (.cpS2g d q) := by
  intro hw ch _ W he
  have he : bit ch * 2147483648 + (0x70000400 + d.val * 262144 + q.val * 32768) = W := Option.some.inj he
  have hW : pack [(10, 0), (5, 1), (3, q.val), (6, d.val), (7, 112), (1, bit ch)] = W := by rw [← he]; simp only [pack]; ring
  have hf : Fits [(10, 0), (5, 1), (3, q.val), (6, d.val), (7, 112), (1, bit ch)] := ⟨by decide, by decide, Nat.lt_trans q.isLt (by decide), d.isLt, by decide, bit_lt ch, trivial⟩
  have h0 : fld W 30 24 = 112 := fld_pack hW hf 4 rfl rfl rfl
  have h1 : fld W 31 31 = bit ch := fld_pack hW hf 5 rfl rfl rfl
  have h2 : fld W 14 10 = 1 := fld_pack hW hf 1 rfl rfl rfl
  have h3 : fld W 17 15 = q.val := fld_pack hW hf 2 rfl rfl rfl
  have h4 : fld W 9 0 = 0 := fld_pack hW hf 0 rfl rfl rfl
  have h5 : fld W 23 18 = d.val := fld_pack hW hf 3 rfl rfl rfl
  have hl := wf_limits hw
  exact word_of W ch _ ((body_70 W h0).trans (by simp [dec70, h2, h3, h4, h5, legal, hl, need, when])) h1
theorem cpG2a (d : SReg) (q : Fin 6) : Statement (.cpG2a d q) := by
  intro hw ch _ W he
  have he : bit ch * 2147483648 + (0x70000800 + d.val * 262144 + q.val * 32768) = W := Option.some.inj he
  have hW : pack [(10, 0), (5, 2), (3, q.val), (6, d.val), (7, 112), (1, bit ch)] = W := by rw [← he]; simp only [pack]; ring
  have hf : Fits [(10, 0), (5, 2), (3, q.val), (6, d.val), (7, 112), (1, bit ch)] := ⟨by decide, by decide, Nat.lt_trans q.isLt (by decide), d.isLt, by decide, bit_lt ch, trivial⟩
  have h0 : fld W 30 24 = 112 := fld_pack hW hf 4 rfl rfl rfl
  have h1 : fld W 31 31 = bit ch := fld_pack hW hf 5 rfl rfl rfl
  have h2 : fld W 14 10 = 2 := fld_pack hW hf 1 rfl rfl rfl
  have h3 : fld W 17 15 = q.val := fld_pack hW hf 2 rfl rfl rfl
  have h4 : fld W 9 0 = 0 := fld_pack hW hf 0 rfl rfl rfl
  have h5 : fld W 23 18 = d.val := fld_pack hW hf 3 rfl rfl rfl
  have hl := wf_limits hw
  exact word_of W ch _ ((body_70 W h0).trans (by simp [dec70, h2, h3, h4, h5, legal, hl, need, when])) h1
theorem cpG2w (d : SReg) (q : Fin 6) : Statement (.cpG2w d q) := by
  intro hw ch _ W he
  have he : bit ch * 2147483648 + (0x70000C00 + d.val * 262144 + q.val * 32768) = W := Option.some.inj he
  have hW : pack [(10, 0), (5, 3), (3, q.val), (6, d.val), (7, 112), (1, bit ch)] = W := by rw [← he]; simp only [pack]; ring
  have hf : Fits [(10, 0), (5, 3), (3, q.val), (6, d.val), (7, 112), (1, bit ch)] := ⟨by decide, by decide, Nat.lt_trans q.isLt (by decide), d.isLt, by decide, bit_lt ch, trivial⟩
  have h0 : fld W 30 24 = 112 := fld_pack hW hf 4 rfl rfl rfl
  have h1 : fld W 31 31 = bit ch := fld_pack hW hf 5 rfl rfl rfl
  have h2 : fld W 14 10 = 3 := fld_pack hW hf 1 rfl rfl rfl
  have h3 : fld W 17 15 = q.val := fld_pack hW hf 2 rfl rfl rfl
  have h4 : fld W 9 0 = 0 := fld_pack hW hf 0 rfl rfl rfl
  have h5 : fld W 23 18 = d.val := fld_pack hW hf 3 rfl rfl rfl
  have hl := wf_limits hw
  exact word_of W ch _ ((body_70 W h0).trans (by simp [dec70, h2, h3, h4, h5, legal, hl, need, when])) h1
theorem cpX2g (d : SReg) (q : Fin 6) : Statement (.cpX2g d q) := by
  intro hw ch _ W he
  have he : bit ch * 2147483648 + (0x70001000 + d.val * 262144 + q.val * 32768) = W := Option.some.inj he
  have hW : pack [(10, 0), (5, 4), (3, q.val), (6, d.val), (7, 112), (1, bit ch)] = W := by rw [← he]; simp only [pack]; ring
  have hf : Fits [(10, 0), (5, 4), (3, q.val), (6, d.val), (7, 112), (1, bit ch)] := ⟨by decide, by decide, Nat.lt_trans q.isLt (by decide), d.isLt, by decide, bit_lt ch, trivial⟩
  have h0 : fld W 30 24 = 112 := fld_pack hW hf 4 rfl rfl rfl
  have h1 : fld W 31 31 = bit ch := fld_pack hW hf 5 rfl rfl rfl
  have h2 : fld W 14 10 = 4 := fld_pack hW hf 1 rfl rfl rfl
  have h3 : fld W 17 15 = q.val := fld_pack hW hf 2 rfl rfl rfl
  have h4 : fld W 9 0 = 0 := fld_pack hW hf 0 rfl rfl rfl
  have h5 : fld W 23 18 = d.val := fld_pack hW hf 3 rfl rfl rfl
  have hl := wf_limits hw
  exact word_of W ch _ ((body_70 W h0).trans (by simp [dec70, h2, h3, h4, h5, legal, hl, need, when])) h1
theorem cpG2g (d : SReg) (q : Fin 6) : Statement (.cpG2g d q) := by
  intro hw ch _ W he
  have he : bit ch * 2147483648 + (0x70001400 + d.val * 262144 + q.val * 32768) = W := Option.some.inj he
  have hW : pack [(10, 0), (5, 5), (3, q.val), (6, d.val), (7, 112), (1, bit ch)] = W := by rw [← he]; simp only [pack]; ring
  have hf : Fits [(10, 0), (5, 5), (3, q.val), (6, d.val), (7, 112), (1, bit ch)] := ⟨by decide, by decide, Nat.lt_trans q.isLt (by decide), d.isLt, by decide, bit_lt ch, trivial⟩
  have h0 : fld W 30 24 = 112 := fld_pack hW hf 4 rfl rfl rfl
  have h1 : fld W 31 31 = bit ch := fld_pack hW hf 5 rfl rfl rfl
  have h2 : fld W 14 10 = 5 := fld_pack hW hf 1 rfl rfl rfl
  have h3 : fld W 17 15 = q.val := fld_pack hW hf 2 rfl rfl rfl
  have h4 : fld W 9 0 = 0 := fld_pack hW hf 0 rfl rfl rfl
  have h5 : fld W 23 18 = d.val := fld_pack hW hf 3 rfl rfl rfl
  have hl := wf_limits hw
  exact word_of W ch _ ((body_70 W h0).trans (by simp [dec70, h2, h3, h4, h5, legal, hl, need, when])) h1
theorem cpCirc (d : SReg) (q : Fin 6) : Statement (.cpCirc d q) := by
  intro hw ch _ W he
  have he : bit ch * 2147483648 + (0x70001800 + d.val * 262144 + q.val * 32768) = W := Option.some.inj he
  have hW : pack [(10, 0), (5, 6), (3, q.val), (6, d.val), (7, 112), (1, bit ch)] = W := by rw [← he]; simp only [pack]; ring
  have hf : Fits [(10, 0), (5, 6), (3, q.val), (6, d.val), (7, 112), (1, bit ch)] := ⟨by decide, by decide, Nat.lt_trans q.isLt (by decide), d.isLt, by decide, bit_lt ch, trivial⟩
  have h0 : fld W 30 24 = 112 := fld_pack hW hf 4 rfl rfl rfl
  have h1 : fld W 31 31 = bit ch := fld_pack hW hf 5 rfl rfl rfl
  have h2 : fld W 14 10 = 6 := fld_pack hW hf 1 rfl rfl rfl
  have h3 : fld W 17 15 = q.val := fld_pack hW hf 2 rfl rfl rfl
  have h4 : fld W 9 0 = 0 := fld_pack hW hf 0 rfl rfl rfl
  have h5 : fld W 23 18 = d.val := fld_pack hW hf 3 rfl rfl rfl
  have hl := wf_limits hw
  exact word_of W ch _ ((body_70 W h0).trans (by simp [dec70, h2, h3, h4, h5, legal, hl, need, when])) h1
theorem gth (d : SReg) (q : Fin 6) : Statement (.gth d q) := by
  intro hw ch _ W he
  have he : bit ch * 2147483648 + (0x71000000 + d.val * 262144 + q.val * 32768) = W := Option.some.inj he
  have hW : pack [(10, 0), (5, 0), (3, q.val), (6, d.val), (7, 113), (1, bit ch)] = W := by rw [← he]; simp only [pack]; ring
  have hf : Fits [(10, 0), (5, 0), (3, q.val), (6, d.val), (7, 113), (1, bit ch)] := ⟨by decide, by decide, Nat.lt_trans q.isLt (by decide), d.isLt, by decide, bit_lt ch, trivial⟩
  have h0 : fld W 30 24 = 113 := fld_pack hW hf 4 rfl rfl rfl
  have h1 : fld W 31 31 = bit ch := fld_pack hW hf 5 rfl rfl rfl
  have h2 : fld W 14 10 = 0 := fld_pack hW hf 1 rfl rfl rfl
  have h3 : fld W 17 15 = q.val := fld_pack hW hf 2 rfl rfl rfl
  have h4 : fld W 9 0 = 0 := fld_pack hW hf 0 rfl rfl rfl
  have h5 : fld W 23 18 = d.val := fld_pack hW hf 3 rfl rfl rfl
  have hl := wf_limits hw
  exact word_of W ch _ ((body_71 W h0).trans (by simp [dec71, h2, h3, h4, h5, legal, hl, need, when])) h1
theorem qfence (m : BitVec 8) : Statement (.qfence m) := by
  intro hw ch _ W he
  have he : bit ch * 2147483648 + (0x72000000 + m.toNat) = W := Option.some.inj he
  have hW : pack [(8, m.toNat), (16, 0), (7, 114), (1, bit ch)] = W := by rw [← he]; simp only [pack]; ring
  have hf : Fits [(8, m.toNat), (16, 0), (7, 114), (1, bit ch)] := ⟨m.isLt, by decide, by decide, bit_lt ch, trivial⟩
  have h0 : fld W 30 24 = 114 := fld_pack hW hf 2 rfl rfl rfl
  have h1 : fld W 31 31 = bit ch := fld_pack hW hf 3 rfl rfl rfl
  have h2 : fld W 23 8 = 0 := fld_pack hW hf 1 rfl rfl rfl
  have h3 : fld W 7 0 = m.toNat := fld_pack hW hf 0 rfl rfl rfl
  have hm : m ≠ 0 := of_decide_eq_true (wf_fields hw)
  have hn : ¬m.toNat = 0 := fun h => hm (BitVec.eq_of_toNat_eq h)
  exact word_of W ch _ ((body_72 W h0).trans (by simp [dec72, h2, h3, when, hn])) h1
theorem cbWait (d : SReg) (a : SReg) : Statement (.cbWait d a) := by
  intro _ ch _ W he
  have he : bit ch * 2147483648 + (0x73000000 + d.val * 262144 + a.val * 4096) = W := Option.some.inj he
  have hW : pack [(6, 0), (6, 0), (6, a.val), (6, d.val), (7, 115), (1, bit ch)] = W := by rw [← he]; simp only [pack]; ring
  have hf : Fits [(6, 0), (6, 0), (6, a.val), (6, d.val), (7, 115), (1, bit ch)] := ⟨by decide, by decide, a.isLt, d.isLt, by decide, bit_lt ch, trivial⟩
  have h0 : fld W 30 24 = 115 := fld_pack hW hf 4 rfl rfl rfl
  have h1 : fld W 31 31 = bit ch := fld_pack hW hf 5 rfl rfl rfl
  have h2 : fld W 5 0 = 0 := fld_pack hW hf 0 rfl rfl rfl
  have h3 : fld W 11 6 = 0 := fld_pack hW hf 1 rfl rfl rfl
  have h4 : fld W 23 18 = d.val := fld_pack hW hf 3 rfl rfl rfl
  have h5 : fld W 17 12 = a.val := fld_pack hW hf 2 rfl rfl rfl
  exact word_of W ch _ ((body_73 W h0).trans (by simp [dec73, h2, h3, h4, h5, when])) h1
theorem cbFree (a : SReg) : Statement (.cbFree a) := by
  intro _ ch _ W he
  have he : bit ch * 2147483648 + (0x73000001 + a.val * 4096) = W := Option.some.inj he
  have hW : pack [(6, 1), (6, 0), (6, a.val), (6, 0), (7, 115), (1, bit ch)] = W := by rw [← he]; simp only [pack]; ring
  have hf : Fits [(6, 1), (6, 0), (6, a.val), (6, 0), (7, 115), (1, bit ch)] := ⟨by decide, by decide, a.isLt, by decide, by decide, bit_lt ch, trivial⟩
  have h0 : fld W 30 24 = 115 := fld_pack hW hf 4 rfl rfl rfl
  have h1 : fld W 31 31 = bit ch := fld_pack hW hf 5 rfl rfl rfl
  have h2 : fld W 5 0 = 1 := fld_pack hW hf 0 rfl rfl rfl
  have h3 : fld W 11 6 = 0 := fld_pack hW hf 1 rfl rfl rfl
  have h4 : fld W 23 18 = 0 := fld_pack hW hf 3 rfl rfl rfl
  have h5 : fld W 17 12 = a.val := fld_pack hW hf 2 rfl rfl rfl
  exact word_of W ch _ ((body_73 W h0).trans (by simp [dec73, h2, h3, h4, h5, when])) h1
theorem launch (d : SReg) : Statement (.launch d) := by
  intro hw ch _ W he
  have he : bit ch * 2147483648 + (0x74000000 + d.val * 262144) = W := Option.some.inj he
  have hW : pack [(14, 0), (1, 0), (3, 0), (6, d.val), (7, 116), (1, bit ch)] = W := by rw [← he]; simp only [pack]; ring
  have hf : Fits [(14, 0), (1, 0), (3, 0), (6, d.val), (7, 116), (1, bit ch)] := ⟨by decide, by decide, by decide, d.isLt, by decide, bit_lt ch, trivial⟩
  have h0 : fld W 30 24 = 116 := fld_pack hW hf 4 rfl rfl rfl
  have h1 : fld W 31 31 = bit ch := fld_pack hW hf 5 rfl rfl rfl
  have h2 : fld W 14 14 = 0 := fld_pack hW hf 1 rfl rfl rfl
  have h3 : fld W 13 0 = 0 := fld_pack hW hf 0 rfl rfl rfl
  have h4 : fld W 17 15 = 0 := fld_pack hW hf 2 rfl rfl rfl
  have h5 : fld W 23 18 = d.val := fld_pack hW hf 3 rfl rfl rfl
  have hl := wf_limits hw
  exact word_of W ch _ ((body_74 W h0).trans (by simp [dec74, h2, h3, h4, h5, legal, hl, when])) h1
theorem launchTry (d : SReg) (c : CReg) : Statement (.launchTry d c) := by
  intro hw ch _ W he
  have he : bit ch * 2147483648 + (0x74004000 + d.val * 262144 + c.val * 1024) = W := Option.some.inj he
  have hW : pack [(10, 0), (3, c.val), (1, 0), (1, 1), (3, 0), (6, d.val), (7, 116), (1, bit ch)] = W := by rw [← he]; simp only [pack]; ring
  have hf : Fits [(10, 0), (3, c.val), (1, 0), (1, 1), (3, 0), (6, d.val), (7, 116), (1, bit ch)] := ⟨by decide, c.isLt, by decide, by decide, by decide, d.isLt, by decide, bit_lt ch, trivial⟩
  have h0 : fld W 30 24 = 116 := fld_pack hW hf 6 rfl rfl rfl
  have h1 : fld W 31 31 = bit ch := fld_pack hW hf 7 rfl rfl rfl
  have h2 : fld W 14 14 = 1 := fld_pack hW hf 3 rfl rfl rfl
  have h3 : fld W 9 0 = 0 := fld_pack hW hf 0 rfl rfl rfl
  have h4 : fld W 13 13 = 0 := fld_pack hW hf 2 rfl rfl rfl
  have h5 : fld W 17 15 = 0 := fld_pack hW hf 4 rfl rfl rfl
  have h6 : fld W 12 10 = c.val := fld_pack hW hf 1 rfl rfl rfl
  have h7 : fld W 23 18 = d.val := fld_pack hW hf 5 rfl rfl rfl
  have hl := wf_limits hw
  have hn : c.val ≠ 7 := fun h => of_decide_eq_true (wf_noC7 hw) (Fin.ext h)
  exact word_of W ch _ ((body_74 W h0).trans (by simp [dec74, h2, h3, h4, h5, h6, h7, legal, hl, hn, when])) h1
theorem join (a : SReg) : Statement (.join a) := by
  intro _ ch _ W he
  have he : bit ch * 2147483648 + (0x75000000 + a.val * 4096) = W := Option.some.inj he
  have hW : pack [(6, 0), (6, 0), (6, a.val), (6, 0), (7, 117), (1, bit ch)] = W := by rw [← he]; simp only [pack]; ring
  have hf : Fits [(6, 0), (6, 0), (6, a.val), (6, 0), (7, 117), (1, bit ch)] := ⟨by decide, by decide, a.isLt, by decide, by decide, bit_lt ch, trivial⟩
  have h0 : fld W 30 24 = 117 := fld_pack hW hf 4 rfl rfl rfl
  have h1 : fld W 31 31 = bit ch := fld_pack hW hf 5 rfl rfl rfl
  have h2 : fld W 5 0 = 0 := fld_pack hW hf 0 rfl rfl rfl
  have h3 : fld W 11 6 = 0 := fld_pack hW hf 1 rfl rfl rfl
  have h4 : fld W 23 18 = 0 := fld_pack hW hf 3 rfl rfl rfl
  have h5 : fld W 17 12 = a.val := fld_pack hW hf 2 rfl rfl rfl
  exact word_of W ch _ ((body_75 W h0).trans (by simp [dec75, h2, h3, h4, h5, when])) h1
theorem joinAll : Statement .joinAll := by
  intro _ ch _ W he
  have he : bit ch * 2147483648 + (0x75000001) = W := Option.some.inj he
  have hW : pack [(6, 1), (18, 0), (7, 117), (1, bit ch)] = W := by rw [← he]; simp only [pack]; ring
  have hf : Fits [(6, 1), (18, 0), (7, 117), (1, bit ch)] := ⟨by decide, by decide, by decide, bit_lt ch, trivial⟩
  have h0 : fld W 30 24 = 117 := fld_pack hW hf 2 rfl rfl rfl
  have h1 : fld W 31 31 = bit ch := fld_pack hW hf 3 rfl rfl rfl
  have h2 : fld W 5 0 = 1 := fld_pack hW hf 0 rfl rfl rfl
  have h3 : fld W 23 6 = 0 := fld_pack hW hf 1 rfl rfl rfl
  exact word_of W ch _ ((body_75 W h0).trans (by simp [dec75, h2, h3, when])) h1
theorem joinDoor (a : SReg) : Statement (.joinDoor a) := by
  intro _ ch _ W he
  have he : bit ch * 2147483648 + (0x75000002 + a.val * 4096) = W := Option.some.inj he
  have hW : pack [(6, 2), (6, 0), (6, a.val), (6, 0), (7, 117), (1, bit ch)] = W := by rw [← he]; simp only [pack]; ring
  have hf : Fits [(6, 2), (6, 0), (6, a.val), (6, 0), (7, 117), (1, bit ch)] := ⟨by decide, by decide, a.isLt, by decide, by decide, bit_lt ch, trivial⟩
  have h0 : fld W 30 24 = 117 := fld_pack hW hf 4 rfl rfl rfl
  have h1 : fld W 31 31 = bit ch := fld_pack hW hf 5 rfl rfl rfl
  have h2 : fld W 5 0 = 2 := fld_pack hW hf 0 rfl rfl rfl
  have h3 : fld W 11 6 = 0 := fld_pack hW hf 1 rfl rfl rfl
  have h4 : fld W 23 18 = 0 := fld_pack hW hf 3 rfl rfl rfl
  have h5 : fld W 17 12 = a.val := fld_pack hW hf 2 rfl rfl rfl
  exact word_of W ch _ ((body_75 W h0).trans (by simp [dec75, h2, h3, h4, h5, when])) h1
theorem amsg (d : SReg) : Statement (.amsg d) := by
  intro hw ch _ W he
  have he : bit ch * 2147483648 + (0x76000000 + d.val * 262144) = W := Option.some.inj he
  have hW : pack [(18, 0), (6, d.val), (7, 118), (1, bit ch)] = W := by rw [← he]; simp only [pack]; ring
  have hf : Fits [(18, 0), (6, d.val), (7, 118), (1, bit ch)] := ⟨by decide, d.isLt, by decide, bit_lt ch, trivial⟩
  have h0 : fld W 30 24 = 118 := fld_pack hW hf 2 rfl rfl rfl
  have h1 : fld W 31 31 = bit ch := fld_pack hW hf 3 rfl rfl rfl
  have h2 : fld W 17 0 = 0 := fld_pack hW hf 0 rfl rfl rfl
  have h3 : fld W 23 18 = d.val := fld_pack hW hf 1 rfl rfl rfl
  have hl := wf_limits hw
  exact word_of W ch _ ((body_76 W h0).trans (by simp [dec76, h2, h3, legal, hl, when])) h1
theorem xcfg (p : VReg) (n : TKind) (x : Bool) : Statement (.xcfg p n x) := by
  intro _ ch _ W he
  have he : bit ch * 2147483648 + (0x78000000 + p.val * 131072 + n.code * 1024 + bit x) = W := Option.some.inj he
  have hW : pack [(1, bit x), (9, 0), (2, n.code), (3, 0), (2, 0), (7, p.val), (7, 120), (1, bit ch)] = W := by rw [← he]; simp only [pack]; ring
  have hf : Fits [(1, bit x), (9, 0), (2, n.code), (3, 0), (2, 0), (7, p.val), (7, 120), (1, bit ch)] := ⟨bit_lt x, by decide, tKind_code_lt n, by decide, by decide, p.isLt, by decide, bit_lt ch, trivial⟩
  have h0 : fld W 30 24 = 120 := fld_pack hW hf 6 rfl rfl rfl
  have h1 : fld W 31 31 = bit ch := fld_pack hW hf 7 rfl rfl rfl
  have h2 : fld W 14 12 = 0 := fld_pack hW hf 3 rfl rfl rfl
  have h3 : fld W 11 10 = n.code := fld_pack hW hf 2 rfl rfl rfl
  have h4 : fld W 9 1 = 0 := fld_pack hW hf 1 rfl rfl rfl
  have h5 : fld W 16 15 = 0 := fld_pack hW hf 4 rfl rfl rfl
  have h6 : fld W 23 17 = p.val := fld_pack hW hf 5 rfl rfl rfl
  have h7 : fld W 0 0 = bit x := fld_pack hW hf 0 rfl rfl rfl
  exact word_of W ch _ ((body_78 W h0).trans (by simp [dec78, h2, h3, h4, h5, h6, h7, need, when])) h1
theorem xlds (p : VReg) (r : Fin 4) (f : Fmt) : Statement (.xlds p r f) := by
  intro _ ch _ W he
  have he : bit ch * 2147483648 + (0x79000000 + p.val * 131072 + r.val * 32768 + f.code * 1024) = W := Option.some.inj he
  have hW : pack [(10, 0), (4, f.code), (1, 0), (2, r.val), (7, p.val), (7, 121), (1, bit ch)] = W := by rw [← he]; simp only [pack]; ring
  have hf : Fits [(10, 0), (4, f.code), (1, 0), (2, r.val), (7, p.val), (7, 121), (1, bit ch)] := ⟨by decide, fmt_code_lt f, by decide, r.isLt, p.isLt, by decide, bit_lt ch, trivial⟩
  have h0 : fld W 30 24 = 121 := fld_pack hW hf 5 rfl rfl rfl
  have h1 : fld W 31 31 = bit ch := fld_pack hW hf 6 rfl rfl rfl
  have h2 : fld W 14 14 = 0 := fld_pack hW hf 2 rfl rfl rfl
  have h3 : fld W 13 10 = f.code := fld_pack hW hf 1 rfl rfl rfl
  have h4 : fld W 9 0 = 0 := fld_pack hW hf 0 rfl rfl rfl
  have h5 : fld W 23 17 = p.val := fld_pack hW hf 4 rfl rfl rfl
  have h6 : fld W 16 15 = r.val := fld_pack hW hf 3 rfl rfl rfl
  exact word_of W ch _ ((body_79 W h0).trans (by simp [dec79, h2, h3, h4, h5, h6, need, when])) h1
theorem xswp (r : Fin 4) : Statement (.xswp r) := by
  intro _ ch _ W he
  have he : bit ch * 2147483648 + (0x7A000000 + r.val * 32768) = W := Option.some.inj he
  have hW : pack [(10, 0), (5, 0), (2, r.val), (7, 0), (7, 122), (1, bit ch)] = W := by rw [← he]; simp only [pack]; ring
  have hf : Fits [(10, 0), (5, 0), (2, r.val), (7, 0), (7, 122), (1, bit ch)] := ⟨by decide, by decide, r.isLt, by decide, by decide, bit_lt ch, trivial⟩
  have h0 : fld W 30 24 = 122 := fld_pack hW hf 4 rfl rfl rfl
  have h1 : fld W 31 31 = bit ch := fld_pack hW hf 5 rfl rfl rfl
  have h2 : fld W 14 10 = 0 := fld_pack hW hf 1 rfl rfl rfl
  have h3 : fld W 9 0 = 0 := fld_pack hW hf 0 rfl rfl rfl
  have h4 : fld W 23 17 = 0 := fld_pack hW hf 3 rfl rfl rfl
  have h5 : fld W 16 15 = r.val := fld_pack hW hf 2 rfl rfl rfl
  exact word_of W ch _ ((body_7A W h0).trans (by simp [dec7A, h2, h3, h4, h5, when])) h1
theorem xmm (p : VReg) (r : Fin 4) (f : Fmt) (a : Bool) (i : Bool) : Statement (.xmm p r f a i) := by
  intro _ ch _ W he
  have he : bit ch * 2147483648 + (0x7B000000 + p.val * 131072 + r.val * 32768 + f.code * 1024 + bit a * 512 + bit i * 256) = W := Option.some.inj he
  have hW : pack [(8, 0), (1, bit i), (1, bit a), (4, f.code), (1, 0), (2, r.val), (7, p.val), (7, 123), (1, bit ch)] = W := by rw [← he]; simp only [pack]; ring
  have hf : Fits [(8, 0), (1, bit i), (1, bit a), (4, f.code), (1, 0), (2, r.val), (7, p.val), (7, 123), (1, bit ch)] := ⟨by decide, bit_lt i, bit_lt a, fmt_code_lt f, by decide, r.isLt, p.isLt, by decide, bit_lt ch, trivial⟩
  have h0 : fld W 30 24 = 123 := fld_pack hW hf 7 rfl rfl rfl
  have h1 : fld W 31 31 = bit ch := fld_pack hW hf 8 rfl rfl rfl
  have h2 : fld W 14 14 = 0 := fld_pack hW hf 4 rfl rfl rfl
  have h3 : fld W 13 10 = f.code := fld_pack hW hf 3 rfl rfl rfl
  have h4 : fld W 7 0 = 0 := fld_pack hW hf 0 rfl rfl rfl
  have h5 : fld W 23 17 = p.val := fld_pack hW hf 6 rfl rfl rfl
  have h6 : fld W 16 15 = r.val := fld_pack hW hf 5 rfl rfl rfl
  have h7 : fld W 9 9 = bit a := fld_pack hW hf 2 rfl rfl rfl
  have h8 : fld W 8 8 = bit i := fld_pack hW hf 1 rfl rfl rfl
  exact word_of W ch _ ((body_7B W h0).trans (by simp [dec7B, h2, h3, h4, h5, h6, h7, h8, need, when])) h1
theorem xbmm (p : VReg) (r : Fin 4) (f : Fmt) (i : Bool) : Statement (.xbmm p r f i) := by
  intro _ ch _ W he
  have he : bit ch * 2147483648 + (0x7C000000 + p.val * 131072 + r.val * 32768 + f.code * 1024 + bit i * 256) = W := Option.some.inj he
  have hW : pack [(8, 0), (1, bit i), (1, 0), (4, f.code), (1, 0), (2, r.val), (7, p.val), (7, 124), (1, bit ch)] = W := by rw [← he]; simp only [pack]; ring
  have hf : Fits [(8, 0), (1, bit i), (1, 0), (4, f.code), (1, 0), (2, r.val), (7, p.val), (7, 124), (1, bit ch)] := ⟨by decide, bit_lt i, by decide, fmt_code_lt f, by decide, r.isLt, p.isLt, by decide, bit_lt ch, trivial⟩
  have h0 : fld W 30 24 = 124 := fld_pack hW hf 7 rfl rfl rfl
  have h1 : fld W 31 31 = bit ch := fld_pack hW hf 8 rfl rfl rfl
  have h2 : fld W 14 14 = 0 := fld_pack hW hf 4 rfl rfl rfl
  have h3 : fld W 13 10 = f.code := fld_pack hW hf 3 rfl rfl rfl
  have h4 : fld W 7 0 = 0 := fld_pack hW hf 0 rfl rfl rfl
  have h5 : fld W 9 9 = 0 := fld_pack hW hf 2 rfl rfl rfl
  have h6 : fld W 23 17 = p.val := fld_pack hW hf 6 rfl rfl rfl
  have h7 : fld W 16 15 = r.val := fld_pack hW hf 5 rfl rfl rfl
  have h8 : fld W 8 8 = bit i := fld_pack hW hf 1 rfl rfl rfl
  exact word_of W ch _ ((body_7C W h0).trans (by simp [dec7C, h2, h3, h4, h5, h6, h7, h8, need, when])) h1
theorem xscac (p : VReg) (a : Bool) : Statement (.xscac p a) := by
  intro _ ch _ W he
  have he : bit ch * 2147483648 + (0x7D000000 + p.val * 131072 + bit a * 512) = W := Option.some.inj he
  have hW : pack [(9, 0), (1, bit a), (5, 0), (2, 0), (7, p.val), (7, 125), (1, bit ch)] = W := by rw [← he]; simp only [pack]; ring
  have hf : Fits [(9, 0), (1, bit a), (5, 0), (2, 0), (7, p.val), (7, 125), (1, bit ch)] := ⟨by decide, bit_lt a, by decide, by decide, p.isLt, by decide, bit_lt ch, trivial⟩
  have h0 : fld W 30 24 = 125 := fld_pack hW hf 5 rfl rfl rfl
  have h1 : fld W 31 31 = bit ch := fld_pack hW hf 6 rfl rfl rfl
  have h2 : fld W 14 10 = 0 := fld_pack hW hf 2 rfl rfl rfl
  have h3 : fld W 8 0 = 0 := fld_pack hW hf 0 rfl rfl rfl
  have h4 : fld W 16 15 = 0 := fld_pack hW hf 3 rfl rfl rfl
  have h5 : fld W 23 17 = p.val := fld_pack hW hf 4 rfl rfl rfl
  have h6 : fld W 9 9 = bit a := fld_pack hW hf 1 rfl rfl rfl
  exact word_of W ch _ ((body_7D W h0).trans (by simp [dec7D, h2, h3, h4, h5, h6, when])) h1
theorem xdrn (p : VReg) : Statement (.xdrn p) := by
  intro _ ch _ W he
  have he : bit ch * 2147483648 + (0x7E000000 + p.val * 131072) = W := Option.some.inj he
  have hW : pack [(10, 0), (5, 0), (2, 0), (7, p.val), (7, 126), (1, bit ch)] = W := by rw [← he]; simp only [pack]; ring
  have hf : Fits [(10, 0), (5, 0), (2, 0), (7, p.val), (7, 126), (1, bit ch)] := ⟨by decide, by decide, by decide, p.isLt, by decide, bit_lt ch, trivial⟩
  have h0 : fld W 30 24 = 126 := fld_pack hW hf 4 rfl rfl rfl
  have h1 : fld W 31 31 = bit ch := fld_pack hW hf 5 rfl rfl rfl
  have h2 : fld W 14 10 = 0 := fld_pack hW hf 1 rfl rfl rfl
  have h3 : fld W 9 0 = 0 := fld_pack hW hf 0 rfl rfl rfl
  have h4 : fld W 16 15 = 0 := fld_pack hW hf 2 rfl rfl rfl
  have h5 : fld W 23 17 = p.val := fld_pack hW hf 3 rfl rfl rfl
  exact word_of W ch _ ((body_7E W h0).trans (by simp [dec7E, h2, h3, h4, h5, when])) h1
theorem xrel (p : VReg) (x : Bool) : Statement (.xrel p x) := by
  intro _ ch _ W he
  have he : bit ch * 2147483648 + (0x7E000400 + p.val * 131072 + bit x) = W := Option.some.inj he
  have hW : pack [(1, bit x), (9, 0), (5, 1), (2, 0), (7, p.val), (7, 126), (1, bit ch)] = W := by rw [← he]; simp only [pack]; ring
  have hf : Fits [(1, bit x), (9, 0), (5, 1), (2, 0), (7, p.val), (7, 126), (1, bit ch)] := ⟨bit_lt x, by decide, by decide, by decide, p.isLt, by decide, bit_lt ch, trivial⟩
  have h0 : fld W 30 24 = 126 := fld_pack hW hf 5 rfl rfl rfl
  have h1 : fld W 31 31 = bit ch := fld_pack hW hf 6 rfl rfl rfl
  have h2 : fld W 14 10 = 1 := fld_pack hW hf 2 rfl rfl rfl
  have h3 : fld W 9 1 = 0 := fld_pack hW hf 1 rfl rfl rfl
  have h4 : fld W 16 15 = 0 := fld_pack hW hf 3 rfl rfl rfl
  have h5 : fld W 23 17 = p.val := fld_pack hW hf 4 rfl rfl rfl
  have h6 : fld W 0 0 = bit x := fld_pack hW hf 0 rfl rfl rfl
  exact word_of W ch _ ((body_7E W h0).trans (by simp [dec7E, h2, h3, h4, h5, h6, when])) h1
theorem eret : Statement .eret := by
  intro _ ch _ W he
  have he : bit ch * 2147483648 + (0x7F000000) = W := Option.some.inj he
  have hW : pack [(6, 0), (18, 0), (7, 127), (1, bit ch)] = W := by rw [← he]; simp only [pack]; ring
  have hf : Fits [(6, 0), (18, 0), (7, 127), (1, bit ch)] := ⟨by decide, by decide, by decide, bit_lt ch, trivial⟩
  have h0 : fld W 30 24 = 127 := fld_pack hW hf 2 rfl rfl rfl
  have h1 : fld W 31 31 = bit ch := fld_pack hW hf 3 rfl rfl rfl
  have h2 : fld W 5 0 = 0 := fld_pack hW hf 0 rfl rfl rfl
  have h3 : fld W 23 6 = 0 := fld_pack hW hf 1 rfl rfl rfl
  exact word_of W ch _ ((body_7F W h0).trans (by simp [dec7F, h2, h3, when])) h1
theorem mfsys (d : SReg) (n : Fin 4096) : Statement (.mfsys d n) := by
  intro _ ch _ W he
  have he : bit ch * 2147483648 + (0x7F000001 + d.val * 262144 + n.val * 64) = W := Option.some.inj he
  have hW : pack [(6, 1), (12, n.val), (6, d.val), (7, 127), (1, bit ch)] = W := by rw [← he]; simp only [pack]; ring
  have hf : Fits [(6, 1), (12, n.val), (6, d.val), (7, 127), (1, bit ch)] := ⟨by decide, n.isLt, d.isLt, by decide, bit_lt ch, trivial⟩
  have h0 : fld W 30 24 = 127 := fld_pack hW hf 3 rfl rfl rfl
  have h1 : fld W 31 31 = bit ch := fld_pack hW hf 4 rfl rfl rfl
  have h2 : fld W 5 0 = 1 := fld_pack hW hf 0 rfl rfl rfl
  have h3 : fld W 23 18 = d.val := fld_pack hW hf 2 rfl rfl rfl
  have h4 : fld W 17 6 = n.val := fld_pack hW hf 1 rfl rfl rfl
  exact word_of W ch _ ((body_7F W h0).trans (by simp [dec7F, h2, h3, h4])) h1
theorem mtsys (a : SReg) (n : Fin 4096) : Statement (.mtsys a n) := by
  intro _ ch _ W he
  have he : bit ch * 2147483648 + (0x7F000002 + a.val * 262144 + n.val * 64) = W := Option.some.inj he
  have hW : pack [(6, 2), (12, n.val), (6, a.val), (7, 127), (1, bit ch)] = W := by rw [← he]; simp only [pack]; ring
  have hf : Fits [(6, 2), (12, n.val), (6, a.val), (7, 127), (1, bit ch)] := ⟨by decide, n.isLt, a.isLt, by decide, bit_lt ch, trivial⟩
  have h0 : fld W 30 24 = 127 := fld_pack hW hf 3 rfl rfl rfl
  have h1 : fld W 31 31 = bit ch := fld_pack hW hf 4 rfl rfl rfl
  have h2 : fld W 5 0 = 2 := fld_pack hW hf 0 rfl rfl rfl
  have h3 : fld W 23 18 = a.val := fld_pack hW hf 2 rfl rfl rfl
  have h4 : fld W 17 6 = n.val := fld_pack hW hf 1 rfl rfl rfl
  exact word_of W ch _ ((body_7F W h0).trans (by simp [dec7F, h2, h3, h4])) h1
theorem tlbinvVa (a : SReg) : Statement (.tlbinvVa a) := by
  intro _ ch _ W he
  have he : bit ch * 2147483648 + (0x7F000003 + a.val * 262144) = W := Option.some.inj he
  have hW : pack [(6, 3), (12, 0), (6, a.val), (7, 127), (1, bit ch)] = W := by rw [← he]; simp only [pack]; ring
  have hf : Fits [(6, 3), (12, 0), (6, a.val), (7, 127), (1, bit ch)] := ⟨by decide, by decide, a.isLt, by decide, bit_lt ch, trivial⟩
  have h0 : fld W 30 24 = 127 := fld_pack hW hf 3 rfl rfl rfl
  have h1 : fld W 31 31 = bit ch := fld_pack hW hf 4 rfl rfl rfl
  have h2 : fld W 5 0 = 3 := fld_pack hW hf 0 rfl rfl rfl
  have h3 : fld W 17 6 = 0 := fld_pack hW hf 1 rfl rfl rfl
  have h4 : fld W 23 18 = a.val := fld_pack hW hf 2 rfl rfl rfl
  exact word_of W ch _ ((body_7F W h0).trans (by simp [dec7F, h2, h3, h4, when])) h1
theorem tlbinvAsid (a : SReg) : Statement (.tlbinvAsid a) := by
  intro _ ch _ W he
  have he : bit ch * 2147483648 + (0x7F000004 + a.val * 262144) = W := Option.some.inj he
  have hW : pack [(6, 4), (12, 0), (6, a.val), (7, 127), (1, bit ch)] = W := by rw [← he]; simp only [pack]; ring
  have hf : Fits [(6, 4), (12, 0), (6, a.val), (7, 127), (1, bit ch)] := ⟨by decide, by decide, a.isLt, by decide, bit_lt ch, trivial⟩
  have h0 : fld W 30 24 = 127 := fld_pack hW hf 3 rfl rfl rfl
  have h1 : fld W 31 31 = bit ch := fld_pack hW hf 4 rfl rfl rfl
  have h2 : fld W 5 0 = 4 := fld_pack hW hf 0 rfl rfl rfl
  have h3 : fld W 17 6 = 0 := fld_pack hW hf 1 rfl rfl rfl
  have h4 : fld W 23 18 = a.val := fld_pack hW hf 2 rfl rfl rfl
  exact word_of W ch _ ((body_7F W h0).trans (by simp [dec7F, h2, h3, h4, when])) h1
theorem tlbinvAll : Statement .tlbinvAll := by
  intro _ ch _ W he
  have he : bit ch * 2147483648 + (0x7F000005) = W := Option.some.inj he
  have hW : pack [(6, 5), (18, 0), (7, 127), (1, bit ch)] = W := by rw [← he]; simp only [pack]; ring
  have hf : Fits [(6, 5), (18, 0), (7, 127), (1, bit ch)] := ⟨by decide, by decide, by decide, bit_lt ch, trivial⟩
  have h0 : fld W 30 24 = 127 := fld_pack hW hf 2 rfl rfl rfl
  have h1 : fld W 31 31 = bit ch := fld_pack hW hf 3 rfl rfl rfl
  have h2 : fld W 5 0 = 5 := fld_pack hW hf 0 rfl rfl rfl
  have h3 : fld W 23 6 = 0 := fld_pack hW hf 1 rfl rfl rfl
  exact word_of W ch _ ((body_7F W h0).trans (by simp [dec7F, h2, h3, when])) h1
theorem seatctlEvack (a : SReg) : Statement (.seatctlEvack a) := by
  intro _ ch _ W he
  have he : bit ch * 2147483648 + (0x7F000006 + a.val * 262144) = W := Option.some.inj he
  have hW : pack [(6, 6), (12, 0), (6, a.val), (7, 127), (1, bit ch)] = W := by rw [← he]; simp only [pack]; ring
  have hf : Fits [(6, 6), (12, 0), (6, a.val), (7, 127), (1, bit ch)] := ⟨by decide, by decide, a.isLt, by decide, bit_lt ch, trivial⟩
  have h0 : fld W 30 24 = 127 := fld_pack hW hf 3 rfl rfl rfl
  have h1 : fld W 31 31 = bit ch := fld_pack hW hf 4 rfl rfl rfl
  have h2 : fld W 5 0 = 6 := fld_pack hW hf 0 rfl rfl rfl
  have h3 : fld W 17 6 = 0 := fld_pack hW hf 1 rfl rfl rfl
  have h4 : fld W 23 18 = a.val := fld_pack hW hf 2 rfl rfl rfl
  exact word_of W ch _ ((body_7F W h0).trans (by simp [dec7F, h2, h3, h4])) h1
theorem seatctlKill (a : SReg) : Statement (.seatctlKill a) := by
  intro _ ch _ W he
  have he : bit ch * 2147483648 + (0x7F000046 + a.val * 262144) = W := Option.some.inj he
  have hW : pack [(6, 6), (12, 1), (6, a.val), (7, 127), (1, bit ch)] = W := by rw [← he]; simp only [pack]; ring
  have hf : Fits [(6, 6), (12, 1), (6, a.val), (7, 127), (1, bit ch)] := ⟨by decide, by decide, a.isLt, by decide, bit_lt ch, trivial⟩
  have h0 : fld W 30 24 = 127 := fld_pack hW hf 3 rfl rfl rfl
  have h1 : fld W 31 31 = bit ch := fld_pack hW hf 4 rfl rfl rfl
  have h2 : fld W 5 0 = 6 := fld_pack hW hf 0 rfl rfl rfl
  have h3 : fld W 17 6 = 1 := fld_pack hW hf 1 rfl rfl rfl
  have h4 : fld W 23 18 = a.val := fld_pack hW hf 2 rfl rfl rfl
  exact word_of W ch _ ((body_7F W h0).trans (by simp [dec7F, h2, h3, h4])) h1
theorem seatctlYield (a : SReg) : Statement (.seatctlYield a) := by
  intro _ ch _ W he
  have he : bit ch * 2147483648 + (0x7F000086 + a.val * 262144) = W := Option.some.inj he
  have hW : pack [(6, 6), (12, 2), (6, a.val), (7, 127), (1, bit ch)] = W := by rw [← he]; simp only [pack]; ring
  have hf : Fits [(6, 6), (12, 2), (6, a.val), (7, 127), (1, bit ch)] := ⟨by decide, by decide, a.isLt, by decide, bit_lt ch, trivial⟩
  have h0 : fld W 30 24 = 127 := fld_pack hW hf 3 rfl rfl rfl
  have h1 : fld W 31 31 = bit ch := fld_pack hW hf 4 rfl rfl rfl
  have h2 : fld W 5 0 = 6 := fld_pack hW hf 0 rfl rfl rfl
  have h3 : fld W 17 6 = 2 := fld_pack hW hf 1 rfl rfl rfl
  have h4 : fld W 23 18 = a.val := fld_pack hW hf 2 rfl rfl rfl
  exact word_of W ch _ ((body_7F W h0).trans (by simp [dec7F, h2, h3, h4])) h1
theorem halt (a : SReg) : Statement (.halt a) := by
  intro _ ch _ W he
  have he : bit ch * 2147483648 + (0x7F000007 + a.val * 262144) = W := Option.some.inj he
  have hW : pack [(6, 7), (12, 0), (6, a.val), (7, 127), (1, bit ch)] = W := by rw [← he]; simp only [pack]; ring
  have hf : Fits [(6, 7), (12, 0), (6, a.val), (7, 127), (1, bit ch)] := ⟨by decide, by decide, a.isLt, by decide, bit_lt ch, trivial⟩
  have h0 : fld W 30 24 = 127 := fld_pack hW hf 3 rfl rfl rfl
  have h1 : fld W 31 31 = bit ch := fld_pack hW hf 4 rfl rfl rfl
  have h2 : fld W 5 0 = 7 := fld_pack hW hf 0 rfl rfl rfl
  have h3 : fld W 17 6 = 0 := fld_pack hW hf 1 rfl rfl rfl
  have h4 : fld W 23 18 = a.val := fld_pack hW hf 2 rfl rfl rfl
  exact word_of W ch _ ((body_7F W h0).trans (by simp [dec7F, h2, h3, h4, when])) h1
theorem deferredTrap : Statement .deferredTrap := fun _ _ _ _ h => nomatch h
theorem resetRelease : Statement .resetRelease := fun _ _ _ _ h => nomatch h
theorem frameBoundary : Statement .frameBoundary := fun _ _ _ _ h => nomatch h
theorem seating : Statement .seating := fun _ _ _ _ h => nomatch h
theorem leaseBegin : Statement .leaseBegin := fun _ _ _ _ h => nomatch h
theorem leaseEnd : Statement .leaseEnd := fun _ _ _ _ h => nomatch h
theorem positionStart : Statement .positionStart := fun _ _ _ _ h => nomatch h
theorem dramRefresh : Statement .dramRefresh := fun _ _ _ _ h => nomatch h
theorem loadReply : Statement .loadReply := fun _ _ _ _ h => nomatch h
theorem storePerform : Statement .storePerform := fun _ _ _ _ h => nomatch h
theorem storeAcknowledge : Statement .storeAcknowledge := fun _ _ _ _ h => nomatch h
theorem lineRecall : Statement .lineRecall := fun _ _ _ _ h => nomatch h
theorem atomicPerform : Statement .atomicPerform := fun _ _ _ _ h => nomatch h
theorem scratchpadRowServe : Statement .scratchpadRowServe := fun _ _ _ _ h => nomatch h
theorem bufferPortCycle : Statement .bufferPortCycle := fun _ _ _ _ h => nomatch h
theorem bankWakeEnd : Statement .bankWakeEnd := fun _ _ _ _ h => nomatch h
theorem eacqGrant : Statement .eacqGrant := fun _ _ _ _ h => nomatch h
theorem releaseApply : Statement .releaseApply := fun _ _ _ _ h => nomatch h
theorem waitResume : Statement .waitResume := fun _ _ _ _ h => nomatch h
theorem waitcResume : Statement .waitcResume := fun _ _ _ _ h => nomatch h
theorem copyCommandStart : Statement .copyCommandStart := fun _ _ _ _ h => nomatch h
theorem circSlotReady : Statement .circSlotReady := fun _ _ _ _ h => nomatch h
theorem copyPieceStart : Statement .copyPieceStart := fun _ _ _ _ h => nomatch h
theorem pieceLand : Statement .pieceLand := fun _ _ _ _ h => nomatch h
theorem heldPieceRelease : Statement .heldPieceRelease := fun _ _ _ _ h => nomatch h
theorem copyCommandComplete : Statement .copyCommandComplete := fun _ _ _ _ h => nomatch h
theorem xldsComplete : Statement .xldsComplete := fun _ _ _ _ h => nomatch h
theorem xswpComplete : Statement .xswpComplete := fun _ _ _ _ h => nomatch h
theorem rowInject : Statement .rowInject := fun _ _ _ _ h => nomatch h
theorem passComplete : Statement .passComplete := fun _ _ _ _ h => nomatch h
theorem xcfgComplete : Statement .xcfgComplete := fun _ _ _ _ h => nomatch h
theorem xrelComplete : Statement .xrelComplete := fun _ _ _ _ h => nomatch h
theorem xdrnComplete : Statement .xdrnComplete := fun _ _ _ _ h => nomatch h
theorem xscacComplete : Statement .xscacComplete := fun _ _ _ _ h => nomatch h
theorem ringPassage : Statement .ringPassage := fun _ _ _ _ h => nomatch h
theorem ringResultWrite : Statement .ringResultWrite := fun _ _ _ _ h => nomatch h
theorem alightWritePerformed : Statement .alightWritePerformed := fun _ _ _ _ h => nomatch h
theorem chargedWaitDue : Statement .chargedWaitDue := fun _ _ _ _ h => nomatch h
theorem lateWaitFreeze : Statement .lateWaitFreeze := fun _ _ _ _ h => nomatch h
theorem freezeResume : Statement .freezeResume := fun _ _ _ _ h => nomatch h
theorem quantumEnd : Statement .quantumEnd := fun _ _ _ _ h => nomatch h
theorem switchComplete : Statement .switchComplete := fun _ _ _ _ h => nomatch h
theorem teamCarving : Statement .teamCarving := fun _ _ _ _ h => nomatch h
theorem teamRelease : Statement .teamRelease := fun _ _ _ _ h => nomatch h
theorem victimChoice : Statement .victimChoice := fun _ _ _ _ h => nomatch h
theorem drainComplete : Statement .drainComplete := fun _ _ _ _ h => nomatch h
theorem saveComplete : Statement .saveComplete := fun _ _ _ _ h => nomatch h
theorem parkWake : Statement .parkWake := fun _ _ _ _ h => nomatch h
theorem groupEnd : Statement .groupEnd := fun _ _ _ _ h => nomatch h
theorem teamEnd : Statement .teamEnd := fun _ _ _ _ h => nomatch h
theorem gridEnd : Statement .gridEnd := fun _ _ _ _ h => nomatch h
theorem regroupComplete : Statement .regroupComplete := fun _ _ _ _ h => nomatch h
theorem tlbWalkComplete : Statement .tlbWalkComplete := fun _ _ _ _ h => nomatch h
theorem tlbinvComplete : Statement .tlbinvComplete := fun _ _ _ _ h => nomatch h
theorem faultService : Statement .faultService := fun _ _ _ _ h => nomatch h
theorem logReplay : Statement .logReplay := fun _ _ _ _ h => nomatch h
theorem pageMigration : Statement .pageMigration := fun _ _ _ _ h => nomatch h
theorem heatSweep : Statement .heatSweep := fun _ _ _ _ h => nomatch h
theorem loadBalance : Statement .loadBalance := fun _ _ _ _ h => nomatch h
theorem amsgAccept : Statement .amsgAccept := fun _ _ _ _ h => nomatch h
theorem doorbellWrite : Statement .doorbellWrite := fun _ _ _ _ h => nomatch h
theorem doorcntWrite : Statement .doorcntWrite := fun _ _ _ _ h => nomatch h
theorem queueNop : Statement .queueNop := fun _ _ _ _ h => nomatch h
theorem queueLaunch : Statement .queueLaunch := fun _ _ _ _ h => nomatch h
theorem indirect : Statement .indirect := fun _ _ _ _ h => nomatch h
theorem signal : Statement .signal := fun _ _ _ _ h => nomatch h
theorem wait : Statement .wait := fun _ _ _ _ h => nomatch h
theorem waitReread : Statement .waitReread := fun _ _ _ _ h => nomatch h
theorem launchDelivery : Statement .launchDelivery := fun _ _ _ _ h => nomatch h
theorem completionWrite : Statement .completionWrite := fun _ _ _ _ h => nomatch h
theorem cqdoneReread : Statement .cqdoneReread := fun _ _ _ _ h => nomatch h
theorem admitSeat : Statement .admitSeat := fun _ _ _ _ h => nomatch h
theorem evict : Statement .evict := fun _ _ _ _ h => nomatch h
theorem seatEviction : Statement .seatEviction := fun _ _ _ _ h => nomatch h
theorem lease : Statement .lease := fun _ _ _ _ h => nomatch h
theorem qtable : Statement .qtable := fun _ _ _ _ h => nomatch h
theorem qreg : Statement .qreg := fun _ _ _ _ h => nomatch h
theorem runmode : Statement .runmode := fun _ _ _ _ h => nomatch h
theorem preempt : Statement .preempt := fun _ _ _ _ h => nomatch h
theorem preemptDelivery : Statement .preemptDelivery := fun _ _ _ _ h => nomatch h
theorem resume : Statement .resume := fun _ _ _ _ h => nomatch h
theorem powercap : Statement .powercap := fun _ _ _ _ h => nomatch h
theorem status : Statement .status := fun _ _ _ _ h => nomatch h
theorem seatfloor : Statement .seatfloor := fun _ _ _ _ h => nomatch h
theorem pagedone : Statement .pagedone := fun _ _ _ _ h => nomatch h
theorem unfence : Statement .unfence := fun _ _ _ _ h => nomatch h
theorem fenceLift : Statement .fenceLift := fun _ _ _ _ h => nomatch h
theorem linkopen : Statement .linkopen := fun _ _ _ _ h => nomatch h
theorem undefinedCommand : Statement .undefinedCommand := fun _ _ _ _ h => nomatch h
theorem registerWrite : Statement .registerWrite := fun _ _ _ _ h => nomatch h
theorem powerEvaluation : Statement .powerEvaluation := fun _ _ _ _ h => nomatch h
theorem clockStepChange : Statement .clockStepChange := fun _ _ _ _ h => nomatch h
theorem quantumCommit : Statement .quantumCommit := fun _ _ _ _ h => nomatch h
theorem hostBarRequest : Statement .hostBarRequest := fun _ _ _ _ h => nomatch h
theorem atsInvalidationRequest : Statement .atsInvalidationRequest := fun _ _ _ _ h => nomatch h
theorem atsCompletion : Statement .atsCompletion := fun _ _ _ _ h => nomatch h
theorem priResponse : Statement .priResponse := fun _ _ _ _ h => nomatch h
theorem linkRetrain : Statement .linkRetrain := fun _ _ _ _ h => nomatch h
theorem spdmRequest : Statement .spdmRequest := fun _ _ _ _ h => nomatch h
theorem mctpStatus : Statement .mctpStatus := fun _ _ _ _ h => nomatch h
theorem colalmInboundRequest : Statement .colalmInboundRequest := fun _ _ _ _ h => nomatch h
theorem colalmTraining : Statement .colalmTraining := fun _ _ _ _ h => nomatch h
theorem dramReadRetry : Statement .dramReadRetry := fun _ _ _ _ h => nomatch h
theorem meshFlitRetry : Statement .meshFlitRetry := fun _ _ _ _ h => nomatch h
theorem illegalInstruction : Statement .illegalInstruction := fun _ _ _ _ h => nomatch h
theorem configurationRequest : Statement .configurationRequest := fun _ _ _ _ h => nomatch h

end RoundTrip

end Sys2Proof.Laws
end

