-- ==== Sys2Proof/Safety.lean ====
section
/-!
DEFINITION. What counts as a safe run, in the terms that claims use: a step answers a next state, and between steps no split is
in focus, no event is at hand, and every memory of the device has its canonical form.
-/

namespace Sys2Proof.Machine

open Sys2Proof

/-- A step that goes on: neither a fault nor a refusal. -/
abbrev Goes (o : Host.Outcome State Fault Refusal) : Prop := ∃ t, o = .next t

/-- Between steps: no split in focus, no event at hand. -/
def State.idle (s : State) : Bool := !s.cur.live && s.ev.isNone

/-- The memories of a save area have their canonical form. -/
def SaveRecord.memWf (r : SaveRecord) : Bool := Memory.wf r.scratch && Memory.wf r.abuf && Memory.wf r.wbuf && Memory.wf r.xbuf
/-- The memories of a team have their canonical form. -/
def Team.memWf (t : Team) : Bool := Memory.wf t.scratch && Memory.wf t.abuf && Memory.wf t.wbuf && Memory.wf t.xbuf
  && t.save.all SaveRecord.memWf
/-- Every memory of the state has its canonical form. -/
def State.memWf (s : State) : Bool :=
  Memory.wf s.mem && Memory.wf s.hostMem && Memory.wf s.peerMem && s.teams.all Team.memWf && s.cur.team.memWf

/-- A word may act: a split is in focus, and none of the word's register checks traps (R38, R65, R68, R76, R77). -/
def Ready (i : Instr) (s : State) : Prop := s.cur.live = true ∧ regTraps i s = []
/-- The state in which a ready word acts: the banks it writes have begun to wake (R68). -/
def State.acting (s : State) (i : Instr) : State := s.wakeFor (uses i).wv

/-- The registers are in canonical form. -/
def RegsWf (r : Regs) : Prop :=
  SMap.wf (0 : W64) r.s = true ∧ SMap.wf (0 : W32) r.v = true ∧ SMap.wf (0 : LaneMask) r.c = true ∧ SMap.wf (0 : Byte) r.nest = true

/-- Every byte of memory reads as before: device, host and peer memory, and the local memories of the team in focus. -/
def SameBytes (s t : State) : Prop :=
  (∀ p, t.readAt p 1 = s.readAt p 1) ∧ t.cur.team.scratch = s.cur.team.scratch ∧ t.cur.team.abuf = s.cur.team.abuf
    ∧ t.cur.team.wbuf = s.cur.team.wbuf ∧ t.cur.team.xbuf = s.cur.team.xbuf ∧ t.teams = s.teams
/-- No special register of the group changed: the trap registers, %brkctl, %iret, the counts of %qcnt, the privilege level. -/
def SameSpecials (s t : State) : Prop :=
  t.cur.group.trap = s.cur.group.trap ∧ t.cur.group.brkctl = s.cur.group.brkctl ∧ t.cur.group.iret = s.cur.group.iret
    ∧ t.cur.group.counts = s.cur.group.counts ∧ t.cur.group.level = s.cur.group.level ∧ t.g = s.g ∧ t.seats = s.seats ∧ t.power = s.power

end Sys2Proof.Machine
end

