-- ==== Sys2Proof/Certificates/Slice0/Obligations.lean ====
section
/-!
DEFINITION. Statements for the provers, from the numbered rules of spec/. A statement about a word holds for every state in which
a split is in focus (`live`); where the word names vector registers, `Ready` adds that its register checks pass, and `acting` is
the state in which the banks it writes have begun to wake.
-/

open Sys2Proof Sys2Proof.Machine

/-- sadd, ssub, smul and smulh write the exact result cut to 64 bits (its high half for smulh); sand, sor, sxor act bitwise; the shifts use n = b[5:0]; smin and smax choose under the named order; sslt and sseq write 1 or 0. (R190) -/
def Obligations.ScalarAluResults : Prop :=
  ∀ (s : State) (d a b : SReg), s.cur.live = true →
    let x := s.rS a
    let y := s.rS b
    let n := y.toNat % 64
    exec (.sadd d a b) s = .next (s.wS d (BitVec.ofInt 64 (x.toInt + y.toInt)))
    ∧ exec (.ssub d a b) s = .next (s.wS d (BitVec.ofInt 64 (x.toInt - y.toInt)))
    ∧ exec (.smul d a b) s = .next (s.wS d (BitVec.ofInt 64 (x.toInt * y.toInt)))
    ∧ exec (.smulhS d a b) s = .next (s.wS d (BitVec.ofInt 64 (x.toInt * y.toInt / 2 ^ 64)))
    ∧ exec (.smulhZ d a b) s = .next (s.wS d (BitVec.ofNat 64 (x.toNat * y.toNat / 2 ^ 64)))
    ∧ exec (.sand d a b) s = .next (s.wS d (x &&& y))
    ∧ exec (.sor d a b) s = .next (s.wS d (x ||| y))
    ∧ exec (.sxor d a b) s = .next (s.wS d (x ^^^ y))
    ∧ exec (.sshl d a b) s = .next (s.wS d (BitVec.ofNat 64 (x.toNat * 2 ^ n)))
    ∧ exec (.sshrZ d a b) s = .next (s.wS d (BitVec.ofNat 64 (x.toNat / 2 ^ n)))
    ∧ exec (.sshrS d a b) s = .next (s.wS d (BitVec.ofInt 64 (x.toInt / 2 ^ n)))
    ∧ exec (.sminS d a b) s = .next (s.wS d (if x.toInt ≤ y.toInt then x else y))
    ∧ exec (.smaxS d a b) s = .next (s.wS d (if y.toInt ≤ x.toInt then x else y))
    ∧ exec (.sminZ d a b) s = .next (s.wS d (if x.toNat ≤ y.toNat then x else y))
    ∧ exec (.smaxZ d a b) s = .next (s.wS d (if y.toNat ≤ x.toNat then x else y))
    ∧ exec (.ssltS d a b) s = .next (s.wS d (if x.toInt < y.toInt then 1 else 0))
    ∧ exec (.ssltZ d a b) s = .next (s.wS d (if x.toNat < y.toNat then 1 else 0))
    ∧ exec (.sseq d a b) s = .next (s.wS d (if x.toNat = y.toNat then 1 else 0))

/-- Two states that differ only in bits of b above bit 5 shift alike; every scalar ALU word answers a next state that differs from the state before in S[d] alone and takes no trap, whatever its operands; with sd = s0 nothing is written. (R191) -/
def Obligations.ScalarAluNeverTraps : Prop :=
  ∀ (s : State) (d a b : SReg), s.cur.live = true →
    let shift (x y : W64) (i : Nat) : W64 := if i = 0 then BitVec.ofNat 64 (x.toNat * 2 ^ y.toNat) else if i = 1 then BitVec.ofNat 64 (x.toNat / 2 ^ y.toNat)
      else BitVec.ofInt 64 (x.toInt / 2 ^ y.toNat)
    let low : W64 := BitVec.ofNat 64 ((s.rS b).toNat % 64)
    (exec (.sshl d a b) s = .next (s.wS d (shift (s.rS a) low 0)) ∧ exec (.sshrZ d a b) s = .next (s.wS d (shift (s.rS a) low 1))
      ∧ exec (.sshrS d a b) s = .next (s.wS d (shift (s.rS a) low 2)))
    ∧ ∀ i ∈ [.sadd d a b, .ssub d a b, .smul d a b, .smulhS d a b, .smulhZ d a b, .sand d a b, .sor d a b, .sxor d a b, .sshl d a b,
        .sshrZ d a b, .sshrS d a b, .sminS d a b, .smaxS d a b, .sminZ d a b, .smaxZ d a b, .ssltS d a b, .ssltZ d a b, .sseq d a b],
        (∃ v, exec i s = .next (s.wS d v)) ∧ (d = 0 → exec i s = .next s)

/-- Each word of majors 0x02 to 0x07 decodes to its instruction with every field; saddi, sandi, sori and sxori use the sign-extended imm12, sshli and sshri shift by n, slit writes the sign-extended imm18; a reserved sub raises cause 2 and non-zero bits [11:8] of a shift immediate cause 3. (R192, R193, R194) -/
def Obligations.ScalarImmediateWords : Prop :=
  ∀ (s : State) (c : Bool) (d a : SReg) (i : BitVec 12) (n : Fin 64) (j : BitVec 18) (k : Nat),
    let head (major : Nat) : Nat := bit c * 2 ^ 31 + major * 2 ^ 24 + d.val * 2 ^ 18
    let src := a.val * 2 ^ 12
    let x := s.rS a
    let e : W64 := BitVec.ofInt 64 i.toInt
    (decodeWord (head 0x02 + src + i.toNat) = .ok ⟨c, .saddi d a i⟩ ∧ decodeWord (head 0x03 + src + i.toNat) = .ok ⟨c, .sandi d a i⟩
      ∧ decodeWord (head 0x04 + src + i.toNat) = .ok ⟨c, .sori d a i⟩ ∧ decodeWord (head 0x05 + src + i.toNat) = .ok ⟨c, .sxori d a i⟩
      ∧ decodeWord (head 0x06 + src + n.val) = .ok ⟨c, .sshli d a n⟩ ∧ decodeWord (head 0x06 + src + 64 + n.val) = .ok ⟨c, .sshriZ d a n⟩
      ∧ decodeWord (head 0x06 + src + 128 + n.val) = .ok ⟨c, .sshriS d a n⟩ ∧ decodeWord (head 0x06 + src + 192 + n.val) = .error 2
      ∧ (1 ≤ k → k < 16 → ∀ m, m < 3 → decodeWord (head 0x06 + src + k * 2 ^ 8 + m * 2 ^ 6 + n.val) = .error 3)
      ∧ decodeWord (head 0x07 + j.toNat) = .ok ⟨c, .slit d j⟩)
    ∧ (s.cur.live = true →
      exec (.saddi d a i) s = .next (s.wS d (BitVec.ofInt 64 (x.toInt + i.toInt)))
      ∧ exec (.sandi d a i) s = .next (s.wS d (x &&& e))
      ∧ exec (.sori d a i) s = .next (s.wS d (x ||| e))
      ∧ exec (.sxori d a i) s = .next (s.wS d (x ^^^ e))
      ∧ exec (.sshli d a n) s = .next (s.wS d (BitVec.ofNat 64 (x.toNat * 2 ^ n.val)))
      ∧ exec (.sshriZ d a n) s = .next (s.wS d (BitVec.ofNat 64 (x.toNat / 2 ^ n.val)))
      ∧ exec (.sshriS d a n) s = .next (s.wS d (BitVec.ofInt 64 (x.toInt / 2 ^ n.val)))
      ∧ exec (.slit d j) s = .next (s.wS d (BitVec.ofInt 64 j.toInt)))

/-- Each scmp writes every bit of C[cd], 1 when the comparison is true and 0 when it is false, whatever lanes are active; each legal word decodes to its compare, a cd of 7 raises cause 4, a larger cd field cause 3, a reserved fn cause 2. (R196) -/
def Obligations.ScalarCompareResults : Prop :=
  (∀ (s : State) (d : CReg) (a b : SReg), s.cur.live = true →
    let x := s.rS a
    let y := s.rS b
    let all (p : Prop) [Decidable p] : LaneMask := if p then BitVec.allOnes 32 else 0
    exec (.scmpEq d a b) s = .next (s.wC d (all (x = y)))
    ∧ exec (.scmpNe d a b) s = .next (s.wC d (all (x ≠ y)))
    ∧ exec (.scmpLtS d a b) s = .next (s.wC d (all (x.toInt < y.toInt)))
    ∧ exec (.scmpLeS d a b) s = .next (s.wC d (all (x.toInt ≤ y.toInt)))
    ∧ exec (.scmpLtZ d a b) s = .next (s.wC d (all (x.toNat < y.toNat)))
    ∧ exec (.scmpLeZ d a b) s = .next (s.wC d (all (x.toNat ≤ y.toNat))))
  ∧ ∀ c a b f cd : Nat, c < 2 → a < 64 → b < 64 → f < 64 → cd < 64 →
    let w := c * 2 ^ 31 + 0x0B * 2 ^ 24 + cd * 2 ^ 18 + a * 2 ^ 12 + b * 2 ^ 6 + f
    let is (r : CReg) (x y : SReg) : List Instr := [.scmpEq r x y, .scmpNe r x y, .scmpLtS r x y, .scmpLeS r x y, .scmpLtZ r x y, .scmpLeZ r x y]
    (∀ i, cd < 7 → (is (Fin.ofNat 8 cd) (Fin.ofNat 64 a) (Fin.ofNat 64 b))[f]? = some i → decodeWord w = .ok ⟨decide (c = 1), i⟩)
    ∧ (6 ≤ f → decodeWord w = .error 2) ∧ (f < 6 → cd = 7 → decodeWord w = .error 4) ∧ (f < 6 → 8 ≤ cd → decodeWord w = .error 3)

/-- slitw.z and slitw.s write the packet literal zero- or sign-extended; slitw.lo and slitw.hi replace the low or the high half of S[d] by it. sext writes S[d] with the named lane, or with the lowest or highest active lane (0 when no lane is active), widened as z32, s32 or x64; vins writes the low or high half or the pair into the named lane if it is active, and vins.all into every active lane. (R195, R197, R198) -/
def Obligations.LiteralAndLaneMoves : Prop :=
  ∀ (s : State),
    (∀ (d : SReg), s.cur.live = true →
      let lit := s.cur.lit.toNat
      exec (.slitwZ d) s = .next (s.wS d (BitVec.ofNat 64 lit))
      ∧ exec (.slitwS d) s = .next (s.wS d (BitVec.ofInt 64 s.cur.lit.toInt))
      ∧ exec (.slitwLo d) s = .next (s.wS d (BitVec.ofNat 64 ((s.rS d).toNat / 2 ^ 32 * 2 ^ 32 + lit)))
      ∧ exec (.slitwHi d) s = .next (s.wS d (BitVec.ofNat 64 (lit * 2 ^ 32 + (s.rS d).toNat % 2 ^ 32))))
    ∧ (∀ d a w l, Ready (.sext d a w l) s → exec (.sext d a w l) s = .next (s.wS d (match w with
      | .z32 => BitVec.ofNat 64 (s.rV a l).toNat
      | .s32 => BitVec.ofInt 64 (s.rV a l).toInt
      | .x64 => BitVec.ofNat 64 ((s.rV (a.val + 1) l).toNat * 2 ^ 32 + (s.rV a l).toNat))))
    ∧ (∀ d a w, Ready (.sextFirst d a w) s →
        (s.active = [] → exec (.sextFirst d a w) s = .next (s.wS d 0))
        ∧ ∀ L Ls, s.active = L :: Ls → exec (.sextFirst d a w) s = .next (s.wS d (laneValue a w L s)))
    ∧ (∀ d a w, Ready (.sextLast d a w) s →
        (s.active = [] → exec (.sextLast d a w) s = .next (s.wS d 0))
        ∧ ∀ L Ls, s.active = Ls ++ [L] → exec (.sextLast d a w) s = .next (s.wS d (laneValue a w L s)))
    ∧ (∀ d a w l, Ready (.vins d a w l) s →
        let t := s.acting (.vins d a w l)
        let on := if t.isActive l then [l.val] else []
        exec (.vins d a w l) s = .next (match w with
          | .lo => t.wVs d on fun _ => (t.rS a).truncate 32
          | .hi => t.wVs d on fun _ => BitVec.ofNat 32 ((t.rS a).toNat / 2 ^ 32)
          | .x64 => t.wPs d on fun _ => t.rS a))
    ∧ (∀ d a w, Ready (.vinsAll d a w) s →
        let t := s.acting (.vinsAll d a w)
        exec (.vinsAll d a w) s = .next (match w with
          | .lo => t.setLanes d fun _ => (t.rS a).truncate 32
          | .hi => t.setLanes d fun _ => BitVec.ofNat 32 ((t.rS a).toNat / 2 ^ 32)
          | .x64 => t.setPairs d fun _ => t.rS a))

/-- A scalar ALU, immediate, literal, compare, sext or vfold word that answers a next state without a trap leaves every other scalar and condition register, every vector register and nesting counter, every special register and every byte of memory as it was; nothing but the registers of the group, and the error marks of what is written, changes. (R46, R59, R190, R192, R193, R194, R195, R196, R197, R228) -/
def Obligations.ScalarWordsFrame : Prop :=
  ∀ (s t : State) (i : Instr), Ready i s → exec i s = .next t →
    ((∃ d a b, i = .sadd d a b ∨ i = .ssub d a b ∨ i = .smul d a b ∨ i = .smulhS d a b ∨ i = .smulhZ d a b ∨ i = .sand d a b
        ∨ i = .sor d a b ∨ i = .sxor d a b ∨ i = .sshl d a b ∨ i = .sshrZ d a b ∨ i = .sshrS d a b ∨ i = .sminS d a b
        ∨ i = .smaxS d a b ∨ i = .sminZ d a b ∨ i = .smaxZ d a b ∨ i = .ssltS d a b ∨ i = .ssltZ d a b ∨ i = .sseq d a b)
      ∨ (∃ d a e, i = .saddi d a e ∨ i = .sandi d a e ∨ i = .sori d a e ∨ i = .sxori d a e)
      ∨ (∃ d a n, i = .sshli d a n ∨ i = .sshriZ d a n ∨ i = .sshriS d a n)
      ∨ (∃ d e, i = .slit d e ∨ i = .slitwZ d ∨ i = .slitwS d ∨ i = .slitwLo d ∨ i = .slitwHi d)
      ∨ (∃ d a b, i = .scmpEq d a b ∨ i = .scmpNe d a b ∨ i = .scmpLtS d a b ∨ i = .scmpLeS d a b ∨ i = .scmpLtZ d a b ∨ i = .scmpLeZ d a b)
      ∨ (∃ d a w l o, i = .sext d a w l ∨ i = .sextFirst d a w ∨ i = .sextLast d a w ∨ i = .vfold d a o)) →
    (∀ n, n ∉ (uses i).ws → t.cur.group.regs.getS n = s.cur.group.regs.getS n)
    ∧ (∀ n, n ∉ (uses i).wc → t.cur.group.regs.getC n = s.cur.group.regs.getC n)
    ∧ (∀ n L, t.cur.group.regs.getV n L = s.cur.group.regs.getV n L)
    ∧ (∀ L, t.cur.group.regs.getN L = s.cur.group.regs.getN L)
    ∧ SameSpecials s t ∧ SameBytes s t
    ∧ t = { s with cur := { s.cur with group := { s.cur.group with
        regs := t.cur.group.regs, poison := t.cur.group.poison, parity := t.cur.group.parity, flips := t.cur.group.flips } } }

/-- In registers of canonical form, a write of a scalar, condition register, counter or vector lane reads back, every other register of its kind is unchanged, s0 always reads zero and c7 always reads all ones, and the form is kept. (R58, R59) -/
def Obligations.RegisterWritesReadBack : Prop :=
  (∀ (r : Regs), r.getS 0 = 0 ∧ r.getC 7 = BitVec.allOnes 32)
  ∧ ∀ (r : Regs), RegsWf r →
    (∀ n v, RegsWf (r.setS n v) ∧ ∀ m, (r.setS n v).getS m = if m = 0 then 0 else if m = n then v else r.getS m)
    ∧ (∀ n v, RegsWf (r.setC n v) ∧ ∀ m, (r.setC n v).getC m = if m = 7 then BitVec.allOnes 32 else if m = n then v else r.getC m)
    ∧ (∀ L v, RegsWf (r.setN L v) ∧ ∀ K, (r.setN L v).getN K = if K = L then v else r.getN K)
    ∧ (∀ n l f, (∀ L ∈ l, L < 32) → RegsWf (r.setVs n l f)
        ∧ ∀ m K, K < 32 → (r.setVs n l f).getV m K = if m = n ∧ K ∈ l then f K else r.getV m K)

/-- vadd, vsub, vmul, vmulh, vaddi, vmin and vmax write, in each active lane alone, the exact integer result wrapped, saturated, or chosen under the named order, B coming from the b-selector. (R212, R214, R215, R216, R217) -/
def Obligations.VectorArithmeticResults : Prop :=
  ∀ (s : State) (d a : VReg) (b : BSel) (i : BitVec 10), s.cur.live = true →
    let t := s.wakeFor [d.val]
    let satS (v : Int) : W32 := BitVec.ofInt 32 (max (-2 ^ 31) (min (2 ^ 31 - 1) v))
    let satZ (v : Int) : W32 := BitVec.ofInt 32 (max 0 (min (2 ^ 32 - 1) v))
    let gives (i : Instr) (f : W32 → W32 → W32) : Prop := regTraps i s = [] → exec i s = .next (t.setLanes d fun L => f (t.rV a L) (t.b32 b L))
    gives (.vadd d a b) (fun x y => BitVec.ofInt 32 (x.toInt + y.toInt))
    ∧ gives (.vaddSatS d a b) (fun x y => satS (x.toInt + y.toInt))
    ∧ gives (.vaddSatZ d a b) (fun x y => satZ ((x.toNat : Int) + y.toNat))
    ∧ gives (.vsub d a b) (fun x y => BitVec.ofInt 32 (x.toInt - y.toInt))
    ∧ gives (.vsubSatS d a b) (fun x y => satS (x.toInt - y.toInt))
    ∧ gives (.vsubSatZ d a b) (fun x y => satZ ((x.toNat : Int) - y.toNat))
    ∧ gives (.vmul d a b) (fun x y => BitVec.ofInt 32 (x.toInt * y.toInt))
    ∧ gives (.vmulhS d a b) (fun x y => BitVec.ofInt 32 (x.toInt * y.toInt / 2 ^ 32))
    ∧ gives (.vmulhZ d a b) (fun x y => BitVec.ofNat 32 (x.toNat * y.toNat / 2 ^ 32))
    ∧ gives (.vminS d a b) (fun x y => if x.toInt ≤ y.toInt then x else y)
    ∧ gives (.vminZ d a b) (fun x y => if x.toNat ≤ y.toNat then x else y)
    ∧ gives (.vmaxS d a b) (fun x y => if y.toInt ≤ x.toInt then x else y)
    ∧ gives (.vmaxZ d a b) (fun x y => if y.toNat ≤ x.toNat then x else y)
    ∧ gives (.vaddi d a i) (fun x _ => BitVec.ofInt 32 (x.toInt + i.toInt))

/-- vand, vor, vxor and vandn act bitwise; the shifts use n = B[4:0]; vrot rotates left; vlut3 looks up each bit in the literal with the bits of the old vd, va and B. (R212, R218, R219) -/
def Obligations.VectorLogicAndShiftResults : Prop :=
  ∀ (s : State) (d a : VReg) (b : BSel), s.cur.live = true →
    let t := s.wakeFor [d.val]
    let gives (i : Instr) (f : W32 → W32 → W32) : Prop := regTraps i s = [] → exec i s = .next (t.setLanes d fun L => f (t.rV a L) (t.b32 b L))
    gives (.vand d a b) (fun x y => x &&& y)
    ∧ gives (.vor d a b) (fun x y => x ||| y)
    ∧ gives (.vxor d a b) (fun x y => x ^^^ y)
    ∧ gives (.vandn d a b) (fun x y => x &&& ~~~y)
    ∧ gives (.vshl d a b) (fun x y => BitVec.ofNat 32 (x.toNat * 2 ^ (y.toNat % 32)))
    ∧ gives (.vshrZ d a b) (fun x y => BitVec.ofNat 32 (x.toNat / 2 ^ (y.toNat % 32)))
    ∧ gives (.vshrS d a b) (fun x y => BitVec.ofInt 32 (x.toInt / 2 ^ (y.toNat % 32)))
    ∧ gives (.vrot d a b) (fun x y => BitVec.ofNat 32 (x.toNat * 2 ^ (y.toNat % 32) + x.toNat / 2 ^ (32 - y.toNat % 32)))
    ∧ (regTraps (.vlut3 d a b) s = [] → ∃ f : Nat → W32, exec (.vlut3 d a b) s = .next (t.setLanes d f)
        ∧ ∀ L i, i < 32 → (f L).getLsbD i
          = t.cur.lit.getLsbD (4 * bit ((t.rV d L).getLsbD i) + 2 * bit ((t.rV a L).getLsbD i) + bit ((t.b32 b L).getLsbD i)))

/-- vpopc counts ones; vclz and vctz count the zeros above the highest and below the lowest one (32 for zero); vbrev moves bit i to bit 31 - i; vbfx extracts and vbfi inserts the field pos = B[4:0], w = min(B[13:8], 32 - pos). (R220, R221) -/
def Obligations.VectorBitFieldResults : Prop :=
  ∀ (s : State) (d a : VReg) (b : BSel), s.cur.live = true →
    let t := s.wakeFor [d.val]
    let gives (i : Instr) (p : W32 → W32 → W32 → W32 → Prop) : Prop := regTraps i s = [] →
      ∃ f : Nat → W32, exec i s = .next (t.setLanes d f) ∧ ∀ L, p (t.rV d L) (t.rV a L) (t.b32 b L) (f L)
    let pos (y : W32) : Nat := y.toNat % 32
    let wid (y : W32) : Nat := min (y.toNat / 2 ^ 8 % 64) (32 - pos y)
    gives (.vpopc d a) (fun _ x _ r => r.toNat = ((List.range 32).filter fun i => x.getLsbD i).length)
    ∧ gives (.vclz d a) (fun _ x _ r => r.toNat ≤ 32 ∧ (∀ i, i < 32 → 32 ≤ i + r.toNat → x.getLsbD i = false)
        ∧ (r.toNat < 32 → x.getLsbD (31 - r.toNat) = true))
    ∧ gives (.vctz d a) (fun _ x _ r => r.toNat ≤ 32 ∧ (∀ i, i < r.toNat → x.getLsbD i = false) ∧ (r.toNat < 32 → x.getLsbD r.toNat = true))
    ∧ gives (.vbrev d a) (fun _ x _ r => ∀ i, i < 32 → r.getLsbD i = x.getLsbD (31 - i))
    ∧ gives (.vbfxZ d a b) (fun _ x y r => r.toNat = x.toNat / 2 ^ pos y % 2 ^ wid y)
    ∧ gives (.vbfxS d a b) (fun _ x y r => if wid y = 0 then r = 0 else
        r.toInt = (x.toNat / 2 ^ pos y % 2 ^ wid y : Nat) - (if x.getLsbD (pos y + wid y - 1) then (2 : Int) ^ wid y else 0))
    ∧ gives (.vbfi d a b) (fun z x y r => ∀ i, i < 32 →
        r.getLsbD i = if pos y ≤ i ∧ i < pos y + wid y then x.getLsbD (i - pos y) else z.getLsbD i)

/-- vcmp sets C[cd][L] to the comparison in each active lane and keeps the other bits; vsel chooses va or vb by the condition bit; vmov, vmov.x64, vlit and vlaneid write the value of R224. (R222, R223, R224) -/
def Obligations.VectorCompareSelectMoveResults : Prop :=
  ∀ (s : State) (d a b : VReg) (c : CReg) (q : BSel) (p : ICmp) (i : BitVec 15), s.cur.live = true →
    let t := s.wakeFor [d.val]
    let true_ (x y : W32) : Prop := match p with
      | .eq => x = y | .ne => x ≠ y
      | .ltS => x.toInt < y.toInt | .leS => x.toInt ≤ y.toInt | .gtS => y.toInt < x.toInt | .geS => y.toInt ≤ x.toInt
      | .ltZ => x.toNat < y.toNat | .leZ => x.toNat ≤ y.toNat | .gtZ => y.toNat < x.toNat | .geZ => y.toNat ≤ x.toNat
      | .tst => x &&& y ≠ 0
    (regTraps (.vcmp c a q p) s = [] → ∃ m : LaneMask, exec (.vcmp c a q p) s = .next (s.wC c m)
      ∧ ∀ L, L < 32 → if s.isActive L then (m.getLsbD L = true ↔ true_ (s.rV a L) (s.b32 q L)) else m.getLsbD L = (s.cur.group.regs.getC c).getLsbD L)
    ∧ (regTraps (.vsel d a b c) s = [] →
        exec (.vsel d a b c) s = .next (t.setLanes d fun L => if (t.rC c).getLsbD L then t.rV a L else t.rV b L))
    ∧ (regTraps (.vmov d a) s = [] → exec (.vmov d a) s = .next (t.setLanes d fun L => t.rV a L))
    ∧ (regTraps (.vmovX64 d a) s = [] →
        exec (.vmovX64 d a) s = .next ((s.wakeFor [d.val, d.val + 1]).setPairs d fun L => (s.wakeFor [d.val, d.val + 1]).rP a L))
    ∧ (regTraps (.vlit d i) s = [] → exec (.vlit d i) s = .next (t.setLanes d fun _ => BitVec.ofInt 32 i.toInt))
    ∧ (regTraps (.vlaneid d) s = [] → exec (.vlaneid d) s = .next (t.setLanes d fun L => BitVec.ofNat 32 L))

/-- vballot gives the mask of active lanes whose condition bit is set; vmrank counts its bits below, or at or below, the lane; vshfl reads lane s of va whatever that lane state, a source outside 0-31 giving the lane itself. (R225, R226, R227) -/
def Obligations.LaneWordResults : Prop :=
  ∀ (s : State) (d a : VReg) (c : CReg) (b : BSel), s.cur.live = true →
    let t := s.wakeFor [d.val]
    let m (j : Nat) : Bool := t.isActive j && (t.rC c).getLsbD j
    let reads (i : Instr) (src : Nat → Nat → Nat) : Prop := regTraps i s = [] → exec i s = .next (t.setLanes d fun L => t.rV a (src L (t.b32 b L).toNat))
    (regTraps (.vballot d c) s = [] → ∃ r : W32, exec (.vballot d c) s = .next (t.setLanes d fun _ => r) ∧ ∀ j, j < 32 → r.getLsbD j = m j)
    ∧ (regTraps (.vmrank d c) s = [] →
        ∃ f : Nat → W32, exec (.vmrank d c) s = .next (t.setLanes d f) ∧ ∀ L, L < 32 → (f L).toNat = ((List.range L).filter m).length)
    ∧ (regTraps (.vmrankInc d c) s = [] →
        ∃ f : Nat → W32, exec (.vmrankInc d c) s = .next (t.setLanes d f) ∧ ∀ L, L < 32 → (f L).toNat = ((List.range (L + 1)).filter m).length)
    ∧ reads (.vshflIdx d a b) (fun _ B => B % 32)
    ∧ reads (.vshflUp d a b) (fun L B => if B ≤ L then L - B else L)
    ∧ reads (.vshflDown d a b) (fun L B => if L + B ≤ 31 then L + B else L)
    ∧ reads (.vshflXor d a b) (fun L B => L ^^^ (B % 32))

/-- vfold writes S[d] with the reduction over the active lanes in ascending order and vscan each active lane with the reduction over the active lanes up to it (below it under .ex); integer sums are exact in vfold and wrapped in vscan, the F32 sum of vfold is one rounding of the exact sum, NaN or infinite as the rule says, and -0 only for values that are all -0; the value over no lane is that of the tables. (R122, R228, R229) -/
def Obligations.FoldAndScanResults : Prop :=
  (∀ (s : State) d a o, Ready (.vfold d a o) s → exec (.vfold d a o) s = .next (s.wS d (foldRun o (s.active.map fun L => s.rV a L))))
  ∧ (∀ (s : State) d a x o, Ready (.vscan d a x o) s →
      let t := s.wakeFor [d.val]
      exec (.vscan d a x o) s = .next (t.setLanes d fun L =>
        scanRun o ((t.active.filter fun j => if x then decide (j < L) else decide (j ≤ L)).map fun j => t.rV a j)))
  ∧ (∀ l : List W32, foldRun .addZ l = BitVec.ofNat 64 (l.map BitVec.toNat).sum ∧ foldRun .addS l = BitVec.ofInt 64 (l.map BitVec.toInt).sum
      ∧ (scanRun .add l).toNat = (l.map BitVec.toNat).sum % 2 ^ 32)
  ∧ (∀ l : List W32, l ≠ [] →
      (∃ x ∈ l, foldRun .minS l = x.signExtend 64 ∧ scanRun .minS l = x ∧ ∀ y ∈ l, x.toInt ≤ y.toInt)
      ∧ (∃ x ∈ l, foldRun .maxS l = x.signExtend 64 ∧ scanRun .maxS l = x ∧ ∀ y ∈ l, y.toInt ≤ x.toInt)
      ∧ (∃ x ∈ l, foldRun .minZ l = x.zeroExtend 64 ∧ scanRun .minZ l = x ∧ ∀ y ∈ l, x.toNat ≤ y.toNat)
      ∧ (∃ x ∈ l, foldRun .maxZ l = x.zeroExtend 64 ∧ scanRun .maxZ l = x ∧ ∀ y ∈ l, y.toNat ≤ x.toNat))
  ∧ (∀ (l : List W32) i, i < 32 →
      (foldRun .and l).getLsbD i = l.all (fun x => x.getLsbD i) ∧ (foldRun .or l).getLsbD i = l.any (fun x => x.getLsbD i)
      ∧ ((foldRun .xor l).getLsbD i = true ↔ (l.filter fun x => x.getLsbD i).length % 2 = 1))
  ∧ (foldRun .minS [] = 0x7FFFFFFF ∧ foldRun .maxS [] = 0xFFFFFFFF80000000 ∧ foldRun .minZ [] = 0xFFFFFFFF ∧ foldRun .maxZ [] = 0
      ∧ foldRun .addF32 [] = 0)
  ∧ (∀ (l : List W32) i, i < 32 → (scanRun .and l).getLsbD i = l.all (fun x => x.getLsbD i) ∧ (scanRun .or l).getLsbD i = l.any (fun x => x.getLsbD i)
      ∧ ((scanRun .xor l).getLsbD i = true ↔ (l.filter fun x => x.getLsbD i).length % 2 = 1))
  ∧ (∀ (l : List W32) o, o ∈ [FoldOp.and, .or, .xor, .minZ, .maxZ, .addF32] → (foldRun o l).toNat < 2 ^ 32)
  ∧ (∀ l : List W32, l ≠ [] →
      let nan := (∃ x ∈ l, (val32 x).isNaN = true) ∨ ((∃ x ∈ l, val32 x = .inf false) ∧ ∃ x ∈ l, val32 x = .inf true)
      (nan → foldRun .addF32 l = 0x7FC00000)
      ∧ (¬nan → ∀ n, (∃ x ∈ l, val32 x = .inf n) → foldRun .addF32 l = if n then 0xFF800000 else 0x7F800000)
      ∧ ((∀ x ∈ l, ∃ n m e, val32 x = .fin n m e) → ∃ q : Int, (∀ x ∈ l, ∀ n m e, val32 x = .fin n m e → q ≤ e) ∧
          let sum : Int := (l.map fun x => match val32 x with
            | .fin n m e => (if n then -1 else 1) * ((m : Int) * 2 ^ (e - q).toNat)
            | _ => 0).sum
          foldRun .addF32 l = (rnd32 .rne (.fin (if sum = 0 then l.all (fun x => x == 0x80000000) else decide (sum < 0)) sum.natAbs q)).zeroExtend 64))
  ∧ (scanRun .minS [] = 0x7FFFFFFF ∧ scanRun .maxS [] = 0x80000000 ∧ scanRun .minZ [] = 0xFFFFFFFF ∧ scanRun .and [] = 0xFFFFFFFF
      ∧ scanRun .maxZ [] = 0 ∧ scanRun .add [] = 0 ∧ scanRun .or [] = 0 ∧ scanRun .xor [] = 0)

/-- A vector word with a 32-bit destination that acts without a trap leaves every scalar and condition register, every counter, every special register, every byte of memory, every other vector register and the inactive lanes of vd as they were; where vd lies in an Off bank that begins to wake, the other registers of that bank read zero (R68). (R5, R68, R212, R214, R215, R218, R220, R224, R227, R234, R236, R239) -/
def Obligations.VectorWordsFrame : Prop :=
  ∀ (s t : State) (i : Instr) (d a b : VReg) (q : BSel) (c : CReg) (m : RMode) (e : BitVec 10) (j : BitVec 15) (x : Bool) (o : ScanOp),
    Ready i s → exec i s = .next t →
    i ∈ [.vadd d a q, .vaddSatS d a q, .vaddSatZ d a q, .vsub d a q, .vsubSatS d a q, .vsubSatZ d a q, .vmul d a q, .vmulhS d a q,
      .vmulhZ d a q, .vminS d a q, .vminZ d a q, .vmaxS d a q, .vmaxZ d a q, .vand d a q, .vor d a q, .vxor d a q, .vandn d a q,
      .vshl d a q, .vshrZ d a q, .vshrS d a q, .vrot d a q, .vlut3 d a q, .vpopc d a, .vclz d a, .vctz d a, .vbrev d a, .vbfxZ d a q,
      .vbfxS d a q, .vbfi d a q, .vaddi d a e, .vsel d a b c, .vmov d a, .vlit d j, .vlaneid d, .vballot d c, .vmrank d c,
      .vmrankInc d c, .vshflIdx d a q, .vshflUp d a q, .vshflDown d a q, .vshflXor d a q, .vscan d a x o, .vfadd d a q m, .vfsub d a q m,
      .vfmul d a q m, .vfma d a q m, .vfnma d a q m, .vfdiv d a q m, .vfmin d a q, .vfmax d a q, .vfminn d a q, .vfmaxn d a q,
      .vfsqrt d a, .vfrcp d a, .vfrsq d a, .vfex2 d a, .vflg2 d a, .vfabs d a, .vfneg d a, .vfcpsgn d a q, .vhadd d a q x, .vhmul d a q x,
      .vhfma d a q x, .vquantD8 d a q, .vquantD6 d a q, .vquantM4 d a q, .vquantS8 d a q] →
    let g := s.cur.group
    let k := bankOf d
    let zeroed : Prop := g.bank k = .off ∧ g.waking k = none
    (∀ n, t.cur.group.regs.getS n = g.regs.getS n)
    ∧ (∀ n, t.cur.group.regs.getC n = g.regs.getC n)
    ∧ (∀ L, t.cur.group.regs.getN L = g.regs.getN L)
    ∧ (∀ n L, L < 32 → ¬(n = d.val ∧ s.isActive L = true) → (zeroed → bankOf n ≠ k) → t.cur.group.regs.getV n L = g.regs.getV n L)
    ∧ (zeroed → ∀ n L, L < 32 → bankOf n = k → ¬(n = d.val ∧ s.isActive L = true) → t.cur.group.regs.getV n L = 0)
    ∧ SameSpecials s t ∧ SameBytes s t

/-- A word passes its register checks exactly when no vector register it names lies in an absent bank, and no register it reads carries a mark in a lane it takes or lies in an Off bank that is not waking; any word that fails one takes the trap of lowest kind among them and its own checks, and has no other effect. The scalars, conditions, counters and scratchpad bytes a word reads are looked at before its meaning runs: one with an uncorrectable error makes the word take RegisterUncorrectable, or the lower trap of its own; a vlds or vatoms traps in each active lane that reads a marked stretch. (R7, R38, R65, R68, R76, R77) -/
def Obligations.RegisterChecksOfEveryWord : Prop :=
  (∀ (i : Instr) (s : State),
    let g := s.srcG
    regTraps i s = [] ↔
      (∀ n, n ∈ (uses i).rv ∨ n ∈ (uses i).wv → g.bank (bankOf n) ≠ .absent)
      ∧ ∀ n ∈ (uses i).rv, SMap.get 0 g.poison n &&& lanesTaken i s = 0 ∧ SMap.get 0 g.parity n &&& lanesTaken i s = 0
          ∧ ¬(g.bank (bankOf n) = .off ∧ g.waking (bankOf n) = none))
  ∧ ∀ (s : State) (d a : VReg) (b : BSel) (m : RMode) (t : TrapReq) (ts : List TrapReq), s.cur.live = true →
    (∀ i ∈ [.vadd d a b, .vsub d a b, .vmul d a b, .vand d a b, .vshl d a b, .vmov d a, .vpopc d a, .vfadd d a b m, .vfma d a b m],
      regTraps i s = t :: ts → exec i s = .next (s.trapWord (worstTrap t ts)))
    ∧ (∀ i : Instr, regTraps i s = t :: ts → ∃ u, exec i s = .next (s.trapWord u) ∧ (u = worstTrap t ts ∨ ∃ e, u = worstTrap e (t :: ts)))
    ∧ (∀ (w : W32) (i : Instr), uncorrectables s w i = [] ↔
      (∀ n ∈ (uses i).rs, n ≠ 0 → SMap.get 0 s.srcG.poison (128 + n) = 0) ∧ (∀ n ∈ (uses i).rc, n ≠ 7 → SMap.get 0 s.srcG.poison (192 + n) = 0)
      ∧ (readsNest w i = true → SMap.get 0 s.srcG.poison 200 &&& s.lanes = 0) ∧ markedTraps s i = [])
    ∧ (let clean (l : List (Nat × Nat)) : Prop := ∀ k ∈ touched 64 l, k ∉ s.cur.team.spoison
       let laneClean (f : Nat → Int) (n L : Nat) : Prop := inShare s.cur.team .scratch (f L) n = true → clean [((f L).toNat, n)]
       (∀ (d : VReg) (b : SReg) (o : VReg) (w : Width), ∀ u, u ∈ markedTraps s (.vlds d b o w) ↔
          ∃ L ∈ s.active, ¬laneClean (vecAddr s b o) (widthBytes w) L ∧ u = laneTrap .registerUncorrectable L)
       ∧ (∀ (d a : VReg) (p : AOp) (sc : Scope) (r : Ord), ∀ u, u ∈ markedTraps s (.vatoms d a p sc r) ↔
          ∃ L ∈ s.active, ¬laneClean (fun L => ((s.rV a L).toNat : Int)) (aopBytes p) L ∧ u = laneTrap .registerUncorrectable L)
       ∧ ∀ i : Instr, (∀ d b o w, i ≠ .vlds d b o w) → (∀ d a p sc r, i ≠ .vatoms d a p sc r) →
          (clean (scratchTaken s i) → markedTraps s i = []) ∧ (¬clean (scratchTaken s i) → markedTraps s i = [trapOf .registerUncorrectable]))
    ∧ (∀ (w : W32) (i : Instr) (r : State), uncorrectables s w i = t :: ts → exec i s = .next r →
        checked exec w i s = .next (s.trapWord (worstTrap t (ts ++ r.cur.trap.toList))))
    ∧ worstTrap t ts ∈ t :: ts ∧ ∀ u ∈ t :: ts, trapCode (worstTrap t ts).kind ≤ trapCode u.kind

/-- vfadd, vfsub, vfmul, vfma, vfnma and vfdiv round the exact result once in the named mode; vfmin, vfmax and their n forms, the special functions, the sign words and vfcmp give the results of R237-R240. (R234, R237, R238, R239, R240) -/
def Obligations.FloatThirtyTwoResults : Prop :=
  ∀ (s : State) (c : CReg) (d a : VReg) (b : BSel) (m : RMode) (p : FCmp), s.cur.live = true →
    let t := s.wakeFor [d.val]
    let x (L : Nat) := t.rV a L
    let y (L : Nat) := t.bF32 b L
    let z (L : Nat) := t.rV d L
    let gives (i : Instr) (f : Nat → W32) : Prop := regTraps i s = [] → exec i s = .next (t.setLanes d f)
    gives (.vfadd d a b m) (fun L => rnd32 m ((val32 (x L)).add m (val32 (y L))))
    ∧ gives (.vfsub d a b m) (fun L => rnd32 m ((val32 (x L)).sub m (val32 (y L))))
    ∧ gives (.vfmul d a b m) (fun L => rnd32 m ((val32 (x L)).mul (val32 (y L))))
    ∧ gives (.vfma d a b m) (fun L => rnd32 m (((val32 (x L)).mul (val32 (y L))).add m (val32 (z L))))
    ∧ gives (.vfnma d a b m) (fun L => rnd32 m ((val32 (z L)).sub m ((val32 (x L)).mul (val32 (y L)))))
    ∧ gives (.vfdiv d a b m) (fun L => BitVec.ofNat 32 (fp32.div m (val32 (x L)) (val32 (y L))))
    ∧ gives (.vfmin d a b) (fun L => minMax32 false (x L) (y L))
    ∧ gives (.vfmax d a b) (fun L => minMax32 true (x L) (y L))
    ∧ gives (.vfminn d a b) (fun L => minMaxN32 false (x L) (y L))
    ∧ gives (.vfmaxn d a b) (fun L => minMaxN32 true (x L) (y L))
    ∧ gives (.vfsqrt d a) (fun L => BitVec.ofNat 32 (fp32.sqrt (val32 (x L))))
    ∧ gives (.vfrcp d a) (fun L => BitVec.ofNat 32 (rcpF32 (val32 (x L))))
    ∧ gives (.vfrsq d a) (fun L => BitVec.ofNat 32 (rsqrt32 (val32 (x L))))
    ∧ gives (.vfex2 d a) (fun L => BitVec.ofNat 32 (exp2F32 (val32 (x L))))
    ∧ gives (.vflg2 d a) (fun L => BitVec.ofNat 32 (log2F32 (val32 (x L))))
    ∧ gives (.vfabs d a) (fun L => BitVec.ofNat 32 ((x L).toNat % 2 ^ 31))
    ∧ gives (.vfneg d a) (fun L => BitVec.ofNat 32 ((x L).toNat + 2 ^ 31))
    ∧ gives (.vfcpsgn d a b) (fun L => BitVec.ofNat 32 ((y L).toNat / 2 ^ 31 * 2 ^ 31 + (x L).toNat % 2 ^ 31))
    ∧ (regTraps (.vfcmp c a b p) s = [] →
        exec (.vfcmp c a b p) s = .next (s.setConds c fun L => fcmpHolds p (val32 (s.rV a L)) (val32 (s.bF32 b L))))

/-- ∞ - ∞ and ∞ × 0 are NaN, a NaN operand gives NaN, a NaN result is the canonical one, x / 0 is a signed infinity for finite non-zero x, 0/0 and ∞/∞ are NaN; a NaN compares false but under ne and uno. vfmin and vfmax give the canonical NaN when either operand is NaN and else the lesser or the greater in sign and magnitude order, -0 below +0; vfminn and vfmaxn give the other operand when exactly one is NaN. Every F32 bit pattern that is not a NaN is the rounding, in every mode, of the value it stands for; a NaN rounds to the canonical NaN. The special functions give the table of R118; a quotient, a square root and a reciprocal square root of finite positive values are one rounding of the exact result, cut to at least 64 bits with a sticky bit for what was cut; 2^x is exact for every integer x, log2 x for every power of two (the other operands: log 10). (R116, R117, R118, R234, R237, R238, R240) -/
def Obligations.FloatSpecialCases : Prop :=
  (∀ (m : RMode) (a b : Bool) (k : Nat) (e f : Int) (x y : W32) (v : Val),
    Val.add m (.inf a) (.inf !a) = .nan ∧ Val.mul (.inf a) (.fin b 0 e) = .nan ∧ Val.mul (.fin b 0 e) (.inf a) = .nan
    ∧ Val.add m .nan v = .nan ∧ Val.add m v .nan = .nan ∧ Val.mul .nan v = .nan ∧ Val.mul v .nan = .nan
    ∧ fp32.round m .nan = 0x7FC00000
    ∧ fp32.div m (.fin a (k + 1) e) (.fin b 0 f) = (if a = b then 0x7F800000 else 0xFF800000)
    ∧ fp32.div m (.fin a 0 e) (.fin b 0 f) = 0x7FC00000 ∧ fp32.div m (.inf a) (.inf b) = 0x7FC00000
    ∧ (v.isNaN = true → ∀ p, fcmpHolds p v (val32 x) = (p == .ne || p == .uno))
    ∧ (let key (w : W32) : Int := if w.getLsbD 31 then -((w.toNat % 2 ^ 31 : Nat) : Int) - 1 else (w.toNat : Int)
       let n := (val32 x).isNaN
       let o := (val32 y).isNaN
       (n = true ∨ o = true → minMax32 a x y = 0x7FC00000)
       ∧ (n = false → o = false → minMax32 false x y = (if key x ≤ key y then x else y) ∧ minMax32 true x y = (if key y ≤ key x then x else y))
       ∧ (n = true → o = false → minMaxN32 a x y = y) ∧ (n = false → o = true → minMaxN32 a x y = x)
       ∧ (n = true → o = true → minMaxN32 a x y = 0x7FC00000) ∧ (n = false → o = false → minMaxN32 a x y = minMax32 a x y))
    ∧ rnd32 m (val32 x) = (if (val32 x).isNaN then 0x7FC00000 else x))
  ∧ (∀ (n : Bool) (k : Nat) (e : Int),
      fp32.sqrt .nan = 0x7FC00000 ∧ fp32.sqrt (.inf true) = 0x7FC00000 ∧ fp32.sqrt (.fin true (k + 1) e) = 0x7FC00000
      ∧ fp32.sqrt (.fin n 0 e) = (if n then 0x80000000 else 0) ∧ fp32.sqrt (.inf false) = 0x7F800000
      ∧ fp64.sqrt .nan = 0x7FF8000000000000 ∧ fp64.sqrt (.inf true) = 0x7FF8000000000000 ∧ fp64.sqrt (.fin true (k + 1) e) = 0x7FF8000000000000
      ∧ fp64.sqrt (.fin n 0 e) = (if n then 0x8000000000000000 else 0) ∧ fp64.sqrt (.inf false) = 0x7FF0000000000000
      ∧ rcpF32 .nan = 0x7FC00000 ∧ rcpF32 (.inf n) = (if n then 0x80000000 else 0) ∧ rcpF32 (.fin n 0 e) = (if n then 0xFF800000 else 0x7F800000)
      ∧ rsqrt32 .nan = 0x7FC00000 ∧ rsqrt32 (.inf true) = 0x7FC00000 ∧ rsqrt32 (.fin true (k + 1) e) = 0x7FC00000
      ∧ rsqrt32 (.fin n 0 e) = (if n then 0xFF800000 else 0x7F800000) ∧ rsqrt32 (.inf false) = 0
      ∧ exp2F32 .nan = 0x7FC00000 ∧ exp2F32 (.inf true) = 0 ∧ exp2F32 (.fin n 0 e) = 0x3F800000 ∧ exp2F32 (.inf false) = 0x7F800000
      ∧ log2F32 .nan = 0x7FC00000 ∧ log2F32 (.inf true) = 0x7FC00000 ∧ log2F32 (.fin true (k + 1) e) = 0x7FC00000
      ∧ log2F32 (.fin n 0 e) = 0xFF800000 ∧ log2F32 (.inf false) = 0x7F800000
      ∧ [fp32.sqrt (val32 0x3F800000), rcpF32 (val32 0x3F800000), rsqrt32 (val32 0x3F800000), exp2F32 (val32 0x3F800000), log2F32 (val32 0x3F800000)]
        = [0x3F800000, 0x3F800000, 0x3F800000, 0x40000000, 0])
  ∧ (∀ (fp : Fp) (r : RMode) (a b : Bool) (m n : Nat) (e f : Int), 0 < m → 0 < n →
      (∃ t k : Nat, t * n ≤ m * 2 ^ k ∧ m * 2 ^ k < (t + 1) * n ∧ 2 ^ 64 ≤ t
        ∧ fp.div r (.fin a m e) (.fin b n f) = fp.roundFin r (a != b) t (e - f - k) (decide (t * n ≠ m * 2 ^ k)))
      ∧ (∃ (t k : Nat) (q : Int), e - k = 2 * q ∧ t * t ≤ m * 2 ^ k ∧ m * 2 ^ k < (t + 1) * (t + 1) ∧ 2 ^ 64 ≤ t
        ∧ fp.sqrt (.fin false m e) = fp.roundFin .rne false t q (decide (t * t ≠ m * 2 ^ k)))
      ∧ (∃ (t c : Nat) (q : Int), 2 * q + e = -c ∧ t * t * m ≤ 2 ^ c ∧ 2 ^ c < (t + 1) * (t + 1) * m ∧ 2 ^ 64 ≤ t
        ∧ rsqrt32 (.fin false m e) = fp32.roundFin .rne false t q (decide (t * t * m ≠ 2 ^ c)))
      ∧ rcpF32 (.fin b n f) = fp32.div .rne (.fin false 1 0) (.fin b n f))
  ∧ (∀ (n : Int) (j k : Nat) (e : Int), exp2F32 (.fin (decide (n < 0)) (n.natAbs * 2 ^ j) (-j)) = fp32.round .rne (.fin false 1 n)
      ∧ log2F32 (.fin false (2 ^ k) e) = fp32.round .rne (Val.ofInt (e + k)))

/-- vdadd, vdsub, vdmul and vdfma round once to nearest even, vddiv in the named mode, vdsqrt to nearest even, on register pairs; vdcmp writes the active lanes; vhadd, vhmul and vhfma work on each half alone. (R235, R236, R237, R240) -/
def Obligations.FloatSixtyFourAndPackedResults : Prop :=
  ∀ (s : State) (c : CReg) (d a : VReg) (b : BSel) (m : RMode) (p : FCmp) (h : Bool), s.cur.live = true →
    let t := s.wakeFor [d.val, d.val + 1]
    let x (L : Nat) := val64 (t.rP a L)
    let y (L : Nat) := val64 (t.bF64 b L)
    let z (L : Nat) := val64 (t.rP d L)
    let gives (i : Instr) (f : Nat → W64) : Prop := regTraps i s = [] → exec i s = .next (t.setPairs d f)
    let u := s.wakeFor [d.val]
    let fp := if h then fpB16 else fp16
    let half (i : Instr) (f : Val → Val → Val → Val) : Prop := regTraps i s = [] → ∃ r : Nat → W32, exec i s = .next (u.setLanes d r) ∧
      ∀ L k, k < 2 → let v (w : W32) := fp.value (w.toNat / 2 ^ (16 * k) % 2 ^ 16)
        (r L).toNat / 2 ^ (16 * k) % 2 ^ 16 = fp.round .rne (f (v (u.rV a L)) (v (u.bHalf fp b L)) (v (u.rV d L))) % 2 ^ 16
    gives (.vdadd d a b) (fun L => rnd64 .rne ((x L).add .rne (y L)))
    ∧ gives (.vdsub d a b) (fun L => rnd64 .rne ((x L).sub .rne (y L)))
    ∧ gives (.vdmul d a b) (fun L => rnd64 .rne ((x L).mul (y L)))
    ∧ gives (.vdfma d a b) (fun L => rnd64 .rne (((x L).mul (y L)).add .rne (z L)))
    ∧ gives (.vddiv d a b m) (fun L => BitVec.ofNat 64 (fp64.div m (x L) (y L)))
    ∧ gives (.vdsqrt d a) (fun L => BitVec.ofNat 64 (fp64.sqrt (x L)))
    ∧ (regTraps (.vdcmp c a b p) s = [] →
        exec (.vdcmp c a b p) s = .next (s.setConds c fun L => fcmpHolds p (val64 (s.rP a L)) (val64 (s.bF64 b L))))
    ∧ half (.vhadd d a b h) (fun x y _ => x.add .rne y)
    ∧ half (.vhmul d a b h) (fun x y _ => x.mul y)
    ∧ half (.vhfma d a b h) (fun x y z => (x.mul y).add .rne z)

/-- vcvt reads the source field by the table of R241 and rounds once to the destination type: floats as R116, F8M clamped to ±240 with one zero and 0x80 for NaN, integers rounded under the mode and clamped, NaN to 0; vquant encodes with the exponent B clamped to -127..127: the code of the value nearest to x × 2^-k, on a tie that of smaller magnitude, canonical under R112, zero for NaN, the largest magnitude for ∞, and for S8 the integer nearest, clamped; vpack gathers the low fields of consecutive registers and vunpk spreads the fields of one register, zero- or sign-extended. (R105, R106, R109, R112, R119, R120, R241, R242, R243, R244) -/
def Obligations.ConversionAndPackingResults : Prop :=
  (∀ (s : State) (d a : VReg) (b : BSel) (f g : CvtT) (m : RMode) (w : PackW), s.cur.live = true →
    let t := s.wakeFor [d.val]
    let k (L : Nat) : Int := max (-127) (min 127 (t.b32 b L).toInt)
    let quant_ (i : Instr) (q : QTarget) : Prop := regTraps i s = [] → exec i s = .next (t.setLanes d fun L => BitVec.ofNat 32 (quant (val32 (t.rV a L)) (k L) q))
    let n := 32 / w.count
    (regTraps (.vcvt d a f g m) s = [] →
      let u := s.acting (.vcvt d a f g m)
      let v (L : Nat) : W64 := cvtWrite g m (cvtRead f (if f = .f64 then u.rP a L else (u.rV a L).zeroExtend 64))
      exec (.vcvt d a f g m) s = .next (if g = .f64 then u.setPairs d v else u.setLanes d fun L => (v L).truncate 32))
    ∧ quant_ (.vquantD8 d a b) .d8 ∧ quant_ (.vquantD6 d a b) .d6 ∧ quant_ (.vquantM4 d a b) .m4 ∧ quant_ (.vquantS8 d a b) .s8
    ∧ (regTraps (.vpack d a w) s = [] → ∃ r : Nat → W32, exec (.vpack d a w) s = .next (t.setLanes d r)
        ∧ ∀ L j, j < w.count → (r L).toNat / 2 ^ (n * j) % 2 ^ n = (t.rV (a.val + j) L).toNat % 2 ^ n)
    ∧ (regTraps (.vunpkZ d a w) s = [] → let u := s.acting (.vunpkZ d a w)
        exec (.vunpkZ d a w) s = .next ((List.range w.count).foldl (fun v j => v.setLanes (d.val + j) fun L =>
          BitVec.ofNat 32 ((u.rV a L).toNat / 2 ^ (n * j) % 2 ^ n)) u))
    ∧ (regTraps (.vunpkS d a w) s = [] → let u := s.acting (.vunpkS d a w)
        exec (.vunpkS d a w) s = .next ((List.range w.count).foldl (fun v j => v.setLanes (d.val + j) fun L =>
          BitVec.ofInt 32 (signedOf n ((u.rV a L).toNat / 2 ^ (n * j) % 2 ^ n))) u)))
  ∧ (∀ x : W64, let n := x.toNat % 256
      cvtRead .f64 x = fp64.value x.toNat ∧ cvtRead .f32 x = fp32.value (x.truncate 32).toNat ∧ cvtRead .f16 x = fp16.value (x.truncate 16).toNat
      ∧ cvtRead .bf16 x = fpB16.value (x.truncate 16).toNat ∧ cvtRead .f8e x = fp8e.value n
      ∧ cvtRead .f8m x = (if n = 128 then .nan else if n / 8 % 16 = 0 then .fin (decide (128 ≤ n)) (n % 8) (-10) else .fin (decide (128 ≤ n)) (8 + n % 8) (n / 8 % 16 - 11))
      ∧ cvtRead .s32 x = Val.ofInt (x.truncate 32).toInt ∧ cvtRead .z32 x = Val.ofInt (x.truncate 32).toNat
      ∧ cvtRead .s16 x = Val.ofInt (x.truncate 16).toInt ∧ cvtRead .z16 x = Val.ofInt (x.truncate 16).toNat
      ∧ cvtRead .s8 x = Val.ofInt (x.truncate 8).toInt ∧ cvtRead .z8 x = Val.ofInt (x.truncate 8).toNat
      ∧ cvtRead .s4 x = Val.ofInt (x.truncate 4).toInt ∧ cvtRead .z4 x = Val.ofInt (x.truncate 4).toNat)
  ∧ (∀ (m : RMode) (v : Val),
      cvtWrite .f64 m v = BitVec.ofNat 64 (fp64.round m v) ∧ cvtWrite .f32 m v = BitVec.ofNat 64 (fp32.round m v)
      ∧ cvtWrite .f16 m v = BitVec.ofNat 64 (fp16.round m v) ∧ cvtWrite .bf16 m v = BitVec.ofNat 64 (fpB16.round m v)
      ∧ cvtWrite .f8e m v = BitVec.ofNat 64 (fp8e.round m v)
      ∧ (cvtWrite .f8m m .nan = 0x80 ∧ cvtWrite .f8m m (.inf false) = 0x7F ∧ cvtWrite .f8m m (.inf true) = 0xFF)
      ∧ (v ≠ .nan → cvtWrite .f8m m v ≠ 0x80))
  ∧ (∀ (m : RMode) (x : Nat), x < 256 → x ≠ 0x80 → cvtWrite .f8m m (f8mValue x) = BitVec.ofNat 64 x)
  ∧ (∀ (m : RMode) (n : Bool) (k : Nat) (e : Int), 240 ≤ k → 0 ≤ e → cvtWrite .f8m m (.fin n k e) = if n then 0xFF else 0x7F)
  ∧ (∀ (m : RMode) (t : CvtT) (lo hi : Int), (t, lo, hi) ∈ [(.s32, -2 ^ 31, 2 ^ 31 - 1), (.z32, 0, 2 ^ 32 - 1), (.s16, -2 ^ 15, 2 ^ 15 - 1), (.z16, 0, 2 ^ 16 - 1),
        (.s8, -128, 127), (.z8, 0, 255), (.s4, -8, 7), (.z4, 0, 15)] →
      let int (z : Int) : W64 := (BitVec.ofInt 32 (max lo (min hi z))).zeroExtend 64
      cvtWrite t m .nan = 0 ∧ cvtWrite t m (.inf false) = int hi ∧ cvtWrite t m (.inf true) = int lo
      ∧ ∀ (n : Bool) (k j : Nat), let v : Int := if n then -(k : Int) else k
        cvtWrite t m (.fin n k j) = int (v * 2 ^ j)
        ∧ cvtWrite t .rz (.fin n k (-j)) = int (v.tdiv (2 ^ j)) ∧ cvtWrite t .rd (.fin n k (-j)) = int (v / 2 ^ j) ∧ cvtWrite t .ru (.fin n k (-j)) = int (-(-v / 2 ^ j))
        ∧ ∃ z : Int, cvtWrite t .rne (.fin n k (-j)) = int z ∧ 2 * (z * 2 ^ j - v).natAbs ≤ 2 ^ j ∧ (2 * (z * 2 ^ j - v).natAbs = 2 ^ j → z % 2 = 0))
  ∧ (∀ (t : QTarget) (k : Int) (value : Nat → Int) (bits : Nat) (top : Int),
      (t, value, bits, top) ∈ [(QTarget.d8, dyad8, 8, (512 : Int)), (.d6, dyad6, 6, 384), (.m4, monad4, 4, 256)] →
      (∀ p ∈ t.codes, p.2 < 2 ^ bits ∧ p.1 = value p.2 ∧ p.1.natAbs ≤ top) ∧ (∀ c, c < 2 ^ bits → ∃ p ∈ t.codes, p.1 = value c)
      ∧ value (quant .nan k t) = 0 ∧ value (quant (.inf false) k t) = top ∧ value (quant (.inf true) k t) = -top
      ∧ ∀ (n : Bool) (m : Nat) (e q : Int), q ≤ e - k → q ≤ -8 →
        let y : Int := (if n then -1 else 1) * (m * 2 ^ (e - k - q).toNat : Nat)
        let far (w : Int) : Nat := (y - w * 2 ^ (-8 - q).toNat).natAbs
        ∃ v, t.codes.find? (fun p => p.1 == v) = some (v, quant (.fin n m e) k t)
          ∧ ∀ p ∈ t.codes, far v < far p.1 ∨ (far v = far p.1 ∧ v.natAbs ≤ p.1.natAbs))
  ∧ (∀ (k : Int) (n : Bool) (m : Nat) (e : Int), quant .nan k .s8 = 0 ∧ quant (.inf false) k .s8 = 127 ∧ quant (.inf true) k .s8 = 128
      ∧ quant (.fin n m e) k .s8 = (cvtWrite .s8 .rne (.fin n m (e - k))).toNat % 256)

/-- The four modes of major 0x40 decode to br, br.any, br.all and br.none, an unconditional br with c ≠ 0 raising cause 3. Over the active lanes, br is always taken, br.any when some condition bit is set, br.all when all are, br.none when none is; a taken branch moves the issuing split to slot 0 of P + 16 × offset, an untaken one has no effect, and a branch word whose target is not canonical takes AccessFault, taken or not. (R203) -/
def Obligations.BranchResults : Prop :=
  (∀ (ch : Bool) (c : CReg) (o : BitVec 19),
    let w (mode : Nat) : Nat := bit ch * 2 ^ 31 + 0x40 * 2 ^ 24 + c.val * 2 ^ 21 + mode * 2 ^ 19 + o.toNat
    (c = 0 → decodeWord (w 0) = .ok ⟨ch, .br o⟩) ∧ (c ≠ 0 → decodeWord (w 0) = .error 3) ∧ decodeWord (w 1) = .ok ⟨ch, .brAny c o⟩
    ∧ decodeWord (w 2) = .ok ⟨ch, .brAll c o⟩ ∧ decodeWord (w 3) = .ok ⟨ch, .brNone c o⟩)
  ∧ ∀ (s : State) (c : CReg) (o : BitVec 19), s.cur.live = true →
    let target : Int := (s.cur.pkt.toNat : Int) + 16 * o.toInt
    let goes (i : Instr) (p : Prop) : Prop :=
      (p → canonical target = true → exec i s = .next (s.branch (BitVec.ofInt 64 target) 0))
      ∧ (¬p → canonical target = true → exec i s = .next s)
      ∧ (canonical target = false → exec i s = .next (s.trapWord (trapOf .accessFault)))
    let set (L : Nat) : Prop := (s.rC c).getLsbD L = true
    goes (.br o) True
    ∧ goes (.brAny c o) (∃ L ∈ s.active, set L)
    ∧ goes (.brAll c o) (∀ L ∈ s.active, set L)
    ∧ goes (.brNone c o) (∀ L ∈ s.active, ¬set L)

/-- call sets S[63] to the link value and moves the split to its target; jmp reads its target before it writes the link, goes to packet Concat(t[63:4], 0) and slot t[1:0], and takes Misaligned for t[3:2] non-zero or t[1:0] of 3, else AccessFault for a t that is not canonical. (R205, R206) -/
def Obligations.CallAndJumpResults : Prop :=
  ∀ (s : State) (d a : SReg) (o : BitVec 19), s.cur.live = true →
    let link := placeBits s.cur.nextPkt s.cur.nextSlot
    let target : Int := (s.cur.pkt.toNat : Int) + 16 * o.toInt
    let t := s.rS a
    let bad := t.toNat / 4 % 4 ≠ 0 ∨ t.toNat % 4 = 3
    (canonical target = true → exec (.call o) s = .next ((s.wS 63 link).branch (BitVec.ofInt 64 target) 0))
    ∧ (canonical target = false → exec (.call o) s = .next (s.trapWord (trapOf .accessFault)))
    ∧ (¬bad → canonical t.toNat = true → exec (.jmp d a) s = .next ((s.wS d link).branch (BitVec.ofNat 64 (t.toNat / 16 * 16)) (t.toNat % 4)))
    ∧ (bad → exec (.jmp d a) s = .next (s.trapWord (trapOf .misaligned)))
    ∧ (¬bad → canonical t.toNat = false → exec (.jmp d a) s = .next (s.trapWord (trapOf .accessFault)))

/-- brx takes Misaligned for S[b][3:0] non-zero and AccessFault for the lowest active lane whose target is not canonical; with no active lane it transfers nothing, with one target the split goes there, with enough free indices the split takes the first target and new splits the others, with some it sends as many targets as indices are free and stays, its next issue 3 cycles on, with none it blocks, unless a word of its unit has blocked it already. (R47, R207, R208) -/
def Obligations.DivergentBranchResults : Prop :=
  ∀ (s : State) (b : SReg) (a : VReg), Ready (.brx b a) s →
    let f (L : Nat) : Int := ((s.rS b).toNat : Int) + 16 * (s.rV a L).toInt
    let l := brxTargets f s.active
    let free := s.cur.group.freeSplits
    ((s.rS b).toNat % 16 = 0 → (∀ L ∈ s.active, canonical (f L) = true) →
      (s.active = [] → exec (.brx b a) s = .next s)
      ∧ (∀ t, l = [t] → exec (.brx b a) s = .next (s.branch (BitVec.ofInt 64 t.1) 0))
      ∧ (∀ t ts, l = t :: ts → ts ≠ [] → ts.length ≤ free.length → exec (.brx b a) s = .next
          (((s.dropLanes (l.foldl (fun m p => m ||| p.2) 0 &&& ~~~t.2)).branch (BitVec.ofInt 64 t.1) 0).newSplits (ts.zip free)))
      ∧ (∀ t ts, l = t :: ts → free.length < ts.length → free ≠ [] → exec (.brx b a) s = .next
          (((s.dropLanes ((l.take free.length).foldl (fun m p => m ||| p.2) 0)).branch s.cur.pkt s.cur.slot).newSplits
            ((l.take free.length).zip free)))
      ∧ (∀ t ts, l = t :: ts → ts ≠ [] → free = [] → exec (.brx b a) s = .next ((s.goto s.cur.pkt s.cur.slot).onSplit fun p => if p.block = .free then { p with block := .brx } else p)))
    ∧ ((s.rS b).toNat % 16 = 0 → ∀ L Ls, (s.active.filter fun L => !(canonical (f L))) = L :: Ls →
        exec (.brx b a) s = .next (s.trapWord (laneTrap .accessFault L)))
    ∧ ((s.rS b).toNat % 16 ≠ 0 → exec (.brx b a) s = .next (s.trapWord (trapOf .misaligned)))
    ∧ (∀ p ∈ l, ∃ L ∈ s.active, p.1 = f L) ∧ (∀ L ∈ s.active, ∃ p ∈ l, p.1 = f L ∧ p.2.getLsbD L = true)

/-- In each lane of the issuing split the mask words and exit give the counter of the table of R49, leave the counters of other lanes and every other register alone (of the group only the counters and the error marks change), and only vif traps, with NestOverflow and no counter changed, when some lane is at 254; exit goes on at the next packet; after vkill and exit, splits of retired lanes end, and the group ends with all 32. (R49, R50, R209) -/
def Obligations.MaskWordResults : Prop :=
  ∀ (s : State) (c : CReg) (m : Fin 256), s.cur.live = true → RegsWf s.cur.group.regs →
    let inSplit (L : Nat) : Prop := s.lanes.getLsbD L = true
    let set (L : Nat) : Prop := (s.rC c).getLsbD L = true
    let holds (f : Nat → Nat → Nat → Prop) (r : Regs) : Prop := (∀ L, L < 32 → inSplit L → f L (s.rN L).toNat (r.getN L).toNat)
      ∧ (∀ L, L < 32 → ¬inSplit L → r.getN L = s.cur.group.regs.getN L)
      ∧ r.s = s.cur.group.regs.s ∧ r.v = s.cur.group.regs.v ∧ r.c = s.cur.group.regs.c
    let put (r : Regs) (k : Group) : State := s.onGroup fun g => { g with regs := r, poison := k.poison, parity := k.parity, flips := k.flips }
    let gives (i : Instr) (f : Nat → Nat → Nat → Prop) : Prop := ∃ r k, holds f r ∧ exec i s = .next (put r k)
    let ends (i : Instr) (go : State → State) (f : Nat → Nat → Nat → Prop) : Prop := ∃ r k, holds f r ∧ exec i s = .next (go (put r k)).retire
    ((∀ L, L < 32 → inSplit L → s.rN L ≠ 254) → gives (.vif c) fun L n k =>
      (n = 0 → set L → k = 0) ∧ (n = 0 → ¬set L → k = 1) ∧ (1 ≤ n → n ≤ 253 → k = n + 1) ∧ (n = 255 → k = 255))
    ∧ (∀ L, L < 32 → inSplit L → s.rN L = 254 → (∀ K, K < L → inSplit K → s.rN K ≠ 254) →
        exec (.vif c) s = .next (s.trapWord (laneTrap .nestOverflow L)))
    ∧ gives .velse (fun _ n k => (n = 0 → k = 1) ∧ (n = 1 → k = 0) ∧ (2 ≤ n → k = n))
    ∧ gives .vend (fun _ n k => (n = 0 → k = 0) ∧ (1 ≤ n → n ≤ 254 → k = n - 1) ∧ (n = 255 → k = 255))
    ∧ gives (.vbrk c m) (fun L n k => (n = 0 → set L → k = m.val) ∧ (n = 0 → ¬set L → k = 0) ∧ (1 ≤ n → k = n))
    ∧ ends (.vkill c) id (fun L n k => (n = 0 → set L → k = 255) ∧ (n = 0 → ¬set L → k = 0) ∧ (1 ≤ n → k = n))
    ∧ ends .exit (fun t => t.goto (s.cur.pkt + 16) 0) (fun _ n k => (n = 0 → k = 255) ∧ (1 ≤ n → k = n))
    ∧ (∀ u : State, u.retire.cur.group.splits = u.cur.group.splits.filter fun p => p.lanes &&& ~~~u.cur.group.retiredMask != 0)
    ∧ (∀ u : State, u.cur.group.retiredMask = BitVec.allOnes 32 → u.retire.cur.group.ended = true)

/-- trap takes SoftwareTrap when the issuing split has an active lane; brk takes Breakpoint when it has one and EN of %brkctl is 1; otherwise each, like nop, has no effect. (R179, R201, R211) -/
def Obligations.TrapWordsAndNop : Prop :=
  ∀ (s : State) (x : BitVec 16), s.cur.live = true →
    (s.anyActive = true → exec (.trap x) s = .next (s.trapWord (trapOf .softwareTrap)))
    ∧ (s.anyActive = false → exec (.trap x) s = .next s)
    ∧ (s.anyActive = true → s.srcG.brkctl.getLsbD 0 = true → exec (.brk x) s = .next (s.trapWord (trapOf .breakpoint)))
    ∧ (s.anyActive = false ∨ s.srcG.brkctl.getLsbD 0 = false → exec (.brk x) s = .next s)
    ∧ exec .nop s = .next s

/-- sgetsr reads the registers of R28, R60 and %brkctl at either level, %fstep, %tband and %boost for an environment-visible region alone (else EnvironmentRead), and the trap registers at supervisor level alone (else cause 12); any other number takes cause 11. mfsys reads the same at supervisor level and takes cause 12 at user level. A read that is allowed writes S[d] with the value of this cycle; the value of every register is written out. (R28, R30, R32, R33, R34, R60, R62, R63, R64, R202, R334, R344) -/
def Obligations.SpecialRegisterReads : Prop :=
  ∀ (s : State) (d : SReg) (n : Fin 4096), s.cur.live = true →
    let t := s.cur.team
    let g := s.srcG
    let x := s.seat
    let clk := x.oclk s.g
    let frame := s.g / 2048
    let user := (1 ≤ n.val ∧ n.val ≤ 7) ∨ (0x10 ≤ n.val ∧ n.val ≤ 0x1C) ∨ n.val = 0x40
    let env := 0x20 ≤ n.val ∧ n.val ≤ 0x22
    let sup := 0x100 ≤ n.val ∧ n.val ≤ 0x10E
    let may := user ∨ (env ∧ t.region.env = true) ∨ (sup ∧ g.level = .supervisor)
    let num (k : Nat) : W64 := BitVec.ofNat 64 k
    (may → exec (.sgetsr d n) s = .next (s.wS d (sysValue s n)))
    ∧ (sup → g.level = .user → exec (.sgetsr d n) s = .next (s.trapWord (illegal 12)))
    ∧ (env → t.region.env = false → exec (.sgetsr d n) s = .next (s.trapWord (trapOf .environmentRead)))
    ∧ (¬user → ¬env → ¬sup → exec (.sgetsr d n) s = .next (s.trapWord (illegal 11)))
    ∧ (g.level = .user → exec (.mfsys d n) s = .next (s.trapWord (illegal 12)))
    ∧ (g.level = .supervisor → (may → exec (.mfsys d n) s = .next (s.wS d (sysValue s n)))
      ∧ (env → t.region.env = false → exec (.mfsys d n) s = .next (s.trapWord (trapOf .environmentRead)))
      ∧ (¬user → ¬env → ¬sup → exec (.mfsys d n) s = .next (s.trapWord (illegal 11))))
    ∧ (sysValue s 0x001 = num clk ∧ sysValue s 0x002 = num (t.seat % 16 + if t.seat = 15 then 256 else 0) ∧ sysValue s 0x003 = num (t.vf % 64))
    ∧ (let on := x.lease.v = true ∧ x.lease.first ≤ frame ∧ frame < x.lease.first + x.lease.count
       (¬on → sysValue s 0x004 = x.pl.dmap) ∧ (on → x.lease.lend = true → sysValue s 0x004 = x.pl.dmap &&& ~~~x.lease.lmap)
       ∧ (on → x.lease.lend = false → sysValue s 0x004 = x.pl.dmap ||| x.lease.lmap))
    ∧ (∀ r, x.core? t.core = some r → sysValue s 0x005 = if r.grant then BitVec.allOnes 64 else r.cmap)
    ∧ sysValue s 0x006 = num (clk % 2048 + clk % 64 * 2 ^ 16)
    ∧ (x.lease.v = false → sysValue s 0x007 = 0)
    ∧ (x.lease.v = true → sysValue s 0x007 = num (2 ^ 63 + (if x.lease.lend then 2 ^ 62 else 0) + x.lease.peer % 16 * 2 ^ 58
        + (((List.range 64).filter fun k => x.lease.lmap.getLsbD k).length - 1) % 64 * 2 ^ 48 + min 0xFFFF (x.lease.first - frame) * 2 ^ 32
        + (if frame < x.lease.first then x.lease.count else x.lease.first + x.lease.count - frame) % 2 ^ 32))
    ∧ sysValue s 0x010 = num ((s.active.head?).getD 32) ∧ sysValue s 0x011 = num (g.gid % 16)
    ∧ sysValue s 0x012 = num (t.x % 2 ^ 16 + t.y % 2 ^ 16 * 2 ^ 16 + t.z % 2 ^ 16 * 2 ^ 32)
    ∧ sysValue s 0x013 = (if t.cluster = none then 0 else num (t.cx % 2 ^ 16 + t.cy % 2 ^ 16 * 2 ^ 16 + t.cz % 2 ^ 16 * 2 ^ 32 + t.rank % 8 * 2 ^ 48))
    ∧ (∀ q, q < 4 → sysValue s (0x014 + q) = num (wordOfBytes ((List.range 8).map fun j => s.src.getN (8 * q + j))))
    ∧ sysValue s 0x018 = num t.gridNumber.toNat ∧ sysValue s 0x019 = num (t.core % 256) ∧ sysValue s 0x01A = g.iret
    ∧ sysValue s 0x01B = num (min g.counts.loads 0xFFFF + min g.counts.stores 0xFFFF * 2 ^ 16 + min g.counts.copies 0xFFFF * 2 ^ 32 + min g.counts.tiles 0xFFFF * 2 ^ 48)
    ∧ sysValue s 0x01C = num (seamCount 0 t.core (x.rho s.g) clk)
    ∧ sysValue s 0x020 = num (s.power.step % 16) ∧ sysValue s 0x021 = num ((s.power.bands[t.core / 64]?).getD 0 % 8)
    ∧ (sysValue s 0x022 = if s.power.may then num ((15 - s.power.step) % 16) else 0) ∧ sysValue s 0x040 = g.brkctl
    ∧ sysValue s 0x100 = g.trap.tpc ∧ sysValue s 0x101 = g.trap.tword ∧ sysValue s 0x102 = g.trap.tkind
    ∧ sysValue s 0x103 = g.trap.tdone ∧ sysValue s 0x104 = g.trap.tlog ∧ sysValue s 0x109 = g.trap.tret
    ∧ (∀ q, q < 4 → sysValue s (0x105 + q) = SMap.get 0 g.trap.nestsave q ∧ sysValue s (0x10A + q) = SMap.get 0 g.trap.ksc q)
    ∧ sysValue s 0x10E = num (x.evHead.toNat * 2 ^ 32 + x.evTail.toNat)

/-- ssetsr, .set and .clr change bit EN of %brkctl to S[a], its OR and its AND NOT, and take cause 11 for any other register (12 for a supervisor register at user level); mtsys writes %brkctl, %tnestsave, %tret (a slot of 3 ignored) and %ksc, and takes cause 11 for the others. (R200, R201, R202, R334, R335, R337, R344) -/
def Obligations.SpecialRegisterWrites : Prop :=
  ∀ (s : State) (a : SReg) (n : Fin 4096), s.cur.live = true →
    let v := s.rS a
    let old := s.srcG.brkctl
    let set (x : W64) : State := s.onGroup fun g => { g with brkctl := x &&& 1 }
    let trap (f : TrapRegs → TrapRegs) : State := s.onGroup fun g => { g with trap := f g.trap }
    (exec (.ssetsr a 0x40) s = .next (set v) ∧ exec (.ssetsrSet a 0x40) s = .next (set (old ||| v))
      ∧ exec (.ssetsrClr a 0x40) s = .next (set (old &&& ~~~v)))
    ∧ (n.val ≠ 0x40 → ¬(0x100 ≤ n.val ∧ n.val ≤ 0x10E ∧ s.srcG.level = .user) →
        exec (.ssetsr a n) s = .next (s.trapWord (illegal 11)) ∧ exec (.ssetsrSet a n) s = .next (s.trapWord (illegal 11))
        ∧ exec (.ssetsrClr a n) s = .next (s.trapWord (illegal 11)))
    ∧ (0x100 ≤ n.val → n.val ≤ 0x10E → s.srcG.level = .user →
        exec (.ssetsr a n) s = .next (s.trapWord (illegal 12)) ∧ exec (.ssetsrSet a n) s = .next (s.trapWord (illegal 12))
        ∧ exec (.ssetsrClr a n) s = .next (s.trapWord (illegal 12)))
    ∧ (s.srcG.level = .supervisor →
        exec (.mtsys a 0x40) s = .next (set v)
        ∧ (v.toNat % 4 ≠ 3 → exec (.mtsys a 0x109) s = .next (trap fun r => { r with tret := v &&& ~~~12#64 }))
        ∧ (v.toNat % 4 = 3 → exec (.mtsys a 0x109) s = .next s)
        ∧ (0x105 ≤ n.val → n.val ≤ 0x108 → exec (.mtsys a n) s = .next (trap fun r => { r with nestsave := SMap.set 0 r.nestsave (n.val - 0x105) v }))
        ∧ (0x10A ≤ n.val → n.val ≤ 0x10D → exec (.mtsys a n) s = .next (trap fun r => { r with ksc := SMap.set 0 r.ksc (n.val - 0x10A) v }))
        ∧ (n.val ≠ 0x40 → ¬(0x105 ≤ n.val ∧ n.val ≤ 0x10D) → exec (.mtsys a n) s = .next (s.trapWord (illegal 11))))

/-- At user level every word of major 0x7F takes IllegalInstruction, cause 12. At supervisor level eret replays the log and restores the user splits (a regroup point of the team is then looked at), tlbinv puts an invalidation in flight, seatctl.evack moves TAIL on by at most the entries held, seatctl.kill and halt end a team with S[a][15:0], seatctl.yield asks for the end of the quantum; tlbinv.asid of another space and a kill of no team take AccessFault. (R342, R343, R345, R346, R347) -/
def Obligations.SupervisorWordsAct : Prop :=
  (∀ (s : State) (a : SReg) (n : Fin 4096), s.cur.live = true → s.srcG.level = .user →
    ∀ i ∈ [.eret, .mfsys a n, .mtsys a n, .tlbinvVa a, .tlbinvAsid a, .tlbinvAll, .seatctlEvack a, .seatctlKill a, .seatctlYield a, .halt a],
      exec i s = .next (s.trapWord (illegal 12)))
  ∧ ∀ (s : State) (a : SReg), s.cur.live = true → s.srcG.level = .supervisor →
    let v := s.rS a
    let t := s.cur.team
    let detail := v &&& 0xFFFF#64
    (∀ u, u = (s.replayLog.onGroup fun g => g.leaveTrap s.g).retire →
      exec .eret s = .next (if u.cur.team.regroup.isSome then u.now (.regroupComplete u.cur.team.id) else u))
    ∧ exec (.tlbinvVa a) s = .next (startTlbinv s (some t.region.asid) (some (v.toNat % 2 ^ 57)))
    ∧ (v.toNat % 1024 = t.region.asid → exec (.tlbinvAsid a) s = .next (startTlbinv s (some t.region.asid) none))
    ∧ (v.toNat % 1024 ≠ t.region.asid → exec (.tlbinvAsid a) s = .next (s.trapWord (trapOf .accessFault)))
    ∧ exec .tlbinvAll s = .next (startTlbinv s none none)
    ∧ exec (.seatctlEvack a) s = .next (s.mapSeat t.seat fun x =>
        { x with evTail := x.evTail + BitVec.ofNat 32 (min (v.toNat % 2048) (x.evHead - x.evTail).toNat) })
    ∧ (v.toNat % 2 ^ 32 = t.index → exec (.seatctlKill a) s = .next (s.haltTeam t.id detail.toNat detail))
    ∧ (∀ u, v.toNat % 2 ^ 32 ≠ t.index →
        (s.teams.find? fun u => u.grid == t.grid && u.index == v.toNat % 2 ^ 32 && u.state != .ended && u.halting.isNone) = some u →
        exec (.seatctlKill a) s = .next (s.haltTeam u.id detail.toNat detail))
    ∧ (v.toNat % 2 ^ 32 ≠ t.index →
        (s.teams.find? fun u => u.grid == t.grid && u.index == v.toNat % 2 ^ 32 && u.state != .ended && u.halting.isNone) = none →
        exec (.seatctlKill a) s = .next (s.trapWord (trapOf .accessFault)))
    ∧ exec (.seatctlYield a) s = .next (s.mapSeat t.seat fun x => { x with yield_ := true })
    ∧ exec (.halt a) s = .next (s.haltTeam t.id detail.toNat detail)

/-- When every active lane is aligned and in its space, a vector load or store puts one operation in flight with address S[b] + SignExt(V[o][L]) and the named width in each active lane, a load naming its destination and a store carrying the data of vd; otherwise the word takes its trap and has no effect. (R81, R82, R83, R245, R246, R247) -/
def Obligations.VectorAccessesIssue : Prop :=
  ∀ (s : State) (d : VReg) (b : SReg) (o : VReg) (w : Width) (h : Hint) (wide : Bool), s.cur.live = true →
    let n := widthBytes w
    let lanes (u : State) (op : Op) : Op :=
      { op with active := u.activeMask, addr := keepLanes 0 u fun L => (((u.rS b).toNat : Int) + (u.rV o L).toInt).toNat }
    let data (u : State) : SMap W64 := keepLanes 0 u fun L => if w = .x64 then u.rP d L else (u.rV d L).zeroExtend 64
    let load (sp : Space) (n : Nat) (signed pair : Bool) : Op := { blankOp (.load sp n signed) with count := .loads, dest := .vec d pair }
    let global (i : Instr) (op : State → Op) : Prop := regTraps i s = [] → let u := s.acting i
      (globalTraps u (vecAddr u b o) n = [] → exec i s = .next (u.launchGlobal (lanes u (op u))))
      ∧ ∀ t ts, globalTraps u (vecAddr u b o) n = t :: ts → exec i s = .next (s.trapWord (worstTrap t ts))
    let near (i : Instr) (sp : Space) (n : Nat) (reads : Bool) (op : State → Op) : Prop := regTraps i s = [] → let u := s.acting i
      (localTraps u sp (vecAddr u b o) n reads = [] → exec i s = .next (u.launchLocal (lanes u (op u))))
      ∧ ∀ t ts, localTraps u sp (vecAddr u b o) n reads = t :: ts → exec i s = .next (s.trapWord (worstTrap t ts))
    let store (sp : Space) (u : State) : Op := { blankOp (.store sp n) with count := .stores, x := data u }
    global (.vldZ d b o w h) (fun _ => load .global n false (w == .x64))
    ∧ global (.vldS d b o w h) (fun _ => load .global n true (w == .x64))
    ∧ global (.vst d b o w h) (store .global)
    ∧ near (.vlds d b o w) .scratch n true (fun _ => load .scratch n false (w == .x64))
    ∧ near (.vsts d b o w) .scratch n false (store .scratch)
    ∧ near (.vlda d b o w) .abuf n true (fun _ => load .abuf n false (w == .x64))
    ∧ near (.vsta d b o w) .abuf n false (store .abuf)
    ∧ near (.vldx d b o wide) .xbuf (if wide then 8 else 4) true (fun _ => load .xbuf (if wide then 8 else 4) false wide)

/-- A global access traps in exactly the active lanes whose address is not a multiple of the width (Misaligned) or not canonical (AccessFault), a local one in those that are misaligned, outside the share of the team (AccessFault), or reading a scratchpad bank that is Off (DeadRead); of several traps the word takes the one of lowest kind code, and among those of one kind the one of the lowest lane. (R81, R82, R83, R248) -/
def Obligations.AddressChecksOfAccesses : Prop :=
  ∀ (s : State) (f : Nat → Int) (n : Nat) (sp : Space) (reads : Bool),
    (∀ t : TrapReq, t ∈ globalTraps s f n ↔ ∃ L ∈ s.active, (t = laneTrap .misaligned L ∧ f L % n ≠ 0) ∨ (t = laneTrap .accessFault L ∧ canonical (f L) = false))
    ∧ (∀ t : TrapReq, t ∈ localTraps s sp f n reads ↔ ∃ L ∈ s.active, (t = laneTrap .misaligned L ∧ f L % n ≠ 0)
        ∨ (t = laneTrap .accessFault L ∧ ¬(0 ≤ f L ∧ f L + n ≤ shareOf s.cur.team sp))
        ∨ (t = laneTrap .deadRead L ∧ reads = true ∧ sp = .scratch ∧ 0 ≤ f L ∧ f L + n ≤ shareOf s.cur.team sp
          ∧ s.cur.team.sdead ((f L).toNat / Config.bankBytes) = true))
    ∧ (∀ (t : TrapReq) (ts : List TrapReq), worstTrap t ts ∈ t :: ts ∧ ∀ u ∈ t :: ts, trapCode (worstTrap t ts).kind < trapCode u.kind
        ∨ (trapCode (worstTrap t ts).kind = trapCode u.kind ∧ ((worstTrap t ts).cause < u.cause ∨ ((worstTrap t ts).cause = u.cause ∧ (worstTrap t ts).lane ≤ u.lane))))
    ∧ (globalTraps s f n = [] ↔ ∀ L ∈ s.active, f L % n = 0 ∧ canonical (f L) = true)
    ∧ (localTraps s sp f n reads = [] ↔ ∀ L ∈ s.active, f L % n = 0 ∧ 0 ≤ f L ∧ f L + n ≤ shareOf s.cur.team sp
        ∧ (reads = true → sp = .scratch → s.cur.team.sdead ((f L).toNat / Config.bankBytes) = false))
    ∧ ∀ a : Int, canonical a = true ↔ (0 ≤ a ∧ a < 2 ^ 56) ∨ (2 ^ 64 - 2 ^ 56 ≤ a ∧ a < 2 ^ 64)

/-- sld, slw, sst and ssw access S[b] + SignExt(e) and satom S[a], once for the group; a load to s0 is a touch; an address that is not a multiple of the width takes Misaligned, one that is not canonical AccessFault. (R82, R83, R245, R249, R250, R253) -/
def Obligations.ScalarAccessesIssue : Prop :=
  ∀ (s : State) (d a b : SReg) (e : BitVec 12) (p : AOp) (r : Ord), s.cur.live = true →
    let one (x : Int) (op : Op) : Op := { op with active := 1, threads := s.lanes, addr := SMap.set 0 [] 0 x.toNat }
    let x : Int := ((s.rS b).toNat : Int) + e.toInt
    let y : Int := ((s.rS a).toNat : Int)
    let goes (i : Instr) (n : Nat) (x : Int) (op : Op) : Prop :=
      (x % n = 0 → canonical x = true → exec i s = .next (s.launchGlobal (one x op)))
      ∧ (x % n ≠ 0 → exec i s = .next (s.trapWord (trapOf .misaligned)))
      ∧ (x % n = 0 → canonical x = false → exec i s = .next (s.trapWord (trapOf .accessFault)))
    let load (n : Nat) : Op := if d = 0 then { blankOp .touch with count := .loads } else { blankOp (.load .global n false) with count := .loads, dest := .scal d }
    let store (n : Nat) : Op := { blankOp (.store .global n) with count := .stores, x := SMap.set 0 [] 0 (s.rS d) }
    goes (.sld d b e) 8 x (load 8) ∧ goes (.slw d b e) 4 x (load 4) ∧ goes (.sst d b e) 8 x (store 8) ∧ goes (.ssw d b e) 4 x (store 4)
    ∧ goes (.satom d a b p r) (aopBytes p) y { blankOp (.atomic .global p true) with
        count := .loads, dest := .scal d, scope := .dev, acq := ordAcq r, rel := ordRel r
        x := SMap.set 0 [] 0 (if p.isCas then s.rS d else s.rS b), y := SMap.set 0 [] 0 (if p.isCas then s.rS b else 0) }

/-- When every active lane passes its checks, an atomic puts one operation in flight with the operands of the table of R252, at VP[va][L] (global) or V[va][L] (scratchpad); vmred names no destination; otherwise the word takes its trap. The new value of each operation is that of the table of R251, 32-bit operations on the low halves. (R82, R83, R251, R252) -/
def Obligations.VectorAtomicsAndTheirValues : Prop :=
  (∀ (x v nv : W64),
    let x3 : W32 := x.truncate 32
    let v3 : W32 := v.truncate 32
    let ext (w : W32) : W64 := w.zeroExtend 64
    aopNew .add32 x v nv = ext (BitVec.ofNat 32 (x3.toNat + v3.toNat))
    ∧ aopNew .minS x v nv = ext (if x3.toInt ≤ v3.toInt then x3 else v3)
    ∧ aopNew .maxS x v nv = ext (if v3.toInt ≤ x3.toInt then x3 else v3)
    ∧ aopNew .minZ x v nv = ext (if x3.toNat ≤ v3.toNat then x3 else v3)
    ∧ aopNew .maxZ x v nv = ext (if v3.toNat ≤ x3.toNat then x3 else v3)
    ∧ aopNew .and x v nv = ext (x3 &&& v3) ∧ aopNew .or x v nv = ext (x3 ||| v3) ∧ aopNew .xor x v nv = ext (x3 ^^^ v3)
    ∧ aopNew .xchg32 x v nv = ext v3 ∧ aopNew .cas32 x v nv = ext (if x3 = v3 then nv.truncate 32 else x3)
    ∧ aopNew .addF32 x v nv = ext (addF32 x3 v3)
    ∧ aopNew .add64 x v nv = BitVec.ofNat 64 (x.toNat + v.toNat) ∧ aopNew .xchg64 x v nv = v
    ∧ aopNew .cas64 x v nv = (if x = v then nv else x))
  ∧ ∀ (s : State) (d a : VReg) (p : AOp) (q : RedOp) (sc : Scope) (r : Ord), s.cur.live = true →
    let op (u : State) (sp : Space) (p : AOp) (returns : Bool) (f : Nat → Int) : Op := { blankOp (.atomic sp p false) with
      count := if returns then .loads else .stores, dest := if returns then .vec d p.is64 else .none
      scope := sc, acq := returns && ordAcq r, rel := ordRel r
      x := keepLanes 0 u fun L => if p.is64 then u.rP d L else (u.rV d L).zeroExtend 64
      y := keepLanes 0 u fun L => if p.isCas then (if p.is64 then u.rP (d.val + 2) L else (u.rV (d.val + 1) L).zeroExtend 64) else 0
      active := u.activeMask, addr := keepLanes 0 u fun L => (f L).toNat }
    let wide (u : State) (L : Nat) : Int := (u.rP a L).toNat
    let near (u : State) (L : Nat) : Int := (u.rV a L).toNat
    (regTraps (.vatom d a p sc r) s = [] → let u := s.acting (.vatom d a p sc r)
      (globalTraps u (wide u) (aopBytes p) = [] → exec (.vatom d a p sc r) s = .next (u.launchGlobal (op u .global p true (wide u))))
      ∧ ∀ t ts, globalTraps u (wide u) (aopBytes p) = t :: ts → exec (.vatom d a p sc r) s = .next (s.trapWord (worstTrap t ts)))
    ∧ (regTraps (.vmred d a q sc r) s = [] →
      (globalTraps s (wide s) (aopBytes q.op) = [] → exec (.vmred d a q sc r) s = .next (s.launchGlobal (op s .global q.op false (wide s))))
      ∧ ∀ t ts, globalTraps s (wide s) (aopBytes q.op) = t :: ts → exec (.vmred d a q sc r) s = .next (s.trapWord (worstTrap t ts)))
    ∧ (regTraps (.vatoms d a p sc r) s = [] → let u := s.acting (.vatoms d a p sc r)
      (localTraps u .scratch (near u) (aopBytes p) true = [] → exec (.vatoms d a p sc r) s = .next (u.launchLocal (op u .scratch p true (near u))))
      ∧ ∀ t ts, localTraps u .scratch (near u) (aopBytes p) true = t :: ts → exec (.vatoms d a p sc r) s = .next (s.trapWord (worstTrap t ts)))

/-- fence takes effect at once, whatever lanes are active: it adds a record of its order, scope and age and blocks nothing; waitc with four limits of 15 (any) does nothing, in any team; else it blocks nothing when the four counts are within their limits, with no store outstanding ordering later commands after the earlier writes, and blocks the split at its age otherwise. In a portable team any other waitc blocks even when its condition holds, and its group goes on at the next commit at which it holds (log 139, the model’s reading of R396). (R144, R254, R258, R397, R423) -/
def Obligations.FenceAndCountWords : Prop :=
  ∀ (s : State) (u : Bool) (r : FOrd) (sc : Scope) (l st cp ti : Fin 16), s.cur.live = true →
    (∃ t, exec (.fence u r sc) s = .next t ∧ t.cur.group.splits = s.cur.group.splits ∧ t.cur.group.regs = s.cur.group.regs
      ∧ t.mem = s.mem ∧ t.ops = s.ops ∧ ∃ f ∈ t.cur.group.fences, f.age = s.nextOp ∧ f.scope = sc ∧ f.uo = u
        ∧ f.acq = decide (r ≠ .rel) ∧ f.rel = decide (r ≠ .acq) ∧ f.full = decide (r = .acqrel))
    ∧ (let c := s.cur.group.counts
       let ok := (l.val = 15 ∨ c.loads ≤ l.val) ∧ (st.val = 15 ∨ c.stores ≤ st.val) ∧ (cp.val = 15 ∨ c.copies ≤ cp.val) ∧ (ti.val = 15 ∨ c.tiles ≤ ti.val)
       let any := l.val = 15 ∧ st.val = 15 ∧ cp.val = 15 ∧ ti.val = 15
       (any → exec (.waitc l st cp ti) s = .next s)
       ∧ (¬any → s.cur.team.portable = false → ok → exec (.waitc l st cp ti) s =
          .next (s.onGroup fun g => { g with lastRel := if c.stores = 0 then max g.lastRel s.nextOp else g.lastRel }))
       ∧ (¬any → s.cur.team.portable = true ∨ ¬ok → exec (.waitc l st cp ti) s =
          .next (s.onSplit fun p => { p with block := .waitc l st cp ti, age := s.nextOp })))

/-- A barrier word first lets the older accesses of its group to the object perform; then, when its object is aligned, in the scratchpad, in a bank that is not Off and, but for bar.init, valid, it has the effect of R256: init, expect and arrivals change the object, wait blocks until phase p has completed, test and phase write S[e]; a test that finds the phase complete under acquire order is an acquire until its value returns; an EXPECT above 65,535 or an armed object makes bar.init take AccessFault. A change is applied at once unless it is a release with older writes outstanding or stands behind an older change of its group on the object (held), or the team is portable (buffered). In a portable team bar.wait blocks even when its phase has completed, and its group goes on at the next commit at which it has (log 139, the model’s reading of R396). (R90, R91, R92, R134, R135, R255, R256, R257, R262, R397) -/
def Obligations.BarrierWordsIssue : Prop :=
  (∀ (s : State) (b e : SReg) (p : Scope) (o : Bool), s.cur.live = true →
    let z := s.settled [((s.rS b).toNat, 16)]
    let off := (z.rS b).toNat
    let ph : W32 := (z.rS e).truncate 32
    let won := (z.barNow off).completed ph
    let word (i : Instr) (valid : Bool) (r : Except TrapReq State) : Prop :=
      (objectTraps z off valid = [] → exec i s = match r with | .ok t => .next t | .error t => .next (s.trapWord t))
      ∧ ∀ t ts, objectTraps z off valid = t :: ts → exec i s = .next (s.trapWord (worstTrap t ts))
    let told := z.wS e (if won then 1 else 0)
    word (.barInit b e) false (if 65535 < (z.rS e).toNat ∨ (z.bar off).armed = true then .error (trapOf .accessFault)
      else z.barWord off (.init (z.rS e).toNat) false .team)
    ∧ word (.barExpect b e) true (z.barWord off (.expect ph) false .team)
    ∧ word (.barArrive b p o) true (z.barWord off (.arrive 0 none) o p)
    ∧ word (.barArriveExp b e p o) true (z.barWord off (.arrive ph none) o p)
    ∧ word (.barWait b e p o) true (.ok (if z.cur.team.portable = false ∧ won = true then z else z.block (.barWait off ph o)))
    ∧ (z.cur.team.portable = false → z.barBehind off (.test ph) = false ∨ won = true →
        word (.barTest b e p o) true (.ok (if o = true ∧ won = true then told.onGroup fun g => { g with tested := told.g + 4 } else told)))
    ∧ (z.cur.team.portable = false → z.barBehind off (.test ph) = true → won = false → word (.barTest b e p o) true (.ok (z.askBar off (.test ph) o e)))
    ∧ (z.barBehind off .phase = false → word (.barPhase b e) true (.ok (z.wS e (BitVec.ofNat 64 (z.barNow off).phase))))
    ∧ (z.barBehind off .phase = true → word (.barPhase b e) true (.ok (z.askBar off .phase false e)))
    ∧ (z.cur.team.portable = true → objectTraps z off true = [] →
        ∃ r, exec (.barTest b e p o) s = .next r ∧ r.ops.length = z.ops.length + 1 ∧ r.cur.group.effects = z.cur.group.effects ++ [z.nextOp]
          ∧ r.cur.group.regs = z.cur.group.regs ∧ r.cur.trap = z.cur.trap))
  ∧ ∀ (s : State) (off : Nat) (u : BarUpd) (rel : Bool) (sc : Scope),
    let t := s.cur.team
    let op : Op := { blankOp (.bar off u) with rel := rel, scope := sc, active := s.activeMask }
    let waits := (rel = true ∧ s.writesBefore t.id s.cur.group.gid s.nextOp = true) ∨ s.barBehind off u = true
    (t.portable = true → s.barWord off u rel sc =
        .ok ((s.launchOp { op with buffered := true }).onGroup fun g => { g with effects := g.effects ++ [s.nextOp] }))
    ∧ (t.portable = false → waits → s.barWord off u rel sc = .ok (s.launchOp { op with held := true }))
    ∧ (t.portable = false → ¬waits →
        ((s.barApply t.id off u).1 = true → s.barWord off u rel sc = .ok (s.barApply t.id off u).2)
        ∧ ((s.barApply t.id off u).1 = false → s.barWord off u rel sc = .error (trapOf .accessFault)))

/-- An update that leaves VALID = 1, REMAIN = 0 and PEND = 0 adds 1 to PHASE modulo 2^32 and sets REMAIN to EXPECT; init sets the fields and completes nothing; an arrival with REMAIN 0 has no effect; the object read back from memory is the one written. (R89, R90, R91) -/
def Obligations.BarrierObjectChanges : Prop :=
  (∀ b : Bar, b.settle = if b.low % 2 = 1 ∧ b.remain = 0 ∧ b.pend = 0 then { b with phase := (b.phase + 1) % 2 ^ 32, remain := b.expect } else b)
  ∧ (∀ (b : Bar) (p : W32), b.phase < 2 ^ 32 → (b.completed p = true ↔ ∃ d, 1 ≤ d ∧ d ≤ 2 ^ 31 ∧ (p.toNat + d) % 2 ^ 32 = b.phase))
  ∧ (∀ (b : Bar) n, b.apply (.init n) = some { phase := 0, expect := n, remain := n, pend := 0, low := 1 })
  ∧ (∀ (b : Bar) c n, b.remain = 0 → b.apply (.arrive n c) = none)
  ∧ (∀ (b : Bar) c n, b.remain ≠ 0 → b.apply (.arrive n c) =
      some ({ b with remain := b.remain - 1, pend := (b.pend + n.toNat) % 2 ^ 32 } : Bar).settle)
  ∧ (∀ (m : Memory) off (b : Bar), Memory.wf m = true → b.low < 2 ^ 32 → b.pend < 2 ^ 32 → b.remain < 2 ^ 16 → b.expect < 2 ^ 16 → b.phase < 2 ^ 32 →
      readBar (writeBar m off b) off = b
      ∧ ∀ a, a < off ∨ off + 16 ≤ a → Memory.get (writeBar m off b) a = Memory.get m a)

/-- vbank sets every named bank and pbank every bank of its range (cause 10 beyond the team banks). A bank set to a state: an absent one stays absent; Off takes effect at once, loses the contents, and ends a wake; Full to Retain is at once and keeps the contents; Retain to Full wakes in 16 cycles (24 for the scratchpad), Off to Full or Retain in 48 (64), with the contents zero; Full set Full and Retain set Retain change nothing; a bank that is waking keeps the end of its wake and then takes the new state; other banks keep their state and contents. A scratchpad bank set Off first gives the loads in flight the bytes they have already to read. eacq and eacq.try of a group that holds the block change nothing; else they take the block when no eacq of its mode waits on the core and 8 banks of its subarrays in the mode and its undetermined subarrays are free, and the eight banks arrive Full and zero; otherwise eacq blocks and eacq.try writes zeros; erel returns the block, and does nothing without one. (R65, R66, R67, R68, R69, R70, R71, R73, R75, R259, R260, R261) -/
def Obligations.BankWordsAct : Prop :=
  ∀ (s : State) (m : BitVec 16) (c : BankCode) (f n : Fin 128) (r : CReg), s.cur.live = true →
    exec (.vbank m c) s = .next (((List.range 16).filter fun b => m.getLsbD b).foldl (fun s b => s.setBank b c) s)
    ∧ (s.cur.team.nscratch ≤ f.val + n.val → exec (.pbank f n c) s = .next (s.trapWord (illegal 10)))
    ∧ (f.val + n.val < s.cur.team.nscratch → s.cur.team.portable = false →
        exec (.pbank f n c) s = .next ((List.range (n.val + 1)).foldl (fun t k => t.setScratch s.cur.team.id (f.val + k) c) s))
    ∧ (f.val + n.val < s.cur.team.nscratch → s.cur.team.portable = true → exec (.pbank f n c) s = .next
        ((s.launchOp { blankOp (.pbank f.val (n.val + 1) c) with buffered := true }).onGroup fun g => { g with effects := g.effects ++ [s.nextOp] }))
    ∧ (∀ t, s.tryExt = some t → exec .eacq s = .next t ∧ exec (.eacqTry r) s = .next (t.wC r (BitVec.allOnes 32)))
    ∧ (s.tryExt = none → exec .eacq s = .next (s.block (.eacq s.g)) ∧ exec (.eacqTry r) s = .next (s.wC r 0))
    ∧ (s.cur.group.hasExt = true → SMap.wf .absent s.cur.group.banks = true → s.tryExt = some s ∧ ∃ t, exec .erel s = .next t ∧ t.cur.group.hasExt = false
        ∧ ∀ b, 8 ≤ b → b < 16 → t.cur.group.bank b = .absent)
    ∧ (s.cur.group.hasExt = false → exec .erel s = .next s)
    ∧ (let t := s.cur.team
       let mode := t.kernel.detect
       let free (i : Nat) : Nat := let q := s.subarray t.seat t.core i
         if q.2 = some mode ∨ q.2 = none then (if mode then 75 else 64) - q.1 else 0
       (s.cur.group.hasExt = false → ∀ u, s.tryExt = some u ↔ s.eacqWaiters t.seat t.core mode = [] ∧ ∃ w, s.takeBanks t.seat t.core mode 8 = some w ∧ u = s.onGroup fun g => g.takeExt w)
       ∧ (s.eacqWaiters t.seat t.core mode = [] ↔ ∀ u ∈ s.teamsOn t.seat t.core, u.kernel.detect = mode → ∀ g ∈ u.groups, ∀ p ∈ g.allSplits, ∀ k, p.block ≠ .eacq k)
       ∧ (∀ (x : Seat) (q : CoreRec), s.findSeat t.seat = some x → x.core? t.core = some q →
           ((s.takeBanks t.seat t.core mode 8).isSome = true ↔ 8 ≤ ((List.range q.suba).map free).sum))
       ∧ (∀ (g : Group) (w : SMap Nat), SMap.wf .absent g.banks = true → (g.takeExt w).hasExt = true ∧ (g.takeExt w).extHeld = w
           ∧ (∀ b, (g.takeExt w).bank b = if 8 ≤ b ∧ b < 16 then .full else g.bank b)
           ∧ ∀ k L, L < 32 → (g.takeExt w).regs.getV k L = if 64 ≤ k ∧ k < 128 then 0 else g.regs.getV k L))
    ∧ (∀ (b : Nat) (u : State), u = s.setBank b c → SMap.wf .absent s.cur.group.banks = true →
        let g := s.cur.group
        let h := u.cur.group
        let kept : Prop := ∀ k L, L < 32 → bankOf k = b → h.regs.getV k L = g.regs.getV k L
        let zero : Prop := ∀ k L, L < 32 → bankOf k = b → h.regs.getV k L = 0
        let next : BankState := if c = .full then .full else .retain
        let wakes (d : Nat) : Prop := h.bank b = g.bank b ∧ h.waking b = some { bank := b, target := next, due := s.g + d }
          ∧ (s.g + d, Event.bankWakeEnd s.cur.team.id (some g.gid) b) ∈ u.agenda
        (g.bank b = .absent → u = s)
        ∧ (g.bank b ≠ .absent → c = .off → h.bank b = .off ∧ h.waking b = none ∧ zero)
        ∧ (∀ w, g.bank b ≠ .absent → c ≠ .off → g.waking b = some w → h.bank b = g.bank b ∧ h.waking b = some { w with later := some next } ∧ kept)
        ∧ (g.waking b = none → (g.bank b = .full ∧ c = .full) ∨ (g.bank b = .retain ∧ c = .retain) → u = s)
        ∧ (g.waking b = none → g.bank b = .full → c = .retain → h.bank b = .retain ∧ h.waking b = none ∧ kept)
        ∧ (g.waking b = none → g.bank b = .retain → c = .full → wakes 16 ∧ kept)
        ∧ (g.waking b = none → g.bank b = .off → c ≠ .off → wakes 48 ∧ zero)
        ∧ (∀ d, d ≠ b → h.bank d = g.bank d ∧ h.waking d = g.waking d)
        ∧ (∀ k L, L < 32 → bankOf k ≠ b → h.regs.getV k L = g.regs.getV k L)
        ∧ h.regs.s = g.regs.s ∧ h.regs.c = g.regs.c ∧ h.regs.nest = g.regs.nest)
    ∧ (∀ (id j : Nat) (v : State) (t : Team), v = (if c = .off then s.takeReads id j else s) → v.getTeam id = some t → SMap.wf .full t.sbanks = true →
        ∃ h : Team, (s.setScratch id j c).getTeam id = some h ∧
        (let kept : Prop := h.scratch = t.scratch
         let zero : Prop := ∀ a, Memory.get h.scratch a = if a / Config.bankBytes = j then Memory.get [] a else Memory.get t.scratch a
         let next : BankState := if c = .full then .full else .retain
         let wakes (d : Nat) : Prop := h.sbank j = t.sbank j ∧ h.swaking j = some { bank := j, target := next, due := v.g + d }
           ∧ (v.g + d, Event.bankWakeEnd id none j) ∈ (s.setScratch id j c).agenda
         (c = .off → h.sbank j = .off ∧ h.swaking j = none ∧ zero)
         ∧ (∀ w, c ≠ .off → t.swaking j = some w → h.sbank j = t.sbank j ∧ h.swaking j = some { w with later := some next } ∧ kept)
         ∧ (t.swaking j = none → (t.sbank j = .full ∧ c = .full) ∨ (t.sbank j = .retain ∧ c = .retain) → s.setScratch id j c = s)
         ∧ (t.swaking j = none → t.sbank j = .full → c = .retain → h.sbank j = .retain ∧ h.swaking j = none ∧ kept)
         ∧ (t.swaking j = none → t.sbank j = .retain → c = .full → wakes 24 ∧ kept)
         ∧ (t.swaking j = none → t.sbank j = .off → c ≠ .off → wakes 64 ∧ zero)
         ∧ (∀ i, i ≠ j → h.sbank i = t.sbank i ∧ h.swaking i = t.swaking i)))

/-- A cp word whose checks pass places the command of its kind in its queue, with source, destination, rows, row size and strides from S[d]..S[d+3] and the barrier object of the literal; a failed check is taken as the worst trap: a reserved field or a wrong V or EXP of the literal IllegalInstruction (cause 3), a field that is no multiple of 4 Misaligned, counts or ranges outside the rule AccessFault, a source in an Off bank DeadRead, and for x2g a byte in no tile TileFormat, a live tile TileLive; the barrier object of the literal has the checks of every object (gth and cp.circ: GatherAndCircularWordsIssue). (R263, R264, R265, R266, R267, R268) -/
def Obligations.CopyWordsIssue : Prop :=
  ∀ (s : State) (d : SReg) (q : Fin 6), s.cur.live = true →
    let w (k : Nat) : Nat := (s.rS (d.val + k)).toNat
    let cmd (kind : Nat) (a b : Space) : Copy := { kind := kind, queue := q, src := w 0, dst := w 1, rows := w 2 / 2 ^ 48, rowSz := w 2 % 2 ^ 24, sstride := w 3 % 2 ^ 32, dstride := w 3 / 2 ^ 32, bar := if s.cur.lit.getLsbD 31 then some (s.cur.lit.toNat % 2 ^ 20) else none, from_ := a, to_ := b }
    let goes (i : Instr) (c : Copy) : Prop :=
      (copyTraps s d c = [] → exec i s = .next (s.queueCopy c (if s.cur.lit.getLsbD 30 then c.rows * c.rowSz else 0)))
      ∧ ∀ t ts, copyTraps s d c = t :: ts → exec i s = .next (s.trapWord (worstTrap t ts))
    (∀ (kind : Nat) (a b : Space) (u : TrapReq), let c := cmd kind a b
      let starts (base stride : Nat) (n : Nat) : Nat := base + n * stride
      let counts := 1 ≤ c.rows ∧ 4 ≤ c.rowSz ∧ c.rowSz ≤ 16777212 ∧ c.rows * c.rowSz ≤ 2 ^ 31 - 4
      let fits (sp : Space) (base stride : Nat) : Prop := ∀ n, n < c.rows → if sp = .global
        then canonical (starts base stride n : Int) = true ∧ canonical ((starts base stride n + c.rowSz - 1 : Nat) : Int) = true
        else starts base stride n + c.rowSz ≤ shareOf s.cur.team sp
      u ∈ copyTraps s d c ↔ (u = illegal 3 ∧ (litTraps s.cur.lit false ≠ [] ∨ w 2 / 2 ^ 24 % 2 ^ 24 ≠ 0)) ∨ u ∈ litBarTraps s
        ∨ (u = trapOf .misaligned ∧ ∃ n ∈ [c.src, c.dst, c.sstride, c.dstride, c.rowSz], n % 4 ≠ 0)
        ∨ (u = trapOf .accessFault ∧ (¬counts ∨ ¬fits a c.src c.sstride ∨ ¬fits b c.dst c.dstride))
        ∨ (counts ∧ a = .scratch ∧ u = trapOf .deadRead ∧ ∃ n, n < c.rows ∧ touchesOff s.cur.team (starts c.src c.sstride n) c.rowSz = true)
        ∨ (counts ∧ a = .xbuf ∧ ∃ n, n < c.rows ∧ u ∈ drainTraps s.cur.team (starts c.src c.sstride n) c.rowSz))
    ∧ (∀ (l : W32) (g : Bool), litTraps l g = if l.toNat / 2 ^ 20 % 2 ^ 10 ≠ 0 ∨ (l.getLsbD 30 = true ∧ (l.getLsbD 31 = false ∨ g = true))
        ∨ (l.getLsbD 31 = false ∧ l.toNat % 2 ^ 20 ≠ 0) then [illegal 3] else [])
    ∧ (s.cur.lit.getLsbD 31 = false → litBarTraps s = []) ∧ (s.cur.lit.getLsbD 31 = true → litBarTraps s = objectTraps s (s.cur.lit.toNat % 2 ^ 20) true)
    ∧ (∀ (t : Team) (a n : Nat) (u : TrapReq), u ∈ drainTraps t a n ↔
        (u = trapOf .tileFormat ∧ ∃ k, k < n ∧ ∀ y ∈ t.tiles, y.meets (a + k) 1 = false) ∨ (u = trapOf .tileLive ∧ ∃ y ∈ t.tiles, y.state = 2 ∧ y.meets a n = true))
    ∧ goes (.cpG2s d q) (cmd 0 .global .scratch) ∧ goes (.cpS2g d q) (cmd 1 .scratch .global) ∧ goes (.cpG2a d q) (cmd 2 .global .abuf)
    ∧ goes (.cpG2w d q) (cmd 3 .global .wbuf) ∧ goes (.cpX2g d q) (cmd 4 .xbuf .global) ∧ goes (.cpG2g d q) (cmd 5 .global .global)

/-- With its reserved fields zero, its ranges legal and aligned and its barrier objects in order (the source of a cp.circ canonical too), gth or cp.circ places its command with no bytes expected; else it takes the trap of lowest kind of those that fail: reserved fields or literal IllegalInstruction (cause 3), addresses and sizes that are not aligned Misaligned, counts, ranges and an unsound circular descriptor AccessFault, a descriptor in an Off bank DeadRead, and the traps of the barrier objects; qfence marks the named queues at its age, and a mask of zero raises cause 3; the older accesses of the group to the objects of a circular buffer come first; cb.wait writes S[d] with NEXT and blocks until filled phase NEXT has completed (in a portable team it blocks even when it has, until the next commit: log 139); cb.free arrives on FREED as a release. (R95, R96, R263, R264, R271, R274) -/
def Obligations.GatherAndCircularWordsIssue : Prop :=
  ∀ (s : State) (d a : SReg) (q : Fin 6) (m : BitVec 8), s.cur.live = true →
    let w (k : Nat) : Nat := (s.rS (d.val + k)).toNat
    let cd := (s.rS a).toNat
    let iw := if w 3 / 2 ^ 33 % 2 = 1 then 8 else 4
    let sp : Space := if w 3 / 2 ^ 32 % 2 = 1 then .abuf else .scratch
    let rows := w 2 / 2 ^ 48
    let size := w 2 / 2 ^ 32 % 2 ^ 16
    let one (p : Prop) [Decidable p] (t : TrapReq) : List TrapReq := if p then [t] else []
    let sized := 4 ≤ size ∧ size ≤ 65532
    let bad : List TrapReq := litTraps s.cur.lit true ++ one (w 3 / 2 ^ 34 ≠ 0) (illegal 3) ++ litBarTraps s
      ++ one (rows = 0 ∨ ¬sized ∨ shareOf s.cur.team sp < w 3 % 2 ^ 32 + rows * size) (trapOf .accessFault)
      ++ one (w 0 % iw ≠ 0 ∨ w 1 % 4 ≠ 0 ∨ w 2 % 2 ^ 32 % 4 ≠ 0 ∨ w 3 % 2 ^ 32 % 4 ≠ 0 ∨ (sized ∧ size % 4 ≠ 0)) (trapOf .misaligned)
    (∀ t ts, bad = t :: ts → exec (.gth d q) s = .next (s.trapWord (worstTrap t ts)))
    ∧ (bad = [] → exec (.gth d q) s = .next (s.queueCopy { kind := 7, queue := q, src := w 1, dst := w 3 % 2 ^ 32, rows := rows, rowSz := size, sstride := w 2 % 2 ^ 32, dstride := 0, bar := litBar s.cur.lit, idxW := iw, idxAddr := w 0, from_ := .global, to_ := sp } 0))
    ∧ (let z := s.circSettled (w 1)
      let w (k : Nat) : Nat := (z.rS (d.val + k)).toNat
      let n := w 2 % 2 ^ 32
      let bad : List TrapReq := one (z.cur.lit ≠ 0 ∨ w 2 / 2 ^ 32 ≠ 0 ∨ w 3 ≠ 0) (illegal 3) ++ (circTraps z (w 1) fun d => [d.filled, d.freed])
        ++ one (w 0 % 4 ≠ 0) (trapOf .misaligned) ++ one (canonical (w 0 : Int) = false ∨ canonical ((w 0 + n - 1 : Nat) : Int) = false) (trapOf .accessFault)
        ++ one (n = 0 ∨ (z.circAt (w 1)).slotBytes < n) (trapOf .accessFault)
      (bad = [] → exec (.cpCirc d q) s = .next (z.queueCopy { kind := 6, queue := q, src := w 0, dst := 0, rows := 1, rowSz := w 2, sstride := 0, dstride := 0, circ := some (w 1), from_ := .global, to_ := .scratch } 0))
      ∧ ∀ t ts, bad = t :: ts → exec (.cpCirc d q) s = .next (s.trapWord (worstTrap t ts)))
    ∧ (∀ (y : State) (a : Nat) (bars : Circ → List Nat) (u : TrapReq), let t := y.cur.team
        let c := y.circAt a
        let sound := c.low / 2 = 0 ∧ 2 ≤ c.nslot ∧ c.nslot ≤ 1024 ∧ 1 ≤ c.slotSz ∧ c.base % 16 = 0 ∧ c.base + c.nslot * c.slotBytes ≤ shareOf t c.space
          ∧ c.filled % 16 = 0 ∧ c.freed % 16 = 0 ∧ c.filled + 16 ≤ shareOf t .scratch ∧ c.freed + 16 ≤ shareOf t .scratch
        u ∈ circTraps y a bars ↔ (a % 32 ≠ 0 ∧ u = trapOf .misaligned) ∨ (shareOf t .scratch < a + 32 ∧ u = trapOf .accessFault)
          ∨ (a + 32 ≤ shareOf t .scratch ∧ ((¬sound ∧ u = trapOf .accessFault) ∨ (touchesOff t a 32 = true ∧ u = trapOf .deadRead)
            ∨ ∃ off ∈ bars c, off % 16 = 0 ∧ off + 16 ≤ shareOf t .scratch ∧ u ∈ objectTraps y off true)))
    ∧ (∃ t, exec (.qfence m) s = .next t ∧ ((List.range 8).filter fun q => m.getLsbD q, s.nextOp) ∈ t.cur.group.marks
        ∧ t.cur.group.regs = s.cur.group.regs ∧ t.cur.group.splits = s.cur.group.splits ∧ t.mem = s.mem ∧ t.ops = s.ops)
    ∧ (let z := s.circSettled cd
      let c := z.circAt cd
      let k : W32 := BitVec.ofNat 32 c.next
      let t := z.wS d (BitVec.ofNat 64 k.toNat)
      ((circTraps z cd fun d => [d.filled]) = [] →
        exec (.cbWait d a) s = .next (if t.cur.team.portable = false ∧ (t.barNow c.filled).completed k = true then t else t.block (.barWait c.filled k true)))
      ∧ ((circTraps z cd fun d => [d.freed]) = [] → exec (.cbFree a) s =
        match z.barWord c.freed (.arrive 0 (some cd)) true .team with | .ok t => .next t | .error t => .next (s.trapWord t)))
    ∧ (∀ c : Bool, decodeWord (bit c * 2 ^ 31 + 0x72 * 2 ^ 24) = .error 3)

/-- A launch is illegal with a reserved bit, Misaligned or refused for what R275 names; with room in the pool it places a record with the extent, tag, number and launcher of the word and reads the descriptor, its further pages and the eight parameter words; without room launch blocks, to issue again, and its team drains, and launch.try writes zeros; join and join.all go on when no awaited child is left and otherwise block and drain the team; join.door charges a wait of 2,048 cycles for its doorbell count and blocks; amsg is illegal with a reserved bit, refused outside the core set or without a handler, and else puts in flight a message that sets out over the mesh, at once or when the older writes of its group have performed. A portable team buffers all of them until its commit. (R21, R275, R276, R278, R279, R369, R381, R397) -/
def Obligations.LaunchWordsIssue : Prop :=
  ∀ (s : State) (d a : SReg) (c : CReg), s.cur.live = true →
    let w (k : Nat) : W64 := s.rS (d.val + k)
    let kd := (w 0).toNat
    let pa := (w 1).toNat
    let t := s.cur.team
    let g := s.cur.group
    let reserved := extReserved (w 2) (w 3) = false
    let aligned := kd % 64 = 0 ∧ pa % 8 = 0
    let legal := ¬reserved ∧ aligned ∧ extLegal (w 2) = true ∧ canonical (kd : Int) = true ∧ canonical ((kd + Config.kernelBytes - 1 : Nat) : Int) = true ∧ canonical (pa : Int) = true ∧ canonical ((pa + 63 : Nat) : Int) = true
    let both (u v : State) : Prop := exec (.launch d) s = .next u ∧ exec (.launchTry d c) s = .next v
    let trap (e : TrapReq) : Prop := both (s.trapWord e) (s.trapWord e)
    let read (n : Nat) (try_ : Bool) : Op := { blankOp (.launchRead n try_ (if try_ then c.val else 0)) with
      count := .loads, rel := true, threads := s.lanes, active := launchLanes kd, addr := launchAddrs kd pa, x := SMap.set 0 (SMap.set 0 [] 0 (w 2)) 1 (w 3) }
    let room := s.poolRoom t.seat (s.launchRegion t) = true
    let send (u : State) (id : Nat) : State := (u.translate id (launchLanes kd)).checkOp id
    let buffered (o : Op) : State := (s.launchOp { o with buffered := true }).onGroup fun g => { g with effects := g.effects ++ [s.nextOp] }
    (reserved → trap (illegal 3)) ∧ (¬reserved → ¬aligned → trap (trapOf .misaligned)) ∧ (¬reserved → aligned → ¬legal → trap (trapOf .accessFault))
    ∧ (legal → t.portable = false → room →
        (let p := s.placeRecord t g.gid (w 2) (w 3) s.nextOp
         let q := p.2.placeOp (read p.1 false)
         let r := p.2.placeOp (read p.1 true)
         both (send q.2 q.1) (send (r.2.pend r.1 [64 + c.val]) r.1)
         ∧ ∃ x : Grid, p.2.grids = s.grids ++ [x] ∧ x.id = p.1 ∧ x.seat = t.seat ∧ x.launcher = .device t.id g.gid ∧ x.age = s.nextOp ∧ x.placed = true
           ∧ x.tag = (w 3).toNat % 2 ^ 16 ∧ (x.gx, x.gy, x.gz, x.shape) = extOf (w 2) ∧ x.region = s.launchRegion t ∧ x.mode = t.mode))
    ∧ (legal → t.portable = false → ¬room → both (((s.goto s.cur.pkt s.cur.slot).block .launch).drain t.id true) (s.wC c 0))
    ∧ (legal → t.portable = true → both (buffered (read 0 false)) ((buffered (read 0 true)).pend s.nextOp [64 + c.val]))
    ∧ (let joins (i : Instr) (tag : Option Nat) : Prop :=
         (t.portable = false → s.awaited t.id tag s.nextOp = [] → exec i s = .next s)
         ∧ (t.portable = false → s.awaited t.id tag s.nextOp ≠ [] → exec i s = .next ((s.block (.join tag s.nextOp)).drain t.id true))
         ∧ (t.portable = true → exec i s = .next (s.block (.join tag s.nextOp)))
       joins (.join a) (some ((s.rS a).toNat % 2 ^ 16)) ∧ joins .joinAll none)
    ∧ (let x : W32 := (s.rS a).truncate 32
       let m : Charged := { id := s.nextId, event := 2, core := t.core, t0 := s.oclk t.seat, due := s.oclk t.seat + 2048, owner := .fetch t.id g.gid s.cur.split, door := some x
                            doneAt := if (SMap.get 0 s.doors t.vf - x).toNat < 2 ^ 31 then some s.g else none }
       ∃ u, exec (.joinDoor a) s = .next (State.block u (.door s.nextId)) ∧ u.cur = s.cur ∧ u.mem = s.mem ∧ u.ops = s.ops
         ∧ u.seats = s.seats.map (fun y => if y.num = t.seat then { y with waits := y.waits ++ [{ m with vf := y.vf }] } else y)
         ∧ u.agenda = s.agenda ++ [(s.g + 2048, .chargedWaitDue t.seat s.nextId)])
    ∧ (let k := pa % 2 ^ 6
       let reserved := 2 ^ 8 ≤ kd ∨ 2 ^ 6 ≤ pa
       let there := (∃ x, s.findSeat t.seat = some x ∧ (x.core? kd).isSome = true) ∧ s.handlerAddr t.seat k ≠ 0
       let o : Op := { blankOp (.amsg kd k (w 2) (w 3) (BitVec.ofNat 64 (t.core + 256 * g.gid))) with count := .stores, rel := true, active := 0 }
       (reserved → exec (.amsg d) s = .next (s.trapWord (illegal 3)))
       ∧ (¬reserved → ¬there → exec (.amsg d) s = .next (s.trapWord (trapOf .accessFault)))
       ∧ (¬reserved → there → t.portable = true → exec (.amsg d) s = .next (buffered o))
       ∧ (¬reserved → there → t.portable = false → let q := s.placeOp o
         exec (.amsg d) s = .next (if (q.2.findOp q.1).all (fun o => o.held) then q.2 else q.2.sendMessage q.1)))
    ∧ ∀ (u : State) (id core k : Nat) (x y z : W64) (o : Op), u.findOp id = some o → o.kind = .amsg core k x y z →
        ∃ r : Req, (u.sendMessage id).reqs = u.reqs ++ [r] ∧ r.kind = .message ∧ r.owner = id ∧ r.seat = o.seat ∧ r.arrive = u.g + 6

/-- A vregrp with every lane at nest 0 or 255 at a point that no other word of the team contradicts arrives: the split moves to the next packet and blocks, the team keeps the point, and the completion is looked at in this cycle; a lane at a nest of 1-254 or another point raises IllegalInstruction, cause 13. (R56, R230, R231) -/
def Obligations.RegroupArrival : Prop :=
  ∀ (s : State) (f : VReg) (n : Fin 16) (c : CReg) (p : Fin 256), Ready (.vregrp f n c p) s →
    let me : Regroup := { point := p.val, first := f.val, count := n.val + 1, cond := c.val }
    let nested := ∃ L, L < 32 ∧ s.rN L ≠ 0 ∧ s.rN L ≠ 255
    let other := s.cur.team.regroup ≠ none ∧ s.cur.team.regroup ≠ some me
    (¬nested → ¬other → exec (.vregrp f n c p) s =
      .next ((((s.onTeam fun t => { t with regroup := some me }).goto (s.cur.pkt + 16) 0).block (.regroup (s.cur.pkt + 16))).now (.regroupComplete s.cur.team.id)))
    ∧ (nested ∨ other → exec (.vregrp f n c p) s = .next (s.trapWord (illegal 13)))

/-- With its engine not fenced and its parameters legal, xcfg configures its tile Clear, xlds sets the shadow descriptor, xswp swaps the descriptors, xmm and xbmm open the tiles of the active quarters, xscac opens its destination, xdrn closes its tiles and xrel frees them, and each puts one operation in queue 6. (R282, R284, R285, R288, R296, R298, R299, R300, R302, R303, R304, R305) -/
def Obligations.MatrixWordsIssue : Prop :=
  ∀ (s : State) (p : VReg) (r : Fin 4) (f : Fmt) (a j : Bool) (k : TKind) (disc : Bool), s.cur.live = true →
    s.fencedMx.contains s.cur.team.core = false →
    let t := s.cur.team
    let w (n : Nat) := par s p n
    let pr := s.pair t.seat t.vf t.core r
    let bound := s.seat.bound t.core r = true
    let y : Tile := { id := w 0, kind := k, off := w 1, rows := w 2, cols := w 3, planes := w 4 }
    let inj (b : Bool) := b = true → s.seat.pl.inj = true
    let pass (i : Instr) (block acc : Bool) : Prop := regTraps i s = [] → bound → inj j → ∀ d, pr.active = some d →
      (pairKind f d.fmt).isSome = true → (decide (fmtClass f = 2)) = block → d.kl ≤ (pairLimit f d.fmt).1 → d.nl ≤ (pairLimit f d.fmt).2 →
      (∀ q ∈ quartersIn s, quarterTraps s p block f d q = []) →
      exec i s = .next ((s.onTeam fun t => ((quartersIn s).map (quarterOf s p)).foldl (fun t q => t.tileState q.tile 2) t).queueMx
        (.pass block r pr.gen pr.phys d.ver f acc j ((quartersIn s).map (quarterOf s p))))
    (regTraps (.xcfg p k disc) s = [] → y.id < 16 → 8 ≤ y.rows → y.rows ≤ 128 → y.rows % 8 = 0 → 1 ≤ y.cols → y.cols ≤ 128 →
      (if k = .part then 1 ≤ y.planes ∧ y.planes ≤ 8 else y.planes = 0) → (∀ z ∈ t.tiles, z.id ≠ y.id → z.meets y.off y.bytes = false) →
      (∀ z, t.tile y.id = some z → disc = true ∨ z.state < 2) → y.off % 256 = 0 → inShare t .xbuf (y.off : Int) y.bytes = true →
      exec (.xcfg p k disc) s = .next ((s.onTeam fun t => { t with tiles := (t.tiles.filter fun z => z.id != y.id) ++ [y] }).queueMx
        (.xcfg y.id k y.off y.rows y.cols y.planes)))
    ∧ (regTraps (.xlds p r f) s = [] → bound → 32 ≤ w 2 → w 2 ≤ 256 → w 2 % 32 = 0 → 1 ≤ w 3 → w 3 ≤ 128 → w 0 % fmtAlign f = 0 →
      w 1 % fmtAlign f = 0 → (∀ c, c < w 3 → inShare t .wbuf ((w 0 + c * w 1 : Nat) : Int) (rowBytes f (w 2)) = true) →
      exec (.xlds p r f) s = .next ((s.setPair { pr with shadow := some { fmt := f, kl := w 2, nl := w 3, ver := s.nextOp } }).queueMx
        (.xlds r (!pr.phys) f (w 0) (w 1) (w 2) (w 3) pr.shadow)))
    ∧ (bound → exec (.xswp r) s = .next
        ((s.setPair { pr with active := pr.shadow, shadow := pr.active, gen := pr.gen + 1, phys := !pr.phys }).queueMx (.xswp r)))
    ∧ pass (.xmm p r f a j) false a ∧ pass (.xbmm p r f j) true false
    ∧ (regTraps (.xscac p a) s = [] → w 0 / 2 ^ 15 = 0 → ∀ y z, t.tile (w 0 % 16) = some y → t.tile (w 0 / 16 % 16) = some z → y.kind = .part →
      z.kind = .f32 → y.rows = z.rows → y.cols = z.cols → w 0 / 256 % 16 + w 0 / 4096 % 8 + 1 ≤ y.planes →
      exec (.xscac p a) s = .next ((s.onTeam fun t => t.tileState (w 0 / 16 % 16) 2).queueMx
        (.xscac (w 0 % 16) (w 0 / 16 % 16) (w 0 / 256 % 16) (w 0 / 4096 % 8 + 1) a)))
    ∧ (regTraps (.xdrn p) s = [] → w 0 < 65536 → (∀ k ∈ tilesOf (w 0), (t.tile k).isSome = true) →
      exec (.xdrn p) s = .next ((s.onTeam fun t => (tilesOf (w 0)).foldl (fun t k => t.tileState k 3) t).queueMx (.xdrn (w 0))))
    ∧ (regTraps (.xrel p disc) s = [] → w 0 < 65536 → (disc = true ∨ ∀ k ∈ tilesOf (w 0), ∀ y, t.tile k = some y → y.state ≠ 2) →
      exec (.xrel p disc) s = .next ((s.onTeam fun t => { t with tiles := t.tiles.filter fun y => w 0 / 2 ^ y.id % 2 != 1 }).queueMx (.xrel (w 0))))

/-- A ring word whose slot index is below 576, names a slot of the seat and no fenced slot, and whose own checks pass, puts its operation at the station; sg.rev.ofs writes S[d] with the ring offset of this cycle. A word of any of the six operations whose index is 576 or more takes AccessFault, one whose slot is not of the seat RingNotOwned, one whose slot is fenced MemoryUncorrectable, or the lower trap of its own checks. (R310, R314, R319, R320, R321, R322) -/
def Obligations.RingWordsIssue : Prop :=
  ∀ (s : State) (d a : SReg) (acq : Bool) (p : ModOp) (w : Fin 8) (r : Ord) (c : ArmCmp), s.cur.live = true →
    let n := (s.rS a).toNat
    let v := s.rS d
    let ok := n < 576 ∧ s.seat.pl.dmap.getLsbD (n % 64) = true ∧ (s.slot n).state ≠ 3
    let keys := destKeys (.scal d.val)
    let loads (k : RingKind) : Op := { blankOp (.ring n k) with count := .loads, dest := .scal d.val }
    (ok → v.toNat % 32 = 0 → canonical (v.toNat : Int) = true → ((s.placeNow s.cur.team v.toNat).any Phys.isPeer) = false →
      exec (.sgBoard d a) s = .next (s.queueRing { loads (.board v.toNat (.dev 0) (boardPayload s d)) with addr := SMap.set 0 [] 0 v.toNat } n true keys))
    ∧ (ok → exec (.sgAlight d a) s = .next (s.queueRing { blankOp (.ring n .alight) with count := .stores, dest := .scal d.val, rel := true } n false keys))
    ∧ (ok → exec (.sgCap d a acq) s = .next (s.queueRing { loads (.cap acq) with acq := acq } n false ((block d.val 5).filter fun k => k != 0)))
    ∧ (ok → ¬(s.cur.team.portable = true ∧ (p = .xchg32 ∨ p = .cas32 ∨ p = .addF32)) → exec (.sgMod d a p w r) s = .next (s.queueRing
        { loads (.mod p w.val (v.truncate 32) (BitVec.ofNat 32 (v.toNat / 2 ^ 32))) with acq := ordAcq r, rel := s.ringRel (ordRel r) } n false keys))
    ∧ (ok → s.cur.team.portable = true → (p = .xchg32 ∨ p = .cas32 ∨ p = .addF32) → exec (.sgMod d a p w r) s = .next (s.trapWord (trapOf .ringOpForbidden)))
    ∧ (ok → exec (.sgRev d a) s = .next (s.queueRing (loads .probe) n false keys))
    ∧ exec (.sgRevOfs d) s = .next (s.wS d (BitVec.ofNat 64 (s.seat.rho s.g)))
    ∧ (ok → v.toNat < 2 ^ 20 → (s.rS (d.val + 1)).toNat < 2 ^ 32 → objectTraps s v.toNat true = [] → (s.bar v.toNat).armed = false →
        ∃ t, exec (.sgArm d a c w) s = .next t ∧ t.cur.trap = s.cur.trap ∧ t.nextOp = s.nextOp + 1 ∧ t.cur.group.regs = s.cur.group.regs
          ∧ (s.cur.team.portable = false → ∃ x ∈ t.arms, x.slot = n ∧ x.w = w.val ∧ x.cmp = c ∧ x.off = v.toNat ∧ x.x = (s.rS (d.val + 1)).truncate 32))
    ∧ (let stops (k : TrapKind) : Prop :=
         (∀ i ∈ [.sgAlight d a, .sgRev d a, .sgCap d a acq], exec i s = .next (s.trapWord (trapOf k)))
         ∧ ∀ i ∈ [.sgBoard d a, .sgMod d a p w r, .sgArm d a c w], ∃ u, exec i s = .next (s.trapWord u) ∧ (u = trapOf k ∨ trapCode u.kind < trapCode k)
       (576 ≤ n → stops .accessFault)
       ∧ (n < 576 → s.seat.pl.dmap.getLsbD (n % 64) = false → stops .ringNotOwned)
       ∧ (n < 576 → s.seat.pl.dmap.getLsbD (n % 64) = true → (s.slot n).state = 3 → stops .memoryUncorrectable))

/-- Each event answers a next state. POSITION_START: off the first cycle of a position nothing starts; at a fenced link every request at its head is abandoned; while the host link trains its requests stand until the end; a position that has started a request starts none; else it serves the first request of the seat that owns it, and with none of those the first of seat 15, unless the position is vacant and claimed, a request that is to be repeated before any other of its seat; a request whose transfer fails here keeps its seat's next position, one whose repeat succeeds logs event 7 or 8 and is served, one that fails twice fences; the other requests that wait are placed again from the next cycle, and what has been done for the host and the peers is answered. LOAD_REPLY: a walk reads the next entry of a table or ends four cycles on; the line of a load of device memory enters L1 unless its page or the request keeps it out; a piece goes on and a lane request retires; a refused request ends its command or refuses its lanes with AccessFault. A store or an atomic performs once; an acknowledgement retires a store of lanes; a recall drops the owned line from the L1 and the store asks for its slice again; an atomic without a destination retires. A scratchpad step serves its rows and comes again in the next cycle, the step after the last lands the operation; a port cycle waits for the port and for older words, moves its lanes (the lower sixteen first where there are two cycles: log 113) or one unit of an xlds, and ends 2 or 8 cycles on. A held release stays while an older write of its group has not performed; then a global one is sent, a local one goes to its rows or port, a barrier update applies. An error on a channel read or a link flit spoils the transfer that is next, once or twice; one that fails twice traps its readers, or fences its link and ends the teams of the die, or takes its port down. Refresh claims a channel position that no seat owns. (R14, R16, R18, R54, R85, R87, R290, R353, R403, R413, R422, R423) -/
def Obligations.MemoryEventsAct : Prop :=
  ∀ s : State,
    (∀ (st : Struct), s.ev = some (.positionStart st) →
      let len := structLen st
      let waiting := s.reqs.filter fun (r : Req) => r.sent && r.head == some st && decide (r.arrive ≤ s.g) && !s.stands r && !s.orderHeld r
      let own := s.rotaOwner (s.g / len) (s.g / Config.frame)
      let mine := waiting.filter fun (r : Req) => some r.seat == own
      let fill := waiting.filter fun (r : Req) => r.seat == 15
      let again (t : State) (l : List Req) : State := l.foldl (fun (t : State) (q : Req) => t.schedule { q with arrive := t.g + 1 }) t
      let answered (t : State) : State := (t.reqs.filter fun (q : Req) => q.kind == .visit && q.performed).foldl (fun (t : State) (q : Req) => t.visited q) t
      (s.fencedStruct st = true → exec .positionStart s = .next ((s.reqs.filter fun (q : Req) => q.head == some st).foldl (fun (t : State) (q : Req) => t.abandon q) s))
      ∧ (s.fencedStruct st = false →
        (s.g % len ≠ 0 → exec .positionStart s = .next (answered s))
        ∧ (s.g % len = 0 → st = .hostLink → s.g < s.link.retrain →
          exec .positionStart s = .next (answered (waiting.foldl (fun (t : State) (q : Req) => t.schedule { q with arrive := t.link.retrain }) s)))
        ∧ (s.g % len = 0 → ¬(st = .hostLink ∧ s.g < s.link.retrain) → ∀ cands : List Req,
          (s.spent st = true ∧ cands = []) ∨ (s.spent st = false ∧ mine ≠ [] ∧ cands = mine)
            ∨ (s.spent st = false ∧ mine = [] ∧ own = none ∧ s.claimed st = true ∧ cands = [])
            ∨ (s.spent st = false ∧ mine = [] ∧ (own ≠ none ∨ s.claimed st = false) ∧ cands = fill) →
          ∀ pick : Option Req, pick = ((firstReq (cands.filter fun (r : Req) => r.failed.isSome)).orElse fun _ => firstReq cands) →
          (pick = none → exec .positionStart s = .next (answered (again s waiting)))
          ∧ (∀ r, pick = some r → ∀ t : State, t = s.spend st → ∀ f : State → State, f = (fun (t : State) => answered (again t (waiting.filter fun (q : Req) => q.id != r.id))) →
            (r.failed = none → r.fails = 0 → exec .positionStart s = .next (f (t.serve r)))
            ∧ (r.failed = none → r.fails ≠ 0 → ∀ q : Req, q = { r with failed := some t.g, arrive := t.g + len } → exec .positionStart s = .next (f ((t.mapReq r.id fun _ => q).schedule q)))
            ∧ (∀ a, r.failed = some a →
              (r.fails = 2 → ∀ e : Event, ((∃ d c, st = .dram d c) ∧ e = .dramReadRetry r.id true) ∨ ((∀ d c, st ≠ .dram d c) ∧ e = .meshFlitRetry r.id true) →
                exec .positionStart s = .next (f ((t.mapReq r.id fun (r : Req) => { r with fails := 3 }).now e)))
              ∧ (r.fails ≠ 2 → ∀ n d : Nat, ((∃ d c, st = .dram d c) ∧ n = 7 ∧ d = r.place.addr) ∨ (∃ p, st = .colalm p ∧ n = 8 ∧ d = 16 + p)
                  ∨ ((∀ d c, st ≠ .dram d c) ∧ (∀ p, st ≠ .colalm p) ∧ n = 8 ∧ d = linkNumber st) →
                exec .positionStart s = .next (f (((t.logEvent r.seat n r.core (t.oclk r.seat - (t.g - a)) (BitVec.ofNat 64 d) (t.g - a)).mapReq r.id
                  fun (r : Req) => { r with fails := 0, failed := none }).serve r))))))))
    ∧ (∀ (id : Nat), s.ev = some (.loadReply id) →
      (s.findReq id = none → exec .loadReply s = .next s)
      ∧ (∀ r, s.findReq id = some r → ∀ u, u = s.linkDone r → (r.place.isDev = true → u = s)
        ∧ (r.refused = true → (∀ c, u.opKind r.owner = some (.copy c) → exec .loadReply s = .next ((u.dropReq r.id).stopCopy r.owner .accessFault))
          ∧ ((∀ c, u.opKind r.owner ≠ some (.copy c)) → exec .loadReply s = .next ((u.refuse r.owner r.lanes).retireReq r)))
        ∧ (r.refused = false → r.kind = .walk →
          ((u.dropReq r.id).findWalk r.owner = none → exec .loadReply s = .next (u.dropReq r.id))
          ∧ (∀ w, (u.dropReq r.id).findWalk r.owner = some w →
            (∀ pa, judge w.level w.entry r.va = .table pa →
              exec .loadReply s = .next (((u.dropReq r.id).mapWalk w.id fun _ => { w with level := w.level - 1, table := pa }).readEntry { w with level := w.level - 1, table := pa }))
            ∧ ((∀ pa, judge w.level w.entry r.va ≠ .table pa) → exec .loadReply s = .next ((u.dropReq r.id).at ((u.dropReq r.id).g + 4) (.tlbWalkComplete w.id)))))
        ∧ (r.refused = false → r.kind = .load → ∀ v,
            v = (if r.place.isDev && !r.com && !r.strong && !r.inL1 then u.fresh.2.mapSeat r.seat fun x =>
              x.fillL1 { at_ := r.core, line := r.place.lineNo, nt := r.hint == .nt, keep := r.hint == .keep, stamp := u.fresh.1 } else u) →
          (∀ c, v.opKind r.owner = some (.copy c) → exec .loadReply s = .next ((v.dropReq id).pieceDone r.owner 1))
          ∧ ((∀ c, v.opKind r.owner ≠ some (.copy c)) → exec .loadReply s = .next (v.retireReq r)))
        ∧ (r.refused = false → r.kind = .atomic → exec .loadReply s = .next (u.retireReq r))
        ∧ (r.refused = false → r.kind ≠ .walk → r.kind ≠ .load → r.kind ≠ .atomic → exec .loadReply s = .next (u.dropReq id))))
    ∧ (∀ (id : Nat), s.ev = some (.storePerform id) →
      (s.findReq id = none → exec .storePerform s = .next s)
      ∧ (∀ r, s.findReq id = some r → (r.performed = true → exec .storePerform s = .next s)
        ∧ (r.performed = false → (∀ c, r.kind = .store → (s.perform r).opKind r.owner = some (.copy c) → exec .storePerform s = .next ((s.perform r).pieceDone r.owner 3))
          ∧ ((∀ c, (s.perform r).opKind r.owner ≠ some (.copy c)) ∨ r.kind ≠ .store → exec .storePerform s = .next (s.perform r)))))
    ∧ (∀ (id : Nat), s.ev = some (.storeAcknowledge id) →
      (s.findReq id = none → exec .storeAcknowledge s = .next s)
      ∧ (∀ r, s.findReq id = some r → ∀ u, u = s.linkDone r →
        (r.refused = true → exec .storeAcknowledge s = .next (u.refusedReply r))
        ∧ (r.refused = false → r.kind = .store → (∀ c, u.opKind r.owner = some (.copy c) → exec .storeAcknowledge s = .next (u.dropReq id))
          ∧ ((∀ c, u.opKind r.owner ≠ some (.copy c)) → exec .storeAcknowledge s = .next (u.retireReq r)))
        ∧ (r.refused = false → r.kind ≠ .store → exec .storeAcknowledge s = .next (u.dropReq id))))
    ∧ (∀ (id : Nat), s.ev = some (.lineRecall id) →
      (s.findReq id = none → exec .lineRecall s = .next s)
      ∧ (∀ q, s.findReq id = some q → ∀ u,
          u = (s.dropReq id).mapSeat q.seat (fun (x : Seat) => { x with l1 := x.l1.filter fun l => !(l.owned && l.line == q.place.lineNo) }) →
        (u.findReq q.owner = none → exec .lineRecall s = .next u)
        ∧ (∀ r, u.findReq q.owner = some r → exec .lineRecall s = .next ((u.mapReq r.id fun (r : Req) => { r with sent := true, arrive := u.g }).schedule { r with arrive := u.g }))))
    ∧ (∀ (id : Nat), s.ev = some (.atomicPerform id) →
      (s.findReq id = none → exec .atomicPerform s = .next s)
      ∧ (∀ r, s.findReq id = some r → (r.performed = true → exec .atomicPerform s = .next s)
        ∧ (r.performed = false → (((s.perform r).findOp r.owner).any (fun (o : Op) => o.dest == .none) = true → exec .atomicPerform s = .next ((s.perform r).retireReq r))
          ∧ (((s.perform r).findOp r.owner).any (fun (o : Op) => o.dest == .none) = false → exec .atomicPerform s = .next (s.perform r)))))
    ∧ (∀ (id : Nat) (k : Nat), s.ev = some (.scratchpadRowServe id k) →
      (s.findOp id = none → exec .scratchpadRowServe s = .next s)
      ∧ (∀ o, s.findOp id = some o → (o.held = true → exec .scratchpadRowServe s = .next s)
        ∧ (o.held = false → (∀ rows, (rowSteps (opRows o))[k]? = some rows →
            exec .scratchpadRowServe s = .next ((s.performLocal o (maskOf fun L => o.active.getLsbD L && rows.contains (SMap.get 0 o.addr L / 128))).at (s.g + 1) (.scratchpadRowServe id (k + 1))))
          ∧ (k = (rowSteps (opRows o)).length → exec .scratchpadRowServe s = .next (s.landOp id))
          ∧ ((rowSteps (opRows o)).length < k → exec .scratchpadRowServe s = .next s))))
    ∧ (∀ (id : Nat) (k : Nat), s.ev = some (.bufferPortCycle id k) →
      (s.findOp id = none → exec .bufferPortCycle s = .next s)
      ∧ (∀ o, s.findOp id = some o → (o.held = true → exec .bufferPortCycle s = .next s)
        ∧ (∀ m, o.held = false → o.kind = .matrix m → (k = o.taken → exec .bufferPortCycle s = .next (s.landOp id))
          ∧ (k ≠ o.taken → s.portServes o.core o.seat (portSpace o) = false → exec .bufferPortCycle s = .next (s.at (s.g + 1) (.bufferPortCycle id k)))
          ∧ (k ≠ o.taken → s.portServes o.core o.seat (portSpace o) = true → s.portBehind o = true → exec .bufferPortCycle s = .next (s.now (.bufferPortCycle id k)))
          ∧ (k ≠ o.taken → s.portServes o.core o.seat (portSpace o) = true → s.portBehind o = false → ∀ v, v = s.takePort o.core o.seat (portSpace o) s.g →
            ∀ t j a n, m.units[k]? = some (j, a, n) → v.getTeam o.team = some t →
            ∀ u : State, u = { v with pairs := v.pairs.map fun q => { q with planes := q.planes.map fun p => if p.ver = o.id then p.join j (Memory.bytes t.wbuf a n) else p } } →
            exec .bufferPortCycle s = .next (if k + 1 = o.taken then u.at (u.g + 8) (.xldsComplete id) else u.at (u.g + 1) (.bufferPortCycle id (k + 1)))))
        ∧ (o.held = false → (∀ m, o.kind ≠ .matrix m) → (k = portCycles o → exec .bufferPortCycle s = .next (s.landOp id))
          ∧ (k ≠ portCycles o → s.portServes o.core o.seat (portSpace o) = false → exec .bufferPortCycle s = .next (s.at (s.g + 1) (.bufferPortCycle id k)))
          ∧ (k ≠ portCycles o → s.portServes o.core o.seat (portSpace o) = true → s.portBehind o = true → exec .bufferPortCycle s = .next (s.now (.bufferPortCycle id k)))
          ∧ (k ≠ portCycles o → s.portServes o.core o.seat (portSpace o) = true → s.portBehind o = false → ∀ u, u = s.takePort o.core o.seat (portSpace o) s.g →
            exec .bufferPortCycle s = .next ((u.performLocal o (if portCycles o = 1 then o.active else if k = 0 then 0xFFFF else 0xFFFF0000)).at
              (u.g + (if k + 1 = portCycles o then 2 else 1)) (.bufferPortCycle id (k + 1)))))))
    ∧ (∀ (id : Nat), s.ev = some (.releaseApply id) →
      (s.findOp id = none → exec .releaseApply s = .next s)
      ∧ (∀ o, s.findOp id = some o →
        (o.held = false → exec .releaseApply s = .next (s.settleOp id))
        ∧ (o.held = true → (o.rel = true ∧ s.writesBefore o.team o.gid id = true) ∨ s.heldBehind o = true → exec .releaseApply s = .next s)
        ∧ (o.held = true → o.rel = false ∨ s.writesBefore o.team o.gid id = false → s.heldBehind o = false → ∀ u, u = s.mapOp id (fun (o : Op) => { o with held := false }) →
          (∀ (sp : Space), (∃ n, o.kind = .store sp n) ∨ (∃ n e, o.kind = .atomic sp n e) →
            (sp = .global → exec .releaseApply s = .next ((u.sendHeld id).settleOp id))
            ∧ (sp = .scratch → exec .releaseApply s = .next (u.at (max u.g (o.issued + firstServe o.kind)) (.scratchpadRowServe id 0)))
            ∧ (sp ≠ .global → sp ≠ .scratch → exec .releaseApply s = .next (u.at (max u.g (o.issued + 10)) (.bufferPortCycle id 0))))
          ∧ (∀ off act, o.kind = .bar off act → ∀ v, v = u.settleLocal o.team o.gid id .scratch [(off, 16)] →
            ∀ w, ((∃ n e, act = .arrive n e) ∧ w = v)
              ∨ (∃ ph d t, act = .test ph ∧ o.dest = .scal d ∧ v.getTeam o.team = some t
                ∧ w = v.anyGroup o.team o.gid fun g => g.landS o d (BitVec.ofNat 64 (bit ((readBar t.scratch off).completed ph))))
              ∨ (∃ d t, act = .phase ∧ o.dest = .scal d ∧ v.getTeam o.team = some t
                ∧ w = v.anyGroup o.team o.gid fun g => g.landS o d (BitVec.ofNat 64 (readBar t.scratch off).phase)) →
            ((w.barApply o.team off act).1 = true → exec .releaseApply s = .next (((w.barApply o.team off act).2.finishOp id).wakeReleases o.team o.gid))
            ∧ ((w.barApply o.team off act).1 = false → exec .releaseApply s = .next ((((w.barApply o.team off act).2.defer o .accessFault).finishOp id).wakeReleases o.team o.gid)))
          ∧ (∀ n b c, o.kind = .launchRead n b c → exec .releaseApply s = .next ((u.sendHeld id).settleOp id))
          ∧ (∀ a b c d e, o.kind = .amsg a b c d e → exec .releaseApply s = .next (u.sendMessage id)))))
    ∧ (∀ (id : Nat) (lasting : Bool), s.ev = some (.dramReadRetry id lasting) →
      (s.findReq id = none → exec .dramReadRetry s = .next s)
      ∧ (∀ r, s.findReq id = some r →
        ((∀ e c, r.head ≠ some (.dram e c)) ∨ (r.kind ≠ .load ∧ r.kind ≠ .walk ∧ r.kind ≠ .atomic) → exec .dramReadRetry s = .next s)
        ∧ (∀ e c, r.head = some (.dram e c) → r.kind = .load ∨ r.kind = .walk ∨ r.kind = .atomic →
          (r.fails ≠ 3 → exec .dramReadRetry s = .next (s.mapReq r.id fun (r : Req) => if r.fails = 0 then { r with fails := if lasting then 2 else 1 } else r))
          ∧ (r.fails = 3 → ∀ v, v = s.logEvent r.seat 33 r.core (s.oclk r.seat) (BitVec.ofNat 64 r.place.addr) →
            ∀ w : State, w = { v with badFrames := insertNat (r.place.addr / 4096) v.badFrames } →
            (r.kind = .walk → ((w.dropReq id).findWalk r.owner = none → exec .dramReadRetry s = .next (w.dropReq id))
              ∧ (∀ k, (w.dropReq id).findWalk r.owner = some k → exec .dramReadRetry s = .next (k.waiters.foldl (fun (t : State) p => t.uncorrectable p.1 p.2) ((w.dropReq id).dropWalk k))))
            ∧ (r.kind ≠ .walk → (w.findOp r.owner = none → exec .dramReadRetry s = .next (w.dropReq id))
              ∧ (∀ o, w.findOp r.owner = some o →
                (∀ c, o.kind = .copy c → exec .dramReadRetry s = .next ((w.dropReq id).stopCopy o.id .memoryUncorrectable))
                ∧ ((∀ c, o.kind ≠ .copy c) →
                  exec .dramReadRetry s = .next (((((w.dropReq id).resumeOrdered).mapOp o.id fun (o : Op) => { o with pending := o.pending - 1 }).mapOp o.id fun (o : Op) =>
                    { o with walking := o.walking &&& ~~~r.lanes, uncorr := o.uncorr ||| r.lanes, bad := some (o.worse .memoryUncorrectable) }).settleOp o.id))))))))
    ∧ (∀ (id : Nat) (lasting : Bool), s.ev = some (.meshFlitRetry id lasting) →
      let fence (t : State) (st : Struct) (d n : Nat) : State :=
        let t := { t with fencedLinks := insertNat n t.fencedLinks }
        let t := (t.seats.filter fun (x : Seat) => x.seated).foldl (fun (t : State) (x : Seat) => t.logEvent x.num 33 (64 * d) (t.oclk x.num) (BitVec.ofNat 64 n)) t
        let t := (t.teams.filter fun (u : Team) => u.core / 64 == d).foldl (fun (t : State) (u : Team) => t.haltTeam u.id 0xFFFC (0xFFFC#64)) t
        (t.reqs.filter fun (q : Req) => q.head == some st).foldl (fun (t : State) (q : Req) => t.abandon q) t
      let port (t : State) (p : Nat) : State :=
        let t := { t with host := { t.host with links := t.host.links.set p (3, ((t.host.links[p]?).getD (0, 0)).2) } }
        let t := (t.seats.filter fun (x : Seat) => x.seated).foldl (fun (t : State) (x : Seat) => t.logEvent x.num 33 0 (t.oclk x.num) (BitVec.ofNat 64 (16 + p))) t
        (t.reqs.filter fun (q : Req) => q.head == some (.colalm p)).foldl (fun (t : State) (q : Req) => t.refusedReply q) t
      (s.findReq id = none → exec .meshFlitRetry s = .next s)
      ∧ (∀ r, s.findReq id = some r →
        (r.fails ≠ 3 → (∃ d e, r.head = some (.link d e)) ∨ (∃ c, r.head = some (.router c)) ∨ (∃ p, r.head = some (.colalm p)) →
          exec .meshFlitRetry s = .next (s.mapReq r.id fun (r : Req) => if r.fails = 0 then { r with fails := if lasting then 2 else 1 } else r))
        ∧ (r.fails = 3 → (∀ d e, r.head = some (.link d e) → exec .meshFlitRetry s = .next (fence s (.link d e) d (4 * d + e)))
          ∧ (∀ c, r.head = some (.router c) → exec .meshFlitRetry s = .next (fence s (.router c) (c / 64) (256 + c)))
          ∧ (∀ p, r.head = some (.colalm p) → exec .meshFlitRetry s = .next (port s p)))))
    ∧ (∀ (die : Nat) (ch : Nat), s.ev = some (.dramRefresh die ch) →
      (s.g % 16 = 0 → s.rotaOwner (s.g / 16) (s.g / Config.frame) = none →
        exec .dramRefresh s = .next { s with ports := (structKey (.dram die ch), 0, s.g) :: s.ports } ∧ ({ s with ports := (structKey (.dram die ch), 0, s.g) :: s.ports } : State).claimed (.dram die ch) = true)
      ∧ (s.g % 16 ≠ 0 ∨ s.rotaOwner (s.g / 16) (s.g / Config.frame) ≠ none → exec .dramRefresh s = .next s))

/-- Each event answers a next state. A walk that ends at a device leaf leaves, fills the TLB and gives each party its leaf; at an ATS leaf of a bound address space whose parties it all permits it charges them and asks the host; at an absent page each party meets a fault; at any other entry, or an ATS leaf of an unbound space, the address of the entry is logged and each party is refused. A tlbinv invalidates once and completes when earlier walks and accesses are done. A logged operation replays once no earlier entry of its log waits for its replay. An ATS completion of size zero, or with no walk that awaits it, changes nothing; one that permits every party of its one walk fills the TLB and gives them the leaf, one that permits none makes a page request charged as a fault; a PRI response asks again, walks again after an invalidation, or fails the parties. A charged wait that is not due comes again, ends when it is due and over, and else is late; at the boundary a late wait ends or stops the seat at its clock; the stop ends when every late wait is over, and all moves on by the cycles of the stop. Firmware resolves a page that is mapped or staged, refuses one it cannot map, tries a page being moved again, forwards another with status 14 while its function has fewer than 256, and keeps the rest in order. An illegal instruction traps its word with its cause. A deferred trap that is owed is taken, with the lanes that have performed by then, and leaves the list. (R21, R22, R23, R142, R186, R338, R351, R353, R357, R358, R365, R406) -/
def Obligations.TranslationEventsAct : Prop :=
  ∀ s : State,
    (∀ (id : Nat), s.ev = some (.tlbWalkComplete id) →
      (s.findWalk id = none → exec .tlbWalkComplete s = .next s)
      ∧ (∀ w, s.findWalk id = some w → ∀ at_, at_ = w.table + 8 * levelIndex w.va w.level →
        ∀ bad : State, bad = w.waiters.foldl (fun (t : State) p => t.takeBad w p) ((s.dropWalk w).logEvent w.seat 1 w.core (s.oclk w.seat) (BitVec.ofNat 64 at_)) →
        (∀ level leaf a, judge w.level w.entry at_ = .leaf level leaf a → leafBit leaf 55 = false →
          exec .tlbWalkComplete s = .next (w.waiters.zipIdx.foldl (fun (t : State) p => t.takeLeaf w (leafPlace level leaf) leaf level (2 ^ levelBits level) p.1 (p.2 == 0))
            ((s.dropWalk w).fillFrom w leaf (w.va / 2 ^ levelBits level * 2 ^ levelBits level) (2 ^ levelBits level) a)))
        ∧ (∀ level leaf a, judge w.level w.entry at_ = .leaf level leaf a → leafBit leaf 55 = true → s.pasidOf w.asid ≠ none →
          ∀ asks no, asks = w.waiters.filter (s.partyMay leaf) → no = w.waiters.filter (fun p => !(s.partyMay leaf p)) →
          (asks = [] → exec .tlbWalkComplete s = .next (no.foldl (fun (t : State) p => t.takeBad w p) (s.dropWalk w)))
          ∧ (asks ≠ [] → exec .tlbWalkComplete s = .next (no.foldl (fun (t : State) p => t.takeBad w p)
            ((((asks.foldl (fun (t : State) p => t.chargeParty w 3 Config.chargeHost p) s).mapWalk id fun x => { x with waiters := asks }).askAts w).startWalks w.seat w.core))))
        ∧ (∀ level x a, judge w.level w.entry at_ = .absent level x a → exec .tlbWalkComplete s = .next (w.waiters.foldl (fun (t : State) p => t.takeFault w p) (s.dropWalk w)))
        ∧ (∀ level leaf a, judge w.level w.entry at_ = .leaf level leaf a → leafBit leaf 55 = true → s.pasidOf w.asid = none → exec .tlbWalkComplete s = .next bad)
        ∧ ((∀ level x a, judge w.level w.entry at_ ≠ .absent level x a) → (∀ level leaf a, judge w.level w.entry at_ ≠ .leaf level leaf a) → exec .tlbWalkComplete s = .next bad)))
    ∧ (∀ (id : Nat), s.ev = some (.tlbinvComplete id) →
      (s.findOp id = none → exec .tlbinvComplete s = .next s)
      ∧ (∀ o asid page, s.findOp id = some o → o.kind = .tlbinv asid page →
        (o.started = false → ∀ u, u = (s.invalidate o.seat asid page).mapOp id (fun (o : Op) => { o with started := true, landed := s.nextId }) →
          (u.settledBefore o.seat u.nextId = true → exec .tlbinvComplete s = .next (u.finishOp id)) ∧ (u.settledBefore o.seat u.nextId = false → exec .tlbinvComplete s = .next (u.at (u.g + 1) (.tlbinvComplete id))))
        ∧ (o.started = true →
          (s.settledBefore o.seat o.landed = true → exec .tlbinvComplete s = .next (s.finishOp id)) ∧ (s.settledBefore o.seat o.landed = false → exec .tlbinvComplete s = .next (s.at (s.g + 1) (.tlbinvComplete id))))))
    ∧ (∀ (id : Nat), s.ev = some (.logReplay id) →
      (s.findOp id = none → exec .logReplay s = .next s)
      ∧ (∀ o, s.findOp id = some o → (∀ i, o.kind ≠ .ring i .alight) →
        (o.buffered = true → exec .logReplay s = .next (s.bufferedOver o))
        ∧ (o.buffered = false → o.logged = 0 → exec .logReplay s = .next ((s.mapOp id fun (o : Op) => { o with owed := false }).settleOp id))
        ∧ (o.buffered = false → o.logged ≠ 0 → ∀ b, b = (s.ops.any fun (p : Op) => p.team == o.team && p.gid == o.gid && p.inLog && decide (p.logSeq < o.logSeq) && p.logged != 0 && !p.trapSent) →
          (o.inLog = true → b = true → exec .logReplay s = .next (s.mapOp id fun (o : Op) => { o with owed := true }))
          ∧ (o.inLog = false ∨ b = false →
            exec .logReplay s = .next (((((s.mapOp id fun (p : Op) => { p with logged := 0, walking := p.walking ||| p.logged, owed := false }).translate id o.logged).settleOp id).replayNext o.team o.gid)))))
      ∧ (∀ o i, s.findOp id = some o → o.kind = .ring i .alight →
        exec .logReplay s = .next ((if o.logged = 0 then s else s.mapOp id fun (o : Op) => { o with logged := 0 }).homeWrite i)))
    ∧ (∀ (vf : Nat) (pasid : Nat) (va : Nat) (ok : Bool), s.ev = some (.priResponse vf pasid va ok) →
      exec .priResponse s = .next ((s.atsWalks vf pasid va true).foldl (fun (t : State) (w : Walk) =>
          (if ok then (if w.meets (w.va / w.leafSize * w.leafSize) w.leafSize then t.walkAgain w else t.askAts w) else w.waiters.foldl (fun (t : State) p => t.failParty w p) (t.dropWalk w)).nextPages vf) s)
      ∧ ((∀ w ∈ s.walks, w.ats = false) → exec .priResponse s = .next s))
    ∧ (∀ (vf : Nat) (pasid : Nat) (va : Nat) (pa : Nat) (size : Nat) (rd : Bool) (wr : Bool), s.ev = some (.atsCompletion vf pasid va pa size rd wr) →
      (size = 0 → exec .atsCompletion s = .next s)
      ∧ (size ≠ 0 → ((∀ w ∈ s.walks, w.ats = false) → exec .atsCompletion s = .next s)
      ∧ (∀ w, s.atsWalks vf pasid va false = [w] → ∀ leaf, leaf = atsLeaf w.entry pa rd wr →
          ∀ may no, may = w.waiters.filter (s.partyMay leaf) → no = w.waiters.filter (fun p => !(s.partyMay leaf p)) →
          ∀ t, (no = [] ∧ t = s.dropWalk w) ∨ (no ≠ [] ∧ t = (no.foldl (fun (t : State) p => (t.askedHost w.seat p.1).chargeParty w 1 Config.chargeFault p)
            (s.mapWalk w.id fun x => { x with waiters := no })).sendPri w) →
          (may = [] → exec .atsCompletion s = .next t)
          ∧ (may ≠ [] → exec .atsCompletion s = .next (may.zipIdx.foldl (fun (t : State) p => t.takeLeaf w (fun v => .host (pa + v % size)) leaf 0 size p.1 (p.2 == 0))
              (t.fillFrom w leaf (w.va / size * size) size (w.table + 8 * levelIndex w.va w.level)))))))
    ∧ (∀ (seat : Nat) (id : Nat), s.ev = some (.chargedWaitDue seat id) →
      (s.findSeat seat = none → exec .chargedWaitDue s = .next s)
      ∧ (∀ x, s.findSeat seat = some x → (x.findWait id = none → exec .chargedWaitDue s = .next s)
        ∧ (∀ w, x.findWait id = some w → (w.vf ≠ x.vf ∨ x.switching = true → exec .chargedWaitDue s = .next s)
          ∧ (w.vf = x.vf → x.switching = false → (x.oclk s.g < w.due → exec .chargedWaitDue s = .next (s.at (s.g + (w.due - x.oclk s.g)) (.chargedWaitDue seat id)))
            ∧ (w.due ≤ x.oclk s.g → w.over s.g = true → w.late = false → exec .chargedWaitDue s = .next (s.endWait seat w false))
            ∧ (w.due ≤ x.oclk s.g → w.over s.g = false ∨ w.late = true →
              exec .chargedWaitDue s = .next ((s.mapSeat seat fun (x : Seat) => { x with waits := x.waits.map fun (v : Charged) => if v.id = id then { v with late := true } else v }).at
                (nextFrame s.g) (.lateWaitFreeze seat id)))))))
    ∧ (∀ (seat : Nat) (id : Nat), s.ev = some (.lateWaitFreeze seat id) →
      (s.findSeat seat = none → exec .lateWaitFreeze s = .next s)
      ∧ (∀ x, s.findSeat seat = some x → (x.findWait id = none → exec .lateWaitFreeze s = .next s)
        ∧ (∀ w, x.findWait id = some w → (w.vf ≠ x.vf ∨ x.switching = true ∨ s.g % Config.frame ≠ 0 → exec .lateWaitFreeze s = .next s)
          ∧ (w.vf = x.vf → x.switching = false → s.g % Config.frame = 0 →
            (w.over s.g = true → x.frozen = none → exec .lateWaitFreeze s = .next (s.endWait seat w true))
            ∧ (w.over s.g = false ∨ x.frozen ≠ none → exec .lateWaitFreeze s = .next (s.mapSeat seat fun (x : Seat) => { x with frozen := some (x.oclk s.g) }))))))
    ∧ (∀ (seat : Nat), s.ev = some (.freezeResume seat) →
      (s.findSeat seat = none → exec .freezeResume s = .next s)
      ∧ (∀ x, s.findSeat seat = some x → (x.frozen = none ∨ s.g % Config.frame ≠ 0 ∨ x.mayResume s.g = false → exec .freezeResume s = .next s)
        ∧ (∀ tb, x.frozen = some tb → s.g % Config.frame = 0 → x.mayResume s.g = true → ∀ d, d = s.g - (tb + x.base) →
          ∀ t : State, t = (x.waits.filter fun (w : Charged) => w.late && w.vf == x.vf).foldl (fun (t : State) (w : Charged) => t.endWait seat w true)
            ((s.shiftSeat seat d).mapSeat seat fun (x : Seat) => { x with frozen := none, base := x.base + d, pipes := x.pipes.map fun p => (p.1, (p.2.1 + d, p.2.2 + d)) }) →
          exec .freezeResume s = .next ((t.reqs.filter fun (r : Req) => r.seat == seat && !r.sent && r.hops == [] && decide (r.arrive ≤ t.g) && (t.reqOp r).isSome).foldl
            (fun (u : State) (r : Req) => u.once u.g (.releaseApply r.owner)) t.scheduleAll))))
    ∧ (∀ (id : Nat), s.ev = some (.faultService id) →
      (s.faults = [] → exec .faultService s = .next s)
      ∧ (∀ f, s.faults.find? (fun (f : FaultRec) => f.id == id) = some f
          ∨ (s.faults.find? (fun (f : FaultRec) => f.id == id) = none ∧ s.faults.find? (fun (f : FaultRec) => !f.forwarded) = some f) →
        (∀ level w a, s.walkNow f.asid f.va = .leaf level w a → exec .faultService s = .next (s.resolvePage f))
        ∧ (∀ level w a, s.walkNow f.asid f.va = .absent level w a → staged level w = true →
          (∀ u, s.makeValid w a = some u → exec .faultService s = .next (u.resolvePage f)) ∧ (s.makeValid w a = none → exec .faultService s = .next (s.refusePage f)))
        ∧ (∀ level w a, s.walkNow f.asid f.va = .absent level w a → staged level w = false → leafBit w 1 && leafBit w 63 = true →
          exec .faultService s = .next (s.draw.2.at (s.draw.2.g + 1 + s.draw.1) (.faultService f.id)))
        ∧ (∀ level w a, s.walkNow f.asid f.va = .absent level w a → staged level w = false → leafBit w 1 && leafBit w 63 = false →
          ∀ kin, kin = (fun (k : FaultRec) => (s.faultRegion k).vf == (s.faultRegion f).vf) →
          ∀ full, full = (decide (256 ≤ (s.faults.filter fun (k : FaultRec) => k.forwarded && kin k).length)
            || s.faults.any fun (k : FaultRec) => k.waiting && k.id != f.id && decide (k.id < f.id) && kin k) →
          (f.forwarded = true → exec .faultService s = .next s)
          ∧ (f.forwarded = false → full = true → exec .faultService s = .next { s with faults := s.faults.map fun (k : FaultRec) => if k.id = f.id then { k with waiting := true } else k })
          ∧ (f.forwarded = false → full = false →
            exec .faultService s = .next (({ s with faults := s.faults.map fun (k : FaultRec) => if k.id = f.id then { k with forwarded := true } else k } : State).complete (s.faultRegion f) 0 14 (pageInfo f))))
        ∧ ((∀ level w a, s.walkNow f.asid f.va ≠ .leaf level w a ∧ s.walkNow f.asid f.va ≠ .absent level w a) → exec .faultService s = .next (s.refusePage f))))
    ∧ (∀ (slot : Nat) (word : W32) (cause : Nat), s.ev = some (.illegalInstruction slot word cause) →
      (s.cur.live = false → exec .illegalInstruction s = .next s)
      ∧ (s.cur.live = true → ∀ c, c = { s.cur with slot := slot, word := word, trap := some { illegal cause with word := word, pkt := s.cur.pkt, slot := slot } } →
        exec .illegalInstruction s = .next (({ s with cur := c } : State).takeTrap { illegal cause with word := word, pkt := s.cur.pkt, slot := slot } false)))
    ∧ (∀ (team : Nat) (gid : Nat), s.ev = some (.deferredTrap team gid) →
      let fresh (u : State) (t : TrapReq) : TrapReq :=
        { t with done := (((u.findOp t.age).filter fun (o : Op) => o.trapSent).map fun (o : Op) => o.done).getD t.done }
      (s.cur.live = true → s.cur.group.owed = none → exec .deferredTrap s = .next s)
      ∧ (∀ t, s.cur.live = true → s.cur.group.owed = some t → exec .deferredTrap s = .next ((s.onGroup fun g => { g with deferred := g.deferred.erase t }).takeTrap (fresh s t) true))
      ∧ (s.cur.live = false → s.findTeam team = none ∨ s.findGroup team gid = none → exec .deferredTrap s = .next s)
      ∧ (∀ t g, s.cur.live = false → s.findTeam team = some t → s.findGroup team gid = some g → (g.splits = [] → exec .deferredTrap s = .next s)
        ∧ (∀ p l u, g.splits = p :: l → u = s.focus t g p.idx →
          ∀ v, v = { u with cur := { u.cur with pkt := p.pkt, slot := p.slot, unitSlot := p.slot, nextPkt := p.pkt, nextSlot := p.slot } } →
          (v.cur.group.owed = none → exec .deferredTrap s = .next v.unfocus)
          ∧ (∀ r, v.cur.group.owed = some r → exec .deferredTrap s = .next (((v.onGroup fun g => { g with deferred := g.deferred.erase r }).takeTrap (fresh v r) true).unfocus)))))

/-- Each event answers a next state. A copy command starts when it heads its queue and every mark before it is met: a gth expects its bytes, a fill takes PUT and looks at its slot; a fill begins when its slot is free and the fill before it is complete. A copy position that begins now, has started nothing and is the seat's, or is left to seat 15, starts the piece of the next command in rotation; any other leaves the seat to ask again in the next cycle. A piece reads its bytes at its port and has them 12 cycles later, keeps an index, writes a global or a local destination, is held while an earlier matrix operation still has to read its bytes, and goes on when it has landed. An xlds adds its plane to the pair and keeps every plane a descriptor names; a swap completes; a row injects only on an engine that is not fenced, in the first slot that the cadence and the 8-cycle rule allow, after older stores to its bytes, and its pass completes 136 cycles after its last row and the cadence; a pass lands, is retried 8 cycles on after a difference, or fences the engine after a second; a serial operation lands its tile effect and a drain whose checksums differ raises MatrixLasting. A passage in the wrong phase does nothing; a lasting error fences the slot, a transient one is logged; at core 0 the seam step comes first; a stopped seat applies nothing; else the oldest pending operation applies unless it is a release with older writes, and then the arms are evaluated. A result goes to its scalars, none with s0, and an alight that won stays until its home write is performed; that write empties the slot and lowers STORES. (R95, R263, R268, R269, R272, R289, R290, R291, R292, R293, R312, R314) -/
def Obligations.EngineEventsAct : Prop :=
  ∀ s : State,
    (∀ (id : Nat), s.ev = some (.copyCommandStart id) →
      (s.findOp id = none → exec .copyCommandStart s = .next s)
      ∧ (∀ o, s.findOp id = some o →
        (o.started = true ∨ o.buffered = true ∨ ((s.queueOf o.team o.gid ((opQueue o).getD 8)).head?).map (·.id) ≠ some id ∨ s.marksMet o = false → exec .copyCommandStart s = .next s)
        ∧ (∀ c t, o.started = false → o.buffered = false → ((s.queueOf o.team o.gid ((opQueue o).getD 8)).head?).map (·.id) = some id → s.marksMet o = true →
          o.kind = .copy c → s.getTeam o.team = some t → ∀ begun : State → State, (∀ u, begun u = u.mapOp id (fun (o : Op) => { o with started := true })) →
          (c.circ = none → c.bar = none ∨ c.idxW = 0 → exec .copyCommandStart s = .next ((begun s).pokeEngine o.seat o.core s.g))
          ∧ (∀ off, c.circ = none → c.bar = some off → c.idxW ≠ 0 → ∀ due w, s.gateBanks o.team .scratch off 16 = (due, w) →
            (w.g < due → exec .copyCommandStart s = .next (w.once due (.copyCommandStart id))) ∧ (due ≤ w.g → w.enginePortOpen o .scratch off = false → exec .copyCommandStart s = .next (w.once (w.g + 1) (.copyCommandStart id)))
            ∧ (due ≤ w.g → w.enginePortOpen o .scratch off = true → ∀ v, v = w.takeEnginePort o .scratch off →
              exec .copyCommandStart s = .next (((begun v).barBytes o.team off false (c.rows * c.rowSz)).pokeEngine o.seat o.core v.g)))
          ∧ (∀ cd, c.circ = some cd → ∀ due w, s.gateBanks o.team .scratch cd 32 = (due, w) →
            (w.g < due → exec .copyCommandStart s = .next (w.once due (.copyCommandStart id))) ∧ (due ≤ w.g → w.enginePortOpen o .scratch cd = false → exec .copyCommandStart s = .next (w.once (w.g + 1) (.copyCommandStart id)))
            ∧ (due ≤ w.g → w.enginePortOpen o .scratch cd = true → ∀ d, d = readCirc t.scratch cd →
              ∀ v, v = (w.takeEnginePort o .scratch cd).anyTeam o.team (fun (t : Team) =>
                { t.clearMarks .scratch [(cd + 24, 4)] with scratch := Memory.write t.scratch (cd + 24) 4 ((d.put + 1) % 2 ^ 32) }) →
              exec .copyCommandStart s = .next ((((begun v).touchBars o.team .scratch).mapCopy id fun c => { c with
                fill := d.put, slotFree := !(decide (d.nslot ≤ d.put))
                gate := if d.nslot ≤ d.put then some (d.freed, d.put - d.nslot) else if d.put = 0 then none else some (d.filled, d.put - 1) }).circReadyNow id))))))
    ∧ (∀ (id : Nat), s.ev = some (.circSlotReady id) →
      (s.findOp id = none → exec .circSlotReady s = .next s)
      ∧ (∀ o c t cd d, s.findOp id = some o → o.kind = .copy c → s.getTeam o.team = some t → c.circ = some cd → d = readCirc t.scratch cd →
        let met (g : Option (Nat × Nat)) : Bool := g.all fun q => (readBar t.scratch q.1).completed (BitVec.ofNat 32 q.2)
        let next : Option (Nat × Nat) := if c.fill = 0 then none else some (d.filled, c.fill - 1)
        (o.awaitsSlot = false ∨ met c.gate = false → exec .circSlotReady s = .next s)
        ∧ (o.awaitsSlot = true → met c.gate = true → ∀ u : State, (c.slotFree = true ∧ u = s) ∨ (c.slotFree = false ∧ u = s.mapCopy id fun c => { c with slotFree := true, gate := next }) →
          (c.slotFree = false → met next = false → exec .circSlotReady s = .next u)
          ∧ (c.slotFree = true ∨ met next = true → ∀ due w, u.gateBanks o.team .scratch d.filled 16 = (due, w) →
            (w.g < due → exec .circSlotReady s = .next (w.once due (.circSlotReady o.id))) ∧ (due ≤ w.g → w.enginePortOpen o .scratch d.filled = false → exec .circSlotReady s = .next (w.once (w.g + 1) (.circSlotReady o.id)))
            ∧ (due ≤ w.g → w.enginePortOpen o .scratch d.filled = true →
              ∀ v, v = (w.takeEnginePort o .scratch d.filled).mapCopy o.id (fun k => { k with circReady := true, bar := some d.filled, to_ := d.space, dst := d.base + k.fill % d.nslot * d.slotBytes }) →
              exec .circSlotReady s = .next ((v.barBytes o.team d.filled false c.rowSz).pokeEngine o.seat o.core v.g))))))
    ∧ (∀ (core : Nat) (seat : Nat), s.ev = some (.copyPieceStart core seat) →
      let own := s.rotaOwner (s.g / 4) (s.g / Config.frame)
      let cands := s.pieceCands core seat
      let left := seat == 15 && own.all fun n => (s.pieceCands core n).isEmpty
      (cands = [] → exec .copyPieceStart s = .next s)
      ∧ (cands ≠ [] → s.g % 4 ≠ 0 ∨ s.spent (.copyEngine core) = true ∨ (own ≠ some seat ∧ left = false) → exec .copyPieceStart s = .next (s.pokeEngine seat core (s.g + 1)))
      ∧ (∀ x o l, s.g % 4 = 0 → s.spent (.copyEngine core) = false → own = some seat ∨ left = true → s.findSeat seat = some x →
        (cands.filter fun o => match (x.lastCopy.find? fun r => r.1 == core).map (·.2) with
          | some k => keyBefore k (s.copyKey o)
          | none => true) ++ cands = o :: l →
        ∀ c, o.kind = .copy c →
        ∀ u, u = ((s.spend (.copyEngine core)).mapSeat seat fun x => { x with lastCopy := (x.lastCopy.filter fun r => r.1 != core) ++ [(core, s.copyKey o)] }).startPiece o c →
        exec .copyPieceStart s = .next (if cands.length ≤ 1 then u else u.pokeEngine seat core (u.g + 1))))
    ∧ (∀ (id : Nat), s.ev = some (.pieceLand id) →
      (s.findOp id = none → exec .pieceLand s = .next s)
      ∧ (∀ o c, s.findOp id = some o → o.kind = .copy c → (c.inFlight = false → exec .pieceLand s = .next s)
        ∧ (c.inFlight = true → c.phase = 0 → ∀ due w, s.gateBanks o.team c.from_ c.ends.1 c.piece = (due, w) →
          (w.g < due → exec .pieceLand s = .next (w.at due (.pieceLand o.id)))
          ∧ (due ≤ w.g → w.enginePortOpen o c.from_ c.ends.1 = false ∨ w.heldOver o.team o.gid o.id c.from_ [(c.ends.1, c.piece)] = true → exec .pieceLand s = .next (w.at (w.g + 1) (.pieceLand o.id)))
          ∧ (∀ u t, due ≤ w.g → w.enginePortOpen o c.from_ c.ends.1 = true → w.heldOver o.team o.gid o.id c.from_ [(c.ends.1, c.piece)] = false →
            u = (w.takeEnginePort o c.from_ c.ends.1).settleLocal o.team o.gid o.id c.from_ [(c.ends.1, c.piece)] → u.getTeam o.team = some t →
            exec .pieceLand s = .next ((u.mapCopy o.id fun d => { d with data := Memory.bytes (t.seen c.from_ u.g) c.ends.1 c.piece, phase := 1 }).at (u.g + 12) (.pieceLand o.id))))
        ∧ (c.inFlight = true → c.phase = 1 → (∀ a n, c.next = .index a n → ∀ u,
            u = s.mapCopy o.id (fun c => { c with index := some (wordOfBytes c.data), inFlight := false, data := [], phase := 0 }) → exec .pieceLand s = .next (u.pokeEngine o.seat o.core (u.g + 1)))
          ∧ ((∀ a n, c.next ≠ .index a n) → c.to_ = .global → exec .pieceLand s = .next ((s.mapCopy o.id fun c => { c with phase := 3 }).globalPiece o c.ends.2 true))
          ∧ ((∀ a n, c.next ≠ .index a n) → c.to_ ≠ .global →
            exec .pieceLand s = .next (((s.mapOp o.id fun o => { o with from_ := s.g }).mapCopy o.id fun c => { c with phase := 2 }).at (s.g + 2) (.pieceLand o.id))))
        ∧ (c.inFlight = true → c.phase = 2 → (s.readsBefore o c.to_ c.ends.2 c.piece = true → exec .pieceLand s = .next (s.mapCopy o.id fun c => { c with heldBy := true }))
          ∧ (s.readsBefore o c.to_ c.ends.2 c.piece = false → ∀ due w, s.gateBanks o.team c.to_ c.ends.2 c.piece = (due, w) → ∀ port, port = (c.to_, enginePort o.team c.to_ c.ends.2) →
            (w.g < due → exec .pieceLand s = .next (w.at due (.pieceLand o.id)))
            ∧ (due ≤ w.g → w.enginePortOpen o c.to_ c.ends.2 = false ∨ w.creditWaits o c port = true → exec .pieceLand s = .next (w.at (w.g + 1) (.pieceLand o.id)))
            ∧ (due ≤ w.g → w.enginePortOpen o c.to_ c.ends.2 = true → w.creditWaits o c port = false →
              exec .pieceLand s = .next ((((w.takeEnginePort o c.to_ c.ends.2).anyTeam o.team (putLocal c.to_ c.ends.2 c.data)).touchBars o.team c.to_).creditPiece o c (some port)))))
        ∧ (c.inFlight = true → 3 ≤ c.phase → c.bar = none → exec .pieceLand s = .next (s.nextPiece o c c.piece))
        ∧ (∀ off, c.inFlight = true → 3 ≤ c.phase → c.bar = some off → (c.creditOf c.piece = 0 → exec .pieceLand s = .next (s.nextPiece o c c.piece))
          ∧ (c.creditOf c.piece ≠ 0 → ∀ due w, s.gateBanks o.team .scratch off 16 = (due, w) → ∀ again : State, again = w.mapCopy o.id (fun c => { c with phase := 3 }) →
            (w.g < due → exec .pieceLand s = .next (again.at due (.pieceLand o.id)))
            ∧ (due ≤ w.g → w.enginePortOpen o .scratch off = false → exec .pieceLand s = .next (again.at (w.g + 1) (.pieceLand o.id)))
            ∧ (due ≤ w.g → w.enginePortOpen o .scratch off = true →
              exec .pieceLand s = .next (((w.takeEnginePort o .scratch off).barBytes o.team off true (c.creditOf c.piece)).nextPiece o c c.piece))))))
    ∧ (∀ (id : Nat), s.ev = some (.heldPieceRelease id) →
      (s.findOp id = none → exec .heldPieceRelease s = .next s)
      ∧ (∀ o c, s.findOp id = some o → o.kind = .copy c → (c.heldBy = false → exec .heldPieceRelease s = .next s)
        ∧ (c.heldBy = true → exec .heldPieceRelease s = .next ((s.mapCopy id fun c => { c with heldBy := false }).at (max s.g (o.from_ + 2)) (.pieceLand id)))))
    ∧ (∀ (id : Nat), s.ev = some (.copyCommandComplete id) →
      (s.findOp id = none → exec .copyCommandComplete s = .next s) ∧ (∀ o, s.findOp id = some o → exec .copyCommandComplete s = .next ((s.finishOp id).wakeQueues o)))
    ∧ (∀ (id : Nat), s.ev = some (.xldsComplete id) →
      (s.findOp id = none → exec .xldsComplete s = .next s)
      ∧ (∀ o t pair ph fmt woff pitch kl nl old, s.findOp id = some o → o.kind = .matrix (.xlds pair ph fmt woff pitch kl nl old) → s.getTeam o.team = some t →
        ∃ keep : Plane → Bool, (∀ x, x.ver = id ∨ (∃ d, (some d = (s.pair o.seat t.vf o.core pair).active ∨ some d = (s.pair o.seat t.vf o.core pair).shadow) ∧ d.ver = x.ver) → keep x = true)
          ∧ exec .xldsComplete s = .next ((s.setPair { s.pair o.seat t.vf o.core pair with planes := (s.pair o.seat t.vf o.core pair).planes.filter keep }).finishMx id)))
    ∧ (∀ (id : Nat), s.ev = some (.xswpComplete id) →
      (s.findOp id = none → exec .xswpComplete s = .next s)
      ∧ (∀ o u v, s.findOp id = some o → u = ((s.finishOp id).anyGroup o.team o.gid fun g => { g with q6next := s.g + 1 }) →
        v = (((u.freeHeld o.team).mxPoke o.seat o.core).wakeQueues o) → exec .xswpComplete s = .next (v.once u.g (.rowInject o.core o.seat))))
    ∧ (∀ (core : Nat) (seat : Nat), s.ev = some (.rowInject core seat) →
      ∀ u, u = s.mxPoke seat core →
      (core ∈ u.fencedMx → exec .rowInject s = .next u)
      ∧ (core ∉ u.fencedMx → u.nextPass seat core = none → exec .rowInject s = .next u)
      ∧ (∀ p v c due at_, core ∉ u.fencedMx → u.nextPass seat core = some (p, v) → c = u.cadence seat →
        due = (match (u.lastRow.find? fun r => r.1 == (core, seat)).map (·.2) with
          | some (g, k) => if (p.rows == []) && k != p.key then max (g + c) (g + 8) else g + c
          | none => 0) →
        at_ = u.nextSlot seat core (max (max u.g due) (if p.rows == [] then p.notBefore else 0)) →
        (u.g < at_ → exec .rowInject s = .next (u.once at_ (.rowInject core seat)))
        ∧ (at_ ≤ u.g → p.quarters[p.rows.length / 8]? = none → exec .rowInject s = .next u)
        ∧ (∀ oid q, at_ ≤ u.g → p.quarters[p.rows.length / 8]? = some (oid, q) → v.findOp oid = none ∨ v.planeOf p = none → exec .rowInject s = .next u)
        ∧ (∀ oid q o pl bytes, at_ ≤ u.g → p.quarters[p.rows.length / 8]? = some (oid, q) → v.findOp oid = some o → v.planeOf p = some pl →
          bytes = [(q.aoff + p.rows.length % 8 * q.apitch, rowBytes p.key.fmt pl.kl)] →
          (u.portTaken core seat .abuf u.g = true ∨ u.heldOver o.team o.gid o.id .abuf bytes = true → exec .rowInject s = .next (u.once (u.g + 1) (.rowInject core seat)))
          ∧ (∀ w y r x z f, u.portTaken core seat .abuf u.g = false → u.heldOver o.team o.gid o.id .abuf bytes = false → w = v.settleLocal o.team o.gid o.id .abuf bytes → w.getTeam o.team = some y →
            r = { p with rows := p.rows ++ [quarterRow p.key.fmt pl.kl q (p.rows.length % 8) y], firstRow := if p.rows == [] then u.g else p.firstRow, lastRow := u.g } →
            x = { w with
              passes := if (w.passes.any fun (k : Pass) => k.id == p.id) then w.passes.map fun (k : Pass) => if k.id = p.id then r else k else w.passes ++ [r]
              lastRow := (w.lastRow.filter fun k => k.1 != (core, seat)) ++ [((core, seat), (u.g, p.key))] } →
            z = (if p.rows == [] && p.retry.isNone then
              p.quarters.foldl (fun (s : State) (q : Nat × Quarter) => s.mapOp q.1 fun o => { o with taken := o.taken + 1 }) x else x) →
            f = z.takePort core seat .abuf u.g →
            (r.rows.length ≠ r.total → exec .rowInject s = .next (f.once (f.g + c) (.rowInject core seat)))
            ∧ (∀ h, r.rows.length = r.total → h = (f.at (f.g + c + 136) (.passComplete core p.id 0)).mxPoke seat core → exec .rowInject s = .next (h.once (h.g + c) (.rowInject core seat)))))))
    ∧ (∀ (core : Nat) (id : Nat) (mm : Nat), s.ev = some (.passComplete core id mm) →
      ((∀ p ∈ s.passes, p.id ≠ id ∨ p.core ≠ core) → exec .passComplete s = .next s)
      ∧ (∀ p, s.passes.find? (fun (p : Pass) => p.id == id && p.core == core) = some p →
        ∀ gone : State → State, (∀ u, gone u = { u with passes := u.passes.filter fun (r : Pass) => r.id != id }) →
        ∀ differs, differs = (decide (mm ≠ 0) || (p.inj && p.retry.isNone)) →
        (∀ o, p.only = some o → exec .passComplete s = .next ((gone s).finishMx o))
        ∧ (p.only = none → p.rows.length ≠ p.total ∨ s.g ≠ p.lastRow + s.cadence p.seat + 136 → exec .passComplete s = .next s)
        ∧ (p.only = none → p.rows.length = p.total → s.g = p.lastRow + s.cadence p.seat + 136 →
          (p.retry = none → differs = false → exec .passComplete s = .next ((gone (s.landPass p)).once s.g (.rowInject core p.seat)))
          ∧ (∀ t0 u, p.retry = some t0 → differs = false → u = s.logEvent p.seat 5 core (s.oclk p.seat - (s.g - t0)) 0 (s.g - t0) false p.inj →
            exec .passComplete s = .next ((gone (u.landPass p)).once u.g (.rowInject core p.seat)))
          ∧ (∀ t0, p.retry = some t0 → differs = true → exec .passComplete s = .next ((s.logEvent p.seat 33 core (s.oclk p.seat) (BitVec.ofNat 64 core)).fenceMx core))
          ∧ (∀ u back, p.retry = none → differs = true →
            back = (s.passes.filter fun (r : Pass) => r.seat == p.seat && r.core == core && r.only.isNone && r.rows != [] && decide (p.firstRow < r.firstRow)) →
            u = back.foldl (fun (s : State) (r : Pass) => r.quarters.foldl (fun (s : State) (q : Nat × Quarter) => s.mapOp q.1 fun o => { o with taken := o.taken - 1 }) s) s →
            exec .passComplete s = .next (({ u with passes := (u.passes.filter fun (r : Pass) => !(back.any fun (q : Pass) => q.id == r.id)).map fun (r : Pass) =>
              if r.id = id then { r with rows := [], retry := some u.g, notBefore := u.g + 8 } else r } : State).once (u.g + 8) (.rowInject core p.seat))))))
    ∧ (∀ (id : Nat), s.ev = some (.xcfgComplete id) →
      let land (g : Nat) (f : Team → Team) (t : Team) : Team := { f t with xbufWas := some (g, t.xbufSeen g) }
      (s.findOp id = none → exec .xcfgComplete s = .next s)
      ∧ (∀ o t n k off r c p, s.findOp id = some o → o.kind = .matrix (.xcfg n k off r c p) → s.getTeam o.team = some t →
        exec .xcfgComplete s = .next ((s.anyTeam o.team (land s.g (landXcfg { id := n, kind := k, off := off, rows := r, cols := c, planes := p }))).finishMx id)))
    ∧ (∀ (id : Nat), s.ev = some (.xrelComplete id) →
      let land (g : Nat) (f : Team → Team) (t : Team) : Team := { f t with xbufWas := some (g, t.xbufSeen g) }
      (s.findOp id = none → exec .xrelComplete s = .next s)
      ∧ (∀ o t mask, s.findOp id = some o → o.kind = .matrix (.xrel mask) → s.getTeam o.team = some t → exec .xrelComplete s = .next ((s.anyTeam o.team (land s.g (landXrel mask))).finishMx id)))
    ∧ (∀ (id : Nat), s.ev = some (.xdrnComplete id) →
      let land (g : Nat) (f : Team → Team) (t : Team) : Team := { f t with xbufWas := some (g, t.xbufSeen g) }
      (s.findOp id = none → exec .xdrnComplete s = .next s)
      ∧ (∀ o t mask, s.findOp id = some o → o.kind = .matrix (.xdrn mask) → s.getTeam o.team = some t →
        (drainBad mask t = false → exec .xdrnComplete s = .next ((s.anyTeam o.team (land s.g (landXdrn mask))).finishMx id))
        ∧ (drainBad mask t = true → exec .xdrnComplete s = .next (((s.defer o .matrixLasting).anyTeam o.team (land (s.defer o .matrixLasting).g (landXdrn mask))).finishMx id))))
    ∧ (∀ (id : Nat), s.ev = some (.xscacComplete id) →
      let land (g : Nat) (f : Team → Team) (t : Team) : Team := { f t with xbufWas := some (g, t.xbufSeen g) }
      (s.findOp id = none → exec .xscacComplete s = .next s)
      ∧ (∀ o t src dst p0 n acc, s.findOp id = some o → o.kind = .matrix (.xscac src dst p0 n acc) → s.getTeam o.team = some t →
        (∀ y, o.geo.find? (fun (y : Tile) => y.id == src) = some y →
          exec .xscacComplete s = .next ((s.anyTeam o.team (land s.g fun t => if t.stands o.geo dst then landXscac y dst p0 n acc t else t)).finishMx id))
        ∧ (o.geo.find? (fun (y : Tile) => y.id == src) = none → exec .xscacComplete s = .next ((s.anyTeam o.team (land s.g fun t => t)).finishMx id))))
    ∧ (∀ (i : Nat) (core : Nat) (parity : Nat), s.ev = some (.ringPassage i core parity) →
      let last (u : State) : State := if u.ringBusy i core then u.pokeRing i core (u.g + 1) else u
      let seam (u : State) : State := if core = 0 then u.seamStep i else u
      let clean : State := { s with agenda := s.agenda.filter fun e => !(e.1 == s.g && e.2 == .ringPassage i core 0) }
      (s.g % Config.revolution ≠ passPhase i core % Config.revolution → exec .ringPassage s = .next s)
      ∧ (s.g % Config.revolution = passPhase i core % Config.revolution →
        (parity = 2 → exec .ringPassage s = .next (last (clean.fenceSlot i)))
        ∧ (parity = 1 → (∀ n, (seam clean).slotSeat i = some n →
            exec .ringPassage s = .next (last ((seam clean).logEvent n 6 core ((seam clean).oclk n) (BitVec.ofNat 64 i) Config.revolution)))
          ∧ ((seam clean).slotSeat i = none → exec .ringPassage s = .next (last (seam clean))))
        ∧ (parity = 0 → (∃ e ∈ s.agenda, e.1 = s.g ∧ (e.2 = .ringPassage i core 1 ∨ e.2 = .ringPassage i core 2)) → exec .ringPassage s = .next s)
        ∧ (parity = 0 → (∀ e ∈ s.agenda, e.1 = s.g → e.2 ≠ .ringPassage i core 1 ∧ e.2 ≠ .ringPassage i core 2) →
          ((seam s).slotSeat i).any (fun n => (seam s).isFrozen n) = true → exec .ringPassage s = .next (last (seam s)))
        ∧ (parity = 0 → (∀ e ∈ s.agenda, e.1 = s.g → e.2 ≠ .ringPassage i core 1 ∧ e.2 ≠ .ringPassage i core 2) →
          ((seam s).slotSeat i).any (fun n => (seam s).isFrozen n) = false →
          ((seam s).pendingRing i core = none → exec .ringPassage s = .next (last ((seam s).evalArms i core)))
          ∧ (∀ o j k, (seam s).pendingRing i core = some o → o.kind = .ring j k →
            (o.rel = true → (seam s).writesBefore o.team o.gid o.id = true → exec .ringPassage s = .next (last ((seam s).evalArms i core)))
            ∧ (o.rel = false ∨ (seam s).writesBefore o.team o.gid o.id = false → exec .ringPassage s = .next (last ((((seam s).applyRing o i k).wakeReleases o.team o.gid).evalArms i core)))))))
    ∧ (∀ (id : Nat), s.ev = some (.ringResultWrite id) →
      let put (o : Op) (d : Nat) (l : List W64) (u : State) : State := if d = 0 then u else
          u.anyGroup o.team o.gid fun g => l.zipIdx.foldl (fun (g : Group) p => g.landS o (d + p.2) p.1) g
      (s.findOp id = none → exec .ringResultWrite s = .next s)
        ∧ (∀ o i d, s.findOp id = some o → o.dest = .scal d →
          (∀ acq, o.kind = .ring i (.cap acq) → ∀ w : Nat → W32, (∀ n, w n = (o.payload[n]?).getD 0) →
            exec .ringResultWrite s = .next ((put o d [pair64 (w 1) (w 0), pair64 (w 3) (w 2), pair64 (w 5) (w 4), pair64 (w 7) (w 6), o.header] s).finishOp id))
          ∧ (o.kind = .ring i .alight → (o.landed = 1 → exec .ringResultWrite s = .next ((put o d [o.status] s).finishOp id))
            ∧ (o.landed ≠ 1 → exec .ringResultWrite s = .next (((put o d [o.status] s).mapOp id fun o => { o with begun := true }).anyGroup o.team o.gid fun g =>
              { g with board := { g.board with busy := g.board.busy.filter fun b => b.2 != id } })))
          ∧ (∀ p w v nv, o.kind = .ring i (.mod p w v nv) → exec .ringResultWrite s = .next ((put o d [o.status] s).finishOp id))
          ∧ (∀ h p w, o.kind = .ring i (.board h p w) → exec .ringResultWrite s = .next ((put o d [o.status] s).finishOp id))
          ∧ (o.kind = .ring i .probe → exec .ringResultWrite s = .next ((put o d [o.status] s).finishOp id))))
    ∧ (∀ (i : Nat), s.ev = some (.alightWritePerformed i) →
      ((s.slot i).writing = none → exec .alightWritePerformed s = .next s)
      ∧ (∀ id team gid seat, (s.slot i).writing = some (id, team, gid) → seat = ((s.findOp id).map fun (o : Op) => o.seat).getD 0 →
        (s.homeWaits seat i ≠ [] →
          exec .alightWritePerformed s = .next ((s.homeWaits seat i).foldl (fun (s : State) (w : Charged) => if w.event = 1 then s.waitDone seat w.id s.g else s) s))
        ∧ (s.homeWaits seat i = [] → ∀ u,
          u = ((((s.setSlot i (if (s.slot i).state = 2 then { board := (s.slot i).board } else { s.slot i with writing := none })).mapOp id fun o => { o with landed := 1 }).anyGroup team gid
            fun g => { g with counts := g.counts.map .stores (· - 1) }).mapOp id fun o => { o with count := .none }) →
          ∀ v, (u.findOp id = none ∧ v = u) ∨ (∃ o, u.findOp id = some o ∧ v = if o.begun then u.finishOp id else u) →
          exec .alightWritePerformed s = .next (((v.wakeReleases team gid).releaseHeld team gid).now (.waitcResume team gid)))))

/-- Each event answers a next state. A bank whose wake is due takes its state, and the deliveries of a team that are due land. Waiting eacq words are looked at (one waiter of one mode: it is granted 8 banks if they are free, or goes on with those its group has). Waiters whose phase is complete resume, but for a portable team; a waitc is looked at on its counts, which it leaves as they are. At the head of its queue a unit is carved when each of its teams is at a head, no team of those cores began to carve in this cycle, and all fit; else victims are looked for. A unit carved for its time is released. With a head that does not fit, the expired team whose residency began earliest drains. A draining unit saves when every team of it is done and its wakes have ended. A saved team is parked or queued, its banks returned; a parked unit leaves when each team may and no PREEMPT holds it. A group ends when its operations are complete; a team when all its groups have returned, a stopped one when its operations are complete, a discarded one restarts. A regroup point completes when every live group has arrived and every write to its range has landed, and gives the first groups their lanes. A message starts a one-group team of its handler, or none without a legal descriptor. A commit waits, restarts what differs, asks for a page it needs, or applies. The end of a grid frees its record, writes its completion where asked, and lets queues and waiting launches be looked at. (R41, R50, R51, R52, R57, R67, R68, R91, R258, R278, R279, R397) -/
def Obligations.TeamEventsAct : Prop :=
  ∀ s : State,
    (∀ (team : Nat) (gid : Option Nat) (b : Nat), s.ev = some (.bankWakeEnd team gid b) →
      (∀ n, gid = some n → ((s.findGroup team n).bind (fun (g : Group) => g.waking b) = none → exec .bankWakeEnd s = .next s)
        ∧ (∀ w, (s.findGroup team n).bind (fun (g : Group) => g.waking b) = some w → (w.due ≠ s.g → exec .bankWakeEnd s = .next s)
          ∧ (w.due = s.g → exec .bankWakeEnd s = .next (s.mapGroup team n fun (g : Group) =>
            { g with banks := SMap.set .absent g.banks b (w.later.getD w.target), wakes := g.wakes.filter fun v => v.bank != b }))))
      ∧ (gid = none → ∀ due, due = (s.arms.filter fun (a : Arm) => a.team == team && a.due.any fun c => decide (c ≤ s.g)) →
        let land (t : State) : State := due.foldl (fun (t : State) a => t.deliverArm a) t
        ((s.findTeam team).bind (fun (t : Team) => t.swaking b) = none → exec .bankWakeEnd s = .next (land s))
        ∧ (∀ w, (s.findTeam team).bind (fun (t : Team) => t.swaking b) = some w → (w.due ≠ s.g → exec .bankWakeEnd s = .next (land s))
          ∧ (w.due = s.g → exec .bankWakeEnd s = .next (land (s.mapTeam team fun (t : Team) =>
            { t with sbanks := SMap.set .full t.sbanks b (w.later.getD w.target), swakes := t.swakes.filter fun v => v.bank != b }))))
        ∧ (due = [] → ∀ t, land t = t)))
    ∧ (∀ (core : Nat) (seat : Nat), s.ev = some (.eacqGrant core seat) →
      let free (g : Group) : Group := g.onSplits fun p => match p.block with
          | .eacq _ => p.resume s.g
          | _ => p
      exec .eacqGrant s = .next (s.grantWaiters seat core fun t => !t.portable)
      ∧ ((∀ d, s.eacqWaiters seat core d = []) → exec .eacqGrant s = .next s)
      ∧ (∀ since r gid team t g, s.eacqWaiters seat core false = [(since, r, gid, team)] → s.eacqWaiters seat core true = [] →
        s.findTeam team = some t → s.findGroup team gid = some g →
        (t.portable = true → exec .eacqGrant s = .next s)
        ∧ (t.portable = false → g.hasExt = false → s.takeBanks seat core false 8 = none → exec .eacqGrant s = .next s)
        ∧ (∀ m u, t.portable = false → g.hasExt = false → s.takeBanks seat core false 8 = some m →
          u = s.mapGroup team gid (fun g => free (g.takeExt m)) → u.eacqWaiters seat core true = [] → exec .eacqGrant s = .next u)
        ∧ (∀ u, t.portable = false → g.hasExt = true → u = s.mapGroup team gid free → u.eacqWaiters seat core true = [] → exec .eacqGrant s = .next u)))
    ∧ (∀ (team : Nat), s.ev = some (.waitResume team) →
      exec .waitResume s = .next (s.mapTeam team fun (t : Team) => if t.portable then t else { t with groups := t.groups.map fun (g : Group) => g.onSplits fun p =>
          match p.block with
          | .barWait off ph _ => if (readBar t.scratch off).completed ph then p.resume s.g else p
          | _ => p }))
    ∧ (∀ (team : Nat) (gid : Nat), s.ev = some (.waitcResume team gid) →
      ((s.findTeam team).any Team.portable = true → exec .waitcResume s = .next s)
      ∧ ((s.findTeam team).any Team.portable = false → exec .waitcResume s = .next (s.mapGroup team gid fun g => g.resumeCounts s.g))
      ∧ (∀ (g : Group) (c : Nat), (g.resumeCounts c).counts = g.counts))
    ∧ (∀ (core : Nat) (seat : Nat), s.ev = some (.teamCarving core seat) →
      (s.findSeat seat = none ∨ s.pendingHead seat core = none → exec .teamCarving s = .next s)
      ∧ (∀ x t, s.findSeat seat = some x → s.pendingHead seat core = some t →
        ∀ busy : Team → Bool, (∀ u, busy u = (s.teamsOn seat u.core).any fun (v : Team) => v.state == .carving && v.since == s.g) →
        ∀ heads, heads = ((s.unitOf t).all fun (u : Team) => (s.pendingHead seat u.core).any fun (h : Team) => h.id == u.id) →
        (x.running = false → exec .teamCarving s = .next s)
        ∧ (x.running = true → (s.unitOf t).any busy = true → exec .teamCarving s = .next (s.pokeCarve seat core (s.g + 1)))
        ∧ (x.running = true → (s.unitOf t).any busy = false → heads = false →
          exec .teamCarving s = .next (([t].filter fun u => (s.tryCarve u).isNone).foldl (fun (s : State) (u : Team) => s.pokeVictim u.seat u.core) s))
        ∧ (x.running = true → (s.unitOf t).any busy = false → heads = true →
          (∀ v, s.tryCarveAll (s.unitOf t) = some v →
            exec .teamCarving s = .next ((s.unitOf t).foldl (fun (s : State) (u : Team) => if (s.pendingHead seat u.core).isSome then s.pokeCarve seat u.core (s.g + 1) else s) v))
          ∧ (s.tryCarveAll (s.unitOf t) = none →
            exec .teamCarving s = .next (((s.unitOf t).filter fun u => (s.tryCarve u).isNone).foldl (fun (s : State) (u : Team) => s.pokeVictim u.seat u.core) s)))))
    ∧ (∀ (id : Nat), s.ev = some (.teamRelease id) →
      (s.findTeam id = none → exec .teamRelease s = .next s)
      ∧ (∀ t, s.findTeam id = some t → (t.state ≠ .carving ∨ s.runs t = false → exec .teamRelease s = .next s)
        ∧ (∀ us n, t.state = .carving → s.runs t = true → us = (if t.everResident then s.unitOf t else s.teams.filter t.together) →
          n = (if t.everResident then Config.saveCycles else Config.carveCycles) →
          ((∃ u ∈ us, u.state ≠ .carving ∨ s.g < u.since + n) → exec .teamRelease s = .next s)
          ∧ ((∀ u ∈ us, u.state = .carving ∧ u.since + n ≤ s.g) → exec .teamRelease s = .next (us.foldl (fun (s : State) u => s.release u) s)))))
    ∧ (∀ (core : Nat) (seat : Nat), s.ev = some (.victimChoice core seat) →
      (s.pendingHead seat core = none → exec .victimChoice s = .next s)
      ∧ (∀ h, s.pendingHead seat core = some h → ((s.tryCarve h).isSome = true → exec .victimChoice s = .next (s.pokeCarve seat core s.g))
        ∧ (∀ l, (s.tryCarve h).isSome = false → l = sortBy (fun (a b : Team) => decide (a.since < b.since ∨ (a.since = b.since ∧ a.index < b.index)))
            ((s.mayVictim seat core).filter fun (t : Team) => decide (t.since + Config.quantum ≤ s.oclk seat)) →
          (l = [] → exec .victimChoice s = .next (s.pokeVictim seat core))
          ∧ (∀ t, l = [t] → exec .victimChoice s = .next (s.drain t.id false))
          ∧ (∀ t r k u, l = t :: r :: k → u = s.drain t.id false → exec .victimChoice s = .next (u.once (u.g + 1) (.victimChoice core seat))))))
    ∧ (∀ (id : Nat), s.ev = some (.drainComplete id) →
      (s.findTeam id = none → exec .drainComplete s = .next s)
      ∧ (∀ t, s.findTeam id = some t → (t.halting.isSome || t.discard = true → exec .drainComplete s = .next (s.tryEnd id))
        ∧ (t.halting = none → t.discard = false → t.state ≠ .draining → exec .drainComplete s = .next s)
        ∧ (∀ us e, t.halting = none → t.discard = false → t.state = .draining → us = s.unitOf t → e = us.foldl (fun n (u : Team) => max n u.wakeEnd) 0 →
          ((∃ u ∈ us, u.state ≠ .draining ∨ s.busyOps u.id ≠ [] ∨ u.committed = false) → exec .drainComplete s = .next s)
          ∧ ((∀ u ∈ us, u.state = .draining ∧ s.busyOps u.id = [] ∧ u.committed = true) →
            (s.g < e → exec .drainComplete s = .next (s.once e (.drainComplete t.id))) ∧ (e ≤ s.g → exec .drainComplete s = .next (us.foldl (fun (s : State) u => s.beginSave u) s))))))
    ∧ (∀ (id : Nat), s.ev = some (.saveComplete id) →
      (s.findTeam id = none → exec .saveComplete s = .next s)
      ∧ (∀ t, s.findTeam id = some t → (t.state ≠ .saving → exec .saveComplete s = .next s)
        ∧ (∀ u, t.state = .saving → u = s.mapTeam id (fun (t : Team) => { t with groups := t.groups.map fun (g : Group) => { g with baseHeld := [], extHeld := [] } }) →
          (t.parkAfter = true → exec .saveComplete s = .next (((u.mapTeam id fun (t : Team) => { t with state := .parked, parkAfter := false }).now (.parkWake id)).pokeShare t.seat t.core))
          ∧ (t.parkAfter = false → exec .saveComplete s = .next ((u.enqueue id).pokeShare t.seat t.core)))))
    ∧ (∀ (id : Nat), s.ev = some (.parkWake id) →
      (s.findTeam id = none → exec .parkWake s = .next s)
      ∧ (∀ t, s.findTeam id = some t → (t.state = .resident → t.parkAfter = true → exec .parkWake s = .next (s.drain id true))
        ∧ (t.state = .resident → t.parkAfter = false → t.discard = true → exec .parkWake s = .next (s.now (.teamEnd id)))
        ∧ (t.state = .resident → t.parkAfter = false → t.discard = false → exec .parkWake s = .next s)
        ∧ (t.state = .parked → s.heldBack t = true ∨ (∃ u ∈ s.unitOf t, u.state ≠ .parked ∨ s.parkDone u = false) → exec .parkWake s = .next s)
        ∧ (t.state = .parked → s.heldBack t = false → (∀ u ∈ s.unitOf t, u.state = .parked ∧ s.parkDone u = true) →
          exec .parkWake s = .next ((s.unitOf t).foldl (fun (s : State) (u : Team) => s.enqueue u.id) s))
        ∧ (t.state ≠ .resident → t.state ≠ .parked → exec .parkWake s = .next s)))
    ∧ (∀ (id : Nat) (gid : Nat), s.ev = some (.groupEnd id gid) →
      (s.findTeam id = none → exec .groupEnd s = .next s)
      ∧ (∀ t, s.findTeam id = some t → (t.findGroup gid = none → exec .groupEnd s = .next s)
        ∧ (∀ g, t.findGroup gid = some g → (g.ended = false ∨ g.returned = true ∨ (∃ o ∈ s.ops, o.team = id ∧ o.gid = gid) → exec .groupEnd s = .next s)
          ∧ (g.ended = true → g.returned = false → (∀ o ∈ s.ops, o.team ≠ id ∨ o.gid ≠ gid) →
            exec .groupEnd s = .next (((s.mapGroup id gid fun g => { g with returned := true, baseHeld := [], extHeld := [], hasExt := false }).pokeShare t.seat t.core).now (.teamEnd id))))))
    ∧ (∀ (id : Nat), s.ev = some (.teamEnd id) →
      (s.findTeam id = none → exec .teamEnd s = .next s)
      ∧ (∀ t, s.findTeam id = some t → (t.discard = true → t.state = .carving → exec .teamEnd s = .next s)
        ∧ (t.discard = false → t.halting = none →
          ((∀ u ∈ s.unitOf t, u.twin = none ∧ u.groups ≠ [] ∧ ∀ g ∈ u.groups, g.returned = true) → t.portable = false →
            exec .teamEnd s = .next ((s.unitOf t).foldl (fun (s : State) u => s.endTeam u) s))
          ∧ (t.portable = true ∨ (∃ u ∈ s.unitOf t, u.twin ≠ none ∨ u.groups = [] ∨ ∃ g ∈ u.groups, g.returned = false) → exec .teamEnd s = .next s))
        ∧ (∀ u us, t.discard = true → t.state ≠ .carving → t.halting = none → u = s.dropLog id false → us = u.unitOf t →
          ((∃ o ∈ u.ops, o.team = id) ∨ (∃ v ∈ us, v.discard = false ∨ ∃ o ∈ u.ops, o.team = v.id) → exec .teamEnd s = .next u)
          ∧ ((∀ o ∈ u.ops, o.team ≠ id) → (∀ v ∈ us, v.discard = true ∧ ∀ o ∈ u.ops, o.team ≠ v.id) →
            exec .teamEnd s = .next (us.foldl (fun (s : State) v => (((s.withdrawArms v.id).mapTeam v.id Team.restart).enqueue v.id).pokeShare v.seat v.core) u)))
        ∧ (∀ u, t.discard = false ∨ t.state ≠ .carving → t.halting.isSome = true → u = s.dropLog id true →
          (t.portable = true → exec .teamEnd s = .next (u.pokeCommit t.grid))
          ∧ (t.portable = false → (∃ o ∈ u.ops, o.team = id) → exec .teamEnd s = .next u)
          ∧ (t.portable = false → (∀ o ∈ u.ops, o.team ≠ id) → exec .teamEnd s = .next (u.endTeam t)))))
    ∧ (∀ (id : Nat), s.ev = some (.regroupComplete id) →
      (s.findTeam id = none → exec .regroupComplete s = .next s)
      ∧ (∀ t, s.findTeam id = some t → (t.regroup = none → exec .regroupComplete s = .next s)
        ∧ (∀ r live, t.regroup = some r → live = (t.groups.filter fun (g : Group) => !g.ended) →
          (live = [] → exec .regroupComplete s = .next (s.mapTeam id fun (t : Team) => { t with regroup := none }))
          ∧ (live ≠ [] → live.all Group.atPoint = false ∨ (t.state ≠ .resident ∧ t.state ≠ .draining) → exec .regroupComplete s = .next s)
          ∧ (live ≠ [] → live.all Group.atPoint = true → t.state = .resident ∨ t.state = .draining →
            (live.any (fun (g : Group) => (g.writesEnd r.first r.count).isNone) = true → exec .regroupComplete s = .next s)
            ∧ (∀ c, live.any (fun (g : Group) => (g.writesEnd r.first r.count).isNone) = false →
              c = live.foldl (fun n (g : Group) => max n ((g.writesEnd r.first r.count).getD 0)) 0 →
              (s.g < c → exec .regroupComplete s = .next (s.once c (.regroupComplete id)))
              ∧ (∀ keep u, c ≤ s.g → keep = ((movers live).length + 31) / 32 →
                u = (live.take keep).foldl (fun (s : State) (g : Group) => s.wakeRange id g r) s →
                exec .regroupComplete s = .next ((live.drop keep).foldl (fun (s : State) (g : Group) => s.at (s.g + 1) (.groupEnd id g.gid))
                  (u.mapTeam id fun (t : Team) => { t with
                    regroup := none
                    groups := t.groups.map fun (g : Group) => if g.ended then g
                      else if live.findIdx (fun (h : Group) => h.gid == g.gid) < keep
                        then g.regrouped r (((movers live).drop (32 * live.findIdx (fun (h : Group) => h.gid == g.gid))).take 32) u.g
                        else g.emptied }))))))))
    ∧ (∀ (id : Nat), s.ev = some (.amsgAccept id) →
      ∀ u, u = { s with reqs := s.reqs.filter fun (r : Req) => !(r.kind == ReqKind.message && r.owner == id) } →
      (u.findOp id = none → exec .amsgAccept s = .next u)
      ∧ (∀ o t core k a b c v, u.findOp id = some o → o.kind = .amsg core k a b c → u.getTeam o.team = some t → v = u.finishOp id →
        (kernelIn (u.bytesNow t (u.handlerAddr o.seat k) Config.kernelBytes) = none → exec .amsgAccept s = .next v)
        ∧ (∀ kn, kernelIn (u.bytesNow t (u.handlerAddr o.seat k) Config.kernelBytes) = some kn →
          exec .amsgAccept s = .next (v.fresh.2.addTeam {
            grid := v.fresh.1, seat := o.seat, core := core, vf := t.vf, gridNumber := t.gridNumber, region := t.region, kernel := { kn with roles := (kn.roles.take 1).map fun (r : Role) => { r with groups := 1 } },
            nscratch := kn.scratch, nabuf := kn.abuf, nwbuf := kn.wbuf, nxbuf := kn.xbuf, message := some (a, b, c),
            mode := { t.mode with port := false, twin := false } }))))
    ∧ (∀ (grid : Nat) (m : List (Nat × Nat)), s.ev = some (.quantumCommit grid m) →
      ∀ ts, ts = s.gridTeams grid → ∀ bad, bad = (ts.filter fun (t : Team) => s.differs m t && t.halting.isNone) →
      ∀ ids, ids = ((commitOrder ts).flatMap fun q => q.2.effects) →
      (s.mayCommit ts = false → exec .quantumCommit s = .next s)
      ∧ (s.mayCommit ts = true → bad ≠ [] → exec .quantumCommit s = .next (bad.foldl (fun (s : State) t => s.mismatch t) s))
      ∧ (s.mayCommit ts = true → bad = [] → (∀ n l t, takeAllParams ids s = (t, n :: l) → exec .quantumCommit s = .next (s.askPage n))
        ∧ (∀ u n l t, takeAllParams ids s = (u, []) → ids.foldl commitOp (u, []) = (t, n :: l) → exec .quantumCommit s = .next (s.askPage n))
        ∧ (∀ u t, takeAllParams ids s = (u, []) → ids.foldl commitOp (u, []) = (t, []) → exec .quantumCommit s = .next (s.applyQuantum ts))))
    ∧ (∀ (id : Nat), s.ev = some (.gridEnd id) →
      let then_ (u : State) : State := (u.pokeQueues).pokeWaiting
      ((∀ g ∈ s.grids, g.id ≠ id) → exec .gridEnd s = .next (then_ s))
      ∧ (∀ x, s.grids.find? (fun (g : Grid) => g.id == id) = some x → (x.teamsLeft ≠ 0 ∨ x.placed = false → exec .gridEnd s = .next (then_ s))
        ∧ (∀ u vf q cq h v, x.teamsLeft = 0 → x.placed = true → u = s.dropGrid id → x.launcher = .host vf q cq h →
          v = (if cq then u.complete x.region q 0 (BitVec.ofNat 64 x.tag) else u) →
          exec .gridEnd s = .next (then_ ((v.mapQueue vf q fun (k : Queue) => { k with live := k.live.filter fun i => i != id }).pokeQueues)))
        ∧ (x.teamsLeft = 0 → x.placed = true → x.launcher = .message → exec .gridEnd s = .next (then_ (s.dropGrid id)))
        ∧ (∀ u team n v, x.teamsLeft = 0 → x.placed = true → u = s.dropGrid id → x.launcher = .device team n →
          (u.findTeam team = none ∧ v = u) ∨ (∃ t, u.findTeam team = some t ∧ v = if t.mode.port then u.pokeCommit t.grid else u) →
          exec .gridEnd s = .next (then_ v))))

/-- Each event answers a next state. Bring-up goes Reset, Boot, SelfTest, then Ready, or Safe with the step and unit that failed. A frame boundary looks at stopped seats, evictions, yields and the waits of queues. A seating at its frame empties the slots and pairs of the seat, seats the first function with clock 0 and delivers what was prepared. At the beginning and at the end of a lease both parties are placed again; while it runs their maps differ by the lent entries, and after it they have their own. At a quantum end that is due, or a yield, the next function is chosen from the new table if there is one and switches in 131,072 cycles on; a stopped seat waits for a boundary. A switch puts the outgoing function away and brings the incoming one back, with its clock 131,072 on from where it stopped and event 4 logged, or 0 the first time. An eviction with FORCE ends the teams and empties the slots aboard; the idle seat leaves and no seat has its number. Balancing moves teams of a queue to neighbours by the sampled depths. A PREEMPT logs, deals with each resident or carving team of the region and answers the counts and whether the deadline can be met. (R11, R19, R24, R325, R374, R375, R377, R378, R379, R390, R393, R416) -/
def Obligations.SeatEventsAct : Prop :=
  ∀ s : State,
    (∀ (step : Nat) (unit : Nat), s.ev = some (.resetRelease step unit) →
      let safe : State := { s with host := { s.host with dstate := 4, failCode := step, failUnit := if step = 1 then 0 else unit % 256 } }
      let on (n : Nat) : State := { s with draws := s.draws + 1, host := { s.host with dstate := n } }.at (s.g + 1 + Config.firmwareDelay s.draws) (.resetRelease step unit)
      (s.host.dstate = 0 → exec .resetRelease s = .next (on 1))
      ∧ (s.host.dstate = 1 → (step = 1 → exec .resetRelease s = .next safe) ∧ (step ≠ 1 → exec .resetRelease s = .next (on 2)))
      ∧ (s.host.dstate = 2 → (1 ≤ step → step ≤ 6 → exec .resetRelease s = .next safe) ∧ (step = 0 ∨ 6 < step → exec .resetRelease s = .next { s with host := { s.host with dstate := 3 }, asBase := Config.spaceBase }))
      ∧ (3 ≤ s.host.dstate → exec .resetRelease s = .next s))
    ∧ (s.ev = some (.frameBoundary) →
      (s.g % Config.frame ≠ 0 → exec .frameBoundary s = .next s)
      ∧ (s.g % Config.frame = 0 → ∀ u, u = s.seats.foldl (fun (s : State) (x : Seat) =>
          let s := if x.mayResume s.g then s.once s.g (.freezeResume x.num) else s
          let s := if x.evict.isSome then s.once s.g (.seatEviction x.num) else s
          if x.yield_ then s.once s.g (.quantumEnd x.num) else s) s →
        exec .frameBoundary s = .next ((u.queues.filter fun (q : Queue) => q.wait.isSome).foldl (fun (s : State) (q : Queue) => s.once s.g (.waitReread q.vf q.q)) u))
      ∧ (s.g % Config.frame = 0 → s.seats = [] → (∀ q ∈ s.queues, q.wait = none) → exec .frameBoundary s = .next s))
    ∧ (∀ (n : Nat), s.ev = some (.seating n) →
      (s.findSeat n = none → exec .seating s = .next s)
      ∧ (∀ x, s.findSeat n = some x → (x.seated = true ∨ s.g ≠ x.pl.frame * Config.frame ∨ x.qtab = [] → exec .seating s = .next s)
        ∧ (∀ e l u v, x.seated = false → s.g = x.pl.frame * Config.frame → x.qtab = e :: l →
          u = { s with
            slots := s.slots.filter fun p => !(x.ownsSlot p.1) || p.2.state == 3
            pairs := s.pairs.filter fun (p : PlanePair) => p.seat != n } →
          v = (u.seatFunction n e.vf 0).scheduleAll →
          ∀ gs, gs = ((u.seatFunction n e.vf 0).grids.filter fun (g : Grid) => g.seat == n && g.ready && !g.placed && decide (g.prepared < (u.seatFunction n e.vf 0).g)) →
          exec .seating s = .next (gs.foldl (fun (s : State) (g : Grid) => s.once s.g (.launchDelivery g.id)) v))))
    ∧ (∀ (n : Nat), s.ev = some (.leaseBegin n) →
      (s.findSeat n = none → exec .leaseBegin s = .next s)
      ∧ (∀ x, s.findSeat n = some x → exec .leaseBegin s = .next ((s.seats.filter fun (y : Seat) => y.num == n || y.num == x.lease.peer).foldl (fun (t : State) (y : Seat) =>
          y.coreList.foldl (fun (t : State) c => (t.pokeEngine y.num c t.g).once t.g (.rowInject c y.num)) t) s.scheduleAll))
      ∧ (∀ (x : Seat) (f : Nat), x.lease.v = true → x.lease.first ≤ f → f < x.lease.first + x.lease.count →
        x.rotaMap f = if x.lease.lend then x.pl.dmap &&& ~~~x.lease.lmap else x.pl.dmap ||| x.lease.lmap))
    ∧ (∀ (n : Nat), s.ev = some (.leaseEnd n) →
      (s.findSeat n = none → exec .leaseEnd s = .next s)
      ∧ (∀ x, s.findSeat n = some x → (x.lease.v = false ∨ s.g / Config.frame < x.lease.first + x.lease.count → exec .leaseEnd s = .next s)
        ∧ (x.lease.v = true → x.lease.first + x.lease.count ≤ s.g / Config.frame →
          ∀ u, u = (s.mapSeat n fun x => { x with lease := {} }).mapSeat x.lease.peer (fun x => { x with lease := {} }) →
          exec .leaseEnd s = .next ((u.seats.filter fun (y : Seat) => y.num == n || y.num == x.lease.peer).foldl (fun (t : State) (y : Seat) =>
          y.coreList.foldl (fun (t : State) c => (t.pokeEngine y.num c t.g).once t.g (.rowInject c y.num)) t) u.scheduleAll)))
      ∧ (∀ (x : Seat) (f : Nat), x.lease.v = false ∨ x.lease.first + x.lease.count ≤ f → x.rotaMap f = x.pl.dmap))
    ∧ (∀ (n : Nat), s.ev = some (.quantumEnd n) →
      (s.findSeat n = none → exec .quantumEnd s = .next s)
      ∧ (∀ x, s.findSeat n = some x → (x.seated = false ∨ x.switching = true ∨ x.qtab.length < 2 → exec .quantumEnd s = .next s)
        ∧ (x.seated = true → x.switching = false → 2 ≤ x.qtab.length → (x.frozen ≠ none → exec .quantumEnd s = .next (s.once (nextFrame (s.g + 1)) (.quantumEnd n)))
          ∧ (∀ q, x.frozen = none → q = ((x.qtab.find? fun (e : QuantumEntry) => e.vf == x.vf).map (·.quantum)).getD 0 →
            (x.yield_ = false → x.oclk s.g < x.seatedAt + q → exec .quantumEnd s = .next (s.once (s.g + (x.seatedAt + q - x.oclk s.g)) (.quantumEnd n)))
            ∧ (x.yield_ = true ∨ x.seatedAt + q ≤ x.oclk s.g →
              exec .quantumEnd s = .next ((s.mapSeat n fun y => { y with
                  switching := true, yield_ := false, qtab := x.nextQtab.getD x.qtab, nextQtab := none, nextVf := s.nextFunction y (x.nextQtab.getD x.qtab)
                  fns := y.fns.map fun (f : FnRec) => if f.vf = y.vf then { f with oclk := some (x.oclk s.g) } else f }).at
                (s.g + Config.chargeAbsence) (.switchComplete n)))))))
    ∧ (∀ (n : Nat), s.ev = some (.switchComplete n) →
      (s.findSeat n = none → exec .switchComplete s = .next s)
      ∧ (∀ x, s.findSeat n = some x → (x.switching = false → exec .switchComplete s = .next s)
        ∧ (∀ u fn, x.switching = true → u = (s.putAway x).bringBack n x.nextVf → fn = x.fns.find? (fun (f : FnRec) => f.vf == x.nextVf) →
          (fn.bind (·.oclk) = none → exec .switchComplete s = .next (u.seatFunction n x.nextVf 0))
          ∧ (∀ f v, fn = some f → f.oclk = some v →
            exec .switchComplete s = .next (((f.slots.map (·.1)).foldl (fun (s : State) i => s.retryHome x.nextVf i) (u.seatFunction n x.nextVf (v + Config.chargeAbsence))).logEvent n 4
              ((x.coreList.head?).getD 0) v 0 Config.chargeAbsence)))))
    ∧ (∀ (n : Nat), s.ev = some (.seatEviction n) →
      (s.findSeat n = none → exec .seatEviction s = .next s)
      ∧ (∀ x, s.findSeat n = some x → (x.evict = none → exec .seatEviction s = .next s)
        ∧ (x.evict = some false → (s.seatIdle x = false → exec .seatEviction s = .next s) ∧ (s.seatIdle x = true → exec .seatEviction s = .next (s.dropSeat x)))
        ∧ (∀ u v w, x.evict = some true →
          u = (s.teams.filter fun (t : Team) => t.seat == n).foldl (fun (s : State) (t : Team) => s.haltTeam t.id 0xFFFE (0xFFFE#64)) s →
          v = { u with slots := u.slots.filter fun p => !(x.ownsSlot p.1 && p.2.state == 1) } →
          w = v.mapSeat n (fun (x : Seat) => { x with fns := x.fns.map fun (f : FnRec) => { f with slots := f.slots.filter fun p => p.2.state != 1 } }) →
          (w.findSeat n = none → exec .seatEviction s = .next w)
          ∧ (∀ y, w.findSeat n = some y → (w.seatIdle y = false → exec .seatEviction s = .next w) ∧ (w.seatIdle y = true → exec .seatEviction s = .next (w.dropSeat y)))))
      ∧ (∀ x : Seat, s.findSeat n = some x → ∀ y ∈ (s.dropSeat x).seats, y.num ≠ n))
    ∧ (∀ (n : Nat), s.ev = some (.loadBalance n) →
      (s.findSeat n = none → exec .loadBalance s = .next s)
      ∧ (∀ x, s.findSeat n = some x → (x.running = false ∨ x.oclk s.g % 4096 ≠ 0 → exec .loadBalance s = .next s)
        ∧ (x.running = true → x.oclk s.g % 4096 = 0 → x.sample = none →
          exec .loadBalance s = .next ((s.mapSeat n fun (x : Seat) => { x with sample := some (x.coreList.map fun c =>
            { core := c, depth := (s.unstarted n c).length, teams := ((s.unstarted n c).filter fun (t : Team) => !t.mode.port).map fun (t : Team) => t.id }) }).once s.g (.loadBalance n)))
        ∧ (∀ u l depth, x.running = true → x.oclk s.g % 4096 = 0 → x.sample = some l → u = (s.mapSeat n fun (x : Seat) => { x with sample := none }).once (s.g + 4096) (.loadBalance n) →
          depth = (fun (c : Nat) => ((l.find? fun (p : CoreSample) => p.core == c).map fun (p : CoreSample) => p.depth).getD 0) →
          exec .loadBalance s = .next ((l.flatMap fun (p : CoreSample) => movesFrom depth p.depth ((l.map fun (q : CoreSample) => q.core).filter fun c => neighbours p.core c)
              (p.teams.filter fun id => (u.unstarted n p.core).any fun (t : Team) => t.id == id)).foldl (fun (s : State) m => s.moveTeam n m) u))))
    ∧ (∀ (rcb : Nat) (dl : W64), s.ev = some (.preemptDelivery rcb dl) →
      (∀ x, s.seatOfVf (s.rec64 rcb 285 280) = some x → x.running = false → exec .preemptDelivery s = .next (s.at (nextFrame (s.g + 1)) (.preemptDelivery rcb dl)))
      ∧ ((∀ x, s.seatOfVf (s.rec64 rcb 285 280) = some x → x.running = true) → ∀ u v l limit, limit = dl.toNat → u = { s with preempted := insertNat rcb s.preempted } →
        (u.seatOfVf (u.rec64 rcb 285 280) = none ∧ v = u)
          ∨ (∃ x w, u.seatOfVf (u.rec64 rcb 285 280) = some x ∧ w = u.logEvent x.num 2 ((x.coreList.head?).getD 0) (u.oclk x.num) (BitVec.ofNat 64 rcb)
            ∧ v = x.coreList.foldl (fun (s : State) c => s.pokeCarve x.num c s.g) w) →
        ∀ hit : Team → Bool, hit = (fun (t : Team) => t.region.chain.contains rcb && (t.state == .resident || t.state == .carving)) →
        l = ((v.teams.filter fun (t : Team) => hit t && t.twin.isNone).map fun (t : Team) => (t, v.unitDealt t limit)) →
        ∃ ok : Bool, exec .preemptDelivery s = .next ((l.foldl (fun (s : State) p =>
            (s.teams.filter fun (u : Team) => u.id == p.1.id || (hit u && u.twin == some p.1.id)).foldl (fun (s : State) u => s.deal u p.2) s) v).answer
              [0, BitVec.ofNat 64 (l.filter fun p => p.2 == Dealt.drain).length,
            BitVec.ofNat 64 (l.filter fun p => p.2 == Dealt.discard).length, BitVec.ofNat 64 (l.filter fun p => p.2 == Dealt.save).length, BitVec.ofNat 64 (bit ok)])
          ∧ (ok = true ↔ ∀ p ∈ l, (p.2 = .drain → ∃ r, p.1.remaining = some r ∧ 4 * r ≤ limit) ∧ (p.2 ≠ .drain → 12288 ≤ limit))))

/-- A doorbell write looks at the held completions of the function, is dropped for no queue, and else writes TAIL: a Halted queue and TAIL equal to HEAD start nothing, else the queue runs, or halts with 10 when TAIL is more than 2^LOGSZ ahead of HEAD. A door count write adds to the count, and each wait of the function it reaches is answered in this cycle. NOP completes its command. LAUNCH: 9 without a sound region or for twins on one core, 13 for a misaligned or reserved field, an extent out of range or a descriptor that breaks R168, waits for pages of the descriptor and parameters (the host's for an ATS page, 13 when unresolvable), 7 for an isolated kernel on seat 15, 6 for fewer cores than a cluster, the status of the extents, 12 for an extent whose page cannot be had; else the grid is prepared, to be delivered at the first frame boundary strictly after. Every refusal writes a completion and the queue goes on. A delivery at a frame boundary logs event 2 and places the grid with its number, its teams queued, while the pool has room and no earlier launch of the queue waits, or waits in place; a seat that came back too small refuses with 6 or 9. INDIRECT opens its buffer, halts with status 1 for a misaligned or empty or too long buffer and 2 for one too deep or overlapping; a command whose OP or reserved bits are wrong halts with 1; SIGNAL writes its word and completes, WAIT completes when its word holds and else waits and is read again; a page not at hand is waited for, the host asked for an ATS page, an address misaligned, not canonical or unresolvable halts with 1; a command not ready is looked at again. The oldest completion of a completion queue is written at SEQ modulo its size, with SEQ, phase, queue, status and information and a message to the host, while fewer than its size are unread; else CQDONE is read again after a time of firmware. (R380, R381, R382, R383, R384, R385, R386, R387, R388) -/
def Obligations.QueueEventsAct : Prop :=
  ∀ s : State,
    (∀ (vf q : Nat) (tail : W32), s.ev = some (.doorbellWrite vf q tail) →
      ∀ u, u = (s.completions.filter fun (c : Completion) => c.vf == vf).foldl (fun (t : State) (c : Completion) => t.once t.g (.completionWrite c.rcb)) s →
      (u.findQueue vf q = none → exec .doorbellWrite s = .next u)
      ∧ (∀ k v, u.findQueue vf q = some k → v = { u with mem := Memory.write u.mem (k.addr + 40) 4 tail.toNat } →
        (v.qState k = 2 ∨ v.qHead k = tail → exec .doorbellWrite s = .next v)
        ∧ (v.qState k ≠ 2 → v.qHead k ≠ tail → ∀ w, w = v.setQState k 1 0 →
          (2 ^ w.qLog k < (w.qTail k - w.qHead k).toNat → exec .doorbellWrite s = .next (w.haltQueue k 10).pokeQueues)
          ∧ ((w.qTail k - w.qHead k).toNat ≤ 2 ^ w.qLog k → exec .doorbellWrite s = .next w.pokeQueues))))
    ∧ (∀ (k : Queue) (n : Nat), ∃ c : Completion, (s.haltQueue k n).completions = s.completions ++ [c] ∧ c.status = n ∧ c.queue = k.q ∧ c.info = 0
      ∧ (k.addr % 64 = 0 → Memory.wf s.mem = true → (s.haltQueue k n).qState k = 2 ∧ (s.haltQueue k n).qHead k = s.qHead k ∧ (s.haltQueue k n).qTail k = s.qTail k))
    ∧ (∀ (vf : Nat) (v : W32), s.ev = some (.doorcntWrite vf v) → ∀ n, n = SMap.get 0 s.doors vf + v →
      exec .doorcntWrite s = .next { s with
        doors := SMap.set 0 s.doors vf n
        seats := s.seats.map fun (x : Seat) => if x.vf ≠ vf then x else { x with waits := x.waits.map fun (w : Charged) =>
          match w.door with
          | none => w
          | some d => if w.doneAt = none ∧ w.vf = x.vf ∧ (n - d).toNat < 2 ^ 31 then { w with doneAt := some s.g } else w } })
    ∧ (∀ id : Nat, s.ev = some (.launchDelivery id) → (s.grids.find? (fun (g : Grid) => g.id == id) = none → exec .launchDelivery s = .next s)
      ∧ (∀ g : Grid, s.grids.find? (fun (g : Grid) => g.id == id) = some g → (s.findSeat g.seat = none ∨ g.placed = true ∨ g.ready = false → exec .launchDelivery s = .next s)
        ∧ (∀ x : Seat, s.findSeat g.seat = some x → g.placed = false → g.ready = true →
          (x.seated = false ∨ (g.delivered = false ∧ s.g % Config.frame ≠ 0) → exec .launchDelivery s = .next (s.at (nextFrame (s.g + 1)) (.launchDelivery id)))
          ∧ (x.seated = true → g.delivered = true ∨ s.g % Config.frame = 0 →
            ∀ u, u = (if g.delivered then s else ({ s with grids := s.grids.map fun (h : Grid) => if h.id = id then { h with delivered := true } else h } : State).logEvent
              g.seat 2 ((x.coreList.head?).getD 0) (s.oclk g.seat) 0) →
            ∀ behind : Bool, behind = (match g.launcher with
              | .host vf q _ _ => u.grids.any fun (h : Grid) => !h.placed && decide (h.id < g.id) && (match h.launcher with
                | .host v r _ _ => vf == v && q == r
                | _ => false)
              | _ => false) →
            ∀ y : Seat, u.findSeat g.seat = some y →
            let refused (n : Nat) : State := match g.launcher with
              | .host vf q _ _ => ((u.refuseGrid g n).mapQueue vf q fun k => { k with live := k.live.filter fun i => i != g.id }).pokeQueues
              | _ => u.refuseGrid g n
            (y.coreList.length < shapeSize g.shape → exec .launchDelivery s = .next (refused 6))
            ∧ (shapeSize g.shape ≤ y.coreList.length → g.mode.twin = true → y.coreList.length ≤ 1 → exec .launchDelivery s = .next (refused 9))
            ∧ (shapeSize g.shape ≤ y.coreList.length → g.mode.twin = false ∨ 1 < y.coreList.length →
              (behind = true ∨ u.poolRoom g.seat g.region = false → exec .launchDelivery s = .next u)
              ∧ (behind = false → u.poolRoom g.seat g.region = true → ∀ n v, (n, v) = u.countGrid g.seat g.region.vf →
                exec .launchDelivery s = .next (((({ v with grids := v.grids.map fun (h : Grid) => if h.id = g.id then { h with placed := true, number := n } else h } : State).startGrid
                  g.id .host).pokeQueues).pokeWaiting)))))))
    ∧ (∀ (seat : Nat) (r : Region), s.poolRoom seat r = true ↔ (∃ x, s.findSeat seat = some x ∧ (s.grids.filter fun (g : Grid) => g.placed && g.seat == seat).length < x.pl.poolq)
        ∧ (r.maxGrids = 0 ∨ (s.grids.filter fun (g : Grid) => g.placed && g.region.gridRcb == r.gridRcb).length < r.maxGrids))
    ∧ (∀ (g : Grid) (x : Seat) (sp : Spread), s.grids.find? (fun (h : Grid) => h.id == g.id) = some g → s.findSeat g.seat = some x → g.mode.twin = false →
        ((s.startGrid g.id sp).teams.filter fun (t : Team) => decide (s.nextId ≤ t.id)).length = g.size + (s.teams.filter fun (t : Team) => decide (s.nextId ≤ t.id)).length)
    ∧ (∀ rcb : Nat, s.ev = some (.completionWrite rcb) → (s.completions.find? (fun (c : Completion) => c.rcb == rcb) = none → exec .completionWrite s = .next s)
      ∧ (∀ c : Completion, s.completions.find? (fun (c : Completion) => c.rcb == rcb) = some c →
        ∀ seq size done, seq = SMap.get 0 s.cqSeq rcb → size = 2 ^ (c.cqLog + 4) → done = (Memory.read32 s.mem (rcb + 28)).toNat →
        ((seq + 2 ^ 32 - done) % 2 ^ 32 < size → ∀ n, n = SMap.get 0 s.link.vectors c.vf → ∀ u : State,
          u = { s with
            mem := Memory.putBytes s.mem (c.cqBase + 32 * (seq % size)) (c.bytes seq), cqSeq := SMap.set 0 s.cqSeq rcb ((seq + 1) % 2 ^ 32)
            completions := s.completions.erase c, link := { s.link with msix := if n = 0 then s.link.msix else s.link.msix ++ [(c.vf, c.queue % n)] } } →
          exec .completionWrite s = .next (if (u.completions.any fun (d : Completion) => d.rcb == rcb) = true then (u.once u.g (.completionWrite rcb)).pokeQueues else u.pokeQueues))
        ∧ (size ≤ (seq + 2 ^ 32 - done) % 2 ^ 32 → ∀ u : State, u = { s with draws := s.draws + 1 } →
          ((u.agenda.any fun e => e.2 == .cqdoneReread) = true → exec .completionWrite s = .next u)
          ∧ ((u.agenda.any fun e => e.2 == .cqdoneReread) = false → exec .completionWrite s = .next (u.at (u.g + 1 + Config.firmwareDelay s.draws) .cqdoneReread)))))
    ∧ (∀ (c : Completion) (seq : Nat), (c.bytes seq).length = 32 ∧ wordOfBytes ((c.bytes seq).drop 16) = 0 ∧ wordOfBytes (((c.bytes seq).drop 8).take 8) = c.info.toNat
        ∧ wordOfBytes ((c.bytes seq).take 8) = seq / 2 ^ (c.cqLog + 4) % 2 + c.queue % 64 * 2 ^ 10 + c.status % 256 * 2 ^ 16 + seq % 2 ^ 32 * 2 ^ 32)
    ∧ (s.ev = some .cqdoneReread → exec .cqdoneReread s = .next ((s.completions.filter fun (_ : Completion) => true).foldl (fun (t : State) (c : Completion) => t.once t.g (.completionWrite c.rcb)) s))
    ∧ (∀ (vf q : Nat) (k : Queue) (a : Nat), s.findQueue vf q = some k → s.qCommand k = some a → s.mayServe k = true →
      (s.ev = some (.queueNop vf q) → (s.qOp a = some 0 → exec .queueNop s = .next (s.doneCommand k a 0)) ∧ (s.qOp a = none → exec .queueNop s = .next (s.haltQueue k 1).pokeQueues)))
    ∧ (∀ (vf q : Nat) (k : Queue) (a : Nat), s.findQueue vf q = some k → s.qCommand k = some a → s.mayServe k = true → s.qOp a = some 1 → s.ev = some (.queueLaunch vf q) →
      let w (n : Nat) : W64 := s.qWord a n
      let kd := (w 1).toNat
      let pa := (w 2).toNat
      let refused (n : Nat) : Prop := exec .queueLaunch s = .next ((s.qComplete k n (w 4 &&& 0xFFFF#64)).nextCommand k)
      (s.qRegion k = none → refused 9)
      ∧ (∀ (x : Seat) (r : Region), s.qRegion k = some (x, r) → ∀ mode, mode = s.modeOf r.chain →
        (mode.twin = true → x.coreList.length ≤ 1 → refused 9)
        ∧ (mode.twin = false ∨ 1 < x.coreList.length →
          let sound : Prop := kd % 64 = 0 ∧ pa % 8 = 0 ∧ extReserved (w 3) (w 4) = true ∧ extLegal (w 3) = true
          (¬sound → refused 13)
          ∧ (sound → ∀ kb pb, kb = s.reachBytes k r.asid Config.kernelBytes kd [] → pb = s.reachBytes k r.asid 64 pa [] →
            let meets (e : Reach) : Prop := (∀ va, e = .wait va → exec .queueLaunch s = .next (s.awaitPage k x r va false))
              ∧ (∀ va, e = .ask va → exec .queueLaunch s = .next (s.awaitHost k x r.asid va false)) ∧ (e = .never → refused 13)
            (∀ e, kb = .inr e → meets e) ∧ (∀ l e, kb = .inl l → pb = .inr e → meets e)
            ∧ (∀ l m, kb = .inl l → pb = .inl m →
              (kernelIn l = none → refused 13)
              ∧ (∀ kn, kernelIn l = some kn →
                (kn.isolated = true → x.num = 15 → refused 7)
                ∧ (kn.isolated = false ∨ x.num ≠ 15 → ∀ ext, ext = extOf (w 3) →
                  (x.coreList.length < shapeSize ext.2.2.2 → refused 6)
                  ∧ (shapeSize ext.2.2.2 ≤ x.coreList.length → ∀ ps ds, ps = wordsOf (halves32 m) → ds = declaredOf kn ps →
                    (∀ n, s.buildExtents r.asid ds = .refused n → refused n)
                    ∧ (∀ va wr, s.buildExtents r.asid ds = .fault va wr →
                      ((k.failed.any fun f => f / 4096 == va / 4096) = true → refused 12)
                      ∧ ((k.failed.any fun f => f / 4096 == va / 4096) = false → exec .queueLaunch s = .next (s.awaitPage k x r va wr)))
                    ∧ (∀ es, s.buildExtents r.asid ds = .ok es → ∀ u : State,
                      u = ({ s.fresh.2 with grids := s.grids ++ [{ id := s.nextId, seat := x.num, region := { r with vf := k.vf }, mode := mode, kernel := kn, params := ps, gx := ext.1, gy := ext.2.1, gz := ext.2.2.1, shape := ext.2.2.2, tag := (w 4).toNat % 2 ^ 16, launcher := .host k.vf k.q (s.qCq a) s.nextId, ready := true, prepared := s.g, extents := es, declared := ds }] } : State).mapQueue
                        k.vf k.q (fun k => { k with live := k.live ++ [s.nextId] }) →
                      exec .queueLaunch s = .next ((if x.seated then u.at (nextFrame (u.g + 1)) (.launchDelivery s.nextId) else u).nextCommand k))))))))))
    ∧ (∀ (vf q : Nat) (k : Queue) (a : Nat), s.findQueue vf q = some k → s.qCommand k = some a → s.mayServe k = true → s.qOp a = some 2 → s.ev = some (.indirect vf q) →
      let b := (s.qWord a 1).toNat
      let n := (s.qWord a 2).toNat
      (b % 64 ≠ 0 ∨ n = 0 ∨ 65535 < n → exec .indirect s = .next (s.haltQueue k 1).pokeQueues)
      ∧ (b % 64 = 0 → 1 ≤ n → n ≤ 65535 → (4 ≤ k.stack.length ∨ rangesMeet b (64 * n) (s.qBase k) (64 * 2 ^ s.qLog k) = true
          ∨ k.stack.any (fun e => rangesMeet b (64 * n) e.1 (64 * e.2.1)) = true) → exec .indirect s = .next (s.haltQueue k 2).pokeQueues)
      ∧ (b % 64 = 0 → 1 ≤ n → n ≤ 65535 → k.stack.length < 4 → rangesMeet b (64 * n) (s.qBase k) (64 * 2 ^ s.qLog k) = false →
          k.stack.any (fun e => rangesMeet b (64 * n) e.1 (64 * e.2.1)) = false →
          exec .indirect s = .next (s.mapQueue vf q fun k => { k with stack := (b, n, 0) :: k.stack }).pokeQueues))
    ∧ (∀ (vf q : Nat) (k : Queue) (a : Nat) (x : Seat) (r : Region), s.findQueue vf q = some k → s.qCommand k = some a → s.mayServe k = true → s.qRegion k = some (x, r) →
      let va := (s.qWord a 1).toNat
      (s.ev = some (.signal vf q) → s.qOp a = some 3 → (va % 8 ≠ 0 ∨ canonical (va : Int) = false → exec .signal s = .next (s.haltQueue k 1).pokeQueues)
        ∧ (va % 8 = 0 → canonical (va : Int) = true → ∀ p, s.reach k r.asid va .write = .at_ p →
            exec .signal s = .next ((s.writeAt p (bytesOf 8 (s.qWord a 2).toNat)).doneCommand k a 0))
        ∧ (va % 8 = 0 → canonical (va : Int) = true → ∀ v, s.reach k r.asid va .write = .wait v → exec .signal s = .next (s.awaitPage k x r v true))
        ∧ (va % 8 = 0 → canonical (va : Int) = true → (∀ v, s.reach k r.asid va .write = .ask v → exec .signal s = .next (s.awaitHost k x r.asid v true))
            ∧ (s.reach k r.asid va .write = .never → exec .signal s = .next (s.haltQueue k 1).pokeQueues)))
      ∧ (s.ev = some (.wait vf q) → s.qOp a = some 4 → (va % 8 ≠ 0 ∨ canonical (va : Int) = false → exec .wait s = .next (s.haltQueue k 1).pokeQueues)
        ∧ (va % 8 = 0 → canonical (va : Int) = true → ∀ p, s.reach k r.asid va .read = .at_ p →
            (s.waitHolds p (s.qWord a 2) = true → exec .wait s = .next (s.doneCommand k a 0))
            ∧ (s.waitHolds p (s.qWord a 2) = false → exec .wait s = .next (s.mapQueue vf q fun k => { k with wait := some (va, s.qWord a 2) }).pokeQueues))
        ∧ (va % 8 = 0 → canonical (va : Int) = true → ∀ v, s.reach k r.asid va .read = .wait v → exec .wait s = .next (s.awaitPage k x r v false))
        ∧ (va % 8 = 0 → canonical (va : Int) = true → (∀ v, s.reach k r.asid va .read = .ask v → exec .wait s = .next (s.awaitHost k x r.asid v false))
            ∧ (s.reach k r.asid va .read = .never → exec .wait s = .next (s.haltQueue k 1).pokeQueues))))
    ∧ (∀ (vf q : Nat) (k : Queue) (a : Nat) (x : Seat) (r : Region) (va : Nat) (v : W64) (p : Phys), s.ev = some (.waitReread vf q) → s.findQueue vf q = some k →
      s.qCommand k = some a → s.qRegion k = some (x, r) → k.wait = some (va, v) →
      (s.reach k r.asid va .read = .at_ p → (s.waitHolds p v = true → exec .waitReread s = .next ((s.mapQueue vf q fun k => { k with wait := none }).doneCommand k a 0))
        ∧ (s.waitHolds p v = false → exec .waitReread s = .next s))
      ∧ (∀ w, s.reach k r.asid va .read = .wait w → exec .waitReread s = .next ((s.mapQueue vf q fun k => { k with wait := none }).awaitPage k x r w false))
      ∧ (∀ w, s.reach k r.asid va .read = .ask w → exec .waitReread s = .next ((s.mapQueue vf q fun k => { k with wait := none }).awaitHost k x r.asid w false))
      ∧ (s.reach k r.asid va .read = .never → exec .waitReread s = .next (s.haltQueue k 1).pokeQueues))
    ∧ (∀ vf q : Nat, s.findQueue vf q = none → (s.ev = some (.queueNop vf q) → exec .queueNop s = .next s.pokeQueues)
      ∧ (s.ev = some (.queueLaunch vf q) → exec .queueLaunch s = .next s.pokeQueues) ∧ (s.ev = some (.indirect vf q) → exec .indirect s = .next s.pokeQueues)
      ∧ (s.ev = some (.signal vf q) → exec .signal s = .next s.pokeQueues) ∧ (s.ev = some (.wait vf q) → exec .wait s = .next s.pokeQueues))

/-- With the device not Ready, each of the thirteen commands answers status 13 and does nothing else; a command code that is not defined answers 13 in any state. A status reply puts the status in word 0 of MBOUT with the other seven words zero, steps SEQ modulo 256, sets DONE, clears BUSY, takes the message answered out of the mailbox of the core that served it (one that waits for room comes in), and leaves every memory, seat, team and grid. (R409, R410) -/
def Obligations.CommandsNeedAReadyDevice : Prop :=
  ∀ s : State,
    (s.host.dstate ≠ 3 →
      (∀ (seat : Nat) (rec : Nat), s.ev = some (.admitSeat seat rec) → exec .admitSeat s = .next (s.status 13))
      ∧ (∀ (seat : Nat) (force : Bool), s.ev = some (.evict seat force) → exec .evict s = .next (s.status 13))
      ∧ (∀ (lender : Nat) (w2 : W64) (lmap : W64) (first : W64) (count : W64), s.ev = some (.lease lender w2 lmap first count) → exec .lease s = .next (s.status 13))
      ∧ (∀ (seat : Nat) (addr : Nat), s.ev = some (.qtable seat addr) → exec .qtable s = .next (s.status 13))
      ∧ (∀ (vf : Nat) (q : Nat) (addr : Nat), s.ev = some (.qreg vf q addr) → exec .qreg s = .next (s.status 13))
      ∧ (∀ (rcb : Nat) (rec : W64) (clear : Bool), s.ev = some (.runmode rcb rec clear) → exec .runmode s = .next (s.status 13))
      ∧ (∀ (rcb : Nat) (deadline : W64), s.ev = some (.preempt rcb deadline) → exec .preempt s = .next (s.status 13))
      ∧ (∀ (rcb : Nat), s.ev = some (.resume rcb) → exec .resume s = .next (s.status 13))
      ∧ (∀ (watts : Nat) (degrade : Bool), s.ev = some (.powercap watts degrade) → exec .powercap s = .next (s.status 13))
      ∧ (∀ (seat : Nat) (m : Nat) (g : Nat), s.ev = some (.seatfloor seat m g) → exec .seatfloor s = .next (s.status 13))
      ∧ (∀ (asid : Nat) (page : W64) (refused : Bool), s.ev = some (.pagedone asid page refused) → exec .pagedone s = .next (s.status 13))
      ∧ (∀ (core : Nat) (isSlot : Bool) (slot : Nat) (pass : Bool), s.ev = some (.unfence core isSlot slot pass) → exec .unfence s = .next (s.status 13))
      ∧ (∀ (port : Nat) (entry : Nat) (base : Nat) (len : Nat) (rd : Bool) (wr : Bool), s.ev = some (.linkopen port entry base len rd wr) → exec .linkopen s = .next (s.status 13)))
    ∧ (∀ n : Nat, s.ev = some (.undefinedCommand n) → exec .undefinedCommand s = .next (s.status 13))
    ∧ (∀ n : Nat, (s.status n).host.mbout = BitVec.ofNat 64 n :: List.replicate 7 0 ∧ (s.status n).host.seq = (s.host.seq + 1) % 256 ∧ (s.status n).host.done = true
        ∧ (s.status n).host.busy = false ∧ (s.status n).mail.filter (fun (m : Mail) => m.core == 1) = (s.mail.filter fun (m : Mail) => m.core == 1).drop 1 ++ (s.mailWait.filter fun (m : Mail) => m.core == 1).take 1
        ∧ (s.status n).mail.filter (fun (m : Mail) => m.core != 1) = s.mail.filter (fun (m : Mail) => m.core != 1) ∧ SameBytes s (s.status n) ∧ (s.status n).seats = s.seats ∧ (s.status n).grids = s.grids
        ∧ (s.status n).queues = s.queues)

/-- ADMIT answers the first refusal of R373 that holds (1 for a record that breaks its rules, 7, 5 for a frame less than 16 after that of the message, 2, 4, 3), and else the seat holds the record and is seated at the first cycle of its frame. LEASE answers 1, 2, 6 for a first frame less than 2 after that of the message, 8, or writes both seats' lease records and sets its beginning and end. POWERCAP, of at most 2,800 W, answers 10 below 420 W, 11 below the need without DEGRADE, and else the cap and the degrade stand at the next evaluation; SEATFLOOR answers 8 for no seat, 12 when the new need exceeds the cap without degrade, and else the floor stands at the next evaluation. LINKOPEN answers 1 for a base or length that is no multiple of 2 MiB or passes the memory, and else the entry is the window named, or closed by a length of 0. EVICT marks the seat, 7 when it is leased and 8 when absent; QTABLE loads the table for the next quantum end, 1 for a bad table, 8 for no seat; QREG places a queue with TAIL 0, 1 for a bad descriptor, 8 for a number out of range; RUNMODE sets or clears the mode of a sound region, 1 for a record that breaks its rules, PREEMPT and RESUME name a sound region, else 8; PAGEDONE answers a forwarded fault, with 0, or where the page answered is a staged commons page beyond the partition with a code the spec leaves open (log 114), else 8; UNFENCE lifts at the second boundary, 8 for what is not fenced and 9 for a failed test; STATUS answers in every state. (R372, R373, R374, R375, R376, R392, R393, R410, R413, R415, R420, R421) -/
def Obligations.MailboxCommandsAct : Prop :=
  ∀ s : State, s.host.dstate = 3 →
    (∀ (seat a : Nat) (p : Placement), s.ev = some (.admitSeat seat a) → p = s.placementAt a →
      let h := Memory.read s.mem a 128
      let l := Memory.read s.mem (a + 128) 32
      let set := cset (h / 2 ^ 768)
      let bad : Prop := a % 64 ≠ 0 ∨ h / 2 ^ 384 % 2 ^ 64 ≠ 0 ∨ h / 2 ^ 360 % 2 ≠ 0 ∨ h % 2 ^ 356 ≠ 0 ∨ h / 2 ^ 356 % 16 ≠ seat ∨ p.evlog % 32768 ≠ 0
        ∨ p.poolq = 0 ∨ 4096 < p.poolq ∨ p.cores.map (fun c => c.core) ≠ set ∨ (∃ c ∈ p.cores, c.legal = false)
        ∨ (∃ k, k < p.cores.length ∧ Memory.read s.mem (a + 160 + 32 * k) 32 % 2 ^ 123 ≠ 0)
        ∨ l % 4 ≠ 0 ∨ l / 8 % 2 ≠ 0 ∨ l / 2 ^ 8 % 2 ^ 88 ≠ 0 ∨ s.quantumTable p.qtab = none
      let conflict : Prop := (∃ x ∈ s.seats, p.dmap &&& x.pl.dmap ≠ 0
          ∨ ∃ c ∈ p.cores, ∃ d ∈ x.pl.cores, c.core = d.core ∧ (c.grant = true ∨ d.grant = true ∨ c.cmap &&& d.cmap ≠ 0))
        ∨ ∃ c ∈ p.cores, c.grant = false ∧ c.cmap = 0
      let starved : Prop := 62 < ((List.range 64).filter fun k => p.dmap.getLsbD k || s.seats.any fun (x : Seat) => x.pl.dmap.getLsbD k).length
      let ps := p :: s.seats.map fun (x : Seat) => x.pl
      let sum (c : Nat) (f : CoreRec → Nat) : Nat := ((ps.flatMap fun q => q.cores.filter fun r => r.core == c).map f).sum
      let full : Prop := 31 < (ps.map fun q => q.l2w).sum ∨ 4096 < (ps.map fun q => q.poolq).sum ∨ ∃ c, 32 < sum c (fun r => r.gslot) ∨ 8 < sum c (fun r => r.suba)
        ∨ 128 < sum c (fun r => r.spb) ∨ 256 < sum c (fun r => r.abu) ∨ 128 < sum c (fun r => r.wbu) ∨ 128 < sum c (fun r => r.xbu) ∨ 16 < sum c (fun r => r.l1u)
        ∨ 32 < sum c (fun r => r.tlbu) ∨ ∃ k, k < 4 ∧ 1 < sum c (fun r => r.pairs / 2 ^ k % 2)
      let late : Prop := p.frame < s.mailFrame + 16
      (bad → exec .admitSeat s = .next (s.status 1))
      ∧ (¬bad → (s.findSeat seat).isSome = true → exec .admitSeat s = .next (s.status 7))
      ∧ (¬bad → s.findSeat seat = none → late → exec .admitSeat s = .next (s.status 5))
      ∧ (¬bad → s.findSeat seat = none → ¬late → conflict → exec .admitSeat s = .next (s.status 2))
      ∧ (¬bad → s.findSeat seat = none → ¬late → ¬conflict → starved → exec .admitSeat s = .next (s.status 4))
      ∧ (¬bad → s.findSeat seat = none → ¬late → ¬conflict → ¬starved → full → exec .admitSeat s = .next (s.status 3))
      ∧ (¬bad → s.findSeat seat = none → ¬late → ¬conflict → ¬starved → ¬full → ∃ t es, exec .admitSeat s = .next t ∧ s.quantumTable p.qtab = some es
        ∧ t.findSeat seat = some { num := seat, pl := p, qtab := es } ∧ (∀ n, n ≠ seat → t.findSeat n = s.findSeat n) ∧ t.host.mbout.head? = some 0
        ∧ (p.frame * Config.frame, Event.seating seat) ∈ t.agenda ∧ t.teams = s.teams ∧ SameBytes s t))
    ∧ (∀ (l : Nat) (w m f n : W64), s.ev = some (.lease l w m f n) →
      let b := w.toNat % 16
      let bad : Prop := n.toNat = 0 ∨ 2 ^ 32 ≤ n.toNat ∨ m = 0 ∨ 16 ≤ w.toNat
      let conflict : Prop := (∃ x, s.findSeat l = some x ∧ m &&& ~~~x.pl.dmap ≠ 0) ∨ l = 15 ∨ b = 15 ∨ l = b ∨ s.leased l = true ∨ s.leased b = true
      let late : Prop := f.toNat < s.mailFrame + 2
      let part (lend : Bool) (peer : Nat) : LeaseRec := { v := true, lend := lend, peer := peer, lmap := m, first := f.toNat, count := n.toNat }
      (bad → exec .lease s = .next (s.status 1))
      ∧ (¬bad → conflict → exec .lease s = .next (s.status 2))
      ∧ (¬bad → ¬conflict → late → exec .lease s = .next (s.status 6))
      ∧ (¬bad → ¬conflict → ¬late → s.findSeat l = none ∨ s.findSeat b = none → exec .lease s = .next (s.status 8))
      ∧ (∀ x y, ¬bad → ¬conflict → ¬late → s.findSeat l = some x → s.findSeat b = some y → ∃ t, exec .lease s = .next t
        ∧ t.findSeat l = some { x with lease := part true b } ∧ t.findSeat b = some { y with lease := part false l } ∧ (∀ k, k ≠ l → k ≠ b → t.findSeat k = s.findSeat k)
        ∧ (f.toNat * Config.frame, Event.leaseBegin l) ∈ t.agenda ∧ ((f.toNat + n.toNat) * Config.frame, Event.leaseEnd l) ∈ t.agenda
        ∧ t.host.mbout.head? = some 0 ∧ SameBytes s t)
      ∧ (∀ k, s.leased k = true ↔ ∃ x, s.findSeat k = some x ∧ x.lease.v = true))
    ∧ (∀ (w : Nat) (d : Bool), s.ev = some (.powercap w d) →
      let c := min w 2800
      let set (degrade : Bool) : Prop := exec .powercap s = .next (({ s with power := { s.power with pending := s.power.pending ++ [.cap c degrade] } } : State).status 0)
      (c < 420 → exec .powercap s = .next (s.status 10))
      ∧ (420 ≤ c → c < s.afterPower.need → d = false → exec .powercap s = .next (s.status 11))
      ∧ (420 ≤ c → c < s.afterPower.need → d = true → set true)
      ∧ (420 ≤ c → s.afterPower.need ≤ c → set false))
    ∧ (∀ n m g : Nat, s.ev = some (.seatfloor n m g) →
      (s.findSeat n = none → exec .seatfloor s = .next (s.status 8))
      ∧ ((s.findSeat n).isSome = true → ∀ t, t = s.afterPower.mapSeat n (fun x => { x with floor := if g = 0 then none else some (m, g) }) →
        (t.power.cap < t.need → t.power.degrade = false → exec .seatfloor s = .next (s.status 12))
        ∧ (t.need ≤ t.power.cap ∨ t.power.degrade = true →
          exec .seatfloor s = .next (({ s with power := { s.power with pending := s.power.pending ++ [.floor n m g] } } : State).status 0))))
    ∧ (s.need = 420 + ((s.seats.filter fun (x : Seat) => x.seated).map fun (x : Seat) => (x.floor.map fun f => f.2).getD 0).sum)
    ∧ (s.power.pending = [] → s.afterPower = s)
    ∧ (∀ c cs, s.power.pending = c :: cs → ∀ u : State, u = { s with power := { s.power with pending := cs } } →
      (∀ w d, c = .cap w d → s.afterPower = ({ u with power := { u.power with cap := w, degrade := d } } : State).afterPower)
      ∧ (∀ n m g, c = .floor n m g → s.afterPower = (u.mapSeat n fun x => { x with floor := if g = 0 then none else some (m, g) }).afterPower))
    ∧ (∀ (p j b n : Nat) (rd wr : Bool), s.ev = some (.linkopen p j b n rd wr) →
      let bad : Prop := b % 2 ^ 21 ≠ 0 ∨ n % 2 ^ 21 ≠ 0 ∨ Config.deviceBytes < b + n
      (bad → exec .linkopen s = .next (s.status 1))
      ∧ (¬bad → ∃ t, exec .linkopen s = .next t ∧ t.host.mbout.head? = some 0 ∧ t.seats = s.seats ∧ SameBytes s t
        ∧ ∀ x : Window, x ∈ t.windows ↔ (x ∈ s.windows ∧ ¬(x.port = p ∧ x.entry = j)) ∨ (n ≠ 0 ∧ x = { port := p, entry := j, base := b, len := n, rd := rd, wr := wr })))
    ∧ (∀ (n : Nat) (force : Bool), s.ev = some (.evict n force) → (s.leased n = true → exec .evict s = .next (s.status 7))
      ∧ (s.leased n = false → s.findSeat n = none → exec .evict s = .next (s.status 8))
      ∧ (s.leased n = false → (s.findSeat n).isSome = true → exec .evict s = .next ((s.mapSeat n fun x => { x with evict := some force }).status 0)))
    ∧ (∀ n a : Nat, s.ev = some (.qtable n a) → (s.quantumTable a = none → exec .qtable s = .next (s.status 1))
      ∧ (∀ es, s.quantumTable a = some es → (s.findSeat n = none → exec .qtable s = .next (s.status 8))
        ∧ ((s.findSeat n).isSome = true → exec .qtable s = .next ((s.mapSeat n fun x => { x with nextQtab := some es }).status 0))))
    ∧ (∀ vf q a : Nat, s.ev = some (.qreg vf q a) → (a % 64 ≠ 0 ∨ s.rec64 a 511 448 % 4096 ≠ 0 ∨ s.rec64 a 319 315 < 4 ∨ 16 < s.rec64 a 319 315 ∨ s.rec64 a 304 0 ≠ 0 → exec .qreg s = .next (s.status 1))
      ∧ (a % 64 = 0 → s.rec64 a 511 448 % 4096 = 0 → 4 ≤ s.rec64 a 319 315 → s.rec64 a 319 315 ≤ 16 → s.rec64 a 304 0 = 0 →
        (63 < q ∨ 63 < vf → exec .qreg s = .next (s.status 8))
        ∧ (q ≤ 63 → vf ≤ 63 → ∃ t, exec .qreg s = .next t ∧ t.findQueue vf q = some { vf := vf, q := q, addr := a } ∧ (Memory.wf s.mem = true → Memory.read t.mem (a + 40) 4 = 0)
            ∧ t.host.mbout.head? = some 0)))
    ∧ (∀ (rcb : Nat) (w : W64) (clear : Bool), s.ev = some (.runmode rcb w clear) →
      ∀ q bad, q = fld w.toNat 24 20 → bad = (fld w.toNat 31 25 != 0 || fld w.toNat 19 3 != 0 || (if w.getLsbD 1 then !(decide (8 ≤ q ∧ q ≤ 16)) else q != 0 || w.getLsbD 2)) →
      (clear = false → bad = true → exec .runmode s = .next (s.status 1))
      ∧ (clear = true ∨ bad = false → s.regionSound rcb = false → exec .runmode s = .next (s.status 8))
      ∧ (clear = true ∨ bad = false → s.regionSound rcb = true → exec .runmode s =
          .next (({ s with runModes := (s.runModes.filter fun r => r.1 != rcb) ++ if clear then [] else [(rcb, w)] } : State).status 0)))
    ∧ (∀ (rcb : Nat) (d : W64), s.ev = some (.preempt rcb d) → (d.toNat = 0 ∨ 2 ^ 32 ≤ d.toNat ∨ s.regionSound rcb = false → exec .preempt s = .next (s.status 8))
      ∧ (d.toNat ≠ 0 → d.toNat < 2 ^ 32 → s.regionSound rcb = true → exec .preempt s = .next (s.at (nextFrame (s.g + 1)) (.preemptDelivery rcb d))))
    ∧ (∀ rcb : Nat, s.ev = some (.resume rcb) → (s.regionSound rcb = false → exec .resume s = .next (s.status 8))
      ∧ (s.regionSound rcb = true → ∃ t, exec .resume s = .next t ∧ t.host.mbout.head? = some 0))
    ∧ (∀ (asid : Nat) (page : W64) (refused : Bool), s.ev = some (.pagedone asid page refused) →
      let hit (f : FaultRec) : Bool := f.forwarded && f.asid == asid && f.va / 4096 == page.toNat / 4096
      (s.faults.find? hit = none → exec .pagedone s = .next (s.status 8))
      ∧ (∀ f, s.faults.find? hit = some f → exec .pagedone s = .next ((s.pageAnswered f refused).pokeQueues.status (if refused = false ∧ s.commonsRefused f = true then Config.commonsFull else 0))))
    ∧ (∀ (core slot : Nat) (isSlot pass : Bool), s.ev = some (.unfence core isSlot slot pass) → (s.isFenced core isSlot slot = false → exec .unfence s = .next (s.status 8))
      ∧ (s.isFenced core isSlot slot = true → pass = false → exec .unfence s = .next (s.status 9))
      ∧ (s.isFenced core isSlot slot = true → pass = true → exec .unfence s = .next (s.at (nextFrame (s.g + 1)) (.fenceLift core isSlot slot))))
    ∧ (∀ s' : State, s'.ev = some .status → exec .status s' = .next (s'.answer s'.statusReply) ∧ (s'.answer s'.statusReply).host.mbout = s'.statusReply
      ∧ s'.statusReply.take 2 = [0, s'.readReg 0x1088] ∧ s'.statusReply.length = 8 ∧ (s'.answer s'.statusReply).host.done = true ∧ (s'.answer s'.statusReply).draws = s'.draws)

/-- Each event answers a next state. A page that may move is marked and invalidated, is waited for while its frame is in use, and then is copied and named by its leaf; any other page stays. A sweep lowers the heat of each leaf that has any. A write of MBIN or of the control register acts as its bits say, GO sends the message to the mailbox of core 1, of 16 messages, or lets it wait for room, unless one is in flight (ADMIT and LEASE are handled by the end of the next frame: log 5), other offsets do nothing. A power evaluation sets a step down when a band is at its limit or the cap is passed and the floor allows, a step up when all are cool; a step changes at a boundary by one and seats whose floor it leaves are told. A lifted fence is logged for each seat it serves. A host request outside its window answers nothing and is an unsupported request in the error bits of its function; else it writes, or answers the bytes, and one whose page does not translate is logged and a completer abort. An ATS invalidation answers once what came before it is done. A peer request answers nothing unless its port is Up and an open window holds it and permits its kind. What a host or peer request reads or writes is one request of seat 15 for each line it names, in order; a line that comes writes or reads its bytes there, an atomic its word, and the last one answers. A retraining takes a listed width and rate and lasts a time of firmware, in which nothing passes the link; a measurement of index 1 to 4 is signed, index 4 over the placement records of the seated seats; a status report is the reply of STATUS; a port is Training for a time of firmware and then Up with its peer or Down; configuration sets the VFs, at most 63, and vectors, at most 64. (R361, R362, R366, R407, R408, R410, R411, R413, R415, R417, R418, R419) -/
def Obligations.DeviceEventsAct : Prop :=
  ∀ s : State,
    (∀ (asid : Nat) (va : Nat) (frame : Nat), s.ev = some (.pageMigration asid va frame) →
      (∀ level w a, s.walkNow asid va = .leaf level w a → (s.mayMove asid level w frame = false → exec .pageMigration s = .next s)
        ∧ (∀ u, s.mayMove asid level w frame = true → u = ({ s with mem := Memory.write s.mem a 8 (w ||| (1#64 <<< 63)).toNat } : State).claimSlice a →
          exec .pageMigration s = .next ((u.seats.foldl (fun (t : State) (x : Seat) => t.invalidate x.num (some asid) (some (va % 2 ^ 57))) u).now (.pageMigration asid va frame))))
      ∧ (∀ level w a, s.walkNow asid va = .absent level w a → ∀ ok, ok = (leafBit w 0 && leafBit w 63 && frame % 2 ^ levelBits level == 0
          && decide (frame + 2 ^ levelBits level ≤ Config.deviceBytes)) →
        (ok = false → exec .pageMigration s = .next s)
        ∧ (ok = true → s.frameQuiet asid va (entryPA w) (2 ^ levelBits level) = false → exec .pageMigration s = .next (s.at (s.g + 1) (.pageMigration asid va frame)))
        ∧ (ok = true → s.frameQuiet asid va (entryPA w) (2 ^ levelBits level) = true →
          exec .pageMigration s = .next (({ s with mem := Memory.write (Memory.putBytes s.mem frame (Memory.bytes s.mem (entryPA w) (2 ^ levelBits level))) a 8 (((w &&& ~~~(1#64 <<< 63)) &&& ~~~0x000FFFFFFFFFF000#64) ||| BitVec.ofNat 64 frame).toNat } : State).claimSlice a)))
      ∧ ((∀ level w a, s.walkNow asid va ≠ .leaf level w a ∧ s.walkNow asid va ≠ .absent level w a) → exec .pageMigration s = .next s))
    ∧ (s.ev = some (.heatSweep) →
      ∀ l, l = ((s.liveLeaves.map (·.2)).filter fun a => coolLeaf (Memory.read64 s.mem a) != Memory.read64 s.mem a) →
      exec .heatSweep s = .next (l.foldl (fun (t : State) a => t.claimSlice a) { s with mem := l.foldl (fun m a => Memory.write m a 8 (coolLeaf (Memory.read64 m a)).toNat) s.mem })
      ∧ (l = [] → exec .heatSweep s = .next s))
    ∧ (∀ (off : Nat) (v : W64), s.ev = some (.registerWrite off v) →
      (0x1000 ≤ off → off < 0x1040 → exec .registerWrite s = .next { s with host := { s.host with mbin := s.host.mbin.set ((off - 0x1000) / 8) v } })
      ∧ (0x1080 ≤ off → off < 0x1088 → ∀ u, u = { s with host := { s.host with done := if v.getLsbD 2 then false else s.host.done } } →
        (v.getLsbD 0 = false ∨ s.host.busy = true → exec .registerWrite s = .next u)
        ∧ (v.getLsbD 0 = true → s.host.busy = false → ∃ t c, exec .registerWrite s = .next t ∧ t.agenda = s.agenda ++ [(c, u.commandOf s.host.mbin)] ∧ s.g < c
          ∧ (∀ m : Mail, m = { core := 1, words := s.host.mbin, frame := s.g / Config.frame } → ∀ full, full = decide (16 ≤ (s.mail.filter fun (q : Mail) => q.core == 1).length) →
            (full = false → t.mail = s.mail ++ [m] ∧ t.mailWait = s.mailWait) ∧ (full = true → t.mail = s.mail ∧ t.mailWait = s.mailWait ++ [m])) ∧ t.host = { u.host with busy := true } ∧ t.mem = s.mem ∧ t.seats = s.seats ∧ t.teams = s.teams
          ∧ ((∃ n a, u.commandOf s.host.mbin = .admitSeat n a) ∨ (∃ n a b e f, u.commandOf s.host.mbin = .lease n a b e f) → c / Config.frame ≤ s.g / Config.frame + 1)))
      ∧ (off < 0x1000 ∨ (0x1040 ≤ off ∧ off < 0x1080) ∨ 0x1088 ≤ off → exec .registerWrite s = .next s))
    ∧ (∀ (watts : Nat) (bands : List Nat), s.ev = some (.powerEvaluation watts bands) →
      ∀ u, u = { s.afterPower with power := { s.afterPower.power with bands := bands, may := false } } → ∀ hot, hot = ((bands.any fun b => b == 7) || decide (u.power.cap < watts)) →
      (hot = true → u.floorStep < u.power.step → exec .powerEvaluation s = .next (u.at (nextFrame (u.g + 1)) (.clockStepChange false)))
      ∧ (hot = true → u.power.step ≤ u.floorStep → exec .powerEvaluation s = .next u)
      ∧ (hot = false → 100 * watts < 95 * u.power.cap → bands.all (fun b => decide (b ≤ 5)) = true → u.power.step < 15 →
        exec .powerEvaluation s = .next (({ u with power := { u.power with may := true } } : State).at (nextFrame (u.g + 1)) (.clockStepChange true)))
      ∧ (hot = false → 95 * u.power.cap ≤ 100 * watts ∨ bands.all (fun b => decide (b ≤ 5)) = false ∨ 15 ≤ u.power.step → exec .powerEvaluation s = .next u))
    ∧ (∀ (up : Bool), s.ev = some (.clockStepChange up) →
      (s.g % Config.frame ≠ 0 → exec .clockStepChange s = .next s)
      ∧ (s.g % Config.frame = 0 → up = true → (s.power.step < 15 → exec .clockStepChange s = .next { s with power := { s.power with step := s.power.step + 1 } }) ∧ (15 ≤ s.power.step → exec .clockStepChange s = .next s))
      ∧ (s.g % Config.frame = 0 → up = false → (s.power.step = 0 → exec .clockStepChange s = .next s)
        ∧ (∀ n, s.power.step = n + 1 → exec .clockStepChange s = .next ((s.seats.filter fun (x : Seat) => x.seated && (x.floor.any fun f => f.1 == n + 1)).foldl (fun (t : State) (x : Seat) =>
          t.logEvent x.num 35 ((x.coreList.head?).getD 0) (t.oclk x.num) (BitVec.ofNat 64 n)) { s with power := { s.power with step := n } }))))
    ∧ (∀ (core : Nat) (isSlot : Bool) (slot : Nat), s.ev = some (.fenceLift core isSlot slot) →
      (s.g % Config.frame ≠ 0 ∨ s.isFenced core isSlot slot = false → exec .fenceLift s = .next s)
      ∧ (s.g % Config.frame = 0 → s.isFenced core isSlot slot = true → ∀ u, u = (if isSlot then s.setSlot slot {} else { s with fencedMx := s.fencedMx.filter fun c => c != core }) →
        exec .fenceLift s = .next (((u.servedBy core isSlot slot).foldl (fun (t : State) n =>
          (t.logEvent n 34 core (t.oclk n) (BitVec.ofNat 64 (if isSlot then 0x10000 + slot else core))).once t.g (.rowInject core n)) u).status 0)
        ∧ (isSlot = false → core ∉ u.fencedMx)))
    ∧ (∀ (vf : Nat) (bar : Nat) (off : Nat) (wr : Option (List Byte)) (len : Nat), s.ev = some (.hostBarRequest vf bar off wr len) →
      let n := (wr.map List.length).getD len
      let answer (u : State) (a : Option (List Byte)) : State := { u with link := { u.link with answers := u.link.answers ++ [a] } }
      let error (u : State) (k : Nat) : State := answer { u with link := { u.link with aer := SMap.set 0 u.link.aer vf (SMap.get 0 u.link.aer vf ||| 1#32 <<< k) } } none
      let ask (l : List Phys) : State := s.visit (match wr with
        | some bs => .write bs
        | none => .read) l
      (s.link.numVFs < vf → exec .hostBarRequest s = .next (error s 20))
      ∧ (vf = 0 → bar = 0 → (2 * 2 ^ 20 < off + n → exec .hostBarRequest s = .next (error s 20))
        ∧ (off + n ≤ 2 * 2 ^ 20 → (∀ bs, wr = some bs → exec .hostBarRequest s = .next (s.bar0Write off bs))
          ∧ (wr = none → exec .hostBarRequest s = .next (answer { s with draws := s.draws + 1 } (some ((List.range n).map fun k => s.bar0Byte (off + k)))))))
      ∧ (vf = 0 → bar = 2 → (Config.deviceBytes < off + n → exec .hostBarRequest s = .next (error s 20))
        ∧ (off + n ≤ Config.deviceBytes → exec .hostBarRequest s = .next (ask ((List.range n).map fun k => .dev (off + k)))))
      ∧ (vf ≠ 0 → bar = 0 → vf ≤ s.link.numVFs → (4096 < off + n → exec .hostBarRequest s = .next (error s 20))
        ∧ (off + n ≤ 4096 → (∀ bs, wr = some bs → exec .hostBarRequest s = .next (if off % 4 ≠ 0 then s else (wordsAt off bs).foldl (fun (t : State) p => t.pageWrite vf p.1 p.2) s))
          ∧ (wr = none → exec .hostBarRequest s = .next (answer { s with draws := s.draws + 1 } (some ((List.range n).map fun k => s.pageByte vf (off + k)))))))
      ∧ (vf ≠ 0 → bar = 2 → vf ≤ s.link.numVFs → (64 * 2 ^ 30 < off + n → exec .hostBarRequest s = .next (error s 20))
        ∧ (off + n ≤ 64 * 2 ^ 30 → (s.rootAsid vf = none → exec .hostBarRequest s = .next (answer s none))
          ∧ (∀ x asid l, s.rootAsid vf = some (x, asid) → s.barPlaces asid (if wr.isSome then .write else .read) n off = some l → exec .hostBarRequest s = .next (ask l))
          ∧ (∀ x asid, s.rootAsid vf = some (x, asid) → s.barPlaces asid (if wr.isSome then .write else .read) n off = none →
            exec .hostBarRequest s = .next (error (s.logEvent x.num 33 ((x.coreList.head?).getD 0) (s.oclk x.num) (BitVec.ofNat 64 off)) 15))))
      ∧ (bar ≠ 0 → bar ≠ 2 → 0 < off + n → exec .hostBarRequest s = .next (error s 20))
      ∧ (∀ (k : Inbound) (l : List Phys), l ≠ [] → (∀ p ∈ l, p.isDev = true) → ∀ lines, lines = (l.map Phys.lineNo).eraseDups →
        ∃ (id : Nat) (qs : List Req), (s.visit k l).visits = s.visits ++ [{ id := id, kind := k, places := l, got := [], left := lines.length }]
          ∧ (s.visit k l).reqs = s.reqs ++ qs ∧ qs.map (fun (r : Req) => r.place) = lines.map (fun j => Phys.dev (128 * j))
          ∧ (∀ r ∈ qs, r.kind = .visit ∧ r.owner = id ∧ r.seat = 15) ∧ SameBytes s (s.visit k l))
      ∧ (∀ (r : Req) (v : Visit) (u : State), u = s.dropReq r.id → u.visits.find? (fun (v : Visit) => v.id == r.owner) = some v →
        ∀ here, here = v.inLine r.place.lineNo → ∀ got, got = v.got ++ here.map (fun q => (q.1, BitVec.ofNat 8 (Memory.read u.mem q.2 1))) →
        ∀ vs, vs = (if v.left ≤ 1 then u.visits.filter (fun (w : Visit) => w.id != v.id)
          else u.visits.map (fun (w : Visit) => if w.id = v.id then { w with got := got, left := w.left - 1 } else w)) → ∀ t : State, t = { u with visits := vs } →
        (∀ bs k a l, v.kind = .write bs → here = (k, a) :: l → s.visited r = t.hostWrite a ((bs.drop k).take (l.length + 1)))
        ∧ (v.kind = .read → 1 < v.left → s.visited r = t)
        ∧ (v.kind = .read → v.left ≤ 1 → s.visited r = answer t (some ((sortBy (fun (a b : Nat × Byte) => decide (a.1 < b.1)) got).map (·.2))))))
    ∧ (∀ (vf : Nat) (p : Nat) (va : Nat) (n : Nat), s.ev = some (.atsInvalidationRequest vf p va n) →
      let answer (u : State) : State := { u with link := { u.link with answers := u.link.answers ++ [some []] } }
      let mine (e : Nat × Nat × Nat × Nat × Nat) : Bool := e.1 == vf && e.2.1 == p && e.2.2.1 == va && e.2.2.2.1 == n
      (s.seatOfVf vf = none → exec .atsInvalidationRequest s = .next (answer s))
      ∧ (∀ x, s.seatOfVf vf = some x → (s.link.inval.find? mine = none →
          ((List.range 1024).any (fun a => s.boundTo x vf p a) = false → exec .atsInvalidationRequest s = .next (answer s))
          ∧ (∀ u, (List.range 1024).any (fun a => s.boundTo x vf p a) = true → u = s.dropAts x.num vf p va n →
            exec .atsInvalidationRequest s = .next (({ u with link := { u.link with inval := u.link.inval ++ [(vf, p, va, n, u.nextId)] } } : State).now (.atsInvalidationRequest vf p va n))))
        ∧ (∀ e, s.link.inval.find? mine = some e →
          (s.settledBefore x.num e.2.2.2.2 = true → exec .atsInvalidationRequest s = .next (answer { s with link := { s.link with inval := s.link.inval.filter fun e => !(mine e) } }))
          ∧ (s.settledBefore x.num e.2.2.2.2 = false → exec .atsInvalidationRequest s = .next (s.at (s.g + 1) (.atsInvalidationRequest vf p va n))))))
    ∧ (∀ (port : Nat) (a : Nat) (len : Nat) (kind : Inbound), s.ev = some (.colalmInboundRequest port a len kind) →
      let n := match kind with
        | .read => len
        | .write bs => bs.length
        | .atomic op _ _ => aopBytes op
      let answer (u : State) (a : Option (List Byte)) : State := { u with link := { u.link with answers := u.link.answers ++ [a] } }
      ∀ up, (up = true ↔ (∃ l, s.host.links[port]? = some l ∧ l.1 = 2) ∧ a + n ≤ Config.deviceBytes
          ∧ ∃ w ∈ s.windows, w.port = port ∧ w.base ≤ a ∧ a + n ≤ w.base + w.len ∧ (if kind = .read then w.rd = true else w.wr = true)) →
      (up = false → exec .colalmInboundRequest s = .next (answer s none))
      ∧ (up = true → exec .colalmInboundRequest s = .next (s.visit kind ((List.range n).map fun k => .dev (a + k))))
      ∧ (∀ (r : Req) (v : Visit) (u : State) (op : AOp) (w nw : W64) (b : Nat) (l : List Phys), u = s.dropReq r.id → u.visits.find? (fun (v : Visit) => v.id == r.owner) = some v →
        v.kind = .atomic op w nw → v.places = .dev b :: l → v.left ≤ 1 → ∀ x, x = Memory.read u.mem b (aopBytes op) →
        s.visited r = answer (({ u with visits := u.visits.filter fun (k : Visit) => k.id != v.id } : State).hostWrite b
          (bytesOf (aopBytes op) (aopNew op (BitVec.ofNat 64 x) w nw).toNat)) (some (bytesOf (aopBytes op) x))))
    ∧ (∀ (w : Nat) (r : Nat), s.ev = some (.linkRetrain w r) →
      (w ∈ [16, 8, 4] → r ∈ [128, 64, 32] → ∀ till, till = s.g + Config.firmwareDelay s.draws →
        exec .linkRetrain s = .next (({ s with
          draws := s.draws + 1
          link := { s.link with width := w, rate := r, flit := r != 32, retrain := till }
          agenda := s.agenda.map fun e => match e.2 with
            | .loadReply id | .storeAcknowledge id =>
              if (s.findReq id).any fun (q : Req) => q.place.isHost && q.hops == [] then (max e.1 till, e.2) else e
            | _ => e } : State).scheduleAll))
      ∧ (w ∉ [16, 8, 4] ∨ r ∉ [128, 64, 32] → exec .linkRetrain s = .next s))
    ∧ (∀ (i : Nat) (n : Nat), s.ev = some (.spdmRequest i n) →
      let seated := sortBy (fun (a b : Seat) => decide (a.num < b.num)) (s.seats.filter fun (x : Seat) => x.seated)
      (1 ≤ i → i ≤ 4 → ∀ m, (i = 4 ∧ m = Config.digest (seated.flatMap fun (x : Seat) => x.pl.raw))
          ∨ (i ≠ 4 ∧ ¬(i = 2 ∧ s.host.dstate = 4 ∧ s.host.failCode = 1) ∧ m = Config.measurement i) ∨ (i = 2 ∧ s.host.dstate = 4 ∧ s.host.failCode = 1 ∧ m = Config.measurement 0) →
        exec .spdmRequest s = .next { s with link := { s.link with reports := s.link.reports ++ [(i, n, m + 2 ^ 512 * Config.signature m n)] } })
      ∧ (i = 0 ∨ 4 < i → exec .spdmRequest s = .next s))
    ∧ (s.ev = some (.mctpStatus) →
      exec .mctpStatus s = .next { s with link := { s.link with reports := s.link.reports ++ [(0, 0, s.statusReply.foldr (fun (w : W64) n => w.toNat + 2 ^ 64 * n) 0)] } }
      ∧ s.statusReply.take 2 = [0, s.readReg 0x1088] ∧ s.statusReply.length = 8
      ∧ s.readReg 0x1088 = BitVec.ofNat 64 (s.host.failUnit % 256 * 65536 + s.host.failCode % 256 * 256 + s.host.dstate % 8))
    ∧ (∀ (p : Nat) (up : Bool) (peer : Nat), s.ev = some (.colalmTraining p up peer) →
      let set (u : State) (v : Nat × Nat) : State := { u with host := { u.host with links := u.host.links.set p v } }
      (((s.host.links[p]?).map (·.1)) = some 1 → exec .colalmTraining s = .next (set s (if up then (2, peer % 256) else (0, 0))))
      ∧ (((s.host.links[p]?).map (·.1)) ≠ some 1 → exec .colalmTraining s = .next ((set { s with draws := s.draws + 1 } (1, 0)).at (s.g + 1 + Config.firmwareDelay s.draws) (.colalmTraining p up peer)))
      ∧ (p < s.host.links.length → ∀ b u, u = set s (1, b) → p < 8 → u.readReg (0x1100 + 8 * p) = BitVec.ofNat 64 (b % 256 * 256 + 1)))
    ∧ (∀ (vf : Nat) (n : Nat) (v : Nat), s.ev = some (.configurationRequest vf n v) →
      (vf = 0 → exec .configurationRequest s = .next { s with link := { s.link with numVFs := min n 63, vectors := SMap.set 0 s.link.vectors 0 (min v 64) } })
      ∧ (1 ≤ vf → vf ≤ 63 → exec .configurationRequest s = .next { s with link := { s.link with vectors := SMap.set 0 s.link.vectors vf (min v 64) } })
      ∧ (63 < vf → exec .configurationRequest s = .next s))

/-- vmul v3, v1, 3 with its chain bit; saddi s10, s1, 128; br -2; vif c7; vregrp c2, v16, 2, 1; vfma.ru v4, v1, v2 as the table of the float chapter; vcvt.f8m.f32 v6, v1; vsts.x32; vst.x32; vatoms.cas.x32.team; bar.arrive.rel.team s12; gth s24, 0; cp.s2g s24, 0; xmm.s8 v12, 0; sg.arm.ge.z s22, s21, 0; trap 7; mfsys s9, %tword; eret; exit; vend. (R181, R182, R183, R213, R246, R255, R305, R342) -/
def Obligations.SpecWordsDecode : Prop :=
  decodeWord 0x9206070C = .ok ⟨true, .vmul 3 1 (.imm 3)⟩ ∧ decodeWord 0x02281080 = .ok ⟨false, .saddi 10 1 128⟩
  ∧ decodeWord 0x4007FFFE = .ok ⟨false, .br 0x7FFFE⟩ ∧ decodeWord 0x44E00000 = .ok ⟨false, .vif 7⟩
  ∧ decodeWord 0x39202801 = .ok ⟨false, .vregrp 16 1 2 1⟩ ∧ decodeWord 0x2308040A = .ok ⟨false, .vfma 4 1 (.vreg 2) .ru⟩
  ∧ decodeWord 0x300C0450 = .ok ⟨false, .vcvt 6 1 .f32 .f8m .rne⟩
  ∧ decodeWord 0x580A0038 = .ok ⟨false, .vsts 5 0 3 .x32⟩ ∧ decodeWord 0x520C0848 = .ok ⟨false, .vst 6 1 4 .x32 .normal⟩
  ∧ decodeWord 0x631C3650 = .ok ⟨false, .vatoms 14 13 .cas32 .team .rlx⟩
  ∧ decodeWord 0x65300520 = .ok ⟨false, .barArrive 12 .team true⟩ ∧ decodeWord 0x71600000 = .ok ⟨false, .gth 24 0⟩
  ∧ decodeWord 0x70600400 = .ok ⟨false, .cpS2g 24 0⟩ ∧ decodeWord 0x7B181C00 = .ok ⟨false, .xmm 12 0 .s8 false false⟩
  ∧ decodeWord 0x3E595000 = .ok ⟨false, .sgArm 22 21 .geZ 0⟩ ∧ decodeWord 0x4A000007 = .ok ⟨false, .trap 7⟩
  ∧ decodeWord 0x7F244041 = .ok ⟨false, .mfsys 9 0x101⟩ ∧ decodeWord 0x7F000000 = .ok ⟨false, .eret⟩
  ∧ decodeWord 0x49000000 = .ok ⟨false, .exit⟩ ∧ decodeWord 0x46000000 = .ok ⟨false, .vend⟩

/-- For every well-formed instruction of the whole table and either chain bit (nop takes none), the word that the encoding writes for it decodes to exactly that instruction with exactly that chain bit. An event of the table has no word. (R176, R179, R181, R182, R183, R342) -/
def Obligations.EncodeThenDecode : Prop :=
  ∀ (i : Instr) (chain : Bool) (W : Nat), i.wellFormed = true → (i = .nop → chain = false) → encode ⟨chain, i⟩ = some W →
    decodeWord W = .ok ⟨chain, i⟩

/-- No two words decode to one instruction with one chain bit, no bit of a legal word is dropped, and no reserved bit or field value slips through: a word that decodes is exactly the word that the encoding writes for the instruction, and the instruction is well formed. (R176, R179, R181, R182, R183, R185, R186) -/
def Obligations.DecodeThenEncode : Prop :=
  ∀ (W : Nat) (x : Word1), W < 2 ^ 32 → decodeWord W = .ok x → encode x = some W ∧ x.instr.wellFormed = true

/-- What a core picks to run is the unit at the slot of the split in the packet fetched at its program counter, without the nops that end the packet, in the state with that split in focus. A unit of one word that decodes to an instruction: when nothing it reads has an uncorrectable error, the step is exec of that instruction in the focused state, moved on behind the unit with the word loaded (single-bit errors in what it reads corrected first: with none, that very state), then (unless a trap that is not a software trap was taken) the retirement of the unit, then the end of the turn. A unit of several words runs its words in order the same way. (R42, R44, R45, R76, R178, R186, R188) -/
def Obligations.StepRunsTheDecodedWord : Prop :=
  ∀ (s : State) (c : Cand) (f : State) (us : List UWord), s.nextDue = none → s.pick = some (c, f, .run us) →
    (∃ ws, s.fetch c.team c.group c.split.fetched c.split.pkt = .ok ws
      ∧ us = (unitAt ws c.split.slot).filter (fun u => !(onlyNops ws u.slot))
      ∧ f = (s.focusOn c (wordAt ws 3) (((unitAt ws c.split.slot).getLast?).elim c.split.slot (·.slot))).keepCode c.split.pkt.toNat)
    ∧ step s = onNext (runUnit exec f us) (fun r => r.endTurn c us)
    ∧ ∀ (u : UWord) (x : Word1), us = [u] → decodeWord u.word.toNat = .ok x →
      let g := f.advance.load u
      (uncorrectables g u.word x.instr = [] →
        step s = onNext (exec x.instr (g.correct u.word x.instr)) (fun r =>
          (match r.cur.trap with
            | none => r.retireUnit [x.instr]
            | some t => if t.after then r.retireUnit [x.instr] else r).endTurn c [u]))
      ∧ (g.srcG.flips = [] → g.cur.team.sflips = [] → g.correct u.word x.instr = g)

/-- An event is run when it stands in the agenda at or before this cycle, its seat is not stopped, and no such entry has a lower rank (the order of ranks is the model's, log 41); it leaves the agenda and the step is exec of its row. With no event due and no core issuing, the device cycle rises by one, memory, teams and seats stay, and in the first cycle of a frame the frame boundary is due. (R11, R23) -/
def Obligations.StepRunsTheNextEvent : Prop :=
  ∀ s : State,
    (∀ e, s.nextDue = some e → step s = onNext (exec e.2.row (s.take e)) State.clear ∧ e ∈ s.agenda ∧ e.1 ≤ s.g ∧ s.holdsEvent e.2 = false
      ∧ (∀ d, d ∈ s.agenda → d.1 ≤ s.g → s.holdsEvent d.2 = false → s.rank e.2 ≤ s.rank d.2)
      ∧ (s.take e).ev = some e.2 ∧ (s.take e).agenda = s.agenda.erase e ∧ (s.take e).cur = s.cur ∧ (s.take e).teams = s.teams)
    ∧ (s.nextDue = none → ∀ d, d ∈ s.agenda → d.1 ≤ s.g → s.holdsEvent d.2 = true)
    ∧ (s.nextDue = none → s.pick = none → ∃ t, step s = .next t ∧ t.g = s.g + 1 ∧ t.issued = [] ∧ SameBytes s t ∧ t.cur = s.cur ∧ t.seats = s.seats ∧ t.ops = s.ops
      ∧ ((s.g + 1) % Config.frame = 0 → t.agenda = (s.g + 1, .frameBoundary) :: s.agenda) ∧ ((s.g + 1) % Config.frame ≠ 0 → t.agenda = s.agenda))

/-- At user level with a handler: %tpc names the word, %tret the place of the rule, %tkind, %tword, %tdone and %tlog hold what the rules say, the counters stand in %tnestsave and are 0, one supervisor split of all lanes stands at the handler packet, slot 0, nothing ready for 24 cycles; the code of the handler is that of the memories at entry; registers, banks, counts and memory stay. At supervisor level (a deferred trap of a word that issued there among them), or with no handler, nothing is entered and the team halts, with reason 0xFFFF or 0xFFFB (the model's reading of the record, log 11). The return brings the level, the counters (255 for a lane retired at entry) and the splits back, the trapped one at %tret; entry and return together restore every counter. (R49, R178, R330, R331, R333, R335, R336, R337, R339, R343) -/
def Obligations.TrapEntryAndReturn : Prop :=
  (∀ (s : State) (t : TrapReq) (defer : Bool) (h : W64), t.sup = false → s.cur.group.level = .user → s.cur.team.region.handler = some h →
    let u := s.takeTrap t defer
    let g := s.cur.group
    let r := if t.after then (s.cur.nextPkt, s.cur.nextSlot) else (s.cur.pkt, s.cur.unitSlot)
    u.cur.group.level = .supervisor
      ∧ u.cur.group.trap.tpc = placeBits t.pkt t.slot ∧ u.cur.group.trap.tret = placeBits r.1 r.2
      ∧ u.cur.group.trap.tkind = BitVec.ofNat 64 (trapCode t.kind + t.cause % 16 * 256 + t.lane % 32 * 65536 + bit defer * 16777216)
      ∧ u.cur.group.trap.tword = t.word.zeroExtend 64 ∧ u.cur.group.trap.tdone = t.done.zeroExtend 64
      ∧ u.cur.group.trap.tlog = BitVec.ofNat 64 (t.logIndex % 8 + s.logCount s.cur.team.id g.gid % 8 * 16)
      ∧ (∀ q, q < 4 → SMap.get 0 u.cur.group.trap.nestsave q = nestBits g.regs q)
      ∧ (∀ L, u.cur.group.regs.getN L = 0) ∧ u.cur.group.regs = { g.regs with nest := [] } ∧ u.cur.group.trap.ksc = g.trap.ksc
      ∧ u.cur.group.splits = [{ idx := 0, lanes := BitVec.allOnes 32, pkt := h &&& ~~~15#64, slot := 0 }]
      ∧ u.cur.group.kept = g.splits ∧ u.cur.group.notBefore = s.g + 24
      ∧ u.cur.group.handlerCode = some { at_ := s.store } ∧ u.cur.group.banks = g.banks ∧ u.cur.group.counts = g.counts ∧ SameBytes s u ∧ u.ops = s.ops ∧ u.seats = s.seats)
  ∧ (∀ (s : State) (t : TrapReq) (defer : Bool), s.cur.live = true → s.cur.team.halting = none →
    (t.sup = true ∨ s.cur.group.level = .supervisor → (s.takeTrap t defer).cur.team.halting = some 0xFFFF ∧ (s.takeTrap t defer).cur.group = s.cur.group)
    ∧ (t.sup = false → s.cur.group.level = .user → s.cur.team.region.handler = none →
        (s.takeTrap t defer).cur.team.halting = some 0xFFFB ∧ (s.takeTrap t defer).cur.group = s.cur.group))
  ∧ (∀ (g : Group) (n : Nat), (g.leaveTrap n).level = .user ∧ (g.leaveTrap n).kept = [] ∧ (g.leaveTrap n).notBefore = n + 24
      ∧ (g.leaveTrap n).regs.s = g.regs.s ∧ (g.leaveTrap n).regs.v = g.regs.v ∧ (g.leaveTrap n).regs.c = g.regs.c
      ∧ (g.leaveTrap n).splits = g.kept.map (fun p => if p.idx = g.trapSplit then
          { p with pkt := g.trap.tret &&& ~~~15#64, slot := (g.trap.tret &&& 3#64).toNat } else p)
      ∧ ∀ L, L < 32 → (g.leaveTrap n).regs.getN L = if g.retired.getLsbD L then 255
          else BitVec.truncate 8 (SMap.get 0 g.trap.nestsave (L / 8) >>> (8 * (L % 8))))
  ∧ (∀ (g : Group) (t : TrapReq) (defer : Bool) (pkt h : W64) (slot k sp m n : Nat) (mem : Store), ∀ L, L < 32 →
      ((g.enterTrap t defer pkt slot k sp h mem m).leaveTrap n).regs.getN L = g.regs.getN L)

/-- Right after reset the device cycle is 0, no event is due, no team, grid, operation, request, seat or queue exists, DEVSTAT reads Reset, no mailbox command is in hand and every memory has its canonical form. The contents of memory at reset are the model's choice (log 1). (R11, R330, R398, R402, R409, R410) -/
def Obligations.ResetState : Prop :=
  State.reset.g = 0 ∧ State.reset.agenda = [] ∧ State.reset.teams = [] ∧ State.reset.grids = [] ∧ State.reset.ops = [] ∧ State.reset.reqs = []
  ∧ State.reset.seats = [] ∧ State.reset.queues = [] ∧ State.reset.completions = [] ∧ State.reset.host.dstate = 0 ∧ State.reset.mail = []
  ∧ State.reset.host.busy = false ∧ State.reset.cur.live = false ∧ State.reset.ev = none ∧ State.reset.memWf = true

/-- Writing n bytes keeps the canonical form of memory, reads back as the value modulo 256^n, and leaves every byte outside. When a store request performs, every byte outside the places of its lanes reads as before, and each lane whose bytes no higher lane of the request also writes reads back as its data, low byte first. (R6, R110, R128, R155, R246) -/
def Obligations.StoresWriteTheirLanesAlone : Prop :=
  (∀ (m : Memory) (a n v : Nat), Memory.wf m = true → Memory.wf (Memory.write m a n v) = true
    ∧ Memory.read (Memory.write m a n v) a n = v % 256 ^ n
    ∧ ∀ b, b < a ∨ a + n ≤ b → Memory.get (Memory.write m a n v) b = Memory.get m b)
  ∧ (∀ (s : State) (r : Req) (o : Op) (sp : Space) (n : Nat), s.findOp r.owner = some o → o.kind = .store sp n →
    let t := s.doStore r
    (∀ p, (∀ L, L ∈ lanesOf r.lanes → ∀ k, k < n → (laneAt r o L).add k ≠ p) → (p.isPeer = true → p.addr < 2 ^ 45 ∧ r.place.addr + 128 + n ≤ 2 ^ 45) → t.readAt p 1 = s.readAt p 1)
    ∧ (s.memWf = true → ∀ L, L ∈ lanesOf r.lanes →
        (∀ K, K ∈ lanesOf r.lanes → L < K → ∀ j k, j < n → k < n → (laneAt r o K).add j ≠ (laneAt r o L).add k) →
        t.readAt (laneAt r o L) n = (SMap.get 0 o.x L).toNat % 256 ^ n))

/-- From every state with no split in focus, reachable or not, a step answers a next state, and that state has none in focus: each event that is due and each unit that a core picks, legal or illegal, trapping or not, runs to its end. The focus is the model's own means of running a unit (log 100). (R7, R43, R44, R186, R338) -/
def Obligations.EveryStepCompletes : Prop :=
  ∀ s : State, s.cur.live = false → ∃ t, step s = .next t ∧ t.cur.live = false

/-- If every memory of a state (device, host, peers, each team's scratchpad and buffers) has its canonical form, addresses strictly rising and no byte listed that an unlisted address reads as, so has every memory of the next state. The form is the model's representation of memory. (R6, R110, R128) -/
def Obligations.StepKeepsMemoryForm : Prop :=
  ∀ s t : State, s.memWf = true → step s = .next t → t.memWf = true
end

