-- ==== Sys2Proof/Laws/Exec.lean ====
section
/-!
SUPPORT. One equation for each constructor: the meaning that `exec` calls, and the registers that a word names (`uses`), so that
no proof unfolds the dispatch.
-/

namespace Sys2Proof.Laws

open Sys2Proof Sys2Proof.Machine

/-! ### The meaning of each instruction -/

@[simp] theorem exec_nop (s : State) : exec .nop s = execNop s := rfl
@[simp] theorem exec_sadd (d : SReg) (a : SReg) (b : SReg) (s : State) : exec (.sadd d a b) s = execSadd d a b s := rfl
@[simp] theorem exec_ssub (d : SReg) (a : SReg) (b : SReg) (s : State) : exec (.ssub d a b) s = execSsub d a b s := rfl
@[simp] theorem exec_smul (d : SReg) (a : SReg) (b : SReg) (s : State) : exec (.smul d a b) s = execSmul d a b s := rfl
@[simp] theorem exec_smulhS (d : SReg) (a : SReg) (b : SReg) (s : State) : exec (.smulhS d a b) s = execSmulhS d a b s := rfl
@[simp] theorem exec_smulhZ (d : SReg) (a : SReg) (b : SReg) (s : State) : exec (.smulhZ d a b) s = execSmulhZ d a b s := rfl
@[simp] theorem exec_sand (d : SReg) (a : SReg) (b : SReg) (s : State) : exec (.sand d a b) s = execSand d a b s := rfl
@[simp] theorem exec_sor (d : SReg) (a : SReg) (b : SReg) (s : State) : exec (.sor d a b) s = execSor d a b s := rfl
@[simp] theorem exec_sxor (d : SReg) (a : SReg) (b : SReg) (s : State) : exec (.sxor d a b) s = execSxor d a b s := rfl
@[simp] theorem exec_sshl (d : SReg) (a : SReg) (b : SReg) (s : State) : exec (.sshl d a b) s = execSshl d a b s := rfl
@[simp] theorem exec_sshrZ (d : SReg) (a : SReg) (b : SReg) (s : State) : exec (.sshrZ d a b) s = execSshrZ d a b s := rfl
@[simp] theorem exec_sshrS (d : SReg) (a : SReg) (b : SReg) (s : State) : exec (.sshrS d a b) s = execSshrS d a b s := rfl
@[simp] theorem exec_sminS (d : SReg) (a : SReg) (b : SReg) (s : State) : exec (.sminS d a b) s = execSminS d a b s := rfl
@[simp] theorem exec_smaxS (d : SReg) (a : SReg) (b : SReg) (s : State) : exec (.smaxS d a b) s = execSmaxS d a b s := rfl
@[simp] theorem exec_sminZ (d : SReg) (a : SReg) (b : SReg) (s : State) : exec (.sminZ d a b) s = execSminZ d a b s := rfl
@[simp] theorem exec_smaxZ (d : SReg) (a : SReg) (b : SReg) (s : State) : exec (.smaxZ d a b) s = execSmaxZ d a b s := rfl
@[simp] theorem exec_ssltS (d : SReg) (a : SReg) (b : SReg) (s : State) : exec (.ssltS d a b) s = execSsltS d a b s := rfl
@[simp] theorem exec_ssltZ (d : SReg) (a : SReg) (b : SReg) (s : State) : exec (.ssltZ d a b) s = execSsltZ d a b s := rfl
@[simp] theorem exec_sseq (d : SReg) (a : SReg) (b : SReg) (s : State) : exec (.sseq d a b) s = execSseq d a b s := rfl
@[simp] theorem exec_saddi (d : SReg) (a : SReg) (i : BitVec 12) (s : State) : exec (.saddi d a i) s = execSaddi d a i s := rfl
@[simp] theorem exec_sandi (d : SReg) (a : SReg) (i : BitVec 12) (s : State) : exec (.sandi d a i) s = execSandi d a i s := rfl
@[simp] theorem exec_sori (d : SReg) (a : SReg) (i : BitVec 12) (s : State) : exec (.sori d a i) s = execSori d a i s := rfl
@[simp] theorem exec_sxori (d : SReg) (a : SReg) (i : BitVec 12) (s : State) : exec (.sxori d a i) s = execSxori d a i s := rfl
@[simp] theorem exec_sshli (d : SReg) (a : SReg) (n : Fin 64) (s : State) : exec (.sshli d a n) s = execSshli d a n s := rfl
@[simp] theorem exec_sshriZ (d : SReg) (a : SReg) (n : Fin 64) (s : State) : exec (.sshriZ d a n) s = execSshriZ d a n s := rfl
@[simp] theorem exec_sshriS (d : SReg) (a : SReg) (n : Fin 64) (s : State) : exec (.sshriS d a n) s = execSshriS d a n s := rfl
@[simp] theorem exec_slit (d : SReg) (i : BitVec 18) (s : State) : exec (.slit d i) s = execSlit d i s := rfl
@[simp] theorem exec_slitwZ (d : SReg) (s : State) : exec (.slitwZ d) s = execSlitwZ d s := rfl
@[simp] theorem exec_slitwS (d : SReg) (s : State) : exec (.slitwS d) s = execSlitwS d s := rfl
@[simp] theorem exec_slitwLo (d : SReg) (s : State) : exec (.slitwLo d) s = execSlitwLo d s := rfl
@[simp] theorem exec_slitwHi (d : SReg) (s : State) : exec (.slitwHi d) s = execSlitwHi d s := rfl
@[simp] theorem exec_sgetsr (d : SReg) (n : Fin 4096) (s : State) : exec (.sgetsr d n) s = execSgetsr d n s := rfl
@[simp] theorem exec_ssetsr (a : SReg) (n : Fin 4096) (s : State) : exec (.ssetsr a n) s = execSsetsr a n s := rfl
@[simp] theorem exec_ssetsrSet (a : SReg) (n : Fin 4096) (s : State) : exec (.ssetsrSet a n) s = execSsetsrSet a n s := rfl
@[simp] theorem exec_ssetsrClr (a : SReg) (n : Fin 4096) (s : State) : exec (.ssetsrClr a n) s = execSsetsrClr a n s := rfl
@[simp] theorem exec_scmpEq (d : CReg) (a : SReg) (b : SReg) (s : State) : exec (.scmpEq d a b) s = execScmpEq d a b s := rfl
@[simp] theorem exec_scmpNe (d : CReg) (a : SReg) (b : SReg) (s : State) : exec (.scmpNe d a b) s = execScmpNe d a b s := rfl
@[simp] theorem exec_scmpLtS (d : CReg) (a : SReg) (b : SReg) (s : State) : exec (.scmpLtS d a b) s = execScmpLtS d a b s := rfl
@[simp] theorem exec_scmpLeS (d : CReg) (a : SReg) (b : SReg) (s : State) : exec (.scmpLeS d a b) s = execScmpLeS d a b s := rfl
@[simp] theorem exec_scmpLtZ (d : CReg) (a : SReg) (b : SReg) (s : State) : exec (.scmpLtZ d a b) s = execScmpLtZ d a b s := rfl
@[simp] theorem exec_scmpLeZ (d : CReg) (a : SReg) (b : SReg) (s : State) : exec (.scmpLeZ d a b) s = execScmpLeZ d a b s := rfl
@[simp] theorem exec_sext (d : SReg) (a : VReg) (w : ExtW) (l : Fin 32) (s : State) : exec (.sext d a w l) s = execSext d a w l s := rfl
@[simp] theorem exec_sextFirst (d : SReg) (a : VReg) (w : ExtW) (s : State) : exec (.sextFirst d a w) s = execSextFirst d a w s := rfl
@[simp] theorem exec_sextLast (d : SReg) (a : VReg) (w : ExtW) (s : State) : exec (.sextLast d a w) s = execSextLast d a w s := rfl
@[simp] theorem exec_vins (d : VReg) (a : SReg) (w : InsW) (l : Fin 32) (s : State) : exec (.vins d a w l) s = execVins d a w l s := rfl
@[simp] theorem exec_vinsAll (d : VReg) (a : SReg) (w : InsW) (s : State) : exec (.vinsAll d a w) s = execVinsAll d a w s := rfl
@[simp] theorem exec_vadd (d : VReg) (a : VReg) (b : BSel) (s : State) : exec (.vadd d a b) s = execVadd d a b s := rfl
@[simp] theorem exec_vaddSatS (d : VReg) (a : VReg) (b : BSel) (s : State) : exec (.vaddSatS d a b) s = execVaddSatS d a b s := rfl
@[simp] theorem exec_vaddSatZ (d : VReg) (a : VReg) (b : BSel) (s : State) : exec (.vaddSatZ d a b) s = execVaddSatZ d a b s := rfl
@[simp] theorem exec_vsub (d : VReg) (a : VReg) (b : BSel) (s : State) : exec (.vsub d a b) s = execVsub d a b s := rfl
@[simp] theorem exec_vsubSatS (d : VReg) (a : VReg) (b : BSel) (s : State) : exec (.vsubSatS d a b) s = execVsubSatS d a b s := rfl
@[simp] theorem exec_vsubSatZ (d : VReg) (a : VReg) (b : BSel) (s : State) : exec (.vsubSatZ d a b) s = execVsubSatZ d a b s := rfl
@[simp] theorem exec_vmul (d : VReg) (a : VReg) (b : BSel) (s : State) : exec (.vmul d a b) s = execVmul d a b s := rfl
@[simp] theorem exec_vmulhS (d : VReg) (a : VReg) (b : BSel) (s : State) : exec (.vmulhS d a b) s = execVmulhS d a b s := rfl
@[simp] theorem exec_vmulhZ (d : VReg) (a : VReg) (b : BSel) (s : State) : exec (.vmulhZ d a b) s = execVmulhZ d a b s := rfl
@[simp] theorem exec_vminS (d : VReg) (a : VReg) (b : BSel) (s : State) : exec (.vminS d a b) s = execVminS d a b s := rfl
@[simp] theorem exec_vminZ (d : VReg) (a : VReg) (b : BSel) (s : State) : exec (.vminZ d a b) s = execVminZ d a b s := rfl
@[simp] theorem exec_vmaxS (d : VReg) (a : VReg) (b : BSel) (s : State) : exec (.vmaxS d a b) s = execVmaxS d a b s := rfl
@[simp] theorem exec_vmaxZ (d : VReg) (a : VReg) (b : BSel) (s : State) : exec (.vmaxZ d a b) s = execVmaxZ d a b s := rfl
@[simp] theorem exec_vand (d : VReg) (a : VReg) (b : BSel) (s : State) : exec (.vand d a b) s = execVand d a b s := rfl
@[simp] theorem exec_vor (d : VReg) (a : VReg) (b : BSel) (s : State) : exec (.vor d a b) s = execVor d a b s := rfl
@[simp] theorem exec_vxor (d : VReg) (a : VReg) (b : BSel) (s : State) : exec (.vxor d a b) s = execVxor d a b s := rfl
@[simp] theorem exec_vandn (d : VReg) (a : VReg) (b : BSel) (s : State) : exec (.vandn d a b) s = execVandn d a b s := rfl
@[simp] theorem exec_vshl (d : VReg) (a : VReg) (b : BSel) (s : State) : exec (.vshl d a b) s = execVshl d a b s := rfl
@[simp] theorem exec_vshrZ (d : VReg) (a : VReg) (b : BSel) (s : State) : exec (.vshrZ d a b) s = execVshrZ d a b s := rfl
@[simp] theorem exec_vshrS (d : VReg) (a : VReg) (b : BSel) (s : State) : exec (.vshrS d a b) s = execVshrS d a b s := rfl
@[simp] theorem exec_vrot (d : VReg) (a : VReg) (b : BSel) (s : State) : exec (.vrot d a b) s = execVrot d a b s := rfl
@[simp] theorem exec_vlut3 (d : VReg) (a : VReg) (b : BSel) (s : State) : exec (.vlut3 d a b) s = execVlut3 d a b s := rfl
@[simp] theorem exec_vpopc (d : VReg) (a : VReg) (s : State) : exec (.vpopc d a) s = execVpopc d a s := rfl
@[simp] theorem exec_vclz (d : VReg) (a : VReg) (s : State) : exec (.vclz d a) s = execVclz d a s := rfl
@[simp] theorem exec_vctz (d : VReg) (a : VReg) (s : State) : exec (.vctz d a) s = execVctz d a s := rfl
@[simp] theorem exec_vbrev (d : VReg) (a : VReg) (s : State) : exec (.vbrev d a) s = execVbrev d a s := rfl
@[simp] theorem exec_vbfxZ (d : VReg) (a : VReg) (b : BSel) (s : State) : exec (.vbfxZ d a b) s = execVbfxZ d a b s := rfl
@[simp] theorem exec_vbfxS (d : VReg) (a : VReg) (b : BSel) (s : State) : exec (.vbfxS d a b) s = execVbfxS d a b s := rfl
@[simp] theorem exec_vbfi (d : VReg) (a : VReg) (b : BSel) (s : State) : exec (.vbfi d a b) s = execVbfi d a b s := rfl
@[simp] theorem exec_vaddi (d : VReg) (a : VReg) (i : BitVec 10) (s : State) : exec (.vaddi d a i) s = execVaddi d a i s := rfl
@[simp] theorem exec_vcmp (c : CReg) (a : VReg) (b : BSel) (p : ICmp) (s : State) : exec (.vcmp c a b p) s = execVcmp c a b p s := rfl
@[simp] theorem exec_vsel (d : VReg) (a : VReg) (b : VReg) (c : CReg) (s : State) : exec (.vsel d a b c) s = execVsel d a b c s := rfl
@[simp] theorem exec_vmov (d : VReg) (a : VReg) (s : State) : exec (.vmov d a) s = execVmov d a s := rfl
@[simp] theorem exec_vmovX64 (d : VReg) (a : VReg) (s : State) : exec (.vmovX64 d a) s = execVmovX64 d a s := rfl
@[simp] theorem exec_vlit (d : VReg) (i : BitVec 15) (s : State) : exec (.vlit d i) s = execVlit d i s := rfl
@[simp] theorem exec_vlaneid (d : VReg) (s : State) : exec (.vlaneid d) s = execVlaneid d s := rfl
@[simp] theorem exec_vballot (d : VReg) (c : CReg) (s : State) : exec (.vballot d c) s = execVballot d c s := rfl
@[simp] theorem exec_vmrank (d : VReg) (c : CReg) (s : State) : exec (.vmrank d c) s = execVmrank d c s := rfl
@[simp] theorem exec_vmrankInc (d : VReg) (c : CReg) (s : State) : exec (.vmrankInc d c) s = execVmrankInc d c s := rfl
@[simp] theorem exec_vshflIdx (d : VReg) (a : VReg) (b : BSel) (s : State) : exec (.vshflIdx d a b) s = execVshflIdx d a b s := rfl
@[simp] theorem exec_vshflUp (d : VReg) (a : VReg) (b : BSel) (s : State) : exec (.vshflUp d a b) s = execVshflUp d a b s := rfl
@[simp] theorem exec_vshflDown (d : VReg) (a : VReg) (b : BSel) (s : State) : exec (.vshflDown d a b) s = execVshflDown d a b s := rfl
@[simp] theorem exec_vshflXor (d : VReg) (a : VReg) (b : BSel) (s : State) : exec (.vshflXor d a b) s = execVshflXor d a b s := rfl
@[simp] theorem exec_vfold (d : SReg) (a : VReg) (o : FoldOp) (s : State) : exec (.vfold d a o) s = execVfold d a o s := rfl
@[simp] theorem exec_vscan (d : VReg) (a : VReg) (x : Bool) (o : ScanOp) (s : State) : exec (.vscan d a x o) s = execVscan d a x o s := rfl
@[simp] theorem exec_vregrp (f : VReg) (n : Fin 16) (c : CReg) (p : Fin 256) (s : State) : exec (.vregrp f n c p) s = execVregrp f n c p s := rfl
@[simp] theorem exec_vfadd (d : VReg) (a : VReg) (b : BSel) (r : RMode) (s : State) : exec (.vfadd d a b r) s = execVfadd d a b r s := rfl
@[simp] theorem exec_vfsub (d : VReg) (a : VReg) (b : BSel) (r : RMode) (s : State) : exec (.vfsub d a b r) s = execVfsub d a b r s := rfl
@[simp] theorem exec_vfmul (d : VReg) (a : VReg) (b : BSel) (r : RMode) (s : State) : exec (.vfmul d a b r) s = execVfmul d a b r s := rfl
@[simp] theorem exec_vfma (d : VReg) (a : VReg) (b : BSel) (r : RMode) (s : State) : exec (.vfma d a b r) s = execVfma d a b r s := rfl
@[simp] theorem exec_vfnma (d : VReg) (a : VReg) (b : BSel) (r : RMode) (s : State) : exec (.vfnma d a b r) s = execVfnma d a b r s := rfl
@[simp] theorem exec_vfdiv (d : VReg) (a : VReg) (b : BSel) (r : RMode) (s : State) : exec (.vfdiv d a b r) s = execVfdiv d a b r s := rfl
@[simp] theorem exec_vfmin (d : VReg) (a : VReg) (b : BSel) (s : State) : exec (.vfmin d a b) s = execVfmin d a b s := rfl
@[simp] theorem exec_vfmax (d : VReg) (a : VReg) (b : BSel) (s : State) : exec (.vfmax d a b) s = execVfmax d a b s := rfl
@[simp] theorem exec_vfminn (d : VReg) (a : VReg) (b : BSel) (s : State) : exec (.vfminn d a b) s = execVfminn d a b s := rfl
@[simp] theorem exec_vfmaxn (d : VReg) (a : VReg) (b : BSel) (s : State) : exec (.vfmaxn d a b) s = execVfmaxn d a b s := rfl
@[simp] theorem exec_vfcmp (c : CReg) (a : VReg) (b : BSel) (p : FCmp) (s : State) : exec (.vfcmp c a b p) s = execVfcmp c a b p s := rfl
@[simp] theorem exec_vfsqrt (d : VReg) (a : VReg) (s : State) : exec (.vfsqrt d a) s = execVfsqrt d a s := rfl
@[simp] theorem exec_vfrcp (d : VReg) (a : VReg) (s : State) : exec (.vfrcp d a) s = execVfrcp d a s := rfl
@[simp] theorem exec_vfrsq (d : VReg) (a : VReg) (s : State) : exec (.vfrsq d a) s = execVfrsq d a s := rfl
@[simp] theorem exec_vfex2 (d : VReg) (a : VReg) (s : State) : exec (.vfex2 d a) s = execVfex2 d a s := rfl
@[simp] theorem exec_vflg2 (d : VReg) (a : VReg) (s : State) : exec (.vflg2 d a) s = execVflg2 d a s := rfl
@[simp] theorem exec_vfabs (d : VReg) (a : VReg) (s : State) : exec (.vfabs d a) s = execVfabs d a s := rfl
@[simp] theorem exec_vfneg (d : VReg) (a : VReg) (s : State) : exec (.vfneg d a) s = execVfneg d a s := rfl
@[simp] theorem exec_vfcpsgn (d : VReg) (a : VReg) (b : BSel) (s : State) : exec (.vfcpsgn d a b) s = execVfcpsgn d a b s := rfl
@[simp] theorem exec_vdadd (d : VReg) (a : VReg) (b : BSel) (s : State) : exec (.vdadd d a b) s = execVdadd d a b s := rfl
@[simp] theorem exec_vdsub (d : VReg) (a : VReg) (b : BSel) (s : State) : exec (.vdsub d a b) s = execVdsub d a b s := rfl
@[simp] theorem exec_vdmul (d : VReg) (a : VReg) (b : BSel) (s : State) : exec (.vdmul d a b) s = execVdmul d a b s := rfl
@[simp] theorem exec_vdfma (d : VReg) (a : VReg) (b : BSel) (s : State) : exec (.vdfma d a b) s = execVdfma d a b s := rfl
@[simp] theorem exec_vddiv (d : VReg) (a : VReg) (b : BSel) (r : RMode) (s : State) : exec (.vddiv d a b r) s = execVddiv d a b r s := rfl
@[simp] theorem exec_vdcmp (c : CReg) (a : VReg) (b : BSel) (p : FCmp) (s : State) : exec (.vdcmp c a b p) s = execVdcmp c a b p s := rfl
@[simp] theorem exec_vdsqrt (d : VReg) (a : VReg) (s : State) : exec (.vdsqrt d a) s = execVdsqrt d a s := rfl
@[simp] theorem exec_vhadd (d : VReg) (a : VReg) (b : BSel) (f : Bool) (s : State) : exec (.vhadd d a b f) s = execVhadd d a b f s := rfl
@[simp] theorem exec_vhmul (d : VReg) (a : VReg) (b : BSel) (f : Bool) (s : State) : exec (.vhmul d a b f) s = execVhmul d a b f s := rfl
@[simp] theorem exec_vhfma (d : VReg) (a : VReg) (b : BSel) (f : Bool) (s : State) : exec (.vhfma d a b f) s = execVhfma d a b f s := rfl
@[simp] theorem exec_vcvt (d : VReg) (a : VReg) (f : CvtT) (t : CvtT) (r : RMode) (s : State) : exec (.vcvt d a f t r) s = execVcvt d a f t r s := rfl
@[simp] theorem exec_vquantD8 (d : VReg) (a : VReg) (b : BSel) (s : State) : exec (.vquantD8 d a b) s = execVquantD8 d a b s := rfl
@[simp] theorem exec_vquantD6 (d : VReg) (a : VReg) (b : BSel) (s : State) : exec (.vquantD6 d a b) s = execVquantD6 d a b s := rfl
@[simp] theorem exec_vquantM4 (d : VReg) (a : VReg) (b : BSel) (s : State) : exec (.vquantM4 d a b) s = execVquantM4 d a b s := rfl
@[simp] theorem exec_vquantS8 (d : VReg) (a : VReg) (b : BSel) (s : State) : exec (.vquantS8 d a b) s = execVquantS8 d a b s := rfl
@[simp] theorem exec_vpack (d : VReg) (a : VReg) (w : PackW) (s : State) : exec (.vpack d a w) s = execVpack d a w s := rfl
@[simp] theorem exec_vunpkZ (d : VReg) (a : VReg) (w : PackW) (s : State) : exec (.vunpkZ d a w) s = execVunpkZ d a w s := rfl
@[simp] theorem exec_vunpkS (d : VReg) (a : VReg) (w : PackW) (s : State) : exec (.vunpkS d a w) s = execVunpkS d a w s := rfl
@[simp] theorem exec_sgBoard (d : SReg) (a : SReg) (s : State) : exec (.sgBoard d a) s = execSgBoard d a s := rfl
@[simp] theorem exec_sgAlight (d : SReg) (a : SReg) (s : State) : exec (.sgAlight d a) s = execSgAlight d a s := rfl
@[simp] theorem exec_sgCap (d : SReg) (a : SReg) (r : Bool) (s : State) : exec (.sgCap d a r) s = execSgCap d a r s := rfl
@[simp] theorem exec_sgMod (d : SReg) (a : SReg) (o : ModOp) (w : Fin 8) (r : Ord) (s : State) : exec (.sgMod d a o w r) s = execSgMod d a o w r s := rfl
@[simp] theorem exec_sgArm (d : SReg) (a : SReg) (o : ArmCmp) (w : Fin 8) (s : State) : exec (.sgArm d a o w) s = execSgArm d a o w s := rfl
@[simp] theorem exec_sgRev (d : SReg) (a : SReg) (s : State) : exec (.sgRev d a) s = execSgRev d a s := rfl
@[simp] theorem exec_sgRevOfs (d : SReg) (s : State) : exec (.sgRevOfs d) s = execSgRevOfs d s := rfl
@[simp] theorem exec_br (o : BitVec 19) (s : State) : exec (.br o) s = execBr o s := rfl
@[simp] theorem exec_brAny (c : CReg) (o : BitVec 19) (s : State) : exec (.brAny c o) s = execBrAny c o s := rfl
@[simp] theorem exec_brAll (c : CReg) (o : BitVec 19) (s : State) : exec (.brAll c o) s = execBrAll c o s := rfl
@[simp] theorem exec_brNone (c : CReg) (o : BitVec 19) (s : State) : exec (.brNone c o) s = execBrNone c o s := rfl
@[simp] theorem exec_call (o : BitVec 19) (s : State) : exec (.call o) s = execCall o s := rfl
@[simp] theorem exec_jmp (d : SReg) (a : SReg) (s : State) : exec (.jmp d a) s = execJmp d a s := rfl
@[simp] theorem exec_brx (b : SReg) (a : VReg) (s : State) : exec (.brx b a) s = execBrx b a s := rfl
@[simp] theorem exec_vif (c : CReg) (s : State) : exec (.vif c) s = execVif c s := rfl
@[simp] theorem exec_velse (s : State) : exec .velse s = execVelse s := rfl
@[simp] theorem exec_vend (s : State) : exec .vend s = execVend s := rfl
@[simp] theorem exec_vkill (c : CReg) (s : State) : exec (.vkill c) s = execVkill c s := rfl
@[simp] theorem exec_vbrk (c : CReg) (m : Fin 256) (s : State) : exec (.vbrk c m) s = execVbrk c m s := rfl
@[simp] theorem exec_exit (s : State) : exec .exit s = execExit s := rfl
@[simp] theorem exec_trap (x : BitVec 16) (s : State) : exec (.trap x) s = execTrap x s := rfl
@[simp] theorem exec_brk (x : BitVec 16) (s : State) : exec (.brk x) s = execBrk x s := rfl
@[simp] theorem exec_vldZ (d : VReg) (b : SReg) (o : VReg) (w : Width) (h : Hint) (s : State) : exec (.vldZ d b o w h) s = execVldZ d b o w h s := rfl
@[simp] theorem exec_vldS (d : VReg) (b : SReg) (o : VReg) (w : Width) (h : Hint) (s : State) : exec (.vldS d b o w h) s = execVldS d b o w h s := rfl
@[simp] theorem exec_vst (d : VReg) (b : SReg) (o : VReg) (w : Width) (h : Hint) (s : State) : exec (.vst d b o w h) s = execVst d b o w h s := rfl
@[simp] theorem exec_sld (d : SReg) (b : SReg) (o : BitVec 12) (s : State) : exec (.sld d b o) s = execSld d b o s := rfl
@[simp] theorem exec_slw (d : SReg) (b : SReg) (o : BitVec 12) (s : State) : exec (.slw d b o) s = execSlw d b o s := rfl
@[simp] theorem exec_sst (d : SReg) (b : SReg) (o : BitVec 12) (s : State) : exec (.sst d b o) s = execSst d b o s := rfl
@[simp] theorem exec_ssw (d : SReg) (b : SReg) (o : BitVec 12) (s : State) : exec (.ssw d b o) s = execSsw d b o s := rfl
@[simp] theorem exec_vlds (d : VReg) (b : SReg) (o : VReg) (w : Width) (s : State) : exec (.vlds d b o w) s = execVlds d b o w s := rfl
@[simp] theorem exec_vsts (d : VReg) (b : SReg) (o : VReg) (w : Width) (s : State) : exec (.vsts d b o w) s = execVsts d b o w s := rfl
@[simp] theorem exec_vlda (d : VReg) (b : SReg) (o : VReg) (w : Width) (s : State) : exec (.vlda d b o w) s = execVlda d b o w s := rfl
@[simp] theorem exec_vsta (d : VReg) (b : SReg) (o : VReg) (w : Width) (s : State) : exec (.vsta d b o w) s = execVsta d b o w s := rfl
@[simp] theorem exec_vldx (d : VReg) (b : SReg) (o : VReg) (w : Bool) (s : State) : exec (.vldx d b o w) s = execVldx d b o w s := rfl
@[simp] theorem exec_vatom (d : VReg) (a : VReg) (p : AOp) (sc : Scope) (r : Ord) (s : State) : exec (.vatom d a p sc r) s = execVatom d a p sc r s := rfl
@[simp] theorem exec_vmred (d : VReg) (a : VReg) (p : RedOp) (sc : Scope) (r : Ord) (s : State) : exec (.vmred d a p sc r) s = execVmred d a p sc r s := rfl
@[simp] theorem exec_satom (d : SReg) (a : SReg) (b : SReg) (p : AOp) (r : Ord) (s : State) : exec (.satom d a b p r) s = execSatom d a b p r s := rfl
@[simp] theorem exec_vatoms (d : VReg) (a : VReg) (p : AOp) (sc : Scope) (r : Ord) (s : State) : exec (.vatoms d a p sc r) s = execVatoms d a p sc r s := rfl
@[simp] theorem exec_fence (u : Bool) (r : FOrd) (sc : Scope) (s : State) : exec (.fence u r sc) s = execFence u r sc s := rfl
@[simp] theorem exec_barInit (b : SReg) (e : SReg) (s : State) : exec (.barInit b e) s = execBarInit b e s := rfl
@[simp] theorem exec_barExpect (b : SReg) (e : SReg) (s : State) : exec (.barExpect b e) s = execBarExpect b e s := rfl
@[simp] theorem exec_barArrive (b : SReg) (p : Scope) (o : Bool) (s : State) : exec (.barArrive b p o) s = execBarArrive b p o s := rfl
@[simp] theorem exec_barArriveExp (b : SReg) (e : SReg) (p : Scope) (o : Bool) (s : State) : exec (.barArriveExp b e p o) s = execBarArriveExp b e p o s := rfl
@[simp] theorem exec_barWait (b : SReg) (e : SReg) (p : Scope) (o : Bool) (s : State) : exec (.barWait b e p o) s = execBarWait b e p o s := rfl
@[simp] theorem exec_barTest (b : SReg) (e : SReg) (p : Scope) (o : Bool) (s : State) : exec (.barTest b e p o) s = execBarTest b e p o s := rfl
@[simp] theorem exec_barPhase (b : SReg) (e : SReg) (s : State) : exec (.barPhase b e) s = execBarPhase b e s := rfl
@[simp] theorem exec_waitc (l : Fin 16) (sc : Fin 16) (y : Fin 16) (t : Fin 16) (s : State) : exec (.waitc l sc y t) s = execWaitc l sc y t s := rfl
@[simp] theorem exec_vbank (m : BitVec 16) (sc : BankCode) (s : State) : exec (.vbank m sc) s = execVbank m sc s := rfl
@[simp] theorem exec_pbank (f : Fin 128) (n : Fin 128) (sc : BankCode) (s : State) : exec (.pbank f n sc) s = execPbank f n sc s := rfl
@[simp] theorem exec_eacq (s : State) : exec .eacq s = execEacq s := rfl
@[simp] theorem exec_eacqTry (c : CReg) (s : State) : exec (.eacqTry c) s = execEacqTry c s := rfl
@[simp] theorem exec_erel (s : State) : exec .erel s = execErel s := rfl
@[simp] theorem exec_cpG2s (d : SReg) (q : Fin 6) (s : State) : exec (.cpG2s d q) s = execCpG2s d q s := rfl
@[simp] theorem exec_cpS2g (d : SReg) (q : Fin 6) (s : State) : exec (.cpS2g d q) s = execCpS2g d q s := rfl
@[simp] theorem exec_cpG2a (d : SReg) (q : Fin 6) (s : State) : exec (.cpG2a d q) s = execCpG2a d q s := rfl
@[simp] theorem exec_cpG2w (d : SReg) (q : Fin 6) (s : State) : exec (.cpG2w d q) s = execCpG2w d q s := rfl
@[simp] theorem exec_cpX2g (d : SReg) (q : Fin 6) (s : State) : exec (.cpX2g d q) s = execCpX2g d q s := rfl
@[simp] theorem exec_cpG2g (d : SReg) (q : Fin 6) (s : State) : exec (.cpG2g d q) s = execCpG2g d q s := rfl
@[simp] theorem exec_cpCirc (d : SReg) (q : Fin 6) (s : State) : exec (.cpCirc d q) s = execCpCirc d q s := rfl
@[simp] theorem exec_gth (d : SReg) (q : Fin 6) (s : State) : exec (.gth d q) s = execGth d q s := rfl
@[simp] theorem exec_qfence (m : BitVec 8) (s : State) : exec (.qfence m) s = execQfence m s := rfl
@[simp] theorem exec_cbWait (d : SReg) (a : SReg) (s : State) : exec (.cbWait d a) s = execCbWait d a s := rfl
@[simp] theorem exec_cbFree (a : SReg) (s : State) : exec (.cbFree a) s = execCbFree a s := rfl
@[simp] theorem exec_launch (d : SReg) (s : State) : exec (.launch d) s = execLaunch d s := rfl
@[simp] theorem exec_launchTry (d : SReg) (c : CReg) (s : State) : exec (.launchTry d c) s = execLaunchTry d c s := rfl
@[simp] theorem exec_join (a : SReg) (s : State) : exec (.join a) s = execJoin a s := rfl
@[simp] theorem exec_joinAll (s : State) : exec .joinAll s = execJoinAll s := rfl
@[simp] theorem exec_joinDoor (a : SReg) (s : State) : exec (.joinDoor a) s = execJoinDoor a s := rfl
@[simp] theorem exec_amsg (d : SReg) (s : State) : exec (.amsg d) s = execAmsg d s := rfl
@[simp] theorem exec_xcfg (p : VReg) (n : TKind) (x : Bool) (s : State) : exec (.xcfg p n x) s = execXcfg p n x s := rfl
@[simp] theorem exec_xlds (p : VReg) (r : Fin 4) (f : Fmt) (s : State) : exec (.xlds p r f) s = execXlds p r f s := rfl
@[simp] theorem exec_xswp (r : Fin 4) (s : State) : exec (.xswp r) s = execXswp r s := rfl
@[simp] theorem exec_xmm (p : VReg) (r : Fin 4) (f : Fmt) (a : Bool) (i : Bool) (s : State) : exec (.xmm p r f a i) s = execXmm p r f a i s := rfl
@[simp] theorem exec_xbmm (p : VReg) (r : Fin 4) (f : Fmt) (i : Bool) (s : State) : exec (.xbmm p r f i) s = execXbmm p r f i s := rfl
@[simp] theorem exec_xscac (p : VReg) (a : Bool) (s : State) : exec (.xscac p a) s = execXscac p a s := rfl
@[simp] theorem exec_xdrn (p : VReg) (s : State) : exec (.xdrn p) s = execXdrn p s := rfl
@[simp] theorem exec_xrel (p : VReg) (x : Bool) (s : State) : exec (.xrel p x) s = execXrel p x s := rfl
@[simp] theorem exec_eret (s : State) : exec .eret s = execEret s := rfl
@[simp] theorem exec_mfsys (d : SReg) (n : Fin 4096) (s : State) : exec (.mfsys d n) s = execMfsys d n s := rfl
@[simp] theorem exec_mtsys (a : SReg) (n : Fin 4096) (s : State) : exec (.mtsys a n) s = execMtsys a n s := rfl
@[simp] theorem exec_tlbinvVa (a : SReg) (s : State) : exec (.tlbinvVa a) s = execTlbinvVa a s := rfl
@[simp] theorem exec_tlbinvAsid (a : SReg) (s : State) : exec (.tlbinvAsid a) s = execTlbinvAsid a s := rfl
@[simp] theorem exec_tlbinvAll (s : State) : exec .tlbinvAll s = execTlbinvAll s := rfl
@[simp] theorem exec_seatctlEvack (a : SReg) (s : State) : exec (.seatctlEvack a) s = execSeatctlEvack a s := rfl
@[simp] theorem exec_seatctlKill (a : SReg) (s : State) : exec (.seatctlKill a) s = execSeatctlKill a s := rfl
@[simp] theorem exec_seatctlYield (a : SReg) (s : State) : exec (.seatctlYield a) s = execSeatctlYield a s := rfl
@[simp] theorem exec_halt (a : SReg) (s : State) : exec (.halt a) s = execHalt a s := rfl
@[simp] theorem exec_deferredTrap (s : State) : exec .deferredTrap s = execDeferredTrap s := rfl
@[simp] theorem exec_resetRelease (s : State) : exec .resetRelease s = execResetRelease s := rfl
@[simp] theorem exec_frameBoundary (s : State) : exec .frameBoundary s = execFrameBoundary s := rfl
@[simp] theorem exec_seating (s : State) : exec .seating s = execSeating s := rfl
@[simp] theorem exec_leaseBegin (s : State) : exec .leaseBegin s = execLeaseBegin s := rfl
@[simp] theorem exec_leaseEnd (s : State) : exec .leaseEnd s = execLeaseEnd s := rfl
@[simp] theorem exec_positionStart (s : State) : exec .positionStart s = execPositionStart s := rfl
@[simp] theorem exec_dramRefresh (s : State) : exec .dramRefresh s = execDramRefresh s := rfl
@[simp] theorem exec_loadReply (s : State) : exec .loadReply s = execLoadReply s := rfl
@[simp] theorem exec_storePerform (s : State) : exec .storePerform s = execStorePerform s := rfl
@[simp] theorem exec_storeAcknowledge (s : State) : exec .storeAcknowledge s = execStoreAcknowledge s := rfl
@[simp] theorem exec_lineRecall (s : State) : exec .lineRecall s = execLineRecall s := rfl
@[simp] theorem exec_atomicPerform (s : State) : exec .atomicPerform s = execAtomicPerform s := rfl
@[simp] theorem exec_scratchpadRowServe (s : State) : exec .scratchpadRowServe s = execScratchpadRowServe s := rfl
@[simp] theorem exec_bufferPortCycle (s : State) : exec .bufferPortCycle s = execBufferPortCycle s := rfl
@[simp] theorem exec_bankWakeEnd (s : State) : exec .bankWakeEnd s = execBankWakeEnd s := rfl
@[simp] theorem exec_eacqGrant (s : State) : exec .eacqGrant s = execEacqGrant s := rfl
@[simp] theorem exec_releaseApply (s : State) : exec .releaseApply s = execReleaseApply s := rfl
@[simp] theorem exec_waitResume (s : State) : exec .waitResume s = execWaitResume s := rfl
@[simp] theorem exec_waitcResume (s : State) : exec .waitcResume s = execWaitcResume s := rfl
@[simp] theorem exec_copyCommandStart (s : State) : exec .copyCommandStart s = execCopyCommandStart s := rfl
@[simp] theorem exec_circSlotReady (s : State) : exec .circSlotReady s = execCircSlotReady s := rfl
@[simp] theorem exec_copyPieceStart (s : State) : exec .copyPieceStart s = execCopyPieceStart s := rfl
@[simp] theorem exec_pieceLand (s : State) : exec .pieceLand s = execPieceLand s := rfl
@[simp] theorem exec_heldPieceRelease (s : State) : exec .heldPieceRelease s = execHeldPieceRelease s := rfl
@[simp] theorem exec_copyCommandComplete (s : State) : exec .copyCommandComplete s = execCopyCommandComplete s := rfl
@[simp] theorem exec_xldsComplete (s : State) : exec .xldsComplete s = execXldsComplete s := rfl
@[simp] theorem exec_xswpComplete (s : State) : exec .xswpComplete s = execXswpComplete s := rfl
@[simp] theorem exec_rowInject (s : State) : exec .rowInject s = execRowInject s := rfl
@[simp] theorem exec_passComplete (s : State) : exec .passComplete s = execPassComplete s := rfl
@[simp] theorem exec_xcfgComplete (s : State) : exec .xcfgComplete s = execXcfgComplete s := rfl
@[simp] theorem exec_xrelComplete (s : State) : exec .xrelComplete s = execXrelComplete s := rfl
@[simp] theorem exec_xdrnComplete (s : State) : exec .xdrnComplete s = execXdrnComplete s := rfl
@[simp] theorem exec_xscacComplete (s : State) : exec .xscacComplete s = execXscacComplete s := rfl
@[simp] theorem exec_ringPassage (s : State) : exec .ringPassage s = execRingPassage s := rfl
@[simp] theorem exec_ringResultWrite (s : State) : exec .ringResultWrite s = execRingResultWrite s := rfl
@[simp] theorem exec_alightWritePerformed (s : State) : exec .alightWritePerformed s = execAlightWritePerformed s := rfl
@[simp] theorem exec_chargedWaitDue (s : State) : exec .chargedWaitDue s = execChargedWaitDue s := rfl
@[simp] theorem exec_lateWaitFreeze (s : State) : exec .lateWaitFreeze s = execLateWaitFreeze s := rfl
@[simp] theorem exec_freezeResume (s : State) : exec .freezeResume s = execFreezeResume s := rfl
@[simp] theorem exec_quantumEnd (s : State) : exec .quantumEnd s = execQuantumEnd s := rfl
@[simp] theorem exec_switchComplete (s : State) : exec .switchComplete s = execSwitchComplete s := rfl
@[simp] theorem exec_teamCarving (s : State) : exec .teamCarving s = execTeamCarving s := rfl
@[simp] theorem exec_teamRelease (s : State) : exec .teamRelease s = execTeamRelease s := rfl
@[simp] theorem exec_victimChoice (s : State) : exec .victimChoice s = execVictimChoice s := rfl
@[simp] theorem exec_drainComplete (s : State) : exec .drainComplete s = execDrainComplete s := rfl
@[simp] theorem exec_saveComplete (s : State) : exec .saveComplete s = execSaveComplete s := rfl
@[simp] theorem exec_parkWake (s : State) : exec .parkWake s = execParkWake s := rfl
@[simp] theorem exec_groupEnd (s : State) : exec .groupEnd s = execGroupEnd s := rfl
@[simp] theorem exec_teamEnd (s : State) : exec .teamEnd s = execTeamEnd s := rfl
@[simp] theorem exec_gridEnd (s : State) : exec .gridEnd s = execGridEnd s := rfl
@[simp] theorem exec_regroupComplete (s : State) : exec .regroupComplete s = execRegroupComplete s := rfl
@[simp] theorem exec_tlbWalkComplete (s : State) : exec .tlbWalkComplete s = execTlbWalkComplete s := rfl
@[simp] theorem exec_tlbinvComplete (s : State) : exec .tlbinvComplete s = execTlbinvComplete s := rfl
@[simp] theorem exec_faultService (s : State) : exec .faultService s = execFaultService s := rfl
@[simp] theorem exec_logReplay (s : State) : exec .logReplay s = execLogReplay s := rfl
@[simp] theorem exec_pageMigration (s : State) : exec .pageMigration s = execPageMigration s := rfl
@[simp] theorem exec_heatSweep (s : State) : exec .heatSweep s = execHeatSweep s := rfl
@[simp] theorem exec_loadBalance (s : State) : exec .loadBalance s = execLoadBalance s := rfl
@[simp] theorem exec_amsgAccept (s : State) : exec .amsgAccept s = execAmsgAccept s := rfl
@[simp] theorem exec_doorbellWrite (s : State) : exec .doorbellWrite s = execDoorbellWrite s := rfl
@[simp] theorem exec_doorcntWrite (s : State) : exec .doorcntWrite s = execDoorcntWrite s := rfl
@[simp] theorem exec_queueNop (s : State) : exec .queueNop s = execQueueNop s := rfl
@[simp] theorem exec_queueLaunch (s : State) : exec .queueLaunch s = execQueueLaunch s := rfl
@[simp] theorem exec_indirect (s : State) : exec .indirect s = execIndirect s := rfl
@[simp] theorem exec_signal (s : State) : exec .signal s = execSignal s := rfl
@[simp] theorem exec_wait (s : State) : exec .wait s = execWait s := rfl
@[simp] theorem exec_waitReread (s : State) : exec .waitReread s = execWaitReread s := rfl
@[simp] theorem exec_launchDelivery (s : State) : exec .launchDelivery s = execLaunchDelivery s := rfl
@[simp] theorem exec_completionWrite (s : State) : exec .completionWrite s = execCompletionWrite s := rfl
@[simp] theorem exec_cqdoneReread (s : State) : exec .cqdoneReread s = execCqdoneReread s := rfl
@[simp] theorem exec_admitSeat (s : State) : exec .admitSeat s = execAdmitSeat s := rfl
@[simp] theorem exec_evict (s : State) : exec .evict s = execEvict s := rfl
@[simp] theorem exec_seatEviction (s : State) : exec .seatEviction s = execSeatEviction s := rfl
@[simp] theorem exec_lease (s : State) : exec .lease s = execLease s := rfl
@[simp] theorem exec_qtable (s : State) : exec .qtable s = execQtable s := rfl
@[simp] theorem exec_qreg (s : State) : exec .qreg s = execQreg s := rfl
@[simp] theorem exec_runmode (s : State) : exec .runmode s = execRunmode s := rfl
@[simp] theorem exec_preempt (s : State) : exec .preempt s = execPreempt s := rfl
@[simp] theorem exec_preemptDelivery (s : State) : exec .preemptDelivery s = execPreemptDelivery s := rfl
@[simp] theorem exec_resume (s : State) : exec .resume s = execResume s := rfl
@[simp] theorem exec_powercap (s : State) : exec .powercap s = execPowercap s := rfl
@[simp] theorem exec_status (s : State) : exec .status s = execStatus s := rfl
@[simp] theorem exec_seatfloor (s : State) : exec .seatfloor s = execSeatfloor s := rfl
@[simp] theorem exec_pagedone (s : State) : exec .pagedone s = execPagedone s := rfl
@[simp] theorem exec_unfence (s : State) : exec .unfence s = execUnfence s := rfl
@[simp] theorem exec_fenceLift (s : State) : exec .fenceLift s = execFenceLift s := rfl
@[simp] theorem exec_linkopen (s : State) : exec .linkopen s = execLinkopen s := rfl
@[simp] theorem exec_undefinedCommand (s : State) : exec .undefinedCommand s = execUndefinedCommand s := rfl
@[simp] theorem exec_registerWrite (s : State) : exec .registerWrite s = execRegisterWrite s := rfl
@[simp] theorem exec_powerEvaluation (s : State) : exec .powerEvaluation s = execPowerEvaluation s := rfl
@[simp] theorem exec_clockStepChange (s : State) : exec .clockStepChange s = execClockStepChange s := rfl
@[simp] theorem exec_quantumCommit (s : State) : exec .quantumCommit s = execQuantumCommit s := rfl
@[simp] theorem exec_hostBarRequest (s : State) : exec .hostBarRequest s = execHostBarRequest s := rfl
@[simp] theorem exec_atsInvalidationRequest (s : State) : exec .atsInvalidationRequest s = execAtsInvalidationRequest s := rfl
@[simp] theorem exec_atsCompletion (s : State) : exec .atsCompletion s = execAtsCompletion s := rfl
@[simp] theorem exec_priResponse (s : State) : exec .priResponse s = execPriResponse s := rfl
@[simp] theorem exec_linkRetrain (s : State) : exec .linkRetrain s = execLinkRetrain s := rfl
@[simp] theorem exec_spdmRequest (s : State) : exec .spdmRequest s = execSpdmRequest s := rfl
@[simp] theorem exec_mctpStatus (s : State) : exec .mctpStatus s = execMctpStatus s := rfl
@[simp] theorem exec_colalmInboundRequest (s : State) : exec .colalmInboundRequest s = execColalmInboundRequest s := rfl
@[simp] theorem exec_colalmTraining (s : State) : exec .colalmTraining s = execColalmTraining s := rfl
@[simp] theorem exec_dramReadRetry (s : State) : exec .dramReadRetry s = execDramReadRetry s := rfl
@[simp] theorem exec_meshFlitRetry (s : State) : exec .meshFlitRetry s = execMeshFlitRetry s := rfl
@[simp] theorem exec_illegalInstruction (s : State) : exec .illegalInstruction s = execIllegalInstruction s := rfl
@[simp] theorem exec_configurationRequest (s : State) : exec .configurationRequest s = execConfigurationRequest s := rfl

/-! ### The registers each word names -/

@[simp] theorem uses_nop : uses .nop = ({ } : Use) := rfl
@[simp] theorem uses_sadd (d : SReg) (a : SReg) (b : SReg) : uses (.sadd d a b) = ({ ws := [d.val], rs := [a.val, b.val] } : Use) := rfl
@[simp] theorem uses_ssub (d : SReg) (a : SReg) (b : SReg) : uses (.ssub d a b) = ({ ws := [d.val], rs := [a.val, b.val] } : Use) := rfl
@[simp] theorem uses_smul (d : SReg) (a : SReg) (b : SReg) : uses (.smul d a b) = ({ ws := [d.val], rs := [a.val, b.val] } : Use) := rfl
@[simp] theorem uses_smulhS (d : SReg) (a : SReg) (b : SReg) : uses (.smulhS d a b) = ({ ws := [d.val], rs := [a.val, b.val] } : Use) := rfl
@[simp] theorem uses_smulhZ (d : SReg) (a : SReg) (b : SReg) : uses (.smulhZ d a b) = ({ ws := [d.val], rs := [a.val, b.val] } : Use) := rfl
@[simp] theorem uses_sand (d : SReg) (a : SReg) (b : SReg) : uses (.sand d a b) = ({ ws := [d.val], rs := [a.val, b.val] } : Use) := rfl
@[simp] theorem uses_sor (d : SReg) (a : SReg) (b : SReg) : uses (.sor d a b) = ({ ws := [d.val], rs := [a.val, b.val] } : Use) := rfl
@[simp] theorem uses_sxor (d : SReg) (a : SReg) (b : SReg) : uses (.sxor d a b) = ({ ws := [d.val], rs := [a.val, b.val] } : Use) := rfl
@[simp] theorem uses_sshl (d : SReg) (a : SReg) (b : SReg) : uses (.sshl d a b) = ({ ws := [d.val], rs := [a.val, b.val] } : Use) := rfl
@[simp] theorem uses_sshrZ (d : SReg) (a : SReg) (b : SReg) : uses (.sshrZ d a b) = ({ ws := [d.val], rs := [a.val, b.val] } : Use) := rfl
@[simp] theorem uses_sshrS (d : SReg) (a : SReg) (b : SReg) : uses (.sshrS d a b) = ({ ws := [d.val], rs := [a.val, b.val] } : Use) := rfl
@[simp] theorem uses_sminS (d : SReg) (a : SReg) (b : SReg) : uses (.sminS d a b) = ({ ws := [d.val], rs := [a.val, b.val] } : Use) := rfl
@[simp] theorem uses_smaxS (d : SReg) (a : SReg) (b : SReg) : uses (.smaxS d a b) = ({ ws := [d.val], rs := [a.val, b.val] } : Use) := rfl
@[simp] theorem uses_sminZ (d : SReg) (a : SReg) (b : SReg) : uses (.sminZ d a b) = ({ ws := [d.val], rs := [a.val, b.val] } : Use) := rfl
@[simp] theorem uses_smaxZ (d : SReg) (a : SReg) (b : SReg) : uses (.smaxZ d a b) = ({ ws := [d.val], rs := [a.val, b.val] } : Use) := rfl
@[simp] theorem uses_ssltS (d : SReg) (a : SReg) (b : SReg) : uses (.ssltS d a b) = ({ ws := [d.val], rs := [a.val, b.val] } : Use) := rfl
@[simp] theorem uses_ssltZ (d : SReg) (a : SReg) (b : SReg) : uses (.ssltZ d a b) = ({ ws := [d.val], rs := [a.val, b.val] } : Use) := rfl
@[simp] theorem uses_sseq (d : SReg) (a : SReg) (b : SReg) : uses (.sseq d a b) = ({ ws := [d.val], rs := [a.val, b.val] } : Use) := rfl
@[simp] theorem uses_saddi (d : SReg) (a : SReg) (x2 : BitVec 12) : uses (.saddi d a x2) = ({ ws := [d.val], rs := [a.val] } : Use) := rfl
@[simp] theorem uses_sandi (d : SReg) (a : SReg) (x2 : BitVec 12) : uses (.sandi d a x2) = ({ ws := [d.val], rs := [a.val] } : Use) := rfl
@[simp] theorem uses_sori (d : SReg) (a : SReg) (x2 : BitVec 12) : uses (.sori d a x2) = ({ ws := [d.val], rs := [a.val] } : Use) := rfl
@[simp] theorem uses_sxori (d : SReg) (a : SReg) (x2 : BitVec 12) : uses (.sxori d a x2) = ({ ws := [d.val], rs := [a.val] } : Use) := rfl
@[simp] theorem uses_sshli (d : SReg) (a : SReg) (x2 : Fin 64) : uses (.sshli d a x2) = ({ ws := [d.val], rs := [a.val] } : Use) := rfl
@[simp] theorem uses_sshriZ (d : SReg) (a : SReg) (x2 : Fin 64) : uses (.sshriZ d a x2) = ({ ws := [d.val], rs := [a.val] } : Use) := rfl
@[simp] theorem uses_sshriS (d : SReg) (a : SReg) (x2 : Fin 64) : uses (.sshriS d a x2) = ({ ws := [d.val], rs := [a.val] } : Use) := rfl
@[simp] theorem uses_slit (d : SReg) (x1 : BitVec 18) : uses (.slit d x1) = ({ ws := [d.val] } : Use) := rfl
@[simp] theorem uses_slitwZ (d : SReg) : uses (.slitwZ d) = ({ ws := [d.val] } : Use) := rfl
@[simp] theorem uses_slitwS (d : SReg) : uses (.slitwS d) = ({ ws := [d.val] } : Use) := rfl
@[simp] theorem uses_slitwLo (d : SReg) : uses (.slitwLo d) = ({ ws := [d.val], rs := [d.val] } : Use) := rfl
@[simp] theorem uses_slitwHi (d : SReg) : uses (.slitwHi d) = ({ ws := [d.val], rs := [d.val] } : Use) := rfl
@[simp] theorem uses_sgetsr (d : SReg) (x1 : Fin 4096) : uses (.sgetsr d x1) = ({ ws := [d.val] } : Use) := rfl
@[simp] theorem uses_ssetsr (a : SReg) (x1 : Fin 4096) : uses (.ssetsr a x1) = ({ rs := [a.val] } : Use) := rfl
@[simp] theorem uses_ssetsrSet (a : SReg) (x1 : Fin 4096) : uses (.ssetsrSet a x1) = ({ rs := [a.val] } : Use) := rfl
@[simp] theorem uses_ssetsrClr (a : SReg) (x1 : Fin 4096) : uses (.ssetsrClr a x1) = ({ rs := [a.val] } : Use) := rfl
@[simp] theorem uses_scmpEq (d : CReg) (a : SReg) (b : SReg) : uses (.scmpEq d a b) = ({ wc := [d.val], rs := [a.val, b.val] } : Use) := rfl
@[simp] theorem uses_scmpNe (d : CReg) (a : SReg) (b : SReg) : uses (.scmpNe d a b) = ({ wc := [d.val], rs := [a.val, b.val] } : Use) := rfl
@[simp] theorem uses_scmpLtS (d : CReg) (a : SReg) (b : SReg) : uses (.scmpLtS d a b) = ({ wc := [d.val], rs := [a.val, b.val] } : Use) := rfl
@[simp] theorem uses_scmpLeS (d : CReg) (a : SReg) (b : SReg) : uses (.scmpLeS d a b) = ({ wc := [d.val], rs := [a.val, b.val] } : Use) := rfl
@[simp] theorem uses_scmpLtZ (d : CReg) (a : SReg) (b : SReg) : uses (.scmpLtZ d a b) = ({ wc := [d.val], rs := [a.val, b.val] } : Use) := rfl
@[simp] theorem uses_scmpLeZ (d : CReg) (a : SReg) (b : SReg) : uses (.scmpLeZ d a b) = ({ wc := [d.val], rs := [a.val, b.val] } : Use) := rfl
@[simp] theorem uses_sext (d : SReg) (a : VReg) (w : ExtW) (x3 : Fin 32) : uses (.sext d a w x3) = ({ ws := [d.val], rv := regs a.val (w == .x64) } : Use) := rfl
@[simp] theorem uses_sextFirst (d : SReg) (a : VReg) (w : ExtW) : uses (.sextFirst d a w) = ({ ws := [d.val], rv := regs a.val (w == .x64) } : Use) := rfl
@[simp] theorem uses_sextLast (d : SReg) (a : VReg) (w : ExtW) : uses (.sextLast d a w) = ({ ws := [d.val], rv := regs a.val (w == .x64) } : Use) := rfl
@[simp] theorem uses_vins (d : VReg) (a : SReg) (w : InsW) (x3 : Fin 32) : uses (.vins d a w x3) = ({ wv := regs d.val (w == .x64), rs := [a.val] } : Use) := rfl
@[simp] theorem uses_vinsAll (d : VReg) (a : SReg) (w : InsW) : uses (.vinsAll d a w) = ({ wv := regs d.val (w == .x64), rs := [a.val] } : Use) := rfl
@[simp] theorem uses_vadd (d : VReg) (a : VReg) (b : BSel) : uses (.vadd d a b) = ({ wv := [d.val], rv := a.val :: vecsOf b false, rs := scalsOf b } : Use) := rfl
@[simp] theorem uses_vaddSatS (d : VReg) (a : VReg) (b : BSel) : uses (.vaddSatS d a b) = ({ wv := [d.val], rv := a.val :: vecsOf b false, rs := scalsOf b } : Use) := rfl
@[simp] theorem uses_vaddSatZ (d : VReg) (a : VReg) (b : BSel) : uses (.vaddSatZ d a b) = ({ wv := [d.val], rv := a.val :: vecsOf b false, rs := scalsOf b } : Use) := rfl
@[simp] theorem uses_vsub (d : VReg) (a : VReg) (b : BSel) : uses (.vsub d a b) = ({ wv := [d.val], rv := a.val :: vecsOf b false, rs := scalsOf b } : Use) := rfl
@[simp] theorem uses_vsubSatS (d : VReg) (a : VReg) (b : BSel) : uses (.vsubSatS d a b) = ({ wv := [d.val], rv := a.val :: vecsOf b false, rs := scalsOf b } : Use) := rfl
@[simp] theorem uses_vsubSatZ (d : VReg) (a : VReg) (b : BSel) : uses (.vsubSatZ d a b) = ({ wv := [d.val], rv := a.val :: vecsOf b false, rs := scalsOf b } : Use) := rfl
@[simp] theorem uses_vmul (d : VReg) (a : VReg) (b : BSel) : uses (.vmul d a b) = ({ wv := [d.val], rv := a.val :: vecsOf b false, rs := scalsOf b } : Use) := rfl
@[simp] theorem uses_vmulhS (d : VReg) (a : VReg) (b : BSel) : uses (.vmulhS d a b) = ({ wv := [d.val], rv := a.val :: vecsOf b false, rs := scalsOf b } : Use) := rfl
@[simp] theorem uses_vmulhZ (d : VReg) (a : VReg) (b : BSel) : uses (.vmulhZ d a b) = ({ wv := [d.val], rv := a.val :: vecsOf b false, rs := scalsOf b } : Use) := rfl
@[simp] theorem uses_vminS (d : VReg) (a : VReg) (b : BSel) : uses (.vminS d a b) = ({ wv := [d.val], rv := a.val :: vecsOf b false, rs := scalsOf b } : Use) := rfl
@[simp] theorem uses_vminZ (d : VReg) (a : VReg) (b : BSel) : uses (.vminZ d a b) = ({ wv := [d.val], rv := a.val :: vecsOf b false, rs := scalsOf b } : Use) := rfl
@[simp] theorem uses_vmaxS (d : VReg) (a : VReg) (b : BSel) : uses (.vmaxS d a b) = ({ wv := [d.val], rv := a.val :: vecsOf b false, rs := scalsOf b } : Use) := rfl
@[simp] theorem uses_vmaxZ (d : VReg) (a : VReg) (b : BSel) : uses (.vmaxZ d a b) = ({ wv := [d.val], rv := a.val :: vecsOf b false, rs := scalsOf b } : Use) := rfl
@[simp] theorem uses_vand (d : VReg) (a : VReg) (b : BSel) : uses (.vand d a b) = ({ wv := [d.val], rv := a.val :: vecsOf b false, rs := scalsOf b } : Use) := rfl
@[simp] theorem uses_vor (d : VReg) (a : VReg) (b : BSel) : uses (.vor d a b) = ({ wv := [d.val], rv := a.val :: vecsOf b false, rs := scalsOf b } : Use) := rfl
@[simp] theorem uses_vxor (d : VReg) (a : VReg) (b : BSel) : uses (.vxor d a b) = ({ wv := [d.val], rv := a.val :: vecsOf b false, rs := scalsOf b } : Use) := rfl
@[simp] theorem uses_vandn (d : VReg) (a : VReg) (b : BSel) : uses (.vandn d a b) = ({ wv := [d.val], rv := a.val :: vecsOf b false, rs := scalsOf b } : Use) := rfl
@[simp] theorem uses_vshl (d : VReg) (a : VReg) (b : BSel) : uses (.vshl d a b) = ({ wv := [d.val], rv := a.val :: vecsOf b false, rs := scalsOf b } : Use) := rfl
@[simp] theorem uses_vshrZ (d : VReg) (a : VReg) (b : BSel) : uses (.vshrZ d a b) = ({ wv := [d.val], rv := a.val :: vecsOf b false, rs := scalsOf b } : Use) := rfl
@[simp] theorem uses_vshrS (d : VReg) (a : VReg) (b : BSel) : uses (.vshrS d a b) = ({ wv := [d.val], rv := a.val :: vecsOf b false, rs := scalsOf b } : Use) := rfl
@[simp] theorem uses_vrot (d : VReg) (a : VReg) (b : BSel) : uses (.vrot d a b) = ({ wv := [d.val], rv := a.val :: vecsOf b false, rs := scalsOf b } : Use) := rfl
@[simp] theorem uses_vlut3 (d : VReg) (a : VReg) (b : BSel) : uses (.vlut3 d a b) = ({ wv := [d.val], rv := d.val :: a.val :: vecsOf b false, rs := scalsOf b } : Use) := rfl
@[simp] theorem uses_vpopc (d : VReg) (a : VReg) : uses (.vpopc d a) = ({ wv := [d.val], rv := [a.val] } : Use) := rfl
@[simp] theorem uses_vclz (d : VReg) (a : VReg) : uses (.vclz d a) = ({ wv := [d.val], rv := [a.val] } : Use) := rfl
@[simp] theorem uses_vctz (d : VReg) (a : VReg) : uses (.vctz d a) = ({ wv := [d.val], rv := [a.val] } : Use) := rfl
@[simp] theorem uses_vbrev (d : VReg) (a : VReg) : uses (.vbrev d a) = ({ wv := [d.val], rv := [a.val] } : Use) := rfl
@[simp] theorem uses_vbfxZ (d : VReg) (a : VReg) (b : BSel) : uses (.vbfxZ d a b) = ({ wv := [d.val], rv := a.val :: vecsOf b false, rs := scalsOf b } : Use) := rfl
@[simp] theorem uses_vbfxS (d : VReg) (a : VReg) (b : BSel) : uses (.vbfxS d a b) = ({ wv := [d.val], rv := a.val :: vecsOf b false, rs := scalsOf b } : Use) := rfl
@[simp] theorem uses_vbfi (d : VReg) (a : VReg) (b : BSel) : uses (.vbfi d a b) = ({ wv := [d.val], rv := d.val :: a.val :: vecsOf b false, rs := scalsOf b } : Use) := rfl
@[simp] theorem uses_vaddi (d : VReg) (a : VReg) (x2 : BitVec 10) : uses (.vaddi d a x2) = ({ wv := [d.val], rv := [a.val] } : Use) := rfl
@[simp] theorem uses_vcmp (c : CReg) (a : VReg) (b : BSel) (x3 : ICmp) : uses (.vcmp c a b x3) = ({ wc := [c.val], rv := a.val :: vecsOf b false, rs := scalsOf b } : Use) := rfl
@[simp] theorem uses_vsel (d : VReg) (a : VReg) (b : VReg) (c : CReg) : uses (.vsel d a b c) = ({ wv := [d.val], rv := [a.val, b.val], rc := [c.val] } : Use) := rfl
@[simp] theorem uses_vmov (d : VReg) (a : VReg) : uses (.vmov d a) = ({ wv := [d.val], rv := [a.val] } : Use) := rfl
@[simp] theorem uses_vmovX64 (d : VReg) (a : VReg) : uses (.vmovX64 d a) = ({ wv := regs d.val true, rv := regs a.val true } : Use) := rfl
@[simp] theorem uses_vlit (d : VReg) (x1 : BitVec 15) : uses (.vlit d x1) = ({ wv := [d.val] } : Use) := rfl
@[simp] theorem uses_vlaneid (d : VReg) : uses (.vlaneid d) = ({ wv := [d.val] } : Use) := rfl
@[simp] theorem uses_vballot (d : VReg) (c : CReg) : uses (.vballot d c) = ({ wv := [d.val], rc := [c.val] } : Use) := rfl
@[simp] theorem uses_vmrank (d : VReg) (c : CReg) : uses (.vmrank d c) = ({ wv := [d.val], rc := [c.val] } : Use) := rfl
@[simp] theorem uses_vmrankInc (d : VReg) (c : CReg) : uses (.vmrankInc d c) = ({ wv := [d.val], rc := [c.val] } : Use) := rfl
@[simp] theorem uses_vshflIdx (d : VReg) (a : VReg) (b : BSel) : uses (.vshflIdx d a b) = ({ wv := [d.val], rv := a.val :: vecsOf b false, rs := scalsOf b } : Use) := rfl
@[simp] theorem uses_vshflUp (d : VReg) (a : VReg) (b : BSel) : uses (.vshflUp d a b) = ({ wv := [d.val], rv := a.val :: vecsOf b false, rs := scalsOf b } : Use) := rfl
@[simp] theorem uses_vshflDown (d : VReg) (a : VReg) (b : BSel) : uses (.vshflDown d a b) = ({ wv := [d.val], rv := a.val :: vecsOf b false, rs := scalsOf b } : Use) := rfl
@[simp] theorem uses_vshflXor (d : VReg) (a : VReg) (b : BSel) : uses (.vshflXor d a b) = ({ wv := [d.val], rv := a.val :: vecsOf b false, rs := scalsOf b } : Use) := rfl
@[simp] theorem uses_vfold (d : SReg) (a : VReg) (x2 : FoldOp) : uses (.vfold d a x2) = ({ ws := [d.val], rv := [a.val] } : Use) := rfl
@[simp] theorem uses_vscan (d : VReg) (a : VReg) (x2 : Bool) (x3 : ScanOp) : uses (.vscan d a x2 x3) = ({ wv := [d.val], rv := [a.val] } : Use) := rfl
@[simp] theorem uses_vregrp (f : VReg) (n : Fin 16) (c : CReg) (x3 : Fin 256) : uses (.vregrp f n c x3) = ({ rv := block f.val (n.val + 1), wc := [c.val] } : Use) := rfl
@[simp] theorem uses_vfadd (d : VReg) (a : VReg) (b : BSel) (x3 : RMode) : uses (.vfadd d a b x3) = ({ wv := [d.val], rv := a.val :: vecsOf b false, rs := scalsOf b } : Use) := rfl
@[simp] theorem uses_vfsub (d : VReg) (a : VReg) (b : BSel) (x3 : RMode) : uses (.vfsub d a b x3) = ({ wv := [d.val], rv := a.val :: vecsOf b false, rs := scalsOf b } : Use) := rfl
@[simp] theorem uses_vfmul (d : VReg) (a : VReg) (b : BSel) (x3 : RMode) : uses (.vfmul d a b x3) = ({ wv := [d.val], rv := a.val :: vecsOf b false, rs := scalsOf b } : Use) := rfl
@[simp] theorem uses_vfma (d : VReg) (a : VReg) (b : BSel) (x3 : RMode) : uses (.vfma d a b x3) = ({ wv := [d.val], rv := d.val :: a.val :: vecsOf b false, rs := scalsOf b } : Use) := rfl
@[simp] theorem uses_vfnma (d : VReg) (a : VReg) (b : BSel) (x3 : RMode) : uses (.vfnma d a b x3) = ({ wv := [d.val], rv := d.val :: a.val :: vecsOf b false, rs := scalsOf b } : Use) := rfl
@[simp] theorem uses_vfdiv (d : VReg) (a : VReg) (b : BSel) (x3 : RMode) : uses (.vfdiv d a b x3) = ({ wv := [d.val], rv := a.val :: vecsOf b false, rs := scalsOf b } : Use) := rfl
@[simp] theorem uses_vfmin (d : VReg) (a : VReg) (b : BSel) : uses (.vfmin d a b) = ({ wv := [d.val], rv := a.val :: vecsOf b false, rs := scalsOf b } : Use) := rfl
@[simp] theorem uses_vfmax (d : VReg) (a : VReg) (b : BSel) : uses (.vfmax d a b) = ({ wv := [d.val], rv := a.val :: vecsOf b false, rs := scalsOf b } : Use) := rfl
@[simp] theorem uses_vfminn (d : VReg) (a : VReg) (b : BSel) : uses (.vfminn d a b) = ({ wv := [d.val], rv := a.val :: vecsOf b false, rs := scalsOf b } : Use) := rfl
@[simp] theorem uses_vfmaxn (d : VReg) (a : VReg) (b : BSel) : uses (.vfmaxn d a b) = ({ wv := [d.val], rv := a.val :: vecsOf b false, rs := scalsOf b } : Use) := rfl
@[simp] theorem uses_vfcmp (c : CReg) (a : VReg) (b : BSel) (x3 : FCmp) : uses (.vfcmp c a b x3) = ({ wc := [c.val], rv := a.val :: vecsOf b false, rs := scalsOf b } : Use) := rfl
@[simp] theorem uses_vfsqrt (d : VReg) (a : VReg) : uses (.vfsqrt d a) = ({ wv := [d.val], rv := [a.val] } : Use) := rfl
@[simp] theorem uses_vfrcp (d : VReg) (a : VReg) : uses (.vfrcp d a) = ({ wv := [d.val], rv := [a.val] } : Use) := rfl
@[simp] theorem uses_vfrsq (d : VReg) (a : VReg) : uses (.vfrsq d a) = ({ wv := [d.val], rv := [a.val] } : Use) := rfl
@[simp] theorem uses_vfex2 (d : VReg) (a : VReg) : uses (.vfex2 d a) = ({ wv := [d.val], rv := [a.val] } : Use) := rfl
@[simp] theorem uses_vflg2 (d : VReg) (a : VReg) : uses (.vflg2 d a) = ({ wv := [d.val], rv := [a.val] } : Use) := rfl
@[simp] theorem uses_vfabs (d : VReg) (a : VReg) : uses (.vfabs d a) = ({ wv := [d.val], rv := [a.val] } : Use) := rfl
@[simp] theorem uses_vfneg (d : VReg) (a : VReg) : uses (.vfneg d a) = ({ wv := [d.val], rv := [a.val] } : Use) := rfl
@[simp] theorem uses_vfcpsgn (d : VReg) (a : VReg) (b : BSel) : uses (.vfcpsgn d a b) = ({ wv := [d.val], rv := a.val :: vecsOf b false, rs := scalsOf b } : Use) := rfl
@[simp] theorem uses_vdadd (d : VReg) (a : VReg) (b : BSel) : uses (.vdadd d a b) = ({ wv := regs d.val true, rv := regs a.val true ++ vecsOf b true, rs := scalsOf b } : Use) := rfl
@[simp] theorem uses_vdsub (d : VReg) (a : VReg) (b : BSel) : uses (.vdsub d a b) = ({ wv := regs d.val true, rv := regs a.val true ++ vecsOf b true, rs := scalsOf b } : Use) := rfl
@[simp] theorem uses_vdmul (d : VReg) (a : VReg) (b : BSel) : uses (.vdmul d a b) = ({ wv := regs d.val true, rv := regs a.val true ++ vecsOf b true, rs := scalsOf b } : Use) := rfl
@[simp] theorem uses_vdfma (d : VReg) (a : VReg) (b : BSel) : uses (.vdfma d a b) = ({ wv := regs d.val true, rv := regs d.val true ++ regs a.val true ++ vecsOf b true, rs := scalsOf b } : Use) := rfl
@[simp] theorem uses_vddiv (d : VReg) (a : VReg) (b : BSel) (x3 : RMode) : uses (.vddiv d a b x3) = ({ wv := regs d.val true, rv := regs a.val true ++ vecsOf b true, rs := scalsOf b } : Use) := rfl
@[simp] theorem uses_vdcmp (c : CReg) (a : VReg) (b : BSel) (x3 : FCmp) : uses (.vdcmp c a b x3) = ({ wc := [c.val], rv := regs a.val true ++ vecsOf b true, rs := scalsOf b } : Use) := rfl
@[simp] theorem uses_vdsqrt (d : VReg) (a : VReg) : uses (.vdsqrt d a) = ({ wv := regs d.val true, rv := regs a.val true } : Use) := rfl
@[simp] theorem uses_vhadd (d : VReg) (a : VReg) (b : BSel) (x3 : Bool) : uses (.vhadd d a b x3) = ({ wv := [d.val], rv := a.val :: vecsOf b false, rs := scalsOf b } : Use) := rfl
@[simp] theorem uses_vhmul (d : VReg) (a : VReg) (b : BSel) (x3 : Bool) : uses (.vhmul d a b x3) = ({ wv := [d.val], rv := a.val :: vecsOf b false, rs := scalsOf b } : Use) := rfl
@[simp] theorem uses_vhfma (d : VReg) (a : VReg) (b : BSel) (x3 : Bool) : uses (.vhfma d a b x3) = ({ wv := [d.val], rv := d.val :: a.val :: vecsOf b false, rs := scalsOf b } : Use) := rfl
@[simp] theorem uses_vcvt (d : VReg) (a : VReg) (f : CvtT) (t : CvtT) (x4 : RMode) : uses (.vcvt d a f t x4) = ({ wv := regs d.val (t == .f64), rv := regs a.val (f == .f64) } : Use) := rfl
@[simp] theorem uses_vquantD8 (d : VReg) (a : VReg) (b : BSel) : uses (.vquantD8 d a b) = ({ wv := [d.val], rv := a.val :: vecsOf b false, rs := scalsOf b } : Use) := rfl
@[simp] theorem uses_vquantD6 (d : VReg) (a : VReg) (b : BSel) : uses (.vquantD6 d a b) = ({ wv := [d.val], rv := a.val :: vecsOf b false, rs := scalsOf b } : Use) := rfl
@[simp] theorem uses_vquantM4 (d : VReg) (a : VReg) (b : BSel) : uses (.vquantM4 d a b) = ({ wv := [d.val], rv := a.val :: vecsOf b false, rs := scalsOf b } : Use) := rfl
@[simp] theorem uses_vquantS8 (d : VReg) (a : VReg) (b : BSel) : uses (.vquantS8 d a b) = ({ wv := [d.val], rv := a.val :: vecsOf b false, rs := scalsOf b } : Use) := rfl
@[simp] theorem uses_vpack (d : VReg) (a : VReg) (w : PackW) : uses (.vpack d a w) = ({ wv := [d.val], rv := block a.val w.count } : Use) := rfl
@[simp] theorem uses_vunpkZ (d : VReg) (a : VReg) (w : PackW) : uses (.vunpkZ d a w) = ({ wv := block d.val w.count, rv := [a.val] } : Use) := rfl
@[simp] theorem uses_vunpkS (d : VReg) (a : VReg) (w : PackW) : uses (.vunpkS d a w) = ({ wv := block d.val w.count, rv := [a.val] } : Use) := rfl
@[simp] theorem uses_sgBoard (d : SReg) (a : SReg) : uses (.sgBoard d a) = ({ ws := [d.val], rs := a.val :: block d.val 5 } : Use) := rfl
@[simp] theorem uses_sgAlight (d : SReg) (a : SReg) : uses (.sgAlight d a) = ({ ws := [d.val], rs := [a.val] } : Use) := rfl
@[simp] theorem uses_sgCap (d : SReg) (a : SReg) (x2 : Bool) : uses (.sgCap d a x2) = ({ ws := block d.val 5, rs := [a.val] } : Use) := rfl
@[simp] theorem uses_sgMod (d : SReg) (a : SReg) (x2 : ModOp) (x3 : Fin 8) (x4 : Ord) : uses (.sgMod d a x2 x3 x4) = ({ ws := [d.val], rs := [a.val, d.val] } : Use) := rfl
@[simp] theorem uses_sgArm (d : SReg) (a : SReg) (x2 : ArmCmp) (x3 : Fin 8) : uses (.sgArm d a x2 x3) = ({ rs := [a.val, d.val, d.val + 1] } : Use) := rfl
@[simp] theorem uses_sgRev (d : SReg) (a : SReg) : uses (.sgRev d a) = ({ ws := [d.val], rs := [a.val] } : Use) := rfl
@[simp] theorem uses_sgRevOfs (d : SReg) : uses (.sgRevOfs d) = ({ ws := [d.val] } : Use) := rfl
@[simp] theorem uses_br (x0 : BitVec 19) : uses (.br x0) = ({ } : Use) := rfl
@[simp] theorem uses_brAny (c : CReg) (x1 : BitVec 19) : uses (.brAny c x1) = ({ rc := [c.val] } : Use) := rfl
@[simp] theorem uses_brAll (c : CReg) (x1 : BitVec 19) : uses (.brAll c x1) = ({ rc := [c.val] } : Use) := rfl
@[simp] theorem uses_brNone (c : CReg) (x1 : BitVec 19) : uses (.brNone c x1) = ({ rc := [c.val] } : Use) := rfl
@[simp] theorem uses_call (x0 : BitVec 19) : uses (.call x0) = ({ ws := [63] } : Use) := rfl
@[simp] theorem uses_jmp (d : SReg) (a : SReg) : uses (.jmp d a) = ({ ws := [d.val], rs := [a.val] } : Use) := rfl
@[simp] theorem uses_brx (b : SReg) (a : VReg) : uses (.brx b a) = ({ rs := [b.val], rv := [a.val] } : Use) := rfl
@[simp] theorem uses_vif (c : CReg) : uses (.vif c) = ({ rc := [c.val] } : Use) := rfl
@[simp] theorem uses_velse : uses .velse = ({ } : Use) := rfl
@[simp] theorem uses_vend : uses .vend = ({ } : Use) := rfl
@[simp] theorem uses_vkill (c : CReg) : uses (.vkill c) = ({ rc := [c.val] } : Use) := rfl
@[simp] theorem uses_vbrk (c : CReg) (x1 : Fin 256) : uses (.vbrk c x1) = ({ rc := [c.val] } : Use) := rfl
@[simp] theorem uses_exit : uses .exit = ({ } : Use) := rfl
@[simp] theorem uses_trap (x0 : BitVec 16) : uses (.trap x0) = ({ } : Use) := rfl
@[simp] theorem uses_brk (x0 : BitVec 16) : uses (.brk x0) = ({ } : Use) := rfl
@[simp] theorem uses_vldZ (d : VReg) (b : SReg) (o : VReg) (w : Width) (x4 : Hint) : uses (.vldZ d b o w x4) = ({ wv := regs d.val (w == .x64), rs := [b.val], rv := [o.val] } : Use) := rfl
@[simp] theorem uses_vldS (d : VReg) (b : SReg) (o : VReg) (w : Width) (x4 : Hint) : uses (.vldS d b o w x4) = ({ wv := regs d.val (w == .x64), rs := [b.val], rv := [o.val] } : Use) := rfl
@[simp] theorem uses_vst (d : VReg) (b : SReg) (o : VReg) (w : Width) (x4 : Hint) : uses (.vst d b o w x4) = ({ rs := [b.val], rv := o.val :: regs d.val (w == .x64) } : Use) := rfl
@[simp] theorem uses_sld (d : SReg) (b : SReg) (x2 : BitVec 12) : uses (.sld d b x2) = ({ ws := [d.val], rs := [b.val] } : Use) := rfl
@[simp] theorem uses_slw (d : SReg) (b : SReg) (x2 : BitVec 12) : uses (.slw d b x2) = ({ ws := [d.val], rs := [b.val] } : Use) := rfl
@[simp] theorem uses_sst (d : SReg) (b : SReg) (x2 : BitVec 12) : uses (.sst d b x2) = ({ rs := [b.val, d.val] } : Use) := rfl
@[simp] theorem uses_ssw (d : SReg) (b : SReg) (x2 : BitVec 12) : uses (.ssw d b x2) = ({ rs := [b.val, d.val] } : Use) := rfl
@[simp] theorem uses_vlds (d : VReg) (b : SReg) (o : VReg) (w : Width) : uses (.vlds d b o w) = ({ wv := regs d.val (w == .x64), rs := [b.val], rv := [o.val] } : Use) := rfl
@[simp] theorem uses_vsts (d : VReg) (b : SReg) (o : VReg) (w : Width) : uses (.vsts d b o w) = ({ rs := [b.val], rv := o.val :: regs d.val (w == .x64) } : Use) := rfl
@[simp] theorem uses_vlda (d : VReg) (b : SReg) (o : VReg) (w : Width) : uses (.vlda d b o w) = ({ wv := regs d.val (w == .x64), rs := [b.val], rv := [o.val] } : Use) := rfl
@[simp] theorem uses_vsta (d : VReg) (b : SReg) (o : VReg) (w : Width) : uses (.vsta d b o w) = ({ rs := [b.val], rv := o.val :: regs d.val (w == .x64) } : Use) := rfl
@[simp] theorem uses_vldx (d : VReg) (b : SReg) (o : VReg) (w : Bool) : uses (.vldx d b o w) = ({ wv := regs d.val w, rs := [b.val], rv := [o.val] } : Use) := rfl
@[simp] theorem uses_vatom (d : VReg) (a : VReg) (p : AOp) (x3 : Scope) (x4 : Ord) : uses (.vatom d a p x3 x4) = ({ wv := regs d.val p.is64, rv := regs a.val true ++ block d.val (p.extra + 1) } : Use) := rfl
@[simp] theorem uses_vmred (d : VReg) (a : VReg) (p : RedOp) (x3 : Scope) (x4 : Ord) : uses (.vmred d a p x3 x4) = ({ rv := regs a.val true ++ block d.val (p.op.extra + 1) } : Use) := rfl
@[simp] theorem uses_satom (d : SReg) (a : SReg) (b : SReg) (p : AOp) (x4 : Ord) : uses (.satom d a b p x4) = ({ ws := [d.val], rs := a.val :: b.val :: (if p.isCas then [d.val] else []) } : Use) := rfl
@[simp] theorem uses_vatoms (d : VReg) (a : VReg) (p : AOp) (x3 : Scope) (x4 : Ord) : uses (.vatoms d a p x3 x4) = ({ wv := regs d.val p.is64, rv := a.val :: block d.val (p.extra + 1) } : Use) := rfl
@[simp] theorem uses_fence (x0 : Bool) (x1 : FOrd) (x2 : Scope) : uses (.fence x0 x1 x2) = ({ } : Use) := rfl
@[simp] theorem uses_barInit (b : SReg) (e : SReg) : uses (.barInit b e) = ({ rs := [b.val, e] } : Use) := rfl
@[simp] theorem uses_barExpect (b : SReg) (e : SReg) : uses (.barExpect b e) = ({ rs := [b.val, e] } : Use) := rfl
@[simp] theorem uses_barArrive (b : SReg) (x1 : Scope) (x2 : Bool) : uses (.barArrive b x1 x2) = ({ rs := [b.val] } : Use) := rfl
@[simp] theorem uses_barArriveExp (b : SReg) (e : SReg) (x2 : Scope) (x3 : Bool) : uses (.barArriveExp b e x2 x3) = ({ rs := [b.val, e] } : Use) := rfl
@[simp] theorem uses_barWait (b : SReg) (e : SReg) (x2 : Scope) (x3 : Bool) : uses (.barWait b e x2 x3) = ({ rs := [b.val, e] } : Use) := rfl
@[simp] theorem uses_barTest (b : SReg) (e : SReg) (x2 : Scope) (x3 : Bool) : uses (.barTest b e x2 x3) = ({ rs := [b.val, e], ws := [e] } : Use) := rfl
@[simp] theorem uses_barPhase (b : SReg) (e : SReg) : uses (.barPhase b e) = ({ rs := [b.val], ws := [e] } : Use) := rfl
@[simp] theorem uses_waitc (x0 : Fin 16) (x1 : Fin 16) (x2 : Fin 16) (x3 : Fin 16) : uses (.waitc x0 x1 x2 x3) = ({ } : Use) := rfl
@[simp] theorem uses_vbank (x0 : BitVec 16) (x1 : BankCode) : uses (.vbank x0 x1) = ({ } : Use) := rfl
@[simp] theorem uses_pbank (x0 : Fin 128) (x1 : Fin 128) (x2 : BankCode) : uses (.pbank x0 x1 x2) = ({ } : Use) := rfl
@[simp] theorem uses_eacq : uses .eacq = ({ } : Use) := rfl
@[simp] theorem uses_eacqTry (c : CReg) : uses (.eacqTry c) = ({ wc := [c.val] } : Use) := rfl
@[simp] theorem uses_erel : uses .erel = ({ } : Use) := rfl
@[simp] theorem uses_cpG2s (d : SReg) (x1 : Fin 6) : uses (.cpG2s d x1) = ({ rs := block d.val 4 } : Use) := rfl
@[simp] theorem uses_cpS2g (d : SReg) (x1 : Fin 6) : uses (.cpS2g d x1) = ({ rs := block d.val 4 } : Use) := rfl
@[simp] theorem uses_cpG2a (d : SReg) (x1 : Fin 6) : uses (.cpG2a d x1) = ({ rs := block d.val 4 } : Use) := rfl
@[simp] theorem uses_cpG2w (d : SReg) (x1 : Fin 6) : uses (.cpG2w d x1) = ({ rs := block d.val 4 } : Use) := rfl
@[simp] theorem uses_cpX2g (d : SReg) (x1 : Fin 6) : uses (.cpX2g d x1) = ({ rs := block d.val 4 } : Use) := rfl
@[simp] theorem uses_cpG2g (d : SReg) (x1 : Fin 6) : uses (.cpG2g d x1) = ({ rs := block d.val 4 } : Use) := rfl
@[simp] theorem uses_cpCirc (d : SReg) (x1 : Fin 6) : uses (.cpCirc d x1) = ({ rs := block d.val 4 } : Use) := rfl
@[simp] theorem uses_gth (d : SReg) (x1 : Fin 6) : uses (.gth d x1) = ({ rs := block d.val 4 } : Use) := rfl
@[simp] theorem uses_qfence (x0 : BitVec 8) : uses (.qfence x0) = ({ } : Use) := rfl
@[simp] theorem uses_cbWait (d : SReg) (a : SReg) : uses (.cbWait d a) = ({ ws := [d.val], rs := [a.val] } : Use) := rfl
@[simp] theorem uses_cbFree (a : SReg) : uses (.cbFree a) = ({ rs := [a.val] } : Use) := rfl
@[simp] theorem uses_launch (d : SReg) : uses (.launch d) = ({ rs := block d.val 4 } : Use) := rfl
@[simp] theorem uses_launchTry (d : SReg) (c : CReg) : uses (.launchTry d c) = ({ rs := block d.val 4, wc := [c.val] } : Use) := rfl
@[simp] theorem uses_join (a : SReg) : uses (.join a) = ({ rs := [a.val] } : Use) := rfl
@[simp] theorem uses_joinAll : uses .joinAll = ({ } : Use) := rfl
@[simp] theorem uses_joinDoor (a : SReg) : uses (.joinDoor a) = ({ rs := [a.val] } : Use) := rfl
@[simp] theorem uses_amsg (d : SReg) : uses (.amsg d) = ({ rs := block d.val 4 } : Use) := rfl
@[simp] theorem uses_xcfg (p : VReg) (x1 : TKind) (x2 : Bool) : uses (.xcfg p x1 x2) = ({ rv := [p.val] } : Use) := rfl
@[simp] theorem uses_xlds (p : VReg) (x1 : Fin 4) (x2 : Fmt) : uses (.xlds p x1 x2) = ({ rv := [p.val] } : Use) := rfl
@[simp] theorem uses_xswp (x0 : Fin 4) : uses (.xswp x0) = ({ } : Use) := rfl
@[simp] theorem uses_xmm (p : VReg) (x1 : Fin 4) (x2 : Fmt) (x3 : Bool) (x4 : Bool) : uses (.xmm p x1 x2 x3 x4) = ({ rv := [p.val] } : Use) := rfl
@[simp] theorem uses_xbmm (p : VReg) (x1 : Fin 4) (x2 : Fmt) (x3 : Bool) : uses (.xbmm p x1 x2 x3) = ({ rv := [p.val] } : Use) := rfl
@[simp] theorem uses_xscac (p : VReg) (x1 : Bool) : uses (.xscac p x1) = ({ rv := [p.val] } : Use) := rfl
@[simp] theorem uses_xdrn (p : VReg) : uses (.xdrn p) = ({ rv := [p.val] } : Use) := rfl
@[simp] theorem uses_xrel (p : VReg) (x1 : Bool) : uses (.xrel p x1) = ({ rv := [p.val] } : Use) := rfl
@[simp] theorem uses_eret : uses .eret = ({ } : Use) := rfl
@[simp] theorem uses_mfsys (d : SReg) (x1 : Fin 4096) : uses (.mfsys d x1) = ({ ws := [d.val] } : Use) := rfl
@[simp] theorem uses_mtsys (a : SReg) (x1 : Fin 4096) : uses (.mtsys a x1) = ({ rs := [a.val] } : Use) := rfl
@[simp] theorem uses_tlbinvVa (a : SReg) : uses (.tlbinvVa a) = ({ rs := [a.val] } : Use) := rfl
@[simp] theorem uses_tlbinvAsid (a : SReg) : uses (.tlbinvAsid a) = ({ rs := [a.val] } : Use) := rfl
@[simp] theorem uses_tlbinvAll : uses .tlbinvAll = ({ } : Use) := rfl
@[simp] theorem uses_seatctlEvack (a : SReg) : uses (.seatctlEvack a) = ({ rs := [a.val] } : Use) := rfl
@[simp] theorem uses_seatctlKill (a : SReg) : uses (.seatctlKill a) = ({ rs := [a.val] } : Use) := rfl
@[simp] theorem uses_seatctlYield (a : SReg) : uses (.seatctlYield a) = ({ rs := [a.val] } : Use) := rfl
@[simp] theorem uses_halt (a : SReg) : uses (.halt a) = ({ rs := [a.val] } : Use) := rfl

end Sys2Proof.Laws
end

