-- ==== Sys2Proof/Laws/Maps.lean ====
section
/-!
SUPPORT. Laws of sparse maps, byte memories and registers: a read after a write, what a write leaves alone, and that every
memory operation keeps the canonical form.
-/

namespace Sys2Proof.Laws

open Sys2Proof Sys2Proof.Machine

/-! ### Sparse maps -/

section Map
variable {α : Type} [DecidableEq α] (d : α)

/-- A smaller bound holds where a larger one does. -/
theorem wfFrom_mono {lo hi : Nat} {m : SMap α} (h : lo ≤ hi) (hm : SMap.wfFrom d hi m = true) : SMap.wfFrom d lo m = true := by
  cases m with
  | nil => rfl
  | cons p m =>
    obtain ⟨k, v⟩ := p
    simp only [SMap.wfFrom, Bool.and_eq_true, decide_eq_true_eq] at hm ⊢
    exact ⟨⟨by omega, hm.1.2⟩, hm.2⟩

/-- A key below the bound of a map is not listed. -/
theorem get_below {lo k : Nat} {m : SMap α} (hm : SMap.wfFrom d lo m = true) (hk : k < lo) : SMap.get d m k = d := by
  induction m generalizing lo with
  | nil => rfl
  | cons p m ih =>
    obtain ⟨j, v⟩ := p
    simp only [SMap.wfFrom, Bool.and_eq_true, decide_eq_true_eq] at hm
    have hj : k ≠ j := by omega
    simp only [SMap.get, if_neg hj]
    exact ih hm.2 (by omega)

theorem erase_wfFrom {lo : Nat} {m : SMap α} (k : Nat) (hm : SMap.wfFrom d lo m = true) : SMap.wfFrom d lo (SMap.erase m k) = true := by
  induction m generalizing lo with
  | nil => rfl
  | cons p m ih =>
    obtain ⟨j, v⟩ := p
    simp only [SMap.wfFrom, Bool.and_eq_true, decide_eq_true_eq] at hm
    simp only [SMap.erase]
    split
    · exact wfFrom_mono d (by omega) hm.2
    · simp only [SMap.wfFrom, Bool.and_eq_true, decide_eq_true_eq]
      exact ⟨hm.1, ih hm.2⟩

theorem insert_wfFrom {lo : Nat} {m : SMap α} {k : Nat} {v : α} (hk : lo ≤ k) (hv : v ≠ d) (hm : SMap.wfFrom d lo m = true) :
    SMap.wfFrom d lo (SMap.insert m k v) = true := by
  induction m generalizing lo with
  | nil => simp [SMap.insert, SMap.wfFrom, hk, hv]
  | cons p m ih =>
    obtain ⟨j, w⟩ := p
    simp only [SMap.wfFrom, Bool.and_eq_true, decide_eq_true_eq] at hm
    simp only [SMap.insert]
    split
    · simp only [SMap.wfFrom, Bool.and_eq_true, decide_eq_true_eq]
      exact ⟨⟨hk, hv⟩, ⟨by omega, hm.1.2⟩, hm.2⟩
    · split
      · next h => simp only [SMap.wfFrom, Bool.and_eq_true, decide_eq_true_eq]; subst h; exact ⟨⟨hk, hv⟩, hm.2⟩
      · simp only [SMap.wfFrom, Bool.and_eq_true, decide_eq_true_eq]
        exact ⟨hm.1, ih (by omega) hm.2⟩

/-- A write keeps the canonical form. -/
theorem set_wf {m : SMap α} (k : Nat) (v : α) (hm : SMap.wf d m = true) : SMap.wf d (SMap.set d m k v) = true := by
  unfold SMap.set SMap.wf
  split
  · exact erase_wfFrom d k hm
  · next h => exact insert_wfFrom d (Nat.zero_le _) h hm

omit [DecidableEq α] in
theorem get_insert (m : SMap α) (k j : Nat) (v : α) : SMap.get d (SMap.insert m k v) j = if j = k then v else SMap.get d m j := by
  induction m with
  | nil => simp [SMap.insert, SMap.get]
  | cons p m ih =>
    obtain ⟨i, w⟩ := p
    simp only [SMap.insert]
    split
    · simp [SMap.get]
    · split
      · next h => subst h; simp only [SMap.get]; split <;> simp_all
      · next h => simp only [SMap.get, ih]; split <;> split <;> simp_all

theorem get_erase {lo : Nat} {m : SMap α} (k j : Nat) (hm : SMap.wfFrom d lo m = true) :
    SMap.get d (SMap.erase m k) j = if j = k then d else SMap.get d m j := by
  induction m generalizing lo with
  | nil => simp [SMap.erase, SMap.get]
  | cons p m ih =>
    obtain ⟨i, w⟩ := p
    simp only [SMap.wfFrom, Bool.and_eq_true, decide_eq_true_eq] at hm
    simp only [SMap.erase]
    split
    · next h =>
      subst h
      by_cases hj : j = k
      · subst hj; simp only [if_true]; exact get_below d hm.2 (by omega)
      · simp [SMap.get, hj]
    · next h =>
      simp only [SMap.get, ih hm.2]
      by_cases hi : j = i
      · subst hi; simp [Ne.symm h]
      · simp [hi]

/-- A read after a write, at any key. -/
theorem get_set {m : SMap α} (k j : Nat) (v : α) (hm : SMap.wf d m = true) :
    SMap.get d (SMap.set d m k v) j = if j = k then v else SMap.get d m j := by
  unfold SMap.set
  split
  · next h => subst h; exact get_erase v k j hm
  · exact get_insert d m k j v

/-- A write leaves every other key alone, whatever the form of the map. -/
theorem get_set_ne {m : SMap α} {k j : Nat} (v : α) (h : j ≠ k) : SMap.get d (SMap.set d m k v) j = SMap.get d m j := by
  unfold SMap.set
  split
  · induction m with
    | nil => rfl
    | cons p m ih =>
      obtain ⟨i, w⟩ := p
      simp only [SMap.erase]
      split
      · next e => subst e; simp [SMap.get, h]
      · simp only [SMap.get, ih]
  · rw [get_insert]; simp [h]

/-- Dropping entries keeps the canonical form. -/
theorem filter_wfFrom {lo : Nat} {m : SMap α} (p : Nat × α → Bool) (hm : SMap.wfFrom d lo m = true) :
    SMap.wfFrom d lo (m.filter p) = true := by
  induction m generalizing lo with
  | nil => rfl
  | cons q m ih =>
    obtain ⟨j, v⟩ := q
    simp only [SMap.wfFrom, Bool.and_eq_true, decide_eq_true_eq] at hm
    simp only [List.filter]
    split
    · simp only [SMap.wfFrom, Bool.and_eq_true, decide_eq_true_eq]; exact ⟨hm.1, ih hm.2⟩
    · exact wfFrom_mono d (by omega) (ih hm.2)

end Map

/-! ### Byte memories -/

theorem put_wf {m : Memory} (a : Nat) (b : Byte) (h : Memory.wf m = true) : Memory.wf (Memory.put m a b) = true := set_wf 0 a b h
theorem putBytes_wf {m : Memory} (a : Nat) (l : List Byte) (h : Memory.wf m = true) : Memory.wf (Memory.putBytes m a l) = true := by
  induction l generalizing m a with
  | nil => exact h
  | cons b l ih => exact ih (a + 1) (put_wf a b h)
theorem write_wf {m : Memory} (a n v : Nat) (h : Memory.wf m = true) : Memory.wf (Memory.write m a n v) = true := putBytes_wf a _ h
theorem zeroTile_wf {m : Memory} (t : Tile) (h : Memory.wf m = true) : Memory.wf (zeroTile t m) = true := filter_wfFrom 0 _ h

/-- A byte read after a byte written. -/
theorem get_put {m : Memory} (a k : Nat) (b : Byte) (h : Memory.wf m = true) :
    Memory.get (Memory.put m a b) k = if k = a then b else Memory.get m k := get_set 0 a k b h
/-- A byte written leaves every other byte. -/
theorem get_put_ne {m : Memory} {a k : Nat} (b : Byte) (h : k ≠ a) : Memory.get (Memory.put m a b) k = Memory.get m k :=
  get_set_ne 0 b h
/-- Bytes written leave every byte outside them. -/
theorem get_putBytes_out {m : Memory} {a k : Nat} (l : List Byte) (h : k < a ∨ a + l.length ≤ k) :
    Memory.get (Memory.putBytes m a l) k = Memory.get m k := by
  induction l generalizing m a with
  | nil => rfl
  | cons b l ih =>
    simp only [List.length_cons] at h
    rw [Memory.putBytes, ih (by omega), get_put_ne b (by omega)]
/-- Bytes written read back. -/
theorem get_putBytes_in {m : Memory} {a i : Nat} (l : List Byte) (hm : Memory.wf m = true) (h : i < l.length) :
    Memory.get (Memory.putBytes m a l) (a + i) = l[i] := by
  induction l generalizing m a i with
  | nil => simp at h
  | cons b l ih =>
    cases i with
    | zero => rw [Memory.putBytes, get_putBytes_out l (by omega), get_put a _ b hm]; simp
    | succ i =>
      simp only [List.length_cons] at h
      rw [Memory.putBytes, show a + (i + 1) = a + 1 + i by omega, ih (put_wf a b hm) (by omega)]
      rfl

/-- Bytes read after bytes written at the same place. -/
theorem bytes_putBytes {m : Memory} (a : Nat) (l : List Byte) (hm : Memory.wf m = true) :
    Memory.bytes (Memory.putBytes m a l) a l.length = l := by
  apply List.ext_getElem
  · simp [Memory.bytes]
  · intro i h1 h2
    simp only [Memory.bytes, List.getElem_map, List.getElem_range]
    exact get_putBytes_in l hm h2

theorem length_bytesOf (n v : Nat) : (bytesOf n v).length = n := by
  induction n generalizing v with
  | zero => rfl
  | succ n ih => simp [bytesOf, ih]

/-- The bytes of a number are the number, cut to their width (R2). -/
theorem wordOfBytes_bytesOf (n v : Nat) : wordOfBytes (bytesOf n v) = v % 256 ^ n := by
  induction n generalizing v with
  | zero => simp [bytesOf, wordOfBytes, Nat.mod_one]
  | succ n ih =>
    have h : v % 256 ^ (n + 1) = v % 256 + 256 * (v / 256 % 256 ^ n) := by rw [show 256 ^ (n + 1) = 256 * 256 ^ n by ring, Nat.mod_mul]
    simp only [bytesOf, wordOfBytes, ih, BitVec.toNat_ofNat, h]

/-- A number read after it was written at the same place. -/
theorem read_write {m : Memory} (a n v : Nat) (hm : Memory.wf m = true) : Memory.read (Memory.write m a n v) a n = v % 256 ^ n := by
  unfold Memory.read Memory.write
  have h := bytes_putBytes a (bytesOf n v) hm
  rw [length_bytesOf] at h
  rw [h, wordOfBytes_bytesOf]
/-- A number read elsewhere is untouched by a write. -/
theorem read_write_out {m : Memory} {a n v b k : Nat} (h : b + k ≤ a ∨ a + n ≤ b) :
    Memory.read (Memory.write m a n v) b k = Memory.read m b k := by
  unfold Memory.read Memory.write Memory.bytes
  congr 1
  apply List.map_congr_left
  intro i hi
  rw [List.mem_range] at hi
  apply get_putBytes_out
  rw [length_bytesOf]
  omega

theorem reset_memWf : State.reset.memWf = true := by decide

/-! ### Registers (R58, R59) -/

theorem setS_wf {r : Regs} (n : Nat) (v : W64) (h : RegsWf r) : RegsWf (r.setS n v) := by
  unfold Regs.setS; split
  · exact h
  · exact ⟨set_wf 0 n v h.1, h.2⟩
theorem setC_wf {r : Regs} (n : Nat) (v : LaneMask) (h : RegsWf r) : RegsWf (r.setC n v) := by
  unfold Regs.setC; split
  · exact h
  · exact ⟨h.1, h.2.1, set_wf 0 n v h.2.2.1, h.2.2.2⟩
theorem setN_wf {r : Regs} (L : Nat) (v : Byte) (h : RegsWf r) : RegsWf (r.setN L v) :=
  ⟨h.1, h.2.1, h.2.2.1, set_wf 0 L v h.2.2.2⟩
theorem setV_wf {r : Regs} (n L : Nat) (v : W32) (h : RegsWf r) : RegsWf (r.setV n L v) :=
  ⟨h.1, set_wf 0 _ v h.2.1, h.2.2⟩
theorem setVs_wf {r : Regs} (n : Nat) (l : List Nat) (f : Nat → W32) (h : RegsWf r) : RegsWf (r.setVs n l f) := by
  unfold Regs.setVs
  induction l generalizing r with
  | nil => exact h
  | cons L l ih => exact ih (setV_wf n L (f L) h)

@[simp] theorem getS_zero (r : Regs) : r.getS 0 = 0 := rfl
@[simp] theorem getC_seven (r : Regs) : r.getC 7 = BitVec.allOnes 32 := rfl
theorem getS_setS {r : Regs} (h : RegsWf r) (n m : Nat) (v : W64) :
    (r.setS n v).getS m = if m = 0 then 0 else if m = n then v else r.getS m := by
  unfold Regs.setS Regs.getS
  by_cases hn : n = 0
  · by_cases hm : m = 0
    · simp [hm]
    · simp only [hn, if_true, hm, if_false]
  · by_cases hm : m = 0
    · simp [hm]
    · simp only [hn, hm, if_false]; exact get_set 0 n m v h.1
theorem getC_setC {r : Regs} (h : RegsWf r) (n m : Nat) (v : LaneMask) :
    (r.setC n v).getC m = if m = 7 then BitVec.allOnes 32 else if m = n then v else r.getC m := by
  unfold Regs.setC Regs.getC
  by_cases hn : n = 7
  · by_cases hm : m = 7
    · simp [hm]
    · simp only [hn, if_true, hm, if_false]
  · by_cases hm : m = 7
    · simp [hm]
    · simp only [hn, hm, if_false]; exact get_set 0 n m v h.2.2.1
theorem getN_setN {r : Regs} (h : RegsWf r) (L K : Nat) (v : Byte) : (r.setN L v).getN K = if K = L then v else r.getN K :=
  get_set 0 L K v h.2.2.2
/-- A lane of a vector register after a write of a lane. -/
theorem getV_setV {r : Regs} (h : RegsWf r) {n L m K : Nat} (hL : L < 32) (hK : K < 32) (v : W32) :
    (r.setV n L v).getV m K = if m = n ∧ K = L then v else r.getV m K := by
  unfold Regs.setV Regs.getV
  rw [get_set 0 _ _ v h.2.1]
  by_cases hm : m = n ∧ K = L
  · simp [hm.1, hm.2]
  · have hk : ¬ 32 * m + K = 32 * n + L := by omega
    simp only [if_neg hm, if_neg hk]
/-- A lane of a vector register after a write of several lanes. -/
theorem getV_setVs {r : Regs} (h : RegsWf r) {n m K : Nat} (hK : K < 32) (l : List Nat) (hl : ∀ L ∈ l, L < 32) (f : Nat → W32) :
    (r.setVs n l f).getV m K = if m = n ∧ K ∈ l then f K else r.getV m K := by
  unfold Regs.setVs
  induction l generalizing r with
  | nil => simp
  | cons L l ih =>
    rw [List.foldl_cons, ih (setV_wf n L (f L) h) fun x hx => hl x (List.mem_cons_of_mem _ hx),
      getV_setV h (hl L (by simp)) hK]
    by_cases h1 : m = n
    · by_cases h2 : K = L
      · simp [h1, h2]
      · simp [h1, h2]
    · simp [h1]

@[simp] theorem setS_v (r : Regs) (n : Nat) (v : W64) : (r.setS n v).v = r.v := by unfold Regs.setS; split <;> rfl
@[simp] theorem setS_c (r : Regs) (n : Nat) (v : W64) : (r.setS n v).c = r.c := by unfold Regs.setS; split <;> rfl
@[simp] theorem setS_nest (r : Regs) (n : Nat) (v : W64) : (r.setS n v).nest = r.nest := by unfold Regs.setS; split <;> rfl
@[simp] theorem setC_s (r : Regs) (n : Nat) (v : LaneMask) : (r.setC n v).s = r.s := by unfold Regs.setC; split <;> rfl
@[simp] theorem setC_v (r : Regs) (n : Nat) (v : LaneMask) : (r.setC n v).v = r.v := by unfold Regs.setC; split <;> rfl
@[simp] theorem setC_nest (r : Regs) (n : Nat) (v : LaneMask) : (r.setC n v).nest = r.nest := by unfold Regs.setC; split <;> rfl
@[simp] theorem setN_s (r : Regs) (L : Nat) (v : Byte) : (r.setN L v).s = r.s := rfl
@[simp] theorem setN_v (r : Regs) (L : Nat) (v : Byte) : (r.setN L v).v = r.v := rfl
@[simp] theorem setN_c (r : Regs) (L : Nat) (v : Byte) : (r.setN L v).c = r.c := rfl
theorem setVs_rest (r : Regs) (n : Nat) (l : List Nat) (f : Nat → W32) :
    (r.setVs n l f).s = r.s ∧ (r.setVs n l f).c = r.c ∧ (r.setVs n l f).nest = r.nest := by
  unfold Regs.setVs
  induction l generalizing r with
  | nil => exact ⟨rfl, rfl, rfl⟩
  | cons L l ih => exact ih (r.setV n L (f L))
@[simp] theorem setVs_s (r : Regs) (n : Nat) (l : List Nat) (f : Nat → W32) : (r.setVs n l f).s = r.s := (setVs_rest r n l f).1
@[simp] theorem setVs_c (r : Regs) (n : Nat) (l : List Nat) (f : Nat → W32) : (r.setVs n l f).c = r.c := (setVs_rest r n l f).2.1
@[simp] theorem setVs_nest (r : Regs) (n : Nat) (l : List Nat) (f : Nat → W32) : (r.setVs n l f).nest = r.nest := (setVs_rest r n l f).2.2

end Sys2Proof.Laws
end

