-- ==== Sys2Proof/Laws/FormBase.lean ====
section
/-!
SUPPORT. The canonical form of every memory of the state (State.memWf): what records, lists, folds and outcomes keep of it. One lemma
for each function of the model that answers a state or a team follows in FormOps, FormEngines and FormDevice.
-/

namespace Sys2Proof.Machine

open Sys2Proof Sys2Proof.Laws

theorem memWf_iff {s : State} : s.memWf = true ↔ (Memory.wf s.mem = true ∧ Memory.wf s.hostMem = true ∧ Memory.wf s.peerMem = true
    ∧ (∀ t, t ∈ s.teams → t.memWf = true) ∧ s.cur.team.memWf = true) := by
  simp [State.memWf, and_assoc]

/-- The memories and teams of a record. -/
theorem memWf_mk {x0 : Nat} {x1 : List (Nat × Event)} {x2 : Option Event} {x3 : List Nat} {x4 : List Op} {x5 : List (Nat
    × Nat)} {x6 : Focus} {x7 x8 x9 : Memory} {x10 : List Team} {x11 : List Grid} {x12 : List Op} {x13 : List Req} {x14 :
    List Walk} {x15 : List FaultRec} {x16 : List Seat} {x17 : List (Nat × RingSlot)} {x18 : List Arm} {x19 : List
    PlanePair} {x20 : List Pass} {x21 x22 : List Nat} {x23 : List ((Nat × Nat) × (Nat × RowKey))} {x24 : List (Nat × Nat
    × Nat)} {x25 : SMap Nat} {x26 : List Nat} {x27 : List Queue} {x28 : List Completion} {x29 : SMap Nat} {x30 : SMap
    W32} {x31 : List (Nat × W64)} {x32 : List Nat} {x33 : HostRegs} {x34 x35 : List Mail} {x36 : List Visit} {x37 : List
    Window} {x38 : Power} {x39 : Link} {x40 x41 x42 x43 : Nat} :
    (State.mk x0 x1 x2 x3 x4 x5 x6 x7 x8 x9 x10 x11 x12 x13 x14 x15 x16 x17 x18 x19 x20 x21 x22 x23 x24 x25 x26 x27 x28
      x29 x30 x31 x32 x33 x34 x35 x36 x37 x38 x39 x40 x41 x42 x43).memWf
      = (Memory.wf x7 && Memory.wf x8 && Memory.wf x9 && x10.all Team.memWf && x6.team.memWf) := rfl
theorem memWf_parts {s : State} (h : s.memWf = true) {c : Team} (hc : c.memWf = true) :
    (Memory.wf s.mem && Memory.wf s.hostMem && Memory.wf s.peerMem && s.teams.all Team.memWf && c.memWf) = true := by
  rw [memWf_iff] at h; simp only [Bool.and_eq_true, List.all_eq_true]; exact ⟨⟨⟨⟨h.1, h.2.1⟩, h.2.2.1⟩, h.2.2.2.1⟩, hc⟩
theorem memWf_partsTeams {s : State} (h : s.memWf = true) {ts : List Team} (ht : ∀ t, t ∈ ts → t.memWf = true) {c : Team} (hc : c.memWf = true) :
    (Memory.wf s.mem && Memory.wf s.hostMem && Memory.wf s.peerMem && ts.all Team.memWf && c.memWf) = true := by
  rw [memWf_iff] at h; simp only [Bool.and_eq_true, List.all_eq_true]; exact ⟨⟨⟨⟨h.1, h.2.1⟩, h.2.2.1⟩, ht⟩, hc⟩
theorem memWf_partsMem {s : State} (h : s.memWf = true) {m : Memory} (hm : Memory.wf m = true) {c : Team} (hc : c.memWf = true) :
    (Memory.wf m && Memory.wf s.hostMem && Memory.wf s.peerMem && s.teams.all Team.memWf && c.memWf) = true := by
  rw [memWf_iff] at h; simp only [Bool.and_eq_true, List.all_eq_true]; exact ⟨⟨⟨⟨hm, h.2.1⟩, h.2.2.1⟩, h.2.2.2.1⟩, hc⟩

theorem memWf_mem {s : State} (h : s.memWf = true) : Memory.wf s.mem = true := (memWf_iff.1 h).1
theorem memWf_hostMem {s : State} (h : s.memWf = true) : Memory.wf s.hostMem = true := (memWf_iff.1 h).2.1
theorem memWf_peerMem {s : State} (h : s.memWf = true) : Memory.wf s.peerMem = true := (memWf_iff.1 h).2.2.1
theorem memWf_teams {s : State} (h : s.memWf = true) : ∀ t, t ∈ s.teams → t.memWf = true := (memWf_iff.1 h).2.2.2.1
theorem memWf_cur {s : State} (h : s.memWf = true) : s.cur.team.memWf = true := (memWf_iff.1 h).2.2.2.2

theorem memWf_foldl {α : Type} {f : State → α → State} {l : List α} {s : State} (h : s.memWf = true)
    (hf : ∀ s a, s.memWf = true → (f s a).memWf = true) : (l.foldl f s).memWf = true := by
  induction l generalizing s with
  | nil => exact h
  | cons a l ih => exact ih (hf s a h)
theorem memWf_map {f : Team → Team} {l : List Team} (h : ∀ t, t ∈ l → t.memWf = true)
    (hf : ∀ t, t.memWf = true → (f t).memWf = true) : ∀ t, t ∈ l.map f → t.memWf = true := by
  intro t ht
  obtain ⟨u, hu, rfl⟩ := List.mem_map.1 ht
  exact hf u (h u hu)
theorem memWf_filter {p : Team → Bool} {l : List Team} (h : ∀ t, t ∈ l → t.memWf = true) :
    ∀ t, t ∈ l.filter p → t.memWf = true := fun t ht => h t (List.mem_filter.1 ht).1
theorem memWf_append {l m : List Team} (h : ∀ t, t ∈ l → t.memWf = true) (k : ∀ t, t ∈ m → t.memWf = true) :
    ∀ t, t ∈ l ++ m → t.memWf = true := fun t ht => (List.mem_append.1 ht).elim (h t) (k t)
theorem memWf_one {u : Team} (h : u.memWf = true) : ∀ t, t ∈ [u] → t.memWf = true := by simpa using h
theorem memWf_insertTeam {u : Team} {l : List Team} (h : ∀ t, t ∈ l → t.memWf = true) (hu : u.memWf = true) :
    ∀ t, t ∈ insertTeam u l → t.memWf = true := by
  induction l with
  | nil => simpa [insertTeam] using hu
  | cons a l ih =>
    intro t ht
    unfold insertTeam at ht
    split at ht
    · rcases List.mem_cons.1 ht with rfl | ht
      · exact hu
      · exact h t ht
    · rcases List.mem_cons.1 ht with rfl | ht
      · exact h _ (List.mem_cons_self ..)
      · exact ih (fun t ht => h t (List.mem_cons_of_mem _ ht)) t ht
theorem memWf_find {s : State} (h : s.memWf = true) {id : Nat} {t : Team} (e : s.findTeam id = some t) : t.memWf = true :=
  memWf_teams h t (List.mem_of_find?_eq_some e)
theorem memWf_get {s : State} (h : s.memWf = true) {id : Nat} {t : Team} (e : s.getTeam id = some t) : t.memWf = true := by
  unfold State.getTeam at e
  split at e
  · cases e; exact memWf_cur h
  · exact memWf_find h e

/-- A meaning that keeps the memories' form. -/
def OutWf (o : Out) : Prop := ∀ t, o = .next t → t.memWf = true
theorem outWf_next {s : State} (h : s.memWf = true) : OutWf (.next s) := by intro t e; cases e; exact h
theorem outWf_fault {f : Fault} : OutWf (.fault f) := by intro t e; cases e
theorem outWf_refused {f : Refusal} : OutWf (.refused f) := by intro t e; cases e
def ExWf (x : Except TrapReq State) : Prop := ∀ t, x = .ok t → t.memWf = true
theorem exWf_ok {s : State} (h : s.memWf = true) : ExWf (.ok s) := by intro t e; cases e; exact h
theorem exWf_pure {s : State} (h : s.memWf = true) : ExWf (pure s) := by intro t e; cases e; exact h
theorem exWf_error {f : TrapReq} : ExWf (.error f) := by intro t e; cases e
theorem exWf_throw {f : TrapReq} : ExWf (throw f) := by intro t e; cases e
theorem exWf_bind {α : Type} {x : Except TrapReq α} {f : α → Except TrapReq State} (h : ∀ a, ExWf (f a)) : ExWf (x >>= f) := by
  intro t e
  cases x with
  | error x => cases e
  | ok a => exact h a t e
/-- An answer that may be missing. -/
def OptWf (x : Option State) : Prop := ∀ t, x = some t → t.memWf = true
theorem optWf_some {s : State} (h : s.memWf = true) : OptWf (some s) := by intro t e; cases e; exact h
theorem optWf_none : OptWf none := by intro t e; cases e
theorem optWf_of {α : Type} {x : Option α} {f : α → State} (hf : ∀ a, (f a).memWf = true) : OptWf (x.map f) := by
  intro t e; obtain ⟨a, _, rfl⟩ := Option.map_eq_some_iff.1 e; exact hf a
theorem optWf_getD {x : Option State} {s : State} (hx : OptWf x) (h : s.memWf = true) : (x.getD s).memWf = true := by
  cases x with
  | none => exact h
  | some t => exact hx t rfl

/-- The memories of a team's record. -/
theorem teamWf_mk {x0 x1 x2 x3 x4 x5 x6 x7 x8 x9 : Nat} {x10 : Option Nat} {x11 x12 x13 : Nat} {x14 : W32} {x15 : Nat}
    {x16 : Region} {x17 : RunMode} {x18 : Kernel} {x19 : List W64} {x20 : TeamState} {x21 x22 : Nat} {x23 : Bool} {x24 :
    Nat} {x25 x26 x27 : Bool} {x28 : Option Nat} {x29 : Memory} {x30 : SMap BankState} {x31 : List Wake} {x32 : Nat}
    {x33 x34 : List Nat} {x35 x36 x37 : Memory} {x38 : Option (Nat × Memory)} {x39 x40 x41 : Nat} {x42 x43 : List Tile}
    {x44 : Code} {x45 : List Extent} {x46 : List Declared} {x47 : List Group} {x48 : Option Regroup} {x49 : Option (W64
    × W64 × W64)} {x50 : List Arm} {x51 : Option Nat} {x52 : List Group} {x53 : List Tile} {x54 : Option Nat} {x55 :
    Option SaveRecord} :
    (Team.mk x0 x1 x2 x3 x4 x5 x6 x7 x8 x9 x10 x11 x12 x13 x14 x15 x16 x17 x18 x19 x20 x21 x22 x23 x24 x25 x26 x27 x28
      x29 x30 x31 x32 x33 x34 x35 x36 x37 x38 x39 x40 x41 x42 x43 x44 x45 x46 x47 x48 x49 x50 x51 x52 x53 x54 x55).memWf
      = (Memory.wf x29 && Memory.wf x35 && Memory.wf x36 && Memory.wf x37 && x55.all SaveRecord.memWf) := rfl
theorem teamWf_parts {a b c d : Memory} {r : Option SaveRecord} (ha : Memory.wf a = true) (hb : Memory.wf b = true) (hc : Memory.wf c = true)
    (hd : Memory.wf d = true) (hr : r.all SaveRecord.memWf = true) :
    (Memory.wf a && Memory.wf b && Memory.wf c && Memory.wf d && r.all SaveRecord.memWf) = true := by
  simp only [ha, hb, hc, hd, hr, Bool.and_self]
theorem teamWf_iff {t : Team} : t.memWf = true ↔
    (Memory.wf t.scratch = true ∧ Memory.wf t.abuf = true ∧ Memory.wf t.wbuf = true ∧ Memory.wf t.xbuf = true
      ∧ t.save.all SaveRecord.memWf = true) := by
  simp only [Team.memWf, Bool.and_eq_true, and_assoc]
theorem teamWf_scratch {t : Team} (h : t.memWf = true) : Memory.wf t.scratch = true := (teamWf_iff.1 h).1
theorem teamWf_abuf {t : Team} (h : t.memWf = true) : Memory.wf t.abuf = true := (teamWf_iff.1 h).2.1
theorem teamWf_wbuf {t : Team} (h : t.memWf = true) : Memory.wf t.wbuf = true := (teamWf_iff.1 h).2.2.1
theorem teamWf_xbuf {t : Team} (h : t.memWf = true) : Memory.wf t.xbuf = true := (teamWf_iff.1 h).2.2.2.1
theorem teamWf_save {t : Team} (h : t.memWf = true) : t.save.all SaveRecord.memWf = true := (teamWf_iff.1 h).2.2.2.2
theorem saveWf_none : (none : Option SaveRecord).all SaveRecord.memWf = true := rfl
theorem saveWf_some {r : SaveRecord} (h : r.memWf = true) : (some r).all SaveRecord.memWf = true := h
theorem wf_foldl {α : Type} {f : Memory → α → Memory} {l : List α} {m : Memory} (h : Memory.wf m = true)
    (hf : ∀ m a, Memory.wf m = true → Memory.wf (f m a) = true) : Memory.wf (l.foldl f m) = true := by
  induction l generalizing m with
  | nil => exact h
  | cons a l ih => exact ih (hf m a h)
theorem wf_filter {p : Nat × Byte → Bool} {m : Memory} (h : Memory.wf m = true) : Memory.wf (List.filter p m) = true := filter_wfFrom 0 p h
theorem wf_nil : Memory.wf [] = true := rfl
theorem memWf_foldl2 {α β : Type} {f : β × State → α → β × State} {l : List α} {r : β × State} (h : r.2.memWf = true)
    (hf : ∀ r a, r.2.memWf = true → (f r a).2.memWf = true) : (l.foldl f r).2.memWf = true := by
  induction l generalizing r with
  | nil => exact h
  | cons a l ih => exact ih (hf r a h)
theorem memWf_pair {β : Type} {b : β} {s : State} (h : s.memWf = true) : ((b, s) : β × State).2.memWf = true := h
theorem optWf_elim {x : Option State} {t : State} (h : OptWf x) (e : x = some t) : t.memWf = true := h t e
theorem exWf_elim {x : Except TrapReq State} {t : State} (h : ExWf x) (e : x = .ok t) : t.memWf = true := h t e
theorem memWf_ofPair {β : Type} {p : β × State} {b : β} {s : State} (h : p.2.memWf = true) (e : p = (b, s)) : s.memWf = true := by
  subst e; exact h
theorem memWf_ofFirst {β : Type} {p : State × β} {b : β} {s : State} (h : p.1.memWf = true) (e : p = (s, b)) : s.memWf = true := by
  subst e; exact h
theorem optWf_map {x : Option State} {f : State → State} (h : OptWf x) (hf : ∀ s, s.memWf = true → (f s).memWf = true) :
    OptWf (x.map f) := by
  intro t e
  cases x with
  | none => cases e
  | some s => cases e; exact hf s (h s rfl)
theorem memWf_headOr {l : List Team} {t : Team} (h : ∀ u, u ∈ l → u.memWf = true) (e : l.head? = some t) : t.memWf = true :=
  h t (List.mem_of_head? e)
theorem onNext_outWf {o : Out} {f : State → State} (ho : OutWf o) (hf : ∀ s, s.memWf = true → (f s).memWf = true) : OutWf (onNext o f) := by
  intro t e
  cases o with
  | next s => cases e; exact hf s (ho s rfl)
  | fault x => cases e
  | refused x => cases e
theorem teamWf_foldl {α : Type} {f : Team → α → Team} {l : List α} {t : Team} (h : t.memWf = true)
    (hf : ∀ t a, t.memWf = true → (f t a).memWf = true) : (l.foldl f t).memWf = true := by
  induction l generalizing t with
  | nil => exact h
  | cons a l ih => exact ih (hf t a h)
theorem wf_foldl1 {α β : Type} {f : Memory × β → α → Memory × β} {l : List α} {r : Memory × β} (h : Memory.wf r.1 = true)
    (hf : ∀ r a, Memory.wf r.1 = true → Memory.wf (f r a).1 = true) : Memory.wf (l.foldl f r).1 = true := by
  induction l generalizing r with
  | nil => exact h
  | cons a l ih => exact ih (hf r a h)
theorem memWf_foldl1 {α β : Type} {f : State × β → α → State × β} {l : List α} {r : State × β} (h : r.1.memWf = true)
    (hf : ∀ r a, r.1.memWf = true → (f r a).1.memWf = true) : (l.foldl f r).1.memWf = true := by
  induction l generalizing r with
  | nil => exact h
  | cons a l ih => exact ih (hf r a h)
theorem memWf_ite {c : Prop} [Decidable c] {a b : State} (ha : a.memWf = true) (hb : b.memWf = true) : (if c then a else b).memWf = true := by
  split
  · exact ha
  · exact hb

end Sys2Proof.Machine
end

