-- ==== Sys2Proof/Laws/FormOps.lean ====
section
/-!
SUPPORT. Every operation and meaning of the files from Machine/Ops.lean to Machine/Tiles.lean keeps the canonical form of every memory.
-/

namespace Sys2Proof.Machine

open Sys2Proof Sys2Proof.Laws


/-! ### Machine/Ops.lean -/

theorem State.onGroup_memWf {s : State} (h : s.memWf = true) (f : Group → Group) : (State.onGroup s f).memWf = true := by
  unfold State.onGroup
  repeat' first
    | with_reducible assumption | with_reducible refine memWf_cur ?_ | (simp only [memWf_mk]; with_reducible refine memWf_parts ?_ ?_)
theorem State.onTeam_memWf {s : State} (h : s.memWf = true) (f : Team → Team) (hf : ∀ t, t.memWf = true → (f t).memWf = true) :
    (s.onTeam f).memWf = true := by
  unfold State.onTeam; rw [memWf_mk]; exact memWf_parts h (hf _ (memWf_cur h))
theorem State.onRegs_memWf {s : State} (h : s.memWf = true) (f : Regs → Regs) : (State.onRegs s f).memWf = true := by
  unfold State.onRegs
  repeat' first
    | with_reducible assumption | with_reducible refine State.onGroup_memWf ?_ _
theorem State.wS_memWf {s : State} (h : s.memWf = true) (n : Nat) (v : W64) : (State.wS s n v).memWf = true := by
  unfold State.wS
  repeat' first
    | with_reducible assumption | with_reducible refine State.onGroup_memWf ?_ _
theorem State.wC_memWf {s : State} (h : s.memWf = true) (n : Nat) (v : LaneMask) : (State.wC s n v).memWf = true := by
  unfold State.wC
  repeat' first
    | with_reducible assumption | with_reducible refine State.onGroup_memWf ?_ _
theorem State.wN_memWf {s : State} (h : s.memWf = true) (L : Nat) (v : Byte) : (State.wN s L v).memWf = true := by
  unfold State.wN
  repeat' first
    | with_reducible assumption | with_reducible refine State.onGroup_memWf ?_ _
theorem State.wVs_memWf {s : State} (h : s.memWf = true) (n : Nat) (lanes : List Nat) (f : Nat → W32) : (State.wVs s n lanes f).memWf = true := by
  unfold State.wVs
  repeat' first
    | with_reducible assumption | with_reducible refine State.onGroup_memWf ?_ _
theorem State.wPs_memWf {s : State} (h : s.memWf = true) (n : Nat) (lanes : List Nat) (f : Nat → W64) : (State.wPs s n lanes f).memWf = true := by
  unfold State.wPs
  repeat' first
    | with_reducible assumption | with_reducible refine State.onGroup_memWf ?_ _
theorem State.onSplit_memWf {s : State} (h : s.memWf = true) (f : Split → Split) : (State.onSplit s f).memWf = true := by
  unfold State.onSplit
  repeat' first
    | with_reducible assumption | with_reducible refine State.onGroup_memWf ?_ _
theorem State.goto_memWf {s : State} (h : s.memWf = true) (pkt : W64) (slot : Nat) : (State.goto s pkt slot).memWf = true := by
  unfold State.goto
  repeat' first
    | with_reducible assumption | with_reducible refine State.onSplit_memWf ?_ _
theorem State.branch_memWf {s : State} (h : s.memWf = true) (pkt : W64) (slot : Nat) : (State.branch s pkt slot).memWf = true := by
  unfold State.branch
  repeat' first
    | with_reducible assumption | with_reducible refine State.onSplit_memWf ?_ _
theorem State.block_memWf {s : State} (h : s.memWf = true) (b : Block) : (State.block s b).memWf = true := by
  unfold State.block
  repeat' first
    | with_reducible assumption | with_reducible refine State.onSplit_memWf ?_ _
theorem State.stay_memWf {s : State} (h : s.memWf = true)  : (State.stay s).memWf = true := by
  unfold State.stay
  repeat' first
    | with_reducible assumption | with_reducible refine State.goto_memWf ?_ _ _
theorem State.writeAt_memWf {s : State} (h : s.memWf = true) (p : Phys) (bs : List Byte) : (s.writeAt p bs).memWf = true := by
  unfold State.writeAt
  split <;> simp only [memWf_iff] at h ⊢
  · exact ⟨putBytes_wf _ _ h.1, h.2⟩
  · exact ⟨h.1, putBytes_wf _ _ h.2.1, h.2.2⟩
  · exact ⟨h.1, h.2.1, putBytes_wf _ _ h.2.2.1, h.2.2.2⟩
theorem State.at_memWf {s : State} (h : s.memWf = true) (c : Nat) (e : Event) : (State.at s c e).memWf = true := by
  unfold State.at
  repeat' first
    | with_reducible assumption | with_reducible refine memWf_cur ?_ | (simp only [memWf_mk]; with_reducible refine memWf_parts ?_ ?_)
theorem State.now_memWf {s : State} (h : s.memWf = true) (e : Event) : (State.now s e).memWf = true := by
  unfold State.now
  repeat' first
    | with_reducible assumption | with_reducible refine State.at_memWf ?_ _ _
theorem State.fresh_memWf {s : State} (h : s.memWf = true)  : (State.fresh s).2.memWf = true := by
  unfold State.fresh
  repeat' first
    | with_reducible assumption | with_reducible refine memWf_cur ?_ | (simp only [memWf_mk]; with_reducible refine memWf_parts ?_ ?_)
theorem State.draw_memWf {s : State} (h : s.memWf = true)  : (State.draw s).2.memWf = true := by
  unfold State.draw
  repeat' first
    | with_reducible assumption | with_reducible refine memWf_cur ?_ | (simp only [memWf_mk]; with_reducible refine memWf_parts ?_ ?_)
theorem State.retire_memWf {s : State} (h : s.memWf = true)  : (State.retire s).memWf = true := by
  unfold State.retire
  repeat' first
    | with_reducible assumption | with_reducible refine State.onGroup_memWf ?_ _ | with_reducible refine State.at_memWf ?_ _ _
    | with_reducible refine State.now_memWf ?_ _ | dsimp only | split
theorem State.mapTeam_memWf {s : State} (h : s.memWf = true) (id : Nat) (f : Team → Team) (hf : ∀ t, t.memWf = true → (f t).memWf = true) :
    (s.mapTeam id f).memWf = true := by
  unfold State.mapTeam; rw [memWf_mk]
  exact memWf_partsTeams h (memWf_map (memWf_teams h) fun t ht => by split; exacts [hf t ht, ht]) (memWf_cur h)
theorem Team.mapGroup_memWf {t : Team} (h : t.memWf = true) (gid : Nat) (f : Group → Group) : (Team.mapGroup t gid f).memWf = true := by
  unfold Team.mapGroup
  repeat' first
    | with_reducible assumption | (simp only [teamWf_mk]; with_reducible refine teamWf_parts ?_ ?_ ?_ ?_ ?_) | with_reducible refine teamWf_save ?_
    | with_reducible refine teamWf_scratch ?_ | with_reducible refine teamWf_abuf ?_ | with_reducible refine teamWf_wbuf ?_
    | with_reducible refine teamWf_xbuf ?_
theorem State.mapGroup_memWf {s : State} (h : s.memWf = true) (id : Nat) (gid : Nat) (f : Group → Group) : (State.mapGroup s id gid f).memWf = true := by
  unfold State.mapGroup
  repeat' first
    | with_reducible assumption | (with_reducible intro t ht) | with_reducible refine State.mapTeam_memWf ?_ _ _ ?_
    | with_reducible refine Team.mapGroup_memWf ?_ _ _
theorem State.focus_memWf {s : State} (h : s.memWf = true) (t : Team) (g : Group) (sp : Nat) (ht : t.memWf = true) :
    (s.focus t g sp).memWf = true := by
  unfold State.focus; rw [memWf_mk]
  exact memWf_partsTeams h (memWf_filter (memWf_teams h)) ht
theorem State.unfocus_memWf {s : State} (h : s.memWf = true) : s.unfocus.memWf = true := by
  unfold State.unfocus
  split
  · rw [memWf_mk]
    refine memWf_partsTeams h (memWf_insertTeam (memWf_teams h) ?_) ?_
    · exact memWf_cur h
    · rfl
  · exact h
theorem State.mapSeat_memWf {s : State} (h : s.memWf = true) (n : Nat) (f : Seat → Seat) : (State.mapSeat s n f).memWf = true := by
  unfold State.mapSeat
  repeat' first
    | with_reducible assumption | with_reducible refine memWf_cur ?_ | (simp only [memWf_mk]; with_reducible refine memWf_parts ?_ ?_)
theorem State.logEvent_memWf {s : State} (h : s.memWf = true) (seat ev core oclk : Nat) (detail : W64) (added : Nat) (freeze inj : Bool) :
    (s.logEvent seat ev core oclk detail added freeze inj).memWf = true := by
  unfold State.logEvent
  split
  · exact h
  · refine State.mapSeat_memWf ?_ _ _
    rw [memWf_mk]
    exact memWf_partsMem h (putBytes_wf _ _ (memWf_mem h)) (memWf_cur h)
theorem State.complete_memWf {s : State} (h : s.memWf = true) (r : Region) (q : Nat) (status : Nat) (info : W64) : (State.complete s r q status info).memWf = true := by
  unfold State.complete
  repeat' first
    | with_reducible assumption | with_reducible refine memWf_cur ?_ | with_reducible refine State.now_memWf ?_ _
    | (simp only [memWf_mk]; with_reducible refine memWf_parts ?_ ?_) | dsimp only | split
theorem State.mapOp_memWf {s : State} (h : s.memWf = true) (id : Nat) (f : Op → Op) : (State.mapOp s id f).memWf = true := by
  unfold State.mapOp
  repeat' first
    | with_reducible assumption | with_reducible refine memWf_cur ?_ | (simp only [memWf_mk]; with_reducible refine memWf_parts ?_ ?_)
theorem State.anyGroup_memWf {s : State} (h : s.memWf = true) (id : Nat) (gid : Nat) (f : Group → Group) : (State.anyGroup s id gid f).memWf = true := by
  unfold State.anyGroup
  repeat' first
    | with_reducible assumption | (with_reducible intro t ht) | with_reducible refine State.onGroup_memWf ?_ _
    | with_reducible refine State.onTeam_memWf ?_ _ ?_ | with_reducible refine Team.mapGroup_memWf ?_ _ _
    | with_reducible refine State.mapGroup_memWf ?_ _ _ _ | split
theorem State.anyTeam_memWf {s : State} (h : s.memWf = true) (id : Nat) (f : Team → Team) (hf : ∀ t, t.memWf = true → (f t).memWf = true) :
    (s.anyTeam id f).memWf = true := by
  unfold State.anyTeam; split; exacts [State.onTeam_memWf h f hf, State.mapTeam_memWf h id f hf]
theorem State.launchOp_memWf {s : State} (h : s.memWf = true) (o : Op) : (State.launchOp s o).memWf = true := by
  unfold State.launchOp
  repeat' first
    | with_reducible assumption | with_reducible refine memWf_cur ?_ | with_reducible refine State.onGroup_memWf ?_ _
    | (simp only [memWf_mk]; with_reducible refine memWf_parts ?_ ?_)
theorem State.pokeCommit_memWf {s : State} (h : s.memWf = true) (grid : Nat) : (State.pokeCommit s grid).memWf = true := by
  unfold State.pokeCommit
  repeat' first
    | with_reducible assumption | with_reducible refine State.now_memWf ?_ _ | split
theorem State.finishOp_memWf {s : State} (h : s.memWf = true) (id : Nat) : (State.finishOp s id).memWf = true := by
  unfold State.finishOp
  repeat' first
    | with_reducible assumption | with_reducible refine memWf_cur ?_ | with_reducible refine State.at_memWf ?_ _ _
    | with_reducible refine State.now_memWf ?_ _ | with_reducible refine State.anyGroup_memWf ?_ _ _ _
    | with_reducible refine State.pokeCommit_memWf ?_ _ | (simp only [memWf_mk]; with_reducible refine memWf_parts ?_ ?_) | dsimp only | split
theorem State.haltTeam_memWf {s : State} (h : s.memWf = true) (team : Nat) (reason : Nat) (detail : W64) : (State.haltTeam s team reason detail).memWf = true := by
  unfold State.haltTeam
  repeat' first
    | with_reducible assumption | (with_reducible intro t ht) | with_reducible refine State.now_memWf ?_ _
    | with_reducible refine State.logEvent_memWf ?_ _ _ _ _ _ _ _ _ | with_reducible refine State.anyTeam_memWf ?_ _ _ ?_
    | (simp only [teamWf_mk]; with_reducible refine teamWf_parts ?_ ?_ ?_ ?_ ?_) | with_reducible refine teamWf_save ?_
    | with_reducible refine teamWf_scratch ?_ | with_reducible refine teamWf_abuf ?_ | with_reducible refine teamWf_wbuf ?_
    | with_reducible refine teamWf_xbuf ?_ | dsimp only | split
theorem State.unhandled_memWf {s : State} (h : s.memWf = true) (t : TrapReq) : (State.unhandled s t).memWf = true := by
  unfold State.unhandled
  repeat' first
    | with_reducible assumption | with_reducible refine State.complete_memWf ?_ _ _ _ _ | with_reducible refine State.haltTeam_memWf ?_ _ _ _
    | with_reducible refine memWf_foldl ?_ (fun _ _ _ => ?_) | split
theorem State.takeTrap_memWf {s : State} (h : s.memWf = true) (t : TrapReq) (defer : Bool) : (State.takeTrap s t defer).memWf = true := by
  unfold State.takeTrap
  repeat' first
    | with_reducible assumption | with_reducible refine State.onGroup_memWf ?_ _ | with_reducible refine State.logEvent_memWf ?_ _ _ _ _ _ _ _ _
    | with_reducible refine State.haltTeam_memWf ?_ _ _ _ | with_reducible refine State.unhandled_memWf ?_ _ | dsimp only | split
theorem State.trapWord_memWf {s : State} (h : s.memWf = true) (t : TrapReq) : (State.trapWord s t).memWf = true := by
  unfold State.trapWord
  repeat' first
    | with_reducible assumption | with_reducible refine memWf_cur ?_ | with_reducible refine State.takeTrap_memWf ?_ _ _
    | (simp only [memWf_mk]; with_reducible refine memWf_parts ?_ ?_)
theorem State.defer_memWf {s : State} (h : s.memWf = true) (o : Op) (k : TrapKind) : (State.defer s o k).memWf = true := by
  unfold State.defer
  repeat' first
    | with_reducible assumption | with_reducible refine State.now_memWf ?_ _ | with_reducible refine State.anyGroup_memWf ?_ _ _ _

/-! ### Machine/Operands.lean -/

theorem State.wakeBank_memWf {s : State} (h : s.memWf = true) (b : Nat) : (State.wakeBank s b).memWf = true := by
  unfold State.wakeBank
  repeat' first
    | with_reducible assumption | with_reducible refine State.onGroup_memWf ?_ _ | with_reducible refine State.at_memWf ?_ _ _ | dsimp only | split
theorem State.wakeFor_memWf {s : State} (h : s.memWf = true) (l : List Nat) : (State.wakeFor s l).memWf = true := by
  unfold State.wakeFor
  repeat' first
    | with_reducible assumption | with_reducible refine State.wakeBank_memWf ?_ _ | with_reducible refine memWf_foldl ?_ (fun _ _ _ => ?_)
theorem runWord_memWf {s : State} (h : s.memWf = true) (i : Instr) (body : State → Except TrapReq State)
    (hb : ∀ s, s.memWf = true → ExWf (body s)) : OutWf (runWord i s body) := by
  unfold runWord
  split
  · split
    · exact outWf_next (hb _ (State.wakeFor_memWf h _) _ ‹_›)
    · exact outWf_next (State.trapWord_memWf h _)
    · exact outWf_next (State.trapWord_memWf h _)
  · exact outWf_fault
theorem runPure_memWf {s : State} (h : s.memWf = true) (i : Instr) (f : State → State)
    (hf : ∀ s, s.memWf = true → (f s).memWf = true) : OutWf (runPure i s f) :=
  runWord_memWf h i _ fun s hs => exWf_ok (hf s hs)
theorem runEvent_memWf {s : State} (f : Event → Option State) (hf : ∀ e, OptWf (f e)) : OutWf (runEvent s f) := by
  unfold runEvent
  split
  · exact outWf_fault
  · split
    · exact outWf_next (hf _ _ ‹_›)
    · exact outWf_fault
theorem State.setLanes_memWf {s : State} (h : s.memWf = true) (d : Nat) (f : Nat → W32) : (State.setLanes s d f).memWf = true := by
  unfold State.setLanes
  repeat' first
    | with_reducible assumption | with_reducible refine State.wVs_memWf ?_ _ _ _
theorem State.setPairs_memWf {s : State} (h : s.memWf = true) (d : Nat) (f : Nat → W64) : (State.setPairs s d f).memWf = true := by
  unfold State.setPairs
  repeat' first
    | with_reducible assumption | with_reducible refine State.wPs_memWf ?_ _ _ _
theorem State.setConds_memWf {s : State} (h : s.memWf = true) (c : Nat) (f : Nat → Bool) : (State.setConds s c f).memWf = true := by
  unfold State.setConds
  repeat' first
    | with_reducible assumption | with_reducible refine State.wC_memWf ?_ _ _

/-! ### Machine/Scalar.lean -/

theorem scalar2_memWf {s : State} (h : s.memWf = true) (i : Instr) (d : SReg) (a : SReg) (b : SReg) (f : W64 → W64 → W64) : OutWf (scalar2 i d a b f s) := by
  unfold scalar2
  repeat' first
    | with_reducible assumption | (with_reducible intro t ht) | with_reducible refine State.wS_memWf ?_ _ _
    | with_reducible refine runPure_memWf ?_ _ _ ?_
theorem scalar1_memWf {s : State} (h : s.memWf = true) (i : Instr) (d : SReg) (a : SReg) (f : W64 → W64) : OutWf (scalar1 i d a f s) := by
  unfold scalar1
  repeat' first
    | with_reducible assumption | (with_reducible intro t ht) | with_reducible refine State.wS_memWf ?_ _ _
    | with_reducible refine runPure_memWf ?_ _ _ ?_
theorem scalarCmp_memWf {s : State} (h : s.memWf = true) (i : Instr) (d : CReg) (a : SReg) (b : SReg) (f : W64 → W64 → Bool) : OutWf (scalarCmp i d a b f s) := by
  unfold scalarCmp
  repeat' first
    | with_reducible assumption | (with_reducible intro t ht) | with_reducible refine State.wC_memWf ?_ _ _
    | with_reducible refine runPure_memWf ?_ _ _ ?_
theorem execSadd_memWf {s : State} (h : s.memWf = true) (d : SReg) (a : SReg) (b : SReg) : OutWf (execSadd d a b s) := by
  unfold execSadd
  repeat' first
    | with_reducible assumption | with_reducible refine scalar2_memWf ?_ _ _ _ _ _
theorem execSsub_memWf {s : State} (h : s.memWf = true) (d : SReg) (a : SReg) (b : SReg) : OutWf (execSsub d a b s) := by
  unfold execSsub
  repeat' first
    | with_reducible assumption | with_reducible refine scalar2_memWf ?_ _ _ _ _ _
theorem execSmul_memWf {s : State} (h : s.memWf = true) (d : SReg) (a : SReg) (b : SReg) : OutWf (execSmul d a b s) := by
  unfold execSmul
  repeat' first
    | with_reducible assumption | with_reducible refine scalar2_memWf ?_ _ _ _ _ _
theorem execSmulhS_memWf {s : State} (h : s.memWf = true) (d : SReg) (a : SReg) (b : SReg) : OutWf (execSmulhS d a b s) := by
  unfold execSmulhS
  repeat' first
    | with_reducible assumption | with_reducible refine scalar2_memWf ?_ _ _ _ _ _
theorem execSmulhZ_memWf {s : State} (h : s.memWf = true) (d : SReg) (a : SReg) (b : SReg) : OutWf (execSmulhZ d a b s) := by
  unfold execSmulhZ
  repeat' first
    | with_reducible assumption | with_reducible refine scalar2_memWf ?_ _ _ _ _ _
theorem execSand_memWf {s : State} (h : s.memWf = true) (d : SReg) (a : SReg) (b : SReg) : OutWf (execSand d a b s) := by
  unfold execSand
  repeat' first
    | with_reducible assumption | with_reducible refine scalar2_memWf ?_ _ _ _ _ _
theorem execSor_memWf {s : State} (h : s.memWf = true) (d : SReg) (a : SReg) (b : SReg) : OutWf (execSor d a b s) := by
  unfold execSor
  repeat' first
    | with_reducible assumption | with_reducible refine scalar2_memWf ?_ _ _ _ _ _
theorem execSxor_memWf {s : State} (h : s.memWf = true) (d : SReg) (a : SReg) (b : SReg) : OutWf (execSxor d a b s) := by
  unfold execSxor
  repeat' first
    | with_reducible assumption | with_reducible refine scalar2_memWf ?_ _ _ _ _ _
theorem execSshl_memWf {s : State} (h : s.memWf = true) (d : SReg) (a : SReg) (b : SReg) : OutWf (execSshl d a b s) := by
  unfold execSshl
  repeat' first
    | with_reducible assumption | with_reducible refine scalar2_memWf ?_ _ _ _ _ _
theorem execSshrZ_memWf {s : State} (h : s.memWf = true) (d : SReg) (a : SReg) (b : SReg) : OutWf (execSshrZ d a b s) := by
  unfold execSshrZ
  repeat' first
    | with_reducible assumption | with_reducible refine scalar2_memWf ?_ _ _ _ _ _
theorem execSshrS_memWf {s : State} (h : s.memWf = true) (d : SReg) (a : SReg) (b : SReg) : OutWf (execSshrS d a b s) := by
  unfold execSshrS
  repeat' first
    | with_reducible assumption | with_reducible refine scalar2_memWf ?_ _ _ _ _ _
theorem execSminS_memWf {s : State} (h : s.memWf = true) (d : SReg) (a : SReg) (b : SReg) : OutWf (execSminS d a b s) := by
  unfold execSminS
  repeat' first
    | with_reducible assumption | with_reducible refine scalar2_memWf ?_ _ _ _ _ _
theorem execSmaxS_memWf {s : State} (h : s.memWf = true) (d : SReg) (a : SReg) (b : SReg) : OutWf (execSmaxS d a b s) := by
  unfold execSmaxS
  repeat' first
    | with_reducible assumption | with_reducible refine scalar2_memWf ?_ _ _ _ _ _
theorem execSminZ_memWf {s : State} (h : s.memWf = true) (d : SReg) (a : SReg) (b : SReg) : OutWf (execSminZ d a b s) := by
  unfold execSminZ
  repeat' first
    | with_reducible assumption | with_reducible refine scalar2_memWf ?_ _ _ _ _ _
theorem execSmaxZ_memWf {s : State} (h : s.memWf = true) (d : SReg) (a : SReg) (b : SReg) : OutWf (execSmaxZ d a b s) := by
  unfold execSmaxZ
  repeat' first
    | with_reducible assumption | with_reducible refine scalar2_memWf ?_ _ _ _ _ _
theorem execSsltS_memWf {s : State} (h : s.memWf = true) (d : SReg) (a : SReg) (b : SReg) : OutWf (execSsltS d a b s) := by
  unfold execSsltS
  repeat' first
    | with_reducible assumption | with_reducible refine scalar2_memWf ?_ _ _ _ _ _
theorem execSsltZ_memWf {s : State} (h : s.memWf = true) (d : SReg) (a : SReg) (b : SReg) : OutWf (execSsltZ d a b s) := by
  unfold execSsltZ
  repeat' first
    | with_reducible assumption | with_reducible refine scalar2_memWf ?_ _ _ _ _ _
theorem execSseq_memWf {s : State} (h : s.memWf = true) (d : SReg) (a : SReg) (b : SReg) : OutWf (execSseq d a b s) := by
  unfold execSseq
  repeat' first
    | with_reducible assumption | with_reducible refine scalar2_memWf ?_ _ _ _ _ _
theorem execSaddi_memWf {s : State} (h : s.memWf = true) (d : SReg) (a : SReg) (i : BitVec 12) : OutWf (execSaddi d a i s) := by
  unfold execSaddi
  repeat' first
    | with_reducible assumption | with_reducible refine scalar1_memWf ?_ _ _ _ _
theorem execSandi_memWf {s : State} (h : s.memWf = true) (d : SReg) (a : SReg) (i : BitVec 12) : OutWf (execSandi d a i s) := by
  unfold execSandi
  repeat' first
    | with_reducible assumption | with_reducible refine scalar1_memWf ?_ _ _ _ _
theorem execSori_memWf {s : State} (h : s.memWf = true) (d : SReg) (a : SReg) (i : BitVec 12) : OutWf (execSori d a i s) := by
  unfold execSori
  repeat' first
    | with_reducible assumption | with_reducible refine scalar1_memWf ?_ _ _ _ _
theorem execSxori_memWf {s : State} (h : s.memWf = true) (d : SReg) (a : SReg) (i : BitVec 12) : OutWf (execSxori d a i s) := by
  unfold execSxori
  repeat' first
    | with_reducible assumption | with_reducible refine scalar1_memWf ?_ _ _ _ _
theorem execSshli_memWf {s : State} (h : s.memWf = true) (d : SReg) (a : SReg) (n : Fin 64) : OutWf (execSshli d a n s) := by
  unfold execSshli
  repeat' first
    | with_reducible assumption | with_reducible refine scalar1_memWf ?_ _ _ _ _
theorem execSshriZ_memWf {s : State} (h : s.memWf = true) (d : SReg) (a : SReg) (n : Fin 64) : OutWf (execSshriZ d a n s) := by
  unfold execSshriZ
  repeat' first
    | with_reducible assumption | with_reducible refine scalar1_memWf ?_ _ _ _ _
theorem execSshriS_memWf {s : State} (h : s.memWf = true) (d : SReg) (a : SReg) (n : Fin 64) : OutWf (execSshriS d a n s) := by
  unfold execSshriS
  repeat' first
    | with_reducible assumption | with_reducible refine scalar1_memWf ?_ _ _ _ _
theorem execSlit_memWf {s : State} (h : s.memWf = true) (d : SReg) (i : BitVec 18) : OutWf (execSlit d i s) := by
  unfold execSlit
  repeat' first
    | with_reducible assumption | (with_reducible intro t ht) | with_reducible refine State.wS_memWf ?_ _ _
    | with_reducible refine runPure_memWf ?_ _ _ ?_
theorem execSlitwZ_memWf {s : State} (h : s.memWf = true) (d : SReg) : OutWf (execSlitwZ d s) := by
  unfold execSlitwZ
  repeat' first
    | with_reducible assumption | (with_reducible intro t ht) | with_reducible refine State.wS_memWf ?_ _ _
    | with_reducible refine runPure_memWf ?_ _ _ ?_
theorem execSlitwS_memWf {s : State} (h : s.memWf = true) (d : SReg) : OutWf (execSlitwS d s) := by
  unfold execSlitwS
  repeat' first
    | with_reducible assumption | (with_reducible intro t ht) | with_reducible refine State.wS_memWf ?_ _ _
    | with_reducible refine runPure_memWf ?_ _ _ ?_
theorem execSlitwLo_memWf {s : State} (h : s.memWf = true) (d : SReg) : OutWf (execSlitwLo d s) := by
  unfold execSlitwLo
  repeat' first
    | with_reducible assumption | (with_reducible intro t ht) | with_reducible refine State.wS_memWf ?_ _ _
    | with_reducible refine runPure_memWf ?_ _ _ ?_
theorem execSlitwHi_memWf {s : State} (h : s.memWf = true) (d : SReg) : OutWf (execSlitwHi d s) := by
  unfold execSlitwHi
  repeat' first
    | with_reducible assumption | (with_reducible intro t ht) | with_reducible refine State.wS_memWf ?_ _ _
    | with_reducible refine runPure_memWf ?_ _ _ ?_
theorem execScmpEq_memWf {s : State} (h : s.memWf = true) (d : CReg) (a : SReg) (b : SReg) : OutWf (execScmpEq d a b s) := by
  unfold execScmpEq
  repeat' first
    | with_reducible assumption | with_reducible refine scalarCmp_memWf ?_ _ _ _ _ _
theorem execScmpNe_memWf {s : State} (h : s.memWf = true) (d : CReg) (a : SReg) (b : SReg) : OutWf (execScmpNe d a b s) := by
  unfold execScmpNe
  repeat' first
    | with_reducible assumption | with_reducible refine scalarCmp_memWf ?_ _ _ _ _ _
theorem execScmpLtS_memWf {s : State} (h : s.memWf = true) (d : CReg) (a : SReg) (b : SReg) : OutWf (execScmpLtS d a b s) := by
  unfold execScmpLtS
  repeat' first
    | with_reducible assumption | with_reducible refine scalarCmp_memWf ?_ _ _ _ _ _
theorem execScmpLeS_memWf {s : State} (h : s.memWf = true) (d : CReg) (a : SReg) (b : SReg) : OutWf (execScmpLeS d a b s) := by
  unfold execScmpLeS
  repeat' first
    | with_reducible assumption | with_reducible refine scalarCmp_memWf ?_ _ _ _ _ _
theorem execScmpLtZ_memWf {s : State} (h : s.memWf = true) (d : CReg) (a : SReg) (b : SReg) : OutWf (execScmpLtZ d a b s) := by
  unfold execScmpLtZ
  repeat' first
    | with_reducible assumption | with_reducible refine scalarCmp_memWf ?_ _ _ _ _ _
theorem execScmpLeZ_memWf {s : State} (h : s.memWf = true) (d : CReg) (a : SReg) (b : SReg) : OutWf (execScmpLeZ d a b s) := by
  unfold execScmpLeZ
  repeat' first
    | with_reducible assumption | with_reducible refine scalarCmp_memWf ?_ _ _ _ _ _
theorem execSext_memWf {s : State} (h : s.memWf = true) (d : SReg) (a : VReg) (w : ExtW) (l : Fin 32) : OutWf (execSext d a w l s) := by
  unfold execSext
  repeat' first
    | with_reducible assumption | (with_reducible intro t ht) | with_reducible refine State.wS_memWf ?_ _ _
    | with_reducible refine runPure_memWf ?_ _ _ ?_
theorem execSextFirst_memWf {s : State} (h : s.memWf = true) (d : SReg) (a : VReg) (w : ExtW) : OutWf (execSextFirst d a w s) := by
  unfold execSextFirst
  repeat' first
    | with_reducible assumption | (with_reducible intro t ht) | with_reducible refine State.wS_memWf ?_ _ _
    | with_reducible refine runPure_memWf ?_ _ _ ?_
theorem execSextLast_memWf {s : State} (h : s.memWf = true) (d : SReg) (a : VReg) (w : ExtW) : OutWf (execSextLast d a w s) := by
  unfold execSextLast
  repeat' first
    | with_reducible assumption | (with_reducible intro t ht) | with_reducible refine State.wS_memWf ?_ _ _
    | with_reducible refine runPure_memWf ?_ _ _ ?_
theorem insLanes_memWf {s : State} (h : s.memWf = true) (d : VReg) (a : SReg) (w : InsW) (lanes : List Nat) : (insLanes d a w lanes s).memWf = true := by
  unfold insLanes
  repeat' first
    | with_reducible assumption | with_reducible refine State.wVs_memWf ?_ _ _ _ | with_reducible refine State.wPs_memWf ?_ _ _ _ | split
theorem execVins_memWf {s : State} (h : s.memWf = true) (d : VReg) (a : SReg) (w : InsW) (l : Fin 32) : OutWf (execVins d a w l s) := by
  unfold execVins
  repeat' first
    | with_reducible assumption | (with_reducible intro t ht) | with_reducible refine runPure_memWf ?_ _ _ ?_
    | with_reducible refine insLanes_memWf ?_ _ _ _ _
theorem execVinsAll_memWf {s : State} (h : s.memWf = true) (d : VReg) (a : SReg) (w : InsW) : OutWf (execVinsAll d a w s) := by
  unfold execVinsAll
  repeat' first
    | with_reducible assumption | (with_reducible intro t ht) | with_reducible refine runPure_memWf ?_ _ _ ?_
    | with_reducible refine insLanes_memWf ?_ _ _ _ _
theorem execNop_memWf {s : State} (h : s.memWf = true)  : OutWf (execNop s) := by
  unfold execNop
  repeat' first
    | with_reducible assumption | (with_reducible intro t ht) | with_reducible refine runPure_memWf ?_ _ _ ?_

/-! ### Machine/Vector.lean -/

theorem vector2_memWf {s : State} (h : s.memWf = true) (i : Instr) (d : VReg) (a : VReg) (b : BSel) (f : W32 → W32 → W32) : OutWf (vector2 i d a b f s) := by
  unfold vector2
  repeat' first
    | with_reducible assumption | (with_reducible intro t ht) | with_reducible refine runPure_memWf ?_ _ _ ?_
    | with_reducible refine State.setLanes_memWf ?_ _ _
theorem vector3_memWf {s : State} (h : s.memWf = true) (i : Instr) (d : VReg) (a : VReg) (b : BSel) (f : W32 → W32 → W32 → W32) : OutWf (vector3 i d a b f s) := by
  unfold vector3
  repeat' first
    | with_reducible assumption | (with_reducible intro t ht) | with_reducible refine runPure_memWf ?_ _ _ ?_
    | with_reducible refine State.setLanes_memWf ?_ _ _
theorem vector1_memWf {s : State} (h : s.memWf = true) (i : Instr) (d : VReg) (a : VReg) (f : W32 → W32) : OutWf (vector1 i d a f s) := by
  unfold vector1
  repeat' first
    | with_reducible assumption | (with_reducible intro t ht) | with_reducible refine runPure_memWf ?_ _ _ ?_
    | with_reducible refine State.setLanes_memWf ?_ _ _
theorem execVadd_memWf {s : State} (h : s.memWf = true) (d : VReg) (a : VReg) (b : BSel) : OutWf (execVadd d a b s) := by
  unfold execVadd
  repeat' first
    | with_reducible assumption | with_reducible refine vector2_memWf ?_ _ _ _ _ _
theorem execVaddSatS_memWf {s : State} (h : s.memWf = true) (d : VReg) (a : VReg) (b : BSel) : OutWf (execVaddSatS d a b s) := by
  unfold execVaddSatS
  repeat' first
    | with_reducible assumption | with_reducible refine vector2_memWf ?_ _ _ _ _ _
theorem execVaddSatZ_memWf {s : State} (h : s.memWf = true) (d : VReg) (a : VReg) (b : BSel) : OutWf (execVaddSatZ d a b s) := by
  unfold execVaddSatZ
  repeat' first
    | with_reducible assumption | with_reducible refine vector2_memWf ?_ _ _ _ _ _
theorem execVsub_memWf {s : State} (h : s.memWf = true) (d : VReg) (a : VReg) (b : BSel) : OutWf (execVsub d a b s) := by
  unfold execVsub
  repeat' first
    | with_reducible assumption | with_reducible refine vector2_memWf ?_ _ _ _ _ _
theorem execVsubSatS_memWf {s : State} (h : s.memWf = true) (d : VReg) (a : VReg) (b : BSel) : OutWf (execVsubSatS d a b s) := by
  unfold execVsubSatS
  repeat' first
    | with_reducible assumption | with_reducible refine vector2_memWf ?_ _ _ _ _ _
theorem execVsubSatZ_memWf {s : State} (h : s.memWf = true) (d : VReg) (a : VReg) (b : BSel) : OutWf (execVsubSatZ d a b s) := by
  unfold execVsubSatZ
  repeat' first
    | with_reducible assumption | with_reducible refine vector2_memWf ?_ _ _ _ _ _
theorem execVmul_memWf {s : State} (h : s.memWf = true) (d : VReg) (a : VReg) (b : BSel) : OutWf (execVmul d a b s) := by
  unfold execVmul
  repeat' first
    | with_reducible assumption | with_reducible refine vector2_memWf ?_ _ _ _ _ _
theorem execVmulhS_memWf {s : State} (h : s.memWf = true) (d : VReg) (a : VReg) (b : BSel) : OutWf (execVmulhS d a b s) := by
  unfold execVmulhS
  repeat' first
    | with_reducible assumption | with_reducible refine vector2_memWf ?_ _ _ _ _ _
theorem execVmulhZ_memWf {s : State} (h : s.memWf = true) (d : VReg) (a : VReg) (b : BSel) : OutWf (execVmulhZ d a b s) := by
  unfold execVmulhZ
  repeat' first
    | with_reducible assumption | with_reducible refine vector2_memWf ?_ _ _ _ _ _
theorem execVminS_memWf {s : State} (h : s.memWf = true) (d : VReg) (a : VReg) (b : BSel) : OutWf (execVminS d a b s) := by
  unfold execVminS
  repeat' first
    | with_reducible assumption | with_reducible refine vector2_memWf ?_ _ _ _ _ _
theorem execVminZ_memWf {s : State} (h : s.memWf = true) (d : VReg) (a : VReg) (b : BSel) : OutWf (execVminZ d a b s) := by
  unfold execVminZ
  repeat' first
    | with_reducible assumption | with_reducible refine vector2_memWf ?_ _ _ _ _ _
theorem execVmaxS_memWf {s : State} (h : s.memWf = true) (d : VReg) (a : VReg) (b : BSel) : OutWf (execVmaxS d a b s) := by
  unfold execVmaxS
  repeat' first
    | with_reducible assumption | with_reducible refine vector2_memWf ?_ _ _ _ _ _
theorem execVmaxZ_memWf {s : State} (h : s.memWf = true) (d : VReg) (a : VReg) (b : BSel) : OutWf (execVmaxZ d a b s) := by
  unfold execVmaxZ
  repeat' first
    | with_reducible assumption | with_reducible refine vector2_memWf ?_ _ _ _ _ _
theorem execVand_memWf {s : State} (h : s.memWf = true) (d : VReg) (a : VReg) (b : BSel) : OutWf (execVand d a b s) := by
  unfold execVand
  repeat' first
    | with_reducible assumption | with_reducible refine vector2_memWf ?_ _ _ _ _ _
theorem execVor_memWf {s : State} (h : s.memWf = true) (d : VReg) (a : VReg) (b : BSel) : OutWf (execVor d a b s) := by
  unfold execVor
  repeat' first
    | with_reducible assumption | with_reducible refine vector2_memWf ?_ _ _ _ _ _
theorem execVxor_memWf {s : State} (h : s.memWf = true) (d : VReg) (a : VReg) (b : BSel) : OutWf (execVxor d a b s) := by
  unfold execVxor
  repeat' first
    | with_reducible assumption | with_reducible refine vector2_memWf ?_ _ _ _ _ _
theorem execVandn_memWf {s : State} (h : s.memWf = true) (d : VReg) (a : VReg) (b : BSel) : OutWf (execVandn d a b s) := by
  unfold execVandn
  repeat' first
    | with_reducible assumption | with_reducible refine vector2_memWf ?_ _ _ _ _ _
theorem execVshl_memWf {s : State} (h : s.memWf = true) (d : VReg) (a : VReg) (b : BSel) : OutWf (execVshl d a b s) := by
  unfold execVshl
  repeat' first
    | with_reducible assumption | with_reducible refine vector2_memWf ?_ _ _ _ _ _
theorem execVshrZ_memWf {s : State} (h : s.memWf = true) (d : VReg) (a : VReg) (b : BSel) : OutWf (execVshrZ d a b s) := by
  unfold execVshrZ
  repeat' first
    | with_reducible assumption | with_reducible refine vector2_memWf ?_ _ _ _ _ _
theorem execVshrS_memWf {s : State} (h : s.memWf = true) (d : VReg) (a : VReg) (b : BSel) : OutWf (execVshrS d a b s) := by
  unfold execVshrS
  repeat' first
    | with_reducible assumption | with_reducible refine vector2_memWf ?_ _ _ _ _ _
theorem execVrot_memWf {s : State} (h : s.memWf = true) (d : VReg) (a : VReg) (b : BSel) : OutWf (execVrot d a b s) := by
  unfold execVrot
  repeat' first
    | with_reducible assumption | with_reducible refine vector2_memWf ?_ _ _ _ _ _
theorem execVlut3_memWf {s : State} (h : s.memWf = true) (d : VReg) (a : VReg) (b : BSel) : OutWf (execVlut3 d a b s) := by
  unfold execVlut3
  repeat' first
    | with_reducible assumption | with_reducible refine vector3_memWf ?_ _ _ _ _ _
theorem execVpopc_memWf {s : State} (h : s.memWf = true) (d : VReg) (a : VReg) : OutWf (execVpopc d a s) := by
  unfold execVpopc
  repeat' first
    | with_reducible assumption | with_reducible refine vector1_memWf ?_ _ _ _ _
theorem execVclz_memWf {s : State} (h : s.memWf = true) (d : VReg) (a : VReg) : OutWf (execVclz d a s) := by
  unfold execVclz
  repeat' first
    | with_reducible assumption | with_reducible refine vector1_memWf ?_ _ _ _ _
theorem execVctz_memWf {s : State} (h : s.memWf = true) (d : VReg) (a : VReg) : OutWf (execVctz d a s) := by
  unfold execVctz
  repeat' first
    | with_reducible assumption | with_reducible refine vector1_memWf ?_ _ _ _ _
theorem execVbrev_memWf {s : State} (h : s.memWf = true) (d : VReg) (a : VReg) : OutWf (execVbrev d a s) := by
  unfold execVbrev
  repeat' first
    | with_reducible assumption | with_reducible refine vector1_memWf ?_ _ _ _ _
theorem execVbfxZ_memWf {s : State} (h : s.memWf = true) (d : VReg) (a : VReg) (b : BSel) : OutWf (execVbfxZ d a b s) := by
  unfold execVbfxZ
  repeat' first
    | with_reducible assumption | with_reducible refine vector2_memWf ?_ _ _ _ _ _
theorem execVbfxS_memWf {s : State} (h : s.memWf = true) (d : VReg) (a : VReg) (b : BSel) : OutWf (execVbfxS d a b s) := by
  unfold execVbfxS
  repeat' first
    | with_reducible assumption | with_reducible refine vector2_memWf ?_ _ _ _ _ _
theorem execVbfi_memWf {s : State} (h : s.memWf = true) (d : VReg) (a : VReg) (b : BSel) : OutWf (execVbfi d a b s) := by
  unfold execVbfi
  repeat' first
    | with_reducible assumption | with_reducible refine vector3_memWf ?_ _ _ _ _ _
theorem execVaddi_memWf {s : State} (h : s.memWf = true) (d : VReg) (a : VReg) (i : BitVec 10) : OutWf (execVaddi d a i s) := by
  unfold execVaddi
  repeat' first
    | with_reducible assumption | with_reducible refine vector1_memWf ?_ _ _ _ _
theorem execVcmp_memWf {s : State} (h : s.memWf = true) (c : CReg) (a : VReg) (b : BSel) (p : ICmp) : OutWf (execVcmp c a b p s) := by
  unfold execVcmp
  repeat' first
    | with_reducible assumption | (with_reducible intro t ht) | with_reducible refine runPure_memWf ?_ _ _ ?_
    | with_reducible refine State.setConds_memWf ?_ _ _
theorem execVsel_memWf {s : State} (h : s.memWf = true) (d : VReg) (a : VReg) (b : VReg) (c : CReg) : OutWf (execVsel d a b c s) := by
  unfold execVsel
  repeat' first
    | with_reducible assumption | (with_reducible intro t ht) | with_reducible refine runPure_memWf ?_ _ _ ?_
    | with_reducible refine State.setLanes_memWf ?_ _ _
theorem execVmov_memWf {s : State} (h : s.memWf = true) (d : VReg) (a : VReg) : OutWf (execVmov d a s) := by
  unfold execVmov
  repeat' first
    | with_reducible assumption | with_reducible refine vector1_memWf ?_ _ _ _ _
theorem execVmovX64_memWf {s : State} (h : s.memWf = true) (d : VReg) (a : VReg) : OutWf (execVmovX64 d a s) := by
  unfold execVmovX64
  repeat' first
    | with_reducible assumption | (with_reducible intro t ht) | with_reducible refine runPure_memWf ?_ _ _ ?_
    | with_reducible refine State.setPairs_memWf ?_ _ _
theorem execVlit_memWf {s : State} (h : s.memWf = true) (d : VReg) (i : BitVec 15) : OutWf (execVlit d i s) := by
  unfold execVlit
  repeat' first
    | with_reducible assumption | (with_reducible intro t ht) | with_reducible refine runPure_memWf ?_ _ _ ?_
    | with_reducible refine State.setLanes_memWf ?_ _ _
theorem execVlaneid_memWf {s : State} (h : s.memWf = true) (d : VReg) : OutWf (execVlaneid d s) := by
  unfold execVlaneid
  repeat' first
    | with_reducible assumption | (with_reducible intro t ht) | with_reducible refine runPure_memWf ?_ _ _ ?_
    | with_reducible refine State.setLanes_memWf ?_ _ _
theorem execVballot_memWf {s : State} (h : s.memWf = true) (d : VReg) (c : CReg) : OutWf (execVballot d c s) := by
  unfold execVballot
  repeat' first
    | with_reducible assumption | (with_reducible intro t ht) | with_reducible refine runPure_memWf ?_ _ _ ?_
    | with_reducible refine State.setLanes_memWf ?_ _ _
theorem execVmrank_memWf {s : State} (h : s.memWf = true) (d : VReg) (c : CReg) : OutWf (execVmrank d c s) := by
  unfold execVmrank
  repeat' first
    | with_reducible assumption | (with_reducible intro t ht) | with_reducible refine runPure_memWf ?_ _ _ ?_
    | with_reducible refine State.setLanes_memWf ?_ _ _
theorem execVmrankInc_memWf {s : State} (h : s.memWf = true) (d : VReg) (c : CReg) : OutWf (execVmrankInc d c s) := by
  unfold execVmrankInc
  repeat' first
    | with_reducible assumption | (with_reducible intro t ht) | with_reducible refine runPure_memWf ?_ _ _ ?_
    | with_reducible refine State.setLanes_memWf ?_ _ _
theorem shuffle_memWf {s : State} (h : s.memWf = true) (i : Instr) (d : VReg) (a : VReg) (b : BSel) (src : Nat → Nat → Nat) : OutWf (shuffle i d a b src s) := by
  unfold shuffle
  repeat' first
    | with_reducible assumption | (with_reducible intro t ht) | with_reducible refine runPure_memWf ?_ _ _ ?_
    | with_reducible refine State.setLanes_memWf ?_ _ _
theorem execVshflIdx_memWf {s : State} (h : s.memWf = true) (d : VReg) (a : VReg) (b : BSel) : OutWf (execVshflIdx d a b s) := by
  unfold execVshflIdx
  repeat' first
    | with_reducible assumption | with_reducible refine shuffle_memWf ?_ _ _ _ _ _
theorem execVshflUp_memWf {s : State} (h : s.memWf = true) (d : VReg) (a : VReg) (b : BSel) : OutWf (execVshflUp d a b s) := by
  unfold execVshflUp
  repeat' first
    | with_reducible assumption | with_reducible refine shuffle_memWf ?_ _ _ _ _ _
theorem execVshflDown_memWf {s : State} (h : s.memWf = true) (d : VReg) (a : VReg) (b : BSel) : OutWf (execVshflDown d a b s) := by
  unfold execVshflDown
  repeat' first
    | with_reducible assumption | with_reducible refine shuffle_memWf ?_ _ _ _ _ _
theorem execVshflXor_memWf {s : State} (h : s.memWf = true) (d : VReg) (a : VReg) (b : BSel) : OutWf (execVshflXor d a b s) := by
  unfold execVshflXor
  repeat' first
    | with_reducible assumption | with_reducible refine shuffle_memWf ?_ _ _ _ _ _
theorem execVfold_memWf {s : State} (h : s.memWf = true) (d : SReg) (a : VReg) (o : FoldOp) : OutWf (execVfold d a o s) := by
  unfold execVfold
  repeat' first
    | with_reducible assumption | (with_reducible intro t ht) | with_reducible refine State.wS_memWf ?_ _ _
    | with_reducible refine runPure_memWf ?_ _ _ ?_
theorem execVscan_memWf {s : State} (h : s.memWf = true) (d : VReg) (a : VReg) (x : Bool) (o : ScanOp) : OutWf (execVscan d a x o s) := by
  unfold execVscan
  repeat' first
    | with_reducible assumption | (with_reducible intro t ht) | with_reducible refine runPure_memWf ?_ _ _ ?_
    | with_reducible refine State.setLanes_memWf ?_ _ _

/-! ### Machine/VFloat.lean -/

theorem float3_memWf {s : State} (h : s.memWf = true) (i : Instr) (d : VReg) (a : VReg) (b : BSel) (f : W32 → W32 → W32 → W32) : OutWf (float3 i d a b f s) := by
  unfold float3
  repeat' first
    | with_reducible assumption | (with_reducible intro t ht) | with_reducible refine runPure_memWf ?_ _ _ ?_
    | with_reducible refine State.setLanes_memWf ?_ _ _
theorem double3_memWf {s : State} (h : s.memWf = true) (i : Instr) (d : VReg) (a : VReg) (b : BSel) (f : W64 → W64 → W64 → W64) : OutWf (double3 i d a b f s) := by
  unfold double3
  repeat' first
    | with_reducible assumption | (with_reducible intro t ht) | with_reducible refine runPure_memWf ?_ _ _ ?_
    | with_reducible refine State.setPairs_memWf ?_ _ _
theorem packed3_memWf {s : State} (h : s.memWf = true) (i : Instr) (d : VReg) (a : VReg) (b : BSel) (bf : Bool) (f : Val → Val → Val → Val) : OutWf (packed3 i d a b bf f s) := by
  unfold packed3
  repeat' first
    | with_reducible assumption | (with_reducible intro t ht) | with_reducible refine runPure_memWf ?_ _ _ ?_
    | with_reducible refine State.setLanes_memWf ?_ _ _
theorem special1_memWf {s : State} (h : s.memWf = true) (i : Instr) (d : VReg) (a : VReg) (f : Val → Nat) : OutWf (special1 i d a f s) := by
  unfold special1
  repeat' first
    | with_reducible assumption | (with_reducible intro t ht) | with_reducible refine runPure_memWf ?_ _ _ ?_
    | with_reducible refine State.setLanes_memWf ?_ _ _
theorem execVfadd_memWf {s : State} (h : s.memWf = true) (d : VReg) (a : VReg) (b : BSel) (r : RMode) : OutWf (execVfadd d a b r s) := by
  unfold execVfadd
  repeat' first
    | with_reducible assumption | with_reducible refine float3_memWf ?_ _ _ _ _ _
theorem execVfsub_memWf {s : State} (h : s.memWf = true) (d : VReg) (a : VReg) (b : BSel) (r : RMode) : OutWf (execVfsub d a b r s) := by
  unfold execVfsub
  repeat' first
    | with_reducible assumption | with_reducible refine float3_memWf ?_ _ _ _ _ _
theorem execVfmul_memWf {s : State} (h : s.memWf = true) (d : VReg) (a : VReg) (b : BSel) (r : RMode) : OutWf (execVfmul d a b r s) := by
  unfold execVfmul
  repeat' first
    | with_reducible assumption | with_reducible refine float3_memWf ?_ _ _ _ _ _
theorem execVfma_memWf {s : State} (h : s.memWf = true) (d : VReg) (a : VReg) (b : BSel) (r : RMode) : OutWf (execVfma d a b r s) := by
  unfold execVfma
  repeat' first
    | with_reducible assumption | with_reducible refine float3_memWf ?_ _ _ _ _ _
theorem execVfnma_memWf {s : State} (h : s.memWf = true) (d : VReg) (a : VReg) (b : BSel) (r : RMode) : OutWf (execVfnma d a b r s) := by
  unfold execVfnma
  repeat' first
    | with_reducible assumption | with_reducible refine float3_memWf ?_ _ _ _ _ _
theorem execVfdiv_memWf {s : State} (h : s.memWf = true) (d : VReg) (a : VReg) (b : BSel) (r : RMode) : OutWf (execVfdiv d a b r s) := by
  unfold execVfdiv
  repeat' first
    | with_reducible assumption | with_reducible refine float3_memWf ?_ _ _ _ _ _
theorem execVfmin_memWf {s : State} (h : s.memWf = true) (d : VReg) (a : VReg) (b : BSel) : OutWf (execVfmin d a b s) := by
  unfold execVfmin
  repeat' first
    | with_reducible assumption | with_reducible refine float3_memWf ?_ _ _ _ _ _
theorem execVfmax_memWf {s : State} (h : s.memWf = true) (d : VReg) (a : VReg) (b : BSel) : OutWf (execVfmax d a b s) := by
  unfold execVfmax
  repeat' first
    | with_reducible assumption | with_reducible refine float3_memWf ?_ _ _ _ _ _
theorem execVfminn_memWf {s : State} (h : s.memWf = true) (d : VReg) (a : VReg) (b : BSel) : OutWf (execVfminn d a b s) := by
  unfold execVfminn
  repeat' first
    | with_reducible assumption | with_reducible refine float3_memWf ?_ _ _ _ _ _
theorem execVfmaxn_memWf {s : State} (h : s.memWf = true) (d : VReg) (a : VReg) (b : BSel) : OutWf (execVfmaxn d a b s) := by
  unfold execVfmaxn
  repeat' first
    | with_reducible assumption | with_reducible refine float3_memWf ?_ _ _ _ _ _
theorem execVfcmp_memWf {s : State} (h : s.memWf = true) (c : CReg) (a : VReg) (b : BSel) (p : FCmp) : OutWf (execVfcmp c a b p s) := by
  unfold execVfcmp
  repeat' first
    | with_reducible assumption | (with_reducible intro t ht) | with_reducible refine runPure_memWf ?_ _ _ ?_
    | with_reducible refine State.setConds_memWf ?_ _ _
theorem execVfsqrt_memWf {s : State} (h : s.memWf = true) (d : VReg) (a : VReg) : OutWf (execVfsqrt d a s) := by
  unfold execVfsqrt
  repeat' first
    | with_reducible assumption | with_reducible refine special1_memWf ?_ _ _ _ _
theorem execVfrcp_memWf {s : State} (h : s.memWf = true) (d : VReg) (a : VReg) : OutWf (execVfrcp d a s) := by
  unfold execVfrcp
  repeat' first
    | with_reducible assumption | with_reducible refine special1_memWf ?_ _ _ _ _
theorem execVfrsq_memWf {s : State} (h : s.memWf = true) (d : VReg) (a : VReg) : OutWf (execVfrsq d a s) := by
  unfold execVfrsq
  repeat' first
    | with_reducible assumption | with_reducible refine special1_memWf ?_ _ _ _ _
theorem execVfex2_memWf {s : State} (h : s.memWf = true) (d : VReg) (a : VReg) : OutWf (execVfex2 d a s) := by
  unfold execVfex2
  repeat' first
    | with_reducible assumption | with_reducible refine special1_memWf ?_ _ _ _ _
theorem execVflg2_memWf {s : State} (h : s.memWf = true) (d : VReg) (a : VReg) : OutWf (execVflg2 d a s) := by
  unfold execVflg2
  repeat' first
    | with_reducible assumption | with_reducible refine special1_memWf ?_ _ _ _ _
theorem execVfabs_memWf {s : State} (h : s.memWf = true) (d : VReg) (a : VReg) : OutWf (execVfabs d a s) := by
  unfold execVfabs
  repeat' first
    | with_reducible assumption | (with_reducible intro t ht) | with_reducible refine runPure_memWf ?_ _ _ ?_
    | with_reducible refine State.setLanes_memWf ?_ _ _
theorem execVfneg_memWf {s : State} (h : s.memWf = true) (d : VReg) (a : VReg) : OutWf (execVfneg d a s) := by
  unfold execVfneg
  repeat' first
    | with_reducible assumption | (with_reducible intro t ht) | with_reducible refine runPure_memWf ?_ _ _ ?_
    | with_reducible refine State.setLanes_memWf ?_ _ _
theorem execVfcpsgn_memWf {s : State} (h : s.memWf = true) (d : VReg) (a : VReg) (b : BSel) : OutWf (execVfcpsgn d a b s) := by
  unfold execVfcpsgn
  repeat' first
    | with_reducible assumption | with_reducible refine float3_memWf ?_ _ _ _ _ _
theorem execVdadd_memWf {s : State} (h : s.memWf = true) (d : VReg) (a : VReg) (b : BSel) : OutWf (execVdadd d a b s) := by
  unfold execVdadd
  repeat' first
    | with_reducible assumption | with_reducible refine double3_memWf ?_ _ _ _ _ _
theorem execVdsub_memWf {s : State} (h : s.memWf = true) (d : VReg) (a : VReg) (b : BSel) : OutWf (execVdsub d a b s) := by
  unfold execVdsub
  repeat' first
    | with_reducible assumption | with_reducible refine double3_memWf ?_ _ _ _ _ _
theorem execVdmul_memWf {s : State} (h : s.memWf = true) (d : VReg) (a : VReg) (b : BSel) : OutWf (execVdmul d a b s) := by
  unfold execVdmul
  repeat' first
    | with_reducible assumption | with_reducible refine double3_memWf ?_ _ _ _ _ _
theorem execVdfma_memWf {s : State} (h : s.memWf = true) (d : VReg) (a : VReg) (b : BSel) : OutWf (execVdfma d a b s) := by
  unfold execVdfma
  repeat' first
    | with_reducible assumption | with_reducible refine double3_memWf ?_ _ _ _ _ _
theorem execVddiv_memWf {s : State} (h : s.memWf = true) (d : VReg) (a : VReg) (b : BSel) (r : RMode) : OutWf (execVddiv d a b r s) := by
  unfold execVddiv
  repeat' first
    | with_reducible assumption | with_reducible refine double3_memWf ?_ _ _ _ _ _
theorem execVdcmp_memWf {s : State} (h : s.memWf = true) (c : CReg) (a : VReg) (b : BSel) (p : FCmp) : OutWf (execVdcmp c a b p s) := by
  unfold execVdcmp
  repeat' first
    | with_reducible assumption | (with_reducible intro t ht) | with_reducible refine runPure_memWf ?_ _ _ ?_
    | with_reducible refine State.setConds_memWf ?_ _ _
theorem execVdsqrt_memWf {s : State} (h : s.memWf = true) (d : VReg) (a : VReg) : OutWf (execVdsqrt d a s) := by
  unfold execVdsqrt
  repeat' first
    | with_reducible assumption | (with_reducible intro t ht) | with_reducible refine runPure_memWf ?_ _ _ ?_
    | with_reducible refine State.setPairs_memWf ?_ _ _
theorem execVhadd_memWf {s : State} (h : s.memWf = true) (d : VReg) (a : VReg) (b : BSel) (f : Bool) : OutWf (execVhadd d a b f s) := by
  unfold execVhadd
  repeat' first
    | with_reducible assumption | with_reducible refine packed3_memWf ?_ _ _ _ _ _ _
theorem execVhmul_memWf {s : State} (h : s.memWf = true) (d : VReg) (a : VReg) (b : BSel) (f : Bool) : OutWf (execVhmul d a b f s) := by
  unfold execVhmul
  repeat' first
    | with_reducible assumption | with_reducible refine packed3_memWf ?_ _ _ _ _ _ _
theorem execVhfma_memWf {s : State} (h : s.memWf = true) (d : VReg) (a : VReg) (b : BSel) (f : Bool) : OutWf (execVhfma d a b f s) := by
  unfold execVhfma
  repeat' first
    | with_reducible assumption | with_reducible refine packed3_memWf ?_ _ _ _ _ _ _
theorem execVcvt_memWf {s : State} (h : s.memWf = true) (d : VReg) (a : VReg) (f : CvtT) (t : CvtT) (r : RMode) : OutWf (execVcvt d a f t r s) := by
  unfold execVcvt
  repeat' first
    | with_reducible assumption | (with_reducible intro t ht) | with_reducible refine runPure_memWf ?_ _ _ ?_
    | with_reducible refine State.setLanes_memWf ?_ _ _ | with_reducible refine State.setPairs_memWf ?_ _ _ | dsimp only | split
theorem quantise_memWf {s : State} (h : s.memWf = true) (i : Instr) (d : VReg) (a : VReg) (b : BSel) (t : QTarget) : OutWf (quantise i d a b t s) := by
  unfold quantise
  repeat' first
    | with_reducible assumption | (with_reducible intro t ht) | with_reducible refine runPure_memWf ?_ _ _ ?_
    | with_reducible refine State.setLanes_memWf ?_ _ _
theorem execVquantD8_memWf {s : State} (h : s.memWf = true) (d : VReg) (a : VReg) (b : BSel) : OutWf (execVquantD8 d a b s) := by
  unfold execVquantD8
  repeat' first
    | with_reducible assumption | with_reducible refine quantise_memWf ?_ _ _ _ _ _
theorem execVquantD6_memWf {s : State} (h : s.memWf = true) (d : VReg) (a : VReg) (b : BSel) : OutWf (execVquantD6 d a b s) := by
  unfold execVquantD6
  repeat' first
    | with_reducible assumption | with_reducible refine quantise_memWf ?_ _ _ _ _ _
theorem execVquantM4_memWf {s : State} (h : s.memWf = true) (d : VReg) (a : VReg) (b : BSel) : OutWf (execVquantM4 d a b s) := by
  unfold execVquantM4
  repeat' first
    | with_reducible assumption | with_reducible refine quantise_memWf ?_ _ _ _ _ _
theorem execVquantS8_memWf {s : State} (h : s.memWf = true) (d : VReg) (a : VReg) (b : BSel) : OutWf (execVquantS8 d a b s) := by
  unfold execVquantS8
  repeat' first
    | with_reducible assumption | with_reducible refine quantise_memWf ?_ _ _ _ _ _
theorem execVpack_memWf {s : State} (h : s.memWf = true) (d : VReg) (a : VReg) (w : PackW) : OutWf (execVpack d a w s) := by
  unfold execVpack
  repeat' first
    | with_reducible assumption | (with_reducible intro t ht) | with_reducible refine runPure_memWf ?_ _ _ ?_
    | with_reducible refine State.setLanes_memWf ?_ _ _
theorem unpack_memWf {s : State} (h : s.memWf = true) (i : Instr) (d : VReg) (a : VReg) (w : PackW) (ext : Nat → W32) : OutWf (unpack i d a w ext s) := by
  unfold unpack
  repeat' first
    | with_reducible assumption | (with_reducible intro t ht) | with_reducible refine runPure_memWf ?_ _ _ ?_
    | with_reducible refine State.setLanes_memWf ?_ _ _ | with_reducible refine memWf_foldl ?_ (fun _ _ _ => ?_)
theorem execVunpkZ_memWf {s : State} (h : s.memWf = true) (d : VReg) (a : VReg) (w : PackW) : OutWf (execVunpkZ d a w s) := by
  unfold execVunpkZ
  repeat' first
    | with_reducible assumption | with_reducible refine unpack_memWf ?_ _ _ _ _ _
theorem execVunpkS_memWf {s : State} (h : s.memWf = true) (d : VReg) (a : VReg) (w : PackW) : OutWf (execVunpkS d a w s) := by
  unfold execVunpkS
  repeat' first
    | with_reducible assumption | with_reducible refine unpack_memWf ?_ _ _ _ _ _

/-! ### Machine/Control.lean -/

theorem branchIf_memWf {s : State} (h : s.memWf = true) (i : Instr) (o : BitVec 19) (p : State → Bool) : OutWf (branchIf i o p s) := by
  unfold branchIf
  repeat' first
    | with_reducible assumption | (with_reducible intro t ht) | with_reducible refine exWf_ok ?_ | with_reducible exact exWf_error
    | with_reducible refine State.branch_memWf ?_ _ _ | with_reducible refine runWord_memWf ?_ _ _ ?_ | split
theorem execBr_memWf {s : State} (h : s.memWf = true) (o : BitVec 19) : OutWf (execBr o s) := by
  unfold execBr
  repeat' first
    | with_reducible assumption | with_reducible refine branchIf_memWf ?_ _ _ _
theorem execBrAny_memWf {s : State} (h : s.memWf = true) (c : CReg) (o : BitVec 19) : OutWf (execBrAny c o s) := by
  unfold execBrAny
  repeat' first
    | with_reducible assumption | with_reducible refine branchIf_memWf ?_ _ _ _
theorem execBrAll_memWf {s : State} (h : s.memWf = true) (c : CReg) (o : BitVec 19) : OutWf (execBrAll c o s) := by
  unfold execBrAll
  repeat' first
    | with_reducible assumption | with_reducible refine branchIf_memWf ?_ _ _ _
theorem execBrNone_memWf {s : State} (h : s.memWf = true) (c : CReg) (o : BitVec 19) : OutWf (execBrNone c o s) := by
  unfold execBrNone
  repeat' first
    | with_reducible assumption | with_reducible refine branchIf_memWf ?_ _ _ _
theorem execCall_memWf {s : State} (h : s.memWf = true) (o : BitVec 19) : OutWf (execCall o s) := by
  unfold execCall
  repeat' first
    | with_reducible assumption | (with_reducible intro t ht) | with_reducible refine exWf_ok ?_ | with_reducible exact exWf_error
    | with_reducible refine State.wS_memWf ?_ _ _ | with_reducible refine State.branch_memWf ?_ _ _ | with_reducible refine runWord_memWf ?_ _ _ ?_
    | split
theorem execJmp_memWf {s : State} (h : s.memWf = true) (d : SReg) (a : SReg) : OutWf (execJmp d a s) := by
  unfold execJmp
  repeat' first
    | with_reducible assumption | (with_reducible intro t ht) | with_reducible refine exWf_ok ?_ | with_reducible exact exWf_error
    | with_reducible refine State.wS_memWf ?_ _ _ | with_reducible refine State.branch_memWf ?_ _ _ | with_reducible refine runWord_memWf ?_ _ _ ?_
    | dsimp only | split
theorem State.newSplits_memWf {s : State} (h : s.memWf = true) (l : List ((Int × LaneMask) × Nat)) : (State.newSplits s l).memWf = true := by
  unfold State.newSplits
  repeat' first
    | with_reducible assumption | with_reducible refine State.onGroup_memWf ?_ _ | with_reducible refine memWf_foldl ?_ (fun _ _ _ => ?_)
theorem State.dropLanes_memWf {s : State} (h : s.memWf = true) (m : LaneMask) : (State.dropLanes s m).memWf = true := by
  unfold State.dropLanes
  repeat' first
    | with_reducible assumption | with_reducible refine State.onSplit_memWf ?_ _
theorem brxSplit_memWf {s : State} (h : s.memWf = true) (l : List (Int × LaneMask)) : (brxSplit s l).memWf = true := by
  unfold brxSplit
  repeat' first
    | with_reducible assumption | with_reducible refine State.onSplit_memWf ?_ _ | with_reducible refine State.goto_memWf ?_ _ _
    | with_reducible refine State.branch_memWf ?_ _ _ | with_reducible refine State.newSplits_memWf ?_ _
    | with_reducible refine State.dropLanes_memWf ?_ _ | dsimp only | split
theorem execBrx_memWf {s : State} (h : s.memWf = true) (b : SReg) (a : VReg) : OutWf (execBrx b a s) := by
  unfold execBrx
  repeat' first
    | with_reducible assumption | (with_reducible intro t ht) | with_reducible refine exWf_ok ?_ | with_reducible exact exWf_error
    | with_reducible refine runWord_memWf ?_ _ _ ?_ | with_reducible refine brxSplit_memWf ?_ _ | split
theorem State.mapNest_memWf {s : State} (h : s.memWf = true) (f : Nat → Nat → Nat) : (State.mapNest s f).memWf = true := by
  unfold State.mapNest
  repeat' first
    | with_reducible assumption | with_reducible refine State.wN_memWf ?_ _ _ | with_reducible refine memWf_foldl ?_ (fun _ _ _ => ?_)
theorem execVif_memWf {s : State} (h : s.memWf = true) (c : CReg) : OutWf (execVif c s) := by
  unfold execVif
  repeat' first
    | with_reducible assumption | (with_reducible intro t ht) | with_reducible refine exWf_ok ?_ | with_reducible exact exWf_error
    | with_reducible refine runWord_memWf ?_ _ _ ?_ | with_reducible refine State.mapNest_memWf ?_ _ | split
theorem execVelse_memWf {s : State} (h : s.memWf = true)  : OutWf (execVelse s) := by
  unfold execVelse
  repeat' first
    | with_reducible assumption | (with_reducible intro t ht) | with_reducible refine runPure_memWf ?_ _ _ ?_
    | with_reducible refine State.mapNest_memWf ?_ _
theorem execVend_memWf {s : State} (h : s.memWf = true)  : OutWf (execVend s) := by
  unfold execVend
  repeat' first
    | with_reducible assumption | (with_reducible intro t ht) | with_reducible refine runPure_memWf ?_ _ _ ?_
    | with_reducible refine State.mapNest_memWf ?_ _
theorem execVkill_memWf {s : State} (h : s.memWf = true) (c : CReg) : OutWf (execVkill c s) := by
  unfold execVkill
  repeat' first
    | with_reducible assumption | (with_reducible intro t ht) | with_reducible refine State.retire_memWf ?_
    | with_reducible refine runPure_memWf ?_ _ _ ?_ | with_reducible refine State.mapNest_memWf ?_ _
theorem execVbrk_memWf {s : State} (h : s.memWf = true) (c : CReg) (m : Fin 256) : OutWf (execVbrk c m s) := by
  unfold execVbrk
  repeat' first
    | with_reducible assumption | (with_reducible intro t ht) | with_reducible refine runPure_memWf ?_ _ _ ?_
    | with_reducible refine State.mapNest_memWf ?_ _
theorem execExit_memWf {s : State} (h : s.memWf = true)  : OutWf (execExit s) := by
  unfold execExit
  repeat' first
    | with_reducible assumption | (with_reducible intro t ht) | with_reducible refine State.goto_memWf ?_ _ _
    | with_reducible refine State.retire_memWf ?_ | with_reducible refine runPure_memWf ?_ _ _ ?_ | with_reducible refine State.mapNest_memWf ?_ _
theorem execTrap_memWf {s : State} (h : s.memWf = true) (x : BitVec 16) : OutWf (execTrap x s) := by
  unfold execTrap
  repeat' first
    | with_reducible assumption | (with_reducible intro t ht) | with_reducible refine exWf_ok ?_ | with_reducible exact exWf_error
    | with_reducible refine runWord_memWf ?_ _ _ ?_ | split
theorem execBrk_memWf {s : State} (h : s.memWf = true) (x : BitVec 16) : OutWf (execBrk x s) := by
  unfold execBrk
  repeat' first
    | with_reducible assumption | (with_reducible intro t ht) | with_reducible refine exWf_ok ?_ | with_reducible exact exWf_error
    | with_reducible refine runWord_memWf ?_ _ _ ?_ | split

/-! ### Machine/Special.lean -/

theorem readSys_memWf {s : State} (h : s.memWf = true) (i : Instr) (d : SReg) (n : Fin 4096) : OutWf (readSys i d n s) := by
  unfold readSys
  repeat' first
    | with_reducible assumption | (with_reducible intro t ht) | with_reducible refine exWf_ok ?_ | with_reducible exact exWf_error
    | with_reducible refine State.wS_memWf ?_ _ _ | with_reducible refine runWord_memWf ?_ _ _ ?_ | split
theorem execSgetsr_memWf {s : State} (h : s.memWf = true) (d : SReg) (n : Fin 4096) : OutWf (execSgetsr d n s) := by
  unfold execSgetsr
  repeat' first
    | with_reducible assumption | with_reducible refine readSys_memWf ?_ _ _ _
theorem sysWrite_memWf {s : State} (h : s.memWf = true) (n : Nat) (v : W64) : (sysWrite s n v).memWf = true := by
  unfold sysWrite
  repeat' first
    | with_reducible assumption | with_reducible refine State.onGroup_memWf ?_ _ | dsimp only | split
theorem setSys_memWf {s : State} (h : s.memWf = true) (i : Instr) (a : SReg) (n : Fin 4096) (f : W64 → W64 → W64) : OutWf (setSys i a n f s) := by
  unfold setSys
  repeat' first
    | with_reducible assumption | (with_reducible intro t ht) | with_reducible refine exWf_ok ?_ | with_reducible exact exWf_error
    | with_reducible refine runWord_memWf ?_ _ _ ?_ | with_reducible refine sysWrite_memWf ?_ _ _ | split
theorem execSsetsr_memWf {s : State} (h : s.memWf = true) (a : SReg) (n : Fin 4096) : OutWf (execSsetsr a n s) := by
  unfold execSsetsr
  repeat' first
    | with_reducible assumption | with_reducible refine setSys_memWf ?_ _ _ _ _
theorem execSsetsrSet_memWf {s : State} (h : s.memWf = true) (a : SReg) (n : Fin 4096) : OutWf (execSsetsrSet a n s) := by
  unfold execSsetsrSet
  repeat' first
    | with_reducible assumption | with_reducible refine setSys_memWf ?_ _ _ _ _
theorem execSsetsrClr_memWf {s : State} (h : s.memWf = true) (a : SReg) (n : Fin 4096) : OutWf (execSsetsrClr a n s) := by
  unfold execSsetsrClr
  repeat' first
    | with_reducible assumption | with_reducible refine setSys_memWf ?_ _ _ _ _
theorem runSup_memWf {s : State} (h : s.memWf = true) (i : Instr) (body : State → Except TrapReq State)
    (hb : ∀ s, s.memWf = true → ExWf (body s)) : OutWf (runSup i s body) := by
  unfold runSup
  refine runWord_memWf h _ _ fun t ht => ?_
  split
  · exact exWf_error
  · exact hb t ht
theorem execMfsys_memWf {s : State} (h : s.memWf = true) (d : SReg) (n : Fin 4096) : OutWf (execMfsys d n s) := by
  unfold execMfsys
  repeat' first
    | with_reducible assumption | (with_reducible intro t ht) | with_reducible refine exWf_ok ?_ | with_reducible exact exWf_error
    | with_reducible refine State.wS_memWf ?_ _ _ | with_reducible refine runSup_memWf ?_ _ _ ?_ | split
theorem execMtsys_memWf {s : State} (h : s.memWf = true) (a : SReg) (n : Fin 4096) : OutWf (execMtsys a n s) := by
  unfold execMtsys
  repeat' first
    | with_reducible assumption | (with_reducible intro t ht) | with_reducible refine exWf_ok ?_ | with_reducible exact exWf_error
    | with_reducible refine sysWrite_memWf ?_ _ _ | with_reducible refine runSup_memWf ?_ _ _ ?_ | split
theorem State.replayLog_memWf {s : State} (h : s.memWf = true)  : (State.replayLog s).memWf = true := by
  unfold State.replayLog
  repeat' first
    | with_reducible assumption | with_reducible refine State.now_memWf ?_ _ | with_reducible refine State.mapOp_memWf ?_ _ _
    | with_reducible refine memWf_foldl ?_ (fun _ _ _ => ?_)
theorem execEret_memWf {s : State} (h : s.memWf = true)  : OutWf (execEret s) := by
  unfold execEret
  repeat' first
    | with_reducible assumption | (with_reducible intro t ht) | with_reducible refine exWf_ok ?_ | with_reducible refine State.onGroup_memWf ?_ _
    | with_reducible refine State.now_memWf ?_ _ | with_reducible refine State.retire_memWf ?_ | with_reducible refine runSup_memWf ?_ _ _ ?_
    | with_reducible refine State.replayLog_memWf ?_ | split
theorem startTlbinv_memWf {s : State} (h : s.memWf = true) (asid : Option Nat) (page : Option Nat) : (startTlbinv s asid page).memWf = true := by
  unfold startTlbinv
  repeat' first
    | with_reducible assumption | with_reducible refine State.now_memWf ?_ _ | with_reducible refine State.launchOp_memWf ?_ _
theorem execTlbinvVa_memWf {s : State} (h : s.memWf = true) (a : SReg) : OutWf (execTlbinvVa a s) := by
  unfold execTlbinvVa
  repeat' first
    | with_reducible assumption | (with_reducible intro t ht) | with_reducible refine exWf_ok ?_ | with_reducible refine runSup_memWf ?_ _ _ ?_
    | with_reducible refine startTlbinv_memWf ?_ _ _
theorem execTlbinvAsid_memWf {s : State} (h : s.memWf = true) (a : SReg) : OutWf (execTlbinvAsid a s) := by
  unfold execTlbinvAsid
  repeat' first
    | with_reducible assumption | (with_reducible intro t ht) | with_reducible refine exWf_ok ?_ | with_reducible exact exWf_error
    | with_reducible refine runSup_memWf ?_ _ _ ?_ | with_reducible refine startTlbinv_memWf ?_ _ _ | dsimp only | split
theorem execTlbinvAll_memWf {s : State} (h : s.memWf = true)  : OutWf (execTlbinvAll s) := by
  unfold execTlbinvAll
  repeat' first
    | with_reducible assumption | (with_reducible intro t ht) | with_reducible refine exWf_ok ?_ | with_reducible refine runSup_memWf ?_ _ _ ?_
    | with_reducible refine startTlbinv_memWf ?_ _ _
theorem execSeatctlEvack_memWf {s : State} (h : s.memWf = true) (a : SReg) : OutWf (execSeatctlEvack a s) := by
  unfold execSeatctlEvack
  repeat' first
    | with_reducible assumption | (with_reducible intro t ht) | with_reducible refine exWf_ok ?_ | with_reducible refine State.mapSeat_memWf ?_ _ _
    | with_reducible refine runSup_memWf ?_ _ _ ?_
theorem execSeatctlKill_memWf {s : State} (h : s.memWf = true) (a : SReg) : OutWf (execSeatctlKill a s) := by
  unfold execSeatctlKill
  repeat' first
    | with_reducible assumption | (with_reducible intro t ht) | with_reducible refine exWf_ok ?_ | with_reducible exact exWf_error
    | with_reducible refine State.haltTeam_memWf ?_ _ _ _ | with_reducible refine runSup_memWf ?_ _ _ ?_ | dsimp only | split
theorem execSeatctlYield_memWf {s : State} (h : s.memWf = true) (a : SReg) : OutWf (execSeatctlYield a s) := by
  unfold execSeatctlYield
  repeat' first
    | with_reducible assumption | (with_reducible intro t ht) | with_reducible refine exWf_ok ?_ | with_reducible refine State.mapSeat_memWf ?_ _ _
    | with_reducible refine runSup_memWf ?_ _ _ ?_
theorem execHalt_memWf {s : State} (h : s.memWf = true) (a : SReg) : OutWf (execHalt a s) := by
  unfold execHalt
  repeat' first
    | with_reducible assumption | (with_reducible intro t ht) | with_reducible refine exWf_ok ?_ | with_reducible refine State.haltTeam_memWf ?_ _ _ _
    | with_reducible refine runSup_memWf ?_ _ _ ?_

/-! ### Machine/Translate.lean -/

theorem State.logBad_memWf {s : State} (h : s.memWf = true) (t : Team) (va : Nat) : (State.logBad s t va).memWf = true := by
  unfold State.logBad
  repeat' first
    | with_reducible assumption | with_reducible refine State.logEvent_memWf ?_ _ _ _ _ _ _ _ _ | split

/-! ### Machine/Network.lean -/

theorem State.once_memWf {s : State} (h : s.memWf = true) (c : Nat) (e : Event) : (State.once s c e).memWf = true := by
  unfold State.once
  repeat' first
    | with_reducible assumption | with_reducible refine State.at_memWf ?_ _ _ | split
theorem State.mapReq_memWf {s : State} (h : s.memWf = true) (id : Nat) (f : Req → Req) : (State.mapReq s id f).memWf = true := by
  unfold State.mapReq
  repeat' first
    | with_reducible assumption | with_reducible refine memWf_cur ?_ | (simp only [memWf_mk]; with_reducible refine memWf_parts ?_ ?_)
theorem State.dropReq_memWf {s : State} (h : s.memWf = true) (id : Nat) : (State.dropReq s id).memWf = true := by
  unfold State.dropReq
  repeat' first
    | with_reducible assumption | with_reducible refine memWf_cur ?_ | (simp only [memWf_mk]; with_reducible refine memWf_parts ?_ ?_)
theorem State.schedule_memWf {s : State} (h : s.memWf = true) (r : Req) : (State.schedule s r).memWf = true := by
  unfold State.schedule
  repeat' first
    | with_reducible assumption | with_reducible refine State.once_memWf ?_ _ _ | split
theorem State.scheduleAll_memWf {s : State} (h : s.memWf = true)  : (State.scheduleAll s).memWf = true := by
  unfold State.scheduleAll
  repeat' first
    | with_reducible assumption | with_reducible refine State.schedule_memWf ?_ _ | with_reducible refine memWf_foldl ?_ (fun _ _ _ => ?_)
theorem State.pokeRing_memWf {s : State} (h : s.memWf = true) (slot : Nat) (core : Nat) (c : Nat) : (State.pokeRing s slot core c).memWf = true := by
  unfold State.pokeRing
  repeat' first
    | with_reducible assumption | with_reducible refine State.once_memWf ?_ _ _
theorem State.pokeEngine_memWf {s : State} (h : s.memWf = true) (seat : Nat) (core : Nat) (c : Nat) : (State.pokeEngine s seat core c).memWf = true := by
  unfold State.pokeEngine
  repeat' first
    | with_reducible assumption | with_reducible refine State.once_memWf ?_ _ _ | split
theorem State.charge_memWf {s : State} (h : s.memWf = true) (seat : Nat) (w : Charged) (c : Nat) : (State.charge s seat w c).2.memWf = true := by
  unfold State.charge
  repeat' first
    | with_reducible assumption | with_reducible refine State.at_memWf ?_ _ _ | with_reducible refine State.fresh_memWf ?_
    | with_reducible refine State.mapSeat_memWf ?_ _ _
theorem State.waitDone_memWf {s : State} (h : s.memWf = true) (seat : Nat) (id : Nat) (c : Nat) : (State.waitDone s seat id c).memWf = true := by
  unfold State.waitDone
  repeat' first
    | with_reducible assumption | with_reducible refine State.mapSeat_memWf ?_ _ _
theorem State.wakeReleases_memWf {s : State} (h : s.memWf = true) (team : Nat) (gid : Nat) : (State.wakeReleases s team gid).memWf = true := by
  unfold State.wakeReleases
  repeat' first
    | with_reducible assumption | with_reducible refine State.once_memWf ?_ _ _ | with_reducible refine State.pokeEngine_memWf ?_ _ _ _
    | with_reducible refine memWf_foldl ?_ (fun _ _ _ => ?_)
theorem State.assignLogs_memWf {s : State} (h : s.memWf = true) (team : Nat) (gid : Nat) : (State.assignLogs s team gid).memWf = true := by
  unfold State.assignLogs
  repeat' first
    | with_reducible assumption | with_reducible refine State.fresh_memWf ?_ | with_reducible refine State.mapOp_memWf ?_ _ _
    | with_reducible refine State.once_memWf ?_ _ _ | with_reducible refine memWf_foldl ?_ (fun _ _ _ => ?_) | dsimp only | split
theorem State.enterLog_memWf {s : State} (h : s.memWf = true) (id : Nat) : (State.enterLog s id).memWf = true := by
  unfold State.enterLog
  repeat' first
    | with_reducible assumption | with_reducible refine State.now_memWf ?_ _ | with_reducible refine State.fresh_memWf ?_
    | with_reducible refine State.mapOp_memWf ?_ _ _ | dsimp only | split
theorem State.replayNext_memWf {s : State} (h : s.memWf = true) (team : Nat) (gid : Nat) : (State.replayNext s team gid).memWf = true := by
  unfold State.replayNext
  repeat' first
    | with_reducible assumption | with_reducible refine State.once_memWf ?_ _ _ | with_reducible refine memWf_foldl ?_ (fun _ _ _ => ?_)
theorem State.landOp_memWf {s : State} (h : s.memWf = true) (id : Nat) : (State.landOp s id).memWf = true := by
  unfold State.landOp
  repeat' first
    | with_reducible assumption | with_reducible refine State.anyGroup_memWf ?_ _ _ _ | with_reducible refine State.finishOp_memWf ?_ _
    | with_reducible refine State.wakeReleases_memWf ?_ _ _ | with_reducible refine State.assignLogs_memWf ?_ _ _
    | with_reducible refine State.replayNext_memWf ?_ _ _ | dsimp only | split
theorem State.train_memWf {s : State} (h : s.memWf = true) (id : Nat) (seat : Nat) : (State.train s id seat).memWf = true := by
  unfold State.train
  repeat' first
    | with_reducible assumption | with_reducible refine State.mapSeat_memWf ?_ _ _ | with_reducible refine State.mapOp_memWf ?_ _ _ | dsimp only
    | split
theorem State.checkOp_memWf {s : State} (h : s.memWf = true) (id : Nat) : (s.checkOp id).memWf = true := by
  unfold State.checkOp
  split
  · exact h
  · rename_i o _
    extract_lets s1 ow s2
    have h1 : s1.memWf = true := memWf_ite h (State.train_memWf h _ _)
    clear_value s1
    have h2 : s2.memWf = true := memWf_ite (memWf_foldl h1 fun s w hs => memWf_ite (State.waitDone_memWf hs _ _ _) hs) h1
    clear_value s2
    refine memWf_ite h1 (memWf_ite h2 ?_)
    split
    · exact memWf_ite h2 (memWf_ite (memWf_ite (State.finishOp_memWf (State.defer_memWf h2 _ _) _)
        (State.replayNext_memWf (State.defer_memWf (State.mapOp_memWf h2 _ _) _ _) _ _)) h2)
    · refine memWf_ite h2 ?_
      split
      · exact h2
      · refine memWf_ite h2 ?_
        extract_lets s3
        have h3 : s3.memWf = true := State.pokeRing_memWf (State.mapOp_memWf h2 _ _) _ _ _
        exact memWf_ite (State.replayNext_memWf (State.assignLogs_memWf h3 _ _) _ _) h3
      · exact State.landOp_memWf h2 _
      · exact memWf_foldl h2 fun s w hs => memWf_ite (State.waitDone_memWf hs _ _ _) hs
theorem State.readDescriptor_memWf {s : State} (h : s.memWf = true) (o : Op) (r : Req) (gr : Nat) : (State.readDescriptor s o r gr).memWf = true := by
  unfold State.readDescriptor
  repeat' first
    | with_reducible assumption | with_reducible refine memWf_cur ?_ | with_reducible refine State.mapOp_memWf ?_ _ _
    | (simp only [memWf_mk]; with_reducible refine memWf_parts ?_ ?_) | dsimp only | split
theorem State.doLoad_memWf {s : State} (h : s.memWf = true) (r : Req) : (State.doLoad s r).memWf = true := by
  unfold State.doLoad
  repeat' first
    | with_reducible assumption | with_reducible refine State.mapOp_memWf ?_ _ _ | with_reducible refine State.readDescriptor_memWf ?_ _ _ _
    | dsimp only | split
theorem State.storeTags_memWf {s : State} (h : s.memWf = true) (r : Req) : (State.storeTags s r).memWf = true := by
  unfold State.storeTags
  repeat' first
    | with_reducible assumption | with_reducible refine State.fresh_memWf ?_ | with_reducible refine State.mapSeat_memWf ?_ _ _ | dsimp only | split
theorem State.doStore_memWf {s : State} (h : s.memWf = true) (r : Req) : (State.doStore s r).memWf = true := by
  unfold State.doStore
  repeat' first
    | with_reducible assumption | with_reducible refine State.writeAt_memWf ?_ _ _ | with_reducible refine State.mapOp_memWf ?_ _ _
    | with_reducible refine State.storeTags_memWf ?_ _ | with_reducible refine memWf_foldl ?_ (fun _ _ _ => ?_) | dsimp only | split
theorem State.doAtomic_memWf {s : State} (h : s.memWf = true) (r : Req) : (State.doAtomic s r).memWf = true := by
  unfold State.doAtomic
  repeat' first
    | with_reducible assumption | with_reducible refine State.writeAt_memWf ?_ _ _ | with_reducible refine State.fresh_memWf ?_
    | with_reducible refine State.mapSeat_memWf ?_ _ _ | with_reducible refine State.mapOp_memWf ?_ _ _
    | with_reducible refine State.train_memWf ?_ _ _ | with_reducible refine memWf_foldl ?_ (fun _ _ _ => ?_) | dsimp only | split
theorem State.doHeat_memWf {s : State} (h : s.memWf = true) (r : Req) : (s.doHeat r).memWf = true := by
  unfold State.doHeat
  generalize (if r.owner = 1 then 60 else 58) = sh
  dsimp only
  split
  · refine State.storeTags_memWf ?_ _
    rw [memWf_mk]
    exact memWf_partsMem h (write_wf _ _ _ (memWf_mem h)) (memWf_cur h)
  · exact State.storeTags_memWf h _
theorem State.doAlight_memWf {s : State} (h : s.memWf = true) (r : Req) : (State.doAlight s r).memWf = true := by
  unfold State.doAlight
  repeat' first
    | with_reducible assumption | with_reducible refine State.writeAt_memWf ?_ _ _ | with_reducible refine State.mapOp_memWf ?_ _ _
    | with_reducible refine State.once_memWf ?_ _ _ | with_reducible refine State.storeTags_memWf ?_ _ | dsimp only | split
theorem State.performOne_memWf {s : State} (h : s.memWf = true) (r : Req) : (State.performOne s r).memWf = true := by
  unfold State.performOne
  repeat' first
    | with_reducible assumption | with_reducible refine memWf_cur ?_ | with_reducible refine State.mapReq_memWf ?_ _ _
    | with_reducible refine State.doLoad_memWf ?_ _ | with_reducible refine State.doStore_memWf ?_ _ | with_reducible refine State.doAtomic_memWf ?_ _
    | with_reducible refine State.doHeat_memWf ?_ _ | with_reducible refine State.doAlight_memWf ?_ _
    | (simp only [memWf_mk]; with_reducible refine memWf_parts ?_ ?_) | dsimp only | split
theorem State.resumeOrdered_memWf {s : State} (h : s.memWf = true)  : (State.resumeOrdered s).memWf = true := by
  unfold State.resumeOrdered
  repeat' first
    | with_reducible assumption | with_reducible refine State.schedule_memWf ?_ _ | with_reducible refine memWf_foldl ?_ (fun _ _ _ => ?_)
theorem State.performNow_memWf {s : State} (h : s.memWf = true) (r : Req) : (State.performNow s r).memWf = true := by
  unfold State.performNow
  repeat' first
    | with_reducible assumption | with_reducible refine State.wakeReleases_memWf ?_ _ _ | with_reducible refine State.checkOp_memWf ?_ _
    | with_reducible refine State.performOne_memWf ?_ _ | with_reducible refine State.resumeOrdered_memWf ?_
    | with_reducible refine memWf_foldl ?_ (fun _ _ _ => ?_) | dsimp only | split
theorem State.send_memWf {s : State} (h : s.memWf = true) (r : Req) : (State.send s r).memWf = true := by
  unfold State.send
  repeat' first
    | with_reducible assumption | with_reducible refine State.at_memWf ?_ _ _ | with_reducible refine State.now_memWf ?_ _
    | with_reducible refine State.fresh_memWf ?_ | with_reducible refine State.mapSeat_memWf ?_ _ _ | with_reducible refine State.mapReq_memWf ?_ _ _
    | with_reducible refine State.schedule_memWf ?_ _ | with_reducible refine State.performNow_memWf ?_ _ | dsimp only | split
theorem State.releaseHeld_memWf {s : State} (h : s.memWf = true) (team : Nat) (gid : Nat) : (State.releaseHeld s team gid).memWf = true := by
  unfold State.releaseHeld
  repeat' first
    | with_reducible assumption | with_reducible refine State.send_memWf ?_ _ | with_reducible refine memWf_foldl ?_ (fun _ _ _ => ?_) | split
theorem State.perform_memWf {s : State} (h : s.memWf = true) (r : Req) : (State.perform s r).memWf = true := by
  unfold State.perform
  repeat' first
    | with_reducible assumption | with_reducible refine State.performNow_memWf ?_ _ | with_reducible refine State.releaseHeld_memWf ?_ _ _
    | dsimp only | split
theorem State.request_memWf {s : State} (h : s.memWf = true) (r : Req) (k : Nat) : (State.request s r k).memWf = true := by
  unfold State.request
  repeat' first
    | with_reducible assumption | with_reducible refine memWf_cur ?_ | with_reducible refine State.at_memWf ?_ _ _
    | with_reducible refine State.fresh_memWf ?_ | with_reducible refine State.send_memWf ?_ _
    | (simp only [memWf_mk]; with_reducible refine memWf_parts ?_ ?_) | dsimp only | split
theorem State.raiseHeat_memWf {s : State} (h : s.memWf = true) (seat : Nat) (core : Nat) (leafAddr : Nat) (write : Bool) : (State.raiseHeat s seat core leafAddr write).memWf = true := by
  unfold State.raiseHeat
  repeat' first
    | with_reducible assumption | with_reducible refine State.request_memWf ?_ _ _
theorem State.goOn_memWf {s : State} (h : s.memWf = true) (r : Req) (hops : List (Struct × Nat)) : (State.goOn s r hops).memWf = true := by
  unfold State.goOn
  repeat' first
    | with_reducible assumption | with_reducible refine State.at_memWf ?_ _ _ | with_reducible refine State.mapReq_memWf ?_ _ _
    | with_reducible refine State.schedule_memWf ?_ _ | dsimp only | split
theorem State.arriveVisit_memWf {s : State} (h : s.memWf = true) (r : Req) : (State.arriveVisit s r).memWf = true := by
  unfold State.arriveVisit
  repeat' first
    | with_reducible assumption | with_reducible refine State.mapReq_memWf ?_ _ _
theorem State.visitSlice_memWf {s : State} (h : s.memWf = true) (r : Req) (rest : List (Struct × Nat)) : (State.visitSlice s r rest).memWf = true := by
  unfold State.visitSlice
  repeat' first
    | with_reducible assumption | with_reducible refine State.goOn_memWf ?_ _ _ | with_reducible refine State.arriveVisit_memWf ?_ _ | split
theorem State.atSlice_memWf {s : State} (h : s.memWf = true) (r : Req) (rest : List (Struct × Nat)) : (State.atSlice s r rest).memWf = true := by
  unfold State.atSlice
  repeat' first
    | with_reducible assumption | with_reducible refine memWf_cur ?_ | with_reducible refine State.now_memWf ?_ _
    | with_reducible refine State.fresh_memWf ?_ | with_reducible refine State.mapSeat_memWf ?_ _ _ | with_reducible refine State.mapReq_memWf ?_ _ _
    | with_reducible refine State.schedule_memWf ?_ _ | with_reducible refine State.performOne_memWf ?_ _
    | with_reducible refine State.perform_memWf ?_ _ | with_reducible refine State.goOn_memWf ?_ _ _
    | (simp only [memWf_mk]; with_reducible refine memWf_parts ?_ ?_) | dsimp only | split
theorem State.atDram_memWf {s : State} (h : s.memWf = true) (r : Req) (rest : List (Struct × Nat)) : (State.atDram s r rest).memWf = true := by
  unfold State.atDram
  repeat' first
    | with_reducible assumption | with_reducible refine State.now_memWf ?_ _ | with_reducible refine State.fresh_memWf ?_
    | with_reducible refine State.mapSeat_memWf ?_ _ _ | with_reducible refine State.performOne_memWf ?_ _
    | with_reducible refine State.perform_memWf ?_ _ | with_reducible refine State.goOn_memWf ?_ _ _ | dsimp only | split
theorem State.atLink_memWf {s : State} (h : s.memWf = true) (r : Req) : (State.atLink s r).memWf = true := by
  unfold State.atLink
  repeat' first
    | with_reducible assumption | with_reducible refine State.at_memWf ?_ _ _ | with_reducible refine State.draw_memWf ?_
    | with_reducible refine State.mapReq_memWf ?_ _ _ | with_reducible refine State.resumeOrdered_memWf ?_
    | with_reducible refine State.perform_memWf ?_ _ | split
theorem State.linkDone_memWf {s : State} (h : s.memWf = true) (r : Req) : (State.linkDone s r).memWf = true := by
  unfold State.linkDone
  repeat' first
    | with_reducible assumption | with_reducible refine State.waitDone_memWf ?_ _ _ _ | with_reducible refine memWf_foldl ?_ (fun _ _ _ => ?_)
    | dsimp only | split
theorem State.serve_memWf {s : State} (h : s.memWf = true) (r : Req) : (State.serve s r).memWf = true := by
  unfold State.serve
  repeat' first
    | with_reducible assumption | with_reducible refine State.mapReq_memWf ?_ _ _ | with_reducible refine State.goOn_memWf ?_ _ _
    | with_reducible refine State.arriveVisit_memWf ?_ _ | with_reducible refine State.visitSlice_memWf ?_ _ _
    | with_reducible refine State.atSlice_memWf ?_ _ _ | with_reducible refine State.atDram_memWf ?_ _ _
    | with_reducible refine State.atLink_memWf ?_ _ | split
theorem State.claimSlice_memWf {s : State} (h : s.memWf = true) (a : Nat) : (State.claimSlice s a).memWf = true := by
  unfold State.claimSlice
  repeat' first
    | with_reducible assumption | with_reducible refine memWf_cur ?_ | (simp only [memWf_mk]; with_reducible refine memWf_parts ?_ ?_) | dsimp only
    | split
theorem State.spend_memWf {s : State} (h : s.memWf = true) (st : Struct) : (State.spend s st).memWf = true := by
  unfold State.spend
  repeat' first
    | with_reducible assumption | with_reducible refine memWf_cur ?_ | (simp only [memWf_mk]; with_reducible refine memWf_parts ?_ ?_)
theorem State.throughError_memWf {s : State} (h : s.memWf = true) (r : Req) (st : Struct) : (s.throughError r st).2.memWf = true := by
  unfold State.throughError
  split
  · split
    · exact h
    · exact State.schedule_memWf (State.mapReq_memWf h _ _) _
  · split
    · extract_lets e
      exact State.now_memWf (State.mapReq_memWf h _ _) _
    · extract_lets ev s1
      have h1 : s1.memWf = true := State.logEvent_memWf h _ _ _ _ _ _ _ _
      exact State.mapReq_memWf h1 _ _
theorem State.position_memWf {s : State} (h : s.memWf = true) (st : Struct) : (State.position s st).memWf = true := by
  unfold State.position
  repeat' first
    | with_reducible assumption | with_reducible refine State.schedule_memWf ?_ _ | with_reducible refine State.serve_memWf ?_ _
    | with_reducible refine State.spend_memWf ?_ _ | with_reducible refine State.throughError_memWf ?_ _ _
    | with_reducible refine memWf_foldl ?_ (fun _ _ _ => ?_) | dsimp only | split

/-! ### Machine/Access.lean -/

theorem State.mapWalk_memWf {s : State} (h : s.memWf = true) (id : Nat) (f : Walk → Walk) : (State.mapWalk s id f).memWf = true := by
  unfold State.mapWalk
  repeat' first
    | with_reducible assumption | with_reducible refine memWf_cur ?_ | (simp only [memWf_mk]; with_reducible refine memWf_parts ?_ ?_)
theorem State.readEntry_memWf {s : State} (h : s.memWf = true) (w : Walk) : (State.readEntry s w).memWf = true := by
  unfold State.readEntry
  repeat' first
    | with_reducible assumption | with_reducible refine State.request_memWf ?_ _ _
theorem State.startWalks_memWf {s : State} (h : s.memWf = true) (seat : Nat) (core : Nat) : (State.startWalks s seat core).memWf = true := by
  unfold State.startWalks
  repeat' first
    | with_reducible assumption | with_reducible refine State.mapWalk_memWf ?_ _ _ | with_reducible refine State.readEntry_memWf ?_ _
    | with_reducible refine memWf_foldl ?_ (fun _ _ _ => ?_)
theorem State.joinWalk_memWf {s : State} (h : s.memWf = true) (seat : Nat) (core : Nat) (asid : Nat) (va : Nat) (write : Bool) (ow : FaultOwner) (lanes : LaneMask) : (State.joinWalk s seat core asid va write ow lanes).memWf = true := by
  unfold State.joinWalk
  repeat' first
    | with_reducible assumption | with_reducible refine memWf_cur ?_ | with_reducible refine State.fresh_memWf ?_
    | with_reducible refine State.mapWalk_memWf ?_ _ _ | with_reducible refine State.startWalks_memWf ?_ _ _
    | (simp only [memWf_mk]; with_reducible refine memWf_parts ?_ ?_) | dsimp only | split
theorem State.countAccess_memWf {s : State} (h : s.memWf = true) (seat : Nat) (core : Nat) (asid : Nat) (va : Nat) (write : Bool) : (State.countAccess s seat core asid va write).memWf = true := by
  unfold State.countAccess
  repeat' first
    | with_reducible assumption | with_reducible refine State.fresh_memWf ?_ | with_reducible refine State.mapSeat_memWf ?_ _ _
    | with_reducible refine State.raiseHeat_memWf ?_ _ _ _ _ | dsimp only | split
theorem State.chargeOp_memWf {s : State} (h : s.memWf = true) (o : Op) (ow : FaultOwner) (event : Nat) (c : Nat) (va : Nat) : (State.chargeOp s o ow event c va).memWf = true := by
  unfold State.chargeOp
  repeat' first
    | with_reducible assumption | with_reducible refine State.mapSeat_memWf ?_ _ _ | with_reducible refine State.charge_memWf ?_ _ _ _ | split
theorem State.sendLanes_memWf {s : State} (h : s.memWf = true) (id : Nat) (pages : List (Nat × Page)) (asid : Nat) (tlb : Nat → Bool) (walk : Nat) (fills : Bool) : (State.sendLanes s id pages asid tlb walk fills).memWf = true := by
  unfold State.sendLanes
  repeat' first
    | with_reducible assumption | with_reducible refine State.mapOp_memWf ?_ _ _ | with_reducible refine State.request_memWf ?_ _ _
    | with_reducible refine State.countAccess_memWf ?_ _ _ _ _ _ | with_reducible refine State.chargeOp_memWf ?_ _ _ _ _ _
    | with_reducible refine memWf_foldl ?_ (fun _ _ _ => ?_) | dsimp only | split
theorem State.refuse_memWf {s : State} (h : s.memWf = true) (id : Nat) (m : LaneMask) : (State.refuse s id m).memWf = true := by
  unfold State.refuse
  repeat' first
    | with_reducible assumption | with_reducible refine State.mapOp_memWf ?_ _ _ | with_reducible refine State.enterLog_memWf ?_ _ | split
theorem State.recordFault_memWf {s : State} (h : s.memWf = true) (seat : Nat) (asid : Nat) (va : Nat) (write : Bool) (fetch : Bool) (ow : FaultOwner) : (State.recordFault s seat asid va write fetch ow).memWf = true := by
  unfold State.recordFault
  repeat' first
    | with_reducible assumption | with_reducible refine memWf_cur ?_ | with_reducible refine State.at_memWf ?_ _ _
    | with_reducible refine State.fresh_memWf ?_ | with_reducible refine State.draw_memWf ?_
    | (simp only [memWf_mk]; with_reducible refine memWf_parts ?_ ?_) | dsimp only | split
theorem State.faultLanes_memWf {s : State} (h : s.memWf = true) (id : Nat) (m : LaneMask) (asid : Nat) (va : Nat) : (State.faultLanes s id m asid va).memWf = true := by
  unfold State.faultLanes
  repeat' first
    | with_reducible assumption | with_reducible refine State.mapOp_memWf ?_ _ _ | with_reducible refine State.enterLog_memWf ?_ _
    | with_reducible refine State.chargeOp_memWf ?_ _ _ _ _ _ | with_reducible refine State.recordFault_memWf ?_ _ _ _ _ _ _ | dsimp only | split
theorem State.translate_memWf {s : State} (h : s.memWf = true) (id : Nat) (lanes : LaneMask) : (State.translate s id lanes).memWf = true := by
  unfold State.translate
  repeat' first
    | with_reducible assumption | with_reducible refine State.mapOp_memWf ?_ _ _ | with_reducible refine State.joinWalk_memWf ?_ _ _ _ _ _ _ _
    | with_reducible refine State.sendLanes_memWf ?_ _ _ _ _ _ _ | with_reducible refine State.refuse_memWf ?_ _ _
    | with_reducible refine memWf_foldl ?_ (fun _ _ _ => ?_) | dsimp only | split
theorem State.answerLanes_memWf {s : State} (h : s.memWf = true) (id : Nat) (m : LaneMask) (asid : Nat) (level : Nat) (w : W64) (walk : Nat) (fills : Bool) : (State.answerLanes s id m asid level w walk fills).memWf = true := by
  unfold State.answerLanes
  repeat' first
    | with_reducible assumption | with_reducible refine State.sendLanes_memWf ?_ _ _ _ _ _ _ | with_reducible refine State.refuse_memWf ?_ _ _
    | dsimp only | split
theorem State.placeOp_memWf {s : State} (h : s.memWf = true) (o : Op) : (State.placeOp s o).2.memWf = true := by
  unfold State.placeOp
  repeat' first
    | with_reducible assumption | with_reducible refine State.onGroup_memWf ?_ _ | with_reducible refine State.launchOp_memWf ?_ _
    | with_reducible refine memWf_pair ?_ | split
theorem State.pend_memWf {s : State} (h : s.memWf = true) (id : Nat) (keys : List Nat) : (State.pend s id keys).memWf = true := by
  unfold State.pend
  repeat' first
    | with_reducible assumption | with_reducible refine State.onGroup_memWf ?_ _
theorem State.launchGlobal_memWf {s : State} (h : s.memWf = true) (o : Op) : (State.launchGlobal s o).memWf = true := by
  unfold State.launchGlobal
  repeat' first
    | with_reducible assumption | with_reducible refine State.checkOp_memWf ?_ _ | with_reducible refine State.translate_memWf ?_ _ _
    | with_reducible refine State.placeOp_memWf ?_ _ | with_reducible refine State.pend_memWf ?_ _ _ | dsimp only | split

/-! ### Machine/Local.lean -/

theorem localMem_memWf {t : Team} (h : t.memWf = true) (sp : Space) : Memory.wf (localMem t sp) = true := by
  rw [teamWf_iff] at h
  unfold localMem
  split
  · rfl
  · exact h.1
  · exact h.2.1
  · exact h.2.2.1
  · exact h.2.2.2.1
theorem setLocal_memWf {t : Team} (h : t.memWf = true) (sp : Space) (m : Memory) (hm : Memory.wf m = true) :
    (setLocal t sp m).memWf = true := by
  rw [teamWf_iff] at h ⊢
  unfold setLocal
  split
  · exact h
  · exact ⟨hm, h.2⟩
  · exact ⟨h.1, hm, h.2.2⟩
  · exact ⟨h.1, h.2.1, hm, h.2.2.2⟩
  · exact ⟨h.1, h.2.1, h.2.2.1, hm, h.2.2.2.2⟩
theorem Team.clearMarks_memWf {t : Team} (h : t.memWf = true) (sp : Space) (l : List (Nat × Nat)) : (Team.clearMarks t sp l).memWf = true := by
  unfold Team.clearMarks
  repeat' first
    | with_reducible assumption | (simp only [teamWf_mk]; with_reducible refine teamWf_parts ?_ ?_ ?_ ?_ ?_) | with_reducible refine teamWf_save ?_
    | with_reducible refine teamWf_scratch ?_ | with_reducible refine teamWf_abuf ?_ | with_reducible refine teamWf_wbuf ?_
    | with_reducible refine teamWf_xbuf ?_ | dsimp only | split
theorem writeBar_memWf {m : Memory} (h : m.wf = true) (off : Nat) (b : Bar) : Memory.wf (writeBar m off b) = true := by
  unfold writeBar
  repeat' first
    | with_reducible assumption | with_reducible refine write_wf _ _ _ ?_
theorem barMemory_memWf {m n : Memory} (h : Memory.wf m = true) (off : Nat) (u : BarUpd) (e : barMemory m off u = some n) : Memory.wf n = true := by
  unfold barMemory at e
  cases hb : (readBar m off).apply u with
  | none => dsimp only at e; rw [hb] at e; cases e
  | some c =>
    dsimp only at e
    rw [hb] at e
    have hw := writeBar_memWf h off c
    dsimp only at e
    split at e
    · split at e <;> cases e
      · exact write_wf _ _ _ hw
      · exact hw
    · cases e
      exact hw
theorem State.barWake_memWf {s : State} (h : s.memWf = true) (team : Nat) : (State.barWake s team).memWf = true := by
  unfold State.barWake
  repeat' first
    | with_reducible assumption | with_reducible refine State.once_memWf ?_ _ _ | with_reducible refine memWf_foldl ?_ (fun _ _ _ => ?_)
theorem State.barApply_memWf {s : State} (h : s.memWf = true) (team off : Nat) (u : BarUpd) : (s.barApply team off u).2.memWf = true := by
  unfold State.barApply
  split
  · exact h
  · split
    · exact h
    · refine State.barWake_memWf (State.anyTeam_memWf h _ _ fun v hv => ?_) _
      rw [teamWf_iff] at hv ⊢
      exact ⟨barMemory_memWf (teamWf_scratch (memWf_get h ‹_›)) _ _ ‹_›, hv.2⟩
theorem State.barBytes_memWf {s : State} (h : s.memWf = true) (team : Nat) (off : Nat) (credit : Bool) (n : Nat) (never : Bool) : (State.barBytes s team off credit n never).memWf = true := by
  unfold State.barBytes
  repeat' first
    | with_reducible assumption | (with_reducible intro t ht) | with_reducible refine State.anyTeam_memWf ?_ _ _ ?_
    | with_reducible refine Team.clearMarks_memWf ?_ _ _ | with_reducible refine writeBar_memWf ?_ _ _
    | with_reducible refine State.barWake_memWf ?_ _ | (simp only [teamWf_mk]; with_reducible refine teamWf_parts ?_ ?_ ?_ ?_ ?_)
    | with_reducible refine teamWf_save ?_ | with_reducible refine teamWf_scratch ?_ | with_reducible refine teamWf_abuf ?_
    | with_reducible refine teamWf_wbuf ?_ | with_reducible refine teamWf_xbuf ?_
theorem putLane_memWf {m : Memory} (h : Memory.wf m = true) (n : Nat) (o : Op) (L : Nat) : Memory.wf (putLane n o m L) = true := by
  unfold putLane; exact putBytes_wf _ _ h
theorem State.touchBars_memWf {s : State} (h : s.memWf = true) (team : Nat) (sp : Space) : (State.touchBars s team sp).memWf = true := by
  unfold State.touchBars
  repeat' first
    | with_reducible assumption | with_reducible refine State.barWake_memWf ?_ _ | split
theorem State.localLanes_memWf {s : State} (h : s.memWf = true) (id : Nat) (m : LaneMask) : (State.localLanes s id m).memWf = true := by
  unfold State.localLanes
  repeat' first
    | with_reducible assumption | (with_reducible intro t ht) | with_reducible refine write_wf _ _ _ ?_
    | with_reducible refine State.mapOp_memWf ?_ _ _ | with_reducible refine State.anyTeam_memWf ?_ _ _ ?_ | with_reducible refine localMem_memWf ?_ _
    | with_reducible refine setLocal_memWf ?_ _ _ ?_ | with_reducible refine Team.clearMarks_memWf ?_ _ _
    | with_reducible refine putLane_memWf ?_ _ _ _ | with_reducible refine State.touchBars_memWf ?_ _ _
    | with_reducible refine wf_foldl ?_ (fun _ _ _ => ?_) | with_reducible exact memWf_get ‹_› ‹_›
    | with_reducible refine wf_foldl1 ?_ (fun _ _ _ => ?_) | dsimp only | split
theorem State.settleLocal_memWf {s : State} (h : s.memWf = true) (team : Nat) (gid : Nat) (id : Nat) (sp : Space) (ranges : List (Nat × Nat)) : (State.settleLocal s team gid id sp ranges).memWf = true := by
  unfold State.settleLocal
  repeat' first
    | with_reducible assumption | with_reducible refine State.localLanes_memWf ?_ _ _ | with_reducible refine memWf_foldl ?_ (fun _ _ _ => ?_)
theorem State.performLocal_memWf {s : State} (h : s.memWf = true) (o : Op) (m : LaneMask) : (State.performLocal s o m).memWf = true := by
  unfold State.performLocal
  repeat' first
    | with_reducible assumption | with_reducible refine State.wakeReleases_memWf ?_ _ _ | with_reducible refine State.localLanes_memWf ?_ _ _
    | with_reducible refine State.settleLocal_memWf ?_ _ _ _ _ _
theorem State.serveRows_memWf {s : State} (h : s.memWf = true) (id : Nat) (k : Nat) : (State.serveRows s id k).memWf = true := by
  unfold State.serveRows
  repeat' first
    | with_reducible assumption | with_reducible refine State.at_memWf ?_ _ _ | with_reducible refine State.landOp_memWf ?_ _
    | with_reducible refine State.performLocal_memWf ?_ _ _ | dsimp only | split
theorem State.takePort_memWf {s : State} (h : s.memWf = true) (core : Nat) (seat : Nat) (sp : Space) (c : Nat) : (State.takePort s core seat sp c).memWf = true := by
  unfold State.takePort
  repeat' first
    | with_reducible assumption | with_reducible refine memWf_cur ?_ | (simp only [memWf_mk]; with_reducible refine memWf_parts ?_ ?_)
theorem State.readColumn_memWf {s : State} (h : s.memWf = true) (o : Op) (m : Mx) (k : Nat) : (State.readColumn s o m k).memWf = true := by
  unfold State.readColumn
  repeat' first
    | with_reducible assumption | with_reducible refine memWf_cur ?_ | (simp only [memWf_mk]; with_reducible refine memWf_parts ?_ ?_) | dsimp only
    | split
theorem State.servePort_memWf {s : State} (h : s.memWf = true) (id : Nat) (k : Nat) : (State.servePort s id k).memWf = true := by
  unfold State.servePort
  repeat' first
    | with_reducible assumption | with_reducible refine State.at_memWf ?_ _ _ | with_reducible refine State.now_memWf ?_ _
    | with_reducible refine State.landOp_memWf ?_ _ | with_reducible refine State.performLocal_memWf ?_ _ _
    | with_reducible refine State.takePort_memWf ?_ _ _ _ _ | with_reducible refine State.readColumn_memWf ?_ _ _ _ | dsimp only | split
theorem State.takeReads_memWf {s : State} (h : s.memWf = true) (team : Nat) (j : Nat) : (State.takeReads s team j).memWf = true := by
  unfold State.takeReads
  repeat' first
    | with_reducible assumption | with_reducible refine State.localLanes_memWf ?_ _ _ | with_reducible refine memWf_foldl ?_ (fun _ _ _ => ?_)
    | dsimp only | split
theorem Team.zeroBank_memWf {t : Team} (h : t.memWf = true) (j : Nat) : (Team.zeroBank t j).memWf = true := by
  unfold Team.zeroBank
  repeat' first
    | with_reducible assumption | (simp only [teamWf_mk]; with_reducible refine teamWf_parts ?_ ?_ ?_ ?_ ?_) | with_reducible refine teamWf_save ?_
    | with_reducible refine teamWf_scratch ?_ | with_reducible refine teamWf_abuf ?_ | with_reducible refine teamWf_wbuf ?_
    | with_reducible refine teamWf_xbuf ?_ | with_reducible refine wf_filter ?_
theorem State.wakeScratch_memWf {s : State} (h : s.memWf = true) (team : Nat) (j : Nat) (target : BankState) : (State.wakeScratch s team j target).memWf = true := by
  unfold State.wakeScratch
  repeat' first
    | with_reducible assumption | (with_reducible intro t ht) | with_reducible refine State.at_memWf ?_ _ _
    | with_reducible refine State.anyTeam_memWf ?_ _ _ ?_ | with_reducible refine Team.zeroBank_memWf ?_ _
    | (simp only [teamWf_mk]; with_reducible refine teamWf_parts ?_ ?_ ?_ ?_ ?_) | with_reducible refine teamWf_save ?_
    | with_reducible refine teamWf_scratch ?_ | with_reducible refine teamWf_abuf ?_ | with_reducible refine teamWf_wbuf ?_
    | with_reducible refine teamWf_xbuf ?_ | dsimp only | split
theorem State.setScratch_memWf {s : State} (h : s.memWf = true) (team : Nat) (j : Nat) (c : BankCode) : (State.setScratch s team j c).memWf = true := by
  unfold State.setScratch
  repeat' first
    | with_reducible assumption | (with_reducible intro t ht) | with_reducible refine State.anyTeam_memWf ?_ _ _ ?_
    | with_reducible refine State.takeReads_memWf ?_ _ _ | with_reducible refine Team.zeroBank_memWf ?_ _
    | with_reducible refine State.wakeScratch_memWf ?_ _ _ _ | (simp only [teamWf_mk]; with_reducible refine teamWf_parts ?_ ?_ ?_ ?_ ?_)
    | with_reducible refine teamWf_save ?_ | with_reducible refine teamWf_scratch ?_ | with_reducible refine teamWf_abuf ?_
    | with_reducible refine teamWf_wbuf ?_ | with_reducible refine teamWf_xbuf ?_ | dsimp only | split
theorem State.setBank_memWf {s : State} (h : s.memWf = true) (b : Nat) (c : BankCode) : (State.setBank s b c).memWf = true := by
  unfold State.setBank
  repeat' first
    | with_reducible assumption | with_reducible refine State.onGroup_memWf ?_ _ | with_reducible refine State.at_memWf ?_ _ _ | dsimp only | split
theorem State.endWake_memWf {s : State} (h : s.memWf = true) (team : Nat) (gid : Option Nat) (b : Nat) : (State.endWake s team gid b).memWf = true := by
  unfold State.endWake
  repeat' first
    | with_reducible assumption | (with_reducible intro t ht) | with_reducible refine State.mapTeam_memWf ?_ _ _ ?_
    | with_reducible refine State.mapGroup_memWf ?_ _ _ _ | (simp only [teamWf_mk]; with_reducible refine teamWf_parts ?_ ?_ ?_ ?_ ?_)
    | with_reducible refine teamWf_save ?_ | with_reducible refine teamWf_scratch ?_ | with_reducible refine teamWf_abuf ?_
    | with_reducible refine teamWf_wbuf ?_ | with_reducible refine teamWf_xbuf ?_ | split

/-! ### Machine/Memory.lean -/

theorem State.launchLocal_memWf {s : State} (h : s.memWf = true) (o : Op) : (State.launchLocal s o).memWf = true := by
  unfold State.launchLocal
  repeat' first
    | with_reducible assumption | with_reducible refine State.at_memWf ?_ _ _ | with_reducible refine State.placeOp_memWf ?_ _
    | with_reducible refine State.pend_memWf ?_ _ _ | with_reducible refine State.wakeScratch_memWf ?_ _ _ _
    | with_reducible refine memWf_foldl ?_ (fun _ _ _ => ?_) | dsimp only | split
theorem vectorAccess_memWf {s : State} (h : s.memWf = true) (i : Instr) (sp : Space) (n : Nat) (reads : Bool) (f : State → Nat → Int) (mk : State → Op) : OutWf (vectorAccess i sp n reads f mk s) := by
  unfold vectorAccess
  repeat' first
    | with_reducible assumption | (with_reducible intro t ht) | with_reducible refine exWf_ok ?_ | with_reducible exact exWf_error
    | with_reducible refine runWord_memWf ?_ _ _ ?_ | with_reducible refine State.launchGlobal_memWf ?_ _
    | with_reducible refine State.launchLocal_memWf ?_ _ | dsimp only | split
theorem vectorLoad_memWf {s : State} (h : s.memWf = true) (i : Instr) (sp : Space) (signed : Bool) (d : VReg) (b : SReg) (o : VReg) (w : Width) : OutWf (vectorLoad i sp signed d b o w s) := by
  unfold vectorLoad
  repeat' first
    | with_reducible assumption | with_reducible refine vectorAccess_memWf ?_ _ _ _ _ _ _
theorem vectorStore_memWf {s : State} (h : s.memWf = true) (i : Instr) (sp : Space) (d : VReg) (b : SReg) (o : VReg) (w : Width) : OutWf (vectorStore i sp d b o w s) := by
  unfold vectorStore
  repeat' first
    | with_reducible assumption | with_reducible refine vectorAccess_memWf ?_ _ _ _ _ _ _
theorem execVldZ_memWf {s : State} (hwf : s.memWf = true) (d : VReg) (b : SReg) (o : VReg) (w : Width) (h : Hint) : OutWf (execVldZ d b o w h s) := by
  unfold execVldZ
  repeat' first
    | with_reducible assumption | with_reducible refine vectorLoad_memWf ?_ _ _ _ _ _ _ _
theorem execVldS_memWf {s : State} (hwf : s.memWf = true) (d : VReg) (b : SReg) (o : VReg) (w : Width) (h : Hint) : OutWf (execVldS d b o w h s) := by
  unfold execVldS
  repeat' first
    | with_reducible assumption | with_reducible refine vectorLoad_memWf ?_ _ _ _ _ _ _ _
theorem execVst_memWf {s : State} (hwf : s.memWf = true) (d : VReg) (b : SReg) (o : VReg) (w : Width) (h : Hint) : OutWf (execVst d b o w h s) := by
  unfold execVst
  repeat' first
    | with_reducible assumption | with_reducible refine vectorStore_memWf ?_ _ _ _ _ _ _
theorem execVlds_memWf {s : State} (h : s.memWf = true) (d : VReg) (b : SReg) (o : VReg) (w : Width) : OutWf (execVlds d b o w s) := by
  unfold execVlds
  repeat' first
    | with_reducible assumption | with_reducible refine vectorLoad_memWf ?_ _ _ _ _ _ _ _
theorem execVsts_memWf {s : State} (h : s.memWf = true) (d : VReg) (b : SReg) (o : VReg) (w : Width) : OutWf (execVsts d b o w s) := by
  unfold execVsts
  repeat' first
    | with_reducible assumption | with_reducible refine vectorStore_memWf ?_ _ _ _ _ _ _
theorem execVlda_memWf {s : State} (h : s.memWf = true) (d : VReg) (b : SReg) (o : VReg) (w : Width) : OutWf (execVlda d b o w s) := by
  unfold execVlda
  repeat' first
    | with_reducible assumption | with_reducible refine vectorLoad_memWf ?_ _ _ _ _ _ _ _
theorem execVsta_memWf {s : State} (h : s.memWf = true) (d : VReg) (b : SReg) (o : VReg) (w : Width) : OutWf (execVsta d b o w s) := by
  unfold execVsta
  repeat' first
    | with_reducible assumption | with_reducible refine vectorStore_memWf ?_ _ _ _ _ _ _
theorem execVldx_memWf {s : State} (h : s.memWf = true) (d : VReg) (b : SReg) (o : VReg) (w : Bool) : OutWf (execVldx d b o w s) := by
  unfold execVldx
  repeat' first
    | with_reducible assumption | with_reducible refine vectorLoad_memWf ?_ _ _ _ _ _ _ _
theorem scalarAccess_memWf {s : State} (h : s.memWf = true) (i : Instr) (n : Nat) (a : State → Int) (mk : State → Op) : OutWf (scalarAccess i n a mk s) := by
  unfold scalarAccess
  repeat' first
    | with_reducible assumption | (with_reducible intro t ht) | with_reducible refine exWf_ok ?_ | with_reducible exact exWf_error
    | with_reducible refine runWord_memWf ?_ _ _ ?_ | with_reducible refine State.launchGlobal_memWf ?_ _ | dsimp only | split
theorem scalarLoad_memWf {s : State} (h : s.memWf = true) (i : Instr) (d : SReg) (b : SReg) (e : BitVec 12) (n : Nat) : OutWf (scalarLoad i d b e n s) := by
  unfold scalarLoad
  repeat' first
    | with_reducible assumption | with_reducible refine scalarAccess_memWf ?_ _ _ _ _
theorem scalarStore_memWf {s : State} (h : s.memWf = true) (i : Instr) (d : SReg) (b : SReg) (e : BitVec 12) (n : Nat) : OutWf (scalarStore i d b e n s) := by
  unfold scalarStore
  repeat' first
    | with_reducible assumption | with_reducible refine scalarAccess_memWf ?_ _ _ _ _
theorem execSld_memWf {s : State} (h : s.memWf = true) (d : SReg) (b : SReg) (e : BitVec 12) : OutWf (execSld d b e s) := by
  unfold execSld
  repeat' first
    | with_reducible assumption | with_reducible refine scalarLoad_memWf ?_ _ _ _ _ _
theorem execSlw_memWf {s : State} (h : s.memWf = true) (d : SReg) (b : SReg) (e : BitVec 12) : OutWf (execSlw d b e s) := by
  unfold execSlw
  repeat' first
    | with_reducible assumption | with_reducible refine scalarLoad_memWf ?_ _ _ _ _ _
theorem execSst_memWf {s : State} (h : s.memWf = true) (d : SReg) (b : SReg) (e : BitVec 12) : OutWf (execSst d b e s) := by
  unfold execSst
  repeat' first
    | with_reducible assumption | with_reducible refine scalarStore_memWf ?_ _ _ _ _ _
theorem execSsw_memWf {s : State} (h : s.memWf = true) (d : SReg) (b : SReg) (e : BitVec 12) : OutWf (execSsw d b e s) := by
  unfold execSsw
  repeat' first
    | with_reducible assumption | with_reducible refine scalarStore_memWf ?_ _ _ _ _ _
theorem vectorAtomic_memWf {s : State} (h : s.memWf = true) (i : Instr) (sp : Space) (d : VReg) (p : AOp) (sc : Scope) (r : Ord) (returns : Bool) (f : State → Nat → Int) : OutWf (vectorAtomic i sp d p sc r returns f s) := by
  unfold vectorAtomic
  repeat' first
    | with_reducible assumption | with_reducible refine vectorAccess_memWf ?_ _ _ _ _ _ _
theorem execVatom_memWf {s : State} (h : s.memWf = true) (d : VReg) (a : VReg) (p : AOp) (sc : Scope) (r : Ord) : OutWf (execVatom d a p sc r s) := by
  unfold execVatom
  repeat' first
    | with_reducible assumption | with_reducible refine vectorAtomic_memWf ?_ _ _ _ _ _ _ _ _
theorem execVmred_memWf {s : State} (h : s.memWf = true) (d : VReg) (a : VReg) (p : RedOp) (sc : Scope) (r : Ord) : OutWf (execVmred d a p sc r s) := by
  unfold execVmred
  repeat' first
    | with_reducible assumption | with_reducible refine vectorAtomic_memWf ?_ _ _ _ _ _ _ _ _
theorem execVatoms_memWf {s : State} (h : s.memWf = true) (d : VReg) (a : VReg) (p : AOp) (sc : Scope) (r : Ord) : OutWf (execVatoms d a p sc r s) := by
  unfold execVatoms
  repeat' first
    | with_reducible assumption | with_reducible refine vectorAtomic_memWf ?_ _ _ _ _ _ _ _ _
theorem execSatom_memWf {s : State} (h : s.memWf = true) (d : SReg) (a : SReg) (b : SReg) (p : AOp) (r : Ord) : OutWf (execSatom d a b p r s) := by
  unfold execSatom
  repeat' first
    | with_reducible assumption | with_reducible refine scalarAccess_memWf ?_ _ _ _ _

/-! ### Machine/Sync.lean -/

theorem execFence_memWf {s : State} (h : s.memWf = true) (u : Bool) (r : FOrd) (sc : Scope) : OutWf (execFence u r sc s) := by
  unfold execFence
  repeat' first
    | with_reducible assumption | (with_reducible intro t ht) | with_reducible refine State.onGroup_memWf ?_ _
    | with_reducible refine runPure_memWf ?_ _ _ ?_
theorem State.settled_memWf {s : State} (h : s.memWf = true) (l : List (Nat × Nat)) : (State.settled s l).memWf = true := by
  unfold State.settled
  repeat' first
    | with_reducible assumption | with_reducible refine State.settleLocal_memWf ?_ _ _ _ _ _
theorem State.barWord_memWf {s : State} (h : s.memWf = true) (off : Nat) (u : BarUpd) (rel : Bool) (sc : Scope) : ExWf (State.barWord s off u rel sc) := by
  unfold State.barWord
  repeat' first
    | with_reducible assumption | with_reducible refine exWf_ok ?_ | with_reducible exact exWf_error | with_reducible refine State.onGroup_memWf ?_ _
    | with_reducible refine State.launchOp_memWf ?_ _ | with_reducible refine memWf_ofPair (State.barApply_memWf ?_ _ _ _) (by assumption)
    | dsimp only | split
theorem barrierWord_memWf {s : State} (h : s.memWf = true) (i : Instr) (b : SReg) (valid : Bool) (f : State → Nat → Except TrapReq State)
    (hf : ∀ s n, s.memWf = true → ExWf (f s n)) : OutWf (barrierWord i b valid f s) := by
  unfold barrierWord
  refine runWord_memWf h _ _ fun t ht => ?_
  have hs := State.settled_memWf ht [(barOff t b, 16)]
  dsimp only
  split
  · exact exWf_error
  · exact hf _ _ hs
theorem execBarInit_memWf {s : State} (h : s.memWf = true) (b : SReg) (e : SReg) : OutWf (execBarInit b e s) := by
  unfold execBarInit
  repeat' first
    | with_reducible assumption | with_reducible exact exWf_error | with_reducible refine State.barWord_memWf ?_ _ _ _ _
    | with_reducible refine barrierWord_memWf ?_ _ _ _ _ (fun _ _ _ => ?_) | split
theorem execBarExpect_memWf {s : State} (h : s.memWf = true) (b : SReg) (e : SReg) : OutWf (execBarExpect b e s) := by
  unfold execBarExpect
  repeat' first
    | with_reducible assumption | with_reducible refine State.barWord_memWf ?_ _ _ _ _
    | with_reducible refine barrierWord_memWf ?_ _ _ _ _ (fun _ _ _ => ?_)
theorem execBarArrive_memWf {s : State} (h : s.memWf = true) (b : SReg) (p : Scope) (o : Bool) : OutWf (execBarArrive b p o s) := by
  unfold execBarArrive
  repeat' first
    | with_reducible assumption | with_reducible refine State.barWord_memWf ?_ _ _ _ _
    | with_reducible refine barrierWord_memWf ?_ _ _ _ _ (fun _ _ _ => ?_)
theorem execBarArriveExp_memWf {s : State} (h : s.memWf = true) (b : SReg) (e : SReg) (p : Scope) (o : Bool) : OutWf (execBarArriveExp b e p o s) := by
  unfold execBarArriveExp
  repeat' first
    | with_reducible assumption | with_reducible refine State.barWord_memWf ?_ _ _ _ _
    | with_reducible refine barrierWord_memWf ?_ _ _ _ _ (fun _ _ _ => ?_)
theorem execBarWait_memWf {s : State} (h : s.memWf = true) (b : SReg) (e : SReg) (p : Scope) (o : Bool) : OutWf (execBarWait b e p o s) := by
  unfold execBarWait
  repeat' first
    | with_reducible assumption | with_reducible refine exWf_ok ?_ | with_reducible refine State.block_memWf ?_ _
    | with_reducible refine barrierWord_memWf ?_ _ _ _ _ (fun _ _ _ => ?_) | split
theorem State.askBar_memWf {s : State} (h : s.memWf = true) (off : Nat) (u : BarUpd) (acq : Bool) (e : SReg) : (State.askBar s off u acq e).memWf = true := by
  unfold State.askBar
  repeat' first
    | with_reducible assumption | with_reducible refine State.launchOp_memWf ?_ _ | with_reducible refine State.pend_memWf ?_ _ _
theorem execBarTest_memWf {s : State} (h : s.memWf = true) (b : SReg) (e : SReg) (p : Scope) (o : Bool) : OutWf (execBarTest b e p o s) := by
  unfold execBarTest
  repeat' first
    | with_reducible assumption | with_reducible refine exWf_ok ?_ | with_reducible refine State.onGroup_memWf ?_ _
    | with_reducible refine State.wS_memWf ?_ _ _ | with_reducible refine State.launchOp_memWf ?_ _ | with_reducible refine State.pend_memWf ?_ _ _
    | with_reducible refine barrierWord_memWf ?_ _ _ _ _ (fun _ _ _ => ?_) | with_reducible refine State.askBar_memWf ?_ _ _ _ _ | dsimp only | split
theorem execBarPhase_memWf {s : State} (h : s.memWf = true) (b : SReg) (e : SReg) : OutWf (execBarPhase b e s) := by
  unfold execBarPhase
  repeat' first
    | with_reducible assumption | with_reducible refine exWf_ok ?_ | with_reducible refine State.wS_memWf ?_ _ _
    | with_reducible refine barrierWord_memWf ?_ _ _ _ _ (fun _ _ _ => ?_) | with_reducible refine State.askBar_memWf ?_ _ _ _ _ | split
theorem Team.resumeWaits_memWf {t : Team} (h : t.memWf = true) (cycle : Nat) : (Team.resumeWaits t cycle).memWf = true := by
  unfold Team.resumeWaits
  repeat' first
    | with_reducible assumption | (simp only [teamWf_mk]; with_reducible refine teamWf_parts ?_ ?_ ?_ ?_ ?_) | with_reducible refine teamWf_save ?_
    | with_reducible refine teamWf_scratch ?_ | with_reducible refine teamWf_abuf ?_ | with_reducible refine teamWf_wbuf ?_
    | with_reducible refine teamWf_xbuf ?_
theorem State.resumeWaits_memWf {s : State} (h : s.memWf = true) (team : Nat) : (State.resumeWaits s team).memWf = true := by
  unfold State.resumeWaits
  repeat' first
    | with_reducible assumption | (with_reducible intro t ht) | with_reducible refine State.mapTeam_memWf ?_ _ _ ?_
    | with_reducible refine Team.resumeWaits_memWf ?_ _ | split
theorem execWaitc_memWf {s : State} (h : s.memWf = true) (l : Fin 16) (st : Fin 16) (cp : Fin 16) (ti : Fin 16) : OutWf (execWaitc l st cp ti s) := by
  unfold execWaitc
  repeat' first
    | with_reducible assumption | (with_reducible intro t ht) | with_reducible refine State.onGroup_memWf ?_ _
    | with_reducible refine State.onSplit_memWf ?_ _ | with_reducible refine runPure_memWf ?_ _ _ ?_ | split
theorem execWaitcResume_memWf {s : State} (h : s.memWf = true)  : OutWf (execWaitcResume s) := by
  unfold execWaitcResume
  repeat' first
    | with_reducible assumption | with_reducible refine optWf_some ?_ | with_reducible exact optWf_none
    | with_reducible refine State.mapGroup_memWf ?_ _ _ _ | with_reducible refine runEvent_memWf _ fun e => ?_ | split
theorem execVbank_memWf {s : State} (h : s.memWf = true) (m : BitVec 16) (c : BankCode) : OutWf (execVbank m c s) := by
  unfold execVbank
  repeat' first
    | with_reducible assumption | (with_reducible intro t ht) | with_reducible refine runPure_memWf ?_ _ _ ?_
    | with_reducible refine State.setBank_memWf ?_ _ _ | with_reducible refine memWf_foldl ?_ (fun _ _ _ => ?_)
theorem execPbank_memWf {s : State} (h : s.memWf = true) (f : Fin 128) (n : Fin 128) (c : BankCode) : OutWf (execPbank f n c s) := by
  unfold execPbank
  repeat' first
    | with_reducible assumption | (with_reducible intro t ht) | with_reducible refine exWf_ok ?_ | with_reducible exact exWf_error
    | with_reducible refine State.onGroup_memWf ?_ _ | with_reducible refine State.launchOp_memWf ?_ _ | with_reducible refine runWord_memWf ?_ _ _ ?_
    | with_reducible refine State.setScratch_memWf ?_ _ _ _ | with_reducible refine memWf_foldl ?_ (fun _ _ _ => ?_) | dsimp only | split
theorem State.tryExt_memWf {s : State} (h : s.memWf = true)  : OptWf (State.tryExt s) := by
  unfold State.tryExt
  repeat' first
    | with_reducible assumption | with_reducible refine optWf_some ?_ | with_reducible exact optWf_none
    | with_reducible refine State.onGroup_memWf ?_ _ | dsimp only | split
theorem execEacq_memWf {s : State} (h : s.memWf = true)  : OutWf (execEacq s) := by
  unfold execEacq
  repeat' first
    | with_reducible assumption | (with_reducible intro t ht) | with_reducible refine State.block_memWf ?_ _
    | with_reducible refine runPure_memWf ?_ _ _ ?_ | with_reducible refine optWf_elim (State.tryExt_memWf ?_) (by assumption) | split
theorem execEacqTry_memWf {s : State} (h : s.memWf = true) (c : CReg) : OutWf (execEacqTry c s) := by
  unfold execEacqTry
  repeat' first
    | with_reducible assumption | (with_reducible intro t ht) | with_reducible refine State.wC_memWf ?_ _ _
    | with_reducible refine runPure_memWf ?_ _ _ ?_ | with_reducible refine optWf_elim (State.tryExt_memWf ?_) (by assumption) | split
theorem execErel_memWf {s : State} (h : s.memWf = true)  : OutWf (execErel s) := by
  unfold execErel
  repeat' first
    | with_reducible assumption | (with_reducible intro t ht) | with_reducible refine State.onGroup_memWf ?_ _
    | with_reducible refine runPure_memWf ?_ _ _ ?_ | with_reducible refine State.once_memWf ?_ _ _ | dsimp only | split
theorem State.grantExt_memWf {s : State} (h : s.memWf = true) (seat core : Nat) (detect : Bool) (l : List (Nat × Nat × Nat × Nat)) :
    (s.grantExt seat core detect l).memWf = true := by
  induction l generalizing s with
  | nil => exact h
  | cons w ws ih =>
    unfold State.grantExt
    dsimp only
    split
    · exact ih (State.mapGroup_memWf h _ _ _)
    · split
      · exact h
      · exact ih (State.mapGroup_memWf h _ _ _)
theorem State.grantWaiters_memWf {s : State} (h : s.memWf = true) (seat : Nat) (core : Nat) (p : Team → Bool) : (State.grantWaiters s seat core p).memWf = true := by
  unfold State.grantWaiters
  repeat' first
    | with_reducible assumption | with_reducible refine State.grantExt_memWf ?_ _ _ _ _
theorem execEacqGrant_memWf {s : State} (h : s.memWf = true)  : OutWf (execEacqGrant s) := by
  unfold execEacqGrant
  repeat' first
    | with_reducible assumption | with_reducible refine optWf_some ?_ | with_reducible exact optWf_none
    | with_reducible refine runEvent_memWf _ fun e => ?_ | with_reducible refine State.grantWaiters_memWf ?_ _ _ _ | split

/-! ### Machine/Tiles.lean -/

theorem landed_memWf {t : Team} (h : t.memWf = true) {m : Memory} (hm : Memory.wf m = true) (l : List Tile) :
    ({ t with xbuf := m, tilesIn := l } : Team).memWf = true := by
  rw [teamWf_mk]; exact teamWf_parts (teamWf_scratch h) (teamWf_abuf h) (teamWf_wbuf h) hm (teamWf_save h)
theorem Team.landTile_memWf {t : Team} (h : t.memWf = true) (id : Nat) (f : Tile → Memory → Tile × Memory)
    (hf : ∀ x m, Memory.wf m = true → Memory.wf (f x m).2 = true) : (t.landTile id f).memWf = true := by
  unfold Team.landTile
  split
  · exact h
  · rename_i x _
    have hx := hf x t.xbuf (teamWf_xbuf h)
    generalize f x t.xbuf = r at hx ⊢
    obtain ⟨y, m⟩ := r
    exact landed_memWf h (write_wf _ _ _ hx) _
theorem Team.landing_memWf {t : Team} (g : Nat) (f : Team → Team) (h : (f t).memWf = true) : (t.landing g f).memWf = true := by
  unfold Team.landing
  rw [teamWf_mk]
  exact teamWf_parts (teamWf_scratch h) (teamWf_abuf h) (teamWf_wbuf h) (teamWf_xbuf h) (teamWf_save h)
theorem landXmm_memWf {t : Team} (h : t.memWf = true) (pl : Plane) (fmt : Fmt) (acc : Bool) (q : Quarter) (rows : List (List Byte)) : (landXmm pl fmt acc q rows t).memWf = true := by
  unfold landXmm
  repeat' first
    | with_reducible assumption | with_reducible refine write_wf _ _ _ ?_ | with_reducible refine Team.landTile_memWf ?_ _ _ (fun _ _ _ => ?_)
    | with_reducible refine wf_foldl1 ?_ (fun _ _ _ => ?_)
theorem landXbmm_memWf {t : Team} (h : t.memWf = true) (pl : Plane) (fmt : Fmt) (q : Quarter) (rows : List (List Byte)) : (landXbmm pl fmt q rows t).memWf = true := by
  unfold landXbmm
  repeat' first
    | with_reducible assumption | with_reducible refine put_wf _ _ ?_ | with_reducible refine write_wf _ _ _ ?_
    | with_reducible refine Team.landTile_memWf ?_ _ _ (fun _ _ _ => ?_) | with_reducible refine wf_foldl ?_ (fun _ _ _ => ?_)
theorem landXscac_memWf {t : Team} (h : t.memWf = true) (y : Tile) (dst : Nat) (p0 : Nat) (n : Nat) (acc : Bool) : (landXscac y dst p0 n acc t).memWf = true := by
  unfold landXscac
  repeat' first
    | with_reducible assumption | with_reducible refine write_wf _ _ _ ?_ | with_reducible refine Team.landTile_memWf ?_ _ _ (fun _ _ _ => ?_)
    | with_reducible refine wf_foldl ?_ (fun _ _ _ => ?_)
theorem landXcfg_memWf {t : Team} (h : t.memWf = true) (x : Tile) : (landXcfg x t).memWf = true := by
  unfold landXcfg
  repeat' first
    | with_reducible assumption | with_reducible refine zeroTile_wf _ ?_ | with_reducible refine Team.landTile_memWf ?_ _ _ (fun _ _ _ => ?_)
    | (simp only [teamWf_mk]; with_reducible refine teamWf_parts ?_ ?_ ?_ ?_ ?_) | with_reducible refine teamWf_save ?_
    | with_reducible refine teamWf_scratch ?_ | with_reducible refine teamWf_abuf ?_ | with_reducible refine teamWf_wbuf ?_
    | with_reducible refine teamWf_xbuf ?_ | split
theorem landXrel_memWf {t : Team} (h : t.memWf = true) (mask : Nat) : (landXrel mask t).memWf = true := by
  unfold landXrel
  repeat' first
    | with_reducible assumption | with_reducible refine zeroTile_wf _ ?_ | (simp only [teamWf_mk]; with_reducible refine teamWf_parts ?_ ?_ ?_ ?_ ?_)
    | with_reducible refine teamWf_save ?_ | with_reducible refine teamWf_scratch ?_ | with_reducible refine teamWf_abuf ?_
    | with_reducible refine teamWf_wbuf ?_ | with_reducible refine teamWf_xbuf ?_ | with_reducible refine wf_foldl ?_ (fun _ _ _ => ?_)
theorem landXdrn_memWf {t : Team} (h : t.memWf = true) (mask : Nat) : (landXdrn mask t).memWf = true := by
  unfold landXdrn
  repeat' first
    | with_reducible assumption | with_reducible refine Team.landTile_memWf ?_ _ _ (fun _ _ _ => ?_)
    | with_reducible refine teamWf_foldl ?_ (fun _ _ _ => ?_) | split

end Sys2Proof.Machine
end

