-- ==== Sys2Proof/Laws/FormEngines.lean ====
section
/-!
SUPPORT. Every operation and meaning of Machine/Matrix, Engines, Ring, Teams and Launch keeps the canonical form of every memory.
-/

namespace Sys2Proof.Machine

open Sys2Proof Sys2Proof.Laws


/-! ### Machine/Matrix.lean -/

theorem State.setPair_memWf {s : State} (h : s.memWf = true) (p : PlanePair) : (State.setPair s p).memWf = true := by
  unfold State.setPair
  repeat' first
    | with_reducible assumption | with_reducible refine memWf_cur ?_ | (simp only [memWf_mk]; with_reducible refine memWf_parts ?_ ?_)
theorem State.wakeQueues_memWf {s : State} (h : s.memWf = true) (o : Op) : (State.wakeQueues s o).memWf = true := by
  unfold State.wakeQueues
  repeat' first
    | with_reducible assumption | with_reducible refine State.once_memWf ?_ _ _ | with_reducible refine memWf_foldl ?_ (fun _ _ _ => ?_)
theorem State.startSwap_memWf {s : State} (h : s.memWf = true) (o : Op) (pair : Nat) : (State.startSwap s o pair).memWf = true := by
  unfold State.startSwap
  repeat' first
    | with_reducible assumption | with_reducible refine State.at_memWf ?_ _ _ | with_reducible refine State.mapOp_memWf ?_ _ _ | split
theorem State.beginMx_memWf {s : State} (h : s.memWf = true) (o : Op) (m : Mx) : (State.beginMx s o m).memWf = true := by
  unfold State.beginMx
  repeat' first
    | with_reducible assumption | with_reducible refine memWf_cur ?_ | with_reducible refine State.at_memWf ?_ _ _
    | with_reducible refine State.now_memWf ?_ _ | with_reducible refine State.fresh_memWf ?_ | with_reducible refine State.mapOp_memWf ?_ _ _
    | with_reducible refine State.once_memWf ?_ _ _ | with_reducible refine State.setPair_memWf ?_ _
    | with_reducible refine State.startSwap_memWf ?_ _ _ | (simp only [memWf_mk]; with_reducible refine memWf_parts ?_ ?_) | dsimp only | split
theorem State.mxPoke_memWf {s : State} (h : s.memWf = true) (seat : Nat) (core : Nat) : (State.mxPoke s seat core).memWf = true := by
  unfold State.mxPoke
  repeat' first
    | with_reducible assumption | with_reducible refine State.startSwap_memWf ?_ _ _ | with_reducible refine State.beginMx_memWf ?_ _ _
    | with_reducible refine memWf_foldl ?_ (fun _ _ _ => ?_) | split
theorem State.freeHeld_memWf {s : State} (h : s.memWf = true) (team : Nat) : (State.freeHeld s team).memWf = true := by
  unfold State.freeHeld
  repeat' first
    | with_reducible assumption | with_reducible refine State.once_memWf ?_ _ _ | with_reducible refine memWf_foldl ?_ (fun _ _ _ => ?_)
theorem State.finishMx_memWf {s : State} (h : s.memWf = true) (id : Nat) : (State.finishMx s id).memWf = true := by
  unfold State.finishMx
  repeat' first
    | with_reducible assumption | with_reducible refine State.anyGroup_memWf ?_ _ _ _ | with_reducible refine State.finishOp_memWf ?_ _
    | with_reducible refine State.once_memWf ?_ _ _ | with_reducible refine State.wakeQueues_memWf ?_ _
    | with_reducible refine State.mxPoke_memWf ?_ _ _ | with_reducible refine State.freeHeld_memWf ?_ _ | dsimp only | split
theorem State.nextPass_memWf {s t : State} (h : s.memWf = true) (seat core : Nat) (p : Pass) (e : s.nextPass seat core = some (p, t)) : t.memWf = true := by
  unfold State.nextPass at e
  dsimp only at e
  split at e
  · cases e; exact h
  · cases e; exact h
  · split at e
    · cases e
    · cases e; exact State.fresh_memWf h
theorem State.inject_memWf {s : State} (h : s.memWf = true) (core seat : Nat) : (s.inject core seat).memWf = true := by
  unfold State.inject
  extract_lets s0
  have h0 : s0.memWf = true := State.mxPoke_memWf h _ _
  clear_value s0
  split
  · exact h0
  · split
    · exact h0
    · have h1 := State.nextPass_memWf h0 _ _ _ ‹_›
      extract_lets
      refine memWf_ite (State.once_memWf h0 _ _) ?_
      · split
        · exact h0
        · split
          · extract_lets bytes a0 row p' a1 a2 a3 a4
            have g0 : a0.memWf = true := State.settleLocal_memWf h1 _ _ _ _ _
            have g1 : a1.memWf = true := by unfold a1; rw [memWf_mk]; exact memWf_parts g0 (memWf_cur g0)
            have g2 : a2.memWf = true := by
              unfold a2; clear_value a1
              split
              · exact memWf_foldl g1 fun s q hs => State.mapOp_memWf hs _ _
              · exact g1
            have g3 : a3.memWf = true := State.takePort_memWf g2 _ _ _ _
            have g4 : a4.memWf = true := by
              unfold a4; clear_value a3
              split
              · exact State.mxPoke_memWf (State.at_memWf g3 _ _) _ _
              · exact g3
            exact memWf_ite (State.once_memWf h0 _ _) (State.once_memWf g4 _ _)
          · exact h0
theorem State.landPass_memWf {s : State} (h : s.memWf = true) (p : Pass) : (State.landPass s p).memWf = true := by
  unfold State.landPass
  repeat' first
    | with_reducible assumption | (with_reducible intro t ht) | with_reducible refine State.mapOp_memWf ?_ _ _
    | with_reducible refine State.anyTeam_memWf ?_ _ _ ?_ | with_reducible refine Team.landing_memWf _ _ ?_
    | with_reducible refine landXmm_memWf ?_ _ _ _ _ _ | with_reducible refine landXbmm_memWf ?_ _ _ _ _
    | with_reducible refine State.freeHeld_memWf ?_ _ | with_reducible refine State.finishMx_memWf ?_ _
    | with_reducible refine memWf_foldl ?_ (fun _ _ _ => ?_) | dsimp only | split
theorem State.undoPlane_memWf {s : State} (h : s.memWf = true) (o : Op) : (State.undoPlane s o).memWf = true := by
  unfold State.undoPlane
  repeat' first
    | with_reducible assumption | with_reducible refine State.setPair_memWf ?_ _ | dsimp only | split
theorem State.fenceMx_memWf {s : State} (h : s.memWf = true) (core : Nat) : (State.fenceMx s core).memWf = true := by
  unfold State.fenceMx
  repeat' first
    | with_reducible assumption | with_reducible refine memWf_cur ?_ | with_reducible refine memWf_teams ?_ | with_reducible refine memWf_map ?_ ?_
    | (with_reducible intro t ht) | with_reducible refine State.onTeam_memWf ?_ _ ?_ | with_reducible refine State.anyGroup_memWf ?_ _ _ _
    | with_reducible refine State.finishOp_memWf ?_ _ | with_reducible refine State.defer_memWf ?_ _ _
    | with_reducible refine State.wakeQueues_memWf ?_ _ | with_reducible refine State.freeHeld_memWf ?_ _
    | with_reducible refine State.undoPlane_memWf ?_ _ | with_reducible refine memWf_foldl ?_ (fun _ _ _ => ?_)
    | (simp only [memWf_mk]; first | with_reducible refine memWf_parts ?_ ?_ | with_reducible refine memWf_partsTeams ?_ ?_ ?_)
    | (simp only [teamWf_mk]; with_reducible refine teamWf_parts ?_ ?_ ?_ ?_ ?_) | with_reducible refine teamWf_save ?_
    | with_reducible refine teamWf_scratch ?_ | with_reducible refine teamWf_abuf ?_ | with_reducible refine teamWf_wbuf ?_
    | with_reducible refine teamWf_xbuf ?_ | dsimp only | split
theorem State.completePass_memWf {s : State} (h : s.memWf = true) (core : Nat) (id : Nat) (mismatch : Bool) : (State.completePass s core id mismatch).memWf = true := by
  unfold State.completePass
  repeat' first
    | with_reducible assumption | with_reducible refine memWf_cur ?_ | with_reducible refine State.logEvent_memWf ?_ _ _ _ _ _ _ _ _
    | with_reducible refine State.mapOp_memWf ?_ _ _ | with_reducible refine State.once_memWf ?_ _ _ | with_reducible refine State.finishMx_memWf ?_ _
    | with_reducible refine State.landPass_memWf ?_ _ | with_reducible refine State.fenceMx_memWf ?_ _
    | with_reducible refine memWf_foldl ?_ (fun _ _ _ => ?_) | (simp only [memWf_mk]; with_reducible refine memWf_parts ?_ ?_) | dsimp only | split
theorem State.endXlds_memWf {s : State} (h : s.memWf = true) (id : Nat) : (State.endXlds s id).memWf = true := by
  unfold State.endXlds
  repeat' first
    | with_reducible assumption | with_reducible refine State.setPair_memWf ?_ _ | with_reducible refine State.finishMx_memWf ?_ _ | dsimp only
    | split
theorem execRowInject_memWf {s : State} (h : s.memWf = true)  : OutWf (execRowInject s) := by
  unfold execRowInject
  repeat' first
    | with_reducible assumption | with_reducible refine optWf_some ?_ | with_reducible exact optWf_none
    | with_reducible refine runEvent_memWf _ fun e => ?_ | with_reducible refine State.inject_memWf ?_ _ _ | split
theorem execPassComplete_memWf {s : State} (h : s.memWf = true)  : OutWf (execPassComplete s) := by
  unfold execPassComplete
  repeat' first
    | with_reducible assumption | with_reducible refine optWf_some ?_ | with_reducible exact optWf_none
    | with_reducible refine runEvent_memWf _ fun e => ?_ | with_reducible refine State.completePass_memWf ?_ _ _ _ | split
theorem execXldsComplete_memWf {s : State} (h : s.memWf = true)  : OutWf (execXldsComplete s) := by
  unfold execXldsComplete
  repeat' first
    | with_reducible assumption | with_reducible refine optWf_some ?_ | with_reducible exact optWf_none
    | with_reducible refine runEvent_memWf _ fun e => ?_ | with_reducible refine State.endXlds_memWf ?_ _ | split
theorem execXswpComplete_memWf {s : State} (h : s.memWf = true)  : OutWf (execXswpComplete s) := by
  unfold execXswpComplete
  repeat' first
    | with_reducible assumption | with_reducible refine optWf_some ?_ | with_reducible exact optWf_none
    | with_reducible refine runEvent_memWf _ fun e => ?_ | with_reducible refine State.finishMx_memWf ?_ _ | split
theorem Mx.land_memWf {t : Team} (h : t.memWf = true) (m : Mx) (geo : List Tile) : (Mx.land m geo t).memWf = true := by
  unfold Mx.land
  repeat' first
    | with_reducible assumption | with_reducible refine landXscac_memWf ?_ _ _ _ _ _ | with_reducible refine landXcfg_memWf ?_ _
    | with_reducible refine landXrel_memWf ?_ _ | with_reducible refine landXdrn_memWf ?_ _ | split
theorem State.endSerial_memWf {s : State} (h : s.memWf = true) (id : Nat) : (State.endSerial s id).memWf = true := by
  unfold State.endSerial
  repeat' first
    | with_reducible assumption | (with_reducible intro t ht) | with_reducible refine State.anyTeam_memWf ?_ _ _ ?_
    | with_reducible refine State.defer_memWf ?_ _ _ | with_reducible refine Team.landing_memWf _ _ ?_
    | with_reducible refine State.finishMx_memWf ?_ _ | with_reducible refine Mx.land_memWf ?_ _ _ | dsimp only | split
theorem execXcfgComplete_memWf {s : State} (h : s.memWf = true)  : OutWf (execXcfgComplete s) := by
  unfold execXcfgComplete
  repeat' first
    | with_reducible assumption | with_reducible refine optWf_some ?_ | with_reducible exact optWf_none
    | with_reducible refine runEvent_memWf _ fun e => ?_ | with_reducible refine State.endSerial_memWf ?_ _ | split
theorem execXrelComplete_memWf {s : State} (h : s.memWf = true)  : OutWf (execXrelComplete s) := by
  unfold execXrelComplete
  repeat' first
    | with_reducible assumption | with_reducible refine optWf_some ?_ | with_reducible exact optWf_none
    | with_reducible refine runEvent_memWf _ fun e => ?_ | with_reducible refine State.endSerial_memWf ?_ _ | split
theorem execXdrnComplete_memWf {s : State} (h : s.memWf = true)  : OutWf (execXdrnComplete s) := by
  unfold execXdrnComplete
  repeat' first
    | with_reducible assumption | with_reducible refine optWf_some ?_ | with_reducible exact optWf_none
    | with_reducible refine runEvent_memWf _ fun e => ?_ | with_reducible refine State.endSerial_memWf ?_ _ | split
theorem execXscacComplete_memWf {s : State} (h : s.memWf = true)  : OutWf (execXscacComplete s) := by
  unfold execXscacComplete
  repeat' first
    | with_reducible assumption | with_reducible refine optWf_some ?_ | with_reducible exact optWf_none
    | with_reducible refine runEvent_memWf _ fun e => ?_ | with_reducible refine State.endSerial_memWf ?_ _ | split
theorem Team.tileState_memWf {t : Team} (h : t.memWf = true) (id : Nat) (st : Nat) : (Team.tileState t id st).memWf = true := by
  unfold Team.tileState
  repeat' first
    | with_reducible assumption | (simp only [teamWf_mk]; with_reducible refine teamWf_parts ?_ ?_ ?_ ?_ ?_) | with_reducible refine teamWf_save ?_
    | with_reducible refine teamWf_scratch ?_ | with_reducible refine teamWf_abuf ?_ | with_reducible refine teamWf_wbuf ?_
    | with_reducible refine teamWf_xbuf ?_
theorem State.queueMx_memWf {s : State} (h : s.memWf = true) (m : Mx) : (State.queueMx s m).memWf = true := by
  unfold State.queueMx
  repeat' first
    | with_reducible assumption | with_reducible refine State.onGroup_memWf ?_ _ | with_reducible refine State.launchOp_memWf ?_ _
    | with_reducible refine State.mxPoke_memWf ?_ _ _ | dsimp only | split
theorem matrixWord_memWf {s : State} (h : s.memWf = true) (i : Instr) (pair : Option Nat) (inj : Bool) (f : State → List TrapReq × State)
    (hf : ∀ s, s.memWf = true → (f s).2.memWf = true) : OutWf (matrixWord i pair inj f s) := by
  unfold matrixWord
  refine runWord_memWf h _ _ fun t ht => ?_
  dsimp only
  split
  · exact exWf_error
  · exact exWf_ok (hf _ ht)
theorem execXcfg_memWf {s : State} (h : s.memWf = true) (p : VReg) (k : TKind) (discard : Bool) : OutWf (execXcfg p k discard s) := by
  unfold execXcfg
  repeat' first
    | with_reducible assumption | (with_reducible intro t ht) | with_reducible refine State.onTeam_memWf ?_ _ ?_
    | with_reducible refine State.queueMx_memWf ?_ _ | with_reducible refine matrixWord_memWf ?_ _ _ _ _ (fun _ _ => ?_)
    | (simp only [teamWf_mk]; with_reducible refine teamWf_parts ?_ ?_ ?_ ?_ ?_) | with_reducible refine teamWf_save ?_
    | with_reducible refine teamWf_scratch ?_ | with_reducible refine teamWf_abuf ?_ | with_reducible refine teamWf_wbuf ?_
    | with_reducible refine teamWf_xbuf ?_
theorem execXlds_memWf {s : State} (h : s.memWf = true) (p : VReg) (r : Fin 4) (f : Fmt) : OutWf (execXlds p r f s) := by
  unfold execXlds
  repeat' first
    | with_reducible assumption | with_reducible refine State.setPair_memWf ?_ _ | with_reducible refine State.queueMx_memWf ?_ _
    | with_reducible refine matrixWord_memWf ?_ _ _ _ _ (fun _ _ => ?_)
theorem execXswp_memWf {s : State} (h : s.memWf = true) (r : Fin 4) : OutWf (execXswp r s) := by
  unfold execXswp
  repeat' first
    | with_reducible assumption | with_reducible refine State.setPair_memWf ?_ _ | with_reducible refine State.queueMx_memWf ?_ _
    | with_reducible refine matrixWord_memWf ?_ _ _ _ _ (fun _ _ => ?_)
theorem passWord_memWf {s : State} (h : s.memWf = true) (i : Instr) (block : Bool) (p : VReg) (r : Nat) (f : Fmt) (acc inj : Bool) :
    OutWf (passWord i block p r f acc inj s) := by
  unfold passWord
  refine matrixWord_memWf h _ _ _ _ fun s hs => ?_
  extract_lets t pr qs
  clear_value t pr qs
  split
  · exact hs
  · exact State.queueMx_memWf (State.onTeam_memWf hs _ fun t ht => teamWf_foldl ht fun t k ht => Team.tileState_memWf ht _ _) _
theorem execXmm_memWf {s : State} (h : s.memWf = true) (p : VReg) (r : Fin 4) (f : Fmt) (a : Bool) (j : Bool) : OutWf (execXmm p r f a j s) := by
  unfold execXmm
  repeat' first
    | with_reducible assumption | with_reducible refine passWord_memWf ?_ _ _ _ _ _ _ _
theorem execXbmm_memWf {s : State} (h : s.memWf = true) (p : VReg) (r : Fin 4) (f : Fmt) (j : Bool) : OutWf (execXbmm p r f j s) := by
  unfold execXbmm
  repeat' first
    | with_reducible assumption | with_reducible refine passWord_memWf ?_ _ _ _ _ _ _ _
theorem execXscac_memWf {s : State} (h : s.memWf = true) (p : VReg) (a : Bool) : OutWf (execXscac p a s) := by
  unfold execXscac
  repeat' first
    | with_reducible assumption | (with_reducible intro t ht) | with_reducible refine State.onTeam_memWf ?_ _ ?_
    | with_reducible refine Team.tileState_memWf ?_ _ _ | with_reducible refine State.queueMx_memWf ?_ _
    | with_reducible refine matrixWord_memWf ?_ _ _ _ _ (fun _ _ => ?_)
theorem execXdrn_memWf {s : State} (h : s.memWf = true) (p : VReg) : OutWf (execXdrn p s) := by
  unfold execXdrn
  repeat' first
    | with_reducible assumption | (with_reducible intro t ht) | with_reducible refine State.onTeam_memWf ?_ _ ?_
    | with_reducible refine Team.tileState_memWf ?_ _ _ | with_reducible refine State.queueMx_memWf ?_ _
    | with_reducible refine matrixWord_memWf ?_ _ _ _ _ (fun _ _ => ?_) | with_reducible refine teamWf_foldl ?_ (fun _ _ _ => ?_)
theorem execXrel_memWf {s : State} (h : s.memWf = true) (p : VReg) (discard : Bool) : OutWf (execXrel p discard s) := by
  unfold execXrel
  repeat' first
    | with_reducible assumption | (with_reducible intro t ht) | with_reducible refine State.onTeam_memWf ?_ _ ?_
    | with_reducible refine State.queueMx_memWf ?_ _ | with_reducible refine matrixWord_memWf ?_ _ _ _ _ (fun _ _ => ?_)
    | (simp only [teamWf_mk]; with_reducible refine teamWf_parts ?_ ?_ ?_ ?_ ?_) | with_reducible refine teamWf_save ?_
    | with_reducible refine teamWf_scratch ?_ | with_reducible refine teamWf_abuf ?_ | with_reducible refine teamWf_wbuf ?_
    | with_reducible refine teamWf_xbuf ?_

/-! ### Machine/Engines.lean -/

theorem State.mapCopy_memWf {s : State} (h : s.memWf = true) (id : Nat) (f : Copy → Copy) : (State.mapCopy s id f).memWf = true := by
  unfold State.mapCopy
  repeat' first
    | with_reducible assumption | with_reducible refine State.mapOp_memWf ?_ _ _
theorem State.stopCopy_memWf {s : State} (h : s.memWf = true) (id : Nat) (k : TrapKind) : (State.stopCopy s id k).memWf = true := by
  unfold State.stopCopy
  repeat' first
    | with_reducible assumption | with_reducible refine memWf_cur ?_ | with_reducible refine State.anyGroup_memWf ?_ _ _ _
    | with_reducible refine State.finishOp_memWf ?_ _ | with_reducible refine State.defer_memWf ?_ _ _
    | with_reducible refine State.waitDone_memWf ?_ _ _ _ | with_reducible refine State.wakeQueues_memWf ?_ _
    | with_reducible refine memWf_foldl ?_ (fun _ _ _ => ?_) | (simp only [memWf_mk]; with_reducible refine memWf_parts ?_ ?_) | dsimp only | split
theorem State.gateBanks_memWf {s : State} (h : s.memWf = true) (team : Nat) (sp : Space) (a n : Nat) : (s.gateBanks team sp a n).2.memWf = true := by
  unfold State.gateBanks
  split
  · exact h
  · refine memWf_foldl2 h fun r j hr => ?_
    dsimp only
    split <;> exact State.wakeScratch_memWf hr _ _ _
theorem State.takeRow_memWf {s : State} (h : s.memWf = true) (core : Nat) (team : Nat) (a : Nat) : (State.takeRow s core team a).memWf = true := by
  unfold State.takeRow
  repeat' first
    | with_reducible assumption | with_reducible refine memWf_cur ?_ | (simp only [memWf_mk]; with_reducible refine memWf_parts ?_ ?_)
theorem State.takeEnginePort_memWf {s : State} (h : s.memWf = true) (o : Op) (sp : Space) (a : Nat) : (State.takeEnginePort s o sp a).memWf = true := by
  unfold State.takeEnginePort
  repeat' first
    | with_reducible assumption | with_reducible refine State.takePort_memWf ?_ _ _ _ _ | with_reducible refine State.takeRow_memWf ?_ _ _ _ | split
theorem State.endCopy_memWf {s : State} (h : s.memWf = true) (id : Nat) : (State.endCopy s id).memWf = true := by
  unfold State.endCopy
  repeat' first
    | with_reducible assumption | with_reducible refine State.finishOp_memWf ?_ _ | with_reducible refine State.wakeQueues_memWf ?_ _ | split
theorem State.nextPiece_memWf {s : State} (h : s.memWf = true) (o : Op) (c : Copy) (n : Nat) : (State.nextPiece s o c n).memWf = true := by
  unfold State.nextPiece
  repeat' first
    | with_reducible assumption | with_reducible refine State.now_memWf ?_ _ | with_reducible refine State.pokeEngine_memWf ?_ _ _ _
    | with_reducible refine State.mapCopy_memWf ?_ _ _ | dsimp only | split
theorem State.creditPiece_memWf {s : State} (h : s.memWf = true) (o : Op) (c : Copy) (mine : Option (Space × Nat)) : (State.creditPiece s o c mine).memWf = true := by
  unfold State.creditPiece
  repeat' first
    | with_reducible assumption | with_reducible refine State.at_memWf ?_ _ _ | with_reducible refine State.barBytes_memWf ?_ _ _ _ _ _
    | with_reducible refine State.mapCopy_memWf ?_ _ _ | with_reducible refine State.gateBanks_memWf ?_ _ _ _ _
    | with_reducible refine State.takeEnginePort_memWf ?_ _ _ _ | with_reducible refine State.nextPiece_memWf ?_ _ _ _ | dsimp only | split
theorem putLocal_memWf {t : Team} (h : t.memWf = true) (sp : Space) (a : Nat) (bs : List Byte) : (putLocal sp a bs t).memWf = true := by
  unfold putLocal
  repeat' first
    | with_reducible assumption | with_reducible refine putBytes_wf _ _ ?_ | with_reducible refine localMem_memWf ?_ _
    | with_reducible refine setLocal_memWf ?_ _ _ ?_ | with_reducible refine Team.clearMarks_memWf ?_ _ _ | split
theorem State.chargePiece_memWf {s : State} (h : s.memWf = true) (o : Op) (event : Nat) (c : Nat) (va : Nat) : (State.chargePiece s o event c va).memWf = true := by
  unfold State.chargePiece
  repeat' first
    | with_reducible assumption | with_reducible refine State.charge_memWf ?_ _ _ _ | dsimp only | split
theorem State.sendPiece_memWf {s : State} (h : s.memWf = true) (o : Op) (va : Nat) (write : Bool) (p : Page) (asid : Nat) (tlb : Bool) (walk : Nat) : (State.sendPiece s o va write p asid tlb walk).memWf = true := by
  unfold State.sendPiece
  repeat' first
    | with_reducible assumption | with_reducible refine State.request_memWf ?_ _ _ | with_reducible refine State.countAccess_memWf ?_ _ _ _ _ _
    | with_reducible refine State.stopCopy_memWf ?_ _ _ | with_reducible refine State.chargePiece_memWf ?_ _ _ _ _ | dsimp only | split
theorem State.globalPiece_memWf {s : State} (h : s.memWf = true) (o : Op) (va : Nat) (write : Bool) : (State.globalPiece s o va write).memWf = true := by
  unfold State.globalPiece
  repeat' first
    | with_reducible assumption | with_reducible refine State.joinWalk_memWf ?_ _ _ _ _ _ _ _ | with_reducible refine State.mapCopy_memWf ?_ _ _
    | with_reducible refine State.stopCopy_memWf ?_ _ _ | with_reducible refine State.sendPiece_memWf ?_ _ _ _ _ _ _ _ | dsimp only | split
theorem State.pieceArrived_memWf {s : State} (h : s.memWf = true) (o : Op) (c : Copy) : (State.pieceArrived s o c).memWf = true := by
  unfold State.pieceArrived
  repeat' first
    | with_reducible assumption | with_reducible refine State.at_memWf ?_ _ _ | with_reducible refine State.mapOp_memWf ?_ _ _
    | with_reducible refine State.pokeEngine_memWf ?_ _ _ _ | with_reducible refine State.mapCopy_memWf ?_ _ _
    | with_reducible refine State.globalPiece_memWf ?_ _ _ _ | split
theorem State.writePiece_memWf {s : State} (h : s.memWf = true) (o : Op) (c : Copy) : (State.writePiece s o c).memWf = true := by
  unfold State.writePiece
  repeat' first
    | with_reducible assumption | (with_reducible intro t ht) | with_reducible refine State.at_memWf ?_ _ _
    | with_reducible refine State.anyTeam_memWf ?_ _ _ ?_ | with_reducible refine State.touchBars_memWf ?_ _ _
    | with_reducible refine State.mapCopy_memWf ?_ _ _ | with_reducible refine State.gateBanks_memWf ?_ _ _ _ _
    | with_reducible refine State.takeEnginePort_memWf ?_ _ _ _ | with_reducible refine State.creditPiece_memWf ?_ _ _ _
    | with_reducible refine putLocal_memWf ?_ _ _ _ | dsimp only | split
theorem State.readPiece_memWf {s : State} (h : s.memWf = true) (o : Op) (c : Copy) : (State.readPiece s o c).memWf = true := by
  unfold State.readPiece
  repeat' first
    | with_reducible assumption | with_reducible refine State.at_memWf ?_ _ _ | with_reducible refine State.settleLocal_memWf ?_ _ _ _ _ _
    | with_reducible refine State.mapCopy_memWf ?_ _ _ | with_reducible refine State.gateBanks_memWf ?_ _ _ _ _
    | with_reducible refine State.takeEnginePort_memWf ?_ _ _ _ | dsimp only | split
theorem State.pieceStep_memWf {s : State} (h : s.memWf = true) (id : Nat) : (State.pieceStep s id).memWf = true := by
  unfold State.pieceStep
  repeat' first
    | with_reducible assumption | with_reducible refine State.creditPiece_memWf ?_ _ _ _ | with_reducible refine State.pieceArrived_memWf ?_ _ _
    | with_reducible refine State.writePiece_memWf ?_ _ _ | with_reducible refine State.readPiece_memWf ?_ _ _ | split
theorem State.pieceDone_memWf {s : State} (h : s.memWf = true) (id : Nat) (phase : Nat) : (State.pieceDone s id phase).memWf = true := by
  unfold State.pieceDone
  repeat' first
    | with_reducible assumption | with_reducible refine State.waitDone_memWf ?_ _ _ _ | with_reducible refine State.mapCopy_memWf ?_ _ _
    | with_reducible refine State.pieceStep_memWf ?_ _ | with_reducible refine memWf_foldl ?_ (fun _ _ _ => ?_) | dsimp only | split
theorem State.startPiece_memWf {s : State} (h : s.memWf = true) (o : Op) (c : Copy) : (State.startPiece s o c).memWf = true := by
  unfold State.startPiece
  repeat' first
    | with_reducible assumption | with_reducible refine State.mapOp_memWf ?_ _ _ | with_reducible refine State.mapCopy_memWf ?_ _ _
    | with_reducible refine State.stopCopy_memWf ?_ _ _ | with_reducible refine State.globalPiece_memWf ?_ _ _ _
    | with_reducible refine State.pieceStep_memWf ?_ _ | dsimp only | split
theorem State.copyPosition_memWf {s : State} (h : s.memWf = true) (core : Nat) (seat : Nat) : (State.copyPosition s core seat).memWf = true := by
  unfold State.copyPosition
  repeat' first
    | with_reducible assumption | with_reducible refine State.mapSeat_memWf ?_ _ _ | with_reducible refine State.pokeEngine_memWf ?_ _ _ _
    | with_reducible refine State.spend_memWf ?_ _ | with_reducible refine State.startPiece_memWf ?_ _ _ | dsimp only | split
theorem State.engineRowNow_memWf {s : State} (h : s.memWf = true) (o : Op) (a n : Nat) : (s.engineRowNow o a n).2.memWf = true := by
  have hg := State.gateBanks_memWf h o.team .scratch a n
  unfold State.engineRowNow
  generalize s.gateBanks o.team .scratch a n = p at hg ⊢
  obtain ⟨due, r⟩ := p
  dsimp only at hg ⊢
  split
  · exact hg
  · split
    · exact hg
    · exact State.takeEnginePort_memWf hg _ _ _
theorem State.beginFill_memWf {s : State} (h : s.memWf = true) (o : Op) (c : Copy) (d : Circ) : (State.beginFill s o c d).memWf = true := by
  unfold State.beginFill
  repeat' first
    | with_reducible assumption | with_reducible refine State.once_memWf ?_ _ _ | with_reducible refine State.pokeEngine_memWf ?_ _ _ _
    | with_reducible refine State.barBytes_memWf ?_ _ _ _ _ _ | with_reducible refine State.mapCopy_memWf ?_ _ _
    | with_reducible refine memWf_ofPair (State.engineRowNow_memWf ?_ _ _ _) (by assumption) | dsimp only | split
theorem State.circReadyNow_memWf {s : State} (h : s.memWf = true) (id : Nat) : (State.circReadyNow s id).memWf = true := by
  unfold State.circReadyNow
  repeat' first
    | with_reducible assumption | with_reducible refine State.mapCopy_memWf ?_ _ _ | with_reducible refine State.beginFill_memWf ?_ _ _ _ | dsimp only
    | split
theorem State.startCopy_memWf {s : State} (h : s.memWf = true) (id : Nat) : (State.startCopy s id).memWf = true := by
  unfold State.startCopy
  repeat' first
    | with_reducible assumption | (with_reducible intro t ht) | with_reducible refine write_wf _ _ _ ?_
    | with_reducible refine State.mapOp_memWf ?_ _ _ | with_reducible refine State.anyTeam_memWf ?_ _ _ ?_
    | with_reducible refine State.once_memWf ?_ _ _ | with_reducible refine State.pokeEngine_memWf ?_ _ _ _
    | with_reducible refine Team.clearMarks_memWf ?_ _ _ | with_reducible refine State.barBytes_memWf ?_ _ _ _ _ _
    | with_reducible refine State.touchBars_memWf ?_ _ _ | with_reducible refine State.mapCopy_memWf ?_ _ _
    | with_reducible refine memWf_ofPair (State.engineRowNow_memWf ?_ _ _ _) (by assumption) | with_reducible refine State.circReadyNow_memWf ?_ _
    | (simp only [teamWf_mk]; with_reducible refine teamWf_parts ?_ ?_ ?_ ?_ ?_) | with_reducible refine teamWf_save ?_
    | with_reducible refine teamWf_scratch ?_ | with_reducible refine teamWf_abuf ?_ | with_reducible refine teamWf_wbuf ?_
    | with_reducible refine teamWf_xbuf ?_ | dsimp only | split
theorem execCopyCommandStart_memWf {s : State} (h : s.memWf = true)  : OutWf (execCopyCommandStart s) := by
  unfold execCopyCommandStart
  repeat' first
    | with_reducible assumption | with_reducible refine optWf_some ?_ | with_reducible exact optWf_none
    | with_reducible refine runEvent_memWf _ fun e => ?_ | with_reducible refine State.startCopy_memWf ?_ _ | split
theorem execCircSlotReady_memWf {s : State} (h : s.memWf = true)  : OutWf (execCircSlotReady s) := by
  unfold execCircSlotReady
  repeat' first
    | with_reducible assumption | with_reducible refine optWf_some ?_ | with_reducible exact optWf_none
    | with_reducible refine runEvent_memWf _ fun e => ?_ | with_reducible refine State.circReadyNow_memWf ?_ _ | split
theorem execCopyPieceStart_memWf {s : State} (h : s.memWf = true)  : OutWf (execCopyPieceStart s) := by
  unfold execCopyPieceStart
  repeat' first
    | with_reducible assumption | with_reducible refine optWf_some ?_ | with_reducible exact optWf_none
    | with_reducible refine runEvent_memWf _ fun e => ?_ | with_reducible refine State.copyPosition_memWf ?_ _ _ | split
theorem execPieceLand_memWf {s : State} (h : s.memWf = true)  : OutWf (execPieceLand s) := by
  unfold execPieceLand
  repeat' first
    | with_reducible assumption | with_reducible refine optWf_some ?_ | with_reducible exact optWf_none
    | with_reducible refine runEvent_memWf _ fun e => ?_ | with_reducible refine State.pieceStep_memWf ?_ _ | split
theorem execHeldPieceRelease_memWf {s : State} (h : s.memWf = true)  : OutWf (execHeldPieceRelease s) := by
  unfold execHeldPieceRelease
  repeat' first
    | with_reducible assumption | with_reducible refine optWf_some ?_ | with_reducible exact optWf_none | with_reducible refine State.at_memWf ?_ _ _
    | with_reducible refine runEvent_memWf _ fun e => ?_ | with_reducible refine State.mapCopy_memWf ?_ _ _ | split
theorem execCopyCommandComplete_memWf {s : State} (h : s.memWf = true)  : OutWf (execCopyCommandComplete s) := by
  unfold execCopyCommandComplete
  repeat' first
    | with_reducible assumption | with_reducible refine optWf_some ?_ | with_reducible exact optWf_none
    | with_reducible refine runEvent_memWf _ fun e => ?_ | with_reducible refine State.endCopy_memWf ?_ _ | split
theorem State.queueCopy_memWf {s : State} (h : s.memWf = true) (c : Copy) (expect : Nat) : (State.queueCopy s c expect).memWf = true := by
  unfold State.queueCopy
  repeat' first
    | with_reducible assumption | with_reducible refine State.onGroup_memWf ?_ _ | with_reducible refine State.at_memWf ?_ _ _
    | with_reducible refine State.launchOp_memWf ?_ _ | with_reducible refine State.barBytes_memWf ?_ _ _ _ _ _ | dsimp only | split
theorem copyCommand_memWf {s : State} (h : s.memWf = true) (f : State → List TrapReq × Copy × Nat) : ExWf (copyCommand f s) := by
  unfold copyCommand
  repeat' first
    | with_reducible assumption | with_reducible refine exWf_ok ?_ | with_reducible exact exWf_error
    | with_reducible refine State.queueCopy_memWf ?_ _ _ | split
theorem copyWord_memWf {s : State} (h : s.memWf = true) (i : Instr) (f : State → List TrapReq × Copy × Nat) : OutWf (copyWord i f s) := by
  unfold copyWord
  repeat' first
    | with_reducible assumption | (with_reducible intro t ht) | with_reducible refine runWord_memWf ?_ _ _ ?_
    | with_reducible refine copyCommand_memWf ?_ _
theorem cpWord_memWf {s : State} (h : s.memWf = true) (i : Instr) (kind : Nat) (d : SReg) (q : Fin 6) : OutWf (cpWord i kind d q s) := by
  unfold cpWord
  repeat' first
    | with_reducible assumption | with_reducible refine copyWord_memWf ?_ _ _
theorem execCpG2s_memWf {s : State} (h : s.memWf = true) (d : SReg) (q : Fin 6) : OutWf (execCpG2s d q s) := by
  unfold execCpG2s
  repeat' first
    | with_reducible assumption | with_reducible refine cpWord_memWf ?_ _ _ _ _
theorem execCpS2g_memWf {s : State} (h : s.memWf = true) (d : SReg) (q : Fin 6) : OutWf (execCpS2g d q s) := by
  unfold execCpS2g
  repeat' first
    | with_reducible assumption | with_reducible refine cpWord_memWf ?_ _ _ _ _
theorem execCpG2a_memWf {s : State} (h : s.memWf = true) (d : SReg) (q : Fin 6) : OutWf (execCpG2a d q s) := by
  unfold execCpG2a
  repeat' first
    | with_reducible assumption | with_reducible refine cpWord_memWf ?_ _ _ _ _
theorem execCpG2w_memWf {s : State} (h : s.memWf = true) (d : SReg) (q : Fin 6) : OutWf (execCpG2w d q s) := by
  unfold execCpG2w
  repeat' first
    | with_reducible assumption | with_reducible refine cpWord_memWf ?_ _ _ _ _
theorem execCpX2g_memWf {s : State} (h : s.memWf = true) (d : SReg) (q : Fin 6) : OutWf (execCpX2g d q s) := by
  unfold execCpX2g
  repeat' first
    | with_reducible assumption | with_reducible refine cpWord_memWf ?_ _ _ _ _
theorem execCpG2g_memWf {s : State} (h : s.memWf = true) (d : SReg) (q : Fin 6) : OutWf (execCpG2g d q s) := by
  unfold execCpG2g
  repeat' first
    | with_reducible assumption | with_reducible refine cpWord_memWf ?_ _ _ _ _
theorem State.circSettled_memWf {s : State} (h : s.memWf = true) (cd : Nat) : (State.circSettled s cd).memWf = true := by
  unfold State.circSettled
  repeat' first
    | with_reducible assumption | with_reducible refine State.settled_memWf ?_ _
theorem execCpCirc_memWf {s : State} (h : s.memWf = true) (d : SReg) (q : Fin 6) : OutWf (execCpCirc d q s) := by
  unfold execCpCirc
  repeat' first
    | with_reducible assumption | (with_reducible intro t ht) | with_reducible refine runWord_memWf ?_ _ _ ?_
    | with_reducible refine copyCommand_memWf ?_ _ | with_reducible refine State.circSettled_memWf ?_ _
theorem execGth_memWf {s : State} (h : s.memWf = true) (d : SReg) (q : Fin 6) : OutWf (execGth d q s) := by
  unfold execGth
  repeat' first
    | with_reducible assumption | with_reducible refine copyWord_memWf ?_ _ _
theorem execQfence_memWf {s : State} (h : s.memWf = true) (m : BitVec 8) : OutWf (execQfence m s) := by
  unfold execQfence
  repeat' first
    | with_reducible assumption | (with_reducible intro t ht) | with_reducible refine State.onGroup_memWf ?_ _
    | with_reducible refine runPure_memWf ?_ _ _ ?_
theorem execCbWait_memWf {s : State} (h : s.memWf = true) (d : SReg) (a : SReg) : OutWf (execCbWait d a s) := by
  unfold execCbWait
  repeat' first
    | with_reducible assumption | (with_reducible intro t ht) | with_reducible refine exWf_ok ?_ | with_reducible exact exWf_error
    | with_reducible refine State.wS_memWf ?_ _ _ | with_reducible refine State.block_memWf ?_ _ | with_reducible refine runWord_memWf ?_ _ _ ?_
    | with_reducible refine State.circSettled_memWf ?_ _ | dsimp only | split
theorem execCbFree_memWf {s : State} (h : s.memWf = true) (a : SReg) : OutWf (execCbFree a s) := by
  unfold execCbFree
  repeat' first
    | with_reducible assumption | (with_reducible intro t ht) | with_reducible exact exWf_error | with_reducible refine runWord_memWf ?_ _ _ ?_
    | with_reducible refine State.barWord_memWf ?_ _ _ _ _ | with_reducible refine State.circSettled_memWf ?_ _ | dsimp only | split

/-! ### Machine/Ring.lean -/

theorem State.setSlot_memWf {s : State} (h : s.memWf = true) (i : Nat) (v : RingSlot) : (State.setSlot s i v).memWf = true := by
  unfold State.setSlot
  repeat' first
    | with_reducible assumption | with_reducible refine memWf_cur ?_ | (simp only [memWf_mk]; with_reducible refine memWf_parts ?_ ?_)
theorem State.applyRing_memWf {s : State} (h : s.memWf = true) (o : Op) (i : Nat) (k : RingKind) : (State.applyRing s o i k).memWf = true := by
  unfold State.applyRing
  repeat' first
    | with_reducible assumption | with_reducible refine State.at_memWf ?_ _ _ | with_reducible refine State.mapOp_memWf ?_ _ _
    | with_reducible refine State.pokeRing_memWf ?_ _ _ _ | with_reducible refine State.setSlot_memWf ?_ _ _ | dsimp only | split
theorem State.sendHome_memWf {s : State} (h : s.memWf = true) (i : Nat) (o : Op) (va : Nat) (p : Page) : (State.sendHome s i o va p).memWf = true := by
  unfold State.sendHome
  repeat' first
    | with_reducible assumption | with_reducible refine State.charge_memWf ?_ _ _ _ | with_reducible refine State.request_memWf ?_ _ _
    | with_reducible refine State.setSlot_memWf ?_ _ _ | dsimp only | split
theorem State.refuseHome_memWf {s : State} (h : s.memWf = true) (i : Nat) (k : TrapKind) : (State.refuseHome s i k).memWf = true := by
  unfold State.refuseHome
  repeat' first
    | with_reducible assumption | with_reducible refine State.mapOp_memWf ?_ _ _ | with_reducible refine State.defer_memWf ?_ _ _
    | with_reducible refine State.waitDone_memWf ?_ _ _ _ | with_reducible refine memWf_foldl ?_ (fun _ _ _ => ?_) | dsimp only | split
theorem State.homeWrite_memWf {s : State} (h : s.memWf = true) (i : Nat) : (State.homeWrite s i).memWf = true := by
  unfold State.homeWrite
  repeat' first
    | with_reducible assumption | with_reducible refine State.joinWalk_memWf ?_ _ _ _ _ _ _ _
    | with_reducible refine State.countAccess_memWf ?_ _ _ _ _ _ | with_reducible refine State.sendHome_memWf ?_ _ _ _ _
    | with_reducible refine State.refuseHome_memWf ?_ _ _ | dsimp only | split
theorem State.seamStep_memWf {s : State} (h : s.memWf = true) (i : Nat) : (State.seamStep s i).memWf = true := by
  unfold State.seamStep
  repeat' first
    | with_reducible assumption | with_reducible refine State.mapOp_memWf ?_ _ _ | with_reducible refine State.setSlot_memWf ?_ _ _
    | with_reducible refine State.homeWrite_memWf ?_ _ | dsimp only | split
theorem State.alightDone_memWf {s : State} (h : s.memWf = true) (i : Nat) : (State.alightDone s i).memWf = true := by
  unfold State.alightDone
  repeat' first
    | with_reducible assumption | with_reducible refine State.now_memWf ?_ _ | with_reducible refine State.mapOp_memWf ?_ _ _
    | with_reducible refine State.anyGroup_memWf ?_ _ _ _ | with_reducible refine State.finishOp_memWf ?_ _
    | with_reducible refine State.waitDone_memWf ?_ _ _ _ | with_reducible refine State.wakeReleases_memWf ?_ _ _
    | with_reducible refine State.releaseHeld_memWf ?_ _ _ | with_reducible refine State.setSlot_memWf ?_ _ _
    | with_reducible refine memWf_foldl ?_ (fun _ _ _ => ?_) | dsimp only | split
theorem State.ringResult_memWf {s : State} (h : s.memWf = true) (id : Nat) : (State.ringResult s id).memWf = true := by
  unfold State.ringResult
  repeat' first
    | with_reducible assumption | with_reducible refine State.mapOp_memWf ?_ _ _ | with_reducible refine State.anyGroup_memWf ?_ _ _ _
    | with_reducible refine State.finishOp_memWf ?_ _ | dsimp only | split
theorem State.landArm_memWf {s : State} (h : s.memWf = true) (a : Arm) : (State.landArm s a).memWf = true := by
  unfold State.landArm
  repeat' first
    | with_reducible assumption | with_reducible refine memWf_cur ?_ | (with_reducible intro t ht)
    | with_reducible refine State.anyGroup_memWf ?_ _ _ _ | with_reducible refine State.anyTeam_memWf ?_ _ _ ?_
    | with_reducible refine Team.clearMarks_memWf ?_ _ _ | with_reducible refine writeBar_memWf ?_ _ _
    | with_reducible refine State.barWake_memWf ?_ _ | (simp only [memWf_mk]; with_reducible refine memWf_parts ?_ ?_)
    | (simp only [teamWf_mk]; with_reducible refine teamWf_parts ?_ ?_ ?_ ?_ ?_) | with_reducible refine teamWf_save ?_
    | with_reducible refine teamWf_scratch ?_ | with_reducible refine teamWf_abuf ?_ | with_reducible refine teamWf_wbuf ?_
    | with_reducible refine teamWf_xbuf ?_ | dsimp only | split
theorem State.dueArm_memWf {s : State} (h : s.memWf = true) (a : Arm) (c : Nat) : (State.dueArm s a c).memWf = true := by
  unfold State.dueArm
  repeat' first
    | with_reducible assumption | with_reducible refine memWf_cur ?_ | with_reducible refine State.at_memWf ?_ _ _
    | (simp only [memWf_mk]; with_reducible refine memWf_parts ?_ ?_)
theorem State.deliverArm_memWf {s : State} (h : s.memWf = true) (a : Arm) : (State.deliverArm s a).memWf = true := by
  unfold State.deliverArm
  repeat' first
    | with_reducible assumption | with_reducible refine State.gateBanks_memWf ?_ _ _ _ _ | with_reducible refine State.takeRow_memWf ?_ _ _ _
    | with_reducible refine State.landArm_memWf ?_ _ | with_reducible refine State.dueArm_memWf ?_ _ _ | dsimp only | split
theorem State.evalArms_memWf {s : State} (h : s.memWf = true) (i : Nat) (core : Nat) : (State.evalArms s i core).memWf = true := by
  unfold State.evalArms
  repeat' first
    | with_reducible assumption | with_reducible refine State.deliverArm_memWf ?_ _ | with_reducible refine memWf_foldl ?_ (fun _ _ _ => ?_)
    | dsimp only | split
theorem State.landDue_memWf {s : State} (h : s.memWf = true) (team : Nat) : (State.landDue s team).memWf = true := by
  unfold State.landDue
  repeat' first
    | with_reducible assumption | with_reducible refine State.deliverArm_memWf ?_ _ | with_reducible refine memWf_foldl ?_ (fun _ _ _ => ?_)
theorem State.nowDue_memWf {s : State} (h : s.memWf = true) (l : List Arm) : (State.nowDue s l).memWf = true := by
  unfold State.nowDue
  repeat' first
    | with_reducible assumption | with_reducible refine State.now_memWf ?_ _ | with_reducible refine memWf_foldl ?_ (fun _ _ _ => ?_)
theorem execBankWakeEnd_memWf {s : State} (h : s.memWf = true)  : OutWf (execBankWakeEnd s) := by
  unfold execBankWakeEnd
  repeat' first
    | with_reducible assumption | with_reducible refine optWf_some ?_ | with_reducible exact optWf_none
    | with_reducible refine runEvent_memWf _ fun e => ?_ | with_reducible refine State.endWake_memWf ?_ _ _ _
    | with_reducible refine State.landDue_memWf ?_ _ | split
theorem execWaitResume_memWf {s : State} (h : s.memWf = true)  : OutWf (execWaitResume s) := by
  unfold execWaitResume
  repeat' first
    | with_reducible assumption | with_reducible refine optWf_some ?_ | with_reducible exact optWf_none
    | with_reducible refine runEvent_memWf _ fun e => ?_ | with_reducible refine State.resumeWaits_memWf ?_ _ | split
theorem State.fenceSlot_memWf {s : State} (h : s.memWf = true) (i : Nat) : (State.fenceSlot s i).memWf = true := by
  unfold State.fenceSlot
  repeat' first
    | with_reducible assumption | with_reducible refine State.logEvent_memWf ?_ _ _ _ _ _ _ _ _ | with_reducible refine State.mapOp_memWf ?_ _ _
    | with_reducible refine State.finishOp_memWf ?_ _ | with_reducible refine State.defer_memWf ?_ _ _
    | with_reducible refine State.setSlot_memWf ?_ _ _ | with_reducible refine memWf_foldl ?_ (fun _ _ _ => ?_) | dsimp only | split
theorem State.passage_memWf {s : State} (h : s.memWf = true) (i core parity : Nat) : (s.passage i core parity).memWf = true := by
  unfold State.passage
  split
  · exact h
  · split
    · exact h
    · extract_lets s1 s2 s3 s4
      have h1 : s1.memWf = true := by
        unfold s1
        split
        · exact h
        · rw [memWf_mk]; exact memWf_parts h (memWf_cur h)
      have h2 : s2.memWf = true := memWf_ite (State.seamStep_memWf h1 _) h1
      have h3 : s3.memWf = true := by
        unfold s3
        split
        · exact h2
        · split
          · exact h2
          · exact memWf_ite h2 (State.wakeReleases_memWf (State.applyRing_memWf h2 _ _ _) _ _)
      have h4 : s4.memWf = true := by
        refine memWf_ite (State.fenceSlot_memWf h1 _) (memWf_ite ?_ (memWf_ite h2 (State.evalArms_memWf h3 _ _)))
        split
        · exact State.logEvent_memWf h2 _ _ _ _ _ _ _ _
        · exact h2
      clear_value s4
      exact memWf_ite (State.pokeRing_memWf h4 _ _ _) h4
theorem execRingPassage_memWf {s : State} (h : s.memWf = true)  : OutWf (execRingPassage s) := by
  unfold execRingPassage
  repeat' first
    | with_reducible assumption | with_reducible refine optWf_some ?_ | with_reducible exact optWf_none
    | with_reducible refine runEvent_memWf _ fun e => ?_ | with_reducible refine State.passage_memWf ?_ _ _ _ | split
theorem execRingResultWrite_memWf {s : State} (h : s.memWf = true)  : OutWf (execRingResultWrite s) := by
  unfold execRingResultWrite
  repeat' first
    | with_reducible assumption | with_reducible refine optWf_some ?_ | with_reducible exact optWf_none
    | with_reducible refine runEvent_memWf _ fun e => ?_ | with_reducible refine State.ringResult_memWf ?_ _ | split
theorem execAlightWritePerformed_memWf {s : State} (h : s.memWf = true)  : OutWf (execAlightWritePerformed s) := by
  unfold execAlightWritePerformed
  repeat' first
    | with_reducible assumption | with_reducible refine optWf_some ?_ | with_reducible exact optWf_none
    | with_reducible refine runEvent_memWf _ fun e => ?_ | with_reducible refine State.alightDone_memWf ?_ _ | split
theorem State.queueRing_memWf {s : State} (h : s.memWf = true) (o : Op) (i : Nat) (board : Bool) (keys : List Nat) : (State.queueRing s o i board keys).memWf = true := by
  unfold State.queueRing
  repeat' first
    | with_reducible assumption | with_reducible refine State.onGroup_memWf ?_ _ | with_reducible refine State.launchOp_memWf ?_ _
    | with_reducible refine State.pokeRing_memWf ?_ _ _ _ | with_reducible refine State.checkOp_memWf ?_ _
    | with_reducible refine State.translate_memWf ?_ _ _ | with_reducible refine State.pend_memWf ?_ _ _ | dsimp only | split
theorem ringWord_memWf {s : State} (h : s.memWf = true) (i : Instr) (a : SReg) (more : State → List TrapReq) (f : State → Nat → State)
    (hf : ∀ s n, s.memWf = true → (f s n).memWf = true) : OutWf (ringWord i a more f s) := by
  unfold ringWord
  refine runWord_memWf h _ _ fun t ht => ?_
  dsimp only
  split
  · exact exWf_error
  · exact exWf_ok (hf _ _ ht)
theorem execSgBoard_memWf {s : State} (h : s.memWf = true) (d : SReg) (a : SReg) : OutWf (execSgBoard d a s) := by
  unfold execSgBoard
  repeat' first
    | with_reducible assumption | with_reducible refine State.queueRing_memWf ?_ _ _ _ _
    | with_reducible refine ringWord_memWf ?_ _ _ _ _ (fun _ _ _ => ?_)
theorem execSgAlight_memWf {s : State} (h : s.memWf = true) (d : SReg) (a : SReg) : OutWf (execSgAlight d a s) := by
  unfold execSgAlight
  repeat' first
    | with_reducible assumption | with_reducible refine State.queueRing_memWf ?_ _ _ _ _
    | with_reducible refine ringWord_memWf ?_ _ _ _ _ (fun _ _ _ => ?_)
theorem execSgCap_memWf {s : State} (h : s.memWf = true) (d : SReg) (a : SReg) (acq : Bool) : OutWf (execSgCap d a acq s) := by
  unfold execSgCap
  repeat' first
    | with_reducible assumption | with_reducible refine State.queueRing_memWf ?_ _ _ _ _
    | with_reducible refine ringWord_memWf ?_ _ _ _ _ (fun _ _ _ => ?_)
theorem execSgMod_memWf {s : State} (h : s.memWf = true) (d : SReg) (a : SReg) (p : ModOp) (w : Fin 8) (r : Ord) : OutWf (execSgMod d a p w r s) := by
  unfold execSgMod
  repeat' first
    | with_reducible assumption | with_reducible refine State.queueRing_memWf ?_ _ _ _ _
    | with_reducible refine ringWord_memWf ?_ _ _ _ _ (fun _ _ _ => ?_)
theorem execSgRev_memWf {s : State} (h : s.memWf = true) (d : SReg) (a : SReg) : OutWf (execSgRev d a s) := by
  unfold execSgRev
  repeat' first
    | with_reducible assumption | with_reducible refine State.queueRing_memWf ?_ _ _ _ _
    | with_reducible refine ringWord_memWf ?_ _ _ _ _ (fun _ _ _ => ?_)
theorem execSgRevOfs_memWf {s : State} (h : s.memWf = true) (d : SReg) : OutWf (execSgRevOfs d s) := by
  unfold execSgRevOfs
  repeat' first
    | with_reducible assumption | (with_reducible intro t ht) | with_reducible refine State.wS_memWf ?_ _ _
    | with_reducible refine runPure_memWf ?_ _ _ ?_
theorem State.addArm_memWf {s : State} (h : s.memWf = true) (o : Op) (i : Nat) (p : ArmCmp) (w : Nat) (x : W32) (off : Nat) : (State.addArm s o i p w x off).memWf = true := by
  unfold State.addArm
  repeat' first
    | with_reducible assumption | with_reducible refine memWf_cur ?_ | (with_reducible intro t ht)
    | with_reducible refine State.anyTeam_memWf ?_ _ _ ?_ | with_reducible refine State.pokeRing_memWf ?_ _ _ _
    | with_reducible refine Team.clearMarks_memWf ?_ _ _ | with_reducible refine writeBar_memWf ?_ _ _
    | with_reducible refine State.settleLocal_memWf ?_ _ _ _ _ _ | (simp only [memWf_mk]; with_reducible refine memWf_parts ?_ ?_)
    | (simp only [teamWf_mk]; with_reducible refine teamWf_parts ?_ ?_ ?_ ?_ ?_) | with_reducible refine teamWf_save ?_
    | with_reducible refine teamWf_scratch ?_ | with_reducible refine teamWf_abuf ?_ | with_reducible refine teamWf_wbuf ?_
    | with_reducible refine teamWf_xbuf ?_
theorem execSgArm_memWf {s : State} (h : s.memWf = true) (d : SReg) (a : SReg) (p : ArmCmp) (w : Fin 8) : OutWf (execSgArm d a p w s) := by
  unfold execSgArm
  repeat' first
    | with_reducible assumption | with_reducible refine memWf_cur ?_ | with_reducible refine State.queueRing_memWf ?_ _ _ _ _
    | with_reducible refine ringWord_memWf ?_ _ _ _ _ (fun _ _ _ => ?_) | with_reducible refine State.addArm_memWf ?_ _ _ _ _ _ _
    | (simp only [memWf_mk]; with_reducible refine memWf_parts ?_ ?_) | dsimp only | split

/-! ### Machine/Teams.lean -/

theorem State.takeAll_memWf {s : State} (h : s.memWf = true) (t : Team) (l : List Group) : OptWf (s.takeAll t l) := by
  induction l generalizing s with
  | nil => exact optWf_some h
  | cons g gs ih =>
    unfold State.takeAll
    split
    · exact ih h
    · split
      · exact optWf_none
      · dsimp only
        split
        · split
          · exact optWf_none
          · exact ih (State.mapGroup_memWf (State.mapGroup_memWf h _ _ _) _ _ _)
        · exact ih (State.mapGroup_memWf h _ _ _)
theorem State.pokeCarve_memWf {s : State} (h : s.memWf = true) (seat : Nat) (core : Nat) (c : Nat) : (State.pokeCarve s seat core c).memWf = true := by
  unfold State.pokeCarve
  repeat' first
    | with_reducible assumption | with_reducible refine State.once_memWf ?_ _ _
theorem State.pokeVictim_memWf {s : State} (h : s.memWf = true) (seat : Nat) (core : Nat) : (State.pokeVictim s seat core).memWf = true := by
  unfold State.pokeVictim
  repeat' first
    | with_reducible assumption | with_reducible refine State.once_memWf ?_ _ _ | with_reducible refine memWf_foldl ?_ (fun _ _ _ => ?_)
theorem State.tryCarve_memWf {s : State} (h : s.memWf = true) (t : Team) : OptWf (State.tryCarve s t) := by
  unfold State.tryCarve
  repeat' first
    | with_reducible assumption | (with_reducible intro t ht) | with_reducible exact optWf_none | with_reducible refine State.at_memWf ?_ _ _
    | with_reducible refine State.mapTeam_memWf ?_ _ _ ?_ | with_reducible refine State.takeAll_memWf ?_ _ _
    | (simp only [teamWf_mk]; with_reducible refine teamWf_parts ?_ ?_ ?_ ?_ ?_) | with_reducible refine teamWf_save ?_
    | with_reducible refine teamWf_scratch ?_ | with_reducible refine teamWf_abuf ?_ | with_reducible refine teamWf_wbuf ?_
    | with_reducible refine teamWf_xbuf ?_ | with_reducible refine optWf_map ?_ ?_ | dsimp only | split
theorem State.tryCarveAll_memWf {s : State} (h : s.memWf = true) (l : List Team) : OptWf (s.tryCarveAll l) := by
  induction l generalizing s with
  | nil => exact optWf_some h
  | cons t ts ih =>
    unfold State.tryCarveAll
    intro r e
    obtain ⟨u, hu, e⟩ := Option.bind_eq_some_iff.1 e
    exact ih (optWf_elim (State.tryCarve_memWf h _) hu) _ e
theorem State.pokeUnfit_memWf {s : State} (h : s.memWf = true) (us : List Team) : (State.pokeUnfit s us).memWf = true := by
  unfold State.pokeUnfit
  repeat' first
    | with_reducible assumption | with_reducible refine State.pokeVictim_memWf ?_ _ _ | with_reducible refine memWf_foldl ?_ (fun _ _ _ => ?_)
theorem State.carve_memWf {s : State} (h : s.memWf = true) (core : Nat) (seat : Nat) : (State.carve s core seat).memWf = true := by
  unfold State.carve
  repeat' first
    | with_reducible assumption | with_reducible refine State.pokeCarve_memWf ?_ _ _ _
    | with_reducible refine optWf_elim (State.tryCarveAll_memWf ?_ _) (by assumption) | with_reducible refine State.pokeUnfit_memWf ?_ _
    | with_reducible refine memWf_foldl ?_ (fun _ _ _ => ?_) | dsimp only | split
theorem State.unblockJoins_memWf {t : Team} (h : t.memWf = true) (s : State) : (State.unblockJoins s t).memWf = true := by
  unfold State.unblockJoins
  repeat' first
    | with_reducible assumption | (simp only [teamWf_mk]; with_reducible refine teamWf_parts ?_ ?_ ?_ ?_ ?_) | with_reducible refine teamWf_save ?_
    | with_reducible refine teamWf_scratch ?_ | with_reducible refine teamWf_abuf ?_ | with_reducible refine teamWf_wbuf ?_
    | with_reducible refine teamWf_xbuf ?_
theorem Team.unstand_memWf {t : Team} (h : t.memWf = true)  : (Team.unstand t).memWf = true := by
  unfold Team.unstand
  repeat' first
    | with_reducible assumption | (simp only [teamWf_mk]; with_reducible refine teamWf_parts ?_ ?_ ?_ ?_ ?_) | with_reducible refine teamWf_save ?_
    | with_reducible refine teamWf_scratch ?_ | with_reducible refine teamWf_abuf ?_ | with_reducible refine teamWf_wbuf ?_
    | with_reducible refine teamWf_xbuf ?_
theorem tileTrap_memWf {t : Team} (h : t.memWf = true) (k : Nat) : (tileTrap k t).memWf = true := by
  unfold tileTrap
  repeat' first
    | with_reducible assumption | with_reducible refine Team.mapGroup_memWf ?_ _ _ | split
theorem Team.restored_memWf {t : Team} (h : t.memWf = true) : t.restored.memWf = true := by
  unfold Team.restored
  split
  · rename_i r e
    have hr : r.memWf = true := by have hs := teamWf_save h; rw [e] at hs; exact hs
    simp only [SaveRecord.memWf, Bool.and_eq_true] at hr
    rw [teamWf_mk]
    exact teamWf_parts hr.1.1.1 hr.1.1.2 hr.1.2 hr.2 saveWf_none
  · exact h
theorem State.checkTiles_memWf {s : State} (h : s.memWf = true) (team : Nat) : (State.checkTiles s team).memWf = true := by
  unfold State.checkTiles
  repeat' first
    | with_reducible assumption | (with_reducible intro t ht) | with_reducible refine State.mapTeam_memWf ?_ _ _ ?_
    | with_reducible refine tileTrap_memWf ?_ _ | with_reducible refine teamWf_foldl ?_ (fun _ _ _ => ?_)
theorem State.release_memWf {s : State} (h : s.memWf = true) (t : Team) : (State.release s t).memWf = true := by
  unfold State.release
  repeat' first
    | with_reducible assumption | with_reducible refine memWf_cur ?_ | (with_reducible intro t ht) | with_reducible refine State.now_memWf ?_ _
    | with_reducible refine State.mapTeam_memWf ?_ _ _ ?_ | with_reducible refine State.mapSeat_memWf ?_ _ _
    | with_reducible refine State.pokeRing_memWf ?_ _ _ _ | with_reducible refine State.nowDue_memWf ?_ _
    | with_reducible refine State.pokeVictim_memWf ?_ _ _ | with_reducible refine State.unblockJoins_memWf ?_ _
    | with_reducible refine Team.unstand_memWf ?_ | with_reducible refine Team.restored_memWf ?_ | with_reducible refine State.checkTiles_memWf ?_ _
    | with_reducible refine memWf_foldl ?_ (fun _ _ _ => ?_) | (simp only [memWf_mk]; with_reducible refine memWf_parts ?_ ?_)
    | (simp only [teamWf_mk]; with_reducible refine teamWf_parts ?_ ?_ ?_ ?_ ?_) | with_reducible refine teamWf_save ?_
    | with_reducible refine teamWf_scratch ?_ | with_reducible refine teamWf_abuf ?_ | with_reducible refine teamWf_wbuf ?_
    | with_reducible refine teamWf_xbuf ?_ | dsimp only | split
theorem State.endCarving_memWf {s : State} (h : s.memWf = true) (id : Nat) : (State.endCarving s id).memWf = true := by
  unfold State.endCarving
  repeat' first
    | with_reducible assumption | with_reducible refine State.release_memWf ?_ _ | with_reducible refine memWf_foldl ?_ (fun _ _ _ => ?_) | dsimp only
    | split
theorem State.drain_memWf {s : State} (h : s.memWf = true) (team : Nat) (park : Bool) : (State.drain s team park).memWf = true := by
  unfold State.drain
  repeat' first
    | with_reducible assumption | (with_reducible intro t ht) | with_reducible refine State.now_memWf ?_ _
    | with_reducible refine State.anyTeam_memWf ?_ _ _ ?_ | with_reducible refine memWf_foldl ?_ (fun _ _ _ => ?_)
    | (simp only [teamWf_mk]; with_reducible refine teamWf_parts ?_ ?_ ?_ ?_ ?_) | with_reducible refine teamWf_save ?_
    | with_reducible refine teamWf_scratch ?_ | with_reducible refine teamWf_abuf ?_ | with_reducible refine teamWf_wbuf ?_
    | with_reducible refine teamWf_xbuf ?_ | split
theorem State.chooseVictim_memWf {s : State} (h : s.memWf = true) (core : Nat) (seat : Nat) : (State.chooseVictim s core seat).memWf = true := by
  unfold State.chooseVictim
  repeat' first
    | with_reducible assumption | with_reducible refine State.once_memWf ?_ _ _ | with_reducible refine State.pokeCarve_memWf ?_ _ _ _
    | with_reducible refine State.pokeVictim_memWf ?_ _ _ | with_reducible refine State.drain_memWf ?_ _ _ | dsimp only | split
theorem Team.saveRecord_memWf {t : Team} (h : t.memWf = true) : t.saveRecord.memWf = true := by
  unfold Team.saveRecord SaveRecord.memWf
  simp only [teamWf_scratch h, teamWf_abuf h, teamWf_wbuf h, teamWf_xbuf h, Bool.and_self]
theorem State.saveImage_memWf {s : State} (h : s.memWf = true) (t : Team) : (s.saveImage t).memWf = true := by
  unfold State.saveImage
  refine State.mapTeam_memWf (by rw [memWf_mk]; exact memWf_parts h (memWf_cur h)) _ _ fun t ht => ?_
  extract_lets u
  have hu : u.memWf = true := by
    unfold u; rw [teamWf_mk]; exact teamWf_parts (teamWf_scratch ht) (teamWf_abuf ht) (teamWf_wbuf ht) (teamWf_xbuf ht) (teamWf_save ht)
  clear_value u
  rw [teamWf_mk]
  exact teamWf_parts (teamWf_scratch hu) (teamWf_abuf hu) (teamWf_wbuf hu) (teamWf_xbuf hu) (saveWf_some (Team.saveRecord_memWf hu))
theorem State.beginSave_memWf {s : State} (h : s.memWf = true) (t : Team) : (State.beginSave s t).memWf = true := by
  unfold State.beginSave
  repeat' first
    | with_reducible assumption | with_reducible refine memWf_cur ?_ | (with_reducible intro t ht) | with_reducible refine State.at_memWf ?_ _ _
    | with_reducible refine State.mapTeam_memWf ?_ _ _ ?_ | with_reducible refine State.saveImage_memWf ?_ _
    | (simp only [memWf_mk]; with_reducible refine memWf_parts ?_ ?_) | (simp only [teamWf_mk]; with_reducible refine teamWf_parts ?_ ?_ ?_ ?_ ?_)
    | with_reducible refine teamWf_save ?_ | with_reducible refine teamWf_scratch ?_ | with_reducible refine teamWf_abuf ?_
    | with_reducible refine teamWf_wbuf ?_ | with_reducible refine teamWf_xbuf ?_
theorem State.trySave_memWf {s : State} (h : s.memWf = true) (t : Team) : (State.trySave s t).memWf = true := by
  unfold State.trySave
  repeat' first
    | with_reducible assumption | with_reducible refine State.once_memWf ?_ _ _ | with_reducible refine State.beginSave_memWf ?_ _
    | with_reducible refine memWf_foldl ?_ (fun _ _ _ => ?_) | dsimp only | split
theorem State.enqueue_memWf {s : State} (h : s.memWf = true) (id : Nat) : (State.enqueue s id).memWf = true := by
  unfold State.enqueue
  repeat' first
    | with_reducible assumption | (with_reducible intro t ht) | with_reducible refine State.fresh_memWf ?_
    | with_reducible refine State.mapTeam_memWf ?_ _ _ ?_ | with_reducible refine State.pokeCarve_memWf ?_ _ _ _
    | (simp only [teamWf_mk]; with_reducible refine teamWf_parts ?_ ?_ ?_ ?_ ?_) | with_reducible refine teamWf_save ?_
    | with_reducible refine teamWf_scratch ?_ | with_reducible refine teamWf_abuf ?_ | with_reducible refine teamWf_wbuf ?_
    | with_reducible refine teamWf_xbuf ?_ | dsimp only | split
theorem State.pokeShare_memWf {s : State} (h : s.memWf = true) (seat : Nat) (core : Nat) : (State.pokeShare s seat core).memWf = true := by
  unfold State.pokeShare
  repeat' first
    | with_reducible assumption | with_reducible refine State.once_memWf ?_ _ _ | with_reducible refine State.pokeCarve_memWf ?_ _ _ _
theorem Team.dropBanks_memWf {t : Team} (h : t.memWf = true)  : (Team.dropBanks t).memWf = true := by
  unfold Team.dropBanks
  repeat' first
    | with_reducible assumption | (simp only [teamWf_mk]; with_reducible refine teamWf_parts ?_ ?_ ?_ ?_ ?_) | with_reducible refine teamWf_save ?_
    | with_reducible refine teamWf_scratch ?_ | with_reducible refine teamWf_abuf ?_ | with_reducible refine teamWf_wbuf ?_
    | with_reducible refine teamWf_xbuf ?_
theorem State.endSave_memWf {s : State} (h : s.memWf = true) (id : Nat) : (State.endSave s id).memWf = true := by
  unfold State.endSave
  repeat' first
    | with_reducible assumption | (with_reducible intro t ht) | with_reducible refine State.now_memWf ?_ _
    | with_reducible refine State.mapTeam_memWf ?_ _ _ ?_ | with_reducible refine State.enqueue_memWf ?_ _
    | with_reducible refine State.pokeShare_memWf ?_ _ _ | with_reducible refine Team.dropBanks_memWf ?_
    | (simp only [teamWf_mk]; with_reducible refine teamWf_parts ?_ ?_ ?_ ?_ ?_) | with_reducible refine teamWf_save ?_
    | with_reducible refine teamWf_scratch ?_ | with_reducible refine teamWf_abuf ?_ | with_reducible refine teamWf_wbuf ?_
    | with_reducible refine teamWf_xbuf ?_ | dsimp only | split
theorem State.pokeWaiting_memWf {s : State} (h : s.memWf = true)  : (State.pokeWaiting s).memWf = true := by
  unfold State.pokeWaiting
  repeat' first
    | with_reducible assumption | with_reducible refine State.now_memWf ?_ _ | with_reducible refine memWf_foldl ?_ (fun _ _ _ => ?_)
theorem State.wakeParked_memWf {s : State} (h : s.memWf = true) (id : Nat) : (State.wakeParked s id).memWf = true := by
  unfold State.wakeParked
  repeat' first
    | with_reducible assumption | with_reducible refine State.now_memWf ?_ _ | with_reducible refine State.drain_memWf ?_ _ _
    | with_reducible refine State.enqueue_memWf ?_ _ | with_reducible refine memWf_foldl ?_ (fun _ _ _ => ?_) | dsimp only | split
theorem Team.restart_memWf {t : Team} (h : t.memWf = true)  : (Team.restart t).memWf = true := by
  unfold Team.restart
  repeat' first
    | (simp only [teamWf_mk]; with_reducible refine teamWf_parts ?_ ?_ ?_ ?_ ?_) | with_reducible exact saveWf_none | with_reducible exact wf_nil
theorem State.withdrawArms_memWf {s : State} (h : s.memWf = true) (id : Nat) : (State.withdrawArms s id).memWf = true := by
  unfold State.withdrawArms
  repeat' first
    | with_reducible assumption | with_reducible refine memWf_cur ?_ | (simp only [memWf_mk]; with_reducible refine memWf_parts ?_ ?_)
theorem State.endTeam_memWf {s : State} (h : s.memWf = true) (t : Team) : (State.endTeam s t).memWf = true := by
  unfold State.endTeam
  repeat' first
    | with_reducible assumption | with_reducible refine memWf_cur ?_ | with_reducible refine memWf_teams ?_ | with_reducible refine memWf_filter ?_
    | with_reducible refine State.now_memWf ?_ _ | with_reducible refine State.pokeCommit_memWf ?_ _
    | with_reducible refine State.pokeShare_memWf ?_ _ _ | with_reducible refine State.withdrawArms_memWf ?_ _
    | with_reducible refine memWf_foldl ?_ (fun _ _ _ => ?_)
    | (simp only [memWf_mk]; first | with_reducible refine memWf_parts ?_ ?_ | with_reducible refine memWf_partsTeams ?_ ?_ ?_) | dsimp only | split
theorem State.dropEntry_memWf {s : State} (h : s.memWf = true) (o : Op) : (State.dropEntry s o).memWf = true := by
  unfold State.dropEntry
  repeat' first
    | with_reducible assumption | with_reducible refine memWf_cur ?_ | with_reducible refine State.mapSeat_memWf ?_ _ _
    | with_reducible refine State.mapOp_memWf ?_ _ _ | (simp only [memWf_mk]; with_reducible refine memWf_parts ?_ ?_) | dsimp only | split
theorem State.dropLog_memWf {s : State} (h : s.memWf = true) (id : Nat) (halted : Bool) : (State.dropLog s id halted).memWf = true := by
  unfold State.dropLog
  repeat' first
    | with_reducible assumption | with_reducible refine State.releaseHeld_memWf ?_ _ _ | with_reducible refine State.pokeWaiting_memWf ?_
    | with_reducible refine State.dropEntry_memWf ?_ _ | with_reducible refine memWf_foldl ?_ (fun _ _ _ => ?_) | dsimp only | split
theorem State.tryEnd_memWf {s : State} (h : s.memWf = true) (id : Nat) : (State.tryEnd s id).memWf = true := by
  unfold State.tryEnd
  repeat' first
    | with_reducible assumption | (with_reducible intro t ht) | with_reducible refine State.mapTeam_memWf ?_ _ _ ?_
    | with_reducible refine State.pokeCommit_memWf ?_ _ | with_reducible refine State.enqueue_memWf ?_ _
    | with_reducible refine State.pokeShare_memWf ?_ _ _ | with_reducible refine Team.restart_memWf ?_
    | with_reducible refine State.withdrawArms_memWf ?_ _ | with_reducible refine State.endTeam_memWf ?_ _
    | with_reducible refine State.dropLog_memWf ?_ _ _ | with_reducible refine memWf_foldl ?_ (fun _ _ _ => ?_) | dsimp only | split
theorem State.tryEndGroup_memWf {s : State} (h : s.memWf = true) (id : Nat) (gid : Nat) : (State.tryEndGroup s id gid).memWf = true := by
  unfold State.tryEndGroup
  repeat' first
    | with_reducible assumption | with_reducible refine State.now_memWf ?_ _ | with_reducible refine State.mapGroup_memWf ?_ _ _ _
    | with_reducible refine State.pokeShare_memWf ?_ _ _ | dsimp only | split
theorem State.drained_memWf {s : State} (h : s.memWf = true) (id : Nat) : (State.drained s id).memWf = true := by
  unfold State.drained
  repeat' first
    | with_reducible assumption | with_reducible refine State.trySave_memWf ?_ _ | with_reducible refine State.tryEnd_memWf ?_ _ | split
theorem gridTeam_memWf (x : Seat) (g : Grid) (spread : Spread) (i : Nat) : (gridTeam x g spread i).memWf = true := rfl
theorem State.addTeam_memWf {s : State} (h : s.memWf = true) (t : Team) (ht : t.memWf = true) : (s.addTeam t).memWf = true := by
  unfold State.addTeam
  refine State.enqueue_memWf ?_ _
  rw [memWf_mk]
  exact memWf_partsTeams (State.fresh_memWf h) (memWf_insertTeam (u := { t with id := s.fresh.1 }) (memWf_teams (State.fresh_memWf h)) ht) (memWf_cur (State.fresh_memWf h))
theorem State.startGrid_memWf {s : State} (h : s.memWf = true) (id : Nat) (spread : Spread) : (State.startGrid s id spread).memWf = true := by
  unfold State.startGrid
  repeat' first
    | with_reducible assumption | with_reducible refine memWf_cur ?_ | with_reducible exact gridTeam_memWf _ _ _ _
    | with_reducible refine State.addTeam_memWf ?_ _ ?_ | with_reducible refine memWf_foldl ?_ (fun _ _ _ => ?_)
    | (simp only [memWf_mk]; with_reducible refine memWf_parts ?_ ?_) | (simp only [teamWf_mk]; with_reducible refine teamWf_parts ?_ ?_ ?_ ?_ ?_)
    | with_reducible refine teamWf_save ?_ | with_reducible refine teamWf_scratch ?_ | with_reducible refine teamWf_abuf ?_
    | with_reducible refine teamWf_wbuf ?_ | with_reducible refine teamWf_xbuf ?_ | dsimp only | split
theorem State.countGrid_memWf {s : State} (h : s.memWf = true) (seat vf : Nat) : (s.countGrid seat vf).2.memWf = true := by
  unfold State.countGrid
  split <;> exact State.mapSeat_memWf h _ _
theorem State.dropGrid_memWf {s : State} (h : s.memWf = true) (id : Nat) : (State.dropGrid s id).memWf = true := by
  unfold State.dropGrid
  repeat' first
    | with_reducible assumption | with_reducible refine memWf_cur ?_ | with_reducible refine State.once_memWf ?_ _ _
    | with_reducible refine State.pokeWaiting_memWf ?_ | with_reducible refine memWf_foldl ?_ (fun _ _ _ => ?_)
    | (simp only [memWf_mk]; with_reducible refine memWf_parts ?_ ?_) | dsimp only | split
theorem execTeamCarving_memWf {s : State} (h : s.memWf = true)  : OutWf (execTeamCarving s) := by
  unfold execTeamCarving
  repeat' first
    | with_reducible assumption | with_reducible refine optWf_some ?_ | with_reducible exact optWf_none
    | with_reducible refine runEvent_memWf _ fun e => ?_ | with_reducible refine State.carve_memWf ?_ _ _ | split
theorem execTeamRelease_memWf {s : State} (h : s.memWf = true)  : OutWf (execTeamRelease s) := by
  unfold execTeamRelease
  repeat' first
    | with_reducible assumption | with_reducible refine optWf_some ?_ | with_reducible exact optWf_none
    | with_reducible refine runEvent_memWf _ fun e => ?_ | with_reducible refine State.endCarving_memWf ?_ _ | split
theorem execVictimChoice_memWf {s : State} (h : s.memWf = true)  : OutWf (execVictimChoice s) := by
  unfold execVictimChoice
  repeat' first
    | with_reducible assumption | with_reducible refine optWf_some ?_ | with_reducible exact optWf_none
    | with_reducible refine runEvent_memWf _ fun e => ?_ | with_reducible refine State.chooseVictim_memWf ?_ _ _ | split
theorem execDrainComplete_memWf {s : State} (h : s.memWf = true)  : OutWf (execDrainComplete s) := by
  unfold execDrainComplete
  repeat' first
    | with_reducible assumption | with_reducible refine optWf_some ?_ | with_reducible exact optWf_none
    | with_reducible refine runEvent_memWf _ fun e => ?_ | with_reducible refine State.drained_memWf ?_ _ | split
theorem execSaveComplete_memWf {s : State} (h : s.memWf = true)  : OutWf (execSaveComplete s) := by
  unfold execSaveComplete
  repeat' first
    | with_reducible assumption | with_reducible refine optWf_some ?_ | with_reducible exact optWf_none
    | with_reducible refine runEvent_memWf _ fun e => ?_ | with_reducible refine State.endSave_memWf ?_ _ | split
theorem execParkWake_memWf {s : State} (h : s.memWf = true)  : OutWf (execParkWake s) := by
  unfold execParkWake
  repeat' first
    | with_reducible assumption | with_reducible refine optWf_some ?_ | with_reducible exact optWf_none
    | with_reducible refine runEvent_memWf _ fun e => ?_ | with_reducible refine State.wakeParked_memWf ?_ _ | split
theorem execGroupEnd_memWf {s : State} (h : s.memWf = true)  : OutWf (execGroupEnd s) := by
  unfold execGroupEnd
  repeat' first
    | with_reducible assumption | with_reducible refine optWf_some ?_ | with_reducible exact optWf_none
    | with_reducible refine runEvent_memWf _ fun e => ?_ | with_reducible refine State.tryEndGroup_memWf ?_ _ _ | split
theorem execTeamEnd_memWf {s : State} (h : s.memWf = true)  : OutWf (execTeamEnd s) := by
  unfold execTeamEnd
  repeat' first
    | with_reducible assumption | with_reducible refine optWf_some ?_ | with_reducible exact optWf_none
    | with_reducible refine runEvent_memWf _ fun e => ?_ | with_reducible refine State.tryEnd_memWf ?_ _ | split

/-! ### Machine/Launch.lean -/

theorem State.placeRecord_memWf {s : State} (h : s.memWf = true) (t : Team) (gid : Nat) (ext : W64) (w4 : W64) (age : Nat) : (State.placeRecord s t gid ext w4 age).2.memWf = true := by
  unfold State.placeRecord
  repeat' first
    | with_reducible assumption | with_reducible refine memWf_cur ?_ | with_reducible refine State.fresh_memWf ?_
    | with_reducible refine State.countGrid_memWf ?_ _ _ | (simp only [memWf_mk]; with_reducible refine memWf_parts ?_ ?_)
theorem State.launchWord_memWf {s : State} (h : s.memWf = true) (d : SReg) (try_ : Bool) (cd : Nat) : (State.launchWord s d try_ cd).memWf = true := by
  unfold State.launchWord
  repeat' first
    | with_reducible assumption | with_reducible refine State.onGroup_memWf ?_ _ | with_reducible refine State.wC_memWf ?_ _ _
    | with_reducible refine State.goto_memWf ?_ _ _ | with_reducible refine State.block_memWf ?_ _ | with_reducible refine State.launchOp_memWf ?_ _
    | with_reducible refine State.checkOp_memWf ?_ _ | with_reducible refine State.translate_memWf ?_ _ _
    | with_reducible refine State.placeOp_memWf ?_ _ | with_reducible refine State.pend_memWf ?_ _ _ | with_reducible refine State.drain_memWf ?_ _ _
    | with_reducible refine State.placeRecord_memWf ?_ _ _ _ _ _ | dsimp only | split
theorem execLaunch_memWf {s : State} (h : s.memWf = true) (d : SReg) : OutWf (execLaunch d s) := by
  unfold execLaunch
  repeat' first
    | with_reducible assumption | (with_reducible intro t ht) | with_reducible refine exWf_ok ?_ | with_reducible exact exWf_error
    | with_reducible refine runWord_memWf ?_ _ _ ?_ | with_reducible refine State.launchWord_memWf ?_ _ _ _ | split
theorem execLaunchTry_memWf {s : State} (h : s.memWf = true) (d : SReg) (c : CReg) : OutWf (execLaunchTry d c s) := by
  unfold execLaunchTry
  repeat' first
    | with_reducible assumption | (with_reducible intro t ht) | with_reducible refine exWf_ok ?_ | with_reducible exact exWf_error
    | with_reducible refine runWord_memWf ?_ _ _ ?_ | with_reducible refine State.launchWord_memWf ?_ _ _ _ | split
theorem State.refuseGrid_memWf {s : State} (h : s.memWf = true) (g : Grid) (status : Nat) : (State.refuseGrid s g status).memWf = true := by
  unfold State.refuseGrid
  repeat' first
    | with_reducible assumption | with_reducible refine State.complete_memWf ?_ _ _ _ _ | with_reducible refine State.dropGrid_memWf ?_ _
theorem State.endLaunch_memWf {s : State} (h : s.memWf = true) (o : Op) (try_ : Bool) (cd : Nat) : (State.endLaunch s o try_ cd).memWf = true := by
  unfold State.endLaunch
  repeat' first
    | with_reducible assumption | with_reducible refine State.anyGroup_memWf ?_ _ _ _ | with_reducible refine State.landOp_memWf ?_ _ | split
theorem State.settleLaunch_memWf {s : State} (h : s.memWf = true) (id : Nat) : (State.settleLaunch s id).memWf = true := by
  unfold State.settleLaunch
  repeat' first
    | with_reducible assumption | with_reducible refine memWf_cur ?_ | with_reducible refine State.mapOp_memWf ?_ _ _
    | with_reducible refine State.finishOp_memWf ?_ _ | with_reducible refine State.defer_memWf ?_ _ _
    | with_reducible refine State.waitDone_memWf ?_ _ _ _ | with_reducible refine State.chargeOp_memWf ?_ _ _ _ _ _
    | with_reducible refine State.recordFault_memWf ?_ _ _ _ _ _ _ | with_reducible refine State.startGrid_memWf ?_ _ _
    | with_reducible refine State.dropGrid_memWf ?_ _ | with_reducible refine State.refuseGrid_memWf ?_ _ _
    | with_reducible refine State.endLaunch_memWf ?_ _ _ _ | with_reducible refine memWf_foldl ?_ (fun _ _ _ => ?_)
    | (simp only [memWf_mk]; with_reducible refine memWf_parts ?_ ?_) | dsimp only | split
theorem State.refuseBuild_memWf {s : State} (h : s.memWf = true) (id : Nat) : (State.refuseBuild s id).memWf = true := by
  unfold State.refuseBuild
  repeat' first
    | with_reducible assumption | with_reducible refine State.finishOp_memWf ?_ _ | with_reducible refine State.refuseGrid_memWf ?_ _ _
    | with_reducible refine State.endLaunch_memWf ?_ _ _ _ | split
theorem joinWord_memWf {s : State} (h : s.memWf = true) (i : Instr) (tag : State → Option Nat) : OutWf (joinWord i tag s) := by
  unfold joinWord
  repeat' first
    | with_reducible assumption | (with_reducible intro t ht) | with_reducible refine State.block_memWf ?_ _
    | with_reducible refine runPure_memWf ?_ _ _ ?_ | with_reducible refine State.drain_memWf ?_ _ _ | dsimp only | split
theorem execJoin_memWf {s : State} (h : s.memWf = true) (a : SReg) : OutWf (execJoin a s) := by
  unfold execJoin
  repeat' first
    | with_reducible assumption | with_reducible refine joinWord_memWf ?_ _ _
theorem execJoinAll_memWf {s : State} (h : s.memWf = true)  : OutWf (execJoinAll s) := by
  unfold execJoinAll
  repeat' first
    | with_reducible assumption | with_reducible refine joinWord_memWf ?_ _ _
theorem execJoinDoor_memWf {s : State} (h : s.memWf = true) (a : SReg) : OutWf (execJoinDoor a s) := by
  unfold execJoinDoor
  repeat' first
    | with_reducible assumption | (with_reducible intro t ht) | with_reducible refine State.block_memWf ?_ _
    | with_reducible refine runPure_memWf ?_ _ _ ?_ | with_reducible refine State.charge_memWf ?_ _ _ _
theorem State.sendMessage_memWf {s : State} (h : s.memWf = true) (id : Nat) : (State.sendMessage s id).memWf = true := by
  unfold State.sendMessage
  repeat' first
    | with_reducible assumption | with_reducible refine memWf_cur ?_ | with_reducible refine State.fresh_memWf ?_
    | with_reducible refine State.mapOp_memWf ?_ _ _ | with_reducible refine State.schedule_memWf ?_ _
    | (simp only [memWf_mk]; with_reducible refine memWf_parts ?_ ?_) | dsimp only | split
theorem execAmsg_memWf {s : State} (h : s.memWf = true) (d : SReg) : OutWf (execAmsg d s) := by
  unfold execAmsg
  repeat' first
    | with_reducible assumption | (with_reducible intro t ht) | with_reducible refine exWf_ok ?_ | with_reducible exact exWf_error
    | with_reducible refine State.onGroup_memWf ?_ _ | with_reducible refine State.launchOp_memWf ?_ _ | with_reducible refine runWord_memWf ?_ _ _ ?_
    | with_reducible refine State.placeOp_memWf ?_ _ | with_reducible refine State.sendMessage_memWf ?_ _ | dsimp only | split
theorem State.acceptMessage_memWf {s : State} (h : s.memWf = true) (id : Nat) : (State.acceptMessage s id).memWf = true := by
  unfold State.acceptMessage
  repeat' first
    | with_reducible assumption | with_reducible refine State.fresh_memWf ?_ | with_reducible refine State.finishOp_memWf ?_ _
    | with_reducible refine State.addTeam_memWf ?_ _ ?_ | (simp only [teamWf_mk]; with_reducible refine teamWf_parts ?_ ?_ ?_ ?_ ?_)
    | with_reducible exact saveWf_none | with_reducible exact wf_nil | dsimp only | split
theorem execAmsgAccept_memWf {s : State} (h : s.memWf = true)  : OutWf (execAmsgAccept s) := by
  unfold execAmsgAccept
  repeat' first
    | with_reducible assumption | with_reducible refine memWf_cur ?_ | with_reducible refine optWf_some ?_ | with_reducible exact optWf_none
    | with_reducible refine runEvent_memWf _ fun e => ?_ | with_reducible refine State.acceptMessage_memWf ?_ _
    | (simp only [memWf_mk]; with_reducible refine memWf_parts ?_ ?_) | split
theorem execVregrp_memWf {s : State} (h : s.memWf = true) (f : VReg) (n : Fin 16) (c : CReg) (p : Fin 256) : OutWf (execVregrp f n c p s) := by
  unfold execVregrp
  repeat' first
    | with_reducible assumption | (with_reducible intro t ht) | with_reducible refine exWf_ok ?_ | with_reducible exact exWf_error
    | with_reducible refine State.onTeam_memWf ?_ _ ?_ | with_reducible refine State.goto_memWf ?_ _ _ | with_reducible refine State.block_memWf ?_ _
    | with_reducible refine State.now_memWf ?_ _ | with_reducible refine runWord_memWf ?_ _ _ ?_
    | (simp only [teamWf_mk]; with_reducible refine teamWf_parts ?_ ?_ ?_ ?_ ?_) | with_reducible refine teamWf_save ?_
    | with_reducible refine teamWf_scratch ?_ | with_reducible refine teamWf_abuf ?_ | with_reducible refine teamWf_wbuf ?_
    | with_reducible refine teamWf_xbuf ?_ | dsimp only | split
theorem State.wakeRange_memWf {s : State} (h : s.memWf = true) (team : Nat) (g : Group) (r : Regroup) : (State.wakeRange s team g r).memWf = true := by
  unfold State.wakeRange
  repeat' first
    | with_reducible assumption | with_reducible refine State.at_memWf ?_ _ _ | with_reducible refine State.mapGroup_memWf ?_ _ _ _
    | with_reducible refine memWf_foldl ?_ (fun _ _ _ => ?_) | dsimp only | split
theorem State.tryRegroup_memWf {s : State} (h : s.memWf = true) (id : Nat) : (State.tryRegroup s id).memWf = true := by
  unfold State.tryRegroup
  repeat' first
    | with_reducible assumption | (with_reducible intro t ht) | with_reducible refine State.at_memWf ?_ _ _
    | with_reducible refine State.mapTeam_memWf ?_ _ _ ?_ | with_reducible refine State.once_memWf ?_ _ _
    | with_reducible refine State.wakeRange_memWf ?_ _ _ _ | with_reducible refine memWf_foldl ?_ (fun _ _ _ => ?_)
    | (simp only [teamWf_mk]; with_reducible refine teamWf_parts ?_ ?_ ?_ ?_ ?_) | with_reducible refine teamWf_save ?_
    | with_reducible refine teamWf_scratch ?_ | with_reducible refine teamWf_abuf ?_ | with_reducible refine teamWf_wbuf ?_
    | with_reducible refine teamWf_xbuf ?_ | dsimp only | split
theorem execRegroupComplete_memWf {s : State} (h : s.memWf = true)  : OutWf (execRegroupComplete s) := by
  unfold execRegroupComplete
  repeat' first
    | with_reducible assumption | with_reducible refine optWf_some ?_ | with_reducible exact optWf_none
    | with_reducible refine runEvent_memWf _ fun e => ?_ | with_reducible refine State.tryRegroup_memWf ?_ _ | split

end Sys2Proof.Machine
end

