-- ==== Sys2Proof/Laws/FormDevice.lean ====
section
/-!
SUPPORT. Every operation and meaning of Machine/Replies, Seats, Queues, Device and Portable keeps the canonical form of every memory,
and so do the meaning of every instruction and event (exec) and what the picked candidate does (act).
-/

namespace Sys2Proof.Machine

open Sys2Proof Sys2Proof.Laws


/-! ### Machine/Replies.lean -/

theorem State.settleOp_memWf {s : State} (h : s.memWf = true) (id : Nat) : (State.settleOp s id).memWf = true := by
  unfold State.settleOp
  repeat' first
    | with_reducible assumption | with_reducible refine State.checkOp_memWf ?_ _ | with_reducible refine State.releaseHeld_memWf ?_ _ _
    | with_reducible refine State.settleLaunch_memWf ?_ _ | split
theorem State.retireReq_memWf {s : State} (h : s.memWf = true) (r : Req) : (State.retireReq s r).memWf = true := by
  unfold State.retireReq
  repeat' first
    | with_reducible assumption | with_reducible refine State.mapOp_memWf ?_ _ _ | with_reducible refine State.dropReq_memWf ?_ _
    | with_reducible refine State.settleOp_memWf ?_ _
theorem State.walkReply_memWf {s : State} (h : s.memWf = true) (r : Req) : (State.walkReply s r).memWf = true := by
  unfold State.walkReply
  repeat' first
    | with_reducible assumption | with_reducible refine State.at_memWf ?_ _ _ | with_reducible refine State.dropReq_memWf ?_ _
    | with_reducible refine State.mapWalk_memWf ?_ _ _ | with_reducible refine State.readEntry_memWf ?_ _ | dsimp only | split
theorem State.refusedReply_memWf {s : State} (h : s.memWf = true) (r : Req) : (State.refusedReply s r).memWf = true := by
  unfold State.refusedReply
  repeat' first
    | with_reducible assumption | with_reducible refine State.dropReq_memWf ?_ _ | with_reducible refine State.refuse_memWf ?_ _ _
    | with_reducible refine State.stopCopy_memWf ?_ _ _ | with_reducible refine State.retireReq_memWf ?_ _ | split
theorem State.reply_memWf {s : State} (h : s.memWf = true) (id : Nat) : (State.reply s id).memWf = true := by
  unfold State.reply
  repeat' first
    | with_reducible assumption | with_reducible refine State.fresh_memWf ?_ | with_reducible refine State.mapSeat_memWf ?_ _ _
    | with_reducible refine State.dropReq_memWf ?_ _ | with_reducible refine State.linkDone_memWf ?_ _
    | with_reducible refine State.pieceDone_memWf ?_ _ _ | with_reducible refine State.retireReq_memWf ?_ _
    | with_reducible refine State.walkReply_memWf ?_ _ | with_reducible refine State.refusedReply_memWf ?_ _ | dsimp only | split
theorem State.acknowledge_memWf {s : State} (h : s.memWf = true) (id : Nat) : (State.acknowledge s id).memWf = true := by
  unfold State.acknowledge
  repeat' first
    | with_reducible assumption | with_reducible refine State.dropReq_memWf ?_ _ | with_reducible refine State.linkDone_memWf ?_ _
    | with_reducible refine State.retireReq_memWf ?_ _ | with_reducible refine State.refusedReply_memWf ?_ _ | dsimp only | split
theorem State.storePerformed_memWf {s : State} (h : s.memWf = true) (id : Nat) : (State.storePerformed s id).memWf = true := by
  unfold State.storePerformed
  repeat' first
    | with_reducible assumption | with_reducible refine State.perform_memWf ?_ _ | with_reducible refine State.pieceDone_memWf ?_ _ _ | dsimp only
    | split
theorem State.atomicPerformed_memWf {s : State} (h : s.memWf = true) (id : Nat) : (State.atomicPerformed s id).memWf = true := by
  unfold State.atomicPerformed
  repeat' first
    | with_reducible assumption | with_reducible refine State.perform_memWf ?_ _ | with_reducible refine State.retireReq_memWf ?_ _ | dsimp only
    | split
theorem State.recalled_memWf {s : State} (h : s.memWf = true) (id : Nat) : (State.recalled s id).memWf = true := by
  unfold State.recalled
  repeat' first
    | with_reducible assumption | with_reducible refine State.mapSeat_memWf ?_ _ _ | with_reducible refine State.mapReq_memWf ?_ _ _
    | with_reducible refine State.dropReq_memWf ?_ _ | with_reducible refine State.schedule_memWf ?_ _ | dsimp only | split
theorem execLoadReply_memWf {s : State} (h : s.memWf = true)  : OutWf (execLoadReply s) := by
  unfold execLoadReply
  repeat' first
    | with_reducible assumption | with_reducible refine optWf_some ?_ | with_reducible exact optWf_none
    | with_reducible refine runEvent_memWf _ fun e => ?_ | with_reducible refine State.reply_memWf ?_ _ | split
theorem execStorePerform_memWf {s : State} (h : s.memWf = true)  : OutWf (execStorePerform s) := by
  unfold execStorePerform
  repeat' first
    | with_reducible assumption | with_reducible refine optWf_some ?_ | with_reducible exact optWf_none
    | with_reducible refine runEvent_memWf _ fun e => ?_ | with_reducible refine State.storePerformed_memWf ?_ _ | split
theorem execStoreAcknowledge_memWf {s : State} (h : s.memWf = true)  : OutWf (execStoreAcknowledge s) := by
  unfold execStoreAcknowledge
  repeat' first
    | with_reducible assumption | with_reducible refine optWf_some ?_ | with_reducible exact optWf_none
    | with_reducible refine runEvent_memWf _ fun e => ?_ | with_reducible refine State.acknowledge_memWf ?_ _ | split
theorem execLineRecall_memWf {s : State} (h : s.memWf = true)  : OutWf (execLineRecall s) := by
  unfold execLineRecall
  repeat' first
    | with_reducible assumption | with_reducible refine optWf_some ?_ | with_reducible exact optWf_none
    | with_reducible refine runEvent_memWf _ fun e => ?_ | with_reducible refine State.recalled_memWf ?_ _ | split
theorem execAtomicPerform_memWf {s : State} (h : s.memWf = true)  : OutWf (execAtomicPerform s) := by
  unfold execAtomicPerform
  repeat' first
    | with_reducible assumption | with_reducible refine optWf_some ?_ | with_reducible exact optWf_none
    | with_reducible refine runEvent_memWf _ fun e => ?_ | with_reducible refine State.atomicPerformed_memWf ?_ _ | split
theorem execScratchpadRowServe_memWf {s : State} (h : s.memWf = true)  : OutWf (execScratchpadRowServe s) := by
  unfold execScratchpadRowServe
  repeat' first
    | with_reducible assumption | with_reducible refine optWf_some ?_ | with_reducible exact optWf_none
    | with_reducible refine runEvent_memWf _ fun e => ?_ | with_reducible refine State.serveRows_memWf ?_ _ _ | split
theorem execBufferPortCycle_memWf {s : State} (h : s.memWf = true)  : OutWf (execBufferPortCycle s) := by
  unfold execBufferPortCycle
  repeat' first
    | with_reducible assumption | with_reducible refine optWf_some ?_ | with_reducible exact optWf_none
    | with_reducible refine runEvent_memWf _ fun e => ?_ | with_reducible refine State.servePort_memWf ?_ _ _ | split
theorem State.sendHeld_memWf {s : State} (h : s.memWf = true) (id : Nat) : (State.sendHeld s id).memWf = true := by
  unfold State.sendHeld
  repeat' first
    | with_reducible assumption | with_reducible refine State.at_memWf ?_ _ _ | with_reducible refine State.mapReq_memWf ?_ _ _
    | with_reducible refine memWf_foldl ?_ (fun _ _ _ => ?_) | dsimp only | split
theorem State.applyHeld_memWf {s : State} (h : s.memWf = true) (id : Nat) : (State.applyHeld s id).memWf = true := by
  unfold State.applyHeld
  repeat' first
    | with_reducible assumption | with_reducible refine State.at_memWf ?_ _ _ | with_reducible refine State.mapOp_memWf ?_ _ _
    | with_reducible refine State.anyGroup_memWf ?_ _ _ _ | with_reducible refine State.finishOp_memWf ?_ _
    | with_reducible refine State.defer_memWf ?_ _ _ | with_reducible refine State.wakeReleases_memWf ?_ _ _
    | with_reducible refine memWf_ofPair (State.barApply_memWf ?_ _ _ _) (by assumption) | with_reducible refine State.settleLocal_memWf ?_ _ _ _ _ _
    | with_reducible refine State.sendMessage_memWf ?_ _ | with_reducible refine State.settleOp_memWf ?_ _
    | with_reducible refine State.sendHeld_memWf ?_ _ | dsimp only | split
theorem execReleaseApply_memWf {s : State} (h : s.memWf = true)  : OutWf (execReleaseApply s) := by
  unfold execReleaseApply
  repeat' first
    | with_reducible assumption | with_reducible refine optWf_some ?_ | with_reducible exact optWf_none
    | with_reducible refine runEvent_memWf _ fun e => ?_ | with_reducible refine State.applyHeld_memWf ?_ _ | split
theorem State.chargeAlight_memWf {s : State} (h : s.memWf = true) (i : Nat) (event : Nat) (c : Nat) (va : Nat) : (State.chargeAlight s i event c va).memWf = true := by
  unfold State.chargeAlight
  repeat' first
    | with_reducible assumption | with_reducible refine State.charge_memWf ?_ _ _ _ | split
theorem State.bufferedOver_memWf {s : State} (h : s.memWf = true) (o : Op) : (State.bufferedOver s o).memWf = true := by
  unfold State.bufferedOver
  repeat' first
    | with_reducible assumption | with_reducible refine State.mapOp_memWf ?_ _ _ | with_reducible refine State.pokeCommit_memWf ?_ _
    | with_reducible refine State.waitDone_memWf ?_ _ _ _ | with_reducible refine memWf_foldl ?_ (fun _ _ _ => ?_) | dsimp only | split
theorem State.bufferedPage_memWf {s : State} (h : s.memWf = true) (w : Walk) (o : Op) (vbase : Nat) (size : Nat) (leaf : W64) : (State.bufferedPage s w o vbase size leaf).memWf = true := by
  unfold State.bufferedPage
  repeat' first
    | with_reducible assumption | with_reducible refine State.mapOp_memWf ?_ _ _ | with_reducible refine State.bufferedOver_memWf ?_ _
theorem State.takeLeaf_memWf {s : State} (h : s.memWf = true) (w : Walk) (place : Nat → Phys) (leaf : W64) (level : Nat) (size : Nat) (a : FaultOwner × LaneMask) (fills : Bool) : (State.takeLeaf s w place leaf level size a fills).memWf = true := by
  unfold State.takeLeaf
  repeat' first
    | with_reducible assumption | with_reducible refine memWf_cur ?_ | with_reducible refine State.now_memWf ?_ _
    | with_reducible refine State.countAccess_memWf ?_ _ _ _ _ _ | with_reducible refine State.sendLanes_memWf ?_ _ _ _ _ _ _
    | with_reducible refine State.answerLanes_memWf ?_ _ _ _ _ _ _ _ | with_reducible refine State.stopCopy_memWf ?_ _ _
    | with_reducible refine State.sendPiece_memWf ?_ _ _ _ _ _ _ _ | with_reducible refine State.sendHome_memWf ?_ _ _ _ _
    | with_reducible refine State.refuseHome_memWf ?_ _ _ | with_reducible refine State.settleOp_memWf ?_ _
    | with_reducible refine State.bufferedOver_memWf ?_ _ | with_reducible refine State.bufferedPage_memWf ?_ _ _ _ _ _
    | (simp only [memWf_mk]; with_reducible refine memWf_parts ?_ ?_) | dsimp only | split
theorem State.takeFault_memWf {s : State} (h : s.memWf = true) (w : Walk) (a : FaultOwner × LaneMask) : (State.takeFault s w a).memWf = true := by
  unfold State.takeFault
  repeat' first
    | with_reducible assumption | with_reducible refine State.recordFault_memWf ?_ _ _ _ _ _ _
    | with_reducible refine State.faultLanes_memWf ?_ _ _ _ _ | with_reducible refine State.chargePiece_memWf ?_ _ _ _ _
    | with_reducible refine State.settleOp_memWf ?_ _ | with_reducible refine State.chargeAlight_memWf ?_ _ _ _ _ | split
theorem State.takeBad_memWf {s : State} (h : s.memWf = true) (w : Walk) (a : FaultOwner × LaneMask) : (State.takeBad s w a).memWf = true := by
  unfold State.takeBad
  repeat' first
    | with_reducible assumption | with_reducible refine State.refuse_memWf ?_ _ _ | with_reducible refine State.stopCopy_memWf ?_ _ _
    | with_reducible refine State.refuseHome_memWf ?_ _ _ | with_reducible refine State.settleOp_memWf ?_ _
    | with_reducible refine State.bufferedPage_memWf ?_ _ _ _ _ _ | split
theorem State.chargeParty_memWf {s : State} (h : s.memWf = true) (w : Walk) (event : Nat) (c : Nat) (a : FaultOwner × LaneMask) : (State.chargeParty s w event c a).memWf = true := by
  unfold State.chargeParty
  repeat' first
    | with_reducible assumption | with_reducible refine State.mapOp_memWf ?_ _ _ | with_reducible refine State.chargeOp_memWf ?_ _ _ _ _ _
    | with_reducible refine State.chargePiece_memWf ?_ _ _ _ _ | with_reducible refine State.chargeAlight_memWf ?_ _ _ _ _ | split
theorem State.dropWalk_memWf {s : State} (h : s.memWf = true) (w : Walk) : (State.dropWalk s w).memWf = true := by
  unfold State.dropWalk
  repeat' first
    | with_reducible assumption | with_reducible refine memWf_cur ?_ | with_reducible refine State.startWalks_memWf ?_ _ _
    | (simp only [memWf_mk]; with_reducible refine memWf_parts ?_ ?_)
theorem State.fillFrom_memWf {s : State} (h : s.memWf = true) (w : Walk) (leaf : W64) (vbase : Nat) (size : Nat) (at_ : Nat) : (State.fillFrom s w leaf vbase size at_).memWf = true := by
  unfold State.fillFrom
  repeat' first
    | with_reducible assumption | with_reducible refine State.fresh_memWf ?_ | with_reducible refine State.mapSeat_memWf ?_ _ _
    | with_reducible refine State.raiseHeat_memWf ?_ _ _ _ _ | dsimp only | split
theorem State.askAts_memWf {s : State} (h : s.memWf = true) (w : Walk) : (State.askAts s w).memWf = true := by
  unfold State.askAts
  repeat' first
    | with_reducible assumption | with_reducible refine memWf_cur ?_ | with_reducible refine State.mapWalk_memWf ?_ _ _
    | (simp only [memWf_mk]; with_reducible refine memWf_parts ?_ ?_)
theorem State.badEntry_memWf {s : State} (h : s.memWf = true) (w : Walk) (at_ : Nat) : (State.badEntry s w at_).memWf = true := by
  unfold State.badEntry
  repeat' first
    | with_reducible assumption | with_reducible refine State.logEvent_memWf ?_ _ _ _ _ _ _ _ _ | with_reducible refine State.takeBad_memWf ?_ _ _
    | with_reducible refine State.dropWalk_memWf ?_ _ | with_reducible refine memWf_foldl ?_ (fun _ _ _ => ?_)
theorem State.endWalk_memWf {s : State} (h : s.memWf = true) (id : Nat) : (State.endWalk s id).memWf = true := by
  unfold State.endWalk
  repeat' first
    | with_reducible assumption | with_reducible refine State.mapWalk_memWf ?_ _ _ | with_reducible refine State.startWalks_memWf ?_ _ _
    | with_reducible refine State.takeLeaf_memWf ?_ _ _ _ _ _ _ _ | with_reducible refine State.takeFault_memWf ?_ _ _
    | with_reducible refine State.takeBad_memWf ?_ _ _ | with_reducible refine State.chargeParty_memWf ?_ _ _ _ _
    | with_reducible refine State.dropWalk_memWf ?_ _ | with_reducible refine State.fillFrom_memWf ?_ _ _ _ _ _
    | with_reducible refine State.askAts_memWf ?_ _ | with_reducible refine State.badEntry_memWf ?_ _ _
    | with_reducible refine memWf_foldl ?_ (fun _ _ _ => ?_) | dsimp only | split
theorem execTlbWalkComplete_memWf {s : State} (h : s.memWf = true)  : OutWf (execTlbWalkComplete s) := by
  unfold execTlbWalkComplete
  repeat' first
    | with_reducible assumption | with_reducible refine optWf_some ?_ | with_reducible exact optWf_none
    | with_reducible refine runEvent_memWf _ fun e => ?_ | with_reducible refine State.endWalk_memWf ?_ _ | split
theorem State.invalidate_memWf {s : State} (h : s.memWf = true) (seat : Nat) (asid : Option Nat) (page : Option Nat) : (State.invalidate s seat asid page).memWf = true := by
  unfold State.invalidate
  repeat' first
    | with_reducible assumption | with_reducible refine memWf_cur ?_ | with_reducible refine State.mapSeat_memWf ?_ _ _
    | (simp only [memWf_mk]; with_reducible refine memWf_parts ?_ ?_)
theorem State.stepTlbinv_memWf {s : State} (h : s.memWf = true) (id : Nat) : (State.stepTlbinv s id).memWf = true := by
  unfold State.stepTlbinv
  repeat' first
    | with_reducible assumption | with_reducible refine State.at_memWf ?_ _ _ | with_reducible refine State.mapOp_memWf ?_ _ _
    | with_reducible refine State.finishOp_memWf ?_ _ | with_reducible refine State.invalidate_memWf ?_ _ _ _ | dsimp only | split
theorem execTlbinvComplete_memWf {s : State} (h : s.memWf = true)  : OutWf (execTlbinvComplete s) := by
  unfold execTlbinvComplete
  repeat' first
    | with_reducible assumption | with_reducible refine optWf_some ?_ | with_reducible exact optWf_none
    | with_reducible refine runEvent_memWf _ fun e => ?_ | with_reducible refine State.stepTlbinv_memWf ?_ _ | split
theorem State.unresolved_memWf {s : State} (h : s.memWf = true) (seat : Nat) (ow : FaultOwner) (m : LaneMask) (va : Nat) : (State.unresolved s seat ow m va).memWf = true := by
  unfold State.unresolved
  repeat' first
    | with_reducible assumption | with_reducible refine memWf_cur ?_ | with_reducible refine State.now_memWf ?_ _
    | with_reducible refine State.mapSeat_memWf ?_ _ _ | with_reducible refine State.mapOp_memWf ?_ _ _
    | with_reducible refine State.settleOp_memWf ?_ _ | (simp only [memWf_mk]; with_reducible refine memWf_parts ?_ ?_) | dsimp only | split
theorem State.resumeFault_memWf {s : State} (h : s.memWf = true) (f : FaultRec) : (State.resumeFault s f).memWf = true := by
  unfold State.resumeFault
  repeat' first
    | with_reducible assumption | with_reducible refine memWf_cur ?_ | with_reducible refine State.now_memWf ?_ _
    | with_reducible refine State.waitDone_memWf ?_ _ _ _ | with_reducible refine State.mapCopy_memWf ?_ _ _
    | with_reducible refine State.homeWrite_memWf ?_ _ | with_reducible refine State.settleLaunch_memWf ?_ _
    | with_reducible refine State.bufferedOver_memWf ?_ _ | with_reducible refine memWf_foldl ?_ (fun _ _ _ => ?_)
    | (simp only [memWf_mk]; with_reducible refine memWf_parts ?_ ?_) | with_reducible refine optWf_getD (optWf_of fun _ => ?_) ?_ | split
theorem State.nextFault_memWf {s : State} (h : s.memWf = true) (f : FaultRec) : (State.nextFault s f).memWf = true := by
  unfold State.nextFault
  repeat' first
    | with_reducible assumption | with_reducible refine memWf_cur ?_ | with_reducible refine State.now_memWf ?_ _
    | (simp only [memWf_mk]; with_reducible refine memWf_parts ?_ ?_) | split
theorem State.dropFaults_memWf {s : State} (h : s.memWf = true) (f : FaultRec) : (State.dropFaults s f).memWf = true := by
  unfold State.dropFaults
  repeat' first
    | with_reducible assumption | with_reducible refine memWf_cur ?_ | with_reducible refine State.nextFault_memWf ?_ _
    | with_reducible refine memWf_foldl ?_ (fun _ _ _ => ?_) | (simp only [memWf_mk]; with_reducible refine memWf_parts ?_ ?_)
theorem State.resolvePage_memWf {s : State} (h : s.memWf = true) (f : FaultRec) : (State.resolvePage s f).memWf = true := by
  unfold State.resolvePage
  repeat' first
    | with_reducible assumption | with_reducible refine State.resumeFault_memWf ?_ _ | with_reducible refine State.dropFaults_memWf ?_ _
    | with_reducible refine memWf_foldl ?_ (fun _ _ _ => ?_)
theorem State.refusePage_memWf {s : State} (h : s.memWf = true) (f : FaultRec) : (State.refusePage s f).memWf = true := by
  unfold State.refusePage
  repeat' first
    | with_reducible assumption | with_reducible refine State.unresolved_memWf ?_ _ _ _ _ | with_reducible refine State.dropFaults_memWf ?_ _
    | with_reducible refine memWf_foldl ?_ (fun _ _ _ => ?_)
theorem State.makeValid_memWf {s : State} (h : s.memWf = true) (w : W64) (at_ : Nat) : OptWf (State.makeValid s w at_) := by
  unfold State.makeValid
  repeat' first
    | with_reducible assumption | with_reducible refine memWf_cur ?_ | with_reducible refine optWf_some ?_ | with_reducible exact optWf_none
    | with_reducible refine write_wf _ _ _ ?_ | with_reducible refine State.claimSlice_memWf ?_ _
    | (simp only [memWf_mk]; first | with_reducible refine memWf_parts ?_ ?_ | with_reducible refine memWf_partsMem ?_ ?_ ?_)
    | with_reducible refine memWf_mem ?_ | dsimp only | split
theorem State.serviceFault_memWf {s : State} (h : s.memWf = true) (f : FaultRec) : (State.serviceFault s f).memWf = true := by
  unfold State.serviceFault
  repeat' first
    | with_reducible assumption | with_reducible refine memWf_cur ?_ | with_reducible refine State.at_memWf ?_ _ _
    | with_reducible refine State.draw_memWf ?_ | with_reducible refine State.complete_memWf ?_ _ _ _ _
    | with_reducible refine State.resolvePage_memWf ?_ _ | with_reducible refine State.refusePage_memWf ?_ _
    | with_reducible refine optWf_elim (State.makeValid_memWf ?_ _ _) (by assumption)
    | (simp only [memWf_mk]; with_reducible refine memWf_parts ?_ ?_) | dsimp only | split
theorem execFaultService_memWf {s : State} (h : s.memWf = true)  : OutWf (execFaultService s) := by
  unfold execFaultService
  repeat' first
    | with_reducible assumption | with_reducible refine optWf_some ?_ | with_reducible exact optWf_none
    | with_reducible refine runEvent_memWf _ fun e => ?_ | with_reducible refine State.serviceFault_memWf ?_ _ | split
theorem State.pageAnswered_memWf {s : State} (h : s.memWf = true) (f : FaultRec) (refused : Bool) : (State.pageAnswered s f refused).memWf = true := by
  unfold State.pageAnswered
  repeat' first
    | with_reducible assumption | with_reducible refine State.resolvePage_memWf ?_ _ | with_reducible refine State.refusePage_memWf ?_ _
    | with_reducible refine optWf_elim (State.makeValid_memWf ?_ _ _) (by assumption) | split
theorem State.replay_memWf {s : State} (h : s.memWf = true) (id : Nat) : (State.replay s id).memWf = true := by
  unfold State.replay
  repeat' first
    | with_reducible assumption | with_reducible refine State.mapOp_memWf ?_ _ _ | with_reducible refine State.replayNext_memWf ?_ _ _
    | with_reducible refine State.translate_memWf ?_ _ _ | with_reducible refine State.homeWrite_memWf ?_ _
    | with_reducible refine State.settleOp_memWf ?_ _ | with_reducible refine State.bufferedOver_memWf ?_ _ | dsimp only | split
theorem execLogReplay_memWf {s : State} (h : s.memWf = true)  : OutWf (execLogReplay s) := by
  unfold execLogReplay
  repeat' first
    | with_reducible assumption | with_reducible refine optWf_some ?_ | with_reducible exact optWf_none
    | with_reducible refine runEvent_memWf _ fun e => ?_ | with_reducible refine State.replay_memWf ?_ _ | split
theorem State.sendPri_memWf {s : State} (h : s.memWf = true) (w : Walk) : (State.sendPri s w).memWf = true := by
  unfold State.sendPri
  repeat' first
    | with_reducible assumption | with_reducible refine memWf_cur ?_ | with_reducible refine State.mapWalk_memWf ?_ _ _
    | (simp only [memWf_mk]; with_reducible refine memWf_parts ?_ ?_) | dsimp only | split
theorem State.nextPages_memWf {s : State} (h : s.memWf = true) (vf : Nat) : (State.nextPages s vf).memWf = true := by
  unfold State.nextPages
  repeat' first
    | with_reducible assumption | with_reducible refine State.sendPri_memWf ?_ _ | split
theorem State.askedHost_memWf {s : State} (h : s.memWf = true) (seat : Nat) (ow : FaultOwner) : (State.askedHost s seat ow).memWf = true := by
  unfold State.askedHost
  repeat' first
    | with_reducible assumption | with_reducible refine State.waitDone_memWf ?_ _ _ _ | with_reducible refine memWf_foldl ?_ (fun _ _ _ => ?_) | split
theorem State.atsAnswer_memWf {s : State} (h : s.memWf = true) (vf : Nat) (pasid : Nat) (va : Nat) (pa : Nat) (size : Nat) (rd : Bool) (wr : Bool) : (State.atsAnswer s vf pasid va pa size rd wr).memWf = true := by
  unfold State.atsAnswer
  repeat' first
    | with_reducible assumption | with_reducible refine State.mapWalk_memWf ?_ _ _ | with_reducible refine State.takeLeaf_memWf ?_ _ _ _ _ _ _ _
    | with_reducible refine State.chargeParty_memWf ?_ _ _ _ _ | with_reducible refine State.dropWalk_memWf ?_ _
    | with_reducible refine State.fillFrom_memWf ?_ _ _ _ _ _ | with_reducible refine State.sendPri_memWf ?_ _
    | with_reducible refine State.askedHost_memWf ?_ _ _ | with_reducible refine memWf_foldl ?_ (fun _ _ _ => ?_) | split
theorem execAtsCompletion_memWf {s : State} (h : s.memWf = true)  : OutWf (execAtsCompletion s) := by
  unfold execAtsCompletion
  repeat' first
    | with_reducible assumption | with_reducible refine optWf_some ?_ | with_reducible exact optWf_none
    | with_reducible refine runEvent_memWf _ fun e => ?_ | with_reducible refine State.atsAnswer_memWf ?_ _ _ _ _ _ _ _ | split
theorem State.failParty_memWf {s : State} (h : s.memWf = true) (w : Walk) (a : FaultOwner × LaneMask) : (State.failParty s w a).memWf = true := by
  unfold State.failParty
  repeat' first
    | with_reducible assumption | with_reducible refine State.mapOp_memWf ?_ _ _ | with_reducible refine State.enterLog_memWf ?_ _
    | with_reducible refine State.unresolved_memWf ?_ _ _ _ _ | dsimp only | split
theorem State.walkAgain_memWf {s : State} (h : s.memWf = true) (w : Walk) : (State.walkAgain s w).memWf = true := by
  unfold State.walkAgain
  repeat' first
    | with_reducible assumption | with_reducible refine memWf_cur ?_ | with_reducible refine State.now_memWf ?_ _
    | with_reducible refine State.joinWalk_memWf ?_ _ _ _ _ _ _ _ | with_reducible refine State.dropWalk_memWf ?_ _
    | with_reducible refine memWf_foldl ?_ (fun _ _ _ => ?_) | (simp only [memWf_mk]; with_reducible refine memWf_parts ?_ ?_) | split
theorem State.priAnswer_memWf {s : State} (h : s.memWf = true) (vf : Nat) (pasid : Nat) (va : Nat) (success : Bool) : (State.priAnswer s vf pasid va success).memWf = true := by
  unfold State.priAnswer
  repeat' first
    | with_reducible assumption | with_reducible refine State.dropWalk_memWf ?_ _ | with_reducible refine State.askAts_memWf ?_ _
    | with_reducible refine State.nextPages_memWf ?_ _ | with_reducible refine State.failParty_memWf ?_ _ _
    | with_reducible refine State.walkAgain_memWf ?_ _ | with_reducible refine memWf_foldl ?_ (fun _ _ _ => ?_) | split
theorem execPriResponse_memWf {s : State} (h : s.memWf = true)  : OutWf (execPriResponse s) := by
  unfold execPriResponse
  repeat' first
    | with_reducible assumption | with_reducible refine optWf_some ?_ | with_reducible exact optWf_none
    | with_reducible refine runEvent_memWf _ fun e => ?_ | with_reducible refine State.priAnswer_memWf ?_ _ _ _ _ | split
theorem State.wakeSplit_memWf {s : State} (h : s.memWf = true) (w : Charged) (team : Nat) (gid : Nat) : (State.wakeSplit s w team gid).memWf = true := by
  unfold State.wakeSplit
  repeat' first
    | with_reducible assumption | with_reducible refine State.mapGroup_memWf ?_ _ _ _
theorem State.endWait_memWf {s : State} (h : s.memWf = true) (seat : Nat) (w : Charged) (late : Bool) : (State.endWait s seat w late).memWf = true := by
  unfold State.endWait
  repeat' first
    | with_reducible assumption | with_reducible refine State.now_memWf ?_ _ | with_reducible refine State.mapSeat_memWf ?_ _ _
    | with_reducible refine State.logEvent_memWf ?_ _ _ _ _ _ _ _ _ | with_reducible refine State.mapOp_memWf ?_ _ _
    | with_reducible refine State.pokeCommit_memWf ?_ _ | with_reducible refine State.mapCopy_memWf ?_ _ _
    | with_reducible refine State.stopCopy_memWf ?_ _ _ | with_reducible refine State.globalPiece_memWf ?_ _ _ _
    | with_reducible refine State.refuseHome_memWf ?_ _ _ | with_reducible refine State.settleLaunch_memWf ?_ _
    | with_reducible refine State.refuseBuild_memWf ?_ _ | with_reducible refine State.settleOp_memWf ?_ _
    | with_reducible refine State.wakeSplit_memWf ?_ _ _ _ | dsimp only | split
theorem State.dueWait_memWf {s : State} (h : s.memWf = true) (seat : Nat) (id : Nat) : (State.dueWait s seat id).memWf = true := by
  unfold State.dueWait
  repeat' first
    | with_reducible assumption | with_reducible refine State.at_memWf ?_ _ _ | with_reducible refine State.mapSeat_memWf ?_ _ _
    | with_reducible refine State.endWait_memWf ?_ _ _ _ | dsimp only | split
theorem execChargedWaitDue_memWf {s : State} (h : s.memWf = true)  : OutWf (execChargedWaitDue s) := by
  unfold execChargedWaitDue
  repeat' first
    | with_reducible assumption | with_reducible refine optWf_some ?_ | with_reducible exact optWf_none
    | with_reducible refine runEvent_memWf _ fun e => ?_ | with_reducible refine State.dueWait_memWf ?_ _ _ | split
theorem State.lateWait_memWf {s : State} (h : s.memWf = true) (seat : Nat) (id : Nat) : (State.lateWait s seat id).memWf = true := by
  unfold State.lateWait
  repeat' first
    | with_reducible assumption | with_reducible refine State.mapSeat_memWf ?_ _ _ | with_reducible refine State.endWait_memWf ?_ _ _ _ | split
theorem execLateWaitFreeze_memWf {s : State} (h : s.memWf = true)  : OutWf (execLateWaitFreeze s) := by
  unfold execLateWaitFreeze
  repeat' first
    | with_reducible assumption | with_reducible refine optWf_some ?_ | with_reducible exact optWf_none
    | with_reducible refine runEvent_memWf _ fun e => ?_ | with_reducible refine State.lateWait_memWf ?_ _ _ | split
theorem Team.shift_memWf {t : Team} (h : t.memWf = true) (d : Nat) : (Team.shift d t).memWf = true := by
  unfold Team.shift
  repeat' first
    | with_reducible assumption | (simp only [teamWf_mk]; with_reducible refine teamWf_parts ?_ ?_ ?_ ?_ ?_) | with_reducible refine teamWf_save ?_
    | with_reducible refine teamWf_scratch ?_ | with_reducible refine teamWf_abuf ?_ | with_reducible refine teamWf_wbuf ?_
    | with_reducible refine teamWf_xbuf ?_
theorem State.shiftSeat_memWf {s : State} (h : s.memWf = true) (n : Nat) (d : Nat) : (State.shiftSeat s n d).memWf = true := by
  unfold State.shiftSeat
  repeat' first
    | with_reducible assumption | with_reducible refine memWf_cur ?_ | with_reducible refine memWf_teams ?_ | with_reducible refine memWf_map ?_ ?_
    | (with_reducible intro t ht) | with_reducible refine Team.shift_memWf ?_ _
    | (simp only [memWf_mk]; first | with_reducible refine memWf_parts ?_ ?_ | with_reducible refine memWf_partsTeams ?_ ?_ ?_) | split
theorem State.thaw_memWf {s : State} (h : s.memWf = true) (seat : Nat) : (State.thaw s seat).memWf = true := by
  unfold State.thaw
  repeat' first
    | with_reducible assumption | with_reducible refine State.mapSeat_memWf ?_ _ _ | with_reducible refine State.once_memWf ?_ _ _
    | with_reducible refine State.scheduleAll_memWf ?_ | with_reducible refine State.endWait_memWf ?_ _ _ _
    | with_reducible refine State.shiftSeat_memWf ?_ _ _ | with_reducible refine memWf_foldl ?_ (fun _ _ _ => ?_) | dsimp only | split
theorem execFreezeResume_memWf {s : State} (h : s.memWf = true)  : OutWf (execFreezeResume s) := by
  unfold execFreezeResume
  repeat' first
    | with_reducible assumption | with_reducible refine optWf_some ?_ | with_reducible exact optWf_none
    | with_reducible refine runEvent_memWf _ fun e => ?_ | with_reducible refine State.thaw_memWf ?_ _ | split
theorem execDramRefresh_memWf {s : State} (h : s.memWf = true)  : OutWf (execDramRefresh s) := by
  unfold execDramRefresh
  repeat' first
    | with_reducible assumption | with_reducible refine memWf_cur ?_ | with_reducible refine optWf_some ?_ | with_reducible exact optWf_none
    | with_reducible refine runEvent_memWf _ fun e => ?_ | (simp only [memWf_mk]; with_reducible refine memWf_parts ?_ ?_) | split
theorem State.uncorrectable_memWf {s : State} (h : s.memWf = true) (ow : FaultOwner) (lanes : LaneMask) : (State.uncorrectable s ow lanes).memWf = true := by
  unfold State.uncorrectable
  repeat' first
    | with_reducible assumption | with_reducible refine State.mapOp_memWf ?_ _ _ | with_reducible refine State.stopCopy_memWf ?_ _ _
    | with_reducible refine State.refuseHome_memWf ?_ _ _ | with_reducible refine State.settleOp_memWf ?_ _ | split
theorem State.spoil_memWf {s : State} (h : s.memWf = true) (r : Req) (lasting : Bool) : (State.spoil s r lasting).memWf = true := by
  unfold State.spoil
  repeat' first
    | with_reducible assumption | with_reducible refine State.mapReq_memWf ?_ _ _
theorem State.dramRetry_memWf {s : State} (h : s.memWf = true) (id : Nat) (lasting : Bool) : (State.dramRetry s id lasting).memWf = true := by
  unfold State.dramRetry
  repeat' first
    | with_reducible assumption | with_reducible refine memWf_cur ?_ | with_reducible refine State.logEvent_memWf ?_ _ _ _ _ _ _ _ _
    | with_reducible refine State.mapOp_memWf ?_ _ _ | with_reducible refine State.dropReq_memWf ?_ _
    | with_reducible refine State.resumeOrdered_memWf ?_ | with_reducible refine State.dropWalk_memWf ?_ _
    | with_reducible refine State.uncorrectable_memWf ?_ _ _ | with_reducible refine State.spoil_memWf ?_ _ _
    | with_reducible refine memWf_foldl ?_ (fun _ _ _ => ?_) | (simp only [memWf_mk]; with_reducible refine memWf_parts ?_ ?_) | dsimp only | split
theorem execDramReadRetry_memWf {s : State} (h : s.memWf = true)  : OutWf (execDramReadRetry s) := by
  unfold execDramReadRetry
  repeat' first
    | with_reducible assumption | with_reducible refine optWf_some ?_ | with_reducible exact optWf_none
    | with_reducible refine runEvent_memWf _ fun e => ?_ | with_reducible refine State.dramRetry_memWf ?_ _ _ | split
theorem State.abandon_memWf {s : State} (h : s.memWf = true) (r : Req) : (State.abandon s r).memWf = true := by
  unfold State.abandon
  repeat' first
    | with_reducible assumption | with_reducible refine memWf_cur ?_ | with_reducible refine State.mapOp_memWf ?_ _ _
    | with_reducible refine State.finishOp_memWf ?_ _ | with_reducible refine State.dropReq_memWf ?_ _
    | with_reducible refine State.stopCopy_memWf ?_ _ _ | with_reducible refine State.retireReq_memWf ?_ _
    | with_reducible refine State.takeBad_memWf ?_ _ _ | with_reducible refine State.dropWalk_memWf ?_ _
    | with_reducible refine memWf_foldl ?_ (fun _ _ _ => ?_) | (simp only [memWf_mk]; with_reducible refine memWf_parts ?_ ?_) | split
theorem State.fenceLink_memWf {s : State} (h : s.memWf = true) (st : Struct) (d : Nat) : (State.fenceLink s st d).memWf = true := by
  unfold State.fenceLink
  repeat' first
    | with_reducible assumption | with_reducible refine memWf_cur ?_ | with_reducible refine State.logEvent_memWf ?_ _ _ _ _ _ _ _ _
    | with_reducible refine State.haltTeam_memWf ?_ _ _ _ | with_reducible refine State.abandon_memWf ?_ _
    | with_reducible refine memWf_foldl ?_ (fun _ _ _ => ?_) | (simp only [memWf_mk]; with_reducible refine memWf_parts ?_ ?_)
theorem State.fencePort_memWf {s : State} (h : s.memWf = true) (p : Nat) : (State.fencePort s p).memWf = true := by
  unfold State.fencePort
  repeat' first
    | with_reducible assumption | with_reducible refine memWf_cur ?_ | with_reducible refine State.logEvent_memWf ?_ _ _ _ _ _ _ _ _
    | with_reducible refine State.refusedReply_memWf ?_ _ | with_reducible refine memWf_foldl ?_ (fun _ _ _ => ?_)
    | (simp only [memWf_mk]; with_reducible refine memWf_parts ?_ ?_)
theorem State.meshRetry_memWf {s : State} (h : s.memWf = true) (id : Nat) (lasting : Bool) : (State.meshRetry s id lasting).memWf = true := by
  unfold State.meshRetry
  repeat' first
    | with_reducible assumption | with_reducible refine State.spoil_memWf ?_ _ _ | with_reducible refine State.fenceLink_memWf ?_ _ _
    | with_reducible refine State.fencePort_memWf ?_ _ | dsimp only | split
theorem execMeshFlitRetry_memWf {s : State} (h : s.memWf = true)  : OutWf (execMeshFlitRetry s) := by
  unfold execMeshFlitRetry
  repeat' first
    | with_reducible assumption | with_reducible refine optWf_some ?_ | with_reducible exact optWf_none
    | with_reducible refine runEvent_memWf _ fun e => ?_ | with_reducible refine State.meshRetry_memWf ?_ _ _ | split
theorem execDeferredTrap_memWf {s : State} (h : s.memWf = true)  : OutWf (execDeferredTrap s) := by
  unfold execDeferredTrap
  repeat' first
    | with_reducible assumption | with_reducible refine memWf_cur ?_ | with_reducible refine optWf_some ?_ | with_reducible exact optWf_none
    | with_reducible refine State.onGroup_memWf ?_ _ | with_reducible refine State.focus_memWf ?_ _ _ _ ?_
    | with_reducible refine State.unfocus_memWf ?_ | with_reducible refine State.takeTrap_memWf ?_ _ _
    | with_reducible refine runEvent_memWf _ fun e => ?_ | (simp only [memWf_mk]; with_reducible refine memWf_parts ?_ ?_)
    | with_reducible exact memWf_find ‹_› ‹_› | dsimp only | split
theorem execIllegalInstruction_memWf {s : State} (h : s.memWf = true)  : OutWf (execIllegalInstruction s) := by
  unfold execIllegalInstruction
  repeat' first
    | with_reducible assumption | with_reducible refine memWf_cur ?_ | with_reducible refine optWf_some ?_ | with_reducible exact optWf_none
    | with_reducible refine State.trapWord_memWf ?_ _ | with_reducible refine runEvent_memWf _ fun e => ?_
    | (simp only [memWf_mk]; with_reducible refine memWf_parts ?_ ?_) | dsimp only | split

/-! ### Machine/Seats.lean -/

theorem State.answer_memWf {s : State} (h : s.memWf = true) (ws : List W64) : (State.answer s ws).memWf = true := by
  unfold State.answer
  repeat' first
    | with_reducible assumption | with_reducible refine memWf_cur ?_ | (simp only [memWf_mk]; with_reducible refine memWf_parts ?_ ?_)
theorem State.status_memWf {s : State} (h : s.memWf = true) (n : Nat) : (State.status s n).memWf = true := by
  unfold State.status
  repeat' first
    | with_reducible assumption | with_reducible refine State.answer_memWf ?_ _
theorem State.command_memWf {s : State} (h : s.memWf = true) (f : State → State) (hf : ∀ s, s.memWf = true → (f s).memWf = true) :
    (s.command f).memWf = true := by
  unfold State.command
  split
  · exact hf s h
  · exact State.status_memWf h _
theorem State.admitNow_memWf {s : State} (h : s.memWf = true) (seat : Nat) (a : Nat) : (State.admitNow s seat a).memWf = true := by
  unfold State.admitNow
  repeat' first
    | with_reducible assumption | with_reducible refine memWf_cur ?_ | with_reducible refine State.at_memWf ?_ _ _
    | with_reducible refine State.status_memWf ?_ _ | (simp only [memWf_mk]; with_reducible refine memWf_parts ?_ ?_) | dsimp only | split
theorem execAdmitSeat_memWf {s : State} (h : s.memWf = true)  : OutWf (execAdmitSeat s) := by
  unfold execAdmitSeat
  repeat' first
    | with_reducible assumption | (with_reducible intro t ht) | with_reducible refine optWf_some ?_ | with_reducible exact optWf_none
    | with_reducible refine runEvent_memWf _ fun e => ?_ | with_reducible refine State.command_memWf ?_ _ ?_
    | with_reducible refine State.admitNow_memWf ?_ _ _ | split
theorem State.pokeSeat_memWf {s : State} (h : s.memWf = true) (n : Nat) : (State.pokeSeat s n).memWf = true := by
  unfold State.pokeSeat
  repeat' first
    | with_reducible assumption | with_reducible refine State.once_memWf ?_ _ _ | with_reducible refine State.pokeRing_memWf ?_ _ _ _
    | with_reducible refine State.pokeEngine_memWf ?_ _ _ _ | with_reducible refine State.pokeCarve_memWf ?_ _ _ _
    | with_reducible refine memWf_foldl ?_ (fun _ _ _ => ?_) | dsimp only | split
theorem State.seatFunction_memWf {s : State} (h : s.memWf = true) (n : Nat) (vf : Nat) (v : Nat) : (State.seatFunction s n vf v).memWf = true := by
  unfold State.seatFunction
  repeat' first
    | with_reducible assumption | with_reducible refine memWf_cur ?_ | with_reducible refine State.mapSeat_memWf ?_ _ _
    | with_reducible refine State.once_memWf ?_ _ _ | with_reducible refine State.pokeSeat_memWf ?_ _
    | (simp only [memWf_mk]; with_reducible refine memWf_parts ?_ ?_) | dsimp only | split
theorem State.seatNow_memWf {s : State} (h : s.memWf = true) (n : Nat) : (State.seatNow s n).memWf = true := by
  unfold State.seatNow
  repeat' first
    | with_reducible assumption | with_reducible refine memWf_cur ?_ | with_reducible refine State.once_memWf ?_ _ _
    | with_reducible refine State.scheduleAll_memWf ?_ | with_reducible refine State.seatFunction_memWf ?_ _ _ _
    | with_reducible refine memWf_foldl ?_ (fun _ _ _ => ?_) | (simp only [memWf_mk]; with_reducible refine memWf_parts ?_ ?_) | dsimp only | split
theorem execSeating_memWf {s : State} (h : s.memWf = true)  : OutWf (execSeating s) := by
  unfold execSeating
  repeat' first
    | with_reducible assumption | with_reducible refine optWf_some ?_ | with_reducible exact optWf_none
    | with_reducible refine runEvent_memWf _ fun e => ?_ | with_reducible refine State.seatNow_memWf ?_ _ | split
theorem State.endQuantum_memWf {s : State} (h : s.memWf = true) (n : Nat) : (State.endQuantum s n).memWf = true := by
  unfold State.endQuantum
  repeat' first
    | with_reducible assumption | with_reducible refine State.at_memWf ?_ _ _ | with_reducible refine State.mapSeat_memWf ?_ _ _
    | with_reducible refine State.once_memWf ?_ _ _ | dsimp only | split
theorem execQuantumEnd_memWf {s : State} (h : s.memWf = true)  : OutWf (execQuantumEnd s) := by
  unfold execQuantumEnd
  repeat' first
    | with_reducible assumption | with_reducible refine optWf_some ?_ | with_reducible exact optWf_none
    | with_reducible refine runEvent_memWf _ fun e => ?_ | with_reducible refine State.endQuantum_memWf ?_ _ | split
theorem State.putAway_memWf {s : State} (h : s.memWf = true) (x : Seat) : (State.putAway s x).memWf = true := by
  unfold State.putAway
  repeat' first
    | with_reducible assumption | with_reducible refine memWf_cur ?_ | with_reducible refine State.mapSeat_memWf ?_ _ _
    | with_reducible refine State.saveImage_memWf ?_ _ | with_reducible refine memWf_foldl ?_ (fun _ _ _ => ?_)
    | (simp only [memWf_mk]; with_reducible refine memWf_parts ?_ ?_)
theorem State.bringBack_memWf {s : State} (h : s.memWf = true) (n : Nat) (vf : Nat) : (State.bringBack s n vf).memWf = true := by
  unfold State.bringBack
  repeat' first
    | with_reducible assumption | with_reducible refine memWf_cur ?_ | (with_reducible intro t ht)
    | with_reducible refine State.mapTeam_memWf ?_ _ _ ?_ | with_reducible refine State.setSlot_memWf ?_ _ _
    | with_reducible refine State.nowDue_memWf ?_ _ | with_reducible refine State.checkTiles_memWf ?_ _
    | with_reducible refine memWf_foldl ?_ (fun _ _ _ => ?_) | (simp only [memWf_mk]; with_reducible refine memWf_parts ?_ ?_)
    | (simp only [teamWf_mk]; with_reducible refine teamWf_parts ?_ ?_ ?_ ?_ ?_) | with_reducible exact saveWf_none
    | with_reducible refine teamWf_scratch ?_ | with_reducible refine teamWf_abuf ?_ | with_reducible refine teamWf_wbuf ?_
    | with_reducible refine teamWf_xbuf ?_ | dsimp only | split
theorem State.retryHome_memWf {s : State} (h : s.memWf = true) (vf : Nat) (i : Nat) : (State.retryHome s vf i).memWf = true := by
  unfold State.retryHome
  repeat' first
    | with_reducible assumption | with_reducible refine State.homeWrite_memWf ?_ _ | dsimp only | split
theorem State.endSwitch_memWf {s : State} (h : s.memWf = true) (n : Nat) : (State.endSwitch s n).memWf = true := by
  unfold State.endSwitch
  repeat' first
    | with_reducible assumption | with_reducible refine State.logEvent_memWf ?_ _ _ _ _ _ _ _ _
    | with_reducible refine State.seatFunction_memWf ?_ _ _ _ | with_reducible refine State.putAway_memWf ?_ _
    | with_reducible refine State.bringBack_memWf ?_ _ _ | with_reducible refine State.retryHome_memWf ?_ _ _
    | with_reducible refine memWf_foldl ?_ (fun _ _ _ => ?_) | dsimp only | split
theorem execSwitchComplete_memWf {s : State} (h : s.memWf = true)  : OutWf (execSwitchComplete s) := by
  unfold execSwitchComplete
  repeat' first
    | with_reducible assumption | with_reducible refine optWf_some ?_ | with_reducible exact optWf_none
    | with_reducible refine runEvent_memWf _ fun e => ?_ | with_reducible refine State.endSwitch_memWf ?_ _ | split
theorem execQtable_memWf {s : State} (h : s.memWf = true)  : OutWf (execQtable s) := by
  unfold execQtable
  repeat' first
    | with_reducible assumption | (with_reducible intro t ht) | with_reducible refine optWf_some ?_ | with_reducible exact optWf_none
    | with_reducible refine State.mapSeat_memWf ?_ _ _ | with_reducible refine runEvent_memWf _ fun e => ?_
    | with_reducible refine State.status_memWf ?_ _ | with_reducible refine State.command_memWf ?_ _ ?_ | split
theorem State.leaseNow_memWf {s : State} (h : s.memWf = true) (lender : Nat) (w2 : W64) (lmap : W64) (first : W64) (count : W64) : (State.leaseNow s lender w2 lmap first count).memWf = true := by
  unfold State.leaseNow
  repeat' first
    | with_reducible assumption | with_reducible refine State.at_memWf ?_ _ _ | with_reducible refine State.mapSeat_memWf ?_ _ _
    | with_reducible refine State.status_memWf ?_ _ | dsimp only | split
theorem execLease_memWf {s : State} (h : s.memWf = true)  : OutWf (execLease s) := by
  unfold execLease
  repeat' first
    | with_reducible assumption | (with_reducible intro t ht) | with_reducible refine optWf_some ?_ | with_reducible exact optWf_none
    | with_reducible refine runEvent_memWf _ fun e => ?_ | with_reducible refine State.command_memWf ?_ _ ?_
    | with_reducible refine State.leaseNow_memWf ?_ _ _ _ _ _ | split
theorem State.pokeLease_memWf {s : State} (h : s.memWf = true) (a : Nat) (b : Nat) : (State.pokeLease s a b).memWf = true := by
  unfold State.pokeLease
  repeat' first
    | with_reducible assumption | with_reducible refine State.once_memWf ?_ _ _ | with_reducible refine State.scheduleAll_memWf ?_
    | with_reducible refine State.pokeEngine_memWf ?_ _ _ _ | with_reducible refine memWf_foldl ?_ (fun _ _ _ => ?_)
theorem execLeaseBegin_memWf {s : State} (h : s.memWf = true)  : OutWf (execLeaseBegin s) := by
  unfold execLeaseBegin
  repeat' first
    | with_reducible assumption | with_reducible refine optWf_some ?_ | with_reducible exact optWf_none
    | with_reducible refine runEvent_memWf _ fun e => ?_ | with_reducible refine State.pokeLease_memWf ?_ _ _ | split
theorem execLeaseEnd_memWf {s : State} (h : s.memWf = true)  : OutWf (execLeaseEnd s) := by
  unfold execLeaseEnd
  repeat' first
    | with_reducible assumption | with_reducible refine optWf_some ?_ | with_reducible exact optWf_none
    | with_reducible refine State.mapSeat_memWf ?_ _ _ | with_reducible refine runEvent_memWf _ fun e => ?_
    | with_reducible refine State.pokeLease_memWf ?_ _ _ | split
theorem execEvict_memWf {s : State} (h : s.memWf = true)  : OutWf (execEvict s) := by
  unfold execEvict
  repeat' first
    | with_reducible assumption | (with_reducible intro t ht) | with_reducible refine optWf_some ?_ | with_reducible exact optWf_none
    | with_reducible refine State.mapSeat_memWf ?_ _ _ | with_reducible refine runEvent_memWf _ fun e => ?_
    | with_reducible refine State.status_memWf ?_ _ | with_reducible refine State.command_memWf ?_ _ ?_ | split
theorem State.dropSeat_memWf {s : State} (h : s.memWf = true) (x : Seat) : (State.dropSeat s x).memWf = true := by
  unfold State.dropSeat
  repeat' first
    | with_reducible assumption | with_reducible refine memWf_cur ?_ | (simp only [memWf_mk]; with_reducible refine memWf_parts ?_ ?_)
theorem State.evictNow_memWf {s : State} (h : s.memWf = true) (n : Nat) : (State.evictNow s n).memWf = true := by
  unfold State.evictNow
  repeat' first
    | with_reducible assumption | with_reducible refine memWf_cur ?_ | with_reducible refine State.mapSeat_memWf ?_ _ _
    | with_reducible refine State.haltTeam_memWf ?_ _ _ _ | with_reducible refine State.dropSeat_memWf ?_ _
    | with_reducible refine memWf_foldl ?_ (fun _ _ _ => ?_) | (simp only [memWf_mk]; with_reducible refine memWf_parts ?_ ?_) | dsimp only | split
theorem execSeatEviction_memWf {s : State} (h : s.memWf = true)  : OutWf (execSeatEviction s) := by
  unfold execSeatEviction
  repeat' first
    | with_reducible assumption | with_reducible refine optWf_some ?_ | with_reducible exact optWf_none
    | with_reducible refine runEvent_memWf _ fun e => ?_ | with_reducible refine State.evictNow_memWf ?_ _ | split
theorem State.moveTeam_memWf {s : State} (h : s.memWf = true) (n : Nat) (m : Nat × Nat) : (State.moveTeam s n m).memWf = true := by
  unfold State.moveTeam
  repeat' first
    | with_reducible assumption | (with_reducible intro t ht) | with_reducible refine State.fresh_memWf ?_
    | with_reducible refine State.mapTeam_memWf ?_ _ _ ?_ | with_reducible refine State.pokeCarve_memWf ?_ _ _ _
    | (simp only [teamWf_mk]; with_reducible refine teamWf_parts ?_ ?_ ?_ ?_ ?_) | with_reducible refine teamWf_save ?_
    | with_reducible refine teamWf_scratch ?_ | with_reducible refine teamWf_abuf ?_ | with_reducible refine teamWf_wbuf ?_
    | with_reducible refine teamWf_xbuf ?_ | split
theorem State.balance_memWf {s : State} (h : s.memWf = true) (n : Nat) : (State.balance s n).memWf = true := by
  unfold State.balance
  repeat' first
    | with_reducible assumption | with_reducible refine State.mapSeat_memWf ?_ _ _ | with_reducible refine State.once_memWf ?_ _ _
    | with_reducible refine State.moveTeam_memWf ?_ _ _ | with_reducible refine memWf_foldl ?_ (fun _ _ _ => ?_) | dsimp only | split
theorem execLoadBalance_memWf {s : State} (h : s.memWf = true)  : OutWf (execLoadBalance s) := by
  unfold execLoadBalance
  repeat' first
    | with_reducible assumption | with_reducible refine optWf_some ?_ | with_reducible exact optWf_none
    | with_reducible refine runEvent_memWf _ fun e => ?_ | with_reducible refine State.balance_memWf ?_ _ | split
theorem execRunmode_memWf {s : State} (h : s.memWf = true)  : OutWf (execRunmode s) := by
  unfold execRunmode
  repeat' first
    | with_reducible assumption | with_reducible refine memWf_cur ?_ | (with_reducible intro t ht) | with_reducible refine optWf_some ?_
    | with_reducible exact optWf_none | with_reducible refine runEvent_memWf _ fun e => ?_ | with_reducible refine State.status_memWf ?_ _
    | with_reducible refine State.command_memWf ?_ _ ?_ | (simp only [memWf_mk]; with_reducible refine memWf_parts ?_ ?_) | dsimp only | split
theorem execPreempt_memWf {s : State} (h : s.memWf = true)  : OutWf (execPreempt s) := by
  unfold execPreempt
  repeat' first
    | with_reducible assumption | (with_reducible intro t ht) | with_reducible refine optWf_some ?_ | with_reducible exact optWf_none
    | with_reducible refine State.at_memWf ?_ _ _ | with_reducible refine runEvent_memWf _ fun e => ?_ | with_reducible refine State.status_memWf ?_ _
    | with_reducible refine State.command_memWf ?_ _ ?_ | split
theorem execResume_memWf {s : State} (h : s.memWf = true)  : OutWf (execResume s) := by
  unfold execResume
  repeat' first
    | with_reducible assumption | with_reducible refine memWf_cur ?_ | (with_reducible intro t ht) | with_reducible refine optWf_some ?_
    | with_reducible exact optWf_none | with_reducible refine runEvent_memWf _ fun e => ?_ | with_reducible refine State.status_memWf ?_ _
    | with_reducible refine State.command_memWf ?_ _ ?_ | with_reducible refine State.pokeSeat_memWf ?_ _
    | with_reducible refine memWf_foldl ?_ (fun _ _ _ => ?_) | (simp only [memWf_mk]; with_reducible refine memWf_parts ?_ ?_) | dsimp only | split
theorem State.deal_memWf {s : State} (h : s.memWf = true) (t : Team) (d : Dealt) : (State.deal s t d).memWf = true := by
  unfold State.deal
  repeat' first
    | with_reducible assumption | (with_reducible intro t ht) | with_reducible refine State.now_memWf ?_ _
    | with_reducible refine State.mapTeam_memWf ?_ _ _ ?_ | with_reducible refine State.finishOp_memWf ?_ _
    | with_reducible refine State.undoPlane_memWf ?_ _ | with_reducible refine State.drain_memWf ?_ _ _
    | with_reducible refine State.withdrawArms_memWf ?_ _ | with_reducible refine memWf_foldl ?_ (fun _ _ _ => ?_)
    | (simp only [teamWf_mk]; with_reducible refine teamWf_parts ?_ ?_ ?_ ?_ ?_) | with_reducible refine teamWf_save ?_
    | with_reducible refine teamWf_scratch ?_ | with_reducible refine teamWf_abuf ?_ | with_reducible refine teamWf_wbuf ?_
    | with_reducible refine teamWf_xbuf ?_ | dsimp only | split
theorem State.preemptNow_memWf {s : State} (h : s.memWf = true) (rcb : Nat) (limit : Nat) : (State.preemptNow s rcb limit).memWf = true := by
  unfold State.preemptNow
  repeat' first
    | with_reducible assumption | with_reducible refine memWf_cur ?_ | with_reducible refine State.logEvent_memWf ?_ _ _ _ _ _ _ _ _
    | with_reducible refine State.pokeCarve_memWf ?_ _ _ _ | with_reducible refine State.answer_memWf ?_ _
    | with_reducible refine State.deal_memWf ?_ _ _ | with_reducible refine memWf_foldl ?_ (fun _ _ _ => ?_)
    | (simp only [memWf_mk]; with_reducible refine memWf_parts ?_ ?_) | split
theorem State.deliverPreempt_memWf {s : State} (h : s.memWf = true) (rcb : Nat) (limit : W64) : (State.deliverPreempt s rcb limit).memWf = true := by
  unfold State.deliverPreempt
  repeat' first
    | with_reducible assumption | with_reducible refine State.at_memWf ?_ _ _ | with_reducible refine State.preemptNow_memWf ?_ _ _ | split
theorem execPreemptDelivery_memWf {s : State} (h : s.memWf = true)  : OutWf (execPreemptDelivery s) := by
  unfold execPreemptDelivery
  repeat' first
    | with_reducible assumption | with_reducible refine optWf_some ?_ | with_reducible exact optWf_none
    | with_reducible refine runEvent_memWf _ fun e => ?_ | with_reducible refine State.deliverPreempt_memWf ?_ _ _ | split
theorem State.boundary_memWf {s : State} (h : s.memWf = true)  : (State.boundary s).memWf = true := by
  unfold State.boundary
  repeat' first
    | with_reducible assumption | with_reducible refine State.once_memWf ?_ _ _ | with_reducible refine memWf_foldl ?_ (fun _ _ _ => ?_) | dsimp only
    | split
theorem execFrameBoundary_memWf {s : State} (h : s.memWf = true)  : OutWf (execFrameBoundary s) := by
  unfold execFrameBoundary
  repeat' first
    | with_reducible assumption | with_reducible refine optWf_some ?_ | with_reducible exact optWf_none
    | with_reducible refine runEvent_memWf _ fun e => ?_ | with_reducible refine State.boundary_memWf ?_ | split

/-! ### Machine/Queues.lean -/

theorem State.mapQueue_memWf {s : State} (h : s.memWf = true) (vf : Nat) (q : Nat) (f : Queue → Queue) : (State.mapQueue s vf q f).memWf = true := by
  unfold State.mapQueue
  repeat' first
    | with_reducible assumption | with_reducible refine memWf_cur ?_ | (simp only [memWf_mk]; with_reducible refine memWf_parts ?_ ?_)
theorem State.setHead_memWf {s : State} (hwf : s.memWf = true) (k : Queue) (h : W32) : (State.setHead s k h).memWf = true := by
  unfold State.setHead
  repeat' first
    | with_reducible assumption | with_reducible refine memWf_cur ?_ | with_reducible refine write_wf _ _ _ ?_
    | (simp only [memWf_mk]; first | with_reducible refine memWf_parts ?_ ?_ | with_reducible refine memWf_partsMem ?_ ?_ ?_)
    | with_reducible refine memWf_mem ?_
theorem State.setQState_memWf {s : State} (h : s.memWf = true) (k : Queue) (st : Nat) (hstat : Nat) : (State.setQState s k st hstat).memWf = true := by
  unfold State.setQState
  repeat' first
    | with_reducible assumption | with_reducible refine memWf_cur ?_ | with_reducible refine write_wf _ _ _ ?_
    | (simp only [memWf_mk]; first | with_reducible refine memWf_parts ?_ ?_ | with_reducible refine memWf_partsMem ?_ ?_ ?_)
    | with_reducible refine memWf_mem ?_
theorem State.qComplete_memWf {s : State} (h : s.memWf = true) (k : Queue) (status : Nat) (info : W64) : (State.qComplete s k status info).memWf = true := by
  unfold State.qComplete
  repeat' first
    | with_reducible assumption | with_reducible refine State.complete_memWf ?_ _ _ _ _
theorem State.haltQueue_memWf {s : State} (h : s.memWf = true) (k : Queue) (status : Nat) : (State.haltQueue s k status).memWf = true := by
  unfold State.haltQueue
  repeat' first
    | with_reducible assumption | with_reducible refine State.mapQueue_memWf ?_ _ _ _ | with_reducible refine State.setQState_memWf ?_ _ _ _
    | with_reducible refine State.qComplete_memWf ?_ _ _ _
theorem State.pokeQueues_memWf {s : State} (h : s.memWf = true)  : (State.pokeQueues s).memWf = true := by
  unfold State.pokeQueues
  repeat' first
    | with_reducible assumption | with_reducible refine State.at_memWf ?_ _ _ | with_reducible refine State.draw_memWf ?_ | dsimp only | split
theorem State.advanceFrom_memWf {s : State} (h : s.memWf = true) (vf q n : Nat) : (s.advanceFrom vf q n).memWf = true := by
  induction n generalizing s with
  | zero => exact h
  | succ n ih =>
    unfold State.advanceFrom
    split
    · exact h
    · split
      · exact State.setHead_memWf h _ _
      · split
        · exact State.mapQueue_memWf h _ _ _
        · refine ih ?_
          have hm : ∀ f, (s.mapQueue vf q f).memWf = true := fun f => State.mapQueue_memWf h _ _ _
          split
          · split
            · split
              · exact State.qComplete_memWf (hm _) _ _ _
              · exact hm _
            · exact hm _
          · exact hm _
theorem State.nextCommand_memWf {s : State} (h : s.memWf = true) (k : Queue) : (State.nextCommand s k).memWf = true := by
  unfold State.nextCommand
  repeat' first
    | with_reducible assumption | with_reducible refine State.mapQueue_memWf ?_ _ _ _ | with_reducible refine State.setQState_memWf ?_ _ _ _
    | with_reducible refine State.pokeQueues_memWf ?_ | with_reducible refine State.advanceFrom_memWf ?_ _ _ _ | dsimp only | split
theorem State.doneCommand_memWf {s : State} (h : s.memWf = true) (k : Queue) (a : Nat) (info : W64) : (State.doneCommand s k a info).memWf = true := by
  unfold State.doneCommand
  repeat' first
    | with_reducible assumption | with_reducible refine State.qComplete_memWf ?_ _ _ _ | with_reducible refine State.nextCommand_memWf ?_ _ | split
theorem queueRun_memWf {s : State} (h : s.memWf = true) (vf q : Nat) (op : Option Nat) (f : Queue → Nat → State)
    (hf : ∀ k a, (f k a).memWf = true) : (queueRun s vf q op f).memWf = true := by
  unfold queueRun
  split
  · exact State.pokeQueues_memWf h
  · split
    · split
      · exact hf _ _
      · exact State.pokeQueues_memWf h
    · exact State.pokeQueues_memWf h
theorem execQueueNop_memWf {s : State} (h : s.memWf = true)  : OutWf (execQueueNop s) := by
  unfold execQueueNop
  repeat' first
    | with_reducible assumption | with_reducible refine optWf_some ?_ | with_reducible exact optWf_none
    | with_reducible refine runEvent_memWf _ fun e => ?_ | with_reducible refine State.haltQueue_memWf ?_ _ _
    | with_reducible refine State.pokeQueues_memWf ?_ | with_reducible refine State.doneCommand_memWf ?_ _ _ _
    | with_reducible refine queueRun_memWf ?_ _ _ _ _ (fun _ _ => ?_) | split
theorem State.awaitHost_memWf {s : State} (h : s.memWf = true) (k : Queue) (x : Seat) (asid : Nat) (va : Nat) (write : Bool) : (State.awaitHost s k x asid va write).memWf = true := by
  unfold State.awaitHost
  repeat' first
    | with_reducible assumption | with_reducible refine memWf_cur ?_ | with_reducible refine State.fresh_memWf ?_
    | with_reducible refine State.askAts_memWf ?_ _ | with_reducible refine State.mapQueue_memWf ?_ _ _ _
    | with_reducible refine State.pokeQueues_memWf ?_ | (simp only [memWf_mk]; with_reducible refine memWf_parts ?_ ?_) | dsimp only | split
theorem State.awaitPage_memWf {s : State} (h : s.memWf = true) (k : Queue) (x : Seat) (r : Region) (va : Nat) (write : Bool) : (State.awaitPage s k x r va write).memWf = true := by
  unfold State.awaitPage
  repeat' first
    | with_reducible assumption | with_reducible refine memWf_cur ?_ | with_reducible refine State.recordFault_memWf ?_ _ _ _ _ _ _
    | with_reducible refine State.mapQueue_memWf ?_ _ _ _ | with_reducible refine State.pokeQueues_memWf ?_
    | (simp only [memWf_mk]; with_reducible refine memWf_parts ?_ ?_)
theorem execSignal_memWf {s : State} (h : s.memWf = true)  : OutWf (execSignal s) := by
  unfold execSignal
  repeat' first
    | with_reducible assumption | with_reducible refine optWf_some ?_ | with_reducible exact optWf_none
    | with_reducible refine State.writeAt_memWf ?_ _ _ | with_reducible refine runEvent_memWf _ fun e => ?_
    | with_reducible refine State.haltQueue_memWf ?_ _ _ | with_reducible refine State.pokeQueues_memWf ?_
    | with_reducible refine State.doneCommand_memWf ?_ _ _ _ | with_reducible refine queueRun_memWf ?_ _ _ _ _ (fun _ _ => ?_)
    | with_reducible refine State.awaitHost_memWf ?_ _ _ _ _ _ | with_reducible refine State.awaitPage_memWf ?_ _ _ _ _ _ | dsimp only | split
theorem execWait_memWf {s : State} (h : s.memWf = true)  : OutWf (execWait s) := by
  unfold execWait
  repeat' first
    | with_reducible assumption | with_reducible refine optWf_some ?_ | with_reducible exact optWf_none
    | with_reducible refine runEvent_memWf _ fun e => ?_ | with_reducible refine State.mapQueue_memWf ?_ _ _ _
    | with_reducible refine State.haltQueue_memWf ?_ _ _ | with_reducible refine State.pokeQueues_memWf ?_
    | with_reducible refine State.doneCommand_memWf ?_ _ _ _ | with_reducible refine queueRun_memWf ?_ _ _ _ _ (fun _ _ => ?_)
    | with_reducible refine State.awaitHost_memWf ?_ _ _ _ _ _ | with_reducible refine State.awaitPage_memWf ?_ _ _ _ _ _ | dsimp only | split
theorem execWaitReread_memWf {s : State} (h : s.memWf = true)  : OutWf (execWaitReread s) := by
  unfold execWaitReread
  repeat' first
    | with_reducible assumption | with_reducible refine optWf_some ?_ | with_reducible exact optWf_none
    | with_reducible refine runEvent_memWf _ fun e => ?_ | with_reducible refine State.mapQueue_memWf ?_ _ _ _
    | with_reducible refine State.haltQueue_memWf ?_ _ _ | with_reducible refine State.pokeQueues_memWf ?_
    | with_reducible refine State.doneCommand_memWf ?_ _ _ _ | with_reducible refine State.awaitHost_memWf ?_ _ _ _ _ _
    | with_reducible refine State.awaitPage_memWf ?_ _ _ _ _ _ | split
theorem execIndirect_memWf {s : State} (h : s.memWf = true)  : OutWf (execIndirect s) := by
  unfold execIndirect
  repeat' first
    | with_reducible assumption | with_reducible refine optWf_some ?_ | with_reducible exact optWf_none
    | with_reducible refine runEvent_memWf _ fun e => ?_ | with_reducible refine State.mapQueue_memWf ?_ _ _ _
    | with_reducible refine State.haltQueue_memWf ?_ _ _ | with_reducible refine State.pokeQueues_memWf ?_
    | with_reducible refine queueRun_memWf ?_ _ _ _ _ (fun _ _ => ?_) | dsimp only | split
theorem State.refuseLaunch_memWf {s : State} (h : s.memWf = true) (k : Queue) (status : Nat) (tag : W64) : (State.refuseLaunch s k status tag).memWf = true := by
  unfold State.refuseLaunch
  repeat' first
    | with_reducible assumption | with_reducible refine State.qComplete_memWf ?_ _ _ _ | with_reducible refine State.nextCommand_memWf ?_ _
theorem State.prepare_memWf {s : State} (h : s.memWf = true) (k : Queue) (a : Nat) : (State.prepare s k a).memWf = true := by
  unfold State.prepare
  repeat' first
    | with_reducible assumption | with_reducible refine memWf_cur ?_ | with_reducible refine State.at_memWf ?_ _ _
    | with_reducible refine State.fresh_memWf ?_ | with_reducible refine State.mapQueue_memWf ?_ _ _ _
    | with_reducible refine State.nextCommand_memWf ?_ _ | with_reducible refine State.awaitHost_memWf ?_ _ _ _ _ _
    | with_reducible refine State.awaitPage_memWf ?_ _ _ _ _ _ | with_reducible refine State.refuseLaunch_memWf ?_ _ _ _
    | (simp only [memWf_mk]; with_reducible refine memWf_parts ?_ ?_) | dsimp only | split
theorem execQueueLaunch_memWf {s : State} (h : s.memWf = true)  : OutWf (execQueueLaunch s) := by
  unfold execQueueLaunch
  repeat' first
    | with_reducible assumption | with_reducible refine optWf_some ?_ | with_reducible exact optWf_none
    | with_reducible refine runEvent_memWf _ fun e => ?_ | with_reducible refine queueRun_memWf ?_ _ _ _ _ (fun _ _ => ?_)
    | with_reducible refine State.prepare_memWf ?_ _ _ | split
theorem State.refuseDelivered_memWf {s : State} (h : s.memWf = true) (g : Grid) (status : Nat) : (State.refuseDelivered s g status).memWf = true := by
  unfold State.refuseDelivered
  repeat' first
    | with_reducible assumption | with_reducible refine State.refuseGrid_memWf ?_ _ _ | with_reducible refine State.mapQueue_memWf ?_ _ _ _
    | with_reducible refine State.pokeQueues_memWf ?_ | dsimp only | split
theorem State.placeLaunch_memWf {s : State} (h : s.memWf = true) (g : Grid) : (State.placeLaunch s g).memWf = true := by
  unfold State.placeLaunch
  repeat' first
    | with_reducible assumption | with_reducible refine memWf_cur ?_ | with_reducible refine State.pokeWaiting_memWf ?_
    | with_reducible refine State.startGrid_memWf ?_ _ _ | with_reducible refine State.countGrid_memWf ?_ _ _
    | with_reducible refine State.pokeQueues_memWf ?_ | with_reducible refine State.refuseDelivered_memWf ?_ _ _
    | (simp only [memWf_mk]; with_reducible refine memWf_parts ?_ ?_) | dsimp only | split
theorem State.deliver_memWf {s : State} (h : s.memWf = true) (id : Nat) : (State.deliver s id).memWf = true := by
  unfold State.deliver
  repeat' first
    | with_reducible assumption | with_reducible refine memWf_cur ?_ | with_reducible refine State.at_memWf ?_ _ _
    | with_reducible refine State.logEvent_memWf ?_ _ _ _ _ _ _ _ _ | with_reducible refine State.placeLaunch_memWf ?_ _
    | (simp only [memWf_mk]; with_reducible refine memWf_parts ?_ ?_) | dsimp only | split
theorem execLaunchDelivery_memWf {s : State} (h : s.memWf = true)  : OutWf (execLaunchDelivery s) := by
  unfold execLaunchDelivery
  repeat' first
    | with_reducible assumption | with_reducible refine optWf_some ?_ | with_reducible exact optWf_none
    | with_reducible refine runEvent_memWf _ fun e => ?_ | with_reducible refine State.deliver_memWf ?_ _ | split
theorem State.endGrid_memWf {s : State} (h : s.memWf = true) (id : Nat) : (State.endGrid s id).memWf = true := by
  unfold State.endGrid
  repeat' first
    | with_reducible assumption | with_reducible refine State.complete_memWf ?_ _ _ _ _ | with_reducible refine State.pokeCommit_memWf ?_ _
    | with_reducible refine State.dropGrid_memWf ?_ _ | with_reducible refine State.mapQueue_memWf ?_ _ _ _
    | with_reducible refine State.pokeQueues_memWf ?_ | dsimp only | split
theorem execGridEnd_memWf {s : State} (h : s.memWf = true)  : OutWf (execGridEnd s) := by
  unfold execGridEnd
  repeat' first
    | with_reducible assumption | with_reducible refine optWf_some ?_ | with_reducible exact optWf_none
    | with_reducible refine runEvent_memWf _ fun e => ?_ | with_reducible refine State.pokeWaiting_memWf ?_
    | with_reducible refine State.pokeQueues_memWf ?_ | with_reducible refine State.endGrid_memWf ?_ _ | split
theorem State.pokeCompletions_memWf {s : State} (h : s.memWf = true) (p : Completion → Bool) : (State.pokeCompletions s p).memWf = true := by
  unfold State.pokeCompletions
  repeat' first
    | with_reducible assumption | with_reducible refine State.once_memWf ?_ _ _ | with_reducible refine memWf_foldl ?_ (fun _ _ _ => ?_)
theorem State.startQueue_memWf {s : State} (h : s.memWf = true) (k : Queue) : (State.startQueue s k).memWf = true := by
  unfold State.startQueue
  repeat' first
    | with_reducible assumption | with_reducible refine State.haltQueue_memWf ?_ _ _ | with_reducible refine State.pokeQueues_memWf ?_ | split
theorem State.ring_memWf {s : State} (h : s.memWf = true) (vf : Nat) (q : Nat) (tail : W32) : (State.ring s vf q tail).memWf = true := by
  unfold State.ring
  repeat' first
    | with_reducible assumption | with_reducible refine memWf_cur ?_ | with_reducible refine write_wf _ _ _ ?_
    | with_reducible refine State.setQState_memWf ?_ _ _ _ | with_reducible refine State.pokeCompletions_memWf ?_ _
    | with_reducible refine State.startQueue_memWf ?_ _
    | (simp only [memWf_mk]; first | with_reducible refine memWf_parts ?_ ?_ | with_reducible refine memWf_partsMem ?_ ?_ ?_)
    | with_reducible refine memWf_mem ?_ | dsimp only | split
theorem execDoorbellWrite_memWf {s : State} (h : s.memWf = true)  : OutWf (execDoorbellWrite s) := by
  unfold execDoorbellWrite
  repeat' first
    | with_reducible assumption | with_reducible refine optWf_some ?_ | with_reducible exact optWf_none
    | with_reducible refine runEvent_memWf _ fun e => ?_ | with_reducible refine State.ring_memWf ?_ _ _ _ | split
theorem State.addDoor_memWf {s : State} (h : s.memWf = true) (vf : Nat) (v : W32) : (State.addDoor s vf v).memWf = true := by
  unfold State.addDoor
  repeat' first
    | with_reducible assumption | with_reducible refine memWf_cur ?_ | (simp only [memWf_mk]; with_reducible refine memWf_parts ?_ ?_)
theorem execDoorcntWrite_memWf {s : State} (h : s.memWf = true)  : OutWf (execDoorcntWrite s) := by
  unfold execDoorcntWrite
  repeat' first
    | with_reducible assumption | with_reducible refine optWf_some ?_ | with_reducible exact optWf_none
    | with_reducible refine runEvent_memWf _ fun e => ?_ | with_reducible refine State.addDoor_memWf ?_ _ _ | split
theorem State.writeCompletion_memWf {s : State} (h : s.memWf = true) (rcb : Nat) : (s.writeCompletion rcb).memWf = true := by
  unfold State.writeCompletion
  split
  · exact h
  · extract_lets seq done s1 n ln s2
    have h1 : s1.memWf = true := by
      unfold s1; rw [memWf_mk]; exact memWf_partsMem h (putBytes_wf _ _ (memWf_mem h)) (memWf_cur h)
    have h2 : s2.memWf = true := by
      unfold s2
      split
      · exact h1
      · rw [memWf_mk]; exact memWf_parts h1 (memWf_cur h1)

    split
    · refine State.pokeQueues_memWf ?_
      split
      · exact State.once_memWf h2 _ _
      · exact h2
    · have hd := State.draw_memWf h
      generalize s.draw = q at hd ⊢
      dsimp only
      split
      · exact hd
      · exact State.at_memWf hd _ _
theorem execCompletionWrite_memWf {s : State} (h : s.memWf = true)  : OutWf (execCompletionWrite s) := by
  unfold execCompletionWrite
  repeat' first
    | with_reducible assumption | with_reducible refine optWf_some ?_ | with_reducible exact optWf_none
    | with_reducible refine runEvent_memWf _ fun e => ?_ | with_reducible refine State.writeCompletion_memWf ?_ _ | split
theorem execCqdoneReread_memWf {s : State} (h : s.memWf = true)  : OutWf (execCqdoneReread s) := by
  unfold execCqdoneReread
  repeat' first
    | with_reducible assumption | with_reducible refine optWf_some ?_ | with_reducible exact optWf_none
    | with_reducible refine runEvent_memWf _ fun e => ?_ | with_reducible refine State.pokeCompletions_memWf ?_ _ | split
theorem execQreg_memWf {s : State} (h : s.memWf = true)  : OutWf (execQreg s) := by
  unfold execQreg
  repeat' first
    | with_reducible assumption | with_reducible refine memWf_cur ?_ | (with_reducible intro t ht) | with_reducible refine optWf_some ?_
    | with_reducible exact optWf_none | with_reducible refine write_wf _ _ _ ?_ | with_reducible refine runEvent_memWf _ fun e => ?_
    | with_reducible refine State.status_memWf ?_ _ | with_reducible refine State.command_memWf ?_ _ ?_
    | (simp only [memWf_mk]; first | with_reducible refine memWf_parts ?_ ?_ | with_reducible refine memWf_partsMem ?_ ?_ ?_)
    | with_reducible refine memWf_mem ?_ | dsimp only | split
theorem execPagedone_memWf {s : State} (h : s.memWf = true)  : OutWf (execPagedone s) := by
  unfold execPagedone
  repeat' first
    | with_reducible assumption | (with_reducible intro t ht) | with_reducible refine optWf_some ?_ | with_reducible exact optWf_none
    | with_reducible refine runEvent_memWf _ fun e => ?_ | with_reducible refine State.pageAnswered_memWf ?_ _ _
    | with_reducible refine State.status_memWf ?_ _ | with_reducible refine State.command_memWf ?_ _ ?_
    | with_reducible refine State.pokeQueues_memWf ?_ | dsimp only | split

/-! ### Machine/Device.lean -/

theorem State.bringUp_memWf {s : State} (h : s.memWf = true) (step : Nat) (unit : Nat) : (State.bringUp s step unit).memWf = true := by
  unfold State.bringUp
  repeat' first
    | with_reducible assumption | with_reducible refine memWf_cur ?_ | with_reducible refine State.at_memWf ?_ _ _
    | with_reducible refine State.draw_memWf ?_ | (simp only [memWf_mk]; with_reducible refine memWf_parts ?_ ?_) | dsimp only | split
theorem execResetRelease_memWf {s : State} (h : s.memWf = true)  : OutWf (execResetRelease s) := by
  unfold execResetRelease
  repeat' first
    | with_reducible assumption | with_reducible refine optWf_some ?_ | with_reducible exact optWf_none
    | with_reducible refine runEvent_memWf _ fun e => ?_ | with_reducible refine State.bringUp_memWf ?_ _ _ | split
theorem State.sendMail_memWf {s : State} (h : s.memWf = true) (m : Mail) : (State.sendMail s m).memWf = true := by
  unfold State.sendMail
  repeat' first
    | with_reducible assumption | with_reducible refine memWf_cur ?_ | (simp only [memWf_mk]; with_reducible refine memWf_parts ?_ ?_) | split
theorem State.goMail_memWf {s : State} (h : s.memWf = true)  : (State.goMail s).memWf = true := by
  unfold State.goMail
  repeat' first
    | with_reducible assumption | with_reducible refine memWf_cur ?_ | with_reducible refine State.at_memWf ?_ _ _
    | with_reducible refine State.draw_memWf ?_ | with_reducible refine State.sendMail_memWf ?_ _
    | (simp only [memWf_mk]; with_reducible refine memWf_parts ?_ ?_) | dsimp only | split
theorem State.writeReg_memWf {s : State} (h : s.memWf = true) (off : Nat) (v : W64) : (State.writeReg s off v).memWf = true := by
  unfold State.writeReg
  repeat' first
    | with_reducible assumption | with_reducible refine memWf_cur ?_ | with_reducible refine State.goMail_memWf ?_
    | (simp only [memWf_mk]; with_reducible refine memWf_parts ?_ ?_) | dsimp only | split
theorem State.writeReg32_memWf {s : State} (h : s.memWf = true) (off : Nat) (v : W32) : (State.writeReg32 s off v).memWf = true := by
  unfold State.writeReg32
  repeat' first
    | with_reducible assumption | with_reducible refine State.writeReg_memWf ?_ _ _ | dsimp only | split
theorem execRegisterWrite_memWf {s : State} (h : s.memWf = true)  : OutWf (execRegisterWrite s) := by
  unfold execRegisterWrite
  repeat' first
    | with_reducible assumption | with_reducible refine optWf_some ?_ | with_reducible exact optWf_none
    | with_reducible refine runEvent_memWf _ fun e => ?_ | with_reducible refine State.writeReg_memWf ?_ _ _ | split
theorem execUndefinedCommand_memWf {s : State} (h : s.memWf = true)  : OutWf (execUndefinedCommand s) := by
  unfold execUndefinedCommand
  repeat' first
    | with_reducible assumption | with_reducible refine optWf_some ?_ | with_reducible exact optWf_none
    | with_reducible refine runEvent_memWf _ fun e => ?_ | with_reducible refine State.status_memWf ?_ _ | split
theorem execStatus_memWf {s : State} (h : s.memWf = true)  : OutWf (execStatus s) := by
  unfold execStatus
  repeat' first
    | with_reducible assumption | with_reducible refine optWf_some ?_ | with_reducible exact optWf_none
    | with_reducible refine runEvent_memWf _ fun e => ?_ | with_reducible refine State.answer_memWf ?_ _ | split
theorem State.applyPower_memWf {s : State} (h : s.memWf = true) (c : PowerCmd) : (State.applyPower s c).memWf = true := by
  unfold State.applyPower
  repeat' first
    | with_reducible assumption | with_reducible refine memWf_cur ?_ | with_reducible refine State.mapSeat_memWf ?_ _ _
    | (simp only [memWf_mk]; with_reducible refine memWf_parts ?_ ?_) | dsimp only | split
theorem State.afterPower_memWf {s : State} (h : s.memWf = true)  : (State.afterPower s).memWf = true := by
  unfold State.afterPower
  repeat' first
    | with_reducible assumption | with_reducible refine memWf_cur ?_ | with_reducible refine State.applyPower_memWf ?_ _
    | with_reducible refine memWf_foldl ?_ (fun _ _ _ => ?_) | (simp only [memWf_mk]; with_reducible refine memWf_parts ?_ ?_)
theorem State.pendPower_memWf {s : State} (h : s.memWf = true) (c : PowerCmd) : (State.pendPower s c).memWf = true := by
  unfold State.pendPower
  repeat' first
    | with_reducible assumption | with_reducible refine memWf_cur ?_ | with_reducible refine State.status_memWf ?_ _
    | (simp only [memWf_mk]; with_reducible refine memWf_parts ?_ ?_)
theorem State.powercap_memWf {s : State} (h : s.memWf = true) (watts : Nat) (degrade : Bool) : (State.powercap s watts degrade).memWf = true := by
  unfold State.powercap
  repeat' first
    | with_reducible assumption | with_reducible refine State.status_memWf ?_ _ | with_reducible refine State.pendPower_memWf ?_ _ | dsimp only
    | split
theorem execPowercap_memWf {s : State} (h : s.memWf = true)  : OutWf (execPowercap s) := by
  unfold execPowercap
  repeat' first
    | with_reducible assumption | (with_reducible intro t ht) | with_reducible refine optWf_some ?_ | with_reducible exact optWf_none
    | with_reducible refine runEvent_memWf _ fun e => ?_ | with_reducible refine State.command_memWf ?_ _ ?_
    | with_reducible refine State.powercap_memWf ?_ _ _ | split
theorem State.seatfloor_memWf {s : State} (h : s.memWf = true) (n : Nat) (m : Nat) (g : Nat) : (State.seatfloor s n m g).memWf = true := by
  unfold State.seatfloor
  repeat' first
    | with_reducible assumption | with_reducible refine State.status_memWf ?_ _ | with_reducible refine State.pendPower_memWf ?_ _ | dsimp only
    | split
theorem execSeatfloor_memWf {s : State} (h : s.memWf = true)  : OutWf (execSeatfloor s) := by
  unfold execSeatfloor
  repeat' first
    | with_reducible assumption | (with_reducible intro t ht) | with_reducible refine optWf_some ?_ | with_reducible exact optWf_none
    | with_reducible refine runEvent_memWf _ fun e => ?_ | with_reducible refine State.command_memWf ?_ _ ?_
    | with_reducible refine State.seatfloor_memWf ?_ _ _ _ | split
theorem State.evaluatePower_memWf {s : State} (h : s.memWf = true) (watts : Nat) (bands : List Nat) : (State.evaluatePower s watts bands).memWf = true := by
  unfold State.evaluatePower
  repeat' first
    | with_reducible assumption | with_reducible refine memWf_cur ?_ | with_reducible refine State.at_memWf ?_ _ _
    | with_reducible refine State.afterPower_memWf ?_ | (simp only [memWf_mk]; with_reducible refine memWf_parts ?_ ?_) | dsimp only | split
theorem execPowerEvaluation_memWf {s : State} (h : s.memWf = true)  : OutWf (execPowerEvaluation s) := by
  unfold execPowerEvaluation
  repeat' first
    | with_reducible assumption | with_reducible refine optWf_some ?_ | with_reducible exact optWf_none
    | with_reducible refine runEvent_memWf _ fun e => ?_ | with_reducible refine State.evaluatePower_memWf ?_ _ _ | split
theorem State.changeStep_memWf {s : State} (h : s.memWf = true) (up : Bool) : (State.changeStep s up).memWf = true := by
  unfold State.changeStep
  repeat' first
    | with_reducible assumption | with_reducible refine memWf_cur ?_ | with_reducible refine State.logEvent_memWf ?_ _ _ _ _ _ _ _ _
    | with_reducible refine memWf_foldl ?_ (fun _ _ _ => ?_) | (simp only [memWf_mk]; with_reducible refine memWf_parts ?_ ?_) | dsimp only | split
theorem execClockStepChange_memWf {s : State} (h : s.memWf = true)  : OutWf (execClockStepChange s) := by
  unfold execClockStepChange
  repeat' first
    | with_reducible assumption | with_reducible refine optWf_some ?_ | with_reducible exact optWf_none
    | with_reducible refine runEvent_memWf _ fun e => ?_ | with_reducible refine State.changeStep_memWf ?_ _ | split
theorem execUnfence_memWf {s : State} (h : s.memWf = true)  : OutWf (execUnfence s) := by
  unfold execUnfence
  repeat' first
    | with_reducible assumption | (with_reducible intro t ht) | with_reducible refine optWf_some ?_ | with_reducible exact optWf_none
    | with_reducible refine State.at_memWf ?_ _ _ | with_reducible refine runEvent_memWf _ fun e => ?_ | with_reducible refine State.status_memWf ?_ _
    | with_reducible refine State.command_memWf ?_ _ ?_ | split
theorem State.liftFence_memWf {s : State} (h : s.memWf = true) (core : Nat) (isSlot : Bool) (slot : Nat) : (State.liftFence s core isSlot slot).memWf = true := by
  unfold State.liftFence
  repeat' first
    | with_reducible assumption | with_reducible refine memWf_cur ?_ | with_reducible refine State.logEvent_memWf ?_ _ _ _ _ _ _ _ _
    | with_reducible refine State.once_memWf ?_ _ _ | with_reducible refine State.setSlot_memWf ?_ _ _ | with_reducible refine State.status_memWf ?_ _
    | with_reducible refine memWf_foldl ?_ (fun _ _ _ => ?_) | (simp only [memWf_mk]; with_reducible refine memWf_parts ?_ ?_) | dsimp only | split
theorem execFenceLift_memWf {s : State} (h : s.memWf = true)  : OutWf (execFenceLift s) := by
  unfold execFenceLift
  repeat' first
    | with_reducible assumption | with_reducible refine optWf_some ?_ | with_reducible exact optWf_none
    | with_reducible refine runEvent_memWf _ fun e => ?_ | with_reducible refine State.liftFence_memWf ?_ _ _ _ | split
theorem State.reportAnswer_memWf {s : State} (h : s.memWf = true) (a : Option (List Byte)) : (State.reportAnswer s a).memWf = true := by
  unfold State.reportAnswer
  repeat' first
    | with_reducible assumption | with_reducible refine memWf_cur ?_ | (simp only [memWf_mk]; with_reducible refine memWf_parts ?_ ?_)
theorem State.reportError_memWf {s : State} (h : s.memWf = true) (vf : Nat) (k : Nat) : (State.reportError s vf k).memWf = true := by
  unfold State.reportError
  repeat' first
    | with_reducible assumption | with_reducible refine memWf_cur ?_ | with_reducible refine State.reportAnswer_memWf ?_ _
    | (simp only [memWf_mk]; with_reducible refine memWf_parts ?_ ?_)
theorem State.pageWrite_memWf {s : State} (h : s.memWf = true) (vf : Nat) (off : Nat) (v : W32) : (State.pageWrite s vf off v).memWf = true := by
  unfold State.pageWrite
  repeat' first
    | with_reducible assumption | with_reducible refine State.ring_memWf ?_ _ _ _ | with_reducible refine State.addDoor_memWf ?_ _ _ | split
theorem State.bar0Write_memWf {s : State} (h : s.memWf = true) (off : Nat) (bs : List Byte) : (State.bar0Write s off bs).memWf = true := by
  unfold State.bar0Write
  repeat' first
    | with_reducible assumption | with_reducible refine State.writeReg_memWf ?_ _ _ | with_reducible refine State.writeReg32_memWf ?_ _ _
    | with_reducible refine State.pageWrite_memWf ?_ _ _ _ | with_reducible refine memWf_foldl ?_ (fun _ _ _ => ?_) | split
theorem State.guardQueue_memWf {old s : State} (h : s.memWf = true) (k : Queue) : (old.guardQueue s k).memWf = true := by
  have hs : ∀ n v, ({ s with mem := Memory.write s.mem (k.addr + 40) n v } : State).memWf = true := by
    intro n v; rw [memWf_mk]; exact memWf_partsMem h (write_wf _ _ _ (memWf_mem h)) (memWf_cur h)
  unfold State.guardQueue
  extract_lets st starts s1 s2 s3
  have h1 : s1.memWf = true := hs _ _
  have h2 : s2.memWf = true := by
    unfold s2; clear_value st s1; split
    · exact h1
    · exact State.setHead_memWf h1 _ _
  have h3 : s3.memWf = true := by
    unfold s3; clear_value st starts s2; exact State.setQState_memWf h2 _ _ _
  clear_value s3 starts
  split
  · exact State.startQueue_memWf h3 _
  · exact h3
theorem State.hostWrite_memWf {s : State} (h : s.memWf = true) (a : Nat) (bs : List Byte) : (State.hostWrite s a bs).memWf = true := by
  unfold State.hostWrite
  repeat' first
    | with_reducible assumption | with_reducible refine memWf_cur ?_ | with_reducible refine putBytes_wf _ _ ?_
    | with_reducible refine State.guardQueue_memWf ?_ _ | with_reducible refine memWf_foldl ?_ (fun _ _ _ => ?_)
    | (simp only [memWf_mk]; first | with_reducible refine memWf_parts ?_ ?_ | with_reducible refine memWf_partsMem ?_ ?_ ?_)
    | with_reducible refine memWf_mem ?_
theorem State.visited_memWf {s : State} (h : s.memWf = true) (r : Req) : (State.visited s r).memWf = true := by
  unfold State.visited
  repeat' first
    | with_reducible assumption | with_reducible refine memWf_cur ?_ | with_reducible refine State.dropReq_memWf ?_ _
    | with_reducible refine State.reportAnswer_memWf ?_ _ | with_reducible refine State.hostWrite_memWf ?_ _ _
    | (simp only [memWf_mk]; with_reducible refine memWf_parts ?_ ?_) | dsimp only | split
theorem execPositionStart_memWf {s : State} (h : s.memWf = true)  : OutWf (execPositionStart s) := by
  unfold execPositionStart
  repeat' first
    | with_reducible assumption | with_reducible refine optWf_some ?_ | with_reducible exact optWf_none
    | with_reducible refine runEvent_memWf _ fun e => ?_ | with_reducible refine State.position_memWf ?_ _
    | with_reducible refine State.abandon_memWf ?_ _ | with_reducible refine State.visited_memWf ?_ _
    | with_reducible refine memWf_foldl ?_ (fun _ _ _ => ?_) | dsimp only | split
theorem State.writePlaces_memWf {s : State} (h : s.memWf = true) (l : List (Phys × Byte)) : (State.writePlaces s l).memWf = true := by
  unfold State.writePlaces
  repeat' first
    | with_reducible assumption | with_reducible refine State.writeAt_memWf ?_ _ _ | with_reducible refine memWf_foldl ?_ (fun _ _ _ => ?_)
theorem State.visit_memWf {s : State} (h : s.memWf = true) (kind : Inbound) (places : List Phys) : (State.visit s kind places).memWf = true := by
  unfold State.visit
  repeat' first
    | with_reducible assumption | with_reducible refine memWf_cur ?_ | with_reducible refine State.fresh_memWf ?_
    | with_reducible refine State.schedule_memWf ?_ _ | with_reducible refine State.reportAnswer_memWf ?_ _
    | with_reducible refine State.writePlaces_memWf ?_ _ | with_reducible refine memWf_foldl ?_ (fun _ _ _ => ?_)
    | (simp only [memWf_mk]; with_reducible refine memWf_parts ?_ ?_) | dsimp only | split
theorem State.vfRequest_memWf {s : State} (h : s.memWf = true) (vf : Nat) (off : Nat) (write : Option (List Byte)) (len : Nat) : (State.vfRequest s vf off write len).memWf = true := by
  unfold State.vfRequest
  repeat' first
    | with_reducible assumption | with_reducible refine State.logEvent_memWf ?_ _ _ _ _ _ _ _ _ | with_reducible refine State.reportAnswer_memWf ?_ _
    | with_reducible refine State.reportError_memWf ?_ _ _ | with_reducible refine State.visit_memWf ?_ _ _ | split
theorem State.barRequest_memWf {s : State} (h : s.memWf = true) (vf : Nat) (bar : Nat) (off : Nat) (write : Option (List Byte)) (len : Nat) : (State.barRequest s vf bar off write len).memWf = true := by
  unfold State.barRequest
  repeat' first
    | with_reducible assumption | with_reducible refine memWf_cur ?_ | with_reducible refine State.reportAnswer_memWf ?_ _
    | with_reducible refine State.reportError_memWf ?_ _ _ | with_reducible refine State.pageWrite_memWf ?_ _ _ _
    | with_reducible refine State.bar0Write_memWf ?_ _ _ | with_reducible refine State.visit_memWf ?_ _ _
    | with_reducible refine State.vfRequest_memWf ?_ _ _ _ _ | with_reducible refine memWf_foldl ?_ (fun _ _ _ => ?_)
    | (simp only [memWf_mk]; with_reducible refine memWf_parts ?_ ?_) | dsimp only | split
theorem execHostBarRequest_memWf {s : State} (h : s.memWf = true)  : OutWf (execHostBarRequest s) := by
  unfold execHostBarRequest
  repeat' first
    | with_reducible assumption | with_reducible refine optWf_some ?_ | with_reducible exact optWf_none
    | with_reducible refine runEvent_memWf _ fun e => ?_ | with_reducible refine State.barRequest_memWf ?_ _ _ _ _ _ | split
theorem State.dropAts_memWf {s : State} (h : s.memWf = true) (seat : Nat) (vf : Nat) (pasid : Nat) (va : Nat) (size : Nat) : (State.dropAts s seat vf pasid va size).memWf = true := by
  unfold State.dropAts
  repeat' first
    | with_reducible assumption | with_reducible refine memWf_cur ?_ | with_reducible refine State.mapSeat_memWf ?_ _ _
    | (simp only [memWf_mk]; with_reducible refine memWf_parts ?_ ?_)
theorem State.atsInvalidate_memWf {s : State} (h : s.memWf = true) (vf : Nat) (pasid : Nat) (va : Nat) (size : Nat) : (State.atsInvalidate s vf pasid va size).memWf = true := by
  unfold State.atsInvalidate
  repeat' first
    | with_reducible assumption | with_reducible refine memWf_cur ?_ | with_reducible refine State.at_memWf ?_ _ _
    | with_reducible refine State.now_memWf ?_ _ | with_reducible refine State.reportAnswer_memWf ?_ _
    | with_reducible refine State.dropAts_memWf ?_ _ _ _ _ _ | (simp only [memWf_mk]; with_reducible refine memWf_parts ?_ ?_) | dsimp only | split
theorem execAtsInvalidationRequest_memWf {s : State} (h : s.memWf = true)  : OutWf (execAtsInvalidationRequest s) := by
  unfold execAtsInvalidationRequest
  repeat' first
    | with_reducible assumption | with_reducible refine optWf_some ?_ | with_reducible exact optWf_none
    | with_reducible refine runEvent_memWf _ fun e => ?_ | with_reducible refine State.atsInvalidate_memWf ?_ _ _ _ _ | split
theorem State.retrain_memWf {s : State} (h : s.memWf = true) (width : Nat) (rate : Nat) : (State.retrain s width rate).memWf = true := by
  unfold State.retrain
  repeat' first
    | with_reducible assumption | with_reducible refine memWf_cur ?_ | with_reducible refine State.draw_memWf ?_
    | with_reducible refine State.scheduleAll_memWf ?_ | (simp only [memWf_mk]; with_reducible refine memWf_parts ?_ ?_)
theorem execLinkRetrain_memWf {s : State} (h : s.memWf = true)  : OutWf (execLinkRetrain s) := by
  unfold execLinkRetrain
  repeat' first
    | with_reducible assumption | with_reducible refine optWf_some ?_ | with_reducible exact optWf_none
    | with_reducible refine runEvent_memWf _ fun e => ?_ | with_reducible refine State.retrain_memWf ?_ _ _ | split
theorem execConfigurationRequest_memWf {s : State} (h : s.memWf = true)  : OutWf (execConfigurationRequest s) := by
  unfold execConfigurationRequest
  repeat' first
    | with_reducible assumption | with_reducible refine memWf_cur ?_ | with_reducible refine optWf_some ?_ | with_reducible exact optWf_none
    | with_reducible refine runEvent_memWf _ fun e => ?_ | (simp only [memWf_mk]; with_reducible refine memWf_parts ?_ ?_) | dsimp only | split
theorem State.report_memWf {s : State} (h : s.memWf = true) (index : Nat) (nonce : Nat) (m : Nat) : (State.report s index nonce m).memWf = true := by
  unfold State.report
  repeat' first
    | with_reducible assumption | with_reducible refine memWf_cur ?_ | (simp only [memWf_mk]; with_reducible refine memWf_parts ?_ ?_)
theorem execSpdmRequest_memWf {s : State} (h : s.memWf = true)  : OutWf (execSpdmRequest s) := by
  unfold execSpdmRequest
  repeat' first
    | with_reducible assumption | with_reducible refine optWf_some ?_ | with_reducible exact optWf_none
    | with_reducible refine runEvent_memWf _ fun e => ?_ | with_reducible refine State.report_memWf ?_ _ _ _ | split
theorem execMctpStatus_memWf {s : State} (h : s.memWf = true)  : OutWf (execMctpStatus s) := by
  unfold execMctpStatus
  repeat' first
    | with_reducible assumption | with_reducible refine memWf_cur ?_ | with_reducible refine optWf_some ?_ | with_reducible exact optWf_none
    | with_reducible refine runEvent_memWf _ fun e => ?_ | (simp only [memWf_mk]; with_reducible refine memWf_parts ?_ ?_) | dsimp only | split
theorem execColalmTraining_memWf {s : State} (h : s.memWf = true)  : OutWf (execColalmTraining s) := by
  unfold execColalmTraining
  repeat' first
    | with_reducible assumption | with_reducible refine memWf_cur ?_ | with_reducible refine optWf_some ?_ | with_reducible exact optWf_none
    | with_reducible refine State.at_memWf ?_ _ _ | with_reducible refine State.draw_memWf ?_ | with_reducible refine runEvent_memWf _ fun e => ?_
    | (simp only [memWf_mk]; with_reducible refine memWf_parts ?_ ?_) | dsimp only | split
theorem State.linkOpen_memWf {s : State} (h : s.memWf = true) (port : Nat) (entry : Nat) (base : Nat) (len : Nat) (rd : Bool) (wr : Bool) : (State.linkOpen s port entry base len rd wr).memWf = true := by
  unfold State.linkOpen
  repeat' first
    | with_reducible assumption | with_reducible refine memWf_cur ?_ | with_reducible refine State.status_memWf ?_ _
    | (simp only [memWf_mk]; with_reducible refine memWf_parts ?_ ?_) | dsimp only | split
theorem execLinkopen_memWf {s : State} (h : s.memWf = true)  : OutWf (execLinkopen s) := by
  unfold execLinkopen
  repeat' first
    | with_reducible assumption | (with_reducible intro t ht) | with_reducible refine optWf_some ?_ | with_reducible exact optWf_none
    | with_reducible refine runEvent_memWf _ fun e => ?_ | with_reducible refine State.command_memWf ?_ _ ?_
    | with_reducible refine State.linkOpen_memWf ?_ _ _ _ _ _ _ | split
theorem State.inbound_memWf {s : State} (h : s.memWf = true) (port : Nat) (a : Nat) (len : Nat) (kind : Inbound) : (State.inbound s port a len kind).memWf = true := by
  unfold State.inbound
  repeat' first
    | with_reducible assumption | with_reducible refine State.reportAnswer_memWf ?_ _ | with_reducible refine State.visit_memWf ?_ _ _ | dsimp only
    | split
theorem execColalmInboundRequest_memWf {s : State} (h : s.memWf = true)  : OutWf (execColalmInboundRequest s) := by
  unfold execColalmInboundRequest
  repeat' first
    | with_reducible assumption | with_reducible refine optWf_some ?_ | with_reducible exact optWf_none
    | with_reducible refine runEvent_memWf _ fun e => ?_ | with_reducible refine State.inbound_memWf ?_ _ _ _ _ | split
theorem State.migrate_memWf {s : State} (h : s.memWf = true) (asid : Nat) (va : Nat) (frame : Nat) : (State.migrate s asid va frame).memWf = true := by
  unfold State.migrate
  repeat' first
    | with_reducible assumption | with_reducible refine memWf_cur ?_ | with_reducible refine putBytes_wf _ _ ?_
    | with_reducible refine write_wf _ _ _ ?_ | with_reducible refine State.at_memWf ?_ _ _ | with_reducible refine State.now_memWf ?_ _
    | with_reducible refine State.claimSlice_memWf ?_ _ | with_reducible refine State.invalidate_memWf ?_ _ _ _
    | with_reducible refine memWf_foldl ?_ (fun _ _ _ => ?_)
    | (simp only [memWf_mk]; first | with_reducible refine memWf_parts ?_ ?_ | with_reducible refine memWf_partsMem ?_ ?_ ?_)
    | with_reducible refine memWf_mem ?_ | dsimp only | split
theorem execPageMigration_memWf {s : State} (h : s.memWf = true)  : OutWf (execPageMigration s) := by
  unfold execPageMigration
  repeat' first
    | with_reducible assumption | with_reducible refine optWf_some ?_ | with_reducible exact optWf_none
    | with_reducible refine runEvent_memWf _ fun e => ?_ | with_reducible refine State.migrate_memWf ?_ _ _ _ | split
theorem State.sweep_memWf {s : State} (h : s.memWf = true)  : (State.sweep s).memWf = true := by
  unfold State.sweep
  repeat' first
    | with_reducible assumption | with_reducible refine memWf_cur ?_ | with_reducible refine write_wf _ _ _ ?_
    | with_reducible refine State.claimSlice_memWf ?_ _ | with_reducible refine memWf_foldl ?_ (fun _ _ _ => ?_)
    | (simp only [memWf_mk]; first | with_reducible refine memWf_parts ?_ ?_ | with_reducible refine memWf_partsMem ?_ ?_ ?_)
    | with_reducible refine memWf_mem ?_ | with_reducible refine wf_foldl ?_ (fun _ _ _ => ?_)
theorem execHeatSweep_memWf {s : State} (h : s.memWf = true)  : OutWf (execHeatSweep s) := by
  unfold execHeatSweep
  repeat' first
    | with_reducible assumption | with_reducible refine optWf_some ?_ | with_reducible exact optWf_none
    | with_reducible refine runEvent_memWf _ fun e => ?_ | with_reducible refine State.sweep_memWf ?_ | split

/-! ### Machine/Portable.lean -/

theorem State.countCommit_memWf {s : State} (h : s.memWf = true) (t : Team) (o : Op) (vas : List Nat) (write : Bool) : (State.countCommit s t o vas write).memWf = true := by
  unfold State.countCommit
  repeat' first
    | with_reducible assumption | with_reducible refine State.countAccess_memWf ?_ _ _ _ _ _ | split
theorem State.commitLane_memWf {s : State} (h : s.memWf = true) (o : Op) (p : Phys) (L : Nat) : (State.commitLane s o p L).memWf = true := by
  unfold State.commitLane
  repeat' first
    | with_reducible assumption | with_reducible refine State.writeAt_memWf ?_ _ _ | with_reducible refine State.mapOp_memWf ?_ _ _ | dsimp only
    | split
theorem commitGlobal_memWf {r : Trial} (h : r.1.memWf = true) (t : Team) (o : Op) : (commitGlobal r t o).1.memWf = true := by
  unfold commitGlobal
  repeat' first
    | with_reducible assumption | with_reducible refine State.mapOp_memWf ?_ _ _ | with_reducible refine State.checkOp_memWf ?_ _
    | with_reducible refine State.refuse_memWf ?_ _ _ | with_reducible refine State.countCommit_memWf ?_ _ _ _ _
    | with_reducible refine State.commitLane_memWf ?_ _ _ _ | with_reducible refine memWf_foldl ?_ (fun _ _ _ => ?_) | dsimp only | split
theorem State.commitLocal_memWf {s : State} (h : s.memWf = true) (o : Op) : (State.commitLocal s o).memWf = true := by
  unfold State.commitLocal
  repeat' first
    | with_reducible assumption | with_reducible refine State.mapOp_memWf ?_ _ _ | with_reducible refine State.landOp_memWf ?_ _
    | with_reducible refine State.performLocal_memWf ?_ _ _
theorem State.pieceBytes_memWf {s u : State} (h : s.memWf = true) (t : Team) (o : Op) (sp : Space) (a n : Nat) {bs : List Byte}
    (e : s.pieceBytes t o sp a n = .ok (u, bs)) : u.memWf = true := by
  unfold State.pieceBytes at e
  split at e
  · dsimp only at e
    split at e
    · cases e; exact State.countCommit_memWf h _ _ _ _
    · cases e
  · cases e; exact h
theorem State.commitCredit_memWf {s : State} (h : s.memWf = true) (o : Op) (c : Copy) (n : Nat) : (State.commitCredit s o c n).memWf = true := by
  unfold State.commitCredit
  repeat' first
    | with_reducible assumption | with_reducible refine State.barBytes_memWf ?_ _ _ _ _ _ | with_reducible refine State.mapCopy_memWf ?_ _ _ | split
theorem copyStop_memWf {r : Trial} (h : r.1.memWf = true) (o : Op) (va : Nat) (write : Bool) (v : Verdict) : (copyStop r o va write v).1.memWf = true := by
  unfold copyStop
  repeat' first
    | with_reducible assumption | with_reducible refine State.stopCopy_memWf ?_ _ _ | split
theorem copyPut_memWf {r : Trial} (h : r.1.memWf = true) (t : Team) (o : Op) (c : Copy) (d : Nat) (n : Nat) (bs : List Byte) : (copyPut r t o c d n bs).1.memWf = true := by
  unfold copyPut
  repeat' first
    | with_reducible assumption | (with_reducible intro t ht) | with_reducible refine State.writeAt_memWf ?_ _ _
    | with_reducible refine State.anyTeam_memWf ?_ _ _ ?_ | with_reducible refine putLocal_memWf ?_ _ _ _
    | with_reducible refine State.countCommit_memWf ?_ _ _ _ _ | with_reducible refine State.commitCredit_memWf ?_ _ _ _
    | with_reducible refine copyStop_memWf ?_ _ _ _ _ | dsimp only | split
theorem runCopy_memWf (n id : Nat) {r : Trial} (h : r.1.memWf = true) : (runCopy n id r).1.memWf = true := by
  induction n generalizing r with
  | zero => exact h
  | succ n ih =>
    unfold runCopy
    split
    · exact h
    · split
      · split
        · exact State.endCopy_memWf h _
        · split
          · exact h
          · split
            · exact State.stopCopy_memWf h _ _
            · split
              · exact ih (State.mapCopy_memWf (State.pieceBytes_memWf h _ _ _ _ _ ‹_›) _ _)
              · exact copyStop_memWf h _ _ _ _
            · exact ih (copyPut_memWf h _ _ _ _ _ _)
            · split
              · exact ih (copyPut_memWf (State.pieceBytes_memWf h _ _ _ _ _ ‹_›) _ _ _ _ _ _)
              · exact copyStop_memWf h _ _ _ _
      · exact h
theorem commitCopy_memWf {r : Trial} (h : r.1.memWf = true) (t : Team) (o : Op) (c : Copy) : (commitCopy r t o c).1.memWf = true := by
  unfold commitCopy
  repeat' first
    | with_reducible assumption | (with_reducible intro t ht) | with_reducible refine write_wf _ _ _ ?_
    | with_reducible refine State.mapOp_memWf ?_ _ _ | with_reducible refine State.anyTeam_memWf ?_ _ _ ?_
    | with_reducible refine State.finishOp_memWf ?_ _ | with_reducible refine Team.clearMarks_memWf ?_ _ _
    | with_reducible refine State.barBytes_memWf ?_ _ _ _ _ _ | with_reducible refine runCopy_memWf _ _ ?_
    | (simp only [teamWf_mk]; with_reducible refine teamWf_parts ?_ ?_ ?_ ?_ ?_) | with_reducible refine teamWf_save ?_
    | with_reducible refine teamWf_scratch ?_ | with_reducible refine teamWf_abuf ?_ | with_reducible refine teamWf_wbuf ?_
    | with_reducible refine teamWf_xbuf ?_ | dsimp only | split
theorem State.commitPass_memWf {s : State} (h : s.memWf = true) (o : Op) (key : RowKey) (ver : Nat) (qs : List Quarter) : (State.commitPass s o key ver qs).memWf = true := by
  unfold State.commitPass
  repeat' first
    | with_reducible assumption | with_reducible refine State.landPass_memWf ?_ _ | with_reducible refine memWf_foldl ?_ (fun _ _ _ => ?_)
    | dsimp only | split
theorem State.commitMx_memWf {s : State} (h : s.memWf = true) (o : Op) (m : Mx) : (State.commitMx s o m).memWf = true := by
  unfold State.commitMx
  repeat' first
    | with_reducible assumption | with_reducible refine State.logEvent_memWf ?_ _ _ _ _ _ _ _ _ | with_reducible refine State.mapOp_memWf ?_ _ _
    | with_reducible refine State.finishMx_memWf ?_ _ | with_reducible refine State.endXlds_memWf ?_ _
    | with_reducible refine State.endSerial_memWf ?_ _ | with_reducible refine State.commitPass_memWf ?_ _ _ _ _ | dsimp only | split
theorem State.commitArms_memWf {s : State} (h : s.memWf = true) (i : Nat) : (State.commitArms s i).memWf = true := by
  unfold State.commitArms
  repeat' first
    | with_reducible assumption | with_reducible refine State.landArm_memWf ?_ _ | with_reducible refine memWf_foldl ?_ (fun _ _ _ => ?_) | dsimp only
    | split
theorem commitAlight_memWf {r : Trial} (h : r.1.memWf = true) (t : Team) (o : Op) (i : Nat) : (commitAlight r t o i).1.memWf = true := by
  unfold commitAlight
  repeat' first
    | with_reducible assumption | with_reducible refine State.writeAt_memWf ?_ _ _ | with_reducible refine State.mapOp_memWf ?_ _ _
    | with_reducible refine State.defer_memWf ?_ _ _ | with_reducible refine State.setSlot_memWf ?_ _ _
    | with_reducible refine State.countCommit_memWf ?_ _ _ _ _ | dsimp only | split
theorem commitRing_memWf {r : Trial} (h : r.1.memWf = true) (t : Team) (o : Op) (i : Nat) (k : RingKind) : (commitRing r t o i k).1.memWf = true := by
  unfold commitRing
  repeat' first
    | with_reducible assumption | with_reducible refine State.mapOp_memWf ?_ _ _ | with_reducible refine State.finishOp_memWf ?_ _
    | with_reducible refine State.defer_memWf ?_ _ _ | with_reducible refine State.setSlot_memWf ?_ _ _
    | with_reducible refine State.addArm_memWf ?_ _ _ _ _ _ _ | with_reducible refine State.countCommit_memWf ?_ _ _ _ _
    | with_reducible refine State.commitArms_memWf ?_ _ | with_reducible refine commitAlight_memWf ?_ _ _ _ | dsimp only | split
theorem State.commitLaunch_memWf {s : State} (h : s.memWf = true) (t : Team) (o : Op) (try_ : Bool) (cd : Nat) : (State.commitLaunch s t o try_ cd).memWf = true := by
  unfold State.commitLaunch
  repeat' first
    | with_reducible assumption | with_reducible refine State.mapOp_memWf ?_ _ _ | with_reducible refine State.anyGroup_memWf ?_ _ _ _
    | with_reducible refine State.finishOp_memWf ?_ _ | with_reducible refine State.checkOp_memWf ?_ _
    | with_reducible refine State.translate_memWf ?_ _ _ | with_reducible refine State.placeRecord_memWf ?_ _ _ _ _ _ | dsimp only | split
theorem State.takeParams_memWf {s : State} (h : s.memWf = true) (t : Team) (o : Op) : (s.takeParams t o).1.memWf = true := by
  unfold State.takeParams
  dsimp only
  split
  · exact h
  · exact State.mapOp_memWf h _ _
theorem takeAllParams_memWf (l : List Nat) {s : State} (h : s.memWf = true) : (takeAllParams l s).1.memWf = true := by
  induction l generalizing s with
  | nil => exact h
  | cons a l ih =>
    unfold takeAllParams
    split
    · split
      · split
        · exact ih (memWf_ofFirst (State.takeParams_memWf h _ _) ‹_›)
        · exact State.takeParams_memWf h _ _
      · exact ih h
    · exact ih h
theorem commitOp_memWf {r : Trial} (h : r.1.memWf = true) (id : Nat) : (commitOp r id).1.memWf = true := by
  unfold commitOp
  repeat' first
    | with_reducible assumption | with_reducible refine State.mapOp_memWf ?_ _ _ | with_reducible refine State.finishOp_memWf ?_ _
    | with_reducible refine State.defer_memWf ?_ _ _ | with_reducible refine memWf_ofPair (State.barApply_memWf ?_ _ _ _) (by assumption)
    | with_reducible refine State.setScratch_memWf ?_ _ _ _ | with_reducible refine State.sendMessage_memWf ?_ _
    | with_reducible refine commitGlobal_memWf ?_ _ _ | with_reducible refine State.commitLocal_memWf ?_ _
    | with_reducible refine commitCopy_memWf ?_ _ _ _ | with_reducible refine State.commitMx_memWf ?_ _ _
    | with_reducible refine commitRing_memWf ?_ _ _ _ _ | with_reducible refine State.commitLaunch_memWf ?_ _ _ _ _
    | with_reducible refine memWf_foldl ?_ (fun _ _ _ => ?_) | split
theorem State.dropEffects_memWf {s : State} (h : s.memWf = true) (team : Nat) : (State.dropEffects s team).memWf = true := by
  unfold State.dropEffects
  repeat' first
    | with_reducible assumption | with_reducible refine memWf_cur ?_ | with_reducible refine State.undoPlane_memWf ?_ _
    | with_reducible refine memWf_foldl ?_ (fun _ _ _ => ?_) | (simp only [memWf_mk]; with_reducible refine memWf_parts ?_ ?_)
theorem State.rerunCopy_memWf {s : State} (h : s.memWf = true) (t : Team) : (State.rerunCopy s t).memWf = true := by
  unfold State.rerunCopy
  repeat' first
    | with_reducible assumption | (with_reducible intro t ht) | with_reducible refine State.mapTeam_memWf ?_ _ _ ?_
    | with_reducible refine State.dropEffects_memWf ?_ _ | (simp only [teamWf_mk]; with_reducible refine teamWf_parts ?_ ?_ ?_ ?_ ?_)
    | with_reducible refine teamWf_save ?_ | with_reducible refine teamWf_scratch ?_ | with_reducible refine teamWf_abuf ?_
    | with_reducible refine teamWf_wbuf ?_ | with_reducible refine teamWf_xbuf ?_
theorem State.mismatch_memWf {s : State} (h : s.memWf = true) (t : Team) : (State.mismatch s t).memWf = true := by
  unfold State.mismatch
  repeat' first
    | with_reducible assumption | with_reducible refine State.logEvent_memWf ?_ _ _ _ _ _ _ _ _
    | with_reducible refine State.complete_memWf ?_ _ _ _ _ | with_reducible refine State.haltTeam_memWf ?_ _ _ _
    | with_reducible refine State.dropEffects_memWf ?_ _ | with_reducible refine State.rerunCopy_memWf ?_ _ | dsimp only | split
theorem State.reportRerun_memWf {s : State} (h : s.memWf = true) (t : Team) : (State.reportRerun s t).memWf = true := by
  unfold State.reportRerun
  repeat' first
    | with_reducible assumption | (with_reducible intro t ht) | with_reducible refine State.mapTeam_memWf ?_ _ _ ?_
    | with_reducible refine State.logEvent_memWf ?_ _ _ _ _ _ _ _ _ | (simp only [teamWf_mk]; with_reducible refine teamWf_parts ?_ ?_ ?_ ?_ ?_)
    | with_reducible refine teamWf_save ?_ | with_reducible refine teamWf_scratch ?_ | with_reducible refine teamWf_abuf ?_
    | with_reducible refine teamWf_wbuf ?_ | with_reducible refine teamWf_xbuf ?_ | split
theorem Team.mirror_memWf {t u : Team} (h : t.memWf = true) (hu : u.memWf = true) (results : Nat → List Dest × List Nat) :
    (u.mirror t results).memWf = true := by
  unfold Team.mirror
  rw [teamWf_mk]
  exact teamWf_parts (teamWf_scratch h) (teamWf_abuf h) (teamWf_wbuf h) (teamWf_xbuf h) (teamWf_save hu)
theorem State.commitResult_memWf {s : State} (h : s.memWf = true) (id : Nat) : (State.commitResult s id).memWf = true := by
  unfold State.commitResult
  repeat' first
    | with_reducible assumption | with_reducible refine State.anyGroup_memWf ?_ _ _ _ | with_reducible refine State.finishOp_memWf ?_ _
    | with_reducible refine State.ringResult_memWf ?_ _ | dsimp only | split
theorem State.recheckWaits_memWf {s : State} (h : s.memWf = true) (id : Nat) : (State.recheckWaits s id).memWf = true := by
  unfold State.recheckWaits
  repeat' first
    | with_reducible assumption | (with_reducible intro t ht) | with_reducible refine State.mapTeam_memWf ?_ _ _ ?_
    | with_reducible refine Team.resumeWaits_memWf ?_ _ | with_reducible refine State.unblockJoins_memWf ?_ _
    | (simp only [teamWf_mk]; with_reducible refine teamWf_parts ?_ ?_ ?_ ?_ ?_) | with_reducible refine teamWf_save ?_
    | with_reducible refine teamWf_scratch ?_ | with_reducible refine teamWf_abuf ?_ | with_reducible refine teamWf_wbuf ?_
    | with_reducible refine teamWf_xbuf ?_
theorem State.nextQuantum_memWf {s : State} (h : s.memWf = true) (id : Nat) : (State.nextQuantum s id).memWf = true := by
  unfold State.nextQuantum
  repeat' first
    | with_reducible assumption | (with_reducible intro t ht) | with_reducible refine State.now_memWf ?_ _
    | with_reducible refine State.mapTeam_memWf ?_ _ _ ?_ | with_reducible refine State.drain_memWf ?_ _ _
    | (simp only [teamWf_mk]; with_reducible refine teamWf_parts ?_ ?_ ?_ ?_ ?_) | with_reducible refine teamWf_save ?_
    | with_reducible refine teamWf_scratch ?_ | with_reducible refine teamWf_abuf ?_ | with_reducible refine teamWf_wbuf ?_
    | with_reducible refine teamWf_xbuf ?_ | dsimp only | split
theorem State.askPage_memWf {s : State} (h : s.memWf = true) (n : Need) : (State.askPage s n).memWf = true := by
  unfold State.askPage
  repeat' first
    | with_reducible assumption | with_reducible refine State.draw_memWf ?_ | with_reducible refine State.mapOp_memWf ?_ _ _
    | with_reducible refine State.waitDone_memWf ?_ _ _ _ | with_reducible refine State.joinWalk_memWf ?_ _ _ _ _ _ _ _
    | with_reducible refine State.chargeOp_memWf ?_ _ _ _ _ _ | with_reducible refine State.chargePiece_memWf ?_ _ _ _ _
    | with_reducible refine memWf_foldl ?_ (fun _ _ _ => ?_) | dsimp only | split
theorem State.applyQuantum_memWf {s : State} (h : s.memWf = true) (ts : List Team) : (s.applyQuantum ts).memWf = true := by
  unfold State.applyQuantum
  extract_lets order ids r dests s1 primaries s2 s3 s4 s5 s5b s6
  have hr : r.1.memWf = true := by
    have hp := takeAllParams_memWf ids h
    unfold r
    clear_value dests
    generalize takeAllParams ids s = p at hp ⊢
    split
    · exact memWf_foldl1 hp fun r a hr => commitOp_memWf hr _
    · exact hp
  split
  · exact State.askPage_memWf h _
  · have h1 : s1.memWf = true := memWf_foldl hr fun s a hs => State.commitResult_memWf hs _
    have h2 : s2.memWf = true := memWf_foldl h1 fun s a hs => State.recheckWaits_memWf hs _
    have h3 : s3.memWf = true := memWf_foldl h2 fun s a hs => State.grantWaiters_memWf hs _ _ _
    have h4 : s4.memWf = true := by
      refine memWf_foldl h3 fun s u hs => ?_
      extract_lets mine t1
      have ht1 : t1.memWf = true := memWf_foldl hs fun s o hs => State.finishOp_memWf hs _
      clear_value t1
      split
      · rename_i t e
        refine State.mapTeam_memWf ht1 _ _ fun v hv => Team.mirror_memWf ?_ hv _
        obtain ⟨id, _, e⟩ := Option.bind_eq_some_iff.1 e
        exact memWf_find ht1 e
      · exact ht1
    have h5 : s5.memWf = true := memWf_foldl h4 fun s t hs => State.nextQuantum_memWf (State.reportRerun_memWf hs _) _
    have h6 : s6.memWf = true := by
      have h5b : s5b.memWf = true := by unfold s5b; rw [memWf_mk]; exact memWf_parts h5 (memWf_cur h5)
      refine memWf_foldl h5b fun s t hs => ?_
      dsimp only
      split
      · exact State.endTeam_memWf hs _
      · exact hs
    clear_value s6
    split
    · split
      · exact State.at_memWf h6 _ _
      · exact h6
    · exact h6
theorem State.commit_memWf {s : State} (h : s.memWf = true) (grid : Nat) (reported : List (Nat × Nat)) : (State.commit s grid reported).memWf = true := by
  unfold State.commit
  repeat' first
    | with_reducible assumption | with_reducible refine State.mismatch_memWf ?_ _ | with_reducible refine State.applyQuantum_memWf ?_ _
    | with_reducible refine memWf_foldl ?_ (fun _ _ _ => ?_) | dsimp only | split
theorem execQuantumCommit_memWf {s : State} (h : s.memWf = true)  : OutWf (execQuantumCommit s) := by
  unfold execQuantumCommit
  repeat' first
    | with_reducible assumption | with_reducible refine optWf_some ?_ | with_reducible exact optWf_none
    | with_reducible refine runEvent_memWf _ fun e => ?_ | with_reducible refine State.commit_memWf ?_ _ _ | split

/-! ### Machine/Issue.lean -/

theorem State.focusOn_memWf {s : State} (h : s.memWf = true) (c : Cand) (lit : W32) (last : Nat) (hc : c.team.memWf = true) :
    (s.focusOn c lit last).memWf = true := by
  have hf : (s.focus (c.team.mapGroup c.group.gid fun _ => c.group) c.group c.split.idx).memWf = true :=
    State.focus_memWf h _ _ _ (Team.mapGroup_memWf hc _ _)
  unfold State.focusOn
  rw [memWf_mk]
  exact memWf_parts hf (memWf_cur hf)
theorem State.keepCode_memWf {s : State} (h : s.memWf = true) (va : Nat) : (State.keepCode s va).memWf = true := by
  unfold State.keepCode
  repeat' first
    | with_reducible assumption | (with_reducible intro t ht) | with_reducible refine State.onGroup_memWf ?_ _
    | with_reducible refine State.onTeam_memWf ?_ _ ?_ | (simp only [teamWf_mk]; with_reducible refine teamWf_parts ?_ ?_ ?_ ?_ ?_)
    | with_reducible refine teamWf_save ?_ | with_reducible refine teamWf_scratch ?_ | with_reducible refine teamWf_abuf ?_
    | with_reducible refine teamWf_wbuf ?_ | with_reducible refine teamWf_xbuf ?_ | dsimp only | split
theorem State.withoutTrapped_memWf {s : State} (h : s.memWf = true)  : (State.withoutTrapped s).memWf = true := by
  unfold State.withoutTrapped
  repeat' first
    | with_reducible assumption | with_reducible refine memWf_cur ?_ | with_reducible refine State.onGroup_memWf ?_ _
    | (simp only [memWf_mk]; with_reducible refine memWf_parts ?_ ?_)
theorem State.consider_memWf {s : State} (h : s.memWf = true) (c : Cand) (hc : c.team.memWf = true) : (s.consider c).1.memWf = true := by
  have hf := fun a b => State.focusOn_memWf h c a b hc
  unfold State.consider
  extract_lets owed
  clear_value owed
  split
  · exact hf _ _
  · exact hf _ _
  · exact hf _ _
  · extract_lets us f
    have hff : f.memWf = true := State.keepCode_memWf (hf _ _) _
    clear_value f
    split
    · exact hff
    · split
      · exact hff
      · split
        · generalize unitReadiness f.withoutTrapped us = rr
          split <;> exact hff
        · generalize unitReadiness f us = rr
          split <;> exact hff
theorem State.firstAct_memWf {s : State} (h : s.memWf = true) (l : List Cand) (hl : ∀ c, c ∈ l → c.team.memWf = true) {c : Cand} {f : State} {a : Act}
    (e : s.firstAct l = some (c, f, a)) : f.memWf = true := by
  induction l with
  | nil => cases e
  | cons d ds ih =>
    have hd := State.consider_memWf h d (hl d (List.mem_cons_self ..))
    unfold State.firstAct at e
    split at e
    · exact ih (fun c hc => hl c (List.mem_cons_of_mem _ hc)) e
    · rename_i e2
      cases e
      rw [e2] at hd
      exact hd
theorem State.quantumEnds_memWf {s : State} (h : s.memWf = true) (is : List Instr) : (State.quantumEnds s is).memWf = true := by
  unfold State.quantumEnds
  repeat' first
    | with_reducible assumption | with_reducible refine State.onGroup_memWf ?_ _ | with_reducible refine State.pokeCommit_memWf ?_ _ | dsimp only
    | split
theorem State.retireUnit_memWf {s : State} (h : s.memWf = true) (is : List Instr) : (State.retireUnit s is).memWf = true := by
  unfold State.retireUnit
  repeat' first
    | with_reducible assumption | with_reducible refine State.onGroup_memWf ?_ _ | with_reducible refine State.quantumEnds_memWf ?_ _
theorem State.endTurn_memWf {s : State} (h : s.memWf = true) (c : Cand) (us : List UWord) : (State.endTurn s c us).memWf = true := by
  unfold State.endTurn
  repeat' first
    | with_reducible assumption | with_reducible refine memWf_cur ?_ | with_reducible refine State.unfocus_memWf ?_
    | with_reducible refine State.mapSeat_memWf ?_ _ _ | (simp only [memWf_mk]; with_reducible refine memWf_parts ?_ ?_)
theorem State.load_memWf {s : State} (h : s.memWf = true) (u : UWord) : (State.load s u).memWf = true := by
  unfold State.load
  repeat' first
    | with_reducible assumption | with_reducible refine memWf_cur ?_ | (simp only [memWf_mk]; with_reducible refine memWf_parts ?_ ?_)
theorem State.advance_memWf {s : State} (h : s.memWf = true)  : (State.advance s).memWf = true := by
  unfold State.advance
  repeat' first
    | with_reducible assumption | with_reducible refine State.goto_memWf ?_ _ _
theorem State.correct_memWf {s : State} (h : s.memWf = true) (w : W32) (i : Instr) : (State.correct s w i).memWf = true := by
  unfold State.correct
  repeat' first
    | with_reducible assumption | with_reducible refine memWf_cur ?_ | (with_reducible intro t ht) | with_reducible refine State.onGroup_memWf ?_ _
    | with_reducible refine State.onTeam_memWf ?_ _ ?_ | (simp only [memWf_mk]; with_reducible refine memWf_parts ?_ ?_)
    | (simp only [teamWf_mk]; with_reducible refine teamWf_parts ?_ ?_ ?_ ?_ ?_) | with_reducible refine teamWf_save ?_
    | with_reducible refine teamWf_scratch ?_ | with_reducible refine teamWf_abuf ?_ | with_reducible refine teamWf_wbuf ?_
    | with_reducible refine teamWf_xbuf ?_ | dsimp only | split
theorem checked_memWf {ex : Instr → State → Out} (hx : ∀ i s, s.memWf = true → OutWf (ex i s)) (w : W32) (i : Instr) {s : State}
    (h : s.memWf = true) : OutWf (checked ex w i s) := by
  unfold checked
  split
  · exact hx _ _ (State.correct_memWf h _ _)
  · have hr := hx i s h
    split
    · exact outWf_next (State.trapWord_memWf h _)
    · exact hr
theorem State.overwrite_memWf {s : State} (h : s.memWf = true) (l : List (Nat × LaneMask)) (a : Nat) (b : Nat) : (State.overwrite s l a b).memWf = true := by
  unfold State.overwrite
  repeat' first
    | with_reducible assumption | with_reducible refine memWf_cur ?_ | (simp only [memWf_mk]; with_reducible refine memWf_parts ?_ ?_)
theorem runWords_memWf {ex : Instr → State → Out} (hx : ∀ i s, s.memWf = true → OutWf (ex i s)) (us : List UWord) {s : State}
    (h : s.memWf = true) (bad : List TrapReq) (soft : Option TrapReq) : OutWf (runWords ex us s bad soft) := by
  induction us generalizing s bad soft with
  | nil =>
    have hm : ∀ c : Focus, c.team.memWf = true → ({ s with cur := c } : State).memWf = true := fun c hc => by
      rw [memWf_mk]; exact memWf_parts h hc
    cases bad with
    | nil =>
      cases soft with
      | none => unfold runWords; exact outWf_next h
      | some t => unfold runWords; exact outWf_next (State.takeTrap_memWf (by rw [memWf_mk]; exact memWf_parts h (memWf_cur h)) _ _)
    | cons b bs => unfold runWords; exact outWf_next (hm _ (memWf_cur h))
  | cons u us ih =>
    unfold runWords
    split
    · exact ih h _ _
    · split
      · have hr := checked_memWf hx _ _ (State.load_memWf h u) _ ‹_›
        split
        · exact ih (State.overwrite_memWf hr _ _ _) _ _
        · split
          · exact ih h _ _
          · exact ih h _ _
      · exact checked_memWf hx _ _ (State.load_memWf h u)
theorem State.spreadBlock_memWf {s : State} (h : s.memWf = true)  : (State.spreadBlock s).memWf = true := by
  unfold State.spreadBlock
  repeat' first
    | with_reducible assumption | with_reducible refine State.onGroup_memWf ?_ _ | dsimp only | split
theorem runUnit_memWf {ex : Instr → State → Out} (hx : ∀ i s, s.memWf = true → OutWf (ex i s)) {f : State} (h : f.memWf = true)
    (us : List UWord) : OutWf (runUnit ex f us) := by
  have hm : ∀ c : Focus, c.team.memWf = true → ({ f with cur := c } : State).memWf = true := fun c hc => by
    rw [memWf_mk]; exact memWf_parts h hc
  have ha := State.advance_memWf h
  have hu : ∀ is (r : State), r.memWf = true → (match r.cur.trap with
      | none => r.retireUnit is
      | some t => if t.after then r.retireUnit is else r).memWf = true := by
    intro is r hr
    split
    · exact State.retireUnit_memWf hr _
    · exact memWf_ite (State.retireUnit_memWf hr _) hr
  unfold runUnit
  extract_lets is keep
  split
  · split
    · exact onNext_outWf (checked_memWf hx _ _ (State.load_memWf ha _)) fun r hr => hu _ r hr
    · exact outWf_next h
  · refine onNext_outWf (runWords_memWf hx _ (s := { f.advance with cur := { f.advance.cur with src := some f.cur.group } }) ?_ _ _) fun r hr => ?_
    · rw [memWf_mk]; exact memWf_parts ha (memWf_cur ha)
    · have hw : ∀ r : State, r.memWf = true → (if launchFull f us then (f.block .launch).drain f.cur.team.id true else r.spreadBlock.retireUnit is).memWf = true :=
        fun r hr => memWf_ite (State.drain_memWf (State.block_memWf h _) _ _) (State.retireUnit_memWf (State.spreadBlock_memWf hr) _)
      dsimp only
      split
      · exact hw r hr
      · exact memWf_ite (hw r hr) (State.takeTrap_memWf (by rw [memWf_mk]; exact memWf_parts h (memWf_cur h)) _ _)
theorem State.fetchWait_memWf {s : State} (h : s.memWf = true) (c : Cand) (event : Nat) (n : Nat) (doneAt : Option Nat) : (State.fetchWait s c event n doneAt).memWf = true := by
  unfold State.fetchWait
  repeat' first
    | with_reducible assumption | with_reducible refine State.block_memWf ?_ _ | with_reducible refine State.charge_memWf ?_ _ _ _
theorem State.chargeFetch_memWf {s : State} (h : s.memWf = true) (c : Cand) : (State.chargeFetch s c).memWf = true := by
  unfold State.chargeFetch
  repeat' first
    | with_reducible assumption | with_reducible refine State.unfocus_memWf ?_ | with_reducible refine State.recordFault_memWf ?_ _ _ _ _ _ _
    | with_reducible refine State.fetchWait_memWf ?_ _ _ _ _
theorem State.chargeAway_memWf {s : State} (h : s.memWf = true) (c : Cand) : (State.chargeAway s c).memWf = true := by
  unfold State.chargeAway
  repeat' first
    | with_reducible assumption | with_reducible refine State.draw_memWf ?_ | with_reducible refine State.unfocus_memWf ?_
    | with_reducible refine State.fetchWait_memWf ?_ _ _ _ _
theorem act_memWf {ex : Instr → State → Out} (hx : ∀ i s, s.memWf = true → OutWf (ex i s)) {f : State} (h : f.memWf = true) (c : Cand) (a : Act) :
    OutWf (act ex c f a) := by
  have hm : ∀ (s : State) e, s.memWf = true → ({ s with ev := e } : State).memWf = true := fun s e hs => by
    rw [memWf_mk]; exact memWf_parts hs (memWf_cur hs)
  unfold act
  cases a with
  | none => exact outWf_next (State.unfocus_memWf h)
  | wake vb sb =>
    exact outWf_next (State.unfocus_memWf (memWf_foldl (memWf_foldl h fun s b hs => State.wakeBank_memWf hs _) fun s j hs => State.wakeScratch_memWf hs _ _ _))
  | miss => exact outWf_next (State.chargeFetch_memWf h _)
  | away => exact outWf_next (State.chargeAway_memWf h _)
  | refused => exact outWf_next (State.endTurn_memWf (State.trapWord_memWf (State.logBad_memWf h _ _) _) _ _)
  | deferred => exact onNext_outWf (hx _ _ (hm _ _ h)) fun r hr => State.endTurn_memWf (hm _ _ hr) _ _
  | illegal k w n =>
    refine onNext_outWf (hx _ _ (hm _ _ ?_)) fun r hr => State.endTurn_memWf (hm _ _ hr) _ _
    extract_lets f1
    refine memWf_ite ?_ h
    rw [memWf_mk]; exact memWf_parts h (memWf_cur h)
  | run us => exact onNext_outWf (runUnit_memWf hx h _) fun r hr => State.endTurn_memWf hr _ _
theorem State.take_memWf {s : State} (h : s.memWf = true) (e : Nat × Event) : (State.take s e).memWf = true := by
  unfold State.take
  repeat' first
    | with_reducible assumption | with_reducible refine memWf_cur ?_ | (simp only [memWf_mk]; with_reducible refine memWf_parts ?_ ?_)
theorem State.clear_memWf {s : State} (h : s.memWf = true)  : (State.clear s).memWf = true := by
  unfold State.clear
  repeat' first
    | with_reducible assumption | with_reducible refine memWf_cur ?_ | (simp only [memWf_mk]; with_reducible refine memWf_parts ?_ ?_)
theorem State.tick_memWf {s : State} (h : s.memWf = true)  : (State.tick s).memWf = true := by
  unfold State.tick
  repeat' first
    | with_reducible assumption | with_reducible refine memWf_cur ?_ | (simp only [memWf_mk]; with_reducible refine memWf_parts ?_ ?_)

/-! ### Machine/Dispatch.lean -/

theorem exec_memWf (i : Instr) (s : State) (h : s.memWf = true) : OutWf (exec i s) := by
  cases i
  case nop => exact execNop_memWf h
  case sadd => exact execSadd_memWf h _ _ _
  case ssub => exact execSsub_memWf h _ _ _
  case smul => exact execSmul_memWf h _ _ _
  case smulhS => exact execSmulhS_memWf h _ _ _
  case smulhZ => exact execSmulhZ_memWf h _ _ _
  case sand => exact execSand_memWf h _ _ _
  case sor => exact execSor_memWf h _ _ _
  case sxor => exact execSxor_memWf h _ _ _
  case sshl => exact execSshl_memWf h _ _ _
  case sshrZ => exact execSshrZ_memWf h _ _ _
  case sshrS => exact execSshrS_memWf h _ _ _
  case sminS => exact execSminS_memWf h _ _ _
  case smaxS => exact execSmaxS_memWf h _ _ _
  case sminZ => exact execSminZ_memWf h _ _ _
  case smaxZ => exact execSmaxZ_memWf h _ _ _
  case ssltS => exact execSsltS_memWf h _ _ _
  case ssltZ => exact execSsltZ_memWf h _ _ _
  case sseq => exact execSseq_memWf h _ _ _
  case saddi => exact execSaddi_memWf h _ _ _
  case sandi => exact execSandi_memWf h _ _ _
  case sori => exact execSori_memWf h _ _ _
  case sxori => exact execSxori_memWf h _ _ _
  case sshli => exact execSshli_memWf h _ _ _
  case sshriZ => exact execSshriZ_memWf h _ _ _
  case sshriS => exact execSshriS_memWf h _ _ _
  case slit => exact execSlit_memWf h _ _
  case slitwZ => exact execSlitwZ_memWf h _
  case slitwS => exact execSlitwS_memWf h _
  case slitwLo => exact execSlitwLo_memWf h _
  case slitwHi => exact execSlitwHi_memWf h _
  case sgetsr => exact execSgetsr_memWf h _ _
  case ssetsr => exact execSsetsr_memWf h _ _
  case ssetsrSet => exact execSsetsrSet_memWf h _ _
  case ssetsrClr => exact execSsetsrClr_memWf h _ _
  case scmpEq => exact execScmpEq_memWf h _ _ _
  case scmpNe => exact execScmpNe_memWf h _ _ _
  case scmpLtS => exact execScmpLtS_memWf h _ _ _
  case scmpLeS => exact execScmpLeS_memWf h _ _ _
  case scmpLtZ => exact execScmpLtZ_memWf h _ _ _
  case scmpLeZ => exact execScmpLeZ_memWf h _ _ _
  case sext => exact execSext_memWf h _ _ _ _
  case sextFirst => exact execSextFirst_memWf h _ _ _
  case sextLast => exact execSextLast_memWf h _ _ _
  case vins => exact execVins_memWf h _ _ _ _
  case vinsAll => exact execVinsAll_memWf h _ _ _
  case vadd => exact execVadd_memWf h _ _ _
  case vaddSatS => exact execVaddSatS_memWf h _ _ _
  case vaddSatZ => exact execVaddSatZ_memWf h _ _ _
  case vsub => exact execVsub_memWf h _ _ _
  case vsubSatS => exact execVsubSatS_memWf h _ _ _
  case vsubSatZ => exact execVsubSatZ_memWf h _ _ _
  case vmul => exact execVmul_memWf h _ _ _
  case vmulhS => exact execVmulhS_memWf h _ _ _
  case vmulhZ => exact execVmulhZ_memWf h _ _ _
  case vminS => exact execVminS_memWf h _ _ _
  case vminZ => exact execVminZ_memWf h _ _ _
  case vmaxS => exact execVmaxS_memWf h _ _ _
  case vmaxZ => exact execVmaxZ_memWf h _ _ _
  case vand => exact execVand_memWf h _ _ _
  case vor => exact execVor_memWf h _ _ _
  case vxor => exact execVxor_memWf h _ _ _
  case vandn => exact execVandn_memWf h _ _ _
  case vshl => exact execVshl_memWf h _ _ _
  case vshrZ => exact execVshrZ_memWf h _ _ _
  case vshrS => exact execVshrS_memWf h _ _ _
  case vrot => exact execVrot_memWf h _ _ _
  case vlut3 => exact execVlut3_memWf h _ _ _
  case vpopc => exact execVpopc_memWf h _ _
  case vclz => exact execVclz_memWf h _ _
  case vctz => exact execVctz_memWf h _ _
  case vbrev => exact execVbrev_memWf h _ _
  case vbfxZ => exact execVbfxZ_memWf h _ _ _
  case vbfxS => exact execVbfxS_memWf h _ _ _
  case vbfi => exact execVbfi_memWf h _ _ _
  case vaddi => exact execVaddi_memWf h _ _ _
  case vcmp => exact execVcmp_memWf h _ _ _ _
  case vsel => exact execVsel_memWf h _ _ _ _
  case vmov => exact execVmov_memWf h _ _
  case vmovX64 => exact execVmovX64_memWf h _ _
  case vlit => exact execVlit_memWf h _ _
  case vlaneid => exact execVlaneid_memWf h _
  case vballot => exact execVballot_memWf h _ _
  case vmrank => exact execVmrank_memWf h _ _
  case vmrankInc => exact execVmrankInc_memWf h _ _
  case vshflIdx => exact execVshflIdx_memWf h _ _ _
  case vshflUp => exact execVshflUp_memWf h _ _ _
  case vshflDown => exact execVshflDown_memWf h _ _ _
  case vshflXor => exact execVshflXor_memWf h _ _ _
  case vfold => exact execVfold_memWf h _ _ _
  case vscan => exact execVscan_memWf h _ _ _ _
  case vregrp => exact execVregrp_memWf h _ _ _ _
  case vfadd => exact execVfadd_memWf h _ _ _ _
  case vfsub => exact execVfsub_memWf h _ _ _ _
  case vfmul => exact execVfmul_memWf h _ _ _ _
  case vfma => exact execVfma_memWf h _ _ _ _
  case vfnma => exact execVfnma_memWf h _ _ _ _
  case vfdiv => exact execVfdiv_memWf h _ _ _ _
  case vfmin => exact execVfmin_memWf h _ _ _
  case vfmax => exact execVfmax_memWf h _ _ _
  case vfminn => exact execVfminn_memWf h _ _ _
  case vfmaxn => exact execVfmaxn_memWf h _ _ _
  case vfcmp => exact execVfcmp_memWf h _ _ _ _
  case vfsqrt => exact execVfsqrt_memWf h _ _
  case vfrcp => exact execVfrcp_memWf h _ _
  case vfrsq => exact execVfrsq_memWf h _ _
  case vfex2 => exact execVfex2_memWf h _ _
  case vflg2 => exact execVflg2_memWf h _ _
  case vfabs => exact execVfabs_memWf h _ _
  case vfneg => exact execVfneg_memWf h _ _
  case vfcpsgn => exact execVfcpsgn_memWf h _ _ _
  case vdadd => exact execVdadd_memWf h _ _ _
  case vdsub => exact execVdsub_memWf h _ _ _
  case vdmul => exact execVdmul_memWf h _ _ _
  case vdfma => exact execVdfma_memWf h _ _ _
  case vddiv => exact execVddiv_memWf h _ _ _ _
  case vdcmp => exact execVdcmp_memWf h _ _ _ _
  case vdsqrt => exact execVdsqrt_memWf h _ _
  case vhadd => exact execVhadd_memWf h _ _ _ _
  case vhmul => exact execVhmul_memWf h _ _ _ _
  case vhfma => exact execVhfma_memWf h _ _ _ _
  case vcvt => exact execVcvt_memWf h _ _ _ _ _
  case vquantD8 => exact execVquantD8_memWf h _ _ _
  case vquantD6 => exact execVquantD6_memWf h _ _ _
  case vquantM4 => exact execVquantM4_memWf h _ _ _
  case vquantS8 => exact execVquantS8_memWf h _ _ _
  case vpack => exact execVpack_memWf h _ _ _
  case vunpkZ => exact execVunpkZ_memWf h _ _ _
  case vunpkS => exact execVunpkS_memWf h _ _ _
  case sgBoard => exact execSgBoard_memWf h _ _
  case sgAlight => exact execSgAlight_memWf h _ _
  case sgCap => exact execSgCap_memWf h _ _ _
  case sgMod => exact execSgMod_memWf h _ _ _ _ _
  case sgArm => exact execSgArm_memWf h _ _ _ _
  case sgRev => exact execSgRev_memWf h _ _
  case sgRevOfs => exact execSgRevOfs_memWf h _
  case br => exact execBr_memWf h _
  case brAny => exact execBrAny_memWf h _ _
  case brAll => exact execBrAll_memWf h _ _
  case brNone => exact execBrNone_memWf h _ _
  case call => exact execCall_memWf h _
  case jmp => exact execJmp_memWf h _ _
  case brx => exact execBrx_memWf h _ _
  case vif => exact execVif_memWf h _
  case velse => exact execVelse_memWf h
  case vend => exact execVend_memWf h
  case vkill => exact execVkill_memWf h _
  case vbrk => exact execVbrk_memWf h _ _
  case exit => exact execExit_memWf h
  case trap => exact execTrap_memWf h _
  case brk => exact execBrk_memWf h _
  case vldZ => exact execVldZ_memWf h _ _ _ _ _
  case vldS => exact execVldS_memWf h _ _ _ _ _
  case vst => exact execVst_memWf h _ _ _ _ _
  case sld => exact execSld_memWf h _ _ _
  case slw => exact execSlw_memWf h _ _ _
  case sst => exact execSst_memWf h _ _ _
  case ssw => exact execSsw_memWf h _ _ _
  case vlds => exact execVlds_memWf h _ _ _ _
  case vsts => exact execVsts_memWf h _ _ _ _
  case vlda => exact execVlda_memWf h _ _ _ _
  case vsta => exact execVsta_memWf h _ _ _ _
  case vldx => exact execVldx_memWf h _ _ _ _
  case vatom => exact execVatom_memWf h _ _ _ _ _
  case vmred => exact execVmred_memWf h _ _ _ _ _
  case satom => exact execSatom_memWf h _ _ _ _ _
  case vatoms => exact execVatoms_memWf h _ _ _ _ _
  case fence => exact execFence_memWf h _ _ _
  case barInit => exact execBarInit_memWf h _ _
  case barExpect => exact execBarExpect_memWf h _ _
  case barArrive => exact execBarArrive_memWf h _ _ _
  case barArriveExp => exact execBarArriveExp_memWf h _ _ _ _
  case barWait => exact execBarWait_memWf h _ _ _ _
  case barTest => exact execBarTest_memWf h _ _ _ _
  case barPhase => exact execBarPhase_memWf h _ _
  case waitc => exact execWaitc_memWf h _ _ _ _
  case vbank => exact execVbank_memWf h _ _
  case pbank => exact execPbank_memWf h _ _ _
  case eacq => exact execEacq_memWf h
  case eacqTry => exact execEacqTry_memWf h _
  case erel => exact execErel_memWf h
  case cpG2s => exact execCpG2s_memWf h _ _
  case cpS2g => exact execCpS2g_memWf h _ _
  case cpG2a => exact execCpG2a_memWf h _ _
  case cpG2w => exact execCpG2w_memWf h _ _
  case cpX2g => exact execCpX2g_memWf h _ _
  case cpG2g => exact execCpG2g_memWf h _ _
  case cpCirc => exact execCpCirc_memWf h _ _
  case gth => exact execGth_memWf h _ _
  case qfence => exact execQfence_memWf h _
  case cbWait => exact execCbWait_memWf h _ _
  case cbFree => exact execCbFree_memWf h _
  case launch => exact execLaunch_memWf h _
  case launchTry => exact execLaunchTry_memWf h _ _
  case join => exact execJoin_memWf h _
  case joinAll => exact execJoinAll_memWf h
  case joinDoor => exact execJoinDoor_memWf h _
  case amsg => exact execAmsg_memWf h _
  case xcfg => exact execXcfg_memWf h _ _ _
  case xlds => exact execXlds_memWf h _ _ _
  case xswp => exact execXswp_memWf h _
  case xmm => exact execXmm_memWf h _ _ _ _ _
  case xbmm => exact execXbmm_memWf h _ _ _ _
  case xscac => exact execXscac_memWf h _ _
  case xdrn => exact execXdrn_memWf h _
  case xrel => exact execXrel_memWf h _ _
  case eret => exact execEret_memWf h
  case mfsys => exact execMfsys_memWf h _ _
  case mtsys => exact execMtsys_memWf h _ _
  case tlbinvVa => exact execTlbinvVa_memWf h _
  case tlbinvAsid => exact execTlbinvAsid_memWf h _
  case tlbinvAll => exact execTlbinvAll_memWf h
  case seatctlEvack => exact execSeatctlEvack_memWf h _
  case seatctlKill => exact execSeatctlKill_memWf h _
  case seatctlYield => exact execSeatctlYield_memWf h _
  case halt => exact execHalt_memWf h _
  case deferredTrap => exact execDeferredTrap_memWf h
  case resetRelease => exact execResetRelease_memWf h
  case frameBoundary => exact execFrameBoundary_memWf h
  case seating => exact execSeating_memWf h
  case leaseBegin => exact execLeaseBegin_memWf h
  case leaseEnd => exact execLeaseEnd_memWf h
  case positionStart => exact execPositionStart_memWf h
  case dramRefresh => exact execDramRefresh_memWf h
  case loadReply => exact execLoadReply_memWf h
  case storePerform => exact execStorePerform_memWf h
  case storeAcknowledge => exact execStoreAcknowledge_memWf h
  case lineRecall => exact execLineRecall_memWf h
  case atomicPerform => exact execAtomicPerform_memWf h
  case scratchpadRowServe => exact execScratchpadRowServe_memWf h
  case bufferPortCycle => exact execBufferPortCycle_memWf h
  case bankWakeEnd => exact execBankWakeEnd_memWf h
  case eacqGrant => exact execEacqGrant_memWf h
  case releaseApply => exact execReleaseApply_memWf h
  case waitResume => exact execWaitResume_memWf h
  case waitcResume => exact execWaitcResume_memWf h
  case copyCommandStart => exact execCopyCommandStart_memWf h
  case circSlotReady => exact execCircSlotReady_memWf h
  case copyPieceStart => exact execCopyPieceStart_memWf h
  case pieceLand => exact execPieceLand_memWf h
  case heldPieceRelease => exact execHeldPieceRelease_memWf h
  case copyCommandComplete => exact execCopyCommandComplete_memWf h
  case xldsComplete => exact execXldsComplete_memWf h
  case xswpComplete => exact execXswpComplete_memWf h
  case rowInject => exact execRowInject_memWf h
  case passComplete => exact execPassComplete_memWf h
  case xcfgComplete => exact execXcfgComplete_memWf h
  case xrelComplete => exact execXrelComplete_memWf h
  case xdrnComplete => exact execXdrnComplete_memWf h
  case xscacComplete => exact execXscacComplete_memWf h
  case ringPassage => exact execRingPassage_memWf h
  case ringResultWrite => exact execRingResultWrite_memWf h
  case alightWritePerformed => exact execAlightWritePerformed_memWf h
  case chargedWaitDue => exact execChargedWaitDue_memWf h
  case lateWaitFreeze => exact execLateWaitFreeze_memWf h
  case freezeResume => exact execFreezeResume_memWf h
  case quantumEnd => exact execQuantumEnd_memWf h
  case switchComplete => exact execSwitchComplete_memWf h
  case teamCarving => exact execTeamCarving_memWf h
  case teamRelease => exact execTeamRelease_memWf h
  case victimChoice => exact execVictimChoice_memWf h
  case drainComplete => exact execDrainComplete_memWf h
  case saveComplete => exact execSaveComplete_memWf h
  case parkWake => exact execParkWake_memWf h
  case groupEnd => exact execGroupEnd_memWf h
  case teamEnd => exact execTeamEnd_memWf h
  case gridEnd => exact execGridEnd_memWf h
  case regroupComplete => exact execRegroupComplete_memWf h
  case tlbWalkComplete => exact execTlbWalkComplete_memWf h
  case tlbinvComplete => exact execTlbinvComplete_memWf h
  case faultService => exact execFaultService_memWf h
  case logReplay => exact execLogReplay_memWf h
  case pageMigration => exact execPageMigration_memWf h
  case heatSweep => exact execHeatSweep_memWf h
  case loadBalance => exact execLoadBalance_memWf h
  case amsgAccept => exact execAmsgAccept_memWf h
  case doorbellWrite => exact execDoorbellWrite_memWf h
  case doorcntWrite => exact execDoorcntWrite_memWf h
  case queueNop => exact execQueueNop_memWf h
  case queueLaunch => exact execQueueLaunch_memWf h
  case indirect => exact execIndirect_memWf h
  case signal => exact execSignal_memWf h
  case wait => exact execWait_memWf h
  case waitReread => exact execWaitReread_memWf h
  case launchDelivery => exact execLaunchDelivery_memWf h
  case completionWrite => exact execCompletionWrite_memWf h
  case cqdoneReread => exact execCqdoneReread_memWf h
  case admitSeat => exact execAdmitSeat_memWf h
  case evict => exact execEvict_memWf h
  case seatEviction => exact execSeatEviction_memWf h
  case lease => exact execLease_memWf h
  case qtable => exact execQtable_memWf h
  case qreg => exact execQreg_memWf h
  case runmode => exact execRunmode_memWf h
  case preempt => exact execPreempt_memWf h
  case preemptDelivery => exact execPreemptDelivery_memWf h
  case resume => exact execResume_memWf h
  case powercap => exact execPowercap_memWf h
  case status => exact execStatus_memWf h
  case seatfloor => exact execSeatfloor_memWf h
  case pagedone => exact execPagedone_memWf h
  case unfence => exact execUnfence_memWf h
  case fenceLift => exact execFenceLift_memWf h
  case linkopen => exact execLinkopen_memWf h
  case undefinedCommand => exact execUndefinedCommand_memWf h
  case registerWrite => exact execRegisterWrite_memWf h
  case powerEvaluation => exact execPowerEvaluation_memWf h
  case clockStepChange => exact execClockStepChange_memWf h
  case quantumCommit => exact execQuantumCommit_memWf h
  case hostBarRequest => exact execHostBarRequest_memWf h
  case atsInvalidationRequest => exact execAtsInvalidationRequest_memWf h
  case atsCompletion => exact execAtsCompletion_memWf h
  case priResponse => exact execPriResponse_memWf h
  case linkRetrain => exact execLinkRetrain_memWf h
  case spdmRequest => exact execSpdmRequest_memWf h
  case mctpStatus => exact execMctpStatus_memWf h
  case colalmInboundRequest => exact execColalmInboundRequest_memWf h
  case colalmTraining => exact execColalmTraining_memWf h
  case dramReadRetry => exact execDramReadRetry_memWf h
  case meshFlitRetry => exact execMeshFlitRetry_memWf h
  case illegalInstruction => exact execIllegalInstruction_memWf h
  case configurationRequest => exact execConfigurationRequest_memWf h

end Sys2Proof.Machine
end

