-- ==== Sys2Proof/Laws/FormStep.lean ====
section
/-! SUPPORT. The choice of what issues next keeps every memory's canonical form: candidates, seats, cores. -/

namespace Sys2Proof.Machine
open Sys2Proof Sys2Proof.Laws
theorem mem_insertBy {α : Type} {b : α → α → Bool} {a x : α} {l : List α} (h : x ∈ insertBy b a l) : x = a ∨ x ∈ l := by
  induction l with
  | nil => simpa [insertBy] using h
  | cons y ys ih =>
    unfold insertBy at h
    split at h
    · rcases List.mem_cons.1 h with rfl | h
      · exact .inr (List.mem_cons_self ..)
      · exact (ih h).imp_right (List.mem_cons_of_mem _)
    · exact List.mem_cons.1 h
theorem mem_sortBy {α : Type} {b : α → α → Bool} {x : α} {l : List α} (h : x ∈ sortBy b l) : x ∈ l := by
  unfold sortBy at h
  induction l with
  | nil => exact h
  | cons y ys ih => rcases mem_insertBy h with rfl | h; exacts [List.mem_cons_self .., List.mem_cons_of_mem _ (ih h)]
theorem State.candidates_memWf {s : State} (h : s.memWf = true) (seat core : Nat) : ∀ c, c ∈ s.candidates seat core → c.team.memWf = true := by
  intro c hc
  have hc := mem_sortBy hc
  obtain ⟨t, ht, hc⟩ := List.mem_flatMap.1 hc
  obtain ⟨g, _, hc⟩ := List.mem_flatMap.1 hc
  obtain ⟨p, _, rfl⟩ := List.mem_map.1 hc
  have ht := (List.mem_filter.1 (List.mem_filter.1 ht).1).1
  rcases List.mem_append.1 ht with ht | ht
  · split at ht
    · rw [List.mem_singleton.1 ht]; exact memWf_cur h
    · cases ht
  · exact memWf_teams h t ht
theorem mem_rotate {k : Option (Nat × Nat × Nat)} {l : List Cand} {c : Cand} (h : c ∈ rotate k l) : c ∈ l := by
  unfold rotate at h
  split at h
  · exact h
  · rcases List.mem_append.1 h with h | h <;> exact (List.mem_filter.1 h).1
theorem State.seatAct_memWf {s : State} (h : s.memWf = true) (core seat : Nat) {c : Cand} {f : State} {a : Act}
    (e : s.seatAct core seat = some (c, f, a)) : f.memWf = true := by
  unfold State.seatAct at e
  split at e
  · cases e
  · split at e
    · exact State.firstAct_memWf h _ (fun c hc => State.candidates_memWf h _ _ c (mem_rotate hc)) e
    · cases e
theorem State.pick_memWf {s : State} (h : s.memWf = true) {c : Cand} {f : State} {a : Act} (e : s.pick = some (c, f, a)) : f.memWf = true := by
  unfold State.pick at e
  obtain ⟨core, _, e⟩ := List.exists_of_findSome?_eq_some e
  unfold State.coreAct at e
  split at e
  · rename_i q
    cases e
    obtain ⟨n, _, q⟩ := Option.bind_eq_some_iff.1 q
    exact State.seatAct_memWf h _ _ q
  · split at e
    · cases e
    · exact State.seatAct_memWf h _ _ e

end Sys2Proof.Machine
end

