-- ==== Sys2Proof/Laws/State.lean ====
section
/-!
SUPPORT. One lemma for each field and each update of the state, so that no later proof unfolds a record update.
-/

namespace Sys2Proof.Laws

open Sys2Proof Sys2Proof.Machine

@[simp] theorem onGroup_g (s : State) (f : Group → Group) : (s.onGroup f).g = s.g := rfl
@[simp] theorem onGroup_agenda (s : State) (f : Group → Group) : (s.onGroup f).agenda = s.agenda := rfl
@[simp] theorem onGroup_ev (s : State) (f : Group → Group) : (s.onGroup f).ev = s.ev := rfl
@[simp] theorem onGroup_issued (s : State) (f : Group → Group) : (s.onGroup f).issued = s.issued := rfl
@[simp] theorem onGroup_freed (s : State) (f : Group → Group) : (s.onGroup f).freed = s.freed := rfl
@[simp] theorem onGroup_freedArms (s : State) (f : Group → Group) : (s.onGroup f).freedArms = s.freedArms := rfl
@[simp] theorem onGroup_mem (s : State) (f : Group → Group) : (s.onGroup f).mem = s.mem := rfl
@[simp] theorem onGroup_hostMem (s : State) (f : Group → Group) : (s.onGroup f).hostMem = s.hostMem := rfl
@[simp] theorem onGroup_peerMem (s : State) (f : Group → Group) : (s.onGroup f).peerMem = s.peerMem := rfl
@[simp] theorem onGroup_teams (s : State) (f : Group → Group) : (s.onGroup f).teams = s.teams := rfl
@[simp] theorem onGroup_grids (s : State) (f : Group → Group) : (s.onGroup f).grids = s.grids := rfl
@[simp] theorem onGroup_ops (s : State) (f : Group → Group) : (s.onGroup f).ops = s.ops := rfl
@[simp] theorem onGroup_reqs (s : State) (f : Group → Group) : (s.onGroup f).reqs = s.reqs := rfl
@[simp] theorem onGroup_walks (s : State) (f : Group → Group) : (s.onGroup f).walks = s.walks := rfl
@[simp] theorem onGroup_faults (s : State) (f : Group → Group) : (s.onGroup f).faults = s.faults := rfl
@[simp] theorem onGroup_seats (s : State) (f : Group → Group) : (s.onGroup f).seats = s.seats := rfl
@[simp] theorem onGroup_slots (s : State) (f : Group → Group) : (s.onGroup f).slots = s.slots := rfl
@[simp] theorem onGroup_arms (s : State) (f : Group → Group) : (s.onGroup f).arms = s.arms := rfl
@[simp] theorem onGroup_pairs (s : State) (f : Group → Group) : (s.onGroup f).pairs = s.pairs := rfl
@[simp] theorem onGroup_passes (s : State) (f : Group → Group) : (s.onGroup f).passes = s.passes := rfl
@[simp] theorem onGroup_fencedMx (s : State) (f : Group → Group) : (s.onGroup f).fencedMx = s.fencedMx := rfl
@[simp] theorem onGroup_fencedLinks (s : State) (f : Group → Group) : (s.onGroup f).fencedLinks = s.fencedLinks := rfl
@[simp] theorem onGroup_lastRow (s : State) (f : Group → Group) : (s.onGroup f).lastRow = s.lastRow := rfl
@[simp] theorem onGroup_ports (s : State) (f : Group → Group) : (s.onGroup f).ports = s.ports := rfl
@[simp] theorem onGroup_corrected (s : State) (f : Group → Group) : (s.onGroup f).corrected = s.corrected := rfl
@[simp] theorem onGroup_badFrames (s : State) (f : Group → Group) : (s.onGroup f).badFrames = s.badFrames := rfl
@[simp] theorem onGroup_queues (s : State) (f : Group → Group) : (s.onGroup f).queues = s.queues := rfl
@[simp] theorem onGroup_completions (s : State) (f : Group → Group) : (s.onGroup f).completions = s.completions := rfl
@[simp] theorem onGroup_cqSeq (s : State) (f : Group → Group) : (s.onGroup f).cqSeq = s.cqSeq := rfl
@[simp] theorem onGroup_doors (s : State) (f : Group → Group) : (s.onGroup f).doors = s.doors := rfl
@[simp] theorem onGroup_runModes (s : State) (f : Group → Group) : (s.onGroup f).runModes = s.runModes := rfl
@[simp] theorem onGroup_preempted (s : State) (f : Group → Group) : (s.onGroup f).preempted = s.preempted := rfl
@[simp] theorem onGroup_host (s : State) (f : Group → Group) : (s.onGroup f).host = s.host := rfl
@[simp] theorem onGroup_mail (s : State) (f : Group → Group) : (s.onGroup f).mail = s.mail := rfl
@[simp] theorem onGroup_mailWait (s : State) (f : Group → Group) : (s.onGroup f).mailWait = s.mailWait := rfl
@[simp] theorem onGroup_visits (s : State) (f : Group → Group) : (s.onGroup f).visits = s.visits := rfl
@[simp] theorem onGroup_windows (s : State) (f : Group → Group) : (s.onGroup f).windows = s.windows := rfl
@[simp] theorem onGroup_power (s : State) (f : Group → Group) : (s.onGroup f).power = s.power := rfl
@[simp] theorem onGroup_link (s : State) (f : Group → Group) : (s.onGroup f).link = s.link := rfl
@[simp] theorem onGroup_asBase (s : State) (f : Group → Group) : (s.onGroup f).asBase = s.asBase := rfl
@[simp] theorem onGroup_nextOp (s : State) (f : Group → Group) : (s.onGroup f).nextOp = s.nextOp := rfl
@[simp] theorem onGroup_nextId (s : State) (f : Group → Group) : (s.onGroup f).nextId = s.nextId := rfl
@[simp] theorem onGroup_draws (s : State) (f : Group → Group) : (s.onGroup f).draws = s.draws := rfl
@[simp] theorem onGroup_cur_live (s : State) (f : Group → Group) : (s.onGroup f).cur.live = s.cur.live := rfl
@[simp] theorem onGroup_cur_team (s : State) (f : Group → Group) : (s.onGroup f).cur.team = s.cur.team := rfl
@[simp] theorem onGroup_cur_split (s : State) (f : Group → Group) : (s.onGroup f).cur.split = s.cur.split := rfl
@[simp] theorem onGroup_cur_pkt (s : State) (f : Group → Group) : (s.onGroup f).cur.pkt = s.cur.pkt := rfl
@[simp] theorem onGroup_cur_slot (s : State) (f : Group → Group) : (s.onGroup f).cur.slot = s.cur.slot := rfl
@[simp] theorem onGroup_cur_unitSlot (s : State) (f : Group → Group) : (s.onGroup f).cur.unitSlot = s.cur.unitSlot := rfl
@[simp] theorem onGroup_cur_nextPkt (s : State) (f : Group → Group) : (s.onGroup f).cur.nextPkt = s.cur.nextPkt := rfl
@[simp] theorem onGroup_cur_nextSlot (s : State) (f : Group → Group) : (s.onGroup f).cur.nextSlot = s.cur.nextSlot := rfl
@[simp] theorem onGroup_cur_word (s : State) (f : Group → Group) : (s.onGroup f).cur.word = s.cur.word := rfl
@[simp] theorem onGroup_cur_lit (s : State) (f : Group → Group) : (s.onGroup f).cur.lit = s.cur.lit := rfl
@[simp] theorem onGroup_cur_age (s : State) (f : Group → Group) : (s.onGroup f).cur.age = s.cur.age := rfl
@[simp] theorem onGroup_cur_src (s : State) (f : Group → Group) : (s.onGroup f).cur.src = s.cur.src := rfl
@[simp] theorem onGroup_cur_trap (s : State) (f : Group → Group) : (s.onGroup f).cur.trap = s.cur.trap := rfl
@[simp] theorem onRegs_g (s : State) (f : Regs → Regs) : (s.onRegs f).g = s.g := rfl
@[simp] theorem onRegs_agenda (s : State) (f : Regs → Regs) : (s.onRegs f).agenda = s.agenda := rfl
@[simp] theorem onRegs_ev (s : State) (f : Regs → Regs) : (s.onRegs f).ev = s.ev := rfl
@[simp] theorem onRegs_issued (s : State) (f : Regs → Regs) : (s.onRegs f).issued = s.issued := rfl
@[simp] theorem onRegs_freed (s : State) (f : Regs → Regs) : (s.onRegs f).freed = s.freed := rfl
@[simp] theorem onRegs_freedArms (s : State) (f : Regs → Regs) : (s.onRegs f).freedArms = s.freedArms := rfl
@[simp] theorem onRegs_mem (s : State) (f : Regs → Regs) : (s.onRegs f).mem = s.mem := rfl
@[simp] theorem onRegs_hostMem (s : State) (f : Regs → Regs) : (s.onRegs f).hostMem = s.hostMem := rfl
@[simp] theorem onRegs_peerMem (s : State) (f : Regs → Regs) : (s.onRegs f).peerMem = s.peerMem := rfl
@[simp] theorem onRegs_teams (s : State) (f : Regs → Regs) : (s.onRegs f).teams = s.teams := rfl
@[simp] theorem onRegs_grids (s : State) (f : Regs → Regs) : (s.onRegs f).grids = s.grids := rfl
@[simp] theorem onRegs_ops (s : State) (f : Regs → Regs) : (s.onRegs f).ops = s.ops := rfl
@[simp] theorem onRegs_reqs (s : State) (f : Regs → Regs) : (s.onRegs f).reqs = s.reqs := rfl
@[simp] theorem onRegs_walks (s : State) (f : Regs → Regs) : (s.onRegs f).walks = s.walks := rfl
@[simp] theorem onRegs_faults (s : State) (f : Regs → Regs) : (s.onRegs f).faults = s.faults := rfl
@[simp] theorem onRegs_seats (s : State) (f : Regs → Regs) : (s.onRegs f).seats = s.seats := rfl
@[simp] theorem onRegs_slots (s : State) (f : Regs → Regs) : (s.onRegs f).slots = s.slots := rfl
@[simp] theorem onRegs_arms (s : State) (f : Regs → Regs) : (s.onRegs f).arms = s.arms := rfl
@[simp] theorem onRegs_pairs (s : State) (f : Regs → Regs) : (s.onRegs f).pairs = s.pairs := rfl
@[simp] theorem onRegs_passes (s : State) (f : Regs → Regs) : (s.onRegs f).passes = s.passes := rfl
@[simp] theorem onRegs_fencedMx (s : State) (f : Regs → Regs) : (s.onRegs f).fencedMx = s.fencedMx := rfl
@[simp] theorem onRegs_fencedLinks (s : State) (f : Regs → Regs) : (s.onRegs f).fencedLinks = s.fencedLinks := rfl
@[simp] theorem onRegs_lastRow (s : State) (f : Regs → Regs) : (s.onRegs f).lastRow = s.lastRow := rfl
@[simp] theorem onRegs_ports (s : State) (f : Regs → Regs) : (s.onRegs f).ports = s.ports := rfl
@[simp] theorem onRegs_corrected (s : State) (f : Regs → Regs) : (s.onRegs f).corrected = s.corrected := rfl
@[simp] theorem onRegs_badFrames (s : State) (f : Regs → Regs) : (s.onRegs f).badFrames = s.badFrames := rfl
@[simp] theorem onRegs_queues (s : State) (f : Regs → Regs) : (s.onRegs f).queues = s.queues := rfl
@[simp] theorem onRegs_completions (s : State) (f : Regs → Regs) : (s.onRegs f).completions = s.completions := rfl
@[simp] theorem onRegs_cqSeq (s : State) (f : Regs → Regs) : (s.onRegs f).cqSeq = s.cqSeq := rfl
@[simp] theorem onRegs_doors (s : State) (f : Regs → Regs) : (s.onRegs f).doors = s.doors := rfl
@[simp] theorem onRegs_runModes (s : State) (f : Regs → Regs) : (s.onRegs f).runModes = s.runModes := rfl
@[simp] theorem onRegs_preempted (s : State) (f : Regs → Regs) : (s.onRegs f).preempted = s.preempted := rfl
@[simp] theorem onRegs_host (s : State) (f : Regs → Regs) : (s.onRegs f).host = s.host := rfl
@[simp] theorem onRegs_mail (s : State) (f : Regs → Regs) : (s.onRegs f).mail = s.mail := rfl
@[simp] theorem onRegs_mailWait (s : State) (f : Regs → Regs) : (s.onRegs f).mailWait = s.mailWait := rfl
@[simp] theorem onRegs_visits (s : State) (f : Regs → Regs) : (s.onRegs f).visits = s.visits := rfl
@[simp] theorem onRegs_windows (s : State) (f : Regs → Regs) : (s.onRegs f).windows = s.windows := rfl
@[simp] theorem onRegs_power (s : State) (f : Regs → Regs) : (s.onRegs f).power = s.power := rfl
@[simp] theorem onRegs_link (s : State) (f : Regs → Regs) : (s.onRegs f).link = s.link := rfl
@[simp] theorem onRegs_asBase (s : State) (f : Regs → Regs) : (s.onRegs f).asBase = s.asBase := rfl
@[simp] theorem onRegs_nextOp (s : State) (f : Regs → Regs) : (s.onRegs f).nextOp = s.nextOp := rfl
@[simp] theorem onRegs_nextId (s : State) (f : Regs → Regs) : (s.onRegs f).nextId = s.nextId := rfl
@[simp] theorem onRegs_draws (s : State) (f : Regs → Regs) : (s.onRegs f).draws = s.draws := rfl
@[simp] theorem onRegs_cur_live (s : State) (f : Regs → Regs) : (s.onRegs f).cur.live = s.cur.live := rfl
@[simp] theorem onRegs_cur_team (s : State) (f : Regs → Regs) : (s.onRegs f).cur.team = s.cur.team := rfl
@[simp] theorem onRegs_cur_split (s : State) (f : Regs → Regs) : (s.onRegs f).cur.split = s.cur.split := rfl
@[simp] theorem onRegs_cur_pkt (s : State) (f : Regs → Regs) : (s.onRegs f).cur.pkt = s.cur.pkt := rfl
@[simp] theorem onRegs_cur_slot (s : State) (f : Regs → Regs) : (s.onRegs f).cur.slot = s.cur.slot := rfl
@[simp] theorem onRegs_cur_unitSlot (s : State) (f : Regs → Regs) : (s.onRegs f).cur.unitSlot = s.cur.unitSlot := rfl
@[simp] theorem onRegs_cur_nextPkt (s : State) (f : Regs → Regs) : (s.onRegs f).cur.nextPkt = s.cur.nextPkt := rfl
@[simp] theorem onRegs_cur_nextSlot (s : State) (f : Regs → Regs) : (s.onRegs f).cur.nextSlot = s.cur.nextSlot := rfl
@[simp] theorem onRegs_cur_word (s : State) (f : Regs → Regs) : (s.onRegs f).cur.word = s.cur.word := rfl
@[simp] theorem onRegs_cur_lit (s : State) (f : Regs → Regs) : (s.onRegs f).cur.lit = s.cur.lit := rfl
@[simp] theorem onRegs_cur_age (s : State) (f : Regs → Regs) : (s.onRegs f).cur.age = s.cur.age := rfl
@[simp] theorem onRegs_cur_src (s : State) (f : Regs → Regs) : (s.onRegs f).cur.src = s.cur.src := rfl
@[simp] theorem onRegs_cur_trap (s : State) (f : Regs → Regs) : (s.onRegs f).cur.trap = s.cur.trap := rfl
@[simp] theorem wS_g (s : State) (k : Nat) (v : W64) : (s.wS k v).g = s.g := rfl
@[simp] theorem wS_agenda (s : State) (k : Nat) (v : W64) : (s.wS k v).agenda = s.agenda := rfl
@[simp] theorem wS_ev (s : State) (k : Nat) (v : W64) : (s.wS k v).ev = s.ev := rfl
@[simp] theorem wS_issued (s : State) (k : Nat) (v : W64) : (s.wS k v).issued = s.issued := rfl
@[simp] theorem wS_freed (s : State) (k : Nat) (v : W64) : (s.wS k v).freed = s.freed := rfl
@[simp] theorem wS_freedArms (s : State) (k : Nat) (v : W64) : (s.wS k v).freedArms = s.freedArms := rfl
@[simp] theorem wS_mem (s : State) (k : Nat) (v : W64) : (s.wS k v).mem = s.mem := rfl
@[simp] theorem wS_hostMem (s : State) (k : Nat) (v : W64) : (s.wS k v).hostMem = s.hostMem := rfl
@[simp] theorem wS_peerMem (s : State) (k : Nat) (v : W64) : (s.wS k v).peerMem = s.peerMem := rfl
@[simp] theorem wS_teams (s : State) (k : Nat) (v : W64) : (s.wS k v).teams = s.teams := rfl
@[simp] theorem wS_grids (s : State) (k : Nat) (v : W64) : (s.wS k v).grids = s.grids := rfl
@[simp] theorem wS_ops (s : State) (k : Nat) (v : W64) : (s.wS k v).ops = s.ops := rfl
@[simp] theorem wS_reqs (s : State) (k : Nat) (v : W64) : (s.wS k v).reqs = s.reqs := rfl
@[simp] theorem wS_walks (s : State) (k : Nat) (v : W64) : (s.wS k v).walks = s.walks := rfl
@[simp] theorem wS_faults (s : State) (k : Nat) (v : W64) : (s.wS k v).faults = s.faults := rfl
@[simp] theorem wS_seats (s : State) (k : Nat) (v : W64) : (s.wS k v).seats = s.seats := rfl
@[simp] theorem wS_slots (s : State) (k : Nat) (v : W64) : (s.wS k v).slots = s.slots := rfl
@[simp] theorem wS_arms (s : State) (k : Nat) (v : W64) : (s.wS k v).arms = s.arms := rfl
@[simp] theorem wS_pairs (s : State) (k : Nat) (v : W64) : (s.wS k v).pairs = s.pairs := rfl
@[simp] theorem wS_passes (s : State) (k : Nat) (v : W64) : (s.wS k v).passes = s.passes := rfl
@[simp] theorem wS_fencedMx (s : State) (k : Nat) (v : W64) : (s.wS k v).fencedMx = s.fencedMx := rfl
@[simp] theorem wS_fencedLinks (s : State) (k : Nat) (v : W64) : (s.wS k v).fencedLinks = s.fencedLinks := rfl
@[simp] theorem wS_lastRow (s : State) (k : Nat) (v : W64) : (s.wS k v).lastRow = s.lastRow := rfl
@[simp] theorem wS_ports (s : State) (k : Nat) (v : W64) : (s.wS k v).ports = s.ports := rfl
@[simp] theorem wS_corrected (s : State) (k : Nat) (v : W64) : (s.wS k v).corrected = s.corrected := rfl
@[simp] theorem wS_badFrames (s : State) (k : Nat) (v : W64) : (s.wS k v).badFrames = s.badFrames := rfl
@[simp] theorem wS_queues (s : State) (k : Nat) (v : W64) : (s.wS k v).queues = s.queues := rfl
@[simp] theorem wS_completions (s : State) (k : Nat) (v : W64) : (s.wS k v).completions = s.completions := rfl
@[simp] theorem wS_cqSeq (s : State) (k : Nat) (v : W64) : (s.wS k v).cqSeq = s.cqSeq := rfl
@[simp] theorem wS_doors (s : State) (k : Nat) (v : W64) : (s.wS k v).doors = s.doors := rfl
@[simp] theorem wS_runModes (s : State) (k : Nat) (v : W64) : (s.wS k v).runModes = s.runModes := rfl
@[simp] theorem wS_preempted (s : State) (k : Nat) (v : W64) : (s.wS k v).preempted = s.preempted := rfl
@[simp] theorem wS_host (s : State) (k : Nat) (v : W64) : (s.wS k v).host = s.host := rfl
@[simp] theorem wS_mail (s : State) (k : Nat) (v : W64) : (s.wS k v).mail = s.mail := rfl
@[simp] theorem wS_mailWait (s : State) (k : Nat) (v : W64) : (s.wS k v).mailWait = s.mailWait := rfl
@[simp] theorem wS_visits (s : State) (k : Nat) (v : W64) : (s.wS k v).visits = s.visits := rfl
@[simp] theorem wS_windows (s : State) (k : Nat) (v : W64) : (s.wS k v).windows = s.windows := rfl
@[simp] theorem wS_power (s : State) (k : Nat) (v : W64) : (s.wS k v).power = s.power := rfl
@[simp] theorem wS_link (s : State) (k : Nat) (v : W64) : (s.wS k v).link = s.link := rfl
@[simp] theorem wS_asBase (s : State) (k : Nat) (v : W64) : (s.wS k v).asBase = s.asBase := rfl
@[simp] theorem wS_nextOp (s : State) (k : Nat) (v : W64) : (s.wS k v).nextOp = s.nextOp := rfl
@[simp] theorem wS_nextId (s : State) (k : Nat) (v : W64) : (s.wS k v).nextId = s.nextId := rfl
@[simp] theorem wS_draws (s : State) (k : Nat) (v : W64) : (s.wS k v).draws = s.draws := rfl
@[simp] theorem wS_cur_live (s : State) (k : Nat) (v : W64) : (s.wS k v).cur.live = s.cur.live := rfl
@[simp] theorem wS_cur_team (s : State) (k : Nat) (v : W64) : (s.wS k v).cur.team = s.cur.team := rfl
@[simp] theorem wS_cur_split (s : State) (k : Nat) (v : W64) : (s.wS k v).cur.split = s.cur.split := rfl
@[simp] theorem wS_cur_pkt (s : State) (k : Nat) (v : W64) : (s.wS k v).cur.pkt = s.cur.pkt := rfl
@[simp] theorem wS_cur_slot (s : State) (k : Nat) (v : W64) : (s.wS k v).cur.slot = s.cur.slot := rfl
@[simp] theorem wS_cur_unitSlot (s : State) (k : Nat) (v : W64) : (s.wS k v).cur.unitSlot = s.cur.unitSlot := rfl
@[simp] theorem wS_cur_nextPkt (s : State) (k : Nat) (v : W64) : (s.wS k v).cur.nextPkt = s.cur.nextPkt := rfl
@[simp] theorem wS_cur_nextSlot (s : State) (k : Nat) (v : W64) : (s.wS k v).cur.nextSlot = s.cur.nextSlot := rfl
@[simp] theorem wS_cur_word (s : State) (k : Nat) (v : W64) : (s.wS k v).cur.word = s.cur.word := rfl
@[simp] theorem wS_cur_lit (s : State) (k : Nat) (v : W64) : (s.wS k v).cur.lit = s.cur.lit := rfl
@[simp] theorem wS_cur_age (s : State) (k : Nat) (v : W64) : (s.wS k v).cur.age = s.cur.age := rfl
@[simp] theorem wS_cur_src (s : State) (k : Nat) (v : W64) : (s.wS k v).cur.src = s.cur.src := rfl
@[simp] theorem wS_cur_trap (s : State) (k : Nat) (v : W64) : (s.wS k v).cur.trap = s.cur.trap := rfl
@[simp] theorem wC_g (s : State) (k : Nat) (v : LaneMask) : (s.wC k v).g = s.g := rfl
@[simp] theorem wC_agenda (s : State) (k : Nat) (v : LaneMask) : (s.wC k v).agenda = s.agenda := rfl
@[simp] theorem wC_ev (s : State) (k : Nat) (v : LaneMask) : (s.wC k v).ev = s.ev := rfl
@[simp] theorem wC_issued (s : State) (k : Nat) (v : LaneMask) : (s.wC k v).issued = s.issued := rfl
@[simp] theorem wC_freed (s : State) (k : Nat) (v : LaneMask) : (s.wC k v).freed = s.freed := rfl
@[simp] theorem wC_freedArms (s : State) (k : Nat) (v : LaneMask) : (s.wC k v).freedArms = s.freedArms := rfl
@[simp] theorem wC_mem (s : State) (k : Nat) (v : LaneMask) : (s.wC k v).mem = s.mem := rfl
@[simp] theorem wC_hostMem (s : State) (k : Nat) (v : LaneMask) : (s.wC k v).hostMem = s.hostMem := rfl
@[simp] theorem wC_peerMem (s : State) (k : Nat) (v : LaneMask) : (s.wC k v).peerMem = s.peerMem := rfl
@[simp] theorem wC_teams (s : State) (k : Nat) (v : LaneMask) : (s.wC k v).teams = s.teams := rfl
@[simp] theorem wC_grids (s : State) (k : Nat) (v : LaneMask) : (s.wC k v).grids = s.grids := rfl
@[simp] theorem wC_ops (s : State) (k : Nat) (v : LaneMask) : (s.wC k v).ops = s.ops := rfl
@[simp] theorem wC_reqs (s : State) (k : Nat) (v : LaneMask) : (s.wC k v).reqs = s.reqs := rfl
@[simp] theorem wC_walks (s : State) (k : Nat) (v : LaneMask) : (s.wC k v).walks = s.walks := rfl
@[simp] theorem wC_faults (s : State) (k : Nat) (v : LaneMask) : (s.wC k v).faults = s.faults := rfl
@[simp] theorem wC_seats (s : State) (k : Nat) (v : LaneMask) : (s.wC k v).seats = s.seats := rfl
@[simp] theorem wC_slots (s : State) (k : Nat) (v : LaneMask) : (s.wC k v).slots = s.slots := rfl
@[simp] theorem wC_arms (s : State) (k : Nat) (v : LaneMask) : (s.wC k v).arms = s.arms := rfl
@[simp] theorem wC_pairs (s : State) (k : Nat) (v : LaneMask) : (s.wC k v).pairs = s.pairs := rfl
@[simp] theorem wC_passes (s : State) (k : Nat) (v : LaneMask) : (s.wC k v).passes = s.passes := rfl
@[simp] theorem wC_fencedMx (s : State) (k : Nat) (v : LaneMask) : (s.wC k v).fencedMx = s.fencedMx := rfl
@[simp] theorem wC_fencedLinks (s : State) (k : Nat) (v : LaneMask) : (s.wC k v).fencedLinks = s.fencedLinks := rfl
@[simp] theorem wC_lastRow (s : State) (k : Nat) (v : LaneMask) : (s.wC k v).lastRow = s.lastRow := rfl
@[simp] theorem wC_ports (s : State) (k : Nat) (v : LaneMask) : (s.wC k v).ports = s.ports := rfl
@[simp] theorem wC_corrected (s : State) (k : Nat) (v : LaneMask) : (s.wC k v).corrected = s.corrected := rfl
@[simp] theorem wC_badFrames (s : State) (k : Nat) (v : LaneMask) : (s.wC k v).badFrames = s.badFrames := rfl
@[simp] theorem wC_queues (s : State) (k : Nat) (v : LaneMask) : (s.wC k v).queues = s.queues := rfl
@[simp] theorem wC_completions (s : State) (k : Nat) (v : LaneMask) : (s.wC k v).completions = s.completions := rfl
@[simp] theorem wC_cqSeq (s : State) (k : Nat) (v : LaneMask) : (s.wC k v).cqSeq = s.cqSeq := rfl
@[simp] theorem wC_doors (s : State) (k : Nat) (v : LaneMask) : (s.wC k v).doors = s.doors := rfl
@[simp] theorem wC_runModes (s : State) (k : Nat) (v : LaneMask) : (s.wC k v).runModes = s.runModes := rfl
@[simp] theorem wC_preempted (s : State) (k : Nat) (v : LaneMask) : (s.wC k v).preempted = s.preempted := rfl
@[simp] theorem wC_host (s : State) (k : Nat) (v : LaneMask) : (s.wC k v).host = s.host := rfl
@[simp] theorem wC_mail (s : State) (k : Nat) (v : LaneMask) : (s.wC k v).mail = s.mail := rfl
@[simp] theorem wC_mailWait (s : State) (k : Nat) (v : LaneMask) : (s.wC k v).mailWait = s.mailWait := rfl
@[simp] theorem wC_visits (s : State) (k : Nat) (v : LaneMask) : (s.wC k v).visits = s.visits := rfl
@[simp] theorem wC_windows (s : State) (k : Nat) (v : LaneMask) : (s.wC k v).windows = s.windows := rfl
@[simp] theorem wC_power (s : State) (k : Nat) (v : LaneMask) : (s.wC k v).power = s.power := rfl
@[simp] theorem wC_link (s : State) (k : Nat) (v : LaneMask) : (s.wC k v).link = s.link := rfl
@[simp] theorem wC_asBase (s : State) (k : Nat) (v : LaneMask) : (s.wC k v).asBase = s.asBase := rfl
@[simp] theorem wC_nextOp (s : State) (k : Nat) (v : LaneMask) : (s.wC k v).nextOp = s.nextOp := rfl
@[simp] theorem wC_nextId (s : State) (k : Nat) (v : LaneMask) : (s.wC k v).nextId = s.nextId := rfl
@[simp] theorem wC_draws (s : State) (k : Nat) (v : LaneMask) : (s.wC k v).draws = s.draws := rfl
@[simp] theorem wC_cur_live (s : State) (k : Nat) (v : LaneMask) : (s.wC k v).cur.live = s.cur.live := rfl
@[simp] theorem wC_cur_team (s : State) (k : Nat) (v : LaneMask) : (s.wC k v).cur.team = s.cur.team := rfl
@[simp] theorem wC_cur_split (s : State) (k : Nat) (v : LaneMask) : (s.wC k v).cur.split = s.cur.split := rfl
@[simp] theorem wC_cur_pkt (s : State) (k : Nat) (v : LaneMask) : (s.wC k v).cur.pkt = s.cur.pkt := rfl
@[simp] theorem wC_cur_slot (s : State) (k : Nat) (v : LaneMask) : (s.wC k v).cur.slot = s.cur.slot := rfl
@[simp] theorem wC_cur_unitSlot (s : State) (k : Nat) (v : LaneMask) : (s.wC k v).cur.unitSlot = s.cur.unitSlot := rfl
@[simp] theorem wC_cur_nextPkt (s : State) (k : Nat) (v : LaneMask) : (s.wC k v).cur.nextPkt = s.cur.nextPkt := rfl
@[simp] theorem wC_cur_nextSlot (s : State) (k : Nat) (v : LaneMask) : (s.wC k v).cur.nextSlot = s.cur.nextSlot := rfl
@[simp] theorem wC_cur_word (s : State) (k : Nat) (v : LaneMask) : (s.wC k v).cur.word = s.cur.word := rfl
@[simp] theorem wC_cur_lit (s : State) (k : Nat) (v : LaneMask) : (s.wC k v).cur.lit = s.cur.lit := rfl
@[simp] theorem wC_cur_age (s : State) (k : Nat) (v : LaneMask) : (s.wC k v).cur.age = s.cur.age := rfl
@[simp] theorem wC_cur_src (s : State) (k : Nat) (v : LaneMask) : (s.wC k v).cur.src = s.cur.src := rfl
@[simp] theorem wC_cur_trap (s : State) (k : Nat) (v : LaneMask) : (s.wC k v).cur.trap = s.cur.trap := rfl
@[simp] theorem wN_g (s : State) (k : Nat) (v : Byte) : (s.wN k v).g = s.g := rfl
@[simp] theorem wN_agenda (s : State) (k : Nat) (v : Byte) : (s.wN k v).agenda = s.agenda := rfl
@[simp] theorem wN_ev (s : State) (k : Nat) (v : Byte) : (s.wN k v).ev = s.ev := rfl
@[simp] theorem wN_issued (s : State) (k : Nat) (v : Byte) : (s.wN k v).issued = s.issued := rfl
@[simp] theorem wN_freed (s : State) (k : Nat) (v : Byte) : (s.wN k v).freed = s.freed := rfl
@[simp] theorem wN_freedArms (s : State) (k : Nat) (v : Byte) : (s.wN k v).freedArms = s.freedArms := rfl
@[simp] theorem wN_mem (s : State) (k : Nat) (v : Byte) : (s.wN k v).mem = s.mem := rfl
@[simp] theorem wN_hostMem (s : State) (k : Nat) (v : Byte) : (s.wN k v).hostMem = s.hostMem := rfl
@[simp] theorem wN_peerMem (s : State) (k : Nat) (v : Byte) : (s.wN k v).peerMem = s.peerMem := rfl
@[simp] theorem wN_teams (s : State) (k : Nat) (v : Byte) : (s.wN k v).teams = s.teams := rfl
@[simp] theorem wN_grids (s : State) (k : Nat) (v : Byte) : (s.wN k v).grids = s.grids := rfl
@[simp] theorem wN_ops (s : State) (k : Nat) (v : Byte) : (s.wN k v).ops = s.ops := rfl
@[simp] theorem wN_reqs (s : State) (k : Nat) (v : Byte) : (s.wN k v).reqs = s.reqs := rfl
@[simp] theorem wN_walks (s : State) (k : Nat) (v : Byte) : (s.wN k v).walks = s.walks := rfl
@[simp] theorem wN_faults (s : State) (k : Nat) (v : Byte) : (s.wN k v).faults = s.faults := rfl
@[simp] theorem wN_seats (s : State) (k : Nat) (v : Byte) : (s.wN k v).seats = s.seats := rfl
@[simp] theorem wN_slots (s : State) (k : Nat) (v : Byte) : (s.wN k v).slots = s.slots := rfl
@[simp] theorem wN_arms (s : State) (k : Nat) (v : Byte) : (s.wN k v).arms = s.arms := rfl
@[simp] theorem wN_pairs (s : State) (k : Nat) (v : Byte) : (s.wN k v).pairs = s.pairs := rfl
@[simp] theorem wN_passes (s : State) (k : Nat) (v : Byte) : (s.wN k v).passes = s.passes := rfl
@[simp] theorem wN_fencedMx (s : State) (k : Nat) (v : Byte) : (s.wN k v).fencedMx = s.fencedMx := rfl
@[simp] theorem wN_fencedLinks (s : State) (k : Nat) (v : Byte) : (s.wN k v).fencedLinks = s.fencedLinks := rfl
@[simp] theorem wN_lastRow (s : State) (k : Nat) (v : Byte) : (s.wN k v).lastRow = s.lastRow := rfl
@[simp] theorem wN_ports (s : State) (k : Nat) (v : Byte) : (s.wN k v).ports = s.ports := rfl
@[simp] theorem wN_corrected (s : State) (k : Nat) (v : Byte) : (s.wN k v).corrected = s.corrected := rfl
@[simp] theorem wN_badFrames (s : State) (k : Nat) (v : Byte) : (s.wN k v).badFrames = s.badFrames := rfl
@[simp] theorem wN_queues (s : State) (k : Nat) (v : Byte) : (s.wN k v).queues = s.queues := rfl
@[simp] theorem wN_completions (s : State) (k : Nat) (v : Byte) : (s.wN k v).completions = s.completions := rfl
@[simp] theorem wN_cqSeq (s : State) (k : Nat) (v : Byte) : (s.wN k v).cqSeq = s.cqSeq := rfl
@[simp] theorem wN_doors (s : State) (k : Nat) (v : Byte) : (s.wN k v).doors = s.doors := rfl
@[simp] theorem wN_runModes (s : State) (k : Nat) (v : Byte) : (s.wN k v).runModes = s.runModes := rfl
@[simp] theorem wN_preempted (s : State) (k : Nat) (v : Byte) : (s.wN k v).preempted = s.preempted := rfl
@[simp] theorem wN_host (s : State) (k : Nat) (v : Byte) : (s.wN k v).host = s.host := rfl
@[simp] theorem wN_mail (s : State) (k : Nat) (v : Byte) : (s.wN k v).mail = s.mail := rfl
@[simp] theorem wN_mailWait (s : State) (k : Nat) (v : Byte) : (s.wN k v).mailWait = s.mailWait := rfl
@[simp] theorem wN_visits (s : State) (k : Nat) (v : Byte) : (s.wN k v).visits = s.visits := rfl
@[simp] theorem wN_windows (s : State) (k : Nat) (v : Byte) : (s.wN k v).windows = s.windows := rfl
@[simp] theorem wN_power (s : State) (k : Nat) (v : Byte) : (s.wN k v).power = s.power := rfl
@[simp] theorem wN_link (s : State) (k : Nat) (v : Byte) : (s.wN k v).link = s.link := rfl
@[simp] theorem wN_asBase (s : State) (k : Nat) (v : Byte) : (s.wN k v).asBase = s.asBase := rfl
@[simp] theorem wN_nextOp (s : State) (k : Nat) (v : Byte) : (s.wN k v).nextOp = s.nextOp := rfl
@[simp] theorem wN_nextId (s : State) (k : Nat) (v : Byte) : (s.wN k v).nextId = s.nextId := rfl
@[simp] theorem wN_draws (s : State) (k : Nat) (v : Byte) : (s.wN k v).draws = s.draws := rfl
@[simp] theorem wN_cur_live (s : State) (k : Nat) (v : Byte) : (s.wN k v).cur.live = s.cur.live := rfl
@[simp] theorem wN_cur_team (s : State) (k : Nat) (v : Byte) : (s.wN k v).cur.team = s.cur.team := rfl
@[simp] theorem wN_cur_split (s : State) (k : Nat) (v : Byte) : (s.wN k v).cur.split = s.cur.split := rfl
@[simp] theorem wN_cur_pkt (s : State) (k : Nat) (v : Byte) : (s.wN k v).cur.pkt = s.cur.pkt := rfl
@[simp] theorem wN_cur_slot (s : State) (k : Nat) (v : Byte) : (s.wN k v).cur.slot = s.cur.slot := rfl
@[simp] theorem wN_cur_unitSlot (s : State) (k : Nat) (v : Byte) : (s.wN k v).cur.unitSlot = s.cur.unitSlot := rfl
@[simp] theorem wN_cur_nextPkt (s : State) (k : Nat) (v : Byte) : (s.wN k v).cur.nextPkt = s.cur.nextPkt := rfl
@[simp] theorem wN_cur_nextSlot (s : State) (k : Nat) (v : Byte) : (s.wN k v).cur.nextSlot = s.cur.nextSlot := rfl
@[simp] theorem wN_cur_word (s : State) (k : Nat) (v : Byte) : (s.wN k v).cur.word = s.cur.word := rfl
@[simp] theorem wN_cur_lit (s : State) (k : Nat) (v : Byte) : (s.wN k v).cur.lit = s.cur.lit := rfl
@[simp] theorem wN_cur_age (s : State) (k : Nat) (v : Byte) : (s.wN k v).cur.age = s.cur.age := rfl
@[simp] theorem wN_cur_src (s : State) (k : Nat) (v : Byte) : (s.wN k v).cur.src = s.cur.src := rfl
@[simp] theorem wN_cur_trap (s : State) (k : Nat) (v : Byte) : (s.wN k v).cur.trap = s.cur.trap := rfl
@[simp] theorem wVs_g (s : State) (k : Nat) (l : List Nat) (f : Nat → W32) : (s.wVs k l f).g = s.g := rfl
@[simp] theorem wVs_agenda (s : State) (k : Nat) (l : List Nat) (f : Nat → W32) : (s.wVs k l f).agenda = s.agenda := rfl
@[simp] theorem wVs_ev (s : State) (k : Nat) (l : List Nat) (f : Nat → W32) : (s.wVs k l f).ev = s.ev := rfl
@[simp] theorem wVs_issued (s : State) (k : Nat) (l : List Nat) (f : Nat → W32) : (s.wVs k l f).issued = s.issued := rfl
@[simp] theorem wVs_freed (s : State) (k : Nat) (l : List Nat) (f : Nat → W32) : (s.wVs k l f).freed = s.freed := rfl
@[simp] theorem wVs_freedArms (s : State) (k : Nat) (l : List Nat) (f : Nat → W32) : (s.wVs k l f).freedArms = s.freedArms := rfl
@[simp] theorem wVs_mem (s : State) (k : Nat) (l : List Nat) (f : Nat → W32) : (s.wVs k l f).mem = s.mem := rfl
@[simp] theorem wVs_hostMem (s : State) (k : Nat) (l : List Nat) (f : Nat → W32) : (s.wVs k l f).hostMem = s.hostMem := rfl
@[simp] theorem wVs_peerMem (s : State) (k : Nat) (l : List Nat) (f : Nat → W32) : (s.wVs k l f).peerMem = s.peerMem := rfl
@[simp] theorem wVs_teams (s : State) (k : Nat) (l : List Nat) (f : Nat → W32) : (s.wVs k l f).teams = s.teams := rfl
@[simp] theorem wVs_grids (s : State) (k : Nat) (l : List Nat) (f : Nat → W32) : (s.wVs k l f).grids = s.grids := rfl
@[simp] theorem wVs_ops (s : State) (k : Nat) (l : List Nat) (f : Nat → W32) : (s.wVs k l f).ops = s.ops := rfl
@[simp] theorem wVs_reqs (s : State) (k : Nat) (l : List Nat) (f : Nat → W32) : (s.wVs k l f).reqs = s.reqs := rfl
@[simp] theorem wVs_walks (s : State) (k : Nat) (l : List Nat) (f : Nat → W32) : (s.wVs k l f).walks = s.walks := rfl
@[simp] theorem wVs_faults (s : State) (k : Nat) (l : List Nat) (f : Nat → W32) : (s.wVs k l f).faults = s.faults := rfl
@[simp] theorem wVs_seats (s : State) (k : Nat) (l : List Nat) (f : Nat → W32) : (s.wVs k l f).seats = s.seats := rfl
@[simp] theorem wVs_slots (s : State) (k : Nat) (l : List Nat) (f : Nat → W32) : (s.wVs k l f).slots = s.slots := rfl
@[simp] theorem wVs_arms (s : State) (k : Nat) (l : List Nat) (f : Nat → W32) : (s.wVs k l f).arms = s.arms := rfl
@[simp] theorem wVs_pairs (s : State) (k : Nat) (l : List Nat) (f : Nat → W32) : (s.wVs k l f).pairs = s.pairs := rfl
@[simp] theorem wVs_passes (s : State) (k : Nat) (l : List Nat) (f : Nat → W32) : (s.wVs k l f).passes = s.passes := rfl
@[simp] theorem wVs_fencedMx (s : State) (k : Nat) (l : List Nat) (f : Nat → W32) : (s.wVs k l f).fencedMx = s.fencedMx := rfl
@[simp] theorem wVs_fencedLinks (s : State) (k : Nat) (l : List Nat) (f : Nat → W32) : (s.wVs k l f).fencedLinks = s.fencedLinks := rfl
@[simp] theorem wVs_lastRow (s : State) (k : Nat) (l : List Nat) (f : Nat → W32) : (s.wVs k l f).lastRow = s.lastRow := rfl
@[simp] theorem wVs_ports (s : State) (k : Nat) (l : List Nat) (f : Nat → W32) : (s.wVs k l f).ports = s.ports := rfl
@[simp] theorem wVs_corrected (s : State) (k : Nat) (l : List Nat) (f : Nat → W32) : (s.wVs k l f).corrected = s.corrected := rfl
@[simp] theorem wVs_badFrames (s : State) (k : Nat) (l : List Nat) (f : Nat → W32) : (s.wVs k l f).badFrames = s.badFrames := rfl
@[simp] theorem wVs_queues (s : State) (k : Nat) (l : List Nat) (f : Nat → W32) : (s.wVs k l f).queues = s.queues := rfl
@[simp] theorem wVs_completions (s : State) (k : Nat) (l : List Nat) (f : Nat → W32) : (s.wVs k l f).completions = s.completions := rfl
@[simp] theorem wVs_cqSeq (s : State) (k : Nat) (l : List Nat) (f : Nat → W32) : (s.wVs k l f).cqSeq = s.cqSeq := rfl
@[simp] theorem wVs_doors (s : State) (k : Nat) (l : List Nat) (f : Nat → W32) : (s.wVs k l f).doors = s.doors := rfl
@[simp] theorem wVs_runModes (s : State) (k : Nat) (l : List Nat) (f : Nat → W32) : (s.wVs k l f).runModes = s.runModes := rfl
@[simp] theorem wVs_preempted (s : State) (k : Nat) (l : List Nat) (f : Nat → W32) : (s.wVs k l f).preempted = s.preempted := rfl
@[simp] theorem wVs_host (s : State) (k : Nat) (l : List Nat) (f : Nat → W32) : (s.wVs k l f).host = s.host := rfl
@[simp] theorem wVs_mail (s : State) (k : Nat) (l : List Nat) (f : Nat → W32) : (s.wVs k l f).mail = s.mail := rfl
@[simp] theorem wVs_mailWait (s : State) (k : Nat) (l : List Nat) (f : Nat → W32) : (s.wVs k l f).mailWait = s.mailWait := rfl
@[simp] theorem wVs_visits (s : State) (k : Nat) (l : List Nat) (f : Nat → W32) : (s.wVs k l f).visits = s.visits := rfl
@[simp] theorem wVs_windows (s : State) (k : Nat) (l : List Nat) (f : Nat → W32) : (s.wVs k l f).windows = s.windows := rfl
@[simp] theorem wVs_power (s : State) (k : Nat) (l : List Nat) (f : Nat → W32) : (s.wVs k l f).power = s.power := rfl
@[simp] theorem wVs_link (s : State) (k : Nat) (l : List Nat) (f : Nat → W32) : (s.wVs k l f).link = s.link := rfl
@[simp] theorem wVs_asBase (s : State) (k : Nat) (l : List Nat) (f : Nat → W32) : (s.wVs k l f).asBase = s.asBase := rfl
@[simp] theorem wVs_nextOp (s : State) (k : Nat) (l : List Nat) (f : Nat → W32) : (s.wVs k l f).nextOp = s.nextOp := rfl
@[simp] theorem wVs_nextId (s : State) (k : Nat) (l : List Nat) (f : Nat → W32) : (s.wVs k l f).nextId = s.nextId := rfl
@[simp] theorem wVs_draws (s : State) (k : Nat) (l : List Nat) (f : Nat → W32) : (s.wVs k l f).draws = s.draws := rfl
@[simp] theorem wVs_cur_live (s : State) (k : Nat) (l : List Nat) (f : Nat → W32) : (s.wVs k l f).cur.live = s.cur.live := rfl
@[simp] theorem wVs_cur_team (s : State) (k : Nat) (l : List Nat) (f : Nat → W32) : (s.wVs k l f).cur.team = s.cur.team := rfl
@[simp] theorem wVs_cur_split (s : State) (k : Nat) (l : List Nat) (f : Nat → W32) : (s.wVs k l f).cur.split = s.cur.split := rfl
@[simp] theorem wVs_cur_pkt (s : State) (k : Nat) (l : List Nat) (f : Nat → W32) : (s.wVs k l f).cur.pkt = s.cur.pkt := rfl
@[simp] theorem wVs_cur_slot (s : State) (k : Nat) (l : List Nat) (f : Nat → W32) : (s.wVs k l f).cur.slot = s.cur.slot := rfl
@[simp] theorem wVs_cur_unitSlot (s : State) (k : Nat) (l : List Nat) (f : Nat → W32) : (s.wVs k l f).cur.unitSlot = s.cur.unitSlot := rfl
@[simp] theorem wVs_cur_nextPkt (s : State) (k : Nat) (l : List Nat) (f : Nat → W32) : (s.wVs k l f).cur.nextPkt = s.cur.nextPkt := rfl
@[simp] theorem wVs_cur_nextSlot (s : State) (k : Nat) (l : List Nat) (f : Nat → W32) : (s.wVs k l f).cur.nextSlot = s.cur.nextSlot := rfl
@[simp] theorem wVs_cur_word (s : State) (k : Nat) (l : List Nat) (f : Nat → W32) : (s.wVs k l f).cur.word = s.cur.word := rfl
@[simp] theorem wVs_cur_lit (s : State) (k : Nat) (l : List Nat) (f : Nat → W32) : (s.wVs k l f).cur.lit = s.cur.lit := rfl
@[simp] theorem wVs_cur_age (s : State) (k : Nat) (l : List Nat) (f : Nat → W32) : (s.wVs k l f).cur.age = s.cur.age := rfl
@[simp] theorem wVs_cur_src (s : State) (k : Nat) (l : List Nat) (f : Nat → W32) : (s.wVs k l f).cur.src = s.cur.src := rfl
@[simp] theorem wVs_cur_trap (s : State) (k : Nat) (l : List Nat) (f : Nat → W32) : (s.wVs k l f).cur.trap = s.cur.trap := rfl
@[simp] theorem wPs_g (s : State) (k : Nat) (l : List Nat) (f : Nat → W64) : (s.wPs k l f).g = s.g := rfl
@[simp] theorem wPs_agenda (s : State) (k : Nat) (l : List Nat) (f : Nat → W64) : (s.wPs k l f).agenda = s.agenda := rfl
@[simp] theorem wPs_ev (s : State) (k : Nat) (l : List Nat) (f : Nat → W64) : (s.wPs k l f).ev = s.ev := rfl
@[simp] theorem wPs_issued (s : State) (k : Nat) (l : List Nat) (f : Nat → W64) : (s.wPs k l f).issued = s.issued := rfl
@[simp] theorem wPs_freed (s : State) (k : Nat) (l : List Nat) (f : Nat → W64) : (s.wPs k l f).freed = s.freed := rfl
@[simp] theorem wPs_freedArms (s : State) (k : Nat) (l : List Nat) (f : Nat → W64) : (s.wPs k l f).freedArms = s.freedArms := rfl
@[simp] theorem wPs_mem (s : State) (k : Nat) (l : List Nat) (f : Nat → W64) : (s.wPs k l f).mem = s.mem := rfl
@[simp] theorem wPs_hostMem (s : State) (k : Nat) (l : List Nat) (f : Nat → W64) : (s.wPs k l f).hostMem = s.hostMem := rfl
@[simp] theorem wPs_peerMem (s : State) (k : Nat) (l : List Nat) (f : Nat → W64) : (s.wPs k l f).peerMem = s.peerMem := rfl
@[simp] theorem wPs_teams (s : State) (k : Nat) (l : List Nat) (f : Nat → W64) : (s.wPs k l f).teams = s.teams := rfl
@[simp] theorem wPs_grids (s : State) (k : Nat) (l : List Nat) (f : Nat → W64) : (s.wPs k l f).grids = s.grids := rfl
@[simp] theorem wPs_ops (s : State) (k : Nat) (l : List Nat) (f : Nat → W64) : (s.wPs k l f).ops = s.ops := rfl
@[simp] theorem wPs_reqs (s : State) (k : Nat) (l : List Nat) (f : Nat → W64) : (s.wPs k l f).reqs = s.reqs := rfl
@[simp] theorem wPs_walks (s : State) (k : Nat) (l : List Nat) (f : Nat → W64) : (s.wPs k l f).walks = s.walks := rfl
@[simp] theorem wPs_faults (s : State) (k : Nat) (l : List Nat) (f : Nat → W64) : (s.wPs k l f).faults = s.faults := rfl
@[simp] theorem wPs_seats (s : State) (k : Nat) (l : List Nat) (f : Nat → W64) : (s.wPs k l f).seats = s.seats := rfl
@[simp] theorem wPs_slots (s : State) (k : Nat) (l : List Nat) (f : Nat → W64) : (s.wPs k l f).slots = s.slots := rfl
@[simp] theorem wPs_arms (s : State) (k : Nat) (l : List Nat) (f : Nat → W64) : (s.wPs k l f).arms = s.arms := rfl
@[simp] theorem wPs_pairs (s : State) (k : Nat) (l : List Nat) (f : Nat → W64) : (s.wPs k l f).pairs = s.pairs := rfl
@[simp] theorem wPs_passes (s : State) (k : Nat) (l : List Nat) (f : Nat → W64) : (s.wPs k l f).passes = s.passes := rfl
@[simp] theorem wPs_fencedMx (s : State) (k : Nat) (l : List Nat) (f : Nat → W64) : (s.wPs k l f).fencedMx = s.fencedMx := rfl
@[simp] theorem wPs_fencedLinks (s : State) (k : Nat) (l : List Nat) (f : Nat → W64) : (s.wPs k l f).fencedLinks = s.fencedLinks := rfl
@[simp] theorem wPs_lastRow (s : State) (k : Nat) (l : List Nat) (f : Nat → W64) : (s.wPs k l f).lastRow = s.lastRow := rfl
@[simp] theorem wPs_ports (s : State) (k : Nat) (l : List Nat) (f : Nat → W64) : (s.wPs k l f).ports = s.ports := rfl
@[simp] theorem wPs_corrected (s : State) (k : Nat) (l : List Nat) (f : Nat → W64) : (s.wPs k l f).corrected = s.corrected := rfl
@[simp] theorem wPs_badFrames (s : State) (k : Nat) (l : List Nat) (f : Nat → W64) : (s.wPs k l f).badFrames = s.badFrames := rfl
@[simp] theorem wPs_queues (s : State) (k : Nat) (l : List Nat) (f : Nat → W64) : (s.wPs k l f).queues = s.queues := rfl
@[simp] theorem wPs_completions (s : State) (k : Nat) (l : List Nat) (f : Nat → W64) : (s.wPs k l f).completions = s.completions := rfl
@[simp] theorem wPs_cqSeq (s : State) (k : Nat) (l : List Nat) (f : Nat → W64) : (s.wPs k l f).cqSeq = s.cqSeq := rfl
@[simp] theorem wPs_doors (s : State) (k : Nat) (l : List Nat) (f : Nat → W64) : (s.wPs k l f).doors = s.doors := rfl
@[simp] theorem wPs_runModes (s : State) (k : Nat) (l : List Nat) (f : Nat → W64) : (s.wPs k l f).runModes = s.runModes := rfl
@[simp] theorem wPs_preempted (s : State) (k : Nat) (l : List Nat) (f : Nat → W64) : (s.wPs k l f).preempted = s.preempted := rfl
@[simp] theorem wPs_host (s : State) (k : Nat) (l : List Nat) (f : Nat → W64) : (s.wPs k l f).host = s.host := rfl
@[simp] theorem wPs_mail (s : State) (k : Nat) (l : List Nat) (f : Nat → W64) : (s.wPs k l f).mail = s.mail := rfl
@[simp] theorem wPs_mailWait (s : State) (k : Nat) (l : List Nat) (f : Nat → W64) : (s.wPs k l f).mailWait = s.mailWait := rfl
@[simp] theorem wPs_visits (s : State) (k : Nat) (l : List Nat) (f : Nat → W64) : (s.wPs k l f).visits = s.visits := rfl
@[simp] theorem wPs_windows (s : State) (k : Nat) (l : List Nat) (f : Nat → W64) : (s.wPs k l f).windows = s.windows := rfl
@[simp] theorem wPs_power (s : State) (k : Nat) (l : List Nat) (f : Nat → W64) : (s.wPs k l f).power = s.power := rfl
@[simp] theorem wPs_link (s : State) (k : Nat) (l : List Nat) (f : Nat → W64) : (s.wPs k l f).link = s.link := rfl
@[simp] theorem wPs_asBase (s : State) (k : Nat) (l : List Nat) (f : Nat → W64) : (s.wPs k l f).asBase = s.asBase := rfl
@[simp] theorem wPs_nextOp (s : State) (k : Nat) (l : List Nat) (f : Nat → W64) : (s.wPs k l f).nextOp = s.nextOp := rfl
@[simp] theorem wPs_nextId (s : State) (k : Nat) (l : List Nat) (f : Nat → W64) : (s.wPs k l f).nextId = s.nextId := rfl
@[simp] theorem wPs_draws (s : State) (k : Nat) (l : List Nat) (f : Nat → W64) : (s.wPs k l f).draws = s.draws := rfl
@[simp] theorem wPs_cur_live (s : State) (k : Nat) (l : List Nat) (f : Nat → W64) : (s.wPs k l f).cur.live = s.cur.live := rfl
@[simp] theorem wPs_cur_team (s : State) (k : Nat) (l : List Nat) (f : Nat → W64) : (s.wPs k l f).cur.team = s.cur.team := rfl
@[simp] theorem wPs_cur_split (s : State) (k : Nat) (l : List Nat) (f : Nat → W64) : (s.wPs k l f).cur.split = s.cur.split := rfl
@[simp] theorem wPs_cur_pkt (s : State) (k : Nat) (l : List Nat) (f : Nat → W64) : (s.wPs k l f).cur.pkt = s.cur.pkt := rfl
@[simp] theorem wPs_cur_slot (s : State) (k : Nat) (l : List Nat) (f : Nat → W64) : (s.wPs k l f).cur.slot = s.cur.slot := rfl
@[simp] theorem wPs_cur_unitSlot (s : State) (k : Nat) (l : List Nat) (f : Nat → W64) : (s.wPs k l f).cur.unitSlot = s.cur.unitSlot := rfl
@[simp] theorem wPs_cur_nextPkt (s : State) (k : Nat) (l : List Nat) (f : Nat → W64) : (s.wPs k l f).cur.nextPkt = s.cur.nextPkt := rfl
@[simp] theorem wPs_cur_nextSlot (s : State) (k : Nat) (l : List Nat) (f : Nat → W64) : (s.wPs k l f).cur.nextSlot = s.cur.nextSlot := rfl
@[simp] theorem wPs_cur_word (s : State) (k : Nat) (l : List Nat) (f : Nat → W64) : (s.wPs k l f).cur.word = s.cur.word := rfl
@[simp] theorem wPs_cur_lit (s : State) (k : Nat) (l : List Nat) (f : Nat → W64) : (s.wPs k l f).cur.lit = s.cur.lit := rfl
@[simp] theorem wPs_cur_age (s : State) (k : Nat) (l : List Nat) (f : Nat → W64) : (s.wPs k l f).cur.age = s.cur.age := rfl
@[simp] theorem wPs_cur_src (s : State) (k : Nat) (l : List Nat) (f : Nat → W64) : (s.wPs k l f).cur.src = s.cur.src := rfl
@[simp] theorem wPs_cur_trap (s : State) (k : Nat) (l : List Nat) (f : Nat → W64) : (s.wPs k l f).cur.trap = s.cur.trap := rfl
@[simp] theorem onSplit_g (s : State) (f : Split → Split) : (s.onSplit f).g = s.g := rfl
@[simp] theorem onSplit_agenda (s : State) (f : Split → Split) : (s.onSplit f).agenda = s.agenda := rfl
@[simp] theorem onSplit_ev (s : State) (f : Split → Split) : (s.onSplit f).ev = s.ev := rfl
@[simp] theorem onSplit_issued (s : State) (f : Split → Split) : (s.onSplit f).issued = s.issued := rfl
@[simp] theorem onSplit_freed (s : State) (f : Split → Split) : (s.onSplit f).freed = s.freed := rfl
@[simp] theorem onSplit_freedArms (s : State) (f : Split → Split) : (s.onSplit f).freedArms = s.freedArms := rfl
@[simp] theorem onSplit_mem (s : State) (f : Split → Split) : (s.onSplit f).mem = s.mem := rfl
@[simp] theorem onSplit_hostMem (s : State) (f : Split → Split) : (s.onSplit f).hostMem = s.hostMem := rfl
@[simp] theorem onSplit_peerMem (s : State) (f : Split → Split) : (s.onSplit f).peerMem = s.peerMem := rfl
@[simp] theorem onSplit_teams (s : State) (f : Split → Split) : (s.onSplit f).teams = s.teams := rfl
@[simp] theorem onSplit_grids (s : State) (f : Split → Split) : (s.onSplit f).grids = s.grids := rfl
@[simp] theorem onSplit_ops (s : State) (f : Split → Split) : (s.onSplit f).ops = s.ops := rfl
@[simp] theorem onSplit_reqs (s : State) (f : Split → Split) : (s.onSplit f).reqs = s.reqs := rfl
@[simp] theorem onSplit_walks (s : State) (f : Split → Split) : (s.onSplit f).walks = s.walks := rfl
@[simp] theorem onSplit_faults (s : State) (f : Split → Split) : (s.onSplit f).faults = s.faults := rfl
@[simp] theorem onSplit_seats (s : State) (f : Split → Split) : (s.onSplit f).seats = s.seats := rfl
@[simp] theorem onSplit_slots (s : State) (f : Split → Split) : (s.onSplit f).slots = s.slots := rfl
@[simp] theorem onSplit_arms (s : State) (f : Split → Split) : (s.onSplit f).arms = s.arms := rfl
@[simp] theorem onSplit_pairs (s : State) (f : Split → Split) : (s.onSplit f).pairs = s.pairs := rfl
@[simp] theorem onSplit_passes (s : State) (f : Split → Split) : (s.onSplit f).passes = s.passes := rfl
@[simp] theorem onSplit_fencedMx (s : State) (f : Split → Split) : (s.onSplit f).fencedMx = s.fencedMx := rfl
@[simp] theorem onSplit_fencedLinks (s : State) (f : Split → Split) : (s.onSplit f).fencedLinks = s.fencedLinks := rfl
@[simp] theorem onSplit_lastRow (s : State) (f : Split → Split) : (s.onSplit f).lastRow = s.lastRow := rfl
@[simp] theorem onSplit_ports (s : State) (f : Split → Split) : (s.onSplit f).ports = s.ports := rfl
@[simp] theorem onSplit_corrected (s : State) (f : Split → Split) : (s.onSplit f).corrected = s.corrected := rfl
@[simp] theorem onSplit_badFrames (s : State) (f : Split → Split) : (s.onSplit f).badFrames = s.badFrames := rfl
@[simp] theorem onSplit_queues (s : State) (f : Split → Split) : (s.onSplit f).queues = s.queues := rfl
@[simp] theorem onSplit_completions (s : State) (f : Split → Split) : (s.onSplit f).completions = s.completions := rfl
@[simp] theorem onSplit_cqSeq (s : State) (f : Split → Split) : (s.onSplit f).cqSeq = s.cqSeq := rfl
@[simp] theorem onSplit_doors (s : State) (f : Split → Split) : (s.onSplit f).doors = s.doors := rfl
@[simp] theorem onSplit_runModes (s : State) (f : Split → Split) : (s.onSplit f).runModes = s.runModes := rfl
@[simp] theorem onSplit_preempted (s : State) (f : Split → Split) : (s.onSplit f).preempted = s.preempted := rfl
@[simp] theorem onSplit_host (s : State) (f : Split → Split) : (s.onSplit f).host = s.host := rfl
@[simp] theorem onSplit_mail (s : State) (f : Split → Split) : (s.onSplit f).mail = s.mail := rfl
@[simp] theorem onSplit_mailWait (s : State) (f : Split → Split) : (s.onSplit f).mailWait = s.mailWait := rfl
@[simp] theorem onSplit_visits (s : State) (f : Split → Split) : (s.onSplit f).visits = s.visits := rfl
@[simp] theorem onSplit_windows (s : State) (f : Split → Split) : (s.onSplit f).windows = s.windows := rfl
@[simp] theorem onSplit_power (s : State) (f : Split → Split) : (s.onSplit f).power = s.power := rfl
@[simp] theorem onSplit_link (s : State) (f : Split → Split) : (s.onSplit f).link = s.link := rfl
@[simp] theorem onSplit_asBase (s : State) (f : Split → Split) : (s.onSplit f).asBase = s.asBase := rfl
@[simp] theorem onSplit_nextOp (s : State) (f : Split → Split) : (s.onSplit f).nextOp = s.nextOp := rfl
@[simp] theorem onSplit_nextId (s : State) (f : Split → Split) : (s.onSplit f).nextId = s.nextId := rfl
@[simp] theorem onSplit_draws (s : State) (f : Split → Split) : (s.onSplit f).draws = s.draws := rfl
@[simp] theorem onSplit_cur_live (s : State) (f : Split → Split) : (s.onSplit f).cur.live = s.cur.live := rfl
@[simp] theorem onSplit_cur_team (s : State) (f : Split → Split) : (s.onSplit f).cur.team = s.cur.team := rfl
@[simp] theorem onSplit_cur_split (s : State) (f : Split → Split) : (s.onSplit f).cur.split = s.cur.split := rfl
@[simp] theorem onSplit_cur_pkt (s : State) (f : Split → Split) : (s.onSplit f).cur.pkt = s.cur.pkt := rfl
@[simp] theorem onSplit_cur_slot (s : State) (f : Split → Split) : (s.onSplit f).cur.slot = s.cur.slot := rfl
@[simp] theorem onSplit_cur_unitSlot (s : State) (f : Split → Split) : (s.onSplit f).cur.unitSlot = s.cur.unitSlot := rfl
@[simp] theorem onSplit_cur_nextPkt (s : State) (f : Split → Split) : (s.onSplit f).cur.nextPkt = s.cur.nextPkt := rfl
@[simp] theorem onSplit_cur_nextSlot (s : State) (f : Split → Split) : (s.onSplit f).cur.nextSlot = s.cur.nextSlot := rfl
@[simp] theorem onSplit_cur_word (s : State) (f : Split → Split) : (s.onSplit f).cur.word = s.cur.word := rfl
@[simp] theorem onSplit_cur_lit (s : State) (f : Split → Split) : (s.onSplit f).cur.lit = s.cur.lit := rfl
@[simp] theorem onSplit_cur_age (s : State) (f : Split → Split) : (s.onSplit f).cur.age = s.cur.age := rfl
@[simp] theorem onSplit_cur_src (s : State) (f : Split → Split) : (s.onSplit f).cur.src = s.cur.src := rfl
@[simp] theorem onSplit_cur_trap (s : State) (f : Split → Split) : (s.onSplit f).cur.trap = s.cur.trap := rfl
@[simp] theorem goto_g (s : State) (p : W64) (k : Nat) : (s.goto p k).g = s.g := rfl
@[simp] theorem goto_agenda (s : State) (p : W64) (k : Nat) : (s.goto p k).agenda = s.agenda := rfl
@[simp] theorem goto_ev (s : State) (p : W64) (k : Nat) : (s.goto p k).ev = s.ev := rfl
@[simp] theorem goto_issued (s : State) (p : W64) (k : Nat) : (s.goto p k).issued = s.issued := rfl
@[simp] theorem goto_freed (s : State) (p : W64) (k : Nat) : (s.goto p k).freed = s.freed := rfl
@[simp] theorem goto_freedArms (s : State) (p : W64) (k : Nat) : (s.goto p k).freedArms = s.freedArms := rfl
@[simp] theorem goto_mem (s : State) (p : W64) (k : Nat) : (s.goto p k).mem = s.mem := rfl
@[simp] theorem goto_hostMem (s : State) (p : W64) (k : Nat) : (s.goto p k).hostMem = s.hostMem := rfl
@[simp] theorem goto_peerMem (s : State) (p : W64) (k : Nat) : (s.goto p k).peerMem = s.peerMem := rfl
@[simp] theorem goto_teams (s : State) (p : W64) (k : Nat) : (s.goto p k).teams = s.teams := rfl
@[simp] theorem goto_grids (s : State) (p : W64) (k : Nat) : (s.goto p k).grids = s.grids := rfl
@[simp] theorem goto_ops (s : State) (p : W64) (k : Nat) : (s.goto p k).ops = s.ops := rfl
@[simp] theorem goto_reqs (s : State) (p : W64) (k : Nat) : (s.goto p k).reqs = s.reqs := rfl
@[simp] theorem goto_walks (s : State) (p : W64) (k : Nat) : (s.goto p k).walks = s.walks := rfl
@[simp] theorem goto_faults (s : State) (p : W64) (k : Nat) : (s.goto p k).faults = s.faults := rfl
@[simp] theorem goto_seats (s : State) (p : W64) (k : Nat) : (s.goto p k).seats = s.seats := rfl
@[simp] theorem goto_slots (s : State) (p : W64) (k : Nat) : (s.goto p k).slots = s.slots := rfl
@[simp] theorem goto_arms (s : State) (p : W64) (k : Nat) : (s.goto p k).arms = s.arms := rfl
@[simp] theorem goto_pairs (s : State) (p : W64) (k : Nat) : (s.goto p k).pairs = s.pairs := rfl
@[simp] theorem goto_passes (s : State) (p : W64) (k : Nat) : (s.goto p k).passes = s.passes := rfl
@[simp] theorem goto_fencedMx (s : State) (p : W64) (k : Nat) : (s.goto p k).fencedMx = s.fencedMx := rfl
@[simp] theorem goto_fencedLinks (s : State) (p : W64) (k : Nat) : (s.goto p k).fencedLinks = s.fencedLinks := rfl
@[simp] theorem goto_lastRow (s : State) (p : W64) (k : Nat) : (s.goto p k).lastRow = s.lastRow := rfl
@[simp] theorem goto_ports (s : State) (p : W64) (k : Nat) : (s.goto p k).ports = s.ports := rfl
@[simp] theorem goto_corrected (s : State) (p : W64) (k : Nat) : (s.goto p k).corrected = s.corrected := rfl
@[simp] theorem goto_badFrames (s : State) (p : W64) (k : Nat) : (s.goto p k).badFrames = s.badFrames := rfl
@[simp] theorem goto_queues (s : State) (p : W64) (k : Nat) : (s.goto p k).queues = s.queues := rfl
@[simp] theorem goto_completions (s : State) (p : W64) (k : Nat) : (s.goto p k).completions = s.completions := rfl
@[simp] theorem goto_cqSeq (s : State) (p : W64) (k : Nat) : (s.goto p k).cqSeq = s.cqSeq := rfl
@[simp] theorem goto_doors (s : State) (p : W64) (k : Nat) : (s.goto p k).doors = s.doors := rfl
@[simp] theorem goto_runModes (s : State) (p : W64) (k : Nat) : (s.goto p k).runModes = s.runModes := rfl
@[simp] theorem goto_preempted (s : State) (p : W64) (k : Nat) : (s.goto p k).preempted = s.preempted := rfl
@[simp] theorem goto_host (s : State) (p : W64) (k : Nat) : (s.goto p k).host = s.host := rfl
@[simp] theorem goto_mail (s : State) (p : W64) (k : Nat) : (s.goto p k).mail = s.mail := rfl
@[simp] theorem goto_mailWait (s : State) (p : W64) (k : Nat) : (s.goto p k).mailWait = s.mailWait := rfl
@[simp] theorem goto_visits (s : State) (p : W64) (k : Nat) : (s.goto p k).visits = s.visits := rfl
@[simp] theorem goto_windows (s : State) (p : W64) (k : Nat) : (s.goto p k).windows = s.windows := rfl
@[simp] theorem goto_power (s : State) (p : W64) (k : Nat) : (s.goto p k).power = s.power := rfl
@[simp] theorem goto_link (s : State) (p : W64) (k : Nat) : (s.goto p k).link = s.link := rfl
@[simp] theorem goto_asBase (s : State) (p : W64) (k : Nat) : (s.goto p k).asBase = s.asBase := rfl
@[simp] theorem goto_nextOp (s : State) (p : W64) (k : Nat) : (s.goto p k).nextOp = s.nextOp := rfl
@[simp] theorem goto_nextId (s : State) (p : W64) (k : Nat) : (s.goto p k).nextId = s.nextId := rfl
@[simp] theorem goto_draws (s : State) (p : W64) (k : Nat) : (s.goto p k).draws = s.draws := rfl
@[simp] theorem goto_cur_live (s : State) (p : W64) (k : Nat) : (s.goto p k).cur.live = s.cur.live := rfl
@[simp] theorem goto_cur_team (s : State) (p : W64) (k : Nat) : (s.goto p k).cur.team = s.cur.team := rfl
@[simp] theorem goto_cur_split (s : State) (p : W64) (k : Nat) : (s.goto p k).cur.split = s.cur.split := rfl
@[simp] theorem goto_cur_pkt (s : State) (p : W64) (k : Nat) : (s.goto p k).cur.pkt = s.cur.pkt := rfl
@[simp] theorem goto_cur_slot (s : State) (p : W64) (k : Nat) : (s.goto p k).cur.slot = s.cur.slot := rfl
@[simp] theorem goto_cur_unitSlot (s : State) (p : W64) (k : Nat) : (s.goto p k).cur.unitSlot = s.cur.unitSlot := rfl
@[simp] theorem goto_cur_nextPkt (s : State) (p : W64) (k : Nat) : (s.goto p k).cur.nextPkt = s.cur.nextPkt := rfl
@[simp] theorem goto_cur_nextSlot (s : State) (p : W64) (k : Nat) : (s.goto p k).cur.nextSlot = s.cur.nextSlot := rfl
@[simp] theorem goto_cur_word (s : State) (p : W64) (k : Nat) : (s.goto p k).cur.word = s.cur.word := rfl
@[simp] theorem goto_cur_lit (s : State) (p : W64) (k : Nat) : (s.goto p k).cur.lit = s.cur.lit := rfl
@[simp] theorem goto_cur_age (s : State) (p : W64) (k : Nat) : (s.goto p k).cur.age = s.cur.age := rfl
@[simp] theorem goto_cur_src (s : State) (p : W64) (k : Nat) : (s.goto p k).cur.src = s.cur.src := rfl
@[simp] theorem goto_cur_trap (s : State) (p : W64) (k : Nat) : (s.goto p k).cur.trap = s.cur.trap := rfl
@[simp] theorem branch_g (s : State) (p : W64) (k : Nat) : (s.branch p k).g = s.g := rfl
@[simp] theorem branch_agenda (s : State) (p : W64) (k : Nat) : (s.branch p k).agenda = s.agenda := rfl
@[simp] theorem branch_ev (s : State) (p : W64) (k : Nat) : (s.branch p k).ev = s.ev := rfl
@[simp] theorem branch_issued (s : State) (p : W64) (k : Nat) : (s.branch p k).issued = s.issued := rfl
@[simp] theorem branch_freed (s : State) (p : W64) (k : Nat) : (s.branch p k).freed = s.freed := rfl
@[simp] theorem branch_freedArms (s : State) (p : W64) (k : Nat) : (s.branch p k).freedArms = s.freedArms := rfl
@[simp] theorem branch_mem (s : State) (p : W64) (k : Nat) : (s.branch p k).mem = s.mem := rfl
@[simp] theorem branch_hostMem (s : State) (p : W64) (k : Nat) : (s.branch p k).hostMem = s.hostMem := rfl
@[simp] theorem branch_peerMem (s : State) (p : W64) (k : Nat) : (s.branch p k).peerMem = s.peerMem := rfl
@[simp] theorem branch_teams (s : State) (p : W64) (k : Nat) : (s.branch p k).teams = s.teams := rfl
@[simp] theorem branch_grids (s : State) (p : W64) (k : Nat) : (s.branch p k).grids = s.grids := rfl
@[simp] theorem branch_ops (s : State) (p : W64) (k : Nat) : (s.branch p k).ops = s.ops := rfl
@[simp] theorem branch_reqs (s : State) (p : W64) (k : Nat) : (s.branch p k).reqs = s.reqs := rfl
@[simp] theorem branch_walks (s : State) (p : W64) (k : Nat) : (s.branch p k).walks = s.walks := rfl
@[simp] theorem branch_faults (s : State) (p : W64) (k : Nat) : (s.branch p k).faults = s.faults := rfl
@[simp] theorem branch_seats (s : State) (p : W64) (k : Nat) : (s.branch p k).seats = s.seats := rfl
@[simp] theorem branch_slots (s : State) (p : W64) (k : Nat) : (s.branch p k).slots = s.slots := rfl
@[simp] theorem branch_arms (s : State) (p : W64) (k : Nat) : (s.branch p k).arms = s.arms := rfl
@[simp] theorem branch_pairs (s : State) (p : W64) (k : Nat) : (s.branch p k).pairs = s.pairs := rfl
@[simp] theorem branch_passes (s : State) (p : W64) (k : Nat) : (s.branch p k).passes = s.passes := rfl
@[simp] theorem branch_fencedMx (s : State) (p : W64) (k : Nat) : (s.branch p k).fencedMx = s.fencedMx := rfl
@[simp] theorem branch_fencedLinks (s : State) (p : W64) (k : Nat) : (s.branch p k).fencedLinks = s.fencedLinks := rfl
@[simp] theorem branch_lastRow (s : State) (p : W64) (k : Nat) : (s.branch p k).lastRow = s.lastRow := rfl
@[simp] theorem branch_ports (s : State) (p : W64) (k : Nat) : (s.branch p k).ports = s.ports := rfl
@[simp] theorem branch_corrected (s : State) (p : W64) (k : Nat) : (s.branch p k).corrected = s.corrected := rfl
@[simp] theorem branch_badFrames (s : State) (p : W64) (k : Nat) : (s.branch p k).badFrames = s.badFrames := rfl
@[simp] theorem branch_queues (s : State) (p : W64) (k : Nat) : (s.branch p k).queues = s.queues := rfl
@[simp] theorem branch_completions (s : State) (p : W64) (k : Nat) : (s.branch p k).completions = s.completions := rfl
@[simp] theorem branch_cqSeq (s : State) (p : W64) (k : Nat) : (s.branch p k).cqSeq = s.cqSeq := rfl
@[simp] theorem branch_doors (s : State) (p : W64) (k : Nat) : (s.branch p k).doors = s.doors := rfl
@[simp] theorem branch_runModes (s : State) (p : W64) (k : Nat) : (s.branch p k).runModes = s.runModes := rfl
@[simp] theorem branch_preempted (s : State) (p : W64) (k : Nat) : (s.branch p k).preempted = s.preempted := rfl
@[simp] theorem branch_host (s : State) (p : W64) (k : Nat) : (s.branch p k).host = s.host := rfl
@[simp] theorem branch_mail (s : State) (p : W64) (k : Nat) : (s.branch p k).mail = s.mail := rfl
@[simp] theorem branch_mailWait (s : State) (p : W64) (k : Nat) : (s.branch p k).mailWait = s.mailWait := rfl
@[simp] theorem branch_visits (s : State) (p : W64) (k : Nat) : (s.branch p k).visits = s.visits := rfl
@[simp] theorem branch_windows (s : State) (p : W64) (k : Nat) : (s.branch p k).windows = s.windows := rfl
@[simp] theorem branch_power (s : State) (p : W64) (k : Nat) : (s.branch p k).power = s.power := rfl
@[simp] theorem branch_link (s : State) (p : W64) (k : Nat) : (s.branch p k).link = s.link := rfl
@[simp] theorem branch_asBase (s : State) (p : W64) (k : Nat) : (s.branch p k).asBase = s.asBase := rfl
@[simp] theorem branch_nextOp (s : State) (p : W64) (k : Nat) : (s.branch p k).nextOp = s.nextOp := rfl
@[simp] theorem branch_nextId (s : State) (p : W64) (k : Nat) : (s.branch p k).nextId = s.nextId := rfl
@[simp] theorem branch_draws (s : State) (p : W64) (k : Nat) : (s.branch p k).draws = s.draws := rfl
@[simp] theorem branch_cur_live (s : State) (p : W64) (k : Nat) : (s.branch p k).cur.live = s.cur.live := rfl
@[simp] theorem branch_cur_team (s : State) (p : W64) (k : Nat) : (s.branch p k).cur.team = s.cur.team := rfl
@[simp] theorem branch_cur_split (s : State) (p : W64) (k : Nat) : (s.branch p k).cur.split = s.cur.split := rfl
@[simp] theorem branch_cur_pkt (s : State) (p : W64) (k : Nat) : (s.branch p k).cur.pkt = s.cur.pkt := rfl
@[simp] theorem branch_cur_slot (s : State) (p : W64) (k : Nat) : (s.branch p k).cur.slot = s.cur.slot := rfl
@[simp] theorem branch_cur_unitSlot (s : State) (p : W64) (k : Nat) : (s.branch p k).cur.unitSlot = s.cur.unitSlot := rfl
@[simp] theorem branch_cur_nextPkt (s : State) (p : W64) (k : Nat) : (s.branch p k).cur.nextPkt = s.cur.nextPkt := rfl
@[simp] theorem branch_cur_nextSlot (s : State) (p : W64) (k : Nat) : (s.branch p k).cur.nextSlot = s.cur.nextSlot := rfl
@[simp] theorem branch_cur_word (s : State) (p : W64) (k : Nat) : (s.branch p k).cur.word = s.cur.word := rfl
@[simp] theorem branch_cur_lit (s : State) (p : W64) (k : Nat) : (s.branch p k).cur.lit = s.cur.lit := rfl
@[simp] theorem branch_cur_age (s : State) (p : W64) (k : Nat) : (s.branch p k).cur.age = s.cur.age := rfl
@[simp] theorem branch_cur_src (s : State) (p : W64) (k : Nat) : (s.branch p k).cur.src = s.cur.src := rfl
@[simp] theorem branch_cur_trap (s : State) (p : W64) (k : Nat) : (s.branch p k).cur.trap = s.cur.trap := rfl
@[simp] theorem block_g (s : State) (b : Block) : (s.block b).g = s.g := rfl
@[simp] theorem block_agenda (s : State) (b : Block) : (s.block b).agenda = s.agenda := rfl
@[simp] theorem block_ev (s : State) (b : Block) : (s.block b).ev = s.ev := rfl
@[simp] theorem block_issued (s : State) (b : Block) : (s.block b).issued = s.issued := rfl
@[simp] theorem block_freed (s : State) (b : Block) : (s.block b).freed = s.freed := rfl
@[simp] theorem block_freedArms (s : State) (b : Block) : (s.block b).freedArms = s.freedArms := rfl
@[simp] theorem block_mem (s : State) (b : Block) : (s.block b).mem = s.mem := rfl
@[simp] theorem block_hostMem (s : State) (b : Block) : (s.block b).hostMem = s.hostMem := rfl
@[simp] theorem block_peerMem (s : State) (b : Block) : (s.block b).peerMem = s.peerMem := rfl
@[simp] theorem block_teams (s : State) (b : Block) : (s.block b).teams = s.teams := rfl
@[simp] theorem block_grids (s : State) (b : Block) : (s.block b).grids = s.grids := rfl
@[simp] theorem block_ops (s : State) (b : Block) : (s.block b).ops = s.ops := rfl
@[simp] theorem block_reqs (s : State) (b : Block) : (s.block b).reqs = s.reqs := rfl
@[simp] theorem block_walks (s : State) (b : Block) : (s.block b).walks = s.walks := rfl
@[simp] theorem block_faults (s : State) (b : Block) : (s.block b).faults = s.faults := rfl
@[simp] theorem block_seats (s : State) (b : Block) : (s.block b).seats = s.seats := rfl
@[simp] theorem block_slots (s : State) (b : Block) : (s.block b).slots = s.slots := rfl
@[simp] theorem block_arms (s : State) (b : Block) : (s.block b).arms = s.arms := rfl
@[simp] theorem block_pairs (s : State) (b : Block) : (s.block b).pairs = s.pairs := rfl
@[simp] theorem block_passes (s : State) (b : Block) : (s.block b).passes = s.passes := rfl
@[simp] theorem block_fencedMx (s : State) (b : Block) : (s.block b).fencedMx = s.fencedMx := rfl
@[simp] theorem block_fencedLinks (s : State) (b : Block) : (s.block b).fencedLinks = s.fencedLinks := rfl
@[simp] theorem block_lastRow (s : State) (b : Block) : (s.block b).lastRow = s.lastRow := rfl
@[simp] theorem block_ports (s : State) (b : Block) : (s.block b).ports = s.ports := rfl
@[simp] theorem block_corrected (s : State) (b : Block) : (s.block b).corrected = s.corrected := rfl
@[simp] theorem block_badFrames (s : State) (b : Block) : (s.block b).badFrames = s.badFrames := rfl
@[simp] theorem block_queues (s : State) (b : Block) : (s.block b).queues = s.queues := rfl
@[simp] theorem block_completions (s : State) (b : Block) : (s.block b).completions = s.completions := rfl
@[simp] theorem block_cqSeq (s : State) (b : Block) : (s.block b).cqSeq = s.cqSeq := rfl
@[simp] theorem block_doors (s : State) (b : Block) : (s.block b).doors = s.doors := rfl
@[simp] theorem block_runModes (s : State) (b : Block) : (s.block b).runModes = s.runModes := rfl
@[simp] theorem block_preempted (s : State) (b : Block) : (s.block b).preempted = s.preempted := rfl
@[simp] theorem block_host (s : State) (b : Block) : (s.block b).host = s.host := rfl
@[simp] theorem block_mail (s : State) (b : Block) : (s.block b).mail = s.mail := rfl
@[simp] theorem block_mailWait (s : State) (b : Block) : (s.block b).mailWait = s.mailWait := rfl
@[simp] theorem block_visits (s : State) (b : Block) : (s.block b).visits = s.visits := rfl
@[simp] theorem block_windows (s : State) (b : Block) : (s.block b).windows = s.windows := rfl
@[simp] theorem block_power (s : State) (b : Block) : (s.block b).power = s.power := rfl
@[simp] theorem block_link (s : State) (b : Block) : (s.block b).link = s.link := rfl
@[simp] theorem block_asBase (s : State) (b : Block) : (s.block b).asBase = s.asBase := rfl
@[simp] theorem block_nextOp (s : State) (b : Block) : (s.block b).nextOp = s.nextOp := rfl
@[simp] theorem block_nextId (s : State) (b : Block) : (s.block b).nextId = s.nextId := rfl
@[simp] theorem block_draws (s : State) (b : Block) : (s.block b).draws = s.draws := rfl
@[simp] theorem block_cur_live (s : State) (b : Block) : (s.block b).cur.live = s.cur.live := rfl
@[simp] theorem block_cur_team (s : State) (b : Block) : (s.block b).cur.team = s.cur.team := rfl
@[simp] theorem block_cur_split (s : State) (b : Block) : (s.block b).cur.split = s.cur.split := rfl
@[simp] theorem block_cur_pkt (s : State) (b : Block) : (s.block b).cur.pkt = s.cur.pkt := rfl
@[simp] theorem block_cur_slot (s : State) (b : Block) : (s.block b).cur.slot = s.cur.slot := rfl
@[simp] theorem block_cur_unitSlot (s : State) (b : Block) : (s.block b).cur.unitSlot = s.cur.unitSlot := rfl
@[simp] theorem block_cur_nextPkt (s : State) (b : Block) : (s.block b).cur.nextPkt = s.cur.nextPkt := rfl
@[simp] theorem block_cur_nextSlot (s : State) (b : Block) : (s.block b).cur.nextSlot = s.cur.nextSlot := rfl
@[simp] theorem block_cur_word (s : State) (b : Block) : (s.block b).cur.word = s.cur.word := rfl
@[simp] theorem block_cur_lit (s : State) (b : Block) : (s.block b).cur.lit = s.cur.lit := rfl
@[simp] theorem block_cur_age (s : State) (b : Block) : (s.block b).cur.age = s.cur.age := rfl
@[simp] theorem block_cur_src (s : State) (b : Block) : (s.block b).cur.src = s.cur.src := rfl
@[simp] theorem block_cur_trap (s : State) (b : Block) : (s.block b).cur.trap = s.cur.trap := rfl
@[simp] theorem stay_g (s : State) : (s.stay).g = s.g := rfl
@[simp] theorem stay_agenda (s : State) : (s.stay).agenda = s.agenda := rfl
@[simp] theorem stay_ev (s : State) : (s.stay).ev = s.ev := rfl
@[simp] theorem stay_issued (s : State) : (s.stay).issued = s.issued := rfl
@[simp] theorem stay_freed (s : State) : (s.stay).freed = s.freed := rfl
@[simp] theorem stay_freedArms (s : State) : (s.stay).freedArms = s.freedArms := rfl
@[simp] theorem stay_mem (s : State) : (s.stay).mem = s.mem := rfl
@[simp] theorem stay_hostMem (s : State) : (s.stay).hostMem = s.hostMem := rfl
@[simp] theorem stay_peerMem (s : State) : (s.stay).peerMem = s.peerMem := rfl
@[simp] theorem stay_teams (s : State) : (s.stay).teams = s.teams := rfl
@[simp] theorem stay_grids (s : State) : (s.stay).grids = s.grids := rfl
@[simp] theorem stay_ops (s : State) : (s.stay).ops = s.ops := rfl
@[simp] theorem stay_reqs (s : State) : (s.stay).reqs = s.reqs := rfl
@[simp] theorem stay_walks (s : State) : (s.stay).walks = s.walks := rfl
@[simp] theorem stay_faults (s : State) : (s.stay).faults = s.faults := rfl
@[simp] theorem stay_seats (s : State) : (s.stay).seats = s.seats := rfl
@[simp] theorem stay_slots (s : State) : (s.stay).slots = s.slots := rfl
@[simp] theorem stay_arms (s : State) : (s.stay).arms = s.arms := rfl
@[simp] theorem stay_pairs (s : State) : (s.stay).pairs = s.pairs := rfl
@[simp] theorem stay_passes (s : State) : (s.stay).passes = s.passes := rfl
@[simp] theorem stay_fencedMx (s : State) : (s.stay).fencedMx = s.fencedMx := rfl
@[simp] theorem stay_fencedLinks (s : State) : (s.stay).fencedLinks = s.fencedLinks := rfl
@[simp] theorem stay_lastRow (s : State) : (s.stay).lastRow = s.lastRow := rfl
@[simp] theorem stay_ports (s : State) : (s.stay).ports = s.ports := rfl
@[simp] theorem stay_corrected (s : State) : (s.stay).corrected = s.corrected := rfl
@[simp] theorem stay_badFrames (s : State) : (s.stay).badFrames = s.badFrames := rfl
@[simp] theorem stay_queues (s : State) : (s.stay).queues = s.queues := rfl
@[simp] theorem stay_completions (s : State) : (s.stay).completions = s.completions := rfl
@[simp] theorem stay_cqSeq (s : State) : (s.stay).cqSeq = s.cqSeq := rfl
@[simp] theorem stay_doors (s : State) : (s.stay).doors = s.doors := rfl
@[simp] theorem stay_runModes (s : State) : (s.stay).runModes = s.runModes := rfl
@[simp] theorem stay_preempted (s : State) : (s.stay).preempted = s.preempted := rfl
@[simp] theorem stay_host (s : State) : (s.stay).host = s.host := rfl
@[simp] theorem stay_mail (s : State) : (s.stay).mail = s.mail := rfl
@[simp] theorem stay_mailWait (s : State) : (s.stay).mailWait = s.mailWait := rfl
@[simp] theorem stay_visits (s : State) : (s.stay).visits = s.visits := rfl
@[simp] theorem stay_windows (s : State) : (s.stay).windows = s.windows := rfl
@[simp] theorem stay_power (s : State) : (s.stay).power = s.power := rfl
@[simp] theorem stay_link (s : State) : (s.stay).link = s.link := rfl
@[simp] theorem stay_asBase (s : State) : (s.stay).asBase = s.asBase := rfl
@[simp] theorem stay_nextOp (s : State) : (s.stay).nextOp = s.nextOp := rfl
@[simp] theorem stay_nextId (s : State) : (s.stay).nextId = s.nextId := rfl
@[simp] theorem stay_draws (s : State) : (s.stay).draws = s.draws := rfl
@[simp] theorem stay_cur_live (s : State) : (s.stay).cur.live = s.cur.live := rfl
@[simp] theorem stay_cur_team (s : State) : (s.stay).cur.team = s.cur.team := rfl
@[simp] theorem stay_cur_split (s : State) : (s.stay).cur.split = s.cur.split := rfl
@[simp] theorem stay_cur_pkt (s : State) : (s.stay).cur.pkt = s.cur.pkt := rfl
@[simp] theorem stay_cur_slot (s : State) : (s.stay).cur.slot = s.cur.slot := rfl
@[simp] theorem stay_cur_unitSlot (s : State) : (s.stay).cur.unitSlot = s.cur.unitSlot := rfl
@[simp] theorem stay_cur_nextPkt (s : State) : (s.stay).cur.nextPkt = s.cur.nextPkt := rfl
@[simp] theorem stay_cur_nextSlot (s : State) : (s.stay).cur.nextSlot = s.cur.nextSlot := rfl
@[simp] theorem stay_cur_word (s : State) : (s.stay).cur.word = s.cur.word := rfl
@[simp] theorem stay_cur_lit (s : State) : (s.stay).cur.lit = s.cur.lit := rfl
@[simp] theorem stay_cur_age (s : State) : (s.stay).cur.age = s.cur.age := rfl
@[simp] theorem stay_cur_src (s : State) : (s.stay).cur.src = s.cur.src := rfl
@[simp] theorem stay_cur_trap (s : State) : (s.stay).cur.trap = s.cur.trap := rfl
@[simp] theorem onGroup_cur_group (s : State) (f : Group → Group) : (s.onGroup f).cur.group = f s.cur.group := rfl
@[simp] theorem onRegs_cur_group_gid (s : State) (f : Regs → Regs) : (s.onRegs f).cur.group.gid = s.cur.group.gid := rfl
@[simp] theorem onRegs_cur_group_role (s : State) (f : Regs → Regs) : (s.onRegs f).cur.group.role = s.cur.group.role := rfl
@[simp] theorem onRegs_cur_group_regs (s : State) (f : Regs → Regs) : (s.onRegs f).cur.group.regs = f s.cur.group.regs := rfl
@[simp] theorem onRegs_cur_group_allot (s : State) (f : Regs → Regs) : (s.onRegs f).cur.group.allot = s.cur.group.allot := rfl
@[simp] theorem onRegs_cur_group_splits (s : State) (f : Regs → Regs) : (s.onRegs f).cur.group.splits = s.cur.group.splits := rfl
@[simp] theorem onRegs_cur_group_banks (s : State) (f : Regs → Regs) : (s.onRegs f).cur.group.banks = s.cur.group.banks := rfl
@[simp] theorem onRegs_cur_group_wakes (s : State) (f : Regs → Regs) : (s.onRegs f).cur.group.wakes = s.cur.group.wakes := rfl
@[simp] theorem onRegs_cur_group_hasExt (s : State) (f : Regs → Regs) : (s.onRegs f).cur.group.hasExt = s.cur.group.hasExt := rfl
@[simp] theorem onRegs_cur_group_baseHeld (s : State) (f : Regs → Regs) : (s.onRegs f).cur.group.baseHeld = s.cur.group.baseHeld := rfl
@[simp] theorem onRegs_cur_group_extHeld (s : State) (f : Regs → Regs) : (s.onRegs f).cur.group.extHeld = s.cur.group.extHeld := rfl
@[simp] theorem onRegs_cur_group_level (s : State) (f : Regs → Regs) : (s.onRegs f).cur.group.level = s.cur.group.level := rfl
@[simp] theorem onRegs_cur_group_kept (s : State) (f : Regs → Regs) : (s.onRegs f).cur.group.kept = s.cur.group.kept := rfl
@[simp] theorem onRegs_cur_group_trapSplit (s : State) (f : Regs → Regs) : (s.onRegs f).cur.group.trapSplit = s.cur.group.trapSplit := rfl
@[simp] theorem onRegs_cur_group_retired (s : State) (f : Regs → Regs) : (s.onRegs f).cur.group.retired = s.cur.group.retired := rfl
@[simp] theorem onRegs_cur_group_trap (s : State) (f : Regs → Regs) : (s.onRegs f).cur.group.trap = s.cur.group.trap := rfl
@[simp] theorem onRegs_cur_group_handlerCode (s : State) (f : Regs → Regs) : (s.onRegs f).cur.group.handlerCode = s.cur.group.handlerCode := rfl
@[simp] theorem onRegs_cur_group_brkctl (s : State) (f : Regs → Regs) : (s.onRegs f).cur.group.brkctl = s.cur.group.brkctl := rfl
@[simp] theorem onRegs_cur_group_iret (s : State) (f : Regs → Regs) : (s.onRegs f).cur.group.iret = s.cur.group.iret := rfl
@[simp] theorem onRegs_cur_group_counts (s : State) (f : Regs → Regs) : (s.onRegs f).cur.group.counts = s.cur.group.counts := rfl
@[simp] theorem onRegs_cur_group_board (s : State) (f : Regs → Regs) : (s.onRegs f).cur.group.board = s.cur.group.board := rfl
@[simp] theorem onRegs_cur_group_notBefore (s : State) (f : Regs → Regs) : (s.onRegs f).cur.group.notBefore = s.cur.group.notBefore := rfl
@[simp] theorem onRegs_cur_group_deferred (s : State) (f : Regs → Regs) : (s.onRegs f).cur.group.deferred = s.cur.group.deferred := rfl
@[simp] theorem onRegs_cur_group_fences (s : State) (f : Regs → Regs) : (s.onRegs f).cur.group.fences = s.cur.group.fences := rfl
@[simp] theorem onRegs_cur_group_poison (s : State) (f : Regs → Regs) : (s.onRegs f).cur.group.poison = s.cur.group.poison := rfl
@[simp] theorem onRegs_cur_group_parity (s : State) (f : Regs → Regs) : (s.onRegs f).cur.group.parity = s.cur.group.parity := rfl
@[simp] theorem onRegs_cur_group_flips (s : State) (f : Regs → Regs) : (s.onRegs f).cur.group.flips = s.cur.group.flips := rfl
@[simp] theorem onRegs_cur_group_lastRel (s : State) (f : Regs → Regs) : (s.onRegs f).cur.group.lastRel = s.cur.group.lastRel := rfl
@[simp] theorem onRegs_cur_group_stopped (s : State) (f : Regs → Regs) : (s.onRegs f).cur.group.stopped = s.cur.group.stopped := rfl
@[simp] theorem onRegs_cur_group_marks (s : State) (f : Regs → Regs) : (s.onRegs f).cur.group.marks = s.cur.group.marks := rfl
@[simp] theorem onRegs_cur_group_q6next (s : State) (f : Regs → Regs) : (s.onRegs f).cur.group.q6next = s.cur.group.q6next := rfl
@[simp] theorem onRegs_cur_group_tested (s : State) (f : Regs → Regs) : (s.onRegs f).cur.group.tested = s.cur.group.tested := rfl
@[simp] theorem onRegs_cur_group_ended (s : State) (f : Regs → Regs) : (s.onRegs f).cur.group.ended = s.cur.group.ended := rfl
@[simp] theorem onRegs_cur_group_returned (s : State) (f : Regs → Regs) : (s.onRegs f).cur.group.returned = s.cur.group.returned := rfl
@[simp] theorem onRegs_cur_group_quantum (s : State) (f : Regs → Regs) : (s.onRegs f).cur.group.quantum = s.cur.group.quantum := rfl
@[simp] theorem onRegs_cur_group_standing (s : State) (f : Regs → Regs) : (s.onRegs f).cur.group.standing = s.cur.group.standing := rfl
@[simp] theorem onRegs_cur_group_paused (s : State) (f : Regs → Regs) : (s.onRegs f).cur.group.paused = s.cur.group.paused := rfl
@[simp] theorem onRegs_cur_group_effects (s : State) (f : Regs → Regs) : (s.onRegs f).cur.group.effects = s.cur.group.effects := rfl
@[simp] theorem wS_cur_group_gid (s : State) (k : Nat) (v : W64) : (s.wS k v).cur.group.gid = s.cur.group.gid := by simp only [State.wS, State.onGroup, Group.wS]; split <;> rfl
@[simp] theorem wS_cur_group_role (s : State) (k : Nat) (v : W64) : (s.wS k v).cur.group.role = s.cur.group.role := by simp only [State.wS, State.onGroup, Group.wS]; split <;> rfl
@[simp] theorem wS_cur_group_regs (s : State) (k : Nat) (v : W64) : (s.wS k v).cur.group.regs = s.cur.group.regs.setS k v := by simp only [State.wS, State.onGroup, Group.wS, Regs.setS]; split <;> rfl
@[simp] theorem wS_cur_group_allot (s : State) (k : Nat) (v : W64) : (s.wS k v).cur.group.allot = s.cur.group.allot := by simp only [State.wS, State.onGroup, Group.wS]; split <;> rfl
@[simp] theorem wS_cur_group_splits (s : State) (k : Nat) (v : W64) : (s.wS k v).cur.group.splits = s.cur.group.splits := by simp only [State.wS, State.onGroup, Group.wS]; split <;> rfl
@[simp] theorem wS_cur_group_banks (s : State) (k : Nat) (v : W64) : (s.wS k v).cur.group.banks = s.cur.group.banks := by simp only [State.wS, State.onGroup, Group.wS]; split <;> rfl
@[simp] theorem wS_cur_group_wakes (s : State) (k : Nat) (v : W64) : (s.wS k v).cur.group.wakes = s.cur.group.wakes := by simp only [State.wS, State.onGroup, Group.wS]; split <;> rfl
@[simp] theorem wS_cur_group_hasExt (s : State) (k : Nat) (v : W64) : (s.wS k v).cur.group.hasExt = s.cur.group.hasExt := by simp only [State.wS, State.onGroup, Group.wS]; split <;> rfl
@[simp] theorem wS_cur_group_baseHeld (s : State) (k : Nat) (v : W64) : (s.wS k v).cur.group.baseHeld = s.cur.group.baseHeld := by simp only [State.wS, State.onGroup, Group.wS]; split <;> rfl
@[simp] theorem wS_cur_group_extHeld (s : State) (k : Nat) (v : W64) : (s.wS k v).cur.group.extHeld = s.cur.group.extHeld := by simp only [State.wS, State.onGroup, Group.wS]; split <;> rfl
@[simp] theorem wS_cur_group_level (s : State) (k : Nat) (v : W64) : (s.wS k v).cur.group.level = s.cur.group.level := by simp only [State.wS, State.onGroup, Group.wS]; split <;> rfl
@[simp] theorem wS_cur_group_kept (s : State) (k : Nat) (v : W64) : (s.wS k v).cur.group.kept = s.cur.group.kept := by simp only [State.wS, State.onGroup, Group.wS]; split <;> rfl
@[simp] theorem wS_cur_group_trapSplit (s : State) (k : Nat) (v : W64) : (s.wS k v).cur.group.trapSplit = s.cur.group.trapSplit := by simp only [State.wS, State.onGroup, Group.wS]; split <;> rfl
@[simp] theorem wS_cur_group_retired (s : State) (k : Nat) (v : W64) : (s.wS k v).cur.group.retired = s.cur.group.retired := by simp only [State.wS, State.onGroup, Group.wS]; split <;> rfl
@[simp] theorem wS_cur_group_trap (s : State) (k : Nat) (v : W64) : (s.wS k v).cur.group.trap = s.cur.group.trap := by simp only [State.wS, State.onGroup, Group.wS]; split <;> rfl
@[simp] theorem wS_cur_group_handlerCode (s : State) (k : Nat) (v : W64) : (s.wS k v).cur.group.handlerCode = s.cur.group.handlerCode := by simp only [State.wS, State.onGroup, Group.wS]; split <;> rfl
@[simp] theorem wS_cur_group_brkctl (s : State) (k : Nat) (v : W64) : (s.wS k v).cur.group.brkctl = s.cur.group.brkctl := by simp only [State.wS, State.onGroup, Group.wS]; split <;> rfl
@[simp] theorem wS_cur_group_iret (s : State) (k : Nat) (v : W64) : (s.wS k v).cur.group.iret = s.cur.group.iret := by simp only [State.wS, State.onGroup, Group.wS]; split <;> rfl
@[simp] theorem wS_cur_group_counts (s : State) (k : Nat) (v : W64) : (s.wS k v).cur.group.counts = s.cur.group.counts := by simp only [State.wS, State.onGroup, Group.wS]; split <;> rfl
@[simp] theorem wS_cur_group_board (s : State) (k : Nat) (v : W64) : (s.wS k v).cur.group.board = s.cur.group.board := by simp only [State.wS, State.onGroup, Group.wS]; split <;> rfl
@[simp] theorem wS_cur_group_notBefore (s : State) (k : Nat) (v : W64) : (s.wS k v).cur.group.notBefore = s.cur.group.notBefore := by simp only [State.wS, State.onGroup, Group.wS]; split <;> rfl
@[simp] theorem wS_cur_group_deferred (s : State) (k : Nat) (v : W64) : (s.wS k v).cur.group.deferred = s.cur.group.deferred := by simp only [State.wS, State.onGroup, Group.wS]; split <;> rfl
@[simp] theorem wS_cur_group_fences (s : State) (k : Nat) (v : W64) : (s.wS k v).cur.group.fences = s.cur.group.fences := by simp only [State.wS, State.onGroup, Group.wS]; split <;> rfl
@[simp] theorem wS_cur_group_lastRel (s : State) (k : Nat) (v : W64) : (s.wS k v).cur.group.lastRel = s.cur.group.lastRel := by simp only [State.wS, State.onGroup, Group.wS]; split <;> rfl
@[simp] theorem wS_cur_group_stopped (s : State) (k : Nat) (v : W64) : (s.wS k v).cur.group.stopped = s.cur.group.stopped := by simp only [State.wS, State.onGroup, Group.wS]; split <;> rfl
@[simp] theorem wS_cur_group_marks (s : State) (k : Nat) (v : W64) : (s.wS k v).cur.group.marks = s.cur.group.marks := by simp only [State.wS, State.onGroup, Group.wS]; split <;> rfl
@[simp] theorem wS_cur_group_q6next (s : State) (k : Nat) (v : W64) : (s.wS k v).cur.group.q6next = s.cur.group.q6next := by simp only [State.wS, State.onGroup, Group.wS]; split <;> rfl
@[simp] theorem wS_cur_group_tested (s : State) (k : Nat) (v : W64) : (s.wS k v).cur.group.tested = s.cur.group.tested := by simp only [State.wS, State.onGroup, Group.wS]; split <;> rfl
@[simp] theorem wS_cur_group_ended (s : State) (k : Nat) (v : W64) : (s.wS k v).cur.group.ended = s.cur.group.ended := by simp only [State.wS, State.onGroup, Group.wS]; split <;> rfl
@[simp] theorem wS_cur_group_returned (s : State) (k : Nat) (v : W64) : (s.wS k v).cur.group.returned = s.cur.group.returned := by simp only [State.wS, State.onGroup, Group.wS]; split <;> rfl
@[simp] theorem wS_cur_group_quantum (s : State) (k : Nat) (v : W64) : (s.wS k v).cur.group.quantum = s.cur.group.quantum := by simp only [State.wS, State.onGroup, Group.wS]; split <;> rfl
@[simp] theorem wS_cur_group_standing (s : State) (k : Nat) (v : W64) : (s.wS k v).cur.group.standing = s.cur.group.standing := by simp only [State.wS, State.onGroup, Group.wS]; split <;> rfl
@[simp] theorem wS_cur_group_paused (s : State) (k : Nat) (v : W64) : (s.wS k v).cur.group.paused = s.cur.group.paused := by simp only [State.wS, State.onGroup, Group.wS]; split <;> rfl
@[simp] theorem wS_cur_group_effects (s : State) (k : Nat) (v : W64) : (s.wS k v).cur.group.effects = s.cur.group.effects := by simp only [State.wS, State.onGroup, Group.wS]; split <;> rfl
@[simp] theorem wC_cur_group_gid (s : State) (k : Nat) (v : LaneMask) : (s.wC k v).cur.group.gid = s.cur.group.gid := by simp only [State.wC, State.onGroup, Group.wC]; split <;> rfl
@[simp] theorem wC_cur_group_role (s : State) (k : Nat) (v : LaneMask) : (s.wC k v).cur.group.role = s.cur.group.role := by simp only [State.wC, State.onGroup, Group.wC]; split <;> rfl
@[simp] theorem wC_cur_group_regs (s : State) (k : Nat) (v : LaneMask) : (s.wC k v).cur.group.regs = s.cur.group.regs.setC k v := by simp only [State.wC, State.onGroup, Group.wC, Regs.setC]; split <;> rfl
@[simp] theorem wC_cur_group_allot (s : State) (k : Nat) (v : LaneMask) : (s.wC k v).cur.group.allot = s.cur.group.allot := by simp only [State.wC, State.onGroup, Group.wC]; split <;> rfl
@[simp] theorem wC_cur_group_splits (s : State) (k : Nat) (v : LaneMask) : (s.wC k v).cur.group.splits = s.cur.group.splits := by simp only [State.wC, State.onGroup, Group.wC]; split <;> rfl
@[simp] theorem wC_cur_group_banks (s : State) (k : Nat) (v : LaneMask) : (s.wC k v).cur.group.banks = s.cur.group.banks := by simp only [State.wC, State.onGroup, Group.wC]; split <;> rfl
@[simp] theorem wC_cur_group_wakes (s : State) (k : Nat) (v : LaneMask) : (s.wC k v).cur.group.wakes = s.cur.group.wakes := by simp only [State.wC, State.onGroup, Group.wC]; split <;> rfl
@[simp] theorem wC_cur_group_hasExt (s : State) (k : Nat) (v : LaneMask) : (s.wC k v).cur.group.hasExt = s.cur.group.hasExt := by simp only [State.wC, State.onGroup, Group.wC]; split <;> rfl
@[simp] theorem wC_cur_group_baseHeld (s : State) (k : Nat) (v : LaneMask) : (s.wC k v).cur.group.baseHeld = s.cur.group.baseHeld := by simp only [State.wC, State.onGroup, Group.wC]; split <;> rfl
@[simp] theorem wC_cur_group_extHeld (s : State) (k : Nat) (v : LaneMask) : (s.wC k v).cur.group.extHeld = s.cur.group.extHeld := by simp only [State.wC, State.onGroup, Group.wC]; split <;> rfl
@[simp] theorem wC_cur_group_level (s : State) (k : Nat) (v : LaneMask) : (s.wC k v).cur.group.level = s.cur.group.level := by simp only [State.wC, State.onGroup, Group.wC]; split <;> rfl
@[simp] theorem wC_cur_group_kept (s : State) (k : Nat) (v : LaneMask) : (s.wC k v).cur.group.kept = s.cur.group.kept := by simp only [State.wC, State.onGroup, Group.wC]; split <;> rfl
@[simp] theorem wC_cur_group_trapSplit (s : State) (k : Nat) (v : LaneMask) : (s.wC k v).cur.group.trapSplit = s.cur.group.trapSplit := by simp only [State.wC, State.onGroup, Group.wC]; split <;> rfl
@[simp] theorem wC_cur_group_retired (s : State) (k : Nat) (v : LaneMask) : (s.wC k v).cur.group.retired = s.cur.group.retired := by simp only [State.wC, State.onGroup, Group.wC]; split <;> rfl
@[simp] theorem wC_cur_group_trap (s : State) (k : Nat) (v : LaneMask) : (s.wC k v).cur.group.trap = s.cur.group.trap := by simp only [State.wC, State.onGroup, Group.wC]; split <;> rfl
@[simp] theorem wC_cur_group_handlerCode (s : State) (k : Nat) (v : LaneMask) : (s.wC k v).cur.group.handlerCode = s.cur.group.handlerCode := by simp only [State.wC, State.onGroup, Group.wC]; split <;> rfl
@[simp] theorem wC_cur_group_brkctl (s : State) (k : Nat) (v : LaneMask) : (s.wC k v).cur.group.brkctl = s.cur.group.brkctl := by simp only [State.wC, State.onGroup, Group.wC]; split <;> rfl
@[simp] theorem wC_cur_group_iret (s : State) (k : Nat) (v : LaneMask) : (s.wC k v).cur.group.iret = s.cur.group.iret := by simp only [State.wC, State.onGroup, Group.wC]; split <;> rfl
@[simp] theorem wC_cur_group_counts (s : State) (k : Nat) (v : LaneMask) : (s.wC k v).cur.group.counts = s.cur.group.counts := by simp only [State.wC, State.onGroup, Group.wC]; split <;> rfl
@[simp] theorem wC_cur_group_board (s : State) (k : Nat) (v : LaneMask) : (s.wC k v).cur.group.board = s.cur.group.board := by simp only [State.wC, State.onGroup, Group.wC]; split <;> rfl
@[simp] theorem wC_cur_group_notBefore (s : State) (k : Nat) (v : LaneMask) : (s.wC k v).cur.group.notBefore = s.cur.group.notBefore := by simp only [State.wC, State.onGroup, Group.wC]; split <;> rfl
@[simp] theorem wC_cur_group_deferred (s : State) (k : Nat) (v : LaneMask) : (s.wC k v).cur.group.deferred = s.cur.group.deferred := by simp only [State.wC, State.onGroup, Group.wC]; split <;> rfl
@[simp] theorem wC_cur_group_fences (s : State) (k : Nat) (v : LaneMask) : (s.wC k v).cur.group.fences = s.cur.group.fences := by simp only [State.wC, State.onGroup, Group.wC]; split <;> rfl
@[simp] theorem wC_cur_group_lastRel (s : State) (k : Nat) (v : LaneMask) : (s.wC k v).cur.group.lastRel = s.cur.group.lastRel := by simp only [State.wC, State.onGroup, Group.wC]; split <;> rfl
@[simp] theorem wC_cur_group_stopped (s : State) (k : Nat) (v : LaneMask) : (s.wC k v).cur.group.stopped = s.cur.group.stopped := by simp only [State.wC, State.onGroup, Group.wC]; split <;> rfl
@[simp] theorem wC_cur_group_marks (s : State) (k : Nat) (v : LaneMask) : (s.wC k v).cur.group.marks = s.cur.group.marks := by simp only [State.wC, State.onGroup, Group.wC]; split <;> rfl
@[simp] theorem wC_cur_group_q6next (s : State) (k : Nat) (v : LaneMask) : (s.wC k v).cur.group.q6next = s.cur.group.q6next := by simp only [State.wC, State.onGroup, Group.wC]; split <;> rfl
@[simp] theorem wC_cur_group_tested (s : State) (k : Nat) (v : LaneMask) : (s.wC k v).cur.group.tested = s.cur.group.tested := by simp only [State.wC, State.onGroup, Group.wC]; split <;> rfl
@[simp] theorem wC_cur_group_ended (s : State) (k : Nat) (v : LaneMask) : (s.wC k v).cur.group.ended = s.cur.group.ended := by simp only [State.wC, State.onGroup, Group.wC]; split <;> rfl
@[simp] theorem wC_cur_group_returned (s : State) (k : Nat) (v : LaneMask) : (s.wC k v).cur.group.returned = s.cur.group.returned := by simp only [State.wC, State.onGroup, Group.wC]; split <;> rfl
@[simp] theorem wC_cur_group_quantum (s : State) (k : Nat) (v : LaneMask) : (s.wC k v).cur.group.quantum = s.cur.group.quantum := by simp only [State.wC, State.onGroup, Group.wC]; split <;> rfl
@[simp] theorem wC_cur_group_standing (s : State) (k : Nat) (v : LaneMask) : (s.wC k v).cur.group.standing = s.cur.group.standing := by simp only [State.wC, State.onGroup, Group.wC]; split <;> rfl
@[simp] theorem wC_cur_group_paused (s : State) (k : Nat) (v : LaneMask) : (s.wC k v).cur.group.paused = s.cur.group.paused := by simp only [State.wC, State.onGroup, Group.wC]; split <;> rfl
@[simp] theorem wC_cur_group_effects (s : State) (k : Nat) (v : LaneMask) : (s.wC k v).cur.group.effects = s.cur.group.effects := by simp only [State.wC, State.onGroup, Group.wC]; split <;> rfl
@[simp] theorem wN_cur_group_gid (s : State) (k : Nat) (v : Byte) : (s.wN k v).cur.group.gid = s.cur.group.gid := rfl
@[simp] theorem wN_cur_group_role (s : State) (k : Nat) (v : Byte) : (s.wN k v).cur.group.role = s.cur.group.role := rfl
@[simp] theorem wN_cur_group_regs (s : State) (k : Nat) (v : Byte) : (s.wN k v).cur.group.regs = s.cur.group.regs.setN k v := rfl
@[simp] theorem wN_cur_group_allot (s : State) (k : Nat) (v : Byte) : (s.wN k v).cur.group.allot = s.cur.group.allot := rfl
@[simp] theorem wN_cur_group_splits (s : State) (k : Nat) (v : Byte) : (s.wN k v).cur.group.splits = s.cur.group.splits := rfl
@[simp] theorem wN_cur_group_banks (s : State) (k : Nat) (v : Byte) : (s.wN k v).cur.group.banks = s.cur.group.banks := rfl
@[simp] theorem wN_cur_group_wakes (s : State) (k : Nat) (v : Byte) : (s.wN k v).cur.group.wakes = s.cur.group.wakes := rfl
@[simp] theorem wN_cur_group_hasExt (s : State) (k : Nat) (v : Byte) : (s.wN k v).cur.group.hasExt = s.cur.group.hasExt := rfl
@[simp] theorem wN_cur_group_baseHeld (s : State) (k : Nat) (v : Byte) : (s.wN k v).cur.group.baseHeld = s.cur.group.baseHeld := rfl
@[simp] theorem wN_cur_group_extHeld (s : State) (k : Nat) (v : Byte) : (s.wN k v).cur.group.extHeld = s.cur.group.extHeld := rfl
@[simp] theorem wN_cur_group_level (s : State) (k : Nat) (v : Byte) : (s.wN k v).cur.group.level = s.cur.group.level := rfl
@[simp] theorem wN_cur_group_kept (s : State) (k : Nat) (v : Byte) : (s.wN k v).cur.group.kept = s.cur.group.kept := rfl
@[simp] theorem wN_cur_group_trapSplit (s : State) (k : Nat) (v : Byte) : (s.wN k v).cur.group.trapSplit = s.cur.group.trapSplit := rfl
@[simp] theorem wN_cur_group_retired (s : State) (k : Nat) (v : Byte) : (s.wN k v).cur.group.retired = s.cur.group.retired := rfl
@[simp] theorem wN_cur_group_trap (s : State) (k : Nat) (v : Byte) : (s.wN k v).cur.group.trap = s.cur.group.trap := rfl
@[simp] theorem wN_cur_group_handlerCode (s : State) (k : Nat) (v : Byte) : (s.wN k v).cur.group.handlerCode = s.cur.group.handlerCode := rfl
@[simp] theorem wN_cur_group_brkctl (s : State) (k : Nat) (v : Byte) : (s.wN k v).cur.group.brkctl = s.cur.group.brkctl := rfl
@[simp] theorem wN_cur_group_iret (s : State) (k : Nat) (v : Byte) : (s.wN k v).cur.group.iret = s.cur.group.iret := rfl
@[simp] theorem wN_cur_group_counts (s : State) (k : Nat) (v : Byte) : (s.wN k v).cur.group.counts = s.cur.group.counts := rfl
@[simp] theorem wN_cur_group_board (s : State) (k : Nat) (v : Byte) : (s.wN k v).cur.group.board = s.cur.group.board := rfl
@[simp] theorem wN_cur_group_notBefore (s : State) (k : Nat) (v : Byte) : (s.wN k v).cur.group.notBefore = s.cur.group.notBefore := rfl
@[simp] theorem wN_cur_group_deferred (s : State) (k : Nat) (v : Byte) : (s.wN k v).cur.group.deferred = s.cur.group.deferred := rfl
@[simp] theorem wN_cur_group_fences (s : State) (k : Nat) (v : Byte) : (s.wN k v).cur.group.fences = s.cur.group.fences := rfl
@[simp] theorem wN_cur_group_lastRel (s : State) (k : Nat) (v : Byte) : (s.wN k v).cur.group.lastRel = s.cur.group.lastRel := rfl
@[simp] theorem wN_cur_group_stopped (s : State) (k : Nat) (v : Byte) : (s.wN k v).cur.group.stopped = s.cur.group.stopped := rfl
@[simp] theorem wN_cur_group_marks (s : State) (k : Nat) (v : Byte) : (s.wN k v).cur.group.marks = s.cur.group.marks := rfl
@[simp] theorem wN_cur_group_q6next (s : State) (k : Nat) (v : Byte) : (s.wN k v).cur.group.q6next = s.cur.group.q6next := rfl
@[simp] theorem wN_cur_group_tested (s : State) (k : Nat) (v : Byte) : (s.wN k v).cur.group.tested = s.cur.group.tested := rfl
@[simp] theorem wN_cur_group_ended (s : State) (k : Nat) (v : Byte) : (s.wN k v).cur.group.ended = s.cur.group.ended := rfl
@[simp] theorem wN_cur_group_returned (s : State) (k : Nat) (v : Byte) : (s.wN k v).cur.group.returned = s.cur.group.returned := rfl
@[simp] theorem wN_cur_group_quantum (s : State) (k : Nat) (v : Byte) : (s.wN k v).cur.group.quantum = s.cur.group.quantum := rfl
@[simp] theorem wN_cur_group_standing (s : State) (k : Nat) (v : Byte) : (s.wN k v).cur.group.standing = s.cur.group.standing := rfl
@[simp] theorem wN_cur_group_paused (s : State) (k : Nat) (v : Byte) : (s.wN k v).cur.group.paused = s.cur.group.paused := rfl
@[simp] theorem wN_cur_group_effects (s : State) (k : Nat) (v : Byte) : (s.wN k v).cur.group.effects = s.cur.group.effects := rfl
@[simp] theorem wVs_cur_group_gid (s : State) (k : Nat) (l : List Nat) (f : Nat → W32) : (s.wVs k l f).cur.group.gid = s.cur.group.gid := rfl
@[simp] theorem wVs_cur_group_role (s : State) (k : Nat) (l : List Nat) (f : Nat → W32) : (s.wVs k l f).cur.group.role = s.cur.group.role := rfl
@[simp] theorem wVs_cur_group_regs (s : State) (k : Nat) (l : List Nat) (f : Nat → W32) : (s.wVs k l f).cur.group.regs = s.cur.group.regs.setVs k l f := rfl
@[simp] theorem wVs_cur_group_allot (s : State) (k : Nat) (l : List Nat) (f : Nat → W32) : (s.wVs k l f).cur.group.allot = s.cur.group.allot := rfl
@[simp] theorem wVs_cur_group_splits (s : State) (k : Nat) (l : List Nat) (f : Nat → W32) : (s.wVs k l f).cur.group.splits = s.cur.group.splits := rfl
@[simp] theorem wVs_cur_group_banks (s : State) (k : Nat) (l : List Nat) (f : Nat → W32) : (s.wVs k l f).cur.group.banks = s.cur.group.banks := rfl
@[simp] theorem wVs_cur_group_wakes (s : State) (k : Nat) (l : List Nat) (f : Nat → W32) : (s.wVs k l f).cur.group.wakes = s.cur.group.wakes := rfl
@[simp] theorem wVs_cur_group_hasExt (s : State) (k : Nat) (l : List Nat) (f : Nat → W32) : (s.wVs k l f).cur.group.hasExt = s.cur.group.hasExt := rfl
@[simp] theorem wVs_cur_group_baseHeld (s : State) (k : Nat) (l : List Nat) (f : Nat → W32) : (s.wVs k l f).cur.group.baseHeld = s.cur.group.baseHeld := rfl
@[simp] theorem wVs_cur_group_extHeld (s : State) (k : Nat) (l : List Nat) (f : Nat → W32) : (s.wVs k l f).cur.group.extHeld = s.cur.group.extHeld := rfl
@[simp] theorem wVs_cur_group_level (s : State) (k : Nat) (l : List Nat) (f : Nat → W32) : (s.wVs k l f).cur.group.level = s.cur.group.level := rfl
@[simp] theorem wVs_cur_group_kept (s : State) (k : Nat) (l : List Nat) (f : Nat → W32) : (s.wVs k l f).cur.group.kept = s.cur.group.kept := rfl
@[simp] theorem wVs_cur_group_trapSplit (s : State) (k : Nat) (l : List Nat) (f : Nat → W32) : (s.wVs k l f).cur.group.trapSplit = s.cur.group.trapSplit := rfl
@[simp] theorem wVs_cur_group_retired (s : State) (k : Nat) (l : List Nat) (f : Nat → W32) : (s.wVs k l f).cur.group.retired = s.cur.group.retired := rfl
@[simp] theorem wVs_cur_group_trap (s : State) (k : Nat) (l : List Nat) (f : Nat → W32) : (s.wVs k l f).cur.group.trap = s.cur.group.trap := rfl
@[simp] theorem wVs_cur_group_handlerCode (s : State) (k : Nat) (l : List Nat) (f : Nat → W32) : (s.wVs k l f).cur.group.handlerCode = s.cur.group.handlerCode := rfl
@[simp] theorem wVs_cur_group_brkctl (s : State) (k : Nat) (l : List Nat) (f : Nat → W32) : (s.wVs k l f).cur.group.brkctl = s.cur.group.brkctl := rfl
@[simp] theorem wVs_cur_group_iret (s : State) (k : Nat) (l : List Nat) (f : Nat → W32) : (s.wVs k l f).cur.group.iret = s.cur.group.iret := rfl
@[simp] theorem wVs_cur_group_counts (s : State) (k : Nat) (l : List Nat) (f : Nat → W32) : (s.wVs k l f).cur.group.counts = s.cur.group.counts := rfl
@[simp] theorem wVs_cur_group_board (s : State) (k : Nat) (l : List Nat) (f : Nat → W32) : (s.wVs k l f).cur.group.board = s.cur.group.board := rfl
@[simp] theorem wVs_cur_group_notBefore (s : State) (k : Nat) (l : List Nat) (f : Nat → W32) : (s.wVs k l f).cur.group.notBefore = s.cur.group.notBefore := rfl
@[simp] theorem wVs_cur_group_deferred (s : State) (k : Nat) (l : List Nat) (f : Nat → W32) : (s.wVs k l f).cur.group.deferred = s.cur.group.deferred := rfl
@[simp] theorem wVs_cur_group_fences (s : State) (k : Nat) (l : List Nat) (f : Nat → W32) : (s.wVs k l f).cur.group.fences = s.cur.group.fences := rfl
@[simp] theorem wVs_cur_group_lastRel (s : State) (k : Nat) (l : List Nat) (f : Nat → W32) : (s.wVs k l f).cur.group.lastRel = s.cur.group.lastRel := rfl
@[simp] theorem wVs_cur_group_stopped (s : State) (k : Nat) (l : List Nat) (f : Nat → W32) : (s.wVs k l f).cur.group.stopped = s.cur.group.stopped := rfl
@[simp] theorem wVs_cur_group_marks (s : State) (k : Nat) (l : List Nat) (f : Nat → W32) : (s.wVs k l f).cur.group.marks = s.cur.group.marks := rfl
@[simp] theorem wVs_cur_group_q6next (s : State) (k : Nat) (l : List Nat) (f : Nat → W32) : (s.wVs k l f).cur.group.q6next = s.cur.group.q6next := rfl
@[simp] theorem wVs_cur_group_tested (s : State) (k : Nat) (l : List Nat) (f : Nat → W32) : (s.wVs k l f).cur.group.tested = s.cur.group.tested := rfl
@[simp] theorem wVs_cur_group_ended (s : State) (k : Nat) (l : List Nat) (f : Nat → W32) : (s.wVs k l f).cur.group.ended = s.cur.group.ended := rfl
@[simp] theorem wVs_cur_group_returned (s : State) (k : Nat) (l : List Nat) (f : Nat → W32) : (s.wVs k l f).cur.group.returned = s.cur.group.returned := rfl
@[simp] theorem wVs_cur_group_quantum (s : State) (k : Nat) (l : List Nat) (f : Nat → W32) : (s.wVs k l f).cur.group.quantum = s.cur.group.quantum := rfl
@[simp] theorem wVs_cur_group_standing (s : State) (k : Nat) (l : List Nat) (f : Nat → W32) : (s.wVs k l f).cur.group.standing = s.cur.group.standing := rfl
@[simp] theorem wVs_cur_group_paused (s : State) (k : Nat) (l : List Nat) (f : Nat → W32) : (s.wVs k l f).cur.group.paused = s.cur.group.paused := rfl
@[simp] theorem wVs_cur_group_effects (s : State) (k : Nat) (l : List Nat) (f : Nat → W32) : (s.wVs k l f).cur.group.effects = s.cur.group.effects := rfl
@[simp] theorem wPs_cur_group_gid (s : State) (k : Nat) (l : List Nat) (f : Nat → W64) : (s.wPs k l f).cur.group.gid = s.cur.group.gid := rfl
@[simp] theorem wPs_cur_group_role (s : State) (k : Nat) (l : List Nat) (f : Nat → W64) : (s.wPs k l f).cur.group.role = s.cur.group.role := rfl
@[simp] theorem wPs_cur_group_allot (s : State) (k : Nat) (l : List Nat) (f : Nat → W64) : (s.wPs k l f).cur.group.allot = s.cur.group.allot := rfl
@[simp] theorem wPs_cur_group_splits (s : State) (k : Nat) (l : List Nat) (f : Nat → W64) : (s.wPs k l f).cur.group.splits = s.cur.group.splits := rfl
@[simp] theorem wPs_cur_group_banks (s : State) (k : Nat) (l : List Nat) (f : Nat → W64) : (s.wPs k l f).cur.group.banks = s.cur.group.banks := rfl
@[simp] theorem wPs_cur_group_wakes (s : State) (k : Nat) (l : List Nat) (f : Nat → W64) : (s.wPs k l f).cur.group.wakes = s.cur.group.wakes := rfl
@[simp] theorem wPs_cur_group_hasExt (s : State) (k : Nat) (l : List Nat) (f : Nat → W64) : (s.wPs k l f).cur.group.hasExt = s.cur.group.hasExt := rfl
@[simp] theorem wPs_cur_group_baseHeld (s : State) (k : Nat) (l : List Nat) (f : Nat → W64) : (s.wPs k l f).cur.group.baseHeld = s.cur.group.baseHeld := rfl
@[simp] theorem wPs_cur_group_extHeld (s : State) (k : Nat) (l : List Nat) (f : Nat → W64) : (s.wPs k l f).cur.group.extHeld = s.cur.group.extHeld := rfl
@[simp] theorem wPs_cur_group_level (s : State) (k : Nat) (l : List Nat) (f : Nat → W64) : (s.wPs k l f).cur.group.level = s.cur.group.level := rfl
@[simp] theorem wPs_cur_group_kept (s : State) (k : Nat) (l : List Nat) (f : Nat → W64) : (s.wPs k l f).cur.group.kept = s.cur.group.kept := rfl
@[simp] theorem wPs_cur_group_trapSplit (s : State) (k : Nat) (l : List Nat) (f : Nat → W64) : (s.wPs k l f).cur.group.trapSplit = s.cur.group.trapSplit := rfl
@[simp] theorem wPs_cur_group_retired (s : State) (k : Nat) (l : List Nat) (f : Nat → W64) : (s.wPs k l f).cur.group.retired = s.cur.group.retired := rfl
@[simp] theorem wPs_cur_group_trap (s : State) (k : Nat) (l : List Nat) (f : Nat → W64) : (s.wPs k l f).cur.group.trap = s.cur.group.trap := rfl
@[simp] theorem wPs_cur_group_handlerCode (s : State) (k : Nat) (l : List Nat) (f : Nat → W64) : (s.wPs k l f).cur.group.handlerCode = s.cur.group.handlerCode := rfl
@[simp] theorem wPs_cur_group_brkctl (s : State) (k : Nat) (l : List Nat) (f : Nat → W64) : (s.wPs k l f).cur.group.brkctl = s.cur.group.brkctl := rfl
@[simp] theorem wPs_cur_group_iret (s : State) (k : Nat) (l : List Nat) (f : Nat → W64) : (s.wPs k l f).cur.group.iret = s.cur.group.iret := rfl
@[simp] theorem wPs_cur_group_counts (s : State) (k : Nat) (l : List Nat) (f : Nat → W64) : (s.wPs k l f).cur.group.counts = s.cur.group.counts := rfl
@[simp] theorem wPs_cur_group_board (s : State) (k : Nat) (l : List Nat) (f : Nat → W64) : (s.wPs k l f).cur.group.board = s.cur.group.board := rfl
@[simp] theorem wPs_cur_group_notBefore (s : State) (k : Nat) (l : List Nat) (f : Nat → W64) : (s.wPs k l f).cur.group.notBefore = s.cur.group.notBefore := rfl
@[simp] theorem wPs_cur_group_deferred (s : State) (k : Nat) (l : List Nat) (f : Nat → W64) : (s.wPs k l f).cur.group.deferred = s.cur.group.deferred := rfl
@[simp] theorem wPs_cur_group_fences (s : State) (k : Nat) (l : List Nat) (f : Nat → W64) : (s.wPs k l f).cur.group.fences = s.cur.group.fences := rfl
@[simp] theorem wPs_cur_group_lastRel (s : State) (k : Nat) (l : List Nat) (f : Nat → W64) : (s.wPs k l f).cur.group.lastRel = s.cur.group.lastRel := rfl
@[simp] theorem wPs_cur_group_stopped (s : State) (k : Nat) (l : List Nat) (f : Nat → W64) : (s.wPs k l f).cur.group.stopped = s.cur.group.stopped := rfl
@[simp] theorem wPs_cur_group_marks (s : State) (k : Nat) (l : List Nat) (f : Nat → W64) : (s.wPs k l f).cur.group.marks = s.cur.group.marks := rfl
@[simp] theorem wPs_cur_group_q6next (s : State) (k : Nat) (l : List Nat) (f : Nat → W64) : (s.wPs k l f).cur.group.q6next = s.cur.group.q6next := rfl
@[simp] theorem wPs_cur_group_tested (s : State) (k : Nat) (l : List Nat) (f : Nat → W64) : (s.wPs k l f).cur.group.tested = s.cur.group.tested := rfl
@[simp] theorem wPs_cur_group_ended (s : State) (k : Nat) (l : List Nat) (f : Nat → W64) : (s.wPs k l f).cur.group.ended = s.cur.group.ended := rfl
@[simp] theorem wPs_cur_group_returned (s : State) (k : Nat) (l : List Nat) (f : Nat → W64) : (s.wPs k l f).cur.group.returned = s.cur.group.returned := rfl
@[simp] theorem wPs_cur_group_quantum (s : State) (k : Nat) (l : List Nat) (f : Nat → W64) : (s.wPs k l f).cur.group.quantum = s.cur.group.quantum := rfl
@[simp] theorem wPs_cur_group_standing (s : State) (k : Nat) (l : List Nat) (f : Nat → W64) : (s.wPs k l f).cur.group.standing = s.cur.group.standing := rfl
@[simp] theorem wPs_cur_group_paused (s : State) (k : Nat) (l : List Nat) (f : Nat → W64) : (s.wPs k l f).cur.group.paused = s.cur.group.paused := rfl
@[simp] theorem wPs_cur_group_effects (s : State) (k : Nat) (l : List Nat) (f : Nat → W64) : (s.wPs k l f).cur.group.effects = s.cur.group.effects := rfl
@[simp] theorem onSplit_cur_group_gid (s : State) (f : Split → Split) : (s.onSplit f).cur.group.gid = s.cur.group.gid := rfl
@[simp] theorem onSplit_cur_group_role (s : State) (f : Split → Split) : (s.onSplit f).cur.group.role = s.cur.group.role := rfl
@[simp] theorem onSplit_cur_group_regs (s : State) (f : Split → Split) : (s.onSplit f).cur.group.regs = s.cur.group.regs := rfl
@[simp] theorem onSplit_cur_group_allot (s : State) (f : Split → Split) : (s.onSplit f).cur.group.allot = s.cur.group.allot := rfl
@[simp] theorem onSplit_cur_group_banks (s : State) (f : Split → Split) : (s.onSplit f).cur.group.banks = s.cur.group.banks := rfl
@[simp] theorem onSplit_cur_group_wakes (s : State) (f : Split → Split) : (s.onSplit f).cur.group.wakes = s.cur.group.wakes := rfl
@[simp] theorem onSplit_cur_group_hasExt (s : State) (f : Split → Split) : (s.onSplit f).cur.group.hasExt = s.cur.group.hasExt := rfl
@[simp] theorem onSplit_cur_group_baseHeld (s : State) (f : Split → Split) : (s.onSplit f).cur.group.baseHeld = s.cur.group.baseHeld := rfl
@[simp] theorem onSplit_cur_group_extHeld (s : State) (f : Split → Split) : (s.onSplit f).cur.group.extHeld = s.cur.group.extHeld := rfl
@[simp] theorem onSplit_cur_group_level (s : State) (f : Split → Split) : (s.onSplit f).cur.group.level = s.cur.group.level := rfl
@[simp] theorem onSplit_cur_group_kept (s : State) (f : Split → Split) : (s.onSplit f).cur.group.kept = s.cur.group.kept := rfl
@[simp] theorem onSplit_cur_group_trapSplit (s : State) (f : Split → Split) : (s.onSplit f).cur.group.trapSplit = s.cur.group.trapSplit := rfl
@[simp] theorem onSplit_cur_group_retired (s : State) (f : Split → Split) : (s.onSplit f).cur.group.retired = s.cur.group.retired := rfl
@[simp] theorem onSplit_cur_group_trap (s : State) (f : Split → Split) : (s.onSplit f).cur.group.trap = s.cur.group.trap := rfl
@[simp] theorem onSplit_cur_group_handlerCode (s : State) (f : Split → Split) : (s.onSplit f).cur.group.handlerCode = s.cur.group.handlerCode := rfl
@[simp] theorem onSplit_cur_group_brkctl (s : State) (f : Split → Split) : (s.onSplit f).cur.group.brkctl = s.cur.group.brkctl := rfl
@[simp] theorem onSplit_cur_group_iret (s : State) (f : Split → Split) : (s.onSplit f).cur.group.iret = s.cur.group.iret := rfl
@[simp] theorem onSplit_cur_group_counts (s : State) (f : Split → Split) : (s.onSplit f).cur.group.counts = s.cur.group.counts := rfl
@[simp] theorem onSplit_cur_group_board (s : State) (f : Split → Split) : (s.onSplit f).cur.group.board = s.cur.group.board := rfl
@[simp] theorem onSplit_cur_group_notBefore (s : State) (f : Split → Split) : (s.onSplit f).cur.group.notBefore = s.cur.group.notBefore := rfl
@[simp] theorem onSplit_cur_group_deferred (s : State) (f : Split → Split) : (s.onSplit f).cur.group.deferred = s.cur.group.deferred := rfl
@[simp] theorem onSplit_cur_group_fences (s : State) (f : Split → Split) : (s.onSplit f).cur.group.fences = s.cur.group.fences := rfl
@[simp] theorem onSplit_cur_group_poison (s : State) (f : Split → Split) : (s.onSplit f).cur.group.poison = s.cur.group.poison := rfl
@[simp] theorem onSplit_cur_group_parity (s : State) (f : Split → Split) : (s.onSplit f).cur.group.parity = s.cur.group.parity := rfl
@[simp] theorem onSplit_cur_group_flips (s : State) (f : Split → Split) : (s.onSplit f).cur.group.flips = s.cur.group.flips := rfl
@[simp] theorem onSplit_cur_group_lastRel (s : State) (f : Split → Split) : (s.onSplit f).cur.group.lastRel = s.cur.group.lastRel := rfl
@[simp] theorem onSplit_cur_group_stopped (s : State) (f : Split → Split) : (s.onSplit f).cur.group.stopped = s.cur.group.stopped := rfl
@[simp] theorem onSplit_cur_group_marks (s : State) (f : Split → Split) : (s.onSplit f).cur.group.marks = s.cur.group.marks := rfl
@[simp] theorem onSplit_cur_group_q6next (s : State) (f : Split → Split) : (s.onSplit f).cur.group.q6next = s.cur.group.q6next := rfl
@[simp] theorem onSplit_cur_group_tested (s : State) (f : Split → Split) : (s.onSplit f).cur.group.tested = s.cur.group.tested := rfl
@[simp] theorem onSplit_cur_group_ended (s : State) (f : Split → Split) : (s.onSplit f).cur.group.ended = s.cur.group.ended := rfl
@[simp] theorem onSplit_cur_group_returned (s : State) (f : Split → Split) : (s.onSplit f).cur.group.returned = s.cur.group.returned := rfl
@[simp] theorem onSplit_cur_group_quantum (s : State) (f : Split → Split) : (s.onSplit f).cur.group.quantum = s.cur.group.quantum := rfl
@[simp] theorem onSplit_cur_group_standing (s : State) (f : Split → Split) : (s.onSplit f).cur.group.standing = s.cur.group.standing := rfl
@[simp] theorem onSplit_cur_group_paused (s : State) (f : Split → Split) : (s.onSplit f).cur.group.paused = s.cur.group.paused := rfl
@[simp] theorem onSplit_cur_group_effects (s : State) (f : Split → Split) : (s.onSplit f).cur.group.effects = s.cur.group.effects := rfl
@[simp] theorem goto_cur_group_gid (s : State) (p : W64) (k : Nat) : (s.goto p k).cur.group.gid = s.cur.group.gid := rfl
@[simp] theorem goto_cur_group_role (s : State) (p : W64) (k : Nat) : (s.goto p k).cur.group.role = s.cur.group.role := rfl
@[simp] theorem goto_cur_group_regs (s : State) (p : W64) (k : Nat) : (s.goto p k).cur.group.regs = s.cur.group.regs := rfl
@[simp] theorem goto_cur_group_allot (s : State) (p : W64) (k : Nat) : (s.goto p k).cur.group.allot = s.cur.group.allot := rfl
@[simp] theorem goto_cur_group_banks (s : State) (p : W64) (k : Nat) : (s.goto p k).cur.group.banks = s.cur.group.banks := rfl
@[simp] theorem goto_cur_group_wakes (s : State) (p : W64) (k : Nat) : (s.goto p k).cur.group.wakes = s.cur.group.wakes := rfl
@[simp] theorem goto_cur_group_hasExt (s : State) (p : W64) (k : Nat) : (s.goto p k).cur.group.hasExt = s.cur.group.hasExt := rfl
@[simp] theorem goto_cur_group_baseHeld (s : State) (p : W64) (k : Nat) : (s.goto p k).cur.group.baseHeld = s.cur.group.baseHeld := rfl
@[simp] theorem goto_cur_group_extHeld (s : State) (p : W64) (k : Nat) : (s.goto p k).cur.group.extHeld = s.cur.group.extHeld := rfl
@[simp] theorem goto_cur_group_level (s : State) (p : W64) (k : Nat) : (s.goto p k).cur.group.level = s.cur.group.level := rfl
@[simp] theorem goto_cur_group_kept (s : State) (p : W64) (k : Nat) : (s.goto p k).cur.group.kept = s.cur.group.kept := rfl
@[simp] theorem goto_cur_group_trapSplit (s : State) (p : W64) (k : Nat) : (s.goto p k).cur.group.trapSplit = s.cur.group.trapSplit := rfl
@[simp] theorem goto_cur_group_retired (s : State) (p : W64) (k : Nat) : (s.goto p k).cur.group.retired = s.cur.group.retired := rfl
@[simp] theorem goto_cur_group_trap (s : State) (p : W64) (k : Nat) : (s.goto p k).cur.group.trap = s.cur.group.trap := rfl
@[simp] theorem goto_cur_group_handlerCode (s : State) (p : W64) (k : Nat) : (s.goto p k).cur.group.handlerCode = s.cur.group.handlerCode := rfl
@[simp] theorem goto_cur_group_brkctl (s : State) (p : W64) (k : Nat) : (s.goto p k).cur.group.brkctl = s.cur.group.brkctl := rfl
@[simp] theorem goto_cur_group_iret (s : State) (p : W64) (k : Nat) : (s.goto p k).cur.group.iret = s.cur.group.iret := rfl
@[simp] theorem goto_cur_group_counts (s : State) (p : W64) (k : Nat) : (s.goto p k).cur.group.counts = s.cur.group.counts := rfl
@[simp] theorem goto_cur_group_board (s : State) (p : W64) (k : Nat) : (s.goto p k).cur.group.board = s.cur.group.board := rfl
@[simp] theorem goto_cur_group_notBefore (s : State) (p : W64) (k : Nat) : (s.goto p k).cur.group.notBefore = s.cur.group.notBefore := rfl
@[simp] theorem goto_cur_group_deferred (s : State) (p : W64) (k : Nat) : (s.goto p k).cur.group.deferred = s.cur.group.deferred := rfl
@[simp] theorem goto_cur_group_fences (s : State) (p : W64) (k : Nat) : (s.goto p k).cur.group.fences = s.cur.group.fences := rfl
@[simp] theorem goto_cur_group_poison (s : State) (p : W64) (k : Nat) : (s.goto p k).cur.group.poison = s.cur.group.poison := rfl
@[simp] theorem goto_cur_group_parity (s : State) (p : W64) (k : Nat) : (s.goto p k).cur.group.parity = s.cur.group.parity := rfl
@[simp] theorem goto_cur_group_flips (s : State) (p : W64) (k : Nat) : (s.goto p k).cur.group.flips = s.cur.group.flips := rfl
@[simp] theorem goto_cur_group_lastRel (s : State) (p : W64) (k : Nat) : (s.goto p k).cur.group.lastRel = s.cur.group.lastRel := rfl
@[simp] theorem goto_cur_group_stopped (s : State) (p : W64) (k : Nat) : (s.goto p k).cur.group.stopped = s.cur.group.stopped := rfl
@[simp] theorem goto_cur_group_marks (s : State) (p : W64) (k : Nat) : (s.goto p k).cur.group.marks = s.cur.group.marks := rfl
@[simp] theorem goto_cur_group_q6next (s : State) (p : W64) (k : Nat) : (s.goto p k).cur.group.q6next = s.cur.group.q6next := rfl
@[simp] theorem goto_cur_group_tested (s : State) (p : W64) (k : Nat) : (s.goto p k).cur.group.tested = s.cur.group.tested := rfl
@[simp] theorem goto_cur_group_ended (s : State) (p : W64) (k : Nat) : (s.goto p k).cur.group.ended = s.cur.group.ended := rfl
@[simp] theorem goto_cur_group_returned (s : State) (p : W64) (k : Nat) : (s.goto p k).cur.group.returned = s.cur.group.returned := rfl
@[simp] theorem goto_cur_group_quantum (s : State) (p : W64) (k : Nat) : (s.goto p k).cur.group.quantum = s.cur.group.quantum := rfl
@[simp] theorem goto_cur_group_standing (s : State) (p : W64) (k : Nat) : (s.goto p k).cur.group.standing = s.cur.group.standing := rfl
@[simp] theorem goto_cur_group_paused (s : State) (p : W64) (k : Nat) : (s.goto p k).cur.group.paused = s.cur.group.paused := rfl
@[simp] theorem goto_cur_group_effects (s : State) (p : W64) (k : Nat) : (s.goto p k).cur.group.effects = s.cur.group.effects := rfl
@[simp] theorem branch_cur_group_gid (s : State) (p : W64) (k : Nat) : (s.branch p k).cur.group.gid = s.cur.group.gid := rfl
@[simp] theorem branch_cur_group_role (s : State) (p : W64) (k : Nat) : (s.branch p k).cur.group.role = s.cur.group.role := rfl
@[simp] theorem branch_cur_group_regs (s : State) (p : W64) (k : Nat) : (s.branch p k).cur.group.regs = s.cur.group.regs := rfl
@[simp] theorem branch_cur_group_allot (s : State) (p : W64) (k : Nat) : (s.branch p k).cur.group.allot = s.cur.group.allot := rfl
@[simp] theorem branch_cur_group_banks (s : State) (p : W64) (k : Nat) : (s.branch p k).cur.group.banks = s.cur.group.banks := rfl
@[simp] theorem branch_cur_group_wakes (s : State) (p : W64) (k : Nat) : (s.branch p k).cur.group.wakes = s.cur.group.wakes := rfl
@[simp] theorem branch_cur_group_hasExt (s : State) (p : W64) (k : Nat) : (s.branch p k).cur.group.hasExt = s.cur.group.hasExt := rfl
@[simp] theorem branch_cur_group_baseHeld (s : State) (p : W64) (k : Nat) : (s.branch p k).cur.group.baseHeld = s.cur.group.baseHeld := rfl
@[simp] theorem branch_cur_group_extHeld (s : State) (p : W64) (k : Nat) : (s.branch p k).cur.group.extHeld = s.cur.group.extHeld := rfl
@[simp] theorem branch_cur_group_level (s : State) (p : W64) (k : Nat) : (s.branch p k).cur.group.level = s.cur.group.level := rfl
@[simp] theorem branch_cur_group_kept (s : State) (p : W64) (k : Nat) : (s.branch p k).cur.group.kept = s.cur.group.kept := rfl
@[simp] theorem branch_cur_group_trapSplit (s : State) (p : W64) (k : Nat) : (s.branch p k).cur.group.trapSplit = s.cur.group.trapSplit := rfl
@[simp] theorem branch_cur_group_retired (s : State) (p : W64) (k : Nat) : (s.branch p k).cur.group.retired = s.cur.group.retired := rfl
@[simp] theorem branch_cur_group_trap (s : State) (p : W64) (k : Nat) : (s.branch p k).cur.group.trap = s.cur.group.trap := rfl
@[simp] theorem branch_cur_group_handlerCode (s : State) (p : W64) (k : Nat) : (s.branch p k).cur.group.handlerCode = s.cur.group.handlerCode := rfl
@[simp] theorem branch_cur_group_brkctl (s : State) (p : W64) (k : Nat) : (s.branch p k).cur.group.brkctl = s.cur.group.brkctl := rfl
@[simp] theorem branch_cur_group_iret (s : State) (p : W64) (k : Nat) : (s.branch p k).cur.group.iret = s.cur.group.iret := rfl
@[simp] theorem branch_cur_group_counts (s : State) (p : W64) (k : Nat) : (s.branch p k).cur.group.counts = s.cur.group.counts := rfl
@[simp] theorem branch_cur_group_board (s : State) (p : W64) (k : Nat) : (s.branch p k).cur.group.board = s.cur.group.board := rfl
@[simp] theorem branch_cur_group_notBefore (s : State) (p : W64) (k : Nat) : (s.branch p k).cur.group.notBefore = s.cur.group.notBefore := rfl
@[simp] theorem branch_cur_group_deferred (s : State) (p : W64) (k : Nat) : (s.branch p k).cur.group.deferred = s.cur.group.deferred := rfl
@[simp] theorem branch_cur_group_fences (s : State) (p : W64) (k : Nat) : (s.branch p k).cur.group.fences = s.cur.group.fences := rfl
@[simp] theorem branch_cur_group_poison (s : State) (p : W64) (k : Nat) : (s.branch p k).cur.group.poison = s.cur.group.poison := rfl
@[simp] theorem branch_cur_group_parity (s : State) (p : W64) (k : Nat) : (s.branch p k).cur.group.parity = s.cur.group.parity := rfl
@[simp] theorem branch_cur_group_flips (s : State) (p : W64) (k : Nat) : (s.branch p k).cur.group.flips = s.cur.group.flips := rfl
@[simp] theorem branch_cur_group_lastRel (s : State) (p : W64) (k : Nat) : (s.branch p k).cur.group.lastRel = s.cur.group.lastRel := rfl
@[simp] theorem branch_cur_group_stopped (s : State) (p : W64) (k : Nat) : (s.branch p k).cur.group.stopped = s.cur.group.stopped := rfl
@[simp] theorem branch_cur_group_marks (s : State) (p : W64) (k : Nat) : (s.branch p k).cur.group.marks = s.cur.group.marks := rfl
@[simp] theorem branch_cur_group_q6next (s : State) (p : W64) (k : Nat) : (s.branch p k).cur.group.q6next = s.cur.group.q6next := rfl
@[simp] theorem branch_cur_group_tested (s : State) (p : W64) (k : Nat) : (s.branch p k).cur.group.tested = s.cur.group.tested := rfl
@[simp] theorem branch_cur_group_ended (s : State) (p : W64) (k : Nat) : (s.branch p k).cur.group.ended = s.cur.group.ended := rfl
@[simp] theorem branch_cur_group_returned (s : State) (p : W64) (k : Nat) : (s.branch p k).cur.group.returned = s.cur.group.returned := rfl
@[simp] theorem branch_cur_group_quantum (s : State) (p : W64) (k : Nat) : (s.branch p k).cur.group.quantum = s.cur.group.quantum := rfl
@[simp] theorem branch_cur_group_standing (s : State) (p : W64) (k : Nat) : (s.branch p k).cur.group.standing = s.cur.group.standing := rfl
@[simp] theorem branch_cur_group_paused (s : State) (p : W64) (k : Nat) : (s.branch p k).cur.group.paused = s.cur.group.paused := rfl
@[simp] theorem branch_cur_group_effects (s : State) (p : W64) (k : Nat) : (s.branch p k).cur.group.effects = s.cur.group.effects := rfl
@[simp] theorem block_cur_group_gid (s : State) (b : Block) : (s.block b).cur.group.gid = s.cur.group.gid := rfl
@[simp] theorem block_cur_group_role (s : State) (b : Block) : (s.block b).cur.group.role = s.cur.group.role := rfl
@[simp] theorem block_cur_group_regs (s : State) (b : Block) : (s.block b).cur.group.regs = s.cur.group.regs := rfl
@[simp] theorem block_cur_group_allot (s : State) (b : Block) : (s.block b).cur.group.allot = s.cur.group.allot := rfl
@[simp] theorem block_cur_group_banks (s : State) (b : Block) : (s.block b).cur.group.banks = s.cur.group.banks := rfl
@[simp] theorem block_cur_group_wakes (s : State) (b : Block) : (s.block b).cur.group.wakes = s.cur.group.wakes := rfl
@[simp] theorem block_cur_group_hasExt (s : State) (b : Block) : (s.block b).cur.group.hasExt = s.cur.group.hasExt := rfl
@[simp] theorem block_cur_group_baseHeld (s : State) (b : Block) : (s.block b).cur.group.baseHeld = s.cur.group.baseHeld := rfl
@[simp] theorem block_cur_group_extHeld (s : State) (b : Block) : (s.block b).cur.group.extHeld = s.cur.group.extHeld := rfl
@[simp] theorem block_cur_group_level (s : State) (b : Block) : (s.block b).cur.group.level = s.cur.group.level := rfl
@[simp] theorem block_cur_group_kept (s : State) (b : Block) : (s.block b).cur.group.kept = s.cur.group.kept := rfl
@[simp] theorem block_cur_group_trapSplit (s : State) (b : Block) : (s.block b).cur.group.trapSplit = s.cur.group.trapSplit := rfl
@[simp] theorem block_cur_group_retired (s : State) (b : Block) : (s.block b).cur.group.retired = s.cur.group.retired := rfl
@[simp] theorem block_cur_group_trap (s : State) (b : Block) : (s.block b).cur.group.trap = s.cur.group.trap := rfl
@[simp] theorem block_cur_group_handlerCode (s : State) (b : Block) : (s.block b).cur.group.handlerCode = s.cur.group.handlerCode := rfl
@[simp] theorem block_cur_group_brkctl (s : State) (b : Block) : (s.block b).cur.group.brkctl = s.cur.group.brkctl := rfl
@[simp] theorem block_cur_group_iret (s : State) (b : Block) : (s.block b).cur.group.iret = s.cur.group.iret := rfl
@[simp] theorem block_cur_group_counts (s : State) (b : Block) : (s.block b).cur.group.counts = s.cur.group.counts := rfl
@[simp] theorem block_cur_group_board (s : State) (b : Block) : (s.block b).cur.group.board = s.cur.group.board := rfl
@[simp] theorem block_cur_group_notBefore (s : State) (b : Block) : (s.block b).cur.group.notBefore = s.cur.group.notBefore := rfl
@[simp] theorem block_cur_group_deferred (s : State) (b : Block) : (s.block b).cur.group.deferred = s.cur.group.deferred := rfl
@[simp] theorem block_cur_group_fences (s : State) (b : Block) : (s.block b).cur.group.fences = s.cur.group.fences := rfl
@[simp] theorem block_cur_group_poison (s : State) (b : Block) : (s.block b).cur.group.poison = s.cur.group.poison := rfl
@[simp] theorem block_cur_group_parity (s : State) (b : Block) : (s.block b).cur.group.parity = s.cur.group.parity := rfl
@[simp] theorem block_cur_group_flips (s : State) (b : Block) : (s.block b).cur.group.flips = s.cur.group.flips := rfl
@[simp] theorem block_cur_group_lastRel (s : State) (b : Block) : (s.block b).cur.group.lastRel = s.cur.group.lastRel := rfl
@[simp] theorem block_cur_group_stopped (s : State) (b : Block) : (s.block b).cur.group.stopped = s.cur.group.stopped := rfl
@[simp] theorem block_cur_group_marks (s : State) (b : Block) : (s.block b).cur.group.marks = s.cur.group.marks := rfl
@[simp] theorem block_cur_group_q6next (s : State) (b : Block) : (s.block b).cur.group.q6next = s.cur.group.q6next := rfl
@[simp] theorem block_cur_group_tested (s : State) (b : Block) : (s.block b).cur.group.tested = s.cur.group.tested := rfl
@[simp] theorem block_cur_group_ended (s : State) (b : Block) : (s.block b).cur.group.ended = s.cur.group.ended := rfl
@[simp] theorem block_cur_group_returned (s : State) (b : Block) : (s.block b).cur.group.returned = s.cur.group.returned := rfl
@[simp] theorem block_cur_group_quantum (s : State) (b : Block) : (s.block b).cur.group.quantum = s.cur.group.quantum := rfl
@[simp] theorem block_cur_group_standing (s : State) (b : Block) : (s.block b).cur.group.standing = s.cur.group.standing := rfl
@[simp] theorem block_cur_group_paused (s : State) (b : Block) : (s.block b).cur.group.paused = s.cur.group.paused := rfl
@[simp] theorem block_cur_group_effects (s : State) (b : Block) : (s.block b).cur.group.effects = s.cur.group.effects := rfl
@[simp] theorem stay_cur_group_gid (s : State) : (s.stay).cur.group.gid = s.cur.group.gid := rfl
@[simp] theorem stay_cur_group_role (s : State) : (s.stay).cur.group.role = s.cur.group.role := rfl
@[simp] theorem stay_cur_group_regs (s : State) : (s.stay).cur.group.regs = s.cur.group.regs := rfl
@[simp] theorem stay_cur_group_allot (s : State) : (s.stay).cur.group.allot = s.cur.group.allot := rfl
@[simp] theorem stay_cur_group_banks (s : State) : (s.stay).cur.group.banks = s.cur.group.banks := rfl
@[simp] theorem stay_cur_group_wakes (s : State) : (s.stay).cur.group.wakes = s.cur.group.wakes := rfl
@[simp] theorem stay_cur_group_hasExt (s : State) : (s.stay).cur.group.hasExt = s.cur.group.hasExt := rfl
@[simp] theorem stay_cur_group_baseHeld (s : State) : (s.stay).cur.group.baseHeld = s.cur.group.baseHeld := rfl
@[simp] theorem stay_cur_group_extHeld (s : State) : (s.stay).cur.group.extHeld = s.cur.group.extHeld := rfl
@[simp] theorem stay_cur_group_level (s : State) : (s.stay).cur.group.level = s.cur.group.level := rfl
@[simp] theorem stay_cur_group_kept (s : State) : (s.stay).cur.group.kept = s.cur.group.kept := rfl
@[simp] theorem stay_cur_group_trapSplit (s : State) : (s.stay).cur.group.trapSplit = s.cur.group.trapSplit := rfl
@[simp] theorem stay_cur_group_retired (s : State) : (s.stay).cur.group.retired = s.cur.group.retired := rfl
@[simp] theorem stay_cur_group_trap (s : State) : (s.stay).cur.group.trap = s.cur.group.trap := rfl
@[simp] theorem stay_cur_group_handlerCode (s : State) : (s.stay).cur.group.handlerCode = s.cur.group.handlerCode := rfl
@[simp] theorem stay_cur_group_brkctl (s : State) : (s.stay).cur.group.brkctl = s.cur.group.brkctl := rfl
@[simp] theorem stay_cur_group_iret (s : State) : (s.stay).cur.group.iret = s.cur.group.iret := rfl
@[simp] theorem stay_cur_group_counts (s : State) : (s.stay).cur.group.counts = s.cur.group.counts := rfl
@[simp] theorem stay_cur_group_board (s : State) : (s.stay).cur.group.board = s.cur.group.board := rfl
@[simp] theorem stay_cur_group_notBefore (s : State) : (s.stay).cur.group.notBefore = s.cur.group.notBefore := rfl
@[simp] theorem stay_cur_group_deferred (s : State) : (s.stay).cur.group.deferred = s.cur.group.deferred := rfl
@[simp] theorem stay_cur_group_fences (s : State) : (s.stay).cur.group.fences = s.cur.group.fences := rfl
@[simp] theorem stay_cur_group_poison (s : State) : (s.stay).cur.group.poison = s.cur.group.poison := rfl
@[simp] theorem stay_cur_group_parity (s : State) : (s.stay).cur.group.parity = s.cur.group.parity := rfl
@[simp] theorem stay_cur_group_flips (s : State) : (s.stay).cur.group.flips = s.cur.group.flips := rfl
@[simp] theorem stay_cur_group_lastRel (s : State) : (s.stay).cur.group.lastRel = s.cur.group.lastRel := rfl
@[simp] theorem stay_cur_group_stopped (s : State) : (s.stay).cur.group.stopped = s.cur.group.stopped := rfl
@[simp] theorem stay_cur_group_marks (s : State) : (s.stay).cur.group.marks = s.cur.group.marks := rfl
@[simp] theorem stay_cur_group_q6next (s : State) : (s.stay).cur.group.q6next = s.cur.group.q6next := rfl
@[simp] theorem stay_cur_group_tested (s : State) : (s.stay).cur.group.tested = s.cur.group.tested := rfl
@[simp] theorem stay_cur_group_ended (s : State) : (s.stay).cur.group.ended = s.cur.group.ended := rfl
@[simp] theorem stay_cur_group_returned (s : State) : (s.stay).cur.group.returned = s.cur.group.returned := rfl
@[simp] theorem stay_cur_group_quantum (s : State) : (s.stay).cur.group.quantum = s.cur.group.quantum := rfl
@[simp] theorem stay_cur_group_standing (s : State) : (s.stay).cur.group.standing = s.cur.group.standing := rfl
@[simp] theorem stay_cur_group_paused (s : State) : (s.stay).cur.group.paused = s.cur.group.paused := rfl
@[simp] theorem stay_cur_group_effects (s : State) : (s.stay).cur.group.effects = s.cur.group.effects := rfl
@[simp] theorem onTeam_g (s : State) (f : Team → Team) : (s.onTeam f).g = s.g := rfl
@[simp] theorem onTeam_agenda (s : State) (f : Team → Team) : (s.onTeam f).agenda = s.agenda := rfl
@[simp] theorem onTeam_ev (s : State) (f : Team → Team) : (s.onTeam f).ev = s.ev := rfl
@[simp] theorem onTeam_issued (s : State) (f : Team → Team) : (s.onTeam f).issued = s.issued := rfl
@[simp] theorem onTeam_freed (s : State) (f : Team → Team) : (s.onTeam f).freed = s.freed := rfl
@[simp] theorem onTeam_freedArms (s : State) (f : Team → Team) : (s.onTeam f).freedArms = s.freedArms := rfl
@[simp] theorem onTeam_mem (s : State) (f : Team → Team) : (s.onTeam f).mem = s.mem := rfl
@[simp] theorem onTeam_hostMem (s : State) (f : Team → Team) : (s.onTeam f).hostMem = s.hostMem := rfl
@[simp] theorem onTeam_peerMem (s : State) (f : Team → Team) : (s.onTeam f).peerMem = s.peerMem := rfl
@[simp] theorem onTeam_teams (s : State) (f : Team → Team) : (s.onTeam f).teams = s.teams := rfl
@[simp] theorem onTeam_grids (s : State) (f : Team → Team) : (s.onTeam f).grids = s.grids := rfl
@[simp] theorem onTeam_ops (s : State) (f : Team → Team) : (s.onTeam f).ops = s.ops := rfl
@[simp] theorem onTeam_reqs (s : State) (f : Team → Team) : (s.onTeam f).reqs = s.reqs := rfl
@[simp] theorem onTeam_walks (s : State) (f : Team → Team) : (s.onTeam f).walks = s.walks := rfl
@[simp] theorem onTeam_faults (s : State) (f : Team → Team) : (s.onTeam f).faults = s.faults := rfl
@[simp] theorem onTeam_seats (s : State) (f : Team → Team) : (s.onTeam f).seats = s.seats := rfl
@[simp] theorem onTeam_slots (s : State) (f : Team → Team) : (s.onTeam f).slots = s.slots := rfl
@[simp] theorem onTeam_arms (s : State) (f : Team → Team) : (s.onTeam f).arms = s.arms := rfl
@[simp] theorem onTeam_pairs (s : State) (f : Team → Team) : (s.onTeam f).pairs = s.pairs := rfl
@[simp] theorem onTeam_passes (s : State) (f : Team → Team) : (s.onTeam f).passes = s.passes := rfl
@[simp] theorem onTeam_fencedMx (s : State) (f : Team → Team) : (s.onTeam f).fencedMx = s.fencedMx := rfl
@[simp] theorem onTeam_fencedLinks (s : State) (f : Team → Team) : (s.onTeam f).fencedLinks = s.fencedLinks := rfl
@[simp] theorem onTeam_lastRow (s : State) (f : Team → Team) : (s.onTeam f).lastRow = s.lastRow := rfl
@[simp] theorem onTeam_ports (s : State) (f : Team → Team) : (s.onTeam f).ports = s.ports := rfl
@[simp] theorem onTeam_corrected (s : State) (f : Team → Team) : (s.onTeam f).corrected = s.corrected := rfl
@[simp] theorem onTeam_badFrames (s : State) (f : Team → Team) : (s.onTeam f).badFrames = s.badFrames := rfl
@[simp] theorem onTeam_queues (s : State) (f : Team → Team) : (s.onTeam f).queues = s.queues := rfl
@[simp] theorem onTeam_completions (s : State) (f : Team → Team) : (s.onTeam f).completions = s.completions := rfl
@[simp] theorem onTeam_cqSeq (s : State) (f : Team → Team) : (s.onTeam f).cqSeq = s.cqSeq := rfl
@[simp] theorem onTeam_doors (s : State) (f : Team → Team) : (s.onTeam f).doors = s.doors := rfl
@[simp] theorem onTeam_runModes (s : State) (f : Team → Team) : (s.onTeam f).runModes = s.runModes := rfl
@[simp] theorem onTeam_preempted (s : State) (f : Team → Team) : (s.onTeam f).preempted = s.preempted := rfl
@[simp] theorem onTeam_host (s : State) (f : Team → Team) : (s.onTeam f).host = s.host := rfl
@[simp] theorem onTeam_mail (s : State) (f : Team → Team) : (s.onTeam f).mail = s.mail := rfl
@[simp] theorem onTeam_mailWait (s : State) (f : Team → Team) : (s.onTeam f).mailWait = s.mailWait := rfl
@[simp] theorem onTeam_visits (s : State) (f : Team → Team) : (s.onTeam f).visits = s.visits := rfl
@[simp] theorem onTeam_windows (s : State) (f : Team → Team) : (s.onTeam f).windows = s.windows := rfl
@[simp] theorem onTeam_power (s : State) (f : Team → Team) : (s.onTeam f).power = s.power := rfl
@[simp] theorem onTeam_link (s : State) (f : Team → Team) : (s.onTeam f).link = s.link := rfl
@[simp] theorem onTeam_asBase (s : State) (f : Team → Team) : (s.onTeam f).asBase = s.asBase := rfl
@[simp] theorem onTeam_nextOp (s : State) (f : Team → Team) : (s.onTeam f).nextOp = s.nextOp := rfl
@[simp] theorem onTeam_nextId (s : State) (f : Team → Team) : (s.onTeam f).nextId = s.nextId := rfl
@[simp] theorem onTeam_draws (s : State) (f : Team → Team) : (s.onTeam f).draws = s.draws := rfl
@[simp] theorem onTeam_cur_live (s : State) (f : Team → Team) : (s.onTeam f).cur.live = s.cur.live := rfl
@[simp] theorem onTeam_cur_team (s : State) (f : Team → Team) : (s.onTeam f).cur.team = f s.cur.team := rfl
@[simp] theorem onTeam_cur_group (s : State) (f : Team → Team) : (s.onTeam f).cur.group = s.cur.group := rfl
@[simp] theorem onTeam_cur_split (s : State) (f : Team → Team) : (s.onTeam f).cur.split = s.cur.split := rfl
@[simp] theorem onTeam_cur_pkt (s : State) (f : Team → Team) : (s.onTeam f).cur.pkt = s.cur.pkt := rfl
@[simp] theorem onTeam_cur_slot (s : State) (f : Team → Team) : (s.onTeam f).cur.slot = s.cur.slot := rfl
@[simp] theorem onTeam_cur_unitSlot (s : State) (f : Team → Team) : (s.onTeam f).cur.unitSlot = s.cur.unitSlot := rfl
@[simp] theorem onTeam_cur_nextPkt (s : State) (f : Team → Team) : (s.onTeam f).cur.nextPkt = s.cur.nextPkt := rfl
@[simp] theorem onTeam_cur_nextSlot (s : State) (f : Team → Team) : (s.onTeam f).cur.nextSlot = s.cur.nextSlot := rfl
@[simp] theorem onTeam_cur_word (s : State) (f : Team → Team) : (s.onTeam f).cur.word = s.cur.word := rfl
@[simp] theorem onTeam_cur_lit (s : State) (f : Team → Team) : (s.onTeam f).cur.lit = s.cur.lit := rfl
@[simp] theorem onTeam_cur_age (s : State) (f : Team → Team) : (s.onTeam f).cur.age = s.cur.age := rfl
@[simp] theorem onTeam_cur_src (s : State) (f : Team → Team) : (s.onTeam f).cur.src = s.cur.src := rfl
@[simp] theorem onTeam_cur_trap (s : State) (f : Team → Team) : (s.onTeam f).cur.trap = s.cur.trap := rfl
@[simp] theorem at_g (s : State) (c : Nat) (e : Event) : (s.at c e).g = s.g := rfl
@[simp] theorem at_agenda (s : State) (c : Nat) (e : Event) : (s.at c e).agenda = s.agenda ++ [(c, e)] := rfl
@[simp] theorem at_ev (s : State) (c : Nat) (e : Event) : (s.at c e).ev = s.ev := rfl
@[simp] theorem at_issued (s : State) (c : Nat) (e : Event) : (s.at c e).issued = s.issued := rfl
@[simp] theorem at_freed (s : State) (c : Nat) (e : Event) : (s.at c e).freed = s.freed := rfl
@[simp] theorem at_freedArms (s : State) (c : Nat) (e : Event) : (s.at c e).freedArms = s.freedArms := rfl
@[simp] theorem at_cur (s : State) (c : Nat) (e : Event) : (s.at c e).cur = s.cur := rfl
@[simp] theorem at_mem (s : State) (c : Nat) (e : Event) : (s.at c e).mem = s.mem := rfl
@[simp] theorem at_hostMem (s : State) (c : Nat) (e : Event) : (s.at c e).hostMem = s.hostMem := rfl
@[simp] theorem at_peerMem (s : State) (c : Nat) (e : Event) : (s.at c e).peerMem = s.peerMem := rfl
@[simp] theorem at_teams (s : State) (c : Nat) (e : Event) : (s.at c e).teams = s.teams := rfl
@[simp] theorem at_grids (s : State) (c : Nat) (e : Event) : (s.at c e).grids = s.grids := rfl
@[simp] theorem at_ops (s : State) (c : Nat) (e : Event) : (s.at c e).ops = s.ops := rfl
@[simp] theorem at_reqs (s : State) (c : Nat) (e : Event) : (s.at c e).reqs = s.reqs := rfl
@[simp] theorem at_walks (s : State) (c : Nat) (e : Event) : (s.at c e).walks = s.walks := rfl
@[simp] theorem at_faults (s : State) (c : Nat) (e : Event) : (s.at c e).faults = s.faults := rfl
@[simp] theorem at_seats (s : State) (c : Nat) (e : Event) : (s.at c e).seats = s.seats := rfl
@[simp] theorem at_slots (s : State) (c : Nat) (e : Event) : (s.at c e).slots = s.slots := rfl
@[simp] theorem at_arms (s : State) (c : Nat) (e : Event) : (s.at c e).arms = s.arms := rfl
@[simp] theorem at_pairs (s : State) (c : Nat) (e : Event) : (s.at c e).pairs = s.pairs := rfl
@[simp] theorem at_passes (s : State) (c : Nat) (e : Event) : (s.at c e).passes = s.passes := rfl
@[simp] theorem at_fencedMx (s : State) (c : Nat) (e : Event) : (s.at c e).fencedMx = s.fencedMx := rfl
@[simp] theorem at_fencedLinks (s : State) (c : Nat) (e : Event) : (s.at c e).fencedLinks = s.fencedLinks := rfl
@[simp] theorem at_lastRow (s : State) (c : Nat) (e : Event) : (s.at c e).lastRow = s.lastRow := rfl
@[simp] theorem at_ports (s : State) (c : Nat) (e : Event) : (s.at c e).ports = s.ports := rfl
@[simp] theorem at_corrected (s : State) (c : Nat) (e : Event) : (s.at c e).corrected = s.corrected := rfl
@[simp] theorem at_badFrames (s : State) (c : Nat) (e : Event) : (s.at c e).badFrames = s.badFrames := rfl
@[simp] theorem at_queues (s : State) (c : Nat) (e : Event) : (s.at c e).queues = s.queues := rfl
@[simp] theorem at_completions (s : State) (c : Nat) (e : Event) : (s.at c e).completions = s.completions := rfl
@[simp] theorem at_cqSeq (s : State) (c : Nat) (e : Event) : (s.at c e).cqSeq = s.cqSeq := rfl
@[simp] theorem at_doors (s : State) (c : Nat) (e : Event) : (s.at c e).doors = s.doors := rfl
@[simp] theorem at_runModes (s : State) (c : Nat) (e : Event) : (s.at c e).runModes = s.runModes := rfl
@[simp] theorem at_preempted (s : State) (c : Nat) (e : Event) : (s.at c e).preempted = s.preempted := rfl
@[simp] theorem at_host (s : State) (c : Nat) (e : Event) : (s.at c e).host = s.host := rfl
@[simp] theorem at_mail (s : State) (c : Nat) (e : Event) : (s.at c e).mail = s.mail := rfl
@[simp] theorem at_mailWait (s : State) (c : Nat) (e : Event) : (s.at c e).mailWait = s.mailWait := rfl
@[simp] theorem at_visits (s : State) (c : Nat) (e : Event) : (s.at c e).visits = s.visits := rfl
@[simp] theorem at_windows (s : State) (c : Nat) (e : Event) : (s.at c e).windows = s.windows := rfl
@[simp] theorem at_power (s : State) (c : Nat) (e : Event) : (s.at c e).power = s.power := rfl
@[simp] theorem at_link (s : State) (c : Nat) (e : Event) : (s.at c e).link = s.link := rfl
@[simp] theorem at_asBase (s : State) (c : Nat) (e : Event) : (s.at c e).asBase = s.asBase := rfl
@[simp] theorem at_nextOp (s : State) (c : Nat) (e : Event) : (s.at c e).nextOp = s.nextOp := rfl
@[simp] theorem at_nextId (s : State) (c : Nat) (e : Event) : (s.at c e).nextId = s.nextId := rfl
@[simp] theorem at_draws (s : State) (c : Nat) (e : Event) : (s.at c e).draws = s.draws := rfl
@[simp] theorem take_g (s : State) (e : Nat × Event) : (s.take e).g = s.g := rfl
@[simp] theorem take_agenda (s : State) (e : Nat × Event) : (s.take e).agenda = s.agenda.erase e := rfl
@[simp] theorem take_ev (s : State) (e : Nat × Event) : (s.take e).ev = some e.2 := rfl
@[simp] theorem take_issued (s : State) (e : Nat × Event) : (s.take e).issued = s.issued := rfl
@[simp] theorem take_freed (s : State) (e : Nat × Event) : (s.take e).freed = s.freed := rfl
@[simp] theorem take_freedArms (s : State) (e : Nat × Event) : (s.take e).freedArms = s.freedArms := rfl
@[simp] theorem take_cur (s : State) (e : Nat × Event) : (s.take e).cur = s.cur := rfl
@[simp] theorem take_mem (s : State) (e : Nat × Event) : (s.take e).mem = s.mem := rfl
@[simp] theorem take_hostMem (s : State) (e : Nat × Event) : (s.take e).hostMem = s.hostMem := rfl
@[simp] theorem take_peerMem (s : State) (e : Nat × Event) : (s.take e).peerMem = s.peerMem := rfl
@[simp] theorem take_teams (s : State) (e : Nat × Event) : (s.take e).teams = s.teams := rfl
@[simp] theorem take_grids (s : State) (e : Nat × Event) : (s.take e).grids = s.grids := rfl
@[simp] theorem take_ops (s : State) (e : Nat × Event) : (s.take e).ops = s.ops := rfl
@[simp] theorem take_reqs (s : State) (e : Nat × Event) : (s.take e).reqs = s.reqs := rfl
@[simp] theorem take_walks (s : State) (e : Nat × Event) : (s.take e).walks = s.walks := rfl
@[simp] theorem take_faults (s : State) (e : Nat × Event) : (s.take e).faults = s.faults := rfl
@[simp] theorem take_seats (s : State) (e : Nat × Event) : (s.take e).seats = s.seats := rfl
@[simp] theorem take_slots (s : State) (e : Nat × Event) : (s.take e).slots = s.slots := rfl
@[simp] theorem take_arms (s : State) (e : Nat × Event) : (s.take e).arms = s.arms := rfl
@[simp] theorem take_pairs (s : State) (e : Nat × Event) : (s.take e).pairs = s.pairs := rfl
@[simp] theorem take_passes (s : State) (e : Nat × Event) : (s.take e).passes = s.passes := rfl
@[simp] theorem take_fencedMx (s : State) (e : Nat × Event) : (s.take e).fencedMx = s.fencedMx := rfl
@[simp] theorem take_fencedLinks (s : State) (e : Nat × Event) : (s.take e).fencedLinks = s.fencedLinks := rfl
@[simp] theorem take_lastRow (s : State) (e : Nat × Event) : (s.take e).lastRow = s.lastRow := rfl
@[simp] theorem take_ports (s : State) (e : Nat × Event) : (s.take e).ports = s.ports := rfl
@[simp] theorem take_corrected (s : State) (e : Nat × Event) : (s.take e).corrected = s.corrected := rfl
@[simp] theorem take_badFrames (s : State) (e : Nat × Event) : (s.take e).badFrames = s.badFrames := rfl
@[simp] theorem take_queues (s : State) (e : Nat × Event) : (s.take e).queues = s.queues := rfl
@[simp] theorem take_completions (s : State) (e : Nat × Event) : (s.take e).completions = s.completions := rfl
@[simp] theorem take_cqSeq (s : State) (e : Nat × Event) : (s.take e).cqSeq = s.cqSeq := rfl
@[simp] theorem take_doors (s : State) (e : Nat × Event) : (s.take e).doors = s.doors := rfl
@[simp] theorem take_runModes (s : State) (e : Nat × Event) : (s.take e).runModes = s.runModes := rfl
@[simp] theorem take_preempted (s : State) (e : Nat × Event) : (s.take e).preempted = s.preempted := rfl
@[simp] theorem take_host (s : State) (e : Nat × Event) : (s.take e).host = s.host := rfl
@[simp] theorem take_mail (s : State) (e : Nat × Event) : (s.take e).mail = s.mail := rfl
@[simp] theorem take_mailWait (s : State) (e : Nat × Event) : (s.take e).mailWait = s.mailWait := rfl
@[simp] theorem take_visits (s : State) (e : Nat × Event) : (s.take e).visits = s.visits := rfl
@[simp] theorem take_windows (s : State) (e : Nat × Event) : (s.take e).windows = s.windows := rfl
@[simp] theorem take_power (s : State) (e : Nat × Event) : (s.take e).power = s.power := rfl
@[simp] theorem take_link (s : State) (e : Nat × Event) : (s.take e).link = s.link := rfl
@[simp] theorem take_asBase (s : State) (e : Nat × Event) : (s.take e).asBase = s.asBase := rfl
@[simp] theorem take_nextOp (s : State) (e : Nat × Event) : (s.take e).nextOp = s.nextOp := rfl
@[simp] theorem take_nextId (s : State) (e : Nat × Event) : (s.take e).nextId = s.nextId := rfl
@[simp] theorem take_draws (s : State) (e : Nat × Event) : (s.take e).draws = s.draws := rfl
@[simp] theorem clear_g (s : State) : (s.clear).g = s.g := rfl
@[simp] theorem clear_agenda (s : State) : (s.clear).agenda = s.agenda := rfl
@[simp] theorem clear_ev (s : State) : (s.clear).ev = none := rfl
@[simp] theorem clear_issued (s : State) : (s.clear).issued = s.issued := rfl
@[simp] theorem clear_freed (s : State) : (s.clear).freed = s.freed := rfl
@[simp] theorem clear_freedArms (s : State) : (s.clear).freedArms = s.freedArms := rfl
@[simp] theorem clear_cur (s : State) : (s.clear).cur = s.cur := rfl
@[simp] theorem clear_mem (s : State) : (s.clear).mem = s.mem := rfl
@[simp] theorem clear_hostMem (s : State) : (s.clear).hostMem = s.hostMem := rfl
@[simp] theorem clear_peerMem (s : State) : (s.clear).peerMem = s.peerMem := rfl
@[simp] theorem clear_teams (s : State) : (s.clear).teams = s.teams := rfl
@[simp] theorem clear_grids (s : State) : (s.clear).grids = s.grids := rfl
@[simp] theorem clear_ops (s : State) : (s.clear).ops = s.ops := rfl
@[simp] theorem clear_reqs (s : State) : (s.clear).reqs = s.reqs := rfl
@[simp] theorem clear_walks (s : State) : (s.clear).walks = s.walks := rfl
@[simp] theorem clear_faults (s : State) : (s.clear).faults = s.faults := rfl
@[simp] theorem clear_seats (s : State) : (s.clear).seats = s.seats := rfl
@[simp] theorem clear_slots (s : State) : (s.clear).slots = s.slots := rfl
@[simp] theorem clear_arms (s : State) : (s.clear).arms = s.arms := rfl
@[simp] theorem clear_pairs (s : State) : (s.clear).pairs = s.pairs := rfl
@[simp] theorem clear_passes (s : State) : (s.clear).passes = s.passes := rfl
@[simp] theorem clear_fencedMx (s : State) : (s.clear).fencedMx = s.fencedMx := rfl
@[simp] theorem clear_fencedLinks (s : State) : (s.clear).fencedLinks = s.fencedLinks := rfl
@[simp] theorem clear_lastRow (s : State) : (s.clear).lastRow = s.lastRow := rfl
@[simp] theorem clear_ports (s : State) : (s.clear).ports = s.ports := rfl
@[simp] theorem clear_corrected (s : State) : (s.clear).corrected = s.corrected := rfl
@[simp] theorem clear_badFrames (s : State) : (s.clear).badFrames = s.badFrames := rfl
@[simp] theorem clear_queues (s : State) : (s.clear).queues = s.queues := rfl
@[simp] theorem clear_completions (s : State) : (s.clear).completions = s.completions := rfl
@[simp] theorem clear_cqSeq (s : State) : (s.clear).cqSeq = s.cqSeq := rfl
@[simp] theorem clear_doors (s : State) : (s.clear).doors = s.doors := rfl
@[simp] theorem clear_runModes (s : State) : (s.clear).runModes = s.runModes := rfl
@[simp] theorem clear_preempted (s : State) : (s.clear).preempted = s.preempted := rfl
@[simp] theorem clear_host (s : State) : (s.clear).host = s.host := rfl
@[simp] theorem clear_mail (s : State) : (s.clear).mail = s.mail := rfl
@[simp] theorem clear_mailWait (s : State) : (s.clear).mailWait = s.mailWait := rfl
@[simp] theorem clear_visits (s : State) : (s.clear).visits = s.visits := rfl
@[simp] theorem clear_windows (s : State) : (s.clear).windows = s.windows := rfl
@[simp] theorem clear_power (s : State) : (s.clear).power = s.power := rfl
@[simp] theorem clear_link (s : State) : (s.clear).link = s.link := rfl
@[simp] theorem clear_asBase (s : State) : (s.clear).asBase = s.asBase := rfl
@[simp] theorem clear_nextOp (s : State) : (s.clear).nextOp = s.nextOp := rfl
@[simp] theorem clear_nextId (s : State) : (s.clear).nextId = s.nextId := rfl
@[simp] theorem clear_draws (s : State) : (s.clear).draws = s.draws := rfl
@[simp] theorem tick_g (s : State) : (s.tick).g = s.g + 1 := rfl
@[simp] theorem tick_agenda (s : State) : (s.tick).agenda = (if (s.g + 1) % Config.frame = 0 then (s.g + 1, .frameBoundary) :: s.agenda else s.agenda) := rfl
@[simp] theorem tick_ev (s : State) : (s.tick).ev = none := rfl
@[simp] theorem tick_issued (s : State) : (s.tick).issued = [] := rfl
@[simp] theorem tick_freed (s : State) : (s.tick).freed = [] := rfl
@[simp] theorem tick_freedArms (s : State) : (s.tick).freedArms = [] := rfl
@[simp] theorem tick_cur (s : State) : (s.tick).cur = s.cur := rfl
@[simp] theorem tick_mem (s : State) : (s.tick).mem = s.mem := rfl
@[simp] theorem tick_hostMem (s : State) : (s.tick).hostMem = s.hostMem := rfl
@[simp] theorem tick_peerMem (s : State) : (s.tick).peerMem = s.peerMem := rfl
@[simp] theorem tick_teams (s : State) : (s.tick).teams = s.teams := rfl
@[simp] theorem tick_grids (s : State) : (s.tick).grids = s.grids := rfl
@[simp] theorem tick_ops (s : State) : (s.tick).ops = s.ops := rfl
@[simp] theorem tick_reqs (s : State) : (s.tick).reqs = s.reqs := rfl
@[simp] theorem tick_walks (s : State) : (s.tick).walks = s.walks := rfl
@[simp] theorem tick_faults (s : State) : (s.tick).faults = s.faults := rfl
@[simp] theorem tick_seats (s : State) : (s.tick).seats = s.seats := rfl
@[simp] theorem tick_slots (s : State) : (s.tick).slots = s.slots := rfl
@[simp] theorem tick_arms (s : State) : (s.tick).arms = s.arms := rfl
@[simp] theorem tick_pairs (s : State) : (s.tick).pairs = s.pairs := rfl
@[simp] theorem tick_passes (s : State) : (s.tick).passes = s.passes := rfl
@[simp] theorem tick_fencedMx (s : State) : (s.tick).fencedMx = s.fencedMx := rfl
@[simp] theorem tick_fencedLinks (s : State) : (s.tick).fencedLinks = s.fencedLinks := rfl
@[simp] theorem tick_lastRow (s : State) : (s.tick).lastRow = s.lastRow := rfl
@[simp] theorem tick_ports (s : State) : (s.tick).ports = s.ports.filter fun p => decide (s.g + 1 ≤ p.2.2) := rfl
@[simp] theorem tick_corrected (s : State) : (s.tick).corrected = s.corrected := rfl
@[simp] theorem tick_badFrames (s : State) : (s.tick).badFrames = s.badFrames := rfl
@[simp] theorem tick_queues (s : State) : (s.tick).queues = s.queues := rfl
@[simp] theorem tick_completions (s : State) : (s.tick).completions = s.completions := rfl
@[simp] theorem tick_cqSeq (s : State) : (s.tick).cqSeq = s.cqSeq := rfl
@[simp] theorem tick_doors (s : State) : (s.tick).doors = s.doors := rfl
@[simp] theorem tick_runModes (s : State) : (s.tick).runModes = s.runModes := rfl
@[simp] theorem tick_preempted (s : State) : (s.tick).preempted = s.preempted := rfl
@[simp] theorem tick_host (s : State) : (s.tick).host = s.host := rfl
@[simp] theorem tick_mail (s : State) : (s.tick).mail = s.mail := rfl
@[simp] theorem tick_mailWait (s : State) : (s.tick).mailWait = s.mailWait := rfl
@[simp] theorem tick_visits (s : State) : (s.tick).visits = s.visits := rfl
@[simp] theorem tick_windows (s : State) : (s.tick).windows = s.windows := rfl
@[simp] theorem tick_power (s : State) : (s.tick).power = s.power := rfl
@[simp] theorem tick_link (s : State) : (s.tick).link = s.link := rfl
@[simp] theorem tick_asBase (s : State) : (s.tick).asBase = s.asBase := rfl
@[simp] theorem tick_nextOp (s : State) : (s.tick).nextOp = s.nextOp := rfl
@[simp] theorem tick_nextId (s : State) : (s.tick).nextId = s.nextId := rfl
@[simp] theorem tick_draws (s : State) : (s.tick).draws = s.draws := rfl
@[simp] theorem mapTeam_g (s : State) (k : Nat) (f : Team → Team) : (s.mapTeam k f).g = s.g := rfl
@[simp] theorem mapTeam_agenda (s : State) (k : Nat) (f : Team → Team) : (s.mapTeam k f).agenda = s.agenda := rfl
@[simp] theorem mapTeam_ev (s : State) (k : Nat) (f : Team → Team) : (s.mapTeam k f).ev = s.ev := rfl
@[simp] theorem mapTeam_issued (s : State) (k : Nat) (f : Team → Team) : (s.mapTeam k f).issued = s.issued := rfl
@[simp] theorem mapTeam_freed (s : State) (k : Nat) (f : Team → Team) : (s.mapTeam k f).freed = s.freed := rfl
@[simp] theorem mapTeam_freedArms (s : State) (k : Nat) (f : Team → Team) : (s.mapTeam k f).freedArms = s.freedArms := rfl
@[simp] theorem mapTeam_cur (s : State) (k : Nat) (f : Team → Team) : (s.mapTeam k f).cur = s.cur := rfl
@[simp] theorem mapTeam_mem (s : State) (k : Nat) (f : Team → Team) : (s.mapTeam k f).mem = s.mem := rfl
@[simp] theorem mapTeam_hostMem (s : State) (k : Nat) (f : Team → Team) : (s.mapTeam k f).hostMem = s.hostMem := rfl
@[simp] theorem mapTeam_peerMem (s : State) (k : Nat) (f : Team → Team) : (s.mapTeam k f).peerMem = s.peerMem := rfl
@[simp] theorem mapTeam_teams (s : State) (k : Nat) (f : Team → Team) : (s.mapTeam k f).teams = s.teams.map fun t => if t.id = k then f t else t := rfl
@[simp] theorem mapTeam_grids (s : State) (k : Nat) (f : Team → Team) : (s.mapTeam k f).grids = s.grids := rfl
@[simp] theorem mapTeam_ops (s : State) (k : Nat) (f : Team → Team) : (s.mapTeam k f).ops = s.ops := rfl
@[simp] theorem mapTeam_reqs (s : State) (k : Nat) (f : Team → Team) : (s.mapTeam k f).reqs = s.reqs := rfl
@[simp] theorem mapTeam_walks (s : State) (k : Nat) (f : Team → Team) : (s.mapTeam k f).walks = s.walks := rfl
@[simp] theorem mapTeam_faults (s : State) (k : Nat) (f : Team → Team) : (s.mapTeam k f).faults = s.faults := rfl
@[simp] theorem mapTeam_seats (s : State) (k : Nat) (f : Team → Team) : (s.mapTeam k f).seats = s.seats := rfl
@[simp] theorem mapTeam_slots (s : State) (k : Nat) (f : Team → Team) : (s.mapTeam k f).slots = s.slots := rfl
@[simp] theorem mapTeam_arms (s : State) (k : Nat) (f : Team → Team) : (s.mapTeam k f).arms = s.arms := rfl
@[simp] theorem mapTeam_pairs (s : State) (k : Nat) (f : Team → Team) : (s.mapTeam k f).pairs = s.pairs := rfl
@[simp] theorem mapTeam_passes (s : State) (k : Nat) (f : Team → Team) : (s.mapTeam k f).passes = s.passes := rfl
@[simp] theorem mapTeam_fencedMx (s : State) (k : Nat) (f : Team → Team) : (s.mapTeam k f).fencedMx = s.fencedMx := rfl
@[simp] theorem mapTeam_fencedLinks (s : State) (k : Nat) (f : Team → Team) : (s.mapTeam k f).fencedLinks = s.fencedLinks := rfl
@[simp] theorem mapTeam_lastRow (s : State) (k : Nat) (f : Team → Team) : (s.mapTeam k f).lastRow = s.lastRow := rfl
@[simp] theorem mapTeam_ports (s : State) (k : Nat) (f : Team → Team) : (s.mapTeam k f).ports = s.ports := rfl
@[simp] theorem mapTeam_corrected (s : State) (k : Nat) (f : Team → Team) : (s.mapTeam k f).corrected = s.corrected := rfl
@[simp] theorem mapTeam_badFrames (s : State) (k : Nat) (f : Team → Team) : (s.mapTeam k f).badFrames = s.badFrames := rfl
@[simp] theorem mapTeam_queues (s : State) (k : Nat) (f : Team → Team) : (s.mapTeam k f).queues = s.queues := rfl
@[simp] theorem mapTeam_completions (s : State) (k : Nat) (f : Team → Team) : (s.mapTeam k f).completions = s.completions := rfl
@[simp] theorem mapTeam_cqSeq (s : State) (k : Nat) (f : Team → Team) : (s.mapTeam k f).cqSeq = s.cqSeq := rfl
@[simp] theorem mapTeam_doors (s : State) (k : Nat) (f : Team → Team) : (s.mapTeam k f).doors = s.doors := rfl
@[simp] theorem mapTeam_runModes (s : State) (k : Nat) (f : Team → Team) : (s.mapTeam k f).runModes = s.runModes := rfl
@[simp] theorem mapTeam_preempted (s : State) (k : Nat) (f : Team → Team) : (s.mapTeam k f).preempted = s.preempted := rfl
@[simp] theorem mapTeam_host (s : State) (k : Nat) (f : Team → Team) : (s.mapTeam k f).host = s.host := rfl
@[simp] theorem mapTeam_mail (s : State) (k : Nat) (f : Team → Team) : (s.mapTeam k f).mail = s.mail := rfl
@[simp] theorem mapTeam_mailWait (s : State) (k : Nat) (f : Team → Team) : (s.mapTeam k f).mailWait = s.mailWait := rfl
@[simp] theorem mapTeam_visits (s : State) (k : Nat) (f : Team → Team) : (s.mapTeam k f).visits = s.visits := rfl
@[simp] theorem mapTeam_windows (s : State) (k : Nat) (f : Team → Team) : (s.mapTeam k f).windows = s.windows := rfl
@[simp] theorem mapTeam_power (s : State) (k : Nat) (f : Team → Team) : (s.mapTeam k f).power = s.power := rfl
@[simp] theorem mapTeam_link (s : State) (k : Nat) (f : Team → Team) : (s.mapTeam k f).link = s.link := rfl
@[simp] theorem mapTeam_asBase (s : State) (k : Nat) (f : Team → Team) : (s.mapTeam k f).asBase = s.asBase := rfl
@[simp] theorem mapTeam_nextOp (s : State) (k : Nat) (f : Team → Team) : (s.mapTeam k f).nextOp = s.nextOp := rfl
@[simp] theorem mapTeam_nextId (s : State) (k : Nat) (f : Team → Team) : (s.mapTeam k f).nextId = s.nextId := rfl
@[simp] theorem mapTeam_draws (s : State) (k : Nat) (f : Team → Team) : (s.mapTeam k f).draws = s.draws := rfl
@[simp] theorem mapSeat_g (s : State) (k : Nat) (f : Seat → Seat) : (s.mapSeat k f).g = s.g := rfl
@[simp] theorem mapSeat_agenda (s : State) (k : Nat) (f : Seat → Seat) : (s.mapSeat k f).agenda = s.agenda := rfl
@[simp] theorem mapSeat_ev (s : State) (k : Nat) (f : Seat → Seat) : (s.mapSeat k f).ev = s.ev := rfl
@[simp] theorem mapSeat_issued (s : State) (k : Nat) (f : Seat → Seat) : (s.mapSeat k f).issued = s.issued := rfl
@[simp] theorem mapSeat_freed (s : State) (k : Nat) (f : Seat → Seat) : (s.mapSeat k f).freed = s.freed := rfl
@[simp] theorem mapSeat_freedArms (s : State) (k : Nat) (f : Seat → Seat) : (s.mapSeat k f).freedArms = s.freedArms := rfl
@[simp] theorem mapSeat_cur (s : State) (k : Nat) (f : Seat → Seat) : (s.mapSeat k f).cur = s.cur := rfl
@[simp] theorem mapSeat_mem (s : State) (k : Nat) (f : Seat → Seat) : (s.mapSeat k f).mem = s.mem := rfl
@[simp] theorem mapSeat_hostMem (s : State) (k : Nat) (f : Seat → Seat) : (s.mapSeat k f).hostMem = s.hostMem := rfl
@[simp] theorem mapSeat_peerMem (s : State) (k : Nat) (f : Seat → Seat) : (s.mapSeat k f).peerMem = s.peerMem := rfl
@[simp] theorem mapSeat_teams (s : State) (k : Nat) (f : Seat → Seat) : (s.mapSeat k f).teams = s.teams := rfl
@[simp] theorem mapSeat_grids (s : State) (k : Nat) (f : Seat → Seat) : (s.mapSeat k f).grids = s.grids := rfl
@[simp] theorem mapSeat_ops (s : State) (k : Nat) (f : Seat → Seat) : (s.mapSeat k f).ops = s.ops := rfl
@[simp] theorem mapSeat_reqs (s : State) (k : Nat) (f : Seat → Seat) : (s.mapSeat k f).reqs = s.reqs := rfl
@[simp] theorem mapSeat_walks (s : State) (k : Nat) (f : Seat → Seat) : (s.mapSeat k f).walks = s.walks := rfl
@[simp] theorem mapSeat_faults (s : State) (k : Nat) (f : Seat → Seat) : (s.mapSeat k f).faults = s.faults := rfl
@[simp] theorem mapSeat_seats (s : State) (k : Nat) (f : Seat → Seat) : (s.mapSeat k f).seats = s.seats.map fun x => if x.num = k then f x else x := rfl
@[simp] theorem mapSeat_slots (s : State) (k : Nat) (f : Seat → Seat) : (s.mapSeat k f).slots = s.slots := rfl
@[simp] theorem mapSeat_arms (s : State) (k : Nat) (f : Seat → Seat) : (s.mapSeat k f).arms = s.arms := rfl
@[simp] theorem mapSeat_pairs (s : State) (k : Nat) (f : Seat → Seat) : (s.mapSeat k f).pairs = s.pairs := rfl
@[simp] theorem mapSeat_passes (s : State) (k : Nat) (f : Seat → Seat) : (s.mapSeat k f).passes = s.passes := rfl
@[simp] theorem mapSeat_fencedMx (s : State) (k : Nat) (f : Seat → Seat) : (s.mapSeat k f).fencedMx = s.fencedMx := rfl
@[simp] theorem mapSeat_fencedLinks (s : State) (k : Nat) (f : Seat → Seat) : (s.mapSeat k f).fencedLinks = s.fencedLinks := rfl
@[simp] theorem mapSeat_lastRow (s : State) (k : Nat) (f : Seat → Seat) : (s.mapSeat k f).lastRow = s.lastRow := rfl
@[simp] theorem mapSeat_ports (s : State) (k : Nat) (f : Seat → Seat) : (s.mapSeat k f).ports = s.ports := rfl
@[simp] theorem mapSeat_corrected (s : State) (k : Nat) (f : Seat → Seat) : (s.mapSeat k f).corrected = s.corrected := rfl
@[simp] theorem mapSeat_badFrames (s : State) (k : Nat) (f : Seat → Seat) : (s.mapSeat k f).badFrames = s.badFrames := rfl
@[simp] theorem mapSeat_queues (s : State) (k : Nat) (f : Seat → Seat) : (s.mapSeat k f).queues = s.queues := rfl
@[simp] theorem mapSeat_completions (s : State) (k : Nat) (f : Seat → Seat) : (s.mapSeat k f).completions = s.completions := rfl
@[simp] theorem mapSeat_cqSeq (s : State) (k : Nat) (f : Seat → Seat) : (s.mapSeat k f).cqSeq = s.cqSeq := rfl
@[simp] theorem mapSeat_doors (s : State) (k : Nat) (f : Seat → Seat) : (s.mapSeat k f).doors = s.doors := rfl
@[simp] theorem mapSeat_runModes (s : State) (k : Nat) (f : Seat → Seat) : (s.mapSeat k f).runModes = s.runModes := rfl
@[simp] theorem mapSeat_preempted (s : State) (k : Nat) (f : Seat → Seat) : (s.mapSeat k f).preempted = s.preempted := rfl
@[simp] theorem mapSeat_host (s : State) (k : Nat) (f : Seat → Seat) : (s.mapSeat k f).host = s.host := rfl
@[simp] theorem mapSeat_mail (s : State) (k : Nat) (f : Seat → Seat) : (s.mapSeat k f).mail = s.mail := rfl
@[simp] theorem mapSeat_mailWait (s : State) (k : Nat) (f : Seat → Seat) : (s.mapSeat k f).mailWait = s.mailWait := rfl
@[simp] theorem mapSeat_visits (s : State) (k : Nat) (f : Seat → Seat) : (s.mapSeat k f).visits = s.visits := rfl
@[simp] theorem mapSeat_windows (s : State) (k : Nat) (f : Seat → Seat) : (s.mapSeat k f).windows = s.windows := rfl
@[simp] theorem mapSeat_power (s : State) (k : Nat) (f : Seat → Seat) : (s.mapSeat k f).power = s.power := rfl
@[simp] theorem mapSeat_link (s : State) (k : Nat) (f : Seat → Seat) : (s.mapSeat k f).link = s.link := rfl
@[simp] theorem mapSeat_asBase (s : State) (k : Nat) (f : Seat → Seat) : (s.mapSeat k f).asBase = s.asBase := rfl
@[simp] theorem mapSeat_nextOp (s : State) (k : Nat) (f : Seat → Seat) : (s.mapSeat k f).nextOp = s.nextOp := rfl
@[simp] theorem mapSeat_nextId (s : State) (k : Nat) (f : Seat → Seat) : (s.mapSeat k f).nextId = s.nextId := rfl
@[simp] theorem mapSeat_draws (s : State) (k : Nat) (f : Seat → Seat) : (s.mapSeat k f).draws = s.draws := rfl
@[simp] theorem load_g (s : State) (u : UWord) : (s.load u).g = s.g := rfl
@[simp] theorem load_agenda (s : State) (u : UWord) : (s.load u).agenda = s.agenda := rfl
@[simp] theorem load_ev (s : State) (u : UWord) : (s.load u).ev = s.ev := rfl
@[simp] theorem load_issued (s : State) (u : UWord) : (s.load u).issued = s.issued := rfl
@[simp] theorem load_freed (s : State) (u : UWord) : (s.load u).freed = s.freed := rfl
@[simp] theorem load_freedArms (s : State) (u : UWord) : (s.load u).freedArms = s.freedArms := rfl
@[simp] theorem load_cur (s : State) (u : UWord) : (s.load u).cur = { s.cur with slot := u.slot, word := u.word } := rfl
@[simp] theorem load_mem (s : State) (u : UWord) : (s.load u).mem = s.mem := rfl
@[simp] theorem load_hostMem (s : State) (u : UWord) : (s.load u).hostMem = s.hostMem := rfl
@[simp] theorem load_peerMem (s : State) (u : UWord) : (s.load u).peerMem = s.peerMem := rfl
@[simp] theorem load_teams (s : State) (u : UWord) : (s.load u).teams = s.teams := rfl
@[simp] theorem load_grids (s : State) (u : UWord) : (s.load u).grids = s.grids := rfl
@[simp] theorem load_ops (s : State) (u : UWord) : (s.load u).ops = s.ops := rfl
@[simp] theorem load_reqs (s : State) (u : UWord) : (s.load u).reqs = s.reqs := rfl
@[simp] theorem load_walks (s : State) (u : UWord) : (s.load u).walks = s.walks := rfl
@[simp] theorem load_faults (s : State) (u : UWord) : (s.load u).faults = s.faults := rfl
@[simp] theorem load_seats (s : State) (u : UWord) : (s.load u).seats = s.seats := rfl
@[simp] theorem load_slots (s : State) (u : UWord) : (s.load u).slots = s.slots := rfl
@[simp] theorem load_arms (s : State) (u : UWord) : (s.load u).arms = s.arms := rfl
@[simp] theorem load_pairs (s : State) (u : UWord) : (s.load u).pairs = s.pairs := rfl
@[simp] theorem load_passes (s : State) (u : UWord) : (s.load u).passes = s.passes := rfl
@[simp] theorem load_fencedMx (s : State) (u : UWord) : (s.load u).fencedMx = s.fencedMx := rfl
@[simp] theorem load_fencedLinks (s : State) (u : UWord) : (s.load u).fencedLinks = s.fencedLinks := rfl
@[simp] theorem load_lastRow (s : State) (u : UWord) : (s.load u).lastRow = s.lastRow := rfl
@[simp] theorem load_ports (s : State) (u : UWord) : (s.load u).ports = s.ports := rfl
@[simp] theorem load_corrected (s : State) (u : UWord) : (s.load u).corrected = s.corrected := rfl
@[simp] theorem load_badFrames (s : State) (u : UWord) : (s.load u).badFrames = s.badFrames := rfl
@[simp] theorem load_queues (s : State) (u : UWord) : (s.load u).queues = s.queues := rfl
@[simp] theorem load_completions (s : State) (u : UWord) : (s.load u).completions = s.completions := rfl
@[simp] theorem load_cqSeq (s : State) (u : UWord) : (s.load u).cqSeq = s.cqSeq := rfl
@[simp] theorem load_doors (s : State) (u : UWord) : (s.load u).doors = s.doors := rfl
@[simp] theorem load_runModes (s : State) (u : UWord) : (s.load u).runModes = s.runModes := rfl
@[simp] theorem load_preempted (s : State) (u : UWord) : (s.load u).preempted = s.preempted := rfl
@[simp] theorem load_host (s : State) (u : UWord) : (s.load u).host = s.host := rfl
@[simp] theorem load_mail (s : State) (u : UWord) : (s.load u).mail = s.mail := rfl
@[simp] theorem load_mailWait (s : State) (u : UWord) : (s.load u).mailWait = s.mailWait := rfl
@[simp] theorem load_visits (s : State) (u : UWord) : (s.load u).visits = s.visits := rfl
@[simp] theorem load_windows (s : State) (u : UWord) : (s.load u).windows = s.windows := rfl
@[simp] theorem load_power (s : State) (u : UWord) : (s.load u).power = s.power := rfl
@[simp] theorem load_link (s : State) (u : UWord) : (s.load u).link = s.link := rfl
@[simp] theorem load_asBase (s : State) (u : UWord) : (s.load u).asBase = s.asBase := rfl
@[simp] theorem load_nextOp (s : State) (u : UWord) : (s.load u).nextOp = s.nextOp := rfl
@[simp] theorem load_nextId (s : State) (u : UWord) : (s.load u).nextId = s.nextId := rfl
@[simp] theorem load_draws (s : State) (u : UWord) : (s.load u).draws = s.draws := rfl

end Sys2Proof.Laws
end

