-- ==== Sys2Proof/Laws/Frames.lean ====
section
/-!
SUPPORT. What the shared operations of the meanings can do, once for each: the frame of a word, of a word without vector
registers, of a supervisor word and of an event; the wake of written banks; the register writes; trap entry.
-/

namespace Sys2Proof.Laws

open Sys2Proof Sys2Proof.Machine

/-! ### Traps among several -/

@[simp] theorem worstTrap_single (t : TrapReq) : worstTrap t [] = t := rfl
theorem firstTrap_cons (t : TrapReq) (ts : List TrapReq) : ∃ u, firstTrap (t :: ts) = some u := by
  simp only [firstTrap]
  split
  · exact ⟨t, rfl⟩
  · split <;> exact ⟨_, rfl⟩
theorem firstTrap_worst (t : TrapReq) (ts : List TrapReq) : firstTrap (t :: ts) = some (worstTrap t ts) := by
  obtain ⟨u, h⟩ := firstTrap_cons t ts
  simp [worstTrap, h]
@[simp] theorem check_nil : check [] = .ok () := rfl
theorem check_cons (t : TrapReq) (ts : List TrapReq) : check (t :: ts) = .error (worstTrap t ts) := by
  simp [check, firstTrap_worst]
theorem check_ok {l : List TrapReq} {u : Unit} (h : check l = .ok u) : l = [] := by
  cases l with
  | nil => rfl
  | cons t ts => rw [check_cons] at h; cases h

/-! ### The frame of a word -/

section Word
variable {i : Instr} {s t : State} {body : State → Except TrapReq State}

/-- A ready word whose own checks pass acts in the state where the banks it writes have begun to wake. -/
theorem runWord_next (h : Ready i s) (hb : body (s.acting i) = .ok t) : runWord i s body = .next t := by
  simp only [State.acting] at hb
  simp [runWord, h.1, h.2, hb]
/-- A ready word whose own check fails takes that trap. -/
theorem runWord_error {e : TrapReq} (h : Ready i s) (hb : body (s.acting i) = .error e) : runWord i s body = .next (s.trapWord e) := by
  simp only [State.acting] at hb
  simp [runWord, h.1, h.2, hb]
/-- With a split in focus a word always answers a next state. -/
theorem runWord_goes (h : s.cur.live = true) : Goes (runWord i s body) := by
  simp only [runWord, h, if_true]
  split <;> exact ⟨_, rfl⟩
/-- All that a word can do: act, or take one trap and do nothing else. -/
theorem runWord_cases (h : runWord i s body = .next t) :
    s.cur.live = true ∧ ((regTraps i s = [] ∧ body (s.acting i) = .ok t) ∨ ∃ e, t = s.trapWord e) := by
  unfold runWord at h
  split at h
  · next hl =>
    refine ⟨hl, ?_⟩
    split at h
    · next h1 h2 => cases h; exact .inl ⟨h1, h2⟩
    · cases h; exact .inr ⟨_, rfl⟩
    · cases h; exact .inr ⟨_, rfl⟩
  · cases h
/-- No split in focus: the word does not run. -/
theorem runWord_dead (h : s.cur.live = false) : runWord i s body = .fault .noIssuingSplit := by simp [runWord, h]

theorem regTraps_bare (hr : (uses i).rv = []) (hw : (uses i).wv = []) : regTraps i s = [] := by
  simp [regTraps, hr, hw, markTrap]
theorem acting_bare (hw : (uses i).wv = []) : s.acting i = s := by simp [State.acting, hw, State.wakeFor]
theorem ready_bare (h : s.cur.live = true) (hr : (uses i).rv = []) (hw : (uses i).wv = []) : Ready i s := ⟨h, regTraps_bare hr hw⟩
/-- A word that names no vector register: its own checks alone decide. -/
theorem runWord_bare (h : s.cur.live = true) (hr : (uses i).rv = []) (hw : (uses i).wv = []) :
    runWord i s body = .next (match body s with | .ok t => t | .error e => s.trapWord e) := by
  have ha : s.wakeFor (uses i).wv = s := acting_bare hw
  simp only [runWord, h, if_true, regTraps_bare hr hw, ha]
  cases body s <;> rfl

variable {f : State → State}
theorem runPure_next (h : Ready i s) : runPure i s f = .next (f (s.acting i)) := runWord_next h rfl
theorem runPure_bare (h : s.cur.live = true) (hr : (uses i).rv = []) (hw : (uses i).wv = []) : runPure i s f = .next (f s) := by
  rw [runPure, runWord_bare h hr hw]
theorem runPure_cases (h : runPure i s f = .next t) :
    s.cur.live = true ∧ ((regTraps i s = [] ∧ t = f (s.acting i)) ∨ ∃ e, t = s.trapWord e) := by
  obtain ⟨hl, ⟨h1, h2⟩ | h2⟩ := runWord_cases h
  · exact ⟨hl, .inl ⟨h1, by cases h2; rfl⟩⟩
  · exact ⟨hl, .inr h2⟩

/-- A supervisor word at user level: IllegalInstruction with cause 12 (R342). -/
theorem runSup_user (h : s.cur.live = true) (hr : (uses i).rv = []) (hw : (uses i).wv = []) (hu : s.srcG.level = .user) :
    runSup i s body = .next (s.trapWord (illegal 12)) := by
  rw [runSup, runWord_bare h hr hw]; simp [hu]
theorem runSup_supervisor (h : s.cur.live = true) (hr : (uses i).rv = []) (hw : (uses i).wv = []) (hu : s.srcG.level = .supervisor) :
    runSup i s body = .next (match body s with | .ok t => t | .error e => s.trapWord e) := by
  rw [runSup, runWord_bare h hr hw]; simp [hu]
end Word

/-! ### The frame of an event -/

theorem runEvent_next {s t : State} {e : Event} {f : Event → Option State} (h : s.ev = some e) (hf : f e = some t) :
    runEvent s f = .next t := by simp [runEvent, h, hf]
theorem runEvent_cases {s t : State} {f : Event → Option State} (h : runEvent s f = .next t) : ∃ e, s.ev = some e ∧ f e = some t := by
  unfold runEvent at h
  split at h
  · cases h
  · next e he =>
    split at h
    · next hf => cases h; exact ⟨e, he, hf⟩
    · cases h

@[simp] theorem onNext_next (s : State) (f : State → State) : onNext (.next s) f = .next (f s) := rfl
theorem onNext_cases {o : Host.Outcome State Fault Refusal} {f : State → State} {t : State} (h : onNext o f = .next t) :
    ∃ s, o = .next s ∧ t = f s := by
  cases o <;> simp only [onNext, reduceCtorEq] at h
  cases h; exact ⟨_, rfl, rfl⟩

/-! ### Register writes -/

section Regs
variable (s : State) (n : Nat)
@[simp] theorem wS_zero (v : W64) : s.wS 0 v = s := rfl
@[simp] theorem wVs_s (l : List Nat) (f : Nat → W32) : (s.wVs n l f).cur.group.regs.s = s.cur.group.regs.s := setVs_s _ _ _ _
@[simp] theorem wVs_c (l : List Nat) (f : Nat → W32) : (s.wVs n l f).cur.group.regs.c = s.cur.group.regs.c := setVs_c _ _ _ _
@[simp] theorem wVs_nest (l : List Nat) (f : Nat → W32) : (s.wVs n l f).cur.group.regs.nest = s.cur.group.regs.nest := setVs_nest _ _ _ _
end Regs

/-! ### The wake of written banks (R68) -/

/-- What a wake leaves: only the group's wakes, the vector registers of an Off bank with their marks, and the agenda change. -/
structure WakeFrame (s t : State) : Prop where
  regs_s : t.cur.group.regs.s = s.cur.group.regs.s
  regs_c : t.cur.group.regs.c = s.cur.group.regs.c
  regs_nest : t.cur.group.regs.nest = s.cur.group.regs.nest
  banks : t.cur.group.banks = s.cur.group.banks
  splits : t.cur.group.splits = s.cur.group.splits
  trap : t.cur.group.trap = s.cur.group.trap
  counts : t.cur.group.counts = s.cur.group.counts
  level : t.cur.group.level = s.cur.group.level
  brkctl : t.cur.group.brkctl = s.cur.group.brkctl
  iret : t.cur.group.iret = s.cur.group.iret
  cur : t.cur = { s.cur with group := t.cur.group }
  mem : t.mem = s.mem
  hostMem : t.hostMem = s.hostMem
  peerMem : t.peerMem = s.peerMem
  teams : t.teams = s.teams
  seats : t.seats = s.seats
  ops : t.ops = s.ops
  g : t.g = s.g
  power : t.power = s.power

theorem WakeFrame.refl (s : State) : WakeFrame s s := by constructor <;> rfl
theorem WakeFrame.trans {s t u : State} (h : WakeFrame s t) (k : WakeFrame t u) : WakeFrame s u := by
  obtain ⟨a1, a2, a3, a4, a5, a6, a7, a8, a9, a10, a11, a12, a13, a14, a15, a16, a17, a18, a19⟩ := h
  obtain ⟨b1, b2, b3, b4, b5, b6, b7, b8, b9, b10, b11, b12, b13, b14, b15, b16, b17, b18, b19⟩ := k
  exact ⟨b1.trans a1, b2.trans a2, b3.trans a3, b4.trans a4, b5.trans a5, b6.trans a6, b7.trans a7, b8.trans a8, b9.trans a9,
    b10.trans a10, by rw [b11, a11], b12.trans a12, b13.trans a13, b14.trans a14, b15.trans a15, b16.trans a16, b17.trans a17,
    b18.trans a18, b19.trans a19⟩
theorem startWake_frame (s : State) (b c due : Nat) (e : Event) : WakeFrame s ((s.onGroup fun g => g.startWake b .full c).at due e) := by
  constructor <;> (simp only [State.at, State.onGroup, Group.startWake]; try (split <;> rfl))
theorem wakeBank_frame (s : State) (b : Nat) : WakeFrame s (s.wakeBank b) := by
  unfold State.wakeBank
  dsimp only
  split
  · constructor <;> rfl
  · split
    · exact startWake_frame s b _ _ _
    · exact startWake_frame s b _ _ _
    · exact .refl s
theorem wakeFor_frame (s : State) (l : List Nat) : WakeFrame s (s.wakeFor l) := by
  unfold State.wakeFor
  induction l generalizing s with
  | nil => exact .refl s
  | cons n l ih => exact (wakeBank_frame s _).trans (ih _)
theorem WakeFrame.lit {s t : State} (h : WakeFrame s t) : t.cur.lit = s.cur.lit := by rw [h.cur]
theorem WakeFrame.live {s t : State} (h : WakeFrame s t) : t.cur.live = s.cur.live := by rw [h.cur]
theorem WakeFrame.src {s t : State} (h : WakeFrame s t) : t.cur.src = s.cur.src := by rw [h.cur]
theorem WakeFrame.team {s t : State} (h : WakeFrame s t) : t.cur.team = s.cur.team := by rw [h.cur]
theorem WakeFrame.split {s t : State} (h : WakeFrame s t) : t.cur.split = s.cur.split := by rw [h.cur]
/-- The state a word acts in differs from the state it issued in by the wakes of its destinations alone. -/
theorem acting_frame (s : State) (i : Instr) : WakeFrame s (s.acting i) := wakeFor_frame s _

/-! ### Trap entry and return -/

@[simp] theorem enterTrap_level (g : Group) (t : TrapReq) (d : Bool) (p h : W64) (k n sp c : Nat) (m : Store) :
    (g.enterTrap t d p k n sp h m c).level = .supervisor := rfl
@[simp] theorem leaveTrap_level (g : Group) (n : Nat) : (g.leaveTrap n).level = .user := rfl
/-- With a handler installed, a trap at user level enters it. -/
theorem takeTrap_enter {s : State} {h : W64} (t : TrapReq) (defer : Bool) (hs : t.sup = false) (hu : s.cur.group.level = .user)
    (hh : s.cur.team.region.handler = some h) :
    s.takeTrap t defer = s.onGroup fun g => g.enterTrap t defer (if t.after then s.cur.nextPkt else s.cur.pkt)
      (if t.after then s.cur.nextSlot else s.cur.unitSlot) (s.logCount s.cur.team.id g.gid) s.cur.split h s.store s.g := by
  unfold State.takeTrap
  simp only [hs, hu, hh]
  simp only [Bool.false_eq_true, if_false]
  split <;> rfl

end Sys2Proof.Laws
end

