-- ==== Sys2Proof/Laws/Issue.lean ====
section
/-!
SUPPORT. What the choice of a step can be: the event that is due next, and the unit that a core picks.
-/

namespace Sys2Proof.Laws

open Sys2Proof Sys2Proof.Machine

/-- A word that decodes names its instruction. -/
theorem instrOf_ok {w : W32} {x : Word1} (h : decodeWord w.toNat = .ok x) : instrOf w = some x.instr := by simp [instrOf, h]

section Pick
variable {s : State} {c : Cand} {f : State} {us : List UWord}
/-- A unit is run only at the split's place in the packet fetched there, with the split in focus; the nops that end the packet take no
turn. -/
theorem consider_run (h : s.consider c = (f, .run us)) :
    ∃ ws, s.fetch c.team c.group c.split.fetched c.split.pkt = .ok ws
      ∧ us = (unitAt ws c.split.slot).filter (fun u => !(onlyNops ws u.slot))
      ∧ f = (s.focusOn c (wordAt ws 3) (((unitAt ws c.split.slot).getLast?).elim c.split.slot (·.slot))).keepCode c.split.pkt.toNat := by
  unfold State.consider at h
  generalize c.group.owed.isSome = owed at h
  cases hf : s.fetch c.team c.group c.split.fetched c.split.pkt with
  | refused => rw [hf] at h; cases owed <;> cases h
  | miss => rw [hf] at h; cases owed <;> cases h
  | away => rw [hf] at h; cases owed <;> cases h
  | ok ws =>
    rw [hf] at h
    refine ⟨ws, rfl, ?_⟩
    dsimp only at h
    generalize (s.focusOn c (wordAt ws 3) (((unitAt ws c.split.slot).getLast?).elim c.split.slot (·.slot))).keepCode c.split.pkt.toNat = q at h ⊢
    generalize unitIllegal q (unitAt ws c.split.slot) = bad at h
    generalize unitReadiness q (unitAt ws c.split.slot) = rd at h
    split at h
    · cases owed <;> cases h
    · cases bad with
      | cons b _ => obtain ⟨k, w, n⟩ := b; cases owed <;> cases h
      | nil =>
        cases owed with
        | true => simp only [if_true] at h; split at h <;> cases h
        | false =>
          cases rd with
          | wait => cases h
          | wake _ _ => cases h
          | go => cases h; exact ⟨rfl, rfl⟩
theorem firstAct_run {l : List Cand} (h : s.firstAct l = some (c, f, .run us)) : s.consider c = (f, .run us) := by
  induction l with
  | nil => simp [State.firstAct] at h
  | cons a l ih =>
    unfold State.firstAct at h
    split at h
    · exact ih h
    · next he => simp at h; obtain ⟨rfl, rfl, rfl⟩ := h; exact he
theorem seatAct_run {core seat : Nat} (h : s.seatAct core seat = some (c, f, .run us)) : s.consider c = (f, .run us) := by
  unfold State.seatAct at h
  split at h
  · simp at h
  · split at h
    · exact firstAct_run h
    · simp at h
theorem coreAct_run {core : Nat} (h : s.coreAct core = some (c, f, .run us)) : s.consider c = (f, .run us) := by
  unfold State.coreAct at h
  split at h
  · next x hx =>
    cases h
    cases hc : s.coreSeat core with
    | none => simp [hc] at hx
    | some n => simp [hc] at hx; exact seatAct_run hx
  · split at h
    · simp at h
    · exact seatAct_run h
/-- What a core picks to run is what the candidate's split would do. -/
theorem pick_run (h : s.pick = some (c, f, .run us)) : s.consider c = (f, .run us) := by
  unfold State.pick at h
  obtain ⟨a, -, ha⟩ := List.exists_of_findSome?_eq_some h
  exact coreAct_run ha
end Pick

/-- An entry is due: its cycle has come, and nothing it belongs to is stopped. -/
def Due (s : State) (e : Nat × Event) : Prop := e.1 ≤ s.g ∧ s.holdsEvent e.2 = false

/-- The event taken is due and no due entry has a lower rank; with none taken, none is due. -/
theorem firstDue_spec (s : State) (l : List (Nat × Event)) :
    (∀ e, firstDue s l = some e → e ∈ l ∧ Due s e ∧ ∀ d ∈ l, Due s d → s.rank e.2 ≤ s.rank d.2) ∧ (firstDue s l = none → ∀ d ∈ l, ¬Due s d) := by
  induction l with
  | nil => simp [firstDue]
  | cons a l ih =>
    obtain ⟨ih1, ih2⟩ := ih
    by_cases ha : a.1 ≤ s.g ∧ !(s.holdsEvent a.2)
    · have da : Due s a := ⟨ha.1, by simpa using ha.2⟩
      simp only [firstDue, ha, and_self, if_true]
      cases hf : firstDue s l with
      | none =>
        refine ⟨fun e he => ?_, fun he => by simp at he⟩
        cases he
        exact ⟨by simp, da, fun d hd dd => (List.mem_cons.mp hd).elim (fun h => by rw [h]) fun h => absurd dd (ih2 hf d h)⟩
      | some f =>
        obtain ⟨m, df, r⟩ := ih1 f hf
        refine ⟨fun e he => ?_, fun he => by dsimp only at he; split at he <;> simp at he⟩
        dsimp only at he
        split at he <;> cases he
        · next hr => exact ⟨by simp [m], df, fun d hd dd => (List.mem_cons.mp hd).elim (fun h => by rw [h]; omega) fun h => r d h dd⟩
        · next hr => exact ⟨by simp, da, fun d hd dd => (List.mem_cons.mp hd).elim (fun h => by rw [h]) fun h => by have := r d h dd; omega⟩
    · have da : ¬Due s a := fun h => ha ⟨h.1, by simp [h.2]⟩
      simp only [firstDue, ha, if_false]
      refine ⟨fun e he => ?_, fun he d hd => (List.mem_cons.mp hd).elim (fun h => h ▸ da) fun h => ih2 he d h⟩
      obtain ⟨m, df, r⟩ := ih1 e he
      exact ⟨by simp [m], df, fun d hd dd => (List.mem_cons.mp hd).elim (fun h => absurd (h ▸ dd) da) fun h => r d h dd⟩

end Sys2Proof.Laws
end

