-- ==== Sys2Proof/Laws/Lanes.lean ====
section
/-!
SUPPORT. Lanes and masks: membership in the list of active lanes, the bits of a mask built from a predicate, and what barrier
and alignment checks say of them.
-/

namespace Sys2Proof.Laws

open Sys2Proof Sys2Proof.Machine

theorem mem_allLanes {L : Nat} : L ∈ allLanes ↔ L < 32 := by simp [allLanes]
theorem mem_active {s : State} {L : Nat} : L ∈ s.active ↔ L < 32 ∧ s.isActive L = true := by simp [State.active, mem_allLanes]
theorem mem_lanesOf {m : LaneMask} {L : Nat} : L ∈ lanesOf m ↔ L < 32 ∧ m.getLsbD L = true := by simp [lanesOf, mem_allLanes]

/-- Bits set one lane at a time over a list without repeats. -/
theorem getLsbD_foldl_lanes (p : Nat → Bool) (i : Nat) (hi : i < 32) (l : List Nat) (m : LaneMask) (hl : ∀ L ∈ l, L < 32) (hn : l.Nodup) :
    (l.foldl (fun m L => if p L then m ||| (1#32 <<< L) else m) m).getLsbD i = (m.getLsbD i || (decide (i ∈ l) && p i)) := by
  induction l generalizing m with
  | nil => simp
  | cons a l ih =>
    obtain ⟨hn1, hn2⟩ := List.nodup_cons.mp hn
    rw [List.foldl_cons, ih _ (fun L h => hl L (by simp [h])) hn2]
    by_cases e : i = a
    · subst e
      by_cases hp : p i <;> simp [hp, hn1, hi]
    · by_cases hp : p a
      · have : (1#32 <<< a).getLsbD i = false := by
          by_cases h1 : i < a
          · simp [h1]
          · have h2 : i - a ≠ 0 := by omega
            simp [h1, h2]
        simp [hp, e, this]
      · simp [hp, e]
/-- Bit `i` of the mask of a predicate. -/
theorem maskOf_getLsbD (p : Nat → Bool) {i : Nat} (hi : i < 32) : (maskOf p).getLsbD i = p i := by
  unfold maskOf
  rw [getLsbD_foldl_lanes p i hi _ _ (fun L h => mem_allLanes.mp h) (by simp [allLanes, List.nodup_range])]
  simp [mem_allLanes, hi]
theorem activeMask_getLsbD (s : State) {i : Nat} (hi : i < 32) : s.activeMask.getLsbD i = s.isActive i := maskOf_getLsbD _ hi
theorem mask_ext {a b : LaneMask} (h : ∀ i, i < 32 → a.getLsbD i = b.getLsbD i) : a = b := BitVec.eq_of_getLsbD_eq fun i hi => h i hi

end Sys2Proof.Laws
end

