-- ==== Sys2Proof/Laws/LiveBase.lean ====
section
/-!
SUPPORT. Whether a split is in focus (LiveIs): what records, lists, folds and outcomes keep of it. One lemma for each function of the
model that answers a state follows in LiveOps, LiveEngines and LiveDevice.
-/

namespace Sys2Proof.Machine

open Sys2Proof

/-- A split is in focus (or none is). -/
def LiveIs (lv : Bool) (s : State) : Prop := s.cur.live = lv
theorem live_cur {lv : Bool} {s : State} (h : LiveIs lv s) : s.cur.live = lv := h
theorem live_mk {lv : Bool} {x0 : Nat} {x1 : List (Nat × Event)} {x2 : Option Event} {x3 : List Nat} {x4 : List Op} {x5
    : List (Nat × Nat)} {x6 : Focus} {x7 x8 x9 : Memory} {x10 : List Team} {x11 : List Grid} {x12 : List Op} {x13 : List
    Req} {x14 : List Walk} {x15 : List FaultRec} {x16 : List Seat} {x17 : List (Nat × RingSlot)} {x18 : List Arm} {x19 :
    List PlanePair} {x20 : List Pass} {x21 x22 : List Nat} {x23 : List ((Nat × Nat) × (Nat × RowKey))} {x24 : List (Nat
    × Nat × Nat)} {x25 : SMap Nat} {x26 : List Nat} {x27 : List Queue} {x28 : List Completion} {x29 : SMap Nat} {x30 :
    SMap W32} {x31 : List (Nat × W64)} {x32 : List Nat} {x33 : HostRegs} {x34 x35 : List Mail} {x36 : List Visit} {x37 :
    List Window} {x38 : Power} {x39 : Link} {x40 x41 x42 x43 : Nat} (h : x6.live = lv) :
    LiveIs lv (State.mk x0 x1 x2 x3 x4 x5 x6 x7 x8 x9 x10 x11 x12 x13 x14 x15 x16 x17 x18 x19 x20 x21 x22 x23 x24 x25
      x26 x27 x28 x29 x30 x31 x32 x33 x34 x35 x36 x37 x38 x39 x40 x41 x42 x43) := h
theorem live_foldl {lv : Bool} {α : Type} {f : State → α → State} {l : List α} {s : State} (h : LiveIs lv s)
    (hf : ∀ s a, LiveIs lv s → LiveIs lv (f s a)) : LiveIs lv (l.foldl f s) := by
  induction l generalizing s with
  | nil => exact h
  | cons a l ih => exact ih (hf s a h)
theorem live_foldl2 {lv : Bool} {α β : Type} {f : β × State → α → β × State} {l : List α} {r : β × State} (h : LiveIs lv r.2)
    (hf : ∀ r a, LiveIs lv r.2 → LiveIs lv (f r a).2) : LiveIs lv (l.foldl f r).2 := by
  induction l generalizing r with
  | nil => exact h
  | cons a l ih => exact ih (hf r a h)
theorem live_foldl1 {lv : Bool} {α β : Type} {f : State × β → α → State × β} {l : List α} {r : State × β} (h : LiveIs lv r.1)
    (hf : ∀ r a, LiveIs lv r.1 → LiveIs lv (f r a).1) : LiveIs lv (l.foldl f r).1 := by
  induction l generalizing r with
  | nil => exact h
  | cons a l ih => exact ih (hf r a h)
theorem live_ite {lv : Bool} {c : Prop} [Decidable c] {x y : State} (hx : LiveIs lv x) (hy : LiveIs lv y) :
    LiveIs lv (if c then x else y) := by
  split
  · exact hx
  · exact hy
theorem live_ofPair {lv : Bool} {β : Type} {p : β × State} {x : β} {s : State} (h : LiveIs lv p.2) (e : p = (x, s)) : LiveIs lv s := by
  subst e; exact h

/-- A next state, with a split in focus or not, as told; a fault or a refusal only where none is in focus. -/
def OutLive (lv : Bool) (o : Out) : Prop :=
  match o with
  | .next t => LiveIs lv t
  | _ => lv = false
theorem outLive_next {lv : Bool} {s : State} (h : LiveIs lv s) : OutLive lv (.next s) := h
theorem outLive_fault {f : Fault} : OutLive false (.fault f) := rfl
theorem outLive_true {o : Out} (h : OutLive true o) : ∃ t, o = .next t ∧ LiveIs true t := by
  cases o with
  | next t => exact ⟨t, rfl, h⟩
  | fault f => cases h
  | refused f => cases h
/-- A state of an answer, where there is one, has a split in focus or not. -/
def ExLive (lv : Bool) (x : Except TrapReq State) : Prop := ∀ t, x = .ok t → LiveIs lv t
theorem exLive_ok {lv : Bool} {s : State} (h : LiveIs lv s) : ExLive lv (.ok s) := by intro t e; cases e; exact h
theorem exLive_pure {lv : Bool} {s : State} (h : LiveIs lv s) : ExLive lv (pure s) := by intro t e; cases e; exact h
theorem exLive_error {lv : Bool} {f : TrapReq} : ExLive lv (.error f) := by intro t e; cases e
theorem exLive_bind {lv : Bool} {α : Type} {x : Except TrapReq α} {f : α → Except TrapReq State} (h : ∀ a, ExLive lv (f a)) : ExLive lv (x >>= f) := by
  intro t e
  cases x with
  | error x => cases e
  | ok a => exact h a t e
theorem exLive_elim {lv : Bool} {x : Except TrapReq State} {t : State} (h : ExLive lv x) (e : x = .ok t) : LiveIs lv t := h t e
def OptLive (lv : Bool) (x : Option State) : Prop := ∀ t, x = some t → LiveIs lv t
theorem optLive_some {lv : Bool} {s : State} (h : LiveIs lv s) : OptLive lv (some s) := by intro t e; cases e; exact h
theorem optLive_none {lv : Bool} : OptLive lv none := by intro t e; cases e
theorem optLive_of {lv : Bool} {α : Type} {x : Option α} {f : α → State} (hf : ∀ a, LiveIs lv (f a)) : OptLive lv (x.map f) := by
  intro t e; obtain ⟨a, _, rfl⟩ := Option.map_eq_some_iff.1 e; exact hf a
theorem optLive_getD {lv : Bool} {x : Option State} {s : State} (hx : OptLive lv x) (h : LiveIs lv s) : LiveIs lv (x.getD s) := by
  cases x with
  | none => exact h
  | some t => exact hx t rfl
theorem live_ofFirst {lv : Bool} {β : Type} {p : State × β} {x : β} {s : State} (h : LiveIs lv p.1) (e : p = (s, x)) : LiveIs lv s := by
  subst e; exact h
theorem optLive_elim {lv : Bool} {x : Option State} {t : State} (h : OptLive lv x) (e : x = some t) : LiveIs lv t := h t e
theorem optLive_map {lv : Bool} {x : Option State} {f : State → State} (h : OptLive lv x) (hf : ∀ s, LiveIs lv s → LiveIs lv (f s)) :
    OptLive lv (x.map f) := by
  intro t e
  cases x with
  | none => cases e
  | some s => cases e; exact hf s (h s rfl)
theorem onNext_outLive {lv c : Bool} {o : Out} {f : State → State} (ho : OutLive lv o) (hc : lv = false → c = false) (hf : ∀ s, LiveIs lv s → LiveIs c (f s)) :
    OutLive c (onNext o f) := by
  cases o with
  | next s => exact hf s ho
  | fault x => exact hc ho
  | refused x => exact hc ho

end Sys2Proof.Machine
end

