-- ==== Sys2Proof/Laws/LiveOps.lean ====
section
/-!
SUPPORT. Every operation and meaning of the files from Machine/Ops.lean to Machine/Tiles.lean leaves a split in focus or none, as it found it.
-/

namespace Sys2Proof.Machine

open Sys2Proof


/-! ### Machine/Ops.lean -/

theorem State.onGroup_live {lv : Bool} {s : State} (h : LiveIs lv s) (f : Group → Group) : LiveIs lv (State.onGroup s f) := by
  unfold State.onGroup
  repeat' first
    | with_reducible assumption | fail_if_no_progress (with_reducible refine live_mk ?_; (try dsimp only); with_reducible refine live_cur ?_)
theorem State.onTeam_live {lv : Bool} {s : State} (h : LiveIs lv s) (f : Team → Team) : LiveIs lv (State.onTeam s f) := by
  unfold State.onTeam
  repeat' first
    | with_reducible assumption | fail_if_no_progress (with_reducible refine live_mk ?_; (try dsimp only); with_reducible refine live_cur ?_)
theorem State.onRegs_live {lv : Bool} {s : State} (h : LiveIs lv s) (f : Regs → Regs) : LiveIs lv (State.onRegs s f) := by
  unfold State.onRegs
  repeat' first
    | with_reducible assumption | with_reducible refine State.onGroup_live ?_ _
theorem State.wS_live {lv : Bool} {s : State} (h : LiveIs lv s) (n : Nat) (v : W64) : LiveIs lv (State.wS s n v) := by
  unfold State.wS
  repeat' first
    | with_reducible assumption | with_reducible refine State.onGroup_live ?_ _
theorem State.wC_live {lv : Bool} {s : State} (h : LiveIs lv s) (n : Nat) (v : LaneMask) : LiveIs lv (State.wC s n v) := by
  unfold State.wC
  repeat' first
    | with_reducible assumption | with_reducible refine State.onGroup_live ?_ _
theorem State.wN_live {lv : Bool} {s : State} (h : LiveIs lv s) (L : Nat) (v : Byte) : LiveIs lv (State.wN s L v) := by
  unfold State.wN
  repeat' first
    | with_reducible assumption | with_reducible refine State.onGroup_live ?_ _
theorem State.wVs_live {lv : Bool} {s : State} (h : LiveIs lv s) (n : Nat) (lanes : List Nat) (f : Nat → W32) : LiveIs lv (State.wVs s n lanes f) := by
  unfold State.wVs
  repeat' first
    | with_reducible assumption | with_reducible refine State.onGroup_live ?_ _
theorem State.wPs_live {lv : Bool} {s : State} (h : LiveIs lv s) (n : Nat) (lanes : List Nat) (f : Nat → W64) : LiveIs lv (State.wPs s n lanes f) := by
  unfold State.wPs
  repeat' first
    | with_reducible assumption | with_reducible refine State.onGroup_live ?_ _
theorem State.onSplit_live {lv : Bool} {s : State} (h : LiveIs lv s) (f : Split → Split) : LiveIs lv (State.onSplit s f) := by
  unfold State.onSplit
  repeat' first
    | with_reducible assumption | with_reducible refine State.onGroup_live ?_ _
theorem State.goto_live {lv : Bool} {s : State} (h : LiveIs lv s) (pkt : W64) (slot : Nat) : LiveIs lv (State.goto s pkt slot) := by
  unfold State.goto
  repeat' first
    | with_reducible assumption | with_reducible refine State.onSplit_live ?_ _
theorem State.branch_live {lv : Bool} {s : State} (h : LiveIs lv s) (pkt : W64) (slot : Nat) : LiveIs lv (State.branch s pkt slot) := by
  unfold State.branch
  repeat' first
    | with_reducible assumption | with_reducible refine State.onSplit_live ?_ _
theorem State.block_live {lv : Bool} {s : State} (h : LiveIs lv s) (b : Block) : LiveIs lv (State.block s b) := by
  unfold State.block
  repeat' first
    | with_reducible assumption | with_reducible refine State.onSplit_live ?_ _
theorem State.stay_live {lv : Bool} {s : State} (h : LiveIs lv s)  : LiveIs lv (State.stay s) := by
  unfold State.stay
  repeat' first
    | with_reducible assumption | with_reducible refine State.goto_live ?_ _ _
theorem State.writeAt_live {lv : Bool} {s : State} (h : LiveIs lv s) (p : Phys) (bs : List Byte) : LiveIs lv (State.writeAt s p bs) := by
  unfold State.writeAt
  repeat' first
    | with_reducible assumption | fail_if_no_progress (with_reducible refine live_mk ?_; (try dsimp only); with_reducible refine live_cur ?_) | split
theorem State.at_live {lv : Bool} {s : State} (h : LiveIs lv s) (c : Nat) (e : Event) : LiveIs lv (State.at s c e) := by
  unfold State.at
  repeat' first
    | with_reducible assumption | fail_if_no_progress (with_reducible refine live_mk ?_; (try dsimp only); with_reducible refine live_cur ?_)
theorem State.now_live {lv : Bool} {s : State} (h : LiveIs lv s) (e : Event) : LiveIs lv (State.now s e) := by
  unfold State.now
  repeat' first
    | with_reducible assumption | with_reducible refine State.at_live ?_ _ _
theorem State.fresh_live {lv : Bool} {s : State} (h : LiveIs lv s)  : LiveIs lv (State.fresh s).2 := by
  unfold State.fresh
  repeat' first
    | with_reducible assumption | fail_if_no_progress (with_reducible refine live_mk ?_; (try dsimp only); with_reducible refine live_cur ?_)
theorem State.draw_live {lv : Bool} {s : State} (h : LiveIs lv s)  : LiveIs lv (State.draw s).2 := by
  unfold State.draw
  repeat' first
    | with_reducible assumption | fail_if_no_progress (with_reducible refine live_mk ?_; (try dsimp only); with_reducible refine live_cur ?_)
theorem State.retire_live {lv : Bool} {s : State} (h : LiveIs lv s)  : LiveIs lv (State.retire s) := by
  unfold State.retire
  repeat' first
    | with_reducible assumption | with_reducible refine State.onGroup_live ?_ _ | with_reducible refine State.at_live ?_ _ _
    | with_reducible refine State.now_live ?_ _ | dsimp only | split
theorem State.mapTeam_live {lv : Bool} {s : State} (h : LiveIs lv s) (id : Nat) (f : Team → Team) : LiveIs lv (State.mapTeam s id f) := by
  unfold State.mapTeam
  repeat' first
    | with_reducible assumption | fail_if_no_progress (with_reducible refine live_mk ?_; (try dsimp only); with_reducible refine live_cur ?_)
theorem State.mapGroup_live {lv : Bool} {s : State} (h : LiveIs lv s) (id : Nat) (gid : Nat) (f : Group → Group) : LiveIs lv (State.mapGroup s id gid f) := by
  unfold State.mapGroup
  repeat' first
    | with_reducible assumption | with_reducible refine State.mapTeam_live ?_ _ _
theorem State.mapSeat_live {lv : Bool} {s : State} (h : LiveIs lv s) (n : Nat) (f : Seat → Seat) : LiveIs lv (State.mapSeat s n f) := by
  unfold State.mapSeat
  repeat' first
    | with_reducible assumption | fail_if_no_progress (with_reducible refine live_mk ?_; (try dsimp only); with_reducible refine live_cur ?_)
theorem State.logEvent_live {lv : Bool} {s : State} (h : LiveIs lv s) (seat : Nat) (ev : Nat) (core : Nat) (oclk : Nat) (detail : W64) (added : Nat) (freeze : Bool) (inj : Bool) : LiveIs lv (State.logEvent s seat ev core oclk detail added freeze inj) := by
  unfold State.logEvent
  repeat' first
    | with_reducible assumption | with_reducible refine State.mapSeat_live ?_ _ _
    | fail_if_no_progress (with_reducible refine live_mk ?_; (try dsimp only); with_reducible refine live_cur ?_) | dsimp only | split
theorem State.complete_live {lv : Bool} {s : State} (h : LiveIs lv s) (r : Region) (q : Nat) (status : Nat) (info : W64) : LiveIs lv (State.complete s r q status info) := by
  unfold State.complete
  repeat' first
    | with_reducible assumption | with_reducible refine State.now_live ?_ _
    | fail_if_no_progress (with_reducible refine live_mk ?_; (try dsimp only); with_reducible refine live_cur ?_) | dsimp only | split
theorem State.mapOp_live {lv : Bool} {s : State} (h : LiveIs lv s) (id : Nat) (f : Op → Op) : LiveIs lv (State.mapOp s id f) := by
  unfold State.mapOp
  repeat' first
    | with_reducible assumption | fail_if_no_progress (with_reducible refine live_mk ?_; (try dsimp only); with_reducible refine live_cur ?_)
theorem State.anyGroup_live {lv : Bool} {s : State} (h : LiveIs lv s) (id : Nat) (gid : Nat) (f : Group → Group) : LiveIs lv (State.anyGroup s id gid f) := by
  unfold State.anyGroup
  repeat' first
    | with_reducible assumption | with_reducible refine State.onGroup_live ?_ _ | with_reducible refine State.onTeam_live ?_ _
    | with_reducible refine State.mapGroup_live ?_ _ _ _ | split
theorem State.anyTeam_live {lv : Bool} {s : State} (h : LiveIs lv s) (id : Nat) (f : Team → Team) : LiveIs lv (State.anyTeam s id f) := by
  unfold State.anyTeam
  repeat' first
    | with_reducible assumption | with_reducible refine State.onTeam_live ?_ _ | with_reducible refine State.mapTeam_live ?_ _ _ | split
theorem State.launchOp_live {lv : Bool} {s : State} (h : LiveIs lv s) (o : Op) : LiveIs lv (State.launchOp s o) := by
  unfold State.launchOp
  repeat' first
    | with_reducible assumption | with_reducible refine State.onGroup_live ?_ _
    | fail_if_no_progress (with_reducible refine live_mk ?_; (try dsimp only); with_reducible refine live_cur ?_)
theorem State.pokeCommit_live {lv : Bool} {s : State} (h : LiveIs lv s) (grid : Nat) : LiveIs lv (State.pokeCommit s grid) := by
  unfold State.pokeCommit
  repeat' first
    | with_reducible assumption | with_reducible refine State.now_live ?_ _ | split
theorem State.finishOp_live {lv : Bool} {s : State} (h : LiveIs lv s) (id : Nat) : LiveIs lv (State.finishOp s id) := by
  unfold State.finishOp
  repeat' first
    | with_reducible assumption | with_reducible refine State.at_live ?_ _ _ | with_reducible refine State.now_live ?_ _
    | with_reducible refine State.anyGroup_live ?_ _ _ _ | with_reducible refine State.pokeCommit_live ?_ _
    | fail_if_no_progress (with_reducible refine live_mk ?_; (try dsimp only); with_reducible refine live_cur ?_) | dsimp only | split
theorem State.haltTeam_live {lv : Bool} {s : State} (h : LiveIs lv s) (team : Nat) (reason : Nat) (detail : W64) : LiveIs lv (State.haltTeam s team reason detail) := by
  unfold State.haltTeam
  repeat' first
    | with_reducible assumption | with_reducible refine State.now_live ?_ _ | with_reducible refine State.logEvent_live ?_ _ _ _ _ _ _ _ _
    | with_reducible refine State.anyTeam_live ?_ _ _ | dsimp only | split
theorem State.unhandled_live {lv : Bool} {s : State} (h : LiveIs lv s) (t : TrapReq) : LiveIs lv (State.unhandled s t) := by
  unfold State.unhandled
  repeat' first
    | with_reducible assumption | with_reducible refine State.complete_live ?_ _ _ _ _ | with_reducible refine State.haltTeam_live ?_ _ _ _
    | with_reducible refine live_foldl ?_ (fun _ _ _ => ?_) | split
theorem State.takeTrap_live {lv : Bool} {s : State} (h : LiveIs lv s) (t : TrapReq) (defer : Bool) : LiveIs lv (State.takeTrap s t defer) := by
  unfold State.takeTrap
  repeat' first
    | with_reducible assumption | with_reducible refine State.onGroup_live ?_ _ | with_reducible refine State.logEvent_live ?_ _ _ _ _ _ _ _ _
    | with_reducible refine State.haltTeam_live ?_ _ _ _ | with_reducible refine State.unhandled_live ?_ _ | dsimp only | split
theorem State.trapWord_live {lv : Bool} {s : State} (h : LiveIs lv s) (t : TrapReq) : LiveIs lv (State.trapWord s t) := by
  unfold State.trapWord
  repeat' first
    | with_reducible assumption | with_reducible refine State.takeTrap_live ?_ _ _
    | fail_if_no_progress (with_reducible refine live_mk ?_; (try dsimp only); with_reducible refine live_cur ?_)
theorem State.defer_live {lv : Bool} {s : State} (h : LiveIs lv s) (o : Op) (k : TrapKind) : LiveIs lv (State.defer s o k) := by
  unfold State.defer
  repeat' first
    | with_reducible assumption | with_reducible refine State.now_live ?_ _ | with_reducible refine State.anyGroup_live ?_ _ _ _

/-! ### Machine/Operands.lean -/

theorem State.wakeBank_live {lv : Bool} {s : State} (h : LiveIs lv s) (b : Nat) : LiveIs lv (State.wakeBank s b) := by
  unfold State.wakeBank
  repeat' first
    | with_reducible assumption | with_reducible refine State.onGroup_live ?_ _ | with_reducible refine State.at_live ?_ _ _ | dsimp only | split
theorem State.wakeFor_live {lv : Bool} {s : State} (h : LiveIs lv s) (l : List Nat) : LiveIs lv (State.wakeFor s l) := by
  unfold State.wakeFor
  repeat' first
    | with_reducible assumption | with_reducible refine State.wakeBank_live ?_ _ | with_reducible refine live_foldl ?_ (fun _ _ _ => ?_)
theorem runWord_live {lv : Bool} {s : State} (h : LiveIs lv s) (i : Instr) (body : State → Except TrapReq State)
    (hb : ∀ s, LiveIs lv s → ExLive lv (body s)) : OutLive lv (runWord i s body) := by
  unfold runWord
  split
  · split
    · exact outLive_next (hb _ (State.wakeFor_live h _) _ ‹_›)
    · exact outLive_next (State.trapWord_live h _)
    · exact outLive_next (State.trapWord_live h _)
  · rename_i hn
    cases lv with
    | true => exact absurd h hn
    | false => exact outLive_fault
theorem runPure_live {lv : Bool} {s : State} (h : LiveIs lv s) (i : Instr) (f : State → State)
    (hf : ∀ s, LiveIs lv s → LiveIs lv (f s)) : OutLive lv (runPure i s f) :=
  runWord_live h i _ fun s hs => exLive_ok (hf s hs)
theorem runEvent_live {s : State} (f : Event → Option State) (hf : ∀ e, OptLive false (f e)) : OutLive false (runEvent s f) := by
  unfold runEvent
  split
  · exact outLive_fault
  · split
    · exact outLive_next (hf _ _ ‹_›)
    · exact outLive_fault
theorem State.setLanes_live {lv : Bool} {s : State} (h : LiveIs lv s) (d : Nat) (f : Nat → W32) : LiveIs lv (State.setLanes s d f) := by
  unfold State.setLanes
  repeat' first
    | with_reducible assumption | with_reducible refine State.wVs_live ?_ _ _ _
theorem State.setPairs_live {lv : Bool} {s : State} (h : LiveIs lv s) (d : Nat) (f : Nat → W64) : LiveIs lv (State.setPairs s d f) := by
  unfold State.setPairs
  repeat' first
    | with_reducible assumption | with_reducible refine State.wPs_live ?_ _ _ _
theorem State.setConds_live {lv : Bool} {s : State} (h : LiveIs lv s) (c : Nat) (f : Nat → Bool) : LiveIs lv (State.setConds s c f) := by
  unfold State.setConds
  repeat' first
    | with_reducible assumption | with_reducible refine State.wC_live ?_ _ _

/-! ### Machine/Scalar.lean -/

theorem scalar2_live {lv : Bool} {s : State} (h : LiveIs lv s) (i : Instr) (d : SReg) (a : SReg) (b : SReg) (f : W64 → W64 → W64) : OutLive lv (scalar2 i d a b f s) := by
  unfold scalar2
  repeat' first
    | with_reducible assumption | (with_reducible intro t ht) | with_reducible refine State.wS_live ?_ _ _
    | with_reducible refine runPure_live ?_ _ _ ?_
theorem scalar1_live {lv : Bool} {s : State} (h : LiveIs lv s) (i : Instr) (d : SReg) (a : SReg) (f : W64 → W64) : OutLive lv (scalar1 i d a f s) := by
  unfold scalar1
  repeat' first
    | with_reducible assumption | (with_reducible intro t ht) | with_reducible refine State.wS_live ?_ _ _
    | with_reducible refine runPure_live ?_ _ _ ?_
theorem scalarCmp_live {lv : Bool} {s : State} (h : LiveIs lv s) (i : Instr) (d : CReg) (a : SReg) (b : SReg) (f : W64 → W64 → Bool) : OutLive lv (scalarCmp i d a b f s) := by
  unfold scalarCmp
  repeat' first
    | with_reducible assumption | (with_reducible intro t ht) | with_reducible refine State.wC_live ?_ _ _
    | with_reducible refine runPure_live ?_ _ _ ?_
theorem execSadd_live {lv : Bool} {s : State} (h : LiveIs lv s) (d : SReg) (a : SReg) (b : SReg) : OutLive lv (execSadd d a b s) := by
  unfold execSadd
  repeat' first
    | with_reducible assumption | with_reducible refine scalar2_live ?_ _ _ _ _ _
theorem execSsub_live {lv : Bool} {s : State} (h : LiveIs lv s) (d : SReg) (a : SReg) (b : SReg) : OutLive lv (execSsub d a b s) := by
  unfold execSsub
  repeat' first
    | with_reducible assumption | with_reducible refine scalar2_live ?_ _ _ _ _ _
theorem execSmul_live {lv : Bool} {s : State} (h : LiveIs lv s) (d : SReg) (a : SReg) (b : SReg) : OutLive lv (execSmul d a b s) := by
  unfold execSmul
  repeat' first
    | with_reducible assumption | with_reducible refine scalar2_live ?_ _ _ _ _ _
theorem execSmulhS_live {lv : Bool} {s : State} (h : LiveIs lv s) (d : SReg) (a : SReg) (b : SReg) : OutLive lv (execSmulhS d a b s) := by
  unfold execSmulhS
  repeat' first
    | with_reducible assumption | with_reducible refine scalar2_live ?_ _ _ _ _ _
theorem execSmulhZ_live {lv : Bool} {s : State} (h : LiveIs lv s) (d : SReg) (a : SReg) (b : SReg) : OutLive lv (execSmulhZ d a b s) := by
  unfold execSmulhZ
  repeat' first
    | with_reducible assumption | with_reducible refine scalar2_live ?_ _ _ _ _ _
theorem execSand_live {lv : Bool} {s : State} (h : LiveIs lv s) (d : SReg) (a : SReg) (b : SReg) : OutLive lv (execSand d a b s) := by
  unfold execSand
  repeat' first
    | with_reducible assumption | with_reducible refine scalar2_live ?_ _ _ _ _ _
theorem execSor_live {lv : Bool} {s : State} (h : LiveIs lv s) (d : SReg) (a : SReg) (b : SReg) : OutLive lv (execSor d a b s) := by
  unfold execSor
  repeat' first
    | with_reducible assumption | with_reducible refine scalar2_live ?_ _ _ _ _ _
theorem execSxor_live {lv : Bool} {s : State} (h : LiveIs lv s) (d : SReg) (a : SReg) (b : SReg) : OutLive lv (execSxor d a b s) := by
  unfold execSxor
  repeat' first
    | with_reducible assumption | with_reducible refine scalar2_live ?_ _ _ _ _ _
theorem execSshl_live {lv : Bool} {s : State} (h : LiveIs lv s) (d : SReg) (a : SReg) (b : SReg) : OutLive lv (execSshl d a b s) := by
  unfold execSshl
  repeat' first
    | with_reducible assumption | with_reducible refine scalar2_live ?_ _ _ _ _ _
theorem execSshrZ_live {lv : Bool} {s : State} (h : LiveIs lv s) (d : SReg) (a : SReg) (b : SReg) : OutLive lv (execSshrZ d a b s) := by
  unfold execSshrZ
  repeat' first
    | with_reducible assumption | with_reducible refine scalar2_live ?_ _ _ _ _ _
theorem execSshrS_live {lv : Bool} {s : State} (h : LiveIs lv s) (d : SReg) (a : SReg) (b : SReg) : OutLive lv (execSshrS d a b s) := by
  unfold execSshrS
  repeat' first
    | with_reducible assumption | with_reducible refine scalar2_live ?_ _ _ _ _ _
theorem execSminS_live {lv : Bool} {s : State} (h : LiveIs lv s) (d : SReg) (a : SReg) (b : SReg) : OutLive lv (execSminS d a b s) := by
  unfold execSminS
  repeat' first
    | with_reducible assumption | with_reducible refine scalar2_live ?_ _ _ _ _ _
theorem execSmaxS_live {lv : Bool} {s : State} (h : LiveIs lv s) (d : SReg) (a : SReg) (b : SReg) : OutLive lv (execSmaxS d a b s) := by
  unfold execSmaxS
  repeat' first
    | with_reducible assumption | with_reducible refine scalar2_live ?_ _ _ _ _ _
theorem execSminZ_live {lv : Bool} {s : State} (h : LiveIs lv s) (d : SReg) (a : SReg) (b : SReg) : OutLive lv (execSminZ d a b s) := by
  unfold execSminZ
  repeat' first
    | with_reducible assumption | with_reducible refine scalar2_live ?_ _ _ _ _ _
theorem execSmaxZ_live {lv : Bool} {s : State} (h : LiveIs lv s) (d : SReg) (a : SReg) (b : SReg) : OutLive lv (execSmaxZ d a b s) := by
  unfold execSmaxZ
  repeat' first
    | with_reducible assumption | with_reducible refine scalar2_live ?_ _ _ _ _ _
theorem execSsltS_live {lv : Bool} {s : State} (h : LiveIs lv s) (d : SReg) (a : SReg) (b : SReg) : OutLive lv (execSsltS d a b s) := by
  unfold execSsltS
  repeat' first
    | with_reducible assumption | with_reducible refine scalar2_live ?_ _ _ _ _ _
theorem execSsltZ_live {lv : Bool} {s : State} (h : LiveIs lv s) (d : SReg) (a : SReg) (b : SReg) : OutLive lv (execSsltZ d a b s) := by
  unfold execSsltZ
  repeat' first
    | with_reducible assumption | with_reducible refine scalar2_live ?_ _ _ _ _ _
theorem execSseq_live {lv : Bool} {s : State} (h : LiveIs lv s) (d : SReg) (a : SReg) (b : SReg) : OutLive lv (execSseq d a b s) := by
  unfold execSseq
  repeat' first
    | with_reducible assumption | with_reducible refine scalar2_live ?_ _ _ _ _ _
theorem execSaddi_live {lv : Bool} {s : State} (h : LiveIs lv s) (d : SReg) (a : SReg) (i : BitVec 12) : OutLive lv (execSaddi d a i s) := by
  unfold execSaddi
  repeat' first
    | with_reducible assumption | with_reducible refine scalar1_live ?_ _ _ _ _
theorem execSandi_live {lv : Bool} {s : State} (h : LiveIs lv s) (d : SReg) (a : SReg) (i : BitVec 12) : OutLive lv (execSandi d a i s) := by
  unfold execSandi
  repeat' first
    | with_reducible assumption | with_reducible refine scalar1_live ?_ _ _ _ _
theorem execSori_live {lv : Bool} {s : State} (h : LiveIs lv s) (d : SReg) (a : SReg) (i : BitVec 12) : OutLive lv (execSori d a i s) := by
  unfold execSori
  repeat' first
    | with_reducible assumption | with_reducible refine scalar1_live ?_ _ _ _ _
theorem execSxori_live {lv : Bool} {s : State} (h : LiveIs lv s) (d : SReg) (a : SReg) (i : BitVec 12) : OutLive lv (execSxori d a i s) := by
  unfold execSxori
  repeat' first
    | with_reducible assumption | with_reducible refine scalar1_live ?_ _ _ _ _
theorem execSshli_live {lv : Bool} {s : State} (h : LiveIs lv s) (d : SReg) (a : SReg) (n : Fin 64) : OutLive lv (execSshli d a n s) := by
  unfold execSshli
  repeat' first
    | with_reducible assumption | with_reducible refine scalar1_live ?_ _ _ _ _
theorem execSshriZ_live {lv : Bool} {s : State} (h : LiveIs lv s) (d : SReg) (a : SReg) (n : Fin 64) : OutLive lv (execSshriZ d a n s) := by
  unfold execSshriZ
  repeat' first
    | with_reducible assumption | with_reducible refine scalar1_live ?_ _ _ _ _
theorem execSshriS_live {lv : Bool} {s : State} (h : LiveIs lv s) (d : SReg) (a : SReg) (n : Fin 64) : OutLive lv (execSshriS d a n s) := by
  unfold execSshriS
  repeat' first
    | with_reducible assumption | with_reducible refine scalar1_live ?_ _ _ _ _
theorem execSlit_live {lv : Bool} {s : State} (h : LiveIs lv s) (d : SReg) (i : BitVec 18) : OutLive lv (execSlit d i s) := by
  unfold execSlit
  repeat' first
    | with_reducible assumption | (with_reducible intro t ht) | with_reducible refine State.wS_live ?_ _ _
    | with_reducible refine runPure_live ?_ _ _ ?_
theorem execSlitwZ_live {lv : Bool} {s : State} (h : LiveIs lv s) (d : SReg) : OutLive lv (execSlitwZ d s) := by
  unfold execSlitwZ
  repeat' first
    | with_reducible assumption | (with_reducible intro t ht) | with_reducible refine State.wS_live ?_ _ _
    | with_reducible refine runPure_live ?_ _ _ ?_
theorem execSlitwS_live {lv : Bool} {s : State} (h : LiveIs lv s) (d : SReg) : OutLive lv (execSlitwS d s) := by
  unfold execSlitwS
  repeat' first
    | with_reducible assumption | (with_reducible intro t ht) | with_reducible refine State.wS_live ?_ _ _
    | with_reducible refine runPure_live ?_ _ _ ?_
theorem execSlitwLo_live {lv : Bool} {s : State} (h : LiveIs lv s) (d : SReg) : OutLive lv (execSlitwLo d s) := by
  unfold execSlitwLo
  repeat' first
    | with_reducible assumption | (with_reducible intro t ht) | with_reducible refine State.wS_live ?_ _ _
    | with_reducible refine runPure_live ?_ _ _ ?_
theorem execSlitwHi_live {lv : Bool} {s : State} (h : LiveIs lv s) (d : SReg) : OutLive lv (execSlitwHi d s) := by
  unfold execSlitwHi
  repeat' first
    | with_reducible assumption | (with_reducible intro t ht) | with_reducible refine State.wS_live ?_ _ _
    | with_reducible refine runPure_live ?_ _ _ ?_
theorem execScmpEq_live {lv : Bool} {s : State} (h : LiveIs lv s) (d : CReg) (a : SReg) (b : SReg) : OutLive lv (execScmpEq d a b s) := by
  unfold execScmpEq
  repeat' first
    | with_reducible assumption | with_reducible refine scalarCmp_live ?_ _ _ _ _ _
theorem execScmpNe_live {lv : Bool} {s : State} (h : LiveIs lv s) (d : CReg) (a : SReg) (b : SReg) : OutLive lv (execScmpNe d a b s) := by
  unfold execScmpNe
  repeat' first
    | with_reducible assumption | with_reducible refine scalarCmp_live ?_ _ _ _ _ _
theorem execScmpLtS_live {lv : Bool} {s : State} (h : LiveIs lv s) (d : CReg) (a : SReg) (b : SReg) : OutLive lv (execScmpLtS d a b s) := by
  unfold execScmpLtS
  repeat' first
    | with_reducible assumption | with_reducible refine scalarCmp_live ?_ _ _ _ _ _
theorem execScmpLeS_live {lv : Bool} {s : State} (h : LiveIs lv s) (d : CReg) (a : SReg) (b : SReg) : OutLive lv (execScmpLeS d a b s) := by
  unfold execScmpLeS
  repeat' first
    | with_reducible assumption | with_reducible refine scalarCmp_live ?_ _ _ _ _ _
theorem execScmpLtZ_live {lv : Bool} {s : State} (h : LiveIs lv s) (d : CReg) (a : SReg) (b : SReg) : OutLive lv (execScmpLtZ d a b s) := by
  unfold execScmpLtZ
  repeat' first
    | with_reducible assumption | with_reducible refine scalarCmp_live ?_ _ _ _ _ _
theorem execScmpLeZ_live {lv : Bool} {s : State} (h : LiveIs lv s) (d : CReg) (a : SReg) (b : SReg) : OutLive lv (execScmpLeZ d a b s) := by
  unfold execScmpLeZ
  repeat' first
    | with_reducible assumption | with_reducible refine scalarCmp_live ?_ _ _ _ _ _
theorem execSext_live {lv : Bool} {s : State} (h : LiveIs lv s) (d : SReg) (a : VReg) (w : ExtW) (l : Fin 32) : OutLive lv (execSext d a w l s) := by
  unfold execSext
  repeat' first
    | with_reducible assumption | (with_reducible intro t ht) | with_reducible refine State.wS_live ?_ _ _
    | with_reducible refine runPure_live ?_ _ _ ?_
theorem execSextFirst_live {lv : Bool} {s : State} (h : LiveIs lv s) (d : SReg) (a : VReg) (w : ExtW) : OutLive lv (execSextFirst d a w s) := by
  unfold execSextFirst
  repeat' first
    | with_reducible assumption | (with_reducible intro t ht) | with_reducible refine State.wS_live ?_ _ _
    | with_reducible refine runPure_live ?_ _ _ ?_
theorem execSextLast_live {lv : Bool} {s : State} (h : LiveIs lv s) (d : SReg) (a : VReg) (w : ExtW) : OutLive lv (execSextLast d a w s) := by
  unfold execSextLast
  repeat' first
    | with_reducible assumption | (with_reducible intro t ht) | with_reducible refine State.wS_live ?_ _ _
    | with_reducible refine runPure_live ?_ _ _ ?_
theorem insLanes_live {lv : Bool} {s : State} (h : LiveIs lv s) (d : VReg) (a : SReg) (w : InsW) (lanes : List Nat) : LiveIs lv (insLanes d a w lanes s) := by
  unfold insLanes
  repeat' first
    | with_reducible assumption | with_reducible refine State.wVs_live ?_ _ _ _ | with_reducible refine State.wPs_live ?_ _ _ _ | split
theorem execVins_live {lv : Bool} {s : State} (h : LiveIs lv s) (d : VReg) (a : SReg) (w : InsW) (l : Fin 32) : OutLive lv (execVins d a w l s) := by
  unfold execVins
  repeat' first
    | with_reducible assumption | (with_reducible intro t ht) | with_reducible refine runPure_live ?_ _ _ ?_
    | with_reducible refine insLanes_live ?_ _ _ _ _
theorem execVinsAll_live {lv : Bool} {s : State} (h : LiveIs lv s) (d : VReg) (a : SReg) (w : InsW) : OutLive lv (execVinsAll d a w s) := by
  unfold execVinsAll
  repeat' first
    | with_reducible assumption | (with_reducible intro t ht) | with_reducible refine runPure_live ?_ _ _ ?_
    | with_reducible refine insLanes_live ?_ _ _ _ _
theorem execNop_live {lv : Bool} {s : State} (h : LiveIs lv s)  : OutLive lv (execNop s) := by
  unfold execNop
  repeat' first
    | with_reducible assumption | (with_reducible intro t ht) | with_reducible refine runPure_live ?_ _ _ ?_

/-! ### Machine/Vector.lean -/

theorem vector2_live {lv : Bool} {s : State} (h : LiveIs lv s) (i : Instr) (d : VReg) (a : VReg) (b : BSel) (f : W32 → W32 → W32) : OutLive lv (vector2 i d a b f s) := by
  unfold vector2
  repeat' first
    | with_reducible assumption | (with_reducible intro t ht) | with_reducible refine runPure_live ?_ _ _ ?_
    | with_reducible refine State.setLanes_live ?_ _ _
theorem vector3_live {lv : Bool} {s : State} (h : LiveIs lv s) (i : Instr) (d : VReg) (a : VReg) (b : BSel) (f : W32 → W32 → W32 → W32) : OutLive lv (vector3 i d a b f s) := by
  unfold vector3
  repeat' first
    | with_reducible assumption | (with_reducible intro t ht) | with_reducible refine runPure_live ?_ _ _ ?_
    | with_reducible refine State.setLanes_live ?_ _ _
theorem vector1_live {lv : Bool} {s : State} (h : LiveIs lv s) (i : Instr) (d : VReg) (a : VReg) (f : W32 → W32) : OutLive lv (vector1 i d a f s) := by
  unfold vector1
  repeat' first
    | with_reducible assumption | (with_reducible intro t ht) | with_reducible refine runPure_live ?_ _ _ ?_
    | with_reducible refine State.setLanes_live ?_ _ _
theorem execVadd_live {lv : Bool} {s : State} (h : LiveIs lv s) (d : VReg) (a : VReg) (b : BSel) : OutLive lv (execVadd d a b s) := by
  unfold execVadd
  repeat' first
    | with_reducible assumption | with_reducible refine vector2_live ?_ _ _ _ _ _
theorem execVaddSatS_live {lv : Bool} {s : State} (h : LiveIs lv s) (d : VReg) (a : VReg) (b : BSel) : OutLive lv (execVaddSatS d a b s) := by
  unfold execVaddSatS
  repeat' first
    | with_reducible assumption | with_reducible refine vector2_live ?_ _ _ _ _ _
theorem execVaddSatZ_live {lv : Bool} {s : State} (h : LiveIs lv s) (d : VReg) (a : VReg) (b : BSel) : OutLive lv (execVaddSatZ d a b s) := by
  unfold execVaddSatZ
  repeat' first
    | with_reducible assumption | with_reducible refine vector2_live ?_ _ _ _ _ _
theorem execVsub_live {lv : Bool} {s : State} (h : LiveIs lv s) (d : VReg) (a : VReg) (b : BSel) : OutLive lv (execVsub d a b s) := by
  unfold execVsub
  repeat' first
    | with_reducible assumption | with_reducible refine vector2_live ?_ _ _ _ _ _
theorem execVsubSatS_live {lv : Bool} {s : State} (h : LiveIs lv s) (d : VReg) (a : VReg) (b : BSel) : OutLive lv (execVsubSatS d a b s) := by
  unfold execVsubSatS
  repeat' first
    | with_reducible assumption | with_reducible refine vector2_live ?_ _ _ _ _ _
theorem execVsubSatZ_live {lv : Bool} {s : State} (h : LiveIs lv s) (d : VReg) (a : VReg) (b : BSel) : OutLive lv (execVsubSatZ d a b s) := by
  unfold execVsubSatZ
  repeat' first
    | with_reducible assumption | with_reducible refine vector2_live ?_ _ _ _ _ _
theorem execVmul_live {lv : Bool} {s : State} (h : LiveIs lv s) (d : VReg) (a : VReg) (b : BSel) : OutLive lv (execVmul d a b s) := by
  unfold execVmul
  repeat' first
    | with_reducible assumption | with_reducible refine vector2_live ?_ _ _ _ _ _
theorem execVmulhS_live {lv : Bool} {s : State} (h : LiveIs lv s) (d : VReg) (a : VReg) (b : BSel) : OutLive lv (execVmulhS d a b s) := by
  unfold execVmulhS
  repeat' first
    | with_reducible assumption | with_reducible refine vector2_live ?_ _ _ _ _ _
theorem execVmulhZ_live {lv : Bool} {s : State} (h : LiveIs lv s) (d : VReg) (a : VReg) (b : BSel) : OutLive lv (execVmulhZ d a b s) := by
  unfold execVmulhZ
  repeat' first
    | with_reducible assumption | with_reducible refine vector2_live ?_ _ _ _ _ _
theorem execVminS_live {lv : Bool} {s : State} (h : LiveIs lv s) (d : VReg) (a : VReg) (b : BSel) : OutLive lv (execVminS d a b s) := by
  unfold execVminS
  repeat' first
    | with_reducible assumption | with_reducible refine vector2_live ?_ _ _ _ _ _
theorem execVminZ_live {lv : Bool} {s : State} (h : LiveIs lv s) (d : VReg) (a : VReg) (b : BSel) : OutLive lv (execVminZ d a b s) := by
  unfold execVminZ
  repeat' first
    | with_reducible assumption | with_reducible refine vector2_live ?_ _ _ _ _ _
theorem execVmaxS_live {lv : Bool} {s : State} (h : LiveIs lv s) (d : VReg) (a : VReg) (b : BSel) : OutLive lv (execVmaxS d a b s) := by
  unfold execVmaxS
  repeat' first
    | with_reducible assumption | with_reducible refine vector2_live ?_ _ _ _ _ _
theorem execVmaxZ_live {lv : Bool} {s : State} (h : LiveIs lv s) (d : VReg) (a : VReg) (b : BSel) : OutLive lv (execVmaxZ d a b s) := by
  unfold execVmaxZ
  repeat' first
    | with_reducible assumption | with_reducible refine vector2_live ?_ _ _ _ _ _
theorem execVand_live {lv : Bool} {s : State} (h : LiveIs lv s) (d : VReg) (a : VReg) (b : BSel) : OutLive lv (execVand d a b s) := by
  unfold execVand
  repeat' first
    | with_reducible assumption | with_reducible refine vector2_live ?_ _ _ _ _ _
theorem execVor_live {lv : Bool} {s : State} (h : LiveIs lv s) (d : VReg) (a : VReg) (b : BSel) : OutLive lv (execVor d a b s) := by
  unfold execVor
  repeat' first
    | with_reducible assumption | with_reducible refine vector2_live ?_ _ _ _ _ _
theorem execVxor_live {lv : Bool} {s : State} (h : LiveIs lv s) (d : VReg) (a : VReg) (b : BSel) : OutLive lv (execVxor d a b s) := by
  unfold execVxor
  repeat' first
    | with_reducible assumption | with_reducible refine vector2_live ?_ _ _ _ _ _
theorem execVandn_live {lv : Bool} {s : State} (h : LiveIs lv s) (d : VReg) (a : VReg) (b : BSel) : OutLive lv (execVandn d a b s) := by
  unfold execVandn
  repeat' first
    | with_reducible assumption | with_reducible refine vector2_live ?_ _ _ _ _ _
theorem execVshl_live {lv : Bool} {s : State} (h : LiveIs lv s) (d : VReg) (a : VReg) (b : BSel) : OutLive lv (execVshl d a b s) := by
  unfold execVshl
  repeat' first
    | with_reducible assumption | with_reducible refine vector2_live ?_ _ _ _ _ _
theorem execVshrZ_live {lv : Bool} {s : State} (h : LiveIs lv s) (d : VReg) (a : VReg) (b : BSel) : OutLive lv (execVshrZ d a b s) := by
  unfold execVshrZ
  repeat' first
    | with_reducible assumption | with_reducible refine vector2_live ?_ _ _ _ _ _
theorem execVshrS_live {lv : Bool} {s : State} (h : LiveIs lv s) (d : VReg) (a : VReg) (b : BSel) : OutLive lv (execVshrS d a b s) := by
  unfold execVshrS
  repeat' first
    | with_reducible assumption | with_reducible refine vector2_live ?_ _ _ _ _ _
theorem execVrot_live {lv : Bool} {s : State} (h : LiveIs lv s) (d : VReg) (a : VReg) (b : BSel) : OutLive lv (execVrot d a b s) := by
  unfold execVrot
  repeat' first
    | with_reducible assumption | with_reducible refine vector2_live ?_ _ _ _ _ _
theorem execVlut3_live {lv : Bool} {s : State} (h : LiveIs lv s) (d : VReg) (a : VReg) (b : BSel) : OutLive lv (execVlut3 d a b s) := by
  unfold execVlut3
  repeat' first
    | with_reducible assumption | with_reducible refine vector3_live ?_ _ _ _ _ _
theorem execVpopc_live {lv : Bool} {s : State} (h : LiveIs lv s) (d : VReg) (a : VReg) : OutLive lv (execVpopc d a s) := by
  unfold execVpopc
  repeat' first
    | with_reducible assumption | with_reducible refine vector1_live ?_ _ _ _ _
theorem execVclz_live {lv : Bool} {s : State} (h : LiveIs lv s) (d : VReg) (a : VReg) : OutLive lv (execVclz d a s) := by
  unfold execVclz
  repeat' first
    | with_reducible assumption | with_reducible refine vector1_live ?_ _ _ _ _
theorem execVctz_live {lv : Bool} {s : State} (h : LiveIs lv s) (d : VReg) (a : VReg) : OutLive lv (execVctz d a s) := by
  unfold execVctz
  repeat' first
    | with_reducible assumption | with_reducible refine vector1_live ?_ _ _ _ _
theorem execVbrev_live {lv : Bool} {s : State} (h : LiveIs lv s) (d : VReg) (a : VReg) : OutLive lv (execVbrev d a s) := by
  unfold execVbrev
  repeat' first
    | with_reducible assumption | with_reducible refine vector1_live ?_ _ _ _ _
theorem execVbfxZ_live {lv : Bool} {s : State} (h : LiveIs lv s) (d : VReg) (a : VReg) (b : BSel) : OutLive lv (execVbfxZ d a b s) := by
  unfold execVbfxZ
  repeat' first
    | with_reducible assumption | with_reducible refine vector2_live ?_ _ _ _ _ _
theorem execVbfxS_live {lv : Bool} {s : State} (h : LiveIs lv s) (d : VReg) (a : VReg) (b : BSel) : OutLive lv (execVbfxS d a b s) := by
  unfold execVbfxS
  repeat' first
    | with_reducible assumption | with_reducible refine vector2_live ?_ _ _ _ _ _
theorem execVbfi_live {lv : Bool} {s : State} (h : LiveIs lv s) (d : VReg) (a : VReg) (b : BSel) : OutLive lv (execVbfi d a b s) := by
  unfold execVbfi
  repeat' first
    | with_reducible assumption | with_reducible refine vector3_live ?_ _ _ _ _ _
theorem execVaddi_live {lv : Bool} {s : State} (h : LiveIs lv s) (d : VReg) (a : VReg) (i : BitVec 10) : OutLive lv (execVaddi d a i s) := by
  unfold execVaddi
  repeat' first
    | with_reducible assumption | with_reducible refine vector1_live ?_ _ _ _ _
theorem execVcmp_live {lv : Bool} {s : State} (h : LiveIs lv s) (c : CReg) (a : VReg) (b : BSel) (p : ICmp) : OutLive lv (execVcmp c a b p s) := by
  unfold execVcmp
  repeat' first
    | with_reducible assumption | (with_reducible intro t ht) | with_reducible refine runPure_live ?_ _ _ ?_
    | with_reducible refine State.setConds_live ?_ _ _
theorem execVsel_live {lv : Bool} {s : State} (h : LiveIs lv s) (d : VReg) (a : VReg) (b : VReg) (c : CReg) : OutLive lv (execVsel d a b c s) := by
  unfold execVsel
  repeat' first
    | with_reducible assumption | (with_reducible intro t ht) | with_reducible refine runPure_live ?_ _ _ ?_
    | with_reducible refine State.setLanes_live ?_ _ _
theorem execVmov_live {lv : Bool} {s : State} (h : LiveIs lv s) (d : VReg) (a : VReg) : OutLive lv (execVmov d a s) := by
  unfold execVmov
  repeat' first
    | with_reducible assumption | with_reducible refine vector1_live ?_ _ _ _ _
theorem execVmovX64_live {lv : Bool} {s : State} (h : LiveIs lv s) (d : VReg) (a : VReg) : OutLive lv (execVmovX64 d a s) := by
  unfold execVmovX64
  repeat' first
    | with_reducible assumption | (with_reducible intro t ht) | with_reducible refine runPure_live ?_ _ _ ?_
    | with_reducible refine State.setPairs_live ?_ _ _
theorem execVlit_live {lv : Bool} {s : State} (h : LiveIs lv s) (d : VReg) (i : BitVec 15) : OutLive lv (execVlit d i s) := by
  unfold execVlit
  repeat' first
    | with_reducible assumption | (with_reducible intro t ht) | with_reducible refine runPure_live ?_ _ _ ?_
    | with_reducible refine State.setLanes_live ?_ _ _
theorem execVlaneid_live {lv : Bool} {s : State} (h : LiveIs lv s) (d : VReg) : OutLive lv (execVlaneid d s) := by
  unfold execVlaneid
  repeat' first
    | with_reducible assumption | (with_reducible intro t ht) | with_reducible refine runPure_live ?_ _ _ ?_
    | with_reducible refine State.setLanes_live ?_ _ _
theorem execVballot_live {lv : Bool} {s : State} (h : LiveIs lv s) (d : VReg) (c : CReg) : OutLive lv (execVballot d c s) := by
  unfold execVballot
  repeat' first
    | with_reducible assumption | (with_reducible intro t ht) | with_reducible refine runPure_live ?_ _ _ ?_
    | with_reducible refine State.setLanes_live ?_ _ _
theorem execVmrank_live {lv : Bool} {s : State} (h : LiveIs lv s) (d : VReg) (c : CReg) : OutLive lv (execVmrank d c s) := by
  unfold execVmrank
  repeat' first
    | with_reducible assumption | (with_reducible intro t ht) | with_reducible refine runPure_live ?_ _ _ ?_
    | with_reducible refine State.setLanes_live ?_ _ _
theorem execVmrankInc_live {lv : Bool} {s : State} (h : LiveIs lv s) (d : VReg) (c : CReg) : OutLive lv (execVmrankInc d c s) := by
  unfold execVmrankInc
  repeat' first
    | with_reducible assumption | (with_reducible intro t ht) | with_reducible refine runPure_live ?_ _ _ ?_
    | with_reducible refine State.setLanes_live ?_ _ _
theorem shuffle_live {lv : Bool} {s : State} (h : LiveIs lv s) (i : Instr) (d : VReg) (a : VReg) (b : BSel) (src : Nat → Nat → Nat) : OutLive lv (shuffle i d a b src s) := by
  unfold shuffle
  repeat' first
    | with_reducible assumption | (with_reducible intro t ht) | with_reducible refine runPure_live ?_ _ _ ?_
    | with_reducible refine State.setLanes_live ?_ _ _
theorem execVshflIdx_live {lv : Bool} {s : State} (h : LiveIs lv s) (d : VReg) (a : VReg) (b : BSel) : OutLive lv (execVshflIdx d a b s) := by
  unfold execVshflIdx
  repeat' first
    | with_reducible assumption | with_reducible refine shuffle_live ?_ _ _ _ _ _
theorem execVshflUp_live {lv : Bool} {s : State} (h : LiveIs lv s) (d : VReg) (a : VReg) (b : BSel) : OutLive lv (execVshflUp d a b s) := by
  unfold execVshflUp
  repeat' first
    | with_reducible assumption | with_reducible refine shuffle_live ?_ _ _ _ _ _
theorem execVshflDown_live {lv : Bool} {s : State} (h : LiveIs lv s) (d : VReg) (a : VReg) (b : BSel) : OutLive lv (execVshflDown d a b s) := by
  unfold execVshflDown
  repeat' first
    | with_reducible assumption | with_reducible refine shuffle_live ?_ _ _ _ _ _
theorem execVshflXor_live {lv : Bool} {s : State} (h : LiveIs lv s) (d : VReg) (a : VReg) (b : BSel) : OutLive lv (execVshflXor d a b s) := by
  unfold execVshflXor
  repeat' first
    | with_reducible assumption | with_reducible refine shuffle_live ?_ _ _ _ _ _
theorem execVfold_live {lv : Bool} {s : State} (h : LiveIs lv s) (d : SReg) (a : VReg) (o : FoldOp) : OutLive lv (execVfold d a o s) := by
  unfold execVfold
  repeat' first
    | with_reducible assumption | (with_reducible intro t ht) | with_reducible refine State.wS_live ?_ _ _
    | with_reducible refine runPure_live ?_ _ _ ?_
theorem execVscan_live {lv : Bool} {s : State} (h : LiveIs lv s) (d : VReg) (a : VReg) (x : Bool) (o : ScanOp) : OutLive lv (execVscan d a x o s) := by
  unfold execVscan
  repeat' first
    | with_reducible assumption | (with_reducible intro t ht) | with_reducible refine runPure_live ?_ _ _ ?_
    | with_reducible refine State.setLanes_live ?_ _ _

/-! ### Machine/VFloat.lean -/

theorem float3_live {lv : Bool} {s : State} (h : LiveIs lv s) (i : Instr) (d : VReg) (a : VReg) (b : BSel) (f : W32 → W32 → W32 → W32) : OutLive lv (float3 i d a b f s) := by
  unfold float3
  repeat' first
    | with_reducible assumption | (with_reducible intro t ht) | with_reducible refine runPure_live ?_ _ _ ?_
    | with_reducible refine State.setLanes_live ?_ _ _
theorem double3_live {lv : Bool} {s : State} (h : LiveIs lv s) (i : Instr) (d : VReg) (a : VReg) (b : BSel) (f : W64 → W64 → W64 → W64) : OutLive lv (double3 i d a b f s) := by
  unfold double3
  repeat' first
    | with_reducible assumption | (with_reducible intro t ht) | with_reducible refine runPure_live ?_ _ _ ?_
    | with_reducible refine State.setPairs_live ?_ _ _
theorem packed3_live {lv : Bool} {s : State} (h : LiveIs lv s) (i : Instr) (d : VReg) (a : VReg) (b : BSel) (bf : Bool) (f : Val → Val → Val → Val) : OutLive lv (packed3 i d a b bf f s) := by
  unfold packed3
  repeat' first
    | with_reducible assumption | (with_reducible intro t ht) | with_reducible refine runPure_live ?_ _ _ ?_
    | with_reducible refine State.setLanes_live ?_ _ _
theorem special1_live {lv : Bool} {s : State} (h : LiveIs lv s) (i : Instr) (d : VReg) (a : VReg) (f : Val → Nat) : OutLive lv (special1 i d a f s) := by
  unfold special1
  repeat' first
    | with_reducible assumption | (with_reducible intro t ht) | with_reducible refine runPure_live ?_ _ _ ?_
    | with_reducible refine State.setLanes_live ?_ _ _
theorem execVfadd_live {lv : Bool} {s : State} (h : LiveIs lv s) (d : VReg) (a : VReg) (b : BSel) (r : RMode) : OutLive lv (execVfadd d a b r s) := by
  unfold execVfadd
  repeat' first
    | with_reducible assumption | with_reducible refine float3_live ?_ _ _ _ _ _
theorem execVfsub_live {lv : Bool} {s : State} (h : LiveIs lv s) (d : VReg) (a : VReg) (b : BSel) (r : RMode) : OutLive lv (execVfsub d a b r s) := by
  unfold execVfsub
  repeat' first
    | with_reducible assumption | with_reducible refine float3_live ?_ _ _ _ _ _
theorem execVfmul_live {lv : Bool} {s : State} (h : LiveIs lv s) (d : VReg) (a : VReg) (b : BSel) (r : RMode) : OutLive lv (execVfmul d a b r s) := by
  unfold execVfmul
  repeat' first
    | with_reducible assumption | with_reducible refine float3_live ?_ _ _ _ _ _
theorem execVfma_live {lv : Bool} {s : State} (h : LiveIs lv s) (d : VReg) (a : VReg) (b : BSel) (r : RMode) : OutLive lv (execVfma d a b r s) := by
  unfold execVfma
  repeat' first
    | with_reducible assumption | with_reducible refine float3_live ?_ _ _ _ _ _
theorem execVfnma_live {lv : Bool} {s : State} (h : LiveIs lv s) (d : VReg) (a : VReg) (b : BSel) (r : RMode) : OutLive lv (execVfnma d a b r s) := by
  unfold execVfnma
  repeat' first
    | with_reducible assumption | with_reducible refine float3_live ?_ _ _ _ _ _
theorem execVfdiv_live {lv : Bool} {s : State} (h : LiveIs lv s) (d : VReg) (a : VReg) (b : BSel) (r : RMode) : OutLive lv (execVfdiv d a b r s) := by
  unfold execVfdiv
  repeat' first
    | with_reducible assumption | with_reducible refine float3_live ?_ _ _ _ _ _
theorem execVfmin_live {lv : Bool} {s : State} (h : LiveIs lv s) (d : VReg) (a : VReg) (b : BSel) : OutLive lv (execVfmin d a b s) := by
  unfold execVfmin
  repeat' first
    | with_reducible assumption | with_reducible refine float3_live ?_ _ _ _ _ _
theorem execVfmax_live {lv : Bool} {s : State} (h : LiveIs lv s) (d : VReg) (a : VReg) (b : BSel) : OutLive lv (execVfmax d a b s) := by
  unfold execVfmax
  repeat' first
    | with_reducible assumption | with_reducible refine float3_live ?_ _ _ _ _ _
theorem execVfminn_live {lv : Bool} {s : State} (h : LiveIs lv s) (d : VReg) (a : VReg) (b : BSel) : OutLive lv (execVfminn d a b s) := by
  unfold execVfminn
  repeat' first
    | with_reducible assumption | with_reducible refine float3_live ?_ _ _ _ _ _
theorem execVfmaxn_live {lv : Bool} {s : State} (h : LiveIs lv s) (d : VReg) (a : VReg) (b : BSel) : OutLive lv (execVfmaxn d a b s) := by
  unfold execVfmaxn
  repeat' first
    | with_reducible assumption | with_reducible refine float3_live ?_ _ _ _ _ _
theorem execVfcmp_live {lv : Bool} {s : State} (h : LiveIs lv s) (c : CReg) (a : VReg) (b : BSel) (p : FCmp) : OutLive lv (execVfcmp c a b p s) := by
  unfold execVfcmp
  repeat' first
    | with_reducible assumption | (with_reducible intro t ht) | with_reducible refine runPure_live ?_ _ _ ?_
    | with_reducible refine State.setConds_live ?_ _ _
theorem execVfsqrt_live {lv : Bool} {s : State} (h : LiveIs lv s) (d : VReg) (a : VReg) : OutLive lv (execVfsqrt d a s) := by
  unfold execVfsqrt
  repeat' first
    | with_reducible assumption | with_reducible refine special1_live ?_ _ _ _ _
theorem execVfrcp_live {lv : Bool} {s : State} (h : LiveIs lv s) (d : VReg) (a : VReg) : OutLive lv (execVfrcp d a s) := by
  unfold execVfrcp
  repeat' first
    | with_reducible assumption | with_reducible refine special1_live ?_ _ _ _ _
theorem execVfrsq_live {lv : Bool} {s : State} (h : LiveIs lv s) (d : VReg) (a : VReg) : OutLive lv (execVfrsq d a s) := by
  unfold execVfrsq
  repeat' first
    | with_reducible assumption | with_reducible refine special1_live ?_ _ _ _ _
theorem execVfex2_live {lv : Bool} {s : State} (h : LiveIs lv s) (d : VReg) (a : VReg) : OutLive lv (execVfex2 d a s) := by
  unfold execVfex2
  repeat' first
    | with_reducible assumption | with_reducible refine special1_live ?_ _ _ _ _
theorem execVflg2_live {lv : Bool} {s : State} (h : LiveIs lv s) (d : VReg) (a : VReg) : OutLive lv (execVflg2 d a s) := by
  unfold execVflg2
  repeat' first
    | with_reducible assumption | with_reducible refine special1_live ?_ _ _ _ _
theorem execVfabs_live {lv : Bool} {s : State} (h : LiveIs lv s) (d : VReg) (a : VReg) : OutLive lv (execVfabs d a s) := by
  unfold execVfabs
  repeat' first
    | with_reducible assumption | (with_reducible intro t ht) | with_reducible refine runPure_live ?_ _ _ ?_
    | with_reducible refine State.setLanes_live ?_ _ _
theorem execVfneg_live {lv : Bool} {s : State} (h : LiveIs lv s) (d : VReg) (a : VReg) : OutLive lv (execVfneg d a s) := by
  unfold execVfneg
  repeat' first
    | with_reducible assumption | (with_reducible intro t ht) | with_reducible refine runPure_live ?_ _ _ ?_
    | with_reducible refine State.setLanes_live ?_ _ _
theorem execVfcpsgn_live {lv : Bool} {s : State} (h : LiveIs lv s) (d : VReg) (a : VReg) (b : BSel) : OutLive lv (execVfcpsgn d a b s) := by
  unfold execVfcpsgn
  repeat' first
    | with_reducible assumption | with_reducible refine float3_live ?_ _ _ _ _ _
theorem execVdadd_live {lv : Bool} {s : State} (h : LiveIs lv s) (d : VReg) (a : VReg) (b : BSel) : OutLive lv (execVdadd d a b s) := by
  unfold execVdadd
  repeat' first
    | with_reducible assumption | with_reducible refine double3_live ?_ _ _ _ _ _
theorem execVdsub_live {lv : Bool} {s : State} (h : LiveIs lv s) (d : VReg) (a : VReg) (b : BSel) : OutLive lv (execVdsub d a b s) := by
  unfold execVdsub
  repeat' first
    | with_reducible assumption | with_reducible refine double3_live ?_ _ _ _ _ _
theorem execVdmul_live {lv : Bool} {s : State} (h : LiveIs lv s) (d : VReg) (a : VReg) (b : BSel) : OutLive lv (execVdmul d a b s) := by
  unfold execVdmul
  repeat' first
    | with_reducible assumption | with_reducible refine double3_live ?_ _ _ _ _ _
theorem execVdfma_live {lv : Bool} {s : State} (h : LiveIs lv s) (d : VReg) (a : VReg) (b : BSel) : OutLive lv (execVdfma d a b s) := by
  unfold execVdfma
  repeat' first
    | with_reducible assumption | with_reducible refine double3_live ?_ _ _ _ _ _
theorem execVddiv_live {lv : Bool} {s : State} (h : LiveIs lv s) (d : VReg) (a : VReg) (b : BSel) (r : RMode) : OutLive lv (execVddiv d a b r s) := by
  unfold execVddiv
  repeat' first
    | with_reducible assumption | with_reducible refine double3_live ?_ _ _ _ _ _
theorem execVdcmp_live {lv : Bool} {s : State} (h : LiveIs lv s) (c : CReg) (a : VReg) (b : BSel) (p : FCmp) : OutLive lv (execVdcmp c a b p s) := by
  unfold execVdcmp
  repeat' first
    | with_reducible assumption | (with_reducible intro t ht) | with_reducible refine runPure_live ?_ _ _ ?_
    | with_reducible refine State.setConds_live ?_ _ _
theorem execVdsqrt_live {lv : Bool} {s : State} (h : LiveIs lv s) (d : VReg) (a : VReg) : OutLive lv (execVdsqrt d a s) := by
  unfold execVdsqrt
  repeat' first
    | with_reducible assumption | (with_reducible intro t ht) | with_reducible refine runPure_live ?_ _ _ ?_
    | with_reducible refine State.setPairs_live ?_ _ _
theorem execVhadd_live {lv : Bool} {s : State} (h : LiveIs lv s) (d : VReg) (a : VReg) (b : BSel) (f : Bool) : OutLive lv (execVhadd d a b f s) := by
  unfold execVhadd
  repeat' first
    | with_reducible assumption | with_reducible refine packed3_live ?_ _ _ _ _ _ _
theorem execVhmul_live {lv : Bool} {s : State} (h : LiveIs lv s) (d : VReg) (a : VReg) (b : BSel) (f : Bool) : OutLive lv (execVhmul d a b f s) := by
  unfold execVhmul
  repeat' first
    | with_reducible assumption | with_reducible refine packed3_live ?_ _ _ _ _ _ _
theorem execVhfma_live {lv : Bool} {s : State} (h : LiveIs lv s) (d : VReg) (a : VReg) (b : BSel) (f : Bool) : OutLive lv (execVhfma d a b f s) := by
  unfold execVhfma
  repeat' first
    | with_reducible assumption | with_reducible refine packed3_live ?_ _ _ _ _ _ _
theorem execVcvt_live {lv : Bool} {s : State} (h : LiveIs lv s) (d : VReg) (a : VReg) (f : CvtT) (t : CvtT) (r : RMode) : OutLive lv (execVcvt d a f t r s) := by
  unfold execVcvt
  repeat' first
    | with_reducible assumption | (with_reducible intro t ht) | with_reducible refine runPure_live ?_ _ _ ?_
    | with_reducible refine State.setLanes_live ?_ _ _ | with_reducible refine State.setPairs_live ?_ _ _ | dsimp only | split
theorem quantise_live {lv : Bool} {s : State} (h : LiveIs lv s) (i : Instr) (d : VReg) (a : VReg) (b : BSel) (t : QTarget) : OutLive lv (quantise i d a b t s) := by
  unfold quantise
  repeat' first
    | with_reducible assumption | (with_reducible intro t ht) | with_reducible refine runPure_live ?_ _ _ ?_
    | with_reducible refine State.setLanes_live ?_ _ _
theorem execVquantD8_live {lv : Bool} {s : State} (h : LiveIs lv s) (d : VReg) (a : VReg) (b : BSel) : OutLive lv (execVquantD8 d a b s) := by
  unfold execVquantD8
  repeat' first
    | with_reducible assumption | with_reducible refine quantise_live ?_ _ _ _ _ _
theorem execVquantD6_live {lv : Bool} {s : State} (h : LiveIs lv s) (d : VReg) (a : VReg) (b : BSel) : OutLive lv (execVquantD6 d a b s) := by
  unfold execVquantD6
  repeat' first
    | with_reducible assumption | with_reducible refine quantise_live ?_ _ _ _ _ _
theorem execVquantM4_live {lv : Bool} {s : State} (h : LiveIs lv s) (d : VReg) (a : VReg) (b : BSel) : OutLive lv (execVquantM4 d a b s) := by
  unfold execVquantM4
  repeat' first
    | with_reducible assumption | with_reducible refine quantise_live ?_ _ _ _ _ _
theorem execVquantS8_live {lv : Bool} {s : State} (h : LiveIs lv s) (d : VReg) (a : VReg) (b : BSel) : OutLive lv (execVquantS8 d a b s) := by
  unfold execVquantS8
  repeat' first
    | with_reducible assumption | with_reducible refine quantise_live ?_ _ _ _ _ _
theorem execVpack_live {lv : Bool} {s : State} (h : LiveIs lv s) (d : VReg) (a : VReg) (w : PackW) : OutLive lv (execVpack d a w s) := by
  unfold execVpack
  repeat' first
    | with_reducible assumption | (with_reducible intro t ht) | with_reducible refine runPure_live ?_ _ _ ?_
    | with_reducible refine State.setLanes_live ?_ _ _
theorem unpack_live {lv : Bool} {s : State} (h : LiveIs lv s) (i : Instr) (d : VReg) (a : VReg) (w : PackW) (ext : Nat → W32) : OutLive lv (unpack i d a w ext s) := by
  unfold unpack
  repeat' first
    | with_reducible assumption | (with_reducible intro t ht) | with_reducible refine runPure_live ?_ _ _ ?_
    | with_reducible refine State.setLanes_live ?_ _ _ | with_reducible refine live_foldl ?_ (fun _ _ _ => ?_)
theorem execVunpkZ_live {lv : Bool} {s : State} (h : LiveIs lv s) (d : VReg) (a : VReg) (w : PackW) : OutLive lv (execVunpkZ d a w s) := by
  unfold execVunpkZ
  repeat' first
    | with_reducible assumption | with_reducible refine unpack_live ?_ _ _ _ _ _
theorem execVunpkS_live {lv : Bool} {s : State} (h : LiveIs lv s) (d : VReg) (a : VReg) (w : PackW) : OutLive lv (execVunpkS d a w s) := by
  unfold execVunpkS
  repeat' first
    | with_reducible assumption | with_reducible refine unpack_live ?_ _ _ _ _ _

/-! ### Machine/Control.lean -/

theorem branchIf_live {lv : Bool} {s : State} (h : LiveIs lv s) (i : Instr) (o : BitVec 19) (p : State → Bool) : OutLive lv (branchIf i o p s) := by
  unfold branchIf
  repeat' first
    | with_reducible assumption | (with_reducible intro t ht) | with_reducible refine exLive_ok ?_ | with_reducible exact exLive_error
    | with_reducible refine State.branch_live ?_ _ _ | with_reducible refine runWord_live ?_ _ _ ?_ | split
theorem execBr_live {lv : Bool} {s : State} (h : LiveIs lv s) (o : BitVec 19) : OutLive lv (execBr o s) := by
  unfold execBr
  repeat' first
    | with_reducible assumption | with_reducible refine branchIf_live ?_ _ _ _
theorem execBrAny_live {lv : Bool} {s : State} (h : LiveIs lv s) (c : CReg) (o : BitVec 19) : OutLive lv (execBrAny c o s) := by
  unfold execBrAny
  repeat' first
    | with_reducible assumption | with_reducible refine branchIf_live ?_ _ _ _
theorem execBrAll_live {lv : Bool} {s : State} (h : LiveIs lv s) (c : CReg) (o : BitVec 19) : OutLive lv (execBrAll c o s) := by
  unfold execBrAll
  repeat' first
    | with_reducible assumption | with_reducible refine branchIf_live ?_ _ _ _
theorem execBrNone_live {lv : Bool} {s : State} (h : LiveIs lv s) (c : CReg) (o : BitVec 19) : OutLive lv (execBrNone c o s) := by
  unfold execBrNone
  repeat' first
    | with_reducible assumption | with_reducible refine branchIf_live ?_ _ _ _
theorem execCall_live {lv : Bool} {s : State} (h : LiveIs lv s) (o : BitVec 19) : OutLive lv (execCall o s) := by
  unfold execCall
  repeat' first
    | with_reducible assumption | (with_reducible intro t ht) | with_reducible refine exLive_ok ?_ | with_reducible exact exLive_error
    | with_reducible refine State.wS_live ?_ _ _ | with_reducible refine State.branch_live ?_ _ _ | with_reducible refine runWord_live ?_ _ _ ?_
    | split
theorem execJmp_live {lv : Bool} {s : State} (h : LiveIs lv s) (d : SReg) (a : SReg) : OutLive lv (execJmp d a s) := by
  unfold execJmp
  repeat' first
    | with_reducible assumption | (with_reducible intro t ht) | with_reducible refine exLive_ok ?_ | with_reducible exact exLive_error
    | with_reducible refine State.wS_live ?_ _ _ | with_reducible refine State.branch_live ?_ _ _ | with_reducible refine runWord_live ?_ _ _ ?_
    | dsimp only | split
theorem State.newSplits_live {lv : Bool} {s : State} (h : LiveIs lv s) (l : List ((Int × LaneMask) × Nat)) : LiveIs lv (State.newSplits s l) := by
  unfold State.newSplits
  repeat' first
    | with_reducible assumption | with_reducible refine State.onGroup_live ?_ _ | with_reducible refine live_foldl ?_ (fun _ _ _ => ?_)
theorem State.dropLanes_live {lv : Bool} {s : State} (h : LiveIs lv s) (m : LaneMask) : LiveIs lv (State.dropLanes s m) := by
  unfold State.dropLanes
  repeat' first
    | with_reducible assumption | with_reducible refine State.onSplit_live ?_ _
theorem brxSplit_live {lv : Bool} {s : State} (h : LiveIs lv s) (l : List (Int × LaneMask)) : LiveIs lv (brxSplit s l) := by
  unfold brxSplit
  repeat' first
    | with_reducible assumption | with_reducible refine State.onSplit_live ?_ _ | with_reducible refine State.goto_live ?_ _ _
    | with_reducible refine State.branch_live ?_ _ _ | with_reducible refine State.newSplits_live ?_ _
    | with_reducible refine State.dropLanes_live ?_ _ | dsimp only | split
theorem execBrx_live {lv : Bool} {s : State} (h : LiveIs lv s) (b : SReg) (a : VReg) : OutLive lv (execBrx b a s) := by
  unfold execBrx
  repeat' first
    | with_reducible assumption | (with_reducible intro t ht) | with_reducible refine exLive_ok ?_ | with_reducible exact exLive_error
    | with_reducible refine runWord_live ?_ _ _ ?_ | with_reducible refine brxSplit_live ?_ _ | split
theorem State.mapNest_live {lv : Bool} {s : State} (h : LiveIs lv s) (f : Nat → Nat → Nat) : LiveIs lv (State.mapNest s f) := by
  unfold State.mapNest
  repeat' first
    | with_reducible assumption | with_reducible refine State.wN_live ?_ _ _ | with_reducible refine live_foldl ?_ (fun _ _ _ => ?_)
theorem execVif_live {lv : Bool} {s : State} (h : LiveIs lv s) (c : CReg) : OutLive lv (execVif c s) := by
  unfold execVif
  repeat' first
    | with_reducible assumption | (with_reducible intro t ht) | with_reducible refine exLive_ok ?_ | with_reducible exact exLive_error
    | with_reducible refine runWord_live ?_ _ _ ?_ | with_reducible refine State.mapNest_live ?_ _ | split
theorem execVelse_live {lv : Bool} {s : State} (h : LiveIs lv s)  : OutLive lv (execVelse s) := by
  unfold execVelse
  repeat' first
    | with_reducible assumption | (with_reducible intro t ht) | with_reducible refine runPure_live ?_ _ _ ?_
    | with_reducible refine State.mapNest_live ?_ _
theorem execVend_live {lv : Bool} {s : State} (h : LiveIs lv s)  : OutLive lv (execVend s) := by
  unfold execVend
  repeat' first
    | with_reducible assumption | (with_reducible intro t ht) | with_reducible refine runPure_live ?_ _ _ ?_
    | with_reducible refine State.mapNest_live ?_ _
theorem execVkill_live {lv : Bool} {s : State} (h : LiveIs lv s) (c : CReg) : OutLive lv (execVkill c s) := by
  unfold execVkill
  repeat' first
    | with_reducible assumption | (with_reducible intro t ht) | with_reducible refine State.retire_live ?_
    | with_reducible refine runPure_live ?_ _ _ ?_ | with_reducible refine State.mapNest_live ?_ _
theorem execVbrk_live {lv : Bool} {s : State} (h : LiveIs lv s) (c : CReg) (m : Fin 256) : OutLive lv (execVbrk c m s) := by
  unfold execVbrk
  repeat' first
    | with_reducible assumption | (with_reducible intro t ht) | with_reducible refine runPure_live ?_ _ _ ?_
    | with_reducible refine State.mapNest_live ?_ _
theorem execExit_live {lv : Bool} {s : State} (h : LiveIs lv s)  : OutLive lv (execExit s) := by
  unfold execExit
  repeat' first
    | with_reducible assumption | (with_reducible intro t ht) | with_reducible refine State.goto_live ?_ _ _
    | with_reducible refine State.retire_live ?_ | with_reducible refine runPure_live ?_ _ _ ?_ | with_reducible refine State.mapNest_live ?_ _
theorem execTrap_live {lv : Bool} {s : State} (h : LiveIs lv s) (x : BitVec 16) : OutLive lv (execTrap x s) := by
  unfold execTrap
  repeat' first
    | with_reducible assumption | (with_reducible intro t ht) | with_reducible refine exLive_ok ?_ | with_reducible exact exLive_error
    | with_reducible refine runWord_live ?_ _ _ ?_ | split
theorem execBrk_live {lv : Bool} {s : State} (h : LiveIs lv s) (x : BitVec 16) : OutLive lv (execBrk x s) := by
  unfold execBrk
  repeat' first
    | with_reducible assumption | (with_reducible intro t ht) | with_reducible refine exLive_ok ?_ | with_reducible exact exLive_error
    | with_reducible refine runWord_live ?_ _ _ ?_ | split

/-! ### Machine/Special.lean -/

theorem readSys_live {lv : Bool} {s : State} (h : LiveIs lv s) (i : Instr) (d : SReg) (n : Fin 4096) : OutLive lv (readSys i d n s) := by
  unfold readSys
  repeat' first
    | with_reducible assumption | (with_reducible intro t ht) | with_reducible refine exLive_ok ?_ | with_reducible exact exLive_error
    | with_reducible refine State.wS_live ?_ _ _ | with_reducible refine runWord_live ?_ _ _ ?_ | split
theorem execSgetsr_live {lv : Bool} {s : State} (h : LiveIs lv s) (d : SReg) (n : Fin 4096) : OutLive lv (execSgetsr d n s) := by
  unfold execSgetsr
  repeat' first
    | with_reducible assumption | with_reducible refine readSys_live ?_ _ _ _
theorem sysWrite_live {lv : Bool} {s : State} (h : LiveIs lv s) (n : Nat) (v : W64) : LiveIs lv (sysWrite s n v) := by
  unfold sysWrite
  repeat' first
    | with_reducible assumption | with_reducible refine State.onGroup_live ?_ _ | dsimp only | split
theorem setSys_live {lv : Bool} {s : State} (h : LiveIs lv s) (i : Instr) (a : SReg) (n : Fin 4096) (f : W64 → W64 → W64) : OutLive lv (setSys i a n f s) := by
  unfold setSys
  repeat' first
    | with_reducible assumption | (with_reducible intro t ht) | with_reducible refine exLive_ok ?_ | with_reducible exact exLive_error
    | with_reducible refine runWord_live ?_ _ _ ?_ | with_reducible refine sysWrite_live ?_ _ _ | split
theorem execSsetsr_live {lv : Bool} {s : State} (h : LiveIs lv s) (a : SReg) (n : Fin 4096) : OutLive lv (execSsetsr a n s) := by
  unfold execSsetsr
  repeat' first
    | with_reducible assumption | with_reducible refine setSys_live ?_ _ _ _ _
theorem execSsetsrSet_live {lv : Bool} {s : State} (h : LiveIs lv s) (a : SReg) (n : Fin 4096) : OutLive lv (execSsetsrSet a n s) := by
  unfold execSsetsrSet
  repeat' first
    | with_reducible assumption | with_reducible refine setSys_live ?_ _ _ _ _
theorem execSsetsrClr_live {lv : Bool} {s : State} (h : LiveIs lv s) (a : SReg) (n : Fin 4096) : OutLive lv (execSsetsrClr a n s) := by
  unfold execSsetsrClr
  repeat' first
    | with_reducible assumption | with_reducible refine setSys_live ?_ _ _ _ _
theorem runSup_live {lv : Bool} {s : State} (h : LiveIs lv s) (i : Instr) (body : State → Except TrapReq State)
    (hb : ∀ s, LiveIs lv s → ExLive lv (body s)) : OutLive lv (runSup i s body) := by
  unfold runSup
  refine runWord_live h _ _ fun t ht => ?_
  split
  · exact exLive_error
  · exact hb t ht
theorem execMfsys_live {lv : Bool} {s : State} (h : LiveIs lv s) (d : SReg) (n : Fin 4096) : OutLive lv (execMfsys d n s) := by
  unfold execMfsys
  repeat' first
    | with_reducible assumption | (with_reducible intro t ht) | with_reducible refine exLive_ok ?_ | with_reducible exact exLive_error
    | with_reducible refine State.wS_live ?_ _ _ | with_reducible refine runSup_live ?_ _ _ ?_ | split
theorem execMtsys_live {lv : Bool} {s : State} (h : LiveIs lv s) (a : SReg) (n : Fin 4096) : OutLive lv (execMtsys a n s) := by
  unfold execMtsys
  repeat' first
    | with_reducible assumption | (with_reducible intro t ht) | with_reducible refine exLive_ok ?_ | with_reducible exact exLive_error
    | with_reducible refine sysWrite_live ?_ _ _ | with_reducible refine runSup_live ?_ _ _ ?_ | split
theorem State.replayLog_live {lv : Bool} {s : State} (h : LiveIs lv s)  : LiveIs lv (State.replayLog s) := by
  unfold State.replayLog
  repeat' first
    | with_reducible assumption | with_reducible refine State.now_live ?_ _ | with_reducible refine State.mapOp_live ?_ _ _
    | with_reducible refine live_foldl ?_ (fun _ _ _ => ?_)
theorem execEret_live {lv : Bool} {s : State} (h : LiveIs lv s)  : OutLive lv (execEret s) := by
  unfold execEret
  repeat' first
    | with_reducible assumption | (with_reducible intro t ht) | with_reducible refine exLive_ok ?_ | with_reducible refine State.onGroup_live ?_ _
    | with_reducible refine State.now_live ?_ _ | with_reducible refine State.retire_live ?_ | with_reducible refine runSup_live ?_ _ _ ?_
    | with_reducible refine State.replayLog_live ?_ | split
theorem startTlbinv_live {lv : Bool} {s : State} (h : LiveIs lv s) (asid : Option Nat) (page : Option Nat) : LiveIs lv (startTlbinv s asid page) := by
  unfold startTlbinv
  repeat' first
    | with_reducible assumption | with_reducible refine State.now_live ?_ _ | with_reducible refine State.launchOp_live ?_ _
theorem execTlbinvVa_live {lv : Bool} {s : State} (h : LiveIs lv s) (a : SReg) : OutLive lv (execTlbinvVa a s) := by
  unfold execTlbinvVa
  repeat' first
    | with_reducible assumption | (with_reducible intro t ht) | with_reducible refine exLive_ok ?_ | with_reducible refine runSup_live ?_ _ _ ?_
    | with_reducible refine startTlbinv_live ?_ _ _
theorem execTlbinvAsid_live {lv : Bool} {s : State} (h : LiveIs lv s) (a : SReg) : OutLive lv (execTlbinvAsid a s) := by
  unfold execTlbinvAsid
  repeat' first
    | with_reducible assumption | (with_reducible intro t ht) | with_reducible refine exLive_ok ?_ | with_reducible exact exLive_error
    | with_reducible refine runSup_live ?_ _ _ ?_ | with_reducible refine startTlbinv_live ?_ _ _ | dsimp only | split
theorem execTlbinvAll_live {lv : Bool} {s : State} (h : LiveIs lv s)  : OutLive lv (execTlbinvAll s) := by
  unfold execTlbinvAll
  repeat' first
    | with_reducible assumption | (with_reducible intro t ht) | with_reducible refine exLive_ok ?_ | with_reducible refine runSup_live ?_ _ _ ?_
    | with_reducible refine startTlbinv_live ?_ _ _
theorem execSeatctlEvack_live {lv : Bool} {s : State} (h : LiveIs lv s) (a : SReg) : OutLive lv (execSeatctlEvack a s) := by
  unfold execSeatctlEvack
  repeat' first
    | with_reducible assumption | (with_reducible intro t ht) | with_reducible refine exLive_ok ?_ | with_reducible refine State.mapSeat_live ?_ _ _
    | with_reducible refine runSup_live ?_ _ _ ?_
theorem execSeatctlKill_live {lv : Bool} {s : State} (h : LiveIs lv s) (a : SReg) : OutLive lv (execSeatctlKill a s) := by
  unfold execSeatctlKill
  repeat' first
    | with_reducible assumption | (with_reducible intro t ht) | with_reducible refine exLive_ok ?_ | with_reducible exact exLive_error
    | with_reducible refine State.haltTeam_live ?_ _ _ _ | with_reducible refine runSup_live ?_ _ _ ?_ | dsimp only | split
theorem execSeatctlYield_live {lv : Bool} {s : State} (h : LiveIs lv s) (a : SReg) : OutLive lv (execSeatctlYield a s) := by
  unfold execSeatctlYield
  repeat' first
    | with_reducible assumption | (with_reducible intro t ht) | with_reducible refine exLive_ok ?_ | with_reducible refine State.mapSeat_live ?_ _ _
    | with_reducible refine runSup_live ?_ _ _ ?_
theorem execHalt_live {lv : Bool} {s : State} (h : LiveIs lv s) (a : SReg) : OutLive lv (execHalt a s) := by
  unfold execHalt
  repeat' first
    | with_reducible assumption | (with_reducible intro t ht) | with_reducible refine exLive_ok ?_
    | with_reducible refine State.haltTeam_live ?_ _ _ _ | with_reducible refine runSup_live ?_ _ _ ?_

/-! ### Machine/Translate.lean -/

theorem State.logBad_live {lv : Bool} {s : State} (h : LiveIs lv s) (t : Team) (va : Nat) : LiveIs lv (State.logBad s t va) := by
  unfold State.logBad
  repeat' first
    | with_reducible assumption | with_reducible refine State.logEvent_live ?_ _ _ _ _ _ _ _ _ | split

/-! ### Machine/Network.lean -/

theorem State.once_live {lv : Bool} {s : State} (h : LiveIs lv s) (c : Nat) (e : Event) : LiveIs lv (State.once s c e) := by
  unfold State.once
  repeat' first
    | with_reducible assumption | with_reducible refine State.at_live ?_ _ _ | split
theorem State.mapReq_live {lv : Bool} {s : State} (h : LiveIs lv s) (id : Nat) (f : Req → Req) : LiveIs lv (State.mapReq s id f) := by
  unfold State.mapReq
  repeat' first
    | with_reducible assumption | fail_if_no_progress (with_reducible refine live_mk ?_; (try dsimp only); with_reducible refine live_cur ?_)
theorem State.dropReq_live {lv : Bool} {s : State} (h : LiveIs lv s) (id : Nat) : LiveIs lv (State.dropReq s id) := by
  unfold State.dropReq
  repeat' first
    | with_reducible assumption | fail_if_no_progress (with_reducible refine live_mk ?_; (try dsimp only); with_reducible refine live_cur ?_)
theorem State.schedule_live {lv : Bool} {s : State} (h : LiveIs lv s) (r : Req) : LiveIs lv (State.schedule s r) := by
  unfold State.schedule
  repeat' first
    | with_reducible assumption | with_reducible refine State.once_live ?_ _ _ | split
theorem State.scheduleAll_live {lv : Bool} {s : State} (h : LiveIs lv s)  : LiveIs lv (State.scheduleAll s) := by
  unfold State.scheduleAll
  repeat' first
    | with_reducible assumption | with_reducible refine State.schedule_live ?_ _ | with_reducible refine live_foldl ?_ (fun _ _ _ => ?_)
theorem State.pokeRing_live {lv : Bool} {s : State} (h : LiveIs lv s) (slot : Nat) (core : Nat) (c : Nat) : LiveIs lv (State.pokeRing s slot core c) := by
  unfold State.pokeRing
  repeat' first
    | with_reducible assumption | with_reducible refine State.once_live ?_ _ _
theorem State.pokeEngine_live {lv : Bool} {s : State} (h : LiveIs lv s) (seat : Nat) (core : Nat) (c : Nat) : LiveIs lv (State.pokeEngine s seat core c) := by
  unfold State.pokeEngine
  repeat' first
    | with_reducible assumption | with_reducible refine State.once_live ?_ _ _ | split
theorem State.charge_live {lv : Bool} {s : State} (h : LiveIs lv s) (seat : Nat) (w : Charged) (c : Nat) : LiveIs lv (State.charge s seat w c).2 := by
  unfold State.charge
  repeat' first
    | with_reducible assumption | with_reducible refine State.at_live ?_ _ _ | with_reducible refine State.fresh_live ?_
    | with_reducible refine State.mapSeat_live ?_ _ _
theorem State.waitDone_live {lv : Bool} {s : State} (h : LiveIs lv s) (seat : Nat) (id : Nat) (c : Nat) : LiveIs lv (State.waitDone s seat id c) := by
  unfold State.waitDone
  repeat' first
    | with_reducible assumption | with_reducible refine State.mapSeat_live ?_ _ _
theorem State.wakeReleases_live {lv : Bool} {s : State} (h : LiveIs lv s) (team : Nat) (gid : Nat) : LiveIs lv (State.wakeReleases s team gid) := by
  unfold State.wakeReleases
  repeat' first
    | with_reducible assumption | with_reducible refine State.once_live ?_ _ _ | with_reducible refine State.pokeEngine_live ?_ _ _ _
    | with_reducible refine live_foldl ?_ (fun _ _ _ => ?_)
theorem State.assignLogs_live {lv : Bool} {s : State} (h : LiveIs lv s) (team : Nat) (gid : Nat) : LiveIs lv (State.assignLogs s team gid) := by
  unfold State.assignLogs
  repeat' first
    | with_reducible assumption | with_reducible refine State.fresh_live ?_ | with_reducible refine State.mapOp_live ?_ _ _
    | with_reducible refine State.once_live ?_ _ _ | with_reducible refine live_foldl ?_ (fun _ _ _ => ?_) | dsimp only | split
theorem State.enterLog_live {lv : Bool} {s : State} (h : LiveIs lv s) (id : Nat) : LiveIs lv (State.enterLog s id) := by
  unfold State.enterLog
  repeat' first
    | with_reducible assumption | with_reducible refine State.now_live ?_ _ | with_reducible refine State.fresh_live ?_
    | with_reducible refine State.mapOp_live ?_ _ _ | dsimp only | split
theorem State.replayNext_live {lv : Bool} {s : State} (h : LiveIs lv s) (team : Nat) (gid : Nat) : LiveIs lv (State.replayNext s team gid) := by
  unfold State.replayNext
  repeat' first
    | with_reducible assumption | with_reducible refine State.once_live ?_ _ _ | with_reducible refine live_foldl ?_ (fun _ _ _ => ?_)
theorem State.landOp_live {lv : Bool} {s : State} (h : LiveIs lv s) (id : Nat) : LiveIs lv (State.landOp s id) := by
  unfold State.landOp
  repeat' first
    | with_reducible assumption | with_reducible refine State.anyGroup_live ?_ _ _ _ | with_reducible refine State.finishOp_live ?_ _
    | with_reducible refine State.wakeReleases_live ?_ _ _ | with_reducible refine State.assignLogs_live ?_ _ _
    | with_reducible refine State.replayNext_live ?_ _ _ | dsimp only | split
theorem State.train_live {lv : Bool} {s : State} (h : LiveIs lv s) (id : Nat) (seat : Nat) : LiveIs lv (State.train s id seat) := by
  unfold State.train
  repeat' first
    | with_reducible assumption | with_reducible refine State.mapSeat_live ?_ _ _ | with_reducible refine State.mapOp_live ?_ _ _ | dsimp only | split
theorem State.checkOp_live {lv : Bool} {s : State} (h : LiveIs lv s) (id : Nat) : LiveIs lv (State.checkOp s id) := by
  unfold State.checkOp
  repeat' first
    | with_reducible assumption | with_reducible refine State.mapOp_live ?_ _ _ | with_reducible refine State.finishOp_live ?_ _
    | with_reducible refine State.defer_live ?_ _ _ | with_reducible refine State.pokeRing_live ?_ _ _ _
    | with_reducible refine State.waitDone_live ?_ _ _ _ | with_reducible refine State.assignLogs_live ?_ _ _
    | with_reducible refine State.replayNext_live ?_ _ _ | with_reducible refine State.landOp_live ?_ _
    | with_reducible refine State.train_live ?_ _ _ | with_reducible refine live_foldl ?_ (fun _ _ _ => ?_) | dsimp only | split
theorem State.readDescriptor_live {lv : Bool} {s : State} (h : LiveIs lv s) (o : Op) (r : Req) (gr : Nat) : LiveIs lv (State.readDescriptor s o r gr) := by
  unfold State.readDescriptor
  repeat' first
    | with_reducible assumption | with_reducible refine State.mapOp_live ?_ _ _
    | fail_if_no_progress (with_reducible refine live_mk ?_; (try dsimp only); with_reducible refine live_cur ?_) | dsimp only | split
theorem State.doLoad_live {lv : Bool} {s : State} (h : LiveIs lv s) (r : Req) : LiveIs lv (State.doLoad s r) := by
  unfold State.doLoad
  repeat' first
    | with_reducible assumption | with_reducible refine State.mapOp_live ?_ _ _ | with_reducible refine State.readDescriptor_live ?_ _ _ _
    | dsimp only | split
theorem State.storeTags_live {lv : Bool} {s : State} (h : LiveIs lv s) (r : Req) : LiveIs lv (State.storeTags s r) := by
  unfold State.storeTags
  repeat' first
    | with_reducible assumption | with_reducible refine State.fresh_live ?_ | with_reducible refine State.mapSeat_live ?_ _ _ | dsimp only | split
theorem State.doStore_live {lv : Bool} {s : State} (h : LiveIs lv s) (r : Req) : LiveIs lv (State.doStore s r) := by
  unfold State.doStore
  repeat' first
    | with_reducible assumption | with_reducible refine State.writeAt_live ?_ _ _ | with_reducible refine State.mapOp_live ?_ _ _
    | with_reducible refine State.storeTags_live ?_ _ | with_reducible refine live_foldl ?_ (fun _ _ _ => ?_) | dsimp only | split
theorem State.doAtomic_live {lv : Bool} {s : State} (h : LiveIs lv s) (r : Req) : LiveIs lv (State.doAtomic s r) := by
  unfold State.doAtomic
  repeat' first
    | with_reducible assumption | with_reducible refine State.writeAt_live ?_ _ _ | with_reducible refine State.fresh_live ?_
    | with_reducible refine State.mapSeat_live ?_ _ _ | with_reducible refine State.mapOp_live ?_ _ _ | with_reducible refine State.train_live ?_ _ _
    | with_reducible refine live_foldl ?_ (fun _ _ _ => ?_) | dsimp only | split
theorem State.doHeat_live {lv : Bool} {s : State} (h : LiveIs lv s) (r : Req) : LiveIs lv (State.doHeat s r) := by
  unfold State.doHeat
  repeat' first
    | with_reducible assumption | with_reducible refine State.storeTags_live ?_ _
    | fail_if_no_progress (with_reducible refine live_mk ?_; (try dsimp only); with_reducible refine live_cur ?_) | dsimp only | split
theorem State.doAlight_live {lv : Bool} {s : State} (h : LiveIs lv s) (r : Req) : LiveIs lv (State.doAlight s r) := by
  unfold State.doAlight
  repeat' first
    | with_reducible assumption | with_reducible refine State.writeAt_live ?_ _ _ | with_reducible refine State.mapOp_live ?_ _ _
    | with_reducible refine State.once_live ?_ _ _ | with_reducible refine State.storeTags_live ?_ _ | dsimp only | split
theorem State.performOne_live {lv : Bool} {s : State} (h : LiveIs lv s) (r : Req) : LiveIs lv (State.performOne s r) := by
  unfold State.performOne
  repeat' first
    | with_reducible assumption | with_reducible refine State.mapReq_live ?_ _ _ | with_reducible refine State.doLoad_live ?_ _
    | with_reducible refine State.doStore_live ?_ _ | with_reducible refine State.doAtomic_live ?_ _ | with_reducible refine State.doHeat_live ?_ _
    | with_reducible refine State.doAlight_live ?_ _
    | fail_if_no_progress (with_reducible refine live_mk ?_; (try dsimp only); with_reducible refine live_cur ?_) | dsimp only | split
theorem State.resumeOrdered_live {lv : Bool} {s : State} (h : LiveIs lv s)  : LiveIs lv (State.resumeOrdered s) := by
  unfold State.resumeOrdered
  repeat' first
    | with_reducible assumption | with_reducible refine State.schedule_live ?_ _ | with_reducible refine live_foldl ?_ (fun _ _ _ => ?_)
theorem State.performNow_live {lv : Bool} {s : State} (h : LiveIs lv s) (r : Req) : LiveIs lv (State.performNow s r) := by
  unfold State.performNow
  repeat' first
    | with_reducible assumption | with_reducible refine State.wakeReleases_live ?_ _ _ | with_reducible refine State.checkOp_live ?_ _
    | with_reducible refine State.performOne_live ?_ _ | with_reducible refine State.resumeOrdered_live ?_
    | with_reducible refine live_foldl ?_ (fun _ _ _ => ?_) | dsimp only | split
theorem State.send_live {lv : Bool} {s : State} (h : LiveIs lv s) (r : Req) : LiveIs lv (State.send s r) := by
  unfold State.send
  repeat' first
    | with_reducible assumption | with_reducible refine State.at_live ?_ _ _ | with_reducible refine State.now_live ?_ _
    | with_reducible refine State.fresh_live ?_ | with_reducible refine State.mapSeat_live ?_ _ _ | with_reducible refine State.mapReq_live ?_ _ _
    | with_reducible refine State.schedule_live ?_ _ | with_reducible refine State.performNow_live ?_ _ | dsimp only | split
theorem State.releaseHeld_live {lv : Bool} {s : State} (h : LiveIs lv s) (team : Nat) (gid : Nat) : LiveIs lv (State.releaseHeld s team gid) := by
  unfold State.releaseHeld
  repeat' first
    | with_reducible assumption | with_reducible refine State.send_live ?_ _ | with_reducible refine live_foldl ?_ (fun _ _ _ => ?_) | split
theorem State.perform_live {lv : Bool} {s : State} (h : LiveIs lv s) (r : Req) : LiveIs lv (State.perform s r) := by
  unfold State.perform
  repeat' first
    | with_reducible assumption | with_reducible refine State.performNow_live ?_ _ | with_reducible refine State.releaseHeld_live ?_ _ _ | dsimp only
    | split
theorem State.request_live {lv : Bool} {s : State} (h : LiveIs lv s) (r : Req) (k : Nat) : LiveIs lv (State.request s r k) := by
  unfold State.request
  repeat' first
    | with_reducible assumption | with_reducible refine State.at_live ?_ _ _ | with_reducible refine State.fresh_live ?_
    | with_reducible refine State.send_live ?_ _
    | fail_if_no_progress (with_reducible refine live_mk ?_; (try dsimp only); with_reducible refine live_cur ?_) | dsimp only | split
theorem State.raiseHeat_live {lv : Bool} {s : State} (h : LiveIs lv s) (seat : Nat) (core : Nat) (leafAddr : Nat) (write : Bool) : LiveIs lv (State.raiseHeat s seat core leafAddr write) := by
  unfold State.raiseHeat
  repeat' first
    | with_reducible assumption | with_reducible refine State.request_live ?_ _ _
theorem State.goOn_live {lv : Bool} {s : State} (h : LiveIs lv s) (r : Req) (hops : List (Struct × Nat)) : LiveIs lv (State.goOn s r hops) := by
  unfold State.goOn
  repeat' first
    | with_reducible assumption | with_reducible refine State.at_live ?_ _ _ | with_reducible refine State.mapReq_live ?_ _ _
    | with_reducible refine State.schedule_live ?_ _ | dsimp only | split
theorem State.arriveVisit_live {lv : Bool} {s : State} (h : LiveIs lv s) (r : Req) : LiveIs lv (State.arriveVisit s r) := by
  unfold State.arriveVisit
  repeat' first
    | with_reducible assumption | with_reducible refine State.mapReq_live ?_ _ _
theorem State.visitSlice_live {lv : Bool} {s : State} (h : LiveIs lv s) (r : Req) (rest : List (Struct × Nat)) : LiveIs lv (State.visitSlice s r rest) := by
  unfold State.visitSlice
  repeat' first
    | with_reducible assumption | with_reducible refine State.goOn_live ?_ _ _ | with_reducible refine State.arriveVisit_live ?_ _ | split
theorem State.atSlice_live {lv : Bool} {s : State} (h : LiveIs lv s) (r : Req) (rest : List (Struct × Nat)) : LiveIs lv (State.atSlice s r rest) := by
  unfold State.atSlice
  repeat' first
    | with_reducible assumption | with_reducible refine State.now_live ?_ _ | with_reducible refine State.fresh_live ?_
    | with_reducible refine State.mapSeat_live ?_ _ _ | with_reducible refine State.mapReq_live ?_ _ _
    | with_reducible refine State.schedule_live ?_ _ | with_reducible refine State.performOne_live ?_ _
    | with_reducible refine State.perform_live ?_ _ | with_reducible refine State.goOn_live ?_ _ _
    | fail_if_no_progress (with_reducible refine live_mk ?_; (try dsimp only); with_reducible refine live_cur ?_) | dsimp only | split
theorem State.atDram_live {lv : Bool} {s : State} (h : LiveIs lv s) (r : Req) (rest : List (Struct × Nat)) : LiveIs lv (State.atDram s r rest) := by
  unfold State.atDram
  repeat' first
    | with_reducible assumption | with_reducible refine State.now_live ?_ _ | with_reducible refine State.fresh_live ?_
    | with_reducible refine State.mapSeat_live ?_ _ _ | with_reducible refine State.performOne_live ?_ _
    | with_reducible refine State.perform_live ?_ _ | with_reducible refine State.goOn_live ?_ _ _ | dsimp only | split
theorem State.atLink_live {lv : Bool} {s : State} (h : LiveIs lv s) (r : Req) : LiveIs lv (State.atLink s r) := by
  unfold State.atLink
  repeat' first
    | with_reducible assumption | with_reducible refine State.at_live ?_ _ _ | with_reducible refine State.draw_live ?_
    | with_reducible refine State.mapReq_live ?_ _ _ | with_reducible refine State.resumeOrdered_live ?_
    | with_reducible refine State.perform_live ?_ _ | split
theorem State.linkDone_live {lv : Bool} {s : State} (h : LiveIs lv s) (r : Req) : LiveIs lv (State.linkDone s r) := by
  unfold State.linkDone
  repeat' first
    | with_reducible assumption | with_reducible refine State.waitDone_live ?_ _ _ _ | with_reducible refine live_foldl ?_ (fun _ _ _ => ?_)
    | dsimp only | split
theorem State.serve_live {lv : Bool} {s : State} (h : LiveIs lv s) (r : Req) : LiveIs lv (State.serve s r) := by
  unfold State.serve
  repeat' first
    | with_reducible assumption | with_reducible refine State.mapReq_live ?_ _ _ | with_reducible refine State.goOn_live ?_ _ _
    | with_reducible refine State.arriveVisit_live ?_ _ | with_reducible refine State.visitSlice_live ?_ _ _
    | with_reducible refine State.atSlice_live ?_ _ _ | with_reducible refine State.atDram_live ?_ _ _ | with_reducible refine State.atLink_live ?_ _
    | split
theorem State.claimSlice_live {lv : Bool} {s : State} (h : LiveIs lv s) (a : Nat) : LiveIs lv (State.claimSlice s a) := by
  unfold State.claimSlice
  repeat' first
    | with_reducible assumption | fail_if_no_progress (with_reducible refine live_mk ?_; (try dsimp only); with_reducible refine live_cur ?_)
    | dsimp only | split
theorem State.spend_live {lv : Bool} {s : State} (h : LiveIs lv s) (st : Struct) : LiveIs lv (State.spend s st) := by
  unfold State.spend
  repeat' first
    | with_reducible assumption | fail_if_no_progress (with_reducible refine live_mk ?_; (try dsimp only); with_reducible refine live_cur ?_)
theorem State.throughError_live {lv : Bool} {s : State} (h : LiveIs lv s) (r : Req) (st : Struct) : LiveIs lv (State.throughError s r st).2 := by
  unfold State.throughError
  repeat' first
    | with_reducible assumption | with_reducible refine State.now_live ?_ _ | with_reducible refine State.logEvent_live ?_ _ _ _ _ _ _ _ _
    | with_reducible refine State.mapReq_live ?_ _ _ | with_reducible refine State.schedule_live ?_ _ | dsimp only | split
theorem State.position_live {lv : Bool} {s : State} (h : LiveIs lv s) (st : Struct) : LiveIs lv (State.position s st) := by
  unfold State.position
  repeat' first
    | with_reducible assumption | with_reducible refine State.schedule_live ?_ _ | with_reducible refine State.serve_live ?_ _
    | with_reducible refine State.spend_live ?_ _ | with_reducible refine State.throughError_live ?_ _ _
    | with_reducible refine live_foldl ?_ (fun _ _ _ => ?_) | dsimp only | split

/-! ### Machine/Access.lean -/

theorem State.mapWalk_live {lv : Bool} {s : State} (h : LiveIs lv s) (id : Nat) (f : Walk → Walk) : LiveIs lv (State.mapWalk s id f) := by
  unfold State.mapWalk
  repeat' first
    | with_reducible assumption | fail_if_no_progress (with_reducible refine live_mk ?_; (try dsimp only); with_reducible refine live_cur ?_)
theorem State.readEntry_live {lv : Bool} {s : State} (h : LiveIs lv s) (w : Walk) : LiveIs lv (State.readEntry s w) := by
  unfold State.readEntry
  repeat' first
    | with_reducible assumption | with_reducible refine State.request_live ?_ _ _
theorem State.startWalks_live {lv : Bool} {s : State} (h : LiveIs lv s) (seat : Nat) (core : Nat) : LiveIs lv (State.startWalks s seat core) := by
  unfold State.startWalks
  repeat' first
    | with_reducible assumption | with_reducible refine State.mapWalk_live ?_ _ _ | with_reducible refine State.readEntry_live ?_ _
    | with_reducible refine live_foldl ?_ (fun _ _ _ => ?_)
theorem State.joinWalk_live {lv : Bool} {s : State} (h : LiveIs lv s) (seat : Nat) (core : Nat) (asid : Nat) (va : Nat) (write : Bool) (ow : FaultOwner) (lanes : LaneMask) : LiveIs lv (State.joinWalk s seat core asid va write ow lanes) := by
  unfold State.joinWalk
  repeat' first
    | with_reducible assumption | with_reducible refine State.fresh_live ?_ | with_reducible refine State.mapWalk_live ?_ _ _
    | with_reducible refine State.startWalks_live ?_ _ _
    | fail_if_no_progress (with_reducible refine live_mk ?_; (try dsimp only); with_reducible refine live_cur ?_) | dsimp only | split
theorem State.countAccess_live {lv : Bool} {s : State} (h : LiveIs lv s) (seat : Nat) (core : Nat) (asid : Nat) (va : Nat) (write : Bool) : LiveIs lv (State.countAccess s seat core asid va write) := by
  unfold State.countAccess
  repeat' first
    | with_reducible assumption | with_reducible refine State.fresh_live ?_ | with_reducible refine State.mapSeat_live ?_ _ _
    | with_reducible refine State.raiseHeat_live ?_ _ _ _ _ | dsimp only | split
theorem State.chargeOp_live {lv : Bool} {s : State} (h : LiveIs lv s) (o : Op) (ow : FaultOwner) (event : Nat) (c : Nat) (va : Nat) : LiveIs lv (State.chargeOp s o ow event c va) := by
  unfold State.chargeOp
  repeat' first
    | with_reducible assumption | with_reducible refine State.mapSeat_live ?_ _ _ | with_reducible refine State.charge_live ?_ _ _ _ | split
theorem State.sendLanes_live {lv : Bool} {s : State} (h : LiveIs lv s) (id : Nat) (pages : List (Nat × Page)) (asid : Nat) (tlb : Nat → Bool) (walk : Nat) (fills : Bool) : LiveIs lv (State.sendLanes s id pages asid tlb walk fills) := by
  unfold State.sendLanes
  repeat' first
    | with_reducible assumption | with_reducible refine State.mapOp_live ?_ _ _ | with_reducible refine State.request_live ?_ _ _
    | with_reducible refine State.countAccess_live ?_ _ _ _ _ _ | with_reducible refine State.chargeOp_live ?_ _ _ _ _ _
    | with_reducible refine live_foldl ?_ (fun _ _ _ => ?_) | dsimp only | split
theorem State.refuse_live {lv : Bool} {s : State} (h : LiveIs lv s) (id : Nat) (m : LaneMask) : LiveIs lv (State.refuse s id m) := by
  unfold State.refuse
  repeat' first
    | with_reducible assumption | with_reducible refine State.mapOp_live ?_ _ _ | with_reducible refine State.enterLog_live ?_ _ | split
theorem State.recordFault_live {lv : Bool} {s : State} (h : LiveIs lv s) (seat : Nat) (asid : Nat) (va : Nat) (write : Bool) (fetch : Bool) (ow : FaultOwner) : LiveIs lv (State.recordFault s seat asid va write fetch ow) := by
  unfold State.recordFault
  repeat' first
    | with_reducible assumption | with_reducible refine State.at_live ?_ _ _ | with_reducible refine State.fresh_live ?_
    | with_reducible refine State.draw_live ?_
    | fail_if_no_progress (with_reducible refine live_mk ?_; (try dsimp only); with_reducible refine live_cur ?_) | dsimp only | split
theorem State.faultLanes_live {lv : Bool} {s : State} (h : LiveIs lv s) (id : Nat) (m : LaneMask) (asid : Nat) (va : Nat) : LiveIs lv (State.faultLanes s id m asid va) := by
  unfold State.faultLanes
  repeat' first
    | with_reducible assumption | with_reducible refine State.mapOp_live ?_ _ _ | with_reducible refine State.enterLog_live ?_ _
    | with_reducible refine State.chargeOp_live ?_ _ _ _ _ _ | with_reducible refine State.recordFault_live ?_ _ _ _ _ _ _ | dsimp only | split
theorem State.translate_live {lv : Bool} {s : State} (h : LiveIs lv s) (id : Nat) (lanes : LaneMask) : LiveIs lv (State.translate s id lanes) := by
  unfold State.translate
  repeat' first
    | with_reducible assumption | with_reducible refine State.mapOp_live ?_ _ _ | with_reducible refine State.joinWalk_live ?_ _ _ _ _ _ _ _
    | with_reducible refine State.sendLanes_live ?_ _ _ _ _ _ _ | with_reducible refine State.refuse_live ?_ _ _
    | with_reducible refine live_foldl ?_ (fun _ _ _ => ?_) | dsimp only | split
theorem State.answerLanes_live {lv : Bool} {s : State} (h : LiveIs lv s) (id : Nat) (m : LaneMask) (asid : Nat) (level : Nat) (w : W64) (walk : Nat) (fills : Bool) : LiveIs lv (State.answerLanes s id m asid level w walk fills) := by
  unfold State.answerLanes
  repeat' first
    | with_reducible assumption | with_reducible refine State.sendLanes_live ?_ _ _ _ _ _ _ | with_reducible refine State.refuse_live ?_ _ _
    | dsimp only | split
theorem State.placeOp_live {lv : Bool} {s : State} (h : LiveIs lv s) (o : Op) : LiveIs lv (State.placeOp s o).2 := by
  unfold State.placeOp
  repeat' first
    | with_reducible assumption | with_reducible refine State.onGroup_live ?_ _ | with_reducible refine State.launchOp_live ?_ _ | dsimp only | split
theorem State.pend_live {lv : Bool} {s : State} (h : LiveIs lv s) (id : Nat) (keys : List Nat) : LiveIs lv (State.pend s id keys) := by
  unfold State.pend
  repeat' first
    | with_reducible assumption | with_reducible refine State.onGroup_live ?_ _
theorem State.launchGlobal_live {lv : Bool} {s : State} (h : LiveIs lv s) (o : Op) : LiveIs lv (State.launchGlobal s o) := by
  unfold State.launchGlobal
  repeat' first
    | with_reducible assumption | with_reducible refine State.checkOp_live ?_ _ | with_reducible refine State.translate_live ?_ _ _
    | with_reducible refine State.placeOp_live ?_ _ | with_reducible refine State.pend_live ?_ _ _ | dsimp only | split

/-! ### Machine/Local.lean -/

theorem State.barWake_live {lv : Bool} {s : State} (h : LiveIs lv s) (team : Nat) : LiveIs lv (State.barWake s team) := by
  unfold State.barWake
  repeat' first
    | with_reducible assumption | with_reducible refine State.once_live ?_ _ _ | with_reducible refine live_foldl ?_ (fun _ _ _ => ?_)
theorem State.barApply_live {lv : Bool} {s : State} (h : LiveIs lv s) (team : Nat) (off : Nat) (u : BarUpd) : LiveIs lv (State.barApply s team off u).2 := by
  unfold State.barApply
  repeat' first
    | with_reducible assumption | with_reducible refine State.anyTeam_live ?_ _ _ | with_reducible refine State.barWake_live ?_ _ | dsimp only | split
theorem State.barBytes_live {lv : Bool} {s : State} (h : LiveIs lv s) (team : Nat) (off : Nat) (credit : Bool) (n : Nat) (never : Bool) : LiveIs lv (State.barBytes s team off credit n never) := by
  unfold State.barBytes
  repeat' first
    | with_reducible assumption | with_reducible refine State.anyTeam_live ?_ _ _ | with_reducible refine State.barWake_live ?_ _
theorem State.touchBars_live {lv : Bool} {s : State} (h : LiveIs lv s) (team : Nat) (sp : Space) : LiveIs lv (State.touchBars s team sp) := by
  unfold State.touchBars
  repeat' first
    | with_reducible assumption | with_reducible refine State.barWake_live ?_ _ | split
theorem State.localLanes_live {lv : Bool} {s : State} (h : LiveIs lv s) (id : Nat) (m : LaneMask) : LiveIs lv (State.localLanes s id m) := by
  unfold State.localLanes
  repeat' first
    | with_reducible assumption | with_reducible refine State.mapOp_live ?_ _ _ | with_reducible refine State.anyTeam_live ?_ _ _
    | with_reducible refine State.touchBars_live ?_ _ _ | dsimp only | split
theorem State.settleLocal_live {lv : Bool} {s : State} (h : LiveIs lv s) (team : Nat) (gid : Nat) (id : Nat) (sp : Space) (ranges : List (Nat × Nat)) : LiveIs lv (State.settleLocal s team gid id sp ranges) := by
  unfold State.settleLocal
  repeat' first
    | with_reducible assumption | with_reducible refine State.localLanes_live ?_ _ _ | with_reducible refine live_foldl ?_ (fun _ _ _ => ?_)
theorem State.performLocal_live {lv : Bool} {s : State} (h : LiveIs lv s) (o : Op) (m : LaneMask) : LiveIs lv (State.performLocal s o m) := by
  unfold State.performLocal
  repeat' first
    | with_reducible assumption | with_reducible refine State.wakeReleases_live ?_ _ _ | with_reducible refine State.localLanes_live ?_ _ _
    | with_reducible refine State.settleLocal_live ?_ _ _ _ _ _
theorem State.serveRows_live {lv : Bool} {s : State} (h : LiveIs lv s) (id : Nat) (k : Nat) : LiveIs lv (State.serveRows s id k) := by
  unfold State.serveRows
  repeat' first
    | with_reducible assumption | with_reducible refine State.at_live ?_ _ _ | with_reducible refine State.landOp_live ?_ _
    | with_reducible refine State.performLocal_live ?_ _ _ | dsimp only | split
theorem State.takePort_live {lv : Bool} {s : State} (h : LiveIs lv s) (core : Nat) (seat : Nat) (sp : Space) (c : Nat) : LiveIs lv (State.takePort s core seat sp c) := by
  unfold State.takePort
  repeat' first
    | with_reducible assumption | fail_if_no_progress (with_reducible refine live_mk ?_; (try dsimp only); with_reducible refine live_cur ?_)
theorem State.readColumn_live {lv : Bool} {s : State} (h : LiveIs lv s) (o : Op) (m : Mx) (k : Nat) : LiveIs lv (State.readColumn s o m k) := by
  unfold State.readColumn
  repeat' first
    | with_reducible assumption | fail_if_no_progress (with_reducible refine live_mk ?_; (try dsimp only); with_reducible refine live_cur ?_)
    | dsimp only | split
theorem State.servePort_live {lv : Bool} {s : State} (h : LiveIs lv s) (id : Nat) (k : Nat) : LiveIs lv (State.servePort s id k) := by
  unfold State.servePort
  repeat' first
    | with_reducible assumption | with_reducible refine State.at_live ?_ _ _ | with_reducible refine State.now_live ?_ _
    | with_reducible refine State.landOp_live ?_ _ | with_reducible refine State.performLocal_live ?_ _ _
    | with_reducible refine State.takePort_live ?_ _ _ _ _ | with_reducible refine State.readColumn_live ?_ _ _ _ | dsimp only | split
theorem State.takeReads_live {lv : Bool} {s : State} (h : LiveIs lv s) (team : Nat) (j : Nat) : LiveIs lv (State.takeReads s team j) := by
  unfold State.takeReads
  repeat' first
    | with_reducible assumption | with_reducible refine State.localLanes_live ?_ _ _ | with_reducible refine live_foldl ?_ (fun _ _ _ => ?_)
    | dsimp only | split
theorem State.wakeScratch_live {lv : Bool} {s : State} (h : LiveIs lv s) (team : Nat) (j : Nat) (target : BankState) : LiveIs lv (State.wakeScratch s team j target) := by
  unfold State.wakeScratch
  repeat' first
    | with_reducible assumption | with_reducible refine State.at_live ?_ _ _ | with_reducible refine State.anyTeam_live ?_ _ _ | dsimp only | split
theorem State.setScratch_live {lv : Bool} {s : State} (h : LiveIs lv s) (team : Nat) (j : Nat) (c : BankCode) : LiveIs lv (State.setScratch s team j c) := by
  unfold State.setScratch
  repeat' first
    | with_reducible assumption | with_reducible refine State.anyTeam_live ?_ _ _ | with_reducible refine State.takeReads_live ?_ _ _
    | with_reducible refine State.wakeScratch_live ?_ _ _ _ | dsimp only | split
theorem State.setBank_live {lv : Bool} {s : State} (h : LiveIs lv s) (b : Nat) (c : BankCode) : LiveIs lv (State.setBank s b c) := by
  unfold State.setBank
  repeat' first
    | with_reducible assumption | with_reducible refine State.onGroup_live ?_ _ | with_reducible refine State.at_live ?_ _ _ | dsimp only | split
theorem State.endWake_live {lv : Bool} {s : State} (h : LiveIs lv s) (team : Nat) (gid : Option Nat) (b : Nat) : LiveIs lv (State.endWake s team gid b) := by
  unfold State.endWake
  repeat' first
    | with_reducible assumption | with_reducible refine State.mapTeam_live ?_ _ _ | with_reducible refine State.mapGroup_live ?_ _ _ _ | split

/-! ### Machine/Memory.lean -/

theorem State.launchLocal_live {lv : Bool} {s : State} (h : LiveIs lv s) (o : Op) : LiveIs lv (State.launchLocal s o) := by
  unfold State.launchLocal
  repeat' first
    | with_reducible assumption | with_reducible refine State.at_live ?_ _ _ | with_reducible refine State.placeOp_live ?_ _
    | with_reducible refine State.pend_live ?_ _ _ | with_reducible refine State.wakeScratch_live ?_ _ _ _
    | with_reducible refine live_foldl ?_ (fun _ _ _ => ?_) | dsimp only | split
theorem vectorAccess_live {lv : Bool} {s : State} (h : LiveIs lv s) (i : Instr) (sp : Space) (n : Nat) (reads : Bool) (f : State → Nat → Int) (mk : State → Op) : OutLive lv (vectorAccess i sp n reads f mk s) := by
  unfold vectorAccess
  repeat' first
    | with_reducible assumption | (with_reducible intro t ht) | with_reducible refine exLive_ok ?_ | with_reducible exact exLive_error
    | with_reducible refine runWord_live ?_ _ _ ?_ | with_reducible refine State.launchGlobal_live ?_ _
    | with_reducible refine State.launchLocal_live ?_ _ | dsimp only | split
theorem vectorLoad_live {lv : Bool} {s : State} (h : LiveIs lv s) (i : Instr) (sp : Space) (signed : Bool) (d : VReg) (b : SReg) (o : VReg) (w : Width) : OutLive lv (vectorLoad i sp signed d b o w s) := by
  unfold vectorLoad
  repeat' first
    | with_reducible assumption | with_reducible refine vectorAccess_live ?_ _ _ _ _ _ _
theorem vectorStore_live {lv : Bool} {s : State} (h : LiveIs lv s) (i : Instr) (sp : Space) (d : VReg) (b : SReg) (o : VReg) (w : Width) : OutLive lv (vectorStore i sp d b o w s) := by
  unfold vectorStore
  repeat' first
    | with_reducible assumption | with_reducible refine vectorAccess_live ?_ _ _ _ _ _ _
theorem execVldZ_live {lv : Bool} {s : State} (hwf : LiveIs lv s) (d : VReg) (b : SReg) (o : VReg) (w : Width) (h : Hint) : OutLive lv (execVldZ d b o w h s) := by
  unfold execVldZ
  repeat' first
    | with_reducible assumption | with_reducible refine vectorLoad_live ?_ _ _ _ _ _ _ _
theorem execVldS_live {lv : Bool} {s : State} (hwf : LiveIs lv s) (d : VReg) (b : SReg) (o : VReg) (w : Width) (h : Hint) : OutLive lv (execVldS d b o w h s) := by
  unfold execVldS
  repeat' first
    | with_reducible assumption | with_reducible refine vectorLoad_live ?_ _ _ _ _ _ _ _
theorem execVst_live {lv : Bool} {s : State} (hwf : LiveIs lv s) (d : VReg) (b : SReg) (o : VReg) (w : Width) (h : Hint) : OutLive lv (execVst d b o w h s) := by
  unfold execVst
  repeat' first
    | with_reducible assumption | with_reducible refine vectorStore_live ?_ _ _ _ _ _ _
theorem execVlds_live {lv : Bool} {s : State} (h : LiveIs lv s) (d : VReg) (b : SReg) (o : VReg) (w : Width) : OutLive lv (execVlds d b o w s) := by
  unfold execVlds
  repeat' first
    | with_reducible assumption | with_reducible refine vectorLoad_live ?_ _ _ _ _ _ _ _
theorem execVsts_live {lv : Bool} {s : State} (h : LiveIs lv s) (d : VReg) (b : SReg) (o : VReg) (w : Width) : OutLive lv (execVsts d b o w s) := by
  unfold execVsts
  repeat' first
    | with_reducible assumption | with_reducible refine vectorStore_live ?_ _ _ _ _ _ _
theorem execVlda_live {lv : Bool} {s : State} (h : LiveIs lv s) (d : VReg) (b : SReg) (o : VReg) (w : Width) : OutLive lv (execVlda d b o w s) := by
  unfold execVlda
  repeat' first
    | with_reducible assumption | with_reducible refine vectorLoad_live ?_ _ _ _ _ _ _ _
theorem execVsta_live {lv : Bool} {s : State} (h : LiveIs lv s) (d : VReg) (b : SReg) (o : VReg) (w : Width) : OutLive lv (execVsta d b o w s) := by
  unfold execVsta
  repeat' first
    | with_reducible assumption | with_reducible refine vectorStore_live ?_ _ _ _ _ _ _
theorem execVldx_live {lv : Bool} {s : State} (h : LiveIs lv s) (d : VReg) (b : SReg) (o : VReg) (w : Bool) : OutLive lv (execVldx d b o w s) := by
  unfold execVldx
  repeat' first
    | with_reducible assumption | with_reducible refine vectorLoad_live ?_ _ _ _ _ _ _ _
theorem scalarAccess_live {lv : Bool} {s : State} (h : LiveIs lv s) (i : Instr) (n : Nat) (a : State → Int) (mk : State → Op) : OutLive lv (scalarAccess i n a mk s) := by
  unfold scalarAccess
  repeat' first
    | with_reducible assumption | (with_reducible intro t ht) | with_reducible refine exLive_ok ?_ | with_reducible exact exLive_error
    | with_reducible refine runWord_live ?_ _ _ ?_ | with_reducible refine State.launchGlobal_live ?_ _ | dsimp only | split
theorem scalarLoad_live {lv : Bool} {s : State} (h : LiveIs lv s) (i : Instr) (d : SReg) (b : SReg) (e : BitVec 12) (n : Nat) : OutLive lv (scalarLoad i d b e n s) := by
  unfold scalarLoad
  repeat' first
    | with_reducible assumption | with_reducible refine scalarAccess_live ?_ _ _ _ _
theorem scalarStore_live {lv : Bool} {s : State} (h : LiveIs lv s) (i : Instr) (d : SReg) (b : SReg) (e : BitVec 12) (n : Nat) : OutLive lv (scalarStore i d b e n s) := by
  unfold scalarStore
  repeat' first
    | with_reducible assumption | with_reducible refine scalarAccess_live ?_ _ _ _ _
theorem execSld_live {lv : Bool} {s : State} (h : LiveIs lv s) (d : SReg) (b : SReg) (e : BitVec 12) : OutLive lv (execSld d b e s) := by
  unfold execSld
  repeat' first
    | with_reducible assumption | with_reducible refine scalarLoad_live ?_ _ _ _ _ _
theorem execSlw_live {lv : Bool} {s : State} (h : LiveIs lv s) (d : SReg) (b : SReg) (e : BitVec 12) : OutLive lv (execSlw d b e s) := by
  unfold execSlw
  repeat' first
    | with_reducible assumption | with_reducible refine scalarLoad_live ?_ _ _ _ _ _
theorem execSst_live {lv : Bool} {s : State} (h : LiveIs lv s) (d : SReg) (b : SReg) (e : BitVec 12) : OutLive lv (execSst d b e s) := by
  unfold execSst
  repeat' first
    | with_reducible assumption | with_reducible refine scalarStore_live ?_ _ _ _ _ _
theorem execSsw_live {lv : Bool} {s : State} (h : LiveIs lv s) (d : SReg) (b : SReg) (e : BitVec 12) : OutLive lv (execSsw d b e s) := by
  unfold execSsw
  repeat' first
    | with_reducible assumption | with_reducible refine scalarStore_live ?_ _ _ _ _ _
theorem vectorAtomic_live {lv : Bool} {s : State} (h : LiveIs lv s) (i : Instr) (sp : Space) (d : VReg) (p : AOp) (sc : Scope) (r : Ord) (returns : Bool) (f : State → Nat → Int) : OutLive lv (vectorAtomic i sp d p sc r returns f s) := by
  unfold vectorAtomic
  repeat' first
    | with_reducible assumption | with_reducible refine vectorAccess_live ?_ _ _ _ _ _ _
theorem execVatom_live {lv : Bool} {s : State} (h : LiveIs lv s) (d : VReg) (a : VReg) (p : AOp) (sc : Scope) (r : Ord) : OutLive lv (execVatom d a p sc r s) := by
  unfold execVatom
  repeat' first
    | with_reducible assumption | with_reducible refine vectorAtomic_live ?_ _ _ _ _ _ _ _ _
theorem execVmred_live {lv : Bool} {s : State} (h : LiveIs lv s) (d : VReg) (a : VReg) (p : RedOp) (sc : Scope) (r : Ord) : OutLive lv (execVmred d a p sc r s) := by
  unfold execVmred
  repeat' first
    | with_reducible assumption | with_reducible refine vectorAtomic_live ?_ _ _ _ _ _ _ _ _
theorem execVatoms_live {lv : Bool} {s : State} (h : LiveIs lv s) (d : VReg) (a : VReg) (p : AOp) (sc : Scope) (r : Ord) : OutLive lv (execVatoms d a p sc r s) := by
  unfold execVatoms
  repeat' first
    | with_reducible assumption | with_reducible refine vectorAtomic_live ?_ _ _ _ _ _ _ _ _
theorem execSatom_live {lv : Bool} {s : State} (h : LiveIs lv s) (d : SReg) (a : SReg) (b : SReg) (p : AOp) (r : Ord) : OutLive lv (execSatom d a b p r s) := by
  unfold execSatom
  repeat' first
    | with_reducible assumption | with_reducible refine scalarAccess_live ?_ _ _ _ _

/-! ### Machine/Sync.lean -/

theorem execFence_live {lv : Bool} {s : State} (h : LiveIs lv s) (u : Bool) (r : FOrd) (sc : Scope) : OutLive lv (execFence u r sc s) := by
  unfold execFence
  repeat' first
    | with_reducible assumption | (with_reducible intro t ht) | with_reducible refine State.onGroup_live ?_ _
    | with_reducible refine runPure_live ?_ _ _ ?_
theorem State.settled_live {lv : Bool} {s : State} (h : LiveIs lv s) (l : List (Nat × Nat)) : LiveIs lv (State.settled s l) := by
  unfold State.settled
  repeat' first
    | with_reducible assumption | with_reducible refine State.settleLocal_live ?_ _ _ _ _ _
theorem State.barWord_live {lv : Bool} {s : State} (h : LiveIs lv s) (off : Nat) (u : BarUpd) (rel : Bool) (sc : Scope) : ExLive lv (State.barWord s off u rel sc) := by
  unfold State.barWord
  repeat' first
    | with_reducible assumption | with_reducible refine exLive_ok ?_ | with_reducible exact exLive_error
    | with_reducible refine State.onGroup_live ?_ _ | with_reducible refine State.launchOp_live ?_ _
    | with_reducible refine live_ofPair (State.barApply_live ?_ _ _ _) (by assumption) | dsimp only | split
theorem barrierWord_live {lv : Bool} {s : State} (h : LiveIs lv s) (i : Instr) (a : SReg) (valid : Bool) (f : State → Nat → Except TrapReq State)
    (hf : ∀ s n, LiveIs lv s → ExLive lv (f s n)) : OutLive lv (barrierWord i a valid f s) := by
  unfold barrierWord
  refine runWord_live h _ _ fun t ht => ?_
  have hs := State.settled_live ht [(barOff t a, 16)]
  dsimp only
  split
  · exact exLive_error
  · exact hf _ _ hs
theorem execBarInit_live {lv : Bool} {s : State} (h : LiveIs lv s) (b : SReg) (e : SReg) : OutLive lv (execBarInit b e s) := by
  unfold execBarInit
  repeat' first
    | with_reducible assumption | with_reducible exact exLive_error | with_reducible refine State.barWord_live ?_ _ _ _ _
    | with_reducible refine barrierWord_live ?_ _ _ _ _ (fun _ _ _ => ?_) | split
theorem execBarExpect_live {lv : Bool} {s : State} (h : LiveIs lv s) (b : SReg) (e : SReg) : OutLive lv (execBarExpect b e s) := by
  unfold execBarExpect
  repeat' first
    | with_reducible assumption | with_reducible refine State.barWord_live ?_ _ _ _ _
    | with_reducible refine barrierWord_live ?_ _ _ _ _ (fun _ _ _ => ?_)
theorem execBarArrive_live {lv : Bool} {s : State} (h : LiveIs lv s) (b : SReg) (p : Scope) (o : Bool) : OutLive lv (execBarArrive b p o s) := by
  unfold execBarArrive
  repeat' first
    | with_reducible assumption | with_reducible refine State.barWord_live ?_ _ _ _ _
    | with_reducible refine barrierWord_live ?_ _ _ _ _ (fun _ _ _ => ?_)
theorem execBarArriveExp_live {lv : Bool} {s : State} (h : LiveIs lv s) (b : SReg) (e : SReg) (p : Scope) (o : Bool) : OutLive lv (execBarArriveExp b e p o s) := by
  unfold execBarArriveExp
  repeat' first
    | with_reducible assumption | with_reducible refine State.barWord_live ?_ _ _ _ _
    | with_reducible refine barrierWord_live ?_ _ _ _ _ (fun _ _ _ => ?_)
theorem execBarWait_live {lv : Bool} {s : State} (h : LiveIs lv s) (b : SReg) (e : SReg) (p : Scope) (o : Bool) : OutLive lv (execBarWait b e p o s) := by
  unfold execBarWait
  repeat' first
    | with_reducible assumption | with_reducible refine exLive_ok ?_ | with_reducible refine State.block_live ?_ _
    | with_reducible refine barrierWord_live ?_ _ _ _ _ (fun _ _ _ => ?_) | split
theorem State.askBar_live {lv : Bool} {s : State} (h : LiveIs lv s) (off : Nat) (u : BarUpd) (acq : Bool) (e : SReg) : LiveIs lv (State.askBar s off u acq e) := by
  unfold State.askBar
  repeat' first
    | with_reducible assumption | with_reducible refine State.launchOp_live ?_ _ | with_reducible refine State.pend_live ?_ _ _
theorem execBarTest_live {lv : Bool} {s : State} (h : LiveIs lv s) (b : SReg) (e : SReg) (p : Scope) (o : Bool) : OutLive lv (execBarTest b e p o s) := by
  unfold execBarTest
  repeat' first
    | with_reducible assumption | with_reducible refine exLive_ok ?_ | with_reducible refine State.onGroup_live ?_ _
    | with_reducible refine State.wS_live ?_ _ _ | with_reducible refine State.launchOp_live ?_ _ | with_reducible refine State.pend_live ?_ _ _
    | with_reducible refine barrierWord_live ?_ _ _ _ _ (fun _ _ _ => ?_) | with_reducible refine State.askBar_live ?_ _ _ _ _ | dsimp only | split
theorem execBarPhase_live {lv : Bool} {s : State} (h : LiveIs lv s) (b : SReg) (e : SReg) : OutLive lv (execBarPhase b e s) := by
  unfold execBarPhase
  repeat' first
    | with_reducible assumption | with_reducible refine exLive_ok ?_ | with_reducible refine State.wS_live ?_ _ _
    | with_reducible refine barrierWord_live ?_ _ _ _ _ (fun _ _ _ => ?_) | with_reducible refine State.askBar_live ?_ _ _ _ _ | split
theorem State.resumeWaits_live {lv : Bool} {s : State} (h : LiveIs lv s) (team : Nat) : LiveIs lv (State.resumeWaits s team) := by
  unfold State.resumeWaits
  repeat' first
    | with_reducible assumption | with_reducible refine State.mapTeam_live ?_ _ _
theorem execWaitc_live {lv : Bool} {s : State} (h : LiveIs lv s) (l : Fin 16) (st : Fin 16) (cp : Fin 16) (ti : Fin 16) : OutLive lv (execWaitc l st cp ti s) := by
  unfold execWaitc
  repeat' first
    | with_reducible assumption | (with_reducible intro t ht) | with_reducible refine State.onGroup_live ?_ _
    | with_reducible refine State.onSplit_live ?_ _ | with_reducible refine runPure_live ?_ _ _ ?_ | split
theorem execWaitcResume_live {s : State} (h : LiveIs false s)  : OutLive false (execWaitcResume s) := by
  unfold execWaitcResume
  repeat' first
    | with_reducible assumption | with_reducible refine optLive_some ?_ | with_reducible exact optLive_none
    | with_reducible refine State.mapGroup_live ?_ _ _ _ | with_reducible refine runEvent_live _ fun e => ?_ | split
theorem execVbank_live {lv : Bool} {s : State} (h : LiveIs lv s) (m : BitVec 16) (c : BankCode) : OutLive lv (execVbank m c s) := by
  unfold execVbank
  repeat' first
    | with_reducible assumption | (with_reducible intro t ht) | with_reducible refine runPure_live ?_ _ _ ?_
    | with_reducible refine State.setBank_live ?_ _ _ | with_reducible refine live_foldl ?_ (fun _ _ _ => ?_)
theorem execPbank_live {lv : Bool} {s : State} (h : LiveIs lv s) (f : Fin 128) (n : Fin 128) (c : BankCode) : OutLive lv (execPbank f n c s) := by
  unfold execPbank
  repeat' first
    | with_reducible assumption | (with_reducible intro t ht) | with_reducible refine exLive_ok ?_ | with_reducible exact exLive_error
    | with_reducible refine State.onGroup_live ?_ _ | with_reducible refine State.launchOp_live ?_ _ | with_reducible refine runWord_live ?_ _ _ ?_
    | with_reducible refine State.setScratch_live ?_ _ _ _ | with_reducible refine live_foldl ?_ (fun _ _ _ => ?_) | dsimp only | split
theorem State.tryExt_live {lv : Bool} {s : State} (h : LiveIs lv s)  : OptLive lv (State.tryExt s) := by
  unfold State.tryExt
  repeat' first
    | with_reducible assumption | with_reducible refine optLive_some ?_ | with_reducible exact optLive_none
    | with_reducible refine State.onGroup_live ?_ _ | dsimp only | split
theorem execEacq_live {lv : Bool} {s : State} (h : LiveIs lv s)  : OutLive lv (execEacq s) := by
  unfold execEacq
  repeat' first
    | with_reducible assumption | (with_reducible intro t ht) | with_reducible refine State.block_live ?_ _
    | with_reducible refine runPure_live ?_ _ _ ?_ | with_reducible refine optLive_elim (State.tryExt_live ?_) (by assumption) | split
theorem execEacqTry_live {lv : Bool} {s : State} (h : LiveIs lv s) (c : CReg) : OutLive lv (execEacqTry c s) := by
  unfold execEacqTry
  repeat' first
    | with_reducible assumption | (with_reducible intro t ht) | with_reducible refine State.wC_live ?_ _ _
    | with_reducible refine runPure_live ?_ _ _ ?_ | with_reducible refine optLive_elim (State.tryExt_live ?_) (by assumption) | split
theorem execErel_live {lv : Bool} {s : State} (h : LiveIs lv s)  : OutLive lv (execErel s) := by
  unfold execErel
  repeat' first
    | with_reducible assumption | (with_reducible intro t ht) | with_reducible refine State.onGroup_live ?_ _
    | with_reducible refine runPure_live ?_ _ _ ?_ | with_reducible refine State.once_live ?_ _ _ | dsimp only | split
theorem State.grantExt_live {lv : Bool} {s : State} (h : LiveIs lv s) (seat core : Nat) (detect : Bool) (l : List (Nat × Nat × Nat × Nat)) :
    LiveIs lv (s.grantExt seat core detect l) := by
  induction l generalizing s with
  | nil => exact h
  | cons w ws ih =>
    unfold State.grantExt
    dsimp only
    split
    · exact ih (State.mapGroup_live h _ _ _)
    · split
      · exact h
      · exact ih (State.mapGroup_live h _ _ _)
theorem State.grantWaiters_live {lv : Bool} {s : State} (h : LiveIs lv s) (seat : Nat) (core : Nat) (p : Team → Bool) : LiveIs lv (State.grantWaiters s seat core p) := by
  unfold State.grantWaiters
  repeat' first
    | with_reducible assumption | with_reducible refine State.grantExt_live ?_ _ _ _ _
theorem execEacqGrant_live {s : State} (h : LiveIs false s)  : OutLive false (execEacqGrant s) := by
  unfold execEacqGrant
  repeat' first
    | with_reducible assumption | with_reducible refine optLive_some ?_ | with_reducible exact optLive_none
    | with_reducible refine runEvent_live _ fun e => ?_ | with_reducible refine State.grantWaiters_live ?_ _ _ _ | split

end Sys2Proof.Machine
end

