-- ==== Sys2Proof/Laws/LiveEngines.lean ====
section
/-!
SUPPORT. Every operation and meaning of Machine/Matrix, Engines, Ring, Teams and Launch leaves a split in focus or none, as it found it.
-/

namespace Sys2Proof.Machine

open Sys2Proof


/-! ### Machine/Matrix.lean -/

theorem State.setPair_live {lv : Bool} {s : State} (h : LiveIs lv s) (p : PlanePair) : LiveIs lv (State.setPair s p) := by
  unfold State.setPair
  repeat' first
    | with_reducible assumption | fail_if_no_progress (with_reducible refine live_mk ?_; (try dsimp only); with_reducible refine live_cur ?_)
theorem State.wakeQueues_live {lv : Bool} {s : State} (h : LiveIs lv s) (o : Op) : LiveIs lv (State.wakeQueues s o) := by
  unfold State.wakeQueues
  repeat' first
    | with_reducible assumption | with_reducible refine State.once_live ?_ _ _ | with_reducible refine live_foldl ?_ (fun _ _ _ => ?_)
theorem State.startSwap_live {lv : Bool} {s : State} (h : LiveIs lv s) (o : Op) (pair : Nat) : LiveIs lv (State.startSwap s o pair) := by
  unfold State.startSwap
  repeat' first
    | with_reducible assumption | with_reducible refine State.at_live ?_ _ _ | with_reducible refine State.mapOp_live ?_ _ _ | split
theorem State.beginMx_live {lv : Bool} {s : State} (h : LiveIs lv s) (o : Op) (m : Mx) : LiveIs lv (State.beginMx s o m) := by
  unfold State.beginMx
  repeat' first
    | with_reducible assumption | with_reducible refine State.at_live ?_ _ _ | with_reducible refine State.now_live ?_ _
    | with_reducible refine State.fresh_live ?_ | with_reducible refine State.mapOp_live ?_ _ _ | with_reducible refine State.once_live ?_ _ _
    | with_reducible refine State.setPair_live ?_ _ | with_reducible refine State.startSwap_live ?_ _ _
    | fail_if_no_progress (with_reducible refine live_mk ?_; (try dsimp only); with_reducible refine live_cur ?_) | dsimp only | split
theorem State.mxPoke_live {lv : Bool} {s : State} (h : LiveIs lv s) (seat : Nat) (core : Nat) : LiveIs lv (State.mxPoke s seat core) := by
  unfold State.mxPoke
  repeat' first
    | with_reducible assumption | with_reducible refine State.startSwap_live ?_ _ _ | with_reducible refine State.beginMx_live ?_ _ _
    | with_reducible refine live_foldl ?_ (fun _ _ _ => ?_) | split
theorem State.freeHeld_live {lv : Bool} {s : State} (h : LiveIs lv s) (team : Nat) : LiveIs lv (State.freeHeld s team) := by
  unfold State.freeHeld
  repeat' first
    | with_reducible assumption | with_reducible refine State.once_live ?_ _ _ | with_reducible refine live_foldl ?_ (fun _ _ _ => ?_)
theorem State.finishMx_live {lv : Bool} {s : State} (h : LiveIs lv s) (id : Nat) : LiveIs lv (State.finishMx s id) := by
  unfold State.finishMx
  repeat' first
    | with_reducible assumption | with_reducible refine State.anyGroup_live ?_ _ _ _ | with_reducible refine State.finishOp_live ?_ _
    | with_reducible refine State.once_live ?_ _ _ | with_reducible refine State.wakeQueues_live ?_ _ | with_reducible refine State.mxPoke_live ?_ _ _
    | with_reducible refine State.freeHeld_live ?_ _ | dsimp only | split
theorem State.nextPass_live {lv : Bool} {s t : State} (h : LiveIs lv s) (seat core : Nat) (p : Pass) (e : s.nextPass seat core = some (p, t)) : LiveIs lv t := by
  unfold State.nextPass at e
  dsimp only at e
  split at e
  · cases e; exact h
  · cases e; exact h
  · split at e
    · cases e
    · cases e; exact State.fresh_live h
theorem State.inject_live {lv : Bool} {s : State} (h : LiveIs lv s) (core seat : Nat) : LiveIs lv (s.inject core seat) := by
  unfold State.inject
  extract_lets s0
  have h0 : LiveIs lv s0 := State.mxPoke_live h _ _
  clear_value s0
  split
  · exact h0
  · split
    · exact h0
    · have h1 := State.nextPass_live h0 _ _ _ ‹_›
      extract_lets
      refine live_ite (State.once_live h0 _ _) ?_
      · split
        · exact h0
        · split
          · extract_lets bytes a0 row p' a1 a2 a3 a4
            have g0 : LiveIs lv a0 := State.settleLocal_live h1 _ _ _ _ _
            have g1 : LiveIs lv a1 := by unfold a1; exact g0
            have g2 : LiveIs lv a2 := by
              unfold a2; clear_value a1
              split
              · exact live_foldl g1 fun s q hs => State.mapOp_live hs _ _
              · exact g1
            have g3 : LiveIs lv a3 := State.takePort_live g2 _ _ _ _
            have g4 : LiveIs lv a4 := by
              unfold a4; clear_value a3
              split
              · exact State.mxPoke_live (State.at_live g3 _ _) _ _
              · exact g3
            exact live_ite (State.once_live h0 _ _) (State.once_live g4 _ _)
          · exact h0
theorem State.landPass_live {lv : Bool} {s : State} (h : LiveIs lv s) (p : Pass) : LiveIs lv (State.landPass s p) := by
  unfold State.landPass
  repeat' first
    | with_reducible assumption | with_reducible refine State.mapOp_live ?_ _ _ | with_reducible refine State.anyTeam_live ?_ _ _
    | with_reducible refine State.freeHeld_live ?_ _ | with_reducible refine State.finishMx_live ?_ _
    | with_reducible refine live_foldl ?_ (fun _ _ _ => ?_) | dsimp only | split
theorem State.undoPlane_live {lv : Bool} {s : State} (h : LiveIs lv s) (o : Op) : LiveIs lv (State.undoPlane s o) := by
  unfold State.undoPlane
  repeat' first
    | with_reducible assumption | with_reducible refine State.setPair_live ?_ _ | dsimp only | split
theorem State.fenceMx_live {lv : Bool} {s : State} (h : LiveIs lv s) (core : Nat) : LiveIs lv (State.fenceMx s core) := by
  unfold State.fenceMx
  repeat' first
    | with_reducible assumption | with_reducible refine State.onTeam_live ?_ _ | with_reducible refine State.anyGroup_live ?_ _ _ _
    | with_reducible refine State.finishOp_live ?_ _ | with_reducible refine State.defer_live ?_ _ _
    | with_reducible refine State.wakeQueues_live ?_ _ | with_reducible refine State.freeHeld_live ?_ _
    | with_reducible refine State.undoPlane_live ?_ _ | with_reducible refine live_foldl ?_ (fun _ _ _ => ?_)
    | fail_if_no_progress (with_reducible refine live_mk ?_; (try dsimp only); with_reducible refine live_cur ?_) | dsimp only | split
theorem State.completePass_live {lv : Bool} {s : State} (h : LiveIs lv s) (core : Nat) (id : Nat) (mismatch : Bool) : LiveIs lv (State.completePass s core id mismatch) := by
  unfold State.completePass
  repeat' first
    | with_reducible assumption | with_reducible refine State.logEvent_live ?_ _ _ _ _ _ _ _ _ | with_reducible refine State.mapOp_live ?_ _ _
    | with_reducible refine State.once_live ?_ _ _ | with_reducible refine State.finishMx_live ?_ _ | with_reducible refine State.landPass_live ?_ _
    | with_reducible refine State.fenceMx_live ?_ _ | with_reducible refine live_foldl ?_ (fun _ _ _ => ?_)
    | fail_if_no_progress (with_reducible refine live_mk ?_; (try dsimp only); with_reducible refine live_cur ?_) | dsimp only | split
theorem State.endXlds_live {lv : Bool} {s : State} (h : LiveIs lv s) (id : Nat) : LiveIs lv (State.endXlds s id) := by
  unfold State.endXlds
  repeat' first
    | with_reducible assumption | with_reducible refine State.setPair_live ?_ _ | with_reducible refine State.finishMx_live ?_ _ | dsimp only | split
theorem execRowInject_live {s : State} (h : LiveIs false s)  : OutLive false (execRowInject s) := by
  unfold execRowInject
  repeat' first
    | with_reducible assumption | with_reducible refine optLive_some ?_ | with_reducible exact optLive_none
    | with_reducible refine runEvent_live _ fun e => ?_ | with_reducible refine State.inject_live ?_ _ _ | split
theorem execPassComplete_live {s : State} (h : LiveIs false s)  : OutLive false (execPassComplete s) := by
  unfold execPassComplete
  repeat' first
    | with_reducible assumption | with_reducible refine optLive_some ?_ | with_reducible exact optLive_none
    | with_reducible refine runEvent_live _ fun e => ?_ | with_reducible refine State.completePass_live ?_ _ _ _ | split
theorem execXldsComplete_live {s : State} (h : LiveIs false s)  : OutLive false (execXldsComplete s) := by
  unfold execXldsComplete
  repeat' first
    | with_reducible assumption | with_reducible refine optLive_some ?_ | with_reducible exact optLive_none
    | with_reducible refine runEvent_live _ fun e => ?_ | with_reducible refine State.endXlds_live ?_ _ | split
theorem execXswpComplete_live {s : State} (h : LiveIs false s)  : OutLive false (execXswpComplete s) := by
  unfold execXswpComplete
  repeat' first
    | with_reducible assumption | with_reducible refine optLive_some ?_ | with_reducible exact optLive_none
    | with_reducible refine runEvent_live _ fun e => ?_ | with_reducible refine State.finishMx_live ?_ _ | split
theorem State.endSerial_live {lv : Bool} {s : State} (h : LiveIs lv s) (id : Nat) : LiveIs lv (State.endSerial s id) := by
  unfold State.endSerial
  repeat' first
    | with_reducible assumption | with_reducible refine State.anyTeam_live ?_ _ _ | with_reducible refine State.defer_live ?_ _ _
    | with_reducible refine State.finishMx_live ?_ _ | dsimp only | split
theorem execXcfgComplete_live {s : State} (h : LiveIs false s)  : OutLive false (execXcfgComplete s) := by
  unfold execXcfgComplete
  repeat' first
    | with_reducible assumption | with_reducible refine optLive_some ?_ | with_reducible exact optLive_none
    | with_reducible refine runEvent_live _ fun e => ?_ | with_reducible refine State.endSerial_live ?_ _ | split
theorem execXrelComplete_live {s : State} (h : LiveIs false s)  : OutLive false (execXrelComplete s) := by
  unfold execXrelComplete
  repeat' first
    | with_reducible assumption | with_reducible refine optLive_some ?_ | with_reducible exact optLive_none
    | with_reducible refine runEvent_live _ fun e => ?_ | with_reducible refine State.endSerial_live ?_ _ | split
theorem execXdrnComplete_live {s : State} (h : LiveIs false s)  : OutLive false (execXdrnComplete s) := by
  unfold execXdrnComplete
  repeat' first
    | with_reducible assumption | with_reducible refine optLive_some ?_ | with_reducible exact optLive_none
    | with_reducible refine runEvent_live _ fun e => ?_ | with_reducible refine State.endSerial_live ?_ _ | split
theorem execXscacComplete_live {s : State} (h : LiveIs false s)  : OutLive false (execXscacComplete s) := by
  unfold execXscacComplete
  repeat' first
    | with_reducible assumption | with_reducible refine optLive_some ?_ | with_reducible exact optLive_none
    | with_reducible refine runEvent_live _ fun e => ?_ | with_reducible refine State.endSerial_live ?_ _ | split
theorem State.queueMx_live {lv : Bool} {s : State} (h : LiveIs lv s) (m : Mx) : LiveIs lv (State.queueMx s m) := by
  unfold State.queueMx
  repeat' first
    | with_reducible assumption | with_reducible refine State.onGroup_live ?_ _ | with_reducible refine State.launchOp_live ?_ _
    | with_reducible refine State.mxPoke_live ?_ _ _ | dsimp only | split
theorem matrixWord_live {lv : Bool} {s : State} (h : LiveIs lv s) (i : Instr) (pair : Option Nat) (inj : Bool) (f : State → List TrapReq × State)
    (hf : ∀ s, LiveIs lv s → LiveIs lv (f s).2) : OutLive lv (matrixWord i pair inj f s) := by
  unfold matrixWord
  refine runWord_live h _ _ fun t ht => ?_
  dsimp only
  split
  · exact exLive_error
  · exact exLive_ok (hf _ ht)
theorem execXcfg_live {lv : Bool} {s : State} (h : LiveIs lv s) (p : VReg) (k : TKind) (discard : Bool) : OutLive lv (execXcfg p k discard s) := by
  unfold execXcfg
  repeat' first
    | with_reducible assumption | with_reducible refine State.onTeam_live ?_ _ | with_reducible refine State.queueMx_live ?_ _
    | with_reducible refine matrixWord_live ?_ _ _ _ _ (fun _ _ => ?_)
theorem execXlds_live {lv : Bool} {s : State} (h : LiveIs lv s) (p : VReg) (r : Fin 4) (f : Fmt) : OutLive lv (execXlds p r f s) := by
  unfold execXlds
  repeat' first
    | with_reducible assumption | with_reducible refine State.setPair_live ?_ _ | with_reducible refine State.queueMx_live ?_ _
    | with_reducible refine matrixWord_live ?_ _ _ _ _ (fun _ _ => ?_)
theorem execXswp_live {lv : Bool} {s : State} (h : LiveIs lv s) (r : Fin 4) : OutLive lv (execXswp r s) := by
  unfold execXswp
  repeat' first
    | with_reducible assumption | with_reducible refine State.setPair_live ?_ _ | with_reducible refine State.queueMx_live ?_ _
    | with_reducible refine matrixWord_live ?_ _ _ _ _ (fun _ _ => ?_)
theorem passWord_live {lv : Bool} {s : State} (h : LiveIs lv s) (i : Instr) (block : Bool) (p : VReg) (r : Nat) (f : Fmt) (acc : Bool) (inj : Bool) : OutLive lv (passWord i block p r f acc inj s) := by
  unfold passWord
  repeat' first
    | with_reducible assumption | with_reducible refine State.onTeam_live ?_ _ | with_reducible refine State.queueMx_live ?_ _
    | with_reducible refine matrixWord_live ?_ _ _ _ _ (fun _ _ => ?_) | dsimp only | split
theorem execXmm_live {lv : Bool} {s : State} (h : LiveIs lv s) (p : VReg) (r : Fin 4) (f : Fmt) (a : Bool) (j : Bool) : OutLive lv (execXmm p r f a j s) := by
  unfold execXmm
  repeat' first
    | with_reducible assumption | with_reducible refine passWord_live ?_ _ _ _ _ _ _ _
theorem execXbmm_live {lv : Bool} {s : State} (h : LiveIs lv s) (p : VReg) (r : Fin 4) (f : Fmt) (j : Bool) : OutLive lv (execXbmm p r f j s) := by
  unfold execXbmm
  repeat' first
    | with_reducible assumption | with_reducible refine passWord_live ?_ _ _ _ _ _ _ _
theorem execXscac_live {lv : Bool} {s : State} (h : LiveIs lv s) (p : VReg) (a : Bool) : OutLive lv (execXscac p a s) := by
  unfold execXscac
  repeat' first
    | with_reducible assumption | with_reducible refine State.onTeam_live ?_ _ | with_reducible refine State.queueMx_live ?_ _
    | with_reducible refine matrixWord_live ?_ _ _ _ _ (fun _ _ => ?_)
theorem execXdrn_live {lv : Bool} {s : State} (h : LiveIs lv s) (p : VReg) : OutLive lv (execXdrn p s) := by
  unfold execXdrn
  repeat' first
    | with_reducible assumption | with_reducible refine State.onTeam_live ?_ _ | with_reducible refine State.queueMx_live ?_ _
    | with_reducible refine matrixWord_live ?_ _ _ _ _ (fun _ _ => ?_)
theorem execXrel_live {lv : Bool} {s : State} (h : LiveIs lv s) (p : VReg) (discard : Bool) : OutLive lv (execXrel p discard s) := by
  unfold execXrel
  repeat' first
    | with_reducible assumption | with_reducible refine State.onTeam_live ?_ _ | with_reducible refine State.queueMx_live ?_ _
    | with_reducible refine matrixWord_live ?_ _ _ _ _ (fun _ _ => ?_)

/-! ### Machine/Engines.lean -/

theorem State.mapCopy_live {lv : Bool} {s : State} (h : LiveIs lv s) (id : Nat) (f : Copy → Copy) : LiveIs lv (State.mapCopy s id f) := by
  unfold State.mapCopy
  repeat' first
    | with_reducible assumption | with_reducible refine State.mapOp_live ?_ _ _
theorem State.stopCopy_live {lv : Bool} {s : State} (h : LiveIs lv s) (id : Nat) (k : TrapKind) : LiveIs lv (State.stopCopy s id k) := by
  unfold State.stopCopy
  repeat' first
    | with_reducible assumption | with_reducible refine State.anyGroup_live ?_ _ _ _ | with_reducible refine State.finishOp_live ?_ _
    | with_reducible refine State.defer_live ?_ _ _ | with_reducible refine State.waitDone_live ?_ _ _ _
    | with_reducible refine State.wakeQueues_live ?_ _ | with_reducible refine live_foldl ?_ (fun _ _ _ => ?_)
    | fail_if_no_progress (with_reducible refine live_mk ?_; (try dsimp only); with_reducible refine live_cur ?_) | dsimp only | split
theorem State.gateBanks_live {lv : Bool} {s : State} (h : LiveIs lv s) (team : Nat) (sp : Space) (a : Nat) (n : Nat) : LiveIs lv (State.gateBanks s team sp a n).2 := by
  unfold State.gateBanks
  repeat' first
    | with_reducible assumption | with_reducible refine State.wakeScratch_live ?_ _ _ _ | with_reducible refine live_foldl2 ?_ (fun _ _ _ => ?_)
    | dsimp only | split
theorem State.takeRow_live {lv : Bool} {s : State} (h : LiveIs lv s) (core : Nat) (team : Nat) (a : Nat) : LiveIs lv (State.takeRow s core team a) := by
  unfold State.takeRow
  repeat' first
    | with_reducible assumption | fail_if_no_progress (with_reducible refine live_mk ?_; (try dsimp only); with_reducible refine live_cur ?_)
theorem State.takeEnginePort_live {lv : Bool} {s : State} (h : LiveIs lv s) (o : Op) (sp : Space) (a : Nat) : LiveIs lv (State.takeEnginePort s o sp a) := by
  unfold State.takeEnginePort
  repeat' first
    | with_reducible assumption | with_reducible refine State.takePort_live ?_ _ _ _ _ | with_reducible refine State.takeRow_live ?_ _ _ _ | split
theorem State.endCopy_live {lv : Bool} {s : State} (h : LiveIs lv s) (id : Nat) : LiveIs lv (State.endCopy s id) := by
  unfold State.endCopy
  repeat' first
    | with_reducible assumption | with_reducible refine State.finishOp_live ?_ _ | with_reducible refine State.wakeQueues_live ?_ _ | split
theorem State.nextPiece_live {lv : Bool} {s : State} (h : LiveIs lv s) (o : Op) (c : Copy) (n : Nat) : LiveIs lv (State.nextPiece s o c n) := by
  unfold State.nextPiece
  repeat' first
    | with_reducible assumption | with_reducible refine State.now_live ?_ _ | with_reducible refine State.pokeEngine_live ?_ _ _ _
    | with_reducible refine State.mapCopy_live ?_ _ _ | dsimp only | split
theorem State.creditPiece_live {lv : Bool} {s : State} (h : LiveIs lv s) (o : Op) (c : Copy) (mine : Option (Space × Nat)) : LiveIs lv (State.creditPiece s o c mine) := by
  unfold State.creditPiece
  repeat' first
    | with_reducible assumption | with_reducible refine State.at_live ?_ _ _ | with_reducible refine State.barBytes_live ?_ _ _ _ _ _
    | with_reducible refine State.mapCopy_live ?_ _ _ | with_reducible refine State.gateBanks_live ?_ _ _ _ _
    | with_reducible refine State.takeEnginePort_live ?_ _ _ _ | with_reducible refine State.nextPiece_live ?_ _ _ _ | dsimp only | split
theorem State.chargePiece_live {lv : Bool} {s : State} (h : LiveIs lv s) (o : Op) (event : Nat) (c : Nat) (va : Nat) : LiveIs lv (State.chargePiece s o event c va) := by
  unfold State.chargePiece
  repeat' first
    | with_reducible assumption | with_reducible refine State.charge_live ?_ _ _ _ | dsimp only | split
theorem State.sendPiece_live {lv : Bool} {s : State} (h : LiveIs lv s) (o : Op) (va : Nat) (write : Bool) (p : Page) (asid : Nat) (tlb : Bool) (walk : Nat) : LiveIs lv (State.sendPiece s o va write p asid tlb walk) := by
  unfold State.sendPiece
  repeat' first
    | with_reducible assumption | with_reducible refine State.request_live ?_ _ _ | with_reducible refine State.countAccess_live ?_ _ _ _ _ _
    | with_reducible refine State.stopCopy_live ?_ _ _ | with_reducible refine State.chargePiece_live ?_ _ _ _ _ | dsimp only | split
theorem State.globalPiece_live {lv : Bool} {s : State} (h : LiveIs lv s) (o : Op) (va : Nat) (write : Bool) : LiveIs lv (State.globalPiece s o va write) := by
  unfold State.globalPiece
  repeat' first
    | with_reducible assumption | with_reducible refine State.joinWalk_live ?_ _ _ _ _ _ _ _ | with_reducible refine State.mapCopy_live ?_ _ _
    | with_reducible refine State.stopCopy_live ?_ _ _ | with_reducible refine State.sendPiece_live ?_ _ _ _ _ _ _ _ | dsimp only | split
theorem State.pieceArrived_live {lv : Bool} {s : State} (h : LiveIs lv s) (o : Op) (c : Copy) : LiveIs lv (State.pieceArrived s o c) := by
  unfold State.pieceArrived
  repeat' first
    | with_reducible assumption | with_reducible refine State.at_live ?_ _ _ | with_reducible refine State.mapOp_live ?_ _ _
    | with_reducible refine State.pokeEngine_live ?_ _ _ _ | with_reducible refine State.mapCopy_live ?_ _ _
    | with_reducible refine State.globalPiece_live ?_ _ _ _ | split
theorem State.writePiece_live {lv : Bool} {s : State} (h : LiveIs lv s) (o : Op) (c : Copy) : LiveIs lv (State.writePiece s o c) := by
  unfold State.writePiece
  repeat' first
    | with_reducible assumption | with_reducible refine State.at_live ?_ _ _ | with_reducible refine State.anyTeam_live ?_ _ _
    | with_reducible refine State.touchBars_live ?_ _ _ | with_reducible refine State.mapCopy_live ?_ _ _
    | with_reducible refine State.gateBanks_live ?_ _ _ _ _ | with_reducible refine State.takeEnginePort_live ?_ _ _ _
    | with_reducible refine State.creditPiece_live ?_ _ _ _ | dsimp only | split
theorem State.readPiece_live {lv : Bool} {s : State} (h : LiveIs lv s) (o : Op) (c : Copy) : LiveIs lv (State.readPiece s o c) := by
  unfold State.readPiece
  repeat' first
    | with_reducible assumption | with_reducible refine State.at_live ?_ _ _ | with_reducible refine State.settleLocal_live ?_ _ _ _ _ _
    | with_reducible refine State.mapCopy_live ?_ _ _ | with_reducible refine State.gateBanks_live ?_ _ _ _ _
    | with_reducible refine State.takeEnginePort_live ?_ _ _ _ | dsimp only | split
theorem State.pieceStep_live {lv : Bool} {s : State} (h : LiveIs lv s) (id : Nat) : LiveIs lv (State.pieceStep s id) := by
  unfold State.pieceStep
  repeat' first
    | with_reducible assumption | with_reducible refine State.creditPiece_live ?_ _ _ _ | with_reducible refine State.pieceArrived_live ?_ _ _
    | with_reducible refine State.writePiece_live ?_ _ _ | with_reducible refine State.readPiece_live ?_ _ _ | split
theorem State.pieceDone_live {lv : Bool} {s : State} (h : LiveIs lv s) (id : Nat) (phase : Nat) : LiveIs lv (State.pieceDone s id phase) := by
  unfold State.pieceDone
  repeat' first
    | with_reducible assumption | with_reducible refine State.waitDone_live ?_ _ _ _ | with_reducible refine State.mapCopy_live ?_ _ _
    | with_reducible refine State.pieceStep_live ?_ _ | with_reducible refine live_foldl ?_ (fun _ _ _ => ?_) | dsimp only | split
theorem State.startPiece_live {lv : Bool} {s : State} (h : LiveIs lv s) (o : Op) (c : Copy) : LiveIs lv (State.startPiece s o c) := by
  unfold State.startPiece
  repeat' first
    | with_reducible assumption | with_reducible refine State.mapOp_live ?_ _ _ | with_reducible refine State.mapCopy_live ?_ _ _
    | with_reducible refine State.stopCopy_live ?_ _ _ | with_reducible refine State.globalPiece_live ?_ _ _ _
    | with_reducible refine State.pieceStep_live ?_ _ | dsimp only | split
theorem State.copyPosition_live {lv : Bool} {s : State} (h : LiveIs lv s) (core : Nat) (seat : Nat) : LiveIs lv (State.copyPosition s core seat) := by
  unfold State.copyPosition
  repeat' first
    | with_reducible assumption | with_reducible refine State.mapSeat_live ?_ _ _ | with_reducible refine State.pokeEngine_live ?_ _ _ _
    | with_reducible refine State.spend_live ?_ _ | with_reducible refine State.startPiece_live ?_ _ _ | dsimp only | split
theorem State.engineRowNow_live {lv : Bool} {s : State} (h : LiveIs lv s) (o : Op) (a n : Nat) : LiveIs lv (s.engineRowNow o a n).2 := by
  have hg := State.gateBanks_live h o.team .scratch a n
  unfold State.engineRowNow
  generalize s.gateBanks o.team .scratch a n = p at hg ⊢
  obtain ⟨due, r⟩ := p
  dsimp only at hg ⊢
  split
  · exact hg
  · split
    · exact hg
    · exact State.takeEnginePort_live hg _ _ _
theorem State.beginFill_live {lv : Bool} {s : State} (h : LiveIs lv s) (o : Op) (c : Copy) (d : Circ) : LiveIs lv (State.beginFill s o c d) := by
  unfold State.beginFill
  repeat' first
    | with_reducible assumption | with_reducible refine State.once_live ?_ _ _ | with_reducible refine State.pokeEngine_live ?_ _ _ _
    | with_reducible refine State.barBytes_live ?_ _ _ _ _ _ | with_reducible refine State.mapCopy_live ?_ _ _
    | with_reducible refine live_ofPair (State.engineRowNow_live ?_ _ _ _) (by assumption) | dsimp only | split
theorem State.circReadyNow_live {lv : Bool} {s : State} (h : LiveIs lv s) (id : Nat) : LiveIs lv (State.circReadyNow s id) := by
  unfold State.circReadyNow
  repeat' first
    | with_reducible assumption | with_reducible refine State.mapCopy_live ?_ _ _ | with_reducible refine State.beginFill_live ?_ _ _ _ | dsimp only
    | split
theorem State.startCopy_live {lv : Bool} {s : State} (h : LiveIs lv s) (id : Nat) : LiveIs lv (State.startCopy s id) := by
  unfold State.startCopy
  repeat' first
    | with_reducible assumption | with_reducible refine State.mapOp_live ?_ _ _ | with_reducible refine State.anyTeam_live ?_ _ _
    | with_reducible refine State.once_live ?_ _ _ | with_reducible refine State.pokeEngine_live ?_ _ _ _
    | with_reducible refine State.barBytes_live ?_ _ _ _ _ _ | with_reducible refine State.touchBars_live ?_ _ _
    | with_reducible refine State.mapCopy_live ?_ _ _ | with_reducible refine live_ofPair (State.engineRowNow_live ?_ _ _ _) (by assumption)
    | with_reducible refine State.circReadyNow_live ?_ _ | dsimp only | split
theorem execCopyCommandStart_live {s : State} (h : LiveIs false s)  : OutLive false (execCopyCommandStart s) := by
  unfold execCopyCommandStart
  repeat' first
    | with_reducible assumption | with_reducible refine optLive_some ?_ | with_reducible exact optLive_none
    | with_reducible refine runEvent_live _ fun e => ?_ | with_reducible refine State.startCopy_live ?_ _ | split
theorem execCircSlotReady_live {s : State} (h : LiveIs false s)  : OutLive false (execCircSlotReady s) := by
  unfold execCircSlotReady
  repeat' first
    | with_reducible assumption | with_reducible refine optLive_some ?_ | with_reducible exact optLive_none
    | with_reducible refine runEvent_live _ fun e => ?_ | with_reducible refine State.circReadyNow_live ?_ _ | split
theorem execCopyPieceStart_live {s : State} (h : LiveIs false s)  : OutLive false (execCopyPieceStart s) := by
  unfold execCopyPieceStart
  repeat' first
    | with_reducible assumption | with_reducible refine optLive_some ?_ | with_reducible exact optLive_none
    | with_reducible refine runEvent_live _ fun e => ?_ | with_reducible refine State.copyPosition_live ?_ _ _ | split
theorem execPieceLand_live {s : State} (h : LiveIs false s)  : OutLive false (execPieceLand s) := by
  unfold execPieceLand
  repeat' first
    | with_reducible assumption | with_reducible refine optLive_some ?_ | with_reducible exact optLive_none
    | with_reducible refine runEvent_live _ fun e => ?_ | with_reducible refine State.pieceStep_live ?_ _ | split
theorem execHeldPieceRelease_live {s : State} (h : LiveIs false s)  : OutLive false (execHeldPieceRelease s) := by
  unfold execHeldPieceRelease
  repeat' first
    | with_reducible assumption | with_reducible refine optLive_some ?_ | with_reducible exact optLive_none
    | with_reducible refine State.at_live ?_ _ _ | with_reducible refine runEvent_live _ fun e => ?_ | with_reducible refine State.mapCopy_live ?_ _ _
    | split
theorem execCopyCommandComplete_live {s : State} (h : LiveIs false s)  : OutLive false (execCopyCommandComplete s) := by
  unfold execCopyCommandComplete
  repeat' first
    | with_reducible assumption | with_reducible refine optLive_some ?_ | with_reducible exact optLive_none
    | with_reducible refine runEvent_live _ fun e => ?_ | with_reducible refine State.endCopy_live ?_ _ | split
theorem State.queueCopy_live {lv : Bool} {s : State} (h : LiveIs lv s) (c : Copy) (expect : Nat) : LiveIs lv (State.queueCopy s c expect) := by
  unfold State.queueCopy
  repeat' first
    | with_reducible assumption | with_reducible refine State.onGroup_live ?_ _ | with_reducible refine State.at_live ?_ _ _
    | with_reducible refine State.launchOp_live ?_ _ | with_reducible refine State.barBytes_live ?_ _ _ _ _ _ | dsimp only | split
theorem copyCommand_live {lv : Bool} {s : State} (h : LiveIs lv s) (f : State → List TrapReq × Copy × Nat) : ExLive lv (copyCommand f s) := by
  unfold copyCommand
  repeat' first
    | with_reducible assumption | with_reducible refine exLive_ok ?_ | with_reducible exact exLive_error
    | with_reducible refine State.queueCopy_live ?_ _ _ | split
theorem copyWord_live {lv : Bool} {s : State} (h : LiveIs lv s) (i : Instr) (f : State → List TrapReq × Copy × Nat) : OutLive lv (copyWord i f s) := by
  unfold copyWord
  repeat' first
    | with_reducible assumption | (with_reducible intro t ht) | with_reducible refine runWord_live ?_ _ _ ?_
    | with_reducible refine copyCommand_live ?_ _
theorem cpWord_live {lv : Bool} {s : State} (h : LiveIs lv s) (i : Instr) (kind : Nat) (d : SReg) (q : Fin 6) : OutLive lv (cpWord i kind d q s) := by
  unfold cpWord
  repeat' first
    | with_reducible assumption | with_reducible refine copyWord_live ?_ _ _
theorem execCpG2s_live {lv : Bool} {s : State} (h : LiveIs lv s) (d : SReg) (q : Fin 6) : OutLive lv (execCpG2s d q s) := by
  unfold execCpG2s
  repeat' first
    | with_reducible assumption | with_reducible refine cpWord_live ?_ _ _ _ _
theorem execCpS2g_live {lv : Bool} {s : State} (h : LiveIs lv s) (d : SReg) (q : Fin 6) : OutLive lv (execCpS2g d q s) := by
  unfold execCpS2g
  repeat' first
    | with_reducible assumption | with_reducible refine cpWord_live ?_ _ _ _ _
theorem execCpG2a_live {lv : Bool} {s : State} (h : LiveIs lv s) (d : SReg) (q : Fin 6) : OutLive lv (execCpG2a d q s) := by
  unfold execCpG2a
  repeat' first
    | with_reducible assumption | with_reducible refine cpWord_live ?_ _ _ _ _
theorem execCpG2w_live {lv : Bool} {s : State} (h : LiveIs lv s) (d : SReg) (q : Fin 6) : OutLive lv (execCpG2w d q s) := by
  unfold execCpG2w
  repeat' first
    | with_reducible assumption | with_reducible refine cpWord_live ?_ _ _ _ _
theorem execCpX2g_live {lv : Bool} {s : State} (h : LiveIs lv s) (d : SReg) (q : Fin 6) : OutLive lv (execCpX2g d q s) := by
  unfold execCpX2g
  repeat' first
    | with_reducible assumption | with_reducible refine cpWord_live ?_ _ _ _ _
theorem execCpG2g_live {lv : Bool} {s : State} (h : LiveIs lv s) (d : SReg) (q : Fin 6) : OutLive lv (execCpG2g d q s) := by
  unfold execCpG2g
  repeat' first
    | with_reducible assumption | with_reducible refine cpWord_live ?_ _ _ _ _
theorem State.circSettled_live {lv : Bool} {s : State} (h : LiveIs lv s) (cd : Nat) : LiveIs lv (State.circSettled s cd) := by
  unfold State.circSettled
  repeat' first
    | with_reducible assumption | with_reducible refine State.settled_live ?_ _
theorem execCpCirc_live {lv : Bool} {s : State} (h : LiveIs lv s) (d : SReg) (q : Fin 6) : OutLive lv (execCpCirc d q s) := by
  unfold execCpCirc
  repeat' first
    | with_reducible assumption | (with_reducible intro t ht) | with_reducible refine runWord_live ?_ _ _ ?_
    | with_reducible refine copyCommand_live ?_ _ | with_reducible refine State.circSettled_live ?_ _
theorem execGth_live {lv : Bool} {s : State} (h : LiveIs lv s) (d : SReg) (q : Fin 6) : OutLive lv (execGth d q s) := by
  unfold execGth
  repeat' first
    | with_reducible assumption | with_reducible refine copyWord_live ?_ _ _
theorem execQfence_live {lv : Bool} {s : State} (h : LiveIs lv s) (m : BitVec 8) : OutLive lv (execQfence m s) := by
  unfold execQfence
  repeat' first
    | with_reducible assumption | (with_reducible intro t ht) | with_reducible refine State.onGroup_live ?_ _
    | with_reducible refine runPure_live ?_ _ _ ?_
theorem execCbWait_live {lv : Bool} {s : State} (h : LiveIs lv s) (d : SReg) (a : SReg) : OutLive lv (execCbWait d a s) := by
  unfold execCbWait
  repeat' first
    | with_reducible assumption | (with_reducible intro t ht) | with_reducible refine exLive_ok ?_ | with_reducible exact exLive_error
    | with_reducible refine State.wS_live ?_ _ _ | with_reducible refine State.block_live ?_ _ | with_reducible refine runWord_live ?_ _ _ ?_
    | with_reducible refine State.circSettled_live ?_ _ | dsimp only | split
theorem execCbFree_live {lv : Bool} {s : State} (h : LiveIs lv s) (a : SReg) : OutLive lv (execCbFree a s) := by
  unfold execCbFree
  repeat' first
    | with_reducible assumption | (with_reducible intro t ht) | with_reducible exact exLive_error | with_reducible refine runWord_live ?_ _ _ ?_
    | with_reducible refine State.barWord_live ?_ _ _ _ _ | with_reducible refine State.circSettled_live ?_ _ | dsimp only | split

/-! ### Machine/Ring.lean -/

theorem State.setSlot_live {lv : Bool} {s : State} (h : LiveIs lv s) (i : Nat) (v : RingSlot) : LiveIs lv (State.setSlot s i v) := by
  unfold State.setSlot
  repeat' first
    | with_reducible assumption | fail_if_no_progress (with_reducible refine live_mk ?_; (try dsimp only); with_reducible refine live_cur ?_)
theorem State.applyRing_live {lv : Bool} {s : State} (h : LiveIs lv s) (o : Op) (i : Nat) (k : RingKind) : LiveIs lv (State.applyRing s o i k) := by
  unfold State.applyRing
  repeat' first
    | with_reducible assumption | with_reducible refine State.at_live ?_ _ _ | with_reducible refine State.mapOp_live ?_ _ _
    | with_reducible refine State.pokeRing_live ?_ _ _ _ | with_reducible refine State.setSlot_live ?_ _ _ | dsimp only | split
theorem State.sendHome_live {lv : Bool} {s : State} (h : LiveIs lv s) (i : Nat) (o : Op) (va : Nat) (p : Page) : LiveIs lv (State.sendHome s i o va p) := by
  unfold State.sendHome
  repeat' first
    | with_reducible assumption | with_reducible refine State.charge_live ?_ _ _ _ | with_reducible refine State.request_live ?_ _ _
    | with_reducible refine State.setSlot_live ?_ _ _ | dsimp only | split
theorem State.refuseHome_live {lv : Bool} {s : State} (h : LiveIs lv s) (i : Nat) (k : TrapKind) : LiveIs lv (State.refuseHome s i k) := by
  unfold State.refuseHome
  repeat' first
    | with_reducible assumption | with_reducible refine State.mapOp_live ?_ _ _ | with_reducible refine State.defer_live ?_ _ _
    | with_reducible refine State.waitDone_live ?_ _ _ _ | with_reducible refine live_foldl ?_ (fun _ _ _ => ?_) | dsimp only | split
theorem State.homeWrite_live {lv : Bool} {s : State} (h : LiveIs lv s) (i : Nat) : LiveIs lv (State.homeWrite s i) := by
  unfold State.homeWrite
  repeat' first
    | with_reducible assumption | with_reducible refine State.joinWalk_live ?_ _ _ _ _ _ _ _
    | with_reducible refine State.countAccess_live ?_ _ _ _ _ _ | with_reducible refine State.sendHome_live ?_ _ _ _ _
    | with_reducible refine State.refuseHome_live ?_ _ _ | dsimp only | split
theorem State.seamStep_live {lv : Bool} {s : State} (h : LiveIs lv s) (i : Nat) : LiveIs lv (State.seamStep s i) := by
  unfold State.seamStep
  repeat' first
    | with_reducible assumption | with_reducible refine State.mapOp_live ?_ _ _ | with_reducible refine State.setSlot_live ?_ _ _
    | with_reducible refine State.homeWrite_live ?_ _ | dsimp only | split
theorem State.alightDone_live {lv : Bool} {s : State} (h : LiveIs lv s) (i : Nat) : LiveIs lv (State.alightDone s i) := by
  unfold State.alightDone
  repeat' first
    | with_reducible assumption | with_reducible refine State.now_live ?_ _ | with_reducible refine State.mapOp_live ?_ _ _
    | with_reducible refine State.anyGroup_live ?_ _ _ _ | with_reducible refine State.finishOp_live ?_ _
    | with_reducible refine State.waitDone_live ?_ _ _ _ | with_reducible refine State.wakeReleases_live ?_ _ _
    | with_reducible refine State.releaseHeld_live ?_ _ _ | with_reducible refine State.setSlot_live ?_ _ _
    | with_reducible refine live_foldl ?_ (fun _ _ _ => ?_) | dsimp only | split
theorem State.ringResult_live {lv : Bool} {s : State} (h : LiveIs lv s) (id : Nat) : LiveIs lv (State.ringResult s id) := by
  unfold State.ringResult
  repeat' first
    | with_reducible assumption | with_reducible refine State.mapOp_live ?_ _ _ | with_reducible refine State.anyGroup_live ?_ _ _ _
    | with_reducible refine State.finishOp_live ?_ _ | dsimp only | split
theorem State.landArm_live {lv : Bool} {s : State} (h : LiveIs lv s) (a : Arm) : LiveIs lv (State.landArm s a) := by
  unfold State.landArm
  repeat' first
    | with_reducible assumption | with_reducible refine State.anyGroup_live ?_ _ _ _ | with_reducible refine State.anyTeam_live ?_ _ _
    | with_reducible refine State.barWake_live ?_ _
    | fail_if_no_progress (with_reducible refine live_mk ?_; (try dsimp only); with_reducible refine live_cur ?_) | dsimp only | split
theorem State.dueArm_live {lv : Bool} {s : State} (h : LiveIs lv s) (a : Arm) (c : Nat) : LiveIs lv (State.dueArm s a c) := by
  unfold State.dueArm
  repeat' first
    | with_reducible assumption | with_reducible refine State.at_live ?_ _ _
    | fail_if_no_progress (with_reducible refine live_mk ?_; (try dsimp only); with_reducible refine live_cur ?_)
theorem State.deliverArm_live {lv : Bool} {s : State} (h : LiveIs lv s) (a : Arm) : LiveIs lv (State.deliverArm s a) := by
  unfold State.deliverArm
  repeat' first
    | with_reducible assumption | with_reducible refine State.gateBanks_live ?_ _ _ _ _ | with_reducible refine State.takeRow_live ?_ _ _ _
    | with_reducible refine State.landArm_live ?_ _ | with_reducible refine State.dueArm_live ?_ _ _ | dsimp only | split
theorem State.evalArms_live {lv : Bool} {s : State} (h : LiveIs lv s) (i : Nat) (core : Nat) : LiveIs lv (State.evalArms s i core) := by
  unfold State.evalArms
  repeat' first
    | with_reducible assumption | with_reducible refine State.deliverArm_live ?_ _ | with_reducible refine live_foldl ?_ (fun _ _ _ => ?_)
    | dsimp only | split
theorem State.landDue_live {lv : Bool} {s : State} (h : LiveIs lv s) (team : Nat) : LiveIs lv (State.landDue s team) := by
  unfold State.landDue
  repeat' first
    | with_reducible assumption | with_reducible refine State.deliverArm_live ?_ _ | with_reducible refine live_foldl ?_ (fun _ _ _ => ?_)
theorem State.nowDue_live {lv : Bool} {s : State} (h : LiveIs lv s) (l : List Arm) : LiveIs lv (State.nowDue s l) := by
  unfold State.nowDue
  repeat' first
    | with_reducible assumption | with_reducible refine State.now_live ?_ _ | with_reducible refine live_foldl ?_ (fun _ _ _ => ?_)
theorem execBankWakeEnd_live {s : State} (h : LiveIs false s)  : OutLive false (execBankWakeEnd s) := by
  unfold execBankWakeEnd
  repeat' first
    | with_reducible assumption | with_reducible refine optLive_some ?_ | with_reducible exact optLive_none
    | with_reducible refine runEvent_live _ fun e => ?_ | with_reducible refine State.endWake_live ?_ _ _ _
    | with_reducible refine State.landDue_live ?_ _ | split
theorem execWaitResume_live {s : State} (h : LiveIs false s)  : OutLive false (execWaitResume s) := by
  unfold execWaitResume
  repeat' first
    | with_reducible assumption | with_reducible refine optLive_some ?_ | with_reducible exact optLive_none
    | with_reducible refine runEvent_live _ fun e => ?_ | with_reducible refine State.resumeWaits_live ?_ _ | split
theorem State.fenceSlot_live {lv : Bool} {s : State} (h : LiveIs lv s) (i : Nat) : LiveIs lv (State.fenceSlot s i) := by
  unfold State.fenceSlot
  repeat' first
    | with_reducible assumption | with_reducible refine State.logEvent_live ?_ _ _ _ _ _ _ _ _ | with_reducible refine State.mapOp_live ?_ _ _
    | with_reducible refine State.finishOp_live ?_ _ | with_reducible refine State.defer_live ?_ _ _ | with_reducible refine State.setSlot_live ?_ _ _
    | with_reducible refine live_foldl ?_ (fun _ _ _ => ?_) | dsimp only | split
theorem State.passage_live {lv : Bool} {s : State} (h : LiveIs lv s) (i core parity : Nat) : LiveIs lv (s.passage i core parity) := by
  unfold State.passage
  split
  · exact h
  · split
    · exact h
    · extract_lets s1 s2 s3 s4
      have h1 : LiveIs lv s1 := by
        unfold s1
        split
        · exact h
        · exact h
      have h2 : LiveIs lv s2 := live_ite (State.seamStep_live h1 _) h1
      have h3 : LiveIs lv s3 := by
        unfold s3
        split
        · exact h2
        · split
          · exact h2
          · exact live_ite h2 (State.wakeReleases_live (State.applyRing_live h2 _ _ _) _ _)
      have h4 : LiveIs lv s4 := by
        refine live_ite (State.fenceSlot_live h1 _) (live_ite ?_ (live_ite h2 (State.evalArms_live h3 _ _)))
        split
        · exact State.logEvent_live h2 _ _ _ _ _ _ _ _
        · exact h2
      clear_value s4
      exact live_ite (State.pokeRing_live h4 _ _ _) h4
theorem execRingPassage_live {s : State} (h : LiveIs false s)  : OutLive false (execRingPassage s) := by
  unfold execRingPassage
  repeat' first
    | with_reducible assumption | with_reducible refine optLive_some ?_ | with_reducible exact optLive_none
    | with_reducible refine runEvent_live _ fun e => ?_ | with_reducible refine State.passage_live ?_ _ _ _ | split
theorem execRingResultWrite_live {s : State} (h : LiveIs false s)  : OutLive false (execRingResultWrite s) := by
  unfold execRingResultWrite
  repeat' first
    | with_reducible assumption | with_reducible refine optLive_some ?_ | with_reducible exact optLive_none
    | with_reducible refine runEvent_live _ fun e => ?_ | with_reducible refine State.ringResult_live ?_ _ | split
theorem execAlightWritePerformed_live {s : State} (h : LiveIs false s)  : OutLive false (execAlightWritePerformed s) := by
  unfold execAlightWritePerformed
  repeat' first
    | with_reducible assumption | with_reducible refine optLive_some ?_ | with_reducible exact optLive_none
    | with_reducible refine runEvent_live _ fun e => ?_ | with_reducible refine State.alightDone_live ?_ _ | split
theorem State.queueRing_live {lv : Bool} {s : State} (h : LiveIs lv s) (o : Op) (i : Nat) (board : Bool) (keys : List Nat) : LiveIs lv (State.queueRing s o i board keys) := by
  unfold State.queueRing
  repeat' first
    | with_reducible assumption | with_reducible refine State.onGroup_live ?_ _ | with_reducible refine State.launchOp_live ?_ _
    | with_reducible refine State.pokeRing_live ?_ _ _ _ | with_reducible refine State.checkOp_live ?_ _
    | with_reducible refine State.translate_live ?_ _ _ | with_reducible refine State.pend_live ?_ _ _ | dsimp only | split
theorem ringWord_live {lv : Bool} {s : State} (h : LiveIs lv s) (i : Instr) (a : SReg) (more : State → List TrapReq) (f : State → Nat → State)
    (hf : ∀ s n, LiveIs lv s → LiveIs lv (f s n)) : OutLive lv (ringWord i a more f s) := by
  unfold ringWord
  refine runWord_live h _ _ fun t ht => ?_
  dsimp only
  split
  · exact exLive_error
  · exact exLive_ok (hf _ _ ht)
theorem execSgBoard_live {lv : Bool} {s : State} (h : LiveIs lv s) (d : SReg) (a : SReg) : OutLive lv (execSgBoard d a s) := by
  unfold execSgBoard
  repeat' first
    | with_reducible assumption | with_reducible refine State.queueRing_live ?_ _ _ _ _
    | with_reducible refine ringWord_live ?_ _ _ _ _ (fun _ _ _ => ?_)
theorem execSgAlight_live {lv : Bool} {s : State} (h : LiveIs lv s) (d : SReg) (a : SReg) : OutLive lv (execSgAlight d a s) := by
  unfold execSgAlight
  repeat' first
    | with_reducible assumption | with_reducible refine State.queueRing_live ?_ _ _ _ _
    | with_reducible refine ringWord_live ?_ _ _ _ _ (fun _ _ _ => ?_)
theorem execSgCap_live {lv : Bool} {s : State} (h : LiveIs lv s) (d : SReg) (a : SReg) (acq : Bool) : OutLive lv (execSgCap d a acq s) := by
  unfold execSgCap
  repeat' first
    | with_reducible assumption | with_reducible refine State.queueRing_live ?_ _ _ _ _
    | with_reducible refine ringWord_live ?_ _ _ _ _ (fun _ _ _ => ?_)
theorem execSgMod_live {lv : Bool} {s : State} (h : LiveIs lv s) (d : SReg) (a : SReg) (p : ModOp) (w : Fin 8) (r : Ord) : OutLive lv (execSgMod d a p w r s) := by
  unfold execSgMod
  repeat' first
    | with_reducible assumption | with_reducible refine State.queueRing_live ?_ _ _ _ _
    | with_reducible refine ringWord_live ?_ _ _ _ _ (fun _ _ _ => ?_)
theorem execSgRev_live {lv : Bool} {s : State} (h : LiveIs lv s) (d : SReg) (a : SReg) : OutLive lv (execSgRev d a s) := by
  unfold execSgRev
  repeat' first
    | with_reducible assumption | with_reducible refine State.queueRing_live ?_ _ _ _ _
    | with_reducible refine ringWord_live ?_ _ _ _ _ (fun _ _ _ => ?_)
theorem execSgRevOfs_live {lv : Bool} {s : State} (h : LiveIs lv s) (d : SReg) : OutLive lv (execSgRevOfs d s) := by
  unfold execSgRevOfs
  repeat' first
    | with_reducible assumption | (with_reducible intro t ht) | with_reducible refine State.wS_live ?_ _ _
    | with_reducible refine runPure_live ?_ _ _ ?_
theorem State.addArm_live {lv : Bool} {s : State} (h : LiveIs lv s) (o : Op) (i : Nat) (p : ArmCmp) (w : Nat) (x : W32) (off : Nat) : LiveIs lv (State.addArm s o i p w x off) := by
  unfold State.addArm
  repeat' first
    | with_reducible assumption | with_reducible refine State.anyTeam_live ?_ _ _ | with_reducible refine State.pokeRing_live ?_ _ _ _
    | with_reducible refine State.settleLocal_live ?_ _ _ _ _ _
    | fail_if_no_progress (with_reducible refine live_mk ?_; (try dsimp only); with_reducible refine live_cur ?_)
theorem execSgArm_live {lv : Bool} {s : State} (h : LiveIs lv s) (d : SReg) (a : SReg) (p : ArmCmp) (w : Fin 8) : OutLive lv (execSgArm d a p w s) := by
  unfold execSgArm
  repeat' first
    | with_reducible assumption | with_reducible refine State.queueRing_live ?_ _ _ _ _
    | with_reducible refine ringWord_live ?_ _ _ _ _ (fun _ _ _ => ?_) | with_reducible refine State.addArm_live ?_ _ _ _ _ _ _
    | fail_if_no_progress (with_reducible refine live_mk ?_; (try dsimp only); with_reducible refine live_cur ?_) | dsimp only | split

/-! ### Machine/Teams.lean -/

theorem State.takeAll_live {lv : Bool} {s : State} (h : LiveIs lv s) (t : Team) (l : List Group) : OptLive lv (s.takeAll t l) := by
  induction l generalizing s with
  | nil => exact optLive_some h
  | cons g gs ih =>
    unfold State.takeAll
    split
    · exact ih h
    · split
      · exact optLive_none
      · dsimp only
        split
        · split
          · exact optLive_none
          · exact ih (State.mapGroup_live (State.mapGroup_live h _ _ _) _ _ _)
        · exact ih (State.mapGroup_live h _ _ _)
theorem State.pokeCarve_live {lv : Bool} {s : State} (h : LiveIs lv s) (seat : Nat) (core : Nat) (c : Nat) : LiveIs lv (State.pokeCarve s seat core c) := by
  unfold State.pokeCarve
  repeat' first
    | with_reducible assumption | with_reducible refine State.once_live ?_ _ _
theorem State.pokeVictim_live {lv : Bool} {s : State} (h : LiveIs lv s) (seat : Nat) (core : Nat) : LiveIs lv (State.pokeVictim s seat core) := by
  unfold State.pokeVictim
  repeat' first
    | with_reducible assumption | with_reducible refine State.once_live ?_ _ _ | with_reducible refine live_foldl ?_ (fun _ _ _ => ?_)
theorem State.tryCarve_live {lv : Bool} {s : State} (h : LiveIs lv s) (t : Team) : OptLive lv (State.tryCarve s t) := by
  unfold State.tryCarve
  repeat' first
    | with_reducible assumption | (with_reducible intro t ht) | with_reducible exact optLive_none | with_reducible refine State.at_live ?_ _ _
    | with_reducible refine State.mapTeam_live ?_ _ _ | with_reducible refine State.takeAll_live ?_ _ _ | with_reducible refine optLive_map ?_ ?_
    | dsimp only | split
theorem State.tryCarveAll_live {lv : Bool} {s : State} (h : LiveIs lv s) (l : List Team) : OptLive lv (s.tryCarveAll l) := by
  induction l generalizing s with
  | nil => exact optLive_some h
  | cons t ts ih =>
    unfold State.tryCarveAll
    intro r e
    obtain ⟨u, hu, e⟩ := Option.bind_eq_some_iff.1 e
    exact ih (optLive_elim (State.tryCarve_live h _) hu) _ e
theorem State.pokeUnfit_live {lv : Bool} {s : State} (h : LiveIs lv s) (us : List Team) : LiveIs lv (State.pokeUnfit s us) := by
  unfold State.pokeUnfit
  repeat' first
    | with_reducible assumption | with_reducible refine State.pokeVictim_live ?_ _ _ | with_reducible refine live_foldl ?_ (fun _ _ _ => ?_)
theorem State.carve_live {lv : Bool} {s : State} (h : LiveIs lv s) (core : Nat) (seat : Nat) : LiveIs lv (State.carve s core seat) := by
  unfold State.carve
  repeat' first
    | with_reducible assumption | with_reducible refine State.pokeCarve_live ?_ _ _ _
    | with_reducible refine optLive_elim (State.tryCarveAll_live ?_ _) (by assumption) | with_reducible refine State.pokeUnfit_live ?_ _
    | with_reducible refine live_foldl ?_ (fun _ _ _ => ?_) | dsimp only | split
theorem State.checkTiles_live {lv : Bool} {s : State} (h : LiveIs lv s) (team : Nat) : LiveIs lv (State.checkTiles s team) := by
  unfold State.checkTiles
  repeat' first
    | with_reducible assumption | with_reducible refine State.mapTeam_live ?_ _ _
theorem State.release_live {lv : Bool} {s : State} (h : LiveIs lv s) (t : Team) : LiveIs lv (State.release s t) := by
  unfold State.release
  repeat' first
    | with_reducible assumption | with_reducible refine State.now_live ?_ _ | with_reducible refine State.mapTeam_live ?_ _ _
    | with_reducible refine State.mapSeat_live ?_ _ _ | with_reducible refine State.pokeRing_live ?_ _ _ _
    | with_reducible refine State.nowDue_live ?_ _ | with_reducible refine State.pokeVictim_live ?_ _ _
    | with_reducible refine State.checkTiles_live ?_ _ | with_reducible refine live_foldl ?_ (fun _ _ _ => ?_)
    | fail_if_no_progress (with_reducible refine live_mk ?_; (try dsimp only); with_reducible refine live_cur ?_) | dsimp only | split
theorem State.endCarving_live {lv : Bool} {s : State} (h : LiveIs lv s) (id : Nat) : LiveIs lv (State.endCarving s id) := by
  unfold State.endCarving
  repeat' first
    | with_reducible assumption | with_reducible refine State.release_live ?_ _ | with_reducible refine live_foldl ?_ (fun _ _ _ => ?_) | dsimp only
    | split
theorem State.drain_live {lv : Bool} {s : State} (h : LiveIs lv s) (team : Nat) (park : Bool) : LiveIs lv (State.drain s team park) := by
  unfold State.drain
  repeat' first
    | with_reducible assumption | with_reducible refine State.now_live ?_ _ | with_reducible refine State.anyTeam_live ?_ _ _
    | with_reducible refine live_foldl ?_ (fun _ _ _ => ?_)
theorem State.chooseVictim_live {lv : Bool} {s : State} (h : LiveIs lv s) (core : Nat) (seat : Nat) : LiveIs lv (State.chooseVictim s core seat) := by
  unfold State.chooseVictim
  repeat' first
    | with_reducible assumption | with_reducible refine State.once_live ?_ _ _ | with_reducible refine State.pokeCarve_live ?_ _ _ _
    | with_reducible refine State.pokeVictim_live ?_ _ _ | with_reducible refine State.drain_live ?_ _ _ | dsimp only | split
theorem State.saveImage_live {lv : Bool} {s : State} (h : LiveIs lv s) (t : Team) : LiveIs lv (State.saveImage s t) := by
  unfold State.saveImage
  repeat' first
    | with_reducible assumption | with_reducible refine State.mapTeam_live ?_ _ _
    | fail_if_no_progress (with_reducible refine live_mk ?_; (try dsimp only); with_reducible refine live_cur ?_)
theorem State.beginSave_live {lv : Bool} {s : State} (h : LiveIs lv s) (t : Team) : LiveIs lv (State.beginSave s t) := by
  unfold State.beginSave
  repeat' first
    | with_reducible assumption | with_reducible refine State.at_live ?_ _ _ | with_reducible refine State.mapTeam_live ?_ _ _
    | with_reducible refine State.saveImage_live ?_ _
    | fail_if_no_progress (with_reducible refine live_mk ?_; (try dsimp only); with_reducible refine live_cur ?_)
theorem State.trySave_live {lv : Bool} {s : State} (h : LiveIs lv s) (t : Team) : LiveIs lv (State.trySave s t) := by
  unfold State.trySave
  repeat' first
    | with_reducible assumption | with_reducible refine State.once_live ?_ _ _ | with_reducible refine State.beginSave_live ?_ _
    | with_reducible refine live_foldl ?_ (fun _ _ _ => ?_) | dsimp only | split
theorem State.enqueue_live {lv : Bool} {s : State} (h : LiveIs lv s) (id : Nat) : LiveIs lv (State.enqueue s id) := by
  unfold State.enqueue
  repeat' first
    | with_reducible assumption | with_reducible refine State.fresh_live ?_ | with_reducible refine State.mapTeam_live ?_ _ _
    | with_reducible refine State.pokeCarve_live ?_ _ _ _ | dsimp only | split
theorem State.pokeShare_live {lv : Bool} {s : State} (h : LiveIs lv s) (seat : Nat) (core : Nat) : LiveIs lv (State.pokeShare s seat core) := by
  unfold State.pokeShare
  repeat' first
    | with_reducible assumption | with_reducible refine State.once_live ?_ _ _ | with_reducible refine State.pokeCarve_live ?_ _ _ _
theorem State.endSave_live {lv : Bool} {s : State} (h : LiveIs lv s) (id : Nat) : LiveIs lv (State.endSave s id) := by
  unfold State.endSave
  repeat' first
    | with_reducible assumption | with_reducible refine State.now_live ?_ _ | with_reducible refine State.mapTeam_live ?_ _ _
    | with_reducible refine State.enqueue_live ?_ _ | with_reducible refine State.pokeShare_live ?_ _ _ | dsimp only | split
theorem State.pokeWaiting_live {lv : Bool} {s : State} (h : LiveIs lv s)  : LiveIs lv (State.pokeWaiting s) := by
  unfold State.pokeWaiting
  repeat' first
    | with_reducible assumption | with_reducible refine State.now_live ?_ _ | with_reducible refine live_foldl ?_ (fun _ _ _ => ?_)
theorem State.wakeParked_live {lv : Bool} {s : State} (h : LiveIs lv s) (id : Nat) : LiveIs lv (State.wakeParked s id) := by
  unfold State.wakeParked
  repeat' first
    | with_reducible assumption | with_reducible refine State.now_live ?_ _ | with_reducible refine State.drain_live ?_ _ _
    | with_reducible refine State.enqueue_live ?_ _ | with_reducible refine live_foldl ?_ (fun _ _ _ => ?_) | dsimp only | split
theorem State.withdrawArms_live {lv : Bool} {s : State} (h : LiveIs lv s) (id : Nat) : LiveIs lv (State.withdrawArms s id) := by
  unfold State.withdrawArms
  repeat' first
    | with_reducible assumption | fail_if_no_progress (with_reducible refine live_mk ?_; (try dsimp only); with_reducible refine live_cur ?_)
theorem State.endTeam_live {lv : Bool} {s : State} (h : LiveIs lv s) (t : Team) : LiveIs lv (State.endTeam s t) := by
  unfold State.endTeam
  repeat' first
    | with_reducible assumption | with_reducible refine State.now_live ?_ _ | with_reducible refine State.pokeCommit_live ?_ _
    | with_reducible refine State.pokeShare_live ?_ _ _ | with_reducible refine State.withdrawArms_live ?_ _
    | with_reducible refine live_foldl ?_ (fun _ _ _ => ?_)
    | fail_if_no_progress (with_reducible refine live_mk ?_; (try dsimp only); with_reducible refine live_cur ?_) | dsimp only | split
theorem State.dropEntry_live {lv : Bool} {s : State} (h : LiveIs lv s) (o : Op) : LiveIs lv (State.dropEntry s o) := by
  unfold State.dropEntry
  repeat' first
    | with_reducible assumption | with_reducible refine State.mapSeat_live ?_ _ _ | with_reducible refine State.mapOp_live ?_ _ _
    | fail_if_no_progress (with_reducible refine live_mk ?_; (try dsimp only); with_reducible refine live_cur ?_) | dsimp only | split
theorem State.dropLog_live {lv : Bool} {s : State} (h : LiveIs lv s) (id : Nat) (halted : Bool) : LiveIs lv (State.dropLog s id halted) := by
  unfold State.dropLog
  repeat' first
    | with_reducible assumption | with_reducible refine State.releaseHeld_live ?_ _ _ | with_reducible refine State.pokeWaiting_live ?_
    | with_reducible refine State.dropEntry_live ?_ _ | with_reducible refine live_foldl ?_ (fun _ _ _ => ?_) | dsimp only | split
theorem State.tryEnd_live {lv : Bool} {s : State} (h : LiveIs lv s) (id : Nat) : LiveIs lv (State.tryEnd s id) := by
  unfold State.tryEnd
  repeat' first
    | with_reducible assumption | with_reducible refine State.mapTeam_live ?_ _ _ | with_reducible refine State.pokeCommit_live ?_ _
    | with_reducible refine State.enqueue_live ?_ _ | with_reducible refine State.pokeShare_live ?_ _ _
    | with_reducible refine State.withdrawArms_live ?_ _ | with_reducible refine State.endTeam_live ?_ _
    | with_reducible refine State.dropLog_live ?_ _ _ | with_reducible refine live_foldl ?_ (fun _ _ _ => ?_) | dsimp only | split
theorem State.tryEndGroup_live {lv : Bool} {s : State} (h : LiveIs lv s) (id : Nat) (gid : Nat) : LiveIs lv (State.tryEndGroup s id gid) := by
  unfold State.tryEndGroup
  repeat' first
    | with_reducible assumption | with_reducible refine State.now_live ?_ _ | with_reducible refine State.mapGroup_live ?_ _ _ _
    | with_reducible refine State.pokeShare_live ?_ _ _ | dsimp only | split
theorem State.drained_live {lv : Bool} {s : State} (h : LiveIs lv s) (id : Nat) : LiveIs lv (State.drained s id) := by
  unfold State.drained
  repeat' first
    | with_reducible assumption | with_reducible refine State.trySave_live ?_ _ | with_reducible refine State.tryEnd_live ?_ _ | split
theorem State.addTeam_live {lv : Bool} {s : State} (h : LiveIs lv s) (t : Team) : LiveIs lv (State.addTeam s t) := by
  unfold State.addTeam
  repeat' first
    | with_reducible assumption | with_reducible refine State.fresh_live ?_ | with_reducible refine State.enqueue_live ?_ _
    | fail_if_no_progress (with_reducible refine live_mk ?_; (try dsimp only); with_reducible refine live_cur ?_)
theorem State.startGrid_live {lv : Bool} {s : State} (h : LiveIs lv s) (id : Nat) (spread : Spread) : LiveIs lv (State.startGrid s id spread) := by
  unfold State.startGrid
  repeat' first
    | with_reducible assumption | with_reducible refine State.addTeam_live ?_ _ | with_reducible refine live_foldl ?_ (fun _ _ _ => ?_)
    | fail_if_no_progress (with_reducible refine live_mk ?_; (try dsimp only); with_reducible refine live_cur ?_) | dsimp only | split
theorem State.countGrid_live {lv : Bool} {s : State} (h : LiveIs lv s) (seat : Nat) (vf : Nat) : LiveIs lv (State.countGrid s seat vf).2 := by
  unfold State.countGrid
  repeat' first
    | with_reducible assumption | with_reducible refine State.mapSeat_live ?_ _ _ | split
theorem State.dropGrid_live {lv : Bool} {s : State} (h : LiveIs lv s) (id : Nat) : LiveIs lv (State.dropGrid s id) := by
  unfold State.dropGrid
  repeat' first
    | with_reducible assumption | with_reducible refine State.once_live ?_ _ _ | with_reducible refine State.pokeWaiting_live ?_
    | with_reducible refine live_foldl ?_ (fun _ _ _ => ?_)
    | fail_if_no_progress (with_reducible refine live_mk ?_; (try dsimp only); with_reducible refine live_cur ?_) | dsimp only | split
theorem execTeamCarving_live {s : State} (h : LiveIs false s)  : OutLive false (execTeamCarving s) := by
  unfold execTeamCarving
  repeat' first
    | with_reducible assumption | with_reducible refine optLive_some ?_ | with_reducible exact optLive_none
    | with_reducible refine runEvent_live _ fun e => ?_ | with_reducible refine State.carve_live ?_ _ _ | split
theorem execTeamRelease_live {s : State} (h : LiveIs false s)  : OutLive false (execTeamRelease s) := by
  unfold execTeamRelease
  repeat' first
    | with_reducible assumption | with_reducible refine optLive_some ?_ | with_reducible exact optLive_none
    | with_reducible refine runEvent_live _ fun e => ?_ | with_reducible refine State.endCarving_live ?_ _ | split
theorem execVictimChoice_live {s : State} (h : LiveIs false s)  : OutLive false (execVictimChoice s) := by
  unfold execVictimChoice
  repeat' first
    | with_reducible assumption | with_reducible refine optLive_some ?_ | with_reducible exact optLive_none
    | with_reducible refine runEvent_live _ fun e => ?_ | with_reducible refine State.chooseVictim_live ?_ _ _ | split
theorem execDrainComplete_live {s : State} (h : LiveIs false s)  : OutLive false (execDrainComplete s) := by
  unfold execDrainComplete
  repeat' first
    | with_reducible assumption | with_reducible refine optLive_some ?_ | with_reducible exact optLive_none
    | with_reducible refine runEvent_live _ fun e => ?_ | with_reducible refine State.drained_live ?_ _ | split
theorem execSaveComplete_live {s : State} (h : LiveIs false s)  : OutLive false (execSaveComplete s) := by
  unfold execSaveComplete
  repeat' first
    | with_reducible assumption | with_reducible refine optLive_some ?_ | with_reducible exact optLive_none
    | with_reducible refine runEvent_live _ fun e => ?_ | with_reducible refine State.endSave_live ?_ _ | split
theorem execParkWake_live {s : State} (h : LiveIs false s)  : OutLive false (execParkWake s) := by
  unfold execParkWake
  repeat' first
    | with_reducible assumption | with_reducible refine optLive_some ?_ | with_reducible exact optLive_none
    | with_reducible refine runEvent_live _ fun e => ?_ | with_reducible refine State.wakeParked_live ?_ _ | split
theorem execGroupEnd_live {s : State} (h : LiveIs false s)  : OutLive false (execGroupEnd s) := by
  unfold execGroupEnd
  repeat' first
    | with_reducible assumption | with_reducible refine optLive_some ?_ | with_reducible exact optLive_none
    | with_reducible refine runEvent_live _ fun e => ?_ | with_reducible refine State.tryEndGroup_live ?_ _ _ | split
theorem execTeamEnd_live {s : State} (h : LiveIs false s)  : OutLive false (execTeamEnd s) := by
  unfold execTeamEnd
  repeat' first
    | with_reducible assumption | with_reducible refine optLive_some ?_ | with_reducible exact optLive_none
    | with_reducible refine runEvent_live _ fun e => ?_ | with_reducible refine State.tryEnd_live ?_ _ | split

/-! ### Machine/Launch.lean -/

theorem State.placeRecord_live {lv : Bool} {s : State} (h : LiveIs lv s) (t : Team) (gid : Nat) (ext : W64) (w4 : W64) (age : Nat) : LiveIs lv (State.placeRecord s t gid ext w4 age).2 := by
  unfold State.placeRecord
  repeat' first
    | with_reducible assumption | with_reducible refine State.fresh_live ?_ | with_reducible refine State.countGrid_live ?_ _ _
    | fail_if_no_progress (with_reducible refine live_mk ?_; (try dsimp only); with_reducible refine live_cur ?_)
theorem State.launchWord_live {lv : Bool} {s : State} (h : LiveIs lv s) (d : SReg) (try_ : Bool) (cd : Nat) : LiveIs lv (State.launchWord s d try_ cd) := by
  unfold State.launchWord
  repeat' first
    | with_reducible assumption | with_reducible refine State.onGroup_live ?_ _ | with_reducible refine State.wC_live ?_ _ _
    | with_reducible refine State.goto_live ?_ _ _ | with_reducible refine State.block_live ?_ _ | with_reducible refine State.launchOp_live ?_ _
    | with_reducible refine State.checkOp_live ?_ _ | with_reducible refine State.translate_live ?_ _ _
    | with_reducible refine State.placeOp_live ?_ _ | with_reducible refine State.pend_live ?_ _ _ | with_reducible refine State.drain_live ?_ _ _
    | with_reducible refine State.placeRecord_live ?_ _ _ _ _ _ | dsimp only | split
theorem execLaunch_live {lv : Bool} {s : State} (h : LiveIs lv s) (d : SReg) : OutLive lv (execLaunch d s) := by
  unfold execLaunch
  repeat' first
    | with_reducible assumption | (with_reducible intro t ht) | with_reducible refine exLive_ok ?_ | with_reducible exact exLive_error
    | with_reducible refine runWord_live ?_ _ _ ?_ | with_reducible refine State.launchWord_live ?_ _ _ _ | split
theorem execLaunchTry_live {lv : Bool} {s : State} (h : LiveIs lv s) (d : SReg) (c : CReg) : OutLive lv (execLaunchTry d c s) := by
  unfold execLaunchTry
  repeat' first
    | with_reducible assumption | (with_reducible intro t ht) | with_reducible refine exLive_ok ?_ | with_reducible exact exLive_error
    | with_reducible refine runWord_live ?_ _ _ ?_ | with_reducible refine State.launchWord_live ?_ _ _ _ | split
theorem State.refuseGrid_live {lv : Bool} {s : State} (h : LiveIs lv s) (g : Grid) (status : Nat) : LiveIs lv (State.refuseGrid s g status) := by
  unfold State.refuseGrid
  repeat' first
    | with_reducible assumption | with_reducible refine State.complete_live ?_ _ _ _ _ | with_reducible refine State.dropGrid_live ?_ _
theorem State.endLaunch_live {lv : Bool} {s : State} (h : LiveIs lv s) (o : Op) (try_ : Bool) (cd : Nat) : LiveIs lv (State.endLaunch s o try_ cd) := by
  unfold State.endLaunch
  repeat' first
    | with_reducible assumption | with_reducible refine State.anyGroup_live ?_ _ _ _ | with_reducible refine State.landOp_live ?_ _ | split
theorem State.settleLaunch_live {lv : Bool} {s : State} (h : LiveIs lv s) (id : Nat) : LiveIs lv (State.settleLaunch s id) := by
  unfold State.settleLaunch
  repeat' first
    | with_reducible assumption | with_reducible refine State.mapOp_live ?_ _ _ | with_reducible refine State.finishOp_live ?_ _
    | with_reducible refine State.defer_live ?_ _ _ | with_reducible refine State.waitDone_live ?_ _ _ _
    | with_reducible refine State.chargeOp_live ?_ _ _ _ _ _ | with_reducible refine State.recordFault_live ?_ _ _ _ _ _ _
    | with_reducible refine State.startGrid_live ?_ _ _ | with_reducible refine State.dropGrid_live ?_ _
    | with_reducible refine State.refuseGrid_live ?_ _ _ | with_reducible refine State.endLaunch_live ?_ _ _ _
    | with_reducible refine live_foldl ?_ (fun _ _ _ => ?_)
    | fail_if_no_progress (with_reducible refine live_mk ?_; (try dsimp only); with_reducible refine live_cur ?_) | dsimp only | split
theorem State.refuseBuild_live {lv : Bool} {s : State} (h : LiveIs lv s) (id : Nat) : LiveIs lv (State.refuseBuild s id) := by
  unfold State.refuseBuild
  repeat' first
    | with_reducible assumption | with_reducible refine State.finishOp_live ?_ _ | with_reducible refine State.refuseGrid_live ?_ _ _
    | with_reducible refine State.endLaunch_live ?_ _ _ _ | split
theorem joinWord_live {lv : Bool} {s : State} (h : LiveIs lv s) (i : Instr) (tag : State → Option Nat) : OutLive lv (joinWord i tag s) := by
  unfold joinWord
  repeat' first
    | with_reducible assumption | (with_reducible intro t ht) | with_reducible refine State.block_live ?_ _
    | with_reducible refine runPure_live ?_ _ _ ?_ | with_reducible refine State.drain_live ?_ _ _ | dsimp only | split
theorem execJoin_live {lv : Bool} {s : State} (h : LiveIs lv s) (a : SReg) : OutLive lv (execJoin a s) := by
  unfold execJoin
  repeat' first
    | with_reducible assumption | with_reducible refine joinWord_live ?_ _ _
theorem execJoinAll_live {lv : Bool} {s : State} (h : LiveIs lv s)  : OutLive lv (execJoinAll s) := by
  unfold execJoinAll
  repeat' first
    | with_reducible assumption | with_reducible refine joinWord_live ?_ _ _
theorem execJoinDoor_live {lv : Bool} {s : State} (h : LiveIs lv s) (a : SReg) : OutLive lv (execJoinDoor a s) := by
  unfold execJoinDoor
  repeat' first
    | with_reducible assumption | (with_reducible intro t ht) | with_reducible refine State.block_live ?_ _
    | with_reducible refine runPure_live ?_ _ _ ?_ | with_reducible refine State.charge_live ?_ _ _ _
theorem State.sendMessage_live {lv : Bool} {s : State} (h : LiveIs lv s) (id : Nat) : LiveIs lv (State.sendMessage s id) := by
  unfold State.sendMessage
  repeat' first
    | with_reducible assumption | with_reducible refine State.fresh_live ?_ | with_reducible refine State.mapOp_live ?_ _ _
    | with_reducible refine State.schedule_live ?_ _
    | fail_if_no_progress (with_reducible refine live_mk ?_; (try dsimp only); with_reducible refine live_cur ?_) | dsimp only | split
theorem execAmsg_live {lv : Bool} {s : State} (h : LiveIs lv s) (d : SReg) : OutLive lv (execAmsg d s) := by
  unfold execAmsg
  repeat' first
    | with_reducible assumption | (with_reducible intro t ht) | with_reducible refine exLive_ok ?_ | with_reducible exact exLive_error
    | with_reducible refine State.onGroup_live ?_ _ | with_reducible refine State.launchOp_live ?_ _ | with_reducible refine runWord_live ?_ _ _ ?_
    | with_reducible refine State.placeOp_live ?_ _ | with_reducible refine State.sendMessage_live ?_ _ | dsimp only | split
theorem State.acceptMessage_live {lv : Bool} {s : State} (h : LiveIs lv s) (id : Nat) : LiveIs lv (State.acceptMessage s id) := by
  unfold State.acceptMessage
  repeat' first
    | with_reducible assumption | with_reducible refine State.fresh_live ?_ | with_reducible refine State.finishOp_live ?_ _
    | with_reducible refine State.addTeam_live ?_ _ | dsimp only | split
theorem execAmsgAccept_live {s : State} (h : LiveIs false s)  : OutLive false (execAmsgAccept s) := by
  unfold execAmsgAccept
  repeat' first
    | with_reducible assumption | with_reducible refine optLive_some ?_ | with_reducible exact optLive_none
    | with_reducible refine runEvent_live _ fun e => ?_ | with_reducible refine State.acceptMessage_live ?_ _
    | fail_if_no_progress (with_reducible refine live_mk ?_; (try dsimp only); with_reducible refine live_cur ?_) | split
theorem execVregrp_live {lv : Bool} {s : State} (h : LiveIs lv s) (f : VReg) (n : Fin 16) (c : CReg) (p : Fin 256) : OutLive lv (execVregrp f n c p s) := by
  unfold execVregrp
  repeat' first
    | with_reducible assumption | (with_reducible intro t ht) | with_reducible refine exLive_ok ?_ | with_reducible exact exLive_error
    | with_reducible refine State.onTeam_live ?_ _ | with_reducible refine State.goto_live ?_ _ _ | with_reducible refine State.block_live ?_ _
    | with_reducible refine State.now_live ?_ _ | with_reducible refine runWord_live ?_ _ _ ?_ | dsimp only | split
theorem State.wakeRange_live {lv : Bool} {s : State} (h : LiveIs lv s) (team : Nat) (g : Group) (r : Regroup) : LiveIs lv (State.wakeRange s team g r) := by
  unfold State.wakeRange
  repeat' first
    | with_reducible assumption | with_reducible refine State.at_live ?_ _ _ | with_reducible refine State.mapGroup_live ?_ _ _ _
    | with_reducible refine live_foldl ?_ (fun _ _ _ => ?_) | dsimp only | split
theorem State.tryRegroup_live {lv : Bool} {s : State} (h : LiveIs lv s) (id : Nat) : LiveIs lv (State.tryRegroup s id) := by
  unfold State.tryRegroup
  repeat' first
    | with_reducible assumption | with_reducible refine State.at_live ?_ _ _ | with_reducible refine State.mapTeam_live ?_ _ _
    | with_reducible refine State.once_live ?_ _ _ | with_reducible refine State.wakeRange_live ?_ _ _ _
    | with_reducible refine live_foldl ?_ (fun _ _ _ => ?_) | dsimp only | split
theorem execRegroupComplete_live {s : State} (h : LiveIs false s)  : OutLive false (execRegroupComplete s) := by
  unfold execRegroupComplete
  repeat' first
    | with_reducible assumption | with_reducible refine optLive_some ?_ | with_reducible exact optLive_none
    | with_reducible refine runEvent_live _ fun e => ?_ | with_reducible refine State.tryRegroup_live ?_ _ | split

end Sys2Proof.Machine
end

