-- ==== Sys2Proof/Laws/LiveDevice.lean ====
section
/-!
SUPPORT. Every operation and meaning of Machine/Replies, Seats, Queues, Device and Portable leaves a split in focus or none, as it
found it.
-/

namespace Sys2Proof.Machine

open Sys2Proof


/-! ### Machine/Replies.lean -/

theorem State.settleOp_live {lv : Bool} {s : State} (h : LiveIs lv s) (id : Nat) : LiveIs lv (State.settleOp s id) := by
  unfold State.settleOp
  repeat' first
    | with_reducible assumption | with_reducible refine State.checkOp_live ?_ _ | with_reducible refine State.releaseHeld_live ?_ _ _
    | with_reducible refine State.settleLaunch_live ?_ _ | split
theorem State.retireReq_live {lv : Bool} {s : State} (h : LiveIs lv s) (r : Req) : LiveIs lv (State.retireReq s r) := by
  unfold State.retireReq
  repeat' first
    | with_reducible assumption | with_reducible refine State.mapOp_live ?_ _ _ | with_reducible refine State.dropReq_live ?_ _
    | with_reducible refine State.settleOp_live ?_ _
theorem State.walkReply_live {lv : Bool} {s : State} (h : LiveIs lv s) (r : Req) : LiveIs lv (State.walkReply s r) := by
  unfold State.walkReply
  repeat' first
    | with_reducible assumption | with_reducible refine State.at_live ?_ _ _ | with_reducible refine State.dropReq_live ?_ _
    | with_reducible refine State.mapWalk_live ?_ _ _ | with_reducible refine State.readEntry_live ?_ _ | dsimp only | split
theorem State.refusedReply_live {lv : Bool} {s : State} (h : LiveIs lv s) (r : Req) : LiveIs lv (State.refusedReply s r) := by
  unfold State.refusedReply
  repeat' first
    | with_reducible assumption | with_reducible refine State.dropReq_live ?_ _ | with_reducible refine State.refuse_live ?_ _ _
    | with_reducible refine State.stopCopy_live ?_ _ _ | with_reducible refine State.retireReq_live ?_ _ | split
theorem State.reply_live {lv : Bool} {s : State} (h : LiveIs lv s) (id : Nat) : LiveIs lv (State.reply s id) := by
  unfold State.reply
  repeat' first
    | with_reducible assumption | with_reducible refine State.fresh_live ?_ | with_reducible refine State.mapSeat_live ?_ _ _
    | with_reducible refine State.dropReq_live ?_ _ | with_reducible refine State.linkDone_live ?_ _
    | with_reducible refine State.pieceDone_live ?_ _ _ | with_reducible refine State.retireReq_live ?_ _
    | with_reducible refine State.walkReply_live ?_ _ | with_reducible refine State.refusedReply_live ?_ _ | dsimp only | split
theorem State.acknowledge_live {lv : Bool} {s : State} (h : LiveIs lv s) (id : Nat) : LiveIs lv (State.acknowledge s id) := by
  unfold State.acknowledge
  repeat' first
    | with_reducible assumption | with_reducible refine State.dropReq_live ?_ _ | with_reducible refine State.linkDone_live ?_ _
    | with_reducible refine State.retireReq_live ?_ _ | with_reducible refine State.refusedReply_live ?_ _ | dsimp only | split
theorem State.storePerformed_live {lv : Bool} {s : State} (h : LiveIs lv s) (id : Nat) : LiveIs lv (State.storePerformed s id) := by
  unfold State.storePerformed
  repeat' first
    | with_reducible assumption | with_reducible refine State.perform_live ?_ _ | with_reducible refine State.pieceDone_live ?_ _ _ | dsimp only
    | split
theorem State.atomicPerformed_live {lv : Bool} {s : State} (h : LiveIs lv s) (id : Nat) : LiveIs lv (State.atomicPerformed s id) := by
  unfold State.atomicPerformed
  repeat' first
    | with_reducible assumption | with_reducible refine State.perform_live ?_ _ | with_reducible refine State.retireReq_live ?_ _ | dsimp only | split
theorem State.recalled_live {lv : Bool} {s : State} (h : LiveIs lv s) (id : Nat) : LiveIs lv (State.recalled s id) := by
  unfold State.recalled
  repeat' first
    | with_reducible assumption | with_reducible refine State.mapSeat_live ?_ _ _ | with_reducible refine State.mapReq_live ?_ _ _
    | with_reducible refine State.dropReq_live ?_ _ | with_reducible refine State.schedule_live ?_ _ | dsimp only | split
theorem execLoadReply_live {s : State} (h : LiveIs false s)  : OutLive false (execLoadReply s) := by
  unfold execLoadReply
  repeat' first
    | with_reducible assumption | with_reducible refine optLive_some ?_ | with_reducible exact optLive_none
    | with_reducible refine runEvent_live _ fun e => ?_ | with_reducible refine State.reply_live ?_ _ | split
theorem execStorePerform_live {s : State} (h : LiveIs false s)  : OutLive false (execStorePerform s) := by
  unfold execStorePerform
  repeat' first
    | with_reducible assumption | with_reducible refine optLive_some ?_ | with_reducible exact optLive_none
    | with_reducible refine runEvent_live _ fun e => ?_ | with_reducible refine State.storePerformed_live ?_ _ | split
theorem execStoreAcknowledge_live {s : State} (h : LiveIs false s)  : OutLive false (execStoreAcknowledge s) := by
  unfold execStoreAcknowledge
  repeat' first
    | with_reducible assumption | with_reducible refine optLive_some ?_ | with_reducible exact optLive_none
    | with_reducible refine runEvent_live _ fun e => ?_ | with_reducible refine State.acknowledge_live ?_ _ | split
theorem execLineRecall_live {s : State} (h : LiveIs false s)  : OutLive false (execLineRecall s) := by
  unfold execLineRecall
  repeat' first
    | with_reducible assumption | with_reducible refine optLive_some ?_ | with_reducible exact optLive_none
    | with_reducible refine runEvent_live _ fun e => ?_ | with_reducible refine State.recalled_live ?_ _ | split
theorem execAtomicPerform_live {s : State} (h : LiveIs false s)  : OutLive false (execAtomicPerform s) := by
  unfold execAtomicPerform
  repeat' first
    | with_reducible assumption | with_reducible refine optLive_some ?_ | with_reducible exact optLive_none
    | with_reducible refine runEvent_live _ fun e => ?_ | with_reducible refine State.atomicPerformed_live ?_ _ | split
theorem execScratchpadRowServe_live {s : State} (h : LiveIs false s)  : OutLive false (execScratchpadRowServe s) := by
  unfold execScratchpadRowServe
  repeat' first
    | with_reducible assumption | with_reducible refine optLive_some ?_ | with_reducible exact optLive_none
    | with_reducible refine runEvent_live _ fun e => ?_ | with_reducible refine State.serveRows_live ?_ _ _ | split
theorem execBufferPortCycle_live {s : State} (h : LiveIs false s)  : OutLive false (execBufferPortCycle s) := by
  unfold execBufferPortCycle
  repeat' first
    | with_reducible assumption | with_reducible refine optLive_some ?_ | with_reducible exact optLive_none
    | with_reducible refine runEvent_live _ fun e => ?_ | with_reducible refine State.servePort_live ?_ _ _ | split
theorem State.sendHeld_live {lv : Bool} {s : State} (h : LiveIs lv s) (id : Nat) : LiveIs lv (State.sendHeld s id) := by
  unfold State.sendHeld
  repeat' first
    | with_reducible assumption | with_reducible refine State.at_live ?_ _ _ | with_reducible refine State.mapReq_live ?_ _ _
    | with_reducible refine live_foldl ?_ (fun _ _ _ => ?_) | dsimp only | split
theorem State.applyHeld_live {lv : Bool} {s : State} (h : LiveIs lv s) (id : Nat) : LiveIs lv (State.applyHeld s id) := by
  unfold State.applyHeld
  repeat' first
    | with_reducible assumption | with_reducible refine State.at_live ?_ _ _ | with_reducible refine State.mapOp_live ?_ _ _
    | with_reducible refine State.anyGroup_live ?_ _ _ _ | with_reducible refine State.finishOp_live ?_ _
    | with_reducible refine State.defer_live ?_ _ _ | with_reducible refine State.wakeReleases_live ?_ _ _
    | with_reducible refine live_ofPair (State.barApply_live ?_ _ _ _) (by assumption) | with_reducible refine State.settleLocal_live ?_ _ _ _ _ _
    | with_reducible refine State.sendMessage_live ?_ _ | with_reducible refine State.settleOp_live ?_ _
    | with_reducible refine State.sendHeld_live ?_ _ | dsimp only | split
theorem execReleaseApply_live {s : State} (h : LiveIs false s)  : OutLive false (execReleaseApply s) := by
  unfold execReleaseApply
  repeat' first
    | with_reducible assumption | with_reducible refine optLive_some ?_ | with_reducible exact optLive_none
    | with_reducible refine runEvent_live _ fun e => ?_ | with_reducible refine State.applyHeld_live ?_ _ | split
theorem State.chargeAlight_live {lv : Bool} {s : State} (h : LiveIs lv s) (i : Nat) (event : Nat) (c : Nat) (va : Nat) : LiveIs lv (State.chargeAlight s i event c va) := by
  unfold State.chargeAlight
  repeat' first
    | with_reducible assumption | with_reducible refine State.charge_live ?_ _ _ _ | split
theorem State.bufferedOver_live {lv : Bool} {s : State} (h : LiveIs lv s) (o : Op) : LiveIs lv (State.bufferedOver s o) := by
  unfold State.bufferedOver
  repeat' first
    | with_reducible assumption | with_reducible refine State.mapOp_live ?_ _ _ | with_reducible refine State.pokeCommit_live ?_ _
    | with_reducible refine State.waitDone_live ?_ _ _ _ | with_reducible refine live_foldl ?_ (fun _ _ _ => ?_) | dsimp only | split
theorem State.bufferedPage_live {lv : Bool} {s : State} (h : LiveIs lv s) (w : Walk) (o : Op) (vbase : Nat) (size : Nat) (leaf : W64) : LiveIs lv (State.bufferedPage s w o vbase size leaf) := by
  unfold State.bufferedPage
  repeat' first
    | with_reducible assumption | with_reducible refine State.mapOp_live ?_ _ _ | with_reducible refine State.bufferedOver_live ?_ _
theorem State.takeLeaf_live {lv : Bool} {s : State} (h : LiveIs lv s) (w : Walk) (place : Nat → Phys) (leaf : W64) (level : Nat) (size : Nat) (a : FaultOwner × LaneMask) (fills : Bool) : LiveIs lv (State.takeLeaf s w place leaf level size a fills) := by
  unfold State.takeLeaf
  repeat' first
    | with_reducible assumption | with_reducible refine State.now_live ?_ _ | with_reducible refine State.countAccess_live ?_ _ _ _ _ _
    | with_reducible refine State.sendLanes_live ?_ _ _ _ _ _ _ | with_reducible refine State.answerLanes_live ?_ _ _ _ _ _ _ _
    | with_reducible refine State.stopCopy_live ?_ _ _ | with_reducible refine State.sendPiece_live ?_ _ _ _ _ _ _ _
    | with_reducible refine State.sendHome_live ?_ _ _ _ _ | with_reducible refine State.refuseHome_live ?_ _ _
    | with_reducible refine State.settleOp_live ?_ _ | with_reducible refine State.bufferedOver_live ?_ _
    | with_reducible refine State.bufferedPage_live ?_ _ _ _ _ _
    | fail_if_no_progress (with_reducible refine live_mk ?_; (try dsimp only); with_reducible refine live_cur ?_) | dsimp only | split
theorem State.takeFault_live {lv : Bool} {s : State} (h : LiveIs lv s) (w : Walk) (a : FaultOwner × LaneMask) : LiveIs lv (State.takeFault s w a) := by
  unfold State.takeFault
  repeat' first
    | with_reducible assumption | with_reducible refine State.recordFault_live ?_ _ _ _ _ _ _ | with_reducible refine State.faultLanes_live ?_ _ _ _ _
    | with_reducible refine State.chargePiece_live ?_ _ _ _ _ | with_reducible refine State.settleOp_live ?_ _
    | with_reducible refine State.chargeAlight_live ?_ _ _ _ _ | split
theorem State.takeBad_live {lv : Bool} {s : State} (h : LiveIs lv s) (w : Walk) (a : FaultOwner × LaneMask) : LiveIs lv (State.takeBad s w a) := by
  unfold State.takeBad
  repeat' first
    | with_reducible assumption | with_reducible refine State.refuse_live ?_ _ _ | with_reducible refine State.stopCopy_live ?_ _ _
    | with_reducible refine State.refuseHome_live ?_ _ _ | with_reducible refine State.settleOp_live ?_ _
    | with_reducible refine State.bufferedPage_live ?_ _ _ _ _ _ | split
theorem State.chargeParty_live {lv : Bool} {s : State} (h : LiveIs lv s) (w : Walk) (event : Nat) (c : Nat) (a : FaultOwner × LaneMask) : LiveIs lv (State.chargeParty s w event c a) := by
  unfold State.chargeParty
  repeat' first
    | with_reducible assumption | with_reducible refine State.mapOp_live ?_ _ _ | with_reducible refine State.chargeOp_live ?_ _ _ _ _ _
    | with_reducible refine State.chargePiece_live ?_ _ _ _ _ | with_reducible refine State.chargeAlight_live ?_ _ _ _ _ | split
theorem State.dropWalk_live {lv : Bool} {s : State} (h : LiveIs lv s) (w : Walk) : LiveIs lv (State.dropWalk s w) := by
  unfold State.dropWalk
  repeat' first
    | with_reducible assumption | with_reducible refine State.startWalks_live ?_ _ _
    | fail_if_no_progress (with_reducible refine live_mk ?_; (try dsimp only); with_reducible refine live_cur ?_)
theorem State.fillFrom_live {lv : Bool} {s : State} (h : LiveIs lv s) (w : Walk) (leaf : W64) (vbase : Nat) (size : Nat) (at_ : Nat) : LiveIs lv (State.fillFrom s w leaf vbase size at_) := by
  unfold State.fillFrom
  repeat' first
    | with_reducible assumption | with_reducible refine State.fresh_live ?_ | with_reducible refine State.mapSeat_live ?_ _ _
    | with_reducible refine State.raiseHeat_live ?_ _ _ _ _ | dsimp only | split
theorem State.askAts_live {lv : Bool} {s : State} (h : LiveIs lv s) (w : Walk) : LiveIs lv (State.askAts s w) := by
  unfold State.askAts
  repeat' first
    | with_reducible assumption | with_reducible refine State.mapWalk_live ?_ _ _
    | fail_if_no_progress (with_reducible refine live_mk ?_; (try dsimp only); with_reducible refine live_cur ?_)
theorem State.badEntry_live {lv : Bool} {s : State} (h : LiveIs lv s) (w : Walk) (at_ : Nat) : LiveIs lv (State.badEntry s w at_) := by
  unfold State.badEntry
  repeat' first
    | with_reducible assumption | with_reducible refine State.logEvent_live ?_ _ _ _ _ _ _ _ _ | with_reducible refine State.takeBad_live ?_ _ _
    | with_reducible refine State.dropWalk_live ?_ _ | with_reducible refine live_foldl ?_ (fun _ _ _ => ?_)
theorem State.endWalk_live {lv : Bool} {s : State} (h : LiveIs lv s) (id : Nat) : LiveIs lv (State.endWalk s id) := by
  unfold State.endWalk
  repeat' first
    | with_reducible assumption | with_reducible refine State.mapWalk_live ?_ _ _ | with_reducible refine State.startWalks_live ?_ _ _
    | with_reducible refine State.takeLeaf_live ?_ _ _ _ _ _ _ _ | with_reducible refine State.takeFault_live ?_ _ _
    | with_reducible refine State.takeBad_live ?_ _ _ | with_reducible refine State.chargeParty_live ?_ _ _ _ _
    | with_reducible refine State.dropWalk_live ?_ _ | with_reducible refine State.fillFrom_live ?_ _ _ _ _ _
    | with_reducible refine State.askAts_live ?_ _ | with_reducible refine State.badEntry_live ?_ _ _
    | with_reducible refine live_foldl ?_ (fun _ _ _ => ?_) | dsimp only | split
theorem execTlbWalkComplete_live {s : State} (h : LiveIs false s)  : OutLive false (execTlbWalkComplete s) := by
  unfold execTlbWalkComplete
  repeat' first
    | with_reducible assumption | with_reducible refine optLive_some ?_ | with_reducible exact optLive_none
    | with_reducible refine runEvent_live _ fun e => ?_ | with_reducible refine State.endWalk_live ?_ _ | split
theorem State.invalidate_live {lv : Bool} {s : State} (h : LiveIs lv s) (seat : Nat) (asid : Option Nat) (page : Option Nat) : LiveIs lv (State.invalidate s seat asid page) := by
  unfold State.invalidate
  repeat' first
    | with_reducible assumption | with_reducible refine State.mapSeat_live ?_ _ _
    | fail_if_no_progress (with_reducible refine live_mk ?_; (try dsimp only); with_reducible refine live_cur ?_)
theorem State.stepTlbinv_live {lv : Bool} {s : State} (h : LiveIs lv s) (id : Nat) : LiveIs lv (State.stepTlbinv s id) := by
  unfold State.stepTlbinv
  repeat' first
    | with_reducible assumption | with_reducible refine State.at_live ?_ _ _ | with_reducible refine State.mapOp_live ?_ _ _
    | with_reducible refine State.finishOp_live ?_ _ | with_reducible refine State.invalidate_live ?_ _ _ _ | dsimp only | split
theorem execTlbinvComplete_live {s : State} (h : LiveIs false s)  : OutLive false (execTlbinvComplete s) := by
  unfold execTlbinvComplete
  repeat' first
    | with_reducible assumption | with_reducible refine optLive_some ?_ | with_reducible exact optLive_none
    | with_reducible refine runEvent_live _ fun e => ?_ | with_reducible refine State.stepTlbinv_live ?_ _ | split
theorem State.unresolved_live {lv : Bool} {s : State} (h : LiveIs lv s) (seat : Nat) (ow : FaultOwner) (m : LaneMask) (va : Nat) : LiveIs lv (State.unresolved s seat ow m va) := by
  unfold State.unresolved
  repeat' first
    | with_reducible assumption | with_reducible refine State.now_live ?_ _ | with_reducible refine State.mapSeat_live ?_ _ _
    | with_reducible refine State.mapOp_live ?_ _ _ | with_reducible refine State.settleOp_live ?_ _
    | fail_if_no_progress (with_reducible refine live_mk ?_; (try dsimp only); with_reducible refine live_cur ?_) | dsimp only | split
theorem State.resumeFault_live {lv : Bool} {s : State} (h : LiveIs lv s) (f : FaultRec) : LiveIs lv (State.resumeFault s f) := by
  unfold State.resumeFault
  repeat' first
    | with_reducible assumption | with_reducible refine State.now_live ?_ _ | with_reducible refine State.waitDone_live ?_ _ _ _
    | with_reducible refine State.mapCopy_live ?_ _ _ | with_reducible refine State.homeWrite_live ?_ _
    | with_reducible refine State.settleLaunch_live ?_ _ | with_reducible refine State.bufferedOver_live ?_ _
    | with_reducible refine live_foldl ?_ (fun _ _ _ => ?_)
    | fail_if_no_progress (with_reducible refine live_mk ?_; (try dsimp only); with_reducible refine live_cur ?_)
    | with_reducible refine optLive_getD (optLive_of fun _ => ?_) ?_ | split
theorem State.nextFault_live {lv : Bool} {s : State} (h : LiveIs lv s) (f : FaultRec) : LiveIs lv (State.nextFault s f) := by
  unfold State.nextFault
  repeat' first
    | with_reducible assumption | with_reducible refine State.now_live ?_ _
    | fail_if_no_progress (with_reducible refine live_mk ?_; (try dsimp only); with_reducible refine live_cur ?_) | split
theorem State.dropFaults_live {lv : Bool} {s : State} (h : LiveIs lv s) (f : FaultRec) : LiveIs lv (State.dropFaults s f) := by
  unfold State.dropFaults
  repeat' first
    | with_reducible assumption | with_reducible refine State.nextFault_live ?_ _ | with_reducible refine live_foldl ?_ (fun _ _ _ => ?_)
    | fail_if_no_progress (with_reducible refine live_mk ?_; (try dsimp only); with_reducible refine live_cur ?_)
theorem State.resolvePage_live {lv : Bool} {s : State} (h : LiveIs lv s) (f : FaultRec) : LiveIs lv (State.resolvePage s f) := by
  unfold State.resolvePage
  repeat' first
    | with_reducible assumption | with_reducible refine State.resumeFault_live ?_ _ | with_reducible refine State.dropFaults_live ?_ _
    | with_reducible refine live_foldl ?_ (fun _ _ _ => ?_)
theorem State.refusePage_live {lv : Bool} {s : State} (h : LiveIs lv s) (f : FaultRec) : LiveIs lv (State.refusePage s f) := by
  unfold State.refusePage
  repeat' first
    | with_reducible assumption | with_reducible refine State.unresolved_live ?_ _ _ _ _ | with_reducible refine State.dropFaults_live ?_ _
    | with_reducible refine live_foldl ?_ (fun _ _ _ => ?_)
theorem State.makeValid_live {lv : Bool} {s : State} (h : LiveIs lv s) (w : W64) (at_ : Nat) : OptLive lv (State.makeValid s w at_) := by
  unfold State.makeValid
  repeat' first
    | with_reducible assumption | with_reducible refine optLive_some ?_ | with_reducible exact optLive_none
    | with_reducible refine State.claimSlice_live ?_ _
    | fail_if_no_progress (with_reducible refine live_mk ?_; (try dsimp only); with_reducible refine live_cur ?_) | dsimp only | split
theorem State.serviceFault_live {lv : Bool} {s : State} (h : LiveIs lv s) (f : FaultRec) : LiveIs lv (State.serviceFault s f) := by
  unfold State.serviceFault
  repeat' first
    | with_reducible assumption | with_reducible refine State.at_live ?_ _ _ | with_reducible refine State.draw_live ?_
    | with_reducible refine State.complete_live ?_ _ _ _ _ | with_reducible refine State.resolvePage_live ?_ _
    | with_reducible refine State.refusePage_live ?_ _ | with_reducible refine optLive_elim (State.makeValid_live ?_ _ _) (by assumption)
    | fail_if_no_progress (with_reducible refine live_mk ?_; (try dsimp only); with_reducible refine live_cur ?_) | dsimp only | split
theorem execFaultService_live {s : State} (h : LiveIs false s)  : OutLive false (execFaultService s) := by
  unfold execFaultService
  repeat' first
    | with_reducible assumption | with_reducible refine optLive_some ?_ | with_reducible exact optLive_none
    | with_reducible refine runEvent_live _ fun e => ?_ | with_reducible refine State.serviceFault_live ?_ _ | split
theorem State.pageAnswered_live {lv : Bool} {s : State} (h : LiveIs lv s) (f : FaultRec) (refused : Bool) : LiveIs lv (State.pageAnswered s f refused) := by
  unfold State.pageAnswered
  repeat' first
    | with_reducible assumption | with_reducible refine State.resolvePage_live ?_ _ | with_reducible refine State.refusePage_live ?_ _
    | with_reducible refine optLive_elim (State.makeValid_live ?_ _ _) (by assumption) | split
theorem State.replay_live {lv : Bool} {s : State} (h : LiveIs lv s) (id : Nat) : LiveIs lv (State.replay s id) := by
  unfold State.replay
  repeat' first
    | with_reducible assumption | with_reducible refine State.mapOp_live ?_ _ _ | with_reducible refine State.replayNext_live ?_ _ _
    | with_reducible refine State.translate_live ?_ _ _ | with_reducible refine State.homeWrite_live ?_ _
    | with_reducible refine State.settleOp_live ?_ _ | with_reducible refine State.bufferedOver_live ?_ _ | dsimp only | split
theorem execLogReplay_live {s : State} (h : LiveIs false s)  : OutLive false (execLogReplay s) := by
  unfold execLogReplay
  repeat' first
    | with_reducible assumption | with_reducible refine optLive_some ?_ | with_reducible exact optLive_none
    | with_reducible refine runEvent_live _ fun e => ?_ | with_reducible refine State.replay_live ?_ _ | split
theorem State.sendPri_live {lv : Bool} {s : State} (h : LiveIs lv s) (w : Walk) : LiveIs lv (State.sendPri s w) := by
  unfold State.sendPri
  repeat' first
    | with_reducible assumption | with_reducible refine State.mapWalk_live ?_ _ _
    | fail_if_no_progress (with_reducible refine live_mk ?_; (try dsimp only); with_reducible refine live_cur ?_) | dsimp only | split
theorem State.nextPages_live {lv : Bool} {s : State} (h : LiveIs lv s) (vf : Nat) : LiveIs lv (State.nextPages s vf) := by
  unfold State.nextPages
  repeat' first
    | with_reducible assumption | with_reducible refine State.sendPri_live ?_ _ | split
theorem State.askedHost_live {lv : Bool} {s : State} (h : LiveIs lv s) (seat : Nat) (ow : FaultOwner) : LiveIs lv (State.askedHost s seat ow) := by
  unfold State.askedHost
  repeat' first
    | with_reducible assumption | with_reducible refine State.waitDone_live ?_ _ _ _ | with_reducible refine live_foldl ?_ (fun _ _ _ => ?_) | split
theorem State.atsAnswer_live {lv : Bool} {s : State} (h : LiveIs lv s) (vf : Nat) (pasid : Nat) (va : Nat) (pa : Nat) (size : Nat) (rd : Bool) (wr : Bool) : LiveIs lv (State.atsAnswer s vf pasid va pa size rd wr) := by
  unfold State.atsAnswer
  repeat' first
    | with_reducible assumption | with_reducible refine State.mapWalk_live ?_ _ _ | with_reducible refine State.takeLeaf_live ?_ _ _ _ _ _ _ _
    | with_reducible refine State.chargeParty_live ?_ _ _ _ _ | with_reducible refine State.dropWalk_live ?_ _
    | with_reducible refine State.fillFrom_live ?_ _ _ _ _ _ | with_reducible refine State.sendPri_live ?_ _
    | with_reducible refine State.askedHost_live ?_ _ _ | with_reducible refine live_foldl ?_ (fun _ _ _ => ?_) | split
theorem execAtsCompletion_live {s : State} (h : LiveIs false s)  : OutLive false (execAtsCompletion s) := by
  unfold execAtsCompletion
  repeat' first
    | with_reducible assumption | with_reducible refine optLive_some ?_ | with_reducible exact optLive_none
    | with_reducible refine runEvent_live _ fun e => ?_ | with_reducible refine State.atsAnswer_live ?_ _ _ _ _ _ _ _ | split
theorem State.failParty_live {lv : Bool} {s : State} (h : LiveIs lv s) (w : Walk) (a : FaultOwner × LaneMask) : LiveIs lv (State.failParty s w a) := by
  unfold State.failParty
  repeat' first
    | with_reducible assumption | with_reducible refine State.mapOp_live ?_ _ _ | with_reducible refine State.enterLog_live ?_ _
    | with_reducible refine State.unresolved_live ?_ _ _ _ _ | dsimp only | split
theorem State.walkAgain_live {lv : Bool} {s : State} (h : LiveIs lv s) (w : Walk) : LiveIs lv (State.walkAgain s w) := by
  unfold State.walkAgain
  repeat' first
    | with_reducible assumption | with_reducible refine State.now_live ?_ _ | with_reducible refine State.joinWalk_live ?_ _ _ _ _ _ _ _
    | with_reducible refine State.dropWalk_live ?_ _ | with_reducible refine live_foldl ?_ (fun _ _ _ => ?_)
    | fail_if_no_progress (with_reducible refine live_mk ?_; (try dsimp only); with_reducible refine live_cur ?_) | split
theorem State.priAnswer_live {lv : Bool} {s : State} (h : LiveIs lv s) (vf : Nat) (pasid : Nat) (va : Nat) (success : Bool) : LiveIs lv (State.priAnswer s vf pasid va success) := by
  unfold State.priAnswer
  repeat' first
    | with_reducible assumption | with_reducible refine State.dropWalk_live ?_ _ | with_reducible refine State.askAts_live ?_ _
    | with_reducible refine State.nextPages_live ?_ _ | with_reducible refine State.failParty_live ?_ _ _
    | with_reducible refine State.walkAgain_live ?_ _ | with_reducible refine live_foldl ?_ (fun _ _ _ => ?_) | split
theorem execPriResponse_live {s : State} (h : LiveIs false s)  : OutLive false (execPriResponse s) := by
  unfold execPriResponse
  repeat' first
    | with_reducible assumption | with_reducible refine optLive_some ?_ | with_reducible exact optLive_none
    | with_reducible refine runEvent_live _ fun e => ?_ | with_reducible refine State.priAnswer_live ?_ _ _ _ _ | split
theorem State.wakeSplit_live {lv : Bool} {s : State} (h : LiveIs lv s) (w : Charged) (team : Nat) (gid : Nat) : LiveIs lv (State.wakeSplit s w team gid) := by
  unfold State.wakeSplit
  repeat' first
    | with_reducible assumption | with_reducible refine State.mapGroup_live ?_ _ _ _
theorem State.endWait_live {lv : Bool} {s : State} (h : LiveIs lv s) (seat : Nat) (w : Charged) (late : Bool) : LiveIs lv (State.endWait s seat w late) := by
  unfold State.endWait
  repeat' first
    | with_reducible assumption | with_reducible refine State.now_live ?_ _ | with_reducible refine State.mapSeat_live ?_ _ _
    | with_reducible refine State.logEvent_live ?_ _ _ _ _ _ _ _ _ | with_reducible refine State.mapOp_live ?_ _ _
    | with_reducible refine State.pokeCommit_live ?_ _ | with_reducible refine State.mapCopy_live ?_ _ _
    | with_reducible refine State.stopCopy_live ?_ _ _ | with_reducible refine State.globalPiece_live ?_ _ _ _
    | with_reducible refine State.refuseHome_live ?_ _ _ | with_reducible refine State.settleLaunch_live ?_ _
    | with_reducible refine State.refuseBuild_live ?_ _ | with_reducible refine State.settleOp_live ?_ _
    | with_reducible refine State.wakeSplit_live ?_ _ _ _ | dsimp only | split
theorem State.dueWait_live {lv : Bool} {s : State} (h : LiveIs lv s) (seat : Nat) (id : Nat) : LiveIs lv (State.dueWait s seat id) := by
  unfold State.dueWait
  repeat' first
    | with_reducible assumption | with_reducible refine State.at_live ?_ _ _ | with_reducible refine State.mapSeat_live ?_ _ _
    | with_reducible refine State.endWait_live ?_ _ _ _ | dsimp only | split
theorem execChargedWaitDue_live {s : State} (h : LiveIs false s)  : OutLive false (execChargedWaitDue s) := by
  unfold execChargedWaitDue
  repeat' first
    | with_reducible assumption | with_reducible refine optLive_some ?_ | with_reducible exact optLive_none
    | with_reducible refine runEvent_live _ fun e => ?_ | with_reducible refine State.dueWait_live ?_ _ _ | split
theorem State.lateWait_live {lv : Bool} {s : State} (h : LiveIs lv s) (seat : Nat) (id : Nat) : LiveIs lv (State.lateWait s seat id) := by
  unfold State.lateWait
  repeat' first
    | with_reducible assumption | with_reducible refine State.mapSeat_live ?_ _ _ | with_reducible refine State.endWait_live ?_ _ _ _ | split
theorem execLateWaitFreeze_live {s : State} (h : LiveIs false s)  : OutLive false (execLateWaitFreeze s) := by
  unfold execLateWaitFreeze
  repeat' first
    | with_reducible assumption | with_reducible refine optLive_some ?_ | with_reducible exact optLive_none
    | with_reducible refine runEvent_live _ fun e => ?_ | with_reducible refine State.lateWait_live ?_ _ _ | split
theorem State.shiftSeat_live {lv : Bool} {s : State} (h : LiveIs lv s) (n : Nat) (d : Nat) : LiveIs lv (State.shiftSeat s n d) := by
  unfold State.shiftSeat
  repeat' first
    | with_reducible assumption | fail_if_no_progress (with_reducible refine live_mk ?_; (try dsimp only); with_reducible refine live_cur ?_)
theorem State.thaw_live {lv : Bool} {s : State} (h : LiveIs lv s) (seat : Nat) : LiveIs lv (State.thaw s seat) := by
  unfold State.thaw
  repeat' first
    | with_reducible assumption | with_reducible refine State.mapSeat_live ?_ _ _ | with_reducible refine State.once_live ?_ _ _
    | with_reducible refine State.scheduleAll_live ?_ | with_reducible refine State.endWait_live ?_ _ _ _
    | with_reducible refine State.shiftSeat_live ?_ _ _ | with_reducible refine live_foldl ?_ (fun _ _ _ => ?_) | dsimp only | split
theorem execFreezeResume_live {s : State} (h : LiveIs false s)  : OutLive false (execFreezeResume s) := by
  unfold execFreezeResume
  repeat' first
    | with_reducible assumption | with_reducible refine optLive_some ?_ | with_reducible exact optLive_none
    | with_reducible refine runEvent_live _ fun e => ?_ | with_reducible refine State.thaw_live ?_ _ | split
theorem execDramRefresh_live {s : State} (h : LiveIs false s)  : OutLive false (execDramRefresh s) := by
  unfold execDramRefresh
  repeat' first
    | with_reducible assumption | with_reducible refine optLive_some ?_ | with_reducible exact optLive_none
    | with_reducible refine runEvent_live _ fun e => ?_
    | fail_if_no_progress (with_reducible refine live_mk ?_; (try dsimp only); with_reducible refine live_cur ?_) | split
theorem State.uncorrectable_live {lv : Bool} {s : State} (h : LiveIs lv s) (ow : FaultOwner) (lanes : LaneMask) : LiveIs lv (State.uncorrectable s ow lanes) := by
  unfold State.uncorrectable
  repeat' first
    | with_reducible assumption | with_reducible refine State.mapOp_live ?_ _ _ | with_reducible refine State.stopCopy_live ?_ _ _
    | with_reducible refine State.refuseHome_live ?_ _ _ | with_reducible refine State.settleOp_live ?_ _ | split
theorem State.spoil_live {lv : Bool} {s : State} (h : LiveIs lv s) (r : Req) (lasting : Bool) : LiveIs lv (State.spoil s r lasting) := by
  unfold State.spoil
  repeat' first
    | with_reducible assumption | with_reducible refine State.mapReq_live ?_ _ _
theorem State.dramRetry_live {lv : Bool} {s : State} (h : LiveIs lv s) (id : Nat) (lasting : Bool) : LiveIs lv (State.dramRetry s id lasting) := by
  unfold State.dramRetry
  repeat' first
    | with_reducible assumption | with_reducible refine State.logEvent_live ?_ _ _ _ _ _ _ _ _ | with_reducible refine State.mapOp_live ?_ _ _
    | with_reducible refine State.dropReq_live ?_ _ | with_reducible refine State.resumeOrdered_live ?_
    | with_reducible refine State.dropWalk_live ?_ _ | with_reducible refine State.uncorrectable_live ?_ _ _
    | with_reducible refine State.spoil_live ?_ _ _ | with_reducible refine live_foldl ?_ (fun _ _ _ => ?_)
    | fail_if_no_progress (with_reducible refine live_mk ?_; (try dsimp only); with_reducible refine live_cur ?_) | dsimp only | split
theorem execDramReadRetry_live {s : State} (h : LiveIs false s)  : OutLive false (execDramReadRetry s) := by
  unfold execDramReadRetry
  repeat' first
    | with_reducible assumption | with_reducible refine optLive_some ?_ | with_reducible exact optLive_none
    | with_reducible refine runEvent_live _ fun e => ?_ | with_reducible refine State.dramRetry_live ?_ _ _ | split
theorem State.abandon_live {lv : Bool} {s : State} (h : LiveIs lv s) (r : Req) : LiveIs lv (State.abandon s r) := by
  unfold State.abandon
  repeat' first
    | with_reducible assumption | with_reducible refine State.mapOp_live ?_ _ _ | with_reducible refine State.finishOp_live ?_ _
    | with_reducible refine State.dropReq_live ?_ _ | with_reducible refine State.stopCopy_live ?_ _ _
    | with_reducible refine State.retireReq_live ?_ _ | with_reducible refine State.takeBad_live ?_ _ _
    | with_reducible refine State.dropWalk_live ?_ _ | with_reducible refine live_foldl ?_ (fun _ _ _ => ?_)
    | fail_if_no_progress (with_reducible refine live_mk ?_; (try dsimp only); with_reducible refine live_cur ?_) | split
theorem State.fenceLink_live {lv : Bool} {s : State} (h : LiveIs lv s) (st : Struct) (d : Nat) : LiveIs lv (State.fenceLink s st d) := by
  unfold State.fenceLink
  repeat' first
    | with_reducible assumption | with_reducible refine State.logEvent_live ?_ _ _ _ _ _ _ _ _ | with_reducible refine State.haltTeam_live ?_ _ _ _
    | with_reducible refine State.abandon_live ?_ _ | with_reducible refine live_foldl ?_ (fun _ _ _ => ?_)
    | fail_if_no_progress (with_reducible refine live_mk ?_; (try dsimp only); with_reducible refine live_cur ?_)
theorem State.fencePort_live {lv : Bool} {s : State} (h : LiveIs lv s) (p : Nat) : LiveIs lv (State.fencePort s p) := by
  unfold State.fencePort
  repeat' first
    | with_reducible assumption | with_reducible refine State.logEvent_live ?_ _ _ _ _ _ _ _ _ | with_reducible refine State.refusedReply_live ?_ _
    | with_reducible refine live_foldl ?_ (fun _ _ _ => ?_)
    | fail_if_no_progress (with_reducible refine live_mk ?_; (try dsimp only); with_reducible refine live_cur ?_)
theorem State.meshRetry_live {lv : Bool} {s : State} (h : LiveIs lv s) (id : Nat) (lasting : Bool) : LiveIs lv (State.meshRetry s id lasting) := by
  unfold State.meshRetry
  repeat' first
    | with_reducible assumption | with_reducible refine State.spoil_live ?_ _ _ | with_reducible refine State.fenceLink_live ?_ _ _
    | with_reducible refine State.fencePort_live ?_ _ | dsimp only | split
theorem execMeshFlitRetry_live {s : State} (h : LiveIs false s)  : OutLive false (execMeshFlitRetry s) := by
  unfold execMeshFlitRetry
  repeat' first
    | with_reducible assumption | with_reducible refine optLive_some ?_ | with_reducible exact optLive_none
    | with_reducible refine runEvent_live _ fun e => ?_ | with_reducible refine State.meshRetry_live ?_ _ _ | split
theorem execIllegalInstruction_live {s : State} (h : LiveIs false s)  : OutLive false (execIllegalInstruction s) := by
  unfold execIllegalInstruction
  repeat' first
    | with_reducible assumption | with_reducible refine optLive_some ?_ | with_reducible exact optLive_none
    | with_reducible refine State.trapWord_live ?_ _ | with_reducible refine runEvent_live _ fun e => ?_
    | fail_if_no_progress (with_reducible refine live_mk ?_; (try dsimp only); with_reducible refine live_cur ?_) | dsimp only | split

/-! ### Machine/Seats.lean -/

theorem State.answer_live {lv : Bool} {s : State} (h : LiveIs lv s) (ws : List W64) : LiveIs lv (State.answer s ws) := by
  unfold State.answer
  repeat' first
    | with_reducible assumption | fail_if_no_progress (with_reducible refine live_mk ?_; (try dsimp only); with_reducible refine live_cur ?_)
theorem State.status_live {lv : Bool} {s : State} (h : LiveIs lv s) (n : Nat) : LiveIs lv (State.status s n) := by
  unfold State.status
  repeat' first
    | with_reducible assumption | with_reducible refine State.answer_live ?_ _
theorem State.command_live {lv : Bool} {s : State} (h : LiveIs lv s) (f : State → State) (hf : ∀ s, LiveIs lv s → LiveIs lv (f s)) :
    LiveIs lv (s.command f) := by
  unfold State.command
  split
  · exact hf s h
  · exact State.status_live h _
theorem State.admitNow_live {lv : Bool} {s : State} (h : LiveIs lv s) (seat : Nat) (a : Nat) : LiveIs lv (State.admitNow s seat a) := by
  unfold State.admitNow
  repeat' first
    | with_reducible assumption | with_reducible refine State.at_live ?_ _ _ | with_reducible refine State.status_live ?_ _
    | fail_if_no_progress (with_reducible refine live_mk ?_; (try dsimp only); with_reducible refine live_cur ?_) | dsimp only | split
theorem execAdmitSeat_live {s : State} (h : LiveIs false s)  : OutLive false (execAdmitSeat s) := by
  unfold execAdmitSeat
  repeat' first
    | with_reducible assumption | (with_reducible intro t ht) | with_reducible refine optLive_some ?_ | with_reducible exact optLive_none
    | with_reducible refine runEvent_live _ fun e => ?_ | with_reducible refine State.command_live ?_ _ ?_
    | with_reducible refine State.admitNow_live ?_ _ _ | split
theorem State.pokeSeat_live {lv : Bool} {s : State} (h : LiveIs lv s) (n : Nat) : LiveIs lv (State.pokeSeat s n) := by
  unfold State.pokeSeat
  repeat' first
    | with_reducible assumption | with_reducible refine State.once_live ?_ _ _ | with_reducible refine State.pokeRing_live ?_ _ _ _
    | with_reducible refine State.pokeEngine_live ?_ _ _ _ | with_reducible refine State.pokeCarve_live ?_ _ _ _
    | with_reducible refine live_foldl ?_ (fun _ _ _ => ?_) | dsimp only | split
theorem State.seatFunction_live {lv : Bool} {s : State} (h : LiveIs lv s) (n : Nat) (vf : Nat) (v : Nat) : LiveIs lv (State.seatFunction s n vf v) := by
  unfold State.seatFunction
  repeat' first
    | with_reducible assumption | with_reducible refine State.mapSeat_live ?_ _ _ | with_reducible refine State.once_live ?_ _ _
    | with_reducible refine State.pokeSeat_live ?_ _
    | fail_if_no_progress (with_reducible refine live_mk ?_; (try dsimp only); with_reducible refine live_cur ?_) | dsimp only | split
theorem State.seatNow_live {lv : Bool} {s : State} (h : LiveIs lv s) (n : Nat) : LiveIs lv (State.seatNow s n) := by
  unfold State.seatNow
  repeat' first
    | with_reducible assumption | with_reducible refine State.once_live ?_ _ _ | with_reducible refine State.scheduleAll_live ?_
    | with_reducible refine State.seatFunction_live ?_ _ _ _ | with_reducible refine live_foldl ?_ (fun _ _ _ => ?_)
    | fail_if_no_progress (with_reducible refine live_mk ?_; (try dsimp only); with_reducible refine live_cur ?_) | dsimp only | split
theorem execSeating_live {s : State} (h : LiveIs false s)  : OutLive false (execSeating s) := by
  unfold execSeating
  repeat' first
    | with_reducible assumption | with_reducible refine optLive_some ?_ | with_reducible exact optLive_none
    | with_reducible refine runEvent_live _ fun e => ?_ | with_reducible refine State.seatNow_live ?_ _ | split
theorem State.endQuantum_live {lv : Bool} {s : State} (h : LiveIs lv s) (n : Nat) : LiveIs lv (State.endQuantum s n) := by
  unfold State.endQuantum
  repeat' first
    | with_reducible assumption | with_reducible refine State.at_live ?_ _ _ | with_reducible refine State.mapSeat_live ?_ _ _
    | with_reducible refine State.once_live ?_ _ _ | dsimp only | split
theorem execQuantumEnd_live {s : State} (h : LiveIs false s)  : OutLive false (execQuantumEnd s) := by
  unfold execQuantumEnd
  repeat' first
    | with_reducible assumption | with_reducible refine optLive_some ?_ | with_reducible exact optLive_none
    | with_reducible refine runEvent_live _ fun e => ?_ | with_reducible refine State.endQuantum_live ?_ _ | split
theorem State.putAway_live {lv : Bool} {s : State} (h : LiveIs lv s) (x : Seat) : LiveIs lv (State.putAway s x) := by
  unfold State.putAway
  repeat' first
    | with_reducible assumption | with_reducible refine State.mapSeat_live ?_ _ _ | with_reducible refine State.saveImage_live ?_ _
    | with_reducible refine live_foldl ?_ (fun _ _ _ => ?_)
    | fail_if_no_progress (with_reducible refine live_mk ?_; (try dsimp only); with_reducible refine live_cur ?_)
theorem State.bringBack_live {lv : Bool} {s : State} (h : LiveIs lv s) (n : Nat) (vf : Nat) : LiveIs lv (State.bringBack s n vf) := by
  unfold State.bringBack
  repeat' first
    | with_reducible assumption | with_reducible refine State.mapTeam_live ?_ _ _ | with_reducible refine State.setSlot_live ?_ _ _
    | with_reducible refine State.nowDue_live ?_ _ | with_reducible refine State.checkTiles_live ?_ _
    | with_reducible refine live_foldl ?_ (fun _ _ _ => ?_)
    | fail_if_no_progress (with_reducible refine live_mk ?_; (try dsimp only); with_reducible refine live_cur ?_) | dsimp only | split
theorem State.retryHome_live {lv : Bool} {s : State} (h : LiveIs lv s) (vf : Nat) (i : Nat) : LiveIs lv (State.retryHome s vf i) := by
  unfold State.retryHome
  repeat' first
    | with_reducible assumption | with_reducible refine State.homeWrite_live ?_ _ | dsimp only | split
theorem State.endSwitch_live {lv : Bool} {s : State} (h : LiveIs lv s) (n : Nat) : LiveIs lv (State.endSwitch s n) := by
  unfold State.endSwitch
  repeat' first
    | with_reducible assumption | with_reducible refine State.logEvent_live ?_ _ _ _ _ _ _ _ _
    | with_reducible refine State.seatFunction_live ?_ _ _ _ | with_reducible refine State.putAway_live ?_ _
    | with_reducible refine State.bringBack_live ?_ _ _ | with_reducible refine State.retryHome_live ?_ _ _
    | with_reducible refine live_foldl ?_ (fun _ _ _ => ?_) | dsimp only | split
theorem execSwitchComplete_live {s : State} (h : LiveIs false s)  : OutLive false (execSwitchComplete s) := by
  unfold execSwitchComplete
  repeat' first
    | with_reducible assumption | with_reducible refine optLive_some ?_ | with_reducible exact optLive_none
    | with_reducible refine runEvent_live _ fun e => ?_ | with_reducible refine State.endSwitch_live ?_ _ | split
theorem execQtable_live {s : State} (h : LiveIs false s)  : OutLive false (execQtable s) := by
  unfold execQtable
  repeat' first
    | with_reducible assumption | (with_reducible intro t ht) | with_reducible refine optLive_some ?_ | with_reducible exact optLive_none
    | with_reducible refine State.mapSeat_live ?_ _ _ | with_reducible refine runEvent_live _ fun e => ?_
    | with_reducible refine State.status_live ?_ _ | with_reducible refine State.command_live ?_ _ ?_ | split
theorem State.leaseNow_live {lv : Bool} {s : State} (h : LiveIs lv s) (lender : Nat) (w2 : W64) (lmap : W64) (first : W64) (count : W64) : LiveIs lv (State.leaseNow s lender w2 lmap first count) := by
  unfold State.leaseNow
  repeat' first
    | with_reducible assumption | with_reducible refine State.at_live ?_ _ _ | with_reducible refine State.mapSeat_live ?_ _ _
    | with_reducible refine State.status_live ?_ _ | dsimp only | split
theorem execLease_live {s : State} (h : LiveIs false s)  : OutLive false (execLease s) := by
  unfold execLease
  repeat' first
    | with_reducible assumption | (with_reducible intro t ht) | with_reducible refine optLive_some ?_ | with_reducible exact optLive_none
    | with_reducible refine runEvent_live _ fun e => ?_ | with_reducible refine State.command_live ?_ _ ?_
    | with_reducible refine State.leaseNow_live ?_ _ _ _ _ _ | split
theorem State.pokeLease_live {lv : Bool} {s : State} (h : LiveIs lv s) (a : Nat) (b : Nat) : LiveIs lv (State.pokeLease s a b) := by
  unfold State.pokeLease
  repeat' first
    | with_reducible assumption | with_reducible refine State.once_live ?_ _ _ | with_reducible refine State.scheduleAll_live ?_
    | with_reducible refine State.pokeEngine_live ?_ _ _ _ | with_reducible refine live_foldl ?_ (fun _ _ _ => ?_)
theorem execLeaseBegin_live {s : State} (h : LiveIs false s)  : OutLive false (execLeaseBegin s) := by
  unfold execLeaseBegin
  repeat' first
    | with_reducible assumption | with_reducible refine optLive_some ?_ | with_reducible exact optLive_none
    | with_reducible refine runEvent_live _ fun e => ?_ | with_reducible refine State.pokeLease_live ?_ _ _ | split
theorem execLeaseEnd_live {s : State} (h : LiveIs false s)  : OutLive false (execLeaseEnd s) := by
  unfold execLeaseEnd
  repeat' first
    | with_reducible assumption | with_reducible refine optLive_some ?_ | with_reducible exact optLive_none
    | with_reducible refine State.mapSeat_live ?_ _ _ | with_reducible refine runEvent_live _ fun e => ?_
    | with_reducible refine State.pokeLease_live ?_ _ _ | split
theorem execEvict_live {s : State} (h : LiveIs false s)  : OutLive false (execEvict s) := by
  unfold execEvict
  repeat' first
    | with_reducible assumption | (with_reducible intro t ht) | with_reducible refine optLive_some ?_ | with_reducible exact optLive_none
    | with_reducible refine State.mapSeat_live ?_ _ _ | with_reducible refine runEvent_live _ fun e => ?_
    | with_reducible refine State.status_live ?_ _ | with_reducible refine State.command_live ?_ _ ?_ | split
theorem State.dropSeat_live {lv : Bool} {s : State} (h : LiveIs lv s) (x : Seat) : LiveIs lv (State.dropSeat s x) := by
  unfold State.dropSeat
  repeat' first
    | with_reducible assumption | fail_if_no_progress (with_reducible refine live_mk ?_; (try dsimp only); with_reducible refine live_cur ?_)
theorem State.evictNow_live {lv : Bool} {s : State} (h : LiveIs lv s) (n : Nat) : LiveIs lv (State.evictNow s n) := by
  unfold State.evictNow
  repeat' first
    | with_reducible assumption | with_reducible refine State.mapSeat_live ?_ _ _ | with_reducible refine State.haltTeam_live ?_ _ _ _
    | with_reducible refine State.dropSeat_live ?_ _ | with_reducible refine live_foldl ?_ (fun _ _ _ => ?_)
    | fail_if_no_progress (with_reducible refine live_mk ?_; (try dsimp only); with_reducible refine live_cur ?_) | dsimp only | split
theorem execSeatEviction_live {s : State} (h : LiveIs false s)  : OutLive false (execSeatEviction s) := by
  unfold execSeatEviction
  repeat' first
    | with_reducible assumption | with_reducible refine optLive_some ?_ | with_reducible exact optLive_none
    | with_reducible refine runEvent_live _ fun e => ?_ | with_reducible refine State.evictNow_live ?_ _ | split
theorem State.moveTeam_live {lv : Bool} {s : State} (h : LiveIs lv s) (n : Nat) (m : Nat × Nat) : LiveIs lv (State.moveTeam s n m) := by
  unfold State.moveTeam
  repeat' first
    | with_reducible assumption | with_reducible refine State.fresh_live ?_ | with_reducible refine State.mapTeam_live ?_ _ _
    | with_reducible refine State.pokeCarve_live ?_ _ _ _ | split
theorem State.balance_live {lv : Bool} {s : State} (h : LiveIs lv s) (n : Nat) : LiveIs lv (State.balance s n) := by
  unfold State.balance
  repeat' first
    | with_reducible assumption | with_reducible refine State.mapSeat_live ?_ _ _ | with_reducible refine State.once_live ?_ _ _
    | with_reducible refine State.moveTeam_live ?_ _ _ | with_reducible refine live_foldl ?_ (fun _ _ _ => ?_) | dsimp only | split
theorem execLoadBalance_live {s : State} (h : LiveIs false s)  : OutLive false (execLoadBalance s) := by
  unfold execLoadBalance
  repeat' first
    | with_reducible assumption | with_reducible refine optLive_some ?_ | with_reducible exact optLive_none
    | with_reducible refine runEvent_live _ fun e => ?_ | with_reducible refine State.balance_live ?_ _ | split
theorem execRunmode_live {s : State} (h : LiveIs false s)  : OutLive false (execRunmode s) := by
  unfold execRunmode
  repeat' first
    | with_reducible assumption | (with_reducible intro t ht) | with_reducible refine optLive_some ?_ | with_reducible exact optLive_none
    | with_reducible refine runEvent_live _ fun e => ?_ | with_reducible refine State.status_live ?_ _
    | with_reducible refine State.command_live ?_ _ ?_
    | fail_if_no_progress (with_reducible refine live_mk ?_; (try dsimp only); with_reducible refine live_cur ?_) | dsimp only | split
theorem execPreempt_live {s : State} (h : LiveIs false s)  : OutLive false (execPreempt s) := by
  unfold execPreempt
  repeat' first
    | with_reducible assumption | (with_reducible intro t ht) | with_reducible refine optLive_some ?_ | with_reducible exact optLive_none
    | with_reducible refine State.at_live ?_ _ _ | with_reducible refine runEvent_live _ fun e => ?_ | with_reducible refine State.status_live ?_ _
    | with_reducible refine State.command_live ?_ _ ?_ | split
theorem execResume_live {s : State} (h : LiveIs false s)  : OutLive false (execResume s) := by
  unfold execResume
  repeat' first
    | with_reducible assumption | (with_reducible intro t ht) | with_reducible refine optLive_some ?_ | with_reducible exact optLive_none
    | with_reducible refine runEvent_live _ fun e => ?_ | with_reducible refine State.status_live ?_ _
    | with_reducible refine State.command_live ?_ _ ?_ | with_reducible refine State.pokeSeat_live ?_ _
    | with_reducible refine live_foldl ?_ (fun _ _ _ => ?_)
    | fail_if_no_progress (with_reducible refine live_mk ?_; (try dsimp only); with_reducible refine live_cur ?_) | dsimp only | split
theorem State.deal_live {lv : Bool} {s : State} (h : LiveIs lv s) (t : Team) (d : Dealt) : LiveIs lv (State.deal s t d) := by
  unfold State.deal
  repeat' first
    | with_reducible assumption | with_reducible refine State.now_live ?_ _ | with_reducible refine State.mapTeam_live ?_ _ _
    | with_reducible refine State.finishOp_live ?_ _ | with_reducible refine State.undoPlane_live ?_ _ | with_reducible refine State.drain_live ?_ _ _
    | with_reducible refine State.withdrawArms_live ?_ _ | with_reducible refine live_foldl ?_ (fun _ _ _ => ?_) | dsimp only | split
theorem State.preemptNow_live {lv : Bool} {s : State} (h : LiveIs lv s) (rcb : Nat) (limit : Nat) : LiveIs lv (State.preemptNow s rcb limit) := by
  unfold State.preemptNow
  repeat' first
    | with_reducible assumption | with_reducible refine State.logEvent_live ?_ _ _ _ _ _ _ _ _ | with_reducible refine State.pokeCarve_live ?_ _ _ _
    | with_reducible refine State.answer_live ?_ _ | with_reducible refine State.deal_live ?_ _ _
    | with_reducible refine live_foldl ?_ (fun _ _ _ => ?_)
    | fail_if_no_progress (with_reducible refine live_mk ?_; (try dsimp only); with_reducible refine live_cur ?_) | split
theorem State.deliverPreempt_live {lv : Bool} {s : State} (h : LiveIs lv s) (rcb : Nat) (limit : W64) : LiveIs lv (State.deliverPreempt s rcb limit) := by
  unfold State.deliverPreempt
  repeat' first
    | with_reducible assumption | with_reducible refine State.at_live ?_ _ _ | with_reducible refine State.preemptNow_live ?_ _ _ | split
theorem execPreemptDelivery_live {s : State} (h : LiveIs false s)  : OutLive false (execPreemptDelivery s) := by
  unfold execPreemptDelivery
  repeat' first
    | with_reducible assumption | with_reducible refine optLive_some ?_ | with_reducible exact optLive_none
    | with_reducible refine runEvent_live _ fun e => ?_ | with_reducible refine State.deliverPreempt_live ?_ _ _ | split
theorem State.boundary_live {lv : Bool} {s : State} (h : LiveIs lv s)  : LiveIs lv (State.boundary s) := by
  unfold State.boundary
  repeat' first
    | with_reducible assumption | with_reducible refine State.once_live ?_ _ _ | with_reducible refine live_foldl ?_ (fun _ _ _ => ?_) | dsimp only
    | split
theorem execFrameBoundary_live {s : State} (h : LiveIs false s)  : OutLive false (execFrameBoundary s) := by
  unfold execFrameBoundary
  repeat' first
    | with_reducible assumption | with_reducible refine optLive_some ?_ | with_reducible exact optLive_none
    | with_reducible refine runEvent_live _ fun e => ?_ | with_reducible refine State.boundary_live ?_ | split

/-! ### Machine/Queues.lean -/

theorem State.mapQueue_live {lv : Bool} {s : State} (h : LiveIs lv s) (vf : Nat) (q : Nat) (f : Queue → Queue) : LiveIs lv (State.mapQueue s vf q f) := by
  unfold State.mapQueue
  repeat' first
    | with_reducible assumption | fail_if_no_progress (with_reducible refine live_mk ?_; (try dsimp only); with_reducible refine live_cur ?_)
theorem State.setHead_live {lv : Bool} {s : State} (hwf : LiveIs lv s) (k : Queue) (h : W32) : LiveIs lv (State.setHead s k h) := by
  unfold State.setHead
  repeat' first
    | with_reducible assumption | fail_if_no_progress (with_reducible refine live_mk ?_; (try dsimp only); with_reducible refine live_cur ?_)
theorem State.setQState_live {lv : Bool} {s : State} (h : LiveIs lv s) (k : Queue) (st : Nat) (hstat : Nat) : LiveIs lv (State.setQState s k st hstat) := by
  unfold State.setQState
  repeat' first
    | with_reducible assumption | fail_if_no_progress (with_reducible refine live_mk ?_; (try dsimp only); with_reducible refine live_cur ?_)
theorem State.qComplete_live {lv : Bool} {s : State} (h : LiveIs lv s) (k : Queue) (status : Nat) (info : W64) : LiveIs lv (State.qComplete s k status info) := by
  unfold State.qComplete
  repeat' first
    | with_reducible assumption | with_reducible refine State.complete_live ?_ _ _ _ _
theorem State.haltQueue_live {lv : Bool} {s : State} (h : LiveIs lv s) (k : Queue) (status : Nat) : LiveIs lv (State.haltQueue s k status) := by
  unfold State.haltQueue
  repeat' first
    | with_reducible assumption | with_reducible refine State.mapQueue_live ?_ _ _ _ | with_reducible refine State.setQState_live ?_ _ _ _
    | with_reducible refine State.qComplete_live ?_ _ _ _
theorem State.pokeQueues_live {lv : Bool} {s : State} (h : LiveIs lv s)  : LiveIs lv (State.pokeQueues s) := by
  unfold State.pokeQueues
  repeat' first
    | with_reducible assumption | with_reducible refine State.at_live ?_ _ _ | with_reducible refine State.draw_live ?_ | dsimp only | split
theorem State.advanceFrom_live {lv : Bool} {s : State} (h : LiveIs lv s) (vf q n : Nat) : LiveIs lv (s.advanceFrom vf q n) := by
  induction n generalizing s with
  | zero => exact h
  | succ n ih =>
    unfold State.advanceFrom
    split
    · exact h
    · split
      · exact State.setHead_live h _ _
      · split
        · exact State.mapQueue_live h _ _ _
        · refine ih ?_
          have hm : ∀ f, LiveIs lv (s.mapQueue vf q f) := fun f => State.mapQueue_live h _ _ _
          split
          · split
            · split
              · exact State.qComplete_live (hm _) _ _ _
              · exact hm _
            · exact hm _
          · exact hm _
theorem State.nextCommand_live {lv : Bool} {s : State} (h : LiveIs lv s) (k : Queue) : LiveIs lv (State.nextCommand s k) := by
  unfold State.nextCommand
  repeat' first
    | with_reducible assumption | with_reducible refine State.mapQueue_live ?_ _ _ _ | with_reducible refine State.setQState_live ?_ _ _ _
    | with_reducible refine State.pokeQueues_live ?_ | with_reducible refine State.advanceFrom_live ?_ _ _ _ | dsimp only | split
theorem State.doneCommand_live {lv : Bool} {s : State} (h : LiveIs lv s) (k : Queue) (a : Nat) (info : W64) : LiveIs lv (State.doneCommand s k a info) := by
  unfold State.doneCommand
  repeat' first
    | with_reducible assumption | with_reducible refine State.qComplete_live ?_ _ _ _ | with_reducible refine State.nextCommand_live ?_ _ | split
theorem queueRun_live {lv : Bool} {s : State} (h : LiveIs lv s) (vf q : Nat) (op : Option Nat) (f : Queue → Nat → State)
    (hf : ∀ k a, LiveIs lv (f k a)) : LiveIs lv (queueRun s vf q op f) := by
  unfold queueRun
  split
  · exact State.pokeQueues_live h
  · split
    · split
      · exact hf _ _
      · exact State.pokeQueues_live h
    · exact State.pokeQueues_live h
theorem execQueueNop_live {s : State} (h : LiveIs false s)  : OutLive false (execQueueNop s) := by
  unfold execQueueNop
  repeat' first
    | with_reducible assumption | with_reducible refine optLive_some ?_ | with_reducible exact optLive_none
    | with_reducible refine runEvent_live _ fun e => ?_ | with_reducible refine State.haltQueue_live ?_ _ _
    | with_reducible refine State.pokeQueues_live ?_ | with_reducible refine State.doneCommand_live ?_ _ _ _
    | with_reducible refine queueRun_live ?_ _ _ _ _ (fun _ _ => ?_) | split
theorem State.awaitHost_live {lv : Bool} {s : State} (h : LiveIs lv s) (k : Queue) (x : Seat) (asid : Nat) (va : Nat) (write : Bool) : LiveIs lv (State.awaitHost s k x asid va write) := by
  unfold State.awaitHost
  repeat' first
    | with_reducible assumption | with_reducible refine State.fresh_live ?_ | with_reducible refine State.askAts_live ?_ _
    | with_reducible refine State.mapQueue_live ?_ _ _ _ | with_reducible refine State.pokeQueues_live ?_
    | fail_if_no_progress (with_reducible refine live_mk ?_; (try dsimp only); with_reducible refine live_cur ?_) | dsimp only | split
theorem State.awaitPage_live {lv : Bool} {s : State} (h : LiveIs lv s) (k : Queue) (x : Seat) (r : Region) (va : Nat) (write : Bool) : LiveIs lv (State.awaitPage s k x r va write) := by
  unfold State.awaitPage
  repeat' first
    | with_reducible assumption | with_reducible refine State.recordFault_live ?_ _ _ _ _ _ _ | with_reducible refine State.mapQueue_live ?_ _ _ _
    | with_reducible refine State.pokeQueues_live ?_
    | fail_if_no_progress (with_reducible refine live_mk ?_; (try dsimp only); with_reducible refine live_cur ?_)
theorem execSignal_live {s : State} (h : LiveIs false s)  : OutLive false (execSignal s) := by
  unfold execSignal
  repeat' first
    | with_reducible assumption | with_reducible refine optLive_some ?_ | with_reducible exact optLive_none
    | with_reducible refine State.writeAt_live ?_ _ _ | with_reducible refine runEvent_live _ fun e => ?_
    | with_reducible refine State.haltQueue_live ?_ _ _ | with_reducible refine State.pokeQueues_live ?_
    | with_reducible refine State.doneCommand_live ?_ _ _ _ | with_reducible refine queueRun_live ?_ _ _ _ _ (fun _ _ => ?_)
    | with_reducible refine State.awaitHost_live ?_ _ _ _ _ _ | with_reducible refine State.awaitPage_live ?_ _ _ _ _ _ | dsimp only | split
theorem execWait_live {s : State} (h : LiveIs false s)  : OutLive false (execWait s) := by
  unfold execWait
  repeat' first
    | with_reducible assumption | with_reducible refine optLive_some ?_ | with_reducible exact optLive_none
    | with_reducible refine runEvent_live _ fun e => ?_ | with_reducible refine State.mapQueue_live ?_ _ _ _
    | with_reducible refine State.haltQueue_live ?_ _ _ | with_reducible refine State.pokeQueues_live ?_
    | with_reducible refine State.doneCommand_live ?_ _ _ _ | with_reducible refine queueRun_live ?_ _ _ _ _ (fun _ _ => ?_)
    | with_reducible refine State.awaitHost_live ?_ _ _ _ _ _ | with_reducible refine State.awaitPage_live ?_ _ _ _ _ _ | dsimp only | split
theorem execWaitReread_live {s : State} (h : LiveIs false s)  : OutLive false (execWaitReread s) := by
  unfold execWaitReread
  repeat' first
    | with_reducible assumption | with_reducible refine optLive_some ?_ | with_reducible exact optLive_none
    | with_reducible refine runEvent_live _ fun e => ?_ | with_reducible refine State.mapQueue_live ?_ _ _ _
    | with_reducible refine State.haltQueue_live ?_ _ _ | with_reducible refine State.pokeQueues_live ?_
    | with_reducible refine State.doneCommand_live ?_ _ _ _ | with_reducible refine State.awaitHost_live ?_ _ _ _ _ _
    | with_reducible refine State.awaitPage_live ?_ _ _ _ _ _ | split
theorem execIndirect_live {s : State} (h : LiveIs false s)  : OutLive false (execIndirect s) := by
  unfold execIndirect
  repeat' first
    | with_reducible assumption | with_reducible refine optLive_some ?_ | with_reducible exact optLive_none
    | with_reducible refine runEvent_live _ fun e => ?_ | with_reducible refine State.mapQueue_live ?_ _ _ _
    | with_reducible refine State.haltQueue_live ?_ _ _ | with_reducible refine State.pokeQueues_live ?_
    | with_reducible refine queueRun_live ?_ _ _ _ _ (fun _ _ => ?_) | dsimp only | split
theorem State.refuseLaunch_live {lv : Bool} {s : State} (h : LiveIs lv s) (k : Queue) (status : Nat) (tag : W64) : LiveIs lv (State.refuseLaunch s k status tag) := by
  unfold State.refuseLaunch
  repeat' first
    | with_reducible assumption | with_reducible refine State.qComplete_live ?_ _ _ _ | with_reducible refine State.nextCommand_live ?_ _
theorem State.prepare_live {lv : Bool} {s : State} (h : LiveIs lv s) (k : Queue) (a : Nat) : LiveIs lv (State.prepare s k a) := by
  unfold State.prepare
  repeat' first
    | with_reducible assumption | with_reducible refine State.at_live ?_ _ _ | with_reducible refine State.fresh_live ?_
    | with_reducible refine State.mapQueue_live ?_ _ _ _ | with_reducible refine State.nextCommand_live ?_ _
    | with_reducible refine State.awaitHost_live ?_ _ _ _ _ _ | with_reducible refine State.awaitPage_live ?_ _ _ _ _ _
    | with_reducible refine State.refuseLaunch_live ?_ _ _ _
    | fail_if_no_progress (with_reducible refine live_mk ?_; (try dsimp only); with_reducible refine live_cur ?_) | dsimp only | split
theorem execQueueLaunch_live {s : State} (h : LiveIs false s)  : OutLive false (execQueueLaunch s) := by
  unfold execQueueLaunch
  repeat' first
    | with_reducible assumption | with_reducible refine optLive_some ?_ | with_reducible exact optLive_none
    | with_reducible refine runEvent_live _ fun e => ?_ | with_reducible refine queueRun_live ?_ _ _ _ _ (fun _ _ => ?_)
    | with_reducible refine State.prepare_live ?_ _ _ | split
theorem State.refuseDelivered_live {lv : Bool} {s : State} (h : LiveIs lv s) (g : Grid) (status : Nat) : LiveIs lv (State.refuseDelivered s g status) := by
  unfold State.refuseDelivered
  repeat' first
    | with_reducible assumption | with_reducible refine State.refuseGrid_live ?_ _ _ | with_reducible refine State.mapQueue_live ?_ _ _ _
    | with_reducible refine State.pokeQueues_live ?_ | dsimp only | split
theorem State.placeLaunch_live {lv : Bool} {s : State} (h : LiveIs lv s) (g : Grid) : LiveIs lv (State.placeLaunch s g) := by
  unfold State.placeLaunch
  repeat' first
    | with_reducible assumption | with_reducible refine State.pokeWaiting_live ?_ | with_reducible refine State.startGrid_live ?_ _ _
    | with_reducible refine State.countGrid_live ?_ _ _ | with_reducible refine State.pokeQueues_live ?_
    | with_reducible refine State.refuseDelivered_live ?_ _ _
    | fail_if_no_progress (with_reducible refine live_mk ?_; (try dsimp only); with_reducible refine live_cur ?_) | dsimp only | split
theorem State.deliver_live {lv : Bool} {s : State} (h : LiveIs lv s) (id : Nat) : LiveIs lv (State.deliver s id) := by
  unfold State.deliver
  repeat' first
    | with_reducible assumption | with_reducible refine State.at_live ?_ _ _ | with_reducible refine State.logEvent_live ?_ _ _ _ _ _ _ _ _
    | with_reducible refine State.placeLaunch_live ?_ _
    | fail_if_no_progress (with_reducible refine live_mk ?_; (try dsimp only); with_reducible refine live_cur ?_) | dsimp only | split
theorem execLaunchDelivery_live {s : State} (h : LiveIs false s)  : OutLive false (execLaunchDelivery s) := by
  unfold execLaunchDelivery
  repeat' first
    | with_reducible assumption | with_reducible refine optLive_some ?_ | with_reducible exact optLive_none
    | with_reducible refine runEvent_live _ fun e => ?_ | with_reducible refine State.deliver_live ?_ _ | split
theorem State.endGrid_live {lv : Bool} {s : State} (h : LiveIs lv s) (id : Nat) : LiveIs lv (State.endGrid s id) := by
  unfold State.endGrid
  repeat' first
    | with_reducible assumption | with_reducible refine State.complete_live ?_ _ _ _ _ | with_reducible refine State.pokeCommit_live ?_ _
    | with_reducible refine State.dropGrid_live ?_ _ | with_reducible refine State.mapQueue_live ?_ _ _ _
    | with_reducible refine State.pokeQueues_live ?_ | dsimp only | split
theorem execGridEnd_live {s : State} (h : LiveIs false s)  : OutLive false (execGridEnd s) := by
  unfold execGridEnd
  repeat' first
    | with_reducible assumption | with_reducible refine optLive_some ?_ | with_reducible exact optLive_none
    | with_reducible refine runEvent_live _ fun e => ?_ | with_reducible refine State.pokeWaiting_live ?_
    | with_reducible refine State.pokeQueues_live ?_ | with_reducible refine State.endGrid_live ?_ _ | split
theorem State.pokeCompletions_live {lv : Bool} {s : State} (h : LiveIs lv s) (p : Completion → Bool) : LiveIs lv (State.pokeCompletions s p) := by
  unfold State.pokeCompletions
  repeat' first
    | with_reducible assumption | with_reducible refine State.once_live ?_ _ _ | with_reducible refine live_foldl ?_ (fun _ _ _ => ?_)
theorem State.startQueue_live {lv : Bool} {s : State} (h : LiveIs lv s) (k : Queue) : LiveIs lv (State.startQueue s k) := by
  unfold State.startQueue
  repeat' first
    | with_reducible assumption | with_reducible refine State.haltQueue_live ?_ _ _ | with_reducible refine State.pokeQueues_live ?_ | split
theorem State.ring_live {lv : Bool} {s : State} (h : LiveIs lv s) (vf : Nat) (q : Nat) (tail : W32) : LiveIs lv (State.ring s vf q tail) := by
  unfold State.ring
  repeat' first
    | with_reducible assumption | with_reducible refine State.setQState_live ?_ _ _ _ | with_reducible refine State.pokeCompletions_live ?_ _
    | with_reducible refine State.startQueue_live ?_ _
    | fail_if_no_progress (with_reducible refine live_mk ?_; (try dsimp only); with_reducible refine live_cur ?_) | dsimp only | split
theorem execDoorbellWrite_live {s : State} (h : LiveIs false s)  : OutLive false (execDoorbellWrite s) := by
  unfold execDoorbellWrite
  repeat' first
    | with_reducible assumption | with_reducible refine optLive_some ?_ | with_reducible exact optLive_none
    | with_reducible refine runEvent_live _ fun e => ?_ | with_reducible refine State.ring_live ?_ _ _ _ | split
theorem State.addDoor_live {lv : Bool} {s : State} (h : LiveIs lv s) (vf : Nat) (v : W32) : LiveIs lv (State.addDoor s vf v) := by
  unfold State.addDoor
  repeat' first
    | with_reducible assumption | fail_if_no_progress (with_reducible refine live_mk ?_; (try dsimp only); with_reducible refine live_cur ?_)
theorem execDoorcntWrite_live {s : State} (h : LiveIs false s)  : OutLive false (execDoorcntWrite s) := by
  unfold execDoorcntWrite
  repeat' first
    | with_reducible assumption | with_reducible refine optLive_some ?_ | with_reducible exact optLive_none
    | with_reducible refine runEvent_live _ fun e => ?_ | with_reducible refine State.addDoor_live ?_ _ _ | split
theorem State.writeCompletion_live {lv : Bool} {s : State} (h : LiveIs lv s) (rcb : Nat) : LiveIs lv (s.writeCompletion rcb) := by
  unfold State.writeCompletion
  split
  · exact h
  · extract_lets seq done s1 n ln s2
    have h1 : LiveIs lv s1 := by
      unfold s1; with_reducible refine live_mk ?_; exact live_cur h
    have h2 : LiveIs lv s2 := by
      unfold s2
      refine live_ite h1 ?_
      with_reducible refine live_mk ?_
      exact live_cur h1
    split
    · refine State.pokeQueues_live ?_
      split
      · exact State.once_live h2 _ _
      · exact h2
    · have hd := State.draw_live h
      generalize s.draw = q at hd ⊢
      dsimp only
      split
      · exact hd
      · exact State.at_live hd _ _
theorem execCompletionWrite_live {s : State} (h : LiveIs false s)  : OutLive false (execCompletionWrite s) := by
  unfold execCompletionWrite
  repeat' first
    | with_reducible assumption | with_reducible refine optLive_some ?_ | with_reducible exact optLive_none
    | with_reducible refine runEvent_live _ fun e => ?_ | with_reducible refine State.writeCompletion_live ?_ _ | split
theorem execCqdoneReread_live {s : State} (h : LiveIs false s)  : OutLive false (execCqdoneReread s) := by
  unfold execCqdoneReread
  repeat' first
    | with_reducible assumption | with_reducible refine optLive_some ?_ | with_reducible exact optLive_none
    | with_reducible refine runEvent_live _ fun e => ?_ | with_reducible refine State.pokeCompletions_live ?_ _ | split
theorem execQreg_live {s : State} (h : LiveIs false s)  : OutLive false (execQreg s) := by
  unfold execQreg
  repeat' first
    | with_reducible assumption | (with_reducible intro t ht) | with_reducible refine optLive_some ?_ | with_reducible exact optLive_none
    | with_reducible refine runEvent_live _ fun e => ?_ | with_reducible refine State.status_live ?_ _
    | with_reducible refine State.command_live ?_ _ ?_
    | fail_if_no_progress (with_reducible refine live_mk ?_; (try dsimp only); with_reducible refine live_cur ?_) | dsimp only | split
theorem execPagedone_live {s : State} (h : LiveIs false s)  : OutLive false (execPagedone s) := by
  unfold execPagedone
  repeat' first
    | with_reducible assumption | (with_reducible intro t ht) | with_reducible refine optLive_some ?_ | with_reducible exact optLive_none
    | with_reducible refine runEvent_live _ fun e => ?_ | with_reducible refine State.pageAnswered_live ?_ _ _
    | with_reducible refine State.status_live ?_ _ | with_reducible refine State.command_live ?_ _ ?_ | with_reducible refine State.pokeQueues_live ?_
    | dsimp only | split

/-! ### Machine/Device.lean -/

theorem State.bringUp_live {lv : Bool} {s : State} (h : LiveIs lv s) (step : Nat) (unit : Nat) : LiveIs lv (State.bringUp s step unit) := by
  unfold State.bringUp
  repeat' first
    | with_reducible assumption | with_reducible refine State.at_live ?_ _ _ | with_reducible refine State.draw_live ?_
    | fail_if_no_progress (with_reducible refine live_mk ?_; (try dsimp only); with_reducible refine live_cur ?_) | dsimp only | split
theorem execResetRelease_live {s : State} (h : LiveIs false s)  : OutLive false (execResetRelease s) := by
  unfold execResetRelease
  repeat' first
    | with_reducible assumption | with_reducible refine optLive_some ?_ | with_reducible exact optLive_none
    | with_reducible refine runEvent_live _ fun e => ?_ | with_reducible refine State.bringUp_live ?_ _ _ | split
theorem State.sendMail_live {lv : Bool} {s : State} (h : LiveIs lv s) (m : Mail) : LiveIs lv (State.sendMail s m) := by
  unfold State.sendMail
  repeat' first
    | with_reducible assumption | fail_if_no_progress (with_reducible refine live_mk ?_; (try dsimp only); with_reducible refine live_cur ?_) | split
theorem State.goMail_live {lv : Bool} {s : State} (h : LiveIs lv s)  : LiveIs lv (State.goMail s) := by
  unfold State.goMail
  repeat' first
    | with_reducible assumption | with_reducible refine State.at_live ?_ _ _ | with_reducible refine State.draw_live ?_
    | with_reducible refine State.sendMail_live ?_ _
    | fail_if_no_progress (with_reducible refine live_mk ?_; (try dsimp only); with_reducible refine live_cur ?_) | dsimp only | split
theorem State.writeReg_live {lv : Bool} {s : State} (h : LiveIs lv s) (off : Nat) (v : W64) : LiveIs lv (State.writeReg s off v) := by
  unfold State.writeReg
  repeat' first
    | with_reducible assumption | with_reducible refine State.goMail_live ?_
    | fail_if_no_progress (with_reducible refine live_mk ?_; (try dsimp only); with_reducible refine live_cur ?_) | dsimp only | split
theorem State.writeReg32_live {lv : Bool} {s : State} (h : LiveIs lv s) (off : Nat) (v : W32) : LiveIs lv (State.writeReg32 s off v) := by
  unfold State.writeReg32
  repeat' first
    | with_reducible assumption | with_reducible refine State.writeReg_live ?_ _ _ | dsimp only | split
theorem execRegisterWrite_live {s : State} (h : LiveIs false s)  : OutLive false (execRegisterWrite s) := by
  unfold execRegisterWrite
  repeat' first
    | with_reducible assumption | with_reducible refine optLive_some ?_ | with_reducible exact optLive_none
    | with_reducible refine runEvent_live _ fun e => ?_ | with_reducible refine State.writeReg_live ?_ _ _ | split
theorem execUndefinedCommand_live {s : State} (h : LiveIs false s)  : OutLive false (execUndefinedCommand s) := by
  unfold execUndefinedCommand
  repeat' first
    | with_reducible assumption | with_reducible refine optLive_some ?_ | with_reducible exact optLive_none
    | with_reducible refine runEvent_live _ fun e => ?_ | with_reducible refine State.status_live ?_ _ | split
theorem execStatus_live {s : State} (h : LiveIs false s)  : OutLive false (execStatus s) := by
  unfold execStatus
  repeat' first
    | with_reducible assumption | with_reducible refine optLive_some ?_ | with_reducible exact optLive_none
    | with_reducible refine runEvent_live _ fun e => ?_ | with_reducible refine State.answer_live ?_ _ | split
theorem State.applyPower_live {lv : Bool} {s : State} (h : LiveIs lv s) (c : PowerCmd) : LiveIs lv (State.applyPower s c) := by
  unfold State.applyPower
  repeat' first
    | with_reducible assumption | with_reducible refine State.mapSeat_live ?_ _ _
    | fail_if_no_progress (with_reducible refine live_mk ?_; (try dsimp only); with_reducible refine live_cur ?_) | dsimp only | split
theorem State.afterPower_live {lv : Bool} {s : State} (h : LiveIs lv s)  : LiveIs lv (State.afterPower s) := by
  unfold State.afterPower
  repeat' first
    | with_reducible assumption | with_reducible refine State.applyPower_live ?_ _ | with_reducible refine live_foldl ?_ (fun _ _ _ => ?_)
    | fail_if_no_progress (with_reducible refine live_mk ?_; (try dsimp only); with_reducible refine live_cur ?_)
theorem State.pendPower_live {lv : Bool} {s : State} (h : LiveIs lv s) (c : PowerCmd) : LiveIs lv (State.pendPower s c) := by
  unfold State.pendPower
  repeat' first
    | with_reducible assumption | with_reducible refine State.status_live ?_ _
    | fail_if_no_progress (with_reducible refine live_mk ?_; (try dsimp only); with_reducible refine live_cur ?_)
theorem State.powercap_live {lv : Bool} {s : State} (h : LiveIs lv s) (watts : Nat) (degrade : Bool) : LiveIs lv (State.powercap s watts degrade) := by
  unfold State.powercap
  repeat' first
    | with_reducible assumption | with_reducible refine State.status_live ?_ _ | with_reducible refine State.pendPower_live ?_ _ | dsimp only | split
theorem execPowercap_live {s : State} (h : LiveIs false s)  : OutLive false (execPowercap s) := by
  unfold execPowercap
  repeat' first
    | with_reducible assumption | (with_reducible intro t ht) | with_reducible refine optLive_some ?_ | with_reducible exact optLive_none
    | with_reducible refine runEvent_live _ fun e => ?_ | with_reducible refine State.command_live ?_ _ ?_
    | with_reducible refine State.powercap_live ?_ _ _ | split
theorem State.seatfloor_live {lv : Bool} {s : State} (h : LiveIs lv s) (n : Nat) (m : Nat) (g : Nat) : LiveIs lv (State.seatfloor s n m g) := by
  unfold State.seatfloor
  repeat' first
    | with_reducible assumption | with_reducible refine State.status_live ?_ _ | with_reducible refine State.pendPower_live ?_ _ | dsimp only | split
theorem execSeatfloor_live {s : State} (h : LiveIs false s)  : OutLive false (execSeatfloor s) := by
  unfold execSeatfloor
  repeat' first
    | with_reducible assumption | (with_reducible intro t ht) | with_reducible refine optLive_some ?_ | with_reducible exact optLive_none
    | with_reducible refine runEvent_live _ fun e => ?_ | with_reducible refine State.command_live ?_ _ ?_
    | with_reducible refine State.seatfloor_live ?_ _ _ _ | split
theorem State.evaluatePower_live {lv : Bool} {s : State} (h : LiveIs lv s) (watts : Nat) (bands : List Nat) : LiveIs lv (State.evaluatePower s watts bands) := by
  unfold State.evaluatePower
  repeat' first
    | with_reducible assumption | with_reducible refine State.at_live ?_ _ _ | with_reducible refine State.afterPower_live ?_
    | fail_if_no_progress (with_reducible refine live_mk ?_; (try dsimp only); with_reducible refine live_cur ?_) | dsimp only | split
theorem execPowerEvaluation_live {s : State} (h : LiveIs false s)  : OutLive false (execPowerEvaluation s) := by
  unfold execPowerEvaluation
  repeat' first
    | with_reducible assumption | with_reducible refine optLive_some ?_ | with_reducible exact optLive_none
    | with_reducible refine runEvent_live _ fun e => ?_ | with_reducible refine State.evaluatePower_live ?_ _ _ | split
theorem State.changeStep_live {lv : Bool} {s : State} (h : LiveIs lv s) (up : Bool) : LiveIs lv (State.changeStep s up) := by
  unfold State.changeStep
  repeat' first
    | with_reducible assumption | with_reducible refine State.logEvent_live ?_ _ _ _ _ _ _ _ _ | with_reducible refine live_foldl ?_ (fun _ _ _ => ?_)
    | fail_if_no_progress (with_reducible refine live_mk ?_; (try dsimp only); with_reducible refine live_cur ?_) | dsimp only | split
theorem execClockStepChange_live {s : State} (h : LiveIs false s)  : OutLive false (execClockStepChange s) := by
  unfold execClockStepChange
  repeat' first
    | with_reducible assumption | with_reducible refine optLive_some ?_ | with_reducible exact optLive_none
    | with_reducible refine runEvent_live _ fun e => ?_ | with_reducible refine State.changeStep_live ?_ _ | split
theorem execUnfence_live {s : State} (h : LiveIs false s)  : OutLive false (execUnfence s) := by
  unfold execUnfence
  repeat' first
    | with_reducible assumption | (with_reducible intro t ht) | with_reducible refine optLive_some ?_ | with_reducible exact optLive_none
    | with_reducible refine State.at_live ?_ _ _ | with_reducible refine runEvent_live _ fun e => ?_ | with_reducible refine State.status_live ?_ _
    | with_reducible refine State.command_live ?_ _ ?_ | split
theorem State.liftFence_live {lv : Bool} {s : State} (h : LiveIs lv s) (core : Nat) (isSlot : Bool) (slot : Nat) : LiveIs lv (State.liftFence s core isSlot slot) := by
  unfold State.liftFence
  repeat' first
    | with_reducible assumption | with_reducible refine State.logEvent_live ?_ _ _ _ _ _ _ _ _ | with_reducible refine State.once_live ?_ _ _
    | with_reducible refine State.setSlot_live ?_ _ _ | with_reducible refine State.status_live ?_ _
    | with_reducible refine live_foldl ?_ (fun _ _ _ => ?_)
    | fail_if_no_progress (with_reducible refine live_mk ?_; (try dsimp only); with_reducible refine live_cur ?_) | dsimp only | split
theorem execFenceLift_live {s : State} (h : LiveIs false s)  : OutLive false (execFenceLift s) := by
  unfold execFenceLift
  repeat' first
    | with_reducible assumption | with_reducible refine optLive_some ?_ | with_reducible exact optLive_none
    | with_reducible refine runEvent_live _ fun e => ?_ | with_reducible refine State.liftFence_live ?_ _ _ _ | split
theorem State.reportAnswer_live {lv : Bool} {s : State} (h : LiveIs lv s) (a : Option (List Byte)) : LiveIs lv (State.reportAnswer s a) := by
  unfold State.reportAnswer
  repeat' first
    | with_reducible assumption | fail_if_no_progress (with_reducible refine live_mk ?_; (try dsimp only); with_reducible refine live_cur ?_)
theorem State.reportError_live {lv : Bool} {s : State} (h : LiveIs lv s) (vf : Nat) (k : Nat) : LiveIs lv (State.reportError s vf k) := by
  unfold State.reportError
  repeat' first
    | with_reducible assumption | with_reducible refine State.reportAnswer_live ?_ _
    | fail_if_no_progress (with_reducible refine live_mk ?_; (try dsimp only); with_reducible refine live_cur ?_)
theorem State.pageWrite_live {lv : Bool} {s : State} (h : LiveIs lv s) (vf : Nat) (off : Nat) (v : W32) : LiveIs lv (State.pageWrite s vf off v) := by
  unfold State.pageWrite
  repeat' first
    | with_reducible assumption | with_reducible refine State.ring_live ?_ _ _ _ | with_reducible refine State.addDoor_live ?_ _ _ | split
theorem State.bar0Write_live {lv : Bool} {s : State} (h : LiveIs lv s) (off : Nat) (bs : List Byte) : LiveIs lv (State.bar0Write s off bs) := by
  unfold State.bar0Write
  repeat' first
    | with_reducible assumption | with_reducible refine State.writeReg_live ?_ _ _ | with_reducible refine State.writeReg32_live ?_ _ _
    | with_reducible refine State.pageWrite_live ?_ _ _ _ | with_reducible refine live_foldl ?_ (fun _ _ _ => ?_) | split
theorem State.guardQueue_live {lv : Bool} {old s : State} (h : LiveIs lv s) (k : Queue) : LiveIs lv (old.guardQueue s k) := by
  unfold State.guardQueue
  extract_lets st starts s1 s2 s3
  have h1 : LiveIs lv s1 := h
  have h2 : LiveIs lv s2 := live_ite h1 (State.setHead_live h1 _ _)
  have h3 : LiveIs lv s3 := State.setQState_live h2 _ _ _
  exact live_ite (State.startQueue_live h3 _) h3
theorem State.hostWrite_live {lv : Bool} {s : State} (h : LiveIs lv s) (a : Nat) (bs : List Byte) : LiveIs lv (State.hostWrite s a bs) := by
  unfold State.hostWrite
  repeat' first
    | with_reducible assumption | with_reducible refine State.guardQueue_live ?_ _ | with_reducible refine live_foldl ?_ (fun _ _ _ => ?_)
    | fail_if_no_progress (with_reducible refine live_mk ?_; (try dsimp only); with_reducible refine live_cur ?_)
theorem State.visited_live {lv : Bool} {s : State} (h : LiveIs lv s) (r : Req) : LiveIs lv (State.visited s r) := by
  unfold State.visited
  repeat' first
    | with_reducible assumption | with_reducible refine State.dropReq_live ?_ _ | with_reducible refine State.reportAnswer_live ?_ _
    | with_reducible refine State.hostWrite_live ?_ _ _
    | fail_if_no_progress (with_reducible refine live_mk ?_; (try dsimp only); with_reducible refine live_cur ?_) | dsimp only | split
theorem execPositionStart_live {s : State} (h : LiveIs false s)  : OutLive false (execPositionStart s) := by
  unfold execPositionStart
  repeat' first
    | with_reducible assumption | with_reducible refine optLive_some ?_ | with_reducible exact optLive_none
    | with_reducible refine runEvent_live _ fun e => ?_ | with_reducible refine State.position_live ?_ _
    | with_reducible refine State.abandon_live ?_ _ | with_reducible refine State.visited_live ?_ _
    | with_reducible refine live_foldl ?_ (fun _ _ _ => ?_) | dsimp only | split
theorem State.writePlaces_live {lv : Bool} {s : State} (h : LiveIs lv s) (l : List (Phys × Byte)) : LiveIs lv (State.writePlaces s l) := by
  unfold State.writePlaces
  repeat' first
    | with_reducible assumption | with_reducible refine State.writeAt_live ?_ _ _ | with_reducible refine live_foldl ?_ (fun _ _ _ => ?_)
theorem State.visit_live {lv : Bool} {s : State} (h : LiveIs lv s) (kind : Inbound) (places : List Phys) : LiveIs lv (State.visit s kind places) := by
  unfold State.visit
  repeat' first
    | with_reducible assumption | with_reducible refine State.fresh_live ?_ | with_reducible refine State.schedule_live ?_ _
    | with_reducible refine State.reportAnswer_live ?_ _ | with_reducible refine State.writePlaces_live ?_ _
    | with_reducible refine live_foldl ?_ (fun _ _ _ => ?_)
    | fail_if_no_progress (with_reducible refine live_mk ?_; (try dsimp only); with_reducible refine live_cur ?_) | dsimp only | split
theorem State.vfRequest_live {lv : Bool} {s : State} (h : LiveIs lv s) (vf : Nat) (off : Nat) (write : Option (List Byte)) (len : Nat) : LiveIs lv (State.vfRequest s vf off write len) := by
  unfold State.vfRequest
  repeat' first
    | with_reducible assumption | with_reducible refine State.logEvent_live ?_ _ _ _ _ _ _ _ _ | with_reducible refine State.reportAnswer_live ?_ _
    | with_reducible refine State.reportError_live ?_ _ _ | with_reducible refine State.visit_live ?_ _ _ | split
theorem State.barRequest_live {lv : Bool} {s : State} (h : LiveIs lv s) (vf : Nat) (bar : Nat) (off : Nat) (write : Option (List Byte)) (len : Nat) : LiveIs lv (State.barRequest s vf bar off write len) := by
  unfold State.barRequest
  repeat' first
    | with_reducible assumption | with_reducible refine State.reportAnswer_live ?_ _ | with_reducible refine State.reportError_live ?_ _ _
    | with_reducible refine State.pageWrite_live ?_ _ _ _ | with_reducible refine State.bar0Write_live ?_ _ _
    | with_reducible refine State.visit_live ?_ _ _ | with_reducible refine State.vfRequest_live ?_ _ _ _ _
    | with_reducible refine live_foldl ?_ (fun _ _ _ => ?_)
    | fail_if_no_progress (with_reducible refine live_mk ?_; (try dsimp only); with_reducible refine live_cur ?_) | dsimp only | split
theorem execHostBarRequest_live {s : State} (h : LiveIs false s)  : OutLive false (execHostBarRequest s) := by
  unfold execHostBarRequest
  repeat' first
    | with_reducible assumption | with_reducible refine optLive_some ?_ | with_reducible exact optLive_none
    | with_reducible refine runEvent_live _ fun e => ?_ | with_reducible refine State.barRequest_live ?_ _ _ _ _ _ | split
theorem State.dropAts_live {lv : Bool} {s : State} (h : LiveIs lv s) (seat : Nat) (vf : Nat) (pasid : Nat) (va : Nat) (size : Nat) : LiveIs lv (State.dropAts s seat vf pasid va size) := by
  unfold State.dropAts
  repeat' first
    | with_reducible assumption | with_reducible refine State.mapSeat_live ?_ _ _
    | fail_if_no_progress (with_reducible refine live_mk ?_; (try dsimp only); with_reducible refine live_cur ?_)
theorem State.atsInvalidate_live {lv : Bool} {s : State} (h : LiveIs lv s) (vf : Nat) (pasid : Nat) (va : Nat) (size : Nat) : LiveIs lv (State.atsInvalidate s vf pasid va size) := by
  unfold State.atsInvalidate
  repeat' first
    | with_reducible assumption | with_reducible refine State.at_live ?_ _ _ | with_reducible refine State.now_live ?_ _
    | with_reducible refine State.reportAnswer_live ?_ _ | with_reducible refine State.dropAts_live ?_ _ _ _ _ _
    | fail_if_no_progress (with_reducible refine live_mk ?_; (try dsimp only); with_reducible refine live_cur ?_) | dsimp only | split
theorem execAtsInvalidationRequest_live {s : State} (h : LiveIs false s)  : OutLive false (execAtsInvalidationRequest s) := by
  unfold execAtsInvalidationRequest
  repeat' first
    | with_reducible assumption | with_reducible refine optLive_some ?_ | with_reducible exact optLive_none
    | with_reducible refine runEvent_live _ fun e => ?_ | with_reducible refine State.atsInvalidate_live ?_ _ _ _ _ | split
theorem State.retrain_live {lv : Bool} {s : State} (h : LiveIs lv s) (width : Nat) (rate : Nat) : LiveIs lv (State.retrain s width rate) := by
  unfold State.retrain
  repeat' first
    | with_reducible assumption | with_reducible refine State.draw_live ?_ | with_reducible refine State.scheduleAll_live ?_
    | fail_if_no_progress (with_reducible refine live_mk ?_; (try dsimp only); with_reducible refine live_cur ?_)
theorem execLinkRetrain_live {s : State} (h : LiveIs false s)  : OutLive false (execLinkRetrain s) := by
  unfold execLinkRetrain
  repeat' first
    | with_reducible assumption | with_reducible refine optLive_some ?_ | with_reducible exact optLive_none
    | with_reducible refine runEvent_live _ fun e => ?_ | with_reducible refine State.retrain_live ?_ _ _ | split
theorem execConfigurationRequest_live {s : State} (h : LiveIs false s)  : OutLive false (execConfigurationRequest s) := by
  unfold execConfigurationRequest
  repeat' first
    | with_reducible assumption | with_reducible refine optLive_some ?_ | with_reducible exact optLive_none
    | with_reducible refine runEvent_live _ fun e => ?_
    | fail_if_no_progress (with_reducible refine live_mk ?_; (try dsimp only); with_reducible refine live_cur ?_) | dsimp only | split
theorem State.report_live {lv : Bool} {s : State} (h : LiveIs lv s) (index : Nat) (nonce : Nat) (m : Nat) : LiveIs lv (State.report s index nonce m) := by
  unfold State.report
  repeat' first
    | with_reducible assumption | fail_if_no_progress (with_reducible refine live_mk ?_; (try dsimp only); with_reducible refine live_cur ?_)
theorem execSpdmRequest_live {s : State} (h : LiveIs false s)  : OutLive false (execSpdmRequest s) := by
  unfold execSpdmRequest
  repeat' first
    | with_reducible assumption | with_reducible refine optLive_some ?_ | with_reducible exact optLive_none
    | with_reducible refine runEvent_live _ fun e => ?_ | with_reducible refine State.report_live ?_ _ _ _ | split
theorem execMctpStatus_live {s : State} (h : LiveIs false s)  : OutLive false (execMctpStatus s) := by
  unfold execMctpStatus
  repeat' first
    | with_reducible assumption | with_reducible refine optLive_some ?_ | with_reducible exact optLive_none
    | with_reducible refine runEvent_live _ fun e => ?_
    | fail_if_no_progress (with_reducible refine live_mk ?_; (try dsimp only); with_reducible refine live_cur ?_) | dsimp only | split
theorem execColalmTraining_live {s : State} (h : LiveIs false s)  : OutLive false (execColalmTraining s) := by
  unfold execColalmTraining
  repeat' first
    | with_reducible assumption | with_reducible refine optLive_some ?_ | with_reducible exact optLive_none
    | with_reducible refine State.at_live ?_ _ _ | with_reducible refine State.draw_live ?_ | with_reducible refine runEvent_live _ fun e => ?_
    | fail_if_no_progress (with_reducible refine live_mk ?_; (try dsimp only); with_reducible refine live_cur ?_) | dsimp only | split
theorem State.linkOpen_live {lv : Bool} {s : State} (h : LiveIs lv s) (port : Nat) (entry : Nat) (base : Nat) (len : Nat) (rd : Bool) (wr : Bool) : LiveIs lv (State.linkOpen s port entry base len rd wr) := by
  unfold State.linkOpen
  repeat' first
    | with_reducible assumption | with_reducible refine State.status_live ?_ _
    | fail_if_no_progress (with_reducible refine live_mk ?_; (try dsimp only); with_reducible refine live_cur ?_) | dsimp only | split
theorem execLinkopen_live {s : State} (h : LiveIs false s)  : OutLive false (execLinkopen s) := by
  unfold execLinkopen
  repeat' first
    | with_reducible assumption | (with_reducible intro t ht) | with_reducible refine optLive_some ?_ | with_reducible exact optLive_none
    | with_reducible refine runEvent_live _ fun e => ?_ | with_reducible refine State.command_live ?_ _ ?_
    | with_reducible refine State.linkOpen_live ?_ _ _ _ _ _ _ | split
theorem State.inbound_live {lv : Bool} {s : State} (h : LiveIs lv s) (port : Nat) (a : Nat) (len : Nat) (kind : Inbound) : LiveIs lv (State.inbound s port a len kind) := by
  unfold State.inbound
  repeat' first
    | with_reducible assumption | with_reducible refine State.reportAnswer_live ?_ _ | with_reducible refine State.visit_live ?_ _ _ | dsimp only
    | split
theorem execColalmInboundRequest_live {s : State} (h : LiveIs false s)  : OutLive false (execColalmInboundRequest s) := by
  unfold execColalmInboundRequest
  repeat' first
    | with_reducible assumption | with_reducible refine optLive_some ?_ | with_reducible exact optLive_none
    | with_reducible refine runEvent_live _ fun e => ?_ | with_reducible refine State.inbound_live ?_ _ _ _ _ | split
theorem State.migrate_live {lv : Bool} {s : State} (h : LiveIs lv s) (asid : Nat) (va : Nat) (frame : Nat) : LiveIs lv (State.migrate s asid va frame) := by
  unfold State.migrate
  repeat' first
    | with_reducible assumption | with_reducible refine State.at_live ?_ _ _ | with_reducible refine State.now_live ?_ _
    | with_reducible refine State.claimSlice_live ?_ _ | with_reducible refine State.invalidate_live ?_ _ _ _
    | with_reducible refine live_foldl ?_ (fun _ _ _ => ?_)
    | fail_if_no_progress (with_reducible refine live_mk ?_; (try dsimp only); with_reducible refine live_cur ?_) | dsimp only | split
theorem execPageMigration_live {s : State} (h : LiveIs false s)  : OutLive false (execPageMigration s) := by
  unfold execPageMigration
  repeat' first
    | with_reducible assumption | with_reducible refine optLive_some ?_ | with_reducible exact optLive_none
    | with_reducible refine runEvent_live _ fun e => ?_ | with_reducible refine State.migrate_live ?_ _ _ _ | split
theorem State.sweep_live {lv : Bool} {s : State} (h : LiveIs lv s)  : LiveIs lv (State.sweep s) := by
  unfold State.sweep
  repeat' first
    | with_reducible assumption | with_reducible refine State.claimSlice_live ?_ _ | with_reducible refine live_foldl ?_ (fun _ _ _ => ?_)
    | fail_if_no_progress (with_reducible refine live_mk ?_; (try dsimp only); with_reducible refine live_cur ?_)
theorem execHeatSweep_live {s : State} (h : LiveIs false s)  : OutLive false (execHeatSweep s) := by
  unfold execHeatSweep
  repeat' first
    | with_reducible assumption | with_reducible refine optLive_some ?_ | with_reducible exact optLive_none
    | with_reducible refine runEvent_live _ fun e => ?_ | with_reducible refine State.sweep_live ?_ | split

/-! ### Machine/Portable.lean -/

theorem State.countCommit_live {lv : Bool} {s : State} (h : LiveIs lv s) (t : Team) (o : Op) (vas : List Nat) (write : Bool) : LiveIs lv (State.countCommit s t o vas write) := by
  unfold State.countCommit
  repeat' first
    | with_reducible assumption | with_reducible refine State.countAccess_live ?_ _ _ _ _ _ | split
theorem State.commitLane_live {lv : Bool} {s : State} (h : LiveIs lv s) (o : Op) (p : Phys) (L : Nat) : LiveIs lv (State.commitLane s o p L) := by
  unfold State.commitLane
  repeat' first
    | with_reducible assumption | with_reducible refine State.writeAt_live ?_ _ _ | with_reducible refine State.mapOp_live ?_ _ _ | dsimp only | split
theorem commitGlobal_live {lv : Bool} {r : Trial} (h : LiveIs lv r.1) (t : Team) (o : Op) : LiveIs lv (commitGlobal r t o).1 := by
  unfold commitGlobal
  repeat' first
    | with_reducible assumption | with_reducible refine State.mapOp_live ?_ _ _ | with_reducible refine State.checkOp_live ?_ _
    | with_reducible refine State.refuse_live ?_ _ _ | with_reducible refine State.countCommit_live ?_ _ _ _ _
    | with_reducible refine State.commitLane_live ?_ _ _ _ | with_reducible refine live_foldl ?_ (fun _ _ _ => ?_) | dsimp only | split
theorem State.commitLocal_live {lv : Bool} {s : State} (h : LiveIs lv s) (o : Op) : LiveIs lv (State.commitLocal s o) := by
  unfold State.commitLocal
  repeat' first
    | with_reducible assumption | with_reducible refine State.mapOp_live ?_ _ _ | with_reducible refine State.landOp_live ?_ _
    | with_reducible refine State.performLocal_live ?_ _ _
theorem State.pieceBytes_live {lv : Bool} {s u : State} (h : LiveIs lv s) (t : Team) (o : Op) (sp : Space) (a n : Nat) {bs : List Byte}
    (e : s.pieceBytes t o sp a n = .ok (u, bs)) : LiveIs lv u := by
  unfold State.pieceBytes at e
  split at e
  · dsimp only at e
    split at e
    · cases e; exact State.countCommit_live h _ _ _ _
    · cases e
  · cases e; exact h
theorem State.commitCredit_live {lv : Bool} {s : State} (h : LiveIs lv s) (o : Op) (c : Copy) (n : Nat) : LiveIs lv (State.commitCredit s o c n) := by
  unfold State.commitCredit
  repeat' first
    | with_reducible assumption | with_reducible refine State.barBytes_live ?_ _ _ _ _ _ | with_reducible refine State.mapCopy_live ?_ _ _ | split
theorem copyStop_live {lv : Bool} {r : Trial} (h : LiveIs lv r.1) (o : Op) (va : Nat) (write : Bool) (v : Verdict) : LiveIs lv (copyStop r o va write v).1 := by
  unfold copyStop
  repeat' first
    | with_reducible assumption | with_reducible refine State.stopCopy_live ?_ _ _ | split
theorem copyPut_live {lv : Bool} {r : Trial} (h : LiveIs lv r.1) (t : Team) (o : Op) (c : Copy) (d : Nat) (n : Nat) (bs : List Byte) : LiveIs lv (copyPut r t o c d n bs).1 := by
  unfold copyPut
  repeat' first
    | with_reducible assumption | with_reducible refine State.writeAt_live ?_ _ _ | with_reducible refine State.anyTeam_live ?_ _ _
    | with_reducible refine State.countCommit_live ?_ _ _ _ _ | with_reducible refine State.commitCredit_live ?_ _ _ _
    | with_reducible refine copyStop_live ?_ _ _ _ _ | dsimp only | split
theorem runCopy_live {lv : Bool} (n id : Nat) {r : Trial} (h : LiveIs lv r.1) : LiveIs lv (runCopy n id r).1 := by
  induction n generalizing r with
  | zero => exact h
  | succ n ih =>
    unfold runCopy
    split
    · exact h
    · split
      · split
        · exact State.endCopy_live h _
        · split
          · exact h
          · split
            · exact State.stopCopy_live h _ _
            · split
              · exact ih (State.mapCopy_live (State.pieceBytes_live h _ _ _ _ _ ‹_›) _ _)
              · exact copyStop_live h _ _ _ _
            · exact ih (copyPut_live h _ _ _ _ _ _)
            · split
              · exact ih (copyPut_live (State.pieceBytes_live h _ _ _ _ _ ‹_›) _ _ _ _ _ _)
              · exact copyStop_live h _ _ _ _
      · exact h
theorem commitCopy_live {lv : Bool} {r : Trial} (h : LiveIs lv r.1) (t : Team) (o : Op) (c : Copy) : LiveIs lv (commitCopy r t o c).1 := by
  unfold commitCopy
  repeat' first
    | with_reducible assumption | with_reducible refine State.mapOp_live ?_ _ _ | with_reducible refine State.anyTeam_live ?_ _ _
    | with_reducible refine State.finishOp_live ?_ _ | with_reducible refine State.barBytes_live ?_ _ _ _ _ _
    | with_reducible refine runCopy_live _ _ ?_ | dsimp only | split
theorem State.commitPass_live {lv : Bool} {s : State} (h : LiveIs lv s) (o : Op) (key : RowKey) (ver : Nat) (qs : List Quarter) : LiveIs lv (State.commitPass s o key ver qs) := by
  unfold State.commitPass
  repeat' first
    | with_reducible assumption | with_reducible refine State.landPass_live ?_ _ | with_reducible refine live_foldl ?_ (fun _ _ _ => ?_) | dsimp only
    | split
theorem State.commitMx_live {lv : Bool} {s : State} (h : LiveIs lv s) (o : Op) (m : Mx) : LiveIs lv (State.commitMx s o m) := by
  unfold State.commitMx
  repeat' first
    | with_reducible assumption | with_reducible refine State.logEvent_live ?_ _ _ _ _ _ _ _ _ | with_reducible refine State.mapOp_live ?_ _ _
    | with_reducible refine State.finishMx_live ?_ _ | with_reducible refine State.endXlds_live ?_ _ | with_reducible refine State.endSerial_live ?_ _
    | with_reducible refine State.commitPass_live ?_ _ _ _ _ | dsimp only | split
theorem State.commitArms_live {lv : Bool} {s : State} (h : LiveIs lv s) (i : Nat) : LiveIs lv (State.commitArms s i) := by
  unfold State.commitArms
  repeat' first
    | with_reducible assumption | with_reducible refine State.landArm_live ?_ _ | with_reducible refine live_foldl ?_ (fun _ _ _ => ?_) | dsimp only
    | split
theorem commitAlight_live {lv : Bool} {r : Trial} (h : LiveIs lv r.1) (t : Team) (o : Op) (i : Nat) : LiveIs lv (commitAlight r t o i).1 := by
  unfold commitAlight
  repeat' first
    | with_reducible assumption | with_reducible refine State.writeAt_live ?_ _ _ | with_reducible refine State.mapOp_live ?_ _ _
    | with_reducible refine State.defer_live ?_ _ _ | with_reducible refine State.setSlot_live ?_ _ _
    | with_reducible refine State.countCommit_live ?_ _ _ _ _ | dsimp only | split
theorem commitRing_live {lv : Bool} {r : Trial} (h : LiveIs lv r.1) (t : Team) (o : Op) (i : Nat) (k : RingKind) : LiveIs lv (commitRing r t o i k).1 := by
  unfold commitRing
  repeat' first
    | with_reducible assumption | with_reducible refine State.mapOp_live ?_ _ _ | with_reducible refine State.finishOp_live ?_ _
    | with_reducible refine State.defer_live ?_ _ _ | with_reducible refine State.setSlot_live ?_ _ _
    | with_reducible refine State.addArm_live ?_ _ _ _ _ _ _ | with_reducible refine State.countCommit_live ?_ _ _ _ _
    | with_reducible refine State.commitArms_live ?_ _ | with_reducible refine commitAlight_live ?_ _ _ _ | dsimp only | split
theorem State.commitLaunch_live {lv : Bool} {s : State} (h : LiveIs lv s) (t : Team) (o : Op) (try_ : Bool) (cd : Nat) : LiveIs lv (State.commitLaunch s t o try_ cd) := by
  unfold State.commitLaunch
  repeat' first
    | with_reducible assumption | with_reducible refine State.mapOp_live ?_ _ _ | with_reducible refine State.anyGroup_live ?_ _ _ _
    | with_reducible refine State.finishOp_live ?_ _ | with_reducible refine State.checkOp_live ?_ _
    | with_reducible refine State.translate_live ?_ _ _ | with_reducible refine State.placeRecord_live ?_ _ _ _ _ _ | dsimp only | split
theorem State.takeParams_live {lv : Bool} {s : State} (h : LiveIs lv s) (t : Team) (o : Op) : LiveIs lv (s.takeParams t o).1 := by
  unfold State.takeParams
  dsimp only
  split
  · exact h
  · exact State.mapOp_live h _ _
theorem takeAllParams_live {lv : Bool} (l : List Nat) {s : State} (h : LiveIs lv s) : LiveIs lv (takeAllParams l s).1 := by
  induction l generalizing s with
  | nil => exact h
  | cons a l ih =>
    unfold takeAllParams
    split
    · split
      · split
        · exact ih (live_ofFirst (State.takeParams_live h _ _) ‹_›)
        · exact State.takeParams_live h _ _
      · exact ih h
    · exact ih h
theorem commitOp_live {lv : Bool} {r : Trial} (h : LiveIs lv r.1) (id : Nat) : LiveIs lv (commitOp r id).1 := by
  unfold commitOp
  repeat' first
    | with_reducible assumption | with_reducible refine State.mapOp_live ?_ _ _ | with_reducible refine State.finishOp_live ?_ _
    | with_reducible refine State.defer_live ?_ _ _ | with_reducible refine live_ofPair (State.barApply_live ?_ _ _ _) (by assumption)
    | with_reducible refine State.setScratch_live ?_ _ _ _ | with_reducible refine State.sendMessage_live ?_ _
    | with_reducible refine commitGlobal_live ?_ _ _ | with_reducible refine State.commitLocal_live ?_ _
    | with_reducible refine commitCopy_live ?_ _ _ _ | with_reducible refine State.commitMx_live ?_ _ _
    | with_reducible refine commitRing_live ?_ _ _ _ _ | with_reducible refine State.commitLaunch_live ?_ _ _ _ _
    | with_reducible refine live_foldl ?_ (fun _ _ _ => ?_) | split
theorem State.dropEffects_live {lv : Bool} {s : State} (h : LiveIs lv s) (team : Nat) : LiveIs lv (State.dropEffects s team) := by
  unfold State.dropEffects
  repeat' first
    | with_reducible assumption | with_reducible refine State.undoPlane_live ?_ _ | with_reducible refine live_foldl ?_ (fun _ _ _ => ?_)
    | fail_if_no_progress (with_reducible refine live_mk ?_; (try dsimp only); with_reducible refine live_cur ?_)
theorem State.rerunCopy_live {lv : Bool} {s : State} (h : LiveIs lv s) (t : Team) : LiveIs lv (State.rerunCopy s t) := by
  unfold State.rerunCopy
  repeat' first
    | with_reducible assumption | with_reducible refine State.mapTeam_live ?_ _ _ | with_reducible refine State.dropEffects_live ?_ _
theorem State.mismatch_live {lv : Bool} {s : State} (h : LiveIs lv s) (t : Team) : LiveIs lv (State.mismatch s t) := by
  unfold State.mismatch
  repeat' first
    | with_reducible assumption | with_reducible refine State.logEvent_live ?_ _ _ _ _ _ _ _ _ | with_reducible refine State.complete_live ?_ _ _ _ _
    | with_reducible refine State.haltTeam_live ?_ _ _ _ | with_reducible refine State.dropEffects_live ?_ _
    | with_reducible refine State.rerunCopy_live ?_ _ | dsimp only | split
theorem State.reportRerun_live {lv : Bool} {s : State} (h : LiveIs lv s) (t : Team) : LiveIs lv (State.reportRerun s t) := by
  unfold State.reportRerun
  repeat' first
    | with_reducible assumption | with_reducible refine State.mapTeam_live ?_ _ _ | with_reducible refine State.logEvent_live ?_ _ _ _ _ _ _ _ _
    | split
theorem State.commitResult_live {lv : Bool} {s : State} (h : LiveIs lv s) (id : Nat) : LiveIs lv (State.commitResult s id) := by
  unfold State.commitResult
  repeat' first
    | with_reducible assumption | with_reducible refine State.anyGroup_live ?_ _ _ _ | with_reducible refine State.finishOp_live ?_ _
    | with_reducible refine State.ringResult_live ?_ _ | dsimp only | split
theorem State.recheckWaits_live {lv : Bool} {s : State} (h : LiveIs lv s) (id : Nat) : LiveIs lv (State.recheckWaits s id) := by
  unfold State.recheckWaits
  repeat' first
    | with_reducible assumption | with_reducible refine State.mapTeam_live ?_ _ _
theorem State.nextQuantum_live {lv : Bool} {s : State} (h : LiveIs lv s) (id : Nat) : LiveIs lv (State.nextQuantum s id) := by
  unfold State.nextQuantum
  repeat' first
    | with_reducible assumption | with_reducible refine State.now_live ?_ _ | with_reducible refine State.mapTeam_live ?_ _ _
    | with_reducible refine State.drain_live ?_ _ _ | dsimp only | split
theorem State.askPage_live {lv : Bool} {s : State} (h : LiveIs lv s) (n : Need) : LiveIs lv (State.askPage s n) := by
  unfold State.askPage
  repeat' first
    | with_reducible assumption | with_reducible refine State.draw_live ?_ | with_reducible refine State.mapOp_live ?_ _ _
    | with_reducible refine State.waitDone_live ?_ _ _ _ | with_reducible refine State.joinWalk_live ?_ _ _ _ _ _ _ _
    | with_reducible refine State.chargeOp_live ?_ _ _ _ _ _ | with_reducible refine State.chargePiece_live ?_ _ _ _ _
    | with_reducible refine live_foldl ?_ (fun _ _ _ => ?_) | dsimp only | split
theorem State.applyQuantum_live {lv : Bool} {s : State} (h : LiveIs lv s) (ts : List Team) : LiveIs lv (s.applyQuantum ts) := by
  unfold State.applyQuantum
  extract_lets order ids r dests s1 primaries s2 s3 s4 s5 s5b s6
  have hr : LiveIs lv r.1 := by
    have hp := takeAllParams_live ids h
    unfold r
    clear_value dests
    generalize takeAllParams ids s = p at hp ⊢
    split
    · exact live_foldl1 hp fun r a hr => commitOp_live hr _
    · exact hp
  split
  · exact State.askPage_live h _
  · have h1 : LiveIs lv s1 := live_foldl hr fun s a hs => State.commitResult_live hs _
    have h2 : LiveIs lv s2 := live_foldl h1 fun s a hs => State.recheckWaits_live hs _
    have h3 : LiveIs lv s3 := live_foldl h2 fun s a hs => State.grantWaiters_live hs _ _ _
    have h4 : LiveIs lv s4 := by
      refine live_foldl h3 fun s u hs => ?_
      extract_lets mine t1
      have ht1 : LiveIs lv t1 := live_foldl hs fun s o hs => State.finishOp_live hs _
      clear_value t1
      split
      · exact State.mapTeam_live ht1 _ _
      · exact ht1
    have h5 : LiveIs lv s5 := live_foldl h4 fun s t hs => State.nextQuantum_live (State.reportRerun_live hs _) _
    have h6 : LiveIs lv s6 := by
      have h5b : LiveIs lv s5b := h5
      refine live_foldl h5b fun s t hs => ?_
      dsimp only
      split
      · exact State.endTeam_live hs _
      · exact hs
    clear_value s6
    split
    · split
      · exact State.at_live h6 _ _
      · exact h6
    · exact h6
theorem State.commit_live {lv : Bool} {s : State} (h : LiveIs lv s) (grid : Nat) (reported : List (Nat × Nat)) : LiveIs lv (State.commit s grid reported) := by
  unfold State.commit
  repeat' first
    | with_reducible assumption | with_reducible refine State.mismatch_live ?_ _ | with_reducible refine State.applyQuantum_live ?_ _
    | with_reducible refine live_foldl ?_ (fun _ _ _ => ?_) | dsimp only | split
theorem execQuantumCommit_live {s : State} (h : LiveIs false s)  : OutLive false (execQuantumCommit s) := by
  unfold execQuantumCommit
  repeat' first
    | with_reducible assumption | with_reducible refine optLive_some ?_ | with_reducible exact optLive_none
    | with_reducible refine runEvent_live _ fun e => ?_ | with_reducible refine State.commit_live ?_ _ _ | split

/-! ### Machine/Issue.lean -/

theorem State.keepCode_live {lv : Bool} {s : State} (h : LiveIs lv s) (va : Nat) : LiveIs lv (State.keepCode s va) := by
  unfold State.keepCode
  repeat' first
    | with_reducible assumption | with_reducible refine State.onGroup_live ?_ _ | with_reducible refine State.onTeam_live ?_ _ | dsimp only | split
theorem State.withoutTrapped_live {lv : Bool} {s : State} (h : LiveIs lv s)  : LiveIs lv (State.withoutTrapped s) := by
  unfold State.withoutTrapped
  repeat' first
    | with_reducible assumption | with_reducible refine State.onGroup_live ?_ _
    | fail_if_no_progress (with_reducible refine live_mk ?_; (try dsimp only); with_reducible refine live_cur ?_)
theorem State.quantumEnds_live {lv : Bool} {s : State} (h : LiveIs lv s) (is : List Instr) : LiveIs lv (State.quantumEnds s is) := by
  unfold State.quantumEnds
  repeat' first
    | with_reducible assumption | with_reducible refine State.onGroup_live ?_ _ | with_reducible refine State.pokeCommit_live ?_ _ | dsimp only
    | split
theorem State.retireUnit_live {lv : Bool} {s : State} (h : LiveIs lv s) (is : List Instr) : LiveIs lv (State.retireUnit s is) := by
  unfold State.retireUnit
  repeat' first
    | with_reducible assumption | with_reducible refine State.onGroup_live ?_ _ | with_reducible refine State.quantumEnds_live ?_ _
theorem State.load_live {lv : Bool} {s : State} (h : LiveIs lv s) (u : UWord) : LiveIs lv (State.load s u) := by
  unfold State.load
  repeat' first
    | with_reducible assumption | fail_if_no_progress (with_reducible refine live_mk ?_; (try dsimp only); with_reducible refine live_cur ?_)
theorem State.advance_live {lv : Bool} {s : State} (h : LiveIs lv s)  : LiveIs lv (State.advance s) := by
  unfold State.advance
  repeat' first
    | with_reducible assumption | with_reducible refine State.goto_live ?_ _ _
theorem State.correct_live {lv : Bool} {s : State} (h : LiveIs lv s) (w : W32) (i : Instr) : LiveIs lv (State.correct s w i) := by
  unfold State.correct
  repeat' first
    | with_reducible assumption | with_reducible refine State.onGroup_live ?_ _ | with_reducible refine State.onTeam_live ?_ _
    | fail_if_no_progress (with_reducible refine live_mk ?_; (try dsimp only); with_reducible refine live_cur ?_) | dsimp only | split
theorem State.overwrite_live {lv : Bool} {s : State} (h : LiveIs lv s) (l : List (Nat × LaneMask)) (a : Nat) (b : Nat) : LiveIs lv (State.overwrite s l a b) := by
  unfold State.overwrite
  repeat' first
    | with_reducible assumption | fail_if_no_progress (with_reducible refine live_mk ?_; (try dsimp only); with_reducible refine live_cur ?_)
theorem State.spreadBlock_live {lv : Bool} {s : State} (h : LiveIs lv s)  : LiveIs lv (State.spreadBlock s) := by
  unfold State.spreadBlock
  repeat' first
    | with_reducible assumption | with_reducible refine State.onGroup_live ?_ _ | dsimp only | split
theorem State.fetchWait_live {lv : Bool} {s : State} (h : LiveIs lv s) (c : Cand) (event : Nat) (n : Nat) (doneAt : Option Nat) : LiveIs lv (State.fetchWait s c event n doneAt) := by
  unfold State.fetchWait
  repeat' first
    | with_reducible assumption | with_reducible refine State.block_live ?_ _ | with_reducible refine State.charge_live ?_ _ _ _
theorem State.take_live {lv : Bool} {s : State} (h : LiveIs lv s) (e : Nat × Event) : LiveIs lv (State.take s e) := by
  unfold State.take
  repeat' first
    | with_reducible assumption | fail_if_no_progress (with_reducible refine live_mk ?_; (try dsimp only); with_reducible refine live_cur ?_)
theorem State.clear_live {lv : Bool} {s : State} (h : LiveIs lv s)  : LiveIs lv (State.clear s) := by
  unfold State.clear
  repeat' first
    | with_reducible assumption | fail_if_no_progress (with_reducible refine live_mk ?_; (try dsimp only); with_reducible refine live_cur ?_)
theorem State.tick_live {lv : Bool} {s : State} (h : LiveIs lv s)  : LiveIs lv (State.tick s) := by
  unfold State.tick
  repeat' first
    | with_reducible assumption | fail_if_no_progress (with_reducible refine live_mk ?_; (try dsimp only); with_reducible refine live_cur ?_)

end Sys2Proof.Machine
end

