-- ==== Sys2Proof/Laws/LiveStep.lean ====
section
/-!
SUPPORT. What the parts of a step answer: a word in focus a next state, an event at hand a next state, the picked candidate a next
state with no split in focus.
-/

namespace Sys2Proof.Machine

open Sys2Proof

/-- The rows of the table that stand for events. -/
def isEvent : Instr → Bool
  | .deferredTrap | .resetRelease | .frameBoundary | .seating | .leaseBegin | .leaseEnd | .positionStart | .dramRefresh | .loadReply | .storePerform
  | .storeAcknowledge | .lineRecall | .atomicPerform | .scratchpadRowServe | .bufferPortCycle | .bankWakeEnd | .eacqGrant | .releaseApply
  | .waitResume | .waitcResume | .copyCommandStart | .circSlotReady | .copyPieceStart | .pieceLand | .heldPieceRelease | .copyCommandComplete
  | .xldsComplete | .xswpComplete | .rowInject | .passComplete | .xcfgComplete | .xrelComplete | .xdrnComplete | .xscacComplete | .ringPassage
  | .ringResultWrite | .alightWritePerformed | .chargedWaitDue | .lateWaitFreeze | .freezeResume | .quantumEnd | .switchComplete | .teamCarving
  | .teamRelease | .victimChoice | .drainComplete | .saveComplete | .parkWake | .groupEnd | .teamEnd | .gridEnd | .regroupComplete | .tlbWalkComplete
  | .tlbinvComplete | .faultService | .logReplay | .pageMigration | .heatSweep | .loadBalance | .amsgAccept | .doorbellWrite | .doorcntWrite
  | .queueNop | .queueLaunch | .indirect | .signal | .wait | .waitReread | .launchDelivery | .completionWrite | .cqdoneReread | .admitSeat | .evict
  | .seatEviction | .lease | .qtable | .qreg | .runmode | .preempt | .preemptDelivery | .resume | .powercap | .status | .seatfloor | .pagedone
  | .unfence | .fenceLift | .linkopen | .undefinedCommand | .registerWrite | .powerEvaluation | .clockStepChange | .quantumCommit | .hostBarRequest
  | .atsInvalidationRequest | .atsCompletion | .priResponse | .linkRetrain | .spdmRequest | .mctpStatus | .colalmInboundRequest | .colalmTraining
  | .dramReadRetry | .meshFlitRetry | .illegalInstruction | .configurationRequest => true
  | .nop | .sadd _ _ _ | .ssub _ _ _ | .smul _ _ _ | .smulhS _ _ _ | .smulhZ _ _ _ | .sand _ _ _ | .sor _ _ _ | .sxor _ _ _ | .sshl _ _ _
  | .sshrZ _ _ _ | .sshrS _ _ _ | .sminS _ _ _ | .smaxS _ _ _ | .sminZ _ _ _ | .smaxZ _ _ _ | .ssltS _ _ _ | .ssltZ _ _ _ | .sseq _ _ _ | .saddi _ _ _
  | .sandi _ _ _ | .sori _ _ _ | .sxori _ _ _ | .sshli _ _ _ | .sshriZ _ _ _ | .sshriS _ _ _ | .slit _ _ | .slitwZ _ | .slitwS _ | .slitwLo _
  | .slitwHi _ | .sgetsr _ _ | .ssetsr _ _ | .ssetsrSet _ _ | .ssetsrClr _ _ | .scmpEq _ _ _ | .scmpNe _ _ _ | .scmpLtS _ _ _ | .scmpLeS _ _ _
  | .scmpLtZ _ _ _ | .scmpLeZ _ _ _ | .sext _ _ _ _ | .sextFirst _ _ _ | .sextLast _ _ _ | .vins _ _ _ _ | .vinsAll _ _ _ | .vadd _ _ _
  | .vaddSatS _ _ _ | .vaddSatZ _ _ _ | .vsub _ _ _ | .vsubSatS _ _ _ | .vsubSatZ _ _ _ | .vmul _ _ _ | .vmulhS _ _ _ | .vmulhZ _ _ _ | .vminS _ _ _
  | .vminZ _ _ _ | .vmaxS _ _ _ | .vmaxZ _ _ _ | .vand _ _ _ | .vor _ _ _ | .vxor _ _ _ | .vandn _ _ _ | .vshl _ _ _ | .vshrZ _ _ _ | .vshrS _ _ _
  | .vrot _ _ _ | .vlut3 _ _ _ | .vpopc _ _ | .vclz _ _ | .vctz _ _ | .vbrev _ _ | .vbfxZ _ _ _ | .vbfxS _ _ _ | .vbfi _ _ _ | .vaddi _ _ _
  | .vcmp _ _ _ _ | .vsel _ _ _ _ | .vmov _ _ | .vmovX64 _ _ | .vlit _ _ | .vlaneid _ | .vballot _ _ | .vmrank _ _ | .vmrankInc _ _ | .vshflIdx _ _ _
  | .vshflUp _ _ _ | .vshflDown _ _ _ | .vshflXor _ _ _ | .vfold _ _ _ | .vscan _ _ _ _ | .vregrp _ _ _ _ | .vfadd _ _ _ _ | .vfsub _ _ _ _
  | .vfmul _ _ _ _ | .vfma _ _ _ _ | .vfnma _ _ _ _ | .vfdiv _ _ _ _ | .vfmin _ _ _ | .vfmax _ _ _ | .vfminn _ _ _ | .vfmaxn _ _ _ | .vfcmp _ _ _ _
  | .vfsqrt _ _ | .vfrcp _ _ | .vfrsq _ _ | .vfex2 _ _ | .vflg2 _ _ | .vfabs _ _ | .vfneg _ _ | .vfcpsgn _ _ _ | .vdadd _ _ _ | .vdsub _ _ _
  | .vdmul _ _ _ | .vdfma _ _ _ | .vddiv _ _ _ _ | .vdcmp _ _ _ _ | .vdsqrt _ _ | .vhadd _ _ _ _ | .vhmul _ _ _ _ | .vhfma _ _ _ _ | .vcvt _ _ _ _ _
  | .vquantD8 _ _ _ | .vquantD6 _ _ _ | .vquantM4 _ _ _ | .vquantS8 _ _ _ | .vpack _ _ _ | .vunpkZ _ _ _ | .vunpkS _ _ _ | .sgBoard _ _
  | .sgAlight _ _ | .sgCap _ _ _ | .sgMod _ _ _ _ _ | .sgArm _ _ _ _ | .sgRev _ _ | .sgRevOfs _ | .br _ | .brAny _ _ | .brAll _ _ | .brNone _ _
  | .call _ | .jmp _ _ | .brx _ _ | .vif _ | .velse | .vend | .vkill _ | .vbrk _ _ | .exit | .trap _ | .brk _ | .vldZ _ _ _ _ _ | .vldS _ _ _ _ _
  | .vst _ _ _ _ _ | .sld _ _ _ | .slw _ _ _ | .sst _ _ _ | .ssw _ _ _ | .vlds _ _ _ _ | .vsts _ _ _ _ | .vlda _ _ _ _ | .vsta _ _ _ _ | .vldx _ _ _ _
  | .vatom _ _ _ _ _ | .vmred _ _ _ _ _ | .satom _ _ _ _ _ | .vatoms _ _ _ _ _ | .fence _ _ _ | .barInit _ _ | .barExpect _ _ | .barArrive _ _ _
  | .barArriveExp _ _ _ _ | .barWait _ _ _ _ | .barTest _ _ _ _ | .barPhase _ _ | .waitc _ _ _ _ | .vbank _ _ | .pbank _ _ _ | .eacq | .eacqTry _
  | .erel | .cpG2s _ _ | .cpS2g _ _ | .cpG2a _ _ | .cpG2w _ _ | .cpX2g _ _ | .cpG2g _ _ | .cpCirc _ _ | .gth _ _ | .qfence _ | .cbWait _ _ | .cbFree _
  | .launch _ | .launchTry _ _ | .join _ | .joinAll | .joinDoor _ | .amsg _ | .xcfg _ _ _ | .xlds _ _ _ | .xswp _ | .xmm _ _ _ _ _ | .xbmm _ _ _ _
  | .xscac _ _ | .xdrn _ | .xrel _ _ | .eret | .mfsys _ _ | .mtsys _ _ | .tlbinvVa _ | .tlbinvAsid _ | .tlbinvAll | .seatctlEvack _ | .seatctlKill _
  | .seatctlYield _ | .halt _ => false

/-! ### Words -/

theorem exec_word_live (i : Instr) (hi : isEvent i = false) {s : State} (h : LiveIs true s) : OutLive true (exec i s) := by
  cases i
  case nop => exact execNop_live h
  case sadd => exact execSadd_live h _ _ _
  case ssub => exact execSsub_live h _ _ _
  case smul => exact execSmul_live h _ _ _
  case smulhS => exact execSmulhS_live h _ _ _
  case smulhZ => exact execSmulhZ_live h _ _ _
  case sand => exact execSand_live h _ _ _
  case sor => exact execSor_live h _ _ _
  case sxor => exact execSxor_live h _ _ _
  case sshl => exact execSshl_live h _ _ _
  case sshrZ => exact execSshrZ_live h _ _ _
  case sshrS => exact execSshrS_live h _ _ _
  case sminS => exact execSminS_live h _ _ _
  case smaxS => exact execSmaxS_live h _ _ _
  case sminZ => exact execSminZ_live h _ _ _
  case smaxZ => exact execSmaxZ_live h _ _ _
  case ssltS => exact execSsltS_live h _ _ _
  case ssltZ => exact execSsltZ_live h _ _ _
  case sseq => exact execSseq_live h _ _ _
  case saddi => exact execSaddi_live h _ _ _
  case sandi => exact execSandi_live h _ _ _
  case sori => exact execSori_live h _ _ _
  case sxori => exact execSxori_live h _ _ _
  case sshli => exact execSshli_live h _ _ _
  case sshriZ => exact execSshriZ_live h _ _ _
  case sshriS => exact execSshriS_live h _ _ _
  case slit => exact execSlit_live h _ _
  case slitwZ => exact execSlitwZ_live h _
  case slitwS => exact execSlitwS_live h _
  case slitwLo => exact execSlitwLo_live h _
  case slitwHi => exact execSlitwHi_live h _
  case sgetsr => exact execSgetsr_live h _ _
  case ssetsr => exact execSsetsr_live h _ _
  case ssetsrSet => exact execSsetsrSet_live h _ _
  case ssetsrClr => exact execSsetsrClr_live h _ _
  case scmpEq => exact execScmpEq_live h _ _ _
  case scmpNe => exact execScmpNe_live h _ _ _
  case scmpLtS => exact execScmpLtS_live h _ _ _
  case scmpLeS => exact execScmpLeS_live h _ _ _
  case scmpLtZ => exact execScmpLtZ_live h _ _ _
  case scmpLeZ => exact execScmpLeZ_live h _ _ _
  case sext => exact execSext_live h _ _ _ _
  case sextFirst => exact execSextFirst_live h _ _ _
  case sextLast => exact execSextLast_live h _ _ _
  case vins => exact execVins_live h _ _ _ _
  case vinsAll => exact execVinsAll_live h _ _ _
  case vadd => exact execVadd_live h _ _ _
  case vaddSatS => exact execVaddSatS_live h _ _ _
  case vaddSatZ => exact execVaddSatZ_live h _ _ _
  case vsub => exact execVsub_live h _ _ _
  case vsubSatS => exact execVsubSatS_live h _ _ _
  case vsubSatZ => exact execVsubSatZ_live h _ _ _
  case vmul => exact execVmul_live h _ _ _
  case vmulhS => exact execVmulhS_live h _ _ _
  case vmulhZ => exact execVmulhZ_live h _ _ _
  case vminS => exact execVminS_live h _ _ _
  case vminZ => exact execVminZ_live h _ _ _
  case vmaxS => exact execVmaxS_live h _ _ _
  case vmaxZ => exact execVmaxZ_live h _ _ _
  case vand => exact execVand_live h _ _ _
  case vor => exact execVor_live h _ _ _
  case vxor => exact execVxor_live h _ _ _
  case vandn => exact execVandn_live h _ _ _
  case vshl => exact execVshl_live h _ _ _
  case vshrZ => exact execVshrZ_live h _ _ _
  case vshrS => exact execVshrS_live h _ _ _
  case vrot => exact execVrot_live h _ _ _
  case vlut3 => exact execVlut3_live h _ _ _
  case vpopc => exact execVpopc_live h _ _
  case vclz => exact execVclz_live h _ _
  case vctz => exact execVctz_live h _ _
  case vbrev => exact execVbrev_live h _ _
  case vbfxZ => exact execVbfxZ_live h _ _ _
  case vbfxS => exact execVbfxS_live h _ _ _
  case vbfi => exact execVbfi_live h _ _ _
  case vaddi => exact execVaddi_live h _ _ _
  case vcmp => exact execVcmp_live h _ _ _ _
  case vsel => exact execVsel_live h _ _ _ _
  case vmov => exact execVmov_live h _ _
  case vmovX64 => exact execVmovX64_live h _ _
  case vlit => exact execVlit_live h _ _
  case vlaneid => exact execVlaneid_live h _
  case vballot => exact execVballot_live h _ _
  case vmrank => exact execVmrank_live h _ _
  case vmrankInc => exact execVmrankInc_live h _ _
  case vshflIdx => exact execVshflIdx_live h _ _ _
  case vshflUp => exact execVshflUp_live h _ _ _
  case vshflDown => exact execVshflDown_live h _ _ _
  case vshflXor => exact execVshflXor_live h _ _ _
  case vfold => exact execVfold_live h _ _ _
  case vscan => exact execVscan_live h _ _ _ _
  case vregrp => exact execVregrp_live h _ _ _ _
  case vfadd => exact execVfadd_live h _ _ _ _
  case vfsub => exact execVfsub_live h _ _ _ _
  case vfmul => exact execVfmul_live h _ _ _ _
  case vfma => exact execVfma_live h _ _ _ _
  case vfnma => exact execVfnma_live h _ _ _ _
  case vfdiv => exact execVfdiv_live h _ _ _ _
  case vfmin => exact execVfmin_live h _ _ _
  case vfmax => exact execVfmax_live h _ _ _
  case vfminn => exact execVfminn_live h _ _ _
  case vfmaxn => exact execVfmaxn_live h _ _ _
  case vfcmp => exact execVfcmp_live h _ _ _ _
  case vfsqrt => exact execVfsqrt_live h _ _
  case vfrcp => exact execVfrcp_live h _ _
  case vfrsq => exact execVfrsq_live h _ _
  case vfex2 => exact execVfex2_live h _ _
  case vflg2 => exact execVflg2_live h _ _
  case vfabs => exact execVfabs_live h _ _
  case vfneg => exact execVfneg_live h _ _
  case vfcpsgn => exact execVfcpsgn_live h _ _ _
  case vdadd => exact execVdadd_live h _ _ _
  case vdsub => exact execVdsub_live h _ _ _
  case vdmul => exact execVdmul_live h _ _ _
  case vdfma => exact execVdfma_live h _ _ _
  case vddiv => exact execVddiv_live h _ _ _ _
  case vdcmp => exact execVdcmp_live h _ _ _ _
  case vdsqrt => exact execVdsqrt_live h _ _
  case vhadd => exact execVhadd_live h _ _ _ _
  case vhmul => exact execVhmul_live h _ _ _ _
  case vhfma => exact execVhfma_live h _ _ _ _
  case vcvt => exact execVcvt_live h _ _ _ _ _
  case vquantD8 => exact execVquantD8_live h _ _ _
  case vquantD6 => exact execVquantD6_live h _ _ _
  case vquantM4 => exact execVquantM4_live h _ _ _
  case vquantS8 => exact execVquantS8_live h _ _ _
  case vpack => exact execVpack_live h _ _ _
  case vunpkZ => exact execVunpkZ_live h _ _ _
  case vunpkS => exact execVunpkS_live h _ _ _
  case sgBoard => exact execSgBoard_live h _ _
  case sgAlight => exact execSgAlight_live h _ _
  case sgCap => exact execSgCap_live h _ _ _
  case sgMod => exact execSgMod_live h _ _ _ _ _
  case sgArm => exact execSgArm_live h _ _ _ _
  case sgRev => exact execSgRev_live h _ _
  case sgRevOfs => exact execSgRevOfs_live h _
  case br => exact execBr_live h _
  case brAny => exact execBrAny_live h _ _
  case brAll => exact execBrAll_live h _ _
  case brNone => exact execBrNone_live h _ _
  case call => exact execCall_live h _
  case jmp => exact execJmp_live h _ _
  case brx => exact execBrx_live h _ _
  case vif => exact execVif_live h _
  case velse => exact execVelse_live h
  case vend => exact execVend_live h
  case vkill => exact execVkill_live h _
  case vbrk => exact execVbrk_live h _ _
  case exit => exact execExit_live h
  case trap => exact execTrap_live h _
  case brk => exact execBrk_live h _
  case vldZ => exact execVldZ_live h _ _ _ _ _
  case vldS => exact execVldS_live h _ _ _ _ _
  case vst => exact execVst_live h _ _ _ _ _
  case sld => exact execSld_live h _ _ _
  case slw => exact execSlw_live h _ _ _
  case sst => exact execSst_live h _ _ _
  case ssw => exact execSsw_live h _ _ _
  case vlds => exact execVlds_live h _ _ _ _
  case vsts => exact execVsts_live h _ _ _ _
  case vlda => exact execVlda_live h _ _ _ _
  case vsta => exact execVsta_live h _ _ _ _
  case vldx => exact execVldx_live h _ _ _ _
  case vatom => exact execVatom_live h _ _ _ _ _
  case vmred => exact execVmred_live h _ _ _ _ _
  case satom => exact execSatom_live h _ _ _ _ _
  case vatoms => exact execVatoms_live h _ _ _ _ _
  case fence => exact execFence_live h _ _ _
  case barInit => exact execBarInit_live h _ _
  case barExpect => exact execBarExpect_live h _ _
  case barArrive => exact execBarArrive_live h _ _ _
  case barArriveExp => exact execBarArriveExp_live h _ _ _ _
  case barWait => exact execBarWait_live h _ _ _ _
  case barTest => exact execBarTest_live h _ _ _ _
  case barPhase => exact execBarPhase_live h _ _
  case waitc => exact execWaitc_live h _ _ _ _
  case vbank => exact execVbank_live h _ _
  case pbank => exact execPbank_live h _ _ _
  case eacq => exact execEacq_live h
  case eacqTry => exact execEacqTry_live h _
  case erel => exact execErel_live h
  case cpG2s => exact execCpG2s_live h _ _
  case cpS2g => exact execCpS2g_live h _ _
  case cpG2a => exact execCpG2a_live h _ _
  case cpG2w => exact execCpG2w_live h _ _
  case cpX2g => exact execCpX2g_live h _ _
  case cpG2g => exact execCpG2g_live h _ _
  case cpCirc => exact execCpCirc_live h _ _
  case gth => exact execGth_live h _ _
  case qfence => exact execQfence_live h _
  case cbWait => exact execCbWait_live h _ _
  case cbFree => exact execCbFree_live h _
  case launch => exact execLaunch_live h _
  case launchTry => exact execLaunchTry_live h _ _
  case join => exact execJoin_live h _
  case joinAll => exact execJoinAll_live h
  case joinDoor => exact execJoinDoor_live h _
  case amsg => exact execAmsg_live h _
  case xcfg => exact execXcfg_live h _ _ _
  case xlds => exact execXlds_live h _ _ _
  case xswp => exact execXswp_live h _
  case xmm => exact execXmm_live h _ _ _ _ _
  case xbmm => exact execXbmm_live h _ _ _ _
  case xscac => exact execXscac_live h _ _
  case xdrn => exact execXdrn_live h _
  case xrel => exact execXrel_live h _ _
  case eret => exact execEret_live h
  case mfsys => exact execMfsys_live h _ _
  case mtsys => exact execMtsys_live h _ _
  case tlbinvVa => exact execTlbinvVa_live h _
  case tlbinvAsid => exact execTlbinvAsid_live h _
  case tlbinvAll => exact execTlbinvAll_live h
  case seatctlEvack => exact execSeatctlEvack_live h _
  case seatctlKill => exact execSeatctlKill_live h _
  case seatctlYield => exact execSeatctlYield_live h _
  case halt => exact execHalt_live h _
  case deferredTrap => exact Bool.noConfusion hi
  case resetRelease => exact Bool.noConfusion hi
  case frameBoundary => exact Bool.noConfusion hi
  case seating => exact Bool.noConfusion hi
  case leaseBegin => exact Bool.noConfusion hi
  case leaseEnd => exact Bool.noConfusion hi
  case positionStart => exact Bool.noConfusion hi
  case dramRefresh => exact Bool.noConfusion hi
  case loadReply => exact Bool.noConfusion hi
  case storePerform => exact Bool.noConfusion hi
  case storeAcknowledge => exact Bool.noConfusion hi
  case lineRecall => exact Bool.noConfusion hi
  case atomicPerform => exact Bool.noConfusion hi
  case scratchpadRowServe => exact Bool.noConfusion hi
  case bufferPortCycle => exact Bool.noConfusion hi
  case bankWakeEnd => exact Bool.noConfusion hi
  case eacqGrant => exact Bool.noConfusion hi
  case releaseApply => exact Bool.noConfusion hi
  case waitResume => exact Bool.noConfusion hi
  case waitcResume => exact Bool.noConfusion hi
  case copyCommandStart => exact Bool.noConfusion hi
  case circSlotReady => exact Bool.noConfusion hi
  case copyPieceStart => exact Bool.noConfusion hi
  case pieceLand => exact Bool.noConfusion hi
  case heldPieceRelease => exact Bool.noConfusion hi
  case copyCommandComplete => exact Bool.noConfusion hi
  case xldsComplete => exact Bool.noConfusion hi
  case xswpComplete => exact Bool.noConfusion hi
  case rowInject => exact Bool.noConfusion hi
  case passComplete => exact Bool.noConfusion hi
  case xcfgComplete => exact Bool.noConfusion hi
  case xrelComplete => exact Bool.noConfusion hi
  case xdrnComplete => exact Bool.noConfusion hi
  case xscacComplete => exact Bool.noConfusion hi
  case ringPassage => exact Bool.noConfusion hi
  case ringResultWrite => exact Bool.noConfusion hi
  case alightWritePerformed => exact Bool.noConfusion hi
  case chargedWaitDue => exact Bool.noConfusion hi
  case lateWaitFreeze => exact Bool.noConfusion hi
  case freezeResume => exact Bool.noConfusion hi
  case quantumEnd => exact Bool.noConfusion hi
  case switchComplete => exact Bool.noConfusion hi
  case teamCarving => exact Bool.noConfusion hi
  case teamRelease => exact Bool.noConfusion hi
  case victimChoice => exact Bool.noConfusion hi
  case drainComplete => exact Bool.noConfusion hi
  case saveComplete => exact Bool.noConfusion hi
  case parkWake => exact Bool.noConfusion hi
  case groupEnd => exact Bool.noConfusion hi
  case teamEnd => exact Bool.noConfusion hi
  case gridEnd => exact Bool.noConfusion hi
  case regroupComplete => exact Bool.noConfusion hi
  case tlbWalkComplete => exact Bool.noConfusion hi
  case tlbinvComplete => exact Bool.noConfusion hi
  case faultService => exact Bool.noConfusion hi
  case logReplay => exact Bool.noConfusion hi
  case pageMigration => exact Bool.noConfusion hi
  case heatSweep => exact Bool.noConfusion hi
  case loadBalance => exact Bool.noConfusion hi
  case amsgAccept => exact Bool.noConfusion hi
  case doorbellWrite => exact Bool.noConfusion hi
  case doorcntWrite => exact Bool.noConfusion hi
  case queueNop => exact Bool.noConfusion hi
  case queueLaunch => exact Bool.noConfusion hi
  case indirect => exact Bool.noConfusion hi
  case signal => exact Bool.noConfusion hi
  case wait => exact Bool.noConfusion hi
  case waitReread => exact Bool.noConfusion hi
  case launchDelivery => exact Bool.noConfusion hi
  case completionWrite => exact Bool.noConfusion hi
  case cqdoneReread => exact Bool.noConfusion hi
  case admitSeat => exact Bool.noConfusion hi
  case evict => exact Bool.noConfusion hi
  case seatEviction => exact Bool.noConfusion hi
  case lease => exact Bool.noConfusion hi
  case qtable => exact Bool.noConfusion hi
  case qreg => exact Bool.noConfusion hi
  case runmode => exact Bool.noConfusion hi
  case preempt => exact Bool.noConfusion hi
  case preemptDelivery => exact Bool.noConfusion hi
  case resume => exact Bool.noConfusion hi
  case powercap => exact Bool.noConfusion hi
  case status => exact Bool.noConfusion hi
  case seatfloor => exact Bool.noConfusion hi
  case pagedone => exact Bool.noConfusion hi
  case unfence => exact Bool.noConfusion hi
  case fenceLift => exact Bool.noConfusion hi
  case linkopen => exact Bool.noConfusion hi
  case undefinedCommand => exact Bool.noConfusion hi
  case registerWrite => exact Bool.noConfusion hi
  case powerEvaluation => exact Bool.noConfusion hi
  case clockStepChange => exact Bool.noConfusion hi
  case quantumCommit => exact Bool.noConfusion hi
  case hostBarRequest => exact Bool.noConfusion hi
  case atsInvalidationRequest => exact Bool.noConfusion hi
  case atsCompletion => exact Bool.noConfusion hi
  case priResponse => exact Bool.noConfusion hi
  case linkRetrain => exact Bool.noConfusion hi
  case spdmRequest => exact Bool.noConfusion hi
  case mctpStatus => exact Bool.noConfusion hi
  case colalmInboundRequest => exact Bool.noConfusion hi
  case colalmTraining => exact Bool.noConfusion hi
  case dramReadRetry => exact Bool.noConfusion hi
  case meshFlitRetry => exact Bool.noConfusion hi
  case illegalInstruction => exact Bool.noConfusion hi
  case configurationRequest => exact Bool.noConfusion hi

def OkWord (x : Except Nat Instr) : Prop := ∀ i, x = .ok i → isEvent i = false
theorem okWord_ok {i : Instr} (h : isEvent i = false) : OkWord (.ok i) := by intro j e; cases e; exact h
theorem okWord_error {c : Nat} : OkWord (.error c) := by intro j e; cases e
theorem okWord_legal {i : Instr} (h : isEvent i = false) : OkWord (legal i) := by
  unfold legal; split
  · exact okWord_ok h
  · exact okWord_error
theorem okWord_when {p : Prop} [Decidable p] {c : Nat} {k : Except Nat Instr} (h : OkWord k) : OkWord (when p c k) := by
  unfold when; split
  · exact okWord_error
  · exact h
theorem okWord_need {α : Type} {o : Option α} {c : Nat} {k : α → Except Nat Instr} (h : ∀ x, OkWord (k x)) : OkWord (Sys2Proof.need o c k) := by
  unfold Sys2Proof.need; split
  · exact okWord_error
  · exact h _
theorem dec00_okWord (w : Nat) : OkWord (dec00 w) := by
  unfold dec00
  repeat' first | exact okWord_error | exact okWord_ok rfl | split
theorem dec01_okWord (w : Nat) : OkWord (dec01 w) := by
  unfold dec01
  repeat' first | exact okWord_error | exact okWord_ok rfl | split
theorem dec02_okWord (w : Nat) : OkWord (dec02 w) := okWord_ok rfl
theorem dec03_okWord (w : Nat) : OkWord (dec03 w) := okWord_ok rfl
theorem dec04_okWord (w : Nat) : OkWord (dec04 w) := okWord_ok rfl
theorem dec05_okWord (w : Nat) : OkWord (dec05 w) := okWord_ok rfl
theorem dec06_okWord (w : Nat) : OkWord (dec06 w) := by
  unfold dec06
  repeat' first | exact okWord_error | exact okWord_ok rfl | refine okWord_when ?_ | split
theorem dec07_okWord (w : Nat) : OkWord (dec07 w) := okWord_ok rfl
theorem dec08_okWord (w : Nat) : OkWord (dec08 w) := by
  unfold dec08
  repeat' first | exact okWord_ok rfl | refine okWord_when ?_ | split
theorem dec09_okWord (w : Nat) : OkWord (dec09 w) := by
  unfold dec09
  repeat' first | exact okWord_error | exact okWord_ok rfl | split
theorem dec0A_okWord (w : Nat) : OkWord (dec0A w) := by
  unfold dec0A
  repeat' first | exact okWord_error | exact okWord_ok rfl | split
theorem dec0B_okWord (w : Nat) : OkWord (dec0B w) := by
  unfold dec0B
  repeat' first | exact okWord_error | exact okWord_ok rfl | refine okWord_when ?_ | split
theorem dec0C_okWord (w : Nat) : OkWord (dec0C w) := by
  unfold dec0C
  repeat' first | exact okWord_error | exact okWord_legal rfl | refine okWord_when ?_ | refine okWord_need fun _ => ?_ | split
theorem dec0D_okWord (w : Nat) : OkWord (dec0D w) := by
  unfold dec0D
  repeat' first | exact okWord_error | exact okWord_legal rfl | refine okWord_when ?_ | refine okWord_need fun _ => ?_ | split
theorem dec10_okWord (w : Nat) : OkWord (dec10 w) := by
  unfold dec10
  repeat' first | exact okWord_error | exact okWord_ok rfl | refine okWord_need fun _ => ?_ | split
theorem dec11_okWord (w : Nat) : OkWord (dec11 w) := by
  unfold dec11
  repeat' first | exact okWord_error | exact okWord_ok rfl | refine okWord_need fun _ => ?_ | split
theorem dec12_okWord (w : Nat) : OkWord (dec12 w) := by
  unfold dec12
  repeat' first | exact okWord_error | exact okWord_ok rfl | refine okWord_need fun _ => ?_ | split
theorem dec13_okWord (w : Nat) : OkWord (dec13 w) := by
  unfold dec13
  repeat' first | exact okWord_error | exact okWord_ok rfl | refine okWord_need fun _ => ?_ | split
theorem dec14_okWord (w : Nat) : OkWord (dec14 w) := by
  unfold dec14
  repeat' first | exact okWord_error | exact okWord_ok rfl | refine okWord_need fun _ => ?_ | split
theorem dec15_okWord (w : Nat) : OkWord (dec15 w) := by
  unfold dec15
  repeat' first | exact okWord_ok rfl | refine okWord_need fun _ => ?_ | split
theorem dec16_okWord (w : Nat) : OkWord (dec16 w) := by
  unfold dec16
  repeat' first | exact okWord_ok rfl | refine okWord_need fun _ => ?_ | split
theorem dec17_okWord (w : Nat) : OkWord (dec17 w) := by
  unfold dec17
  repeat' first | exact okWord_error | exact okWord_ok rfl | refine okWord_need fun _ => ?_ | split
theorem dec18_okWord (w : Nat) : OkWord (dec18 w) := by
  unfold dec18
  repeat' first | exact okWord_ok rfl | refine okWord_when ?_ | split
theorem dec19_okWord (w : Nat) : OkWord (dec19 w) := by
  unfold dec19
  repeat' first | exact okWord_error | exact okWord_ok rfl | refine okWord_need fun _ => ?_ | split
theorem dec1A_okWord (w : Nat) : OkWord (dec1A w) := by
  unfold dec1A
  repeat' first | exact okWord_error | exact okWord_ok rfl | refine okWord_need fun _ => ?_ | split
theorem dec1B_okWord (w : Nat) : OkWord (dec1B w) := by
  unfold dec1B
  repeat' first | exact okWord_error | exact okWord_ok rfl | refine okWord_need fun _ => ?_ | split
theorem dec1C_okWord (w : Nat) : OkWord (dec1C w) := okWord_ok rfl
theorem dec1D_okWord (w : Nat) : OkWord (dec1D w) := by
  unfold dec1D
  repeat' first | exact okWord_error | exact okWord_ok rfl | refine okWord_when ?_ | refine okWord_need fun _ => ?_ | split
theorem dec1E_okWord (w : Nat) : OkWord (dec1E w) := okWord_ok rfl
theorem dec1F_okWord (w : Nat) : OkWord (dec1F w) := by
  unfold dec1F
  repeat' first | exact okWord_error | exact okWord_ok rfl | exact okWord_legal rfl | refine okWord_when ?_ | split
theorem dec20_okWord (w : Nat) : OkWord (dec20 w) := by
  unfold dec20
  repeat' first | exact okWord_ok rfl | refine okWord_need fun _ => ?_
theorem dec21_okWord (w : Nat) : OkWord (dec21 w) := by
  unfold dec21
  repeat' first | exact okWord_ok rfl | refine okWord_need fun _ => ?_
theorem dec22_okWord (w : Nat) : OkWord (dec22 w) := by
  unfold dec22
  repeat' first | exact okWord_ok rfl | refine okWord_need fun _ => ?_
theorem dec23_okWord (w : Nat) : OkWord (dec23 w) := by
  unfold dec23
  repeat' first | exact okWord_ok rfl | refine okWord_need fun _ => ?_
theorem dec24_okWord (w : Nat) : OkWord (dec24 w) := by
  unfold dec24
  repeat' first | exact okWord_ok rfl | refine okWord_need fun _ => ?_
theorem dec25_okWord (w : Nat) : OkWord (dec25 w) := by
  unfold dec25
  repeat' first | exact okWord_ok rfl | refine okWord_need fun _ => ?_ | split
theorem dec26_okWord (w : Nat) : OkWord (dec26 w) := by
  unfold dec26
  repeat' first | exact okWord_error | exact okWord_ok rfl | refine okWord_when ?_ | refine okWord_need fun _ => ?_ | split
theorem dec27_okWord (w : Nat) : OkWord (dec27 w) := by
  unfold dec27
  repeat' first | exact okWord_ok rfl | refine okWord_need fun _ => ?_
theorem dec28_okWord (w : Nat) : OkWord (dec28 w) := by
  unfold dec28
  repeat' first | exact okWord_error | exact okWord_ok rfl | refine okWord_when ?_ | split
theorem dec29_okWord (w : Nat) : OkWord (dec29 w) := by
  unfold dec29
  repeat' first | exact okWord_error | exact okWord_ok rfl | refine okWord_when ?_ | refine okWord_need fun _ => ?_ | split
theorem dec2A_okWord (w : Nat) : OkWord (dec2A w) := by
  unfold dec2A
  repeat' first | exact okWord_legal rfl | refine okWord_need fun _ => ?_ | split
theorem dec2B_okWord (w : Nat) : OkWord (dec2B w) := by
  unfold dec2B
  repeat' first | exact okWord_legal rfl | refine okWord_need fun _ => ?_
theorem dec2C_okWord (w : Nat) : OkWord (dec2C w) := by
  unfold dec2C
  repeat' first | exact okWord_error | exact okWord_legal rfl | refine okWord_when ?_ | refine okWord_need fun _ => ?_ | split
theorem dec2D_okWord (w : Nat) : OkWord (dec2D w) := by
  unfold dec2D
  repeat' first | exact okWord_error | exact okWord_legal rfl | refine okWord_when ?_ | split
theorem dec2E_okWord (w : Nat) : OkWord (dec2E w) := by
  unfold dec2E
  repeat' first | exact okWord_ok rfl | refine okWord_need fun _ => ?_ | split
theorem dec2F_okWord (w : Nat) : OkWord (dec2F w) := by
  unfold dec2F
  repeat' first | exact okWord_error | exact okWord_ok rfl | refine okWord_need fun _ => ?_ | split
theorem dec30_okWord (w : Nat) : OkWord (dec30 w) := by
  unfold dec30
  repeat' first | exact okWord_legal rfl | refine okWord_when ?_ | refine okWord_need fun _ => ?_
theorem dec31_okWord (w : Nat) : OkWord (dec31 w) := by
  unfold dec31
  repeat' first | exact okWord_ok rfl | refine okWord_need fun _ => ?_ | split
theorem dec32_okWord (w : Nat) : OkWord (dec32 w) := by
  unfold dec32
  repeat' first | exact okWord_legal rfl | refine okWord_when ?_ | refine okWord_need fun _ => ?_ | split
theorem dec34_okWord (w : Nat) : OkWord (dec34 w) := by
  unfold dec34
  repeat' first | exact okWord_ok rfl | refine okWord_when ?_
theorem dec35_okWord (w : Nat) : OkWord (dec35 w) := by
  unfold dec35
  repeat' first | exact okWord_ok rfl | refine okWord_when ?_ | split
theorem dec36_okWord (w : Nat) : OkWord (dec36 w) := by
  unfold dec36
  repeat' first | exact okWord_ok rfl | refine okWord_need fun _ => ?_ | split
theorem dec37_okWord (w : Nat) : OkWord (dec37 w) := by
  unfold dec37
  repeat' first | exact okWord_ok rfl | refine okWord_when ?_ | refine okWord_need fun _ => ?_
theorem dec38_okWord (w : Nat) : OkWord (dec38 w) := by
  unfold dec38
  repeat' first | exact okWord_ok rfl | refine okWord_when ?_ | refine okWord_need fun _ => ?_
theorem dec39_okWord (w : Nat) : OkWord (dec39 w) := by
  unfold dec39
  repeat' first | exact okWord_legal rfl | refine okWord_when ?_
theorem dec3A_okWord (w : Nat) : OkWord (dec3A w) := by
  unfold dec3A
  repeat' first | exact okWord_error | exact okWord_legal rfl | refine okWord_when ?_ | split
theorem dec3B_okWord (w : Nat) : OkWord (dec3B w) := by
  unfold dec3B
  repeat' first | exact okWord_error | exact okWord_ok rfl | refine okWord_when ?_ | split
theorem dec3C_okWord (w : Nat) : OkWord (dec3C w) := by
  unfold dec3C
  repeat' first | exact okWord_error | exact okWord_legal rfl | refine okWord_when ?_ | split
theorem dec3D_okWord (w : Nat) : OkWord (dec3D w) := by
  unfold dec3D
  repeat' first | exact okWord_ok rfl | refine okWord_when ?_ | refine okWord_need fun _ => ?_
theorem dec3E_okWord (w : Nat) : OkWord (dec3E w) := by
  unfold dec3E
  repeat' first | exact okWord_legal rfl | refine okWord_when ?_ | refine okWord_need fun _ => ?_
theorem dec3F_okWord (w : Nat) : OkWord (dec3F w) := by
  unfold dec3F
  repeat' first | exact okWord_error | exact okWord_ok rfl | refine okWord_when ?_ | split
theorem dec40_okWord (w : Nat) : OkWord (dec40 w) := by
  unfold dec40
  repeat' first | exact okWord_ok rfl | refine okWord_when ?_ | split
theorem dec41_okWord (w : Nat) : OkWord (dec41 w) := by
  unfold dec41
  repeat' first | exact okWord_error | exact okWord_ok rfl | refine okWord_when ?_ | split
theorem dec42_okWord (w : Nat) : OkWord (dec42 w) := by
  unfold dec42
  repeat' first | exact okWord_error | exact okWord_ok rfl | refine okWord_when ?_ | split
theorem dec43_okWord (w : Nat) : OkWord (dec43 w) := by
  unfold dec43
  repeat' first | exact okWord_ok rfl | refine okWord_when ?_
theorem dec44_okWord (w : Nat) : OkWord (dec44 w) := by
  unfold dec44
  repeat' first | exact okWord_ok rfl | refine okWord_when ?_
theorem dec45_okWord (w : Nat) : OkWord (dec45 w) := by
  unfold dec45
  repeat' first | exact okWord_ok rfl | refine okWord_when ?_
theorem dec46_okWord (w : Nat) : OkWord (dec46 w) := by
  unfold dec46
  repeat' first | exact okWord_ok rfl | refine okWord_when ?_
theorem dec47_okWord (w : Nat) : OkWord (dec47 w) := by
  unfold dec47
  repeat' first | exact okWord_ok rfl | refine okWord_when ?_
theorem dec48_okWord (w : Nat) : OkWord (dec48 w) := by
  unfold dec48
  repeat' first | exact okWord_ok rfl | refine okWord_when ?_
theorem dec49_okWord (w : Nat) : OkWord (dec49 w) := by
  unfold dec49
  repeat' first | exact okWord_ok rfl | refine okWord_when ?_
theorem dec4A_okWord (w : Nat) : OkWord (dec4A w) := by
  unfold dec4A
  repeat' first | exact okWord_ok rfl | refine okWord_when ?_
theorem dec4B_okWord (w : Nat) : OkWord (dec4B w) := by
  unfold dec4B
  repeat' first | exact okWord_ok rfl | refine okWord_when ?_
theorem dec50_okWord (w : Nat) : OkWord (dec50 w) := by
  unfold dec50
  repeat' first | exact okWord_legal rfl | refine okWord_need fun _ => ?_
theorem dec51_okWord (w : Nat) : OkWord (dec51 w) := by
  unfold dec51
  repeat' first | exact okWord_legal rfl | refine okWord_need fun _ => ?_
theorem dec52_okWord (w : Nat) : OkWord (dec52 w) := by
  unfold dec52
  repeat' first | exact okWord_legal rfl | refine okWord_need fun _ => ?_
theorem dec53_okWord (w : Nat) : OkWord (dec53 w) := okWord_ok rfl
theorem dec54_okWord (w : Nat) : OkWord (dec54 w) := okWord_ok rfl
theorem dec55_okWord (w : Nat) : OkWord (dec55 w) := okWord_ok rfl
theorem dec56_okWord (w : Nat) : OkWord (dec56 w) := okWord_ok rfl
theorem dec57_okWord (w : Nat) : OkWord (dec57 w) := by
  unfold dec57
  repeat' first | exact okWord_legal rfl | refine okWord_when ?_ | refine okWord_need fun _ => ?_
theorem dec58_okWord (w : Nat) : OkWord (dec58 w) := by
  unfold dec58
  repeat' first | exact okWord_legal rfl | refine okWord_when ?_ | refine okWord_need fun _ => ?_
theorem dec59_okWord (w : Nat) : OkWord (dec59 w) := by
  unfold dec59
  repeat' first | exact okWord_legal rfl | refine okWord_when ?_ | refine okWord_need fun _ => ?_
theorem dec5A_okWord (w : Nat) : OkWord (dec5A w) := by
  unfold dec5A
  repeat' first | exact okWord_legal rfl | refine okWord_when ?_ | refine okWord_need fun _ => ?_
theorem dec5B_okWord (w : Nat) : OkWord (dec5B w) := by
  unfold dec5B
  repeat' first | exact okWord_error | exact okWord_legal rfl | refine okWord_when ?_ | split
theorem dec60_okWord (w : Nat) : OkWord (dec60 w) := by
  unfold dec60
  repeat' first | exact okWord_legal rfl | refine okWord_when ?_ | refine okWord_need fun _ => ?_
theorem dec61_okWord (w : Nat) : OkWord (dec61 w) := by
  unfold dec61
  repeat' first | exact okWord_legal rfl | refine okWord_when ?_ | refine okWord_need fun _ => ?_
theorem dec62_okWord (w : Nat) : OkWord (dec62 w) := by
  unfold dec62
  repeat' first | exact okWord_ok rfl | refine okWord_need fun _ => ?_
theorem dec63_okWord (w : Nat) : OkWord (dec63 w) := by
  unfold dec63
  repeat' first | exact okWord_legal rfl | refine okWord_when ?_ | refine okWord_need fun _ => ?_
theorem dec64_okWord (w : Nat) : OkWord (dec64 w) := by
  unfold dec64
  repeat' first | exact okWord_ok rfl | refine okWord_when ?_ | refine okWord_need fun _ => ?_
theorem dec65_okWord (w : Nat) : OkWord (dec65 w) := by
  unfold dec65
  repeat' first | exact okWord_error | exact okWord_ok rfl | refine okWord_when ?_ | refine okWord_need fun _ => ?_ | split
theorem dec66_okWord (w : Nat) : OkWord (dec66 w) := by
  unfold dec66
  repeat' first | exact okWord_ok rfl | refine okWord_when ?_
theorem dec67_okWord (w : Nat) : OkWord (dec67 w) := by
  unfold dec67
  repeat' first | exact okWord_ok rfl | refine okWord_when ?_ | refine okWord_need fun _ => ?_
theorem dec68_okWord (w : Nat) : OkWord (dec68 w) := by
  unfold dec68
  repeat' first | exact okWord_ok rfl | refine okWord_when ?_ | refine okWord_need fun _ => ?_
theorem dec69_okWord (w : Nat) : OkWord (dec69 w) := by
  unfold dec69
  repeat' first | exact okWord_ok rfl | refine okWord_when ?_ | split
theorem dec6A_okWord (w : Nat) : OkWord (dec6A w) := by
  unfold dec6A
  repeat' first | exact okWord_ok rfl | refine okWord_when ?_
theorem dec70_okWord (w : Nat) : OkWord (dec70 w) := by
  unfold dec70
  repeat' first | exact okWord_error | exact okWord_legal rfl | refine okWord_when ?_ | refine okWord_need fun _ => ?_ | split
theorem dec71_okWord (w : Nat) : OkWord (dec71 w) := by
  unfold dec71
  repeat' first | exact okWord_error | exact okWord_legal rfl | refine okWord_when ?_ | refine okWord_need fun _ => ?_ | split
theorem dec72_okWord (w : Nat) : OkWord (dec72 w) := by
  unfold dec72
  repeat' first | exact okWord_ok rfl | refine okWord_when ?_
theorem dec73_okWord (w : Nat) : OkWord (dec73 w) := by
  unfold dec73
  repeat' first | exact okWord_error | exact okWord_ok rfl | refine okWord_when ?_ | split
theorem dec74_okWord (w : Nat) : OkWord (dec74 w) := by
  unfold dec74
  repeat' first | exact okWord_legal rfl | refine okWord_when ?_ | split
theorem dec75_okWord (w : Nat) : OkWord (dec75 w) := by
  unfold dec75
  repeat' first | exact okWord_error | exact okWord_ok rfl | refine okWord_when ?_ | split
theorem dec76_okWord (w : Nat) : OkWord (dec76 w) := by
  unfold dec76
  repeat' first | exact okWord_legal rfl | refine okWord_when ?_
theorem dec78_okWord (w : Nat) : OkWord (dec78 w) := by
  unfold dec78
  repeat' first | exact okWord_error | exact okWord_ok rfl | refine okWord_when ?_ | refine okWord_need fun _ => ?_ | split
theorem dec79_okWord (w : Nat) : OkWord (dec79 w) := by
  unfold dec79
  repeat' first | exact okWord_error | exact okWord_ok rfl | refine okWord_when ?_ | refine okWord_need fun _ => ?_ | split
theorem dec7A_okWord (w : Nat) : OkWord (dec7A w) := by
  unfold dec7A
  repeat' first | exact okWord_error | exact okWord_ok rfl | refine okWord_when ?_ | split
theorem dec7B_okWord (w : Nat) : OkWord (dec7B w) := by
  unfold dec7B
  repeat' first | exact okWord_error | exact okWord_ok rfl | refine okWord_when ?_ | refine okWord_need fun _ => ?_ | split
theorem dec7C_okWord (w : Nat) : OkWord (dec7C w) := by
  unfold dec7C
  repeat' first | exact okWord_error | exact okWord_ok rfl | refine okWord_when ?_ | refine okWord_need fun _ => ?_ | split
theorem dec7D_okWord (w : Nat) : OkWord (dec7D w) := by
  unfold dec7D
  repeat' first | exact okWord_error | exact okWord_ok rfl | refine okWord_when ?_ | split
theorem dec7E_okWord (w : Nat) : OkWord (dec7E w) := by
  unfold dec7E
  repeat' first | exact okWord_error | exact okWord_ok rfl | refine okWord_when ?_ | split
theorem dec7F_okWord (w : Nat) : OkWord (dec7F w) := by
  unfold dec7F
  repeat' first | exact okWord_error | exact okWord_ok rfl | refine okWord_when ?_ | split
theorem decodeBody_okWord (w : Nat) : OkWord (decodeBody w) := by
  unfold decodeBody
  split
  · exact dec00_okWord w
  · exact dec01_okWord w
  · exact dec02_okWord w
  · exact dec03_okWord w
  · exact dec04_okWord w
  · exact dec05_okWord w
  · exact dec06_okWord w
  · exact dec07_okWord w
  · exact dec08_okWord w
  · exact dec09_okWord w
  · exact dec0A_okWord w
  · exact dec0B_okWord w
  · exact dec0C_okWord w
  · exact dec0D_okWord w
  · exact dec10_okWord w
  · exact dec11_okWord w
  · exact dec12_okWord w
  · exact dec13_okWord w
  · exact dec14_okWord w
  · exact dec15_okWord w
  · exact dec16_okWord w
  · exact dec17_okWord w
  · exact dec18_okWord w
  · exact dec19_okWord w
  · exact dec1A_okWord w
  · exact dec1B_okWord w
  · exact dec1C_okWord w
  · exact dec1D_okWord w
  · exact dec1E_okWord w
  · exact dec1F_okWord w
  · exact dec20_okWord w
  · exact dec21_okWord w
  · exact dec22_okWord w
  · exact dec23_okWord w
  · exact dec24_okWord w
  · exact dec25_okWord w
  · exact dec26_okWord w
  · exact dec27_okWord w
  · exact dec28_okWord w
  · exact dec29_okWord w
  · exact dec2A_okWord w
  · exact dec2B_okWord w
  · exact dec2C_okWord w
  · exact dec2D_okWord w
  · exact dec2E_okWord w
  · exact dec2F_okWord w
  · exact dec30_okWord w
  · exact dec31_okWord w
  · exact dec32_okWord w
  · exact dec34_okWord w
  · exact dec35_okWord w
  · exact dec36_okWord w
  · exact dec37_okWord w
  · exact dec38_okWord w
  · exact dec39_okWord w
  · exact dec3A_okWord w
  · exact dec3B_okWord w
  · exact dec3C_okWord w
  · exact dec3D_okWord w
  · exact dec3E_okWord w
  · exact dec3F_okWord w
  · exact dec40_okWord w
  · exact dec41_okWord w
  · exact dec42_okWord w
  · exact dec43_okWord w
  · exact dec44_okWord w
  · exact dec45_okWord w
  · exact dec46_okWord w
  · exact dec47_okWord w
  · exact dec48_okWord w
  · exact dec49_okWord w
  · exact dec4A_okWord w
  · exact dec4B_okWord w
  · exact dec50_okWord w
  · exact dec51_okWord w
  · exact dec52_okWord w
  · exact dec53_okWord w
  · exact dec54_okWord w
  · exact dec55_okWord w
  · exact dec56_okWord w
  · exact dec57_okWord w
  · exact dec58_okWord w
  · exact dec59_okWord w
  · exact dec5A_okWord w
  · exact dec5B_okWord w
  · exact dec60_okWord w
  · exact dec61_okWord w
  · exact dec62_okWord w
  · exact dec63_okWord w
  · exact dec64_okWord w
  · exact dec65_okWord w
  · exact dec66_okWord w
  · exact dec67_okWord w
  · exact dec68_okWord w
  · exact dec69_okWord w
  · exact dec6A_okWord w
  · exact dec70_okWord w
  · exact dec71_okWord w
  · exact dec72_okWord w
  · exact dec73_okWord w
  · exact dec74_okWord w
  · exact dec75_okWord w
  · exact dec76_okWord w
  · exact dec78_okWord w
  · exact dec79_okWord w
  · exact dec7A_okWord w
  · exact dec7B_okWord w
  · exact dec7C_okWord w
  · exact dec7D_okWord w
  · exact dec7E_okWord w
  · exact dec7F_okWord w
  · exact okWord_error
theorem instrOf_isEvent {w : W32} {i : Instr} (e : instrOf w = some i) : isEvent i = false := by
  unfold instrOf decodeWord at e
  cases h : decodeBody w.toNat with
  | error c => rw [h] at e; cases e
  | ok j => rw [h] at e; cases e; exact decodeBody_okWord _ _ h

/-! ### Events -/

theorem State.focus_live (s : State) (t : Team) (g : Group) (k : Nat) : LiveIs true (s.focus t g k) := rfl
theorem State.unfocus_live (s : State) : LiveIs false s.unfocus := by
  unfold State.unfocus
  split
  · rfl
  · exact Bool.eq_false_iff.2 ‹_›
theorem execDeferredTrap_live {s : State} (h : LiveIs false s) : OutLive false (execDeferredTrap s) := by
  unfold execDeferredTrap
  refine runEvent_live _ fun e => ?_
  split
  · extract_lets go
    split
    · rename_i hl
      exact absurd (h.symm.trans hl) (by decide)
    · split
      · split
        · exact optLive_some (State.unfocus_live _)
        · exact optLive_some h
      · exact optLive_some h
  · exact optLive_none
theorem runEvent_next {s : State} {f : Event → Option State} {e : Event} (h : s.ev = some e) (hf : (f e).isSome = true) : ∃ t, runEvent s f = .next t := by
  obtain ⟨t, ht⟩ := Option.isSome_iff_exists.1 hf
  refine ⟨t, ?_⟩
  unfold runEvent
  rw [h]
  dsimp only
  rw [ht]
/-- An event's meaning finds its event at hand. -/
theorem exec_row_next (e : Event) {s : State} (h : s.ev = some e) : ∃ t, exec e.row s = .next t := by
  cases e
  case deferredTrap =>
    refine runEvent_next h ?_
    dsimp only
    repeat' first | rfl | split
  case resetRelease => exact runEvent_next h rfl
  case frameBoundary => exact runEvent_next h rfl
  case seating => exact runEvent_next h rfl
  case leaseBegin =>
    refine runEvent_next h ?_
    dsimp only
    repeat' first | rfl | split
  case leaseEnd =>
    refine runEvent_next h ?_
    dsimp only
    repeat' first | rfl | split
  case positionStart => exact runEvent_next h rfl
  case dramRefresh => exact runEvent_next h rfl
  case loadReply => exact runEvent_next h rfl
  case storePerform => exact runEvent_next h rfl
  case storeAcknowledge => exact runEvent_next h rfl
  case lineRecall => exact runEvent_next h rfl
  case atomicPerform => exact runEvent_next h rfl
  case scratchpadRowServe => exact runEvent_next h rfl
  case bufferPortCycle => exact runEvent_next h rfl
  case bankWakeEnd =>
    refine runEvent_next h ?_
    dsimp only
    repeat' first | rfl | split
  case eacqGrant => exact runEvent_next h rfl
  case releaseApply => exact runEvent_next h rfl
  case waitResume => exact runEvent_next h rfl
  case waitcResume => exact runEvent_next h rfl
  case copyCommandStart => exact runEvent_next h rfl
  case circSlotReady => exact runEvent_next h rfl
  case copyPieceStart => exact runEvent_next h rfl
  case pieceLand => exact runEvent_next h rfl
  case heldPieceRelease =>
    refine runEvent_next h ?_
    dsimp only
    repeat' first | rfl | split
  case copyCommandComplete => exact runEvent_next h rfl
  case xldsComplete => exact runEvent_next h rfl
  case xswpComplete => exact runEvent_next h rfl
  case rowInject => exact runEvent_next h rfl
  case passComplete => exact runEvent_next h rfl
  case xcfgComplete => exact runEvent_next h rfl
  case xrelComplete => exact runEvent_next h rfl
  case xdrnComplete => exact runEvent_next h rfl
  case xscacComplete => exact runEvent_next h rfl
  case ringPassage => exact runEvent_next h rfl
  case ringResultWrite => exact runEvent_next h rfl
  case alightWritePerformed => exact runEvent_next h rfl
  case chargedWaitDue => exact runEvent_next h rfl
  case lateWaitFreeze => exact runEvent_next h rfl
  case freezeResume => exact runEvent_next h rfl
  case quantumEnd => exact runEvent_next h rfl
  case switchComplete => exact runEvent_next h rfl
  case teamCarving => exact runEvent_next h rfl
  case teamRelease => exact runEvent_next h rfl
  case victimChoice => exact runEvent_next h rfl
  case drainComplete => exact runEvent_next h rfl
  case saveComplete => exact runEvent_next h rfl
  case parkWake => exact runEvent_next h rfl
  case groupEnd => exact runEvent_next h rfl
  case teamEnd => exact runEvent_next h rfl
  case gridEnd => exact runEvent_next h rfl
  case regroupComplete => exact runEvent_next h rfl
  case tlbWalkComplete => exact runEvent_next h rfl
  case tlbinvComplete => exact runEvent_next h rfl
  case faultService =>
    refine runEvent_next h ?_
    dsimp only
    repeat' first | rfl | split
  case logReplay => exact runEvent_next h rfl
  case pageMigration => exact runEvent_next h rfl
  case heatSweep => exact runEvent_next h rfl
  case loadBalance => exact runEvent_next h rfl
  case amsgAccept => exact runEvent_next h rfl
  case doorbellWrite => exact runEvent_next h rfl
  case doorcntWrite => exact runEvent_next h rfl
  case queueNop => exact runEvent_next h rfl
  case queueLaunch => exact runEvent_next h rfl
  case indirect => exact runEvent_next h rfl
  case signal => exact runEvent_next h rfl
  case wait => exact runEvent_next h rfl
  case waitReread => exact runEvent_next h rfl
  case launchDelivery => exact runEvent_next h rfl
  case completionWrite => exact runEvent_next h rfl
  case cqdoneReread => exact runEvent_next h rfl
  case admitSeat => exact runEvent_next h rfl
  case evict => exact runEvent_next h rfl
  case seatEviction => exact runEvent_next h rfl
  case lease => exact runEvent_next h rfl
  case qtable => exact runEvent_next h rfl
  case qreg => exact runEvent_next h rfl
  case runmode => exact runEvent_next h rfl
  case preempt => exact runEvent_next h rfl
  case preemptDelivery => exact runEvent_next h rfl
  case resume => exact runEvent_next h rfl
  case powercap => exact runEvent_next h rfl
  case status => exact runEvent_next h rfl
  case seatfloor => exact runEvent_next h rfl
  case pagedone => exact runEvent_next h rfl
  case unfence => exact runEvent_next h rfl
  case fenceLift => exact runEvent_next h rfl
  case linkopen => exact runEvent_next h rfl
  case undefinedCommand => exact runEvent_next h rfl
  case registerWrite => exact runEvent_next h rfl
  case powerEvaluation => exact runEvent_next h rfl
  case clockStepChange => exact runEvent_next h rfl
  case quantumCommit => exact runEvent_next h rfl
  case hostBarRequest => exact runEvent_next h rfl
  case atsInvalidationRequest => exact runEvent_next h rfl
  case atsCompletion => exact runEvent_next h rfl
  case priResponse => exact runEvent_next h rfl
  case linkRetrain => exact runEvent_next h rfl
  case spdmRequest => exact runEvent_next h rfl
  case mctpStatus => exact runEvent_next h rfl
  case colalmInboundRequest => exact runEvent_next h rfl
  case colalmTraining => exact runEvent_next h rfl
  case dramReadRetry => exact runEvent_next h rfl
  case meshFlitRetry => exact runEvent_next h rfl
  case illegalInstruction =>
    refine runEvent_next h ?_
    dsimp only
    repeat' first | rfl | split
  case configurationRequest => exact runEvent_next h rfl
theorem exec_row_live (e : Event) {s : State} (h : LiveIs false s) : OutLive false (exec e.row s) := by
  cases e
  case deferredTrap => exact execDeferredTrap_live h
  case resetRelease => exact execResetRelease_live h
  case frameBoundary => exact execFrameBoundary_live h
  case seating => exact execSeating_live h
  case leaseBegin => exact execLeaseBegin_live h
  case leaseEnd => exact execLeaseEnd_live h
  case positionStart => exact execPositionStart_live h
  case dramRefresh => exact execDramRefresh_live h
  case loadReply => exact execLoadReply_live h
  case storePerform => exact execStorePerform_live h
  case storeAcknowledge => exact execStoreAcknowledge_live h
  case lineRecall => exact execLineRecall_live h
  case atomicPerform => exact execAtomicPerform_live h
  case scratchpadRowServe => exact execScratchpadRowServe_live h
  case bufferPortCycle => exact execBufferPortCycle_live h
  case bankWakeEnd => exact execBankWakeEnd_live h
  case eacqGrant => exact execEacqGrant_live h
  case releaseApply => exact execReleaseApply_live h
  case waitResume => exact execWaitResume_live h
  case waitcResume => exact execWaitcResume_live h
  case copyCommandStart => exact execCopyCommandStart_live h
  case circSlotReady => exact execCircSlotReady_live h
  case copyPieceStart => exact execCopyPieceStart_live h
  case pieceLand => exact execPieceLand_live h
  case heldPieceRelease => exact execHeldPieceRelease_live h
  case copyCommandComplete => exact execCopyCommandComplete_live h
  case xldsComplete => exact execXldsComplete_live h
  case xswpComplete => exact execXswpComplete_live h
  case rowInject => exact execRowInject_live h
  case passComplete => exact execPassComplete_live h
  case xcfgComplete => exact execXcfgComplete_live h
  case xrelComplete => exact execXrelComplete_live h
  case xdrnComplete => exact execXdrnComplete_live h
  case xscacComplete => exact execXscacComplete_live h
  case ringPassage => exact execRingPassage_live h
  case ringResultWrite => exact execRingResultWrite_live h
  case alightWritePerformed => exact execAlightWritePerformed_live h
  case chargedWaitDue => exact execChargedWaitDue_live h
  case lateWaitFreeze => exact execLateWaitFreeze_live h
  case freezeResume => exact execFreezeResume_live h
  case quantumEnd => exact execQuantumEnd_live h
  case switchComplete => exact execSwitchComplete_live h
  case teamCarving => exact execTeamCarving_live h
  case teamRelease => exact execTeamRelease_live h
  case victimChoice => exact execVictimChoice_live h
  case drainComplete => exact execDrainComplete_live h
  case saveComplete => exact execSaveComplete_live h
  case parkWake => exact execParkWake_live h
  case groupEnd => exact execGroupEnd_live h
  case teamEnd => exact execTeamEnd_live h
  case gridEnd => exact execGridEnd_live h
  case regroupComplete => exact execRegroupComplete_live h
  case tlbWalkComplete => exact execTlbWalkComplete_live h
  case tlbinvComplete => exact execTlbinvComplete_live h
  case faultService => exact execFaultService_live h
  case logReplay => exact execLogReplay_live h
  case pageMigration => exact execPageMigration_live h
  case heatSweep => exact execHeatSweep_live h
  case loadBalance => exact execLoadBalance_live h
  case amsgAccept => exact execAmsgAccept_live h
  case doorbellWrite => exact execDoorbellWrite_live h
  case doorcntWrite => exact execDoorcntWrite_live h
  case queueNop => exact execQueueNop_live h
  case queueLaunch => exact execQueueLaunch_live h
  case indirect => exact execIndirect_live h
  case signal => exact execSignal_live h
  case wait => exact execWait_live h
  case waitReread => exact execWaitReread_live h
  case launchDelivery => exact execLaunchDelivery_live h
  case completionWrite => exact execCompletionWrite_live h
  case cqdoneReread => exact execCqdoneReread_live h
  case admitSeat => exact execAdmitSeat_live h
  case evict => exact execEvict_live h
  case seatEviction => exact execSeatEviction_live h
  case lease => exact execLease_live h
  case qtable => exact execQtable_live h
  case qreg => exact execQreg_live h
  case runmode => exact execRunmode_live h
  case preempt => exact execPreempt_live h
  case preemptDelivery => exact execPreemptDelivery_live h
  case resume => exact execResume_live h
  case powercap => exact execPowercap_live h
  case status => exact execStatus_live h
  case seatfloor => exact execSeatfloor_live h
  case pagedone => exact execPagedone_live h
  case unfence => exact execUnfence_live h
  case fenceLift => exact execFenceLift_live h
  case linkopen => exact execLinkopen_live h
  case undefinedCommand => exact execUndefinedCommand_live h
  case registerWrite => exact execRegisterWrite_live h
  case powerEvaluation => exact execPowerEvaluation_live h
  case clockStepChange => exact execClockStepChange_live h
  case quantumCommit => exact execQuantumCommit_live h
  case hostBarRequest => exact execHostBarRequest_live h
  case atsInvalidationRequest => exact execAtsInvalidationRequest_live h
  case atsCompletion => exact execAtsCompletion_live h
  case priResponse => exact execPriResponse_live h
  case linkRetrain => exact execLinkRetrain_live h
  case spdmRequest => exact execSpdmRequest_live h
  case mctpStatus => exact execMctpStatus_live h
  case colalmInboundRequest => exact execColalmInboundRequest_live h
  case colalmTraining => exact execColalmTraining_live h
  case dramReadRetry => exact execDramReadRetry_live h
  case meshFlitRetry => exact execMeshFlitRetry_live h
  case illegalInstruction => exact execIllegalInstruction_live h
  case configurationRequest => exact execConfigurationRequest_live h

/-! ### The unit that is picked -/

/-- A word runs to a next state with its split in focus, errors in what it reads or not. -/
theorem checked_live (w : W32) {i : Instr} (hi : isEvent i = false) {s : State} (h : LiveIs true s) : OutLive true (checked exec w i s) := by
  unfold checked
  split
  · exact exec_word_live _ hi (State.correct_live h _ _)
  · obtain ⟨r, e, _⟩ := outLive_true (exec_word_live _ hi h)
    rw [e]
    exact outLive_next (State.trapWord_live h _)
theorem runWords_next (us : List UWord) {s : State} (h : LiveIs true s) (bad : List TrapReq) (soft : Option TrapReq) :
    ∃ t, runWords exec us s bad soft = .next t := by
  induction us generalizing s bad soft with
  | nil =>
    cases bad with
    | nil =>
      cases soft with
      | none => exact ⟨_, rfl⟩
      | some t => exact ⟨_, rfl⟩
    | cons b bs => exact ⟨_, rfl⟩
  | cons u us ih =>
    unfold runWords
    split
    · exact ih h _ _
    · obtain ⟨r, e, hr⟩ := outLive_true (checked_live u.word (instrOf_isEvent ‹_›) (State.load_live h u))
      rw [e]
      dsimp only
      split
      · exact ih (State.overwrite_live hr _ _ _) _ _
      · split
        · exact ih h _ _
        · exact ih h _ _
theorem onNext_next {o : Out} {f : State → State} (h : ∃ t, o = .next t) : ∃ t, onNext o f = .next (f t) := by
  obtain ⟨t, rfl⟩ := h
  exact ⟨t, rfl⟩
theorem runUnit_next {f : State} (h : LiveIs true f) (us : List UWord) : ∃ t, runUnit exec f us = .next t := by
  unfold runUnit
  extract_lets is keep
  split
  · split
    · obtain ⟨r, e, _⟩ := outLive_true (checked_live _ (instrOf_isEvent ‹_›) (State.load_live (State.advance_live h) _))
      rw [e]
      exact ⟨_, rfl⟩
    · exact ⟨_, rfl⟩
  · obtain ⟨r, e⟩ := runWords_next us (s := { f.advance with cur := { f.advance.cur with src := some f.cur.group } }) (State.advance_live h) [] none
    rw [e]
    exact ⟨_, rfl⟩
theorem State.endTurn_live (s : State) (c : Cand) (us : List UWord) : LiveIs false (s.endTurn c us) := by
  have h := State.unfocus_live s
  unfold State.endTurn
  dsimp only
  with_reducible refine State.mapSeat_live ?_ _ _
  with_reducible refine live_mk ?_
  exact h
theorem State.chargeFetch_live (s : State) (c : Cand) : LiveIs false (s.chargeFetch c) := State.unfocus_live _
theorem State.chargeAway_live (s : State) (c : Cand) : LiveIs false (s.chargeAway c) := State.unfocus_live _
theorem act_next {f : State} (h : LiveIs true f) (c : Cand) (a : Act) : ∃ t, act exec c f a = .next t ∧ LiveIs false t := by
  cases a
  case none => exact ⟨_, rfl, State.unfocus_live _⟩
  case wake vb sb => exact ⟨_, rfl, State.unfocus_live _⟩
  case miss => exact ⟨_, rfl, State.chargeFetch_live _ _⟩
  case away => exact ⟨_, rfl, State.chargeAway_live _ _⟩
  case refused => exact ⟨_, rfl, State.endTurn_live _ _ _⟩
  case deferred =>
    obtain ⟨t, e⟩ := onNext_next (f := fun (r : State) => ({ r with ev := none } : State).endTurn c [])
      (exec_row_next (.deferredTrap c.team.id c.group.gid) (s := { f with ev := some (.deferredTrap c.team.id c.group.gid) }) rfl)
    exact ⟨_, e, State.endTurn_live _ _ _⟩
  case illegal k w n =>
    have key : ∀ g : State, ∃ t, onNext (exec .illegalInstruction { g with ev := some (.illegalInstruction k w n) })
        (fun r => ({ r with ev := none } : State).endTurn c []) = .next t ∧ LiveIs false t := fun g => by
      obtain ⟨t, e⟩ := onNext_next (f := fun (r : State) => ({ r with ev := none } : State).endTurn c [])
        (exec_row_next (.illegalInstruction k w n) (s := { g with ev := some (.illegalInstruction k w n) }) rfl)
      exact ⟨_, e, State.endTurn_live _ _ _⟩
    exact key _
  case run us =>
    obtain ⟨t, e⟩ := onNext_next (f := fun (r : State) => r.endTurn c us) (runUnit_next h us)
    exact ⟨_, e, State.endTurn_live _ _ _⟩
theorem State.focusOn_live (s : State) (c : Cand) (lit : W32) (k : Nat) : LiveIs true (s.focusOn c lit k) := rfl
theorem State.consider_live (s : State) (c : Cand) : LiveIs true (s.consider c).1 := by
  have hk := fun (a : W32) (b : Nat) => State.keepCode_live (State.focusOn_live s c a b) c.split.pkt.toNat
  unfold State.consider
  dsimp only
  split
  · exact State.focusOn_live ..
  · exact State.focusOn_live ..
  · exact State.focusOn_live ..
  · split
    · exact hk _ _
    · split
      · exact hk _ _
      · split
        · generalize unitReadiness _ _ = rr
          split <;> exact hk _ _
        · generalize unitReadiness _ _ = rr
          split <;> exact hk _ _
theorem State.firstAct_live {s : State} {l : List Cand} {c : Cand} {f : State} {a : Act} (e : s.firstAct l = some (c, f, a)) : LiveIs true f := by
  induction l with
  | nil => cases e
  | cons d ds ih =>
    have hd := State.consider_live s d
    unfold State.firstAct at e
    split at e
    · exact ih e
    · rename_i e2
      cases e
      rw [e2] at hd
      exact hd
theorem State.pick_live {s : State} {c : Cand} {f : State} {a : Act} (e : s.pick = some (c, f, a)) : LiveIs true f := by
  have hs : ∀ {core seat : Nat} {c : Cand} {f : State} {a : Act}, s.seatAct core seat = some (c, f, a) → LiveIs true f := by
    intro core seat c f a e
    unfold State.seatAct at e
    split at e
    · cases e
    · split at e
      · exact State.firstAct_live e
      · cases e
  unfold State.pick at e
  obtain ⟨core, _, e⟩ := List.exists_of_findSome?_eq_some e
  unfold State.coreAct at e
  split at e
  · rename_i q
    cases e
    obtain ⟨n, _, q⟩ := Option.bind_eq_some_iff.1 q
    exact hs q
  · split at e
    · cases e
    · exact hs e

end Sys2Proof.Machine
end

