-- ==== Sys2Proof/Tests/Slice0.lean ====
section
/-!
SUPPORT. Small tests: an ill-formed term for each check of well-formedness, words written out from the encodings of spec/ and
what they decode to, one-step results worked out in spec/ or by hand from its rules, and a witness for the hypotheses of every
statement.
-/

namespace Sys2Proof.Tests

-- One test after another: their evaluations in parallel take more memory than the check allows.
set_option Elab.async false

open Sys2Proof Sys2Proof.Machine

/-! ### Ill-formed terms (R59, R185, R209, R242) -/

/-- c7 is no destination (R59). -/
theorem test_illformed_c7 :
    [.scmpEq 7 0 0, .scmpNe 7 0 0, .scmpLtS 7 0 0, .scmpLeS 7 0 0, .scmpLtZ 7 0 0, .scmpLeZ 7 0 0, .vcmp 7 0 (.imm 0) .eq, .vregrp 0 0 7 0,
      .vfcmp 7 0 (.imm 0) .eq, .vdcmp 7 0 (.imm 0) .eq, .eacqTry 7, .launchTry 0 7].map Instr.wellFormed = List.replicate 12 false := by decide
/-- Pairs are even (R185). -/
theorem test_illformed_pairs :
    [.sext 1 3 .x64 0, .sextFirst 1 3 .x64, .sextLast 1 3 .x64, .vins 3 1 .x64 0, .vinsAll 3 1 .x64, .vmovX64 3 2, .vmovX64 2 3,
      .vdadd 1 2 (.imm 0), .vdsub 2 1 (.imm 0), .vdmul 2 2 (.vreg 1), .vdfma 1 2 (.imm 0), .vddiv 2 2 (.vreg 3) .rne, .vdcmp 1 1 (.imm 0) .eq,
      .vdsqrt 1 2, .vcvt 2 1 .f64 .f32 .rne, .vcvt 1 2 .f32 .f64 .rne].map Instr.wellFormed = List.replicate 16 false := by decide
/-- Ranges of registers stay inside the file, and blocks of scalars end at s63 (R185). -/
theorem test_illformed_ranges :
    [.vregrp 120 8 1 0, .vpack 0 125 .n8, .vunpkZ 121 0 .n4, .vunpkS 127 0 .n16, .sgBoard 60 1, .sgCap 60 1 false, .sgArm 63 1 .eq 0, .cpG2s 61 0,
      .cpS2g 61 0, .cpG2a 61 0, .cpG2w 61 0, .cpX2g 61 0, .cpG2g 61 0, .cpCirc 61 0, .gth 61 0, .launch 61, .launchTry 61 1,
      .amsg 61].map Instr.wellFormed = List.replicate 18 false := by decide
theorem test_illformed_accesses :
    [.vldZ 3 0 0 .x64 .normal, .vldS 3 0 0 .x64 .normal, .vst 3 0 0 .x64 .normal, .vlds 3 0 0 .x64, .vsts 3 0 0 .x64, .vlda 3 0 0 .x64, .vsta 3 0 0 .x64,
      .vldx 3 0 0 true, .vatom 2 3 .add32 .dev .rlx, .vatom 3 2 .add64 .dev .rlx, .vatom 127 2 .cas32 .dev .rlx, .vmred 3 2 .add64 .dev .rlx,
      .vatoms 3 0 .cas64 .team .rlx, .vatoms 126 0 .cas64 .team .rlx].map Instr.wellFormed = List.replicate 14 false := by decide
/-- vbrk's count is 1 to 254; a vcvt converts between different types, at most one of them an integer type (R209, R242). -/
theorem test_illformed_fields :
    [.vbrk 1 0, .vbrk 1 255, .vcvt 0 0 .f32 .f32 .rne, .vcvt 0 0 .s32 .z8 .rne].map Instr.wellFormed = List.replicate 4 false := by decide

/-! ### Words written out from the encodings of spec/ -/


/-! ### Words written out from the encodings of spec/ -/

/-- Nop, scalar arithmetic, literals and compares (R179, R190-R196). -/
theorem test_words_plain :
    decodeWord 0x00000000 = .ok ⟨false, .nop⟩
    ∧ decodeWord 0x02281080 = .ok ⟨false, .saddi 10 1 128⟩
    ∧ decodeWord 0x08240000 = .ok ⟨false, .slitwZ 9⟩
    ∧ decodeWord 0x08240003 = .ok ⟨false, .slitwHi 9⟩ := by decide
/-- Special registers (R199). -/
theorem test_words_sregs :
    decodeWord 0x09300040 = .ok ⟨false, .sgetsr 12 1⟩ := by decide
/-- Vector integer words; the first is the example of R181, with its chain bit (R181, R212, R218, R222, R226). -/
theorem test_words_vector :
    decodeWord 0x9206070C = .ok ⟨true, .vmul 3 1 (.imm 3)⟩
    ∧ decodeWord 0x10060F80 = .ok ⟨false, .vadd 3 3 .lit⟩
    ∧ decodeWord 0x160A0711 = .ok ⟨false, .vshrZ 5 1 (.imm 4)⟩
    ∧ decodeWord 0x1D20B218 = .ok ⟨false, .vcmp 1 2 (.imm 8) .ltZ⟩
    ∧ decodeWord 0x35060001 = .ok ⟨false, .vmrank 3 1⟩
    ∧ decodeWord 0x34080001 = .ok ⟨false, .vballot 4 1⟩ := by decide
/-- Control transfer, masks and regroup (R203, R209, R211, R230). -/
theorem test_words_control :
    decodeWord 0x4007FFFE = .ok ⟨false, .br 0x7FFFE⟩
    ∧ decodeWord 0x40F80002 = .ok ⟨false, .brNone 7 2⟩
    ∧ decodeWord 0x44E00000 = .ok ⟨false, .vif 7⟩
    ∧ decodeWord 0x48202000 = .ok ⟨false, .vbrk 1 1⟩
    ∧ decodeWord 0x46000000 = .ok ⟨false, .vend⟩
    ∧ decodeWord 0x49000000 = .ok ⟨false, .exit⟩
    ∧ decodeWord 0x4A000007 = .ok ⟨false, .trap 7⟩
    ∧ decodeWord 0x39202801 = .ok ⟨false, .vregrp 16 1 2 1⟩ := by decide
/-- Float and conversion (R234, R242). -/
theorem test_words_float :
    decodeWord 0x2308040A = .ok ⟨false, .vfma 4 1 (.vreg 2) .ru⟩
    ∧ decodeWord 0x200A177E = .ok ⟨false, .vfadd 5 5 (.imm 31) .ru⟩
    ∧ decodeWord 0x23101E0C = .ok ⟨false, .vfma 8 7 (.sreg 3) .rne⟩
    ∧ decodeWord 0x300C0450 = .ok ⟨false, .vcvt 6 1 .f32 .f8m .rne⟩ := by decide
/-- Accesses, atomics, barriers and banks (R247, R252, R256, R259). -/
theorem test_words_access :
    decodeWord 0x500E4868 = .ok ⟨false, .vldZ 7 9 6 .x32 .normal⟩
    ∧ decodeWord 0x520C0848 = .ok ⟨false, .vst 6 1 4 .x32 .normal⟩
    ∧ decodeWord 0x580A0038 = .ok ⟨false, .vsts 5 0 3 .x32⟩
    ∧ decodeWord 0x631C3650 = .ok ⟨false, .vatoms 14 13 .cas32 .team .rlx⟩
    ∧ decodeWord 0x65300520 = .ok ⟨false, .barArrive 12 .team true⟩
    ∧ decodeWord 0x655C0540 = .ok ⟨false, .barWait 23 0 .team true⟩
    ∧ decodeWord 0x67FF0001 = .ok ⟨false, .vbank 0xff00 .retain⟩ := by decide
/-- Copies, gathers and circular buffers (R265, R271, R274). -/
theorem test_words_copy :
    decodeWord 0x70500000 = .ok ⟨false, .cpG2s 20 0⟩
    ∧ decodeWord 0x70600400 = .ok ⟨false, .cpS2g 24 0⟩
    ∧ decodeWord 0x71600000 = .ok ⟨false, .gth 24 0⟩
    ∧ decodeWord 0x7350A000 = .ok ⟨false, .cbWait 20 10⟩
    ∧ decodeWord 0x7300A001 = .ok ⟨false, .cbFree 10⟩ := by decide
/-- Matrix words (R298, R299, R300, R302, R305). -/
theorem test_words_matrix :
    decodeWord 0x78140400 = .ok ⟨false, .xcfg 10 .s32 false⟩
    ∧ decodeWord 0x79161C00 = .ok ⟨false, .xlds 11 0 .s8⟩
    ∧ decodeWord 0x7A000000 = .ok ⟨false, .xswp 0⟩
    ∧ decodeWord 0x7B181C00 = .ok ⟨false, .xmm 12 0 .s8 false false⟩
    ∧ decodeWord 0x7E1A0000 = .ok ⟨false, .xdrn 13⟩ := by decide
/-- Ring words (R319-R322). -/
theorem test_words_ring :
    decodeWord 0x3A615000 = .ok ⟨false, .sgBoard 24 21⟩
    ∧ decodeWord 0x3D515010 = .ok ⟨false, .sgMod 20 21 .add32 0 .rel⟩
    ∧ decodeWord 0x3B795000 = .ok ⟨false, .sgAlight 30 21⟩
    ∧ decodeWord 0x3E595000 = .ok ⟨false, .sgArm 22 21 .geZ 0⟩ := by decide
/-- Supervisor words (R343, R344). -/
theorem test_words_super :
    decodeWord 0x7F244041 = .ok ⟨false, .mfsys 9 0x101⟩
    ∧ decodeWord 0x7F000000 = .ok ⟨false, .eret⟩ := by decide
/-- Reserved words and fields: the packet variants of R186, a br with a condition (R203), a reserved major (R184), c7 as a destination (R59). -/
theorem test_illegal_words :
    decodeWord 0x10060F83 = .error 2 ∧ decodeWord 0x920607C0 = .error 5 ∧ decodeWord 0x40200002 = .error 3 ∧ decodeWord 0x0E000000 = .error 1
    ∧ decodeWord 0x0B1C0000 = .error 4 ∧ decodeWord 0x00000001 = .error 3 := by decide

/-! ### One instruction, with results that spec/ works out -/

/-- A state with a split of all lanes in focus, at packet 0x1000 of a team with room in every local memory. -/
def base : State :=
  { State.reset with
    seats := [fetchSeat 0], nextOp := 1, nextId := 2
    cur := {
      live := true, team := { id := 1, state := .resident, everResident := true, nscratch := 8, nabuf := 4, nwbuf := 4, nxbuf := 4 }
      group := freshGroup 0 0 64 0x1000 [], split := 0, pkt := 0x1000, nextPkt := 0x1000, nextSlot := 1 } }
/-- The same with other registers, literal, group or team. -/
def withRegs (r : Regs) : State := { base with cur := { base.cur with group := { base.cur.group with regs := r } } }
def withLit (l : W32) (r : Regs := {}) : State := { withRegs r with cur := { (withRegs r).cur with lit := l } }
def withG (f : Group → Group) : State := base.onGroup f
def withT (f : Team → Team) : State := base.onTeam f
/-- An event in hand, in the state after reset or another. -/
def withEv (e : Event) (s : State := State.reset) : State := { s with ev := some e }
/-- v1 with the lowest lanes as listed, and s1 and s2. -/
def vec (n : Nat) (l : List W32) (r : Regs := {}) : Regs := l.zipIdx.foldl (fun r q => r.setVs n [q.2] fun _ => q.1) r
def scal (l : List (Nat × W64)) (r : Regs := {}) : Regs := l.foldl (fun r q => r.setS q.1 q.2) r
/-- What an outcome leaves in the registers of the group in focus. -/
def sAfter (o : Host.Outcome State Fault Refusal) (n : Nat) : Option W64 := match o with | .next t => some (t.cur.group.regs.getS n) | _ => none
def vAfter (o : Host.Outcome State Fault Refusal) (n L : Nat) : Option W32 := match o with | .next t => some (t.cur.group.regs.getV n L) | _ => none
def trapAfter (o : Host.Outcome State Fault Refusal) : Option TrapKind := match o with | .next t => t.cur.trap.map (·.kind) | _ => none

/-- −1 shifted right by 68 mod 64 = 4 places, with and without sign (R190). -/
theorem test_sshr : sAfter (exec (.sshrS 3 1 2) (withRegs (scal [(1, 0xF000000000000000), (2, 68)]))) 3 = some 0xFF00000000000000
    ∧ sAfter (exec (.sshrZ 3 1 2) (withRegs (scal [(1, 0xF000000000000000), (2, 68)]))) 3 = some 0x0F00000000000000 := by decide
/-- The high half of −1 × 3 (R190). -/
theorem test_smulh : sAfter (exec (.smulhS 3 1 2) (withRegs (scal [(1, -1), (2, 3)]))) 3 = some (-1)
    ∧ sAfter (exec (.smulhZ 3 1 2) (withRegs (scal [(1, -1), (2, 3)]))) 3 = some 2 := by decide
/-- A sum that wraps (R190); s0 discards it (R59). -/
theorem test_sadd_wraps : sAfter (exec (.sadd 1 1 2) (withRegs (scal [(1, -1), (2, 3)]))) 1 = some 2
    ∧ sAfter (exec (.sadd 0 1 2) (withRegs (scal [(1, -1), (2, 3)]))) 0 = some 0 := by decide
/-- The constant of R195: slitw.z and slitw.hi build 0x0123456789ABCDEF. -/
theorem test_slitw : sAfter (exec (.slitwHi 9) (withLit 0x01234567 (scal [(9, 0x89ABCDEF)]))) 9 = some 0x0123456789ABCDEF := by decide
/-- vmulh of 0xFFFFFFFF by 3 (R215). -/
theorem test_vmulh : vAfter (exec (.vmulhS 3 1 (.imm 3)) (withRegs (vec 1 [0xFFFFFFFF]))) 3 0 = some 0xFFFFFFFF
    ∧ vAfter (exec (.vmulhZ 3 1 (.imm 3)) (withRegs (vec 1 [0xFFFFFFFF]))) 3 0 = some 2 := by decide
/-- vbfx.s v4, v1, 0x40C of 0x0000A000 (R221). -/
theorem test_vbfx : vAfter (exec (.vbfxS 4 1 .lit) (withLit 0x40C (vec 1 [0xA000]))) 4 0 = some 0xFFFFFFFA := by decide
/-- The scans of 3, 1, 4, 1 with lane 2 at nest 1 (R229). -/
theorem test_vscan :
    let r := (vec 1 [3, 1, 4, 1] (vec 2 [9, 9, 9, 9])).setN 2 1
    (List.range 4).map (vAfter (exec (.vscan 2 1 false .add) (withRegs r)) 2) = [some 3, some 4, some 9, some 5]
    ∧ (List.range 4).map (vAfter (exec (.vscan 2 1 true .add) (withRegs r)) 2) = [some 0, some 3, some 9, some 4] := by decide
/-- 1.0 + 2.0 (R234); NaN from ∞ − ∞ (R116). -/
theorem test_vfadd : vAfter (exec (.vfadd 3 1 (.vreg 2) .rne) (withRegs (vec 1 [0x3F800000, 0x7F800000] (vec 2 [0x40000000, 0xFF800000])))) 3 0 = some 0x40400000
    ∧ vAfter (exec (.vfadd 3 1 (.vreg 2) .rne) (withRegs (vec 1 [0x3F800000, 0x7F800000] (vec 2 [0x40000000, 0xFF800000])))) 3 1 = some 0x7FC00000 := by decide
/-- −0.3 to S8 under .rd is −1, written sign-extended (R241). -/
theorem test_vcvt_s8 : vAfter (exec (.vcvt 6 1 .f32 .s8 .rd) (withRegs (vec 1 [0xBE99999A]))) 6 0 = some 0xFFFFFFFF := by decide +kernel
/-- 300.0 quantised to dyad8 with k = 8 is code 0x03 (R243). -/
theorem test_vquant : vAfter (exec (.vquantD8 6 1 (.imm 8)) (withRegs (vec 1 [0x43960000]))) 6 0 = some 0x03 := by decide +kernel
/-- An untaken br.any has no effect, a taken one goes on at P + 16 × offset (R203). -/
theorem test_br : (match exec (.brAny 7 0x7FFFE) base with | .next t => t.cur.group.splits.map (·.pkt) | _ => []) = [0xFE0]
    ∧ (match exec (.brAny 1 2) base with | .next t => t.cur.group.splits.map (·.pkt) | _ => []) = [0x1000] := by decide
/-- jmp to t[1:0] = 3 is misaligned (R206); vif at 254 overflows (R49); trap and brk (R211). -/
theorem test_traps : trapAfter (exec (.jmp 0 1) (withRegs (scal [(1, 3)]))) = some .misaligned
    ∧ trapAfter (exec (.vif 7) (withRegs (({} : Regs).setN 4 254))) = some .nestOverflow
    ∧ trapAfter (exec (.trap 7) base) = some .softwareTrap ∧ trapAfter (exec (.brk 0) base) = some .breakpoint
    ∧ trapAfter (exec (.sld 1 1 4) base) = some .misaligned ∧ trapAfter (exec .eret base) = some .illegalInstruction
    ∧ trapAfter (exec (.sgAlight 1 1) (withRegs (scal [(1, 576)]))) = some .accessFault := by decide
/-- vif, velse, vend in a lane whose condition is false (R49). -/
theorem test_masks :
    let r := fun (i : Instr) (n : Byte) => match exec i (withRegs (({} : Regs).setN 3 n)) with | .next t => some (t.cur.group.regs.getN 3) | _ => none
    r (.vif 1) 0 = some 1 ∧ r (.vif 1) 1 = some 2 ∧ r .velse 1 = some 0 ∧ r .velse 0 = some 1 ∧ r .velse 2 = some 2 ∧ r .vend 1 = some 0 ∧ r .exit 0 = some 255 := by decide

/-! ### One step of a packet: the variants of R186 -/

/-- A packet where the next step fetches, with a handler for its traps. -/
def packet (w0 w1 w2 w3 : Nat) : State :=
  let s := State.reset.withFetchWord 32 0
  let m := [(0, w0), (4, w1), (8, w2), (12, w3)].foldl (fun m q => Memory.write m (fetchPacket + q.1) 4 q.2) s.mem
  { s with mem := m, teams := s.teams.map fun t => { t with code := { at_ := { dev := m } }, region := { handler := some 0x200100 } } }
/-- The group after a step. -/
def groupAfter (s : State) : Option Group := match step s with | .next t => t.teams.head?.bind fun u => u.groups.head? | _ => none
/-- The group after a step of this packet at its slot 2. -/
def atSlot2 (s : State) : State := { s with teams := s.teams.map fun t => { t with groups := t.groups.map fun g => { g with splits := g.splits.map fun p => { p with slot := 2 } } } }
/-- What a step of a packet traps with: the kind, the cause, the slot of %tpc and %tword. -/
def trapOfStep (s : State) : Option (Nat × Nat × Nat × W64) :=
  (groupAfter s).map fun g => (g.trap.tkind.toNat % 256, g.trap.tkind.toNat / 256 % 16, g.trap.tpc.toNat % 16, g.trap.tword)

/-- The unit of vmul and saddi is one step: s10 = s1 + 128 and the split stands at slot 2 (R180, R186). -/
theorem test_unit : (groupAfter (packet 0x9206070C 0x02281080 0x10060F80 1000)).map (fun g => (g.regs.getS 10, g.splits.map fun p => (p.pkt, p.slot)))
    = some (128, [(0x200000, 2)]) := by decide +kernel
/-- W2 with a reserved variant: cause 2 at slot 2. -/
theorem test_illegal_cause2 : trapOfStep (atSlot2 (packet 0x9206070C 0x02281080 0x10060F83 1000)) = some (1, 2, 2, 0x10060F83) := by decide +kernel
/-- W2 with its chain bit: cause 7 at slot 2. -/
theorem test_illegal_cause7 : trapOfStep (atSlot2 (packet 0x9206070C 0x02281080 0x90060F80 1000)) = some (1, 7, 2, 0x90060F80) := by decide +kernel
/-- Three vector words in one unit: cause 7 at slot 2. -/
theorem test_illegal_three : trapOfStep (packet 0x9206070C 0x90060F80 0x10060F80 1000) = some (1, 7, 2, 0x10060F80) := by decide +kernel
/-- A reserved b-selector: cause 5 at slot 0, and the chained saddi has no effect. -/
theorem test_illegal_cause5 : trapOfStep (packet 0x920607C0 0x02281080 0x10060F80 1000) = some (1, 5, 0, 0x920607C0)
    ∧ (groupAfter (packet 0x920607C0 0x02281080 0x10060F80 1000)).map (fun g => g.regs.getS 10) = some 0 := by decide +kernel
/-- W3 non-zero with no word naming it: cause 8 at slot 0 with W3. -/
theorem test_illegal_cause8 : trapOfStep (packet 0x3E000000 0x02281080 0 1000) = some (1, 8, 0, 1000) := by decide +kernel
/-- vmul chained to a vadd that names the literal is legal (R180). -/
theorem test_two_vectors : (groupAfter (packet 0x9206070C 0x10060F80 0 1000)).map (fun g => (g.level, g.splits.map fun p => (p.pkt, p.slot)))
    = some (.user, [(0x200000, 2)]) := by decide +kernel

/-! ### The hypotheses of the statements are met -/

/-- The word checks of each word pass. -/
def quiet (l : List Instr) (s : State) : Bool := s.cur.live && l.all fun i => (regTraps i s).isEmpty
/-- Each word answers a next state. -/
def goes (l : List Instr) (s : State) : Bool := l.all fun i => match exec i s with | .next _ => true | _ => false
/-- A supervisor split; a split without lanes; a portable team; four splits. -/
def sup : State := withG fun g => { g with level := .supervisor }
def still : State := withG fun g => { g with splits := g.splits.map fun p => { p with lanes := 0 } }
def portable : State := withT fun t => { t with mode := { port := true } }
def crowd : State := withG fun g => { g with splits := (List.range 4).map fun k => { idx := k, lanes := 0xFF#32 <<< (8 * k), pkt := 0x1000, slot := 0 } }

/-- A team of seat 0 on core 0 with one group, resident. -/
def team1 : Team := { (fetchTeam 1 0 0 []) with nscratch := 8, nabuf := 4, nwbuf := 4, nxbuf := 4 }
/-- An operation of that group with one lane at 0x1000, and a request at slice 0 of die 0. -/
def opAt (id : Nat) (k : OpKind) : Op := { blankOp k with id := id, team := 1, active := 1, addr := [(0, 0x1000)] }
def reqAt (id owner : Nat) (k : ReqKind) : Req :=
  { id := id, owner := owner, seat := 0, core := 0, kind := k, place := .dev 0x1000, va := 0x1000, lanes := 1, sent := true, hops := [(.slice 0 0, 0)] }
def working (ops : List Op) (reqs : List Req := []) : State := { State.reset with seats := [fetchSeat 0], teams := [team1], ops := ops, reqs := reqs, nextOp := 100, nextId := 100 }
def cmd : Copy := { kind := 0, queue := 0, src := 0x1000, dst := 0x2000, rows := 1, rowSz := 4, sstride := 0, dstride := 0, bar := some 16 }

theorem witness_ScalarAluResults : base.cur.live = true := rfl
theorem witness_ScalarAluNeverTraps : base.cur.live = true ∧ goes [.sadd 0 1 2, .sshl 63 63 63] base = true := by decide
theorem witness_ScalarImmediateWords : base.cur.live = true ∧ decodeWord 0x06000100 = .error 3 ∧ decodeWord 0x06000F80 = .error 3
    ∧ decodeWord 0x060000C0 = .error 2 := by decide
/-- cd of 6, 7 and 8 with fn 5; fn 6 with cd 7 (R59, R187). -/
theorem witness_ScalarCompareResults : base.cur.live = true ∧ decodeWord 0x0B180005 = .ok ⟨false, .scmpLeZ 6 0 0⟩ ∧ decodeWord 0x0B1C0005 = .error 4
    ∧ decodeWord 0x0B200005 = .error 3 ∧ decodeWord 0x0B1C0006 = .error 2 := by decide
theorem witness_LiteralAndLaneMoves :
    (withLit 0xFFFFFFFF).cur.live = true ∧ quiet [.sext 1 2 .x64 31, .sextFirst 1 2 .z32, .sextLast 1 2 .s32, .vins 2 1 .lo 0, .vins 2 1 .hi 31, .vins 2 1 .x64 0, .vinsAll 2 1 .lo, .vinsAll 2 1 .hi,
      .vinsAll 2 1 .x64] base = true ∧ quiet [.sextFirst 1 2 .z32, .sextLast 1 2 .s32, .vins 2 1 .lo 0] still = true
    ∧ still.active = [] ∧ base.active = 0 :: (List.range 31).map (· + 1) ∧ base.active = List.range 31 ++ [31]
    ∧ (base.acting (.vins 2 1 .lo 0)).isActive 0 = true ∧ (still.acting (.vins 2 1 .lo 0)).isActive 0 = false := by decide
theorem witness_ScalarWordsFrame :
    let l : List Instr := [.sadd 0 1 2, .saddi 1 1 5, .sshli 63 1 63, .slit 1 5, .slitwHi 1, .scmpEq 6 1 2, .sext 1 2 .z32 0, .sextFirst 1 2 .z32, .vfold 1 2 .addZ]
    quiet l base = true ∧ goes l base = true := by decide
theorem witness_RegisterWritesReadBack : RegsWf {} ∧ RegsWf (((({} : Regs).setS 63 5).setC 6 1).setN 31 255) ∧ (∀ L ∈ [0, 31], L < 32) := by unfold RegsWf; decide
theorem witness_VectorArithmeticResults :
    quiet [.vadd 3 1 (.imm 3), .vaddSatS 3 1 .lit, .vaddSatZ 3 1 .lit, .vsub 3 3 (.vreg 3), .vsubSatS 3 1 .lit, .vsubSatZ 3 1 .lit, .vmul 63 0 (.sreg 1), .vmulhS 3 1 .lit,
      .vmulhZ 3 1 .lit, .vminS 3 1 .lit, .vminZ 3 1 .lit, .vmaxS 3 1 .lit, .vmaxZ 3 1 .lit, .vaddi 3 1 5] base = true := by decide
theorem witness_VectorLogicAndShiftResults :
    quiet [.vand 3 1 .lit, .vor 3 1 .lit, .vxor 3 1 .lit, .vandn 3 1 .lit, .vshl 3 1 .lit, .vshrZ 3 1 .lit, .vshrS 3 1 .lit, .vrot 3 1 .lit, .vlut3 3 1 (.vreg 63)] base = true := by decide
theorem witness_VectorBitFieldResults :
    quiet [.vpopc 3 1, .vclz 3 1, .vctz 3 1, .vbrev 3 1, .vbfxZ 3 1 .lit, .vbfxS 3 1 .lit, .vbfi 3 1 .lit] base = true := by decide
theorem witness_VectorCompareSelectMoveResults :
    quiet [.vcmp 6 1 .lit .tst, .vsel 3 1 2 7, .vmov 3 1, .vmovX64 4 2, .vlit 3 5, .vlaneid 63] base = true ∧ base.isActive 31 = true ∧ still.isActive 31 = false := by decide
theorem witness_LaneWordResults :
    quiet [.vballot 3 7, .vmrank 3 7, .vmrankInc 3 7, .vshflIdx 3 1 .lit, .vshflUp 3 1 .lit, .vshflDown 3 1 .lit, .vshflXor 3 1 .lit] base = true := by decide
theorem witness_FoldAndScanResults : quiet [.vfold 1 2 .minS, .vscan 3 1 true .add, .vscan 3 1 false .xor] base = true ∧ ([5] : List W32) ≠ [] := by decide
/-- Banks that are on, and a destination in an Off bank. -/
theorem witness_VectorWordsFrame :
    let off := withG fun g => { g with banks := SMap.set .absent g.banks 7 .off }
    (∀ s ∈ [base, off], quiet [.vadd 63 1 .lit, .vfma 3 1 (.vreg 2) .ru, .vscan 3 1 true .add] s = true ∧ goes [.vadd 63 1 .lit, .vfma 3 1 (.vreg 2) .ru, .vscan 3 1 true .add] s = true)
    ∧ off.cur.group.bank 7 = .off ∧ off.cur.group.waking 7 = none := by decide
/-- An absent bank, a mark in a lane that is taken, an Off bank that is read. -/
theorem witness_RegisterChecksOfEveryWord :
    regTraps (.vadd 64 1 .lit) base = [illegal 10]
    ∧ (regTraps (.vmov 3 1) (withG fun g => { g with poison := SMap.set 0 [] 1 8 })).map (fun t => (t.kind, t.lane)) = [(.registerUncorrectable, 3)]
    ∧ (regTraps (.vmov 3 1) (withG fun g => { g with parity := SMap.set 0 [] 1 8 })).map (fun t => (t.kind, t.lane)) = [(.registerParity, 3)]
    ∧ regTraps (.vmov 9 1) (withG fun g => { g with banks := SMap.set .absent g.banks 0 .off }) = [trapOf .deadRead]
    ∧ regTraps (.vmov 1 9) (withG fun g => { g with banks := SMap.set .absent g.banks 0 .off }) = [] ∧ base.cur.live = true := by decide
theorem witness_FloatThirtyTwoResults :
    quiet [.vfadd 3 1 .lit .rne, .vfsub 3 1 .lit .rz, .vfmul 3 1 .lit .ru, .vfma 3 1 .lit .rd, .vfnma 3 1 .lit .rne, .vfdiv 3 1 .lit .rne, .vfmin 3 1 .lit, .vfmax 3 1 .lit, .vfminn 3 1 .lit,
      .vfmaxn 3 1 .lit, .vfsqrt 3 1, .vfrcp 3 1, .vfrsq 3 1, .vfex2 3 1, .vflg2 3 1, .vfabs 3 1, .vfneg 3 1, .vfcpsgn 3 1 .lit, .vfcmp 6 1 .lit .uno] base = true := by decide
theorem witness_FloatSpecialCases : (Val.isNaN .nan) = true ∧ (val32 0x7FC00000).isNaN = true ∧ (val32 0x7F800001).isNaN = true ∧ (val32 0x7F800000).isNaN = false
    ∧ rnd32 .rne (val32 0x7F800001) = 0x7FC00000 ∧ rnd32 .rz (val32 0x80000001) = 0x80000001 := by decide +kernel
theorem witness_FloatSixtyFourAndPackedResults :
    quiet [.vdadd 4 2 (.vreg 6), .vdsub 4 2 .lit, .vdmul 4 2 .lit, .vdfma 62 60 .lit, .vddiv 4 2 .lit .ru, .vdsqrt 4 2, .vdcmp 6 2 .lit .le, .vhadd 3 1 .lit true, .vhmul 3 1 .lit false,
      .vhfma 3 1 .lit true] base = true := by decide
theorem witness_ConversionAndPackingResults :
    quiet [.vcvt 4 1 .f32 .f64 .rne, .vcvt 3 2 .f64 .s32 .rd, .vquantD8 3 1 .lit, .vquantD6 3 1 .lit, .vquantM4 3 1 .lit, .vquantS8 3 1 .lit, .vpack 3 56 .n4, .vunpkZ 56 1 .n4, .vunpkS 4 1 .n16]
      base = true := by decide
/-- Targets on either side of the canonical range; conditions set in all, some and no lane. -/
theorem witness_BranchResults :
    let at_ := fun p : W64 => { base with cur := { base.cur with pkt := p } }
    canonical (((at_ 0x00FFFFFFFFFFFFF0).cur.pkt.toNat : Int) + 16 * (0 : BitVec 19).toInt) = true
    ∧ canonical (((at_ 0x00FFFFFFFFFFFFF0).cur.pkt.toNat : Int) + 16 * (1 : BitVec 19).toInt) = false
    ∧ canonical (((at_ 0).cur.pkt.toNat : Int) + 16 * (-1 : BitVec 19).toInt) = false
    ∧ (∀ L ∈ base.active, (base.rC 7).getLsbD L = true) ∧ (∃ L ∈ base.active, (base.rC 7).getLsbD L = true) ∧ (∀ L ∈ base.active, ¬(base.rC 0).getLsbD L = true)
    ∧ still.cur.live = true := by decide
theorem witness_CallAndJumpResults :
    let bad := fun t : W64 => decide (t.toNat / 4 % 4 ≠ 0 ∨ t.toNat % 4 = 3)
    base.cur.live = true ∧ bad 0x1002 = false ∧ canonical (0x1002 : Int) = true ∧ bad 0x1003 = true ∧ bad 0x1004 = true ∧ bad 0x0100000000000000 = false
    ∧ canonical (0x0100000000000000 : Int) = false := by decide
/-- Lanes to one target, to two, to five (with free indices and with none); no lane; a base that is not aligned, a target that is not canonical. -/
theorem witness_DivergentBranchResults :
    let v := fun k => (List.range 32).foldl (fun r L => r.setVs 1 [L] fun _ => BitVec.ofNat 32 (L % k)) ({} : Regs)
    let f := fun (s : State) (L : Nat) => ((s.rS 1).toNat : Int) + 16 * (s.rV 1 L).toInt
    let n := fun s => ((brxTargets (f s) s.active).length, (s.block .free).cur.group.freeSplits.length)
    (∀ s ∈ [withRegs (v 1), withRegs (v 2), withRegs (v 5), still, crowd], quiet [.brx 1 1] s = true ∧ (s.rS 1).toNat % 16 = 0 ∧ ∀ L ∈ s.active, canonical (f s L) = true)
    ∧ n (withRegs (v 1)) = (1, 3) ∧ n (withRegs (v 2)) = (2, 3) ∧ n (withRegs (v 5)) = (5, 3) ∧ still.active = []
    ∧ n (crowd.onGroup fun g => { g with regs := v 5 }) = (5, 0) ∧ (withRegs (scal [(1, 8)])).rS 1 = 8
    ∧ canonical (f (withRegs (vec 1 [0xFFFFFFFF])) 0) = false := by decide +kernel
/-- Counters of 0, 253, 254 and 255, and lanes outside the split; a group whose lanes are all retired. -/
theorem witness_MaskWordResults :
    let r := (((({} : Regs).setN 0 1).setN 1 253).setN 2 255)
    RegsWf r ∧ (withRegs r).cur.live = true ∧ (∀ L, L < 32 → (withRegs r).lanes.getLsbD L = true → (withRegs r).rN L ≠ 254)
    ∧ RegsWf (r.setN 31 254) ∧ (withRegs (r.setN 31 254)).lanes.getLsbD 31 = true ∧ (withRegs (r.setN 31 254)).rN 31 = 254
    ∧ (crowd.lanes.getLsbD 7 = true ∧ crowd.lanes.getLsbD 8 = false)
    ∧ (withRegs ((List.range 32).foldl (fun r L => r.setN L 255) {})).cur.group.retiredMask = BitVec.allOnes 32 := by unfold RegsWf; decide
theorem witness_TrapWordsAndNop : base.anyActive = true ∧ still.anyActive = false ∧ still.cur.live = true ∧ base.srcG.brkctl.getLsbD 0 = true
    ∧ (withG fun g => { g with brkctl := 0 }).srcG.brkctl.getLsbD 0 = false := by decide
/-- Each kind of register number at its bounds, at both levels, with and without environment access. -/
theorem witness_SpecialRegisterReads :
    base.cur.live = true ∧ readTraps base 0x001 = [] ∧ readTraps base 0x100 = [illegal 12] ∧ readTraps base 0x10E = [illegal 12] ∧ readTraps base 0x10F = [illegal 11]
    ∧ readTraps base 0x020 = [trapOf .environmentRead] ∧ readTraps base 0x022 = [trapOf .environmentRead] ∧ readTraps (withT fun t => { t with region := { env := true } }) 0x021 = []
    ∧ sup.srcG.level = .supervisor ∧ readTraps sup 0x100 = [] ∧ readTraps sup 0x10E = [] ∧ base.srcG.level = .user ∧ base.cur.team.region.env = false := by decide
theorem witness_SpecialRegisterWrites : base.cur.live = true ∧ base.srcG.level = .user ∧ sup.srcG.level = .supervisor ∧ sup.cur.live = true
    ∧ (withRegs (scal [(1, 0x1003)])).rS 1 = 0x1003 ∧ (0x1003 : W64).toNat % 4 = 3 ∧ (0x1002 : W64).toNat % 4 ≠ 3 := by decide
/-- S[a] names the team, another team, no team; its own address space and another. -/
theorem witness_SupervisorWordsAct :
    let s := fun (v : W64) => { (sup.onGroup fun g => { g with regs := scal [(1, v)] }) with teams := [{ id := 9, index := 3, state := .resident }] }
    let find := fun v => (s v).teams.find? fun u => u.grid == (s v).cur.team.grid && u.index == ((s v).rS 1).toNat % 2 ^ 32 && u.state != .ended && u.halting.isNone
    base.srcG.level = .user ∧ (s 0).srcG.level = .supervisor ∧ (s 0).cur.live = true ∧ ((s 0).rS 1).toNat % 1024 = (s 0).cur.team.region.asid
    ∧ ((s 3).rS 1).toNat % 1024 ≠ (s 3).cur.team.region.asid ∧ ((s 0).rS 1).toNat % 2 ^ 32 = (s 0).cur.team.index
    ∧ ((s 3).rS 1).toNat % 2 ^ 32 ≠ (s 3).cur.team.index ∧ (find 3).isSome = true ∧ (find 4).isNone = true := by decide

/-- An aligned address, a misaligned one, one outside the canonical range; a share that fits and one that does not; an Off bank. -/
theorem witness_VectorAccessesIssue :
    let odd := withRegs (scal [(9, 2)])
    let far := withRegs (scal [(9, 0x0100000000000000)])
    quiet [.vldZ 4 9 6 .x64 .normal, .vldS 7 9 6 .x8 .normal, .vst 7 9 6 .x32 .normal, .vlds 4 9 6 .x64, .vsts 7 9 6 .x16, .vlda 7 9 6 .x32, .vsta 7 9 6 .x32, .vldx 4 9 6 true] base = true
    ∧ globalTraps base (vecAddr base 9 6) 8 = [] ∧ (globalTraps odd (vecAddr odd 9 6) 4).length = 32 ∧ (globalTraps far (vecAddr far 9 6) 8).length = 32
    ∧ (∀ sp ∈ [Space.scratch, .abuf, .xbuf], localTraps base sp (vecAddr base 9 6) 8 true = [] ∧ (localTraps far sp (vecAddr far 9 6) 8 true).length = 32) := by decide
/-- The bounds of the canonical range and of a share. -/
theorem witness_AddressChecksOfAccesses :
    canonical (2 ^ 56 - 1 : Int) = true ∧ canonical (2 ^ 56 : Int) = false ∧ canonical (2 ^ 64 - 2 ^ 56 - 1 : Int) = false ∧ canonical (2 ^ 64 - 2 ^ 56 : Int) = true
    ∧ canonical (2 ^ 64 - 1 : Int) = true ∧ canonical (2 ^ 64 : Int) = false ∧ canonical (-1 : Int) = false
    ∧ inShare base.cur.team .scratch ((shareOf base.cur.team .scratch : Int) - 4) 4 = true ∧ inShare base.cur.team .scratch ((shareOf base.cur.team .scratch : Int) - 3) 4 = false := by decide
/-- Aligned, misaligned, not canonical; a destination s0. -/
theorem witness_ScalarAccessesIssue :
    let x := fun (v : W64) (e : BitVec 12) => ((((withRegs (scal [(1, v)])).rS 1).toNat : Int) + e.toInt)
    base.cur.live = true ∧ x 0x1000 (-8) % 8 = 0 ∧ canonical (x 0x1000 (-8)) = true ∧ x 0x1000 4 % 8 ≠ 0 ∧ x 0x00FFFFFFFFFFFFF8 8 % 8 = 0
    ∧ canonical (x 0x00FFFFFFFFFFFFF8 8) = false ∧ canonical (x 0 (-8)) = false := by decide
theorem witness_VectorAtomicsAndTheirValues :
    let far := withRegs (vec 1 [2] (vec 8 [2]))
    quiet [.vatom 2 8 .add32 .dev .acqrel, .vatom 4 8 .cas64 .dev .rlx, .vmred 2 8 .add64 .dev .rlx, .vatoms 2 1 .cas32 .team .acq] base = true
    ∧ globalTraps base (fun L => (base.rP 8 L).toNat) 8 = [] ∧ localTraps base .scratch (fun L => (base.rV 1 L).toNat) 4 true = []
    ∧ (globalTraps far (fun L => (far.rP 8 L).toNat) 8).length = 1 ∧ (localTraps far .scratch (fun L => (far.rV 1 L).toNat) 4 true).length = 1 := by decide
/-- Counts within and beyond their limits, 15 for any; a portable team. -/
theorem witness_FenceAndCountWords :
    let c := (withG fun g => { g with counts := { loads := 3 } }).cur.group.counts
    base.cur.live = true ∧ base.cur.team.portable = false ∧ portable.cur.team.portable = true ∧ portable.cur.live = true
    ∧ c.loads ≤ 3 ∧ ¬c.loads ≤ 2 ∧ c.stores ≤ 0 ∧ (15 : Fin 16).val = 15 := by decide
/-- A team with a valid object at offset 16, which may be armed. -/
def barred (b : Bar := { phase := 0, expect := 1, remain := 1, pend := 0, low := 1 }) : State := withT fun t => { t with scratch := writeBar [] 16 b }
/-- The object checks pass and fail; an EXPECT of 65,535 and of 65,536; an armed object; an older store in flight; a portable team; a completed and an open phase; REMAIN of 0. -/
theorem witness_BarrierWordsIssue :
    let armed := { barred with arms := [{ id := 1, seat := 0, core := 0, slot := 0, w := 0, cmp := .eq, x := 0, team := 1, gid := 0, off := 16, word := 0, pkt := 0, pslot := 0, from_ := 0 }] }
    let older := { barred with ops := [{ blankOp (.store .global 4) with team := 1, gid := 0, active := 1 }] }
    barred.cur.live = true ∧ objectTraps barred 16 true = [] ∧ objectTraps barred 0 false = [] ∧ (objectTraps barred 0 true).length = 1 ∧ (objectTraps barred 8 true).length = 2
    ∧ (withRegs (scal [(1, 65535), (2, 65536)])).rS 1 = 65535 ∧ (barred.bar 16).armed = false ∧ (barred.bar 16).completed 0xFFFFFFFF = true
    ∧ (barred.bar 16).completed 0 = false ∧ (({ phase := 0, expect := 0, remain := 0, pend := 0, low := 9 } : Bar).armed = true)
    ∧ barred.barBehind 16 .phase = false ∧ ({ barred with ops := [{ blankOp (.bar 16 (.arrive 0 none)) with team := 1, gid := 0, held := true }] } : State).barBehind 16 .phase = true
    ∧ older.writesBefore 1 0 older.nextOp = true ∧ barred.writesBefore 1 0 barred.nextOp = false ∧ armed.arms.length = 1
    ∧ ((barred.settleLocal 1 0 1 .scratch [(16, 16)]).barApply 1 16 (.arrive 0 none)).1 = true
    ∧ (let e := barred { phase := 0, expect := 0, remain := 0, pend := 5, low := 1 }; ((e.settleLocal 1 0 1 .scratch [(16, 16)]).barApply 1 16 (.arrive 0 none)).1 = false)
    ∧ portable.cur.team.portable = true ∧ objectTraps (barred.onTeam fun t => { t with mode := { port := true } }) 16 true = [] := by decide
theorem witness_BarrierObjectChanges :
    Memory.wf [] = true ∧ Memory.wf (writeBar [] 16 { phase := 2 ^ 32 - 1, expect := 2 ^ 16 - 1, remain := 2 ^ 16 - 1, pend := 2 ^ 32 - 1, low := 2 ^ 32 - 1 }) = true
    ∧ ({ phase := 1, expect := 1, remain := 0, pend := 0, low := 1 } : Bar).settle = { phase := 2, expect := 1, remain := 1, pend := 0, low := 1 }
    ∧ ({ phase := 0, expect := 0, remain := 0, pend := 0, low := 0 } : Bar).completed 0x80000000 = true ∧ ({ phase := 0, expect := 0, remain := 0, pend := 0, low := 0 } : Bar).completed 0x7FFFFFFF = false := by decide
/-- A range within the team's banks and one past it; an extended block that is free, held, or not to be had. -/
theorem witness_BankWordsAct :
    let held := withG fun g => { g with hasExt := true, banks := (List.range 16).foldl (fun m b => SMap.set .absent m b .full) [] }
    base.cur.live = true ∧ base.cur.team.nscratch = 8 ∧ base.cur.team.portable = false ∧ portable.cur.team.portable = true
    ∧ base.tryExt.isSome = true ∧ ({ base with seats := [] } : State).tryExt.isNone = true ∧ held.cur.group.hasExt = true ∧ held.cur.live = true
    ∧ SMap.wf .absent held.cur.group.banks = true ∧ base.cur.group.hasExt = false := by decide
/-- Parameters of a copy in s5 to s8, with a literal. -/
def copier (w2 : W64) (l : W32 := 0) : State :=
  let s := barred.onGroup fun g => { g with regs := scal [(5, 0x1000), (6, 0x40), (7, w2), (8, 0x4000000040)] }
  { s with cur := { s.cur with lit := l } }
/-- Parameters that pass and, with a row size of 2, fail; with no barrier and with one. -/
theorem witness_CopyWordsIssue :
    let cmd := fun (s : State) (kind : Nat) (a b : Space) => ({ kind := kind, queue := 0, src := 0x1000, dst := 0x40, rows := 1, rowSz := (s.rS 7).toNat % 2 ^ 24, sstride := 0x40, dstride := 0x40, bar := if s.cur.lit.getLsbD 31 then some (s.cur.lit.toNat % 2 ^ 20) else none, from_ := a, to_ := b } : Copy)
    let ok := copier 0x0001000000000004
    let bar := copier 0x0001000000000004 0xC0000010
    let bad := copier 0x0001000000000002
    ok.cur.live = true ∧ copyTraps ok 5 (cmd ok 0 .global .scratch) = [] ∧ copyTraps ok 5 (cmd ok 1 .scratch .global) = [] ∧ copyTraps ok 5 (cmd ok 2 .global .abuf) = []
    ∧ copyTraps ok 5 (cmd ok 3 .global .wbuf) = [] ∧ copyTraps ok 5 (cmd ok 5 .global .global) = [] ∧ copyTraps bar 5 (cmd bar 0 .global .scratch) = []
    ∧ copyTraps bad 5 (cmd bad 0 .global .scratch) ≠ [] := by decide
/-- A tile that is Closed stands under the source of a drain. -/
theorem witness_CopyWordsIssue_xbuf :
    let ok := (copier 0x0001000000000004).onTeam fun t => { t with tiles := [{ id := 0, kind := .s32, off := 0x1000, rows := 8, cols := 1, planes := 0, state := 3 }] }
    copyTraps ok 5 { kind := 4, queue := 0, src := 0x1000, dst := 0x40, rows := 1, rowSz := 4, sstride := 0x40, dstride := 0x40, from_ := .xbuf, to_ := .global } = [] := by decide

/-- A circular descriptor at 64 of four slots of 16 bytes at 256, with its objects at 16 and 32. -/
def ringed : State :=
  let full : Bar := { phase := 1, expect := 1, remain := 1, pend := 0, low := 1 }
  let open_ : Bar := { phase := 0, expect := 1, remain := 1, pend := 0, low := 1 }
  let m := Memory.write (writeBar (writeBar [] 16 full) 32 open_) 64 32 (32 * 2 ^ 160 + 16 * 2 ^ 128 + 256 * 2 ^ 96 + 4 * 2 ^ 80 + 1 * 2 ^ 64)
  let r := scal [(5, 0x1000), (6, 64), (7, 16), (9, 64), (10, 0x1000), (11, 0x2000), (12, 0x0001000400000010), (13, 0x100000040)]
  (withT fun t => { t with scratch := m }).onGroup fun g => { g with regs := r }
theorem witness_GatherAndCircularWordsIssue :
    ringed.cur.live = true ∧ litTraps 0 true = [] ∧ litBarTraps ringed = [] ∧ circTraps ringed 64 (fun d => [d.filled, d.freed]) = [] ∧ (ringed.circAt 64).slotBytes = 16
    ∧ circTraps ringed 64 (fun d => [d.filled]) = [] ∧ circTraps ringed 64 (fun d => [d.freed]) = []
    ∧ (ringed.bar (ringed.circAt 64).filled).completed (BitVec.ofNat 32 (ringed.circAt 64).next) = true ∧ (ringed.bar (ringed.circAt 64).freed).completed 0 = false
    ∧ inShare ringed.cur.team .abuf (0x40 : Int) (1 * 4) = true ∧ goes [.gth 10 0, .cpCirc 5 0, .qfence 0xFF, .cbWait 1 9, .cbFree 9] ringed = true
    ∧ ringed.cur.lit = 0 ∧ (ringed.rS 7).toNat / 2 ^ 32 = 0 ∧ (ringed.rS 13).toNat / 2 ^ 34 = 0 ∧ ((ringed.rS 12).toNat / 2 ^ 48, (ringed.rS 12).toNat / 2 ^ 32 % 2 ^ 16) = (1, 4) := by decide
/-- A launch word of extents 1, 1, 1; one with an extent of 0; no child; an awaited child; a handler at entry 0; a pool with no room; a message under way. -/
theorem witness_LaunchWordsIssue :
    let w : W64 := 1 + 0x10000 + 0x100000000
    let child := { base with grids := [{ id := 1, seat := 0, region := {}, kernel := {}, params := [], gx := 1, gy := 1, gz := 1, launcher := .device 1 0 }] }
    let hand := { base with mem := Memory.write [] 8 8 0x4000 }
    let full := { base with seats := [{ fetchSeat 0 with pl := { (fetchSeat 0).pl with poolq := 0 } }] }
    extReserved w 0 = true ∧ extLegal w = true ∧ extLegal 0 = false ∧ canonical (0x1000 : Int) = true ∧ canonical ((0x1000 + 63 : Nat) : Int) = true
    ∧ base.awaited 1 none 1 = [] ∧ (child.awaited 1 none 1).length = 1 ∧ (child.awaited 1 (some 5) 1) = [] ∧ base.cur.team.portable = false ∧ portable.cur.team.portable = true
    ∧ hand.handlerAddr 0 1 = 0x4000 ∧ hand.cur.live = true ∧ ((hand.findSeat 0).any fun x => (x.core? 0).isSome) = true
    ∧ goes [.launch 4, .launchTry 4 1, .join 4, .joinAll, .joinDoor 4, .amsg 4] base = true
    ∧ base.poolRoom 0 (base.launchRegion base.cur.team) = true ∧ full.poolRoom 0 (full.launchRegion full.cur.team) = false
    ∧ ¬(2 ^ 8 ≤ (255 : Nat) ∨ 2 ^ 6 ≤ (1 : Nat)) ∧ ((working [opAt 3 (.amsg 1 0 1 2 3)]).findOp 3).map (·.kind) = some (.amsg 1 0 1 2 3) := by decide +kernel
/-- No lane nested; one nested; another point. -/
theorem witness_RegroupArrival :
    quiet [.vregrp 16 1 2 1] base = true ∧ (∀ L, L < 32 → base.rN L = 0 ∨ base.rN L = 255) ∧ base.cur.team.regroup = none
    ∧ (withRegs (({} : Regs).setN 31 254)).rN 31 = 254 ∧ quiet [.vregrp 16 1 2 1] (withRegs (({} : Regs).setN 31 254)) = true
    ∧ (withT fun t => { t with regroup := some { point := 2, first := 16, count := 2, cond := 2 } }).cur.team.regroup ≠ some { point := 1, first := 16, count := 2, cond := 2 } := by decide
/-- A seat whose core 0 has the matrix engine's pairs, an active S8 plane of 32 by 1, a Clear S32 tile 0 and PART and F32 tiles 1 and 2; a parameter block in v12. -/
def matrixed (l : List W32) : State :=
  let acc : Tile := { id := 0, kind := .s32, off := 0, rows := 8, cols := 1, planes := 0 }
  let src : Tile := { id := 1, kind := .part, off := 256, rows := 8, cols := 1, planes := 1, state := 3 }
  let dst : Tile := { id := 2, kind := .f32, off := 512, rows := 8, cols := 1, planes := 0 }
  let s := withT fun t => { t with tiles := [acc, src, dst] }
  let s := s.onGroup fun g => { g with regs := vec 12 l, splits := g.splits.map fun p => { p with lanes := 0xFF } }
  { s with pairs := [{ seat := 0, vf := 0, core := 0, pair := 0, active := some { fmt := .s8, kl := 32, nl := 1, ver := 0 } }] }
theorem witness_MatrixWordsIssue :
    let s := matrixed [0, 32, 0]
    let cfg := matrixed [5, 1024, 8, 1, 0]
    let lds := matrixed [0, 32, 32, 1]
    let sca := matrixed [0x21]
    let drn := matrixed [7]
    s.cur.live = true ∧ s.fencedMx.contains s.cur.team.core = false ∧ s.seat.bound 0 0 = true ∧ s.active = List.range 8
    ∧ quiet [.xcfg 12 .s32 false, .xlds 12 0 .s8, .xmm 12 0 .s8 false false, .xscac 12 true, .xdrn 12, .xrel 12 true] s = true
    ∧ goes [.xmm 12 0 .s8 false false, .xswp 0] s = true ∧ quartersIn s = [0] ∧ quarterTraps s 12 false .s8 { fmt := .s8, kl := 32, nl := 1, ver := 0 } 0 = []
    ∧ (pairKind .s8 .s8).isSome = true ∧ (∀ z ∈ cfg.cur.team.tiles, z.id ≠ 5 → z.meets 1024 32 = false) ∧ inShare cfg.cur.team .xbuf (1024 : Int) 32 = true
    ∧ inShare lds.cur.team .wbuf (0 : Int) (rowBytes .s8 32) = true ∧ (sca.cur.team.tile 1).map (·.kind) = some .part ∧ (sca.cur.team.tile 2).map (·.kind) = some .f32
    ∧ (∀ k ∈ tilesOf 7, (drn.cur.team.tile k).isSome = true ∧ ∀ y, drn.cur.team.tile k = some y → y.state ≠ 2)
    ∧ ([cfg, lds, sca, drn].map fun t => (goes [.xcfg 12 .s32 false, .xlds 12 0 .s8, .xscac 12 false, .xdrn 12, .xrel 12 false] t)) = List.replicate 4 true := by decide
/-- For blocks: a D8 plane of 32 by 1 and the PART tile. -/
theorem witness_MatrixWordsIssue_block :
    let s := { matrixed [0, 33, 1] with pairs := [{ seat := 0, vf := 0, core := 0, pair := 0, active := some { fmt := .d8, kl := 32, nl := 1, ver := 0 } }] }
    fmtClass .d8 = 2 ∧ (pairKind .d8 .d8).isSome = true ∧ quarterTraps s 12 true .d8 { fmt := .d8, kl := 32, nl := 1, ver := 0 } 0 = [] := by decide
/-- Slot 575 and 576; a slot of the seat; a target on a page that is mapped nowhere near a peer; a portable team. -/
theorem witness_RingWordsIssue :
    let s := (barred.onGroup fun g => { g with regs := scal [(1, 575), (4, 16), (6, 0x1000)] })
    (s.rS 1).toNat < 576 ∧ s.seat.pl.dmap.getLsbD (575 % 64) = true ∧ (s.slot 575).state ≠ 3 ∧ s.cur.live = true ∧ 576 ≤ ((576 : W64)).toNat
    ∧ (0x1000 : Nat) % 32 = 0 ∧ canonical (0x1000 : Int) = true ∧ ((s.placeNow s.cur.team 0x1000).any Phys.isPeer) = false ∧ objectTraps s 16 true = [] ∧ (s.bar 16).armed = false
    ∧ s.cur.team.portable = false ∧ portable.cur.team.portable = true ∧ (s.rS 5).toNat < 2 ^ 32
    ∧ goes [.sgBoard 6 1, .sgAlight 6 1, .sgCap 6 1 true, .sgMod 6 1 .add32 7 .rlx, .sgRev 6 1, .sgRevOfs 6, .sgArm 4 1 .eq 0] s = true := by decide

/-! Events: with such an event at hand its row goes on, in the state after reset or with what the clause names. -/

/-- Each event runs its row. -/
def runs (l : List Event) (s : State := State.reset) : Bool := l.all fun e => goes [e.row] (withEv e s)
theorem witness_MemoryEventsAct :
    runs [.positionStart (.slice 0 0), .loadReply 1, .storePerform 1, .storeAcknowledge 1, .lineRecall 1, .atomicPerform 1, .scratchpadRowServe 1 0, .bufferPortCycle 1 0, .releaseApply 1,
      .dramReadRetry 1 true, .meshFlitRetry 1 false, .dramRefresh 0 0] = true
    ∧ State.reset.g % 16 = 0 ∧ State.reset.rotaOwner 0 0 = none ∧ base.rotaOwner 0 0 ≠ none := by decide
theorem witness_TranslationEventsAct :
    let f : FaultRec := { id := 3, seat := 0, asid := 0, va := 0x5000, write := false, owner := .op 0 }
    let two := { State.reset with faults := [f, { f with id := 4 }] }
    let dead := withG fun g => { g with deferred := [{ kind := .memoryUncorrectable }] }
    runs [.tlbWalkComplete 1, .tlbinvComplete 1, .logReplay 1, .priResponse 0 0 0 true, .chargedWaitDue 0 1, .lateWaitFreeze 0 1, .freezeResume 0, .atsCompletion 0 0 0x1000 0 0 true true,
      .atsCompletion 0 0 0x1000 0x2000 4096 true true, .faultService 1, .illegalInstruction 1 0 2, .deferredTrap 1 0] = true
    ∧ runs [.faultService 4, .faultService 5] two = true ∧ (two.faults.find? fun x => x.id == 4).isSome = true ∧ (two.faults.find? fun x => x.id == 5) = none
    ∧ (two.faults.find? fun x => !x.forwarded).isSome = true ∧ State.reset.faults = [] ∧ runs [.illegalInstruction 1 0 2, .deferredTrap 1 0] dead = true
    ∧ dead.cur.group.deferred.length = 1 ∧ base.cur.group.deferred = [] ∧ State.reset.cur.live = false ∧ State.reset.findTeam 1 = none := by decide
theorem witness_EngineEventsAct :
    let c : Copy := { kind := 0, queue := 0, src := 0, dst := 0, rows := 1, rowSz := 4, sstride := 0, dstride := 0 }
    let s := { State.reset with ops := [{ blankOp (.copy { c with heldBy := true }) with id := 1 }, { blankOp (.copy c) with id := 2 }] }
    runs [.copyCommandStart 1, .circSlotReady 1, .copyPieceStart 0 0, .pieceLand 1, .copyCommandComplete 1, .xldsComplete 1, .xswpComplete 1, .rowInject 0 0, .passComplete 0 1 0, .xcfgComplete 1,
      .xrelComplete 1, .xdrnComplete 1, .xscacComplete 1, .ringPassage 0 0 0, .ringResultWrite 1, .alightWritePerformed 0, .heldPieceRelease 1] = true
    ∧ runs [.heldPieceRelease 1, .heldPieceRelease 2] s = true ∧ State.reset.findOp 1 = none ∧ (s.findOp 1).map (·.kind) = some (.copy { c with heldBy := true })
    ∧ (s.findOp 2).map (·.kind) = some (.copy c) := by decide
theorem witness_TeamEventsAct :
    let s := { State.reset with teams := [{ id := 1, mode := { port := true } }, { id := 2 }], grids := [{ id := 7, seat := 0, region := {}, kernel := {}, params := [], gx := 1, gy := 1, gz := 1, launcher := .message }] }
    runs [.bankWakeEnd 1 none 0, .eacqGrant 0 0, .waitResume 1, .teamCarving 0 0, .teamRelease 1, .victimChoice 0 0, .drainComplete 1, .saveComplete 1, .parkWake 1, .groupEnd 1 0, .teamEnd 1,
      .regroupComplete 1, .amsgAccept 1, .quantumCommit 1 []] = true
    ∧ runs [.waitcResume 1 0, .waitcResume 2 0, .gridEnd 7] s = true ∧ (s.findTeam 1).any Team.portable = true ∧ (s.findTeam 2).any Team.portable = false
    ∧ (s.grids.find? fun g => g.id == 7).isSome = true := by decide
/-- A lease that is over and one that is not. -/
theorem witness_SeatEventsAct :
    let s := fun (g : Nat) => { State.reset with g := g, seats := [{ num := 0, lease := { v := true, peer := 1, first := 2, count := 3 } }, { num := 1 }] }
    runs [.resetRelease 0 0, .frameBoundary, .seating 0, .leaseBegin 0, .quantumEnd 0, .switchComplete 0, .seatEviction 0, .loadBalance 0, .preemptDelivery 0 1, .leaseEnd 0] = true
    ∧ runs [.leaseEnd 0] (s (5 * Config.frame)) = true ∧ runs [.leaseEnd 0] (s (5 * Config.frame - 1)) = true ∧ (5 * Config.frame) / Config.frame = 5
    ∧ (5 * Config.frame - 1) / Config.frame < 2 + 3 ∧ (State.reset.findSeat 0).isNone = true ∧ ((s 0).findSeat 0).isSome = true := by decide
theorem witness_CommandsNeedAReadyDevice :
    State.reset.host.dstate ≠ 3 ∧ runs [.admitSeat 0 0, .evict 0 true, .lease 0 0 0 0 0, .qtable 0 0, .qreg 0 0 0, .runmode 0 0 false, .preempt 0 1, .resume 0, .powercap 5 true, .seatfloor 0 0 0,
      .pagedone 0 0 false, .unfence 0 true 0 true, .linkopen 0 0 0 0 true true, .undefinedCommand 16] = true := by decide

/-- Seat 0 with function 0 in region 0x4000, and its queue 0 at 0x5000, whose ring at 0x6000 holds one command. -/
def queued (op a b : Nat) (k : Queue := { vf := 0, q := 0, addr := 0x5000 }) : State :=
  let tables := [(0, 0x100003), (0x100000, 0x101001), (0x101000, 0x102001), (0x102000, 0x5F)]
  let record := [(0x4020, 63), (0x5000 + 56, 0x6000), (0x5000 + 48, 0x4000), (0x5000 + 40, 1), (0x5000 + 32, 0x2200000000000000)]
  let m := (tables ++ record ++ [(0x6000, op), (0x6008, a), (0x6010, b)]).foldl (fun (m : Memory) (p : Nat × Nat) => Memory.write m p.1 8 p.2) []
  { State.reset with mem := m, seats := [{ fetchSeat 0 with qtab := [{ rcb := 0x4000, quantum := 131072, vf := 0 }] }], queues := [k] }
/-- The one queue of such a state. -/
def queue0 : Queue := { vf := 0, q := 0, addr := 0x5000 }
/-- Its command is at hand and may be served, with this OP. -/
def served (s : State) (op : Option Nat) : Bool :=
  s.findQueue 0 0 == some queue0 && s.qCommand queue0 == some 0x6000 && s.mayServe queue0 && decide (s.qOp 0x6000 = op) && (s.qRegion queue0).isSome
/-- Each OP, a command with a reserved bit, addresses that are aligned and not, mapped and absent, a WAIT that holds and one that does not, buffers of each kind, no queue at all. -/
theorem witness_QueueEventsAct :
    runs [.doorbellWrite 0 0 1, .doorcntWrite 0 1, .launchDelivery 1, .completionWrite 0, .cqdoneReread, .queueNop 0 0, .queueLaunch 0 0, .indirect 0 0, .signal 0 0, .wait 0 0] = true
    ∧ State.reset.findQueue 0 0 = none ∧ served (queued 0 0 0) (some 0) = true ∧ served (queued 0x400 0 0) none = true ∧ served (queued 1 0x7000 0x8000) (some 1) = true
    ∧ served (queued 2 0x9040 65535) (some 2) = true ∧ served (queued 2 0x9041 1) (some 2) = true ∧ served (queued 2 0x9040 65536) (some 2) = true
    ∧ served (queued 3 0x9008 7) (some 3) = true ∧ served (queued 4 0x9008 7) (some 4) = true := by decide +kernel
theorem witness_QueueEventsAct_addresses :
    let s := queued 4 0x9008 7
    s.reach queue0 0 0x9008 .write = .at_ (.dev 0x9008) ∧ s.reach queue0 0 0x9008 .read = .at_ (.dev 0x9008) ∧ s.reach queue0 0 0x40000008 .read = .wait 0x40000008
    ∧ s.waitHolds (.dev 0x9008) 7 = false ∧ s.waitHolds (.dev 0x9008) 0 = true ∧ rangesMeet 0x9040 (64 * 65535) (s.qBase queue0) (64 * 2 ^ s.qLog queue0) = false
    ∧ rangesMeet 0x63C0 64 (s.qBase queue0) (64 * 2 ^ s.qLog queue0) = true ∧ rangesMeet 0x6400 64 (s.qBase queue0) (64 * 2 ^ s.qLog queue0) = false := by decide +kernel
/-- The second read of a WAIT. -/
theorem witness_QueueEventsAct_wait :
    let k : Queue := { queue0 with wait := some (0x9008, 7) }
    let s := queued 4 0x9008 7 k
    s.findQueue 0 0 = some k ∧ s.qCommand k = some 0x6000 ∧ (s.qRegion k).isSome = true ∧ s.reach k 0 0x9008 .read = .at_ (.dev 0x9008) ∧ runs [.waitReread 0 0] s = true
    ∧ s.reach k 0 0x40000008 .read = .wait 0x40000008 ∧ runs [.waitReread 0 0] (queued 4 0x40000008 7 { queue0 with wait := some (0x40000008, 7) }) = true
    ∧ s.reach { k with failed := some 0x40000008 } 0 0x40000008 .read = .never ∧ runs [.waitReread 0 0] (queued 4 0x40000008 7 { queue0 with wait := some (0x40000008, 7), failed := some 0x40000008 }) = true := by decide +kernel
/-- A Ready device with a seat that is leased and one that is not; a table at 0xA000; a region that is admitted; a fault that is forwarded; a fenced engine and slot. -/
def ready : State :=
  let s := queued 0 0 0
  { s with host := { s.host with dstate := 3 }, mem := Memory.write s.mem 0xA000 8 (131072 * 2 ^ 24 + 64), fencedMx := [5], slots := [(7, { state := 3 })]
           faults := [{ id := 1, seat := 0, asid := 2, va := 0x5008, write := false, owner := .op 0, forwarded := true }]
           seats := s.seats ++ [{ num := 1, lease := { v := true, peer := 2 } }, { num := 2, seated := true }] }
theorem witness_DeviceEventsAct :
    runs [.pageMigration 0 0 0, .heatSweep, .registerWrite 0 0, .powerEvaluation 0 [], .clockStepChange true, .fenceLift 0 true 0, .hostBarRequest 0 0 0 none 8, .atsInvalidationRequest 0 0 0 4096,
      .colalmInboundRequest 0 0 8 .read, .linkRetrain 16 128, .linkRetrain 15 128, .linkRetrain 4 16, .spdmRequest 0 5, .spdmRequest 1 5, .spdmRequest 4 5, .spdmRequest 5 5, .mctpStatus, .colalmTraining 7 true 3,
      .colalmTraining 0 false 3, .configurationRequest 0 64 65, .configurationRequest 63 0 64, .configurationRequest 64 0 64] = true
    ∧ 16 ∈ [16, 8, 4] ∧ 15 ∉ [16, 8, 4] ∧ 16 ∉ [128, 64, 32] := by decide +kernel
theorem witness_MailboxCommandsAct :
    ready.host.dstate = 3
    ∧ runs [.admitSeat 0 0, .lease 0 1 1 9 1, .powercap 5 true, .seatfloor 0 0 0, .linkopen 0 0 0 0 true true, .evict 0 true, .evict 1 false, .evict 9 true, .qtable 0 0xA000, .qtable 2 0xA000, .qtable 9 0xA000,
      .qtable 0 0xB000, .qreg 0 0 0x5001, .qreg 0 64 0x5000, .qreg 64 0 0x5000, .qreg 63 63 0x5000, .runmode 0x4000 7 true, .runmode 0x4000 1 false, .runmode 8 1 false, .preempt 0x4000 0, .preempt 0x4000 1,
      .preempt 0x4000 0xFFFFFFFF, .preempt 0x4000 0x100000000, .preempt 8 1, .resume 0x4000, .resume 8, .pagedone 2 0x5000 false, .pagedone 3 0x5000 true, .unfence 5 false 0 true, .unfence 5 false 0 false,
      .unfence 0 true 7 true, .unfence 0 true 8 true, .status] ready = true
    ∧ ready.leased 1 = true ∧ ready.leased 0 = false ∧ ready.leased 9 = false ∧ (ready.findSeat 9).isNone = true ∧ (ready.findSeat 0).isSome = true
    ∧ (ready.quantumTable 0xA000).isSome = true ∧ (ready.quantumTable 0xB000).isNone = true ∧ (ready.findSeat 2).map (·.seated) = some true ∧ (ready.findSeat 1).map (·.seated) = some false := by decide +kernel
theorem witness_MailboxCommandsAct_records :
    (0x5000 % 64 = 0 ∧ ready.rec64 0x5000 511 448 % 4096 = 0 ∧ ready.rec64 0x5000 319 315 = 4 ∧ ready.rec64 0x5000 304 0 = 0)
    ∧ ready.seats.any (fun (x : Seat) => (ready.regionOf 0x4000 x.num).isSome) = true ∧ ready.seats.any (fun (x : Seat) => (ready.regionOf 8 x.num).isSome) = false
    ∧ (ready.faults.find? fun (f : FaultRec) => f.forwarded && f.asid == 2 && f.va / 4096 == 0x5000 / 4096).isSome = true
    ∧ (ready.faults.find? fun (f : FaultRec) => f.forwarded && f.asid == 3 && f.va / 4096 == 0x5000 / 4096).isNone = true
    ∧ ready.isFenced 5 false 0 = true ∧ ready.isFenced 0 true 7 = true ∧ ready.isFenced 0 true 8 = false ∧ ((1 : W64).getLsbD 1 = false ∧ (1 : W64).getLsbD 2 = false) := by decide +kernel

/-! Decoding, the step, traps, reset and stores. -/

theorem witness_EncodeThenDecode : (Instr.vfma 4 1 (.vreg 2) .ru).wellFormed = true ∧ encode ⟨true, .vfma 4 1 (.vreg 2) .ru⟩ = some 0xA308040A
    ∧ encode ⟨false, .nop⟩ = some 0 ∧ (encode ⟨false, .frameBoundary⟩).isNone = true := by decide +kernel
theorem witness_DecodeThenEncode : 0x9206070C < 2 ^ 32 ∧ decodeWord 0x9206070C = .ok ⟨true, .vmul 3 1 (.imm 3)⟩ := by decide +kernel
/-- A core picks the unit at slot 0 of the fetched packet: one word, and two. -/
theorem witness_StepRunsTheDecodedWord :
    let one := State.reset.withFetchWord 32 0x02281080
    let two := packet 0x9206070C 0x02281080 0x10060F80 1000
    one.nextDue = none ∧ two.nextDue = none
    ∧ (one.pick.map fun p => match p.2.2 with | .run us => us.map (·.word) | _ => []) = some [0x02281080]
    ∧ (two.pick.map fun p => match p.2.2 with | .run us => us.map (·.word) | _ => []) = some [0x9206070C, 0x02281080]
    ∧ decodeWord 0x02281080 = .ok ⟨false, .saddi 10 1 128⟩ := by decide +kernel
/-- An event that is due, one that is not yet due, and none; the last cycle of a frame and another. -/
theorem witness_StepRunsTheNextEvent :
    let e := fun c => { State.reset with agenda := [(c, .heatSweep)] }
    (e 0).nextDue = some (0, .heatSweep) ∧ (e 1).nextDue = none ∧ (e 1).pick.isNone = true ∧ State.reset.nextDue = none ∧ State.reset.pick.isNone = true
    ∧ (0 + 1) % Config.frame ≠ 0 ∧ ({ State.reset with g := Config.frame - 1 } : State).g + 1 = Config.frame := by decide +kernel
/-- A team with a handler and one without, at both levels. -/
theorem witness_TrapEntryAndReturn :
    let s := withT fun t => { t with region := { handler := some 0x2005 } }
    s.cur.group.level = .user ∧ s.cur.team.region.handler = some 0x2005 ∧ base.cur.team.region.handler = none ∧ base.cur.team.halting = none ∧ sup.cur.group.level = .supervisor
    ∧ sup.cur.live = true ∧ sup.cur.team.halting = none ∧ ((s.takeTrap (trapOf .breakpoint) false).cur.group.level = .supervisor) := by decide +kernel
/-- A store request of two lanes to one line, with its operation. -/
theorem witness_StoresWriteTheirLanesAlone :
    let o : Op := { blankOp (.store .global 4) with id := 1, active := 3, addr := [(0, 0x1000), (1, 0x1004)], x := [(0, 5), (1, 6)] }
    let r : Req := { id := 2, owner := 1, seat := 0, core := 0, kind := .store, place := .dev 0x1000, va := 0x1000, lanes := 3 }
    let s := { State.reset with ops := [o], reqs := [r] }
    s.memWf = true ∧ s.findOp r.owner = some o ∧ o.kind = .store .global 4 ∧ lanesOf r.lanes = [0, 1] ∧ Memory.wf ([] : Memory) = true ∧ Memory.wf (Memory.write [] 7 4 0x01000200) = true
    ∧ (s.doStore r).readAt (.dev 0x1000) 8 = 0x600000005 ∧ (∀ j, j < 4 → ∀ k, k < 4 → (laneAt r o 1).add j ≠ (laneAt r o 0).add k) := by decide +kernel
/-- With nothing to do, with an event due, and with a word to issue. -/
theorem witness_EveryStepCompletes :
    State.reset.cur.live = false ∧ (State.reset.withFetchWord 32 0x02281080).cur.live = false
    ∧ ({ State.reset with agenda := [(0, .heatSweep)] } : State).cur.live = false := by decide
theorem witness_StepKeepsMemoryForm : State.reset.memWf = true ∧ (match step State.reset with | .next t => t.memWf | _ => false) = true := by decide +kernel

/-! The clauses of the event statements: states in which each event has its effect. -/

/-- The position of its owner, one spent, one repeated, one of the fill seat, a vacant one that is claimed, a fenced link. -/
theorem witness_MemoryEventsAct_positions :
    let s := working [opAt 1 (.load .global 4 false)] [reqAt 50 1 .load]
    let f := { s with seats := [], reqs := [{ reqAt 50 1 .load with seat := 15 }] }
    let waits := fun (s : State) => s.reqs.filter fun (r : Req) => r.sent && r.head == some (.slice 0 0) && decide (r.arrive ≤ s.g) && !s.stands r && !s.orderHeld r
    s.fencedStruct (.slice 0 0) = false ∧ ({ s with fencedLinks := [261] } : State).fencedStruct (.router 5) = true ∧ s.g % structLen (.slice 0 0) = 0
    ∧ s.spent (.slice 0 0) = false ∧ (s.spend (.slice 0 0)).spent (.slice 0 0) = true
    ∧ firstReq ((waits s).filter fun (r : Req) => some r.seat == s.rotaOwner (s.g / 2) (s.g / Config.frame)) = some (reqAt 50 1 .load)
    ∧ f.rotaOwner 0 0 = none ∧ f.claimed (.slice 0 0) = false ∧ (f.claimSlice 0).claimed (.slice 0 0) = true ∧ (firstReq ((waits f).filter fun (r : Req) => r.seat == 15)).isSome = true
    ∧ runs [.positionStart (.slice 0 0)] s = true ∧ runs [.positionStart (.slice 0 0)] f = true := by decide +kernel
/-- Transfers that have failed not at all, once and for good, at their first and at their repeat; a host link that trains. -/
theorem witness_MemoryEventsAct_repeats :
    let s := fun (st : Struct) (f : Option Nat) (n : Nat) => { (working [opAt 1 (.load .global 4 false)] [{ reqAt 50 1 .load with hops := [(st, 0)], failed := f, fails := n }]) with g := 32 }
    let h := s .hostLink none 0
    let train := { h with link := { h.link with retrain := 90 } }
    (∀ st ∈ [Struct.dram 0 3, .link 0 1, .colalm 2], ∀ f ∈ [none, some 0], ∀ n ∈ [0, 1, 2], (s st f n).fencedStruct st = false ∧ (s st f n).g % structLen st = 0 ∧ (s st f n).spent st = false
      ∧ runs [.positionStart st] (s st f n) = true)
    ∧ train.g < train.link.retrain ∧ train.g % structLen .hostLink = 0 ∧ runs [.positionStart .hostLink] train = true
    ∧ ((s (.dram 0 3) none 0).reqs.filter fun (q : Req) => q.kind == .visit && q.performed) = [] := by decide +kernel
/-- Replies of each kind, refused and not; a walk that ends and one that goes on; a store of a copy; a recall of a store that waits. -/
theorem witness_MemoryEventsAct_requests :
    let w : Walk := { id := 7, seat := 0, core := 0, asid := 0, va := 0x5000, write := false, table := 0x8000 }
    let s := { (working [opAt 1 (.load .global 4 false), opAt 2 (.copy cmd), opAt 3 (.store .global 4), { opAt 4 (.atomic .global .add32 false) with dest := .scal 1 }]
      [reqAt 51 1 .load, { reqAt 52 1 .load with refused := true }, reqAt 53 2 .load, { reqAt 54 2 .load with refused := true }, { reqAt 55 7 .walk with va := 0x8000 }, { reqAt 56 7 .walk with va := 0x8008 },
       reqAt 57 3 .store, reqAt 58 2 .store, reqAt 59 3 .atomic, reqAt 60 4 .atomic, { reqAt 61 57 .recall with place := .dev 0x1000 }, { reqAt 62 3 .store with refused := true }, { reqAt 63 3 .heat with refused := true }]) with
      walks := [w], mem := Memory.write [] 0x8000 8 0x9001 }
    let kind := fun n => ((s.findReq n).map fun (r : Req) => (r.kind, r.refused, r.performed))
    kind 51 = some (.load, false, false) ∧ kind 52 = some (.load, true, false) ∧ kind 57 = some (.store, false, false) ∧ kind 60 = some (.atomic, false, false) ∧ kind 62 = some (.store, true, false)
    ∧ s.opKind 2 = some (.copy cmd) ∧ s.opKind 1 = some (.load .global 4 false) ∧ s.findWalk 7 = some w
    ∧ (match judge 4 (Memory.read64 s.mem 0x8000) 0x8000 with | .table _ => true | _ => false) = true ∧ (match judge 4 (Memory.read64 s.mem 0x8008) 0x8008 with | .table _ => false | _ => true) = true
    ∧ ((s.findOp 3).any fun (o : Op) => o.dest == .none) = true ∧ ((s.findOp 4).any fun (o : Op) => o.dest == .none) = false ∧ (s.findReq 57).isSome = true
    ∧ runs [.loadReply 51, .loadReply 52, .loadReply 53, .loadReply 54, .loadReply 55, .loadReply 56, .storePerform 57, .storePerform 58, .storeAcknowledge 57, .storeAcknowledge 58, .storeAcknowledge 62,
      .storeAcknowledge 63, .lineRecall 61, .atomicPerform 59, .atomicPerform 60] s = true := by decide +kernel
/-- Rows of the scratchpad and cycles of a buffer's port, at their first, last and past them; held operations that are let go and one that waits. -/
theorem witness_MemoryEventsAct_local :
    let sc := opAt 1 (.store .scratch 4)
    let ab := opAt 2 (.store .abuf 4)
    let xl := { opAt 3 (.matrix (.xlds 0 false .s8 0 32 32 1 none)) with taken := 2 }
    let h := fun (id : Nat) (k : OpKind) => { opAt id k with held := true, rel := true, addr := [(0, 0x40)] }
    let s := working [{ sc with addr := [(0, 0x40)] }, { ab with addr := [(0, 0x40)] }, xl, h 10 (.store .global 4), h 11 (.store .scratch 4), h 12 (.bar 16 (.arrive 0 none)), h 13 (.launchRead 9 true 1), h 14 (.amsg 1 0 1 2 3)]
    (rowSteps (opRows { sc with addr := [(0, 0x40)] })).length = 1 ∧ portCycles ab = 1 ∧ s.portServes 0 0 (portSpace ab) = true ∧ s.portServes 0 1 (portSpace ab) = false
    ∧ s.portBehind ab = false ∧ (s.at 0 (.bufferPortCycle 2 0)).portBehind { ab with id := 4 } = true ∧ (0 : Nat) ≠ xl.taken ∧ s.portServes 0 0 (portSpace xl) = true
    ∧ s.writesBefore 1 0 1 = false ∧ s.writesBefore 1 0 10 = true ∧ (working [h 10 (.store .global 4)]).writesBefore 1 0 10 = false ∧ (working [h 10 (.store .global 4)]).heldBehind (h 10 (.store .global 4)) = false
    ∧ runs [.scratchpadRowServe 1 0, .scratchpadRowServe 1 1, .scratchpadRowServe 1 2, .bufferPortCycle 2 0, .bufferPortCycle 2 1, .bufferPortCycle 3 0, .bufferPortCycle 3 1, .bufferPortCycle 3 2] s = true
    ∧ (∀ k ∈ [OpKind.store .global 4, .store .scratch 4, .store .abuf 4, .atomic .global .add32 false, .bar 16 (.arrive 0 none), .launchRead 9 true 1, .amsg 1 0 1 2 3],
      runs [.releaseApply 10] (working [h 10 k]) = true) := by decide +kernel
/-- A read at a channel and a flit at a link, a router and a Colalm port, which repeat; a refresh in a vacant position. -/
theorem witness_MemoryEventsAct_errors :
    let at_ := fun (st : Struct) => working [opAt 1 (.load .global 4 false)] [{ reqAt 51 1 .load with hops := [(st, 0)] }]
    runs [.dramReadRetry 51 false, .dramReadRetry 51 true] (at_ (.dram 0 3)) = true ∧ (at_ (.dram 0 3)).opKind 1 = some (.load .global 4 false)
    ∧ (∀ st ∈ [Struct.link 0 1, .router 5, .colalm 2], runs [.meshFlitRetry 51 false, .meshFlitRetry 51 true] (at_ st) = true)
    ∧ (∀ st ∈ [Struct.dram 0 3, .link 0 1, .router 5, .colalm 2], let s := (at_ st).mapReq 51 fun r => { r with fails := 3 }
      runs [.dramReadRetry 51 true] s = true ∧ runs [.meshFlitRetry 51 true] s = true)
    ∧ State.reset.g % 16 = 0 ∧ runs [.dramRefresh 0 3] = true := by decide +kernel
/-- A walk that ended at a device leaf, an ATS leaf of a bound and of an unbound space, an absent page and a malformed entry; invalidations; operations in the log. -/
theorem witness_TranslationEventsAct_walks :
    let w := fun (id : Nat) (e : W64) => ({ id := id, seat := 0, core := 0, asid := 1, va := 0x5000, write := false, level := 0, table := 0x8000, entry := e, waiters := [(.op 1, 1)] } : Walk)
    let ats : W64 := 0x00C0000000000007
    let lg := fun (id n : Nat) => { opAt id (.load .global 4 false) with logged := 1, inLog := true, logSeq := n }
    let s := { (working [opAt 1 (.load .global 4 false), lg 2 5, lg 3 6, opAt 4 (.tlbinv none none), { opAt 5 (.tlbinv none none) with started := true, landed := 9 }, { opAt 6 (.tlbinv none none) with started := true, landed := 90 },
      { lg 7 9 with buffered := true }, opAt 8 (.load .global 4 false), { opAt 9 (.ring 3 .alight) with logged := 1 }]) with
      walks := [w 20 0x6007, w 21 ats, w 22 0x6006, w 23 0x6005, { w 30 0x6007 with started := true }], mem := Memory.write [] 16 16 (2 ^ 84 + 5 * 2 ^ 64) }
    let sort := fun (e : W64) => match judge 0 e 0x8028 with | .leaf _ l _ => if leafBit l 55 then 2 else 1 | .absent _ _ _ => 3 | .bad _ => 4 | .table _ => 5
    [0x6007, ats, 0x6006, 0x6005].map sort = [1, 2, 3, 4] ∧ s.pasidOf 1 = some 5 ∧ s.pasidOf 2 = none ∧ s.partyMay ats (.op 1, 1) = true
    ∧ s.settledBefore 0 9 = true ∧ s.settledBefore 0 90 = false
    ∧ (s.ops.any fun (p : Op) => p.inLog && decide (p.logSeq < 5) && p.logged != 0) = false ∧ (s.ops.any fun (p : Op) => p.inLog && decide (p.logSeq < 6) && p.logged != 0) = true
    ∧ runs [.tlbWalkComplete 20, .tlbWalkComplete 21, .tlbWalkComplete 22, .tlbWalkComplete 23, .tlbinvComplete 4, .tlbinvComplete 5, .tlbinvComplete 6, .logReplay 2, .logReplay 3, .logReplay 7, .logReplay 8,
      .logReplay 9] s = true := by decide +kernel
/-- The host's answers: one that permits, one that does not, one of size 0; a page response. -/
theorem witness_TranslationEventsAct_host :
    let w : Walk := { id := 21, seat := 0, core := 0, asid := 1, va := 0x5000, write := false, level := 0, table := 0x8000, entry := 0x00C0000000000007, waiters := [(.op 1, 1)], ats := true }
    let s := { (working [opAt 1 (.load .global 4 false)]) with walks := [w], mem := Memory.write [] 16 16 (2 ^ 84 + 5 * 2 ^ 64) }
    let p := { s with walks := [{ w with pri := 1 }] }
    s.atsWalks 0 5 0x5000 false = [w] ∧ s.atsWalks 0 6 0x5000 false = [] ∧ p.atsWalks 0 5 0x5000 true = [{ w with pri := 1 }]
    ∧ s.partyMay (atsLeaf w.entry 0x9000 true true) (.op 1, 1) = true ∧ s.partyMay (atsLeaf w.entry 0x9000 false true) (.op 1, 1) = false
    ∧ runs [.atsCompletion 0 5 0x5000 0x9000 4096 true true, .atsCompletion 0 5 0x5000 0x9000 4096 false true, .atsCompletion 0 5 0x5000 0 0 true true] s = true
    ∧ runs [.priResponse 0 5 0x5000 true, .priResponse 0 5 0x5000 false] p = true := by decide +kernel
/-- Waits: before their due cycle, over and late at it; a boundary; a stop that may end and one that may not. -/
theorem witness_TranslationEventsAct_waits :
    let w := fun (id due : Nat) (d : Option Nat) (late : Bool) => ({ id := id, event := 3, core := 0, t0 := 0, due := due, owner := .op 1, doneAt := d, late := late } : Charged)
    let x := { fetchSeat 0 with waits := [w 1 100 none false, w 2 0 (some 0) false, w 3 0 none false, w 4 0 (some 0) true] }
    let s := { (working [opAt 1 (.load .global 4 false)]) with seats := [x] }
    let f := { s with seats := [{ x with frozen := some 0, waits := [w 4 0 (some 0) true] }] }
    (x.findWait 1).isSome = true ∧ x.oclk s.g = 0 ∧ (w 2 0 (some 0) false).over s.g = true ∧ (w 3 0 none false).over s.g = false ∧ s.g % Config.frame = 0 ∧ x.switching = false ∧ x.frozen = none
    ∧ ({ x with frozen := some 0, waits := [w 4 0 (some 0) true] } : Seat).mayResume 0 = true ∧ ({ x with frozen := some 0, waits := [w 4 0 none true] } : Seat).mayResume 0 = false
    ∧ runs [.chargedWaitDue 0 1, .chargedWaitDue 0 2, .chargedWaitDue 0 3, .chargedWaitDue 0 4, .lateWaitFreeze 0 3, .lateWaitFreeze 0 4] s = true ∧ runs [.freezeResume 0] f = true := by decide +kernel
/-- A fault at a page that is mapped by now, one that is staged, one that is being moved, one that is forwarded, and one at a malformed entry. -/
theorem witness_TranslationEventsAct_faults :
    let f : FaultRec := { id := 3, seat := 0, asid := 0, va := 0x5000, write := false, owner := .op 1 }
    let s := fun (e : Nat) (f : FaultRec) => { (working [opAt 1 (.load .global 4 false)]) with
      faults := [f], mem := [(0, 0x100003), (0x100000, 0x101001), (0x101000, 0x102001), (0x102000, 0x103001), (0x103000, 0x104001), (0x104028, e)].foldl (fun (m : Memory) (p : Nat × Nat) => Memory.write m p.1 8 p.2) [] }
    let sort := fun (e : Nat) => match (s e f).walkNow 0 0x5000 with | .leaf _ _ _ => 1 | .absent l w _ => if staged l w then 2 else if leafBit w 0 then 3 else 4 | .bad _ => 5 | .table _ => 6
    [0x6007, 0x6006, 0x8000000000006007, 0, 0x6005].map sort = [1, 2, 3, 4, 5]
    ∧ (∀ e ∈ [0x6007, 0x6006, 0x8000000000006007, 0, 0x6005], runs [.faultService 3] (s e f) = true) ∧ runs [.faultService 3] (s 0 { f with forwarded := true }) = true := by decide +kernel
/-- Commands at the head of their queue, with and without an object, of a circular buffer, and ones that wait; pieces in each phase. -/
theorem witness_EngineEventsAct_copies :
    let cp := fun (id : Nat) (c : Copy) (q : Nat) => { opAt id (.copy { c with queue := q }) with started := false }
    let go := fun (id : Nat) (c : Copy) => { opAt id (.copy c) with started := true }
    let circ : Copy := { cmd with bar := none, circ := some 64 }
    let s := working [cp 1 { cmd with bar := none } 0, cp 2 { cmd with idxW := 4 } 1, cp 3 circ 2, cp 4 cmd 2, go 5 circ, go 6 { circ with slotFree := true }]
    let d := readCirc team1.scratch 64
    let p := fun (c : Copy) => working [{ opAt 9 (.copy { c with inFlight := true, piece := 4, from_ := .abuf, to_ := .wbuf, dst := 0x40, src := 0x40, data := [1, 2, 3, 4] }) with started := true }]
    let r := working [{ opAt 9 (.copy { cmd with from_ := .abuf, src := 0x40 }) with started := true }]
    ((s.queueOf 1 0 0).head?).map (·.id) = some 1 ∧ ((s.queueOf 1 0 2).head?).map (·.id) = some 3 ∧ (s.findOp 1).map s.marksMet = some true ∧ (s.findOp 6).map Op.awaitsSlot = some true
    ∧ (s.findOp 3).map Op.awaitsSlot = some false ∧ (readBar team1.scratch d.filled).completed 0xFFFFFFFF = true ∧ fillGate d 0 = none ∧ slotGate d 0 = (false, some (d.freed, 0)) ∧ r.g % 4 = 0 ∧ r.rotaOwner 0 0 = some 0 ∧ r.spent (.copyEngine 0) = false ∧ (r.pieceCands 0 0).length = 1
    ∧ r.pieceCands 1 0 = [] ∧ runs [.copyPieceStart 0 0, .copyPieceStart 1 0] r = true
    ∧ runs [.copyCommandStart 1, .copyCommandStart 2, .copyCommandStart 3, .copyCommandStart 4, .circSlotReady 3, .circSlotReady 5, .circSlotReady 6, .copyCommandComplete 1] s = true
    ∧ (∀ k ∈ [0, 1, 2, 3], runs [.pieceLand 9, .heldPieceRelease 9] (p { cmd with phase := k }) = true) ∧ runs [.heldPieceRelease 9] (p { cmd with heldBy := true }) = true
    ∧ (p cmd).enginePortOpen (opAt 9 (.copy cmd)) .abuf 0x40 = true ∧ (p cmd).readsBefore (opAt 9 (.copy cmd)) .wbuf 0x40 4 = false := by decide +kernel
/-- Matrix operations of each kind that complete; a row that is injected, one at a fenced engine; a pass that lands, one that differs, one that differs again. -/
theorem witness_EngineEventsAct_matrix :
    let mx := fun (id : Nat) (m : Mx) => opAt id (.matrix m)
    let q : Quarter := { q := 0, aoff := 0, apitch := 32, tile := 0, r0 := 0, c0 := 0, p0 := 0 }
    let key : RowKey := { pair := 0, gen := 0, fmt := .s8, block := false }
    let pa : Pass := { id := 70, core := 0, seat := 0, key := key, ver := 3, inj := false, quarters := [(8, q)] }
    let full := { pa with rows := List.replicate 8 [], lastRow := 0 }
    let ops := [mx 1 (.xlds 0 false .s8 0 32 32 1 none), mx 2 (.xswp 0), mx 3 (.xcfg 0 .s32 0 32 32 1), mx 4 (.xrel 1), mx 5 (.xdrn 1), mx 6 (.xscac 0 1 0 1 false), mx 8 (.pass false 0 0 false 3 .s8 false false [q])]
    let s := { working ops with passes := [pa], pairs := [{ seat := 0, vf := 0, core := 0, pair := 0, planes := [{ ver := 3, fmt := .s8, kl := 32, nl := 1, cols := [List.replicate 32 1] }] }] }
    let t := fun (p : Pass) => { s with passes := [p], g := p.lastRow + s.cadence 0 + 136 }
    ((s.mxPoke 0 0).nextPass 0 0).isSome = true ∧ (s.planeOf pa).isSome = true ∧ pa.quarters[pa.rows.length / 8]? = some (8, q) ∧ 0 ∉ s.fencedMx ∧ s.heldOver 1 0 8 .abuf [(0, 32)] = false
    ∧ s.nextSlot 0 0 0 = 0 ∧ full.rows.length = full.total ∧ pa.rows.length ≠ pa.total ∧ drainBad 1 team1 = false
    ∧ drainBad 1 { team1 with tilesIn := [{ id := 0, kind := .s32, off := 0, rows := 32, cols := 32, planes := 1, sums := [7] }] } = true
    ∧ runs [.xldsComplete 1, .xswpComplete 2, .xcfgComplete 3, .xrelComplete 4, .xdrnComplete 5, .xscacComplete 6, .rowInject 0 0] s = true ∧ runs [.rowInject 0 0] { s with fencedMx := [0] } = true
    ∧ runs [.passComplete 0 70 0, .passComplete 0 70 1, .passComplete 0 71 0] (t full) = true ∧ runs [.passComplete 0 70 0, .passComplete 0 70 1] (t { full with retry := some 0 }) = true
    ∧ runs [.passComplete 0 70 0] (t { full with only := some 8 }) = true := by decide +kernel
/-- Slot 0 at core 0: an operation is applied in its passage, held by a store, and put aside by a parity error; statuses at their cycle; a home write that is performed. -/
theorem witness_EngineEventsAct_ring :
    let rg := fun (id : Nat) (k : RingKind) => { opAt id (.ring 0 k) with from_ := 1, dest := .scal 4 }
    let st := { opAt 1 (.store .global 4) with pending := 1 }
    let s := fun (ops : List Op) => { working ops with g := passPhase 0 0 % Config.revolution + Config.revolution, slots := [(0, { state := 1, writing := some (7, 1, 0) })] }
    let a := s [rg 5 (.cap true)]
    let b := s [st, { rg 5 (.cap true) with rel := true }]
    a.g % Config.revolution = passPhase 0 0 % Config.revolution ∧ (a.seamStep 0).pendingRing 0 0 = some (rg 5 (.cap true)) ∧ a.slotSeat 0 = some 0 ∧ ((a.slotSeat 0).any fun n => a.isFrozen n) = false
    ∧ b.writesBefore 1 0 5 = true ∧ a.writesBefore 1 0 5 = false ∧ (s []).pendingRing 0 0 = none
    ∧ runs [.ringPassage 0 0 0, .ringPassage 0 0 1, .ringPassage 0 0 2] a = true ∧ runs [.ringPassage 0 0 0] b = true ∧ runs [.ringPassage 0 0 0] (s []) = true
    ∧ (∀ k ∈ [RingKind.cap true, .mod .add32 0 1 1, .probe, .alight, .board 0 (.dev 0) []], runs [.ringResultWrite 5] (s [rg 5 k]) = true)
    ∧ runs [.alightWritePerformed 0] (s [rg 7 .alight]) = true ∧ (s [rg 7 .alight]).homeWaits 0 0 = [] := by decide +kernel
/-- Teams in each state of their life; wakes at and before their end; waiters of eacq with banks, without, and with the block already theirs; an arm that delivers. -/
theorem witness_TeamEventsAct_lives :
    let g0 := freshGroup 0 0 64 0x1000 []
    let t := fun (id : Nat) (st : TeamState) => { team1 with id := id, state := st, nscratch := 0, nabuf := 0, nwbuf := 0, nxbuf := 0, groups := [{ g0 with allot := 16 }] }
    let s := fun (ts : List Team) => { working [] with teams := ts, g := 4096 }
    let w := fun (due : Nat) => ({ bank := 2, target := .full, due := due } : Wake)
    let e := fun (ext port : Bool) => s [{ t 1 .resident with mode := { port := port }, groups := [{ g0 with hasExt := ext, splits := [{ idx := 0, lanes := 1, pkt := 0x1000, slot := 0, block := .eacq 5 }] }] }]
    let pend := { t 1 .pending with everResident := false, groups := [] }
    let done := { t 1 .resident with groups := [{ g0 with splits := [], returned := true }] }
    let rg := fun (b : Block) => { t 1 .resident with regroup := some { point := 0x1000, first := 4, count := 2, cond := 1 }, groups := [{ g0 with splits := [{ idx := 0, lanes := 1, pkt := 0x1000, slot := 0, block := b }] }] }
    (((s [{ t 1 .resident with groups := [{ g0 with wakes := [w 4096, { w 9000 with bank := 3 }] }] }]).findGroup 1 0).bind fun g => g.waking 2).map (·.due) = some 4096
    ∧ runs [.bankWakeEnd 1 (some 0) 2, .bankWakeEnd 1 (some 0) 3, .bankWakeEnd 1 none 2, .bankWakeEnd 1 none 3] (s [{ t 1 .resident with swakes := [w 4096, { w 9000 with bank := 3 }], groups := [{ g0 with wakes := [w 4096, { w 9000 with bank := 3 }] }] }]) = true
    ∧ (let x := { s [t 1 .resident] with arms := [{ id := 1, team := 1, gid := 0, seat := 0, core := 0, slot := 0, off := 0, cmp := .eq, w := 0, x := 0, word := 0, pkt := 0, pslot := 0, from_ := 0, due := some 4096 }] }
      (x.arms.filter fun a => a.team == 1 && a.due.any fun c => decide (c ≤ x.g)).length = 1 ∧ runs [.bankWakeEnd 1 none 0] x = true)
    ∧ ((e false false).eacqWaiters 0 0 false).length = 1 ∧ (e false false).eacqWaiters 0 0 true = [] ∧ ((e false false).takeBanks 0 0 false 8).isSome = true ∧ ((e true false).findGroup 1 0).map (·.hasExt) = some true
    ∧ ({ e false false with seats := [] } : State).takeBanks 0 0 false 8 = none ∧ ((e false true).findTeam 1).map Team.portable = some true
    ∧ (∀ x ∈ [e false false, e true false, e false true], runs [.eacqGrant 0 0] x = true)
    ∧ ((s [pend]).pendingHead 0 0).isSome = true ∧ (s [pend]).pendingHead 0 1 = none ∧ (s [pend]).unitOf pend = [pend] ∧ ((s [pend]).tryCarveAll [pend]).isSome = true ∧ (fetchSeat 0).running = true
    ∧ ({ s [pend] with seats := [{ fetchSeat 0 with pl := { (fetchSeat 0).pl with cores := [] } }] } : State).tryCarveAll [pend] = none
    ∧ runs [.teamCarving 0 0, .victimChoice 0 0] (s [pend]) = true ∧ runs [.teamRelease 1] (s [{ t 1 .carving with since := 0 }]) = true ∧ runs [.teamRelease 1] (s [{ t 1 .carving with since := 4096 }]) = true
    ∧ (∀ st ∈ [TeamState.resident, .draining, .saving, .parked, .pending, .carving], runs [.drainComplete 1, .saveComplete 1, .parkWake 1, .groupEnd 1 0, .teamEnd 1, .waitResume 1, .waitcResume 1 0] (s [t 1 st]) = true)
    ∧ (∀ u ∈ [{ t 1 .draining with discard := true }, { t 1 .resident with halting := some 5 }, { t 1 .saving with parkAfter := true }, { t 1 .resident with parkAfter := true }, done, { done with mode := { port := true } }],
      runs [.drainComplete 1, .saveComplete 1, .parkWake 1, .groupEnd 1 0, .teamEnd 1] (s [u]) = true)
    ∧ (s [t 1 .parked]).heldBack (t 1 .parked) = false ∧ (s [t 1 .parked]).parkDone (t 1 .parked) = true ∧ (s [t 1 .draining]).busyOps 1 = [] ∧ (t 1 .draining).wakeEnd = 0
    ∧ (rg (.regroup 0x1010)).groups.all Group.atPoint = true ∧ (rg .free).groups.all Group.atPoint = false
    ∧ runs [.regroupComplete 1] (s [rg (.regroup 0x1010)]) = true ∧ runs [.regroupComplete 1] (s [rg .free]) = true ∧ runs [.regroupComplete 1] (s [{ rg .free with groups := [{ g0 with splits := [] }] }]) = true := by decide +kernel
/-- Two victims, one and none; a message; a grid of each launcher that ends, one that does not; a commit of one team, one of twins that differ. -/
theorem witness_TeamEventsAct_grids :
    let pend := { team1 with id := 9, state := .pending, everResident := false, nscratch := 99, queued := 4 }
    let v := fun (n : Nat) => { working [] with g := Config.quantum, teams := (List.range n).map (fun k => { team1 with id := k + 1, index := k }) ++ [pend] }
    let gr := fun (l : Launcher) => ({ id := 7, seat := 0, region := {}, kernel := {}, params := [], gx := 1, gy := 1, gz := 1, placed := true, launcher := l } : Grid)
    let e := fun (l : Launcher) => { working [] with grids := [gr l] }
    let pt := fun (id : Nat) => { team1 with id := id, mode := { port := true }, groups := [{ freshGroup 0 0 64 0x1000 [] with splits := [], ended := true }] }
    let c := { working [] with teams := [pt 1] }
    (v 0).mayVictim 0 0 = [] ∧ ((v 1).mayVictim 0 0).length = 1 ∧ ((v 2).mayVictim 0 0).length = 2 ∧ ((v 2).tryCarve pend).isSome = false ∧ team1.since + Config.quantum ≤ (v 2).oclk 0
    ∧ (∀ n ∈ [0, 1, 2], runs [.victimChoice 0 0] (v n) = true)
    ∧ runs [.amsgAccept 3] (working [opAt 3 (.amsg 1 0 1 2 3)]) = true
    ∧ (∀ l ∈ [Launcher.message, .device 1 0, .device 4 0, .host 0 0 true 3], runs [.gridEnd 7] (e l) = true) ∧ runs [.gridEnd 7] ({ e .message with grids := [{ gr .message with teamsLeft := 1 }] }) = true
    ∧ (c.gridTeams 0).map (·.id) = [1] ∧ c.mayCommit (c.gridTeams 0) = true ∧ c.mayCommit [] = false ∧ ((commitOrder (c.gridTeams 0)).flatMap fun q => q.2.effects) = []
    ∧ runs [.quantumCommit 0 []] c = true ∧ runs [.quantumCommit 0 [(1, 0)]] { c with teams := [pt 1, { pt 2 with twin := some 1 }] } = true
    ∧ (({ c with teams := [pt 1, { pt 2 with twin := some 1 }] } : State).gridTeams 0).any (fun (t : Team) => ({ c with teams := [pt 1, { pt 2 with twin := some 1 }] } : State).differs [(2, 0), (1, 0)] t) = true := by decide +kernel
/-- Each state of the device at reset; a frame boundary; a seat that is seated, switches with a function kept and with none, is evicted, and one of two functions whose quantum is over. -/
theorem witness_SeatEventsAct_lives :
    let q := fun (l : List Nat) => l.map fun v => ({ rcb := 0x4000, quantum := 131072, vf := v } : QuantumEntry)
    let s := fun (x : Seat) => { working [] with seats := [x] }
    let x := { fetchSeat 0 with qtab := q [0, 1] }
    let sw := { x with switching := true, nextVf := 1, fns := [{ vf := 1, oclk := some 5 }] }
    let past := { s x with g := 131072 }
    let lent := { x with lease := { v := true, peer := 1, lmap := 1, lend := true, first := 2, count := 3 } }
    (∀ d ∈ [0, 1, 2, 3, 4], runs [.resetRelease 0 0, .resetRelease 1 7, .resetRelease 6 0, .resetRelease 7 0] { State.reset with host := { State.reset.host with dstate := d } } = true)
    ∧ (s x).g % Config.frame = 0 ∧ ({ s x with g := 1 } : State).g % Config.frame ≠ 0 ∧ runs [.frameBoundary] (s { x with yield_ := true, evict := some true, frozen := some 0 }) = true ∧ runs [.frameBoundary] { s x with g := 1 } = true
    ∧ ({ x with seated := false } : Seat).pl.frame * Config.frame = (s x).g ∧ runs [.seating 0] (s { x with seated := false }) = true ∧ runs [.seating 0] (s x) = true
    ∧ runs [.leaseBegin 0, .leaseEnd 0] { s lent with g := 2 * Config.frame } = true ∧ runs [.leaseEnd 0] { s lent with g := 5 * Config.frame } = true ∧ lent.rotaMap 2 ≠ lent.rotaMap 5
    ∧ x.oclk past.g = 131072 ∧ x.seatedAt + 131072 ≤ x.oclk past.g ∧ x.oclk (s x).g < x.seatedAt + 131072 ∧ x.frozen = none ∧ runs [.quantumEnd 0] past = true ∧ runs [.quantumEnd 0] (s x) = true
    ∧ runs [.quantumEnd 0] (s { x with frozen := some 0 }) = true ∧ runs [.switchComplete 0] (s sw) = true ∧ runs [.switchComplete 0] (s { sw with fns := [] }) = true ∧ runs [.switchComplete 0] (s x) = true
    ∧ ({ s x with teams := [] } : State).seatIdle x = true ∧ (s x).seatIdle x = false ∧ (∀ e ∈ [none, some false, some true], runs [.seatEviction 0] (s { x with evict := e }) = true)
    ∧ runs [.seatEviction 0] ({ s { x with evict := some false } with teams := [] }) = true ∧ x.oclk (s x).g % 4096 = 0 ∧ x.running = true ∧ runs [.loadBalance 0] (s x) = true ∧ runs [.loadBalance 0] past = true
    ∧ runs [.loadBalance 0] (s { x with sample := some [{ core := 0, depth := 9, teams := [1] }] }) = true
    ∧ ((s x).seatOfVf ((s x).rec64 0x4000 285 280)).isSome = true ∧ ({ x with frozen := some 0 } : Seat).running = false ∧ runs [.preemptDelivery 0x4000 0] (s { x with frozen := some 0 }) = true
    ∧ runs [.preemptDelivery 0x4000 0, .preemptDelivery 0x4000 12288] { s x with teams := [{ team1 with region := { chain := [0x4000] } }] } = true := by decide +kernel
/-- R390's example: core 9 holds ten teams, its neighbours 8 and 10 hold three and none; three go to core 8 from the tail, then five to core 10. -/
theorem test_load_balance :
    movesFrom (fun c => if c = 8 then 3 else 0) 10 [8, 10] [1, 2, 3, 4, 5, 6, 7, 8, 9, 10]
      = [(8, 8), (9, 8), (10, 8), (3, 10), (4, 10), (5, 10), (6, 10), (7, 10)] := by decide
/-- A page that may move and one in flight; registers at their bounds; power above and below the cap; parts that are fenced; requests through each BAR at its bounds. -/
theorem witness_DeviceEventsAct_effects :
    let m := fun (e : Nat) => [(0, 0x100003), (0x100000, 0x101001), (0x101000, 0x102001), (0x102000, 0x103001), (0x103000, 0x104001), (0x104028, e)].foldl (fun (m : Memory) (p : Nat × Nat) => Memory.write m p.1 8 p.2) []
    let s := fun (e : Nat) => { (working []) with mem := m e }
    let sort := fun (e : Nat) => match (s e).walkNow 0 0x5000 with | .leaf _ _ _ => 1 | .absent _ w _ => if leafBit w 0 && leafBit w 63 then 2 else 3 | .bad _ => 4 | .table _ => 5
    let pw := fun (n : Nat) => { working [] with power := { (working []).power with step := n, cap := 1000 } }
    let up := { working [] with host := { (working []).host with links := [(2, 3)] }, windows := [{ port := 0, base := 0, len := 4096, entry := 0, rd := true, wr := true }] }
    [0x6007, 0x8000000000006007, 0, 0x6005].map sort = [1, 2, 3, 4] ∧ (∀ e ∈ [0x6007, 0x8000000000006007, 0, 0x6005], runs [.pageMigration 0 0x5000 0x9000] (s e) = true)
    ∧ runs [.heatSweep] (s 0x3C00000000006007) = true ∧ (∀ o ∈ [0, 0xFF8, 0x1000, 0x1038, 0x1040, 0x1078, 0x1080, 0x1088], runs [.registerWrite o 1, .registerWrite o 4] (s 0) = true)
    ∧ (∀ n ∈ [0, 8, 15], runs [.powerEvaluation 1001 [], .powerEvaluation 100 [], .powerEvaluation 100 [7], .powerEvaluation 960 [], .clockStepChange true, .clockStepChange false] (pw n) = true)
    ∧ (pw 8).g % Config.frame = 0 ∧ (pw 8).floorStep < (pw 8).power.step ∧ (pw 0).power.step ≤ (pw 0).floorStep ∧ 100 * 100 < 95 * (pw 8).power.cap
    ∧ ready.isFenced 5 false 0 = true ∧ ready.isFenced 0 true 7 = true ∧ ready.isFenced 6 false 0 = false ∧ runs [.fenceLift 5 false 0, .fenceLift 0 true 7, .fenceLift 6 false 0] ready = true
    ∧ (∀ b ∈ [0, 2, 4], runs [.hostBarRequest 0 b 0x1080 none 8, .hostBarRequest 0 b 0x1080 (some [1, 0, 0, 0, 0, 0, 0, 0]) 0, .hostBarRequest 0 b (2 * 2 ^ 20 - 8) none 8, .hostBarRequest 0 b (2 ^ 50) none 8,
      .hostBarRequest 1 b 0 none 4, .hostBarRequest 1 b 4095 none 2, .hostBarRequest 1 b 8 (some [1, 2, 3, 4]) 0, .hostBarRequest 1 b 0x5000 none 4, .hostBarRequest 9 b 0 none 4]
      { ready with link := { ready.link with numVFs := 1 } } = true)
    ∧ (∀ k ∈ [Inbound.read, .write [1, 2, 3, 4], .atomic .add32 1 1], runs [.colalmInboundRequest 0 0x40 4 k, .colalmInboundRequest 0 0x1000 4 k, .colalmInboundRequest 1 0x40 4 k] up = true)
    ∧ runs [.atsInvalidationRequest 0 5 0x5000 4096] (s 0) = true ∧ runs [.atsInvalidationRequest 0 5 0x5000 4096] ready = true := by decide +kernel

/-! ### Clauses on stops, states of banks, queues and the mailbox -/

/-- A marked scalar, condition register and counter; a marked stretch that a lane reads; the traps of unlike words. -/
theorem witness_RegisterChecksOfEveryWord_marks :
    let p := fun (k : Nat) (m : LaneMask) => withG fun g => { g with poison := SMap.set 0 [] k m }
    let m := withT fun t => { t with spoison := [0] }
    (uncorrectables (p 129 1) 0 (.sadd 3 1 2)).length = 1 ∧ goes [.sadd 3 1 2] (p 129 1) = true ∧ (uncorrectables (p 193 1) 0 (.brAny 1 2)).length = 1 ∧ goes [.brAny 1 2] (p 193 1) = true
    ∧ readsNest 0x46000000 .vend = true ∧ (uncorrectables (p 200 8) 0x46000000 .vend).map (fun t => t.kind) = [.registerUncorrectable] ∧ goes [.vend] (p 200 8) = true
    ∧ (markedTraps m (.vlds 3 0 0 .x32)).length = 32 ∧ (markedTraps m (.vatoms 3 0 .add32 .team .rlx)).length = 32 ∧ (markedTraps m (.barWait 0 1 .team false)).length = 1
    ∧ markedTraps base (.barWait 0 1 .team false) = [] ∧ (base.active ≠ [])
    ∧ (∀ i ∈ ([.vins 64 1 .lo 0, .vballot 64 1, .vldZ 64 9 6 .x32 .normal, .vsts 64 9 6 .x32, .vatom 64 8 .add32 .dev .rlx, .brx 1 64, .vfold 1 64 .addZ] : List Instr), regTraps i base ≠ [] ∧ goes [i] base = true) := by
  decide +kernel
/-- Operands without a NaN, one and two; the ends of the integer types; a value halfway between two codes. -/
theorem witness_FloatSpecialCases_pairs : (val32 0x3F800000).isNaN = false ∧ (val32 0xBF800000).isNaN = false ∧ (val32 0xFFFFFFFF).isNaN = true ∧ (0 : Nat) < 1 := by decide +kernel
theorem witness_ConversionAndPackingResults_codes :
    ((128 : W64).toNat % 256 = 128) ∧ 240 ≤ 240 ∧ (-8 : Int) ≤ -8 - 0 ∧ (∃ p ∈ QTarget.d8.codes, p.1 = dyad8 0) ∧ (∃ p ∈ QTarget.m4.codes, p.1 = monad4 15) := by decide +kernel
/-- Each kind of trap in a lane. -/
theorem witness_AddressChecksOfAccesses_lanes :
    let off := withT fun t => { t with sbanks := SMap.set .full [] 0 .off }
    laneTrap .misaligned 5 ∈ globalTraps base (fun L => if L = 5 then 2 else 0) 4 ∧ laneTrap .accessFault 6 ∈ globalTraps base (fun L => if L = 6 then 2 ^ 56 else 0) 4
    ∧ laneTrap .misaligned 5 ∈ localTraps base .scratch (fun L => if L = 5 then 2 else 0) 4 true ∧ laneTrap .accessFault 6 ∈ localTraps base .xbuf (fun L => if L = 6 then 2 ^ 30 else 0) 4 true
    ∧ laneTrap .deadRead 31 ∈ localTraps off .scratch (fun L => if L = 31 then 0 else 0x4000) 4 true ∧ localTraps off .scratch (fun _ => 0) 4 false = [] := by decide
/-- Every free index is used up by the paths; the split is blocked; no index is free. -/
theorem witness_DivergentBranchResults_blocked :
    let s := withG fun g => { g with splits := g.splits.map fun p => { p with block := .barWait 16 0 false } }
    quiet [.brx 1 1] s = true ∧ s.active ≠ [] ∧ goes [.brx 1 1] s = true ∧ s.cur.group.freeSplits.length = 3 ∧ crowd.cur.group.freeSplits = [] := by decide
/-- Banks that are on, kept, off and waking, of vectors and of the scratchpad. -/
theorem witness_BankWordsAct_banks :
    let v := fun (b : BankState) (w : List Wake) => withG fun g => { g with banks := SMap.set .absent g.banks 3 b, wakes := w }
    let z := fun (b : BankState) (w : List Wake) => { base with teams := [{ base.cur.team with sbanks := SMap.set .full [] 2 b, swakes := w }], cur := { base.cur with team := { base.cur.team with sbanks := SMap.set .full [] 2 b, swakes := w } } }
    let up : Wake := { bank := 3, target := .full, due := 9 }
    (∀ b ∈ [BankState.full, .retain, .off], (v b []).cur.group.bank 3 = b ∧ (v b []).cur.group.waking 3 = none ∧ SMap.wf .absent (v b []).cur.group.banks = true ∧ goes [.vbank 8 .off, .vbank 8 .retain, .vbank 8 .full] (v b []) = true)
    ∧ (v .off [up]).cur.group.waking 3 = some up ∧ base.cur.group.bank 15 = .absent
    ∧ (∀ b ∈ [BankState.full, .retain, .off], ((z b []).getTeam 1).map (fun t => (t.sbank 2, t.swaking 2, SMap.wf .full t.sbanks)) = some (b, none, true) ∧ goes [.pbank 2 0 .off, .pbank 2 0 .retain, .pbank 2 0 .full] (z b []) = true)
    ∧ ((z .off [{ up with bank := 2 }]).getTeam 1).map (fun t => (t.swaking 2).isSome) = some true
    ∧ base.eacqWaiters 0 0 false = [] ∧ (((base.findSeat 0).bind fun x => x.core? 0).map (·.suba)) = some 8 := by decide +kernel
/-- Copies whose reserved fields, object, alignment, counts, places, banks and tiles fail. -/
theorem witness_CopyWordsIssue_traps :
    let c := fun (s : State) (a b : Space) => ({ kind := 0, queue := 0, src := (s.rS 5).toNat, dst := (s.rS 6).toNat, rows := (s.rS 7).toNat / 2 ^ 48, rowSz := (s.rS 7).toNat % 2 ^ 24, sstride := 64, dstride := 64, from_ := a, to_ := b } : Copy)
    let k := fun (s : State) (a b : Space) => (copyTraps s 5 (c s a b)).map fun t => t.kind
    let one := copier 0x0001000000000004
    let off := one.onTeam fun t => { t with sbanks := SMap.set .full [] 0 .off }
    .illegalInstruction ∈ k (copier 0x0001000001000004) .global .scratch ∧ .illegalInstruction ∈ k (copier 0x0001000000000004 0x40000000) .global .scratch
    ∧ litBarTraps (copier 0x0001000000000004 0x80000008) ≠ [] ∧ litBarTraps (copier 0x0001000000000004 0x80000010) = [] ∧ .misaligned ∈ k (copier 0x0001000000000002) .global .scratch
    ∧ .accessFault ∈ k (copier 4) .global .scratch ∧ .accessFault ∈ k (copier 0x0001000000FFFFFC) .global .scratch ∧ .deadRead ∈ k off .scratch .global ∧ .tileFormat ∈ k one .xbuf .global
    ∧ .tileLive ∈ k (one.onTeam fun t => { t with tiles := [{ id := 0, kind := .s32, off := 0x1000, rows := 8, cols := 1, planes := 0, state := 2 }] }) .xbuf .global
    ∧ litTraps 0x80000010 true = [] ∧ litTraps 0xC0000010 true ≠ [] ∧ litTraps 0x00100000 false ≠ [] ∧ litTraps 7 false ≠ []
    ∧ (∀ s ∈ [copier 4, copier 0x0001000001000004, one], goes [.cpG2s 5 0, .cpS2g 5 0, .cpG2a 5 0, .cpG2w 5 0, .cpX2g 5 0, .cpG2g 5 0, .gth 5 0, .cpCirc 5 0, .cbWait 1 5, .cbFree 5] s = true) := by decide +kernel
/-- Circular descriptors that fail; a gth that fails. -/
theorem witness_GatherAndCircularWordsIssue_traps :
    let k := fun (s : State) (a : Nat) => (circTraps s a fun d => [d.filled]).map fun t => t.kind
    k ringed 65 ≠ [] ∧ .misaligned ∈ k ringed 72 ∧ .accessFault ∈ k ringed (8 * 4096 - 16) ∧ .accessFault ∈ k base 64 ∧ .deadRead ∈ k (ringed.onTeam fun t => { t with sbanks := SMap.set .full [] 0 .off }) 64
    ∧ (ringed.circAt 64).low / 2 = 0 ∧ (ringed.circAt 64).filled % 16 = 0 := by decide +kernel
/-- A slot of another seat, one out of service and one past the last. -/
theorem witness_RingWordsIssue_stops :
    let s := fun (v : W64) => (barred.onGroup fun g => { g with regs := scal [(1, v), (4, 16), (6, 0x1000)] })
    let mine := fun (s : State) => { s with seats := s.seats.map fun x => { x with pl := { x.pl with dmap := 1 } } }
    let out := { s 7 with slots := [(7, { state := 3 })] }
    576 ≤ ((s 576).rS 1).toNat ∧ ((mine (s 5)).rS 1).toNat < 576 ∧ (mine (s 5)).seat.pl.dmap.getLsbD (5 % 64) = false ∧ out.seat.pl.dmap.getLsbD (7 % 64) = true ∧ (out.slot 7).state = 3
    ∧ (∀ t ∈ [s 576, mine (s 5), out], t.cur.live = true ∧ ([.sgAlight 6 1, .sgRev 6 1, .sgCap 6 1 true, .sgBoard 6 1, .sgMod 6 1 .add32 7 .rlx, .sgArm 4 1 .eq 0].all fun i => (trapAfter (exec i t)).isSome) = true) := by decide +kernel
/-- Doorbells that find work, none, too much and a halted queue; completions with room and without; deliveries of a seated and an unseated seat. -/
theorem witness_QueueEventsAct_entries :
    let q := queued 0 0 0
    let full := { q with mem := Memory.write q.mem 0x5000 8 0 }
    let stopped := q.setQState queue0 2 0
    let c : Completion := { vf := 0, rcb := 0x4000, cqBase := 0x6000, cqLog := 0, queue := 0, status := 0, info := 0 }
    let g : Grid := { id := 7, seat := 0, region := {}, kernel := {}, params := [], gx := 1, gy := 1, gz := 1, launcher := .host 0 0 true 7, ready := true }
    let d := fun (g : Grid) => { q with grids := [g] }
    let off := { d g with seats := (d g).seats.map fun x => { x with seated := false } }
    q.findQueue 0 0 = some queue0 ∧ q.qHead queue0 ≠ 1 ∧ q.qState queue0 ≠ 2 ∧ q.qHead queue0 = 0 ∧ stopped.qState queue0 = 2 ∧ 2 ^ q.qLog queue0 < 0x7FFFFFFF ∧ Memory.wf q.mem = true ∧ queue0.addr % 64 = 0
    ∧ runs [.doorbellWrite 0 0 0, .doorbellWrite 0 0 1, .doorbellWrite 0 0 0x7FFFFFFF] q = true ∧ runs [.doorbellWrite 0 0 1] stopped = true ∧ full.findQueue 0 0 = some queue0
    ∧ (({ q with completions := [c] } : State).completions.find? fun (c : Completion) => c.rcb == 0x4000) = some c ∧ (0 + 2 ^ 32 - 0) % 2 ^ 32 < 2 ^ (c.cqLog + 4) ∧ runs [.completionWrite 0x4000, .cqdoneReread] { q with completions := [c] } = true
    ∧ 2 ^ (c.cqLog + 4) ≤ (16 + 2 ^ 32 - (Memory.read32 q.mem (0x4000 + 28)).toNat) % 2 ^ 32 ∧ runs [.completionWrite 0x4000] { q with completions := [c], cqSeq := SMap.set 0 [] 0x4000 16 } = true
    ∧ (({ q with completions := [c], agenda := [(5, .cqdoneReread)] } : State).agenda.any fun e => e.2 == .cqdoneReread) = true ∧ runs [.completionWrite 0x4000] { q with completions := [c], cqSeq := SMap.set 0 [] 0x4000 16, agenda := [(5, .cqdoneReread)] } = true
    ∧ (d g).g % Config.frame = 0 ∧ ((d g).findSeat 0).map (fun x => (x.seated, decide (shapeSize g.shape ≤ x.coreList.length))) = some (true, true) ∧ (off.findSeat 0).map (·.seated) = some false
    ∧ (d g).poolRoom 0 g.region = true ∧ runs [.launchDelivery 7] (d g) = true ∧ runs [.launchDelivery 7] off = true ∧ runs [.launchDelivery 7] (d { g with placed := true }) = true
    ∧ runs [.launchDelivery 7] (d { g with delivered := true, shape := some (3, 1, 1) }) = true ∧ runs [.launchDelivery 7] (d { g with delivered := true, mode := { twin := true } }) = true
    ∧ runs [.launchDelivery 7] { d g with grids := [{ g with id := 6 }, g] } = true ∧ (let z := { d g with seats := (d g).seats.map fun x => { x with pl := { x.pl with poolq := 0 } } }
      z.poolRoom 0 g.region = false ∧ runs [.launchDelivery 7] z = true) := by decide +kernel
/-- A LAUNCH whose fields are legal, and ones that are not; objects in place, and one on a page that is absent. -/
theorem witness_QueueEventsAct_launch :
    let s := fun (kd pa ext : Nat) => let q := queued 1 kd pa; { q with mem := Memory.write q.mem 0x6018 8 ext }
    let w := 1 + 0x10000 + 0x100000000
    let a := s 0x7000 0x8000 w
    let at_ := fun (s : State) (va n : Nat) => s.reachBytes queue0 (((s.qRegion queue0).map fun r => r.2.asid).getD 0) n va []
    served a (some 1) = true ∧ extReserved (a.qWord 0x6000 3) (a.qWord 0x6000 4) = true ∧ extLegal (a.qWord 0x6000 3) = true ∧ extLegal ((s 0x7000 0x8000 0).qWord 0x6000 3) = false
    ∧ (match at_ a 0x7000 64 with | .inl l => l.length == 64 | .inr _ => false) = true ∧ (match at_ a 0x40000000 64 with | .inr (.wait v) => v == 0x40000000 | _ => false) = true
    ∧ runs [.queueLaunch 0 0] (s 0x7000 0x8000 0) = true ∧ runs [.queueLaunch 0 0] (s 0x7010 0x8000 w) = true ∧ runs [.queueLaunch 0 0] (s 0x7000 0x8004 w) = true := by decide +kernel
/-- LEASE, POWERCAP and SEATFLOOR: accepted, and refused for each reason; a change that waits for its frame. -/
theorem witness_MailboxCommandsAct_limits :
    let seat := fun (n : Nat) (m : W64) => ({ num := n, pl := { dmap := m }, seated := true, floor := some (3, 500) } : Seat)
    let s := { ready with seats := [seat 3 0xFF, seat 4 0xFF00] }
    let d := { s with power := { s.power with degrade := true } }
    let p := { s with power := { s.power with pending := [.cap 600 true, .floor 3 1 20] } }
    s.host.dstate = 3 ∧ s.leased 3 = false ∧ (s.findSeat 3).map (fun x => 0x0F &&& ~~~x.pl.dmap) = some 0 ∧ s.need = 1420 ∧ s.afterPower = s ∧ p.afterPower.power.cap = 600 ∧ p.afterPower.need = 940
    ∧ s.mailFrame + 2 ≤ 9 ∧ ¬s.mailFrame + 2 ≤ 1 ∧ s.power.degrade = false ∧ 420 ≤ 421 ∧ 421 < s.afterPower.need ∧ s.afterPower.need ≤ 2800
    ∧ ((s.afterPower.mapSeat 3 fun x => { x with floor := some (3, 5000) }).need > s.power.cap)
    ∧ runs [.lease 3 4 0x0F 9 1, .lease 3 4 0x0F 1 1, .lease 3 4 0x0F 9 0, .lease 3 4 0xF000 9 1, .lease 3 3 0x0F 9 1, .lease 3 16 0x0F 9 1, .lease 3 7 0x0F 9 1, .lease 15 4 0x0F 9 1, .powercap 419 true, .powercap 421 false, .powercap 421 true,
      .powercap 9999 false, .seatfloor 9 1 1, .seatfloor 3 1 0, .seatfloor 3 3 5000] s = true ∧ runs [.seatfloor 3 3 5000] d = true ∧ runs [.powercap 940 false] p = true := by decide +kernel
/-- A window that is opened, closed, replaced and refused; a placement record that is sound, and records that are not. -/
theorem witness_MailboxCommandsAct_places :
    let s := { ready with windows := [{ port := 1, entry := 2, base := 0, len := 2097152, rd := true, wr := true }] }
    runs [.linkopen 1 2 0 0 true true, .linkopen 1 2 2097152 2097152 true false, .linkopen 1 3 1 2097152 true true, .linkopen 1 3 0 (2 ^ 60) true true] s = true
    ∧ (0 % 2 ^ 21 = 0 ∧ 2097152 % 2 ^ 21 = 0 ∧ ¬Config.deviceBytes < 0 + 2097152) ∧ Config.deviceBytes < 0 + 2 ^ 60
    ∧ runs [.admitSeat 9 0xB000, .admitSeat 0 0xB020] s = true ∧ (0xB020 : Nat) % 64 ≠ 0 := by decide +kernel
/-- A full inbox and one with room; a request of two lines; a read that ends, one that goes on, a write, an atomic; a link that trains; a leaf that stays hot. -/
theorem witness_DeviceEventsAct_requests :
    let m : Mail := { core := 1, words := [], frame := 0 }
    let crowded := { working [] with mail := List.replicate 16 m }
    let v := fun (k : Inbound) (n : Nat) => ({ id := 60, kind := k, places := [.dev 0x1000, .dev 0x1004], got := [], left := n } : Visit)
    let r : Req := { reqAt 51 60 .visit with performed := true, seat := 15 }
    let s := fun (k : Inbound) (n : Nat) => { (working [] [r]) with visits := [v k n] }
    (crowded.mail.filter fun (q : Mail) => q.core == 1).length = 16 ∧ crowded.host.busy = false ∧ runs [.registerWrite 0x1080 1, .registerWrite 0x1080 4] crowded = true
    ∧ ((s .read 1).dropReq 51).visits.find? (fun (v : Visit) => v.id == r.owner) = some (v .read 1) ∧ (v .read 1).inLine r.place.lineNo ≠ [] ∧ (v .read 2).left = 2
    ∧ ((([Phys.dev 0x1000, .dev 0x1080].map Phys.lineNo).eraseDups).length = 2) ∧ ((s .read 1).visit .read [.dev 0x1000, .dev 0x1080]).reqs.length = 3
    ∧ (s .read 1).visited r ≠ s .read 1 ∧ ((s (.atomic .add32 1 1) 1).visited r).visits = [] ∧ runs [.linkRetrain 8 64, .colalmTraining 2 true 9] (s .read 1) = true
    ∧ runs [.colalmTraining 2 true 9, .colalmTraining 2 false 9] ({ working [] with host := { (working []).host with links := List.replicate 8 (1, 0) } }) = true := by decide +kernel
/-- Measurements of a sound and of a failed start. -/
theorem witness_DeviceEventsAct_reports :
    let bad := { ready with host := { ready.host with dstate := 4, failCode := 1 } }
    (∀ s ∈ [ready, bad], runs [.spdmRequest 1 5, .spdmRequest 2 5, .spdmRequest 3 5, .spdmRequest 4 5, .mctpStatus] s = true)
    ∧ bad.host.dstate = 4 ∧ ready.statusReply.length = 8 := by decide +kernel

end Sys2Proof.Tests
end

section
/-! The proofs of the statements of spec/00_scope.md: what a step does to the focus and to every memory. -/
namespace Sys2Proof.Proofs
open Sys2Proof Sys2Proof.Machine Sys2Proof.Laws

/-! ### One step -/

/-- What a step answers, by what it finds: a due event runs its row, else the picked candidate acts, else the next cycle begins. -/
theorem step_cases {s : State} {P : Out → Prop} (event : ∀ e, s.nextDue = some e → P (onNext (exec e.2.row (s.take e)) State.clear))
    (unit : ∀ c f a, s.pick = some (c, f, a) → P (act exec c f a)) (tick : P (.next s.tick)) : P (step s) := by
  unfold step
  split
  · exact event _ ‹_›
  · split
    · exact unit _ _ _ ‹_›
    · exact tick

/-- A due event runs its row to a next state, and its row puts no split in focus. -/
theorem eventRow_next (e : Nat × Event) {s : State} (h : LiveIs false s) : ∃ t, exec e.2.row (s.take e) = .next t ∧ LiveIs false t := by
  obtain ⟨t, ht⟩ := exec_row_next e.2 (s := s.take e) rfl
  have hl : OutLive false (exec e.2.row (s.take e)) := exec_row_live e.2 h
  rw [ht] at hl
  exact ⟨t, ht, hl⟩

/-- Settles O59: an event at hand, a picked candidate and the next cycle each answer a next state with no split in focus. -/
theorem everyStepCompletes : Obligations.EveryStepCompletes := by
  intro s h
  refine step_cases (P := fun o => ∃ t, o = .next t ∧ t.cur.live = false) (fun e _ => ?_) (fun c f a hp => ?_) ⟨_, rfl, h⟩
  · obtain ⟨t, ht, hl⟩ := eventRow_next e h
    rw [ht]
    exact ⟨_, rfl, hl⟩
  · exact act_next (State.pick_live hp) c a

/-- Settles O60: the row of a due event, the picked candidate and the next cycle each keep every memory's form. -/
theorem stepKeepsMemoryForm : Obligations.StepKeepsMemoryForm := by
  intro s t h
  refine step_cases (P := fun o => o = .next t → t.memWf = true) (fun e _ => ?_) (fun c f a hp => ?_) ?_
  · exact onNext_outWf (exec_memWf _ _ (State.take_memWf h e)) (fun _ hr => State.clear_memWf hr) t
  · exact act_memWf exec_memWf (State.pick_memWf h hp) c a t
  · exact outWf_next (State.tick_memWf h) t

end Sys2Proof.Proofs
end

section
/-! What a vector word with a 32-bit destination leaves as it was (R5, R68, R212). -/
namespace Sys2Proof.Proofs
open Sys2Proof Sys2Proof.Machine Sys2Proof.Laws

/-! ### Vector registers after a write of lanes and after a wake -/

/-- Dropping the entries of some keys empties those keys and leaves the others, whatever the form of the map. -/
theorem get_filter_key {α : Type} (d : α) (q : Nat → Bool) (m : SMap α) (k : Nat) :
    SMap.get d (m.filter fun p => q p.1) k = if q k then SMap.get d m k else d := by
  induction m with
  | nil => simp [SMap.get]
  | cons p m ih =>
    obtain ⟨j, v⟩ := p
    by_cases hk : k = j
    · subst hk
      cases hq : q k <;> simp [hq, SMap.get, ih]
    · cases hq : q j <;> simp [hq, SMap.get, hk, ih]

/-- A write of lanes leaves every other lane of every register, whatever the form of the registers. -/
theorem getV_setVs_ne {r : Regs} {n m K : Nat} {l : List Nat} (f : Nat → W32) (hl : ∀ L ∈ l, L < 32) (hK : K < 32) (h : ¬(m = n ∧ K ∈ l)) :
    (r.setVs n l f).getV m K = r.getV m K := by
  unfold Regs.setVs
  induction l generalizing r with
  | nil => rfl
  | cons L l ih =>
    have hL := hl L (List.mem_cons_self ..)
    have hk : 32 * m + K ≠ 32 * n + L := fun e => h ⟨by omega, by rw [show K = L by omega]; exact List.mem_cons_self ..⟩
    rw [List.foldl_cons, ih (fun x hx => hl x (List.mem_cons_of_mem _ hx)) fun e => h ⟨e.1, List.mem_cons_of_mem _ e.2⟩]
    exact get_set_ne 0 _ hk

/-- A zeroed bank reads zero; the other banks read as before (R68). -/
theorem getV_zeroBank (g : Group) (b n : Nat) {L : Nat} (hL : L < 32) :
    (g.zeroBank b).regs.getV n L = if bankOf n = b then 0 else g.regs.getV n L := by
  have hk : (32 * n + L) / 256 = bankOf n := by unfold bankOf; omega
  have h := get_filter_key (0 : W32) (fun k => k / 256 != b) g.regs.v (32 * n + L)
  simp only [hk, bne_iff_ne, ne_eq, ite_not] at h
  exact h

/-- Bank `b` is Off and no wake of it is in progress: a write of one of its registers finds it zeroed (R68). -/
def Zeroes (g : Group) (b : Nat) : Prop := g.bank b = .off ∧ g.waking b = none

/-- A wake that meets no Off bank, or one that wakes already, leaves the registers. -/
theorem regs_wakeBank {s : State} {b : Nat} (h : ¬Zeroes s.cur.group b) : (s.wakeBank b).cur.group.regs = s.cur.group.regs := by
  unfold State.wakeBank
  dsimp only
  split
  · rfl
  next hw =>
    split
    next hb => simp [State.at, State.onGroup, Group.startWake, hb]
    next hb => exact absurd ⟨hb, by simpa using hw⟩ h
    · rfl
/-- A wake of an Off bank zeroes it. -/
theorem regs_wakeBank_zeroes {s : State} {b : Nat} (h : Zeroes s.cur.group b) :
    (s.wakeBank b).cur.group.regs = (s.cur.group.zeroBank b).regs := by
  obtain ⟨hb, hw⟩ := h
  simp [State.wakeBank, hb, hw, State.at, State.onGroup, Group.startWake]
/-- Where a wake does not zero the bank of register `n`, the register reads as before. -/
theorem getV_wakeBank {s : State} {b n L : Nat} (hL : L < 32) (h : Zeroes s.cur.group b → bankOf n ≠ b) :
    (s.wakeBank b).cur.group.regs.getV n L = s.cur.group.regs.getV n L := by
  by_cases z : Zeroes s.cur.group b
  · rw [regs_wakeBank_zeroes z, getV_zeroBank _ _ _ hL, if_neg (h z)]
  · rw [regs_wakeBank z]

/-! ### Words that write the active lanes of one vector register -/

/-- The lanes that are active do not change while banks wake: neither the splits nor the counters do. -/
theorem isActive_of_wakeFrame {s u : State} (h : WakeFrame s u) (L : Nat) : u.isActive L = s.isActive L := by
  have hs : u.srcG.splits = s.srcG.splits ∧ u.srcG.regs.nest = s.srcG.regs.nest := by
    unfold State.srcG
    rw [h.src]
    cases s.cur.src with
    | none => exact ⟨h.splits, h.regs_nest⟩
    | some g => exact ⟨rfl, rfl⟩
  have hl : u.lanes = s.lanes := by unfold State.lanes; rw [h.split, hs.1]
  have hn : u.rN L = s.rN L := by unfold State.rN State.src Regs.getN; rw [hs.2]
  unfold State.isActive
  rw [hl, hn]

/-- The one effect of the word, past its register checks, is a write of the active lanes of `d`, the only register it writes. -/
def WritesLanes (i : Instr) (d : VReg) : Prop :=
  (uses i).wv = [d.val] ∧ ∀ s : State, ∃ F : State → State, exec i s = runPure i s F ∧ ∀ u, ∃ f, F u = u.setLanes d f

/-- A ready word that writes lanes: the destination's bank wakes, then the lanes active at issue are written. -/
theorem WritesLanes.next {i : Instr} {d : VReg} {s t : State} (hi : WritesLanes i d) (hr : Ready i s) (h : exec i s = .next t) :
    ∃ f, t = (s.wakeBank (bankOf d)).wVs d s.active f := by
  obtain ⟨hw, hx⟩ := hi
  obtain ⟨F, hF, hf⟩ := hx s
  have ha : s.acting i = s.wakeBank (bankOf d) := by simp [State.acting, State.wakeFor, hw]
  have hact : (s.wakeBank (bankOf d)).active = s.active :=
    List.filter_congr fun L _ => isActive_of_wakeFrame (wakeBank_frame s _) L
  obtain ⟨f, hf⟩ := hf (s.wakeBank (bankOf d))
  rw [hF, runPure_next hr, ha, hf, State.setLanes, hact] at h
  cases h
  exact ⟨f, rfl⟩

/-! The shapes of the words (R212, R227, R234, R236, R237, R243) are each such a write. -/

theorem WritesLanes.of {i : Instr} {d : VReg} {f : State → State → Nat → W32} (hw : (uses i).wv = [d.val])
    (hx : ∀ s, exec i s = runPure i s fun u => u.setLanes d (f s u)) : WritesLanes i d :=
  ⟨hw, fun s => ⟨_, hx s, fun _ => ⟨_, rfl⟩⟩⟩

section Shapes
variable {i : Instr} {d a : VReg} {b : BSel} (hw : (uses i).wv = [d.val])
include hw
theorem writesLanes_vector1 {f : W32 → W32} (hx : ∀ s, exec i s = vector1 i d a f s) : WritesLanes i d := .of hw hx
theorem writesLanes_vector2 {f : W32 → W32 → W32} (hx : ∀ s, exec i s = vector2 i d a b f s) : WritesLanes i d := .of hw hx
theorem writesLanes_vector3 {f : State → W32 → W32 → W32 → W32} (hx : ∀ s, exec i s = vector3 i d a b (f s) s) : WritesLanes i d := .of hw hx
theorem writesLanes_shuffle {r : Nat → Nat → Nat} (hx : ∀ s, exec i s = shuffle i d a b r s) : WritesLanes i d := .of hw hx
theorem writesLanes_float3 {f : W32 → W32 → W32 → W32} (hx : ∀ s, exec i s = float3 i d a b f s) : WritesLanes i d := .of hw hx
theorem writesLanes_packed3 {bf : Bool} {f : Val → Val → Val → Val} (hx : ∀ s, exec i s = packed3 i d a b bf f s) : WritesLanes i d := .of hw hx
theorem writesLanes_special1 {f : Val → Nat} (hx : ∀ s, exec i s = special1 i d a f s) : WritesLanes i d := .of hw hx
theorem writesLanes_quantise {t : QTarget} (hx : ∀ s, exec i s = quantise i d a b t s) : WritesLanes i d := .of hw hx
end Shapes

/-- Memory reads the same where every memory is the same. -/
theorem readAt_congr {s t : State} (hd : t.mem = s.mem) (hh : t.hostMem = s.hostMem) (hp : t.peerMem = s.peerMem) (p : Phys) (n : Nat) :
    t.readAt p n = s.readAt p n := by
  cases p <;> simp only [State.readAt, hd, hh, hp]

/-- Settles O14: a word of the list wakes its destination's bank and writes its active lanes, and these two change nothing else. -/
theorem vectorWordsFrame : Obligations.VectorWordsFrame := by
  intro s t i d a b q c m e j x o hr h hi
  have hd : WritesLanes i d := by
    refine (?_ : ∀ i ∈ _, WritesLanes i d) i hi
    simp only [List.forall_mem_cons, List.not_mem_nil, false_imp_iff, implies_true, and_true]
    exact
      ⟨writesLanes_vector2 rfl (exec_vadd _ _ _), writesLanes_vector2 rfl (exec_vaddSatS _ _ _),
       writesLanes_vector2 rfl (exec_vaddSatZ _ _ _), writesLanes_vector2 rfl (exec_vsub _ _ _),
       writesLanes_vector2 rfl (exec_vsubSatS _ _ _), writesLanes_vector2 rfl (exec_vsubSatZ _ _ _),
       writesLanes_vector2 rfl (exec_vmul _ _ _), writesLanes_vector2 rfl (exec_vmulhS _ _ _), writesLanes_vector2 rfl (exec_vmulhZ _ _ _),
       writesLanes_vector2 rfl (exec_vminS _ _ _), writesLanes_vector2 rfl (exec_vminZ _ _ _), writesLanes_vector2 rfl (exec_vmaxS _ _ _),
       writesLanes_vector2 rfl (exec_vmaxZ _ _ _), writesLanes_vector2 rfl (exec_vand _ _ _), writesLanes_vector2 rfl (exec_vor _ _ _),
       writesLanes_vector2 rfl (exec_vxor _ _ _), writesLanes_vector2 rfl (exec_vandn _ _ _), writesLanes_vector2 rfl (exec_vshl _ _ _),
       writesLanes_vector2 rfl (exec_vshrZ _ _ _), writesLanes_vector2 rfl (exec_vshrS _ _ _), writesLanes_vector2 rfl (exec_vrot _ _ _),
       writesLanes_vector3 rfl (exec_vlut3 _ _ _), writesLanes_vector1 rfl (exec_vpopc _ _), writesLanes_vector1 rfl (exec_vclz _ _),
       writesLanes_vector1 rfl (exec_vctz _ _), writesLanes_vector1 rfl (exec_vbrev _ _), writesLanes_vector2 rfl (exec_vbfxZ _ _ _),
       writesLanes_vector2 rfl (exec_vbfxS _ _ _), writesLanes_vector3 rfl (exec_vbfi _ _ _), writesLanes_vector1 rfl (exec_vaddi _ _ _),
       .of rfl (exec_vsel _ _ _ _), writesLanes_vector1 rfl (exec_vmov _ _), .of rfl (exec_vlit _ _), .of rfl (exec_vlaneid _),
       .of rfl (exec_vballot _ _), .of rfl (exec_vmrank _ _), .of rfl (exec_vmrankInc _ _), writesLanes_shuffle rfl (exec_vshflIdx _ _ _),
       writesLanes_shuffle rfl (exec_vshflUp _ _ _), writesLanes_shuffle rfl (exec_vshflDown _ _ _),
       writesLanes_shuffle rfl (exec_vshflXor _ _ _), .of rfl (exec_vscan _ _ _ _), writesLanes_float3 rfl (exec_vfadd _ _ _ _),
       writesLanes_float3 rfl (exec_vfsub _ _ _ _), writesLanes_float3 rfl (exec_vfmul _ _ _ _), writesLanes_float3 rfl (exec_vfma _ _ _ _),
       writesLanes_float3 rfl (exec_vfnma _ _ _ _), writesLanes_float3 rfl (exec_vfdiv _ _ _ _), writesLanes_float3 rfl (exec_vfmin _ _ _),
       writesLanes_float3 rfl (exec_vfmax _ _ _), writesLanes_float3 rfl (exec_vfminn _ _ _), writesLanes_float3 rfl (exec_vfmaxn _ _ _),
       writesLanes_special1 rfl (exec_vfsqrt _ _), writesLanes_special1 rfl (exec_vfrcp _ _), writesLanes_special1 rfl (exec_vfrsq _ _),
       writesLanes_special1 rfl (exec_vfex2 _ _), writesLanes_special1 rfl (exec_vflg2 _ _), .of rfl (exec_vfabs _ _),
       .of rfl (exec_vfneg _ _), writesLanes_float3 rfl (exec_vfcpsgn _ _ _), writesLanes_packed3 rfl (exec_vhadd _ _ _ _),
       writesLanes_packed3 rfl (exec_vhmul _ _ _ _), writesLanes_packed3 rfl (exec_vhfma _ _ _ _),
       writesLanes_quantise rfl (exec_vquantD8 _ _ _), writesLanes_quantise rfl (exec_vquantD6 _ _ _),
       writesLanes_quantise rfl (exec_vquantM4 _ _ _), writesLanes_quantise rfl (exec_vquantS8 _ _ _)⟩
  obtain ⟨f, rfl⟩ := hd.next hr h
  have w := wakeBank_frame s (bankOf d)
  have hact : ∀ L ∈ s.active, L < 32 := fun L hL => (mem_active.1 hL).1
  have hout : ∀ {n L : Nat}, L < 32 → ¬(n = d.val ∧ s.isActive L = true) →
      ((s.wakeBank (bankOf d)).wVs d s.active f).cur.group.regs.getV n L = (s.wakeBank (bankOf d)).cur.group.regs.getV n L :=
    fun hL hn => getV_setVs_ne f hact hL fun k => hn ⟨k.1, (mem_active.1 k.2).2⟩
  refine ⟨fun n => ?_, fun n => ?_, fun L => ?_, fun n L hL hn hz => ?_, fun hz n L hL hb hn => ?_, ?_, ?_⟩
  · simp only [Regs.getS, wVs_s, w.regs_s]
  · simp only [Regs.getC, wVs_c, w.regs_c]
  · simp only [Regs.getN, wVs_nest, w.regs_nest]
  · rw [hout hL hn, getV_wakeBank hL hz]
  · rw [hout hL hn, regs_wakeBank_zeroes hz, getV_zeroBank _ _ _ hL, if_pos hb]
  · exact ⟨w.trap, w.brkctl, w.iret, w.counts, w.level, w.g, w.seats, w.power⟩
  · refine ⟨fun p => readAt_congr w.mem w.hostMem w.peerMem p 1, ?_, ?_, ?_, ?_, w.teams⟩ <;> exact congrArg _ w.team

end Sys2Proof.Proofs
end

section
/-! The register checks of every word, and the marks of what it takes besides (R7, R38, R65, R68, R76, R77). -/
namespace Sys2Proof.Proofs
open Sys2Proof Sys2Proof.Machine Sys2Proof.Laws

/-! ### Every word runs in the frame of its register checks -/

/-- An answer of a word in the frame of its register checks. -/
def Framed (i : Instr) (s : State) (o : Out) : Prop := ∃ body, o = runWord i s body

/-! The shapes of the words, each in that frame. -/

section Shapes
variable {i : Instr} {s : State}
theorem framed_runWord {b} : Framed i s (runWord i s b) := ⟨b, rfl⟩
theorem framed_runPure {f} : Framed i s (runPure i s f) := framed_runWord
theorem framed_runSup {b} : Framed i s (runSup i s b) := framed_runWord
theorem framed_scalar1 {d a f} : Framed i s (scalar1 i d a f s) := framed_runPure
theorem framed_scalar2 {d a b f} : Framed i s (scalar2 i d a b f s) := framed_runPure
theorem framed_scalarCmp {d a b f} : Framed i s (scalarCmp i d a b f s) := framed_runPure
theorem framed_readSys {d n} : Framed i s (readSys i d n s) := framed_runWord
theorem framed_setSys {a n f} : Framed i s (setSys i a n f s) := framed_runWord
theorem framed_vector1 {d a f} : Framed i s (vector1 i d a f s) := framed_runPure
theorem framed_vector2 {d a b f} : Framed i s (vector2 i d a b f s) := framed_runPure
theorem framed_vector3 {d a b f} : Framed i s (vector3 i d a b f s) := framed_runPure
theorem framed_shuffle {d a b f} : Framed i s (shuffle i d a b f s) := framed_runPure
theorem framed_float3 {d a b f} : Framed i s (float3 i d a b f s) := framed_runPure
theorem framed_double3 {d a b f} : Framed i s (double3 i d a b f s) := framed_runPure
theorem framed_packed3 {d a b h f} : Framed i s (packed3 i d a b h f s) := framed_runPure
theorem framed_special1 {d a f} : Framed i s (special1 i d a f s) := framed_runPure
theorem framed_quantise {d a b t} : Framed i s (quantise i d a b t s) := framed_runPure
theorem framed_unpack {d a w f} : Framed i s (unpack i d a w f s) := framed_runPure
theorem framed_branchIf {o p} : Framed i s (branchIf i o p s) := framed_runWord
theorem framed_vectorAccess {sp n r f mk} : Framed i s (vectorAccess i sp n r f mk s) := framed_runWord
theorem framed_vectorLoad {sp e d b o w} : Framed i s (vectorLoad i sp e d b o w s) := framed_vectorAccess
theorem framed_vectorStore {sp d b o w} : Framed i s (vectorStore i sp d b o w s) := framed_vectorAccess
theorem framed_vectorAtomic {sp d p sc r v f} : Framed i s (vectorAtomic i sp d p sc r v f s) := framed_vectorAccess
theorem framed_scalarAccess {n a mk} : Framed i s (scalarAccess i n a mk s) := framed_runWord
theorem framed_scalarLoad {d b e n} : Framed i s (scalarLoad i d b e n s) := framed_scalarAccess
theorem framed_scalarStore {d b e n} : Framed i s (scalarStore i d b e n s) := framed_scalarAccess
theorem framed_barrierWord {b v f} : Framed i s (barrierWord i b v f s) := framed_runWord
theorem framed_copyWord {f} : Framed i s (copyWord i f s) := framed_runWord
theorem framed_cpWord {k d q} : Framed i s (cpWord i k d q s) := framed_copyWord
theorem framed_joinWord {f} : Framed i s (joinWord i f s) := framed_runPure
theorem framed_ringWord {a m f} : Framed i s (ringWord i a m f s) := framed_runWord
theorem framed_matrixWord {p j f} : Framed i s (matrixWord i p j f s) := framed_runWord
theorem framed_passWord {b p r f c j} : Framed i s (passWord i b p r f c j s) := framed_matrixWord
end Shapes

/-- Every word, whatever it does, runs in the frame of its register checks. -/
theorem exec_framed (i : Instr) (hi : isEvent i = false) (s : State) : Framed i s (exec i s) := by
  unfold exec
  cases i
  case vregrp | call | jmp | brx | vif | trap | brk | pbank | cpCirc | cbWait | cbFree | launch | launchTry | amsg => exact framed_runWord
  case nop | slit | slitwZ | slitwS | slitwLo | slitwHi | sext | sextFirst | sextLast | vins | vinsAll | vcmp | vsel | vmovX64 | vlit |
    vlaneid | vballot | vmrank | vmrankInc | vfold | vscan | vfcmp | vfabs | vfneg | vdcmp | vdsqrt | vcvt | vpack | sgRevOfs | velse | vend |
    vkill | vbrk | exit | fence | waitc | vbank | eacq | eacqTry | erel | qfence | joinDoor => exact framed_runPure
  case eret | mfsys | mtsys | tlbinvVa | tlbinvAsid | tlbinvAll | seatctlEvack | seatctlKill | seatctlYield | halt => exact framed_runSup
  case saddi | sandi | sori | sxori | sshli | sshriZ | sshriS => exact framed_scalar1
  case sadd | ssub | smul | smulhS | smulhZ | sand | sor | sxor | sshl | sshrZ | sshrS | sminS | smaxS | sminZ | smaxZ | ssltS | ssltZ |
    sseq => exact framed_scalar2
  case scmpEq | scmpNe | scmpLtS | scmpLeS | scmpLtZ | scmpLeZ => exact framed_scalarCmp
  case sgetsr => exact framed_readSys
  case ssetsr | ssetsrSet | ssetsrClr => exact framed_setSys
  case vpopc | vclz | vctz | vbrev | vaddi | vmov => exact framed_vector1
  case vadd | vaddSatS | vaddSatZ | vsub | vsubSatS | vsubSatZ | vmul | vmulhS | vmulhZ | vminS | vminZ | vmaxS | vmaxZ | vand | vor | vxor
    | vandn | vshl | vshrZ | vshrS | vrot | vbfxZ | vbfxS => exact framed_vector2
  case vlut3 | vbfi => exact framed_vector3
  case vshflIdx | vshflUp | vshflDown | vshflXor => exact framed_shuffle
  case vfadd | vfsub | vfmul | vfma | vfnma | vfdiv | vfmin | vfmax | vfminn | vfmaxn | vfcpsgn => exact framed_float3
  case vdadd | vdsub | vdmul | vdfma | vddiv => exact framed_double3
  case vhadd | vhmul | vhfma => exact framed_packed3
  case vfsqrt | vfrcp | vfrsq | vfex2 | vflg2 => exact framed_special1
  case vquantD8 | vquantD6 | vquantM4 | vquantS8 => exact framed_quantise
  case vunpkZ | vunpkS => exact framed_unpack
  case br | brAny | brAll | brNone => exact framed_branchIf
  case vldZ | vldS | vlds | vlda | vldx => exact framed_vectorLoad
  case vst | vsts | vsta => exact framed_vectorStore
  case vatom | vmred | vatoms => exact framed_vectorAtomic
  case satom => exact framed_scalarAccess
  case sld | slw => exact framed_scalarLoad
  case sst | ssw => exact framed_scalarStore
  case barInit | barExpect | barArrive | barArriveExp | barWait | barTest | barPhase => exact framed_barrierWord
  case gth => exact framed_copyWord
  case cpG2s | cpS2g | cpG2a | cpG2w | cpX2g | cpG2g => exact framed_cpWord
  case join | joinAll => exact framed_joinWord
  case sgBoard | sgAlight | sgCap | sgMod | sgArm | sgRev => exact framed_ringWord
  case xcfg | xlds | xswp | xscac | xdrn | xrel => exact framed_matrixWord
  case xmm | xbmm => exact framed_passWord
  all_goals cases hi

/-! ### The trap taken among several (R7) -/

/-- The trap `t` is taken rather than `u`, or is as good: a lower kind, then a lower cause, then a lane no higher (R7). -/
def NoWorse (t u : TrapReq) : Prop :=
  trapCode t.kind < trapCode u.kind
    ∨ (trapCode t.kind = trapCode u.kind ∧ (t.cause < u.cause ∨ (t.cause = u.cause ∧ t.lane ≤ u.lane)))
theorem NoWorse.refl (t : TrapReq) : NoWorse t t := .inr ⟨rfl, .inr ⟨rfl, Nat.le_refl _⟩⟩
theorem NoWorse.trans {t u v : TrapReq} (h : NoWorse t u) (k : NoWorse u v) : NoWorse t v := by unfold NoWorse at *; omega
theorem NoWorse.kind_le {t u : TrapReq} (h : NoWorse t u) : trapCode t.kind ≤ trapCode u.kind := by unfold NoWorse at h; omega
/-- The trap that is taken is one of the list, and none of the list is better. -/
theorem firstTrap_spec {l : List TrapReq} {t : TrapReq} (h : firstTrap l = some t) : t ∈ l ∧ ∀ u ∈ l, NoWorse t u := by
  induction l generalizing t with
  | nil => cases h
  | cons a l ih =>
    unfold firstTrap at h
    split at h
    next hn =>
      cases h
      have hl : l = [] := by
        cases l with
        | nil => rfl
        | cons b l => rw [firstTrap_worst] at hn; cases hn
      subst hl
      exact ⟨List.mem_cons_self .., by simpa using NoWorse.refl a⟩
    next u hu =>
      obtain ⟨hm, hw⟩ := ih hu
      split at h
      next hb =>
        cases h
        have ha : NoWorse t a := by unfold NoWorse; omega
        exact ⟨List.mem_cons_of_mem _ hm, List.forall_mem_cons.2 ⟨ha, hw⟩⟩
      next hb =>
        cases h
        have hu : NoWorse a u := by unfold NoWorse; omega
        exact ⟨List.mem_cons_self .., List.forall_mem_cons.2 ⟨.refl a, fun v hv => hu.trans (hw v hv)⟩⟩
theorem worstTrap_mem (t : TrapReq) (ts : List TrapReq) : worstTrap t ts ∈ t :: ts := (firstTrap_spec (firstTrap_worst t ts)).1
theorem worstTrap_noWorse (t : TrapReq) (ts : List TrapReq) : ∀ u ∈ t :: ts, NoWorse (worstTrap t ts) u :=
  (firstTrap_spec (firstTrap_worst t ts)).2

/-! ### The register checks of a word -/

theorem markTrap_nil {k : TrapKind} {marks : SMap LaneMask} {lanes : LaneMask} {rv : List Nat} :
    markTrap k marks lanes rv = [] ↔ ∀ n ∈ rv, SMap.get 0 marks n &&& lanes = 0 := by
  simp [markTrap]
/-- A word passes its register checks where no bank it names is absent, and no register it reads is marked in a lane it takes or
lies in an Off bank that does not wake. -/
theorem regTraps_nil {i : Instr} {s : State} : regTraps i s = [] ↔
    (∀ n, n ∈ (uses i).rv ∨ n ∈ (uses i).wv → s.srcG.bank (bankOf n) ≠ .absent)
    ∧ ∀ n ∈ (uses i).rv, SMap.get 0 s.srcG.poison n &&& lanesTaken i s = 0 ∧ SMap.get 0 s.srcG.parity n &&& lanesTaken i s = 0
        ∧ ¬(s.srcG.bank (bankOf n) = .off ∧ s.srcG.waking (bankOf n) = none) := by
  have habs : (if ((uses i).rv ++ (uses i).wv).any fun n => s.srcG.bank (bankOf n) == .absent then [illegal 10] else []) = []
      ↔ ∀ n, n ∈ (uses i).rv ∨ n ∈ (uses i).wv → s.srcG.bank (bankOf n) ≠ .absent := by simp [or_imp, forall_and]
  have hoff : (if (uses i).rv.any fun n => s.srcG.bank (bankOf n) == .off && (s.srcG.waking (bankOf n)).isNone then [trapOf .deadRead] else []) = []
      ↔ ∀ n ∈ (uses i).rv, ¬(s.srcG.bank (bankOf n) = .off ∧ s.srcG.waking (bankOf n) = none) := by simp
  simp only [regTraps, List.append_eq_nil_iff, markTrap_nil, habs, hoff, and_assoc, forall₂_and]

/-- A word in the frame that fails a register check takes the worst trap of these checks, its own among them. -/
theorem Framed.trap {i : Instr} {s : State} {o : Out} {t : TrapReq} {ts : List TrapReq} (hf : Framed i s o) (hs : s.cur.live = true)
    (h : regTraps i s = t :: ts) : ∃ u, o = .next (s.trapWord u) ∧ (u = worstTrap t ts ∨ ∃ e, u = worstTrap e (t :: ts)) := by
  obtain ⟨body, rfl⟩ := hf
  unfold runWord
  rw [if_pos hs, h]
  cases body (s.wakeFor (uses i).wv) with
  | ok v => exact ⟨_, rfl, .inl rfl⟩
  | error e => exact ⟨_, rfl, .inr ⟨e, rfl⟩⟩
/-- A word without a check of its own that fails a register check takes the worst of their traps. -/
theorem runPure_trap {i : Instr} {s : State} {f : State → State} {t : TrapReq} {ts : List TrapReq} (hs : s.cur.live = true)
    (h : regTraps i s = t :: ts) : runPure i s f = .next (s.trapWord (worstTrap t ts)) := by
  unfold runPure runWord
  rw [if_pos hs, h]
theorem WritesLanes.trap {i : Instr} {d : VReg} {s : State} {t : TrapReq} {ts : List TrapReq} (hi : WritesLanes i d)
    (hs : s.cur.live = true) (h : regTraps i s = t :: ts) : exec i s = .next (s.trapWord (worstTrap t ts)) := by
  obtain ⟨F, hF, _⟩ := hi.2 s
  rw [hF, runPure_trap hs h]
/-- The row of an event names no vector register. -/
theorem uses_event {i : Instr} (hi : isEvent i = true) : (uses i).rv = [] ∧ (uses i).wv = [] := by
  cases i <;> try cases hi
  all_goals exact ⟨rfl, rfl⟩
/-- An instruction that fails a register check is a word, and takes the worst trap of its checks. -/
theorem exec_trap {i : Instr} {s : State} {t : TrapReq} {ts : List TrapReq} (hs : s.cur.live = true) (h : regTraps i s = t :: ts) :
    ∃ u, exec i s = .next (s.trapWord u) ∧ (u = worstTrap t ts ∨ ∃ e, u = worstTrap e (t :: ts)) := by
  cases hi : isEvent i with
  | false => exact (exec_framed i hi s).trap hs h
  | true =>
    obtain ⟨hr, hw⟩ := uses_event hi
    rw [regTraps_bare hr hw] at h
    cases h

/-! ### What a word reads besides vector registers (R76) -/

/-- No stretch of the scratchpad that the ranges touch is marked. -/
def Clean (s : State) (l : List (Nat × Nat)) : Prop := ∀ k ∈ touched 64 l, k ∉ s.cur.team.spoison
theorem clean_iff {s : State} {l : List (Nat × Nat)} : ((touched 64 l).any s.cur.team.spoison.contains) = true ↔ ¬Clean s l := by
  simp [Clean]
/-- No scalar, condition or counter that the word takes is marked. -/
theorem uniformMarks_nil {s : State} {w : W32} {i : Instr} :
    ((uniformReads s w i).filter fun q => SMap.get 0 s.srcG.poison q.1 &&& q.2 != 0) = [] ↔
      (∀ n ∈ (uses i).rs, n ≠ 0 → SMap.get 0 s.srcG.poison (128 + n) = 0) ∧ (∀ n ∈ (uses i).rc, n ≠ 7 → SMap.get 0 s.srcG.poison (192 + n) = 0)
      ∧ (readsNest w i = true → SMap.get 0 s.srcG.poison 200 &&& s.lanes = 0) := by
  have hnest : ((if readsNest w i then [(markN, s.lanes)] else []).filter fun q => SMap.get 0 s.srcG.poison q.1 &&& q.2 != 0) = [] ↔
      (readsNest w i = true → SMap.get 0 s.srcG.poison 200 &&& s.lanes = 0) := by
    cases readsNest w i <;> simp [markN]
  have hkeys : ∀ (l : List Nat) (z k : Nat), (l.filter (· != z)).filter
      ((fun q => SMap.get 0 s.srcG.poison q.1 &&& q.2 != 0) ∘ fun n => (k + n, BitVec.allOnes 32)) = [] ↔
      ∀ n ∈ l, n ≠ z → SMap.get 0 s.srcG.poison (k + n) = 0 := fun l z k => by
    simp only [List.filter_eq_nil_iff, List.mem_filter, Function.comp_apply, BitVec.and_allOnes, bne_iff_ne, not_not, and_imp, ne_eq]
  simp only [uniformReads, List.filter_append, List.append_eq_nil_iff, List.filter_map, List.map_eq_nil_iff, and_assoc, hnest]
  exact and_congr (hkeys _ 0 128) (and_congr_left fun _ => hkeys _ 7 192)
theorem uncorrectables_nil {s : State} {w : W32} {i : Instr} : uncorrectables s w i = [] ↔
    (∀ n ∈ (uses i).rs, n ≠ 0 → SMap.get 0 s.srcG.poison (128 + n) = 0) ∧ (∀ n ∈ (uses i).rc, n ≠ 7 → SMap.get 0 s.srcG.poison (192 + n) = 0)
    ∧ (readsNest w i = true → SMap.get 0 s.srcG.poison 200 &&& s.lanes = 0) ∧ markedTraps s i = [] := by
  simp only [uncorrectables, List.append_eq_nil_iff, List.map_eq_nil_iff, uniformMarks_nil, and_assoc]

/-- A lane of an access by lanes reads a marked stretch, inside the share. -/
def LaneMarked (s : State) (a : Nat → Int) (n L : Nat) : Prop :=
  ¬(inShare s.cur.team .scratch (a L) n = true → Clean s [((a L).toNat, n)])
/-- The traps of an access by lanes are those of its marked lanes. -/
theorem mem_laneMarks {s : State} {a : Nat → Int} {n : Nat} {u : TrapReq} :
    u ∈ (s.active.filter fun L => inShare s.cur.team .scratch (a L) n && (touched 64 [((a L).toNat, n)]).any s.cur.team.spoison.contains).map
        (laneTrap .registerUncorrectable) ↔
      ∃ L ∈ s.active, LaneMarked s a n L ∧ u = laneTrap .registerUncorrectable L := by
  simp only [List.mem_map, List.mem_filter, Bool.and_eq_true, clean_iff, LaneMarked, Classical.not_imp, and_assoc, @eq_comm _ u]
theorem markedTraps_vlds {s : State} {d : VReg} {b : SReg} {o : VReg} {w : Width} {u : TrapReq} : u ∈ markedTraps s (.vlds d b o w) ↔
    ∃ L ∈ s.active, LaneMarked s (vecAddr s b o) (widthBytes w) L ∧ u = laneTrap .registerUncorrectable L := mem_laneMarks
theorem markedTraps_vatoms {s : State} {d a : VReg} {p : AOp} {sc : Scope} {r : Ord} {u : TrapReq} :
    u ∈ markedTraps s (.vatoms d a p sc r) ↔
      ∃ L ∈ s.active, LaneMarked s (fun L => ((s.rV a L).toNat : Int)) (aopBytes p) L ∧ u = laneTrap .registerUncorrectable L := mem_laneMarks
/-- Every other word traps once where a stretch it takes is marked. -/
theorem markedTraps_other {s : State} {i : Instr} (h1 : ∀ d b o w, i ≠ .vlds d b o w) (h2 : ∀ d a p sc r, i ≠ .vatoms d a p sc r) :
    (Clean s (scratchTaken s i) → markedTraps s i = []) ∧ (¬Clean s (scratchTaken s i) → markedTraps s i = [trapOf .registerUncorrectable]) := by
  have h : markedTraps s i = if ((touched 64 (scratchTaken s i)).any s.cur.team.spoison.contains) = true then [trapOf .registerUncorrectable] else [] := by
    unfold markedTraps
    split
    · exact absurd rfl (h1 _ _ _ _)
    · exact absurd rfl (h2 _ _ _ _ _)
    · rfl
  rw [h]
  exact ⟨fun hc => if_neg fun e => clean_iff.1 e hc, fun hc => if_pos (clean_iff.2 hc)⟩
/-- A word that takes an uncorrectable error runs no further than to its own trap, and the worst of the traps is taken. -/
theorem checked_trap {s r : State} {w : W32} {i : Instr} {t : TrapReq} {ts : List TrapReq} (h : uncorrectables s w i = t :: ts)
    (hr : exec i s = .next r) : checked exec w i s = .next (s.trapWord (worstTrap t (ts ++ r.cur.trap.toList))) := by
  simp only [checked, h, hr]

/-- Settles O15: the register checks read out of their definition, the frame that every word runs in, and the marks looked at before. -/
theorem registerChecksOfEveryWord : Obligations.RegisterChecksOfEveryWord := by
  refine ⟨fun i s => regTraps_nil, fun s d a b m t ts hs => ⟨?_, fun i => exec_trap hs, fun w i => uncorrectables_nil, ⟨?_, ?_, ?_⟩,
    fun w i r => checked_trap, worstTrap_mem t ts, fun u hu => (worstTrap_noWorse t ts u hu).kind_le⟩⟩
  · refine fun i hi => WritesLanes.trap (d := d) ?_ hs
    refine (?_ : ∀ i ∈ _, WritesLanes i d) i hi
    simp only [List.forall_mem_cons, List.not_mem_nil, false_imp_iff, implies_true, and_true]
    exact ⟨writesLanes_vector2 rfl (exec_vadd _ _ _), writesLanes_vector2 rfl (exec_vsub _ _ _), writesLanes_vector2 rfl (exec_vmul _ _ _),
      writesLanes_vector2 rfl (exec_vand _ _ _), writesLanes_vector2 rfl (exec_vshl _ _ _), writesLanes_vector1 rfl (exec_vmov _ _),
      writesLanes_vector1 rfl (exec_vpopc _ _), writesLanes_float3 rfl (exec_vfadd _ _ _ _), writesLanes_float3 rfl (exec_vfma _ _ _ _)⟩
  · exact fun d b o w u => markedTraps_vlds
  · exact fun d a p sc r u => markedTraps_vatoms
  · exact fun i h1 h2 => markedTraps_other h1 h2

end Sys2Proof.Proofs
end

section
/-! A write of bytes, and the bytes that a store request writes (R6, R155, R246). -/
namespace Sys2Proof.Proofs
open Sys2Proof Sys2Proof.Machine Sys2Proof.Laws

/-! ### Places as keys of a memory -/

/-- The memory in which a place lies: device, host or the peers' (log 1, R412). -/
def memoryOf (s : State) : Phys → Memory
  | .dev _ => s.mem
  | .host _ => s.hostMem
  | .peer _ _ => s.peerMem
/-- The key of a place in its memory; a peer's memory is keyed port · 2^45 + address (R412). -/
def keyOf : Phys → Nat
  | .dev a => a
  | .host a => a
  | .peer q a => q * 2 ^ 45 + a
/-- Two places lie in one memory. -/
inductive SameMemory : Phys → Phys → Prop
  | dev (a b : Nat) : SameMemory (.dev a) (.dev b)
  | host (a b : Nat) : SameMemory (.host a) (.host b)
  | peer (i a j b : Nat) : SameMemory (.peer i a) (.peer j b)

theorem readAt_eq (s : State) (p : Phys) (n : Nat) : s.readAt p n = Memory.read (memoryOf s p) (keyOf p) n := by cases p <;> rfl
theorem memoryOf_wf {s : State} (h : s.memWf = true) (p : Phys) : Memory.wf (memoryOf s p) = true := by
  cases p
  · exact memWf_mem h
  · exact memWf_hostMem h
  · exact memWf_peerMem h
@[simp] theorem keyOf_add (p : Phys) (k : Nat) : keyOf (p.add k) = keyOf p + k := by cases p <;> simp [Phys.add, keyOf, Nat.add_assoc]
@[simp] theorem addr_add (p : Phys) (k : Nat) : (p.add k).addr = p.addr + k := by cases p <;> rfl
theorem add_add (p : Phys) (j k : Nat) : (p.add j).add k = p.add (j + k) := by cases p <;> simp [Phys.add, Nat.add_assoc]
theorem SameMemory.refl (p : Phys) : SameMemory p p := by cases p <;> constructor
theorem SameMemory.add_left {p q : Phys} (h : SameMemory q p) (k : Nat) : SameMemory (q.add k) p := by cases h <;> constructor
theorem memoryOf_writeAt_same {s : State} {p q : Phys} (bs : List Byte) (h : SameMemory q p) :
    memoryOf (s.writeAt q bs) p = Memory.putBytes (memoryOf s p) (keyOf q) bs := by cases h <;> rfl
theorem memoryOf_writeAt_other {s : State} {p q : Phys} (bs : List Byte) (h : ¬SameMemory q p) :
    memoryOf (s.writeAt q bs) p = memoryOf s p := by
  cases q with
  | dev a =>
    cases p with
    | dev b => exact absurd (.dev a b) h
    | host | peer => rfl
  | host a =>
    cases p with
    | host b => exact absurd (.host a b) h
    | dev | peer => rfl
  | peer i a =>
    cases p with
    | peer j b => exact absurd (.peer i a j b) h
    | dev | host => rfl

/-! ### Reads after writes -/

/-- A number reads the same where each of its bytes does. -/
theorem read_congr {m m' : Memory} {a n : Nat} (h : ∀ k < n, Memory.get m' (a + k) = Memory.get m (a + k)) :
    Memory.read m' a n = Memory.read m a n := by
  unfold Memory.read Memory.bytes
  rw [List.map_congr_left fun k hk => h k (List.mem_range.1 hk)]
/-- The bytes `bs` at `q` and the `n` bytes at `p` have no byte in common. -/
def Apart (q : Phys) (bs : List Byte) (p : Phys) (n : Nat) : Prop :=
  SameMemory q p → ∀ j < bs.length, ∀ k < n, keyOf q + j ≠ keyOf p + k
/-- A write leaves what it does not meet. -/
theorem readAt_writeAt_apart {s : State} {p q : Phys} {bs : List Byte} {n : Nat} (h : Apart q bs p n) :
    (s.writeAt q bs).readAt p n = s.readAt p n := by
  rw [readAt_eq, readAt_eq]
  by_cases hm : SameMemory q p
  · rw [memoryOf_writeAt_same bs hm]
    refine read_congr fun k hk => get_putBytes_out bs ?_
    by_contra hin
    have hne := h hm (keyOf p + k - keyOf q) (by omega) k hk
    omega
  · rw [memoryOf_writeAt_other bs hm]
/-- What is written at a place reads back there. -/
theorem readAt_writeAt_same {s : State} (hs : s.memWf = true) (p : Phys) (n v : Nat) :
    (s.writeAt p (bytesOf n v)).readAt p n = v % 256 ^ n := by
  rw [readAt_eq, memoryOf_writeAt_same _ (.refl p)]
  exact read_write _ _ _ (memoryOf_wf hs p)

/-! ### The lanes of a store request -/

/-- The write of one lane of a store of `n` bytes. -/
def storeLane (r : Req) (o : Op) (n : Nat) (s : State) (L : Nat) : State := s.writeAt (laneAt r o L) (bytesOf n (SMap.get 0 o.x L).toNat)
/-- What a store leaves besides its bytes: lanes done, and tags. -/
theorem readAt_afterStore (s : State) (id : Nat) (f : Op → Op) (r : Req) (p : Phys) (n : Nat) :
    ((s.mapOp id f).storeTags r).readAt p n = s.readAt p n := by
  have h : ∀ u : State, (u.storeTags r).mem = u.mem ∧ (u.storeTags r).hostMem = u.hostMem ∧ (u.storeTags r).peerMem = u.peerMem := fun u => by
    unfold State.storeTags
    split <;> exact ⟨rfl, rfl, rfl⟩
  obtain ⟨hd, hh, hp⟩ := h (s.mapOp id f)
  exact readAt_congr hd hh hp p n
/-- A store request performs as its lanes' writes in ascending order. -/
theorem readAt_doStore {s : State} {r : Req} {o : Op} {sp : Space} {n : Nat} (ho : s.findOp r.owner = some o) (hk : o.kind = .store sp n)
    (p : Phys) (k : Nat) : (s.doStore r).readAt p k = ((lanesOf r.lanes).foldl (storeLane r o n) s).readAt p k := by
  simp only [State.doStore, ho, hk]
  exact readAt_afterStore _ _ _ r p k
/-- Lanes whose bytes do not meet a place leave it. -/
theorem readAt_storeLanes_apart {r : Req} {o : Op} {n k : Nat} {p : Phys} {l : List Nat} {s : State}
    (h : ∀ L ∈ l, Apart (laneAt r o L) (bytesOf n (SMap.get 0 o.x L).toNat) p k) : (l.foldl (storeLane r o n) s).readAt p k = s.readAt p k := by
  induction l generalizing s with
  | nil => rfl
  | cons L l ih =>
    rw [List.foldl_cons, ih fun K hK => h K (List.mem_cons_of_mem _ hK)]
    exact readAt_writeAt_apart (h L (List.mem_cons_self ..))
/-- The lanes of a mask are listed in ascending order. -/
theorem lanesOf_ascending (m : LaneMask) : (lanesOf m).Pairwise (· < ·) := List.Pairwise.filter _ List.pairwise_lt_range

/-- Places that differ have different keys in their memory, a peer's address below the next port's. -/
theorem keyOf_ne {p q : Phys} (hm : SameMemory q p) (h : q ≠ p) (hp : p.isPeer = true → p.addr < 2 ^ 45 ∧ q.addr < 2 ^ 45) : keyOf q ≠ keyOf p := by
  intro e
  cases hm with
  | dev a b => exact h (congrArg Phys.dev e)
  | host a b => exact h (congrArg Phys.host e)
  | peer i a j b =>
    obtain ⟨hb, ha⟩ := hp rfl
    simp only [keyOf, Phys.addr] at e ha hb
    obtain rfl : i = j := by omega
    exact h (congrArg (Phys.peer i) (by omega))
/-- A byte that is at no place of a lane is apart from the lane's bytes. -/
theorem lane_apart_of_ne {r : Req} {o : Op} {n L : Nat} {p : Phys} (v : Nat) (h : ∀ k < n, (laneAt r o L).add k ≠ p)
    (hp : p.isPeer = true → p.addr < 2 ^ 45 ∧ r.place.addr + 128 + n ≤ 2 ^ 45) : Apart (laneAt r o L) (bytesOf n v) p 1 := by
  intro hm j hj k hk
  rw [length_bytesOf] at hj
  have haddr : ((laneAt r o L).add j).addr = r.place.addr + SMap.get 0 o.addr L % 128 + j := by simp [laneAt]
  have hne := keyOf_ne (p := p) (hm.add_left j) (h j hj) fun hpe => ⟨(hp hpe).1, by have := (hp hpe).2; omega⟩
  rw [keyOf_add] at hne
  omega
/-- Two lanes of a request without a byte in common are apart. -/
theorem lane_apart_of_lane {r : Req} {o : Op} {n K L : Nat} (v : Nat) (h : ∀ j k, j < n → k < n → (laneAt r o K).add j ≠ (laneAt r o L).add k) :
    Apart (laneAt r o K) (bytesOf n v) (laneAt r o L) n := by
  intro _ j hj k hk e
  rw [length_bytesOf] at hj
  refine h j k hj hk ?_
  simp only [laneAt, keyOf_add] at e
  rw [laneAt, laneAt, add_add, add_add, show SMap.get 0 o.addr K % 128 + j = SMap.get 0 o.addr L % 128 + k by omega]

/-- Settles O58: what a write of bytes does, and a store as the writes of its lanes in ascending order, each apart from the places it does not meet. -/
theorem storesWriteTheirLanesAlone : Obligations.StoresWriteTheirLanesAlone := by
  refine ⟨fun m a n v hm => ⟨write_wf a n v hm, read_write a n v hm, fun b hb => ?_⟩, fun s r o sp n ho hk => ⟨fun p hp hpeer => ?_, fun hs L hL hlast => ?_⟩⟩
  · exact get_putBytes_out _ (by rw [length_bytesOf]; exact hb)
  · rw [readAt_doStore ho hk]
    exact readAt_storeLanes_apart fun L hL => lane_apart_of_ne _ (hp L hL) hpeer
  · obtain ⟨l₁, l₂, hl⟩ := List.append_of_mem hL
    have hord := lanesOf_ascending r.lanes
    rw [hl, List.pairwise_append] at hord
    have hgt : ∀ K ∈ l₂, L < K := (List.pairwise_cons.1 hord.2.1).1
    rw [readAt_doStore ho hk, hl, List.foldl_append, List.foldl_cons,
      readAt_storeLanes_apart fun K hK => lane_apart_of_lane _ (hlast K (by rw [hl]; simp [hK]) (hgt K hK))]
    exact readAt_writeAt_same (memWf_foldl hs fun u K hu => State.writeAt_memWf hu _ _) _ _ _

end Sys2Proof.Proofs
end

section
/-! The state after reset, and what a step does with the agenda (R11, R23). -/
namespace Sys2Proof.Proofs
open Sys2Proof Sys2Proof.Machine Sys2Proof.Laws

/-- Settles O57: the reset state is written out field by field, and an empty memory has the canonical form. -/
theorem resetState : Obligations.ResetState :=
  ⟨rfl, rfl, rfl, rfl, rfl, rfl, rfl, rfl, rfl, rfl, rfl, rfl, rfl, rfl, rfl⟩

/-- A new cycle leaves every byte of memory. -/
theorem sameBytes_tick (s : State) : SameBytes s s.tick := ⟨fun p => readAt_congr rfl rfl rfl p 1, rfl, rfl, rfl, rfl, rfl⟩

/-- Settles O55: the event taken is the first of those due (`firstDue_spec`), and with none due and nothing picked a step is the next cycle. -/
theorem stepRunsTheNextEvent : Obligations.StepRunsTheNextEvent := by
  intro s
  obtain ⟨taken, idle⟩ := firstDue_spec s s.agenda
  refine ⟨fun e he => ?_, fun h d hd hg => ?_, fun h hp => ?_⟩
  · obtain ⟨hmem, ⟨hcycle, hheld⟩, hrank⟩ := taken e he
    exact ⟨by simp only [step, he], hmem, hcycle, hheld, fun d hd hg hh => hrank d hd ⟨hg, hh⟩, rfl, rfl, rfl, rfl⟩
  · exact eq_true_of_ne_false fun hh => idle h d hd ⟨hg, hh⟩
  · exact ⟨s.tick, by simp only [step, h, hp], rfl, rfl, sameBytes_tick s, rfl, rfl, rfl, fun h => if_pos h, fun h => if_neg h⟩

end Sys2Proof.Proofs
end

section
/-! Which special registers sgetsr and mfsys read, and what each register holds (R28-R34, R60-R64, R199, R202, R334, R344). -/
namespace Sys2Proof.Proofs
open Sys2Proof Sys2Proof.Machine Sys2Proof.Laws

/-! ### The traps of a read -/

section Reads
variable {s : State} {n : Nat}
/-- The registers of R28 and R60, %fstep, %tband and %boost are not supervisor registers. -/
theorem supReg_low (h : n < 0x100) : supReg n = false := by
  simp only [supReg, Bool.and_eq_false_iff, decide_eq_false_iff_not]
  omega
theorem readTraps_user (h : (1 ≤ n ∧ n ≤ 7) ∨ (0x10 ≤ n ∧ n ≤ 0x1C) ∨ n = 0x40) : readTraps s n = [] := by
  have hu : userReg n = true := by simp [userReg]; omega
  have he : envReg n = false := by simp [envReg]; omega
  simp [readTraps, supReg_low (show n < 0x100 by omega), hu, he]
theorem readTraps_env (h : 0x20 ≤ n ∧ n ≤ 0x22) : readTraps s n = if s.cur.team.region.env then [] else [trapOf .environmentRead] := by
  have hu : userReg n = true := by simp [userReg]; omega
  have he : envReg n = true := by simp [envReg]; omega
  simp only [readTraps, supReg_low (show n < 0x100 by omega), hu, he]
  cases s.cur.team.region.env <;> rfl
theorem readTraps_sup (h : 0x100 ≤ n ∧ n ≤ 0x10E) : readTraps s n = if s.srcG.level = .user then [illegal 12] else [] :=
  if_pos (by simpa [supReg] using h)
theorem readTraps_other (hu : ¬((1 ≤ n ∧ n ≤ 7) ∨ (0x10 ≤ n ∧ n ≤ 0x1C) ∨ n = 0x40)) (he : ¬(0x20 ≤ n ∧ n ≤ 0x22)) (hs : ¬(0x100 ≤ n ∧ n ≤ 0x10E)) :
    readTraps s n = [illegal 11] := by
  have h1 : supReg n = false := by simpa [supReg] using hs
  have h2 : userReg n = false := by simp [userReg]; omega
  simp [readTraps, h1, h2]
end Reads

section Words
variable {s : State} {d : SReg} {n : Fin 4096} (hl : s.cur.live = true)
include hl
/-- A read that raises nothing writes the register's value of this cycle. -/
theorem execSgetsr_next (h : readTraps s n = []) : exec (.sgetsr d n) s = .next (s.wS d (sysValue s n)) := by
  rw [exec_sgetsr, execSgetsr, readSys, runWord_bare hl rfl rfl, h]; rfl
theorem execSgetsr_trap {t : TrapReq} (h : readTraps s n = [t]) : exec (.sgetsr d n) s = .next (s.trapWord t) := by
  rw [exec_sgetsr, execSgetsr, readSys, runWord_bare hl rfl rfl, h]; rfl
/-- At supervisor level mfsys is sgetsr (R344). -/
theorem execMfsys_supervisor (h : s.srcG.level = .supervisor) : exec (.mfsys d n) s = exec (.sgetsr d n) s := by
  rw [exec_mfsys, execMfsys, runSup_supervisor hl rfl rfl h, exec_sgetsr, execSgetsr, readSys, runWord_bare hl rfl rfl]
end Words

/-! ### Values -/

/-- The ones among the low `n` bits are as many as the places of ones below `n`. -/
theorem countOnes_eq_length (x n : Nat) : countOnes x n = ((List.range n).filter fun k => x.testBit k).length := by
  induction n with
  | zero => rfl
  | succ n ih =>
    rw [countOnes, ih, List.range_succ, List.filter_append, List.length_append, ← Nat.toNat_testBit]
    cases h : x.testBit n <;> simp [h]
theorem bit_mul (b : Bool) (n : Nat) : bit b * n = if b then n else 0 := by cases b <;> simp [bit]
theorem toNat_pair64 (hi lo : W32) : (pair64 hi lo).toNat = hi.toNat * 2 ^ 32 + lo.toNat := by
  rw [pair64, BitVec.toNat_append, ← Nat.shiftLeft_add_eq_or_of_lt lo.isLt, Nat.shiftLeft_eq]
theorem pair64_eq (hi lo : W32) : pair64 hi lo = BitVec.ofNat 64 (hi.toNat * 2 ^ 32 + lo.toNat) := by
  rw [← toNat_pair64, BitVec.ofNat_toNat, BitVec.setWidth_eq]

/-- While its lease runs a seat's map differs by the lent entries (R19, R32). -/
theorem rotaMap_leased {x : Seat} {f : Nat} (hv : x.lease.v = true) (h1 : x.lease.first ≤ f) (h2 : f < x.lease.first + x.lease.count) :
    x.rotaMap f = if x.lease.lend then x.pl.dmap &&& ~~~x.lease.lmap else x.pl.dmap ||| x.lease.lmap := by
  simp [Seat.rotaMap, hv, h1, h2]
/-- Outside a lease a seat has its own map. -/
theorem rotaMap_own {x : Seat} {f : Nat} (h : ¬(x.lease.v = true ∧ x.lease.first ≤ f ∧ f < x.lease.first + x.lease.count)) : x.rotaMap f = x.pl.dmap :=
  if_neg fun e => h (by simpa [and_assoc] using e)

theorem zext64_eq (w : W32) : zext64 w = BitVec.ofNat 64 w.toNat := (BitVec.ofNat_toNat 64 w).symm
theorem indexBits_rank0 (x y z : Nat) : indexBits x y z 0 = BitVec.ofNat 64 (x % 2 ^ 16 + y % 2 ^ 16 * 2 ^ 16 + z % 2 ^ 16 * 2 ^ 32) := by simp [indexBits]

/-- %lease without a lease (R34). -/
theorem leaseBits_none {x : Seat} {f : Nat} (h : x.lease.v = false) : leaseBits x f = 0 := by simp [leaseBits, h]
/-- %lease while a lease stands (R34). -/
theorem leaseBits_leased {x : Seat} {f : Nat} (h : x.lease.v = true) :
    leaseBits x f = BitVec.ofNat 64 (2 ^ 63 + (if x.lease.lend then 2 ^ 62 else 0) + x.lease.peer % 16 * 2 ^ 58
      + (((List.range 64).filter fun k => x.lease.lmap.getLsbD k).length - 1) % 64 * 2 ^ 48 + min 0xFFFF (x.lease.first - f) * 2 ^ 32
      + (if f < x.lease.first then x.lease.count else x.lease.first + x.lease.count - f) % 2 ^ 32) := by
  simp only [leaseBits, h, if_true, countOnes_eq_length, bit_mul]
  rfl

/-- Settles O25: the traps of a read by the register's class, and the value of each register. -/
theorem specialRegisterReads : Obligations.SpecialRegisterReads := by
  intro s d n hl t g x clk frame user env sup may num
  have reads : may → readTraps s n = [] := by
    rintro (h | ⟨h, he⟩ | ⟨h, hs⟩)
    · exact readTraps_user h
    · rw [readTraps_env h, if_pos he]
    · rw [readTraps_sup h, show s.srcG.level = .supervisor from hs]; rfl
  have hidden : env → t.region.env = false → readTraps s n = [trapOf .environmentRead] := fun h he => by
    rw [readTraps_env h, show s.cur.team.region.env = false from he]; rfl
  have unknown : ¬user → ¬env → ¬sup → readTraps s n = [illegal 11] := readTraps_other
  refine ⟨fun h => execSgetsr_next hl (reads h), fun h hu => execSgetsr_trap hl (by rw [readTraps_sup h, if_pos hu]),
    fun h he => execSgetsr_trap hl (hidden h he), fun h1 h2 h3 => execSgetsr_trap hl (unknown h1 h2 h3), fun hu => (exec_mfsys d n s).trans (runSup_user hl rfl rfl hu),
    fun hs => ?_, ⟨rfl, ?_, rfl⟩, ⟨rotaMap_own, fun ho h => ?_, fun ho h => ?_⟩, fun r hr => ?_, rfl, leaseBits_none, leaseBits_leased, rfl, rfl, indexBits_rank0 _ _ _, ?_,
    fun q hq => ?_, zext64_eq _, rfl, rfl, rfl, rfl, rfl, rfl, ?_, rfl, rfl, rfl, rfl, rfl, rfl, rfl, fun q hq => ?_, pair64_eq _ _⟩
  · rw [execMfsys_supervisor hl hs]
    exact ⟨fun h => execSgetsr_next hl (reads h), fun h he => execSgetsr_trap hl (hidden h he), fun h1 h2 h3 => execSgetsr_trap hl (unknown h1 h2 h3)⟩
  · simp only [sysValue, bit_mul, beq_iff_eq, t, num]
  · exact (rotaMap_leased ho.1 ho.2.1 ho.2.2).trans (if_pos h)
  · exact (rotaMap_leased ho.1 ho.2.1 ho.2.2).trans (if_neg (by simp [h]))
  · simp only [sysValue]
    rw [show s.seat.core? s.cur.team.core = some r from hr]
  · by_cases h : t.cluster = none
    · rw [if_pos h]
      exact if_neg (by simp [show s.cur.team.cluster = none from h])
    · rw [if_neg h]
      exact if_pos (Option.isSome_iff_ne_none.2 h)
  · interval_cases q <;> rfl
  · change num ((if s.power.may then 15 - s.power.step else 0) % 16) = _
    cases s.power.may <;> rfl
  · interval_cases q <;> exact ⟨rfl, rfl⟩

end Sys2Proof.Proofs
end

section
/-! What the words of launch, join and active messages do at issue (R275-R279, R381, R397). -/
namespace Sys2Proof.Proofs
open Sys2Proof Sys2Proof.Machine Sys2Proof.Laws

/-- The low bits of a word as a field. -/
theorem fld_low (w k : Nat) : fld w k 0 = w % 2 ^ (k + 1) := by simp [fld]

/-! ### The checks: the lowest kind code is the trap taken (R7, R332) -/

/-- The trap of a launch: a reserved bit before a misaligned address, and that before what is refused. -/
theorem check_launch (r a b : Bool) : check ((if r then [] else [illegal 3]) ++ Machine.need a .misaligned ++ Machine.need b .accessFault)
    = if r = false then .error (illegal 3) else if a = false then .error (trapOf .misaligned) else if b = false then .error (trapOf .accessFault) else .ok () := by
  cases r <;> cases a <;> cases b <;> rfl
/-- The trap of an amsg: a reserved bit before a refusal. -/
theorem check_amsg (r b : Bool) : check ((if r then [illegal 3] else []) ++ Machine.need b .accessFault)
    = if r = true then .error (illegal 3) else if b = false then .error (trapOf .accessFault) else .ok () := by
  cases r <;> cases b <;> rfl

/-! ### launch and launch.try -/

section Launch
variable {s : State} {d : SReg} {c : CReg} (hl : s.cur.live = true)
include hl
/-- Both launch words take the trap of their checks, and with none are `launchWord`, which blocks or writes zeros where there is no room. -/
theorem launch_trap {e : TrapReq} (h : check (launchTraps s d) = .error e) :
    exec (.launch d) s = .next (s.trapWord e) ∧ exec (.launchTry d c) s = .next (s.trapWord e) := by
  rw [exec_launch, exec_launchTry, execLaunch, execLaunchTry, runWord_bare hl rfl rfl, runWord_bare hl rfl rfl, h]
  exact ⟨rfl, rfl⟩
theorem launch_next (h : check (launchTraps s d) = .ok ()) :
    exec (.launch d) s = .next (s.launchWord d false 0) ∧ exec (.launchTry d c) s = .next (s.launchWord d true c) := by
  rw [exec_launch, exec_launchTry, execLaunch, execLaunchTry, runWord_bare hl rfl rfl, runWord_bare hl rfl rfl, h]
  exact ⟨rfl, rfl⟩
end Launch

/-- The reads of a launch word into the record `n`. -/
def launchReads (s : State) (d : SReg) (n : Nat) (try_ : Bool) (cd : Nat) : Op :=
  { blankOp (.launchRead n try_ cd) with
    count := .loads, rel := true, threads := s.lanes, active := launchLanes (s.rS d).toNat, addr := launchAddrs (s.rS d).toNat (s.rS (d.val + 1)).toNat
    x := SMap.set 0 (SMap.set 0 [] 0 (s.rS (d.val + 2))) 1 (s.rS (d.val + 3)) }
/-- launch.try's condition register awaits the operation. -/
def pendTry (s : State) (try_ : Bool) (id cd : Nat) : State := if try_ then s.pend id [64 + cd] else s

section LaunchWord
variable {s : State} {d : SReg} {try_ : Bool} {cd : Nat}
theorem launchWord_portable (h : s.cur.team.portable = true) : s.launchWord d try_ cd =
    pendTry ((s.launchOp { launchReads s d 0 try_ cd with buffered := true }).onGroup fun g => { g with effects := g.effects ++ [s.nextOp] }) try_ s.nextOp cd := by
  simp only [State.launchWord, h, if_true]
  rfl
theorem launchWord_room {p : Nat × State} (h : s.cur.team.portable = false) (hr : s.poolRoom s.cur.team.seat (s.launchRegion s.cur.team) = true)
    (hp : p = s.placeRecord s.cur.team s.cur.group.gid (s.rS (d.val + 2)) (s.rS (d.val + 3)) s.nextOp) {q : Nat × State} (hq : q = p.2.placeOp (launchReads s d p.1 try_ cd)) :
    s.launchWord d try_ cd = ((pendTry q.2 try_ q.1 cd).translate q.1 (launchLanes (s.rS d).toNat)).checkOp q.1 := by
  subst hp hq
  simp only [State.launchWord, h, hr, Bool.false_eq_true, if_false, if_true]
  rfl
theorem launchWord_full (h : s.cur.team.portable = false) (hr : s.poolRoom s.cur.team.seat (s.launchRegion s.cur.team) = false) :
    s.launchWord d try_ cd = if try_ then s.wC cd 0 else ((s.goto s.cur.pkt s.cur.slot).block .launch).drain s.cur.team.id true := by
  simp only [State.launchWord, h, hr, Bool.false_eq_true, if_false]
end LaunchWord

/-! ### The region of a launch depends on device memory and the base of the address-space table alone (R369) -/

section Region
variable {s u : State} (hm : u.mem = s.mem)
include hm
theorem rec64_congr (a hi lo : Nat) : u.rec64 a hi lo = s.rec64 a hi lo := by simp only [State.rec64, hm]
theorem chainFrom_congr (n a : Nat) (l : List Nat) : chainFrom u n a l = chainFrom s n a l := by
  induction n generalizing a l with
  | zero => rfl
  | succ n ih => simp only [chainFrom, rec64_congr hm, ih]
theorem regionOf_congr (hb : u.asBase = s.asBase) (rcb seat : Nat) : u.regionOf rcb seat = s.regionOf rcb seat := by
  have hc (chain : List Nat) (n : Option Nat) : chainLegal u chain n = chainLegal s chain n := by
    simp only [chainLegal, rcbReserved, rec64_congr hm, hm, hb]
  have ho (chain : List Nat) (k : Nat) : overrider u chain k = overrider s chain k := by simp only [overrider, rec64_congr hm]
  simp only [State.regionOf, chainFrom_congr hm, hc, ho, rec64_congr hm]
theorem launchRegion_congr (hb : u.asBase = s.asBase) (t : Team) : u.launchRegion t = s.launchRegion t := by
  simp only [State.launchRegion, regionOf_congr hm hb]
end Region

section Count
variable (s : State) (seat vf : Nat)
theorem countGrid_grids : (s.countGrid seat vf).2.grids = s.grids := by unfold State.countGrid; split <;> rfl
theorem countGrid_mem : (s.countGrid seat vf).2.mem = s.mem := by unfold State.countGrid; split <;> rfl
theorem countGrid_asBase : (s.countGrid seat vf).2.asBase = s.asBase := by unfold State.countGrid; split <;> rfl
end Count

/-! ### Joins -/

/-- With no awaited child left the word goes on; else its split blocks and its team drains, a portable team's at the commit. -/
theorem joinWord_cases {s : State} {i : Instr} {tag : State → Option Nat} (hl : s.cur.live = true) (hr : (uses i).rv = []) (hw : (uses i).wv = []) :
    (s.cur.team.portable = false → s.awaited s.cur.team.id (tag s) s.nextOp = [] → joinWord i tag s = .next s)
    ∧ (s.cur.team.portable = false → s.awaited s.cur.team.id (tag s) s.nextOp ≠ [] →
      joinWord i tag s = .next ((s.block (.join (tag s) s.nextOp)).drain s.cur.team.id true))
    ∧ (s.cur.team.portable = true → joinWord i tag s = .next (s.block (.join (tag s) s.nextOp))) := by
  rw [joinWord, runPure_bare hl hr hw]
  refine ⟨fun hp h => ?_, fun hp h => ?_, fun hp => ?_⟩
  · simp [hp, h]
  · simp [hp, h]
  · simp [hp]

/-! ### Charged waits -/

theorem findSeat_mapSeat {s : State} {f : Seat → Seat} (hf : ∀ x, (f x).num = x.num) (n m : Nat) :
    (s.mapSeat n f).findSeat m = (s.findSeat m).map fun x => if x.num = n then f x else x := by
  have h : ((fun x : Seat => x.num == m) ∘ fun x => if x.num = n then f x else x) = fun x => x.num == m := by
    funext x
    simp only [Function.comp_apply]
    split <;> simp [hf]
  simp only [State.findSeat, mapSeat_seats, List.find?_map, h]
theorem oclk_mapSeat {s : State} {f : Seat → Seat} (hf : ∀ x, (f x).num = x.num) (hc : ∀ x, (f x).oclk s.g = x.oclk s.g) (n m : Nat) :
    (s.mapSeat n f).oclk m = s.oclk m := by
  simp only [State.oclk, findSeat_mapSeat hf, mapSeat_g]
  cases s.findSeat m with
  | none => rfl
  | some x => simp only [Option.map_some]; split <;> simp [hc]
/-- A wait charged from now on is due when its charge has passed (R21). -/
theorem charge_agenda {s : State} {seat c : Nat} {w : Charged} (h : w.t0 = s.oclk seat) :
    (s.charge seat w c).2.agenda = s.agenda ++ [(s.g + c, .chargedWaitDue seat s.nextId)] := by
  have hd : w.t0 + c - s.oclk seat = c := by rw [h, Nat.add_sub_cancel_left]
  refine Eq.trans (congrArg (fun n => s.agenda ++ [(s.g + (w.t0 + c - n), .chargedWaitDue seat s.nextId)]) ?_) (by rw [hd])
  exact oclk_mapSeat (s := s.fresh.2) (f := fun x => { x with waits := x.waits ++ [{ w with id := s.nextId, vf := x.vf, due := w.t0 + c }] })
    (fun _ => rfl) (fun _ => rfl) seat seat

/-! ### Active messages -/

/-- The target core belongs to the seat's core set, and the seat has a handler of that number. -/
def amsgReaches (s : State) (d : SReg) : Bool :=
  ((s.findSeat s.cur.team.seat).any fun x => (x.core? (fld (s.rS d).toNat 7 0)).isSome)
    && s.handlerAddr s.cur.team.seat (fld (s.rS (d.val + 1)).toNat 5 0) != 0
/-- The message of an amsg word. -/
def amsgOp (s : State) (d : SReg) : Op :=
  { blankOp (.amsg (fld (s.rS d).toNat 7 0) (fld (s.rS (d.val + 1)).toNat 5 0) (s.rS (d.val + 2)) (s.rS (d.val + 3))
      (BitVec.ofNat 64 (s.cur.team.core + 256 * s.cur.group.gid))) with count := .stores, rel := true, active := 0 }

/-- What an amsg whose checks pass does: its message is buffered until the commit of a portable team, else placed, and sent when nothing holds it. -/
def amsgSent (s : State) (d : SReg) : State :=
  if s.cur.team.portable then (s.launchOp { amsgOp s d with buffered := true }).onGroup fun g => { g with effects := g.effects ++ [s.nextOp] }
  else
    let q := s.placeOp (amsgOp s d)
    if (q.2.findOp q.1).all (fun o => o.held) then q.2 else q.2.sendMessage q.1

section Message
variable {s : State} {d : SReg}
theorem amsgReserved_iff : amsgReserved s d = true ↔ 2 ^ 8 ≤ (s.rS d).toNat ∨ 2 ^ 6 ≤ (s.rS (d.val + 1)).toNat := by
  have h0 := (s.rS d).isLt
  have h1 := (s.rS (d.val + 1)).isLt
  simp only [amsgReserved, fld, Bool.or_eq_true, bne_iff_ne]
  omega
variable (hl : s.cur.live = true)
include hl
/-- An amsg takes the trap of its checks, and with none sends its message. -/
theorem exec_amsg_eq : exec (.amsg d) s = .next (match check ((if amsgReserved s d then [illegal 3] else []) ++ Machine.need (amsgReaches s d) .accessFault) with
    | .error e => s.trapWord e
    | .ok _ => amsgSent s d) := by
  rw [exec_amsg, execAmsg, runWord_bare hl rfl rfl]
  unfold amsgReaches
  dsimp only [Nat.add_zero]
  cases s.findSeat s.cur.team.seat <;> dsimp only [Option.any_some, Option.any_none]
  all_goals
    generalize check _ = c
    cases c with
    | error e => rfl
    | ok _ =>
      unfold amsgSent
      dsimp only
      by_cases hp : s.cur.team.portable = true
      · rw [if_pos hp, if_pos hp]
        rfl
      · rw [if_neg hp, if_neg hp]
        have sent (q : Nat × State) : (match (match q.2.findOp q.1 with
              | some o => .ok (if o.held then q.2 else q.2.sendMessage q.1)
              | none => .ok q.2 : Except TrapReq State) with
            | .ok t => t
            | .error e => s.trapWord e) = if (q.2.findOp q.1).all (fun o => o.held) then q.2 else q.2.sendMessage q.1 := by
          cases q.2.findOp q.1 <;> rfl
        exact congrArg _ (sent (s.placeOp (amsgOp s d)))
end Message

theorem once_reqs (s : State) (c : Nat) (e : Event) : (s.once c e).reqs = s.reqs := by unfold State.once; split <;> rfl
theorem schedule_reqs (s : State) (r : Req) : (s.schedule r).reqs = s.reqs := by
  unfold State.schedule
  split
  · rfl
  · split
    · exact once_reqs _ _ _
    · rfl

/-- Settles O38: the trap of a launch is the lowest kind its checks raise; past the checks the word is `launchWord`, whose three branches are
a portable team, room in the pool and a full pool; the joins are `joinWord`, and a door's wait is charged from the seat's clock of this cycle. -/
theorem launchWordsIssue : Obligations.LaunchWordsIssue := by
  intro s d a c hl w kd pa t g reserved aligned legal both trap read room send buffered
  have hc := check_launch (extReserved (w 2) (w 3)) (kd % 64 == 0 && pa % 8 == 0) (extLegal (w 2) && canonical (kd : Int)
    && canonical ((kd + Config.kernelBytes - 1 : Nat) : Int) && canonical (pa : Int) && canonical ((pa + 63 : Nat) : Int))
  change check (launchTraps s d) = _ at hc
  have hA : aligned ↔ (kd % 64 == 0 && pa % 8 == 0) = true := by simp only [aligned, Bool.and_eq_true, beq_iff_eq]
  have hlegal : legal ↔ extReserved (w 2) (w 3) = true ∧ (kd % 64 == 0 && pa % 8 == 0) = true ∧ (extLegal (w 2) && canonical (kd : Int)
      && canonical ((kd + Config.kernelBytes - 1 : Nat) : Int) && canonical (pa : Int) && canonical ((pa + 63 : Nat) : Int)) = true := by
    simp only [legal, hA, reserved, Bool.and_eq_true, Bool.not_eq_false, and_assoc]
  have next (h : legal) : both (s.launchWord d false 0) (s.launchWord d true c) := by
    obtain ⟨h1, h2, h3⟩ := hlegal.1 h
    exact launch_next hl (hc.trans (by rw [h1, h2, h3]; rfl))
  refine ⟨fun h => launch_trap hl (hc.trans (if_pos h)), fun h ha => launch_trap hl ?_, fun h ha hn => launch_trap hl ?_, fun h hp hr => ⟨?_, ?_⟩,
    fun h hp hr => ?_, fun h hp => ?_, ⟨?_, joinWord_cases (i := .joinAll) (tag := fun _ => none) hl rfl rfl⟩, ?_, ?_, ?_⟩
  -- the launch words: the traps, room in the pool, no room, a portable team
  · rw [hc, if_neg h, if_pos (eq_false_of_ne_true (mt hA.2 ha))]
  · rw [hc, if_neg h, if_neg (by rw [hA.1 ha]; decide), if_pos (eq_false_of_ne_true fun hL => hn (hlegal.2 ⟨eq_true_of_ne_false h, hA.1 ha, hL⟩))]
  · obtain ⟨hu, hv⟩ := next h
    exact ⟨hu.trans (congrArg _ (launchWord_room hp hr rfl rfl)), hv.trans (congrArg _ (launchWord_room hp hr rfl rfl))⟩
  · refine ⟨_, congrArg (· ++ _) (countGrid_grids s.fresh.2 t.seat t.vf), rfl, rfl, rfl, rfl, rfl, fld_low _ _, rfl, ?_, rfl⟩
    exact launchRegion_congr (countGrid_mem s.fresh.2 t.seat t.vf) (countGrid_asBase s.fresh.2 t.seat t.vf) t
  · obtain ⟨hu, hv⟩ := next h
    have hr := eq_false_of_ne_true hr
    exact ⟨hu.trans (congrArg _ (launchWord_full hp hr)), hv.trans (congrArg _ (launchWord_full hp hr))⟩
  · obtain ⟨hu, hv⟩ := next h
    exact ⟨hu.trans (congrArg _ (launchWord_portable hp)), hv.trans (congrArg _ (launchWord_portable hp))⟩
  -- join and join.door
  · have ht : fld (s.rS a).toNat 15 0 = (s.rS a).toNat % 2 ^ 16 := fld_low _ _
    rw [← ht]
    exact joinWord_cases (i := .join a) (tag := fun s => some (fld (s.rS a).toNat 15 0)) hl rfl rfl
  · intro x m
    refine ⟨(s.charge t.seat { m with id := 0, due := 0 } Config.chargeDoor).2, ?_, rfl, rfl, rfl, rfl, charge_agenda rfl⟩
    rw [exec_joinDoor, execJoinDoor, runPure_bare hl rfl rfl]
    simp only [doorReached, decide_eq_true_eq]
    rfl
  -- amsg: its checks, then the message and how it sets out
  · intro k reserved there o
    have hres : reserved ↔ amsgReserved s d = true := amsgReserved_iff.symm
    have hcore (h : ¬reserved) : fld kd 7 0 = kd := (fld_low kd 7).trans (Nat.mod_eq_of_lt (Nat.lt_of_not_le fun e => h (.inl e)))
    have hthere (h : ¬reserved) : there ↔ amsgReaches s d = true := by
      have hk : fld pa 5 0 = k := fld_low pa 5
      simp only [there, amsgReaches, Bool.and_eq_true, Option.any_eq_true, bne_iff_ne]
      rw [show fld (s.rS d).toNat 7 0 = kd from hcore h, show fld (s.rS (d.val + 1)).toNat 5 0 = k from hk]
    have ho (h : ¬reserved) : o = amsgOp s d := by
      simp only [o, amsgOp]
      rw [show fld (s.rS d).toNat 7 0 = kd from hcore h, show fld (s.rS (d.val + 1)).toNat 5 0 = k from fld_low pa 5]
    rw [exec_amsg_eq hl, check_amsg]
    refine ⟨fun h => by rw [if_pos (hres.1 h)], fun h hn => ?_, fun h ht hp => ?_, fun h ht hp => ?_⟩
    · rw [if_neg (mt hres.2 h), if_pos (eq_false_of_ne_true (mt (hthere h).2 hn))]
    · rw [if_neg (mt hres.2 h), if_neg (by simp [(hthere h).1 ht]), ho h]
      exact congrArg _ (if_pos hp)
    · rw [if_neg (mt hres.2 h), if_neg (by simp [(hthere h).1 ht]), ho h]
      exact congrArg _ (if_neg (ne_true_of_eq_false hp))
  · intro u id core k x y z o hf hk
    simp only [State.sendMessage, hf, hk]
    refine ⟨_, schedule_reqs _ _, rfl, rfl, rfl, rfl⟩

end Sys2Proof.Proofs
end

section
/-! What the events of reset, frames, seating, switching, leases, eviction, balancing and pre-emption do when they are due
(R11, R19, R24, R374, R375, R378, R390, R393, R416). -/
namespace Sys2Proof.Proofs
open Sys2Proof Sys2Proof.Machine Sys2Proof.Laws

/-! ### The meaning of each event at hand -/

section Rows
variable {s : State}
theorem resetRelease_next {step unit : Nat} (h : s.ev = some (.resetRelease step unit)) : exec .resetRelease s = .next (s.bringUp step unit) :=
  runEvent_next h rfl
theorem frameBoundary_next (h : s.ev = some .frameBoundary) : exec .frameBoundary s = .next s.boundary := runEvent_next h rfl
theorem seating_next {n : Nat} (h : s.ev = some (.seating n)) : exec .seating s = .next (s.seatNow n) := runEvent_next h rfl
theorem quantumEnd_next {n : Nat} (h : s.ev = some (.quantumEnd n)) : exec .quantumEnd s = .next (s.endQuantum n) := runEvent_next h rfl
theorem switchComplete_next {n : Nat} (h : s.ev = some (.switchComplete n)) : exec .switchComplete s = .next (s.endSwitch n) := runEvent_next h rfl
theorem seatEviction_next {n : Nat} (h : s.ev = some (.seatEviction n)) : exec .seatEviction s = .next (s.evictNow n) := runEvent_next h rfl
theorem loadBalance_next {n : Nat} (h : s.ev = some (.loadBalance n)) : exec .loadBalance s = .next (s.balance n) := runEvent_next h rfl
theorem preemptDelivery_next {rcb : Nat} {dl : W64} (h : s.ev = some (.preemptDelivery rcb dl)) :
    exec .preemptDelivery s = .next (s.deliverPreempt rcb dl) := runEvent_next h rfl
theorem leaseBegin_next {n : Nat} (h : s.ev = some (.leaseBegin n)) :
    exec .leaseBegin s = .next (match s.findSeat n with | some x => s.pokeLease n x.lease.peer | none => s) := runEvent_next h rfl
end Rows

theorem findSeat_num {s : State} {n : Nat} {x : Seat} (h : s.findSeat n = some x) : x.num = n := by simpa using List.find?_some h

/-! ### The deadline of a PREEMPT (R393) -/

/-- The deadline can be met for a team that is dealt with so. -/
def meetsDeadline (limit : Nat) (p : Team × Dealt) : Bool :=
  match p.2 with
  | .drain => p.1.remaining.any fun r => decide (4 * r ≤ limit)
  | _ => decide (12288 ≤ limit)
theorem meetsDeadline_iff {limit : Nat} {p : Team × Dealt} : meetsDeadline limit p = true ↔
    (p.2 = .drain → ∃ r, p.1.remaining = some r ∧ 4 * r ≤ limit) ∧ (p.2 ≠ .drain → 12288 ≤ limit) := by
  obtain ⟨t, d⟩ := p
  cases d <;> simp [meetsDeadline, Option.any_eq_true]
/-- A PREEMPT that meets a running seat, or no seat, acts now. -/
theorem deliverPreempt_running {s : State} {rcb : Nat} {dl : W64} (h : ∀ x, s.seatOfVf (s.rec64 rcb 285 280) = some x → x.running = true) :
    s.deliverPreempt rcb dl = s.preemptNow rcb dl.toNat := by
  unfold State.deliverPreempt
  cases hx : s.seatOfVf (s.rec64 rcb 285 280) with
  | none => rfl
  | some x => exact if_pos (h x hx)

/-- Settles O46: the row of each event is one function of the state, and the clauses of the event are the branches of that function; the maps of
the parties to a lease are those of `rotaMap`, and a PREEMPT meets its deadline exactly when every team it deals with does. -/
theorem seatEventsAct : Obligations.SeatEventsAct := by
  intro s
  refine ⟨fun step unit he => ?_, fun he => ?_, fun n he => ?_, fun n he => ?_, fun n he => ?_, fun n he => ?_, fun n he => ?_, fun n he => ?_,
    fun n he => ?_, fun rcb dl he => ?_⟩
  · rw [resetRelease_next he]
    unfold State.bringUp
    refine ⟨fun h => ?_, fun h => ?_, fun h => ?_, fun h => ?_⟩
    · rw [h]; rfl
    · rw [h]
      exact ⟨fun h1 => congrArg _ (if_pos h1), fun h1 => congrArg _ (if_neg h1)⟩
    · rw [h]
      exact ⟨fun h1 h6 => congrArg _ (if_pos (decide_eq_true ⟨h1, h6⟩)), fun ho => congrArg _ (if_neg (by simp; omega))⟩
    · obtain ⟨k, hk⟩ := Nat.exists_eq_add_of_le' h
      rw [hk]
      rfl
  · rw [frameBoundary_next he]
    refine ⟨fun h => congrArg _ (if_pos h), fun h u hu => ?_, fun h hs hq => ?_⟩
    · rw [State.boundary, if_neg (not_not_intro h), ← hu]
    · have : s.queues.filter (fun q => q.wait.isSome) = [] := List.filter_eq_nil_iff.2 fun q hm => by simp [hq q hm]
      rw [State.boundary, if_neg (not_not_intro h), hs]
      simp [this]
  · rw [seating_next he]
    unfold State.seatNow
    refine ⟨fun h => by rw [h], fun x hx => ?_⟩
    rw [hx]
    dsimp only
    refine ⟨fun h => ?_, fun e l u v h1 h2 h3 hu hv gs hgs => ?_⟩
    · split
      · rfl
      next hn =>
        rw [not_or, not_not] at hn
        rcases h with h | h | h
        · exact absurd h hn.1
        · exact absurd hn.2 h
        · rw [h]
    · subst hu hv hgs
      rw [if_neg (by simp [h1, h2]), h3]
  · rw [leaseBegin_next he]
    refine ⟨fun h => by rw [h], fun x hx => by rw [hx]; rfl, fun x f => rotaMap_leased⟩
  -- the end of a lease: it has run out, or nothing changes
  · refine ⟨fun h => runEvent_next he (by simp only [h]), fun x hx => ⟨fun h => runEvent_next he ?_, fun hv hf u hu => runEvent_next he ?_⟩, fun x f h => rotaMap_own ?_⟩
    · simp only [hx]
      exact if_neg (by simpa [or_iff_not_imp_left] using h)
    · subst hu
      simp only [hx, hv, hf, decide_true, Bool.and_true, if_true]
      rfl
    · rintro ⟨hv, -, hf⟩
      rcases h with h | h
      · rw [h] at hv; cases hv
      · omega
  · rw [quantumEnd_next he]
    unfold State.endQuantum
    refine ⟨fun h => by rw [h], fun x hx => ?_⟩
    rw [hx]
    dsimp only
    refine ⟨fun h => congrArg _ (if_pos (by simpa [or_assoc] using h)), fun h1 h2 h3 => ?_⟩
    rw [if_neg (by simp [h1, h2]; omega)]
    refine ⟨fun h => congrArg _ (if_pos (Option.isSome_iff_ne_none.2 h)), fun q hf hq => ⟨fun h4 h5 => ?_, fun h => ?_⟩⟩
    · subst hq
      rw [if_neg (by simp [hf]), if_pos (by simp [h4, h5])]
    · subst hq
      rw [if_neg (by simp [hf]), if_neg (by simpa [or_iff_not_imp_left] using h)]
      rfl
  · rw [switchComplete_next he]
    unfold State.endSwitch
    refine ⟨fun h => by rw [h], fun x hx => ?_⟩
    rw [hx]
    dsimp only
    refine ⟨fun h => congrArg _ (if_pos (by simp [h])), fun u fn h hu hfn => ?_⟩
    rw [if_neg (by simp [h]), ← hu, ← hfn]
    refine ⟨fun h => ?_, fun f v hf hv => ?_⟩
    · rw [h]
    · rw [hf, Option.bind_some, hv]
      rfl
  · rw [seatEviction_next he]
    unfold State.evictNow
    refine ⟨fun h => by rw [h], fun x hx => ?_, fun x hx y hy => ?_⟩
    · rw [hx]
      dsimp only
      refine ⟨fun h => by rw [h], fun h => ?_, fun u v w h hu hv hw => ?_⟩
      · rw [h]
        dsimp only
        rw [if_neg Bool.false_ne_true, hx]
        exact ⟨fun hi => congrArg _ (if_neg (by simp [hi])), fun hi => congrArg _ (if_pos hi)⟩
      · rw [h]
        dsimp only
        rw [if_pos rfl, ← hu, ← hv, ← hw]
        refine ⟨fun hn => by rw [hn], fun y hy => ?_⟩
        rw [hy]
        exact ⟨fun hi => congrArg _ (if_neg (by simp [hi])), fun hi => congrArg _ (if_pos hi)⟩
    · rw [← findSeat_num hx]
      simpa using (List.mem_filter.1 hy).2
  · rw [loadBalance_next he]
    unfold State.balance
    refine ⟨fun h => by rw [h], fun x hx => ?_⟩
    rw [hx]
    dsimp only
    refine ⟨fun h => congrArg _ (if_pos (by simpa using h)), fun h1 h2 h3 => ?_, fun u l depth h1 h2 h3 hu hd => ?_⟩
    · rw [if_neg (by simp [h1, h2]), h3]
      rfl
    · subst hu hd
      rw [if_neg (by simp [h1, h2]), h3]
      rfl
  · rw [preemptDelivery_next he]
    refine ⟨fun x hx hr => ?_, fun h u v l limit hlim hu hv hit hhit hl => ⟨l.all (meetsDeadline limit), ?_, ?_⟩⟩
    · rw [State.deliverPreempt, hx]
      exact congrArg _ (if_neg (by simp [hr]))
    · rw [deliverPreempt_running h, ← hlim]
      unfold State.preemptNow
      rw [← hu]
      subst hhit hl
      dsimp only
      obtain ⟨hx, rfl⟩ | ⟨x, w, hx, rfl, rfl⟩ := hv
      · rw [hx]
        rfl
      · rw [hx]
        rfl
    · simp only [List.all_eq_true, meetsDeadline_iff]

end Sys2Proof.Proofs
end

section
/-! What the events of the memory system do when they are due (R14, R16, R18, R54, R85, R87, R353, R403, R413, R422, R423). -/
namespace Sys2Proof.Proofs
open Sys2Proof Sys2Proof.Machine Sys2Proof.Laws

/-! ### The meaning of each event at hand -/

section Rows
variable {s : State} {id k : Nat} {lasting : Bool}
theorem loadReply_next (h : s.ev = some (.loadReply id)) : exec .loadReply s = .next (s.reply id) := runEvent_next h rfl
theorem storePerform_next (h : s.ev = some (.storePerform id)) : exec .storePerform s = .next (s.storePerformed id) := runEvent_next h rfl
theorem storeAcknowledge_next (h : s.ev = some (.storeAcknowledge id)) : exec .storeAcknowledge s = .next (s.acknowledge id) := runEvent_next h rfl
theorem lineRecall_next (h : s.ev = some (.lineRecall id)) : exec .lineRecall s = .next (s.recalled id) := runEvent_next h rfl
theorem atomicPerform_next (h : s.ev = some (.atomicPerform id)) : exec .atomicPerform s = .next (s.atomicPerformed id) := runEvent_next h rfl
theorem scratchpadRowServe_next (h : s.ev = some (.scratchpadRowServe id k)) : exec .scratchpadRowServe s = .next (s.serveRows id k) :=
  runEvent_next h rfl
theorem bufferPortCycle_next (h : s.ev = some (.bufferPortCycle id k)) : exec .bufferPortCycle s = .next (s.servePort id k) := runEvent_next h rfl
theorem releaseApply_next (h : s.ev = some (.releaseApply id)) : exec .releaseApply s = .next (s.applyHeld id) := runEvent_next h rfl
theorem dramReadRetry_next (h : s.ev = some (.dramReadRetry id lasting)) : exec .dramReadRetry s = .next (s.dramRetry id lasting) := runEvent_next h rfl
theorem meshFlitRetry_next (h : s.ev = some (.meshFlitRetry id lasting)) : exec .meshFlitRetry s = .next (s.meshRetry id lasting) := runEvent_next h rfl
end Rows

/-! ### Positions (R14, R403) -/

/-- The requests that wait at a structure for the position that begins now. -/
def waitingAt (s : State) (st : Struct) : List Req :=
  s.reqs.filter fun (r : Req) => r.sent && r.head == some st && decide (r.arrive ≤ s.g) && !s.stands r && !s.orderHeld r
/-- Requests are placed again from the next cycle on. -/
def placeAgain (s : State) (l : List Req) : State := l.foldl (fun (t : State) (q : Req) => t.schedule { q with arrive := t.g + 1 }) s
/-- The lines of accesses from outside that have been served have their effect. -/
def visitsDone (s : State) : State := (s.reqs.filter fun (q : Req) => q.kind == .visit && q.performed).foldl (fun (t : State) (q : Req) => t.visited q) s
/-- Among requests, one that is to be repeated goes first (R403). -/
def pickOf (cands : List Req) : Option Req := (firstReq (cands.filter fun (r : Req) => r.failed.isSome)).orElse fun _ => firstReq cands
/-- The requests among which a position chooses: those of its own seat, and with none those of seat 15 where it is not claimed. -/
def candidates (s : State) (st : Struct) : List Req :=
  let own := s.rotaOwner (s.g / structLen st) (s.g / Config.frame)
  let mine := (waitingAt s st).filter fun (r : Req) => some r.seat == own
  if s.spent st then [] else if mine.isEmpty then (if own.isNone && s.claimed st then [] else (waitingAt s st).filter fun (r : Req) => r.seat == 15) else mine

section Position
variable {s : State} {st : Struct}
/-- At a link that is not fenced: the position, then what has been done for the host and the peers. -/
theorem positionStart_next (he : s.ev = some (.positionStart st)) (h : s.fencedStruct st = false) : exec .positionStart s = .next (visitsDone (s.position st)) :=
  runEvent_next he (by simp only [h]; rfl)
theorem position_off (h : s.g % structLen st ≠ 0) : s.position st = s := if_pos h
variable (hg : s.g % structLen st = 0)
include hg
theorem position_trains (hs : st = .hostLink) (hr : s.g < s.link.retrain) :
    s.position st = (waitingAt s st).foldl (fun (t : State) (q : Req) => t.schedule { q with arrive := t.link.retrain }) s := by
  rw [State.position, if_neg (not_not_intro hg)]
  exact if_pos ⟨hs, hr⟩
variable (hn : ¬(st = .hostLink ∧ s.g < s.link.retrain))
include hn
theorem position_idle (h : pickOf (candidates s st) = none) : s.position st = placeAgain s (waitingAt s st) := by
  rw [State.position, if_neg (not_not_intro hg)]
  dsimp only
  rw [if_neg hn]
  change (match pickOf (candidates s st) with | none => _ | some r => _) = _
  rw [h]
  rfl
theorem position_serves {r : Req} (h : pickOf (candidates s st) = some r) : s.position st =
    placeAgain (if ((s.spend st).throughError r st).1 then ((s.spend st).throughError r st).2.serve r else ((s.spend st).throughError r st).2)
      ((waitingAt s st).filter fun (q : Req) => q.id != r.id) := by
  rw [State.position, if_neg (not_not_intro hg)]
  dsimp only
  rw [if_neg hn]
  change (match pickOf (candidates s st) with | none => _ | some r => _) = _
  rw [h]
  rfl
end Position

/-! ### An error that was put at a request (R403) -/

section ThroughError
variable {s : State} {r : Req} {st : Struct}
theorem throughError_clean (hf : r.failed = none) (h : r.fails = 0) : s.throughError r st = (true, s) := by
  unfold State.throughError
  rw [hf]
  exact if_pos h
theorem throughError_fails (hf : r.failed = none) (h : r.fails ≠ 0) {q : Req} (hq : q = { r with failed := some s.g, arrive := s.g + structLen st }) :
    s.throughError r st = (false, (s.mapReq r.id fun _ => q).schedule q) := by
  subst hq
  unfold State.throughError
  rw [hf]
  exact if_neg h
variable {a : Nat} (hf : r.failed = some a)
include hf
theorem throughError_lasting (h : r.fails = 2) {e : Event}
    (he : ((∃ d c, st = .dram d c) ∧ e = .dramReadRetry r.id true) ∨ ((∀ d c, st ≠ .dram d c) ∧ e = .meshFlitRetry r.id true)) :
    s.throughError r st = (false, (s.mapReq r.id fun (r : Req) => { r with fails := 3 }).now e) := by
  unfold State.throughError
  rw [hf]
  refine (if_pos h).trans ?_
  obtain ⟨⟨d, c, rfl⟩, rfl⟩ | ⟨hd, rfl⟩ := he
  · rfl
  · cases st with
    | dram d c => exact absurd rfl (hd d c)
    | _ => rfl
theorem throughError_passes (h : r.fails ≠ 2) {n d : Nat} (hd : ((∃ d c, st = .dram d c) ∧ n = 7 ∧ d = r.place.addr) ∨ (∃ p, st = .colalm p ∧ n = 8 ∧ d = 16 + p)
      ∨ ((∀ d c, st ≠ .dram d c) ∧ (∀ p, st ≠ .colalm p) ∧ n = 8 ∧ d = linkNumber st)) :
    s.throughError r st = (true, (s.logEvent r.seat n r.core (s.oclk r.seat - (s.g - a)) (BitVec.ofNat 64 d) (s.g - a)).mapReq r.id
      fun (r : Req) => { r with fails := 0, failed := none }) := by
  unfold State.throughError
  rw [hf]
  refine (if_neg h).trans ?_
  obtain ⟨⟨d, c, rfl⟩, rfl, rfl⟩ | ⟨p, rfl, rfl, rfl⟩ | ⟨h1, h2, rfl, rfl⟩ := hd
  · rfl
  · rfl
  · cases st with
    | dram d c => exact absurd rfl (h1 d c)
    | colalm p => exact absurd rfl (h2 p)
    | _ => rfl
end ThroughError

/-! ### Replies (R54, R353, R413, R422) -/

section Replies
variable {s : State} {r : Req}
theorem refusedReply_copy {c : Copy} (h : s.opKind r.owner = some (.copy c)) : s.refusedReply r = (s.dropReq r.id).stopCopy r.owner .accessFault := by
  rw [State.refusedReply, h]
theorem refusedReply_lanes (h : ∀ c, s.opKind r.owner ≠ some (.copy c)) : s.refusedReply r = (s.refuse r.owner r.lanes).retireReq r := by
  unfold State.refusedReply
  split
  · exact absurd ‹_› (h _)
  · rfl
theorem walkReply_none (h : (s.dropReq r.id).findWalk r.owner = none) : s.walkReply r = s.dropReq r.id := by
  rw [State.walkReply, h]
variable {w : Walk} (hw : (s.dropReq r.id).findWalk r.owner = some w)
include hw
/-- A table entry: the walk reads the next one. -/
theorem walkReply_table {pa : Nat} (h : judge w.level w.entry r.va = .table pa) :
    s.walkReply r = ((s.dropReq r.id).mapWalk w.id fun _ => { w with level := w.level - 1, table := pa }).readEntry { w with level := w.level - 1, table := pa } := by
  rw [State.walkReply, hw]
  dsimp only
  rw [h]
/-- Any other entry ends the walk four cycles on. -/
theorem walkReply_ends (h : ∀ pa, judge w.level w.entry r.va ≠ .table pa) :
    s.walkReply r = (s.dropReq r.id).at ((s.dropReq r.id).g + 4) (.tlbWalkComplete w.id) := by
  rw [State.walkReply, hw]
  dsimp only
  split
  · exact absurd ‹_› (h _)
  · rfl
end Replies

/-! ### Typed-buffer ports (R87) -/

section Port
variable {s : State} {id k : Nat} {o : Op} (ho : s.findOp id = some o)
include ho
theorem servePort_held (h : o.held = true) : s.servePort id k = s := by
  rw [State.servePort, ho]
  exact if_pos h
variable (h : o.held = false)
include h
/-- A port cycle of an xlds moves one unit of its tile, and the last one completes 8 cycles on. -/
theorem servePort_column {m : Mx} (hk : o.kind = .matrix m) : s.servePort id k =
    if k = o.taken then s.landOp id
    else if !(s.portServes o.core o.seat (portSpace o)) then s.at (s.g + 1) (.bufferPortCycle id k)
    else if s.portBehind o then s.now (.bufferPortCycle id k)
    else
      let u := (s.takePort o.core o.seat (portSpace o) s.g).readColumn o m k
      if k + 1 = o.taken then u.at (u.g + 8) (.xldsComplete id) else u.at (u.g + 1) (.bufferPortCycle id (k + 1)) := by
  rw [State.servePort, ho]
  dsimp only
  rw [if_neg (by simp [h]), hk]
/-- A port cycle of a vector access moves its lanes, the lower sixteen first where there are two cycles (log 113). -/
theorem servePort_lanes (hk : ∀ m, o.kind ≠ .matrix m) : s.servePort id k =
    if k = portCycles o then s.landOp id
    else if !(s.portServes o.core o.seat (portSpace o)) then s.at (s.g + 1) (.bufferPortCycle id k)
    else if s.portBehind o then s.now (.bufferPortCycle id k)
    else
      let u := s.takePort o.core o.seat (portSpace o) s.g
      (u.performLocal o (if portCycles o = 1 then o.active else if k = 0 then 0xFFFF else 0xFFFF0000)).at
        (u.g + (if k + 1 = portCycles o then 2 else 1)) (.bufferPortCycle id (k + 1)) := by
  rw [State.servePort, ho]
  dsimp only
  rw [if_neg (by simp [h])]
  cases hm : o.kind with
  | matrix m => exact absurd hm (hk m)
  | _ => rfl
end Port

/-! ### Held operations (R423) -/

/-- What a barrier word that reads its object answers: the outcome of a test, or the phase. -/
def barAnswer (v : State) (o : Op) (off : Nat) (act : BarUpd) : State :=
  match act, o.dest, v.getTeam o.team with
  | .test ph, .scal d, some t => v.anyGroup o.team o.gid fun g => g.landS o d (BitVec.ofNat 64 (bit ((readBar t.scratch off).completed ph)))
  | .phase, .scal d, some t => v.anyGroup o.team o.gid fun g => g.landS o d (BitVec.ofNat 64 (readBar t.scratch off).phase)
  | _, _, _ => v
/-- What an operation that nothing holds any more does. -/
def appliedNow (u : State) (id : Nat) (o : Op) : State :=
  match o.kind with
  | .bar off act =>
    match (barAnswer (u.settleLocal o.team o.gid id .scratch [(off, 16)]) o off act).barApply o.team off act with
    | (true, s) => (s.finishOp id).wakeReleases o.team o.gid
    | (false, s) => ((s.defer o .accessFault).finishOp id).wakeReleases o.team o.gid
  | .store sp _ | .atomic sp _ _ =>
    if sp = .global then (u.sendHeld id).settleOp id
    else if sp = .scratch then u.at (max u.g (o.issued + firstServe o.kind)) (.scratchpadRowServe id 0)
    else u.at (max u.g (o.issued + 10)) (.bufferPortCycle id 0)
  | .launchRead _ _ _ => (u.sendHeld id).settleOp id
  | .amsg _ _ _ _ _ => u.sendMessage id
  | _ => u

section Held
variable {s u : State} {id : Nat} {o : Op}
theorem applyHeld_stays (ho : s.findOp id = some o) (h : o.held = true) (hb : (o.rel = true ∧ s.writesBefore o.team o.gid id = true) ∨ s.heldBehind o = true) :
    s.applyHeld id = s := by
  unfold State.applyHeld
  rw [ho]
  dsimp only
  rw [if_neg (by simp [h])]
  exact if_pos (by simpa using hb)
theorem applyHeld_goes (ho : s.findOp id = some o) (h : o.held = true) (h1 : o.rel = false ∨ s.writesBefore o.team o.gid id = false) (h2 : s.heldBehind o = false) :
    s.applyHeld id = appliedNow (s.mapOp id fun (o : Op) => { o with held := false }) id o := by
  unfold State.applyHeld
  rw [ho]
  dsimp only
  rw [if_neg (by simp [h]), if_neg (by rcases h1 with h1 | h1 <;> simp [h1, h2])]
  rfl
theorem appliedNow_access {sp : Space} (hk : (∃ n, o.kind = .store sp n) ∨ (∃ n e, o.kind = .atomic sp n e)) : appliedNow u id o =
    if sp = .global then (u.sendHeld id).settleOp id
    else if sp = .scratch then u.at (max u.g (o.issued + firstServe o.kind)) (.scratchpadRowServe id 0)
    else u.at (max u.g (o.issued + 10)) (.bufferPortCycle id 0) := by
  obtain ⟨n, hk⟩ | ⟨n, e, hk⟩ := hk <;> rw [appliedNow, hk]
theorem appliedNow_bar {off : Nat} {act : BarUpd} (hk : o.kind = .bar off act) {v : State} (hv : v = u.settleLocal o.team o.gid id .scratch [(off, 16)]) :
    appliedNow u id o = if ((barAnswer v o off act).barApply o.team off act).1
      then (((barAnswer v o off act).barApply o.team off act).2.finishOp id).wakeReleases o.team o.gid
      else ((((barAnswer v o off act).barApply o.team off act).2.defer o .accessFault).finishOp id).wakeReleases o.team o.gid := by
  rw [appliedNow, hk]
  dsimp only
  rw [← hv]
  obtain ⟨b, t⟩ := (barAnswer v o off act).barApply o.team off act
  cases b <;> rfl
end Held

/-- Settles O42: the row of each event is one function of the state, and the clauses of the event are the branches of that function. A position
chooses among `candidates`, and what the chosen request meets there is `throughError`. -/
theorem memoryEventsAct : Obligations.MemoryEventsAct := by
  intro s
  refine ⟨fun st he => ?_, fun id he => ?_, fun id he => ?_, fun id he => ?_, fun id he => ?_, fun id he => ?_, fun id k he => ?_, fun id k he => ?_,
    fun id he => ?_, fun id lasting he => ?_, fun id lasting he => ?_, fun die ch he => ?_⟩
  -- a position: the four ways to choose the candidates are the branches of `candidates`
  · intro len waiting own mine fill again answered
    refine ⟨fun h => runEvent_next he (by simp only [h]; rfl), fun h => ?_⟩
    rw [positionStart_next he h]
    refine ⟨fun hl => by rw [position_off hl]; rfl, fun hl hs hr => by rw [position_trains hl hs hr]; rfl, fun hl hn cands hc pick hp => ?_⟩
    have hcands : cands = candidates s st := by
      change cands = if s.spent st then [] else if mine.isEmpty then (if own.isNone && s.claimed st then [] else fill) else mine
      rcases hc with ⟨h1, rfl⟩ | ⟨h1, h2, rfl⟩ | ⟨h1, h2, h3, h4, rfl⟩ | ⟨h1, h2, h3, rfl⟩
      · simp [h1]
      · simp [h1, h2]
      · simp [h1, h2, h3, h4]
      · rcases h3 with h3 | h3 <;> simp [h1, h2, h3]
    have hpick : pickOf (candidates s st) = pick := by rw [← hcands, hp]; rfl
    refine ⟨fun h0 => by rw [position_idle hl hn (hpick.trans h0)]; rfl, fun r hr t ht f hf => ?_⟩
    rw [position_serves hl hn (hpick.trans hr), ← ht]
    subst hf
    refine ⟨fun h1 h2 => by rw [throughError_clean h1 h2]; rfl, fun h1 h2 q hq => by rw [throughError_fails h1 h2 hq]; rfl,
      fun a ha => ⟨fun h2 e he => by rw [throughError_lasting ha h2 he]; rfl, fun h2 n d hd => by rw [throughError_passes ha h2 hd]; rfl⟩⟩
  · rw [loadReply_next he]
    unfold State.reply
    refine ⟨fun h => by rw [h], fun r hr u hu => ?_⟩
    rw [hr]
    dsimp only
    rw [← hu]
    refine ⟨fun hd => hu.trans (if_pos (by rw [hd]; rfl)), fun h => ?_, fun h hk => ?_, fun h hk v hv => ?_, fun h hk => ?_, fun h h1 h2 h3 => ?_⟩
    · rw [if_pos h]
      exact ⟨fun c hc => by rw [refusedReply_copy hc], fun hc => by rw [refusedReply_lanes hc]⟩
    · rw [if_neg (by simp [h]), hk]
      exact ⟨fun hw => by rw [walkReply_none hw], fun w hw => ⟨fun pa hj => by rw [walkReply_table hw hj], fun hj => by rw [walkReply_ends hw hj]⟩⟩
    · rw [if_neg (by simp [h]), hk]
      dsimp only
      rw [← hv]
      refine ⟨fun c hc => by rw [hc], fun hc => ?_⟩
      split
      · exact absurd ‹_› (hc _)
      · rfl
    · rw [if_neg (by simp [h]), hk]
    · rw [if_neg (by simp [h])]
      split
      · exact absurd ‹_› h1
      · exact absurd ‹_› h2
      · exact absurd ‹_› h3
      · rfl
  · rw [storePerform_next he]
    unfold State.storePerformed
    refine ⟨fun h => by rw [h], fun r hr => ?_⟩
    rw [hr]
    dsimp only
    refine ⟨fun h => congrArg _ (if_pos h), fun h => ?_⟩
    rw [if_neg (by simp [h])]
    refine ⟨fun c hk ho => ?_, fun h => ?_⟩
    · rw [hk, ho]
    · split
      · rcases h with h | h
        · exact absurd ‹_› (h _)
        · exact absurd ‹_› h
      · rfl
  · rw [storeAcknowledge_next he]
    unfold State.acknowledge
    refine ⟨fun h => by rw [h], fun r hr u hu => ?_⟩
    rw [hr]
    dsimp only
    rw [← hu]
    refine ⟨fun h => congrArg _ (if_pos h), fun h hk => ⟨fun c hc => ?_, fun hc => ?_⟩, fun h hk => ?_⟩
    · rw [if_neg (by simp [h]), hk, hc]
    · rw [if_neg (by simp [h]), hk]
      split
      · exact absurd ‹_› (hc _)
      · rfl
      · exact absurd rfl ‹_›
    · rw [if_neg (by simp [h])]
      split
      · exact absurd ‹_› hk
      · exact absurd ‹_› hk
      · rfl
  · rw [lineRecall_next he]
    unfold State.recalled
    refine ⟨fun h => by rw [h], fun q hq u hu => ?_⟩
    rw [hq]
    dsimp only
    rw [← hu]
    exact ⟨fun h => by rw [h], fun r hr => by rw [hr]⟩
  · rw [atomicPerform_next he]
    unfold State.atomicPerformed
    refine ⟨fun h => by rw [h], fun r hr => ?_⟩
    rw [hr]
    dsimp only
    refine ⟨fun h => congrArg _ (if_pos h), fun h => ?_⟩
    rw [if_neg (by simp [h])]
    exact ⟨fun h => congrArg _ (if_pos h), fun h => congrArg _ (if_neg (by simp [h]))⟩
  · rw [scratchpadRowServe_next he]
    unfold State.serveRows
    refine ⟨fun h => by rw [h], fun o ho => ?_⟩
    rw [ho]
    dsimp only
    refine ⟨fun h => congrArg _ (if_pos h), fun h => ?_⟩
    rw [if_neg (by simp [h])]
    refine ⟨fun rows hr => by rw [hr], fun h => ?_, fun h => ?_⟩
    · rw [List.getElem?_eq_none (Nat.le_of_eq h.symm)]
      exact congrArg _ (if_pos h)
    · rw [List.getElem?_eq_none (Nat.le_of_lt h)]
      exact congrArg _ (if_neg (Nat.ne_of_gt h))
  · rw [bufferPortCycle_next he]
    refine ⟨fun h => by rw [State.servePort, h], fun o ho => ⟨fun h => by rw [servePort_held ho h], fun m h hk => ?_, fun h hk => ?_⟩⟩
    · rw [servePort_column ho h hk]
      refine ⟨fun hl => congrArg _ (if_pos hl), fun hl hs => ?_, fun hl hs hb => ?_, fun hl hs hb v hv t j a n hu ht u hu' => ?_⟩
      · rw [if_neg hl, if_pos (by simp [hs])]
      · rw [if_neg hl, if_neg (by simp [hs]), if_pos hb]
      · rw [if_neg hl, if_neg (by simp [hs]), if_neg (by simp [hb]), ← hv, State.readColumn, hu, ht]
        subst hu'
        rfl
    · rw [servePort_lanes ho h hk]
      refine ⟨fun hl => congrArg _ (if_pos hl), fun hl hs => ?_, fun hl hs hb => ?_, fun hl hs hb u hu => ?_⟩
      · rw [if_neg hl, if_pos (by simp [hs])]
      · rw [if_neg hl, if_neg (by simp [hs]), if_pos hb]
      · rw [if_neg hl, if_neg (by simp [hs]), if_neg (by simp [hb]), ← hu]
  · rw [releaseApply_next he]
    refine ⟨fun h => by rw [State.applyHeld, h], fun o ho => ⟨fun h => ?_, fun h hb => by rw [applyHeld_stays ho h hb], fun h h1 h2 u hu => ?_⟩⟩
    · rw [State.applyHeld, ho]
      exact congrArg _ (if_pos (by simp [h]))
    · rw [applyHeld_goes ho h h1 h2, ← hu]
      refine ⟨fun sp hk => ?_, fun off act hk v hv w hw => ?_, fun n b c hk => by rw [appliedNow, hk], fun a b c d e hk => by rw [appliedNow, hk]⟩
      · rw [appliedNow_access hk]
        exact ⟨fun hs => congrArg _ (if_pos hs), fun hs => congrArg _ ((if_neg (by simp [hs])).trans (if_pos hs)),
          fun h1 h2 => congrArg _ ((if_neg h1).trans (if_neg h2))⟩
      · have hw' : barAnswer v o off act = w := by
          obtain ⟨⟨n, e, rfl⟩, rfl⟩ | ⟨ph, d, t, rfl, hd, ht, rfl⟩ | ⟨d, t, rfl, hd, ht, rfl⟩ := hw
          · rfl
          · simp only [barAnswer, hd, ht]
          · simp only [barAnswer, hd, ht]
        rw [appliedNow_bar hk hv, hw']
        exact ⟨fun hb => congrArg _ (if_pos hb), fun hb => congrArg _ (if_neg (by simp [hb]))⟩
  · rw [dramReadRetry_next he]
    unfold State.dramRetry
    refine ⟨fun h => by rw [h], fun r hr => ?_⟩
    rw [hr]
    dsimp only
    refine ⟨fun h => ?_, fun e c hd hk => ⟨fun h => ?_, fun h v hv w hw => ?_⟩⟩
    · split
      next h1 h2 =>
        rcases h with h | h
        · exact absurd h1 (h _ _)
        · simp [h] at h2
      · rfl
    · rw [hd, show (r.kind == .load || r.kind == .walk || r.kind == .atomic) = true by rcases hk with hk | hk | hk <;> rw [hk] <;> rfl]
      exact congrArg _ (if_pos h)
    · rw [hd, show (r.kind == .load || r.kind == .walk || r.kind == .atomic) = true by rcases hk with hk | hk | hk <;> rw [hk] <;> rfl]
      dsimp only
      rw [if_neg (not_not_intro h), ← hv, ← hw]
      refine ⟨fun hk => ?_, fun hk => ?_⟩
      · rw [hk]
        exact ⟨fun hn => by rw [hn], fun k hk => by rw [hk]⟩
      · split
        · exact absurd ‹_› hk
        · refine ⟨fun hn => by rw [hn], fun o ho => ?_⟩
          rw [ho]
          dsimp only
          refine ⟨fun c hc => by rw [hc]; rfl, fun hc => ?_⟩
          split
          · exact absurd ‹_› (hc _)
          · rfl
  · rw [meshFlitRetry_next he]
    unfold State.meshRetry
    intro fence port
    refine ⟨fun h => by rw [h], fun r hr => ?_⟩
    rw [hr]
    dsimp only
    refine ⟨fun h hd => ?_, fun h => ⟨fun d e hd => ?_, fun c hd => ?_, fun p hd => ?_⟩⟩
    · obtain ⟨d, e, hd⟩ | ⟨c, hd⟩ | ⟨p, hd⟩ := hd <;> rw [hd] <;> exact congrArg _ (if_neg h)
    · rw [hd]
      exact congrArg _ (if_pos h)
    · rw [hd]
      exact congrArg _ (if_pos h)
    · rw [hd]
      exact congrArg _ (if_pos h)
  -- refresh claims a channel position that begins now and that no seat owns
  · refine ⟨fun h h0 => ⟨runEvent_next he ?_, ?_⟩, fun h => runEvent_next he ?_⟩
    · simp [h, h0]
    · simp [State.claimed]
    · refine congrArg some (if_neg ?_)
      rcases h with h | h <;> simp [h]

end Sys2Proof.Proofs
end

section
/-! What the events of translation, waiting and deferred traps do when they are due (R21-R23, R142, R186, R338, R351, R353, R357, R358,
R365, R406). -/
namespace Sys2Proof.Proofs
open Sys2Proof Sys2Proof.Machine Sys2Proof.Laws

/-! ### The meaning of each event at hand -/

section Rows
variable {s : State} {id seat : Nat}
theorem tlbWalkComplete_next (h : s.ev = some (.tlbWalkComplete id)) : exec .tlbWalkComplete s = .next (s.endWalk id) := runEvent_next h rfl
theorem tlbinvComplete_next (h : s.ev = some (.tlbinvComplete id)) : exec .tlbinvComplete s = .next (s.stepTlbinv id) := runEvent_next h rfl
theorem logReplay_next (h : s.ev = some (.logReplay id)) : exec .logReplay s = .next (s.replay id) := runEvent_next h rfl
theorem chargedWaitDue_next (h : s.ev = some (.chargedWaitDue seat id)) : exec .chargedWaitDue s = .next (s.dueWait seat id) := runEvent_next h rfl
theorem lateWaitFreeze_next (h : s.ev = some (.lateWaitFreeze seat id)) : exec .lateWaitFreeze s = .next (s.lateWait seat id) := runEvent_next h rfl
theorem freezeResume_next (h : s.ev = some (.freezeResume seat)) : exec .freezeResume s = .next (s.thaw seat) := runEvent_next h rfl
variable {vf pasid va : Nat}
theorem priResponse_next {ok : Bool} (h : s.ev = some (.priResponse vf pasid va ok)) : exec .priResponse s = .next (s.priAnswer vf pasid va ok) :=
  runEvent_next h rfl
theorem atsCompletion_next {pa size : Nat} {rd wr : Bool} (h : s.ev = some (.atsCompletion vf pasid va pa size rd wr)) :
    exec .atsCompletion s = .next (if size = 0 then s else s.atsAnswer vf pasid va pa size rd wr) := runEvent_next h rfl
end Rows

/-! ### Translations that the host answers (R365), faults that firmware takes up (R358) -/

/-- With no walk that awaits the host, an answer finds none. -/
theorem atsWalks_nil {s : State} (h : ∀ w ∈ s.walks, w.ats = false) (vf pasid va : Nat) (pri : Bool) : s.atsWalks vf pasid va pri = [] :=
  List.filter_eq_nil_iff.2 fun w hw => by simp [h w hw]
/-- The fault named is taken up, or in its absence the first that is not forwarded. -/
theorem faultService_next {s : State} {id : Nat} {f : FaultRec} (he : s.ev = some (.faultService id))
    (hf : s.faults.find? (fun (f : FaultRec) => f.id == id) = some f
      ∨ (s.faults.find? (fun (f : FaultRec) => f.id == id) = none ∧ s.faults.find? (fun (f : FaultRec) => !f.forwarded) = some f)) :
    exec .faultService s = .next (s.serviceFault f) := by
  refine runEvent_next he ?_
  obtain h | ⟨h1, h2⟩ := hf
  · simp only [h]
  · simp only [h1, h2]

/-- Settles O43: the row of each event is one function of the state, and the clauses of the event are the branches of that function; the parties
of a walk fall into those that its leaf permits and the rest. -/
theorem translationEventsAct : Obligations.TranslationEventsAct := by
  intro s
  refine ⟨fun id he => ?_, fun id he => ?_, fun id he => ?_, fun vf pasid va ok he => ?_, fun vf pasid va pa size rd wr he => ?_, fun seat id he => ?_,
    fun seat id he => ?_, fun seat he => ?_, fun id he => ?_, fun slot word cause he => ?_, fun team gid he => ?_⟩
  · rw [tlbWalkComplete_next he]
    unfold State.endWalk
    refine ⟨fun h => by rw [h], fun w hw at_ ha bad hb => ?_⟩
    rw [hw]
    dsimp only
    rw [← ha]
    refine ⟨fun level leaf a hj h55 => ?_, fun level leaf a hj h55 hp asks no hasks hno => ?_, fun level x a hj => by rw [hj], fun level leaf a hj h55 hp => ?_,
      fun h1 h2 => ?_⟩
    · rw [hj]
      exact congrArg _ (if_neg (by simp [h55]))
    · rw [hj]
      dsimp only
      rw [if_pos h55, if_neg (by simpa using hp), List.partition_eq_filter_filter, ← hasks, show w.waiters.filter (not ∘ s.partyMay leaf) = no from hno.symm]
      refine ⟨fun h => ?_, fun h => ?_⟩
      · simp only [h, if_true]
      · simp only [h, if_false]
    · rw [hj]
      dsimp only
      rw [if_pos h55, if_pos (by simp [hp]), hb]
      rfl
    · subst hb
      split
      · exact absurd ‹_› (h2 _ _ _)
      · exact absurd ‹_› (h1 _ _ _)
      · rfl
  · rw [tlbinvComplete_next he]
    unfold State.stepTlbinv
    refine ⟨fun h => by rw [h], fun o asid page ho hk => ?_⟩
    rw [ho]
    dsimp only
    rw [hk]
    refine ⟨fun h u hu => ?_, fun h => ?_⟩
    · dsimp only
      rw [if_neg (ne_true_of_eq_false h), if_neg (ne_true_of_eq_false h), ← hu]
      exact ⟨fun hs => congrArg _ (if_pos hs), fun hs => congrArg _ (if_neg (by simp [hs]))⟩
    · dsimp only
      rw [if_pos h, if_pos h]
      exact ⟨fun hs => congrArg _ (if_pos hs), fun hs => congrArg _ (if_neg (by simp [hs]))⟩
  · rw [logReplay_next he]
    unfold State.replay
    refine ⟨fun h => by rw [h], fun o ho hk => ?_, fun o i ho hk => ?_⟩
    · rw [ho]
      dsimp only
      split
      · exact absurd ‹_› (hk _)
      · refine ⟨fun h => congrArg _ (if_pos h), fun h hz => ?_, fun h hz b hb => ?_⟩
        · rw [if_neg (by simp [h])]
          exact congrArg _ (if_pos hz)
        · rw [if_neg (by simp [h]), if_neg hz, ← hb]
          refine ⟨fun h1 h2 => congrArg _ (if_pos (by simp [h1, h2])), fun h => congrArg _ (if_neg ?_)⟩
          rcases h with h | h <;> simp [h]
    · rw [ho]
      dsimp only
      rw [hk]
      dsimp only
      split <;> rfl
  · rw [priResponse_next he]
    unfold State.priAnswer
    refine ⟨?_, fun h => ?_⟩
    · refine congrArg _ (congrArg (fun f => List.foldl f s _) ?_)
      funext t w
      cases ok <;> rfl
    · rw [atsWalks_nil h]
      rfl
  · rw [atsCompletion_next he]
    refine ⟨fun h => congrArg _ (if_pos h), fun h => ?_⟩
    rw [if_neg h]
    unfold State.atsAnswer
    refine ⟨fun h => ?_, fun w hw leaf hleaf may no hmay hno t ht => ?_⟩
    · rw [atsWalks_nil h]
      rfl
    · rw [hw, List.foldl_cons, List.foldl_nil]
      dsimp only
      rw [← hleaf, List.partition_eq_filter_filter, ← hmay, show w.waiters.filter (not ∘ s.partyMay leaf) = no from hno.symm]
      dsimp only
      rw [show (if no = [] then s.dropWalk w
          else (no.foldl (fun (t : State) p => (t.askedHost w.seat p.1).chargeParty w 1 Config.chargeFault p) (s.mapWalk w.id fun x => { x with waiters := no })).sendPri w) = t from by
        obtain ⟨h, rfl⟩ | ⟨h, rfl⟩ := ht
        · exact if_pos h
        · exact if_neg h]
      refine ⟨fun h => ?_, fun h => by rw [if_neg h]⟩
      rw [if_pos h, h]
      rfl
  · rw [chargedWaitDue_next he]
    unfold State.dueWait
    refine ⟨fun h => by rw [h], fun x hx => ?_⟩
    rw [hx]
    refine ⟨fun h => by simp only [h], fun w hw => ?_⟩
    dsimp only
    rw [hw]
    dsimp only
    refine ⟨fun h => congrArg _ (if_pos h), fun h1 h2 => ?_⟩
    rw [if_neg (by simp [h1, h2])]
    refine ⟨fun h => congrArg _ (if_pos h), fun hd ho hl => ?_, fun hd ho => ?_⟩
    · rw [if_neg (Nat.not_lt.2 hd)]
      exact congrArg _ (if_pos (by simp [ho, hl]))
    · rw [if_neg (Nat.not_lt.2 hd)]
      exact congrArg _ (if_neg (by rcases ho with ho | ho <;> simp [ho]))
  · rw [lateWaitFreeze_next he]
    unfold State.lateWait
    refine ⟨fun h => by rw [h], fun x hx => ?_⟩
    rw [hx]
    refine ⟨fun h => by simp only [h], fun w hw => ?_⟩
    dsimp only
    rw [hw]
    dsimp only
    refine ⟨fun h => congrArg _ (if_pos h), fun h1 h2 h3 => ?_⟩
    rw [if_neg (by simp [h1, h2, h3])]
    refine ⟨fun ho hf => congrArg _ (if_pos (by simp [ho, hf])), fun ho => congrArg _ (if_neg ?_)⟩
    rcases ho with ho | ho <;> simp [ho]
  · rw [freezeResume_next he]
    unfold State.thaw
    refine ⟨fun h => by rw [h], fun x hx => ?_⟩
    rw [hx]
    dsimp only
    refine ⟨fun h => ?_, fun tb hf hg hm d hd t ht => ?_⟩
    · split
      · rfl
      next hf =>
        refine congrArg _ (if_pos ?_)
        rcases h with h | h | h
        · rw [h] at hf; cases hf
        · exact .inl h
        · exact .inr (by simp [h])
    · rw [hf]
      dsimp only
      rw [if_neg (by simp [hg, hm]), ← hd, ← ht]
  · refine ⟨fun h => runEvent_next he (by rw [h]; rfl), fun f hf => ?_⟩
    rw [faultService_next he hf]
    unfold State.serviceFault
    refine ⟨fun level w a hw => by rw [hw], fun level w a hw hs => ?_, fun level w a hw hs hm => ?_,
      fun level w a hw hs hm kin hkin full hfull => ?_, fun hw => ?_⟩
    · rw [hw]
      dsimp only
      rw [if_pos hs]
      exact ⟨fun u hu => by rw [hu], fun hu => by rw [hu]⟩
    · rw [hw]
      dsimp only
      rw [if_neg (by simp [hs]), if_pos (by simpa using hm)]
    · rw [hw]
      dsimp only
      obtain ⟨-, h63⟩ : leafBit w 1 = true ∧ leafBit w 63 = false := by simpa using hm
      rw [if_neg (by simp [hs]), if_neg (by simp [h63])]
      subst hkin
      refine ⟨fun h => congrArg _ (if_pos h), fun h hf => ?_, fun h hf => ?_⟩
      · rw [if_neg (by simp [h])]
        exact congrArg _ (if_pos (hfull.symm.trans hf))
      · rw [if_neg (by simp [h])]
        exact congrArg _ (if_neg (by rw [← hfull, hf]; exact Bool.false_ne_true))
    · split
      · exact absurd ‹_› (hw _ _ _).1
      · exact absurd ‹_› (hw _ _ _).2
      · rfl
  -- an illegal instruction: the word at hand traps with its cause
  · refine ⟨fun h => runEvent_next he ?_, fun h c hc => runEvent_next he ?_⟩
    · exact if_neg (by simp [h])
    · subst hc
      exact if_pos h
  -- a deferred trap: taken by the group in focus, or by the group that is brought into focus for it
  · intro fresh
    refine ⟨fun hl ho => runEvent_next he ?_, fun t hl ho => runEvent_next he ?_, fun hl h => runEvent_next he ?_,
      fun t g hl ht hg => ⟨fun h => runEvent_next he ?_, fun p l u h hu v hv => ⟨fun ho => runEvent_next he ?_, fun r ho => runEvent_next he ?_⟩⟩⟩
    · simp only [hl, ho, if_true]
    · simp only [hl, ho, if_true]
      rfl
    · simp only [hl, Bool.false_eq_true, if_false]
      split
      next h1 h2 =>
        rcases h with h | h
        · rw [h] at h1; cases h1
        · rw [h] at h2; cases h2
      · rfl
    · simp only [hl, ht, hg, h, Bool.false_eq_true, if_false]
    · subst hv hu
      simp only [hl, ht, hg, h, ho, Bool.false_eq_true, if_false]
    · subst hv hu
      simp only [hl, ht, hg, h, ho, Bool.false_eq_true, if_false]
      rfl

end Sys2Proof.Proofs
end

section
/-! What a step runs where no event is due and a core picks a unit (R42, R44, R45, R76, R178, R188). -/
namespace Sys2Proof.Proofs
open Sys2Proof Sys2Proof.Machine Sys2Proof.Laws

/-- One function after another, on a next state. -/
theorem onNext_onNext (o : Out) (f k : State → State) : onNext (onNext o f) k = onNext o fun r => k (f r) := by cases o <;> rfl

/-- The retirement of a unit of the words `is`, unless it took a trap that leaves everything as the unit found it (R7, R211). -/
def keepUnit (is : List Instr) (r : State) : State :=
  match r.cur.trap with
  | none => r.retireUnit is
  | some t => if t.after then r.retireUnit is else r
/-- A unit of one word that decodes runs that word, looked at for errors before, and retires (R42, R76). -/
theorem runUnit_single {f : State} {u : UWord} {i : Instr} (h : instrOf u.word = some i) (ex : Instr → State → Out) :
    runUnit ex f [u] = onNext (checked ex u.word i (f.advance.load u)) (keepUnit [i]) := by
  simp only [runUnit, List.filterMap_cons, List.filterMap_nil, h]
  rfl
/-- A word that reads nothing uncorrectable runs in the state in which the errors it reads are corrected (R76). -/
theorem checked_clean {s : State} {w : W32} {i : Instr} (h : uncorrectables s w i = []) (ex : Instr → State → Out) :
    checked ex w i s = ex i (s.correct w i) := by
  simp only [checked, h]
/-- Where no single-bit error stands, there is nothing to correct (R76). -/
theorem correct_clean {s : State} (hf : s.srcG.flips = []) (hs : s.cur.team.sflips = []) (w : W32) (i : Instr) : s.correct w i = s := by
  have rows (l : List Nat) : l.filter [].contains = [] := List.filter_eq_nil_iff.2 fun _ _ => by simp
  have hit (l : List Nat) (m : Nat → LaneMask) :
      l.filterMap (fun k => if SMap.get 0 ([] : SMap LaneMask) k &&& m k = 0 then none else some (k, SMap.get 0 [] k &&& m k)) = [] :=
    List.filterMap_eq_nil_iff.2 fun k _ => if_pos BitVec.zero_and
  simp only [State.correct, hf, hs, rows, hit, List.foldl_nil, List.length_nil, if_true]

/-- Settles O54: what is picked is what the candidate considered, and a unit of one word is that word between its error checks and its retirement. -/
theorem stepRunsTheDecodedWord : Obligations.StepRunsTheDecodedWord := by
  intro s c f us hd hp
  have hstep : step s = onNext (runUnit exec f us) (fun r => r.endTurn c us) := by
    simp only [step, hd, hp]
    rfl
  refine ⟨consider_run (pick_run hp), hstep, fun u x hu hx => ⟨fun hc => ?_, fun hf hs => correct_clean hf hs _ _⟩⟩
  subst hu
  rw [hstep, runUnit_single (instrOf_ok hx), checked_clean hc, onNext_onNext]
  rfl

end Sys2Proof.Proofs
end

section
/-! What a scalar word leaves as it was (R46, R59, R190-R197, R228). -/
namespace Sys2Proof.Proofs
open Sys2Proof Sys2Proof.Machine Sys2Proof.Laws

/-! ### One register written -/

/-- A write of S[d] leaves the other scalars, whatever the form of the registers. -/
theorem getS_setS_ne {r : Regs} {d n : Nat} (v : W64) (h : n ≠ d) : (r.setS d v).getS n = r.getS n := by
  unfold Regs.setS
  split
  · rfl
  · exact congrArg (fun x => if n = 0 then 0 else x) (get_set_ne 0 v h)
/-- A write of C[d] leaves the other condition registers, whatever the form of the registers. -/
theorem getC_setC_ne {r : Regs} {d n : Nat} (v : LaneMask) (h : n ≠ d) : (r.setC d v).getC n = r.getC n := by
  unfold Regs.setC
  split
  · rfl
  · exact congrArg (fun x => if n = 7 then BitVec.allOnes 32 else x) (get_set_ne 0 v h)
@[simp] theorem setS_getC (r : Regs) (d n : Nat) (v : W64) : (r.setS d v).getC n = r.getC n := by simp only [Regs.getC, setS_c]
@[simp] theorem setC_getS (r : Regs) (d n : Nat) (v : LaneMask) : (r.setC d v).getS n = r.getS n := by simp only [Regs.getS, setC_s]

/-- Of a state only the registers of the group in focus and its error marks change. -/
def RegsAlone (s t : State) : Prop :=
  t = { s with cur := { s.cur with group := { s.cur.group with
    regs := t.cur.group.regs, poison := t.cur.group.poison, parity := t.cur.group.parity, flips := t.cur.group.flips } } }
theorem regsAlone_wS (s : State) (d : Nat) (v : W64) : RegsAlone s (s.wS d v) := by
  unfold RegsAlone State.wS State.onGroup Group.wS
  split <;> rfl
theorem regsAlone_wC (s : State) (d : Nat) (v : LaneMask) : RegsAlone s (s.wC d v) := by
  unfold RegsAlone State.wC State.onGroup Group.wC
  split <;> rfl
theorem RegsAlone.sameSpecials {s t : State} (h : RegsAlone s t) : SameSpecials s t := by
  rw [h]
  exact ⟨rfl, rfl, rfl, rfl, rfl, rfl, rfl, rfl⟩
theorem RegsAlone.sameBytes {s t : State} (h : RegsAlone s t) : SameBytes s t := by
  rw [h]
  exact ⟨fun p => readAt_congr rfl rfl rfl p 1, rfl, rfl, rfl, rfl, rfl⟩

/-! ### Words that write one scalar or one condition register -/

/-- What the word writes: S[d] or C[d]. -/
inductive Writes (s : State) (i : Instr) : State → Prop
  | scalar (d : Nat) (v : W64) (hd : d ∈ (uses i).ws) : Writes s i (s.wS d v)
  | cond (d : Nat) (v : LaneMask) (hd : d ∈ (uses i).wc) : Writes s i (s.wC d v)

/-- Past its register checks the word's one effect is a write of a scalar or condition register that it names, and it wakes no bank. -/
def ScalarWord (i : Instr) : Prop := (uses i).wv = [] ∧ ∀ s, ∃ F : State → State, exec i s = runPure i s F ∧ ∀ u, Writes u i (F u)

theorem ScalarWord.next {i : Instr} {s t : State} (hi : ScalarWord i) (hr : Ready i s) (h : exec i s = .next t) : Writes s i t := by
  obtain ⟨hw, hx⟩ := hi
  obtain ⟨F, hF, hW⟩ := hx s
  rw [hF, runPure_next hr, acting_bare hw] at h
  cases h
  exact hW s

section Shapes
variable {i : Instr} (hw : (uses i).wv = [])
include hw
theorem scalarWord_wS {d : Nat} {f : State → W64} (hd : d ∈ (uses i).ws) (hx : ∀ s, exec i s = runPure i s fun u => u.wS d (f u)) : ScalarWord i :=
  ⟨hw, fun s => ⟨_, hx s, fun _ => .scalar d _ hd⟩⟩
theorem scalarWord_scalar2 {d a b : SReg} {f : W64 → W64 → W64} (hd : d.val ∈ (uses i).ws) (hx : ∀ s, exec i s = scalar2 i d a b f s) : ScalarWord i :=
  scalarWord_wS hw hd hx
theorem scalarWord_scalar1 {d a : SReg} {f : W64 → W64} (hd : d.val ∈ (uses i).ws) (hx : ∀ s, exec i s = scalar1 i d a f s) : ScalarWord i :=
  scalarWord_wS hw hd hx
theorem scalarWord_cmp {d : CReg} {a b : SReg} {f : W64 → W64 → Bool} (hd : d.val ∈ (uses i).wc) (hx : ∀ s, exec i s = scalarCmp i d a b f s) :
    ScalarWord i := ⟨hw, fun s => ⟨_, hx s, fun _ => .cond d.val _ hd⟩⟩
end Shapes

theorem scalarWord_alu {i : Instr} {d a b : SReg} (h : i = .sadd d a b ∨ i = .ssub d a b ∨ i = .smul d a b ∨ i = .smulhS d a b
    ∨ i = .smulhZ d a b ∨ i = .sand d a b ∨ i = .sor d a b ∨ i = .sxor d a b ∨ i = .sshl d a b ∨ i = .sshrZ d a b ∨ i = .sshrS d a b
    ∨ i = .sminS d a b ∨ i = .smaxS d a b ∨ i = .sminZ d a b ∨ i = .smaxZ d a b ∨ i = .ssltS d a b ∨ i = .ssltZ d a b ∨ i = .sseq d a b) :
    ScalarWord i := by
  have hd : d.val ∈ [d.val] := List.mem_singleton_self _
  rcases h with rfl | rfl | rfl | rfl | rfl | rfl | rfl | rfl | rfl | rfl | rfl | rfl | rfl | rfl | rfl | rfl | rfl | rfl
  exacts [scalarWord_scalar2 rfl hd (exec_sadd d a b), scalarWord_scalar2 rfl hd (exec_ssub d a b), scalarWord_scalar2 rfl hd (exec_smul d a b),
    scalarWord_scalar2 rfl hd (exec_smulhS d a b), scalarWord_scalar2 rfl hd (exec_smulhZ d a b), scalarWord_scalar2 rfl hd (exec_sand d a b),
    scalarWord_scalar2 rfl hd (exec_sor d a b), scalarWord_scalar2 rfl hd (exec_sxor d a b), scalarWord_scalar2 rfl hd (exec_sshl d a b),
    scalarWord_scalar2 rfl hd (exec_sshrZ d a b), scalarWord_scalar2 rfl hd (exec_sshrS d a b), scalarWord_scalar2 rfl hd (exec_sminS d a b),
    scalarWord_scalar2 rfl hd (exec_smaxS d a b), scalarWord_scalar2 rfl hd (exec_sminZ d a b), scalarWord_scalar2 rfl hd (exec_smaxZ d a b),
    scalarWord_scalar2 rfl hd (exec_ssltS d a b), scalarWord_scalar2 rfl hd (exec_ssltZ d a b), scalarWord_scalar2 rfl hd (exec_sseq d a b)]
theorem scalarWord_immediate {i : Instr} {d a : SReg} {e : BitVec 12}
    (h : i = .saddi d a e ∨ i = .sandi d a e ∨ i = .sori d a e ∨ i = .sxori d a e) : ScalarWord i := by
  have hd : d.val ∈ [d.val] := List.mem_singleton_self _
  rcases h with rfl | rfl | rfl | rfl
  exacts [scalarWord_scalar1 rfl hd (exec_saddi d a e), scalarWord_scalar1 rfl hd (exec_sandi d a e), scalarWord_scalar1 rfl hd (exec_sori d a e),
    scalarWord_scalar1 rfl hd (exec_sxori d a e)]
theorem scalarWord_shift {i : Instr} {d a : SReg} {n : Fin 64} (h : i = .sshli d a n ∨ i = .sshriZ d a n ∨ i = .sshriS d a n) : ScalarWord i := by
  have hd : d.val ∈ [d.val] := List.mem_singleton_self _
  rcases h with rfl | rfl | rfl
  exacts [scalarWord_scalar1 rfl hd (exec_sshli d a n), scalarWord_scalar1 rfl hd (exec_sshriZ d a n), scalarWord_scalar1 rfl hd (exec_sshriS d a n)]
theorem scalarWord_literal {i : Instr} {d : SReg} {e : BitVec 18}
    (h : i = .slit d e ∨ i = .slitwZ d ∨ i = .slitwS d ∨ i = .slitwLo d ∨ i = .slitwHi d) : ScalarWord i := by
  have hd : d.val ∈ [d.val] := List.mem_singleton_self _
  rcases h with rfl | rfl | rfl | rfl | rfl
  exacts [scalarWord_wS rfl hd (exec_slit d e), scalarWord_wS rfl hd (exec_slitwZ d), scalarWord_wS rfl hd (exec_slitwS d),
    scalarWord_wS rfl hd (exec_slitwLo d), scalarWord_wS rfl hd (exec_slitwHi d)]
theorem scalarWord_compare {i : Instr} {d : CReg} {a b : SReg} (h : i = .scmpEq d a b ∨ i = .scmpNe d a b ∨ i = .scmpLtS d a b
    ∨ i = .scmpLeS d a b ∨ i = .scmpLtZ d a b ∨ i = .scmpLeZ d a b) : ScalarWord i := by
  have hd : d.val ∈ [d.val] := List.mem_singleton_self _
  rcases h with rfl | rfl | rfl | rfl | rfl | rfl
  exacts [scalarWord_cmp rfl hd (exec_scmpEq d a b), scalarWord_cmp rfl hd (exec_scmpNe d a b), scalarWord_cmp rfl hd (exec_scmpLtS d a b),
    scalarWord_cmp rfl hd (exec_scmpLeS d a b), scalarWord_cmp rfl hd (exec_scmpLtZ d a b), scalarWord_cmp rfl hd (exec_scmpLeZ d a b)]
theorem scalarWord_lanes {i : Instr} {d : SReg} {a : VReg} {w : ExtW} {l : Fin 32} {o : FoldOp}
    (h : i = .sext d a w l ∨ i = .sextFirst d a w ∨ i = .sextLast d a w ∨ i = .vfold d a o) : ScalarWord i := by
  have hd : d.val ∈ [d.val] := List.mem_singleton_self _
  rcases h with rfl | rfl | rfl | rfl
  exacts [scalarWord_wS rfl hd (exec_sext d a w l), scalarWord_wS rfl hd (exec_sextFirst d a w), scalarWord_wS rfl hd (exec_sextLast d a w),
    scalarWord_wS rfl hd (exec_vfold d a o)]

/-- Settles O6: each word of the list writes one register that it names, and such a write changes nothing else. -/
theorem scalarWordsFrame : Obligations.ScalarWordsFrame := by
  intro s t i hr h hi
  have hs : ScalarWord i := by
    obtain ⟨_, _, _, hi⟩ | ⟨_, _, _, hi⟩ | ⟨_, _, _, hi⟩ | ⟨_, _, hi⟩ | ⟨_, _, _, hi⟩ | ⟨_, _, _, _, _, hi⟩ := hi
    · exact scalarWord_alu hi
    · exact scalarWord_immediate hi
    · exact scalarWord_shift hi
    · exact scalarWord_literal hi
    · exact scalarWord_compare hi
    · exact scalarWord_lanes hi
  cases hs.next hr h with
  | scalar d v hd =>
    have ha := regsAlone_wS s d v
    refine ⟨fun n hn => ?_, fun n _ => ?_, fun n L => ?_, fun L => ?_, ha.sameSpecials, ha.sameBytes, ha⟩ <;> rw [wS_cur_group_regs]
    · exact getS_setS_ne v fun e => hn (e ▸ hd)
    · exact setS_getC _ _ _ _
    · rw [Regs.getV, setS_v]; rfl
    · rw [Regs.getN, setS_nest]; rfl
  | cond d v hd =>
    have ha := regsAlone_wC s d v
    refine ⟨fun n _ => ?_, fun n hn => ?_, fun n L => ?_, fun L => ?_, ha.sameSpecials, ha.sameBytes, ha⟩ <;> rw [wC_cur_group_regs]
    · exact setC_getS _ _ _ _
    · exact getC_setC_ne v fun e => hn (e ▸ hd)
    · rw [Regs.getV, setC_v]; rfl
    · rw [Regs.getN, setC_nest]; rfl

end Sys2Proof.Proofs
end

section
/-! The arrival of a group at a regroup point (R56, R230, R231). -/
namespace Sys2Proof.Proofs
open Sys2Proof Sys2Proof.Machine Sys2Proof.Laws

/-- A regroup point refuses a group where a lane is nested, or the team stands at another point (R56). -/
theorem regroupClash_iff {s : State} {me : Regroup} : regroupClash s me = true ↔
    (∃ L, L < 32 ∧ s.rN L ≠ 0 ∧ s.rN L ≠ 255) ∨ (s.cur.team.regroup ≠ none ∧ s.cur.team.regroup ≠ some me) := by
  have hnest (n : Byte) : (1 ≤ n.toNat ∧ n.toNat ≤ 254) ↔ n ≠ 0 ∧ n ≠ 255 := by bv_omega
  simp only [regroupClash, Bool.or_eq_true, List.any_eq_true, decide_eq_true_eq, hnest, mem_allLanes, Bool.and_eq_true, Option.isSome_iff_ne_none,
    bne_iff_ne]

/-- Settles O39: a vregrp wakes no bank, and its one check is the clash with the point. -/
theorem regroupArrival : Obligations.RegroupArrival := by
  intro s f n c p hr me nested other
  have ha : s.acting (.vregrp f n c p) = s := acting_bare rfl
  have hc : regroupClash s me = true ↔ nested ∨ other := regroupClash_iff
  rw [exec_vregrp, execVregrp]
  refine ⟨fun hn ho => runWord_next hr ?_, fun h => runWord_error hr ?_⟩
  · rw [ha]
    exact if_neg (mt hc.1 (not_or.2 ⟨hn, ho⟩))
  · rw [ha]
    exact if_pos (hc.2 h)

end Sys2Proof.Proofs
end

section
/-! What the mask words and exit do to the nesting counters (R49, R50, R209). -/
namespace Sys2Proof.Proofs
open Sys2Proof Sys2Proof.Machine Sys2Proof.Laws

/-! ### The trap of lanes of one kind is that of the lowest lane (R7) -/

/-- Among traps of one kind in ascending lanes the first is taken. -/
theorem worstTrap_lanes {k : TrapKind} {L : Nat} {Ls : List Nat} (h : (L :: Ls).Pairwise (· < ·)) :
    worstTrap (laneTrap k L) (Ls.map (laneTrap k)) = laneTrap k L := by
  have hall := worstTrap_noWorse (laneTrap k L) (Ls.map (laneTrap k)) _ (List.mem_cons_self ..)
  obtain e | hm := List.mem_cons.1 (worstTrap_mem (laneTrap k L) (Ls.map (laneTrap k)))
  · exact e
  · obtain ⟨K, hK, e⟩ := List.mem_map.1 hm
    have hLK : L < K := (List.pairwise_cons.1 h).1 K hK
    rw [← e] at hall
    simp only [NoWorse, laneTrap] at hall
    omega
/-- A check of lanes in ascending order takes the trap of the lowest that fails. -/
theorem check_lanes {k : TrapKind} {l Ls : List Nat} {L : Nat} (hl : l.Pairwise (· < ·)) (h : l = L :: Ls) :
    check (l.map (laneTrap k)) = .error (laneTrap k L) := by
  subst h
  rw [List.map_cons, check_cons, worstTrap_lanes hl]

/-! ### Counters written lane by lane -/

theorem RegsAlone.refl (s : State) : RegsAlone s s := rfl
theorem RegsAlone.trans {s t u : State} (h : RegsAlone s t) (k : RegsAlone t u) : RegsAlone s u := by
  unfold RegsAlone at *
  rw [k, h]
theorem regsAlone_wN (s : State) (L : Nat) (v : Byte) : RegsAlone s (s.wN L v) := rfl

/-- The counters of the lanes listed take their values. -/
def putNest (v : Nat → Byte) (l : List Nat) (s : State) : State := l.foldl (fun t L => t.wN L (v L)) s
theorem putNest_regsAlone (v : Nat → Byte) (l : List Nat) (s : State) : RegsAlone s (putNest v l s) := by
  induction l generalizing s with
  | nil => exact .refl s
  | cons L l ih => exact (regsAlone_wN s L (v L)).trans (ih _)
/-- A write of counters leaves the other registers. -/
theorem putNest_others (v : Nat → Byte) (l : List Nat) (s : State) : (putNest v l s).cur.group.regs.s = s.cur.group.regs.s
    ∧ (putNest v l s).cur.group.regs.v = s.cur.group.regs.v ∧ (putNest v l s).cur.group.regs.c = s.cur.group.regs.c := by
  induction l generalizing s with
  | nil => exact ⟨rfl, rfl, rfl⟩
  | cons L l ih => exact ih (s.wN L (v L))
/-- A counter after a write of those of the lanes listed. -/
theorem putNest_getN {s : State} (h : RegsWf s.cur.group.regs) (v : Nat → Byte) (l : List Nat) (K : Nat) :
    (putNest v l s).cur.group.regs.getN K = if K ∈ l then v K else s.cur.group.regs.getN K := by
  induction l generalizing s with
  | nil => rfl
  | cons L l ih =>
    refine (ih (s := s.wN L (v L)) (setN_wf L (v L) h)).trans ?_
    rw [wN_cur_group_regs, getN_setN h]
    by_cases hL : K = L
    · subst hL; simp
    · simp [hL]

/-! ### The counters of the issuing split -/

/-- The registers `r` differ from the group's in the counters of the issuing split alone, which `f` relates to what the word read. -/
def NestBy (s : State) (f : Nat → Nat → Nat → Prop) (r : Regs) : Prop :=
  (∀ L, L < 32 → s.lanes.getLsbD L = true → f L (s.rN L).toNat (r.getN L).toNat)
    ∧ (∀ L, L < 32 → ¬s.lanes.getLsbD L = true → r.getN L = s.cur.group.regs.getN L)
    ∧ r.s = s.cur.group.regs.s ∧ r.v = s.cur.group.regs.v ∧ r.c = s.cur.group.regs.c
/-- The state with the registers `r`, and the error marks of `k`. -/
def putRegs (s : State) (r : Regs) (k : Group) : State :=
  s.onGroup fun g => { g with regs := r, poison := k.poison, parity := k.parity, flips := k.flips }
/-- The counters that `m` gives the lanes. -/
def nestBytes (s : State) (m : Nat → Nat → Nat) (L : Nat) : Byte := BitVec.ofNat 8 (m L (s.rN L).toNat)
/-- A change of the split's counters by `m` is a write of registers that any relation meets which `m` meets lane by lane. -/
theorem mapNest_spec {s : State} (h : RegsWf s.cur.group.regs) {m : Nat → Nat → Nat} {f : Nat → Nat → Nat → Prop}
    (hm : ∀ L n, n < 256 → m L n < 256) (hf : ∀ L, L < 32 → s.lanes.getLsbD L = true → f L (s.rN L).toNat (m L (s.rN L).toNat)) :
    ∃ r k, NestBy s f r ∧ s.mapNest m = putRegs s r k := by
  have he : s.mapNest m = putNest (nestBytes s m) s.splitLanes s := rfl
  have hmem (L : Nat) : L ∈ s.splitLanes ↔ L < 32 ∧ s.lanes.getLsbD L = true := mem_lanesOf
  refine ⟨_, _, ⟨fun L hL hs => ?_, fun L hL hs => ?_, putNest_others _ s.splitLanes s⟩, he.trans (putNest_regsAlone _ s.splitLanes s)⟩
  · rw [putNest_getN h, if_pos ((hmem L).2 ⟨hL, hs⟩), nestBytes, BitVec.toNat_ofNat, Nat.mod_eq_of_lt (hm L _ (s.rN L).isLt)]
    exact hf L hL hs
  · rw [putNest_getN h, if_neg fun e => hs ((hmem L).1 e).2]

/-! ### The overflow of vif -/

/-- The check of vif fails exactly with the lowest lane of the split that stands at 254. -/
theorem vif_check_error {s : State} {L : Nat} (hL : L < 32) (hs : s.lanes.getLsbD L = true) (h : s.rN L = 254)
    (hlow : ∀ K, K < L → s.lanes.getLsbD K = true → s.rN K ≠ 254) :
    check ((s.splitLanes.filter fun L => s.rN L == 254).map (laneTrap .nestOverflow)) = .error (laneTrap .nestOverflow L) := by
  have hmem : ∀ K, K ∈ s.splitLanes.filter (fun L => s.rN L == 254) ↔ (K < 32 ∧ s.lanes.getLsbD K = true) ∧ s.rN K = 254 := fun K => by
    rw [List.mem_filter, State.splitLanes, mem_lanesOf, beq_iff_eq]
  have hord : (s.splitLanes.filter fun L => s.rN L == 254).Pairwise (· < ·) := (lanesOf_ascending s.lanes).filter _
  generalize s.splitLanes.filter (fun L => s.rN L == 254) = l at hmem hord
  have hin := (hmem L).2 ⟨⟨hL, hs⟩, h⟩
  cases l with
  | nil => cases hin
  | cons K Ks =>
    obtain ⟨⟨-, hK⟩, hK'⟩ := (hmem K).1 (List.mem_cons_self ..)
    have hge : L ≤ K := Nat.le_of_not_lt fun hlt => hlow K hlt hK hK'
    obtain rfl : L = K := (List.mem_cons.1 hin).resolve_right fun hm => by
      have := (List.pairwise_cons.1 hord).1 L hm
      omega
    exact check_lanes hord rfl
theorem vif_check_ok {s : State} (h : ∀ L, L < 32 → s.lanes.getLsbD L = true → s.rN L ≠ 254) :
    check ((s.splitLanes.filter fun L => s.rN L == 254).map (laneTrap .nestOverflow)) = .ok () := by
  have : s.splitLanes.filter (fun L => s.rN L == 254) = [] := List.filter_eq_nil_iff.2 fun L hL => by
    obtain ⟨h32, hs⟩ := mem_lanesOf.1 hL
    simpa using h L h32 hs
  rw [this]
  rfl

/-! ### Retired lanes -/

theorem retire_splits (u : State) : u.retire.cur.group.splits = u.cur.group.splits.filter fun p => p.lanes &&& ~~~u.cur.group.retiredMask != 0 := by
  unfold State.retire
  dsimp only
  split <;> rfl
theorem retire_ended {u : State} (h : u.cur.group.retiredMask = BitVec.allOnes 32) : u.retire.cur.group.ended = true := by
  simp [State.retire, h, State.at, State.now, State.onGroup]

/-! ### The table of R49, and each word as a change of the split's counters by its column -/

/-- The counter of lane L after vif with the condition C. -/
def afterVif (C : LaneMask) (L n : Nat) : Nat := if n = 255 then 255 else if n = 0 ∧ C.getLsbD L then 0 else n + 1
/-- The counter after velse. -/
def afterVelse (_ n : Nat) : Nat := if n = 0 then 1 else if n = 1 then 0 else n
/-- The counter after vend. -/
def afterVend (_ n : Nat) : Nat := if n = 0 ∨ n = 255 then n else n - 1
/-- The counter of lane L where the active lanes of the condition C take v: vbrk, and with 255 vkill. -/
def afterLeave (C : LaneMask) (v L n : Nat) : Nat := if n = 0 ∧ C.getLsbD L then v else n
/-- The counter after exit. -/
def afterExit (_ n : Nat) : Nat := if n = 0 then 255 else n

theorem afterVif_lt {C : LaneMask} {L n : Nat} (hn : n < 256) : afterVif C L n < 256 := by
  unfold afterVif
  split_ifs <;> omega
theorem afterVelse_lt {L n : Nat} (hn : n < 256) : afterVelse L n < 256 := by
  unfold afterVelse
  split_ifs <;> omega
theorem afterVend_lt {L n : Nat} (hn : n < 256) : afterVend L n < 256 := by
  unfold afterVend
  split_ifs <;> omega
theorem afterLeave_lt {C : LaneMask} {v L n : Nat} (hv : v < 256) (hn : n < 256) : afterLeave C v L n < 256 := by
  unfold afterLeave
  split_ifs <;> omega
theorem afterExit_lt {L n : Nat} (hn : n < 256) : afterExit L n < 256 := by
  unfold afterExit
  split_ifs <;> omega

theorem afterVif_table {C : LaneMask} {L n : Nat} : (n = 0 → C.getLsbD L = true → afterVif C L n = 0) ∧ (n = 0 → ¬C.getLsbD L = true → afterVif C L n = 1)
    ∧ (1 ≤ n → n ≤ 253 → afterVif C L n = n + 1) ∧ (n = 255 → afterVif C L n = 255) := by
  unfold afterVif
  refine ⟨fun h0 hc => ?_, fun h0 hc => ?_, fun h1 h2 => ?_, fun h3 => if_pos h3⟩
  · rw [if_neg (by omega), if_pos ⟨h0, hc⟩]
  · rw [if_neg (by omega), if_neg fun e => hc e.2, h0]
  · rw [if_neg (by omega), if_neg (by omega)]
theorem afterVelse_table {L n : Nat} : (n = 0 → afterVelse L n = 1) ∧ (n = 1 → afterVelse L n = 0) ∧ (2 ≤ n → afterVelse L n = n) := by
  unfold afterVelse
  refine ⟨fun h0 => if_pos h0, fun h1 => ?_, fun h2 => ?_⟩
  · rw [if_neg (by omega), if_pos h1]
  · rw [if_neg (by omega), if_neg (by omega)]
theorem afterVend_table {L n : Nat} :
    (n = 0 → afterVend L n = 0) ∧ (1 ≤ n → n ≤ 254 → afterVend L n = n - 1) ∧ (n = 255 → afterVend L n = 255) := by
  unfold afterVend
  exact ⟨fun h0 => (if_pos (.inl h0)).trans h0, fun h1 h2 => if_neg (by omega), fun h3 => (if_pos (.inr h3)).trans h3⟩
theorem afterLeave_table {C : LaneMask} {v L n : Nat} : (n = 0 → C.getLsbD L = true → afterLeave C v L n = v)
    ∧ (n = 0 → ¬C.getLsbD L = true → afterLeave C v L n = 0) ∧ (1 ≤ n → afterLeave C v L n = n) := by
  unfold afterLeave
  exact ⟨fun h0 hc => if_pos ⟨h0, hc⟩, fun h0 hc => (if_neg fun e => hc e.2).trans h0, fun h1 => if_neg (by omega)⟩
theorem afterExit_table {L n : Nat} : (n = 0 → afterExit L n = 255) ∧ (1 ≤ n → afterExit L n = n) := by
  unfold afterExit
  exact ⟨fun h0 => if_pos h0, fun h1 => if_neg (by omega)⟩

section Words
variable {s : State} (hl : s.cur.live = true)
include hl
theorem vif_next {c : CReg} (h : ∀ L, L < 32 → s.lanes.getLsbD L = true → s.rN L ≠ 254) :
    exec (.vif c) s = .next (s.mapNest (afterVif (s.rC c))) := by
  rw [exec_vif, execVif, runWord_bare hl rfl rfl, vif_check_ok h]
  rfl
theorem vif_trap {c : CReg} {L : Nat} (hL : L < 32) (hs : s.lanes.getLsbD L = true) (h : s.rN L = 254)
    (hlow : ∀ K, K < L → s.lanes.getLsbD K = true → s.rN K ≠ 254) : exec (.vif c) s = .next (s.trapWord (laneTrap .nestOverflow L)) := by
  rw [exec_vif, execVif, runWord_bare hl rfl rfl, vif_check_error hL hs h hlow]
theorem velse_next : exec .velse s = .next (s.mapNest afterVelse) := (exec_velse s).trans (runPure_bare hl rfl rfl)
theorem vend_next : exec .vend s = .next (s.mapNest afterVend) := (exec_vend s).trans (runPure_bare hl rfl rfl)
theorem vbrk_next (c : CReg) (m : Fin 256) : exec (.vbrk c m) s = .next (s.mapNest (afterLeave (s.rC c) m.val)) :=
  (exec_vbrk c m s).trans (runPure_bare hl rfl rfl)
theorem vkill_next (c : CReg) : exec (.vkill c) s = .next (s.mapNest (afterLeave (s.rC c) 255)).retire :=
  (exec_vkill c s).trans (runPure_bare hl rfl rfl)
theorem exit_next : exec .exit s = .next ((s.mapNest afterExit).goto (s.cur.pkt + 16) 0).retire := (exec_exit s).trans (runPure_bare hl rfl rfl)
end Words

/-- Settles O23: each mask word is a change of the split's counters by its column of the table; vif alone has a check. -/
theorem maskWordResults : Obligations.MaskWordResults := by
  intro s c m hl hwf inSplit set holds put gives ends
  -- a word that changes the counters by `mp`, where `mp` meets the table `f` of R49 lane by lane
  have counts {i : Instr} {f : Nat → Nat → Nat → Prop} {mp : Nat → Nat → Nat} (hx : exec i s = .next (s.mapNest mp))
      (hm : ∀ L n, n < 256 → mp L n < 256) (hf : ∀ L, L < 32 → inSplit L → f L (s.rN L).toNat (mp L (s.rN L).toNat)) : gives i f := by
    obtain ⟨r, k, hn, he⟩ := mapNest_spec hwf hm hf
    exact ⟨r, k, hn, hx.trans (congrArg _ he)⟩
  have retires {i : Instr} {go : State → State} {f : Nat → Nat → Nat → Prop} {mp : Nat → Nat → Nat} (hx : exec i s = .next (go (s.mapNest mp)).retire)
      (hm : ∀ L n, n < 256 → mp L n < 256) (hf : ∀ L, L < 32 → inSplit L → f L (s.rN L).toNat (mp L (s.rN L).toNat)) : ends i go f := by
    obtain ⟨r, k, hn, he⟩ := mapNest_spec hwf hm hf
    exact ⟨r, k, hn, hx.trans (by rw [he]; rfl)⟩
  clear_value gives ends
  exact ⟨fun h => counts (vif_next hl h) (fun _ _ => afterVif_lt) fun _ _ _ => afterVif_table,
    fun L hL hs h hlow => vif_trap hl hL hs h hlow,
    counts (velse_next hl) (fun _ _ => afterVelse_lt) fun _ _ _ => afterVelse_table,
    counts (vend_next hl) (fun _ _ => afterVend_lt) fun _ _ _ => afterVend_table,
    counts (vbrk_next hl c m) (fun _ _ => afterLeave_lt m.isLt) fun _ _ _ => afterLeave_table,
    retires (go := id) (vkill_next hl c) (fun _ _ => afterLeave_lt (by omega)) fun _ _ _ => afterLeave_table,
    retires (go := fun t => t.goto (s.cur.pkt + 16) 0) (exit_next hl) (fun _ _ => afterExit_lt) fun _ _ _ => afterExit_table,
    retire_splits, fun u => retire_ended⟩

end Sys2Proof.Proofs
end

section
/-! The splits that a brx leaves (R47, R54, R207, R208, log 104). -/
namespace Sys2Proof.Proofs
open Sys2Proof Sys2Proof.Machine Sys2Proof.Laws

/-! ### The targets of the active lanes -/

/-- One lane joins the targets found so far. -/
def addTarget (f : Nat → Int) (l : List (Int × LaneMask)) (L : Nat) : List (Int × LaneMask) :=
  if l.any fun p => p.1 == f L then l.map fun p => if p.1 = f L then (p.1, p.2 ||| (1#32 <<< L)) else p else l ++ [(f L, 1#32 <<< L)]
theorem brxTargets_eq (f : Nat → Int) (lanes : List Nat) : brxTargets f lanes = lanes.foldl (addTarget f) [] := rfl

/-- The targets listed are those of the lanes that have joined, and each such lane's bit stands with its target. -/
def Covers (f : Nat → Int) (joined : Nat → Prop) (l : List (Int × LaneMask)) : Prop :=
  (∀ p ∈ l, ∃ L, joined L ∧ p.1 = f L) ∧ ∀ L, joined L → ∃ p ∈ l, p.1 = f L ∧ p.2.getLsbD L = true

theorem getLsbD_laneBit {L : Nat} (hL : L < 32) : (1#32 <<< L).getLsbD L = true := by simp [hL]

theorem Covers.add {f : Nat → Int} {joined : Nat → Prop} {l : List (Int × LaneMask)} {L : Nat} (hL : L < 32) (h : Covers f joined l) :
    Covers f (fun K => K = L ∨ joined K) (addTarget f l L) := by
  obtain ⟨hfrom, hcov⟩ := h
  unfold addTarget
  split
  next hany =>
    -- the lane's target is listed: its bit joins the mask there
    obtain ⟨q, hq, hqf⟩ := List.any_eq_true.1 hany
    refine ⟨fun p hp => ?_, fun K hK => ?_⟩
    · obtain ⟨r, hr, rfl⟩ := List.mem_map.1 hp
      obtain ⟨K, hK, he⟩ := hfrom r hr
      exact ⟨K, .inr hK, by split <;> exact he⟩
    · obtain rfl | hK := hK
      · have hqf : q.1 = f K := by simpa using hqf
        refine ⟨_, List.mem_map.2 ⟨q, hq, rfl⟩, ?_⟩
        rw [if_pos hqf]
        exact ⟨hqf, by rw [BitVec.getLsbD_or, getLsbD_laneBit hL, Bool.or_true]⟩
      · obtain ⟨r, hr, he, hbit⟩ := hcov K hK
        refine ⟨_, List.mem_map.2 ⟨r, hr, rfl⟩, ?_⟩
        split
        · exact ⟨he, by rw [BitVec.getLsbD_or, hbit, Bool.true_or]⟩
        · exact ⟨he, hbit⟩
  next =>
    -- a new target, with the lane's bit alone
    refine ⟨fun p hp => ?_, fun K hK => ?_⟩
    · obtain hp | hp := List.mem_append.1 hp
      · obtain ⟨K, hK, he⟩ := hfrom p hp
        exact ⟨K, .inr hK, he⟩
      · rw [List.mem_singleton.1 hp]
        exact ⟨L, .inl rfl, rfl⟩
    · obtain rfl | hK := hK
      · exact ⟨_, List.mem_append_right _ (List.mem_singleton_self _), rfl, getLsbD_laneBit hL⟩
      · obtain ⟨r, hr, he, hbit⟩ := hcov K hK
        exact ⟨r, List.mem_append_left _ hr, he, hbit⟩
theorem Covers.foldl {f : Nat → Int} {lanes : List Nat} (hl : ∀ L ∈ lanes, L < 32) {joined : Nat → Prop} {l : List (Int × LaneMask)}
    (h : Covers f joined l) : Covers f (fun K => K ∈ lanes ∨ joined K) (lanes.foldl (addTarget f) l) := by
  induction lanes generalizing joined l with
  | nil => simpa using h
  | cons L lanes ih =>
    have := ih (fun K hK => hl K (List.mem_cons_of_mem _ hK)) (h.add (hl L (List.mem_cons_self ..)))
    simpa only [List.mem_cons, List.foldl_cons, or_assoc, or_left_comm] using this
/-- The targets of a brx are those of the lanes it is given, with their lanes. -/
theorem brxTargets_covers {f : Nat → Int} {lanes : List Nat} (hl : ∀ L ∈ lanes, L < 32) :
    (∀ p ∈ brxTargets f lanes, ∃ L ∈ lanes, p.1 = f L) ∧ ∀ L ∈ lanes, ∃ p ∈ brxTargets f lanes, p.1 = f L ∧ p.2.getLsbD L = true := by
  have h : Covers f (fun _ => False) [] := ⟨by simp, by simp⟩
  simpa [brxTargets_eq, Covers] using h.foldl hl

/-! ### The checks of a brx -/

/-- The traps of a brx: a misaligned base, and each lane whose target is not canonical. -/
def brxTraps (s : State) (b : SReg) (a : VReg) : List TrapReq :=
  (if fld (s.rS b).toNat 3 0 ≠ 0 then [trapOf .misaligned] else [])
    ++ (s.active.filter fun L => !(canonical (brxTarget s b a L))).map (laneTrap .accessFault)
/-- A trap of a lower code than all the others is the one taken (R7, R332). -/
theorem check_lowest {t : TrapReq} {ts : List TrapReq} (h : ∀ u ∈ ts, trapCode t.kind < trapCode u.kind) : check (t :: ts) = .error t := by
  rw [check_cons]
  obtain e | hm := List.mem_cons.1 (worstTrap_mem t ts)
  · rw [e]
  · exact absurd (worstTrap_noWorse t ts _ (List.mem_cons_self ..)).kind_le (Nat.not_le.2 (h _ hm))
theorem fld_slot (n : Nat) : fld n 3 0 = n % 16 := fld_low n 3
theorem active_ascending (s : State) : s.active.Pairwise (· < ·) := List.pairwise_lt_range.filter _

section Checks
variable {s : State} {b : SReg} {a : VReg}
/-- Misaligned has a lower code than AccessFault: it is the trap taken (R7, R332). -/
theorem check_brx_misaligned (h : (s.rS b).toNat % 16 ≠ 0) : check (brxTraps s b a) = .error (trapOf .misaligned) := by
  rw [brxTraps, fld_slot, if_pos h, List.singleton_append]
  refine check_lowest fun u hu => ?_
  obtain ⟨L, -, rfl⟩ := List.mem_map.1 hu
  exact Nat.lt_succ_self (trapCode .misaligned)
theorem check_brx_fault {L : Nat} {Ls : List Nat} (h : (s.rS b).toNat % 16 = 0)
    (hL : (s.active.filter fun L => !(canonical (brxTarget s b a L))) = L :: Ls) : check (brxTraps s b a) = .error (laneTrap .accessFault L) := by
  rw [brxTraps, fld_slot, if_neg (not_not.2 h), List.nil_append]
  exact check_lanes ((active_ascending s).filter _) hL
theorem check_brx_ok (h : (s.rS b).toNat % 16 = 0) (hc : ∀ L ∈ s.active, canonical (brxTarget s b a L) = true) : check (brxTraps s b a) = .ok () := by
  have hf : (s.active.filter fun L => !(canonical (brxTarget s b a L))) = [] := List.filter_eq_nil_iff.2 fun L hL => by simp [hc L hL]
  rw [brxTraps, fld_slot, if_neg (not_not.2 h), hf]
  rfl
theorem brx_next (hr : Ready (.brx b a) s) (h : check (brxTraps s b a) = .ok ()) :
    exec (.brx b a) s = .next (brxSplit s (brxTargets (brxTarget s b a) s.active)) := by
  rw [exec_brx, execBrx]
  refine runWord_next hr ?_
  rw [acting_bare rfl]
  change (match check (brxTraps s b a) with
    | .error t => .error t
    | .ok _ => .ok (brxSplit s (brxTargets (brxTarget s b a) s.active)) : Except TrapReq State) = _
  rw [h]
theorem brx_trap {t : TrapReq} (hr : Ready (.brx b a) s) (h : check (brxTraps s b a) = .error t) : exec (.brx b a) s = .next (s.trapWord t) := by
  rw [exec_brx, execBrx]
  refine runWord_error hr ?_
  rw [acting_bare rfl]
  change (match check (brxTraps s b a) with
    | .error t => .error t
    | .ok _ => .ok (brxSplit s (brxTargets (brxTarget s b a) s.active)) : Except TrapReq State) = _
  rw [h]
end Checks

/-! ### The transfer, by the number of targets and of free split indices -/

section Splits
variable {s : State} {t : Int × LaneMask} {ts : List (Int × LaneMask)}
/-- The lanes of a list of targets. -/
def lanesAt (l : List (Int × LaneMask)) : LaneMask := l.foldl (fun m p => m ||| p.2) 0
theorem brxSplit_all (hts : ts ≠ []) (h : ts.length ≤ s.cur.group.freeSplits.length) : brxSplit s (t :: ts) =
    ((s.dropLanes (lanesAt (t :: ts) &&& ~~~t.2)).branch (BitVec.ofInt 64 t.1) 0).newSplits (ts.zip s.cur.group.freeSplits) := by
  obtain ⟨u, us, rfl⟩ := List.exists_cons_of_ne_nil hts
  exact if_pos (Nat.succ_le_succ h)
theorem brxSplit_some (h : s.cur.group.freeSplits.length < ts.length) (hf : s.cur.group.freeSplits ≠ []) : brxSplit s (t :: ts) =
    ((s.dropLanes (lanesAt ((t :: ts).take s.cur.group.freeSplits.length))).branch s.cur.pkt s.cur.slot).newSplits
      (((t :: ts).take s.cur.group.freeSplits.length).zip s.cur.group.freeSplits) := by
  obtain ⟨u, us, rfl⟩ := List.exists_cons_of_ne_nil (List.ne_nil_of_length_pos (Nat.zero_lt_of_lt h))
  exact (if_neg fun hle => Nat.not_le.2 h (Nat.le_of_succ_le_succ hle)).trans (if_neg hf)
theorem brxSplit_none (hts : ts ≠ []) (hf : s.cur.group.freeSplits = []) : brxSplit s (t :: ts) =
    (s.goto s.cur.pkt s.cur.slot).onSplit fun p => if p.block = .free then { p with block := .brx } else p := by
  obtain ⟨u, us, rfl⟩ := List.exists_cons_of_ne_nil hts
  refine (if_neg fun hle => ?_).trans (if_pos hf)
  rw [hf] at hle
  exact absurd (Nat.le_of_succ_le_succ hle) (by simp)
end Splits

/-- Settles O22: the checks of a brx, the branches of `brxSplit`, and what its list of targets covers. -/
theorem divergentBranchResults : Obligations.DivergentBranchResults := by
  intro s b a hr f l free
  have hcov := brxTargets_covers (f := f) (lanes := s.active) fun L hL => (mem_active.1 hL).1
  refine ⟨fun h hc => ?_, fun h L Ls hL => brx_trap hr (check_brx_fault h hL), fun h => brx_trap hr (check_brx_misaligned h), hcov.1, hcov.2⟩
  have hx : exec (.brx b a) s = .next (brxSplit s l) := brx_next hr (check_brx_ok h hc)
  refine ⟨fun ha => ?_, fun t hl => ?_, fun t ts hl hts hfree => ?_, fun t ts hl hfree hne => ?_, fun t ts hl hts hfree => ?_⟩
  · rw [hx, show l = [] by simp only [l, ha]; rfl]
    rfl
  · rw [hx, hl]
    rfl
  · rw [hx, hl, brxSplit_all hts hfree]
    rfl
  · rw [hx, hl, brxSplit_some hfree hne]
    rfl
  · rw [hx, hl, brxSplit_none hts hfree]

end Sys2Proof.Proofs
end

section
/-! The entry of a trap and the return from it (R49, R330-R343). -/
namespace Sys2Proof.Proofs
open Sys2Proof Sys2Proof.Machine Sys2Proof.Laws

/-! ### Counters written over a list of keys -/

/-- A read after writes of the keys listed. -/
theorem get_foldl_set {α : Type} [DecidableEq α] {d : α} {m : SMap α} (hm : SMap.wf d m = true) (v : Nat → α) (l : List Nat) (k : Nat) :
    SMap.get d (l.foldl (fun m j => SMap.set d m j (v j)) m) k = if k ∈ l then v k else SMap.get d m k := by
  induction l generalizing m with
  | nil => rfl
  | cons j l ih =>
    refine (ih (set_wf d j (v j) hm)).trans ?_
    rw [get_set d j k _ hm]
    by_cases hk : k = j
    · subst hk; simp
    · simp [hk]
/-- Counters written one after another are one change of the map of counters. -/
theorem foldl_setN (v : Nat → Byte) (l : List Nat) (r : Regs) :
    l.foldl (fun r L => r.setN L (v L)) r = { r with nest := l.foldl (fun m L => SMap.set 0 m L (v L)) r.nest } := by
  induction l generalizing r with
  | nil => rfl
  | cons L l ih => exact ih (r.setN L (v L))

/-! ### The counters as %tnestsave holds them (R61) -/

/-- A number of n bytes is below 256 to the n. -/
theorem wordOfBytes_lt (bs : List Byte) : wordOfBytes bs < 256 ^ bs.length := by
  induction bs with
  | nil => exact Nat.one_pos
  | cons b bs ih =>
    rw [wordOfBytes, List.length_cons, Nat.pow_succ]
    have := b.isLt
    omega
/-- A byte of a number. -/
theorem byte_wordOfBytes {bs : List Byte} {j : Nat} (h : j < bs.length) : wordOfBytes bs / 256 ^ j % 256 = bs[j].toNat := by
  induction bs generalizing j with
  | nil => cases h
  | cons b bs ih =>
    have hb := b.isLt
    cases j with
    | zero => simp only [wordOfBytes, Nat.pow_zero, Nat.div_one, List.getElem_cons_zero]; omega
    | succ j =>
      rw [wordOfBytes, Nat.pow_succ', ← Nat.div_div_eq_div_mul, show (b.toNat + 256 * wordOfBytes bs) / 256 = wordOfBytes bs by omega]
      exact ih (Nat.lt_of_succ_lt_succ h)
/-- A quarter of the counters holds each of its eight. -/
theorem nestBits_byte (r : Regs) (q : Nat) {j : Nat} (hj : j < 8) : BitVec.truncate 8 (nestBits r q >>> (8 * j)) = r.getN (8 * q + j) := by
  refine BitVec.eq_of_toNat_eq ?_
  have hlt := wordOfBytes_lt ((List.range 8).map fun j => r.getN (8 * q + j))
  have hbyte := byte_wordOfBytes (bs := (List.range 8).map fun j => r.getN (8 * q + j)) (j := j) (by simpa using hj)
  rw [List.getElem_map, List.getElem_range] at hbyte
  rw [List.length_map, List.length_range] at hlt
  rw [← hbyte, BitVec.truncate_eq_setWidth, BitVec.toNat_setWidth, BitVec.toNat_ushiftRight, nestBits, BitVec.toNat_ofNat,
    Nat.mod_eq_of_lt (hlt.trans_eq (by norm_num)), Nat.shiftRight_eq_div_pow, Nat.pow_mul]

/-! ### Entry and return (R333, R343) -/

theorem enterTrap_nestsave (g : Group) (t : TrapReq) (defer : Bool) (pkt h : W64) (slot k sp m : Nat) (mem : Store) {q : Nat} (hq : q < 4) :
    SMap.get 0 (g.enterTrap t defer pkt slot k sp h mem m).trap.nestsave q = nestBits g.regs q := by
  have hm : q ∈ [0, 1, 2, 3] := by simp; omega
  have hwf : SMap.wf (0 : W64) [] = true := rfl
  simp only [Group.enterTrap]
  rw [get_foldl_set hwf, if_pos hm]
/-- The counter that the return gives a lane: 255 where it was retired at entry, else its byte of %tnestsave. -/
def restoredNest (g : Group) (L : Nat) : Byte :=
  if g.retired.getLsbD L then 255 else BitVec.truncate 8 (SMap.get 0 g.trap.nestsave (L / 8) >>> (8 * (L % 8)))
/-- The return writes no register but the counters. -/
theorem leaveTrap_regs (g : Group) (n : Nat) :
    (g.leaveTrap n).regs = { g.regs with nest := allLanes.foldl (fun m L => SMap.set 0 m L (restoredNest g L)) [] } :=
  foldl_setN (restoredNest g) allLanes { g.regs with nest := [] }
theorem leaveTrap_getN (g : Group) (n : Nat) {L : Nat} (hL : L < 32) : (g.leaveTrap n).regs.getN L = restoredNest g L := by
  have hm : SMap.wf (0 : Byte) [] = true := rfl
  rw [leaveTrap_regs, Regs.getN]
  exact (get_foldl_set hm (restoredNest g) allLanes L).trans (if_pos (mem_allLanes.2 hL))
/-- Entry and return together restore every counter. -/
theorem leaveTrap_enterTrap_getN (g : Group) (t : TrapReq) (defer : Bool) (pkt h : W64) (slot k sp m n : Nat) (mem : Store) {L : Nat} (hL : L < 32) :
    ((g.enterTrap t defer pkt slot k sp h mem m).leaveTrap n).regs.getN L = g.regs.getN L := by
  have hret : (g.enterTrap t defer pkt slot k sp h mem m).retired.getLsbD L = (g.regs.getN L == 255) := maskOf_getLsbD _ hL
  rw [leaveTrap_getN _ _ hL, restoredNest, hret, enterTrap_nestsave g t defer pkt h slot k sp m mem (by omega), nestBits_byte _ _ (by omega)]
  split
  next h255 => exact (beq_iff_eq.1 h255).symm
  next => rw [show 8 * (L / 8) + L % 8 = L by omega]

/-! ### A trap that enters no handler (R331, R339) -/

theorem logEvent_cur (s : State) (seat ev core c : Nat) (d : W64) (n : Nat) (f i : Bool) : (s.logEvent seat ev core c d n f i).cur = s.cur := by
  unfold State.logEvent
  split <;> rfl
theorem complete_cur (s : State) (r : Region) (q n : Nat) (d : W64) : (s.complete r q n d).cur = s.cur := by
  unfold State.complete
  dsimp only
  split <;> rfl
/-- The halt of the team in focus, not yet halted, marks it and nothing else in focus. -/
theorem haltTeam_cur {s : State} (hl : s.cur.live = true) (hh : s.cur.team.halting = none) (r : Nat) (d : W64) :
    (s.haltTeam s.cur.team.id r d).cur = { s.cur with team := { s.cur.team with halting := some r } } := by
  have hg : s.getTeam s.cur.team.id = some s.cur.team := if_pos (by simp [hl])
  have ha (f : Team → Team) : s.anyTeam s.cur.team.id f = s.onTeam f := if_pos (by simp [hl])
  simp only [State.haltTeam, hg, hh, ha, State.now, State.at, logEvent_cur]
  rfl
/-- The halt of any team leaves the focus where the team in focus is halted already. -/
theorem haltTeam_cur_halted {s : State} (hl : s.cur.live = true) (hh : s.cur.team.halting.isSome = true) (id r : Nat) (d : W64) :
    (s.haltTeam id r d).cur = s.cur := by
  by_cases hid : s.cur.team.id = id
  · have hg : s.getTeam id = some s.cur.team := if_pos (by simp [hl, hid])
    simp only [State.haltTeam, hg, hh, if_true]
  · have ha (f : Team → Team) : s.anyTeam id f = s.mapTeam id f := if_neg (by simp [hid])
    unfold State.haltTeam
    split
    · rfl
    · split
      · rfl
      · simp only [ha, State.now, State.at, logEvent_cur]
        rfl
theorem foldl_haltTeam_cur {s : State} (hl : s.cur.live = true) (hh : s.cur.team.halting.isSome = true) (l : List Team) (r : Nat) (d : W64) :
    (l.foldl (fun s u => s.haltTeam u.id r d) s).cur = s.cur := by
  induction l generalizing s with
  | nil => rfl
  | cons u l ih =>
    have hc := haltTeam_cur_halted hl hh u.id r d
    rw [List.foldl_cons, ih (by rw [hc]; exact hl) (by rw [hc]; exact hh), hc]
theorem takeTrap_supervisor {s : State} {t : TrapReq} (h : t.sup = true ∨ s.cur.group.level = .supervisor) (defer : Bool) : s.takeTrap t defer =
    (s.haltTeam s.cur.team.id 0xFFFF (BitVec.ofNat 64 (0xFFFF + trapCode t.kind * 65536))).logEvent s.cur.team.seat 32 s.cur.team.core
      ((s.haltTeam s.cur.team.id 0xFFFF (BitVec.ofNat 64 (0xFFFF + trapCode t.kind * 65536))).oclk s.cur.team.seat) (placeBits t.pkt t.slot) := by
  have hlevel : (if t.sup then .supervisor else s.cur.group.level) = Level.supervisor := by
    obtain h | h := h
    · exact if_pos h
    · rw [h]; exact ite_self _
  simp only [State.takeTrap, hlevel]
theorem takeTrap_unhandled {s : State} {t : TrapReq} (hs : t.sup = false) (hu : s.cur.group.level = .user) (hh : s.cur.team.region.handler = none)
    (defer : Bool) : s.takeTrap t defer = s.unhandled t := by
  simp only [State.takeTrap, hs, hu, hh, Bool.false_eq_true, if_false]
theorem unhandled_cur {s : State} (hl : s.cur.live = true) (hh : s.cur.team.halting = none) (t : TrapReq) :
    (s.unhandled t).cur = { s.cur with team := { s.cur.team with halting := some 0xFFFB } } := by
  have hc := haltTeam_cur hl hh 0xFFFB (BitVec.ofNat 64 (0xFFFB + trapCode t.kind * 65536))
  simp only [State.unhandled, complete_cur]
  split
  · rw [foldl_haltTeam_cur (by rw [hc]; exact hl) (by rw [hc]; rfl), hc]
  · exact hc

/-- Settles O56: entry is `takeTrap_enter`, a trap that no handler takes halts the team in focus, and what the return restores is what entry saved. -/
theorem trapEntryAndReturn : Obligations.TrapEntryAndReturn := by
  refine ⟨fun s t defer h hs hu hh => ?_, fun s t defer hl hh => ⟨fun h => ?_, fun hs hu hn => ?_⟩, fun g n => ?_,
    fun g t defer pkt h slot k sp m n mem L hL => leaveTrap_enterTrap_getN g t defer pkt h slot k sp m n mem hL⟩
  · intro u g r
    have hu : u = _ := takeTrap_enter t defer hs hu hh
    rw [hu]
    refine ⟨rfl, rfl, ?_, rfl, rfl, rfl, rfl, fun q hq => enterTrap_nestsave _ _ _ _ _ _ _ _ _ _ hq, fun L => rfl, rfl, rfl, rfl, rfl, rfl, rfl, rfl,
      rfl, ⟨fun p => readAt_congr rfl rfl rfl p 1, rfl, rfl, rfl, rfl, rfl⟩, rfl, rfl⟩
    simp only [r]
    split <;> rfl
  · have hc := haltTeam_cur hl hh 0xFFFF (BitVec.ofNat 64 (0xFFFF + trapCode t.kind * 65536))
    rw [takeTrap_supervisor h, logEvent_cur, hc]
    exact ⟨rfl, rfl⟩
  · rw [takeTrap_unhandled hs hu hn, unhandled_cur hl hh]
    exact ⟨rfl, rfl⟩
  · have hr := leaveTrap_regs g n
    exact ⟨rfl, rfl, rfl, by rw [hr], by rw [hr], by rw [hr], rfl, fun L hL => leaveTrap_getN g n hL⟩

end Sys2Proof.Proofs
end

section
/-! What the events of banks and of waits do when they are due (R66-R68, R74, R91, R258). -/
namespace Sys2Proof.Proofs
open Sys2Proof Sys2Proof.Machine Sys2Proof.Laws

/-! ### The meaning of each event at hand -/

section Rows
variable {s : State} {team b core seat : Nat}
theorem bankWakeEnd_group {n : Nat} (h : s.ev = some (.bankWakeEnd team (some n) b)) : exec .bankWakeEnd s = .next (s.endWake team (some n) b) :=
  runEvent_next h rfl
theorem bankWakeEnd_scratch (h : s.ev = some (.bankWakeEnd team none b)) : exec .bankWakeEnd s = .next ((s.endWake team none b).landDue team) :=
  runEvent_next h rfl
theorem eacqGrant_next (h : s.ev = some (.eacqGrant core seat)) : exec .eacqGrant s = .next (s.grantWaiters seat core fun t => !t.portable) :=
  runEvent_next h rfl
theorem waitResume_next (h : s.ev = some (.waitResume team)) : exec .waitResume s = .next (s.resumeWaits team) := runEvent_next h rfl
theorem waitcResume_next {gid : Nat} (h : s.ev = some (.waitcResume team gid)) : exec .waitcResume s =
    .next (if (s.findTeam team).any Team.portable then s else s.mapGroup team gid fun g => g.resumeCounts s.g) := runEvent_next h rfl
end Rows

/-! ### The end of a bank's wake (R68, R71, R74) -/

section Wakes
variable {s : State} {team b : Nat} {w : Wake}
theorem endWake_group_none {n : Nat} (h : (s.findGroup team n).bind (fun (g : Group) => g.waking b) = none) : s.endWake team (some n) b = s := by
  simp only [State.endWake, h]
theorem endWake_group_early {n : Nat} (h : (s.findGroup team n).bind (fun (g : Group) => g.waking b) = some w) (hw : w.due ≠ s.g) :
    s.endWake team (some n) b = s := by
  simp only [State.endWake, h, hw, if_false]
theorem endWake_group_due {n : Nat} (h : (s.findGroup team n).bind (fun (g : Group) => g.waking b) = some w) (hw : w.due = s.g) :
    s.endWake team (some n) b = s.mapGroup team n fun (g : Group) =>
      { g with banks := SMap.set .absent g.banks b (w.later.getD w.target), wakes := g.wakes.filter fun v => v.bank != b } := by
  simp only [State.endWake, h, hw, if_true]
theorem endWake_scratch_none (h : (s.findTeam team).bind (fun (t : Team) => t.swaking b) = none) : s.endWake team none b = s := by
  simp only [State.endWake, h]
theorem endWake_scratch_early (h : (s.findTeam team).bind (fun (t : Team) => t.swaking b) = some w) (hw : w.due ≠ s.g) : s.endWake team none b = s := by
  simp only [State.endWake, h, hw, if_false]
theorem endWake_scratch_due (h : (s.findTeam team).bind (fun (t : Team) => t.swaking b) = some w) (hw : w.due = s.g) :
    s.endWake team none b = s.mapTeam team fun (t : Team) =>
      { t with sbanks := SMap.set .full t.sbanks b (w.later.getD w.target), swakes := t.swakes.filter fun v => v.bank != b } := by
  simp only [State.endWake, h, hw, if_true]
end Wakes

/-! ### Waiting eacq words (R67) -/

/-- The waiters of a list whose team satisfies `p`. -/
def selected (s : State) (p : Team → Bool) (l : List (Nat × Nat × Nat × Nat)) : List (Nat × Nat × Nat × Nat) :=
  l.filter fun w => (s.findTeam w.2.2.2).any p
theorem grantWaiters_eq (s : State) (seat core : Nat) (p : Team → Bool) : s.grantWaiters seat core p =
    (s.grantExt seat core false (selected s p (s.eacqWaiters seat core false))).grantExt seat core true
      (selected (s.grantExt seat core false (selected s p (s.eacqWaiters seat core false))) p
        ((s.grantExt seat core false (selected s p (s.eacqWaiters seat core false))).eacqWaiters seat core true)) := rfl
/-- Where what the first mode leaves has no waiter of the other mode, that is all. -/
theorem grantWaiters_one {s u : State} {seat core : Nat} {p : Team → Bool} {l : List (Nat × Nat × Nat × Nat)} (hl : s.eacqWaiters seat core false = l)
    (hu : s.grantExt seat core false (selected s p l) = u) (h : u.eacqWaiters seat core true = []) : s.grantWaiters seat core p = u := by
  rw [grantWaiters_eq, hl, hu, h]
  rfl

section Waiter
variable {s : State} {seat core since r gid team : Nat} {t : Team} {g : Group} {p : Team → Bool} (ht : s.findTeam team = some t)
include ht
theorem selected_no (hp : p t = false) : selected s p [(since, r, gid, team)] = [] := by simp [selected, ht, hp]
theorem selected_yes (hp : p t = true) : selected s p [(since, r, gid, team)] = [(since, r, gid, team)] := by simp [selected, ht, hp]
omit ht
variable (hg : s.findGroup team gid = some g)
include hg
/-- A waiter whose group holds the block already goes on (R67). -/
theorem grantExt_held (h : g.hasExt = true) : s.grantExt seat core false [(since, r, gid, team)] = s.mapGroup team gid fun g => g.onSplits fun p =>
    match p.block with | .eacq _ => p.resume s.g | _ => p := by
  simp only [State.grantExt, hg, Option.any_some, h, if_true] <;> rfl
theorem grantExt_full (h : g.hasExt = false) (hb : s.takeBanks seat core false 8 = none) :
    s.grantExt seat core false [(since, r, gid, team)] = s := by
  simp only [State.grantExt, hg, Option.any_some, h, hb, Bool.false_eq_true, if_false]
/-- A waiter for whom 8 banks are free takes them and goes on (R66, R67). -/
theorem grantExt_takes {m : SMap Nat} (h : g.hasExt = false) (hb : s.takeBanks seat core false 8 = some m) :
    s.grantExt seat core false [(since, r, gid, team)] = s.mapGroup team gid fun g => (g.takeExt m).onSplits fun p =>
      match p.block with | .eacq _ => p.resume s.g | _ => p := by
  simp only [State.grantExt, hg, Option.any_some, h, hb, Bool.false_eq_true, if_false] <;> rfl
end Waiter

/-! ### waitc (R258) -/

theorem storesOver_counts (g : Group) (age : Nat) : (g.storesOver age).counts = g.counts := by
  unfold Group.storesOver
  split <;> rfl
theorem resumeCounts_counts (g : Group) (c : Nat) : (g.resumeCounts c).counts = g.counts := by
  have h (l : List Split) (g : Group) : (l.foldl (fun (h : Group) p => h.storesOver p.age) g).counts = g.counts := by
    induction l generalizing g with
    | nil => rfl
    | cons p l ih => exact (ih _).trans (storesOver_counts g p.age)
  exact h _ g

end Sys2Proof.Proofs
end

section
/-! What the events of the life of a team do when they are due: carving, release, victims, drains, saves and parking (R41, R51, R52, R78). -/
namespace Sys2Proof.Proofs
open Sys2Proof Sys2Proof.Machine Sys2Proof.Laws

/-! ### The meaning of each event at hand -/

section Rows
variable {s : State} {id core seat : Nat}
theorem teamCarving_next (h : s.ev = some (.teamCarving core seat)) : exec .teamCarving s = .next (s.carve core seat) := runEvent_next h rfl
theorem teamRelease_next (h : s.ev = some (.teamRelease id)) : exec .teamRelease s = .next (s.endCarving id) := runEvent_next h rfl
theorem victimChoice_next (h : s.ev = some (.victimChoice core seat)) : exec .victimChoice s = .next (s.chooseVictim core seat) := runEvent_next h rfl
theorem drainComplete_next (h : s.ev = some (.drainComplete id)) : exec .drainComplete s = .next (s.drained id) := runEvent_next h rfl
theorem saveComplete_next (h : s.ev = some (.saveComplete id)) : exec .saveComplete s = .next (s.endSave id) := runEvent_next h rfl
theorem parkWake_next (h : s.ev = some (.parkWake id)) : exec .parkWake s = .next (s.wakeParked id) := runEvent_next h rfl
end Rows

/-! ### Carving (R51) -/

/-- A team began to carve on the core in this cycle. -/
def carvesNow (s : State) (seat : Nat) (u : Team) : Bool := (s.teamsOn seat u.core).any fun (v : Team) => v.state == .carving && v.since == s.g
/-- Each team of the unit is at the head of its queue. -/
def atHeads (s : State) (seat : Nat) (us : List Team) : Bool := us.all fun u => (s.pendingHead seat u.core).any fun h => h.id == u.id

theorem carve_none {s : State} {core seat : Nat} (h : s.findSeat seat = none ∨ s.pendingHead seat core = none) : s.carve core seat = s := by
  unfold State.carve
  obtain h | h := h
  · rw [h]
  · rw [h]
    cases s.findSeat seat <;> rfl

section Carve
variable {s : State} {core seat : Nat} {x : Seat} {t : Team} (hx : s.findSeat seat = some x) (ht : s.pendingHead seat core = some t)
include hx ht
theorem carve_some : s.carve core seat =
    if !x.running then s
    else if (s.unitOf t).any (carvesNow s seat) then s.pokeCarve seat core (s.g + 1)
    else if !(atHeads s seat (s.unitOf t)) then s.pokeUnfit [t]
    else match s.tryCarveAll (s.unitOf t) with
      | some v => (s.unitOf t).foldl (fun s u => if (s.pendingHead seat u.core).isSome then s.pokeCarve seat u.core (s.g + 1) else s) v
      | none => s.pokeUnfit (s.unitOf t) := by
  simp only [State.carve, hx, ht]
  rfl
theorem carve_stopped (hr : x.running = false) : s.carve core seat = s := (carve_some hx ht).trans (if_pos (by simp [hr]))
variable (hr : x.running = true)
include hr
theorem carve_busy (hb : (s.unitOf t).any (carvesNow s seat) = true) : s.carve core seat = s.pokeCarve seat core (s.g + 1) := by
  rw [carve_some hx ht, if_neg (by simp [hr]), if_pos hb]
variable (hb : (s.unitOf t).any (carvesNow s seat) = false)
include hb
theorem carve_notHead (hh : atHeads s seat (s.unitOf t) = false) : s.carve core seat = s.pokeUnfit [t] := by
  rw [carve_some hx ht, if_neg (by simp [hr]), if_neg (by simp [hb]), if_pos (by simp [hh])]
theorem carve_unit (hh : atHeads s seat (s.unitOf t) = true) : s.carve core seat = match s.tryCarveAll (s.unitOf t) with
    | some v => (s.unitOf t).foldl (fun s u => if (s.pendingHead seat u.core).isSome then s.pokeCarve seat u.core (s.g + 1) else s) v
    | none => s.pokeUnfit (s.unitOf t) := by
  rw [carve_some hx ht, if_neg (by simp [hr]), if_neg (by simp [hb]), if_neg (by simp [hh])]
end Carve

/-! ### Release (R41, R51) -/

/-- A team is released once it is carved, on a seat that runs, and with it the teams whose carving has taken its time. -/
theorem endCarving_some {s : State} {id : Nat} {t : Team} (ht : s.findTeam id = some t) {us : List Team} {n : Nat}
    (hus : us = if t.everResident then s.unitOf t else s.teams.filter t.together) (hn : n = if t.everResident then Config.saveCycles else Config.carveCycles) :
    s.endCarving id = if t.state ≠ .carving then s else if !(s.runs t) then s
      else if us.all fun u => u.state == .carving && decide (u.since + n ≤ s.g) then us.foldl (fun s u => s.release u) s else s := by
  simp only [State.endCarving, ht, hus, hn]
theorem endCarving_off {s : State} {id : Nat} {t : Team} (ht : s.findTeam id = some t) (h : t.state ≠ .carving ∨ s.runs t = false) : s.endCarving id = s := by
  rw [endCarving_some ht rfl rfl]
  split
  · rfl
  next hc => exact if_pos (by simpa using h.resolve_left hc)
section Release
variable {s : State} {id : Nat} {t : Team} (ht : s.findTeam id = some t) (hc : t.state = .carving) (hr : s.runs t = true) {us : List Team} {n : Nat}
  (hus : us = if t.everResident then s.unitOf t else s.teams.filter t.together) (hn : n = if t.everResident then Config.saveCycles else Config.carveCycles)
include ht hc hr hus hn
theorem endCarving_on : s.endCarving id = if us.all fun u => u.state == .carving && decide (u.since + n ≤ s.g) then us.foldl (fun s u => s.release u) s else s := by
  rw [endCarving_some ht hus hn, if_neg (by simp [hc]), if_neg (by simp [hr])]
theorem endCarving_waits (h : ∃ u ∈ us, u.state ≠ .carving ∨ s.g < u.since + n) : s.endCarving id = s := by
  obtain ⟨u, hu, hno⟩ := h
  refine (endCarving_on ht hc hr hus hn).trans (if_neg fun hall => ?_)
  obtain ⟨h1, h2⟩ : u.state = .carving ∧ u.since + n ≤ s.g := by simpa using List.all_eq_true.1 hall u hu
  exact hno.elim (fun h => h h1) fun h => absurd h2 (Nat.not_le.2 h)
theorem endCarving_releases (h : ∀ u ∈ us, u.state = .carving ∧ u.since + n ≤ s.g) : s.endCarving id = us.foldl (fun s u => s.release u) s :=
  (endCarving_on ht hc hr hus hn).trans (if_pos (List.all_eq_true.2 fun u hu => by simpa using h u hu))
end Release

/-! ### Victims (R52) -/

/-- The expired teams that may drain for a head, the earliest residency first. -/
def expired (s : State) (core seat : Nat) : List Team :=
  sortBy (fun (a b : Team) => decide (a.since < b.since ∨ (a.since = b.since ∧ a.index < b.index)))
    ((s.mayVictim seat core).filter fun (t : Team) => decide (t.since + Config.quantum ≤ s.oclk seat))
section Victims
variable {s : State} {core seat : Nat} {h : Team} (hh : s.pendingHead seat core = some h)
include hh
theorem chooseVictim_fits (hf : (s.tryCarve h).isSome = true) : s.chooseVictim core seat = s.pokeCarve seat core s.g := by
  simp only [State.chooseVictim, hh, hf, if_true]
variable (hf : (s.tryCarve h).isSome = false)
include hf
theorem chooseVictim_unfit : s.chooseVictim core seat = match expired s core seat with
    | [] => s.pokeVictim seat core
    | t :: _ => if (expired s core seat).length ≤ 1 then s.drain t.id false
      else (s.drain t.id false).once ((s.drain t.id false).g + 1) (.victimChoice core seat) := by
  simp only [State.chooseVictim, hh, hf, Bool.false_eq_true, if_false]
  rfl
theorem chooseVictim_nobody (hl : expired s core seat = []) : s.chooseVictim core seat = s.pokeVictim seat core := by
  rw [chooseVictim_unfit hh hf, hl]
theorem chooseVictim_one {t : Team} (hl : expired s core seat = [t]) : s.chooseVictim core seat = s.drain t.id false := by
  rw [chooseVictim_unfit hh hf, hl]
  rfl
/-- With more expired teams than one, the choice is made again in the next cycle. -/
theorem chooseVictim_first {t r : Team} {k : List Team} (hl : expired s core seat = t :: r :: k) :
    s.chooseVictim core seat = (s.drain t.id false).once ((s.drain t.id false).g + 1) (.victimChoice core seat) := by
  rw [chooseVictim_unfit hh hf, hl]
  exact if_neg (by simp)
end Victims

/-! ### Drains and saves (R51, R78) -/

section Drains
variable {s : State} {id : Nat} {t : Team} (ht : s.findTeam id = some t)
include ht
theorem drained_stopped (h : (t.halting.isSome || t.discard) = true) : s.drained id = s.tryEnd id := by
  simp only [State.drained, ht, h, if_true]
variable (hh : t.halting = none) (hd : t.discard = false)
include hh hd
theorem drained_other (h : t.state ≠ .draining) : s.drained id = s := by
  simp only [State.drained, ht, hh, hd, h, Option.isSome_none, Bool.or_self, Bool.false_eq_true, if_false]
theorem drained_draining (h : t.state = .draining) : s.drained id = s.trySave t := by
  simp only [State.drained, ht, hh, hd, h, Option.isSome_none, Bool.or_self, Bool.false_eq_true, if_false, if_true]
end Drains

/-- The work of a draining unit is complete on every core. -/
def unitDone (s : State) (us : List Team) : Bool := us.all fun u => u.state == .draining && (s.busyOps u.id).isEmpty && u.committed
theorem unitDone_iff {s : State} {us : List Team} : unitDone s us = true ↔ ∀ u ∈ us, u.state = .draining ∧ s.busyOps u.id = [] ∧ u.committed = true := by
  simp [unitDone, and_assoc]
theorem unitDone_not {s : State} {us : List Team} (h : ∃ u ∈ us, u.state ≠ .draining ∨ s.busyOps u.id ≠ [] ∨ u.committed = false) :
    unitDone s us = false := by
  obtain ⟨u, hu, h⟩ := h
  refine eq_false_of_ne_true fun hd => ?_
  obtain ⟨h1, h2, h3⟩ := unitDone_iff.1 hd u hu
  simp [h1, h2, h3] at h
section Unit
variable {s : State} {t : Team} {us : List Team} {e : Nat} (hus : us = s.unitOf t) (he : e = us.foldl (fun n (u : Team) => max n u.wakeEnd) 0)
include hus
theorem trySave_waits (h : ∃ u ∈ us, u.state ≠ .draining ∨ s.busyOps u.id ≠ [] ∨ u.committed = false) : s.trySave t = s := by
  subst hus
  exact if_pos (congrArg Bool.not (unitDone_not h))
include he
theorem trySave_done (h : ∀ u ∈ us, u.state = .draining ∧ s.busyOps u.id = [] ∧ u.committed = true) :
    s.trySave t = if s.g < e then s.once e (.drainComplete t.id) else us.foldl (fun s u => s.beginSave u) s := by
  subst he hus
  exact if_neg fun hd => Bool.false_ne_true ((congrArg Bool.not (unitDone_iff.2 h)).symm.trans hd)
end Unit

section Saves
variable {s : State} {id : Nat} {t : Team} (ht : s.findTeam id = some t)
include ht
theorem endSave_other (h : t.state ≠ .saving) : s.endSave id = s := by
  simp only [State.endSave, ht]
  exact if_pos h
theorem endSave_saving (h : t.state = .saving) : s.endSave id =
    (if t.parkAfter then ((s.mapTeam id Team.dropBanks).mapTeam id fun (t : Team) => { t with state := .parked, parkAfter := false }).now (.parkWake id)
      else (s.mapTeam id Team.dropBanks).enqueue id).pokeShare t.seat t.core := by
  simp only [State.endSave, ht]
  exact if_neg (not_not.2 h)
end Saves

/-! ### Parking (R51, R392) -/

/-- Each team of a unit is parked, and what it waits for has come. -/
def unitParked (s : State) (us : List Team) : Bool := us.all fun u => u.state == .parked && s.parkDone u
theorem wakeParked_some {s : State} {id : Nat} {t : Team} (ht : s.findTeam id = some t) : s.wakeParked id =
    if t.state == .resident && t.parkAfter then s.drain id true
    else if t.state == .resident && t.discard then s.now (.teamEnd id)
    else if t.state == .parked && !(s.heldBack t) && unitParked s (s.unitOf t) then (s.unitOf t).foldl (fun (s : State) (u : Team) => s.enqueue u.id) s
    else s := by
  simp only [State.wakeParked, ht]
  rfl

section Parked
variable {s : State} {id : Nat} {t : Team} (ht : s.findTeam id = some t)
include ht
theorem wakeParked_resident (h : t.state = .resident) :
    s.wakeParked id = if t.parkAfter then s.drain id true else if t.discard then s.now (.teamEnd id) else s := by
  simp only [wakeParked_some ht, h, beq_self_eq_true, Bool.true_and, show (TeamState.resident == .parked) = false from rfl, Bool.false_and,
    Bool.false_eq_true, if_false]
theorem wakeParked_other (h1 : t.state ≠ .resident) (h2 : t.state ≠ .parked) : s.wakeParked id = s := by
  rw [wakeParked_some ht, if_neg (by simp [h1]), if_neg (by simp [h1]), if_neg (by simp [h2])]
theorem wakeParked_parked (h : t.state = .parked) : s.wakeParked id =
    if !(s.heldBack t) && unitParked s (s.unitOf t) then (s.unitOf t).foldl (fun (s : State) (u : Team) => s.enqueue u.id) s else s := by
  simp only [wakeParked_some ht, h, show (TeamState.parked == .resident) = false from rfl, beq_self_eq_true, Bool.true_and, Bool.false_and,
    Bool.false_eq_true, if_false]
theorem wakeParked_held (h : t.state = .parked) (hw : s.heldBack t = true ∨ ∃ u ∈ s.unitOf t, u.state ≠ .parked ∨ s.parkDone u = false) :
    s.wakeParked id = s := by
  refine (wakeParked_parked ht h).trans (if_neg ?_)
  obtain hw | ⟨u, hu, hno⟩ := hw
  · simp [hw]
  · have : unitParked s (s.unitOf t) = false := List.all_eq_false.2 ⟨u, hu, by obtain h | h := hno <;> simp [h]⟩
    simp [this]
theorem wakeParked_leaves (h : t.state = .parked) (hw : s.heldBack t = false) (hall : ∀ u ∈ s.unitOf t, u.state = .parked ∧ s.parkDone u = true) :
    s.wakeParked id = (s.unitOf t).foldl (fun (s : State) (u : Team) => s.enqueue u.id) s := by
  have : unitParked s (s.unitOf t) = true := List.all_eq_true.2 fun u hu => by simpa using hall u hu
  exact (wakeParked_parked ht h).trans (if_pos (by simp [hw, this]))
end Parked

end Sys2Proof.Proofs
end

section
/-! What the ends of groups, teams and grids, regroup points, messages and commits do when they are due, and with it every event of a team's
life (R41, R50-R52, R57, R67, R68, R91, R258, R278, R279, R397). -/
namespace Sys2Proof.Proofs
open Sys2Proof Sys2Proof.Machine Sys2Proof.Laws

/-! ### The meaning of each event at hand -/

section Rows
variable {s : State} {id : Nat}
theorem groupEnd_next {gid : Nat} (h : s.ev = some (.groupEnd id gid)) : exec .groupEnd s = .next (s.tryEndGroup id gid) := runEvent_next h rfl
theorem teamEnd_next (h : s.ev = some (.teamEnd id)) : exec .teamEnd s = .next (s.tryEnd id) := runEvent_next h rfl
theorem regroupComplete_next (h : s.ev = some (.regroupComplete id)) : exec .regroupComplete s = .next (s.tryRegroup id) := runEvent_next h rfl
theorem amsgAccept_next (h : s.ev = some (.amsgAccept id)) : exec .amsgAccept s =
    .next (State.acceptMessage { s with reqs := s.reqs.filter fun (r : Req) => !(r.kind == ReqKind.message && r.owner == id) } id) := runEvent_next h rfl
theorem quantumCommit_next {m : List (Nat × Nat)} (h : s.ev = some (.quantumCommit id m)) : exec .quantumCommit s = .next (s.commit id m) :=
  runEvent_next h rfl
theorem gridEnd_next (h : s.ev = some (.gridEnd id)) : exec .gridEnd s = .next ((s.endGrid id).pokeQueues.pokeWaiting) := runEvent_next h rfl
end Rows

/-! ### The end of a group (R50) -/

/-- An operation of the team, or of the group, is in flight. -/
theorem opOfTeam_iff {s : State} {id : Nat} : (s.ops.any fun (o : Op) => o.team == id) = true ↔ ∃ o ∈ s.ops, o.team = id := by simp
theorem opOfTeam_none {s : State} {id : Nat} : (s.ops.any fun (o : Op) => o.team == id) = false ↔ ∀ o ∈ s.ops, o.team ≠ id := by simp
theorem opOfGroup_iff {s : State} {id gid : Nat} : (s.ops.any fun (o : Op) => o.team == id && o.gid == gid) = true ↔ ∃ o ∈ s.ops, o.team = id ∧ o.gid = gid := by
  simp

section GroupEnds
variable {s : State} {id gid : Nat} {t : Team} {g : Group} (ht : s.findTeam id = some t) (hg : t.findGroup gid = some g)
include ht
theorem tryEndGroup_none (h : t.findGroup gid = none) : s.tryEndGroup id gid = s := by simp only [State.tryEndGroup, ht, h]
include hg
theorem tryEndGroup_some : s.tryEndGroup id gid = if g.ended && !g.returned && !(s.ops.any fun (o : Op) => o.team == id && o.gid == gid) then
      ((s.mapGroup id gid fun g => { g with returned := true, baseHeld := [], extHeld := [], hasExt := false }).pokeShare t.seat t.core).now (.teamEnd id)
    else s := by
  simp only [State.tryEndGroup, ht, hg]
theorem tryEndGroup_waits (h : g.ended = false ∨ g.returned = true ∨ ∃ o ∈ s.ops, o.team = id ∧ o.gid = gid) : s.tryEndGroup id gid = s := by
  refine (tryEndGroup_some ht hg).trans (if_neg ?_)
  obtain h | h | h := h
  · simp [h]
  · simp [h]
  · simp [opOfGroup_iff.2 h]
theorem tryEndGroup_returns (h1 : g.ended = true) (h2 : g.returned = false) (h3 : ∀ o ∈ s.ops, o.team ≠ id ∨ o.gid ≠ gid) : s.tryEndGroup id gid =
    ((s.mapGroup id gid fun g => { g with returned := true, baseHeld := [], extHeld := [], hasExt := false }).pokeShare t.seat t.core).now (.teamEnd id) := by
  have hno : ¬(s.ops.any fun (o : Op) => o.team == id && o.gid == gid) = true := fun e => by
    obtain ⟨o, ho, h4, h5⟩ := opOfGroup_iff.1 e
    exact (h3 o ho).elim (fun h => h h4) fun h => h h5
  exact (tryEndGroup_some ht hg).trans (if_pos (by simp [h1, h2, eq_false_of_ne_true hno]))
end GroupEnds

/-! ### The end of a team (R50, R347, R394) -/

section Ends
variable {s : State} {id : Nat} {t : Team} (ht : s.findTeam id = some t)
include ht
theorem tryEnd_carving (hd : t.discard = true) (hc : t.state = .carving) : s.tryEnd id = s := by
  simp only [State.tryEnd, ht]
  exact if_pos (by simp [hd, hc])
section Plain
variable (hd : t.discard = false) (hh : t.halting = none)
include hd hh
/-- A team that nothing stopped ends with its unit, once every group of it has returned. -/
theorem tryEnd_plain : s.tryEnd id = if !t.portable && (s.unitOf t).all fun u => u.twin.isNone && u.groups != [] && u.groups.all (·.returned) then
    (s.unitOf t).foldl (fun s u => s.endTeam u) s else s := by
  simp only [State.tryEnd, ht, hd, hh, Bool.false_and, Option.isSome_none, Bool.or_self, Bool.false_eq_true, if_false]
theorem tryEnd_plain_ends (h : ∀ u ∈ s.unitOf t, u.twin = none ∧ u.groups ≠ [] ∧ ∀ g ∈ u.groups, g.returned = true) (hp : t.portable = false) :
    s.tryEnd id = (s.unitOf t).foldl (fun s u => s.endTeam u) s := by
  refine (tryEnd_plain ht hd hh).trans (if_pos ?_)
  simp only [hp, Bool.not_false, Bool.true_and, List.all_eq_true]
  exact fun u hu => by simpa [and_assoc] using h u hu
theorem tryEnd_plain_stays
    (h : t.portable = true ∨ ∃ u ∈ s.unitOf t, u.twin ≠ none ∨ u.groups = [] ∨ ∃ g ∈ u.groups, g.returned = false) : s.tryEnd id = s := by
  refine (tryEnd_plain ht hd hh).trans (if_neg fun hall => ?_)
  obtain ⟨hp, hall⟩ := Bool.and_eq_true_iff.1 hall
  obtain h | ⟨u, hu, hno⟩ := h
  · rw [h] at hp
    cases hp
  · obtain ⟨h1, h2, h3⟩ : u.twin = none ∧ u.groups ≠ [] ∧ ∀ g ∈ u.groups, g.returned = true := by
      simpa [and_assoc] using List.all_eq_true.1 hall u hu
    obtain h | h | ⟨g, hg, h⟩ := hno
    · exact h h1
    · exact h2 h
    · exact Bool.false_ne_true (h.symm.trans (h3 g hg))
end Plain

section Discarded
variable (hd : t.discard = true) (hc : t.state ≠ .carving) (hh : t.halting = none) {u : State} (hu : u = s.dropLog id false)
  {us : List Team} (hus : us = u.unitOf t)
include hd hc hh hu hus
/-- A discarded team restarts with its unit, once no operation of it is left. -/
theorem tryEnd_discarded : s.tryEnd id = if u.ops.any fun (o : Op) => o.team == id then u
    else if us.all fun v => v.discard && !(u.ops.any fun (o : Op) => o.team == v.id) then
      us.foldl (fun s v => (((s.withdrawArms v.id).mapTeam v.id Team.restart).enqueue v.id).pokeShare v.seat v.core) u
    else u := by
  subst hu hus
  simp only [State.tryEnd, ht, hd, hh, beq_eq_false_iff_ne.2 hc, Bool.and_false, Option.isSome_none, Bool.or_true, Bool.false_and, Bool.false_eq_true,
    if_false, if_true]
theorem tryEnd_discarded_waits (h : (∃ o ∈ u.ops, o.team = id) ∨ ∃ v ∈ us, v.discard = false ∨ ∃ o ∈ u.ops, o.team = v.id) : s.tryEnd id = u := by
  rw [tryEnd_discarded ht hd hc hh hu hus]
  split
  · rfl
  next hno =>
    obtain ⟨v, hv, hno'⟩ := h.resolve_left fun e => hno (opOfTeam_iff.2 e)
    refine if_neg fun hall => ?_
    obtain ⟨h1, h2⟩ := Bool.and_eq_true_iff.1 (List.all_eq_true.1 hall v hv)
    obtain h | h := hno'
    · exact Bool.false_ne_true (h.symm.trans h1)
    · rw [opOfTeam_iff.2 h] at h2
      cases h2
theorem tryEnd_discarded_restarts (h : ∀ o ∈ u.ops, o.team ≠ id) (hall : ∀ v ∈ us, v.discard = true ∧ ∀ o ∈ u.ops, o.team ≠ v.id) :
    s.tryEnd id = us.foldl (fun s v => (((s.withdrawArms v.id).mapTeam v.id Team.restart).enqueue v.id).pokeShare v.seat v.core) u := by
  rw [tryEnd_discarded ht hd hc hh hu hus, if_neg (by rw [opOfTeam_none.2 h]; exact Bool.false_ne_true)]
  refine if_pos (List.all_eq_true.2 fun v hv => ?_)
  rw [(hall v hv).1, opOfTeam_none.2 (hall v hv).2]
  rfl
end Discarded

/-- A stopped team ends once no operation of it is left; a portable one at the commit. -/
theorem tryEnd_halted (hc : t.discard = false ∨ t.state ≠ .carving) (hh : t.halting.isSome = true) {u : State} (hu : u = s.dropLog id true) :
    s.tryEnd id = if t.portable then u.pokeCommit t.grid else if u.ops.any fun (o : Op) => o.team == id then u else u.endTeam t := by
  subst hu
  have hn : (t.discard && t.state == .carving) = false := by
    obtain h | h := hc
    · rw [h]; rfl
    · rw [beq_eq_false_iff_ne.2 h, Bool.and_false]
  simp only [State.tryEnd, ht, hn, hh, Bool.true_or, Bool.true_and, Bool.false_eq_true, if_false, if_true]
end Ends

/-! ### A regroup point (R57, R231) -/

/-- The groups of a team that still run. -/
def liveGroups (t : Team) : List Group := t.groups.filter fun (g : Group) => !g.ended
/-- The last cycle in which a write of the range lands. -/
def rangeEnd (live : List Group) (r : Regroup) : Nat := live.foldl (fun n (g : Group) => max n ((g.writesEnd r.first r.count).getD 0)) 0
/-- The move of a regroup point: the first groups take the active lanes, the others end. -/
def regroupMove (s : State) (id : Nat) (live : List Group) (r : Regroup) : State :=
  let keep := ((movers live).length + 31) / 32
  let u := (live.take keep).foldl (fun (s : State) (g : Group) => s.wakeRange id g r) s
  (live.drop keep).foldl (fun (s : State) (g : Group) => s.at (s.g + 1) (.groupEnd id g.gid)) (u.mapTeam id fun (t : Team) => { t with
    regroup := none
    groups := t.groups.map fun (g : Group) => if g.ended then g
      else if live.findIdx (fun (h : Group) => h.gid == g.gid) < keep
        then g.regrouped r (((movers live).drop (32 * live.findIdx (fun (h : Group) => h.gid == g.gid))).take 32) u.g
        else g.emptied })

section Points
variable {s : State} {id : Nat} {t : Team} (ht : s.findTeam id = some t)
include ht
theorem tryRegroup_none (hr : t.regroup = none) : s.tryRegroup id = s := by simp only [State.tryRegroup, ht, hr]
variable {r : Regroup} {live : List Group} (hr : t.regroup = some r) (hl : live = liveGroups t)
include hr hl
theorem tryRegroup_some : s.tryRegroup id =
    if live = [] then s.mapTeam id fun (t : Team) => { t with regroup := none }
    else if !(live.all Group.atPoint) || t.state ≠ .resident && t.state ≠ .draining then s
    else if live.any fun (g : Group) => (g.writesEnd r.first r.count).isNone then s
    else if s.g < rangeEnd live r then s.once (rangeEnd live r) (.regroupComplete id)
    else regroupMove s id live r := by
  subst hl
  simp only [State.tryRegroup, ht, hr]
  rfl
theorem tryRegroup_empty (he : live = []) : s.tryRegroup id = s.mapTeam id fun (t : Team) => { t with regroup := none } :=
  (tryRegroup_some ht hr hl).trans (if_pos he)
variable (he : live ≠ [])
include he
/-- The point waits for groups that have not arrived, and for a team that is away. -/
theorem tryRegroup_waits (h : live.all Group.atPoint = false ∨ (t.state ≠ .resident ∧ t.state ≠ .draining)) : s.tryRegroup id = s := by
  rw [tryRegroup_some ht hr hl, if_neg he]
  exact if_pos (by simpa using h)
variable (ha : live.all Group.atPoint = true) (hs : t.state = .resident ∨ t.state = .draining)
include ha hs
theorem tryRegroup_arrived : s.tryRegroup id =
    if live.any fun (g : Group) => (g.writesEnd r.first r.count).isNone then s
    else if s.g < rangeEnd live r then s.once (rangeEnd live r) (.regroupComplete id)
    else regroupMove s id live r := by
  have hn : ¬((!(live.all Group.atPoint) || t.state ≠ .resident && t.state ≠ .draining) = true) := by
    obtain hs | hs := hs <;> simp [ha, hs]
  rw [tryRegroup_some ht hr hl, if_neg he, if_neg hn]
end Points

/-! ### Messages (R279) -/

/-- A message whose handler has no legal descriptor starts no team; else its team of one group joins the queue of the target core. -/
theorem acceptMessage_amsg {u : State} {id core k : Nat} {a b c : W64} {o : Op} {t : Team} (ho : u.findOp id = some o) (hk : o.kind = .amsg core k a b c)
    (ht : u.getTeam o.team = some t) : u.acceptMessage id = match kernelIn (u.bytesNow t (u.handlerAddr o.seat k) Config.kernelBytes) with
      | none => u.finishOp id
      | some kn => (u.finishOp id).fresh.2.addTeam {
          grid := (u.finishOp id).fresh.1, seat := o.seat, core := core, vf := t.vf, gridNumber := t.gridNumber, region := t.region
          kernel := { kn with roles := (kn.roles.take 1).map fun (r : Role) => { r with groups := 1 } }
          nscratch := kn.scratch, nabuf := kn.abuf, nwbuf := kn.wbuf, nxbuf := kn.xbuf, message := some (a, b, c)
          mode := { t.mode with port := false, twin := false } } := by
  simp only [State.acceptMessage, ho, hk, ht] <;> rfl

/-! ### Commits (R397) -/

/-- The copies of a quantum's teams that differ, of teams that nothing stopped. -/
def differing (s : State) (m : List (Nat × Nat)) (ts : List Team) : List Team := ts.filter fun (t : Team) => s.differs m t && t.halting.isNone
theorem commit_waits {s : State} {grid : Nat} {m : List (Nat × Nat)} (h : s.mayCommit (s.gridTeams grid) = false) : s.commit grid m = s := by
  simp [State.commit, h]
theorem commit_differs {s : State} {grid : Nat} {m : List (Nat × Nat)} (h : s.mayCommit (s.gridTeams grid) = true)
    (hd : differing s m (s.gridTeams grid) ≠ []) : s.commit grid m = (differing s m (s.gridTeams grid)).foldl (fun (s : State) t => s.mismatch t) s := by
  simp only [State.commit, h, Bool.not_true, Bool.false_eq_true, if_false]
  change (match differing s m (s.gridTeams grid) with
    | [] => s.applyQuantum (s.gridTeams grid)
    | l => l.foldl (fun (s : State) t => s.mismatch t) s) = _
  split
  · exact absurd ‹_› hd
  · rfl
theorem commit_applies {s : State} {grid : Nat} {m : List (Nat × Nat)} (h : s.mayCommit (s.gridTeams grid) = true)
    (hd : differing s m (s.gridTeams grid) = []) : s.commit grid m = s.applyQuantum (s.gridTeams grid) := by
  simp only [State.commit, h, Bool.not_true, Bool.false_eq_true, if_false]
  change (match differing s m (s.gridTeams grid) with
    | [] => s.applyQuantum (s.gridTeams grid)
    | l => l.foldl (fun (s : State) t => s.mismatch t) s) = _
  rw [hd]

/-- A quantum whose launches still need a page asks for it. -/
theorem applyQuantum_params {s t : State} {ts : List Team} {n : Need} {l : List Need}
    (h : takeAllParams ((commitOrder ts).flatMap fun q => q.2.effects) s = (t, n :: l)) : s.applyQuantum ts = s.askPage n := by
  simp only [State.applyQuantum, h]
/-- A quantum one of whose effects still needs a page asks for it. -/
theorem applyQuantum_effects {s u t : State} {ts : List Team} {n : Need} {l : List Need}
    (hp : takeAllParams ((commitOrder ts).flatMap fun q => q.2.effects) s = (u, []))
    (h : ((commitOrder ts).flatMap fun q => q.2.effects).foldl commitOp (u, []) = (t, n :: l)) : s.applyQuantum ts = s.askPage n := by
  simp only [State.applyQuantum, hp, h]

/-! ### The end of a grid (R278, R383) -/

theorem endGrid_gone {s : State} {id : Nat} (h : ∀ g ∈ s.grids, g.id ≠ id) : s.endGrid id = s := by
  have : s.grids.find? (fun (g : Grid) => g.id == id) = none := List.find?_eq_none.2 fun g hg => by simpa using h g hg
  simp only [State.endGrid, this]
section Grids
variable {s : State} {id : Nat} {x : Grid} (hx : s.grids.find? (fun (g : Grid) => g.id == id) = some x)
include hx
theorem endGrid_lives (h : x.teamsLeft ≠ 0 ∨ x.placed = false) : s.endGrid id = s := by
  simp only [State.endGrid, hx]
  exact if_pos (by simpa using h)
variable (h0 : x.teamsLeft = 0) (hp : x.placed = true)
include h0 hp
theorem endGrid_ends : s.endGrid id = match x.launcher with
    | .host vf q cq _ => ((if cq then (s.dropGrid id).complete x.region q 0 (BitVec.ofNat 64 x.tag) else s.dropGrid id).mapQueue vf q fun k =>
        { k with live := k.live.filter fun i => i != id }).pokeQueues
    | .device team _ => match (s.dropGrid id).findTeam team with
      | some t => if t.mode.port then (s.dropGrid id).pokeCommit t.grid else s.dropGrid id
      | none => s.dropGrid id
    | .message => s.dropGrid id := by
  simp only [State.endGrid, hx]
  exact if_neg (by simp [h0, hp])
end Grids

/-- Settles O45: the row of each event is one function of the state, and the clauses of the event are the branches of that function. -/
theorem teamEventsAct : Obligations.TeamEventsAct := by
  intro s
  refine ⟨fun team gid b he => ⟨fun n hn => ?_, fun hn due hdue => ?_⟩, fun core seat he => ?_, fun team he => waitResume_next he,
    fun team gid he => ?_, fun core seat he => ⟨fun h => ?_, fun x t hx ht busy hbusy heads hheads => ?_⟩, fun id he => ⟨fun h => ?_, fun t ht => ?_⟩,
    fun core seat he => ⟨fun h => ?_, fun h hh => ?_⟩, fun id he => ⟨fun h => ?_, fun t ht => ?_⟩, fun id he => ⟨fun h => ?_, fun t ht => ?_⟩,
    fun id he => ⟨fun h => ?_, fun t ht => ?_⟩, fun id gid he => ⟨fun h => ?_, fun t ht => ⟨fun h => ?_, fun g hg => ?_⟩⟩, fun id he => ⟨fun h => ?_, fun t ht => ?_⟩,
    fun id he => ⟨fun h => ?_, fun t ht => ⟨fun h => ?_, fun r live hr hl => ?_⟩⟩, fun id he u hu => ?_, fun grid m he ts hts bad hbad ids hids => ?_,
    fun id he => ?_⟩
  -- the wake of a group's bank, and of a scratchpad bank with the deliveries that are due
  · subst hn
    rw [bankWakeEnd_group he]
    exact ⟨fun h => by rw [endWake_group_none h], fun w h => ⟨fun hw => by rw [endWake_group_early h hw], fun hw => by rw [endWake_group_due h hw]⟩⟩
  · intro land
    subst hn hdue
    rw [bankWakeEnd_scratch he]
    refine ⟨fun h => ?_, fun w h => ⟨fun hw => ?_, fun hw => ?_⟩, fun h t => ?_⟩
    · rw [endWake_scratch_none h]
      rfl
    · rw [endWake_scratch_early h hw]
      rfl
    · rw [endWake_scratch_due h hw]
      rfl
    · simp only [land, h, List.foldl_nil]
  -- waiting eacq words
  · intro free
    rw [eacqGrant_next he]
    refine ⟨rfl, fun h => ?_, fun since r gid team t g h1 h2 ht hg => ⟨fun hp => ?_, fun hp hx hb => ?_, fun m u hp hx hb hu h => ?_, fun u hp hx hu h => ?_⟩⟩
    · rw [grantWaiters_one (h false) rfl (h true)]
      rfl
    · rw [grantWaiters_one h1 (by rw [selected_no ht (by simp [hp])]; rfl) h2]
    · rw [grantWaiters_one h1 (by rw [selected_yes ht (by simp [hp]), grantExt_full hg hx hb]) h2]
    · rw [grantWaiters_one h1 (by rw [selected_yes ht (by simp [hp]), grantExt_takes hg hx hb]; exact hu.symm) h]
    · rw [grantWaiters_one h1 (by rw [selected_yes ht (by simp [hp]), grantExt_held hg hx]; exact hu.symm) h]
  · rw [waitcResume_next he]
    exact ⟨fun h => congrArg _ (if_pos h), fun h => congrArg _ (if_neg (by simp [h])), resumeCounts_counts⟩
  -- carving
  · rw [teamCarving_next he, carve_none h]
  · obtain rfl : busy = carvesNow s seat := funext hbusy
    subst hheads
    rw [teamCarving_next he]
    refine ⟨fun hr => by rw [carve_stopped hx ht hr], fun hr hb => by rw [carve_busy hx ht hr hb], fun hr hb hh => by rw [carve_notHead hx ht hr hb hh]; rfl,
      fun hr hb hh => ⟨fun v hv => ?_, fun hv => ?_⟩⟩
    · rw [carve_unit hx ht hr hb hh, hv]
    · rw [carve_unit hx ht hr hb hh, hv]
      rfl
  -- release
  · rw [teamRelease_next he, State.endCarving, h]
  · rw [teamRelease_next he]
    exact ⟨fun h => by rw [endCarving_off ht h], fun us n hc hr hus hn =>
      ⟨fun h => by rw [endCarving_waits ht hc hr hus hn h], fun h => by rw [endCarving_releases ht hc hr hus hn h]⟩⟩
  -- victims
  · rw [victimChoice_next he, State.chooseVictim, h]
  · rw [victimChoice_next he]
    refine ⟨fun hf => by rw [chooseVictim_fits hh hf], fun l hf hl => ⟨fun h => ?_, fun t h => ?_, fun t r k u h hu => ?_⟩⟩
    · rw [chooseVictim_nobody hh hf (hl.symm.trans h)]
    · rw [chooseVictim_one hh hf (hl.symm.trans h)]
    · rw [chooseVictim_first hh hf (hl.symm.trans h), hu]
  -- drains
  · rw [drainComplete_next he, State.drained, h]
  · rw [drainComplete_next he]
    refine ⟨fun h => by rw [drained_stopped ht (by simpa using h)], fun hh hd h => by rw [drained_other ht hh hd h], fun us e hh hd h hus hemax => ?_⟩
    rw [drained_draining ht hh hd h]
    refine ⟨fun h => by rw [trySave_waits hus h], fun h => ?_⟩
    rw [trySave_done hus hemax h]
    exact ⟨fun hg => congrArg _ (if_pos hg), fun hg => congrArg _ (if_neg (Nat.not_lt.2 hg))⟩
  -- saves
  · rw [saveComplete_next he, State.endSave, h]
  · rw [saveComplete_next he]
    refine ⟨fun h => by rw [endSave_other ht h], fun u h hu => ?_⟩
    rw [endSave_saving ht h, show s.mapTeam id Team.dropBanks = u from hu.symm]
    exact ⟨fun hp => by rw [if_pos hp], fun hp => by rw [if_neg (by simp [hp])]⟩
  -- parking
  · rw [parkWake_next he, State.wakeParked, h]
  · rw [parkWake_next he]
    refine ⟨fun h1 h2 => ?_, fun h1 h2 h3 => ?_, fun h1 h2 h3 => ?_, fun h1 h => by rw [wakeParked_held ht h1 h],
      fun h1 h2 h => by rw [wakeParked_leaves ht h1 h2 h], fun h1 h2 => by rw [wakeParked_other ht h1 h2]⟩
    · rw [wakeParked_resident ht h1, if_pos h2]
    · rw [wakeParked_resident ht h1, if_neg (by simp [h2]), if_pos h3]
    · rw [wakeParked_resident ht h1, if_neg (by simp [h2]), if_neg (by simp [h3])]
  -- the end of a group
  · rw [groupEnd_next he, State.tryEndGroup, h]
  · rw [groupEnd_next he, tryEndGroup_none ht h]
  · rw [groupEnd_next he]
    exact ⟨fun h => by rw [tryEndGroup_waits ht hg h], fun h1 h2 h3 => by rw [tryEndGroup_returns ht hg h1 h2 h3]⟩
  -- the end of a team
  · rw [teamEnd_next he, State.tryEnd, h]
  · rw [teamEnd_next he]
    refine ⟨fun hd hc => by rw [tryEnd_carving ht hd hc],
      fun hd hh => ⟨fun h hp => by rw [tryEnd_plain_ends ht hd hh h hp], fun h => by rw [tryEnd_plain_stays ht hd hh h]⟩,
      fun u us hd hc hh hu hus => ⟨fun h => by rw [tryEnd_discarded_waits ht hd hc hh hu hus h],
        fun h hall => by rw [tryEnd_discarded_restarts ht hd hc hh hu hus h hall]⟩, fun u hc hh hu => ?_⟩
    rw [tryEnd_halted ht hc hh hu]
    refine ⟨fun hp => congrArg _ (if_pos hp), fun hp h => ?_, fun hp h => ?_⟩
    · rw [if_neg (by simp [hp]), if_pos (opOfTeam_iff.2 h)]
    · rw [if_neg (by simp [hp]), if_neg (by rw [opOfTeam_none.2 h]; exact Bool.false_ne_true)]
  -- a regroup point
  · rw [regroupComplete_next he, State.tryRegroup, h]
  · rw [regroupComplete_next he, tryRegroup_none ht h]
  · rw [regroupComplete_next he]
    refine ⟨fun h => by rw [tryRegroup_empty ht hr hl h], fun h hw => by rw [tryRegroup_waits ht hr hl h hw], fun h ha hs => ?_⟩
    rw [tryRegroup_arrived ht hr hl h ha hs]
    refine ⟨fun hw => congrArg _ (if_pos hw), fun c hw hc => ?_⟩
    rw [if_neg (by simpa using hw), show rangeEnd live r = c from hc.symm]
    refine ⟨fun hg => congrArg _ (if_pos hg), fun keep u hg hk hu => ?_⟩
    subst hk hu
    exact congrArg _ (if_neg (Nat.not_lt.2 hg))
  -- a message
  · rw [amsgAccept_next he, ← hu]
    refine ⟨fun h => by rw [State.acceptMessage, h], fun o t core k a b c v ho hk ht hv => ?_⟩
    subst hv
    rw [acceptMessage_amsg ho hk ht]
    exact ⟨fun h => by rw [h], fun kn h => by rw [h]⟩
  -- a commit
  · subst hts hbad hids
    rw [quantumCommit_next he]
    refine ⟨fun h => by rw [commit_waits h], fun h hb => by rw [commit_differs h hb]; rfl, fun h hb => ?_⟩
    rw [commit_applies h hb]
    exact ⟨fun n l t hp => by rw [applyQuantum_params hp], fun u n l t hp hx => by rw [applyQuantum_effects hp hx], fun _ _ _ _ => rfl⟩
  -- the end of a grid
  · intro then_
    rw [gridEnd_next he]
    refine ⟨fun h => by rw [endGrid_gone h], fun x hx => ⟨fun h => by rw [endGrid_lives hx h], fun u vf q cq h v h0 hp hu hL hv => ?_, fun h0 hp hL => ?_,
      fun u team n v h0 hp hu hL hv => ?_⟩⟩
    · rw [endGrid_ends hx h0 hp, hL]
      subst hu hv
      rfl
    · rw [endGrid_ends hx h0 hp, hL]
    · subst hu
      rw [endGrid_ends hx h0 hp, hL]
      obtain ⟨ht, rfl⟩ | ⟨t, ht, rfl⟩ := hv
      · simp only [ht]
        rfl
      · simp only [ht]
        rfl

end Sys2Proof.Proofs
end

section
/-! Registers read as they were written (R58, R59). -/
namespace Sys2Proof.Proofs
open Sys2Proof Sys2Proof.Machine Sys2Proof.Laws

/-- Settles O7: for each kind of register its write keeps the canonical form, and its read after a write is the law of `Laws`. -/
theorem registerWritesReadBack : Obligations.RegisterWritesReadBack := by
  refine ⟨fun r => ⟨getS_zero r, getC_seven r⟩, fun r h => ⟨fun n v => ?_, fun n v => ?_, fun L v => ?_, fun n l f hl => ?_⟩⟩
  · exact ⟨setS_wf n v h, fun m => getS_setS h n m v⟩
  · exact ⟨setC_wf n v h, fun m => getC_setC h n m v⟩
  · exact ⟨setN_wf L v h, fun K => getN_setN h L K v⟩
  · exact ⟨setVs_wf n l f h, fun m K hK => getV_setVs h hK l hl f⟩

end Sys2Proof.Proofs
end

section
/-! The words of banks and of the extended block, and what a bank does when it is set (R65-R75, R259-R261). -/
namespace Sys2Proof.Proofs
open Sys2Proof Sys2Proof.Machine Sys2Proof.Laws

/-! ### The wakes of a list -/

/-- The wake of bank `b` in a list, of a group or of a team. -/
def wakeOf (l : List Wake) (b : Nat) : Option Wake := l.find? fun w => w.bank == b
theorem waking_eq_wakeOf (g : Group) (b : Nat) : g.waking b = wakeOf g.wakes b := rfl
theorem swaking_eq_wakeOf (t : Team) (j : Nat) : t.swaking j = wakeOf t.swakes j := rfl

section Wakes
variable {l : List Wake} {b d : Nat}
/-- A wake added for a bank that had none is the bank's wake. -/
theorem wakeOf_append (h : wakeOf l b = none) (x : BankState) (n d : Nat) :
    wakeOf (l ++ [{ bank := b, target := x, due := n }]) d = if d = b then some { bank := b, target := x, due := n } else wakeOf l d := by
  unfold wakeOf at *
  rw [List.find?_append]
  by_cases hd : d = b
  · subst hd
    simp [h]
  · simp [hd, Ne.symm hd]
/-- The wake of a bank ends. -/
theorem wakeOf_filter : wakeOf (l.filter fun w => w.bank != b) d = if d = b then none else wakeOf l d := by
  unfold wakeOf
  rw [List.find?_filter]
  split
  next h => simp [h]
  next h =>
    congr 1
    funext w
    by_cases hw : w.bank = d
    · simp [hw, h]
    · simp [hw]
/-- The wakes of a list, that of bank `b` with a later state. -/
def setLater (b : Nat) (x : BankState) (l : List Wake) : List Wake := l.map fun w => if w.bank = b then { w with later := some x } else w
/-- The wake of a bank gets a later state (R71). -/
theorem wakeOf_setLater (x : BankState) : wakeOf (setLater b x l) d =
    if d = b then (wakeOf l b).map fun w => { w with later := some x } else wakeOf l d := by
  unfold wakeOf setLater
  induction l with
  | nil => simp
  | cons w l ih =>
    rw [List.map_cons, List.find?_cons, List.find?_cons, List.find?_cons, ih]
    by_cases hb : w.bank = b <;> by_cases hd : w.bank = d <;> grind
/-- Where a bank does not wake, ending its wake changes nothing. -/
theorem filter_of_wakeOf_none (h : wakeOf l b = none) : (l.filter fun w => w.bank != b) = l :=
  List.filter_eq_self.2 fun w hw => by simpa using List.find?_eq_none.1 h w hw
end Wakes

/-! ### A bank and the state it is set to -/

theorem bankTarget_eq {c : BankCode} (h : c ≠ .off) : bankTarget c = if c = .full then .full else .retain := by
  cases c with
  | off => exact absurd rfl h
  | _ => rfl
/-- The states that a bank that does not wake can be in when it is set to one other than Off. -/
theorem bank_cases (x : BankState) {c : BankCode} (h : c ≠ .off) : x = .absent ∨ (x = .full ∧ c = .full ∨ x = .retain ∧ c = .retain)
    ∨ (x = .full ∧ c = .retain) ∨ (x = .retain ∧ c = .full) ∨ x = .off := by
  cases x <;> cases c <;> simp at h ⊢

/-! ### A bank of vector registers is set (R68, R70, R71) -/

/-- Bank `b` apart, the group `h` has the banks, wakes and registers of `g`. -/
structure BankFrame (b : Nat) (g h : Group) : Prop where
  bank : ∀ d, d ≠ b → h.bank d = g.bank d
  waking : ∀ d, d ≠ b → h.waking d = g.waking d
  getV : ∀ k L, L < 32 → bankOf k ≠ b → h.regs.getV k L = g.regs.getV k L
  regs_s : h.regs.s = g.regs.s
  regs_c : h.regs.c = g.regs.c
  regs_nest : h.regs.nest = g.regs.nest

section Frame
variable (g : Group) (b : Nat)
theorem BankFrame.refl : BankFrame b g g := ⟨fun _ _ => rfl, fun _ _ => rfl, fun _ _ _ _ => rfl, rfl, rfl, rfl⟩
theorem BankFrame.trans {g h k : Group} {b : Nat} (p : BankFrame b g h) (q : BankFrame b h k) : BankFrame b g k :=
  ⟨fun d hd => (q.bank d hd).trans (p.bank d hd), fun d hd => (q.waking d hd).trans (p.waking d hd),
    fun n L hL hn => (q.getV n L hL hn).trans (p.getV n L hL hn), q.regs_s.trans p.regs_s, q.regs_c.trans p.regs_c, q.regs_nest.trans p.regs_nest⟩
theorem bankFrame_banks (v : BankState) : BankFrame b g { g with banks := SMap.set .absent g.banks b v } :=
  { BankFrame.refl g b with bank := fun _ hd => get_set_ne _ v hd }
theorem bankFrame_wakes {l : List Wake} (h : ∀ d, d ≠ b → wakeOf l d = wakeOf g.wakes d) : BankFrame b g { g with wakes := l } :=
  { BankFrame.refl g b with waking := h }
theorem bankFrame_zeroBank : BankFrame b g (g.zeroBank b) :=
  { BankFrame.refl g b with getV := fun n _ hL hn => (getV_zeroBank g b n hL).trans (if_neg hn) }
end Frame

section SetBank
variable {s : State} {b : Nat} {c : BankCode}

theorem setBank_absent (h : s.cur.group.bank b = .absent) : s.setBank b c = s := by
  simp only [State.setBank, h]
/-- Off: at once, with the contents lost and a wake ended. -/
theorem setBank_off (h : s.cur.group.bank b ≠ .absent) : s.setBank b .off = s.onGroup fun g => { g.zeroBank b with
    banks := SMap.set .absent g.banks b .off, wakes := g.wakes.filter fun w => w.bank != b } := by
  cases hw : s.cur.group.waking b with
  | none =>
    simp only [State.onGroup, filter_of_wakeOf_none hw]
    cases hb : s.cur.group.bank b with
    | absent => exact absurd hb h
    | off | retain | full => simp only [State.setBank, hb, hw, State.onGroup]; rfl
  | some w =>
    cases hb : s.cur.group.bank b with
    | absent => exact absurd hb h
    | off | retain | full => simp only [State.setBank, hb, hw]
/-- A bank that wakes takes the state after its wake. -/
theorem setBank_waking {w : Wake} (h : s.cur.group.bank b ≠ .absent) (hc : c ≠ .off) (hw : s.cur.group.waking b = some w) :
    s.setBank b c = s.onGroup fun g => { g with wakes := setLater b (bankTarget c) g.wakes } := by
  cases hb : s.cur.group.bank b with
  | absent => exact absurd hb h
  | off | retain | full =>
    cases c with
    | off => exact absurd rfl hc
    | full | retain => simp only [State.setBank, hb, hw, setLater]
theorem setBank_same (hw : s.cur.group.waking b = none)
    (h : (s.cur.group.bank b = .full ∧ c = .full) ∨ (s.cur.group.bank b = .retain ∧ c = .retain)) : s.setBank b c = s := by
  obtain ⟨hb, rfl⟩ | ⟨hb, rfl⟩ := h <;> simp only [State.setBank, hb, hw]
theorem setBank_retain (hw : s.cur.group.waking b = none) (hb : s.cur.group.bank b = .full) :
    s.setBank b .retain = s.onGroup fun g => { g with banks := SMap.set .absent g.banks b .retain } := by
  simp only [State.setBank, hb, hw]
/-- A Retain bank set Full wakes in 16 cycles. -/
theorem setBank_wakes (hw : s.cur.group.waking b = none) (hb : s.cur.group.bank b = .retain) :
    s.setBank b .full = (s.onGroup fun g => { g with wakes := g.wakes ++ [{ bank := b, target := .full, due := s.g + 16 }] }).at (s.g + 16)
      (.bankWakeEnd s.cur.team.id (some s.cur.group.gid) b) := by
  simp only [State.setBank, hb, hw, Group.startWake, State.onGroup]
/-- An Off bank wakes in 48 cycles, zeroed. -/
theorem setBank_wakes_zeroed (hw : s.cur.group.waking b = none) (hb : s.cur.group.bank b = .off) (hc : c ≠ .off) :
    s.setBank b c = (s.onGroup fun g => { g.zeroBank b with wakes := g.wakes ++ [{ bank := b, target := bankTarget c, due := s.g + 48 }] }).at
      (s.g + 48) (.bankWakeEnd s.cur.team.id (some s.cur.group.gid) b) := by
  cases c with
  | off => exact absurd rfl hc
  | full | retain => simp only [State.setBank, hb, hw, Group.startWake, State.onGroup, bankTarget]

/-- Setting a bank leaves the other banks and the other registers. -/
theorem setBank_frame (s : State) (b : Nat) (c : BankCode) : BankFrame b s.cur.group (s.setBank b c).cur.group := by
  by_cases ha : s.cur.group.bank b = .absent
  · rw [setBank_absent ha]
    exact .refl _ b
  by_cases hc : c = .off
  · subst hc
    rw [setBank_off ha]
    exact ((bankFrame_zeroBank _ b).trans (bankFrame_banks _ b .off)).trans
      (bankFrame_wakes _ b fun d hd => wakeOf_filter.trans (if_neg hd))
  cases hw : s.cur.group.waking b with
  | some w =>
    rw [setBank_waking ha hc hw]
    exact bankFrame_wakes _ b fun d hd => (wakeOf_setLater _).trans (if_neg hd)
  | none =>
    obtain h | h | ⟨hb, rfl⟩ | ⟨hb, rfl⟩ | hb := bank_cases (s.cur.group.bank b) hc
    · exact absurd h ha
    · rw [setBank_same hw h]
      exact .refl _ b
    · rw [setBank_retain hw hb]
      exact bankFrame_banks _ b .retain
    · rw [setBank_wakes hw hb]
      exact bankFrame_wakes _ b fun d hd => (wakeOf_append hw _ _ d).trans (if_neg hd)
    · rw [setBank_wakes_zeroed hw hb hc]
      exact (bankFrame_zeroBank _ b).trans (bankFrame_wakes _ b fun d hd => (wakeOf_append hw _ _ d).trans (if_neg hd))
end SetBank

/-! ### A scratchpad bank is set (R70, R71, R73) -/

/-- A team changed by what keeps its identifier is found changed. -/
theorem getTeam_anyTeam {s : State} {id : Nat} {t : Team} {f : Team → Team} (h : s.getTeam id = some t) (hf : ∀ u, (f u).id = u.id) :
    (s.anyTeam id f).getTeam id = some (f t) := by
  by_cases hl : (s.cur.live && s.cur.team.id == id) = true
  · simp only [State.getTeam, hl, if_true] at h
    cases h
    rw [State.anyTeam, if_pos hl]
    exact if_pos (by simpa [State.onTeam, hf] using hl)
  · simp only [State.getTeam, hl] at h
    rw [State.anyTeam, if_neg hl]
    refine (if_neg hl).trans ?_
    have hid : ∀ u : Team, ((if u.id = id then f u else u).id == id) = (u.id == id) := by
      intro u
      split <;> simp [hf]
    have ht : t.id = id := by simpa using List.find?_some h
    simp only [State.findTeam, mapTeam_teams, List.find?_map, Function.comp_def, hid]
    rw [show s.teams.find? (fun u => u.id == id) = some t from h, Option.map_some, if_pos ht]

section SetScratch
variable {s : State} {id j : Nat} {c : BankCode} {t : Team}

/-- Off: at once, with the contents lost and a wake ended, once the reads in flight have their values. -/
theorem setScratch_off (ht : (s.takeReads id j).getTeam id = some t) : (s.setScratch id j .off).getTeam id = some { t.zeroBank j with
    sbanks := SMap.set .full t.sbanks j .off, swakes := t.swakes.filter fun w => w.bank != j } := by
  simp only [State.setScratch, if_true, ht]
  cases hw : t.swaking j with
  | some w => exact getTeam_anyTeam ht fun _ => rfl
  | none =>
    rw [filter_of_wakeOf_none hw]
    exact getTeam_anyTeam ht fun _ => rfl

section On
variable (ht : s.getTeam id = some t)
include ht
/-- A bank that wakes takes the state after its wake. -/
theorem setScratch_waking {w : Wake} (hc : c ≠ .off) (hw : t.swaking j = some w) :
    (s.setScratch id j c).getTeam id = some { t with swakes := setLater j (bankTarget c) t.swakes } := by
  have e : s.setScratch id j c = s.anyTeam id fun t => { t with swakes := setLater j (bankTarget c) t.swakes } := by
    cases c with
    | off => exact absurd rfl hc
    | full | retain => simp only [State.setScratch, reduceCtorEq, if_false, ht, hw, setLater]
  rw [e]
  exact getTeam_anyTeam ht fun _ => rfl
variable (hw : t.swaking j = none)
include hw
theorem setScratch_same (h : (t.sbank j = .full ∧ c = .full) ∨ (t.sbank j = .retain ∧ c = .retain)) : s.setScratch id j c = s := by
  obtain ⟨hb, rfl⟩ | ⟨hb, rfl⟩ := h <;> simp [State.setScratch, State.wakeScratch, ht, hw, hb]
theorem setScratch_absent (hc : c ≠ .off) (hb : t.sbank j = .absent) : s.setScratch id j c = s := by
  cases c with
  | off => exact absurd rfl hc
  | full | retain => simp [State.setScratch, State.wakeScratch, ht, hw, hb]
theorem setScratch_retain (hb : t.sbank j = .full) :
    (s.setScratch id j .retain).getTeam id = some { t with sbanks := SMap.set .full t.sbanks j .retain } := by
  simp only [State.setScratch, ht, hw, hb, if_true, reduceCtorEq, if_false]
  exact getTeam_anyTeam ht fun _ => rfl
/-- A Retain bank set Full wakes in 24 cycles. -/
theorem setScratch_wakes (hb : t.sbank j = .retain) : (s.setScratch id j .full).getTeam id = some { t with
      swakes := t.swakes ++ [{ bank := j, target := .full, due := s.g + 24 }] }
    ∧ (s.g + 24, Event.bankWakeEnd id none j) ∈ (s.setScratch id j .full).agenda := by
  simp only [State.setScratch, State.wakeScratch, ht, hw, hb, reduceCtorEq, if_false, Option.isSome_none, Bool.false_eq_true]
  exact ⟨getTeam_anyTeam ht fun _ => rfl, List.mem_append_right _ (List.mem_singleton_self _)⟩
/-- An Off bank wakes in 64 cycles, zeroed. -/
theorem setScratch_wakes_zeroed (hb : t.sbank j = .off) (hc : c ≠ .off) : (s.setScratch id j c).getTeam id = some { t.zeroBank j with
      swakes := t.swakes ++ [{ bank := j, target := bankTarget c, due := s.g + 64 }] }
    ∧ (s.g + 64, Event.bankWakeEnd id none j) ∈ (s.setScratch id j c).agenda := by
  have e : s.setScratch id j c = (s.anyTeam id fun t =>
      { t.zeroBank j with swakes := t.swakes ++ [{ bank := j, target := bankTarget c, due := s.g + 64 }] }).at (s.g + 64)
        (.bankWakeEnd id none j) := by
    cases c with
    | off => exact absurd rfl hc
    | full | retain => simp [State.setScratch, State.wakeScratch, ht, hw, hb, bankTarget]
  rw [e]
  exact ⟨getTeam_anyTeam ht fun _ => rfl, List.mem_append_right _ (List.mem_singleton_self _)⟩
end On

/-- A zeroed bank of the scratchpad reads zero; the other bytes read as before. -/
theorem get_zeroBank (t : Team) (j a : Nat) :
    Memory.get (t.zeroBank j).scratch a = if a / Config.bankBytes = j then Memory.get [] a else Memory.get t.scratch a := by
  have h := get_filter_key (0 : Byte) (fun k => k / Config.bankBytes != j) t.scratch a
  simp only [bne_iff_ne, ne_eq, ite_not] at h
  exact h
/-- Setting a scratchpad bank leaves the other banks. -/
theorem setScratch_frame (ht : (if c = .off then s.takeReads id j else s).getTeam id = some t) : ∃ h, (s.setScratch id j c).getTeam id = some h
    ∧ ∀ i, i ≠ j → h.sbank i = t.sbank i ∧ h.swaking i = t.swaking i := by
  by_cases hc : c = .off
  · subst hc
    exact ⟨_, setScratch_off ht, fun i hi => ⟨get_set_ne _ BankState.off hi, wakeOf_filter.trans (if_neg hi)⟩⟩
  rw [if_neg hc] at ht
  cases hw : t.swaking j with
  | some w => exact ⟨_, setScratch_waking ht hc hw, fun i hi => ⟨rfl, (wakeOf_setLater _).trans (if_neg hi)⟩⟩
  | none =>
    obtain hb | h | ⟨hb, rfl⟩ | ⟨hb, rfl⟩ | hb := bank_cases (t.sbank j) hc
    · exact ⟨t, by rw [setScratch_absent ht hw hc hb, ht], fun _ _ => ⟨rfl, rfl⟩⟩
    · exact ⟨t, by rw [setScratch_same ht hw h, ht], fun _ _ => ⟨rfl, rfl⟩⟩
    · exact ⟨_, setScratch_retain ht hw hb, fun i hi => ⟨get_set_ne _ BankState.retain hi, rfl⟩⟩
    · exact ⟨_, (setScratch_wakes ht hw hb).1, fun i hi => ⟨rfl, (wakeOf_append hw _ _ i).trans (if_neg hi)⟩⟩
    · exact ⟨_, (setScratch_wakes_zeroed ht hw hb hc).1, fun i hi => ⟨rfl, (wakeOf_append hw _ _ i).trans (if_neg hi)⟩⟩
end SetScratch

/-! ### The team in focus stays that team while a pbank sets its banks -/

section FocusTeam
variable {s : State}
theorem once_cur (s : State) (n : Nat) (e : Event) : (s.once n e).cur = s.cur := by
  unfold State.once
  split <;> rfl
theorem barWake_cur (s : State) (team : Nat) : (s.barWake team).cur = s.cur := by
  have hf (l : List Op) (u : State) : (l.foldl (fun s o => s.once (s.g + 1) (.circSlotReady o.id)) u).cur = u.cur := by
    induction l generalizing u with
    | nil => rfl
    | cons o l ih => exact (ih _).trans (once_cur u _ _)
  exact (hf _ _).trans (once_cur s _ _)
theorem touchBars_cur (s : State) (team : Nat) (sp : Space) : (s.touchBars team sp).cur = s.cur := by
  unfold State.touchBars
  split
  · exact barWake_cur s team
  · rfl
theorem setLocal_id (t : Team) (sp : Space) (m : Memory) : (setLocal t sp m).id = t.id := by
  cases sp <;> rfl
theorem clearMarks_id (t : Team) (sp : Space) (l : List (Nat × Nat)) : (t.clearMarks sp l).id = t.id := by
  unfold Team.clearMarks
  split <;> rfl
theorem anyTeam_teamId (id : Nat) {f : Team → Team} (hf : ∀ t, (f t).id = t.id) : (s.anyTeam id f).cur.team.id = s.cur.team.id := by
  unfold State.anyTeam
  split
  · exact hf s.cur.team
  · rfl
/-- Lanes of a local access perform in the memory of a team, and no team changes its identifier. -/
theorem localLanes_teamId (s : State) (id : Nat) (m : LaneMask) : (s.localLanes id m).cur.team.id = s.cur.team.id := by
  have hf (u : State) (team : Nat) (sp : Space) (l : List (Nat × Nat)) (k : Team → Memory) :
      ((u.anyTeam team fun t => setLocal (t.clearMarks sp l) sp (k t)).touchBars team sp).cur.team.id = u.cur.team.id := by
    rw [touchBars_cur, anyTeam_teamId team fun t => (setLocal_id _ sp _).trans (clearMarks_id t sp l)]
  unfold State.localLanes
  split
  next => rfl
  next o _ =>
    split
    next => rfl
    next t _ =>
      dsimp only
      split
      next => rfl
      next => exact hf _ _ _ _ _
      next => exact hf _ _ _ _ _
      next => rfl
theorem takeReads_teamId (s : State) (team j : Nat) : (s.takeReads team j).cur.team.id = s.cur.team.id := by
  unfold State.takeReads
  generalize s.ops.filter _ = l
  induction l generalizing s with
  | nil => rfl
  | cons o l ih =>
    refine (ih _).trans ?_
    dsimp only
    split
    · rfl
    · exact localLanes_teamId s o.id _
theorem wakeScratch_teamId (s : State) (team j : Nat) (x : BankState) : (s.wakeScratch team j x).cur.team.id = s.cur.team.id := by
  have hf {f : Team → Team} (h : ∀ t, (f t).id = t.id) : (s.anyTeam team f).cur.team.id = s.cur.team.id := anyTeam_teamId team h
  unfold State.wakeScratch
  split
  next => rfl
  next t _ =>
    split
    · split
      · exact hf fun _ => rfl
      · rfl
    · split
      · exact hf fun _ => rfl
      · exact hf fun _ => rfl
      · rfl
theorem setScratch_teamId (s : State) (team j : Nat) (c : BankCode) : (s.setScratch team j c).cur.team.id = s.cur.team.id := by
  have hv : (if c = .off then s.takeReads team j else s).cur.team.id = s.cur.team.id := by
    split
    · exact takeReads_teamId s team j
    · rfl
  have hf {f : Team → Team} (h : ∀ t, (f t).id = t.id) :
      ((if c = .off then s.takeReads team j else s).anyTeam team f).cur.team.id = s.cur.team.id := (anyTeam_teamId team h).trans hv
  unfold State.setScratch
  dsimp only
  split
  next => exact hv
  next t _ =>
    split
    · exact hf fun _ => rfl
    · exact hf fun _ => rfl
    · exact hf fun _ => rfl
    · exact (wakeScratch_teamId _ _ _ _).trans hv
    · split
      · exact hf fun _ => rfl
      · split
        · exact (wakeScratch_teamId _ _ _ _).trans hv
        · exact hv
/-- Banks set one after another in the team in focus are banks of the team that was in focus first. -/
theorem foldl_setScratch (first : Nat) (c : BankCode) (l : List Nat) (s : State) :
    l.foldl (fun u k => u.setScratch u.cur.team.id (first + k) c) s = l.foldl (fun u k => u.setScratch s.cur.team.id (first + k) c) s := by
  have h (id : Nat) (u : State) (hu : u.cur.team.id = id) : l.foldl (fun u k => u.setScratch u.cur.team.id (first + k) c) u =
      l.foldl (fun u k => u.setScratch id (first + k) c) u := by
    induction l generalizing u with
    | nil => rfl
    | cons k l ih =>
      subst hu
      exact ih _ (setScratch_teamId u _ _ c)
  exact h _ s rfl
end FocusTeam

/-! ### The extended block (R66, R67, R75) -/

/-- The banks of the extended block. -/
theorem mem_extBanks {b : Nat} : b ∈ [8, 9, 10, 11, 12, 13, 14, 15] ↔ 8 ≤ b ∧ b < 16 := by
  simp only [List.mem_cons, List.not_mem_nil, or_false]
  omega

section Banks
variable {step : Group → Nat → Group}
/-- Banks set to one state, one after another. -/
theorem bank_foldl {v : BankState} (hs : ∀ g b, (step g b).banks = SMap.set .absent g.banks b v) (l : List Nat) {g : Group}
    (hg : SMap.wf .absent g.banks = true) (b : Nat) : (l.foldl step g).bank b = if b ∈ l then v else g.bank b := by
  have e : ∀ (l : List Nat) (g : Group), (l.foldl step g).banks = l.foldl (fun m b => SMap.set .absent m b v) g.banks := by
    intro l
    induction l with
    | nil => exact fun _ => rfl
    | cons a l ih => exact fun g => (ih (step g a)).trans (by rw [hs, List.foldl_cons])
  rw [Group.bank, e]
  exact get_foldl_set hg (fun _ => v) l b
/-- Banks zeroed, one after another. -/
theorem getV_foldl (hs : ∀ g b, (step g b).regs = (g.zeroBank b).regs) (l : List Nat) (g : Group) (k : Nat) {L : Nat} (hL : L < 32) :
    (l.foldl step g).regs.getV k L = if bankOf k ∈ l then 0 else g.regs.getV k L := by
  induction l generalizing g with
  | nil => rfl
  | cons b l ih =>
    rw [List.foldl_cons, ih, hs, getV_zeroBank g b k hL]
    by_cases hb : bankOf k = b
    · simp [hb]
    · simp [hb]
end Banks

theorem takeExt_bank {g : Group} (hg : SMap.wf .absent g.banks = true) (w : SMap Nat) (b : Nat) :
    (g.takeExt w).bank b = if 8 ≤ b ∧ b < 16 then .full else g.bank b := by
  unfold Group.takeExt
  exact (bank_foldl (fun _ _ => rfl) _ hg b).trans (if_congr mem_extBanks rfl rfl)
theorem takeExt_getV (g : Group) (w : SMap Nat) (k : Nat) {L : Nat} (hL : L < 32) :
    (g.takeExt w).regs.getV k L = if 64 ≤ k ∧ k < 128 then 0 else g.regs.getV k L := by
  have hk : 8 ≤ bankOf k ∧ bankOf k < 16 ↔ 64 ≤ k ∧ k < 128 := by
    unfold bankOf
    omega
  exact (getV_foldl (step := fun g b => { g.zeroBank b with banks := SMap.set .absent g.banks b .full }) (fun _ _ => rfl) _ g k hL).trans
    (if_congr (mem_extBanks.trans hk) rfl rfl)
theorem dropExt_bank {g : Group} (hg : SMap.wf .absent g.banks = true) {b : Nat} (h8 : 8 ≤ b) (h16 : b < 16) : g.dropExt.bank b = .absent := by
  unfold Group.dropExt
  exact (bank_foldl (fun _ _ => rfl) _ hg b).trans (if_pos (mem_extBanks.2 ⟨h8, h16⟩))

section Waiters
variable {s : State}
theorem insertBy_ne_nil {α : Type} (before : α → α → Bool) (a : α) (l : List α) : insertBy before a l ≠ [] := by
  cases l with
  | nil => exact List.cons_ne_nil _ _
  | cons b l =>
    rw [insertBy]
    split <;> exact List.cons_ne_nil _ _
theorem sortBy_eq_nil {α : Type} {before : α → α → Bool} {l : List α} : sortBy before l = [] ↔ l = [] := by
  cases l with
  | nil => exact Iff.rfl
  | cons a l => exact iff_of_false (insertBy_ne_nil before a _) (List.cons_ne_nil a l)
/-- No eacq of a mode waits exactly where no split of a team of the mode is blocked by one. -/
theorem eacqWaiters_eq_nil {seat core : Nat} {mode : Bool} : s.eacqWaiters seat core mode = [] ↔
    ∀ u ∈ s.teamsOn seat core, u.kernel.detect = mode → ∀ g ∈ u.groups, ∀ p ∈ g.allSplits, ∀ k, p.block ≠ .eacq k := by
  simp only [State.eacqWaiters, sortBy_eq_nil, List.flatMap_eq_nil_iff, List.filterMap_eq_nil_iff, List.mem_filter, beq_iff_eq, and_imp]
  refine forall₃_congr fun u _ _ => forall₂_congr fun g _ => forall₂_congr fun p _ => ?_
  cases p.block <;> simp

/-- What is left to take of `n` banks after the subarrays listed have given theirs. -/
theorem takeFrom_fst (free : Nat → Nat) (l : List Nat) (n : Nat) (m : SMap Nat) : (takeFrom free l n m).1 = n - (l.map free).sum := by
  induction l generalizing n m with
  | nil => rfl
  | cons i l ih =>
    rw [takeFrom, ih, List.map_cons, List.sum_cons]
    omega
/-- A sum over the elements of two kinds that exclude each other. -/
theorem sum_filter_append {p q : Nat → Bool} (f : Nat → Nat) (h : ∀ i, p i = true → q i = false) (l : List Nat) :
    ((l.filter p ++ l.filter q).map f).sum = (l.map fun i => if p i = true ∨ q i = true then f i else 0).sum := by
  induction l with
  | nil => rfl
  | cons i l ih =>
    simp only [List.map_append, List.sum_append, List.map_cons, List.sum_cons] at ih ⊢
    rw [← ih]
    cases hp : p i with
    | true => simp [hp, h i hp, Nat.add_assoc]
    | false =>
      cases hq : q i with
      | false => simp [hp, hq]
      | true => simp [hp, hq, Nat.add_left_comm]
/-- `n` banks of a mode can be taken exactly where the subarrays of the mode and the undetermined ones have that many free. -/
theorem takeBanks_isSome {seat core : Nat} {x : Seat} {q : CoreRec} (hx : s.findSeat seat = some x) (hq : x.core? core = some q)
    (mode : Bool) (n : Nat) : (s.takeBanks seat core mode n).isSome = true ↔ n ≤ ((List.range q.suba).map fun i =>
      if (s.subarray seat core i).2 = some mode ∨ (s.subarray seat core i).2 = none
        then subarrayBanks mode - (s.subarray seat core i).1 else 0).sum := by
  have hmap (p : Nat × Option Bool → Bool) : (((List.range q.suba).map fun i => (i, s.subarray seat core i)).filter fun r => p r.2).map (·.1) =
      (List.range q.suba).filter fun i => p (s.subarray seat core i) := by
    rw [List.filter_map, List.map_map]
    exact List.map_id _
  have hsum := sum_filter_append (p := fun i => (s.subarray seat core i).2 == some mode) (q := fun i => (s.subarray seat core i).2 == none)
    (fun i => subarrayBanks mode - (s.subarray seat core i).1) (fun i hi => by simp_all) (List.range q.suba)
  simp only [beq_iff_eq] at hsum
  rw [← hsum, ← Nat.sub_eq_zero_iff_le, ← takeFrom_fst _ _ n []]
  simp only [State.takeBanks, hx, Option.bind_some, hq]
  rw [hmap fun r => r.2 == some mode, hmap fun r => r.2 == none]
  split
  next h => exact iff_of_true rfl (congrArg Prod.fst h)
  next h => exact iff_of_false Bool.false_ne_true fun e => h _ (Prod.ext e rfl)

/-- An acquisition of a group without the block takes it where no eacq of its mode waits and 8 banks can be taken (R66, R67). -/
theorem tryExt_eq_some (h : s.cur.group.hasExt = false) (u : State) : s.tryExt = some u ↔
    s.eacqWaiters s.cur.team.seat s.cur.team.core s.cur.team.kernel.detect = [] ∧ ∃ w,
      s.takeBanks s.cur.team.seat s.cur.team.core s.cur.team.kernel.detect 8 = some w ∧ u = s.onGroup fun g => g.takeExt w := by
  simp only [State.tryExt, h, Bool.false_eq_true, if_false, List.isEmpty_iff]
  split
  next hw =>
    simp only [hw, true_and]
    cases s.takeBanks s.cur.team.seat s.cur.team.core s.cur.team.kernel.detect 8 <;> simp [eq_comm]
  next hw => simp [hw]
theorem tryExt_held (h : s.cur.group.hasExt = true) : s.tryExt = some s := if_pos h
end Waiters

section Words
variable {s : State} (hl : s.cur.live = true)
include hl
theorem vbank_next (m : BitVec 16) (c : BankCode) : exec (.vbank m c) s =
    .next (((List.range 16).filter fun b => m.getLsbD b).foldl (fun s b => s.setBank b c) s) := by
  rw [exec_vbank, execVbank, runPure_bare hl rfl rfl]
theorem pbank_beyond {f n : Fin 128} (h : s.cur.team.nscratch ≤ f.val + n.val) (c : BankCode) :
    exec (.pbank f n c) s = .next (s.trapWord (illegal 10)) := by
  rw [exec_pbank, execPbank, runWord_bare hl rfl rfl, if_pos h]
theorem pbank_sets {f n : Fin 128} (h : f.val + n.val < s.cur.team.nscratch) (hp : s.cur.team.portable = false) (c : BankCode) :
    exec (.pbank f n c) s = .next ((List.range (n.val + 1)).foldl (fun t k => t.setScratch s.cur.team.id (f.val + k) c) s) := by
  rw [exec_pbank, execPbank, runWord_bare hl rfl rfl, if_neg (Nat.not_le.2 h), if_neg (by simp [hp])]
  exact congrArg _ (foldl_setScratch f.val c (List.range (n.val + 1)) s)
/-- In a portable team a pbank is buffered up to the commit. -/
theorem pbank_buffered {f n : Fin 128} (h : f.val + n.val < s.cur.team.nscratch) (hp : s.cur.team.portable = true) (c : BankCode) :
    exec (.pbank f n c) s = .next ((s.launchOp { blankOp (.pbank f.val (n.val + 1) c) with buffered := true }).onGroup
      fun g => { g with effects := g.effects ++ [s.nextOp] }) := by
  rw [exec_pbank, execPbank, runWord_bare hl rfl rfl, if_neg (Nat.not_le.2 h), if_pos hp]
theorem eacq_next : exec .eacq s = .next (s.tryExt.getD (s.block (.eacq s.g))) := by
  rw [exec_eacq, execEacq, runPure_bare hl rfl rfl]
  cases s.tryExt <;> rfl
theorem eacqTry_next (r : CReg) : exec (.eacqTry r) s = .next (s.tryExt.elim (s.wC r 0) fun t => t.wC r (BitVec.allOnes 32)) := by
  rw [exec_eacqTry, execEacqTry, runPure_bare hl rfl rfl]
  cases s.tryExt <;> rfl
theorem erel_next : exec .erel s = .next (if s.cur.group.hasExt = true then
    ((s.onGroup Group.dropExt).once (s.g + 1) (.eacqGrant s.cur.team.core s.cur.team.seat)).once (s.g + 1)
      (.teamCarving s.cur.team.core s.cur.team.seat) else s) := by
  rw [exec_erel, execErel, runPure_bare hl rfl rfl]
end Words

/-- Settles O35: each word is `setBank`, `setScratch` or the taking and return of the extended block, and setting a bank is, by the bank's state
and its wake, the case of `setBank` or `setScratch` that the clause names; the other banks are `setBank_frame` and `setScratch_frame`. -/
theorem bankWordsAct : Obligations.BankWordsAct := by
  intro s m c f n r hl
  refine ⟨vbank_next hl m c, fun h => pbank_beyond hl h c, fun h hp => pbank_sets hl h hp c, fun h hp => pbank_buffered hl h hp c,
    fun t ht => ?_, fun ht => ?_, fun he hw => ?_, fun he => ?_,
    ⟨fun he u => tryExt_eq_some he u, eacqWaiters_eq_nil, fun x q hx hq => takeBanks_isSome hx hq _ 8,
      fun g w hg => ⟨rfl, rfl, takeExt_bank hg w, fun k L hL => takeExt_getV g w k hL⟩⟩, fun b u hu hg => ?_, fun id j v t hv ht hb => ?_⟩
  · rw [eacq_next hl, eacqTry_next hl, ht]
    exact ⟨rfl, rfl⟩
  · rw [eacq_next hl, eacqTry_next hl, ht]
    exact ⟨rfl, rfl⟩
  · refine ⟨tryExt_held he, _, (erel_next hl).trans (congrArg _ (if_pos he)), ?_, fun b h8 h16 => ?_⟩
    · rw [once_cur, once_cur]
      rfl
    · rw [once_cur, once_cur]
      exact dropExt_bank hw h8 h16
  · rw [erel_next hl, if_neg (by simp [he])]
  -- a bank of vector registers
  · subst hu
    have fr := setBank_frame s b c
    refine ⟨setBank_absent, fun ha hc => ?_, fun w ha hc hw => ?_, setBank_same, fun hw hb hc => ?_, fun hw hb hc => ?_, fun hw hb hc => ?_,
      fun d hd => ⟨fr.bank d hd, fr.waking d hd⟩, fr.getV, fr.regs_s, fr.regs_c, fr.regs_nest⟩
    · subst hc
      rw [setBank_off ha]
      exact ⟨(get_set _ b b BankState.off hg).trans (if_pos rfl), wakeOf_filter.trans (if_pos rfl),
        fun k L hL hk => (getV_zeroBank _ b k hL).trans (if_pos hk)⟩
    · rw [setBank_waking ha hc hw, ← bankTarget_eq hc]
      refine ⟨rfl, (wakeOf_setLater _).trans ?_, fun _ _ _ _ => rfl⟩
      rw [if_pos rfl, ← waking_eq_wakeOf, hw]
      rfl
    · subst hc
      rw [setBank_retain hw hb]
      exact ⟨(get_set _ b b BankState.retain hg).trans (if_pos rfl), hw, fun _ _ _ _ => rfl⟩
    · subst hc
      rw [setBank_wakes hw hb]
      exact ⟨⟨rfl, (wakeOf_append hw _ _ b).trans (if_pos rfl), List.mem_append_right _ (List.mem_singleton_self _)⟩, fun _ _ _ _ => rfl⟩
    · rw [setBank_wakes_zeroed hw hb hc, ← bankTarget_eq hc]
      exact ⟨⟨rfl, (wakeOf_append hw _ _ b).trans (if_pos rfl), List.mem_append_right _ (List.mem_singleton_self _)⟩,
        fun k L hL hk => (getV_zeroBank _ b k hL).trans (if_pos hk)⟩
  -- a scratchpad bank
  · subst hv
    obtain ⟨h, hh, fr⟩ := setScratch_frame ht
    have same {u : Team} (e : (s.setScratch id j c).getTeam id = some u) : h = u := Option.some.inj (hh.symm.trans e)
    refine ⟨h, hh, fun hc => ?_, fun w hc hw => ?_, fun hw hs => ?_, fun hw hs hc => ?_, fun hw hs hc => ?_, fun hw hs hc => ?_, fr⟩
    · subst hc
      rw [same (setScratch_off ht)]
      exact ⟨(get_set _ j j BankState.off hb).trans (if_pos rfl), wakeOf_filter.trans (if_pos rfl), get_zeroBank t j⟩
    · rw [if_neg hc] at ht
      rw [same (setScratch_waking ht hc hw), ← bankTarget_eq hc]
      refine ⟨rfl, (wakeOf_setLater _).trans ?_, rfl⟩
      rw [if_pos rfl, ← swaking_eq_wakeOf, hw]
      rfl
    · rw [if_neg (by obtain ⟨-, rfl⟩ | ⟨-, rfl⟩ := hs <;> simp)] at ht
      exact setScratch_same ht hw hs
    · rw [if_neg (by simp [hc])] at ht
      subst hc
      rw [same (setScratch_retain ht hw hs)]
      exact ⟨(get_set _ j j BankState.retain hb).trans (if_pos rfl), hw, rfl⟩
    · have hn : c ≠ .off := by simp [hc]
      rw [if_neg hn] at ht ⊢
      subst hc
      obtain ⟨he, ha⟩ := setScratch_wakes ht hw hs
      rw [same he]
      exact ⟨⟨rfl, (wakeOf_append hw _ _ j).trans (if_pos rfl), ha⟩, rfl⟩
    · rw [if_neg hc] at ht ⊢
      obtain ⟨he, ha⟩ := setScratch_wakes_zeroed ht hw hs hc
      rw [same he, ← bankTarget_eq hc]
      exact ⟨⟨rfl, (wakeOf_append hw _ _ j).trans (if_pos rfl), ha⟩, get_zeroBank t j⟩

end Sys2Proof.Proofs
end

section
/-! Barrier objects as values and in memory (R89-R91), and the address checks of accesses at issue (R81-R83, R248). -/
namespace Sys2Proof.Proofs
open Sys2Proof Sys2Proof.Machine Sys2Proof.Laws

/-! ### Barrier objects (R89-R91) -/

section Bars
variable (b : Bar)
theorem settle_eq : b.settle =
    if b.low % 2 = 1 ∧ b.remain = 0 ∧ b.pend = 0 then { b with phase := (b.phase + 1) % 2 ^ 32, remain := b.expect } else b := by
  simp only [Bar.settle, Bar.valid, Bool.and_eq_true, beq_iff_eq, and_assoc]
/-- A phase has completed when the object's PHASE is ahead of it by 1 to 2^31, modulo 2^32 (R91). -/
theorem completed_iff (p : W32) (h : b.phase < 2 ^ 32) :
    b.completed p = true ↔ ∃ d, 1 ≤ d ∧ d ≤ 2 ^ 31 ∧ (p.toNat + d) % 2 ^ 32 = b.phase := by
  have hp := p.isLt
  simp only [Bar.completed, Bool.and_eq_true, decide_eq_true_eq]
  constructor
  · rintro ⟨h1, h2⟩
    exact ⟨_, h1, h2, by omega⟩
  · rintro ⟨d, h1, h2, hd⟩
    omega
variable {b}
theorem apply_arrive_none (c : Option Nat) (n : W32) (h : b.remain = 0) : b.apply (.arrive n c) = none := if_pos h
theorem apply_arrive_some (c : Option Nat) (n : W32) (h : b.remain ≠ 0) :
    b.apply (.arrive n c) = some ({ b with remain := b.remain - 1, pend := (b.pend + n.toNat) % 2 ^ 32 } : Bar).settle := if_neg h
/-- An object whose fields keep to their widths reads back as it was written (R89). -/
theorem readBar_writeBar {m : Memory} (off : Nat) (hm : Memory.wf m = true) (hl : b.low < 2 ^ 32) (hp : b.pend < 2 ^ 32) (hr : b.remain < 2 ^ 16)
    (he : b.expect < 2 ^ 16) (hh : b.phase < 2 ^ 32) : readBar (writeBar m off b) off = b := by
  obtain ⟨phase, expect, remain, pend, low⟩ := b
  dsimp only at *
  simp only [readBar, writeBar, read_write _ _ _ hm, fld, Bar.mk.injEq]
  refine ⟨?_, ?_, ?_, ?_, ?_⟩ <;> omega
end Bars
/-- A barrier object written leaves every byte outside its sixteen. -/
theorem get_writeBar_out (m : Memory) {off a : Nat} (b : Bar) (h : a < off ∨ off + 16 ≤ a) : Memory.get (writeBar m off b) a = Memory.get m a :=
  get_putBytes_out _ (by rw [length_bytesOf]; exact h)

/-- Settles O34: each clause is one fact about the object's value, or about its bytes written and read. -/
theorem barrierObjectChanges : Obligations.BarrierObjectChanges :=
  ⟨settle_eq, completed_iff, fun _ _ => rfl, fun _ c n h => apply_arrive_none c n h, fun _ c n h => apply_arrive_some c n h,
    fun m off b hm hl hp hr he hh => ⟨readBar_writeBar off hm hl hp hr he hh, fun _ ha => get_writeBar_out m b ha⟩⟩

/-! ### Address checks (R81-R83, R248) -/

theorem canonical_iff (a : Int) : canonical a = true ↔ (0 ≤ a ∧ a < 2 ^ 56) ∨ (2 ^ 64 - 2 ^ 56 ≤ a ∧ a < 2 ^ 64) := by
  simp only [canonical, Bool.or_eq_true, Bool.and_eq_true, decide_eq_true_eq]
theorem inShare_iff {t : Team} {sp : Space} {a : Int} {n : Nat} : inShare t sp a n = true ↔ 0 ≤ a ∧ a + n ≤ shareOf t sp := by
  simp [inShare]

section Checks
variable {s : State} {f : Nat → Int} {n : Nat} {sp : Space} {reads : Bool}
/-- The traps of one kind: those of the active lanes that a test picks. -/
theorem mem_laneTraps {k : TrapKind} {p : Nat → Bool} {t : TrapReq} :
    t ∈ (s.active.filter p).map (laneTrap k) ↔ ∃ L ∈ s.active, t = laneTrap k L ∧ p L = true := by
  simp only [List.mem_map, List.mem_filter, and_assoc, @eq_comm _ t, @and_comm (p _ = true)]
theorem mem_alignTraps {t : TrapReq} : t ∈ alignTraps s f n ↔ ∃ L ∈ s.active, t = laneTrap .misaligned L ∧ f L % n ≠ 0 := by
  simp only [alignTraps, mem_laneTraps, bne_iff_ne]
theorem mem_globalTraps {t : TrapReq} : t ∈ globalTraps s f n ↔
    ∃ L ∈ s.active, (t = laneTrap .misaligned L ∧ f L % n ≠ 0) ∨ (t = laneTrap .accessFault L ∧ canonical (f L) = false) := by
  simp only [globalTraps, List.mem_append, mem_alignTraps, mem_laneTraps, Bool.not_eq_true', ← exists_or, ← and_or_left]
/-- An Off bank is looked at by scratchpad reads alone. -/
theorem mem_deadTraps {t : TrapReq} :
    t ∈ (if reads && sp == .scratch then (s.active.filter fun L => inShare s.cur.team sp (f L) n && s.cur.team.sdead ((f L).toNat / Config.bankBytes)).map
        (laneTrap .deadRead) else []) ↔
      ∃ L ∈ s.active, t = laneTrap .deadRead L ∧ reads = true ∧ sp = .scratch ∧ 0 ≤ f L ∧ f L + n ≤ shareOf s.cur.team sp
        ∧ s.cur.team.sdead ((f L).toNat / Config.bankBytes) = true := by
  split
  next h =>
    obtain ⟨hr, hs⟩ : reads = true ∧ sp = .scratch := by simpa using h
    simp only [mem_laneTraps, Bool.and_eq_true, inShare_iff, hr, hs, true_and, and_assoc]
  next h =>
    refine iff_of_false (List.not_mem_nil) ?_
    rintro ⟨L, -, -, hr, hs, -⟩
    exact h (by simp [hr, hs])
theorem mem_localTraps {t : TrapReq} : t ∈ localTraps s sp f n reads ↔ ∃ L ∈ s.active, (t = laneTrap .misaligned L ∧ f L % n ≠ 0)
    ∨ (t = laneTrap .accessFault L ∧ ¬(0 ≤ f L ∧ f L + n ≤ shareOf s.cur.team sp))
    ∨ (t = laneTrap .deadRead L ∧ reads = true ∧ sp = .scratch ∧ 0 ≤ f L ∧ f L + n ≤ shareOf s.cur.team sp
      ∧ s.cur.team.sdead ((f L).toNat / Config.bankBytes) = true) := by
  simp only [localTraps, List.mem_append, mem_alignTraps, mem_deadTraps, mem_laneTraps, Bool.not_eq_true', ← Bool.not_eq_true, inShare_iff,
    ← exists_or, ← and_or_left, or_assoc]
theorem globalTraps_nil : globalTraps s f n = [] ↔ ∀ L ∈ s.active, f L % n = 0 ∧ canonical (f L) = true := by
  simp [globalTraps, alignTraps, forall₂_and]
theorem localTraps_nil : localTraps s sp f n reads = [] ↔ ∀ L ∈ s.active, f L % n = 0 ∧ 0 ≤ f L ∧ f L + n ≤ shareOf s.cur.team sp
    ∧ (reads = true → sp = .scratch → s.cur.team.sdead ((f L).toNat / Config.bankBytes) = false) := by
  simp only [List.eq_nil_iff_forall_not_mem, mem_localTraps]
  constructor
  · intro h L hL
    have hno := fun t ht => h t ⟨L, hL, ht⟩
    have hal : f L % n = 0 := by by_contra h0; exact hno _ (.inl ⟨rfl, h0⟩)
    have hin : 0 ≤ f L ∧ f L + n ≤ shareOf s.cur.team sp := by by_contra h0; exact hno _ (.inr (.inl ⟨rfl, h0⟩))
    refine ⟨hal, hin.1, hin.2, fun hr hs => ?_⟩
    rw [← Bool.not_eq_true]
    exact fun hd => hno _ (.inr (.inr ⟨rfl, hr, hs, hin.1, hin.2, hd⟩))
  · rintro h t ⟨L, hL, ⟨-, hal⟩ | ⟨-, hin⟩ | ⟨-, hr, hs, -, -, hd⟩⟩
    · exact hal (h L hL).1
    · exact hin ⟨(h L hL).2.1, (h L hL).2.2.1⟩
    · rw [(h L hL).2.2.2 hr hs] at hd
      exact Bool.false_ne_true hd
end Checks

/-- Settles O29: which lanes trap is read off the lists of traps, and the trap taken is that of `worstTrap_noWorse`. -/
theorem addressChecksOfAccesses : Obligations.AddressChecksOfAccesses := fun _ _ _ _ _ =>
  ⟨fun _ => mem_globalTraps, fun _ => mem_localTraps, fun t ts => ⟨worstTrap_mem t ts, worstTrap_noWorse t ts⟩, globalTraps_nil, localTraps_nil,
    canonical_iff⟩

end Sys2Proof.Proofs
end

section
/-! What the words of memory accesses put in flight at issue, and the new values of atomics (R82, R83, R245-R253). -/
namespace Sys2Proof.Proofs
open Sys2Proof Sys2Proof.Machine Sys2Proof.Laws

/-! ### Accesses by lanes (R247, R252) -/

/-- An operation in every active lane, at the address of the lane. -/
def inLanes (u : State) (f : Nat → Int) (o : Op) : Op := { o with active := u.activeMask, addr := keepLanes 0 u fun L => (f L).toNat }

section Lanes
variable {i : Instr} {s : State} (h : Ready i s) {n : Nat} {f : State → Nat → Int} (mk : State → Op)
include h
/-- A global access by lanes: in flight where no lane fails its check, else its trap alone. -/
theorem vectorAccess_global {reads : Bool} :
    (globalTraps (s.acting i) (f (s.acting i)) n = [] →
      vectorAccess i .global n reads f mk s = .next ((s.acting i).launchGlobal (inLanes (s.acting i) (f (s.acting i)) (mk (s.acting i)))))
    ∧ ∀ t ts, globalTraps (s.acting i) (f (s.acting i)) n = t :: ts → vectorAccess i .global n reads f mk s = .next (s.trapWord (worstTrap t ts)) := by
  refine ⟨fun hn => runWord_next h ?_, fun t ts ht => runWord_error h ?_⟩
  · simp only [if_pos, hn, check_nil, inLanes]
  · simp only [if_pos, ht, check_cons]
/-- A local access by lanes likewise. -/
theorem vectorAccess_local {sp : Space} (hsp : sp ≠ .global) (reads : Bool) :
    (localTraps (s.acting i) sp (f (s.acting i)) n reads = [] →
      vectorAccess i sp n reads f mk s = .next ((s.acting i).launchLocal (inLanes (s.acting i) (f (s.acting i)) (mk (s.acting i)))))
    ∧ ∀ t ts, localTraps (s.acting i) sp (f (s.acting i)) n reads = t :: ts → vectorAccess i sp n reads f mk s = .next (s.trapWord (worstTrap t ts)) := by
  refine ⟨fun hn => runWord_next h ?_, fun t ts ht => runWord_error h ?_⟩
  · simp only [if_neg hsp, hn, check_nil, inLanes]
  · simp only [if_neg hsp, ht, check_cons]
end Lanes

/-- The operation of a vector load. -/
def loadOp (sp : Space) (n : Nat) (signed : Bool) (d : VReg) (pair : Bool) : Op := { blankOp (.load sp n signed) with count := .loads, dest := .vec d pair }
/-- The operation of a vector store, with the data of its register or pair. -/
def storeOp (sp : Space) (n : Nat) (d : VReg) (w : Width) (u : State) : Op :=
  { blankOp (.store sp n) with count := .stores, x := keepLanes 0 u fun L => if w = .x64 then u.rP d L else (u.rV d L).zeroExtend 64 }

/-- Settles O28: each word is one access by lanes, of the operation of its load or store. -/
theorem vectorAccessesIssue : Obligations.VectorAccessesIssue := by
  intro s d b o w h wide hl n lanes data load global near store
  refine ⟨fun hr => vectorAccess_global (f := fun u => vecAddr u b o) ⟨hl, hr⟩ fun _ => loadOp .global n false d (w == .x64),
    fun hr => vectorAccess_global (f := fun u => vecAddr u b o) ⟨hl, hr⟩ fun _ => loadOp .global n true d (w == .x64),
    fun hr => vectorAccess_global (f := fun u => vecAddr u b o) ⟨hl, hr⟩ (storeOp .global n d w),
    fun hr => vectorAccess_local (f := fun u => vecAddr u b o) ⟨hl, hr⟩ (fun _ => loadOp .scratch n false d (w == .x64)) (by decide) _,
    fun hr => vectorAccess_local (f := fun u => vecAddr u b o) ⟨hl, hr⟩ (storeOp .scratch n d w) (by decide) _,
    fun hr => vectorAccess_local (f := fun u => vecAddr u b o) ⟨hl, hr⟩ (fun _ => loadOp .abuf n false d (w == .x64)) (by decide) _,
    fun hr => vectorAccess_local (f := fun u => vecAddr u b o) ⟨hl, hr⟩ (storeOp .abuf n d w) (by decide) _, fun hr => ?_⟩
  cases wide
  · exact vectorAccess_local (f := fun u => vecAddr u b o) ⟨hl, hr⟩ (fun _ => loadOp .xbuf 4 false d false) (by decide) _
  · exact vectorAccess_local (f := fun u => vecAddr u b o) ⟨hl, hr⟩ (fun _ => loadOp .xbuf 8 false d true) (by decide) _

/-! ### Scalar accesses (R249, R250, R253) -/

/-- An access once for the group, whatever lanes are active, at one address. -/
def onceAt (s : State) (x : Int) (o : Op) : Op := { o with active := 1, threads := s.lanes, addr := SMap.set 0 [] 0 x.toNat }

/-- A scalar access: in flight where its address passes, else Misaligned first, then AccessFault. -/
theorem scalarAccess_goes {i : Instr} {s : State} {n : Nat} {a : State → Int} {mk : State → Op} (hl : s.cur.live = true) (hr : (uses i).rv = [])
    (hw : (uses i).wv = []) :
    (a s % n = 0 → canonical (a s) = true → scalarAccess i n a mk s = .next (s.launchGlobal (onceAt s (a s) (mk s))))
    ∧ (a s % n ≠ 0 → scalarAccess i n a mk s = .next (s.trapWord (trapOf .misaligned)))
    ∧ (a s % n = 0 → canonical (a s) = false → scalarAccess i n a mk s = .next (s.trapWord (trapOf .accessFault))) := by
  unfold scalarAccess
  rw [runWord_bare hl hr hw]
  refine ⟨fun h0 hc => ?_, fun h0 => ?_, fun h0 hc => ?_⟩
  · rw [if_neg (not_not_intro h0), if_pos hc]
    rfl
  · rw [if_pos h0]
  · rw [if_neg (not_not_intro h0), if_neg (by simp [hc])]

/-- The operation of a scalar load; to s0 it is a touch. -/
def scalarLoadOp (d : SReg) (n : Nat) : Op :=
  if d = 0 then { blankOp .touch with count := .loads } else { blankOp (.load .global n false) with count := .loads, dest := .scal d }
/-- The operation of a scalar store. -/
def scalarStoreOp (d : SReg) (n : Nat) (s : State) : Op := { blankOp (.store .global n) with count := .stores, x := SMap.set 0 [] 0 (s.rS d) }
/-- The operation of satom (R253): the operands of a cas are d and b, of any other b alone. -/
def satomOp (p : AOp) (r : Ord) (d b : SReg) (s : State) : Op :=
  { blankOp (.atomic .global p true) with
    count := .loads, dest := .scal d, scope := .dev, acq := ordAcq r, rel := ordRel r
    x := SMap.set 0 [] 0 (if p.isCas then s.rS d else s.rS b), y := SMap.set 0 [] 0 (if p.isCas then s.rS b else 0) }

/-- Settles O30: each word is one scalar access; a load to s0 is a touch. -/
theorem scalarAccessesIssue : Obligations.ScalarAccessesIssue := by
  intro s d a b e p r hl one x y goes load store
  exact ⟨scalarAccess_goes (a := fun s => scalAddr s b e) (mk := fun _ => scalarLoadOp d 8) hl rfl rfl,
    scalarAccess_goes (a := fun s => scalAddr s b e) (mk := fun _ => scalarLoadOp d 4) hl rfl rfl,
    scalarAccess_goes (a := fun s => scalAddr s b e) (mk := scalarStoreOp d 8) hl rfl rfl,
    scalarAccess_goes (a := fun s => scalAddr s b e) (mk := scalarStoreOp d 4) hl rfl rfl,
    scalarAccess_goes (a := fun s => ((s.rS a).toNat : Int)) (mk := satomOp p r d b) hl rfl rfl⟩

/-! ### The new values of atomics (R251) -/

/-- The one of two words that an order keeps first, by the values that it compares. -/
theorem pick_eq {less : W32 → W32 → Bool} {a b : W32} {p : Prop} [Decidable p] (h : less b a = true ↔ ¬p) : pick less a b = if p then a else b := by
  unfold pick
  by_cases hp : p
  · rw [if_pos hp, if_neg fun hb => h.1 hb hp]
  · rw [if_neg hp, if_pos (h.2 hp)]

section Orders
variable (a b : W32)
theorem pick_slt : pick BitVec.slt a b = if a.toInt ≤ b.toInt then a else b := pick_eq (by rw [BitVec.slt_iff_toInt_lt, not_le])
theorem pick_sgt : pick (fun a b : W32 => b.slt a) a b = if b.toInt ≤ a.toInt then a else b := pick_eq (by rw [BitVec.slt_iff_toInt_lt, not_le])
theorem pick_ult : pick BitVec.ult a b = if a.toNat ≤ b.toNat then a else b := pick_eq (by rw [BitVec.ult_iff_toNat_lt, not_le])
theorem pick_ugt : pick (fun a b : W32 => b.ult a) a b = if b.toNat ≤ a.toNat then a else b := pick_eq (by rw [BitVec.ult_iff_toNat_lt, not_le])
end Orders
theorem ofNat_add_toNat {w : Nat} (a b : BitVec w) : BitVec.ofNat w (a.toNat + b.toNat) = a + b := by
  rw [BitVec.ofNat_add, BitVec.ofNat_toNat, BitVec.ofNat_toNat, BitVec.setWidth_eq, BitVec.setWidth_eq]

/-! ### Atomics by lanes (R252) -/

/-- The operation of a vector atomic, its operands by the table of R252. -/
def atomicOp (sp : Space) (d : VReg) (p : AOp) (sc : Scope) (r : Ord) (returns : Bool) (u : State) : Op :=
  { blankOp (.atomic sp p false) with
    count := if returns then .loads else .stores, dest := if returns then .vec d p.is64 else .none
    scope := sc, acq := returns && ordAcq r, rel := ordRel r
    x := keepLanes 0 u (atomX u d p), y := keepLanes 0 u (atomY u d p) }

/-- Settles O31: the new values are those of `aopNew`, the orders read as orders of the numbers, and each word is one access by lanes. -/
theorem vectorAtomicsAndTheirValues : Obligations.VectorAtomicsAndTheirValues := by
  refine ⟨fun x v nv => ?_, fun s d a p q sc r hl => ⟨fun hr => ?_, fun hr => ?_, fun hr => ?_⟩⟩
  · intro x3 v3 ext
    exact ⟨congrArg ext (ofNat_add_toNat x3 v3).symm, congrArg ext (pick_slt x3 v3), congrArg ext (pick_sgt x3 v3), congrArg ext (pick_ult x3 v3),
      congrArg ext (pick_ugt x3 v3), rfl, rfl, rfl, rfl, rfl, rfl, (ofNat_add_toNat x v).symm, rfl, rfl⟩
  · exact vectorAccess_global (f := fun u L => ((u.rP a L).toNat : Int)) ⟨hl, hr⟩ (atomicOp .global d p sc r true)
  · exact vectorAccess_global (f := fun u L => ((u.rP a L).toNat : Int)) ⟨hl, hr⟩ (atomicOp .global d q.op sc r false)
  · exact vectorAccess_local (f := fun u L => ((u.rV a L).toNat : Int)) ⟨hl, hr⟩ (atomicOp .scratch d p sc r true) (by decide) true

end Sys2Proof.Proofs
end

section
/-! The barrier words at issue: their checks and their effects (R90-R92, R134, R135, R255-R257, R262, R397). -/
namespace Sys2Proof.Proofs
open Sys2Proof Sys2Proof.Machine Sys2Proof.Laws

/-- What a word answers that acts, or takes its own trap in the state it issued in. -/
def answerOf (s : State) : Except TrapReq State → Out
  | .ok t => .next t
  | .error t => .next (s.trapWord t)
/-- A word without vector registers answers what its body does. -/
theorem runWord_answer {i : Instr} {s : State} {body : State → Except TrapReq State} (hl : s.cur.live = true) (hr : (uses i).rv = [])
    (hw : (uses i).wv = []) : runWord i s body = answerOf s (body s) := by
  rw [runWord_bare hl hr hw]
  cases body s <;> rfl

/-! ### The frame of a barrier word (R135, R255) -/

/-- The state after the older accesses of the group to the object that a scalar names. -/
def objectSettled (s : State) (b : SReg) : State := s.settled [((s.rS b).toNat, 16)]

/-- A barrier word takes the worst trap of its object, or does in the settled state `z` what is its own. -/
def BarGoes (s z : State) (b : SReg) (i : Instr) (valid : Bool) (r : Except TrapReq State) : Prop :=
  (objectTraps z (z.rS b).toNat valid = [] → exec i s = answerOf s r)
  ∧ ∀ t ts, objectTraps z (z.rS b).toNat valid = t :: ts → exec i s = .next (s.trapWord (worstTrap t ts))
theorem barGoes {i : Instr} {s z : State} {b : SReg} {valid : Bool} {f : State → Nat → Except TrapReq State} {r : Except TrapReq State}
    (he : exec i s = barrierWord i b valid f s) (hl : s.cur.live = true) (hr : (uses i).rv = []) (hw : (uses i).wv = []) (hz : z = objectSettled s b)
    (hf : f z (z.rS b).toNat = r) : BarGoes s z b i valid r := by
  subst hz hf
  have hb : barrierWord i b valid f s = answerOf s (match check (objectTraps (objectSettled s b) ((objectSettled s b).rS b).toNat valid) with
      | .error t => .error t
      | .ok _ => f (objectSettled s b) ((objectSettled s b).rS b).toNat) := runWord_answer hl hr hw
  refine ⟨fun h => ?_, fun t ts h => ?_⟩
  · rw [he, hb, h, check_nil]
  · rw [he, hb, h, check_cons]
    rfl

/-! ### A change of the object (R90, R133, R135, R256, R397) -/

section Change
variable {s : State} {off : Nat} {u : BarUpd} {rel : Bool} {sc : Scope}
/-- The operation of a barrier change of the word at hand. -/
def barOp (s : State) (off : Nat) (u : BarUpd) (rel : Bool) (sc : Scope) : Op :=
  { blankOp (.bar off u) with rel := rel, scope := sc, active := s.activeMask }
theorem barWord_buffered (h : s.cur.team.portable = true) : s.barWord off u rel sc =
    .ok ((s.launchOp { barOp s off u rel sc with buffered := true }).onGroup fun g => { g with effects := g.effects ++ [s.nextOp] }) := if_pos h
variable (hp : s.cur.team.portable = false)
include hp
/-- Outside portable mode a change is held, or applied at once. -/
theorem barWord_eq : s.barWord off u rel sc =
    if (rel && s.writesBefore s.cur.team.id s.cur.group.gid s.nextOp) || s.barBehind off u
    then .ok (s.launchOp { barOp s off u rel sc with held := true })
    else if (s.barApply s.cur.team.id off u).1 then .ok (s.barApply s.cur.team.id off u).2 else .error (trapOf .accessFault) := by
  refine (if_neg (by simp [hp])).trans ?_
  split
  · rfl
  · obtain ⟨b, t⟩ := s.barApply s.cur.team.id off u
    cases b <;> rfl
theorem barWord_held (h : (rel = true ∧ s.writesBefore s.cur.team.id s.cur.group.gid s.nextOp = true) ∨ s.barBehind off u = true) :
    s.barWord off u rel sc = .ok (s.launchOp { barOp s off u rel sc with held := true }) := by
  rw [barWord_eq hp, if_pos (by simpa using h)]
variable (h : ¬((rel = true ∧ s.writesBefore s.cur.team.id s.cur.group.gid s.nextOp = true) ∨ s.barBehind off u = true))
include h
theorem barWord_applied (ha : (s.barApply s.cur.team.id off u).1 = true) : s.barWord off u rel sc = .ok (s.barApply s.cur.team.id off u).2 := by
  rw [barWord_eq hp, if_neg (by simpa using h), if_pos ha]
theorem barWord_refused (ha : (s.barApply s.cur.team.id off u).1 = false) : s.barWord off u rel sc = .error (trapOf .accessFault) := by
  rw [barWord_eq hp, if_neg (by simpa using h), if_neg (by simp [ha])]
end Change

/-! ### The words that look at the object (R91, R134, R135, R262) -/

/-- What bar.test answers outside portable mode, where it has not to wait: the outcome in S[e], and an acquire where it asked for one and found
the phase complete. -/
def tested (z : State) (e : SReg) (won o : Bool) : State :=
  let told := z.wS e (if won then 1 else 0)
  if o = true ∧ won = true then told.onGroup fun g => { g with tested := told.g + 4 } else told
/-- A bar.test in portable mode: its answer is buffered to the commit. -/
def testBuffered (z : State) (off : Nat) (ph : W32) (e : SReg) : State :=
  ((z.launchOp { blankOp (.bar off (.test ph)) with buffered := true, dest := .scal e }).pend z.nextOp (destKeys (.scal e))).onGroup
    fun g => { g with effects := g.effects ++ [z.nextOp] }

/-- A buffered test is one operation more, an effect of the group, and writes no register yet. -/
theorem testBuffered_frame (z : State) (off : Nat) (ph : W32) (e : SReg) : (testBuffered z off ph e).ops.length = z.ops.length + 1
    ∧ (testBuffered z off ph e).cur.group.effects = z.cur.group.effects ++ [z.nextOp] ∧ (testBuffered z off ph e).cur.group.regs = z.cur.group.regs
    ∧ (testBuffered z off ph e).cur.trap = z.cur.trap :=
  ⟨by simp [testBuffered, State.launchOp, State.pend], rfl, rfl, rfl⟩

section Phase
variable {s z : State} {b e : SReg} {off : Nat} (hl : s.cur.live = true) (hz : z = objectSettled s b) (hoff : off = (z.rS b).toNat)
include hl hz hoff
theorem barPhase_asks (hb : z.barBehind off .phase = true) : BarGoes s z b (.barPhase b e) true (.ok (z.askBar off .phase false e)) := by
  subst hoff
  exact barGoes (by rw [exec_barPhase, execBarPhase]) hl rfl rfl hz (by exact congrArg Except.ok (if_pos hb))
theorem barPhase_answers (hb : z.barBehind off .phase = false) :
    BarGoes s z b (.barPhase b e) true (.ok (z.wS e (BitVec.ofNat 64 (z.barNow off).phase))) := by
  subst hoff
  exact barGoes (by rw [exec_barPhase, execBarPhase]) hl rfl rfl hz (by exact congrArg Except.ok (if_neg (by simp [hb])))
end Phase

section Test
variable {s z : State} {b e : SReg} {off : Nat} {ph : W32} {won : Bool} (hl : s.cur.live = true) (hz : z = objectSettled s b)
  (hoff : off = (z.rS b).toNat) (hph : ph = lo32 (z.rS e)) (hwon : won = (z.barNow off).completed ph) (p : Scope) (o : Bool)
include hl hz hoff hph
theorem barTest_buffered (hp : z.cur.team.portable = true) : BarGoes s z b (.barTest b e p o) true (.ok (testBuffered z off ph e)) := by
  subst hoff hph
  exact barGoes (by rw [exec_barTest, execBarTest]) hl rfl rfl hz (by exact if_pos hp)
variable (hp : z.cur.team.portable = false)
include hwon hp
/-- Behind a held arrival of its group that may still complete the phase, the test waits for its answer. -/
theorem barTest_asks (hb : z.barBehind off (.test ph) = true) (hw : won = false) :
    BarGoes s z b (.barTest b e p o) true (.ok (z.askBar off (.test ph) o e)) := by
  subst hoff hph hwon
  exact barGoes (by rw [exec_barTest, execBarTest]) hl rfl rfl hz (by exact (if_neg (by simp [hp])).trans (if_pos (by simp [hb, hw])))
theorem barTest_answers (hb : z.barBehind off (.test ph) = false ∨ won = true) :
    BarGoes s z b (.barTest b e p o) true (.ok (tested z e won o)) := by
  subst hoff hph hwon
  refine barGoes (by rw [exec_barTest, execBarTest]) hl rfl rfl hz ?_
  refine (if_neg (by simp [hp])).trans ((if_neg (by rcases hb with hb | hb <;> simp [hb])).trans ?_)
  cases o <;> cases (z.barNow (z.rS b).toNat).completed (lo32 (z.rS e)) <;> rfl
end Test

/-- Settles O33: each word is one change or look in the frame of its object's checks, and what a change does is `barWord` by its cases. -/
theorem barrierWordsIssue : Obligations.BarrierWordsIssue := by
  refine ⟨fun s b e p o hl => ?_, fun s off u rel sc => ⟨barWord_buffered, barWord_held, fun hp h => ⟨barWord_applied hp h, barWord_refused hp h⟩⟩⟩
  intro z off ph won word told
  have init : BarGoes s z b (.barInit b e) false (if 65535 < (z.rS e).toNat ∨ (z.bar off).armed = true then .error (trapOf .accessFault)
      else z.barWord off (.init (z.rS e).toNat) false .team) := by
    refine barGoes (by rw [exec_barInit, execBarInit]) hl rfl rfl rfl ?_
    simp only [Bool.or_eq_true, decide_eq_true_eq]
    rfl
  have expect : BarGoes s z b (.barExpect b e) true (z.barWord off (.expect ph) false .team) :=
    barGoes (by rw [exec_barExpect, execBarExpect]) hl rfl rfl rfl (by rfl)
  have arrive : BarGoes s z b (.barArrive b p o) true (z.barWord off (.arrive 0 none) o p) :=
    barGoes (by rw [exec_barArrive, execBarArrive]) hl rfl rfl rfl (by rfl)
  have arriveExp : BarGoes s z b (.barArriveExp b e p o) true (z.barWord off (.arrive ph none) o p) :=
    barGoes (by rw [exec_barArriveExp, execBarArriveExp]) hl rfl rfl rfl (by rfl)
  have wait : BarGoes s z b (.barWait b e p o) true (.ok (if z.cur.team.portable = false ∧ won = true then z else z.block (.barWait off ph o))) := by
    refine barGoes (by rw [exec_barWait, execBarWait]) hl rfl rfl rfl (congrArg Except.ok ?_)
    simp only [Bool.and_eq_true, Bool.not_eq_true']
    rfl
  refine ⟨init, expect, arrive, arriveExp, wait, fun hp hb => barTest_answers (z := z) hl rfl rfl rfl rfl p o hp hb,
    fun hp hb hw => barTest_asks (z := z) hl rfl rfl rfl rfl p o hp hb hw, fun hb => barPhase_answers (z := z) hl rfl rfl hb,
    fun hb => barPhase_asks (z := z) hl rfl rfl hb, fun hp hn => ?_⟩
  have goes : BarGoes s z b (.barTest b e p o) true (.ok (testBuffered z off ph e)) := barTest_buffered hl rfl rfl rfl p o hp
  exact ⟨_, goes.1 hn, testBuffered_frame z off ph e⟩

end Sys2Proof.Proofs
end

section
/-! The words gth, cp.circ, qfence, cb.wait and cb.free at issue (R93-R96, R263, R264, R266, R271, R274). -/
namespace Sys2Proof.Proofs
open Sys2Proof Sys2Proof.Machine Sys2Proof.Laws

/-! ### Checks as lists of traps -/

/-- A check is passed, or gives its trap: by any proposition that says when it fails. -/
theorem need_eq {ok : Bool} {k : TrapKind} {p : Prop} [Decidable p] (h : ok = true ↔ ¬p) : Machine.need ok k = if p then [trapOf k] else [] := by
  unfold Machine.need
  by_cases hp : p
  · rw [if_pos hp, if_neg fun hk => h.1 hk hp]
  · rw [if_neg hp, if_pos (h.2 hp)]
theorem mem_need {ok : Bool} {k : TrapKind} {u : TrapReq} : u ∈ Machine.need ok k ↔ ¬(ok = true) ∧ u = trapOf k := by
  unfold Machine.need
  split <;> simp_all

theorem inShare_nat {t : Team} {sp : Space} {a n : Nat} : inShare t sp a n = true ↔ a + n ≤ shareOf t sp := by
  rw [inShare_iff]
  omega

/-! ### A copy word: its checks, then its command (R263) -/

section Copies
variable {f : State → List TrapReq × Copy × Nat} {s : State} {c : Copy} {n : Nat}
theorem copyCommand_ok (h : f s = ([], c, n)) : copyCommand f s = .ok (s.queueCopy c n) := by
  rw [copyCommand, h]
  rfl
theorem copyCommand_error {t : TrapReq} {ts : List TrapReq} (h : (f s).1 = t :: ts) : copyCommand f s = .error (worstTrap t ts) := by
  rw [copyCommand, h, check_cons]
end Copies

/-! ### gth (R98, R99, R271) -/

/-- The upper bits of a 64-bit scalar. -/
theorem fld_63 (x : W64) (n : Nat) : fld x.toNat 63 n = x.toNat / 2 ^ n := by
  have h : x.toNat < 2 ^ n * 2 ^ (64 - n) := lt_of_lt_of_le x.isLt (by rw [← pow_add]; exact Nat.pow_le_pow_right (by decide) (by omega))
  exact Nat.mod_eq_of_lt (Nat.div_lt_of_lt_mul h)
/-- The lowest bits of a number. -/
theorem fld_0 (n hi : Nat) : fld n hi 0 = n % 2 ^ (hi + 1) := by
  rw [fld, pow_zero, Nat.div_one, Nat.sub_zero]
/-- One trap, where a check fails. -/
def trapIf (p : Prop) [Decidable p] (t : TrapReq) : List TrapReq := if p then [t] else []

section Gather
variable (s : State) (d : SReg) (q : Fin 6)
/-- The k-th of the scalars of a copy word. -/
def word4 (k : Nat) : Nat := (s.rS (d.val + k)).toNat
/-- The index width, the destination's space, and the row size that a gth's scalars give. -/
def gthIndex : Nat := if word4 s d 3 / 2 ^ 33 % 2 = 1 then 8 else 4
def gthSpace : Space := if word4 s d 3 / 2 ^ 32 % 2 = 1 then .abuf else .scratch
def gthSize : Nat := word4 s d 2 / 2 ^ 32 % 2 ^ 16
/-- The command of a gth. -/
def gthCommand : Copy :=
  { kind := 7, queue := q, src := word4 s d 1, dst := word4 s d 3 % 2 ^ 32, rows := word4 s d 2 / 2 ^ 48, rowSz := gthSize s d
    sstride := word4 s d 2 % 2 ^ 32, dstride := 0, bar := litBar s.cur.lit, idxW := gthIndex s d, idxAddr := word4 s d 0
    from_ := .global, to_ := gthSpace s d }
/-- The checks of a gth. -/
def gthTraps : List TrapReq :=
  litTraps s.cur.lit true ++ trapIf (word4 s d 3 / 2 ^ 34 ≠ 0) (illegal 3) ++ litBarTraps s
    ++ trapIf (word4 s d 2 / 2 ^ 48 = 0 ∨ ¬(4 ≤ gthSize s d ∧ gthSize s d ≤ 65532)
        ∨ shareOf s.cur.team (gthSpace s d) < word4 s d 3 % 2 ^ 32 + word4 s d 2 / 2 ^ 48 * gthSize s d) (trapOf .accessFault)
    ++ trapIf (word4 s d 0 % gthIndex s d ≠ 0 ∨ word4 s d 1 % 4 ≠ 0 ∨ word4 s d 2 % 2 ^ 32 % 4 ≠ 0 ∨ word4 s d 3 % 2 ^ 32 % 4 ≠ 0
        ∨ ((4 ≤ gthSize s d ∧ gthSize s d ≤ 65532) ∧ gthSize s d % 4 ≠ 0)) (trapOf .misaligned)
theorem exec_gth_eq : exec (.gth d q) s = copyWord (.gth d q) (fun s => (gthTraps s d, gthCommand s d q, 0)) s := by
  rw [exec_gth, execGth]
  refine congrArg (fun f => copyWord (.gth d q) f s) (funext fun u => Prod.ext (?_ : _ ++ _ = _) (congrArg (·, 0) ?_))
  · refine congrArg₂ _ (congrArg₂ _ (congrArg₂ _ (congrArg₂ _ rfl ?_) rfl) (need_eq ?_)) (need_eq ?_)
    · simp only [gthReserved, fld_63, trapIf, bne_iff_ne]
      rfl
    · simp only [Bool.and_eq_true, decide_eq_true_eq, inShare_nat, fld_63, fld_0]
      rw [not_or, not_or, not_not, Nat.not_lt, ← ne_eq, ← Nat.pos_iff_ne_zero]
      exact and_assoc
    · simp only [Bool.and_eq_true, Bool.or_eq_true, Bool.not_eq_true', decide_eq_false_iff_not, beq_iff_eq, fld_0, ne_eq, not_or,
        not_not, not_and_or, and_assoc, or_assoc]
      rfl
  · simp only [gthCommand, fld_63, fld_0]
    rfl
end Gather

/-! ### The checks of a circular buffer (R74, R93, R94) -/

/-- A descriptor that R93 and R94 accept. -/
def SoundCirc (t : Team) (c : Circ) : Prop :=
  c.low / 2 = 0 ∧ 2 ≤ c.nslot ∧ c.nslot ≤ 1024 ∧ 1 ≤ c.slotSz ∧ c.base % 16 = 0 ∧ c.base + c.nslot * c.slotBytes ≤ shareOf t c.space
    ∧ c.filled % 16 = 0 ∧ c.freed % 16 = 0 ∧ c.filled + 16 ≤ shareOf t .scratch ∧ c.freed + 16 ≤ shareOf t .scratch

theorem soundCirc_iff {t : Team} {c : Circ} : SoundCirc t c ↔
    (c.low / 2 == 0 && decide (2 ≤ c.nslot ∧ c.nslot ≤ 1024 ∧ 1 ≤ c.slotSz) && c.base % 16 == 0 && inShare t c.space c.base (c.nslot * c.slotBytes)
      && c.filled % 16 == 0 && c.freed % 16 == 0 && inShare t .scratch c.filled 16 && inShare t .scratch c.freed 16) = true := by
  simp only [SoundCirc, Bool.and_eq_true, beq_iff_eq, decide_eq_true_eq, inShare_nat, and_assoc]
/-- A barrier object of a descriptor is looked at where it is aligned and in the share. -/
theorem mem_objectsOf {y : State} {l : List Nat} {u : TrapReq} :
    u ∈ l.flatMap (fun (off : Nat) => if inShare y.cur.team .scratch off 16 && off % 16 == 0 then objectTraps y off true else []) ↔
      ∃ off ∈ l, off % 16 = 0 ∧ off + 16 ≤ shareOf y.cur.team .scratch ∧ u ∈ objectTraps y off true := by
  refine List.mem_flatMap.trans (exists_congr fun off => and_congr_right fun _ => ?_)
  have hob : (inShare y.cur.team .scratch off 16 && off % 16 == 0) = true ↔ off % 16 = 0 ∧ off + 16 ≤ shareOf y.cur.team .scratch := by
    rw [Bool.and_eq_true, beq_iff_eq, inShare_nat, and_comm]
  rw [← and_assoc, ← hob]
  split
  next h => exact (and_iff_right h).symm
  next h => exact iff_of_false List.not_mem_nil fun hc => h hc.1
theorem mem_circTraps {y : State} {a : Nat} {bars : Circ → List Nat} {u : TrapReq} : u ∈ circTraps y a bars ↔
    (a % 32 ≠ 0 ∧ u = trapOf .misaligned) ∨ (shareOf y.cur.team .scratch < a + 32 ∧ u = trapOf .accessFault)
      ∨ (a + 32 ≤ shareOf y.cur.team .scratch ∧ ((¬SoundCirc y.cur.team (y.circAt a) ∧ u = trapOf .accessFault)
        ∨ (touchesOff y.cur.team a 32 = true ∧ u = trapOf .deadRead)
        ∨ ∃ off ∈ bars (y.circAt a), off % 16 = 0 ∧ off + 16 ≤ shareOf y.cur.team .scratch ∧ u ∈ objectTraps y off true)) := by
  unfold circTraps
  rw [List.mem_append, mem_need, beq_iff_eq]
  refine or_congr Iff.rfl ?_
  by_cases hin : a + 32 ≤ shareOf y.cur.team .scratch
  · rw [if_pos (inShare_nat.2 hin), List.mem_append, List.mem_append, mem_need, mem_need, ← soundCirc_iff, mem_objectsOf]
    simp only [hin, Nat.not_lt.2 hin, false_and, false_or, true_and, Bool.not_eq_true', Bool.not_eq_false, or_assoc]
  · rw [if_neg (mt inShare_nat.1 hin)]
    simp only [hin, Nat.not_le.1 hin, true_and, false_and, or_false, List.mem_singleton]

/-! ### cp.circ (R95, R266) -/

section Fill
variable (z : State) (d : SReg) (q : Fin 6)
/-- The command of a cp.circ. -/
def circCommand : Copy :=
  { kind := 6, queue := q, src := word4 z d 0, dst := 0, rows := 1, rowSz := word4 z d 2 % 2 ^ 32, sstride := 0, dstride := 0
    circ := some (word4 z d 1), from_ := .global, to_ := .scratch }
/-- The checks of a cp.circ. -/
def fillTraps : List TrapReq :=
  trapIf (z.cur.lit ≠ 0 ∨ word4 z d 2 / 2 ^ 32 ≠ 0 ∨ word4 z d 3 ≠ 0) (illegal 3) ++ circTraps z (word4 z d 1) (fun d => [d.filled, d.freed])
    ++ trapIf (word4 z d 0 % 4 ≠ 0) (trapOf .misaligned)
    ++ trapIf (canonical (word4 z d 0 : Int) = false ∨ canonical ((word4 z d 0 + word4 z d 2 % 2 ^ 32 - 1 : Nat) : Int) = false) (trapOf .accessFault)
    ++ trapIf (word4 z d 2 % 2 ^ 32 = 0 ∨ (z.circAt (word4 z d 1)).slotBytes < word4 z d 2 % 2 ^ 32) (trapOf .accessFault)
theorem exec_cpCirc_eq (s : State) : exec (.cpCirc d q) s =
    runWord (.cpCirc d q) s fun s => copyCommand (fun z => (fillTraps z d, circCommand z d q, 0)) (s.circSettled (word4 s d 1)) := by
  rw [exec_cpCirc, execCpCirc]
  refine congrArg (fun f => runWord (.cpCirc d q) s fun s => copyCommand f (s.circSettled (word4 s d 1))) (funext fun z => Prod.ext ?_ (congrArg (·, 0) ?_))
  · refine congrArg₂ _ (congrArg₂ _ (congrArg₂ _ (congrArg₂ _ ?_ rfl) (need_eq ?_)) (need_eq ?_)) (need_eq ?_)
    · have h3 : z.rS (d.val + 3) ≠ 0 ↔ word4 z d 3 ≠ 0 := not_congr BitVec.toNat_inj.symm
      simp only [circReserved, fld_63, trapIf, Bool.or_eq_true, bne_iff_ne, h3]
      rfl
    · simp only [beq_iff_eq, not_not, ne_eq]
      rfl
    · simp only [Bool.and_eq_true, not_or, Bool.not_eq_false, fld_0]
      rfl
    · simp only [decide_eq_true_eq, not_or, Nat.not_lt, fld_0, ← ne_eq, ← Nat.pos_iff_ne_zero]
      rfl
  · simp only [circCommand, fld_0]
    rfl
variable {z d}
/-- A cp.circ that passes its checks gives its size in the lower half alone. -/
theorem circCommand_passed (h : fillTraps z d = []) : circCommand z d q = { circCommand z d q with rowSz := word4 z d 2 } := by
  simp only [fillTraps, trapIf, List.append_eq_nil_iff, ite_eq_right_iff, List.cons_ne_nil, imp_false, not_or, not_not, ne_eq] at h
  obtain ⟨⟨⟨⟨⟨-, hsize, -⟩, -⟩, -⟩, -⟩, -⟩ := h
  have hlow : word4 z d 2 % 2 ^ 32 = word4 z d 2 := by omega
  rw [circCommand, hlow]
end Fill

/-! ### The words -/

section Words
variable {s : State} (hl : s.cur.live = true)
include hl
/-- A mark of qfence stands among the group's marks, at the word's age. -/
theorem qfence_next (m : BitVec 8) : ∃ t, exec (.qfence m) s = .next t ∧ ((List.range 8).filter fun q => m.getLsbD q, s.nextOp) ∈ t.cur.group.marks
    ∧ t.cur.group.regs = s.cur.group.regs ∧ t.cur.group.splits = s.cur.group.splits ∧ t.mem = s.mem ∧ t.ops = s.ops :=
  ⟨_, (exec_qfence m s).trans (runPure_bare hl rfl rfl), List.mem_append_right _ (List.mem_singleton_self _), rfl, rfl, rfl, rfl⟩
theorem cbWait_next {d a : SReg} {z t : State} {cd : Nat} {k : W32} (hcd : cd = (s.rS a).toNat) (hz : z = s.circSettled cd)
    (hk : k = BitVec.ofNat 32 (z.circAt cd).next) (ht : t = z.wS d (BitVec.ofNat 64 k.toNat)) (h : (circTraps z cd fun d => [d.filled]) = []) :
    exec (.cbWait d a) s = .next (if t.cur.team.portable = false ∧ (t.barNow (z.circAt cd).filled).completed k = true then t
      else t.block (.barWait (z.circAt cd).filled k true)) := by
  subst hcd hz hk ht
  rw [exec_cbWait, execCbWait, runWord_bare hl rfl rfl]
  dsimp only
  rw [h, check_nil]
  simp only [Bool.and_eq_true, Bool.not_eq_true', BitVec.ofNat_toNat]
  rfl
theorem cbFree_next {a : SReg} {z : State} {cd : Nat} (hcd : cd = (s.rS a).toNat) (hz : z = s.circSettled cd)
    (h : (circTraps z cd fun d => [d.freed]) = []) : exec (.cbFree a) s = answerOf s (z.barWord (z.circAt cd).freed (.arrive 0 (some cd)) true .team) := by
  subst hcd hz
  rw [exec_cbFree, execCbFree, runWord_answer hl rfl rfl]
  dsimp only
  rw [h, check_nil]
end Words

/-- Settles O37: the checks of gth and cp.circ are lists in the order of the words, their command that of the scalars, and the other words act
in the state that the older accesses of the group have left. -/
theorem gatherAndCircularWordsIssue : Obligations.GatherAndCircularWordsIssue := by
  intro s d a q m hl w cd iw sp rows size one sized bad
  have gather : exec (.gth d q) s = answerOf s (copyCommand (fun s => (gthTraps s d, gthCommand s d q, 0)) s) :=
    (exec_gth_eq s d q).trans (runWord_answer hl rfl rfl)
  have fill : exec (.cpCirc d q) s = answerOf s (copyCommand (fun z => (fillTraps z d, circCommand z d q, 0)) (s.circSettled (word4 s d 1))) :=
    (exec_cpCirc_eq d q s).trans (runWord_answer hl rfl rfl)
  refine ⟨fun t ts h => ?_, fun h => ?_, ⟨fun h => ?_, fun t ts h => ?_⟩, fun _ _ _ _ => mem_circTraps, qfence_next hl m,
    ⟨cbWait_next hl rfl rfl rfl rfl, cbFree_next hl rfl rfl⟩, by decide⟩
  · rw [gather, copyCommand_error h]
    rfl
  · rw [gather, copyCommand_ok (Prod.ext h rfl)]
    rfl
  · rw [fill, copyCommand_ok (Prod.ext h (congrArg (·, 0) (circCommand_passed q h)))]
    rfl
  · rw [fill, copyCommand_error h]
    rfl

end Sys2Proof.Proofs
end

section
/-! The waits of a fill of a circular buffer (R91, R95), and two fills under one identifier. -/
namespace Sys2Proof.Proofs
open Sys2Proof Sys2Proof.Machine Sys2Proof.Laws

/-! ### A fill that has its slot (R95) -/

/-- The wait for a phase is over: it has completed in its object. -/
def gateMet (t : Team) (g : Option (Nat × Nat)) : Bool := g.all fun q => (readBar t.scratch q.1).completed (BitVec.ofNat 32 q.2)
/-- Every command of an identifier has its slot, and waits for the fill before its own. -/
def slotTaken (d : Circ) (id : Nat) (s : State) : State := s.mapCopy id fun c => { c with slotFree := true, gate := fillGate d c.fill }
theorem circSlotReady_next {s : State} {id : Nat} (h : s.ev = some (.circSlotReady id)) : exec .circSlotReady s = .next (s.circReadyNow id) :=
  runEvent_next h rfl
/-- A fill whose slot has come free, and whose predecessor is not complete, goes on to wait for that one. -/
theorem circReadyNow_takesSlot {s : State} {id cd : Nat} {o : Op} {c : Copy} {t : Team} (ho : s.findOp id = some o) (hk : o.kind = .copy c)
    (ht : s.getTeam o.team = some t) (hc : c.circ = some cd) (hw : o.awaitsSlot = true) (hg : gateMet t c.gate = true) (hf : c.slotFree = false)
    (hn : gateMet t (fillGate (readCirc t.scratch cd) c.fill) = false) : s.circReadyNow id = slotTaken (readCirc t.scratch cd) id s := by
  rw [State.circReadyNow, ho]
  dsimp only
  rw [hk, ht]
  dsimp only
  rw [hc]
  refine (if_neg ?_).trans ((if_neg (by simp [hf])).trans (if_neg ?_))
  · rw [Bool.or_eq_true, Bool.not_eq_true', Bool.not_eq_true', not_or, Bool.not_eq_false, Bool.not_eq_false]
    exact ⟨hw, hg⟩
  · rw [Bool.not_eq_true]
    exact hn

/-! ### Two fills under one identifier -/

/-- A fill of number `n` of the buffer whose descriptor is at 0. -/
def fillNo (n : Nat) : Copy :=
  { kind := 6, queue := 0, src := 0, dst := 0, rows := 1, rowSz := 16, sstride := 0, dstride := 0, circ := some 0, fill := n, to_ := .scratch }
/-- Its operation, which has started and waits for its slot. -/
def fillOp (n : Nat) : Op := { blankOp (.copy (fillNo n)) with started := true }
/-- Fills 1 and 0 of a buffer stand in flight under the identifier 0, and CIRC_SLOT_READY is at hand for it. -/
def sharedFills : State := { State.reset with ev := some (.circSlotReady 0), teams := [{}], ops := [fillOp 1, fillOp 0] }
/-- What the command of an operation waits for. -/
def gateOf (o : Op) : Option (Nat × Nat) :=
  match o.kind with
  | .copy c => c.gate
  | _ => none

/-- Refutes O44, in the clause of CIRC_SLOT_READY on a fill that waits for the one before it: the clause gives every operation of the identifier
the wait of the first one's fill, where the event gives each the wait of its own fill. The statement is about every state; in `sharedFills` two
operations share the identifier, and fill 0, which has no predecessor, waits for nothing. -/
theorem not_engineEventsAct : ¬Obligations.EngineEventsAct := by
  intro h
  obtain ⟨-, slotReady, -⟩ := h sharedFills
  obtain ⟨-, fill⟩ := slotReady 0 rfl
  obtain ⟨-, goes⟩ := fill (fillOp 1) (fillNo 1) {} 0 (readCirc [] 0) rfl rfl rfl rfl rfl
  obtain ⟨waits, -⟩ := goes rfl rfl _ (.inr ⟨rfl, rfl⟩)
  have claimed : exec .circSlotReady sharedFills = .next (sharedFills.mapCopy 0 fun c => { c with slotFree := true, gate := some (0, 0) }) :=
    waits rfl (by decide)
  have done : exec .circSlotReady sharedFills = .next (slotTaken (readCirc [] 0) 0 sharedFills) :=
    (circSlotReady_next rfl).trans (congrArg _ (circReadyNow_takesSlot (o := fillOp 1) (c := fillNo 1) (t := {}) rfl rfl rfl rfl rfl rfl rfl (by decide)))
  have gates := congrArg (fun u => u.ops.map gateOf) (Host.Outcome.next.inj (done.symm.trans claimed))
  exact absurd gates (by decide)

end Sys2Proof.Proofs
end

section
/-! Bit lengths, and one rounding of m × 2^e to a whole number of units 2^q (R115, R116). -/
namespace Sys2Proof.Proofs
open Sys2Proof Sys2Proof.Machine Sys2Proof.Laws

/-! ### Bit lengths -/

theorem bitLen_le_iff {m k : Nat} : bitLen m ≤ k ↔ m < 2 ^ k := by
  unfold bitLen
  split
  next h => simp [h]
  next h => rw [Nat.succ_le_iff, Nat.log2_lt h]
theorem lt_bitLen_iff {m k : Nat} : k < bitLen m ↔ 2 ^ k ≤ m := by rw [← not_le, bitLen_le_iff, not_lt]
theorem lt_two_pow_bitLen (m : Nat) : m < 2 ^ bitLen m := bitLen_le_iff.1 le_rfl
theorem bitLen_pos {m : Nat} (h : m ≠ 0) : 0 < bitLen m := lt_bitLen_iff.2 (Nat.pos_of_ne_zero h)
theorem two_pow_pred_bitLen_le {m : Nat} (h : m ≠ 0) : 2 ^ (bitLen m - 1) ≤ m := lt_bitLen_iff.1 (by have := bitLen_pos h; omega)
/-- The bit length is the one length whose powers of two enclose the number. -/
theorem bitLen_eq {m k : Nat} (hl : 2 ^ k ≤ m) (hu : m < 2 ^ (k + 1)) : bitLen m = k + 1 :=
  le_antisymm (bitLen_le_iff.2 hu) (lt_bitLen_iff.2 hl)
theorem bitLen_one : bitLen 1 = 1 := rfl
@[simp] theorem bitLen_two_pow (k : Nat) : bitLen (2 ^ k) = k + 1 := bitLen_eq le_rfl (Nat.pow_lt_pow_succ (by decide))
theorem bitLen_mul_two_pow {m : Nat} (h : m ≠ 0) (k : Nat) : bitLen (m * 2 ^ k) = bitLen m + k := by
  have hb := bitLen_pos h
  have hl := Nat.mul_le_mul_right (2 ^ k) (two_pow_pred_bitLen_le h)
  have hu := Nat.mul_lt_mul_of_pos_right (lt_two_pow_bitLen m) (Nat.two_pow_pos k)
  rw [← pow_add] at hl hu
  rw [bitLen_eq hl (hu.trans_eq (congrArg _ (by omega)))]
  omega

/-! ### Rounding to a unit -/

section Round
variable {mode : RMode} {neg s : Bool} {m : Nat} {e q : Int}

/-- A value that is a whole number of units stays. -/
theorem roundAt_add (k : Nat) : roundAt mode neg m (q + k) q s = m * 2 ^ k := by simp [roundAt]
theorem roundAt_self : roundAt mode neg m q q s = m := by simp [roundAt]
/-- A value of `sh` bits below the unit is cut, and one is added when the part cut off rounds up. -/
theorem roundAt_sub {sh : Nat} (h : 0 < sh) : roundAt mode neg m (q - sh) q s =
    if roundsUp mode neg (m / 2 ^ sh % 2 == 1) (m % 2 ^ sh) (2 ^ sh) s then m / 2 ^ sh + 1 else m / 2 ^ sh := by
  simp [roundAt, h.ne']
/-- An exact value is cut to the same form when it has no bit below the unit. -/
theorem roundAt_exact_sub (sh : Nat) : roundAt mode neg m (q - sh) q false =
    if roundsUp mode neg (m / 2 ^ sh % 2 == 1) (m % 2 ^ sh) (2 ^ sh) false then m / 2 ^ sh + 1 else m / 2 ^ sh := by
  rcases Nat.eq_zero_or_pos sh with rfl | h
  · cases mode <;> simp [roundAt, roundsUp, Nat.mod_one]
  · exact roundAt_sub h
theorem roundAt_sub_eq_or {sh : Nat} (h : 0 < sh) :
    roundAt mode neg m (q - sh) q s = m / 2 ^ sh ∨ roundAt mode neg m (q - sh) q s = m / 2 ^ sh + 1 := by
  rw [roundAt_sub h]
  split <;> simp

/-- An exponent is a whole number of places at or above the unit, or below it. -/
theorem exponent_cases (e q : Int) : (∃ k : Nat, e = q + k) ∨ ∃ sh : Nat, 0 < sh ∧ e = q - sh := by
  rcases le_or_gt q e with h | h
  · exact .inl ⟨(e - q).toNat, by omega⟩
  · exact .inr ⟨(q - e).toNat, by omega, by omega⟩
/-- A value below 2^(q+p) rounds to 2^p units at most. -/
theorem roundAt_le {p : Nat} (h : e + bitLen m ≤ q + p) : roundAt mode neg m e q s ≤ 2 ^ p := by
  obtain ⟨k, rfl⟩ | ⟨sh, hs, rfl⟩ := exponent_cases e q
  · rw [roundAt_add, ← Nat.add_sub_cancel' (show k ≤ p by omega), pow_add, mul_comm]
    exact Nat.mul_le_mul_left _ (bitLen_le_iff.1 (by omega)).le
  · have hc : m / 2 ^ sh < 2 ^ p := Nat.div_lt_of_lt_mul (by rw [← pow_add]; exact bitLen_le_iff.1 (by omega))
    rcases roundAt_sub_eq_or (mode := mode) (neg := neg) (s := s) (m := m) (q := q) hs with h | h <;> omega
/-- A value of 2^(q+p) and more rounds to 2^p units and more. -/
theorem le_roundAt {p : Nat} (hm : m ≠ 0) (h : q + p < e + bitLen m) : 2 ^ p ≤ roundAt mode neg m e q s := by
  obtain ⟨k, rfl⟩ | ⟨sh, hs, rfl⟩ := exponent_cases e q
  · rw [roundAt_add, ← lt_bitLen_iff, bitLen_mul_two_pow hm]
    omega
  · have hc : 2 ^ p ≤ m / 2 ^ sh := (Nat.le_div_iff_mul_le (Nat.two_pow_pos sh)).2 (by rw [← pow_add]; exact lt_bitLen_iff.1 (by omega))
    rcases roundAt_sub_eq_or (mode := mode) (neg := neg) (s := s) (m := m) (q := q) hs with h | h <;> omega
/-- Of a value below half the unit only its sign matters. -/
theorem roundAt_of_tiny (hm : m ≠ 0) (h : e + bitLen m < q) :
    roundAt mode neg m e q false = if roundsUp mode neg false 1 4 false then 1 else 0 := by
  obtain ⟨k, rfl⟩ | ⟨sh, hs, rfl⟩ := exponent_cases e q
  · omega
  have hp : (2 : Nat) ^ sh = 2 * 2 ^ (sh - 1) := by rw [← pow_succ', Nat.sub_add_cancel hs]
  have hl : m < 2 ^ (sh - 1) := bitLen_le_iff.1 (by omega)
  have hup : roundsUp mode neg false m (2 ^ sh) false = roundsUp mode neg false 1 4 false := by
    cases mode <;> simp [roundsUp, hm]
    omega
  have hm : m < 2 ^ sh := by omega
  rw [roundAt_sub hs, Nat.div_eq_of_lt hm, Nat.mod_eq_of_lt hm, ← hup]
  rfl
/-- So a value that far below the unit may stand for another of its sign. -/
theorem roundAt_eq_of_tiny {n : Nat} {f : Int} (hm : m ≠ 0) (he : e + bitLen m < q) (hn : n ≠ 0) (hf : f + bitLen n < q) :
    roundAt mode neg m e q false = roundAt mode neg n f q false := (roundAt_of_tiny hm he).trans (roundAt_of_tiny hn hf).symm
end Round

/-- The last place of a number of `mb` + 1 bits, or of the least place, is its own. -/
theorem lastPlace_self {mb m : Nat} {emin q : Int} (hu : m < 2 ^ (mb + 1)) (hq : emin - mb ≤ q) (hl : 2 ^ mb ≤ m ∨ q = emin - mb) :
    lastPlace mb emin m q = q := by
  have hb := bitLen_le_iff.2 hu
  unfold lastPlace
  rcases hl with hl | rfl
  · have := lt_bitLen_iff.2 hl
    omega
  · omega

end Sys2Proof.Proofs
end

section
/-! Each code of a format is the rounding, in every mode, of the value it stands for (R105, R106, R116). -/
namespace Sys2Proof.Proofs
open Sys2Proof Sys2Proof.Machine Sys2Proof.Laws

/-- The sign bit of a format, alone. -/
def signCode (f : Fp) (neg : Bool) : Nat := if neg then 2 ^ (f.eb + f.mb) else 0

theorem roundFin_zero (f : Fp) (mode : RMode) (neg s : Bool) (e : Int) : f.roundFin mode neg 0 e s = signCode f neg := by
  simp [Fp.roundFin, signCode]
theorem round_fin (f : Fp) (mode : RMode) (neg : Bool) (m : Nat) (e : Int) : f.round mode (.fin neg m e) = f.roundFin mode neg m e := rfl
theorem round_fin_zero (f : Fp) (mode : RMode) (neg : Bool) (e : Int) : f.round mode (.fin neg 0 e) = signCode f neg :=
  roundFin_zero f mode neg false e
/-- A signed number of units, rounded: a zero keeps its sign only. -/
theorem round_ofUnits (f : Fp) (mode : RMode) (v q : Int) (z : Bool) :
    f.round mode (ofUnits v q z) = f.round mode (.fin (if v = 0 then z else decide (v < 0)) v.natAbs q) := by
  unfold ofUnits
  split
  next h => simp only [h, Int.natAbs_zero, round_fin_zero]
  · rfl

/-- The code of `n` units 2^q after rounding (R116): a carry out of the fraction moves the place, and past the range stands an infinity
or the greatest magnitude. -/
def roundedCode (f : Fp) (mode : RMode) (neg : Bool) (n : Nat) (q : Int) : Nat :=
  let (n, q) := if n = 2 ^ (f.mb + 1) then (2 ^ f.mb, q + 1) else (n, q)
  if n < 2 ^ f.mb then signCode f neg + n
  else if q + f.mb + f.bias < f.top then signCode f neg + (q + f.mb + f.bias).toNat * 2 ^ f.mb + (n - 2 ^ f.mb)
  else if (mode == .rne || mode == .ru && !neg || mode == .rd && neg) then signCode f neg + f.top * 2 ^ f.mb
  else signCode f neg + f.top * 2 ^ f.mb - 1
/-- An exact value takes the code of its rounding to its last place. -/
theorem roundFin_eq_roundedCode (f : Fp) (mode : RMode) (neg : Bool) {m : Nat} {e : Int} (hm : m ≠ 0) :
    f.roundFin mode neg m e =
      roundedCode f mode neg (roundAt mode neg m e (lastPlace f.mb f.emin m e) false) (lastPlace f.mb f.emin m e) := by
  unfold Fp.roundFin roundedCode
  rw [if_neg hm]
  dsimp only
  generalize lastPlace f.mb f.emin m e = q
  by_cases hfar : e + bitLen m < q - 2
  · rw [if_pos hfar, roundAt_eq_of_tiny hm (by omega) one_ne_zero (f := q - 2) (by rw [bitLen_one]; omega)]
    cases mode <;> cases neg <;> rfl
  · rw [if_neg hfar]
    cases mode <;> cases neg <;> rfl

section Codes
variable {f : Fp} {mode : RMode} (neg : Bool) {n : Nat} {q : Int}
theorem roundedCode_low (h : n < 2 ^ f.mb) : roundedCode f mode neg n q = signCode f neg + n := by
  have hc : n ≠ 2 ^ (f.mb + 1) := by rw [pow_succ]; omega
  simp [roundedCode, hc, h]
theorem roundedCode_normal (hl : 2 ^ f.mb ≤ n) (hu : n < 2 ^ (f.mb + 1)) (htop : q + f.mb + f.bias < f.top) :
    roundedCode f mode neg n q = signCode f neg + (q + f.mb + f.bias).toNat * 2 ^ f.mb + (n - 2 ^ f.mb) := by
  simp [roundedCode, hu.ne, hl.not_gt, htop]
theorem roundedCode_high (hl : 2 ^ f.mb ≤ n) (hu : n < 2 ^ (f.mb + 1)) (htop : ¬q + f.mb + f.bias < f.top) :
    roundedCode f .rne neg n q = signCode f neg + f.top * 2 ^ f.mb := by
  simp [roundedCode, hu.ne, hl.not_gt, htop]
end Codes

/-- A number of units that the format holds at its last place is not rounded. -/
theorem roundFin_of_fits {f : Fp} {n : Nat} {q : Int} (mode : RMode) (neg : Bool) (hu : n < 2 ^ (f.mb + 1)) (hq : f.emin - f.mb ≤ q)
    (hl : 2 ^ f.mb ≤ n ∨ q = f.emin - f.mb) : f.roundFin mode neg n q = roundedCode f mode neg n q := by
  by_cases h0 : n = 0
  · rw [h0, roundFin_zero, roundedCode_low _ (Nat.two_pow_pos _), Nat.add_zero]
  · rw [roundFin_eq_roundedCode f mode neg h0, lastPlace_self hu hq hl, roundAt_self]

/-- A code is its sign, its exponent field and its fraction. -/
theorem code_split {f : Fp} {x : Nat} (hx : x < 2 ^ (f.eb + f.mb + 1)) :
    x = signCode f (decide (x / 2 ^ (f.eb + f.mb) % 2 = 1)) + x / 2 ^ f.mb % 2 ^ f.eb * 2 ^ f.mb + x % 2 ^ f.mb := by
  have hs : x / 2 ^ (f.eb + f.mb) < 2 := Nat.div_lt_of_lt_mul (by rwa [← pow_succ])
  have hd : x / 2 ^ f.mb / 2 ^ f.eb = x / 2 ^ (f.eb + f.mb) := by rw [Nat.div_div_eq_div_mul, ← pow_add, add_comm]
  have h1 := Nat.div_add_mod x (2 ^ f.mb)
  have h2 := Nat.div_add_mod (x / 2 ^ f.mb) (2 ^ f.eb)
  have hsign : signCode f (decide (x / 2 ^ (f.eb + f.mb) % 2 = 1)) = x / 2 ^ (f.eb + f.mb) * 2 ^ f.eb * 2 ^ f.mb := by
    rcases Nat.le_one_iff_eq_zero_or_eq_one.1 (Nat.lt_succ_iff.1 hs) with h | h <;> rw [h] <;> simp [signCode, pow_add]
  rw [hsign, ← hd, ← add_mul, mul_comm (x / _ / _), h2, mul_comm, h1]

/-- Every code but a NaN's is the rounding of its value, whatever the mode. -/
theorem round_value {f : Fp} (mode : RMode) {x : Nat} (hx : x < 2 ^ (f.eb + f.mb + 1)) (hn : (f.value x).isNaN = false) :
    f.round mode (f.value x) = x := by
  have hm : x % 2 ^ f.mb < 2 ^ f.mb := Nat.mod_lt _ (Nat.two_pow_pos _)
  have he : x / 2 ^ f.mb % 2 ^ f.eb < 2 ^ f.eb := Nat.mod_lt _ (Nat.two_pow_pos _)
  conv_rhs => rw [code_split hx]
  unfold Fp.value at hn ⊢
  dsimp only at hn ⊢
  generalize decide (x / 2 ^ (f.eb + f.mb) % 2 = 1) = neg at hn ⊢
  generalize x % 2 ^ f.mb = m at *
  generalize x / 2 ^ f.mb % 2 ^ f.eb = e at *
  by_cases htop : e = f.top
  · by_cases h0 : m = 0
    · simp [htop, h0, Fp.round, signCode]
    · simp [htop, h0, Val.isNaN] at hn
  have hlt : e < f.top := by unfold Fp.top at *; omega
  by_cases h0 : e = 0
  · rw [if_neg htop, if_pos h0, round_fin, roundFin_of_fits mode neg (by omega) le_rfl (.inr rfl), roundedCode_low neg hm]
    simp [h0]
  · have hq : f.emin - f.mb ≤ (e : Int) - f.bias - f.mb := by unfold Fp.emin; omega
    have hu : 2 ^ f.mb + m < 2 ^ (f.mb + 1) := by rw [pow_succ]; omega
    rw [if_neg htop, if_neg h0, round_fin, roundFin_of_fits mode neg hu hq (.inl (by omega)), roundedCode_normal neg (by omega) hu (by omega)]
    rw [show ((e : Int) - f.bias - f.mb + f.mb + f.bias).toNat = e by omega, Nat.add_sub_cancel_left]

/-- Every F32 pattern but a NaN is the rounding of its value. -/
theorem rnd32_val32 (mode : RMode) {x : W32} (h : (val32 x).isNaN = false) : rnd32 mode (val32 x) = x := by
  unfold rnd32 val32
  rw [round_value mode (x.isLt.trans_eq (by rfl)) h, BitVec.ofNat_toNat, BitVec.setWidth_eq]

/-- The F8M code of `n` units 2^q after rounding: 240 at most, and one zero (R119). -/
def f8mCode (neg : Bool) (n : Nat) (q : Int) : Nat :=
  let (n, q) := if n = 16 then (8, q + 1) else (n, q)
  let code := if n < 8 then n else if q + 11 < 16 then (q + 11).toNat * 8 + (n - 8) else 0x7F
  if code = 0 then 0 else code + f8mRound.bit neg
/-- An exact value takes the F8M code of its rounding to its last place. -/
theorem f8mRound_eq_f8mCode (mode : RMode) (neg : Bool) {m : Nat} {e : Int} (hm : m ≠ 0) :
    f8mRound mode (.fin neg m e) = f8mCode neg (roundAt mode neg m e (lastPlace 3 (-7) m e) false) (lastPlace 3 (-7) m e) := by
  unfold f8mRound f8mCode
  dsimp only
  rw [if_neg hm]
  generalize lastPlace 3 (-7) m e = q
  by_cases hfar : e + bitLen m < q - 2
  · rw [if_pos hfar, roundAt_eq_of_tiny hm (by omega) one_ne_zero (f := q - 2) (by rw [bitLen_one]; omega)]
  · rw [if_neg hfar]
/-- A number of units that F8M holds at its last place is not rounded. -/
theorem f8mRound_of_fits {n : Nat} {q : Int} (mode : RMode) (neg : Bool) (h0 : n ≠ 0) (hu : n < 16) (hq : -10 ≤ q) (hl : 8 ≤ n ∨ q = -10)
    (htop : q + 11 < 16) :
    f8mRound mode (.fin neg n q) = (if n < 8 then n else (q + 11).toNat * 8 + (n - 8)) + f8mRound.bit neg := by
  have hcode : (if n < 8 then n else (q + 11).toNat * 8 + (n - 8)) ≠ 0 := by split <;> omega
  rw [f8mRound_eq_f8mCode mode neg h0, lastPlace_self hu hq (by simpa using hl), roundAt_self]
  simp only [f8mCode, hu.ne, if_false, htop, if_true, hcode]

/-- Every F8M code but the NaN's is the rounding of its value. -/
theorem f8mRound_f8mValue (mode : RMode) {x : Nat} (hx : x < 256) (hn : x ≠ 128) : f8mRound mode (f8mValue x) = x := by
  have hbit : f8mRound.bit (decide (128 ≤ x)) + x % 128 = x := by
    by_cases h : 128 ≤ x <;> simp [f8mRound.bit, h] <;> omega
  unfold f8mValue
  simp only [Nat.mod_eq_of_lt hx, hn, if_false]
  by_cases he : x / 8 % 16 = 0
  · rw [if_pos he]
    by_cases hm : x % 8 = 0
    · have : x = 0 := by omega
      subst this
      rfl
    · rw [f8mRound_of_fits mode _ hm (by omega) (by decide) (.inr rfl) (by decide), if_pos (by omega)]
      omega
  · rw [if_neg he, f8mRound_of_fits mode _ (by omega) (by omega) (by omega) (.inl (by omega)) (by omega), if_neg (by omega)]
    omega

end Sys2Proof.Proofs
end

section
/-! The reductions of vfold and vscan (R122, R228, R229). -/
namespace Sys2Proof.Proofs
open Sys2Proof Sys2Proof.Machine Sys2Proof.Laws

/-! ### Sums, minima and maxima -/

theorem foldl_add_toNat (l : List W32) (a : W32) : (l.foldl (· + ·) a).toNat = (a.toNat + (l.map BitVec.toNat).sum) % 2 ^ 32 := by
  induction l generalizing a with
  | nil => simpa using (Nat.mod_eq_of_lt a.isLt).symm
  | cons x l ih =>
    rw [List.foldl_cons, ih, BitVec.toNat_add, List.map_cons, List.sum_cons, Nat.mod_add_mod, add_assoc]

section Pick
variable {less : W32 → W32 → Bool} {key : W32 → Int} (hless : ∀ a b, less a b = decide (key a < key b))
include hless

/-- A run of choices ends at its start or at a member, and at no greater key than any of them. -/
theorem foldl_pick_least (l : List W32) (a : W32) :
    (l.foldl (pick less) a = a ∨ l.foldl (pick less) a ∈ l) ∧ key (l.foldl (pick less) a) ≤ key a ∧ ∀ y ∈ l, key (l.foldl (pick less) a) ≤ key y := by
  induction l generalizing a with
  | nil => simp
  | cons x l ih =>
    obtain ⟨hmem, hstart, hall⟩ := ih (pick less a x)
    have hp : (pick less a x = a ∨ pick less a x = x) ∧ key (pick less a x) ≤ key a ∧ key (pick less a x) ≤ key x := by
      simp only [pick, hless, decide_eq_true_eq]
      split <;> simp <;> omega
    obtain ⟨hpick, ha, hx⟩ := hp
    rw [List.foldl_cons]
    refine ⟨?_, hstart.trans ha, List.forall_mem_cons.2 ⟨hstart.trans hx, hall⟩⟩
    rcases hmem with h | h
    · rw [h]
      exact hpick.imp_right (List.mem_cons.2 <| .inl ·)
    · exact .inr (List.mem_cons_of_mem _ h)

/-- Begun at the greatest key, a run of choices over some members ends at a member of the least key. -/
theorem foldl_pick_mem (hinj : Function.Injective key) {a : W32} (htop : ∀ x, key x ≤ key a) {l : List W32} (hl : l ≠ []) :
    l.foldl (pick less) a ∈ l ∧ ∀ y ∈ l, key (l.foldl (pick less) a) ≤ key y := by
  obtain ⟨hmem, -, hall⟩ := foldl_pick_least hless l a
  refine ⟨hmem.elim (fun h => ?_) id, hall⟩
  obtain ⟨y, hy⟩ := List.exists_mem_of_ne_nil l hl
  have hk := hall y hy
  rw [h] at hk ⊢
  exact hinj (le_antisymm hk (htop y)) ▸ hy
end Pick

theorem foldl_minS {l : List W32} (hl : l ≠ []) :
    l.foldl (pick BitVec.slt) 0x7FFFFFFF ∈ l ∧ ∀ y ∈ l, (l.foldl (pick BitVec.slt) 0x7FFFFFFF).toInt ≤ y.toInt :=
  foldl_pick_mem (key := BitVec.toInt) (fun _ _ => rfl) (fun _ _ => BitVec.eq_of_toInt_eq) (fun x => Int.le_of_lt_add_one (b := 2 ^ 31 - 1) x.toInt_lt) hl
theorem foldl_minZ {l : List W32} (hl : l ≠ []) :
    l.foldl (pick BitVec.ult) 0xFFFFFFFF ∈ l ∧ ∀ y ∈ l, (l.foldl (pick BitVec.ult) 0xFFFFFFFF).toNat ≤ y.toNat := by
  simpa using foldl_pick_mem (key := fun x => (x.toNat : Int)) (less := BitVec.ult) (fun _ _ => by simp [BitVec.ult])
    (fun _ _ h => BitVec.eq_of_toNat_eq (by simpa using h)) (a := 0xFFFFFFFF) (fun x => by have := x.isLt; simp; omega) hl
theorem foldl_maxS {l : List W32} (hl : l ≠ []) :
    l.foldl (pick fun a b => b.slt a) 0x80000000 ∈ l ∧ ∀ y ∈ l, y.toInt ≤ (l.foldl (pick fun a b => b.slt a) 0x80000000).toInt := by
  simpa using foldl_pick_mem (key := fun x => -x.toInt) (less := fun a b => b.slt a) (fun _ _ => by simp [BitVec.slt])
    (fun _ _ h => BitVec.eq_of_toInt_eq (by simpa using h)) (a := 0x80000000) (fun x => Int.neg_le_neg x.le_toInt) hl
theorem foldl_maxZ {l : List W32} (hl : l ≠ []) :
    l.foldl (pick fun a b => b.ult a) 0 ∈ l ∧ ∀ y ∈ l, y.toNat ≤ (l.foldl (pick fun a b => b.ult a) 0).toNat := by
  simpa using foldl_pick_mem (key := fun x => -(x.toNat : Int)) (less := fun a b => b.ult a) (fun _ _ => by simp [BitVec.ult])
    (fun _ _ h => BitVec.eq_of_toNat_eq (by simpa using h)) (a := 0) (fun x => by simp) hl

/-! ### Bitwise reductions -/

theorem foldl_and_getLsbD (l : List W32) (a : W32) (i : Nat) :
    (l.foldl (· &&& ·) a).getLsbD i = (a.getLsbD i && l.all fun x => x.getLsbD i) := by
  induction l generalizing a with
  | nil => simp
  | cons x l ih => simp [ih, Bool.and_assoc]
theorem foldl_or_getLsbD (l : List W32) (a : W32) (i : Nat) :
    (l.foldl (· ||| ·) a).getLsbD i = (a.getLsbD i || l.any fun x => x.getLsbD i) := by
  induction l generalizing a with
  | nil => simp
  | cons x l ih => simp [ih, Bool.or_assoc]
theorem foldl_xor_getLsbD (l : List W32) (a : W32) (i : Nat) :
    (l.foldl (· ^^^ ·) a).getLsbD i = (a.getLsbD i ^^ decide ((l.filter fun x => x.getLsbD i).length % 2 = 1)) := by
  induction l generalizing a with
  | nil => simp
  | cons x l ih =>
    rw [List.foldl_cons, ih, BitVec.getLsbD_xor, List.filter_cons, Bool.xor_assoc]
    cases x.getLsbD i
    · simp
    · have hodd (n : Nat) : (true ^^ decide (n % 2 = 1)) = decide ((n + 1) % 2 = 1) := by
        rcases Nat.mod_two_eq_zero_or_one n with h | h <;> simp [Nat.add_mod, h]
      simp [hodd]

theorem scanRun_getLsbD (l : List W32) {i : Nat} (hi : i < 32) :
    (scanRun .and l).getLsbD i = l.all (fun x => x.getLsbD i) ∧ (scanRun .or l).getLsbD i = l.any (fun x => x.getLsbD i)
      ∧ ((scanRun .xor l).getLsbD i = true ↔ (l.filter fun x => x.getLsbD i).length % 2 = 1) := by
  have hones : (0xFFFFFFFF : W32).getLsbD i = true := by
    rw [show (0xFFFFFFFF : W32) = BitVec.allOnes 32 from rfl, BitVec.getLsbD_allOnes]
    simpa
  refine ⟨?_, ?_, ?_⟩
  · rw [scanRun, foldl_and_getLsbD, hones, Bool.true_and]
  · rw [scanRun, foldl_or_getLsbD]; simp
  · rw [scanRun, foldl_xor_getLsbD]; simp
/-- The bitwise folds are those of vscan, zero-extended. -/
theorem foldRun_bitwise (l : List W32) : foldRun .and l = (scanRun .and l).zeroExtend 64 ∧ foldRun .or l = (scanRun .or l).zeroExtend 64
    ∧ foldRun .xor l = (scanRun .xor l).zeroExtend 64 := ⟨rfl, rfl, rfl⟩
theorem zeroExtend_getLsbD (x : W32) {i : Nat} (hi : i < 32) : (x.zeroExtend 64).getLsbD i = x.getLsbD i := by
  simp; omega
theorem zeroExtend_lt (x : W32) : (x.zeroExtend 64).toNat < 2 ^ 32 := by
  simpa using Nat.lt_of_le_of_lt (Nat.mod_le _ _) x.isLt

/-! ### The exact sum of F32 values (R122) -/

/-- The rule of R122 for a sum with a NaN, or with infinities of both signs. -/
def SumNaN (l : List W32) : Prop := (∃ x ∈ l, (val32 x).isNaN = true) ∨ ((∃ x ∈ l, val32 x = .inf false) ∧ ∃ x ∈ l, val32 x = .inf true)

theorem any_val32 (l : List W32) (v : Val) : (l.map val32).any (· == v) = true ↔ ∃ x ∈ l, val32 x = v := by simp
theorem sumNaN_iff (l : List W32) :
    ((l.map val32).any Val.isNaN || ((l.map val32).any (· == .inf false) && (l.map val32).any (· == .inf true))) = true ↔ SumNaN l := by
  rw [Bool.or_eq_true, Bool.and_eq_true, any_val32, any_val32]
  simp [SumNaN]

theorem chunkSum_nan {l : List W32} (h : SumNaN l) : chunkSum (l.map val32) = .nan := if_pos ((sumNaN_iff l).2 h)
theorem chunkSum_inf {l : List W32} (h : ¬SumNaN l) {n : Bool} (hx : ∃ x ∈ l, val32 x = .inf n) : chunkSum (l.map val32) = .inf n := by
  unfold chunkSum
  rw [if_neg (mt (sumNaN_iff l).1 h)]
  cases n with
  | false => rw [if_pos ((any_val32 l _).2 hx)]
  | true =>
    have hp : ¬∃ x ∈ l, val32 x = .inf false := fun hp => h (.inr ⟨hp, hx⟩)
    rw [if_neg (mt (any_val32 l _).1 hp), if_pos ((any_val32 l _).2 hx)]

/-- The least exponent of some values, and of `q`. -/
def leastExp (l : List Val) (q : Int) : Int := l.foldl (fun q x => match x with
  | .fin _ _ e => min q e
  | _ => q) q
/-- A value in units of 2^q; none for a value that is not finite. -/
def unitsOf (q : Int) : Val → Int
  | .fin n m e => units n m e q
  | _ => 0
theorem leastExp_le (l : List Val) (q : Int) : leastExp l q ≤ q ∧ ∀ n m e, Val.fin n m e ∈ l → leastExp l q ≤ e := by
  induction l generalizing q with
  | nil => simp [leastExp]
  | cons v l ih =>
    cases v with
    | fin n m e =>
      obtain ⟨hq, hl⟩ := ih (min q e)
      refine ⟨hq.trans (min_le_left ..), fun n' m' e' h => ?_⟩
      rcases List.mem_cons.1 h with h | h
      · cases h
        exact hq.trans (min_le_right ..)
      · exact hl _ _ _ h
    | _ => simpa [leastExp] using ih q
theorem foldl_units (q : Int) (l : List Val) (v : Int) :
    l.foldl (fun v x => match x with
      | .fin n m e => v + units n m e q
      | _ => v) v = v + (l.map (unitsOf q)).sum := by
  induction l generalizing v with
  | nil => simp
  | cons x l ih => cases x <;> simp [ih, unitsOf, add_assoc]

/-- A sum of finite values is the sum of their units of the least exponent; a zero sum is -0 only where all of them are. -/
theorem chunkSum_fin {l : List Val} (hl : l ≠ []) (h : ∀ x ∈ l, ∃ n m e, x = .fin n m e) :
    chunkSum l = ofUnits (l.map (unitsOf (leastExp l 0))).sum (leastExp l 0) (l.all fun x => x.isZero && x.neg?) := by
  have hnan : l.any Val.isNaN = false := List.any_eq_false.2 fun x hx => by
    obtain ⟨n, m, e, rfl⟩ := h x hx
    simp [Val.isNaN]
  have hinf (n : Bool) : l.any (· == .inf n) = false := List.any_eq_false.2 fun x hx => by
    obtain ⟨n, m, e, rfl⟩ := h x hx
    simp
  have hsum := foldl_units (leastExp l 0) l 0
  rw [zero_add] at hsum
  rw [← hsum]
  simp only [chunkSum, hnan, hinf, Bool.or_self, Bool.and_self, Bool.false_eq_true, if_false, List.isEmpty_eq_false_iff.2 hl, Bool.not_false,
    Bool.true_and]
  rfl

/-- The one pattern of value -0. -/
theorem negZero_iff {x : W32} (h : ∃ n m e, val32 x = .fin n m e) : ((val32 x).isZero && (val32 x).neg?) = (x == 0x80000000) := by
  rw [Bool.eq_iff_iff, beq_iff_eq]
  constructor
  · intro hz
    obtain ⟨n, m, e, hv⟩ := h
    have hr := rnd32_val32 .rne (x := x) (by rw [hv]; rfl)
    rw [hv] at hz hr
    simp only [Val.isZero, Val.neg?, Bool.and_eq_true, beq_iff_eq] at hz
    obtain ⟨rfl, rfl⟩ := hz
    rw [← hr, rnd32, round_fin_zero]
    rfl
  · rintro rfl
    decide

theorem foldRun_addF32 {l : List W32} (hl : l ≠ []) : foldRun .addF32 l = (rnd32 .rne (chunkSum (l.map val32))).zeroExtend 64 := by
  simp [foldRun, hl]

/-- The folds that give 32 bits zero-extend them. -/
theorem foldRun_lt (l : List W32) : ∀ o ∈ [FoldOp.and, .or, .xor, .minZ, .maxZ, .addF32], (foldRun o l).toNat < 2 ^ 32 := by
  simp only [List.forall_mem_cons, List.not_mem_nil, false_imp_iff, implies_true, and_true]
  refine ⟨zeroExtend_lt _, zeroExtend_lt _, zeroExtend_lt _, zeroExtend_lt _, zeroExtend_lt _, ?_⟩
  by_cases hl : l = []
  · simp [foldRun, hl]
  · rw [foldRun_addF32 hl]
    exact zeroExtend_lt _

/-- The F32 sum of finite values is one rounding of the exact sum, in units of their least exponent. -/
theorem foldRun_addF32_fin {l : List W32} (hl : l ≠ []) (h : ∀ x ∈ l, ∃ n m e, val32 x = .fin n m e) {q sum : Int}
    (hq : leastExp (l.map val32) 0 = q) (hs : (l.map fun x => unitsOf q (val32 x)).sum = sum) :
    foldRun .addF32 l =
      (rnd32 .rne (.fin (if sum = 0 then l.all (fun x => x == 0x80000000) else decide (sum < 0)) sum.natAbs q)).zeroExtend 64 := by
  have hz : (l.map val32).all (fun x => x.isZero && x.neg?) = l.all fun x => x == 0x80000000 := by
    rw [List.all_map, Bool.eq_iff_iff, List.all_eq_true, List.all_eq_true]
    exact forall₂_congr fun x hx => by rw [Function.comp_apply, negZero_iff (h x hx)]
  have hm : ((l.map val32).map (unitsOf q)).sum = sum := by rw [List.map_map]; exact hs
  have hv : ∀ x ∈ l.map val32, ∃ n m e, x = .fin n m e := by simpa using h
  rw [foldRun_addF32 hl, chunkSum_fin (by simpa using hl) hv, hq, hm, hz]
  unfold rnd32
  rw [round_ofUnits]

/-- Settles O13: each integer reduction is read off its fold, and the F32 sum off `chunkSum` by the three kinds of its operands. -/
theorem foldAndScanResults : Obligations.FoldAndScanResults := by
  refine ⟨fun s d a o hr => ?_, fun s d a x o hr => ?_, fun l => ⟨rfl, rfl, ?_⟩, fun l hl => ?_, fun l i hi => ?_, by decide,
    fun l i hi => scanRun_getLsbD l hi, fun l o ho => ?_, fun l hl => ⟨fun h => ?_, fun h n hx => ?_, fun h => ?_⟩, by decide⟩
  · rw [exec_vfold, execVfold, runPure_next hr, acting_bare rfl]
  · rw [exec_vscan, execVscan, runPure_next hr]
    have hup (L j : Nat) : (decide (j < L) || (!x && j == L)) = if x then decide (j < L) else decide (j ≤ L) := by
      cases x <;> simp [Nat.le_iff_lt_or_eq, Bool.beq_eq_decide_eq]
    simp only [hup]
    rfl
  · rw [scanRun, foldl_add_toNat]
    simp
  · exact ⟨⟨_, (foldl_minS hl).1, rfl, rfl, (foldl_minS hl).2⟩, ⟨_, (foldl_maxS hl).1, rfl, rfl, (foldl_maxS hl).2⟩,
      ⟨_, (foldl_minZ hl).1, rfl, rfl, (foldl_minZ hl).2⟩, ⟨_, (foldl_maxZ hl).1, rfl, rfl, (foldl_maxZ hl).2⟩⟩
  · obtain ⟨hand, hor, hxor⟩ := foldRun_bitwise l
    rw [hand, hor, hxor, zeroExtend_getLsbD _ hi, zeroExtend_getLsbD _ hi, zeroExtend_getLsbD _ hi]
    exact scanRun_getLsbD l hi
  · exact foldRun_lt l o ho
  · rw [foldRun_addF32 hl, chunkSum_nan h]
    rfl
  · rw [foldRun_addF32 hl, chunkSum_inf h hx]
    cases n <;> rfl
  · refine ⟨leastExp (l.map val32) 0, fun x hx n m e hv => (leastExp_le _ _).2 n m e (hv ▸ List.mem_map_of_mem hx), ?_⟩
    refine foldRun_addF32_fin hl h rfl (congrArg List.sum (List.map_congr_left fun x hx => ?_))
    obtain ⟨n, m, e, hv⟩ := h x hx
    cases n <;> simp [hv, unitsOf, units]

end Sys2Proof.Proofs
end

section
/-! Quotients, square roots, powers and logarithms of two, cut to more bits than are rounded (R118). -/
namespace Sys2Proof.Proofs
open Sys2Proof Sys2Proof.Machine Sys2Proof.Laws

/-! ### Whole square roots and quotients -/

theorem sqrtFrom_spec {n : Nat} : ∀ {i r : Nat}, r * r ≤ n → n < (r + 2 ^ (i + 1)) * (r + 2 ^ (i + 1)) →
    sqrtFrom n i r * sqrtFrom n i r ≤ n ∧ n < (sqrtFrom n i r + 1) * (sqrtFrom n i r + 1)
  | 0, r, hl, hu => by
    unfold sqrtFrom
    split
    next h => exact ⟨h, hu⟩
    next h => exact ⟨hl, not_le.1 h⟩
  | i + 1, r, hl, hu => by
    unfold sqrtFrom
    split
    next h => exact sqrtFrom_spec h (by rw [add_assoc, ← mul_two, ← pow_succ]; exact hu)
    next h => exact sqrtFrom_spec hl (not_le.1 h)
/-- The root found bit by bit is the whole square root. -/
theorem isqrt_eq_sqrt (n : Nat) : isqrt n = Nat.sqrt n := by
  refine Nat.eq_sqrt.2 (sqrtFrom_spec (Nat.zero_le _) ((lt_two_pow_bitLen n).trans_le ?_))
  rw [zero_add, ← pow_add]
  exact Nat.pow_le_pow_right (by decide) (by omega)
theorem isqrt_mul_le (n : Nat) : isqrt n * isqrt n ≤ n := isqrt_eq_sqrt n ▸ Nat.sqrt_le n
theorem lt_isqrt_succ (n : Nat) : n < (isqrt n + 1) * (isqrt n + 1) := isqrt_eq_sqrt n ▸ Nat.lt_succ_sqrt n
theorem le_isqrt {r n : Nat} (h : r * r ≤ n) : r ≤ isqrt n := isqrt_eq_sqrt n ▸ Nat.le_sqrt.2 h

theorem div_bounds {a n : Nat} (hn : 0 < n) : a / n * n ≤ a ∧ a < (a / n + 1) * n :=
  ⟨Nat.div_mul_le_self a n, by rw [add_mul, one_mul]; exact Nat.lt_div_mul_add hn⟩
theorem decide_mod_ne_zero (a n : Nat) : decide (a % n ≠ 0) = decide (a / n * n ≠ a) :=
  decide_eq_decide.2 (not_congr (Nat.dvd_iff_mod_eq_zero.symm.trans (Nat.dvd_iff_div_mul_eq ..)))

/-- A quotient scaled so that it has 64 bits and more. -/
theorem two_pow_le_div {m n k : Nat} (hm : m ≠ 0) (hn : 0 < n) {b : Nat} (h : b + bitLen n < bitLen m + k) : 2 ^ b ≤ m * 2 ^ k / n := by
  rw [Nat.le_div_iff_mul_le hn]
  calc 2 ^ b * n ≤ 2 ^ b * 2 ^ bitLen n := Nat.mul_le_mul_left _ (lt_two_pow_bitLen n).le
    _ = 2 ^ (b + bitLen n) := (pow_add ..).symm
    _ ≤ m * 2 ^ k := lt_bitLen_iff.1 (by rwa [bitLen_mul_two_pow hm])

/-- A quotient of finite values is rounded once, from 64 bits and more and a bit for the rest. -/
theorem div_fin (fp : Fp) (r : RMode) (a b : Bool) {m n : Nat} (e f : Int) (hm : 0 < m) (hn : 0 < n) :
    ∃ t k : Nat, t * n ≤ m * 2 ^ k ∧ m * 2 ^ k < (t + 1) * n ∧ 2 ^ 64 ≤ t
      ∧ fp.div r (.fin a m e) (.fin b n f) = fp.roundFin r (a != b) t (e - f - k) (decide (t * n ≠ m * 2 ^ k)) := by
  refine ⟨m * 2 ^ (128 + bitLen n - min (128 + bitLen n) (bitLen m)) / n, _, (div_bounds hn).1, (div_bounds hn).2,
    two_pow_le_div hm.ne' hn (by omega), ?_⟩
  simp only [Fp.div, hn.ne', if_false, decide_mod_ne_zero]

/-- The scale of a square root makes the exponent even and keeps `b` bits and more. -/
theorem evenScale_spec {m : Nat} (e : Int) (b : Nat) (hm : m ≠ 0) :
    ∃ (k : Nat) (q : Int), evenScale m e b = (m * 2 ^ k, 2 * q) ∧ e - k = 2 * q ∧ 2 ^ b ≤ m * 2 ^ k := by
  have hbits {k : Nat} (h : b < bitLen m + k) : 2 ^ b ≤ m * 2 ^ k := lt_bitLen_iff.1 (by rwa [bitLen_mul_two_pow hm])
  unfold evenScale
  dsimp only
  split
  · exact ⟨b + 1 - min b (bitLen m), (e - (b + 1 - min b (bitLen m) : Nat)) / 2, by congr 1; omega, by omega, hbits (by omega)⟩
  · exact ⟨b + 1 - min b (bitLen m) + 1, (e - (b + 1 - min b (bitLen m) + 1 : Nat)) / 2, by congr 1; omega, by omega, hbits (by omega)⟩
/-- A square root of a positive value is rounded once, from 64 bits and more and a bit for the rest. -/
theorem sqrt_fin (fp : Fp) {m : Nat} (e : Int) (hm : 0 < m) :
    ∃ (t k : Nat) (q : Int), e - k = 2 * q ∧ t * t ≤ m * 2 ^ k ∧ m * 2 ^ k < (t + 1) * (t + 1) ∧ 2 ^ 64 ≤ t
      ∧ fp.sqrt (.fin false m e) = fp.roundFin .rne false t q (decide (t * t ≠ m * 2 ^ k)) := by
  obtain ⟨k, q, hs, he, hb⟩ := evenScale_spec e 128 hm.ne'
  refine ⟨isqrt (m * 2 ^ k), k, q, he, isqrt_mul_le _, lt_isqrt_succ _, le_isqrt (hb.trans_eq' (by norm_num)), ?_⟩
  simp [Fp.sqrt, hm.ne', hs]

/-- The whole root of a whole quotient is the root of the quotient, cut. -/
theorem isqrt_div_bounds {a n : Nat} (hn : 0 < n) :
    isqrt (a / n) * isqrt (a / n) * n ≤ a ∧ a < (isqrt (a / n) + 1) * (isqrt (a / n) + 1) * n :=
  ⟨(Nat.mul_le_mul_right n (isqrt_mul_le _)).trans (div_bounds hn).1,
    (div_bounds hn).2.trans_le (Nat.mul_le_mul_right n (Nat.succ_le_of_lt (lt_isqrt_succ _)))⟩
/-- The root of the reciprocal of a number, scaled to 64 bits and more. -/
theorem two_pow_le_isqrt_div {n : Nat} (hn : 0 < n) : 2 ^ 64 ≤ isqrt (2 ^ (2 * (128 + bitLen n)) / n) := by
  have h := two_pow_le_div (m := 1) (k := 2 * (128 + bitLen n)) one_ne_zero hn (b := 128) (by rw [show bitLen 1 = 1 from rfl]; omega)
  rw [one_mul] at h
  exact le_isqrt (h.trans_eq' (by norm_num))
/-- A reciprocal square root of a positive value is rounded once, from 64 bits and more and a bit for the rest. -/
theorem rsqrt32_fin {m : Nat} (e : Int) (hm : 0 < m) :
    ∃ (t c : Nat) (q : Int), 2 * q + e = -c ∧ t * t * m ≤ 2 ^ c ∧ 2 ^ c < (t + 1) * (t + 1) * m ∧ 2 ^ 64 ≤ t
      ∧ rsqrt32 (.fin false m e) = fp32.roundFin .rne false t q (decide (t * t * m ≠ 2 ^ c)) := by
  rcases Int.emod_two_eq_zero_or_one e with he | he
  · obtain ⟨hl, hu⟩ := isqrt_div_bounds (a := 2 ^ (2 * (128 + bitLen m))) hm
    refine ⟨_, 2 * (128 + bitLen m), -(e / 2) - (128 + bitLen m : Nat), by omega, hl, hu, two_pow_le_isqrt_div hm, ?_⟩
    simp [rsqrt32, hm.ne', he]
  · have h2 : 0 < 2 * m := by omega
    obtain ⟨hl, hu⟩ := isqrt_div_bounds (a := 2 ^ (2 * (128 + bitLen (2 * m)))) h2
    have hb := two_pow_le_isqrt_div h2
    have hc : 2 ^ (2 * (128 + bitLen (2 * m))) = 2 * 2 ^ (2 * (128 + bitLen (2 * m)) - 1) := by
      rw [← pow_succ']
      exact congrArg _ (by omega)
    refine ⟨isqrt (2 ^ (2 * (128 + bitLen (2 * m))) / (2 * m)), 2 * (128 + bitLen (2 * m)) - 1, -((e - 1) / 2) - (128 + bitLen (2 * m) : Nat),
      by omega, ?_, ?_, hb, ?_⟩
    · rw [mul_left_comm] at hl
      exact Nat.le_of_mul_le_mul_left (hl.trans_eq hc) two_pos
    · rw [mul_left_comm] at hu
      exact Nat.lt_of_mul_lt_mul_left (hc.symm.trans_lt hu)
    · simp only [rsqrt32, hm.ne', if_false, he, one_ne_zero, Bool.false_eq_true]
      rw [hc, mul_left_comm (isqrt _ * isqrt _)]
      simp only [ne_eq, Nat.mul_left_cancel_iff two_pos]

/-! ### Whole powers and logarithms of two -/

theorem fp32_mb : fp32.mb = 23 := rfl
theorem fp32_bias : fp32.bias = 127 := rfl
theorem fp32_emin : fp32.emin = -126 := rfl
theorem fp32_top : fp32.top = 255 := rfl

/-- A power of two beyond the range of F32 rounds to infinity. -/
theorem round_two_pow_high {n : Int} (h : 128 ≤ n) : fp32.round .rne (.fin false 1 n) = 0x7F800000 := by
  have hq : lastPlace fp32.mb fp32.emin 1 n = n - 23 := by simp [lastPlace, bitLen_one, fp32_mb, fp32_emin]; omega
  have hr : roundAt .rne false 1 n (n - 23) false = 2 ^ fp32.mb := by simp [roundAt, fp32_mb]
  rw [round_fin, roundFin_eq_roundedCode _ _ _ one_ne_zero, hq, hr, roundedCode_high false le_rfl (Nat.pow_lt_pow_succ (by decide))]
  · rfl
  · simp only [fp32_mb, fp32_bias, fp32_top]
    omega
/-- A power of two below half the least F32 magnitude rounds to zero. -/
theorem round_two_pow_low {n : Int} (h : n ≤ -256) : fp32.round .rne (.fin false 1 n) = 0 := by
  have hq : lastPlace fp32.mb fp32.emin 1 n = -149 := by simp [lastPlace, bitLen_one, fp32_mb, fp32_emin]; omega
  rw [round_fin, roundFin_eq_roundedCode _ _ _ one_ne_zero, hq, roundAt_of_tiny one_ne_zero (by rw [bitLen_one]; omega)]
  rfl

/-- A number of units, by its sign and its magnitude. -/
theorem units_sign_natAbs (n : Int) (k : Nat) : units (decide (n < 0)) (n.natAbs * 2 ^ k) 0 0 = n * 2 ^ k := by
  have hs : (if n < 0 then -(n.natAbs : Int) else n.natAbs) = n := by split <;> omega
  conv_rhs => rw [← hs]
  by_cases h : n < 0 <;> simp [units, h]

/-- 2^x of a whole x. -/
theorem exp2F32_int (n : Int) (j : Nat) : exp2F32 (.fin (decide (n < 0)) (n.natAbs * 2 ^ j) (-j)) = fp32.round .rne (.fin false 1 n) := by
  by_cases h0 : n = 0
  · simp [h0, exp2F32]
  have ha : n.natAbs ≠ 0 := Int.natAbs_ne_zero.2 h0
  have hp := bitLen_pos ha
  have hm : n.natAbs * 2 ^ j ≠ 0 := Nat.mul_ne_zero ha (Nat.two_pow_pos j).ne'
  have hlen : -(j : Int) + bitLen (n.natAbs * 2 ^ j) = bitLen n.natAbs := by rw [bitLen_mul_two_pow ha]; omega
  have hlow : ¬(bitLen n.natAbs : Int) < -26 := by omega
  simp only [exp2F32, hm, if_false, hlen, hlow]
  split
  next hbig =>
    have hge : 2 ^ 8 ≤ n.natAbs := lt_bitLen_iff.1 (by exact_mod_cast hbig)
    by_cases hn : n < 0
    · rw [round_two_pow_low (by omega)]
      simp [hn]
    · rw [round_two_pow_high (by omega)]
      simp [hn]
      rfl
  · split
    next hj =>
      obtain rfl : j = 0 := by omega
      have hu : units (decide (n < 0)) (n.natAbs * 2 ^ 0) 0 0 = n := (units_sign_natAbs n 0).trans (mul_one n)
      exact congrArg (fun q => fp32.round .rne (.fin false 1 q)) hu
    · have hv : (if decide (n < 0) = true then -((n.natAbs * 2 ^ j : Nat) : Int) else (n.natAbs * 2 ^ j : Nat)) = n * 2 ^ j := by
        rw [← units_sign_natAbs]
        simp [units]
      have hj : (-(-(j : Int))).toNat = j := by omega
      have hpos : (2 : Int) ^ j ≠ 0 := pow_ne_zero _ two_ne_zero
      simp only [hv, hj, Int.mul_emod_left, Int.toNat_zero, if_true, Int.mul_ediv_cancel _ hpos]
/-- log2 of a power of two. -/
theorem log2F32_two_pow (k : Nat) (e : Int) : log2F32 (.fin false (2 ^ k) e) = fp32.round .rne (Val.ofInt (e + k)) := by
  simp [log2F32, Val.ofInt]

end Sys2Proof.Proofs
end

section
/-! F32 patterns in order of value, and the special cases of F32 arithmetic (R116, R117, R118, R238, R240). -/
namespace Sys2Proof.Proofs
open Sys2Proof Sys2Proof.Machine Sys2Proof.Laws

/-! ### The order of F32 patterns -/

/-- The magnitude of a finite F32 pattern without its sign bit, in units of 2^-149. -/
def magnitude (c : Nat) : Nat := if c / 2 ^ 23 = 0 then c else (2 ^ 23 + c % 2 ^ 23) * 2 ^ (c / 2 ^ 23 - 1)

/-- Magnitudes rise with the pattern: with the fraction, and where it carries into the exponent. -/
theorem magnitude_strictMono : StrictMono magnitude := by
  refine strictMono_nat_of_lt_succ fun c => ?_
  unfold magnitude
  by_cases hc : (c + 1) % 2 ^ 23 = 0
  · have hd : (c + 1) / 2 ^ 23 = c / 2 ^ 23 + 1 := by omega
    have hm : c % 2 ^ 23 = 2 ^ 23 - 1 := by omega
    rw [hd, hm, hc, if_neg (Nat.succ_ne_zero _), Nat.add_sub_cancel, Nat.add_zero]
    split
    next h => rw [h]; omega
    next h =>
      obtain ⟨e, he⟩ := Nat.exists_eq_succ_of_ne_zero h
      rw [he, Nat.succ_eq_add_one, Nat.add_sub_cancel, pow_succ]
      have := Nat.two_pow_pos e
      omega
  · have hd : (c + 1) / 2 ^ 23 = c / 2 ^ 23 := by omega
    have hm : (c + 1) % 2 ^ 23 = c % 2 ^ 23 + 1 := by omega
    rw [hd, hm]
    split
    · exact Nat.lt_succ_self c
    · exact Nat.mul_lt_mul_of_pos_right (by omega) (Nat.two_pow_pos _)
theorem magnitude_zero : magnitude 0 = 0 := rfl
theorem magnitude_eq_zero {c : Nat} : magnitude c = 0 ↔ c = 0 := magnitude_strictMono.injective.eq_iff' magnitude_zero

/-- What the value of an F32 pattern is, by its sign `s` and the bits `c` below it. -/
inductive F32Value (s : Bool) (c : Nat) : Val → Prop
  | nan (h : 0x7F800000 < c) : F32Value s c .nan
  | inf (h : c = 0x7F800000) : F32Value s c (.inf s)
  | fin (m : Nat) (e : Int) (h : c < 0x7F800000) (he : -149 ≤ e) (hm : m * 2 ^ (e + 149).toNat = magnitude c) : F32Value s c (.fin s m e)
theorem val32_eq (x : W32) : val32 x =
    if x.toNat / 2 ^ 23 % 2 ^ 8 = 255 then (if x.toNat % 2 ^ 23 = 0 then .inf (decide (x.toNat / 2 ^ 31 % 2 = 1)) else .nan)
    else if x.toNat / 2 ^ 23 % 2 ^ 8 = 0 then .fin (decide (x.toNat / 2 ^ 31 % 2 = 1)) (x.toNat % 2 ^ 23) (-149)
    else .fin (decide (x.toNat / 2 ^ 31 % 2 = 1)) (2 ^ 23 + x.toNat % 2 ^ 23) ((x.toNat / 2 ^ 23 % 2 ^ 8 : Nat) - 127 - 23) := rfl
theorem getLsbD_31 (x : W32) : x.getLsbD 31 = decide (x.toNat / 2 ^ 31 % 2 = 1) := Nat.testBit_eq_decide_div_mod_eq
theorem val32_value (x : W32) : F32Value (x.getLsbD 31) (x.toNat % 2 ^ 31) (val32 x) := by
  have hx := x.isLt
  rw [getLsbD_31, val32_eq]
  by_cases htop : x.toNat / 2 ^ 23 % 2 ^ 8 = 255
  · rw [if_pos htop]
    by_cases hm : x.toNat % 2 ^ 23 = 0
    · rw [if_pos hm]
      exact .inf (by omega)
    · rw [if_neg hm]
      exact .nan (by omega)
  rw [if_neg htop]
  by_cases he : x.toNat / 2 ^ 23 % 2 ^ 8 = 0
  · rw [if_pos he]
    refine .fin _ _ (by omega) (by decide) ?_
    rw [magnitude, if_pos (by omega)]
    simp
    omega
  · rw [if_neg he]
    refine .fin _ _ (by omega) (by omega) ?_
    rw [magnitude, if_neg (by omega)]
    congr 2
    · omega
    · omega

/-- A number of units in units of a lower place. -/
theorem units_scale (s : Bool) (m : Nat) {q r e : Int} (hq : q ≤ r) (hr : r ≤ e) : units s m e q = units s m e r * 2 ^ (r - q).toNat := by
  have : (e - q).toNat = (e - r).toNat + (r - q).toNat := by omega
  cases s <;> simp [units, this, pow_add, mul_assoc]
/-- Finite values compare alike in units of every place at or below both. -/
theorem units_lt_iff {a b : Bool} {m n : Nat} {e f q : Int} (he : q ≤ e) (hf : q ≤ f) :
    units a m e (min e f) < units b n f (min e f) ↔ units a m e q < units b n f q := by
  rw [units_scale a m (le_min he hf) (min_le_left ..), units_scale b n (le_min he hf) (min_le_right ..)]
  exact (mul_lt_mul_iff_left₀ (by positivity)).symm

/-- The place of a pattern in the order of R238: by sign, then by magnitude, -0 next below +0. -/
def floatKey (w : W32) : Int := if w.getLsbD 31 then -((w.toNat % 2 ^ 31 : Nat) : Int) - 1 else (w.toNat : Int)

/-- The same place, of a sign and the bits below it. -/
def signKey (s : Bool) (c : Nat) : Int := if s then -(c : Int) - 1 else c
theorem floatKey_eq (w : W32) : floatKey w = signKey (w.getLsbD 31) (w.toNat % 2 ^ 31) := by
  have hw := w.isLt
  unfold floatKey signKey
  rw [getLsbD_31]
  split
  · rfl
  next h =>
    rw [decide_eq_true_eq] at h
    omega

section Less
variable {a b : Bool} {c d : Nat}
/-- Finite values compare by sign and by magnitude, -0 as less than +0. -/
theorem less_fin {m n : Nat} {e f : Int} (he : -149 ≤ e) (hf : -149 ≤ f) (hm : m * 2 ^ (e + 149).toNat = magnitude c)
    (hn : n * 2 ^ (f + 149).toNat = magnitude d) : (Val.fin a m e).less true (.fin b n f) = decide (signKey a c < signKey b d) := by
  have zero {k p : Nat} {g : Int} (h : k * 2 ^ (g + 149).toNat = magnitude p) : k = 0 ↔ p = 0 := by
    rw [← magnitude_eq_zero (c := p), ← h]
    simp
  have hu : units a m e (-149) < units b n f (-149) ↔
      (if a then -(magnitude c : Int) else magnitude c) < if b then -(magnitude d : Int) else magnitude d := by
    simp only [units, sub_neg_eq_add, hm, hn]
  simp only [Val.less, zero hm, zero hn]
  split
  next h =>
    obtain ⟨rfl, rfl⟩ := h
    cases a <;> cases b <;> rfl
  next h =>
    have hlt : magnitude c < magnitude d ↔ c < d := magnitude_strictMono.lt_iff_lt
    have hgt : magnitude d < magnitude c ↔ d < c := magnitude_strictMono.lt_iff_lt
    have h0 : ¬(magnitude c = 0 ∧ magnitude d = 0) := by rwa [magnitude_eq_zero, magnitude_eq_zero]
    rw [decide_eq_decide, units_lt_iff he hf, hu]
    cases a <;> cases b <;> simp [signKey] <;> omega
/-- So do infinities, whose pattern is above every finite one. -/
theorem F32Value.less {u v : Val} (hu : F32Value a c u) (hv : F32Value b d v) (nu : u.isNaN = false) (nv : v.isNaN = false) :
    u.less true v = decide (signKey a c < signKey b d) := by
  cases hu with
  | nan => cases nu
  | inf hc =>
    cases hv with
    | nan => cases nv
    | inf hd => subst hc hd; cases a <;> cases b <;> rfl
    | fin n f hd => cases a <;> cases b <;> simp [Val.less, signKey] <;> omega
  | fin m e hc he hm =>
    cases hv with
    | nan => cases nv
    | inf hd => cases a <;> cases b <;> simp [Val.less, signKey] <;> omega
    | fin n f hd hf hn => exact less_fin he hf hm hn
end Less

/-- Patterns that are no NaN compare by their keys. -/
theorem less_val32 {x y : W32} (hx : (val32 x).isNaN = false) (hy : (val32 y).isNaN = false) :
    (val32 x).less true (val32 y) = decide (floatKey x < floatKey y) := by
  rw [floatKey_eq, floatKey_eq]
  exact (val32_value x).less (val32_value y) hx hy

/-! ### Minima and maxima -/

theorem minMax32_nan {x y : W32} (big : Bool) (h : (val32 x).isNaN = true ∨ (val32 y).isNaN = true) : minMax32 big x y = 0x7FC00000 := by
  simp [minMax32, h]
theorem minMax32_ordered {x y : W32} (hx : (val32 x).isNaN = false) (hy : (val32 y).isNaN = false) :
    minMax32 false x y = (if floatKey x ≤ floatKey y then x else y) ∧ minMax32 true x y = (if floatKey y ≤ floatKey x then x else y) := by
  simp only [minMax32, hx, hy, Bool.or_self, Bool.false_eq_true, if_false, if_true, less_val32 hx hy, less_val32 hy hx, decide_eq_true_eq,
    ← not_lt, ite_not, and_self]

/-! ### Special cases -/

theorem isNaN_iff {v : Val} : v.isNaN = true ↔ v = .nan := by cases v <;> simp [Val.isNaN]
/-- A NaN compares false but under ne and uno (R240). -/
theorem fcmpHolds_nan (p : FCmp) (y : Val) : fcmpHolds p .nan y = (p == .ne || p == .uno) := by
  cases p <;> cases y <;> rfl
/-- A NaN rounds to the canonical NaN, every other pattern's value to the pattern. -/
theorem rnd32_val32_eq (m : RMode) (x : W32) : rnd32 m (val32 x) = if (val32 x).isNaN then 0x7FC00000 else x := by
  split
  next h => rw [isNaN_iff.1 h]; rfl
  next h => exact rnd32_val32 m (by simpa using h)

/-- The sums and products that have no value, and those of a NaN (R116). -/
theorem noValue (m : RMode) (a b : Bool) (e : Int) (v : Val) :
    Val.add m (.inf a) (.inf !a) = .nan ∧ Val.mul (.inf a) (.fin b 0 e) = .nan ∧ Val.mul (.fin b 0 e) (.inf a) = .nan
      ∧ Val.add m .nan v = .nan ∧ Val.add m v .nan = .nan ∧ Val.mul .nan v = .nan ∧ Val.mul v .nan = .nan :=
  ⟨by cases a <;> rfl, rfl, rfl, rfl, by cases v <;> rfl, rfl, by cases v <;> rfl⟩
/-- A finite value other than zero over zero is an infinity of the sign of the quotient (R116). -/
theorem div_zero (m : RMode) (a b : Bool) (k : Nat) (e f : Int) :
    fp32.div m (.fin a (k + 1) e) (.fin b 0 f) = if a = b then 0x7F800000 else 0xFF800000 := by
  cases a <;> cases b <;> rfl
/-- With exactly one NaN the n forms give the other operand; else they are the plain ones (R238). -/
theorem minMaxN32_cases (big : Bool) (x y : W32) :
    let n := (val32 x).isNaN
    let o := (val32 y).isNaN
    (n = true → o = false → minMaxN32 big x y = y) ∧ (n = false → o = true → minMaxN32 big x y = x)
      ∧ (n = true → o = true → minMaxN32 big x y = 0x7FC00000) ∧ (n = false → o = false → minMaxN32 big x y = minMax32 big x y) := by
  refine ⟨fun hn ho => ?_, fun hn ho => ?_, fun hn ho => ?_, fun hn ho => ?_⟩
  · simp [minMaxN32, hn, ho]
  · simp [minMaxN32, hn, ho]
  · simpa [minMaxN32, hn, ho] using minMax32_nan big (.inl hn)
  · simp [minMaxN32, hn, ho]

/-- Settles O17: the special cases are read off the definitions by the kinds of the operands, the order of R238 is that of the keys, and the
quotients, roots, powers and logarithms are those of R118. -/
theorem floatSpecialCases : Obligations.FloatSpecialCases := by
  refine ⟨fun m a b k e f x y v => ?_, fun n k e => ?_, fun fp r a b m n e f hm hn => ?_, fun n j k e => ⟨exp2F32_int n j, log2F32_two_pow k e⟩⟩
  · obtain ⟨h1, h2, h3, h4, h5, h6, h7⟩ := noValue m a b e v
    refine ⟨h1, h2, h3, h4, h5, h6, h7, rfl, div_zero m a b k e f, rfl, rfl, fun hv p => ?_,
      ⟨minMax32_nan a, minMax32_ordered, minMaxN32_cases a x y⟩, rnd32_val32_eq m x⟩
    rw [isNaN_iff.1 hv, fcmpHolds_nan]
  · -- The table of R118: each entry is the branch of its operand; the values at 1 are computed.
    cases n <;> exact ⟨rfl, rfl, rfl, rfl, rfl, rfl, rfl, rfl, rfl, rfl, rfl, rfl, rfl, rfl, rfl, rfl, rfl, rfl, rfl, rfl, rfl, rfl, rfl, rfl,
      rfl, rfl, rfl, by decide +kernel⟩
  · exact ⟨div_fin fp r a b e f hm hn, sqrt_fin fp e hm, rsqrt32_fin e hm, rfl⟩

end Sys2Proof.Proofs
end

section
/-! Conversions between number types (R106, R119, R241). -/
namespace Sys2Proof.Proofs
open Sys2Proof Sys2Proof.Machine Sys2Proof.Laws

/-! ### Source fields -/

/-- A two's complement field is the signed value of its bits. -/
theorem signedOf_eq_toInt {w : Nat} (hw : 0 < w) (x : Nat) : signedOf w x = (BitVec.ofNat w x).toInt := by
  obtain ⟨v, rfl⟩ := Nat.exists_eq_succ_of_ne_zero hw.ne'
  have hp : 2 ^ (v + 1) = 2 * 2 ^ v := pow_succ' 2 v
  rw [BitVec.toInt_eq_toNat_cond, BitVec.toNat_ofNat, signedOf, Nat.succ_eq_add_one, Nat.add_sub_cancel]
  split <;> split <;> omega
theorem signedOf_truncate {w : Nat} (hw : 0 < w) (x : W64) : signedOf w x.toNat = (x.truncate w).toInt := by
  rw [signedOf_eq_toInt hw, BitVec.ofNat_toNat]

/-! ### Rounding to an integer -/

section Integers
variable (mode : RMode) (neg : Bool) (m : Nat)

/-- A magnitude with its sign. -/
def signed (neg : Bool) (n : Nat) : Int := if neg then -(n : Int) else n

/-- An exact value is rounded to a whole number of units 2^0. -/
theorem roundInt_eq (e : Int) : roundInt mode neg m e = signed neg (roundAt mode neg m e 0 false) := by
  unfold roundInt signed
  by_cases h : e + bitLen m < -2 ∧ m ≠ 0
  · rw [if_pos h, roundAt_eq_of_tiny h.2 (by omega) one_ne_zero (f := -3) (by rw [bitLen_one]; decide)]
  · rw [if_neg h]
theorem roundInt_whole (j : Nat) : roundInt mode neg m j = signed neg m * 2 ^ j := by
  have h := roundAt_add (mode := mode) (neg := neg) (s := false) (m := m) (q := 0) j
  rw [zero_add] at h
  rw [roundInt_eq, h]
  cases neg <;> simp [signed]
/-- A value with `j` bits below the point is cut, and one is added when the part cut off rounds up. -/
theorem roundInt_sub (j : Nat) : roundInt mode neg m (-j) =
    signed neg (if roundsUp mode neg (m / 2 ^ j % 2 == 1) (m % 2 ^ j) (2 ^ j) false then m / 2 ^ j + 1 else m / 2 ^ j) := by
  rw [roundInt_eq, ← roundAt_exact_sub (q := 0), zero_sub]
theorem roundInt_rz (j : Nat) : roundInt .rz neg m (-j) = (signed neg m).tdiv (2 ^ j) := by
  rw [roundInt_sub]
  cases neg <;> simp [signed, roundsUp, Int.neg_tdiv]
theorem roundInt_rd (j : Nat) : roundInt .rd neg m (-j) = signed neg m / 2 ^ j := by
  rw [roundInt_sub]
  cases neg with
  | false => simp [signed, roundsUp]
  | true =>
    have hd : (2 : Int) ^ j ∣ m ↔ m % 2 ^ j = 0 := by rw [← Nat.dvd_iff_mod_eq_zero]; exact_mod_cast Int.natCast_dvd_natCast
    have hs : ((2 : Int) ^ j).sign = 1 := Int.sign_eq_one_of_pos (by positivity)
    by_cases h : m % 2 ^ j = 0
    · simp [signed, roundsUp, Int.neg_ediv, hd, h]
    · simp [signed, roundsUp, Int.neg_ediv, hd, h, hs]
      omega
/-- Rounding up is rounding down on the other side of zero. -/
theorem roundInt_ru (j : Nat) : roundInt .ru neg m (-j) = -(-signed neg m / 2 ^ j) := by
  have hn : -signed neg m = signed (!neg) m := by cases neg <;> simp [signed]
  rw [hn, ← roundInt_rd, roundInt_sub, roundInt_sub]
  cases neg <;> simp [signed, roundsUp]
theorem natAbs_signed_sub (n u : Nat) : (signed neg n * u - signed neg m).natAbs = ((n * u : Nat) - (m : Int)).natAbs := by
  cases neg
  · simp [signed]
  · rw [← Int.natAbs_neg]
    simp [signed, neg_add_eq_sub]
theorem signed_even {n : Nat} (h : n % 2 = 0) : signed neg n % 2 = 0 := by unfold signed; split <;> omega
/-- Rounding to nearest is off by half a unit at most, and there it is even. -/
theorem roundInt_rne (j : Nat) : 2 * (roundInt .rne neg m (-j) * 2 ^ j - signed neg m).natAbs ≤ 2 ^ j
    ∧ (2 * (roundInt .rne neg m (-j) * 2 ^ j - signed neg m).natAbs = 2 ^ j → roundInt .rne neg m (-j) % 2 = 0) := by
  have hm := Nat.div_add_mod m (2 ^ j)
  have hr := Nat.mod_lt m (Nat.two_pow_pos j)
  have hu : ((2 : Int) ^ j) = ((2 ^ j : Nat) : Int) := by push_cast; rfl
  rw [roundInt_sub, hu, natAbs_signed_sub]
  generalize 2 ^ j = u at *
  generalize m / u = c at *
  generalize m % u = r at *
  rw [mul_comm] at hm
  by_cases hup : roundsUp .rne neg (c % 2 == 1) r u false = true
  · have hup' := hup
    simp only [roundsUp, Bool.or_eq_true, Bool.and_eq_true, decide_eq_true_eq, Bool.false_or, beq_iff_eq] at hup'
    rw [if_pos hup, add_mul, one_mul]
    exact ⟨by omega, fun _ => signed_even neg (by omega)⟩
  · have hup' := hup
    simp only [roundsUp, Bool.or_eq_true, Bool.and_eq_true, decide_eq_true_eq, Bool.false_or, beq_iff_eq] at hup'
    rw [if_neg hup]
    exact ⟨by omega, fun _ => signed_even neg (by omega)⟩

/-- A value of 2^40 and more rounds to 2^40 and more. -/
theorem le_roundAt_of_huge {e : Int} (h : 40 < e + bitLen m ∧ m ≠ 0) : 2 ^ 40 ≤ roundAt mode neg m e 0 false :=
  le_roundAt h.2 (by simpa using h.1)
end Integers

/-- The integer types of conversion, each with its range (R241). -/
def intTypes : List (CvtT × Int × Int) :=
  [(.s32, -2 ^ 31, 2 ^ 31 - 1), (.z32, 0, 2 ^ 32 - 1), (.s16, -2 ^ 15, 2 ^ 15 - 1), (.z16, 0, 2 ^ 16 - 1), (.s8, -128, 127), (.z8, 0, 255),
    (.s4, -8, 7), (.z4, 0, 15)]
theorem intTypes_range {t : CvtT} {lo hi : Int} (h : (t, lo, hi) ∈ intTypes) : -2 ^ 40 ≤ lo ∧ lo ≤ hi ∧ hi ≤ 2 ^ 40 :=
  (by decide : ∀ p ∈ intTypes, -2 ^ 40 ≤ p.2.1 ∧ p.2.1 ≤ p.2.2 ∧ p.2.2 ≤ 2 ^ 40) _ h

/-- A finite value is rounded, then clamped. -/
theorem toIntIn_fin {lo hi : Int} (hlo : -2 ^ 40 ≤ lo) (hr : lo ≤ hi) (hhi : hi ≤ 2 ^ 40) (mode : RMode) (neg : Bool) (m : Nat) (e : Int) :
    toIntIn lo hi mode (.fin neg m e) = clampInt lo hi (roundInt mode neg m e) := by
  unfold toIntIn
  dsimp only
  split
  next h =>
    have hb := le_roundAt_of_huge mode neg m h
    rw [roundInt_eq]
    cases neg <;> simp [clampInt, signed] <;> omega
  · rfl

/-- The word of an integer of a type of range lo..hi, clamped. -/
def intWord (lo hi z : Int) : W64 := (BitVec.ofInt 32 (max lo (min hi z))).zeroExtend 64
theorem cvtWrite_int {t : CvtT} {lo hi : Int} (h : (t, lo, hi) ∈ intTypes) (mode : RMode) (v : Val) :
    cvtWrite t mode v = (BitVec.ofInt 32 (toIntIn lo hi mode v)).zeroExtend 64 := by
  simp only [intTypes, List.mem_cons, Prod.mk.injEq, List.not_mem_nil, or_false] at h
  rcases h with ⟨rfl, rfl, rfl⟩ | ⟨rfl, rfl, rfl⟩ | ⟨rfl, rfl, rfl⟩ | ⟨rfl, rfl, rfl⟩ | ⟨rfl, rfl, rfl⟩ | ⟨rfl, rfl, rfl⟩ | ⟨rfl, rfl, rfl⟩ |
    ⟨rfl, rfl, rfl⟩ <;> rfl
theorem cvtWrite_int_fin {t : CvtT} {lo hi : Int} (h : (t, lo, hi) ∈ intTypes) (mode : RMode) (neg : Bool) (m : Nat) (e : Int) :
    cvtWrite t mode (.fin neg m e) = intWord lo hi (roundInt mode neg m e) := by
  obtain ⟨hlo, hr, hhi⟩ := intTypes_range h
  rw [cvtWrite_int h, toIntIn_fin hlo hr hhi]
  rfl

/-! ### F8M -/

section F8M
variable {mode : RMode} {neg : Bool} {n k : Nat} {e q : Int}

theorem bit_eq (neg : Bool) : f8mRound.bit neg = 0 ∨ f8mRound.bit neg = 128 := by cases neg <;> simp [f8mRound.bit]
/-- No F8M code of a rounded number is that of the NaN. -/
theorem f8mCode_ne (hn : n ≤ 16) : f8mCode neg n q < 256 ∧ f8mCode neg n q ≠ 128 := by
  have hb := bit_eq neg
  have hcode (n : Nat) (q : Int) (hn : n < 16) :
      (if n < 8 then n else if q + 11 < 16 then (q + 11).toNat * 8 + (n - 8) else 0x7F) ≤ 127 := by
    split
    · omega
    · split <;> omega
  have hbit (c : Nat) (hc : c ≤ 127) : (if c = 0 then 0 else c + f8mRound.bit neg) < 256 ∧ (if c = 0 then 0 else c + f8mRound.bit neg) ≠ 128 := by
    split <;> omega
  unfold f8mCode
  by_cases h : n = 16
  · rw [if_pos h]
    exact hbit _ (hcode 8 (q + 1) (by decide))
  · rw [if_neg h]
    exact hbit _ (hcode n q (by omega))
/-- The code of 240 stands for it, for a carry past it, and for every number of a higher place. -/
theorem f8mCode_top (h : n = 16 ∧ 4 ≤ q ∨ 8 ≤ n ∧ n < 16 ∧ 5 ≤ q ∨ n = 15 ∧ q = 4) : f8mCode neg n q = if neg then 0xFF else 0x7F := by
  have hbit : 0x7F + f8mRound.bit neg = if neg then 0xFF else 0x7F := by cases neg <;> rfl
  rw [← hbit]
  rcases h with ⟨rfl, hq⟩ | ⟨hl, hu, hq⟩ | ⟨rfl, rfl⟩
  · have htop : ¬q + 1 + 11 < 16 := by omega
    simp [f8mCode, htop]
  · have htop : ¬q + 11 < 16 := by omega
    simp [f8mCode, hu.ne, hl.not_gt, htop]
  · rfl
theorem f8mRound_ne (mode : RMode) {v : Val} (hv : v ≠ .nan) : f8mRound mode v < 256 ∧ f8mRound mode v ≠ 128 := by
  cases v with
  | nan => exact absurd rfl hv
  | inf neg => cases neg <;> simp [f8mRound]
  | fin neg m e =>
    by_cases hm : m = 0
    · simp [f8mRound, hm]
    · rw [f8mRound_eq_f8mCode mode neg hm]
      exact f8mCode_ne (roundAt_le (p := 4) (by unfold lastPlace; omega))
/-- From 240 on every magnitude takes the code of 240. -/
theorem f8mRound_large (mode : RMode) (neg : Bool) (hk : 240 ≤ k) (he : 0 ≤ e) : f8mRound mode (.fin neg k e) = if neg then 0xFF else 0x7F := by
  have hk0 : k ≠ 0 := by omega
  have hb : 7 < bitLen k := lt_bitLen_iff.2 (by omega)
  obtain ⟨sh, hsh⟩ : ∃ sh, bitLen k = sh + 4 := ⟨bitLen k - 4, by omega⟩
  have hq : lastPlace 3 (-7) k e = e + sh := by unfold lastPlace; omega
  have hl : 8 ≤ k / 2 ^ sh := (Nat.le_div_iff_mul_le (Nat.two_pow_pos sh)).2
    (by rw [show 8 = 2 ^ 3 by rfl, ← pow_add]; exact lt_bitLen_iff.1 (by omega))
  have hu : k / 2 ^ sh < 16 := Nat.div_lt_of_lt_mul (by rw [show 16 = 2 ^ 4 by rfl, ← pow_add]; exact bitLen_le_iff.1 (by omega))
  have hn := roundAt_sub_eq_or (mode := mode) (neg := neg) (s := false) (m := k) (q := e + sh) (sh := sh) (by omega)
  rw [f8mRound_eq_f8mCode mode neg hk0, hq]
  rw [Int.add_sub_cancel] at hn
  refine f8mCode_top ?_
  by_cases hbot : sh = 4
  · subst hbot
    omega
  · omega
end F8M

end Sys2Proof.Proofs
end

section
/-! Quantisation to the nearest weight code, and the words of conversion and packing (R109, R112, R120, R241-R244). -/
namespace Sys2Proof.Proofs
open Sys2Proof Sys2Proof.Machine Sys2Proof.Laws

/-! ### The nearest of a list -/

/-- Of two values the first is nearer, or as near and no greater in magnitude. -/
def NoFarther (far : Int → Nat) (v w : Int) : Prop := far v < far w ∨ (far v = far w ∧ v.natAbs ≤ w.natAbs)
/-- `x` is the first entry of its value, and no entry's value is preferred to it. -/
def IsNearest (far : Int → Nat) (l : List (Int × Nat)) (x : Int × Nat) : Prop :=
  l.find? (fun p => p.1 == x.1) = some x ∧ ∀ p ∈ l, NoFarther far x.1 p.1
/-- What the search of `nearestCode` keeps of the best entry. -/
def kept (far : Int → Nat) (x : Int × Nat) : Int × Int × Nat := (far x.1, x.1.natAbs, x.2)
/-- One step of the search of `nearestCode`. -/
def preferred (far : Int → Nat) (best : Option (Int × Int × Nat)) (p : Int × Nat) : Option (Int × Int × Nat) :=
  match best with
  | none => some (kept far p)
  | some b => if (far p.1 : Int) < b.1 ∨ ((far p.1 : Int) = b.1 ∧ (p.1.natAbs : Int) < b.2.1) then some (kept far p) else best
/-- The distance of a value, in units of 2^-8, from `v` units 2^q. -/
def farFrom (v q w : Int) : Nat := (v - w * (2 ^ (-8 - q).toNat : Nat)).natAbs
theorem nearestCode_eq (v q : Int) (l : List (Int × Nat)) :
    nearestCode v q l = (l.foldl (preferred (farFrom v q)) none).elim 0 fun b => b.2.2 := rfl

section Nearest
variable {far : Int → Nat} {l : List (Int × Nat)} {x p : Int × Nat}
theorem isNearest_singleton (far : Int → Nat) (p : Int × Nat) : IsNearest far [p] p := by simp [IsNearest, NoFarther]
/-- One step keeps the nearest entry of what it has seen. -/
theorem IsNearest.step (h : IsNearest far l x) (p : Int × Nat) :
    ∃ y, preferred far (some (kept far x)) p = some (kept far y) ∧ IsNearest far (l ++ [p]) y := by
  obtain ⟨hfirst, hall⟩ := h
  by_cases hp : far p.1 < far x.1 ∨ (far p.1 = far x.1 ∧ p.1.natAbs < x.1.natAbs)
  · refine ⟨p, if_pos (by simpa only [kept, Nat.cast_lt, Nat.cast_inj] using hp), ?_, fun w hw => ?_⟩
    · have hnone : l.find? (fun w => w.1 == p.1) = none := List.find?_eq_none.2 fun w hw he => by
        have := hall w hw
        rw [beq_iff_eq.1 he] at this
        unfold NoFarther at this
        omega
      simp [List.find?_append, hnone]
    · rcases List.mem_append.1 hw with hw | hw
      · have := hall w hw
        unfold NoFarther at *
        omega
      · rw [List.mem_singleton.1 hw]
        exact .inr ⟨rfl, le_rfl⟩
  · refine ⟨x, if_neg (by simpa only [kept, Nat.cast_lt, Nat.cast_inj] using hp), ?_, fun w hw => ?_⟩
    · simp [List.find?_append, hfirst]
    · rcases List.mem_append.1 hw with hw | hw
      · exact hall w hw
      · rw [List.mem_singleton.1 hw]
        unfold NoFarther
        omega
theorem IsNearest.foldl (h : IsNearest far l x) (r : List (Int × Nat)) :
    ∃ y, r.foldl (preferred far) (some (kept far x)) = some (kept far y) ∧ IsNearest far (l ++ r) y := by
  induction r generalizing l x with
  | nil => exact ⟨x, rfl, by rwa [List.append_nil]⟩
  | cons p r ih =>
    obtain ⟨y, hy, hn⟩ := h.step p
    rw [List.foldl_cons, hy, List.append_cons]
    exact ih hn
/-- The search finds the nearest entry of a list. -/
theorem nearestCode_isNearest (v q : Int) (hl : l ≠ []) : ∃ x, IsNearest (farFrom v q) l (x, nearestCode v q l) := by
  cases l with
  | nil => exact absurd rfl hl
  | cons p r =>
    obtain ⟨y, hy, hn⟩ := (isNearest_singleton (farFrom v q) p).foldl r
    rw [nearestCode_eq, List.foldl_cons, show preferred (farFrom v q) none p = some (kept (farFrom v q) p) from rfl, hy]
    exact ⟨y.1, hn⟩

/-- An order of distances that agrees on the list has the same nearest entry. -/
theorem IsNearest.congr {far' : Int → Nat} (h : IsNearest far l x) (hx : x ∈ l → ∀ p ∈ l, NoFarther far x.1 p.1 → NoFarther far' x.1 p.1) :
    IsNearest far' l x := ⟨h.1, fun p hp => hx (List.mem_of_find?_eq_some h.1) p hp (h.2 p hp)⟩
end Nearest

/-- Distances in units of a lower place order values alike. -/
theorem farFrom_scale (s : Bool) (m : Nat) {q r e : Int} (hq : q ≤ r) (hr : r ≤ e) (h8 : r ≤ -8) (w : Int) :
    farFrom (units s m e q) q w = farFrom (units s m e r) r w * 2 ^ (r - q).toNat := by
  have : (-8 - q).toNat = (-8 - r).toNat + (r - q).toNat := by omega
  unfold farFrom
  rw [units_scale s m hq hr, this, pow_add]
  push_cast
  rw [← mul_assoc, ← sub_mul, Int.natAbs_mul, Int.natAbs_pow]
  rfl
theorem NoFarther.of_scale {far far' : Int → Nat} {c : Nat} (hc : 0 < c) (hf : ∀ w, far' w = far w * c) {v w : Int} (h : NoFarther far v w) :
    NoFarther far' v w := by
  unfold NoFarther at *
  rw [hf, hf, Nat.mul_lt_mul_right hc, Nat.mul_left_inj hc.ne']
  exact h

theorem farFrom_neg (v q w : Int) : farFrom (-v) q w = farFrom v q (-w) := by
  rw [farFrom, farFrom, ← Int.natAbs_neg]
  congr 1
  ring
/-- Seen from a number beyond all values, the greater is the nearer. -/
theorem noFarther_beyond {b y : Nat} {q v w : Int} (hy : b * 2 ^ (-8 - q).toNat ≤ y) (hv : v.natAbs ≤ b) (hw : w.natAbs ≤ b) :
    NoFarther (farFrom y q) v w ↔ w ≤ v := by
  have hs : (0 : Int) < (2 ^ (-8 - q).toNat : Nat) := by exact_mod_cast Nat.two_pow_pos _
  unfold NoFarther farFrom
  zify at hy
  push_cast at hs ⊢
  generalize (2 : Int) ^ (-8 - q).toNat = s at *
  have hvy : v * s ≤ y := (mul_le_mul_of_nonneg_right (by omega) hs.le).trans hy
  have hwy : w * s ≤ y := (mul_le_mul_of_nonneg_right (by omega) hs.le).trans hy
  have hlt : w * s < v * s ↔ w < v := mul_lt_mul_iff_left₀ hs
  have heq : v * s = w * s ↔ v = w := mul_left_inj' hs.ne'
  omega
theorem noFarther_beyond_signed {b y : Nat} {q v w : Int} (neg : Bool) (hy : b * 2 ^ (-8 - q).toNat ≤ y) (hv : v.natAbs ≤ b) (hw : w.natAbs ≤ b) :
    NoFarther (farFrom (signed neg y) q) v w ↔ if neg then v ≤ w else w ≤ v := by
  cases neg with
  | false => exact noFarther_beyond hy hv hw
  | true =>
    have h := noFarther_beyond (q := q) hy (v := -v) (w := -w) (by simpa using hv) (by simpa using hw)
    simpa only [signed, if_true, NoFarther, farFrom_neg, Int.natAbs_neg, neg_le_neg_iff] using h

/-! ### Weight codes -/

/-- The values of a set and the values of its codes are the same, and each value's code is a code of it (R109-R112). -/
def CodesOf (t : QTarget) (value : Nat → Int) (bits : Nat) (top : Int) : Prop :=
  (∀ p ∈ t.codes, p.2 < 2 ^ bits ∧ p.1 = value p.2 ∧ p.1.natAbs ≤ top) ∧ ∀ c, c < 2 ^ bits → ∃ p ∈ t.codes, p.1 = value c
theorem codesOf_d8 : CodesOf .d8 dyad8 8 512 := by unfold CodesOf; decide +kernel
theorem codesOf_d6 : CodesOf .d6 dyad6 6 384 := by unfold CodesOf; decide +kernel
theorem codesOf_m4 : CodesOf .m4 monad4 4 256 := by unfold CodesOf; decide +kernel
/-- The codes of a NaN and of the infinities: zero and the greatest magnitude of either sign. -/
def SpecialCodes (t : QTarget) (value : Nat → Int) (top : Int) : Prop :=
  value (quant .nan 0 t) = 0 ∧ value (quant (.inf false) 0 t) = top ∧ value (quant (.inf true) 0 t) = -top
theorem specialCodes_d8 : SpecialCodes .d8 dyad8 512 := by unfold SpecialCodes; decide +kernel
theorem specialCodes_d6 : SpecialCodes .d6 dyad6 384 := by unfold SpecialCodes; decide +kernel
theorem specialCodes_m4 : SpecialCodes .m4 monad4 256 := by unfold SpecialCodes; decide +kernel

/-- Bound on the magnitudes of a set of codes, in units of 2^-8. -/
theorem codes_le (t : QTarget) (ht : t ≠ .s8) : t.codes ≠ [] ∧ ∀ p ∈ t.codes, p.1.natAbs ≤ 512 := by
  cases t with
  | s8 => exact absurd rfl ht
  | _ => decide +kernel

/-- Far out the search is from a number beyond all values, else from the value itself. -/
theorem quant_fin {t : QTarget} (ht : t ≠ .s8) (neg : Bool) (m : Nat) (e k : Int) : quant (.fin neg m e) k t =
    if 4 < e - k + bitLen m ∧ m ≠ 0 then nearestCode (signed neg 1024) (-8) t.codes
    else nearestCode (units neg m (e - k) (min (e - k) (-8))) (min (e - k) (-8)) t.codes := by
  cases t with
  | s8 => exact absurd rfl ht
  | _ => rfl

/-- The nearest code of a finite value (R120). -/
theorem quant_fin_nearest {t : QTarget} (ht : t ≠ .s8) (neg : Bool) (m : Nat) {e k q : Int} (hq : q ≤ e - k) (h8 : q ≤ -8) :
    ∃ v, IsNearest (farFrom (units neg m (e - k) q) q) t.codes (v, quant (.fin neg m e) k t) := by
  obtain ⟨hne, hle⟩ := codes_le t ht
  rw [quant_fin ht]
  generalize e - k = g at *
  split
  next h =>
    obtain ⟨x, hx⟩ := nearestCode_isNearest (signed neg 1024) (-8) hne
    refine ⟨x, hx.congr fun hm p hp hn => ?_⟩
    have hy : 512 * 2 ^ (-8 - q).toNat ≤ m * 2 ^ (g - q).toNat := by
      rw [show 512 = 2 ^ 9 by rfl, ← pow_add, ← lt_bitLen_iff, bitLen_mul_two_pow h.2]
      omega
    have hv := hle _ hm
    have hw := hle p hp
    exact (noFarther_beyond_signed neg hy hv hw).2 ((noFarther_beyond_signed neg (by decide) hv hw).1 hn)
  · obtain ⟨x, hx⟩ := nearestCode_isNearest (units neg m g (min g (-8))) (min g (-8)) hne
    exact ⟨x, hx.congr fun _ p _ hn =>
      hn.of_scale (Nat.two_pow_pos _) (farFrom_scale neg m (le_min hq h8) (min_le_left ..) (min_le_right ..))⟩

/-- The codes of each set, and those of a NaN and of the infinities at every exponent. -/
theorem quant_codes {t : QTarget} {value : Nat → Int} {bits : Nat} {top : Int} (k : Int)
    (h : (t, value, bits, top) ∈ [(QTarget.d8, dyad8, 8, (512 : Int)), (.d6, dyad6, 6, 384), (.m4, monad4, 4, 256)]) :
    t ≠ .s8 ∧ CodesOf t value bits top
      ∧ value (quant .nan k t) = 0 ∧ value (quant (.inf false) k t) = top ∧ value (quant (.inf true) k t) = -top := by
  simp only [List.mem_cons, Prod.mk.injEq, List.not_mem_nil, or_false] at h
  rcases h with ⟨rfl, rfl, rfl, rfl⟩ | ⟨rfl, rfl, rfl, rfl⟩ | ⟨rfl, rfl, rfl, rfl⟩
  · exact ⟨by decide, codesOf_d8, specialCodes_d8⟩
  · exact ⟨by decide, codesOf_d6, specialCodes_d6⟩
  · exact ⟨by decide, codesOf_m4, specialCodes_m4⟩
/-- Quantisation to S8 is the conversion to S8, of the scaled value. -/
theorem quant_s8 (k : Int) (neg : Bool) (m : Nat) (e : Int) :
    quant (.fin neg m e) k .s8 = (cvtWrite .s8 .rne (.fin neg m (e - k))).toNat % 256 := by
  have h (z : Int) : (BitVec.ofInt 8 z).toNat = ((BitVec.ofInt 32 z).zeroExtend 64).toNat % 256 := by
    simp [BitVec.toNat_ofInt]
    omega
  exact h _

/-! ### Packed fields -/

/-- The fields of `n` bits laid out from bit 0. -/
def packed (n : Nat) (g : Nat → Nat) (k : Nat) : Nat := (List.range k).foldl (fun x i => x + g i % 2 ^ n * 2 ^ (n * i)) 0
theorem packed_succ (n : Nat) (g : Nat → Nat) (k : Nat) : packed n g (k + 1) = packed n g k + g k % 2 ^ n * 2 ^ (n * k) := by
  simp [packed, List.range_succ]
theorem packed_lt (n : Nat) (g : Nat → Nat) (k : Nat) : packed n g k < 2 ^ (n * k) := by
  induction k with
  | zero => simp [packed]
  | succ k ih =>
    have hf := Nat.mod_lt (g k) (Nat.two_pow_pos n)
    rw [packed_succ, Nat.mul_succ, pow_add, mul_comm (2 ^ (n * k))]
    nlinarith
/-- Each field reads back. -/
theorem packed_field (n : Nat) (g : Nat → Nat) {k j : Nat} (hj : j < k) : packed n g k / 2 ^ (n * j) % 2 ^ n = g j % 2 ^ n := by
  induction k with
  | zero => omega
  | succ k ih =>
    rw [packed_succ]
    rcases Nat.lt_succ_iff_lt_or_eq.1 hj with h | rfl
    · obtain ⟨i, rfl⟩ := Nat.exists_eq_add_of_lt h
      have hp : 2 ^ (n * (j + i + 1)) = 2 ^ n * 2 ^ (n * i) * 2 ^ (n * j) := by rw [← pow_add, ← pow_add]; congr 1; ring
      rw [hp, ← mul_assoc, Nat.add_mul_div_right _ _ (Nat.two_pow_pos _), mul_left_comm, Nat.add_mul_mod_self_left, ih h]
    · rw [Nat.add_mul_div_right _ _ (Nat.two_pow_pos _), Nat.div_eq_of_lt (packed_lt n g j), zero_add, Nat.mod_mod]
theorem packBits_mul_count (w : PackW) : packBits w * w.count = 32 := by cases w <;> rfl
theorem packed_word (w : PackW) (g : Nat → Nat) : (BitVec.ofNat 32 (packed (packBits w) g w.count)).toNat = packed (packBits w) g w.count :=
  Nat.mod_eq_of_lt ((packed_lt _ g _).trans_eq (congrArg _ (packBits_mul_count w)))

/-! ### Source and destination types -/

theorem toNat_mod_eq_truncate (x : W64) (w : Nat) : x.toNat % 2 ^ w = (x.truncate w).toNat := (BitVec.toNat_setWidth w x).symm
/-- The value of an F8M code by its fields (R106). -/
theorem f8mValue_fields (x : Nat) : let n := x % 256
    f8mValue n = if n = 128 then .nan else if n / 8 % 16 = 0 then .fin (decide (128 ≤ n)) (n % 8) (-10)
      else .fin (decide (128 ≤ n)) (8 + n % 8) (n / 8 % 16 - 11) := by
  simp only [f8mValue, Nat.mod_mod]
  push_cast
  rfl
/-- No rounded number takes the code of the F8M NaN. -/
theorem cvtWrite_f8m_ne (m : RMode) {v : Val} (hv : v ≠ .nan) : cvtWrite .f8m m v ≠ 0x80 := by
  intro h
  obtain ⟨hlt, hne⟩ := f8mRound_ne m hv
  have hcode : f8mRound m v % 2 ^ 64 = 128 := by simpa [cvtWrite] using congrArg BitVec.toNat h
  omega

/-- A NaN converts to zero, an infinity to the bound on its side. -/
theorem cvtWrite_int_special {t : CvtT} {lo hi : Int} (h : (t, lo, hi) ∈ intTypes) (m : RMode) :
    cvtWrite t m .nan = 0 ∧ cvtWrite t m (.inf false) = intWord lo hi hi ∧ cvtWrite t m (.inf true) = intWord lo hi lo := by
  obtain ⟨-, hr, -⟩ := intTypes_range h
  have hhi : max lo (min hi hi) = hi := by omega
  have hlo : max lo (min hi lo) = lo := by omega
  refine ⟨?_, ?_, ?_⟩ <;> rw [cvtWrite_int h]
  · rfl
  · rw [intWord, hhi]; rfl
  · rw [intWord, hlo]; rfl

/-- A ready vquant writes the code of each active lane, its exponent clamped (R243). -/
theorem quantise_next {i : Instr} {d a : VReg} {b : BSel} {t : QTarget} {s : State} (h : Ready i s) : quantise i d a b t s =
    .next ((s.acting i).setLanes d fun L =>
      BitVec.ofNat 32 (quant (val32 ((s.acting i).rV a L)) (max (-127) (min 127 ((s.acting i).b32 b L).toInt)) t)) := runPure_next h
/-- A ready vunpk writes each field to a register of its own (R244). -/
theorem unpack_next {i : Instr} {d a : VReg} {w : PackW} {ext : Nat → W32} {s : State} (h : Ready i s) : unpack i d a w ext s =
    .next ((List.range w.count).foldl (fun v j => v.setLanes (d.val + j) fun L =>
      ext (((s.acting i).rV a L).toNat / 2 ^ (packBits w * j) % 2 ^ packBits w)) (s.acting i)) := runPure_next h

/-- Settles O19: each word is one function of the lanes in the frame of its register checks; what is read and written of a type is the
type's table, and what is rounded the one rounding to its last place, to an integer, or to the nearest of its codes. -/
theorem conversionAndPackingResults : Obligations.ConversionAndPackingResults := by
  refine ⟨fun s d a b f g m w hl => ?_, fun x => ?_, fun m v => ⟨rfl, rfl, rfl, rfl, rfl, ⟨rfl, rfl, rfl⟩, cvtWrite_f8m_ne m⟩,
    fun m x hx hn => ?_, fun m n k e hk he => ?_, fun m t lo hi h => ?_, fun t k value bits top h => ?_,
    fun k n m e => ⟨rfl, rfl, rfl, quant_s8 k n m e⟩⟩
  · refine ⟨fun hr => (exec_vcvt ..).trans (runPure_next ⟨hl, hr⟩), fun hr => (exec_vquantD8 ..).trans (quantise_next ⟨hl, hr⟩),
      fun hr => (exec_vquantD6 ..).trans (quantise_next ⟨hl, hr⟩), fun hr => (exec_vquantM4 ..).trans (quantise_next ⟨hl, hr⟩),
      fun hr => (exec_vquantS8 ..).trans (quantise_next ⟨hl, hr⟩),
      fun hr => ⟨_, (exec_vpack ..).trans (runPure_next ⟨hl, hr⟩), fun L j hj => ?_⟩,
      fun hr => (exec_vunpkZ ..).trans (unpack_next ⟨hl, hr⟩), fun hr => (exec_vunpkS ..).trans (unpack_next ⟨hl, hr⟩)⟩
    have hg := packed_word w fun i => ((s.wakeFor [d.val]).rV (a.val + i) L).toNat
    exact (congrArg (· / 2 ^ (packBits w * j) % 2 ^ packBits w) hg).trans (packed_field _ _ hj)
  · have hz := toNat_mod_eq_truncate x
    have hs {w : Nat} (hw : 0 < w) := congrArg Val.ofInt (signedOf_truncate hw x)
    exact ⟨rfl, congrArg fp32.value (hz 32), congrArg fp16.value (hz 16), congrArg fpB16.value (hz 16), rfl, f8mValue_fields _,
      hs (by decide), congrArg (fun n : Nat => Val.ofInt n) (hz 32), hs (by decide), congrArg (fun n : Nat => Val.ofInt n) (hz 16),
      hs (by decide), congrArg (fun n : Nat => Val.ofInt n) (hz 8), hs (by decide), congrArg (fun n : Nat => Val.ofInt n) (hz 4)⟩
  · exact congrArg (BitVec.ofNat 64) (f8mRound_f8mValue m hx hn)
  · rw [cvtWrite, f8mRound_large m n hk he]
    cases n <;> rfl
  · obtain ⟨hnan, hpos, hneg⟩ := cvtWrite_int_special h m
    refine ⟨hnan, hpos, hneg, fun n k j => ⟨?_, ?_, ?_, ?_, roundInt .rne n k (-j), ?_, roundInt_rne n k j⟩⟩ <;>
      rw [cvtWrite_int_fin h]
    · rw [roundInt_whole]; rfl
    · rw [roundInt_rz]; rfl
    · rw [roundInt_rd]; rfl
    · rw [roundInt_ru]; rfl
    · rfl
  · obtain ⟨ht, ⟨hcodes, hvalues⟩, hnan, hpos, hneg⟩ := quant_codes k h
    refine ⟨hcodes, hvalues, hnan, hpos, hneg, fun n m e q hq h8 => ?_⟩
    obtain ⟨v, hfind, hall⟩ := quant_fin_nearest ht n m hq h8
    refine ⟨v, hfind, fun p hp => ?_⟩
    have hy : units n m (e - k) q = (if n then -1 else 1) * (m * 2 ^ (e - k - q).toNat : Nat) := by cases n <;> simp [units]
    have hfar := hall p hp
    simp only [NoFarther, farFrom, hy, Nat.cast_pow, Nat.cast_ofNat] at hfar
    exact hfar

end Sys2Proof.Proofs
end

section
/-! The words fence and waitc at issue (R144, R254, R258, R397, R423). -/
namespace Sys2Proof.Proofs
open Sys2Proof Sys2Proof.Machine Sys2Proof.Laws

/-! ### fence (R254) -/

/-- The record that a fence word leaves with its group. -/
def fenceRec (s : State) (u : Bool) (r : FOrd) (sc : Scope) : FenceRec :=
  { age := s.nextOp, acq := r != .rel, rel := r != .acq, full := r == .acqrel, uo := u, scope := sc, lanes := BitVec.allOnes 32 }
/-- What the record holds of the order: an acquire unless the fence is rel, a release unless it is acq, and full where it is acqrel (R254). -/
theorem fenceRec_order (s : State) (u : Bool) (r : FOrd) (sc : Scope) : (fenceRec s u r sc).acq = decide (r ≠ .rel)
    ∧ (fenceRec s u r sc).rel = decide (r ≠ .acq) ∧ (fenceRec s u r sc).full = decide (r = .acqrel) := by
  cases r <;> exact ⟨rfl, rfl, rfl⟩

/-- A fence acts on its group alone: the group keeps all but its fences and the age of its latest release, and holds the new record. -/
theorem exec_fence_next {s : State} (hl : s.cur.live = true) (u : Bool) (r : FOrd) (sc : Scope) :
    ∃ old last, exec (.fence u r sc) s =
      .next (s.onGroup fun g => { g with fences := old ++ [fenceRec s u r sc], lastRel := last }) :=
  ⟨_, _, by rw [exec_fence, execFence, runPure_bare hl rfl rfl]; rfl⟩

/-! ### waitc (R258) -/

section Waitc
variable {s : State} {l st cp ti : Fin 16}

theorem waitsNothing_iff {l st cp ti : Nat} : waitsNothing l st cp ti = true ↔ l = 15 ∧ st = 15 ∧ cp = 15 ∧ ti = 15 := by
  simp [waitsNothing, and_assoc]
theorem countsHold_iff {c : Counts} {l st cp ti : Nat} : countsHold c l st cp ti = true ↔
    (l = 15 ∨ c.loads ≤ l) ∧ (st = 15 ∨ c.stores ≤ st) ∧ (cp = 15 ∨ c.copies ≤ cp) ∧ (ti = 15 ∨ c.tiles ≤ ti) := by
  simp [countsHold, and_assoc]
/-- The latest release of a group is raised to the age of a completed waitc where no store is outstanding, and stands otherwise. -/
theorem storesOver_eq (g : Group) (age : Nat) :
    g.storesOver age = { g with lastRel := if g.counts.stores = 0 then max g.lastRel age else g.lastRel } := by
  unfold Group.storesOver
  split <;> rfl

variable (hl : s.cur.live = true)
include hl
theorem exec_waitc_any (ha : waitsNothing l st cp ti = true) : exec (.waitc l st cp ti) s = .next s := by
  rw [exec_waitc, execWaitc, runPure_bare hl rfl rfl, if_pos ha]
variable (ha : ¬waitsNothing l st cp ti = true)
include ha
/-- Outside portable mode a waitc whose counts hold only orders what follows. -/
theorem exec_waitc_passes (hp : s.cur.team.portable = false) (hc : countsHold s.cur.group.counts l st cp ti = true) :
    exec (.waitc l st cp ti) s = .next (s.onGroup fun g => g.storesOver s.nextOp) := by
  rw [exec_waitc, execWaitc, runPure_bare hl rfl rfl, if_neg ha, if_pos (by simp [hp, hc])]
/-- In portable mode, or while its counts do not hold, a waitc blocks its split. -/
theorem exec_waitc_blocks (h : s.cur.team.portable = true ∨ ¬countsHold s.cur.group.counts l st cp ti = true) :
    exec (.waitc l st cp ti) s = .next (s.onSplit fun p => { p with block := .waitc l st cp ti, age := s.nextOp }) := by
  rw [exec_waitc, execWaitc, runPure_bare hl rfl rfl, if_neg ha, if_neg (by rcases h with h | h <;> simp [h])]
end Waitc

/-- Settles O32: fence acts on the fences of its group alone, and waitc goes one of three ways by its limits, the mode and the counts. -/
theorem fenceAndCountWords : Obligations.FenceAndCountWords := by
  intro s u r sc l st cp ti hl
  refine ⟨?_, fun ha => exec_waitc_any hl (waitsNothing_iff.2 ha), fun ha hp hc => ?_, fun ha h => ?_⟩
  · obtain ⟨old, last, he⟩ := exec_fence_next hl u r sc
    exact ⟨_, he, rfl, rfl, rfl, rfl, fenceRec s u r sc, by simp, rfl, rfl, rfl, fenceRec_order s u r sc⟩
  · simp only [exec_waitc_passes hl (mt waitsNothing_iff.1 ha) hp (countsHold_iff.2 hc), storesOver_eq]
    rfl
  · exact exec_waitc_blocks hl (mt waitsNothing_iff.1 ha) (h.imp_right (mt countsHold_iff.1))

end Sys2Proof.Proofs
end

section
/-! The proofs of the statements about the words themselves: the words of the spec, and the instruction that a written word decodes to. -/
namespace Sys2Proof.Proofs
open Sys2Proof Sys2Proof.Machine Sys2Proof.Laws

/-- Each word of the table has its round trip; the row of an event has no word. -/
theorem roundTrip_statement (i : Instr) : RoundTrip.Statement i := by
  cases i with
  | nop => exact RoundTrip.nop | sadd d a b => exact RoundTrip.sadd d a b | ssub d a b => exact RoundTrip.ssub d a b
  | smul d a b => exact RoundTrip.smul d a b | smulhS d a b => exact RoundTrip.smulhS d a b | smulhZ d a b => exact RoundTrip.smulhZ d a b
  | sand d a b => exact RoundTrip.sand d a b | sor d a b => exact RoundTrip.sor d a b | sxor d a b => exact RoundTrip.sxor d a b
  | sshl d a b => exact RoundTrip.sshl d a b | sshrZ d a b => exact RoundTrip.sshrZ d a b | sshrS d a b => exact RoundTrip.sshrS d a b
  | sminS d a b => exact RoundTrip.sminS d a b | smaxS d a b => exact RoundTrip.smaxS d a b | sminZ d a b => exact RoundTrip.sminZ d a b
  | smaxZ d a b => exact RoundTrip.smaxZ d a b | ssltS d a b => exact RoundTrip.ssltS d a b | ssltZ d a b => exact RoundTrip.ssltZ d a b
  | sseq d a b => exact RoundTrip.sseq d a b | saddi d a i => exact RoundTrip.saddi d a i | sandi d a i => exact RoundTrip.sandi d a i
  | sori d a i => exact RoundTrip.sori d a i | sxori d a i => exact RoundTrip.sxori d a i | sshli d a n => exact RoundTrip.sshli d a n
  | sshriZ d a n => exact RoundTrip.sshriZ d a n | sshriS d a n => exact RoundTrip.sshriS d a n | slit d i => exact RoundTrip.slit d i
  | slitwZ d => exact RoundTrip.slitwZ d | slitwS d => exact RoundTrip.slitwS d | slitwLo d => exact RoundTrip.slitwLo d
  | slitwHi d => exact RoundTrip.slitwHi d | sgetsr d n => exact RoundTrip.sgetsr d n | ssetsr a n => exact RoundTrip.ssetsr a n
  | ssetsrSet a n => exact RoundTrip.ssetsrSet a n | ssetsrClr a n => exact RoundTrip.ssetsrClr a n | scmpEq d a b => exact RoundTrip.scmpEq d a b
  | scmpNe d a b => exact RoundTrip.scmpNe d a b | scmpLtS d a b => exact RoundTrip.scmpLtS d a b | scmpLeS d a b => exact RoundTrip.scmpLeS d a b
  | scmpLtZ d a b => exact RoundTrip.scmpLtZ d a b | scmpLeZ d a b => exact RoundTrip.scmpLeZ d a b | sext d a w l => exact RoundTrip.sext d a w l
  | sextFirst d a w => exact RoundTrip.sextFirst d a w | sextLast d a w => exact RoundTrip.sextLast d a w
  | vins d a w l => exact RoundTrip.vins d a w l | vinsAll d a w => exact RoundTrip.vinsAll d a w | vadd d a b => exact RoundTrip.vadd d a b
  | vaddSatS d a b => exact RoundTrip.vaddSatS d a b | vaddSatZ d a b => exact RoundTrip.vaddSatZ d a b | vsub d a b => exact RoundTrip.vsub d a b
  | vsubSatS d a b => exact RoundTrip.vsubSatS d a b | vsubSatZ d a b => exact RoundTrip.vsubSatZ d a b | vmul d a b => exact RoundTrip.vmul d a b
  | vmulhS d a b => exact RoundTrip.vmulhS d a b | vmulhZ d a b => exact RoundTrip.vmulhZ d a b | vminS d a b => exact RoundTrip.vminS d a b
  | vminZ d a b => exact RoundTrip.vminZ d a b | vmaxS d a b => exact RoundTrip.vmaxS d a b | vmaxZ d a b => exact RoundTrip.vmaxZ d a b
  | vand d a b => exact RoundTrip.vand d a b | vor d a b => exact RoundTrip.vor d a b | vxor d a b => exact RoundTrip.vxor d a b
  | vandn d a b => exact RoundTrip.vandn d a b | vshl d a b => exact RoundTrip.vshl d a b | vshrZ d a b => exact RoundTrip.vshrZ d a b
  | vshrS d a b => exact RoundTrip.vshrS d a b | vrot d a b => exact RoundTrip.vrot d a b | vlut3 d a b => exact RoundTrip.vlut3 d a b
  | vpopc d a => exact RoundTrip.vpopc d a | vclz d a => exact RoundTrip.vclz d a | vctz d a => exact RoundTrip.vctz d a
  | vbrev d a => exact RoundTrip.vbrev d a | vbfxZ d a b => exact RoundTrip.vbfxZ d a b | vbfxS d a b => exact RoundTrip.vbfxS d a b
  | vbfi d a b => exact RoundTrip.vbfi d a b | vaddi d a i => exact RoundTrip.vaddi d a i | vcmp c a b p => exact RoundTrip.vcmp c a b p
  | vsel d a b c => exact RoundTrip.vsel d a b c | vmov d a => exact RoundTrip.vmov d a | vmovX64 d a => exact RoundTrip.vmovX64 d a
  | vlit d i => exact RoundTrip.vlit d i | vlaneid d => exact RoundTrip.vlaneid d | vballot d c => exact RoundTrip.vballot d c
  | vmrank d c => exact RoundTrip.vmrank d c | vmrankInc d c => exact RoundTrip.vmrankInc d c | vshflIdx d a b => exact RoundTrip.vshflIdx d a b
  | vshflUp d a b => exact RoundTrip.vshflUp d a b | vshflDown d a b => exact RoundTrip.vshflDown d a b
  | vshflXor d a b => exact RoundTrip.vshflXor d a b | vfold d a o => exact RoundTrip.vfold d a o | vscan d a x o => exact RoundTrip.vscan d a x o
  | vregrp f n c p => exact RoundTrip.vregrp f n c p | vfadd d a b r => exact RoundTrip.vfadd d a b r | vfsub d a b r => exact RoundTrip.vfsub d a b r
  | vfmul d a b r => exact RoundTrip.vfmul d a b r | vfma d a b r => exact RoundTrip.vfma d a b r | vfnma d a b r => exact RoundTrip.vfnma d a b r
  | vfdiv d a b r => exact RoundTrip.vfdiv d a b r | vfmin d a b => exact RoundTrip.vfmin d a b | vfmax d a b => exact RoundTrip.vfmax d a b
  | vfminn d a b => exact RoundTrip.vfminn d a b | vfmaxn d a b => exact RoundTrip.vfmaxn d a b | vfcmp c a b p => exact RoundTrip.vfcmp c a b p
  | vfsqrt d a => exact RoundTrip.vfsqrt d a | vfrcp d a => exact RoundTrip.vfrcp d a | vfrsq d a => exact RoundTrip.vfrsq d a
  | vfex2 d a => exact RoundTrip.vfex2 d a | vflg2 d a => exact RoundTrip.vflg2 d a | vfabs d a => exact RoundTrip.vfabs d a
  | vfneg d a => exact RoundTrip.vfneg d a | vfcpsgn d a b => exact RoundTrip.vfcpsgn d a b | vdadd d a b => exact RoundTrip.vdadd d a b
  | vdsub d a b => exact RoundTrip.vdsub d a b | vdmul d a b => exact RoundTrip.vdmul d a b | vdfma d a b => exact RoundTrip.vdfma d a b
  | vddiv d a b r => exact RoundTrip.vddiv d a b r | vdcmp c a b p => exact RoundTrip.vdcmp c a b p | vdsqrt d a => exact RoundTrip.vdsqrt d a
  | vhadd d a b f => exact RoundTrip.vhadd d a b f | vhmul d a b f => exact RoundTrip.vhmul d a b f | vhfma d a b f => exact RoundTrip.vhfma d a b f
  | vcvt d a f t r => exact RoundTrip.vcvt d a f t r | vquantD8 d a b => exact RoundTrip.vquantD8 d a b
  | vquantD6 d a b => exact RoundTrip.vquantD6 d a b | vquantM4 d a b => exact RoundTrip.vquantM4 d a b
  | vquantS8 d a b => exact RoundTrip.vquantS8 d a b | vpack d a w => exact RoundTrip.vpack d a w | vunpkZ d a w => exact RoundTrip.vunpkZ d a w
  | vunpkS d a w => exact RoundTrip.vunpkS d a w | sgBoard d a => exact RoundTrip.sgBoard d a | sgAlight d a => exact RoundTrip.sgAlight d a
  | sgCap d a r => exact RoundTrip.sgCap d a r | sgMod d a o w r => exact RoundTrip.sgMod d a o w r | sgArm d a o w => exact RoundTrip.sgArm d a o w
  | sgRev d a => exact RoundTrip.sgRev d a | sgRevOfs d => exact RoundTrip.sgRevOfs d | br o => exact RoundTrip.br o
  | brAny c o => exact RoundTrip.brAny c o | brAll c o => exact RoundTrip.brAll c o | brNone c o => exact RoundTrip.brNone c o
  | call o => exact RoundTrip.call o | jmp d a => exact RoundTrip.jmp d a | brx b a => exact RoundTrip.brx b a | vif c => exact RoundTrip.vif c
  | velse => exact RoundTrip.velse | vend => exact RoundTrip.vend | vkill c => exact RoundTrip.vkill c | vbrk c m => exact RoundTrip.vbrk c m
  | exit => exact RoundTrip.exit | trap x => exact RoundTrip.trap x | brk x => exact RoundTrip.brk x
  | vldZ d b o w h => exact RoundTrip.vldZ d b o w h | vldS d b o w h => exact RoundTrip.vldS d b o w h
  | vst d b o w h => exact RoundTrip.vst d b o w h | sld d b o => exact RoundTrip.sld d b o | slw d b o => exact RoundTrip.slw d b o
  | sst d b o => exact RoundTrip.sst d b o | ssw d b o => exact RoundTrip.ssw d b o | vlds d b o w => exact RoundTrip.vlds d b o w
  | vsts d b o w => exact RoundTrip.vsts d b o w | vlda d b o w => exact RoundTrip.vlda d b o w | vsta d b o w => exact RoundTrip.vsta d b o w
  | vldx d b o w => exact RoundTrip.vldx d b o w | vatom d a p s r => exact RoundTrip.vatom d a p s r
  | vmred d a p s r => exact RoundTrip.vmred d a p s r | satom d a b p r => exact RoundTrip.satom d a b p r
  | vatoms d a p s r => exact RoundTrip.vatoms d a p s r | fence u r s => exact RoundTrip.fence u r s | barInit b e => exact RoundTrip.barInit b e
  | barExpect b e => exact RoundTrip.barExpect b e | barArrive b p o => exact RoundTrip.barArrive b p o
  | barArriveExp b e p o => exact RoundTrip.barArriveExp b e p o | barWait b e p o => exact RoundTrip.barWait b e p o
  | barTest b e p o => exact RoundTrip.barTest b e p o | barPhase b e => exact RoundTrip.barPhase b e | waitc l s y t => exact RoundTrip.waitc l s y t
  | vbank m s => exact RoundTrip.vbank m s | pbank f n s => exact RoundTrip.pbank f n s | eacq => exact RoundTrip.eacq
  | eacqTry c => exact RoundTrip.eacqTry c | erel => exact RoundTrip.erel | cpG2s d q => exact RoundTrip.cpG2s d q
  | cpS2g d q => exact RoundTrip.cpS2g d q | cpG2a d q => exact RoundTrip.cpG2a d q | cpG2w d q => exact RoundTrip.cpG2w d q
  | cpX2g d q => exact RoundTrip.cpX2g d q | cpG2g d q => exact RoundTrip.cpG2g d q | cpCirc d q => exact RoundTrip.cpCirc d q
  | gth d q => exact RoundTrip.gth d q | qfence m => exact RoundTrip.qfence m | cbWait d a => exact RoundTrip.cbWait d a
  | cbFree a => exact RoundTrip.cbFree a | launch d => exact RoundTrip.launch d | launchTry d c => exact RoundTrip.launchTry d c
  | join a => exact RoundTrip.join a | joinAll => exact RoundTrip.joinAll | joinDoor a => exact RoundTrip.joinDoor a
  | amsg d => exact RoundTrip.amsg d | xcfg p n x => exact RoundTrip.xcfg p n x | xlds p r f => exact RoundTrip.xlds p r f
  | xswp r => exact RoundTrip.xswp r | xmm p r f a i => exact RoundTrip.xmm p r f a i | xbmm p r f i => exact RoundTrip.xbmm p r f i
  | xscac p a => exact RoundTrip.xscac p a | xdrn p => exact RoundTrip.xdrn p | xrel p x => exact RoundTrip.xrel p x | eret => exact RoundTrip.eret
  | mfsys d n => exact RoundTrip.mfsys d n | mtsys a n => exact RoundTrip.mtsys a n | tlbinvVa a => exact RoundTrip.tlbinvVa a
  | tlbinvAsid a => exact RoundTrip.tlbinvAsid a | tlbinvAll => exact RoundTrip.tlbinvAll | seatctlEvack a => exact RoundTrip.seatctlEvack a
  | seatctlKill a => exact RoundTrip.seatctlKill a | seatctlYield a => exact RoundTrip.seatctlYield a | halt a => exact RoundTrip.halt a
  | _ => exact fun _ _ _ _ h => nomatch h

/-- Settles O52: the round trip of each word is a law of its own, and an event has no word. -/
theorem encodeThenDecode : Obligations.EncodeThenDecode :=
  fun i chain W hw hn he => roundTrip_statement i hw chain hn W he

/-- Settles O51: the decoder reads each of the words. -/
theorem specWordsDecode : Obligations.SpecWordsDecode := by
  unfold Obligations.SpecWordsDecode
  decide

end Sys2Proof.Proofs
end

section
/-! The proofs of the statements about the words themselves: a word that decodes is the encoding of what it decodes to. -/
namespace Sys2Proof.Proofs
open Sys2Proof Sys2Proof.Machine Sys2Proof.Laws

/-! ### A word as its fields -/

theorem fld_lt (W hi lo : Nat) : fld W hi lo < 2 ^ (hi + 1 - lo) := Nat.mod_lt _ (Nat.two_pow_pos _)
/-- A field stands whole in a register number or a literal at least as wide. -/
@[simp] theorem fld_mod {W hi lo n : Nat} (h : 2 ^ (hi + 1 - lo) ≤ n) : fld W hi lo % n = fld W hi lo :=
  Nat.mod_eq_of_lt ((fld_lt W hi lo).trans_le h)
theorem fld_one_bit (W hi lo : Nat) (h : hi + 1 - lo = 1) : fld W hi lo = 0 ∨ fld W hi lo = 1 := by
  have hf := fld_lt W hi lo
  rw [h] at hf
  omega
theorem fld_two_bits (W hi lo : Nat) (h : hi + 1 - lo = 2) :
    fld W hi lo = 0 ∨ fld W hi lo = 1 ∨ fld W hi lo = 2 ∨ fld W hi lo = 3 := by
  have hf := fld_lt W hi lo
  rw [h] at hf
  omega
/-- A field of one bit is the bit of the Boolean read from it. -/
@[simp] theorem bit_fld (W k : Nat) : bit (fld W k k == 1) = fld W k k := by
  rcases fld_one_bit W k k (Nat.add_sub_cancel_left k 1) with h | h <;> rw [h] <;> rfl

/-- The fields of a word, highest first, each by its highest and lowest bit, as the tables of R181 write them. -/
abbrev WordFormat := List (Nat × Nat)
/-- The fields stand without a gap from bit `n - 1` down to bit 0. -/
def WordFormat.tiles : Nat → WordFormat → Bool
  | n, [] => n == 0
  | n, (hi, lo) :: l => n == hi + 1 && lo ≤ hi && tiles lo l
/-- What the fields of `W` add up to, each at its place. -/
@[simp] def WordFormat.joined (W : Nat) : WordFormat → Nat
  | [] => 0
  | (hi, lo) :: l => fld W hi lo * 2 ^ lo + joined W l
/-- Fields without a gap hold every bit from the first down. -/
theorem WordFormat.joined_eq {W : Nat} {l : WordFormat} {n : Nat} (h : tiles n l = true) : joined W l = W % 2 ^ n := by
  induction l generalizing n with
  | nil =>
    rw [tiles, beq_iff_eq] at h
    rw [h, joined, Nat.pow_zero, Nat.mod_one]
  | cons f l ih =>
    obtain ⟨hi, lo⟩ := f
    simp only [tiles, Bool.and_eq_true, beq_iff_eq, decide_eq_true_eq] at h
    obtain ⟨⟨rfl, hle⟩, ht⟩ := h
    calc fld W hi lo * 2 ^ lo + joined W l
      _ = W % 2 ^ lo + 2 ^ lo * (W / 2 ^ lo % 2 ^ (hi + 1 - lo)) := by rw [ih ht, fld, Nat.mul_comm, Nat.add_comm]
      _ = W % 2 ^ (hi + 1) := by rw [← Nat.mod_mul, ← Nat.pow_add, Nat.add_sub_cancel' (by omega)]

/-! The bodies of R181 whose words divide no field further. -/

abbrev WordFormat.N : WordFormat := [(23, 0)]
abbrev WordFormat.SR : WordFormat := [(23, 18), (17, 12), (11, 6), (5, 0)]
abbrev WordFormat.SI : WordFormat := [(23, 18), (17, 12), (11, 0)]
abbrev WordFormat.SW : WordFormat := [(23, 18), (17, 0)]
abbrev WordFormat.VR : WordFormat := [(23, 17), (16, 10), (9, 2), (1, 0)]
abbrev WordFormat.VI : WordFormat := [(23, 17), (16, 10), (9, 0)]
abbrev WordFormat.VC : WordFormat := [(23, 21), (20, 14), (13, 6), (5, 2), (1, 0)]
abbrev WordFormat.VS : WordFormat := [(23, 17), (16, 10), (9, 3), (2, 0)]
abbrev WordFormat.BR : WordFormat := [(23, 21), (20, 19), (18, 0)]
abbrev WordFormat.MV : WordFormat := [(23, 17), (16, 11), (10, 4), (3, 2), (1, 0)]
abbrev WordFormat.MS : WordFormat := [(23, 18), (17, 12), (11, 0)]
abbrev WordFormat.AT : WordFormat := [(23, 17), (16, 10), (9, 6), (5, 3), (2, 1), (0, 0)]
abbrev WordFormat.BA : WordFormat := [(23, 18), (17, 12), (11, 9), (8, 8), (7, 4), (3, 0)]
abbrev WordFormat.AQ : WordFormat := [(23, 18), (17, 15), (14, 10), (9, 0)]
abbrev WordFormat.XM : WordFormat := [(23, 17), (16, 15), (14, 10), (9, 0)]
abbrev WordFormat.SG : WordFormat := [(23, 18), (17, 12), (11, 8), (7, 5), (4, 3), (2, 0)]
abbrev WordFormat.SY : WordFormat := [(23, 18), (17, 6), (5, 0)]

/-! ### A name that a code stands for has that code -/

theorem width_code {n : Nat} {x : Width} (h : Width.ofCode n = some x) : x.code = n := by
  unfold Width.ofCode at h
  split at h <;> cases h <;> rfl
theorem hint_code {n : Nat} {x : Hint} (h : Hint.ofCode n = some x) : x.code = n := by
  unfold Hint.ofCode at h
  split at h <;> cases h <;> rfl
theorem rMode_code {n : Nat} {x : RMode} (h : RMode.ofCode n = some x) : x.code = n := by
  unfold RMode.ofCode at h
  split at h <;> cases h <;> rfl
theorem scope_code {n : Nat} {x : Scope} (h : Scope.ofCode n = some x) : x.code = n := by
  unfold Scope.ofCode at h
  split at h <;> cases h <;> rfl
theorem ord_code {n : Nat} {x : Ord} (h : Ord.ofCode n = some x) : x.code = n := by
  unfold Ord.ofCode at h
  split at h <;> cases h <;> rfl
theorem fOrd_code {n : Nat} {x : FOrd} (h : FOrd.ofCode n = some x) : x.code = n := by
  unfold FOrd.ofCode at h
  split at h <;> cases h <;> rfl
theorem aOp_code {n : Nat} {x : AOp} (h : AOp.ofCode n = some x) : x.code = n := by
  unfold AOp.ofCode at h
  split at h <;> cases h <;> rfl
theorem redOp_code {n : Nat} {x : RedOp} (h : RedOp.ofCode n = some x) : x.code = n := by
  unfold RedOp.ofCode at h
  split at h <;> cases h <;> rfl
theorem modOp_code {n : Nat} {x : ModOp} (h : ModOp.ofCode n = some x) : x.code = n := by
  unfold ModOp.ofCode at h
  split at h <;> cases h <;> rfl
theorem iCmp_code {n : Nat} {x : ICmp} (h : ICmp.ofCode n = some x) : x.code = n := by
  unfold ICmp.ofCode at h
  split at h <;> cases h <;> rfl
theorem fCmp_code {n : Nat} {x : FCmp} (h : FCmp.ofCode n = some x) : x.code = n := by
  unfold FCmp.ofCode at h
  split at h <;> cases h <;> rfl
theorem armCmp_code {n : Nat} {x : ArmCmp} (h : ArmCmp.ofCode n = some x) : x.code = n := by
  unfold ArmCmp.ofCode at h
  split at h <;> cases h <;> rfl
theorem foldOp_code {n : Nat} {x : FoldOp} (h : FoldOp.ofCode n = some x) : x.code = n := by
  unfold FoldOp.ofCode at h
  split at h <;> cases h <;> rfl
theorem scanOp_code {n : Nat} {x : ScanOp} (h : ScanOp.ofCode n = some x) : x.code = n := by
  unfold ScanOp.ofCode at h
  split at h <;> cases h <;> rfl
theorem extW_code {n : Nat} {x : ExtW} (h : ExtW.ofCode n = some x) : x.code = n := by
  unfold ExtW.ofCode at h
  split at h <;> cases h <;> rfl
theorem insW_code {n : Nat} {x : InsW} (h : InsW.ofCode n = some x) : x.code = n := by
  unfold InsW.ofCode at h
  split at h <;> cases h <;> rfl
theorem cvtT_code {n : Nat} {x : CvtT} (h : CvtT.ofCode n = some x) : x.code = n := by
  unfold CvtT.ofCode at h
  split at h <;> cases h <;> rfl
theorem packW_code {n : Nat} {x : PackW} (h : PackW.ofCode n = some x) : x.code = n := by
  unfold PackW.ofCode at h
  split at h <;> cases h <;> rfl
theorem fmt_code {n : Nat} {x : Fmt} (h : Fmt.ofCode n = some x) : x.code = n := by
  unfold Fmt.ofCode at h
  split at h <;> cases h <;> rfl
theorem tKind_code {n : Nat} {x : TKind} (h : TKind.ofCode n = some x) : x.code = n := by
  unfold TKind.ofCode at h
  split at h <;> cases h <;> rfl
theorem bankCode_code {n : Nat} {x : BankCode} (h : BankCode.ofCode n = some x) : x.code = n := by
  unfold BankCode.ofCode at h
  split at h <;> cases h <;> rfl
theorem bSel_code {n : Nat} {x : BSel} (h : BSel.ofCode n = some x) : x.code = n := by
  unfold BSel.ofCode at h
  split at h
  · cases h
    exact Nat.mod_eq_of_lt ‹_›
  split at h
  · cases h
    simp only [BSel.code, Fin.val_ofNat]
    omega
  split at h
  · cases h
    simp only [BSel.code, BitVec.toNat_ofNat]
    omega
  split at h
  · cases h
    exact Eq.symm ‹_›
  · cases h
theorem queueOf_code {n : Nat} {q : Fin 6} (h : queueOf n = some q) : q.val = n := by
  unfold queueOf at h
  split at h
  · cases h
    exact Nat.mod_eq_of_lt ‹_›
  · cases h

/-! ### The fields that R59, R209 and R273 restrict -/

theorem cReg_ne_seven {n : Nat} (h : n < 8) (h7 : ¬n = 7) : decide ((Fin.ofNat 8 n : CReg) ≠ 7) = true :=
  decide_eq_true fun he => h7 ((Nat.mod_eq_of_lt h).symm.trans (congrArg Fin.val he))
theorem nestCount_inner {n : Nat} (h : n < 256) (hn : ¬(n = 0 ∨ n = 255)) :
    decide (1 ≤ (Fin.ofNat 256 n).val ∧ (Fin.ofNat 256 n).val ≤ 254) = true := by
  rw [Fin.val_ofNat, Nat.mod_eq_of_lt h]
  exact decide_eq_true (by omega)
theorem mask_ne_zero {n : Nat} (h : n < 256) (hn : ¬n = 0) : decide (BitVec.ofNat 8 n ≠ 0) = true :=
  decide_eq_true fun he => hn ((Nat.mod_eq_of_lt h).symm.trans (congrArg BitVec.toNat he))

/-! ### What a decoder's answer may be -/

/-- An instruction that is answered for `W` is well formed, and its encoding is the body and major of `W`. -/
def Faithful (W : Nat) (r : Except Nat Instr) : Prop := ∀ i, r = .ok i → encodeBody i = some (W % 2 ^ 31) ∧ i.wellFormed = true

section Answers
variable {W c n : Nat} {i : Instr} {k : Except Nat Instr}
theorem wellFormed_of (h7 : i.noC7 = true) (hl : i.limits = true) (hf : i.fields = true) : i.wellFormed = true := by
  rw [Instr.wellFormed, h7, hl, hf]; rfl
theorem Faithful.error : Faithful W (.error c) := nofun
/-- An instruction answered, its word with the body `l`: the sum that its encoding writes is that of the fields of `l` and the major. -/
theorem Faithful.ok (l : WordFormat) (ht : WordFormat.tiles 31 ((30, 24) :: l) = true) (hw : i.wellFormed = true) (he : encodeBody i = some n)
    (hn : n = WordFormat.joined W ((30, 24) :: l)) : Faithful W (.ok i) := by
  rintro _ ⟨⟩
  exact ⟨by rw [he, hn, WordFormat.joined_eq ht], hw⟩
/-- An instruction whose register limits are judged last. -/
theorem Faithful.legal (l : WordFormat) (ht : WordFormat.tiles 31 ((30, 24) :: l) = true) (h7 : i.noC7 = true) (hf : i.fields = true)
    (he : encodeBody i = some n) (hn : n = WordFormat.joined W ((30, 24) :: l)) : Faithful W (legal i) := by
  unfold Sys2Proof.legal
  split
  next hl => exact .ok l ht (wellFormed_of h7 hl hf) he hn
  · exact .error
theorem Faithful.when {p : Prop} [Decidable p] (h : ¬p → Faithful W k) : Faithful W (when p c k) := by
  unfold Sys2Proof.when
  split
  · exact .error
  · exact h ‹_›
/-- A reserved field (R181): only a word in which it is zero is answered. -/
theorem Faithful.zero {x : Nat} (h : x = 0 → Faithful W k) : Faithful W (Sys2Proof.when (x ≠ 0) c k) := .when fun hx => h (not_not.1 hx)
theorem Faithful.need {α : Type} {ofCode : Nat → Option α} {code : α → Nat} {k : α → Except Nat Instr}
    (hc : ∀ {n x}, ofCode n = some x → code x = n) (h : ∀ x, code x = n → Faithful W (k x)) : Faithful W (need (ofCode n) c k) := by
  unfold Sys2Proof.need
  split
  · exact .error
  · exact h _ (hc ‹_›)
end Answers

/-! ### The majors (R183) -/

section Majors
variable {W : Nat}
theorem dec00_faithful (hm : fld W 30 24 = 0x00) : Faithful W (dec00 W) := .zero fun _ => .zero fun _ => .ok .N rfl rfl rfl (by simp +arith [*])
theorem dec01_faithful (hm : fld W 30 24 = 0x01) : Faithful W (dec01 W) := by
  unfold dec01
  split
  case h_19 => exact .error
  all_goals exact .ok .SR rfl rfl rfl (by simp +arith [*])
theorem dec02_faithful (hm : fld W 30 24 = 0x02) : Faithful W (dec02 W) := .ok .SI rfl rfl rfl (by simp +arith [*])
theorem dec03_faithful (hm : fld W 30 24 = 0x03) : Faithful W (dec03 W) := .ok .SI rfl rfl rfl (by simp +arith [*])
theorem dec04_faithful (hm : fld W 30 24 = 0x04) : Faithful W (dec04 W) := .ok .SI rfl rfl rfl (by simp +arith [*])
theorem dec05_faithful (hm : fld W 30 24 = 0x05) : Faithful W (dec05 W) := .ok .SI rfl rfl rfl (by simp +arith [*])
theorem dec06_faithful (hm : fld W 30 24 = 0x06) : Faithful W (dec06 W) := by
  unfold dec06
  split
  case h_4 => exact .error
  all_goals exact .zero fun _ => .ok [(23, 18), (17, 12), (11, 8), (7, 6), (5, 0)] rfl rfl rfl (by simp +arith [*])
theorem dec07_faithful (hm : fld W 30 24 = 0x07) : Faithful W (dec07 W) := .ok .SW rfl rfl rfl (by simp +arith [*])
theorem dec08_faithful (hm : fld W 30 24 = 0x08) : Faithful W (dec08 W) := by
  unfold dec08
  rcases fld_two_bits W 1 0 rfl with h | h | h | h <;> rw [h]
  all_goals exact .zero fun _ => .ok [(23, 18), (17, 2), (1, 0)] rfl rfl rfl (by simp +arith [*])
theorem dec09_faithful (hm : fld W 30 24 = 0x09) : Faithful W (dec09 W) := by
  unfold dec09
  split
  · exact .ok .SY rfl rfl rfl (by simp +arith [*])
  · exact .error
theorem dec0A_faithful (hm : fld W 30 24 = 0x0A) : Faithful W (dec0A W) := by
  unfold dec0A
  split
  case h_4 => exact .error
  all_goals exact .ok .SY rfl rfl rfl (by simp +arith [*])
theorem dec0B_faithful (hm : fld W 30 24 = 0x0B) : Faithful W (dec0B W) := by
  unfold dec0B
  split
  case h_7 => exact .error
  all_goals
    exact .when fun h8 => .when fun h7 =>
      .ok .SR rfl (wellFormed_of (cReg_ne_seven (Nat.lt_of_not_le h8) h7) rfl rfl) rfl (by simp +arith [*, Nat.mod_eq_of_lt (Nat.lt_of_not_le h8)])
theorem dec0C_faithful (hm : fld W 30 24 = 0x0C) : Faithful W (dec0C W) := by
  unfold dec0C
  split
  · exact .need extW_code fun _ _ => .zero fun _ => .zero fun _ =>
      .legal [(23, 18), (17, 17), (16, 10), (9, 8), (7, 6), (5, 5), (4, 0)] rfl rfl rfl rfl (by simp +arith [*])
  · exact .need extW_code fun _ _ => .zero fun _ => .zero fun _ =>
      .legal [(23, 18), (17, 17), (16, 10), (9, 8), (7, 6), (5, 0)] rfl rfl rfl rfl (by simp +arith [*])
  · exact .need extW_code fun _ _ => .zero fun _ => .zero fun _ =>
      .legal [(23, 18), (17, 17), (16, 10), (9, 8), (7, 6), (5, 0)] rfl rfl rfl rfl (by simp +arith [*])
  · exact .error
theorem dec0D_faithful (hm : fld W 30 24 = 0x0D) : Faithful W (dec0D W) := by
  unfold dec0D
  split
  · exact .need insW_code fun _ _ => .zero fun _ => .zero fun _ =>
      .legal [(23, 17), (16, 11), (10, 10), (9, 8), (7, 6), (5, 5), (4, 0)] rfl rfl rfl rfl (by simp +arith [*])
  · exact .need insW_code fun _ _ => .zero fun _ => .zero fun _ =>
      .legal [(23, 17), (16, 11), (10, 10), (9, 8), (7, 6), (5, 0)] rfl rfl rfl rfl (by simp +arith [*])
  · exact .error
theorem dec10_faithful (hm : fld W 30 24 = 0x10) : Faithful W (dec10 W) := by
  unfold dec10
  split
  case h_4 => exact .error
  all_goals exact .need bSel_code fun _ _ => .ok .VR rfl rfl rfl (by simp +arith [*])
theorem dec11_faithful (hm : fld W 30 24 = 0x11) : Faithful W (dec11 W) := by
  unfold dec11
  split
  case h_4 => exact .error
  all_goals exact .need bSel_code fun _ _ => .ok .VR rfl rfl rfl (by simp +arith [*])
theorem dec12_faithful (hm : fld W 30 24 = 0x12) : Faithful W (dec12 W) := by
  unfold dec12
  split
  case h_4 => exact .error
  all_goals exact .need bSel_code fun _ _ => .ok .VR rfl rfl rfl (by simp +arith [*])
theorem dec13_faithful (hm : fld W 30 24 = 0x13) : Faithful W (dec13 W) := by
  unfold dec13
  split
  case h_3 => exact .error
  all_goals exact .need bSel_code fun _ _ => .ok .VR rfl rfl rfl (by simp +arith [*])
theorem dec14_faithful (hm : fld W 30 24 = 0x14) : Faithful W (dec14 W) := by
  unfold dec14
  split
  case h_3 => exact .error
  all_goals exact .need bSel_code fun _ _ => .ok .VR rfl rfl rfl (by simp +arith [*])
theorem dec15_faithful (hm : fld W 30 24 = 0x15) : Faithful W (dec15 W) := by
  unfold dec15
  rcases fld_two_bits W 1 0 rfl with h | h | h | h <;> rw [h]
  all_goals exact .need bSel_code fun _ _ => .ok .VR rfl rfl rfl (by simp +arith [*])
theorem dec16_faithful (hm : fld W 30 24 = 0x16) : Faithful W (dec16 W) := by
  unfold dec16
  rcases fld_two_bits W 1 0 rfl with h | h | h | h <;> rw [h]
  all_goals exact .need bSel_code fun _ _ => .ok .VR rfl rfl rfl (by simp +arith [*])
theorem dec17_faithful (hm : fld W 30 24 = 0x17) : Faithful W (dec17 W) := by
  unfold dec17
  split
  · exact .need bSel_code fun _ _ => .ok .VR rfl rfl rfl (by simp +arith [*])
  · exact .error
theorem dec18_faithful (hm : fld W 30 24 = 0x18) : Faithful W (dec18 W) := by
  unfold dec18
  rcases fld_two_bits W 1 0 rfl with h | h | h | h <;> rw [h]
  all_goals exact .zero fun _ => .ok .VR rfl rfl rfl (by simp +arith [*])
theorem dec19_faithful (hm : fld W 30 24 = 0x19) : Faithful W (dec19 W) := by
  unfold dec19
  split
  · exact .need bSel_code fun _ _ => .ok .VR rfl rfl rfl (by simp +arith [*])
  · exact .error
theorem dec1A_faithful (hm : fld W 30 24 = 0x1A) : Faithful W (dec1A W) := by
  unfold dec1A
  split
  · exact .need bSel_code fun _ _ => .ok .VR rfl rfl rfl (by simp +arith [*])
  · exact .error
theorem dec1B_faithful (hm : fld W 30 24 = 0x1B) : Faithful W (dec1B W) := by
  unfold dec1B
  split
  · exact .need bSel_code fun _ _ => .ok .VR rfl rfl rfl (by simp +arith [*])
  · exact .error
theorem dec1C_faithful (hm : fld W 30 24 = 0x1C) : Faithful W (dec1C W) := .ok .VI rfl rfl rfl (by simp +arith [*])
theorem dec1D_faithful (hm : fld W 30 24 = 0x1D) : Faithful W (dec1D W) := by
  unfold dec1D
  split
  · exact .need iCmp_code fun _ _ => .when fun h7 => .need bSel_code fun _ _ =>
      .ok .VC rfl (wellFormed_of (cReg_ne_seven (fld_lt W 23 21) h7) rfl rfl) rfl (by simp +arith [*])
  · exact .error
theorem dec1E_faithful (hm : fld W 30 24 = 0x1E) : Faithful W (dec1E W) := .ok .VS rfl rfl rfl (by simp +arith [*])
theorem dec1F_faithful (hm : fld W 30 24 = 0x1F) : Faithful W (dec1F W) := by
  have hd := fld_lt W 23 17
  have hh := fld_lt W 16 10
  have hl := fld_lt W 7 0
  unfold dec1F
  split
  · rcases fld_one_bit W 0 0 rfl with h | h <;> rw [h]
    · exact .zero fun _ => .ok [(23, 17), (16, 10), (9, 8), (7, 1), (0, 0)] rfl rfl rfl (by simp +arith [*])
    · exact .zero fun _ => .legal [(23, 17), (16, 10), (9, 8), (7, 1), (0, 0)] rfl rfl rfl rfl (by simp +arith [*])
  · refine .ok [(23, 17), (16, 10), (9, 8), (7, 0)] rfl rfl rfl ?_
    simp only [WordFormat.joined, Fin.val_ofNat, BitVec.toNat_ofNat]
    omega
  · exact .zero fun _ => .zero fun _ => .ok [(23, 17), (16, 10), (9, 8), (7, 0)] rfl rfl rfl (by simp +arith [*])
  · exact .error
theorem dec20_faithful (hm : fld W 30 24 = 0x20) : Faithful W (dec20 W) :=
  .need rMode_code fun _ _ => .need bSel_code fun _ _ => .ok .VR rfl rfl rfl (by simp +arith [*])
theorem dec21_faithful (hm : fld W 30 24 = 0x21) : Faithful W (dec21 W) :=
  .need rMode_code fun _ _ => .need bSel_code fun _ _ => .ok .VR rfl rfl rfl (by simp +arith [*])
theorem dec22_faithful (hm : fld W 30 24 = 0x22) : Faithful W (dec22 W) :=
  .need rMode_code fun _ _ => .need bSel_code fun _ _ => .ok .VR rfl rfl rfl (by simp +arith [*])
theorem dec23_faithful (hm : fld W 30 24 = 0x23) : Faithful W (dec23 W) :=
  .need rMode_code fun _ _ => .need bSel_code fun _ _ => .ok .VR rfl rfl rfl (by simp +arith [*])
theorem dec24_faithful (hm : fld W 30 24 = 0x24) : Faithful W (dec24 W) :=
  .need rMode_code fun _ _ => .need bSel_code fun _ _ => .ok .VR rfl rfl rfl (by simp +arith [*])
theorem dec25_faithful (hm : fld W 30 24 = 0x25) : Faithful W (dec25 W) := by
  unfold dec25
  rcases fld_two_bits W 1 0 rfl with h | h | h | h <;> rw [h]
  all_goals exact .need bSel_code fun _ _ => .ok .VR rfl rfl rfl (by simp +arith [*])
theorem dec26_faithful (hm : fld W 30 24 = 0x26) : Faithful W (dec26 W) := by
  unfold dec26
  split
  · exact .need fCmp_code fun _ _ => .when fun h7 => .need bSel_code fun _ _ =>
      .ok .VC rfl (wellFormed_of (cReg_ne_seven (fld_lt W 23 21) h7) rfl rfl) rfl (by simp +arith [*])
  · exact .error
theorem dec27_faithful (hm : fld W 30 24 = 0x27) : Faithful W (dec27 W) :=
  .need rMode_code fun _ _ => .need bSel_code fun _ _ => .ok .VR rfl rfl rfl (by simp +arith [*])
theorem dec28_faithful (hm : fld W 30 24 = 0x28) : Faithful W (dec28 W) := by
  unfold dec28
  split
  case h_6 => exact .error
  all_goals exact .zero fun _ => .ok [(23, 17), (16, 10), (9, 3), (2, 0)] rfl rfl rfl (by simp +arith [*])
theorem dec29_faithful (hm : fld W 30 24 = 0x29) : Faithful W (dec29 W) := by
  unfold dec29
  split
  · exact .zero fun _ => .ok .VR rfl rfl rfl (by simp +arith [*])
  · exact .zero fun _ => .ok .VR rfl rfl rfl (by simp +arith [*])
  · exact .need bSel_code fun _ _ => .ok .VR rfl rfl rfl (by simp +arith [*])
  · exact .error
theorem dec2A_faithful (hm : fld W 30 24 = 0x2A) : Faithful W (dec2A W) := by
  unfold dec2A
  rcases fld_two_bits W 1 0 rfl with h | h | h | h <;> rw [h]
  all_goals exact .need bSel_code fun _ _ => .legal .VR rfl rfl rfl rfl (by simp +arith [*])
theorem dec2B_faithful (hm : fld W 30 24 = 0x2B) : Faithful W (dec2B W) :=
  .need rMode_code fun _ _ => .need bSel_code fun _ _ => .legal .VR rfl rfl rfl rfl (by simp +arith [*])
theorem dec2C_faithful (hm : fld W 30 24 = 0x2C) : Faithful W (dec2C W) := by
  unfold dec2C
  split
  · exact .need fCmp_code fun _ _ => .when fun h7 => .need bSel_code fun _ _ =>
      .legal .VC rfl (cReg_ne_seven (fld_lt W 23 21) h7) rfl rfl (by simp +arith [*])
  · exact .error
theorem dec2D_faithful (hm : fld W 30 24 = 0x2D) : Faithful W (dec2D W) := by
  unfold dec2D
  split
  · exact .zero fun _ => .legal [(23, 17), (16, 10), (9, 3), (2, 0)] rfl rfl rfl rfl (by simp +arith [*])
  · exact .error
theorem dec2E_faithful (hm : fld W 30 24 = 0x2E) : Faithful W (dec2E W) := by
  unfold dec2E
  rcases fld_one_bit W 0 0 rfl with h | h <;> rw [h]
  all_goals exact .need bSel_code fun _ _ => .ok [(23, 17), (16, 10), (9, 2), (1, 1), (0, 0)] rfl rfl rfl (by simp +arith [*])
theorem dec2F_faithful (hm : fld W 30 24 = 0x2F) : Faithful W (dec2F W) := by
  unfold dec2F
  split
  · exact .need bSel_code fun _ _ => .ok [(23, 17), (16, 10), (9, 2), (1, 1), (0, 0)] rfl rfl rfl (by simp +arith [*])
  · exact .error
theorem dec30_faithful (hm : fld W 30 24 = 0x30) : Faithful W (dec30 W) :=
  .need cvtT_code fun _ _ => .need cvtT_code fun _ _ => .need rMode_code fun _ _ => .when fun h =>
    .legal [(23, 17), (16, 10), (9, 6), (5, 2), (1, 0)] rfl rfl (decide_eq_true (not_or.1 h)) rfl (by simp +arith [*])
theorem dec31_faithful (hm : fld W 30 24 = 0x31) : Faithful W (dec31 W) := by
  unfold dec31
  rcases fld_two_bits W 1 0 rfl with h | h | h | h <;> rw [h]
  all_goals exact .need bSel_code fun _ _ => .ok .VR rfl rfl rfl (by simp +arith [*])
theorem dec32_faithful (hm : fld W 30 24 = 0x32) : Faithful W (dec32 W) := by
  unfold dec32
  rcases fld_one_bit W 9 9 rfl with h | h <;> rw [h]
  · exact .need packW_code fun _ _ => .zero fun _ => .legal [(23, 17), (16, 10), (9, 9), (8, 7), (6, 0)] rfl rfl rfl rfl (by simp +arith [*])
  rcases fld_one_bit W 6 6 rfl with h | h <;> rw [h]
  all_goals
    exact .need packW_code fun _ _ => .zero fun _ =>
      .legal [(23, 17), (16, 10), (9, 9), (8, 7), (6, 6), (5, 0)] rfl rfl rfl rfl (by simp +arith [*])
theorem dec34_faithful (hm : fld W 30 24 = 0x34) : Faithful W (dec34 W) :=
  .zero fun _ => .ok [(23, 17), (16, 3), (2, 0)] rfl rfl rfl (by simp +arith [*])
theorem dec35_faithful (hm : fld W 30 24 = 0x35) : Faithful W (dec35 W) := by
  unfold dec35
  rcases fld_one_bit W 3 3 rfl with h | h <;> rw [h]
  all_goals exact .zero fun _ => .ok [(23, 17), (16, 4), (3, 3), (2, 0)] rfl rfl rfl (by simp +arith [*])
theorem dec36_faithful (hm : fld W 30 24 = 0x36) : Faithful W (dec36 W) := by
  unfold dec36
  rcases fld_two_bits W 1 0 rfl with h | h | h | h <;> rw [h]
  all_goals exact .need bSel_code fun _ _ => .ok .VR rfl rfl rfl (by simp +arith [*])
theorem dec37_faithful (hm : fld W 30 24 = 0x37) : Faithful W (dec37 W) :=
  .need foldOp_code fun _ _ => .zero fun _ => .zero fun _ => .ok [(23, 18), (17, 17), (16, 10), (9, 4), (3, 0)] rfl rfl rfl (by simp +arith [*])
theorem dec38_faithful (hm : fld W 30 24 = 0x38) : Faithful W (dec38 W) :=
  .need scanOp_code fun _ _ => .zero fun _ => .ok [(23, 17), (16, 10), (9, 5), (4, 4), (3, 0)] rfl rfl rfl (by simp +arith [*])
theorem dec39_faithful (hm : fld W 30 24 = 0x39) : Faithful W (dec39 W) :=
  .zero fun _ => .when fun h7 =>
    .legal [(23, 17), (16, 13), (12, 10), (9, 8), (7, 0)] rfl (cReg_ne_seven (fld_lt W 12 10) h7) rfl rfl (by simp +arith [*])
theorem dec3A_faithful (hm : fld W 30 24 = 0x3A) : Faithful W (dec3A W) := by
  unfold dec3A
  split
  · exact .zero fun _ => .legal [(23, 18), (17, 12), (11, 8), (7, 0)] rfl rfl rfl rfl (by simp +arith [*])
  · exact .error
theorem dec3B_faithful (hm : fld W 30 24 = 0x3B) : Faithful W (dec3B W) := by
  unfold dec3B
  split
  · exact .zero fun _ => .ok [(23, 18), (17, 12), (11, 8), (7, 0)] rfl rfl rfl (by simp +arith [*])
  · exact .error
theorem dec3C_faithful (hm : fld W 30 24 = 0x3C) : Faithful W (dec3C W) := by
  unfold dec3C
  split
  · exact .zero fun _ => .zero fun _ => .legal [(23, 18), (17, 12), (11, 8), (7, 4), (3, 3), (2, 0)] rfl rfl rfl rfl (by simp +arith [*])
  · exact .error
theorem dec3D_faithful (hm : fld W 30 24 = 0x3D) : Faithful W (dec3D W) :=
  .need modOp_code fun _ _ => .need ord_code fun _ _ => .zero fun _ => .ok .SG rfl rfl rfl (by simp +arith [*])
theorem dec3E_faithful (hm : fld W 30 24 = 0x3E) : Faithful W (dec3E W) :=
  .need armCmp_code fun _ _ => .zero fun _ => .legal [(23, 18), (17, 12), (11, 8), (7, 5), (4, 0)] rfl rfl rfl rfl (by simp +arith [*])
theorem dec3F_faithful (hm : fld W 30 24 = 0x3F) : Faithful W (dec3F W) := by
  unfold dec3F
  split
  · exact .zero fun _ => .ok [(23, 18), (17, 12), (11, 8), (7, 0)] rfl rfl rfl (by simp +arith [*])
  · exact .zero fun _ => .zero fun _ => .ok [(23, 18), (17, 12), (11, 8), (7, 0)] rfl rfl rfl (by simp +arith [*])
  · exact .error
theorem dec40_faithful (hm : fld W 30 24 = 0x40) : Faithful W (dec40 W) := by
  unfold dec40
  rcases fld_two_bits W 20 19 rfl with h | h | h | h <;> rw [h]
  · exact .zero fun _ => .ok .BR rfl rfl rfl (by simp +arith [*])
  · exact .ok .BR rfl rfl rfl (by simp +arith [*])
  · exact .ok .BR rfl rfl rfl (by simp +arith [*])
  · exact .ok .BR rfl rfl rfl (by simp +arith [*])
theorem dec41_faithful (hm : fld W 30 24 = 0x41) : Faithful W (dec41 W) := by
  unfold dec41
  split
  · exact .zero fun _ => .ok .BR rfl rfl rfl (by simp +arith [*])
  · exact .error
theorem dec42_faithful (hm : fld W 30 24 = 0x42) : Faithful W (dec42 W) := by
  unfold dec42
  split
  · exact .zero fun _ => .ok .SR rfl rfl rfl (by simp +arith [*])
  · exact .error
theorem dec43_faithful (hm : fld W 30 24 = 0x43) : Faithful W (dec43 W) :=
  .zero fun _ => .zero fun _ => .ok [(23, 18), (17, 17), (16, 10), (9, 0)] rfl rfl rfl (by simp +arith [*])
theorem dec44_faithful (hm : fld W 30 24 = 0x44) : Faithful W (dec44 W) := .zero fun _ => .ok [(23, 21), (20, 0)] rfl rfl rfl (by simp +arith [*])
theorem dec45_faithful (hm : fld W 30 24 = 0x45) : Faithful W (dec45 W) := .zero fun _ => .ok .N rfl rfl rfl (by simp +arith [*])
theorem dec46_faithful (hm : fld W 30 24 = 0x46) : Faithful W (dec46 W) := .zero fun _ => .ok .N rfl rfl rfl (by simp +arith [*])
theorem dec47_faithful (hm : fld W 30 24 = 0x47) : Faithful W (dec47 W) := .zero fun _ => .ok [(23, 21), (20, 0)] rfl rfl rfl (by simp +arith [*])
theorem dec48_faithful (hm : fld W 30 24 = 0x48) : Faithful W (dec48 W) :=
  .zero fun _ => .when fun h =>
    .ok [(23, 21), (20, 13), (12, 0)] rfl (wellFormed_of rfl rfl (nestCount_inner (fld_lt W 20 13) h)) rfl (by simp +arith [*])
theorem dec49_faithful (hm : fld W 30 24 = 0x49) : Faithful W (dec49 W) := .zero fun _ => .ok .N rfl rfl rfl (by simp +arith [*])
theorem dec4A_faithful (hm : fld W 30 24 = 0x4A) : Faithful W (dec4A W) := .zero fun _ => .ok [(23, 16), (15, 0)] rfl rfl rfl (by simp +arith [*])
theorem dec4B_faithful (hm : fld W 30 24 = 0x4B) : Faithful W (dec4B W) := .zero fun _ => .ok [(23, 16), (15, 0)] rfl rfl rfl (by simp +arith [*])
theorem dec50_faithful (hm : fld W 30 24 = 0x50) : Faithful W (dec50 W) :=
  .need width_code fun _ _ => .need hint_code fun _ _ => .legal .MV rfl rfl rfl rfl (by simp +arith [*])
theorem dec51_faithful (hm : fld W 30 24 = 0x51) : Faithful W (dec51 W) :=
  .need width_code fun _ _ => .need hint_code fun _ _ => .legal .MV rfl rfl rfl rfl (by simp +arith [*])
theorem dec52_faithful (hm : fld W 30 24 = 0x52) : Faithful W (dec52 W) :=
  .need width_code fun _ _ => .need hint_code fun _ _ => .legal .MV rfl rfl rfl rfl (by simp +arith [*])
theorem dec53_faithful (hm : fld W 30 24 = 0x53) : Faithful W (dec53 W) := .ok .MS rfl rfl rfl (by simp +arith [*])
theorem dec54_faithful (hm : fld W 30 24 = 0x54) : Faithful W (dec54 W) := .ok .MS rfl rfl rfl (by simp +arith [*])
theorem dec55_faithful (hm : fld W 30 24 = 0x55) : Faithful W (dec55 W) := .ok .MS rfl rfl rfl (by simp +arith [*])
theorem dec56_faithful (hm : fld W 30 24 = 0x56) : Faithful W (dec56 W) := .ok .MS rfl rfl rfl (by simp +arith [*])
theorem dec57_faithful (hm : fld W 30 24 = 0x57) : Faithful W (dec57 W) :=
  .need width_code fun _ _ => .zero fun _ => .legal .MV rfl rfl rfl rfl (by simp +arith [*])
theorem dec58_faithful (hm : fld W 30 24 = 0x58) : Faithful W (dec58 W) :=
  .need width_code fun _ _ => .zero fun _ => .legal .MV rfl rfl rfl rfl (by simp +arith [*])
theorem dec59_faithful (hm : fld W 30 24 = 0x59) : Faithful W (dec59 W) :=
  .need width_code fun _ _ => .zero fun _ => .legal .MV rfl rfl rfl rfl (by simp +arith [*])
theorem dec5A_faithful (hm : fld W 30 24 = 0x5A) : Faithful W (dec5A W) :=
  .need width_code fun _ _ => .zero fun _ => .legal .MV rfl rfl rfl rfl (by simp +arith [*])
theorem dec5B_faithful (hm : fld W 30 24 = 0x5B) : Faithful W (dec5B W) := by
  unfold dec5B
  split
  · exact .zero fun _ => .legal [(23, 17), (16, 11), (10, 4), (3, 3), (2, 2), (1, 0)] rfl rfl rfl rfl (by simp +arith [*])
  · exact .error
theorem dec60_faithful (hm : fld W 30 24 = 0x60) : Faithful W (dec60 W) :=
  .need aOp_code fun _ _ => .need ord_code fun _ _ => .zero fun _ => .need scope_code fun _ _ => .legal .AT rfl rfl rfl rfl (by simp +arith [*])
theorem dec61_faithful (hm : fld W 30 24 = 0x61) : Faithful W (dec61 W) :=
  .need redOp_code fun _ _ => .need ord_code fun _ _ => .zero fun _ => .need scope_code fun _ _ => .legal .AT rfl rfl rfl rfl (by simp +arith [*])
theorem dec62_faithful (hm : fld W 30 24 = 0x62) : Faithful W (dec62 W) :=
  .need aOp_code fun _ _ => .need ord_code fun _ _ => .ok [(23, 18), (17, 12), (11, 6), (5, 2), (1, 0)] rfl rfl rfl (by simp +arith [*])
theorem dec63_faithful (hm : fld W 30 24 = 0x63) : Faithful W (dec63 W) :=
  .need aOp_code fun _ _ => .need ord_code fun _ _ => .zero fun _ => .need scope_code fun _ _ => .legal .AT rfl rfl rfl rfl (by simp +arith [*])
theorem dec64_faithful (hm : fld W 30 24 = 0x64) : Faithful W (dec64 W) :=
  .need fOrd_code fun _ _ => .zero fun _ => .zero fun _ => .need scope_code fun _ _ =>
    .ok [(23, 9), (8, 8), (7, 6), (5, 3), (2, 0)] rfl rfl rfl (by simp +arith [*])
theorem dec65_faithful (hm : fld W 30 24 = 0x65) : Faithful W (dec65 W) := by
  unfold dec65
  split
  · exact .zero fun _ => .zero fun _ => .ok [(23, 18), (17, 12), (11, 8), (7, 4), (3, 0)] rfl rfl rfl (by simp +arith [*])
  · exact .zero fun _ => .zero fun _ => .ok [(23, 18), (17, 12), (11, 8), (7, 4), (3, 0)] rfl rfl rfl (by simp +arith [*])
  · exact .zero fun _ => .zero fun _ => .need scope_code fun _ _ => .ok .BA rfl rfl rfl (by simp +arith [*])
  · exact .zero fun _ => .need scope_code fun _ _ => .ok .BA rfl rfl rfl (by simp +arith [*])
  · exact .zero fun _ => .need scope_code fun _ _ => .ok .BA rfl rfl rfl (by simp +arith [*])
  · exact .zero fun _ => .need scope_code fun _ _ => .ok .BA rfl rfl rfl (by simp +arith [*])
  · exact .zero fun _ => .zero fun _ => .ok [(23, 18), (17, 12), (11, 8), (7, 4), (3, 0)] rfl rfl rfl (by simp +arith [*])
  · exact .error
theorem dec66_faithful (hm : fld W 30 24 = 0x66) : Faithful W (dec66 W) :=
  .zero fun _ => .ok [(23, 16), (15, 12), (11, 8), (7, 4), (3, 0)] rfl rfl rfl (by simp +arith [*])
theorem dec67_faithful (hm : fld W 30 24 = 0x67) : Faithful W (dec67 W) :=
  .need bankCode_code fun _ _ => .zero fun _ => .ok [(23, 8), (7, 2), (1, 0)] rfl rfl rfl (by simp +arith [*])
theorem dec68_faithful (hm : fld W 30 24 = 0x68) : Faithful W (dec68 W) :=
  .need bankCode_code fun _ _ => .zero fun _ => .ok [(23, 17), (16, 10), (9, 2), (1, 0)] rfl rfl rfl (by simp +arith [*])
theorem dec69_faithful (hm : fld W 30 24 = 0x69) : Faithful W (dec69 W) := by
  unfold dec69
  rcases fld_one_bit W 0 0 rfl with h | h <;> rw [h]
  · exact .zero fun _ => .ok [(23, 1), (0, 0)] rfl rfl rfl (by simp +arith [*])
  · exact .zero fun _ => .when fun h7 =>
      .ok [(23, 21), (20, 1), (0, 0)] rfl (wellFormed_of (cReg_ne_seven (fld_lt W 23 21) h7) rfl rfl) rfl (by simp +arith [*])
theorem dec6A_faithful (hm : fld W 30 24 = 0x6A) : Faithful W (dec6A W) := .zero fun _ => .ok .N rfl rfl rfl (by simp +arith [*])
theorem dec70_faithful (hm : fld W 30 24 = 0x70) : Faithful W (dec70 W) := by
  unfold dec70
  split
  case h_8 => exact .error
  all_goals exact .need queueOf_code fun _ _ => .zero fun _ => .legal .AQ rfl rfl rfl rfl (by simp +arith [*])
theorem dec71_faithful (hm : fld W 30 24 = 0x71) : Faithful W (dec71 W) := by
  unfold dec71
  split
  · exact .need queueOf_code fun _ _ => .zero fun _ => .legal .AQ rfl rfl rfl rfl (by simp +arith [*])
  · exact .error
theorem dec72_faithful (hm : fld W 30 24 = 0x72) : Faithful W (dec72 W) :=
  .zero fun _ => .when fun h => .ok [(23, 8), (7, 0)] rfl (wellFormed_of rfl rfl (mask_ne_zero (fld_lt W 7 0) h)) rfl (by simp +arith [*])
theorem dec73_faithful (hm : fld W 30 24 = 0x73) : Faithful W (dec73 W) := by
  unfold dec73
  split
  · exact .zero fun _ => .ok .SR rfl rfl rfl (by simp +arith [*])
  · exact .zero fun _ => .zero fun _ => .ok .SR rfl rfl rfl (by simp +arith [*])
  · exact .error
theorem dec74_faithful (hm : fld W 30 24 = 0x74) : Faithful W (dec74 W) := by
  unfold dec74
  rcases fld_one_bit W 14 14 rfl with h | h <;> rw [h]
  · exact .zero fun _ => .zero fun _ => .legal [(23, 18), (17, 15), (14, 14), (13, 0)] rfl rfl rfl rfl (by simp +arith [*])
  · exact .zero fun _ => .zero fun _ => .zero fun _ => .when fun h7 =>
      .legal [(23, 18), (17, 15), (14, 14), (13, 13), (12, 10), (9, 0)] rfl (cReg_ne_seven (fld_lt W 12 10) h7) rfl rfl (by simp +arith [*])
theorem dec75_faithful (hm : fld W 30 24 = 0x75) : Faithful W (dec75 W) := by
  unfold dec75
  split
  · exact .zero fun _ => .zero fun _ => .ok .SR rfl rfl rfl (by simp +arith [*])
  · exact .zero fun _ => .ok [(23, 6), (5, 0)] rfl rfl rfl (by simp +arith [*])
  · exact .zero fun _ => .zero fun _ => .ok .SR rfl rfl rfl (by simp +arith [*])
  · exact .error
theorem dec76_faithful (hm : fld W 30 24 = 0x76) : Faithful W (dec76 W) :=
  .zero fun _ => .legal [(23, 18), (17, 0)] rfl rfl rfl rfl (by simp +arith [*])
theorem dec78_faithful (hm : fld W 30 24 = 0x78) : Faithful W (dec78 W) := by
  unfold dec78
  split
  · exact .need tKind_code fun _ _ => .zero fun _ => .zero fun _ =>
      .ok [(23, 17), (16, 15), (14, 12), (11, 10), (9, 1), (0, 0)] rfl rfl rfl (by simp +arith [*])
  · exact .error
theorem dec79_faithful (hm : fld W 30 24 = 0x79) : Faithful W (dec79 W) := by
  unfold dec79
  split
  · exact .need fmt_code fun _ _ => .zero fun _ => .ok [(23, 17), (16, 15), (14, 14), (13, 10), (9, 0)] rfl rfl rfl (by simp +arith [*])
  · exact .error
theorem dec7A_faithful (hm : fld W 30 24 = 0x7A) : Faithful W (dec7A W) := by
  unfold dec7A
  split
  · exact .zero fun _ => .zero fun _ => .ok .XM rfl rfl rfl (by simp +arith [*])
  · exact .error
theorem dec7B_faithful (hm : fld W 30 24 = 0x7B) : Faithful W (dec7B W) := by
  unfold dec7B
  split
  · exact .need fmt_code fun _ _ => .zero fun _ =>
      .ok [(23, 17), (16, 15), (14, 14), (13, 10), (9, 9), (8, 8), (7, 0)] rfl rfl rfl (by simp +arith [*])
  · exact .error
theorem dec7C_faithful (hm : fld W 30 24 = 0x7C) : Faithful W (dec7C W) := by
  unfold dec7C
  split
  · exact .need fmt_code fun _ _ => .zero fun _ => .zero fun _ =>
      .ok [(23, 17), (16, 15), (14, 14), (13, 10), (9, 9), (8, 8), (7, 0)] rfl rfl rfl (by simp +arith [*])
  · exact .error
theorem dec7D_faithful (hm : fld W 30 24 = 0x7D) : Faithful W (dec7D W) := by
  unfold dec7D
  split
  · exact .zero fun _ => .zero fun _ => .ok [(23, 17), (16, 15), (14, 10), (9, 9), (8, 0)] rfl rfl rfl (by simp +arith [*])
  · exact .error
theorem dec7E_faithful (hm : fld W 30 24 = 0x7E) : Faithful W (dec7E W) := by
  unfold dec7E
  split
  · exact .zero fun _ => .zero fun _ => .ok .XM rfl rfl rfl (by simp +arith [*])
  · exact .zero fun _ => .zero fun _ => .ok [(23, 17), (16, 15), (14, 10), (9, 1), (0, 0)] rfl rfl rfl (by simp +arith [*])
  · exact .error
theorem dec7F_faithful (hm : fld W 30 24 = 0x7F) : Faithful W (dec7F W) := by
  unfold dec7F
  split
  · exact .zero fun _ => .ok [(23, 6), (5, 0)] rfl rfl rfl (by simp +arith [*])
  · exact .ok .SY rfl rfl rfl (by simp +arith [*])
  · exact .ok .SY rfl rfl rfl (by simp +arith [*])
  · exact .zero fun _ => .ok .SY rfl rfl rfl (by simp +arith [*])
  · exact .zero fun _ => .ok .SY rfl rfl rfl (by simp +arith [*])
  · exact .zero fun _ => .ok [(23, 6), (5, 0)] rfl rfl rfl (by simp +arith [*])
  · split
    case h_4 => exact .error
    all_goals exact .ok .SY rfl rfl rfl (by simp +arith [*])
  · exact .zero fun _ => .ok .SY rfl rfl rfl (by simp +arith [*])
  · exact .error

/-- Whatever the major, a word that decodes is the encoding of the instruction answered. -/
theorem decodeBody_faithful : Faithful W (decodeBody W) := by
  unfold decodeBody
  split
  exacts [dec00_faithful ‹_›, dec01_faithful ‹_›, dec02_faithful ‹_›, dec03_faithful ‹_›, dec04_faithful ‹_›, dec05_faithful ‹_›, dec06_faithful ‹_›,
    dec07_faithful ‹_›, dec08_faithful ‹_›, dec09_faithful ‹_›, dec0A_faithful ‹_›, dec0B_faithful ‹_›, dec0C_faithful ‹_›, dec0D_faithful ‹_›,
    dec10_faithful ‹_›, dec11_faithful ‹_›, dec12_faithful ‹_›, dec13_faithful ‹_›, dec14_faithful ‹_›, dec15_faithful ‹_›, dec16_faithful ‹_›,
    dec17_faithful ‹_›, dec18_faithful ‹_›, dec19_faithful ‹_›, dec1A_faithful ‹_›, dec1B_faithful ‹_›, dec1C_faithful ‹_›, dec1D_faithful ‹_›,
    dec1E_faithful ‹_›, dec1F_faithful ‹_›, dec20_faithful ‹_›, dec21_faithful ‹_›, dec22_faithful ‹_›, dec23_faithful ‹_›, dec24_faithful ‹_›,
    dec25_faithful ‹_›, dec26_faithful ‹_›, dec27_faithful ‹_›, dec28_faithful ‹_›, dec29_faithful ‹_›, dec2A_faithful ‹_›, dec2B_faithful ‹_›,
    dec2C_faithful ‹_›, dec2D_faithful ‹_›, dec2E_faithful ‹_›, dec2F_faithful ‹_›, dec30_faithful ‹_›, dec31_faithful ‹_›, dec32_faithful ‹_›,
    dec34_faithful ‹_›, dec35_faithful ‹_›, dec36_faithful ‹_›, dec37_faithful ‹_›, dec38_faithful ‹_›, dec39_faithful ‹_›, dec3A_faithful ‹_›,
    dec3B_faithful ‹_›, dec3C_faithful ‹_›, dec3D_faithful ‹_›, dec3E_faithful ‹_›, dec3F_faithful ‹_›, dec40_faithful ‹_›, dec41_faithful ‹_›,
    dec42_faithful ‹_›, dec43_faithful ‹_›, dec44_faithful ‹_›, dec45_faithful ‹_›, dec46_faithful ‹_›, dec47_faithful ‹_›, dec48_faithful ‹_›,
    dec49_faithful ‹_›, dec4A_faithful ‹_›, dec4B_faithful ‹_›, dec50_faithful ‹_›, dec51_faithful ‹_›, dec52_faithful ‹_›, dec53_faithful ‹_›,
    dec54_faithful ‹_›, dec55_faithful ‹_›, dec56_faithful ‹_›, dec57_faithful ‹_›, dec58_faithful ‹_›, dec59_faithful ‹_›, dec5A_faithful ‹_›,
    dec5B_faithful ‹_›, dec60_faithful ‹_›, dec61_faithful ‹_›, dec62_faithful ‹_›, dec63_faithful ‹_›, dec64_faithful ‹_›, dec65_faithful ‹_›,
    dec66_faithful ‹_›, dec67_faithful ‹_›, dec68_faithful ‹_›, dec69_faithful ‹_›, dec6A_faithful ‹_›, dec70_faithful ‹_›, dec71_faithful ‹_›,
    dec72_faithful ‹_›, dec73_faithful ‹_›, dec74_faithful ‹_›, dec75_faithful ‹_›, dec76_faithful ‹_›, dec78_faithful ‹_›, dec79_faithful ‹_›,
    dec7A_faithful ‹_›, dec7B_faithful ‹_›, dec7C_faithful ‹_›, dec7D_faithful ‹_›, dec7E_faithful ‹_›, dec7F_faithful ‹_›, .error]
end Majors

/-- Settles O53: the chain bit is bit 31, and the rest of the word is the encoding of the instruction that its major answers. -/
theorem decodeThenEncode : Obligations.DecodeThenEncode := by
  intro W x hW hx
  unfold decodeWord at hx
  split at hx
  · cases hx
  next i hi =>
    cases hx
    obtain ⟨he, hw⟩ := decodeBody_faithful i hi
    refine ⟨?_, hw⟩
    simp only [encode, he, bit_fld]
    refine congrArg some ?_
    rw [fld]
    omega

end Sys2Proof.Proofs
end

section
/-! The proof of the statement about trap, brk and nop. -/
namespace Sys2Proof.Proofs
open Sys2Proof Sys2Proof.Machine Sys2Proof.Laws

/-! ### trap and brk (R201, R211) -/

section TrapWords
variable {s : State} (hl : s.cur.live = true) (x : BitVec 16)
include hl
/-- A word that names no vector register and has one check, on the state alone, takes that trap or does nothing. -/
theorem runWord_check {i : Instr} {p : State → Bool} {e : TrapReq} (hr : (uses i).rv = []) (hw : (uses i).wv = []) :
    runWord i s (fun t => if p t then .error e else .ok t) = .next (if p s then s.trapWord e else s) := by
  rw [runWord_bare hl hr hw]
  cases p s <;> rfl
theorem trap_next : exec (.trap x) s = .next (if s.anyActive then s.trapWord (trapOf .softwareTrap) else s) :=
  (Laws.exec_trap x s).trans (runWord_check hl (p := State.anyActive) rfl rfl)
theorem brk_next : exec (.brk x) s =
    .next (if s.anyActive && s.srcG.brkctl.getLsbD 0 then s.trapWord (trapOf .breakpoint) else s) :=
  (exec_brk x s).trans (runWord_check hl (p := fun t => t.anyActive && t.srcG.brkctl.getLsbD 0) rfl rfl)
end TrapWords

/-- Settles O24: trap takes its exception by the active lanes, brk by them and EN of %brkctl, and nop does nothing. -/
theorem trapWordsAndNop : Obligations.TrapWordsAndNop := by
  intro s x hl
  refine ⟨fun ha => ?_, fun ha => ?_, fun ha he => ?_, fun h => ?_, (exec_nop s).trans (runPure_bare hl rfl rfl)⟩
  · rw [trap_next hl, if_pos ha]
  · rw [trap_next hl, if_neg (Bool.not_eq_true _ ▸ ha)]
  · rw [brk_next hl, if_pos (Bool.and_eq_true_iff.2 ⟨ha, he⟩)]
  · rw [brk_next hl, if_neg (Bool.not_eq_true _ ▸ Bool.and_eq_false_iff.2 h)]

end Sys2Proof.Proofs
end

section
/-! What the scalar ALU, immediate and compare words write, and how the immediates and compares are encoded (R190-R194, R196). -/
namespace Sys2Proof.Proofs
open Sys2Proof Sys2Proof.Machine Sys2Proof.Laws

/-! ### Values on words of any width -/

section Values
variable {n : Nat} {x y : BitVec n}
theorem add_eq_ofInt : x + y = BitVec.ofInt n (x.toInt + y.toInt) := by
  rw [BitVec.ofInt_add, BitVec.ofInt_toInt, BitVec.ofInt_toInt]
theorem add_ofInt (k : Int) : x + BitVec.ofInt n k = BitVec.ofInt n (x.toInt + k) := by rw [BitVec.ofInt_add, BitVec.ofInt_toInt]
theorem sub_eq_ofInt : x - y = BitVec.ofInt n (x.toInt - y.toInt) :=
  BitVec.eq_of_toInt_eq (by rw [BitVec.toInt_sub, BitVec.toInt_ofInt])
theorem mul_eq_ofInt : x * y = BitVec.ofInt n (x.toInt * y.toInt) := by
  rw [BitVec.ofInt_mul, BitVec.ofInt_toInt, BitVec.ofInt_toInt]
theorem shiftLeft_eq_ofNat (k : Nat) : x <<< k = BitVec.ofNat n (x.toNat * 2 ^ k) :=
  BitVec.eq_of_toNat_eq (by rw [BitVec.toNat_shiftLeft, BitVec.toNat_ofNat, Nat.shiftLeft_eq])
theorem ushiftRight_eq_ofNat (k : Nat) : x >>> k = BitVec.ofNat n (x.toNat / 2 ^ k) := by
  rw [← Nat.shiftRight_eq_div_pow, ← BitVec.toNat_ushiftRight, BitVec.ofNat_toNat, BitVec.setWidth_eq]
theorem sshiftRight_eq_ofInt (k : Nat) : x.sshiftRight k = BitVec.ofInt n (x.toInt / 2 ^ k) := by
  rw [show (2 : Int) ^ k = (2 ^ k : Nat) by push_cast; rfl, ← Int.shiftRight_eq_div_pow, ← BitVec.toInt_sshiftRight, BitVec.ofInt_toInt]
/-- The one chosen under an order, by the order's own relation. -/
theorem pick_eq_ite {less : BitVec n → BitVec n → Bool} {p : Prop} [Decidable p] (h : less y x = true ↔ ¬p) : pick less x y = if p then x else y := by
  rw [pick, ← ite_not p]
  exact if_congr h rfl rfl
end Values

section Flags
variable {b : Bool} {p : Prop} [Decidable p] (h : b = true ↔ p)
include h
theorem flag64_eq_ite : flag64 b = if p then 1 else 0 := if_congr h rfl rfl
theorem allBits_eq_ite : allBits b = if p then BitVec.allOnes 32 else 0 := if_congr h rfl rfl
end Flags

/-! ### Words of one result -/

section Words
variable {s : State} {i : Instr} (hl : s.cur.live = true) (hr : (uses i).rv = []) (hw : (uses i).wv = [])
include hl hr hw
theorem scalar2_next {d a b : SReg} {f : W64 → W64 → W64} {v : W64} (hx : exec i s = scalar2 i d a b f s) (hv : f (s.rS a) (s.rS b) = v) :
    exec i s = .next (s.wS d v) := by rw [hx, scalar2, runPure_bare hl hr hw, hv]
theorem scalar1_next {d a : SReg} {f : W64 → W64} {v : W64} (hx : exec i s = scalar1 i d a f s) (hv : f (s.rS a) = v) :
    exec i s = .next (s.wS d v) := by rw [hx, scalar1, runPure_bare hl hr hw, hv]
theorem scalarCmp_next {d : CReg} {a b : SReg} {f : W64 → W64 → Bool} {p : Prop} [Decidable p] (hx : exec i s = scalarCmp i d a b f s)
    (hp : f (s.rS a) (s.rS b) = true ↔ p) : exec i s = .next (s.wC d (if p then BitVec.allOnes 32 else 0)) := by
  rw [hx, scalarCmp, runPure_bare hl hr hw, allBits_eq_ite hp]
end Words

/-- Settles O1: each word is `scalar2` of an operation whose value is that of the table. -/
theorem scalarAluResults : Obligations.ScalarAluResults := by
  intro s d a b hl x y n
  exact
    ⟨scalar2_next hl rfl rfl (exec_sadd d a b s) add_eq_ofInt, scalar2_next hl rfl rfl (exec_ssub d a b s) sub_eq_ofInt,
     scalar2_next hl rfl rfl (exec_smul d a b s) mul_eq_ofInt, scalar2_next hl rfl rfl (exec_smulhS d a b s) rfl,
     scalar2_next hl rfl rfl (exec_smulhZ d a b s) rfl, scalar2_next hl rfl rfl (exec_sand d a b s) rfl,
     scalar2_next hl rfl rfl (exec_sor d a b s) rfl, scalar2_next hl rfl rfl (exec_sxor d a b s) rfl,
     scalar2_next hl rfl rfl (exec_sshl d a b s) (shiftLeft_eq_ofNat n), scalar2_next hl rfl rfl (exec_sshrZ d a b s) (ushiftRight_eq_ofNat n),
     scalar2_next hl rfl rfl (exec_sshrS d a b s) (sshiftRight_eq_ofInt n),
     scalar2_next hl rfl rfl (exec_sminS d a b s) (pick_eq_ite (BitVec.slt_iff_toInt_lt.trans not_le.symm)),
     scalar2_next hl rfl rfl (exec_smaxS d a b s) (pick_eq_ite (BitVec.slt_iff_toInt_lt.trans not_le.symm)),
     scalar2_next hl rfl rfl (exec_sminZ d a b s) (pick_eq_ite (BitVec.ult_iff_toNat_lt.trans not_le.symm)),
     scalar2_next hl rfl rfl (exec_smaxZ d a b s) (pick_eq_ite (BitVec.ult_iff_toNat_lt.trans not_le.symm)),
     scalar2_next hl rfl rfl (exec_ssltS d a b s) (flag64_eq_ite BitVec.slt_iff_toInt_lt),
     scalar2_next hl rfl rfl (exec_ssltZ d a b s) (flag64_eq_ite BitVec.ult_iff_toNat_lt),
     scalar2_next hl rfl rfl (exec_sseq d a b s) (flag64_eq_ite (beq_iff_eq.trans BitVec.toNat_inj.symm))⟩

/-- A word that writes S[d] alone takes no trap, and with s0 for S[d] it does nothing (R58, R191). -/
theorem writesAlone_of_next {s : State} {i : Instr} {d : SReg} {v : W64} (h : exec i s = .next (s.wS d v)) :
    (∃ v, exec i s = .next (s.wS d v)) ∧ (d = 0 → exec i s = .next s) :=
  ⟨⟨v, h⟩, fun hd => by rw [h, hd]; rfl⟩

/-- Settles O2: the results are those of O1, in which only b[5:0] of a count stands, and each is a write of S[d] alone. -/
theorem scalarAluNeverTraps : Obligations.ScalarAluNeverTraps := by
  intro s d a b hl shift low
  obtain ⟨sadd, ssub, smul, smulhS, smulhZ, sand, sor, sxor, sshl, sshrZ, sshrS, sminS, smaxS, sminZ, smaxZ, ssltS, ssltZ, sseq⟩ :=
    scalarAluResults s d a b hl
  have hlow : low.toNat = (s.rS b).toNat % 64 := by simp only [low, BitVec.toNat_ofNat]; omega
  refine ⟨?_, ?_⟩
  · simp only [shift, hlow]
    exact ⟨sshl, sshrZ, sshrS⟩
  · simp only [List.forall_mem_cons, List.not_mem_nil, false_imp_iff, implies_true, and_true]
    exact
      ⟨writesAlone_of_next sadd, writesAlone_of_next ssub, writesAlone_of_next smul, writesAlone_of_next smulhS, writesAlone_of_next smulhZ,
       writesAlone_of_next sand, writesAlone_of_next sor, writesAlone_of_next sxor, writesAlone_of_next sshl, writesAlone_of_next sshrZ,
       writesAlone_of_next sshrS, writesAlone_of_next sminS, writesAlone_of_next smaxS, writesAlone_of_next sminZ, writesAlone_of_next smaxZ,
       writesAlone_of_next ssltS, writesAlone_of_next ssltZ, writesAlone_of_next sseq⟩

/-! ### Words as sums of their fields -/

section Decode
variable {c : Bool} {i : Instr} {W n k : Nat}
/-- A word written as the chain bit and the body of a well-formed instruction decodes to it. -/
theorem decodeWord_of_body (hw : i.wellFormed = true) (hn : i ≠ .nop) (he : encodeBody i = some n) (hW : W = bit c * 2 ^ 31 + n) :
    decodeWord W = .ok ⟨c, i⟩ :=
  encodeThenDecode i c W hw (fun h => absurd h hn) (by simp only [encode, he, hW, Nat.reducePow])
theorem decodeWord_error (h : decodeBody W = .error k) : decodeWord W = .error k := by rw [decodeWord, h]
end Decode

/-! The refusals of the majors 0x06 and 0x0B (R187, R193, R196). -/

section Refused
variable {W : Nat}
theorem dec06_reservedSub (h : fld W 7 6 = 3) : dec06 W = .error 2 := by rw [dec06, h]; rfl
theorem dec06_reservedBits (h : fld W 7 6 < 3) (hr : fld W 11 8 ≠ 0) : dec06 W = .error 3 := by
  obtain h | h | h : fld W 7 6 = 0 ∨ fld W 7 6 = 1 ∨ fld W 7 6 = 2 := by omega
  all_goals rw [dec06, h]; exact if_pos hr
/-- With a comparison in fn a word of major 0x0B is legal up to its condition register. -/
theorem dec0B_compare (h : fld W 5 0 < 6) : ∃ i, dec0B W = when (8 ≤ fld W 23 18) 3 (when (fld W 23 18 = 7) 4 (.ok i)) := by
  unfold dec0B
  generalize fld W 5 0 = f at h ⊢
  interval_cases f <;> exact ⟨_, rfl⟩
theorem dec0B_reservedFn (h : 6 ≤ fld W 5 0) : dec0B W = .error 2 := by
  unfold dec0B
  split
  case h_7 => rfl
  all_goals omega
theorem dec0B_largeReg (h : fld W 5 0 < 6) (h8 : 8 ≤ fld W 23 18) : dec0B W = .error 3 := by
  obtain ⟨i, hi⟩ := dec0B_compare h
  rw [hi]
  exact if_pos h8
theorem dec0B_c7 (h : fld W 5 0 < 6) (h7 : fld W 23 18 = 7) : dec0B W = .error 4 := by
  obtain ⟨i, hi⟩ := dec0B_compare h
  rw [hi, h7]
  rfl
end Refused

/-- Settles O3: the words are those of the encoder, a reserved field is refused by `dec06`, and each word is `scalar1` of its operation. -/
theorem scalarImmediateWords : Obligations.ScalarImmediateWords := by
  intro s c d a i n j k head src x e
  have hc := bit_lt c
  refine ⟨⟨decodeWord_of_body rfl nofun rfl ?_, decodeWord_of_body rfl nofun rfl ?_, decodeWord_of_body rfl nofun rfl ?_,
    decodeWord_of_body rfl nofun rfl ?_, decodeWord_of_body rfl nofun rfl ?_, decodeWord_of_body rfl nofun rfl ?_,
    decodeWord_of_body rfl nofun rfl ?_, decodeWord_error ((body_06 _ ?_).trans (dec06_reservedSub ?_)),
    fun hk hk' m hm => decodeWord_error ((body_06 _ ?_).trans (dec06_reservedBits ?_ ?_)), decodeWord_of_body rfl nofun rfl ?_⟩, fun hl => ?results⟩
  case results =>
    exact
      ⟨scalar1_next hl rfl rfl (exec_saddi d a i s) (add_ofInt _), scalar1_next hl rfl rfl (exec_sandi d a i s) rfl,
       scalar1_next hl rfl rfl (exec_sori d a i s) rfl, scalar1_next hl rfl rfl (exec_sxori d a i s) rfl,
       scalar1_next hl rfl rfl (exec_sshli d a n s) (shiftLeft_eq_ofNat _), scalar1_next hl rfl rfl (exec_sshriZ d a n s) (ushiftRight_eq_ofNat _),
       scalar1_next hl rfl rfl (exec_sshriS d a n s) (sshiftRight_eq_ofInt _), (exec_slit d j s).trans (runPure_bare hl rfl rfl)⟩
  -- what is open are the words' sums of fields
  all_goals
    simp only [head, src, fld]
    omega

/-- The compares in the order of their fn (R196). -/
def compares (d : CReg) (a b : SReg) : List Instr :=
  [.scmpEq d a b, .scmpNe d a b, .scmpLtS d a b, .scmpLeS d a b, .scmpLtZ d a b, .scmpLeZ d a b]
/-- Each compare is encoded by its place in the list, and any condition register but c7 makes it well formed (R59). -/
theorem compares_encode {d : CReg} {a b : SReg} {f : Nat} {i : Instr} (h : (compares d a b)[f]? = some i) :
    encodeBody i = some (0x0B * 2 ^ 24 + d.val * 2 ^ 18 + a.val * 2 ^ 12 + b.val * 2 ^ 6 + f) ∧ i.wellFormed = decide (d ≠ 7) ∧ i ≠ .nop := by
  have hf : f < 6 := (List.getElem?_eq_some_iff.1 h).1
  interval_cases f <;> cases h
  all_goals exact ⟨congrArg some (by omega), by simp [Instr.wellFormed, Instr.noC7, Instr.limits, Instr.fields], nofun⟩

/-- Settles O4: each compare is `scalarCmp` of its comparison; the legal words are those of the encoder, the others are refused by `dec0B`. -/
theorem scalarCompareResults : Obligations.ScalarCompareResults := by
  refine ⟨fun s d a b hl => ?results, fun c a b f cd hc ha hb hf hcd => ?_⟩
  case results =>
    exact
      ⟨scalarCmp_next hl rfl rfl (exec_scmpEq d a b s) beq_iff_eq, scalarCmp_next hl rfl rfl (exec_scmpNe d a b s) bne_iff_ne,
       scalarCmp_next hl rfl rfl (exec_scmpLtS d a b s) BitVec.slt_iff_toInt_lt, scalarCmp_next hl rfl rfl (exec_scmpLeS d a b s) BitVec.sle_iff_toInt_le,
       scalarCmp_next hl rfl rfl (exec_scmpLtZ d a b s) BitVec.ult_iff_toNat_lt, scalarCmp_next hl rfl rfl (exec_scmpLeZ d a b s) BitVec.ule_iff_toNat_le⟩
  intro w is
  have hmajor : fld w 30 24 = 0x0B := by simp only [w, fld]; omega
  have hfn : fld w 5 0 = f := by simp only [w, fld]; omega
  have hreg : fld w 23 18 = cd := by simp only [w, fld]; omega
  have refused {k : Nat} (h : dec0B w = .error k) : decodeWord w = .error k := decodeWord_error ((body_0B w hmajor).trans h)
  refine ⟨fun i h7 hi => ?_, fun h => refused (dec0B_reservedFn (hfn ▸ h)), fun h h7 => refused (dec0B_c7 (hfn ▸ h) (hreg.trans h7)),
    fun h h8 => refused (dec0B_largeReg (hfn ▸ h) (hreg ▸ h8))⟩
  have hbit : bit (decide (c = 1)) = c := by obtain rfl | rfl : c = 0 ∨ c = 1 := (by omega) <;> rfl
  have hd : decide ((Fin.ofNat 8 cd : CReg) ≠ 7) = true := cReg_ne_seven (by omega) (by omega)
  obtain ⟨he, hw, hn⟩ := compares_encode hi
  exact decodeWord_of_body (hw.trans hd) hn he (by simp only [w, hbit, Fin.val_ofNat]; omega)

end Sys2Proof.Proofs
end

section
/-! What the literal words and the moves between a lane and a scalar write (R195, R197, R198). -/
namespace Sys2Proof.Proofs
open Sys2Proof Sys2Proof.Machine Sys2Proof.Laws

/-! ### Halves of a word and lanes as they are widened -/

theorem toNat_hi32 (x : W64) : (hi32 x).toNat = x.toNat / 2 ^ 32 := by
  rw [hi32, BitVec.truncate_eq_setWidth, BitVec.toNat_setWidth, BitVec.toNat_ushiftRight, Nat.shiftRight_eq_div_pow]
  omega
theorem hi32_eq_ofNat (x : W64) : hi32 x = BitVec.ofNat 32 (x.toNat / 2 ^ 32) := by
  rw [← toNat_hi32, BitVec.ofNat_toNat, BitVec.setWidth_eq]
theorem toNat_lo32 (x : W64) : (lo32 x).toNat = x.toNat % 2 ^ 32 := BitVec.toNat_setWidth 32 x
/-! A lane widened, in each of the three forms (R197). -/

theorem laneValue_z32 (a : VReg) (L : Nat) (s : State) : laneValue a .z32 L s = BitVec.ofNat 64 (s.rV a L).toNat := zext64_eq _
theorem laneValue_s32 (a : VReg) (L : Nat) (s : State) : laneValue a .s32 L s = BitVec.ofInt 64 (s.rV a L).toInt := rfl
theorem laneValue_x64 (a : VReg) (L : Nat) (s : State) :
    laneValue a .x64 L s = BitVec.ofNat 64 ((s.rV (a.val + 1) L).toNat * 2 ^ 32 + (s.rV a L).toNat) := pair64_eq _ _

/-! ### Lanes written -/

/-- Of the active lanes, those that are lane `l`. -/
theorem active_filter_eq (s : State) (l : Fin 32) : s.active.filter (· == l.val) = if s.isActive l then [l.val] else [] := by
  have hl : allLanes.filter (· == l.val) = [l.val] := by
    rw [List.filter_beq, allLanes, List.count_eq_one_of_mem List.nodup_range (mem_allLanes.2 l.isLt), List.replicate_one]
  rw [State.active, List.filter_comm, hl]
  rw [List.filter_singleton, cond_eq_ite]

/-- A word that names no vector register to write acts in the state it issued in. -/
theorem runPure_reads {i : Instr} {s : State} {f : State → State} (h : Ready i s) (hw : (uses i).wv = []) : runPure i s f = .next (f s) := by
  rw [runPure_next h, acting_bare hw]

/-- Settles O5: each word is one write, of a literal, of a lane widened, or of a scalar's halves into lanes. -/
theorem literalAndLaneMoves : Obligations.LiteralAndLaneMoves := by
  intro s
  refine ⟨fun d hl => ?literals, fun d a w l hr => ?sext, fun d a w hr => ?first, fun d a w hr => ?last, fun d a w l hr => ?vins, fun d a w hr => ?all⟩
  case literals =>
    refine ⟨?_, ?_, ?_, ?_⟩
    · rw [exec_slitwZ, execSlitwZ, runPure_bare hl rfl rfl, zext64_eq]
    · rw [exec_slitwS, execSlitwS, runPure_bare hl rfl rfl]; rfl
    · rw [exec_slitwLo, execSlitwLo, runPure_bare hl rfl rfl, pair64_eq, toNat_hi32]
    · rw [exec_slitwHi, execSlitwHi, runPure_bare hl rfl rfl, pair64_eq, toNat_lo32]
  case sext =>
    rw [exec_sext, execSext, runPure_reads hr rfl]
    cases w
    case z32 => rw [laneValue_z32]
    case s32 => rw [laneValue_s32]
    case x64 => rw [laneValue_x64]
  case first =>
    refine ⟨fun ha => ?_, fun L Ls ha => ?_⟩ <;> rw [exec_sextFirst, execSextFirst, runPure_reads hr rfl, ha] <;> rfl
  case last =>
    refine ⟨fun ha => ?_, fun L Ls ha => ?_⟩ <;> rw [exec_sextLast, execSextLast, runPure_reads hr rfl, ha]
    · rfl
    · rw [List.getLast?_concat]; rfl
  case vins =>
    rw [exec_vins, execVins, runPure_next hr, active_filter_eq]
    cases w
    case lo => rfl
    case hi => simp only [insLanes, hi32_eq_ofNat]
    case x64 => rfl
  case all =>
    rw [exec_vinsAll, execVinsAll, runPure_next hr]
    cases w
    case lo => rfl
    case hi => simp only [insLanes, hi32_eq_ofNat]; rfl
    case x64 => rfl

end Sys2Proof.Proofs
end

section
/-! When the br family, call and jmp transfer control, and where to (R203-R206). -/
namespace Sys2Proof.Proofs
open Sys2Proof Sys2Proof.Machine Sys2Proof.Laws

/-! ### A condition over the active lanes -/

section Conditions
variable {s : State} {c : Nat}
theorem condMask_getLsbD {L : Nat} (hL : L < 32) : (s.condMask c).getLsbD L = (s.isActive L && (s.rC c).getLsbD L) := maskOf_getLsbD _ hL
theorem condMask_eq_zero_iff : s.condMask c = 0 ↔ ∀ L ∈ s.active, ¬(s.rC c).getLsbD L = true := by
  refine ⟨fun h L hL => ?_, fun h => mask_ext fun L hL => ?_⟩
  · obtain ⟨hL, ha⟩ := mem_active.1 hL
    have hbit := condMask_getLsbD (s := s) (c := c) hL
    rw [h, ha] at hbit
    simpa using hbit.symm
  · rw [condMask_getLsbD hL, show (0 : LaneMask).getLsbD L = false from BitVec.getLsbD_zero, Bool.and_eq_false_imp]
    exact fun ha => Bool.not_eq_true _ ▸ h L (mem_active.2 ⟨hL, ha⟩)
theorem condMask_ne_zero_iff : s.condMask c ≠ 0 ↔ ∃ L ∈ s.active, (s.rC c).getLsbD L = true := by
  rw [Ne, condMask_eq_zero_iff]
  push Not
  rfl
theorem condMask_eq_activeMask_iff : s.condMask c = s.activeMask ↔ ∀ L ∈ s.active, (s.rC c).getLsbD L = true := by
  refine ⟨fun h L hL => ?_, fun h => mask_ext fun L hL => ?_⟩
  · obtain ⟨hL, ha⟩ := mem_active.1 hL
    have hbit := condMask_getLsbD (s := s) (c := c) hL
    rw [h, activeMask_getLsbD s hL, ha] at hbit
    simpa using hbit.symm
  · rw [condMask_getLsbD hL, activeMask_getLsbD s hL, Bool.and_eq_left_iff_imp]
    exact fun ha => h L (mem_active.2 ⟨hL, ha⟩)
end Conditions

/-! ### Words of one target -/

section Branches
variable {s : State} {i : Instr} {o : BitVec 19} (hl : s.cur.live = true) (hr : (uses i).rv = []) (hw : (uses i).wv = [])
include hl hr hw
/-- A word of the br family is taken or not by its condition, and traps by its target alone (R203). -/
theorem branchIf_next {q : State → Bool} {p : Prop} (hx : exec i s = branchIf i o q s) (hq : q s = true ↔ p) :
    (p → canonical (brTarget s o) = true → exec i s = .next (s.branch (BitVec.ofInt 64 (brTarget s o)) 0))
    ∧ (¬p → canonical (brTarget s o) = true → exec i s = .next s)
    ∧ (canonical (brTarget s o) = false → exec i s = .next (s.trapWord (trapOf .accessFault))) := by
  rw [hx, branchIf, runWord_bare hl hr hw]
  refine ⟨fun hp hc => ?_, fun hp hc => ?_, fun hc => ?_⟩
  · simp only [hc, if_true, hq.2 hp]
  · simp only [hc, if_true, if_neg (mt hq.1 hp)]
  · simp only [hc, Bool.false_eq_true, if_false]
end Branches

/-- An unconditional br that names a condition register is refused (R203). -/
theorem dec40_reservedReg {W : Nat} (h : fld W 20 19 = 0) (hc : fld W 23 21 ≠ 0) : dec40 W = .error 3 := by
  rw [dec40, h]
  exact if_pos hc

/-- Settles O20: the words are those of the encoder but for one reserved field, and each is `branchIf` of its condition. -/
theorem branchResults : Obligations.BranchResults := by
  refine ⟨fun ch c o => ?decode, fun s c o hl => ?_⟩
  case decode =>
    intro w
    have hch := bit_lt ch
    rw [Ne, show c = 0 ↔ c.val = 0 from Fin.ext_iff]
    refine ⟨fun hc => decodeWord_of_body rfl nofun rfl ?_, fun hc => decodeWord_error ((body_40 _ ?_).trans (dec40_reservedReg ?_ ?_)),
      decodeWord_of_body rfl nofun rfl ?_, decodeWord_of_body rfl nofun rfl ?_, decodeWord_of_body rfl nofun rfl ?_⟩
    all_goals
      simp only [w, fld]
      omega
  exact ⟨branchIf_next hl rfl rfl (exec_br o s) (iff_of_true rfl trivial), branchIf_next hl rfl rfl (exec_brAny c o s) (bne_iff_ne.trans condMask_ne_zero_iff),
    branchIf_next hl rfl rfl (exec_brAll c o s) (beq_iff_eq.trans condMask_eq_activeMask_iff),
    branchIf_next hl rfl rfl (exec_brNone c o s) (beq_iff_eq.trans condMask_eq_zero_iff)⟩

/-! ### call and jmp -/

/-- The packet of a place. -/
theorem packet_eq_ofNat (t : W64) : t &&& ~~~15#64 = BitVec.ofNat 64 (t.toNat / 16 * 16) := by
  refine BitVec.eq_of_getLsbD_eq fun k hk => ?_
  have hlow : Nat.testBit 15 k = decide (k < 4) := Nat.testBit_two_pow_sub_one 4 k
  have hhigh : (t.toNat / 16 * 16).testBit k = (decide (4 ≤ k) && t.getLsbD k) := by
    rw [show 16 = 2 ^ 4 from rfl, Nat.testBit_mul_two_pow, Nat.testBit_div_two_pow]
    by_cases h : 4 ≤ k <;> simp [h, BitVec.getLsbD]
  simp only [BitVec.getLsbD_and, BitVec.getLsbD_not, BitVec.getLsbD_ofNat, hlow, hhigh, hk, decide_true, Bool.true_and, ← decide_not, Nat.not_lt,
    Bool.and_comm]

section Jumps
variable {s : State} (hl : s.cur.live = true)
include hl
/-- call checks its target alone (R205). -/
theorem call_answer (o : BitVec 19) : exec (.call o) s = answerOf s (
    if canonical (brTarget s o) then .ok ((s.wS 63 s.link_).branch (BitVec.ofInt 64 (brTarget s o)) 0) else .error (trapOf .accessFault)) := by
  rw [exec_call, execCall, runWord_answer hl rfl rfl]
/-- jmp checks the place in its target's low bits before the packet (R206). -/
theorem jmp_answer (d a : SReg) : exec (.jmp d a) s = answerOf s (
    if (s.rS a).toNat / 4 % 4 ≠ 0 ∨ (s.rS a).toNat % 4 = 3 then .error (trapOf .misaligned)
    else if canonical (s.rS a).toNat then .ok ((s.wS d s.link_).branch (BitVec.ofNat 64 ((s.rS a).toNat / 16 * 16)) ((s.rS a).toNat % 4))
    else .error (trapOf .accessFault)) := by
  rw [exec_jmp, execJmp, runWord_answer hl rfl rfl]
  simp only [packet_eq_ofNat, fld_low]
  rfl
end Jumps

/-- Settles O21: the branches of `call_answer` and `jmp_answer`. -/
theorem callAndJumpResults : Obligations.CallAndJumpResults := by
  intro s d a o hl link target t bad
  have call := call_answer hl o
  have jmp := jmp_answer hl d a
  refine ⟨fun hc => ?_, fun hc => ?_, fun hb hc => ?_, fun hb => ?_, fun hb hc => ?_⟩
  · exact call.trans (congrArg (answerOf s) (if_pos hc))
  · exact call.trans (congrArg (answerOf s) (if_neg (Bool.eq_false_iff.1 hc)))
  · exact jmp.trans (congrArg (answerOf s) ((if_neg hb).trans (if_pos hc)))
  · exact jmp.trans (congrArg (answerOf s) (if_pos hb))
  · exact jmp.trans (congrArg (answerOf s) ((if_neg hb).trans (if_neg (Bool.eq_false_iff.1 hc))))

end Sys2Proof.Proofs
end

section
/-! What ssetsr and mtsys write (R200-R202, R334, R335, R337, R344). -/
namespace Sys2Proof.Proofs
open Sys2Proof Sys2Proof.Machine Sys2Proof.Laws

/-! ### ssetsr, ssetsr.set and ssetsr.clr -/

section SetWords
variable {s : State} {i : Instr} {a : SReg} {n : Fin 4096} {f : W64 → W64 → W64} (hl : s.cur.live = true) (hr : (uses i).rv = [])
  (hw : (uses i).wv = []) (hx : exec i s = setSys i a n f s)
include hl hr hw hx
/-- The level is looked at before the register (R202). -/
theorem setSys_answer : exec i s = answerOf s (
    if supReg n && s.srcG.level = .user then .error (illegal 12)
    else if n.val = 0x40 then .ok (sysWrite s n (f (sysValue s n) (s.rS a))) else .error (illegal 11)) := by
  rw [hx, setSys, runWord_answer hl hr hw]
theorem setSys_brkctl (hn : n = 0x40) : exec i s = .next (s.onGroup fun g => { g with brkctl := f s.srcG.brkctl (s.rS a) &&& 1 }) := by
  rw [setSys_answer hl hr hw hx, hn]
  rfl
theorem setSys_other (hn : n.val ≠ 0x40) (hu : ¬(0x100 ≤ n.val ∧ n.val ≤ 0x10E ∧ s.srcG.level = .user)) :
    exec i s = .next (s.trapWord (illegal 11)) := by
  rw [setSys_answer hl hr hw hx, if_neg (by simpa [supReg, and_assoc] using hu), if_neg hn]
  rfl
theorem setSys_user (h1 : 0x100 ≤ n.val) (h2 : n.val ≤ 0x10E) (hu : s.srcG.level = .user) : exec i s = .next (s.trapWord (illegal 12)) := by
  rw [setSys_answer hl hr hw hx, if_pos (by simp [supReg, h1, h2, hu])]
  rfl
end SetWords

/-! ### mtsys -/

theorem sysWritable_iff {n : Nat} : sysWritable n = true ↔ n = 0x40 ∨ (0x105 ≤ n ∧ n ≤ 0x10D) := by simp [sysWritable]

section Mtsys
variable {s : State} {a : SReg} {n : Fin 4096} (hl : s.cur.live = true) (hs : s.srcG.level = .supervisor)
include hl hs
theorem mtsys_next (h : n.val = 0x40 ∨ (0x105 ≤ n.val ∧ n.val ≤ 0x10D)) : exec (.mtsys a n) s = .next (sysWrite s n (s.rS a)) := by
  rw [exec_mtsys, execMtsys, runSup_supervisor hl rfl rfl hs, if_pos (sysWritable_iff.2 h)]
theorem mtsys_trap (h : ¬(n.val = 0x40 ∨ (0x105 ≤ n.val ∧ n.val ≤ 0x10D))) : exec (.mtsys a n) s = .next (s.trapWord (illegal 11)) := by
  rw [exec_mtsys, execMtsys, runSup_supervisor hl rfl rfl hs, if_neg (mt sysWritable_iff.1 h)]
end Mtsys

section Written
variable (s : State) (v : W64) {n : Nat}
theorem sysWrite_tret (h : v.toNat % 4 ≠ 3) :
    sysWrite s 0x109 v = s.onGroup fun g => { g with trap := { g.trap with tret := v &&& ~~~12#64 } } := if_neg (by rwa [fld_low])
/-- A slot of 3 leaves the whole register unwritten (log 29). -/
theorem sysWrite_tret_slot3 (h : v.toNat % 4 = 3) : sysWrite s 0x109 v = s := if_pos (by rwa [fld_low])
theorem sysWrite_tnestsave (h1 : 0x105 ≤ n) (h2 : n ≤ 0x108) :
    sysWrite s n v = s.onGroup fun g => { g with trap := { g.trap with nestsave := SMap.set 0 g.trap.nestsave (n - 0x105) v } } := by
  rw [sysWrite, if_neg (by omega), if_neg (by omega), if_pos ⟨h1, h2⟩]
theorem sysWrite_ksc (h1 : 0x10A ≤ n) (h2 : n ≤ 0x10D) :
    sysWrite s n v = s.onGroup fun g => { g with trap := { g.trap with ksc := SMap.set 0 g.trap.ksc (n - 0x10A) v } } := by
  rw [sysWrite, if_neg (by omega), if_neg (by omega), if_neg (by omega), if_pos ⟨h1, h2⟩]
end Written

/-- Settles O26: the ssetsr words are `setSys` of their operation, and mtsys is `sysWrite` of the registers with an RW field. -/
theorem specialRegisterWrites : Obligations.SpecialRegisterWrites := by
  intro s a n hl v old set trap
  refine ⟨⟨?_, ?_, ?_⟩, fun hn hu => ⟨?_, ?_, ?_⟩, fun h1 h2 hu => ⟨?_, ?_, ?_⟩,
    fun hs => ⟨?_, fun h => ?_, fun h => ?_, fun h1 h2 => ?_, fun h1 h2 => ?_, fun h h' => ?_⟩⟩
  · exact setSys_brkctl hl rfl rfl (exec_ssetsr a _ s) rfl
  · exact setSys_brkctl hl rfl rfl (exec_ssetsrSet a _ s) rfl
  · exact setSys_brkctl hl rfl rfl (exec_ssetsrClr a _ s) rfl
  · exact setSys_other hl rfl rfl (exec_ssetsr a n s) hn hu
  · exact setSys_other hl rfl rfl (exec_ssetsrSet a n s) hn hu
  · exact setSys_other hl rfl rfl (exec_ssetsrClr a n s) hn hu
  · exact setSys_user hl rfl rfl (exec_ssetsr a n s) h1 h2 hu
  · exact setSys_user hl rfl rfl (exec_ssetsrSet a n s) h1 h2 hu
  · exact setSys_user hl rfl rfl (exec_ssetsrClr a n s) h1 h2 hu
  · exact mtsys_next hl hs (.inl rfl)
  · exact (mtsys_next hl hs (.inr ⟨by decide, by decide⟩)).trans (congrArg _ (sysWrite_tret s v h))
  · exact (mtsys_next hl hs (.inr ⟨by decide, by decide⟩)).trans (congrArg _ (sysWrite_tret_slot3 s v h))
  · exact (mtsys_next hl hs (.inr ⟨h1, by omega⟩)).trans (congrArg _ (sysWrite_tnestsave s v h1 h2))
  · exact (mtsys_next hl hs (.inr ⟨by omega, h2⟩)).trans (congrArg _ (sysWrite_ksc s v h1 h2))
  · exact mtsys_trap hl hs (not_or.2 ⟨h, h'⟩)

end Sys2Proof.Proofs
end

section
/-! What the words of vector integer arithmetic, logic and shifts write (R212, R214-R219). -/
namespace Sys2Proof.Proofs
open Sys2Proof Sys2Proof.Machine Sys2Proof.Laws

/-! ### Words that write the active lanes of one vector register, with their values -/

section Words
variable {s : State} {i : Instr} {d a : VReg} {b : BSel} (hl : s.cur.live = true) (hw : (uses i).wv = [d.val])
include hl hw
/-- A word that writes `d` and whose register checks pass acts in the state where the bank of `d` has begun to wake (R68). -/
theorem runPure_wakes {f : State → State} (hr : regTraps i s = []) : runPure i s f = .next (f (s.wakeFor [d.val])) := by
  rw [runPure_next ⟨hl, hr⟩, State.acting, hw]
theorem vector1_next {f g : W32 → W32} (hx : exec i s = vector1 i d a f s) (hg : ∀ x, f x = g x) (hr : regTraps i s = []) :
    exec i s = .next ((s.wakeFor [d.val]).setLanes d fun L => g ((s.wakeFor [d.val]).rV a L)) := by
  rw [hx, vector1, runPure_wakes hl hw hr, funext hg]
theorem vector2_next {f g : W32 → W32 → W32} (hx : exec i s = vector2 i d a b f s) (hg : ∀ x y, f x y = g x y) (hr : regTraps i s = []) :
    exec i s = .next ((s.wakeFor [d.val]).setLanes d fun L => g ((s.wakeFor [d.val]).rV a L) ((s.wakeFor [d.val]).b32 b L)) := by
  rw [hx, vector2, runPure_wakes hl hw hr, funext₂ hg]
theorem vector3_next {f : W32 → W32 → W32 → W32} (hx : exec i s = vector3 i d a b f s) (hr : regTraps i s = []) :
    exec i s = .next ((s.wakeFor [d.val]).setLanes d fun L =>
      f ((s.wakeFor [d.val]).rV d L) ((s.wakeFor [d.val]).rV a L) ((s.wakeFor [d.val]).b32 b L)) := by
  rw [hx, vector3, runPure_wakes hl hw hr]
theorem shuffle_next {src : Nat → Nat → Nat} (hx : exec i s = shuffle i d a b src s) (hr : regTraps i s = []) :
    exec i s = .next ((s.wakeFor [d.val]).setLanes d fun L => (s.wakeFor [d.val]).rV a (src L ((s.wakeFor [d.val]).b32 b L).toNat)) := by
  rw [hx, shuffle, runPure_wakes hl hw hr]
end Words

/-- Settles O8: each word is `vector2`, or `vector1` for vaddi, of an operation whose value is that of the rule; the saturations are `clampInt`. -/
theorem vectorArithmeticResults : Obligations.VectorArithmeticResults := by
  intro s d a b i hl t satS satZ gives
  exact
    ⟨vector2_next hl rfl (exec_vadd d a b s) fun _ _ => add_eq_ofInt, vector2_next hl rfl (exec_vaddSatS d a b s) fun _ _ => rfl,
     vector2_next hl rfl (exec_vaddSatZ d a b s) fun _ _ => rfl, vector2_next hl rfl (exec_vsub d a b s) fun _ _ => sub_eq_ofInt,
     vector2_next hl rfl (exec_vsubSatS d a b s) fun _ _ => rfl, vector2_next hl rfl (exec_vsubSatZ d a b s) fun _ _ => rfl,
     vector2_next hl rfl (exec_vmul d a b s) fun _ _ => mul_eq_ofInt, vector2_next hl rfl (exec_vmulhS d a b s) fun _ _ => rfl,
     vector2_next hl rfl (exec_vmulhZ d a b s) fun _ _ => rfl,
     vector2_next hl rfl (exec_vminS d a b s) fun _ _ => pick_eq_ite (BitVec.slt_iff_toInt_lt.trans not_le.symm),
     vector2_next hl rfl (exec_vminZ d a b s) fun _ _ => pick_eq_ite (BitVec.ult_iff_toNat_lt.trans not_le.symm),
     vector2_next hl rfl (exec_vmaxS d a b s) fun _ _ => pick_eq_ite (BitVec.slt_iff_toInt_lt.trans not_le.symm),
     vector2_next hl rfl (exec_vmaxZ d a b s) fun _ _ => pick_eq_ite (BitVec.ult_iff_toNat_lt.trans not_le.symm),
     vector1_next hl rfl (exec_vaddi d a i s) fun _ => add_ofInt _⟩

/-! ### Rotation and the three-input table -/

/-- A rotation is the sum of the two parts that the shifts keep, which share no bit. -/
theorem rotateLeft_eq_ofNat {n k : Nat} (x : BitVec n) (hk : k < n) : x.rotateLeft k = BitVec.ofNat n (x.toNat * 2 ^ k + x.toNat / 2 ^ (n - k)) := by
  have hn : 2 ^ n = 2 ^ (n - k) * 2 ^ k := by rw [← pow_add, Nat.sub_add_cancel hk.le]
  have hlow : x.toNat / 2 ^ (n - k) < 2 ^ k := Nat.div_lt_of_lt_mul (hn ▸ x.isLt)
  have hhigh : x.toNat * 2 ^ k % 2 ^ n = (x.toNat % 2 ^ (n - k)) <<< k := by rw [hn, Nat.mul_mod_mul_right, Nat.shiftLeft_eq]
  have hsum : (x.rotateLeft k).toNat = x.toNat * 2 ^ k % 2 ^ n + x.toNat / 2 ^ (n - k) := by
    rw [BitVec.toNat_rotateLeft, Nat.mod_eq_of_lt hk, Nat.shiftLeft_eq, Nat.shiftRight_eq_div_pow, hhigh, Nat.shiftLeft_add_eq_or_of_lt hlow]
  refine BitVec.eq_of_toNat_eq ?_
  rw [BitVec.toNat_ofNat, ← Nat.mod_add_mod, ← hsum, Nat.mod_eq_of_lt (BitVec.isLt _)]

/-- The bits where the operands of vlut3 are those of entry `k`, if the table holds that entry (R219). -/
def lutEntry (table d a b : W32) (k : Nat) : W32 :=
  if table.getLsbD k then
    (if k / 4 % 2 = 1 then d else ~~~d) &&& (if k / 2 % 2 = 1 then a else ~~~a) &&& (if k % 2 = 1 then b else ~~~b)
  else 0
theorem lut3_eq_entries (table d a b : W32) : lut3 table d a b =
    lutEntry table d a b 0 ||| lutEntry table d a b 1 ||| lutEntry table d a b 2 ||| lutEntry table d a b 3
      ||| lutEntry table d a b 4 ||| lutEntry table d a b 5 ||| lutEntry table d a b 6 ||| lutEntry table d a b 7 := rfl
/-- A bit of an entry: the operands have there the bits of its index. -/
theorem lutEntry_getLsbD (table d a b : W32) (k : Nat) {i : Nat} (hi : i < 32) : (lutEntry table d a b k).getLsbD i
    = (table.getLsbD k && (d.getLsbD i == decide (k / 4 % 2 = 1)) && (a.getLsbD i == decide (k / 2 % 2 = 1))
      && (b.getLsbD i == decide (k % 2 = 1))) := by
  have side (x : W32) (p : Prop) [Decidable p] : (if p then x else ~~~x).getLsbD i = (x.getLsbD i == decide p) := by
    by_cases hp : p <;> simp [hp, hi]
  unfold lutEntry
  cases table.getLsbD k
  · simp
  · rw [if_pos rfl, BitVec.getLsbD_and, BitVec.getLsbD_and, side, side, side, Bool.true_and]
/-- Of the eight entries the one whose index the operands' bits form gives the bit. -/
theorem lut3_getLsbD (table d a b : W32) {i : Nat} (hi : i < 32) : (lut3 table d a b).getLsbD i
    = table.getLsbD (4 * bit (d.getLsbD i) + 2 * bit (a.getLsbD i) + bit (b.getLsbD i)) := by
  simp only [lut3_eq_entries, BitVec.getLsbD_or, lutEntry_getLsbD _ _ _ _ _ hi]
  cases d.getLsbD i <;> cases a.getLsbD i <;> cases b.getLsbD i <;> simp [bit]

/-- Settles O9: each word of two operands is `vector2` of an operation whose value is that of the rule, and vlut3 is `vector3` of its table. -/
theorem vectorLogicAndShiftResults : Obligations.VectorLogicAndShiftResults := by
  intro s d a b hl t gives
  refine
    ⟨vector2_next hl rfl (exec_vand d a b s) fun _ _ => rfl, vector2_next hl rfl (exec_vor d a b s) fun _ _ => rfl,
     vector2_next hl rfl (exec_vxor d a b s) fun _ _ => rfl, vector2_next hl rfl (exec_vandn d a b s) fun _ _ => rfl,
     vector2_next hl rfl (exec_vshl d a b s) fun _ y => shiftLeft_eq_ofNat (count32 y),
     vector2_next hl rfl (exec_vshrZ d a b s) fun _ y => ushiftRight_eq_ofNat (count32 y),
     vector2_next hl rfl (exec_vshrS d a b s) fun _ y => sshiftRight_eq_ofInt (count32 y),
     vector2_next hl rfl (exec_vrot d a b s) fun x y => rotateLeft_eq_ofNat x (Nat.mod_lt _ (by decide)),
     fun hr => ⟨_, vector3_next hl rfl (exec_vlut3 d a b s) hr, fun L i hi => ?_⟩⟩
  rw [lut3_getLsbD _ _ _ _ hi, (wakeFor_frame s [d.val]).lit]

end Sys2Proof.Proofs
end

section
/-! What the words of bit counts, bit reversal and bit fields write (R220, R221). -/
namespace Sys2Proof.Proofs
open Sys2Proof Sys2Proof.Machine Sys2Proof.Laws

/-! ### Bit counts and bit reversal -/

/-- A count of up to 32 ones fits a lane. -/
theorem toNat_ofNat_countOnes (x : Nat) {n : Nat} (hn : n ≤ 32) :
    (BitVec.ofNat 32 (countOnes x n)).toNat = ((List.range n).filter fun k => x.testBit k).length := by
  have hle := List.length_filter_le (fun k => x.testBit k) (List.range n)
  rw [List.length_range] at hle
  rw [countOnes_eq_length, BitVec.toNat_ofNat, Nat.mod_eq_of_lt (by omega)]
theorem popc_toNat (x : W32) : (popc x).toNat = ((List.range 32).filter fun i => x.getLsbD i).length := toNat_ofNat_countOnes _ le_rfl

theorem clz_toNat (x : W32) : (clz x).toNat = 32 - bitLen x.toNat := by
  rw [clz, BitVec.toNat_ofNat, Nat.mod_eq_of_lt (by omega)]
/-- clz counts the zeros above the highest one. -/
theorem clz_spec (x : W32) : (clz x).toNat ≤ 32 ∧ (∀ i, i < 32 → 32 ≤ i + (clz x).toNat → x.getLsbD i = false)
    ∧ ((clz x).toNat < 32 → x.getLsbD (31 - (clz x).toNat) = true) := by
  have hle : bitLen x.toNat ≤ 32 := bitLen_le_iff.2 x.isLt
  rw [clz_toNat]
  refine ⟨by omega, fun i _ h => ?_, fun h => ?_⟩
  · exact Nat.testBit_lt_two_pow (bitLen_le_iff.1 (by omega))
  · obtain ⟨k, hk⟩ : ∃ k, bitLen x.toNat = k + 1 := Nat.exists_eq_succ_of_ne_zero (by omega)
    rw [show 31 - (32 - bitLen x.toNat) = k by omega]
    exact Nat.testBit_of_two_pow_le_and_two_pow_add_one_gt (lt_bitLen_iff.1 (by omega)) (bitLen_le_iff.1 hk.le)

/-- A word other than zero has a lowest one. -/
theorem exists_lowestOne {x : W32} (h : x ≠ 0) : ∃ k m, k < 32 ∧ x.toNat = 2 ^ k * (2 * m + 1) := by
  obtain ⟨k, _, ⟨m, rfl⟩, hx⟩ := Nat.exists_eq_two_pow_mul_odd (n := x.toNat) fun h0 => h (BitVec.eq_of_toNat_eq h0)
  refine ⟨k, m, (Nat.pow_lt_pow_iff_right Nat.one_lt_two).1 ?_, hx⟩
  calc 2 ^ k ≤ x.toNat := hx ▸ Nat.le_mul_of_pos_right _ (Nat.succ_pos _)
    _ < 2 ^ 32 := x.isLt
section LowestOne
variable {x : W32} {k m : Nat} (hx : x.toNat = 2 ^ k * (2 * m + 1))
include hx
/-- The word holds zeros below its lowest one. -/
theorem getLsbD_lowestOne (i : Nat) : x.getLsbD i = (decide (k ≤ i) && (2 * m + 1).testBit (i - k)) := by
  rw [← BitVec.testBit_toNat, hx, mul_comm, Nat.testBit_mul_two_pow]
/-- One less holds ones below that place and the same bits above it. -/
theorem getLsbD_sub_one_lowestOne (i : Nat) : (x - 1).getLsbD i = if i < k then true else (2 * m).testBit (i - k) := by
  have hpos := Nat.two_pow_pos k
  have hle : 2 ^ k ≤ 2 ^ k * (2 * m + 1) := Nat.le_mul_of_pos_right _ (Nat.succ_pos _)
  have hsub : (x - 1).toNat = 2 ^ k * (2 * m) + (2 ^ k - 1) := by
    rw [BitVec.toNat_sub_of_le (BitVec.le_def.2 (by rw [hx]; exact hpos.trans_le hle)), hx, mul_add, mul_one]
    exact Nat.add_sub_assoc hpos _
  rw [← BitVec.testBit_toNat, hsub, Nat.testBit_two_pow_mul_add _ (by omega)]
  split
  next h => rw [Nat.testBit_two_pow_sub_one, decide_eq_true h]
  next h => rfl
/-- The ones of x - 1 that x lacks are those below the lowest one. -/
theorem getLsbD_belowLowestOne {i : Nat} (hi : i < 32) : ((x - 1) &&& ~~~x).getLsbD i = decide (i < k) := by
  rw [BitVec.getLsbD_and, BitVec.getLsbD_not, getLsbD_lowestOne hx, getLsbD_sub_one_lowestOne hx]
  by_cases h : i < k
  · simp [h, hi]
  · cases hj : i - k with
    | zero => simp [h]
    | succ j => simp [h, show k ≤ i by omega, hi, Nat.testBit_succ, Nat.mul_add_div]
end LowestOne

theorem length_filter_lt {k n : Nat} (h : k ≤ n) : ((List.range n).filter fun i => decide (i < k)).length = k := by
  induction n, h using Nat.le_induction with
  | base => rw [List.filter_eq_self.2 (by simp), List.length_range]
  | succ n hn ih => simp [List.range_succ, ih, hn]
theorem ctz_toNat {x : W32} {k m : Nat} (hk : k < 32) (hx : x.toNat = 2 ^ k * (2 * m + 1)) : (ctz x).toNat = k := by
  have h0 : x ≠ 0 := by
    rintro rfl
    exact (Nat.mul_pos (Nat.two_pow_pos k) (Nat.succ_pos _)).ne hx
  have hbelow : ∀ i ∈ List.range 32, ((x - 1) &&& ~~~x).getLsbD i = decide (i < k) := fun i hi => getLsbD_belowLowestOne hx (List.mem_range.1 hi)
  rw [ctz, if_neg h0, popc_toNat, List.filter_congr hbelow, length_filter_lt hk.le]
/-- ctz counts the zeros below the lowest one. -/
theorem ctz_spec (x : W32) : (ctz x).toNat ≤ 32 ∧ (∀ i, i < (ctz x).toNat → x.getLsbD i = false)
    ∧ ((ctz x).toNat < 32 → x.getLsbD (ctz x).toNat = true) := by
  by_cases h : x = 0
  · subst h
    exact ⟨le_rfl, fun i _ => BitVec.getLsbD_zero, fun h => absurd h (by decide)⟩
  · obtain ⟨k, m, hk, hx⟩ := exists_lowestOne h
    rw [ctz_toNat hk hx]
    refine ⟨hk.le, fun i hi => ?_, fun _ => ?_⟩ <;> rw [getLsbD_lowestOne hx]
    · rw [decide_eq_false (by omega), Bool.false_and]
    · simp

/-- brev sets, one lane at a time, the bits whose mirror image is set. -/
theorem brev_eq_foldl (x : W32) :
    brev x = ((List.range 32).map fun i => 31 - i).foldl (fun y j => if x.getLsbD (31 - j) then y ||| (1#32 <<< j) else y) 0 := rfl
theorem brev_getLsbD (x : W32) {i : Nat} (hi : i < 32) : (brev x).getLsbD i = x.getLsbD (31 - i) := by
  have hmem : i ∈ (List.range 32).map fun i => 31 - i := List.mem_map.2 ⟨31 - i, List.mem_range.2 (by omega), by omega⟩
  rw [brev_eq_foldl, getLsbD_foldl_lanes (fun j => x.getLsbD (31 - j)) i hi _ 0 (by decide) (by decide), decide_eq_true hmem]
  simp

/-! ### Bit fields -/

theorem fieldPos_eq (y : W32) : fieldPos y = y.toNat % 32 := by simp [fieldPos, fld]
theorem fieldWidth_eq (y : W32) : fieldWidth y = min (y.toNat / 2 ^ 8 % 64) (32 - y.toNat % 32) := by rw [fieldWidth, fieldPos_eq]; rfl
theorem fieldWidth_le (y : W32) : fieldWidth y ≤ 32 := (min_le_right _ _).trans (Nat.sub_le _ _)

theorem bfxZ_toNat (x y : W32) : (bfxZ x y).toNat = x.toNat / 2 ^ fieldPos y % 2 ^ fieldWidth y := by
  rw [bfxZ, BitVec.toNat_ofNat, Nat.mod_eq_of_lt]
  exact ((Nat.mod_le _ _).trans (Nat.div_le_self _ _)).trans_lt x.isLt
/-- vbfx.s sign-extends the field, cut out at the width that it has. -/
theorem bfxS_eq_signExtend {x y : W32} (h : fieldWidth y ≠ 0) :
    bfxS x y = (BitVec.ofNat (fieldWidth y) (x.toNat / 2 ^ fieldPos y)).signExtend 32 := by
  rw [bfxS, if_neg h, signedOf_eq_toInt (Nat.pos_of_ne_zero h)]
  rfl
/-- The sign of a field is the word's bit at the top of the field. -/
theorem field_msb (x : W32) (p : Nat) {w : Nat} (h : w ≠ 0) : (BitVec.ofNat w (x.toNat / 2 ^ p)).msb = x.getLsbD (p + w - 1) := by
  rw [BitVec.msb_eq_getLsbD_last, BitVec.getLsbD_ofNat, Nat.testBit_div_two_pow, BitVec.testBit_toNat, decide_eq_true (by omega), Bool.true_and]
  exact congrArg _ (by omega)
/-- The sign bit of the field counts negative. -/
theorem bfxS_spec (x y : W32) : if fieldWidth y = 0 then bfxS x y = 0 else (bfxS x y).toInt
    = (x.toNat / 2 ^ fieldPos y % 2 ^ fieldWidth y : Nat) - (if x.getLsbD (fieldPos y + fieldWidth y - 1) then (2 : Int) ^ fieldWidth y else 0) := by
  by_cases h : fieldWidth y = 0
  · rw [if_pos h, bfxS, if_pos h]
  · rw [if_neg h, bfxS_eq_signExtend h, BitVec.toInt_signExtend_of_le (fieldWidth_le y), BitVec.toInt_eq_msb_cond, field_msb x _ h,
      BitVec.toNat_ofNat]
    split <;> simp

/-- The mask of vbfi covers the field. -/
theorem fieldMask_getLsbD (p w : Nat) {i : Nat} (hi : i < 32) :
    (BitVec.ofNat 32 ((2 ^ w - 1) * 2 ^ p)).getLsbD i = decide (p ≤ i ∧ i < p + w) := by
  rw [BitVec.getLsbD_ofNat, Nat.testBit_mul_two_pow, Nat.testBit_two_pow_sub_one, decide_eq_true hi, Bool.true_and, ← Bool.decide_and]
  exact decide_eq_decide.2 (by omega)
theorem bfi_getLsbD (z x y : W32) {i : Nat} (hi : i < 32) : (bfi z x y).getLsbD i
    = if fieldPos y ≤ i ∧ i < fieldPos y + fieldWidth y then x.getLsbD (i - fieldPos y) else z.getLsbD i := by
  rw [bfi, BitVec.getLsbD_or, BitVec.getLsbD_and, BitVec.getLsbD_and, BitVec.getLsbD_not, fieldMask_getLsbD _ _ hi, BitVec.getLsbD_shiftLeft]
  by_cases h : fieldPos y ≤ i ∧ i < fieldPos y + fieldWidth y <;> simp [h, hi]

/-- Settles O10: each word is `vector1`, `vector2` or `vector3` of an operation with the property that its lemma states. -/
theorem vectorBitFieldResults : Obligations.VectorBitFieldResults := by
  intro s d a b hl t gives pos wid
  have hpos (y : W32) : pos y = fieldPos y := (fieldPos_eq y).symm
  have hwid (y : W32) : wid y = fieldWidth y := (fieldWidth_eq y).symm
  simp only [hpos, hwid]
  exact
    ⟨fun hr => ⟨_, vector1_next hl rfl (exec_vpopc d a s) (fun _ => rfl) hr, fun L => popc_toNat _⟩,
     fun hr => ⟨_, vector1_next hl rfl (exec_vclz d a s) (fun _ => rfl) hr, fun L => clz_spec _⟩,
     fun hr => ⟨_, vector1_next hl rfl (exec_vctz d a s) (fun _ => rfl) hr, fun L => ctz_spec _⟩,
     fun hr => ⟨_, vector1_next hl rfl (exec_vbrev d a s) (fun _ => rfl) hr, fun L i hi => brev_getLsbD _ hi⟩,
     fun hr => ⟨_, vector2_next hl rfl (exec_vbfxZ d a b s) (fun _ _ => rfl) hr, fun L => bfxZ_toNat _ _⟩,
     fun hr => ⟨_, vector2_next hl rfl (exec_vbfxS d a b s) (fun _ _ => rfl) hr, fun L => bfxS_spec _ _⟩,
     fun hr => ⟨_, vector3_next hl rfl (exec_vbfi d a b s) hr, fun L i hi => bfi_getLsbD _ _ _ hi⟩⟩

end Sys2Proof.Proofs
end

section
/-! What vcmp, the selects and moves, and the words over the lanes of the group write (R222-R227). -/
namespace Sys2Proof.Proofs
open Sys2Proof Sys2Proof.Machine Sys2Proof.Laws

/-! ### Bits of a condition register -/

/-- The bits of the active lanes take the predicate's values, the others stay (R222). -/
theorem setConds_eq (s : State) (c : Nat) (f : Nat → Bool) : ∃ m : LaneMask, s.setConds c f = s.wC c m
    ∧ ∀ L, L < 32 → m.getLsbD L = if s.isActive L then f L else (s.cur.group.regs.getC c).getLsbD L := by
  refine ⟨_, rfl, fun L hL => ?_⟩
  rw [BitVec.getLsbD_or, BitVec.getLsbD_and, BitVec.getLsbD_not, activeMask_getLsbD s hL, maskOf_getLsbD _ hL]
  cases s.isActive L <;> simp [hL]

/-- Settles O11: vcmp sets the bits of the active lanes to its comparison, and each other word is one write of its value. -/
theorem vectorCompareSelectMoveResults : Obligations.VectorCompareSelectMoveResults := by
  intro s d a b c q p i hl t true_
  have holds (x y : W32) : icmpHolds p x y = true ↔ true_ x y := by
    cases p
    case eq => exact beq_iff_eq
    case ne => exact bne_iff_ne
    case ltS => exact BitVec.slt_iff_toInt_lt
    case leS => exact BitVec.sle_iff_toInt_le
    case gtS => exact BitVec.slt_iff_toInt_lt
    case geS => exact BitVec.sle_iff_toInt_le
    case ltZ => exact BitVec.ult_iff_toNat_lt
    case leZ => exact BitVec.ule_iff_toNat_le
    case gtZ => exact BitVec.ult_iff_toNat_lt
    case geZ => exact BitVec.ule_iff_toNat_le
    case tst => exact bne_iff_ne
  refine ⟨fun hr => ?compare, fun hr => (exec_vsel d a b c s).trans (runPure_wakes hl rfl hr),
    vector1_next hl rfl (exec_vmov d a s) fun _ => rfl, fun hr => (exec_vmovX64 d a s).trans (runPure_next ⟨hl, hr⟩),
    fun hr => (exec_vlit d i s).trans (runPure_wakes hl rfl hr), fun hr => (exec_vlaneid d s).trans (runPure_wakes hl rfl hr)⟩
  case compare =>
    obtain ⟨m, hm, hbits⟩ := setConds_eq s c fun L => icmpHolds p (s.rV a L) (s.b32 q L)
    refine ⟨m, ?_, fun L hL => ?_⟩
    · rw [exec_vcmp, execVcmp, runPure_reads ⟨hl, hr⟩ rfl, hm]
    · rw [hbits L hL]
      split
      next => exact holds _ _
      next => rfl

/-! ### Lanes of the group -/

/-- The ones of the mask of R226 below a place. -/
theorem toNat_rank (s : State) (c : Nat) {n : Nat} (hn : n ≤ 32) : (BitVec.ofNat 32 (countOnes (s.condMask c).toNat n)).toNat
    = ((List.range n).filter fun j => s.isActive j && (s.rC c).getLsbD j).length := by
  rw [toNat_ofNat_countOnes _ hn]
  exact congrArg List.length (List.filter_congr fun j hj => condMask_getLsbD ((List.mem_range.1 hj).trans_le hn))

/-- Settles O12: vballot and vmrank are read off the mask of R226, and each vshfl is `shuffle` of its source. -/
theorem laneWordResults : Obligations.LaneWordResults := by
  intro s d a c b hl t m reads
  exact
    ⟨fun hr => ⟨_, (exec_vballot d c s).trans (runPure_wakes hl rfl hr), fun j hj => condMask_getLsbD hj⟩,
     fun hr => ⟨_, (exec_vmrank d c s).trans (runPure_wakes hl rfl hr), fun L hL => toNat_rank t c hL.le⟩,
     fun hr => ⟨_, (exec_vmrankInc d c s).trans (runPure_wakes hl rfl hr), fun L hL => toNat_rank t c hL⟩,
     shuffle_next hl rfl (exec_vshflIdx d a b s), shuffle_next hl rfl (exec_vshflUp d a b s),
     shuffle_next hl rfl (exec_vshflDown d a b s), shuffle_next hl rfl (exec_vshflXor d a b s)⟩

end Sys2Proof.Proofs
end

section
/-! What the words of F32, F64 and packed arithmetic write (R234-R240). -/
namespace Sys2Proof.Proofs
open Sys2Proof Sys2Proof.Machine Sys2Proof.Laws

/-! ### The sign bit of an F32 pattern (R239) -/

theorem clearSign_eq_ofNat (x : W32) : x &&& 0x7FFFFFFF#32 = BitVec.ofNat 32 (x.toNat % 2 ^ 31) := by
  have hlt : x.toNat % 2 ^ 31 < 2 ^ 32 := (Nat.mod_le _ _).trans_lt x.isLt
  refine BitVec.eq_of_toNat_eq ?_
  rw [BitVec.toNat_ofNat, Nat.mod_eq_of_lt hlt]
  exact Nat.and_two_pow_sub_one_eq_mod x.toNat 31
/-- The weight of the sign, bit by bit. -/
theorem signMask_getLsbD (k : Nat) : (0x80000000#32).getLsbD k = decide (31 = k) := Nat.testBit_two_pow (n := 31)
/-- The sign is the top bit, so to add its weight flips it. -/
theorem flipSign_eq_ofNat (x : W32) : x ^^^ 0x80000000#32 = BitVec.ofNat 32 (x.toNat + 2 ^ 31) := by
  refine BitVec.eq_of_getLsbD_eq fun k hk => ?_
  rw [BitVec.getLsbD_xor, signMask_getLsbD, BitVec.getLsbD_ofNat, decide_eq_true hk, Bool.true_and, add_comm]
  rcases Nat.lt_succ_iff_lt_or_eq.1 hk with h | rfl
  · rw [Nat.testBit_two_pow_add_gt h, decide_eq_false h.ne', Bool.xor_false]
    rfl
  · rw [Nat.testBit_two_pow_add_eq, decide_eq_true rfl, Bool.xor_true]
    rfl
/-- The sign of one pattern and the bits below the sign of another lie in places of their own. -/
theorem copySign_eq_ofNat (x y : W32) :
    y &&& 0x80000000#32 ||| x &&& 0x7FFFFFFF#32 = BitVec.ofNat 32 (y.toNat / 2 ^ 31 * 2 ^ 31 + x.toNat % 2 ^ 31) := by
  refine BitVec.eq_of_getLsbD_eq fun k hk => ?_
  rw [clearSign_eq_ofNat, BitVec.getLsbD_or, BitVec.getLsbD_and, signMask_getLsbD, BitVec.getLsbD_ofNat, BitVec.getLsbD_ofNat,
    decide_eq_true hk, Bool.true_and, Bool.true_and, mul_comm, Nat.testBit_two_pow_mul_add _ (Nat.mod_lt _ (Nat.two_pow_pos _))]
  rcases Nat.lt_succ_iff_lt_or_eq.1 hk with h | rfl
  · rw [if_pos h, decide_eq_false h.ne', Bool.and_false, Bool.false_or]
  · rw [if_neg (lt_irrefl _), Nat.testBit_mod_two_pow, decide_eq_true rfl, decide_eq_false (lt_irrefl _), Bool.false_and, Bool.or_false,
      Bool.and_true, Nat.testBit_div_two_pow]
    rfl

/-! ### Codes lie within the bits of their format (R105, R116) -/

section Bounds
variable {f : Fp}
theorem signCode_add_lt (neg : Bool) {n : Nat} (h : n < 2 ^ (f.eb + f.mb)) : signCode f neg + n < 2 ^ (f.eb + f.mb + 1) := by
  rw [pow_succ]
  unfold signCode
  split <;> omega
/-- An exponent field and a fraction below the sign. -/
theorem field_add_lt {e m : Nat} (he : e ≤ f.top) (hm : m < 2 ^ f.mb) : e * 2 ^ f.mb + m < 2 ^ (f.eb + f.mb) := by
  have htop : f.top + 1 = 2 ^ f.eb := Nat.sub_add_cancel (Nat.two_pow_pos _)
  calc e * 2 ^ f.mb + m < (e + 1) * 2 ^ f.mb := by rw [add_mul, one_mul]; omega
    _ ≤ 2 ^ f.eb * 2 ^ f.mb := Nat.mul_le_mul_right _ (htop ▸ Nat.succ_le_succ he)
    _ = 2 ^ (f.eb + f.mb) := (pow_add ..).symm
theorem signCode_add_field_lt (neg : Bool) {e m : Nat} (he : e ≤ f.top) (hm : m < 2 ^ f.mb) :
    signCode f neg + e * 2 ^ f.mb + m < 2 ^ (f.eb + f.mb + 1) := by
  rw [add_assoc]
  exact signCode_add_lt neg (field_add_lt he hm)

theorem roundedCode_carry {mode : RMode} {neg : Bool} {q : Int} :
    roundedCode f mode neg (2 ^ (f.mb + 1)) q = roundedCode f mode neg (2 ^ f.mb) (q + 1) := by
  have h : 2 ^ f.mb ≠ 2 ^ (f.mb + 1) := (Nat.pow_lt_pow_succ (by decide)).ne
  simp [roundedCode, h]
/-- The code of a rounded fraction: below the normal numbers, among them, or an infinity. -/
theorem roundedCode_lt_of_lt (neg : Bool) {n : Nat} (q : Int) (hn : n < 2 ^ (f.mb + 1)) :
    roundedCode f .rne neg n q < 2 ^ (f.eb + f.mb + 1) := by
  by_cases hl : n < 2 ^ f.mb
  · have h := signCode_add_field_lt neg (Nat.zero_le f.top) hl
    rwa [zero_mul, add_zero, ← roundedCode_low (mode := .rne) (q := q) neg hl] at h
  rw [not_lt] at hl
  by_cases htop : q + f.mb + f.bias < f.top
  · rw [roundedCode_normal neg hl hn htop]
    exact signCode_add_field_lt neg (by omega) (by rw [pow_succ] at hn; omega)
  · rw [roundedCode_high neg hl hn htop]
    exact signCode_add_field_lt neg le_rfl (Nat.two_pow_pos _)
theorem roundedCode_lt (neg : Bool) {n : Nat} (q : Int) (hn : n ≤ 2 ^ (f.mb + 1)) : roundedCode f .rne neg n q < 2 ^ (f.eb + f.mb + 1) := by
  rcases hn.lt_or_eq with h | rfl
  · exact roundedCode_lt_of_lt neg q h
  · rw [roundedCode_carry]
    exact roundedCode_lt_of_lt neg _ (Nat.pow_lt_pow_succ (by decide))
theorem roundFin_rne_lt (neg : Bool) (m : Nat) (e : Int) : f.roundFin .rne neg m e < 2 ^ (f.eb + f.mb + 1) := by
  by_cases hm : m = 0
  · rw [hm, roundFin_zero]
    exact signCode_add_lt neg (Nat.two_pow_pos _)
  · rw [roundFin_eq_roundedCode f .rne neg hm]
    exact roundedCode_lt neg _ (roundAt_le (by unfold lastPlace; omega))
/-- What is rounded to nearest even fits the format, whatever the value. -/
theorem round_rne_lt (v : Val) : f.round .rne v < 2 ^ (f.eb + f.mb + 1) := by
  cases v with
  | nan =>
    have hquiet : 2 ^ (f.mb - 1) ≤ 2 ^ f.mb := Nat.pow_le_pow_right (by decide) (Nat.sub_le _ _)
    have htop : f.top * 2 ^ f.mb < 2 ^ (f.eb + f.mb) := field_add_lt le_rfl (Nat.two_pow_pos _)
    have hone : 2 ^ f.mb ≤ 2 ^ (f.eb + f.mb) := Nat.pow_le_pow_right (by decide) (Nat.le_add_left _ _)
    calc f.nan < 2 ^ (f.eb + f.mb) + 2 ^ (f.eb + f.mb) := Nat.add_lt_add_of_lt_of_le htop (hquiet.trans hone)
      _ = 2 ^ (f.eb + f.mb + 1) := by rw [pow_succ, mul_two]
  | inf neg => exact signCode_add_lt neg (field_add_lt le_rfl (Nat.two_pow_pos _))
  | fin neg m e => exact roundFin_rne_lt neg m e
end Bounds

/-! ### Packed words, half by half (R236) -/

/-- Half `k` of a lane. -/
def halfOf (w : W32) (k : Nat) : Nat := w.toNat / 2 ^ (16 * k) % 2 ^ 16
/-- Results of 16 bits stand apart, each computed from its own halves. -/
theorem halfOf_halves {f : Nat → Nat → Nat → Nat} (hf : ∀ x y z, f x y z < 2 ^ 16) (x y z : W32) {k : Nat} (hk : k < 2) :
    halfOf (halves f x y z) k = f (halfOf x k) (halfOf y k) (halfOf z k) := by
  have hword : (halves f x y z).toNat = (f (halfOf x 1) (halfOf y 1) (halfOf z 1) * 2 ^ 16 + f (halfOf x 0) (halfOf y 0) (halfOf z 0)) % 2 ^ 32 :=
    BitVec.toNat_ofNat ..
  have hlow := hf (halfOf x 0) (halfOf y 0) (halfOf z 0)
  have hhigh := hf (halfOf x 1) (halfOf y 1) (halfOf z 1)
  rw [halfOf, hword]
  rcases Nat.le_one_iff_eq_zero_or_eq_one.1 (Nat.lt_succ_iff.1 hk) with rfl | rfl <;> omega
theorem packedFp_width (h : Bool) : (packedFp h).eb + (packedFp h).mb + 1 = 16 := by cases h <;> rfl

/-! ### The shapes of the words, with their values -/

section Words
variable {s : State} {i : Instr} {d a : VReg} {b : BSel} (hl : s.cur.live = true)
include hl
theorem float3_next {f : W32 → W32 → W32 → W32} (hw : (uses i).wv = [d.val]) (hx : exec i s = float3 i d a b f s) (hr : regTraps i s = []) :
    exec i s = .next ((s.wakeFor [d.val]).setLanes d fun L =>
      f ((s.wakeFor [d.val]).rV a L) ((s.wakeFor [d.val]).bF32 b L) ((s.wakeFor [d.val]).rV d L)) := by
  rw [hx, float3, runPure_wakes hl hw hr]
theorem special1_next {f : Val → Nat} (hw : (uses i).wv = [d.val]) (hx : exec i s = special1 i d a f s) (hr : regTraps i s = []) :
    exec i s = .next ((s.wakeFor [d.val]).setLanes d fun L => BitVec.ofNat 32 (f (val32 ((s.wakeFor [d.val]).rV a L)))) := by
  rw [hx, special1, runPure_wakes hl hw hr]
theorem double3_next {f : W64 → W64 → W64 → W64} (hw : (uses i).wv = [d.val, d.val + 1]) (hx : exec i s = double3 i d a b f s)
    (hr : regTraps i s = []) :
    exec i s = .next ((s.wakeFor [d.val, d.val + 1]).setPairs d fun L =>
      f ((s.wakeFor [d.val, d.val + 1]).rP a L) ((s.wakeFor [d.val, d.val + 1]).bF64 b L) ((s.wakeFor [d.val, d.val + 1]).rP d L)) := by
  rw [hx, double3, runPure_next ⟨hl, hr⟩, State.acting, hw]
/-- A packed word writes, in each half of a lane, the one rounding of the exact result of that half. -/
theorem packed3_next {h : Bool} {f : Val → Val → Val → Val} (hw : (uses i).wv = [d.val]) (hx : exec i s = packed3 i d a b h f s)
    (hr : regTraps i s = []) : ∃ r : Nat → W32, exec i s = .next ((s.wakeFor [d.val]).setLanes d r) ∧
      ∀ L k, k < 2 → let v (w : W32) := (packedFp h).value (halfOf w k)
        halfOf (r L) k = (packedFp h).round .rne (f (v ((s.wakeFor [d.val]).rV a L)) (v ((s.wakeFor [d.val]).bHalf (packedFp h) b L))
          (v ((s.wakeFor [d.val]).rV d L))) % 2 ^ 16 := by
  have hfits (v : Val) : (packedFp h).round .rne v < 2 ^ 16 := packedFp_width h ▸ round_rne_lt v
  refine ⟨_, by rw [hx, packed3, runPure_wakes hl hw hr], fun L k hk => ?_⟩
  exact (halfOf_halves (fun _ _ _ => hfits _) _ _ _ hk).trans (Nat.mod_eq_of_lt (hfits _)).symm
end Words

/-- Settles O16: each word is `float3` or `special1` of its function in every active lane; the sign words act on bit 31 alone. -/
theorem floatThirtyTwoResults : Obligations.FloatThirtyTwoResults := by
  intro s c d a b m p hl t x y z gives
  refine
    ⟨float3_next hl rfl (exec_vfadd d a b m s), float3_next hl rfl (exec_vfsub d a b m s), float3_next hl rfl (exec_vfmul d a b m s),
     float3_next hl rfl (exec_vfma d a b m s), float3_next hl rfl (exec_vfnma d a b m s), float3_next hl rfl (exec_vfdiv d a b m s),
     float3_next hl rfl (exec_vfmin d a b s), float3_next hl rfl (exec_vfmax d a b s), float3_next hl rfl (exec_vfminn d a b s),
     float3_next hl rfl (exec_vfmaxn d a b s), special1_next hl rfl (exec_vfsqrt d a s), special1_next hl rfl (exec_vfrcp d a s),
     special1_next hl rfl (exec_vfrsq d a s), special1_next hl rfl (exec_vfex2 d a s), special1_next hl rfl (exec_vflg2 d a s),
     fun hr => ?clear, fun hr => ?flip, fun hr => ?copy, fun hr => (exec_vfcmp c a b p s).trans (runPure_reads ⟨hl, hr⟩ rfl)⟩
  case clear =>
    simp only [← clearSign_eq_ofNat]
    exact (exec_vfabs d a s).trans (runPure_wakes hl rfl hr)
  case flip =>
    simp only [← flipSign_eq_ofNat]
    exact (exec_vfneg d a s).trans (runPure_wakes hl rfl hr)
  case copy =>
    simp only [← copySign_eq_ofNat]
    exact float3_next hl rfl (exec_vfcpsgn d a b s) hr

/-- Settles O18: each word is `double3` of its function on the pairs of every active lane, or `packed3` on each half of it. -/
theorem floatSixtyFourAndPackedResults : Obligations.FloatSixtyFourAndPackedResults := by
  intro s c d a b m p h hl t x y z gives u fp half
  -- `(e :)` reads the function off the word's own equation, not off the lanes of the goal
  exact
    ⟨(double3_next hl rfl (exec_vdadd d a b s) :), (double3_next hl rfl (exec_vdsub d a b s) :), (double3_next hl rfl (exec_vdmul d a b s) :),
     (double3_next hl rfl (exec_vdfma d a b s) :), (double3_next hl rfl (exec_vddiv d a b m s) :),
     fun hr => (exec_vdsqrt d a s).trans (runPure_next ⟨hl, hr⟩), fun hr => (exec_vdcmp c a b p s).trans (runPure_reads ⟨hl, hr⟩ rfl),
     packed3_next hl rfl (exec_vhadd d a b h s), packed3_next hl rfl (exec_vhmul d a b h s), packed3_next hl rfl (exec_vhfma d a b h s)⟩

end Sys2Proof.Proofs
end

section
/-! The words cp.g2s, cp.s2g, cp.g2a, cp.g2w, cp.x2g and cp.g2g at issue (R263-R268, R288, R305). -/
namespace Sys2Proof.Proofs
open Sys2Proof Sys2Proof.Machine Sys2Proof.Laws

/-! ### The checks of a copy, each as the traps it raises -/

/-- The traps of a list of which a check makes a part. -/
theorem mem_ite_list {p : Prop} [Decidable p] {l : List TrapReq} {u : TrapReq} : u ∈ (if p then l else []) ↔ p ∧ u ∈ l := by
  split <;> simp_all
theorem forall_mem_rowStarts {base stride rows : Nat} {p : Nat → Prop} : (∀ a ∈ rowStarts base stride rows, p a) ↔ ∀ n, n < rows → p (base + n * stride) := by
  simp only [rowStarts, List.forall_mem_map, List.mem_range]
theorem exists_mem_rowStarts {base stride rows : Nat} {p : Nat → Prop} : (∃ a ∈ rowStarts base stride rows, p a) ↔ ∃ n, n < rows ∧ p (base + n * stride) := by
  simp only [rowStarts, List.mem_map, List.mem_range, exists_exists_and_eq_and]

/-- The literal of a copy word: reserved bits, or V and EXP that do not go together (R264). -/
theorem litTraps_eq (l : W32) (g : Bool) : litTraps l g = if l.toNat / 2 ^ 20 % 2 ^ 10 ≠ 0 ∨ (l.getLsbD 30 = true ∧ (l.getLsbD 31 = false ∨ g = true))
    ∨ (l.getLsbD 31 = false ∧ l.toNat % 2 ^ 20 ≠ 0) then [illegal 3] else [] := by
  simp only [litTraps, fld_0, Bool.not_eq_true']
  rfl
theorem mem_litTraps {l : W32} {g : Bool} {u : TrapReq} : u ∈ litTraps l g ↔ u = illegal 3 ∧ litTraps l g ≠ [] := by
  rw [litTraps]
  split <;> simp
/-- A drain names bytes of tiles alone, and none of an open tile (R288, R305). -/
theorem mem_drainTraps {t : Team} {a n : Nat} {u : TrapReq} : u ∈ drainTraps t a n ↔
    (u = trapOf .tileFormat ∧ ∃ k, k < n ∧ ∀ y ∈ t.tiles, y.meets (a + k) 1 = false)
      ∨ (u = trapOf .tileLive ∧ ∃ y ∈ t.tiles, y.state = 2 ∧ y.meets a n = true) := by
  rw [drainTraps, List.mem_append, mem_need, mem_need, and_comm, and_comm (b := u = trapOf .tileLive)]
  simp

/-- The counts of a copy are within the rule (R267). -/
def Counted (c : Copy) : Prop := 1 ≤ c.rows ∧ 4 ≤ c.rowSz ∧ c.rowSz ≤ 16777212 ∧ c.rows * c.rowSz ≤ 2 ^ 31 - 4
/-- The rows of one side lie in the share of a local space, or are canonical. -/
def RowsFit (t : Team) (c : Copy) (sp : Space) (base stride : Nat) : Prop :=
  ∀ n, n < c.rows → if sp = .global
    then canonical ((base + n * stride : Nat) : Int) = true ∧ canonical ((base + n * stride + c.rowSz - 1 : Nat) : Int) = true
    else base + n * stride + c.rowSz ≤ shareOf t sp

theorem mem_sideTraps {s : State} {c : Copy} {sp : Space} {base stride : Nat} {u : TrapReq} :
    u ∈ sideTraps s sp base stride c.rows c.rowSz ↔ u = trapOf .accessFault ∧ ¬RowsFit s.cur.team c sp base stride := by
  have hfit : RowsFit s.cur.team c sp base stride ↔ ∀ a ∈ rowStarts base stride c.rows, if sp = .global
      then canonical (a : Int) = true ∧ canonical ((a + c.rowSz - 1 : Nat) : Int) = true else a + c.rowSz ≤ shareOf s.cur.team sp :=
    (forall_mem_rowStarts (p := fun a => if sp = .global then canonical (a : Int) = true ∧ canonical ((a + c.rowSz - 1 : Nat) : Int) = true
      else a + c.rowSz ≤ shareOf s.cur.team sp)).symm
  rw [sideTraps, hfit, and_comm]
  by_cases h : sp = .global
  · simp only [h, if_true, mem_need, List.all_eq_true, Bool.and_eq_true]
  · simp only [h, if_false, mem_need, List.all_eq_true, inShare_nat]

/-- The ranges of a copy are looked at where its counts are within the rule. -/
theorem ranges_iff {p counts one two rest : Prop} : (¬counts ∧ p ∨ counts ∧ (p ∧ ¬one ∨ p ∧ ¬two) ∨ rest) ↔ p ∧ (¬counts ∨ ¬one ∨ ¬two) ∨ rest := by
  tauto
/-- All the traps of a cp (R264-R267, R74, R288). -/
theorem mem_copyTraps {s : State} {d : SReg} {c : Copy} {u : TrapReq} : u ∈ copyTraps s d c ↔
    (u = illegal 3 ∧ (litTraps s.cur.lit false ≠ [] ∨ (s.rS (d.val + 2)).toNat / 2 ^ 24 % 2 ^ 24 ≠ 0)) ∨ u ∈ litBarTraps s
      ∨ (u = trapOf .misaligned ∧ ∃ n ∈ [c.src, c.dst, c.sstride, c.dstride, c.rowSz], n % 4 ≠ 0)
      ∨ (u = trapOf .accessFault ∧ (¬Counted c ∨ ¬RowsFit s.cur.team c c.from_ c.src c.sstride ∨ ¬RowsFit s.cur.team c c.to_ c.dst c.dstride))
      ∨ (Counted c ∧ c.from_ = .scratch ∧ u = trapOf .deadRead ∧ ∃ n, n < c.rows ∧ touchesOff s.cur.team (c.src + n * c.sstride) c.rowSz = true)
      ∨ (Counted c ∧ c.from_ = .xbuf ∧ ∃ n, n < c.rows ∧ u ∈ drainTraps s.cur.team (c.src + n * c.sstride) c.rowSz) := by
  have hc : decide (1 ≤ c.rows ∧ 4 ≤ c.rowSz ∧ c.rowSz ≤ 16777212 ∧ c.rows * c.rowSz ≤ 2 ^ 31 - 4) = true ↔ Counted c := decide_eq_true_iff
  have hword : fld (s.rS (d.val + 2)).toNat 47 24 = (s.rS (d.val + 2)).toNat / 2 ^ 24 % 2 ^ 24 := rfl
  have hrows : u ∈ (rowStarts c.src c.sstride c.rows).flatMap (fun a => drainTraps s.cur.team a c.rowSz) ↔
      ∃ n, n < c.rows ∧ u ∈ drainTraps s.cur.team (c.src + n * c.sstride) c.rowSz := List.mem_flatMap.trans exists_mem_rowStarts
  have hoff : (!((rowStarts c.src c.sstride c.rows).any fun a => touchesOff s.cur.team a c.rowSz)) = true ↔
      ¬∃ n, n < c.rows ∧ touchesOff s.cur.team (c.src + n * c.sstride) c.rowSz = true := by
    rw [← exists_mem_rowStarts (p := fun a => touchesOff s.cur.team a c.rowSz = true), ← List.any_eq_true, Bool.not_eq_true', Bool.not_eq_true]
  have hal : ¬(([c.src, c.dst, c.sstride, c.dstride, c.rowSz].all fun n => n % 4 == 0) = true) ↔
      ∃ n ∈ [c.src, c.dst, c.sstride, c.dstride, c.rowSz], n % 4 ≠ 0 := by
    simp only [List.all_eq_true, beq_iff_eq, not_forall, exists_prop, ne_eq]
  simp only [copyTraps, List.mem_append, mem_ite_list, mem_need, mem_sideTraps, hc, hword, hrows, hoff, hal, not_not, List.mem_singleton]
  rw [mem_litTraps, and_comm (b := u = illegal 3), and_comm (b := u = trapOf .misaligned), and_comm (b := u = trapOf .deadRead), and_or_left (a := u = illegal 3)]
  simp only [or_assoc, and_assoc, ranges_iff]

/-! ### The command -/

/-- The command of a cp over the scalars at `d` (R265-R268). -/
def cpCommand (s : State) (d : SReg) (q : Fin 6) (kind : Nat) (a b : Space) : Copy :=
  { kind := kind, queue := q, src := word4 s d 0, dst := word4 s d 1, rows := word4 s d 2 / 2 ^ 48, rowSz := word4 s d 2 % 2 ^ 24
    sstride := word4 s d 3 % 2 ^ 32, dstride := word4 s d 3 / 2 ^ 32
    bar := if s.cur.lit.getLsbD 31 then some (s.cur.lit.toNat % 2 ^ 20) else none, from_ := a, to_ := b }
theorem copyOf_eq (s : State) (d : SReg) (q : Fin 6) (kind : Nat) :
    copyOf s d kind q = cpCommand s d q kind (copySpaces kind).1 (copySpaces kind).2 := by
  simp only [copyOf, litBar, fld_0, fld_63]
  rfl

/-- A cp takes the worst trap of its checks, or places its command with the bytes that it expects. -/
theorem cpWord_goes {i : Instr} {s : State} {d : SReg} {q : Fin 6} {kind : Nat} {c : Copy} (hl : s.cur.live = true) (hr : (uses i).rv = [])
    (hw : (uses i).wv = []) (he : exec i s = cpWord i kind d q s) (hc : c = cpCommand s d q kind (copySpaces kind).1 (copySpaces kind).2) :
    (copyTraps s d c = [] → exec i s = .next (s.queueCopy c (if s.cur.lit.getLsbD 30 then c.rows * c.rowSz else 0)))
      ∧ ∀ t ts, copyTraps s d c = t :: ts → exec i s = .next (s.trapWord (worstTrap t ts)) := by
  subst hc
  rw [← copyOf_eq, he, cpWord, copyWord, runWord_answer hl hr hw]
  refine ⟨fun h => ?_, fun t ts h => ?_⟩
  · rw [copyCommand_ok (Prod.ext h rfl)]
    rfl
  · rw [copyCommand_error h]
    rfl

/-- Settles O36: the traps of a cp are read off its list of checks, and each kind is one cp word with its two spaces. -/
theorem copyWordsIssue : Obligations.CopyWordsIssue := by
  intro s d q hl w cmd goes
  refine ⟨fun kind a b u => mem_copyTraps, litTraps_eq, fun h => ?_, fun h => ?_, fun t a n u => mem_drainTraps, cpWord_goes hl rfl rfl (exec_cpG2s _ _ _) rfl,
    cpWord_goes hl rfl rfl (exec_cpS2g _ _ _) rfl, cpWord_goes hl rfl rfl (exec_cpG2a _ _ _) rfl, cpWord_goes hl rfl rfl (exec_cpG2w _ _ _) rfl,
    cpWord_goes hl rfl rfl (exec_cpX2g _ _ _) rfl, cpWord_goes hl rfl rfl (exec_cpG2g _ _ _) rfl⟩
  · rw [litBarTraps, litBar, h]
    rfl
  · rw [litBarTraps, litBar, h, fld_0]
    rfl

end Sys2Proof.Proofs
end

section
/-! The matrix words at issue: what each changes at once and what it puts in queue 6 (R281-R289, R294-R305). -/
namespace Sys2Proof.Proofs
open Sys2Proof Sys2Proof.Machine Sys2Proof.Laws

/-- A check that is passed raises no trap. -/
theorem need_passed {ok : Bool} {k : TrapKind} (h : ok = true) : Machine.need ok k = [] := if_pos h

section Frame
variable {s : State} (hl : s.cur.live = true) (hf : s.fencedMx.contains s.cur.team.core = false)
include hl hf
/-- A matrix word on an engine that is not fenced, with its pair bound, injection allowed where it asks for it, and its own checks passed. -/
theorem matrixWord_next {i : Instr} {pair : Option Nat} {j : Bool} {f : State → List TrapReq × State} (hr : regTraps i s = []) (hw : (uses i).wv = [])
    (hp : ∀ n, pair = some n → s.seat.bound s.cur.team.core n = true) (hj : j = true → s.seat.pl.inj = true) (hown : (f s).1 = []) :
    matrixWord i pair j f s = .next (f s).2 := by
  have hinj : (if j && !s.seat.pl.inj then [trapOf .accessFault] else []) = [] := by
    cases j with
    | false => rfl
    | true => simp [hj rfl]
  refine runWord_next ⟨hl, hr⟩ ?_
  rw [acting_bare hw]
  dsimp only
  rw [hf, hinj, hown]
  cases pair with
  | none => rfl
  | some n =>
    dsimp only
    rw [hp n rfl]
    rfl
theorem matrixWord_group {i : Instr} {f : State → List TrapReq × State} (hr : regTraps i s = []) (hw : (uses i).wv = []) (hown : (f s).1 = []) :
    matrixWord i none false f s = .next (f s).2 :=
  matrixWord_next hl hf hr hw (fun _ h => nomatch h) (fun h => nomatch h) hown
theorem matrixWord_pair {i : Instr} {n : Nat} {f : State → List TrapReq × State} (hr : regTraps i s = []) (hw : (uses i).wv = [])
    (hb : s.seat.bound s.cur.team.core n = true) (hown : (f s).1 = []) : matrixWord i (some n) false f s = .next (f s).2 :=
  matrixWord_next hl hf hr hw (fun _ h => Option.some.inj h ▸ hb) (fun h => nomatch h) hown

/-- A pass over the active plane of its pair, whose checks its quarters pass, opens the tiles of its quarters (R301-R303). -/
theorem passWord_next {i : Instr} {block acc j : Bool} {p : VReg} {r : Fin 4} {f : Fmt} {pr : PlanePair} {d : PlaneDesc} (hr : regTraps i s = [])
    (hw : (uses i).wv = []) (hb : s.seat.bound s.cur.team.core r = true) (hj : j = true → s.seat.pl.inj = true)
    (hpr : pr = s.pair s.cur.team.seat s.cur.team.vf s.cur.team.core r) (hd : pr.active = some d) (hk : (pairKind f d.fmt).isSome = true)
    (hc : decide (fmtClass f = 2) = block) (hkl : d.kl ≤ (pairLimit f d.fmt).1) (hnl : d.nl ≤ (pairLimit f d.fmt).2)
    (hq : ∀ q ∈ quartersIn s, quarterTraps s p block f d q = []) :
    passWord i block p r f acc j s = .next ((s.onTeam fun t => ((quartersIn s).map (quarterOf s p)).foldl (fun t q => t.tileState q.tile 2) t).queueMx
      (.pass block r pr.gen pr.phys d.ver f acc j ((quartersIn s).map (quarterOf s p)))) := by
  subst hpr
  refine (matrixWord_next hl hf hr hw (fun _ h => Option.some.inj h ▸ hb) hj ?_).trans ?_
  · dsimp only
    rw [hd]
    refine List.append_eq_nil_iff.2 ⟨need_passed ?_, List.flatMap_eq_nil_iff.2 hq⟩
    have hclass : (fmtClass f == 2) = block := hc ▸ rfl
    simp [hk, hclass, hkl, hnl]
  · dsimp only
    rw [hd]
end Frame

/-- The checks of an xcfg that are passed (R288, R298). -/
theorem xcfg_live_passed {t : Team} {n : Nat} {disc : Bool} (h : ∀ z, t.tile n = some z → disc = true ∨ z.state < 2) :
    (!(match t.tile n with
      | some z => !disc && decide (2 ≤ z.state)
      | none => false)) = true := by
  cases hz : t.tile n with
  | none => rfl
  | some z => rcases h z hz with hd | hs <;> simp [*]

/-- Settles O40: each word is the frame of R281 and R294 around checks that the statement's conditions pass, one by one. -/
theorem matrixWordsIssue : Obligations.MatrixWordsIssue := by
  intro s p r f a j k disc hl hf t w pr bound y inj pass
  have passes {i : Instr} {block acc : Bool} (hw : (uses i).wv = []) (he : exec i s = passWord i block p r f acc j s) : pass i block acc :=
    fun hr hb hj d hd hk hc hkl hnl hq => he.trans (passWord_next hl hf hr hw hb hj rfl hd hk hc hkl hnl hq)
  refine ⟨fun hr hid hlo hhi hrows hc hc' hp ha hlive hal hin => ?_, fun hr hb hk hk' hk'' hn hn' h0 h1 hin => ?_, fun hb => ?_, passes rfl (exec_xmm ..), passes rfl (exec_xbmm ..),
    fun hr hw y z hy hz hkind hkind' hrow hcol hpl => ?_, fun hr hw ht => ?_, fun hr hw ht => ?_⟩
  · refine (exec_xcfg ..).trans (matrixWord_group hl hf hr rfl ?_)
    have hshape : (decide (y.id < 16 ∧ 8 ≤ y.rows ∧ y.rows ≤ 128 ∧ y.rows % 8 = 0 ∧ 1 ≤ y.cols ∧ y.cols ≤ 128)
        && (if k = .part then decide (1 ≤ y.planes ∧ y.planes ≤ 8) else y.planes == 0)) = true := by
      refine Bool.and_eq_true_iff.2 ⟨decide_eq_true ⟨hid, hlo, hhi, hrows, hc, hc'⟩, ?_⟩
      by_cases hk : k = .part
      · rw [if_pos hk] at hp ⊢
        exact decide_eq_true hp
      · rw [if_neg hk] at hp ⊢
        exact beq_iff_eq.2 hp
    have hapart : (!(t.tiles.any fun z => z.id != y.id && z.meets y.off y.bytes)) = true := by
      simpa using ha
    have halign : (y.off % 256 == 0) = true := beq_iff_eq.2 hal
    exact List.append_eq_nil_iff.2 ⟨List.append_eq_nil_iff.2 ⟨List.append_eq_nil_iff.2 ⟨need_passed (Bool.and_eq_true_iff.2 ⟨hshape, hapart⟩),
      need_passed (xcfg_live_passed hlive)⟩, need_passed halign⟩, need_passed hin⟩
  · refine (exec_xlds ..).trans (matrixWord_pair hl hf hr rfl hb ?_)
    refine List.append_eq_nil_iff.2 ⟨List.append_eq_nil_iff.2 ⟨need_passed (decide_eq_true ⟨hk, hk', hk'', hn, hn'⟩), need_passed ?_⟩, need_passed ?_⟩
    · exact Bool.and_eq_true_iff.2 ⟨beq_iff_eq.2 h0, beq_iff_eq.2 h1⟩
    · exact List.all_eq_true.2 fun c hc => hin c (Nat.lt_of_lt_of_le (List.mem_range.1 hc) (Nat.min_le_left _ _))
  · exact (exec_xswp ..).trans (matrixWord_pair hl hf (regTraps_bare rfl rfl) rfl hb rfl)
  · have hsrc : fld (par s p 0) 3 0 = w 0 % 16 := fld_0 _ _
    refine (exec_xscac ..).trans ((matrixWord_group hl hf hr rfl (need_passed ?_)).trans (by dsimp only; rw [hsrc]; rfl))
    have hres : fld (par s p 0) 31 15 = 0 := by rw [fld, show par s p 0 / 2 ^ 15 = 0 from hw, Nat.zero_mod]
    rw [hsrc, hres, hy, show s.cur.team.tile (fld (par s p 0) 7 4) = some z from hz]
    have hplanes : fld (par s p 0) 11 8 + (fld (par s p 0) 14 12 + 1) ≤ y.planes := hpl
    simp [hkind, hkind', hrow, hcol, hplanes]
  · refine (exec_xdrn ..).trans (matrixWord_group hl hf hr rfl (need_passed ?_))
    exact Bool.and_eq_true_iff.2 ⟨decide_eq_true hw, List.all_eq_true.2 ht⟩
  · refine (exec_xrel ..).trans (matrixWord_group hl hf hr rfl (List.append_eq_nil_iff.2 ⟨need_passed (decide_eq_true hw), need_passed ?_⟩))
    rcases ht with hd | ht
    · rw [hd]
      rfl
    · refine Bool.or_eq_true_iff.2 (.inr ?_)
      rw [Bool.not_eq_true', List.any_eq_false]
      intro k hk
      cases hy : t.tile k with
      | none => simp
      | some y => simpa using ht k hk y hy

end Sys2Proof.Proofs
end

section
/-! The ring words at issue: the checks of their slot and of their own, and the operation each puts at its station (R310, R314, R318-R323). -/
namespace Sys2Proof.Proofs
open Sys2Proof Sys2Proof.Machine Sys2Proof.Laws

/-! ### The trap taken where the slot fails (R7, R310, R318) -/

/-- The kind of a code. -/
def kindOf : Nat → TrapKind
  | 1 => .illegalInstruction | 2 => .registerUncorrectable | 3 => .registerParity | 4 => .deadRead
  | 5 => .environmentRead | 6 => .nestOverflow | 7 => .tileFormat | 8 => .tileLive | 9 => .ringNotOwned
  | 10 => .ringOpForbidden | 11 => .misaligned | 12 => .accessFault | 13 => .translationFault
  | 14 => .memoryUncorrectable | 15 => .matrixLasting | 16 => .softwareTrap | _ => .breakpoint
theorem kindOf_trapCode (k : TrapKind) : kindOf (trapCode k) = k := by cases k <;> rfl
theorem trapCode_injective {k k' : TrapKind} (h : trapCode k = trapCode k') : k = k' := by
  rw [← kindOf_trapCode k, h, kindOf_trapCode]

/-- A trap of a word that concerns no lane: of a kind alone, or a reserved field. -/
def OwnTrap (u : TrapReq) : Prop := (∃ k, u = trapOf k) ∨ u = illegal 3
theorem ownTrap_need {ok : Bool} {k : TrapKind} : ∀ u ∈ Machine.need ok k, OwnTrap u := fun _ hu => .inl ⟨k, (mem_need.1 hu).2⟩
theorem OwnTrap.append {l m : List TrapReq} (hl : ∀ u ∈ l, OwnTrap u) (hm : ∀ u ∈ m, OwnTrap u) : ∀ u ∈ l ++ m, OwnTrap u :=
  fun u hu => (List.mem_append.1 hu).elim (hl u) (hm u)
theorem ownTrap_ite {p : Prop} [Decidable p] {l m : List TrapReq} (hl : ∀ u ∈ l, OwnTrap u) (hm : ∀ u ∈ m, OwnTrap u) :
    ∀ u ∈ (if p then l else m), OwnTrap u := by
  split
  · exact hl
  · exact hm
theorem ownTrap_nil : ∀ u ∈ ([] : List TrapReq), OwnTrap u := fun _ h => nomatch h
theorem ownTrap_trapOf (k : TrapKind) : ∀ u ∈ [trapOf k], OwnTrap u := fun _ h => .inl ⟨k, List.mem_singleton.1 h⟩
theorem ownTrap_object (s : State) (off : Nat) (valid : Bool) : ∀ u ∈ objectTraps s off valid, OwnTrap u :=
  .append (.append (ownTrap_ite (ownTrap_trapOf _) ownTrap_nil) (ownTrap_ite (ownTrap_ite (ownTrap_trapOf _) ownTrap_nil) (ownTrap_trapOf _)))
    (ownTrap_ite (ownTrap_trapOf _) ownTrap_nil)

/-- Of own traps beside one of a kind, that one is taken or one of a lower kind. -/
theorem worstTrap_own {k : TrapKind} {ts : List TrapReq} (h : ∀ u ∈ ts, OwnTrap u) :
    worstTrap (trapOf k) ts = trapOf k ∨ trapCode (worstTrap (trapOf k) ts).kind < trapCode k := by
  have hle : NoWorse (worstTrap (trapOf k) ts) (trapOf k) := worstTrap_noWorse _ _ _ List.mem_cons_self
  have hown : OwnTrap (worstTrap (trapOf k) ts) := by
    rcases List.mem_cons.1 (worstTrap_mem (trapOf k) ts) with h' | h'
    · exact .inl ⟨k, h'⟩
    · exact h _ h'
  rcases hle with hlt | ⟨hk, hrest⟩
  · exact .inr hlt
  · rcases hown with ⟨k', h'⟩ | h'
    · rw [h'] at hk ⊢
      exact .inl (congrArg trapOf (trapCode_injective hk))
    · rw [h'] at hrest
      exact absurd hrest (by simp [illegal, trapOf])

/-! ### The frame of a ring word (R319) -/

/-- A slot that a ring word may name. -/
def SlotOk (s : State) (n : Nat) : Prop := n < 576 ∧ s.seat.pl.dmap.getLsbD (n % 64) = true ∧ (s.slot n).state ≠ 3
theorem slotTraps_ok {s : State} {n : Nat} (h : SlotOk s n) : slotTraps s n = [] := by
  obtain ⟨hn, ho, hf⟩ := h
  simp [slotTraps, Nat.not_le.2 hn, ho, hf]
theorem slotTraps_bounds {s : State} {n : Nat} (h : 576 ≤ n) : slotTraps s n = [trapOf .accessFault] := if_pos h
theorem slotTraps_owner {s : State} {n : Nat} (h : n < 576) (ho : s.seat.pl.dmap.getLsbD (n % 64) = false) :
    slotTraps s n = trapOf .ringNotOwned :: if (s.slot n).state = 3 then [trapOf .memoryUncorrectable] else [] := by
  rw [slotTraps, if_neg (Nat.not_le.2 h), ho]
  rfl
theorem slotTraps_fenced {s : State} {n : Nat} (h : n < 576) (ho : s.seat.pl.dmap.getLsbD (n % 64) = true) (hf : (s.slot n).state = 3) :
    slotTraps s n = [trapOf .memoryUncorrectable] := by
  rw [slotTraps, if_neg (Nat.not_le.2 h), ho, if_pos hf]
  rfl

section Frame
variable {s : State} {i : Instr} {a : SReg} {more : State → List TrapReq} {f : State → Nat → State} (hl : s.cur.live = true) (hr : (uses i).rv = [])
  (hw : (uses i).wv = []) (he : exec i s = ringWord i a more f s)
include hl hr hw he
theorem ringWord_answer : exec i s = answerOf s (match check (slotTraps s (s.rS a).toNat ++ more s) with
    | .error t => .error t
    | .ok _ => .ok (f s (s.rS a).toNat)) := he.trans (runWord_answer hl hr hw)
theorem ringWord_next (h : SlotOk s (s.rS a).toNat) (hm : more s = []) : exec i s = .next (f s (s.rS a).toNat) := by
  rw [ringWord_answer hl hr hw he, slotTraps_ok h, hm]
  rfl
theorem ringWord_own {t : TrapReq} (h : SlotOk s (s.rS a).toNat) (hm : more s = [t]) : exec i s = .next (s.trapWord t) := by
  rw [ringWord_answer hl hr hw he, slotTraps_ok h, hm, List.nil_append, check_cons]
  rfl
variable {k : TrapKind} {ts : List TrapReq} (h : slotTraps s (s.rS a).toNat = trapOf k :: ts)
include h
/-- Without checks of its own a word takes the trap of its slot. -/
theorem ringWord_slot (hts : ∀ u ∈ ts, trapCode k < trapCode u.kind) (hm : more s = []) : exec i s = .next (s.trapWord (trapOf k)) := by
  rw [ringWord_answer hl hr hw he, h, hm, List.append_nil, check_lowest hts]
  rfl
/-- With checks of its own it takes that trap or one of a lower kind. -/
theorem ringWord_worst (hts : ∀ u ∈ ts, OwnTrap u) (hm : ∀ u ∈ more s, OwnTrap u) :
    ∃ u, exec i s = .next (s.trapWord u) ∧ (u = trapOf k ∨ trapCode u.kind < trapCode k) := by
  refine ⟨worstTrap (trapOf k) (ts ++ more s), ?_, worstTrap_own (.append hts hm)⟩
  rw [ringWord_answer hl hr hw he, h, List.cons_append, check_cons]
  rfl
end Frame

/-! ### sg.arm (R316, R322) -/

/-- What the older local accesses of the group leave to a word in focus: its registers, its trap, its age, and the arms. -/
def KeepsFocus (s t : State) : Prop := t.cur.group = s.cur.group ∧ t.cur.trap = s.cur.trap ∧ t.nextOp = s.nextOp ∧ t.arms = s.arms
theorem KeepsFocus.refl (s : State) : KeepsFocus s s := ⟨rfl, rfl, rfl, rfl⟩
theorem KeepsFocus.trans {s t u : State} (h : KeepsFocus s t) (k : KeepsFocus t u) : KeepsFocus s u := by
  obtain ⟨hg, ht, hn, ha⟩ := h
  obtain ⟨kg, kt, kn, ka⟩ := k
  exact ⟨kg.trans hg, kt.trans ht, kn.trans hn, ka.trans ha⟩
theorem KeepsFocus.foldl {α : Type} {f : State → α → State} (hf : ∀ s x, KeepsFocus s (f s x)) (l : List α) (s : State) : KeepsFocus s (l.foldl f s) := by
  induction l generalizing s with
  | nil => exact .refl s
  | cons x xs ih => exact (hf s x).trans (ih _)
theorem keepsFocus_once (s : State) (c : Nat) (e : Event) : KeepsFocus s (s.once c e) := by
  unfold State.once
  split <;> exact .refl _
theorem keepsFocus_anyTeam (s : State) (id : Nat) (f : Team → Team) : KeepsFocus s (s.anyTeam id f) := by
  unfold State.anyTeam
  split <;> exact ⟨rfl, rfl, rfl, rfl⟩
theorem keepsFocus_mapOp (s : State) (id : Nat) (f : Op → Op) : KeepsFocus s (s.mapOp id f) := ⟨rfl, rfl, rfl, rfl⟩
theorem keepsFocus_touchBars (s : State) (id : Nat) (sp : Space) : KeepsFocus s (s.touchBars id sp) := by
  unfold State.touchBars State.barWake
  split
  · exact (keepsFocus_once _ _ _).trans (.foldl (fun _ _ => keepsFocus_once _ _ _) _ _)
  · exact .refl s
theorem keepsFocus_localLanes (s : State) (id : Nat) (m : LaneMask) : KeepsFocus s (s.localLanes id m) := by
  unfold State.localLanes
  split
  · exact .refl s
  · split
    · exact .refl s
    · dsimp only
      split
      · exact (keepsFocus_mapOp s id _).trans (keepsFocus_mapOp _ _ _)
      · exact ((keepsFocus_mapOp s id _).trans (keepsFocus_anyTeam _ _ _)).trans (keepsFocus_touchBars _ _ _)
      · exact (((keepsFocus_mapOp s id _).trans (keepsFocus_anyTeam _ _ _)).trans (keepsFocus_touchBars _ _ _)).trans (keepsFocus_mapOp _ _ _)
      · exact keepsFocus_mapOp s id _
theorem keepsFocus_settleLocal (s : State) (team gid id : Nat) (sp : Space) (l : List (Nat × Nat)) : KeepsFocus s (s.settleLocal team gid id sp l) :=
  .foldl (fun _ _ => keepsFocus_localLanes _ _ _) _ _

/-- An arm's object as its update leaves it: ARMED is 1 (R316). -/
def armObject (off : Nat) (t : Team) : Team :=
  let b := readBar t.scratch off
  { t.clearMarks .scratch [(off, 16)] with scratch := writeBar t.scratch off (if b.armed then b else { b with low := b.low + 8 }) }
/-- The arm of an operation. -/
def armOf (o : Op) (n : Nat) (c : ArmCmp) (w : Nat) (x : W32) (off g : Nat) : Arm :=
  { id := o.id, seat := o.seat, core := o.core, slot := n, w := w, cmp := c, x := x, team := o.team, gid := o.gid, off := off, word := o.word
    pkt := o.pkt, pslot := o.slot, from_ := g + 1 }
/-- An arm is registered at its station, and the registers, the trap and the age of the word stay. -/
theorem addArm_spec (s : State) (o : Op) (n : Nat) (c : ArmCmp) (w : Nat) (x : W32) (off : Nat) :
    (s.addArm o n c w x off).cur.group = s.cur.group ∧ (s.addArm o n c w x off).cur.trap = s.cur.trap ∧ (s.addArm o n c w x off).nextOp = s.nextOp
      ∧ ∃ y ∈ (s.addArm o n c w x off).arms, y.slot = n ∧ y.w = w ∧ y.cmp = c ∧ y.off = off ∧ y.x = x := by
  let u := (s.settleLocal o.team o.gid o.id .scratch [(off, 16)]).anyTeam o.team (armObject off)
  have hu : KeepsFocus s u := (keepsFocus_settleLocal _ _ _ _ _ _).trans (keepsFocus_anyTeam _ _ _)
  let v : State := { u with arms := u.arms ++ [armOf o n c w x off u.g] }
  have hv : KeepsFocus v (s.addArm o n c w x off) := keepsFocus_once v _ _
  obtain ⟨hg, ht, hn, -⟩ := hu
  obtain ⟨kg, kt, kn, ka⟩ := hv
  refine ⟨kg.trans hg, kt.trans ht, kn.trans hn, armOf o n c w x off u.g, ?_, rfl, rfl, rfl, rfl, rfl⟩
  rw [ka]
  exact List.mem_append_right _ (List.mem_singleton_self _)
/-- The word has taken its age, and no register of its group has changed. -/
def Issued (s u : State) : Prop := u.cur.trap = s.cur.trap ∧ u.nextOp = s.nextOp + 1 ∧ u.cur.group.regs = s.cur.group.regs
theorem Issued.onGroup {s u : State} (h : Issued s u) {f : Group → Group} (hf : ∀ g, (f g).regs = g.regs) : Issued s (u.onGroup f) :=
  ⟨h.1, h.2.1, (hf _).trans h.2.2⟩
theorem Issued.iteGroup {s u : State} {p : Prop} [Decidable p] (h : Issued s u) {f : Group → Group} (hf : ∀ g, (f g).regs = g.regs) :
    Issued s (if p then u.onGroup f else u) := by
  split
  · exact h.onGroup hf
  · exact h
theorem issued_launchOp (s : State) (o : Op) : Issued s (s.launchOp o) := ⟨rfl, rfl, rfl⟩
/-- A ring operation that a portable team buffers takes its age and changes no register. -/
theorem issued_queueRing {s : State} {o : Op} (hp : s.cur.team.portable = true) (n : Nat) (keys : List Nat) : Issued s (s.queueRing o n false keys) := by
  unfold State.queueRing
  dsimp only
  rw [if_pos hp]
  refine Issued.onGroup (Issued.iteGroup (Issued.iteGroup (Issued.onGroup (issued_launchOp s _) ?_) ?_) ?_) ?_ <;> exact fun _ => rfl

/-! ### The words -/

/-- The checks of each word's own raise own traps alone. -/
theorem ownTrap_arm (s : State) (d : SReg) : ∀ u ∈ (if armReserved s d then [illegal 3] else [])
    ++ objectTraps s (fld (s.rS d).toNat 19 0) true ++ Machine.need (!(s.bar (fld (s.rS d).toNat 19 0)).armed) .accessFault, OwnTrap u :=
  .append (.append (ownTrap_ite (fun _ h => .inr (List.mem_singleton.1 h)) ownTrap_nil) (ownTrap_object _ _ _)) ownTrap_need

/-- A sg.arm whose checks pass (R322). -/
theorem sgArm_next {s : State} {d a : SReg} {c : ArmCmp} {w : Fin 8} (hl : s.cur.live = true) (h : SlotOk s (s.rS a).toNat)
    (hd : (s.rS d).toNat < 2 ^ 20) (hx : (s.rS (d.val + 1)).toNat < 2 ^ 32) (ho : objectTraps s (s.rS d).toNat true = [])
    (ha : (s.bar (s.rS d).toNat).armed = false) : ∃ t, exec (.sgArm d a c w) s = .next t ∧ t.cur.trap = s.cur.trap ∧ t.nextOp = s.nextOp + 1
      ∧ t.cur.group.regs = s.cur.group.regs ∧ (s.cur.team.portable = false → ∃ x ∈ t.arms, x.slot = (s.rS a).toNat ∧ x.w = w.val ∧ x.cmp = c
        ∧ x.off = (s.rS d).toNat ∧ x.x = (s.rS (d.val + 1)).truncate 32) := by
  have hoff : fld (s.rS d).toNat 19 0 = (s.rS d).toNat := (fld_0 _ _).trans (Nat.mod_eq_of_lt hd)
  have hres : armReserved s d = false := by
    simp only [armReserved, fld_63, Nat.div_eq_of_lt hd, Nat.div_eq_of_lt hx]
    rfl
  refine ⟨_, ringWord_next hl rfl rfl (exec_sgArm d a c w s) h ?_, ?_⟩
  · dsimp only
    rw [hoff, hres, ho, ha]
    rfl
  · dsimp only
    rw [hoff]
    by_cases hp : s.cur.team.portable = true
    · rw [if_pos hp]
      obtain ⟨ht, hn, hr⟩ := issued_queueRing (o := blankOp (.ring (s.rS a).toNat (.arm c w (lo32 (s.rS (d.val + 1))) (s.rS d).toNat))) hp (s.rS a).toNat []
      exact ⟨ht, hn, hr, fun h => absurd hp (by rw [h]; decide)⟩
    · rw [if_neg hp]
      obtain ⟨hg, ht, hn, hx⟩ := addArm_spec { s with nextOp := s.nextOp + 1 } _ (s.rS a).toNat c w.val (lo32 (s.rS (d.val + 1))) (s.rS d).toNat
      exact ⟨ht, hn, congrArg Group.regs hg, fun _ => hx⟩

/-- Settles O41: the slot's trap stands first among a word's checks, and a word that passes them puts its operation at the station. -/
theorem ringWordsIssue : Obligations.RingWordsIssue := by
  intro s d a acq p w r c hl n v ok keys loads
  have hhi : hi32 v = BitVec.ofNat 32 (v.toNat / 2 ^ 32) := by
    refine BitVec.eq_of_toNat_eq ?_
    simp [hi32, Nat.shiftRight_eq_div_pow]
  have hforbidden : (p == .xchg32 || p == .cas32 || p == .addF32) = true ↔ p = .xchg32 ∨ p = .cas32 ∨ p = .addF32 := by
    simp only [Bool.or_eq_true, beq_iff_eq, or_assoc]
  have stops {k : TrapKind} {ts : List TrapReq} (h : slotTraps s n = trapOf k :: ts) (hk : ∀ u ∈ ts, trapCode k < trapCode u.kind) (hts : ∀ u ∈ ts, OwnTrap u) :
      (∀ i ∈ [.sgAlight d a, .sgRev d a, .sgCap d a acq], exec i s = .next (s.trapWord (trapOf k)))
        ∧ ∀ i ∈ [.sgBoard d a, .sgMod d a p w r, .sgArm d a c w], ∃ u, exec i s = .next (s.trapWord u) ∧ (u = trapOf k ∨ trapCode u.kind < trapCode k) := by
    simp only [List.forall_mem_cons, List.not_mem_nil, false_imp_iff, implies_true, and_true]
    exact ⟨⟨ringWord_slot hl rfl rfl (exec_sgAlight d a s) h hk rfl, ringWord_slot hl rfl rfl (exec_sgRev d a s) h hk rfl,
        ringWord_slot hl rfl rfl (exec_sgCap d a acq s) h hk rfl⟩,
      ringWord_worst hl rfl rfl (exec_sgBoard d a s) h hts (.append ownTrap_need ownTrap_need),
      ringWord_worst hl rfl rfl (exec_sgMod d a p w r s) h hts ownTrap_need, ringWord_worst hl rfl rfl (exec_sgArm d a c w s) h hts (ownTrap_arm s d)⟩
  have fenced : ∀ u ∈ (if (s.slot n).state = 3 then [trapOf .memoryUncorrectable] else []), u = trapOf .memoryUncorrectable := by
    split
    · exact fun u hu => List.mem_singleton.1 hu
    · exact fun u hu => nomatch hu
  refine ⟨fun h hal hc hp => ?_, fun h => ringWord_next hl rfl rfl (exec_sgAlight d a s) h rfl, fun h => ringWord_next hl rfl rfl (exec_sgCap d a acq s) h rfl,
    fun h hp => ?_, fun h hp hk => ?_, fun h => ringWord_next hl rfl rfl (exec_sgRev d a s) h rfl, (exec_sgRevOfs d s).trans (runPure_bare hl rfl rfl),
    fun h hd hx ho ha => sgArm_next hl h hd hx ho ha, fun h => ?_, fun h ho => ?_, fun h ho hf => ?_⟩
  · refine ringWord_next hl rfl rfl (exec_sgBoard d a s) h ?_
    refine List.append_eq_nil_iff.2 ⟨need_passed (beq_iff_eq.2 hal), need_passed ?_⟩
    rw [hc, hp]
    rfl
  · refine (ringWord_next hl rfl rfl (exec_sgMod d a p w r s) h ?_).trans ?_
    · refine need_passed ?_
      rw [Bool.not_eq_true', ← Bool.not_eq_true, Bool.and_eq_true, hforbidden]
      exact hp
    · dsimp only
      rw [hhi]
      rfl
  · refine ringWord_own hl rfl rfl (exec_sgMod d a p w r s) h (if_neg ?_)
    rw [hp, Bool.true_and, Bool.not_eq_true', hforbidden.2 hk]
    decide
  · exact stops (slotTraps_bounds h) (fun _ hu => nomatch hu) ownTrap_nil
  · refine stops (slotTraps_owner h ho) (fun u hu => ?_) fun u hu => .inl ⟨_, fenced u hu⟩
    rw [fenced u hu]
    decide
  · exact stops (slotTraps_fenced h ho hf) (fun _ hu => nomatch hu) ownTrap_nil

end Sys2Proof.Proofs
end

section
/-! The supervisor words: illegal at user level, and their effects at supervisor level (R342-R347). -/
namespace Sys2Proof.Proofs
open Sys2Proof Sys2Proof.Machine Sys2Proof.Laws

section Supervisor
variable {s : State} {i : Instr} {body : State → Except TrapReq State} (hl : s.cur.live = true) (hr : (uses i).rv = []) (hw : (uses i).wv = [])
  (he : exec i s = runSup i s body)
include hl hr hw he
/-- A supervisor word at user level takes cause 12. -/
theorem supervisor_refused (hu : s.srcG.level = .user) : exec i s = .next (s.trapWord (illegal 12)) := he.trans (runSup_user hl hr hw hu)
variable (hu : s.srcG.level = .supervisor)
include hu
/-- A supervisor word at supervisor level answers what its body does. -/
theorem supervisor_next {t : State} (hb : body s = .ok t) : exec i s = .next t := by
  rw [he, runSup_supervisor hl hr hw hu, hb]
theorem supervisor_trap {e : TrapReq} (hb : body s = .error e) : exec i s = .next (s.trapWord e) := by
  rw [he, runSup_supervisor hl hr hw hu, hb]
end Supervisor

/-- The smaller of two words, as a number. -/
theorem pick_ult_eq (n : Nat) (m : W32) (hn : n < 2 ^ 32) : pick BitVec.ult (BitVec.ofNat 32 n) m = BitVec.ofNat 32 (min n m.toNat) := by
  have hlt : BitVec.ult m (BitVec.ofNat 32 n) = true ↔ m.toNat < n := by
    rw [BitVec.ult, decide_eq_true_iff, BitVec.toNat_ofNat, Nat.mod_eq_of_lt hn]
  unfold pick
  by_cases h : m.toNat < n
  · rw [if_pos (hlt.2 h), Nat.min_eq_right h.le, BitVec.ofNat_toNat, BitVec.setWidth_eq]
  · rw [if_neg (mt hlt.1 h), Nat.min_eq_left (Nat.le_of_not_lt h)]

/-- Settles O27: at user level the frame of every supervisor word refuses it; at supervisor level each answers its body. -/
theorem supervisorWordsAct : Obligations.SupervisorWordsAct := by
  refine ⟨fun s a n hl hu i hi => ?_, ?_⟩
  · simp only [List.mem_cons, List.not_mem_nil, or_false] at hi
    rcases hi with rfl | rfl | rfl | rfl | rfl | rfl | rfl | rfl | rfl | rfl
    · exact supervisor_refused hl rfl rfl (exec_eret s) hu
    · exact supervisor_refused hl rfl rfl (exec_mfsys a n s) hu
    · exact supervisor_refused hl rfl rfl (exec_mtsys a n s) hu
    · exact supervisor_refused hl rfl rfl (exec_tlbinvVa a s) hu
    · exact supervisor_refused hl rfl rfl (exec_tlbinvAsid a s) hu
    · exact supervisor_refused hl rfl rfl (exec_tlbinvAll s) hu
    · exact supervisor_refused hl rfl rfl (exec_seatctlEvack a s) hu
    · exact supervisor_refused hl rfl rfl (exec_seatctlKill a s) hu
    · exact supervisor_refused hl rfl rfl (exec_seatctlYield a s) hu
    · exact supervisor_refused hl rfl rfl (exec_halt a s) hu
  · intro s a hl hu v t detail
    have hasid : fld (s.rS a).toNat 9 0 = v.toNat % 1024 := fld_0 _ _
    have hindex : (lo32 (s.rS a)).toNat = v.toNat % 2 ^ 32 := BitVec.toNat_setWidth _ _
    refine ⟨?_, supervisor_next hl rfl rfl (exec_tlbinvVa _ _) hu rfl, fun h => ?_, fun h => ?_, supervisor_next hl rfl rfl (exec_tlbinvAll _) hu rfl, ?_,
      fun h => ?_, fun u h hf => ?_, fun h hf => ?_, supervisor_next hl rfl rfl (exec_seatctlYield _ _) hu rfl,
      supervisor_next hl rfl rfl (exec_halt _ _) hu rfl⟩
    · rintro u rfl
      exact supervisor_next hl rfl rfl (exec_eret _) hu rfl
    · refine supervisor_next hl rfl rfl (exec_tlbinvAsid _ _) hu ?_
      rw [hasid, h]
      exact if_pos rfl
    · refine supervisor_trap hl rfl rfl (exec_tlbinvAsid _ _) hu ?_
      rw [hasid]
      exact if_neg h
    · refine supervisor_next hl rfl rfl (exec_seatctlEvack _ _) hu (congrArg Except.ok (congrArg _ (funext fun x => ?_)))
      have hfield : fld (s.rS a).toNat 10 0 = v.toNat % 2048 := fld_0 _ _
      rw [hfield, pick_ult_eq _ _ (by omega)]
    · refine supervisor_next hl rfl rfl (exec_seatctlKill _ _) hu ?_
      rw [hindex]
      exact if_pos h
    · refine supervisor_next hl rfl rfl (exec_seatctlKill _ _) hu ?_
      rw [hindex]
      exact (if_neg h).trans (by rw [hf]; rfl)
    · refine supervisor_trap hl rfl rfl (exec_seatctlKill _ _) hu ?_
      rw [hindex]
      exact (if_neg h).trans (by rw [hf])

end Sys2Proof.Proofs
end

section
/-! Mailbox commands where the device is not Ready, and what a reply leaves (R376, R410, R414). -/
namespace Sys2Proof.Proofs
open Sys2Proof Sys2Proof.Machine Sys2Proof.Laws

/-- A command at hand is refused with NotReady unless the device is Ready. -/
theorem command_refused {s : State} {e : Event} {f : Event → Option State} {g : State → State} (h : s.host.dstate ≠ 3) (he : s.ev = some e)
    (hf : f e = some (s.command g)) : runEvent s f = .next (s.status 13) :=
  runEvent_next he (hf.trans (congrArg some (if_neg h)))

/-! ### A reply -/

section Reply
variable (s : State) (ws : List W64)
/-- The mailbox of core 1 loses the message answered, and one that waits for room comes in. -/
theorem answer_mail_one : (s.answer ws).mail.filter (fun (m : Mail) => m.core == 1) =
    (s.mail.filter fun (m : Mail) => m.core == 1).drop 1 ++ (s.mailWait.filter fun (m : Mail) => m.core == 1).take 1 := by
  have hout : ((s.mail.filter fun (m : Mail) => m.core != 1).filter fun (m : Mail) => m.core == 1) = [] := by
    rw [List.filter_filter]
    exact List.filter_eq_nil_iff.2 fun m _ => by simp
  have hin (l : List Mail) (hl : ∀ m ∈ l, m ∈ s.mail.filter (fun (m : Mail) => m.core == 1) ∨ m ∈ s.mailWait.filter (fun (m : Mail) => m.core == 1)) :
      l.filter (fun (m : Mail) => m.core == 1) = l :=
    List.filter_eq_self.2 fun m hm => (hl m hm).elim (fun h => (List.mem_filter.1 h).2) fun h => (List.mem_filter.1 h).2
  change List.filter _ (_ ++ _ ++ _) = _
  rw [List.filter_append, List.filter_append, hout, List.nil_append, hin _ fun m hm => .inl (List.mem_of_mem_drop hm),
    hin _ fun m hm => .inr (List.mem_of_mem_take hm)]
/-- The mailboxes of other cores stay. -/
theorem answer_mail_others : (s.answer ws).mail.filter (fun (m : Mail) => m.core != 1) = s.mail.filter (fun (m : Mail) => m.core != 1) := by
  have hout (l : List Mail) (hl : ∀ m ∈ l, m.core = 1) : l.filter (fun (m : Mail) => m.core != 1) = [] :=
    List.filter_eq_nil_iff.2 fun m hm => by simp [hl m hm]
  have hone (l : List Mail) : ∀ m ∈ l.filter (fun (m : Mail) => m.core == 1), m.core = 1 := fun m hm => by simpa using (List.mem_filter.1 hm).2
  change List.filter _ (_ ++ _ ++ _) = _
  rw [List.filter_append, List.filter_append, List.filter_filter, hout _ fun m hm => hone _ m (List.mem_of_mem_drop hm),
    hout _ fun m hm => hone _ m (List.mem_of_mem_take hm), List.append_nil, List.append_nil]
  simp only [Bool.and_self]
theorem answer_sameBytes : SameBytes s (s.answer ws) := ⟨fun p => readAt_congr rfl rfl rfl p 1, rfl, rfl, rfl, rfl, rfl⟩
end Reply

/-- Settles O48: each command is `State.command`, which refuses, and a status is a reply of one word. -/
theorem commandsNeedAReadyDevice : Obligations.CommandsNeedAReadyDevice := by
  intro s
  refine ⟨fun h => ⟨fun _ _ he => command_refused h he rfl, fun _ _ he => command_refused h he rfl, fun _ _ _ _ _ he => command_refused h he rfl,
    fun _ _ he => command_refused h he rfl, fun _ _ _ he => command_refused h he rfl, fun _ _ _ he => command_refused h he rfl,
    fun _ _ he => command_refused h he rfl, fun _ he => command_refused h he rfl, fun _ _ he => command_refused h he rfl,
    fun _ _ _ he => command_refused h he rfl, fun _ _ _ he => command_refused h he rfl, fun _ _ _ _ he => command_refused h he rfl,
    fun _ _ _ _ _ _ he => command_refused h he rfl⟩, fun _ he => runEvent_next he rfl, fun n => ?_⟩
  exact ⟨rfl, rfl, rfl, rfl, answer_mail_one s _, answer_mail_others s _, answer_sameBytes s _, rfl, rfl, rfl⟩

end Sys2Proof.Proofs
end

section
/-! What the events of doorbells, host queues and completions do when they are due (R380-R389). -/
namespace Sys2Proof.Proofs
open Sys2Proof Sys2Proof.Machine Sys2Proof.Laws

/-! ### The meaning of each event at hand -/

section Rows
variable {s : State} {vf q : Nat}
theorem doorbellWrite_next {tail : W32} (h : s.ev = some (.doorbellWrite vf q tail)) : exec .doorbellWrite s = .next (s.ring vf q tail) :=
  runEvent_next h rfl
theorem doorcntWrite_next {v : W32} (h : s.ev = some (.doorcntWrite vf v)) : exec .doorcntWrite s = .next (s.addDoor vf v) := runEvent_next h rfl
theorem launchDelivery_next {id : Nat} (h : s.ev = some (.launchDelivery id)) : exec .launchDelivery s = .next (s.deliver id) := runEvent_next h rfl
theorem completionWrite_next {rcb : Nat} (h : s.ev = some (.completionWrite rcb)) : exec .completionWrite s = .next (s.writeCompletion rcb) :=
  runEvent_next h rfl
theorem queueLaunch_next (h : s.ev = some (.queueLaunch vf q)) :
    exec .queueLaunch s = .next (queueRun s vf q (some 1) fun k a => s.prepare k a) := runEvent_next h rfl
end Rows

/-! ### A queue's command at hand (R382) -/

section Command
variable {s : State} {vf q : Nat} {k : Queue} {a : Nat}
/-- No such queue: firmware looks again. -/
theorem queueRun_none (hk : s.findQueue vf q = none) (op : Option Nat) (f : Queue → Nat → State) : queueRun s vf q op f = s.pokeQueues := by
  rw [queueRun, hk]
/-- The queue's next command is of the row and ready. -/
theorem queueRun_ready (hk : s.findQueue vf q = some k) (ha : s.qCommand k = some a) (hm : s.mayServe k = true) {op : Option Nat} (ho : s.qOp a = op)
    (f : Queue → Nat → State) : queueRun s vf q op f = f k a := by
  rw [queueRun, hk]
  dsimp only
  rw [ha]
  exact if_pos ⟨hm, ho⟩
end Command

/-! ### The descriptor of a queue in memory (R380) -/

theorem wordOfBytes_append (l m : List Byte) : wordOfBytes (l ++ m) = wordOfBytes l + 256 ^ l.length * wordOfBytes m := by
  induction l with
  | nil => simp [wordOfBytes]
  | cons b bs ih =>
    rw [List.cons_append, wordOfBytes, wordOfBytes, ih, List.length_cons, pow_succ']
    ring
/-- A number in memory is the number of its lower bytes and that of the bytes above them. -/
theorem read_add (m : Memory) (a n k : Nat) : Memory.read m a (n + k) = Memory.read m a n + 256 ^ n * Memory.read m (a + n) k := by
  have h : Memory.bytes m a (n + k) = Memory.bytes m a n ++ Memory.bytes m (a + n) k := by
    simp [Memory.bytes, List.range_add, Nat.add_assoc, Function.comp_def]
  rw [Memory.read, h, wordOfBytes_append]
  simp [Memory.read, Memory.bytes]
theorem read_lt (m : Memory) (a n : Nat) : Memory.read m a n < 256 ^ n := by
  have h := wordOfBytes_lt (Memory.bytes m a n)
  rwa [Memory.bytes, List.length_map, List.length_range] at h
/-- STATE lies in bits [58:57] of the word at 32 bytes of the descriptor. -/
theorem qState_eq (s : State) (k : Queue) : s.qState k = Memory.read s.mem (k.addr + 32) 8 / 2 ^ 57 % 4 := by
  have h32 : Memory.read s.mem k.addr 64 = Memory.read s.mem k.addr 32 + 256 ^ 32 * Memory.read s.mem (k.addr + 32) 32 := read_add s.mem k.addr 32 32
  have h8 : Memory.read s.mem (k.addr + 32) 32 = Memory.read s.mem (k.addr + 32) 8 + 256 ^ 8 * Memory.read s.mem (k.addr + 32 + 8) 24 :=
    read_add s.mem (k.addr + 32) 8 24
  have hlow := read_lt s.mem k.addr 32
  have hfld : s.qState k = Memory.read s.mem k.addr 64 / 2 ^ 313 % 2 ^ 2 := rfl
  rw [hfld, h32, h8]
  omega
/-- A completion is queued, and besides only the agenda may change. -/
theorem complete_eq (s : State) (r : Region) (q n : Nat) (d : W64) : ∃ l, s.complete r q n d = { s with
    completions := s.completions ++ [{ rcb := r.cqRcb, cqBase := r.cqBase, cqLog := r.cqLog, vf := r.vf, queue := q, status := n, info := d }], agenda := l } := by
  unfold State.complete
  dsimp only
  split <;> exact ⟨_, rfl⟩

theorem setQState_qState {s : State} (hw : Memory.wf s.mem = true) (k : Queue) (st n : Nat) : (s.setQState k st n).qState k = st % 4 := by
  have hr : Memory.read (s.setQState k st n).mem (k.addr + 32) 8 = (fld (Memory.read s.mem (k.addr + 32) 8) 48 0 + n % 256 * 2 ^ 49 + st % 4 * 2 ^ 57
      + fld (Memory.read s.mem (k.addr + 32) 8) 63 59 * 2 ^ 59) % 256 ^ 8 := read_write _ _ _ hw
  have hlow : fld (Memory.read s.mem (k.addr + 32) 8) 48 0 < 2 ^ 49 := Nat.mod_lt _ (by decide)
  have htop : fld (Memory.read s.mem (k.addr + 32) 8) 63 59 < 2 ^ 5 := Nat.mod_lt _ (by decide)
  rw [qState_eq, hr]
  generalize fld (Memory.read s.mem (k.addr + 32) 8) 48 0 = low at *
  generalize fld (Memory.read s.mem (k.addr + 32) 8) 63 59 = top at *
  omega
theorem setQState_qHead (s : State) (k : Queue) (st n : Nat) : (s.setQState k st n).qHead k = s.qHead k :=
  congrArg (BitVec.ofNat 32) (read_write_out (.inr (by omega)))
theorem setQState_qTail (s : State) (k : Queue) (st n : Nat) : (s.setQState k st n).qTail k = s.qTail k :=
  congrArg (BitVec.ofNat 32) (read_write_out (.inr (by omega)))

theorem mapQueue_mem (s : State) (vf q : Nat) (f : Queue → Queue) : (s.mapQueue vf q f).mem = s.mem := rfl
theorem mapQueue_completions (s : State) (vf q : Nat) (f : Queue → Queue) : (s.mapQueue vf q f).completions = s.completions := rfl
theorem setMem_completions (s : State) (m : Memory) : ({ s with mem := m } : State).completions = s.completions := rfl
theorem setQState_completions (s : State) (k : Queue) (st n : Nat) : (s.setQState k st n).completions = s.completions := setMem_completions s _
/-- A completion without information is the one the queue writes, and no memory changes. -/
theorem qComplete_writes (u : State) (k : Queue) (n : Nat) : (∃ c : Completion, (u.qComplete k n 0).completions = u.completions ++ [c] ∧ c.status = n
    ∧ c.queue = k.q ∧ c.info = 0) ∧ (u.qComplete k n 0).mem = u.mem := by
  unfold State.qComplete
  obtain ⟨l, hl⟩ := complete_eq u (u.qOwner k) k.q n 0
  rw [hl]
  exact ⟨⟨_, rfl, rfl, rfl, rfl⟩, rfl⟩
/-- A halt writes its completion, and of memory STATE and HSTAT alone (R384). -/
theorem haltQueue_eq (s : State) (k : Queue) (n : Nat) : (∃ c : Completion, (s.haltQueue k n).completions = s.completions ++ [c] ∧ c.status = n
    ∧ c.queue = k.q ∧ c.info = 0) ∧ (s.haltQueue k n).mem = (s.setQState k 2 n).mem := by
  have h := qComplete_writes ((s.setQState k 2 n).mapQueue k.vf k.q fun k => { k with stack := [], wait := none, blocked := false, failed := none, ats := [] }) k n
  rw [mapQueue_completions, setQState_completions, mapQueue_mem] at h
  exact h
/-- STATE alone changes of what firmware reads of the descriptor (R384). -/
theorem haltQueue_descriptor {s : State} (hw : Memory.wf s.mem = true) (k : Queue) (n : Nat) : (s.haltQueue k n).qState k = 2
    ∧ (s.haltQueue k n).qHead k = s.qHead k ∧ (s.haltQueue k n).qTail k = s.qTail k := by
  obtain ⟨-, hm⟩ := haltQueue_eq s k n
  rw [qState_eq, State.qHead, State.qTail, hm]
  exact ⟨(qState_eq (s.setQState k 2 n) k).symm.trans (setQState_qState hw k 2 n), setQState_qHead s k 2 n, setQState_qTail s k 2 n⟩

/-! ### The teams of a grid that starts (R387) -/

/-- The teams of an identifier that was fresh before. -/
def teamsFrom (n : Nat) (s : State) : Nat := (s.teams.filter fun (t : Team) => decide (n ≤ t.id)).length
theorem filter_insertTeam_length (p : Team → Bool) (t : Team) (l : List Team) (h : p t = true) :
    ((insertTeam t l).filter p).length = (l.filter p).length + 1 := by
  induction l with
  | nil => simp [insertTeam, h]
  | cons u us ih =>
    unfold insertTeam
    split
    · simp [List.filter_cons, h]
    · cases hu : p u <;> simp [hu, ih]
theorem teamsFrom_mapTeam (n : Nat) (s : State) (id : Nat) {f : Team → Team} (hf : ∀ t, (f t).id = t.id) : teamsFrom n (s.mapTeam id f) = teamsFrom n s := by
  have h : ((fun t : Team => decide (n ≤ t.id)) ∘ fun t => if t.id = id then f t else t) = fun t => decide (n ≤ t.id) := by
    funext t
    simp only [Function.comp_apply]
    split <;> simp [hf]
  simp only [teamsFrom, State.mapTeam, List.filter_map, List.length_map, h]
theorem teamsFrom_once (n : Nat) (s : State) (c : Nat) (e : Event) : teamsFrom n (s.once c e) = teamsFrom n s ∧ (s.once c e).nextId = s.nextId := by
  unfold State.once
  split <;> exact ⟨rfl, rfl⟩
theorem teamsFrom_enqueue (n : Nat) (s : State) (id : Nat) : teamsFrom n (s.enqueue id) = teamsFrom n s ∧ s.nextId ≤ (s.enqueue id).nextId := by
  unfold State.enqueue
  dsimp only
  split
  · exact ⟨rfl, Nat.le_succ _⟩
  · obtain ⟨ht, hn⟩ := teamsFrom_once n (s.fresh.2.mapTeam id fun t => { t with state := .pending, queued := s.fresh.1 }) s.g (.teamCarving ‹Team›.core ‹Team›.seat)
    exact ⟨ht.trans (teamsFrom_mapTeam n s.fresh.2 id fun _ => rfl), hn ▸ Nat.le_succ _⟩
theorem teamsFrom_addTeam {n : Nat} {s : State} (h : n ≤ s.nextId) (t : Team) :
    teamsFrom n (s.addTeam t) = teamsFrom n s + 1 ∧ n ≤ (s.addTeam t).nextId := by
  obtain ⟨ht, hn⟩ := teamsFrom_enqueue n { s.fresh.2 with teams := insertTeam { t with id := s.nextId } s.teams } s.nextId
  exact ⟨ht.trans (filter_insertTeam_length _ _ _ (decide_eq_true h)), h.trans ((Nat.le_succ _).trans hn)⟩
theorem teamsFrom_addTeams {n : Nat} (f : Nat → Team) (l : List Nat) {s : State} (h : n ≤ s.nextId) :
    teamsFrom n (l.foldl (fun s i => s.addTeam (f i)) s) = l.length + teamsFrom n s := by
  induction l generalizing s with
  | nil => exact (Nat.zero_add _).symm
  | cons i l ih =>
    obtain ⟨ht, hn⟩ := teamsFrom_addTeam h (f i)
    rw [List.foldl_cons, ih hn, ht, List.length_cons]
    omega
/-- Without twins a grid puts its size in teams into the pending queues. -/
theorem startGrid_teams {s : State} {g : Grid} {x : Seat} (sp : Spread) (hg : s.grids.find? (fun (h : Grid) => h.id == g.id) = some g)
    (hx : s.findSeat g.seat = some x) (ht : g.mode.twin = false) : teamsFrom s.nextId (s.startGrid g.id sp) = g.size + teamsFrom s.nextId s := by
  unfold State.startGrid
  rw [hg]
  dsimp only
  rw [hx]
  dsimp only
  simp only [ht, Bool.false_eq_true, if_false]
  rw [teamsFrom_addTeams, List.length_range]
  · rfl
  · exact Nat.le_refl _

/-! ### The delivery of a launch (R383, R387, R389) -/

theorem poolRoom_iff (s : State) (seat : Nat) (r : Region) : s.poolRoom seat r = true ↔
    (∃ x, s.findSeat seat = some x ∧ (s.grids.filter fun (g : Grid) => g.placed && g.seat == seat).length < x.pl.poolq)
      ∧ (r.maxGrids = 0 ∨ (s.grids.filter fun (g : Grid) => g.placed && g.region.gridRcb == r.gridRcb).length < r.maxGrids) := by
  rw [State.poolRoom, Bool.and_eq_true, Bool.or_eq_true, beq_iff_eq, decide_eq_true_iff]
  refine and_congr ?_ Iff.rfl
  cases s.findSeat seat with
  | none => simp
  | some x => simp

/-- A launch of the same queue, of an earlier number, has not been placed. -/
def launchBehind (s : State) (g : Grid) : Bool :=
  match g.launcher with
  | .host vf q _ _ => s.grids.any fun (h : Grid) => !h.placed && decide (h.id < g.id) && (match h.launcher with
    | .host v r _ _ => vf == v && q == r
    | _ => false)
  | _ => false

section Place
variable {s : State} {g : Grid} {y : Seat} (hy : s.findSeat g.seat = some y)
include hy
theorem placeLaunch_small (h : y.coreList.length < shapeSize g.shape) : s.placeLaunch g = s.refuseDelivered g 6 := by
  unfold State.placeLaunch
  rw [hy]
  exact if_pos h
theorem placeLaunch_twins (h : shapeSize g.shape ≤ y.coreList.length) (ht : g.mode.twin = true) (h1 : y.coreList.length ≤ 1) :
    s.placeLaunch g = s.refuseDelivered g 9 := by
  unfold State.placeLaunch
  rw [hy]
  exact (if_neg (Nat.not_lt.2 h)).trans (if_pos (by simp [ht, h1]))
variable (h : shapeSize g.shape ≤ y.coreList.length) (ht : g.mode.twin = false ∨ 1 < y.coreList.length)
include h ht
theorem placeLaunch_fits : s.placeLaunch g = if launchBehind s g || !(s.poolRoom g.seat g.region) then s
    else ((({ (s.countGrid g.seat g.region.vf).2 with grids := (s.countGrid g.seat g.region.vf).2.grids.map fun (h : Grid) =>
      if h.id = g.id then { h with placed := true, number := (s.countGrid g.seat g.region.vf).1 } else h } : State).startGrid g.id .host).pokeQueues).pokeWaiting := by
  unfold State.placeLaunch
  rw [hy]
  refine (if_neg (Nat.not_lt.2 h)).trans ((if_neg ?_).trans rfl)
  rcases ht with ht | ht
  · simp [ht]
  · simp [Nat.not_le.2 ht]
end Place

/-! ### An entry of a completion queue (R385) -/

theorem completion_bytes (c : Completion) (seq : Nat) : (c.bytes seq).length = 32 ∧ wordOfBytes ((c.bytes seq).drop 16) = 0
    ∧ wordOfBytes (((c.bytes seq).drop 8).take 8) = c.info.toNat
    ∧ wordOfBytes ((c.bytes seq).take 8) = seq / 2 ^ (c.cqLog + 4) % 2 + c.queue % 64 * 2 ^ 10 + c.status % 256 * 2 ^ 16 + seq % 2 ^ 32 * 2 ^ 32 := by
  have hlow (n : Nat) : (bytesOf 8 n).length = 8 := length_bytesOf 8 n
  unfold Completion.bytes
  refine ⟨by simp [hlow], ?_, ?_, ?_⟩
  · rw [List.drop_left' (by simp [hlow])]
    rfl
  · rw [List.append_assoc, List.drop_left' (hlow _), List.take_left' (hlow _), wordOfBytes_bytesOf]
    exact Nat.mod_eq_of_lt c.info.isLt
  · rw [List.append_assoc, List.take_left' (hlow _), wordOfBytes_bytesOf]
    omega

/-! ### Doorbells (R380, R381, R386) -/

section Ring
variable {s u v : State} {vf q : Nat} {tail : W32} {k : Queue} (hu : u = s.pokeCompletions fun (c : Completion) => c.vf == vf)
include hu
theorem ring_none (h : u.findQueue vf q = none) : s.ring vf q tail = u := by
  subst hu
  unfold State.ring
  dsimp only
  rw [h]
/-- The doorbell of a queue writes TAIL, and starts a queue that is not Halted and has a command. -/
theorem ring_queue (h : u.findQueue vf q = some k) (hv : v = { u with mem := Memory.write u.mem (k.addr + 40) 4 tail.toNat }) :
    s.ring vf q tail = if v.qState k = 2 then v else if v.qHead k = tail then v else (v.setQState k 1 0).startQueue k := by
  subst hu hv
  unfold State.ring
  dsimp only
  rw [h]
end Ring
theorem startQueue_far {s : State} {k : Queue} (h : 2 ^ s.qLog k < (s.qTail k - s.qHead k).toNat) : s.startQueue k = (s.haltQueue k 10).pokeQueues :=
  congrArg State.pokeQueues (if_pos (decide_eq_true h))
theorem startQueue_near {s : State} {k : Queue} (h : (s.qTail k - s.qHead k).toNat ≤ 2 ^ s.qLog k) : s.startQueue k = s.pokeQueues :=
  congrArg State.pokeQueues (if_neg (by rw [State.badTail, decide_eq_true_iff]; exact Nat.not_lt.2 h))

/-- The waits of a seat that a door count answers: those of its function that the count has reached. -/
def answered (n : W32) (g : Nat) (x : Seat) (w : Charged) : Charged :=
  match w.door with
  | none => w
  | some d => if w.doneAt = none ∧ w.vf = x.vf ∧ (n - d).toNat < 2 ^ 31 then { w with doneAt := some g } else w
theorem answerDoors_eq (x : Seat) (n : W32) (g : Nat) : x.answerDoors n g = { x with waits := x.waits.map (answered n g x) } := by
  refine congrArg (fun l => ({ x with waits := l } : Seat)) (List.map_congr_left fun w _ => ?_)
  unfold answered
  split
  · next d hd => rw [hd]; exact if_congr (by simp [doorReached, and_assoc]) rfl rfl
  · next hd => rw [hd]

/-! ### Room in a completion queue (R386) -/

section Completions
variable {s : State} {rcb : Nat} {c : Completion} (hc : s.completions.find? (fun (c : Completion) => c.rcb == rcb) = some c)
include hc
/-- The state with the entry written and its message sent. -/
def entryWritten (s : State) (rcb : Nat) (c : Completion) : State :=
  let seq := SMap.get 0 s.cqSeq rcb
  let n := SMap.get 0 s.link.vectors c.vf
  { s with
    mem := Memory.putBytes s.mem (c.cqBase + 32 * (seq % 2 ^ (c.cqLog + 4))) (c.bytes seq), cqSeq := SMap.set 0 s.cqSeq rcb ((seq + 1) % 2 ^ 32)
    completions := s.completions.erase c, link := { s.link with msix := if n = 0 then s.link.msix else s.link.msix ++ [(c.vf, c.queue % n)] } }
theorem writeCompletion_room (h : (SMap.get 0 s.cqSeq rcb + 2 ^ 32 - (Memory.read32 s.mem (rcb + 28)).toNat) % 2 ^ 32 < 2 ^ (c.cqLog + 4)) :
    s.writeCompletion rcb = (if ((entryWritten s rcb c).completions.any fun (d : Completion) => d.rcb == rcb) = true
      then (entryWritten s rcb c).once (entryWritten s rcb c).g (.completionWrite rcb) else entryWritten s rcb c).pokeQueues := by
  unfold State.writeCompletion entryWritten
  rw [hc]
  dsimp only
  rw [if_pos h]
  split <;> rfl
theorem writeCompletion_full (h : 2 ^ (c.cqLog + 4) ≤ (SMap.get 0 s.cqSeq rcb + 2 ^ 32 - (Memory.read32 s.mem (rcb + 28)).toNat) % 2 ^ 32) :
    s.writeCompletion rcb = if s.agenda.any (fun e => e.2 == .cqdoneReread) then s.draw.2 else s.draw.2.at (s.g + 1 + s.draw.1) .cqdoneReread := by
  unfold State.writeCompletion
  rw [hc]
  exact if_neg (Nat.not_lt.2 h)
end Completions

/-! ### Which launches come to the pool (R387) -/

section Deliver
variable {s : State} {id : Nat} {g : Grid} (hg : s.grids.find? (fun (g : Grid) => g.id == id) = some g)
include hg
theorem deliver_idle (h : s.findSeat g.seat = none ∨ g.placed = true ∨ g.ready = false) : s.deliver id = s := by
  unfold State.deliver
  rw [hg]
  dsimp only
  cases hx : s.findSeat g.seat with
  | none => rfl
  | some x => exact if_pos (by simpa [hx] using h)
variable {x : Seat} (hx : s.findSeat g.seat = some x) (hp : g.placed = false) (hr : g.ready = true)
include hx hp hr
theorem deliver_later (h : x.seated = false ∨ (g.delivered = false ∧ s.g % Config.frame ≠ 0)) : s.deliver id = s.at (nextFrame (s.g + 1)) (.launchDelivery id) := by
  unfold State.deliver
  rw [hg]
  dsimp only
  rw [hx]
  exact (if_neg (by simp [hp, hr])).trans (if_pos (by simpa using h))
theorem deliver_now (hs : x.seated = true) (h : g.delivered = true ∨ s.g % Config.frame = 0) : s.deliver id = (if g.delivered then s
    else ({ s with grids := s.grids.map fun (h : Grid) => if h.id = id then { h with delivered := true } else h } : State).logEvent
      g.seat 2 ((x.coreList.head?).getD 0) (s.oclk g.seat) 0).placeLaunch g := by
  unfold State.deliver
  rw [hg]
  dsimp only
  rw [hx]
  refine ((if_neg (by simp [hp, hr])).trans (if_neg (by simpa [hs, imp_iff_not_or] using h))).trans ?_
  split <;> rfl
end Deliver

/-! ### An address of a command that is usable (R382) -/

/-- The test of ADDR that SIGNAL and WAIT share. -/
theorem addr_good {va : Nat} (h8 : va % 8 = 0) (hc : canonical (va : Int) = true) : ¬(va % 8 ≠ 0 ∨ (!(canonical (va : Int))) = true) := by
  simp [h8, hc]
theorem addr_bad {va : Nat} (h : va % 8 ≠ 0 ∨ canonical (va : Int) = false) : va % 8 ≠ 0 ∨ (!(canonical (va : Int))) = true := by
  simpa using h

/-- Settles O47: each event's clause is its row's function, taken apart once by cases on what it finds; the descriptor's fields are read back after a
halt, and a grid's teams are counted by their fresh numbers. -/
theorem queueEventsAct : Obligations.QueueEventsAct := by
  unfold Obligations.QueueEventsAct
  intro s
  refine ⟨?_, ?_, ?_, ?_, ?_, ?_, ?_, ?_, ?_, ?_, ?_, ?_, ?_, ?_, ?_⟩
  case refine_1 => -- a doorbell
    intro vf q tail hev u hu
    rw [doorbellWrite_next hev]
    refine ⟨fun h => congrArg _ (ring_none hu h), fun k v hk hv => ?_⟩
    rw [ring_queue hu hk hv]
    refine ⟨fun h => congrArg _ ?_, fun h2 hh w hw => ?_⟩
    · split
      · rfl
      · exact if_pos (h.resolve_left ‹_›)
    · rw [if_neg h2, if_neg hh, ← hw]
      exact ⟨fun h => congrArg _ (startQueue_far h), fun h => congrArg _ (startQueue_near h)⟩
  case refine_2 => -- a halt
    intro k n
    obtain ⟨⟨c, hc, hn, hq, hi⟩, -⟩ := haltQueue_eq s k n
    exact ⟨c, hc, hn, hq, hi, fun _ hw => haltQueue_descriptor hw k n⟩
  case refine_3 => -- a door count
    intro vf v hev n hn
    rw [doorcntWrite_next hev, hn]
    refine congrArg Host.Outcome.next (congrArg (fun f => ({ s with doors := SMap.set 0 s.doors vf (SMap.get 0 s.doors vf + v), seats := s.seats.map f } : State)) (funext fun x => ?_))
    rw [answerDoors_eq, ite_not]
    rfl
  case refine_4 => -- a delivery
    intro id hev
    rw [launchDelivery_next hev]
    refine ⟨fun h => by rw [State.deliver, h], fun g hg => ⟨fun h => congrArg _ (deliver_idle hg h), fun x hx hp hr =>
      ⟨fun h => congrArg _ (deliver_later hg hx hp hr h), fun hs h u hu behind hb y hy => ?_⟩⟩⟩
    intro refused
    rw [deliver_now hg hx hp hr hs h, ← hu]
    refine ⟨fun h => congrArg _ (placeLaunch_small hy h), fun h ht h1 => congrArg _ (placeLaunch_twins hy h ht h1), fun h ht => ?_⟩
    have hbe : behind = launchBehind u g := hb
    rw [placeLaunch_fits hy h ht, ← hbe]
    refine ⟨fun h => congrArg _ (if_pos (by simpa using h)), fun h hroom n v hv => ?_⟩
    rw [← hv, if_neg (by simp [h, hroom])]
  case refine_5 => exact fun seat r => poolRoom_iff s seat r
  case refine_6 => exact fun g x sp hg hx ht => startGrid_teams sp hg hx ht
  case refine_7 => -- a completion
    intro rcb hev
    rw [completionWrite_next hev]
    refine ⟨fun h => by rw [State.writeCompletion, h], fun c hc seq size done hseq hsize hdone => ?_⟩
    subst hseq hsize hdone
    refine ⟨fun h n hn u hu => ?_, fun h u hu => ?_⟩
    · have hu' : u = entryWritten s rcb c := by rw [hu, hn]; rfl
      rw [writeCompletion_room hc h, hu']
      exact congrArg _ (apply_ite State.pokeQueues _ _ _)
    · rw [writeCompletion_full hc h]
      subst hu
      exact ⟨fun h => congrArg _ (if_pos h), fun h => congrArg _ (if_neg (by simp [h]))⟩
  case refine_8 => exact fun c seq => completion_bytes c seq
  case refine_9 => exact fun hev => Laws.runEvent_next hev rfl
  case refine_10 => -- NOP
    intro vf q k a hk ha hm hev
    refine ⟨fun ho => Laws.runEvent_next hev ?_, fun ho => Laws.runEvent_next hev ?_⟩ <;> dsimp only <;> rw [hk, Option.bind_some, ha, Option.map_some, ho]
    · exact congrArg some (queueRun_ready hk ha hm ho _)
    · exact congrArg some (if_pos hm)
  case refine_11 => -- LAUNCH
    intro vf q k a hk ha hm ho hev w kd pa refused
    have hrow : exec .queueLaunch s = .next (s.prepare k a) := (queueLaunch_next hev).trans (congrArg _ (queueRun_ready hk ha hm ho _))
    have href (n : Nat) (h : s.prepare k a = s.refuseLaunch k n (w 4 &&& 0xFFFF#64)) : refused n := hrow.trans (congrArg _ h)
    generalize hp : s.prepare k a = t at hrow href
    unfold State.prepare at hp
    dsimp only at hp
    refine ⟨fun hr => ?_, fun x r hr mode hmode => ?_⟩
    · rw [hr] at hp
      exact href 9 hp.symm
    rw [hr] at hp
    dsimp only at hp
    rw [← hmode] at hp
    refine ⟨fun ht hc => ?_, fun ht => ?_⟩
    · rw [if_pos (by simp [ht, hc])] at hp
      exact href 9 hp.symm
    intro sound
    rw [if_neg (by rcases ht with ht | ht <;> simp [ht])] at hp
    have hsound : sound ↔ ¬(kd % 64 ≠ 0 ∨ pa % 8 ≠ 0 ∨ (!(extReserved (w 3) (w 4))) = true ∨ (!(extLegal (w 3))) = true) := by
      simp [sound]
    refine ⟨fun h => ?_, fun h kb pb hkb hpb => ?_⟩
    · rw [if_pos (not_not.1 fun hn => h (hsound.2 hn))] at hp
      exact href 13 hp.symm
    intro meets
    rw [if_neg (hsound.1 h), ← hkb, ← hpb] at hp
    refine ⟨fun e he => ?_, fun l e hl he => ?_, fun l m hl hm => ?_⟩
    · subst he
      refine ⟨fun va hv => ?_, fun va hv => ?_, fun hv => ?_⟩ <;> subst hv
      · exact hrow.trans (congrArg _ hp.symm)
      · exact hrow.trans (congrArg _ hp.symm)
      · exact href 13 hp.symm
    · subst hl he
      refine ⟨fun va hv => ?_, fun va hv => ?_, fun hv => ?_⟩ <;> subst hv
      · exact hrow.trans (congrArg _ hp.symm)
      · exact hrow.trans (congrArg _ hp.symm)
      · exact href 13 hp.symm
    subst hl hm
    dsimp only at hp
    refine ⟨fun hk => ?_, fun kn hkn => ?_⟩
    · rw [hk] at hp
      exact href 13 hp.symm
    rw [hkn] at hp
    dsimp only at hp
    refine ⟨fun hi h15 => ?_, fun hi ext hext => ?_⟩
    · rw [if_pos (by simp [hi, h15])] at hp
      exact href 7 hp.symm
    rw [if_neg (by rcases hi with hi | hi <;> simp [hi]), ← hext] at hp
    refine ⟨fun hs => ?_, fun hs ps ds hps hds => ?_⟩
    · rw [if_pos hs] at hp
      exact href 6 hp.symm
    rw [if_neg (Nat.not_lt.2 hs), ← hps, ← hds] at hp
    refine ⟨fun n hb => ?_, fun va wr hb => ?_, fun es hb u hu => ?_⟩ <;> rw [hb] at hp <;> dsimp only at hp
    · exact href n hp.symm
    · refine ⟨fun hf => ?_, fun hf => ?_⟩
      · rw [if_pos hf] at hp
        exact href 12 hp.symm
      · rw [if_neg (by simp [hf])] at hp
        exact hrow.trans (congrArg _ hp.symm)
    · have htag : (w 4 &&& 0xFFFF#64).toNat = (w 4).toNat % 2 ^ 16 := by
        rw [BitVec.toNat_and]
        exact Nat.and_two_pow_sub_one_eq_mod _ 16
      rw [← htag] at hu
      rw [hrow, ← hp, hu]
      rfl
  case refine_12 => -- INDIRECT
    intro vf q k a hk ha hm ho hev b n
    have hrow : exec .indirect s = .next _ := (Laws.runEvent_next hev rfl).trans (congrArg Host.Outcome.next (queueRun_ready hk ha hm ho _))
    rw [hrow]
    refine ⟨fun h => congrArg _ (if_pos h), fun h1 h2 h3 h => ?_, fun h1 h2 h3 h4 h5 h6 => ?_⟩
    · exact congrArg _ ((if_neg (by simp only [b, n] at *; omega)).trans (if_pos h))
    · exact congrArg _ ((if_neg (by simp only [b, n] at *; omega)).trans (if_neg (by simp only [b, n] at *; simp [h5, h6, Nat.not_le.2 h4])))
  case refine_13 => -- SIGNAL and WAIT
    intro vf q k a x r hk ha hm hr va
    refine ⟨fun hev ho => ?_, fun hev ho => ?_⟩
    · have hrow : exec .signal s = .next _ := (Laws.runEvent_next hev rfl).trans (congrArg Host.Outcome.next (queueRun_ready hk ha hm ho _))
      rw [hrow, hr]
      dsimp only
      refine ⟨fun h => congrArg _ (if_pos (addr_bad h)), fun h8 hc p hp => ?_, fun h8 hc v hv => ?_, fun h8 hc => ⟨fun v hv => ?_, fun hv => ?_⟩⟩ <;> rw [if_neg (addr_good h8 hc)]
      · rw [hp]
      · rw [hv]
      · rw [hv]
      · rw [hv]
    · have hrow : exec .wait s = .next _ := (Laws.runEvent_next hev rfl).trans (congrArg Host.Outcome.next (queueRun_ready hk ha hm ho _))
      rw [hrow, hr]
      dsimp only
      refine ⟨fun h => congrArg _ (if_pos (addr_bad h)), fun h8 hc p hp => ?_, fun h8 hc v hv => ?_, fun h8 hc => ⟨fun v hv => ?_, fun hv => ?_⟩⟩ <;> rw [if_neg (addr_good h8 hc)]
      · rw [hp]
        exact ⟨fun h => congrArg _ (if_pos h), fun h => congrArg _ (if_neg (by simp [h]))⟩
      · rw [hv]
      · rw [hv]
      · rw [hv]
  case refine_14 => -- a WAIT read again
    intro vf q k a x r va v p hev hk ha hr hw
    have hrow : exec .waitReread s = .next _ := Laws.runEvent_next hev rfl
    rw [hrow, hk]
    dsimp only
    rw [hw, hr, ha]
    dsimp only
    refine ⟨fun hp => ?_, fun w hv => ?_, fun w hv => ?_, fun hv => ?_⟩
    · rw [hp]
      exact ⟨fun h => congrArg _ (if_pos h), fun h => congrArg _ (if_neg (by simp [h]))⟩
    · rw [hv]
    · rw [hv]
    · rw [hv]
  case refine_15 => -- no such queue
    intro vf q hk
    refine ⟨fun hev => ?_, fun hev => (queueLaunch_next hev).trans (congrArg _ (queueRun_none hk _ _)), fun hev => (Laws.runEvent_next hev rfl).trans (congrArg Host.Outcome.next (queueRun_none hk _ _)),
      fun hev => (Laws.runEvent_next hev rfl).trans (congrArg Host.Outcome.next (queueRun_none hk _ _)), fun hev => (Laws.runEvent_next hev rfl).trans (congrArg Host.Outcome.next (queueRun_none hk _ _))⟩
    refine Laws.runEvent_next hev ?_
    dsimp only
    rw [hk]
    exact congrArg some (queueRun_none hk _ _)

end Sys2Proof.Proofs
end

section
/-! What the mailbox commands do with the device Ready (R372-R376, R392, R410, R413, R415, R420). -/
namespace Sys2Proof.Proofs
open Sys2Proof Sys2Proof.Machine Sys2Proof.Laws

theorem command_ready {s t : State} {e : Event} {f : Event → Option State} {g : State → State} (h : s.host.dstate = 3) (he : s.ev = some e)
    (hf : f e = some (s.command g)) (ht : g s = t) : runEvent s f = .next t :=
  Laws.runEvent_next he (hf.trans (congrArg some ((if_pos h).trans ht)))

/-! ### The placement record (R370-R373) -/

theorem fld_mod_above {n k hi lo : Nat} (h : hi < k) (hl : lo ≤ hi) : fld (n % 2 ^ k) hi lo = fld n hi lo := by
  unfold fld
  rw [← Nat.shiftRight_eq_div_pow, ← Nat.shiftRight_eq_div_pow]
  apply Nat.eq_of_testBit_eq
  intro i
  simp only [Nat.testBit_mod_two_pow, Nat.testBit_shiftRight]
  by_cases hi' : i < hi + 1 - lo
  · simp [hi', show lo + i < k by omega]
  · simp [hi']
/-- A core set is of bits 0 to 255. -/
theorem cset_mod (n : Nat) : cset (n % 2 ^ 256) = cset n := by
  refine List.filter_congr fun c hc => ?_
  rw [fld_mod_above (by simpa using hc) le_rfl]

/-- BadRecord of R373: alignment, reserved fields, the seat named, the ranges, the core records and the quantum table. -/
theorem badRecord_iff (s : State) (seat a : Nat) : s.badRecord seat a = true ↔
    a % 64 ≠ 0 ∨ Memory.read s.mem a 128 / 2 ^ 384 % 2 ^ 64 ≠ 0 ∨ Memory.read s.mem a 128 / 2 ^ 360 % 2 ≠ 0 ∨ Memory.read s.mem a 128 % 2 ^ 356 ≠ 0
      ∨ Memory.read s.mem a 128 / 2 ^ 356 % 16 ≠ seat ∨ (s.placementAt a).evlog % 32768 ≠ 0 ∨ (s.placementAt a).poolq = 0 ∨ 4096 < (s.placementAt a).poolq
      ∨ (s.placementAt a).cores.map (fun c => c.core) ≠ cset (Memory.read s.mem a 128 / 2 ^ 768) ∨ (∃ c ∈ (s.placementAt a).cores, c.legal = false)
      ∨ (∃ k, k < (s.placementAt a).cores.length ∧ Memory.read s.mem (a + 160 + 32 * k) 32 % 2 ^ 123 ≠ 0)
      ∨ Memory.read s.mem (a + 128) 32 % 4 ≠ 0 ∨ Memory.read s.mem (a + 128) 32 / 8 % 2 ≠ 0 ∨ Memory.read s.mem (a + 128) 32 / 2 ^ 8 % 2 ^ 88 ≠ 0
      ∨ s.quantumTable (s.placementAt a).qtab = none := by
  have hset : cset (fld (Memory.read s.mem a 128) 1023 768) = cset (Memory.read s.mem a 128 / 2 ^ 768) := cset_mod _
  unfold State.badRecord
  dsimp only
  rw [hset]
  generalize Memory.read s.mem (a + 128) 32 = l
  have hl : l % 4 ≠ 0 ↔ fld l 0 0 ≠ 0 ∨ fld l 1 1 ≠ 0 := by
    simp only [fld]
    omega
  have hq : ¬(1 ≤ (s.placementAt a).poolq ∧ (s.placementAt a).poolq ≤ 4096) ↔ (s.placementAt a).poolq = 0 ∨ 4096 < (s.placementAt a).poolq := by omega
  simp only [Bool.or_eq_true, bne_iff_ne, Bool.not_eq_true', decide_eq_false_iff_not, List.all_eq_false, Option.isNone_iff_eq_none, List.mem_range, beq_iff_eq,
    Bool.not_eq_true, hq, hl, or_assoc]
  simp only [fld, Nat.reduceAdd, Nat.reduceSub, pow_zero, Nat.div_one]
  exact Iff.rfl

/-! ### The refusals of an admission (R373) -/

theorem rotaConflict_iff (s : State) (p : Placement) :
    ((s.seats.any fun (x : Seat) => rotaConflict p x.pl) || p.cores.any fun (c : CoreRec) => !c.grant && c.cmap == 0) = true ↔
      (∃ x ∈ s.seats, p.dmap &&& x.pl.dmap ≠ 0 ∨ ∃ c ∈ p.cores, ∃ d ∈ x.pl.cores, c.core = d.core ∧ (c.grant = true ∨ d.grant = true ∨ c.cmap &&& d.cmap ≠ 0))
        ∨ ∃ c ∈ p.cores, c.grant = false ∧ c.cmap = 0 := by
  simp only [rotaConflict, Bool.or_eq_true, List.any_eq_true, bne_iff_ne, Bool.and_eq_true, beq_iff_eq, Bool.not_eq_true', or_assoc]

theorem getLsbD_foldl_or {α : Type} (f : α → W64) (l : List α) (m : W64) (k : Nat) :
    (l.foldl (fun m x => m ||| f x) m).getLsbD k = (m.getLsbD k || l.any fun x => (f x).getLsbD k) := by
  induction l generalizing m with
  | nil => simp
  | cons x xs ih => rw [List.foldl_cons, ih, BitVec.getLsbD_or, List.any_cons, Bool.or_assoc]
/-- RotaOverflow of R373: the two entries of refresh and calibration do not fit beside those held. -/
theorem rotaFull_iff (s : State) (p : Placement) : 64 < popcount64 (s.entriesHeld ||| p.dmap) + 2 ↔
    62 < ((List.range 64).filter fun k => p.dmap.getLsbD k || s.seats.any fun (x : Seat) => x.pl.dmap.getLsbD k).length := by
  have h (k : Nat) : (s.entriesHeld ||| p.dmap).toNat.testBit k = (p.dmap.getLsbD k || s.seats.any fun (x : Seat) => x.pl.dmap.getLsbD k) := by
    rw [BitVec.testBit_toNat, BitVec.getLsbD_or, State.entriesHeld, getLsbD_foldl_or]
    simp [Bool.or_comm]
  rw [popcount64, countOnes_eq_length]
  simp only [h]
  omega

theorem foldl_add_eq {α : Type} (f : α → Nat) (l : List α) (n : Nat) : l.foldl (fun n x => n + f x) n = n + (l.map f).sum := by
  induction l generalizing n with
  | nil => rfl
  | cons x xs ih => rw [List.foldl_cons, ih, List.map_cons, List.sum_cons, Nat.add_assoc]
theorem length_filter_bit {α : Type} (f : α → Nat) (k : Nat) (l : List α) :
    (l.filter fun x => fld (f x) k k == 1).length = (l.map fun x => f x / 2 ^ k % 2).sum := by
  have h (n : Nat) : fld n k k = n / 2 ^ k % 2 := by rw [fld, show k + 1 - k = 1 by omega, pow_one]
  induction l with
  | nil => rfl
  | cons x xs ih =>
    rw [List.map_cons, List.sum_cons, ← ih, ← h]
    rcases fld_one_bit (f x) k k (by omega) with hx | hx <;> simp [hx, Nat.add_comm]

/-- The records of a core in the placements. -/
def onCore (ps : List Placement) (c : Nat) : List CoreRec := ps.flatMap fun q => q.cores.filter fun r => r.core == c
/-- A core without records has none to share. -/
theorem onCore_absent {ps : List Placement} {c : Nat} (h : c ∉ ps.flatMap fun (p : Placement) => p.cores.map fun r => r.core) : onCore ps c = [] := by
  refine List.flatMap_eq_nil_iff.2 fun q hq => List.filter_eq_nil_iff.2 fun r hr hc => h ?_
  exact List.mem_flatMap.2 ⟨q, hq, List.mem_map.2 ⟨r, hr, by simpa using hc⟩⟩
/-- A core's shares are more than it has (R371). -/
def coreFull (l : List CoreRec) : Prop :=
  32 < (l.map fun r => r.gslot).sum ∨ 8 < (l.map fun r => r.suba).sum ∨ 128 < (l.map fun r => r.spb).sum ∨ 256 < (l.map fun r => r.abu).sum
    ∨ 128 < (l.map fun r => r.wbu).sum ∨ 128 < (l.map fun r => r.xbu).sum ∨ 16 < (l.map fun r => r.l1u).sum ∨ 32 < (l.map fun r => r.tlbu).sum
    ∨ ∃ k, k < 4 ∧ 1 < (l.map fun r => r.pairs / 2 ^ k % 2).sum
/-- ShareOverflow of R373. -/
theorem overflows_iff (ps : List Placement) : overflows ps = true ↔
    31 < (ps.map fun q => q.l2w).sum ∨ 4096 < (ps.map fun q => q.poolq).sum ∨ ∃ c, coreFull (onCore ps c) := by
  have hpos (c : Nat) (h : coreFull (onCore ps c)) : c ∈ ps.flatMap fun (p : Placement) => p.cores.map fun r => r.core := by
    by_contra hc
    rw [onCore_absent hc] at h
    simp [coreFull] at h
  unfold overflows
  simp only [foldl_add_eq, length_filter_bit, Nat.zero_add, Bool.or_eq_true, decide_eq_true_iff, or_assoc, List.any_eq_true, List.mem_eraseDups, List.mem_range]
  refine or_congr Iff.rfl (or_congr Iff.rfl ⟨fun ⟨c, _, h⟩ => ⟨c, h⟩, fun ⟨c, h⟩ => ⟨c, hpos c h, h⟩⟩)

theorem find_insertSeat {x : Seat} {l : List Seat} (h : l.find? (fun y => y.num == x.num) = none) (n : Nat) :
    (insertSeat x l).find? (fun y => y.num == n) = if x.num = n then some x else l.find? fun y => y.num == n := by
  induction l with
  | nil => by_cases hn : x.num = n <;> simp [insertSeat, hn]
  | cons y ys ih =>
    have hy : y.num ≠ x.num := fun hy => by simp [hy] at h
    have hys : ys.find? (fun y => y.num == x.num) = none := by simpa [hy] using h
    unfold insertSeat
    split
    · by_cases hn : x.num = n <;> simp [hn]
    · rw [List.find?_cons, List.find?_cons, ih hys]
      by_cases hn : x.num = n
      · rw [if_pos hn, if_pos hn, beq_false_of_ne (hn ▸ hy)]
      · rw [if_neg hn, if_neg hn]

section Admission
variable {s : State} {seat a : Nat}
theorem admitNow_refused {n : Nat} (h : s.admission seat a = n) (hn : n ≠ 0) : s.admitNow seat a = s.status n := by
  unfold State.admitNow
  rw [h]
  split
  · exact absurd rfl hn
  · rfl
theorem admission_bad (h : s.badRecord seat a = true) : s.admission seat a = 1 := if_pos h
variable (hb : s.badRecord seat a = false)
include hb
theorem admission_taken (h : (s.findSeat seat).isSome = true) : s.admission seat a = 7 := (if_neg (by simp [hb])).trans (if_pos h)
variable (hs : s.findSeat seat = none)
include hs
theorem admission_late (h : (s.placementAt a).frame < s.mailFrame + 16) : s.admission seat a = 5 :=
  (if_neg (by simp [hb])).trans ((if_neg (by simp [hs])).trans (if_pos h))
/-- What is left of the checks for a sound record of a free seat in time. -/
theorem admission_shares (h : ¬(s.placementAt a).frame < s.mailFrame + 16) : s.admission seat a =
    if ((s.seats.any fun (x : Seat) => rotaConflict (s.placementAt a) x.pl) || (s.placementAt a).cores.any fun (c : CoreRec) => !c.grant && c.cmap == 0) = true then 2
    else if 64 < popcount64 (s.entriesHeld ||| (s.placementAt a).dmap) + 2 then 4
    else if overflows (s.placementAt a :: s.seats.map fun (x : Seat) => x.pl) = true then 3
    else 0 :=
  (if_neg (by simp [hb])).trans ((if_neg (by simp [hs])).trans (if_neg h))
end Admission
theorem admitNow_seats {s : State} {seat a : Nat} {es : List QuantumEntry} (h : s.admission seat a = 0) (hq : s.quantumTable (s.placementAt a).qtab = some es) :
    s.admitNow seat a = ((({ s with seats := insertSeat { num := seat, pl := s.placementAt a, qtab := es } s.seats }).at
      ((s.placementAt a).frame * Config.frame) (.seating seat)).status 0) := by
  unfold State.admitNow
  rw [h, hq]
  rfl

/-! ### Leases (R375) -/

theorem leased_iff (s : State) (k : Nat) : s.leased k = true ↔ ∃ x, s.findSeat k = some x ∧ x.lease.v = true := by
  unfold State.leased
  cases s.findSeat k <;> simp
theorem findSeat_mapSeat_mapSeat {s : State} {f g : Seat → Seat} (hf : ∀ x, (f x).num = x.num) (hg : ∀ x, (g x).num = x.num) (l b k : Nat) :
    ((s.mapSeat l f).mapSeat b g).findSeat k = ((s.findSeat k).map fun x => if x.num = l then f x else x).map fun x => if x.num = b then g x else x := by
  rw [findSeat_mapSeat hg, findSeat_mapSeat hf]
section Lease
variable {s : State} {l : Nat} {w m f n : W64}
theorem leaseNow_refused {k : Nat} (h : s.leaseStatus l w m f.toNat n.toNat = k) (hk : k ≠ 0) : s.leaseNow l w m f n = s.status k := by
  unfold State.leaseNow
  rw [h]
  exact if_pos hk
/-- BadRecord of LEASE. -/
theorem leaseBad_iff : (n.toNat = 0 ∨ 2 ^ 32 ≤ n.toNat ∨ m = 0 ∨ fld w.toNat 63 4 ≠ 0) ↔ n.toNat = 0 ∨ 2 ^ 32 ≤ n.toNat ∨ m = 0 ∨ 16 ≤ w.toNat := by
  rw [fld_63]
  exact or_congr Iff.rfl (or_congr Iff.rfl (or_congr Iff.rfl (by omega)))
/-- RotaConflict of LEASE. -/
theorem leaseConflict_iff : ((match s.findSeat l with
      | some x => m &&& ~~~x.pl.dmap != 0
      | none => false) || l == 15 || fld w.toNat 3 0 == 15 || l == fld w.toNat 3 0 || s.leased l || s.leased (fld w.toNat 3 0)) = true ↔
    (∃ x, s.findSeat l = some x ∧ m &&& ~~~x.pl.dmap ≠ 0) ∨ l = 15 ∨ w.toNat % 16 = 15 ∨ l = w.toNat % 16 ∨ s.leased l = true ∨ s.leased (w.toNat % 16) = true := by
  rw [fld_slot]
  cases s.findSeat l <;> simp [or_assoc]
theorem leaseAbsent_iff : ((s.findSeat l).isNone || (s.findSeat (fld w.toNat 3 0)).isNone) = true ↔ s.findSeat l = none ∨ s.findSeat (w.toNat % 16) = none := by
  rw [fld_slot, Bool.or_eq_true, Option.isNone_iff_eq_none, Option.isNone_iff_eq_none]
/-- The lease record of one of the two seats. -/
def leasePart (m f n : W64) (lend : Bool) (peer : Nat) : LeaseRec := { v := true, lend := lend, peer := peer, lmap := m, first := f.toNat, count := n.toNat }
theorem leaseNow_ok (h : s.leaseStatus l w m f.toNat n.toNat = 0) : s.leaseNow l w m f n =
    (((((s.mapSeat l fun x => { x with lease := leasePart m f n true (w.toNat % 16) }).mapSeat (w.toNat % 16) fun x => { x with lease := leasePart m f n false l }).at
      (f.toNat * Config.frame) (.leaseBegin l)).at ((f.toNat + n.toNat) * Config.frame) (.leaseEnd l)).status 0) := by
  unfold State.leaseNow
  rw [h, fld_slot]
  rfl
end Lease

/-! ### Power (R420) -/

theorem need_sum (s : State) : s.need = 420 + ((s.seats.filter fun (x : Seat) => x.seated).map fun (x : Seat) => (x.floor.map fun f => f.2).getD 0).sum :=
  foldl_add_eq _ _ _
theorem afterPower_nil {s : State} (h : s.power.pending = []) : s.afterPower = s := by
  have hs : s.afterPower = { s with power := { s.power with pending := [] } } := by
    rw [State.afterPower, h]
    rfl
  rw [hs, ← h]
theorem afterPower_cons {s : State} {c : PowerCmd} {cs : List PowerCmd} (h : s.power.pending = c :: cs) :
    s.afterPower = (({ s with power := { s.power with pending := cs } } : State).applyPower c).afterPower := by
  unfold State.afterPower
  rw [h, List.foldl_cons]
  cases c <;> rfl

/-! ### Windows and queues (R376, R380, R413) -/

/-- An entry of a port is a window of its own, closed by a length of 0. -/
theorem mem_windowsSet (l : List Window) (e : Window) (n : Nat) (x : Window) :
    x ∈ (if n = 0 then l.filter fun (w : Window) => !(w.port == e.port && w.entry == e.entry)
      else (l.filter fun (w : Window) => !(w.port == e.port && w.entry == e.entry)) ++ [e]) ↔
      (x ∈ l ∧ ¬(x.port = e.port ∧ x.entry = e.entry)) ∨ (n ≠ 0 ∧ x = e) := by
  split
  · next h => simp [h, imp_iff_not_or]
  · next h => simp [h, imp_iff_not_or]
/-- A queue placed under its number is the one found there. -/
theorem find_placed (l : List Queue) (k : Queue) :
    ((l.filter fun (j : Queue) => !(j.vf == k.vf && j.q == k.q)) ++ [k]).find? (fun j => j.vf == k.vf && j.q == k.q) = some k := by
  rw [List.find?_append, List.find?_eq_none.2 fun j hj => by simpa [imp_iff_not_or] using (List.mem_filter.1 hj).2]
  simp

/-! ### Replies -/

theorem status_head (s : State) (n : Nat) : (s.status n).host.mbout.head? = some (BitVec.ofNat 64 n) := rfl
/-- A reply of eight words is MBOUT whole. -/
theorem answer_mbout (s : State) {ws : List W64} (h : ws.length = 8) : (s.answer ws).host.mbout = ws := by
  refine List.ext_getElem (by simp [State.answer, h]) fun i _ hi => ?_
  simp [State.answer, List.getElem?_eq_getElem hi]
theorem statusReply_length (s : State) : s.statusReply.length = 8 := by simp [State.statusReply]

/-- Settles O49: with the device Ready each row is its command's function, whose refusals are taken in the order of its checks. -/
theorem mailboxCommandsAct : Obligations.MailboxCommandsAct := by
  unfold Obligations.MailboxCommandsAct
  intro s hd
  refine ⟨?_, ?_, ?_, ?_, ?_, ?_, ?_, ?_, ?_, ?_, ?_, ?_, ?_, ?_, ?_, ?_, ?_⟩
  case refine_1 => -- ADMIT
    intro seat a p hev hp h l set bad conflict starved ps sum full late
    subst hp
    have hrow : exec .admitSeat s = .next (s.admitNow seat a) := command_ready hd hev rfl rfl
    have hbad : s.badRecord seat a = true ↔ bad := badRecord_iff s seat a
    have hconf := rotaConflict_iff s (s.placementAt a)
    have hfull : overflows ps = true ↔ full := overflows_iff ps
    rw [hrow]
    refine ⟨fun h => ?_, fun hb h => ?_, fun hb hs h => ?_, fun hb hs hl h => ?_, fun hb hs hl hc h => ?_, fun hb hs hl hc hr h => ?_, fun hb hs hl hc hr hf => ?_⟩
    · exact congrArg _ (admitNow_refused (admission_bad (hbad.2 h)) (by decide))
    all_goals have hb' : s.badRecord seat a = false := Bool.eq_false_iff.2 fun h => hb (hbad.1 h)
    · exact congrArg _ (admitNow_refused (admission_taken hb' h) (by decide))
    · exact congrArg _ (admitNow_refused (admission_late hb' hs h) (by decide))
    all_goals have hadm := admission_shares hb' hs hl
    · rw [if_pos (hconf.2 h)] at hadm
      exact congrArg _ (admitNow_refused hadm (by decide))
    all_goals rw [if_neg fun h => hc (hconf.1 h)] at hadm
    · rw [if_pos ((rotaFull_iff s _).2 h)] at hadm
      exact congrArg _ (admitNow_refused hadm (by decide))
    all_goals rw [if_neg fun h => hr ((rotaFull_iff s _).1 h)] at hadm
    · rw [if_pos (hfull.2 h)] at hadm
      exact congrArg _ (admitNow_refused hadm (by decide))
    rw [if_neg fun h => hf (hfull.1 h)] at hadm
    have hq : s.quantumTable (s.placementAt a).qtab ≠ none := fun hq => hb (by simp only [bad, hq, or_true])
    obtain ⟨es, hes⟩ := Option.ne_none_iff_exists'.1 hq
    have hfind := find_insertSeat (x := { num := seat, pl := s.placementAt a, qtab := es }) hs
    refine ⟨_, es, congrArg _ (admitNow_seats hadm hes), hes, (hfind seat).trans (if_pos rfl), fun n hn => (hfind n).trans (if_neg (Ne.symm hn)), status_head _ 0, ?_, rfl, ?_⟩
    · exact List.mem_append.2 (.inr (List.mem_singleton.2 rfl))
    · exact ⟨fun p => readAt_congr rfl rfl rfl p 1, rfl, rfl, rfl, rfl, rfl⟩
  case refine_2 => -- LEASE
    intro l w m f n hev b bad conflict late part
    have hrow : exec .lease s = .next (s.leaseNow l w m f n) := command_ready hd hev rfl rfl
    have hbad : _ ↔ bad := leaseBad_iff
    have hconf : _ ↔ conflict := leaseConflict_iff
    rw [hrow]
    refine ⟨fun h => ?_, fun hb h => ?_, fun hb hc h => ?_, fun hb hc hl h => ?_, fun x y hb hc hl hx hy => ?_, fun k => leased_iff s k⟩
    · exact congrArg _ (leaseNow_refused (if_pos (hbad.2 h)) (by decide))
    all_goals have hb' := mt hbad.1 hb
    · exact congrArg _ (leaseNow_refused ((if_neg hb').trans (if_pos (hconf.2 h))) (by decide))
    all_goals have hc' := mt hconf.1 hc
    · exact congrArg _ (leaseNow_refused ((if_neg hb').trans ((if_neg hc').trans (if_pos h))) (by decide))
    · exact congrArg _ (leaseNow_refused ((if_neg hb').trans ((if_neg hc').trans ((if_neg hl).trans (if_pos (leaseAbsent_iff.2 h))))) (by decide))
    have hab : ¬((s.findSeat l).isNone || (s.findSeat (fld w.toNat 3 0)).isNone) = true :=
      mt leaseAbsent_iff.1 (not_or.2 ⟨fun h => Option.some_ne_none x (hx.symm.trans h), fun h => Option.some_ne_none y (hy.symm.trans h)⟩)
    have hok := leaseNow_ok (s := s) ((if_neg hb').trans ((if_neg hc').trans ((if_neg hl).trans (if_neg hab))))
    have hlb : l ≠ b := fun h => hc (.inr (.inr (.inr (.inl h))))
    have hfind := findSeat_mapSeat_mapSeat (s := s) (f := fun x => { x with lease := part true b }) (g := fun x => { x with lease := part false l })
      (fun _ => rfl) (fun _ => rfl) l b
    have hxn := findSeat_num hx
    have hyn := findSeat_num hy
    refine ⟨_, congrArg _ hok, (hfind l).trans ?_, (hfind b).trans ?_, fun k hkl hkb => (hfind k).trans ?_, ?_, ?_, status_head _ 0,
      ⟨fun p => readAt_congr rfl rfl rfl p 1, rfl, rfl, rfl, rfl, rfl⟩⟩
    · simp [hx, hxn, hlb]
    · simp [hy, hyn, Ne.symm hlb]
    · cases hk : s.findSeat k with
      | none => rfl
      | some z =>
        have hz := findSeat_num hk
        simp [hz, hkl, hkb]
    · exact List.mem_append.2 (.inl (List.mem_append.2 (.inr (List.mem_singleton.2 rfl))))
    · exact List.mem_append.2 (.inr (List.mem_singleton.2 rfl))
  case refine_3 => -- POWERCAP
    intro w d hev c set
    have hrow : exec .powercap s = .next (s.powercap w d) := command_ready hd hev rfl rfl
    have hset (degrade : Bool) (h : s.powercap w d = s.pendPower (.cap c degrade)) : set degrade := hrow.trans (congrArg _ h)
    rw [hrow]
    refine ⟨fun h => congrArg _ (if_pos h), fun h h' hd => congrArg _ ?_, fun h h' hd => hset true ?_, fun h h' => hset false ?_⟩
    · exact (if_neg (Nat.not_lt.2 h)).trans ((if_pos h').trans (if_neg (by simp [hd])))
    · exact (if_neg (Nat.not_lt.2 h)).trans ((if_pos h').trans (if_pos hd))
    · exact (if_neg (Nat.not_lt.2 h)).trans (if_neg (Nat.not_lt.2 h'))
  case refine_4 => -- SEATFLOOR
    intro n m g hev
    have hrow : exec .seatfloor s = .next (s.seatfloor n m g) := command_ready hd hev rfl rfl
    rw [hrow]
    refine ⟨fun h => congrArg _ (if_pos (by simp [h])), fun h t ht => ?_⟩
    have hlook : s.seatfloor n m g = if t.power.cap < t.need ∧ (!t.power.degrade) = true then s.status 12 else s.pendPower (.floor n m g) := by
      rw [ht]
      exact if_neg (by simpa [Option.isSome_iff_ne_none] using h)
    rw [hlook]
    refine ⟨fun hc hd => congrArg _ (if_pos ⟨hc, by simp [hd]⟩), fun h => congrArg _ (if_neg fun ⟨hc, hd⟩ => ?_)⟩
    rcases h with h | h
    · exact Nat.not_lt.2 h hc
    · simp [h] at hd
  case refine_5 => exact need_sum s
  case refine_6 => exact afterPower_nil
  case refine_7 => -- a pending power command
    intro c cs h u hu
    rw [afterPower_cons h, ← hu]
    exact ⟨fun w d hc => by rw [hc]; rfl, fun n m g hc => by rw [hc]; rfl⟩
  case refine_8 => -- LINKOPEN
    intro p j b n rd wr hev bad
    have hrow : exec .linkopen s = .next (s.linkOpen p j b n rd wr) := command_ready hd hev rfl rfl
    rw [hrow]
    refine ⟨fun h => congrArg _ (if_pos h), fun h => ⟨_, congrArg _ (if_neg h), status_head _ 0, rfl, ⟨fun p => readAt_congr rfl rfl rfl p 1, rfl, rfl, rfl, rfl, rfl⟩, fun x => ?_⟩⟩
    exact mem_windowsSet s.windows { port := p, entry := j, base := b, len := n, rd := rd, wr := wr } n x
  case refine_9 => -- EVICT
    intro n force hev
    refine ⟨fun h => command_ready hd hev rfl (if_pos h), fun h hs => ?_, fun h hs => ?_⟩
    · refine command_ready hd hev rfl ((if_neg (by simp [h])).trans ?_)
      rw [hs]
    · obtain ⟨x, hx⟩ := Option.isSome_iff_exists.1 hs
      refine command_ready hd hev rfl ((if_neg (by simp [h])).trans ?_)
      rw [hx]
  case refine_10 => -- QTABLE
    intro n a hev
    refine ⟨fun h => command_ready hd hev rfl ?_, fun es he => ⟨fun h => command_ready hd hev rfl ?_, fun h => ?_⟩⟩
    · rw [h]
    · rw [he, h]
    · obtain ⟨x, hx⟩ := Option.isSome_iff_exists.1 h
      refine command_ready hd hev rfl ?_
      rw [he, hx]
  case refine_11 => -- QREG
    intro vf q a hev
    refine ⟨fun h => command_ready hd hev rfl (if_pos ?_), fun h1 h2 h3 h4 h5 => ?_⟩
    · rw [Bool.not_eq_true', decide_eq_false_iff_not]
      omega
    have hgood : ¬(a % 64 ≠ 0 ∨ s.rec64 a 511 448 % 4096 ≠ 0 ∨ (!decide (4 ≤ s.rec64 a 319 315 ∧ s.rec64 a 319 315 ≤ 16)) = true ∨ s.rec64 a 304 0 ≠ 0) := by
      rw [Bool.not_eq_true', decide_eq_false_iff_not]
      omega
    refine ⟨fun h => command_ready hd hev rfl ((if_neg hgood).trans (if_pos h)), fun hq hvf => ⟨_, command_ready hd hev rfl ((if_neg hgood).trans (if_neg (by omega))),
      find_placed s.queues { vf := vf, q := q, addr := a }, fun hw => read_write _ _ _ hw, status_head _ 0⟩⟩
  case refine_12 => -- RUNMODE
    intro rcb w clear hev q bad hq hbad
    subst hq
    refine ⟨fun hc hb => command_ready hd hev rfl (if_pos (by rw [← hbad, hc, hb]; rfl)), fun h hr => ?_, fun h hr => ?_⟩
    all_goals have hgo : ¬(!clear && bad) = true := by rcases h with h | h <;> simp [h]
    all_goals rw [hbad] at hgo
    · exact command_ready hd hev rfl ((if_neg hgo).trans (if_pos (by rw [hr]; rfl)))
    · refine command_ready hd hev rfl ((if_neg hgo).trans ((if_neg (by simp [hr])).trans ?_))
      cases clear
      · rfl
      · exact congrArg (fun l => ({ s with runModes := l } : State).status 0) (List.append_nil _).symm
  case refine_13 => -- PREEMPT
    intro rcb d hev
    refine ⟨fun h => command_ready hd hev rfl (if_pos (by simpa using h)), fun h1 h2 hr => command_ready hd hev rfl (if_neg ?_)⟩
    simpa [h1, hr] using h2
  case refine_14 => -- RESUME
    intro rcb hev
    exact ⟨fun h => command_ready hd hev rfl (if_pos (by rw [h]; rfl)), fun h => ⟨_, command_ready hd hev rfl (if_neg (by simp [h])), status_head _ 0⟩⟩
  case refine_15 => -- PAGEDONE
    intro asid page refused hev hit
    refine ⟨fun h => command_ready hd hev rfl ?_, fun f h => command_ready hd hev rfl ?_⟩
    · have h' : s.faults.find? (fun (f : FaultRec) => f.forwarded && f.asid == asid && f.va / 4096 == page.toNat / 4096) = none := h
      rw [h']
    · have h' : s.faults.find? (fun (f : FaultRec) => f.forwarded && f.asid == asid && f.va / 4096 == page.toNat / 4096) = some f := h
      rw [h']
      exact congrArg (State.status _) (if_congr (by rw [Bool.and_eq_true, Bool.not_eq_true']) rfl rfl)
  case refine_16 => -- UNFENCE
    intro core slot isSlot pass hev
    refine ⟨fun h => command_ready hd hev rfl (if_pos (by rw [h]; rfl)), fun h hp => command_ready hd hev rfl ((if_neg (by simp [h])).trans (if_pos (by rw [hp]; rfl))),
      fun h hp => command_ready hd hev rfl ((if_neg (by simp [h])).trans (if_neg (by simp [hp])))⟩
  case refine_17 => -- STATUS
    intro t hev
    exact ⟨Laws.runEvent_next hev rfl, answer_mbout t (statusReply_length t), rfl, statusReply_length t, rfl, rfl⟩

end Sys2Proof.Proofs
end

section
/-! What the events of pages, registers, power, fences, host requests and links do when they are due (R361, R362, R366, R407-R419). -/
namespace Sys2Proof.Proofs
open Sys2Proof Sys2Proof.Machine Sys2Proof.Laws

/-! ### Pages (R361, R362) -/

section Migration
variable {s : State} {asid va frame level : Nat} {w : W64} {a : Nat}
section Leaf
variable (h : s.walkNow asid va = .leaf level w a)
include h
theorem migrate_leaf_stays (hm : s.mayMove asid level w frame = false) : s.migrate asid va frame = s := by
  unfold State.migrate
  rw [h]
  exact if_neg (by simp [hm])
theorem migrate_leaf_moves (hm : s.mayMove asid level w frame = true) {u : State}
    (hu : u = ({ s with mem := Memory.write s.mem a 8 (w ||| (1#64 <<< 63)).toNat } : State).claimSlice a) : s.migrate asid va frame =
      (u.seats.foldl (fun (t : State) (x : Seat) => t.invalidate x.num (some asid) (some (va % 2 ^ 57))) u).now (.pageMigration asid va frame) := by
  unfold State.migrate
  rw [h, hu]
  exact if_pos hm
end Leaf
/-- A marked page, of a frame that fits, is copied once nothing uses its old frame. -/
theorem migrate_absent (h : s.walkNow asid va = .absent level w a) : s.migrate asid va frame =
    if (leafBit w 0 && leafBit w 63 && frame % 2 ^ levelBits level == 0 && decide (frame + 2 ^ levelBits level ≤ Config.deviceBytes)) = true then
      if s.frameQuiet asid va (entryPA w) (2 ^ levelBits level) = true then
        ({ s with
          mem := Memory.write (Memory.putBytes s.mem frame (Memory.bytes s.mem (entryPA w) (2 ^ levelBits level))) a 8
            (((w &&& ~~~(1#64 <<< 63)) &&& ~~~0x000FFFFFFFFFF000#64) ||| BitVec.ofNat 64 frame).toNat } : State).claimSlice a
      else s.at (s.g + 1) (.pageMigration asid va frame)
    else s := by
  unfold State.migrate
  rw [h]
theorem migrate_else (h : ∀ level w a, s.walkNow asid va ≠ .leaf level w a ∧ s.walkNow asid va ≠ .absent level w a) : s.migrate asid va frame = s := by
  unfold State.migrate
  split
  · next hw => exact absurd hw (h _ _ _).1
  · next hw => exact absurd hw (h _ _ _).2
  · rfl
end Migration

/-! ### Registers (R410) -/

/-- The time until ADMIT and LEASE are handled is bounded; that of any other command is firmware's. -/
def mailDelay (s : State) (e : Event) : Nat :=
  match e with
  | .admitSeat _ _ | .lease _ _ _ _ _ => Config.firmwareDelay s.draws % (2 * Config.frame - s.g % Config.frame - 1)
  | _ => Config.firmwareDelay s.draws
/-- The end of the frame after this one is the last cycle a bounded delay reaches. -/
theorem mailDelay_frame {s : State} {e : Event} (h : (∃ n a, e = .admitSeat n a) ∨ (∃ n a b f g, e = .lease n a b f g)) :
    (s.g + 1 + mailDelay s e) / Config.frame ≤ s.g / Config.frame + 1 := by
  have hd : mailDelay s e = Config.firmwareDelay s.draws % (2 * Config.frame - s.g % Config.frame - 1) := by
    rcases h with ⟨n, a, rfl⟩ | ⟨n, a, b, f, g, rfl⟩ <;> rfl
  have hf : 0 < Config.frame := by decide
  have hr := Nat.mod_lt s.g hf
  have hlt := Nat.mod_lt (Config.firmwareDelay s.draws) (show 0 < 2 * Config.frame - s.g % Config.frame - 1 by omega)
  have hg := Nat.div_add_mod s.g Config.frame
  have hm : (s.g / Config.frame + 1).succ * Config.frame = Config.frame * (s.g / Config.frame) + 2 * Config.frame := by
    rw [Nat.succ_eq_add_one]
    ring
  rw [hd, ← Nat.lt_succ_iff, Nat.div_lt_iff_lt_mul hf, hm]
  omega
theorem goMail_busy {s : State} (h : s.host.busy = true) : s.goMail = s := if_pos h
/-- The message is sent, and its command is set. -/
theorem goMail_free {s : State} (h : s.host.busy = false) : s.goMail =
    ({ ({ s with draws := s.draws + 1 } : State).sendMail { core := 1, words := s.host.mbin, frame := s.g / Config.frame } with host := { s.host with busy := true } } : State).at
      (s.g + 1 + mailDelay s (s.commandOf s.host.mbin)) (s.commandOf s.host.mbin) := by
  unfold State.goMail
  rw [if_neg (by simp [h])]
  rfl
theorem sendMail_eq (s : State) (m : Mail) : ∃ l k, s.sendMail m = { s with mail := l, mailWait := k }
    ∧ ∀ full, full = decide (16 ≤ (s.mail.filter fun (q : Mail) => q.core == m.core).length) →
      (full = false → l = s.mail ++ [m] ∧ k = s.mailWait) ∧ (full = true → l = s.mail ∧ k = s.mailWait ++ [m]) := by
  unfold State.sendMail
  split
  · next h => exact ⟨_, _, rfl, fun full hf => ⟨fun _ => ⟨rfl, rfl⟩, fun ht => absurd h (Nat.not_lt.2 (of_decide_eq_true (hf.symm.trans ht)))⟩⟩
  · next h => exact ⟨_, _, rfl, fun full hf => ⟨fun ht => absurd (Nat.not_lt.1 h) (of_decide_eq_false (hf.symm.trans ht)), fun _ => ⟨rfl, rfl⟩⟩⟩
section Register
variable {s : State} {off : Nat} {v : W64}
theorem writeReg_mbin (h : 0x1000 ≤ off) (h' : off < 0x1040) : s.writeReg off v = { s with host := { s.host with mbin := s.host.mbin.set ((off - 0x1000) / 8) v } } :=
  if_pos ⟨h, h'⟩
theorem writeReg_control {u : State} (h : 0x1080 ≤ off) (h' : off < 0x1088)
    (hu : u = { s with host := { s.host with done := if v.getLsbD 2 then false else s.host.done } }) : s.writeReg off v = if v.getLsbD 0 then u.goMail else u := by
  have hdone : (if v.getLsbD 2 then { s with host := { s.host with done := false } } else s : State) = u := by
    rw [hu]
    split <;> rfl
  unfold State.writeReg
  rw [if_neg (by omega), if_pos (by omega)]
  dsimp only
  rw [hdone]
theorem writeReg_other (h : off < 0x1000 ∨ (0x1040 ≤ off ∧ off < 0x1080) ∨ 0x1088 ≤ off) : s.writeReg off v = s :=
  (if_neg (by omega)).trans (if_neg (by omega))
end Register

/-! ### A line of an access from outside (R408, R409, R413) -/

theorem once_eq (s : State) (c : Nat) (e : Event) : ∃ l, s.once c e = { s with agenda := l } := by
  unfold State.once
  split <;> exact ⟨_, rfl⟩
/-- Setting a request's position changes the agenda alone. -/
theorem schedule_eq (s : State) (r : Req) : ∃ l, s.schedule r = { s with agenda := l } := by
  unfold State.schedule
  split
  · exact ⟨_, rfl⟩
  · split
    · exact once_eq _ _ _
    · exact ⟨_, rfl⟩
/-- The request of seat 15 for a line. -/
def lineReq (id : Nat) (s : State) (line : Nat) : Req :=
  { id := s.nextId, owner := id, age := s.nextOp, seat := 15, core := 256, kind := .visit, place := .dev (128 * line), hops := visitWay (128 * line), arrive := s.g, sent := true }
/-- It is made and set for its first position. -/
def askLine (id : Nat) (s : State) (line : Nat) : State :=
  ({ s with nextId := s.nextId + 1, reqs := s.reqs ++ [lineReq id s line] } : State).schedule (lineReq id s line)
theorem askLine_eq (id : Nat) (s : State) (line : Nat) : ∃ l, askLine id s line = { s with nextId := s.nextId + 1, reqs := s.reqs ++ [lineReq id s line], agenda := l } :=
  schedule_eq _ _
/-- Each line has its request, in order, and no memory changes. -/
theorem askLines (id : Nat) (lines : List Nat) (s : State) : ∃ qs : List Req, (lines.foldl (askLine id) s).reqs = s.reqs ++ qs
    ∧ qs.map (fun (r : Req) => r.place) = lines.map (fun j => Phys.dev (128 * j)) ∧ (∀ r ∈ qs, r.kind = .visit ∧ r.owner = id ∧ r.seat = 15)
    ∧ (lines.foldl (askLine id) s).visits = s.visits ∧ SameBytes s (lines.foldl (askLine id) s) := by
  induction lines generalizing s with
  | nil => exact ⟨[], (List.append_nil _).symm, rfl, by simp, rfl, fun _ => rfl, rfl, rfl, rfl, rfl, rfl⟩
  | cons j js ih =>
    obtain ⟨l, hl⟩ := askLine_eq id s j
    obtain ⟨qs, hreqs, hplace, hkind, hvisits, hread, hscr, ha, hw, hx, ht⟩ := ih (askLine id s j)
    rw [List.foldl_cons]
    refine ⟨lineReq id s j :: qs, ?_, congrArg _ hplace, ?_, hvisits.trans (by rw [hl]), fun p => (hread p).trans ?_, ?_⟩
    · rw [hreqs, hl, List.append_assoc]
      rfl
    · intro r hr
      rcases List.mem_cons.1 hr with rfl | hr
      · exact ⟨rfl, rfl, rfl⟩
      · exact hkind r hr
    · exact readAt_congr (by rw [hl]) (by rw [hl]) (by rw [hl]) p 1
    · rw [hscr, ha, hw, hx, ht, hl]
      exact ⟨rfl, rfl, rfl, rfl, rfl⟩
/-- An access to device memory asks for each line it names. -/
theorem visit_dev {s : State} (k : Inbound) {l : List Phys} (hl : l ≠ []) (hd : ∀ p ∈ l, p.isDev = true) {lines : List Nat} (hlines : lines = (l.map Phys.lineNo).eraseDups) :
    s.visit k l = lines.foldl (askLine s.nextId) { s with
      nextId := s.nextId + 1, visits := s.visits ++ [{ id := s.nextId, kind := k, places := l, got := [], left := lines.length }] } := by
  have haway : (l.zipIdx.filter fun p => !p.1.isDev) = [] :=
    List.filter_eq_nil_iff.2 fun p hp => by simp [hd p.1 ((List.mem_zipIdx' hp).2 ▸ List.getElem_mem _)]
  have hall : l.filter Phys.isDev = l := List.filter_eq_self.2 hd
  have hne : lines ≠ [] := by
    obtain ⟨p, hp⟩ := List.exists_mem_of_ne_nil l hl
    exact List.ne_nil_of_mem (hlines ▸ List.mem_eraseDups.2 (List.mem_map_of_mem hp))
  obtain ⟨j, js, hj⟩ := List.exists_cons_of_ne_nil hne
  unfold State.visit
  dsimp only
  rw [haway, hall, ← hlines, hj]
  cases k <;> rfl

section Served
/-- The accesses from outside once a line of one has come: its bytes are kept, or it is over with its last line. -/
def visitsLeft (u : State) (v : Visit) (got : List (Nat × Byte)) : List Visit :=
  if v.left ≤ 1 then u.visits.filter fun (w : Visit) => w.id != v.id
  else u.visits.map fun (w : Visit) => if w.id = v.id then { w with got := got, left := w.left - 1 } else w
variable {s u : State} {r : Req} {v : Visit} (hu : u = s.dropReq r.id) (hv : u.visits.find? (fun (v : Visit) => v.id == r.owner) = some v)
include hu hv
theorem visited_atomic {op : AOp} {w nw : W64} {b : Nat} {l : List Phys} (hk : v.kind = .atomic op w nw) (hp : v.places = .dev b :: l) (hlast : v.left ≤ 1) :
    s.visited r = (({ u with visits := u.visits.filter fun (k : Visit) => k.id != v.id } : State).hostWrite b
      (bytesOf (aopBytes op) (aopNew op (BitVec.ofNat 64 (Memory.read u.mem b (aopBytes op))) w nw).toNat)).reportAnswer
        (some (bytesOf (aopBytes op) (Memory.read u.mem b (aopBytes op)))) := by
  unfold State.visited
  dsimp only
  rw [← hu, hv]
  dsimp only
  rw [hk, hp]
  simp only [hlast, decide_true, if_true]
variable {t : State} {here : List (Nat × Nat)} {got : List (Nat × Byte)} (hhere : here = v.inLine r.place.lineNo)
  (hgot : got = v.got ++ here.map fun q => (q.1, BitVec.ofNat 8 (Memory.read u.mem q.2 1))) (ht : t = { u with visits := visitsLeft u v got })
include hhere hgot ht
theorem visited_write {bs : List Byte} {k a : Nat} {l : List (Nat × Nat)} (hk : v.kind = .write bs) (hl : here = (k, a) :: l) :
    s.visited r = t.hostWrite a ((bs.drop k).take (l.length + 1)) := by
  unfold State.visited
  dsimp only
  rw [← hu, hv]
  dsimp only
  simp only [decide_eq_true_eq]
  rw [← hhere, ← hgot, hk, hl, ht]
  rfl
theorem visited_read (hk : v.kind = .read) : s.visited r =
    if v.left ≤ 1 then t.reportAnswer (some ((sortBy (fun (a b : Nat × Byte) => decide (a.1 < b.1)) got).map (·.2))) else t := by
  unfold State.visited
  dsimp only
  rw [← hu, hv]
  dsimp only
  simp only [decide_eq_true_eq]
  rw [← hhere, ← hgot, hk, ht]
  rfl
end Served

/-! ### Host requests (R408) -/

section Bar
variable {s : State} {vf bar off len : Nat} {wr : Option (List Byte)}
/-- The bytes a request names. -/
def barBytes (wr : Option (List Byte)) (len : Nat) : Nat := (wr.map List.length).getD len
/-- The size of a window of a function (R408). -/
def barSize (vf bar : Nat) : Nat :=
  match vf, bar with
  | 0, 0 => 2 * 2 ^ 20
  | 0, 2 => Config.deviceBytes
  | _, 0 => 4096
  | _, 2 => 64 * 2 ^ 30
  | _, _ => 0
theorem barSize_function (h0 : vf ≠ 0) : barSize vf 0 = 4096 ∧ barSize vf 2 = 64 * 2 ^ 30 := by
  simp only [barSize, and_self]
theorem barSize_else (h0 : bar ≠ 0) (h2 : bar ≠ 2) : barSize vf bar = 0 := by
  unfold barSize
  split
  · exact absurd rfl h0
  · exact absurd rfl h2
  · exact absurd rfl h0
  · exact absurd rfl h2
  · rfl
theorem barRequest_outside (h : barSize vf bar < off + barBytes wr len ∨ s.link.numVFs < vf) : s.barRequest vf bar off wr len = s.reportError vf 20 := by
  unfold State.barRequest
  cases wr <;> exact if_pos h
theorem inside (h : off + barBytes wr len ≤ barSize vf bar) (h' : vf ≤ s.link.numVFs) : ¬(barSize vf bar < off + barBytes wr len ∨ s.link.numVFs < vf) := by omega
theorem pfRegisters_write {bs : List Byte} (h : off + barBytes (some bs) len ≤ 2 * 2 ^ 20) : s.barRequest 0 0 off (some bs) len = s.bar0Write off bs :=
  if_neg (inside (vf := 0) (bar := 0) h (Nat.zero_le _))
theorem pfRegisters_read (h : off + len ≤ 2 * 2 ^ 20) : s.barRequest 0 0 off none len =
    ({ s with draws := s.draws + 1 } : State).reportAnswer (some ((List.range len).map fun k => s.bar0Byte (off + k))) :=
  if_neg (inside (vf := 0) (bar := 0) (wr := none) h (Nat.zero_le _))
/-- The access a request makes to bytes at these places. -/
def barVisit (s : State) (wr : Option (List Byte)) (l : List Phys) : State :=
  s.visit (match wr with
    | some bs => .write bs
    | none => .read) l
theorem pfMemory (h : off + barBytes wr len ≤ Config.deviceBytes) : s.barRequest 0 2 off wr len = barVisit s wr ((List.range (barBytes wr len)).map fun k => .dev (off + k)) := by
  cases wr with
  | none => exact if_neg (inside (vf := 0) (bar := 2) (wr := none) h (Nat.zero_le _))
  | some bs => exact if_neg (inside (vf := 0) (bar := 2) (wr := some bs) h (Nat.zero_le _))
section Function
variable (h0 : vf ≠ 0) (h' : vf ≤ s.link.numVFs)
include h0 h'
theorem doorbells_write {bs : List Byte} (h : off + barBytes (some bs) len ≤ 4096) : s.barRequest vf 0 off (some bs) len =
    if off % 4 ≠ 0 then s else (wordsAt off bs).foldl (fun (t : State) p => t.pageWrite vf p.1 p.2) s := by
  obtain ⟨m, rfl⟩ := Nat.exists_eq_succ_of_ne_zero h0
  exact if_neg (inside (bar := 0) h h')
theorem doorbells_read (h : off + len ≤ 4096) : s.barRequest vf 0 off none len =
    ({ s with draws := s.draws + 1 } : State).reportAnswer (some ((List.range len).map fun k => s.pageByte vf (off + k))) := by
  obtain ⟨m, rfl⟩ := Nat.exists_eq_succ_of_ne_zero h0
  exact if_neg (inside (bar := 0) (wr := none) h h')
/-- A request of a virtual function in BAR 2 is one of its address space. -/
theorem barRequest_vf (h : off + barBytes wr len ≤ barSize vf 2) : s.barRequest vf 2 off wr len = s.vfRequest vf off wr (barBytes wr len) := by
  obtain ⟨m, rfl⟩ := Nat.exists_eq_succ_of_ne_zero h0
  cases wr with
  | none => exact if_neg (inside (bar := 2) (wr := none) h h')
  | some bs => exact if_neg (inside (bar := 2) (wr := some bs) h h')
end Function
/-- What a request of a virtual function in BAR 2 meets: no seat of it, a page that does not translate, or its bytes. -/
theorem vfRequest_none (h : s.rootAsid vf = none) : s.vfRequest vf off wr len = s.reportAnswer none := by
  unfold State.vfRequest
  rw [h]
variable {x : Seat} {asid : Nat} (h : s.rootAsid vf = some (x, asid))
include h
theorem vfRequest_fault (hp : s.barPlaces asid (if wr.isSome then .write else .read) (barBytes wr len) off = none) : s.vfRequest vf off wr (barBytes wr len) =
    (s.logEvent x.num 33 ((x.coreList.head?).getD 0) (s.oclk x.num) (BitVec.ofNat 64 off)).reportError vf 15 := by
  unfold State.vfRequest
  rw [h]
  dsimp only
  cases wr <;> (simp only [barBytes, Option.map_some, Option.map_none, Option.getD_some, Option.getD_none] at hp ⊢; rw [hp])
theorem vfRequest_places {l : List Phys} (hp : s.barPlaces asid (if wr.isSome then .write else .read) (barBytes wr len) off = some l) :
    s.vfRequest vf off wr (barBytes wr len) = barVisit s wr l := by
  unfold State.vfRequest
  rw [h]
  dsimp only
  cases wr <;> (simp only [barBytes, Option.map_some, Option.map_none, Option.getD_some, Option.getD_none] at hp ⊢; rw [hp]; rfl)
end Bar

/-! ### Peer requests (R413) -/

/-- The test of a peer request: its port is Up, and an open window of it holds every byte and permits the kind. -/
theorem inbound_open (s : State) (port a n : Nat) (kind : Inbound) : ((s.host.links[port]?).any (fun l => l.1 == 2) && decide (a + n ≤ Config.deviceBytes)
      && s.windows.any fun (w : Window) => w.port == port && decide (w.base ≤ a ∧ a + n ≤ w.base + w.len) && (match kind with
        | .read => w.rd
        | _ => w.wr)) = true ↔
    (∃ l, s.host.links[port]? = some l ∧ l.1 = 2) ∧ a + n ≤ Config.deviceBytes
      ∧ ∃ w ∈ s.windows, w.port = port ∧ w.base ≤ a ∧ a + n ≤ w.base + w.len ∧ (if kind = .read then w.rd = true else w.wr = true) := by
  have hlink : (s.host.links[port]?).any (fun l => l.1 == 2) = true ↔ ∃ l, s.host.links[port]? = some l ∧ l.1 = 2 := by
    cases s.host.links[port]? <;> simp
  rw [Bool.and_eq_true, Bool.and_eq_true, hlink, decide_eq_true_iff, List.any_eq_true, and_assoc]
  refine and_congr Iff.rfl (and_congr Iff.rfl (exists_congr fun w => and_congr Iff.rfl ?_))
  cases kind <;> simp [and_assoc]

/-- LINKSTAT of a port (R410). -/
theorem readReg_linkstat {u : State} {p : Nat} (h8 : p < 8) {st peer : Nat} (hl : u.host.links[p]? = some (st, peer)) :
    u.readReg (0x1100 + 8 * p) = BitVec.ofNat 64 (peer % 256 * 256 + st % 4) := by
  have hp : (0x1100 + 8 * p - 0x1100) / 8 = p := by omega
  unfold State.readReg
  rw [if_neg (by omega), if_neg (by omega), if_neg (by omega), if_neg (by omega), if_pos (by omega), hp, hl]
  rfl

/-- Settles O50: each row is its event's function, taken apart by cases on what it finds; the requests of a host or peer access are made line by line,
and a GO's message is handled in time because its delay is taken below the end of the next frame. -/
theorem deviceEventsAct : Obligations.DeviceEventsAct := by
  unfold Obligations.DeviceEventsAct
  intro s
  refine ⟨?_, ?_, ?_, ?_, ?_, ?_, ?_, ?_, ?_, ?_, ?_, ?_, ?_, ?_⟩
  case refine_1 => -- a page's move
    intro asid va frame hev
    have hrow : exec .pageMigration s = .next (s.migrate asid va frame) := Laws.runEvent_next hev rfl
    rw [hrow]
    refine ⟨fun level w a hw => ⟨fun hm => congrArg _ (migrate_leaf_stays hw hm), fun u hm hu => congrArg _ (migrate_leaf_moves hw hm hu)⟩,
      fun level w a hw ok hok => ?_, fun h => congrArg _ (migrate_else h)⟩
    rw [migrate_absent hw, ← hok]
    refine ⟨fun h => congrArg _ (if_neg (by simp [h])), fun h hq => congrArg _ ((if_pos h).trans (if_neg (by simp [hq]))), fun h hq => congrArg _ ((if_pos h).trans (if_pos hq))⟩
  case refine_2 => -- the sweep of heats
    intro hev l hl
    have hrow : exec .heatSweep s = .next s.sweep := Laws.runEvent_next hev rfl
    unfold State.sweep at hrow
    dsimp only at hrow
    rw [← hl] at hrow
    refine ⟨hrow, fun h => ?_⟩
    rw [hrow, h]
    rfl
  case refine_3 => -- a write of a register
    intro off v hev
    have hrow : exec .registerWrite s = .next (s.writeReg off v) := Laws.runEvent_next hev rfl
    rw [hrow]
    refine ⟨fun h h' => congrArg _ (writeReg_mbin h h'), fun h h' u hu => ?_, fun h => congrArg _ (writeReg_other h)⟩
    have hbusy : u.host.busy = s.host.busy := by rw [hu]
    have hin : u.host.mbin = s.host.mbin := by rw [hu]
    rw [writeReg_control h h' hu]
    refine ⟨fun hno => ?_, fun hgo hfree => ?_⟩
    · rcases hno with hno | hno
      · rw [if_neg (Bool.eq_false_iff.1 hno)]
      · rw [goMail_busy (hbusy.trans hno), ite_self]
    · rw [if_pos hgo, goMail_free (hbusy.trans hfree), hin]
      obtain ⟨l, k, hsend, hroom⟩ := sendMail_eq ({ u with draws := u.draws + 1 } : State) { core := 1, words := s.host.mbin, frame := u.g / Config.frame }
      rw [hsend]
      subst hu
      refine ⟨_, _, rfl, rfl, ?_, fun m hm full hfull => ?_, rfl, rfl, rfl, rfl, fun he => mailDelay_frame he⟩
      · dsimp only
        omega
      · subst hm
        exact hroom full hfull
  case refine_4 => -- a power evaluation
    intro watts bands hev u hu hot hhot
    have hlook : exec .powerEvaluation s = .next (if (bands.any fun b => b == 7) = true ∨ u.power.cap < watts then
        (if u.floorStep < u.power.step then u.at (nextFrame (u.g + 1)) (.clockStepChange false) else u)
      else if 100 * watts < 95 * u.power.cap ∧ (bands.all fun b => decide (b ≤ 5)) = true ∧ u.power.step < 15 then
        ({ u with power := { u.power with may := true } } : State).at (nextFrame (u.g + 1)) (.clockStepChange true)
      else u) := by
      rw [hu]
      exact Laws.runEvent_next hev rfl
    have hiff : ((bands.any fun b => b == 7) = true ∨ u.power.cap < watts) ↔ hot = true := by
      rw [hhot, Bool.or_eq_true, decide_eq_true_iff]
    rw [hlook]
    simp only [hiff]
    refine ⟨fun h hs => ?_, fun h hs => ?_, fun h hw hb hs => ?_, fun h hno => ?_⟩
    · rw [if_pos h, if_pos hs]
    · rw [if_pos h, if_neg (Nat.not_lt.2 hs)]
    · rw [if_neg (by simp [h]), if_pos ⟨hw, hb, hs⟩]
    · rw [if_neg (by simp [h]), if_neg]
      rintro ⟨hw, hb, hs⟩
      rcases hno with hno | hno | hno
      · exact Nat.not_lt.2 hno hw
      · exact Bool.false_ne_true (hno.symm.trans hb)
      · exact Nat.not_lt.2 hno hs
  case refine_5 => -- a change of the clock step
    intro up hev
    have hrow : exec .clockStepChange s = .next (s.changeStep up) := Laws.runEvent_next hev rfl
    rw [hrow]
    refine ⟨fun h => congrArg _ (if_pos h), fun h hup => ?_, fun h hup => ?_⟩ <;> subst hup
    · exact ⟨fun hs => congrArg _ ((if_neg (not_not.2 h)).trans (if_pos hs)), fun hs => congrArg _ ((if_neg (not_not.2 h)).trans (if_neg (Nat.not_lt.2 hs)))⟩
    · refine ⟨fun hs => congrArg _ ((if_neg (not_not.2 h)).trans (if_pos hs)), fun n hn => congrArg _ ?_⟩
      have hn' : s.power.step - 1 = n := by omega
      unfold State.changeStep
      rw [if_neg (not_not.2 h), if_neg (by simp), if_neg (by omega)]
      dsimp only
      rw [hn']
  case refine_6 => -- the lift of a fence
    intro core isSlot slot hev
    have hrow : exec .fenceLift s = .next (s.liftFence core isSlot slot) := Laws.runEvent_next hev rfl
    rw [hrow]
    refine ⟨fun h => congrArg _ (if_pos (by simpa using h)), fun h hf u hu => ⟨congrArg _ ?_, fun hs => ?_⟩⟩
    · rw [hu]
      exact if_neg (by simp [h, hf])
    · rw [hu, hs]
      simp
  case refine_7 => -- a host request
    intro vf bar off wr len hev n answer error ask
    have hrow : exec .hostBarRequest s = .next (s.barRequest vf bar off wr len) := Laws.runEvent_next hev rfl
    have hout (h : barSize vf bar < off + n ∨ s.link.numVFs < vf) : exec .hostBarRequest s = .next (error s 20) := hrow.trans (congrArg _ (barRequest_outside h))
    refine ⟨fun h => hout (.inr h), fun h0 hb => ?_, fun h0 hb => ?_, fun h0 hb hvf => ?_, fun h0 hb hvf => ?_, fun hb0 hb2 hpos => hout (.inl ?_), fun k l hl hd lines hlines => ?_,
      fun r v u hu hv here hhere got hgot vs hvs t ht => ?_⟩
    · subst h0 hb
      refine ⟨fun h => hout (.inl h), fun h => ⟨fun bs hbs => hrow.trans (congrArg _ ?_), fun hn => hrow.trans (congrArg _ ?_)⟩⟩
      · subst hbs
        exact pfRegisters_write h
      · subst hn
        exact pfRegisters_read h
    · subst h0 hb
      exact ⟨fun h => hout (.inl h), fun h => hrow.trans (congrArg _ (pfMemory h))⟩
    · subst hb
      refine ⟨fun h => hout (.inl ((barSize_function h0).1.symm ▸ h)), fun h => ⟨fun bs hbs => hrow.trans (congrArg _ ?_), fun hn => hrow.trans (congrArg _ ?_)⟩⟩
      · subst hbs
        exact doorbells_write h0 hvf h
      · subst hn
        exact doorbells_read h0 hvf h
    · subst hb
      refine ⟨fun h => hout (.inl ((barSize_function h0).2.symm ▸ h)), fun h => ?_⟩
      have hvfr := hrow.trans (congrArg _ (barRequest_vf h0 hvf ((barSize_function h0).2.symm ▸ h)))
      rw [hvfr]
      exact ⟨fun hr => congrArg _ (vfRequest_none hr), fun x asid l hr hp => congrArg _ (vfRequest_places hr hp), fun x asid hr hp => congrArg _ (vfRequest_fault hr hp)⟩
    · rw [barSize_else hb0 hb2]
      exact hpos
    · refine ⟨s.nextId, ?_⟩
      obtain ⟨qs, hreqs, hplace, hkind, hvisits, hsame⟩ := askLines s.nextId lines { s with
        nextId := s.nextId + 1, visits := s.visits ++ [{ id := s.nextId, kind := k, places := l, got := [], left := lines.length }] }
      rw [visit_dev k hl hd hlines]
      exact ⟨qs, hvisits, hreqs, hplace, hkind, hsame⟩
    · rw [hvs] at ht
      refine ⟨fun bs k a l hk hl => visited_write hu hv hhere hgot ht hk hl, fun hk hleft => ?_, fun hk hleft => ?_⟩
      · rw [visited_read hu hv hhere hgot ht hk, if_neg (Nat.not_le.2 hleft)]
      · rw [visited_read hu hv hhere hgot ht hk, if_pos hleft]
        rfl
  case refine_8 => -- an ATS invalidation
    intro vf p va n hev answer mine
    have hrow : exec .atsInvalidationRequest s = .next (s.atsInvalidate vf p va n) := Laws.runEvent_next hev rfl
    rw [hrow]
    unfold State.atsInvalidate
    refine ⟨fun h => by rw [h]; rfl, fun x hx => ⟨fun hf => ?_, fun e he => ?_⟩⟩ <;> rw [hx] <;> dsimp only
    · have hf' : s.link.inval.find? (fun e => e.1 == vf && e.2.1 == p && e.2.2.1 == va && e.2.2.2.1 == n) = none := hf
      rw [hf']
      refine ⟨fun hb => congrArg _ (if_pos (by simp only [hb]; rfl)), fun u hb hu => ?_⟩
      rw [hu]
      exact congrArg _ (if_neg (by simp only [hb]; decide))
    · have he' : s.link.inval.find? (fun e => e.1 == vf && e.2.1 == p && e.2.2.1 == va && e.2.2.2.1 == n) = some e := he
      rw [he']
      exact ⟨fun hq => congrArg _ (if_pos hq), fun hq => congrArg _ (if_neg (Bool.eq_false_iff.1 hq))⟩
  case refine_9 => -- a peer request
    intro port a len kind hev n answer up hup
    have hrow : exec .colalmInboundRequest s = .next (s.inbound port a len kind) := Laws.runEvent_next hev rfl
    have hopen := (inbound_open s port a n kind).trans hup.symm
    rw [hrow]
    refine ⟨fun h => congrArg _ (if_pos ?_), fun h => congrArg _ (if_neg ?_), fun r v u op w nw b l hu hv hk hp hlast x hx => ?_⟩
    · rw [Bool.not_eq_true']
      exact Bool.eq_false_iff.2 fun ho => Bool.false_ne_true (h.symm.trans (hopen.1 ho))
    · rw [Bool.not_eq_true']
      exact fun ho => Bool.false_ne_true (ho.symm.trans (hopen.2 h))
    · rw [hx]
      exact visited_atomic hu hv hk hp hlast
  case refine_10 => -- a retraining
    intro w r hev
    have hrow : exec .linkRetrain s = .next (if [16, 8, 4].contains w && [128, 64, 32].contains r then s.retrain w r else s) := Laws.runEvent_next hev rfl
    rw [hrow]
    refine ⟨fun hw hr till ht => ?_, fun h => ?_⟩
    · rw [if_pos (by simp only [List.contains_iff_mem, Bool.and_eq_true]; exact ⟨hw, hr⟩), ht]
      rfl
    · rw [if_neg]
      simp only [List.contains_iff_mem, Bool.and_eq_true]
      tauto
  case refine_11 => -- a measurement
    intro i n hev seated
    have hrow : exec .spdmRequest s = .next (if 1 ≤ i ∧ i ≤ 4 then s.report i n (s.measured i) else s) := Laws.runEvent_next hev rfl
    rw [hrow]
    refine ⟨fun h1 h4 m hm => ?_, fun h => by rw [if_neg (by omega)]⟩
    have hmeas : s.measured i = m := by
      unfold State.measured
      rcases hm with ⟨h, rfl⟩ | ⟨h, hs, rfl⟩ | ⟨h, hd, hc, rfl⟩
      · exact if_pos h
      · rw [if_neg h, if_neg hs]
      · rw [if_neg (by omega), if_pos ⟨h, hd, hc⟩]
    rw [if_pos ⟨h1, h4⟩, hmeas]
    rfl
  case refine_12 => -- a status report
    intro hev
    exact ⟨Laws.runEvent_next hev rfl, rfl, statusReply_length s, rfl⟩
  case refine_13 => -- the training of a port
    intro p up peer hev set
    have hrow : exec .colalmTraining s = .next _ := Laws.runEvent_next hev rfl
    rw [hrow]
    refine ⟨fun h => congrArg _ (if_pos h), fun h => congrArg _ (if_neg h), fun hp b u hu h8 => ?_⟩
    have hl : u.host.links[p]? = some (1, b) := by
      rw [hu]
      exact List.getElem?_set_self hp
    rw [readReg_linkstat h8 hl, Nat.mod_eq_of_lt (show 1 < 4 by decide)]
  case refine_14 => -- configuration
    intro vf n v hev
    have hrow : exec .configurationRequest s = .next { s with link := { s.link with
        numVFs := if vf = 0 then min n 63 else s.link.numVFs
        vectors := if vf ≤ 63 then SMap.set 0 s.link.vectors vf (min v 64) else s.link.vectors } } := Laws.runEvent_next hev rfl
    rw [hrow]
    refine ⟨fun h => ?_, fun h h' => ?_, fun h => ?_⟩
    · subst h
      rw [if_pos rfl, if_pos (Nat.zero_le _)]
    · rw [if_neg (by omega), if_pos h']
    · rw [if_neg (by omega), if_neg (by omega)]

end Sys2Proof.Proofs
end
